-- ==== Sys2Proof/Word.lean ====
section
/-! DEFINITION. The word types of the YDP4812 model. -/

namespace Sys2Proof

/-- A byte of memory or of a stream (R19, R25). -/
abbrev Byte := BitVec 8

/-- A Tiller general register, and every 64-bit register (R174). -/
abbrev Word := BitVec 64

/-- A global core number, 8k + c (R171). -/
abbrev CoreId := Fin 128

/-- A general or floating-point register number of a core (R174). -/
abbrev Reg := Fin 32

/-- An instance number (R314). -/
abbrev Inst := Fin 4096

/-- A host link number (R295). -/
abbrev Link := Fin 4

/-- A table from numbers to values, in strictly rising key order; an unlisted key has a default. -/
abbrev Tbl (α : Type) := List (Nat × α)

/-- A floating-point format: bit 5 of func in R178 and R179. -/
inductive FFmt
  | b32
  | b64
  deriving DecidableEq, Repr

end Sys2Proof
end

