-- ==== Sys2Proof/Syntax.lean ====
section
/-! DEFINITION. The commands of the YDP4812 block and their operands, one constructor per opcode-table row. -/

namespace Sys2Proof

/-- The rounding field of FPU and FCVT (R178): a fixed mode, or pstat.RM itself. -/
inductive FRm
  | nearestEven
  | towardZero
  | up
  | down
  | dynamic
  deriving DecidableEq, Repr

/-- Fields of a short-vector R-format instruction (Table 09-1). -/
structure SvOp where
  vd : Reg
  va : Reg
  vb : Reg := 0
  q : Bool
  esz : Fin 4
  deriving DecidableEq, Repr

/-- Fields of a long-vector instruction (R208). -/
structure LvOp where
  rd : Reg
  ra : Reg
  rb : Reg
  rc : Reg
  esz : Fin 4
  deriving DecidableEq, Repr

/-- Where a VDP message came from: the field network (source address and port) or a link's mailbox (R429, R439). -/
inductive VdpSrc
  | field (addr : List Byte) (port : Nat)
  | mailbox (link : Link)
  deriving DecidableEq, Repr

/-- The parts of a VDP WRITE request beside its index, subindex and value (R431). -/
structure VdpWrite where
  src : VdpSrc
  txn : Nat
  principal : Nat := 0
  counter : Nat := 0
  tag : List Byte := []
  deriving DecidableEq, Repr

/-- A mirror record (Table 20-7); a journal entry is its 64 bytes (Table 20-6). -/
inductive MRec
  | entry (bytes : List Byte)
  | post (bytes : List Byte)
  | retire (inst sq asn : Nat)
  /-- A queue's definition: its fields in the order of Table 14-5 for its kind; empty when deleted. -/
  | queueDef (inst : Nat) (cq : Bool) (q : Nat) (fields : List Nat)
  /-- An SQ's written-back head as a position, or a CQ_HEAD value. -/
  | queuePos (inst : Nat) (cq : Bool) (q pos : Nat)
  /-- An instance's STATE and attributes by subindex. -/
  | instAttrs (inst : Nat) (attrs : List (Nat × Nat))
  /-- A secured counter, with the value of PAIR_POLICY that its write carries, if it is one (R437). -/
  | floorCounter (principal counter : Nat) (policy : Option Nat)
  /-- A leadership epoch, with the sender's PAIR_POLICY (R437). -/
  | floorEpoch (epoch policy : Nat)
  | ack (highest : Nat)
  deriving DecidableEq, Repr

/-- A mirror record as it travels: its number, whether it hands the receiver's own state back (Table 20-8 step 3),
and the record. -/
structure MItem where
  num : Nat
  back : Bool := false
  /-- Place in an exchange of SYNCING: 1 the first record of a whole state, 2 the last record sent; else 0. -/
  place : Nat := 0
  body : MRec
  deriving DecidableEq, Repr

/-- A DATA flit as it arrives (Tables 20-2, 20-3): the records completed by its payload, in order. -/
structure Flit where
  crcOk : Bool := true
  seq : Nat
  ack : Nat
  recs : List MItem
  deriving DecidableEq, Repr

/-- A HEARTBEAT flit's payload (Table 20-4). -/
structure HeartBeat where
  crcOk : Bool := true
  ack : Nat := 0
  serial : Nat
  pairId : Nat
  epoch : Nat
  side : Nat
  role : Nat
  pairState : Nat
  mode : Nat
  intact : Bool
  kept : Bool
  hbSeq : Nat
  deriving DecidableEq, Repr

/-- A claim of leadership (R412, R438). -/
structure ClaimMsg where
  epoch : Nat
  side : Nat
  serial : Nat
  pairId : Nat
  deriving DecidableEq, Repr

/-- A RoCEv2 message as its packets arrive on a port (R143, R147): the PSN is that of its first packet. -/
structure Pkt where
  port : Fin 4
  /-- Destination IP address, IPv4 written as an IPv4-mapped IPv6 address. -/
  dst : Nat
  qpn : Nat
  psn : Nat := 0
  /-- A packet is marked CE. -/
  ce : Bool := false
  /-- MigReq is set. -/
  mig : Bool := false
  /-- It uses an unsupported operation or breaks the transport rules of its queue pair (R144). -/
  broken : Bool := false
  /-- It finds the network receive buffer full (R148; log entry 48). -/
  full : Bool := false
  deriving DecidableEq, Repr

/-- How a message reaches a queue pair: from the network, or over the Sheaf fabric from a queue pair of this device. -/
inductive Arrival
  | wire (p : Pkt)
  | fabric
  deriving DecidableEq, Repr

/-- An RC NAK (R143, R144, R146, R157). -/
inductive NakCode
  | rnr (delay : Nat)
  | sequence
  | invalidRequest
  | remoteAccess
  deriving DecidableEq, Repr

/-- A frame that is not RoCEv2 (R142, R147). -/
inductive Frame
  | arp (target : Nat)
  | neighbour (target : Nat)
  | echo (target : Nat) (payload : List Byte)
  | echoReply
  | pause
  | other
  /-- A frame that finds the network receive buffer full (R148; log entry 48). -/
  | overrun
  deriving DecidableEq, Repr

/-- What a port shows in one 10 µs fitness window (R151). -/
structure PortWindow where
  link : Bool
  sym : Nat
  unc : Nat
  /-- Lane-to-lane skew beyond 80 % of the deskew capacity. -/
  skewed : Bool
  deriving DecidableEq, Repr

/-- What ECC finds in a codeword that is read (R288). -/
inductive Ecc
  | ok
  | corrected
  | uncorrectable
  deriving DecidableEq, Repr

/-- What a channel's SPD says of its DIMMs (R276), with RAAIMT and RAAMMT where their mode registers ask for refresh
management (R283). -/
structure Spd where
  dimmType : Nat
  dimms : Nat
  ranks : Nat
  density : Nat
  rate : Nat
  bytes : Nat
  raa : Option (Nat × Nat) := none
  deriving DecidableEq, Repr

/-- A reference clock (Table 25-8). -/
inductive RefClk
  | timeref
  | eth
  | kol
  | cxl (port : Fin 2)
  deriving DecidableEq, Repr

/-- A TAP instruction (R490). -/
inductive TapIr
  | bypass
  | idcode
  | samplePreload
  | extest
  /-- An instruction code the TAP does not implement. -/
  | other
  deriving DecidableEq, Repr

/-- A field-network frame that is neither a VDP request nor a claim (R425). -/
inductive MgmtFrame
  /-- A neighbour solicitation for an IPv6 address. -/
  | neighbour (target : List Byte)
  /-- An ICMPv6 echo request to an address. -/
  | echo (target : List Byte) (payload : List Byte)
  /-- A UDP datagram to a port of the device. -/
  | datagram (src : VdpSrc) (port : Nat) (payload : List Byte)
  | other
  deriving DecidableEq, Repr

/-- The fuse fields of Table 23-2. A blank digest or owner key is all zero. -/
structure Fuses where
  serial : Nat := 0
  mac : List Byte := List.replicate 6 0
  orderCode : Nat := 1
  units : Nat := 0x1fff3fff0fff0fffffffffffffffffffffffffffffffffff
  digest : List Byte := List.replicate 48 0
  ownerKey : List Byte := List.replicate 32 0
  /-- SRAM_ASSIST, SPEED_CAL and SENSOR_TRIM: trims whose use the spec leaves to the circuits (R454, R465; log entry 68). -/
  sramAssist : Nat := 0
  speedCal : Nat := 0
  sensorTrim : Nat := 0
  /-- The last 64 fuse bits, which lock fields; the spec does not say which bit locks which field (R465). -/
  lockBits : Nat := 0
  /-- OWNER_KEY and BOOT_KEY_DIGEST have been programmed: each is written once (R383, R466). -/
  ownerWritten : Bool := false
  digestWritten : Bool := false
  deriving DecidableEq, Repr

/-- A fuse word that reads as uncorrectable (R465). -/
inductive FuseError
  | serial
  | mac
  | otherField
  deriving DecidableEq, Repr

/-- A copy of the configuration image in flash (R467): its bytes from offset 0, and the 16 bytes of its commit marker. -/
structure FlashCopy where
  bytes : List Byte := []
  marker : List Byte := []
  deriving DecidableEq, Repr

/-- Registers of a function that a configuration request reads or writes, of the features of Table 14-1: VFs enabled, ATS
enable, MSI-X control (bit 0 enable, bit 1 function mask), maximum payload size in bytes. -/
inductive CfgReg
  | vfEnable
  | atsEnable
  | msixControl
  | maxPayload
  deriving DecidableEq, Repr

/-- A CXL.io request to a function: a read or write of a configuration register, a read of 8 bytes of its doorbell page, a read
or write of an MSI-X table entry, a read of a vector's pending bit, a message of IDE_KM over DOE (R294, Tables 14-1, 14-2). -/
inductive IoAccess
  | cfgRead (reg : CfgReg)
  | cfgWrite (reg : CfgReg) (value : Nat)
  | pageRead (offset : Nat)
  | vectorRead (vector : Fin 2048)
  | vectorWrite (vector : Fin 2048) (address data : Nat) (masked : Bool)
  | pendingRead (vector : Fin 2048)
  | keyProgram (key : List Byte)
  | keyGo
  | keyStop
  deriving DecidableEq, Repr

/-- A command block of 64 bytes and the CMD_GO writes that come while it runs, each discarded and counted (R310). -/
structure CmdRun where
  block : List Byte
  again : Nat := 0
  deriving DecidableEq, Repr

/-- A turn of a DEFLATE stage: its task slot, and a bit of the blocks that the encoder got wrong, if it did (R361). -/
structure DeflateTurn where
  slot : Nat
  flaw : Option Nat := none
  deriving DecidableEq, Repr

/-- A CXL.io request and the function it goes to. -/
structure IoRequest where
  function : Inst
  access : IoAccess
  deriving DecidableEq, Repr

/-- A background parity pass: rows, by bank and row, that it finds with an error, and rows that take one after it (R398). -/
structure ParityPass where
  errors : List (Nat × Nat) := []
  upsets : List (Nat × Nat) := []
  deriving DecidableEq, Repr

/-- The BEACON seen or lost, and whether the field network's link is up (R413, R424). -/
structure PlcaTurn where
  seen : Bool
  link : Bool
  deriving DecidableEq, Repr

/-- The commands of the block: one constructor per row of spec/opcode_table.json. -/
inductive Instr
  /-- SQ_TAIL_WRITE (R300): Software writes an SQ_TAIL doorbell, extending the work visible to admission or being discarded if out of range. -/
  | sqTailWrite (link : Link) (inst : Inst) (q : Fin 16) (size : Nat) (value : Nat) (stored : List (Nat × List Byte))
  /-- CQ_HEAD_WRITE (R300): Software writes CQ_HEAD, freeing the completion entries before it and any error-record slots they held. -/
  | cqHeadWrite (link : Link) (inst : Inst) (q : Fin 16) (size : Nat) (value : Nat)
  /-- FAULT_HEAD_WRITE (R267): Software writes FAULT_HEAD, advancing the fault queue head and letting fault records that were waiting be written. -/
  | faultHeadWrite (link : Link) (inst : Inst) (size : Nat) (value : Nat)
  /-- FAULT_RETRY (R268): A FAULT_RESOLVE write with ACTION RETRY sets FAULT on the parked task so that it resumes at its boundary. -/
  | faultRetry (link : Link) (inst : Inst) (size : Nat) (value : Nat)
  /-- FAULT_FAIL (R268): A FAULT_RESOLVE write with ACTION FAIL fails the job with TRANSLATION_FAULT at once. -/
  | faultFail (link : Link) (inst : Inst) (size : Nat) (value : Nat)
  /-- CREATE_CQ (R310): Queue command that creates a completion queue. -/
  | createCq (link : Link) (inst : Inst) (cmd : CmdRun)
  /-- CREATE_SQ (R310): Queue command that creates a host or network submission queue bound to a CQ. -/
  | createSq (link : Link) (inst : Inst) (cmd : CmdRun)
  /-- DELETE_SQ (R310): Queue command that deletes an SQ, refused with IN_USE while the SQ has unfinished jobs or a bound SUBMIT queue pair. -/
  | deleteSq (link : Link) (inst : Inst) (cmd : CmdRun)
  /-- DELETE_CQ (R310): Queue command that deletes a CQ, refused with IN_USE while an SQ is bound to it. -/
  | deleteCq (link : Link) (inst : Inst) (cmd : CmdRun)
  /-- CREATE_QP (R310): Queue command that creates a queue pair with its USE, within the QP quota. -/
  | createQp (link : Link) (inst : Inst) (cmd : CmdRun)
  /-- CONNECT_QP (R310): Queue command that connects a queue pair to its remote peer, its planes and its ports, and writes its classifier entry. -/
  | connectQp (link : Link) (inst : Inst) (cmd : CmdRun)
  /-- DESTROY_QP (R310): Queue command that destroys a queue pair, failing every stage that uses it. -/
  | destroyQp (link : Link) (inst : Inst) (cmd : CmdRun)
  /-- REGISTER_REGION (R310): Queue command that registers a memory region and returns its remote key. -/
  | registerRegion (link : Link) (inst : Inst) (cmd : CmdRun)
  /-- DEREGISTER_REGION (R310): Queue command that deregisters a remote key once every access using it has been performed. -/
  | deregisterRegion (link : Link) (inst : Inst) (cmd : CmdRun)
  /-- QUERY (R310): Queue command that returns the head, tail and state of a queue. -/
  | query (link : Link) (inst : Inst) (cmd : CmdRun)
  /-- NOP (R301): Admission takes a NOP descriptor, which is accepted and completes with OK. -/
  | nop (inst : Inst) (sq : Fin 16)
  /-- PLAN (R67): Admission takes a PLAN descriptor, checks it and its plan image, assigns an ASN, writes the journal entry and sends its ENTRY record. -/
  | plan (inst : Inst) (sq : Fin 16)
  /-- CANCEL (R304): Admission takes a CANCEL descriptor, which acts on its target job at the moment it is accepted. -/
  | cancel (inst : Inst) (sq : Fin 16)
  /-- SPILL_RESERVATION (R69): A descriptor that waited at the end of step 2 takes its spill reservation once spill space is free. -/
  | spillReservation (inst : Inst) (sq : Fin 16)
  /-- SQ_HEAD_WRITEBACK (R307): The device writes a host SQ's head and pass to the head location, within 2 µs of the head advancing. -/
  | sqHeadWriteback (inst : Inst) (sq : Fin 16)
  /-- PLACE_PHASE (R239): The Granary places the first waiting phase whose units and task slots are all free, binding its stages and opening its exchange zones. -/
  | placePhase
  /-- PLACE_URGENT (R239): A phase that has waited more than PLACE_URGENT_TICKS begins to reserve the units it needs. -/
  | placeUrgent
  /-- STREAM_TRANSFER (R19): One transfer is handed over on a Sheaf stream link. -/
  | streamTransfer (slot : Nat) (port : Nat)
  /-- END_OF_STREAM (R66): A producer ends a stream with the end-of-stream handshake. -/
  | endOfStream (slot : Nat) (port : Nat)
  /-- STAGE_FINISH (R66): A stage finishes; its unit is released, and its phase and job may finish with it. -/
  | stageFinish (slot : Nat)
  /-- COMPLETION_POST (R22): The reorder stage posts a completion once lower ASNs are posted and the CQ and an error-record slot have room, sending POST first while PAIRED. -/
  | completionPost (inst : Inst) (sq : Fin 16)
  /-- COALESCE_TIMEOUT (R308): COAL_TIME expires after the first unsignalled entry and the CQ's MSI-X is sent. -/
  | coalesceTimeout (inst : Inst) (cq : Fin 16)
  /-- DEADLINE (R303): A job's DEADLINE expires and the job fails with DEADLINE_MISSED. -/
  | deadline (inst : Inst) (sq : Fin 16) (asn : Nat)
  /-- TICK (R252): A Granary tick boundary passes: the governor runs, PASS counts rise, and budgets and dispatch are re-evaluated. -/
  | tick (mfp : BitVec 8)
  /-- BUDGET_URGENT (R248): A READY task's PASS count exceeds BUDGET_URGENT_TICKS; the task becomes budget-urgent and lower-priority tasks are pre-empted for it. -/
  | budgetUrgent (slot : Nat)
  /-- ZONE_DISPATCH (R246): A zone walks its READY tasks and dispatches each one that fits the headroom. -/
  | zoneDispatch (zone : Fin 16)
  /-- TASK_STOPPED (R254): A unit reports that a pre-empted task has stopped, releasing its budget. -/
  | taskStopped (slot : Nat)
  /-- WAIT (R251): Granary operation by which a task waits on event flags, with or without a timeout. -/
  | wait (slot : Nat) (mask : BitVec 32) (all : Bool) (n : Nat)
  /-- SIGNAL (R251): Granary operation that sets event flags of a task slot, satisfying any wait on them. -/
  | signal (sender : Option Nat) (slot : Nat) (flags : BitVec 32)
  /-- DELAY (R251): Granary operation by which a task enters DELAYED for n ticks. -/
  | delay (slot : Nat) (n : Nat)
  /-- CLEAR (R251): Granary operation that clears the task's own masked flags. -/
  | clear (slot : Nat) (mask : BitVec 32)
  /-- WAIT_TIMEOUT (R251): A WAIT's timeout expires at its tick boundary and the task becomes READY. -/
  | waitTimeout (slot : Nat)
  /-- DELAY_EXPIRY (R251): A DELAY's tick count expires and the task becomes READY. -/
  | delayExpiry (slot : Nat)
  /-- AVS_RESPONSE (R455): The regulator acknowledges an AVSBus request or fails to, so that the request is retried or counted. -/
  | avsResponse (ok : Bool)
  /-- INTERRUPT_TAKEN (R193): A pending DISPATCH, PREEMPT, EVENT or MESSAGE interrupt is taken at an instruction or element-group boundary. -/
  | interruptTaken (core : CoreId)
  /-- IMPRECISE_ARITHMETIC (R191): A pending imprecise ARITHMETIC exception is taken after later instructions. -/
  | impreciseArithmetic (core : CoreId)
  /-- ILLEGAL_INSTRUCTION (R177): An instruction word with an illegal, reserved or unassigned encoding is executed. -/
  | illegalInstruction (core : CoreId) (word : BitVec 32)
  /-- ALU_ADD (R178): ALU ADD instruction. -/
  | aluAdd (core : CoreId) (rd ra rb : Reg)
  /-- ALU_SUB (R178): ALU SUB instruction. -/
  | aluSub (core : CoreId) (rd ra rb : Reg)
  /-- ALU_AND (R178): ALU AND instruction. -/
  | aluAnd (core : CoreId) (rd ra rb : Reg)
  /-- ALU_OR (R178): ALU OR instruction. -/
  | aluOr (core : CoreId) (rd ra rb : Reg)
  /-- ALU_XOR (R178): ALU XOR instruction. -/
  | aluXor (core : CoreId) (rd ra rb : Reg)
  /-- ALU_SLL (R178): ALU SLL instruction. -/
  | aluSll (core : CoreId) (rd ra rb : Reg)
  /-- ALU_SRL (R178): ALU SRL instruction. -/
  | aluSrl (core : CoreId) (rd ra rb : Reg)
  /-- ALU_SRA (R178): ALU SRA instruction. -/
  | aluSra (core : CoreId) (rd ra rb : Reg)
  /-- ALU_SLT (R178): ALU SLT instruction. -/
  | aluSlt (core : CoreId) (rd ra rb : Reg)
  /-- ALU_SLTU (R178): ALU SLTU instruction. -/
  | aluSltu (core : CoreId) (rd ra rb : Reg)
  /-- ALU_MIN (R178): ALU MIN instruction. -/
  | aluMin (core : CoreId) (rd ra rb : Reg)
  /-- ALU_MAX (R178): ALU MAX instruction. -/
  | aluMax (core : CoreId) (rd ra rb : Reg)
  /-- ALU_MINU (R178): ALU MINU instruction. -/
  | aluMinu (core : CoreId) (rd ra rb : Reg)
  /-- ALU_MAXU (R178): ALU MAXU instruction. -/
  | aluMaxu (core : CoreId) (rd ra rb : Reg)
  /-- ALU_ROTL (R178): ALU ROTL instruction. -/
  | aluRotl (core : CoreId) (rd ra rb : Reg)
  /-- ALU_CLZ (R178): ALU CLZ instruction. -/
  | aluClz (core : CoreId) (rd ra : Reg)
  /-- ALUW_ADD (R178): 32-bit ALUW ADD instruction. -/
  | aluwAdd (core : CoreId) (rd ra rb : Reg)
  /-- ALUW_SUB (R178): 32-bit ALUW SUB instruction. -/
  | aluwSub (core : CoreId) (rd ra rb : Reg)
  /-- ALUW_AND (R178): 32-bit ALUW AND instruction. -/
  | aluwAnd (core : CoreId) (rd ra rb : Reg)
  /-- ALUW_OR (R178): 32-bit ALUW OR instruction. -/
  | aluwOr (core : CoreId) (rd ra rb : Reg)
  /-- ALUW_XOR (R178): 32-bit ALUW XOR instruction. -/
  | aluwXor (core : CoreId) (rd ra rb : Reg)
  /-- ALUW_SLL (R178): 32-bit ALUW SLL instruction. -/
  | aluwSll (core : CoreId) (rd ra rb : Reg)
  /-- ALUW_SRL (R178): 32-bit ALUW SRL instruction. -/
  | aluwSrl (core : CoreId) (rd ra rb : Reg)
  /-- ALUW_SRA (R178): 32-bit ALUW SRA instruction. -/
  | aluwSra (core : CoreId) (rd ra rb : Reg)
  /-- ALUW_SLT (R178): 32-bit ALUW SLT instruction. -/
  | aluwSlt (core : CoreId) (rd ra rb : Reg)
  /-- ALUW_SLTU (R178): 32-bit ALUW SLTU instruction. -/
  | aluwSltu (core : CoreId) (rd ra rb : Reg)
  /-- ALUW_MIN (R178): 32-bit ALUW MIN instruction. -/
  | aluwMin (core : CoreId) (rd ra rb : Reg)
  /-- ALUW_MAX (R178): 32-bit ALUW MAX instruction. -/
  | aluwMax (core : CoreId) (rd ra rb : Reg)
  /-- ALUW_MINU (R178): 32-bit ALUW MINU instruction. -/
  | aluwMinu (core : CoreId) (rd ra rb : Reg)
  /-- ALUW_MAXU (R178): 32-bit ALUW MAXU instruction. -/
  | aluwMaxu (core : CoreId) (rd ra rb : Reg)
  /-- ALUW_ROTL (R178): 32-bit ALUW ROTL instruction. -/
  | aluwRotl (core : CoreId) (rd ra rb : Reg)
  /-- ALUW_CLZ (R178): 32-bit ALUW CLZ instruction. -/
  | aluwClz (core : CoreId) (rd ra : Reg)
  /-- MUL (R178): MULDIV MUL instruction. -/
  | mul (core : CoreId) (rd ra rb : Reg)
  /-- MULH (R178): MULDIV MULH instruction. -/
  | mulh (core : CoreId) (rd ra rb : Reg)
  /-- MULHU (R178): MULDIV MULHU instruction. -/
  | mulhu (core : CoreId) (rd ra rb : Reg)
  /-- DIV (R178): MULDIV DIV instruction; division by zero sets IDZ. -/
  | div (core : CoreId) (rd ra rb : Reg)
  /-- DIVU (R178): MULDIV DIVU instruction. -/
  | divu (core : CoreId) (rd ra rb : Reg)
  /-- REM (R178): MULDIV REM instruction. -/
  | rem (core : CoreId) (rd ra rb : Reg)
  /-- REMU (R178): MULDIV REMU instruction. -/
  | remu (core : CoreId) (rd ra rb : Reg)
  /-- CHK_ADD (R178): Checked signed ADD instruction, which raises ARITHMETIC on overflow. -/
  | chkAdd (core : CoreId) (rd ra rb : Reg)
  /-- CHK_SUB (R178): Checked signed SUB instruction. -/
  | chkSub (core : CoreId) (rd ra rb : Reg)
  /-- CHK_MUL (R178): Checked signed MUL instruction. -/
  | chkMul (core : CoreId) (rd ra rb : Reg)
  /-- FADD (R178): Scalar floating-point FADD instruction. -/
  | fadd (core : CoreId) (rd ra rb : Reg) (fmt : FFmt) (rm : FRm)
  /-- FSUB (R178): Scalar floating-point FSUB instruction. -/
  | fsub (core : CoreId) (rd ra rb : Reg) (fmt : FFmt) (rm : FRm)
  /-- FMUL (R178): Scalar floating-point FMUL instruction. -/
  | fmul (core : CoreId) (rd ra rb : Reg) (fmt : FFmt) (rm : FRm)
  /-- FDIV (R178): Scalar floating-point FDIV instruction. -/
  | fdiv (core : CoreId) (rd ra rb : Reg) (fmt : FFmt) (rm : FRm)
  /-- FSQRT (R178): Scalar floating-point FSQRT instruction. -/
  | fsqrt (core : CoreId) (rd ra : Reg) (fmt : FFmt) (rm : FRm)
  /-- FMIN (R178): Scalar floating-point FMIN instruction. -/
  | fmin (core : CoreId) (rd ra rb : Reg) (fmt : FFmt) (rm : FRm)
  /-- FMAX (R178): Scalar floating-point FMAX instruction. -/
  | fmax (core : CoreId) (rd ra rb : Reg) (fmt : FFmt) (rm : FRm)
  /-- FMAC (R178): Scalar fused multiply-accumulate instruction. -/
  | fmac (core : CoreId) (rd ra rb : Reg) (fmt : FFmt) (rm : FRm)
  /-- LRX (R182): Load-reserved instruction, which sets a reservation on the 128-byte line. -/
  | lrx (core : CoreId) (rd ra : Reg)
  /-- SCX (R182): Store-conditional instruction, which stores only if the reservation holds. -/
  | scx (core : CoreId) (rd ra rb : Reg)
  /-- FTOI (R179): FCVT instruction converting a float to a signed integer. -/
  | ftoi (core : CoreId) (rd ra : Reg) (fmt : FFmt) (rm : FRm)
  /-- FTOU (R179): FCVT instruction converting a float to an unsigned integer. -/
  | ftou (core : CoreId) (rd ra : Reg) (fmt : FFmt) (rm : FRm)
  /-- ITOF (R179): FCVT instruction converting a signed integer to a float. -/
  | itof (core : CoreId) (rd ra : Reg) (fmt : FFmt) (rm : FRm)
  /-- UTOF (R179): FCVT instruction converting an unsigned integer to a float. -/
  | utof (core : CoreId) (rd ra : Reg) (fmt : FFmt) (rm : FRm)
  /-- FTOF (R179): FCVT instruction converting between binary32 and binary64. -/
  | ftof (core : CoreId) (rd ra : Reg) (fmt : FFmt) (rm : FRm)
  /-- FINT (R179): FCVT instruction rounding a float to an integral value. -/
  | fint (core : CoreId) (rd ra : Reg) (fmt : FFmt) (rm : FRm)
  /-- FBITS (R179): FCVT instruction moving f bits to a g register. -/
  | fbits (core : CoreId) (rd ra : Reg)
  /-- GBITS (R179): FCVT instruction moving g bits to an f register. -/
  | gbits (core : CoreId) (rd ra : Reg)
  /-- FEQ (R179): Quiet FCMP equality instruction. -/
  | feq (core : CoreId) (rd ra rb : Reg) (fmt : FFmt)
  /-- FLT (R179): Signalling FCMP less-than instruction. -/
  | flt (core : CoreId) (rd ra rb : Reg) (fmt : FFmt)
  /-- FLE (R179): Signalling FCMP less-or-equal instruction. -/
  | fle (core : CoreId) (rd ra rb : Reg) (fmt : FFmt)
  /-- FLTQ (R179): Quiet FCMP less-than instruction. -/
  | fltq (core : CoreId) (rd ra rb : Reg) (fmt : FFmt)
  /-- FLEQ (R179): Quiet FCMP less-or-equal instruction. -/
  | fleq (core : CoreId) (rd ra rb : Reg) (fmt : FFmt)
  /-- FUNORD (R179): Quiet FCMP unordered instruction. -/
  | funord (core : CoreId) (rd ra rb : Reg) (fmt : FFmt)
  /-- FCLASS (R179): FCMP instruction returning the class code of a float. -/
  | fclass (core : CoreId) (rd ra : Reg) (fmt : FFmt)
  /-- ADDI (R180): Add-immediate instruction. -/
  | addi (core : CoreId) (rd ra : Reg) (imm : BitVec 16)
  /-- ANDI (R180): AND-immediate instruction. -/
  | andi (core : CoreId) (rd ra : Reg) (imm : BitVec 16)
  /-- ORI (R180): OR-immediate instruction. -/
  | ori (core : CoreId) (rd ra : Reg) (imm : BitVec 16)
  /-- XORI (R180): XOR-immediate instruction. -/
  | xori (core : CoreId) (rd ra : Reg) (imm : BitVec 16)
  /-- LUI (R180): Load-upper-immediate instruction. -/
  | lui (core : CoreId) (rd : Reg) (imm : BitVec 16)
  /-- SLTI (R180): Set-less-than-immediate instruction. -/
  | slti (core : CoreId) (rd ra : Reg) (imm : BitVec 16)
  /-- SLLI (R180): SHIFTI logical left shift instruction. -/
  | slli (core : CoreId) (rd ra : Reg) (w : Bool) (count : Fin 64)
  /-- SRLI (R180): SHIFTI logical right shift instruction. -/
  | srli (core : CoreId) (rd ra : Reg) (w : Bool) (count : Fin 64)
  /-- SRAI (R180): SHIFTI arithmetic right shift instruction. -/
  | srai (core : CoreId) (rd ra : Reg) (w : Bool) (count : Fin 64)
  /-- ROTLI (R180): SHIFTI rotate-left instruction. -/
  | rotli (core : CoreId) (rd ra : Reg) (w : Bool) (count : Fin 64)
  /-- LB (R180): Sign-extending byte load instruction. -/
  | lb (core : CoreId) (rd ra : Reg) (imm : BitVec 16)
  /-- LH (R180): Sign-extending halfword load instruction. -/
  | lh (core : CoreId) (rd ra : Reg) (imm : BitVec 16)
  /-- LW (R180): Sign-extending word load instruction. -/
  | lw (core : CoreId) (rd ra : Reg) (imm : BitVec 16)
  /-- LD (R180): Doubleword load instruction. -/
  | ld (core : CoreId) (rd ra : Reg) (imm : BitVec 16)
  /-- LBU (R180): Zero-extending byte load instruction. -/
  | lbu (core : CoreId) (rd ra : Reg) (imm : BitVec 16)
  /-- LHU (R180): Zero-extending halfword load instruction. -/
  | lhu (core : CoreId) (rd ra : Reg) (imm : BitVec 16)
  /-- LWU (R180): Zero-extending word load instruction. -/
  | lwu (core : CoreId) (rd ra : Reg) (imm : BitVec 16)
  /-- LDA (R181): Acquire doubleword load instruction. -/
  | lda (core : CoreId) (rd ra : Reg) (imm : BitVec 16)
  /-- SB (R180): Byte store instruction. -/
  | sb (core : CoreId) (rd ra : Reg) (imm : BitVec 16)
  /-- SH (R180): Halfword store instruction. -/
  | sh (core : CoreId) (rd ra : Reg) (imm : BitVec 16)
  /-- SW (R180): Word store instruction. -/
  | sw (core : CoreId) (rd ra : Reg) (imm : BitVec 16)
  /-- SD (R180): Doubleword store instruction. -/
  | sd (core : CoreId) (rd ra : Reg) (imm : BitVec 16)
  /-- STL (R181): Release doubleword store instruction. -/
  | stl (core : CoreId) (rd ra : Reg) (imm : BitVec 16)
  /-- FLD (R200): Floating-point doubleword load instruction. -/
  | fld (core : CoreId) (rd ra : Reg) (imm : BitVec 16)
  /-- FSD (R200): Floating-point doubleword store instruction. -/
  | fsd (core : CoreId) (rd ra : Reg) (imm : BitVec 16)
  /-- FLW (R200): Floating-point word load instruction. -/
  | flw (core : CoreId) (rd ra : Reg) (imm : BitVec 16)
  /-- FSW (R200): Floating-point word store instruction. -/
  | fsw (core : CoreId) (rd ra : Reg) (imm : BitVec 16)
  /-- FENCE (R181): FENCE instruction, ordering accesses and, with FI, invalidating the L1I. -/
  | fence (core : CoreId) (bits : BitVec 5)
  /-- BEQ (R180): Branch-if-equal instruction. -/
  | beq (core : CoreId) (ra rb : Reg) (disp : BitVec 16)
  /-- BNE (R180): Branch-if-not-equal instruction. -/
  | bne (core : CoreId) (ra rb : Reg) (disp : BitVec 16)
  /-- BLT (R180): Signed branch-if-less instruction. -/
  | blt (core : CoreId) (ra rb : Reg) (disp : BitVec 16)
  /-- BGE (R180): Signed branch-if-greater-or-equal instruction. -/
  | bge (core : CoreId) (ra rb : Reg) (disp : BitVec 16)
  /-- BLTU (R180): Unsigned branch-if-less instruction. -/
  | bltu (core : CoreId) (ra rb : Reg) (disp : BitVec 16)
  /-- BGEU (R180): Unsigned branch-if-greater-or-equal instruction. -/
  | bgeu (core : CoreId) (ra rb : Reg) (disp : BitVec 16)
  /-- J (R180): Jump instruction. -/
  | j (core : CoreId) (disp : BitVec 26)
  /-- JAL (R180): Jump-and-link instruction. -/
  | jal (core : CoreId) (disp : BitVec 26)
  /-- JALR (R180): Register jump-and-link instruction. -/
  | jalr (core : CoreId) (rd ra : Reg) (imm : BitVec 16)
  /-- SYSC (R190): System call instruction, entering SYSC. -/
  | sysc (core : CoreId) (imm : BitVec 16)
  /-- MCALL (R190): Machine call instruction, entering MCALL. -/
  | mcall (core : CoreId) (imm : BitVec 16)
  /-- SRET (R189): Return from level S instruction. -/
  | sret (core : CoreId)
  /-- MRET (R189): Return from level M instruction. -/
  | mret (core : CoreId)
  /-- MFS (R190): Instruction that reads a status register. -/
  | mfs (core : CoreId) (ra : Reg) (num : BitVec 16)
  /-- MTS (R190): Instruction that writes a status register. -/
  | mts (core : CoreId) (ra : Reg) (num : BitVec 16)
  /-- WFI (R190): Wait-for-interrupt instruction. -/
  | wfi (core : CoreId)
  /-- HALT (R190): M-level instruction that halts the core. -/
  | halt (core : CoreId)
  /-- AFENCE (R190): Instruction that waits for earlier arithmetic results and their traps. -/
  | afence (core : CoreId)
  /-- BRK (R190): Breakpoint instruction. -/
  | brk (core : CoreId) (imm : BitVec 16)
  /-- SRD (R196): Stream instruction that reads the next element of an input port. -/
  | srd (core : CoreId) (rd ra : Reg) (port : Fin 16)
  /-- SWR (R196): Stream instruction that sends an element on an output port. -/
  | swr (core : CoreId) (rd ra : Reg) (port : Fin 16)
  /-- SWRN (R196): Stream instruction that sends a null element. -/
  | swrn (core : CoreId) (rd ra : Reg) (port : Fin 16)
  /-- SEND (R196): Stream instruction that ends an output port. -/
  | strSend (core : CoreId) (rd ra : Reg) (port : Fin 16)
  /-- SPOLL (R196): Stream instruction that tests whether SRD would complete without waiting. -/
  | spoll (core : CoreId) (rd ra : Reg) (port : Fin 16)
  /-- PREFETCH (R227): CACHE operation that demand-fills a line. -/
  | prefetch (core : CoreId) (ra : Reg)
  /-- CLEAN (R227): CACHE operation that writes back a line's dirty sectors. -/
  | clean (core : CoreId) (ra : Reg)
  /-- CLEAN_INV (R227): CACHE operation that cleans a line and then invalidates it. -/
  | cleanInv (core : CoreId) (ra : Reg)
  /-- INV (R227): CACHE operation that invalidates a line and discards its dirty sectors. -/
  | inv (core : CoreId) (ra : Reg)
  /-- CLEAN_RANGE (R228): CACHE operation that cleans up to 16 lines of a range. -/
  | cleanRange (core : CoreId) (ra rl : Reg)
  /-- CLEAN_INV_RANGE (R228): CACHE operation that cleans and invalidates up to 16 lines of a range. -/
  | cleanInvRange (core : CoreId) (ra rl : Reg)
  /-- INV_RANGE (R228): CACHE operation that invalidates up to 16 lines of a range. -/
  | invRange (core : CoreId) (ra rl : Reg)
  /-- CLEAN_SW (R227): CACHE operation that cleans one L2 line by set and way. -/
  | cleanSw (core : CoreId) (ra rl : Reg)
  /-- CLEAN_INV_SW (R227): CACHE operation that cleans and invalidates one L2 line by set and way. -/
  | cleanInvSw (core : CoreId) (ra rl : Reg)
  /-- INV_SW (R227): CACHE operation that invalidates one L2 line by set and way. -/
  | invSw (core : CoreId) (ra rl : Reg)
  /-- LOCKFILL (R232): CACHE operation that fills a line into a locked way. -/
  | lockfill (core : CoreId) (ra rl : Reg)
  /-- LOCKSET (R231): CACHE operation that sets the cluster's LOCK_WAYS mask. -/
  | lockset (core : CoreId) (ra rl : Reg)
  /-- SV_ADD (R203): Short-vector integer ADD instruction. -/
  | svAdd (core : CoreId) (o : SvOp)
  /-- SV_SUB (R203): Short-vector integer SUB instruction. -/
  | svSub (core : CoreId) (o : SvOp)
  /-- SV_ADDSS (R203): Short-vector signed saturating ADD instruction. -/
  | svAddss (core : CoreId) (o : SvOp)
  /-- SV_ADDUS (R203): Short-vector unsigned saturating ADD instruction. -/
  | svAddus (core : CoreId) (o : SvOp)
  /-- SV_SUBSS (R203): Short-vector signed saturating SUB instruction. -/
  | svSubss (core : CoreId) (o : SvOp)
  /-- SV_SUBUS (R203): Short-vector unsigned saturating SUB instruction. -/
  | svSubus (core : CoreId) (o : SvOp)
  /-- SV_AND (R202): Short-vector AND instruction. -/
  | svAnd (core : CoreId) (o : SvOp)
  /-- SV_OR (R202): Short-vector OR instruction. -/
  | svOr (core : CoreId) (o : SvOp)
  /-- SV_XOR (R202): Short-vector XOR instruction. -/
  | svXor (core : CoreId) (o : SvOp)
  /-- SV_ANDN (R202): Short-vector AND-NOT instruction. -/
  | svAndn (core : CoreId) (o : SvOp)
  /-- SV_MIN (R202): Short-vector signed MIN instruction. -/
  | svMin (core : CoreId) (o : SvOp)
  /-- SV_MAX (R202): Short-vector signed MAX instruction. -/
  | svMax (core : CoreId) (o : SvOp)
  /-- SV_MINU (R202): Short-vector unsigned MIN instruction. -/
  | svMinu (core : CoreId) (o : SvOp)
  /-- SV_MAXU (R202): Short-vector unsigned MAX instruction. -/
  | svMaxu (core : CoreId) (o : SvOp)
  /-- SV_CMPEQ (R203): Short-vector compare-equal instruction. -/
  | svCmpeq (core : CoreId) (o : SvOp)
  /-- SV_CMPGT (R203): Short-vector signed compare-greater instruction. -/
  | svCmpgt (core : CoreId) (o : SvOp)
  /-- SV_CMPGTU (R203): Short-vector unsigned compare-greater instruction. -/
  | svCmpgtu (core : CoreId) (o : SvOp)
  /-- SV_MUL (R203): Short-vector low-half multiply instruction. -/
  | svMul (core : CoreId) (o : SvOp)
  /-- SV_AVGU (R203): Short-vector unsigned average instruction. -/
  | svAvgu (core : CoreId) (o : SvOp)
  /-- SV_ABSDU (R203): Short-vector unsigned absolute-difference instruction. -/
  | svAbsdu (core : CoreId) (o : SvOp)
  /-- SV_SLLI (R203): Short-vector logical left shift by immediate instruction. -/
  | svSlli (core : CoreId) (o : SvOp) (count : Fin 64)
  /-- SV_SRLI (R203): Short-vector logical right shift by immediate instruction. -/
  | svSrli (core : CoreId) (o : SvOp) (count : Fin 64)
  /-- SV_SRAI (R203): Short-vector arithmetic right shift by immediate instruction. -/
  | svSrai (core : CoreId) (o : SvOp) (count : Fin 64)
  /-- SV_FADD (R204): Short-vector floating-point FADD instruction. -/
  | svFadd (core : CoreId) (o : SvOp)
  /-- SV_FSUB (R204): Short-vector floating-point FSUB instruction. -/
  | svFsub (core : CoreId) (o : SvOp)
  /-- SV_FMUL (R204): Short-vector floating-point FMUL instruction. -/
  | svFmul (core : CoreId) (o : SvOp)
  /-- SV_FDIV (R204): Short-vector floating-point FDIV instruction. -/
  | svFdiv (core : CoreId) (o : SvOp)
  /-- SV_FSQRT (R204): Short-vector floating-point FSQRT instruction. -/
  | svFsqrt (core : CoreId) (o : SvOp)
  /-- SV_FMIN (R204): Short-vector floating-point FMIN instruction. -/
  | svFmin (core : CoreId) (o : SvOp)
  /-- SV_FMAX (R204): Short-vector floating-point FMAX instruction. -/
  | svFmax (core : CoreId) (o : SvOp)
  /-- SV_FMAC (R204): Short-vector fused multiply-accumulate instruction. -/
  | svFmac (core : CoreId) (o : SvOp)
  /-- SV_FCMPEQ (R204): Short-vector floating-point compare-equal instruction. -/
  | svFcmpeq (core : CoreId) (o : SvOp)
  /-- SV_FCMPLT (R204): Short-vector floating-point compare-less instruction. -/
  | svFcmplt (core : CoreId) (o : SvOp)
  /-- SV_FCMPLE (R204): Short-vector floating-point compare-less-or-equal instruction. -/
  | svFcmple (core : CoreId) (o : SvOp)
  /-- SV_FABS (R204): Short-vector floating-point absolute-value instruction. -/
  | svFabs (core : CoreId) (o : SvOp)
  /-- SV_FNEG (R204): Short-vector floating-point negate instruction. -/
  | svFneg (core : CoreId) (o : SvOp)
  /-- PICK (R207): Table permute instruction that zeroes withheld lanes. -/
  | pick (core : CoreId) (o : SvOp) (param : Fin 16)
  /-- PICKK (R207): Table permute instruction that keeps withheld lanes. -/
  | pickk (core : CoreId) (o : SvOp) (param : Fin 16)
  /-- MIXLO (R207): Permute instruction that interleaves the low halves. -/
  | mixlo (core : CoreId) (o : SvOp) (param : Fin 16)
  /-- MIXHI (R207): Permute instruction that interleaves the high halves. -/
  | mixhi (core : CoreId) (o : SvOp) (param : Fin 16)
  /-- SEPEV (R207): Permute instruction that separates even lanes. -/
  | sepev (core : CoreId) (o : SvOp) (param : Fin 16)
  /-- SEPOD (R207): Permute instruction that separates odd lanes. -/
  | sepod (core : CoreId) (o : SvOp) (param : Fin 16)
  /-- SLIDE (R207): Permute instruction that takes bytes at an offset in va:vb. -/
  | slide (core : CoreId) (o : SvOp) (param : Fin 16)
  /-- BCAST (R207): Permute instruction that broadcasts one lane. -/
  | bcast (core : CoreId) (o : SvOp) (param : Fin 16)
  /-- REVL (R207): Permute instruction that reverses the lanes. -/
  | revl (core : CoreId) (o : SvOp) (param : Fin 16)
  /-- PUTL (R202): SVMOVE instruction that writes one lane from a g register. -/
  | putl (core : CoreId) (o : SvOp)
  /-- GETU (R202): SVMOVE instruction that zero-extends a lane into a g register. -/
  | getu (core : CoreId) (o : SvOp)
  /-- GETS (R202): SVMOVE instruction that sign-extends a lane into a g register. -/
  | gets (core : CoreId) (o : SvOp)
  /-- FILL (R202): SVMOVE instruction that fills every lane from a g register. -/
  | fill (core : CoreId) (o : SvOp)
  /-- TOPB (R202): SVMOVE instruction that gathers the top bit of each byte lane. -/
  | topb (core : CoreId) (o : SvOp)
  /-- POPC (R202): SVMOVE instruction that gives each lane's population count. -/
  | popc (core : CoreId) (o : SvOp)
  /-- RSUM (R202): Signed lane-sum reduction instruction. -/
  | rsum (core : CoreId) (o : SvOp)
  /-- RSUMU (R202): Unsigned lane-sum reduction instruction. -/
  | rsumu (core : CoreId) (o : SvOp)
  /-- RMIN (R202): Signed lane-minimum reduction instruction. -/
  | rmin (core : CoreId) (o : SvOp)
  /-- RMAX (R202): Signed lane-maximum reduction instruction. -/
  | rmax (core : CoreId) (o : SvOp)
  /-- RMINU (R202): Unsigned lane-minimum reduction instruction. -/
  | rminu (core : CoreId) (o : SvOp)
  /-- RMAXU (R202): Unsigned lane-maximum reduction instruction. -/
  | rmaxu (core : CoreId) (o : SvOp)
  /-- SVLD (R206): Short-vector structure load instruction, performed whole or not at all. -/
  | svld (core : CoreId) (rd ra : Reg) (disp : BitVec 10) (k : Fin 4) (esz : Fin 4) (q : Bool)
  /-- SVST (R206): Short-vector structure store instruction, performed whole or not at all. -/
  | svst (core : CoreId) (rd ra : Reg) (disp : BitVec 10) (k : Fin 4) (esz : Fin 4) (q : Bool)
  /-- LV_ADD (R208): Long-vector integer ADD instruction. -/
  | lvAdd (core : CoreId) (o : LvOp)
  /-- LV_SUB (R208): Long-vector integer SUB instruction. -/
  | lvSub (core : CoreId) (o : LvOp)
  /-- LV_MUL (R208): Long-vector integer MUL instruction. -/
  | lvMul (core : CoreId) (o : LvOp)
  /-- LV_AND (R208): Long-vector AND instruction. -/
  | lvAnd (core : CoreId) (o : LvOp)
  /-- LV_OR (R208): Long-vector OR instruction. -/
  | lvOr (core : CoreId) (o : LvOp)
  /-- LV_XOR (R208): Long-vector XOR instruction. -/
  | lvXor (core : CoreId) (o : LvOp)
  /-- LV_MIN (R208): Long-vector signed MIN instruction. -/
  | lvMin (core : CoreId) (o : LvOp)
  /-- LV_MAX (R208): Long-vector signed MAX instruction. -/
  | lvMax (core : CoreId) (o : LvOp)
  /-- LV_MINU (R208): Long-vector unsigned MIN instruction. -/
  | lvMinu (core : CoreId) (o : LvOp)
  /-- LV_MAXU (R208): Long-vector unsigned MAX instruction. -/
  | lvMaxu (core : CoreId) (o : LvOp)
  /-- LV_FADD (R215): Long-vector floating-point FADD instruction. -/
  | lvFadd (core : CoreId) (o : LvOp)
  /-- LV_FSUB (R215): Long-vector floating-point FSUB instruction. -/
  | lvFsub (core : CoreId) (o : LvOp)
  /-- LV_FMUL (R215): Long-vector floating-point FMUL instruction. -/
  | lvFmul (core : CoreId) (o : LvOp)
  /-- LV_FDIV (R215): Long-vector floating-point FDIV instruction. -/
  | lvFdiv (core : CoreId) (o : LvOp)
  /-- LV_FMIN (R215): Long-vector floating-point FMIN instruction. -/
  | lvFmin (core : CoreId) (o : LvOp)
  /-- LV_FMAX (R215): Long-vector floating-point FMAX instruction. -/
  | lvFmax (core : CoreId) (o : LvOp)
  /-- LV_CMPEQ (R208): Long-vector compare-equal instruction, writing a bitmap. -/
  | lvCmpeq (core : CoreId) (o : LvOp)
  /-- LV_CMPLT (R208): Long-vector signed compare-less instruction, writing a bitmap. -/
  | lvCmplt (core : CoreId) (o : LvOp)
  /-- LV_CMPLTU (R208): Long-vector unsigned compare-less instruction, writing a bitmap. -/
  | lvCmpltu (core : CoreId) (o : LvOp)
  /-- LV_FCMPEQ (R208): Long-vector floating-point compare-equal instruction. -/
  | lvFcmpeq (core : CoreId) (o : LvOp)
  /-- LV_FCMPLT (R208): Long-vector floating-point compare-less instruction. -/
  | lvFcmplt (core : CoreId) (o : LvOp)
  /-- COMPRESS (R209): Long-vector instruction that appends the elements selected by a bitmap. -/
  | compress (core : CoreId) (o : LvOp)
  /-- GATHER (R211): Long-vector indexed gather instruction. -/
  | gather (core : CoreId) (o : LvOp)
  /-- SCATTER (R211): Long-vector indexed scatter instruction. -/
  | scatter (core : CoreId) (o : LvOp)
  /-- UNPACK (R208): Long-vector instruction that unpacks a bit stream. -/
  | unpack (core : CoreId) (o : LvOp)
  /-- PACK (R208): Long-vector instruction that packs low bits into a bit stream. -/
  | pack (core : CoreId) (o : LvOp)
  /-- L2_ENABLE (R234): A write of 1 to L2_ENABLE turns an OFF L2 ON, empty; a write during DRAINING is refused with BUSY. -/
  | l2Enable (cluster : Fin 16) (w : VdpWrite)
  /-- L2_DISABLE (R234): A write of 0 to L2_ENABLE starts draining an ON L2. -/
  | l2Disable (cluster : Fin 16) (w : VdpWrite)
  /-- L2_DRAIN_DONE (R234): A draining L2 finishes its write-backs and invalidations and becomes OFF. -/
  | l2DrainDone (cluster : Fin 16)
  /-- PREFETCH_ENABLE (R224): A write of PREFETCH_ENABLE starts or stops side-buffer prefetch; a write of 0 also empties the buffer. -/
  | prefetchEnable (cluster : Fin 16) (value : Bool) (w : VdpWrite)
  /-- PAGE_READ (R45): A Sieve's page or frame read completes; the page is checked, and blocks whose pages and dictionaries are ready are emitted. -/
  | pageRead (slot : Nat)
  /-- DICTIONARY_PREPARE (R83): A Sieve checks a dictionary page it has read and prepares every term on its column. -/
  | dictionaryPrepare (slot : Nat)
  /-- SCAN (R86): SCAN stage operator, which reads, checks, filters and emits column data. -/
  | scan (slot : Nat)
  /-- HASH_BUILD (R104): Mash operator that builds a hash table image. -/
  | hashBuild (slot : Nat)
  /-- HASH_PROBE (R109): Mash operator that probes a hash table and emits join rows. -/
  | hashProbe (slot : Nat)
  /-- PARTITION (R111): Mash operator that partitions rows by hash. -/
  | partition (slot : Nat)
  /-- HASH_GROUP (R113): Mash hash-grouping operator. -/
  | hashGroup (slot : Nat)
  /-- SORT (R124): Sort engine stable sort operator. -/
  | sort (slot : Nat)
  /-- MERGE (R125): Sort engine merge operator. -/
  | merge (slot : Nat)
  /-- TOP_N (R126): Sort engine TOP_N operator. -/
  | topN (slot : Nat)
  /-- GROUP_SORTED (R137): Aggregate engine sorted-grouping operator. -/
  | groupSorted (slot : Nat)
  /-- GROUP_HASH (R138): Aggregate engine hash-grouping operator. -/
  | groupHash (slot : Nat)
  /-- INFLATE (R363): Kiln decompression operator. -/
  | inflate (slot : Nat)
  /-- DEFLATE (R358): Kiln compression operator with per-block verification. -/
  | deflate (slot : DeflateTurn)
  /-- KILN_SELF_TEST (R361): A Kiln self-test after VERIFY_FAIL ends, returning the engine or keeping it out of service. -/
  | kilnSelfTest (engine : Fin 4) (passed : Bool)
  /-- DIGEST (R376): Grist digest or HMAC operator, with optional verification. -/
  | digest (slot : Nat)
  /-- LOOKUP (R396): Glume associative lookup operator. -/
  | lookup (slot : Nat)
  /-- UDO (R197): User-defined operator running blob code on a Tiller core. -/
  | udoStage (slot : Nat)
  /-- EXPR (R63): Expression operator running blob code on a Tiller core. -/
  | exprStage (slot : Nat)
  /-- COMBINE (R63): Runtime operator that merges partial aggregate tables. -/
  | combine (slot : Nat)
  /-- EXCH_SEND (R160): Exchange send operator. -/
  | exchSend (slot : Nat)
  /-- EXCH_RECV (R166): Exchange receive operator, emitting landed segments. -/
  | exchRecv (slot : Nat)
  /-- SOURCE (R344): Tun operator that reads memory into a stream. -/
  | source (slot : Nat)
  /-- SINK_DEVICE (R343): Tun operator that writes a stream into device memory. -/
  | sinkDevice (slot : Nat)
  /-- SINK_HOST (R343): Tun operator that writes a stream into host memory. -/
  | sinkHost (slot : Nat)
  /-- SINK_REMOTE (R159): Operator that writes a stream to remote memory by RDMA WRITE. -/
  | sinkRemote (slot : Nat)
  /-- DESCRIPTOR_FETCH (R340): A Tun channel fetches and checks the next chain descriptor, counting a hop. -/
  | descriptorFetch (slot : Nat)
  /-- TUN_REQUEST (R346): A Tun read or write side grants one channel's request in round-robin order. -/
  | tunRequest (engine : Fin 4) (write : Bool)
  /-- DESCRIPTOR_WRITEBACK (R339): A Tun channel writes back a descriptor's DONE_BYTES, DROPPED_BYTES and DSTATUS once the descriptor ends. -/
  | descriptorWriteback (slot : Nat)
  /-- FAULT_TIMEOUT (R269): A parked fault's timeout expires and the job fails with TRANSLATION_FAULT. -/
  | faultTimeout (slot : Nat)
  /-- MEMORY_TIMEOUT (R270): A translated memory access gets no response within MEMORY_TIMEOUT, failing the job with MEMORY_NO_RESPONSE. -/
  | memoryTimeout (slot : Nat) (address : Nat) (walkEntry : Nat) (store : Bool)
  /-- INVALIDATE (R262): The manager writes INVALIDATE to drop cached translations for a range. -/
  | invalidate (value : List Byte) (w : VdpWrite)
  /-- INVALIDATE_DONE (R262): An invalidation completes and INVALIDATE_DONE increases. -/
  | invalidateDone
  /-- ROOT (R273): The manager writes an instance's ROOT, which also invalidates the instance. -/
  | rootWrite (inst : Inst) (value : Nat) (w : VdpWrite)
  /-- FQ_BASE (R267): A write of FQ_BASE starts a new fault queue, or is refused with BUSY. -/
  | fqBase (inst : Inst) (value : Nat) (w : VdpWrite)
  /-- FQ_ENTRIES (R267): A write of FQ_ENTRIES starts a new fault queue, or is refused with BUSY. -/
  | fqEntries (inst : Inst) (value : Nat) (w : VdpWrite)
  /-- FQ_LOCATION (R267): A write of FQ_LOCATION starts a new fault queue, or is refused with BUSY. -/
  | fqLocation (inst : Inst) (value : Nat) (w : VdpWrite)
  /-- ATS_INVALIDATE (R263): A host ATS invalidation request completes after the affected accesses are performed. -/
  | atsInvalidate (link : Link) (address : Nat) (length : Nat)
  /-- DRAM_REQUEST_ISSUE (R285): A channel scheduler issues the next request by urgency, row hit, age and port. -/
  | dramRequestIssue (channel : Fin 12) (lo hi : Ecc)
  /-- RH_PENALTY_END (R287): A port's row-hammer penalty on a channel expires. -/
  | rhPenaltyEnd (channel : Fin 12) (port : Fin 16)
  /-- RH_SUBWINDOW (R286): A 4 ms activation sub-window ends and the sliding window advances. -/
  | rhSubwindow (channel : Fin 12)
  /-- REFRESH (R282): A channel's refresh interval expires; a refresh is issued or postponed, and a pending band change takes effect. -/
  | refresh (channel : Fin 12)
  /-- CHANNEL_TEMP_POLL (R281): Every 1 ms a channel reads its SPD-hub temperature sensors and updates its band. -/
  | channelTempPoll (channel : Fin 12) (readings : List (Option Nat))
  /-- SCRUB_READ (R290): The patrol scrubber reads the next codeword. -/
  | scrubRead (channel : Fin 12) (ecc : Ecc)
  /-- SCRUB_PERIOD (R290): SCRUB_PERIOD expires before a pass finishes, and the remaining scrub reads take urgency 1. -/
  | scrubPeriod (channel : Fin 12)
  /-- ALERT_N (R291): A command-parity error or ALERT_N makes the channel replay commands, and after three tries the channel fails. -/
  | alertN (channel : Fin 12) (replays : Fin 4) (persists : Bool)
  /-- PD_IDLE (R292): A channel idle for PD_IDLE enters precharge power-down. -/
  | pdIdle (channel : Fin 12)
  /-- SELF_REFRESH_ENTRY (R292): During the DORMANT change, a channel whose queues stay empty for 10 µs enters self-refresh. -/
  | selfRefreshEntry (channel : Fin 12)
  /-- CXL_MEM_READ (R296): A host CXL.mem read reaches device memory through an HDM decoder. -/
  | cxlMemRead (link : Link) (hpa : Nat)
  /-- CXL_MEM_WRITE (R296): A host CXL.mem write reaches device memory, snoop-invalidating cached copies. -/
  | cxlMemWrite (link : Link) (hpa : Nat) (data : List (Option Byte))
  /-- HDM_COMMIT (R296): A host commits an HDM decoder, which fails if its range leaves the link's window. -/
  | hdmCommit (link : Link) (n : Fin 8) (commit : Bool) (hpa size dpa ways gran place : Nat)
  /-- HOST_WINDOW (R296): The manager writes a link's host window, refused with BUSY while a decoder is committed. -/
  | hostWindow (link : Link) (length : Bool) (value : Nat) (w : VdpWrite)
  /-- FLR (R298): A Function Level Reset of VF n resets instance n. -/
  | flr (inst : Inst)
  /-- PF0_FLR (R298): An FLR of PF0 resets instance 0's queues on MANAGER_LINK. -/
  | pf0Flr (link : Link)
  /-- HOT_RESET (R298): A hot reset of a link resets every instance bound to it. -/
  | hotReset (link : Link)
  /-- PERST_N (R298): A PERST_N assertion resets a link's instances; a deassertion lets the link train. -/
  | perstN (link : Link) (asserted : Bool)
  /-- CONFIGURATION_REQUEST (R294): A CXL.io configuration request, answered with Retry Status before RUN. -/
  | configurationRequest (link : Link) (function : IoRequest)
  /-- IDE_FAILURE (R312): A link IDE integrity failure takes its streams insecure. -/
  | ideFailure (link : Link) (unanswered : List (Nat × Nat))
  /-- GET_EVENT_RECORDS (R311): Mailbox command that returns event records. -/
  | getEventRecords (link : Link) (log : Nat)
  /-- CLEAR_EVENT_RECORDS (R311): Mailbox command that clears event records. -/
  | clearEventRecords (link : Link) (log : Nat) (all : Bool) (handles : List Nat)
  /-- SET_TIMESTAMP (R311): Mailbox command that sets the timestamp. -/
  | setTimestamp (link : Link) (ns : Nat)
  /-- GET_TIMESTAMP (R311): Mailbox command that returns the timestamp. -/
  | getTimestamp (link : Link)
  /-- GET_SUPPORTED_LOGS (R311): Mailbox command that lists the supported logs. -/
  | getSupportedLogs (link : Link)
  /-- GET_LOG (R311): Mailbox command that returns a log. -/
  | getLog (link : Link) (uuid : List Byte) (offset length : Nat)
  /-- IDENTIFY_MEMORY_DEVICE (R311): Mailbox command that identifies the memory device. -/
  | identifyMemoryDevice (link : Link)
  /-- GET_HEALTH_INFO (R311): Mailbox command that returns health information. -/
  | getHealthInfo (link : Link)
  /-- VDP_REQUEST (R439): Mailbox command that carries one VDP request and returns its response. -/
  | vdpRequest (link : Link) (msg : List Byte)
  /-- VDP_CYCLIC (R311): Mailbox command that returns the latest cyclic device frame. -/
  | vdpCyclic (link : Link)
  /-- UNSUPPORTED_MAILBOX (R311): A mailbox opcode outside Table 14-7 returns Unsupported. -/
  | unsupportedMailbox (link : Link) (opcode : BitVec 16)
  /-- CREATE (R316): A LIFECYCLE write of CREATE makes an ABSENT instance ACTIVE with a new generation. -/
  | create (inst : Inst) (w : VdpWrite)
  /-- DESTROY (R317): A LIFECYCLE write of DESTROY resets the instance with CAUSE 4 and ends in ABSENT. -/
  | destroy (inst : Inst) (w : VdpWrite)
  /-- RESTORE (R328): A LIFECYCLE write of RESTORE rebuilds an ABSENT instance FROZEN from its image. -/
  | restore (inst : Inst) (w : VdpWrite)
  /-- RESET (R320): A CONTROL write of RESET starts an instance reset with CAUSE 3. -/
  | resetWrite (inst : Inst) (w : VdpWrite)
  /-- FREEZE (R325): A CONTROL write of FREEZE makes an ACTIVE instance FREEZING. -/
  | freeze (inst : Inst) (w : VdpWrite)
  /-- RESUME (R326): A CONTROL write of RESUME makes a FROZEN instance ACTIVE. -/
  | resume (inst : Inst) (w : VdpWrite)
  /-- RESET_COMPLETE (R321): Once the instance's tasks have stopped, reset reports are written, the journal entries retired and the queues deleted, and the instance becomes ACTIVE or ABSENT. -/
  | resetComplete (inst : Inst)
  /-- FREEZE_TIMEOUT (R326): FREEZE_TIMEOUT expires before FROZEN is reached; the instance returns to ACTIVE. -/
  | freezeTimeout (inst : Inst)
  /-- RR_HEAD (R324): The manager writes RR_HEAD, letting held reset-report records be written. -/
  | rrHead (inst : Inst) (value : Nat) (w : VdpWrite)
  /-- SPILL_POOL (R318): A write of SPILL_POOL adjusts SPILL_FREE, or is refused with BUSY. -/
  | spillPool (inst : Inst) (value : Nat) (w : VdpWrite)
  /-- SPILL_BASE (R318): A write of SPILL_BASE, refused with BUSY while jobs are unfinished. -/
  | spillBase (inst : Inst) (value : Nat) (w : VdpWrite)
  /-- RR_BASE (R318): A write of RR_BASE, refused with BUSY while records are held or unread. -/
  | rrBase (inst : Inst) (value : Nat) (w : VdpWrite)
  /-- RR_ENTRIES (R318): A write of RR_ENTRIES, refused with BUSY while records are held or unread. -/
  | rrEntries (inst : Inst) (value : Nat) (w : VdpWrite)
  /-- LINK (R313): A write of an instance's LINK, refused with BUSY while any queue of the instance exists. -/
  | linkWrite (inst : Inst) (value : Nat) (w : VdpWrite)
  /-- LOG_ENABLE (R329): A LOG_CONTROL write from 0 starts logging device-written pages into bitmap A or B. -/
  | logEnable (inst : Inst) (bitmap : Fin 2) (w : VdpWrite)
  /-- LOG_SWITCH (R330): A LOG_CONTROL write of the other non-zero value switches the active bitmap. -/
  | logSwitch (inst : Inst) (bitmap : Fin 2) (w : VdpWrite)
  /-- LOG_STOP (R330): A LOG_CONTROL write of 0 stops logging. -/
  | logStop (inst : Inst) (w : VdpWrite)
  /-- LOG_SWITCH_DONE (R330): Every write that could mark the previous bitmap has been marked, and LOG_SWITCHES increments. -/
  | logSwitchDone (inst : Inst)
  /-- ROCE_SEND (R156): An incoming RoCEv2 SEND is classified and delivered to a network SQ slot or as an exchange control message. -/
  | roceSend (a : Arrival) (payload : List Byte)
  /-- RDMA_WRITE (R146): An incoming RDMA WRITE is checked against its remote key and written. -/
  | rdmaWrite (a : Arrival) (key address : Nat) (data : List Byte)
  /-- RDMA_WRITE_IMM (R164): An incoming RDMA WRITE with immediate lands an exchange segment in its granted slot. -/
  | rdmaWriteImm (a : Arrival) (key address : Nat) (data : List Byte) (imm : BitVec 32)
  /-- RDMA_READ (R146): An incoming RDMA READ is checked against its remote key and answered. -/
  | rdmaRead (p : Pkt) (key address length : Nat)
  /-- ACK (R143): An RC acknowledgement is received for a queue pair. -/
  | ackPacket (p : Pkt)
  /-- ROCE_NAK (R143): An RC NAK, including an RNR NAK, is received for a queue pair. -/
  | roceNak (p : Pkt) (code : NakCode)
  /-- CNP (R150): A CNP is received and the queue pair's rate is cut. -/
  | cnp (p : Pkt)
  /-- OTHER_FRAME (R147): A non-RoCE frame is received; ARP, ND and echo are answered and other frames are dropped. -/
  | otherFrame (port : Fin 4) (frame : Frame)
  /-- ACK_TIMEOUT (R143): A queue pair's local ACK timeout expires; it retransmits, may migrate, or fails on exhausted retries. -/
  | ackTimeout (qp : Nat)
  /-- RNR_TIMER (R143): An RNR delay expires and the requester retransmits. -/
  | rnrTimer (qp : Nat)
  /-- INC_PERIOD (R150): A rate-increase period ends without a CNP and the queue pair's rate is raised. -/
  | incPeriod (qp : Nat)
  /-- FITNESS_WINDOW (R151): A plane's 10 µs fitness window ends; a failing window makes the plane unfit. -/
  | fitnessWindow (plane : Fin 2) (a b : PortWindow)
  /-- PROBE (R154): Every 50 µs each port of an unfit plane sends an ICMPv6 echo to PROBE_TARGET. -/
  | probe (plane : Fin 2)
  /-- PROBE_TIMEOUT (R154): A probe gets no reply within 50 µs and fails. -/
  | probeTimeout (port : Fin 4)
  /-- REPAIR_TIME (R154): A plane has passed every check for REPAIR_TIME and becomes standby. -/
  | repairTime (plane : Fin 2)
  /-- REARM (R153): A queue pair finishes loading its alternate path and returns to ARMED. -/
  | rearm (qp : Nat)
  /-- MOVE_BACK (R154): The manager writes MOVE_BACK to migrate queue pairs back to a standby plane. -/
  | moveBack (plane : Fin 2) (value : Nat) (w : VdpWrite)
  /-- PATH_HOLD (R155): PATH_HOLD expires with no standby plane; the queue pair fails with BOTH_PATHS_LOST. -/
  | pathHold (qp : Nat)
  /-- OPEN (R164): An exchange OPEN control message is received and answered with a GRANT. -/
  | openMsg (a : Arrival) (msg : List Byte)
  /-- GRANT (R165): An exchange GRANT control message is received by a sender. -/
  | grantMsg (a : Arrival) (msg : List Byte)
  /-- END (R166): An exchange END control message is received. -/
  | endMsg (a : Arrival) (msg : List Byte)
  /-- OPEN_RETRY (R165): 100 µs after a NOT_OPEN grant, the sender sends OPEN again. -/
  | openRetry (slot peer : Nat)
  /-- OPEN_TIMEOUT (R165): OPEN_TIMEOUT expires and the sender fails with PEER_UNREACHABLE. -/
  | openTimeout (slot peer : Nat)
  /-- DATA_FLIT (R404): A Kolfer DATA flit is received, in sequence or discarded with a NAK. -/
  | dataFlit (flit : Flit)
  /-- IDLE_FLIT (R403): A Kolfer IDLE flit is received, carrying an ACK. -/
  | idleFlit (crcOk : Bool) (ack : Nat)
  /-- NAK_FLIT (R404): A Kolfer NAK flit is received, causing a replay. -/
  | nakFlit (crcOk : Bool) (ack : Nat)
  /-- HEARTBEAT (R405): A HEARTBEAT flit is received, validated and acted upon for pairing. -/
  | heartbeat (hb : HeartBeat)
  /-- HEARTBEAT_SEND (R405): General timer 7 expires and a HEARTBEAT flit is sent. -/
  | heartbeatSend
  /-- REPLAY_TIMEOUT (R404): 20 µs pass with flits outstanding and no ACK advance, and the sender replays. -/
  | replayTimeout
  /-- TRAIN_ATTEMPT (R402): Every 10 ms a DOWN link with signal starts training. -/
  | trainAttempt (signal : Bool)
  /-- TRAIN_DONE (R402): Kolfer training ends, ACTIVE with 8 or 4 lanes or back to DOWN. -/
  | trainDone (lanes : BitVec 8)
  /-- RETRAIN_DONE (R402): RETRAIN ends within 300 µs, ACTIVE or DOWN. -/
  | retrainDone (ok : Bool)
  /-- TWIN_LOSS (R406): 1 ms passes without a valid heartbeat; the twin is declared lost and the device enters SOLO. -/
  | twinLoss
  /-- ENTRY_RECORD (R409): An ENTRY mirror record is applied to the shadow and acknowledged. -/
  | entryRecord
  /-- POST_RECORD (R409): A POST mirror record is applied to the shadow and acknowledged. -/
  | postRecord
  /-- RETIRE_RECORD (R409): A RETIRE mirror record frees the shadow entry. -/
  | retireRecord
  /-- QUEUE_RECORD (R409): A QUEUE mirror record updates the shadow's queue state. -/
  | queueRecord
  /-- INSTANCE_RECORD (R409): An INSTANCE mirror record updates the shadow's instance state. -/
  | instanceRecord
  /-- FLOOR_RECORD (R409): A FLOOR mirror record updates a floor or the epoch, and is acknowledged. -/
  | floorRecord
  /-- MIRROR_ACK (R410): A MIRROR_ACK arrives and completes every wait on the records it covers: acceptance, posting and counter securing. -/
  | mirrorAck
  /-- CLAIM (R438): A leadership CLAIM message is received and acted on under the leadership rules. -/
  | claimMsg (msg : ClaimMsg)
  /-- CLAIM_REPEAT (R412): A claimant resends its claim every 1 ms for 10 ms. -/
  | claimRepeat
  /-- CLAIM_WAIT (R413): A standby side B waits 4 ms without a claim from A, then claims. -/
  | claimWait
  /-- SWITCH_OVER_END (R414): The 5 ms switch-over window ends and the outputs show the current state. -/
  | switchOverEnd
  /-- LINK_WAIT (R407): LINK_WAIT expires in LINKING from UNPAIRED and the device enters SOLO. -/
  | linkWait
  /-- SYNC_COMPLETE (R419): SYNCING finishes its journal exchange and the pair becomes PAIRED. -/
  | syncComplete
  /-- ORPHAN_DELAY (R417): ORPHAN_DELAY expires with the twin silent, and its shadow entries are orphaned. -/
  | orphanDelay
  /-- ORPHAN_NOW (R417): A critical write of ORPHAN_NOW orphans the lost twin's jobs at once. -/
  | orphanNow (w : VdpWrite)
  /-- ORPHAN_CQ_HEAD (R418): The manager tells the survivor a lost twin's CQ head, so that waiting orphans can be posted. -/
  | orphanCqHead (value : List Byte) (w : VdpWrite)
  /-- PAIR_POLICY (R437): A pair-level critical write of PAIR_POLICY, applied to both twins while PAIRED. -/
  | pairPolicy (value : Nat) (w : VdpWrite)
  /-- READ (R430): A VDP READ request returns an entry's value. -/
  | vdpRead (src : VdpSrc) (msg : List Byte)
  /-- WRITE (R431): A VDP WRITE request to an entry that has no row of its own, checked in order and applied. -/
  | vdpWrite (src : VdpSrc) (msg : List Byte)
  /-- SEG_INIT (R432): A VDP request that opens a segmented upload or download session. -/
  | segInit (src : VdpSrc) (msg : List Byte)
  /-- SEG_DATA (R433): A VDP request that carries or asks for one segment; the final download segment applies the whole object. -/
  | segData (src : VdpSrc) (msg : List Byte)
  /-- SEG_ABORT (R433): A VDP request that aborts a segmented session. -/
  | segAbort (src : VdpSrc) (msg : List Byte)
  /-- SEG_TIMEOUT (R433): A session idle for SEG_TIMEOUT is aborted. -/
  | segTimeout (session : Nat)
  /-- DISCOVER (R435): A VDP DISCOVER request is answered with identity. -/
  | discover (src : VdpSrc) (msg : List Byte)
  /-- CYCLIC (R434): CYCLIC_PERIOD expires and device and pair cyclic frames are sent. -/
  | cyclic
  /-- RESOURCE_CLAIM (R440): A CLAIM write claims or releases a single-owner resource. -/
  | resourceClaim (resource : Fin 18) (value : List Byte) (w : VdpWrite)
  /-- TIMER_START (R441): A TIMER_START write of 1 starts or restarts an instance timer. -/
  | timerStart (timer : Fin 6) (w : VdpWrite)
  /-- TIMER_STOP (R441): A TIMER_START write of 0 stops an instance timer. -/
  | timerStop (timer : Fin 6) (w : VdpWrite)
  /-- TIMER_EXPIRY (R441): An instance timer expires and sets TIMER on the holder's placed tasks. -/
  | timerExpiry (timer : Fin 6)
  /-- WATCHDOG_EXPIRY (R463): The watchdog expires without refresh and resets the device with cause 3. -/
  | watchdogExpiry
  /-- COUNTER_LOG_WRITE (R381): A flash counter-log write completes, and the waiting critical write proceeds. -/
  | counterLogWrite
  /-- OWNER_KEY (R383): A write of OWNER_KEY unwraps principal 0's key and fuses it. -/
  | ownerKey (value : List Byte) (vpp : Bool) (w : VdpWrite)
  /-- KEY (R383): A critical write of a principal's KEY, recorded by a device-made image update. -/
  | keyWrite (principal : Fin 16) (value : List Byte) (w : VdpWrite)
  /-- RIGHTS (R382): A critical write of a principal's RIGHTS, recorded by a device-made image update. -/
  | rightsWrite (principal : Fin 16) (value : Nat) (w : VdpWrite)
  /-- IMAGE_UPDATE_DONE (R476): A device-made image update writes its commit marker and the waiting KEY or RIGHTS write is reported applied. -/
  | imageUpdateDone
  /-- BOOT_KEY_DIGEST (R466): A critical write that fuses the boot-key digest. -/
  | bootKeyDigest (value : List Byte) (vpp : Bool) (w : VdpWrite)
  /-- GLUME_PARITY_PASS (R398): The 1 ms background parity pass checks every Glume row. -/
  | glumeParityPass (errors : ParityPass)
  /-- TARGET_RUN (R444): A TARGET write requesting RUN starts a two-phase mode change. -/
  | targetRun (w : VdpWrite)
  /-- TARGET_DRAIN (R444): A TARGET write requesting DRAIN starts a two-phase mode change. -/
  | targetDrain (w : VdpWrite)
  /-- TARGET_DORMANT (R444): A TARGET write requesting DORMANT starts a two-phase mode change. -/
  | targetDormant (w : VdpWrite)
  /-- TARGET_FREEZE (R450): A TARGET write requesting FREEZE starts the freeze preparation. -/
  | targetFreeze (w : VdpWrite)
  /-- UNIT_APPLIED (R446): A unit finishes its mode action and sets its APPLIED bit; the last one commits the mode. -/
  | unitApplied (unit : Fin 8)
  /-- MODE_DEADLINE (R447): The 10 ms apply deadline expires and the change starts rolling back. -/
  | modeDeadline
  /-- ROLLBACK_DONE (R447): A mode rollback completes and the abort is recorded. -/
  | rollbackDone
  /-- ZONE_POWER_OFF (R460): A write of 0 to ZONE_POWER starts powering down a zone domain. -/
  | zonePowerOff (zone : Fin 16) (w : VdpWrite)
  /-- ZONE_POWER_ON (R459): A write of 1 to ZONE_POWER powers a zone up. -/
  | zonePowerOn (zone : Fin 16) (w : VdpWrite)
  /-- ZONE_GATED (R460): A zone's transfers have drained and its tasks are pre-empted, and the domain is gated. -/
  | zoneGated (zone : Fin 16)
  /-- ZONE_WAKE (R460): A zone powers up and its pre-empted tasks become READY. -/
  | zoneWake (zone : Fin 16)
  /-- HOLD_ENTRY (R453): After a fatal error the device enters HOLD and records HOLD_REASON. -/
  | holdEntry
  /-- SENSOR_POLL (R457): Every 1 ms the always-on domain reads every thermal sensor and rail monitor. `zones`
  is the handshake activity of each zone, which shares p − u among them. -/
  | sensorPoll (temps : List (Option Int)) (package uncore : Nat) (zones : List Nat) (factor : Nat)
  /-- TEMPERATURE_OUT_OF_SPEC (R458): Tj stays out of range for 1 ms, or a sensor fails three reads. -/
  | temperatureOutOfSpec (sensor : Bool)
  /-- SUPPLY_OUT_OF_SPEC (R455): VDD_CORE stays more than 30 mV off its request for 100 µs, or a rail leaves its limits. -/
  | supplyOutOfSpec
  /-- REFCLK_LOSS (R498): The always-on domain detects the loss of a reference clock. -/
  | refclkLoss (clock : RefClk)
  /-- JOURNAL_ECC_ERROR (R483): An uncorrectable error in journal or task-slot SRAM. -/
  | journalEccError
  /-- FIRMWARE_FAULT (R483): Firmware finds its own state inconsistent beyond one job. -/
  | firmwareFault
  /-- PWRGOOD_ASSERT (R462): PWRGOOD rises; straps are sampled and FUSE_LOAD begins. -/
  | pwrgoodAssert (role : Fin 2) (plca : Fin 64)
  /-- PWRGOOD_DEASSERT (R496): PWRGOOD stays low for 1 µs or more, a device reset of cause 1. -/
  | pwrgoodDeassert
  /-- SYS_RESET_N (R463): SYS_RESET_N held low for 1 µs, a device reset of cause 2. -/
  | sysResetN (low : Bool)
  /-- DEVICE_RESET (R463): A critical write of 1 to DEVICE_RESET, a device reset of cause 4. -/
  | deviceReset (value : Nat) (w : VdpWrite)
  /-- FUSE_LOAD_DONE (R465): The fuses have been read and CONFIG_LOAD begins. -/
  | fuseLoadDone (fuses : Option Fuses) (errors : List FuseError) (kept : Bool)
  /-- COPY_CHOSEN (R472): Both image copies have been checked and the valid copy with the higher SEQUENCE is loaded. -/
  | copyChosen (board : Option (FlashCopy × FlashCopy)) (octal : Bool)
  /-- DRAM_BRINGUP (R276): DRAM bring-up ends, every channel passing or DRAM_FAIL being recorded. -/
  | dramBringup (spd : List Spd) (bad : BitVec 12)
  /-- LOAD_END (R473): Loading ends and pairing starts. -/
  | loadEnd
  /-- RUN_ENTRY (R473): Once pairing permits and MANAGER_LINK's PERST_N is deasserted, the device enters RUN. -/
  | runEntry
  /-- LOG_CLEAR (R484): A write of 1 to LOG_CLEAR empties the RAS log. -/
  | logClear (value : Nat) (w : VdpWrite)
  /-- PORT_TRAINING_DONE (R142): An Ethernet port's training ends and PORT_STATE goes from training to up or back to down. -/
  | portTrainingDone (port : Fin 4) (up : Bool)
  /-- CXL_LINK_TRAINED (R473): A CXL link finishes training after PERST_N is deasserted, and LINK_STATE becomes up at 64 or 32 GT/s. -/
  | cxlLinkTrained (link : Link) (fast : Bool)
  /-- UNIT_REPORTS_CLEAR (R242): A unit reports that it has been cleared, and the task slot goes from FREE_PENDING to FREE, releasing the unit for placement. -/
  | unitReportsClear (slot : Nat)
  /-- CORE_RESTART (R188): A halted core finishes clearing its tile memory, restarts at M vector 0 and returns to the Granary's placement pool. -/
  | coreRestart (core : CoreId)
  /-- TAP_INSTRUCTION (R490): The IEEE 1149.1 TAP runs an instruction such as IDCODE, BYPASS, SAMPLE/PRELOAD or EXTEST under TCK, TMS and TRST_N. -/
  | tapInstruction (ir : TapIr)
  /-- MANAGEMENT_FRAME (R425): A field-network frame other than a VDP request or a claim arrives: neighbour discovery and ICMPv6 echo are answered, malformed datagrams are dropped and counted, and cyclic frames show the twin alive. -/
  | managementFrame (frame : MgmtFrame)
  /-- PLCA_BEACON (R424): The PLCA BEACON is seen or lost on the field network, and PLCA_STATUS and the transmit discipline change between PLCA and CSMA/CD. -/
  | plcaBeacon (seen : PlcaTurn)
  deriving DecidableEq, Repr

end Sys2Proof
end

