-- ==== Sys2Proof/Machine/Tbl.lean ====
section
/-! DEFINITION. Tables sorted by key, and byte strings: the plain data structures of the state. -/

namespace Sys2Proof.Machine

/-- The value a table gives to a key, if the key is listed. -/
def tfind {α : Type} : Tbl α → Nat → Option α
  | [], _ => none
  | (k, v) :: t, key => if k = key then some v else tfind t key

/-- The value a table gives to a key; an unlisted key has the default. -/
def tget {α : Type} (d : α) (t : Tbl α) (key : Nat) : α := (tfind t key).getD d

/-- The table with one key given a value; keys stay in rising order. -/
def tset {α : Type} : Tbl α → Nat → α → Tbl α
  | [], key, v => [(key, v)]
  | (k, w) :: t, key, v =>
    if key < k then (key, v) :: (k, w) :: t
    else if key = k then (key, v) :: t
    else (k, w) :: tset t key v

/-- The table without one key. -/
def tdel {α : Type} : Tbl α → Nat → Tbl α
  | [], _ => []
  | (k, w) :: t, key => if k = key then t else (k, w) :: tdel t key

/-- The table with one listed value changed by a function of the present (or default) one. -/
def tmod {α : Type} (d : α) (t : Tbl α) (key : Nat) (f : α → α) : Tbl α :=
  tset t key (f (tget d t key))

/-- The keys of a table rise strictly. -/
def tsorted {α : Type} : Tbl α → Bool
  | [] => true
  | [_] => true
  | (k, _) :: (k', v') :: t => decide (k < k') && tsorted ((k', v') :: t)

/-- The little-endian number that a byte string spells (R25). -/
def leNat : List Byte → Nat
  | [] => 0
  | b :: bs => b.toNat + 256 * leNat bs

/-- The n bytes of a number, least significant first (R25). -/
def leBytes : Nat → Nat → List Byte
  | 0, _ => []
  | n + 1, x => BitVec.ofNat 8 x :: leBytes n (x / 256)

/-- The n bytes of a number, most significant first. -/
def beBytes (n x : Nat) : List Byte := (leBytes n x).reverse

/-- The big-endian number that a byte string spells. -/
def beNat (bs : List Byte) : Nat := leNat bs.reverse

/-- The n bytes of a string from an offset; bytes beyond its end read 0. -/
def slice (bs : List Byte) (off n : Nat) : List Byte :=
  let t := (bs.drop off).take n
  t ++ List.replicate (n - t.length) 0

/-- The little-endian field of n bytes at an offset of a record. -/
def fld (bs : List Byte) (off n : Nat) : Nat := leNat (slice bs off n)

/-- Bits hi down to lo of a number. -/
def bitsOf (x hi lo : Nat) : Nat := (x >>> lo) % 2 ^ (hi + 1 - lo)

/-- The number with n in its bits hi down to lo. -/
def setBits (x hi lo n : Nat) : Nat :=
  x - (bitsOf x hi lo) * 2 ^ lo + (n % 2 ^ (hi + 1 - lo)) * 2 ^ lo

/-- A number read as a two's-complement integer of w bits. -/
def toSigned (w x : Nat) : Int :=
  if x % 2 ^ w < 2 ^ (w - 1) then ((x % 2 ^ w : Nat) : Int) else ((x % 2 ^ w : Nat) : Int) - ((2 ^ w : Nat) : Int)

/-- The two's-complement number of w bits of an integer. -/
def ofSigned (w : Nat) (i : Int) : Nat := (i % ((2 ^ w : Nat) : Int)).toNat

/-- The least multiple of m that is at least x. -/
def roundUp (x m : Nat) : Nat := if m = 0 then x else (x + m - 1) / m * m

/-- The bits of a byte string as numbers 0 and 1, least significant bit of the first byte first (R36). -/
def bitAt (bs : List Byte) (i : Nat) : Bool := ((bs.getD (i / 8) 0).toNat >>> (i % 8)) % 2 = 1

/-- The string with the bytes at an offset replaced; it grows with zeros where it is too short. -/
def splice (bs : List Byte) (off : Nat) (new : List Byte) : List Byte :=
  slice bs 0 off ++ new ++ bs.drop (off + new.length)

/-- An element put before the first that it is at or below. -/
def insertBy {α : Type} (le : α → α → Bool) (a : α) : List α → List α
  | [] => [a]
  | b :: t => if le a b then a :: b :: t else b :: insertBy le a t

/-- A list in rising order; equal elements keep their order. -/
def sortBy {α : Type} (le : α → α → Bool) (l : List α) : List α := l.foldr (insertBy le) []

/-- A list cut into pieces of n, the last one maybe shorter. -/
def chunksOf {α : Type} (n : Nat) (l : List α) : List (List α) :=
  (List.range ((l.length + n - 1) / n)).map fun i => (l.drop (i * n)).take n

/-- The list with the element at a place changed. -/
def lmod {α : Type} (l : List α) (i : Nat) (f : α → α) : List α :=
  match l, i with
  | [], _ => []
  | a :: t, 0 => f a :: t
  | a :: t, i + 1 => a :: lmod t i f

/-- The position of the first element that meets a test. -/
def findPos {α : Type} (p : α → Bool) : List α → Option Nat
  | [] => none
  | a :: t => if p a then some 0 else (findPos p t).map (· + 1)

/-- The bytes of a text. -/
def asciiBytes (t : String) : List Byte := t.toList.map fun c => BitVec.ofNat 8 c.toNat

end Sys2Proof.Machine
end

