-- ==== Sys2Proof/Machine/Codec.lean ====
section
/-! DEFINITION. Checksums, and the DEFLATE decoder and encoder of the Kiln engines (R28, R356 to R363). -/

namespace Sys2Proof.Machine

/-! ### Checksums -/

/-- One byte taken into a bit-reflected CRC of 32 bits. -/
def crcByte (poly c : Nat) (b : Byte) : Nat :=
  (List.range 8).foldl (fun x _ => if x % 2 = 1 then (x / 2) ^^^ poly else x / 2) (c ^^^ b.toNat)

/-- A bit-reflected CRC of 32 bits with initial value and final exclusive-OR of all ones. -/
def crc32With (poly : Nat) (bs : List Byte) : Nat := bs.foldl (crcByte poly) 0xFFFFFFFF ^^^ 0xFFFFFFFF

/-- CRC-32C (R28): 0x1EDC6F41 reflected. -/
def crc32c (bs : List Byte) : Nat := crc32With 0x82F63B78 bs

/-- CRC-32 of gzip (R360). -/
def crc32 (bs : List Byte) : Nat := crc32With 0xEDB88320 bs

/-- CRC-32 continued from the CRC of what came before (R366). -/
def crc32From (c : Nat) (bs : List Byte) : Nat := bs.foldl (crcByte 0xEDB88320) (c ^^^ 0xFFFFFFFF) ^^^ 0xFFFFFFFF

/-- Adler-32 continued from an earlier value; it starts from 1 (R360). -/
def adlerFrom (c : Nat) (bs : List Byte) : Nat :=
  let r := bs.foldl (fun (p : Nat × Nat) b =>
    let a := (p.1 + b.toNat) % 65521
    (a, (p.2 + a) % 65521)) (c % 65536, c / 65536)
  r.2 * 65536 + r.1

/-! ### Prefix codes -/

/-- A prefix code: each symbol with its bits. -/
abbrev PCode := List (Nat × List Bool)

/-- The bits of a code word, most significant first. -/
def codeBits (len code : Nat) : List Bool := (List.range len).map fun i => code.testBit (len - 1 - i)

/-- The code word of a symbol under the canonical assignment of RFC 1951. -/
def canonWord (lens : List Nat) (sym len : Nat) : Nat :=
  let first := (List.range len).foldl (fun c l =>
    (c + (if l = 0 then 0 else lens.count l)) * 2) 0
  first + (lens.take sym).count len

/-- The canonical prefix code of a list of lengths. -/
def canonCode (lens : List Nat) : PCode :=
  lens.zipIdx.filterMap fun (l, s) => if l = 0 then none else some (s, codeBits l (canonWord lens s l))

/-- The Kraft sum in units of 2^−15. -/
def kraft (lens : List Nat) : Nat := (lens.map fun l => if l = 0 then 0 else 2 ^ (15 - l)).foldl (· + ·) 0

/-- Lengths of the fixed literal/length code. -/
def fixedLitLens : List Nat :=
  List.replicate 144 8 ++ List.replicate 112 9 ++ List.replicate 24 7 ++ List.replicate 8 8

/-- Lengths of the fixed distance code. -/
def fixedDistLens : List Nat := List.replicate 32 5

/-- Base and extra bits of a length symbol, from 257. -/
def lenTable : List (Nat × Nat) :=
  [(3, 0), (4, 0), (5, 0), (6, 0), (7, 0), (8, 0), (9, 0), (10, 0), (11, 1), (13, 1), (15, 1), (17, 1), (19, 2),
   (23, 2), (27, 2), (31, 2), (35, 3), (43, 3), (51, 3), (59, 3), (67, 4), (83, 4), (99, 4), (115, 4), (131, 5),
   (163, 5), (195, 5), (227, 5), (258, 0)]

/-- Base and extra bits of a distance symbol. -/
def distTable : List (Nat × Nat) :=
  [(1, 0), (2, 0), (3, 0), (4, 0), (5, 1), (7, 1), (9, 2), (13, 2), (17, 3), (25, 3), (33, 4), (49, 4), (65, 5),
   (97, 5), (129, 6), (193, 6), (257, 7), (385, 7), (513, 8), (769, 8), (1025, 9), (1537, 9), (2049, 10),
   (3073, 10), (4097, 11), (6145, 11), (8193, 12), (12289, 12), (16385, 13), (24577, 13)]

/-- The order in which code-length code lengths are sent. -/
def clOrder : List Nat := [16, 17, 18, 0, 8, 7, 9, 6, 10, 5, 11, 4, 12, 3, 13, 2, 14, 1, 15]

/-! ### Decoder -/

/-- A decompression error: its status, the bit at which the failing element starts, the bytes produced. -/
structure InfErr where
  status : Nat
  bit : Nat
  made : Nat
  frame : Nat := 0
  deriving DecidableEq, Repr

/-- Status values of Table 24-1. -/
def stBadHeader : Nat := 0x0203
/-- INFLATE_INVALID_BLOCK_TYPE. -/
def stBlockType : Nat := 0x0204
/-- INFLATE_STORED_LEN. -/
def stStoredLen : Nat := 0x0205
/-- INFLATE_BAD_TABLE. -/
def stBadTable : Nat := 0x0206
/-- INFLATE_INVALID_CODE. -/
def stInvalidCode : Nat := 0x0207
/-- INFLATE_DISTANCE_TOO_FAR. -/
def stTooFar : Nat := 0x0208
/-- INFLATE_LENGTH_OVERRUN. -/
def stOverrun : Nat := 0x0209
/-- INFLATE_TRUNCATED. -/
def stTruncated : Nat := 0x020A
/-- INFLATE_TRAILING. -/
def stTrailing : Nat := 0x020B
/-- CHECKSUM_MISMATCH. -/
def stChecksum : Nat := 0x0202

/-- Bits of a byte string up to an end. -/
structure BitIn where
  bytes : Array Byte
  stop : Nat

/-- The bit at a position. -/
def BitIn.get (i : BitIn) (pos : Nat) : Option Bool :=
  if pos < i.stop then some ((i.bytes.getD (pos / 8) 0).toNat.testBit (pos % 8)) else none

/-- n bits from a position, the least significant first. -/
def BitIn.read (i : BitIn) (pos n : Nat) : Option Nat :=
  if pos + n ≤ i.stop then
    some ((List.range n).foldl (fun x k =>
      if (i.bytes.getD ((pos + k) / 8) 0).toNat.testBit ((pos + k) % 8) then x + 2 ^ k else x) 0)
  else none

/-- The next symbol of a prefix code: the symbol and the position after it. -/
def nextSym (i : BitIn) (start made : Nat) : Nat → PCode → Nat → Except InfErr (Nat × Nat)
  | 0, _, _ => .error ⟨stInvalidCode, start, made, 0⟩
  | fuel + 1, cands, pos =>
    match i.get pos with
    | none => .error ⟨stTruncated, start, made, 0⟩
    | some b =>
      let cs := cands.filterMap fun (s, bs) => match bs with
        | c :: t => if c = b then some (s, t) else none
        | [] => none
      if cs.isEmpty then .error ⟨stInvalidCode, start, made, 0⟩
      else match cs.find? fun c => c.2.isEmpty with
        | some (s, _) => .ok (s, pos + 1)
        | none => nextSym i start made fuel cs (pos + 1)

/-- A match copied byte by byte from a distance back. -/
def copyBack (out : Array Byte) (dist : Nat) : Nat → Array Byte
  | 0 => out
  | n + 1 => copyBack (out.push (out.getD (out.size - dist) 0)) dist n

/-- The symbols of a compressed block up to end-of-block. -/
def inflateSyms (i : BitIn) (lit dist : PCode) (limit : Nat) :
    Nat → Nat → Array Byte → Except InfErr (Nat × Array Byte)
  | 0, pos, out => .error ⟨stTruncated, pos, out.size, 0⟩
  | fuel + 1, pos, out =>
    match nextSym i pos out.size 16 lit pos with
    | .error e => .error e
    | .ok (s, p) =>
      if s < 256 then
        if limit ≤ out.size then .error ⟨stOverrun, pos, out.size, 0⟩
        else inflateSyms i lit dist limit fuel p (out.push (BitVec.ofNat 8 s))
      else if s = 256 then .ok (p, out)
      else match lenTable[s - 257]? with
        | none => .error ⟨stInvalidCode, pos, out.size, 0⟩
        | some (base, ext) =>
          match i.read p ext with
          | none => .error ⟨stTruncated, pos, out.size, 0⟩
          | some x =>
            let q := p + ext
            match nextSym i q out.size 16 dist q with
            | .error e => .error e
            | .ok (d, r) =>
              match distTable[d]? with
              | none => .error ⟨stInvalidCode, q, out.size, 0⟩
              | some (dbase, dext) =>
                match i.read r dext with
                | none => .error ⟨stTruncated, q, out.size, 0⟩
                | some y =>
                  if out.size < dbase + y then .error ⟨stTooFar, q, out.size, 0⟩
                  else if limit < out.size + base + x then .error ⟨stOverrun, pos, out.size, 0⟩
                  else inflateSyms i lit dist limit fuel (r + dext) (copyBack out (dbase + y) (base + x))

/-- A stored block from the position after its header. -/
def inflateStored (i : BitIn) (limit pos : Nat) (out : Array Byte) : Except InfErr (Nat × Array Byte) :=
  let p := roundUp pos 8
  match i.read p 16, i.read (p + 16) 16 with
  | some len, some nlen =>
    if len + nlen ≠ 65535 then .error ⟨stStoredLen, p, out.size, 0⟩
    else
      let room := limit - out.size
      let avail := (i.stop - (p + 32)) / 8
      if len ≤ room && len ≤ avail then
        .ok (p + 32 + 8 * len, (List.range len).foldl (fun o k => o.push (i.bytes.getD (p / 8 + 4 + k) 0)) out)
      else if room ≤ avail then .error ⟨stOverrun, p + 32 + 8 * room, out.size + room, 0⟩
      else .error ⟨stTruncated, p + 32 + 8 * avail, out.size + avail, 0⟩
  | _, _ => .error ⟨stTruncated, p, out.size, 0⟩

/-- The code lengths of a dynamic block's two codes. -/
def readLens (i : BitIn) (cl : PCode) (total made : Nat) : Nat → Nat → List Nat → Except InfErr (Nat × List Nat)
  | 0, pos, _ => .error ⟨stTruncated, pos, made, 0⟩
  | fuel + 1, pos, lens =>
    if total ≤ lens.length then .ok (pos, lens)
    else match nextSym i pos made 16 cl pos with
      | .error e => .error e
      | .ok (s, p) =>
        if s < 16 then readLens i cl total made fuel p (lens ++ [s])
        else
          let ext := if s = 16 then 2 else if s = 17 then 3 else 7
          let base := if s = 18 then 11 else 3
          match (if s = 16 then lens.getLast? else some 0) with
          | none => .error ⟨stBadTable, pos, made, 0⟩
          | some v =>
            match i.read p ext with
            | none => .error ⟨stTruncated, pos, made, 0⟩
            | some x =>
              if total < lens.length + base + x then .error ⟨stBadTable, pos, made, 0⟩
              else readLens i cl total made fuel (p + ext) (lens ++ List.replicate (base + x) v)

/-- Whether the lengths of a dynamic block's codes are a bad table (Table 17-5). A distance code with no
symbol or with one is not. -/
def badLens (lit dist : List Nat) : Bool :=
  lit.getD 256 0 = 0 || kraft lit ≠ 2 ^ 15 || 2 ^ 15 < kraft dist ||
  (kraft dist < 2 ^ 15 && 1 < (dist.filter (· ≠ 0)).length)

/-- A dynamic block from the position after its header. -/
def inflateDynamic (i : BitIn) (limit pos : Nat) (out : Array Byte) : Except InfErr (Nat × Array Byte) :=
  let bad : Except InfErr (Nat × Array Byte) := .error ⟨stBadTable, pos, out.size, 0⟩
  if (i.read pos 5).any (29 < ·) || (i.read (pos + 5) 5).any (29 < ·) then bad
  else
  match i.read pos 5, i.read (pos + 5) 5, i.read (pos + 10) 4 with
  | some hlit, some hdist, some hclen =>
      match i.read (pos + 14) (3 * (hclen + 4)) with
      | none => .error ⟨stTruncated, pos + 14, out.size, 0⟩
      | some x =>
        let sent := (clOrder.take (hclen + 4)).zipIdx.map fun (s, k) => (s, x / 8 ^ k % 8)
        let clens := (List.range 19).map fun s => match sent.find? (·.1 = s) with
          | some e => e.2
          | none => 0
        if kraft clens ≠ 2 ^ 15 then .error ⟨stBadTable, pos + 14, out.size, 0⟩
        else
          let p := pos + 14 + 3 * (hclen + 4)
          match readLens i (canonCode clens) (hlit + 257 + hdist + 1) out.size 400 p [] with
          | .error e => .error e
          | .ok (q, lens) =>
            let lit := lens.take (hlit + 257)
            let dist := lens.drop (hlit + 257)
            if badLens lit dist then .error ⟨stBadTable, p, out.size, 0⟩
            else inflateSyms i (canonCode lit) (canonCode dist) limit (i.stop + 1) q out
  | _, _, _ => .error ⟨stTruncated, pos, out.size, 0⟩

/-- One block: whether it is final, the position after it, the output. -/
def inflateBlock (i : BitIn) (limit pos : Nat) (out : Array Byte) : Except InfErr (Bool × Nat × Array Byte) :=
  match i.read pos 3 with
  | none => .error ⟨stTruncated, pos, out.size, 0⟩
  | some h =>
    let r := match h / 2 with
      | 0 => inflateStored i limit (pos + 3) out
      | 1 => inflateSyms i (canonCode fixedLitLens) (canonCode fixedDistLens) limit (i.stop + 1) (pos + 3) out
      | 2 => inflateDynamic i limit (pos + 3) out
      | _ => .error ⟨stBlockType, pos, out.size, 0⟩
    match r with
    | .error e => .error e
    | .ok (p, o) => .ok (h % 2 = 1, p, o)

/-- The blocks of a stream up to its final one: the position after it, and the output. -/
def inflateBlocks (i : BitIn) (limit : Nat) : Nat → Nat → Array Byte → Except InfErr (Nat × Array Byte)
  | 0, pos, out => .error ⟨stTruncated, pos, out.size, 0⟩
  | fuel + 1, pos, out =>
    match inflateBlock i limit pos out with
    | .error e => .error e
    | .ok (true, p, o) => .ok (p, o)
    | .ok (false, p, o) => inflateBlocks i limit fuel p o

/-- A raw stream from a byte offset to an end offset: the byte offset after it, and its output. -/
def inflateRaw (bytes : Array Byte) (start stop limit : Nat) : Except InfErr (Nat × List Byte) :=
  match inflateBlocks ⟨bytes, 8 * stop⟩ limit (8 * stop + 1) (8 * start) #[] with
  | .error e => .error e
  | .ok (p, o) => .ok ((p + 7) / 8, o.toList)

/-- The n bytes of an array from an offset. -/
def arrSlice (bytes : Array Byte) (off n : Nat) : List Byte := (List.range n).map fun k => bytes.getD (off + k) 0

/-- The offset after a zero-terminated text of a gzip header. -/
def skipText (bytes : Array Byte) : Nat → Nat → Option Nat
  | 0, _ => none
  | fuel + 1, pos =>
    if bytes.size ≤ pos then none else if bytes.getD pos 0 = 0 then some (pos + 1) else skipText bytes fuel (pos + 1)

/-- The end of a gzip header, or its error (Table 17-5). -/
def gzipHeader (bytes : Array Byte) : Except InfErr Nat :=
  let bad : Except InfErr Nat := .error ⟨stBadHeader, 0, 0, 0⟩
  let cut : Except InfErr Nat := .error ⟨stTruncated, 8 * bytes.size, 0, 0⟩
  let flg := (bytes.getD 3 0).toNat
  if (1 ≤ bytes.size && bytes.getD 0 0 ≠ 0x1F) || (2 ≤ bytes.size && bytes.getD 1 0 ≠ 0x8B) ||
     (3 ≤ bytes.size && bytes.getD 2 0 ≠ 8) || (4 ≤ bytes.size && 32 ≤ flg) then bad
  else if bytes.size < 10 then cut
  else
    let p : Option Nat := if flg.testBit 2 then
        let e := 12 + leNat (arrSlice bytes 10 2)
        if e ≤ bytes.size && 12 ≤ bytes.size then some e else none
      else some 10
    let p := if flg.testBit 3 then p.bind (skipText bytes bytes.size) else p
    let p := if flg.testBit 4 then p.bind (skipText bytes bytes.size) else p
    match p with
    | none => cut
    | some e =>
      if flg.testBit 1 then
        if bytes.size < e + 2 then cut
        else if leNat (arrSlice bytes e 2) ≠ crc32 (arrSlice bytes 0 e) % 65536 then bad
        else .ok (e + 2)
      else .ok e

/-- The trailer after a raw stream: a checksum test, then nothing may follow (R363). -/
def trailer (bytes : Array Byte) (pos n made : Nat) (ok : List Byte → Bool) (out : List Byte) :
    Except InfErr (List Byte) :=
  if bytes.size < pos + n then .error ⟨stTruncated, 8 * pos, made, 0⟩
  else if !ok (arrSlice bytes pos n) then .error ⟨stChecksum, 8 * pos, made, 0⟩
  else if pos + n < bytes.size then .error ⟨stTrailing, 8 * (pos + n), made, 0⟩
  else .ok out

/-- INFLATE of a zlib stream. -/
def inflateZlib (bytes : Array Byte) (limit : Nat) : Except InfErr (List Byte) :=
  let cmf := (bytes.getD 0 0).toNat
  let flg := (bytes.getD 1 0).toNat
  if (1 ≤ bytes.size && (cmf % 16 ≠ 8 || 7 < cmf / 16)) ||
     (2 ≤ bytes.size && ((cmf * 256 + flg) % 31 ≠ 0 || flg.testBit 5)) then .error ⟨stBadHeader, 0, 0, 0⟩
  else if bytes.size < 2 then .error ⟨stTruncated, 0, 0, 0⟩
  else match inflateRaw bytes 2 bytes.size limit with
    | .error e => .error e
    | .ok (p, out) => trailer bytes p 4 out.length (fun t => beNat t = adlerFrom 1 out) out

/-- INFLATE of a gzip stream. -/
def inflateGzip (bytes : Array Byte) (limit : Nat) : Except InfErr (List Byte) :=
  match gzipHeader bytes with
  | .error e => .error e
  | .ok h =>
    match inflateRaw bytes h bytes.size limit with
    | .error e => .error e
    | .ok (p, out) => trailer bytes p 8 out.length
        (fun t => fld t 0 4 = crc32 out && fld t 4 4 = out.length % 2 ^ 32) out

/-- INFLATE of a raw stream. -/
def inflateBare (bytes : Array Byte) (limit : Nat) : Except InfErr (List Byte) :=
  match inflateRaw bytes 0 bytes.size limit with
  | .error e => .error e
  | .ok (p, out) => trailer bytes p 0 out.length (fun _ => true) out

/-- Whether a frame header, of which n bytes are there, is bad in those (Table 17-5). -/
def badFrameHeader (h : List Byte) (n : Nat) : Bool :=
  h.take (min n 4) ≠ (leBytes 4 0x31464B59).take n || (5 ≤ n && fld h 4 1 ≠ 1) || (6 ≤ n && 1 < fld h 5 1) ||
  (8 ≤ n && fld h 6 2 ≠ 0) || (16 ≤ n && (fld h 0x0C 4 = 0 || 65536 < fld h 0x0C 4)) ||
  (16 ≤ n && fld h 5 1 = 1 && fld h 8 4 ≠ fld h 0x0C 4) || (28 ≤ n && fld h 0x14 8 ≠ 0) ||
  (32 ≤ n && fld h 0x1C 4 ≠ crc32c (h.take 0x1C))

/-- The content of a frame that starts at an offset (Table 17-3), and the end of the frame. Output beyond `room` bytes, what
OUT_LIMIT leaves, is met where it would be produced, as is output beyond RAW_LENGTH (R363). -/
def inflateFrame (bytes : Array Byte) (off room : Nat) : Except InfErr (Nat × List Byte) :=
  let h := arrSlice bytes off 32
  if badFrameHeader h (min 32 (bytes.size - off)) then .error ⟨stBadHeader, 8 * off, 0, 0⟩
  else if bytes.size < off + 32 then .error ⟨stTruncated, 8 * off, 0, 0⟩
  else
    let stored := fld h 8 4
    let raw := fld h 0x0C 4
    let stop := off + 32 + stored
    let check := fun (p : Nat) (out : List Byte) =>
      if out.length < raw then Except.error (InfErr.mk stTruncated (8 * p) out.length 0)
      else if crc32c out ≠ fld h 0x10 4 then .error ⟨stChecksum, 8 * (off + 0x10), out.length, 0⟩
      else if p < stop then .error ⟨stTrailing, 8 * p, out.length, 0⟩
      else .ok (stop, out)
    if fld h 5 1 = 1 then
      if room < stored && room ≤ bytes.size - off - 32 then .error ⟨stOverrun, 8 * (off + 32 + room), room, 0⟩
      else if bytes.size < stop then .error ⟨stTruncated, 8 * bytes.size, bytes.size - off - 32, 0⟩
      else check stop (arrSlice bytes (off + 32) stored)
    else match inflateRaw bytes (off + 32) (min stop bytes.size) (min raw room) with
      | .error e => .error e
      | .ok (p, out) => check p out

/-- INFLATE of a sequence of frames (R357). -/
def inflateFrames (bytes : Array Byte) (limit : Nat) : Nat → Nat → Nat → List Byte → Except InfErr (List Byte)
  | 0, _, _, out => .ok out
  | fuel + 1, off, n, out =>
    if bytes.size ≤ off then .ok out
    else match inflateFrame bytes off (limit - out.length) with
      | .error e => .error { e with made := out.length + e.made, frame := n }
      | .ok (stop, c) => inflateFrames bytes limit fuel (roundUp stop 4096) (n + 1) (out ++ c)

/-- INFLATE of an input in a FORMAT of Table 17-1, with a limit on its output. -/
def inflate (fmt : Nat) (input : List Byte) (limit : Nat) : Except InfErr (List Byte) :=
  let a := input.toArray
  match fmt with
  | 0 => inflateBare a limit
  | 1 => inflateZlib a limit
  | 2 => inflateGzip a limit
  | _ => inflateFrames a limit (a.size + 1) 0 0 []

/-! ### Encoder (R358, R359) -/

/-- A token: a literal, or a match of a length at a distance. -/
inductive LzTok
  | lit (b : Byte)
  | ref (len dist : Nat)
  deriving DecidableEq, Repr

/-- Effort of a LEVEL: probes, nice, lazy (Table 17-4). -/
def effort (level : Nat) : Nat × Nat × Bool :=
  match level with
  | 1 => (4, 16, false)
  | 2 => (8, 32, false)
  | 3 => (16, 64, false)
  | 4 => (16, 64, true)
  | 5 => (32, 128, true)
  | 6 => (64, 128, true)
  | 7 => (128, 258, true)
  | 8 => (512, 258, true)
  | _ => (4096, 258, true)

/-- hash3 of R358; none where the three bytes are not all there. -/
def hash3 (b : Array Byte) (p : Nat) : Option Nat :=
  if p + 2 < b.size then
    some (((b.getD p 0).toNat * 1024 ^^^ (b.getD (p + 1) 0).toNat * 32 ^^^ (b.getD (p + 2) 0).toNat) % 32768)
  else none

/-- Matching bytes at two places, up to a bound. -/
def matchLen (b : Array Byte) (c p : Nat) : Nat → Nat
  | 0 => 0
  | n + 1 => if b.getD c 0 = b.getD p 0 then 1 + matchLen b (c + 1) (p + 1) n else 0

/-- The chain of earlier positions with the hash of a position, nearest first, within the window (R358). -/
def chainAt (b : Array Byte) (p probes : Nat) : List Nat :=
  match hash3 b p with
  | none => []
  | some h => (((List.range (min p 32768)).map fun k => p - 1 - k).filter fun c => hash3 b c = some h).take probes

/-- The best match along a chain: length and distance. -/
def bestMatch (b : Array Byte) (p bound nice : Nat) : List Nat → Nat × Nat → Nat × Nat
  | [], best => best
  | c :: rest, best =>
    let l := matchLen b c p bound
    let best := if best.1 < l then (l, p - c) else best
    if nice ≤ best.1 then best else bestMatch b p bound nice rest best

/-- find(p) of R358 in a segment that ends at an offset; a length below 3 is no match. -/
def findMatch (b : Array Byte) (p segEnd probes nice : Nat) : Nat × Nat :=
  let m := bestMatch b p (min 258 (segEnd - p)) nice (chainAt b p probes) (0, 0)
  if 3 ≤ m.1 then m else (0, 0)

/-- The tokens of a segment from a position. -/
def lzTokens (b : Array Byte) (segEnd : Nat) (e : Nat × Nat × Bool) : Nat → Nat → List LzTok
  | 0, _ => []
  | fuel + 1, p =>
    if segEnd ≤ p then []
    else
      let m := findMatch b p segEnd e.1 e.2.1
      if m.1 = 0 then .lit (b.getD p 0) :: lzTokens b segEnd e fuel (p + 1)
      else if e.2.2 && m.1 < e.2.1 && p + 1 < segEnd && m.1 < (findMatch b (p + 1) segEnd e.1 e.2.1).1 then
        .lit (b.getD p 0) :: lzTokens b segEnd e fuel (p + 1)
      else .ref m.1 m.2 :: lzTokens b segEnd e fuel (p + m.1)

/-- The n bits of a number, least significant first. -/
def numBits (n x : Nat) : List Bool := (List.range n).map x.testBit

/-- The last row of a base table whose base is at most a value: symbol, extra bits, remainder. -/
def baseSym (t : List (Nat × Nat)) (v : Nat) : Nat × Nat × Nat :=
  t.zipIdx.foldl (fun r (e, i) => if e.1 ≤ v then (i, e.2, v - e.1) else r) (0, 0, 0)

/-- The literal/length symbol of a token. -/
def litSym : LzTok → Nat
  | .lit b => b.toNat
  | .ref l _ => 257 + (baseSym lenTable l).1

/-- The distance symbol of a token. -/
def distSym : LzTok → Option Nat
  | .lit _ => none
  | .ref _ d => some (baseSym distTable d).1

/-- The bits of a symbol in a code. -/
def symBits (c : PCode) (s : Nat) : List Bool :=
  match c.find? (·.1 = s) with
  | some e => e.2
  | none => []

/-- The bits of a token. -/
def tokBits (lit dist : PCode) : LzTok → List Bool
  | .lit b => symBits lit b.toNat
  | .ref l d =>
    let (ls, le, lx) := baseSym lenTable l
    let (ds, de, dx) := baseSym distTable d
    symBits lit (257 + ls) ++ numBits le lx ++ symBits dist ds ++ numBits de dx

/-- Two sorted lists merged by weight; the first goes before the second on a tie. -/
def mergeW : Nat → List (Nat × List Nat) → List (Nat × List Nat) → List (Nat × List Nat)
  | 0, _, _ => []
  | _ + 1, [], b => b
  | _ + 1, a, [] => a
  | n + 1, x :: a, y :: b => if x.1 ≤ y.1 then x :: mergeW n a (y :: b) else y :: mergeW n (x :: a) b

/-- Neighbours packed in pairs; an odd last one is dropped. -/
def packPairs : List (Nat × List Nat) → List (Nat × List Nat)
  | a :: b :: t => (a.1 + b.1, a.2 ++ b.2) :: packPairs t
  | _ => []

/-- Package-merge (R359): code lengths, at most maxLen, of symbols with frequencies. Among equal frequencies
the lower symbol comes later in the sorted list, and so gets the shorter or equal code. -/
def packageMerge (maxLen : Nat) (freqs : List Nat) : List Nat :=
  let items := sortBy (fun a b => a.1 < b.1 || (a.1 = b.1 && b.2 ≤ a.2)) (freqs.zipIdx.filter fun e => e.1 ≠ 0)
  let leaves : List (Nat × List Nat) := items.map fun e => (e.1, [e.2])
  let n := items.length
  if n = 0 then freqs.map fun _ => 0
  else if n = 1 then freqs.map fun f => if f = 0 then 0 else 1
  else
    let final := (List.range (maxLen - 1)).foldl (fun l _ => mergeW (4 * n + 4) leaves (packPairs l)) leaves
    let used := ((final.take (2 * n - 2)).map (·.2)).flatten
    (List.range freqs.length).map fun s => used.count s

/-- A list without its zeros at the end, but with at least n entries. -/
def trimZeros (n : Nat) (l : List Nat) : List Nat :=
  l.take (max n (l.length - (l.reverse.takeWhile (· = 0)).length))

/-- Run-length coding of code lengths: symbol, extra bits, extra value (R359). -/
def rleLens : Nat → List Nat → List (Nat × Nat × Nat)
  | 0, _ => []
  | _ + 1, [] => []
  | fuel + 1, a :: t =>
    let run := (t.takeWhile (· = a)).length
    if a = 0 then
      let n := run + 1
      if 11 ≤ n then
        let k := min n 138
        (18, 7, k - 11) :: rleLens fuel ((a :: t).drop k)
      else if 3 ≤ n then (17, 3, n - 3) :: rleLens fuel ((a :: t).drop n)
      else (0, 0, 0) :: rleLens fuel t
    else
      (a, 0, 0) ::
        (let rec_ := rleReps run
         rec_ ++ rleLens fuel (t.drop (repsLen rec_)))
where
  /-- Symbol 16 for repeats of the previous length. -/
  rleReps (run : Nat) : List (Nat × Nat × Nat) :=
    (List.range (run / 6)).map (fun _ => (16, 2, 3)) ++ (if 3 ≤ run % 6 then [(16, 2, run % 6 - 3)] else [])
  /-- Lengths that repeats stand for. -/
  repsLen (l : List (Nat × Nat × Nat)) : Nat := (l.map fun e => e.2.2 + 3).foldl (· + ·) 0

/-- Frequencies of symbols below n. -/
def freqsOf (n : Nat) (syms : List Nat) : List Nat :=
  (syms.foldl (fun (a : Array Nat) s => a.set! s (a.getD s 0 + 1)) (List.replicate n 0).toArray).toList

/-- The bits of a dynamic block after its header. -/
def dynamicBits (toks : List LzTok) : List Bool :=
  let lit := trimZeros 257 (packageMerge 15 (freqsOf 286 (toks.map litSym ++ [256])))
  let dist := trimZeros 1 (packageMerge 15 (freqsOf 30 (toks.filterMap distSym)))
  let rle := rleLens 320 (lit ++ dist)
  let cl := packageMerge 7 (freqsOf 19 (rle.map (·.1)))
  let clSent := trimZeros 4 (clOrder.map fun s => cl.getD s 0)
  let clc := canonCode cl
  numBits 5 (lit.length - 257) ++ numBits 5 (dist.length - 1) ++ numBits 4 (clSent.length - 4) ++
  clSent.flatMap (numBits 3) ++ rle.flatMap (fun e => symBits clc e.1 ++ numBits e.2.1 e.2.2) ++
  toks.flatMap (tokBits (canonCode lit) (canonCode dist)) ++ symBits (canonCode lit) 256

/-- The bits of a fixed block after its header. -/
def fixedBits (toks : List LzTok) : List Bool :=
  let lit := canonCode fixedLitLens
  toks.flatMap (tokBits lit (canonCode fixedDistLens)) ++ symBits lit 256

/-- The bits of a stored block after its header, which ends at a bit position. -/
def storedBits (pos : Nat) (content : List Byte) : List Bool :=
  List.replicate (roundUp pos 8 - pos) false ++ numBits 16 content.length ++
  numBits 16 (65535 - content.length) ++ content.flatMap (fun b => numBits 8 b.toNat)

/-- A segment's block at a bit position: the cheapest encoding, ties to stored, then fixed (R359). -/
def blockBits (b : Array Byte) (start stop level pos : Nat) (final : Bool) : List Bool :=
  let content := arrSlice b start (stop - start)
  let stored := [final, false, false] ++ storedBits (pos + 3) content
  if level = 0 then stored
  else
    let toks := lzTokens b stop (effort level) (stop - start + 1) start
    let fixed := [final, true, false] ++ fixedBits toks
    let dyn := [final, false, true] ++ dynamicBits toks
    if stored.length ≤ fixed.length && stored.length ≤ dyn.length then stored
    else if fixed.length ≤ dyn.length then fixed else dyn

/-- The bytes of a bit string, zero-padded. -/
def packBits (bits : List Bool) : List Byte :=
  (chunksOf 8 bits).map fun c => BitVec.ofNat 8 (c.zipIdx.foldl (fun x (b, i) => if b then x + 2 ^ i else x) 0)

/-- Where the segments of an input start (R358). -/
def segStarts (n : Nat) : List Nat := (List.range ((n + 65534) / 65535)).map (65535 * ·)

/-- The blocks of an input, each as its bits, from a number of pending bits; empty input gives one final
fixed block. -/
def deflateBlocks (input : List Byte) (level pending : Nat) : List (List Bool) :=
  let b := input.toArray
  if input.isEmpty then [[true, true, false] ++ symBits (canonCode fixedLitLens) 256]
  else
    ((segStarts input.length).foldl (fun (acc : List (List Bool) × Nat) start =>
      let stop := min (start + 65535) input.length
      let bits := blockBits b start stop level acc.2 (stop = input.length)
      (acc.1 ++ [bits], acc.2 + bits.length)) ([], pending)).1

/-- A raw DEFLATE stream. -/
def deflateRaw (input : List Byte) (level : Nat) : List Byte := packBits (deflateBlocks input level 0).flatten

/-- The wrapper header of a FORMAT at a LEVEL (R360). -/
def wrapHeader (fmt level : Nat) : List Byte :=
  match fmt with
  | 1 => [0x78, if level ≤ 1 then 0x01 else if level ≤ 5 then 0x5E else if level = 6 then 0x9C else 0xDA]
  | 2 => [0x1F, 0x8B, 8, 0, 0, 0, 0, 0, if level ≤ 1 then 4 else if level = 9 then 2 else 0, 0xFF]
  | _ => []

/-- The wrapper trailer from the running check and the input length (R360). -/
def wrapTrailer (fmt check total : Nat) : List Byte :=
  match fmt with
  | 1 => beBytes 4 check
  | 2 => leBytes 4 check ++ leBytes 4 total
  | _ => []

/-- The running check of a FORMAT continued (R366). -/
def checkFrom (fmt c : Nat) (bs : List Byte) : Nat :=
  match fmt with
  | 1 => adlerFrom c bs
  | 2 => crc32From c bs
  | _ => 0

/-- The running check before any byte. -/
def checkStart (fmt : Nat) : Nat := if fmt = 1 then 1 else 0

/-- One frame of a content, with its zero bytes up to the next 4 KiB boundary (R357), and whether RAW is set. -/
def frameOf (content : List Byte) (level : Nat) : List Byte × Bool :=
  let comp := deflateRaw content level
  let raw := content.length ≤ comp.length
  let payload := if raw then content else comp
  let h := leBytes 4 0x31464B59 ++ [1, if raw then 1 else 0] ++ leBytes 2 0 ++ leBytes 4 payload.length ++
    leBytes 4 content.length ++ leBytes 4 (crc32c content) ++ leBytes 8 0
  let f := h ++ leBytes 4 (crc32c h) ++ payload
  (f ++ List.replicate (roundUp f.length 4096 - f.length) 0, raw)

end Sys2Proof.Machine
end

