-- ==== Sys2Proof/Config.lean ====
section
/-! DEFINITION. What the spec leaves open: opaque constants with no body, one for each log entry. -/

namespace Sys2Proof.Config

/-- The NaN a computed floating-point result carries where the spec names none: its low bits and sign
are open, the model forces a quiet NaN of the format (log entry 8). Arguments: operation, operands. -/
opaque nanPayload : Nat → Nat → Nat → Nat → Nat

/-- Whether tininess is detected after rounding (IEEE 754-2019 leaves it to the implementation; log entry 9). -/
opaque tinyAfterRounding : Bool

/-- Whether a fused multiply-add of zero and infinity with a quiet NaN addend signals invalid (log entry 9). -/
opaque fmaNanInvalid : Bool

/-- A fresh value the spec leaves open, by the number of free values taken before (log entry 2). -/
opaque freeValue : Nat → Nat

/-- Which of the 16 entries of a 64 KiB page serves an access where they differ (R259; log entry 11). -/
opaque pteChoice : Nat → Nat → Nat

/-- Whether a unit still holds, and uses, a translation it completed earlier (R262; log entry 11). -/
opaque tlbKept : Nat → Nat → Nat → Bool

/-- mstat.NEST once more than 15 nested M entries are outstanding; its field holds 0 to 15 (log entry 12). -/
opaque nestBeyond : Nat

/-- SLL, SRL and SRA by a register count at or above the width: the spec states no result (log entry 13).
Arguments: operation (0 SLL, 1 SRL, 2 SRA), width, operand, count. -/
opaque shiftBeyond : Nat → Nat → Nat → Nat → Nat

/-- The factory transport key: a secret the spec names and does not give (R383, R466). -/
opaque factoryKey : List Byte

/-- The CXL event log, 0 to 3, that a kind of event record is kept in; the spec names none (log entry 28). -/
opaque eventLog : Nat → Nat

/-- Whether a Glume group leaves service at its n-th parity error, for n from 2 on; the spec says "repeated" and gives no
number (R482; log entry 30). -/
opaque glumeRetires : Nat → Bool

end Sys2Proof.Config
end

