-- ==== Sys2Proof/Machine/BootState.lean ====
section
/-! DEFINITION. State of start-up, fuses, flash and pins (chapters 23 and 25). -/

namespace Sys2Proof.Machine

/-- What start-up keeps: the fuses and the flash stay through every reset (R463). -/
structure BootState where
  fuses : Fuses := {}
  /-- The two copies of the configuration image in flash (R467). -/
  copyA : FlashCopy := {}
  copyB : FlashCopy := {}
  /-- The flash's SFDP describes 8D-8D-8D operation (R500). -/
  octal : Bool := true
  /-- VPP_FUSE is within its limits (R494). -/
  vpp : Bool := false
  /-- Keys of principals 1 to 15, by number. -/
  keys : Tbl (List Byte) := []
  /-- The reset in progress found every channel in self-refresh, and DRAM content survives it (R464). -/
  survives : Bool := false
  /-- Every channel has passed R276. -/
  dramOk : Bool := false
  deriving DecidableEq, Repr

/-- The pins of chapter 25 that hold state of their own. -/
structure PinState where
  /-- The register the TAP has selected (R490). -/
  tap : TapIr := .bypass
  /-- SYS_RESET_N is held low. -/
  resetLow : Bool := false
  /-- Levels of the MFP pins as the board drives them, bit m for MFPm (Table 25-5). -/
  mfp : Nat := 0
  deriving DecidableEq, Repr

end Sys2Proof.Machine
end

