-- ==== Sys2Proof/Machine/CoreState.lean ====
section
/-! DEFINITION. State of the Tiller cores, their caches and the translation caches (chapters 08, 09, 10, 12). -/

namespace Sys2Proof.Machine

/-- Whether a core executes (STATE of Table 08-10; R188). -/
inductive CoreRun
  | running
  | halted
  | outOfService
  deriving DecidableEq, Repr

/-- A line of an L1 cache: its 64-byte line number, age and fill kind, and whether its data or tag has a parity error (R218,
R222, R223, Table 10-2). -/
structure L1Line where
  line : Nat := 0
  age : Nat := 0
  stream : Bool := false
  bad : Bool := false
  deriving DecidableEq, Repr

/-- What the resident runtime saves of a pre-empted task (R194). -/
structure SavedCtx where
  slot : Nat
  g : Vector Word 32
  f : Vector Word 32
  pstat : Word
  lvi : Word
  pc : Word
  deriving DecidableEq, Repr

/-- A Tiller core (R174, Table 08-2). g0 is stored as 0 and every access goes through the accessors. -/
structure Core where
  /-- General registers g0 to g31; no reset value is given (log entry 5). -/
  g : Vector Word 32 := Vector.replicate 32 0
  /-- Floating-point registers, overlaid by the d and v views (R199); no reset value is given (log entry 5). -/
  f : Vector Word 32 := Vector.replicate 32 0
  /-- The pc; M vector 0 after a reset (R183 RESET, R188; log entry 5). -/
  pc : Word := 0xFFFFE000
  /-- Status register 0x00. -/
  pstat : Word := 0x80000000
  /-- Status register 0x01. -/
  lvi : Word := 0
  /-- Status register 0x10. -/
  sepc : Word := 0
  /-- Status register 0x11. -/
  sstat : Word := 0
  /-- Status register 0x12. -/
  sval : Word := 0
  /-- Status register 0x20. -/
  mepc : Word := 0
  /-- Status register 0x21. -/
  mstat : Word := 0
  /-- Status register 0x22. -/
  mval : Word := 0
  /-- Status register 0x23. -/
  estk : Word := 0xFFFFE000
  /-- The 128-byte physical line a load-reserved holds (R182). -/
  resv : Option Nat := none
  /-- Pending interrupts: bit i is vector 32 + i (Table 08-7). -/
  intr : BitVec 4 := 0
  /-- A pending imprecise ARITHMETIC exception: SUBCODE and address of the trapping instruction (R191). -/
  imp : Option (Nat × Word) := none
  /-- Instructions completed since the trapping one (R191). -/
  impAge : Nat := 0
  /-- Running, halted or out of service (R188). -/
  run : CoreRun := .running
  /-- Cause in the last halt record (Table 08-8 step 2). -/
  haltCause : Nat := 0
  /-- Times of the latest halts (R188: four within a second). -/
  haltTimes : List Nat := []
  /-- Task slot whose task holds the core (R73, R194). -/
  task : Option Nat := none
  /-- Saved state of a pre-empted or parked task, in the resident area (R194). -/
  saved : Option SavedCtx := none
  /-- What task code held at its last translation fault: a fault that finds the same is at the same boundary (R268, R269). -/
  faulted : Option SavedCtx := none
  /-- TILE_BYTES of the task's region (R176). -/
  tileBytes : Nat := 0
  /-- Tile memory by byte offset in the window; cleared to 0 (R236). -/
  tile : List Host.Cell := []
  /-- Tile words of 8 bytes with a bit error: true when uncorrectable (Table 10-2). -/
  tileBad : Tbl Bool := []
  /-- L1 data cache, keyed by set × 4 + way (R218). -/
  l1d : Tbl L1Line := []
  /-- L1 instruction cache, keyed by set × 4 + way (R218, R220). -/
  l1i : Tbl L1Line := []
  /-- The last L2 misses of the core as 128-byte lines, newest first (R224). -/
  misses : List Nat := []
  deriving DecidableEq, Repr

/-- An L2 line: tag, age, sector masks, and what memory held below each dirty sector (R221, R222). -/
structure L2Line where
  line : Nat := 0
  age : Nat := 0
  valid : Nat := 0
  dirty : Nat := 0
  /-- The DRAM bytes below a dirty sector, and whether they are poisoned, by sector. -/
  below : Tbl (List Byte × Bool) := []
  /-- Sectors with a data parity error (Table 10-2). -/
  bad : Nat := 0
  /-- Tag or sector-state error: 0 none, 1 correctable, 2 uncorrectable (Table 10-2). -/
  tagBad : Nat := 0
  deriving DecidableEq, Repr

/-- The shared cache of a cluster; its registers are dictionary entries 0x3480 + k (R237). -/
structure Cluster where
  /-- L2 lines, keyed by set × 16 + way. -/
  l2 : Tbl L2Line := []
  /-- Side buffer: 128-byte lines, oldest first (R224). -/
  side : List Nat := []
  deriving DecidableEq, Repr

/-- The context an access is translated in (R256, Table 12-2). -/
inductive Ctx
  | inst (n : Nat)
  | runtime
  | firmware
  deriving DecidableEq, Repr

/-- What a leaf entry grants (Table 12-1). -/
structure Leaf where
  phys : Nat
  size : Nat
  read : Bool
  write : Bool
  fetch : Bool
  stream : Bool
  deriving DecidableEq, Repr

/-- A cached translation of a unit (R262). -/
structure TlbEntry where
  unit : Nat
  ctx : Ctx
  generation : Nat
  page : Nat
  leaf : Leaf
  deriving DecidableEq, Repr

/-- A burst request waiting at a DRAM channel (R284, R285). -/
structure DramReq where
  /-- Requester port of Table 13-6. -/
  port : Nat
  /-- Number of the 64-byte burst: physical address divided by 64. -/
  burst : Nat
  write : Bool
  /-- Time of arrival (R285), and the port's TARGET in ns at that time (R284). -/
  arrival : Nat
  target : Nat := 1000
  /-- Of a write, the codewords of the burst that it covers whole, as a mask (R289). -/
  cover : Nat := 0
  /-- Of a read, the codewords whose poison it has returned, as a mask (R293). -/
  poison : Nat := 0
  deriving DecidableEq, Repr

/-- An invalidation that has not completed (R262). -/
structure Invalidation where
  inst : Nat
  start : Nat
  length : Nat
  deriving DecidableEq, Repr

end Sys2Proof.Machine
end

