-- ==== Sys2Proof/Machine/CxlState.lean ====
section
/-! DEFINITION. State of the CXL links and PF0 mailboxes (chapter 14). -/

namespace Sys2Proof.Machine

/-- What an event record of PF0 reports. -/
inductive EvKind
  /-- A mode change was aborted (R447). -/
  | modeAbort
  /-- Orphaning of the lost twin's jobs has begun (R418). -/
  | pair
  deriving DecidableEq, Repr

/-- An event record waiting in PF0's event log (Table 14-7). -/
structure EvRec where
  handle : Nat
  kind : EvKind
  /-- Timestamp in ns. -/
  time : Nat
  deriving DecidableEq, Repr

/-- An HDM decoder (R296): host range, device range, interleave and whether it is committed. -/
structure HdmDec where
  hpa : Nat := 0
  size : Nat := 0
  /-- Device physical address of the range's first byte. -/
  dpa : Nat := 0
  /-- Interleave ways, granularity in bytes and this device's place among the ways. -/
  ways : Nat := 1
  gran : Nat := 256
  place : Nat := 0
  committed : Bool := false
  /-- The error-not-committed status. -/
  failed : Bool := false
  deriving DecidableEq, Repr

/-- An entry of a function's MSI-X table (Table 14-2). -/
structure MsixVec where
  address : Nat := 0
  data : Nat := 0
  masked : Bool := false
  deriving DecidableEq, Repr

/-- The CXL state. -/
structure CxlState where
  /-- Event records of PF0 by link, oldest first, and the next handle. -/
  events : Tbl (List EvRec) := []
  nextHandle : Nat := 1
  /-- Timestamp written by Set Timestamp on a link's PF0, and when (in ns). -/
  stamps : Tbl (Nat × Nat) := []
  /-- HDM decoders by link × 8 + number. -/
  hdm : Tbl HdmDec := []
  /-- Links whose IDE streams are insecure (R312). -/
  insecure : List Nat := []
  /-- Configuration registers of functions that have been written, by function (4,096 × link + function) × 4 + register
  (Table 14-1; log entry 67). -/
  cfg : Tbl Nat := []
  /-- MSI-X table entries that have been written, and vectors with their pending bit set, by function × 2,048 + vector. -/
  vectors : Tbl MsixVec := []
  pendingVecs : List Nat := []
  /-- Keys of a link's IDE streams, and links whose streams are secure with them (Table 14-1). -/
  ideKeys : Tbl (List Byte) := []
  secure : List Nat := []
  /-- Links whose PERST_N is asserted; the balls have pull-downs (Table 25-3). -/
  perst : List Nat := [0, 1, 2, 3]
  deriving DecidableEq, Repr

end Sys2Proof.Machine
end

