-- ==== Sys2Proof/Machine/DramState.lean ====
section
/-! DEFINITION. State of the DRAM channels (chapter 13). -/

namespace Sys2Proof.Machine

/-- A port's penalty on a channel (R287): its length and start, and when it ended. -/
structure Penalty where
  /-- Length in ms. -/
  length : Nat
  start : Nat
  /-- None while the penalty runs. -/
  ended : Option Nat := none
  deriving DecidableEq, Repr

/-- What a channel's controller keeps. A bank is one of one rank of one sub-channel. -/
structure Chan where
  /-- Open row by bank (R285). -/
  openRows : Tbl Nat := []
  /-- Activates of a row-address group in the current sub-window and the seven before it, newest first, by bank × 2^32 +
  group (R286). -/
  acts : Tbl (List Nat) := []
  /-- Activates in the current sub-window by bank × 16 + port (R287). -/
  portActs : Tbl Nat := []
  penalties : Tbl Penalty := []
  /-- The microsecond a throttled port last activated in, and its activates then (R287). -/
  capped : Tbl (Nat × Nat) := []
  /-- Rolling accumulated activation count by bank, and the RAAIMT and RAAMMT of the DIMMs, if they require refresh
  management (R283). -/
  raa : Tbl Nat := []
  raaLimits : Option (Nat × Nat) := none
  /-- The band the temperature asks for; BAND takes it at the next refresh (R281). -/
  band : Nat := 0
  /-- Failed reads in a row, by sensor (R281). -/
  failed : Tbl Nat := []
  /-- Times the due refresh has been postponed (R282), and the bank the next same-bank refresh takes. -/
  postponed : Nat := 0
  nextBank : Nat := 0
  /-- Codewords of the patrol pass read so far; the pass is complete; it is past SCRUB_PERIOD (R290). -/
  scrubAt : Nat := 0
  scrubDone : Bool := false
  scrubLate : Bool := false
  /-- The delays of a band have been applied (R276, Table 22-1). -/
  delays : Bool := false
  deriving DecidableEq, Repr

/-- The DRAM controllers. -/
structure DramState where
  chans : Tbl Chan := []
  /-- Widths C, R and W of Table 13-3, from the image's DRAM section. -/
  widthC : Nat := 0
  widthR : Nat := 0
  widthW : Nat := 0
  deriving DecidableEq, Repr

end Sys2Proof.Machine
end

