-- ==== Sys2Proof/Machine/JobState.lean ====
section
/-! DEFINITION. State of the query path: queues, descriptors, journal, jobs, tasks, instances
(chapters 01, 03, 11, 14, 15, 20, 24). -/

namespace Sys2Proof.Machine

/-- An element of a stream: a value's bytes, or none for a null element (R18, R56). A BYTES stream carries
one element per byte. -/
abbrev Elem := Option (List Byte)

/-- The variable part of an error record (Tables 24-2 and 24-3). -/
structure ErrRec where
  planId : Nat := 0
  address : Nat := 0
  detail : Nat := 0
  detail2 : Nat := 0
  reason : Nat := 0
  unit : Nat := 0xFF
  stage : Nat := 0xFFFF
  index : Nat := 0xFFFF
  deriving DecidableEq, Repr

/-- How a job ended: its status value of Table 24-1 and its error record (R479, R480). -/
structure JobEnd where
  status : Nat
  er : ErrRec := {}
  deriving DecidableEq, Repr

/-- The kind of a job descriptor (Table 14-8). -/
inductive DescKind
  | nop
  | plan
  | cancel
  deriving DecidableEq, Repr

/-- The copies admission keeps with a plan job (R49, R60). -/
structure PlanCopy where
  /-- The plan image. -/
  image : List Byte
  /-- Parameter values, 16 bytes each. -/
  params : List (List Byte)
  /-- Chunk lists and buffer chains by parameter index, as their entries. -/
  lists : Tbl (List (List Byte))
  deriving DecidableEq, Repr

/-- State of one phase of an accepted job (R239, R66). -/
inductive PhaseRun
  | blocked
  | waiting
  | placed
  | finished
  deriving DecidableEq, Repr

/-- A phase of an accepted job. -/
structure Phase where
  run : PhaseRun := .blocked
  /-- Tick at which it began to wait. -/
  since : Nat := 0
  /-- It reserves the units it needs (R239). -/
  urgent : Bool := false
  /-- Its placement has been delayed for lack of slots (SLOT_WAITS). -/
  slotWait : Bool := false
  deriving DecidableEq, Repr

/-- STATE of a journal entry (Table 20-6); FREE entries are not listed. -/
inductive JState
  | pending
  | accepted
  | posting
  deriving DecidableEq, Repr

/-- An accepted-but-incomplete job: its journal entry (Table 20-6) and what the device keeps with it. -/
structure Job where
  /-- The model's own number of the job, in order of acceptance (R239 key 3). -/
  jid : Nat
  inst : Nat
  gen : Nat
  sq : Nat
  /-- Absolute slot count: slot is this modulo ENTRIES (R301). -/
  pos : Nat
  slot : Nat
  pass : Nat
  asn : Nat
  jstate : JState := .pending
  network : Bool := false
  unmirrored : Bool := false
  kind : DescKind := .nop
  desc : List Byte := []
  noIrq : Bool := false
  priority : Nat := 0
  /-- DEADLINE in µs, 0 for none (R303). -/
  deadline : Nat := 0
  /-- Time of acceptance (R303). -/
  acceptedAt : Nat := 0
  /-- Number of its copy in the plan store (COPY_ADDR). -/
  copy : Nat := 0
  plan : Option PlanCopy := none
  spill : Nat := 0
  /-- TASK_QUOTA it was admitted against (R71). -/
  quota : Nat := 0
  phases : List Phase := []
  /-- Set when the job has finished or failed; its completion then waits in the reorder stage (R22). -/
  ended : Option JobEnd := none
  /-- Bytes written by its sink stages (RESULT_LENGTH). -/
  resultLen : Nat := 0
  /-- A RESUMABLE stage stopped: the job ends with OK_PARTIAL (R366). -/
  stopped : Bool := false
  /-- A receiver answered CLOSED to an EXCH_SEND stage: its queue pair and the stage's SENDER_INDEX (R168). -/
  dropped : Option (Nat × Nat) := none
  /-- POSTING: CQ slot and entry (Table 20-6). -/
  cqPos : Nat := 0
  cqSlot : Nat := 0
  entry : List Byte := []
  /-- Error-record slot held for the completion (R480). -/
  erSlot : Option Nat := none
  /-- Its wait for an error-record slot has been counted in ER_WAITS. -/
  erWait : Bool := false
  /-- Network SQ: queue pair that submitted it (R158). -/
  sender : Option Nat := none
  /-- Mirror record whose acknowledgement the job waits for (R410, R411). -/
  awaits : Option Nat := none
  /-- The job was taken from a restored image or replayed, so its phases start again (R328, R420). -/
  replayed : Bool := false
  deriving DecidableEq, Repr

/-- A descriptor that passed its checks and waits for spill, a journal entry or its instance's quota
(R15, R69). -/
structure WaitDesc where
  kind : DescKind
  desc : List Byte
  plan : Option PlanCopy
  spill : Nat
  priority : Nat
  /-- TASK_QUOTA in force when step 2 ran (R71). -/
  quota : Nat
  deriving DecidableEq, Repr

/-- Location of a queue or ring. -/
inductive Loc
  | device
  | host
  deriving DecidableEq, Repr

/-- A submission queue (R306). Slot positions count all slots since creation. -/
structure SubQ where
  network : Bool := false
  base : Nat := 0
  entries : Nat := 16
  loc : Loc := .device
  cq : Nat := 0
  headAddr : Nat := 0
  slotBytes : Nat := 0
  /-- TAIL as software last wrote it (Table 14-4). -/
  tail : Nat := 0
  /-- Position of the next slot to be checked. -/
  fetch : Nat := 0
  /-- Position of the first slot not passed by HEAD (R307). -/
  head : Nat := 0
  /-- Position whose head value was last written back (R307). -/
  written : Nat := 0
  nextAsn : Nat := 1
  /-- ASN of the next completion to post (R22). -/
  postAsn : Nat := 1
  error : Bool := false
  waiting : Option WaitDesc := none
  /-- Network SQ: positions of slots filled and not yet admitted hold a SEND of this length (R156). -/
  sends : Tbl Nat := []
  /-- Network SQ: queue pair that sent the SEND in the slot at a position (R158). -/
  senders : Tbl Nat := []
  /-- Network SQ: ASN of accepted slots the head has not passed, by position (R158). -/
  accepts : Tbl Nat := []
  /-- Positions of accepted slots that the head written back has not passed (R420). -/
  taken : List Nat := []
  deriving DecidableEq, Repr

/-- A completion queue (R306, R308). -/
structure ComplQ where
  base : Nat := 0
  entries : Nat := 16
  loc : Loc := .device
  vector : Nat := 0
  coalCount : Nat := 0
  coalTime : Nat := 0
  /-- Entries written since creation. -/
  tail : Nat := 0
  /-- Entries freed by CQ_HEAD since creation (R300). -/
  head : Nat := 0
  error : Bool := false
  /-- Entries written and not signalled (R308). -/
  unsignalled : Nat := 0
  deriving DecidableEq, Repr

/-- A refusal whose completion could not yet be written: the CQ is full, in ERROR, or has no free
error-record slot (R23, R480). -/
structure HeldRefusal where
  sq : Nat
  pos : Nat
  gen : Nat
  status : Nat
  er : ErrRec
  noIrq : Bool
  erWait : Bool := false
  sender : Option Nat := none
  deriving DecidableEq, Repr

/-- A fault record (R266). -/
structure FaultRec where
  id : Nat
  inst : Nat
  gen : Nat
  asn : Nat
  sq : Nat
  address : Nat
  unit : Nat
  reason : Nat
  level : Nat
  access : Nat
  stage : Nat
  channel : Nat := 0xFF
  deriving DecidableEq, Repr

/-- What the device keeps for an instance beside its dictionary attributes. -/
structure InstState where
  sqs : Tbl SubQ := []
  cqs : Tbl ComplQ := []
  /-- Refusals waiting to be posted, oldest first. -/
  refusals : List HeldRefusal := []
  /-- Doorbell registers read back the last value written (R299), by offset. -/
  doorbell : Tbl Nat := []
  /-- CMD, CMD_STATUS and CMD_RESULT (Tables 14-3 and 14-6). -/
  cmd : List Byte := []
  cmdStatus : Nat := 0
  cmdResult : List Byte := []
  /-- Error-record slots held: by slot, the CQ and the entry position (R480). -/
  erHeld : Tbl (Nat × Nat) := []
  erSeq : Nat := 1
  /-- Fault queue: records written since it started, records freed by FAULT_HEAD, records waiting (R267). -/
  fqTail : Nat := 0
  fqHead : Nat := 0
  fqWaiting : List FaultRec := []
  /-- Reset in progress: its CAUSE and the generation that was reset (R321). -/
  resetCause : Nat := 0
  resetGen : Nat := 0
  /-- The reset ends in ABSENT (R317). -/
  destroying : Bool := false
  /-- The reset leaves the image's jobs unlisted: the image was read while FROZEN (R328). -/
  imageRead : Bool := false
  /-- Reset-report ring: records written, and records held in the device (R324). -/
  rrTail : Nat := 0
  rrHeadPos : Nat := 0
  rrHeld : List (List Byte) := []
  /-- Times at which FREEZING began, and at which FROZEN began (R325, R326). -/
  freezeStart : Nat := 0
  frozenSince : Nat := 0
  /-- The last INSTANCE_IMAGE written (R328), and the one built for this freeze (R327). -/
  imageIn : List Byte := []
  imageOut : List Byte := []
  /-- LOG_CONTROL writes whose previous bitmap's last marks may still be in flight (R330). -/
  logDraining : Nat := 0
  deriving DecidableEq, Repr

/-- State of a placed task (Table 11-1); a FREE slot is not listed. -/
inductive TaskRun
  | ready
  | running
  | waiting
  | delayed
  | freePending
  deriving DecidableEq, Repr

/-- An input port of a placed stage: what has been handed over and not yet consumed (R18). -/
structure InPort where
  stream : Nat
  buf : List Elem := []
  ended : Bool := false
  /-- Bytes of a VARBYTES value, its length group first, whose last byte has not handed over (R19). -/
  part : List Byte := []
  /-- Validity of the elements of the block in transfer that have not handed over (R56). -/
  valid : List Bool := []
  deriving DecidableEq, Repr

/-- An output port of a placed stage: what has been emitted and not yet handed over (R18, R66). -/
structure OutPort where
  stream : Nat
  buf : List Elem := []
  ended : Bool := false
  acked : Bool := false
  emitted : Nat := 0
  /-- Bytes of the front VARBYTES value, its length group first, that have handed over (R19). -/
  sent : Nat := 0
  /-- Elements still to hand over of the block whose validity word has (R56). -/
  block : Nat := 0
  deriving DecidableEq, Repr

/-- State of the thermal governor beside its dictionary entries (R455 to R457). -/
structure GovState where
  /-- cap[z] in mW; a zone not listed has 65,000. -/
  caps : Tbl Nat := []
  /-- The AVSBus request in flight, in mV, and how often it has been tried. -/
  request : Option Nat := none
  tries : Nat := 0
  /-- A request has left since the last tick boundary: at most one a tick (R455). -/
  sent : Bool := false
  /-- A zone passed a task since the last tick. -/
  passed : Bool := false
  /-- Time since which power has been above POWER_LIMIT. -/
  overSince : Option Nat := none
  deriving DecidableEq, Repr

/-- A translation fault that parked a task (R265 to R269). -/
structure Parked where
  id : Nat
  /-- Time of the boundary's first record (R269). -/
  since : Nat
  fr : FaultRec
  deriving DecidableEq, Repr

/-- A dictionary prepared for a column: its entries and, for each, the bits of the column's terms (R83). -/
structure SvDict where
  addr : Nat
  entries : List (List Byte)
  bits : List Nat
  deriving DecidableEq, Repr

/-- A decoded row of a column: its value, its code, and the bits of the column's terms. -/
structure SvVal where
  elem : Elem
  code : Nat := 0
  bits : Nat := 0
  deriving DecidableEq, Repr

/-- A column of the row group a Sieve scans (R86, R87). -/
structure SvCol where
  /-- Pages or frames read of the chunk. -/
  page : Nat := 0
  /-- First row not yet read. -/
  next : Nat := 0
  /-- DICT_ADDRESS of the chunk's first page, once read (R30). -/
  first : Option Nat := none
  /-- Region of the chunk's first page (R42). -/
  region : Option Nat := none
  /-- Address of the next frame, for a framed chunk (R43). -/
  frame : Nat := 0
  /-- Rows decoded and not yet emitted. -/
  vals : List SvVal := []
  dict : Option SvDict := none
  deriving DecidableEq, Repr

/-- A page that waits for its dictionary (R83, R504). -/
structure SvWait where
  col : Nat
  addr : Nat
  page : List Byte
  deriving DecidableEq, Repr

/-- What a Sieve holds of its SCAN. -/
structure SvState where
  /-- Chunk-list entry in work. -/
  entry : Nat := 0
  /-- Rows of the entry's row group emitted. -/
  emitted : Nat := 0
  cols : List SvCol := []
  wait : Option SvWait := none
  /-- Rows of the block in work that have left, where OUT_CAP holds back the rest (R70). -/
  left : Nat := 0
  /-- Time since which a block waits for its outputs (R90, R95). -/
  stall : Option Nat := none
  deriving DecidableEq, Repr

/-- Where a Tun channel stands on its chain (R340, R343). -/
inductive TunPhase
  | fetch
  | moving
  /-- The descriptor has ended and its write-back is due; whether the chain goes on. -/
  | writeback (more : Bool)
  /-- A sink's last descriptor is full: further bytes are dropped. -/
  | dropping
  | ended
  deriving DecidableEq, Repr

/-- A Tun channel: its current descriptor (Table 16-2) and its progress record. -/
structure TunState where
  /-- Address of the descriptor, or of the next to be fetched. -/
  at_ : Nat := 0
  addr : Nat := 0
  rowBytes : Nat := 0
  rows : Nat := 0
  stride : Int := 0
  next : Nat := 0
  wb : Bool := false
  /-- Bytes transferred for the descriptor. -/
  k : Nat := 0
  hops : Nat := 0
  /-- Bytes transferred by the channel. -/
  total : Nat := 0
  phase : TunPhase := .fetch
  dropped : Nat := 0
  short : Bool := false
  long : Bool := false
  /-- The partition reached FILL_HIGH and has not drained to FILL_LOW (R345); since when. -/
  paced : Bool := false
  pacedAt : Nat := 0
  deriving DecidableEq, Repr

/-- One access of an engine to memory, at most a 4 KiB block long (Tables 05-9 and 06-9). -/
inductive IoOp
  /-- A read, whose bytes join `bytes` of the engine. -/
  | read (addr len : Nat)
  | write (addr : Nat) (bytes : List Byte)
  /-- A write of content whose layout the spec does not state: free values. -/
  | scratch (addr len : Nat)
  /-- Every block of a run has been written (RUNS_SPILLED). -/
  | runDone
  deriving DecidableEq, Repr

/-- Rows an engine has set apart: a partition, the rows of a sub-table, or the rows of some hash bits. -/
structure SpillPart where
  /-- Its partition number, its sub-table, or the level of hash bits used: each operator's definition says which. -/
  id : Nat
  rows : List (List Elem) := []
  /-- Bytes of its open block, held in SRAM. -/
  fill : Nat := 0
  /-- Its blocks in memory, by number. -/
  blocks : List Nat := []
  deriving DecidableEq, Repr

/-- A Grist context: chaining state, byte count, buffered input, HMAC key state, result register (R370). -/
structure GristCtx where
  chain : List Nat := []
  /-- Bytes of the message taken (R372). -/
  count : Nat := 0
  /-- Input buffered, at most two blocks (R374). -/
  buf : List Byte := []
  /-- HMAC: the chaining state after the outer key block; empty without HMAC. -/
  outer : List Nat := []
  result : List Byte := []
  deriving DecidableEq, Repr

/-- What a unit holds for its stage between commands. -/
structure Eng where
  /-- The stage has started (operand read, table header checked, contexts initialised). -/
  started : Bool := false
  /-- Rows taken: one element of each input port. -/
  rows : List (List Elem) := []
  /-- Input bytes taken, or chaining data of a byte stage. -/
  bytes : List Byte := []
  /-- Result elements formed and not yet emitted, each with its output port, in the order in which they leave. -/
  results : List (Nat × Elem) := []
  /-- The whole result has been formed: the stage ends its outputs once it has left. -/
  last : Bool := false
  /-- STATE the unit shows while its task runs. -/
  shown : Nat := 0
  /-- Memory accesses due, in order: the stage does nothing else before they are done. -/
  io : List IoOp := []
  /-- Rows taken and not yet acted on. -/
  pend : List (List Elem) := []
  /-- Groups closed and not yet formed into output rows, in output order. -/
  groups : List (List (List Elem)) := []
  /-- Parts that wait, and parts in the making. -/
  parts : List SpillPart := []
  fresh : List SpillPart := []
  /-- Rows of a sub-table that have matched in an earlier chunk (R110). -/
  seen : List Nat := []
  /-- Counters whose meaning each operator's definition states. -/
  a : Nat := 0
  b : Nat := 0
  c : Nat := 0
  d : Nat := 0
  /-- The stage has ended its outputs. -/
  done : Bool := false
  /-- Marks on entries or rows (MATCHED of R103 in the engine). -/
  marks : List Nat := []
  /-- A table, image or record held in the unit's memory. -/
  table : List Byte := []
  /-- Sieves only. -/
  sv : SvState := {}
  /-- Tun channels only; the partition is `bytes`. -/
  tun : TunState := {}
  /-- Grist only: the context slot that the stage holds. -/
  ctx : GristCtx := {}
  deriving DecidableEq, Repr

/-- An entry of a Glume bank group (R388). -/
structure GEntry where
  value : Nat := 0
  mask : Nat := 0
  prio : Nat := 0
  valid : Bool := false
  result : Nat := 0
  deriving DecidableEq, Repr

/-- A Glume bank group: its banks in order, its width, its entries by index (R385). An entry not listed has VALID clear and all
fields zero, as has every row of a bank that no group holds (R399). -/
structure Group where
  banks : List Nat := []
  width : Nat := 0
  entries : Tbl GEntry := []
  deriving DecidableEq, Repr

/-- k: banks side by side in an entry (R385). -/
def Group.wide (g : Group) : Nat := g.width / 160

/-- E: the entries the group's banks hold (R385). -/
def Group.depth (g : Group) : Nat := 4096 * g.banks.length / g.wide

/-- The rows of entry i: bank and row within it (R385). -/
def Group.rowsOf (g : Group) (i : Nat) : List (Nat × Nat) :=
  ((g.banks.drop (g.wide * (i / 4096))).take g.wide).map fun b => (b, i % 4096)

/-- The entry that a row of one of the group's banks belongs to (R385). -/
def Group.entryOf (g : Group) (bank row : Nat) : Nat := g.banks.idxOf bank / g.wide * 4096 + row

/-- A placed task (R241 to R250). -/
structure Task where
  jid : Nat
  inst : Nat
  /-- The generation of its instance when it was placed (R319). -/
  gen : Nat := 0
  phase : Nat
  stage : Nat
  /-- Unit number of Table 11-9 and, for Grist, Tun and Glume, the slot, channel or group within it. -/
  unit : Nat
  sub : Nat := 0
  /-- Further units a SCAN stage holds: its Kiln engine and one Glume group per IN_SET term (R80). -/
  extra : List Nat := []
  zone : Nat
  cls : Nat
  prio : Nat
  run : TaskRun := .ready
  readySeq : Nat
  pass : Nat := 0
  urgent : Bool := false
  flags : BitVec 32 := 0
  waitMask : BitVec 32 := 0
  waitAll : Bool := false
  /-- Tick at which the wait or delay expires (R251, R252). -/
  wakeAt : Option Nat := none
  /-- A stop has been asked for and not yet reported (R247). -/
  stopping : Bool := false
  /-- The zone of one of its units was gated under it: it holds its slot without budget, READY only when the zone is powered
  (Table 22-6). -/
  gated : Bool := false
  /-- Time at which the task entered READY (Table 11-8). -/
  readyAt : Nat := 0
  /-- The time of the wait that timed out last, and its mask, until the task waits again: flags of it that arrive at that
  moment have lost to the timeout (R253). -/
  lost : Option (Nat × BitVec 32) := none
  ins : List InPort := []
  outs : List OutPort := []
  /-- Its part of the spill pool: device addresses and lengths, in order (R69). -/
  spill : List (Nat × Nat) := []
  eng : Eng := {}
  parked : Option Parked := none
  /-- First fault record of the boundary the task is at: its time, and the unit's progress then (R268, R269). -/
  firstFault : Option (Nat × Eng) := none
  finished : Bool := false
  deriving DecidableEq, Repr

end Sys2Proof.Machine
end

