-- ==== Sys2Proof/Machine/NetState.lean ====
section
/-! DEFINITION. State of the network planes, queue pairs, regions and exchange (chapter 07). -/

namespace Sys2Proof.Machine

/-- A RoCEv2 message or answer that the device sends (Table 07-1). -/
inductive RoceMsg
  | send (payload : List Byte)
  | write (key address : Nat) (data : List Byte)
  | writeImm (key address : Nat) (data : List Byte) (imm : Nat)
  | ack
  | nak (code : NakCode)
  | readResponse (data : List Byte)
  | cnp
  deriving DecidableEq, Repr

/-- What a message is sent for, so that its acknowledgement can be told (R159, R164). -/
inductive TxFor
  | plain
  /-- A write of a SINK_REMOTE stage: job, stage, bytes. -/
  | sink (jid stage len : Nat)
  /-- A segment of an EXCH_SEND stage: job, stage, peer. -/
  | segment (jid stage peer : Nat)
  deriving DecidableEq, Repr

/-- A message of a queue pair's send queue: its first PSN, its packets, and whether it has left. -/
structure TxMsg where
  psn : Nat
  count : Nat
  msg : RoceMsg
  why : TxFor := .plain
  sent : Bool := false
  deriving DecidableEq, Repr

/-- Path state of a queue pair (Table 07-3). -/
inductive PathState
  | armed
  | migrated
  | rearm
  deriving DecidableEq, Repr

/-- A queue pair (R143 to R155). -/
structure QP where
  inst : Nat
  gen : Nat
  /-- USE: 1 SUBMIT, 2 EXCHANGE, 3 DATA (Table 14-5). -/
  use : Nat
  /-- Network SQ of a SUBMIT queue pair. -/
  sq : Nat := 0
  /-- MTU code 1 to 5. -/
  mtu : Nat := 1
  connected : Bool := false
  /-- The error state. -/
  err : Bool := false
  remoteQpn : Nat := 0
  remoteIp : Nat := 0
  /-- Primary plane, port within each plane (bit 0 A, bit 1 B), and the current path's plane. -/
  primary : Nat := 0
  ports : Nat := 0
  plane : Nat := 0
  path : PathState := .armed
  /-- It has migrated and sent no packet on the new path yet: the first has MigReq set (R152). -/
  migNext : Bool := false
  timeoutN : Nat := 10
  retry : Nat := 0
  rnrRetry : Nat := 0
  /-- PSN of the next message sent, and of the next expected. -/
  txPsn : Nat := 0
  rxPsn : Nat := 0
  /-- Messages not acknowledged, oldest first. -/
  sendQ : List TxMsg := []
  retries : Nat := 0
  /-- The time of the acknowledgement timeout reported last, until a reply of that moment has lost to it (R253). -/
  timedOut : Option Nat := none
  rnrs : Nat := 0
  /-- An RNR delay runs. -/
  rnrWait : Bool := false
  /-- A sequence NAK has been sent since the last packet in order. -/
  nakSent : Bool := false
  /-- Transmissions are held for PATH_HOLD since this time (R155). -/
  heldSince : Option Nat := none
  /-- Answers held with them, oldest first: PSN and packet (Table 07-2). -/
  heldOut : List (Nat × RoceMsg) := []
  /-- Rate, target, alpha and quiet of R150, and whether a CNP came in this period. -/
  rate : Nat := 400000
  target : Nat := 400000
  alpha : Nat := 1024
  quiet : Nat := 0
  cnpSeen : Bool := false
  /-- When the device last sent a CNP for the queue pair (R149). -/
  cnpAt : Option Nat := none
  deriving DecidableEq, Repr

/-- A registered region (R146). -/
structure Region where
  inst : Nat
  gen : Nat
  base : Nat
  length : Nat
  read : Bool
  write : Bool
  /-- The landing zone of an exchange, not registered by the driver. -/
  zone : Bool := false
  deriving DecidableEq, Repr

/-- A sender as an open zone knows it (R164, R166). -/
structure RxSender where
  /-- Queue pair its OPEN came on. -/
  qp : Nat
  /-- Next expected sequence. -/
  expected : Nat := 0
  /-- Granted sequences and their slots. -/
  grants : List (Nat × Nat) := []
  /-- It asked for a slot when none was free. -/
  asks : Bool := false
  /-- Segment count of its END. -/
  count : Option Nat := none
  deriving DecidableEq, Repr

/-- A landed segment that has not been emitted. -/
structure Landed where
  sender : Nat
  seq : Nat
  slot : Nat
  len : Nat
  deriving DecidableEq, Repr

/-- An exchange zone (R162 to R169). -/
structure Zone where
  jid : Nat
  stage : Nat
  inst : Nat
  exchange : Nat
  senderCount : Nat
  depth : Nat
  ordered : Bool
  base : Nat
  slots : Nat
  key : Nat
  /-- CRC-32C of the stage's row layout entry. -/
  crc : Nat
  senders : Tbl RxSender := []
  landed : List Landed := []
  /-- ORDERED: the sender whose rows are being emitted. -/
  turn : Nat := 0
  /-- Sender last granted a slot (R164). -/
  last : Nat := 0
  /-- Segments whose landing has faulted and that have not landed since: sender, number, and the time of the first record
  (R268, R269). -/
  faulted : List ((Nat × Nat) × Nat) := []
  /-- A segment's fault that no placed stage could park for, unresolved (R265, Table 12-4; log entry 49). -/
  parked : Option Parked := none
  deriving DecidableEq, Repr

/-- A peer of an EXCH_SEND stage. -/
structure TxPeer where
  qp : Nat
  /-- Row bytes not yet in a segment sent; the first belongs to segment `seq`. -/
  buf : List Byte := []
  seq : Nat := 0
  opened : Bool := false
  closed : Bool := false
  /-- A NOT_OPEN answer: OPEN is sent again. -/
  again : Bool := false
  /-- It asked for a slot and has had no answer. -/
  asked : Bool := false
  expected : Nat := 0
  key : Nat := 0
  grants : List (Nat × Nat) := []
  unacked : Nat := 0
  lastLen : Nat := 0
  ended : Bool := false
  deriving DecidableEq, Repr

/-- What an EXCH_SEND stage holds (R160, R161). -/
structure XSend where
  jid : Nat
  stage : Nat
  exchange : Nat
  sender : Nat
  entries : List Nat
  peers : List TxPeer
  crc : Nat
  width : Nat
  deriving DecidableEq, Repr

/-- A message on its way over the Sheaf fabric. -/
structure FabMsg where
  src : Nat
  dst : Nat
  msg : RoceMsg
  deriving DecidableEq, Repr

/-- The network's state. -/
structure NetState where
  /-- The configured addresses of the device (R147; log entry 4): IPv4, written as an IPv4-mapped IPv6 address, and IPv6. -/
  localIp : Nat := 0xFFFF0A000001
  localIp6 : Nat := 0xFE80000000000000000000000A000001
  /-- Packets refused for an unsupported operation or a broken transport rule (R144); no entry publishes the count. -/
  refused : Nat := 0
  qps : Tbl QP := []
  /-- The region table and its tags by index (R146). -/
  regions : Tbl Region := []
  tags : Tbl Nat := []
  zones : List Zone := []
  sends : List XSend := []
  /-- Records of exchanges: instance, EXCHANGE_ID, GRANT STATUS 2 CLOSED or 4 FAILED, time (R165). -/
  closed : List (Nat × Nat × Nat × Nat) := []
  fabric : List FabMsg := []
  /-- Ports whose probe has had no reply yet (R154). -/
  probing : List Nat := []
  deriving DecidableEq, Repr

end Sys2Proof.Machine
end

