-- ==== Sys2Proof/Machine/PowState.lean ====
section
/-! DEFINITION. State of a mode change and of the sensors (chapter 22). -/

namespace Sys2Proof.Machine

/-- What a mode change keeps beside TARGET, TRANSITION and APPLIED (R446, R447, R450). -/
structure PowState where
  /-- Instances that the freeze preparation froze (R450). -/
  froze : List Nat := []
  /-- Thermal sensors that have given a reading, and failed reads in a row, by sensor (R457, R458). -/
  seen : List Nat := []
  failed : Tbl Nat := []
  /-- HOLD_REASON of a fatal error that has not yet brought HOLD (R453, R483). -/
  fatal : Option Nat := none
  /-- Channels that have entered self-refresh since the change to DORMANT began (Table 22-3). -/
  selfRefreshed : List Nat := []
  /-- The dictionary's values at entry to DORMANT, which entries of power-gated units read until it is left (R426). -/
  dormantOd : Tbl Nat := []
  /-- POWER_BRAKE_N is asserted (R493). -/
  brake : Bool := false
  deriving DecidableEq, Repr

end Sys2Proof.Machine
end

