-- ==== Sys2Proof/Machine/Regs.lean ====
section
/-! DEFINITION. The object dictionary's stored values: keys, reset values (R442 and the entry tables of every chapter). -/

namespace Sys2Proof.Machine

/-- The key of the entry at an index and subindex. -/
def odKey (idx sub : Nat) : Nat := idx * 256 + sub

/-- Entries whose reset value is not 0: first index, last index, first subindex, last subindex, value.
The value is the Default column of the entry's table; a row marked log entry 4 in its comment takes the
model's own choice where the spec says from image, from fuses or from straps. -/
def odDefaults : List (Nat × Nat × Nat × Nat × Nat) :=
  [ -- Table 04-10, 05-11, 06-11, 06-12, 17-7, 19-4: OWNER 0xFFFF when idle
    (0x3800, 0x380B, 2, 2, 0xFFFF), (0x3820, 0x3827, 2, 2, 0xFFFF), (0x3828, 0x382B, 2, 2, 0xFFFF),
    (0x3830, 0x3837, 2, 2, 0xFFFF), (0x3C00, 0x3C03, 2, 2, 0xFFFF),
    (0x3E10, 0x3E10, 1, 1, 4), (0x3E11, 0x3E17, 2, 2, 0xFFFF),
    -- Table 08-10
    (0x3400, 0x347F, 2, 2, 0xFFFF),
    -- Table 07-6
    (0x2820, 0x2820, 1, 1, 100), (0x2820, 0x2820, 2, 2, 5000), (0x2820, 0x2820, 3, 3, 50),
    (0x2820, 0x2820, 4, 4, 20), (0x2820, 0x2820, 5, 5, 4096), (0x2820, 0x2820, 6, 6, 8),
    (0x2820, 0x2820, 7, 7, 10), (0x2820, 0x2820, 8, 8, 10), (0x2820, 0x2820, 9, 9, 320),
    (0x2820, 0x2820, 10, 10, 1000),
    -- Table 10-6
    (0x3480, 0x348F, 1, 3, 1),
    -- Table 11-6, 11-7
    (0x3000, 0x3000, 1, 1, 10), (0x3000, 0x3000, 2, 2, 64), (0x3000, 0x3000, 3, 3, 1000),
    (0x3000, 0x3000, 4, 4, 16000),
    (0x3001, 0x3001, 1, 1, 50), (0x3001, 0x3001, 2, 2, 250), (0x3001, 0x3001, 3, 3, 500),
    (0x3001, 0x3001, 4, 4, 1000), (0x3001, 0x3001, 5, 5, 2000), (0x3001, 0x3001, 6, 6, 4000),
    (0x3001, 0x3001, 7, 7, 8000), (0x3001, 0x3001, 8, 8, 12000),
    (0x3010, 0x301F, 1, 1, 16000),
    -- Table 12-5
    (0x2300, 0x2300, 3, 3, 100), (0x2300, 0x2300, 4, 4, 2000),
    -- Table 13-7
    (0x2000, 0x2000, 7, 7, 2048), (0x2000, 0x2000, 8, 9, 1), (0x2000, 0x2000, 10, 10, 24),
    (0x2000, 0x2000, 11, 11, 100),
    -- Table 13-6
    (0x2001, 0x2001, 1, 1, 400), (0x2001, 0x2001, 2, 5, 1000), (0x2001, 0x2001, 6, 9, 250),
    (0x2001, 0x2001, 10, 11, 300), (0x2001, 0x2001, 12, 12, 600), (0x2001, 0x2001, 13, 13, 2000),
    (0x2001, 0x2001, 14, 14, 1500), (0x2001, 0x2001, 15, 15, 200), (0x2001, 0x2001, 16, 16, 10000),
    -- Table 15-2: instance 0 is always ACTIVE (R314) and its ceiling is 63 (R238)
    (0x4000, 0x4000, 3, 3, 1), (0x4000, 0x4FFF, 5, 5, 100), (0x4000, 0x4000, 6, 6, 63),
    (0x4001, 0x4FFF, 6, 6, 31), (0x4000, 0x4FFF, 7, 8, 256), (0x4000, 0x4FFF, 15, 15, 1000),
    -- Table 16-4
    (0x3F10, 0x3F10, 1, 1, 65536), (0x3F10, 0x3F10, 2, 2, 28), (0x3F10, 0x3F10, 3, 3, 16),
    -- Table 18-4
    (0x1140, 0x1140, 3, 3, 0x7F),
    -- Table 20-9
    (0x2C03, 0x2C03, 1, 1, 2000), (0x2C03, 0x2C03, 2, 2, 30),
    -- Table 21-7
    (0x1100, 0x1100, 5, 5, 51730), (0x1100, 0x1100, 6, 6, 100), (0x1100, 0x1100, 7, 7, 2000),
    (0x1100, 0x1100, 8, 8, 1000), (0x1280, 0x1291, 2, 2, 0xFFFF), (0x1288, 0x128D, 4, 4, 1000),
    -- R440: fixed owners of timers 6 and 7
    (0x128E, 0x128E, 1, 1, 1), (0x128F, 0x128F, 1, 1, 2),
    -- Table 22-7
    (0x1300, 0x1300, 1, 1, 3), (0x1310, 0x1310, 1, 1, 500), (0x1310, 0x1310, 4, 4, 600),
    (0x1310, 0x1310, 5, 5, 900), (0x1310, 0x1310, 7, 7, 1100), (0x1310, 0x1310, 11, 11, 400),
    (0x1320, 0x132F, 1, 1, 1),
    -- Table 23-8
    (0x1200, 0x1200, 2, 2, 0xFF), (0x1200, 0x1200, 7, 7, 1),
    -- Table 25-5
    (0x12A0, 0x12A0, 1, 1, 0xFF),
    -- from image, fuses or straps (log entry 4)
    (0x1100, 0x1100, 2, 2, 8), (0x1201, 0x1201, 2, 2, 1000),
    (0x1202, 0x1202, 1, 1, 0x1fff3fff0fff0fffffffffffffffffffffffffffffffffff),
    (0x3E00, 0x3E00, 1, 1, 1),
    (0x3E00, 0x3E00, 2, 2, 31) ]

/-- The reset value of an entry. -/
def odDefault (key : Nat) : Nat :=
  let idx := key / 256
  let sub := key % 256
  match odDefaults.find? fun r => r.1 ≤ idx && idx ≤ r.2.1 && r.2.2.1 ≤ sub && sub ≤ r.2.2.2.1 with
  | some r => r.2.2.2.2
  | none => 0

end Sys2Proof.Machine
end

