-- ==== Sys2Proof/Machine/TwinState.lean ====
section
/-! DEFINITION. State of the Kolfer link, the mirror and the twin's shadow (chapter 20). -/

namespace Sys2Proof.Machine

/-- A queue of the lost or mirrored twin as the shadow knows it (R409, R418). -/
structure ShadowQ where
  fields : List Nat := []
  /-- SQ: head position written back. CQ: position of the next entry. -/
  pos : Nat := 0
  /-- CQ: entries freed by the last CQ_HEAD received. -/
  head : Nat := 0
  /-- SQ: highest ASN mirrored, and positions of mirrored slots the head has not passed (R420). -/
  asn : Nat := 0
  taken : List Nat := []
  deriving DecidableEq, Repr

/-- The shadow of the twin's state (R408). -/
structure Shadow where
  /-- Journal entries (Table 20-6), in the order received. -/
  entries : List (List Byte) := []
  /-- Queues by instance × 32 + queue number, CQs from 16. -/
  queues : Tbl ShadowQ := []
  /-- Attributes of instances by number. -/
  insts : Tbl (List (Nat × Nat)) := []
  floors : Tbl Nat := []
  epoch : Nat := 0
  policy : Nat := 0
  deriving DecidableEq, Repr

/-- A shadow whose journal, queues and instances are to be replaced; floors, epoch and policy stay. -/
def Shadow.emptied (sh : Shadow) : Shadow := { sh with entries := [], queues := [], insts := [] }

/-- What arose for a twin that is not there, or for the switch-over (R412 to R417). -/
structure TwinState where
  /-- Number of the next record sent; the highest number acknowledged; the highest number applied (R409). -/
  nextRec : Nat := 1
  acked : Nat := 0
  applied : Nat := 0
  /-- Numbers of records that a link that is or went DOWN has lost: no acknowledgement covers them (R404, R410). -/
  lost : List Nat := []
  /-- The FLOOR record of a claim's epoch, and the epoch, while its acknowledgement is awaited (R412, Table 20-7). -/
  claimRec : Option (Nat × Nat) := none
  /-- Records waiting for a place in a flit (R404). -/
  waiting : List MItem := []
  /-- DATA flits sent and not acknowledged, oldest first (R404). -/
  replay : List (Nat × List MItem) := []
  /-- SEQ of the next DATA flit sent, and of the next expected. -/
  txSeq : Nat := 0
  rxSeq : Nat := 0
  /-- A NAK has been sent and no in-order flit has arrived since. -/
  nakSent : Bool := false
  /-- Replays in a row without an advance of ACK. -/
  replays : Nat := 0
  /-- Records received in order and not yet applied. -/
  received : List MItem := []
  shadow : Shadow := {}
  /-- HB_SEQ of the next heartbeat. -/
  hbSeq : Nat := 0
  /-- The last valid heartbeat, and when it arrived. -/
  partner : Option HeartBeat := none
  hbAt : Nat := 0
  /-- The highest leadership epoch seen from the twin (R412). -/
  known : Nat := 0
  /-- The twin has been heard on the field network since the loss, or since ORPHAN_DELAY last began again (R417). -/
  heard : Bool := false
  /-- The twin is lost since this time (R406). -/
  lostAt : Option Nat := none
  /-- LINKING was entered from UNPAIRED (Table 20-5). -/
  fromUnpaired : Bool := false
  /-- The device has run without reset since the loss, and its DRAM was kept (R419). -/
  intact : Bool := false
  kept : Bool := false
  /-- The twin's whole exchange has been applied: its epoch record, which it sends last (Table 20-8). -/
  exchanged : Bool := false
  /-- The switch-over window holds the STATUS pins and the pair frame's body at these values (R414). -/
  held : Option (Nat × List Byte) := none
  /-- Claims still to be sent, and the wait of a standby side B (R412, R413). -/
  claims : Nat := 0
  claimWait : Bool := false
  /-- Orphaning of the shadow has begun (R417). -/
  orphaning : Bool := false
  /-- The shadow of a twin that returned with neither flag, whose last orphans still wait for CQ slots (Table 20-8 step 4). -/
  old : Shadow := {}
  deriving DecidableEq, Repr

end Sys2Proof.Machine
end

