-- ==== Sys2Proof/Machine/VdpState.lean ====
section
/-! DEFINITION. State of the dictionary protocol: kept responses, sessions, timers, frames (chapter 21). -/

namespace Sys2Proof.Machine

/-- A response the device keeps (R428). -/
structure KeptResp where
  src : VdpSrc
  txn : Nat
  request : List Byte
  response : List Byte
  /-- Time at which DUP_WINDOW ends. -/
  ends : Nat
  deriving DecidableEq, Repr

/-- A segmented transfer (R432). -/
structure Session where
  src : VdpSrc
  idx : Nat
  sub : Nat
  download : Bool
  principal : Nat := 0
  counter : Nat := 0
  tag : List Byte := []
  total : Nat
  /-- Upload: the object as opened. Download: the bytes received. -/
  bytes : List Byte := []
  /-- SEG_TIMEOUT in force at its opening, and the time of its last request. -/
  timeout : Nat
  last : Nat
  deriving DecidableEq, Repr

/-- What a request that has been checked and not yet answered waits for. -/
inductive VdpStage
  /-- The mirror acknowledgement of a FLOOR record (R381). -/
  | mirrorAck (num : Nat)
  /-- The flash counter log (R381). -/
  | counterLog
  /-- The device-made image update, and then the entry's new value (R476). -/
  | imageUpdate
  deriving DecidableEq, Repr

/-- A request in the dictionary that waits (R429): its message, and the write it makes. -/
structure Held where
  src : VdpSrc
  msg : List Byte
  stage : VdpStage
  idx : Nat
  sub : Nat
  value : List Byte
  principal : Nat := 0
  counter : Nat := 0
  deriving DecidableEq, Repr

/-- What the dictionary protocol keeps. -/
structure VdpState where
  kept : List KeptResp := []
  sessions : Tbl Session := []
  nextSession : Nat := 1
  /-- The request that waits, and those behind it, first in first out (R429). -/
  held : Option Held := none
  queue : List (VdpSrc × List Byte) := []
  /-- The counter log's leadership epoch (R412, R473). -/
  loggedEpoch : Nat := 0
  /-- CYC_SEQ of device frames and of pair frames, and the latest device frame (R434). -/
  cycSeq : Nat := 0
  pairSeq : Nat := 0
  deviceFrame : List Byte := []
  /-- The body of the last pair frame from the byte after CYC_SEQ on; empty while the device does not lead (R434). -/
  pairTail : List Byte := []
  /-- VDP_PORT before its last write, which is answered from it (R442). -/
  port : Nat := 51730
  /-- The field network's link is up (R413). -/
  netUp : Bool := true
  /-- Running general timers by number 0 to 5: start, and the period and mode it runs with (R441). -/
  timers : Tbl (Nat × Nat × Nat) := []
  deriving DecidableEq, Repr

end Sys2Proof.Machine
end

