-- ==== Sys2Proof/Machine/State.lean ====
section
/-! DEFINITION. The state of the block: plain data, every register, queue and unit the spec gives it. -/

namespace Sys2Proof.Machine

/-- The operating modes of Table 22-1, in the order of their codes. -/
inductive Mode
  | off
  | fuseLoad
  | configLoad
  | run
  | drain
  | dormant
  | freeze
  | hold
  deriving DecidableEq, Repr

/-- What leaves the block (log entry 3). -/
inductive OutMsg
  | msix (inst : Nat) (vector : Nat)
  /-- A DATA flit to the twin. -/
  | dataFlit (seq ack : Nat) (recs : List MItem)
  /-- A flit to the twin that is no DATA flit, as its 256 bytes (Tables 20-2, 20-3). -/
  | flit (bytes : List Byte)
  /-- A CLAIM message to ff02::1, from and to a port of UDP (R438). -/
  | claim (port : Nat) (msg : List Byte)
  /-- A RoCEv2 message on a port: destination address, queue pair, PSN, MigReq, whether it is marked ECT(0). -/
  | roce (port ip qpn psn : Nat) (mig ect0 : Bool) (m : RoceMsg)
  /-- A frame that is not RoCEv2 on a port. -/
  | frame (port : Nat) (f : Frame)
  /-- An AVSBus request in mV. -/
  | avs (mv : Nat)
  /-- A VDP response, from a UDP port; from the pair node's address where `pair` holds. -/
  | vdp (dst : VdpSrc) (port : Nat) (pair : Bool) (msg : List Byte)
  /-- A cyclic frame to ff02::1 at a port of UDP. -/
  | cyclic (pair : Bool) (port : Nat) (msg : List Byte)
  /-- A PLCA BEACON of the coordinator, for as many nodes (R424). -/
  | beacon (nodes : Nat)
  /-- A mailbox command's return code and output payload. -/
  | mailbox (link code : Nat) (payload : List Byte)
  /-- A CXL.mem read's data and poison indication; no data when it is not answered with data. -/
  | memData (link : Nat) (data : List Byte) (poison : Bool)
  | memDone (link : Nat)
  /-- Completion of a configuration request: Retry Status or not, and what it reads (R294). -/
  | config (link function : Nat) (retry : Bool) (data : Nat)
  /-- Completion of a memory read of a function's BARs (Table 14-2). -/
  | ioData (link function : Nat) (data : Nat)
  /-- Completion of an ATS invalidation request (R263). -/
  | atsDone (link : Nat)
  /-- An answer on the field network that is not VDP (R425): a neighbour advertisement or an echo reply. -/
  | mgmtReply (frame : MgmtFrame)
  /-- A control word written to the DIMMs of the channels of a mask (Table 23-5). -/
  | controlWord (target rank address value channels : Nat)
  /-- What the TAP shifts out of the register an instruction selects: its length and captured bits (R490). -/
  | tap (ir : TapIr) (bits : Nat)
  deriving DecidableEq, Repr

/-- The host behind a link: its memory and the I/O virtual ranges its IOMMU rejects (R263; log entry 7). -/
structure HostMem where
  mem : List Host.Cell := []
  /-- Ranges (base, length) that the IOMMU or an ATS translation refuses. -/
  denied : List (Nat × Nat) := []
  deriving DecidableEq, Repr

/-- Memory behind the block and its translation state. -/
structure MemState where
  /-- Device memory by physical address; an unlisted byte reads 0 (log entry 6). -/
  dram : List Host.Cell := []
  /-- Poisoned 32-byte codewords, by number (R288, R289). -/
  poison : List Nat := []
  /-- Host memory by link. -/
  hosts : Tbl HostMem := []
  /-- Translations the units cache (R262). -/
  tlb : List TlbEntry := []
  /-- Invalidations in the order written (R262). -/
  invals : List Invalidation := []
  /-- Roots of the resident runtime's and the firmware's contexts (R256; log entry 10). -/
  runtimeRoot : Nat := 0
  firmwareRoot : Nat := 0
  /-- Burst requests waiting at each DRAM channel, oldest first (R285). -/
  reqs : Tbl (List DramReq) := []
  /-- FAULT_ID of the next fault record (R266). -/
  nextFault : Nat := 1
  /-- The plan store of the journal area: descriptor and admission copy by number (R49, R408). -/
  planStore : Tbl (List Byte × Option PlanCopy) := []
  deriving DecidableEq, Repr

/-- The query path: instances, jobs, tasks. -/
structure JobsState where
  insts : Tbl InstState := []
  /-- Accepted-but-incomplete jobs in order of acceptance: the journal (R408). -/
  jobs : List Job := []
  nextJid : Nat := 0
  /-- Task slots by number; an unlisted slot is FREE (R241, R242). -/
  tasks : Tbl Task := []
  /-- Ready sequence counter (R245). -/
  readySeq : Nat := 0
  /-- RESET_ID of the next reset (Table 15-4). -/
  nextReset : Nat := 1
  /-- Time of the last tick boundary, and TICK_US as of it (R252). -/
  tickAt : Nat := 0
  tickUs : Nat := 10
  /-- SHARE of instances as of the last tick boundary, where it is not the default, and their sum S over the instances that
  had a phase waiting or placed then (R240). -/
  shares : Tbl Nat := []
  shareSum : Nat := 0
  /-- Enabled units of each kind of R67, cores first, at that boundary. -/
  portions : List Nat := []
  /-- Times since which a task of a unit has been RUNNING, and since which the unit has been held (Table 11-9). -/
  unitBusy : Tbl Nat := []
  unitHeld : Tbl Nat := []
  /-- Faults whose timeout has expired at this moment: FAULT_ID, unit, time (R253, R269). -/
  lostFaults : List (Nat × Nat × Nat) := []
  /-- Glume bank groups by number; group 0 is the network classifier (R385, R386). -/
  groups : Tbl Group := []
  /-- Rows of the Glume array that hold a parity error: bank and row within it (R398). -/
  badRows : List (Nat × Nat) := []
  /-- Channel last granted by each Tun engine's read side (2e) and write side (2e + 1) (R346). -/
  tunLast : Tbl Nat := []
  /-- Context slot that each Grist engine last started a block of (R373). -/
  gristLast : Tbl Nat := []
  /-- Parity errors found in a Glume group, and groups that have left service on repeated parity (R482). -/
  glumeErrors : Tbl Nat := []
  glumeOut : List Nat := []
  deriving DecidableEq, Repr

/-- The state of the block. -/
structure State where
  /-- Commands waiting, first in, first out. -/
  pending : List Instr := []
  /-- What has left the block, newest first (log entry 3). -/
  out : List OutMsg := []
  /-- Free values taken so far: the model's own field (log entry 2). -/
  freeCtr : Nat := 0
  /-- Time since power-on in TIMEREF periods of 40 ns (R252; log entry 1). -/
  time : Nat := 0
  /-- The operating mode (R443). -/
  mode : Mode := .fuseLoad
  /-- The object dictionary's stored values by key; an unlisted entry has its reset value (R442). -/
  od : Tbl Nat := []
  /-- Memory and translation. -/
  ms : MemState := {}
  /-- The Tiller cores by global number (R171). -/
  cores : Tbl Core := []
  /-- The clusters' shared caches by number (R171). -/
  clusters : Tbl Cluster := []
  /-- Instances, jobs and tasks. -/
  js : JobsState := {}
  /-- The thermal governor. -/
  gov : GovState := {}
  /-- The Kolfer link and the twin. -/
  tw : TwinState := {}
  /-- Queue pairs, regions, planes and the exchange. -/
  net : NetState := {}
  /-- The mode change in progress and the sensors. -/
  pw : PowState := {}
  /-- The dictionary protocol. -/
  vd : VdpState := {}
  /-- CXL links and PF0 mailboxes. -/
  cx : CxlState := {}
  /-- DRAM channels. -/
  dr : DramState := {}
  /-- Start-up, fuses and flash. -/
  bt : BootState := {}
  /-- Pins of chapter 25. -/
  pins : PinState := {}
  /-- RAS log: events of 64 bytes, oldest first, at most 4,096 (R484). -/
  ras : List (List Byte) := []
  deriving DecidableEq, Repr

/-- Why a step stops with a fault. -/
inductive Fault
  /-- No meaning of this model raises it: every access error of the spec is an effect on the state. Safe. -/
  | none
  deriving DecidableEq, Repr

/-- Why a command is refused. -/
inductive Refusal
  /-- Raised by an arm of exec whose command has no meaning yet. Safe: the run stops. -/
  | notModelled (mnemonic : String)
  deriving DecidableEq, Repr

/-- The block right after a device reset of cause 1 (R463): FUSE_LOAD, every entry at its Default. -/
def State.reset : State := {}

end Sys2Proof.Machine
end

