-- ==== Sys2Proof/Machine/Ops.lean ====
section
/-! DEFINITION. Named operations over the dictionary, memory and the output record. -/

namespace Sys2Proof.Machine

/-! ### Object dictionary -/

/-- The stored value of an entry. -/
def od (s : State) (idx sub : Nat) : Nat :=
  match tfind s.od (odKey idx sub) with
  | some v => v
  | none => odDefault (odKey idx sub)

/-- The state with an entry's value stored. -/
def odSet (idx sub v : Nat) (s : State) : State := { s with od := tset s.od (odKey idx sub) v }

/-- A U64 counter advanced by n, modulo 2^64. -/
def odAdd (idx sub n : Nat) (s : State) : State := odSet idx sub ((od s idx sub + n) % 2 ^ 64) s

/-- A U64 counter advanced by one. -/
def odBump (idx sub : Nat) (s : State) : State := odAdd idx sub 1 s

/-- A 32-bit maximum kept saturating. -/
def odMax32 (idx sub v : Nat) (s : State) : State :=
  odSet idx sub (max (od s idx sub) (min v (2 ^ 32 - 1))) s

/-! ### Instance attributes (Table 15-2) -/

/-- Dictionary index of instance n. -/
def instIdx (n : Nat) : Nat := 0x4000 + n

/-- STATE of an instance (Table 15-1). -/
def instSt (s : State) (n : Nat) : Nat := od s (instIdx n) 3

/-- GENERATION of an instance (R319). -/
def instGen (s : State) (n : Nat) : Nat := od s (instIdx n) 4

/-- What the device keeps for an instance beside its attributes. -/
def inst (s : State) (n : Nat) : InstState := tget {} s.js.insts n

/-- The state with an instance's record changed. -/
def instMod (n : Nat) (f : InstState → InstState) (s : State) : State :=
  { s with js := { s.js with insts := tmod {} s.js.insts n f } }

/-! ### Messages out and free values -/

/-- A message leaves the block. -/
def emit (m : OutMsg) (s : State) : State := { s with out := m :: s.out }

/-- The next value the spec leaves open (log entry 2). -/
def takeFree (s : State) : Nat × State := (Config.freeValue s.freeCtr, { s with freeCtr := s.freeCtr + 1 })

/-- In HOLD every task stops, and nothing is placed, completed or accounted (R453): no effect there. -/
def unlessHold (s t : State) : State := if s.mode = .hold then s else t

/-- A fatal error (R483): the first one gives HOLD_REASON when the device enters HOLD (R453). -/
def fatal (reason : Nat) (s : State) : State :=
  if s.pw.fatal.isSome || s.mode = .hold then s else { s with pw := { s.pw with fatal := some reason } }

/-! ### Time -/

/-- TIMEREF periods in a microsecond (R252). -/
def perUs : Nat := 25

/-- Length of the tick in progress in TIMEREF periods: TICK_US as it was at its start (R252). -/
def tickLen (s : State) : Nat := s.js.tickUs * perUs

/-- Tick boundaries passed since reset. -/
def ticks (s : State) : Nat := od s 0x3000 5

/-! ### Event records of PF0 (R418, R447) -/

/-- Links that exist: links 1 and 3 only when their port is split (R295). -/
def links (s : State) : List Nat :=
  (List.range 4).filter fun l => l = 0 || l = 2 || (od s 0x2400 1).testBit (l / 2)

/-- Time of a link's PF0 in ns: as Set Timestamp left it, or since power-on. -/
def stampOf (s : State) (link : Nat) : Nat :=
  match tfind s.cx.stamps link with
  | some (v, t) => v + (s.time * 40 - t)
  | none => s.time * 40

/-- An event record is posted on PF0 of every link. -/
def postEvent (k : EvKind) (s : State) : State :=
  (links s).foldl (fun s l =>
    let h := s.cx.nextHandle
    let now := stampOf s l
    { s with cx := { s.cx with
      events := tmod [] s.cx.events l (· ++ [⟨h, k, now⟩])
      nextHandle := if h = 65535 then 1 else h + 1 } }) s

/-! ### Memory in canonical form -/

/-- The byte a cell list holds at an address; an unlisted byte reads 0 (log entry 6). -/
def memGet (m : List Host.Cell) (a : Nat) : Byte := tget 0 m a

/-- The cells of a byte string from an address: no cell holds 0. -/
def memCells (a : Nat) : List Byte → List Host.Cell
  | [] => []
  | b :: bs => if b = 0 then memCells (a + 1) bs else (a, b) :: memCells (a + 1) bs

/-- The cell list with a byte string stored from an address, in canonical form. -/
def memPut (m : List Host.Cell) (a : Nat) (bs : List Byte) : List Host.Cell :=
  m.takeWhile (fun c => c.1 < a) ++ memCells a bs ++ m.dropWhile (fun c => c.1 < a + bs.length)

/-- The n bytes from an address of a cell list that lists nothing below it. -/
def memWalk : List Host.Cell → Nat → Nat → List Byte
  | _, _, 0 => []
  | [], a, n + 1 => 0 :: memWalk [] (a + 1) n
  | (k, b) :: t, a, n + 1 => if k = a then b :: memWalk t (a + 1) n else 0 :: memWalk ((k, b) :: t) (a + 1) n

/-- The n bytes from an address. -/
def memTake (m : List Host.Cell) (a n : Nat) : List Byte := memWalk (m.dropWhile fun c => c.1 < a) a n

/-- The canonical form: strictly rising addresses, no cell equal to what an unlisted address reads as. -/
def memWf (m : List Host.Cell) : Bool := tsorted m && m.all fun c => c.2 ≠ 0

/-! ### Physical device memory -/

/-- Whether a physical address lies in an installed region of the address map (R257, R277). -/
def physOk (s : State) (pa n : Nat) : Bool :=
  (List.range 8).any fun r =>
    let base := od s (0x2010 + r) 1
    base ≤ pa && pa + n ≤ base + od s (0x2010 + r) 2

/-- Codewords of 32 bytes that a range touches (R288). -/
def codewords (pa n : Nat) : List Nat :=
  if n = 0 then [] else (List.range ((pa + n - 1) / 32 - pa / 32 + 1)).map (· + pa / 32)

/-- Whether a range touches a poisoned codeword (R289). -/
def poisoned (s : State) (pa n : Nat) : Bool := (codewords pa n).any fun w => s.ms.poison.contains w

/-- The poison list after a store: a codeword stops being poisoned only when one store covers it (R225). -/
def unpoison (p : List Nat) (pa n : Nat) : List Nat :=
  p.filter fun w => !(pa ≤ w * 32 && w * 32 + 32 ≤ pa + n)

end Sys2Proof.Machine
end

