-- ==== Sys2Proof/Machine/Memory.lean ====
section
/-! DEFINITION. Physical device memory with its snoops and channel requests, translation, and accesses by
device address and by host address (chapters 10, 12, 13). -/

namespace Sys2Proof.Machine

/-! ### Channels (R277, R278) -/

/-- The region a physical address lies in. -/
def regionOf (s : State) (pa : Nat) : Option Nat :=
  (List.range 8).find? fun r =>
    let base := od s (0x2010 + r) 1
    base ≤ pa && pa < base + od s (0x2010 + r) 2

/-- S(r): where region r's share starts in every channel (R277). -/
def regionShare (s : State) (r : Nat) : Nat :=
  (List.range r).foldl (fun acc q => acc + od s (0x2010 + q) 2 / 12) 0

/-- Channel and channel address of a physical address (Table 13-2), with whether the region is MAP_C. -/
def channelOf (s : State) (pa : Nat) : Option (Nat × Nat × Bool) :=
  match regionOf s pa with
  | none => none
  | some r =>
    let o := pa - od s (0x2010 + r) 1
    let l := od s (0x2010 + r) 2 / 12
    let order := od s (0x2010 + r) 3
    let sh := regionShare s r
    if order = 1 then some (o / 4096 % 12, sh + o / 49152 * 4096 + o % 4096, false)
    else if order = 3 then some (o / l, sh + o % l, false)
    else some (o / 256 % 12, sh + o / 3072 * 256 + o % 256, decide (order = 2))

/-- A channel whose STATE is FAILED answers no request (R291). -/
def channelFailed (s : State) (pa : Nat) : Bool :=
  match channelOf s pa with
  | some (c, _, _) => od s (0x2020 + c) 1 = 3
  | none => true

/-- Mask of the two 32-byte codewords of a burst that meet a test. -/
def halfMask (p : Nat → Bool) (b : Nat) : Nat := (if p (2 * b) then 1 else 0) + (if p (2 * b + 1) then 2 else 0)

/-- Burst requests of an access join the queues of their channels (R285). -/
def requestBursts (port pa n : Nat) (write : Bool) (s : State) : State :=
  if n = 0 then s
  else
    (List.range ((pa + n - 1) / 64 - pa / 64 + 1)).foldl (fun s i =>
      let b := pa / 64 + i
      match channelOf s (b * 64) with
      | none => s
      | some (c, _, _) =>
        let req : DramReq :=
          { port := port, burst := b, write := write, arrival := s.time, target := od s 0x2001 (1 + port)
            cover := if write then halfMask (fun w => pa ≤ w * 32 && w * 32 + 32 ≤ pa + n) b else 0
            poison := if write then 0 else halfMask (fun w => s.ms.poison.contains w) b }
        { s with ms := { s.ms with reqs := tmod [] s.ms.reqs c (· ++ [req]) } }) s

/-- The burst of a write of 64 bytes of which only some codewords are written whole joins its channel's queue: cover says which
(R289). -/
def requestMasked (port pa cover : Nat) (s : State) : State :=
  match channelOf s (pa / 64 * 64) with
  | none => s
  | some (c, _, _) =>
    let req : DramReq :=
      { port := port, burst := pa / 64, write := true, arrival := s.time, target := od s 0x2001 (1 + port), cover := cover, poison := 0 }
    { s with ms := { s.ms with reqs := tmod [] s.ms.reqs c (· ++ [req]) } }

/-! ### Coherence (R219) -/

/-- The sectors of a 128-byte line that a range touches, as a mask. -/
def sectorMask (line pa n : Nat) : Nat :=
  (List.range 4).foldl (fun m i =>
    let lo := line * 128 + i * 32
    if pa < lo + 32 && lo < pa + n then m ||| 2 ^ i else m) 0

/-- An L2 line without the sectors of a mask; what lay below its dirty ones is forgotten, because the
coherent bytes are those of memory. -/
def dropSectors (m : Nat) (l : L2Line) : L2Line :=
  { l with valid := l.valid &&& (15 ^^^ m), dirty := l.dirty &&& (15 ^^^ m),
           below := l.below.filter fun e => m.testBit e.1 = false, bad := l.bad &&& (15 ^^^ m) }

/-! ### The shared caches (R218, Table 10-2) -/

/-- The shared cache of a cluster. -/
def cluster (s : State) (k : Nat) : Cluster := tget {} s.clusters k

/-- The state with a cluster's cache changed. -/
def clusterMod (k : Nat) (f : Cluster → Cluster) (s : State) : State :=
  { s with clusters := tmod {} s.clusters k f }

/-- L2 set of a 128-byte line: address bits 18:7 (R218). -/
def l2Set (line : Nat) : Nat := line % 4096

/-- The way of its set that holds a line. -/
def l2Way (c : Cluster) (line : Nat) : Option Nat :=
  (List.range 16).find? fun w => match tfind c.l2 (l2Set line * 16 + w) with
    | some l => l.line = line
    | none => false

/-- The L2 line in a set and way. -/
def l2At (c : Cluster) (set way : Nat) : Option L2Line := tfind c.l2 (set * 16 + way)

/-- One way of a set changed. -/
def l2Put (k set way : Nat) (l : L2Line) (s : State) : State :=
  clusterMod k (fun c => { c with l2 := tset c.l2 (set * 16 + way) l }) s

/-- One way of a set emptied. -/
def l2Del (k set way : Nat) (s : State) : State :=
  clusterMod k (fun c => { c with l2 := tdel c.l2 (set * 16 + way) }) s

/-- Number of sectors in a mask. -/
def popSectors (m : Nat) : Nat := (List.range 4).foldl (fun n i => if m.testBit i then n + 1 else n) 0

/-- The sectors of a mask. -/
def sectorsIn (m : Nat) : List Nat := (List.range 4).filter fun i => m.testBit i

/-- A parity error found in the sectors an access needs (Table 10-2): the state after it, and whether dirty
data was lost at an address. -/
def l2Parity (k set way mask : Nat) (s : State) : State × Option Nat :=
  match l2At (cluster s k) set way with
  | none => (s, none)
  | some l =>
    let bad := l.bad &&& mask
    if bad = 0 then (s, none)
    else
      let lost := bad &&& l.dirty
      let clean := bad &&& (15 ^^^ l.dirty)
      let s := odAdd (0x3480 + k) 0x0A (popSectors clean) s
      let s := l2Put k set way (dropSectors bad l) s
      match (sectorsIn lost).getLast? with
      | none => (s, none)
      | some _ =>
        let s := (sectorsIn lost).foldl (fun s i =>
          let cw := (l.line * 128 + i * 32) / 32
          let s := odBump (0x3480 + k) 7 (odBump (0x3480 + k) 0x0B s)
          let s := odSet (0x3480 + k) 0x0C (cw * 32) s
          { s with ms := { s.ms with poison := if s.ms.poison.contains cw then s.ms.poison else cw :: s.ms.poison } }) s
        (s, (sectorsIn lost).head?.map fun i => l.line * 128 + i * 32)

/-- The 128-byte lines a range touches. -/
def lines128 (pa n : Nat) : List Nat :=
  if n = 0 then [] else (List.range ((pa + n - 1) / 128 - pa / 128 + 1)).map (· + pa / 128)

/-- Sectors of a line that an access reads and that are dirty in an L2 are checked for parity there (Table 10-2). The state,
and the address of the first that is lost. -/
def snoopLine (k need line : Nat) (acc : State × Option Nat) : State × Option Nat :=
  match l2Way (cluster acc.1 k) line with
  | none => acc
  | some w =>
    match l2At (cluster acc.1 k) (l2Set line) w with
    | none => acc
    | some l =>
      let r := l2Parity k (l2Set line) w (need &&& l.dirty) acc.1
      (r.1, match acc.2 with
        | some a => some a
        | none => r.2)

/-- The sectors that a requester needs of the L2s other than its own: the state, and the address of a lost one. -/
def snoopLost (own : Option Nat) (need : Nat → Nat) (pa n : Nat) (s : State) : State × Option Nat :=
  s.clusters.foldl (fun acc e =>
    if own = some e.1 then acc
    else (lines128 pa n).foldl (fun acc line => snoopLine e.1 (need line) line acc) acc) (s, none)

/-- A read by a requester other than the cores of a cluster returns the data of sectors that are dirty in an L2 (R219): a
parity error in one of them is found there, and its data is lost (Table 10-2). -/
def snoopRead (pa n : Nat) (s : State) : State := (snoopLost none (fun line => sectorMask line pa n) pa n s).1

/-- A write by a requester invalidates the matching sectors in every other L2, L1D and side buffer, and
ends other cores' reservations on the line (R182, R219). -/
def snoopWrite (by_ : Option Nat) (pa n : Nat) (s : State) : State :=
  let own := by_.map (· / 8)
  let hit128 := fun line => line * 128 < pa + n && pa < line * 128 + 128
  let hit64 := fun line => line * 64 < pa + n && pa < line * 64 + 64
  { s with
    clusters := s.clusters.map fun (k, c) =>
      if own = some k then (k, c)
      else (k, { c with l2 := c.l2.map fun (w, l) =>
                          if hit128 l.line then (w, dropSectors (sectorMask l.line pa n) l) else (w, l)
                        side := c.side.filter fun l => !hit128 l }),
    cores := s.cores.map fun (i, c) =>
      if by_ = some i then (i, c)
      else (i, { c with l1d := c.l1d.filter fun e => !hit64 e.2.line,
                        resv := match c.resv with
                          | some l => if hit128 l then none else some l
                          | none => none }) }

/-- Bytes stored at a physical address by a requester: a core's number, or none for any other. -/
def physPut (by_ : Option Nat) (pa : Nat) (bytes : List Byte) (s : State) : State :=
  let s := snoopWrite by_ pa bytes.length s
  { s with ms := { s.ms with dram := memPut s.ms.dram pa bytes,
                             poison := unpoison s.ms.poison pa bytes.length } }

/-- The n bytes at a physical address: what memory and the caches together hold (R219). -/
def physTake (s : State) (pa n : Nat) : List Byte := memTake s.ms.dram pa n

/-! ### Translation -/

/-- Kind of an access (Table 12-1, Table 12-2). -/
inductive AccKind
  | read
  | write
  | fetch
  deriving DecidableEq, Repr

/-- Why an access is not performed. -/
inductive AccErr
  /-- Translation fault: REASON and LEVEL of R266. -/
  | fault (reason level : Nat)
  /-- Access violation: reason of Table 12-3. -/
  | violation (reason : Nat)
  /-- Poison; the physical address of the table entry for a read of a walk (R289). -/
  | poison (walkEntry : Nat)
  /-- No response; the physical address of the table entry for a read of a walk (R270). -/
  | noResponse (walkEntry : Nat)
  deriving DecidableEq, Repr

/-- An access error with the address it arose at. -/
structure AccFail where
  addr : Nat
  err : AccErr
  deriving DecidableEq, Repr

/-- Table pool of R260: base and length. -/
def poolBase (s : State) : Nat := od s 0x2300 1
/-- Length of the table pool. -/
def poolLen (s : State) : Nat := od s 0x2300 2

/-- Whether a range lies wholly in the table pool. -/
def inPool (s : State) (pa n : Nat) : Bool := poolBase s ≤ pa && pa + n ≤ poolBase s + poolLen s

/-- Whether a range meets the table pool. -/
def meetsPool (s : State) (pa n : Nat) : Bool := pa < poolBase s + poolLen s && poolBase s < pa + n

/-- Root of a context's tree. -/
def rootOf (s : State) : Ctx → Nat
  | .inst n => od s (instIdx n) 0x20
  | .runtime => s.ms.runtimeRoot
  | .firmware => s.ms.firmwareRoot

/-- The generation a context's translations are tagged with (R319). -/
def ctxGen (s : State) : Ctx → Nat
  | .inst n => instGen s n
  | _ => 0

/-- Page size of a leaf at a level (R258). -/
def leafSize (level : Nat) (s64 : Bool) : Nat :=
  if level = 1 then 2 ^ 30 else if level = 2 then 2 ^ 21 else if s64 then 2 ^ 16 else 2 ^ 12

/-- Whether a page-table entry read at a level is MALFORMED (R258). -/
def pteMalformed (s : State) (level e : Nat) : Bool :=
  let leaf := e.testBit 1
  let s64 := e.testBit 7
  let addr := bitsOf e 47 12 * 4096
  bitsOf e 63 48 ≠ 0 || bitsOf e 11 8 ≠ 0 || e.testBit 2 ||
  (level = 3 && !leaf) || (level = 0 && leaf) || (s64 && !(level = 3 && leaf)) ||
  (if leaf then addr % leafSize level s64 ≠ 0
   else bitsOf e 6 3 ≠ 0 || !inPool s addr 4096)

/-- One 8-byte read of a table entry (R260). -/
def readPte (s : State) (pa : Nat) : Except AccErr Nat :=
  if !physOk s pa 8 || channelFailed s pa then .error (.noResponse pa)
  else if poisoned s pa 8 then .error (.poison pa)
  else .ok (leNat (physTake s pa 8))

/-- Index of an address in the table of a level (R256). -/
def pteIndex (va level : Nat) : Nat := va / 2 ^ (39 - 9 * level) % 512

/-- The walk from a level's table down to a leaf (R258 to R261). Where the 16 entries of a 64 KiB page
differ, any one of them may serve (R259): Config chooses. -/
def walk (s : State) (va : Nat) : List Nat → Nat → Except AccErr Leaf
  | [], _ => .error (.fault 2 3)
  | level :: rest, table =>
    match readPte s (table + 8 * pteIndex va level) with
    | .error e => .error e
    | .ok e =>
      if e.testBit 0 = false then .error (.fault 1 level)
      else if pteMalformed s level e then .error (.fault 2 level)
      else if e.testBit 1 then
        let s64 := e.testBit 7
        let idx := pteIndex va level
        let pick := idx / 16 * 16 + Config.pteChoice va s.freeCtr % 16
        let e' := if s64 then
            match readPte s (table + 8 * pick) with
            | .ok x => if x.testBit 0 && x.testBit 1 && x.testBit 7 && !pteMalformed s level x then x else e
            | .error _ => e
          else e
        .ok { phys := bitsOf e' 47 12 * 4096, size := leafSize level s64, read := e'.testBit 3,
              write := e'.testBit 4, fetch := e'.testBit 5, stream := e'.testBit 6 }
      else walk s va rest (bitsOf e 47 12 * 4096)

/-- A whole walk in a context. A root outside the table pool is MALFORMED at level 0 (R273). -/
def walkCtx (s : State) (ctx : Ctx) (va : Nat) : Except AccErr Leaf :=
  let root := rootOf s ctx
  if root = 0 then .error (.fault 3 0)
  else if !inPool s root 4096 then .error (.fault 2 0)
  else walk s va [0, 1, 2, 3] root

/-- The table entries that a walk reads, from a level's table on (R258, R260). -/
def walkEntries (s : State) (va : Nat) : List Nat → Nat → List Nat
  | [], _ => []
  | level :: rest, table =>
    let pa := table + 8 * pteIndex va level
    match readPte s pa with
    | .error _ => [pa]
    | .ok e =>
      if e.testBit 0 = false || pteMalformed s level e || e.testBit 1 then [pa]
      else pa :: walkEntries s va rest (bitsOf e 47 12 * 4096)

/-- The translation of an address that a unit caches, if it holds one and uses it (R262). -/
def tlbLookup (s : State) (unit : Nat) (ctx : Ctx) (va : Nat) : Option Leaf :=
  match s.ms.tlb.find? fun t => t.unit = unit && t.ctx = ctx && t.generation = ctxGen s ctx &&
      t.page ≤ va && va < t.page + t.leaf.size with
  | some t => if Config.tlbKept unit va s.freeCtr then some t.leaf else none
  | none => none

/-- Access kinds an address is refused for before any walk (R272 item 1). -/
def addrViolation (ctx : Ctx) (isCore : Bool) (va : Nat) : Option Nat :=
  if 2 ^ 48 ≤ va then some 0x11
  else match ctx with
    | .inst _ => if !isCore && 0xFFF00000 ≤ va && va ≤ 0xFFFFFFFF then some 0x15 else none
    | _ => none

/-- Whether a leaf grants an access. -/
def leafGrants (l : Leaf) : AccKind → Bool
  | .read => l.read
  | .write => l.write
  | .fetch => l.fetch

/-- Translation of n bytes within one 4 KiB page: the physical address and the leaf (R256 to R261, R272). -/
def translate (s : State) (unit : Nat) (ctx : Ctx) (isCore : Bool) (kind : AccKind) (va n : Nat) :
    Except AccErr (Nat × Leaf) :=
  match addrViolation ctx isCore va with
  | some r => .error (.violation r)
  | none =>
    let found : Except AccErr Leaf := match tlbLookup s unit ctx va with
      | some l => .ok l
      | none => walkCtx s ctx va
    match found with
    | .error e => .error e
    | .ok l =>
      let pa := l.phys + va % l.size
      let isInst := match ctx with
        | .inst _ => true
        | _ => false
      if isInst && meetsPool s l.phys l.size then .error (.violation 0x13)
      else if !physOk s pa n then .error (.violation 0x12)
      else if !leafGrants l kind then .error (.violation 0x10)
      else .ok (pa, l)

/-- A completed translation is kept by the unit (R262). -/
def tlbFill (unit : Nat) (ctx : Ctx) (va : Nat) (l : Leaf) (s : State) : State :=
  if s.ms.tlb.any fun t => t.unit = unit && t.ctx = ctx && t.generation = ctxGen s ctx &&
      t.page ≤ va && va < t.page + t.leaf.size then s
  else
    let e : TlbEntry := { unit := unit, ctx := ctx, generation := ctxGen s ctx,
                          page := va / l.size * l.size, leaf := l }
    { s with ms := { s.ms with tlb := e :: s.ms.tlb } }

/-- The table reads of a translation join the queues of their channels by port 14, unless the unit holds the translation
(R260, R262, Table 13-6). -/
def requestWalk (unit : Nat) (ctx : Ctx) (va : Nat) (s : State) : State :=
  if (tlbLookup s unit ctx va).isSome || rootOf s ctx = 0 || !inPool s (rootOf s ctx) 4096 then s
  else (walkEntries s va [0, 1, 2, 3] (rootOf s ctx)).foldl (fun s pa => requestBursts 14 pa 8 false s) s

/-- Requester port of Table 13-6 for a unit of Table 11-9. Port 14 carries walks and maintenance. -/
def portOf (unit : Nat) : Nat :=
  if unit < 0x80 then 5 + unit / 32
  else if unit < 0x90 then 0
  else if unit < 0xA8 then 12
  else if unit < 0xAC then 13
  else if 0xB8 ≤ unit && unit < 0xBC then 1 + (unit - 0xB8)
  else if unit = 0xBC then 11
  else 14

/-- A range cut at 4 KiB boundaries: address and length of each piece. -/
def pageSplit (va n : Nat) : List (Nat × Nat) :=
  if n = 0 then []
  else
    (List.range ((va + n - 1) / 4096 - va / 4096 + 1)).map fun i =>
      let lo := max va ((va / 4096 + i) * 4096)
      let hi := min (va + n) ((va / 4096 + i + 1) * 4096)
      (lo, hi - lo)

/-- The dirty-page log of an instance's device-memory write (R329): the bit of each page written. -/
def logWrite (ctx : Ctx) (va n : Nat) (s : State) : State :=
  match ctx with
  | .inst i =>
    let ctl := od s (instIdx i) 0x3C
    let base := od s (instIdx i) (0x38 + (ctl - 1))
    let start := od s (instIdx i) 0x3A
    let len := od s (instIdx i) 0x3B
    if ctl = 0 || n = 0 then s
    else
      (List.range ((va + n - 1) / 4096 - va / 4096 + 1)).foldl (fun s j =>
        let page := (va / 4096 + j) * 4096
        if start ≤ page && page < start + len then
          let bit := (page - start) / 4096
          let a := base + bit / 8
          let old := (physTake s a 1).headD 0
          physPut none a [old ||| BitVec.ofNat 8 (2 ^ (bit % 8))] s
        else s) s
  | _ => s

/-- A read of device memory by a unit other than a core: bytes, or the first failing address. For poison R47 gives the start
of the page or frame as its own callers know it; the address recorded here, the start of the 4 KiB piece that holds the
poisoned codeword, is the model's choice where the rule names none (DESIGN CHOICE, log entry 54). -/
def devReadPieces (unit : Nat) (ctx : Ctx) : List (Nat × Nat) → State → Except AccFail (List Byte) × State
  | [], s => (.ok [], s)
  | (va, n) :: rest, s =>
    match translate s unit ctx false .read va n with
    | .error e => (.error ⟨va, e⟩, requestWalk unit ctx va s)
    | .ok (pa, l) =>
      let s := snoopRead pa n (tlbFill unit ctx va l (requestWalk unit ctx va s))
      if channelFailed s pa then (.error ⟨va, .noResponse 0⟩, s)
      else if poisoned s pa n then (.error ⟨va, .poison 0⟩, requestBursts (portOf unit) pa n false s)
      else
        let bytes := physTake s pa n
        let s := requestBursts (portOf unit) pa n false s
        match devReadPieces unit ctx rest s with
        | (.ok bs, s) => (.ok (bytes ++ bs), s)
        | (.error e, s) => (.error e, s)

/-- A read of n bytes of device memory (R264, Table 12-2). -/
def devRead (unit : Nat) (ctx : Ctx) (va n : Nat) (s : State) : Except AccFail (List Byte) × State :=
  devReadPieces unit ctx (pageSplit va n) s

/-- A write of device memory by a unit other than a core, piece by piece; pieces before a failing one stand. -/
def devWritePieces (unit : Nat) (ctx : Ctx) (bytes : List Byte) (base : Nat) :
    List (Nat × Nat) → State → Option AccFail × State
  | [], s => (none, s)
  | (va, n) :: rest, s =>
    match translate s unit ctx false .write va n with
    | .error e => (some ⟨va, e⟩, requestWalk unit ctx va s)
    | .ok (pa, l) =>
      let s := tlbFill unit ctx va l (requestWalk unit ctx va s)
      if channelFailed s pa then (some ⟨va, .noResponse 0⟩, s)
      else
        let s := logWrite ctx va n s
        let s := physPut none pa (slice bytes (va - base) n) s
        let s := requestBursts (portOf unit) pa n true s
        devWritePieces unit ctx bytes base rest s

/-- A write of device memory by a unit other than a core. -/
def devWrite (unit : Nat) (ctx : Ctx) (va : Nat) (bytes : List Byte) (s : State) : Option AccFail × State :=
  devWritePieces unit ctx bytes va (pageSplit va bytes.length) s

/-- Whether every piece of a write would be performed: for writes made whole or not at all. -/
def devCheck (unit : Nat) (ctx : Ctx) (kind : AccKind) (va n : Nat) (s : State) : Option AccFail :=
  (pageSplit va n).findSome? fun (a, k) =>
    match translate s unit ctx false kind a k with
    | .error e => some ⟨a, e⟩
    | .ok (pa, _) => if channelFailed s pa then some ⟨a, .noResponse 0⟩ else none

/-- A write made with one burst: whole or not at all. -/
def devWriteWhole (unit : Nat) (ctx : Ctx) (va : Nat) (bytes : List Byte) (s : State) : Option AccFail × State :=
  match devCheck unit ctx .write va bytes.length s with
  | some e => (some e, s)
  | none => devWrite unit ctx va bytes s

/-! ### Host memory (R263) -/

/-- The host memory behind a link. -/
def host (s : State) (link : Nat) : HostMem := tget {} s.ms.hosts link

/-- Whether the IOMMU or an ATS translation refuses a range. -/
def hostDenied (s : State) (link va n : Nat) : Bool :=
  (host s link).denied.any fun r => va < r.1 + r.2 && r.1 < va + n

/-- A read of host memory. -/
def hostRead (link va n : Nat) (s : State) : Except AccFail (List Byte) :=
  if hostDenied s link va n then .error ⟨va, .violation 0x14⟩ else .ok (memTake (host s link).mem va n)

/-- A posted write of host memory. -/
def hostWrite (link va : Nat) (bytes : List Byte) (s : State) : Option AccFail × State :=
  if hostDenied s link va bytes.length then (some ⟨va, .violation 0x14⟩, s)
  else
    let hs := tmod {} s.ms.hosts link fun h => { h with mem := memPut h.mem va bytes }
    (none, { s with ms := { s.ms with hosts := hs } })

/-- The place of a configuration register of a function of a link among those held. -/
def cfgKey (link fn : Nat) (r : CfgReg) : Nat :=
  4 * (4096 * link + fn) + match r with
    | .vfEnable => 0
    | .atsEnable => 1
    | .msixControl => 2
    | .maxPayload => 3

/-- What a configuration register has before it is written: no VF, no ATS, MSI-X enabled and unmasked, 128 bytes
(log entry 67). -/
def cfgDefault : CfgReg → Nat
  | .vfEnable => 0
  | .atsEnable => 0
  | .msixControl => 1
  | .maxPayload => 128

/-- A configuration register of a function. -/
def cfgValue (s : State) (link fn : Nat) (r : CfgReg) : Nat := tget (cfgDefault r) s.cx.cfg (cfgKey link fn r)

/-- The maximum payload size of a link, in bytes (R347): PF0's. -/
def maxPayload (s : State) (link : Nat) : Nat := max 128 (cfgValue s link 0 .maxPayload)

/-- LINK of an instance (R297). -/
def instLink (s : State) (n : Nat) : Nat := if n = 0 then od s 0x2400 2 else od s (instIdx n) 0x28

/-- The place of a vector of a function of a link in the MSI-X tables. -/
def vecKey (link fn v : Nat) : Nat := 2048 * (4096 * link + fn) + v

/-- Whether a vector's message is sent: MSI-X enabled, neither the function nor the vector masked. -/
def vectorOpen (s : State) (link fn v : Nat) : Bool :=
  cfgValue s link fn .msixControl = 1 && !(tget {} s.cx.vectors (vecKey link fn v)).masked

/-- An MSI-X vector of an instance's function is sent; one that may not be sets its pending bit (Table 14-2; log entry 67). -/
def sendMsix (n v : Nat) (s : State) : State :=
  let k := vecKey (instLink s n) n v
  if vectorOpen s (instLink s n) n v then emit (.msix n v) s
  else { s with cx := { s.cx with pendingVecs := k :: s.cx.pendingVecs.filter (· ≠ k) } }

/-- An access violation is counted in ACCESS_VIOLATIONS (Table 12-5). -/
def noteViolation (f : AccFail) (s : State) : State :=
  match f.err with
  | .violation _ => odBump 0x2302 6 s
  | _ => s

/-- A read of an instance's queue or ring memory (R263, R306). -/
def locRead (loc : Loc) (unit n va len : Nat) (s : State) : Except AccFail (List Byte) × State :=
  match loc with
  | .device => devRead unit (.inst n) va len s
  | .host => (hostRead (instLink s n) va len s, s)

/-- A write of an instance's queue or ring memory, made whole or not at all. -/
def locWrite (loc : Loc) (unit n va : Nat) (bytes : List Byte) (s : State) : Option AccFail × State :=
  match loc with
  | .device => devWriteWhole unit (.inst n) va bytes s
  | .host => hostWrite (instLink s n) va bytes s

/-- LOCATION as a dictionary or command field: 0 device, 1 host. -/
def locOf (n : Nat) : Loc := if n = 0 then .device else .host

end Sys2Proof.Machine
end

