-- ==== Sys2Proof/Machine/Jobs.lean ====
section
/-! DEFINITION. Jobs and tasks: the failure arbiter (R479), event flags (R250, R251), faults (R265 to R269),
the RAS log (R484). -/

namespace Sys2Proof.Machine

/-! ### Jobs -/

/-- The journal entry of a job, if it is accepted and incomplete. -/
def jobOf (s : State) (jid : Nat) : Option Job := s.js.jobs.find? (·.jid = jid)

/-- The state with a job changed. -/
def jobMod (jid : Nat) (f : Job → Job) (s : State) : State :=
  { s with js := { s.js with jobs := s.js.jobs.map fun j => if j.jid = jid then f j else j } }

/-- The job of an instance's SQ with an ASN. -/
def jobByAsn (s : State) (n sq asn : Nat) : Option Job :=
  s.js.jobs.find? fun j => j.inst = n && j.sq = sq && j.asn = asn && j.gen = instGen s n

/-- PLAN_ID of a job's plan image (Table 03-1). -/
def jobPlanId (j : Job) : Nat :=
  match j.plan with
  | some p => fld p.image 0x38 8
  | none => 0

/-- Address of a copy in the journal area's plan store; the place of copies in it is the model's (log entry 18). -/
def planStoreAddr (n : Nat) : Nat := 0x100000 * n

/-- Bytes of an admission copy (COPY_LENGTH). -/
def copyLen (p : Option PlanCopy) : Nat :=
  match p with
  | some p => p.image.length + 16 * p.params.length
  | none => 128

/-! ### Tasks -/

/-- The task in a slot; none when the slot is FREE. -/
def taskAt (s : State) (slot : Nat) : Option Task := tfind s.js.tasks slot

/-- The state with the task of a slot changed. -/
def taskMod (slot : Nat) (f : Task → Task) (s : State) : State :=
  { s with js := { s.js with tasks := s.js.tasks.map fun (k, t) => if k = slot then (k, f t) else (k, t) } }

/-- The state with tasks that meet a test changed. -/
def tasksWhere (p : Task → Bool) (f : Task → Task) (s : State) : State :=
  { s with js := { s.js with tasks := s.js.tasks.map fun (k, t) => if p t then (k, f t) else (k, t) } }

/-- Tasks of a unit that are RUNNING. -/
def runningOn (s : State) (u : Nat) : Nat := (s.js.tasks.filter fun e => e.2.unit = u && e.2.run = .running).length

/-- Time during which a task of the unit was RUNNING joins its BUSY_TIME when the last of them leaves RUNNING (Table 11-9). -/
def leaveRunning (t : Task) (s : State) : State :=
  if t.run = .running && runningOn s t.unit ≤ 1 then
    odAdd (0x3100 + t.unit) 3 (s.time - tget s.time s.js.unitBusy t.unit)
      { s with js := { s.js with unitBusy := tdel s.js.unitBusy t.unit } }
  else s

/-- A task of the unit is RUNNING from now on, if none was. -/
def noteBusy (u : Nat) (s : State) : State :=
  let now := s.time
  if (tfind s.js.unitBusy u).isSome then s else { s with js := { s.js with unitBusy := tset s.js.unitBusy u now } }

/-- The units a task holds. -/
def Task.holds (t : Task) : List Nat := t.unit :: t.extra

/-! ### Zones (Table 22-5) -/

/-- Zone of a unit of Table 11-9. -/
def zoneOf (u : Nat) : Nat :=
  if u < 0x80 then u / 8
  else if u < 0x90 then u - 0x80
  else if u < 0x98 then u - 0x90
  else if u < 0xA0 then 8 + (u - 0x98)
  else if u < 0xA4 then 8 + (u - 0xA0)
  else if u < 0xA8 then 12 + (u - 0xA4)
  else if u < 0xAC then 12 + (u - 0xA8)
  else if u < 0xB0 then 13 + (u - 0xAC)
  else if u < 0xB8 then 12 + (u - 0xB0) / 2
  else if u < 0xBC then 12 + (u - 0xB8)
  else 15

/-- ZONE_STATE is ON. -/
def zoneOn (s : State) (z : Nat) : Bool := od s (0x1320 + z) 2 = 0

/-- Every zone that holds a unit of the task is ON, so that transfers to and from its units start (Tables 16-3 and 22-6). -/
def unitsOn (s : State) (t : Task) : Bool := zoneOn s t.zone && t.extra.all fun u => zoneOn s (zoneOf u)

/-- Whether a task holds a unit of a zone. -/
def Task.inZone (t : Task) (z : Nat) : Bool := t.zone = z || t.extra.any fun u => zoneOf u = z

/-- The unit is held from now on, if it was not. -/
def noteHeld (u : Nat) (s : State) : State :=
  let now := s.time
  if (tfind s.js.unitHeld u).isSome then s else { s with js := { s.js with unitHeld := tset s.js.unitHeld u now } }

/-- Time during which a unit was held joins its HELD_TIME when the last task that holds it leaves its slot (Table 11-9). -/
def leaveHeld (u : Nat) (s : State) : State :=
  if (s.js.tasks.filter fun e => e.2.holds.contains u).length ≤ 1 then
    odAdd (0x3100 + u) 4 (s.time - tget s.time s.js.unitHeld u)
      { s with js := { s.js with unitHeld := tdel s.js.unitHeld u } }
  else s

/-- Time spent in READY joins its level's READY_TIME when a task leaves READY (Table 11-8). -/
def leaveReady (t : Task) (s : State) : State :=
  if t.run = .ready && !t.gated then
    odMax32 (0x3080 + t.prio) 5 (s.time - t.readyAt) (odAdd (0x3080 + t.prio) 4 (s.time - t.readyAt) s)
  else s

/-- A task enters READY from WAITING or DELAYED with a new ready sequence (R245). -/
def wakeTask (slot : Nat) (s : State) : State :=
  let seq := s.js.readySeq
  let now := s.time
  let s := taskMod slot (fun t => { t with run := .ready, readySeq := seq, wakeAt := none, waitMask := 0,
                                           readyAt := now, pass := 0, urgent := false }) s
  { s with js := { s.js with readySeq := seq + 1 } }

/-- Whether a wait on a mask is satisfied by flags (Table 11-5). -/
def waitMet (flags mask : BitVec 32) (all : Bool) : Bool :=
  if all then flags &&& mask = mask else flags &&& mask ≠ 0

/-- The EVENT interrupt of a core whose task waits on a flag that is set (R193, Table 08-7). -/
def noteEvent (t : Task) (fl : BitVec 32) (s : State) : State :=
  if t.run = .waiting && t.unit < 0x80 && fl &&& t.waitMask ≠ 0 then
    { s with cores := tmod {} s.cores t.unit fun k => { k with intr := k.intr ||| 4 } }
  else s

/-- Flags are set on a task; a wait they satisfy ends, and the flags that satisfied it are cleared (R251). -/
def setFlags (slot : Nat) (fl : BitVec 32) (s : State) : State :=
  match taskAt s slot with
  | none => s
  | some t =>
    let flags := t.flags ||| fl
    let s := noteEvent t fl s
    if t.run = .waiting && waitMet flags t.waitMask t.waitAll then
      wakeTask slot (taskMod slot (fun t => { t with flags := flags &&& ~~~ t.waitMask }) s)
    else taskMod slot (fun t => { t with flags := flags }) s

/-- Flags that arrive for a task. Those that a wait was for which timed out at this moment have lost to the timeout: they are
discarded, and the unit's LATE counts it (R253; log entry 51). -/
def flagsArrive (slot : Nat) (t : Task) (flags : BitVec 32) (s : State) : State :=
  match t.lost with
  | some (at_, mask) =>
    if at_ = s.time && flags &&& mask ≠ 0 then setFlags slot (flags &&& ~~~ mask) (odBump (0x3100 + t.unit) 6 s)
    else setFlags slot flags s
  | none => setFlags slot flags s

/-- Flags arrive for every task that meets a test. -/
def setFlagsWhere (p : Task → Bool) (fl : BitVec 32) (s : State) : State :=
  s.js.tasks.foldl (fun s (k, t) => if p t then flagsArrive k t fl s else s) s

/-- Dictionary index that holds STATE and OWNER of a unit (Tables 04-10, 05-11, 06-11, 06-12, 17-7, 19-4). -/
def unitIdx (u : Nat) : Option Nat :=
  if 0x80 ≤ u && u ≤ 0x8B then some (0x3800 + (u - 0x80))
  else if 0x90 ≤ u && u ≤ 0x97 then some (0x3820 + (u - 0x90))
  else if 0x98 ≤ u && u ≤ 0x9B then some (0x3828 + (u - 0x98))
  else if 0xA0 ≤ u && u ≤ 0xA7 then some (0x3830 + (u - 0xA0))
  else if 0xA8 ≤ u && u ≤ 0xAB then some (0x3C00 + (u - 0xA8))
  else if 0xB1 ≤ u && u ≤ 0xB7 then some (0x3E10 + (u - 0xB0))
  else none

/-- STATE of an engine, Sieve or Glume group. -/
def setUnitState (u v : Nat) (s : State) : State :=
  match unitIdx u with
  | some i => odSet i 1 v s
  | none => s

/-- OWNER of an engine, Sieve or Glume group. -/
def setUnitOwner (u v : Nat) (s : State) : State :=
  match unitIdx u with
  | some i => odSet i 2 v s
  | none => s

/-- A counter of an engine advances. -/
def unitCount (u sub n : Nat) (s : State) : State :=
  match unitIdx u with
  | some i => odAdd i sub n s
  | none => s

/-- The Kiln engines among some units. -/
def kilnsOf (us : List Nat) : List Nat := us.filter fun u => 0xA8 ≤ u && u ≤ 0xAB

/-- A Kiln engine that a task holds, its own or one that serves a SCAN, shows that the task is pre-empted or parked
(Table 17-7). -/
def kilnWaits (t : Task) (s : State) : State := (kilnsOf t.holds).foldl (fun s u => setUnitState u 4 s) s

/-- A Kiln engine that served a SCAN serves it again. -/
def kilnServes (t : Task) (s : State) : State :=
  (kilnsOf t.extra).foldl (fun s u => if od s (0x3C00 + (u - 0xA8)) 1 = 4 then setUnitState u 3 s else s) s

/-- The units of a task parked on a fault say so: STATE 4 of engines and Sieves, CHANNEL_STATE 3 of Tun. -/
def markParked (t : Task) (s : State) : State :=
  let s := kilnWaits t s
  if 0xB8 ≤ t.unit && t.unit ≤ 0xBB then odSet (0x3F00 + (t.unit - 0xB8)) (0x40 + t.sub) 3 s
  else if 0x80 ≤ t.unit && t.unit ≤ 0xAB then setUnitState t.unit 4 s
  else s

/-- Event flag 31, CANCEL (Table 11-4). -/
def flagCancel : BitVec 32 := 0x80000000
/-- Event flag 30, FAULT. -/
def flagFault : BitVec 32 := 0x40000000
/-- Event flag 29, MODE. -/
def flagMode : BitVec 32 := 0x20000000
/-- Event flag 28, INPUT. -/
def flagInput : BitVec 32 := 0x10000000
/-- Event flag 27, OUTPUT. -/
def flagOutput : BitVec 32 := 0x08000000
/-- Event flag 26, SPILL. -/
def flagSpill : BitVec 32 := 0x04000000
/-- Event flag 25, PEER. -/
def flagPeer : BitVec 32 := 0x02000000
/-- Event flag 24, TIMER. -/
def flagTimer : BitVec 32 := 0x01000000

/-- The time a Sieve has been stalled since joins its STALL_TIME (Table 04-10). -/
def countStall (t : Task) (s : State) : State :=
  match t.eng.sv.stall with
  | some since => unitCount t.unit 7 (s.time - since) s
  | none => s

/-- The Glume groups of a task that hold banks. -/
def heldGroups (s : State) (t : Task) : List Nat :=
  t.holds.filter fun u => 0xB1 ≤ u && u ≤ 0xB7 && (tfind s.js.groups (u - 0xB0)).isSome

/-- The groups of a task are being cleared (STATE 3; R399, Table 19-4). -/
def clearGroups (t : Task) (s : State) : State := (heldGroups s t).foldl (fun s u => setUnitState u 3 s) s

/-- The Tun channel of a job that fails halts (CHANNEL_STATE 5; R342). -/
def haltChannel (t : Task) (failed : Bool) (s : State) : State :=
  if failed && !t.finished && 0xB8 ≤ t.unit && t.unit ≤ 0xBB then odSet (0x3F00 + (t.unit - 0xB8)) (0x40 + t.sub) 5 s else s

/-- A task is finished or failed; its unit is being released (Table 11-1). -/
def stopTask (slot : Nat) (cancel : Bool) (s : State) : State :=
  match taskAt s slot with
  | none => s
  | some t =>
    let s := haltChannel t cancel (clearGroups t (countStall t (leaveReady t (leaveRunning t s))))
    let fl := if cancel then t.flags ||| flagCancel else t.flags
    taskMod slot (fun t => { t with run := .freePending, flags := fl, wakeAt := none, waitMask := 0,
                                    stopping := false, parked := none, urgent := false, pass := 0
                                    eng := { t.eng with sv := { t.eng.sv with stall := none } } }) s

/-- Slots of the tasks that meet a test. -/
def slotsWhere (s : State) (p : Task → Bool) : List Nat := (s.js.tasks.filter fun e => p e.2).map (·.1)

/-- A job's spill reservation is released (R69); tasks that wait for spill learn of it. -/
def releaseSpill (jid : Nat) (s : State) : State :=
  match jobOf s jid with
  | none => s
  | some j =>
    if j.spill = 0 then s
    else
      let s := odSet (instIdx j.inst) 0x0B (od s (instIdx j.inst) 0x0B + j.spill) s
      let s := jobMod jid (fun j => { j with spill := 0 }) s
      setFlagsWhere (fun t => t.inst = j.inst && (t.waitMask &&& flagSpill) ≠ 0) flagSpill s

/-- A job's fault records that wait in the device are dropped (R269). -/
def dropFaults (j : Job) (s : State) : State :=
  instMod j.inst (fun i => { i with fqWaiting := i.fqWaiting.filter fun f =>
    !(f.asn = j.asn && f.sq = j.sq && f.gen = j.gen) }) s

/-- The zones of a job close: their keys go, and the exchanges are remembered with a GRANT STATUS (R163, R165). -/
def closeZones (jid status : Nat) (s : State) : State :=
  let now := s.time
  let zs := s.net.zones.filter fun z => z.jid = jid
  { s with net := { s.net with
    zones := s.net.zones.filter fun z => z.jid ≠ jid
    regions := zs.foldl (fun r z => tdel r (z.key / 4096)) s.net.regions
    closed := (zs.map (fun z => (z.inst, z.exchange, status, now)) ++ s.net.closed).take 16384 } }

/-- The failure arbiter (R479): the first cause ends the job and stops its stages; later ones are counted. -/
def failJob (jid status : Nat) (er : ErrRec) (s : State) : State :=
  match jobOf s jid with
  | none => s
  | some j =>
    match j.ended with
    | some e => if e.status / 256 = 0 then s else odBump 0x5000 0x0A s
    | none =>
      let s := (slotsWhere s fun t => t.jid = jid).foldl (fun s k => stopTask k true s) s
      let s := closeZones jid 4 (releaseSpill jid s)
      let s := dropFaults j s
      jobMod jid (fun j => { j with ended := some ⟨status, { er with planId := jobPlanId j }⟩ }) s

/-- A task's job fails; the record names its unit and stage. -/
def failTask (slot status : Nat) (er : ErrRec) (s : State) : State :=
  match taskAt s slot with
  | none => s
  | some t => failJob t.jid status { er with unit := t.unit, stage := t.stage } s

/-! ### RAS log (R484) -/

/-- UPTIME in microseconds (R484; Table 21-7 gives it in ms). -/
def uptimeUs (s : State) : Nat := s.time / perUs

/-- Bytes 0x10 to 0x3F of an error record (Table 24-2). -/
def errTail (er : ErrRec) (status slot gen sq cq cqSlot seq : Nat) : List Byte :=
  leBytes 8 er.address ++ leBytes 8 er.detail ++ leBytes 8 er.detail2 ++ leBytes 2 status ++
  leBytes 1 er.reason ++ leBytes 1 er.unit ++ leBytes 2 er.stage ++ leBytes 2 er.index ++
  leBytes 2 slot ++ leBytes 2 gen ++ leBytes 1 sq ++ leBytes 1 cq ++ leBytes 2 cqSlot ++
  leBytes 4 seq ++ leBytes 4 0

/-- An event joins the RAS log, which keeps the latest 4,096 (R484). -/
def rasLog (kind n : Nat) (tail : List Byte) (s : State) : State :=
  let ev := leBytes 8 (uptimeUs s) ++ leBytes 1 kind ++ leBytes 1 0 ++ leBytes 2 n ++ leBytes 4 0 ++ tail
  let l := s.ras ++ [ev]
  odBump 0x5000 0x0B { s with ras := l.drop (l.length - 4096) }

/-- An event that carries an address and a reason alone. -/
def rasEvent (kind n address status reason : Nat) (s : State) : State :=
  rasLog kind n (errTail { address := address, reason := reason } status 0 0 0 0 0 0) s

/-! ### Faults (R265 to R270, R505) -/

/-- The 32 bytes of a fault record (R266). -/
def faultBytes (f : FaultRec) (phase : Nat) : List Byte :=
  leBytes 8 f.address ++ leBytes 8 f.asn ++ leBytes 4 f.id ++ leBytes 2 f.gen ++ leBytes 1 f.sq ++
  leBytes 1 f.unit ++ leBytes 1 f.reason ++ leBytes 1 f.level ++ leBytes 1 f.access ++ leBytes 1 phase ++
  leBytes 2 f.stage ++ leBytes 1 f.channel ++ leBytes 1 0

/-- The job of a fault record fails with TRANSLATION_FAULT (R267, R269). -/
def failFault (f : FaultRec) (s : State) : State :=
  match s.js.jobs.find? fun j => j.inst = f.inst && j.sq = f.sq && j.asn = f.asn && j.gen = f.gen with
  | some j => failJob j.jid 0x0301
      { address := f.address, detail := f.level, detail2 := f.id, reason := f.reason, unit := f.unit,
        stage := f.stage } s
  | none => s

/-- A fault record is written to the queue and its vector sent, or the queue enters ERROR (R266, R267, R505). -/
def writeFault (f : FaultRec) (s : State) : State :=
  let n := f.inst
  let entries := od s (instIdx n) 0x22
  let i := inst s n
  let phase := 1 - i.fqTail / entries % 2
  let a := od s (instIdx n) 0x21 + 32 * (i.fqTail % entries)
  match locWrite (locOf (od s (instIdx n) 0x23)) 0xFF n a (faultBytes f phase) s with
  | (some e, s) =>
    let waiting := i.fqWaiting
    let s := odSet (instIdx n) 0x26 1 (noteViolation e s)
    let s := instMod n (fun i => { i with fqWaiting := [] }) s
    waiting.foldl (fun s w => failFault w s) (failFault f s)
  | (none, s) =>
    let s := instMod n (fun i => { i with fqTail := i.fqTail + 1 }) s
    odBump 0x2302 1 (sendMsix n (od s (instIdx n) 0x24) s)

/-- The fault queue is full when the next record would reach FAULT_HEAD (R267). -/
def faultQueueFull (s : State) (n : Nat) : Bool :=
  let i := inst s n
  od s (instIdx n) 0x22 ≤ i.fqTail - i.fqHead + 1

/-- A record is posted: written, or kept in the device while the queue is full (R267). -/
def postFault (f : FaultRec) (s : State) : State :=
  if faultQueueFull s f.inst || (inst s f.inst).fqWaiting ≠ [] then
    odBump 0x2302 5 (instMod f.inst (fun i => { i with fqWaiting := i.fqWaiting ++ [f] }) s)
  else writeFault f s

/-- FAULT_ID after an identifier: it skips 0 on wrap (R266). -/
def nextFaultId (id : Nat) : Nat := if id + 1 = 2 ^ 32 then 1 else id + 1

/-- Where byte k of a Tun descriptor lies (R338). -/
def TunState.place (c : TunState) (k : Nat) : Nat :=
  let row : Int := (k / c.rowBytes : Nat)
  (((c.addr : Int) + row * c.stride + ((k % c.rowBytes : Nat) : Int)) % (2 ^ 64 : Int)).toNat

/-- The first byte of the run of a descriptor's bytes, up to byte k, that lie in the 4 KiB page of one address: row by row
backward, at most as many rows as given. -/
def pageRun (c : TunState) (page : Nat) : Nat → Nat → Nat
  | 0, k => k
  | rows + 1, k =>
    if k = 0 || c.place (k - 1) / 4096 ≠ page then k
    else
      let r := min ((k - 1) % c.rowBytes) (c.place (k - 1) % 4096) + 1
      pageRun c page rows (k - r)

/-- The boundary a Tun channel stands at: the page of its descriptor (Table 12-4). -/
def TunState.boundary (c : TunState) : Nat :=
  if c.phase = .moving && c.k < c.rowBytes * c.rows then pageRun c (c.place c.k / 4096) (2 * c.rows) c.k else c.k

/-- What of a unit's progress tells its boundary from others: of a Tun channel the descriptor and the page, whatever has passed
through its partition; of any other engine all it holds. -/
def boundaryEng (t : Task) : Eng :=
  if 0xB8 ≤ t.unit && t.unit ≤ 0xBB then
    let c := t.eng.tun
    { tun := { at_ := c.at_, hops := c.hops, phase := c.phase, k := c.boundary } }
  else t.eng

/-- When the fault timeout of a boundary began: with the boundary's first record, if the unit has not progressed since it (R268,
R269). same says whether a core's task is at the instruction, and the point in it, of its last fault. -/
def boundaryStart (t : Task) (same : Bool) (now : Nat) : Nat :=
  match t.firstFault with
  | some (since, e) => if (if t.unit < 0x80 then same else decide (e = boundaryEng t)) then since else now
  | none => now

/-- A translation fault parks a task at its boundary, whose first record was posted at a given time, and posts one record
(R265 to R267). -/
def parkSince (slot addr reason level access channel since : Nat) (s : State) : State :=
  match taskAt s slot with
  | none => s
  | some t =>
    match jobOf s t.jid with
    | none => s
    | some j =>
      let f : FaultRec := { id := s.ms.nextFault, inst := t.inst, gen := j.gen, asn := j.asn, sq := j.sq,
                            address := addr, unit := t.unit, reason := reason, level := level,
                            access := access, stage := t.stage, channel := channel }
      if od s (instIdx t.inst) 0x22 = 0 || od s (instIdx t.inst) 0x26 = 1 then
        failFault { f with id := 0 } s
      else
        let s := markParked t (leaveRunning t s)
        let s := taskMod slot (fun t =>
          { t with
            run := .waiting, waitMask := flagFault, waitAll := false, wakeAt := none, stopping := false
            parked := some ⟨f.id, since, f⟩, firstFault := some (since, boundaryEng t) }) s
        postFault f { s with ms := { s.ms with nextFault := nextFaultId f.id } }

/-- A translation fault parks a task; same says of a core whether it is at the point of its last fault. -/
def parkAt (slot addr reason level access channel : Nat) (same : Bool) (s : State) : State :=
  match taskAt s slot with
  | none => s
  | some t => parkSince slot addr reason level access channel (boundaryStart t same s.time) s

/-- A translation fault of a unit other than a core parks its task. -/
def parkTask (slot addr reason level access channel : Nat) (s : State) : State :=
  parkAt slot addr reason level access channel false s

/-- An access of a task's unit failed: the outcome of R265, R270, R272 and R289. -/
def accessFailed (slot : Nat) (write : Bool) (channel : Nat) (e : AccFail) (s : State) : State :=
  match e.err with
  | .fault reason level => parkTask slot e.addr reason level (if write then 1 else 0) channel s
  | .violation reason =>
    failTask slot 0x0302 { address := e.addr, reason := reason } (odBump 0x2302 6 s)
  | .poison w => failTask slot 0x0303 { address := e.addr, detail2 := w } s
  | .noResponse w => failTask slot 0x0304 { address := e.addr, detail2 := w } s

end Sys2Proof.Machine
end

