-- ==== Sys2Proof/Machine/SoftFloat.lean ====
section
/-! DEFINITION. Exact IEEE 754-2019 arithmetic on binary32 and binary64 (R178, R179, R204). -/

namespace Sys2Proof

/-- Exponent width. -/
def FFmt.ew : FFmt → Nat
  | .b32 => 8
  | .b64 => 11

/-- Width of the trailing significand. -/
def FFmt.mw : FFmt → Nat
  | .b32 => 23
  | .b64 => 52

/-- Width of the whole format. -/
def FFmt.width : FFmt → Nat
  | .b32 => 32
  | .b64 => 64

/-- Exponent bias. -/
def FFmt.bias (f : FFmt) : Nat := 2 ^ (f.ew - 1) - 1

end Sys2Proof

namespace Sys2Proof.Machine

/-- A rounding mode of pstat.RM (Table 08-3). -/
inductive Round
  | nearestEven
  | towardZero
  | up
  | down
  deriving DecidableEq, Repr

/-- A datum: a NaN, an infinity, or m × 2^e with its sign. -/
inductive FVal
  | nan (signalling : Bool)
  | inf (neg : Bool)
  | num (neg : Bool) (m : Nat) (e : Int)
  deriving DecidableEq, Repr

/-- FLAGS raised by an operation, as bits of pstat 5:0 (Table 08-3). -/
abbrev FFlags := Nat

/-- FLAGS.NV, invalid. -/
def flagNV : FFlags := 16
/-- FLAGS.DZ, divide by zero. -/
def flagDZ : FFlags := 8
/-- FLAGS.OF, overflow. -/
def flagOF : FFlags := 4
/-- FLAGS.UF, underflow. -/
def flagUF : FFlags := 2
/-- FLAGS.NX, inexact. -/
def flagNX : FFlags := 1
/-- FLAGS.IDZ, integer divide by zero. -/
def flagIDZ : FFlags := 32

/-- The datum a bit pattern of the format holds. -/
def fdecode (f : FFmt) (x : Nat) : FVal :=
  let m := x % 2 ^ f.mw
  let ex := x / 2 ^ f.mw % 2 ^ f.ew
  let neg := x / 2 ^ (f.mw + f.ew) % 2 = 1
  if ex = 2 ^ f.ew - 1 then
    if m = 0 then .inf neg else .nan (decide (m < 2 ^ (f.mw - 1)))
  else if ex = 0 then .num neg m (1 - (f.bias : Int) - f.mw)
  else .num neg (m + 2 ^ f.mw) ((ex : Int) - f.bias - f.mw)

/-- A bit pattern from sign, exponent field and trailing significand. -/
def fpack (f : FFmt) (neg : Bool) (ex m : Nat) : Nat :=
  (if neg then 2 ^ (f.ew + f.mw) else 0) + ex * 2 ^ f.mw + m

/-- Infinity of a sign. -/
def finf (f : FFmt) (neg : Bool) : Nat := fpack f neg (2 ^ f.ew - 1) 0

/-- Zero of a sign. -/
def fzero (f : FFmt) (neg : Bool) : Nat := fpack f neg 0 0

/-- The canonical quiet NaN (R120: 0x7FC0_0000 and 0x7FF8_0000_0000_0000). DEDUCED for R179, log entry 8. -/
def fcanon (f : FFmt) : Nat := fpack f false (2 ^ f.ew - 1) (2 ^ (f.mw - 1))

/-- A computed NaN: a quiet NaN whose sign and payload the spec leaves open (log entry 8). -/
def fnan (f : FFmt) (op a b c : Nat) : Nat :=
  let p := Config.nanPayload op a b c
  fpack f (p % 2 = 1) (2 ^ f.ew - 1) (2 ^ (f.mw - 1) + p / 2 % 2 ^ (f.mw - 1))

/-- Round an integer m × 2^-k (k bits to drop, sticky for what lies below) in a mode. Result, inexact. -/
def roundShift (r : Round) (neg : Bool) (m k : Nat) (sticky : Bool) : Nat × Bool :=
  let q := m >>> k
  let guard := k ≠ 0 && (m >>> (k - 1)) % 2 = 1
  let rest := sticky || (k ≠ 0 && m % 2 ^ (k - 1) ≠ 0)
  let inexact := guard || rest
  let inc := match r with
    | .nearestEven => guard && (rest || q % 2 = 1)
    | .towardZero => false
    | .up => !neg && inexact
    | .down => neg && inexact
  (if inc then q + 1 else q, inexact)

/-- Number of significant bits. -/
def bitLen (m : Nat) : Nat := if m = 0 then 0 else Nat.log2 m + 1

/-- The significand of the value m × 2^e rounded to a quantum 2^q. -/
def roundTo (r : Round) (neg : Bool) (m : Nat) (e q : Int) (sticky : Bool) : Nat × Bool :=
  if q ≤ e then
    let k := (e - q).toNat
    roundShift r neg ((m * 2 ^ k) * 4) 2 sticky
  else roundShift r neg m (q - e).toNat sticky

/-- Rounding of a non-zero value (m + sticky) × 2^e to the format: bit pattern and flags. -/
def fround (f : FFmt) (r : Round) (neg : Bool) (m : Nat) (e : Int) (sticky : Bool) : Nat × FFlags :=
  let msb : Int := e + bitLen m - 1
  let emin : Int := 1 - f.bias
  let q : Int := max (msb - f.mw) (emin - f.mw)
  let (s0, inexact) := roundTo r neg m e q sticky
  let (s, q) := if s0 = 2 ^ (f.mw + 1) then (2 ^ f.mw, q + 1) else (s0, q)
  let ex : Nat := if s < 2 ^ f.mw then 0 else (q + f.mw + f.bias).toNat
  if 2 ^ f.ew - 1 ≤ ex then
    let toInf := match r with
      | .nearestEven => true
      | .towardZero => false
      | .up => !neg
      | .down => neg
    (if toInf then finf f neg else fpack f neg (2 ^ f.ew - 2) (2 ^ f.mw - 1), flagOF ||| flagNX)
  else
    let tinyBefore := decide (msb < emin)
    let tinyAfter := tinyBefore &&
      !(decide (msb = emin - 1) && (roundTo r neg m e (msb - f.mw) sticky).1 = 2 ^ (f.mw + 1))
    let tiny := if Config.tinyAfterRounding then tinyAfter else tinyBefore
    (fpack f neg ex (s % 2 ^ f.mw),
      (if inexact then flagNX else 0) ||| (if tiny && inexact then flagUF else 0))

/-- Rounding of an exact value with a sign for the zero case. -/
def froundExact (f : FFmt) (r : Round) (zeroNeg : Bool) (v : Int) (e : Int) : Nat × FFlags :=
  if v = 0 then (fzero f zeroNeg, 0) else fround f r (decide (v < 0)) v.natAbs e false

/-- Whether a pattern is a signalling NaN. -/
def isSNaN (f : FFmt) (a : Nat) : Bool := fdecode f a = .nan true

/-- Whether a pattern is a NaN. -/
def isNaN (f : FFmt) (a : Nat) : Bool :=
  match fdecode f a with
  | .nan _ => true
  | _ => false

/-- NV if any operand is a signalling NaN. -/
def snanFlag (f : FFmt) (ops : List Nat) : FFlags := if ops.any (isSNaN f) then flagNV else 0

/-- The signed integer significand of a number aligned to exponent e. -/
def alignTo (neg : Bool) (m : Nat) (x e : Int) : Int :=
  let v : Int := (m * 2 ^ (x - e).toNat : Nat)
  if neg then -v else v

/-- Exact sum of two finite numbers: significand and exponent. -/
def exactAdd (n1 : Bool) (m1 : Nat) (e1 : Int) (n2 : Bool) (m2 : Nat) (e2 : Int) : Int × Int :=
  let e := min e1 e2
  (alignTo n1 m1 e1 e + alignTo n2 m2 e2 e, e)

/-- Sign of an exact zero sum. -/
def zeroSumNeg (r : Round) (n1 n2 : Bool) : Bool := if n1 = n2 then n1 else r = .down

/-- The sign bit flipped. -/
def fneg (f : FFmt) (a : Nat) : Nat :=
  if a / 2 ^ (f.ew + f.mw) % 2 = 1 then a - 2 ^ (f.ew + f.mw) else a + 2 ^ (f.ew + f.mw)

/-- The sign bit cleared. -/
def fabs (f : FFmt) (a : Nat) : Nat := a % 2 ^ (f.ew + f.mw)

/-- FADD (R178). -/
def fadd (f : FFmt) (r : Round) (a b : Nat) : Nat × FFlags :=
  match fdecode f a, fdecode f b with
  | .nan _, _ => (fnan f 0 a b 0, snanFlag f [a, b])
  | _, .nan _ => (fnan f 0 a b 0, snanFlag f [a, b])
  | .inf n1, .inf n2 => if n1 = n2 then (finf f n1, 0) else (fnan f 0 a b 0, flagNV)
  | .inf n1, _ => (finf f n1, 0)
  | _, .inf n2 => (finf f n2, 0)
  | .num n1 m1 e1, .num n2 m2 e2 =>
    let (v, e) := exactAdd n1 m1 e1 n2 m2 e2
    froundExact f r (zeroSumNeg r n1 n2) v e

/-- FSUB (R178): a NaN subtrahend keeps its NaN. -/
def fsub (f : FFmt) (r : Round) (a b : Nat) : Nat × FFlags :=
  if isNaN f a || isNaN f b then (fnan f 1 a b 0, snanFlag f [a, b]) else fadd f r a (fneg f b)

/-- FMUL (R178). -/
def fmul (f : FFmt) (r : Round) (a b : Nat) : Nat × FFlags :=
  match fdecode f a, fdecode f b with
  | .nan _, _ => (fnan f 2 a b 0, snanFlag f [a, b])
  | _, .nan _ => (fnan f 2 a b 0, snanFlag f [a, b])
  | .inf n1, .inf n2 => (finf f (n1 != n2), 0)
  | .inf n1, .num n2 m2 _ => if m2 = 0 then (fnan f 2 a b 0, flagNV) else (finf f (n1 != n2), 0)
  | .num n1 m1 _, .inf n2 => if m1 = 0 then (fnan f 2 a b 0, flagNV) else (finf f (n1 != n2), 0)
  | .num n1 m1 e1, .num n2 m2 e2 =>
    if m1 * m2 = 0 then (fzero f (n1 != n2), 0) else fround f r (n1 != n2) (m1 * m2) (e1 + e2) false

/-- FDIV (R178). -/
def fdiv (f : FFmt) (r : Round) (a b : Nat) : Nat × FFlags :=
  match fdecode f a, fdecode f b with
  | .nan _, _ => (fnan f 3 a b 0, snanFlag f [a, b])
  | _, .nan _ => (fnan f 3 a b 0, snanFlag f [a, b])
  | .inf _, .inf _ => (fnan f 3 a b 0, flagNV)
  | .inf n1, .num n2 _ _ => (finf f (n1 != n2), 0)
  | .num n1 _ _, .inf n2 => (fzero f (n1 != n2), 0)
  | .num n1 m1 e1, .num n2 m2 e2 =>
    if m2 = 0 then
      if m1 = 0 then (fnan f 3 a b 0, flagNV) else (finf f (n1 != n2), flagDZ)
    else if m1 = 0 then (fzero f (n1 != n2), 0)
    else
      let k := 2 * f.mw + 6
      let n := m1 * 2 ^ k
      fround f r (n1 != n2) (n / m2) (e1 - e2 - k) (n % m2 ≠ 0)

/-- Integer square root by bits, from bit i downwards. -/
def isqrtAux (n : Nat) : Nat → Nat → Nat
  | 0, acc => acc
  | i + 1, acc =>
    let t := acc + 2 ^ i
    isqrtAux n i (if t * t ≤ n then t else acc)

/-- Integer square root. -/
def isqrt (n : Nat) : Nat := isqrtAux n ((bitLen n + 1) / 2) 0

/-- FSQRT (R178). -/
def fsqrt (f : FFmt) (r : Round) (a : Nat) : Nat × FFlags :=
  match fdecode f a with
  | .nan _ => (fnan f 4 a 0 0, snanFlag f [a])
  | .inf n => if n then (fnan f 4 a 0 0, flagNV) else (finf f false, 0)
  | .num n m e =>
    if m = 0 then (fzero f n, 0)
    else if n then (fnan f 4 a 0 0, flagNV)
    else
      let odd : Nat := (e % 2).toNat
      let k := 2 * (f.mw + 4)
      let x := m * 2 ^ (k + odd)
      let s := isqrt x
      fround f r false s ((e - odd - k) / 2) (s * s ≠ x)

/-- Total order key of two non-NaN data: whether a is less than b; −0 equals +0. -/
def fltVal : FVal → FVal → Bool
  | .nan _, _ => false
  | _, .nan _ => false
  | .inf n1, .inf n2 => n1 && !n2
  | .inf n1, _ => n1
  | _, .inf n2 => !n2
  | .num n1 m1 e1, .num n2 m2 e2 =>
    let e := min e1 e2
    decide (alignTo n1 m1 e1 e < alignTo n2 m2 e2 e)

/-- Numeric equality of two data; a NaN equals nothing. -/
def feqVal : FVal → FVal → Bool
  | .nan _, _ => false
  | _, .nan _ => false
  | a, b => !fltVal a b && !fltVal b a

/-- Sign of a datum. -/
def FVal.neg : FVal → Bool
  | .nan _ => false
  | .inf n => n
  | .num n _ _ => n

/-- FMIN and FMAX (R178): the non-NaN operand when only one is a NaN; −0 lies below +0 (log entry 9). -/
def fminmax (f : FFmt) (isMax : Bool) (a b : Nat) : Nat × FFlags :=
  let fl := snanFlag f [a, b]
  match isNaN f a, isNaN f b with
  | true, true => (fnan f (if isMax then 6 else 5) a b 0, fl)
  | true, false => (b, fl)
  | false, true => (a, fl)
  | false, false =>
    let va := fdecode f a
    let vb := fdecode f b
    let aLess := fltVal va vb || (feqVal va vb && va.neg && !vb.neg)
    (if aLess != isMax then a else b, 0)

/-- FMAC (R178): a × b + c with one rounding. -/
def fmac (f : FFmt) (r : Round) (a b c : Nat) : Nat × FFlags :=
  let nan := fnan f 7 a b c
  let prodInvalid := match fdecode f a, fdecode f b with
    | .inf _, .num _ m _ => m = 0
    | .num _ m _, .inf _ => m = 0
    | _, _ => false
  if isNaN f a || isNaN f b || isNaN f c then
    (nan, snanFlag f [a, b, c] |||
      (if prodInvalid && Config.fmaNanInvalid then flagNV else 0))
  else if prodInvalid then (nan, flagNV)
  else
    match fdecode f a, fdecode f b, fdecode f c with
    | .num n1 m1 e1, .num n2 m2 e2, .num n3 m3 e3 =>
      let (v, e) := exactAdd (n1 != n2) (m1 * m2) (e1 + e2) n3 m3 e3
      froundExact f r (zeroSumNeg r (n1 != n2) n3) v e
    | .num .., .num .., .inf n3 => (finf f n3, 0)
    | va, vb, .inf n3 => if (va.neg != vb.neg) = n3 then (finf f n3, 0) else (nan, flagNV)
    | va, vb, _ => (finf f (va.neg != vb.neg), 0)

/-- A finite number rounded to an integer: value and inexactness. -/
def roundInt (r : Round) (neg : Bool) (m : Nat) (e : Int) : Int × Bool :=
  let (q, ix) := roundTo r neg m e 0 false
  (if neg then -(q : Int) else (q : Int), ix)

/-- FTOI and FTOU (R179): a NaN gives 0, an out-of-range value the nearest integer, both with NV. -/
def ftoint (f : FFmt) (r : Round) (signed : Bool) (a : Nat) : Nat × FFlags :=
  let lo : Int := if signed then -(2 ^ 63) else 0
  let hi : Int := if signed then 2 ^ 63 - 1 else 2 ^ 64 - 1
  match fdecode f a with
  | .nan _ => (0, flagNV)
  | .inf n => (ofSigned 64 (if n then lo else hi), flagNV)
  | .num n m e =>
    let (v, ix) := roundInt r n m e
    if v < lo then (ofSigned 64 lo, flagNV)
    else if hi < v then (ofSigned 64 hi, flagNV)
    else (ofSigned 64 v, if ix then flagNX else 0)

/-- ITOF and UTOF (R179). -/
def inttof (f : FFmt) (r : Round) (v : Int) : Nat × FFlags := froundExact f r false v 0

/-- FTOF (R179): conversion from the other format into f. -/
def ftof (f : FFmt) (r : Round) (a : Nat) : Nat × FFlags :=
  let src : FFmt := match f with
    | .b32 => .b64
    | .b64 => .b32
  match fdecode src a with
  | .nan true => (fcanon f, flagNV)
  | .nan false => (fnan f 8 a 0 0, 0)
  | .inf n => (finf f n, 0)
  | .num n m e => if m = 0 then (fzero f n, 0) else fround f r n m e false

/-- FINT (R179): rounded to an integral value in the same format; it sets no NX. -/
def fint (f : FFmt) (r : Round) (a : Nat) : Nat × FFlags :=
  match fdecode f a with
  | .nan sig => (fnan f 9 a 0 0, if sig then flagNV else 0)
  | .inf n => (finf f n, 0)
  | .num n m e =>
    let (v, _) := roundInt r n m e
    if v = 0 then (fzero f n, 0) else ((froundExact f r n v 0).1, 0)

/-- The relations of FCMP (R179). -/
inductive FRel
  | eq
  | lt
  | le
  | unord
  deriving DecidableEq, Repr

/-- A comparison of R179: result and flags; a signalling one sets NV on any NaN. -/
def fcmp (f : FFmt) (rel : FRel) (signalling : Bool) (a b : Nat) : Bool × FFlags :=
  let va := fdecode f a
  let vb := fdecode f b
  let anyNaN := isNaN f a || isNaN f b
  let res := match rel with
    | .eq => feqVal va vb
    | .lt => fltVal va vb
    | .le => fltVal va vb || feqVal va vb
    | .unord => anyNaN
  (res, if signalling && anyNaN then flagNV else snanFlag f [a, b])

/-- FCLASS (R179). -/
def fclass (f : FFmt) (a : Nat) : Nat :=
  match fdecode f a with
  | .nan sig => if sig then 9 else 8
  | .inf n => if n then 7 else 6
  | .num n m _ =>
    (if m = 0 then 0 else if m < 2 ^ f.mw then 2 else 4) + (if n then 1 else 0)

end Sys2Proof.Machine
end

