-- ==== Sys2Proof/Machine/Plan.lean ====
section
/-! DEFINITION. The plan image as records: header, phases, stages, streams, layouts, parameters, blobs (chapter 03). -/

namespace Sys2Proof.Machine

/-! ### Header (Table 03-1) -/

/-- PHASE_COUNT. -/
def imgPhases (img : List Byte) : Nat := fld img 0x05 1
/-- STAGE_COUNT. -/
def imgStages (img : List Byte) : Nat := fld img 0x06 2
/-- IMAGE_LENGTH. -/
def imgLength (img : List Byte) : Nat := fld img 0x08 4
/-- STREAM_COUNT. -/
def imgStreams (img : List Byte) : Nat := fld img 0x0C 2
/-- PARAM_COUNT. -/
def imgParams (img : List Byte) : Nat := fld img 0x0E 2
/-- BLOB_COUNT. -/
def imgBlobs (img : List Byte) : Nat := fld img 0x10 2
/-- LAYOUT_COUNT. -/
def imgLayouts (img : List Byte) : Nat := fld img 0x12 2
/-- CONST_OFFSET. -/
def imgConst (img : List Byte) : Nat := fld img 0x30 4
/-- CONST_LENGTH. -/
def imgConstLen (img : List Byte) : Nat := fld img 0x34 4

/-! ### Entries -/

/-- A phase entry (Table 03-2). -/
structure PhaseEnt where
  depends : Nat
  first : Nat
  count : Nat
  deriving DecidableEq, Repr

/-- Phase entry n. -/
def phaseEnt (img : List Byte) (n : Nat) : PhaseEnt :=
  let o := fld img 0x18 4 + 16 * n
  { depends := fld img o 8, first := fld img (o + 8) 2, count := fld img (o + 10) 2 }

/-- A stage entry (Table 03-3). -/
structure StageEnt where
  op : Nat
  flags : Nat
  cls : Nat
  ins : Nat
  outs : Nat
  unit : Nat
  operandOff : Nat
  operandLen : Nat
  outCap : Nat
  blob : Nat
  scratch : Nat
  params : List Nat
  deriving DecidableEq, Repr

/-- Stage entry n. -/
def stageEnt (img : List Byte) (n : Nat) : StageEnt :=
  let o := fld img 0x1C 4 + 64 * n
  { op := fld img o 1, flags := fld img (o + 1) 1, cls := fld img (o + 2) 1, ins := fld img (o + 3) 1
    outs := fld img (o + 4) 1, unit := fld img (o + 5) 1, operandOff := fld img (o + 8) 4
    operandLen := fld img (o + 12) 4, outCap := fld img (o + 16) 8, blob := fld img (o + 24) 2
    scratch := fld img (o + 28) 4
    params := (List.range 8).map fun i => fld img (o + 32 + 2 * i) 2 }

/-- FLAGS.DRAIN (Table 03-4). -/
def StageEnt.drain (e : StageEnt) : Bool := e.flags.testBit 0

/-- FLAGS.PIN_UNIT (Table 03-4). -/
def StageEnt.pinned (e : StageEnt) : Bool := e.flags.testBit 1

/-- The stage's operand: bytes of the constant pool (R61). -/
def operandOf (img : List Byte) (e : StageEnt) : List Byte :=
  slice img (imgConst img + e.operandOff) e.operandLen

/-- A stream entry (Table 03-5). -/
structure StreamEnt where
  producer : Nat
  prodPort : Nat
  consPort : Nat
  consumer : Nat
  ty : Nat
  tparam : Nat
  prec : Nat
  nullable : Bool
  layout : Nat
  deriving DecidableEq, Repr

/-- Stream entry n. -/
def streamEnt (img : List Byte) (n : Nat) : StreamEnt :=
  let o := fld img 0x20 4 + 16 * n
  { producer := fld img o 2, prodPort := fld img (o + 2) 1, consPort := fld img (o + 3) 1
    consumer := fld img (o + 4) 2, ty := fld img (o + 6) 1, tparam := fld img (o + 7) 1
    prec := fld img (o + 8) 1, nullable := (fld img (o + 9) 1).testBit 0, layout := fld img (o + 10) 2 }

/-- All stream entries. -/
def streamsOf (img : List Byte) : List StreamEnt := (List.range (imgStreams img)).map (streamEnt img)

/-- The stream entered at an input port of a stage. -/
def inStream (img : List Byte) (stage port : Nat) : Option Nat :=
  (List.range (imgStreams img)).find? fun n =>
    let e := streamEnt img n
    e.consumer = stage && e.consPort = port

/-- The stream left at an output port of a stage. -/
def outStream (img : List Byte) (stage port : Nat) : Option Nat :=
  (List.range (imgStreams img)).find? fun n =>
    let e := streamEnt img n
    e.producer = stage && e.prodPort = port

/-- A field of a row layout: type, TPARAM, PRECISION, lane offset (Table 03-7). -/
structure LayoutField where
  ty : Nat
  tparam : Nat
  prec : Nat
  off : Nat
  deriving DecidableEq, Repr

/-- A row layout (Table 03-7). -/
structure Layout where
  width : Nat
  validAt : Nat
  fields : List LayoutField
  deriving DecidableEq, Repr

/-- Row layout entry n. -/
def layoutEnt (img : List Byte) (n : Nat) : Layout :=
  let o := fld img 0x2C 4 + 80 * n
  { width := fld img o 1, validAt := fld img (o + 2) 1
    fields := (List.range (min 16 (fld img (o + 1) 1))).map fun i =>
      let p := o + 8 + 4 * i
      { ty := fld img p 1, tparam := fld img (p + 1) 1, prec := fld img (p + 2) 1, off := fld img (p + 3) 1 } }

/-- A parameter declaration (Table 03-8). -/
structure ParamEnt where
  kind : Nat
  ty : Nat
  tparam : Nat
  prec : Nat
  access : Nat
  minLen : Nat
  deriving DecidableEq, Repr

/-- Parameter declaration n. -/
def paramEnt (img : List Byte) (n : Nat) : ParamEnt :=
  let o := fld img 0x24 4 + 16 * n
  { kind := fld img o 1, ty := fld img (o + 1) 1, tparam := fld img (o + 2) 1, prec := fld img (o + 3) 1
    access := fld img (o + 4) 1, minLen := fld img (o + 8) 8 }

/-- A blob directory entry (R62). -/
structure BlobEnt where
  off : Nat
  len : Nat
  entry : Nat
  tile : Nat
  stack : Nat
  deriving DecidableEq, Repr

/-- Blob directory entry n. -/
def blobEnt (img : List Byte) (n : Nat) : BlobEnt :=
  let o := fld img 0x28 4 + 32 * n
  { off := fld img o 4, len := fld img (o + 4) 4, entry := fld img (o + 8) 4, tile := fld img (o + 12) 4
    stack := fld img (o + 16) 4 }

/-! ### Types (Tables 02-4 and 03-6) -/

/-- Width in bytes of a fixed-width value type; 0 for VARBYTES and unknown codes. -/
def valueWidth (ty : Nat) : Nat :=
  match ty with
  | 1 | 2 | 6 => 1
  | 3 | 7 => 2
  | 4 | 8 | 12 | 14 => 4
  | 5 | 9 | 10 | 13 | 15 => 8
  | 11 => 16
  | _ => 0

/-- Whether a code is a fixed-width value type (Table 02-4). -/
def isFixedType (ty : Nat) : Bool := 1 ≤ ty && ty ≤ 15

/-- VARBYTES. -/
def tyVar : Nat := 0x10
/-- SELECTION. -/
def tySelection : Nat := 0x20
/-- ROWREF. -/
def tyRowref : Nat := 0x21
/-- CODE8. -/
def tyCode8 : Nat := 0x22
/-- CODE16. -/
def tyCode16 : Nat := 0x23
/-- HASH64. -/
def tyHash : Nat := 0x24
/-- PACKED. -/
def tyPacked : Nat := 0x25
/-- BYTES. -/
def tyBytes : Nat := 0x26

/-- Width in lanes of an element of a stream type; 0 for VARBYTES (Table 03-6). -/
def elemWidth (img : List Byte) (ty layout : Nat) : Nat :=
  if ty ≤ 0x10 then valueWidth ty
  else if ty = tySelection || ty = tyCode8 || ty = tyBytes then 1
  else if ty = tyCode16 then 2
  else if ty = tyPacked then (layoutEnt img layout).width
  else 8

/-- Width of a field type of a row layout: value types, CODE8, CODE16, HASH64 (R57). -/
def fieldWidth (ty : Nat) : Nat :=
  if ty ≤ 0x10 then valueWidth ty
  else if ty = tyCode8 then 1 else if ty = tyCode16 then 2 else if ty = tyHash then 8 else 0

/-- DECIMAL64 or DECIMAL128. -/
def isDecimal (ty : Nat) : Bool := ty = 0x0A || ty = 0x0B

/-- Whether TPARAM and PRECISION are valid for a value type (Table 02-4). -/
def typeParamsOk (ty tparam prec : Nat) : Bool :=
  if ty = 0x0A then 1 ≤ prec && prec ≤ 18 && tparam ≤ prec
  else if ty = 0x0B then 1 ≤ prec && prec ≤ 38 && tparam ≤ prec
  else if ty = 0x0F then tparam ≤ 3 && prec = 0
  else tparam = 0 && prec = 0

/-- Signed value types (Table 02-4). -/
def isSignedType (ty : Nat) : Bool :=
  (2 ≤ ty && ty ≤ 5) || ty = 0x0A || ty = 0x0B || ty = 0x0E || ty = 0x0F

/-- Unsigned integer value types. -/
def isUnsignedType (ty : Nat) : Bool := 6 ≤ ty && ty ≤ 9

/-- Integer value types, signed or unsigned. -/
def isIntType (ty : Nat) : Bool := 2 ≤ ty && ty ≤ 9

/-- FLOAT32 or FLOAT64. -/
def isFloatType (ty : Nat) : Bool := ty = 0x0C || ty = 0x0D

/-- The integer a signed or unsigned value's bytes hold. -/
def intValue (ty : Nat) (bs : List Byte) : Int :=
  if isSignedType ty then toSigned (8 * bs.length) (leNat bs) else (leNat bs : Int)

/-- Whether a value's bytes are allowed for its type (Table 02-4, R32). -/
def valueOk (ty prec : Nat) (bs : List Byte) : Bool :=
  if ty = 1 then leNat bs ≤ 1
  else if isDecimal ty then decide ((intValue ty bs).natAbs < 10 ^ prec)
  else true

end Sys2Proof.Machine
end

