-- ==== Sys2Proof/Machine/Streams.lean ====
section
/-! DEFINITION. Streams of placed stages: elements, ports, caps, ends (R18, R19, R56, R65, R66, R70). -/

namespace Sys2Proof.Machine

/-- The plan image of a task's job. -/
def taskImg (s : State) (t : Task) : List Byte :=
  match jobOf s t.jid with
  | some j => match j.plan with
    | some p => p.image
    | none => []
  | none => []

/-- The plan copy of a task's job. -/
def taskPlan (s : State) (t : Task) : PlanCopy :=
  match jobOf s t.jid with
  | some j => j.plan.getD ⟨[], [], []⟩
  | none => ⟨[], [], []⟩

/-- The stage entry of a task. -/
def taskStage (s : State) (t : Task) : StageEnt := stageEnt (taskImg s t) t.stage

/-- The operand of a task's stage. -/
def taskOperand (s : State) (t : Task) : List Byte := operandOf (taskImg s t) (taskStage s t)

/-- The stream entry of an input port of a task. -/
def inEnt (s : State) (t : Task) (port : Nat) : Option StreamEnt :=
  (t.ins[port]?).map fun p => streamEnt (taskImg s t) p.stream

/-- The stream entry of an output port of a task. -/
def outEnt (s : State) (t : Task) (port : Nat) : Option StreamEnt :=
  (t.outs[port]?).map fun p => streamEnt (taskImg s t) p.stream

/-- Bytes of an element as it travels (R19): a VARBYTES value is a 4-byte length and its bytes. -/
def elemBytes (ty : Nat) (b : List Byte) : List Byte := if ty = tyVar then leBytes 4 b.length ++ b else b

/-- Parameter value k of a task's stage: 16 bytes (R58). -/
def taskParam (s : State) (t : Task) (k : Nat) : Option (List Byte) :=
  match (taskStage s t).params[k]? with
  | some i => if i = 0xFFFF then none else (taskPlan s t).params[i]?
  | none => none

/-- The list that parameter k of a task's stage names: chunk-list or chain entries (R60). -/
def taskList (s : State) (t : Task) (k : Nat) : List (List Byte) :=
  match (taskStage s t).params[k]? with
  | some i => tget [] (taskPlan s t).lists i
  | none => []

/-- Address and length of a buffer parameter (R58). -/
def taskBuffer (s : State) (t : Task) (k : Nat) : Nat × Nat :=
  match taskParam s t k with
  | some v => (fld v 0 8, fld v 8 8)
  | none => (0, 0)

/-- Whether a stage may emit n more elements on a port under OUT_CAP (R70). DESIGN CHOICE (log 16): each port of a stage is
counted apart, and a lane of a SELECTION output counts as one. A Sieve counts selected rows itself. -/
def capAllows (s : State) (t : Task) (port n : Nat) : Bool :=
  let cap := (taskStage s t).outCap
  match t.outs[port]? with
  | some p => cap = 0 || (taskStage s t).op = 0x01 || p.emitted + n ≤ cap
  | none => true

/-- Elements join an output port's buffer. -/
def pushOut (slot port : Nat) (es : List Elem) (s : State) : State :=
  taskMod slot (fun t => { t with
    outs := lmod t.outs port fun p => { p with buf := p.buf ++ es, emitted := p.emitted + es.length } }) s

/-- Whether an output port can take another element. DESIGN CHOICE (log 16): it holds elements of one transfer, of one
block of 64 on a NULLABLE stream, or one VARBYTES value; then it stalls its producer (R18). -/
def outHasRoom (img : List Byte) (p : OutPort) : Bool :=
  let e := streamEnt img p.stream
  p.buf.isEmpty || (e.ty ≠ tyVar &&
    (if e.nullable then p.buf.length < 64 else (p.buf.length + 1) * max 1 (elemWidth img e.ty e.layout) ≤ 64))

/-- What becomes of an element that is to leave on a port. -/
inductive Leave
  | now
  | stall
  /-- It is the first row beyond OUT_CAP, and every row before it has left. -/
  | over
  deriving DecidableEq, Repr

/-- Whether one more element leaves on a port, waits for its consumer, or is beyond OUT_CAP (R18, R70). -/
def leaveOf (s : State) (t : Task) (port : Nat) : Leave :=
  match t.outs[port]? with
  | none => .now
  | some p =>
    if !outHasRoom (taskImg s t) p then .stall
    else if capAllows s t port 1 then .now
    else if p.buf.isEmpty then .over else .stall

/-- The engine state of a task changed. -/
def engMod (slot : Nat) (f : Eng → Eng) (s : State) : State :=
  taskMod slot (fun t => { t with eng := f t.eng }) s

/-- Whether a task's unit is executing it. -/
def isRunning (t : Task) : Bool := t.run = .running && !t.finished

/-- The elements given leave one by one while their ports take them; the others wait, in `results`. The first beyond
OUT_CAP fails the job and leaves on no output (R18, R70). -/
def leaveAll (slot : Nat) : List (Nat × Elem) → State → State
  | [], s => engMod slot (fun g => { g with results := [] }) s
  | x :: xs, s =>
    match taskAt s slot with
    | none => s
    | some t =>
      match leaveOf s t x.1 with
      | .now => leaveAll slot xs (pushOut slot x.1 [x.2] s)
      | .stall => engMod slot (fun g => { g with results := x :: xs }) s
      | .over => failTask slot 0x020F { detail := (taskStage s t).outCap } s

/-- The results of a running stage leave as far as their consumers take them. -/
def drain (slot : Nat) (s : State) : State :=
  match taskAt s slot with
  | none => s
  | some t => if isRunning t then leaveAll slot t.eng.results s else s

/-- Elements are emitted after those that wait. -/
def emitOn (slot : Nat) (xs : List (Nat × Elem)) (s : State) : State :=
  drain slot (engMod slot (fun g => { g with results := g.results ++ xs }) s)

/-- Elements are emitted on one port. -/
def emitElems (slot port : Nat) (es : List Elem) (s : State) : State := emitOn slot (es.map fun e => (port, e)) s

/-- Rows of an output set are emitted: element p of each row on output port p (R65, R88). -/
def emitRows (slot : Nat) (rows : List (List Elem)) (s : State) : State :=
  emitOn slot (rows.flatMap fun r => r.zipIdx.map fun (e, p) => (p, e)) s

/-- Every output of a task is ended (R66). -/
def endOuts (slot : Nat) (s : State) : State :=
  taskMod slot (fun t => { t with outs := t.outs.map fun p => { p with ended := true } }) s

/-- Whether every input of a task has ended and been consumed. -/
def insDone (t : Task) : Bool := t.ins.all fun p => p.ended && p.buf.isEmpty

/-- Number of whole rows ready at lockstep inputs (R65). -/
def rowsReady (t : Task) : Nat :=
  match t.ins with
  | [] => 0
  | p :: ps => ps.foldl (fun n q => min n q.buf.length) p.buf.length

/-- The first n rows at lockstep inputs: element k of every port. -/
def frontRows (t : Task) (n : Nat) : List (List Elem) :=
  (List.range n).map fun k => t.ins.map fun p => p.buf.getD k none

/-- Every input port loses its first n elements. -/
def dropRows (slot n : Nat) (s : State) : State :=
  taskMod slot (fun t => { t with ins := t.ins.map fun p => { p with buf := p.buf.drop n } }) s

/-- Input port i of an ordered drain: the first port that is not both ended and empty (R65). -/
def drainPort (t : Task) : Option Nat := findPos (fun p => !(p.ended && p.buf.isEmpty)) t.ins

/-- One port loses its first n elements. -/
def dropPort (slot port n : Nat) (s : State) : State :=
  taskMod slot (fun t => { t with ins := lmod t.ins port fun p => { p with buf := p.buf.drop n } }) s

/-- At most n bytes of a BYTES input and the state without them. -/
def takeUpTo (slot port n : Nat) (s : State) : List Byte × State :=
  match taskAt s slot with
  | none => ([], s)
  | some t =>
    match t.ins[port]? with
    | none => ([], s)
    | some p => (((p.buf.take n).filterMap id).flatten, dropPort slot port n s)

/-- The rows a stage can take now, and the state without them: lockstep, or the ports in order (R65).
In an ordered drain each row has one element. -/
def takeRows (slot : Nat) (s : State) : List (List Elem) × State :=
  match taskAt s slot with
  | none => ([], s)
  | some t =>
    if (taskStage s t).drain then
      t.ins.zipIdx.foldl (fun (acc : (List (List Elem) × State) × Bool) (p, i) =>
        if acc.2 then
          ((acc.1.1 ++ p.buf.map fun e => [e], dropPort slot i p.buf.length acc.1.2), p.ended)
        else acc) (([], s), true) |>.1
    else
      let n := rowsReady t
      (frontRows t n, dropRows slot n s)

/-- The bytes of a BYTES input and the state without them. -/
def takeBytes (slot port : Nat) (s : State) : List Byte × State :=
  match taskAt s slot with
  | none => ([], s)
  | some t =>
    match t.ins[port]? with
    | none => ([], s)
    | some p => ((p.buf.filterMap id).flatten, dropPort slot port p.buf.length s)

/-- A BYTES output gains bytes, one element each. -/
def emitBytes (slot port : Nat) (bs : List Byte) (s : State) : State :=
  emitElems slot port (bs.map fun b => some [b]) s

/-- The runtime ends a blob's stage: unread input is discarded and every output is ended (R197). -/
def blobDone (slot : Nat) (s : State) : State :=
  taskMod slot (fun t =>
    { t with
      ins := t.ins.map fun p => { p with buf := [] }
      outs := t.outs.map fun p => { p with ended := true }
      eng := { t.eng with done := true } }) s

end Sys2Proof.Machine
end

