-- ==== Sys2Proof/Machine/Keys.lean ====
section
/-! DEFINITION. Normalised keys (R120, R121), key images and the Mash hash (R97 to R100), comparison orders
(R81), aggregate functions (R129 to R135). -/

namespace Sys2Proof.Machine

/-! ### Floating-point keys -/

/-- The format of a floating-point type. -/
def fmtOf (ty : Nat) : FFmt := if ty = 0x0C then .b32 else .b64

/-- A floating-point number canonicalised: −0 becomes +0 and every NaN the canonical one (Table 06-1). -/
def canonFloat (f : FFmt) (x : Nat) : Nat :=
  if isNaN f x then fcanon f else if fabs f x = 0 then 0 else x

/-- A key's value as it leaves a sort or aggregate engine (R123, R128). -/
def canonKey (ty : Nat) (bs : List Byte) : List Byte :=
  if isFloatType ty then leBytes bs.length (canonFloat (fmtOf ty) (leNat bs)) else bs

/-! ### Normalised keys -/

/-- A key of an operator: its type and how it is compared. -/
structure KeySpec where
  ty : Nat
  tparam : Nat := 0
  prec : Nat := 0
  kflags : Nat := 0
  maxLen : Nat := 0
  nullable : Bool := false
  deriving DecidableEq, Repr

/-- Width of a key's value bytes in its normalised form (Table 06-1). -/
def normWidth (k : KeySpec) : Nat := if k.ty = tyVar then 2 * k.maxLen + 2 else fieldWidth k.ty

/-- Length of a key's part of the normalised key. -/
def normLen (k : KeySpec) : Nat := normWidth k + (if k.nullable then 1 else 0)

/-- VARBYTES collation: PAD_SPACE, then FOLD_ASCII (Table 06-2). -/
def collate (kflags : Nat) (bs : List Byte) : List Byte :=
  let bs := if kflags.testBit 3 then (bs.reverse.dropWhile (· = 0x20)).reverse else bs
  if kflags.testBit 2 then bs.map fun b => if 0x41 ≤ b.toNat && b.toNat ≤ 0x5A then b + 0x20 else b else bs

/-- The value bytes of a present key (Table 06-1). -/
def normValue (k : KeySpec) (bs : List Byte) : List Byte :=
  let w := normWidth k
  if k.ty = tyVar then
    slice ((collate k.kflags bs).flatMap fun b => if b = 0 then [0x00, 0xFF] else [b]) 0 w
  else
    let x := leNat bs
    if isFloatType k.ty then
      let c := canonFloat (fmtOf k.ty) x
      beBytes w (if c.testBit (8 * w - 1) then 2 ^ (8 * w) - 1 - c else c + 2 ^ (8 * w - 1))
    else if isSignedType k.ty then beBytes w ((x + 2 ^ (8 * w - 1)) % 2 ^ (8 * w))
    else beBytes w x

/-- One key's part of the normalised key (R120). -/
def normPart (k : KeySpec) (e : Elem) : List Byte :=
  let last := k.kflags.testBit 1
  match e with
  | none => (if k.nullable then [if last then 1 else 0] else []) ++ List.replicate (normWidth k) 0
  | some bs =>
    let v := normValue k bs
    (if k.nullable then [if last then 0 else 1] else []) ++
      (if k.kflags.testBit 0 then v.map fun b => b ^^^ 0xFF else v)

/-- The normalised key of a row (R120). -/
def normKey (ks : List KeySpec) (row : List Elem) : List Byte :=
  (List.zipWith normPart ks row).flatten

/-- A key's value as its part of a normalised key gives it (R123). -/
def denormPart (k : KeySpec) (b : List Byte) : Elem :=
  let last := k.kflags.testBit 1
  let w := normWidth k
  if k.nullable && b.headD 0 = (if last then 1 else 0) then none
  else
    let v := b.drop (if k.nullable then 1 else 0)
    let x := beNat (if k.kflags.testBit 0 then v.map fun b => b ^^^ 0xFF else v)
    let top := 2 ^ (8 * w - 1)
    some (leBytes w (if isFloatType k.ty then (if top ≤ x then x - top else 2 * top - 1 - x)
      else if isSignedType k.ty then (x + top) % (2 * top) else x))

/-- The key elements of a normalised key. -/
def denormKey : List KeySpec → List Byte → List Elem
  | [], _ => []
  | k :: ks, b => denormPart k (b.take (normLen k)) :: denormKey ks (b.drop (normLen k))

/-- Length of the normalised keys of an operand. -/
def normKeyLen (ks : List KeySpec) : Nat := (ks.map normLen).foldl (· + ·) 0

/-- Unsigned lexicographic order of byte strings: the first is below the second. -/
def bytesLt : List Byte → List Byte → Bool
  | _, [] => false
  | [], _ :: _ => true
  | a :: s, b :: t => if a.toNat < b.toNat then true else if b.toNat < a.toNat then false else bytesLt s t

/-- The first is not above the second. -/
def bytesLe (a b : List Byte) : Bool := !bytesLt b a

/-- A VARBYTES key of a row that is longer than its MAX_LEN: its port (R101, R121). -/
def longKey (ks : List KeySpec) (row : List Elem) : Option Nat :=
  findPos (fun (p : KeySpec × Elem) => match p.2 with
    | some b => p.1.ty = tyVar && p.1.maxLen < b.length
    | none => false) (ks.zip row)

/-! ### Key image and hash -/

/-- Words a key column takes in the key image (Table 05-1). -/
def keyWordsOf (k : KeySpec) : Nat :=
  if k.ty = 0x0B then 2 else if k.ty = tyVar then (k.maxLen + 8) / 8 else 1

/-- Whether the key image starts with a null mask (R97). -/
def keyHasMask (ks : List KeySpec) : Bool := ks.any fun k => k.nullable || isFloatType k.ty

/-- KEY_WORDS (R97). -/
def keyWords (ks : List KeySpec) : Nat :=
  (if keyHasMask ks then 1 else 0) + (ks.map keyWordsOf).foldl (· + ·) 0

/-- The words of a key column (Table 05-1). -/
def keyColWords (k : KeySpec) (e : Elem) : List Word :=
  match e with
  | none => List.replicate (keyWordsOf k) 0
  | some bs =>
    if k.ty = tyVar then
      let all := BitVec.ofNat 8 bs.length :: bs
      (List.range (keyWordsOf k)).map fun i => BitVec.ofNat 64 (fld all (8 * i) 8)
    else if k.ty = 0x0B then [BitVec.ofNat 64 (fld bs 0 8), BitVec.ofNat 64 (fld bs 8 8)]
    else if isFloatType k.ty then
      let x := canonFloat (fmtOf k.ty) (leNat bs)
      if isNaN (fmtOf k.ty) x then [0x7FF8000000000000]
      else [BitVec.ofNat 64 (if k.ty = 0x0C then (ftof .b64 .nearestEven x).1 else x)]
    else if isSignedType k.ty || k.ty = 1 then [BitVec.ofInt 64 (toSigned (8 * bs.length) (leNat bs))]
    else [BitVec.ofNat 64 (leNat bs)]

/-- The null mask of a row's key. -/
def nullMask (row : List Elem) : Nat :=
  row.zipIdx.foldl (fun m (e, i) => if e.isNone then m + 2 ^ i else m) 0

/-- The key image of a row's key elements (R97). -/
def keyImage (ks : List KeySpec) (row : List Elem) : List Word :=
  (if keyHasMask ks then [BitVec.ofNat 64 (nullMask row)] else []) ++ (List.zipWith keyColWords ks row).flatten

/-- One word taken into the Mash hash (R98). -/
def mashStep (h w : Word) : Word :=
  let x := w * 0x6A3D91C50B7E4F2D
  let x := x ^^^ (x >>> 29)
  ((h ^^^ x) * 0xB5E24A973C16D8F3).rotateLeft 23

/-- mash_hash (R98). -/
def mashHash (ws : List Word) (seed : Word) : Word :=
  let h := ws.foldl mashStep (seed ^^^ (BitVec.ofNat 64 ws.length * 0x9F1B3C57D4E6A2B1))
  let h := h ^^^ (h >>> 31)
  let h := h * 0xD2A65B19E47C3F05
  h ^^^ (h >>> 29)

/-- A row whose key includes a null or a NaN (R100). -/
def keyUnmatchable (ks : List KeySpec) (row : List Elem) : Bool :=
  (ks.zip row).any fun (k, e) => match e with
    | none => true
    | some bs => isFloatType k.ty && isNaN (fmtOf k.ty) (leNat bs)

/-! ### Order of values (R81) -/

/-- Whether two present values of a type are equal. -/
def valEq (ty : Nat) (a b : List Byte) : Bool :=
  if isFloatType ty then feqVal (fdecode (fmtOf ty) (leNat a)) (fdecode (fmtOf ty) (leNat b))
  else if ty = tyVar then a = b
  else leNat a = leNat b

/-- Whether a present value of a type is below another. -/
def valLt (ty : Nat) (a b : List Byte) : Bool :=
  if isFloatType ty then fltVal (fdecode (fmtOf ty) (leNat a)) (fdecode (fmtOf ty) (leNat b))
  else if ty = tyVar then bytesLt a b
  else decide (intValue ty a < intValue ty b)

/-- Whether a value is a NaN. -/
def valNaN (ty : Nat) (a : List Byte) : Bool := isFloatType ty && isNaN (fmtOf ty) (leNat a)

/-! ### Aggregate functions -/

/-- An aggregate entry (Table 06-7). -/
structure AggEnt where
  func : Nat
  input : Nat
  outField : Nat
  ovfNull : Bool
  rty : Nat
  rscale : Nat
  rprec : Nat
  bits : Nat
  seed : Nat
  deriving DecidableEq, Repr

/-- An entry's result for a group. -/
inductive AggOut
  | value (bs : List Byte)
  | null
  | overflow
  deriving DecidableEq, Repr

/-- An exact integer as a value of a result type, or overflow (R131). -/
def aggInt (rty rprec : Nat) (v : Int) : AggOut :=
  let w := 8 * valueWidth rty
  let ok : Bool := if isDecimal rty then decide (v.natAbs < 10 ^ rprec)
    else if isSignedType rty then -(2 ^ (w - 1) : Int) ≤ v && v < 2 ^ (w - 1)
    else 0 ≤ v && v < 2 ^ w
  if ok then .value (leBytes (valueWidth rty) (ofSigned w v)) else .overflow

/-- A quotient rounded half away from zero. -/
def divHalfAway (a : Int) (n : Nat) : Int :=
  let q : Int := ((2 * a.natAbs + n) / (2 * n) : Nat)
  if a < 0 then -q else q

/-- A binary64 result whose NaN is the canonical one (R133). -/
def canonNaN64 (x : Nat) : Nat := if isNaN .b64 x then fcanon .b64 else x

/-- The present values of an entry's input in binary64. -/
def floatVals (ty : Nat) (vals : List (List Byte)) : List Nat :=
  vals.map fun b => if ty = 0x0C then (ftof .b64 .nearestEven (leNat b)).1 else leNat b

/-- FLOAT SUM (R133): the first value is taken as is. -/
def floatSum (ty : Nat) (vals : List (List Byte)) : Nat :=
  match floatVals ty vals with
  | [] => 0
  | v :: vs => vs.foldl (fun s x => (fadd .b64 .nearestEven s x).1) v

/-- The value of the first row with the extreme normalised value (R134). -/
def extreme (ty : Nat) (isMax : Bool) (vals : List (List Byte)) : Option (List Byte) :=
  let k : KeySpec := { ty := ty }
  match vals with
  | [] => none
  | v :: vs => some (vs.foldl (fun best x =>
      let nb := normValue k best
      let nx := normValue k x
      if (if isMax then bytesLt nb nx else bytesLt nx nb) then x else best) v)

/-- 2^n scaled natural logarithm of a rational a / b at or above 1, by argument reduction and the series of
atanh: exact enough for correct rounding of binary64 arguments. -/
def lnFixed (n a b : Nat) : Nat :=
  let k := Nat.log2 (a / b)
  let one := 2 ^ n
  let y := (a * one) / (b * 2 ^ k)
  let atanh := fun (z : Nat) =>
    let z2 := z * z / one
    ((List.range 160).foldl (fun (p : Nat × Nat) i => (p.1 + p.2 / (2 * i + 1), p.2 * z2 / one)) (0, z)).1
  2 * atanh ((y - one) * one / (y + one)) + k * (2 * atanh (one / 3))

/-- ln of a binary64 number at or above 1, correctly rounded (R135). -/
def flnOf (x : Nat) : Nat :=
  match fdecode .b64 x with
  | .num _ m e =>
    let a := if 0 ≤ e then m * 2 ^ e.toNat else m
    let b := if 0 ≤ e then 1 else 2 ^ (-e).toNat
    let v := lnFixed 256 a b
    if v = 0 then 0 else (fround .b64 .nearestEven false v (-256) true).1
  | _ => x

/-- A binary64 from a natural number. -/
def f64 (n : Nat) : Nat := (inttof .b64 .nearestEven n).1

/-- DISTINCT_APPROX (R135). -/
def distinctApprox (ty p seed : Nat) (vals : List (List Byte)) : Nat :=
  let m := 2 ^ p
  let k : KeySpec := { ty := ty }
  let mul := fun a b => (fmul .b64 .nearestEven a b).1
  let div := fun a b => (fdiv .b64 .nearestEven a b).1
  let add := fun a b => (fadd .b64 .nearestEven a b).1
  let regs := vals.foldl (fun (r : List Nat) v =>
    let h := (mashHash (keyImage [k] [some v]) (BitVec.ofNat 64 seed)).toNat
    let j := h / 2 ^ (64 - p)
    let t := h * 2 ^ p % 2 ^ 64
    let rho := min (64 - bitLen t + 1) (65 - p)
    lmod r j (max rho)) (List.replicate m 0)
  let z := regs.foldl (fun s r => add s (div (f64 1) (f64 (2 ^ r)))) 0
  let c := div (div (f64 7213) (f64 10000))
    (add (f64 1) (div (div (f64 1079) (f64 1000)) (f64 m)))
  let e := div (mul (mul c (f64 m)) (f64 m)) z
  let v := regs.count 0
  let small := !fltVal (fdecode .b64 (mul (div (f64 5) (f64 2)) (f64 m))) (fdecode .b64 e)
  let e := if small && 0 < v then mul (f64 m) (flnOf (div (f64 m) (f64 v))) else e
  (ftoint .b64 .nearestEven true e).1

/-- The result of an entry for a group: its input type, the group's row count and its present values in input
order (R130 to R135). -/
def aggResult (a : AggEnt) (ty tparam rows : Nat) (vals : List (List Byte)) : AggOut :=
  let n := vals.length
  let scale := if isDecimal ty then tparam else 0
  let sum := (vals.map (intValue ty)).foldl (· + ·) 0
  let bits := fun (f : Nat → Nat → Nat) => match vals.map leNat with
    | [] => AggOut.null
    | v :: vs => .value (leBytes (valueWidth ty) (vs.foldl f v))
  let opt := fun (o : Option (List Byte)) => match o with
    | some b => AggOut.value b
    | none => .null
  match a.func with
  | 1 => .value (leBytes 8 rows)
  | 2 => .value (leBytes 8 n)
  | 3 =>
    if n = 0 then .null
    else if isFloatType ty then .value (leBytes 8 (canonNaN64 (floatSum ty vals)))
    else aggInt a.rty a.rprec sum
  | 4 =>
    if n = 0 then .null
    else if isFloatType ty then
      .value (leBytes 8 (canonNaN64 (fdiv .b64 .nearestEven (floatSum ty vals) (f64 n)).1))
    else aggInt a.rty a.rprec (divHalfAway (sum * 10 ^ (a.rscale - scale)) n)
  | 5 => opt (extreme ty false vals)
  | 6 => opt (extreme ty true vals)
  | 7 => opt vals.head?
  | 8 => bits (· &&& ·)
  | 9 => bits (· ||| ·)
  | _ => .value (leBytes 8 (distinctApprox ty a.bits a.seed vals))

/-- Accumulator bytes of an entry (Table 06-8). -/
def accBytes (a : AggEnt) (ty : Nat) : Nat :=
  let wide := ty = 0x0B
  match a.func with
  | 1 => 0
  | 2 => 8
  | 3 => if isFloatType ty then 8 else if wide then 32 else 16
  | 4 => if isFloatType ty then 16 else if wide then 40 else 24
  | 5 | 6 | 7 => if wide then 16 else 8
  | 8 | 9 => 8
  | _ => 2 ^ a.bits

end Sys2Proof.Machine
end

