-- ==== Sys2Proof/Machine/Operands.lean ====
section
/-! DEFINITION. Stage operands: the fields of every operator's operand and the rules that refuse one
(R61, R63 and the operand tables of chapters 04 to 07 and 16 to 19). -/

namespace Sys2Proof.Machine

/-! ### Refusals -/

/-- A refusal of admission: status of Table 24-1, reason of Table 03-11, item of R68. -/
structure Refuse where
  status : Nat
  reason : Nat := 0
  index : Nat := 0xFFFF
  detail : Nat := 0
  detail2 : Nat := 0
  deriving DecidableEq, Repr

/-- PLAN_INVALID with a reason of Table 03-11 and the item concerned. -/
def planInvalid (reason index : Nat) : Refuse := { status := 0x0101, reason := reason, index := index }

/-- QUOTA for a stage or phase. -/
def quotaAt (index : Nat) : Refuse := { status := 0x0102, index := index }

/-- INSUFFICIENT_BUFFER for a stage or phase. -/
def bufferAt (index : Nat) : Refuse := { status := 0x0103, index := index }

/-- A check: refused when the condition holds. -/
def refuseIf (bad : Bool) (r : Refuse) : Option Refuse := if bad then some r else none

/-- The first refusal of a list of items, in order. -/
def firstRefuse {α : Type} (l : List α) (f : α → Option Refuse) : Option Refuse := l.findSome? f

/-! ### Constant pool -/

/-- Bytes of the constant pool. -/
def poolBytes (img : List Byte) (off len : Nat) : List Byte := slice img (imgConst img + off) len

/-- Whether a range lies wholly within the constant pool (R61). -/
def poolHas (img : List Byte) (off len : Nat) : Bool := off + len ≤ imgConstLen img

/-- Whether every byte is 0. -/
def allZero (bs : List Byte) : Bool := bs.all (· = 0)

/-! ### Keys -/

/-- Stream entry at an input port of a stage, if it is joined. -/
def inEntOf (img : List Byte) (stage port : Nat) : Option StreamEnt := (inStream img stage port).map (streamEnt img)

/-- Stream entry at an output port of a stage, if it is joined. -/
def outEntOf (img : List Byte) (stage port : Nat) : Option StreamEnt := (outStream img stage port).map (streamEnt img)

/-- Whether the stream at an input port is NULLABLE. -/
def inNullable (img : List Byte) (stage port : Nat) : Bool :=
  match inEntOf img stage port with
  | some e => e.nullable
  | none => false

/-- The key slots of a Mash or aggregate operand at an offset (Table 05-2): 4 bytes each. -/
def mashKeys (img : List Byte) (stage : Nat) (op : List Byte) (off count : Nat) : List KeySpec :=
  (List.range count).map fun k =>
    let o := off + 4 * k
    { ty := fld op o 1, tparam := fld op (o + 1) 1, prec := fld op (o + 2) 1, maxLen := fld op (o + 3) 1
      nullable := inNullable img stage k }

/-- Whether a key slot names a type a key may have, with valid parameters. -/
def keyTypeOk (k : KeySpec) (maxMax : Nat) : Bool :=
  if k.ty = tyCode8 || k.ty = tyCode16 then k.tparam = 0 && k.prec = 0 && k.maxLen = 0
  else if k.ty = tyVar then k.tparam = 0 && k.prec = 0 && k.maxLen ≤ maxMax
  else isFixedType k.ty && typeParamsOk k.ty k.tparam k.prec && k.maxLen = 0

/-- Whether the key slots of a Mash operand are well formed: count, types, unused slots 0, KEY_WORDS (R97, R101). -/
def mashKeysOk (img : List Byte) (stage : Nat) (op : List Byte) (off count : Nat) : Bool :=
  let ks := mashKeys img stage op off count
  1 ≤ count && count ≤ 8 && ks.all (keyTypeOk · 63) && keyWords ks ≤ 8 &&
  allZero (slice op (off + 4 * count) (32 - 4 * count))

/-- Whether a stream carries a key's type. -/
def streamIsKey (e : StreamEnt) (k : KeySpec) : Bool := e.ty = k.ty && e.tparam = k.tparam && e.prec = k.prec

/-! ### Row layouts -/

/-- Whether a layout has a validity mask. -/
def Layout.hasValid (l : Layout) : Bool := l.validAt ≠ 0xFF

/-- A field of a layout, if it exists. -/
def Layout.field? (l : Layout) (i : Nat) : Option LayoutField := l.fields[i]?

/-- Whether a field has a type, TPARAM and PRECISION. -/
def fieldIs (f : Option LayoutField) (ty tparam prec : Nat) : Bool :=
  match f with
  | some f => f.ty = ty && f.tparam = tparam && f.prec = prec
  | none => false

/-- Layout of the PACKED stream at an input port. -/
def inLayout (img : List Byte) (stage port : Nat) : Option Layout :=
  match inEntOf img stage port with
  | some e => if e.ty = tyPacked then some (layoutEnt img e.layout) else none
  | none => none

/-- Layout of the PACKED stream at an output port. -/
def outLayout (img : List Byte) (stage port : Nat) : Option Layout :=
  match outEntOf img stage port with
  | some e => if e.ty = tyPacked then some (layoutEnt img e.layout) else none
  | none => none

/-- Lanes a field occupies. -/
def fieldLanes (f : LayoutField) : List Nat := (List.range (fieldWidth f.ty)).map (· + f.off)

/-- A row layout that breaks R57. -/
def layoutBad (l : Layout) (count : Nat) : Bool :=
  let lanes := l.fields.flatMap fieldLanes ++ (if l.hasValid then [l.validAt, l.validAt + 1] else [])
  !([2, 4, 8, 16, 32, 64].contains l.width) || count = 0 || 16 < count ||
  (l.hasValid && (l.validAt % 2 ≠ 0 || l.width < l.validAt + 2)) ||
  (l.fields.any fun f =>
    let w := fieldWidth f.ty
    w = 0 || f.off % w ≠ 0 || l.width < f.off + w ||
    (isFixedType f.ty && !typeParamsOk f.ty f.tparam f.prec)) ||
  !lanes.Nodup

/-! ### Packed rows -/

/-- The bytes of a field of a packed row. -/
def rowField (l : Layout) (row : List Byte) (i : Nat) : List Byte :=
  match l.field? i with
  | some f => slice row f.off (fieldWidth f.ty)
  | none => []

/-- Whether a field of a packed row is present (Table 03-7). -/
def rowPresent (l : Layout) (row : List Byte) (i : Nat) : Bool :=
  !l.hasValid || (fld row l.validAt 2).testBit i

/-- A field of a packed row as an element. -/
def rowElem (l : Layout) (row : List Byte) (i : Nat) : Elem :=
  if rowPresent l row i then some (rowField l row i) else none

/-- A packed row with given field elements; lanes not covered are 0 (R128). A value narrower than its field is
zero-extended. -/
def packRow (l : Layout) (es : List Elem) : List Byte :=
  let base := (l.fields.zip es).foldl (fun r (f, e) => match e with
    | some b => splice r f.off (slice b 0 (fieldWidth f.ty))
    | none => r) (List.replicate l.width 0)
  if l.hasValid then
    let mask := es.zipIdx.foldl (fun m (e, i) => if e.isSome then m + 2 ^ i else m) 0
    splice base l.validAt (leBytes 2 mask)
  else base

/-! ### SCAN (R75 to R80) -/

/-- A column entry of a SCAN operand (Table 04-2). -/
structure ScanCol where
  id : Nat
  ty : Nat
  tparam : Nat
  prec : Nat
  nullable : Bool
  coded : Bool
  framed : Bool
  deriving DecidableEq, Repr

/-- An output entry (Table 04-4). -/
structure ScanOut where
  kind : Nat
  col : Nat
  deriving DecidableEq, Repr

/-- A term entry (Table 04-6). -/
structure ScanTerm where
  op : Nat
  col : Nat
  flags : Nat
  litA : List Byte
  litB : List Byte
  refOff : Nat
  refLen : Nat
  deriving DecidableEq, Repr

/-- A SCAN operand. -/
structure ScanOp where
  cols : List ScanCol
  outs : List ScanOut
  terms : List ScanTerm
  table : List Byte
  deriving DecidableEq, Repr

/-- The fields of a SCAN operand. -/
def scanOp (op : List Byte) : ScanOp :=
  let nc := fld op 0 1
  let no := fld op 1 1
  let nt := fld op 2 1
  { cols := (List.range nc).map fun k =>
      let o := 0x30 + 16 * k
      let cf := fld op (o + 5) 1
      { id := fld op o 2, ty := fld op (o + 2) 1, tparam := fld op (o + 3) 1, prec := fld op (o + 4) 1
        nullable := cf.testBit 0, coded := cf.testBit 1, framed := cf.testBit 2 }
    outs := (List.range no).map fun k =>
      let o := 0x30 + 16 * nc + 8 * k
      { kind := fld op o 1, col := fld op (o + 1) 1 }
    terms := (List.range nt).map fun k =>
      let o := 0x30 + 16 * nc + 8 * no + 48 * k
      { op := fld op o 1, col := fld op (o + 1) 1, flags := fld op (o + 2) 1, litA := slice op (o + 8) 16
        litB := slice op (o + 0x18) 16, refOff := fld op (o + 0x28) 4, refLen := fld op (o + 0x2C) 4 }
    table := slice op 0x10 32 }

/-- The column of an entry index; an index beyond the columns gives an empty one. -/
def ScanOp.col (o : ScanOp) (k : Nat) : ScanCol := o.cols.getD k ⟨0, 0, 0, 0, false, false, false⟩

/-- Key width of an IN_SET (R79). -/
def setKeyWidth (c : ScanCol) : Nat := if c.ty = tyVar then 16 else valueWidth c.ty

/-- A literal that breaks R79. -/
def literalBad (img : List Byte) (c : ScanCol) (op : Nat) (lit : List Byte) : Bool :=
  if c.ty = tyVar then
    !allZero (lit.drop 8) || !poolHas img (fld lit 0 4) (fld lit 4 4) ||
    (if op = 0x0A then 256 else 65404) < fld lit 4 4
  else
    let w := valueWidth c.ty
    !allZero (lit.drop w) || (isFloatType c.ty && isNaN (fmtOf c.ty) (leNat (lit.take w)))

/-- A term that breaks R78 to R80. -/
def termBad (img : List Byte) (o : ScanOp) (t : ScanTerm) : Bool :=
  let c := o.col t.col
  o.cols.length ≤ t.col || t.op = 0 || 0x0C < t.op ||
  (t.op = 0x0A && c.ty ≠ tyVar) || (0x0B ≤ t.op && !c.coded) ||
  ((t.op ≤ 7 || t.op = 0x0A) && literalBad img c t.op t.litA) ||
  (t.op = 7 && literalBad img c t.op t.litB) ||
  (t.op = 0x0B && (t.refLen = 0 || 8192 < t.refLen || !poolHas img t.refOff t.refLen)) ||
  (t.op = 0x0C &&
    (let w := setKeyWidth c
     let n := t.refLen / w
     t.refLen % w ≠ 0 || n = 0 || 32768 < n || !poolHas img t.refOff t.refLen ||
     (c.ty = tyVar && (chunksOf 16 (poolBytes img t.refOff t.refLen)).any fun k =>
       15 < fld k 0 1 || !allZero (k.drop (1 + fld k 0 1)))))

/-- Slots a SCAN stage needs (R80). -/
def scanSlots (o : ScanOp) : Nat :=
  o.cols.length +
  ((o.cols.zipIdx.filter fun (c, k) => c.coded && o.outs.any fun x => x.kind = 1 && x.col = k).length) +
  (if o.terms.any fun t => (o.col t.col).coded then 1 else 0)

/-- A SCAN operand that breaks R75 to R80. -/
def scanBad (img : List Byte) (e : StageEnt) (op : List Byte) : Bool :=
  let o := scanOp op
  let used := (e.params.filter (· ≠ 0xFFFF)).length
  o.cols.length = 0 || 8 < o.cols.length || o.cols.length ≠ used ||
  o.outs.length = 0 || 8 < o.outs.length || o.outs.length ≠ e.outs || 8 < o.terms.length ||
  e.operandLen ≠ 48 + 16 * o.cols.length + 8 * o.outs.length + 48 * o.terms.length ||
  (o.cols.any fun c => !((isFixedType c.ty || c.ty = tyVar) && typeParamsOk c.ty c.tparam c.prec)) ||
  (o.outs.any fun x => x.kind = 0 || 4 < x.kind ||
    (if x.kind ≤ 2 then o.cols.length ≤ x.col || (x.kind = 2 && !(o.col x.col).coded) else x.col ≠ 0)) ||
  (o.terms.any (termBad img o)) || 8 < scanSlots o

/-- Whether a stream is one that a SCAN output of this entry may drive (Table 04-5). -/
def scanOutOk (o : ScanOp) (x : ScanOut) (e : StreamEnt) : Bool :=
  let c := o.col x.col
  match x.kind with
  | 1 => e.ty = c.ty && e.tparam = c.tparam && e.prec = c.prec && e.nullable = c.nullable
  | 2 => (e.ty = tyCode8 || e.ty = tyCode16) && e.nullable = c.nullable
  | 3 => e.ty = tySelection && !e.nullable
  | _ => e.ty = tyRowref && !e.nullable

/-- Banks of an IN_SET term with n keys (Table 19-1). -/
def setBanks (o : ScanOp) (t : ScanTerm) : Nat := (t.refLen / setKeyWidth (o.col t.col) + 4095) / 4096

/-- IN_SET terms of an operand, in order. -/
def ScanOp.sets (o : ScanOp) : List ScanTerm := o.terms.filter (·.op = 0x0C)

/-! ### Mash -/

/-- KEY_COUNT of a Mash, sort or aggregate operand. -/
def opKeyCount (op : List Byte) : Nat := fld op 0 1

/-- Payload port of a stage: the port after its keys, if it has one. -/
def payloadPort (e : StageEnt) (kc : Nat) : Option Nat := if e.ins = kc + 1 then some kc else none

/-- Layout of the payload of a stage, if it has one. -/
def payloadLayout (img : List Byte) (stage : Nat) (e : StageEnt) (kc : Nat) : Option Layout :=
  match payloadPort e kc with
  | some p => inLayout img stage p
  | none => none

/-- Width of a payload row; 0 without one. -/
def payloadWidth (img : List Byte) (stage : Nat) (e : StageEnt) (kc : Nat) : Nat :=
  match payloadLayout img stage e kc with
  | some l => l.width
  | none => 0

/-- A HASH_BUILD operand that breaks R101. -/
def buildBad (img : List Byte) (stage : Nat) (e : StageEnt) (op : List Byte) : Bool :=
  let kc := opKeyCount op
  e.operandLen ≠ 64 || !mashKeysOk img stage op 0x10 kc || 12 < fld op 1 1 ||
  (e.ins ≠ kc && e.ins ≠ kc + 1)

/-- ENTRY_BYTES of a table (R103). -/
def tableEntryBytes (kw width : Nat) : Nat := roundUp (16 + 8 * kw + width) 16

/-- Byte bound of a table (R105). -/
def tableBound (partBits rows entry : Nat) : Nat := 320 + 256 * 2 ^ partBits + rows * (entry + 48)

/-- The stages that write a parameter's buffer, and those that read it (R64 item 5). -/
def usesParam (e : StageEnt) (i : Nat) : Bool := e.params.contains i

/-- The HASH_BUILD stage of the plan that writes the buffer of a HASH_PROBE stage. -/
def builderOf (img : List Byte) (e : StageEnt) : Option Nat :=
  (List.range (imgStages img)).find? fun n =>
    let b := stageEnt img n
    b.op = 0x10 && b.params.head? = e.params.head?

/-- A map entry: SOURCE and INDEX. -/
def mapEntries (op : List Byte) (off count : Nat) : List (Nat × Nat) :=
  (List.range count).map fun i => (fld op (off + 2 * i) 1, fld op (off + 2 * i + 1) 1)

/-- Type, TPARAM, PRECISION of a map source, and whether it can be null; none where it does not exist.
`build` is the build payload's layout where the plan knows it. -/
def mapSource (keys : List KeySpec) (payload build : Option Layout) (m : Nat × Nat) : Option (Nat × Nat × Nat × Bool) :=
  let ofLayout := fun (l : Option Layout) => match l with
    | some l => (l.field? m.2).map fun f => (f.ty, f.tparam, f.prec, l.hasValid)
    | none => none
  if m.1 = 1 then (keys[m.2]?).map fun k => (k.ty, k.tparam, k.prec, k.nullable)
  else if m.1 = 2 then ofLayout payload
  else if m.1 = 3 then ofLayout build
  else none

/-- An output map that breaks R106 or R122: field f of the layout is filled by entry f. -/
def mapBad (keys : List KeySpec) (payload build : Option Layout) (buildKnown : Bool) (out : Option Layout)
    (maps : List (Nat × Nat)) (needValid : Bool) : Bool :=
  match out with
  | none => false
  | some l =>
    maps.length ≠ l.fields.length ||
    (maps.zip l.fields).any (fun (m, f) =>
      if m.1 = 3 && !buildKnown then false
      else match mapSource keys payload build m with
        | some (ty, tp, pr, _) => ty = tyVar || !fieldIs (some f) ty tp pr
        | none => true) ||
    (!l.hasValid && (needValid || maps.any fun m => match mapSource keys payload build m with
      | some (_, _, _, n) => n
      | none => false))

/-- A HASH_PROBE operand that breaks R106, or does not agree with the plan's own build stage (R100). -/
def probeBad (img : List Byte) (stage : Nat) (e : StageEnt) (op : List Byte) : Bool :=
  let kc := opKeyCount op
  let join := fld op 1 1
  let m0 := fld op 3 1
  let m1 := fld op 4 1
  let keys := mashKeys img stage op 0x10 kc
  let payload := payloadLayout img stage e kc
  let builder := builderOf img e
  let build := builder.bind fun b =>
    let be := stageEnt img b
    payloadLayout img b be (opKeyCount (operandOf img be))
  let maps0 := mapEntries op 0x40 m0
  let maps1 := mapEntries op (0x40 + 2 * m0) m1
  e.operandLen ≠ roundUp (64 + 2 * (m0 + m1)) 8 || !mashKeysOk img stage op 0x10 kc ||
  (e.ins ≠ kc && e.ins ≠ kc + 1) || 4 < join || (fld op 2 1).testBit 1 && join ≠ 4 ||
  m0 = 0 || 16 < m0 || 16 < m1 || (m1 ≠ 0 && !(e.outs = 2 && (join = 0 || join = 3))) ||
  (e.outs = 2 && m1 = 0) ||
  (maps0.any fun m => (join = 3 || join = 4) && m.1 = 3) || (maps1.any fun m => m.1 = 3) ||
  mapBad keys payload build builder.isSome (outLayout img stage 0) maps0 (join = 1 || join = 2) ||
  mapBad keys payload build builder.isSome (outLayout img stage 1) maps1 false ||
  (match builder with
    | none => false
    | some b =>
      let bo := operandOf img (stageEnt img b)
      slice bo 0 1 ≠ slice op 0 1 || slice bo 8 8 ≠ slice op 8 8 || slice bo 0x10 32 ≠ slice op 0x10 32 ||
      (fld bo 2 1).testBit 0 ≠ (fld op 2 1).testBit 0)

/-- A PARTITION operand that breaks R111. -/
def partitionBad (img : List Byte) (stage : Nat) (e : StageEnt) (op : List Byte) : Bool :=
  let kc := opKeyCount op
  let passes := fld op 1 1
  let b1 := fld op 3 1
  let b2 := fld op 4 1
  let grouped := e.params.head? ≠ some 0xFFFF
  let layout := inLayout img stage kc
  let part := layout.bind fun l => l.field? (fld op 5 1)
  let hf := fld op 6 1
  e.operandLen ≠ 48 || !mashKeysOk img stage op 0x10 kc || e.ins ≠ kc + 1 ||
  passes = 0 || 2 < passes || (!grouped && passes ≠ 1) || 20 < fld op 2 1 || b1 = 0 || 12 < b1 ||
  (if passes = 2 then b2 = 0 || 12 < b2 else b2 ≠ 0) || 24 < fld op 2 1 + b1 + b2 ||
  (layout.isSome && !((fieldIs part 7 0 0 && b1 + b2 ≤ 16) || fieldIs part 8 0 0)) ||
  (layout.isSome && hf ≠ 0xFF && !(match layout.bind fun l => l.field? hf with
    | some f => f.ty = tyHash
    | none => false))

/-! ### Sort (R122 to R126) -/

/-- The key slots of a sort operand (Table 06-5). -/
def sortKeys (img : List Byte) (stage : Nat) (e : StageEnt) (op : List Byte) : List KeySpec :=
  (List.range (min 8 (opKeyCount op))).map fun k =>
    let o := 0x10 + 8 * k
    { ty := fld op o 1, tparam := fld op (o + 1) 1, prec := fld op (o + 2) 1, kflags := fld op (o + 3) 1
      maxLen := fld op (o + 4) 2
      nullable := if e.op = 0x21 then
          match inLayout img stage 0 with
          | some l => l.hasValid
          | none => false
        else inNullable img stage k }

/-- Layout field of a MERGE key. -/
def mergeField (op : List Byte) (k : Nat) : Nat := fld op (0x10 + 8 * k + 6) 1

/-- The least power of two that is at least n, from 2^4. -/
def pow2At (n : Nat) : Nat := (((List.range 40).map fun i => 2 ^ (i + 4)).find? fun p => n ≤ p).getD (2 ^ 44)

/-- RB (R123). -/
def sortRB (img : List Byte) (stage : Nat) (e : StageEnt) (op : List Byte) : Nat :=
  let keys := sortKeys img stage e op
  let width := if e.op = 0x21 then payloadWidth img stage { e with ins := 1 } 0
    else payloadWidth img stage e keys.length
  pow2At (roundUp (normKeyLen keys) 8 + width)

/-- A sort operand that breaks R121 to R126. -/
def sortBad (img : List Byte) (stage : Nat) (e : StageEnt) (op : List Byte) : Bool :=
  let kc := opKeyCount op
  let mc := fld op 1 1
  let n := fld op 4 4
  let keys := sortKeys img stage e op
  let merge : Bool := e.op = 0x21
  let topn : Bool := e.op = 0x22
  let rb := sortRB img stage e op
  let kl := if merge then inLayout img stage 0 else none
  kc = 0 || 8 < kc || e.operandLen ≠ roundUp (80 + 2 * mc) 8 ||
  (if merge then mc ≠ 0 else mc = 0 || 16 < mc) || (if topn then n = 0 || 65536 < n else n ≠ 0) ||
  !allZero (slice op (0x10 + 8 * kc) (64 - 8 * kc)) ||
  (keys.any fun k => !keyTypeOk k 1024 || (k.ty ≠ tyVar && (k.kflags.testBit 2 || k.kflags.testBit 3))) ||
  (!merge && ((e.ins ≠ kc && e.ins ≠ kc + 1) || (List.range kc).any fun k => mergeField op k ≠ 0)) ||
  (merge && (List.range kc).any fun k => match kl, keys[k]? with
    | some l, some s => !fieldIs (l.field? (mergeField op k)) s.ty s.tparam s.prec
    | _, _ => false) ||
  (!merge && mapBad keys (payloadLayout img stage e kc) none true (outLayout img stage 0)
    (mapEntries op 0x50 mc) false) ||
  (!merge && (mapEntries op 0x50 mc).any fun m => m.1 ≠ 1 && m.1 ≠ 2) ||
  4096 < rb || (topn && 8388608 < n * rb)

/-! ### Aggregates (R127 to R138) -/

/-- The aggregate part of a stage's operand: HASH_GROUP has a 48-byte prefix (R113). -/
def aggPart (e : StageEnt) (op : List Byte) : List Byte := if e.op = 0x13 then op.drop 48 else op

/-- AGG_COUNT. -/
def aggCount (a : List Byte) : Nat := fld a 1 1

/-- Aggregate entry n (Table 06-7). -/
def aggEnt (a : List Byte) (n : Nat) : AggEnt :=
  let o := 0x30 + 16 * n
  { func := fld a o 1, input := fld a (o + 1) 1, outField := fld a (o + 2) 1, ovfNull := (fld a (o + 3) 1).testBit 0
    rty := fld a (o + 4) 1, rscale := fld a (o + 5) 1, rprec := fld a (o + 6) 1, bits := fld a (o + 7) 1
    seed := fld a (o + 8) 8 }

/-- All aggregate entries. -/
def aggEnts (a : List Byte) : List AggEnt := (List.range (aggCount a)).map (aggEnt a)

/-- KEY_FIELDS of key k. -/
def aggKeyField (a : List Byte) (k : Nat) : Nat := fld a (8 + k) 1

/-- Keys of an aggregate stage. -/
def aggKeys (img : List Byte) (stage : Nat) (a : List Byte) : List KeySpec :=
  mashKeys img stage a 0x10 (min 8 (opKeyCount a))

/-- Whether an entry's result type fits its function and input type (Table 06-8). -/
def aggTypeOk (x : AggEnt) (ty tparam prec : Nat) : Bool :=
  let isInt64 : Bool := x.rty = 5 && x.rscale = 0 && x.rprec = 0
  let dec := fun (minS : Nat) (exact allow64 : Bool) =>
    ((allow64 && x.rty = 0x0A && x.rprec ≤ 18) || (x.rty = 0x0B && x.rprec ≤ 38)) && 1 ≤ x.rprec &&
    (if exact then x.rscale = minS else minS ≤ x.rscale) && x.rscale ≤ x.rprec
  let f64r : Bool := x.rty = 0x0D && x.rscale = 0 && x.rprec = 0
  let s := if isDecimal ty then tparam else 0
  let same : Bool := x.rty = ty && x.rscale = tparam && x.rprec = prec
  match x.func with
  | 1 => isInt64
  | 2 => isInt64
  | 3 =>
    if isFloatType ty then f64r
    else if isDecimal ty then dec s true (ty = 0x0A)
    else if isUnsignedType ty then (x.rty = 9 && x.rscale = 0 && x.rprec = 0) || (x.rty = 0x0B && dec 0 true false)
    else isIntType ty && (isInt64 || (x.rty = 0x0B && dec 0 true false))
  | 4 => if isFloatType ty then f64r else (isIntType ty || isDecimal ty) && dec s false (ty ≠ 0x0B)
  | 5 | 6 | 7 => same
  | 8 | 9 => isIntType ty && same
  | 10 => isInt64
  | _ => false

/-- Whether a key may fill a layout field (R128). -/
def keyFieldOk (k : KeySpec) (f : Option LayoutField) : Bool :=
  match f with
  | none => false
  | some f =>
    k.ty ≠ tyVar &&
    ((f.ty = k.ty && f.tparam = k.tparam && f.prec = k.prec) ||
     (k.ty = tyCode8 && (f.ty = 6 || f.ty = 7 || f.ty = tyCode8 || f.ty = tyCode16)) ||
     (k.ty = tyCode16 && (f.ty = 7 || f.ty = tyCode16)))

/-- Whether an entry can be null or overflow to null (R127). -/
def aggMayBeNull (img : List Byte) (stage : Nat) (x : AggEnt) : Bool :=
  (x.func ≠ 1 && x.func ≠ 2 && x.func ≠ 10 && inNullable img stage x.input) ||
  ((x.func = 3 || x.func = 4) && x.ovfNull &&
    (match inEntOf img stage x.input with
      | some s => !isFloatType s.ty
      | none => false))

/-- An aggregate operand that breaks R113 or R127 to R129. -/
def aggBad (img : List Byte) (stage : Nat) (e : StageEnt) (op : List Byte) : Bool :=
  let a := aggPart e op
  let kc := opKeyCount a
  let ac := aggCount a
  let xs := aggEnts a
  let keys := aggKeys img stage a
  let out := outLayout img stage 0
  let named := ((List.range (min 8 kc)).map (aggKeyField a)).filter (· ≠ 0xFF) ++ xs.map (·.outField)
  (e.op = 0x13 && (slice op 1 6 ≠ List.replicate 6 0 || slice op 0 1 ≠ slice a 0 1 || slice op 0x10 32 ≠ slice a 0x10 32)) ||
  e.drain || e.operandLen ≠ (if e.op = 0x13 then 48 else 0) + 48 + 16 * ac ||
  !mashKeysOk img stage a 0x10 kc || ac = 0 || 16 < ac || e.ins < kc ||
  (e.op ≠ 0x30 && (fld a 2 1 ≠ 0 || fld a 3 1 ≠ 0)) ||
  ((List.range (e.ins - kc)).any fun p => !(xs.any fun x => x.input = kc + p)) ||
  (xs.any fun x =>
    (if x.func = 1 then x.input ≠ 0xFF else x.input < kc || e.ins ≤ x.input) ||
    (if x.func = 10 then x.bits < 4 || 12 < x.bits else x.bits ≠ 0 || x.seed ≠ 0) ||
    (if x.func = 1 then !aggTypeOk x 0 0 0
     else match inEntOf img stage x.input with
       | some s => !aggTypeOk x s.ty s.tparam s.prec
       | none => false)) ||
  (match out with
    | none => false
    | some l =>
      !named.Nodup || named.length ≠ l.fields.length || (named.any fun f => l.fields.length ≤ f) ||
      (keys.zipIdx.any fun (k, i) => aggKeyField a i ≠ 0xFF && !keyFieldOk k (l.field? (aggKeyField a i))) ||
      (xs.any fun x => !fieldIs (l.field? x.outField) x.rty x.rscale x.rprec) ||
      (!l.hasValid &&
        ((keys.zipIdx.any fun (k, i) => aggKeyField a i ≠ 0xFF && k.nullable) ||
         (xs.any (aggMayBeNull img stage)))))

/-- G (R129). -/
def groupBytes (img : List Byte) (stage : Nat) (a : List Byte) : Nat :=
  let acc := (aggEnts a).map fun x =>
    match inEntOf img stage x.input with
    | some s => accBytes x s.ty
    | none => accBytes x 0
  roundUp (16 + 8 * keyWords (aggKeys img stage a) + acc.foldl (· + ·) 0) 16

/-- C: groups held resident (R113, R138). -/
def groupCap (img : List Byte) (stage : Nat) (e : StageEnt) (op : List Byte) : Nat :=
  (if e.op = 0x13 then 8323072 else 2031616) / (groupBytes img stage (aggPart e op) + 48)

/-! ### Kiln, Grist, Glume, Tun, exchange -/

/-- A Kiln operand that breaks R354. -/
def kilnBad (e : StageEnt) (op : List Byte) : Bool :=
  let defl : Bool := e.op = 0x41
  let fl := fld op 2 1
  let lim := fld op 8 8
  let st := fld op 0x10 8
  e.operandLen ≠ 32 || 3 < fld op 0 1 || (if defl then 9 < fld op 1 1 else fld op 1 1 ≠ 0) ||
  8 ≤ fl || (!defl && fl ≠ 0) || (fl.testBit 0 && fld op 0 1 ≠ 3) || (fl.testBit 2 && !fl.testBit 1) ||
  (if defl then lim ≠ 0 else lim = 0 || 268435456 < lim) ||
  (if fl.testBit 1 then st % 64 ≠ 0 else st ≠ 0) || !allZero (slice op 3 5) || !allZero (slice op 0x18 8)

/-- RESUMABLE of a Kiln operand. -/
def kilnResumable (op : List Byte) : Bool := (fld op 2 1).testBit 1

/-- Digest length of a Grist algorithm (Table 18-1); 0 for an unknown code. -/
def digestLen (alg : Nat) : Nat :=
  match alg with
  | 1 => 32 | 2 => 48 | 3 => 64 | 4 => 32 | 5 => 64
  | _ => 0

/-- A DIGEST operand that breaks R375. -/
def digestBad (img : List Byte) (e : StageEnt) (op : List Byte) : Bool :=
  let fl := fld op 1 1
  let n := fld op 2 1
  let kl := fld op 4 2
  let dl := digestLen (fld op 0 1)
  e.operandLen ≠ 32 || dl = 0 || 4 ≤ fl || fld op 3 1 ≠ 0 || fld op 6 2 ≠ 0 || !allZero (slice op 0x10 16) ||
  (if fl.testBit 0 then 1024 < kl || !poolHas img (fld op 8 4) kl else kl ≠ 0) ||
  (if fl.testBit 1 then n < 16 || dl < n || !poolHas img (fld op 0x0C 4) n else n ≠ 0)

/-- Bytes of a LOOKUP group's width: w of R395. -/
def lookupW (op : List Byte) : Nat := 20 * 2 ^ fld op 0 1

/-- Length of an entry record: 48, 88 or 168 bytes (Table 19-3). -/
def lookupRec (op : List Byte) : Nat := 2 * lookupW op + 8

/-- Entry record i of a LOOKUP operand. -/
def lookupEntry (img op : List Byte) (i : Nat) : List Byte := poolBytes img (fld op 8 4 + lookupRec op * i) (lookupRec op)

/-- A LOOKUP operand that breaks R395. -/
def lookupBad (img : List Byte) (e : StageEnt) (op : List Byte) : Bool :=
  let n := fld op 4 4
  let w := lookupW op
  e.operandLen ≠ 16 || 2 < fld op 0 1 || n = 0 || 16384 < n || fld op 8 4 % 8 ≠ 0 || !allZero (slice op 1 3) ||
  !allZero (slice op 0x0C 4) || !poolHas img (fld op 8 4) (lookupRec op * n) ||
  ((chunksOf (lookupRec op) (poolBytes img (fld op 8 4) (lookupRec op * n))).any fun r =>
    2 ≤ fld r (2 * w + 1) 1 || fld r (2 * w + 2) 2 ≠ 0 ||
    ((r.take w).zip ((r.drop w).take w)).any fun (v, m) => v &&& ~~~ m ≠ 0)

/-- Banks of a LOOKUP stage (Table 19-1). -/
def lookupBanks (op : List Byte) : Nat := 2 ^ fld op 0 1 * ((fld op 4 4 + 4095) / 4096)

/-- A Tun operand that breaks R334. -/
def tunBad (e : StageEnt) (op : List Byte) : Bool :=
  if e.operandLen = 0 then false
  else
    let hop := fld op 4 4
    e.operandLen ≠ 16 || 1 < fld op 0 1 ||
    (if fld op 0 1 = 1 then hop ≠ 0 && (hop < 16 || 16777216 < hop) else hop ≠ 0)

/-- Whether a Tun stage runs in CHAINED mode. -/
def tunChained (e : StageEnt) (op : List Byte) : Bool := e.operandLen = 16 && fld op 0 1 = 1

/-- An EXCH_SEND operand that breaks R160. -/
def sendBad (img : List Byte) (stage : Nat) (e : StageEnt) (op : List Byte) : Bool :=
  let mode := fld op 0 1
  let kc := fld op 1 1
  let byHash : Bool := mode = 2
  let layout := inLayout img stage (if byHash then kc else 0)
  let part := layout.bind fun l => l.field? (fld op 4 1)
  e.operandLen ≠ 48 || mode = 0 || 3 < mode || e.ins ≠ kc + 1 ||
  (if byHash then !mashKeysOk img stage op 0x10 kc || 20 < fld op 2 1 || fld op 3 1 = 0 || 12 < fld op 3 1 ||
      24 < fld op 2 1 + fld op 3 1
   else kc ≠ 0 || fld op 3 1 ≠ 0 || !allZero (slice op 0x10 32)) ||
  (if mode = 1 then layout.isSome && !(fieldIs part 7 0 0 || fieldIs part 8 0 0) else fld op 4 1 ≠ 0)

/-- A stage operand that breaks its unit's chapter: PLAN_INVALID, reason OPERAND. -/
def operandBad (img : List Byte) (stage : Nat) (e : StageEnt) : Bool :=
  let op := operandOf img e
  match e.op with
  | 0x01 => scanBad img e op
  | 0x10 => buildBad img stage e op
  | 0x11 => probeBad img stage e op
  | 0x12 => partitionBad img stage e op
  | 0x13 => aggBad img stage e op
  | 0x20 | 0x21 | 0x22 => sortBad img stage e op
  | 0x30 | 0x31 => aggBad img stage e op
  | 0x40 | 0x41 => kilnBad e op
  | 0x48 => digestBad img e op
  | 0x50 => lookupBad img e op
  | 0x70 => sendBad img stage e op
  | 0x80 | 0x81 | 0x82 => tunBad e op
  | 0x83 => e.operandLen ≠ 8
  | _ => e.operandLen ≠ 0

end Sys2Proof.Machine
end

