-- ==== Sys2Proof/Machine/Admission.lean ====
section
/-! DEFINITION. Admission of a plan: the checks, derived bounds, quotas, capacities and spill of R50 to R73. -/

namespace Sys2Proof.Machine

/-! ### Operators (Table 03-9) -/

/-- Unit kinds in the order of GRANT[0–8]. -/
inductive UnitKind
  | core
  | sieve
  | mash
  | sort
  | aggregate
  | kiln
  | grist
  | glume
  | tun
  | exchange
  deriving DecidableEq, Repr

/-- The kinds that have a grant, in order. -/
def grantKinds : List UnitKind := [.core, .sieve, .mash, .sort, .aggregate, .kiln, .grist, .glume, .tun]

/-- An operator's row: kind, port ranges, parameter count range, parameter kinds (empty for any kind). -/
structure OpRow where
  kind : UnitKind
  inLo : Nat
  inHi : Nat
  outLo : Nat
  outHi : Nat
  parLo : Nat
  parHi : Nat
  parKinds : List Nat
  deriving DecidableEq, Repr

/-- The rows of Table 03-9. -/
def opRow (op : Nat) : Option OpRow :=
  match op with
  | 0x01 => some ⟨.sieve, 0, 0, 1, 8, 1, 8, [4]⟩
  | 0x10 => some ⟨.mash, 1, 9, 0, 0, 1, 1, [2]⟩
  | 0x11 => some ⟨.mash, 1, 9, 1, 2, 1, 1, [2]⟩
  | 0x12 => some ⟨.mash, 1, 9, 1, 1, 0, 1, [2]⟩
  | 0x13 => some ⟨.mash, 1, 9, 1, 1, 0, 0, []⟩
  | 0x20 => some ⟨.sort, 1, 9, 1, 1, 0, 0, []⟩
  | 0x21 => some ⟨.sort, 2, 64, 1, 1, 0, 0, []⟩
  | 0x22 => some ⟨.sort, 1, 9, 1, 1, 0, 0, []⟩
  | 0x30 => some ⟨.aggregate, 1, 16, 1, 1, 0, 0, []⟩
  | 0x31 => some ⟨.aggregate, 1, 16, 1, 1, 0, 0, []⟩
  | 0x40 => some ⟨.kiln, 1, 1, 1, 1, 0, 1, [6]⟩
  | 0x41 => some ⟨.kiln, 1, 1, 0, 1, 0, 1, [6]⟩
  | 0x48 => some ⟨.grist, 1, 1, 0, 0, 1, 1, [2]⟩
  | 0x50 => some ⟨.glume, 1, 1, 1, 2, 0, 0, []⟩
  | 0x60 => some ⟨.core, 0, 16, 0, 16, 0, 8, []⟩
  | 0x61 => some ⟨.core, 1, 16, 1, 1, 0, 0, []⟩
  | 0x62 => some ⟨.core, 1, 16, 1, 1, 0, 0, []⟩
  | 0x70 => some ⟨.exchange, 1, 9, 0, 0, 1, 1, [2]⟩
  | 0x71 => some ⟨.exchange, 0, 0, 1, 1, 1, 1, [2]⟩
  | 0x80 => some ⟨.tun, 0, 0, 1, 1, 1, 1, [2]⟩
  | 0x81 => some ⟨.tun, 1, 1, 0, 0, 1, 1, [2]⟩
  | 0x82 => some ⟨.tun, 1, 1, 0, 0, 1, 1, [3]⟩
  | 0x83 => some ⟨.exchange, 1, 1, 0, 0, 1, 1, [5]⟩
  | _ => none

/-- UNIT's range for a kind (R73). -/
def unitRange : UnitKind → Nat × Nat
  | .core => (0, 127)
  | .sieve => (0, 11)
  | .mash => (0, 7)
  | .sort => (0, 3)
  | .aggregate => (0, 7)
  | .kiln => (0, 3)
  | .grist => (0, 1)
  | .glume => (1, 7)
  | .tun => (0, 3)
  | .exchange => (0, 0)

/-- First unit number of a kind in Table 11-9. -/
def unitBase : UnitKind → Nat
  | .core => 0
  | .sieve => 0x80
  | .mash => 0x90
  | .sort => 0x98
  | .aggregate => 0xA0
  | .kiln => 0xA8
  | .grist => 0xAC
  | .glume => 0xB0
  | .tun => 0xB8
  | .exchange => 0xBC

/-- Unit numbers of a kind. -/
def unitsOf (k : UnitKind) : List Nat :=
  let r := unitRange k
  (List.range (r.2 + 1 - r.1)).map (· + r.1 + unitBase k)

/-- Whether a unit is in the enabled-unit mask and has not left service (R1, R188, R361, R482). -/
def unitServes (s : State) (u : Nat) : Bool :=
  (od s 0x1202 1).testBit u &&
  (if u < 0x80 then (tget {} s.cores u).run ≠ .outOfService
   else if 0xA8 ≤ u && u ≤ 0xAB then od s (0x3C00 + (u - 0xA8)) 1 ≠ 6
   else if 0xB0 ≤ u && u ≤ 0xB7 then !s.js.glumeOut.contains (u - 0xB0)
   else true)

/-- Stages one unit of a kind can hold at a time (R73, R332, R370). -/
def unitSlots : UnitKind → Nat
  | .grist => 63
  | .tun => 64
  | _ => 1

/-- enabled(k) of R67. -/
def enabledCount (s : State) (k : UnitKind) : Nat :=
  ((unitsOf k).filter (unitServes s)).length * unitSlots k

/-! ### Header and sections (R50 to R52) -/

/-- The length check of R50 item 2. -/
def lengthOk (n : Nat) : Bool := 256 ≤ n && n ≤ 1048576 && n % 64 = 0

/-- Checks of the header before the rest of the image is read (R50 items 1 and 2). -/
def checkHead (h : List Byte) : Option Refuse :=
  refuseIf (fld h 0 4 ≠ 0x4E4C5059) (planInvalid 0x01 0xFFFF) <|>
  refuseIf (fld h 4 1 ≠ 1) (planInvalid 0x02 0xFFFF) <|>
  refuseIf (!lengthOk (imgLength h)) (planInvalid 0x04 0xFFFF)

/-- Checks of the whole image's header (R50 items 3 and 4). -/
def checkCounts (img : List Byte) : Option Refuse :=
  refuseIf (crc32c (splice img 0x7C [0, 0, 0, 0]) ≠ fld img 0x7C 4) (planInvalid 0x03 0xFFFF) <|>
  refuseIf (imgPhases img = 0 || 64 < imgPhases img || imgStages img = 0 || 1024 < imgStages img ||
    4096 < imgStreams img || 256 < imgParams img || 64 < imgBlobs img || 256 < imgLayouts img)
    (planInvalid 0x05 0xFFFF)

/-- The tables and the pool: count, offset and length in bytes. -/
def imgAreas (img : List Byte) : List (Nat × Nat × Nat) :=
  [ (imgPhases img, fld img 0x18 4, 16 * imgPhases img), (imgStages img, fld img 0x1C 4, 64 * imgStages img),
    (imgStreams img, fld img 0x20 4, 16 * imgStreams img), (imgParams img, fld img 0x24 4, 16 * imgParams img),
    (imgBlobs img, fld img 0x28 4, 32 * imgBlobs img), (imgLayouts img, fld img 0x2C 4, 80 * imgLayouts img),
    (imgConstLen img, imgConst img, imgConstLen img) ]

/-- Whether an area is misplaced (R51). -/
def areaBad (img : List Byte) (off len : Nat) : Bool := off % 64 ≠ 0 || off < 0x80 || imgLength img < off + len

/-- Whether two areas overlap. -/
def areasMeet (a b : Nat × Nat) : Bool := 0 < a.2 && 0 < b.2 && a.1 < b.1 + b.2 && b.1 < a.1 + a.2

/-- Section checks (R50, R51): every failure has reason LENGTH. -/
def checkSections (img : List Byte) : Option Refuse :=
  let tabs := imgAreas img
  let blobs := (List.range (imgBlobs img)).map fun i => let b := blobEnt img i; (b.off, b.len)
  let used := (tabs.filter fun t => t.1 ≠ 0).map fun t => (t.2.1, t.2.2)
  refuseIf (imgConstLen img % 8 ≠ 0) (planInvalid 0x04 0xFFFF) <|>
  refuseIf (tabs.any fun t => if t.1 = 0 then t.2.1 ≠ 0 else areaBad img t.2.1 t.2.2) (planInvalid 0x04 0xFFFF) <|>
  (firstRefuse blobs.zipIdx fun (b, i) => refuseIf (areaBad img b.1 b.2) (planInvalid 0x04 i)) <|>
  refuseIf (used.zipIdx.any fun (a, i) => used.zipIdx.any fun (b, j) => i < j && areasMeet a b)
    (planInvalid 0x04 0xFFFF) <|>
  (firstRefuse blobs.zipIdx fun (b, i) => refuseIf
    ((used.any fun a => areasMeet a b) || blobs.zipIdx.any fun (c, j) => j < i && areasMeet c b) (planInvalid 0x04 i))

/-- Phase table checks (R52). -/
def checkPhases (img : List Byte) : Option Refuse :=
  let ps := (List.range (imgPhases img)).map (phaseEnt img)
  let start := fun n => ((ps.take n).map (·.count)).foldl (· + ·) 0
  (firstRefuse ps.zipIdx fun (p, n) => refuseIf
    (2 ^ n ≤ p.depends || p.first ≠ start n || p.count = 0 || 1024 < p.count) (planInvalid 0x06 n)) <|>
  refuseIf (start ps.length ≠ imgStages img) (planInvalid 0x06 (ps.length - 1))

/-- The phase a stage lies in. -/
def phaseOf (img : List Byte) (stage : Nat) : Nat :=
  ((List.range (imgPhases img)).find? fun n =>
    let p := phaseEnt img n
    p.first ≤ stage && stage < p.first + p.count).getD 0

/-- Stages of a phase. -/
def phaseStages (img : List Byte) (n : Nat) : List Nat :=
  let p := phaseEnt img n
  (List.range p.count).map (· + p.first)

/-- Phases a phase depends on, directly or transitively (DEPENDS reaches only lower phases). -/
def phaseDeps (img : List Byte) (n : Nat) : Nat :=
  (List.range (imgPhases img)).reverse.foldl (fun m k =>
    if m.testBit k then m ||| (phaseEnt img k).depends else m) (phaseEnt img n).depends

/-! ### Stages (R53, R58, R61, R62) -/

/-- A parameter declaration that breaks Table 03-8 or R58. -/
def paramEntBad (d : ParamEnt) : Bool :=
  if d.kind = 1 then !(isFixedType d.ty && typeParamsOk d.ty d.tparam d.prec)
  else d.kind = 0 || 6 < d.kind || d.ty ≠ 0

/-- PARAMS of a stage: used entries precede unused ones. -/
def usedParams (e : StageEnt) : List Nat := e.params.takeWhile (· ≠ 0xFFFF)

/-- OPCODE, PORT and PARAM checks of a stage (R53, R73, Table 03-9). DEDUCED (log 58): UNIT is held to its
range only where PIN_UNIT makes it a unit index, as Table 03-3 describes it, and a MERGE takes the 2 to 64
inputs of Table 03-9 though Table 03-3 gives IN_COUNT as 0 to 16. -/
def checkStage (img : List Byte) (n : Nat) : Option Refuse :=
  let e := stageEnt img n
  match opRow e.op with
  | none => some (planInvalid 0x07 n)
  | some r =>
    let ur := unitRange r.kind
    let used := usedParams e
    refuseIf (7 < e.cls || (e.op = 1 && !e.pinned) || (e.pinned && !(ur.1 ≤ e.unit && e.unit ≤ ur.2)))
      (planInvalid 0x07 n) <|>
    refuseIf (e.ins < r.inLo || r.inHi < e.ins || e.outs < r.outLo || r.outHi < e.outs)
      (planInvalid 0x09 n) <|>
    refuseIf ((e.params.drop used.length).any (· ≠ 0xFFFF) || used.length < r.parLo || r.parHi < used.length ||
      used.any fun i => imgParams img ≤ i) (planInvalid 0x0C n) <|>
    (firstRefuse used fun i =>
      let d := paramEnt img i
      refuseIf (r.parKinds ≠ [] && !r.parKinds.contains d.kind) (planInvalid 0x0C i))

/-- Operand checks of a stage (R61 and the unit's chapter). DESIGN CHOICE (log 59): an OPERAND_OFFSET that is
not a multiple of 8, for which Table 03-11 names no reason, has that of an operand outside the pool, LENGTH. -/
def checkOperand (img : List Byte) (n : Nat) : Option Refuse :=
  let e := stageEnt img n
  refuseIf (e.operandLen ≠ 0 && (e.operandOff % 8 ≠ 0 || !poolHas img e.operandOff e.operandLen))
    (planInvalid 0x04 n) <|>
  refuseIf (operandBad img n e) (planInvalid 0x08 n)

/-- Blob checks of a stage (R62). -/
def checkBlob (img : List Byte) (n : Nat) : Option Refuse :=
  let e := stageEnt img n
  if e.op = 0x60 || e.op = 0x61 then
    let b := blobEnt img e.blob
    refuseIf (imgBlobs img ≤ e.blob) (planInvalid 0x0D n) <|>
    refuseIf (b.len < 4 || 262144 < b.len || b.len % 4 ≠ 0 || b.entry % 4 ≠ 0 || b.len ≤ b.entry ||
      b.tile < b.len + b.stack || 983040 < b.tile) (planInvalid 0x0D e.blob)
  else refuseIf (e.blob ≠ 0xFFFF) (planInvalid 0x0D n)

/-- Layout checks (R57). -/
def checkLayouts (img : List Byte) : Option Refuse :=
  firstRefuse (List.range (imgLayouts img)) fun i =>
    refuseIf (layoutBad (layoutEnt img i) (fld img (fld img 0x2C 4 + 80 * i + 1) 1)) (planInvalid 0x0A i)

/-! ### Wiring (R64, R65) -/

/-- A stream entry whose own fields break R55 or R56. DESIGN CHOICE (log 59): TPARAM and PRECISION, which only
value types have, must be 0 on the other types of Table 03-6. -/
def streamBad (img : List Byte) (e : StreamEnt) : Bool :=
  (if 1 ≤ e.ty && e.ty ≤ 0x10 then !typeParamsOk e.ty e.tparam e.prec
   else !(0x20 ≤ e.ty && e.ty ≤ 0x26 && e.tparam = 0 && e.prec = 0)) ||
  (if e.ty = tyPacked then imgLayouts img ≤ e.layout else e.layout ≠ 0xFFFF) ||
  (e.nullable && (e.ty = tySelection || e.ty = tyBytes || e.ty = tyPacked))

/-- Whether a stage accepts a stream on an input port (R64 item 3). -/
def acceptsIn (img : List Byte) (stage port : Nat) (e : StreamEnt) : Bool :=
  let st := stageEnt img stage
  let op := operandOf img st
  let keyOrPayload := fun (ks : List KeySpec) => match ks[port]? with
    | some k => streamIsKey e k
    | none => e.ty = tyPacked
  match st.op with
  | 0x10 | 0x11 | 0x12 => keyOrPayload (mashKeys img stage op 0x10 (opKeyCount op))
  | 0x13 | 0x30 | 0x31 =>
    match (aggKeys img stage (aggPart st op))[port]? with
    | some k => streamIsKey e k
    | none => isFixedType e.ty || e.ty = tyCode8 || e.ty = tyCode16
  | 0x20 | 0x22 => keyOrPayload (sortKeys img stage st op)
  | 0x21 => e.ty = tyPacked &&
    (match inEntOf img stage 0 with
      | some z => layoutEnt img z.layout = layoutEnt img e.layout
      | none => false)
  | 0x40 | 0x41 | 0x48 => e.ty = tyBytes
  | 0x50 => (isFixedType e.ty || e.ty = tyCode8 || e.ty = tyCode16 || e.ty = tyHash || e.ty = tyPacked) &&
    elemWidth img e.ty e.layout ≤ lookupW op
  | 0x70 => keyOrPayload (mashKeys img stage op 0x10 (opKeyCount (op.drop 1)))
  | 0x81 | 0x82 | 0x83 => !e.nullable
  | _ => true

/-- Whether a stage drives a stream of this type from an output port (R64 item 3 and the operators' chapters). -/
def drivesOut (img : List Byte) (stage port : Nat) (e : StreamEnt) : Bool :=
  let st := stageEnt img stage
  let op := operandOf img st
  let chain : Bool := st.params.head? ≠ some 0xFFFF
  let sameAsIn := fun (p : Nat) => match inLayout img stage p with
    | some l => l = layoutEnt img e.layout
    | none => false
  match st.op with
  | 0x01 =>
    let o := scanOp op
    (match o.outs[port]? with
      | some x => scanOutOk o x e
      | none => false)
  | 0x11 | 0x13 | 0x20 | 0x22 | 0x30 | 0x31 | 0x71 => e.ty = tyPacked
  | 0x12 => e.ty = tyPacked && sameAsIn (opKeyCount op)
  | 0x21 => e.ty = tyPacked && sameAsIn 0
  | 0x40 | 0x41 => if chain then e.ty = 9 && !e.nullable else e.ty = tyBytes
  | 0x50 => e.ty = 8 && e.nullable = decide (port = 0)
  | 0x80 => e.ty ≠ tyVar && !e.nullable
  | _ => true

/-- Producing stages of a stage, one per input port. -/
def producers (img : List Byte) (stage : Nat) : List Nat :=
  ((streamsOf img).filter (·.consumer = stage)).map (·.producer)

/-- Stages of a phase that can be ordered after their producers: those left over lie on a cycle. -/
def unordered (img : List Byte) : Nat → List Nat → List Nat
  | 0, l => l
  | fuel + 1, l =>
    let rest := l.filter fun n => (producers img n).any fun p => l.contains p
    if rest.length = l.length then l else unordered img fuel rest

/-- All ancestors of a stage, itself included. -/
def ancestors (img : List Byte) : Nat → List Nat → List Nat
  | 0, seen => seen
  | fuel + 1, seen =>
    let more := ((seen.flatMap (producers img)).filter fun p => !seen.contains p).eraseDups
    if more.isEmpty then seen else ancestors img fuel (seen ++ more)

/-- The output set an input descends from through row-preserving stages: producer and set (R65, R88). DESIGN CHOICE (log 64): of
a producer other than SCAN every output port is a set of its own. -/
def rootSet (img : List Byte) : Nat → Nat → Option (Nat × Nat)
  | 0, _ => none
  | fuel + 1, n =>
    let e := streamEnt img n
    let p := stageEnt img e.producer
    if p.op = 0x61 || p.op = 0x50 then
      match inStream img e.producer 0 with
      | some m => rootSet img fuel m
      | none => none
    else if p.op = 0x01 then
      match (scanOp (operandOf img p)).outs[e.prodPort]? with
      | some x => some (e.producer, if x.kind = 3 then 100 + e.prodPort else 0)
      | none => none
    else some (e.producer, e.prodPort)

/-- Alignment of a stage's inputs that breaks R65, or a DRAIN that its operator does not take (R122). -/
def alignBad (img : List Byte) (stage : Nat) : Bool :=
  let st := stageEnt img stage
  let ins := (List.range st.ins).filterMap (inStream img stage)
  ([0x20, 0x22, 0x61].contains st.op && st.drain) || (st.op = 0x21 && !st.drain) ||
  (if st.drain then
     let anc := ins.map fun n => ancestors img (imgStages img) [(streamEnt img n).producer]
     anc.zipIdx.any fun (a, i) => anc.zipIdx.any fun (b, j) => i < j && a.any b.contains
   else
     match ins.map (rootSet img (imgStages img + 1)) with
     | [] => false
     | r :: rs => rs.any (· ≠ r))

/-- Operators, but for UDO, that write the buffer or chain of their parameter (Table 03-9). -/
def writerOps : List Nat := [0x10, 0x12, 0x40, 0x41, 0x48, 0x71, 0x81, 0x82, 0x83]

/-- The UDO stage that counts as the writer of a parameter with ACCESS bit 1. DESIGN CHOICE (log 57): it is the
first UDO stage with the parameter, where no other operator writes it; every other UDO with it reads it. -/
def udoWriter (img : List Byte) (i : Nat) : Option Nat :=
  let users := (List.range (imgStages img)).filter fun n => (stageEnt img n).params.contains i
  if !(paramEnt img i).access.testBit 1 || users.any fun n => writerOps.contains (stageEnt img n).op then none
  else users.find? fun n => (stageEnt img n).op = 0x60

/-- Whether a stage writes the buffer of a parameter (R64 item 5). -/
def writesParam (img : List Byte) (n i : Nat) : Bool :=
  let e := stageEnt img n
  e.params.contains i && (writerOps.contains e.op || (e.op = 0x60 && udoWriter img i = some n))

/-- Whether a stage reads the buffer of a parameter. -/
def readsParam (img : List Byte) (n i : Nat) : Bool :=
  let e := stageEnt img n
  e.params.contains i && ([0x11, 0x70, 0x80].contains e.op || (e.op = 0x60 && udoWriter img i ≠ some n))

/-- Kinds of parameter that are buffers or chains of buffers (Table 03-8). -/
def isBufferKind (k : Nat) : Bool := k = 2 || k = 3 || k = 5 || k = 6

/-- A buffer whose use breaks R64 item 5. -/
def bufferUseBad (img : List Byte) (i : Nat) : Bool :=
  let w := (List.range (imgStages img)).filter fun n => writesParam img n i
  let r := (List.range (imgStages img)).filter fun n => readsParam img n i
  ((paramEnt img i).kind = 2 && 1 < w.length) ||
  w.any fun x => r.any fun y =>
    let px := phaseOf img x
    let py := phaseOf img y
    px = py || !(phaseDeps img py).testBit px

/-- Wiring checks (R64, R65). DESIGN CHOICE (log 64): R67 gives the reasons of this step as type, port and shape and not the order
of its checks: stream by stream the ports, the phase and the stream's own fields; then every port once, the types that
stages take and drive, cycles, buffers and alignment. -/
def checkWiring (img : List Byte) : Option Refuse :=
  let ns := List.range (imgStages img)
  let es := streamsOf img
  (firstRefuse es.zipIdx fun (e, i) =>
    refuseIf (imgStages img ≤ e.producer || imgStages img ≤ e.consumer ||
      (stageEnt img e.producer).outs ≤ e.prodPort || (stageEnt img e.consumer).ins ≤ e.consPort) (planInvalid 0x09 i) <|>
    refuseIf (phaseOf img e.producer ≠ phaseOf img e.consumer) (planInvalid 0x0B i) <|>
    refuseIf (streamBad img e) (planInvalid 0x0A i)) <|>
  (firstRefuse ns fun n =>
    let st := stageEnt img n
    refuseIf
      (((List.range st.ins).any fun p => (es.filter fun e => e.consumer = n && e.consPort = p).length ≠ 1) ||
       ((List.range st.outs).any fun p => (es.filter fun e => e.producer = n && e.prodPort = p).length ≠ 1))
      (planInvalid 0x09 n)) <|>
  (firstRefuse es.zipIdx fun (e, i) =>
    refuseIf (!acceptsIn img e.consumer e.consPort e || !drivesOut img e.producer e.prodPort e) (planInvalid 0x0A i)) <|>
  (firstRefuse ns fun n =>
    let st := stageEnt img n
    refuseIf (st.op = 0x41 && st.outs = 0 && st.params.head? = some 0xFFFF) (planInvalid 0x0A n)) <|>
  (match unordered img (imgStages img) ns with
    | [] => none
    | n :: _ => some (planInvalid 0x0B (phaseOf img n))) <|>
  (firstRefuse (List.range (imgParams img)) fun i =>
    refuseIf (isBufferKind (paramEnt img i).kind && bufferUseBad img i) (planInvalid 0x0B i)) <|>
  (firstRefuse ns fun n => refuseIf (alignBad img n) (planInvalid 0x0B n))

/-- Every check of the image that reads no parameter value: R50 to R65 after the header. -/
def checkImage (img : List Byte) : Option Refuse :=
  checkCounts img <|> checkSections img <|> checkPhases img <|>
  (firstRefuse (List.range (imgStages img)) fun n => checkStage img n <|> checkOperand img n <|> checkBlob img n) <|>
  checkLayouts img <|> checkWiring img

/-! ### Parameter values and lists (R58 to R60) -/

/-- Address of a buffer value. -/
def valAddr (v : List Byte) : Nat := fld v 0 8
/-- Length of a buffer value. -/
def valLen (v : List Byte) : Nat := fld v 8 8
/-- Entry count of a list value. -/
def valCount (v : List Byte) : Nat := fld v 8 4

/-- A buffer value that breaks R60: length, and address for device and host buffers. -/
def bufferBad (v : List Byte) (addressed : Bool) : Bool :=
  valLen v = 0 || valLen v % 64 ≠ 0 || (addressed && valAddr v % 64 ≠ 0)

/-- A parameter value that breaks R58 or R60 for its declaration. -/
def paramValueBad (d : ParamEnt) (v : List Byte) : Bool :=
  match d.kind with
  | 1 =>
    let w := valueWidth d.ty
    !allZero (v.drop w) || !valueOk d.ty d.prec (v.take w)
  | 2 => bufferBad v true
  | 3 => bufferBad v true
  | 4 => valCount v = 0 || 4096 < valCount v || !d.access.testBit 0
  | 5 => bufferBad v false
  | 6 => valCount v = 0 || 65536 < valCount v
  | _ => true

/-- ACCESS bits a stage needs of a parameter's buffer (R60). -/
def accessBad (img : List Byte) (i : Nat) : Bool :=
  let d := paramEnt img i
  isBufferKind d.kind && (List.range (imgStages img)).any fun n =>
    (writesParam img n i && !d.access.testBit 1) || (readsParam img n i && !d.access.testBit 0)

/-- A list entry that breaks R59 or R60. -/
def listEntryBad (kind : Nat) (x : List Byte) : Bool :=
  if kind = 4 then fld x 12 2 = 0 || 128 < fld x 12 2 else bufferBad x true

/-- The chunk lists of one SCAN stage must cover the same rows (R59): the parameter that differs. -/
def chunkListsBad (img : List Byte) (lists : Tbl (List (List Byte))) (n : Nat) : Option Nat :=
  let e := stageEnt img n
  if e.op ≠ 1 then none
  else match usedParams e with
    | [] => none
    | p :: ps =>
      let sig := fun i => (tget [] lists i).map fun x => (fld x 8 4, fld x 14 2)
      ps.find? fun i => sig i ≠ sig p

/-- Parameters that are landing zones of an EXCH_RECV stage. -/
def isLanding (img : List Byte) (i : Nat) : Bool :=
  (List.range (imgStages img)).any fun n =>
    let e := stageEnt img n
    e.op = 0x71 && e.params.contains i

/-- A landing zone's length and control area that break R162. -/
def landingBad (v area : List Byte) : Bool :=
  valLen v % 65536 ≠ 0 || 2 ^ 32 < valLen v || fld area 8 2 = 0 || 1024 < fld area 8 2 ||
  fld area 10 1 = 0 || 6 < fld area 10 1 || !allZero (slice area 12 52)

/-! ### Reading (R49, R60) -/

/-- Unit number of admission (Table 24-2). -/
def unitAdmission : Nat := 0xFE

/-- A read by admission of device or host memory of an instance; none when it fails. -/
def admitRead (n : Nat) (isHost : Bool) (a len : Nat) (s : State) : Option (List Byte) × State :=
  if isHost then
    match hostRead (instLink s n) a len s with
    | .ok b => (some b, s)
    | .error e => (none, noteViolation e s)
  else
    match devRead unitAdmission (.inst n) a len s with
    | (.ok b, s) => (some b, s)
    | (.error e, s) => (none, noteViolation e s)

/-- What the lists and landing zones of a plan's parameters hold, each read once (R60, R162). -/
def readLists (n : Nat) (img : List Byte) (vals : List (List Byte)) :
    List Nat → Tbl (List (List Byte)) → State → Except Refuse (Tbl (List (List Byte))) × State
  | [], acc, s => (.ok acc, s)
  | i :: rest, acc, s =>
    let d := paramEnt img i
    let v := vals.getD i []
    if d.kind = 4 || d.kind = 6 then
      match admitRead n false (valAddr v) (16 * valCount v) s with
      | (none, s) => (.error (planInvalid 0x0F i), s)
      | (some b, s) =>
        let xs := chunksOf 16 b
        if xs.any (listEntryBad d.kind) then (.error (planInvalid 0x0C i), s)
        else readLists n img vals rest (tset acc i xs) s
    else if d.kind = 2 && isLanding img i then
      match admitRead n false (valAddr v) 64 s with
      | (none, s) => (.error (planInvalid 0x0F i), s)
      | (some b, s) =>
        if landingBad v b then (.error (planInvalid 0x0C i), s)
        else readLists n img vals rest (tset acc i [b]) s
    else readLists n img vals rest acc s

/-! ### Derived bounds (R63, R65, Table 03-9) -/

/-- Bound of an output: elements, and bytes of VARBYTES values beside their lengths. -/
structure PBound where
  rows : Nat
  var : Nat := 0
  deriving DecidableEq, Repr

/-- What admission derives for a stage: bounds of its outputs (none is unlimited) and the bytes it may write to
its own buffer or chain. -/
structure SBound where
  outs : List (Option PBound)
  buf : Nat := 0
  deriving DecidableEq, Repr

/-- Bytes a stream within a bound carries (R19, R335). -/
def boundBytes (img : List Byte) (e : StreamEnt) (b : PBound) : Nat :=
  if e.ty = tyVar then 4 * b.rows + b.var else b.rows * elemWidth img e.ty e.layout

/-- Value count of a key for the group bound (R65). -/
def keyValues (k : KeySpec) : Option Nat :=
  let nul := if k.nullable then 1 else 0
  if k.ty = tyCode8 then some (256 + nul) else if k.ty = tyCode16 then some (65536 + nul) else none

/-- The group bound (R65). -/
def groupBound (ks : List KeySpec) (rows : Nat) : Nat :=
  match ks.mapM keyValues with
  | some vs => min rows (vs.foldl (· * ·) 1)
  | none => rows

/-- Worst-case expansion of n bytes (R362). -/
def worstCase (fmt n : Nat) : Nat :=
  let seg := (n + 65534) / 65535
  let raw := n + 5 * seg + 2
  match fmt with
  | 0 => raw
  | 1 => raw + 6
  | 2 => raw + 18
  | _ => 69632 * (n / 65536) + (if n % 65536 = 0 then 0 else roundUp (32 + n % 65536) 4096)

/-- Rows of a SCAN's chunk lists, and pages of a column's list. -/
def listRows (xs : List (List Byte)) : Nat := (xs.map fun x => fld x 14 2 + 1).foldl (· + ·) 0

/-- Capacity of a stage's written buffer or chain. -/
def paramCap (p : PlanCopy) (i : Nat) : Nat :=
  if (paramEnt p.image i).kind = 6 then ((tget [] p.lists i).map valLen).foldl (· + ·) 0
  else valLen (p.params.getD i [])

/-- Row bound of the build side of a HASH_PROBE, given the bounds so far; and its table bytes (R107). -/
def probeTable (p : PlanCopy) (e : StageEnt) (stage : Nat) (known : Nat → Option Nat) : Option Nat × Nat :=
  let img := p.image
  let kw := keyWords (mashKeys img stage (operandOf img e) 0x10 (opKeyCount (operandOf img e)))
  let len := paramCap p (e.params.headD 0)
  match builderOf img e with
  | none => (some (len / (16 + 8 * kw + 48)), len)
  | some b =>
    let be := stageEnt img b
    let bo := operandOf img be
    let bk := opKeyCount bo
    let ent := tableEntryBytes (keyWords (mashKeys img b bo 0x10 bk)) (payloadWidth img b be bk)
    match known b with
    | none => (none, 0)
    | some rows => (some rows, tableBound (fld bo 1 1) rows ent)

/-- Bytes of the VARBYTES values of n rows that a blob emits. DESIGN CHOICE (log 60): no rule bounds such a
value; one that lies in the blob's tile beside its 4-byte length group has TILE_BYTES less 4 at most (R62, R72). -/
def blobVar (img : List Byte) (e : StageEnt) (n : Nat) : Nat := n * ((blobEnt img e.blob).tile - 4)

/-- The bound of a stage from the bounds of its input ports and, for a probe, its build rows. `ins` are the
bounds of its inputs; `build` the row bound of its build side. -/
def deriveStage (p : PlanCopy) (stage : Nat) (ins : List PBound) (build : Nat) : SBound :=
  let img := p.image
  let e := stageEnt img stage
  let op := operandOf img e
  let rowsIn := if e.drain then (ins.map (·.rows)).foldl (· + ·) 0
    else match ins with
      | b :: _ => b.rows
      | [] => 0
  let varIn := (ins.map (·.var)).foldl (· + ·) 0
  let rows := fun (n : Nat) => (some { rows := n, var := varIn } : Option PBound)
  let all := fun (n : Nat) => (List.range e.outs).map fun _ => rows n
  let len := paramCap p (e.params.headD 0)
  let inBytes := match inEntOf img stage 0, ins with
    | some x, b :: _ => boundBytes img x b
    | _, _ => 0
  match e.op with
  | 0x01 =>
    let o := scanOp op
    let lists := (usedParams e).map (tget [] p.lists)
    let n := listRows (lists.headD [])
    let sel := ((lists.headD []).map fun x => 64 * ((fld x 14 2 + 512) / 512)).foldl (· + ·) 0
    { outs := o.outs.map fun x =>
        if x.kind = 3 then some { rows := sel }
        else
          let pages := ((lists.getD x.col []).map fun c => fld c 12 2).foldl (· + ·) 0
          some { rows := n, var := if x.kind = 1 && (o.col x.col).ty = tyVar then 65536 * pages else 0 } }
  | 0x10 =>
    let kc := opKeyCount op
    let ent := tableEntryBytes (keyWords (mashKeys img stage op 0x10 kc)) (payloadWidth img stage e kc)
    { outs := [], buf := tableBound (fld op 1 1) rowsIn ent }
  | 0x11 =>
    let join := fld op 1 1
    let n := if join = 3 || join = 4 then rowsIn
      else rowsIn * build + (if 1 ≤ join then rowsIn else 0) + (if join = 2 then build else 0)
    { outs := (List.range e.outs).map fun _ => some { rows := n } }
  | 0x12 =>
    let r := rowsIn * payloadWidth img stage e (opKeyCount op)
    { outs := all rowsIn
      buf := if fld op 1 1 = 2 then 2 * r + 4096 * (2 ^ fld op 3 1 + 2 ^ fld op 4 1) else r + 4096 * 2 ^ fld op 3 1 }
  | 0x13 | 0x30 | 0x31 => { outs := [some { rows := groupBound (aggKeys img stage (aggPart e op)) rowsIn }] }
  | 0x20 | 0x21 => { outs := [some { rows := rowsIn }] }
  | 0x22 => { outs := [some { rows := min rowsIn (fld op 4 4) }] }
  | 0x40 =>
    let n := fld op 8 8
    { outs := [some { rows := if e.params.headD 0xFFFF = 0xFFFF then n else 1 }], buf := n }
  | 0x41 =>
    let w := worstCase (fld op 0 1) inBytes
    let chained : Bool := e.params.headD 0xFFFF ≠ 0xFFFF
    let n := if kilnResumable op && chained then min w len else w
    { outs := (List.range e.outs).map fun _ => some { rows := if chained then 1 else n }, buf := n }
  | 0x48 => { outs := [], buf := digestLen (fld op 0 1) }
  | 0x50 => { outs := (List.range e.outs).map fun _ => some { rows := rowsIn } }
  | 0x60 => { outs := (List.range (max 1 e.outs)).map fun _ =>
      if e.outCap = 0 then none else some { rows := e.outCap, var := blobVar img e e.outCap } }
  | 0x61 =>
    let n := match ins with
      | b :: _ => b.rows
      | [] => 0
    { outs := (List.range e.outs).map fun _ => some { rows := n, var := blobVar img e n } }
  | 0x62 => { outs := all rowsIn }
  | 0x71 =>
    let w := match outLayout img stage 0 with
      | some l => l.width
      | none => 1
    { outs := [some { rows := len / w }], buf := len }
  | 0x80 =>
    let w := match outEntOf img stage 0 with
      | some x => elemWidth img x.ty x.layout
      | none => 1
    { outs := [some { rows := if w = 0 then 0 else len / w }] }
  | 0x81 | 0x82 | 0x83 => { outs := [], buf := inBytes }
  | _ => { outs := [] }

/-- OUT_CAP applied to a derived bound (R67): rows, or bytes for BYTES outputs. DESIGN CHOICE (log 16): a SELECTION output
carries no rows, and keeps its bound. -/
def capBound (img : List Byte) (stage : Nat) (b : SBound) : SBound :=
  let e := stageEnt img stage
  if e.outCap = 0 then b
  else { b with
    outs := b.outs.zipIdx.map fun (x, i) =>
      match outEntOf img stage i with
      | some s => if s.ty = tySelection then x else
        (match x with
          | some y => some { y with rows := min y.rows e.outCap }
          | none => some { rows := e.outCap })
      | none => x }

/-- Bounds of every stage, by rounds: a stage's bound follows those of its producers and of its build stage.
A stage downstream of an unlimited bound takes 0 there; the unlimited stage itself is refused. -/
def deriveRounds (p : PlanCopy) : Nat → Tbl SBound → Tbl SBound
  | 0, t => t
  | fuel + 1, t =>
    let img := p.image
    let portBound := fun (n : Nat) =>
      let x := streamEnt img n
      (tfind t x.producer).map fun b => ((b.outs.getD x.prodPort none).getD { rows := 0 })
    let buildRows := fun (b : Nat) =>
      let be := stageEnt img b
      (((List.range be.ins).filterMap (inStream img b)).mapM portBound).map fun xs =>
        ((if be.drain then xs else xs.take 1).map (·.rows)).foldl (· + ·) 0
    let t' := (List.range (imgStages img)).foldl (fun acc n =>
      if (tfind acc n).isSome then acc
      else
        let e := stageEnt img n
        let ins := ((List.range e.ins).filterMap (inStream img n)).map portBound
        let bt := if e.op = 0x11 then (probeTable p e n buildRows).1 else some 0
        match ins.mapM id, bt with
        | some xs, some r => tset acc n (capBound img n (deriveStage p n xs r))
        | _, _ => acc) t
    if t'.length = t.length then t else deriveRounds p fuel t'

/-- The bounds of a plan's stages. -/
def bounds (p : PlanCopy) : Tbl SBound := deriveRounds p (imgStages p.image + 1) []

/-- Bound of an input port of a stage. -/
def inBound (p : PlanCopy) (t : Tbl SBound) (stage port : Nat) : PBound :=
  match inStream p.image stage port with
  | some n =>
    let x := streamEnt p.image n
    ((tget { outs := [] } t x.producer).outs.getD x.prodPort none).getD { rows := 0 }
  | none => { rows := 0 }

/-- "Rows in" of a stage (R63). -/
def rowsInOf (p : PlanCopy) (t : Tbl SBound) (stage : Nat) : Nat :=
  let e := stageEnt p.image stage
  if e.drain then ((List.range e.ins).map fun k => (inBound p t stage k).rows).foldl (· + ·) 0
  else (inBound p t stage 0).rows

/-- Input bytes of a stage: the bytes of all its input ports within their bounds. -/
def inBytesOf (p : PlanCopy) (t : Tbl SBound) (stage : Nat) : Nat :=
  ((List.range (stageEnt p.image stage).ins).map fun k =>
    match inEntOf p.image stage k with
    | some x => boundBytes p.image x (inBound p t stage k)
    | none => 0).foldl (· + ·) 0

/-- Bound checks (R67, R354): no finite bound, or a Kiln input above 256 MiB. -/
def checkBounds (p : PlanCopy) (t : Tbl SBound) : Option Refuse :=
  firstRefuse (List.range (imgStages p.image)) fun n =>
    let e := stageEnt p.image n
    refuseIf ((tget { outs := [] } t n).outs.any Option.isNone) (planInvalid 0x0E n) <|>
    refuseIf ((e.op = 0x40 || e.op = 0x41) && 268435456 < inBytesOf p t n) (planInvalid 0x0E n)

/-! ### Quota (R67, R73, R387) -/

/-- Kinds a stage takes units of, with repetition (R80). -/
def stageKinds (img : List Byte) (n : Nat) : List UnitKind :=
  let e := stageEnt img n
  let base := match opRow e.op with
    | some r => [r.kind]
    | none => []
  if e.op = 1 then
    let o := scanOp (operandOf img e)
    base ++ o.sets.map (fun _ => .glume) ++ (if o.cols.any (·.framed) then [.kiln] else [])
  else base

/-- units(p, k). -/
def phaseUnits (img : List Byte) (ph : Nat) (k : UnitKind) : Nat :=
  ((phaseStages img ph).flatMap (stageKinds img)).count k

/-- Banks a phase's groups need (R387). -/
def phaseBanks (img : List Byte) (ph : Nat) : Nat :=
  ((phaseStages img ph).map fun n =>
    let e := stageEnt img n
    let op := operandOf img e
    if e.op = 0x50 then lookupBanks op
    else if e.op = 1 then ((scanOp op).sets.map (setBanks (scanOp op))).foldl (· + ·) 0
    else 0).foldl (· + ·) 0

/-- Pins of a phase that can never be satisfied (R73). -/
def pinsBad (s : State) (img : List Byte) (ph : Nat) : Bool :=
  let pins := (phaseStages img ph).filterMap fun n =>
    let e := stageEnt img n
    match opRow e.op with
    | some r => if e.pinned then some (r.kind, unitBase r.kind + e.unit) else none
    | none => none
  pins.any fun (k, u) => !unitServes s u || (k ≠ .exchange && unitSlots k < pins.count (k, u))

/-- Index in GRANT of a kind. -/
def grantOf (s : State) (n : Nat) (k : UnitKind) : Nat :=
  match findPos (· = k) grantKinds with
  | some i => od s (instIdx n) (0x10 + i)
  | none => 0

/-- Quota checks (R67, R354, R387). -/
def checkQuota (s : State) (n : Nat) (img : List Byte) : Option Refuse :=
  (firstRefuse (List.range (imgStages img)) fun k =>
    let e := stageEnt img k
    refuseIf ((e.op = 0x40 || e.op = 0x41) && kilnResumable (operandOf img e) && od s (instIdx n) 0x0E = 0) (quotaAt k)) <|>
  (firstRefuse (List.range (imgPhases img)) fun ph =>
    refuseIf (grantKinds.any fun k => min (grantOf s n k) (enabledCount s k) < phaseUnits img ph k) (quotaAt ph) <|>
    refuseIf (od s (instIdx n) 8 < (phaseStages img ph).length) (quotaAt ph) <|>
    refuseIf (pinsBad s img ph) (quotaAt ph) <|>
    refuseIf (32 - od s 0x3E00 1 < phaseBanks img ph) (quotaAt ph))

/-! ### Buffers and spill (R67, R69, Table 03-10) -/

/-- Bytes a stage may write to its buffer: what its operator derives, or for a UDO its OUT_CAP as the widest of
its outputs carries it, or as bytes where it has none (R67; log 57). -/
def stageBytes (p : PlanCopy) (t : Tbl SBound) (n : Nat) : Nat :=
  let e := stageEnt p.image n
  let b := tget { outs := [] } t n
  if e.op = 0x60 then
    if e.outs = 0 then e.outCap
    else (b.outs.zipIdx.map fun (x, i) => match outEntOf p.image n i, x with
      | some st, some y => boundBytes p.image st y
      | _, _ => 0).foldl max 0
  else b.buf

/-- Capacity checks of the stages that write a buffer or chain (R67). -/
def checkBuffers (p : PlanCopy) (t : Tbl SBound) : Option Refuse :=
  firstRefuse (List.range (imgStages p.image)) fun n =>
    firstRefuse (usedParams (stageEnt p.image n)) fun i =>
      refuseIf (writesParam p.image n i && paramCap p i < max (stageBytes p t n) (paramEnt p.image i).minLen) (bufferAt n)

/-- 8 MiB: an engine's SRAM. -/
def mib8 : Nat := 8388608

/-- Spill need of a stage (Table 03-10). -/
def spillNeed (p : PlanCopy) (t : Tbl SBound) (n : Nat) : Nat :=
  let img := p.image
  let e := stageEnt img n
  let op := operandOf img e
  match e.op with
  | 0x20 | 0x21 =>
    let b := rowsInOf p t n * sortRB img n e op
    if b ≤ mib8 then 0 else if b ≤ 64 * mib8 then b else 2 * b
  | 0x11 =>
    let bytes := (probeTable p e n fun b => some (rowsInOf p t b)).2
    if bytes ≤ mib8 then 0 else 2 * (bytes + inBytesOf p t n)
  | 0x13 | 0x31 =>
    let a := aggPart e op
    let keys := aggKeys img n a
    let rows := rowsInOf p t n
    if groupBound keys rows ≤ groupCap img n e op then 0
    else
      let ws := (List.range (e.ins - keys.length)).map fun k => match inEntOf img n (keys.length + k) with
        | some x => roundUp (elemWidth img x.ty x.layout) 8
        | none => 0
      rows * (8 + 8 * keyWords keys + ws.foldl (· + ·) 0)
  | 0x60 | 0x61 => e.scratch
  | _ => 0

/-- Spill of a phase. -/
def phaseSpill (p : PlanCopy) (t : Tbl SBound) (ph : Nat) : Nat :=
  ((phaseStages p.image ph).map (spillNeed p t)).foldl (· + ·) 0

/-- The plan's need and the phase that sets it (R67): each phase with those unordered with it. -/
def planSpill (p : PlanCopy) (t : Tbl SBound) : Nat × Nat :=
  let n := imgPhases p.image
  let sp := (List.range n).map (phaseSpill p t)
  (List.range n).foldl (fun best ph =>
    let tot := ((List.range n).map fun q =>
      if q = ph then sp.getD q 0
      else if (phaseDeps p.image q).testBit ph || (phaseDeps p.image ph).testBit q then 0 else sp.getD q 0).foldl (· + ·) 0
    if best.1 < tot then (tot, ph) else best) (0, 0)

/-- The checks that need the parameter values: bounds, quota, buffers, spill (R67). The result is the spill need. -/
def checkPlan (s : State) (n : Nat) (p : PlanCopy) : Except Refuse Nat :=
  let t := bounds p
  let sp := planSpill p t
  match checkBounds p t <|> checkQuota s n p.image <|> checkBuffers p t <|>
      refuseIf (od s (instIdx n) 0x0A < sp.1) (bufferAt sp.2) with
  | some r => .error r
  | none => .ok sp.1

/-! ### admit_plan (R67) -/

/-- Where a descriptor's image or parameter block lies (Table 14-8). -/
inductive Place3
  | inDevice (a : Nat)
  | inHost (a : Nat)
  deriving DecidableEq, Repr

/-- A read of admission at a place, from an offset. -/
def placeRead (n : Nat) (w : Place3) (off len : Nat) (s : State) : Option (List Byte) × State :=
  match w with
  | .inDevice a => admitRead n false (a + off) len s
  | .inHost a => admitRead n true (a + off) len s

/-- Step 2 of Table 01-1 for a plan whose first 128 bytes have been read. -/
def admitPlan (n : Nat) (head : List Byte) (plan param : Place3) (s : State) : Except Refuse (PlanCopy × Nat) × State :=
  match checkHead head with
  | some r => (.error r, s)
  | none =>
    match placeRead n plan 128 (imgLength head - 128) s with
    | (none, s) => (.error (planInvalid 0x0F 0xFFFF), s)
    | (some rest, s) =>
      let img := head ++ rest
      match checkImage img with
      | some r => (.error r, s)
      | none =>
        let np := imgParams img
        let (vb, s) := if np = 0 then (some [], s) else placeRead n param 0 (16 * np) s
        match vb with
        | none => (.error (planInvalid 0x0F 0xFFFF), s)
        | some b =>
          let vals := chunksOf 16 b
          match firstRefuse (List.range np) fun i =>
              refuseIf (paramEntBad (paramEnt img i) || paramValueBad (paramEnt img i) (vals.getD i []) || accessBad img i) (planInvalid 0x0C i) with
          | some r => (.error r, s)
          | none =>
            match readLists n img vals (List.range np) [] s with
            | (.error r, s) => (.error r, s)
            | (.ok lists, s) =>
              match firstRefuse (List.range (imgStages img)) fun k =>
                  (chunkListsBad img lists k).map (planInvalid 0x0C) with
              | some r => (.error r, s)
              | none =>
                let p : PlanCopy := ⟨img, vals, lists⟩
                match checkPlan s n p with
                | .error r => (.error r, s)
                | .ok sp => (.ok (p, sp), s)

end Sys2Proof.Machine
end

