-- ==== Sys2Proof/Machine/Mirror.lean ====
section
/-! DEFINITION. Mirror records to the twin and the journal's entries (R404, R408 to R411). -/

namespace Sys2Proof.Machine

/-- PAIR_STATE (Table 20-5). -/
def pairState (s : State) : Nat := od s 0x2C00 1

/-- The state of the Kolfer link (Table 20-1). -/
def kolState (s : State) : Nat := od s 0x2C02 1

/-- The twin's record changed. -/
def twMod (f : TwinState → TwinState) (s : State) : State := { s with tw := f s.tw }

/-- A unit of Table 22-3 behaves as in DORMANT: from the bit it sets in a change to DORMANT, to the bit it sets in a change to
RUN, or the commit to another mode (R446, R447). -/
def unitDormant (s : State) (u : Nat) : Bool :=
  let set := od s 0x1300 3 = 2 && (od s 0x1300 4).testBit u
  if s.mode = .dormant then !(set && od s 0x1300 1 = 3) else set && od s 0x1300 1 = 5

/-- The Kolfer link is to run in LOW_RATE (R401). -/
def lowRate (s : State) : Bool := unitDormant s 6

/-- The Ethernet ports are down (R451). -/
def portsDown (s : State) : Bool := unitDormant s 5

/-- SEQ of the last DATA flit received in order: ACK of what is sent (Table 20-3). -/
def ackSeq (s : State) : Nat := (s.tw.rxSeq + 4095) % 4096

/-- Waiting records leave in DATA flits, one record a flit, while the link is ACTIVE and fewer than 2,048 flits are
outstanding (R404). -/
def flushMirror : Nat → State → State
  | 0, s => s
  | fuel + 1, s =>
    match s.tw.waiting with
    | [] => s
    | r :: rest =>
      if kolState s = 2 && s.tw.replay.length < 2048 then
        let s := emit (.dataFlit s.tw.txSeq (ackSeq s) [r]) s
        flushMirror fuel (twMod (fun w =>
          { w with waiting := rest, replay := w.replay ++ [(w.txSeq, [r])], txSeq := (w.txSeq + 1) % 4096 }) s)
      else s

/-- A mirror record is sent with the next number (R409). On a link that is DOWN it is lost, as what a link that goes DOWN
holds is (R404). -/
def sendPlaced (back : Bool) (place : Nat) (r : MRec) (s : State) : State :=
  if kolState s = 0 then twMod (fun w => { w with nextRec := w.nextRec + 1, lost := w.lost ++ [w.nextRec] }) s
  else
  let s := odBump 0x2C02 9 (twMod (fun w =>
    { w with waiting := w.waiting ++ [⟨w.nextRec, back, place, r⟩], nextRec := w.nextRec + 1 }) s)
  flushMirror s.tw.waiting.length s

/-- A mirror record outside an exchange. -/
def sendItem (back : Bool) (r : MRec) (s : State) : State := sendPlaced back 0 r s

/-- A mirror record is sent while the pair is SYNCING or PAIRED. -/
def mirror (r : MRec) (s : State) : State := if pairState s = 2 || pairState s = 3 then sendItem false r s else s

/-- STATE of a journal entry (Table 20-6). -/
def JState.code : JState → Nat
  | .pending => 1
  | .accepted => 2
  | .posting => 3

/-- The 64 bytes of a journal entry (Table 20-6). -/
def journalEntry (j : Job) : List Byte :=
  leBytes 1 j.jstate.code ++ leBytes 1 ((if j.network then 1 else 0) + (if j.unmirrored then 2 else 0)) ++ leBytes 2 j.inst ++
  leBytes 2 j.gen ++ leBytes 1 j.sq ++ leBytes 1 j.pass ++ leBytes 8 j.asn ++ leBytes 8 (planStoreAddr j.copy) ++ leBytes 4 (copyLen j.plan) ++
  leBytes 2 j.slot ++ leBytes 2 (if j.jstate = .posting then j.cqSlot else 0) ++
  slice (if j.jstate = .posting then j.entry else []) 0 32

/-- Fields of an SQ's definition, in the order NETWORK, BASE, ENTRIES, LOCATION, CQ, HEAD_ADDR, SLOT_BYTES. -/
def sqFields (q : SubQ) : List Nat :=
  [if q.network then 1 else 0, q.base, q.entries, if q.loc = .host then 1 else 0, q.cq, q.headAddr, q.slotBytes]

/-- Fields of a CQ's definition: BASE, ENTRIES, LOCATION, VECTOR, COAL_COUNT, COAL_TIME. -/
def cqFields (q : ComplQ) : List Nat := [q.base, q.entries, if q.loc = .host then 1 else 0, q.vector, q.coalCount, q.coalTime]

/-- Attributes of an instance that an INSTANCE record carries: Table 15-2 and the entries beside it. -/
def mirroredAttrs : List Nat :=
  [3, 4, 5, 6, 7, 8, 9, 0xA, 0xB, 0xC, 0xD, 0xE, 0xF] ++ (List.range 9).map (· + 0x10) ++
  [0x1A, 0x1B, 0x1C, 0x1D, 0x20, 0x21, 0x22, 0x23, 0x24, 0x28, 0x2D, 0x2E, 0x2F, 0x38, 0x39, 0x3A, 0x3B, 0x3C]

/-- The INSTANCE record of an instance (Table 20-7). LINK of instance 0 is MANAGER_LINK (R297). -/
def instRecord (s : State) (n : Nat) : MRec :=
  .instAttrs n (mirroredAttrs.map fun k => (k, if n = 0 && k = 0x28 then od s 0x2400 2 else od s (instIdx n) k))

end Sys2Proof.Machine
end

