-- ==== Sys2Proof/Machine/NetBase.lean ====
section
/-! DEFINITION. Queue pairs: sending, paths, errors, rates; regions; zones that open with a job (chapter 07). -/

namespace Sys2Proof.Machine

/-! ### Queue pairs -/

/-- A queue pair by index. -/
def qpAt (s : State) (q : Nat) : Option QP := tfind s.net.qps q

/-- The network's state changed. -/
def netMod (f : NetState → NetState) (s : State) : State := { s with net := f s.net }

/-- An existing queue pair changed. -/
def qpMod (q : Nat) (f : QP → QP) (s : State) : State :=
  netMod (fun n => { n with qps := n.qps.map fun e => if e.1 = q then (e.1, f e.2) else e }) s

/-- QPN of a queue pair: its index + 2, because 0 and 1 name no RC queue pair (log entry 26). -/
def qpnOf (q : Nat) : Nat := q + 2

/-- PSN a after n packets. -/
def psnAdd (a n : Nat) : Nat := (a + n) % 2 ^ 24

/-- Packets from PSN a up to PSN b. -/
def psnDist (a b : Nat) : Nat := (b + 2 ^ 24 - a % 2 ^ 24) % 2 ^ 24

/-- Packets of a message at a path MTU code (Table 07-1). -/
def packets (mtu len : Nat) : Nat := max 1 ((len + 128 * 2 ^ mtu - 1) / (128 * 2 ^ mtu))

/-- Bytes of a message. -/
def RoceMsg.size : RoceMsg → Nat
  | .send p => p.length
  | .write _ _ d => d.length
  | .writeImm _ _ d _ => d.length
  | .readResponse d => d.length
  | _ => 0

/-- PLANE_STATE of a plane. -/
def planeState (s : State) (k : Nat) : Nat := od s (0x2810 + k) 1

/-- A plane that carries traffic or may take it: active or standby. -/
def planeFit (s : State) (k : Nat) : Bool := planeState s k = 0 || planeState s k = 3

/-- The port a queue pair uses on its current plane. -/
def qpPort (q : QP) : Nat := 2 * q.plane + (q.ports >>> q.plane) % 2

/-- A queue pair connected to a queue pair of the same device. -/
def isLoop (s : State) (q : QP) : Bool := q.remoteIp = s.net.localIp || q.remoteIp = s.net.localIp6

/-- Whether a queue pair may transmit now. -/
def maySend (q : QP) : Bool := q.connected && !q.err && !q.rnrWait && q.heldSince.isNone

/-- A packet of a queue pair leaves on its path's port, marked ECT(0); the first after a migration has MigReq set (Table
07-1, R152). While its transmissions are held, it is held with them (R155); on a port that DORMANT has down it is lost (R451). -/
def sendPacket (k psn : Nat) (m : RoceMsg) (s : State) : State :=
  match qpAt s k with
  | none => s
  | some q =>
    if portsDown s then s
    else if q.heldSince.isSome then qpMod k (fun q => { q with heldOut := q.heldOut ++ [(psn, m)] }) s
    else emit (.roce (qpPort q) q.remoteIp q.remoteQpn psn q.migNext true m) (qpMod k (fun q => { q with migNext := false }) s)

/-- The answers held leave, once the queue pair transmits again. -/
def releaseHeld (k : Nat) (s : State) : State :=
  match qpAt s k with
  | none => s
  | some q =>
    if q.heldSince.isSome then s
    else q.heldOut.foldl (fun s x => sendPacket k x.1 x.2 s) (qpMod k (fun q => { q with heldOut := [] }) s)

/-- One message leaves: on the path's port, or over the fabric. -/
def transmit (k : Nat) (q : QP) (m : TxMsg) (s : State) : State :=
  if isLoop s q then
    if m.sent then s
    else netMod (fun n => { n with fabric := n.fabric ++ [⟨k, q.remoteQpn - 2, m.msg⟩] }) s
  else sendPacket k m.psn m.msg s

/-- Messages that have not left do so. -/
def flushQp (k : Nat) (s : State) : State :=
  match qpAt s k with
  | none => s
  | some q =>
    if !maySend q then s
    else
      let s := (q.sendQ.filter fun m => !m.sent).foldl (fun s m => transmit k q m s) s
      qpMod k (fun q => { q with sendQ := q.sendQ.map fun m => { m with sent := true } }) s

/-- A queue pair sends again from its oldest unacknowledged PSN. -/
def resend (k : Nat) (s : State) : State :=
  match qpAt s k with
  | none => s
  | some q =>
    if !maySend q then s
    else
      let s := q.sendQ.foldl (fun s m => transmit k q m s) s
      qpMod k (fun q => { q with sendQ := q.sendQ.map fun m => { m with sent := true } }) s

/-- A queue pair whose path carries traffic goes on: what was held leaves, and it sends again from its oldest unacknowledged
PSN (R152, R155). -/
def resume (k : Nat) (s : State) : State := resend k (releaseHeld k s)

/-- A queue pair is given a message. -/
def qpSend (k : Nat) (why : TxFor) (m : RoceMsg) (s : State) : State :=
  match qpAt s k with
  | none => s
  | some q =>
    if q.err then s
    else
      let n := packets q.mtu m.size
      flushQp k (qpMod k (fun q =>
        { q with sendQ := q.sendQ ++ [{ psn := q.txPsn, count := n, msg := m, why := why }], txPsn := psnAdd q.txPsn n }) s)

/-- A queue pair is given a SEND. -/
def qpPost (qp : Nat) (payload : List Byte) (s : State) : State := qpSend qp .plain (.send payload) s

/-! ### The classifier (R147, R394) -/

/-- Key of a queue pair's classifier entry. -/
def classKey (ip qpn : Nat) : Nat := ip * 2 ^ 32 + qpn * 256

/-- The classifier group changed, with its updates counted. -/
def classMod (n : Nat) (f : Tbl GEntry → Tbl GEntry) (s : State) : State :=
  odAdd 0x3E10 7 n { s with js := { s.js with
    groups := tmod {} s.js.groups 0 fun g => { g with entries := f g.entries } } }

/-- Entry i of the classifier is written with right parity. -/
def healEntry (i : Nat) (s : State) : State :=
  let rows := (tget {} s.js.groups 0).rowsOf i
  { s with js := { s.js with badRows := s.js.badRows.filter fun x => !rows.contains x } }

/-- After a parity error in entry i of the classifier its VALID is cleared, and the runtime rewrites the entry from its
queue-pair table (R398). -/
def repairClass (i : Nat) (s : State) : State :=
  let s := healEntry i (odBump 0x3E00 3 s)
  match tfind (tget {} s.js.groups 0).entries i with
  | some e => if e.valid then classMod 2 (fun es => tset es i e) s else classMod 1 (fun es => tset es i e) s
  | none => classMod 1 (fun es => es) s

/-- The classifier entries of a queue pair lose VALID. -/
def unclassify (k : Nat) (s : State) : State :=
  let g := tget {} s.js.groups 0
  let n := (g.entries.filter fun e => e.2.valid && e.2.result = k).length
  if n = 0 then s
  else classMod n (fun es => es.map fun e => if e.2.result = k then (e.1, { e.2 with valid := false }) else e) s

/-- Entries the classifier holds. -/
def classSize (s : State) : Nat := 4096 * od s 0x3E00 1

/-- The configured address that a remote address reaches: of its own kind, IPv4 or IPv6 (R143, R147). -/
def localFor (s : State) (remote : Nat) : Nat := if remote / 2 ^ 32 = 0xFFFF then s.net.localIp else s.net.localIp6

/-- The entry of a queue pair to be connected to a remote address is written in the lowest free place; none when the group
is full. -/
def classify (k remote : Nat) (s : State) : Option State :=
  let g := tget {} s.js.groups 0
  let place := (List.range (min (classSize s) (g.entries.length + 1))).find? fun i =>
    match tfind g.entries i with
    | some e => !e.valid
    | none => true
  place.map fun i =>
    let e : GEntry := { value := classKey (localFor s remote) (qpnOf k), mask := 2 ^ 160 - 1, valid := true, result := k }
    healEntry i (classMod 1 (fun es => tset es i e) s)

/-! ### Errors of a queue pair (R144, R155) -/

/-- Whether a task's stage uses a queue pair: SINK_REMOTE's operand, a peer of EXCH_SEND, a sender of EXCH_RECV; and the
SENDER_INDEX its error record carries. -/
def usesQp (s : State) (t : Task) (k : Nat) : Option Nat :=
  match s.net.sends.find? fun x => x.jid = t.jid && x.stage = t.stage && x.peers.any fun p => p.qp = k with
  | some x => some x.sender
  | none =>
    match s.net.zones.find? fun z => z.jid = t.jid && z.stage = t.stage && z.senders.any fun e => e.2.qp = k with
    | some z => some (((z.senders.find? fun e => e.2.qp = k).map (·.1)).getD 0)
    | none => if t.eng.started && t.unit = 0xBC && t.eng.d = k + 1 then some 0 else none

/-- A queue pair enters the error state: its classifier entries go, nothing more is sent, and every stage using it fails. -/
def qpFail (k status : Nat) (s : State) : State :=
  match qpAt s k with
  | none => s
  | some q =>
    if q.err then s
    else
      let s := unclassify k (qpMod k (fun q => { q with err := true, sendQ := [], heldSince := none, heldOut := [], rnrWait := false }) s)
      let s := netMod (fun n => { n with fabric := n.fabric.filter fun m => m.src ≠ k && m.dst ≠ k }) s
      (s.js.tasks.filterMap fun e => (usesQp s e.2 k).map fun ix => (e.1, ix)).foldl (fun s (slot, ix) =>
        failTask slot status { detail := k, detail2 := ix } s) s

/-! ### Paths (R151 to R155) -/

/-- A queue pair migrates to the other plane, and resumes from its oldest unacknowledged PSN, with MigReq in its first packet
there (R152). On a plane that is not fit, no transmission starts: it holds them (Table 07-2, R155). -/
def migrate (k : Nat) (s : State) : State :=
  match qpAt s k with
  | none => s
  | some q =>
    let k2 := 1 - q.plane
    let held := if planeFit s k2 then none else some s.time
    let s := odBump (0x2810 + q.plane) 5
      (qpMod k (fun q => { q with plane := k2, path := .migrated, migNext := true, retries := 0, heldSince := held }) s)
    let s := if planeState s k2 = 3 then odSet (0x2810 + k2) 1 0 s else s
    resume k s

/-- A queue pair whose current plane is unfit migrates, or holds its transmissions (R152, R155). -/
def leavePlane (k : Nat) (s : State) : State :=
  match qpAt s k with
  | none => s
  | some q =>
    if q.err || !q.connected || q.heldSince.isSome then s
    else if q.path = .armed && planeFit s (1 - q.plane) then migrate k s
    else
      let now := s.time
      qpMod k (fun q => { q with heldSince := some now }) s

/-! ### Regions (R146) -/

/-- A region takes the lowest free index, with a new tag; the answer is its key. -/
def addRegion (r : Region) (s : State) : Option (Nat × State) :=
  match (List.range (s.net.regions.length + 1)).find? fun i => i < 1048576 && (tfind s.net.regions i).isNone with
  | none => none
  | some i =>
    let tag := (tget 0 s.net.tags i + 1) % 4096
    some (i * 4096 + tag, netMod (fun n => { n with regions := tset n.regions i r, tags := tset n.tags i tag }) s)

/-- The region a key names, if its tag and its generation are current. -/
def regionAt (s : State) (key : Nat) : Option Region :=
  match tfind s.net.regions (key / 4096) with
  | some r => if tget 0 s.net.tags (key / 4096) = key % 4096 && r.gen = instGen s r.inst then some r else none
  | none => none

/-- A region's key no longer names it. -/
def dropRegion (key : Nat) (s : State) : State := netMod (fun n => { n with regions := tdel n.regions (key / 4096) }) s

/-! ### Zones that open (R162, R163) -/

/-- CRC-32C of a plan's row layout entry (Table 07-5). -/
def layoutCrc (img : List Byte) (n : Nat) : Nat := crc32c (slice img (fld img 0x2C 4 + 80 * n) 80)

/-- The zone of an EXCH_RECV stage of a job, opened: its control area is the admitted copy. -/
def openZone (j : Job) (p : PlanCopy) (stage : Nat) (s : State) : State :=
  let e := stageEnt p.image stage
  match e.params.head?, outStream p.image stage 0 with
  | some i, some x =>
    let v := p.params.getD i []
    let area := (tget [] p.lists i).headD []
    let len := fld v 8 8
    let r : Region := { inst := j.inst, gen := j.gen, base := fld v 0 8, length := len, read := false, write := true, zone := true }
    match addRegion r s with
    | none => s
    | some (key, s) =>
      let z : Zone :=
        { jid := j.jid, stage := stage, inst := j.inst, exchange := fld area 0 8, senderCount := fld area 8 2, depth := fld area 10 1
          ordered := (fld area 11 1).testBit 0, base := fld v 0 8, slots := len / 65536 - 1, key := key
          crc := layoutCrc p.image (streamEnt p.image x).layout }
      netMod (fun n =>
        { n with zones := n.zones.filter (fun y => !(y.inst = j.inst && y.exchange = z.exchange)) ++ [z], closed := n.closed.filter fun c => !(c.1 = j.inst && c.2.1 = z.exchange) }) s
  | _, _ => s

/-- Exchange zones open when the first phase of their job is placed (R163). -/
def zonesAtPlacement (j : Job) (_ph : Nat) (s : State) : State :=
  match j.plan with
  | none => s
  | some p =>
    if j.phases.any fun x => x.run = .placed || x.run = .finished then s
    else
      ((List.range (imgStages p.image)).filter fun n => (stageEnt p.image n).op = 0x71).foldl (fun s n => openZone j p n s) s

/-! ### Resets (R145, R146, R321) -/

/-- At a reset, the instance's queue pairs enter the error state, and its regions and zones are stale. -/
def revokeNet (n : Nat) (s : State) : State :=
  let ks := (s.net.qps.filter fun e => e.2.inst = n).map (·.1)
  let s := ks.foldl (fun s k =>
    unclassify k (qpMod k (fun q => { q with err := true, sendQ := [], heldSince := none, heldOut := [], rnrWait := false }) s)) s
  netMod (fun x => { x with fabric := x.fabric.filter (fun m => !ks.contains m.src && !ks.contains m.dst),
                            zones := x.zones.filter (fun z => z.inst ≠ n) }) s

/-- At the end of a reset, its queue pairs and regions are deleted. -/
def deleteNet (n : Nat) (s : State) : State :=
  netMod (fun x => { x with qps := x.qps.filter (fun e => e.2.inst ≠ n), regions := x.regions.filter (fun e => e.2.inst ≠ n) }) s

end Sys2Proof.Machine
end

