-- ==== Sys2Proof/Machine/Journal.lean ====
section
/-! DEFINITION. Queues, the journal, acceptance and the completion reorder stage (R9 to R23, R301 to R309, R408 to R411,
R480). -/

namespace Sys2Proof.Machine

/-! ### Queues -/

/-- An SQ of an instance, if it exists. -/
def sqAt (s : State) (n q : Nat) : Option SubQ := tfind (inst s n).sqs q

/-- A CQ of an instance, if it exists. -/
def cqAt (s : State) (n q : Nat) : Option ComplQ := tfind (inst s n).cqs q

/-- The state with an existing SQ changed. -/
def sqMod (n q : Nat) (f : SubQ → SubQ) (s : State) : State :=
  match sqAt s n q with
  | some x => instMod n (fun i => { i with sqs := tset i.sqs q (f x) }) s
  | none => s

/-- The state with an existing CQ changed. -/
def cqMod (n q : Nat) (f : ComplQ → ComplQ) (s : State) : State :=
  match cqAt s n q with
  | some x => instMod n (fun i => { i with cqs := tset i.cqs q (f x) }) s
  | none => s

/-- The pass of a slot position (R301). -/
def passOf (q : SubQ) (pos : Nat) : Nat := pos / q.entries % 256

/-- Address of a slot position. -/
def sqSlotAddr (q : SubQ) (pos : Nat) : Nat := q.base + (if q.network then q.slotBytes else 128) * (pos % q.entries)

/-- Whether the next slot holds a descriptor: software's tail lies beyond it, or a SEND has filled it (R156, R300). -/
def slotVisible (q : SubQ) : Bool :=
  if q.network then (tfind q.sends q.fetch).isSome else q.fetch % q.entries ≠ q.tail % q.entries

/-- Whether admission takes descriptors in the present mode: in RUN, while a change to another mode does not apply; during a
change to RUN, once the unit has resumed (Tables 22-1 and 22-3, R446). -/
def modeAdmits (s : State) : Bool :=
  if od s 0x1300 3 = 2 then od s 0x1300 1 = 3 && (od s 0x1300 4).testBit 0 else s.mode = .run

/-- A freeze is in preparation or applies: instance 0's admission is paused and no phase is placed (R450). -/
def freezing (s : State) : Bool := od s 0x1300 3 = 1 || (od s 0x1300 3 = 2 && od s 0x1300 1 = 6)

/-- RR_HELD: non-empty reset-report records held in the device (R324). -/
def rrHeldCount (s : State) (n : Nat) : Nat := ((inst s n).rrHeld.filter fun r => !(fld r 0x1D 1).testBit 1).length

/-- Whether admission of an instance is open (Table 15-1, R324, R450). -/
def admitOpen (s : State) (n : Nat) : Bool :=
  modeAdmits s && instSt s n = 1 && !(n = 0 && freezing s) && rrHeldCount s n = 0

/-- Whether completions are written in the present mode and state of the instance (Tables 15-1, 22-1, R453; log entry 19). -/
def postOpen (s : State) (n : Nat) : Bool :=
  (s.mode = .run || s.mode = .drain || s.mode = .freeze) && (instSt s n = 1 || instSt s n = 3)

/-! ### The head (R12, R307) -/

/-- Position the head of an SQ may reach: every slot before it is accepted, or refused with its completion written. -/
def headLimit (s : State) (n k : Nat) (q : SubQ) : Nat :=
  let waiting := (s.js.jobs.filter fun j => j.inst = n && j.sq = k && j.jstate = .pending && j.gen = instGen s n).map (·.pos)
  let held := ((inst s n).refusals.filter fun r => r.sq = k).map (·.pos)
  (waiting ++ held).foldl min q.fetch

/-- An entry of Table 14-9 with every field but PHASE as given. -/
def cqEntry (asn len eoff status gen q source phase : Nat) : List Byte :=
  leBytes 8 asn ++ leBytes 8 len ++ leBytes 4 eoff ++ leBytes 2 status ++ leBytes 2 gen ++ leBytes 1 q ++ leBytes 1 source ++
  leBytes 5 0 ++ leBytes 1 phase

/-- A notice of R158 on a queue pair. -/
def notice (qp kind slot : Nat) (entry : List Byte) (s : State) : State :=
  qpPost qp (leBytes 4 kind ++ leBytes 4 slot ++ entry) s

/-- The head of an SQ moves to its limit; a network SQ sends ACCEPTED notices for the slots passed (R158), and its slots
become free. -/
def advanceHead (n k : Nat) (s : State) : State :=
  match sqAt s n k with
  | none => s
  | some q =>
    let h := headLimit s n k q
    let passed := q.accepts.filter fun e => e.1 < h
    let s := sqMod n k (fun q =>
      { q with head := h, accepts := q.accepts.filter fun e => h ≤ e.1
               sends := q.sends.filter fun e => h ≤ e.1
               taken := if q.network then q.taken.filter fun x => h ≤ x else q.taken }) s
    if q.network then
      let s := if h = q.head then s else mirror (.queuePos n false k h) s
      passed.foldl (fun s (pos, asn) =>
        match tfind q.senders pos with
        | some qp => notice qp 1 (pos % q.entries) (cqEntry asn 0 0 0 (instGen s n) k 0 0) s
        | none => s) (sqMod n k (fun q => { q with senders := q.senders.filter fun e => h ≤ e.1 }) s)
    else s

/-- The head and pass are written back to a host SQ's head location; a failed write puts the SQ into ERROR (R307, R309). -/
def writeHead (n k : Nat) (s : State) : State :=
  match sqAt s n k with
  | none => s
  | some q =>
    if q.network || q.error || q.written = q.head then s
    else
      match locWrite q.loc 0xFE n q.headAddr (leBytes 4 (q.head % q.entries) ++ leBytes 4 (passOf q q.head)) s with
      | (some e, s) => sqMod n k (fun q => { q with error := true }) (noteViolation e s)
      | (none, s) => mirror (.queuePos n false k q.head) (sqMod n k (fun q =>
        { q with written := q.head, taken := q.taken.filter fun x => q.head ≤ x }) s)

/-! ### Writing a completion (R305, R308, R309, R480) -/

/-- The lowest free error-record slot of an instance. -/
def erFree (s : State) (n : Nat) : Option Nat :=
  (List.range ((inst s n).erHeld.length + 1)).find? fun k =>
    k < od s (instIdx n) 0x2E && (tfind (inst s n).erHeld k).isNone

/-- RECORD_SEQ after a number: 0 is skipped on wrap (Table 24-2). -/
def nextErSeq (x : Nat) : Nat := if x + 1 = 2 ^ 32 then 1 else x + 1

/-- What is about to be written to a CQ: its entry, and its error record with the record's slot. -/
structure Posting where
  cq : Nat
  pos : Nat
  entry : List Byte
  er : Option (Nat × List Byte)
  deriving DecidableEq, Repr

/-- A completion's fields before it has a place. -/
structure Compl where
  inst : Nat
  sq : Nat
  slot : Nat
  asn : Nat
  len : Nat
  status : Nat
  gen : Nat
  source : Nat := 0
  er : Option ErrRec
  deriving DecidableEq, Repr

/-- Why a completion cannot be placed now. -/
inductive PostWait
  | cq
  | record
  deriving DecidableEq, Repr

/-- Another completion of the CQ is in the POSTING state, so its slot is taken (R411). -/
def cqBusy (s : State) (n c : Nat) : Bool :=
  s.js.jobs.any fun j => j.inst = n && j.jstate = .posting &&
    (match sqAt s n j.sq with
      | some q => decide (q.cq = c)
      | none => false)

/-- A completion takes the next CQ slot and, if it needs one, the lowest free record slot. -/
def placeCompl (s : State) (c : Compl) : Except PostWait Posting :=
  match sqAt s c.inst c.sq with
  | none => .error .cq
  | some q =>
    match cqAt s c.inst q.cq with
    | none => .error .cq
    | some cq =>
      if cq.error || cq.entries ≤ cq.tail - cq.head || cqBusy s c.inst q.cq then .error .cq
      else
        let phase := 1 - cq.tail / cq.entries % 2
        match c.er with
        | none => .ok ⟨q.cq, cq.tail, cqEntry c.asn c.len 0xFFFFFFFF c.status c.gen c.sq c.source phase, none⟩
        | some er =>
          match erFree s c.inst with
          | none => .error .record
          | some k =>
            let rec_ := leBytes 8 c.asn ++ leBytes 8 er.planId ++
              errTail er c.status c.slot c.gen c.sq q.cq (cq.tail % cq.entries) (inst s c.inst).erSeq
            .ok ⟨q.cq, cq.tail, cqEntry c.asn c.len (64 * k) c.status c.gen c.sq c.source phase, some (k, rec_)⟩

/-- A place is reserved: the record slot is held by the CQ entry, and the record takes its number. -/
def reserveEr (n : Nat) (p : Posting) (s : State) : State :=
  match p.er with
  | some (k, _) =>
    instMod n (fun i => { i with erHeld := tset i.erHeld k (p.cq, p.pos), erSeq := nextErSeq i.erSeq }) s
  | none => s

/-- The MSI-X of a CQ after an entry without NO_IRQ (R308). -/
def signalCq (n c : Nat) (s : State) : State :=
  match cqAt s n c with
  | none => s
  | some q =>
    if q.coalCount = 0 || q.coalCount ≤ q.unsignalled + 1 then
      sendMsix n q.vector (cqMod n c (fun q => { q with unsignalled := 0 }) s)
    else cqMod n c (fun q => { q with unsignalled := q.unsignalled + 1 }) s

/-- The record and then the entry are written; the answer is whether both were. A failed write puts the CQ into ERROR. -/
def writePosting (n : Nat) (p : Posting) (s : State) : Bool × State :=
  match cqAt s n p.cq with
  | none => (false, s)
  | some q =>
    let fail := cqMod n p.cq (fun q => { q with error := true })
    let (recFail, s) : Bool × State := match p.er with
      | some (k, bytes) =>
        let (e, s) := locWrite (locOf (od s (instIdx n) 0x2F)) 0xFE n (od s (instIdx n) 0x2D + 64 * k) bytes s
        (match e with
          | some f => (true, noteViolation f s)
          | none => (false, s))
      | none => (false, s)
    if recFail then (false, fail s)
    else
      match locWrite q.loc 0xFE n (q.base + 32 * (p.pos % q.entries)) p.entry s with
      | (some e, s) => (false, fail (noteViolation e s))
      | (none, s) => (true, cqMod n p.cq (fun q => { q with tail := p.pos + 1 }) s)

/-- COMPLETIONS of the status's class advances (Table 24-5). -/
def countCompletion (status : Nat) (s : State) : State := odBump 0x5000 (1 + status / 256) s

/-! ### Refusals (R11 to R13) -/

/-- The completion of a refusal. -/
def refusalCompl (s : State) (n : Nat) (r : HeldRefusal) : Compl :=
  let slot := match sqAt s n r.sq with
    | some q => r.pos % q.entries
    | none => r.pos
  { inst := n, sq := r.sq, slot := slot, asn := 2 ^ 64 - 1, len := 0, status := r.status, gen := r.gen, er := some r.er }

/-- A held refusal is counted in ER_WAITS, once, when it finds no free record slot (R480). -/
def waitRecord (n : Nat) (r : HeldRefusal) (s : State) : State :=
  if r.erWait then s
  else
    odBump 0x5000 9 (instMod n (fun i =>
      { i with refusals := i.refusals.map fun x => if x.sq = r.sq && x.pos = r.pos then { x with erWait := true } else x }) s)

/-- What follows a written refusal: it is held no longer, and is counted, signalled and noticed. -/
def refusalPosted (n : Nat) (r : HeldRefusal) (slot : Nat) (p : Posting) (s : State) : State :=
  let s := instMod n (fun i => { i with refusals := i.refusals.filter fun x => !(x.sq = r.sq && x.pos = r.pos) }) s
  let s := countCompletion r.status s
  let s := if r.noIrq then s else signalCq n p.cq s
  let s := match r.sender with
    | some qp => notice qp 2 slot p.entry s
    | none => s
  advanceHead n r.sq s

/-- Held refusals are written in slot order within each SQ, as far as their CQs take them; one that cannot be written holds
back those of its own SQ alone (R13). The first list names the SQs held back. -/
def postHeld (n : Nat) : List Nat → List HeldRefusal → State → State
  | _, [], s => s
  | back, r :: rest, s =>
    if back.contains r.sq then postHeld n back rest s
    else
      let c := refusalCompl s n r
      match placeCompl s c with
      | .error .record => postHeld n (r.sq :: back) rest (waitRecord n r s)
      | .error .cq => postHeld n (r.sq :: back) rest s
      | .ok p =>
        match writePosting n p (reserveEr n p s) with
        | (false, s) => postHeld n (r.sq :: back) rest s
        | (true, s) => postHeld n back rest (refusalPosted n r c.slot p s)

/-- Held refusals of an instance are written where their CQs have room. -/
def postRefusals (n : Nat) (held : List HeldRefusal) (s : State) : State := postHeld n [] held s

/-- A descriptor is refused (R10 to R12): its completion is written before any head value that passes its slot. -/
def refuseDesc (n k : Nat) (pos : Nat) (status : Nat) (er : ErrRec) (noIrq : Bool) (s : State) : State :=
  let sender := match sqAt s n k with
    | some q => tfind q.senders pos
    | none => none
  let r : HeldRefusal :=
    { sq := k, pos := pos, gen := instGen s n, status := status, er := { er with unit := 0xFE }, noIrq := noIrq,
      sender := sender }
  let s := sqMod n k (fun q => { q with fetch := pos + 1 }) s
  let s := instMod n (fun i => { i with refusals := i.refusals ++ [r] }) s
  let held := (inst s n).refusals
  let s := if postOpen s n then postRefusals n held s else s
  advanceHead n k s

/-! ### Acceptance (R10, R14, R304, R408, R410) -/

/-- What a CANCEL does at the moment it is accepted (R304). -/
def cancelActs (j : Job) (s : State) : State :=
  let tsq := fld j.desc 0x30 1
  let tasn := fld j.desc 0x28 8
  let hit := match jobByAsn s j.inst tsq tasn with
    | some t => if t.jid ≠ j.jid && t.jstate ≠ .pending && t.ended.isNone && !(tsq = j.sq && j.asn ≤ tasn) then some t.jid else none
    | none => none
  match hit with
  | some jid => jobMod j.jid (fun x => { x with ended := some ⟨0, {}⟩, resultLen := 1 }) (failJob jid 0x0601 {} s)
  | none => jobMod j.jid (fun x => { x with ended := some ⟨0, {}⟩ }) s

/-- The state of a plan's phases at acceptance: those with no DEPENDS are waiting (R239). -/
def startPhases (s : State) (img : List Byte) : List Phase :=
  (List.range (imgPhases img)).map fun ph =>
    if (phaseEnt img ph).depends = 0 then { run := .waiting, since := ticks s } else {}

/-- A job is accepted: step 4 has completed. -/
def acceptJob (jid : Nat) (unmirrored : Bool) (s : State) : State :=
  match jobOf s jid with
  | none => s
  | some j =>
    let now := s.time
    let s := jobMod jid (fun j =>
      { j with jstate := .accepted, unmirrored := unmirrored, awaits := none, acceptedAt := now }) s
    let s := match j.kind with
      | .nop => jobMod jid (fun j => { j with ended := some ⟨0, {}⟩ }) s
      | .cancel => cancelActs j s
      | .plan =>
        let ph := match j.plan with
          | some p => startPhases s p.image
          | none => []
        jobMod jid (fun j => { j with phases := ph }) s
    let s := sqMod j.inst j.sq (fun q => { q with taken := q.taken ++ [j.pos] }) s
    let s := if j.network then sqMod j.inst j.sq (fun q => { q with accepts := tset q.accepts j.pos j.asn }) s else s
    advanceHead j.inst j.sq s

/-- Step 4 for a job whose entry is written, in a pairing state that does not mirror it (R14, Table 20-5). -/
def acceptByPolicy (jid : Nat) (s : State) : State :=
  let p := pairState s
  if p = 0 && od s 0x2C00 5 = 0 then acceptJob jid true s
  else if p = 4 || (p = 1 && !s.tw.fromUnpaired) then if od s 0x2C01 0 = 1 then acceptJob jid true s else s
  else s

/-- The mirror record of a job's entry is sent, and the job waits for its acknowledgement (R409, R410). -/
def sendEntry (jid : Nat) (s : State) : State :=
  match jobOf s jid with
  | none => s
  | some j =>
    let num := s.tw.nextRec
    sendItem false (.entry (journalEntry j)) (jobMod jid (fun j => { j with awaits := some num }) s)

/-- The lowest number of the plan store that holds no copy (R49, R408; log entry 18). -/
def freeCopy (s : State) : Nat :=
  ((List.range (s.ms.planStore.length + 1)).find? fun n => (tfind s.ms.planStore n).isNone).getD 0

/-- Steps 3 and 4: the descriptor takes the next ASN and a journal entry (R10, R15, R69, R408). -/
def enterJournal (n k : Nat) (w : WaitDesc) (s : State) : State :=
  match sqAt s n k with
  | none => s
  | some q =>
    let jid := s.js.nextJid
    let pos := q.fetch
    let j : Job :=
      { jid := jid, inst := n, gen := instGen s n, sq := k, pos := pos, slot := pos % q.entries, pass := passOf q pos
        asn := q.nextAsn, network := q.network, kind := w.kind, desc := w.desc, noIrq := (fld w.desc 1 1).testBit 0
        priority := w.priority, deadline := fld w.desc 0x24 4, copy := freeCopy s
        plan := w.plan, spill := w.spill, quota := w.quota, sender := tfind q.senders pos }
    let s := sqMod n k (fun q => { q with fetch := pos + 1, nextAsn := q.nextAsn + 1, waiting := none }) s
    let s := if w.spill = 0 then s else odSet (instIdx n) 0x0B (od s (instIdx n) 0x0B - w.spill) s
    let s := { s with
      js := { s.js with jobs := s.js.jobs ++ [j], nextJid := jid + 1 }
      ms := { s.ms with planStore := tset s.ms.planStore j.copy (w.desc, w.plan) } }
    if pairState s = 3 then sendEntry jid s else acceptByPolicy jid s

/-- Whether a checked descriptor may take a journal entry: the journal, its instance's quota, its spill (R15, R69). -/
def mayEnter (s : State) (n : Nat) (w : WaitDesc) : Bool :=
  s.js.jobs.length < 32768 && (s.js.jobs.filter fun j => j.inst = n).length < od s (instIdx n) 7 &&
  w.spill ≤ od s (instIdx n) 0x0B

/-- A descriptor that has passed its checks goes on to step 3, or waits. -/
def passStep2 (n k : Nat) (w : WaitDesc) (s : State) : State :=
  if mayEnter s n w then enterJournal n k w s else sqMod n k (fun q => { q with waiting := some w }) s

/-! ### Posting completions (R22, R23, R411) -/

/-- Status and error record of an ended job's completion (R14, R366, R480). -/
def finalStatus (j : Job) (e : JobEnd) : Nat × Option ErrRec :=
  if e.status = 0 then
    match j.dropped with
    | some (qp, ix) => (0x0703, some { e.er with planId := jobPlanId j, detail := qp, detail2 := ix })
    | none =>
    if j.stopped then (2, some { e.er with planId := jobPlanId j })
    else if j.unmirrored then (1, none) else (0, none)
  else (e.status, if e.status = 0x0602 then none else some e.er)

/-- The completion of an ended job. -/
def jobCompl (j : Job) (e : JobEnd) : Compl :=
  let st := finalStatus j e
  { inst := j.inst, sq := j.sq, slot := j.slot, asn := j.asn, len := j.resultLen, status := st.1, gen := j.gen, er := st.2 }

/-- A job's journal entry is freed with its plan-store copy. -/
def freeEntry (jid : Nat) (s : State) : State :=
  let s := releaseSpill jid s
  match jobOf s jid with
  | none => s
  | some j =>
    { s with js := { s.js with jobs := s.js.jobs.filter fun x => x.jid ≠ jid }
             ms := { s.ms with planStore := tdel s.ms.planStore j.copy } }

/-- What follows a written completion entry: RETIRE, counters, the RAS event, MSI-X, the FINAL notice. -/
def retireJob (j : Job) (p : Posting) (s : State) : State :=
  let status := fld p.entry 0x14 2
  let s := mirror (.retire j.inst j.sq j.asn) s
  let s := freeEntry j.jid s
  let s := sqMod j.inst j.sq (fun q => { q with postAsn := j.asn + 1 }) s
  let s := countCompletion status s
  let s := match p.er with
    | some (_, bytes) => if status / 256 = 0 then s else rasLog 1 j.inst (bytes.drop 16) s
    | none => s
  let s := if j.noIrq then s else signalCq j.inst p.cq s
  match j.sender with
  | some qp => notice qp 2 j.slot p.entry s
  | none => s

/-- The record bytes of a posting that waited for its POST record's acknowledgement. -/
def heldPosting (s : State) (j : Job) (e : JobEnd) (cq : Nat) : Posting :=
  let er := match j.erSlot, (jobCompl j e).er with
    | some k, some r => some (k, leBytes 8 j.asn ++ leBytes 8 r.planId ++
        errTail r (jobCompl j e).status j.slot j.gen j.sq cq
          (match cqAt s j.inst cq with
            | some c => j.cqPos % c.entries
            | none => 0) (fld j.entry 0x20 4))
    | _, _ => none
  ⟨cq, j.cqPos, j.entry.take 32, er⟩

/-- An RDMA WRITE of the job's sinks is not yet acknowledged by the remote device (R21). -/
def sinkInFlight (s : State) (jid : Nat) : Bool :=
  s.net.qps.any fun e => !e.2.err && e.2.sendQ.any fun m => match m.why with
    | .sink j _ _ => decide (j = jid)
    | _ => false

/-- A CQ of an instance is in ERROR, so its completions wait (R309). -/
def cqStopped (s : State) (n c : Nat) : Bool :=
  match cqAt s n c with
  | some q => q.error
  | none => false

/-- The next completion of an SQ is posted, or its POST record is sent, once every sink write of the job is complete (R21,
R22, R411). In SYNCING the POST record is sent too, and the posting does not wait for it (R407, Table 20-7). -/
def postJob (n k : Nat) (s : State) : State :=
  match sqAt s n k with
  | none => s
  | some q =>
    match jobByAsn s n k q.postAsn with
    | none => s
    | some j =>
      match j.ended with
      | none => s
      | some e =>
        if j.jstate = .posting then
          if j.awaits.isSome || cqStopped s n q.cq then s
          else
            let p := heldPosting s j e q.cq
            match writePosting n p s with
            | (false, s) => s
            | (true, s) => retireJob j p s
        else if sinkInFlight s j.jid then s
        else
          match placeCompl s (jobCompl j e) with
          | .error .record =>
            if j.erWait then s else odBump 0x5000 9 (jobMod j.jid (fun j => { j with erWait := true }) s)
          | .error .cq => s
          | .ok p =>
            let seq := (inst s n).erSeq
            let s := reserveEr n p s
            if pairState s = 2 || pairState s = 3 then
              let num := s.tw.nextRec
              let slot := match cqAt s n p.cq with
                | some c => p.pos % c.entries
                | none => 0
              let j' := { j with
                jstate := .posting, cqPos := p.pos, cqSlot := slot, erSlot := p.er.map (·.1)
                awaits := if pairState s = 3 then some num else none
                entry := p.entry ++ leBytes 4 seq }
              let s := sendItem false (.post (journalEntry j')) (jobMod j.jid (fun _ => j') s)
              if pairState s = 3 then s
              else
                let p := heldPosting s j' e p.cq
                match writePosting n p s with
                | (false, s) => s
                | (true, s) => retireJob j' p s
            else
              match writePosting n p s with
              | (false, s) => s
              | (true, s) => retireJob j p s

/-- Refusals that wait, and then the next completion of an SQ. -/
def postCompletions (n k : Nat) (s : State) : State :=
  if postOpen s n then
    let held := (inst s n).refusals
    postJob n k (postRefusals n held s)
  else s

end Sys2Proof.Machine
end

