-- ==== Sys2Proof/Machine/Admit.lean ====
section
/-! DEFINITION. Admission of descriptors, head write-back, completions and deadlines as commands (R9 to R15, R22, R69,
R301 to R309). -/

namespace Sys2Proof.Machine

/-! ### Step 1: the descriptor's checks (R302) -/

/-- DFLAGS bit. -/
def dflag (d : List Byte) (i : Nat) : Bool := (fld d 1 1).testBit i

/-- Check 1: PASS of a host SQ. -/
def checkPass (q : SubQ) (d : List Byte) : Option Refuse :=
  refuseIf (!q.network && fld d 2 1 ≠ passOf q q.fetch)
    { status := 0x0105, detail := passOf q q.fetch, detail2 := fld d 2 1 }

/-- Check 2: GENERATION. -/
def checkGen (s : State) (n : Nat) (d : List Byte) : Option Refuse :=
  refuseIf (fld d 4 2 ≠ instGen s n) { status := 0x0107 }

/-- Whether a field that the KIND does not use is not 0: the fields of Table 14-8 (log entry 20). -/
def unusedSet (d : List Byte) : Bool :=
  let kind := fld d 0 1
  let planFields := dflag d 1 || dflag d 2 || dflag d 3 || dflag d 4 || fld d 8 8 ≠ 0 || fld d 0x10 4 ≠ 0 ||
    fld d 0x14 4 ≠ 0 || fld d 0x18 8 ≠ 0
  let cancelFields := fld d 0x28 8 ≠ 0 || fld d 0x30 1 ≠ 0
  (kind ≠ 1 && planFields) || (kind ≠ 2 && cancelFields)

/-- Check 3: KIND, PRIORITY, unused fields, alignment of PLAN_ADDR. -/
def checkKind (d : List Byte) : Option Refuse :=
  refuseIf (2 < fld d 0 1 || 63 < fld d 3 1 || unusedSet d || (fld d 0 1 = 1 && fld d 8 8 % 64 ≠ 0))
    { status := 0x0108 }

/-- Check 4 without the image: INLINE_LENGTH, the SEND's length, inline blocks. -/
def checkLengths (q : SubQ) (d : List Byte) : Option Refuse :=
  let il := fld d 0x20 4
  refuseIf ((!q.network && il ≠ 0) ||
    (q.network && (128 + il ≠ tget 0 q.sends q.fetch || q.slotBytes < 128 + il)) ||
    (dflag d 1 && il < fld d 8 8 + fld d 0x10 4) || (dflag d 2 && il < fld d 0x18 8 + fld d 0x14 4)) { status := 0x0104 }

/-- Check 4 against the image's header: IMAGE_LENGTH and PARAM_COUNT. -/
def checkHeadLengths (d head : List Byte) : Option Refuse :=
  refuseIf (fld d 0x10 4 ≠ imgLength head || fld d 0x14 4 ≠ 16 * imgParams head) { status := 0x0104 }

/-! ### Steps 1 to 3 -/

/-- Place of a plan or parameter block: inline, host, or device (Table 14-8). -/
def blockPlace (q : SubQ) (d : List Byte) (inl host addr : Nat) : Place3 :=
  if dflag d inl then .inDevice (sqSlotAddr q q.fetch + 128 + addr)
  else if dflag d host then .inHost addr else .inDevice addr

/-- The kind a descriptor's KIND byte names; an unknown one is taken with the NOPs, which refuse it. -/
def descKind (d : List Byte) : DescKind :=
  if fld d 0 1 = 1 then .plan else if fld d 0 1 = 2 then .cancel else .nop

/-- Error record of a refusal. -/
def refuseRec (r : Refuse) (planId : Nat) : ErrRec :=
  { planId := planId, detail := r.detail, detail2 := r.detail2, reason := r.reason, index := r.index, unit := 0xFE }

/-- Steps 1 to 3 of Table 01-1 for the next descriptor of an SQ, read at its slot. -/
def admitDesc (n k : Nat) (q : SubQ) (d : List Byte) (s : State) : State :=
  let pos := q.fetch
  let bad := fun (r : Refuse) (planId : Nat) (s : State) =>
    refuseDesc n k pos r.status (refuseRec r planId) (dflag d 0) s
  let prio := min (fld d 3 1) (od s (instIdx n) 6)
  let quota := od s (instIdx n) 8
  match checkPass q d <|> checkGen s n d <|> checkKind d <|> checkLengths q d with
  | some r => bad r 0 s
  | none =>
    match descKind d with
    | .plan =>
      let place := blockPlace q d 1 3 (fld d 8 8)
      match placeRead n place 0 128 s with
      | (none, s) => bad (planInvalid 0x0F 0xFFFF) 0 s
      | (some head, s) =>
        let id := fld head 0x38 8
        match checkHeadLengths d head with
        | some r => bad r id s
        | none =>
          match admitPlan n head place (blockPlace q d 2 4 (fld d 0x18 8)) s with
          | (.error r, s) => bad r id s
          | (.ok (p, spill), s) => passStep2 n k ⟨.plan, d, some p, spill, prio, quota⟩ s
    | kind => passStep2 n k ⟨kind, d, none, 0, prio, quota⟩ s

/-- Admission of an SQ's next descriptor if it is of the kind named: read, checked, accepted or refused (R9, R10, R309). A slot
that was accepted before a return is passed over (R420). -/
def admitNext (kind : DescKind) (n k : Nat) (s : State) : State :=
  match sqAt s n k with
  | none => s
  | some q =>
    let pendingJob := s.js.jobs.any fun j => j.inst = n && j.sq = k && j.gen = instGen s n && j.jstate = .pending
    if !admitOpen s n || q.error || q.waiting.isSome || pendingJob || !slotVisible q then s
    else if q.taken.contains q.fetch then advanceHead n k (sqMod n k (fun q => { q with fetch := q.fetch + 1 }) s)
    else
      match locRead q.loc 0xFE n (sqSlotAddr q q.fetch) 128 s with
      | (.error e, s) => sqMod n k (fun q => { q with error := true }) (noteViolation e s)
      | (.ok d, s') => if descKind d = kind then admitDesc n k q d s' else s

/-! ### The commands -/

/-- NOP (R301): the next descriptor of an SQ, a NOP or of no known KIND, is taken. -/
def execNop (inst : Inst) (sq : Fin 16) (s : State) : Host.Outcome State Fault Refusal :=
  .next (admitNext .nop inst.val sq.val s)

/-- PLAN (R67): the next descriptor of an SQ, a PLAN, is taken. -/
def execPlan (inst : Inst) (sq : Fin 16) (s : State) : Host.Outcome State Fault Refusal :=
  .next (admitNext .plan inst.val sq.val s)

/-- CANCEL (R304): the next descriptor of an SQ, a CANCEL, is taken. -/
def execCancel (inst : Inst) (sq : Fin 16) (s : State) : Host.Outcome State Fault Refusal :=
  .next (admitNext .cancel inst.val sq.val s)

/-- A descriptor that waits takes its reservation and its entry, once there is room (R15, R69). -/
def reserveWaiting (n k : Nat) (s : State) : State :=
  match sqAt s n k with
  | none => s
  | some q =>
    match q.waiting with
    | none => s
    | some w => if admitOpen s n && !q.error && mayEnter s n w then enterJournal n k w s else s

/-- SPILL_RESERVATION (R69). -/
def execSpillReservation (inst : Inst) (sq : Fin 16) (s : State) : Host.Outcome State Fault Refusal :=
  .next (unlessHold s (reserveWaiting inst.val sq.val s))

/-- SQ_HEAD_WRITEBACK (R307). -/
def execSqHeadWriteback (inst : Inst) (sq : Fin 16) (s : State) : Host.Outcome State Fault Refusal :=
  .next (if s.mode = .hold || instSt s inst.val = 0 then s else writeHead inst.val sq.val (advanceHead inst.val sq.val s))

/-- COMPLETION_POST (R22). -/
def execCompletionPost (inst : Inst) (sq : Fin 16) (s : State) : Host.Outcome State Fault Refusal :=
  .next (postCompletions inst.val sq.val s)

/-- COALESCE_TIMEOUT (R308): COAL_TIME after the first unsignalled entry. -/
def execCoalesceTimeout (inst : Inst) (cq : Fin 16) (s : State) : Host.Outcome State Fault Refusal :=
  .next (match cqAt s inst.val cq.val with
    | some q =>
      if q.unsignalled = 0 then s
      else sendMsix inst.val q.vector (cqMod inst.val cq.val (fun q => { q with unsignalled := 0 }) s)
    | none => s)

/-- DEADLINE (R303): the job fails if it has not finished; DEADLINE counts stand still while FROZEN (R325). -/
def execDeadline (inst : Inst) (sq : Fin 16) (asn : Nat) (s : State) : Host.Outcome State Fault Refusal :=
  .next (unlessHold s (match jobByAsn s inst.val sq.val asn with
    | some j =>
      if j.deadline = 0 || j.jstate = .pending || instSt s inst.val = 4 then s else failJob j.jid 0x0402 {} s
    | none => s))

end Sys2Proof.Machine
end

