-- ==== Sys2Proof/Machine/Glume.lean ====
section
/-! DEFINITION. The Glume array: searches, loads, the LOOKUP stage (chapter 19); running a stage. -/

namespace Sys2Proof.Machine

/-! ### Running stages -/

/-- The stage ends every output and has no more to do. -/
def stageDone (slot : Nat) (s : State) : State := engMod slot (fun e => { e with done := true }) (endOuts slot s)

/-- The stage's whole result is formed: it ends its outputs once the result has left (R66, R70). -/
def stageEnds (slot : Nat) (s : State) : State :=
  match taskAt s slot with
  | none => s
  | some t =>
    if !isRunning t then s
    else if t.eng.results.isEmpty then stageDone slot s
    else engMod slot (fun g => { g with last := true }) s

/-- A stage's unit acts while its task is RUNNING, its operator is one of those given, and its outputs are not ended:
what waits leaves first, and while some of it still waits the unit stalls (R18), as it does while a zone of its units is not
ON (Table 22-6). -/
def runStage (slot : Nat) (ops : List Nat) (f : Task → State → State) (s : State) : State :=
  match taskAt s slot with
  | none => s
  | some t =>
    if isRunning t && unitsOn s t && ops.contains (taskStage s t).op && !t.eng.done then
      let s := drain slot s
      match taskAt s slot with
      | none => s
      | some t =>
        if !isRunning t || !t.eng.results.isEmpty then s
        else if t.eng.last then stageDone slot s
        else f t s
    else s

/-- The unit of a task shows a STATE; it shows it again when the task is dispatched again (Tables 04-10, 05-11, 06-11, 06-12). -/
def showState (slot v : Nat) (s : State) : State :=
  match taskAt s slot with
  | none => s
  | some t => setUnitState t.unit v (engMod slot (fun g => { g with shown := v }) s)

/-- The task in a slot runs still, after a step that may have failed or parked it. -/
def stillRuns (slot : Nat) (s : State) : Bool :=
  match taskAt s slot with
  | some t => isRunning t
  | none => false

/-! ### Groups -/

/-- A bank group. -/
def group (s : State) (g : Nat) : Group := tget {} s.js.groups g

/-- The state with a group changed. -/
def groupMod (g : Nat) (f : Group → Group) (s : State) : State :=
  { s with js := { s.js with groups := tmod {} s.js.groups g f } }

/-- Dictionary index of group g (Table 19-4). -/
def groupIdx (g : Nat) : Nat := 0x3E10 + g

/-- Whether an entry matches a key (R388). -/
def GEntry.hits (e : GEntry) (key : Nat) : Bool := e.valid && (key ^^^ e.value) &&& e.mask = 0

/-- What a search returns: COUNT, and the winner's index and entry (R389). -/
structure Found where
  count : Nat
  first : Option (Nat × GEntry)
  deriving DecidableEq, Repr

/-- A search of a group (R389): highest PRIORITY, then lowest index. -/
def gsearch (g : Group) (key : Nat) : Found :=
  let ms := g.entries.filter fun e => e.2.hits key
  { count := ms.length
    first := ms.foldl (fun best e => match best with
      | none => some e
      | some b => if b.2.prio < e.2.prio then some e else some b) none }

/-- A search counted in the group's entries (Table 19-4). -/
def countSearch (g : Nat) (f : Found) (s : State) : State :=
  let s := odBump (groupIdx g) 5 s
  if 0 < f.count then odBump (groupIdx g) 6 s else s

/-- Rows that meet a test are written, with right parity. -/
def healRows (p : Nat × Nat → Bool) (s : State) : State :=
  { s with js := { s.js with badRows := s.js.badRows.filter fun x => !p x } }

/-- Whether a row of an entry holds a parity error: checked whenever the entry wins a search (R398). -/
def rowsBad (s : State) (g i : Nat) : Bool := ((group s g).rowsOf i).any s.js.badRows.contains

/-- A group loaded with entries from index 0, each one indivisible change (R391). -/
def gload (g width : Nat) (es : List GEntry) (s : State) : State :=
  let s := odAdd (groupIdx g) 7 es.length
    (groupMod g (fun x => { x with width := width, entries := es.zipIdx.map fun (e, i) => (i, e) }) s)
  let rows := (List.range es.length).flatMap (group s g).rowsOf
  healRows rows.contains s

/-! ### LOOKUP (R395 to R398) -/

/-- The entries of a LOOKUP operand (Table 19-3). -/
def lookupEntries (img op : List Byte) : List GEntry :=
  let w := lookupW op
  (List.range (fld op 4 4)).map fun i =>
    let r := lookupEntry img op i
    { value := fld r 0 w, mask := fld r w w, prio := fld r (2 * w) 1, valid := (fld r (2 * w + 1) 1).testBit 0
      result := fld r (2 * w + 4) 4 }

/-- One element searched: its elements on outputs 0 and 1 (R396). A parity error in the winning row fails the job
with ENGINE_FAULT (R398). -/
def lookupOne (slot g : Nat) (e : Elem) (s : State) : State :=
  match e with
  | none => emitRows slot [[none, some (leBytes 4 0)]] s
  | some b =>
    let f := gsearch (group s g) (leNat b)
    let s := countSearch g f s
    match f.first with
    | none => emitRows slot [[none, some (leBytes 4 0)]] s
    | some (i, x) =>
      if rowsBad s g i then failTask slot 0x0502 {} (odBump 0x3E00 3 s)
      else emitRows slot [[some (leBytes 4 x.result), some (leBytes 4 f.count)]] s

/-- LOOKUP: every element that has arrived is searched in the group that placement loaded. -/
def runLookup (slot : Nat) (t : Task) (s : State) : State :=
  let g := t.unit - 0xB0
  let s := engMod slot (fun e => { e with started := true }) s
  let (rows, s) := takeRows slot s
  let s := rows.foldl (fun s r => if stillRuns slot s then lookupOne slot g (r.getD 0 none) s else s) s
  match taskAt s slot with
  | some t => if insDone t then stageEnds slot s else s
  | none => s

/-- LOOKUP (R395 to R398). -/
def execLookup (slot : Nat) (s : State) : Host.Outcome State Fault Refusal :=
  .next (runStage slot [0x50] (runLookup slot) s)

end Sys2Proof.Machine
end

