-- ==== Sys2Proof/Machine/Spill.lean ====
section
/-! DEFINITION. Memory accesses of the Mash, sort and aggregate engines, block by block, and the spill a task holds
(R69, R114, R139, R264, R271). -/

namespace Sys2Proof.Machine

/-- SPILL_BYTES of an engine: its place in Tables 05-11, 06-11 and 06-12. -/
def spillSub (unit : Nat) : Nat := if unit < 0x98 then 7 else 5

/-- The first access due has been made. -/
def ioPop (slot : Nat) (s : State) : State := engMod slot (fun g => { g with io := g.io.drop 1 }) s

/-- Free bytes, as many as asked for. -/
def freeBytes (n : Nat) (s : State) : List Byte × State :=
  let b := (List.range n).map fun i => BitVec.ofNat 8 (Config.freeValue (s.freeCtr + i))
  (b, { s with freeCtr := s.freeCtr + n })

/-- A block is written and counted. -/
def ioWrite (slot : Nat) (t : Task) (addr : Nat) (bytes : List Byte) (s : State) : State :=
  match devWrite t.unit (.inst t.inst) addr bytes s with
  | (some e, s) => accessFailed slot true 0xFF e s
  | (none, s) => ioPop slot (unitCount t.unit (spillSub t.unit) bytes.length s)

/-- One access. A translation fault parks the stage before the block, which is accessed again after the fault is
resolved (Tables 05-9 and 06-9). -/
def ioStep (slot : Nat) (t : Task) (o : IoOp) (s : State) : State :=
  match o with
  | .read a n =>
    match devRead t.unit (.inst t.inst) a n s with
    | (.error e, s) => accessFailed slot false 0xFF e s
    | (.ok bs, s) => ioPop slot (engMod slot (fun g => { g with bytes := g.bytes ++ bs }) s)
  | .write a bs => ioWrite slot t a bs s
  | .scratch a n =>
    let (bs, s) := freeBytes n s
    ioWrite slot t a bs s
  | .runDone => ioPop slot (unitCount t.unit 4 1 s)

/-- The accesses due are made in order, until one fails or parks the stage. -/
def runIo (slot : Nat) : List IoOp → State → State
  | [], s => s
  | o :: rest, s =>
    match taskAt s slot with
    | none => s
    | some t => if isRunning t then runIo slot rest (ioStep slot t o s) else s

/-- Accesses join those due. -/
def ioAdd (slot : Nat) (ops : List IoOp) (s : State) : State := engMod slot (fun g => { g with io := g.io ++ ops }) s

/-- The bytes read are taken by the stage. -/
def ioClear (slot : Nat) (s : State) : State := engMod slot (fun g => { g with bytes := [] }) s

/-- Pieces of at most 4 KiB of a range, none across a boundary of 4 KiB. -/
def ioPieces (addr len : Nat) : List (Nat × Nat) := pageSplit addr len

/-- Reads of a range. -/
def ioReads (addr len : Nat) : List IoOp := (ioPieces addr len).map fun p => .read p.1 p.2

/-! ### Spill (R69) -/

/-- The part of a list of extents that a range of offsets lies in; offsets beyond the extents have none. -/
def spillPieces : List (Nat × Nat) → Nat → Nat → List (Nat × Nat)
  | [], _, _ => []
  | (a, n) :: rest, off, len =>
    if n ≤ off then spillPieces rest (off - n) len
    else if len ≤ n - off then (if len = 0 then [] else [(a + off, len)])
    else (a + off, n - off) :: spillPieces rest 0 (len - (n - off))

/-- Reads of a range of a task's spill. -/
def spillReads (t : Task) (off len : Nat) : List IoOp := (spillPieces t.spill off len).flatMap fun p => ioReads p.1 p.2

/-- Writes of bytes to a task's spill from an offset. -/
def spillWrites (t : Task) (off : Nat) (bytes : List Byte) : List IoOp :=
  ((spillPieces t.spill off bytes.length).foldl (fun (acc : List IoOp × List Byte) p =>
    let q := (ioPieces p.1 p.2).foldl (fun (acc : List IoOp × List Byte) x =>
      (acc.1 ++ [.write x.1 (acc.2.take x.2)], acc.2.drop x.2)) acc
    q) ([], bytes)).1

/-- Writes of content without a stated layout to a task's spill. -/
def spillScratch (t : Task) (off len : Nat) : List IoOp :=
  (spillPieces t.spill off len).flatMap fun p => (ioPieces p.1 p.2).map fun x => .scratch x.1 x.2

/-- A task's spill as placed: the lowest addresses of its instance's pool that no placed task has. DESIGN CHOICE
(log 62): no rule says which addresses of the pool a stage's spill lies at. -/
def spillExtents (base len need : Nat) (held : List (Nat × Nat)) : List (Nat × Nat) :=
  let sorted := sortBy (fun a b => a.1 ≤ b.1) (held.filter fun h => 0 < h.2)
  let gaps := sorted.foldl (fun (acc : List (Nat × Nat) × Nat) h =>
    (if acc.2 < h.1 then acc.1 ++ [(acc.2, h.1 - acc.2)] else acc.1, max acc.2 (h.1 + h.2))) ([], base)
  let all := if gaps.2 < base + len then gaps.1 ++ [(gaps.2, base + len - gaps.2)] else gaps.1
  (all.foldl (fun (acc : List (Nat × Nat) × Nat) g =>
    if acc.2 = 0 then acc else (acc.1 ++ [(g.1, min g.2 acc.2)], acc.2 - min g.2 acc.2)) ([], need)).1

/-! ### Parts -/

/-- A block number that none of the parts has: the lowest. -/
def freeBlock (used : List Nat) : Nat := ((List.range (used.length + 1)).find? fun b => !used.contains b).getD 0

/-- A row joins a part; a block that it fills is written at once and numbered (R113 step 2). The tuple is the part,
and the block that became full. -/
def partAdd (used : List Nat) (row : List Elem) (width : Nat) (p : SpillPart) : SpillPart × Option Nat :=
  let fill := p.fill + width
  if fill < 4096 then ({ p with rows := p.rows ++ [row], fill := fill }, none)
  else
    let b := freeBlock used
    ({ p with rows := p.rows ++ [row], fill := fill - 4096, blocks := p.blocks ++ [b] }, some b)

/-- The part of a number among those given; a new one if there is none. -/
def partOf (ps : List SpillPart) (id : Nat) : SpillPart := (ps.find? fun p => p.id = id).getD { id := id }

/-- A part put among those given, in order of number. -/
def partPut (p : SpillPart) : List SpillPart → List SpillPart
  | [] => [p]
  | q :: qs => if q.id = p.id then p :: qs else if p.id < q.id then p :: q :: qs else q :: partPut p qs

/-- Blocks that parts have. -/
def partBlocks (ps : List SpillPart) : List Nat := ps.flatMap (·.blocks)

end Sys2Proof.Machine
end

