-- ==== Sys2Proof/Machine/MashEng.lean ====
section
/-! DEFINITION. Mash engines: HASH_BUILD, HASH_PROBE, PARTITION (chapter 05). -/

namespace Sys2Proof.Machine

/-- The first KC elements of a row: its key. -/
def rowKey (kc : Nat) (row : List Elem) : List Elem := row.take kc

/-- NULLS_EQUAL of MFLAGS. -/
def nullsEqual (mflags : Nat) : Bool := mflags.testBit 0

/-- The first row whose key is too long: its place and its port (R101). -/
def findLong (ks : List KeySpec) (rows : List (List Elem)) : Option (Nat × Nat) :=
  rows.zipIdx.findSome? fun (r, i) => (longKey ks r).map fun p => (i, p)

/-- Rows are taken up to one whose key is too long, which fails the job with KEY_LENGTH (R101, R121). -/
def takeKeyed (slot : Nat) (ks : List KeySpec) (taken : Nat) (s : State) : List (List Elem) × State :=
  let (rows, s) := takeRows slot s
  match findLong ks rows with
  | some (i, p) => (rows.take i, failTask slot 0x0210 { detail := taken + i, index := p } s)
  | none => (rows, s)

/-! ### Table image (R102 to R104) -/

/-- A row to be inserted. -/
structure TRow where
  image : List Word
  hash : Nat
  unlinked : Bool
  hasNull : Bool
  payload : List Byte
  deriving DecidableEq, Repr

/-- A bucket or pool bucket in the making: tag and head of each slot, and the next pool bucket. -/
structure Bucket where
  slots : List (Nat × Nat) := []
  next : Option Nat := none
  deriving DecidableEq, Repr

/-- A sub-table in the making: buckets and pool buckets by node (pool bucket i is node 2^B + i), pool buckets used,
NEXT_DUP by entry, last entry of each head's chain, the longest walk. -/
structure SubTab where
  nodes : Tbl Bucket := []
  pool : Nat := 0
  dup : Tbl Nat := []
  tail : Tbl Nat := []
  /-- Buckets of the longest chain walked (Table 05-11). -/
  walk : Nat := 0
  deriving DecidableEq, Repr

/-- BUCKET_BITS of n entries (R102). -/
def bucketBits (n : Nat) : Nat := ((List.range 40).find? fun b => max 1 ((n + 3) / 4) ≤ 2 ^ b).getD 40

/-- Pool buckets of a sub-table. -/
def poolSize (b : Nat) : Nat := max 1 (2 ^ b / 2)

/-- Bytes of a sub-table. -/
def subBytes (b n e : Nat) : Nat := 64 * 2 ^ b + 64 * poolSize b + e * n

/-- The entry that heads an equal key in a bucket chain, walking from a node, and the buckets walked. -/
def findHead (rows : Array TRow) (t : SubTab) (r : TRow) : Nat → Nat → Nat → Option Nat × Nat
  | 0, _, walked => (none, walked)
  | fuel + 1, node, walked =>
    let b := tget {} t.nodes node
    match b.slots.find? fun (_, h) => match rows[h]? with
      | some x => x.image = r.image
      | none => false with
    | some (_, h) => (some h, walked + 1)
    | none => match b.next with
      | some n => findHead rows t r fuel n (walked + 1)
      | none => (none, walked + 1)

/-- The row takes the lowest free slot of its chain, or slot 0 of a new pool bucket (R104 item 4). -/
def addHead (nb : Nat) (slot : Nat × Nat) : Nat → Nat → SubTab → SubTab
  | 0, _, t => t
  | fuel + 1, node, t =>
    let b := tget {} t.nodes node
    if b.slots.length < 8 then { t with nodes := tset t.nodes node { b with slots := b.slots ++ [slot] } }
    else match b.next with
      | some n => addHead nb slot fuel n t
      | none =>
        let n := nb + t.pool
        { t with
          pool := t.pool + 1
          nodes := tset (tset t.nodes node { b with next := some n }) n { slots := [slot] } }

/-- Entry i of a sub-table is placed (R104). -/
def placeRow (rows : Array TRow) (bits : Nat) (t : SubTab) (i : Nat) : SubTab :=
  match rows[i]? with
  | none => t
  | some r =>
    if r.unlinked then t
    else
      let nb := 2 ^ bits
      let node := r.hash % nb
      let f := findHead rows t r (rows.size + 2) node 0
      let t := { t with walk := max t.walk f.2 }
      match f.1 with
      | some h =>
        let last := tget h t.tail h
        { t with dup := tset t.dup last (i + 1), tail := tset t.tail h i }
      | none => addHead nb (bitsOf r.hash 47 32, i) (rows.size + 2) node t

/-- A bucket's 64 bytes (Table 05-4). -/
def bucketBytes (nb : Nat) (b : Bucket) : List Byte :=
  ((List.range 8).flatMap fun i => leBytes 2 (b.slots.getD i (0, 0)).1) ++
  ((List.range 8).flatMap fun i => leBytes 4 (b.slots.getD i (0, 0)).2) ++
  leBytes 4 (match b.next with
    | some n => n - nb + 1
    | none => 0) ++ leBytes 1 b.slots.length ++ List.replicate 11 0

/-- An entry's bytes (Table 05-5). -/
def entryBytes (e : Nat) (r : TRow) (dup : Nat) : List Byte :=
  slice (leBytes 4 dup ++ leBytes 1 (if r.unlinked then 1 else 0) ++ List.replicate 3 0 ++ leBytes 8 r.hash ++
    (r.image.flatMap fun w => leBytes 8 w.toNat) ++ r.payload) 0 e

/-- A sub-table built of rows (R104). -/
def subTab (rows : List TRow) : SubTab := (List.range rows.length).foldl (placeRow rows.toArray (bucketBits rows.length)) {}

/-- A sub-table's bytes: buckets, pool, arena (R102). -/
def subImage (e : Nat) (rows : List TRow) : List Byte :=
  let bits := bucketBits rows.length
  let nb := 2 ^ bits
  let t := subTab rows
  ((List.range (nb + poolSize bits)).flatMap fun n => bucketBytes nb (tget {} t.nodes n)) ++
  (rows.zipIdx.flatMap fun (r, i) => entryBytes e r (tget 0 t.dup i))

/-- The sub-table of a hash (R99). -/
def subOf (p h : Nat) : Nat := if p = 0 then 0 else h / 2 ^ (64 - p)

/-- The rows of each sub-table. -/
def subRows (p : Nat) (rows : List TRow) : List (List TRow) := (List.range (2 ^ p)).map fun i => rows.filter fun r => subOf p r.hash = i

/-- The longest bucket chain that a build walks (Table 05-11). DESIGN CHOICE (log 65): the bucket array is sized by ENTRY_COUNT
(R102), so that rows are linked, and chains walked, when the last row has come. -/
def buildWalk (p : Nat) (rows : List TRow) : Nat := ((subRows p rows).map fun rs => (subTab rs).walk).foldl max 0

/-- The whole table image (R102). -/
def tableImage (op layout : List Byte) (kw e : Nat) (rows : List TRow) : List Byte :=
  let p := fld op 1 1
  let subs := subRows p rows
  let start := roundUp (0x100 + 16 * 2 ^ p) 64
  let body := subs.foldl (fun (acc : List Byte × List Byte × Nat) rs =>
    let b := bucketBits rs.length
    let dir := leBytes 8 acc.2.2 ++ leBytes 4 rs.length ++ leBytes 1 b ++ [0, 0, 0]
    let n := subBytes b rs.length e
    (acc.1 ++ dir, acc.2.1 ++ slice (subImage e rs) 0 (roundUp n 64), acc.2.2 + roundUp n 64)) ([], [], start)
  let total := body.2.2
  let flags := (if nullsEqual (fld op 2 1) then 1 else 0) + (if rows.any (·.hasNull) then 2 else 0)
  let head := leBytes 4 0x31544859 ++ [1] ++ slice op 0 1 ++ slice op 1 1 ++ leBytes 1 flags ++ slice op 8 8 ++
    leBytes 8 rows.length ++ leBytes 4 e ++ leBytes 1 kw ++ [0, 0, 0] ++ slice op 0x10 32 ++ slice layout 0 80 ++
    leBytes 8 total ++ List.replicate 100 0
  let head := slice head 0 0xFC
  slice (head ++ leBytes 4 (crc32c head) ++ body.1) 0 start ++ body.2.1

/-- An input row as a table row. -/
def tableRow (ks : List KeySpec) (seed : Nat) (ne : Bool) (row : List Elem) : TRow :=
  let key := rowKey ks.length row
  let im := keyImage ks key
  { image := im, hash := (mashHash im (BitVec.ofNat 64 seed)).toNat, unlinked := !ne && keyUnmatchable ks key
    hasNull := key.any Option.isNone, payload := ((row.getD ks.length none)).getD [] }

/-- Bytes are written to a buffer in 4 KiB blocks from a cursor kept in the engine (Table 05-9); the whole
written, the stage is done. -/
def writeBlocks (slot unit n base : Nat) (bytes : List Byte) : Nat → State → State
  | 0, s => s
  | fuel + 1, s =>
    match taskAt s slot with
    | none => s
    | some t =>
      let at_ := t.eng.c
      if bytes.length ≤ at_ then stageDone slot s
      else
        match devWrite unit (.inst n) (base + at_) ((bytes.drop at_).take 4096) s with
        | (some e, s) => accessFailed slot true 0xFF e s
        | (none, s) => writeBlocks slot unit n base bytes fuel (engMod slot (fun e => { e with c := at_ + 4096 }) s)

/-- PAYLOAD_LAYOUT: the row layout entry of an image, its reserved bytes 0 (R104); zeros for none. -/
def layoutBytes (img : List Byte) (e : Option StreamEnt) : List Byte :=
  match e with
  | some x =>
    if x.ty = tyPacked then
      let l := slice img (fld img 0x2C 4 + 80 * x.layout) 80
      slice (slice l 0 3) 0 8 ++ slice (slice l 8 64) 0 72
    else List.replicate 80 0
  | none => List.replicate 80 0

/-- HASH_BUILD: rows are inserted as they arrive; after the last, the image is written. -/
def runBuild (slot : Nat) (t : Task) (s : State) : State :=
  let img := taskImg s t
  let e := taskStage s t
  let op := taskOperand s t
  let kc := opKeyCount op
  let ks := mashKeys img t.stage op 0x10 kc
  let s := if t.eng.started then s else engMod slot (fun g => { g with started := true }) (showState slot 2 s)
  let (rows, s) := takeKeyed slot ks t.eng.a s
  let s := unitCount t.unit 3 rows.length s
  let s := engMod slot (fun g => { g with rows := g.rows ++ rows, a := g.a + rows.length }) s
  match taskAt s slot with
  | none => s
  | some t =>
    if isRunning t && insDone t then
      let w := payloadWidth img t.stage e kc
      let kw := keyWords ks
      let rs := t.eng.rows.map (tableRow ks (fld op 8 8) (nullsEqual (fld op 2 1)))
      let im := tableImage op (layoutBytes img ((payloadPort e kc).bind fun p => inEntOf img t.stage p)) kw
        (tableEntryBytes kw w) rs
      let s := match unitIdx t.unit with
        | some i => odMax32 i 8 (buildWalk (fld op 1 1) rs) s
        | none => s
      writeBlocks slot t.unit t.inst (taskBuffer s t 0).1 im (im.length / 4096 + 2) s
    else s

/-- HASH_BUILD (R101 to R105). -/
def execHashBuild (slot : Nat) (s : State) : Host.Outcome State Fault Refusal :=
  .next (runStage slot [0x10] (runBuild slot) s)

/-! ### Reading a table (R108, R109) -/

/-- A payload row layout held in a table header. -/
def layoutOfBytes (b : List Byte) : Layout :=
  { width := fld b 0 1, validAt := fld b 2 1
    fields := (List.range (min 16 (fld b 1 1))).map fun i =>
      let p := 8 + 4 * i
      { ty := fld b p 1, tparam := fld b (p + 1) 1, prec := fld b (p + 2) 1, off := fld b (p + 3) 1 } }

/-- A directory entry of a table: offset, entries, bucket bits. -/
structure DirEnt where
  off : Nat
  count : Nat
  bits : Nat
  deriving DecidableEq, Repr

/-- Directory entry i. -/
def dirEnt (tb : List Byte) (i : Nat) : DirEnt :=
  let o := 0x100 + 16 * i
  { off := fld tb o 8, count := fld tb (o + 8) 4, bits := fld tb (o + 12) 1 }

/-- The offset of the first header field that fails the check of R108; `maps` are the mapped build fields with the
output fields they fill. -/
def headerBad (hd op : List Byte) (kw : Nat) (buf : Nat) (maps : List (Nat × LayoutField)) : Option Nat :=
  let l := layoutOfBytes (slice hd 0x40 80)
  let width := if allZero (slice hd 0x40 80) then 0 else l.width
  let checks : List (Bool × Nat) := [ (fld hd 0 4 ≠ 0x31544859, 0), (fld hd 4 1 ≠ 1, 4), (fld hd 0xFC 4 ≠ crc32c (hd.take 0xFC), 0xFC),
     (slice hd 5 1 ≠ slice op 0 1, 5), (12 < fld hd 6 1, 6),
     (nullsEqual (fld hd 7 1) ≠ nullsEqual (fld op 2 1), 7), (slice hd 8 8 ≠ slice op 8 8, 8),
     (fld hd 0x18 4 ≠ tableEntryBytes kw width, 0x18), (fld hd 0x1C 1 ≠ kw, 0x1C),
     (slice hd 0x20 32 ≠ slice op 0x10 32, 0x20),
     (maps.any fun m => !fieldIs (l.field? m.1) m.2.ty m.2.tparam m.2.prec, 0x40),
     (buf < fld hd 0x90 8, 0x90) ]
  (checks.find? (·.1)).map (·.2)

/-- The offset of the first directory entry whose sub-table does not fit (R108). -/
def directoryBad (tb : List Byte) : Option Nat :=
  let total := fld tb 0x90 8
  let p := 2 ^ fld tb 6 1
  if total < 0x100 + 16 * p then some 0x90
  else ((List.range p).find? fun i =>
    let d := dirEnt tb i
    40 < d.bits || total < d.off + subBytes d.bits d.count (fld tb 0x18 4)).map fun i => 0x100 + 16 * i

/-- Offset of a node of a sub-table. -/
def nodeOff (d : DirEnt) (n : Nat) : Nat := d.off + 64 * n

/-- Offset of an arena entry. -/
def arenaOff (tb : List Byte) (d : DirEnt) (i : Nat) : Nat :=
  d.off + 64 * 2 ^ d.bits + 64 * poolSize d.bits + fld tb 0x18 4 * i

/-- The entries of a NEXT_DUP chain from an entry, checked (R108). -/
def dupChain (tb : List Byte) (d : DirEnt) : Nat → Nat → Except Nat (List Nat)
  | 0, i => .error (arenaOff tb d i)
  | fuel + 1, i =>
    let o := arenaOff tb d i
    let nx := fld tb o 4
    if nx = 0 then .ok [i]
    else if d.count < nx then .error o
    else match dupChain tb d fuel (nx - 1) with
      | .error e => .error e
      | .ok l => .ok (i :: l)

/-- The entries a key matches in a bucket chain from a node, and the buckets walked (R108, R109). -/
def chainMatches (tb : List Byte) (d : DirEnt) (hash : Nat) (key : List Byte) : Nat → Nat → Nat → Except Nat (List Nat × Nat)
  | 0, node, _ => .error (nodeOff d node)
  | fuel + 1, node, walked =>
    let o := nodeOff d node
    let n := fld tb (o + 0x34) 1
    let ov := fld tb (o + 0x30) 4
    if 8 < n then .error (o + 0x34)
    else if poolSize d.bits < ov then .error (o + 0x30)
    else
      let heads := (List.range n).map fun k => (fld tb (o + 2 * k) 2, fld tb (o + 0x10 + 4 * k) 4, o + 0x10 + 4 * k)
      let here := heads.foldl (fun (acc : Except Nat (List Nat)) h => match acc with
        | .error e => .error e
        | .ok l =>
          if h.1 ≠ bitsOf hash 47 32 then .ok l
          else if d.count ≤ h.2.1 then .error h.2.2
          else
            let a := arenaOff tb d h.2.1
            if fld tb (a + 8) 8 = hash && slice tb (a + 16) key.length = key then
              match dupChain tb d d.count h.2.1 with
              | .error e => .error e
              | .ok m => .ok (l ++ m)
            else .ok l) (.ok [])
      match here with
      | .error e => .error e
      | .ok l =>
        if ov = 0 then .ok (l, walked + 1)
        else match chainMatches tb d hash key fuel (2 ^ d.bits + ov - 1) (walked + 1) with
          | .error e => .error e
          | .ok (m, w) => .ok (l ++ m, w)

/-- Matches of a probe row in a sub-table of the table: entry indices in chain order. -/
def probeMatches (tb : List Byte) (d : DirEnt) (r : TRow) : Except Nat (List Nat × Nat) :=
  if r.unlinked then .ok ([], 0)
  else chainMatches tb d r.hash (r.image.flatMap fun w => leBytes 8 w.toNat) (max 1 d.count) (r.hash % 2 ^ d.bits) 0

/-- Payload row of an arena entry. -/
def arenaPayload (tb : List Byte) (d : DirEnt) (i : Nat) : List Byte :=
  slice tb (arenaOff tb d i + 16 + 8 * fld tb 0x1C 1) (fld tb 0x40 1)

/-! ### Probe (R106 to R110) -/

/-- What a probe knows of its operand. -/
structure ProbeOp where
  ks : List KeySpec
  join : Nat
  nullAware : Bool
  maps0 : List (Nat × Nat)
  maps1 : List (Nat × Nat)
  payload : Option Layout
  build : Layout
  out0 : Layout
  out1 : Layout
  ne : Bool
  seed : Nat
  deriving DecidableEq, Repr

/-- An empty layout. -/
def noLayout : Layout := ⟨0, 0xFF, []⟩

/-- The probe of a task. -/
def probeOp (s : State) (t : Task) : ProbeOp :=
  let img := taskImg s t
  let e := taskStage s t
  let op := taskOperand s t
  let kc := opKeyCount op
  let m0 := fld op 3 1
  { ks := mashKeys img t.stage op 0x10 kc, join := fld op 1 1, nullAware := (fld op 2 1).testBit 1
    maps0 := mapEntries op 0x40 m0, maps1 := mapEntries op (0x40 + 2 * m0) (fld op 4 1)
    payload := payloadLayout img t.stage e kc, build := layoutOfBytes (slice t.eng.table 0x40 80)
    out0 := (outLayout img t.stage 0).getD noLayout, out1 := (outLayout img t.stage 1).getD noLayout
    ne := nullsEqual (fld op 2 1), seed := fld op 8 8 }

/-- An output row from a probe row, if there is one, and a build payload, if there is one (R106, R109). -/
def joinRow (p : ProbeOp) (l : Layout) (maps : List (Nat × Nat)) (probe : Option (List Elem)) (build : Option (List Byte)) :
    List Byte :=
  packRow l (maps.map fun m =>
    if m.1 = 3 then build.bind fun b => rowElem p.build b m.2
    else match probe with
      | none => none
      | some r =>
        if m.1 = 1 then r.getD m.2 none
        else match p.payload, r.getD p.ks.length none with
          | some pl, some b => rowElem pl b m.2
          | _, _ => none)

/-- Elements for output ports 0 and 1 that a probe row yields from its matches (Table 05-7); `final` marks the
point at which absence of a match is known, `seen` that it matched before. -/
def joinOut (p : ProbeOp) (tb : List Byte) (d : DirEnt) (row : List Elem) (ms : List Nat) (seen final : Bool) :
    List Elem × List Elem :=
  let pair := fun i => some (joinRow p p.out0 p.maps0 (some row) (some (arenaPayload tb d i)))
  let alone := some (joinRow p p.out0 p.maps0 (some row) none)
  let other := some (joinRow p p.out1 p.maps1 (some row) none)
  let unmatched : Bool := final && !seen && ms.isEmpty
  let has1 := !p.maps1.isEmpty
  let nullKey := (rowKey p.ks.length row).any Option.isNone
  match p.join with
  | 0 => (ms.map pair, if unmatched && has1 then [other] else [])
  | 1 | 2 => (if unmatched then [alone] else ms.map pair, [])
  | 3 => (if !ms.isEmpty && !seen then [alone] else [], if unmatched && has1 then [other] else [])
  | _ =>
    if p.nullAware && ((fld tb 7 1).testBit 1 || nullKey) && 0 < fld tb 0x10 8 then ([], [])
    else (if unmatched then [alone] else [], [])

/-- Elements leave on the two outputs in turn. -/
def emitJoin (slot : Nat) (o : List Elem × List Elem) (s : State) : State :=
  emitOn slot (o.1.map (fun e => (0, e)) ++ o.2.map fun e => (1, e)) s

/-- TABLE_FORMAT at an offset of the table buffer (R108). -/
def tableFails (slot off : Nat) (s : State) : State :=
  match taskAt s slot with
  | none => s
  | some t => failTask slot 0x0211 { address := (taskBuffer s t 0).1, detail := off } s

/-- Unmatched entries of a sub-table, n from a first one on, leave with probe fields absent (FULL_OUTER, Table 05-7). -/
def emitUnmatchedFrom (slot : Nat) (p : ProbeOp) (tb : List Byte) (d : DirEnt) (marks : List Nat) (base lo n : Nat) (s : State) :
    State :=
  if p.join ≠ 2 then s
  else emitElems slot 0 ((((List.range n).map (· + lo)).filter fun i => !marks.contains (base + i)).map fun i =>
    some (joinRow p p.out0 p.maps0 none (some (arenaPayload tb d i)))) s

/-- Unmatched entries of a sub-table. -/
def emitUnmatched (slot : Nat) (p : ProbeOp) (tb : List Byte) (d : DirEnt) (marks : List Nat) (base : Nat) (s : State) : State :=
  emitUnmatchedFrom slot p tb d marks base 0 d.count s

/-- Number of entries before a sub-table. -/
def entriesBefore (tb : List Byte) (k : Nat) : Nat := ((List.range k).map fun i => (dirEnt tb i).count).foldl (· + ·) 0

/-- Matches found by a probe row, and the chain walked, are counted (Table 05-11). -/
def countMatches (unit matched walked : Nat) (s : State) : State :=
  let s := unitCount unit 5 matched s
  match unitIdx unit with
  | some i => odMax32 i 8 walked s
  | none => s

/-- One probe row against a resident table or sub-table (R110). -/
def probeOne (slot : Nat) (p : ProbeOp) (tb : List Byte) (row : List Elem) (s : State) : State :=
  match taskAt s slot with
  | none => s
  | some t =>
    let r := tableRow p.ks p.seed p.ne row
    let k := subOf (fld tb 6 1) r.hash
    let d := dirEnt tb k
    match probeMatches tb d r with
    | .error off => tableFails slot off s
    | .ok (ms, walked) =>
      let s := countMatches t.unit ms.length walked s
      let base := entriesBefore tb k
      let s := if p.join = 2 then engMod slot (fun e => { e with marks := e.marks ++ ms.map (base + ·) }) s else s
      emitJoin slot (joinOut p tb d row ms false true) s

/-- Pending rows are acted on one by one, each once what the row before it emitted has left (Table 05-9). -/
def eachPending (slot : Nat) (f : List Elem → State → State) : List (List Elem) → State → State
  | [], s => engMod slot (fun g => { g with pend := [] }) s
  | r :: rs, s =>
    match taskAt s slot with
    | none => s
    | some t =>
      if !isRunning t then s
      else if !t.eng.results.isEmpty then engMod slot (fun g => { g with pend := r :: rs }) s
      else eachPending slot f rs (f r s)

/-- Entries of a chunk of a sub-table that a row matches: linked entries with an equal key (R110). -/
def chunkMatches (tb : List Byte) (d : DirEnt) (r : TRow) (lo n : Nat) : List Nat :=
  if r.unlinked then []
  else
    let key := r.image.flatMap fun w => leBytes 8 w.toNat
    ((List.range n).map (· + lo)).filter fun i =>
      let a := arenaOff tb d i
      !(fld tb (a + 4) 1).testBit 0 && fld tb (a + 8) 8 = r.hash && slice tb (a + 16) key.length = key

/-- Buckets walked by a row in the local index of a chunk: the heads of its bucket, 8 to a bucket (R102, R104, R110). -/
def chunkWalk (tb : List Byte) (d : DirEnt) (kw : Nat) (r : TRow) (lo n : Nat) : Nat :=
  if r.unlinked then 0
  else
    let bits := bucketBits n
    let heads := (((List.range n).map (· + lo)).filterMap fun i =>
      let a := arenaOff tb d i
      if !(fld tb (a + 4) 1).testBit 0 && fld tb (a + 8) 8 % 2 ^ bits = r.hash % 2 ^ bits then some (slice tb (a + 8) (8 + 8 * kw))
      else none).eraseDups
    max 1 ((heads.length + 7) / 8)

/-- Entries of the longest chunk that fits in SRAM with its local index (R110). -/
def chunkLen (e left : Nat) : Nat :=
  if subBytes (bucketBits left) left e ≤ mib8 then left
  else
    let bits := (List.range 24).map (· + 1)
    (bits.map fun b => min (4 * 2 ^ b) ((mib8 - min mib8 (64 * 2 ^ b + 64 * poolSize b)) / e)).foldl max 1

/-- The chunks of a sub-table: first entry and number of entries. -/
def chunksFrom (e : Nat) : Nat → Nat → Nat → List (Nat × Nat)
  | 0, _, _ => []
  | fuel + 1, lo, left => if left = 0 then [] else
    let n := chunkLen e left
    (lo, n) :: chunksFrom e fuel (lo + n) (left - n)

/-- The engine turns to the next step of its stage; `d` holds it. -/
def toStep (slot d : Nat) (s : State) : State := engMod slot (fun g => { g with d := d }) s

/-- The table is read and checked before the first probe row (R108): the header, the directory, then, in resident mode,
the rest. Steps 1 to 3 follow the reads of each. -/
def loadTable (slot : Nat) (t : Task) (s : State) : State :=
  let img := taskImg s t
  let op := taskOperand s t
  let (addr, len) := taskBuffer s t 0
  let tb := t.eng.bytes
  let dirEnd := 0x100 + 16 * 2 ^ fld tb 6 1
  let total := fld tb 0x90 8
  let ready := fun (s : State) =>
    engMod slot (fun g => { g with started := true, table := g.bytes, bytes := [], d := 0 }) (showState slot 2 s)
  match t.eng.d with
  | 0 => toStep slot 1 (ioAdd slot (ioReads addr (min 256 len)) (showState slot 1 s))
  | 1 =>
    let p := probeOp s t
    let p := { p with build := layoutOfBytes (slice tb 0x40 80) }
    let maps := (p.maps0.zip p.out0.fields).filter (·.1.1 = 3) |>.map fun x => (x.1.2, x.2)
    let kw := keyWords (mashKeys img t.stage op 0x10 (opKeyCount op))
    match headerBad (slice tb 0 256) op kw len maps with
    | some off => tableFails slot off s
    | none =>
      if total < dirEnd then tableFails slot 0x90 s
      else toStep slot 2 (ioAdd slot (ioReads (addr + 256) (dirEnd - 256)) s)
  | 2 =>
    match directoryBad tb with
    | some off => tableFails slot off s
    | none =>
      if mib8 < total then ready s else toStep slot 3 (ioAdd slot (ioReads (addr + dirEnd) (total - dirEnd)) s)
  | _ => ready s

/-! #### Spill mode (R110): parts are sub-tables, `b` the sub-table in work, `c` the first entry of its chunk in work -/

/-- Half of a probe's reservation. -/
def spillHalf (t : Task) : Nat := (t.spill.map (·.2)).foldl (· + ·) 0 / 2

/-- Bytes a row takes in the first half: its hash and its elements. -/
def probeRowBytes (row : List Elem) : Nat := 8 + (row.map fun e => (e.getD []).length).foldl (· + ·) 0

/-- A probe row is written to the first half, with its hash, among the rows of its sub-table. -/
def spillRow (slot : Nat) (p : ProbeOp) (tb : List Byte) (row : List Elem) (s : State) : State :=
  match taskAt s slot with
  | none => s
  | some t =>
    let part := partOf t.eng.parts (subOf (fld tb 6 1) (tableRow p.ks p.seed p.ne row).hash)
    let (part, full) := partAdd (partBlocks t.eng.parts) row (probeRowBytes row) part
    let ops := match full with
      | some b => if 4096 * (b + 1) ≤ spillHalf t then spillScratch t (4096 * b) 4096 else []
      | none => []
    engMod slot (fun g => { g with parts := partPut part g.parts, io := g.io ++ ops }) s

/-- After the last row, the open blocks are written. -/
def flushRows (slot : Nat) (t : Task) (s : State) : State :=
  t.eng.parts.foldl (fun s p =>
    match taskAt s slot with
    | none => s
    | some t =>
      if p.fill = 0 then s
      else
        let b := freeBlock (partBlocks t.eng.parts)
        let ops := if 4096 * (b + 1) ≤ spillHalf t then spillScratch t (4096 * b) p.fill else []
        engMod slot (fun g => { g with
          parts := partPut { p with fill := 0, blocks := p.blocks ++ [b] } g.parts, io := g.io ++ ops }) s) s

/-- Reads of the rows of a sub-table. -/
def partReads (t : Task) (p : SpillPart) : List IoOp :=
  p.blocks.flatMap fun b => if 4096 * (b + 1) ≤ spillHalf t then spillReads t (4096 * b) 4096 else []

/-- Bytes of the match state of n rows, one bit each, in the second half. -/
def matchBytes (n : Nat) : Nat := (n + 7) / 8

/-- A table's bytes with those read of it in place. -/
def withRead (tb : List Byte) (off : Nat) (bytes : List Byte) : List Byte := splice (slice tb 0 (max tb.length off)) off bytes

/-- The next sub-table's rows are read with it, or with its first chunk. -/
def nextSub (slot : Nat) (t : Task) (s : State) : State :=
  let tb := t.eng.table
  let addr := (taskBuffer s t 0).1
  let e := fld tb 0x18 4
  let d := dirEnt tb t.eng.b
  let part := partOf t.eng.parts t.eng.b
  if 2 ^ fld tb 6 1 ≤ t.eng.b then stageEnds slot s
  else if subBytes d.bits d.count e ≤ mib8 then
    toStep slot 2 (ioAdd slot (ioReads (addr + d.off) (subBytes d.bits d.count e) ++ partReads t part) s)
  else toStep slot 3 (ioAdd slot (ioReads (addr + arenaOff tb d 0) (e * chunkLen e d.count) ++ partReads t part)
    (engMod slot (fun g => { g with c := 0, seen := [] }) s))

/-- What has been read is put in its place, and the rows of the sub-table are due (steps 2 and 3). -/
def haveSub (slot : Nat) (t : Task) (s : State) : State :=
  let tb := t.eng.table
  let e := fld tb 0x18 4
  let d := dirEnt tb t.eng.b
  let whole : Bool := t.eng.d = 2
  let off := if whole then d.off else arenaOff tb d t.eng.c
  let n := if whole then subBytes d.bits d.count e else e * chunkLen e (d.count - t.eng.c)
  engMod slot (fun g => { g with
    table := withRead (tb.take (0x100 + 16 * 2 ^ fld tb 6 1)) off (t.eng.bytes.take n), bytes := []
    pend := (partOf t.eng.parts t.eng.b).rows, d := if whole then 4 else 5 }) (showState slot 2 s)

/-- Reads of the chunk of a sub-table that begins at an entry. -/
def chunkReads (s : State) (t : Task) (lo : Nat) : List IoOp :=
  let tb := t.eng.table
  let e := fld tb 0x18 4
  let d := dirEnt tb t.eng.b
  ioReads ((taskBuffer s t 0).1 + arenaOff tb d lo) (e * chunkLen e (d.count - lo))

/-- After the last chunk of a sub-table, and the rows without a match: the next sub-table follows, or for FULL_OUTER the
chunks are read once more, for their unmatched entries (R110). -/
def chunksDone (slot : Nat) (t : Task) (p : ProbeOp) (s : State) : State :=
  if p.join = 2 then engMod slot (fun g => { g with c := 0, d := 7 }) (ioAdd slot (chunkReads s t 0) s)
  else engMod slot (fun g => { g with b := g.b + 1, d := 1 }) s

/-- A chunk has been read once more: its unmatched entries leave, and the next chunk follows, or the next sub-table. -/
def chunkUnmatched (slot : Nat) (t : Task) (p : ProbeOp) (s : State) : State :=
  let head := t.eng.table
  let e := fld head 0x18 4
  let d := dirEnt head t.eng.b
  let n := chunkLen e (d.count - t.eng.c)
  let next := t.eng.c + n
  let tb := withRead (head.take (0x100 + 16 * 2 ^ fld head 6 1)) (arenaOff head d t.eng.c) (t.eng.bytes.take (e * n))
  let s := if next < d.count then
      engMod slot (fun g => { g with bytes := [], c := next, io := g.io ++ chunkReads s t next }) s
    else engMod slot (fun g => { g with bytes := [], b := g.b + 1, d := 1 }) s
  emitUnmatchedFrom slot p tb d t.eng.marks (entriesBefore head t.eng.b) t.eng.c n s

/-- The sub-table has been treated: its unmatched entries leave (FULL_OUTER), and the next one follows. -/
def subDone (slot : Nat) (t : Task) (p : ProbeOp) (s : State) : State :=
  let tb := t.eng.table
  emitUnmatched slot p tb (dirEnt tb t.eng.b) t.eng.marks (entriesBefore tb t.eng.b)
    (engMod slot (fun g => { g with b := g.b + 1, d := 1 }) s)

/-- One row against the chunk in work (R110); its place among the sub-table's rows is known from the rows after it. -/
def chunkRow (slot : Nat) (p : ProbeOp) (i : Nat) (row : List Elem) (s : State) : State :=
  match taskAt s slot with
  | none => s
  | some t =>
    let tb := t.eng.table
    let d := dirEnt tb t.eng.b
    let was := t.eng.seen.contains i
    let n := chunkLen (fld tb 0x18 4) (d.count - t.eng.c)
    let ms := if p.join = 3 && was then [] else chunkMatches tb d (tableRow p.ks p.seed p.ne row) t.eng.c n
    let base := entriesBefore tb t.eng.b
    let row' := tableRow p.ks p.seed p.ne row
    let walked := if p.join = 3 && was then 0 else chunkWalk tb d row'.image.length row' t.eng.c n
    let s := countMatches t.unit ms.length walked s
    let s := engMod slot (fun g => { g with
      marks := if p.join = 2 then g.marks ++ ms.map (base + ·) else g.marks
      seen := if ms.isEmpty || was then g.seen else i :: g.seen }) s
    emitJoin slot (joinOut p tb d row ms was false) s

/-- The rows due are taken against the chunk in work, one by one. -/
def chunkRows (slot : Nat) (p : ProbeOp) (total : Nat) : List (List Elem) → State → State
  | [], s => engMod slot (fun g => { g with pend := [] }) s
  | r :: rs, s =>
    match taskAt s slot with
    | none => s
    | some t =>
      if !isRunning t then s
      else if !t.eng.results.isEmpty then engMod slot (fun g => { g with pend := r :: rs }) s
      else chunkRows slot p total rs (chunkRow slot p (total - (rs.length + 1)) r s)

/-- The chunk has been probed by every row: their match state is written, and the next chunk is read, or the rows
without a match follow. -/
def chunkDone (slot : Nat) (t : Task) (s : State) : State :=
  let tb := t.eng.table
  let e := fld tb 0x18 4
  let d := dirEnt tb t.eng.b
  let part := partOf t.eng.parts t.eng.b
  let next := t.eng.c + chunkLen e (d.count - t.eng.c)
  let n := matchBytes part.rows.length
  let s := ioAdd slot (spillScratch t (spillHalf t) n) s
  if next < d.count then
    toStep slot 3 (ioAdd slot (ioReads ((taskBuffer s t 0).1 + arenaOff tb d next) (e * chunkLen e (d.count - next)) ++
      partReads t part ++ spillReads t (spillHalf t) n) (engMod slot (fun g => { g with c := next }) s))
  else engMod slot (fun g => { g with pend := part.rows, d := 6 }) (ioAdd slot (spillReads t (spillHalf t) n) s)

/-- A row that matched in no chunk leaves where its join asks for it. -/
def lateRow (slot : Nat) (p : ProbeOp) (i : Nat) (row : List Elem) (s : State) : State :=
  match taskAt s slot with
  | none => s
  | some t =>
    if t.eng.seen.contains i then s
    else emitJoin slot (joinOut p t.eng.table (dirEnt t.eng.table t.eng.b) row [] false true) s

/-- The rows due leave if they matched in no chunk, one by one. -/
def lateRows (slot : Nat) (p : ProbeOp) (total : Nat) : List (List Elem) → State → State
  | [], s => engMod slot (fun g => { g with pend := [] }) s
  | r :: rs, s =>
    match taskAt s slot with
    | none => s
    | some t =>
      if !isRunning t then s
      else if !t.eng.results.isEmpty then engMod slot (fun g => { g with pend := r :: rs }) s
      else lateRows slot p total rs (lateRow slot p (total - (rs.length + 1)) r s)

/-- After a loop over the rows due: what follows it, once none is left and all that they emitted has left. -/
def whenNone (slot : Nat) (f : Task → State → State) (s : State) : State :=
  match taskAt s slot with
  | none => s
  | some t => if isRunning t && t.eng.pend.isEmpty && t.eng.results.isEmpty then f t s else s

/-- Spill mode (R110), step by step: 0 the rows arrive, 1 the next sub-table, 2 it and its rows have been read, 3 a chunk
and its rows have been read, 4 its rows are probed, 5 they are probed by the chunk, 6 those without a match leave, 7 a chunk
has been read once more for its unmatched entries. -/
def probeSpilled (slot : Nat) (t : Task) (p : ProbeOp) (s : State) : State :=
  let total := (partOf t.eng.parts t.eng.b).rows.length
  match t.eng.d with
  | 0 =>
    let (rows, s) := takeKeyed slot p.ks t.eng.a (showState slot 2 s)
    let s := engMod slot (fun g => { g with a := g.a + rows.length }) (unitCount t.unit 4 rows.length s)
    let s := rows.foldl (fun s r => spillRow slot p t.eng.table r s) s
    match taskAt s slot with
    | none => s
    | some t => if isRunning t && insDone t then toStep slot 1 (flushRows slot t s) else s
  | 1 => nextSub slot t s
  | 2 => haveSub slot t s
  | 3 => haveSub slot t s
  | 4 => whenNone slot (fun t s => subDone slot t p s) (eachPending slot (fun r s => probeOne slot p t.eng.table r s) t.eng.pend s)
  | 5 => whenNone slot (fun t s => chunkDone slot t s) (chunkRows slot p total t.eng.pend s)
  | 7 => chunkUnmatched slot t p (showState slot 2 s)
  | _ =>
    let s := ioClear slot (showState slot 2 s)
    whenNone slot (fun t s => chunksDone slot t p s) (lateRows slot p total t.eng.pend s)

/-! #### Resident mode -/

/-- A probe row that has arrived: KEY_LENGTH, or its matches. `a` counts rows taken. -/
def probeArrived (slot : Nat) (p : ProbeOp) (row : List Elem) (s : State) : State :=
  match taskAt s slot with
  | none => s
  | some t =>
    match longKey p.ks row with
    | some port => failTask slot 0x0210 { detail := t.eng.a, index := port } s
    | none => probeOne slot p t.eng.table row (unitCount t.unit 4 1 (engMod slot (fun g => { g with a := g.a + 1 }) s))

/-- Rows as they arrive; after the last, unmatched entries leave in sub-table order (FULL_OUTER). -/
def probeResident (slot : Nat) (t : Task) (p : ProbeOp) (s : State) : State :=
  let tb := t.eng.table
  let (rows, s) := if t.eng.pend.isEmpty then takeRows slot s else (t.eng.pend, s)
  let s := eachPending slot (probeArrived slot p) rows s
  whenNone slot (fun t s =>
    if !insDone t then s
    else stageEnds slot ((List.range (2 ^ fld tb 6 1)).foldl (fun s k =>
      emitUnmatched slot p tb (dirEnt tb k) t.eng.marks (entriesBefore tb k) s) s)) s

/-- HASH_PROBE: the table first, then the rows, in resident or spill mode (R110). -/
def runProbe (slot : Nat) (t : Task) (s : State) : State :=
  if !t.eng.io.isEmpty then runIo slot t.eng.io (if t.eng.started then showState slot 3 s else s)
  else if !t.eng.started then loadTable slot t s
  else
    let p := probeOp s t
    if mib8 < fld t.eng.table 0x90 8 then probeSpilled slot t p s else probeResident slot t p s

/-- HASH_PROBE (R106 to R110). -/
def execHashProbe (slot : Nat) (s : State) : Host.Outcome State Fault Refusal :=
  .next (runStage slot [0x11] (runProbe slot) s)

/-! ### PARTITION (R111, R112) -/

/-- The hash of a row for PARTITION and EXCH_SEND. DESIGN CHOICE (log 65): without NULLS_EQUAL, the null mask word hashes as 0
and the key image keeps its words; R111 says only that the bit decides whether null keys hash from the null mask. -/
def routeHash (ks : List KeySpec) (seed : Nat) (ne : Bool) (row : List Elem) : Nat :=
  let im := keyImage ks (rowKey ks.length row)
  let im := if keyHasMask ks && !ne then (0 : Word) :: im.drop 1 else im
  (mashHash im (BitVec.ofNat 64 seed)).toNat

/-- Bits of a hash after SHIFT (R99). -/
def hashBits (h shift bits : Nat) : Nat := h / 2 ^ (64 - shift - bits) % 2 ^ bits

/-- A row with a field overwritten by a number, present (R111). -/
def putField (l : Layout) (row : List Byte) (i v : Nat) : List Byte :=
  match l.field? i with
  | none => row
  | some f =>
    let r := splice row f.off (leBytes (fieldWidth f.ty) v)
    if l.hasValid then splice r l.validAt (leBytes 2 (fld r l.validAt 2 ||| 2 ^ i)) else r

/-- An input row as its partition number and its output row. -/
def partRow (op : List Byte) (ks : List KeySpec) (l : Layout) (row : List Elem) : Nat × List Byte :=
  let h := routeHash ks (fld op 8 8) (nullsEqual (fld op 7 1)) row
  let bits := fld op 3 1 + fld op 4 1
  let n := hashBits h (fld op 2 1) bits
  let r := (row.getD ks.length none).getD []
  let r := putField l r (fld op 5 1) n
  (n, if fld op 6 1 = 0xFF then r else putField l r (fld op 6 1) h)

/-! #### Grouped mode (R111, R112): parts are the partitions of pass 1, fresh parts those of pass 2 -/

/-- Writes of an open block of a part. -/
def blockWrite (base b : Nat) (rows : List (List Elem)) : List IoOp :=
  [.write (base + 4096 * b) (rows.flatMap fun r => (r.getD 0 none).getD [])]

/-- A row joins a partition's open block; the block that it fills is written. Only the rows of open blocks are held. -/
def blockAdd (base w id : Nat) (row : List Byte) (acc : List SpillPart × List IoOp) : List SpillPart × List IoOp :=
  let (p, full) := partAdd (partBlocks acc.1) [some row] w (partOf acc.1 id)
  match full with
  | some b => (partPut { p with rows := [] } acc.1, acc.2 ++ blockWrite base b p.rows)
  | none => (partPut p acc.1, acc.2)

/-- The open blocks are written; `fill` keeps the bytes of each part's last block. -/
def blockFlush (base : Nat) (ps : List SpillPart) : List SpillPart × List IoOp :=
  ps.foldl (fun acc p =>
    if p.fill = 0 then acc
    else
      let b := freeBlock (partBlocks acc.1)
      (partPut { p with rows := [], blocks := p.blocks ++ [b] } acc.1, acc.2 ++ blockWrite base b p.rows)) (ps, [])

/-- Reads of a partition, block by block: the last holds `fill` bytes where that is not 0. -/
def blockReads (base : Nat) (p : SpillPart) : List IoOp :=
  let n := p.blocks.length
  p.blocks.zipIdx.map fun (b, i) => .read (base + 4096 * b) (if i + 1 = n && p.fill ≠ 0 then p.fill else 4096)

/-- The partition number in a row's PART_FIELD. -/
def rowPart (l : Layout) (op row : List Byte) : Nat :=
  match l.field? (fld op 5 1) with
  | some f => fld row f.off (fieldWidth f.ty)
  | none => 0

/-- Address of the second area: after the row bound and one block for each partition of pass 1 (R112). -/
def secondArea (s : State) (t : Task) (op : List Byte) (w base : Nat) : Nat :=
  let p := taskPlan s t
  base + rowsInOf p (bounds p) t.stage * w + 4096 * 2 ^ fld op 3 1

/-- Grouped mode, step by step: 0 the rows arrive, 1 the next partition of pass 1 is read, 2 it has been read, 3 its rows
have been written to the second area, 4 they have been read back. -/
def runGrouped (slot : Nat) (t : Task) (op : List Byte) (ks : List KeySpec) (l : Layout) (s : State) : State :=
  let base := (taskBuffer s t 0).1
  let w := l.width
  let two : Bool := fld op 1 1 = 2
  let area := secondArea s t op w base
  let leave := fun (s : State) =>
    emitElems slot 0 ((chunksOf w t.eng.bytes).map some)
      (engMod slot (fun g => { g with bytes := [], parts := g.parts.drop 1, fresh := [], d := 1 }) (showState slot 2 s))
  match t.eng.d with
  | 0 =>
    let (rows, s) := takeKeyed slot ks t.eng.a (showState slot 2 s)
    let s := unitCount t.unit 6 rows.length (engMod slot (fun g => { g with a := g.a + rows.length }) s)
    let (ps, ops) := rows.foldl (fun acc r =>
      let x := partRow op ks l r
      blockAdd base w (x.1 / 2 ^ (if two then fld op 4 1 else 0)) x.2 acc) (t.eng.parts, [])
    let s := ioAdd slot ops (engMod slot (fun g => { g with parts := ps }) s)
    match taskAt s slot with
    | none => s
    | some t =>
      if !(isRunning t && insDone t) then s
      else
        let (ps, ops) := blockFlush base t.eng.parts
        toStep slot 1 (ioAdd slot ops (engMod slot (fun g => { g with parts := ps }) s))
  | 1 =>
    match t.eng.parts with
    | [] => stageEnds slot s
    | p :: _ => toStep slot 2 (ioAdd slot (blockReads base p) s)
  | 2 =>
    if !two then leave s
    else
      let (ps, ops) := (chunksOf w t.eng.bytes).foldl (fun acc r => blockAdd area w (rowPart l op r % 2 ^ fld op 4 1) r acc) ([], [])
      let (ps, more) := blockFlush area ps
      toStep slot 3 (ioAdd slot (ops ++ more) (engMod slot (fun g => { g with bytes := [], fresh := ps }) s))
  | 3 => toStep slot 4 (ioAdd slot (t.eng.fresh.flatMap (blockReads area)) s)
  | _ => leave s

/-- PARTITION: routed as rows arrive, or grouped after the last (R111). -/
def runPartition (slot : Nat) (t : Task) (s : State) : State :=
  let img := taskImg s t
  let e := taskStage s t
  let op := taskOperand s t
  let kc := opKeyCount op
  let ks := mashKeys img t.stage op 0x10 kc
  let l := (inLayout img t.stage kc).getD noLayout
  if !t.eng.io.isEmpty then runIo slot t.eng.io (showState slot 3 s)
  else if e.params.headD 0xFFFF ≠ 0xFFFF then runGrouped slot t op ks l s
  else
    let s := if t.eng.started then s else engMod slot (fun g => { g with started := true }) (showState slot 2 s)
    let (rows, s) := takeKeyed slot ks t.eng.a s
    let s := unitCount t.unit 6 rows.length (engMod slot (fun g => { g with a := g.a + rows.length }) s)
    let s := emitElems slot 0 (rows.map fun r => some (partRow op ks l r).2) s
    match taskAt s slot with
    | some t => if insDone t then stageEnds slot s else s
    | none => s

/-- PARTITION (R111, R112). -/
def execPartition (slot : Nat) (s : State) : Host.Outcome State Fault Refusal :=
  .next (runStage slot [0x12] (runPartition slot) s)

end Sys2Proof.Machine
end

