-- ==== Sys2Proof/Machine/SortEng.lean ====
section
/-! DEFINITION. Sort engines: SORT, MERGE, TOP_N (chapter 06). -/

namespace Sys2Proof.Machine

/-- Rows in order of their normalised keys, rows with equal keys in input order (R124). -/
def sortRows {α : Type} (xs : List (List Byte × α)) : List α := (sortBy (fun a b => bytesLe a.1 b.1) xs).map (·.2)

/-! ### Records (R123) -/

/-- Bytes of the normalised key in a record: padded to a multiple of 8. -/
def recKeyLen (ks : List KeySpec) : Nat := roundUp (normKeyLen ks) 8

/-- A record's key and payload row; what lies after them, up to RB, holds nothing. -/
def sortRec (ks : List KeySpec) (key payload : List Byte) : List Byte := slice key 0 (recKeyLen ks) ++ payload

/-- Normalised key of a record. -/
def recKey (ks : List KeySpec) (r : List Byte) : List Byte := r.take (normKeyLen ks)

/-- Payload row of a record. -/
def recRow (ks : List KeySpec) (w : Nat) (r : List Byte) : List Byte := slice r (recKeyLen ks) w

/-- Records in order of their keys, records with equal keys in the order given (R124). -/
def sortRecs (ks : List KeySpec) (rs : List (List Byte)) : List (List Byte) := sortRows (rs.map fun r => (recKey ks r, r))

/-- A record as it lies in spill: RB bytes (R123). Its bytes beyond the payload are free values. -/
def recPad (rb : Nat) (r : List Byte) (s : State) : List Byte × State :=
  let (f, s) := freeBytes (rb - r.length) s
  (r ++ f, s)

/-- Records as they lie in spill, one after another. -/
def recsPad (rb : Nat) : List (List Byte) → State → List Byte × State
  | [], s => ([], s)
  | r :: rs, s =>
    let (b, s) := recPad rb r s
    let (bs, s) := recsPad rb rs s
    (b ++ bs, s)

/-- Lists of the lengths given, one after another. -/
def splitLens {α : Type} : List Nat → List α → List (List α)
  | [], _ => []
  | n :: ns, l => l.take n :: splitLens ns (l.drop n)

/-- Two runs merged: on equal keys the first run's record goes first (R124). The number bounds the steps. -/
def mergeTwo (ks : List KeySpec) : Nat → List (List Byte) → List (List Byte) → List (List Byte)
  | 0, a, b => a ++ b
  | fuel + 1, a, b =>
    match a, b with
    | [], b => b
    | a, [] => a
    | x :: xs, y :: ys =>
      if bytesLt (recKey ks y) (recKey ks x) then y :: mergeTwo ks fuel (x :: xs) ys
      else x :: mergeTwo ks fuel xs (y :: ys)

/-- Runs merged, the lower-numbered run first on equal keys (R124, R125). -/
def mergeRuns (ks : List KeySpec) (runs : List (List (List Byte))) : List (List Byte) :=
  runs.foldl (fun acc r => mergeTwo ks (acc.length + r.length) acc r) []

/-- Records an engine holds in SRAM: each is the one element of a row. -/
def recsOf (rows : List (List Elem)) : List (List Byte) := rows.map fun r => (r.getD 0 none).getD []

/-- An input row of SORT or TOP_N as a record. -/
def inputRec (ks : List KeySpec) (row : List Elem) : List Byte :=
  sortRec ks (normKey ks (row.take ks.length)) ((row.getD ks.length none).getD [])

/-- The row that a record of SORT or TOP_N leaves as: mapped keys are decoded from their normalised form (R122, R123). -/
def sortOut (ks : List KeySpec) (payload : Option Layout) (l : Layout) (maps : List (Nat × Nat)) (r : List Byte) : Elem :=
  let key := denormKey ks (recKey ks r)
  some (packRow l (maps.map fun m =>
    if m.1 = 1 then key.getD m.2 none
    else match payload with
      | some pl => rowElem pl (recRow ks pl.width r) m.2
      | none => none))

/-! ### SORT and TOP_N (R124, R126)

`marks` holds the records of each run, in order of run number, `d` the half they lie in, `b` the groups of 64 merged in the
pass, `c` the step: 0 the rows arrive, 1 the runs lie in spill, 2 a group of runs has been read, 3 it has been written,
4 the final merge. In the final merge `parts` holds the runs' cursors: number, records in SRAM, and in `fill` the records
read so far. -/

/-- What a sort stage knows of its operand. -/
structure SortOp where
  ks : List KeySpec
  rb : Nat
  payload : Option Layout
  layout : Layout
  maps : List (Nat × Nat)
  /-- N of TOP_N. -/
  keep : Option Nat
  deriving DecidableEq, Repr

/-- The operand of a sort task. -/
def sortOpOf (s : State) (t : Task) : SortOp :=
  let img := taskImg s t
  let e := taskStage s t
  let op := taskOperand s t
  let ks := sortKeys img t.stage e op
  { ks := ks, rb := max 1 (sortRB img t.stage e op), payload := payloadLayout img t.stage e ks.length
    layout := (outLayout img t.stage 0).getD noLayout, maps := mapEntries op 0x50 (fld op 1 1)
    keep := if e.op = 0x22 then some (fld op 4 4) else none }

/-- Offset of a half of the reservation: half the whole (R124 step 5). -/
def halfOff (t : Task) (h : Nat) : Nat := if h = 0 then 0 else spillHalf t

/-- Sum of the first n of a list. -/
def sumTo (n : Nat) (l : List Nat) : Nat := (l.take n).foldl (· + ·) 0

/-- A run of records is written from a place of a half; every merge output is one too. -/
def writeRun (slot : Nat) (t : Task) (rb off : Nat) (rs : List (List Byte)) (s : State) : State :=
  let (bytes, s) := recsPad rb rs s
  ioAdd slot (spillWrites t off bytes ++ [.runDone]) s

/-- The records held are sorted and written as the next run (R124 step 3). -/
def spillRun (slot : Nat) (o : SortOp) (s : State) : State :=
  match taskAt s slot with
  | none => s
  | some t =>
    let rs := recsOf t.eng.rows
    let off := sumTo t.eng.marks.length t.eng.marks * o.rb
    let s := writeRun slot t o.rb off (sortRecs o.ks rs) s
    engMod slot (fun g => { g with rows := [], marks := g.marks ++ [rs.length] }) s

/-- A record arrives: a full SRAM is written as a run first; TOP_N keeps the N least (R124, R126). -/
def sortAdd (slot : Nat) (o : SortOp) (r : List Byte) (s : State) : State :=
  let s := match taskAt s slot with
    | some t => if o.keep.isNone && mib8 / o.rb ≤ t.eng.rows.length then spillRun slot o s else s
    | none => s
  engMod slot (fun g =>
    let rows := g.rows ++ [[some r]]
    { g with rows := match o.keep with
        | some n => ((sortRecs o.ks (recsOf rows)).take n).map fun r => [some r]
        | none => rows }) s

/-- The cursors of a final merge: none of the runs has been read. -/
def mergeCursors (n : Nat) : List SpillPart := (List.range n).map fun i => { id := i }

/-- Whether a run's records in SRAM have all left, and more of it lies in spill. -/
def runDry (lens : List Nat) (p : SpillPart) : Bool := p.rows.isEmpty && p.fill < lens.getD p.id 0

/-- The record of a run that leaves next, and its run: the least, of the lowest-numbered run on equal keys (R124, R125). -/
def leastRun (ks : List KeySpec) (ps : List SpillPart) : Option (SpillPart × List Byte) :=
  ps.foldl (fun best p =>
    match p.rows with
    | [] => best
    | x :: _ =>
      let r := (x.getD 0 none).getD []
      match best with
      | none => some (p, r)
      | some b => if bytesLt (recKey ks r) (recKey ks b.2) then some (p, r) else best) none

/-- Records leave in order, one by one, until a run must be read on or an output row waits (Table 06-9). The number bounds
the rows. -/
def mergeLeave (slot : Nat) (ks : List KeySpec) (out : List Byte → Elem) (lens : List Nat) : Nat → State → State
  | 0, s => s
  | fuel + 1, s =>
    match taskAt s slot with
    | none => s
    | some t =>
      if !isRunning t || !t.eng.results.isEmpty || t.eng.parts.any (runDry lens) then s
      else match leastRun ks t.eng.parts with
        | none => s
        | some (p, r) =>
          mergeLeave slot ks out lens fuel (emitElems slot 0 [out r]
            (engMod slot (fun g => { g with parts := partPut { p with rows := p.rows.drop 1 } g.parts }) s))

/-- The final merge: a run whose records have left is read on, a 4 KiB block's records at a time, from the runs that lie one
after another at `off`; output rows leave between the reads, so that a fault parks the stage between two of them
(R124, R125, Table 06-9). -/
def finalMerge (slot : Nat) (t : Task) (ks : List KeySpec) (rb off : Nat) (lens : List Nat) (out : List Byte → Elem) (s : State) :
    State :=
  match t.eng.parts.find? (runDry lens) with
  | some p =>
    if t.eng.bytes.isEmpty then
      ioAdd slot (spillReads t (off + (sumTo p.id lens + p.fill) * rb) (min (lens.getD p.id 0 - p.fill) (max 1 (4096 / rb)) * rb)) s
    else
      let rs := chunksOf rb t.eng.bytes
      engMod slot (fun g => { g with
        bytes := [], parts := partPut { p with rows := rs.map fun r => [some r], fill := p.fill + rs.length } g.parts }) s
  | none =>
    if t.eng.parts.all (·.rows.isEmpty) then stageEnds slot s
    else mergeLeave slot ks out lens ((t.eng.parts.map (·.rows.length)).sum) s

/-- The output rows leave; the stage ends after them. -/
def sortLeave (slot : Nat) (o : SortOp) (rs : List (List Byte)) (s : State) : State :=
  stageEnds slot (emitElems slot 0 (rs.map (sortOut o.ks o.payload o.layout o.maps))
    (engMod slot (fun g => { g with rows := [], bytes := [] }) (showState slot 3 s)))

/-- Rows arrive (step 0): after the last, what is held leaves, or is the last run. -/
def sortTake (slot : Nat) (t : Task) (o : SortOp) (s : State) : State :=
  let s := if t.eng.started then s else engMod slot (fun g => { g with started := true }) (showState slot 1 s)
  let (rows, s) := takeKeyed slot o.ks t.eng.a s
  let s := unitCount t.unit 3 rows.length (engMod slot (fun g => { g with a := g.a + rows.length }) s)
  let s := rows.foldl (fun s r => sortAdd slot o (inputRec o.ks r) s) s
  match taskAt s slot with
  | none => s
  | some t =>
    if !(isRunning t && insDone t) then s
    else if t.eng.marks.isEmpty then sortLeave slot o (sortRecs o.ks (recsOf t.eng.rows)) s
    else engMod slot (fun g => { g with c := 1 }) (spillRun slot o s)

/-- Records of the group of runs in work. -/
def groupRuns (g : Eng) : List Nat := (g.marks.drop (64 * g.b)).take 64

/-- The records of runs that have been read. -/
def readRecs (o : SortOp) (lens : List Nat) (bytes : List Byte) : List (List (List Byte)) := splitLens lens (chunksOf o.rb bytes)

/-- SORT and TOP_N, step by step. -/
def runSort (slot : Nat) (t : Task) (s : State) : State :=
  let o := sortOpOf s t
  let g := t.eng
  if !g.io.isEmpty then runIo slot g.io s
  else match g.c with
    | 0 => sortTake slot t o s
    | 1 =>
      if g.marks.length ≤ 64 then
        engMod slot (fun g => { g with c := 4, parts := mergeCursors g.marks.length }) (showState slot 3 s)
      else
        let off := halfOff t g.d + sumTo (64 * g.b) g.marks * o.rb
        engMod slot (fun g => { g with c := 2 })
          (showState slot 2 (ioAdd slot (spillReads t off ((groupRuns g).foldl (· + ·) 0 * o.rb)) s))
    | 2 =>
      let merged := mergeRuns o.ks (readRecs o (groupRuns g) g.bytes)
      let s := writeRun slot t o.rb (halfOff t (1 - g.d) + sumTo (64 * g.b) g.marks * o.rb) (merged.map (·.take o.rb)) s
      engMod slot (fun g => { g with bytes := [], c := 3, b := g.b + 1 }) s
    | 3 =>
      if 64 * g.b < g.marks.length then engMod slot (fun g => { g with c := 1 }) s
      else engMod slot (fun g => { g with
        c := 1, b := 0, d := 1 - g.d, marks := (chunksOf 64 g.marks).map fun l => l.foldl (· + ·) 0 }) s
    | _ => finalMerge slot t o.ks o.rb (halfOff t g.d) g.marks (sortOut o.ks o.payload o.layout o.maps) s

/-- SORT (R122 to R124). -/
def execSort (slot : Nat) (s : State) : Host.Outcome State Fault Refusal :=
  .next (runStage slot [0x20] (runSort slot) s)

/-- TOP_N (R126). -/
def execTopN (slot : Nat) (s : State) : Host.Outcome State Fault Refusal :=
  .next (runStage slot [0x22] (fun t s => runSort slot t s) s)

/-! ### MERGE (R125)

`marks` holds the records of each input, `a` the input in work, `table` the key of its last record, `rows` the records in
SRAM, `b` 1 once the stage spills, `d` the bytes written, `c` the step: 0 the rows arrive, 1 the inputs have ended, 2 the
final merge of what was spilled. -/

/-- Key elements of a packed row by the FIELD of each key. -/
def mergeKey (op : List Byte) (l : Layout) (kc : Nat) (row : List Byte) : List Elem :=
  (List.range kc).map fun k => rowElem l row (mergeField op k)

/-- Packed rows that have arrived, in port order, each with its port; and the state without them (R65). -/
def takePorts (slot : Nat) (s : State) : List (Nat × List Byte) × State :=
  match taskAt s slot with
  | none => ([], s)
  | some t =>
    (t.ins.zipIdx.foldl (fun (acc : (List (Nat × List Byte) × State) × Bool) (p, i) =>
      if acc.2 then
        ((acc.1.1 ++ p.buf.map fun e => (i, e.getD []), dropPort slot i p.buf.length acc.1.2), p.ended)
      else acc) (([], s), true)).1

/-- The records held are written to spill, in whole 4 KiB blocks or, at the end of an input, all of them (R125). -/
def mergeSpill (slot : Nat) (rb : Nat) (all : Bool) (s : State) : State :=
  match taskAt s slot with
  | none => s
  | some t =>
    let n := if all then t.eng.rows.length else t.eng.rows.length * rb / 4096 * 4096 / rb
    let (bytes, s) := recsPad rb ((recsOf t.eng.rows).take n) s
    let ops := spillWrites t t.eng.d bytes ++ (if all then [.runDone] else [])
    ioAdd slot ops (engMod slot (fun g => { g with rows := g.rows.drop n, d := g.d + n * rb }) s)

/-- Inputs before a port have ended: where the stage spills, each is a run. -/
def mergePorts (slot rb port : Nat) : Nat → State → State
  | 0, s => s
  | fuel + 1, s =>
    match taskAt s slot with
    | none => s
    | some t =>
      if port ≤ t.eng.a then s
      else
        let s := if t.eng.b = 1 then mergeSpill slot rb true s else s
        mergePorts slot rb port fuel (engMod slot (fun g => { g with a := g.a + 1, table := [], marks := g.marks ++ [0] }) s)

/-- A record arrives at a port: below its predecessor there it fails the job; else it is held, or spilled (R125). -/
def mergeAdd (slot rb : Nat) (ks : List KeySpec) (key : List Byte → List Elem) (x : Nat × List Byte) (s : State) : State :=
  if !stillRuns slot s then s
  else
    let s := mergePorts slot rb x.1 64 s
    match taskAt s slot with
    | none => s
    | some t =>
      let k := normKey ks (key x.2)
      let ordinal := t.eng.marks.getD x.1 0
      if 0 < ordinal && bytesLt k t.eng.table then
        failTask slot 0x0212 { detail := ordinal, index := x.1 } (unitCount t.unit 6 1 s)
      else
        let s := unitCount t.unit 3 1 (engMod slot (fun g => { g with
          rows := g.rows ++ [[some (sortRec ks k x.2)]], table := k, marks := lmod g.marks x.1 (· + 1) }) s)
        if t.eng.b = 1 then mergeSpill slot rb false s else s

/-- MERGE, step by step. -/
def runMerge (slot : Nat) (t : Task) (s : State) : State :=
  let img := taskImg s t
  let op := taskOperand s t
  let o := sortOpOf s t
  let l := (inLayout img t.stage 0).getD noLayout
  let leave := fun (rs : List (List Byte)) (s : State) =>
    stageEnds slot (emitElems slot 0 ((mergeRuns o.ks (splitLens t.eng.marks rs)).map fun r => some (recRow o.ks l.width r))
      (engMod slot (fun g => { g with rows := [], bytes := [] }) (showState slot 3 s)))
  if !t.eng.io.isEmpty then runIo slot t.eng.io s
  else match t.eng.c with
    | 0 =>
      let p := taskPlan s t
      let big : Bool := mib8 < rowsInOf p (bounds p) t.stage * o.rb
      let s := if t.eng.started then s
        else engMod slot (fun g => { g with started := true, b := if big then 1 else 0, marks := [0] }) (showState slot 1 s)
      let (fresh, s) := takePorts slot s
      let s := fresh.foldl (fun s x => mergeAdd slot o.rb o.ks (mergeKey op l o.ks.length) x s) s
      match taskAt s slot with
      | none => s
      | some t =>
        if !(isRunning t && insDone t) then s
        else
          let s := mergePorts slot o.rb (t.ins.length - 1) 64 s
          let s := if t.eng.b = 1 then mergeSpill slot o.rb true s else s
          engMod slot (fun g => { g with c := 1 }) s
    | 1 =>
      if t.eng.b = 1 then engMod slot (fun g => { g with c := 2, parts := mergeCursors g.marks.length }) (showState slot 3 s)
      else leave (recsOf t.eng.rows) s
    | _ => finalMerge slot t o.ks o.rb 0 t.eng.marks (fun r => some (recRow o.ks l.width r)) s

/-- MERGE (R125). -/
def execMerge (slot : Nat) (s : State) : Host.Outcome State Fault Refusal :=
  .next (runStage slot [0x21] (runMerge slot) s)

end Sys2Proof.Machine
end

