-- ==== Sys2Proof/Machine/AggEng.lean ====
section
/-! DEFINITION. Grouping on the Mash and aggregate engines: HASH_GROUP, GROUP_SORTED, GROUP_HASH (chapters 05, 06). -/

namespace Sys2Proof.Machine

/-! ### Groups (R136, R113, R138) -/

/-- Rows of one group with their key image, in input order. -/
abbrev RowGroup := List Word × List (List Elem)

/-- A row with its key image and hash. -/
structure GRow where
  image : List Word
  hash : Nat
  row : List Elem
  deriving DecidableEq, Repr

/-- Distinct key images in order of first appearance. -/
def firstImages (rows : List GRow) : List (List Word) :=
  (rows.foldl (fun (acc : List (List Word)) r => if acc.contains r.image then acc else r.image :: acc) []).reverse

/-- The groups of the given images, each with its rows in input order. -/
def collect (images : List (List Word)) (rows : List GRow) : List RowGroup :=
  images.map fun im => (im, (rows.filter fun r => r.image = im).map (·.row))

/-! ### Output rows (R127 to R135) -/

/-- What an aggregate stage knows of its operand. -/
structure AggOp where
  keys : List KeySpec
  fields : List Nat
  ents : List (AggEnt × Nat × Nat)
  layout : Layout
  deriving DecidableEq, Repr

/-- The aggregate operand of a task: entries with the type and TPARAM of their inputs. -/
def aggOpOf (s : State) (t : Task) : AggOp :=
  let img := taskImg s t
  let a := aggPart (taskStage s t) (taskOperand s t)
  let keys := aggKeys img t.stage a
  { keys := keys, fields := (List.range keys.length).map (aggKeyField a)
    ents := (aggEnts a).map fun x => match inEntOf img t.stage x.input with
      | some e => (x, e.ty, e.tparam)
      | none => (x, 0, 0)
    layout := (outLayout img t.stage 0).getD noLayout }

/-- Present values of an input port over a group's rows. -/
def portVals (port : Nat) (rows : List (List Elem)) : List (List Byte) := rows.filterMap fun r => r.getD port none

/-- The results of every entry for a group. -/
def groupResults (o : AggOp) (rows : List (List Elem)) : List AggOut :=
  o.ents.map fun x => aggResult x.1 x.2.1 x.2.2 rows.length (portVals x.1.input rows)

/-- The lowest entry that overflows and may not become null (R132). -/
def overflowAt (o : AggOp) (rs : List AggOut) : Option Nat :=
  findPos (fun (p : (AggEnt × Nat × Nat) × AggOut) => p.2 = .overflow && !p.1.1.ovfNull) (o.ents.zip rs)

/-- A group's output row (R127, R128). -/
def groupRow (o : AggOp) (rows : List (List Elem)) (rs : List AggOut) : List Byte :=
  let key := rows.headD []
  packRow o.layout ((List.range o.layout.fields.length).map fun f =>
    match findPos (· = f) o.fields with
    | some k => (key.getD k none).map (canonKey (o.keys.getD k { ty := 0 }).ty)
    | none => match (o.ents.zip rs).find? fun p => p.1.1.outField = f with
      | some (_, .value b) => some b
      | _ => none)

/-- A group's row is formed, checked and emitted (R130 to R132); `c` counts output rows. -/
def emitGroup (slot : Nat) (o : AggOp) (rows : List (List Elem)) (s : State) : State :=
  match taskAt s slot with
  | none => s
  | some t =>
    let rs := groupResults o rows
    match overflowAt o rs with
    | some i =>
      let decimal : Bool := isDecimal (o.ents.getD i (⟨0, 0, 0, false, 0, 0, 0, 0, 0⟩, 0, 0)).1.rty
      failTask slot (if decimal then 0x020D else 0x020E) { detail := t.eng.c, index := i } s
    | none =>
      let agg : Bool := 0xA0 ≤ t.unit && t.unit ≤ 0xA7
      let s := if agg then unitCount t.unit 6 (rs.count .overflow) s else s
      let s := if agg && capAllows s t 0 1 then unitCount t.unit 4 1 s else s
      emitElems slot 0 [some (groupRow o rows rs)] (engMod slot (fun g => { g with c := g.c + 1 }) s)

/-- Closed groups leave in order, each formed once the row before it has left (R113, R132, R137). -/
def leaveGroups (slot : Nat) (o : AggOp) : List (List (List Elem)) → State → State
  | [], s => engMod slot (fun g => { g with groups := [] }) s
  | x :: xs, s =>
    match taskAt s slot with
    | none => s
    | some t =>
      if !isRunning t then s
      else if !t.eng.results.isEmpty then engMod slot (fun g => { g with groups := x :: xs }) s
      else leaveGroups slot o xs (emitGroup slot o x s)

/-- Seed of a grouping stage: the Mash prefix's, or the fixed one of R138. -/
def groupSeed (e : StageEnt) (op : List Byte) : Nat := if e.op = 0x13 then fld op 8 8 else 0x6C3B000000000001

/-- Bytes of a spilled row: 8, the key image, each aggregate input rounded up to 8 (R138). -/
def groupRowBytes (img : List Byte) (stage : Nat) (e : StageEnt) (keys : List KeySpec) : Nat :=
  let ws := (List.range (e.ins - keys.length)).map fun k => match inEntOf img stage (keys.length + k) with
    | some x => roundUp (elemWidth img x.ty x.layout) 8
    | none => 0
  8 + 8 * keyWords keys + ws.foldl (· + ·) 0

/-! ### HASH_GROUP and GROUP_HASH (R113, R138)

`rows` holds the rows of resident groups, `b` the level of hash bits of the rows in work, fresh parts the rows of theirs that
are not resident, parts the partitions that wait; part 16 × level + i is partition i of the rows at a level. `d` is the
step: 0 the rows arrive, 1 their last block has been written, 2 their groups leave, 3 a partition has been read. -/

/-- What a grouping stage knows beside its operand: C, the width of a spilled row, the seed. -/
structure GroupOp where
  agg : AggOp
  cap : Nat
  width : Nat
  seed : Nat
  deriving DecidableEq, Repr

/-- The operand of a grouping task. -/
def groupOpOf (s : State) (t : Task) : GroupOp :=
  let img := taskImg s t
  let e := taskStage s t
  let o := aggOpOf s t
  { agg := o, cap := groupCap img t.stage e (taskOperand s t), width := groupRowBytes img t.stage e o.keys
    seed := groupSeed e (taskOperand s t) }

/-- A row with its key image and hash. -/
def groupedRow (o : GroupOp) (row : List Elem) : GRow :=
  let im := keyImage o.agg.keys (row.take o.agg.keys.length)
  { image := im, hash := (mashHash im (BitVec.ofNat 64 o.seed)).toNat, row := row }

/-- The part of a row beyond C groups: by the next 4 bits of h[63:32], or the one part once they are exhausted. -/
def groupPart (level hash : Nat) : Nat := 16 * level + (if level < 8 then hashBits hash (4 * level) 4 else 0)

/-- A row joins its group if that is resident or C groups are not; else it is spilled, in whole blocks (R113). Blocks hold
content whose layout no rule states. -/
def groupAdd (slot : Nat) (o : GroupOp) (row : List Elem) (s : State) : State :=
  match taskAt s slot with
  | none => s
  | some t =>
    let g := t.eng
    let r := groupedRow o row
    let known := firstImages (g.rows.map (groupedRow o))
    if known.contains r.image || known.length < o.cap then engMod slot (fun g => { g with rows := g.rows ++ [row] }) s
    else
      let (p, full) := partAdd (partBlocks (g.parts ++ g.fresh)) row o.width (partOf g.fresh (groupPart g.b r.hash))
      let ops := match full with
        | some b => spillScratch t (4096 * b) 4096
        | none => []
      engMod slot (fun g => { g with fresh := partPut p g.fresh, io := g.io ++ ops }) s

/-- The groups of the rows held are closed, in order of first appearance, and the partitions of the rest wait before those
already waiting (R113 steps 3 and 4). -/
def closeGroups (slot : Nat) (o : GroupOp) (s : State) : State :=
  engMod slot (fun g =>
    let rs := g.rows.map (groupedRow o)
    { g with groups := (collect (firstImages rs) rs).map (·.2), rows := [], parts := g.fresh ++ g.parts, fresh := [], d := 2 }) s

/-- Closed groups leave; then the next partition is read, or the stage ends. -/
def groupsLeave (slot : Nat) (t : Task) (o : GroupOp) (s : State) : State :=
  let s := leaveGroups slot o.agg t.eng.groups (showState slot (if 0xA0 ≤ t.unit then 3 else 2) s)
  match taskAt s slot with
  | none => s
  | some t =>
    if !(isRunning t && t.eng.groups.isEmpty && t.eng.results.isEmpty) then s
    else match t.eng.parts with
      | [] => stageEnds slot s
      | p :: _ => toStep slot 3 (ioAdd slot (p.blocks.flatMap fun b => spillReads t (4096 * b) 4096) s)

/-- A partition that has been read is aggregated in the same way; its blocks are free (R113 steps 4 and 5). -/
def groupsAgain (slot : Nat) (t : Task) (o : GroupOp) (s : State) : State :=
  match t.eng.parts with
  | [] => s
  | p :: rest =>
    let s := engMod slot (fun g => { g with bytes := [], parts := rest, b := min 8 (p.id / 16 + 1) }) s
    toStep slot 1 (p.rows.foldl (fun s r => groupAdd slot o r s) s)

/-- Rows arrive (step 0). -/
def groupTake (slot : Nat) (t : Task) (o : GroupOp) (s : State) : State :=
  let agg : Bool := 0xA0 ≤ t.unit
  let s := engMod slot (fun g => { g with started := true }) (showState slot (if agg then 1 else 2) s)
  let (rows, s) := takeKeyed slot o.agg.keys t.eng.a s
  let s := if agg then unitCount t.unit 3 rows.length s else s
  let s := engMod slot (fun g => { g with a := g.a + rows.length }) s
  let s := rows.foldl (fun s r => groupAdd slot o r s) s
  match taskAt s slot with
  | none => s
  | some t => if isRunning t && insDone t then toStep slot 1 s else s

/-- HASH_GROUP and GROUP_HASH, step by step. -/
def runGroups (slot : Nat) (t : Task) (s : State) : State :=
  let o := groupOpOf s t
  if !t.eng.io.isEmpty then runIo slot t.eng.io (showState slot (if 0xA0 ≤ t.unit then 2 else 3) s)
  else match t.eng.d with
    | 0 => groupTake slot t o s
    | 1 => closeGroups slot o s
    | 2 => groupsLeave slot t o s
    | _ => groupsAgain slot t o s

/-- HASH_GROUP (R113). -/
def execHashGroup (slot : Nat) (s : State) : Host.Outcome State Fault Refusal :=
  .next (runStage slot [0x13] (runGroups slot) s)

/-- GROUP_HASH (R138). -/
def execGroupHash (slot : Nat) (s : State) : Host.Outcome State Fault Refusal :=
  .next (runStage slot [0x31] (fun t s => runGroups slot t s) s)

/-! ### GROUP_SORTED (R137) -/

/-- Keys with the order of DESC_KEYS and NULLS_LAST_KEYS. -/
def sortedKeys (a : List Byte) (keys : List KeySpec) : List KeySpec :=
  keys.zipIdx.map fun (k, i) =>
    { k with kflags := (if (fld a 2 1).testBit i then 1 else 0) + (if (fld a 3 1).testBit i then 2 else 0) }

/-- One row joins the open group, closes it, or is out of order (R137). `rows` holds the open group, `b` counts rows
taken. DESIGN CHOICE (log 65): INDEX of the ORDER_VIOLATION record is 0xFFFF, since the row's key spans the key ports. -/
def sortedRow (slot : Nat) (o : AggOp) (ks : List KeySpec) (row : List Elem) (s : State) : State :=
  match taskAt s slot with
  | none => s
  | some t =>
    match longKey o.keys row with
    | some p => failTask slot 0x0210 { detail := t.eng.b, index := p } s
    | none =>
      let key := normKey ks (row.take ks.length)
      let join := fun (s : State) =>
        unitCount t.unit 3 1 (engMod slot (fun g => { g with rows := g.rows ++ [row], b := g.b + 1 }) s)
      match t.eng.rows.head? with
      | none => join s
      | some first =>
        let was := normKey ks (first.take ks.length)
        if key = was then join s
        else if bytesLt key was then failTask slot 0x0212 { detail := t.eng.b } s
        else join (emitGroup slot o t.eng.rows (engMod slot (fun g => { g with rows := [] }) s))

/-- GROUP_SORTED: a group's row leaves as the group closes; while one waits, the engine is emitting. -/
def runSorted (slot : Nat) (t : Task) (s : State) : State :=
  let o := aggOpOf s t
  let ks := sortedKeys (taskOperand s t) o.keys
  let s := engMod slot (fun g => { g with started := true }) s
  let (rows, s) := if t.eng.pend.isEmpty then takeRows slot s else (t.eng.pend, s)
  let s := eachPending slot (sortedRow slot o ks) rows s
  match taskAt s slot with
  | none => s
  | some t =>
    if !isRunning t then s
    else if !t.eng.results.isEmpty then showState slot 3 s
    else if !(insDone t && t.eng.pend.isEmpty) then showState slot 1 s
    else if t.eng.rows.isEmpty then stageEnds slot s
    else stageEnds slot (emitGroup slot o t.eng.rows (engMod slot (fun g => { g with rows := [] }) (showState slot 3 s)))

/-- GROUP_SORTED (R137). -/
def execGroupSorted (slot : Nat) (s : State) : Host.Outcome State Fault Refusal :=
  .next (runStage slot [0x30] (runSorted slot) s)

end Sys2Proof.Machine
end

