-- ==== Sys2Proof/Machine/Crypto.lean ====
section
/-! DEFINITION. Digests, HMAC and AES key wrap (R371, R379, R383), from the definitions of FIPS 180-4, FIPS 202,
FIPS 197, RFC 2104 and RFC 3394 that the spec names. -/

namespace Sys2Proof.Machine

/-! ### SHA-2 -/

/-- The number a big-endian byte string holds. -/
def beNum (bs : List Byte) : Nat := bs.foldl (fun n b => 256 * n + b.toNat) 0

/-- The first n primes, by trial division. -/
def primes (n : Nat) : List Nat :=
  ((List.range 500).filter fun p => 2 ≤ p && (List.range p).all fun d => d < 2 || p % d ≠ 0).take n

/-- The greatest number below 2^bits whose k-th power is at most x. -/
def intRoot (k x : Nat) : Nat → Nat → Nat
  | 0, r => r
  | bit + 1, r => if (r + 2 ^ bit) ^ k ≤ x then intRoot k x bit (r + 2 ^ bit) else intRoot k x bit r

/-- The first 64 bits of the fraction of a k-th root. -/
def rootFrac (k p : Nat) : Nat := intRoot k (p * 2 ^ (64 * k)) 80 0 % 2 ^ 64

/-- Round constants of SHA-512; those of SHA-256 are their high halves. -/
def shaK : List Nat := (primes 80).map (rootFrac 3)

/-- Rotations and shifts of a SHA-2 function: Σ0, Σ1, σ0, σ1. -/
structure ShaRot where
  w : Nat
  rounds : Nat
  s0 : List Nat
  s1 : List Nat
  g0 : List Nat
  g1 : List Nat

/-- SHA-256. -/
def rot256 : ShaRot := ⟨32, 64, [2, 13, 22], [6, 11, 25], [7, 18, 3], [17, 19, 10]⟩

/-- SHA-384 and SHA-512. -/
def rot512 : ShaRot := ⟨64, 80, [28, 34, 39], [14, 18, 41], [1, 8, 7], [19, 61, 6]⟩

/-- Rotation of a w-bit number to the right. -/
def rotr (w x n : Nat) : Nat := x / 2 ^ n + x % 2 ^ n * 2 ^ (w - n)

/-- A Σ function: three rotations. -/
def bigSigma (w : Nat) (r : List Nat) (x : Nat) : Nat := rotr w x (r.getD 0 0) ^^^ rotr w x (r.getD 1 0) ^^^ rotr w x (r.getD 2 0)

/-- A σ function: two rotations and a shift. -/
def smallSigma (w : Nat) (r : List Nat) (x : Nat) : Nat := rotr w x (r.getD 0 0) ^^^ rotr w x (r.getD 1 0) ^^^ (x / 2 ^ r.getD 2 0)

/-- The message schedule of a block, newest word first. -/
def shaSchedule (c : ShaRot) (block : List Byte) : List Nat :=
  let first := ((List.range 16).map fun i => beNum (slice block (c.w / 8 * i) (c.w / 8))).reverse
  ((List.range (c.rounds - 16)).foldl (fun (ws : List Nat) _ =>
    (smallSigma c.w c.g1 (ws.getD 1 0) + ws.getD 6 0 + smallSigma c.w c.g0 (ws.getD 14 0) + ws.getD 15 0) % 2 ^ c.w :: ws) first).reverse

/-- One block taken into the chaining value. -/
def shaBlock (c : ShaRot) (h : List Nat) (block : List Byte) : List Nat :=
  let m := 2 ^ c.w
  let ks := shaK.map fun k => k / 2 ^ (64 - c.w)
  let v := ((shaSchedule c block).zip ks).foldl (fun (v : List Nat) (w, k) =>
    let x := fun i => v.getD i 0
    let ch := (x 4 &&& x 5) ^^^ ((m - 1 - x 4) &&& x 6)
    let t1 := x 7 + bigSigma c.w c.s1 (x 4) + ch + k + w
    let maj := (x 0 &&& x 1) ^^^ (x 0 &&& x 2) ^^^ (x 1 &&& x 2)
    [(t1 + bigSigma c.w c.s0 (x 0) + maj) % m, x 0, x 1, x 2, (x 3 + t1) % m, x 4, x 5, x 6]) h
  (h.zip v).map fun (a, b) => (a + b) % m

/-- The end of a message of `count` bytes, from a block boundary on, padded for SHA-2. -/
def shaPad (c : ShaRot) (count : Nat) (rest : List Byte) : List Byte :=
  let b := 2 * c.w
  let n := count + 1 + c.w / 4
  rest ++ [0x80] ++ List.replicate ((b - n % b) % b) 0 ++ beBytes (c.w / 4) (8 * count)

/-- Initial value of SHA-512. -/
def iv512 : List Nat := (primes 8).map (rootFrac 2)

/-- Initial value of SHA-384. -/
def iv384 : List Nat := ((primes 16).drop 8).map (rootFrac 2)

/-- Initial value of SHA-256. -/
def iv256 : List Nat := iv512.map (· / 2 ^ 32)

/-! ### SHA-3 -/

/-- Lane (x, y) of a Keccak state. -/
def lane (a : List Nat) (x y : Nat) : Nat := a.getD (x % 5 + 5 * (y % 5)) 0

/-- A state from its lanes. -/
def lanes (f : Nat → Nat → Nat) : List Nat := (List.range 25).map fun i => f (i % 5) (i / 5)

/-- Rotation of a 64-bit lane to the left. -/
def rotl64 (x n : Nat) : Nat := rotr 64 x (64 - n % 64) % 2 ^ 64

/-- Offsets of ρ, by lane. -/
def rhoOffsets : List Nat :=
  ((List.range 24).foldl (fun (acc : List Nat × Nat × Nat) t =>
    let x := acc.2.1
    let y := acc.2.2
    (lset acc.1 (x + 5 * y) ((t + 1) * (t + 2) / 2 % 64), y, (2 * x + 3 * y) % 5)) (List.replicate 25 0, 1, 0)).1
where
  /-- A list with one element changed. -/
  lset (l : List Nat) (i v : Nat) : List Nat := l.zipIdx.map fun (x, j) => if j = i then v else x

/-- Round constants of ι, from the linear-feedback register. -/
def iotaRc : List Nat :=
  let step := fun r => let r2 := 2 * r; if 256 ≤ r2 then r2 ^^^ 0x171 else r2
  let bits := ((List.range 168).foldl (fun (acc : List Nat × Nat) _ => (acc.1 ++ [acc.2 % 2], step acc.2)) ([], 1)).1
  (List.range 24).map fun i => ((List.range 7).map fun j => bits.getD (7 * i + j) 0 * 2 ^ (2 ^ j - 1)).foldl (· + ·) 0

/-- One round of Keccak-f[1600]. -/
def keccakRound (a : List Nat) (rc : Nat) : List Nat :=
  let c := (List.range 5).map fun x => (List.range 5).foldl (fun v y => v ^^^ lane a x y) 0
  let d := fun x => c.getD ((x + 4) % 5) 0 ^^^ rotl64 (c.getD ((x + 1) % 5) 0) 1
  let t := lanes fun x y => lane a x y ^^^ d x
  let b := lanes fun x y =>
    let sx := (x + 3 * y) % 5
    rotl64 (lane t sx x) (rhoOffsets.getD (sx + 5 * x) 0)
  let e := lanes fun x y => lane b x y ^^^ ((2 ^ 64 - 1 - lane b (x + 1) y) &&& lane b (x + 2) y)
  (e.headD 0 ^^^ rc) :: e.drop 1

/-- The end of a message, from a block boundary on, padded for SHA-3 with a rate in bytes (R372). -/
def sha3Pad (rate : Nat) (rest : List Byte) : List Byte :=
  let q := rate - rest.length % rate
  rest ++ (if q = 1 then [(0x86 : Byte)] else [0x06] ++ List.replicate (q - 2) 0 ++ [0x80])

/-- One block taken into a Keccak state. -/
def sha3Block (a : List Nat) (blk : List Byte) : List Nat :=
  iotaRc.foldl keccakRound (lanes fun x y => lane a x y ^^^ fld blk (8 * (x + 5 * y)) 8)

/-! ### The algorithms of Table 18-1 -/

/-- Block size. -/
def digestBlock (alg : Nat) : Nat :=
  match alg with
  | 1 => 64 | 2 => 128 | 3 => 128 | 4 => 136
  | _ => 72

/-- Digest length. -/
def algLen (alg : Nat) : Nat :=
  match alg with
  | 1 => 32 | 2 => 48 | 3 => 64 | 4 => 32
  | _ => 64

/-- The chaining state a message starts from. -/
def digestIv (alg : Nat) : List Nat :=
  match alg with
  | 1 => iv256 | 2 => iv384 | 3 => iv512
  | _ => List.replicate 25 0

/-- One block taken into a chaining state. -/
def digestStep (alg : Nat) (h : List Nat) (block : List Byte) : List Nat :=
  match alg with
  | 1 => shaBlock rot256 h block
  | 2 | 3 => shaBlock rot512 h block
  | _ => sha3Block h block

/-- The padded final blocks of a message of `count` bytes, from its bytes since a block boundary (R372). -/
def digestTail (alg count : Nat) (rest : List Byte) : List Byte :=
  match alg with
  | 1 => shaPad rot256 count rest
  | 2 | 3 => shaPad rot512 count rest
  | _ => sha3Pad (digestBlock alg) rest

/-- The digest a final chaining state gives. -/
def digestOut (alg : Nat) (h : List Nat) : List Byte :=
  (h.flatMap fun x => if alg = 1 then beBytes 4 x else if alg ≤ 3 then beBytes 8 x else leBytes 8 x).take (algLen alg)

/-- A message's end digested from a chaining state: the blocks of `rest`, padded for `count` bytes in all. -/
def digestEnd (alg : Nat) (h : List Nat) (count : Nat) (rest : List Byte) : List Byte :=
  digestOut alg ((chunksOf (digestBlock alg) (digestTail alg count rest)).foldl (digestStep alg) h)

/-- The digest of a message. -/
def digest (alg : Nat) (msg : List Byte) : List Byte := digestEnd alg (digestIv alg) msg.length msg

/-- A key brought to the block size (R371). -/
def hmacKey (alg : Nat) (key : List Byte) : List Byte :=
  slice (if digestBlock alg < key.length then digest alg key else key) 0 (digestBlock alg)

/-- HMAC (RFC 2104). -/
def hmac (alg : Nat) (key msg : List Byte) : List Byte :=
  let k := hmacKey alg key
  digest alg ((k.map (· ^^^ 0x5C)) ++ digest alg ((k.map (· ^^^ 0x36)) ++ msg))

/-- Blocks an engine processes for a message of n bytes (R372). -/
def digestBlocks (alg n : Nat) : Nat :=
  let b := digestBlock alg
  if alg ≤ 3 then (n + 1 + b / 8 + b - 1) / b else n / b + 1

/-- Blocks of an HMAC: the key's digest where the key is long, the inner and the outer hash. -/
def hmacBlocks (alg key n : Nat) : Nat :=
  let b := digestBlock alg
  (if b < key then digestBlocks alg key else 0) + digestBlocks alg (b + n) + digestBlocks alg (b + algLen alg)

/-! ### AES-256 key wrap (FIPS 197, RFC 3394) -/

/-- A byte multiplied by x in GF(2^8). -/
def gfDouble (a : Nat) : Nat := if 128 ≤ a then (2 * a) ^^^ 0x11B else 2 * a

/-- The product in GF(2^8). -/
def gfMul (a b : Nat) : Nat :=
  ((List.range 8).foldl (fun (acc : Nat × Nat) i => (if b.testBit i then acc.1 ^^^ acc.2 else acc.1, gfDouble acc.2)) (0, a)).1

/-- The inverse in GF(2^8): the 254th power. -/
def gfInv (a : Nat) : Nat := (List.range 253).foldl (fun x _ => gfMul x a) a

/-- The S-box. -/
def sboxOf (a : Nat) : Nat :=
  let b := gfInv a
  let r := fun n => b * 2 ^ n % 256 + b / 2 ^ (8 - n)
  b ^^^ r 1 ^^^ r 2 ^^^ r 3 ^^^ r 4 ^^^ 0x63

/-- The S-box as a table. -/
def sbox : Array Nat := ((List.range 256).map sboxOf).toArray

/-- The inverse S-box as a table. -/
def sboxInv : Array Nat := ((List.range 256).map fun v => ((List.range 256).find? fun a => sbox.getD a 0 = v).getD 0).toArray

/-- The round keys of a 32-byte key: 60 words of 4 bytes. -/
def aesKeys (key : List Byte) : List (List Nat) :=
  let first := ((List.range 8).map fun i => (slice key (4 * i) 4).map (·.toNat)).reverse
  ((List.range 52).foldl (fun (ws : List (List Nat)) j =>
    let i := j + 8
    let prev := ws.headD []
    let old := ws.getD 7 []
    let sub := fun (w : List Nat) => w.map fun x => sbox.getD x 0
    let rcon := (List.range (i / 8 - 1)).foldl (fun x _ => gfDouble x) 1
    let t := if i % 8 = 0 then
        match sub (prev.drop 1 ++ prev.take 1) with
        | a :: rest => (a ^^^ rcon) :: rest
        | [] => []
      else if i % 8 = 4 then sub prev else prev
    List.zipWith (· ^^^ ·) old t :: ws) first).reverse

/-- Round key r as 16 bytes. -/
def aesRoundKey (ks : List (List Nat)) (r : Nat) : List Nat := ((ks.drop (4 * r)).take 4).flatten

/-- Exclusive-OR of two byte lists. -/
def xorL (a b : List Nat) : List Nat := List.zipWith (· ^^^ ·) a b

/-- Column mix by a row of coefficients. -/
def mixCols (c : List Nat) (s : List Nat) : List Nat :=
  (List.range 16).map fun i =>
    (List.range 4).foldl (fun v k => v ^^^ gfMul (c.getD ((k + 4 - i % 4) % 4) 0) (s.getD (i / 4 * 4 + k) 0)) 0

/-- AES-256 encryption of a block. -/
def aesEnc (ks : List (List Nat)) (b : List Nat) : List Nat :=
  let sub := fun (s : List Nat) => (List.range 16).map fun i => sbox.getD (s.getD ((i + 4 * (i % 4)) % 16) 0) 0
  let s := (List.range 13).foldl (fun s r => xorL (mixCols [2, 3, 1, 1] (sub s)) (aesRoundKey ks (r + 1))) (xorL b (aesRoundKey ks 0))
  xorL (sub s) (aesRoundKey ks 14)

/-- AES-256 decryption of a block. -/
def aesDec (ks : List (List Nat)) (b : List Nat) : List Nat :=
  let sub := fun (s : List Nat) => (List.range 16).map fun i => sboxInv.getD (s.getD ((i + 16 - 4 * (i % 4)) % 16) 0) 0
  let s := (List.range 13).foldl (fun s r => mixCols [14, 11, 13, 9] (xorL (sub s) (aesRoundKey ks (13 - r)))) (xorL b (aesRoundKey ks 14))
  xorL (sub s) (aesRoundKey ks 0)

/-- RFC 3394 wrap of a key of n 8-byte blocks under a 32-byte key: n + 1 blocks. -/
def keyWrap (kek key : List Byte) : List Byte :=
  let ks := aesKeys kek
  let rs := (chunksOf 8 key).map fun c => c.map (·.toNat)
  let n := rs.length
  let out := (List.range (6 * n)).foldl (fun (acc : List Nat × List (List Nat)) t =>
    let i := t % n
    let b := aesEnc ks (acc.1 ++ acc.2.getD i [])
    (xorL (b.take 8) ((beBytes 8 (t + 1)).map (·.toNat)), acc.2.zipIdx.map fun (r, j) => if j = i then b.drop 8 else r))
    (List.replicate 8 0xA6, rs)
  (out.1 ++ out.2.flatten).map (BitVec.ofNat 8)

/-- RFC 3394 unwrap; none when the integrity check fails. -/
def keyUnwrap (kek w : List Byte) : Option (List Byte) :=
  let ks := aesKeys kek
  let cs := (chunksOf 8 w).map fun c => c.map (·.toNat)
  let n := cs.length - 1
  let out := (List.range (6 * n)).foldl (fun (acc : List Nat × List (List Nat)) k =>
    let t := 6 * n - 1 - k
    let i := t % n
    let b := aesDec ks (xorL acc.1 ((beBytes 8 (t + 1)).map (·.toNat)) ++ acc.2.getD i [])
    (b.take 8, acc.2.zipIdx.map fun (r, j) => if j = i then b.drop 8 else r)) (cs.headD [], cs.drop 1)
  if out.1 = List.replicate 8 0xA6 then some (out.2.flatten.map (BitVec.ofNat 8)) else none

end Sys2Proof.Machine
end

