-- ==== Sys2Proof/Machine/Service.lean ====
section
/-! DEFINITION. Units that leave service (R482). -/

namespace Sys2Proof.Machine

/-- Whether a phase can still be placed on the units that serve (R67, R73). -/
def phasePlaceable (s : State) (img : List Byte) (ph : Nat) : Bool :=
  grantKinds.all (fun k => phaseUnits img ph k ≤ enabledCount s k) && !pinsBad s img ph

/-- Whether an accepted job has a phase, not yet placed, that can no longer be placed. -/
def strandedJob (s : State) (j : Job) : Bool :=
  j.ended.isNone && (match j.plan with
    | some p => j.phases.zipIdx.any fun (ph, i) =>
        (ph.run = .waiting || ph.run = .blocked) && !phasePlaceable s p.image i
    | none => false)

/-- A unit has left service: each accepted phase that can then no longer be placed fails with ENGINE_FAULT, and its
record names the unit (R482). -/
def unitLeft (u : Nat) (s : State) : State :=
  (s.js.jobs.filter (strandedJob s)).foldl (fun s j => failJob j.jid 0x0502 { unit := u } s) s

end Sys2Proof.Machine
end

