-- ==== Sys2Proof/Machine/Pages.lean ====
section
/-! DEFINITION. Column pages: header, checks 2 to 14 of Table 02-6, decoding, dictionary pages (chapter 02, R504). -/

namespace Sys2Proof.Machine

/-- A failed page check: status, reason of Table 02-6 and, for checks 11 to 14, the row within the row group. -/
structure PFail where
  status : Nat := 0x0201
  reason : Nat := 0
  row : Nat := 0
  deriving DecidableEq, Repr

/-- The fields of a page header (Tables 02-1 to 02-3). -/
structure PageHdr where
  magic : Nat
  version : Nat
  kind : Nat
  ty : Nat
  enc : Nat
  dict : Bool
  nullable : Bool
  allNull : Bool
  hasCrc : Bool
  ordered : Bool
  width : Nat
  tparam : Nat
  prec : Nat
  colId : Nat
  group : Nat
  firstRow : Nat
  rows : Nat
  used : Nat
  nullOff : Nat
  valOff : Nat
  valLen : Nat
  dictCount : Nat
  dictAddr : Nat
  base : Nat
  minDelta : Int
  pcrc : Nat
  hcrcOk : Bool
  deriving DecidableEq, Repr

/-- The header of a page's bytes. DESIGN CHOICE (log 61): bytes that an inflated page shorter than its header lacks read
as 0, so that such a page fails at the first check that this trips (R44). -/
def pageHdr (p : List Byte) : PageHdr :=
  let fl := fld p 8 2
  { magic := fld p 0 4, version := fld p 4 1, kind := fld p 5 1, ty := fld p 6 1, enc := fld p 7 1 % 16
    dict := (fld p 7 1).testBit 7, nullable := fl.testBit 0, allNull := fl.testBit 1, hasCrc := fl.testBit 2
    ordered := fl.testBit 3, width := fld p 0x0A 1, tparam := fld p 0x0B 1, prec := fld p 0x0C 1
    colId := fld p 0x0E 2, group := fld p 0x10 4, firstRow := fld p 0x14 4, rows := fld p 0x18 4
    used := fld p 0x1C 4, nullOff := fld p 0x20 4, valOff := fld p 0x24 4, valLen := fld p 0x28 4
    dictCount := fld p 0x2C 4, dictAddr := fld p 0x30 8, base := fld p 0x38 8, minDelta := toSigned 64 (fld p 0x40 8)
    pcrc := fld p 0x48 4, hcrcOk := crc32c (slice p 0 0x7C) = fld p 0x7C 4 }

/-- Bytes R29 reads of a page: the larger of 128 and USED_LENGTH, within the page. -/
def pageReadLen (head : List Byte) : Nat := min 65536 (max 128 (fld head 0x1C 4))

/-- The first failing check of a list. -/
def firstFail (l : List (Bool × PFail)) : Option PFail := (l.find? (·.1)).map (·.2)

/-- A PAGE_FORMAT failure. -/
def pageFormat (reason : Nat) : PFail := { reason := reason }

/-- Checks 2 to 4. -/
def checkBasic (h : PageHdr) : Option PFail :=
  firstFail [(h.magic ≠ 0x31504359, pageFormat 1), (h.version ≠ 1, pageFormat 2), (!h.hcrcOk, pageFormat 3)]

/-- Greatest width of BITPACK and FOR fields of a type (Table 02-5); 0 where not permitted. -/
def packWidth (ty : Nat) : Nat :=
  match ty with
  | 2 | 6 => 8
  | 3 | 7 => 16
  | 4 | 8 | 14 => 32
  | 5 | 9 | 15 => 64
  | _ => 0

/-- Whether type, ENC and WIDTH form a combination of Table 02-5 (R35). -/
def encodingOk (h : PageHdr) : Bool :=
  let b := h.width
  if h.dict then 2 ≤ h.ty && h.ty ≤ 16 && ((h.enc = 1 && 1 ≤ b && b ≤ 16) || (h.enc = 4 && b = 0))
  else match h.enc with
    | 0 => 1 ≤ h.ty && h.ty ≤ 16 && b = 0
    | 1 => if h.ty = 1 then b = 1 else 1 ≤ b && b ≤ packWidth h.ty
    | 2 => if h.ty = 10 then b ≤ 64 else packWidth h.ty ≠ 0 && b ≤ packWidth h.ty
    | 3 => [3, 4, 5, 10, 14, 15].contains h.ty && b ≤ 64
    | 4 => isFixedType h.ty && b = 0
    | _ => false

/-- Check 6 (R35, Table 02-3, R76); `coded` is CFLAGS.CODED. -/
def checkEncoding (h : PageHdr) (coded : Bool) : Option PFail :=
  firstFail [((h.allNull && (!h.nullable || h.nullOff ≠ 0 || h.valLen ≠ 0)) || h.dict ≠ coded || !encodingOk h, pageFormat 5)]

/-- Bytes of n fields of b bits. -/
def fieldBytes (n b : Nat) : Nat := (n * b + 7) / 8

/-- Exact length of a DELTA value section (R37). -/
def deltaLen (rows b : Nat) : Nat :=
  if rows = 0 then 0
  else
    let blocks := (rows + 511) / 512
    let last := rows - 512 * (blocks - 1)
    (blocks - 1) * roundUp (8 + fieldBytes 511 b) 8 + 8 + fieldBytes (last - 1) b

/-- The length the value section must have, where check 7 fixes it. DESIGN CHOICE (log 61): a PLAIN section of
a fixed-width type must hold ROW_COUNT values exactly; no rule says which check refuses another VALUE_LENGTH. -/
def valueLen (h : PageHdr) : Option Nat :=
  if h.allNull || h.enc = 4 then none
  else if h.dict || h.enc = 1 || h.enc = 2 then some (fieldBytes h.rows h.width)
  else if h.enc = 3 then some (deltaLen h.rows h.width)
  else if h.ty = tyVar then none
  else some (h.rows * valueWidth h.ty)

/-- Whether the page has a null bitmap. -/
def PageHdr.bitmap (h : PageHdr) : Bool := h.nullable && !h.allNull

/-- Check 7 (R29, R33, R36, R37); `len` is the length of an inflated page (R44). DESIGN CHOICE (log 61): a
USED_LENGTH above 65,536, for which the spec names no check, fails here, 65,536 bytes having been read. -/
def checkLayout (h : PageHdr) (len : Option Nat) : Option PFail :=
  let nl := (h.rows + 63) / 64 * 8
  let out := fun (o n : Nat) => o % 8 ≠ 0 || o < 128 || h.used < o + n
  firstFail [
    (h.used < 128 || 65536 < h.used ||
     (match len with
       | some n => n ≠ h.used
       | none => false) ||
     (if h.bitmap then h.nullOff = 0 || out h.nullOff nl else h.nullOff ≠ 0) ||
     (if h.valLen = 0 then h.valOff ≠ 0 && out h.valOff 0 else out h.valOff h.valLen) ||
     (h.bitmap && h.valLen ≠ 0 && h.nullOff < h.valOff + h.valLen && h.valOff < h.nullOff + nl) ||
     (match valueLen h with
       | some n => h.valLen ≠ n
       | none => false), pageFormat 6)]

/-- Check 10. -/
def checkPayload (p : List Byte) (h : PageHdr) : Option PFail :=
  firstFail [(h.hasCrc && crc32c (slice p 128 (h.used - 128)) ≠ h.pcrc, { status := 0x0202 })]

/-- Whether the row at a position is present (R33). -/
def rowHere (p : List Byte) (h : PageHdr) (i : Nat) : Bool :=
  if h.allNull then false else !h.bitmap || bitAt (p.drop h.nullOff) i

/-- What an encoding holds at a position before it is checked: bytes of a value, an exact integer, or a code. -/
inductive PosVal
  | bytes (b : List Byte)
  | int (v : Int)
  | code (c : Nat)
  deriving DecidableEq, Repr

/-- Field i of b bits of a bit stream that starts at a byte (R36). -/
def bitField (sec : List Byte) (start b i : Nat) : Nat :=
  let bit := i * b
  leNat (slice sec (start + bit / 8) ((b + 14) / 8)) >>> (bit % 8) % 2 ^ b

/-- The positions of a DELTA section, block by block (R36, R37). -/
def deltaVals (sec : List Byte) (b : Nat) (md : Int) : Nat → Nat → Nat → List Int
  | 0, _, _ => []
  | fuel + 1, pos, left =>
    if left = 0 then []
    else
      let r := min 512 left
      let v0 := toSigned 64 (fld sec pos 8)
      let vs := (List.range (r - 1)).foldl (fun (acc : List Int × Int) k =>
        let v := acc.2 + md + bitField sec (pos + 8) b k
        (v :: acc.1, v)) ([v0], v0)
      vs.1.reverse ++ deltaVals sec b md fuel (roundUp (pos + 8 + fieldBytes (r - 1) b) 8) (left - r)

/-- The runs of an RLE section: values repeated, or the position check 11 reports (R38, R46). -/
def rleVals (sec : List Byte) (w rows : Nat) : Nat → Nat → List (List Byte) → Except Nat (List (List Byte))
  | 0, _, acc => .error acc.length
  | fuel + 1, pos, acc =>
    if sec.length ≤ pos then (if acc.length = rows then .ok acc else .error acc.length)
    else if rows ≤ acc.length then .error rows
    else if sec.length < pos + 2 + w then .error acc.length
    else
      let n := fld sec pos 2 + 1
      if rows < acc.length + n then .error rows
      else rleVals sec w rows fuel (pos + 2 + w) (acc ++ List.replicate n (slice sec (pos + 2) w))

/-- The values of a VARBYTES section, or the position check 12 reports (R39, R46). -/
def varVals (sec : List Byte) (rows : Nat) : Except Nat (List (List Byte)) :=
  let head := 2 * (rows + 1)
  if sec.length < head then .error 0
  else
    let offs := (List.range (rows + 1)).map fun i => fld sec (2 * i) 2
    let offAt := fun i => offs.getD i 0
    if offAt 0 ≠ 0 then .error 0
    else match (List.range rows).find? fun i => offAt (i + 1) < offAt i with
      | some i => .error i
      | none =>
        if offAt rows ≠ sec.length - head then .error (rows - 1)
        else .ok ((List.range rows).map fun i => slice sec (head + offAt i) (offAt (i + 1) - offAt i))

/-- What every position holds: checks 11 and 12. -/
def positions (p : List Byte) (h : PageHdr) : Except PFail (List PosVal) :=
  let sec := slice p h.valOff h.valLen
  let fields := (List.range h.rows).map (bitField sec 0 h.width)
  let at_ := fun (reason i : Nat) => (Except.error { reason := reason, row := h.firstRow + i } : Except PFail (List PosVal))
  if h.allNull then .ok (List.replicate h.rows (.code 0))
  else if h.enc = 4 then
    match rleVals sec (if h.dict then 2 else valueWidth h.ty) h.rows (sec.length + 1) 0 [] with
    | .error i => at_ 9 i
    | .ok vs => .ok (vs.map fun b => if h.dict then .code (leNat b) else .bytes b)
  else if h.dict then .ok (fields.map fun f => .code f)
  else if h.enc = 1 then .ok (fields.map fun (f : Nat) => .int (f : Int))
  else if h.enc = 2 then
    let base : Int := if isSignedType h.ty then toSigned 64 h.base else h.base
    .ok (fields.map fun (f : Nat) => .int (base + (f : Int)))
  else if h.enc = 3 then .ok ((deltaVals sec h.width h.minDelta (h.rows + 1) 0 h.rows).map .int)
  else if h.ty = tyVar then
    match varVals sec h.rows with
    | .error i => at_ 10 i
    | .ok vs => .ok (vs.map .bytes)
  else .ok ((List.range h.rows).map fun i => .bytes (slice sec (i * valueWidth h.ty) (valueWidth h.ty)))

/-- A position's value in its type's layout; none when it is out of range (R31, R32, R36, R37). -/
def posValue (ty prec : Nat) (dict : List (List Byte)) (v : PosVal) : Option (List Byte) :=
  match v with
  | .code c => dict[c]?
  | .bytes b => if valueOk ty prec b then some b else none
  | .int i =>
    let w := 8 * valueWidth ty
    let fits : Bool := if isSignedType ty then -(2 ^ (w - 1) : Int) ≤ i && i < 2 ^ (w - 1) else 0 ≤ i && i < 2 ^ w
    let b := leBytes (valueWidth ty) (ofSigned w i)
    if fits && valueOk ty prec b then some b else none

/-- The rows of a page: value and code, with checks 13 and 14 at present rows. -/
def pageRows (p : List Byte) (h : PageHdr) (dict : List (List Byte)) : Except PFail (List (Elem × Nat)) :=
  match positions p h with
  | .error e => .error e
  | .ok vs =>
    let here := (List.range h.rows).map (rowHere p h)
    let badCode := (vs.zip here).zipIdx.find? fun ((v, pr), _) => pr && match v with
      | .code c => h.dictCount ≤ c
      | _ => false
    match badCode with
    | some (_, i) => .error { reason := 8, row := h.firstRow + i }
    | none =>
      let rows := (vs.zip here).map fun (v, pr) =>
        let c := match v with
          | .code c => c
          | _ => 0
        (pr, if pr then posValue h.ty h.prec dict v else none, c)
      match rows.zipIdx.find? fun ((pr, e, _), _) => pr && e.isNone with
      | some (_, i) => .error { reason := 0x0B, row := h.firstRow + i }
      | none => .ok (rows.map fun (_, e, c) => (e, c))

/-! ### Dictionary pages (R40, R41, R504) -/

/-- Strictly ascending entries in the order of R41. -/
def ascending (ty : Nat) : List (List Byte) → Bool
  | a :: b :: t =>
    (if ty = tyVar then bytesLt a b else bytesLt (normValue { ty := ty } a) (normValue { ty := ty } b)) &&
      ascending ty (b :: t)
  | _ => true

/-- The entries of a dictionary page named by a data page, or the check that fails (R504). An ENCODING that
Table 02-5 permits but R40 does not is refused at the second item (log 31). DESIGN CHOICE (log 61): so is a
ROW_COUNT of 0 or above 65,536, which no item names. -/
def dictPage (p : List Byte) (data : PageHdr) : Except PFail (List (List Byte)) :=
  let h := pageHdr p
  match (match checkBasic h with
    | some e => some e
    | none => match checkEncoding h h.dict with
      | some e => some e
      | none =>
        match checkLayout h none with
          | some e => some e
          | none => checkPayload p h) with
  | some e => .error e
  | none =>
    match pageRows p { h with firstRow := 0 } [] with
    | .error e => if !h.dict && (h.enc = 0 || e.reason = 0x0B) then .error e else .error (pageFormat 8)
    | .ok rows =>
      let es := rows.filterMap (·.1)
      if h.kind ≠ 2 || h.enc ≠ 0 || h.dict || h.nullable || h.ty ≠ data.ty || h.tparam ≠ data.tparam || h.prec ≠ data.prec ||
         h.colId ≠ data.colId || h.firstRow ≠ 0 || h.group ≠ 0 || h.rows ≠ data.dictCount ||
         h.rows = 0 || 65536 < h.rows || (h.ordered && !ascending h.ty es)
      then .error (pageFormat 8)
      else .ok es

end Sys2Proof.Machine
end

