-- ==== Sys2Proof/Machine/Sieve.lean ====
section
/-! DEFINITION. Sieves: SCAN, reading and checking pages and frames, preparing dictionaries (chapters 02 and 04). -/

namespace Sys2Proof.Machine

/-! ### Terms (R78 to R83) -/

/-- The value of a literal of a term. -/
def litValue (img : List Byte) (c : ScanCol) (lit : List Byte) : List Byte :=
  if c.ty = tyVar then poolBytes img (fld lit 0 4) (fld lit 4 4) else lit.take (valueWidth c.ty)

/-- A term's value at a present row, for the terms that compare values (Table 04-8, R81). -/
def termCompare (img : List Byte) (c : ScanCol) (t : ScanTerm) (v : List Byte) : Bool :=
  let a := litValue img c t.litA
  let b := litValue img c t.litB
  let lt := valLt c.ty
  let eq := valEq c.ty
  match t.op with
  | 1 => eq v a
  | 2 => !eq v a
  | 3 => lt v a
  | 4 => lt v a || eq v a
  | 5 => lt a v
  | 6 => lt a v || eq v a
  | 7 => (lt a v || (!t.flags.testBit 1 && eq v a)) && (lt v b || (!t.flags.testBit 2 && eq v b))
  | 9 => true
  | 0x0A => a.isPrefixOf v
  | _ => false

/-- The search key of a value for an IN_SET (R79, R83, R393); none for a value that matches no key. -/
def glumeSetKey (c : ScanCol) (v : List Byte) : Option Nat :=
  if c.ty = tyVar then (if 15 < v.length then none else some (leNat (BitVec.ofNat 8 v.length :: v)))
  else if isFloatType c.ty then
    if isNaN (fmtOf c.ty) (leNat v) then none else some (canonFloat (fmtOf c.ty) (leNat v))
  else some (leNat v)

/-- The entries of an IN_SET group (R393). -/
def setEntries (img : List Byte) (c : ScanCol) (t : ScanTerm) : List GEntry :=
  (chunksOf (setKeyWidth c) (poolBytes img t.refOff t.refLen)).map fun k =>
    match (if c.ty = tyVar then some (leNat k) else glumeSetKey c k) with
    | some v => { value := v, mask := 2 ^ 160 - 1, valid := true }
    | none => { value := leNat k, mask := 2 ^ 160 - 1, valid := false }

/-- Bank groups of a SCAN task, in the order of its IN_SET terms. -/
def scanGroups (t : Task) : List Nat := (t.extra.filter fun u => 0xB0 ≤ u).map (· - 0xB0)

/-- The Kiln engine of a SCAN task with a FRAMED column. -/
def scanKiln (t : Task) : Option Nat := t.extra.find? fun u => 0xA8 ≤ u && u ≤ 0xAB

/-- The group of term k: its place among the IN_SET terms. -/
def termGroup (o : ScanOp) (t : Task) (k : Nat) : Nat :=
  (scanGroups t).getD ((o.terms.take k).filter (·.op = 0x0C)).length 0

/-- Whether a null row gives 1 (R82). -/
def termNull (t : ScanTerm) : Bool := if t.op = 8 then true else if t.op = 9 then false else t.flags.testBit 0

/-- Whether a code gives 1 for a CODE_BITMAP (R79). -/
def termBitmap (img : List Byte) (t : ScanTerm) (code : Nat) : Bool :=
  code < 8 * t.refLen && bitAt (poolBytes img t.refOff t.refLen) code

/-- Bits of the terms on a column, by a test of each term. -/
def colBits (o : ScanOp) (col : Nat) (f : Nat → ScanTerm → Bool) : Nat :=
  o.terms.zipIdx.foldl (fun m (t, k) => if t.col = col && f k t then m + 2 ^ k else m) 0

/-- A row of a column with its term bits. On a CODED column the prepared bits of its code serve. -/
def svRow (img : List Byte) (o : ScanOp) (col : Nat) (d : Option SvDict) (e : Elem) (code : Nat) : SvVal :=
  let c := o.col col
  let bits := match e with
    | none => colBits o col fun _ t => termNull t
    | some v =>
      match d with
      | none => colBits o col fun _ t => termCompare img c t v
      | some x =>
        let prep := x.bits.getD code 0
        colBits o col fun k t =>
          if t.op = 0x0B then termBitmap img t code else if t.op = 8 then false else if t.op = 9 then true else prep.testBit k
  { elem := e, code := code, bits := bits }

/-! ### Chunk lists -/

/-- Chunk-list entry in work of a column. -/
def chunkEnt (s : State) (t : Task) (entry col : Nat) : List Byte := (taskList s t col).getD entry []

/-- FIRST_PAGE. -/
def chFirst (x : List Byte) : Nat := fld x 0 8
/-- ROW_GROUP. -/
def chGroup (x : List Byte) : Nat := fld x 8 4
/-- PAGE_COUNT. -/
def chPages (x : List Byte) : Nat := fld x 12 2
/-- Rows of the row group. -/
def chRows (x : List Byte) : Nat := fld x 14 2 + 1

/-- The Sieve state of a task changed. -/
def svMod (slot : Nat) (f : SvState → SvState) (s : State) : State := engMod slot (fun e => { e with sv := f e.sv }) s

/-- The column whose page comes next in read order (R86). -/
def nextCol (s : State) (t : Task) : Option Nat :=
  let sv := t.eng.sv
  (sv.cols.zipIdx.filter fun (c, k) => c.page < chPages (chunkEnt s t sv.entry k)).foldl
    (fun (best : Option Nat) (c, k) => match best with
      | none => some k
      | some b => if c.next < (sv.cols.getD b {}).next then some k else some b) none

/-! ### Failing -/

/-- A page check fails the job (R45, R46); PAGE_FAILS counts it. -/
def pageFails (slot addr : Nat) (f : PFail) (s : State) : State :=
  match taskAt s slot with
  | none => s
  | some t =>
    failTask slot f.status { address := addr, reason := f.reason, detail := f.row } (unitCount t.unit 8 1 s)

/-! ### Emission (R85, R87 to R89) -/

/-- Rows below which every column has been read and checked. -/
def blockLimit (sv : SvState) (rows : Nat) : Nat :=
  match sv.cols.map (·.next) with
  | [] => 0
  | x :: xs =>
    let m := xs.foldl min x
    if rows ≤ m then rows else m / 512 * 512

/-- One block: its selected rows, in order, as row numbers and the columns' values. -/
def blockRows (o : ScanOp) (sv : SvState) (n : Nat) : List (Nat × List SvVal) :=
  ((List.range n).map fun i => (i, sv.cols.map fun c => c.vals.getD i { elem := none })).filter fun (_, vs) =>
    bitAt o.table (vs.foldl (fun m v => m ||| v.bits) 0)

/-- The element an output carries for a selected row (R88). -/
def scanElem (s : State) (t : Task) (x : ScanOut) (port group row : Nat) (vs : List SvVal) : Elem :=
  let v := vs.getD x.col { elem := none }
  match x.kind with
  | 1 => v.elem
  | 2 =>
    let w := match outEnt s t port with
      | some e => if e.ty = tyCode8 then 1 else 2
      | none => 2
    v.elem.map fun _ => leBytes w v.code
  | _ => some (leBytes 4 group ++ leBytes 4 row)

/-- The 64 bytes of a block's SELECTION transfer (R89). -/
def selectionBytes (sel : List Nat) : List Byte :=
  (List.range 64).map fun k => BitVec.ofNat 8 ((sel.filter fun r => r / 8 = k).foldl (fun m r => m + 2 ^ (r % 8)) 0)

/-- Whether any output of a task holds elements that its consumer has not taken. -/
def outsWait (t : Task) : Bool := t.outs.any fun p => !p.buf.isEmpty

/-- One block of up to 512 rows leaves, row by row, as far as the outputs take it; the rest waits in `results` (R18, R87 to
R90). Where OUT_CAP is met within it, the rows below the cap leave first, and the job fails once they have (R70). -/
def emitBlock (slot : Nat) (s : State) : State :=
  match taskAt s slot with
  | none => s
  | some t =>
    let o := scanOp (taskOperand s t)
    let sv := t.eng.sv
    let x := chunkEnt s t sv.entry 0
    let n := min 512 (chRows x - sv.emitted)
    let cap := (taskStage s t).outCap
    let sel := blockRows o sv n
    let due := sel.drop sv.left
    let fit := if cap = 0 then due else due.take (cap - t.eng.a)
    let rows := fit.flatMap fun (r, vs) => o.outs.zipIdx.filterMap fun (ot, p) =>
      if ot.kind = 3 then none else some (p, scanElem s t ot p (chGroup x) (sv.emitted + r) vs)
    let s := unitCount t.unit 5 fit.length (engMod slot (fun e => { e with a := e.a + fit.length }) s)
    if fit.isEmpty && !due.isEmpty then (if outsWait t then s else failTask slot 0x020F { detail := cap } s)
    else if fit.length < due.length then emitOn slot rows (svMod slot (fun v => { v with left := v.left + fit.length }) s)
    else
      let bits := o.outs.zipIdx.flatMap fun (ot, p) =>
        if ot.kind = 3 then (selectionBytes (sel.map (·.1))).map fun b => (p, some [b]) else []
      emitOn slot (rows ++ bits) (svMod slot (fun v => { v with
        emitted := v.emitted + n
        left := 0
        cols := v.cols.map fun c => { c with vals := c.vals.drop n } }) (unitCount t.unit 4 n s))

/-- Blocks leave while every column has them and the outputs take them whole. -/
def emitBlocks (slot : Nat) : Nat → State → State
  | 0, s => s
  | fuel + 1, s =>
    match taskAt s slot with
    | none => s
    | some t =>
      let sv := t.eng.sv
      let rows := chRows (chunkEnt s t sv.entry 0)
      if !(isRunning t && t.eng.results.isEmpty && sv.emitted < blockLimit sv rows) then s
      else emitBlocks slot fuel (emitBlock slot s)

/-- The row group ends once every block has left and every page of it has been read; the next entry begins. -/
def nextEntry (slot : Nat) (s : State) : State :=
  match taskAt s slot with
  | none => s
  | some t =>
    let sv := t.eng.sv
    if sv.emitted = chRows (chunkEnt s t sv.entry 0) && (nextCol s t).isNone then
      svMod slot (fun v => { v with
        entry := v.entry + 1
        emitted := 0
        cols := v.cols.map fun c => { dict := c.dict } }) s
    else s

/-! ### Pages -/

/-- A page that passed checks 2 to 9: checks 10 to 14, its rows, and the blocks they complete. PAGES counts every page or frame
that a check of Table 02-6 has been made of, a dictionary page or a misplaced page among them: DESIGN CHOICE (log 61). -/
def finishPage (slot col addr : Nat) (p : List Byte) (s : State) : State :=
  match taskAt s slot with
  | none => s
  | some t =>
    let img := taskImg s t
    let o := scanOp (taskOperand s t)
    let h := pageHdr p
    let c := t.eng.sv.cols.getD col {}
    let d := if h.dict then c.dict else none
    let s := unitCount t.unit 3 1 s
    match checkPayload p h with
    | some f => pageFails slot addr f s
    | none =>
      match pageRows p h (match d with
        | some x => x.entries
        | none => []) with
      | .error f => pageFails slot addr f s
      | .ok rows =>
        let vals := rows.map fun (e, code) => svRow img o col d e code
        let s := svMod slot (fun v => { v with
          wait := none
          cols := lmod v.cols col fun c => { c with
            page := c.page + 1, next := h.firstRow + h.rows, vals := c.vals ++ vals } }) s
        nextEntry slot (emitBlocks slot 200 s)

/-- DICT_COUNT beyond a CODE8 output of the column (R77). -/
def code8Bad (s : State) (t : Task) (o : ScanOp) (col : Nat) (h : PageHdr) : Bool :=
  256 < h.dictCount && o.outs.zipIdx.any fun (x, p) => x.kind = 2 && x.col = col &&
    (match outEnt s t p with
      | some e => e.ty = tyCode8
      | none => false)

/-- Checks 2 to 9 of a data page up to its dictionary (Table 02-6). -/
def checkData (o : ScanOp) (col : Nat) (sc : SvCol) (x : List Byte) (h : PageHdr) (inflated : Option Nat) : Option PFail :=
  let c := o.col col
  let last : Bool := sc.page + 1 = chPages x
  let ends := h.firstRow + h.rows
  match checkBasic h with
  | some f => some f
  | none =>
    firstFail [(h.kind ≠ 1 || h.ty ≠ c.ty || h.tparam ≠ c.tparam || h.prec ≠ c.prec || h.colId ≠ c.id ||
      h.group ≠ chGroup x || (h.nullable && !c.nullable), pageFormat 4)] <|>
    checkEncoding h c.coded <|> checkLayout h inflated <|>
    firstFail [
      (h.firstRow ≠ sc.next || h.firstRow % 512 ≠ 0 || h.rows = 0 || 65536 < h.rows || chRows x < ends ||
        (last && ends ≠ chRows x) || (ends ≠ chRows x && h.rows % 512 ≠ 0), pageFormat 7),
      ((match sc.first with
        | some a => h.dictAddr ≠ a
        | none => false), pageFormat 8)]

/-- A page waits for its dictionary. -/
def awaitDict (slot : Nat) (w : SvWait) (s : State) : State :=
  svMod slot (fun v => { v with wait := some w }) (showState slot 1 s)

/-- A page in the buffer is checked; a page whose dictionary is not prepared waits for it (R83, R504). DESIGN CHOICE
(log 61): a DICT_ADDRESS that is not a multiple of 64 KiB fails with DICTIONARY and the data page's address, as the
data page's own dictionary fields do. -/
def checkPage (slot col addr : Nat) (p : List Byte) (inflated : Option Nat) (s : State) : State :=
  match taskAt s slot with
  | none => s
  | some t =>
    let o := scanOp (taskOperand s t)
    let sv := t.eng.sv
    let sc := sv.cols.getD col {}
    let h := pageHdr p
    match checkData o col sc (chunkEnt s t sv.entry col) h inflated with
    | some f => pageFails slot addr f (unitCount t.unit 3 1 s)
    | none =>
      let s := svMod slot (fun v => { v with cols := lmod v.cols col fun c => { c with first := some h.dictAddr } }) s
      if !h.dict then finishPage slot col addr p s
      else
        let bad := fun (a : Nat) => pageFails slot a (pageFormat 8) (unitCount t.unit 3 1 s)
        if h.dictAddr % 65536 ≠ 0 then bad addr
        else match sc.dict with
          | some d =>
            if d.addr ≠ h.dictAddr then awaitDict slot ⟨col, addr, p⟩ s
            else if h.dictCount ≠ d.entries.length then bad h.dictAddr
            else if code8Bad s t o col h then bad addr
            else finishPage slot col addr p s
          | none => awaitDict slot ⟨col, addr, p⟩ s

/-- A read of a Sieve, its bytes counted in BYTES_READ: of one that fails, the bytes before the place of the failure. -/
def sieveRead (unit n addr len : Nat) (s : State) : Except AccFail (List Byte) × State :=
  match devRead unit (.inst n) addr len s with
  | (.error e, s) => (.error e, unitCount unit 6 (e.addr - addr) s)
  | (.ok b, s) => (.ok b, unitCount unit 6 b.length s)

/-- Bytes of a dictionary page, which may lie in any region (R40): its header, then the bytes R29 reads. -/
def readPageBytes (unit n addr : Nat) (s : State) : Except AccFail (List Byte) × State :=
  match sieveRead unit n addr 128 s with
  | (.error e, s) => (.error e, s)
  | (.ok head, s) =>
    match sieveRead unit n (addr + 128) (pageReadLen head - 128) s with
    | (.error e, s) => (.error e, s)
    | (.ok rest, s) => (.ok (head ++ rest), s)

/-- The region of the Sieve's own channel that a read of a page or frame lies in, piece by piece as the Sieve translates
them (R42): none at a piece that is in another channel or no MAP_D region, or in another region than the pieces before
it. A piece that cannot be translated ends the walk: the read reports it. -/
def placeRegion (s : State) (unit n : Nat) : List (Nat × Nat) → Option Nat → Option (Option Nat)
  | [], r => some r
  | (a, k) :: rest, r =>
    match translate s unit (.inst n) false .read a k with
    | .error _ => some r
    | .ok (pa, _) =>
      match regionOf s pa, channelOf s pa with
      | some q, some (ch, _, _) =>
        if od s (0x2010 + q) 3 = 3 && 0x80 + ch = unit && (r.isNone || r = some q) then placeRegion s unit n rest (some q) else none
      | _, _ => none

/-- A read of a Sieve: its placement is checked before any byte of it is read (R42, R74). -/
inductive SvRead
  | misplaced
  | failed (e : AccFail)
  | bytes (b : List Byte) (region : Option Nat)
  deriving DecidableEq, Repr

/-- A placed read of a page or frame, after the region of what came before it. -/
def placedRead (unit n addr len : Nat) (region : Option Nat) (s : State) : SvRead × State :=
  match placeRegion s unit n (pageSplit addr len) region with
  | none => (.misplaced, s)
  | some r =>
    match sieveRead unit n addr len s with
    | (.error e, s) => (.failed e, s)
    | (.ok b, s) => (.bytes b r, s)

/-- A header, and then as many bytes as it asks for. DESIGN CHOICE (log 61): the bytes after the header are placed when the
header has been read, so that poison in the header is met before a misplaced piece that follows it, and a misplaced piece
before poison in a piece beside it. -/
def placedParts (unit n addr len : Nat) (more : List Byte → Nat) (region : Option Nat) (s : State) : SvRead × State :=
  match placedRead unit n addr len region s with
  | (.bytes head r, s) =>
    match placedRead unit n (addr + len) (more head) r s with
    | (.bytes rest r, s) => (.bytes (head ++ rest) r, s)
    | x => x
  | x => x

/-- A decompression error of a stage or frame (R363, Table 24-3). DESIGN CHOICE (log 61): of a framed SCAN the byte offset counts
from the start of the frame, and the frame index from the first frame of the chunk. -/
def inflateFails (slot : Nat) (e : InfErr) (frame : Nat) (s : State) : State :=
  failTask slot e.status { address := e.bit / 8, detail := e.made, detail2 := frame, reason := e.bit % 8 } s

/-- The next page or frame in read order is read and checked (R45, R86, R87). DESIGN CHOICE (log 61): a FIRST_PAGE that is
not a multiple of 64 KiB, for which the spec names no check, is read as it lies. -/
def readPage (slot : Nat) (t : Task) (s : State) : State :=
  match nextCol s t with
  | none => s
  | some col =>
    let o := scanOp (taskOperand s t)
    let sv := t.eng.sv
    let sc := sv.cols.getD col {}
    let x := chunkEnt s t sv.entry col
    let framed := (o.col col).framed
    let addr := if framed then (if sc.page = 0 then chFirst x else sc.frame) else chFirst x + 65536 * sc.page
    let (r, s) := if framed then
        placedParts t.unit t.inst addr 32 (fun h => if badFrameHeader h 32 then 0 else fld h 8 4) sc.region s
      else placedParts t.unit t.inst addr 128 (fun h => pageReadLen h - 128) sc.region s
    match r with
    | .misplaced => pageFails slot addr (pageFormat 0x0C) (unitCount t.unit 3 1 s)
    | .failed e => accessFailed slot false 0xFF e s
    | .bytes p placed =>
        let s := svMod slot (fun v => { v with cols := lmod v.cols col fun c => { c with
          region := placed, frame := roundUp (addr + p.length) 4096 } }) s
        if !framed then checkPage slot col addr p none s
        else
          let k := (scanKiln t).getD 0xA8
          match inflateFrame p.toArray 0 65536 with
          | .error e => inflateFails slot e sc.page (unitCount k 7 1 s)
          | .ok (_, content) =>
            let s := unitCount k 3 p.length (unitCount k 4 content.length s)
            checkPage slot col addr content (some content.length) s

/-- Whether a block could leave: the Sieve issues no read before it has (R18). DESIGN CHOICE (log 61): it never reads ahead,
into free slots or a later chunk-list entry, which R86 permits and does not require. -/
def blockReady (s : State) (t : Task) : Bool :=
  t.eng.sv.emitted < blockLimit t.eng.sv (chRows (chunkEnt s t t.eng.sv.entry 0))

/-- Whether a running Sieve is stalled by an output: elements of a block wait for it, or a block that OUT_CAP ends waits for the
rows before the cap (R18, R70, R90). -/
def svStalled (s : State) (t : Task) : Bool :=
  isRunning t && (!t.eng.results.isEmpty || (blockReady s t && outsWait t))

/-- A Sieve that its outputs stall shows it: every output waits at the same block (R90, STATE 3 of Table 04-10). -/
def noteStall (slot : Nat) (s : State) : State :=
  match taskAt s slot with
  | none => s
  | some t =>
    if svStalled s t then
      let now := s.time
      showState slot 3 (svMod slot (fun v => { v with stall := some (t.eng.sv.stall.getD now) }) s)
    else s

/-- PAGE_READ (R45, R86, R93): a stalled Sieve reads nothing (R18). -/
def execPageRead (slot : Nat) (s : State) : Host.Outcome State Fault Refusal :=
  .next (noteStall slot (runStage slot [0x01] (fun t s =>
    if t.eng.started && t.eng.sv.wait.isNone && t.eng.sv.stall.isNone && !blockReady s t then readPage slot t s else s) s))

/-! ### Dictionaries (R83, R504) -/

/-- One entry's bits for the terms of a column, its IN_SET searches counted. -/
def entryBits (img : List Byte) (o : ScanOp) (t : Task) (col : Nat) (v : List Byte) (s : State) : (Nat × Bool) × State :=
  let c := o.col col
  o.terms.zipIdx.foldl (fun (acc : (Nat × Bool) × State) (x : ScanTerm × Nat) =>
    let tm := x.1
    let k := x.2
    if tm.col ≠ col then acc
    else if tm.op = 0x0C then
      match glumeSetKey c v with
      | none => acc
      | some key =>
        let g := termGroup o t k
        let f := gsearch (group acc.2 g) key
        let bad := match f.first with
          | some (i, _) => rowsBad acc.2 g i
          | none => false
        ((if 0 < f.count then acc.1.1 + 2 ^ k else acc.1.1, acc.1.2 || bad), countSearch g f acc.2)
    else ((if termCompare img c tm v then acc.1.1 + 2 ^ k else acc.1.1, acc.1.2), acc.2)) ((0, false), s)

/-- Every entry prepared in order. -/
def prepareEntries (img : List Byte) (o : ScanOp) (t : Task) (col : Nat) : List (List Byte) → State → (List Nat × Bool) × State
  | [], s => (([], false), s)
  | v :: vs, s =>
    let r := entryBits img o t col v s
    let q := prepareEntries img o t col vs r.2
    ((r.1.1 :: q.1.1, r.1.2 || q.1.2), q.2)

/-- Poison in a dictionary page is reported with the page's address (R504). -/
def dictFail (addr : Nat) (e : AccFail) : AccFail :=
  match e.err with
  | .poison w => ⟨addr, .poison w⟩
  | _ => e

/-- The dictionary that a waiting page names is read, checked and prepared; the page's checks then go on. -/
def prepareDict (slot : Nat) (t : Task) (w : SvWait) (s : State) : State :=
  let img := taskImg s t
  let o := scanOp (taskOperand s t)
  let h := pageHdr w.page
  match readPageBytes t.unit t.inst h.dictAddr s with
  | (.error e, s) => accessFailed slot false 0xFF (dictFail h.dictAddr e) s
  | (.ok p, s) =>
    let s := unitCount t.unit 3 1 s
    match dictPage p h with
    | .error f => pageFails slot h.dictAddr f s
    | .ok es =>
      let ((bits, bad), s) := prepareEntries img o t w.col es s
      let s := showState slot 2 (unitCount t.unit 9 1 s)
      if bad then failTask slot 0x0502 {} (odBump 0x3E00 3 s)
      else if code8Bad s t o w.col h then pageFails slot w.addr (pageFormat 8) (unitCount t.unit 3 1 s)
      else
        let s := svMod slot (fun v => { v with
          cols := lmod v.cols w.col fun c => { c with dict := some ⟨h.dictAddr, es, bits⟩ } }) s
        finishPage slot w.col w.addr w.page s

/-- DICTIONARY_PREPARE (R83, R504). -/
def execDictionaryPrepare (slot : Nat) (s : State) : Host.Outcome State Fault Refusal :=
  .next (noteStall slot (runStage slot [0x01] (fun t s => match t.eng.sv.wait with
    | some w => prepareDict slot t w s
    | none => s) s))

/-! ### SCAN -/

/-- SCAN starts: every column stands before its first page. Blocks that a stall held back leave as the outputs take them;
after the last block of the last entry it ends its outputs (R86, R90). -/
def runScan (slot : Nat) (t : Task) (s : State) : State :=
  let o := scanOp (taskOperand s t)
  if t.eng.started then
    if (taskList s t 0).length ≤ t.eng.sv.entry then stageDone slot s
    else nextEntry slot (emitBlocks slot 200 s)
  else
    let s := match scanKiln t with
      | some k => setUnitState k 3 s
      | none => s
    let s := showState slot 2 s
    engMod slot (fun e => { e with started := true, sv := { cols := o.cols.map fun _ => {} } }) s

/-- SCAN (R74 to R90). -/
def execScan (slot : Nat) (s : State) : Host.Outcome State Fault Refusal :=
  .next (noteStall slot (runStage slot [0x01] (runScan slot) s))

end Sys2Proof.Machine
end

