-- ==== Sys2Proof/Machine/CoreBase.lean ====
section
/-! DEFINITION. Tiller cores: registers, levels and how an instruction ends (chapter 08). -/

namespace Sys2Proof.Machine

/-- A core by global number. -/
def core (s : State) (c : CoreId) : Core := tget {} s.cores c.val

/-- The state with a core changed. -/
def coreMod (c : CoreId) (f : Core → Core) (s : State) : State :=
  { s with cores := tmod {} s.cores c.val f }

/-- g register r; g0 reads zero (R174). -/
def gGet (s : State) (c : CoreId) (r : Reg) : Word := if r = 0 then 0 else (core s c).g[r.val]

/-- Write of g register r; a write to g0 is discarded (R174). -/
def gSet (c : CoreId) (r : Reg) (v : Word) (s : State) : State :=
  if r = 0 then s else coreMod c (fun k => { k with g := k.g.set r.val v }) s

/-- f register r. -/
def fGet (s : State) (c : CoreId) (r : Reg) : Word := (core s c).f[r.val]

/-- Write of f register r. -/
def fSet (c : CoreId) (r : Reg) (v : Word) (s : State) : State :=
  coreMod c (fun k => { k with f := k.f.set r.val v }) s

/-- The levels of Table 08-1. -/
inductive Level
  | t
  | s
  | m
  deriving DecidableEq, Repr

/-- Code of a level in PL and PPL (Tables 08-3, 08-4). -/
def Level.code : Level → Nat
  | .t => 0
  | .s => 1
  | .m => 2

/-- The level a PL code names. -/
def levelOf (n : Nat) : Level := if n = 0 then .t else if n = 1 then .s else .m

/-- The level a core runs at: pstat.PL (Table 08-3). -/
def coreLevel (s : State) (c : CoreId) : Level := levelOf (bitsOf (core s c).pstat.toNat 31 30)

/-- A word with a field replaced. -/
def wput (w : Word) (hi lo n : Nat) : Word := BitVec.ofNat 64 (setBits w.toNat hi lo n)

/-- pstat.PRECISE (Table 08-3). -/
def precise (s : State) (c : CoreId) : Bool := (core s c).pstat.getLsbD 23

/-- The dynamic rounding mode, pstat.RM (Table 08-3). -/
def dynRound (s : State) (c : CoreId) : Round :=
  match bitsOf (core s c).pstat.toNat 9 8 with
  | 0 => .nearestEven
  | 1 => .towardZero
  | 2 => .up
  | _ => .down

/-- Whether unit u of Table 11-9 is in the enabled-unit mask (R1, Table 23-8). -/
def unitEnabled (s : State) (u : Nat) : Bool := (od s 0x1202 1).testBit u

/-- Whether a core executes code: enabled, neither halted nor out of service, its zone powered (R171, R188, R459). -/
def coreActive (s : State) (c : CoreId) : Bool :=
  unitEnabled s c.val && (core s c).run = .running && od s (0x1320 + c.val / 8) 2 ≠ 2 &&
    s.mode ≠ .off && s.mode ≠ .fuseLoad && s.mode ≠ .hold

/-- A synchronous exception: vector, SUBCODE and value of Table 08-7; for a translation fault also the
REASON and LEVEL of the fault record (R266), and for a table read of a walk the entry's address (R270, R289). -/
structure Trap where
  vec : Nat
  sub : Nat := 0
  val : Word := 0
  reason : Nat := 0
  level : Nat := 0
  walk : Nat := 0
  deriving DecidableEq, Repr

/-- How an instruction ends. -/
inductive CoreEnd
  /-- It completes; the pc moves to the next instruction. -/
  | retire (s : State)
  /-- It completes; the pc moves to a target. -/
  | jump (target : Word) (s : State)
  /-- It raises an exception; the state holds what stands. -/
  | trap (t : Trap) (s : State)
  /-- It waits and will be executed again. -/
  | wait (s : State)

/-- No exception: a read of an old generation returns nothing to the core (R322), so its instruction does not complete. No
vector of Table 08-7 has the number 64. -/
def noData : Trap := { vec := 64 }

end Sys2Proof.Machine
end

