-- ==== Sys2Proof/Machine/Cache.lean ====
section
/-! DEFINITION. L1 and L2 caches and the side buffer (chapter 10). The bytes of
device memory are the coherent ones (R219); a line keeps what DRAM held below its dirty sectors, which a
discarding operation brings back (R219, R233). -/

namespace Sys2Proof.Machine

/-- Cluster of a core (R171). -/
def clusterOf (c : CoreId) : Nat := c.val / 8

/-- L2_STATE (Table 10-6): 0 OFF, 1 ON, 2 DRAINING. -/
def l2State (s : State) (k : Nat) : Nat := od s (0x3480 + k) 2

/-- LOCK_WAYS (Table 10-6). -/
def lockWays (s : State) (k : Nat) : Nat := od s (0x3480 + k) 4

/-- The requester port of a cluster (Table 13-6). -/
def clusterPort (k : Nat) : Nat := 5 + k / 4

/-- The dirty sectors of a line are written back and become clean (R221); one with a parity error is lost (Table 10-2). -/
def l2Clean (k set way : Nat) (s : State) : State :=
  match l2At (cluster s k) set way with
  | none => s
  | some l0 =>
    let s := (l2Parity k set way l0.dirty s).1
    match l2At (cluster s k) set way with
    | none => s
    | some l =>
      if l.dirty = 0 then s
      else
        let s := (sectorsIn l.dirty).foldl (fun s i =>
          requestBursts (clusterPort k) (l.line * 128 + i * 32) 32 true s) s
        let s := l2Put k set way { l with dirty := 0, below := [] } s
        odAdd (0x3480 + k) 7 (popSectors l.dirty) s

/-- A line is invalidated and its dirty sectors are discarded: memory holds what lay below them (R219, R233). -/
def l2Discard (k set way : Nat) (s : State) : State :=
  match l2At (cluster s k) set way with
  | none => s
  | some l =>
    let s := l.below.foldl (fun s e =>
      let a := l.line * 128 + e.1 * 32
      let cw := a / 32
      let poison := if e.2.2 then (if s.ms.poison.contains cw then s.ms.poison else cw :: s.ms.poison)
                    else s.ms.poison.filter (· ≠ cw)
      { s with ms := { s.ms with dram := memPut s.ms.dram a e.2.1, poison := poison } }) s
    l2Del k set way s

/-- The victim way of a set (R222): the ages after the search, and the way. -/
def l2Victim (c : Cluster) (set lock : Nat) : Nat → Cluster × Nat
  | 0 => (c, 15)
  | fuel + 1 =>
    let cand := (List.range 16).filter fun w => lock.testBit w = false
    match cand.find? fun w => (l2At c set w).isNone with
    | some w => (c, w)
    | none =>
      match cand.find? fun w => match l2At c set w with
          | some l => l.age = 3
          | none => false with
      | some w => (c, w)
      | none =>
        let c := cand.foldl (fun c w => match l2At c set w with
          | some l => { c with l2 := tset c.l2 (set * 16 + w) { l with age := l.age + 1 } }
          | none => c) c
        l2Victim c set lock fuel

/-- A line is filled with sectors into an unlocked way, its victim written back (R221, R222). -/
def l2Fill (k line mask age : Nat) (s : State) : State :=
  let set := l2Set line
  let (c, w) := l2Victim (cluster s k) set (lockWays s k) 5
  let s := clusterMod k (fun _ => c) s
  let s := l2Clean k set w s
  l2Put k set w { line := line, age := age, valid := mask } s

/-- Whether the side buffer holds a line. -/
def sideHas (c : Cluster) (line : Nat) : Bool := c.side.contains line

/-- A line joins the side buffer; lines are replaced oldest first (R224). -/
def sidePut (k line : Nat) (s : State) : State :=
  clusterMod k (fun c =>
    let l := c.side.filter (· ≠ line) ++ [line]
    { c with side := l.drop (l.length - 64) }) s

/-- Side-buffer prefetch after a miss: up to 4 lines on from two consecutive misses, within the page (R224). -/
def prefetchAfter (c : CoreId) (line : Nat) (s : State) : State :=
  let k := clusterOf c
  let last := (core s c).misses.head?
  let s := coreMod c (fun x => { x with misses := (line :: x.misses).take 2 }) s
  if od s (0x3480 + k) 3 = 0 then s
  else
    let next : List Nat :=
      if last = some (line - 1) && line ≠ 0 then (List.range 4).map (line + 1 + ·)
      else if last = some (line + 1) then ((List.range 4).filter (· < line)).map (line - 1 - ·)
      else []
    next.foldl (fun s l =>
      if l / 32 ≠ line / 32 then s
      else if (l2Way (cluster s k) l).isSome || sideHas (cluster s k) l then s
      else if !physOk s (l * 128) 128 || channelFailed s (l * 128) then s
      else sidePut k l (requestBursts (clusterPort k) (l * 128) 128 false s)) s

/-- The L2 lookup of a demand access to sectors of a line: counts, fills, ages (R221, R222, R224, R234).
A store that covers its sectors takes no fetch. With the L2 OFF nothing is looked up (R235). -/
def l2Access (c : CoreId) (line mask fetchMask age : Nat) (s : State) : State :=
  let k := clusterOf c
  let set := l2Set line
  let st := l2State s k
  if st = 0 then s
  else match l2Way (cluster s k) line with
    | some w =>
      match l2At (cluster s k) set w with
      | none => s
      | some l =>
        if mask &&& l.valid = mask then
          odBump (0x3480 + k) 5 (l2Put k set w { l with age := 0 } s)
        else
          let need := fetchMask &&& (15 ^^^ l.valid)
          let s := (sectorsIn need).foldl (fun s i =>
            requestBursts (clusterPort k) (line * 128 + i * 32) 32 false s) s
          let s := odBump (0x3480 + k) 6 s
          if st = 1 then prefetchAfter c line (l2Put k set w { l with valid := l.valid ||| mask, age := age } s) else s
    | none =>
      let s := odBump (0x3480 + k) 6 s
      if st ≠ 1 then s
      else if sideHas (cluster s k) line then
        let s := clusterMod k (fun c => { c with side := c.side.filter (· ≠ line) }) s
        prefetchAfter c line (odBump (0x3480 + k) 9 (l2Fill k line 15 1 s))
      else
        let s := (sectorsIn fetchMask).foldl (fun s i =>
          requestBursts (clusterPort k) (line * 128 + i * 32) 32 false s) s
        prefetchAfter c line (l2Fill k line mask age s)

/-- L1D set of a 64-byte line: address bits 13:6 (R218). -/
def l1Set (line : Nat) : Nat := line % 256

/-- The way of an L1 cache that holds a line. -/
def l1Way (t : Tbl L1Line) (line : Nat) : Option Nat :=
  (List.range 4).find? fun w => match tfind t (l1Set line * 4 + w) with
    | some l => l.line = line
    | none => false

/-- The victim way of an L1 set: lowest invalid way, else lowest of age 1, else all age by one (R222). -/
def l1Victim (t : Tbl L1Line) (set : Nat) : Tbl L1Line × Nat :=
  match (List.range 4).find? fun w => (tfind t (set * 4 + w)).isNone with
  | some w => (t, w)
  | none =>
    match (List.range 4).find? fun w => match tfind t (set * 4 + w) with
        | some l => l.age = 1
        | none => false with
    | some w => (t, w)
    | none => ((List.range 4).foldl (fun t w => tmod {} t (set * 4 + w) fun l => { l with age := l.age + 1 }) t, 0)

/-- The L1I or the L1D of a core. -/
def l1Of (s : State) (c : CoreId) (instr : Bool) : Tbl L1Line := if instr then (core s c).l1i else (core s c).l1d

/-- The L1I or the L1D of a core replaced. -/
def l1Put (c : CoreId) (instr : Bool) (t : Tbl L1Line) (s : State) : State :=
  coreMod c (fun k => if instr then { k with l1i := t } else { k with l1d := t }) s

/-- A lookup of an L1: whether it hits, its age then 0. A line with a parity error is invalidated, and the access misses (R222,
Table 10-2). -/
def l1Look (c : CoreId) (instr : Bool) (line64 : Nat) (s : State) : Bool × State :=
  let t := l1Of s c instr
  match l1Way t line64 with
  | none => (false, s)
  | some w =>
    let key := l1Set line64 * 4 + w
    if (tget {} t key).bad then
      (false, odBump (0x3480 + clusterOf c) 0x0A (l1Put c instr (tdel t key) s))
    else (true, l1Put c instr (tmod {} t key fun l => { l with age := 0 }) s)

/-- The way a line offered to an L2 set takes: the lowest invalid unlocked way, else the lowest unlocked way of age 3 with no
dirty sector (R223). -/
def offerWay (c : Cluster) (set lock : Nat) : Option Nat :=
  match (List.range 16).find? fun w => lock.testBit w = false && (l2At c set w).isNone with
  | some w => some w
  | none => (List.range 16).find? fun w => lock.testBit w = false &&
      match l2At c set w with
      | none => false
      | some x => x.age = 3 && x.dirty = 0

/-- A clean L1D line that is evicted is offered to the L2; an offer ages no line and writes none back (R223). -/
def l2Offer (k : Nat) (l : L1Line) (s : State) : State :=
  let line := l.line / 2
  let set := l2Set line
  if (l2Way (cluster s k) line).isSome then s
  else if l2State s k ≠ 1 || l.stream then odBump (0x3480 + k) 8 s
  else match offerWay (cluster s k) set (lockWays s k) with
    | none => odBump (0x3480 + k) 8 s
    | some w => l2Put k set w { line := line, age := 2, valid := sectorMask line (l.line * 64) 64 } s

/-- A line fills an L1; the line it replaces in an L1D is offered to the L2 (R222, R223). -/
def l1Fill (c : CoreId) (instr : Bool) (line64 : Nat) (stream : Bool) (s : State) : State :=
  let (t, w) := l1Victim (l1Of s c instr) (l1Set line64)
  let key := l1Set line64 * 4 + w
  let s := l1Put c instr (tset t key { line := line64, age := 1, stream := stream }) s
  if instr then s
  else match tfind t key with
    | some l => l2Offer (clusterOf c) l s
    | none => s

/-- The data of an L1 miss: from the L2, or straight from memory where the L2 is OFF or, DRAINING, misses (R221, R234,
R235). -/
def l1Miss (c : CoreId) (line64 : Nat) (stream : Bool) (s : State) : State :=
  let k := clusterOf c
  let line := line64 / 2
  let mask := sectorMask line (line64 * 64) 64
  if l2State s k ≠ 1 && (l2State s k = 0 || (l2Way (cluster s k) line).isNone) then
    requestBursts (clusterPort k) (line64 * 64) 64 false (l2Access c line mask mask 1 s)
  else l2Access c line mask mask (if stream then 3 else 1) s

/-- A read of a line by a core: its L1 is looked up, and on a miss it is filled (R221 to R223). -/
def l1Load (c : CoreId) (instr : Bool) (line64 : Nat) (stream : Bool) (s : State) : State :=
  match l1Look c instr line64 s with
  | (true, s) => s
  | (false, s) => l1Fill c instr line64 stream (l1Miss c line64 stream s)

/-- The 64-byte lines a range touches. -/
def lines64 (pa n : Nat) : List Nat :=
  if n = 0 then [] else (List.range ((pa + n - 1) / 64 - pa / 64 + 1)).map (· + pa / 64)

/-- Sectors that a store covers whole. -/
def coveredMask (line pa n : Nat) : Nat :=
  (List.range 4).foldl (fun m i =>
    let lo := line * 128 + i * 32
    if pa ≤ lo && lo + 32 ≤ pa + n then m ||| 2 ^ i else m) 0

/-- A store marks the sectors of its line: dirty in an L2 that is ON, keeping what lay below; clean in one that is DRAINING, as
the store goes to memory too (R221, R234). -/
def markStored (c : CoreId) (line pa n : Nat) (s : State) : State :=
  let k := clusterOf c
  match l2Way (cluster s k) line with
  | none => s
  | some w =>
    match l2At (cluster s k) (l2Set line) w with
    | none => s
    | some l =>
      let m := sectorMask line pa n
      if l2State s k = 1 then
        let below := (sectorsIn (m &&& (15 ^^^ l.dirty))).foldl (fun t i =>
          let a := line * 128 + i * 32
          tset t i (physTake s a 32, s.ms.poison.contains (a / 32))) l.below
        l2Put k (l2Set line) w { l with dirty := l.dirty ||| m, below := below } s
      else if l2State s k = 2 then
        l2Put k (l2Set line) w
          { l with dirty := l.dirty &&& (15 ^^^ m), below := l.below.filter fun e => m.testBit e.1 = false } s
      else s

/-- The L2 sectors that a range touches are checked for parity (Table 10-2): the state, and the address of a lost sector. -/
def parityAt (k pa n : Nat) (s : State) : State × Option Nat :=
  (lines128 pa n).foldl (fun (acc : State × Option Nat) line =>
    match l2Way (cluster acc.1 k) line with
    | none => acc
    | some w =>
      let (s, lost) := l2Parity k (l2Set line) w (sectorMask line pa n) acc.1
      (s, match acc.2 with
        | some a => some a
        | none => lost)) (s, none)

/-- Bytes that a core stores at a physical address: write-through in the L1Ds, write-back in the L2 (R218, R221, R222, R234). -/
def storeLines (c : CoreId) (pa : Nat) (bytes : List Byte) (stream : Bool) (s : State) : State :=
  let n := bytes.length
  let s := (lines64 pa n).foldl (fun s l => (l1Look c false l s).2) s
  let s := (lines128 pa n).foldl (fun s line =>
    let m := sectorMask line pa n
    let s := l2Access c line m (m &&& (15 ^^^ coveredMask line pa n)) (if stream then 3 else 1) s
    let s := markStored c line pa n s
    if l2State s (clusterOf c) = 1 then s
    else requestBursts (clusterPort (clusterOf c)) (max pa (line * 128))
           (min (pa + n) (line * 128 + 128) - max pa (line * 128)) true s) s
  physPut (some c.val) pa bytes s

/-! ### Tile memory (Table 10-2) -/

/-- Whether a tile word of 8 bytes meets n bytes at an offset. -/
def wordMeets (w off n : Nat) : Bool := w * 8 < off + n && off < w * 8 + 8

/-- Whether a tile word of 8 bytes lies wholly in n bytes at an offset. -/
def wordIn (w off n : Nat) : Bool := off ≤ w * 8 && w * 8 + 8 ≤ off + n

/-- Single-bit errors of the tile words an access reads are corrected and counted (Table 10-2). -/
def tileCorrect (c : CoreId) (off n : Nat) (s : State) : State :=
  let hit := fun (e : Nat × Bool) => !e.2 && wordMeets e.1 off n
  let found := ((core s c).tileBad.filter hit).length
  if found = 0 then s
  else odAdd (0x3480 + clusterOf c) 0x0E found
    (coreMod c (fun k => { k with tileBad := k.tileBad.filter fun e => !hit e }) s)

/-- Bytes stored in tile memory. A word written whole is encoded anew; one written in part is read, and a single-bit error in
it corrected (Table 10-2). -/
def tileWrite (c : CoreId) (off : Nat) (bytes : List Byte) (s : State) : State :=
  let n := bytes.length
  let s := coreMod c (fun k => { k with
    tile := memPut k.tile off bytes, tileBad := k.tileBad.filter fun e => !wordIn e.1 off n }) s
  tileCorrect c off n s

end Sys2Proof.Machine
end

