-- ==== Sys2Proof/Machine/TillerBase.lean ====
section
/-! DEFINITION. Tiller cores: entries to S and M, halts, interrupts, and the frame in which one instruction executes
(chapter 08). -/

namespace Sys2Proof.Machine

/-! ### Entries (R185 to R187) -/

/-- Start of a vector slot. -/
def slotAddr (base : Nat) (vec : Nat) : Word := BitVec.ofNat 64 (base + 32 * vec)

/-- The status word after the updates of R185; nest is the field's new value. -/
def entryStat (x : Word) (ppl vec sub nest : Nat) (imprecise : Bool) : Word :=
  let ie := bitsOf x.toNat 7 7
  BitVec.ofNat 64 (vec % 256 * 2 ^ 24 + sub % 256 * 2 ^ 16 + nest % 16 * 2 ^ 12 +
    (if imprecise then 2 ^ 11 else 0) + ppl * 2 ^ 9 + ie * 2 ^ 8 + 2 ^ 6)

/-- NEST of a status word. -/
def nestOf (x : Word) : Nat := bitsOf x.toNat 15 12

/-- EXL of a status word. -/
def exlOf (x : Word) : Bool := x.getLsbD 6

/-- pstat with a new level. -/
def setLevel (w : Word) (l : Level) : Word := wput w 31 30 l.code

/-- The 32 bytes of a frame of four words. -/
def frameBytes (a b c d : Word) : List Byte :=
  leBytes 8 a.toNat ++ leBytes 8 b.toNat ++ leBytes 8 c.toNat ++ leBytes 8 d.toNat

/-- Offset of a window address in tile memory (R175). -/
def tileOff (a : Nat) : Nat := a - 0xFFF00000

/-- An M-level entry of a core's registers, nested or first-level; none when an estk push fails (R187). -/
def entryM (k : Core) (lvl vec sub : Nat) (val ret : Word) (imprecise : Bool) : Option Core :=
  let fin := fun (k : Core) (nest : Nat) =>
    { k with
      mepc := ret, mstat := entryStat k.mstat lvl vec sub nest imprecise, mval := val
      pc := slotAddr 0xFFFFE000 vec, pstat := setLevel k.pstat .m, resv := none }
  if exlOf k.mstat then
    let e := k.estk.toNat
    if e % 32 ≠ 0 || e < 0xFFFFC000 + 32 || 0xFFFFE000 < e then none
    else
      let k' := { k with
        tile := memPut k.tile (tileOff (e - 32)) (frameBytes k.mepc k.mstat k.mval val)
        estk := BitVec.ofNat 64 (e - 32), tileBad := k.tileBad.filter fun x => !wordIn x.1 (tileOff (e - 32)) 32 }
      some (fin k' (if nestOf k.mstat = 15 then Config.nestBeyond else nestOf k.mstat + 1))
  else some (fin k (nestOf k.mstat))

/-- A push of a frame to estk of its own, before DOUBLE_FAULT (R187 step 1). -/
def pushEstk (k : Core) (frame : List Byte) : Option Core :=
  let e := k.estk.toNat
  if e % 32 ≠ 0 || e < 0xFFFFC000 + 32 || 0xFFFFE000 < e then none
  else some { k with
    tile := memPut k.tile (tileOff (e - 32)) frame, estk := BitVec.ofNat 64 (e - 32)
    tileBad := k.tileBad.filter fun x => !wordIn x.1 (tileOff (e - 32)) 32 }

/-! ### Halt (R188) -/

/-- The core halts: halt record, job failure, and out of service after four halts within a second. -/
def haltCore (c : CoreId) (cause : Nat) (s : State) : State :=
  let k := core s c
  let recent := s.time :: k.haltTimes.filter fun t => s.time < t + 25000000
  let out := 4 ≤ recent.length
  let s := odBump (0x3400 + c.val) 7 s
  let s := odSet (0x3400 + c.val) 8 k.pc.toNat s
  let s := odSet (0x3400 + c.val) 9 k.estk.toNat s
  let s := coreMod c (fun k =>
    { k with
      run := if out then .outOfService else .halted, haltCause := cause, haltTimes := recent.take 4
      imp := none, impAge := 0, resv := none }) s
  let s := match k.task with
    | some slot => failTask slot 0x0503 { detail := k.pc.toNat, detail2 := k.estk.toNat } s
    | none => s
  if out then unitLeft c.val s else s

/-! ### Tile window and device accesses of a core (R175, R176) -/

/-- Whether an address lies in the tile window. -/
def inWindow (a : Nat) : Bool := 0xFFF00000 ≤ a && a ≤ 0xFFFFFFFF

/-- The context a core's device accesses are translated in (Table 08-1). -/
def coreCtx (s : State) (c : CoreId) : Ctx :=
  match coreLevel s c with
  | .m => .firmware
  | .s => .runtime
  | .t =>
    match (core s c).task.bind (taskAt s) with
    | some t => .inst t.inst
    | none => .runtime

/-- Whether the window grants an access of n bytes at a level (R176, Table 08-1). -/
def tileGrants (k : Core) (lvl : Level) (write : Bool) (a n : Nat) : Bool :=
  a + n ≤ 0x100000000 &&
  match lvl with
  | .t => a + n ≤ 0xFFF00000 + k.tileBytes
  | .s => !(write && a < 0xFFFFE800 && 0xFFFFE000 < a + n)
  | .m => true

/-- A tile word with an uncorrectable error that an access reads (Table 10-2): any that it touches, but for those that a
write covers whole. -/
def tileError (k : Core) (write : Bool) (a n : Nat) : Option Nat :=
  (k.tileBad.find? fun e => e.2 && wordMeets e.1 (tileOff a) n && !(write && wordIn e.1 (tileOff a) n)).map
    fun e => 0xFFF00000 + e.1 * 8

/-- Where an access lands: tile memory, device memory, or nowhere, for task code of an old generation (R321, R322). -/
inductive Place
  | tile (off : Nat)
  | dev (pa : Nat) (stream : Bool)
  | gone

/-- Vector of a translation fault by access kind (Table 08-7). -/
def faultVec : AccKind → Nat
  | .fetch => 8
  | .read => 9
  | .write => 10

/-- The exception an access error raises in a core (Table 08-7). -/
def accTrap (kind : AccKind) (a : Nat) : AccErr → Trap
  | .fault r l => { vec := faultVec kind, val := BitVec.ofNat 64 a, reason := r, level := l }
  | .violation r => { vec := 11, sub := 0, val := BitVec.ofNat 64 a, reason := r }
  | .poison w => { vec := 12, val := BitVec.ofNat 64 a, walk := w }
  | .noResponse w => { vec := 13, val := BitVec.ofNat 64 a, walk := w }

/-- Whether the task code on a core is of an old generation: a reset of its instance has passed step 3 (R321). -/
def oldGen (s : State) (c : CoreId) : Bool :=
  coreLevel s c = .t && match (core s c).task.bind (taskAt s) with
    | some t => decide (t.gen ≠ instGen s t.inst) || instSt s t.inst = 5
    | none => false

/-- A core's translation of an address: its table reads join their channels' queues, and the core keeps the result (R262,
Table 13-6). -/
def coreWalk (c : CoreId) (kind : AccKind) (a n : Nat) (s : State) : State :=
  if inWindow a || oldGen s c then s
  else
    let s' := requestWalk c.val (coreCtx s c) a s
    match translate s c.val (coreCtx s c) true kind a n with
    | .ok (_, l) => tlbFill c.val (coreCtx s c) a l s'
    | .error _ => s'

/-- The place of n bytes at a core address, or the exception (R175, R176, R256 to R272). The bytes lie
within one 4 KiB page. -/
def corePlace (s : State) (c : CoreId) (kind : AccKind) (a n : Nat) : Except Trap Place :=
  let k := core s c
  let lvl := coreLevel s c
  if inWindow a then
    if !tileGrants k lvl (kind = .write) a n then
      .error { vec := 11, sub := 1, val := BitVec.ofNat 64 a }
    else match tileError k (kind = .write) a n with
      | some e => .error { vec := 2, sub := 3, val := BitVec.ofNat 64 e }
      | none => .ok (.tile (tileOff a))
  else if lvl = .t && kind = .fetch then .error { vec := 11, sub := 3, val := BitVec.ofNat 64 a }
  else if oldGen s c then .ok .gone
  else
    match translate s c.val (coreCtx s c) true kind a n with
    | .error e => .error (accTrap kind a e)
    | .ok (pa, l) => .ok (.dev pa l.stream)

/-- A store of a core to a channel that does not answer: the task's job fails, without an entry; of the runtime's or the
firmware's it is recorded in the RAS log alone (R270). -/
def lostStore (c : CoreId) (a : Nat) (s : State) : State :=
  match (core s c).task, coreLevel s c with
  | some slot, .t => failTask slot 0x0304 { address := a } s
  | _, _ => rasEvent 1 0 a 0x0304 0 s

/-- ENTRIES counts an entry, and IMPRECISE_TRAPS an imprecise ARITHMETIC one (Table 08-10). -/
def countEntry (c : CoreId) (imprecise : Bool) (s : State) : State :=
  let s := odBump (0x3400 + c.val) 4 s
  if imprecise then odBump (0x3400 + c.val) 5 s else s

/-- A first-level or nested entry to M by a cause, or the halt where its push fails (R187, R188). -/
def enterM (c : CoreId) (lvl vec sub : Nat) (val ret : Word) (imprecise : Bool) (s : State) : State :=
  match entryM (core s c) lvl vec sub val ret imprecise with
  | some k' => countEntry c imprecise (coreMod c (fun _ => k') s)
  | none => haltCore c vec s

/-! ### Tag errors of the L2 (Table 10-2, R226) -/

/-- The lowest-numbered core of a cluster that is enabled and neither halted nor out of service (Table 10-2). -/
def checkCore (s : State) (k : Nat) : Option CoreId :=
  (List.range 8).findSome? fun i =>
    if h : 8 * k + i < 128 then
      let c : CoreId := ⟨8 * k + i, h⟩
      if unitEnabled s c.val && (core s c).run = .running then some c else none
    else none

/-- A tag or sector-state error met when its set is looked up for a core (Table 10-2, R226): corrected, or the clean line
invalidated, or MACHINE_CHECK 0x02 and HOLD. The exception is the instruction's own where the core that takes it is the one
that accesses. -/
def tagError (c : CoreId) (key : Nat) (l : L2Line) (s : State) : State × Option Trap :=
  let k := clusterOf c
  if l.tagBad = 1 then
    (odBump (0x3480 + k) 0x0D (l2Put k (key / 16) (key % 16) { l with tagBad := 0 } s), none)
  else if l.dirty = 0 then (odBump (0x3480 + k) 0x0A (l2Del k (key / 16) (key % 16) s), none)
  else
    let s := fatal 3 (l2Del k (key / 16) (key % 16) s)
    let t : Trap := { vec := 2, sub := 2, val := BitVec.ofNat 64 key }
    match checkCore s k with
    | some d =>
      if d = c then (s, some t)
      else (enterM d (coreLevel s d).code 2 2 t.val (core s d).pc false s, none)
    | none => (rasEvent 2 0 key 0 3 s, none)

/-- The tags of sets that are looked up are checked. -/
def tagSets (c : CoreId) (sets : List Nat) (s : State) : State × Option Trap :=
  ((cluster s (clusterOf c)).l2.filter fun e => e.2.tagBad ≠ 0 && sets.contains (e.1 / 16)).foldl
    (fun (acc : State × Option Trap) e =>
      let (s, t) := tagError c e.1 e.2 acc.1
      (s, match acc.2 with
        | some x => some x
        | none => t)) (s, none)

/-- The tags of the sets that a range of lines maps to are checked. -/
def tagCheck (c : CoreId) (lines : List Nat) (s : State) : State × Option Trap := tagSets c (lines.map l2Set) s

/-- MACHINE_CHECK of an L2 sector lost to parity (R226). -/
def sectorLost (lost : Option Nat) : Option Trap := lost.map fun a => { vec := 2, sub := 1, val := BitVec.ofNat 64 a }

/-- The L2 lines that a core's access to a range looks up are checked, in its own L2 and, for the sectors that the access needs
the data of, where they are dirty in another (R219): the state, and the MACHINE_CHECK the access raises (Table 10-2, R226). -/
def parityNeeds (c : CoreId) (need : Nat → Nat) (pa n : Nat) (s : State) : State × Option Trap :=
  match tagCheck c (lines128 pa n) s with
  | (s, some t) => (s, some t)
  | (s, none) =>
    match parityAt (clusterOf c) pa n s with
    | (s, some a) => (s, sectorLost (some a))
    | (s, none) =>
      let r := snoopLost (some (clusterOf c)) need pa n s
      (r.1, sectorLost r.2)

/-- The checks of a read. -/
def parityRange (c : CoreId) (pa n : Nat) (s : State) : State × Option Trap :=
  parityNeeds c (fun line => sectorMask line pa n) pa n s

/-- The checks of a store: a sector that it covers whole needs no data from another L2 (R221). -/
def storeCheck (c : CoreId) (pa n : Nat) (s : State) : State × Option Trap :=
  parityNeeds c (fun line => sectorMask line pa n &&& (15 ^^^ coveredMask line pa n)) pa n s

/-- The 32 bytes of a nested frame are stored where its push landed: the state, and the MACHINE_CHECK of an L2 error that the
store met (Table 10-2). -/
def pushFrame (c : CoreId) (ctx : Ctx) (a : Nat) (p : Place) (bytes : List Byte) (s : State) : State × Option Trap :=
  match p with
  | .tile o => (tileWrite c o bytes s, none)
  | .gone => (s, none)
  | .dev pa st =>
    if channelFailed s pa then (lostStore c a s, none)
    else
      let r := storeCheck c pa 32 s
      (storeLines c pa bytes st (logWrite ctx a 32 r.1), r.2)

/-- An entry to S of a core's registers; none when the push fails. The state gives the address map (R186). With the state stands
the MACHINE_CHECK of an L2 error that the push met. -/
def entryS (s : State) (c : CoreId) (lvl vec sub : Nat) (val ret : Word) (imprecise : Bool) : Option (State × Option Trap) :=
  let k := core s c
  let fin := fun (nest : Nat) (s : State) => coreMod c (fun k =>
    { k with
      sepc := ret, sstat := entryStat k.sstat lvl vec sub nest imprecise, sval := val
      pc := slotAddr 0xFFFFF000 vec, pstat := setLevel k.pstat .s, resv := none }) s
  if exlOf k.sstat then
    let sp := (gGet s c 31).toNat
    if sp % 32 ≠ 0 || nestOf k.sstat = 15 then none
    else
      let top := gGet s c 31 - 32
      let s1 := coreMod c (fun k => { k with pstat := setLevel k.pstat .s }) s
      match corePlace s1 c .write top.toNat 32 with
      | .error _ => none
      | .ok p =>
        let r := pushFrame c (coreCtx s1 c) top.toNat p (frameBytes k.sepc k.sstat k.sval 0) s
        some (fin (nestOf k.sstat + 1) (gSet c 31 top r.1), r.2)
  else some (fin (nestOf k.sstat) s, none)

/-- The value mval holds after a failed S push: g31 − 32, or g31 when NEST was 15 (R187). -/
def pushFailAddr (s : State) (c : CoreId) : Word :=
  if nestOf (core s c).sstat = 15 then gGet s c 31 else gGet s c 31 - 32

/-- A MACHINE_CHECK of a lost sector or of a tile word fails the job of the task on the core; one of a lost tag does not
(Table 10-2). -/
def checkFails (c : CoreId) (t : Trap) (s : State) : State :=
  match (core s c).task with
  | some slot => if t.sub = 2 then s else failTask slot 0x0501 { address := t.val.toNat } s
  | none => s

/-- MACHINE_CHECK of an entry whose nested push met an L2 error (Table 10-2). -/
def pushLost (c : CoreId) (lost : Option Trap) (s : State) : State :=
  match lost with
  | none => s
  | some t => checkFails c t (enterM c 1 2 t.sub t.val (core s c).pc false s)

/-- An entry by a cause of Table 08-7, from the core's level. ret is the return address. -/
def enter (c : CoreId) (vec sub : Nat) (val ret : Word) (imprecise : Bool) (s : State) : State :=
  let k := core s c
  let lvl := coreLevel s c
  if lvl = .m || vec = 2 || vec = 17 then enterM c lvl.code vec sub val ret imprecise s
  else
    match entryS s c lvl.code vec sub val ret imprecise with
    | some (s', lost) => pushLost c lost (countEntry c imprecise s')
    | none =>
      match pushEstk k (frameBytes k.sepc k.sstat k.sval val) with
      | none => haltCore c vec s
      | some k1 =>
        match entryM k1 lvl.code 1 vec (pushFailAddr s c) k.pc false with
        | none => haltCore c vec s
        | some k2 => countEntry c false (odBump (0x3400 + c.val) 6 (coreMod c (fun _ => k2) s))

/-- The status word after a return: IE := PIE, EXL := 0 (R189). -/
def returnStat (x : Word) : Word := wput (wput x 7 7 (bitsOf x.toNat 8 8)) 6 6 0

/-! ### What the resident runtime does on an exception of task code (R194, R197) -/

/-- The outcome for the task whose code took an exception at level T. -/
def taskTrapped (c : CoreId) (slot : Nat) (t : Trap) (ret : Word) (s : State) : State :=
  if 8 ≤ t.vec && t.vec ≤ 10 then
    let k := core s c
    let x : SavedCtx := ⟨slot, k.g, k.f, k.pstat, k.lvi, ret⟩
    let s := coreMod c (fun k => { k with saved := some x, faulted := some x }) s
    parkAt slot t.val.toNat t.reason t.level
      (if t.vec = 10 then 1 else if t.vec = 8 then 2 else 0) 0xFF (k.faulted = some x) s
  else if t.vec = 11 then failTask slot 0x0302 { address := t.val.toNat, reason := t.reason } s
  else if t.vec = 12 then failTask slot 0x0303 { address := t.val.toNat, detail2 := t.walk } s
  else if t.vec = 13 then failTask slot 0x0304 { address := t.val.toNat, detail2 := t.walk } s
  else if t.vec = 2 then failTask slot 0x0501 { address := t.val.toNat } s
  else if t.vec = 16 && t.val = 0 then blobDone slot s
  else failTask slot 0x0504
    { detail := (ret - 0xFFF00000).toNat, detail2 := t.val.toNat, reason := t.vec, index := t.sub } s

/-- An exception is taken: the entry, then its outcome for the task at T (R183 to R187, R197, Table 10-2). A core that the entry
halted has failed the job already (R188); a task that has stopped keeps its outcome. -/
def takeTrap (c : CoreId) (t : Trap) (ret : Word) (imprecise : Bool) (s : State) : State :=
  let lvl := coreLevel s c
  let s := if t.vec = 11 && t.sub = 0 then odBump 0x2302 6 s else s
  let s' := enter c t.vec t.sub t.val ret imprecise s
  match (core s c).task with
  | none => s'
  | some slot =>
    if (core s' c).run ≠ .running then s'
    else if t.vec = 2 then checkFails c t s'
    else if lvl = .t && (taskAt s' slot).any (fun x => x.run = .running) then taskTrapped c slot t ret s'
    else s'

/-- The entry of a pending imprecise ARITHMETIC exception, without its outcome for a task (R191). -/
def impreciseEntry (c : CoreId) (s : State) : State :=
  match (core s c).imp with
  | none => s
  | some (sub, addr) =>
    enter c 14 sub addr (core s c).pc true (coreMod c (fun k => { k with imp := none, impAge := 0 }) s)

/-- A pending imprecise ARITHMETIC exception is taken (R191). -/
def takeImprecise (c : CoreId) (s : State) : State :=
  let k := core s c
  match k.imp with
  | none => s
  | some (sub, addr) =>
    let s := coreMod c (fun k => { k with imp := none, impAge := 0 }) s
    takeTrap c { vec := 14, sub := sub, val := addr } k.pc true s

/-! ### Interrupts -/

/-- The lowest pending interrupt (log entry 15). -/
def lowestIntr (x : BitVec 4) : Option Nat := (List.range 4).find? fun i => x.getLsbD i

/-- Whether an interrupt would be taken now: at T, and at S with IE set (R193). -/
def takesIntr (s : State) (c : CoreId) : Bool :=
  let k := core s c
  k.intr ≠ 0 && (coreLevel s c = .t || (coreLevel s c = .s && k.sstat.getLsbD 7))

/-- The lowest pending interrupt is taken (R193); a task's registers are those the runtime saves (R194). -/
def takeIntr (c : CoreId) (s : State) : State :=
  let k := core s c
  match lowestIntr k.intr with
  | none => s
  | some i =>
    let save := match coreLevel s c, k.task with
      | .t, some slot => some (SavedCtx.mk slot k.g k.f k.pstat k.lvi k.pc)
      | _, _ => k.saved
    let s := coreMod c (fun k => { k with intr := k.intr &&& ~~~ (BitVec.ofNat 4 (2 ^ i)), saved := save }) s
    enter c (32 + i) 0 0 k.pc false s

/-! ### The frame of an instruction -/

/-- The fetch of the instruction at the pc: its exception, if it has one, and the state after it. An L1I miss looks up the L2,
and the line fills the L1I (R173, R176, R218, R221, Table 08-7). -/
def fetch (c : CoreId) (s : State) : Option Trap × State :=
  let pc := (core s c).pc
  if pc.toNat % 4 ≠ 0 then (some { vec := 6, val := pc }, s)
  else
    match corePlace s c .fetch pc.toNat 4 with
    | .error t => (some t, coreWalk c .fetch pc.toNat 4 s)
    | .ok (.dev pa st) =>
      let s := coreWalk c .fetch pc.toNat 4 s
      match parityRange c pa 4 s with
      | (s, some t) => (some t, s)
      | (s, none) =>
        if channelFailed s pa then (some { vec := 13, val := pc }, s)
        else if poisoned s pa 4 then (some { vec := 12, val := pc }, s)
        else (none, l1Load c true (pa / 64) st s)
    | .ok (.tile o) => (none, tileCorrect c o 4 s)
    | .ok .gone => (none, s)

/-- The exception of fetching the instruction at the pc. -/
def fetchTrap (s : State) (c : CoreId) : Option Trap := (fetch c s).1

/-- The state after the fetch of the instruction at the pc. -/
def fetchTouch (c : CoreId) (s : State) : State := (fetch c s).2

/-- The instruction completes: INSTRUCTIONS counts it, the pc moves, an older trap ages (R191, R198). -/
def retireAt (c : CoreId) (aged : Bool) (target : Word) (s : State) : State :=
  odBump (0x3400 + c.val) 3 (coreMod c (fun k =>
    { k with pc := target, impAge := if aged then k.impAge + 1 else 0 }) s)

/-- SYSC, MCALL and BREAKPOINT complete as they enter (R185, R191). -/
def entersDone (vec : Nat) : Bool := 15 ≤ vec && vec ≤ 17

/-- Return address of an exception: the next instruction for SYSC, MCALL and BREAKPOINT, else the instruction (R185). -/
def returnAddr (pc : Word) (vec : Nat) : Word := if entersDone vec then pc + 4 else pc

/-- An instruction's own exception is taken; SYSC, MCALL and BREAKPOINT are counted in INSTRUCTIONS as they complete (R198). A
read that returned nothing leaves the instruction to be executed again (R322). -/
def instrTrap (c : CoreId) (pc : Word) (t : Trap) (s : State) : State :=
  if t.vec = noData.vec then s
  else takeTrap c t (returnAddr pc t.vec) false (if entersDone t.vec then odBump (0x3400 + c.val) 3 s else s)

/-- One instruction executes on a core, no interrupt being taken before it. drains: a pending imprecise exception is taken first
(R191). -/
def runInstr (c : CoreId) (drains : Bool) (body : State → CoreEnd) (s : State) : State :=
  if !coreActive s c then s
  else
    let k := core s c
    if k.imp.isSome && (drains || 64 ≤ k.impAge) then takeImprecise c s
    else match fetchTrap s c with
      | some t => if k.imp.isSome then takeImprecise c s else takeTrap c t k.pc false (fetchTouch c s)
      | none =>
        match body (fetchTouch c s) with
        | .retire s' => retireAt c k.imp.isSome (k.pc + 4) s'
        | .jump target s' => retireAt c k.imp.isSome target s'
        | .trap t s' => if k.imp.isSome then takeImprecise c s else instrTrap c k.pc t s'
        | .wait s' => s'

/-- One instruction of a core: a pending interrupt that the level takes is taken before it, after a pending imprecise exception
(R184, R193). -/
def runCore (c : CoreId) (drains : Bool) (body : State → CoreEnd) (s : State) : State :=
  if coreActive s c && takesIntr s c then
    if (core s c).imp.isSome then takeImprecise c s else takeIntr c s
  else runInstr c drains body s

/-- ILLEGAL_INSTRUCTION with the instruction word (Table 08-7). -/
def illegal (word : BitVec 32) (s : State) : CoreEnd := .trap { vec := 4, val := word.setWidth 64 } s

/-- PRIVILEGED with the instruction word (Table 08-7). -/
def privileged (word : BitVec 32) (s : State) : CoreEnd := .trap { vec := 5, val := word.setWidth 64 } s

/-- The word of an R-format instruction (Table 08-5). -/
def encR (major : Nat) (rd ra rb : Reg) (func : Nat) : BitVec 32 :=
  BitVec.ofNat 32 (major * 2 ^ 26 + rd.val * 2 ^ 21 + ra.val * 2 ^ 16 + rb.val * 2 ^ 11 + func)

/-- The word of an I-format instruction (Table 08-5). -/
def encI (major : Nat) (rd ra : Reg) (imm : Nat) : BitVec 32 :=
  BitVec.ofNat 32 (major * 2 ^ 26 + rd.val * 2 ^ 21 + ra.val * 2 ^ 16 + imm)

/-! ### Arithmetic results and their exceptions (R191, R192) -/

/-- The highest flag of a mask, as 1 << bit. -/
def highestFlag (fl : Nat) : Nat := if fl = 0 then 0 else 2 ^ Nat.log2 fl

/-- An arithmetic instruction with flags and, for CHK, an overflow: write is its destination's update. -/
def arith (c : CoreId) (fl : FFlags) (chk : Bool) (write : State → State) (s : State) : CoreEnd :=
  let k := core s c
  let te := bitsOf k.pstat.toNat 22 17
  let sub := if chk then 0x40 else highestFlag (fl &&& te)
  if sub ≠ 0 && precise s c then .trap { vec := 14, sub := sub, val := k.pc } s
  else
    let s := write s
    let s := coreMod c (fun k => { k with pstat := k.pstat ||| BitVec.ofNat 64 fl }) s
    if sub ≠ 0 && k.imp.isNone then
      .retire (coreMod c (fun k' => { k' with imp := some (sub, k.pc) }) s)
    else .retire s

end Sys2Proof.Machine
end

