-- ==== Sys2Proof/Machine/CoreMem.lean ====
section
/-! DEFINITION. Loads and stores of a core: tile memory, and device memory through its caches (R175, R181, R225, Table 10-2). -/

namespace Sys2Proof.Machine

/-- A load of n bytes at a physical address by a core: the bytes, or an exception (R225). -/
def devLoad (c : CoreId) (a pa n : Nat) (stream : Bool) (s : State) : Except Trap (List Byte) × State :=
  match parityRange c pa n s with
  | (s, some t) => (.error t, s)
  | (s, none) =>
    if channelFailed s pa then (.error { vec := 13, val := BitVec.ofNat 64 a }, s)
    else
      let s := (lines64 pa n).foldl (fun s l => l1Load c false l stream s) s
      if poisoned s pa n then (.error { vec := 12, val := BitVec.ofNat 64 a }, s)
      else (.ok (physTake s pa n), s)

/-- A store of bytes at a physical address by a core. A channel that does not answer makes no entry (R270); a parity or tag
error that the store meets does, and nothing is stored (Table 10-2). -/
def devStore (c : CoreId) (ctx : Ctx) (a pa : Nat) (bytes : List Byte) (stream : Bool) (s : State) :
    Except (Trap × State) State :=
  if channelFailed s pa then .ok (lostStore c a s)
  else match storeCheck c pa bytes.length s with
    | (s, some t) => .error (t, s)
    | (s, none) => .ok (storeLines c pa bytes stream (logWrite ctx a bytes.length s))

/-- Write bursts of an old generation are dropped before they land and counted in CHAFF_WRITES (R322). -/
def chaffWrite (c : CoreId) (a n : Nat) (s : State) : State :=
  match (core s c).task.bind (taskAt s) with
  | some t => odAdd (instIdx t.inst) 0x2A (lines64 a n).length s
  | none => s

/-- A load of n bytes within one page. -/
def coreLoad (c : CoreId) (a n : Nat) (longVec : Bool) (s : State) : Except Trap (List Byte) × State :=
  match corePlace s c .read a n with
  | .error t => (.error t, coreWalk c .read a n s)
  | .ok .gone => (.error noData, s)
  | .ok (.tile o) => (.ok (memTake (core s c).tile o n), tileCorrect c o n s)
  | .ok (.dev pa st) => devLoad c a pa n (st || longVec) (coreWalk c .read a n s)

/-- A store within one page: the state after it, or its exception with the state that stands. -/
def coreStore (c : CoreId) (a : Nat) (bytes : List Byte) (longVec : Bool) (s : State) : Except (Trap × State) State :=
  match corePlace s c .write a bytes.length with
  | .error t => .error (t, coreWalk c .write a bytes.length s)
  | .ok .gone => .ok (chaffWrite c a bytes.length s)
  | .ok (.tile o) => .ok (tileWrite c o bytes s)
  | .ok (.dev pa st) => devStore c (coreCtx s c) a pa bytes (st || longVec) (coreWalk c .write a bytes.length s)

end Sys2Proof.Machine
end

