-- ==== Sys2Proof/Machine/TillerInt.lean ====
section
/-! DEFINITION. Meanings of the scalar integer instructions and branches (R178, R180). -/

namespace Sys2Proof.Machine

/-! ### Operations -/

/-- A shift by a register count: a count at or above the width has a free result (log entry 13). -/
def shiftReg {w : Nat} (op : Nat) (f : BitVec w → Nat → BitVec w) (a b : BitVec w) : BitVec w :=
  if b.toNat < w then f a b.toNat else BitVec.ofNat w (Config.shiftBeyond op w a.toNat b.toNat)

/-- Leading zeros of a number of w bits. -/
def clzNat (w x : Nat) : Nat := w - bitLen x

/-- 1 or 0. -/
def b2w (b : Bool) : Word := if b then 1 else 0

/-- Signed order. -/
def sminW (a b : Word) : Word := if a.slt b then a else b
/-- Signed order. -/
def smaxW (a b : Word) : Word := if a.slt b then b else a
/-- Unsigned order. -/
def uminW (a b : Word) : Word := if a.ult b then a else b
/-- Unsigned order. -/
def umaxW (a b : Word) : Word := if a.ult b then b else a

/-- A 32-bit operation on bits 31:0, its result sign-extended (R178 ALUW). -/
def wop (f : BitVec 32 → BitVec 32 → BitVec 32) (a b : Word) : Word :=
  (f (a.setWidth 32) (b.setWidth 32)).signExtend 64

/-- g(rd) := f of g(ra) and g(rb). -/
def aluBody (c : CoreId) (rd ra rb : Reg) (f : Word → Word → Word) (s : State) : CoreEnd :=
  .retire (gSet c rd (f (gGet s c ra) (gGet s c rb)) s)

/-- An ALU or ALUW instruction. -/
def runAlu (c : CoreId) (rd ra rb : Reg) (f : Word → Word → Word) (s : State) : State :=
  runCore c false (aluBody c rd ra rb f) s

/-- g(rd) := f of g(ra): an immediate instruction. -/
def runImm (c : CoreId) (rd ra : Reg) (f : Word → Word) (s : State) : State :=
  runCore c false (fun s => .retire (gSet c rd (f (gGet s c ra)) s)) s

/-! ### ALU and ALUW (R178) -/

/-- ALU ADD (R178). -/
def execAluAdd (c : CoreId) (rd ra rb : Reg) (s : State) : Host.Outcome State Fault Refusal :=
  .next (runAlu c rd ra rb (fun a b => a + b) s)

/-- ALU SUB (R178). -/
def execAluSub (c : CoreId) (rd ra rb : Reg) (s : State) : Host.Outcome State Fault Refusal :=
  .next (runAlu c rd ra rb (fun a b => a - b) s)

/-- ALU AND (R178). -/
def execAluAnd (c : CoreId) (rd ra rb : Reg) (s : State) : Host.Outcome State Fault Refusal :=
  .next (runAlu c rd ra rb (fun a b => a &&& b) s)

/-- ALU OR (R178). -/
def execAluOr (c : CoreId) (rd ra rb : Reg) (s : State) : Host.Outcome State Fault Refusal :=
  .next (runAlu c rd ra rb (fun a b => a ||| b) s)

/-- ALU XOR (R178). -/
def execAluXor (c : CoreId) (rd ra rb : Reg) (s : State) : Host.Outcome State Fault Refusal :=
  .next (runAlu c rd ra rb (fun a b => a ^^^ b) s)

/-- ALU SLL (R178). -/
def execAluSll (c : CoreId) (rd ra rb : Reg) (s : State) : Host.Outcome State Fault Refusal :=
  .next (runAlu c rd ra rb (shiftReg 0 (fun a n => a <<< n)) s)

/-- ALU SRL (R178). -/
def execAluSrl (c : CoreId) (rd ra rb : Reg) (s : State) : Host.Outcome State Fault Refusal :=
  .next (runAlu c rd ra rb (shiftReg 1 (fun a n => a >>> n)) s)

/-- ALU SRA (R178). -/
def execAluSra (c : CoreId) (rd ra rb : Reg) (s : State) : Host.Outcome State Fault Refusal :=
  .next (runAlu c rd ra rb (shiftReg 2 (fun a n => a.sshiftRight n)) s)

/-- ALU SLT (R178). -/
def execAluSlt (c : CoreId) (rd ra rb : Reg) (s : State) : Host.Outcome State Fault Refusal :=
  .next (runAlu c rd ra rb (fun a b => b2w (a.slt b)) s)

/-- ALU SLTU (R178). -/
def execAluSltu (c : CoreId) (rd ra rb : Reg) (s : State) : Host.Outcome State Fault Refusal :=
  .next (runAlu c rd ra rb (fun a b => b2w (a.ult b)) s)

/-- ALU MIN (R178). -/
def execAluMin (c : CoreId) (rd ra rb : Reg) (s : State) : Host.Outcome State Fault Refusal :=
  .next (runAlu c rd ra rb (sminW) s)

/-- ALU MAX (R178). -/
def execAluMax (c : CoreId) (rd ra rb : Reg) (s : State) : Host.Outcome State Fault Refusal :=
  .next (runAlu c rd ra rb (smaxW) s)

/-- ALU MINU (R178). -/
def execAluMinu (c : CoreId) (rd ra rb : Reg) (s : State) : Host.Outcome State Fault Refusal :=
  .next (runAlu c rd ra rb (uminW) s)

/-- ALU MAXU (R178). -/
def execAluMaxu (c : CoreId) (rd ra rb : Reg) (s : State) : Host.Outcome State Fault Refusal :=
  .next (runAlu c rd ra rb (umaxW) s)

/-- ALU ROTL (R178). -/
def execAluRotl (c : CoreId) (rd ra rb : Reg) (s : State) : Host.Outcome State Fault Refusal :=
  .next (runAlu c rd ra rb (fun a b => a.rotateLeft (b.toNat % 64)) s)

/-- ALU CLZ (R178): leading zeros of g(ra). -/
def execAluClz (c : CoreId) (rd ra : Reg) (s : State) : Host.Outcome State Fault Refusal :=
  .next (runImm c rd ra (fun a => BitVec.ofNat 64 (clzNat 64 a.toNat)) s)

/-- ALUW ADD (R178). -/
def execAluwAdd (c : CoreId) (rd ra rb : Reg) (s : State) : Host.Outcome State Fault Refusal :=
  .next (runAlu c rd ra rb (wop (fun a b => a + b)) s)

/-- ALUW SUB (R178). -/
def execAluwSub (c : CoreId) (rd ra rb : Reg) (s : State) : Host.Outcome State Fault Refusal :=
  .next (runAlu c rd ra rb (wop (fun a b => a - b)) s)

/-- ALUW AND (R178). -/
def execAluwAnd (c : CoreId) (rd ra rb : Reg) (s : State) : Host.Outcome State Fault Refusal :=
  .next (runAlu c rd ra rb (wop (fun a b => a &&& b)) s)

/-- ALUW OR (R178). -/
def execAluwOr (c : CoreId) (rd ra rb : Reg) (s : State) : Host.Outcome State Fault Refusal :=
  .next (runAlu c rd ra rb (wop (fun a b => a ||| b)) s)

/-- ALUW XOR (R178). -/
def execAluwXor (c : CoreId) (rd ra rb : Reg) (s : State) : Host.Outcome State Fault Refusal :=
  .next (runAlu c rd ra rb (wop (fun a b => a ^^^ b)) s)

/-- ALUW SLL (R178). -/
def execAluwSll (c : CoreId) (rd ra rb : Reg) (s : State) : Host.Outcome State Fault Refusal :=
  .next (runAlu c rd ra rb (wop (shiftReg 0 (fun a n => a <<< n))) s)

/-- ALUW SRL (R178). -/
def execAluwSrl (c : CoreId) (rd ra rb : Reg) (s : State) : Host.Outcome State Fault Refusal :=
  .next (runAlu c rd ra rb (wop (shiftReg 1 (fun a n => a >>> n))) s)

/-- ALUW SRA (R178). -/
def execAluwSra (c : CoreId) (rd ra rb : Reg) (s : State) : Host.Outcome State Fault Refusal :=
  .next (runAlu c rd ra rb (wop (shiftReg 2 (fun a n => a.sshiftRight n))) s)

/-- ALUW SLT (R178). -/
def execAluwSlt (c : CoreId) (rd ra rb : Reg) (s : State) : Host.Outcome State Fault Refusal :=
  .next (runAlu c rd ra rb (wop (fun a b => if a.slt b then 1 else 0)) s)

/-- ALUW SLTU (R178). -/
def execAluwSltu (c : CoreId) (rd ra rb : Reg) (s : State) : Host.Outcome State Fault Refusal :=
  .next (runAlu c rd ra rb (wop (fun a b => if a.ult b then 1 else 0)) s)

/-- ALUW MIN (R178). -/
def execAluwMin (c : CoreId) (rd ra rb : Reg) (s : State) : Host.Outcome State Fault Refusal :=
  .next (runAlu c rd ra rb (wop (fun a b => if a.slt b then a else b)) s)

/-- ALUW MAX (R178). -/
def execAluwMax (c : CoreId) (rd ra rb : Reg) (s : State) : Host.Outcome State Fault Refusal :=
  .next (runAlu c rd ra rb (wop (fun a b => if a.slt b then b else a)) s)

/-- ALUW MINU (R178). -/
def execAluwMinu (c : CoreId) (rd ra rb : Reg) (s : State) : Host.Outcome State Fault Refusal :=
  .next (runAlu c rd ra rb (wop (fun a b => if a.ult b then a else b)) s)

/-- ALUW MAXU (R178). -/
def execAluwMaxu (c : CoreId) (rd ra rb : Reg) (s : State) : Host.Outcome State Fault Refusal :=
  .next (runAlu c rd ra rb (wop (fun a b => if a.ult b then b else a)) s)

/-- ALUW ROTL (R178). -/
def execAluwRotl (c : CoreId) (rd ra rb : Reg) (s : State) : Host.Outcome State Fault Refusal :=
  .next (runAlu c rd ra rb (wop (fun a b => a.rotateLeft (b.toNat % 32))) s)

/-- ALUW CLZ (R178): leading zeros of bits 31:0 of g(ra). -/
def execAluwClz (c : CoreId) (rd ra : Reg) (s : State) : Host.Outcome State Fault Refusal :=
  .next (runImm c rd ra (fun a => BitVec.ofNat 64 (clzNat 32 (a.toNat % 2 ^ 32))) s)

/-! ### MULDIV and CHK (R178) -/

/-- High 64 bits of a product of integers. -/
def mulHigh (p : Int) : Word := BitVec.ofInt 64 (p / 2 ^ 64)

/-- A division: all ones and the dividend on a zero divisor (R178). -/
def divVal (signed rem : Bool) (a b : Word) : Word :=
  if b = 0 then (if rem then a else BitVec.allOnes 64)
  else match signed, rem with
    | true, false => a.sdiv b
    | true, true => a.srem b
    | false, false => a / b
    | false, true => a % b

/-- A MULDIV division; a zero divisor sets FLAGS.IDZ (R178, R191). -/
def runDiv (c : CoreId) (rd ra rb : Reg) (signed rem : Bool) (s : State) : State :=
  runCore c false (fun s =>
    let a := gGet s c ra
    let b := gGet s c rb
    arith c (if b = 0 then flagIDZ else 0) false (gSet c rd (divVal signed rem a b)) s) s

/-- Whether a signed 64-bit result overflows. -/
def overflows (i : Int) : Bool := i < -(2 ^ 63) || 2 ^ 63 ≤ i

/-- A CHK instruction: the result modulo 2^64, ARITHMETIC with SUBCODE 0x40 on overflow (R178). -/
def runChk (c : CoreId) (rd ra rb : Reg) (f : Int → Int → Int) (s : State) : State :=
  runCore c false (fun s =>
    let r := f (gGet s c ra).toInt (gGet s c rb).toInt
    arith c 0 (overflows r) (gSet c rd (BitVec.ofInt 64 r)) s) s

/-- MUL (R178). -/
def execMul (c : CoreId) (rd ra rb : Reg) (s : State) : Host.Outcome State Fault Refusal :=
  .next (runAlu c rd ra rb (fun a b => a * b) s)

/-- MULH (R178). -/
def execMulh (c : CoreId) (rd ra rb : Reg) (s : State) : Host.Outcome State Fault Refusal :=
  .next (runAlu c rd ra rb (fun a b => mulHigh (a.toInt * b.toInt)) s)

/-- MULHU (R178). -/
def execMulhu (c : CoreId) (rd ra rb : Reg) (s : State) : Host.Outcome State Fault Refusal :=
  .next (runAlu c rd ra rb (fun a b => mulHigh ((a.toNat * b.toNat : Nat) : Int)) s)

/-- DIV (R178). -/
def execDiv (c : CoreId) (rd ra rb : Reg) (s : State) : Host.Outcome State Fault Refusal :=
  .next (runDiv c rd ra rb true false s)

/-- DIVU (R178). -/
def execDivu (c : CoreId) (rd ra rb : Reg) (s : State) : Host.Outcome State Fault Refusal :=
  .next (runDiv c rd ra rb false false s)

/-- REM (R178). -/
def execRem (c : CoreId) (rd ra rb : Reg) (s : State) : Host.Outcome State Fault Refusal :=
  .next (runDiv c rd ra rb true true s)

/-- REMU (R178). -/
def execRemu (c : CoreId) (rd ra rb : Reg) (s : State) : Host.Outcome State Fault Refusal :=
  .next (runDiv c rd ra rb false true s)

/-- CHK ADD (R178). -/
def execChkAdd (c : CoreId) (rd ra rb : Reg) (s : State) : Host.Outcome State Fault Refusal :=
  .next (runChk c rd ra rb (fun a b => a + b) s)

/-- CHK SUB (R178). -/
def execChkSub (c : CoreId) (rd ra rb : Reg) (s : State) : Host.Outcome State Fault Refusal :=
  .next (runChk c rd ra rb (fun a b => a - b) s)

/-- CHK MUL (R178). -/
def execChkMul (c : CoreId) (rd ra rb : Reg) (s : State) : Host.Outcome State Fault Refusal :=
  .next (runChk c rd ra rb (fun a b => a * b) s)

/-! ### Immediates and shifts (R180) -/

/-- ADDI (R180). -/
def execAddi (c : CoreId) (rd ra : Reg) (imm : BitVec 16) (s : State) : Host.Outcome State Fault Refusal :=
  .next (runImm c rd ra (fun a => a + imm.signExtend 64) s)

/-- ANDI (R180). -/
def execAndi (c : CoreId) (rd ra : Reg) (imm : BitVec 16) (s : State) : Host.Outcome State Fault Refusal :=
  .next (runImm c rd ra (fun a => a &&& imm.setWidth 64) s)

/-- ORI (R180). -/
def execOri (c : CoreId) (rd ra : Reg) (imm : BitVec 16) (s : State) : Host.Outcome State Fault Refusal :=
  .next (runImm c rd ra (fun a => a ||| imm.setWidth 64) s)

/-- XORI (R180). -/
def execXori (c : CoreId) (rd ra : Reg) (imm : BitVec 16) (s : State) : Host.Outcome State Fault Refusal :=
  .next (runImm c rd ra (fun a => a ^^^ imm.setWidth 64) s)

/-- SLTI (R180). -/
def execSlti (c : CoreId) (rd ra : Reg) (imm : BitVec 16) (s : State) : Host.Outcome State Fault Refusal :=
  .next (runImm c rd ra (fun a => b2w (a.slt (imm.signExtend 64))) s)

/-- LUI (R180): imm16 × 65,536, sign-extended from bit 31. -/
def execLui (c : CoreId) (rd : Reg) (imm : BitVec 16) (s : State) : Host.Outcome State Fault Refusal :=
  .next (runImm c rd 0 (fun _ => (imm ++ (0 : BitVec 16)).signExtend 64) s)

/-- A SHIFTI instruction; a count of 32 or more with W set is illegal (R180). -/
def runShifti (c : CoreId) (rd ra : Reg) (w : Bool) (count : Fin 64) (sel : Nat)
    (f64 : Word → Nat → Word) (f32 : BitVec 32 → Nat → BitVec 32) (s : State) : State :=
  runCore c false (fun s =>
    if w && 32 ≤ count.val then
      illegal (encI 0x09 rd ra (sel * 2 ^ 14 + 2 ^ 13 + count.val)) s
    else
      let a := gGet s c ra
      let v := if w then (f32 (a.setWidth 32) count.val).signExtend 64 else f64 a count.val
      .retire (gSet c rd v s)) s

/-- SLLI (R180). -/
def execSlli (c : CoreId) (rd ra : Reg) (w : Bool) (count : Fin 64) (s : State) : Host.Outcome State Fault Refusal :=
  .next (runShifti c rd ra w count 0 (fun a n => a <<< n) (fun a n => a <<< n) s)

/-- SRLI (R180). -/
def execSrli (c : CoreId) (rd ra : Reg) (w : Bool) (count : Fin 64) (s : State) : Host.Outcome State Fault Refusal :=
  .next (runShifti c rd ra w count 1 (fun a n => a >>> n) (fun a n => a >>> n) s)

/-- SRAI (R180). -/
def execSrai (c : CoreId) (rd ra : Reg) (w : Bool) (count : Fin 64) (s : State) : Host.Outcome State Fault Refusal :=
  .next (runShifti c rd ra w count 2 (fun a n => a.sshiftRight n) (fun a n => a.sshiftRight n) s)

/-- ROTLI (R180). -/
def execRotli (c : CoreId) (rd ra : Reg) (w : Bool) (count : Fin 64) (s : State) : Host.Outcome State Fault Refusal :=
  .next (runShifti c rd ra w count 3 (fun a n => a.rotateLeft n) (fun a n => a.rotateLeft n) s)

/-! ### Branches and jumps (R180) -/

/-- A branch displacement: four times the signed field (Table 08-5). -/
def disp16 (d : BitVec 16) : Word := d.signExtend 64 <<< 2

/-- A branch: to the target when the condition holds, else on. -/
def runBranch (c : CoreId) (ra rb : Reg) (disp : BitVec 16) (cond : Word → Word → Bool) (s : State) : State :=
  runCore c false (fun s =>
    if cond (gGet s c ra) (gGet s c rb) then .jump ((core s c).pc + disp16 disp) s else .retire s) s

/-- BEQ (R180). -/
def execBeq (c : CoreId) (ra rb : Reg) (disp : BitVec 16) (s : State) : Host.Outcome State Fault Refusal :=
  .next (runBranch c ra rb disp (fun a b => a = b) s)

/-- BNE (R180). -/
def execBne (c : CoreId) (ra rb : Reg) (disp : BitVec 16) (s : State) : Host.Outcome State Fault Refusal :=
  .next (runBranch c ra rb disp (fun a b => a ≠ b) s)

/-- BLT (R180). -/
def execBlt (c : CoreId) (ra rb : Reg) (disp : BitVec 16) (s : State) : Host.Outcome State Fault Refusal :=
  .next (runBranch c ra rb disp (fun a b => a.slt b) s)

/-- BGE (R180). -/
def execBge (c : CoreId) (ra rb : Reg) (disp : BitVec 16) (s : State) : Host.Outcome State Fault Refusal :=
  .next (runBranch c ra rb disp (fun a b => !a.slt b) s)

/-- BLTU (R180). -/
def execBltu (c : CoreId) (ra rb : Reg) (disp : BitVec 16) (s : State) : Host.Outcome State Fault Refusal :=
  .next (runBranch c ra rb disp (fun a b => a.ult b) s)

/-- BGEU (R180). -/
def execBgeu (c : CoreId) (ra rb : Reg) (disp : BitVec 16) (s : State) : Host.Outcome State Fault Refusal :=
  .next (runBranch c ra rb disp (fun a b => !a.ult b) s)

/-- A jump displacement: four times the signed 26-bit field. -/
def disp26 (d : BitVec 26) : Word := d.signExtend 64 <<< 2

/-- J (R180). -/
def execJ (c : CoreId) (disp : BitVec 26) (s : State) : Host.Outcome State Fault Refusal :=
  .next (runCore c false (fun s => .jump ((core s c).pc + disp26 disp) s) s)

/-- JAL (R180): the address of the next instruction goes to g30. -/
def execJal (c : CoreId) (disp : BitVec 26) (s : State) : Host.Outcome State Fault Refusal :=
  .next (runCore c false (fun s =>
    let pc := (core s c).pc
    .jump (pc + disp26 disp) (gSet c 30 (pc + 4) s)) s)

/-- JALR (R180): the target is formed before rd is written; a misaligned target raises MISALIGNED_FETCH. -/
def execJalr (c : CoreId) (rd ra : Reg) (imm : BitVec 16) (s : State) : Host.Outcome State Fault Refusal :=
  .next (runCore c false (fun s =>
    let target := gGet s c ra + imm.signExtend 64
    if target.toNat % 4 ≠ 0 then .trap { vec := 6, val := target } s
    else .jump target (gSet c rd ((core s c).pc + 4) s)) s)

end Sys2Proof.Machine
end

