-- ==== Sys2Proof/Machine/TillerMem.lean ====
section
/-! DEFINITION. Meanings of the scalar loads and stores, atomics and FENCE (R180 to R182, R200, R220). -/

namespace Sys2Proof.Machine

/-- The address of a load or store (R180). -/
def memAddr (s : State) (c : CoreId) (ra : Reg) (imm : BitVec 16) : Nat :=
  (gGet s c ra + imm.signExtend 64).toNat

/-- A load of n bytes, written by a function of them; a misaligned address traps (R180). -/
def loadBody (c : CoreId) (ra : Reg) (imm : BitVec 16) (n : Nat) (write : List Byte → State → State)
    (s : State) : CoreEnd :=
  let a := memAddr s c ra imm
  if a % n ≠ 0 then .trap { vec := 7, val := BitVec.ofNat 64 a } s
  else match coreLoad c a n false s with
    | (.error t, s) => .trap t s
    | (.ok bs, s) => .retire (write bs s)

/-- A load of n bytes. -/
def runLoad (c : CoreId) (ra : Reg) (imm : BitVec 16) (n : Nat) (write : List Byte → State → State)
    (s : State) : State :=
  runCore c false (loadBody c ra imm n write) s

/-- A store of bytes given by a function of the state (R180). -/
def storeBody (c : CoreId) (ra : Reg) (imm : BitVec 16) (n : Nat) (val : State → Nat) (s : State) : CoreEnd :=
  let a := memAddr s c ra imm
  if a % n ≠ 0 then .trap { vec := 7, val := BitVec.ofNat 64 a } s
  else match coreStore c a (leBytes n (val s)) false s with
    | .error (t, s) => .trap t s
    | .ok s => .retire s

/-- A store of n bytes. -/
def runStore (c : CoreId) (ra : Reg) (imm : BitVec 16) (n : Nat) (val : State → Nat) (s : State) : State :=
  runCore c false (storeBody c ra imm n val) s

/-- A loaded value, zero- or sign-extended into a g register. -/
def loadG (c : CoreId) (rd : Reg) (signed : Bool) (bs : List Byte) (s : State) : State :=
  let w := 8 * bs.length
  gSet c rd (if signed then BitVec.ofInt 64 (toSigned w (leNat bs)) else BitVec.ofNat 64 (leNat bs)) s

/-- LB (R180). -/
def execLb (c : CoreId) (rd ra : Reg) (imm : BitVec 16) (s : State) : Host.Outcome State Fault Refusal :=
  .next (runLoad c ra imm 1 (loadG c rd true) s)

/-- LH (R180). -/
def execLh (c : CoreId) (rd ra : Reg) (imm : BitVec 16) (s : State) : Host.Outcome State Fault Refusal :=
  .next (runLoad c ra imm 2 (loadG c rd true) s)

/-- LW (R180). -/
def execLw (c : CoreId) (rd ra : Reg) (imm : BitVec 16) (s : State) : Host.Outcome State Fault Refusal :=
  .next (runLoad c ra imm 4 (loadG c rd true) s)

/-- LD (R180). -/
def execLd (c : CoreId) (rd ra : Reg) (imm : BitVec 16) (s : State) : Host.Outcome State Fault Refusal :=
  .next (runLoad c ra imm 8 (loadG c rd false) s)

/-- LBU (R180). -/
def execLbu (c : CoreId) (rd ra : Reg) (imm : BitVec 16) (s : State) : Host.Outcome State Fault Refusal :=
  .next (runLoad c ra imm 1 (loadG c rd false) s)

/-- LHU (R180). -/
def execLhu (c : CoreId) (rd ra : Reg) (imm : BitVec 16) (s : State) : Host.Outcome State Fault Refusal :=
  .next (runLoad c ra imm 2 (loadG c rd false) s)

/-- LWU (R180). -/
def execLwu (c : CoreId) (rd ra : Reg) (imm : BitVec 16) (s : State) : Host.Outcome State Fault Refusal :=
  .next (runLoad c ra imm 4 (loadG c rd false) s)

/-- LDA (R180): accesses of one command are not split, so the ordering of R181 holds. -/
def execLda (c : CoreId) (rd ra : Reg) (imm : BitVec 16) (s : State) : Host.Outcome State Fault Refusal :=
  .next (runLoad c ra imm 8 (loadG c rd false) s)

/-- FLD (R180, R200). -/
def execFld (c : CoreId) (rd ra : Reg) (imm : BitVec 16) (s : State) : Host.Outcome State Fault Refusal :=
  .next (runLoad c ra imm 8 (fun bs => fSet c rd (BitVec.ofNat 64 (leNat bs))) s)

/-- FLW (R200): bits 63:32 become 0. -/
def execFlw (c : CoreId) (rd ra : Reg) (imm : BitVec 16) (s : State) : Host.Outcome State Fault Refusal :=
  .next (runLoad c ra imm 4 (fun bs => fSet c rd (BitVec.ofNat 64 (leNat bs))) s)

/-- SB (R180). -/
def execSb (c : CoreId) (rd ra : Reg) (imm : BitVec 16) (s : State) : Host.Outcome State Fault Refusal :=
  .next (runStore c ra imm 1 (fun s => (gGet s c rd).toNat) s)

/-- SH (R180). -/
def execSh (c : CoreId) (rd ra : Reg) (imm : BitVec 16) (s : State) : Host.Outcome State Fault Refusal :=
  .next (runStore c ra imm 2 (fun s => (gGet s c rd).toNat) s)

/-- SW (R180). -/
def execSw (c : CoreId) (rd ra : Reg) (imm : BitVec 16) (s : State) : Host.Outcome State Fault Refusal :=
  .next (runStore c ra imm 4 (fun s => (gGet s c rd).toNat) s)

/-- SD (R180). -/
def execSd (c : CoreId) (rd ra : Reg) (imm : BitVec 16) (s : State) : Host.Outcome State Fault Refusal :=
  .next (runStore c ra imm 8 (fun s => (gGet s c rd).toNat) s)

/-- STL (R180, R181). -/
def execStl (c : CoreId) (rd ra : Reg) (imm : BitVec 16) (s : State) : Host.Outcome State Fault Refusal :=
  .next (runStore c ra imm 8 (fun s => (gGet s c rd).toNat) s)

/-- FSD (R180). -/
def execFsd (c : CoreId) (rd ra : Reg) (imm : BitVec 16) (s : State) : Host.Outcome State Fault Refusal :=
  .next (runStore c ra imm 8 (fun s => (fGet s c rd).toNat) s)

/-- FSW (R200): bits 31:0 of the f register. -/
def execFsw (c : CoreId) (rd ra : Reg) (imm : BitVec 16) (s : State) : Host.Outcome State Fault Refusal :=
  .next (runStore c ra imm 4 (fun s => (fGet s c rd).toNat) s)

/-- The checks of LRX and SCX: alignment, then no tile address (R182, Table 08-7). -/
def atomTrap (a : Nat) : Option Trap :=
  if a % 8 ≠ 0 then some { vec := 7, val := BitVec.ofNat 64 a }
  else if inWindow a then some { vec := 11, sub := 2, val := BitVec.ofNat 64 a }
  else none

/-- The physical 128-byte line of a device address, if the core can reach it. -/
def reserveLine (s : State) (c : CoreId) (a : Nat) : Option Nat :=
  match corePlace s c .read a 8 with
  | .ok (.dev pa _) => some (pa / 128)
  | _ => none

/-- LRX (R178, R182): 8 bytes are loaded and a reservation on their line is set. -/
def execLrx (c : CoreId) (rd ra : Reg) (s : State) : Host.Outcome State Fault Refusal :=
  .next (runCore c false (fun s =>
    let a := (gGet s c ra).toNat
    match atomTrap a with
    | some t => .trap t s
    | none =>
      let line := reserveLine s c a
      match coreLoad c a 8 false s with
      | (.error t, s) => .trap t s
      | (.ok bs, s) => .retire (loadG c rd false bs (coreMod c (fun k => { k with resv := line }) s))) s)

/-- SCX (R178, R182): stores g(rb) and writes 0 if the reservation holds on the line, else writes 1. R182
does not list SCX among what ends a reservation (log entry 14). -/
def execScx (c : CoreId) (rd ra rb : Reg) (s : State) : Host.Outcome State Fault Refusal :=
  .next (runCore c false (fun s =>
    let a := (gGet s c ra).toNat
    match atomTrap a with
    | some t => .trap t s
    | none =>
      match corePlace s c .write a 8 with
      | .error t => .trap t s
      | .ok (.dev pa _) =>
        if (core s c).resv = some (pa / 128) then
          match coreStore c a (leBytes 8 (gGet s c rb).toNat) false s with
          | .error (t, s) => .trap t s
          | .ok s => .retire (gSet c rd 0 s)
        else .retire (gSet c rd 1 s)
      | .ok _ => .retire (gSet c rd 1 s)) s)

/-- FENCE (R181, R191, R220): a pending trap is taken first; FI invalidates the core's L1I. -/
def execFence (c : CoreId) (bits : BitVec 5) (s : State) : Host.Outcome State Fault Refusal :=
  .next (runCore c true (fun s =>
    .retire (if bits.getLsbD 4 then coreMod c (fun k => { k with l1i := [] }) s else s)) s)

end Sys2Proof.Machine
end

