-- ==== Sys2Proof/Machine/TillerSys.lean ====
section
/-! DEFINITION. Meanings of the SYS and STREAM instructions, interrupts and core restart (R183 to R198). -/

namespace Sys2Proof.Machine

/-- The word of a SYS instruction (R190): rd selects the operation. -/
def encSys (op : Reg) (ra : Reg) (imm : Nat) : BitVec 32 := encI 0x3D op ra imm

/-- SYSC (R190): entry to S with imm16; from M it is ILLEGAL_INSTRUCTION (Table 08-7). -/
def execSysc (c : CoreId) (imm : BitVec 16) (s : State) : Host.Outcome State Fault Refusal :=
  .next (runCore c true (fun s =>
    if coreLevel s c = .m then illegal (encSys 0 0 imm.toNat) s
    else .trap { vec := 16, val := imm.setWidth 64 } s) s)

/-- MCALL (R190): entry to M with imm16; from T it is PRIVILEGED (Table 08-7). -/
def execMcall (c : CoreId) (imm : BitVec 16) (s : State) : Host.Outcome State Fault Refusal :=
  .next (runCore c true (fun s =>
    if coreLevel s c = .t then privileged (encSys 1 0 imm.toNat) s
    else .trap { vec := 17, val := imm.setWidth 64 } s) s)

/-- SRET (R189). -/
def execSret (c : CoreId) (s : State) : Host.Outcome State Fault Refusal :=
  .next (runCore c true (fun s =>
    let k := core s c
    if coreLevel s c = .t then privileged (encSys 2 0 0) s
    else .jump k.sepc (coreMod c (fun k =>
      { k with pstat := wput k.pstat 31 30 (bitsOf k.sstat.toNat 10 9), sstat := returnStat k.sstat }) s)) s)

/-- MRET (R189). -/
def execMret (c : CoreId) (s : State) : Host.Outcome State Fault Refusal :=
  .next (runCore c true (fun s =>
    let k := core s c
    if coreLevel s c ≠ .m then privileged (encSys 3 0 0) s
    else .jump k.mepc (coreMod c (fun k =>
      { k with pstat := wput k.pstat 31 30 (bitsOf k.mstat.toNat 10 9), mstat := returnStat k.mstat }) s)) s)

/-- Lowest level that may use a status register number; none for a number absent from Table 08-2. -/
def statLevel (n : Nat) : Option Level :=
  if n = 0x00 || n = 0x01 then some .t
  else if (0x10 ≤ n && n ≤ 0x12) || n = 0x30 then some .s
  else if 0x20 ≤ n && n ≤ 0x23 then some .m
  else none

/-- The value of a status register (Table 08-2). -/
def statRead (s : State) (c : CoreId) (n : Nat) : Word :=
  let k := core s c
  match n with
  | 0x00 => k.pstat
  | 0x01 => k.lvi
  | 0x10 => k.sepc
  | 0x11 => k.sstat
  | 0x12 => k.sval
  | 0x20 => k.mepc
  | 0x21 => k.mstat
  | 0x22 => k.mval
  | 0x23 => k.estk
  | _ => BitVec.ofNat 64 c.val

/-- The fields of pstat that MTS writes: PRECISE, TE, RM, FLAGS (Table 08-3). -/
def pstatMask : Word := 0x00FE033F

/-- The fields of sstat and mstat (Table 08-4). -/
def xstatMask : Word := 0xFFFFFFC0

/-- A status register written (Table 08-2); reserved and read-only fields keep their values. -/
def statWrite (c : CoreId) (n : Nat) (v : Word) (s : State) : State :=
  coreMod c (fun k =>
    match n with
    | 0x00 => { k with pstat := (k.pstat &&& ~~~ pstatMask) ||| (v &&& pstatMask) }
    | 0x01 => { k with lvi := v }
    | 0x10 => { k with sepc := v }
    | 0x11 => { k with sstat := v &&& xstatMask }
    | 0x12 => { k with sval := v }
    | 0x20 => { k with mepc := v }
    | 0x21 => { k with mstat := v &&& xstatMask }
    | 0x22 => { k with mval := v }
    | 0x23 => { k with estk := v }
    | _ => k) s

/-- Whether an MTS writes an illegal PPL (Table 08-4). -/
def badPpl (n : Nat) (v : Word) : Bool :=
  let ppl := bitsOf v.toNat 10 9
  (n = 0x11 && 1 < ppl) || (n = 0x21 && 2 < ppl)

/-- Whether a level is at least another. -/
def levelAtLeast (l need : Level) : Bool := need.code ≤ l.code

/-- MFS (R190): g(ra) := the register that imm16 names. -/
def execMfs (c : CoreId) (ra : Reg) (num : BitVec 16) (s : State) : Host.Outcome State Fault Refusal :=
  .next (runCore c false (fun s =>
    match statLevel num.toNat with
    | none => illegal (encSys 4 ra num.toNat) s
    | some need =>
      if !levelAtLeast (coreLevel s c) need then privileged (encSys 4 ra num.toNat) s
      else .retire (gSet c ra (statRead s c num.toNat) s)) s)

/-- MTS (R190): the register that imm16 names := g(ra). A change of PRECISE implies an AFENCE (R192). -/
def execMts (c : CoreId) (ra : Reg) (num : BitVec 16) (s : State) : Host.Outcome State Fault Refusal :=
  .next (runCore c (num.toNat = 0 && (gGet s c ra).getLsbD 23 ≠ precise s c) (fun s =>
    match statLevel num.toNat with
    | none => illegal (encSys 5 ra num.toNat) s
    | some need =>
      if badPpl num.toNat (gGet s c ra) then illegal (encSys 5 ra num.toNat) s
      else if !levelAtLeast (coreLevel s c) need then privileged (encSys 5 ra num.toNat) s
      else .retire (statWrite c num.toNat (gGet s c ra) s)) s)

/-- WFI (R190): waits until an interrupt is pending. The Granary's interrupts are S-level ones, so none is
pending at level M (log entry 15). -/
def execWfi (c : CoreId) (s : State) : Host.Outcome State Fault Refusal :=
  .next (runCore c false (fun s =>
    if (core s c).intr ≠ 0 && coreLevel s c ≠ .m then .retire s else .wait s) s)

/-- HALT (R190): permitted at M only; the core halts under Table 08-8 from step 2. -/
def execHalt (c : CoreId) (s : State) : Host.Outcome State Fault Refusal :=
  .next (runCore c false (fun s =>
    if coreLevel s c ≠ .m then privileged (encSys 7 0 0) s else .wait (haltCore c 0 s)) s)

/-- AFENCE (R190): a pending ARITHMETIC exception is taken before it completes. -/
def execAfence (c : CoreId) (s : State) : Host.Outcome State Fault Refusal :=
  .next (runCore c true (fun s => .retire s) s)

/-- BRK (R190): BREAKPOINT with imm16. -/
def execBrk (c : CoreId) (imm : BitVec 16) (s : State) : Host.Outcome State Fault Refusal :=
  .next (runCore c false (fun s => .trap { vec := 15, val := imm.setWidth 64 } s) s)

/-! ### Interrupts -/

/-- INTERRUPT_TAKEN (R193): a pending imprecise exception goes first (R184). -/
def execInterruptTaken (c : CoreId) (s : State) : Host.Outcome State Fault Refusal :=
  .next (if !coreActive s c || !takesIntr s c then s
    else if (core s c).imp.isSome then takeImprecise c s
    else takeIntr c s)

/-- IMPRECISE_ARITHMETIC (R191): the pending exception is taken. -/
def execImpreciseArithmetic (c : CoreId) (s : State) : Host.Outcome State Fault Refusal :=
  .next (if coreActive s c then takeImprecise c s else s)

/-- Table 08-8 steps 4 and 5: tile memory is cleared, the core restarts at M vector 0 with the status registers of Table 08-2,
and its slot is free. Its g and f registers keep their values (log entry 5). -/
def coreRestart (c : CoreId) (s : State) : State :=
  let k := core s c
  if k.run = .running then s
  else
    let s := coreMod c (fun k =>
      ({ g := k.g, f := k.f, haltCause := k.haltCause, haltTimes := k.haltTimes
         run := if k.run = .outOfService then .outOfService else .running } : Core)) s
    match k.task with
    | none => s
    | some slot =>
      match taskAt s slot with
      | some t =>
        if t.run = .freePending then
          let s := leaveHeld t.unit s
          { s with js := { s.js with tasks := tdel s.js.tasks slot } }
        else s
      | none => s

/-! ### Streams (R196) -/

/-- The task that holds a core. -/
def coreTask (s : State) (c : CoreId) : Option (Nat × Task) :=
  match (core s c).task with
  | some slot => (taskAt s slot).map fun t => (slot, t)
  | none => none

/-- STREAM_ERROR with its SUBCODE and port (Table 08-7). -/
def streamError (sub port : Nat) (s : State) : CoreEnd :=
  .trap { vec := 18, sub := sub, val := BitVec.ofNat 64 port } s

/-- Whether n bytes at an address lie in the task's tile region. -/
def inTaskTile (k : Core) (a n : Nat) : Bool := 0xFFF00000 ≤ a && a + n ≤ 0xFFF00000 + k.tileBytes

/-- The access violation of a stream instruction whose bytes fall outside the tile region (R196). -/
def streamViolation (a : Nat) (s : State) : CoreEnd := .trap { vec := 11, sub := 1, val := BitVec.ofNat 64 a } s

/-- MACHINE_CHECK 0x03 of a stream instruction that meets a tile word with an uncorrectable error (Table 10-2). -/
def tileLost (a : Nat) (s : State) : CoreEnd := .trap { vec := 2, sub := 3, val := BitVec.ofNat 64 a } s

/-- SRD (Table 08-9): 0 present, 1 end of stream, 2 null. -/
def execSrd (c : CoreId) (rd ra : Reg) (port : Fin 16) (s : State) : Host.Outcome State Fault Refusal :=
  .next (runCore c false (fun s =>
    match coreTask s c with
    | none => streamError 0 port.val s
    | some (slot, t) =>
      match t.ins[port.val]?, inEnt s t port.val with
      | some p, some e =>
        match p.buf with
        | [] => if p.ended then .retire (gSet c rd 1 s) else .wait s
        | none :: _ => .retire (gSet c rd 2 (dropPort slot port.val 1 s))
        | some b :: _ =>
          let a := (gGet s c ra).toNat
          let bytes := elemBytes e.ty b
          if !inTaskTile (core s c) a bytes.length then streamViolation a s
          else
            match tileError (core s c) true a bytes.length with
            | some e => tileLost e s
            | none => .retire (gSet c rd 0 (dropPort slot port.val 1 (tileWrite c (tileOff a) bytes s)))
      | _, _ => streamError 0 port.val s) s)

/-- An element is sent by the task's code: it leaves, waits for the port, or is beyond OUT_CAP (R18, R70). DESIGN CHOICE (log 64):
EXPR code that sends more or fewer elements than its inputs have rows is not stopped for that. -/
def sendElem (c : CoreId) (rd : Reg) (slot : Nat) (t : Task) (port : Nat) (e : Elem) (s : State) : CoreEnd :=
  match leaveOf s t port with
  | .now => .retire (gSet c rd 0 (pushOut slot port [e] s))
  | .stall => .wait s
  | .over => .wait (failTask slot 0x020F { detail := (taskStage s t).outCap } s)

/-- SWR sends n bytes of tile memory that lie after skip bytes of its address; the exceptions come in vector order (R184,
Table 08-7). -/
def swrBody (c : CoreId) (rd : Reg) (slot : Nat) (t : Task) (port : Nat) (p : OutPort) (a skip n : Nat) (s : State) : CoreEnd :=
  if !inTaskTile (core s c) a (skip + n) then streamViolation a s
  else match tileError (core s c) false a (skip + n) with
  | some e => tileLost e s
  | none =>
    if p.ended then streamError 1 port s
    else sendElem c rd slot t port (some (memTake (core s c).tile (tileOff a + skip) n)) (tileCorrect c (tileOff a) (skip + n) s)

/-- SWR (Table 08-9): sends the element at ra. -/
def execSwr (c : CoreId) (rd ra : Reg) (port : Fin 16) (s : State) : Host.Outcome State Fault Refusal :=
  .next (runCore c false (fun s =>
    match coreTask s c with
    | none => streamError 0 port.val s
    | some (slot, t) =>
      match t.outs[port.val]?, outEnt s t port.val with
      | some p, some e =>
        let a := (gGet s c ra).toNat
        let k := core s c
        if e.ty = tyVar then
          if !inTaskTile k a 4 then streamViolation a s
          else swrBody c rd slot t port.val p a 4 (leNat (memTake k.tile (tileOff a) 4)) s
        else swrBody c rd slot t port.val p a 0 (elemWidth (taskImg s t) e.ty e.layout) s
      | _, _ => streamError 0 port.val s) s)

/-- SWRN (Table 08-9): sends a null element; the port must be NULLABLE. -/
def execSwrn (c : CoreId) (rd _ra : Reg) (port : Fin 16) (s : State) : Host.Outcome State Fault Refusal :=
  .next (runCore c false (fun s =>
    match coreTask s c with
    | none => streamError 0 port.val s
    | some (slot, t) =>
      match t.outs[port.val]?, outEnt s t port.val with
      | some p, some e =>
        if p.ended then streamError 1 port.val s
        else if !e.nullable then streamError 2 port.val s
        else sendElem c rd slot t port.val none s
      | _, _ => streamError 0 port.val s) s)

/-- SEND (Table 08-9): ends the output port. -/
def execStrSend (c : CoreId) (rd _ra : Reg) (port : Fin 16) (s : State) : Host.Outcome State Fault Refusal :=
  .next (runCore c false (fun s =>
    match coreTask s c with
    | none => streamError 0 port.val s
    | some (slot, t) =>
      match t.outs[port.val]? with
      | some p =>
        if p.ended then streamError 1 port.val s
        else .retire (gSet c rd 0 (taskMod slot (fun t => { t with
          outs := lmod t.outs port.val fun p => { p with ended := true } }) s))
      | none => streamError 0 port.val s) s)

/-- SPOLL (Table 08-9): 1 if SRD would complete without waiting. -/
def execSpoll (c : CoreId) (rd _ra : Reg) (port : Fin 16) (s : State) : Host.Outcome State Fault Refusal :=
  .next (runCore c false (fun s =>
    match coreTask s c with
    | none => streamError 0 port.val s
    | some (_, t) =>
      match t.ins[port.val]? with
      | some p => .retire (gSet c rd (b2w (!p.buf.isEmpty || p.ended)) s)
      | none => streamError 0 port.val s) s)

end Sys2Proof.Machine
end

