-- ==== Sys2Proof/Machine/Granary.lean ====
section
/-! DEFINITION. The Granary: placement, streams between stages, finishing, dispatch under energy budgets, event flags
(chapter 11; R16, R18, R19, R66, R73). -/

namespace Sys2Proof.Machine

/-! ### Placement (R239 to R241) -/

/-- Whether the Granary places phases in the present mode (R446, R448, Table 22-3). -/
def modePlaces (s : State) : Bool :=
  if od s 0x1300 3 = 2 && (od s 0x1300 4).testBit 1 then
    od s 0x1300 1 = 3 || (od s 0x1300 1 = 4 && (s.mode = .run || s.mode = .drain))
  else (s.mode = .run || s.mode = .drain) && !(od s 0x1300 3 = 2 && od s 0x1300 1 = 6)

/-- A place for a stage: its unit with the slot or channel within it, and the further units of a SCAN. -/
structure Seat where
  stage : Nat
  unit : Nat
  sub : Nat
  extra : List Nat
  deriving DecidableEq, Repr

/-- Unit and slot pairs that placed tasks hold. -/
def heldUnits (s : State) : List (Nat × Nat) :=
  s.js.tasks.flatMap fun e => (e.2.unit, e.2.sub) :: e.2.extra.map fun u => (u, 0)

/-- Whether a unit can take a stage beside what is held: in service, its zone powered, a Kiln engine idle. -/
def unitOpen (s : State) (u : Nat) : Bool :=
  unitServes s u && zoneOn s (zoneOf u) && (if 0xA8 ≤ u && u ≤ 0xAB then od s (0x3C00 + (u - 0xA8)) 1 = 0 else true)

/-- The lowest free place on one unit of a kind. -/
def seatOn (s : State) (held : List (Nat × Nat)) (k : UnitKind) (u : Nat) : Option (Nat × Nat) :=
  if !unitOpen s u then none
  else if k = .exchange then some (u, 0)
  else ((List.range (unitSlots k)).find? fun i => !held.contains (u, i)).map fun i => (u, i)

/-- A place for one stage of a kind: on the unit it is pinned to, or on the lowest that has one. -/
def seatFor (s : State) (held : List (Nat × Nat)) (k : UnitKind) (pin : Option Nat) : Option (Nat × Nat) :=
  match pin with
  | some u => seatOn s held k u
  | none => (unitsOf k).findSome? fun u => seatOn s held k u

/-- Places for further units of the kinds given. -/
def extraSeats (s : State) (held : List (Nat × Nat)) : List UnitKind → Option (List Nat × List (Nat × Nat))
  | [] => some ([], held)
  | k :: ks =>
    match seatFor s held k none with
    | none => none
    | some x =>
      match extraSeats s (x :: held) ks with
      | none => none
      | some (us, h) => some (x.1 :: us, h)

/-- A place for each stage itself, with what is then held. -/
def seatOwn (s : State) (img : List Byte) : List (Nat × Nat) → List Nat → Option (List Seat × List (Nat × Nat))
  | held, [] => some ([], held)
  | held, n :: ns =>
    let e := stageEnt img n
    match (stageKinds img n).head?.bind fun k =>
        seatFor s held k (if e.pinned || e.op = 1 then some (unitBase k + e.unit) else none) with
    | none => none
    | some x => (seatOwn s img (x :: held) ns).map fun r => (⟨n, x.1, x.2, []⟩ :: r.1, r.2)

/-- The further units of SCAN stages, once every stage has its own place. -/
def seatMore (s : State) (img : List Byte) : List (Nat × Nat) → List Seat → Option (List Seat)
  | _, [] => some []
  | held, x :: xs =>
    match extraSeats s held ((stageKinds img x.stage).drop 1) with
    | none => none
    | some (us, held) => (seatMore s img held xs).map fun r => { x with extra := us } :: r

/-- Places for the stages of a phase, all or none (R16); a SCAN's further units are taken from what no stage is on. -/
def seatStages (s : State) (img : List Byte) (held : List (Nat × Nat)) (ns : List Nat) : Option (List Seat) :=
  match seatOwn s img held ns with
  | none => none
  | some (xs, held) => seatMore s img held xs

/-- Pinned stages are seated before the others, so that no other stage takes the unit a pin names. -/
def seatOrder (img : List Byte) (ph : Nat) : List Nat :=
  let st := phaseStages img ph
  let pinned := fun n => (stageEnt img n).pinned || (stageEnt img n).op = 1
  st.filter pinned ++ st.filter fun n => !pinned n

/-- Places of a kind that are free. -/
def freeSeats (s : State) (k : UnitKind) : Nat :=
  let held := heldUnits s
  ((unitsOf k).map fun u => if unitOpen s u then ((List.range (unitSlots k)).filter fun i => !held.contains (u, i)).length
    else 0).foldl (· + ·) 0

/-- Free Glume banks, lowest first (R386). -/
def freeBanks (s : State) : List Nat :=
  let held := s.js.groups.flatMap fun g => g.2.banks
  (List.range 32).filter fun b => od s 0x3E00 1 ≤ b && !held.contains b

/-- The kinds a phase lacks: too few free places or Glume banks, or no place for the stages pinned to one unit (R239). -/
def lackedKinds (s : State) (img : List Byte) (ph : Nat) : List UnitKind :=
  let held := heldUnits s
  grantKinds.filter fun k =>
    freeSeats s k < phaseUnits img ph k || (k = .glume && (freeBanks s).length < phaseBanks img ph) ||
    (seatOwn s img held ((seatOrder img ph).filter fun n => (stageKinds img n).head? = some k)).isNone

/-- Task slots a phase may take: enough free, the 1,024 kept for instance 0 and the runtime, the quota the job
was admitted against (R71, R241). -/
def slotsAllow (s : State) (j : Job) (n : Nat) : Bool :=
  let used := s.js.tasks.length
  let others := (s.js.tasks.filter fun e => e.2.inst ≠ 0).length
  let own := (s.js.tasks.filter fun e => e.2.inst = j.inst).length
  used + n ≤ 65536 && (j.inst = 0 || others + n ≤ 64512) && own + n ≤ j.quota

/-- SHARE of an instance as of the last tick boundary (R240); 100 is its default (Table 15-2). -/
def shareOf (s : State) (n : Nat) : Nat := tget 100 s.js.shares n

/-- Whether a job has a phase in placement order, or one that holds units. -/
def phaseActive (s : State) (j : Job) : Bool :=
  j.phases.zipIdx.any fun (p, i) =>
    (p.run = .waiting && j.ended.isNone) ||
    (p.run = .placed && s.js.tasks.any fun e => e.2.jid = j.jid && e.2.phase = i)

/-- Instances that have a phase waiting or placed. -/
def activeInsts (s : State) : List Nat := ((s.js.jobs.filter (phaseActive s)).map (·.inst)).eraseDups

/-- Units of a kind that an instance holds. -/
def heldBy (s : State) (n : Nat) (k : UnitKind) : Nat :=
  let us := unitsOf k
  ((s.js.tasks.filter fun e => e.2.inst = n).map fun e =>
    ((e.2.unit :: e.2.extra).filter fun u => us.contains u).length).foldl (· + ·) 0

/-- Enabled units of a kind as of the last tick boundary (R240). -/
def portionUnits (s : State) (k : UnitKind) : Nat :=
  match (grantKinds.zip s.js.portions).find? fun e => e.1 = k with
  | some e => e.2
  | none => 0

/-- An instance is below its fair portion for a phase: of every kind needed it holds less than E × s / S, with E, s and S as of
the last tick boundary (R240). -/
def belowPortion (s : State) (j : Job) (img : List Byte) (ph : Nat) : Bool :=
  grantKinds.all fun k =>
    phaseUnits img ph k = 0 || heldBy s j.inst k * s.js.shareSum < portionUnits s k * shareOf s j.inst

/-- The shares, their sum and the enabled units of each kind as a tick boundary finds them (R240). -/
def fixShares (s : State) : State :=
  let shares : Tbl Nat := s.od.filterMap fun e =>
    if 0x4000 * 256 ≤ e.1 && e.1 < 0x5000 * 256 && e.1 % 256 = 5 then some (e.1 / 256 - 0x4000, e.2) else none
  let sum := ((activeInsts s).map (tget 100 shares)).foldl (· + ·) 0
  { s with js := { s.js with shares := shares, shareSum := sum, portions := grantKinds.map (enabledCount s) } }

/-- A phase waiting to be placed. -/
structure Cand where
  job : Job
  img : List Byte
  ph : Nat
  below : Bool
  urgent : Bool
  deriving DecidableEq, Repr

/-- The waiting phases of jobs that may be placed (Table 15-1). -/
def candidates (s : State) : List Cand :=
  s.js.jobs.flatMap fun j =>
    match j.plan with
    | none => []
    | some p =>
      if j.ended.isSome || j.jstate = .pending || instSt s j.inst ≠ 1 || j.gen ≠ instGen s j.inst then []
      else (j.phases.zipIdx.filter fun x => x.1.run = .waiting).map fun x =>
        ⟨j, p.image, x.2, belowPortion s j p.image x.2, x.1.urgent⟩

/-- Placement order: priority, then below the fair portion, then the earlier entry (R239). -/
def candBefore (a b : Cand) : Bool :=
  if a.job.priority ≠ b.job.priority then b.job.priority < a.job.priority
  else if a.below ≠ b.below then a.below
  else if a.job.jid ≠ b.job.jid then a.job.jid < b.job.jid else a.ph ≤ b.ph

/-- The first phase in order that can be placed, with its places, and the phases that lacked only task slots. Phases that
have waited too long reserve the kinds they lack (R239). -/
def firstPlaceable (s : State) : List Cand → List UnitKind → List (Nat × Nat) → Option (Cand × List Seat) × List (Nat × Nat)
  | [], _, waits => (none, waits)
  | c :: rest, reserved, waits =>
    let needs := grantKinds.filter fun k => 0 < phaseUnits c.img c.ph k
    let blocked := needs.any reserved.contains
    let reserve := fun (_ : Unit) => if c.urgent then reserved ++ lackedKinds s c.img c.ph else reserved
    if blocked || (freeBanks s).length < phaseBanks c.img c.ph then firstPlaceable s rest (reserve ()) waits
    else
      match seatStages s c.img (heldUnits s) (seatOrder c.img c.ph) with
      | none => firstPlaceable s rest (reserve ()) waits
      | some seats =>
        if slotsAllow s c.job seats.length then (some (c, seats), waits)
        else firstPlaceable s rest reserved (waits ++ [(c.job.jid, c.ph)])

/-- The lowest free task slots. -/
def freeSlots (s : State) (n : Nat) : List Nat :=
  let used := s.js.tasks.map (·.1)
  ((List.range (used.length + n)).filter fun i => !used.contains i).take n

/-- Banks of the group a stage searches with, or of a SCAN's groups in the order of its terms. -/
def stageBanks (img : List Byte) (n : Nat) : List Nat :=
  let e := stageEnt img n
  let op := operandOf img e
  if e.op = 0x50 then [lookupBanks op]
  else if e.op = 1 then (scanOp op).sets.map (setBanks (scanOp op))
  else []

/-- A group takes its banks, lowest-numbered free first (R386). -/
def takeBanks (g n : Nat) (s : State) : State :=
  let bs := (freeBanks s).take n
  { s with js := { s.js with groups := tset s.js.groups g { banks := bs } } }

/-- The spill a stage takes of its instance's pool when it is placed: its need, at addresses that no placed task has (R69). -/
def taskSpill (s : State) (j : Job) (stage : Nat) : List (Nat × Nat) :=
  match j.plan with
  | none => []
  | some p =>
    let need := spillNeed p (bounds p) stage
    if need = 0 then []
    else
      let held := (s.js.tasks.filter fun e => e.2.inst = j.inst && e.2.run ≠ .freePending).flatMap fun e => e.2.spill
      spillExtents (od s (instIdx j.inst) 9) (od s (instIdx j.inst) 0x0A) need held

/-- The entries of a LOOKUP's group are loaded at placement from the job's plan copy (R397). -/
def loadLookup (img : List Byte) (stage unit : Nat) (s : State) : State :=
  let e := stageEnt img stage
  let op := operandOf img e
  if e.op = 0x50 then setUnitState unit 2 (gload (unit - 0xB0) (8 * lookupW op) (lookupEntries img op) s) else s

/-- Poison in the plan copy that a LOOKUP's group is loaded from fails the job (R397). -/
def checkCopy (slot : Nat) (s : State) : State :=
  match taskAt s slot with
  | none => s
  | some t =>
    match (taskStage s t).op, jobOf s t.jid with
    | 0x50, some j =>
      if poisoned s (planStoreAddr j.copy) (copyLen j.plan) then failTask slot 0x0303 { address := planStoreAddr j.copy } s else s
    | _, _ => s

/-- The key sets of a SCAN's IN_SET terms are loaded into its bank groups at placement (R84). -/
def loadSets (img : List Byte) (stage : Nat) (groups : List Nat) (s : State) : State :=
  let e := stageEnt img stage
  let o := scanOp (operandOf img e)
  if e.op = 1 then
    (o.sets.zip groups).foldl (fun s (tm, u) =>
      setUnitState u 2 (gload (u - 0xB0) 160 (setEntries img (o.col tm.col) tm) s)) s
  else s

/-- A stage's task is placed in a slot: READY, flags clear, its unit's OWNER its instance (R242, R250). -/
def placeTask (j : Job) (img : List Byte) (ph slot : Nat) (x : Seat) (s : State) : State :=
  let e := stageEnt img x.stage
  let t : Task :=
    { jid := j.jid, inst := j.inst, gen := instGen s j.inst, phase := ph, stage := x.stage, unit := x.unit, sub := x.sub, extra := x.extra
      zone := zoneOf x.unit, cls := e.cls, prio := j.priority, readySeq := s.js.readySeq, readyAt := s.time
      ins := (List.range e.ins).map fun p => { stream := (inStream img x.stage p).getD 0xFFFF }
      outs := (List.range e.outs).map fun p => { stream := (outStream img x.stage p).getD 0xFFFF }
      spill := taskSpill s j x.stage }
  let s := { s with js := { s.js with tasks := tset s.js.tasks slot t, readySeq := s.js.readySeq + 1 } }
  let s := (x.unit :: x.extra).foldl (fun s u => setUnitOwner u j.inst (noteHeld u s)) s
  let groups := (x.unit :: x.extra).filter fun u => 0xB1 ≤ u && u ≤ 0xB7
  let s := (groups.zip (stageBanks img x.stage)).foldl (fun s g => setUnitState g.1 1 (takeBanks (g.1 - 0xB0) g.2 s)) s
  let s := loadLookup img x.stage x.unit (loadSets img x.stage groups s)
  if x.unit < 0x80 then
    { s with cores := tmod {} s.cores x.unit fun k => { k with task := some slot, saved := none } }
  else s

/-- SLOTS_LOW_WATER follows the free slots (Table 11-6); it is stored as the most slots ever used. -/
def noteSlots (s : State) : State := odMax32 0x3002 2 s.js.tasks.length s

/-- A phase is placed. -/
def placeAt (c : Cand) (seats : List Seat) (s : State) : State :=
  let slots := freeSlots s seats.length
  let ordered := (phaseStages c.img c.ph).filterMap fun n => seats.find? fun x => x.stage = n
  let s := (ordered.zip slots).foldl (fun s x => placeTask c.job c.img c.ph x.2 x.1 s) s
  let s := jobMod c.job.jid (fun j => { j with
    phases := lmod j.phases c.ph fun p => { p with run := .placed, urgent := false, slotWait := false } }) s
  slots.foldl (fun s k => checkCopy k s) (noteSlots (zonesAtPlacement c.job c.ph s))

/-- Insertion into placement order. -/
def insertCand (c : Cand) : List Cand → List Cand
  | [] => [c]
  | d :: ds => if candBefore c d then c :: d :: ds else d :: insertCand c ds

/-- The waiting phases in placement order. -/
def placementOrder (s : State) : List Cand := (candidates s).foldr insertCand []

/-- A placement delayed for lack of slots is counted once (SLOT_WAITS). -/
def countSlotWait (s : State) (w : Nat × Nat) : State :=
  match jobOf s w.1 with
  | none => s
  | some j =>
    match j.phases[w.2]? with
    | some p =>
      if p.slotWait then s
      else odBump 0x3002 3 (jobMod w.1 (fun j => { j with
        phases := lmod j.phases w.2 fun p => { p with slotWait := true } }) s)
    | none => s

/-- PLACE_PHASE (R239). -/
def execPlacePhase (s : State) : Host.Outcome State Fault Refusal :=
  .next (if !modePlaces s then s
    else
      let (hit, waits) := firstPlaceable s (placementOrder s) [] []
      let s := waits.foldl countSlotWait s
      match hit with
      | some (c, seats) => placeAt c seats s
      | none => s)

/-- PLACE_URGENT (R239): phases that have waited more than PLACE_URGENT_TICKS reserve the units they need. -/
def execPlaceUrgent (s : State) : Host.Outcome State Fault Refusal :=
  let now := ticks s
  let limit := od s 0x3000 3
  .next { s with js := { s.js with jobs := s.js.jobs.map fun j =>
    { j with phases := j.phases.map fun p =>
        let late := p.run = .waiting && p.since + limit < now
        { p with urgent := p.urgent || late } } } }

/-! ### Streams (R18, R19, R66) -/

/-- How many fixed-width elements the next transfer carries: as many as 64 lanes take (Table 01-3). -/
def transferCount (img : List Byte) (e : StreamEnt) (n : Nat) : Nat := min n (max 1 (64 / max 1 (elemWidth img e.ty e.layout)))

/-- The ports of a stream, producer's and consumer's, after the next transfer. -/
structure Handed where
  out : OutPort
  into : InPort
  deriving DecidableEq, Repr

/-- An element as the consumer has it: by its bit of the validity word on a NULLABLE stream (R56). -/
def handElem (e : StreamEnt) (q : InPort) (x : Elem) : Elem :=
  if e.nullable then (match q.valid with
    | true :: _ => x
    | _ => none)
  else x

/-- Elements hand over whole, each with its validity bit. -/
def handWhole (e : StreamEnt) : List Elem → InPort → InPort
  | [], q => q
  | x :: xs, q => handWhole e xs { q with buf := q.buf ++ [handElem e q x], valid := q.valid.drop 1 }

/-- The next transfer of a stream (R19, R56): the validity word of the next block of up to 64 elements, or as many elements of
the block as 64 lanes take, or up to 64 bytes of a VARBYTES value, its length group first. A block is what the port holds
when its word leaves, and a VARBYTES transfer carries bytes of one value: DESIGN CHOICE (log 16). -/
def handOver (img : List Byte) (e : StreamEnt) (p : OutPort) (q : InPort) : Handed :=
  if e.nullable && p.block = 0 then
    let n := min 64 p.buf.length
    ⟨{ p with block := n }, { q with valid := (p.buf.take n).map Option.isSome }⟩
  else if e.ty = tyVar then
    let all := elemBytes e.ty ((p.buf.headD none).getD [])
    let part := q.part ++ (all.drop p.sent).take 64
    if p.sent + 64 < all.length then ⟨{ p with sent := p.sent + 64 }, { q with part := part }⟩
    else
      let x : Elem := some (slice part 4 (fld part 0 4))
      ⟨{ p with buf := p.buf.drop 1, sent := 0, block := p.block - 1 }, handWhole e [x] { q with part := [] }⟩
  else
    let n := transferCount img e (if e.nullable then min p.block p.buf.length else p.buf.length)
    ⟨{ p with buf := p.buf.drop n, block := p.block - n }, handWhole e (p.buf.take n) q⟩

/-- The task that consumes a stream of a job. -/
def consumerOf (s : State) (jid stage : Nat) : Option (Nat × Task) :=
  s.js.tasks.find? fun e => e.2.jid = jid && e.2.stage = stage && e.2.run ≠ .freePending

/-- Whether streams move: the mode has live units and both zones are powered (R453, Table 22-6). -/
def streamsMove (s : State) (a b : Task) : Bool :=
  (s.mode = .run || s.mode = .drain) && unitsOn s a && unitsOn s b

/-- A Sieve's block goes on leaving once the output it waits for can take the next of its elements: the time of the stall is
counted (Table 04-10). -/
def endStall (slot : Nat) (s : State) : State :=
  match taskAt s slot with
  | none => s
  | some t =>
    match t.eng.sv.stall with
    | none => s
    | some _ =>
      if (match t.eng.results with
          | x :: _ => leaveOf s t x.1 == .stall
          | [] => t.outs.any fun p => !p.buf.isEmpty) = true then s
      else
        let s := engMod slot (fun g => { g with sv := { g.sv with stall := none } }) (countStall t s)
        if isRunning t then showState slot 2 s else engMod slot (fun g => { g with shown := 2 }) s

/-- STREAM_TRANSFER (R19): the next transfer of an output port is handed over, if the consumer's port is empty. A consumer
that has formed its whole result discards it. -/
def streamTransfer (slot port : Nat) (s : State) : State :=
  match taskAt s slot with
  | none => s
  | some t =>
    match t.outs[port]?, outEnt s t port with
    | some p, some e =>
      if p.buf.isEmpty || t.run = .freePending then s
      else
        match consumerOf s t.jid e.consumer with
        | none => s
        | some (k, c) =>
          match c.ins[e.consPort]? with
          | none => s
          | some q =>
            if !streamsMove s t c || !(q.buf.isEmpty || c.eng.done) then s
            else
              let h := handOver (taskImg s t) e p q
              let s := taskMod slot (fun t => { t with outs := lmod t.outs port fun _ => h.out }) s
              let s := taskMod k (fun c => { c with ins := lmod c.ins e.consPort fun _ =>
                if c.eng.done then { h.into with buf := [] } else h.into }) s
              flagsArrive slot t flagOutput (flagsArrive k c flagInput (endStall slot s))
    | _, _ => s

/-- STREAM_TRANSFER (R19). -/
def execStreamTransfer (slot port : Nat) (s : State) : Host.Outcome State Fault Refusal := .next (unlessHold s (streamTransfer slot port s))

/-- The end-of-stream handshake of an output whose elements have all been handed over. -/
def endOfStream (slot port : Nat) (s : State) : State :=
  match taskAt s slot with
  | none => s
  | some t =>
    match t.outs[port]?, outEnt s t port with
    | some p, some e =>
      if !p.ended || p.acked || !p.buf.isEmpty || t.run = .freePending then s
      else
        match consumerOf s t.jid e.consumer with
        | none => s
        | some (k, c) =>
          if !streamsMove s t c then s
          else
            let s := taskMod slot (fun t => { t with outs := lmod t.outs port fun p => { p with acked := true } }) s
            flagsArrive k c flagInput (taskMod k (fun c => { c with ins := lmod c.ins e.consPort fun q => { q with ended := true } }) s)
    | _, _ => s

/-- END_OF_STREAM (R66). -/
def execEndOfStream (slot port : Nat) (s : State) : Host.Outcome State Fault Refusal := .next (unlessHold s (endOfStream slot port s))

/-! ### Finishing (R66, R242) -/

/-- Phases whose DEPENDS have all finished begin to wait (R239). -/
def wakePhases (img : List Byte) (now : Nat) (ps : List Phase) : List Phase :=
  ps.zipIdx.map fun (p, i) =>
    let deps := (phaseEnt img i).depends
    let open_ := (List.range ps.length).all fun k => !deps.testBit k || (ps.getD k {}).run = .finished
    if p.run = .blocked && open_ then { p with run := .waiting, since := now } else p

/-- A phase has finished; the job finishes with its last phase. -/
def phaseDone (jid ph : Nat) (s : State) : State :=
  match jobOf s jid with
  | none => s
  | some j =>
    let img := match j.plan with
      | some p => p.image
      | none => []
    let ps := wakePhases img (ticks s) (lmod j.phases ph fun p => { p with run := .finished })
    let all := ps.all fun p => p.run = .finished
    jobMod jid (fun j => { j with
      phases := ps, ended := if all && j.ended.isNone then some ⟨0, {}⟩ else j.ended }) s

/-- Banks of a task's groups, every row of them cleared, return to the free pool (R386, R399). -/
def returnBanks (t : Task) (s : State) : State :=
  (heldGroups s t).foldl (fun s u =>
    let banks := (group s (u - 0xB0)).banks
    setUnitState u 0 { s with js := { s.js with
      groups := tdel s.js.groups (u - 0xB0), badRows := s.js.badRows.filter fun x => !banks.contains x.1 } }) s

/-- A stage has formed its result, every output is ended and acknowledged, every input has ended (R66). -/
def stageComplete (t : Task) : Bool :=
  t.eng.done && !t.finished && t.run ≠ .freePending && t.outs.all (fun p => p.ended && p.acked && p.buf.isEmpty) &&
  t.ins.all (·.ended)

/-- STAGE_FINISH (R66): the task is FREE_PENDING; its phase finishes with its last stage. -/
def stageFinish (slot : Nat) (s : State) : State :=
  match taskAt s slot with
  | none => s
  | some t =>
    if !stageComplete t then s
    else
      let s := taskMod slot (fun t => { t with finished := true }) (stopTask slot false s)
      let rest := s.js.tasks.any fun e => e.2.jid = t.jid && e.2.phase = t.phase && !e.2.finished
      if rest then s else phaseDone t.jid t.phase s

/-- STAGE_FINISH (R66). -/
def execStageFinish (slot : Nat) (s : State) : Host.Outcome State Fault Refusal := .next (unlessHold s (stageFinish slot s))

/-- Whether a task's unit may be released: its phase has finished, or its job has failed or is gone (R73); a Sieve already
when its stage has finished (R74). -/
def releasable (s : State) (t : Task) : Bool :=
  t.run = .freePending && ((0x80 ≤ t.unit && t.unit ≤ 0x8B && t.finished) || match jobOf s t.jid with
    | none => true
    | some j =>
      (match j.phases[t.phase]? with
        | some p => decide (p.run = .finished)
        | none => true) ||
      (match j.ended with
        | some e => decide (e.status ≠ 0)
        | none => false))

/-- A unit is cleared: idle, no owner; a Kiln engine in self-test or out of service stays so. -/
def clearUnit (u : Nat) (s : State) : State :=
  let s := if 0xA8 ≤ u && u ≤ 0xAB && 5 ≤ od s (0x3C00 + (u - 0xA8)) 1 then s else setUnitState u 0 s
  setUnitOwner u 0xFFFF s

/-- A core leaves its task: from the task's code it enters the runtime as on a PREEMPT interrupt, or by a pending imprecise
exception (R184, R193, R236). A halted core enters nothing. -/
def releaseCore (u : Nat) (s : State) : State :=
  if h : u < 128 then
    let c : CoreId := ⟨u, h⟩
    let k := core s c
    let s := if coreLevel s c = .t && k.run = .running then
        (if k.imp.isSome then impreciseEntry c s else enter c 32 0 0 k.pc false s)
      else s
    coreMod c (fun k => { k with task := none, saved := none }) s
  else s

/-- UNIT_REPORTS_CLEAR (Table 11-1): the banks that the stage held are cleared and return, also while its unit is still held
for its phase (R386, R399); then the slot goes from FREE_PENDING to FREE. -/
def unitReportsClear (slot : Nat) (s : State) : State :=
  match taskAt s slot with
  | none => s
  | some t =>
    if t.run ≠ .freePending then s
    else
    let s := returnBanks t s
    if !releasable s t then s
    else
      let s := (t.unit :: t.extra).foldl (fun s u =>
        leaveHeld u (clearUnit u s)) s
      let s := if 0xB8 ≤ t.unit && t.unit ≤ 0xBB then odSet (0x3F00 + (t.unit - 0xB8)) (0x40 + t.sub) 0 s else s
      let s := if t.unit < 0x80 then releaseCore t.unit s else s
      { s with js := { s.js with tasks := tdel s.js.tasks slot } }

/-! ### Dispatch (R243 to R249) -/

/-- CLASS_POWER of a task in mW. -/
def classPower (s : State) (t : Task) : Nat := od s 0x3001 (1 + t.cls)

/-- COMMITTED of a zone. -/
def committed (s : State) (z : Nat) : Nat :=
  ((s.js.tasks.filter fun e => e.2.zone = z && e.2.run = .running).map fun e => classPower s e.2).foldl (· + ·) 0

/-- ALLOWANCE of a zone: ZONE_FLOOR until the governor sets it, and never below it (R243, Table 11-7). -/
def allowance (s : State) (z : Nat) : Nat :=
  match tfind s.od (odKey (0x3010 + z) 1) with
  | some v => max v (od s 0x3000 4)
  | none => od s 0x3000 4

/-- Headroom of a zone: below 0 where more is committed than allowed (R243). -/
def headroom (s : State) (z : Nat) : Int := (allowance s z : Int) - (committed s z : Int)

/-- Whether a task's class power does not exceed the headroom of a zone (R246). -/
def fits (s : State) (z : Nat) (t : Task) : Bool := (classPower s t : Int) ≤ headroom s z

/-- Ready order: higher priority, then lower ready sequence (R245). -/
def readyBefore (a b : Nat × Task) : Bool :=
  if a.2.prio ≠ b.2.prio then b.2.prio < a.2.prio else a.2.readySeq ≤ b.2.readySeq

/-- Insertion into ready order. -/
def insertReady (a : Nat × Task) : List (Nat × Task) → List (Nat × Task)
  | [] => [a]
  | b :: bs => if readyBefore a b then a :: b :: bs else b :: insertReady a bs

/-- Tasks of a zone in a state, in ready order; one that was gated is in none until its zone is powered (Table 22-6). -/
def zoneTasks (s : State) (z : Nat) (r : TaskRun) : List (Nat × Task) :=
  (s.js.tasks.filter fun e => e.2.zone = z && e.2.run = r && !e.2.gated).foldr insertReady []

/-- READY tasks of a zone that can be dispatched: every zone of their units is ON. -/
def readyTasks (s : State) (z : Nat) : List (Nat × Task) := (zoneTasks s z .ready).filter fun e => unitsOn s e.2

/-- A task is dispatched: RUNNING; its unit starts, a core by the DISPATCH interrupt (R193, R246). -/
def dispatchTask (slot : Nat) (s : State) : State :=
  match taskAt s slot with
  | none => s
  | some t =>
    let s := leaveReady t s
    let s := kilnServes t (noteBusy t.unit (taskMod slot (fun t => { t with run := .running, pass := 0, urgent := false }) s))
    let s := odBump (0x3100 + t.unit) 2 (odBump (0x3080 + t.prio) 3 s)
    if t.unit < 0x80 then { s with cores := tmod {} s.cores t.unit fun k => { k with intr := k.intr ||| 2 } }
    else if 0xB8 ≤ t.unit && t.unit ≤ 0xBB then
      odSet (0x3F00 + (t.unit - 0xB8)) (0x40 + t.sub) (if t.eng.tun.paced then 2 else 1) s
    else if t.eng.shown ≠ 0 && t.unit ≤ 0xAB then setUnitState t.unit t.eng.shown s
    else s

/-- Whether a task may be stopped for budget or urgency (R249): cores, Sieves, Mash, sort, aggregate, Kiln. -/
def stoppable (t : Task) : Bool := t.unit ≤ 0xAB

/-- A stop is asked for: a core gets the PREEMPT interrupt, an engine its stop command (R247). -/
def preemptTask (slot zsub : Nat) (s : State) : State :=
  match taskAt s slot with
  | none => s
  | some t =>
    let s := taskMod slot (fun t => { t with stopping := true }) s
    let s := odBump (0x3010 + t.zone) zsub (odBump (0x3100 + t.unit) 5 s)
    if t.unit < 0x80 then { s with cores := tmod {} s.cores t.unit fun k => { k with intr := k.intr ||| 1 } } else s

/-- COMMITTED of a zone without the tasks being stopped. -/
def committedKept (s : State) (z : Nat) : Nat :=
  ((s.js.tasks.filter fun e => e.2.zone = z && e.2.run = .running && !e.2.stopping).map
    fun e => classPower s e.2).foldl (· + ·) 0

/-- Tasks that a zone would stop, last in ready order first, until what is kept is at most a bound; none where the bound
cannot be reached and all must be or nothing is. -/
def stopUntil (s : State) (bound : Nat) : List (Nat × Task) → Nat → List Nat
  | [], _ => []
  | e :: es, kept => if kept ≤ bound then [] else e.1 :: stopUntil s bound es (kept - classPower s e.2)

/-- Pre-emption when ALLOWANCE is below COMMITTED (R247). -/
def budgetPreempt (z : Nat) (s : State) : State :=
  let run := (zoneTasks s z .running).filter fun e => stoppable e.2 && !e.2.stopping
  (stopUntil s (allowance s z) run.reverse (committedKept s z)).foldl (fun s k => preemptTask k 6 s) s

/-- Pre-emption for a budget-urgent task: strictly lower priorities, last in ready order first, or none if they do not
suffice (R248). -/
def urgentPreempt (z : Nat) (u : Task) (s : State) : State :=
  let kept := committedKept s z
  let need := classPower s u
  let run := (zoneTasks s z .running).filter fun e => stoppable e.2 && !e.2.stopping && e.2.prio < u.prio
  let could := (run.map fun e => classPower s e.2).foldl (· + ·) 0
  if allowance s z < need then s
  else if kept - could + need ≤ allowance s z then
    (stopUntil s (allowance s z - need) run.reverse kept).foldl (fun s k => preemptTask k 7 s) s
  else s

/-- READY tasks of a zone walked in ready order: each that fits is dispatched (R246). -/
def walkReady (z : Nat) : List (Nat × Task) → State → State
  | [], s => s
  | e :: es, s =>
    if fits s z e.2 then walkReady z es (dispatchTask e.1 s)
    else walkReady z es { s with gov := { s.gov with passed := true } }

/-- Whether tasks are dispatched in the present mode (R446, R448, R453). -/
def modeDispatches (s : State) : Bool := s.mode = .run || s.mode = .drain

/-- A zone serves its budget-urgent tasks one at a time, in ready order: each that fits is dispatched ahead of every other
task; while one does not fit, only tasks before it are dispatched, and lower priorities are pre-empted for it (R248). -/
def serveZone (z : Nat) : Nat → State → State
  | 0, s => s
  | fuel + 1, s =>
    let ready := readyTasks s z
    match ready.find? fun e => e.2.urgent with
    | none => walkReady z ready s
    | some u =>
      if fits s z u.2 then serveZone z fuel (dispatchTask u.1 s)
      else urgentPreempt z u.2 (walkReady z (ready.takeWhile fun e => e.1 ≠ u.1) s)

/-- A zone dispatches (R246, R248). -/
def zoneDispatch (z : Nat) (s : State) : State :=
  if !modeDispatches s || !zoneOn s z then s else serveZone z ((readyTasks s z).length + 1) s

/-- ZONE_DISPATCH (R246). -/
def execZoneDispatch (zone : Fin 16) (s : State) : Host.Outcome State Fault Refusal := .next (zoneDispatch zone.val s)

/-- BUDGET_URGENT (R248): a READY task whose PASS count exceeds BUDGET_URGENT_TICKS becomes budget-urgent. -/
def execBudgetUrgent (slot : Nat) (s : State) : Host.Outcome State Fault Refusal :=
  .next (match taskAt s slot with
    | some t =>
      if t.run = .ready && !t.gated && od s 0x3000 2 < t.pass then zoneDispatch t.zone (taskMod slot (fun t => { t with urgent := true }) s)
      else s
    | none => s)

/-- The runtime saves a stopped task's registers (R194). -/
def saveStopped (u slot : Nat) (s : State) : State :=
  if h : u < 128 then
    let c : CoreId := ⟨u, h⟩
    let k := core s c
    if k.task = some slot && coreLevel s c = .t && k.run = .running then
      if k.imp.isSome then takeImprecise c s
      else
        let s := coreMod c (fun k => { k with
          saved := some ⟨slot, k.g, k.f, k.pstat, k.lvi, k.pc⟩, intr := k.intr &&& 14#4 }) s
        enter c 32 0 0 k.pc false s
    else s
  else s

/-- A running task that has stopped is READY again, its budget released; one that a pending exception of its core failed on the
way is not (R184, R254). -/
def becomeReady (slot : Nat) (t : Task) (s : State) : State :=
  let now := s.time
  let s := saveStopped t.unit slot s
  if (taskAt s slot).any fun x => x.run = .running then
    taskMod slot (fun t => { t with run := .ready, stopping := false, readyAt := now, pass := 0 }) (kilnWaits t (leaveRunning t s))
  else s

/-- Whether a Kiln stage stands where it may stop: at a 4 KiB boundary of its input, with no input that would bring it to one,
or while its result leaves (R368, log entry 43); other stages stop between any two commands. -/
def atStop (t : Task) : Bool :=
  !(0xA8 ≤ t.unit && t.unit ≤ 0xAB) || t.eng.b = 1 || t.eng.a % 4096 = 0 || t.ins.all fun p => p.buf.isEmpty

/-- TASK_STOPPED (R254): the task is READY again with its earlier ready sequence, and its budget is released. -/
def taskStopped (slot : Nat) (s : State) : State :=
  match taskAt s slot with
  | none => s
  | some t => if t.run = .running && t.stopping && atStop t then becomeReady slot t s else s

/-- TASK_STOPPED (R254). -/
def execTaskStopped (slot : Nat) (s : State) : Host.Outcome State Fault Refusal := .next (taskStopped slot s)

/-! ### The governor and the tick (R252, R455 to R457) -/

/-- The higher reading of a zone's two sensors, in 0.1 °C. -/
def zoneTemp (s : State) (z : Nat) : Int :=
  max (toSigned 32 (od s (0x1320 + z) 3)) (toSigned 32 (od s (0x1320 + z) 4))

/-- cap[z] after a tick (R457). -/
def nextCap (s : State) (z : Nat) : Nat :=
  let cap := tget 65000 s.gov.caps z
  let t := zoneTemp s z
  let target := toSigned 32 (od s 0x1310 7)
  max (od s 0x3000 4)
    (if target ≤ t then cap - cap / 8 else if t < target - 50 then min 65000 (cap + cap / 16) else cap)

/-- want[z]: the demand beyond ZONE_FLOOR (R457). -/
def wantOf (s : State) (z : Nat) : Nat :=
  committed s z + ((zoneTasks s z .ready).map fun e => classPower s e.2).foldl (· + ·) 0 - od s 0x3000 4

/-- The limit in force: BRAKE_LIMIT while POWER_BRAKE_N is asserted (R493). -/
def powerLimit (s : State) : Nat := if s.pw.brake then min (od s 0x1310 1) (od s 0x1310 0x0B) else od s 0x1310 1

/-- VDD_CORE as last acknowledged; 0.80 V, at which the rail starts, before any acknowledgement (R462). -/
def vddCore (s : State) : Nat := if od s 0x1310 6 = 0 then 800 else od s 0x1310 6

/-- The lowest and the highest voltage a request may carry: VDD_CORE_MIN and VDD_CORE_MAX in whole steps of 5 mV (R455). -/
def vddLow (s : State) : Nat := (od s 0x1310 4 + 4) / 5 * 5
def vddHigh (s : State) : Nat := od s 0x1310 5 / 5 * 5

/-- Truncated division of an integer by a natural number. -/
def divToZero (a : Int) (n : Nat) : Int := Int.tdiv a n

/-- The allowances of R457, from the caps already advanced. -/
def setAllowances (tooLong : Bool) (s : State) : State :=
  let floor := od s 0x3000 4
  let b : Int := (powerLimit s * 1000 : Nat) - (od s 0x1310 3 * 1000 : Nat) - (16 * floor : Nat)
  let total := ((List.range 16).map (wantOf s)).foldl (· + ·) 0
  let allow := (List.range 16).map fun z =>
    let extra := if total = 0 then 0 else divToZero (b * (wantOf s z : Int)) total
    min (tget 65000 s.gov.caps z) (floor + (max 0 extra).toNat)
  allow.zipIdx.foldl (fun s (a, z) => odSet (0x3010 + z) 1 (if tooLong then floor else a) s) s

/-- An AVSBus request toward a voltage leaves: at most 10 mV from the present target, at most one a tick, one at a time
(R455). -/
def avsRequest (want : Nat) (s : State) : State :=
  let v := vddCore s
  let v' := if v < want then min want (v + 10) else max want (v - 10)
  if v' = v || s.gov.request.isSome || s.gov.sent then s
  else emit (.avs v') { s with gov := { s.gov with request := some v', tries := 0, sent := true } }

/-- The governor's procedure at a tick boundary (R457). In DORMANT it holds VDD_CORE_MIN (Table 22-3). -/
def governor (s : State) : State :=
  let s := { s with gov := { s.gov with caps := (List.range 16).map fun z => (z, nextCap s z) } }
  let tooLong := match s.gov.overSince with
    | some t => decide (10 * 1000 * perUs ≤ s.time - t)
    | none => false
  let s := setAllowances tooLong s
  let v := vddCore s
  let lo := vddLow s
  let hi := vddHigh s
  let hot := (List.range 16).any fun z => toSigned 32 (od s 0x1310 7) ≤ zoneTemp s z
  let p := od s 0x1310 2
  let idle := !(s.js.tasks.any fun e => (e.2.run = .ready && !e.2.gated) || e.2.run = .running)
  let next :=
    if tooLong then lo
    else if powerLimit s < p || hot then v - 10
    else if s.gov.passed && p * 100 < powerLimit s * 95 then v + 10
    else if idle then v - 10 else v
  avsRequest (min hi (max lo next)) { s with gov := { s.gov with passed := false } }

/-- READY tasks that do not fit the headroom gain a PASS at a tick boundary (R248), walked with dispatch (R246). -/
def passZone (z : Nat) (s : State) : State :=
  if !zoneOn s z then s
  else
    let s := zoneDispatch z s
    (readyTasks s z).foldl (fun s e =>
      if !fits s z e.2 then
        odBump (0x3010 + z) 5 (taskMod e.1 (fun t => { t with pass := t.pass + 1 })
          { s with gov := { s.gov with passed := true } })
      else s) s

/-- TICK (R252): the governor, pre-emption under R247, dispatch and PASS counts, and the shares of the next round. -/
def tickBoundary (s : State) : State :=
  let now := max s.time (s.js.tickAt + tickLen s)
  let s := odBump 0x3000 5 { s with time := now, gov := { s.gov with sent := false } }
  let us := od s 0x3000 1
  let s := fixShares { s with js := { s.js with tickAt := now, tickUs := us } }
  if modeDispatches s then
    let s := governor s
    let s := (List.range 16).foldl (fun s z => budgetPreempt z s) s
    (List.range 16).foldl (fun s z => passZone z s) s
  else if s.mode = .freeze then governor s
  else s

/-- POWER_BRAKE_N as sampled at a tick boundary: an MFP of 0 to 3 held by the function, and low (R493). -/
def brakeLow (mfp : Nat) (s : State) : Bool := (List.range 4).any fun m => od s (0x1280 + m) 1 = 0x19 && !mfp.testBit m

/-- TICK (R252), with the levels of the MFP pins at the boundary (R493; Table 25-5). -/
def execTick (mfp : BitVec 8) (s : State) : Host.Outcome State Fault Refusal :=
  let brake := brakeLow mfp.toNat s
  .next (tickBoundary { s with pins := { s.pins with mfp := mfp.toNat }, pw := { s.pw with brake := brake } })

/-- AVS_RESPONSE (R455): acknowledged, retried up to three times, or given up. -/
def execAvsResponse (ok : Bool) (s : State) : Host.Outcome State Fault Refusal :=
  .next (match s.gov.request with
    | none => s
    | some v =>
      if ok then odSet 0x1310 6 v { s with gov := { s.gov with request := none, tries := 0 } }
      else if s.gov.tries < 3 then
        odBump 0x1310 9 (emit (.avs v) { s with gov := { s.gov with tries := s.gov.tries + 1 } })
      else odBump 0x1310 9 { s with gov := { s.gov with request := none, tries := 0 } })

/-! ### Event flags (R250, R251) -/

/-- Largest tick count of a wait or delay. -/
def maxTicks : Nat := 16777216

/-- WAIT (Table 11-5). -/
def execWait (slot : Nat) (mask : BitVec 32) (all : Bool) (n : Nat) (s : State) : Host.Outcome State Fault Refusal :=
  .next (match taskAt s slot with
    | none => s
    | some t =>
      if !isRunning t || maxTicks < n then s
      else if waitMet t.flags mask all then taskMod slot (fun t => { t with flags := t.flags &&& ~~~ mask }) s
      else
        let wake := if n = 0 then none else some (ticks s + n)
        taskMod slot (fun t =>
          { t with run := .waiting, waitMask := mask, waitAll := all, wakeAt := wake, stopping := false, lost := none })
          (leaveRunning t s))

/-- SIGNAL (Table 11-5): the signalling task's instance must own the slot, but for instance 0 and device units. -/
def execSignal (sender : Option Nat) (slot : Nat) (flags : BitVec 32) (s : State) : Host.Outcome State Fault Refusal :=
  .next (match taskAt s slot with
    | none => s
    | some t =>
      let allowed := match sender with
        | none => true
        | some k =>
          match taskAt s k with
          | some x => x.inst = 0 || x.inst = t.inst
          | none => false
      if allowed && t.run ≠ .freePending then flagsArrive slot t flags s else s)

/-- DELAY (Table 11-5). -/
def execDelay (slot n : Nat) (s : State) : Host.Outcome State Fault Refusal :=
  .next (match taskAt s slot with
    | none => s
    | some t =>
      if !isRunning t || n = 0 || maxTicks < n then s
      else
        let wake := some (ticks s + n)
        taskMod slot (fun t => { t with run := .delayed, wakeAt := wake, stopping := false }) (leaveRunning t s))

/-- CLEAR (Table 11-5). -/
def execClear (slot : Nat) (mask : BitVec 32) (s : State) : Host.Outcome State Fault Refusal :=
  .next (taskMod slot (fun t => { t with flags := t.flags &&& ~~~ mask }) s)

/-- The delay-list entry of a task expires at its tick boundary (R251). -/
def expire (slot : Nat) (r : TaskRun) (s : State) : State :=
  match taskAt s slot with
  | none => s
  | some t =>
    match t.wakeAt with
    | some w => if t.run = r && w ≤ ticks s then wakeTask slot s else s
    | none => s

/-- A wait's timeout is reported; what it waited for loses if it comes at this moment (R253). -/
def waitExpires (slot : Nat) (s : State) : State :=
  match taskAt s slot with
  | none => s
  | some t =>
    let now := s.time
    let u := expire slot .waiting s
    match taskAt u slot with
    | some v => if t.run = .waiting && v.run = .ready then taskMod slot (fun x => { x with lost := some (now, t.waitMask) }) u else u
    | none => u

/-- WAIT_TIMEOUT (R251). -/
def execWaitTimeout (slot : Nat) (s : State) : Host.Outcome State Fault Refusal := .next (unlessHold s (waitExpires slot s))

/-- DELAY_EXPIRY (R251). -/
def execDelayExpiry (slot : Nat) (s : State) : Host.Outcome State Fault Refusal := .next (unlessHold s (expire slot .delayed s))

end Sys2Proof.Machine
end

