-- ==== Sys2Proof/Machine/Exchange.lean ====
section
/-! DEFINITION. Exchange: EXCH_SEND, EXCH_RECV, their control messages and segments; SINK_REMOTE (R159 to R169). -/

namespace Sys2Proof.Machine

/-- Unit number of the exchange endpoints (Table 11-9). -/
def unitExch : Nat := 0xBC

/-- What a queue pair answers to a message it has received. -/
inductive RxRes
  | ok
  | rnr
  | refuse (code : NakCode)
  | data (bytes : List Byte)
  deriving DecidableEq, Repr

/-- An exchange control message (Table 07-5). -/
def ctlMsg (ty status sender seq exchange : Nat) (body : List Byte) : List Byte :=
  leBytes 1 ty ++ leBytes 1 status ++ leBytes 2 sender ++ leBytes 4 seq ++ leBytes 8 exchange ++ slice body 0 16

/-- Bytes of a whole segment (R164). -/
def segBytes (width : Nat) : Nat := 65536 / max 1 width * max 1 width

/-- The slot of a job's placed stage. -/
def slotOf (s : State) (jid stage : Nat) : Option (Nat × Task) :=
  s.js.tasks.find? fun e => e.2.jid = jid && e.2.stage = stage && e.2.run ≠ .freePending

/-- PEER is set on a job's placed stage (Table 11-4). -/
def signalPeer (jid stage : Nat) (s : State) : State :=
  match slotOf s jid stage with
  | some (k, t) => flagsArrive k t flagPeer s
  | none => s

/-! ### EXCH_SEND (R160, R161, R164, R168) -/

/-- What an EXCH_SEND stage holds. -/
def xsendOf (s : State) (jid stage : Nat) : Option XSend := s.net.sends.find? fun x => x.jid = jid && x.stage = stage

/-- The record of an EXCH_SEND stage changed. -/
def xsendMod (jid stage : Nat) (f : XSend → XSend) (s : State) : State :=
  netMod (fun n => { n with sends := n.sends.map fun x => if x.jid = jid && x.stage = stage then f x else x }) s

/-- One peer of an EXCH_SEND stage changed. -/
def peerMod (jid stage i : Nat) (f : TxPeer → TxPeer) (s : State) : State :=
  xsendMod jid stage (fun x => { x with peers := lmod x.peers i f }) s

/-- OPEN to a peer. -/
def sendOpen (x : XSend) (p : TxPeer) (s : State) : State :=
  qpPost p.qp (ctlMsg 1 0 x.sender p.seq x.exchange (leBytes 4 x.crc)) s

/-- A peer table that breaks R161, for a stage of the instance. -/
def peerTableBad (s : State) (n : Nat) (op b : List Byte) : Bool :=
  let pc := fld b 10 2
  let ec := fld b 12 2
  1023 < fld b 8 2 || pc = 0 || 1024 < pc || ec = 0 || 4096 < ec || (fld op 0 1 = 2 && ec ≠ 2 ^ fld op 3 1) ||
  ((List.range ec).any fun i => pc ≤ fld b (16 + 8 * pc + 2 * i) 2) ||
  ((List.range pc).any fun i => match qpAt s (fld b (16 + 8 * i) 4) with
    | some q => q.inst ≠ n || q.use ≠ 2
    | none => true)

/-- The stage starts: the peer table is read once, and every peer is sent an OPEN (R161, R164). -/
def startSend (slot : Nat) (t : Task) (s : State) : State :=
  let img := taskImg s t
  let op := taskOperand s t
  let (addr, len) := taskBuffer s t 0
  let bad := failTask slot 0x0213 {}
  if len < 16 then bad s
  else
    match devRead unitExch (.inst t.inst) addr 16 s with
    | (.error f, s) => accessFailed slot false 0xFF f s
    | (.ok h, s) =>
      let size := 16 + 8 * fld h 10 2 + 2 * fld h 12 2
      if len < size then bad s
      else
        match devRead unitExch (.inst t.inst) addr size s with
        | (.error f, s) => accessFailed slot false 0xFF f s
        | (.ok b, s) =>
          if peerTableBad s t.inst op b then bad s
          else
            let rowPort := t.ins.length - 1
            let layout := match inEnt s t rowPort with
              | some e => e.layout
              | none => 0
            let x : XSend :=
              { jid := t.jid, stage := t.stage, exchange := fld b 0 8, sender := fld b 8 2
                entries := (List.range (fld b 12 2)).map fun i => fld b (16 + 8 * fld b 10 2 + 2 * i) 2
                peers := (List.range (fld b 10 2)).map fun i => { qp := fld b (16 + 8 * i) 4 }
                crc := layoutCrc img layout, width := (layoutEnt img layout).width }
            let s := netMod (fun n =>
              { n with sends := n.sends.filter (fun y => !(y.jid = t.jid && y.stage = t.stage)) ++ [x] }) s
            let s := engMod slot (fun g => { g with started := true }) s
            x.peers.foldl (fun s p => match qpAt s p.qp with
              | some q => if q.err then failTask slot 0x0702 { detail := p.qp, detail2 := x.sender } s else sendOpen x p s
              | none => s) s

/-- The peers a row goes to (R160); a BY_FIELD value beyond the table gives none. -/
def rowPeers (x : XSend) (op : List Byte) (ks : List KeySpec) (l : Layout) (row : List Elem) : Option (List Nat) :=
  match fld op 0 1 with
  | 1 => (x.entries[leNat (rowField l ((row.getD 0 none).getD []) (fld op 4 1))]?).map fun i => [i]
  | 2 =>
    let h := routeHash ks (fld op 8 8) (nullsEqual (fld op 5 1)) row
    (x.entries[hashBits h (fld op 2 1) (fld op 3 1)]?).map fun i => [i]
  | _ => some (List.range x.peers.length)

/-- A row joins the bytes of its peers. -/
def addRow (t : Task) (is_ : List Nat) (bytes : List Byte) (s : State) : State :=
  is_.foldl (fun s i => peerMod t.jid t.stage i (fun p => if p.closed then p else { p with buf := p.buf ++ bytes }) s) s

/-- Rows are routed in order; the first with no place in the table fails the job (R161). -/
def routeRows (slot : Nat) (t : Task) (x : XSend) (op : List Byte) (ks : List KeySpec) (l : Layout) :
    List (List Elem) → Nat → State → State
  | [], _, s => s
  | r :: rest, ord, s =>
    match rowPeers x op ks l r with
    | none => failTask slot 0x0214 { detail := ord, index := 0 } s
    | some is_ => routeRows slot t x op ks l rest (ord + 1) (addRow t is_ ((r.getD ks.length none).getD []) s)

/-- One peer's next segment, withheld, sent or asked for; `last` says that no more rows come (R164, R168). -/
def pumpPeer (t : Task) (last : Bool) (i : Nat) : Nat → State → State
  | 0, s => s
  | fuel + 1, s =>
    match xsendOf s t.jid t.stage with
    | none => s
    | some x =>
      match x.peers[i]? with
      | none => s
      | some p =>
        let full := segBytes x.width
        let n := min full p.buf.length
        let ready : Bool := full ≤ p.buf.length || (last && 0 < n)
        let next := fun (p : TxPeer) => { p with buf := p.buf.drop n, seq := p.seq + 1, lastLen := n }
        if p.closed || !p.opened then s
        else if !ready then
          if last && p.buf.isEmpty && p.unacked = 0 && !p.ended then
            qpSend p.qp (.segment t.jid t.stage i) (.send (ctlMsg 3 0 x.sender p.seq x.exchange (leBytes 4 p.lastLen)))
              (peerMod t.jid t.stage i (fun p => { p with ended := true, unacked := 1 }) s)
          else s
        else if p.seq < p.expected then pumpPeer t last i fuel (peerMod t.jid t.stage i next s)
        else
          match p.grants.find? fun g => g.1 = p.seq with
          | some (_, k) =>
            let imm := x.sender * 2 ^ 22 + p.seq % 2 ^ 22
            let s := peerMod t.jid t.stage i (fun p =>
              { next p with unacked := p.unacked + 1, grants := p.grants.filter fun g => g.1 ≠ p.seq }) s
            let s := qpSend p.qp (.segment t.jid t.stage i) (.writeImm p.key (65536 * (k + 1)) (p.buf.take n) imm) s
            pumpPeer t last i fuel (odBump 0x2821 2 s)
          | none =>
            if p.asked then s
            else sendOpen x p (peerMod t.jid t.stage i (fun p => { p with asked := true }) s)

/-- EXCH_SEND. -/
def runSend (slot : Nat) (t : Task) (s : State) : State :=
  if !t.eng.started then startSend slot t s
  else
    match xsendOf s t.jid t.stage with
    | none => s
    | some x =>
      let op := taskOperand s t
      let kc := fld op 1 1
      let ks := if fld op 0 1 = 2 then mashKeys (taskImg s t) t.stage op 0x10 kc else []
      let l := (inLayout (taskImg s t) t.stage ks.length).getD noLayout
      let room := x.peers.all fun p => p.closed || p.buf.length < 131072
      let s :=
        if room then
          let (rows, s) := takeKeyed slot ks t.eng.a s
          let s := engMod slot (fun g => { g with a := g.a + rows.length }) s
          routeRows slot t x op ks l rows t.eng.a s
        else s
      match taskAt s slot with
      | none => s
      | some t =>
        if !isRunning t then s
        else
          let last := insDone t
          let s := (List.range x.peers.length).foldl (fun s i => pumpPeer t last i 64 s) s
          match xsendOf s t.jid t.stage with
          | some x =>
            if last && x.peers.all (fun p => p.closed || (p.ended && p.unacked = 0)) then
              stageDone slot (netMod (fun n =>
                { n with sends := n.sends.filter fun y => !(y.jid = t.jid && y.stage = t.stage) }) s)
            else s
          | none => s

/-- EXCH_SEND (R160). -/
def execExchSend (slot : Nat) (s : State) : Host.Outcome State Fault Refusal :=
  .next (runStage slot [0x70] (runSend slot) s)

/-- Whether a GRANT shows that its sender has passed the receiver's expected sequence (R169): it goes back behind an earlier
GRANT, or it grants nothing although segments that the sender has sent under grants have not come to the receiver. -/
def passedBy (p : TxPeer) (seq : Nat) (gs : List (Nat × Nat)) : Bool := seq < p.expected || (seq < p.seq && gs.isEmpty)

/-- A GRANT reaches a sender (R164, R165, R168, R169). -/
def grantArrives (qp : Nat) (m : List Byte) (s : State) : State :=
  match s.net.sends.find? fun x => x.exchange = fld m 8 8 && x.sender = fld m 2 2 && (slotOf s x.jid x.stage).isSome &&
      x.peers.any fun p => p.qp = qp with
  | none => s
  | some x =>
    match findPos (fun p => p.qp = qp) x.peers with
    | none => s
    | some i =>
      let seq := fld m 4 4
      let fail := fun (st : Nat) (s : State) => match slotOf s x.jid x.stage with
        | some (k, _) => failTask k st { detail := qp, detail2 := x.sender } s
        | none => s
      let s := signalPeer x.jid x.stage s
      match fld m 1 1 with
      | 0 =>
        let slots := (List.range 6).map fun j => fld m (0x14 + 2 * j) 2
        let gs := (slots.zipIdx.filter fun g => g.1 ≠ 0xFFFF).map fun g => (seq + g.2, g.1)
        if x.peers.any fun p => p.qp = qp && passedBy p seq gs then fail 0x0706 s
        else
          peerMod x.jid x.stage i (fun p =>
            { p with opened := true, again := false, asked := p.asked && gs.isEmpty, expected := max p.expected seq
                     key := fld m 0x10 4, grants := gs.filter fun g => p.seq ≤ g.1 }) s
      | 1 => peerMod x.jid x.stage i (fun p => { p with again := true }) s
      | 2 =>
        let s := jobMod x.jid (fun j => { j with dropped := some (qp, x.sender) }) s
        peerMod x.jid x.stage i (fun p => { p with closed := true, again := false, buf := [], grants := [] }) s
      | 3 => fail 0x0704 s
      | _ => fail 0x0702 s

/-- OPEN_RETRY (R165): 100 µs after a NOT_OPEN answer. -/
def execOpenRetry (slot peer : Nat) (s : State) : Host.Outcome State Fault Refusal :=
  .next (unlessHold s (match taskAt s slot with
    | none => s
    | some t =>
      match xsendOf s t.jid t.stage with
      | none => s
      | some x =>
        match x.peers[peer]? with
        | some p => if p.again then sendOpen x p (peerMod t.jid t.stage peer (fun p => { p with again := false }) s) else s
        | none => s))

/-- OPEN_TIMEOUT (R165): a peer whose zone has not opened. -/
def execOpenTimeout (slot peer : Nat) (s : State) : Host.Outcome State Fault Refusal :=
  .next (unlessHold s (match taskAt s slot with
    | none => s
    | some t =>
      match xsendOf s t.jid t.stage with
      | none => s
      | some x =>
        match x.peers[peer]? with
        | some p => if p.opened || p.closed then s else failTask slot 0x0702 { detail := p.qp, detail2 := x.sender } s
        | none => s))

/-! ### Landing zones (R162 to R167) -/

/-- A zone changed. -/
def zoneMod (jid stage : Nat) (f : Zone → Zone) (s : State) : State :=
  netMod (fun n => { n with zones := n.zones.map fun z => if z.jid = jid && z.stage = stage then f z else z }) s

/-- The zone of a stage. -/
def zoneAt (s : State) (jid stage : Nat) : Option Zone := s.net.zones.find? fun z => z.jid = jid && z.stage = stage

/-- The receiving job has failed. -/
def zoneFailed (s : State) (z : Zone) : Bool :=
  match jobOf s z.jid with
  | some j => j.ended.isSome
  | none => true

/-- The receiving job is replayed, so its zone expects sequence 0 again (R169). -/
def zoneReplayed (s : State) (z : Zone) : Bool :=
  match jobOf s z.jid with
  | some j => j.replayed
  | none => false

/-- The next sequence of a sender for which no slot has been granted: segments that landed ahead of the expected one have had
theirs. -/
def nextGrant (z : Zone) (i : Nat) (e : RxSender) : Nat :=
  e.expected + e.grants.length + (z.landed.filter fun x => x.sender = i && e.expected ≤ x.seq).length

/-- The expected sequence after what has landed. -/
def passLanded (z : Zone) (i : Nat) : Nat → Nat → Nat
  | 0, x => x
  | fuel + 1, x => if z.landed.any fun l => l.sender = i && l.seq = x then passLanded z i fuel (x + 1) else x

/-- The lowest slot of a zone that is neither granted nor landed. -/
def freeSlot (z : Zone) : Option Nat :=
  (List.range z.slots).find? fun k =>
    !(z.landed.any fun x => x.slot = k) && !(z.senders.any fun e => e.2.grants.any fun g => g.2 = k)

/-- The next sender to be granted a slot, round-robin after the last (R164). A GRANT names slots for six sequences from the
expected one on. -/
def nextSender (z : Zone) : Option Nat :=
  let may := fun (e : Nat × RxSender) => e.2.count.isNone && e.2.grants.length < z.depth && nextGrant z e.1 e.2 < e.2.expected + 6
  let after := z.senders.filter fun e => z.last < e.1 && may e
  let upTo := z.senders.filter fun e => e.1 ≤ z.last && may e
  (after ++ upTo).head?.map (·.1)

/-- Free slots are granted, one sender after another. -/
def topUp : Nat → Zone → Zone
  | 0, z => z
  | fuel + 1, z =>
    match nextSender z, freeSlot z with
    | some i, some k =>
      topUp fuel { z with
        last := i
        senders := tmod { qp := 0 } z.senders i fun e =>
          { e with grants := e.grants ++ [(nextGrant z i e, k)], asks := false } }
    | _, _ => z

/-- GRANT to a sender of a zone: slot index j is that of sequence SEQ + j (Table 07-5). -/
def sendGrant (z : Zone) (status i : Nat) (s : State) : State :=
  match tfind z.senders i with
  | none => s
  | some e =>
    let slots := (List.range 6).flatMap fun j => leBytes 2 (match e.grants.find? fun g => g.1 = e.expected + j with
      | some g => g.2
      | none => 0xFFFF)
    qpPost e.qp (ctlMsg 2 status i e.expected z.exchange (leBytes 4 z.key ++ slots)) s

/-- Slots are granted, and every sender whose grants grew is told. -/
def regrant (jid stage : Nat) (s : State) : State :=
  match zoneAt s jid stage with
  | none => s
  | some z =>
    let z' := topUp (z.slots + 1) z
    let s := zoneMod jid stage (fun _ => z') s
    (z'.senders.filter fun e => match tfind z.senders e.1 with
      | some o => decide (o.grants.length < e.2.grants.length)
      | none => true).foldl (fun s e => sendGrant z' 0 e.1 s) s

/-- A zone's job fails; every sender it knows receives GRANT with STATUS FAILED (R165, R167). -/
def failZoneWith (z : Zone) (status : Nat) (er : ErrRec) (s : State) : State :=
  let s := failJob z.jid status { er with unit := unitExch, stage := z.stage } s
  z.senders.foldl (fun s e => sendGrant z 4 e.1 s) s

/-- A zone's job fails because of what a sender asked on a queue pair. -/
def failZone (z : Zone) (status qp ix : Nat) (s : State) : State := failZoneWith z status { detail := qp, detail2 := ix } s

/-- Both jobs of an exchange fail with SEGMENT_GAP: the receiver's here, and the sender's by a GRANT that shows the sequence
still expected (R169). -/
def segmentGap (z : Zone) (qp ix : Nat) (s : State) : State :=
  let e := tget { qp := qp } z.senders ix
  let s := qpPost qp (ctlMsg 2 0 ix e.expected z.exchange (leBytes 4 z.key ++ List.replicate 12 0xFF)) s
  failJob z.jid 0x0706 { detail := qp, detail2 := ix, unit := unitExch, stage := z.stage } s

/-- A sender asked for a slot and has none: it waits, or LANDING_FULL (R167). With ORDERED, slots come free when the sender
whose turn it is has sent END, or while it still holds a slot to land in (log entry 50). -/
def askedNone (z : Zone) (qp ix : Nat) (s : State) : State :=
  let placed := (slotOf s z.jid z.stage).isSome
  let moves := !z.ordered ||
    (match tfind z.senders z.turn with
      | some e => !e.grants.isEmpty || (e.count.isSome && z.landed.any fun x => x.sender = z.turn)
      | none => false)
  if placed && moves then
    zoneMod z.jid z.stage (fun y => { y with senders := tmod { qp := qp } y.senders ix fun e => { e with asks := true } }) s
  else failZone z 0x0705 qp ix s

/-- A GRANT of a status to a queue pair that no open zone stands behind. -/
def answerGrant (qp status ix exchange : Nat) (s : State) : State :=
  qpPost qp (ctlMsg 2 status ix 0 exchange (leBytes 4 0 ++ List.replicate 12 0xFF)) s

/-- TIMEREF periods for which a closed exchange is remembered (R165). -/
def closedHold : Nat := 10 * 1000 * 1000 * perUs

/-- An OPEN reaches a receiver (R164, R165, R169). -/
def openArrives (qp n : Nat) (m : List Byte) (s : State) : State :=
  let ex := fld m 8 8
  let ix := fld m 2 2
  match s.net.zones.find? fun z => z.inst = n && z.exchange = ex with
  | none =>
    let st := match s.net.closed.find? fun c => c.1 = n && c.2.1 = ex && s.time - c.2.2.2 ≤ closedHold with
      | some c => c.2.2.1
      | none => 1
    answerGrant qp st ix ex s
  | some z =>
    if zoneFailed s z then answerGrant qp 4 ix ex s
    else if fld m 0x10 4 ≠ z.crc || z.senderCount ≤ ix then
      answerGrant qp 3 ix ex (failJob z.jid 0x0704 { detail := qp, detail2 := ix, unit := unitExch, stage := z.stage } s)
    else
      let s := zoneMod z.jid z.stage (fun y => { y with senders := tmod { qp := qp } y.senders ix fun e => { e with qp := qp } }) s
      match zoneAt s z.jid z.stage with
      | none => s
      | some z =>
        let e := tget { qp := qp } z.senders ix
        if e.expected < fld m 4 4 then segmentGap z qp ix s
        else
          let s := regrant z.jid z.stage s
          match zoneAt s z.jid z.stage with
          | none => s
          | some z' =>
            let e' := tget { qp := qp } z'.senders ix
            let told : Bool := e.grants.length < e'.grants.length
            let s := if told then s else sendGrant z' 0 ix s
            if e'.grants.isEmpty && e'.count.isNone then askedNone z' qp ix s else s

/-- An END reaches a receiver (R164, R166). -/
def endArrives (qp n : Nat) (m : List Byte) (s : State) : State :=
  match s.net.zones.find? fun z => z.inst = n && z.exchange = fld m 8 8 with
  | none => s
  | some z =>
    let ix := fld m 2 2
    match tfind z.senders ix with
    | none => if zoneReplayed s z && fld m 4 4 ≠ 0 then segmentGap z qp ix s else s
    | some e =>
      if zoneFailed s z then s
      else if e.expected ≠ fld m 4 4 then segmentGap z qp ix s
      else
        let s := zoneMod z.jid z.stage (fun y => { y with
          senders := tset y.senders ix { e with count := some (fld m 4 4), grants := [], asks := false } }) s
        signalPeer z.jid z.stage (regrant z.jid z.stage s)

/-- An exchange control message arrives on an EXCHANGE queue pair. -/
def controlArrives (qp n : Nat) (m : List Byte) (s : State) : RxRes × State :=
  if m.length ≠ 32 then (.refuse .invalidRequest, s)
  else
    match fld m 0 1 with
    | 1 => (.ok, openArrives qp n m s)
    | 2 => (.ok, grantArrives qp m s)
    | 3 => (.ok, endArrives qp n m s)
    | _ => (.refuse .invalidRequest, s)

/-- A segment's fault: the task of the zone's stage parks, or, where the stage is not placed, the zone holds the fault until
it is resolved (R265, R267, Table 12-4; log entry 49). -/
def parkSegment (z : Zone) (ix num addr reason level : Nat) (s : State) : State :=
  let since := ((z.faulted.find? fun x => x.1 = (ix, num)).map (·.2)).getD s.time
  let note := fun (s : State) => zoneMod z.jid z.stage (fun y => { y with
    faulted := ((ix, num), since) :: y.faulted.filter fun x => x.1 ≠ (ix, num) }) s
  match slotOf s z.jid z.stage with
  | some (slot, t) =>
    if t.parked.isSome || z.parked.isSome then s else parkSince slot addr reason level 1 0xFF since (note s)
  | none =>
    match z.parked, jobOf s z.jid with
    | none, some j =>
      let f : FaultRec := { id := s.ms.nextFault, inst := z.inst, gen := j.gen, asn := j.asn, sq := j.sq, address := addr
                            unit := unitExch, reason := reason, level := level, access := 1, stage := z.stage }
      if od s (instIdx z.inst) 0x22 = 0 || od s (instIdx z.inst) 0x26 = 1 then failFault { f with id := 0 } s
      else
        let p : Parked := ⟨f.id, since, f⟩
        postFault f (zoneMod z.jid z.stage (fun y => { y with parked := some p }) <| note
          { s with ms := { s.ms with nextFault := nextFaultId f.id } })
    | _, _ => s

/-- A segment's write that was not performed (R270, R272, Table 12-4): a fault parks and is answered with RNR; poison or no
response in it fails the receiving job; a violation is a remote-access NAK. -/
def segmentFails (z : Zone) (ix num : Nat) (f : AccFail) (s : State) : RxRes × State :=
  match f.err with
  | .fault reason level => (.rnr, parkSegment z ix num f.addr reason level s)
  | .violation _ => (.refuse .remoteAccess, noteViolation f s)
  | .poison w => (.ok, failZoneWith z 0x0303 { address := f.addr, detail2 := w } s)
  | .noResponse w => (.ok, failZoneWith z 0x0304 { address := f.addr, detail2 := w } s)

/-- A segment whose key is no open zone's: one for a zone that a replayed job has opened again, with an earlier tag, shows how
far its sender is (R169); any other is a remote-access NAK (R146). -/
def staleSegment (qp n key imm : Nat) (s : State) : RxRes × State :=
  match s.net.zones.find? fun z => z.inst = n && z.key / 4096 = key / 4096 && zoneReplayed s z && !zoneFailed s z with
  | some z =>
    let ix := imm / 2 ^ 22
    if (tget { qp := qp } z.senders ix).expected % 2 ^ 22 ≠ imm % 2 ^ 22 then (.ok, segmentGap z qp ix s)
    else (.refuse .remoteAccess, s)
  | none => (.refuse .remoteAccess, s)

/-- A segment arrives in a zone's slot (R164, R169, Table 12-4). -/
def segmentArrives (qp : Nat) (z : Zone) (address : Nat) (data : List Byte) (imm : Nat) (s : State) : RxRes × State :=
  let ix := imm / 2 ^ 22
  let seq := imm % 2 ^ 22
  let k := address / 65536 - 1
  match tfind z.senders ix with
  | none => if zoneReplayed s z && seq ≠ 0 then (.ok, segmentGap z qp ix s) else (.ok, odBump 0x2821 4 s)
  | some e =>
    if zoneFailed s z then (.ok, sendGrant z 4 ix s)
    else if e.qp ≠ qp || address % 65536 ≠ 0 || address < 65536 then (.refuse .remoteAccess, s)
    else
      match e.grants.find? fun g => g.2 = k && g.1 % 2 ^ 22 = seq with
      | none =>
        let ahead := (seq + 2 ^ 22 - e.expected % 2 ^ 22) % 2 ^ 22
        if zoneReplayed s z && 0 < ahead && ahead < 2 ^ 21 then (.ok, segmentGap z qp ix s)
        else (.ok, sendGrant z 0 ix (odBump 0x2821 4 s))
      | some (num, _) =>
        if z.parked.isSome then (.rnr, s)
        else
          match devWriteWhole unitExch (.inst z.inst) (z.base + address) data s with
          | (some f, s) => segmentFails z ix num f s
          | (none, s) =>
            let z' := { z with landed := z.landed ++ [⟨ix, num, k, data.length⟩] }
            let s := zoneMod z.jid z.stage (fun y => { y with
              landed := y.landed ++ [⟨ix, num, k, data.length⟩]
              faulted := y.faulted.filter fun x => x.1 ≠ (ix, num)
              senders := tset y.senders ix
                { e with expected := passLanded z' ix z'.landed.length e.expected
                         grants := e.grants.filter fun g => g.2 ≠ k } }) s
            (.ok, signalPeer z.jid z.stage (regrant z.jid z.stage (odBump 0x2821 3 s)))

/-! ### EXCH_RECV (R166) -/

/-- The landed segment to be emitted next: in sequence order of its sender, in the order of landing, and with ORDERED of the
sender whose turn it is, after its END (R166). -/
def nextLanded (z : Zone) : Option Landed :=
  let due := fun (x : Landed) => match tfind z.senders x.sender with
    | some e => decide (x.seq < e.expected) && !(z.landed.any fun y => y.sender = x.sender && y.seq < x.seq) &&
        (!z.ordered || (x.sender = z.turn && e.count.isSome))
    | none => false
  z.landed.find? due

/-- ORDERED: the turn passes on from senders whose rows have all been emitted. -/
def passTurn : Nat → Zone → Zone
  | 0, z => z
  | fuel + 1, z =>
    match tfind z.senders z.turn with
    | some e => if e.count.isSome && !(z.landed.any fun x => x.sender = z.turn) then passTurn fuel { z with turn := z.turn + 1 } else z
    | none => z

/-- Every sender has sent END and its segments have been emitted. -/
def zoneDrained (z : Zone) : Bool :=
  z.landed.isEmpty && (List.range z.senderCount).all fun i => match tfind z.senders i with
    | some e => e.count.isSome
    | none => false

/-- One landed segment is emitted; `marks` names it until its last row has left. -/
def emitLanded (slot : Nat) (t : Task) (z : Zone) (x : Landed) (s : State) : State :=
  match devRead unitExch (.inst t.inst) (z.base + 65536 * (x.slot + 1)) x.len s with
  | (.error f, s) => accessFailed slot false 0xFF f s
  | (.ok b, s) =>
    let w := match outLayout (taskImg s t) t.stage 0 with
      | some l => max 1 l.width
      | none => 1
    emitElems slot 0 ((chunksOf w b).map some) (engMod slot (fun g => { g with marks := [x.sender, x.seq] }) s)

/-- The segment whose rows have left is gone, and its slot is free again (R164, R166). -/
def freeLanded (slot : Nat) (t : Task) (s : State) : State :=
  match t.eng.marks with
  | sender :: seq :: _ =>
    let s := zoneMod t.jid t.stage (fun y => passTurn (y.senderCount + 1)
      { y with landed := y.landed.filter fun l => !(l.sender = sender && l.seq = seq) }) s
    regrant t.jid t.stage (engMod slot (fun g => { g with marks := [] }) s)
  | _ => s

/-- A zone closes: its key goes, and the exchange is remembered (R163, R165). -/
def closeZone (z : Zone) (status : Nat) (s : State) : State :=
  let now := s.time
  let s := dropRegion z.key s
  netMod (fun n => { n with
    zones := n.zones.filter fun y => !(y.jid = z.jid && y.stage = z.stage)
    closed := ((z.inst, z.exchange, status, now) :: n.closed).take 16384 }) s

/-- EXCH_RECV: emits one landed segment, or ends its stream. -/
def runRecv (slot : Nat) (t : Task) (s : State) : State :=
  let s := freeLanded slot t (engMod slot (fun g => { g with started := true }) s)
  let s := zoneMod t.jid t.stage (fun z => passTurn (z.senderCount + 1) z) s
  match zoneAt s t.jid t.stage with
  | none => s
  | some z =>
    match nextLanded z with
    | some x => emitLanded slot t z x s
    | none => if zoneDrained z then stageDone slot (closeZone z 2 s) else s

/-- EXCH_RECV (R166). -/
def execExchRecv (slot : Nat) (s : State) : Host.Outcome State Fault Refusal :=
  .next (runStage slot [0x71] (runRecv slot) s)

/-! ### SINK_REMOTE (R159) -/

/-- Whether a queue pair is a DATA queue pair of an instance, in service. -/
def dataQp (s : State) (n k : Nat) : Bool :=
  match qpAt s k with
  | some q => q.inst = n && q.use = 3 && !q.err
  | none => false

/-- One RDMA WRITE of the buffered bytes. -/
def remoteWrite (slot : Nat) (t : Task) (k : Nat) (v : List Byte) (s : State) : State :=
  match taskAt s slot with
  | none => s
  | some u =>
    let room := fld v 8 8 - u.eng.a
    let bs := u.eng.bytes.take (min 65536 room)
    let n := min 65536 u.eng.bytes.length
    let s := engMod slot (fun g => { g with bytes := g.bytes.drop n, a := g.a + bs.length, b := g.b + bs.length }) s
    if bs.isEmpty then s
    else qpSend k (.sink t.jid t.stage bs.length) (.write (fld v 0 4) (fld v 4 4 + u.eng.a) bs) s

/-- SINK_REMOTE: its input leaves in order, as RDMA WRITEs of at most 65,536 B. -/
def runSinkRemote (slot : Nat) (t : Task) (s : State) : State :=
  let k := fld (taskOperand s t) 0 4
  if !t.eng.started then
    if dataQp s t.inst k then engMod slot (fun g => { g with started := true, d := k + 1 }) s
    else failTask slot 0x0702 { detail := k } s
  else
    let v := (taskParam s t 0).getD []
    let full : Bool := 1048576 ≤ t.eng.bytes.length + t.eng.b
    let bytes := match t.ins.head?, inEnt s t 0 with
      | some p, some x => if full then [] else (p.buf.map fun e => elemBytes x.ty (e.getD [])).flatten
      | _, _ => []
    let n := match t.ins.head? with
      | some p => if full then 0 else p.buf.length
      | none => 0
    let s := engMod slot (fun g => { g with bytes := g.bytes ++ bytes }) (dropPort slot 0 n s)
    match taskAt s slot with
    | none => s
    | some t =>
      let last := insDone t
      let len := t.eng.bytes.length
      let writes := len / 65536 + (if last && len % 65536 ≠ 0 then 1 else 0)
      let s := (List.range writes).foldl (fun s _ => remoteWrite slot t k v s) s
      match taskAt s slot with
      | some t => if last && t.eng.bytes.isEmpty && t.eng.b = 0 then stageDone slot s else s
      | none => s

/-- SINK_REMOTE (R159). -/
def execSinkRemote (slot : Nat) (s : State) : Host.Outcome State Fault Refusal :=
  .next (runStage slot [0x83] (runSinkRemote slot) s)

/-- What a message was sent for learns of its acknowledgement (R159, R164). -/
def txDone (m : TxMsg) (s : State) : State :=
  match m.why with
  | .plain => s
  | .sink jid stage n =>
    match slotOf s jid stage with
    | some (k, t) =>
      flagsArrive k t flagPeer (engMod k (fun g => { g with b := g.b - n }) (jobMod jid (fun j => { j with resultLen := j.resultLen + n }) s))
    | none => s
  | .segment jid stage i => signalPeer jid stage (peerMod jid stage i (fun p => { p with unacked := p.unacked - 1 }) s)

end Sys2Proof.Machine
end

