-- ==== Sys2Proof/Machine/Image.lean ====
section
/-! DEFINITION. The instance image: what R327 says it holds, in the model's own byte layout (R327, R328; log entry 23). -/

namespace Sys2Proof.Machine

/-! ### Writing -/

/-- A number as 8 bytes. -/
def wNat (n : Nat) : List Byte := leBytes 8 n

/-- A byte string with its length. -/
def wBytes (bs : List Byte) : List Byte := wNat bs.length ++ bs

/-- A list with its length. -/
def wList {α : Type} (f : α → List Byte) (xs : List α) : List Byte := wNat xs.length ++ (xs.map f).flatten

/-- A Boolean as a number. -/
def wBool (b : Bool) : List Byte := wNat (if b then 1 else 0)

/-- A table of numbers. -/
def wTbl (t : Tbl Nat) : List Byte := wList (fun e => wNat e.1 ++ wNat e.2) t

/-- An SQ: its definition, head, tail, pass, next ASN. A descriptor that waits at step 4 is not accepted: admission goes on at
its slot, with its ASN (R10, R327). A network SQ's tail is the slots its SENDs have filled (R156). -/
def wSq (s : State) (n : Nat) (e : Nat × SubQ) : List Byte :=
  let q := e.2
  let back := s.js.jobs.find? fun j => j.inst = n && j.gen = instGen s n && j.sq = e.1 && j.jstate = .pending
  let (fetch, asn) := match back with
    | some j => (j.pos, j.asn)
    | none => (q.fetch, q.nextAsn)
  wNat e.1 ++ wList wNat (sqFields q) ++ ([q.tail, fetch, q.head, q.written, asn, q.postAsn].map wNat).flatten ++
    wBool q.error ++ wTbl q.sends ++ wTbl q.accepts ++ wList wNat q.taken

/-- A CQ: its definition, head, tail. -/
def wCq (e : Nat × ComplQ) : List Byte :=
  let q := e.2
  wNat e.1 ++ wList wNat (cqFields q) ++ ([q.tail, q.head, q.unsignalled].map wNat).flatten ++ wBool q.error

/-- An error record's variable part. -/
def wErr (e : ErrRec) : List Byte :=
  ([e.planId, e.address, e.detail, e.detail2, e.reason, e.unit, e.stage, e.index].map wNat).flatten

/-- A plan copy. -/
def wPlan (p : PlanCopy) : List Byte :=
  wBytes p.image ++ wList wBytes p.params ++ wList (fun e => wNat e.1 ++ wList wBytes e.2) p.lists

/-- The mask of finished phases. -/
def doneMask (ps : List Phase) : Nat :=
  ps.zipIdx.foldl (fun m (p, i) => if p.run = .finished then m + 2 ^ i else m) 0

/-- An accepted, unfinished job, or one whose completion waits; with the time since its acceptance. -/
def wJob (now : Nat) (j : Job) : List Byte :=
  let kind := match j.kind with
    | .nop => 0
    | .plan => 1
    | .cancel => 2
  ([j.sq, j.pos, j.slot, j.pass, j.asn, kind, j.priority, j.deadline, now - j.acceptedAt, j.spill, j.quota, j.resultLen].map wNat).flatten ++
    wBool j.network ++ wBool j.noIrq ++ wBool j.stopped ++ wBool j.unmirrored ++ wBytes j.desc ++ wNat (doneMask j.phases) ++
    wNat j.phases.length ++
    wList wPlan j.plan.toList ++ wList (fun e => wNat e.status ++ wErr e.er) j.ended.toList ++ wTbl j.dropped.toList

/-- A refusal that waits. -/
def wRefusal (r : HeldRefusal) : List Byte :=
  ([r.sq, r.pos, r.gen, r.status].map wNat).flatten ++ wErr r.er ++ wBool r.noIrq

/-- Attributes of Table 15-2 other than counters, LIFECYCLE and CONTROL. -/
def imageAttrs : List Nat :=
  [3, 4, 5, 6, 7, 8, 9, 0xA, 0xB, 0xC, 0xD, 0xE, 0xF] ++ (List.range 9).map (· + 0x10) ++ [0x1A, 0x1B, 0x1C, 0x1D, 0x1E] ++
  [0x38, 0x39, 0x3A, 0x3B, 0x3C]

/-- The image of a FROZEN instance: magic, version, length, number, generation, CRC-32C, and its contents (R327). -/
def buildImage (s : State) (n : Nat) : List Byte :=
  let i := inst s n
  let jobs := s.js.jobs.filter fun j => j.inst = n && j.gen = instGen s n && j.jstate ≠ .pending
  let attr : Nat → Nat := fun k => if k = 0x1E then rrHeldCount s n else od s (instIdx n) k
  let body := wList (fun k => wNat k ++ wNat (attr k)) imageAttrs ++
    wList (wSq s n) i.sqs ++ wList wCq i.cqs ++ wList wRefusal i.refusals ++ wList (wJob s.time) jobs ++ wNat i.erSeq ++
    wList (fun e => wNat e.1 ++ wNat e.2.1 ++ wNat e.2.2) i.erHeld
  asciiBytes "YIMG" ++ leBytes 4 1 ++ wNat (40 + body.length) ++ wNat n ++ wNat (instGen s n) ++
    leBytes 4 (crc32c body) ++ leBytes 4 0 ++ body

/-! ### Reading -/

/-- A reader takes a value off the front of a byte string. -/
abbrev Rd (α : Type) := List Byte → Option (α × List Byte)

/-- Eight bytes as a number. -/
def rNat : Rd Nat := fun bs => if bs.length < 8 then none else some (fld bs 0 8, bs.drop 8)

/-- n numbers. -/
def rNats : Nat → Rd (List Nat)
  | 0 => fun bs => some ([], bs)
  | n + 1 => fun bs => do
    let (x, bs) ← rNat bs
    let (xs, bs) ← rNats n bs
    some (x :: xs, bs)

/-- A byte string with its length. -/
def rBytes : Rd (List Byte) := fun bs => do
  let (n, bs) ← rNat bs
  if bs.length < n then none else some (bs.take n, bs.drop n)

/-- n values. -/
def rMany {α : Type} (f : Rd α) : Nat → Rd (List α)
  | 0 => fun bs => some ([], bs)
  | n + 1 => fun bs => do
    let (x, bs) ← f bs
    let (xs, bs) ← rMany f n bs
    some (x :: xs, bs)

/-- A list with its length; no more elements than bytes. -/
def rList {α : Type} (f : Rd α) : Rd (List α) := fun bs => do
  let (n, bs) ← rNat bs
  if bs.length < n then none else rMany f n bs

/-- A Boolean. -/
def rBool : Rd Bool := fun bs => do
  let (n, bs) ← rNat bs
  some (n ≠ 0, bs)

/-- A table of numbers. -/
def rTbl : Rd (Tbl Nat) := rList fun bs => do
  let (k, bs) ← rNat bs
  let (v, bs) ← rNat bs
  some ((k, v), bs)

/-- A queue's fields at a place. -/
def at_ (xs : List Nat) (i : Nat) : Nat := xs.getD i 0

/-- An SQ from its fields (Table 14-5). -/
def sqOfFields (f : List Nat) : SubQ :=
  { network := at_ f 0 = 1, base := at_ f 1, entries := at_ f 2, loc := locOf (at_ f 3), cq := at_ f 4, headAddr := at_ f 5
    slotBytes := at_ f 6 }

/-- A CQ from its fields. -/
def cqOfFields (f : List Nat) : ComplQ :=
  { base := at_ f 0, entries := at_ f 1, loc := locOf (at_ f 2), vector := at_ f 3, coalCount := at_ f 4, coalTime := at_ f 5 }

/-- An SQ. -/
def rSq : Rd (Nat × SubQ) := fun bs => do
  let (k, bs) ← rNat bs
  let (f, bs) ← rList rNat bs
  let (p, bs) ← rNats 6 bs
  let (e, bs) ← rBool bs
  let (sends, bs) ← rTbl bs
  let (accepts, bs) ← rTbl bs
  let (taken, bs) ← rList rNat bs
  some ((k, { sqOfFields f with
    tail := at_ p 0, fetch := at_ p 1, head := at_ p 2, written := at_ p 3, nextAsn := at_ p 4, postAsn := at_ p 5
    error := e, sends := sends, accepts := accepts, taken := taken }), bs)

/-- A CQ. -/
def rCq : Rd (Nat × ComplQ) := fun bs => do
  let (k, bs) ← rNat bs
  let (f, bs) ← rList rNat bs
  let (p, bs) ← rNats 3 bs
  let (e, bs) ← rBool bs
  some ((k, { cqOfFields f with tail := at_ p 0, head := at_ p 1, unsignalled := at_ p 2, error := e }), bs)

/-- An error record's variable part. -/
def rErr : Rd ErrRec := fun bs => do
  let (f, bs) ← rNats 8 bs
  some (⟨at_ f 0, at_ f 1, at_ f 2, at_ f 3, at_ f 4, at_ f 5, at_ f 6, at_ f 7⟩, bs)

/-- A plan copy. -/
def rPlan : Rd PlanCopy := fun bs => do
  let (img, bs) ← rBytes bs
  let (ps, bs) ← rList rBytes bs
  let (ls, bs) ← rList (fun bs => do
    let (k, bs) ← rNat bs
    let (xs, bs) ← rList rBytes bs
    some ((k, xs), bs)) bs
  some (⟨img, ps, ls⟩, bs)

/-- How a job ended. -/
def rEnd : Rd JobEnd := fun bs => do
  let (st, bs) ← rNat bs
  let (er, bs) ← rErr bs
  some (⟨st, er⟩, bs)

/-- The phases a mask of finished ones leaves: the others run from their beginning (R328). -/
def restoredPhases (mask count : Nat) : List Phase :=
  (List.range count).map fun i => if mask.testBit i then { run := .finished } else {}

/-- A job. -/
def rJob : Rd Job := fun bs => do
  let (f, bs) ← rNats 12 bs
  let (network, bs) ← rBool bs
  let (noIrq, bs) ← rBool bs
  let (stopped, bs) ← rBool bs
  let (unm, bs) ← rBool bs
  let (desc, bs) ← rBytes bs
  let (mask, bs) ← rNat bs
  let (count, bs) ← rNat bs
  let (plans, bs) ← rList rPlan bs
  let (ends, bs) ← rList rEnd bs
  let (dropped, bs) ← rTbl bs
  let kind : DescKind := if at_ f 5 = 1 then .plan else if at_ f 5 = 2 then .cancel else .nop
  let j : Job := {
       jid := 0, inst := 0, gen := 0, sq := at_ f 0, pos := at_ f 1, slot := at_ f 2, pass := at_ f 3, asn := at_ f 4
       jstate := .accepted, network := network, unmirrored := unm, kind := kind, desc := desc, noIrq := noIrq
       priority := at_ f 6, deadline := at_ f 7, acceptedAt := at_ f 8, plan := plans.head?, spill := at_ f 9, quota := at_ f 10
       phases := restoredPhases mask count, ended := ends.head?, resultLen := at_ f 11, stopped := stopped
       dropped := dropped.head?, replayed := true }
  if 64 < count then none else some (j, bs)

/-- A refusal. -/
def rRefusal : Rd HeldRefusal := fun bs => do
  let (f, bs) ← rNats 4 bs
  let (er, bs) ← rErr bs
  let (noIrq, bs) ← rBool bs
  some ({ sq := at_ f 0, pos := at_ f 1, gen := at_ f 2, status := at_ f 3, er := er, noIrq := noIrq }, bs)

/-- What an image holds. -/
structure ImageData where
  gen : Nat
  attrs : List (List Nat)
  sqs : List (Nat × SubQ)
  cqs : List (Nat × ComplQ)
  refusals : List HeldRefusal
  jobs : List Job
  erSeq : Nat
  erHeld : List (List Nat)
  deriving DecidableEq, Repr

/-- An image whose header and CRC hold is read (R328). -/
def readImage (img : List Byte) : Option ImageData :=
  let body := img.drop 40
  if img.take 4 ≠ asciiBytes "YIMG" || fld img 4 4 ≠ 1 || fld img 8 8 ≠ img.length || fld img 32 4 ≠ crc32c body then none
  else do
    let (attrs, bs) ← rList (rNats 2) body
    let (sqs, bs) ← rList rSq bs
    let (cqs, bs) ← rList rCq bs
    let (refusals, bs) ← rList rRefusal bs
    let (jobs, bs) ← rList rJob bs
    let (erSeq, bs) ← rNat bs
    let (erHeld, _) ← rList (rNats 3) bs
    some ⟨fld img 24 8, attrs, sqs, cqs, refusals, jobs, erSeq, erHeld⟩

end Sys2Proof.Machine
end

