-- ==== Sys2Proof/Machine/VdpStat.lean ====
section
/-! DEFINITION. Response statuses of the dictionary protocol (Table 21-3). -/

namespace Sys2Proof.Machine

/-- A response status other than OK (Table 21-3). -/
inductive VdpErr
  | noObject
  | noSubindex
  | readOnly
  | typeLength
  | range
  | busy
  | authFail
  | claimed
  | locked
  | useSegments
  | segment
  | notLeader
  | txnReuse
  | malformed
  deriving DecidableEq, Repr

/-- Code of a status. -/
def VdpErr.code : VdpErr → Nat
  | .noObject => 1
  | .noSubindex => 2
  | .readOnly => 3
  | .typeLength => 4
  | .range => 5
  | .busy => 6
  | .authFail => 7
  | .claimed => 8
  | .locked => 9
  | .useSegments => 10
  | .segment => 11
  | .notLeader => 12
  | .txnReuse => 13
  | .malformed => 14

end Sys2Proof.Machine
end

