-- ==== Sys2Proof/Machine/Instances.lean ====
section
/-! DEFINITION. Virtual instances: creation, reset and its reports, freeze and restore, page logging (chapter 15; R298). -/

namespace Sys2Proof.Machine

/-- Instances that are not ABSENT. -/
def presentInsts (s : State) : List Nat :=
  0 :: (s.od.filterMap fun e =>
    if 0x4001 * 256 ≤ e.1 && e.1 < 0x5000 * 256 && e.1 % 256 = 3 && e.2 ≠ 0 then some (e.1 / 256 - 0x4000) else none)

/-- STATE is set, and the twin's view of the instance follows (R409). -/
def setInstSt (n st : Nat) (s : State) : State :=
  let s := odSet (instIdx n) 3 st s
  mirror (instRecord s n) s

/-- The generation after a value: 0 is never current (R319). -/
def nextGen (g : Nat) : Nat := if g = 0xFFFF then 1 else g + 1

/-! ### Creating (R316) -/

/-- CREATE. -/
def createInst (n : Nat) (s : State) : Except VdpErr State :=
  if n = 0 then .error .range
  else if instSt s n ≠ 0 then .error .busy
  else if od s (instIdx n) 0x1B = 0 || od s (instIdx n) 0x2E = 0 then .error .range
  else
    let old := inst s n
    let s := [0x1F, 0x29, 0x2A, 0x2B, 0x2C, 0x3D].foldl (fun s k => odSet (instIdx n) k 0 s) s
    let s := odSet (instIdx n) 4 (nextGen (instGen s n)) s
    let s := odSet (instIdx n) 0x0B (od s (instIdx n) 0x0A) s
    let s := instMod n (fun _ =>
      { rrTail := old.rrTail, rrHeadPos := old.rrHeadPos, rrHeld := old.rrHeld, fqTail := old.fqTail, fqHead := old.fqHead
        imageIn := old.imageIn }) s
    .ok (setInstSt n 1 s)

/-! ### Reset (R320 to R324) -/

/-- Descriptors at steps 1 to 4 are dropped unaccepted; an SQ ends at the first one dropped (R321 step 2). -/
def dropUnaccepted (n : Nat) (s : State) : State :=
  let pend := s.js.jobs.filter fun j => j.inst = n && j.jstate = .pending
  let s := pend.foldl (fun s j =>
    let s := mirror (.retire n j.sq j.asn) s
    let s := sqMod n j.sq (fun q => { q with fetch := min q.fetch j.pos, nextAsn := min q.nextAsn j.asn }) s
    freeEntry j.jid s) s
  instMod n (fun i => { i with sqs := i.sqs.map fun e => (e.1, { e.2 with waiting := none }) }) s

/-- Completions of the old generation that have not been written are chaff (R322). -/
def chaffCompletions (s : State) (n : Nat) : Nat :=
  (s.js.jobs.filter fun j => j.inst = n && j.ended.isSome).length + (inst s n).refusals.length

/-- Steps 1 to 4 of Table 15-3: admission stops, the generation changes, translations and network state go, every task is
stopped with CANCEL. -/
def beginReset (n cause st : Nat) (s : State) : State :=
  let gen := instGen s n
  let s := dropUnaccepted n s
  let s := odAdd (instIdx n) 0x29 (chaffCompletions s n) s
  let s := instMod n (fun i =>
    { i with resetCause := cause, resetGen := gen, destroying := st = 5, refusals := [], fqWaiting := [] }) s
  let s := if st = 5 then s else odSet (instIdx n) 4 (nextGen gen) s
  let s := { s with ms := { s.ms with tlb := s.ms.tlb.filter fun t => t.ctx ≠ .inst n } }
  let s := revokeNet n s
  let s := (slotsWhere s fun t => t.inst = n).foldl (fun s k => stopTask k true s) s
  let s := { s with js := { s.js with jobs := s.js.jobs.map fun j =>
    if j.inst = n && j.ended.isNone then { j with ended := some ⟨0x0601, {}⟩ } else j } }
  setInstSt n st s

/-- RESET_ID after a value: 0 is skipped on wrap (Table 15-4). -/
def nextResetId (x : Nat) : Nat := if x + 1 = 2 ^ 32 then 1 else x + 1

/-- The first 31 bytes of a reset-report record (Table 15-4). -/
def reportBytes (first last id n gen sq cause slot pass flags : Nat) : List Byte :=
  leBytes 8 first ++ leBytes 8 last ++ leBytes 4 id ++ leBytes 2 n ++ leBytes 2 gen ++ leBytes 1 sq ++ leBytes 1 cause ++
  leBytes 2 slot ++ leBytes 1 pass ++ leBytes 1 flags ++ leBytes 1 0

/-- The records of a reset: one for every SQ with accepted jobs that have no CQ entry, or one EMPTY record (R323). A
DESTROY of a frozen instance whose image was read lists none (R328). -/
def resetRecords (s : State) (n id : Nat) : List (List Byte) :=
  let i := inst s n
  let full := if i.imageRead && i.resetCause = 4 then [] else i.sqs.filter fun e => e.2.postAsn < e.2.nextAsn
  match full.length with
  | 0 => [reportBytes 0 0 id n i.resetGen 0xFF i.resetCause 0 0 3]
  | k => full.zipIdx.map fun (e, x) =>
      let q := e.2
      reportBytes q.postAsn (q.nextAsn - 1) id n i.resetGen e.1 i.resetCause (q.fetch % q.entries) (passOf q q.fetch)
        (if x + 1 = k then 1 else 0)

/-- The reset-report ring is full when the next record would reach RR_HEAD (R324). -/
def rrFull (s : State) (n : Nat) : Bool := od s (instIdx n) 0x1B ≤ (inst s n).rrTail - (inst s n).rrHeadPos + 1

/-- A record is written to the ring, whole; the answer is whether it was (R324). -/
def writeReport (n : Nat) (r : List Byte) (s : State) : Bool × State :=
  let entries := od s (instIdx n) 0x1B
  let pos := (inst s n).rrTail
  if entries = 0 then (false, s)
  else
    let bytes := r ++ leBytes 1 (1 - pos / entries % 2)
    match devWriteWhole 0xFE (.inst 0) (od s (instIdx n) 0x1A + 32 * (pos % entries)) bytes s with
    | (some e, s) => (false, noteViolation e s)
    | (none, s) =>
      let s := instMod n (fun i => { i with rrTail := pos + 1 }) s
      (true, if (fld r 0x1D 1).testBit 0 then sendMsix 0 (od s (instIdx n) 0x1C) s else s)

/-- A record has EMPTY set (Table 15-4). -/
def isEmptyRec (r : List Byte) : Bool := (fld r 0x1D 1).testBit 1

/-- A record joins the held ones, which are at most sixteen: an EMPTY one that finds sixteen is dropped and counted, and a
record of jobs takes the place of the oldest EMPTY one (R324; log entry 47). -/
def holdRecord (n : Nat) (r : List Byte) (s : State) : State :=
  let held := (inst s n).rrHeld
  if held.length < 16 then instMod n (fun i => { i with rrHeld := i.rrHeld ++ [r] }) s
  else if isEmptyRec r then odBump (instIdx n) 0x2B s
  else
    match findPos isEmptyRec held with
    | some k => odBump (instIdx n) 0x2B (instMod n (fun i => { i with rrHeld := i.rrHeld.eraseIdx k ++ [r] }) s)
    | none => instMod n (fun i => { i with rrHeld := i.rrHeld ++ [r] }) s

/-- A record is written, held, or dropped when it is EMPTY and sixteen are held (R324). -/
def reportOne (n : Nat) (r : List Byte) (s : State) : State :=
  let hold := holdRecord n r
  if (inst s n).rrHeld ≠ [] || rrFull s n then hold s
  else
    match writeReport n r s with
    | (true, s) => s
    | (false, s) => hold s

/-- Held records are written in order while the ring has room (R324). -/
def drainReports (n : Nat) : List (List Byte) → State → State
  | [], s => s
  | r :: rest, s =>
    if rrFull s n then s
    else
      match writeReport n r s with
      | (true, s) => drainReports n rest (instMod n (fun i => { i with rrHeld := i.rrHeld.drop 1 }) s)
      | (false, s) => s

/-- Step 5: the journal entries of an instance are retired, with the twin's. -/
def retireListed (n : Nat) (s : State) : State :=
  (s.js.jobs.filter fun j => j.inst = n).foldl (fun s j =>
    freeEntry j.jid (mirror (.retire n j.sq j.asn) s)) s

/-- Step 6: the queues of an instance are deleted, on the twin's side too. -/
def deleteQueues (n : Nat) (s : State) : State :=
  let i := inst s n
  let s := i.sqs.foldl (fun s e => mirror (.queueDef n false e.1 []) s) s
  let s := i.cqs.foldl (fun s e => mirror (.queueDef n true e.1 []) s) s
  instMod n (fun i =>
    { rrTail := i.rrTail, rrHeadPos := i.rrHeadPos, rrHeld := i.rrHeld, fqTail := i.fqTail, fqHead := i.fqHead
      imageIn := i.imageIn, erSeq := i.erSeq, logDraining := i.logDraining }) s

/-- An instance's general timers are released (R440, R441). -/
def releaseTimers (n : Nat) (s : State) : State :=
  (List.range 6).foldl (fun s k =>
    let idx := 0x1288 + k
    if od s idx 1 = 3 && od s idx 2 = n then
      let s := odSet idx 2 0xFFFF (odSet idx 1 0 s)
      { s with vd := { s.vd with timers := tdel s.vd.timers k } }
    else s) s

/-- The records of a reset are written or held, and the journal entries of the jobs it lists are retired (R323, R324). -/
def reportReset (n : Nat) (s : State) : State :=
  let id := s.js.nextReset
  let recs := resetRecords s n id
  retireListed n (recs.foldl (fun s r => reportOne n r s) { s with js := { s.js with nextReset := nextResetId id } })

/-- The queues of an instance are reset: what waits in them and the jobs accepted from them end, each of the latter in a
reset-report record, and the queues go. The generation, the queue pairs, the regions and the translations stay (R298; log
entry 24). -/
def resetQueues (n cause : Nat) (s : State) : State :=
  let s := dropUnaccepted n s
  let gen := instGen s n
  let s := instMod n (fun i =>
    { i with resetCause := cause, resetGen := gen, destroying := false, refusals := [], fqWaiting := [] }) s
  let s := (slotsWhere s fun t => t.inst = n).foldl (fun s k => stopTask k true s) s
  deleteQueues n (reportReset n s)

/-- Steps 5 and 6 of Table 15-3. -/
def endReset (n st : Nat) (s : State) : State :=
  let s := reportReset n s
  let s := odSet (instIdx n) 0x0B (od s (instIdx n) 0x0A) s
  let s := deleteNet n (deleteQueues n s)
  let s := if st = 0 then releaseTimers n s else s
  setInstSt n st (odBump (instIdx n) 0x1F s)

/-- A reset trigger (R320): it joins a reset in progress; an ABSENT instance has nothing to reset. Instance 0 stays ACTIVE,
so its whole reset is one step (R298, R314; log entry 24). -/
def resetInst (n cause : Nat) (s : State) : State :=
  if n = 0 then endReset 0 1 (beginReset 0 cause 1 s)
  else if instSt s n = 0 || instSt s n = 2 || instSt s n = 5 then s
  else beginReset n cause 2 s

/-- A CONTROL write of RESET (R320). -/
def controlReset (n : Nat) (s : State) : Except VdpErr State :=
  if n = 0 then .error .range
  else if instSt s n = 0 then .error .busy
  else .ok (resetInst n 3 s)

/-- DESTROY (R317). -/
def destroyInst (n : Nat) (s : State) : Except VdpErr State :=
  if n = 0 then .error .range
  else if instSt s n = 0 || instSt s n = 2 || instSt s n = 5 then .error .busy
  else .ok (beginReset n 4 5 s)

/-- RESET_COMPLETE (R321): once no task of the instance holds a slot. -/
def resetComplete (n : Nat) (s : State) : State :=
  if (instSt s n = 2 || instSt s n = 5) && !(s.js.tasks.any fun e => e.2.inst = n) then
    endReset n (if instSt s n = 5 then 0 else 1) s
  else s

/-- RR_HEAD (R324): held records are written as it advances. -/
def writeRrHead (n v : Nat) (s : State) : Except VdpErr State :=
  let entries := od s (instIdx n) 0x1B
  if entries ≤ v then .error .range
  else
    let i := inst s n
    let step := (v + entries - i.rrHeadPos % entries) % entries
    let s := odSet (instIdx n) 0x1D v (instMod n (fun i => { i with rrHeadPos := min (i.rrHeadPos + step) i.rrTail }) s)
    .ok (drainReports n (inst s n).rrHeld s)

/-! ### Freeze and resume (R325, R326) -/

/-- Whether a phase of the instance is placed: a task of it holds a slot. -/
def phasePlaced (s : State) (n : Nat) : Bool := s.js.tasks.any fun e => e.2.inst = n

/-- A FREEZING instance with no phase placed is FROZEN, and its image is built (R325, R327). -/
def settleFreeze (n : Nat) (s : State) : State :=
  if instSt s n = 3 && !phasePlaced s n then
    let s := setInstSt n 4 s
    let img := buildImage s n
    let now := s.time
    instMod n (fun i => { i with frozenSince := now, imageOut := img, imageRead := false }) s
  else s

/-- A CONTROL write of FREEZE, or that of R450's preparation. -/
def freezeInst (n : Nat) (s : State) : State :=
  let now := s.time
  settleFreeze n (instMod n (fun i => { i with freezeStart := now }) (setInstSt n 3 s))

/-- A CONTROL write of FREEZE (R325, R450). -/
def controlFreeze (n : Nat) (s : State) : Except VdpErr State :=
  if n = 0 then .error .range
  else if s.mode = .freeze || instSt s n ≠ 1 then .error .busy
  else .ok (freezeInst n s)

/-- An instance is ACTIVE again; DEADLINE counts go on from where they stood (R325). -/
def resumeInst (n : Nat) (s : State) : State :=
  let stood := s.time - (inst s n).frozenSince
  let s := { s with js := { s.js with jobs := s.js.jobs.map fun j =>
    if j.inst = n then { j with acceptedAt := j.acceptedAt + stood } else j } }
  setInstSt n 1 (instMod n (fun i => { i with imageOut := [], imageRead := false }) s)

/-- A CONTROL write of RESUME (R326, R450). -/
def controlResume (n : Nat) (s : State) : Except VdpErr State :=
  if n = 0 then .error .range
  else if s.mode = .freeze || instSt s n ≠ 4 then .error .busy
  else .ok (resumeInst n s)

/-- FREEZE_TIMEOUT expires: the instance is ACTIVE again, FREEZE_ABORTS counts it (R326). -/
def freezeExpires (n : Nat) (s : State) : State :=
  if instSt s n = 3 then setInstSt n 1 (odBump (instIdx n) 0x2C s) else s

/-! ### Restore (R328) -/

/-- Whether a job's phases pass the grant checks of R67. -/
def grantsAllow (s : State) (n : Nat) (j : Job) : Bool :=
  match j.plan with
  | some p => (checkQuota s n p.image).isNone
  | none => true

/-- A job of an image enters the journal, with its ASN; while PAIRED its ENTRY record is sent (R14, R328). -/
def restoreJob (n gen : Nat) (j : Job) (s : State) : State :=
  let jid := s.js.nextJid
  let now := s.time
  let img := match j.plan with
    | some p => p.image
    | none => []
  let j' := { j with
    jid := jid, inst := n, gen := gen, copy := freeCopy s, unmirrored := j.unmirrored || pairState s ≠ 3
    acceptedAt := now - j.acceptedAt, phases := wakePhases img (ticks s) j.phases }
  let s := { s with
    js := { s.js with jobs := s.js.jobs ++ [j'], nextJid := jid + 1 }
    ms := { s.ms with planStore := tset s.ms.planStore j'.copy (j.desc, j.plan) } }
  if pairState s = 3 then sendEntry jid s else s

/-- RESTORE. -/
def restoreInst (n : Nat) (s : State) : Except VdpErr State :=
  if n = 0 then .error .range
  else if instSt s n ≠ 0 then .error .busy
  else
    match readImage (inst s n).imageIn with
    | none => .error .range
    | some d =>
      let spill := (d.jobs.map (·.spill)).foldl (· + ·) 0
      if 32768 < s.js.jobs.length + d.jobs.length || od s (instIdx n) 0x0A < spill || !d.jobs.all (grantsAllow s n) then
        .error .busy
      else
        let old := inst s n
        let s := odSet (instIdx n) 4 (d.gen % 65536) s
        let s := odSet (instIdx n) 0x0B (od s (instIdx n) 0x0A - spill) s
        let er : Tbl (Nat × Nat) := d.erHeld.foldl (fun t x => tset t (at_ x 0) (at_ x 1, at_ x 2)) []
        let now := s.time
        let s := instMod n (fun _ =>
          { sqs := d.sqs.foldl (fun t e => tset t e.1 e.2) [], cqs := d.cqs.foldl (fun t e => tset t e.1 e.2) []
            refusals := d.refusals, erHeld := er, erSeq := d.erSeq, frozenSince := now, imageIn := old.imageIn
            rrTail := old.rrTail, rrHeadPos := old.rrHeadPos, rrHeld := old.rrHeld, fqTail := old.fqTail
            fqHead := old.fqHead }) s
        let s := d.sqs.foldl (fun s e => mirror (.queueDef n false e.1 (sqFields e.2)) s) s
        let s := d.cqs.foldl (fun s e => mirror (.queueDef n true e.1 (cqFields e.2)) s) s
        let s := d.jobs.foldl (fun s j => restoreJob n (d.gen % 65536) j s) s
        let s := setInstSt n 4 s
        let img := buildImage s n
        .ok (instMod n (fun i => { i with imageOut := img }) s)

/-! ### Page logging (R329, R330) -/

/-- A LOG_CONTROL write. Once logging into a bitmap ends, LOG_SWITCHES follows when its last marks are made. -/
def writeLogControl (n v : Nat) (s : State) : Except VdpErr State :=
  if 2 < v then .error .range
  else
    let old := od s (instIdx n) 0x3C
    let s := if old = 0 || old = v then s else instMod n (fun i => { i with logDraining := i.logDraining + 1 }) s
    .ok (odSet (instIdx n) 0x3C v s)

/-- LOG_SWITCH_DONE (R330). -/
def execLogSwitchDone (inst : Inst) (s : State) : Host.Outcome State Fault Refusal :=
  .next (unlessHold s (if (Sys2Proof.Machine.inst s inst.val).logDraining = 0 then s
    else odBump (instIdx inst.val) 0x3D (instMod inst.val (fun i => { i with logDraining := i.logDraining - 1 }) s)))

/-! ### Resets from a link (R298) -/

/-- Instances bound to a link: by LINK, and instance 0 by MANAGER_LINK (R297). -/
def linkInsts (s : State) (link : Nat) : List Nat := (presentInsts s).filter fun n => instLink s n = link

/-- Every instance bound to a link is reset with CAUSE 2. -/
def resetLink (link : Nat) (s : State) : State := (linkInsts s link).foldl (fun s n => resetInst n 2 s) s

end Sys2Proof.Machine
end

