-- ==== Sys2Proof/Machine/Queues.lean ====
section
/-! DEFINITION. Doorbell pages: SQ tails, CQ heads, the fault queue's head and resolutions, and the queue commands that
make and query queues (R267, R268, R297 to R300, R306, R310). -/

namespace Sys2Proof.Machine

/-! ### Doorbell pages -/

/-- Whether a link exists: links 1 and 3 only when their port is split (R295). -/
def linkExists (s : State) (link : Nat) : Bool := (links s).contains link

/-- Whether functions are reached in the present mode (Table 22-1, R451, R453). -/
def functionsLive (s : State) : Bool := s.mode = .run || s.mode = .drain || s.mode = .dormant || s.mode = .freeze

/-- Whether an instance's doorbell page on a link is live (R297, Tables 15-1 and 15-3). -/
def pageLive (s : State) (link n : Nat) : Bool :=
  instLink s n = link && (instSt s n = 1 || instSt s n = 3 || instSt s n = 4)

/-- A write to a doorbell page is discarded and counted (R299). -/
def discardDoorbell (s : State) : State := odBump 0x2400 3 s

/-- A write of a doorbell register: arriving, taken by a live page, of 4 or 8 bytes (R297, R299). A size of 12 stands for a write
of 4 bytes at the register's upper half. -/
def doorbell (link n off size value : Nat) (act : Nat → State → State) (s : State) : State :=
  if !functionsLive s || !linkExists s link then s
  else if !pageLive s link n || (size ≠ 4 && size ≠ 8 && size ≠ 12) then discardDoorbell s
  else
    let old := tget 0 (inst s n).doorbell off
    let v := if size = 8 then value % 2 ^ 64 else if size = 12 then value % 2 ^ 32 * 2 ^ 32 + old % 2 ^ 32 else old / 2 ^ 32 * 2 ^ 32 + value % 2 ^ 32
    act v s

/-- A doorbell register reads back the last value written (R299). -/
def keepDoorbell (n off v : Nat) (s : State) : State := instMod n (fun i => { i with doorbell := tset i.doorbell off v }) s

/-- What 8 bytes of a doorbell page read as, from an 8-byte boundary (R297, R299, Table 14-3): a page on a link that is not the
instance's reads as zero, registers read back what was written, and a write-only or absent offset reads as zero. -/
def pageRead (s : State) (link n off : Nat) : Nat :=
  let i := inst s n
  if instLink s n ≠ link then 0
  else if off < 0x100 || (0x100 ≤ off && off < 0x180) || off = 0x200 then tget 0 i.doorbell off
  else if 0x800 ≤ off && off < 0x840 then fld i.cmd (off - 0x800) 8
  else if off = 0x848 then i.cmdStatus
  else if 0x850 ≤ off && off < 0x860 then fld i.cmdResult (off - 0x850) 8
  else 0

/-- TAIL of an SQ as written; a TAIL at or above ENTRIES, or no such SQ, discards the write (R300). -/
def tailWrite (n q v : Nat) (s : State) : State :=
  match sqAt s n q with
  | none => discardDoorbell s
  | some sq =>
    let tail := v % 65536
    if sq.entries ≤ tail then discardDoorbell s
    else keepDoorbell n (8 * q) tail (sqMod n q (fun x => { x with tail := tail }) s)

/-- Bytes that a host stores in its own memory. -/
def hostStores (link : Nat) (ws : List (Nat × List Byte)) (s : State) : State :=
  let hs := tmod {} s.ms.hosts link fun h => { h with mem := ws.foldl (fun m w => memPut m w.1 w.2) h.mem }
  { s with ms := { s.ms with hosts := hs } }

/-- SQ_TAIL_WRITE (R300): the host's stores, and then its write of SQ_TAIL. -/
def execSqTailWrite (link : Link) (inst : Inst) (q : Fin 16) (size value : Nat) (stored : List (Nat × List Byte))
    (s : State) : Host.Outcome State Fault Refusal :=
  .next (doorbell link.val inst.val (8 * q.val) size value (tailWrite inst.val q.val) (hostStores link.val stored s))

/-- CQ_HEAD as written: entries before it are free, and the record slots of those entries (R300, R480). A head that passes
entries not yet written frees those too: they count as free when they are written. The spec does not say whether all ENTRIES
may be unread; the distance is taken modulo ENTRIES, so a CQ may fill up and its old head written again frees nothing
(DESIGN CHOICE, log entry 45). -/
def cqHeadWrite (n c v : Nat) (s : State) : State :=
  match cqAt s n c with
  | none => discardDoorbell s
  | some cq =>
    if cq.entries ≤ v then discardDoorbell s
    else
      let step := (v + cq.entries - cq.head % cq.entries) % cq.entries
      let head := cq.head + step
      let s := keepDoorbell n (0x100 + 8 * c) v (cqMod n c (fun x => { x with head := head }) s)
      let s := instMod n (fun i => { i with erHeld := i.erHeld.filter fun e => !(e.2.1 = c && e.2.2 < head) }) s
      mirror (.queuePos n true c v) s

/-- CQ_HEAD_WRITE (R300). -/
def execCqHeadWrite (link : Link) (inst : Inst) (q : Fin 16) (size value : Nat) (s : State) :
    Host.Outcome State Fault Refusal :=
  .next (doorbell link.val inst.val (0x100 + 8 * q.val) size value (cqHeadWrite inst.val q.val) s)

/-- Fault records that waited are written while the queue has room, in FAULT_ID order (R267). -/
def drainFaults (n : Nat) : Nat → State → State
  | 0, s => s
  | fuel + 1, s =>
    match (inst s n).fqWaiting with
    | [] => s
    | f :: rest =>
      if faultQueueFull s n || od s (instIdx n) 0x26 = 1 then s
      else drainFaults n fuel (writeFault f (instMod n (fun i => { i with fqWaiting := rest }) s))

/-- FAULT_HEAD as written (R267, R300). -/
def faultHead (n v : Nat) (s : State) : State :=
  let entries := od s (instIdx n) 0x22
  if entries ≤ v then discardDoorbell s
  else
    let i := inst s n
    let step := (v + entries - i.fqHead % entries) % entries
    let s := keepDoorbell n 0x200 v (instMod n (fun i => { i with fqHead := min (i.fqHead + step) i.fqTail }) s)
    drainFaults n (inst s n).fqWaiting.length s

/-- FAULT_HEAD_WRITE (R267). -/
def execFaultHeadWrite (link : Link) (inst : Inst) (size value : Nat) (s : State) : Host.Outcome State Fault Refusal :=
  .next (doorbell link.val inst.val 0x200 size value (faultHead inst.val) s)

/-! ### Fault resolution (R268, R269) -/

/-- The task parked under a FAULT_ID for an instance. -/
def parkedTask (s : State) (n id : Nat) : Option (Nat × Task) :=
  s.js.tasks.find? fun e => e.2.inst = n && (match e.2.parked with
    | some p => decide (p.id = id)
    | none => false)

/-- The zone that holds the fault of a FAULT_ID for an instance (log entry 49). -/
def parkedZone (s : State) (n id : Nat) : Option (Zone × Parked) :=
  s.net.zones.findSome? fun z => match z.parked with
    | some p => if z.inst = n && p.id = id && !zoneFailed s z then some (z, p) else none
    | none => none

/-- A parked job fails with TRANSLATION_FAULT: its record carries the fault record's fields (R269). -/
def failParked (jid : Nat) (p : Parked) (s : State) : State :=
  failJob jid 0x0301
    { address := p.fr.address, detail := p.fr.level, detail2 := p.id, reason := p.fr.reason, unit := p.fr.unit,
      stage := p.fr.stage } s

/-- A resolution of a fault; one that comes once the fault timeout has run loses to it (R268, R269). -/
def resolve (jid unit v : Nat) (p : Parked) (retry : State → State) (s : State) : State :=
  let act := bitsOf v 39 32
  if 1 < act || bitsOf v 63 40 ≠ 0 then odBump 0x2302 4 s
  else if od s 0x2300 3 * 1000 * perUs ≤ s.time - p.since then
    failParked jid p (odBump 0x2302 2 (odBump 0x2302 3 (odBump (0x3100 + unit) 6 s)))
  else if act = 0 then retry s
  else failParked jid p s

/-- A fault timeout is reported: a resolution that comes at this moment has lost to it (R253, R269). -/
def timeOut (jid : Nat) (p : Parked) (s : State) : State :=
  let now := s.time
  let s := { s with js := { s.js with
    lostFaults := (p.id, p.fr.unit, now) :: s.js.lostFaults.filter fun x => x.2.2 = now } }
  failParked jid p (odBump 0x2302 2 s)

/-- A write of FAULT_RESOLVE (R268). -/
def faultResolve (n v : Nat) (s : State) : State :=
  match parkedTask s n (v % 2 ^ 32), parkedZone s n (v % 2 ^ 32) with
  | some (slot, t), _ =>
    match t.parked with
    | none => odBump 0x2302 4 s
    | some p => resolve t.jid t.unit v p (fun s => setFlags slot flagFault (taskMod slot (fun t => { t with parked := none }) s)) s
  | none, some (z, p) =>
    resolve z.jid unitExch v p (fun s => zoneMod z.jid z.stage (fun y => { y with parked := none }) s) s
  | none, none =>
    match s.js.lostFaults.find? fun x => x.1 = v % 2 ^ 32 && x.2.2 = s.time with
    | some (_, unit, _) => odBump 0x2302 3 (odBump (0x3100 + unit) 6 s)
    | none => odBump 0x2302 4 s

/-- FAULT_RETRY (R268). -/
def execFaultRetry (link : Link) (inst : Inst) (size value : Nat) (s : State) : Host.Outcome State Fault Refusal :=
  .next (doorbell link.val inst.val 0x208 (if size = 8 then 8 else 0) value (faultResolve inst.val) s)

/-- FAULT_FAIL (R268). -/
def execFaultFail (link : Link) (inst : Inst) (size value : Nat) (s : State) : Host.Outcome State Fault Refusal :=
  .next (doorbell link.val inst.val 0x208 (if size = 8 then 8 else 0) value (faultResolve inst.val) s)

/-- FAULT_TIMEOUT (R269): the fault timeout of a parked task expires, or, beyond the task slots, that of the fault a landing
zone holds: 65,536 is the first zone (log entry 49). -/
def execFaultTimeout (slot : Nat) (s : State) : Host.Outcome State Fault Refusal :=
  .next (unlessHold s (match taskAt s slot, s.net.zones[slot - 65536]? with
    | some t, _ =>
      match t.parked with
      | some p => timeOut t.jid p s
      | none => s
    | none, some z =>
      match z.parked with
      | some p => if 65536 ≤ slot then timeOut z.jid p s else s
      | none => s
    | none, none => s))

/-! ### Queue commands (R310) -/

/-- CMD_STATUS values (Table 14-6). -/
def cmdInvalid : Nat := 2
/-- QUOTA. -/
def cmdQuota : Nat := 3
/-- EXISTS. -/
def cmdExists : Nat := 4
/-- NOT_FOUND. -/
def cmdNotFound : Nat := 5
/-- IN_USE. -/
def cmdInUse : Nat := 6

/-- Whether a byte outside the command's fields and beyond the reserved bytes 1 to 7 is not 0: fields as offset, size. -/
def absentSet (cmd : List Byte) (fields : List (Nat × Nat)) : Bool :=
  (List.range 56).any fun k =>
    let o := 8 + k
    !(fields.any fun f => f.1 ≤ o && o < f.1 + f.2) && fld cmd o 1 ≠ 0

/-- A queue command runs: CMD, in eight writes, and CMD_GO written on a live page; its status and result; `again` more writes of
CMD_GO come while CMD_STATUS is BUSY, and CMD_DISCARDS counts them (R299, R310, log entry 42). -/
def runCmd (link n op : Nat) (cmd : List Byte) (again : Nat) (fields : List (Nat × Nat))
    (act : List Byte → State → (Nat × List Byte) × State) (s : State) : State :=
  if !functionsLive s || !linkExists s link then s
  else if !pageLive s link n then odAdd 0x2400 3 (9 + again) s
  else
    let c := slice cmd 0 64
    let s := instMod n (fun i => { i with cmd := c }) s
    let bad := fld c 0 1 ≠ op || absentSet c fields
    let (r, s) := if bad then ((cmdInvalid, []), s) else act c s
    odAdd 0x2400 4 again (instMod n (fun i => { i with cmdStatus := r.1, cmdResult := slice r.2 0 16 }) s)

/-- A power of two in a range. -/
def pow2In (x lo hi : Nat) : Bool := lo ≤ x && x ≤ hi && 2 ^ Nat.log2 x = x

/-- CREATE_CQ. -/
def createCq (n : Nat) (c : List Byte) (s : State) : (Nat × List Byte) × State :=
  let base := fld c 8 8
  let entries := fld c 0x10 4
  let loc := fld c 0x14 1
  let q := fld c 0x15 1
  let vec := fld c 0x16 2
  let count := fld c 0x18 1
  let time := fld c 0x1A 2
  if base % 4096 ≠ 0 || !pow2In entries 16 65536 || 1 < loc || 15 < q || 2047 < vec || time < 1 || 1000 < time then
    ((cmdInvalid, []), s)
  else if (cqAt s n q).isSome then ((cmdExists, []), s)
  else
    let cq : ComplQ := { base := base, entries := entries, loc := locOf loc, vector := vec, coalCount := count,
                         coalTime := time }
    let s := instMod n (fun i => { i with cqs := tset i.cqs q cq }) s
    ((0, []), mirror (.queueDef n true q (cqFields cq)) s)

/-- CREATE_CQ (R310, Table 14-5). -/
def execCreateCq (link : Link) (inst : Inst) (cmd : CmdRun) (s : State) : Host.Outcome State Fault Refusal :=
  .next (runCmd link.val inst.val 1 cmd.block cmd.again
    [(8, 8), (0x10, 4), (0x14, 1), (0x15, 1), (0x16, 2), (0x18, 1), (0x1A, 2)] (createCq inst.val) s)

/-- CREATE_SQ. -/
def createSq (n : Nat) (c : List Byte) (s : State) : (Nat × List Byte) × State :=
  let base := fld c 8 8
  let entries := fld c 0x10 4
  let loc := fld c 0x14 1
  let q := fld c 0x15 1
  let cq := fld c 0x16 1
  let kind := fld c 0x17 1
  let head := fld c 0x18 8
  let sb := fld c 0x20 4
  let bad := base % 4096 ≠ 0 || 1 < loc || 15 < q || 15 < cq || 1 < kind ||
    (kind = 0 && (!pow2In entries 16 65536 || head % 8 ≠ 0 || sb ≠ 0)) ||
    (kind = 1 && (!pow2In entries 16 4096 || loc ≠ 0 || head ≠ 0 || !pow2In sb 4096 2097152))
  if bad then ((cmdInvalid, []), s)
  else if (sqAt s n q).isSome then ((cmdExists, []), s)
  else if (cqAt s n cq).isNone then ((cmdNotFound, []), s)
  else
    let sq : SubQ := { network := kind = 1, base := base, entries := entries, loc := locOf loc, cq := cq, headAddr := head,
                       slotBytes := sb }
    let s := instMod n (fun i => { i with sqs := tset i.sqs q sq }) s
    ((0, []), mirror (.queueDef n false q (sqFields sq)) s)

/-- CREATE_SQ (R310, Table 14-5). -/
def execCreateSq (link : Link) (inst : Inst) (cmd : CmdRun) (s : State) : Host.Outcome State Fault Refusal :=
  .next (runCmd link.val inst.val 2 cmd.block cmd.again
    [(8, 8), (0x10, 4), (0x14, 1), (0x15, 1), (0x16, 1), (0x17, 1), (0x18, 8), (0x20, 4)] (createSq inst.val) s)

/-- Jobs of a deleted SQ that are not accepted leave the journal (log entry 46). -/
def dropSqJobs (n q : Nat) (s : State) : State :=
  (s.js.jobs.filter fun j => j.inst = n && j.sq = q && j.gen = instGen s n).foldl (fun s j =>
    freeEntry j.jid (mirror (.retire n q j.asn) s)) s

/-- DELETE_SQ: an SQ with accepted jobs whose completions are not written, or to which a SUBMIT queue pair is bound, is in use:
an accepted job is finished when it is accounted for (R12, R23; log entry 46). -/
def deleteSq (n : Nat) (c : List Byte) (s : State) : (Nat × List Byte) × State :=
  let q := fld c 0x15 1
  if 15 < q then ((cmdInvalid, []), s)
  else if (sqAt s n q).isNone then ((cmdNotFound, []), s)
  else if (s.js.jobs.any fun j => j.inst = n && j.sq = q && j.gen = instGen s n && j.jstate ≠ .pending) ||
      (s.net.qps.any fun e => e.2.inst = n && e.2.gen = instGen s n && e.2.use = 1 && e.2.sq = q) then ((cmdInUse, []), s)
  else
    let s := instMod n (fun i => { i with sqs := tdel i.sqs q, refusals := i.refusals.filter fun r => r.sq ≠ q })
      (dropSqJobs n q s)
    ((0, []), mirror (.queueDef n false q []) s)

/-- DELETE_SQ (R310, Table 14-5). -/
def execDeleteSq (link : Link) (inst : Inst) (cmd : CmdRun) (s : State) : Host.Outcome State Fault Refusal :=
  .next (runCmd link.val inst.val 3 cmd.block cmd.again [(0x15, 1)] (deleteSq inst.val) s)

/-- DELETE_CQ: a CQ to which an SQ is bound is in use. -/
def deleteCq (n : Nat) (c : List Byte) (s : State) : (Nat × List Byte) × State :=
  let q := fld c 0x15 1
  if 15 < q then ((cmdInvalid, []), s)
  else if (cqAt s n q).isNone then ((cmdNotFound, []), s)
  else if (inst s n).sqs.any fun e => e.2.cq = q then ((cmdInUse, []), s)
  else
    let s := instMod n (fun i => { i with cqs := tdel i.cqs q, erHeld := i.erHeld.filter fun e => e.2.1 ≠ q }) s
    ((0, []), mirror (.queueDef n true q []) s)

/-- DELETE_CQ (R310, Table 14-5). -/
def execDeleteCq (link : Link) (inst : Inst) (cmd : CmdRun) (s : State) : Host.Outcome State Fault Refusal :=
  .next (runCmd link.val inst.val 4 cmd.block cmd.again [(0x15, 1)] (deleteCq inst.val) s)

/-- STATE of an SQ for QUERY: a descriptor is visible and cannot be taken, or the queue is in ERROR, or it runs. -/
def sqQueryState (s : State) (n k : Nat) (q : SubQ) : Nat :=
  let pendingJob := s.js.jobs.any fun j => j.inst = n && j.sq = k && j.gen = instGen s n && j.jstate = .pending
  if q.error then 3
  else if q.waiting.isSome || pendingJob || (slotVisible q && !admitOpen s n) then 2 else 1

/-- STATE of a CQ for QUERY: full is stopped by back-pressure. -/
def cqQueryState (q : ComplQ) : Nat := if q.error then 3 else if q.entries ≤ q.tail - q.head then 2 else 1

/-- QUERY: HEAD, TAIL and STATE of a queue; an absent one answers state 0. -/
def queryQueue (n : Nat) (c : List Byte) (s : State) : (Nat × List Byte) × State :=
  let q := fld c 0x15 1
  let kind := fld c 0x16 1
  let ans := fun (h t st : Nat) => ((0, leBytes 4 h ++ leBytes 4 t ++ leBytes 4 st), s)
  if 15 < q || 1 < kind then ((cmdInvalid, []), s)
  else if kind = 0 then
    match sqAt s n q with
    | some x =>
      let tail := if x.network then (x.fetch + (x.sends.filter fun e => x.fetch ≤ e.1).length) % x.entries else x.tail
      ans (x.head % x.entries) tail (sqQueryState s n q x)
    | none => ans 0 0 0
  else
    match cqAt s n q with
    | some x => ans (x.head % x.entries) (x.tail % x.entries) (cqQueryState x)
    | none => ans 0 0 0

/-- QUERY (R310, Table 14-5). -/
def execQuery (link : Link) (inst : Inst) (cmd : CmdRun) (s : State) : Host.Outcome State Fault Refusal :=
  .next (runCmd link.val inst.val 10 cmd.block cmd.again [(0x15, 1), (0x16, 1)] (queryQueue inst.val) s)

end Sys2Proof.Machine
end

