-- ==== Sys2Proof/Machine/Network.lean ====
section
/-! DEFINITION. The network: arrivals, acknowledgements, congestion, planes and migration; queue-pair and region commands
(R142 to R158, R310). -/

namespace Sys2Proof.Machine

/-! ### What a queue pair does with a message -/

/-- A network SQ takes SENDs: it has a free slot, and its instance's admission is open (R157; ch. 15). -/
def sqTakes (s : State) (n : Nat) (q : SubQ) (pos : Nat) : Bool :=
  q.network && !q.error && admitOpen s n && pos < q.head + q.entries

/-- Position of the next slot that a SEND fills (R156). -/
def sendPos (q : SubQ) : Nat := q.sends.foldl (fun p e => max p (e.1 + 1)) q.fetch

/-- A job submission arrives (R156, R157). -/
def submitArrives (k : Nat) (q : QP) (payload : List Byte) (s : State) : RxRes × State :=
  match sqAt s q.inst q.sq with
  | none => (.rnr, s)
  | some x =>
    let pos := sendPos x
    if !sqTakes s q.inst x pos then (.rnr, s)
    else
      match devWrite unitExch (.inst q.inst) (sqSlotAddr x pos) (payload.take x.slotBytes) s with
      | (some f, s) => (.rnr, sqMod q.inst q.sq (fun x => { x with error := true }) (noteViolation f s))
      | (none, s) =>
        (.ok, sqMod q.inst q.sq (fun x =>
          { x with sends := tset x.sends pos payload.length, senders := tset x.senders pos k }) s)

/-- A SEND arrives (R145, R156, R163). -/
def rxSend (k : Nat) (payload : List Byte) (s : State) : RxRes × State :=
  match qpAt s k with
  | none => (.refuse .invalidRequest, s)
  | some q =>
    if 2 ^ 31 < payload.length then (.refuse .invalidRequest, s)
    else if q.use = 1 then submitArrives k q payload s
    else if q.use = 2 then controlArrives k q.inst payload s
    else (.refuse .invalidRequest, s)

/-- The region a remote access may use, with the address of its first byte (R146). -/
def regionFor (s : State) (q : QP) (key address len : Nat) (write : Bool) : Option Nat :=
  match regionAt s key with
  | some r =>
    if r.inst = q.inst && !r.zone && address + len ≤ r.length && (if write then r.write else r.read) then some (r.base + address)
    else none
  | none => none

/-- An RDMA WRITE arrives (R146, Table 12-4). -/
def rxWrite (k key address : Nat) (data : List Byte) (s : State) : RxRes × State :=
  match qpAt s k with
  | none => (.refuse .invalidRequest, s)
  | some q =>
    if q.use ≠ 3 || 2 ^ 31 < data.length then (.refuse .invalidRequest, s)
    else
      match regionFor s q key address data.length true with
      | none => (.refuse .remoteAccess, s)
      | some a =>
        match devWriteWhole unitExch (.inst q.inst) a data s with
        | (some f, s) => (.refuse .remoteAccess, noteViolation f s)
        | (none, s) => (.ok, s)

/-- An RDMA WRITE with immediate arrives: a segment for a landing zone (R164). -/
def rxWriteImm (k key address : Nat) (data : List Byte) (imm : Nat) (s : State) : RxRes × State :=
  match qpAt s k with
  | none => (.refuse .invalidRequest, s)
  | some q =>
    if q.use ≠ 2 || 2 ^ 31 < data.length then (.refuse .invalidRequest, s)
    else
      match s.net.zones.find? fun z => z.inst = q.inst && z.key = key with
      | none => staleSegment k q.inst key imm s
      | some z =>
        match regionAt s key with
        | some r =>
          if r.zone && address + data.length ≤ r.length && data.length ≤ 65536 then segmentArrives k z address data imm s
          else (.refuse .remoteAccess, s)
        | none => (.refuse .remoteAccess, s)

/-- An RDMA READ arrives (R146, Table 12-4). -/
def rxRead (k key address len : Nat) (s : State) : RxRes × State :=
  match qpAt s k with
  | none => (.refuse .invalidRequest, s)
  | some q =>
    if q.use ≠ 3 || 2 ^ 31 < len then (.refuse .invalidRequest, s)
    else
      match regionFor s q key address len false with
      | none => (.refuse .remoteAccess, s)
      | some a =>
        match devRead unitExch (.inst q.inst) a len s with
        | (.ok b, s) => (.data b, s)
        | (.error f, s) => (.refuse .remoteAccess, noteViolation f s)

/-! ### Packets (R143, R144, R147, R149, R152) -/

/-- Whether frames arrive on a port: it is up and its plane's units run (Tables 07-6, 22-1). -/
def portLive (s : State) (p : Nat) : Bool :=
  od s (0x2800 + p) 1 = 2 && (s.mode = .run || s.mode = .drain || s.mode = .freeze)

/-- The queue pair a packet is for (R147). A parity error in the winning row drops the packet, and the runtime writes the
entry again (R398). -/
def classifyPkt (p : Pkt) (s : State) : Option Nat × State :=
  let g := tget {} s.js.groups 0
  let f := gsearch g (classKey p.dst p.qpn)
  let s := countSearch 0 f s
  match f.first with
  | none => (none, odBump 0x2821 1 s)
  | some (i, e) =>
    if (g.rowsOf i).any s.js.badRows.contains then (none, odBump 0x2821 1 (repairClass i s))
    else (some e.result, s)

/-- An answer to the sender of a packet. -/
def answer (k psn : Nat) (m : RoceMsg) (s : State) : State := sendPacket k psn m s

/-- A packet that a queue pair cannot take: an invalid-request NAK, the error state, and the event is counted (R144). -/
def refusePacket (k psn : Nat) (s : State) : State :=
  qpFail k 0x0702 (answer k psn (.nak .invalidRequest) (netMod (fun n => { n with refused := n.refused + 1 }) s))

/-- A frame that finds the receive buffer full is dropped and counted (R148). -/
def dropFull (port : Nat) (s : State) : State := odBump (0x2800 + port) 5 s

/-- A CNP to the sending queue pair, at most one in CNP_GAP (R149). -/
def sendCnp (k : Nat) (s : State) : State :=
  match qpAt s k with
  | none => s
  | some q =>
    let now := s.time
    let due : Bool := match q.cnpAt with
      | some t => decide (od s 0x2820 4 * perUs ≤ now - t)
      | none => true
    if due then answer k 0 .cnp (qpMod k (fun q => { q with cnpAt := some now }) s) else s

/-- What every packet of a queue pair does first: MigReq on an ARMED one, CE (R149, R152). -/
def pktMarks (k : Nat) (p : Pkt) (s : State) : State :=
  let s := if p.ce then sendCnp k s else s
  match qpAt s k with
  | some q => if p.mig && q.path = .armed then migrate k s else s
  | none => s

/-- A message in order, a duplicate, or one past a gap (R144, R153). -/
def wireArrive (p : Pkt) (size : Nat) (again : Bool) (act : Nat → State → RxRes × State) (s : State) : State :=
  if !portLive s p.port.val then s
  else if p.full then dropFull p.port.val s
  else
    match classifyPkt p s with
    | (none, s) => s
    | (some k, s) =>
      let s := pktMarks k p s
      match qpAt s k with
      | none => s
      | some q =>
        if q.err then s
        else if p.broken then refusePacket k p.psn s
        else
          let n := packets q.mtu size
          let d := psnDist q.rxPsn p.psn
          let run := fun (fresh : Bool) (s : State) =>
            let (r, s) := act k s
            let took := if fresh then qpMod k (fun q => { q with rxPsn := psnAdd p.psn n, nakSent := false }) s else s
            match r with
            | .ok => answer k (psnAdd p.psn (n - 1)) .ack took
            | .data b => answer k p.psn (.readResponse b) took
            | .rnr => answer k p.psn (.nak (.rnr (od s 0x2820 9))) s
            | .refuse .invalidRequest => refusePacket k p.psn s
            | .refuse c => answer k p.psn (.nak c) s
          if d = 0 then run true s
          else if 2 ^ 23 ≤ d then (if again then run false s else answer k (psnAdd q.rxPsn (2 ^ 24 - 1)) .ack s)
          else if q.nakSent then s
          else answer k q.rxPsn (.nak .sequence) (qpMod k (fun q => { q with nakSent := true }) s)

/-! ### Acknowledgements of what the device sent -/

/-- Messages up to a PSN are acknowledged. -/
def ackTo (k psn : Nat) (s : State) : State :=
  match qpAt s k with
  | none => s
  | some q =>
    let done := q.sendQ.takeWhile fun m => psnDist (psnAdd m.psn (m.count - 1)) psn < 2 ^ 23
    let s := qpMod k (fun q =>
      { q with sendQ := q.sendQ.drop done.length, retries := if done.isEmpty then q.retries else 0
               rnrs := if done.isEmpty then q.rnrs else 0 }) s
    done.foldl (fun s m => txDone m s) s

/-- A retry (R143, R152, R155): sent again, migrated at half the retry count, or given up. A queue pair whose transmissions are
held makes none. -/
def retryQp (k : Nat) (s : State) : State :=
  match qpAt s k with
  | none => s
  | some q =>
    if q.heldSince.isSome then s else
    let n := q.retries + 1
    let s := qpMod k (fun q => { q with retries := n }) s
    if q.path = .armed && planeFit s q.plane && planeFit s (1 - q.plane) && (q.retry + 1) / 2 ≤ n then migrate k s
    else if q.retry < n then qpFail k 0x0702 s
    else resend k s

/-- A remote-access NAK: the job of a SINK_REMOTE write fails with ACCESS_VIOLATION (R159). -/
def accessNak (k : Nat) (s : State) : State :=
  match qpAt s k with
  | none => s
  | some q =>
    let s := match q.sendQ.head? with
      | some m =>
        match m.why with
        | .sink jid stage _ =>
          let a := match m.msg with
            | .write _ a _ => a
            | _ => 0
          match slotOf s jid stage with
          | some (slot, _) => failTask slot 0x0302 { address := a } s
          | none => s
        | _ => s
      | none => s
    qpFail k 0x0702 s

/-- The oldest message of a queue pair is done, over the fabric. -/
def fabricDone (k : Nat) (s : State) : State :=
  match qpAt s k with
  | none => s
  | some q =>
    match q.sendQ with
    | [] => s
    | m :: rest => txDone m (qpMod k (fun q => { q with sendQ := rest }) s)

/-- The front message of the fabric arrives, if a test names it; one that finds its receiver not ready waits. -/
def fabricArrive (is_ : RoceMsg → Bool) (act : RoceMsg → Nat → State → RxRes × State) (s : State) : State :=
  match s.net.fabric with
  | [] => s
  | f :: rest =>
    if !is_ f.msg then s
    else
      match qpAt s f.dst with
      | none => netMod (fun n => { n with fabric := rest }) s
      | some q =>
        if q.err then qpFail f.src 0x0702 (netMod (fun n => { n with fabric := rest }) s)
        else
          match act f.msg f.dst s with
          | (.rnr, s) => s
          | (.refuse .remoteAccess, s) => accessNak f.src (netMod (fun n => { n with fabric := n.fabric.drop 1 }) s)
          | (.refuse _, s) =>
            qpFail f.src 0x0702 (qpFail f.dst 0x0702 (netMod (fun n => { n with refused := n.refused + 1 }) s))
          | (_, s) => fabricDone f.src (netMod (fun n => { n with fabric := n.fabric.drop 1 }) s)

/-- Payload of a SEND. -/
def sendPayload : RoceMsg → List Byte
  | .send p => p
  | _ => []

/-- Whether a message is a SEND. -/
def isSendMsg : RoceMsg → Bool
  | .send _ => true
  | _ => false

/-- ROCE_SEND (R156, R163). -/
def execRoceSend (a : Arrival) (payload : List Byte) (s : State) : Host.Outcome State Fault Refusal :=
  .next (match a with
    | .wire p => wireArrive p payload.length false (fun k s => rxSend k payload s) s
    | .fabric => fabricArrive isSendMsg (fun m k s => rxSend k (sendPayload m) s) s)

/-- A SEND that is an exchange control message of one TYPE. -/
def controlRow (ty : Byte) (a : Arrival) (msg : List Byte) (s : State) : State :=
  match a with
  | .wire p =>
    let m := splice msg 0 [ty]
    wireArrive p m.length false (fun k s => rxSend k m s) s
  | .fabric => fabricArrive (fun m => isSendMsg m && (sendPayload m).head? = some ty) (fun m k s => rxSend k (sendPayload m) s) s

/-- OPEN (R164). -/
def execOpenMsg (a : Arrival) (msg : List Byte) (s : State) : Host.Outcome State Fault Refusal := .next (controlRow 1 a msg s)

/-- GRANT (R164). -/
def execGrantMsg (a : Arrival) (msg : List Byte) (s : State) : Host.Outcome State Fault Refusal := .next (controlRow 2 a msg s)

/-- END (R164). -/
def execEndMsg (a : Arrival) (msg : List Byte) (s : State) : Host.Outcome State Fault Refusal := .next (controlRow 3 a msg s)

/-- RDMA_WRITE (R146). -/
def execRdmaWrite (a : Arrival) (key address : Nat) (data : List Byte) (s : State) : Host.Outcome State Fault Refusal :=
  .next (match a with
    | .wire p => wireArrive p data.length false (fun k s => rxWrite k key address data s) s
    | .fabric => fabricArrive (fun m => match m with
        | .write _ _ _ => true
        | _ => false) (fun m k s => match m with
        | .write key address data => rxWrite k key address data s
        | _ => (.ok, s)) s)

/-- RDMA_WRITE_IMM (R164). -/
def execRdmaWriteImm (a : Arrival) (key address : Nat) (data : List Byte) (imm : BitVec 32) (s : State) :
    Host.Outcome State Fault Refusal :=
  .next (match a with
    | .wire p => wireArrive p data.length false (fun k s => rxWriteImm k key address data imm.toNat s) s
    | .fabric => fabricArrive (fun m => match m with
        | .writeImm _ _ _ _ => true
        | _ => false) (fun m k s => match m with
        | .writeImm key address data imm => rxWriteImm k key address data imm s
        | _ => (.ok, s)) s)

/-- RDMA_READ (R146). -/
def execRdmaRead (p : Pkt) (key address length : Nat) (s : State) : Host.Outcome State Fault Refusal :=
  .next (wireArrive p length true (fun k s => rxRead k key address length s) s)

/-- An acknowledgement, NAK or CNP for a queue pair. -/
def replyArrives (p : Pkt) (act : Nat → State → State) (s : State) : State :=
  if !portLive s p.port.val then s
  else if p.full then dropFull p.port.val s
  else
    match classifyPkt p s with
    | (none, s) => s
    | (some k, s) =>
      let s := pktMarks k p s
      if p.broken then refusePacket k p.psn s else act k s

/-- An ACK for a queue pair (R143): every message up to the packet's PSN. One that reaches the queue pair at the moment its
acknowledgement timeout was reported has lost to it: it is discarded, and LATE of the network unit counts it (R253; log entry
51). -/
def ackReply (k psn : Nat) (s : State) : State :=
  match qpAt s k with
  | some q =>
    if q.timedOut = some s.time then odBump (0x3100 + 0xBC) 6 (qpMod k (fun q => { q with timedOut := none }) s)
    else ackTo k psn s
  | none => s

/-- ACK (R143). -/
def execAckPacket (p : Pkt) (s : State) : Host.Outcome State Fault Refusal :=
  .next (replyArrives p (fun k s => ackReply k p.psn s) s)

/-- ROCE_NAK (R143, R144, R159). -/
def execRoceNak (p : Pkt) (code : NakCode) (s : State) : Host.Outcome State Fault Refusal :=
  .next (replyArrives p (fun k s =>
    let s := ackTo k (psnAdd p.psn (2 ^ 24 - 1)) s
    match code with
    | .rnr _ =>
      match qpAt s k with
      | some q =>
        if q.rnrRetry < 7 && q.rnrRetry < q.rnrs + 1 then qpFail k 0x0702 s
        else qpMod k (fun q => { q with rnrWait := true, rnrs := q.rnrs + 1 }) s
      | none => s
    | .sequence => retryQp k s
    | .invalidRequest => qpFail k 0x0702 s
    | .remoteAccess => accessNak k s) s)

/-- ACK_TIMEOUT (R143, R152, R155): held and suspended queue pairs do not count it. -/
def execAckTimeout (qp : Nat) (s : State) : Host.Outcome State Fault Refusal :=
  .next (unlessHold s (match qpAt s qp with
    | some q =>
      if maySend q && !portsDown s && q.sendQ.any (·.sent) && !isLoop s q then
        retryQp qp (qpMod qp (fun q => { q with timedOut := some s.time }) s)
      else s
    | none => s))

/-- RNR_TIMER (R143). -/
def execRnrTimer (qp : Nat) (s : State) : Host.Outcome State Fault Refusal :=
  .next (unlessHold s (match qpAt s qp with
    | some q => if q.rnrWait then resend qp (qpMod qp (fun q => { q with rnrWait := false }) s) else s
    | none => s))

/-! ### Congestion (R150) -/

/-- on_cnp of R150. -/
def onCnp (rMin : Nat) (q : QP) : QP :=
  let alpha := q.alpha + (1024 - q.alpha) / 16
  { q with alpha := alpha, target := q.rate, rate := max rMin (q.rate - q.rate * alpha / 2048), quiet := 0, cnpSeen := true }

/-- The end of a period without a CNP (R150). -/
def onPeriod (aiStep : Nat) (q : QP) : QP :=
  if q.cnpSeen then { q with cnpSeen := false }
  else
    let quiet := min 255 (q.quiet + 1)
    let target := if 5 < quiet then min 400000 (q.target + aiStep) else q.target
    { q with alpha := q.alpha - q.alpha / 16, quiet := quiet, target := target, rate := (q.rate + target + 1) / 2 }

/-- CNP (R150). -/
def execCnp (p : Pkt) (s : State) : Host.Outcome State Fault Refusal :=
  .next (replyArrives p (fun k s => qpMod k (onCnp (od s 0x2820 1)) s) s)

/-- INC_PERIOD (R150). -/
def execIncPeriod (qp : Nat) (s : State) : Host.Outcome State Fault Refusal :=
  .next (qpMod qp (onPeriod (od s 0x2820 2)) s)

/-! ### Other frames (R142, R147, R154) -/

/-- A configured address of the device (R147). -/
def isLocal (s : State) (a : Nat) : Bool := a = s.net.localIp || a = s.net.localIp6

/-- OTHER_FRAME (R147): ARP, neighbour discovery and echo are answered for the configured addresses; every other frame, and
one that finds the receive buffer full (R148), is dropped and counted; pause frames are ignored. -/
def execOtherFrame (port : Fin 4) (frame : Sys2Proof.Frame) (s : State) : Host.Outcome State Fault Refusal :=
  let drop := odBump (0x2800 + port.val) 5
  .next (if !portLive s port.val then s
    else match frame with
      | .arp t => if t = s.net.localIp then emit (.frame port.val (.arp t)) s else drop s
      | .neighbour t => if t = s.net.localIp6 then emit (.frame port.val (.neighbour t)) s else drop s
      | .echo t b => if isLocal s t then emit (.frame port.val (.echo t b)) s else drop s
      | .echoReply =>
        if s.net.probing.contains port.val then netMod (fun n => { n with probing := n.probing.filter (· ≠ port.val) }) s
        else drop s
      | .pause => s
      | .other | .overrun => drop s)

/-! ### Planes (R151 to R155) -/

/-- Why a port's window fails, as UNFIT_REASON; 0 when it does not. -/
def windowFails (s : State) (w : PortWindow) : Nat :=
  if !w.link then 1
  else if od s 0x2820 5 < w.sym then 2
  else if od s 0x2820 6 < w.unc then 3
  else if w.skewed then 4 else 0

/-- FEC counters of a port (Table 07-6). -/
def countFec (p : Nat) (w : PortWindow) (s : State) : State := odAdd (0x2800 + p) 4 w.unc (odAdd (0x2800 + p) 3 w.sym s)

/-- A plane is no longer standby: queue pairs that were taking it as their alternate have none (Table 07-3). -/
def loseStandby (k : Nat) (s : State) : State :=
  netMod (fun n => { n with qps := n.qps.map fun e =>
    if e.2.path = .rearm && e.2.plane ≠ k then (e.1, { e.2 with path := .migrated }) else e }) s

/-- A plane's window ends with what its two ports show (R151, R152): checking is suspended while DORMANT has the
ports down (R451). -/
def windowEnds (k : Nat) (a b : PortWindow) (s : State) : State :=
  if !(s.mode = .run || s.mode = .drain || s.mode = .freeze) || portsDown s then s
  else
    let s := countFec (2 * k + 1) b (countFec (2 * k) a s)
    let r := if windowFails s a = 0 then windowFails s b else windowFails s a
    if r = 0 then s
    else
      let was := planeState s k
      let s := odSet (0x2810 + k) 2 r (odSet (0x2810 + k) 1 1 s)
      if was = 1 || was = 2 then s
      else
        let s := loseStandby k s
        ((s.net.qps.filter fun e => e.2.plane = k).map (·.1)).foldl (fun s q => leavePlane q s) s

/-- FITNESS_WINDOW (R151). -/
def execFitnessWindow (plane : Fin 2) (a b : PortWindow) (s : State) : Host.Outcome State Fault Refusal :=
  .next (windowEnds plane.val a b s)

/-- PROBE (R154): each port of a plane that has relinquished its role sends an echo to PROBE_TARGET. -/
def execProbe (plane : Fin 2) (s : State) : Host.Outcome State Fault Refusal :=
  let k := plane.val
  .next (if !(s.mode = .run || s.mode = .drain || s.mode = .freeze) || portsDown s ||
      !(planeState s k = 1 || planeState s k = 2) then s
    else
      let target := beNat (leBytes 16 (od s (0x2810 + k) 3))
      let s := odSet (0x2810 + k) 1 2 s
      let s := netMod (fun n => { n with probing := n.probing.filter (fun p => p / 2 ≠ k) ++ [2 * k, 2 * k + 1] }) s
      emit (.frame (2 * k + 1) (.echo target [])) (emit (.frame (2 * k) (.echo target [])) s))

/-- PROBE_TIMEOUT (R154): no reply within 50 µs; REPAIR_TIME starts anew. -/
def execProbeTimeout (port : Fin 4) (s : State) : Host.Outcome State Fault Refusal :=
  .next (if s.net.probing.contains port.val then
      let k := port.val / 2
      let s := netMod (fun n => { n with probing := n.probing.filter (· ≠ port.val) }) s
      odBump (0x2810 + k) 4 (if planeState s k = 2 then odSet (0x2810 + k) 1 1 s else s)
    else s)

/-- What a plane's becoming standby means for a queue pair (R154, R155): one on the other plane that has no alternate, or is
held, takes it through REARM; one held on the plane itself goes on. -/
def standbyQp (k : Nat) (q : QP) : QP :=
  if q.err then q
  else if q.plane ≠ k then (if q.path = .migrated || q.heldSince.isSome then { q with path := .rearm } else q)
  else { q with heldSince := none }

/-- A plane is standby, and held queue pairs whose path it is transmit on it again. -/
def becomeStandby (k : Nat) (s : State) : State :=
  let held := (s.net.qps.filter fun e => e.2.plane = k && e.2.heldSince.isSome && !e.2.err).map (·.1)
  let s := odSet (0x2810 + k) 2 0 (odSet (0x2810 + k) 1 (if held.isEmpty then 3 else 0) s)
  let s := netMod (fun n => { n with qps := n.qps.map fun e => (e.1, standbyQp k e.2) }) s
  held.foldl (fun s q => resume q s) s

/-- REPAIR_TIME (R154, R155): a plane in probing whose windows and probes have all passed is standby. -/
def execRepairTime (plane : Fin 2) (s : State) : Host.Outcome State Fault Refusal :=
  let k := plane.val
  .next (if planeState s k ≠ 2 || (s.net.probing.any fun p => p / 2 = k) then s
    else becomeStandby k s)

/-- REARM (Table 07-3): the alternate is loaded; a queue pair whose transmissions were held continues on it (R155). -/
def execRearm (qp : Nat) (s : State) : Host.Outcome State Fault Refusal :=
  .next (match qpAt s qp with
    | some q =>
      if q.path = .rearm && planeFit s (1 - q.plane) then
        let s := qpMod qp (fun q => { q with path := .armed, heldSince := none }) s
        if !planeFit s q.plane then migrate qp s else if q.heldSince.isSome then resume qp s else s
      else s
    | none => s)

/-- PATH_HOLD (R155): no plane has become standby in time; a queue pair in REARM has one. -/
def execPathHold (qp : Nat) (s : State) : Host.Outcome State Fault Refusal :=
  .next (unlessHold s (match qpAt s qp with
    | some q => if q.heldSince.isSome && q.path ≠ .rearm && !portsDown s then qpFail qp 0x0701 s else s
    | none => s))

/-- A write of MOVE_BACK (R154). -/
def writeMoveBack (k v : Nat) (s : State) : Except VdpErr State :=
  if v ≠ 1 then .error .range
  else if planeState s k ≠ 3 then .error .busy
  else
    let qs := (s.net.qps.filter fun e => e.2.primary = k && e.2.plane ≠ k && e.2.path ≠ .migrated && !e.2.err).map (·.1)
    .ok (qs.foldl (fun s q => migrate q s) s)

/-! ### Queue-pair and region commands (R145, R146, R310) -/

/-- CREATE_QP. -/
def createQp (n : Nat) (c : List Byte) (s : State) : (Nat × List Byte) × State :=
  let use := fld c 8 1
  let sq := fld c 9 1
  let mtu := fld c 10 1
  let sqBad : Bool := if use = 1 then
      (match sqAt s n sq with
        | some q => !q.network
        | none => true)
    else sq ≠ 0
  if use = 0 || 3 < use || mtu = 0 || 5 < mtu || 15 < sq || sqBad then ((cmdInvalid, []), s)
  else if od s (instIdx n) 0x0C ≤ (s.net.qps.filter fun e => e.2.inst = n).length then ((cmdQuota, []), s)
  else
    match (List.range (s.net.qps.length + 1)).find? fun i => i < 65536 && (tfind s.net.qps i).isNone with
    | none => ((cmdQuota, []), s)
    | some i =>
      let q : QP := { inst := n, gen := instGen s n, use := use, sq := sq, mtu := mtu }
      ((0, leBytes 4 i ++ leBytes 4 (qpnOf i)), netMod (fun x => { x with qps := tset x.qps i q }) s)

/-- CREATE_QP (R310, Table 14-5). -/
def execCreateQp (link : Link) (inst : Inst) (cmd : CmdRun) (s : State) : Host.Outcome State Fault Refusal :=
  .next (runCmd link.val inst.val 5 cmd.block cmd.again [(8, 1), (9, 1), (10, 1)] (createQp inst.val) s)

/-- A queue pair of an instance's current generation. -/
def ownQp (s : State) (n k : Nat) : Option QP :=
  match qpAt s k with
  | some q => if q.inst = n && q.gen = instGen s n then some q else none
  | none => none

/-- Messages numbered on from a PSN. -/
def renumber : Nat → List TxMsg → List TxMsg
  | _, [] => []
  | psn, m :: ms => { m with psn := psn } :: renumber (psnAdd psn m.count) ms

/-- A queue pair that has been connected transmits, or leaves a plane that is not fit (R152, R155). -/
def startQp (k : Nat) (fit : Bool) (s : State) : State := if fit then flushQp k s else leavePlane k s

/-- CONNECT_QP. -/
def connectQp (n : Nat) (c : List Byte) (s : State) : (Nat × List Byte) × State :=
  let k := fld c 8 4
  let bad := 2 ^ 24 ≤ fld c 0x0C 4 || 2 ^ 24 ≤ fld c 0x20 4 || 2 ^ 24 ≤ fld c 0x24 4 || 1 < fld c 0x28 1 || 3 < fld c 0x29 1 ||
    31 < fld c 0x2A 1 || 63 < fld c 0x2B 1
  if bad then ((cmdInvalid, []), s)
  else
    match ownQp s n k with
    | none => ((cmdNotFound, []), s)
    | some q =>
      if q.connected || q.err then ((cmdInUse, []), s)
      else
        match classify k (beNat (slice c 0x10 16)) s with
        | none => ((cmdQuota, []), s)
        | some s =>
          let tn := fld c 0x2A 1
          let fit := planeFit s (fld c 0x28 1)
          ((0, []), startQp k fit (qpMod k (fun q =>
            { q with
              connected := true, remoteQpn := fld c 0x0C 4, remoteIp := beNat (slice c 0x10 16), rxPsn := fld c 0x24 4
              sendQ := renumber (fld c 0x20 4) q.sendQ
              txPsn := q.sendQ.foldl (fun p m => psnAdd p m.count) (fld c 0x20 4), primary := fld c 0x28 1, plane := fld c 0x28 1, ports := fld c 0x29 1
              timeoutN := if tn = 0 then 10 else tn, retry := fld c 0x2B 1 % 8, rnrRetry := fld c 0x2B 1 / 8 }) s))

/-- CONNECT_QP (R310, Table 14-5). -/
def execConnectQp (link : Link) (inst : Inst) (cmd : CmdRun) (s : State) : Host.Outcome State Fault Refusal :=
  .next (runCmd link.val inst.val 6 cmd.block cmd.again
    [(8, 4), (0x0C, 4), (0x10, 16), (0x20, 4), (0x24, 4), (0x28, 1), (0x29, 1), (0x2A, 1), (0x2B, 1)] (connectQp inst.val) s)

/-- Submissions that came on a queue pair have no client to notice any more (R158). -/
def forgetSender (k : Nat) (s : State) : State :=
  { s with js := { s.js with
    jobs := s.js.jobs.map fun j => if j.sender = some k then { j with sender := none } else j
    insts := s.js.insts.map fun e => (e.1, { e.2 with
      refusals := e.2.refusals.map fun r => if r.sender = some k then { r with sender := none } else r
      sqs := e.2.sqs.map fun x => (x.1, { x.2 with senders := x.2.senders.filter fun y => y.2 ≠ k }) }) } }

/-- DESTROY_QP: stages using it fail with PEER_UNREACHABLE. -/
def destroyQp (n : Nat) (c : List Byte) (s : State) : (Nat × List Byte) × State :=
  let k := fld c 8 4
  match ownQp s n k with
  | none => ((cmdNotFound, []), s)
  | some _ => ((0, []), forgetSender k (netMod (fun x => { x with qps := tdel x.qps k }) (qpFail k 0x0702 s)))

/-- DESTROY_QP (R310, Table 14-5). -/
def execDestroyQp (link : Link) (inst : Inst) (cmd : CmdRun) (s : State) : Host.Outcome State Fault Refusal :=
  .next (runCmd link.val inst.val 7 cmd.block cmd.again [(8, 4)] (destroyQp inst.val) s)

/-- REGISTER_REGION. -/
def registerRegion (n : Nat) (c : List Byte) (s : State) : (Nat × List Byte) × State :=
  let base := fld c 8 8
  let len := fld c 0x10 8
  let rights := fld c 0x18 1
  if 3 < rights || len = 0 || 2 ^ 48 < base + len then ((cmdInvalid, []), s)
  else if od s (instIdx n) 0x0D ≤ (s.net.regions.filter fun e => e.2.inst = n && !e.2.zone).length then ((cmdQuota, []), s)
  else
    let r : Region := { inst := n, gen := instGen s n, base := base, length := len, read := rights.testBit 0, write := rights.testBit 1 }
    match addRegion r s with
    | none => ((cmdQuota, []), s)
    | some (key, s) => ((0, leBytes 4 key), s)

/-- REGISTER_REGION (R310, Table 14-5). -/
def execRegisterRegion (link : Link) (inst : Inst) (cmd : CmdRun) (s : State) : Host.Outcome State Fault Refusal :=
  .next (runCmd link.val inst.val 8 cmd.block cmd.again [(8, 8), (0x10, 8), (0x18, 1)] (registerRegion inst.val) s)

/-- DEREGISTER_REGION: accesses have all been performed, because each is one step. -/
def deregisterRegion (n : Nat) (c : List Byte) (s : State) : (Nat × List Byte) × State :=
  let key := fld c 8 4
  match regionAt s key with
  | some r => if r.inst = n && !r.zone then ((0, []), dropRegion key s) else ((cmdNotFound, []), s)
  | none => ((cmdNotFound, []), s)

/-- DEREGISTER_REGION (R310, Table 14-5). -/
def execDeregisterRegion (link : Link) (inst : Inst) (cmd : CmdRun) (s : State) : Host.Outcome State Fault Refusal :=
  .next (runCmd link.val inst.val 9 cmd.block cmd.again [(8, 4)] (deregisterRegion inst.val) s)

end Sys2Proof.Machine
end

