-- ==== Sys2Proof/Machine/Dram.lean ====
section
/-! DEFINITION. DRAM channels: scheduling, refresh, row-disturbance protection, ECC, scrubbing, faults, power-down
(chapter 13). -/

namespace Sys2Proof.Machine

/-! ### Channels -/

/-- What a channel's controller keeps. -/
def chan (s : State) (c : Nat) : Chan := tget {} s.dr.chans c

/-- The state with a channel's controller changed. -/
def chanMod (c : Nat) (f : Chan → Chan) (s : State) : State :=
  { s with dr := { s.dr with chans := tmod {} s.dr.chans c f } }

/-- STATE of a channel (Table 13-8). -/
def chanState (s : State) (c : Nat) : Nat := od s (0x2020 + c) 1

/-- Requests waiting at a channel. -/
def chanReqs (s : State) (c : Nat) : List DramReq := tget [] s.ms.reqs c

/-- A sensor that has failed three reads in a row (R281). -/
def sensorFailed (ch : Chan) : Bool := ch.failed.any fun e => 3 ≤ e.2

/-- A channel in power-down or self-refresh becomes active; one that leaves self-refresh applies its band (R281, R292). -/
def wakeChannel (c : Nat) (s : State) : State :=
  let st := chanState s c
  let ch := chan s c
  let s := if st = 2 then odSet (0x2020 + c) 3 ch.band s else s
  if st = 1 || st = 2 then odSet (0x2020 + c) 1 (if sensorFailed ch then 4 else 0) s else s

/-- Channels leave self-refresh. -/
def wakeChannels (s : State) : State :=
  (List.range 12).foldl (fun s c => if chanState s c = 2 then wakeChannel c s else s) s

/-- Bank and row of a channel address (Table 13-3); MAP_C hashes the bank group and the bank with the row (R279). A bank
is ((sub × 2^R + rank) × 4 + bank) × 8 + bank group. -/
def bankRow (s : State) (ca : Nat) (mapC : Bool) : Nat × Nat :=
  let wc := s.dr.widthC
  let wr := s.dr.widthR
  let sub := ca / 64 % 2
  let x := ca / 2 ^ (7 + wc)
  let row := x / 2 ^ (5 + wr)
  let bg := if mapC then (x % 8) ^^^ (row % 8) else x % 8
  let bank := if mapC then (x / 8 % 4) ^^^ (row / 8 % 4) else x / 8 % 4
  let rank := x / 32 % 2 ^ wr
  (((sub * 2 ^ wr + rank) * 4 + bank) * 8 + bg, row)

/-- Channel address of the first byte of a row of a bank; the hash of MAP_C leaves a multiple of 32 rows unchanged. -/
def rowAddress (s : State) (bank row : Nat) : Nat :=
  let wc := s.dr.widthC
  let wr := s.dr.widthR
  let rest := bank / 32
  let sub := rest / 2 ^ wr
  (((row * 2 ^ wr + rest % 2 ^ wr) * 4 + bank / 8 % 4) * 8 + bank % 8) * 2 ^ (7 + wc) + sub * 64

/-- Physical address of a channel address: Table 13-2 read backwards. -/
def physOf (s : State) (c ca : Nat) : Option Nat :=
  match (List.range 8).find? fun r => regionShare s r ≤ ca && ca < regionShare s r + od s (0x2010 + r) 2 / 12 with
  | none => none
  | some r =>
    let co := ca - regionShare s r
    let base := od s (0x2010 + r) 1
    let order := od s (0x2010 + r) 3
    some (base + (if order = 1 then co / 4096 * 49152 + c * 4096 + co % 4096
      else if order = 3 then c * (od s (0x2010 + r) 2 / 12) + co
      else co / 256 * 3072 + c * 256 + co % 256))

/-! ### Scheduling (R284, R285) -/

/-- Urgency of a request from its age in ns and its target (R285). -/
def urgency (s : State) (r : DramReq) : Nat :=
  let age := (s.time - r.arrival) * 40
  if r.target ≤ age then 3 else if r.target * 75 ≤ age * 100 then 2 else if r.target * 50 ≤ age * 100 then 1 else 0

/-- Requests of a port that wait in the channels' queues with urgency 3: they have reached it, and URGENT counts them (Table
13-8). -/
def urgentWaiting (s : State) (port : Nat) : Nat :=
  ((List.range 12).map fun c => ((chanReqs s c).filter fun r => r.port = port && urgency s r = 3).length).foldl (· + ·) 0

/-- A channel's queue is dropped; its requests that had reached urgency 3 stay counted. -/
def dropRequests (c : Nat) (s : State) : State :=
  let urgent := (chanReqs s c).filter fun r => urgency s r = 3
  urgent.foldl (fun s r => odBump (0x2060 + r.port) 2 s) { s with ms := { s.ms with reqs := tdel s.ms.reqs c } }

/-- Whether a port is under penalty on a channel. -/
def throttled (ch : Chan) (port : Nat) : Bool :=
  match tfind ch.penalties port with
  | some p => p.ended.isNone
  | none => false

/-- Whether a port may activate a bank now: its cap for this microsecond, and RAAMMT (R283, R287). -/
def mayActivate (s : State) (c port bank : Nat) : Bool :=
  let ch := chan s c
  let capOk :=
    if throttled ch port then
      match tfind ch.capped port with
      | some (us, n) => us ≠ s.time / perUs || n < od s 0x2000 9
      | none => true
    else true
  let raaOk :=
    match ch.raaLimits with
    | some (_, most) => tget 0 ch.raa bank < most
    | none => true
  capOk && raaOk

/-- How the scheduler sees a request: urgency, open-row hit, arrival and port. -/
structure Bid where
  place : Nat
  urgency : Nat
  hit : Bool
  arrival : Nat
  port : Nat
  deriving DecidableEq, Repr

/-- Whether one request is picked before another (R285). -/
def bidBefore (a b : Bid) : Bool :=
  if a.urgency ≠ b.urgency then b.urgency < a.urgency
  else if a.hit ≠ b.hit then a.hit
  else if a.arrival ≠ b.arrival then a.arrival < b.arrival
  else a.port < b.port

/-- The request's bid, if it may be issued: no earlier request for its burst waits, and it hits an open row or may activate
its bank. -/
def bidOf (s : State) (c : Nat) (urg : Nat) (place : Nat) (r : DramReq) : Option Bid :=
  match channelOf s (r.burst * 64) with
  | none => none
  | some (_, ca, mapC) =>
    let (bank, row) := bankRow s ca mapC
    let hit := tfind (chan s c).openRows bank = some row
    if ((chanReqs s c).take place).any (fun q => q.burst = r.burst) then none
    else if hit || mayActivate s c r.port bank then some ⟨place, urg, hit, r.arrival, r.port⟩
    else none

/-- The bids of a channel's queue. -/
def bids (s : State) (c : Nat) : List Bid :=
  (chanReqs s c).zipIdx.filterMap fun (r, i) => bidOf s c (urgency s r) i r

/-- The bid picked by the keys of R285. -/
def pickBid : List Bid → Option Bid
  | [] => none
  | b :: bs =>
    match pickBid bs with
    | some x => if bidBefore x b then some x else some b
    | none => some b

/-! ### Activates and row disturbance (R283, R286, R287) -/

/-- A same-bank RFM: the bank's rows are closed in every bank group, and its activation counts fall by RAAIMT (R283,
R287). -/
def sameBankRfm (c bank : Nat) (s : State) : State :=
  let group := bank / 8
  odBump (0x2040 + c) 8 (chanMod c (fun ch =>
    let less := match ch.raaLimits with
      | some (n, _) => n
      | none => 0
    { ch with
      openRows := ch.openRows.filter fun e => e.1 / 8 ≠ group
      raa := ch.raa.map fun e => if e.1 / 8 = group then (e.1, e.2 - less) else e }) s)

/-- The dominant port of a bank: most activates in the current sub-window, lowest number first, never port 14 (R287). -/
def dominantPort (ch : Chan) (bank : Nat) : Option Nat :=
  let n : Nat → Nat := fun p => tget 0 ch.portActs (bank * 16 + p)
  (List.range 16).foldl (fun best p =>
    if p = 14 || n p = 0 then best
    else match best with
      | some q => if n q < n p then some p else best
      | none => some p) none

/-- Milliseconds in TIMEREF periods. -/
def perMs : Nat := 1000 * perUs

/-- A trigger throttles a port: a repeat doubles its penalty, up to 64 ms (R287). -/
def penalise (c port : Nat) (s : State) : State :=
  let ch := chan s c
  let now := s.time
  let fresh := od s 0x2000 8
  let (len, spent) := match tfind ch.penalties port with
    | some p =>
      match p.ended with
      | none => (min (2 * p.length) 64, now - p.start)
      | some e => (if now - e ≤ p.length * perMs then min (2 * p.length) 64 else fresh, 0)
    | none => (fresh, 0)
  let s := odAdd (0x2060 + port) 3 spent s
  let s := odSet (0x2020 + c) 4 (od s (0x2020 + c) 4 ||| 2 ^ port) s
  chanMod c (fun ch => { ch with penalties := tset ch.penalties port { length := len, start := now } }) s

/-- A group's count reaches RH_THRESHOLD (R287). -/
def rowTrigger (c bank group : Nat) (s : State) : State :=
  let s := sameBankRfm c bank s
  let s := chanMod c (fun ch => { ch with acts := tdel ch.acts (bank * 2 ^ 32 + group) }) s
  let s := odSet (0x2020 + c) 7 (rowAddress s bank (64 * group)) (odBump (0x2040 + c) 7 s)
  match dominantPort (chan s c) bank with
  | some p => penalise c p s
  | none => s

/-- An activate: counted for its group, its port, its cap and its bank (R283, R286, R287). -/
def activate (c port bank row : Nat) (s : State) : State :=
  let us := s.time / perUs
  let group := row / 64
  let key := bank * 2 ^ 32 + group
  let s := odBump (0x2040 + c) 3 s
  let s := chanMod c (fun ch =>
    let acts := tget (List.replicate 8 0) ch.acts key
    let used := match tfind ch.capped port with
      | some (u, n) => if u = us then n + 1 else 1
      | none => 1
    { ch with
      openRows := tset ch.openRows bank row
      acts := tset ch.acts key (lmod acts 0 (· + 1))
      portActs := tmod 0 ch.portActs (bank * 16 + port) (· + 1)
      capped := tset ch.capped port (us, used)
      raa := if ch.raaLimits.isSome then tmod 0 ch.raa bank (· + 1) else ch.raa }) s
  let ch := chan s c
  let s := match ch.raaLimits with
    | some (least, _) => if least ≤ tget 0 ch.raa bank then sameBankRfm c bank s else s
    | none => s
  if od s 0x2000 7 ≤ (tget [] (chan s c).acts key).foldl (· + ·) 0 then rowTrigger c bank group s else s

/-! ### ECC and poison (R288, R289) -/

/-- The L2 and way that hold a codeword's sector dirty, if one does: DRAM then holds what lies below it (R219). -/
def heldDirty (s : State) (w : Nat) : Option (Nat × Nat) :=
  s.clusters.findSome? fun e => match l2Way e.2 (w / 4) with
    | none => none
    | some way =>
      match l2At e.2 (l2Set (w / 4)) way with
      | none => none
      | some l => if l.dirty.testBit (w % 4) then some (e.1, way) else none

/-- A codeword of DRAM becomes poisoned: the bytes that all read, or those below a dirty sector of an L2 (R219, R289). -/
def poisonDram (w : Nat) (s : State) : State :=
  match heldDirty s w with
  | some (k, way) =>
    match l2At (cluster s k) (l2Set (w / 4)) way with
    | none => s
    | some l => l2Put k (l2Set (w / 4)) way
        { l with below := l.below.map fun e => if e.1 = w % 4 then (e.1, e.2.1, true) else e } s
  | none =>
    if s.ms.poison.contains w then s else { s with ms := { s.ms with poison := w :: s.ms.poison } }

/-- Whether a codeword of DRAM is poisoned. -/
def dramPoison (s : State) (w : Nat) : Bool :=
  match heldDirty s w with
  | some (k, way) =>
    match l2At (cluster s k) (l2Set (w / 4)) way with
    | none => false
    | some l => l.below.any fun e => e.1 = w % 4 && e.2.2
  | none => s.ms.poison.contains w

/-- What ECC finds in a codeword read at a channel address; a codeword whose poison the read has returned is counted in
POISON_READS. An uncorrectable one is written back with the poison pattern, unless a write that covers it whole arrived after
the read; a narrower one is merged, and the codeword stays poisoned (R289, R293). -/
def eccOutcome (c ca : Nat) (returned : Bool) (e : Ecc) (s : State) : State :=
  match physOf s c ca with
  | none => s
  | some pa =>
    let w := pa / 32
    if returned then odBump (0x2040 + c) 6 s
    else if dramPoison s w then s
    else
      match e with
      | .ok => s
      | .corrected => rasEvent 3 0 pa 0 0 (odSet (0x2020 + c) 5 ca (odBump (0x2040 + c) 4 s))
      | .uncorrectable =>
        let s := odSet (0x2020 + c) 6 ca (odBump (0x2040 + c) 5 s)
        if (chanReqs s c).any (fun r => r.burst = pa / 64 && r.cover.testBit (w % 2)) then s
        else poisonDram w s

/-! ### Commands -/

/-- A channel answers requests: it is not FAILED and its DRAM is up (R282, R291). -/
def chanLive (s : State) (c : Nat) : Bool :=
  chanState s c ≠ 3 && s.mode ≠ .off && s.mode ≠ .fuseLoad && (s.mode ≠ .configLoad || (chan s c).delays)

/-- A request is issued: its activate, if it needs one, and its burst. -/
def issueBurst (c port : Nat) (write : Bool) (ca : Nat) (mapC hit : Bool) (s : State) : State :=
  let (bank, row) := bankRow s ca mapC
  let s := wakeChannel c s
  let s := if hit then s else activate c port bank row s
  odBump (0x2060 + port) 1 (odBump (0x2040 + c) (if write then 2 else 1) s)

/-- The channel issues the request picked by R285. -/
def issueRequest (c : Nat) (lo hi : Ecc) (s : State) : State :=
  match pickBid (bids s c) with
  | none => s
  | some b =>
    match (chanReqs s c)[b.place]? with
    | none => s
    | some r =>
      match channelOf s (r.burst * 64) with
      | none => s
      | some (_, ca, mapC) =>
        let s := { s with ms := { s.ms with reqs := tmod [] s.ms.reqs c (·.eraseIdx b.place) } }
        let s := issueBurst c r.port r.write ca mapC b.hit s
        let s := if b.urgency = 3 then odBump (0x2060 + r.port) 2 s else s
        if r.write then s
        else eccOutcome c (ca + 32) (r.poison.testBit 1) hi (eccOutcome c ca (r.poison.testBit 0) lo s)

/-- DRAM_REQUEST_ISSUE (R285), with what ECC finds in the two codewords of a read's burst. -/
def execDramRequestIssue (channel : Fin 12) (lo hi : Ecc) (s : State) : Host.Outcome State Fault Refusal :=
  .next (if chanLive s channel.val then issueRequest channel.val lo hi s else s)

/-- RH_PENALTY_END (R287). -/
def execRhPenaltyEnd (channel : Fin 12) (port : Fin 16) (s : State) : Host.Outcome State Fault Refusal :=
  let c := channel.val
  let p := port.val
  .next (match tfind (chan s c).penalties p with
    | some pen =>
      if pen.ended.isSome then s
      else
        let stop := pen.start + pen.length * perMs
        let s := odAdd (0x2060 + p) 3 (pen.length * perMs) s
        let s := odSet (0x2020 + c) 4 (setBits (od s (0x2020 + c) 4) p p 0) s
        chanMod c (fun ch => { ch with penalties := tset ch.penalties p { pen with ended := some stop } }) s
    | none => s)

/-- RH_SUBWINDOW (R286): the window advances; groups without an activate in it are forgotten. -/
def execRhSubwindow (channel : Fin 12) (s : State) : Host.Outcome State Fault Refusal :=
  .next (chanMod channel.val (fun ch =>
    { ch with
      acts := (ch.acts.map fun e => (e.1, (0 :: e.2).take 8)).filter fun e => e.2.any (· ≠ 0)
      portActs := [] }) s)

/-- A refresh: rows of the banks it takes are closed, their activation counts fall by RAAIMT, and a new band takes effect
(R281, R282, R283). -/
def refreshNow (c : Nat) (s : State) : State :=
  let same := od s 0x2000 6 = 1
  let ch := chan s c
  let takes : Nat → Bool := fun bank => !same || bank / 8 % 4 = ch.nextBank
  let less := match ch.raaLimits with
    | some (n, _) => n
    | none => 0
  let s := odSet (0x2020 + c) 3 ch.band s
  chanMod c (fun ch =>
    { ch with
      openRows := ch.openRows.filter fun e => !takes e.1
      raa := ch.raa.map fun e => if takes e.1 then (e.1, e.2 - less) else e
      postponed := 0
      nextBank := (ch.nextBank + 1) % 4 }) s

/-- REFRESH (R282): issued, or postponed at most four times while a request of urgency 3 waits. -/
def execRefresh (channel : Fin 12) (s : State) : Host.Outcome State Fault Refusal :=
  let c := channel.val
  .next (if !chanLive s c || chanState s c = 2 then s
    else if (chanReqs s c).any (fun r => urgency s r = 3) && (chan s c).postponed < 4 then
      odBump (0x2040 + c) 9 (chanMod c (fun ch => { ch with postponed := ch.postponed + 1 }) s)
    else refreshNow c s)

/-- Lower bound of a band in °C (Table 13-5). -/
def bandFrom (b : Nat) : Nat := if b = 0 then 0 else 25 + 20 * b

/-- The band a temperature asks for: entered at its lower bound, left 2 °C below it (R281). -/
def bandOf (present t : Nat) : Nat :=
  (List.range 4).foldl (fun best b => if bandFrom b ≤ t || (b ≤ present && bandFrom b < t + 2) then b else best) 0

/-- CHANNEL_TEMP_POLL (R281): a reading for each sensor of the channel's DIMMs, or none where the read failed. -/
def execChannelTempPoll (channel : Fin 12) (readings : List (Option Nat)) (s : State) : Host.Outcome State Fault Refusal :=
  let c := channel.val
  .next (if s.mode = .off || s.mode = .fuseLoad then s
    else
      let s := readings.zipIdx.foldl (fun s (r, i) => chanMod c (fun ch =>
        { ch with failed := if r.isSome then tdel ch.failed i else tset ch.failed i (tget 0 ch.failed i + 1) }) s) s
      let seen := readings.filterMap id
      let hottest := seen.foldl max 0
      let s := if seen.isEmpty then s else odSet (0x2020 + c) 2 (min hottest 255) s
      let bad := sensorFailed (chan s c)
      let s := chanMod c (fun ch =>
        { ch with band := if bad then 3 else if seen.isEmpty then ch.band else bandOf ch.band hottest }) s
      let st := chanState s c
      let s := if bad && st ≤ 1 then odSet (0x2020 + c) 1 4 s else if !bad && st = 4 then odSet (0x2020 + c) 1 0 s else s
      if 95 < hottest then fatal 5 s else s)

/-- Codewords of installed memory in each channel. -/
def channelCodewords (s : State) : Nat := (regionShare s 8) / 32

/-- The patrol read's bid against the queue: port 14, arriving now, urgency 1 once its pass is late (R290). -/
def scrubBid (s : State) (c : Nat) (pa : Nat) : Option Bid :=
  bidOf s c (if (chan s c).scrubLate then 1 else 0) (chanReqs s c).length { port := 14, burst := pa / 64, write := false, arrival := s.time, target := 0 }

/-- The next codeword of the pass has been read; the last one ends the pass, and a late pass is followed by the next. -/
def advanceScrub (c : Nat) (s : State) : State :=
  let at' := (chan s c).scrubAt + 1
  if at' < channelCodewords s then chanMod c (fun ch => { ch with scrubAt := at' }) s
  else
    odBump (0x2040 + c) 0xB (chanMod c (fun ch =>
      { ch with scrubAt := 0, scrubDone := !ch.scrubLate, scrubLate := false }) s)

/-- SCRUB_READ (R290), when the scheduler picks the patrol read. -/
def execScrubRead (channel : Fin 12) (ecc : Ecc) (s : State) : Host.Outcome State Fault Refusal :=
  let c := channel.val
  let ca := (chan s c).scrubAt * 32
  .next (if od s 0x2000 0xA = 0 || !chanLive s c || chanState s c = 2 || (chan s c).scrubDone then s
    else match physOf s c ca with
    | none => s
    | some pa =>
      match scrubBid s c pa with
      | none => s
      | some b =>
        match pickBid (bids s c ++ [b]) with
        | none => s
        | some x =>
          if x ≠ b then s
          else match channelOf s pa with
            | none => s
            | some (_, _, mapC) => advanceScrub c (eccOutcome c ca (s.ms.poison.contains (pa / 32)) ecc (issueBurst c 14 false ca mapC b.hit s)))

/-- SCRUB_PERIOD (R290): a finished pass makes way for the next; an unfinished one is late. -/
def execScrubPeriod (channel : Fin 12) (s : State) : Host.Outcome State Fault Refusal :=
  .next (chanMod channel.val (fun ch =>
    if ch.scrubDone then { ch with scrubDone := false } else { ch with scrubLate := true }) s)

/-- ALERT_N (R291): the affected commands are replayed up to three times; a fault that persists fails the channel. -/
def execAlertN (channel : Fin 12) (replays : Fin 4) (persists : Bool) (s : State) : Host.Outcome State Fault Refusal :=
  let c := channel.val
  .next (if !chanLive s c then s
    else
      let s := odAdd (0x2040 + c) 0xA (if persists then 3 else replays.val) s
      if persists then
        fatal 2 (odSet (0x2020 + c) 1 3 (dropRequests c s))
      else s)

/-- PD_IDLE (R292): a channel with no request enters precharge power-down, one whose sensor has failed too. -/
def execPdIdle (channel : Fin 12) (s : State) : Host.Outcome State Fault Refusal :=
  let c := channel.val
  .next (if od s 0x2000 0xB ≠ 0 && chanLive s c && (chanState s c = 0 || chanState s c = 4) && (chanReqs s c).isEmpty then
      odSet (0x2020 + c) 1 1 (chanMod c (fun ch => { ch with openRows := [] }) s)
    else s)

/-- Whether the DORMANT change holds: from the start of its apply phase until CURRENT leaves DORMANT or the change rolls
back (R292). -/
def dormantChange (s : State) : Bool := s.mode = .dormant || (od s 0x1300 3 = 2 && od s 0x1300 1 = 5)

/-- SELF_REFRESH_ENTRY (R292): 10 µs with no request during the DORMANT change. -/
def execSelfRefreshEntry (channel : Fin 12) (s : State) : Host.Outcome State Fault Refusal :=
  let c := channel.val
  .next (if dormantChange s && chanLive s c && chanState s c ≠ 2 && (chanReqs s c).isEmpty then
      let s := odSet (0x2020 + c) 1 2 (chanMod c (fun ch => { ch with openRows := [] }) s)
      let kept := if s.pw.selfRefreshed.contains c then s.pw.selfRefreshed else c :: s.pw.selfRefreshed
      { s with pw := { s.pw with selfRefreshed := kept } }
    else s)

end Sys2Proof.Machine
end

