-- ==== Sys2Proof/Machine/TillerCache.lean ====
section
/-! DEFINITION. Meanings of the CACHE instruction and of L2 state changes (R227 to R235). -/

namespace Sys2Proof.Machine

/-- The three line operations of Table 10-3. -/
inductive LineOp
  | clean
  | cleanInv
  | inv
  deriving DecidableEq, Repr

/-- The L1D lines of a 128-byte line leave every core of a cluster. -/
def l1Drop (k line : Nat) (s : State) : State :=
  { s with cores := s.cores.map fun (i, c) =>
      if i / 8 = k then (i, { c with l1d := c.l1d.filter fun e => e.2.line / 2 ≠ line }) else (i, c) }

/-- One L2 line in a set and way is operated on. -/
def l2LineOp (op : LineOp) (k set way : Nat) (s : State) : State :=
  match op with
  | .clean => l2Clean k set way s
  | .cleanInv => l2Del k set way (l2Clean k set way s)
  | .inv => l2Discard k set way s

/-- A line operation by physical line: the L2, the side buffer and the cluster's L1Ds (R227, R233, R235). -/
def lineOp (op : LineOp) (k line : Nat) (s : State) : State :=
  let s := if l2State s k = 0 then s
    else match l2Way (cluster s k) line with
      | some w => l2LineOp op k (l2Set line) w s
      | none => s
  match op with
  | .clean => s
  | _ =>
    let s := if l2State s k = 0 then s
      else clusterMod k (fun c => { c with side := c.side.filter (· ≠ line) }) s
    l1Drop k line s

/-- The line of an address for a CACHE operation: none for a tile address, which is never cached. -/
def cacheLine (s : State) (c : CoreId) (kind : AccKind) (a : Nat) : Except Trap (Option Nat) :=
  if inWindow a then .ok none
  else match corePlace s c kind a 1 with
    | .error t => .error t
    | .ok (.dev pa _) => .ok (some (pa / 128))
    | .ok _ => .ok none

/-- Whether a CACHE operation is used below its level (Table 10-3). -/
def belowS (s : State) (c : CoreId) : Bool := coreLevel s c = .t

/-- The word of a CACHE instruction (R227). -/
def encCache (op : Reg) (ra rl : Reg) : BitVec 32 := encI 0x1F op ra (rl.val * 2 ^ 11)

/-- A CACHE operation that looks up a set of an L2 finds the tag errors in it (Table 10-2); an L2 that is OFF is not looked
up. -/
def lookTags (c : CoreId) (set : Nat) (s : State) : State × Option Trap :=
  if l2State s (clusterOf c) = 0 then (s, none) else tagSets c [set] s

/-- An operation after the tag check of the set it looks up. -/
def afterTags (c : CoreId) (set : Nat) (go : State → CoreEnd) (s : State) : CoreEnd :=
  match lookTags c set s with
  | (s, some t) => .trap t s
  | (s, none) => go s

/-- An address operation on the line at g(ra). -/
def runLine (c : CoreId) (ra : Reg) (op : LineOp) (needS : Bool) (code : Reg) (s : State) : State :=
  runCore c false (fun s =>
    if needS && belowS s c then privileged (encCache code ra 0) s
    else match cacheLine s c .write (gGet s c ra).toNat with
      | .error t => .trap t s
      | .ok none => .retire s
      | .ok (some line) => afterTags c (l2Set line) (fun s => .retire (lineOp op (clusterOf c) line s)) s) s

/-- PREFETCH (Table 10-3): demand-fills the line at g(ra), in the core's L1D where the L2 is OFF (R235); it never faults. While
the L2 drains no line is allocated (R234). -/
def execPrefetch (c : CoreId) (ra : Reg) (s : State) : Host.Outcome State Fault Refusal :=
  .next (runCore c false (fun s =>
    let a := (gGet s c ra).toNat
    match cacheLine s c .read a with
    | .ok (some line) =>
      if channelFailed s (line * 128) || l2State s (clusterOf c) = 2 then .retire s
      else if l2State s (clusterOf c) = 0 then .retire (l1Load c false (2 * line + a / 64 % 2) false s)
      else afterTags c (l2Set line) (fun s => .retire (l2Access c line 15 15 1 s)) s
    | _ => .retire s) s)

/-- CLEAN (Table 10-3). -/
def execClean (c : CoreId) (ra : Reg) (s : State) : Host.Outcome State Fault Refusal :=
  .next (runLine c ra .clean false 1 s)

/-- CLEAN_INV (Table 10-3). -/
def execCleanInv (c : CoreId) (ra : Reg) (s : State) : Host.Outcome State Fault Refusal :=
  .next (runLine c ra .cleanInv false 2 s)

/-- INV (Table 10-3): level S. -/
def execInv (c : CoreId) (ra : Reg) (s : State) : Host.Outcome State Fault Refusal :=
  .next (runLine c ra .inv true 3 s)

/-- The registers of a range operation describe what is left from an address (R228). -/
def rangeRegs (c : CoreId) (ra rl : Reg) (a left : Nat) (s : State) : State :=
  gSet c rl (BitVec.ofNat 64 left) (gSet c ra (BitVec.ofNat 64 a) s)

/-- Up to fuel lines of a range are handled from an address to an end address (R228, R229). -/
def rangeLines (c : CoreId) (ra rl : Reg) (op : LineOp) : Nat → Nat → Nat → State → CoreEnd
  | 0, a, stop, s => .retire (rangeRegs c ra rl a (stop - a) s)
  | fuel + 1, a, stop, s =>
    if stop ≤ a then .retire (rangeRegs c ra rl stop 0 s)
    else
      match cacheLine s c .write a with
      | .error t => .trap t (rangeRegs c ra rl a (stop - a) s)
      | .ok l =>
        let next := (a / 128 + 1) * 128
        let go := fun (s : State) =>
          let s := match l with
            | some line => lineOp op (clusterOf c) line s
            | none => s
          if stop ≤ next then .retire (rangeRegs c ra rl stop 0 s)
          else rangeLines c ra rl op fuel next stop s
        match l with
        | none => go s
        | some line =>
          match lookTags c (l2Set line) s with
          | (s, some t) => .trap t (rangeRegs c ra rl a (stop - a) s)
          | (s, none) => go s

/-- A range operation: at most 16 lines (R228). -/
def runRange (c : CoreId) (ra rl : Reg) (op : LineOp) (needS : Bool) (code : Reg) (s : State) : State :=
  runCore c false (fun s =>
    if needS && belowS s c then privileged (encCache code ra rl) s
    else
      let a := (gGet s c ra).toNat
      rangeLines c ra rl op 16 a (a + (gGet s c rl).toNat) s) s

/-- CLEAN_RANGE (Table 10-3, R228). -/
def execCleanRange (c : CoreId) (ra rl : Reg) (s : State) : Host.Outcome State Fault Refusal :=
  .next (runRange c ra rl .clean false 4 s)

/-- CLEAN_INV_RANGE (Table 10-3, R228). -/
def execCleanInvRange (c : CoreId) (ra rl : Reg) (s : State) : Host.Outcome State Fault Refusal :=
  .next (runRange c ra rl .cleanInv false 5 s)

/-- INV_RANGE (Table 10-3, R228): level S. -/
def execInvRange (c : CoreId) (ra rl : Reg) (s : State) : Host.Outcome State Fault Refusal :=
  .next (runRange c ra rl .inv true 6 s)

/-- A set-way operation on the L1Ds of a cluster whose L2 is OFF (R235): the line in that set and way of each, which is clean,
is kept by CLEAN and invalidated by the others. A set or way that an L1D does not have names no line (log entry 52). -/
def l1SetWay (op : LineOp) (k v : Nat) (s : State) : State :=
  match op with
  | .clean => s
  | _ =>
    if 256 ≤ v / 16 || 4 ≤ v % 16 then s
    else { s with cores := s.cores.map fun (i, c) =>
      if i / 8 = k then (i, { c with l1d := tdel c.l1d (v / 16 * 4 + v % 16) }) else (i, c) }

/-- A set-way operation on one L2 line, or on the L1Ds where the L2 is OFF; bits 63:16 of g(rl) must be 0, which is
checked before the level, in vector order (R184, R228, R235). -/
def runSetWay (c : CoreId) (ra rl : Reg) (op : LineOp) (code : Reg) (s : State) : State :=
  runCore c false (fun s =>
    let v := (gGet s c rl).toNat
    if 2 ^ 16 ≤ v then illegal (encCache code ra rl) s
    else if belowS s c then privileged (encCache code ra rl) s
    else if l2State s (clusterOf c) = 0 then .retire (l1SetWay op (clusterOf c) v s)
    else afterTags c (v / 16) (fun s => .retire (l2LineOp op (clusterOf c) (v / 16) (v % 16) s)) s) s

/-- CLEAN_SW (Table 10-3). -/
def execCleanSw (c : CoreId) (ra rl : Reg) (s : State) : Host.Outcome State Fault Refusal :=
  .next (runSetWay c ra rl .clean 8 s)

/-- CLEAN_INV_SW (Table 10-3). -/
def execCleanInvSw (c : CoreId) (ra rl : Reg) (s : State) : Host.Outcome State Fault Refusal :=
  .next (runSetWay c ra rl .cleanInv 9 s)

/-- INV_SW (Table 10-3). -/
def execInvSw (c : CoreId) (ra rl : Reg) (s : State) : Host.Outcome State Fault Refusal :=
  .next (runSetWay c ra rl .inv 10 s)

/-- A line is filled into a locked way: the status of R232 and the state. -/
def lockFill (k line : Nat) (s : State) : Nat × State :=
  let lock := lockWays s k
  let set := l2Set line
  let c := cluster s k
  if l2State s k ≠ 1 then (3, s)
  else if lock = 0 then (2, s)
  else
    let here := l2Way c line
    if (here.any fun w => lock.testBit w) then (0, s)
    else match (List.range 16).find? fun w => lock.testBit w && (l2At c set w).isNone with
      | none => (1, s)
      | some w =>
        let old := match here with
          | some v => (l2At c set v).getD {}
          | none => {}
        let s := match here with
          | some v => l2Del k set v s
          | none => s
        let missing := 15 &&& (15 ^^^ old.valid)
        let s := (sectorsIn missing).foldl (fun s i =>
          requestBursts (clusterPort k) (line * 128 + i * 32) 32 false s) s
        let s := clusterMod k (fun c => { c with side := c.side.filter (· ≠ line) }) s
        (0, l2Put k set w { old with line := line, valid := 15, age := 1 } s)

/-- Whether LOCKFILL fetches a sector of the line: it moves or fills the line, and the L2 does not hold all of it (R232). -/
def lockFetches (s : State) (k line : Nat) : Bool :=
  (lockFill k line s).1 = 0 && match l2Way (cluster s k) line with
    | some w => !(lockWays s k).testBit w && ((l2At (cluster s k) (l2Set line) w).getD {}).valid ≠ 15
    | none => true

/-- LOCKFILL (R232): level S; the status goes to g(rl). -/
def execLockfill (c : CoreId) (ra rl : Reg) (s : State) : Host.Outcome State Fault Refusal :=
  .next (runCore c false (fun s =>
    let a := (gGet s c ra).toNat
    if belowS s c then privileged (encCache 12 ra rl) s
    else match cacheLine s c .read a with
      | .error t => .trap t s
      | .ok none => .retire s
      | .ok (some line) =>
        afterTags c (l2Set line) (fun s =>
          if channelFailed s (line * 128) && lockFetches s (clusterOf c) line then
            .trap { vec := 13, val := BitVec.ofNat 64 a } s
          else
            let (st, s) := lockFill (clusterOf c) line s
            .retire (gSet c rl (BitVec.ofNat 64 st) s)) s) s)

/-- Lines in ways that a new mask unlocks stay at age 3 (R231). -/
def unlockLines (k mask : Nat) (s : State) : State :=
  let old := lockWays s k
  let unlock := fun (x : Nat × L2Line) =>
    if old.testBit (x.1 % 16) && !mask.testBit (x.1 % 16) then (x.1, { x.2 with age := 3 }) else x
  clusterMod k (fun c => { c with l2 := c.l2.map unlock }) s

/-- LOCKSET (R231): level S; bits 63:15 of g(rl) must be 0, which is checked first (R184). -/
def execLockset (c : CoreId) (ra rl : Reg) (s : State) : Host.Outcome State Fault Refusal :=
  .next (runCore c false (fun s =>
    let v := (gGet s c rl).toNat
    let k := clusterOf c
    if 2 ^ 15 ≤ v then illegal (encCache 13 ra rl) s
    else if belowS s c then privileged (encCache 13 ra rl) s
    else .retire (odSet (0x3480 + k) 4 v (unlockLines k v s))) s)

/-- The end of a drain (Table 10-4): dirty sectors written back, every line invalidated, OFF. -/
def l2DrainDone (k : Nat) (s : State) : State :=
  let s := (cluster s k).l2.foldl (fun s e => l2Clean k (e.1 / 16) (e.1 % 16) s) s
  let s := clusterMod k (fun _ => {}) s
  odSet (0x3480 + k) 1 0 (odSet (0x3480 + k) 2 0 (odSet (0x3480 + k) 4 0 s))

/-- L2_DRAIN_DONE (R234): an L2 that is DRAINING becomes OFF. -/
def execL2DrainDone (k : Fin 16) (s : State) : Host.Outcome State Fault Refusal :=
  .next (if l2State s k.val = 2 then l2DrainDone k.val s else s)

/-- A write of L2_ENABLE (Table 10-4): none when refused with BUSY. While DRAINING the side buffer is empty
and the ways are unlocked. -/
def l2EnableWrite (k v : Nat) (s : State) : Option State :=
  if l2State s k = 2 then none
  else if v = 1 && l2State s k = 0 then
    some (clusterMod k (fun _ => {}) (odSet (0x3480 + k) 1 1 (odSet (0x3480 + k) 2 1 (odSet (0x3480 + k) 4 0 s))))
  else if v = 0 && l2State s k = 1 then
    some (clusterMod k (fun c => { c with side := [] }) (odSet (0x3480 + k) 2 2 (odSet (0x3480 + k) 4 0 s)))
  else some s

/-- A write of PREFETCH_ENABLE (R224): 0 also empties the side buffer. -/
def prefetchWrite (k v : Nat) (s : State) : State :=
  let s := odSet (0x3480 + k) 3 v s
  if v = 0 then clusterMod k (fun c => { c with side := [] }) s else s

end Sys2Proof.Machine
end

