-- ==== Sys2Proof/Machine/Power.lean ====
section
/-! DEFINITION. Operating modes, two-phase changes, zones, sensors, HOLD (chapter 22; R483). -/

namespace Sys2Proof.Machine

/-- Mode codes (Table 22-1). -/
def Mode.code : Mode → Nat
  | .off => 0
  | .fuseLoad => 1
  | .configLoad => 2
  | .run => 3
  | .drain => 4
  | .dormant => 5
  | .freeze => 6
  | .hold => 7

/-- The mode a code names. -/
def modeOf (n : Nat) : Mode :=
  match n with
  | 0 => .off
  | 1 => .fuseLoad
  | 2 => .configLoad
  | 3 => .run
  | 4 => .drain
  | 5 => .dormant
  | 6 => .freeze
  | _ => .hold

/-- TRANSITION (Table 22-7). -/
def transition (s : State) : Nat := od s 0x1300 3

/-- Bits of APPLIED whose unit has an action for a target mode (Table 22-3). -/
def actionMask (target : Nat) : Nat :=
  if target = 4 then 0x81 else if target = 3 then 0xFF else if target = 5 then 0xFC else 0x83

/-- MODE is set on every waiting task (R446, R447). -/
def setModeFlag (s : State) : State := setFlagsWhere (fun t => t.run = .waiting) flagMode s

/-! ### Zones (R459, R460) -/

/-- A task with a unit in a zone about to be gated: running, it is pre-empted with its progress kept; READY, it holds its slot
like one pre-empted (step 3 of Table 22-6). A pre-emption asked for before is counted already. -/
def gateTask (slot : Nat) (s : State) : State :=
  match taskAt s slot with
  | none => s
  | some t =>
    if t.run = .ready then taskMod slot (fun t => { t with gated := true }) (leaveReady t s)
    else
      let s := becomeReady slot t (if t.stopping then s else odBump (0x3100 + t.unit) 5 s)
      let s := taskMod slot (fun t => { t with gated := t.run = .ready }) s
      if 0xB8 ≤ t.unit && t.unit ≤ 0xBB then odSet (0x3F00 + (t.unit - 0xB8)) (0x40 + t.sub) 4 s else s

/-- Steps 2 to 4 of Table 22-6: tasks of the domain's units are pre-empted, the L2 is drained, the domain is gated. -/
def gateZone (z : Nat) (s : State) : State :=
  let s := (slotsWhere s fun t => t.inZone z && !t.gated && (t.run = .running || t.run = .ready)).foldl (fun s k => gateTask k s) s
  let s := if l2State s z = 0 then s else l2DrainDone z s
  odSet (0x1320 + z) 2 2 s

/-- Step 5: a gated task whose zones are all powered is READY from now on. -/
def wakeGated (slot : Nat) (s : State) : State :=
  match taskAt s slot with
  | some t =>
    let now := s.time
    if t.gated && unitsOn s t then taskMod slot (fun t => { t with gated := false, readyAt := now, pass := 0 }) s else s
  | none => s

/-- Step 5: the zone is powered; a zone that was gated has its L2 ON again, empty (R235). -/
def powerZone (z : Nat) (s : State) : State :=
  let s := if l2State s z = 0 then
      clusterMod z (fun _ => {}) (odSet (0x3480 + z) 1 1 (odSet (0x3480 + z) 2 1 (odSet (0x3480 + z) 4 0 s)))
    else s
  let s := odSet (0x1320 + z) 2 0 s
  (slotsWhere s fun t => t.gated).foldl (fun s k => wakeGated k s) s

/-- ZONE_GATED (Table 22-6). -/
def execZoneGated (zone : Fin 16) (s : State) : Host.Outcome State Fault Refusal :=
  .next (if od s (0x1320 + zone.val) 2 = 1 then gateZone zone.val s else s)

/-- ZONE_WAKE (Table 22-6): a WAKING zone is ON, and its pre-empted tasks, READY since, are dispatched again. -/
def execZoneWake (zone : Fin 16) (s : State) : Host.Outcome State Fault Refusal :=
  .next (if od s (0x1320 + zone.val) 2 = 3 then powerZone zone.val s else s)

/-- ZONE_POWER takes a value: 0 starts to drain the domain, 1 to wake it (R459). -/
def zonePowerTo (z v : Nat) (s : State) : State :=
  let st := od s (0x1320 + z) 2
  let next := if v = 0 then (if st = 0 || st = 3 then 1 else st) else (if st = 2 then 3 else if st = 1 then 0 else st)
  odSet (0x1320 + z) 1 v (odSet (0x1320 + z) 2 next s)

/-- A write of ZONE_POWER (R459, R461). -/
def writeZonePower (z v : Nat) (s : State) : Except VdpErr State :=
  if s.mode ≠ .run then .error .busy
  else if 1 < v then .error .range
  else .ok (zonePowerTo z v s)

/-! ### Units' actions (Table 22-3) -/

/-- Zone domains that ZONE_POWER leaves on are powered up. -/
def wakeZones (s : State) : State :=
  (List.range 16).foldl (fun s z => if od s (0x1320 + z) 1 = 1 && od s (0x1320 + z) 2 ≠ 0 then powerZone z s else s) s

/-- Every zone domain is drained and gated. -/
def gateZones (s : State) : State := (List.range 16).foldl (fun s z => gateZone z s) s

/-- Every port to a PORT_STATE. -/
def setPorts (v : Nat) (s : State) : State := (List.range 4).foldl (fun s p => odSet (0x2800 + p) 1 v s) s

/-- The Kolfer link enters a state with a number of lanes. -/
def setKolfer (st lanes : Nat) (s : State) : State := odSet 0x2C02 1 st (odSet 0x2C02 2 lanes s)

/-- A channel is in self-refresh, or has entered it during the change (R292). -/
def refreshed (s : State) : Bool := (List.range 12).all fun c => od s (0x2020 + c) 1 = 2 || s.pw.selfRefreshed.contains c

/-- The action of a unit for RUN. -/
def runAction (u : Nat) (s : State) : State :=
  match u with
  | 2 => wakeZones s
  | 3 => wakeChannels s
  | 5 => setPorts 1 s
  | 6 => if kolState s = 4 then setKolfer 1 0 s else s
  | _ => s

/-- The action of a unit for DORMANT. -/
def dormantAction (u : Nat) (s : State) : State :=
  match u with
  | 2 => gateZones s
  | 5 => setPorts 0 s
  | 6 => if kolState s = 2 then setKolfer 4 1 s else s
  | _ => s

/-- Whether a unit has finished its action for a target: descriptors past step 3 are accepted, the pairing state permits RUN
(R407), channels have been in self-refresh, the voltage is VDD_CORE_MIN. -/
def unitReady (u target : Nat) (s : State) : Bool :=
  if u = 0 && (target = 4 || target = 6) then s.js.jobs.all fun j => j.jstate ≠ .pending
  else if u = 0 && target = 3 then
    (if od s 0x2C00 5 = 0 then pairState s = 0 || pairState s = 4 else pairState s = 3 || pairState s = 4)
  else if u = 3 && target = 5 then refreshed s
  else if u = 7 && target = 5 then vddCore s = vddLow s
  else true

/-! ### Apply, commit, roll back (R446, R447, R450) -/

/-- The instances that the preparation froze are resumed; one that is still FREEZING is ACTIVE again, its DEADLINE counts never
having stood (R325, R450). -/
def resumeFroze (s : State) : State :=
  let ns := s.pw.froze
  let s := ns.foldl (fun s n => if instSt s n = 4 then resumeInst n s else if instSt s n = 3 then setInstSt n 1 s else s) s
  { s with pw := { s.pw with froze := [] } }

/-- APPLIED reads 0x00FF: CURRENT takes TARGET (R446). Leaving DORMANT takes the Kolfer link from LOW_RATE to TRAIN, for DRAIN
too (R402, R452); the zone domains and the ports have no action for DRAIN and stay as they are (Table 22-3). -/
def commitMode (s : State) : State :=
  if od s 0x1300 4 = 0xFF then
    let target := od s 0x1300 1
    let s := if s.mode = .dormant && target = 4 then runAction 6 s else s
    let s := if s.mode = .freeze && target ≠ 6 then resumeFroze { s with mode := modeOf target } else { s with mode := modeOf target }
    let held := if target = 5 then s.od else []
    let s := { s with pw := { s.pw with dormantOd := held } }
    setModeFlag (odSet 0x1300 3 0 (if target = 5 then s else wakeChannels s))
  else s

/-- The apply phase begins: units with no action for the target set their bits at once (R446, Table 22-3). -/
def beginApply (target : Nat) (s : State) : State :=
  let s := { s with pw := { s.pw with selfRefreshed := [] } }
  odSet 0x1300 3 2 (odSet 0x1300 4 (0xFF - actionMask target) s)

/-- The preparation is complete: every instance FROZEN or ABSENT, instance 0 with no placed phase (R450). -/
def settlePrep (s : State) : State :=
  if transition s = 1 && (presentInsts s).all (fun n => n = 0 || instSt s n = 4) && !phasePlaced s 0 then beginApply 6 s
  else s

/-- The abort of a change: counted, reported on PF0 of every link, and the tasks that wait on MODE go on (R447). -/
def recordAbort (s : State) : State :=
  let s := odSet 0x1300 5 (0xFF - od s 0x1300 4) s
  let s := odBump 0x1300 6 s
  let s := postEvent .modeAbort s
  let s := rasEvent 5 0 0 0 0 s
  setModeFlag (odSet 0x1300 3 0 s)

/-- A TARGET write (R444, R445). -/
def writeTarget (v : Nat) (s : State) : Except VdpErr State :=
  let cur := s.mode
  if transition s ≠ 0 then .error .busy
  else if v = cur.code then .ok s
  else
    let start := fun (s : State) => Except.ok (beginApply v (odSet 0x1300 1 v s))
    match cur, v with
    | .run, 4 => start s
    | .drain, 3 => start s
    | .dormant, 3 => start s
    | .dormant, 4 => start s
    | .freeze, 3 => start s
    | .freeze, 4 => start s
    | .drain, 5 => if s.js.jobs.isEmpty && s.js.tasks.isEmpty then start s else .error .busy
    | .run, 6 | .drain, 6 =>
      let ns := (presentInsts s).filter fun n => n ≠ 0 && instSt s n = 1
      let s := odSet 0x1300 1 6 (odSet 0x1300 3 1 (odSet 0x1300 4 0 s))
      let s := ns.foldl (fun s n => freezeInst n s) { s with pw := { s.pw with froze := ns } }
      .ok (settlePrep s)
    | _, _ => .error .range

/-- The governor's request for VDD_CORE_MIN, a step at a time (R455, Table 22-3). -/
def requestMin (s : State) : State := avsRequest (vddLow s) s

/-- A unit finishes its action and sets its bit of APPLIED; the last one commits the mode (R446). -/
def unitApplied (u : Nat) (s : State) : State :=
  let target := od s 0x1300 1
  if transition s ≠ 2 || s.pw.fatal.isSome || (od s 0x1300 4).testBit u then s
  else if !unitReady u target s then (if u = 7 then requestMin s else s)
  else
    let s := if target = 3 then runAction u s else if target = 5 then dormantAction u s else s
    commitMode (odSet 0x1300 4 (od s 0x1300 4 ||| 2 ^ u) s)

/-- UNIT_APPLIED (R446). -/
def execUnitApplied (unit : Fin 8) (s : State) : Host.Outcome State Fault Refusal := .next (unitApplied unit.val s)

/-- MODE_DEADLINE (R447): units that have applied revert to the behaviour of CURRENT. A fatal error abandons the change instead
(R449). -/
def modeDeadline (s : State) : State :=
  if transition s ≠ 2 || s.pw.fatal.isSome then s
  else
    let target := od s 0x1300 1
    let applied := (List.range 8).filter fun u => (od s 0x1300 4).testBit u && (actionMask target).testBit u
    let s := applied.foldl (fun s u =>
      if target = 5 then runAction u s else if s.mode = .dormant then dormantAction u s else s) s
    odSet 0x1300 3 3 (if target = 5 then wakeChannels s else s)

/-- MODE_DEADLINE (R447). -/
def execModeDeadline (s : State) : Host.Outcome State Fault Refusal := .next (modeDeadline s)

/-- ROLLBACK_DONE (R447, R450). -/
def execRollbackDone (s : State) : Host.Outcome State Fault Refusal :=
  .next (if transition s = 3 && s.pw.fatal.isNone then recordAbort (if s.mode = .freeze then s else resumeFroze s) else s)

/-- FREEZE_TIMEOUT (R326, R450): the abort of any instance's freeze ends a preparation. -/
def execFreezeTimeout (inst : Inst) (s : State) : Host.Outcome State Fault Refusal :=
  let n := inst.val
  .next (if s.mode = .hold then s
    else if instSt s n = 3 then
      let s := freezeExpires n s
      if transition s = 1 then recordAbort (resumeFroze s) else s
    else s)

/-- UNIT_REPORTS_CLEAR (Table 11-1): the slot is FREE; a freeze that waited for it goes on (R325, R450). -/
def execUnitReportsClear (slot : Nat) (s : State) : Host.Outcome State Fault Refusal :=
  .next (unlessHold s (match taskAt s slot with
    | some t => settlePrep (settleFreeze t.inst (unitReportsClear slot s))
    | none => s))

/-- CORE_RESTART (Table 08-8): a freeze that waited for the slot it frees goes on (R325, R450). -/
def execCoreRestart (c : CoreId) (s : State) : Host.Outcome State Fault Refusal :=
  .next (if (core s c).run = .running then s
    else match (core s c).task.bind (taskAt s) with
      | some t => settlePrep (settleFreeze t.inst (coreRestart c s))
      | none => coreRestart c s)

/-- RESET_COMPLETE (R321); an instance that becomes ACTIVE during a freeze preparation is frozen too (R450). -/
def execResetComplete (inst : Inst) (s : State) : Host.Outcome State Fault Refusal :=
  let n := inst.val
  let s' := resetComplete n s
  .next (if s.mode = .hold then s
    else if transition s' = 1 then
      let s' := if instSt s' n = 1 && n ≠ 0 && instSt s n = 2 then
          freezeInst n { s' with pw := { s'.pw with froze := s'.pw.froze ++ [n] } }
        else s'
      settlePrep s'
    else s')

/-! ### HOLD (R449, R453) -/

/-- The device enters HOLD: the change in progress is abandoned, every task stops, channels leave self-refresh, as refresh goes
on under R282, the RAS log notes it. -/
def enterHold (reason : Nat) (s : State) : State :=
  let now := s.time
  let cur := s.mode.code
  let s := (slotsWhere s fun t => t.run = .running).foldl (fun s k =>
    match taskAt s k with
    | some t => taskMod k (fun t => { t with run := .ready, stopping := false, readyAt := now }) (leaveRunning t s)
    | none => s) s
  let s := if transition s = 0 then s else odSet 0x1300 1 cur s
  let s := odSet 0x1001 4 reason (odSet 0x1300 3 0 (wakeChannels s))
  rasEvent 2 0 0 0 reason { s with mode := .hold, pw := { s.pw with fatal := none, froze := [] } }

/-- HOLD_ENTRY (R453): a fatal error that has occurred brings HOLD. -/
def execHoldEntry (s : State) : Host.Outcome State Fault Refusal :=
  .next (match s.pw.fatal with
    | some r => if s.mode = .hold || s.mode = .off then s else enterHold r s
    | none => s)

/-- SUPPLY_OUT_OF_SPEC (R455). -/
def execSupplyOutOfSpec (s : State) : Host.Outcome State Fault Refusal := .next (if s.mode = .off then s else fatal 4 s)

/-- TEMPERATURE_OUT_OF_SPEC (R458): Tj out of range, or a sensor that fails its reads. -/
def execTemperatureOutOfSpec (sensor : Bool) (s : State) : Host.Outcome State Fault Refusal :=
  .next (if s.mode = .off then s else fatal (if sensor then 6 else 5) s)

/-- JOURNAL_ECC_ERROR (Table 24-4). -/
def execJournalEccError (s : State) : Host.Outcome State Fault Refusal := .next (if s.mode = .off then s else fatal 7 s)

/-- FIRMWARE_FAULT (Table 24-4). -/
def execFirmwareFault (s : State) : Host.Outcome State Fault Refusal := .next (if s.mode = .off then s else fatal 8 s)

/-! ### Sensors and power (R456 to R458) -/

/-- A reading of one thermal sensor: kept, or counted as failed (R458). -/
def readSensor (i : Nat) (v : Option Int) (s : State) : State :=
  match v with
  | some t =>
    let s := odSet (0x1320 + i / 2) (3 + i % 2) (ofSigned 32 t) s
    { s with pw := { s.pw with failed := tdel s.pw.failed i,
                               seen := if s.pw.seen.contains i then s.pw.seen else i :: s.pw.seen } }
  | none =>
    let n := tget 0 s.pw.failed i + 1
    let s := { s with pw := { s.pw with failed := tset s.pw.failed i n } }
    if 3 ≤ n then fatal 6 s else s

/-- p − u shared among the zones in proportion to their activity, in mW: each zone takes what its activity adds to the share of
those before it, so that the figures add up to p − u (R457, log entry 66). Where no zone shows activity each counts alike. -/
def apportion (total : Nat) (acts : List Nat) : List Nat :=
  let acts := if acts.all (· = 0) then acts.map fun _ => 1 else acts
  let sum := acts.foldl (· + ·) 0
  let upTo := fun n => total * ((acts.take n).foldl (· + ·) 0) / sum
  (List.range acts.length).map fun z => upTo (z + 1) - upTo z

/-- The power readings of a poll, with the handshake activity of each zone, and the run above POWER_LIMIT (R456, R457). -/
def readPower (p u : Nat) (acts : List Nat) (s : State) : State :=
  let s := odSet 0x1310 2 p (odSet 0x1310 3 u s)
  let s := (apportion ((p - u) * 1000) acts).zipIdx.foldl (fun s (v, z) => odSet (0x1320 + z) 5 v s) s
  let now := s.time
  if powerLimit s < p then
    match s.gov.overSince with
    | some _ => s
    | none => odBump 0x1310 0x0A { s with gov := { s.gov with overSince := some now } }
  else { s with gov := { s.gov with overSince := none } }

/-- SENSOR_POLL (R457): every thermal sensor and the rail monitors are read, from CONFIG_LOAD on. -/
def execSensorPoll (temps : List (Option Int)) (package uncore : Nat) (zones : List Nat) (factor : Nat) (s : State) :
    Host.Outcome State Fault Refusal :=
  .next (if s.mode = .off || s.mode = .fuseLoad then s
    else
      let s := (List.range 32).foldl (fun s i => readSensor i (temps.getD i none) s) s
      odSet 0x1310 8 factor (readPower package uncore zones s))

end Sys2Proof.Machine
end

