-- ==== Sys2Proof/Machine/Twin.lean ====
section
/-! DEFINITION. The Kolfer link, heartbeats, leadership, loss of the twin, orphaning, SYNCING (chapter 20; R438). -/

namespace Sys2Proof.Machine

/-! ### Identity and outputs -/

/-- SERIAL of the device. -/
def serial (s : State) : Nat := od s 0x1000 5

/-- SIDE: 0 A, 1 B. -/
def side (s : State) : Nat := od s 0x2C00 2

/-- ROLE: 1 leader. -/
def role (s : State) : Nat := od s 0x2C00 3

/-- PAIR_ID; 0 is no twin. -/
def pairId (s : State) : Nat := od s 0x2C00 5

/-- A message of the field network: its type, TXN, status, flags and body (Table 21-1). -/
def vdpMsg (ty txn status flags : Nat) (body : List Byte) : List Byte :=
  leBytes 2 0x5056 ++ leBytes 1 1 ++ leBytes 1 ty ++ leBytes 4 txn ++ leBytes 2 body.length ++ leBytes 1 status ++
  leBytes 1 flags ++ leBytes 4 0 ++ body

/-- The 256 bytes of a flit: header, payload filled with zeros, CRC (Tables 20-2, 20-3). -/
def flitBytes (type seq ack : Nat) (payload : List Byte) : List Byte :=
  let b := leBytes 4 (type * 2 ^ 28 + seq * 2 ^ 16 + ack * 16) ++ slice payload 0 248
  b ++ leBytes 4 (crc32c b)

/-- A flit that is no DATA flit leaves: SEQ is 0, and ACK is that of the last DATA flit received in order (Table 20-3). -/
def sendFlit (type : Nat) (payload : List Byte) (s : State) : State := emit (.flit (flitBytes type 0 (ackSeq s) payload)) s

/-- Whether the governor holds a zone at ZONE_FLOOR (R457). -/
def thermalLimit (s : State) : Bool :=
  (List.range 16).any fun z => tget 65000 s.gov.caps z ≤ od s 0x3000 4

/-- HEALTH (Table 21-8). -/
def health (s : State) : Nat :=
  let bit : List (Bool × Nat) :=
    [(s.mode = .hold, 0), (s.mode = .hold, 1), ((List.range 12).any fun c => od s (0x2020 + c) 1 = 3, 2),
     (od s 0x2810 1 = 1 || od s 0x2810 1 = 2, 3), (od s 0x2811 1 = 1 || od s 0x2811 1 = 2, 4), (kolState s = 0, 5),
     (pairState s = 4, 6), (thermalLimit s, 7), (od s 0x2000 5 ≠ 0, 8), (od s 0x1200 1 = 2, 9)]
  (bit.map fun (b, i) => if b then 2 ^ i else 0).foldl (· + ·) 0

/-- The STATUS2–STATUS0 pins: the mode's code, or its value at the declaration while the switch-over window holds it
(R414, R443). -/
def statusPins (s : State) : Nat :=
  match s.tw.held with
  | some (v, _) => v
  | none => s.mode.code

/-- FAULT_N is asserted, in HOLD and in no other mode; it is not held (R414, R443). -/
def faultPin (s : State) : Bool := s.mode = .hold

/-- PAIR_STATE and SERIAL of a side, as this device knows them. -/
def sideView (s : State) (x : Nat) : Nat × Nat :=
  if side s = x then (pairState s, serial s)
  else match s.tw.partner with
    | some hb => (hb.pairState, hb.serial)
    | none => (0, od s 0x2C00 6)

/-- The body of a pair frame, from the byte after CYC_SEQ on (Table 21-5). -/
def pairFrameTail (s : State) : List Byte :=
  let a := sideView s 0
  let b := sideView s 1
  leBytes 1 s.mode.code ++ leBytes 1 (pairState s) ++ leBytes 1 1 ++ leBytes 1 1 ++ leBytes 4 (health s) ++ leBytes 8 0 ++
  leBytes 4 0 ++ leBytes 8 (pairId s) ++ leBytes 4 (od s 0x2C00 4) ++ leBytes 1 (od s 0x2C01 0) ++ leBytes 1 a.1 ++
  leBytes 1 b.1 ++ leBytes 1 0 ++ leBytes 8 a.2 ++ leBytes 8 b.2

/-! ### Claims (R412, R413, R438) -/

/-- Whether a claim of one epoch and side beats another's (R412). -/
def beats (e₁ side₁ e₂ side₂ : Nat) : Bool := e₂ < e₁ || (e₁ = e₂ && side₁ = 0 && side₂ ≠ 0)

/-- The highest leadership epoch the device knows. -/
def knownEpoch (s : State) : Nat := max (max (od s 0x2C00 4) s.tw.known) (max s.tw.shadow.epoch s.vd.loggedEpoch)

/-- The device's claim. -/
def myClaim (s : State) : ClaimMsg := ⟨od s 0x2C00 4, side s, serial s, pairId s⟩

/-- The 24 bytes of a CLAIM body (R438). -/
def claimBody (m : ClaimMsg) : List Byte :=
  leBytes 8 m.pairId ++ leBytes 8 m.serial ++ leBytes 4 m.epoch ++ leBytes 1 m.side ++ leBytes 3 0

/-- The claim that a CLAIM body carries (R438). -/
def claimOf (b : List Byte) : ClaimMsg := { pairId := fld b 0 8, serial := fld b 8 8, epoch := fld b 16 4, side := fld b 20 1 }

/-- The device's claim is sent, to ff02::1 at VDP_PORT. -/
def sendClaim (s : State) : State := emit (.claim (od s 0x1100 5) (vdpMsg 0x11 0 0 0 (claimBody (myClaim s)))) s

/-- Leadership is taken with a secured epoch: the claim is sent at once, and nine times more (R412). -/
def takeLead (e : Nat) (s : State) : State :=
  let s := odSet 0x2C00 4 e (odSet 0x2C00 3 1 s)
  let s := { s with vd := { s.vd with loggedEpoch := e } }
  sendClaim (twMod (fun w => { w with claims := 9, claimWait := false, known := e, claimRec := none }) s)

/-- The device claims leadership with the highest epoch it knows + 1 (R412). The epoch is secured first: while PAIRED the claim
waits for the acknowledgement of its FLOOR record (Table 20-7), and in any other state the counter log secures it. -/
def claimLead (s : State) : State :=
  let e := knownEpoch s + 1
  let record := MRec.floorEpoch e (od s 0x2C01 0)
  if pairState s = 3 then
    mirror record (twMod (fun w => { w with claimRec := some (w.nextRec, e), claimWait := false, known := e }) s)
  else mirror record (takeLead e s)

/-- The FLOOR record of a claim's epoch has been acknowledged: the claim is made, unless the twin has claimed a higher epoch
meanwhile (log entry 69). -/
def claimSecured (s : State) : State :=
  match s.tw.claimRec with
  | none => s
  | some (num, e) =>
    if s.tw.acked < num || s.tw.lost.contains num then s
    else if e < knownEpoch s then twMod (fun w => { w with claimRec := none }) s
    else takeLead e s

/-- A leader yields: it stops publishing pair frames and releases the pair node (R412). -/
def yieldLead (s : State) : State :=
  let s := { s with vd := { s.vd with pairTail := [] } }
  odSet 0x2C00 3 0 (twMod (fun w => { w with claims := 0 }) s)

/-- The self-diagnosis of R413; a device still starting up is judged without the mode. -/
def selfDiag (starting : Bool) (s : State) : Bool :=
  (starting || s.mode = .run || s.mode = .drain) && s.pw.fatal.isNone && s.vd.netUp &&
  ([0, 1].any fun k => od s (0x2810 + k) 1 = 0 || od s (0x2810 + k) 1 = 3)

/-- What a device does about leadership when it declares loss, or reaches SOLO at start-up (R413, R473). -/
def leadAfterLoss (starting : Bool) (s : State) : State :=
  if side s = 0 then (if selfDiag starting s then claimLead s else yieldLead s)
  else if role s = 1 then s
  else twMod (fun w => { w with claimWait := true }) s

/-- A claim received (R438). -/
def claimArrives (m : ClaimMsg) (s : State) : State :=
  if pairId s = 0 || m.pairId ≠ pairId s || m.serial = serial s || (od s 0x2C00 6 ≠ 0 && m.serial ≠ od s 0x2C00 6) then
    odBump 0x1102 7 s
  else
    let s := twMod (fun w => { w with known := max w.known m.epoch, heard := true }) s
    let s := if role s = 1 && beats m.epoch m.side (od s 0x2C00 4) (side s) then yieldLead s else s
    if m.side = 0 && side s = 1 then twMod (fun w => { w with claimWait := false }) s else s

/-! ### Acceptance by the pair policy (R14, R410) -/

/-- Entries that wait at step 4 are accepted where the pairing state and the policy accept them without the mirror. -/
def settlePending (s : State) : State :=
  let ids := (s.js.jobs.filter fun j => j.jstate = .pending && j.awaits.isNone).map (·.jid)
  ids.foldl (fun s k => acceptByPolicy k s) s

/-- The pair leaves PAIRED: waits on the mirror end, and the log rule secures what was waiting (R381, R410, R411). A claim
that waited is given up with them, and is made anew where R413 has it. -/
def endMirrorWaits (s : State) : State :=
  let s := { s with js := { s.js with jobs := s.js.jobs.map fun (j : Job) => { j with awaits := none } } }
  let s := twMod (fun w => { w with lost := [], claimRec := none }) s
  match s.vd.held with
  | some h =>
    match h.stage with
    | .mirrorAck _ =>
      let h' := { h with stage := .counterLog }
      { s with vd := { s.vd with held := some h' } }
    | _ => s
  | none => s

/-- The declaration of loss (R406, R413, R414, R416). A leader's pair frames keep the body of the last one sent; a device that
has sent none holds the values of the declaration (R434). -/
def declareLoss (s : State) : State :=
  if pairState s = 2 || pairState s = 3 then
    let now := s.time
    let pins := s.mode.code
    let frame := if s.vd.pairTail.isEmpty then pairFrameTail s else s.vd.pairTail
    let s := twMod (fun w => { w with exchanged := false, lostAt := some now, held := some (pins, frame), fromUnpaired := false, heard := false }) s
    let s := odSet 0x2C00 1 4 (odBump 0x2C02 7 s)
    leadAfterLoss false (settlePending (endMirrorWaits s))
  else s

/-! ### The link (R402, R404) -/

/-- Numbers of the records in the replay buffers and of those waiting behind them. -/
def unsent (w : TwinState) : List Nat := (w.replay.flatMap (·.2) ++ w.waiting).map (·.num)

/-- The link goes DOWN: its replay buffers are discarded, and no acknowledgement covers what was in them (R404, R410). Records
received in order are still applied (R409); one that would end an exchange no longer does. -/
def linkDown (s : State) : State :=
  twMod (fun w =>
    { w with lost := w.lost ++ unsent w, waiting := [], replay := [], txSeq := 0, rxSeq := 0, nakSent := false, replays := 0
             received := w.received.map fun m => if m.place = 2 then { m with place := 0 } else m
             exchanged := false })
    (setKolfer 0 0 s)

/-- ACK of an arriving flit: flits up to it are acknowledged, and the room is used (R404). -/
def ackArrives (ack : Nat) (s : State) : State :=
  match findPos (fun e => e.1 = ack) s.tw.replay with
  | some i =>
    let s := twMod (fun w => { w with replay := w.replay.drop (i + 1), replays := 0 }) s
    flushMirror s.tw.waiting.length s
  | none => s

/-- Flits flow on the link. -/
def flitsFlow (s : State) : Bool := kolState s = 2

/-- A NAK is sent, once until an in-order flit arrives (R404). -/
def sendNak (s : State) : State :=
  if s.tw.nakSent then s else sendFlit 3 [] (twMod (fun w => { w with nakSent := true }) s)

/-- The sender replays from the oldest unacknowledged flit (R404). -/
def resendFlits (s : State) : State :=
  let ack := ackSeq s
  s.tw.replay.foldl (fun s f => emit (.dataFlit f.1 ack f.2) s) s

/-- A replay; the fourth in a row without an advance of ACK takes the link to RETRAIN (R404). -/
def replayAll (s : State) : State :=
  let n := s.tw.replays + 1
  let s := resendFlits (odBump 0x2C02 4 s)
  if 4 ≤ n then odBump 0x2C02 5 (odSet 0x2C02 1 3 (twMod (fun w => { w with replays := 0 }) s))
  else twMod (fun w => { w with replays := n }) s

/-- A flit whose CRC fails is counted and answered with a NAK (R404); in LOW_RATE the link carries heartbeats alone (R401). -/
def badFlit (s : State) : State :=
  let s := odBump 0x2C02 3 s
  if flitsFlow s then sendNak s else s

/-- DATA_FLIT (R404): a flit that is discarded acknowledges nothing. -/
def execDataFlit (flit : Flit) (s : State) : Host.Outcome State Fault Refusal :=
  .next (if !flitsFlow s then s
    else if !flit.crcOk then badFlit s
    else
      if flit.seq ≠ s.tw.rxSeq then sendNak s
      else
        let s := ackArrives flit.ack s
        sendFlit 2 [] (twMod (fun w =>
          { w with rxSeq := (flit.seq + 1) % 4096, nakSent := false, received := w.received ++ flit.recs }) s))

/-- IDLE_FLIT (R403). -/
def execIdleFlit (crcOk : Bool) (ack : Nat) (s : State) : Host.Outcome State Fault Refusal :=
  .next (if !flitsFlow s then s else if !crcOk then badFlit s else ackArrives ack s)

/-- NAK_FLIT (R404). -/
def execNakFlit (crcOk : Bool) (ack : Nat) (s : State) : Host.Outcome State Fault Refusal :=
  .next (if !flitsFlow s then s
    else if !crcOk then badFlit s
    else
      let s := ackArrives ack s
      if s.tw.replay.isEmpty then s else replayAll s)

/-- REPLAY_TIMEOUT (R404): 20 µs with flits outstanding and no advance of ACK. -/
def execReplayTimeout (s : State) : Host.Outcome State Fault Refusal :=
  .next (if !flitsFlow s || s.tw.replay.isEmpty then s else replayAll s)

/-- TRAIN_ATTEMPT (Table 20-1): every 10 ms, while the twin's lanes show signal. -/
def execTrainAttempt (signal : Bool) (s : State) : Host.Outcome State Fault Refusal :=
  .next (if kolState s = 0 && signal && s.mode ≠ .off && s.mode ≠ .fuseLoad then odSet 0x2C02 1 1 s else s)

/-- A trained link is ACTIVE on its lanes, or at once in LOW_RATE where the device is or becomes DORMANT (R401). -/
def linkTrained (lanes : Nat) (s : State) : State :=
  if lowRate s then setKolfer 4 1 s else flushMirror s.tw.waiting.length (setKolfer 2 lanes s)

/-- TRAIN_DONE (R401, Table 20-1): all 8 lanes, or lanes 0–3 or 4–7 alone, or DOWN. -/
def execTrainDone (lanes : BitVec 8) (s : State) : Host.Outcome State Fault Refusal :=
  .next (if kolState s ≠ 1 then s
    else if lanes = 0xFF then linkTrained 8 s
    else if lanes &&& 0x0F = 0x0F || lanes &&& 0xF0 = 0xF0 then linkTrained 4 s
    else linkDown s)

/-- RETRAIN_DONE (Table 20-1, R404). A link that loses its lanes with no DATA flit outstanding has no row of its own: it
goes through RETRAIN at once, and without success it is DOWN (log entry 33). -/
def execRetrainDone (ok : Bool) (s : State) : Host.Outcome State Fault Refusal :=
  .next (if kolState s ≠ 3 then (if !ok && (kolState s = 2 || kolState s = 4) then linkDown s else s)
    else if !ok then linkDown s
    else if lowRate s then setKolfer 4 1 s
    else
      let s := resendFlits (odSet 0x2C02 1 2 s)
      flushMirror s.tw.waiting.length s)

/-! ### The shadow (R408, R409, R418) -/

/-- Key of a queue of an instance in the shadow. -/
def shadowKey (n : Nat) (cq : Bool) (q : Nat) : Nat := n * 32 + (if cq then 16 else 0) + q

/-- ENTRIES of a shadow queue. -/
def shadowEntries (cq : Bool) (q : ShadowQ) : Nat := q.fields.getD (if cq then 1 else 2) 16

/-- Position of a slot number at or after a position. -/
def slotFrom (pos entries slot : Nat) : Nat := pos + (slot + entries - pos % entries) % entries

/-- The CQ a shadow SQ is bound to. -/
def shadowCq (sh : Shadow) (n sq : Nat) : Option (Nat × ShadowQ) :=
  match tfind sh.queues (shadowKey n false sq) with
  | some q =>
    let c := q.fields.getD 4 0
    (tfind sh.queues (shadowKey n true c)).map fun x => (c, x)
  | none => none

/-- Whether two journal entries are of one job: instance, generation, SQ, ASN. -/
def sameJob (a b : List Byte) : Bool := fld a 2 4 = fld b 2 4 && fld a 6 1 = fld b 6 1 && fld a 8 8 = fld b 8 8

/-- An ENTRY record in a shadow: it counts as accepted from now on (R410). -/
def shadowEntry (b : List Byte) (sh : Shadow) : Shadow :=
  let b := if fld b 0 1 = 1 then splice b 0 [2] else b
  let n := fld b 2 2
  let k := shadowKey n false (fld b 6 1)
  let qs := match tfind sh.queues k with
    | some q =>
      let e := shadowEntries false q
      let abs := slotFrom q.pos (256 * e) (fld b 7 1 * e + fld b 0x1C 2)
      tset sh.queues k { q with asn := max q.asn (fld b 8 8), taken := q.taken.filter (· ≠ abs) ++ [abs] }
    | none => sh.queues
  { sh with queues := qs, entries := sh.entries.filter (fun e => !sameJob e b) ++ [b] }

/-- A POST record in a shadow: the entry with its CQ slot; the CQ has that slot taken. -/
def shadowPost (b : List Byte) (sh : Shadow) : Shadow :=
  let n := fld b 2 2
  let es := if sh.entries.any (fun e => sameJob e b) then sh.entries.map fun e => if sameJob e b then b else e
    else sh.entries ++ [b]
  let qs := match shadowCq sh n (fld b 6 1) with
    | some (c, q) => tset sh.queues (shadowKey n true c) { q with pos := slotFrom q.pos (shadowEntries true q) (fld b 0x1E 2) + 1 }
    | none => sh.queues
  { sh with entries := es, queues := qs }

/-- A RETIRE record in a shadow. -/
def shadowRetire (n sq asn : Nat) (sh : Shadow) : Shadow :=
  { sh with entries := sh.entries.filter fun e => !(fld e 2 2 = n && fld e 6 1 = sq && fld e 8 8 = asn) }

/-- A queue's definition in a shadow; the fields after those of Table 14-5 are its positions (R419). -/
def shadowQueue (n : Nat) (cq : Bool) (q : Nat) (f : List Nat) (sh : Shadow) : Shadow :=
  let k := shadowKey n cq q
  if f.isEmpty then { sh with queues := tdel sh.queues k }
  else if cq then
    { sh with queues := tset sh.queues k { fields := f.take 6, pos := f.getD 6 0, head := f.getD 7 0 } }
  else
    { sh with queues := tset sh.queues k { fields := f.take 7, pos := f.getD 7 0, asn := f.getD 8 0, taken := f.drop 9 } }

/-- A queue's position in a shadow: an SQ's head, or a CQ_HEAD. -/
def shadowPos (n : Nat) (cq : Bool) (q v : Nat) (sh : Shadow) : Shadow :=
  let k := shadowKey n cq q
  match tfind sh.queues k with
  | some x =>
    if cq then
      let h := slotFrom x.head (shadowEntries true x) v
      { sh with queues := tset sh.queues k { x with head := h, pos := max x.pos h } }
    else { sh with queues := tset sh.queues k { x with pos := v, taken := x.taken.filter fun p => v ≤ p } }
  | none => sh

/-- A record applied to a shadow (R409). -/
def applyShadow (r : MRec) (sh : Shadow) : Shadow :=
  match r with
  | .entry b => shadowEntry b sh
  | .post b => shadowPost b sh
  | .retire n sq asn => shadowRetire n sq asn sh
  | .queueDef n cq q f => shadowQueue n cq q f sh
  | .queuePos n cq q v => shadowPos n cq q v sh
  | .instAttrs n a => { sh with insts := tset sh.insts n a }
  | .floorCounter p c _ => { sh with floors := tset sh.floors p (max c (tget 0 sh.floors p)) }
  | .floorEpoch e v => { sh with epoch := max sh.epoch e, policy := v }
  | .ack _ => sh

/-! ### Orphaning (R417, R418) -/

/-- An attribute of a lost twin's instance. -/
def shadowAttr (sh : Shadow) (n k : Nat) : Nat :=
  match (tget [] sh.insts n).find? fun a => a.1 = k with
  | some a => a.2
  | none => 0

/-- The link for a CQ of an instance: the one with the number of its LINK, which for instance 0 is the lost twin's
MANAGER_LINK (R297, R418). -/
def shadowLink (sh : Shadow) (n : Nat) : Nat := shadowAttr sh n 0x28

/-- Outcome of one orphan: posted, waiting for a CQ slot, or out of reach. -/
inductive OrphanOut
  | posted
  | waits
  | unreachable
  deriving DecidableEq, Repr

/-- One shadow entry is orphaned (R417, R418): the outcome, the shadow, the state. In HOLD nothing is completed (R453). -/
def orphanOne (sh : Shadow) (b : List Byte) (s : State) : OrphanOut × Shadow × State :=
  let n := fld b 2 2
  let sq := fld b 6 1
  match shadowCq sh n sq with
  | none => (.unreachable, sh, s)
  | some (c, q) =>
    if locOf (q.fields.getD 2 0) = .device then (.unreachable, sh, s)
    else if s.mode = .hold then (.waits, sh, s)
    else
      let e := shadowEntries true q
      let base := q.fields.getD 0 0
      let link := shadowLink sh n
      let retired := shadowRetire n sq (fld b 8 8) sh
      let done := fun (sh : Shadow) (s : State) =>
        let s := odBump 0x2C03 4 s
        (OrphanOut.posted, sh, sendItem true (.retire n sq (fld b 8 8)) s)
      if fld b 0 1 = 3 then
        match hostWrite link (base + 32 * fld b 0x1E 2) (slice b 0x20 32) s with
        | (some _, s) => (.waits, sh, s)
        | (none, s) => done retired s
      else if e ≤ q.pos - q.head then (.waits, sh, s)
      else
        let entry := cqEntry (fld b 8 8) (fld b 0x1C 2 + 65536 * fld b 7 1) 0xFFFFFFFF 0x0602 (fld b 4 2) sq 1
          (1 - q.pos / e % 2)
        match hostWrite link (base + 32 * (q.pos % e)) entry s with
        | (some _, s) => (.waits, sh, s)
        | (none, s) =>
          done { retired with queues := tset retired.queues (shadowKey n true c) { q with pos := q.pos + 1 } } s

/-- The entries of one SQ, in ascending ASN order, as far as its CQ takes them. -/
def orphanSq : List (List Byte) → Shadow × State → Shadow × State
  | [], x => x
  | b :: rest, (sh, s) =>
    match orphanOne sh b s with
    | (.posted, sh, s) => orphanSq rest (sh, s)
    | (_, sh, s) => (sh, s)

/-- Insertion of an entry by ASN. -/
def insertAsn (b : List Byte) : List (List Byte) → List (List Byte)
  | [] => [b]
  | c :: t => if fld b 8 8 < fld c 8 8 then b :: c :: t else c :: insertAsn b t

/-- The SQs a shadow has entries of. -/
def shadowSqs (sh : Shadow) : List Nat := (sh.entries.map fun b => fld b 2 2 * 16 + fld b 6 1).eraseDups

/-- Every shadow entry that can be orphaned now is (R417). -/
def orphanAll (sh : Shadow) (s : State) : Shadow × State :=
  (shadowSqs sh).foldl (fun x k =>
    let bs := (x.1.entries.filter fun b => fld b 2 2 * 16 + fld b 6 1 = k).foldl (fun l b => insertAsn b l) []
    orphanSq bs x) (sh, s)

/-- Entries of a shadow whose CQ lies in host memory: those that still wait (R418). -/
def orphansWaiting (sh : Shadow) : Nat :=
  (sh.entries.filter fun b => match shadowCq sh (fld b 2 2) (fld b 6 1) with
    | some (_, q) => locOf (q.fields.getD 2 0) = .host
    | none => false).length

/-- Orphans that can be posted now are, and ORPHANS_WAITING follows. -/
def postOrphans (s : State) : State :=
  let (old, s) := orphanAll s.tw.old s
  let (sh, s) := if s.tw.orphaning then orphanAll s.tw.shadow s else (s.tw.shadow, s)
  let s := twMod (fun w => { w with old := if orphansWaiting old = 0 then {} else old, shadow := sh }) s
  odSet 0x2C03 5 (orphansWaiting s.tw.old + (if s.tw.orphaning then orphansWaiting sh else 0)) s

/-- Orphaning begins: a pair event is raised on PF0 (R417, R418). With no twin lost and no shadow kept there is nothing to
orphan. -/
def beginOrphaning (s : State) : State :=
  if (s.tw.lostAt.isSome || !s.tw.shadow.entries.isEmpty) && (pairState s = 4 || pairState s = 1) then
    let s := if s.tw.orphaning then s else postEvent .pair (twMod (fun w => { w with orphaning := true }) s)
    postOrphans s
  else s

/-- ORPHAN_DELAY (R417): the delay has passed since the loss. A twin heard on the field network meanwhile begins it again. -/
def execOrphanDelay (s : State) : Host.Outcome State Fault Refusal :=
  .next (unlessHold s (if od s 0x2C03 2 = 0 || s.tw.lostAt.isNone then s
    else if s.tw.heard then twMod (fun w => { w with heard := false }) s
    else beginOrphaning s))

/-- A write of ORPHAN_NOW (R417). -/
def writeOrphanNow (v : Nat) (s : State) : Except VdpErr State := if v = 1 then .ok (beginOrphaning s) else .error .range

/-- A write of ORPHAN_CQ_HEAD (R418): more slots of a lost twin's CQ are known to be free. A reserved byte 3 that is not 0 is
refused with RANGE: DESIGN CHOICE (log entry 63), as R6 only has software write 0 there. -/
def writeOrphanCqHead (value : List Byte) (s : State) : Except VdpErr State :=
  let n := fld value 0 2
  let c := fld value 2 1
  let h := fld value 4 4
  let in_ : Shadow → Bool := fun sh => match tfind sh.queues (shadowKey n true c) with
    | some q => decide (c < 16 && fld value 3 1 = 0 && h < shadowEntries true q)
    | none => false
  let here := in_ s.tw.shadow
  let older := in_ s.tw.old
  if here || older then
    let sh := if here then shadowPos n true c h s.tw.shadow else s.tw.shadow
    let old := if older then shadowPos n true c h s.tw.old else s.tw.old
    .ok (postOrphans (twMod (fun w => { w with shadow := sh, old := old }) s))
  else .error .range

/-! ### SYNCING (R419) -/

/-- Every queue of an instance, with its positions. -/
def sendQueues (n : Nat) (s : State) : State :=
  let i := inst s n
  let s := i.cqs.foldl (fun s e => mirror (.queueDef n true e.1 (cqFields e.2 ++ [e.2.tail, e.2.head])) s) s
  i.sqs.foldl (fun s e =>
    let q := e.2
    mirror (.queueDef n false e.1
      (sqFields q ++ [if q.network then q.head else q.written, q.nextAsn - 1] ++ q.taken)) s) s

/-- A device sends its instance and queue state and its journal, the PENDING entries apart (Table 20-8 step 2). Instance 0
comes first, and is always present. -/
def sendWhole (s : State) : State :=
  let s := (presentInsts s).foldl (fun s n => sendQueues n (sendPlaced false (if n = 0 then 1 else 0) (instRecord s n) s)) s
  (s.js.jobs.filter fun j => j.jstate ≠ .pending).foldl (fun s j =>
    if j.jstate = .posting then mirror (.post (journalEntry j)) (mirror (.entry (journalEntry j)) s)
    else mirror (.entry (journalEntry j)) s) s

/-- A device sends its floors and its epoch. -/
def sendFloors (s : State) : State :=
  let s := (List.range 16).foldl (fun s p => mirror (.floorCounter p (od s (0x1140 + p) 4) none) s) s
  sendPlaced false 2 (.floorEpoch (od s 0x2C00 4) (od s 0x2C01 0)) s

/-- The shadow is handed back to its owner (Table 20-8 step 3). -/
def handBack (s : State) : State :=
  let sh := s.tw.shadow
  let s := sh.insts.foldl (fun s e => sendItem true (.instAttrs e.1 e.2) s) s
  let s := sh.queues.foldl (fun s e =>
    let n := e.1 / 32
    let q := e.2
    if e.1 % 32 < 16 then sendItem true (.queueDef n false (e.1 % 32) (q.fields ++ [q.pos, q.asn] ++ q.taken)) s
    else sendItem true (.queueDef n true (e.1 % 32 - 16) (q.fields ++ [q.pos, q.head])) s) s
  sh.entries.foldl (fun s b => sendItem true (if fld b 0 1 = 3 then .post b else .entry b) s) s

/-- SYNCING begins: steps 1 to 4 of Table 20-8. -/
def enterSync (hb : HeartBeat) (s : State) : State :=
  let s := odSet 0x2C00 1 2 (twMod (fun w => { w with waiting := [] }) s)
  let s :=
    if hb.intact then twMod (fun w => { w with orphaning := false }) s
    else if hb.kept then handBack (twMod (fun w => { w with orphaning := false }) s)
    else
      let s := if s.tw.shadow.entries.isEmpty then s else postEvent .pair s
      let (sh, s) := orphanAll s.tw.shadow s
      postOrphans (twMod (fun w => { w with old := sh, shadow := w.shadow.emptied, orphaning := false }) s)
  let s := if s.tw.intact then sendWhole s else s
  sendFloors s

/-- A floor rises to the twin's, if that is higher, and LOGGED follows once the floor is 4,096 above it, as for a counter of
the device's own (R381; log entry 69). -/
def raiseFloor (p c : Nat) (s : State) : State :=
  let s := odSet (0x1140 + p) 4 (max (od s (0x1140 + p) 4) c) s
  if od s (0x1140 + p) 5 + 4096 ≤ c then odSet (0x1140 + p) 5 c s else s

/-- Floors and epoch rise to the twin's, and PAIR_POLICY is that of the higher epoch (Table 20-8 step 5, R381, R437). -/
def adoptFloors (s : State) : State :=
  let sh := s.tw.shadow
  let s := sh.floors.foldl (fun s e => raiseFloor e.1 e.2 s) s
  if od s 0x2C00 4 < sh.epoch then odSet 0x2C00 4 sh.epoch (odSet 0x2C01 0 sh.policy s) else s

/-- SYNC_COMPLETE (Table 20-8 steps 5 and 6): the exchange is done, the twin's part of it applied. A side that came with neither flag has not sent its
state before, and sends it now. -/
def syncComplete (s : State) : State :=
  if pairState s = 2 && s.tw.exchanged && s.tw.received.isEmpty then
    let s := if s.tw.intact || s.tw.kept then s else sendWhole s
    let s := adoptFloors s
    let s := odSet 0x2C00 1 3 s
    let s := twMod (fun w =>
      { w with intact := true, kept := false, lostAt := none, orphaning := false, claimWait := false }) s
    let ids := (s.js.jobs.filter fun j => j.jstate = .pending).map (·.jid)
    let s := ids.foldl (fun s k => sendEntry k s) s
    let led := role s = 1 || (match s.tw.partner with
      | some hb => decide (hb.role = 1)
      | none => false)
    if !led && side s = 0 then claimLead s else s
  else s

/-- SYNC_COMPLETE (R419). -/
def execSyncComplete (s : State) : Host.Outcome State Fault Refusal := .next (syncComplete s)

/-! ### Heartbeats (R405 to R407) -/

/-- The device's heartbeat (Table 20-4). -/
def myHeartbeat (s : State) : HeartBeat :=
  { ack := ackSeq s, serial := serial s, pairId := pairId s, epoch := od s 0x2C00 4, side := side s, role := role s
    pairState := pairState s, mode := s.mode.code, intact := s.tw.intact, kept := s.tw.kept, hbSeq := s.tw.hbSeq }

/-- The payload of a HEARTBEAT flit (Table 20-4). -/
def heartbeatBody (h : HeartBeat) : List Byte :=
  leBytes 8 h.serial ++ leBytes 8 h.pairId ++ leBytes 4 h.epoch ++ leBytes 1 h.side ++ leBytes 1 h.role ++
  leBytes 1 h.pairState ++ leBytes 1 h.mode ++ leBytes 1 (h.intact.toNat + 2 * h.kept.toNat) ++ leBytes 3 0 ++
  leBytes 4 h.hbSeq

/-- HEARTBEAT_SEND (R405): every 250 µs, while the link carries flits, from the start of pairing at the end of loading on
(R473; log entry 34). -/
def execHeartbeatSend (s : State) : Host.Outcome State Fault Refusal :=
  .next (if (kolState s = 2 || kolState s = 4) && pairState s ≠ 0 then
      sendFlit 4 (heartbeatBody (myHeartbeat s)) (twMod (fun w => { w with hbSeq := (w.hbSeq + 1) % 2 ^ 32 }) s)
    else s)

/-- TIMEREF periods in the 1 ms of R406. -/
def lossDelay : Nat := 1000 * perUs

/-- A valid heartbeat in time: what the device learns of its twin, its leadership, and the pairing state it moves to. -/
def heartbeatValid (hb : HeartBeat) (s : State) : State :=
  let now := s.time
  let s := odSet 0x2C00 6 hb.serial (twMod (fun w =>
    { w with partner := some hb, hbAt := now, known := max w.known hb.epoch }) s)
  let s := if role s = 1 && hb.role = 1 && beats hb.epoch hb.side (od s 0x2C00 4) (side s) then yieldLead s else s
  let gone := hb.mode = 7 || hb.mode = 0
  if gone then declareLoss s
  else if pairState s = 4 then odSet 0x2C00 1 1 (twMod (fun w => { w with fromUnpaired := false }) s)
  else if pairState s = 1 then enterSync hb s
  else s

/-- HEARTBEAT (R405, R406). One that comes at the very moment the 1 ms runs out wins, if TWIN_LOSS has not come before it, and
is else discarded and counted; one that comes later has lost to the deadline (R253). -/
def execHeartbeat (hb : HeartBeat) (s : State) : Host.Outcome State Fault Refusal :=
  .next (if kolState s ≠ 2 && kolState s ≠ 4 then s
    else
      let s := if hb.crcOk then ackArrives hb.ack s else badFlit s
      if !hb.crcOk || hb.pairId ≠ pairId s || hb.side = side s then odBump 0x2C02 8 s
      else if (pairState s = 2 || pairState s = 3) && lossDelay < s.time - s.tw.hbAt then
        declareLoss (odBump 0x2C02 6 s)
      else if pairState s = 4 && s.tw.lostAt = some s.time then odBump 0x2C02 6 s
      else heartbeatValid hb s)

/-- TWIN_LOSS (R406): 1 ms has passed since the last valid heartbeat. One that arrived at this very moment has cancelled the
deadline (R253). -/
def execTwinLoss (s : State) : Host.Outcome State Fault Refusal :=
  .next (if s.tw.partner.isSome && s.tw.hbAt = s.time then s else declareLoss s)

/-- LINK_WAIT (Table 20-5): SOLO from LINKING, when that was entered from UNPAIRED; then R413 as for a loss (R473). -/
def execLinkWait (s : State) : Host.Outcome State Fault Refusal :=
  .next (if pairState s = 1 && s.tw.fromUnpaired then
      leadAfterLoss true (settlePending (odSet 0x2C00 1 4 (twMod (fun w => { w with fromUnpaired := false }) s)))
    else s)

/-- CLAIM (R438). -/
def execClaimMsg (msg : ClaimMsg) (s : State) : Host.Outcome State Fault Refusal :=
  .next (if s.mode = .off || s.mode = .fuseLoad then s else claimArrives msg s)

/-- CLAIM_REPEAT (R412): every 1 ms for 10 ms. -/
def execClaimRepeat (s : State) : Host.Outcome State Fault Refusal :=
  .next (if s.tw.claims = 0 then s
    else sendClaim (twMod (fun w => { w with claims := w.claims - 1 }) s))

/-- CLAIM_WAIT (R413): no claim from side A has come in 4 ms. -/
def execClaimWait (s : State) : Host.Outcome State Fault Refusal :=
  .next (if s.tw.claimWait then claimLead s else s)

/-- SWITCH_OVER_END (R414): the outputs show the current state again. -/
def execSwitchOverEnd (s : State) : Host.Outcome State Fault Refusal :=
  .next (twMod (fun w => { w with held := none }) s)

/-! ### State handed back to its owner (R420) -/

/-- An SQ is rebuilt: admission resumes at its last written-back head. -/
def rebuildSq (f : List Nat) : SubQ :=
  let pos := f.getD 7 0
  let asn := f.getD 8 0
  let q := sqOfFields f
  { q with tail := pos % q.entries, fetch := pos, head := pos, written := pos, nextAsn := asn + 1, postAsn := asn + 1
           taken := f.drop 9 }

/-- A CQ is rebuilt. -/
def rebuildCq (f : List Nat) : ComplQ := { cqOfFields f with tail := f.getD 6 0, head := f.getD 7 0 }

/-- A job is rebuilt from its journal entry and its admission copy: an ACCEPTED one runs again from its first phase, a
POSTING one writes its CQ entry again (R420). -/
def rebuildJob (b : List Byte) (s : State) : State :=
  let n := fld b 2 2
  let k := fld b 6 1
  let copy := fld b 0x10 8 / 0x100000
  match tfind s.ms.planStore copy, sqAt s n k with
  | some (desc, plan), some q =>
    let jid := s.js.nextJid
    let posting := fld b 0 1 = 3
    let sp := match plan with
      | some p => (planSpill p (bounds p)).1
      | none => 0
    let abs := slotFrom q.head (256 * q.entries) (fld b 7 1 * q.entries + fld b 0x1C 2)
    let cqSlot := fld b 0x1E 2
    let cqPos := match cqAt s n q.cq with
      | some c => if posting then c.tail - 1 else 0
      | none => 0
    let j : Job :=
      { jid := jid, inst := n, gen := fld b 4 2, sq := k, pos := abs, slot := fld b 0x1C 2, pass := fld b 7 1, asn := fld b 8 8
        jstate := if posting then .posting else .accepted, network := (fld b 1 1).testBit 0, unmirrored := (fld b 1 1).testBit 1
        kind := descKind desc, desc := desc, noIrq := (fld desc 1 1).testBit 0, priority := min (fld desc 3 1) (od s (instIdx n) 6)
        deadline := if descKind desc = .plan then fld desc 0x24 4 else 0, acceptedAt := s.time, copy := copy, plan := plan
        spill := if posting then 0 else sp, quota := od s (instIdx n) 8, cqPos := cqPos, cqSlot := cqSlot
        entry := if posting then slice b 0x20 32 else [], replayed := true
        ended := if posting then some ⟨fld b 0x34 2, {}⟩ else none }
    let s := { s with js := { s.js with jobs := s.js.jobs ++ [j], nextJid := jid + 1 } }
    let s := sqMod n k (fun q => { q with nextAsn := max q.nextAsn (j.asn + 1), postAsn := min q.postAsn j.asn }) s
    let s := odSet (instIdx n) 0x0B (od s (instIdx n) 0x0B - j.spill) s
    if posting then s
    else
      match j.kind, j.plan with
      | .plan, some p =>
        let ph := startPhases s p.image
        jobMod jid (fun j => { j with phases := ph }) s
      | .cancel, _ => cancelActs j s
      | _, _ => jobMod jid (fun j => { j with ended := some ⟨0, {}⟩ }) s
  | _, _ => s

/-- A record handed back is applied to the device's own state (R420). -/
def applyBack (r : MRec) (s : State) : State :=
  match r with
  | .instAttrs n a =>
    let s := a.foldl (fun s x => odSet (instIdx n) x.1 x.2 s) s
    let st := od s (instIdx n) 3
    odSet (instIdx n) 3 (if st = 0 then 0 else 1) (odSet (instIdx n) 0x0B (od s (instIdx n) 0x0A) s)
  | .queueDef n cq q f =>
    if cq then instMod n (fun i => { i with cqs := tset i.cqs q (rebuildCq f) }) s
    else instMod n (fun i => { i with sqs := tset i.sqs q (rebuildSq f) }) s
  | .entry b => rebuildJob b s
  | .post b => rebuildJob b s
  | .retire n sq asn =>
    match jobByAsn s n sq asn with
    | some j => freeEntry j.jid s
    | none => s
  | _ => s

end Sys2Proof.Machine
end

