-- ==== Sys2Proof/Machine/Dict.lean ====
section
/-! DEFINITION. The object dictionary: its entries with their types, access classes and ranges, and the values they read
(Tables 04-10 to 25-5; R8, R430). -/

namespace Sys2Proof.Machine

/-- Types of Table 21-4. -/
inductive Ty
  | bool
  | u8
  | u16
  | u32
  | u64
  | i32
  | i64
  | octets (n : Nat)
  | vstring (n : Nat)
  | domain
  deriving DecidableEq, Repr

/-- Type code (Table 21-4). -/
def Ty.code : Ty → Nat
  | .bool => 1
  | .u8 => 2
  | .u16 => 3
  | .u32 => 4
  | .u64 => 5
  | .i32 => 6
  | .i64 => 7
  | .octets _ => 8
  | .vstring _ => 9
  | .domain => 10

/-- Width of a type in bytes; a VSTRING's is its greatest, a DOMAIN has none. -/
def Ty.width : Ty → Nat
  | .bool => 1
  | .u8 => 1
  | .u16 => 2
  | .u32 => 4
  | .u64 => 8
  | .i32 => 4
  | .i64 => 8
  | .octets n => n
  | .vstring n => n
  | .domain => 0

/-- BOOL or an integer type (R434). -/
def Ty.mappable : Ty → Bool
  | .octets _ => false
  | .vstring _ => false
  | .domain => false
  | _ => true

/-- Access classes (R8). -/
inductive Acc
  | const
  | ro
  | rw
  | wo
  | rwc
  deriving DecidableEq, Repr

/-- A row of an entry table: the indices and subindices it covers, its type and access, and its plain range: least value,
greatest value and step. -/
structure Entry where
  idx : Nat
  idxLast : Nat
  sub : Nat
  subLast : Nat
  ty : Ty
  acc : Acc
  lo : Nat
  hi : Nat
  step : Nat
  deriving DecidableEq, Repr

/-- Entries 1 to 50 of the tables, in chapter order. -/
def dictRows0 : List Entry :=
  [ ⟨0x3800, 0x380B, 0x0, 0x0, .u8, .const, 9, 9, 1⟩,
    ⟨0x3800, 0x380B, 0x1, 0x1, .u8, .ro, 0, 255, 1⟩,
    ⟨0x3800, 0x380B, 0x2, 0x2, .u16, .ro, 0, 65535, 1⟩,
    ⟨0x3800, 0x380B, 0x3, 0x3, .u64, .ro, 0, 18446744073709551615, 1⟩,
    ⟨0x3800, 0x380B, 0x4, 0x4, .u64, .ro, 0, 18446744073709551615, 1⟩,
    ⟨0x3800, 0x380B, 0x5, 0x5, .u64, .ro, 0, 18446744073709551615, 1⟩,
    ⟨0x3800, 0x380B, 0x6, 0x6, .u64, .ro, 0, 18446744073709551615, 1⟩,
    ⟨0x3800, 0x380B, 0x7, 0x7, .u64, .ro, 0, 18446744073709551615, 1⟩,
    ⟨0x3800, 0x380B, 0x8, 0x8, .u64, .ro, 0, 18446744073709551615, 1⟩,
    ⟨0x3800, 0x380B, 0x9, 0x9, .u64, .ro, 0, 18446744073709551615, 1⟩,
    ⟨0x3820, 0x3827, 0x0, 0x0, .u8, .const, 8, 8, 1⟩,
    ⟨0x3820, 0x3827, 0x1, 0x1, .u8, .ro, 0, 255, 1⟩,
    ⟨0x3820, 0x3827, 0x2, 0x2, .u16, .ro, 0, 65535, 1⟩,
    ⟨0x3820, 0x3827, 0x3, 0x3, .u64, .ro, 0, 18446744073709551615, 1⟩,
    ⟨0x3820, 0x3827, 0x4, 0x4, .u64, .ro, 0, 18446744073709551615, 1⟩,
    ⟨0x3820, 0x3827, 0x5, 0x5, .u64, .ro, 0, 18446744073709551615, 1⟩,
    ⟨0x3820, 0x3827, 0x6, 0x6, .u64, .ro, 0, 18446744073709551615, 1⟩,
    ⟨0x3820, 0x3827, 0x7, 0x7, .u64, .ro, 0, 18446744073709551615, 1⟩,
    ⟨0x3820, 0x3827, 0x8, 0x8, .u32, .ro, 0, 4294967295, 1⟩,
    ⟨0x3828, 0x382B, 0x0, 0x0, .u8, .const, 6, 6, 1⟩,
    ⟨0x3828, 0x382B, 0x1, 0x1, .u8, .ro, 0, 255, 1⟩,
    ⟨0x3828, 0x382B, 0x2, 0x2, .u16, .ro, 0, 65535, 1⟩,
    ⟨0x3828, 0x382B, 0x3, 0x3, .u64, .ro, 0, 18446744073709551615, 1⟩,
    ⟨0x3828, 0x382B, 0x4, 0x4, .u64, .ro, 0, 18446744073709551615, 1⟩,
    ⟨0x3828, 0x382B, 0x5, 0x5, .u64, .ro, 0, 18446744073709551615, 1⟩,
    ⟨0x3828, 0x382B, 0x6, 0x6, .u64, .ro, 0, 18446744073709551615, 1⟩,
    ⟨0x3830, 0x3837, 0x0, 0x0, .u8, .const, 6, 6, 1⟩,
    ⟨0x3830, 0x3837, 0x1, 0x1, .u8, .ro, 0, 255, 1⟩,
    ⟨0x3830, 0x3837, 0x2, 0x2, .u16, .ro, 0, 65535, 1⟩,
    ⟨0x3830, 0x3837, 0x3, 0x3, .u64, .ro, 0, 18446744073709551615, 1⟩,
    ⟨0x3830, 0x3837, 0x4, 0x4, .u64, .ro, 0, 18446744073709551615, 1⟩,
    ⟨0x3830, 0x3837, 0x5, 0x5, .u64, .ro, 0, 18446744073709551615, 1⟩,
    ⟨0x3830, 0x3837, 0x6, 0x6, .u64, .ro, 0, 18446744073709551615, 1⟩,
    ⟨0x2800, 0x2803, 0x0, 0x0, .u8, .const, 5, 5, 1⟩,
    ⟨0x2800, 0x2803, 0x1, 0x1, .u8, .ro, 0, 255, 1⟩,
    ⟨0x2800, 0x2803, 0x2, 0x2, (.octets 6), .ro, 0, 0, 1⟩,
    ⟨0x2800, 0x2803, 0x3, 0x3, .u64, .ro, 0, 18446744073709551615, 1⟩,
    ⟨0x2800, 0x2803, 0x4, 0x4, .u64, .ro, 0, 18446744073709551615, 1⟩,
    ⟨0x2800, 0x2803, 0x5, 0x5, .u64, .ro, 0, 18446744073709551615, 1⟩,
    ⟨0x2810, 0x2811, 0x0, 0x0, .u8, .const, 6, 6, 1⟩,
    ⟨0x2810, 0x2811, 0x1, 0x1, .u8, .ro, 0, 255, 1⟩,
    ⟨0x2810, 0x2811, 0x2, 0x2, .u8, .ro, 0, 255, 1⟩,
    ⟨0x2810, 0x2811, 0x3, 0x3, (.octets 16), .rw, 0, 0, 1⟩,
    ⟨0x2810, 0x2811, 0x4, 0x4, .u64, .ro, 0, 18446744073709551615, 1⟩,
    ⟨0x2810, 0x2811, 0x5, 0x5, .u64, .ro, 0, 18446744073709551615, 1⟩,
    ⟨0x2810, 0x2811, 0x6, 0x6, .u8, .wo, 1, 1, 1⟩,
    ⟨0x2820, 0x2820, 0x0, 0x0, .u8, .const, 10, 10, 1⟩,
    ⟨0x2820, 0x2820, 0x1, 0x1, .u32, .rw, 10, 400000, 1⟩,
    ⟨0x2820, 0x2820, 0x2, 0x2, .u32, .rw, 100, 100000, 1⟩,
    ⟨0x2820, 0x2820, 0x3, 0x3, .u16, .rw, 10, 1000, 1⟩ ]

/-- Entries 51 to 100 of the tables, in chapter order. -/
def dictRows1 : List Entry :=
  [ ⟨0x2820, 0x2820, 0x4, 0x4, .u16, .rw, 1, 1000, 1⟩,
    ⟨0x2820, 0x2820, 0x5, 0x5, .u32, .rw, 0, 4294967295, 1⟩,
    ⟨0x2820, 0x2820, 0x6, 0x6, .u16, .rw, 0, 65535, 1⟩,
    ⟨0x2820, 0x2820, 0x7, 0x7, .u16, .rw, 1, 10000, 1⟩,
    ⟨0x2820, 0x2820, 0x8, 0x8, .u16, .rw, 1, 1000, 1⟩,
    ⟨0x2820, 0x2820, 0x9, 0x9, .u16, .rw, 10, 10000, 1⟩,
    ⟨0x2820, 0x2820, 0xA, 0xA, .u32, .rw, 10, 60000, 1⟩,
    ⟨0x2821, 0x2821, 0x0, 0x0, .u8, .const, 4, 4, 1⟩,
    ⟨0x2821, 0x2821, 0x1, 0x1, .u64, .ro, 0, 18446744073709551615, 1⟩,
    ⟨0x2821, 0x2821, 0x2, 0x2, .u64, .ro, 0, 18446744073709551615, 1⟩,
    ⟨0x2821, 0x2821, 0x3, 0x3, .u64, .ro, 0, 18446744073709551615, 1⟩,
    ⟨0x2821, 0x2821, 0x4, 0x4, .u64, .ro, 0, 18446744073709551615, 1⟩,
    ⟨0x3400, 0x347F, 0x0, 0x0, .u8, .const, 9, 9, 1⟩,
    ⟨0x3400, 0x347F, 0x1, 0x1, .u8, .ro, 0, 255, 1⟩,
    ⟨0x3400, 0x347F, 0x2, 0x2, .u16, .ro, 0, 65535, 1⟩,
    ⟨0x3400, 0x347F, 0x3, 0x3, .u64, .ro, 0, 18446744073709551615, 1⟩,
    ⟨0x3400, 0x347F, 0x4, 0x4, .u64, .ro, 0, 18446744073709551615, 1⟩,
    ⟨0x3400, 0x347F, 0x5, 0x5, .u64, .ro, 0, 18446744073709551615, 1⟩,
    ⟨0x3400, 0x347F, 0x6, 0x6, .u64, .ro, 0, 18446744073709551615, 1⟩,
    ⟨0x3400, 0x347F, 0x7, 0x7, .u64, .ro, 0, 18446744073709551615, 1⟩,
    ⟨0x3400, 0x347F, 0x8, 0x8, .u64, .ro, 0, 18446744073709551615, 1⟩,
    ⟨0x3400, 0x347F, 0x9, 0x9, .u64, .ro, 0, 18446744073709551615, 1⟩,
    ⟨0x3480, 0x348F, 0x0, 0x0, .u8, .const, 14, 14, 1⟩,
    ⟨0x3480, 0x348F, 0x1, 0x1, .bool, .rw, 0, 1, 1⟩,
    ⟨0x3480, 0x348F, 0x2, 0x2, .u8, .ro, 0, 255, 1⟩,
    ⟨0x3480, 0x348F, 0x3, 0x3, .bool, .rw, 0, 1, 1⟩,
    ⟨0x3480, 0x348F, 0x4, 0x4, .u16, .ro, 0, 65535, 1⟩,
    ⟨0x3480, 0x348F, 0x5, 0x5, .u64, .ro, 0, 18446744073709551615, 1⟩,
    ⟨0x3480, 0x348F, 0x6, 0x6, .u64, .ro, 0, 18446744073709551615, 1⟩,
    ⟨0x3480, 0x348F, 0x7, 0x7, .u64, .ro, 0, 18446744073709551615, 1⟩,
    ⟨0x3480, 0x348F, 0x8, 0x8, .u64, .ro, 0, 18446744073709551615, 1⟩,
    ⟨0x3480, 0x348F, 0x9, 0x9, .u64, .ro, 0, 18446744073709551615, 1⟩,
    ⟨0x3480, 0x348F, 0xA, 0xA, .u64, .ro, 0, 18446744073709551615, 1⟩,
    ⟨0x3480, 0x348F, 0xB, 0xB, .u64, .ro, 0, 18446744073709551615, 1⟩,
    ⟨0x3480, 0x348F, 0xC, 0xC, .u64, .ro, 0, 18446744073709551615, 1⟩,
    ⟨0x3480, 0x348F, 0xD, 0xD, .u64, .ro, 0, 18446744073709551615, 1⟩,
    ⟨0x3480, 0x348F, 0xE, 0xE, .u64, .ro, 0, 18446744073709551615, 1⟩,
    ⟨0x3000, 0x3000, 0x0, 0x0, .u8, .const, 6, 6, 1⟩,
    ⟨0x3000, 0x3000, 0x1, 0x1, .u16, .rw, 1, 1024, 1⟩,
    ⟨0x3000, 0x3000, 0x2, 0x2, .u16, .rw, 1, 65535, 1⟩,
    ⟨0x3000, 0x3000, 0x3, 0x3, .u16, .rw, 1, 65535, 1⟩,
    ⟨0x3000, 0x3000, 0x4, 0x4, .u32, .rw, 1000, 65000, 1⟩,
    ⟨0x3000, 0x3000, 0x5, 0x5, .u64, .ro, 0, 18446744073709551615, 1⟩,
    ⟨0x3000, 0x3000, 0x6, 0x6, .u32, .ro, 0, 4294967295, 1⟩,
    ⟨0x3001, 0x3001, 0x0, 0x0, .u8, .const, 8, 8, 1⟩,
    ⟨0x3001, 0x3001, 0x1, 0x8, .u32, .rw, 0, 4294967295, 1⟩,
    ⟨0x3002, 0x3002, 0x0, 0x0, .u8, .const, 3, 3, 1⟩,
    ⟨0x3002, 0x3002, 0x1, 0x1, .u32, .ro, 0, 4294967295, 1⟩,
    ⟨0x3002, 0x3002, 0x2, 0x2, .u32, .ro, 0, 4294967295, 1⟩,
    ⟨0x3002, 0x3002, 0x3, 0x3, .u64, .ro, 0, 18446744073709551615, 1⟩ ]

/-- Entries 101 to 150 of the tables, in chapter order. -/
def dictRows2 : List Entry :=
  [ ⟨0x3010, 0x301F, 0x0, 0x0, .u8, .const, 7, 7, 1⟩,
    ⟨0x3010, 0x301F, 0x1, 0x1, .u32, .ro, 0, 4294967295, 1⟩,
    ⟨0x3010, 0x301F, 0x2, 0x2, .u32, .ro, 0, 4294967295, 1⟩,
    ⟨0x3010, 0x301F, 0x3, 0x3, .u32, .ro, 0, 4294967295, 1⟩,
    ⟨0x3010, 0x301F, 0x4, 0x4, .u32, .ro, 0, 4294967295, 1⟩,
    ⟨0x3010, 0x301F, 0x5, 0x5, .u64, .ro, 0, 18446744073709551615, 1⟩,
    ⟨0x3010, 0x301F, 0x6, 0x6, .u64, .ro, 0, 18446744073709551615, 1⟩,
    ⟨0x3010, 0x301F, 0x7, 0x7, .u64, .ro, 0, 18446744073709551615, 1⟩,
    ⟨0x3080, 0x30BF, 0x0, 0x0, .u8, .const, 5, 5, 1⟩,
    ⟨0x3080, 0x30BF, 0x1, 0x1, .u32, .ro, 0, 4294967295, 1⟩,
    ⟨0x3080, 0x30BF, 0x2, 0x2, .u32, .ro, 0, 4294967295, 1⟩,
    ⟨0x3080, 0x30BF, 0x3, 0x3, .u64, .ro, 0, 18446744073709551615, 1⟩,
    ⟨0x3080, 0x30BF, 0x4, 0x4, .u64, .ro, 0, 18446744073709551615, 1⟩,
    ⟨0x3080, 0x30BF, 0x5, 0x5, .u32, .ro, 0, 4294967295, 1⟩,
    ⟨0x3100, 0x317F, 0x0, 0x0, .u8, .const, 6, 6, 1⟩,
    ⟨0x3180, 0x318B, 0x0, 0x0, .u8, .const, 6, 6, 1⟩,
    ⟨0x3190, 0x3197, 0x0, 0x0, .u8, .const, 6, 6, 1⟩,
    ⟨0x3198, 0x319B, 0x0, 0x0, .u8, .const, 6, 6, 1⟩,
    ⟨0x31A0, 0x31A7, 0x0, 0x0, .u8, .const, 6, 6, 1⟩,
    ⟨0x31A8, 0x31AB, 0x0, 0x0, .u8, .const, 6, 6, 1⟩,
    ⟨0x31AC, 0x31AD, 0x0, 0x0, .u8, .const, 6, 6, 1⟩,
    ⟨0x31B0, 0x31B7, 0x0, 0x0, .u8, .const, 6, 6, 1⟩,
    ⟨0x31B8, 0x31BB, 0x0, 0x0, .u8, .const, 6, 6, 1⟩,
    ⟨0x31BC, 0x31BC, 0x0, 0x0, .u8, .const, 6, 6, 1⟩,
    ⟨0x3100, 0x317F, 0x1, 0x1, .u8, .const, 0, 255, 1⟩,
    ⟨0x3180, 0x318B, 0x1, 0x1, .u8, .const, 0, 255, 1⟩,
    ⟨0x3190, 0x3197, 0x1, 0x1, .u8, .const, 0, 255, 1⟩,
    ⟨0x3198, 0x319B, 0x1, 0x1, .u8, .const, 0, 255, 1⟩,
    ⟨0x31A0, 0x31A7, 0x1, 0x1, .u8, .const, 0, 255, 1⟩,
    ⟨0x31A8, 0x31AB, 0x1, 0x1, .u8, .const, 0, 255, 1⟩,
    ⟨0x31AC, 0x31AD, 0x1, 0x1, .u8, .const, 0, 255, 1⟩,
    ⟨0x31B0, 0x31B7, 0x1, 0x1, .u8, .const, 0, 255, 1⟩,
    ⟨0x31B8, 0x31BB, 0x1, 0x1, .u8, .const, 0, 255, 1⟩,
    ⟨0x31BC, 0x31BC, 0x1, 0x1, .u8, .const, 0, 255, 1⟩,
    ⟨0x3100, 0x317F, 0x2, 0x2, .u64, .ro, 0, 18446744073709551615, 1⟩,
    ⟨0x3180, 0x318B, 0x2, 0x2, .u64, .ro, 0, 18446744073709551615, 1⟩,
    ⟨0x3190, 0x3197, 0x2, 0x2, .u64, .ro, 0, 18446744073709551615, 1⟩,
    ⟨0x3198, 0x319B, 0x2, 0x2, .u64, .ro, 0, 18446744073709551615, 1⟩,
    ⟨0x31A0, 0x31A7, 0x2, 0x2, .u64, .ro, 0, 18446744073709551615, 1⟩,
    ⟨0x31A8, 0x31AB, 0x2, 0x2, .u64, .ro, 0, 18446744073709551615, 1⟩,
    ⟨0x31AC, 0x31AD, 0x2, 0x2, .u64, .ro, 0, 18446744073709551615, 1⟩,
    ⟨0x31B0, 0x31B7, 0x2, 0x2, .u64, .ro, 0, 18446744073709551615, 1⟩,
    ⟨0x31B8, 0x31BB, 0x2, 0x2, .u64, .ro, 0, 18446744073709551615, 1⟩,
    ⟨0x31BC, 0x31BC, 0x2, 0x2, .u64, .ro, 0, 18446744073709551615, 1⟩,
    ⟨0x3100, 0x317F, 0x3, 0x3, .u64, .ro, 0, 18446744073709551615, 1⟩,
    ⟨0x3180, 0x318B, 0x3, 0x3, .u64, .ro, 0, 18446744073709551615, 1⟩,
    ⟨0x3190, 0x3197, 0x3, 0x3, .u64, .ro, 0, 18446744073709551615, 1⟩,
    ⟨0x3198, 0x319B, 0x3, 0x3, .u64, .ro, 0, 18446744073709551615, 1⟩,
    ⟨0x31A0, 0x31A7, 0x3, 0x3, .u64, .ro, 0, 18446744073709551615, 1⟩,
    ⟨0x31A8, 0x31AB, 0x3, 0x3, .u64, .ro, 0, 18446744073709551615, 1⟩ ]

/-- Entries 151 to 200 of the tables, in chapter order. -/
def dictRows3 : List Entry :=
  [ ⟨0x31AC, 0x31AD, 0x3, 0x3, .u64, .ro, 0, 18446744073709551615, 1⟩,
    ⟨0x31B0, 0x31B7, 0x3, 0x3, .u64, .ro, 0, 18446744073709551615, 1⟩,
    ⟨0x31B8, 0x31BB, 0x3, 0x3, .u64, .ro, 0, 18446744073709551615, 1⟩,
    ⟨0x31BC, 0x31BC, 0x3, 0x3, .u64, .ro, 0, 18446744073709551615, 1⟩,
    ⟨0x3100, 0x317F, 0x4, 0x4, .u64, .ro, 0, 18446744073709551615, 1⟩,
    ⟨0x3180, 0x318B, 0x4, 0x4, .u64, .ro, 0, 18446744073709551615, 1⟩,
    ⟨0x3190, 0x3197, 0x4, 0x4, .u64, .ro, 0, 18446744073709551615, 1⟩,
    ⟨0x3198, 0x319B, 0x4, 0x4, .u64, .ro, 0, 18446744073709551615, 1⟩,
    ⟨0x31A0, 0x31A7, 0x4, 0x4, .u64, .ro, 0, 18446744073709551615, 1⟩,
    ⟨0x31A8, 0x31AB, 0x4, 0x4, .u64, .ro, 0, 18446744073709551615, 1⟩,
    ⟨0x31AC, 0x31AD, 0x4, 0x4, .u64, .ro, 0, 18446744073709551615, 1⟩,
    ⟨0x31B0, 0x31B7, 0x4, 0x4, .u64, .ro, 0, 18446744073709551615, 1⟩,
    ⟨0x31B8, 0x31BB, 0x4, 0x4, .u64, .ro, 0, 18446744073709551615, 1⟩,
    ⟨0x31BC, 0x31BC, 0x4, 0x4, .u64, .ro, 0, 18446744073709551615, 1⟩,
    ⟨0x3100, 0x317F, 0x5, 0x5, .u64, .ro, 0, 18446744073709551615, 1⟩,
    ⟨0x3180, 0x318B, 0x5, 0x5, .u64, .ro, 0, 18446744073709551615, 1⟩,
    ⟨0x3190, 0x3197, 0x5, 0x5, .u64, .ro, 0, 18446744073709551615, 1⟩,
    ⟨0x3198, 0x319B, 0x5, 0x5, .u64, .ro, 0, 18446744073709551615, 1⟩,
    ⟨0x31A0, 0x31A7, 0x5, 0x5, .u64, .ro, 0, 18446744073709551615, 1⟩,
    ⟨0x31A8, 0x31AB, 0x5, 0x5, .u64, .ro, 0, 18446744073709551615, 1⟩,
    ⟨0x31AC, 0x31AD, 0x5, 0x5, .u64, .ro, 0, 18446744073709551615, 1⟩,
    ⟨0x31B0, 0x31B7, 0x5, 0x5, .u64, .ro, 0, 18446744073709551615, 1⟩,
    ⟨0x31B8, 0x31BB, 0x5, 0x5, .u64, .ro, 0, 18446744073709551615, 1⟩,
    ⟨0x31BC, 0x31BC, 0x5, 0x5, .u64, .ro, 0, 18446744073709551615, 1⟩,
    ⟨0x3100, 0x317F, 0x6, 0x6, .u64, .ro, 0, 18446744073709551615, 1⟩,
    ⟨0x3180, 0x318B, 0x6, 0x6, .u64, .ro, 0, 18446744073709551615, 1⟩,
    ⟨0x3190, 0x3197, 0x6, 0x6, .u64, .ro, 0, 18446744073709551615, 1⟩,
    ⟨0x3198, 0x319B, 0x6, 0x6, .u64, .ro, 0, 18446744073709551615, 1⟩,
    ⟨0x31A0, 0x31A7, 0x6, 0x6, .u64, .ro, 0, 18446744073709551615, 1⟩,
    ⟨0x31A8, 0x31AB, 0x6, 0x6, .u64, .ro, 0, 18446744073709551615, 1⟩,
    ⟨0x31AC, 0x31AD, 0x6, 0x6, .u64, .ro, 0, 18446744073709551615, 1⟩,
    ⟨0x31B0, 0x31B7, 0x6, 0x6, .u64, .ro, 0, 18446744073709551615, 1⟩,
    ⟨0x31B8, 0x31BB, 0x6, 0x6, .u64, .ro, 0, 18446744073709551615, 1⟩,
    ⟨0x31BC, 0x31BC, 0x6, 0x6, .u64, .ro, 0, 18446744073709551615, 1⟩,
    ⟨0x2300, 0x2300, 0x0, 0x0, .u8, .const, 4, 4, 1⟩,
    ⟨0x2300, 0x2300, 0x1, 0x1, .u64, .rw, 0, 18446744073709551615, 2097152⟩,
    ⟨0x2300, 0x2300, 0x2, 0x2, .u64, .rw, 0, 18446744073709551615, 2097152⟩,
    ⟨0x2300, 0x2300, 0x3, 0x3, .u32, .rw, 1, 10000, 1⟩,
    ⟨0x2300, 0x2300, 0x4, 0x4, .u32, .rw, 100, 100000, 1⟩,
    ⟨0x2301, 0x2301, 0x0, 0x0, .u8, .const, 2, 2, 1⟩,
    ⟨0x2301, 0x2301, 0x1, 0x1, (.octets 24), .wo, 0, 0, 1⟩,
    ⟨0x2301, 0x2301, 0x2, 0x2, .u64, .ro, 0, 18446744073709551615, 1⟩,
    ⟨0x2302, 0x2302, 0x0, 0x0, .u8, .const, 6, 6, 1⟩,
    ⟨0x2302, 0x2302, 0x1, 0x1, .u64, .ro, 0, 18446744073709551615, 1⟩,
    ⟨0x2302, 0x2302, 0x2, 0x2, .u64, .ro, 0, 18446744073709551615, 1⟩,
    ⟨0x2302, 0x2302, 0x3, 0x3, .u64, .ro, 0, 18446744073709551615, 1⟩,
    ⟨0x2302, 0x2302, 0x4, 0x4, .u64, .ro, 0, 18446744073709551615, 1⟩,
    ⟨0x2302, 0x2302, 0x5, 0x5, .u64, .ro, 0, 18446744073709551615, 1⟩,
    ⟨0x2302, 0x2302, 0x6, 0x6, .u64, .ro, 0, 18446744073709551615, 1⟩,
    ⟨0x4000, 0x4FFF, 0x20, 0x20, .u64, .rw, 0, 18446744073709551615, 4096⟩ ]

/-- Entries 201 to 250 of the tables, in chapter order. -/
def dictRows4 : List Entry :=
  [ ⟨0x4000, 0x4FFF, 0x21, 0x21, .u64, .rw, 0, 18446744073709551615, 64⟩,
    ⟨0x4000, 0x4FFF, 0x22, 0x22, .u32, .rw, 0, 4294967295, 1⟩,
    ⟨0x4000, 0x4FFF, 0x23, 0x23, .u8, .rw, 0, 1, 1⟩,
    ⟨0x4000, 0x4FFF, 0x24, 0x24, .u16, .rw, 0, 2047, 1⟩,
    ⟨0x4000, 0x4FFF, 0x25, 0x25, .u32, .ro, 0, 4294967295, 1⟩,
    ⟨0x4000, 0x4FFF, 0x26, 0x26, .u8, .ro, 0, 255, 1⟩,
    ⟨0x2000, 0x2000, 0x0, 0x0, .u8, .const, 11, 11, 1⟩,
    ⟨0x2000, 0x2000, 0x1, 0x1, .u8, .ro, 1, 2, 1⟩,
    ⟨0x2000, 0x2000, 0x2, 0x2, .u8, .ro, 1, 2, 1⟩,
    ⟨0x2000, 0x2000, 0x3, 0x3, .u16, .ro, 0, 65535, 1⟩,
    ⟨0x2000, 0x2000, 0x4, 0x4, .u64, .ro, 0, 18446744073709551615, 1⟩,
    ⟨0x2000, 0x2000, 0x5, 0x5, .u16, .ro, 0, 65535, 1⟩,
    ⟨0x2000, 0x2000, 0x6, 0x6, .u8, .rw, 0, 1, 1⟩,
    ⟨0x2000, 0x2000, 0x7, 0x7, .u16, .rw, 256, 32768, 1⟩,
    ⟨0x2000, 0x2000, 0x8, 0x8, .u8, .rw, 1, 64, 1⟩,
    ⟨0x2000, 0x2000, 0x9, 0x9, .u8, .rw, 1, 64, 1⟩,
    ⟨0x2000, 0x2000, 0xA, 0xA, .u16, .rw, 0, 168, 1⟩,
    ⟨0x2000, 0x2000, 0xB, 0xB, .u16, .rw, 0, 65535, 1⟩,
    ⟨0x2001, 0x2001, 0x0, 0x0, .u8, .const, 16, 16, 1⟩,
    ⟨0x2001, 0x2001, 0x1, 0x10, .u32, .rw, 100, 100000, 1⟩,
    ⟨0x2010, 0x2017, 0x0, 0x0, .u8, .const, 3, 3, 1⟩,
    ⟨0x2010, 0x2017, 0x1, 0x1, .u64, .ro, 0, 18446744073709551615, 1073741824⟩,
    ⟨0x2010, 0x2017, 0x2, 0x2, .u64, .ro, 0, 18446744073709551615, 12884901888⟩,
    ⟨0x2010, 0x2017, 0x3, 0x3, .u8, .ro, 0, 3, 1⟩,
    ⟨0x2020, 0x202B, 0x0, 0x0, .u8, .const, 7, 7, 1⟩,
    ⟨0x2020, 0x202B, 0x1, 0x1, .u8, .ro, 0, 255, 1⟩,
    ⟨0x2020, 0x202B, 0x2, 0x2, .u8, .ro, 0, 255, 1⟩,
    ⟨0x2020, 0x202B, 0x3, 0x3, .u8, .ro, 0, 255, 1⟩,
    ⟨0x2020, 0x202B, 0x4, 0x4, .u16, .ro, 0, 65535, 1⟩,
    ⟨0x2020, 0x202B, 0x5, 0x5, .u64, .ro, 0, 18446744073709551615, 1⟩,
    ⟨0x2020, 0x202B, 0x6, 0x6, .u64, .ro, 0, 18446744073709551615, 1⟩,
    ⟨0x2020, 0x202B, 0x7, 0x7, .u64, .ro, 0, 18446744073709551615, 1⟩,
    ⟨0x2040, 0x204B, 0x0, 0x0, .u8, .const, 11, 11, 1⟩,
    ⟨0x2040, 0x204B, 0x1, 0x1, .u64, .ro, 0, 18446744073709551615, 1⟩,
    ⟨0x2040, 0x204B, 0x2, 0x2, .u64, .ro, 0, 18446744073709551615, 1⟩,
    ⟨0x2040, 0x204B, 0x3, 0x3, .u64, .ro, 0, 18446744073709551615, 1⟩,
    ⟨0x2040, 0x204B, 0x4, 0x4, .u64, .ro, 0, 18446744073709551615, 1⟩,
    ⟨0x2040, 0x204B, 0x5, 0x5, .u64, .ro, 0, 18446744073709551615, 1⟩,
    ⟨0x2040, 0x204B, 0x6, 0x6, .u64, .ro, 0, 18446744073709551615, 1⟩,
    ⟨0x2040, 0x204B, 0x7, 0x7, .u64, .ro, 0, 18446744073709551615, 1⟩,
    ⟨0x2040, 0x204B, 0x8, 0x8, .u64, .ro, 0, 18446744073709551615, 1⟩,
    ⟨0x2040, 0x204B, 0x9, 0x9, .u64, .ro, 0, 18446744073709551615, 1⟩,
    ⟨0x2040, 0x204B, 0xA, 0xA, .u64, .ro, 0, 18446744073709551615, 1⟩,
    ⟨0x2040, 0x204B, 0xB, 0xB, .u64, .ro, 0, 18446744073709551615, 1⟩,
    ⟨0x2060, 0x206F, 0x0, 0x0, .u8, .const, 3, 3, 1⟩,
    ⟨0x2060, 0x206F, 0x1, 0x1, .u64, .ro, 0, 18446744073709551615, 1⟩,
    ⟨0x2060, 0x206F, 0x2, 0x2, .u64, .ro, 0, 18446744073709551615, 1⟩,
    ⟨0x2060, 0x206F, 0x3, 0x3, .u64, .ro, 0, 18446744073709551615, 1⟩,
    ⟨0x2400, 0x2400, 0x0, 0x0, .u8, .const, 6, 6, 1⟩,
    ⟨0x2400, 0x2400, 0x1, 0x1, .u8, .ro, 0, 3, 1⟩ ]

/-- Entries 251 to 300 of the tables, in chapter order. -/
def dictRows5 : List Entry :=
  [ ⟨0x2400, 0x2400, 0x2, 0x2, .u8, .ro, 0, 3, 1⟩,
    ⟨0x2400, 0x2400, 0x3, 0x3, .u64, .ro, 0, 18446744073709551615, 1⟩,
    ⟨0x2400, 0x2400, 0x4, 0x4, .u64, .ro, 0, 18446744073709551615, 1⟩,
    ⟨0x2400, 0x2400, 0x5, 0x5, .u64, .ro, 0, 18446744073709551615, 1⟩,
    ⟨0x2400, 0x2400, 0x6, 0x6, .u64, .ro, 0, 18446744073709551615, 1⟩,
    ⟨0x2410, 0x2413, 0x0, 0x0, .u8, .const, 5, 5, 1⟩,
    ⟨0x2410, 0x2413, 0x1, 0x1, .u8, .ro, 0, 255, 1⟩,
    ⟨0x2410, 0x2413, 0x2, 0x2, .u8, .ro, 0, 255, 1⟩,
    ⟨0x2410, 0x2413, 0x3, 0x3, .u64, .rw, 0, 18446744073709551615, 1073741824⟩,
    ⟨0x2410, 0x2413, 0x4, 0x4, .u64, .rw, 0, 18446744073709551615, 1073741824⟩,
    ⟨0x2410, 0x2413, 0x5, 0x5, .u64, .ro, 0, 18446744073709551615, 1⟩,
    ⟨0x4000, 0x4FFF, 0x28, 0x28, .u8, .rw, 0, 3, 1⟩,
    ⟨0x4000, 0x4FFF, 0x0, 0x0, .u8, .const, 61, 61, 1⟩,
    ⟨0x4000, 0x4FFF, 0x1, 0x1, .u8, .rwc, 1, 3, 1⟩,
    ⟨0x4000, 0x4FFF, 0x2, 0x2, .u8, .wo, 1, 3, 1⟩,
    ⟨0x4000, 0x4FFF, 0x3, 0x3, .u8, .ro, 0, 255, 1⟩,
    ⟨0x4000, 0x4FFF, 0x4, 0x4, .u16, .ro, 0, 65535, 1⟩,
    ⟨0x4000, 0x4FFF, 0x5, 0x5, .u16, .rw, 1, 10000, 1⟩,
    ⟨0x4000, 0x4FFF, 0x6, 0x6, .u8, .rw, 0, 61, 1⟩,
    ⟨0x4000, 0x4FFF, 0x7, 0x7, .u32, .rw, 0, 32768, 1⟩,
    ⟨0x4000, 0x4FFF, 0x8, 0x8, .u32, .rw, 1, 64512, 1⟩,
    ⟨0x4000, 0x4FFF, 0x9, 0x9, .u64, .rw, 0, 18446744073709551615, 65536⟩,
    ⟨0x4000, 0x4FFF, 0xA, 0xA, .u64, .rw, 0, 18446744073709551615, 65536⟩,
    ⟨0x4000, 0x4FFF, 0xB, 0xB, .u64, .ro, 0, 18446744073709551615, 1⟩,
    ⟨0x4000, 0x4FFF, 0xC, 0xC, .u32, .rw, 0, 65536, 1⟩,
    ⟨0x4000, 0x4FFF, 0xD, 0xD, .u32, .rw, 0, 1048576, 1⟩,
    ⟨0x4000, 0x4FFF, 0xE, 0xE, .bool, .rwc, 0, 1, 1⟩,
    ⟨0x4000, 0x4FFF, 0xF, 0xF, .u32, .rw, 1, 60000, 1⟩,
    ⟨0x4000, 0x4FFF, 0x10, 0x18, .u16, .rw, 0, 65535, 1⟩,
    ⟨0x4000, 0x4FFF, 0x1A, 0x1A, .u64, .rw, 0, 18446744073709551615, 32⟩,
    ⟨0x4000, 0x4FFF, 0x1B, 0x1B, .u32, .rw, 0, 4294967295, 1⟩,
    ⟨0x4000, 0x4FFF, 0x1C, 0x1C, .u16, .rw, 0, 2047, 1⟩,
    ⟨0x4000, 0x4FFF, 0x1D, 0x1D, .u32, .rw, 0, 4294967295, 1⟩,
    ⟨0x4000, 0x4FFF, 0x1E, 0x1E, .u8, .ro, 0, 255, 1⟩,
    ⟨0x4000, 0x4FFF, 0x1F, 0x1F, .u64, .ro, 0, 18446744073709551615, 1⟩,
    ⟨0x4000, 0x4FFF, 0x29, 0x29, .u64, .ro, 0, 18446744073709551615, 1⟩,
    ⟨0x4000, 0x4FFF, 0x2A, 0x2A, .u64, .ro, 0, 18446744073709551615, 1⟩,
    ⟨0x4000, 0x4FFF, 0x2B, 0x2B, .u64, .ro, 0, 18446744073709551615, 1⟩,
    ⟨0x4000, 0x4FFF, 0x2C, 0x2C, .u64, .ro, 0, 18446744073709551615, 1⟩,
    ⟨0x4000, 0x4FFF, 0x30, 0x30, .domain, .rw, 0, 0, 1⟩,
    ⟨0x4000, 0x4FFF, 0x38, 0x38, .u64, .rw, 0, 18446744073709551615, 64⟩,
    ⟨0x4000, 0x4FFF, 0x39, 0x39, .u64, .rw, 0, 18446744073709551615, 64⟩,
    ⟨0x4000, 0x4FFF, 0x3A, 0x3A, .u64, .rw, 0, 18446744073709551615, 4096⟩,
    ⟨0x4000, 0x4FFF, 0x3B, 0x3B, .u64, .rw, 0, 1099511627776, 4096⟩,
    ⟨0x4000, 0x4FFF, 0x3C, 0x3C, .u8, .rw, 0, 2, 1⟩,
    ⟨0x4000, 0x4FFF, 0x3D, 0x3D, .u64, .ro, 0, 18446744073709551615, 1⟩,
    ⟨0x3F00, 0x3F03, 0x0, 0x0, .u8, .const, 127, 127, 1⟩,
    ⟨0x3F00, 0x3F03, 0x1, 0x1, .u64, .ro, 0, 18446744073709551615, 1⟩,
    ⟨0x3F00, 0x3F03, 0x2, 0x2, .u64, .ro, 0, 18446744073709551615, 1⟩,
    ⟨0x3F00, 0x3F03, 0x3, 0x3, .u64, .ro, 0, 18446744073709551615, 1⟩ ]

/-- Entries 301 to 350 of the tables, in chapter order. -/
def dictRows6 : List Entry :=
  [ ⟨0x3F00, 0x3F03, 0x4, 0x4, .u64, .ro, 0, 18446744073709551615, 1⟩,
    ⟨0x3F00, 0x3F03, 0x5, 0x5, .u64, .ro, 0, 18446744073709551615, 1⟩,
    ⟨0x3F00, 0x3F03, 0x6, 0x6, .u64, .ro, 0, 18446744073709551615, 1⟩,
    ⟨0x3F00, 0x3F03, 0x7, 0x7, .u64, .ro, 0, 18446744073709551615, 1⟩,
    ⟨0x3F00, 0x3F03, 0x8, 0x8, .u64, .ro, 0, 18446744073709551615, 1⟩,
    ⟨0x3F00, 0x3F03, 0x9, 0x9, .u64, .ro, 0, 18446744073709551615, 1⟩,
    ⟨0x3F00, 0x3F03, 0x40, 0x7F, .u8, .ro, 0, 255, 1⟩,
    ⟨0x3F10, 0x3F10, 0x0, 0x0, .u8, .const, 3, 3, 1⟩,
    ⟨0x3F10, 0x3F10, 0x1, 0x1, .u32, .rw, 16, 16777216, 1⟩,
    ⟨0x3F10, 0x3F10, 0x2, 0x2, .u16, .rw, 2, 32, 1⟩,
    ⟨0x3F10, 0x3F10, 0x3, 0x3, .u16, .rw, 1, 31, 1⟩,
    ⟨0x3C00, 0x3C03, 0x0, 0x0, .u8, .const, 8, 8, 1⟩,
    ⟨0x3C00, 0x3C03, 0x1, 0x1, .u8, .ro, 0, 255, 1⟩,
    ⟨0x3C00, 0x3C03, 0x2, 0x2, .u16, .ro, 0, 65535, 1⟩,
    ⟨0x3C00, 0x3C03, 0x3, 0x3, .u64, .ro, 0, 18446744073709551615, 1⟩,
    ⟨0x3C00, 0x3C03, 0x4, 0x4, .u64, .ro, 0, 18446744073709551615, 1⟩,
    ⟨0x3C00, 0x3C03, 0x5, 0x5, .u64, .ro, 0, 18446744073709551615, 1⟩,
    ⟨0x3C00, 0x3C03, 0x6, 0x6, .u64, .ro, 0, 18446744073709551615, 1⟩,
    ⟨0x3C00, 0x3C03, 0x7, 0x7, .u64, .ro, 0, 18446744073709551615, 1⟩,
    ⟨0x3C00, 0x3C03, 0x8, 0x8, .u64, .ro, 0, 18446744073709551615, 1⟩,
    ⟨0x1130, 0x1130, 0x0, 0x0, .u8, .const, 1, 1, 1⟩,
    ⟨0x1130, 0x1130, 0x1, 0x1, (.octets 40), .wo, 0, 0, 1⟩,
    ⟨0x1140, 0x114F, 0x0, 0x0, .u8, .const, 6, 6, 1⟩,
    ⟨0x1140, 0x114F, 0x1, 0x1, (.octets 40), .rwc, 0, 0, 1⟩,
    ⟨0x1140, 0x114F, 0x2, 0x2, .u8, .ro, 0, 255, 1⟩,
    ⟨0x1140, 0x114F, 0x3, 0x3, .u16, .rwc, 0, 65535, 1⟩,
    ⟨0x1140, 0x114F, 0x4, 0x4, .u64, .ro, 0, 18446744073709551615, 1⟩,
    ⟨0x1140, 0x114F, 0x5, 0x5, .u64, .ro, 0, 18446744073709551615, 1⟩,
    ⟨0x1140, 0x114F, 0x6, 0x6, .u64, .ro, 0, 18446744073709551615, 1⟩,
    ⟨0x3D00, 0x3D01, 0x0, 0x0, .u8, .const, 5, 5, 1⟩,
    ⟨0x3D00, 0x3D01, 0x1, 0x1, .u8, .ro, 0, 255, 1⟩,
    ⟨0x3D00, 0x3D01, 0x2, 0x2, .u64, .ro, 0, 18446744073709551615, 1⟩,
    ⟨0x3D00, 0x3D01, 0x3, 0x3, .u64, .ro, 0, 18446744073709551615, 1⟩,
    ⟨0x3D00, 0x3D01, 0x4, 0x4, .u64, .ro, 0, 18446744073709551615, 1⟩,
    ⟨0x3D00, 0x3D01, 0x5, 0x5, .u32, .ro, 0, 4294967295, 1⟩,
    ⟨0x3E00, 0x3E00, 0x0, 0x0, .u8, .const, 3, 3, 1⟩,
    ⟨0x3E00, 0x3E00, 0x1, 0x1, .u8, .ro, 1, 16, 1⟩,
    ⟨0x3E00, 0x3E00, 0x2, 0x2, .u8, .ro, 0, 255, 1⟩,
    ⟨0x3E00, 0x3E00, 0x3, 0x3, .u64, .ro, 0, 18446744073709551615, 1⟩,
    ⟨0x3E10, 0x3E17, 0x0, 0x0, .u8, .const, 7, 7, 1⟩,
    ⟨0x3E10, 0x3E17, 0x1, 0x1, .u8, .ro, 0, 255, 1⟩,
    ⟨0x3E10, 0x3E17, 0x2, 0x2, .u16, .ro, 0, 65535, 1⟩,
    ⟨0x3E10, 0x3E17, 0x3, 0x3, .u8, .ro, 0, 255, 1⟩,
    ⟨0x3E10, 0x3E17, 0x4, 0x4, .u16, .ro, 0, 65535, 1⟩,
    ⟨0x3E10, 0x3E17, 0x5, 0x5, .u64, .ro, 0, 18446744073709551615, 1⟩,
    ⟨0x3E10, 0x3E17, 0x6, 0x6, .u64, .ro, 0, 18446744073709551615, 1⟩,
    ⟨0x3E10, 0x3E17, 0x7, 0x7, .u64, .ro, 0, 18446744073709551615, 1⟩,
    ⟨0x2C00, 0x2C00, 0x0, 0x0, .u8, .const, 8, 8, 1⟩,
    ⟨0x2C00, 0x2C00, 0x1, 0x1, .u8, .ro, 0, 255, 1⟩,
    ⟨0x2C00, 0x2C00, 0x2, 0x2, .u8, .ro, 0, 255, 1⟩ ]

/-- Entries 351 to 400 of the tables, in chapter order. -/
def dictRows7 : List Entry :=
  [ ⟨0x2C00, 0x2C00, 0x3, 0x3, .u8, .ro, 0, 255, 1⟩,
    ⟨0x2C00, 0x2C00, 0x4, 0x4, .u32, .ro, 0, 4294967295, 1⟩,
    ⟨0x2C00, 0x2C00, 0x5, 0x5, .u64, .ro, 0, 18446744073709551615, 1⟩,
    ⟨0x2C00, 0x2C00, 0x6, 0x6, .u64, .ro, 0, 18446744073709551615, 1⟩,
    ⟨0x2C00, 0x2C00, 0x7, 0x7, .u32, .ro, 0, 4294967295, 1⟩,
    ⟨0x2C00, 0x2C00, 0x8, 0x8, .u32, .ro, 0, 4294967295, 1⟩,
    ⟨0x2C01, 0x2C01, 0x0, 0x0, .u8, .rwc, 0, 1, 1⟩,
    ⟨0x2C02, 0x2C02, 0x0, 0x0, .u8, .const, 9, 9, 1⟩,
    ⟨0x2C02, 0x2C02, 0x1, 0x1, .u8, .ro, 0, 255, 1⟩,
    ⟨0x2C02, 0x2C02, 0x2, 0x2, .u8, .ro, 0, 255, 1⟩,
    ⟨0x2C02, 0x2C02, 0x3, 0x3, .u64, .ro, 0, 18446744073709551615, 1⟩,
    ⟨0x2C02, 0x2C02, 0x4, 0x4, .u64, .ro, 0, 18446744073709551615, 1⟩,
    ⟨0x2C02, 0x2C02, 0x5, 0x5, .u64, .ro, 0, 18446744073709551615, 1⟩,
    ⟨0x2C02, 0x2C02, 0x6, 0x6, .u64, .ro, 0, 18446744073709551615, 1⟩,
    ⟨0x2C02, 0x2C02, 0x7, 0x7, .u64, .ro, 0, 18446744073709551615, 1⟩,
    ⟨0x2C02, 0x2C02, 0x8, 0x8, .u64, .ro, 0, 18446744073709551615, 1⟩,
    ⟨0x2C02, 0x2C02, 0x9, 0x9, .u64, .ro, 0, 18446744073709551615, 1⟩,
    ⟨0x2C03, 0x2C03, 0x0, 0x0, .u8, .const, 5, 5, 1⟩,
    ⟨0x2C03, 0x2C03, 0x1, 0x1, .u32, .rw, 100, 60000, 1⟩,
    ⟨0x2C03, 0x2C03, 0x2, 0x2, .u32, .rw, 0, 3600, 1⟩,
    ⟨0x2C03, 0x2C03, 0x3, 0x3, .u8, .rwc, 1, 1, 1⟩,
    ⟨0x2C03, 0x2C03, 0x4, 0x4, .u64, .ro, 0, 18446744073709551615, 1⟩,
    ⟨0x2C03, 0x2C03, 0x5, 0x5, .u32, .ro, 0, 4294967295, 1⟩,
    ⟨0x2C04, 0x2C04, 0x0, 0x0, .u8, .const, 1, 1, 1⟩,
    ⟨0x2C04, 0x2C04, 0x1, 0x1, (.octets 8), .wo, 0, 0, 1⟩,
    ⟨0x1000, 0x1000, 0x0, 0x0, .u8, .const, 6, 6, 1⟩,
    ⟨0x1000, 0x1000, 0x1, 0x1, (.vstring 16), .const, 0, 0, 1⟩,
    ⟨0x1000, 0x1000, 0x2, 0x2, (.vstring 16), .const, 0, 0, 1⟩,
    ⟨0x1000, 0x1000, 0x3, 0x3, (.vstring 16), .ro, 0, 0, 1⟩,
    ⟨0x1000, 0x1000, 0x4, 0x4, (.vstring 2), .const, 0, 0, 1⟩,
    ⟨0x1000, 0x1000, 0x5, 0x5, .u64, .ro, 0, 18446744073709551615, 1⟩,
    ⟨0x1000, 0x1000, 0x6, 0x6, (.octets 6), .ro, 0, 0, 1⟩,
    ⟨0x1001, 0x1001, 0x0, 0x0, .u8, .const, 4, 4, 1⟩,
    ⟨0x1001, 0x1001, 0x1, 0x1, .u8, .ro, 0, 255, 1⟩,
    ⟨0x1001, 0x1001, 0x2, 0x2, .u32, .ro, 0, 4294967295, 1⟩,
    ⟨0x1001, 0x1001, 0x3, 0x3, .u64, .ro, 0, 18446744073709551615, 1⟩,
    ⟨0x1001, 0x1001, 0x4, 0x4, .u8, .ro, 0, 255, 1⟩,
    ⟨0x1100, 0x1100, 0x0, 0x0, .u8, .const, 8, 8, 1⟩,
    ⟨0x1100, 0x1100, 0x1, 0x1, .u8, .ro, 0, 255, 1⟩,
    ⟨0x1100, 0x1100, 0x2, 0x2, .u8, .rw, 1, 64, 1⟩,
    ⟨0x1100, 0x1100, 0x3, 0x3, .u8, .rw, 0, 255, 1⟩,
    ⟨0x1100, 0x1100, 0x4, 0x4, .u8, .ro, 0, 255, 1⟩,
    ⟨0x1100, 0x1100, 0x5, 0x5, .u16, .rw, 1024, 65535, 1⟩,
    ⟨0x1100, 0x1100, 0x6, 0x6, .u16, .rw, 0, 65535, 1⟩,
    ⟨0x1100, 0x1100, 0x7, 0x7, .u16, .rw, 500, 60000, 1⟩,
    ⟨0x1100, 0x1100, 0x8, 0x8, .u16, .rw, 100, 60000, 1⟩,
    ⟨0x1101, 0x1101, 0x0, 0x0, .u8, .const, 8, 8, 1⟩,
    ⟨0x1101, 0x1101, 0x1, 0x8, .u32, .rw, 0, 16777215, 1⟩,
    ⟨0x1102, 0x1102, 0x0, 0x0, .u8, .const, 7, 7, 1⟩,
    ⟨0x1102, 0x1102, 0x1, 0x1, .u64, .ro, 0, 18446744073709551615, 1⟩ ]

/-- Entries 401 to 450 of the tables, in chapter order. -/
def dictRows8 : List Entry :=
  [ ⟨0x1102, 0x1102, 0x2, 0x2, .u64, .ro, 0, 18446744073709551615, 1⟩,
    ⟨0x1102, 0x1102, 0x3, 0x3, .u64, .ro, 0, 18446744073709551615, 1⟩,
    ⟨0x1102, 0x1102, 0x4, 0x4, .u64, .ro, 0, 18446744073709551615, 1⟩,
    ⟨0x1102, 0x1102, 0x5, 0x5, .u64, .ro, 0, 18446744073709551615, 1⟩,
    ⟨0x1102, 0x1102, 0x6, 0x6, .u64, .ro, 0, 18446744073709551615, 1⟩,
    ⟨0x1102, 0x1102, 0x7, 0x7, .u64, .ro, 0, 18446744073709551615, 1⟩,
    ⟨0x1288, 0x128D, 0x0, 0x0, .u8, .const, 7, 7, 1⟩,
    ⟨0x1280, 0x1287, 0x0, 0x0, .u8, .const, 3, 3, 1⟩,
    ⟨0x128E, 0x1291, 0x0, 0x0, .u8, .const, 3, 3, 1⟩,
    ⟨0x1280, 0x1291, 0x1, 0x1, .u8, .ro, 0, 255, 1⟩,
    ⟨0x1280, 0x1291, 0x2, 0x2, .u16, .ro, 0, 65535, 1⟩,
    ⟨0x1280, 0x1291, 0x3, 0x3, (.octets 4), .wo, 0, 0, 1⟩,
    ⟨0x1288, 0x128D, 0x4, 0x4, .u32, .rw, 1, 16777216, 1⟩,
    ⟨0x1288, 0x128D, 0x5, 0x5, .u8, .rw, 0, 1, 1⟩,
    ⟨0x1288, 0x128D, 0x6, 0x6, .u8, .wo, 0, 1, 1⟩,
    ⟨0x1288, 0x128D, 0x7, 0x7, .u64, .ro, 0, 18446744073709551615, 1⟩,
    ⟨0x1300, 0x1300, 0x0, 0x0, .u8, .const, 6, 6, 1⟩,
    ⟨0x1300, 0x1300, 0x1, 0x1, .u8, .rwc, 0, 255, 1⟩,
    ⟨0x1300, 0x1300, 0x2, 0x2, .u8, .ro, 0, 255, 1⟩,
    ⟨0x1300, 0x1300, 0x3, 0x3, .u8, .ro, 0, 255, 1⟩,
    ⟨0x1300, 0x1300, 0x4, 0x4, .u16, .ro, 0, 65535, 1⟩,
    ⟨0x1300, 0x1300, 0x5, 0x5, .u16, .ro, 0, 65535, 1⟩,
    ⟨0x1300, 0x1300, 0x6, 0x6, .u64, .ro, 0, 18446744073709551615, 1⟩,
    ⟨0x1310, 0x1310, 0x0, 0x0, .u8, .const, 11, 11, 1⟩,
    ⟨0x1310, 0x1310, 0x1, 0x1, .u16, .rw, 300, 650, 1⟩,
    ⟨0x1310, 0x1310, 0x2, 0x2, .u16, .ro, 0, 65535, 1⟩,
    ⟨0x1310, 0x1310, 0x3, 0x3, .u16, .ro, 0, 65535, 1⟩,
    ⟨0x1310, 0x1310, 0x4, 0x4, .u16, .rw, 600, 900, 1⟩,
    ⟨0x1310, 0x1310, 0x5, 0x5, .u16, .rw, 600, 900, 1⟩,
    ⟨0x1310, 0x1310, 0x6, 0x6, .u16, .ro, 0, 65535, 1⟩,
    ⟨0x1310, 0x1310, 0x7, 0x7, .i32, .rw, 700, 1200, 1⟩,
    ⟨0x1310, 0x1310, 0x8, 0x8, .u16, .ro, 0, 65535, 1⟩,
    ⟨0x1310, 0x1310, 0x9, 0x9, .u64, .ro, 0, 18446744073709551615, 1⟩,
    ⟨0x1310, 0x1310, 0xA, 0xA, .u64, .ro, 0, 18446744073709551615, 1⟩,
    ⟨0x1310, 0x1310, 0xB, 0xB, .u16, .rw, 300, 650, 1⟩,
    ⟨0x1320, 0x132F, 0x0, 0x0, .u8, .const, 5, 5, 1⟩,
    ⟨0x1320, 0x132F, 0x1, 0x1, .bool, .rw, 0, 1, 1⟩,
    ⟨0x1320, 0x132F, 0x2, 0x2, .u8, .ro, 0, 255, 1⟩,
    ⟨0x1320, 0x132F, 0x3, 0x3, .i32, .ro, 0, 4294967295, 1⟩,
    ⟨0x1320, 0x132F, 0x4, 0x4, .i32, .ro, 0, 4294967295, 1⟩,
    ⟨0x1320, 0x132F, 0x5, 0x5, .u32, .ro, 0, 4294967295, 1⟩,
    ⟨0x1200, 0x1200, 0x0, 0x0, .u8, .const, 9, 9, 1⟩,
    ⟨0x1200, 0x1200, 0x1, 0x1, .u8, .ro, 0, 255, 1⟩,
    ⟨0x1200, 0x1200, 0x2, 0x2, .u8, .ro, 0, 255, 1⟩,
    ⟨0x1200, 0x1200, 0x3, 0x3, .u64, .ro, 0, 18446744073709551615, 1⟩,
    ⟨0x1200, 0x1200, 0x4, 0x4, .u64, .ro, 0, 18446744073709551615, 1⟩,
    ⟨0x1200, 0x1200, 0x5, 0x5, .u8, .ro, 0, 255, 1⟩,
    ⟨0x1200, 0x1200, 0x6, 0x6, .u8, .ro, 0, 255, 1⟩,
    ⟨0x1200, 0x1200, 0x7, 0x7, .u8, .ro, 0, 255, 1⟩,
    ⟨0x1200, 0x1200, 0x8, 0x8, .u32, .ro, 0, 4294967295, 1⟩ ]

/-- Entries 451 to 474 of the tables, in chapter order. -/
def dictRows9 : List Entry :=
  [ ⟨0x1200, 0x1200, 0x9, 0x9, .bool, .ro, 0, 1, 1⟩,
    ⟨0x1201, 0x1201, 0x0, 0x0, .u8, .const, 2, 2, 1⟩,
    ⟨0x1201, 0x1201, 0x1, 0x1, .u8, .rwc, 1, 1, 1⟩,
    ⟨0x1201, 0x1201, 0x2, 0x2, .u16, .rw, 100, 60000, 1⟩,
    ⟨0x1202, 0x1202, 0x0, 0x0, .u8, .const, 1, 1, 1⟩,
    ⟨0x1202, 0x1202, 0x1, 0x1, (.octets 32), .ro, 0, 0, 1⟩,
    ⟨0x1210, 0x1210, 0x0, 0x0, .u8, .const, 1, 1, 1⟩,
    ⟨0x1210, 0x1210, 0x1, 0x1, .domain, .rwc, 0, 0, 1⟩,
    ⟨0x1230, 0x1230, 0x0, 0x0, .u8, .const, 1, 1, 1⟩,
    ⟨0x1230, 0x1230, 0x1, 0x1, (.octets 48), .rwc, 0, 0, 1⟩,
    ⟨0x5000, 0x5000, 0x0, 0x0, .u8, .const, 11, 11, 1⟩,
    ⟨0x5000, 0x5000, 0x1, 0x8, .u64, .ro, 0, 18446744073709551615, 1⟩,
    ⟨0x5000, 0x5000, 0x9, 0x9, .u64, .ro, 0, 18446744073709551615, 1⟩,
    ⟨0x5000, 0x5000, 0xA, 0xA, .u64, .ro, 0, 18446744073709551615, 1⟩,
    ⟨0x5000, 0x5000, 0xB, 0xB, .u64, .ro, 0, 18446744073709551615, 1⟩,
    ⟨0x5001, 0x5001, 0x0, 0x0, .u8, .const, 2, 2, 1⟩,
    ⟨0x5001, 0x5001, 0x1, 0x1, .domain, .ro, 0, 0, 1⟩,
    ⟨0x5001, 0x5001, 0x2, 0x2, .u8, .wo, 1, 1, 1⟩,
    ⟨0x4000, 0x4FFF, 0x2D, 0x2D, .u64, .rw, 0, 18446744073709551615, 64⟩,
    ⟨0x4000, 0x4FFF, 0x2E, 0x2E, .u32, .rw, 0, 4294967295, 1⟩,
    ⟨0x4000, 0x4FFF, 0x2F, 0x2F, .u8, .rw, 0, 1, 1⟩,
    ⟨0x12A0, 0x12A0, 0x0, 0x0, .u8, .const, 2, 2, 1⟩,
    ⟨0x12A0, 0x12A0, 0x1, 0x1, .u8, .rw, 0, 255, 1⟩,
    ⟨0x12A0, 0x12A0, 0x2, 0x2, .u8, .ro, 0, 255, 1⟩ ]

/-- Every entry of the object dictionary. -/
def dictRows : List Entry :=
  dictRows0 ++ dictRows1 ++ dictRows2 ++ dictRows3 ++ dictRows4 ++ dictRows5 ++ dictRows6 ++ dictRows7 ++ dictRows8 ++ dictRows9

/-- The entry at an index and subindex. -/
def entryAt (idx sub : Nat) : Option Entry :=
  dictRows.find? fun e => e.idx ≤ idx && idx ≤ e.idxLast && e.sub ≤ sub && sub ≤ e.subLast

/-- Whether any entry has an index. -/
def hasIndex (idx : Nat) : Bool := dictRows.any fun e => e.idx ≤ idx && idx ≤ e.idxLast

/-- Least and greatest GRANT of a kind (Table 15-2). -/
def grantMax (k : Nat) : Nat := [128, 12, 8, 4, 8, 4, 128, 8, 256].getD k 0

/-- Zero, or a power of two between bounds. -/
def zeroOrPow2 (v lo hi : Nat) : Bool := v = 0 || pow2In v lo hi

/-- Whether a value lies in an entry's range (Range column). -/
def inRange (e : Entry) (idx sub v : Nat) : Bool :=
  e.lo ≤ v && v ≤ e.hi && v % (max e.step 1) = 0 &&
  (if idx = 0x2000 && sub = 0xB then v = 0 || (20 ≤ v && v ≤ 10000)
   else if idx = 0x1100 && sub = 6 then v = 0 || (10 ≤ v && v ≤ 10000)
   else if 0x4000 ≤ idx && idx ≤ 0x4FFF then
     (if 0x10 ≤ sub && sub ≤ 0x18 then v ≤ grantMax (sub - 0x10)
      else if sub = 0x1B then zeroOrPow2 v 32 4096
      else if sub = 0x22 then zeroOrPow2 v 64 65536
      else if sub = 0x2E then zeroOrPow2 v 16 1048576
      else if sub = 9 || sub = 0x1A || sub = 0x3A then v < 2 ^ 48
      else true)
   else true)

/-! ### Values (R430) -/

/-- STATE of a core (Table 08-10). The table does not say what tells idle from runtime on a core without a task: at level S
it is runtime, else idle. -/
def coreStatus (s : State) (c : Nat) : Nat :=
  let k := tget {} s.cores c
  if !(od s 0x1202 1).testBit c then 5
  else match k.run with
    | .outOfService => 4
    | .halted => 3
    | .running =>
      let lvl := bitsOf k.pstat.toNat 31 30
      if k.task.isSome then (if lvl = 0 then 2 else 1) else if lvl = 1 then 1 else 0

/-- OWNER of a core: the instance of its task (Table 08-10). -/
def coreOwner (s : State) (c : Nat) : Nat :=
  match (tget {} s.cores c).task with
  | some slot =>
    match taskAt s slot with
    | some t => t.inst
    | none => 0xFFFF
  | none => 0xFFFF

/-- Level of MFP pin m (Table 25-5): an open-drain output pulls it low, LEADER drives it, trace pins stay low unless TRACE
holds the trace buffer, and the UART's output idles high; else it is as the board has it. -/
def mfpLevel (s : State) (m : Nat) : Bool :=
  let board := s.pins.mfp.testBit m
  match od s (0x1280 + m) 1 with
  | 0x11 => board && (od s 0x12A0 1).testBit m
  | 0x18 => board && !thermalLimit s
  | 0x20 | 0x21 | 0x22 | 0x23 => if od s 0x1290 1 = 0x40 then (Config.freeValue (s.freeCtr + m)).testBit 0 else false
  | 0x28 => if (List.range 8).any (fun k => od s (0x1280 + k) 1 = 0x29) then (Config.freeValue (s.freeCtr + m)).testBit 0
            else true
  | 0x30 => decide (role s = 1)
  | _ => board

/-- GPIO_IN. -/
def gpioIn (s : State) : Nat := ((List.range 8).map fun m => if mfpLevel s m then 2 ^ m else 0).foldl (· + ·) 0

/-- Port-channel time under penalty, penalties in progress included. -/
def throttleTime (s : State) (p : Nat) : Nat :=
  (List.range 12).foldl (fun acc c =>
    match tfind (chan s c).penalties p with
    | some pen => if pen.ended.isNone then acc + (s.time - pen.start) else acc
    | none => acc) (od s (0x2060 + p) 3)

/-- Time a unit has been held, or has had a task RUNNING, without a break until now. -/
def unitTime (s : State) (u : Nat) (held : Bool) : Nat :=
  s.time - tget s.time (if held then s.js.unitHeld else s.js.unitBusy) u

/-- Parked faults of an instance (FAULTS_OUTSTANDING). -/
def faultsOutstanding (s : State) (n : Nat) : Nat :=
  (s.js.tasks.filter fun e => e.2.inst = n && e.2.parked.isSome).length +
  (s.net.zones.filter fun z => z.inst = n && z.parked.isSome).length

/-- The number an instance attribute reads. -/
def instValue (s : State) (n sub : Nat) : Nat :=
  match sub with
  | 0x01 => 0
  | 0x1E => rrHeldCount s n
  | 0x25 => faultsOutstanding s n
  | _ => od s (instIdx n) sub

/-- The number an entry of the Granary reads, by index from 0x3000 on. -/
def granaryValue (s : State) (idx sub : Nat) : Nat :=
  if idx = 0x3000 && sub = 6 then (candidates s).length
  else if idx = 0x3002 && sub = 1 then 65536 - s.js.tasks.length
  else if idx = 0x3002 && sub = 2 then 65536 - od s 0x3002 2
  else if 0x3010 ≤ idx && idx ≤ 0x301F then
    let z := idx - 0x3010
    (match sub with
     | 1 => allowance s z
     | 2 => committed s z
     | 3 => (zoneTasks s z .ready).length
     | 4 => (s.js.tasks.filter fun e => e.2.zone = z && e.2.urgent).length
     | _ => od s idx sub)
  else if 0x3080 ≤ idx && idx ≤ 0x30BF then
    let l := idx - 0x3080
    (match sub with
     | 1 => (s.js.tasks.filter fun e => e.2.prio = l && e.2.run = .ready).length
     | 2 => ((candidates s).filter fun c => c.job.priority = l).length
     | _ => od s idx sub)
  else if 0x3100 ≤ idx && idx ≤ 0x31BC then
    let u := idx - 0x3100
    (match sub with
     | 1 => zoneOf u
     | 3 => (od s idx 3 + unitTime s u false) % 2 ^ 64
     | 4 => (od s idx 4 + unitTime s u true) % 2 ^ 64
     | _ => od s idx sub)
  else od s idx sub

/-- Time since which the SCAN on a Sieve has been stalled without a break until now. -/
def stallNow (s : State) (u : Nat) : Nat :=
  match s.js.tasks.find? fun e => e.2.unit = u && e.2.eng.sv.stall.isSome with
  | some (_, t) => s.time - t.eng.sv.stall.getD s.time
  | none => 0

/-- The number an entry reads. -/
def liveValue (s : State) (idx sub : Nat) : Nat :=
  if 0x4000 ≤ idx && idx ≤ 0x4FFF then instValue s (idx - 0x4000) sub
  else if 0x3000 ≤ idx && idx ≤ 0x31FF then granaryValue s idx sub
  else if 0x3400 ≤ idx && idx ≤ 0x347F && sub = 1 then coreStatus s (idx - 0x3400)
  else if 0x3400 ≤ idx && idx ≤ 0x347F && sub = 2 then coreOwner s (idx - 0x3400)
  else if 0x3E10 ≤ idx && idx ≤ 0x3E17 && sub = 3 then (tget {} s.js.groups (idx - 0x3E10)).banks.length
  else if 0x3E10 ≤ idx && idx ≤ 0x3E17 && sub = 4 then (tget {} s.js.groups (idx - 0x3E10)).width
  else if 0x3800 ≤ idx && idx ≤ 0x380B && sub = 7 then (od s idx 7 + stallNow s (0x80 + (idx - 0x3800))) % 2 ^ 64
  else if 0x2060 ≤ idx && idx ≤ 0x206F && sub = 3 then throttleTime s (idx - 0x2060)
  else if 0x2060 ≤ idx && idx ≤ 0x206F && sub = 2 then (od s idx 2 + urgentWaiting s (idx - 0x2060)) % 2 ^ 64
  else
    match idx, sub with
    | 0x1001, 1 => s.mode.code
    | 0x1001, 2 => health s
    | 0x1001, 3 => s.time / perMs
    | 0x1201, 1 => 0
    | 0x12A0, 2 => gpioIn s
    | 0x1300, 2 => s.mode.code
    | 0x1310, 6 => vddCore s
    | 0x2C00, 7 => s.js.jobs.length
    | 0x2C00, 8 => s.tw.shadow.entries.length
    | 0x2C03, 3 => 0
    | 0x3D00, 1 => (s.js.tasks.filter fun e => e.2.unit = 0xAC).length
    | 0x3D01, 1 => (s.js.tasks.filter fun e => e.2.unit = 0xAD).length
    | 0x3E00, 2 => (freeBanks s).length
    | _, _ => od s idx sub

/-- Order code as marked (Table 00-1). -/
def orderText (n : Nat) : String := if n = 2 then "YDP4812-BE" else "YDP4812-AE"

/-- Whether an index is of a unit of a zone domain, which DORMANT power-gates: 0x3400 to 0x3FFF. -/
def gatedEntry (idx : Nat) : Bool := 0x3400 ≤ idx && idx ≤ 0x3FFF

/-- The state an entry is read from: in DORMANT the entries of power-gated units read what they held at entry to it (R426). -/
def readFrom (s : State) (idx : Nat) : State :=
  if s.mode = .dormant && gatedEntry idx then { s with od := s.pw.dormantOd } else s

/-- The bytes an entry reads; a WO entry and KEY read none (R383, R430). -/
def readEntry (s : State) (e : Entry) (idx sub : Nat) : List Byte :=
  if e.acc = .wo then []
  else
    match idx, sub with
    | 0x1000, 1 => asciiBytes "Nirond"
    | 0x1000, 2 => asciiBytes "YDP4812"
    | 0x1000, 3 => asciiBytes (orderText s.bt.fuses.orderCode)
    | 0x1000, 4 => asciiBytes "B0"
    | 0x1230, 1 => s.bt.fuses.digest
    | _, _ =>
      if 0x1140 ≤ idx && idx ≤ 0x114F && sub = 1 then []
      else if sub = 0 && e.acc = .const then leBytes e.ty.width e.lo
      else leBytes e.ty.width (liveValue (readFrom s idx) idx sub)

end Sys2Proof.Machine
end

