-- ==== Sys2Proof/Machine/DictRules.lean ====
section
/-! DEFINITION. The range and state rules of dictionary writes (step 7 of R431): what an accepted write does. -/

namespace Sys2Proof.Machine

/-- A plain write: the value is stored. -/
def storeEntry (idx sub v : Nat) (s : State) : Except VdpErr State := .ok (odSet idx sub v s)

/-! ### Translation (R262, R267, R273) -/

/-- Accepted, unfinished jobs of an instance. -/
def hasJobs (s : State) (n : Nat) : Bool :=
  s.js.jobs.any fun j => j.inst = n && j.jstate ≠ .pending && j.ended.isNone

/-- An invalidation joins those in order (R262). -/
def startInvalidate (n start len : Nat) (s : State) : State :=
  { s with ms := { s.ms with invals := s.ms.invals ++ [⟨n, start, len⟩] } }

/-- INVALIDATE (R262): an instance number above 4,095 names none. -/
def writeInvalidate (v : List Byte) (s : State) : Except VdpErr State :=
  if 4095 < fld v 0 2 then .error .range else .ok (startInvalidate (fld v 0 2) (fld v 8 8) (fld v 16 8) s)

/-- ROOT (R273). -/
def writeRoot (n v : Nat) (s : State) : Except VdpErr State :=
  if v ≠ 0 && !inPool s v 4096 then .error .range
  else if hasJobs s n then .error .busy
  else .ok (startInvalidate n 0 0 (odSet (instIdx n) 0x20 v s))

/-- FQ_BASE, FQ_ENTRIES and FQ_LOCATION (R267, R505): an accepted write starts a new queue. -/
def writeFaultQueue (n sub v : Nat) (s : State) : Except VdpErr State :=
  let i := inst s n
  if faultsOutstanding s n ≠ 0 || i.fqWaiting ≠ [] || i.fqHead ≠ i.fqTail then .error .busy
  else
    let s := instMod n (fun i => { i with fqTail := 0, fqHead := 0, doorbell := tset i.doorbell 0x200 0 }) s
    .ok (odSet (instIdx n) 0x26 0 (odSet (instIdx n) sub v s))

/-! ### Instance attributes (R314 to R318, R480) -/

/-- SPILL_POOL (R318): SPILL_FREE changes by the same amount. An ABSENT instance has nothing reserved. -/
def writeSpillPool (n v : Nat) (s : State) : Except VdpErr State :=
  let used := od s (instIdx n) 0x0A - od s (instIdx n) 0x0B
  if instSt s n = 0 then .ok (odSet (instIdx n) 0x0A v s)
  else if v < used then .error .busy
  else .ok (odSet (instIdx n) 0x0B (v - used) (odSet (instIdx n) 0x0A v s))

/-- RR_BASE and RR_ENTRIES (R318, R324); a new size starts the ring anew. -/
def writeRing (n sub v : Nat) (s : State) : Except VdpErr State :=
  let i := inst s n
  if rrHeldCount s n ≠ 0 || i.rrHeadPos ≠ i.rrTail then .error .busy
  else
    let s := if sub = 0x1B then
        odSet (instIdx n) 0x1D 0 (instMod n (fun i => { i with rrTail := 0, rrHeadPos := 0 }) s)
      else s
    .ok (odSet (instIdx n) sub v s)

/-- LIFECYCLE (R316, R317, R328). -/
def writeLifecycle (n v : Nat) (s : State) : Except VdpErr State :=
  match v with
  | 1 => createInst n s
  | 2 => destroyInst n s
  | 3 => restoreInst n s
  | _ => .error .range

/-- CONTROL (R320, R325, R326). -/
def writeControl (n v : Nat) (s : State) : Except VdpErr State :=
  match v with
  | 1 => controlReset n s
  | 2 => controlFreeze n s
  | 3 => controlResume n s
  | _ => .error .range

/-- The entries of an instance (Tables 12-5, 14-10, 15-2 and 24-5). -/
def writeInst (n sub v : Nat) (s : State) : Except VdpErr State :=
  let i := instIdx n
  let hasCq := (inst s n).cqs ≠ []
  let hasQueue := hasCq || (inst s n).sqs ≠ []
  match sub with
  | 0x01 => writeLifecycle n v s
  | 0x02 => writeControl n v s
  | 0x06 => if n = 0 then .error .range else storeEntry i sub v s
  | 0x09 => if hasJobs s n then .error .busy else storeEntry i sub v s
  | 0x0A => writeSpillPool n v s
  | 0x1A | 0x1B => writeRing n sub v s
  | 0x1D => writeRrHead n v s
  | 0x20 => writeRoot n v s
  | 0x21 | 0x22 | 0x23 => writeFaultQueue n sub v s
  | 0x28 => if hasQueue then .error .busy else storeEntry i sub v s
  | 0x2D | 0x2E | 0x2F => if hasCq then .error .busy else storeEntry i sub v s
  | 0x38 | 0x39 =>
    if !inPool s v 1 then .error .range
    else if od s i 0x3C ≠ 0 then .error .busy else storeEntry i sub v s
  | 0x3A | 0x3B => if od s i 0x3C ≠ 0 then .error .busy else storeEntry i sub v s
  | 0x3C => writeLogControl n v s
  | _ => storeEntry i sub v s

/-! ### Caches, power, Tun (R224, R234, R244, R351, R457, R461) -/

/-- Whether every class power fits a ZONE_FLOOR (R244). -/
def classesFit (s : State) (floor : Nat) : Bool := (List.range 8).all fun k => od s 0x3001 (1 + k) ≤ floor

/-- Whether a ZONE_FLOOR fits both power limits (R457): 120 W + 16 × ZONE_FLOOR. -/
def floorFits (floor limit brake : Nat) : Bool := 120000 + 16 * floor ≤ limit * 1000 && 120000 + 16 * floor ≤ brake * 1000

/-- ZONE_FLOOR, CLASS_POWER, and the power and voltage limits. -/
def writePower (idx sub v : Nat) (s : State) : Except VdpErr State :=
  let floor := od s 0x3000 4
  match idx, sub with
  | 0x3000, 4 =>
    if classesFit s v && floorFits v (od s 0x1310 1) (od s 0x1310 0xB) then storeEntry idx sub v s else .error .range
  | 0x3001, _ => if floor < v || (1 < sub && v < od s 0x3001 (sub - 1)) then .error .range else storeEntry idx sub v s
  | 0x1310, 1 => if floorFits floor v (od s 0x1310 0xB) then storeEntry idx sub v s else .error .range
  | 0x1310, 0xB => if floorFits floor (od s 0x1310 1) v then storeEntry idx sub v s else .error .range
  | 0x1310, 4 => if od s 0x1310 5 < v then .error .range else storeEntry idx sub v s
  | 0x1310, 5 => if v < od s 0x1310 4 then .error .range else storeEntry idx sub v s
  | _, _ => storeEntry idx sub v s

/-- FILL_HIGH and FILL_LOW (R351). -/
def writeFill (sub v : Nat) (s : State) : Except VdpErr State :=
  let high := if sub = 2 then v else od s 0x3F10 2
  let low := if sub = 3 then v else od s 0x3F10 3
  if high ≤ low then .error .range else storeEntry 0x3F10 sub v s

/-- L2_ENABLE and PREFETCH_ENABLE of a cluster (R224, R234). -/
def writeCluster (k sub v : Nat) (s : State) : Except VdpErr State :=
  if sub = 1 then
    match l2EnableWrite k v s with
    | some s => .ok s
    | none => .error .busy
  else .ok (prefetchWrite k v s)

/-- HOST_WINDOW_BASE and HOST_WINDOW_LENGTH (R296). -/
def writeWindow (l sub v : Nat) (s : State) : Except VdpErr State :=
  if (List.range 8).any (fun n => (tget {} s.cx.hdm (l * 8 + n)).committed) then .error .busy
  else storeEntry (0x2410 + l) sub v s

/-! ### Resource claims and timers (R440, R441, R492) -/

/-- MFPs that permit a pin function (Table 25-4). -/
def pinMfps (f : Nat) : List Nat :=
  if f = 0x10 || f = 0x11 || f = 0x18 || f = 0x30 then List.range 8
  else if f = 0x19 then List.range 4
  else if f = 0x20 then [4]
  else if 0x21 ≤ f && f ≤ 0x23 then [f - 0x21 + 5]
  else if f = 0x28 then [6]
  else if f = 0x29 then [7]
  else []

/-- Whether a feature is permitted on a resource (Tables 21-6 and 25-4). -/
def featureFits (r f : Nat) : Bool :=
  if r < 8 then (pinMfps f).contains r
  else if r < 14 then f = 3
  else if r = 14 then f = 1
  else if r = 15 then f = 2
  else if r = 16 then f = 0x40
  else f = 0x41 || f = 0x42

/-- Whether a holder is valid for a feature: an instance from 1 to 4,095 that is not ABSENT for INSTANCE_TIMER, else none. -/
def holderFits (s : State) (f h : Nat) : Bool :=
  if f = 3 then 1 ≤ h && h ≤ 4095 && instSt s h ≠ 0 else h = 0xFFFF

/-- A resource becomes free; a released timer stops (R440, R441). -/
def releaseResource (r : Nat) (s : State) : State :=
  let s := odSet (0x1280 + r) 2 0xFFFF (odSet (0x1280 + r) 1 0 s)
  if 8 ≤ r && r ≤ 13 then { s with vd := { s.vd with timers := tdel s.vd.timers (r - 8) } } else s

/-- A resource is given to a feature and a holder; a timer's EXPIRIES counts from its holder's claim. -/
def takeResource (r f h : Nat) (s : State) : State :=
  let s := odSet (0x1280 + r) 2 h (odSet (0x1280 + r) 1 f s)
  if 8 ≤ r && r ≤ 13 then odSet (0x1280 + r) 7 0 s else s

/-- A CLAIM write (R440). -/
def writeClaim (r : Nat) (v : List Byte) (s : State) : Except VdpErr State :=
  let f := fld v 0 1
  let h := fld v 2 2
  let owner := od s (0x1280 + r) 1
  if f = 0 then (if r = 14 || r = 15 then .error .range else .ok (releaseResource r s))
  else if !featureFits r f || !holderFits s f h then .error .range
  else if owner = f && od s (0x1280 + r) 2 = h then .ok s
  else if owner ≠ 0 then .error .claimed
  else .ok (takeResource r f h s)

/-- TIMER_PERIOD, TIMER_MODE and TIMER_START of a general timer (R441). -/
def writeTimer (k sub v : Nat) (s : State) : Except VdpErr State :=
  let idx := 0x1288 + k
  if od s idx 1 ≠ 3 then .error .busy
  else if sub ≠ 6 then storeEntry idx sub v s
  else
    let timers := if v = 1 then tset s.vd.timers k (s.time, od s idx 4, od s idx 5) else tdel s.vd.timers k
    .ok { s with vd := { s.vd with timers := timers } }

/-- TIMER_EXPIRY (R441): a PERIODIC timer starts again at once, in phase. -/
def execTimerExpiry (timer : Fin 6) (s : State) : Host.Outcome State Fault Refusal :=
  let k := timer.val
  let idx := 0x1288 + k
  .next (match tfind s.vd.timers k with
    | none => s
    | some (start, period, mode) =>
      let holder := od s idx 2
      let s := setFlagsWhere (fun t => t.inst = holder) flagTimer (odBump idx 7 s)
      let timers :=
        if mode = 1 then tset s.vd.timers k (start + period * perUs, od s idx 4, od s idx 5) else tdel s.vd.timers k
      { s with vd := { s.vd with timers := timers } })

/-! ### Field network and pair (R434, R437) -/

/-- A map entry: none, or an entry that is BOOL or an integer type (R434). -/
def writeMap (sub v : Nat) (s : State) : Except VdpErr State :=
  if v = 0 then storeEntry 0x1101 sub 0 s
  else
    match entryAt (v / 256) (v % 256) with
    | some e => if e.ty.mappable then storeEntry 0x1101 sub v s else .error .range
    | none => .error .range

/-- PAIR_POLICY on this device: jobs that wait at step 4 follow it (R14, R437). -/
def setPolicy (v : Nat) (s : State) : State := settlePending (odSet 0x2C01 0 v s)

/-! ### Fuses and the log (R383, R466, R484, R494) -/

/-- Whether any byte of a string is not 0. -/
def nonZero (b : List Byte) : Bool := b.any fun x => x ≠ 0

/-- OWNER_KEY is fused: it is no longer blank, or a key of zeros has been programmed (R383). -/
def ownerFused (f : Fuses) : Bool := f.ownerWritten || nonZero f.ownerKey

/-- OWNER_KEY (R383): its unwrap is programmed into the fuse while that is blank and VPP_FUSE is applied. -/
def writeOwnerKey (v : List Byte) (s : State) : Except VdpErr State :=
  if ownerFused s.bt.fuses then .error .range
  else if !s.bt.vpp then .error .busy
  else
    match keyUnwrap Config.factoryKey v with
    | none => .error .range
    | some k =>
      .ok (odSet 0x1140 2 2 { s with bt := { s.bt with fuses := { s.bt.fuses with ownerKey := k, ownerWritten := true } } })

/-- BOOT_KEY_DIGEST (R466): programmed once, with buffer 17 claimed for the time. -/
def writeDigestFuse (v : List Byte) (s : State) : Except VdpErr State :=
  if s.bt.fuses.digestWritten || nonZero s.bt.fuses.digest then .error .range
  else if !s.bt.vpp then .error .busy
  else if od s 0x1291 1 ≠ 0 then .error .claimed
  else .ok { s with bt := { s.bt with fuses := { s.bt.fuses with digest := v, digestWritten := true } } }

/-! ### Every entry -/

/-- A write of VDP_PORT: it is answered from the old port, which is kept for that (R442). -/
def writePort (v : Nat) (s : State) : Except VdpErr State :=
  let old := od s 0x1100 5
  .ok (odSet 0x1100 5 v { s with vd := { s.vd with port := old } })

/-- What a write does, its range and state rules included: step 7 of R431. KEY, RIGHTS and DEVICE_RESET only have their
refusals here; IMAGE and INSTANCE_IMAGE are written through sessions. -/
def applyWrite (e : Entry) (idx sub : Nat) (bytes : List Byte) (s : State) : Except VdpErr State :=
  let v := leNat bytes
  if e.ty.mappable && !inRange e idx sub v then .error .range
  else if e.ty = .bool && 1 < v then .error .range
  else if 0x4000 ≤ idx && idx ≤ 0x4FFF then
    let n := idx - 0x4000
    match writeInst n sub v s with
    | .ok s => .ok (if sub ≤ 2 then s else mirror (instRecord s n) s)
    | .error x => .error x
  else if 0x3480 ≤ idx && idx ≤ 0x348F then writeCluster (idx - 0x3480) sub v s
  else if 0x2410 ≤ idx && idx ≤ 0x2413 then writeWindow (idx - 0x2410) sub v s
  else if 0x1280 ≤ idx && idx ≤ 0x1291 then
    (if sub = 3 then writeClaim (idx - 0x1280) bytes s else writeTimer (idx - 0x1288) sub v s)
  else if 0x1320 ≤ idx && idx ≤ 0x132F then writeZonePower (idx - 0x1320) v s
  else if 0x1140 ≤ idx && idx ≤ 0x114F then
    (if idx = 0x1140 || (sub = 3 && (0x7F < v || v.testBit 5 || v.testBit 6)) then .error .range else .ok s)
  else if (idx = 0x2810 || idx = 0x2811) && sub = 6 then writeMoveBack (idx - 0x2810) v s
  else
    match idx, sub with
    | 0x1100, 5 => writePort v s
    | 0x1101, _ => writeMap sub v s
    | 0x1130, _ => writeOwnerKey bytes s
    | 0x1201, 1 => .ok s
    | 0x1230, _ => writeDigestFuse bytes s
    | 0x1300, _ => writeTarget v s
    | 0x1310, _ => writePower idx sub v s
    | 0x2301, _ => writeInvalidate bytes s
    | 0x2C01, _ => .ok (setPolicy v s)
    | 0x2C03, 3 => writeOrphanNow v s
    | 0x2C04, _ => writeOrphanCqHead bytes s
    | 0x3000, _ => writePower idx sub v s
    | 0x3001, _ => writePower idx sub v s
    | 0x3F10, 2 => writeFill sub v s
    | 0x3F10, 3 => writeFill sub v s
    | 0x5001, _ => .ok { s with ras := [] }
    | _, _ => storeEntry idx sub v s

end Sys2Proof.Machine
end

