-- ==== Sys2Proof/Machine/Grist.lean ====
section
/-! DEFINITION. Grist engines: the DIGEST stage (chapter 18). -/

namespace Sys2Proof.Machine

/-- A message digested or authenticated by engine e in a privileged context is counted (Table 18-4). The context, in slot 63,
is opened and closed within the command that uses it (R370). -/
def countDigest (e blocks : Nat) (s : State) : State := odBump (0x3D00 + e) 3 (odAdd (0x3D00 + e) 2 blocks s)

/-! ### Contexts (R370, R372) -/

/-- A context opened for a DIGEST operand, and the blocks that the key takes: with HMAC its inner chaining state has the key
block, and the key state has the outer one (R371). -/
def ctxOpen (img op : List Byte) : GristCtx × Nat :=
  let alg := fld op 0 1
  let iv := digestIv alg
  if (fld op 1 1).testBit 0 then
    let key := poolBytes img (fld op 8 4) (fld op 4 2)
    let k := hmacKey alg key
    ({ chain := digestStep alg iv (k.map (· ^^^ 0x36)), outer := digestStep alg iv (k.map (· ^^^ 0x5C)) },
     2 + (if digestBlock alg < key.length then digestBlocks alg key.length else 0))
  else ({ chain := iv }, 0)

/-- One whole block of the buffer processed. -/
def ctxBlock (alg : Nat) (g : GristCtx) : GristCtx :=
  { g with chain := digestStep alg g.chain (g.buf.take (digestBlock alg)), buf := g.buf.drop (digestBlock alg) }

/-- The message's end: the final padded blocks, with HMAC those of the outer hash, form the digest in the result register. -/
def ctxEnd (alg : Nat) (g : GristCtx) : GristCtx × Nat :=
  let b := digestBlock alg
  let tail := digestTail alg (if g.outer.isEmpty then g.count else b + g.count) g.buf
  let d := digestOut alg ((chunksOf b tail).foldl (digestStep alg) g.chain)
  if g.outer.isEmpty then ({ g with buf := [], result := d }, tail.length / b)
  else ({ g with buf := [], result := digestEnd alg g.outer (b + d.length) d },
        tail.length / b + (digestTail alg (b + d.length) d).length / b)

/-- Whether a DIGEST task's context is eligible: it holds a whole block, or its message has ended (R373). -/
def ctxEligible (s : State) (t : Task) : Bool :=
  isRunning t && unitsOn s t && t.eng.started && t.eng.b = 0 && !t.eng.done &&
  (digestBlock (fld (taskOperand s t) 0 1) ≤ t.eng.ctx.buf.length || insDone t)

/-- The task whose context an engine serves next: eligible, in round-robin order after the slot last started (R373). -/
def gristTurn (s : State) (e : Nat) : Option Nat :=
  let last := tget 63 s.js.gristLast e
  (List.range 64).findSome? fun i =>
    (s.js.tasks.find? fun x => x.2.unit = 0xAC + e && x.2.sub = (last + 1 + i) % 64 && ctxEligible s x.2).map (·.1)

/-- The result is written whole to the result buffer (R376, R377). -/
def writeDigest (slot : Nat) (t : Task) (d : List Byte) (s : State) : State :=
  match devWriteWhole t.unit (.inst t.inst) (taskBuffer s t 0).1 d s with
  | (some e, s) => accessFailed slot true 0xFF e s
  | (none, s) => stageDone slot s

/-- The engine starts the next block, which is this context's: a whole block of it, or its final ones; the digest, once formed,
is compared and written (R373, R376, R378). -/
def serveCtx (slot : Nat) (t : Task) (s : State) : State :=
  let op := taskOperand s t
  let alg := fld op 0 1
  let e := t.unit - 0xAC
  let s := { s with js := { s.js with gristLast := tset s.js.gristLast e t.sub } }
  if digestBlock alg ≤ t.eng.ctx.buf.length then
    odBump (0x3D00 + e) 2 (engMod slot (fun g => { g with ctx := ctxBlock alg g.ctx }) s)
  else
    let (g, blocks) := ctxEnd alg t.eng.ctx
    let s := countDigest e blocks s
    let n := fld op 2 1
    if (fld op 1 1).testBit 1 && g.result.take n ≠ poolBytes (taskImg s t) (fld op 0x0C 4) n then
      failTask slot 0x0202 {} (odBump (0x3D00 + e) 4 s)
    else writeDigest slot t g.result (engMod slot (fun x => { x with b := 1, ctx := g }) s)

/-- The context of a stage that starts is opened in its slot. -/
def openCtx (slot : Nat) (t : Task) (s : State) : State :=
  if t.eng.started then s
  else
    let (g, blocks) := ctxOpen (taskImg s t) (taskOperand s t)
    odAdd (0x3D00 + (t.unit - 0xAC)) 2 blocks (engMod slot (fun x => { x with started := true, ctx := g }) s)

/-- DIGEST: input is buffered, up to two blocks, and stalls its producer beyond (R374); then the engine starts a block of this
context if its turn has come (R373). A formed digest is written. -/
def runDigest (slot : Nat) (t : Task) (s : State) : State :=
  if t.eng.b = 1 then writeDigest slot t t.eng.ctx.result s
  else
    let s := openCtx slot t s
    match taskAt s slot with
    | none => s
    | some t =>
      let (bs, s) := takeUpTo slot 0 (2 * digestBlock (fld (taskOperand s t) 0 1) - t.eng.ctx.buf.length) s
      if 2 ^ 61 ≤ t.eng.ctx.count + bs.length then failTask slot 0x0217 {} s
      else
        let s := engMod slot (fun g => { g with ctx := { g.ctx with buf := g.ctx.buf ++ bs, count := g.ctx.count + bs.length } }) s
        match taskAt s slot with
        | none => s
        | some t => if gristTurn s (t.unit - 0xAC) = some slot then serveCtx slot t s else s

/-- DIGEST (R370 to R378). -/
def execDigest (slot : Nat) (s : State) : Host.Outcome State Fault Refusal :=
  .next (runStage slot [0x48] (runDigest slot) s)

end Sys2Proof.Machine
end

