-- ==== Sys2Proof/Machine/Boot.lean ====
section
/-! DEFINITION. Start-up: device resets, fuses, the configuration image's copies and their checks, bring-up and the step to
RUN (chapter 23; R276, R277, R280). -/

namespace Sys2Proof.Machine

/-! ### The image's bytes (R467 to R469) -/

/-- A directory entry (Table 23-3): type, offset, length and CRC. -/
structure Sect where
  kind : Nat
  off : Nat
  len : Nat
  crc : Nat
  deriving DecidableEq, Repr

/-- SEQUENCE of an image. -/
def imgSeq (b : List Byte) : Nat := fld b 8 8

/-- LENGTH of an image. -/
def imgLen (b : List Byte) : Nat := fld b 0x10 4

/-- SECTION_COUNT of an image. -/
def imgCount (b : List Byte) : Nat := fld b 6 2

/-- The directory entries in use. -/
def imgSects (b : List Byte) : List Sect :=
  (List.range (imgCount b)).map fun i =>
    let o := 0x80 + 16 * i
    ⟨fld b o 2, fld b (o + 4) 4, fld b (o + 8) 4, fld b (o + 12) 4⟩

/-- The first section of a type. -/
def sectOf (b : List Byte) (kind : Nat) : Option Sect := (imgSects b).find? fun x => x.kind = kind

/-- The bytes of a section of a type; none when it is absent. -/
def sectBytes (b : List Byte) (kind : Nat) : List Byte :=
  match sectOf b kind with
  | some x => slice b x.off x.len
  | none => []

/-- The commit marker of a SEQUENCE (R467). -/
def commitMarker (seq : Nat) : List Byte := [0x59, 0x43, 0x4D, 0x54, 0x21, 0x21, 0x21, 0x21] ++ leBytes 8 seq

/-- Check 1 of Table 23-6. -/
def headerOk (b : List Byte) : Bool :=
  fld b 0 4 = 0x47464359 && fld b 4 2 = 1 && 1 ≤ imgSeq b && imgSeq b ≤ 2 ^ 64 - 2 &&
  0x200 ≤ imgLen b && imgLen b ≤ 0x00FFF000 && imgLen b ≤ b.length

/-- Whether two sections share a byte. -/
def sectsMeet (x y : Sect) : Bool := x.off < y.off + y.len && y.off < x.off + x.len

/-- Check 3: the directory under R468. -/
def directoryOk (b : List Byte) : Bool :=
  let xs := imgSects b
  5 ≤ imgCount b && imgCount b ≤ 16 &&
  (xs.all fun x => 1 ≤ x.kind && x.kind ≤ 6 && x.off % 4096 = 0 && x.off + x.len ≤ imgLen b) &&
  (xs.zipIdx.all fun (x, i) => xs.zipIdx.all fun (y, j) => i = j || !sectsMeet x y) &&
  ([1, 2, 3, 5, 6].all fun k => (xs.filter fun x => x.kind = k).length = 1)

/-- Check 4: section CRCs. -/
def crcsOk (b : List Byte) : Bool := (imgSects b).all fun x => crc32c (slice b x.off x.len) = x.crc

/-! ### Keys (R466, R470) -/

/-- The fuse-derived key (R466). -/
def fdk (s : State) : List Byte :=
  let k := if ownerFused s.bt.fuses then s.bt.fuses.ownerKey else Config.factoryKey
  hmac 1 k (asciiBytes "PLZ-FDK" ++ leBytes 8 (serial s))

/-- The boot key of an image (R470): 48 zero bytes while the digest is blank; none when check 5 fails. -/
def bootKey (s : State) (b : List Byte) : Option (List Byte) :=
  let w := slice b 0x18 56
  if nonZero s.bt.fuses.digest then
    match keyUnwrap (fdk s) w with
    | some k => if digest 2 k = s.bt.fuses.digest then some k else none
    | none => none
  else if nonZero w then none else some (List.replicate 48 0)

/-- IMAGE_HMAC of an image under a boot key. -/
def imageHmac (k b : List Byte) : List Byte := hmac 2 k (splice (slice b 0 (imgLen b)) 0x50 (List.replicate 48 0))

/-- KEYS entry of a principal: its wrap and its rights. -/
def keysEntry (b : List Byte) (p : Nat) : List Byte × Nat :=
  let o := 48 * (p - 1)
  (slice b o 40, fld b (o + 40) 2)

/-! ### DRAM section (R277, R280; Table 23-5) -/

/-- BASE, LENGTH and ORDER of a region of the section. -/
def sectRegion (d : List Byte) (r : Nat) : Nat × Nat × Nat :=
  let o := 0x40 + 24 * r
  (fld d o 8, fld d (o + 8) 8, fld d (o + 16) 1)

/-- Bytes of a channel by the widths C, R and W (R279). -/
def sectChannelBytes (d : List Byte) : Nat := 2 ^ (12 + fld d 4 1 + fld d 5 1 + fld d 6 1)

/-- Whether two regions overlap; one of LENGTH 0 is unused (R277). -/
def regionsMeet (x y : Nat × Nat × Nat) : Bool :=
  x.2.1 ≠ 0 && y.2.1 ≠ 0 && x.1 < y.1 + y.2.1 && y.1 < x.1 + x.2.1

/-- Whether the regions meet R277. -/
def regionsOk (d : List Byte) : Bool :=
  let rs := (List.range 8).map (sectRegion d)
  (rs.all fun x => x.1 % 2 ^ 30 = 0 && x.2.1 % (12 * 2 ^ 30) = 0 && x.2.2 ≤ 3) &&
  (rs.zipIdx.all fun (x, i) => rs.zipIdx.all fun (y, j) => i = j || !regionsMeet x y) &&
  (rs.map fun x => x.2.1 / 12).foldl (· + ·) 0 ≤ sectChannelBytes d

/-- Whether a DIMM configuration is one of Table 13-1, and a channel holds at most 512 GiB (R275). -/
def dimmsOk (d : List Byte) : Bool :=
  let kind := fld d 0 1
  let dimms := fld d 1 1
  let rate := fld d 2 2
  ((kind = 2 && dimms = 1 && (rate = 8800 || rate = 12800)) ||
   (kind = 1 && (dimms = 1 || dimms = 2) && (rate = 6400 || rate = 8000))) &&
  sectChannelBytes d ≤ 2 ^ 39

/-- Whether U16 i of a delay record, from 0x010 on, is a delay: all but 5 reserved words of each sub-channel's CA (Table
13-4). -/
def isDelay (i : Nat) : Bool := i < 200 || (i - 200) % 16 < 11

/-- Whether a delay record meets R280: its rate, its CRC, and delays from 0x010 to 0x1DF; reserved words are ignored (R6). -/
def delayOk (d : List Byte) (k : Nat) : Bool :=
  let r := slice d (0x100 + 512 * k) 512
  fld r 2 2 = fld d 2 2 &&
  ((List.range 232).all fun i => !isDelay i || fld r (0x10 + 2 * i) 2 ≤ 4095) && crc32c (r.take 0x1FC) = fld r 0x1FC 4

/-- Check 7: R277 and R280. A section whose DIMMs are not those of Table 13-1 is refused here too, as its field DATA_RATE has
the range of that table (Table 23-5; DEDUCED, log entry 55). -/
def dramOk (d : List Byte) : Bool :=
  0x6108 ≤ d.length && fld d 0x6100 4 ≤ 4096 && 0x6108 + 8 * fld d 0x6100 4 ≤ d.length &&
  dimmsOk d && regionsOk d && (List.range 48).all (delayOk d)

/-! ### SETTINGS (R469) -/

/-- Entries whose default reads "From image": first and last index, first and last subindex. -/
def imageEntries : List (Nat × Nat × Nat × Nat) :=
  [(0x2800, 0x2803, 2, 2), (0x2000, 0x2000, 1, 3), (0x2010, 0x2017, 1, 3), (0x2400, 0x2400, 1, 2), (0x3E00, 0x3E00, 1, 1),
   (0x2C00, 0x2C00, 5, 5), (0x2C01, 0x2C01, 0, 0), (0x1100, 0x1100, 2, 2), (0x1280, 0x1291, 1, 1), (0x1201, 0x1201, 2, 2)]

/-- Whether an entry's default reads "From image". -/
def fromImage (idx sub : Nat) : Bool :=
  imageEntries.any fun r => r.1 ≤ idx && idx ≤ r.2.1 && r.2.2.1 ≤ sub && sub ≤ r.2.2.2

/-- The keys of all those entries. -/
def imageKeys : List (Nat × Nat) :=
  imageEntries.flatMap fun r =>
    (List.range (r.2.1 + 1 - r.1)).flatMap fun i => (List.range (r.2.2.2 + 1 - r.2.2.1)).map fun j => (r.1 + i, r.2.2.1 + j)

/-- A SETTINGS record: index, subindex, type code and value. -/
structure Setting where
  idx : Nat
  sub : Nat
  ty : Nat
  value : List Byte
  deriving DecidableEq, Repr

/-- The records of a section; none when one runs past its end. -/
def readSettings : Nat → List Byte → Option (List Setting)
  | 0, b => if b.isEmpty then some [] else none
  | fuel + 1, b =>
    if b.isEmpty then some []
    else
      let n := fld b 4 2
      let size := 8 + roundUp n 8
      if b.length < size then none
      else (readSettings fuel (b.drop size)).map fun rest => ⟨fld b 0 2, fld b 2 1, fld b 3 1, slice b 8 n⟩ :: rest

/-- Whether a value is in the range that an entry's own rule gives it (R238, R434, R440; Tables 13-1 and 21-6). -/
def ownRange (idx sub v : Nat) : Bool :=
  if idx = 0x4000 && sub = 6 then false
  else if idx = 0x2000 && sub = 3 then [6400, 8000, 8800, 12800].contains v
  else if 0x1280 ≤ idx && idx ≤ 0x1291 && sub = 1 then v = 0 || featureFits (idx - 0x1280) v
  else if idx = 0x1101 then v = 0 || (entryAt (v / 256) (v % 256)).any fun e => e.ty.mappable
  else true

/-- Whether a record passes R469 by itself. -/
def settingOk (r : Setting) : Bool :=
  match entryAt r.idx r.sub with
  | none => false
  | some e =>
    (fromImage r.idx r.sub || (e.acc = .rw && e.ty ≠ .domain)) && r.ty = e.ty.code && r.value.length = e.ty.width &&
    (if e.ty.mappable then
      inRange e r.idx r.sub (leNat r.value) && ownRange r.idx r.sub (leNat r.value) && (e.ty ≠ .bool || leNat r.value ≤ 1)
    else true)

/-- The entries as the records of a section leave them, before their effects. -/
def settledWith (rs : List Setting) : State := rs.foldl (fun s r => odSet r.idx r.sub (leNat r.value) s) State.reset

/-- Ranges that one entry gives another, over the values of all the records (R244, R273, R329, R351, R457). -/
def settingsFit (rs : List Setting) : Bool :=
  let s := settledWith rs
  classesFit s (od s 0x3000 4) && ((List.range 7).all fun k => od s 0x3001 (1 + k) ≤ od s 0x3001 (2 + k)) &&
  floorFits (od s 0x3000 4) (od s 0x1310 1) (od s 0x1310 0xB) && od s 0x1310 4 ≤ od s 0x1310 5 &&
  od s 0x3F10 3 < od s 0x3F10 2 &&
  (rs.all fun r =>
    if 0x4000 ≤ r.idx && r.idx ≤ 0x4FFF then
      (r.sub ≠ 0x20 || leNat r.value = 0 || inPool s (leNat r.value) 4096) &&
      ((r.sub ≠ 0x38 && r.sub ≠ 0x39) || inPool s (leNat r.value) 1)
    else true)

/-- Check 8: the settings of a section, if they pass. -/
def settingsOf (b : List Byte) : Option (List Setting) :=
  match readSettings (b.length / 8 + 1) b with
  | none => none
  | some rs =>
    let keys := rs.map fun r => (r.idx, r.sub)
    if rs.all settingOk && keys.eraseDups.length = keys.length && imageKeys.all keys.contains && settingsFit rs then some rs
    else none

/-- A setting takes effect: ZONE_POWER, L2_ENABLE and PREFETCH_ENABLE as a write of them does, any other as the value of its
entry (R235, R459, R469; log entry 71). -/
def applySetting (s : State) (r : Setting) : State :=
  let v := leNat r.value
  if 0x1320 ≤ r.idx && r.idx ≤ 0x132F && r.sub = 1 then zonePowerTo (r.idx - 0x1320) v s
  else if 0x3480 ≤ r.idx && r.idx ≤ 0x348F then
    match writeCluster (r.idx - 0x3480) r.sub v s with
    | .ok s => s
    | .error _ => odSet r.idx r.sub v s
  else odSet r.idx r.sub v s

/-! ### CLAIMS (R471) -/

/-- Precedence of a feature (Table 25-4); features without one come last. -/
def precedence (f : Nat) : Nat :=
  if f = 0x19 then 1 else if f = 0x18 then 3 else if f = 0x30 then 4 else if 0x20 ≤ f && f ≤ 0x23 then 5
  else if f = 0x28 || f = 0x29 then 6 else if f = 0x11 then 7 else if f = 0x10 then 8 else 9

/-- The claims of a section in the order they are applied. -/
def claimsInOrder (b : List Byte) : List (Nat × Nat) :=
  let rs := (List.range (b.length / 4)).map fun i => (fld b (4 * i) 1, fld b (4 * i + 1) 1)
  (List.range 10).flatMap fun p => rs.filter fun r => precedence r.2 = p

/-- Owners after the claims, from the fixed owners on; none when a record fails. Feature 0, permitted on any resource, leaves a
free one free (Table 21-6). -/
def settleClaims : List (Nat × Nat) → Tbl Nat → Option (Tbl Nat)
  | [], t => some t
  | (r, f) :: rest, t =>
    if 17 < r || (tfind t r).isSome then none
    else if f = 0 then settleClaims rest t
    else if f = 3 || !featureFits r f then none
    else settleClaims rest (tset t r f)

/-- Owners of an image's claims. -/
def claimsOf (b : List Byte) : Option (Tbl Nat) :=
  if b.length % 4 = 0 && b.length ≤ 72 then settleClaims (claimsInOrder b) [(14, 1), (15, 2)] else none

/-- Whether every KEYS wrap that is not all zero unwraps under the FDK. -/
def keysOk (s : State) (b : List Byte) : Bool :=
  b.isEmpty || (List.range 15).all fun i =>
    let w := (keysEntry b (i + 1)).1
    !nonZero w || (keyUnwrap (fdk s) w).isSome

/-! ### Copies (R470, R472, R474) -/

/-- Status of an image's bytes by checks 1 and 3 to 9, or 0. -/
def imageStatus (s : State) (b : List Byte) : Nat :=
  if !headerOk b then 1
  else if !directoryOk b then 3
  else if !crcsOk b then 4
  else
    match bootKey s b with
    | none => 5
    | some k =>
      if imageHmac k b ≠ slice b 0x50 48 then 6
      else if !dramOk (sectBytes b 2) then 7
      else if (settingsOf (sectBytes b 1)).isNone then 8
      else if (claimsOf (sectBytes b 3)).isNone || !keysOk s (sectBytes b 4) then 9
      else 0

/-- Status of a copy (Table 23-6). A flash without 8D-8D-8D operation fails both with HEADER (R500). -/
def copyStatus (s : State) (c : FlashCopy) : Nat :=
  if !s.bt.octal || !headerOk c.bytes then 1
  else if c.marker ≠ commitMarker (imgSeq c.bytes) then 2
  else imageStatus s c.bytes

/-- What check 5 of an image costs engine 0: the boot key's digest, and its compare (R378, R384, R470). -/
def countBootKey (b : List Byte) (s : State) : State :=
  match (if nonZero s.bt.fuses.digest then keyUnwrap (fdk s) (slice b 0x18 56) else none) with
  | none => s
  | some k =>
    let s := countDigest 0 (digestBlocks 2 k.length) s
    if digest 2 k = s.bt.fuses.digest then s else odBump 0x3D00 4 s

/-- What check 6 costs: IMAGE_HMAC, and its compare. -/
def countImageMac (b : List Byte) (s : State) : State :=
  match bootKey s b with
  | none => s
  | some k =>
    let s := countDigest 0 (hmacBlocks 2 k.length (imgLen b)) s
    if imageHmac k b = slice b 0x50 48 then s else odBump 0x3D00 4 s

/-- What checks 5 and 6 of an image cost engine 0 (log entry 43). -/
def countImage (b : List Byte) (s : State) : State :=
  if !headerOk b || !directoryOk b || !crcsOk b then s else countImageMac b (countBootKey b s)

/-- The checks of both copies are counted, where they come that far. -/
def countCopies (s : State) : State :=
  [s.bt.copyA, s.bt.copyB].foldl (fun s c =>
    if !s.bt.octal || !headerOk c.bytes || c.marker ≠ commitMarker (imgSeq c.bytes) then s else countImage c.bytes s) s

/-- STATUS and SEQUENCE of both copies follow what the flash holds (Table 23-8). -/
def noteCopies (s : State) : State :=
  let a := copyStatus s s.bt.copyA
  let b := copyStatus s s.bt.copyB
  let seq : Nat → FlashCopy → Nat := fun st c => if st = 0 then imgSeq c.bytes else 0
  odSet 0x1200 3 (seq a s.bt.copyA) (odSet 0x1200 4 (seq b s.bt.copyB) (odSet 0x1200 5 a (odSet 0x1200 6 b s)))

/-- The newest valid copy: 0 A, 1 B; A when both are valid with equal SEQUENCE (R472). -/
def newestCopy (s : State) : Option Nat :=
  let a := copyStatus s s.bt.copyA
  let b := copyStatus s s.bt.copyB
  if a = 0 && (b ≠ 0 || imgSeq s.bt.copyB.bytes ≤ imgSeq s.bt.copyA.bytes) then some 0
  else if b = 0 then some 1 else none

/-- A copy by number. -/
def copyAt (s : State) (k : Nat) : FlashCopy := if k = 0 then s.bt.copyA else s.bt.copyB

/-- The state with a copy's flash changed. -/
def copySet (k : Nat) (c : FlashCopy) (s : State) : State :=
  { s with bt := if k = 0 then { s.bt with copyA := c } else { s.bt with copyB := c } }

/-- The target of an update: an absent copy, A first, else the copy with the lower SEQUENCE. The loaded copy is not written while
the other is absent (R474). -/
def targetCopy (s : State) : Nat :=
  if copyStatus s s.bt.copyA ≠ 0 && copyStatus s s.bt.copyB ≠ 0 && od s 0x1200 2 = 0 then 1
  else if copyStatus s s.bt.copyA ≠ 0 then 0
  else if copyStatus s s.bt.copyB ≠ 0 then 1
  else if imgSeq s.bt.copyA.bytes < imgSeq s.bt.copyB.bytes then 0 else 1

/-! ### Loading (R276, R468, R473) -/

/-- The DRAM section takes effect: DIMM description, regions and widths; its delays wait for bring-up (R276). -/
def loadDram (d : List Byte) (s : State) : State :=
  let s := odSet 0x2000 1 (fld d 0 1) (odSet 0x2000 2 (fld d 1 1) (odSet 0x2000 3 (fld d 2 2) s))
  let s := (List.range 8).foldl (fun s r =>
    let x := sectRegion d r
    odSet (0x2010 + r) 1 x.1 (odSet (0x2010 + r) 2 x.2.1 (odSet (0x2010 + r) 3 x.2.2 s))) s
  { s with dr := { s.dr with widthC := fld d 4 1, widthR := fld d 5 1, widthW := fld d 6 1 } }

/-- A principal's key: KEY_STATE follows it (R383). -/
def setKey (p : Nat) (k : List Byte) (s : State) : State :=
  let keys := if nonZero k then tset s.bt.keys p k else tdel s.bt.keys p
  odSet (0x1140 + p) 2 (if nonZero k then 1 else 0) { s with bt := { s.bt with keys := keys } }

/-- The KEYS section takes effect. -/
def loadKeys (b : List Byte) (s : State) : State :=
  if b.isEmpty then s
  else (List.range 15).foldl (fun s i =>
    let x := keysEntry b (i + 1)
    let k := if nonZero x.1 then (keyUnwrap (fdk s) x.1).getD [] else []
    odSet (0x1141 + i) 3 x.2 (setKey (i + 1) k s)) s

/-- An image's settings, DRAM section, claims and keys take effect. -/
def loadImage (b : List Byte) (s : State) : State :=
  let s := ((settingsOf (sectBytes b 1)).getD []).foldl applySetting s
  let s := loadDram (sectBytes b 2) s
  let owners := (claimsOf (sectBytes b 3)).getD []
  let s := (List.range 18).foldl (fun s r => odSet (0x1280 + r) 1 (tget 0 owners r) s) s
  let s := { s with js := { s.js with groups := tmod {} s.js.groups 0 fun g =>
    { g with banks := List.range (od s 0x3E00 1), width := 160 } } }
  loadKeys (sectBytes b 4) s

/-- Links 1 and 3, present once the settings split their ports, start to train where PERST_N is already high (R473). -/
def startSplitLinks (s : State) : State :=
  [1, 3].foldl (fun s l =>
    if linkExists s l && !s.cx.perst.contains l && od s (0x2410 + l) 1 = 0 then odSet (0x2410 + l) 1 1 s else s) s

/-- Both copies are checked and one is loaded, or BOOT_FAIL (R472). -/
def chooseCopy (s : State) : State :=
  let s := noteCopies (countCopies s)
  match newestCopy s with
  | none => odSet 0x1200 1 2 s
  | some k => startSplitLinks (odSet 0x1200 2 k (odSet 0x1200 1 0 (loadImage (copyAt s k).bytes s)))

/-- COPY_CHOSEN (R472), with what the board's programmer has put in the flash, if it has (log entry 27). -/
def execCopyChosen (board : Option (FlashCopy × FlashCopy)) (octal : Bool) (s : State) : Host.Outcome State Fault Refusal :=
  .next (if s.mode = .configLoad && od s 0x1200 1 = 0 && od s 0x1200 2 = 0xFF then
      let bt := match board with
        | some (a, b) => { s.bt with copyA := a, copyB := b, octal := octal }
        | none => { s.bt with octal := octal }
      chooseCopy { s with bt := bt }
    else s)

/-- Whether a channel's SPD agrees with the image (R276). -/
def spdMatches (s : State) (d : List Byte) (x : Spd) : Bool :=
  x.dimmType = od s 0x2000 1 && x.dimms = od s 0x2000 2 && x.rate = od s 0x2000 3 && x.ranks = fld d 7 1 &&
  x.density = fld d 8 1 && x.bytes = sectChannelBytes d

/-- Bring-up of the twelve channels (R276): the mask of those that fail. -/
def failMask (s : State) (d : List Byte) (spd : List Spd) (bad : Nat) : Nat :=
  ((List.range 12).map fun c =>
    match spd[c]? with
    | some x => if spdMatches s d x && !bad.testBit c then 0 else 2 ^ c
    | none => 2 ^ c).foldl (· + ·) 0

/-- Step 2 of R276 for a channel whose SPD agrees: the delays of its temperature's band. A channel kept in self-refresh through
the reset is active again (R464). -/
def applyDelays (d : List Byte) (spd : List Spd) (s : State) : State :=
  (List.range 12).foldl (fun s c =>
    if spd[c]?.any (spdMatches s d) then
      odSet (0x2020 + c) 1 0 (odSet (0x2020 + c) 3 (chan s c).band (chanMod c (fun ch => { ch with delays := true }) s))
    else s) s

/-- The control words of the DRAM section leave in order, on the channels they name, before the check pattern (Table 23-5). -/
def writeControlWords (d : List Byte) (s : State) : State :=
  (List.range (fld d 0x6100 4)).foldl (fun s i =>
    let o := 0x6108 + 8 * i
    emit (.controlWord (fld d o 1) (fld d (o + 1) 1) (fld d (o + 2) 2) (fld d (o + 4) 2) (fld d (o + 6) 2)) s) s

/-- DRAM_BRINGUP (R276): the SPD of each channel, its delays, and the channels whose read-back fails. -/
def execDramBringup (spd : List Spd) (bad : BitVec 12) (s : State) : Host.Outcome State Fault Refusal :=
  .next (if s.mode = .configLoad && od s 0x1200 1 = 0 && od s 0x1200 2 ≠ 0xFF then
      let d := sectBytes (copyAt s (od s 0x1200 2)).bytes 2
      let mask := failMask s d spd bad.toNat
      let s := odSet 0x2000 5 mask (writeControlWords d (applyDelays d spd s))
      if mask ≠ 0 then odSet 0x1200 1 3 s
      else
        let s := odSet 0x2000 4 (sectChannelBytes d) { s with bt := { s.bt with dramOk := true } }
        spd.zipIdx.foldl (fun s (x, c) => chanMod c (fun ch => { ch with raaLimits := x.raa }) s) s
    else s)

/-- LOAD_END (R473): firmware and runtime run; pairing starts (R407). -/
def execLoadEnd (s : State) : Host.Outcome State Fault Refusal :=
  .next (if s.mode = .configLoad && od s 0x1200 1 = 0 && od s 0x1200 2 ≠ 0xFF && s.bt.dramOk then
      let s := odSet 0x1200 1 1 (odSet 0x1200 8 (min (s.time / perMs) (2 ^ 32 - 1)) s)
      let s := odSet 0x2C00 4 s.vd.loggedEpoch s
      if pairId s = 0 then s else odSet 0x2C00 1 1 (twMod (fun w => { w with fromUnpaired := true }) s)
    else s)

/-- RUN_ENTRY (R407, R473); the Ethernet ports begin to train. -/
def execRunEntry (s : State) : Host.Outcome State Fault Refusal :=
  let paired := if pairId s = 0 then pairState s = 0 else pairState s = 3 || pairState s = 4
  .next (if s.mode = .configLoad && od s 0x1200 1 = 1 && paired && !s.cx.perst.contains (od s 0x2400 2) then
      setPorts 1 { s with mode := .run }
    else s)

/-! ### Resets (R462 to R465, R496) -/

/-- Entries that a device reset keeps: the straps, the counter log's values, and, unless it is a power-on reset, the voltage
that the rail goes on giving (R462). -/
def keptEntries (cause : Nat) (s : State) : Tbl Nat :=
  let rail := if cause = 1 then [] else [odKey 0x1310 6]
  let keys := [odKey 0x2C00 2, odKey 0x1100 1] ++ rail ++ (List.range 16).map fun p => odKey (0x1140 + p) 5
  s.od.filter fun e => keys.contains e.1

/-- What the shared caches hold dirty is lost with them: DRAM keeps what lay below it (R219, R464). -/
def loseCaches (s : State) : State :=
  s.clusters.foldl (fun s e => e.2.l2.foldl (fun s x => l2Discard e.1 (x.1 / 16) (x.1 % 16) s) s) s

/-- Causes 2 to 4 put every channel that is not FAILED into self-refresh (R464). -/
def selfRefreshAll (before s : State) : State :=
  (List.range 12).foldl (fun s c => if chanState before c = 3 then s else odSet (0x2020 + c) 1 2 s) s

/-- The state after a device reset: FUSE_LOAD, every entry at its Default but those kept; fuses, flash, counter log and
what lies outside the device stay. The shadow and the plan store lie in DRAM (R408). -/
def afterReset (cause : Nat) (s : State) : State :=
  let low := loseCaches s
  let s' : State :=
    { pending := s.pending, out := s.out, freeCtr := s.freeCtr, time := s.time, mode := .fuseLoad
      od := keptEntries cause s
      ms := { dram := low.ms.dram, poison := low.ms.poison, hosts := s.ms.hosts, planStore := s.ms.planStore }
      tw := { shadow := s.tw.shadow }
      net := { localIp := s.net.localIp, localIp6 := s.net.localIp6 }
      vd := { loggedEpoch := s.vd.loggedEpoch, netUp := s.vd.netUp }
      cx := { perst := s.cx.perst }
      bt := { fuses := s.bt.fuses, copyA := s.bt.copyA, copyB := s.bt.copyB, octal := s.bt.octal, vpp := s.bt.vpp }
      pins := { mfp := s.pins.mfp, resetLow := s.pins.resetLow, tap := s.pins.tap }
      ras := if cause = 1 then [] else s.ras }
  odSet 0x1200 7 cause (if cause = 1 then s' else selfRefreshAll s s')

/-- Whether DRAM content can survive a reset: every channel in use enters self-refresh, or has stayed in it since the last
reset (R464). -/
def maySurvive (s : State) : Bool :=
  if s.mode = .fuseLoad then s.bt.survives
  else if s.bt.dramOk then (List.range 12).all fun c => chanState s c ≠ 3
  else od s 0x1200 9 = 1

/-- A device reset (R463). Of causes that arrive within one reset, the lowest counts (R496). -/
def deviceReset (cause : Nat) (s : State) : State :=
  let c := if s.mode = .fuseLoad then min cause (od s 0x1200 7) else cause
  let keep := c ≠ 1 && maySurvive s
  let s := afterReset c s
  { s with bt := { s.bt with survives := keep } }

/-- PWRGOOD_DEASSERT (R496): the device is OFF until PWRGOOD rises again. -/
def execPwrgoodDeassert (s : State) : Host.Outcome State Fault Refusal :=
  .next { deviceReset 1 s with mode := .off }

/-- PWRGOOD_ASSERT (R462, R491): the straps are sampled; time counts from here. -/
def execPwrgoodAssert (role : Fin 2) (plca : Fin 64) (s : State) : Host.Outcome State Fault Refusal :=
  .next (if s.mode = .off then
      let s := deviceReset 1 { s with time := 0 }
      odSet 0x2C00 2 role.val (odSet 0x1100 1 plca.val s)
    else s)

/-- SYS_RESET_N (R463): held low for 1 µs, or released. -/
def execSysResetN (low : Bool) (s : State) : Host.Outcome State Fault Refusal :=
  let s := { s with pins := { s.pins with resetLow := low } }
  .next (if low && s.mode ≠ .off then deviceReset 2 s else s)

/-- WATCHDOG_EXPIRY (R463): firmware refreshes the watchdog from CONFIG_LOAD on. -/
def execWatchdogExpiry (s : State) : Host.Outcome State Fault Refusal :=
  .next (if s.mode = .off || s.mode = .fuseLoad then s else deviceReset 3 s)

/-- FUSE_LOAD_DONE (R465): the fuses as programmed, if they have changed; the words that read as uncorrectable; whether
every channel stayed in self-refresh (R464). The word of MGMT_MAC also holds ORDER_CODE and bits of ENABLED_UNITS, so that its
error brings HOLD as theirs does. A Mash engine absent from the mask publishes STATE 5 (R118). -/
def execFuseLoadDone (fuses : Option Fuses) (errors : List FuseError) (kept : Bool) (s : State) :
    Host.Outcome State Fault Refusal :=
  .next (if s.mode ≠ .fuseLoad || s.pins.resetLow then s
    else
      let f := fuses.getD s.bt.fuses
      let mac := if errors.contains .mac then [0x02, 0, 0, 0, 0, BitVec.ofNat 8 (od s 0x1100 1)] else f.mac
      let keep := kept && s.bt.survives
      let s := { s with mode := .configLoad, bt := { s.bt with fuses := f } }
      let s := if keep then odSet 0x1200 9 1 (twMod (fun w => { w with kept := true }) s)
        else { s with ms := { s.ms with dram := [], poison := [], planStore := [] }, tw := {} }
      let s := odSet 0x1000 5 (if errors.contains .serial then 0 else f.serial) s
      let s := odSet 0x1000 6 (leNat mac) (odSet 0x1202 1 f.units s)
      let s := (List.range 8).foldl (fun s n => if f.units.testBit (0x90 + n) then s else odSet (0x3820 + n) 1 5 s) s
      let s := odSet 0x1140 2 (if ownerFused f then 2 else 0) s
      let s := (List.range 16).foldl (fun s p => odSet (0x1140 + p) 4 (od s (0x1140 + p) 5 + 4096) s) s
      let s := [0, 2].foldl (fun s l => if s.cx.perst.contains l then s else odSet (0x2410 + l) 1 1 s) s
      if errors.contains .otherField || errors.contains .mac then fatal 1 s else s)

/-! ### The device-made update (R476) -/

/-- The KEYS section as the device records it. -/
def keysSection (s : State) : List Byte :=
  (List.range 15).flatMap fun i =>
    let p := i + 1
    let w := match tfind s.bt.keys p with
      | some k => keyWrap (fdk s) k
      | none => List.replicate 40 0
    w ++ leBytes 2 (od s (0x1140 + p) 3) ++ List.replicate 6 0

/-- An image with its KEYS section replaced or added, SEQUENCE one higher, CRCs and IMAGE_HMAC recomputed. -/
def updatedImage (s : State) (b : List Byte) : List Byte :=
  let ks := keysSection s
  let n := (findPos (fun x : Sect => x.kind = 4) (imgSects b)).getD (imgCount b)
  let old := sectOf b 4
  let off := match old with
    | some x => x.off
    | none => roundUp (imgLen b) 4096
  let len := max (imgLen b) (off + 720)
  let entry := leBytes 2 4 ++ leBytes 2 0 ++ leBytes 4 off ++ leBytes 4 720 ++ leBytes 4 (crc32c ks)
  let b := splice (slice b 0 (imgLen b)) off ks
  let b := splice b (0x80 + 16 * n) entry
  let b := splice b 6 (leBytes 2 (if old.isSome then imgCount b else imgCount b + 1))
  let b := splice b 8 (leBytes 8 (imgSeq b + 1) ++ leBytes 4 len)
  splice b 0x50 (imageHmac ((bootKey s b).getD []) b)

/-- Offset at which the body of a copy starts, after the header (Table 23-3). -/
def headerBytes : Nat := 0x200

/-- What a download that ends early leaves in its target: the body that has arrived; the header is programmed after it (R474,
R475). -/
def bodyOnly (old new : List Byte) : List Byte :=
  if new.length ≤ headerBytes then old else splice old headerBytes (new.drop headerBytes)

/-- The commit-marker sector of a copy is erased: the first step of an update (R474). -/
def eraseMarker (k : Nat) (s : State) : State := noteCopies (copySet k { copyAt s k with marker := [] } s)

/-- The update is written to the target with its commit marker. -/
def writeUpdate (s : State) : State :=
  match newestCopy s with
  | none => s
  | some k =>
    let b := updatedImage s (copyAt s k).bytes
    noteCopies (copySet (targetCopy s) { bytes := b, marker := commitMarker (imgSeq b) } s)

end Sys2Proof.Machine
end

