-- ==== Sys2Proof/Machine/CoreTasks.lean ====
section
/-! DEFINITION. Stages on Tiller cores: UDO, EXPR, COMBINE, as the resident runtime runs them (R63, R194, R195, R197). -/

namespace Sys2Proof.Machine

/-- A word of 8 bytes of a parameter value, or 0 when the parameter is not used. -/
def paramWord (v : Option (List Byte)) (off : Nat) : Word :=
  match v with
  | some b => BitVec.ofNat 64 (fld b off 8)
  | none => 0

/-- g registers at a blob's first instruction (R195). -/
def blobRegs (s : State) (t : Task) (tile : Nat) : Vector Word 32 :=
  let e := taskStage s t
  let g := (((Vector.replicate 32 (0 : Word)).set 31 (BitVec.ofNat 64 (0xFFF00000 + tile))).set 1
    (BitVec.ofNat 64 e.ins)).set 2 (BitVec.ofNat 64 e.outs)
  let g := g.set 3 (BitVec.ofNat 64 t.stage)
  (List.range 8).foldl (fun g k =>
    let v := taskParam s t k
    let g := if h : 4 + 2 * k < 32 then g.set (4 + 2 * k) (paramWord v 0) h else g
    if h : 5 + 2 * k < 32 then g.set (5 + 2 * k) (paramWord v 8) h else g) g

/-- The runtime starts a blob: tile memory cleared, code at its start, registers as R195 gives them, level T by
an SRET (R189, R236). It has taken the core's DISPATCH and EVENT interrupts. -/
def startBlob (c : CoreId) (slot : Nat) (t : Task) (s : State) : State :=
  let img := taskImg s t
  let b := blobEnt img (taskStage s t).blob
  let code := slice img b.off b.len
  let regs := blobRegs s t b.tile
  let s := coreMod c (fun k =>
    { k with
      g := regs, f := Vector.replicate 32 0, lvi := 0, imp := none, impAge := 0, resv := none, saved := none, faulted := none
      pstat := 0, sstat := returnStat k.sstat, pc := BitVec.ofNat 64 (0xFFF00000 + b.entry), tileBytes := b.tile
      task := some slot, intr := k.intr &&& 9#4, tile := memPut [] 0 code, tileBad := [] }) s
  engMod slot (fun e => { e with started := true }) s

/-- The runtime restores a task it saved, and resumes it with an SRET (R189, R194). It has taken the core's DISPATCH and EVENT
interrupts. -/
def resumeBlob (c : CoreId) (x : SavedCtx) (s : State) : State :=
  coreMod c (fun k =>
    { k with
      g := x.g, f := x.f, pstat := wput x.pstat 31 30 0, lvi := x.lvi, pc := x.pc, saved := none
      sstat := returnStat k.sstat, intr := k.intr &&& 9#4 }) s

/-- A blob stage begins or resumes on its core; between, the core's own instructions carry it on. -/
def runBlob (slot : Nat) (t : Task) (s : State) : State :=
  if h : t.unit < 128 then
    let c : CoreId := ⟨t.unit, h⟩
    if !coreActive s c || (core s c).task ≠ some slot then s
    else if !t.eng.started then startBlob c slot t s
    else
      match (core s c).saved with
      | some x => if x.slot = slot && coreLevel s c ≠ .t then resumeBlob c x s else s
      | none => s
  else s

/-- UDO (R195, R197). -/
def execUdoStage (slot : Nat) (s : State) : Host.Outcome State Fault Refusal := .next (runStage slot [0x60] (runBlob slot) s)

/-- EXPR (R63, R195). -/
def execExprStage (slot : Nat) (s : State) : Host.Outcome State Fault Refusal := .next (runStage slot [0x61] (runBlob slot) s)

/-- A row whose bytes the spec leaves open. -/
def freeRows (w : Nat) : Nat → State → List (List Elem) × State
  | 0, s => ([], s)
  | n + 1, s =>
    let (v, s) := takeFree s
    let (rs, s) := freeRows w n s
    ([some (leBytes w v)] :: rs, s)

/-- VARBYTES values whose lengths and bytes the spec leaves open, of at most `left` bytes together. -/
def freeVars (left : Nat) : Nat → State → List (List Elem) × State
  | 0, s => ([], s)
  | n + 1, s =>
    let (k, s) := takeFree s
    let w := k % (left + 1)
    let (v, s) := takeFree s
    let (rs, s) := freeVars (left - w) n s
    ([some (leBytes w v)] :: rs, s)

/-- Bytes of the VARBYTES values at the inputs of a task. -/
def varWaiting (s : State) (t : Task) : Nat :=
  (t.ins.zipIdx.map fun (p, i) => match inEnt s t i with
    | some e => if e.ty = tyVar then (p.buf.map fun x => (x.getD []).length).sum else 0
    | none => 0).sum

/-- COMBINE: every row of every input is taken; when they have ended, the merged rows leave: at most as many as came,
with bytes the spec does not state, and of a VARBYTES output at most as many as came (log entry 22). -/
def runCombine (slot : Nat) (t : Task) (s : State) : State :=
  let came := varWaiting s t
  let (rows, s) := takeRows slot s
  let s := engMod slot (fun e => { e with started := true, a := e.a + rows.length }) s
  match taskAt s slot with
  | none => s
  | some t' =>
    let s := engMod slot (fun e => { e with b := e.b + (came - varWaiting s t') }) s
    if !insDone t' then s
    else
      let (n, s) := takeFree s
      let count := n % (t'.eng.a + 1)
      let (out, s) := match outEnt s t 0 with
        | some e =>
          if e.ty = tyVar then freeVars (t'.eng.b + (came - varWaiting s t')) count s
          else freeRows (max 1 (elemWidth (taskImg s t) e.ty e.layout)) count s
        | none => freeRows 1 count s
      stageEnds slot (emitRows slot out s)

/-- COMBINE (R63). -/
def execCombine (slot : Nat) (s : State) : Host.Outcome State Fault Refusal := .next (runStage slot [0x62] (runCombine slot) s)

end Sys2Proof.Machine
end

