-- ==== Sys2Proof/Machine/Vdp.lean ====
section
/-! DEFINITION. The Valxis dictionary protocol: requests, kept responses, sessions, critical writes (chapter 21; R378 to
R383, R474 to R476). -/

namespace Sys2Proof.Machine

/-! ### Messages (R427) -/

/-- The dictionary answers (R425, R426). -/
def vdpLive (s : State) : Bool := s.mode ≠ .off && s.mode ≠ .fuseLoad

/-- FLAGS.PAIR of a message. -/
def pairFlag (m : List Byte) : Bool := (fld m 0xB 1).testBit 0

/-- Body of a message. -/
def vdpBody (m : List Byte) : List Byte := m.drop 16

/-- Whether a header is one of R427's: length, MAGIC, VERSION and LENGTH. -/
def headerFits (m : List Byte) : Bool :=
  16 ≤ m.length && m.length ≤ 1232 && fld m 0 2 = 0x5056 && fld m 2 1 = 1 && fld m 8 2 ≤ 1216 && fld m 8 2 + 16 = m.length

/-- Status code of an outcome. -/
def outcomeCode (r : Except VdpErr (List Byte)) : Nat :=
  match r with
  | .ok _ => 0
  | .error e => e.code

/-- The response to a request: TYPE + 0x80, the request's TXN and FLAGS. A refused READ returns four zero bytes (R430). -/
def responseTo (m : List Byte) (r : Except VdpErr (List Byte)) : List Byte :=
  let body := match r with
    | .ok b => b
    | .error _ => if fld m 3 1 = 1 then List.replicate 4 0 else []
  vdpMsg (fld m 3 1 + 0x80) (fld m 4 4) (outcomeCode r) (fld m 0xB 1) body

/-- UDP port that the answer to a message leaves from: VDP_PORT, and for a write of it the port before the write (R442). -/
def answerPort (m : List Byte) (ok : Bool) (s : State) : Nat :=
  if ok && fld m 3 1 = 2 && fld (vdpBody m) 0 2 = 0x1100 && fld (vdpBody m) 2 1 = 5 then s.vd.port else od s 0x1100 5

/-- A response leaves. -/
def sendResponse (src : VdpSrc) (port : Nat) (m resp : List Byte) (s : State) : State :=
  emit (.vdp src port (pairFlag m) resp) s

/-- A request is answered: counted, and its response kept for DUP_WINDOW (R428, R442). -/
def answerRequest (src : VdpSrc) (m : List Byte) (r : Except VdpErr (List Byte)) (s : State) : State :=
  let resp := responseTo m r
  let s := if outcomeCode r = 0 then s else odBump 0x1102 2 s
  let k : KeptResp :=
    { src := src, txn := fld m 4 4, request := m, response := resp, ends := s.time + od s 0x1100 7 * perMs }
  sendResponse src (answerPort m (outcomeCode r = 0) s) m resp (odBump 0x1102 1 { s with vd := { s.vd with kept := s.vd.kept ++ [k] } })

/-! ### Checks (R431, R436) -/

/-- Reserved bytes of a header are zero. -/
def headerClean (m : List Byte) : Bool := fld m 0xB 1 ≤ 1 && fld m 0xC 4 = 0

/-- Step 1 of R431 for a request by its type: an unknown TYPE, a short body or a reserved field that is not zero. -/
def malformed (m : List Byte) : Bool :=
  let b := vdpBody m
  !headerClean m ||
  (match fld m 3 1 with
   | 0x01 => b.length < 4 || fld b 3 1 ≠ 0
   | 0x02 => b.length < 28
   | 0x03 => b.length < 40 || 1 < fld b 3 1 || fld b 5 3 ≠ 0 || fld b 0xC 4 ≠ 0
   | 0x04 => b.length < 8 || fld b 2 2 ≠ 0
   | 0x05 => b.length < 4 || fld b 2 2 ≠ 0
   | 0x06 => false
   | _ => true)

/-- Whether a source is a mailbox. -/
def srcMailbox : VdpSrc → Bool
  | .mailbox _ => true
  | .field _ _ => false

/-- Pair-level entries (R436). -/
def pairLevel (idx sub : Nat) : Bool := idx = 0x2C01 && sub = 0

/-- The rules of the pair node for a request (R436), before its entry is looked up. -/
def pairRefusal (s : State) (m : List Byte) : Option VdpErr :=
  if pairFlag m && (pairId s = 0 || role s ≠ 1) then some .notLeader else none

/-- Step 2 of R431: the entry, or why there is none to reach. -/
def reach (s : State) (m : List Byte) (write : Bool) (idx sub : Nat) : Except VdpErr Entry :=
  if 0x6000 ≤ idx && idx ≤ 0x6FFF then .error .locked
  else
    match pairRefusal s m with
    | some e => .error e
    | none =>
      if pairFlag m && idx ≠ 0x1000 && idx ≠ 0x2C01 then .error .noObject
      else if !pairFlag m && write && pairLevel idx sub && pairId s ≠ 0 then .error .notLeader
      else
        match entryAt idx sub with
        | some e => .ok e
        | none => if hasIndex idx then .error .noSubindex else .error .noObject

/-- Step 3: access class. -/
def writable (e : Entry) : Bool := e.acc ≠ .const && e.acc ≠ .ro

/-- Step 4: the value's length fits the type. -/
def lengthFits (e : Entry) (n : Nat) : Bool :=
  match e.ty with
  | .vstring k => n ≤ k
  | t => n = t.width

/-- Step 5: the limits of the current mode (R426). The exchange endpoints' writable entry is OPEN_TIMEOUT (log entry 66). -/
def modeBusy (s : State) (idx sub : Nat) : Bool :=
  match s.mode with
  | .configLoad => !(0x1100 ≤ idx && idx ≤ 0x12FF)
  | .dormant => gatedEntry idx || (idx = 0x2820 && sub = 0x0A)
  | .hold => true
  | _ => false

/-! ### Critical writes (R379 to R383) -/

/-- The right a write to an RWC entry needs (Table 18-3). -/
def rightOf (idx sub : Nat) : Nat :=
  if idx = 0x1210 then 1
  else if 0x4000 ≤ idx && idx ≤ 0x4FFF then (if sub = 0x0E then 4 else 2)
  else if idx = 0x2C01 || idx = 0x2C03 then 3
  else if idx = 0x1230 then 5
  else if 0x1140 ≤ idx && idx ≤ 0x114F then 6
  else 0

/-- A principal's key: the fused owner key, or an installed one. -/
def keyOf (s : State) (p : Nat) : Option (List Byte) :=
  if od s (0x1140 + p) 2 = 0 then none else if p = 0 then some s.bt.fuses.ownerKey else tfind s.bt.keys p

/-- The bytes a tag covers (R379). -/
def tagInput (s : State) (idx sub p ctr : Nat) (payload : List Byte) : List Byte :=
  leBytes 8 (serial s) ++ leBytes 2 idx ++ leBytes 1 sub ++ leBytes 1 p ++ leBytes 4 payload.length ++ leBytes 8 ctr ++ payload

/-- A failed check of R380: counted for the principal it names, and logged as KIND 4. -/
def authRefused (p : Nat) (s : State) : State :=
  let s := rasEvent 4 0 0 0x0106 0 s
  if p ≤ 15 then odBump (0x1140 + p) 6 s else s

/-- The checks of R380 in order, up to securing: whether the write passes, and what checking it leaves. -/
def authCheck (idx sub p ctr : Nat) (tag payload : List Byte) (s : State) : Bool × State :=
  if 15 < p then (false, authRefused p s)
  else
    match keyOf s p with
    | none => (false, authRefused p s)
    | some k =>
      let input := tagInput s idx sub p ctr payload
      let s := countDigest 0 (hmacBlocks 1 k.length input.length) s
      if (hmac 1 k input).take 16 ≠ tag then (false, authRefused p (odBump 0x3D00 4 s))
      else if ctr ≤ od s (0x1140 + p) 4 then (false, authRefused p s)
      else if !(od s (0x1140 + p) 3).testBit (rightOf idx sub) then (false, authRefused p s)
      else (true, s)

/-- A checked critical write waits for its counter to be secured (R381). While PAIRED the FLOOR record carries PAIR_POLICY
if the write sets it (R437). -/
def secure (h : Held) (s : State) : State :=
  let hold := fun (st : VdpStage) (s : State) =>
    let h' := { h with stage := st }
    { s with vd := { s.vd with held := some h' } }
  if pairState s = 3 then
    let v := leNat h.value
    let policy := if pairLevel h.idx h.sub && v ≤ 1 then some v else none
    let num := s.tw.nextRec
    hold (.mirrorAck num) (mirror (.floorCounter h.principal h.counter policy) s)
  else hold .counterLog s

/-- The request in hand is done with: nothing waits. -/
def dropHeld (s : State) : State := { s with vd := { s.vd with held := none } }

/-- The key-encryption key (R383). -/
def kek (s : State) : List Byte := hmac 1 s.bt.fuses.ownerKey (asciiBytes "PLZ-KEK")

/-- KEY and RIGHTS writes that pass their rules start the device-made update with buffer 17 claimed (R383, R476). -/
def startUpdate (h : Held) (s : State) : State :=
  let start := fun (value : List Byte) =>
    let h' := { h with stage := .imageUpdate, value := value }
    let s := takeResource 17 0x41 0xFFFF (eraseMarker (targetCopy s) s)
    { s with vd := { s.vd with held := some h' } }
  if od s 0x1291 1 ≠ 0 || (newestCopy s).isNone then dropHeld (answerRequest h.src h.msg (.error .busy) s)
  else if h.sub = 3 then start h.value
  else
    match keyUnwrap (kek s) h.value with
    | some k => start k
    | none => dropHeld (answerRequest h.src h.msg (.error .range) s)

/-- An image download that is complete and authorised (R475): checked, then committed. After BOOT_FAIL or DRAM_FAIL a copy
is chosen again at once. -/
def finishImage (payload : List Byte) (s : State) : Bool × State :=
  let k := targetCopy s
  let newer := ([s.bt.copyA, s.bt.copyB].all fun c => copyStatus s c ≠ 0 || imgSeq c.bytes < imgSeq payload)
  let good := imageStatus s payload = 0 && imgLen payload = payload.length && newer
  let marker := if good then commitMarker (imgSeq payload) else []
  let s := noteCopies (releaseResource 17 (copySet k { bytes := payload, marker := marker } (countImage payload s)))
  let failed := od s 0x1200 1 = 2 || od s 0x1200 1 = 3
  (good, if good && failed then chooseCopy (odSet 0x2000 5 0 s) else s)

/-- A secured critical write is applied (R380): the floor rises, and the entry's own rules judge the write. In HOLD every write
is refused (R426). -/
def finishCritical (h : Held) (s : State) : State :=
  let s := odSet (0x1140 + h.principal) 4 (max (od s (0x1140 + h.principal) 4) h.counter) s
  if s.mode = .hold then dropHeld (answerRequest h.src h.msg (.error .busy) s)
  else if h.idx = 0x1210 then
    let (good, s) := finishImage h.value s
    dropHeld (answerRequest h.src h.msg (if good then .ok [] else .error .range) s)
  else
    match entryAt h.idx h.sub with
    | none => dropHeld (answerRequest h.src h.msg (.error .noObject) s)
    | some e =>
      match applyWrite e h.idx h.sub h.value s with
      | .error x => dropHeld (answerRequest h.src h.msg (.error x) s)
      | .ok s =>
        if 0x1140 ≤ h.idx && h.idx ≤ 0x114F then startUpdate h s
        else
          let s := dropHeld (answerRequest h.src h.msg (.ok []) s)
          if h.idx = 0x1201 then deviceReset 4 s else s

/-! ### Sessions (R432, R433) -/

/-- Length of a DOMAIN object, if it is readable now. -/
def objectBytes (s : State) (idx sub : Nat) : Option (List Byte) :=
  if 0x4000 ≤ idx && idx ≤ 0x4FFF && sub = 0x30 then
    (if instSt s (idx - 0x4000) = 4 then some (inst s (idx - 0x4000)).imageOut else none)
  else if idx = 0x1210 then
    (if od s 0x1200 2 = 0xFF then none
     else
       let b := (copyAt s (od s 0x1200 2)).bytes
       some (slice b 0 (imgLen b)))
  else some s.ras.flatten

/-- A session ends; one that downloads an image gives buffer 17 back, its target left with what has been programmed. -/
def endSession (k : Nat) (s : State) : State :=
  match tfind s.vd.sessions k with
  | none => s
  | some x =>
    let s := { s with vd := { s.vd with sessions := tdel s.vd.sessions k } }
    if x.download && x.idx = 0x1210 then
      let t := targetCopy s
      noteCopies (releaseResource 17 (copySet t { bytes := bodyOnly (copyAt s t).bytes x.bytes, marker := [] } s))
    else s

/-- A session is aborted (R433). -/
def abortSession (k : Nat) (s : State) : State := odBump 0x1102 5 (endSession k s)

/-- Whether an entry has an open download. -/
def downloading (s : State) (idx sub : Nat) : Bool :=
  s.vd.sessions.any fun e => e.2.download && e.2.idx = idx && e.2.sub = sub

/-- A session number that is free, from the next one on. -/
def freeSession (s : State) : Nat :=
  let used := s.vd.sessions.map (·.1)
  ((List.range 17).map fun i => (s.vd.nextSession + i) % 65536).find? (fun n => !used.contains n) |>.getD 0

/-- A session is opened; an image download claims buffer 17 and erases its target's commit marker (R474, R475). -/
def openSession (x : Session) (s : State) : Except VdpErr (List Byte) × State :=
  let n := freeSession s
  let s := { s with vd := { s.vd with sessions := tset s.vd.sessions n x, nextSession := (n + 1) % 65536 } }
  let s := if x.download && x.idx = 0x1210 then
      takeResource 17 0x41 0xFFFF (eraseMarker (targetCopy s) s)
    else s
  (.ok (leBytes 2 n ++ leBytes 2 0 ++ leBytes 4 x.total ++ leBytes 2 1024), s)

/-- SEG_INIT (R432, R475). -/
def segInit (src : VdpSrc) (m : List Byte) (s : State) : Except VdpErr (List Byte) × State :=
  let b := vdpBody m
  let idx := fld b 0 2
  let sub := fld b 2 1
  let down := fld b 3 1 = 1
  let total := fld b 8 4
  match reach s m down idx sub with
  | .error x => (.error x, s)
  | .ok e =>
    if down && !writable e then (.error .readOnly, s)
    else if e.ty ≠ .domain then (.error .typeLength, s)
    else if down && modeBusy s idx sub then (.error .busy, s)
    else if 16 ≤ s.vd.sessions.length then (.error .busy, s)
    else if down then
      if downloading s idx sub then (.error .busy, s)
      else if total = 0 then (.error .range, s)
      else if idx = 0x1210 && od s 0x1291 1 ≠ 0 then (.error .claimed, s)
      else openSession
        { src := src, idx := idx, sub := sub, download := true, principal := fld b 4 1, counter := fld b 0x10 8
          tag := slice b 0x18 16, total := total, timeout := od s 0x1100 8, last := s.time } s
    else
      match objectBytes s idx sub with
      | none => (.error .busy, s)
      | some o => openSession
          { src := src, idx := idx, sub := sub, download := false, total := o.length, timeout := od s 0x1100 8, last := s.time } s

/-- An upload's segment (R433): a session whose object is no longer readable is aborted. -/
def uploadSegment (k : Nat) (x : Session) (off : Nat) (s : State) : Except VdpErr (List Byte) × State :=
  if x.total ≤ off then (.error .segment, s)
  else
    match objectBytes s x.idx x.sub with
    | none => (.error .busy, abortSession k s)
    | some o =>
      let n := min 1024 (x.total - off)
      let body := leBytes 2 k ++ leBytes 2 0 ++ leBytes 4 off ++ slice o off n
      if off + n = x.total then
        let s := if 0x4000 ≤ x.idx then instMod (x.idx - 0x4000) (fun i => { i with imageRead := true }) s else s
        (.ok body, endSession k s)
      else (.ok body, s)

/-- The segment that completes a download: an INSTANCE_IMAGE is kept for RESTORE (R328); an IMAGE goes through R380. The
answer is none while it waits. -/
def completeDownload (src : VdpSrc) (m : List Byte) (k : Nat) (x : Session) (s : State) :
    Option (Except VdpErr (List Byte)) × State :=
  if x.idx ≠ 0x1210 then
    let s := { s with vd := { s.vd with sessions := tdel s.vd.sessions k } }
    (some (.ok []), instMod (x.idx - 0x4000) (fun i => { i with imageIn := x.bytes }) s)
  else
    match authCheck x.idx x.sub x.principal x.counter x.tag x.bytes s with
    | (false, s) => (some (.error .authFail), endSession k s)
    | (true, s) =>
      let s := { s with vd := { s.vd with sessions := tdel s.vd.sessions k } }
      (none, secure
        { src := src, msg := m, stage := .counterLog, idx := x.idx, sub := x.sub, value := x.bytes, principal := x.principal
          counter := x.counter } s)

/-- SEG_DATA (R433, R439). Segment bytes on an upload are of the wrong direction (Table 21-3). -/
def segData (src : VdpSrc) (m : List Byte) (s : State) : Option (Except VdpErr (List Byte)) × State :=
  let b := vdpBody m
  let k := fld b 0 2
  let off := fld b 4 4
  match pairRefusal s m, tfind s.vd.sessions k with
  | some e, _ => (some (.error e), s)
  | none, none => (some (.error .segment), s)
  | none, some x =>
    if srcMailbox x.src ≠ srcMailbox src then (some (.error .segment), s)
    else
      let now := s.time
      let x := { x with last := now }
      let s := { s with vd := { s.vd with sessions := tset s.vd.sessions k x } }
      if !x.download then
        if 8 < b.length then (some (.error .segment), s)
        else
          let (r, s) := uploadSegment k x off s
          (some r, s)
      else
        let seg := b.drop 8
        if off ≠ x.bytes.length || seg.length = 0 || 1024 < seg.length || x.total < off + seg.length then
          (some (.error .segment), abortSession k s)
        else
          let x := { x with bytes := x.bytes ++ seg }
          let s := { s with vd := { s.vd with sessions := tset s.vd.sessions k x } }
          if x.bytes.length < x.total then (some (.ok []), s) else completeDownload src m k x s

/-- SEG_ABORT (R433). -/
def segAbort (src : VdpSrc) (m : List Byte) (s : State) : Except VdpErr (List Byte) × State :=
  let k := fld (vdpBody m) 0 2
  match pairRefusal s m, tfind s.vd.sessions k with
  | some e, _ => (.error e, s)
  | none, none => (.error .segment, s)
  | none, some x => if srcMailbox x.src ≠ srcMailbox src then (.error .segment, s) else (.ok [], abortSession k s)

/-! ### Requests (R429 to R435) -/

/-- READ (R430); a read of pin levels takes free values. -/
def readRequest (m : List Byte) (s : State) : Except VdpErr (List Byte) × State :=
  let b := vdpBody m
  let idx := fld b 0 2
  let sub := fld b 2 1
  match reach s m false idx sub with
  | .error x => (.error x, s)
  | .ok e =>
    if e.ty = .domain then (.error .useSegments, s)
    else
      let v := readEntry s e idx sub
      let s := if idx = 0x12A0 then { s with freeCtr := s.freeCtr + 8 } else s
      (.ok (leBytes 1 e.ty.code ++ leBytes 3 0 ++ v), s)

/-- WRITE (R431): the answer is none while the write waits for its counter to be secured. -/
def writeRequest (src : VdpSrc) (m : List Byte) (s : State) : Option (Except VdpErr (List Byte)) × State :=
  let b := vdpBody m
  let idx := fld b 0 2
  let sub := fld b 2 1
  let value := b.drop 28
  match reach s m true idx sub with
  | .error x => (some (.error x), s)
  | .ok e =>
    if !writable e then (some (.error .readOnly), s)
    else if e.ty = .domain && downloading s idx sub then (some (.error .busy), s)
    else if e.ty = .domain then (some (.error .useSegments), s)
    else if !lengthFits e value.length then (some (.error .typeLength), s)
    else if modeBusy s idx sub then (some (.error .busy), s)
    else if e.acc = .rwc then
      let p := fld b 3 1
      let ctr := fld b 4 8
      match authCheck idx sub p ctr (slice b 12 16) value s with
      | (false, s) => (some (.error .authFail), s)
      | (true, s) => (none, secure
          { src := src, msg := m, stage := .counterLog, idx := idx, sub := sub, value := value, principal := p
            counter := ctr } s)
    else
      match applyWrite e idx sub value s with
      | .ok s => (some (.ok []), s)
      | .error x => (some (.error x), s)

/-- Body of a DISCOVER response (R435). -/
def discoverBody (s : State) : List Byte :=
  leBytes 8 (serial s) ++ leBytes 8 (pairId s) ++ leBytes 1 (od s 0x1100 1) ++ leBytes 1 s.mode.code ++
  leBytes 1 (pairState s) ++ leBytes 1 (role s) ++ leBytes 4 0

/-- A request carried out: its answer, or none while it waits. -/
def carryOut (src : VdpSrc) (m : List Byte) (s : State) : Option (Except VdpErr (List Byte)) × State :=
  let now : Except VdpErr (List Byte) × State → Option (Except VdpErr (List Byte)) × State := fun r => (some r.1, r.2)
  if malformed m then (some (.error .malformed), s)
  else
    match fld m 3 1 with
    | 0x01 => now (readRequest m s)
    | 0x02 => writeRequest src m s
    | 0x03 => now (segInit src m s)
    | 0x04 => segData src m s
    | 0x05 => now (segAbort src m s)
    | _ =>
      match pairRefusal s m with
      | some e => (some (.error e), s)
      | none => (some (.ok (discoverBody s)), s)

/-- The leader also answers a DISCOVER of the field network from the pair node (R435). -/
def discoverPair (src : VdpSrc) (m : List Byte) (s : State) : State :=
  if fld m 3 1 = 6 && !malformed m && !srcMailbox src && !pairFlag m && pairId s ≠ 0 && role s = 1 then
    emit (.vdp src (od s 0x1100 5) true (vdpMsg 0x86 (fld m 4 4) 0 1 (discoverBody s))) s
  else s

/-- A request's turn comes (R428, R429): a kept response is sent again, a full cache answers BUSY, or it is carried out. -/
def serveRequest (src : VdpSrc) (m : List Byte) (s : State) : State :=
  let now := s.time
  let s := { s with vd := { s.vd with kept := s.vd.kept.filter fun k => now < k.ends } }
  let port := od s 0x1100 5
  match s.vd.kept.find? fun k => k.src = src && k.txn = fld m 4 4 with
  | some k =>
    if k.request = m then sendResponse src port m k.response (odBump 0x1102 3 s)
    else sendResponse src port m (responseTo m (.error .txnReuse)) (odBump 0x1102 2 s)
  | none =>
    if 1024 ≤ s.vd.kept.length then sendResponse src port m (responseTo m (.error .busy)) (odBump 0x1102 2 s)
    else
      match carryOut src m s with
      | (some r, s) => discoverPair src m (answerRequest src m r s)
      | (none, s) => s

/-- Requests that waited have their turn, in order, until one waits again (R429). -/
def serveWaiting : Nat → State → State
  | 0, s => s
  | fuel + 1, s =>
    match s.vd.held, s.vd.queue with
    | none, (src, m) :: rest => serveWaiting fuel (serveRequest src m { s with vd := { s.vd with queue := rest } })
    | _, _ => s

/-- Waiting requests are served after the one in hand is done. -/
def nextRequests (s : State) : State := serveWaiting s.vd.queue.length s

/-- A standby is not at the pair node's address: a field request to it is not received (R436). -/
def notReceived (s : State) (src : VdpSrc) (m : List Byte) : Bool :=
  !srcMailbox src && pairFlag m && pairId s ≠ 0 && role s ≠ 1

/-- A message arrives (R427, R436, R439). -/
def vdpArrive (src : VdpSrc) (m : List Byte) (s : State) : State :=
  if !vdpLive s then s
  else if !headerFits m then
    (if srcMailbox src then
      emit (.vdp src (od s 0x1100 5) false (vdpMsg (fld m 3 1 + 0x80) 0 VdpErr.malformed.code 0 [])) (odBump 0x1102 2 s)
     else odBump 0x1102 4 s)
  else if notReceived s src m then s
  else if s.vd.held.isSome || s.vd.queue ≠ [] then { s with vd := { s.vd with queue := s.vd.queue ++ [(src, m)] } }
  else serveRequest src m s

/-! ### Securing (R381) and the device-made update (R476) -/

/-- The mirror has acknowledged up to a record: a write whose counter it secures goes on, to the counter log if it must. -/
def mirrorSecured (acked : Nat) (s : State) : State :=
  match s.vd.held with
  | none => s
  | some h =>
    match h.stage with
    | .mirrorAck num =>
      if acked < num || s.tw.lost.contains num then s
      else if od s (0x1140 + h.principal) 5 + 4096 ≤ h.counter then
        let h' := { h with stage := .counterLog }
        { s with vd := { s.vd with held := some h' } }
      else nextRequests (finishCritical h s)
    | _ => s

/-- COUNTER_LOG_WRITE (R381). -/
def execCounterLogWrite (s : State) : Host.Outcome State Fault Refusal :=
  .next (match s.vd.held with
    | none => s
    | some h =>
      match h.stage with
      | .counterLog => nextRequests (finishCritical h (odSet (0x1140 + h.principal) 5 h.counter s))
      | _ => s)

/-- IMAGE_UPDATE_DONE (R383, R476): the new key or rights take effect with the commit marker. In HOLD every write is refused
(R426, R453): no marker is written, and buffer 17 is given back. -/
def execImageUpdateDone (s : State) : Host.Outcome State Fault Refusal :=
  .next (match s.vd.held with
    | none => s
    | some h =>
      match h.stage with
      | .imageUpdate =>
        if s.mode = .hold then
          nextRequests (dropHeld (answerRequest h.src h.msg (.error .busy) (releaseResource 17 s)))
        else
        let p := h.idx - 0x1140
        let s := if h.sub = 3 then odSet h.idx 3 (leNat h.value) s else setKey p h.value s
        nextRequests (dropHeld (answerRequest h.src h.msg (.ok []) (releaseResource 17 (writeUpdate s))))
      | _ => s)

end Sys2Proof.Machine
end

