-- ==== Sys2Proof/Machine/VdpRows.lean ====
section
/-! DEFINITION. The rows of the dictionary protocol: messages, and the writes that have a row of their own (chapter 21). -/

namespace Sys2Proof.Machine

/-! ### Messages by type (Table 21-2) -/

/-- A message of one TYPE arrives. -/
def typedArrival (ty : Nat) (src : VdpSrc) (msg : List Byte) (s : State) : State :=
  vdpArrive src (splice msg 3 (leBytes 1 ty)) s

/-- READ (R430). -/
def execVdpRead (src : VdpSrc) (msg : List Byte) (s : State) : Host.Outcome State Fault Refusal :=
  .next (typedArrival 1 src msg s)

/-- WRITE (R431). -/
def execVdpWrite (src : VdpSrc) (msg : List Byte) (s : State) : Host.Outcome State Fault Refusal :=
  .next (typedArrival 2 src msg s)

/-- SEG_INIT (R432). -/
def execSegInit (src : VdpSrc) (msg : List Byte) (s : State) : Host.Outcome State Fault Refusal :=
  .next (typedArrival 3 src msg s)

/-- SEG_DATA (R433). -/
def execSegData (src : VdpSrc) (msg : List Byte) (s : State) : Host.Outcome State Fault Refusal :=
  .next (typedArrival 4 src msg s)

/-- SEG_ABORT (R433). -/
def execSegAbort (src : VdpSrc) (msg : List Byte) (s : State) : Host.Outcome State Fault Refusal :=
  .next (typedArrival 5 src msg s)

/-- DISCOVER (R435). -/
def execDiscover (src : VdpSrc) (msg : List Byte) (s : State) : Host.Outcome State Fault Refusal :=
  .next (typedArrival 6 src msg s)

/-- SEG_TIMEOUT (R433): a session that has had no request for its time is aborted. -/
def execSegTimeout (session : Nat) (s : State) : Host.Outcome State Fault Refusal :=
  .next (if (tfind s.vd.sessions session).isSome then abortSession session s else s)

/-! ### Cyclic frames (R434, Table 21-5) -/

/-- A 32-bit number read as two's complement. -/
def signed32 (v : Nat) : Int := (BitVec.ofNat 32 v).toInt

/-- Highest Tj of the 32 sensors, in 0.1 °C. -/
def hottest (s : State) : Int :=
  ((List.range 32).map fun i => signed32 (od s (0x1320 + i / 2) (3 + i % 2))).foldl max (signed32 (od s 0x1320 3))

/-- A mapped value: extended to 8 bytes, with the sign for I32. -/
def mappedValue (s : State) (m : Nat) : List Byte :=
  let idx := m / 256
  let sub := m % 256
  match entryAt idx sub with
  | none => List.replicate 8 0
  | some e =>
    let v := leNat (readEntry s e idx sub)
    match e.ty with
    | .i32 => leBytes 8 ((BitVec.ofNat 32 v).signExtend 64).toNat
    | _ => leBytes 8 v

/-- Mapped values in map order. -/
def mappedValues (s : State) : List Byte :=
  (((List.range 8).map fun i => od s 0x1101 (1 + i)).filter (· ≠ 0)).flatMap (mappedValue s)

/-- The body of a device frame. -/
def deviceBody (s : State) : List Byte :=
  leBytes 8 (serial s) ++ leBytes 4 s.vd.cycSeq ++ leBytes 1 s.mode.code ++ leBytes 1 (pairState s) ++ leBytes 1 (role s) ++
  leBytes 1 0 ++ leBytes 4 (health s) ++ leBytes 2 (BitVec.ofInt 16 (hottest s)).toNat ++ leBytes 2 (od s 0x1310 2) ++
  leBytes 2 (vddCore s) ++ leBytes 2 s.js.jobs.length ++ leBytes 4 0 ++ mappedValues s

/-- The body of a pair frame from the byte after CYC_SEQ on; during the switch-over window it repeats that of the last frame
before the declaration. -/
def pairTailNow (s : State) : List Byte :=
  match s.tw.held with
  | some (_, t) => t
  | none => pairFrameTail s

/-- The body of a pair frame. -/
def pairBody (s : State) : List Byte := leBytes 8 (serial s) ++ leBytes 4 s.vd.pairSeq ++ pairTailNow s

/-- The device frame of a period, kept for VDP_CYCLIC. -/
def sendDevice (s : State) : State :=
  let m := vdpMsg 0x10 0 0 0 (deviceBody s)
  odBump 0x1102 6 (emit (.cyclic false (od s 0x1100 5) m) { s with vd := { s.vd with cycSeq := (s.vd.cycSeq + 1) % 2 ^ 32, deviceFrame := m } })

/-- The leader's pair frame of a period. -/
def sendPair (s : State) : State :=
  if role s = 1 && pairId s ≠ 0 then
    odBump 0x1102 6
      (emit (.cyclic true (od s 0x1100 5) (vdpMsg 0x10 0 0 1 (pairBody s)))
        { s with vd := { s.vd with pairSeq := (s.vd.pairSeq + 1) % 2 ^ 32, pairTail := pairTailNow s } })
  else s

/-- CYCLIC (R434): a CYCLIC_PERIOD of 0 sends no frames. -/
def execCyclic (s : State) : Host.Outcome State Fault Refusal :=
  .next (if !vdpLive s || od s 0x1100 6 = 0 then s else sendPair (sendDevice s))

/-! ### Writes with a row of their own (R431) -/

/-- The WRITE request of a value to an entry: its number in the bytes of its type. -/
def writeMsg (idx sub : Nat) (value : List Byte) (pair : Bool) (w : VdpWrite) : List Byte :=
  vdpMsg 2 w.txn 0 (if pair then 1 else 0)
    (leBytes 2 idx ++ leBytes 1 sub ++ leBytes 1 w.principal ++ leBytes 8 w.counter ++ slice w.tag 0 16 ++ value)

/-- A WRITE of given bytes arrives. -/
def writeBytes (idx sub : Nat) (value : List Byte) (w : VdpWrite) (s : State) : State :=
  vdpArrive w.src (writeMsg idx sub value false w) s

/-- A WRITE of a number arrives, in the width of the entry's type. -/
def writeNum (idx sub v : Nat) (w : VdpWrite) (s : State) : State :=
  match entryAt idx sub with
  | some e => writeBytes idx sub (leBytes e.ty.width v) w s
  | none => writeBytes idx sub [] w s

/-- A WRITE of a number to an instance's entry arrives. -/
def writeAttr (inst : Inst) (sub v : Nat) (w : VdpWrite) (s : State) : State := writeNum (instIdx inst.val) sub v w s

/-- L2_ENABLE (R224). -/
def execL2Enable (cluster : Fin 16) (w : VdpWrite) (s : State) : Host.Outcome State Fault Refusal :=
  .next (writeNum (0x3480 + cluster.val) 1 1 w s)

/-- L2_DISABLE (R224). -/
def execL2Disable (cluster : Fin 16) (w : VdpWrite) (s : State) : Host.Outcome State Fault Refusal :=
  .next (writeNum (0x3480 + cluster.val) 1 0 w s)

/-- PREFETCH_ENABLE (R234). -/
def execPrefetchEnable (cluster : Fin 16) (value : Bool) (w : VdpWrite) (s : State) : Host.Outcome State Fault Refusal :=
  .next (writeNum (0x3480 + cluster.val) 3 value.toNat w s)

/-- INVALIDATE (R262). -/
def execInvalidate (value : List Byte) (w : VdpWrite) (s : State) : Host.Outcome State Fault Refusal :=
  .next (writeBytes 0x2301 1 value w s)

/-- ROOT (R273). -/
def execRootWrite (inst : Inst) (value : Nat) (w : VdpWrite) (s : State) : Host.Outcome State Fault Refusal :=
  .next (writeAttr inst 0x20 value w s)

/-- FQ_BASE (R267). -/
def execFqBase (inst : Inst) (value : Nat) (w : VdpWrite) (s : State) : Host.Outcome State Fault Refusal :=
  .next (writeAttr inst 0x21 value w s)

/-- FQ_ENTRIES (R267). -/
def execFqEntries (inst : Inst) (value : Nat) (w : VdpWrite) (s : State) : Host.Outcome State Fault Refusal :=
  .next (writeAttr inst 0x22 value w s)

/-- FQ_LOCATION (R267). -/
def execFqLocation (inst : Inst) (value : Nat) (w : VdpWrite) (s : State) : Host.Outcome State Fault Refusal :=
  .next (writeAttr inst 0x23 value w s)

/-- HOST_WINDOW_BASE and HOST_WINDOW_LENGTH (R296). -/
def execHostWindow (link : Link) (length : Bool) (value : Nat) (w : VdpWrite) (s : State) : Host.Outcome State Fault Refusal :=
  .next (writeNum (0x2410 + link.val) (if length then 4 else 3) value w s)

/-- CREATE (R316). -/
def execCreate (inst : Inst) (w : VdpWrite) (s : State) : Host.Outcome State Fault Refusal :=
  .next (writeAttr inst 1 1 w s)

/-- DESTROY (R317). -/
def execDestroy (inst : Inst) (w : VdpWrite) (s : State) : Host.Outcome State Fault Refusal :=
  .next (writeAttr inst 1 2 w s)

/-- RESTORE (R328). -/
def execRestore (inst : Inst) (w : VdpWrite) (s : State) : Host.Outcome State Fault Refusal :=
  .next (writeAttr inst 1 3 w s)

/-- RESET (R320). -/
def execResetWrite (inst : Inst) (w : VdpWrite) (s : State) : Host.Outcome State Fault Refusal :=
  .next (writeAttr inst 2 1 w s)

/-- FREEZE (R325). -/
def execFreeze (inst : Inst) (w : VdpWrite) (s : State) : Host.Outcome State Fault Refusal :=
  .next (writeAttr inst 2 2 w s)

/-- RESUME (R326). -/
def execResume (inst : Inst) (w : VdpWrite) (s : State) : Host.Outcome State Fault Refusal :=
  .next (writeAttr inst 2 3 w s)

/-- RR_HEAD (R324). -/
def execRrHead (inst : Inst) (value : Nat) (w : VdpWrite) (s : State) : Host.Outcome State Fault Refusal :=
  .next (writeAttr inst 0x1D value w s)

/-- SPILL_POOL (R318). -/
def execSpillPool (inst : Inst) (value : Nat) (w : VdpWrite) (s : State) : Host.Outcome State Fault Refusal :=
  .next (writeAttr inst 0x0A value w s)

/-- SPILL_BASE (R318). -/
def execSpillBase (inst : Inst) (value : Nat) (w : VdpWrite) (s : State) : Host.Outcome State Fault Refusal :=
  .next (writeAttr inst 0x09 value w s)

/-- RR_BASE (R324). -/
def execRrBase (inst : Inst) (value : Nat) (w : VdpWrite) (s : State) : Host.Outcome State Fault Refusal :=
  .next (writeAttr inst 0x1A value w s)

/-- RR_ENTRIES (R324). -/
def execRrEntries (inst : Inst) (value : Nat) (w : VdpWrite) (s : State) : Host.Outcome State Fault Refusal :=
  .next (writeAttr inst 0x1B value w s)

/-- LINK (R295). -/
def execLinkWrite (inst : Inst) (value : Nat) (w : VdpWrite) (s : State) : Host.Outcome State Fault Refusal :=
  .next (writeAttr inst 0x28 value w s)

/-- LOG_ENABLE (R329). -/
def execLogEnable (inst : Inst) (bitmap : Fin 2) (w : VdpWrite) (s : State) : Host.Outcome State Fault Refusal :=
  .next (writeAttr inst 0x3C (1 + bitmap.val) w s)

/-- LOG_SWITCH (R330). -/
def execLogSwitch (inst : Inst) (bitmap : Fin 2) (w : VdpWrite) (s : State) : Host.Outcome State Fault Refusal :=
  .next (writeAttr inst 0x3C (1 + bitmap.val) w s)

/-- LOG_STOP (R330). -/
def execLogStop (inst : Inst) (w : VdpWrite) (s : State) : Host.Outcome State Fault Refusal :=
  .next (writeAttr inst 0x3C 0 w s)

/-- MOVE_BACK (R154). -/
def execMoveBack (plane : Fin 2) (value : Nat) (w : VdpWrite) (s : State) : Host.Outcome State Fault Refusal :=
  .next (writeNum (0x2810 + plane.val) 6 value w s)

/-- ORPHAN_NOW (R417). -/
def execOrphanNow (w : VdpWrite) (s : State) : Host.Outcome State Fault Refusal :=
  .next (writeNum 0x2C03 3 1 w s)

/-- ORPHAN_CQ_HEAD (R418). -/
def execOrphanCqHead (value : List Byte) (w : VdpWrite) (s : State) : Host.Outcome State Fault Refusal :=
  .next (writeBytes 0x2C04 1 value w s)

/-- PAIR_POLICY (R436, R437): addressed to the pair node, on a device that has one. -/
def execPairPolicy (value : Nat) (w : VdpWrite) (s : State) : Host.Outcome State Fault Refusal :=
  .next (vdpArrive w.src (writeMsg 0x2C01 0 (leBytes 1 value) (pairId s ≠ 0) w) s)

/-- RESOURCE_CLAIM (R440). -/
def execResourceClaim (resource : Fin 18) (value : List Byte) (w : VdpWrite) (s : State) : Host.Outcome State Fault Refusal :=
  .next (writeBytes (0x1280 + resource.val) 3 value w s)

/-- TIMER_START (R441). -/
def execTimerStart (timer : Fin 6) (w : VdpWrite) (s : State) : Host.Outcome State Fault Refusal :=
  .next (writeNum (0x1288 + timer.val) 6 1 w s)

/-- TIMER_STOP (R441). -/
def execTimerStop (timer : Fin 6) (w : VdpWrite) (s : State) : Host.Outcome State Fault Refusal :=
  .next (writeNum (0x1288 + timer.val) 6 0 w s)

/-- VPP_FUSE as the write finds it (R466). -/
def setVpp (vpp : Bool) (s : State) : State := { s with bt := { s.bt with vpp := vpp } }

/-- OWNER_KEY (R383). -/
def execOwnerKey (value : List Byte) (vpp : Bool) (w : VdpWrite) (s : State) : Host.Outcome State Fault Refusal :=
  .next (writeBytes 0x1130 1 value w (setVpp vpp s))

/-- KEY (R383). -/
def execKeyWrite (principal : Fin 16) (value : List Byte) (w : VdpWrite) (s : State) : Host.Outcome State Fault Refusal :=
  .next (writeBytes (0x1140 + principal.val) 1 value w s)

/-- RIGHTS (R382). -/
def execRightsWrite (principal : Fin 16) (value : Nat) (w : VdpWrite) (s : State) : Host.Outcome State Fault Refusal :=
  .next (writeNum (0x1140 + principal.val) 3 value w s)

/-- BOOT_KEY_DIGEST (R466). -/
def execBootKeyDigest (value : List Byte) (vpp : Bool) (w : VdpWrite) (s : State) : Host.Outcome State Fault Refusal :=
  .next (writeBytes 0x1230 1 value w (setVpp vpp s))

/-- TARGET_RUN (R444). -/
def execTargetRun (w : VdpWrite) (s : State) : Host.Outcome State Fault Refusal :=
  .next (writeNum 0x1300 1 3 w s)

/-- TARGET_DRAIN (R444). -/
def execTargetDrain (w : VdpWrite) (s : State) : Host.Outcome State Fault Refusal :=
  .next (writeNum 0x1300 1 4 w s)

/-- TARGET_DORMANT (R444). -/
def execTargetDormant (w : VdpWrite) (s : State) : Host.Outcome State Fault Refusal :=
  .next (writeNum 0x1300 1 5 w s)

/-- TARGET_FREEZE (R450). -/
def execTargetFreeze (w : VdpWrite) (s : State) : Host.Outcome State Fault Refusal :=
  .next (writeNum 0x1300 1 6 w s)

/-- ZONE_POWER_OFF (R460). -/
def execZonePowerOff (zone : Fin 16) (w : VdpWrite) (s : State) : Host.Outcome State Fault Refusal :=
  .next (writeNum (0x1320 + zone.val) 1 0 w s)

/-- ZONE_POWER_ON (R459). -/
def execZonePowerOn (zone : Fin 16) (w : VdpWrite) (s : State) : Host.Outcome State Fault Refusal :=
  .next (writeNum (0x1320 + zone.val) 1 1 w s)

/-- DEVICE_RESET (R463). -/
def execDeviceReset (value : Nat) (w : VdpWrite) (s : State) : Host.Outcome State Fault Refusal :=
  .next (writeNum 0x1201 1 value w s)

/-- LOG_CLEAR (R484). -/
def execLogClear (value : Nat) (w : VdpWrite) (s : State) : Host.Outcome State Fault Refusal :=
  .next (writeNum 0x5001 2 value w s)

end Sys2Proof.Machine
end

