-- ==== Sys2Proof/Machine/Cxl.lean ====
section
/-! DEFINITION. CXL.mem, HDM decoders, link and function resets, and the primary mailbox of PF0 (R294 to R298, R311,
R312). -/

namespace Sys2Proof.Machine

/-! ### HDM decoders (R295, R296, Table 14-1) -/

/-- Whether a port is split into two links. -/
def portSplit (s : State) (link : Nat) : Bool := (od s 0x2400 1).testBit (link / 2)

/-- Decoders of a link: 8, or 4 where its port is split. -/
def decoderCount (s : State) (link : Nat) : Nat := if portSplit s link then 4 else 8

/-- Bytes of device memory a decoder maps. -/
def hdmSpan (d : HdmDec) : Nat := d.size / max 1 d.ways

/-- Interleaving that Table 14-1 supports. -/
def interleaveFits (d : HdmDec) : Bool :=
  [1, 2, 4, 8].contains d.ways && [256, 512, 1024, 2048, 4096, 8192, 16384].contains d.gran && d.place < d.ways

/-- Whether a decoder's device range lies in its link's window and clear of the table pool. -/
def hdmAllowed (s : State) (link : Nat) (d : HdmDec) : Bool :=
  let base := od s (0x2410 + link) 3
  base ≤ d.dpa && d.dpa + hdmSpan d ≤ base + od s (0x2410 + link) 4 && !meetsPool s d.dpa (hdmSpan d)

/-- HDM_COMMIT (R296): a decoder that is committed keeps its range until it is uncommitted. -/
def execHdmCommit (link : Link) (n : Fin 8) (commit : Bool) (hpa size dpa ways gran place : Nat) (s : State) :
    Host.Outcome State Fault Refusal :=
  let l := link.val
  let k := l * 8 + n.val
  let old := tget {} s.cx.hdm k
  let d : HdmDec := { hpa := hpa, size := size, dpa := dpa, ways := ways, gran := gran, place := place }
  let put := fun (d : HdmDec) =>
    let t := tset s.cx.hdm k d
    { s with cx := { s.cx with hdm := t } }
  .next (if !linkExists s l || decoderCount s l ≤ n.val then s
    else if !commit then put { old with committed := false, failed := false }
    else if old.committed then s
    else if interleaveFits d && hdmAllowed s l d then put { d with committed := true }
    else put { d with failed := true })

/-- Device physical address of a host physical address in one decoder, if it maps it here. -/
def hdmMaps (d : HdmDec) (hpa : Nat) : Option Nat :=
  if d.committed && d.hpa ≤ hpa && hpa < d.hpa + d.size then
    let off := hpa - d.hpa
    if off / d.gran % d.ways = d.place then some (d.dpa + off / (d.gran * d.ways) * d.gran + off % d.gran) else none
  else none

/-- Device physical address of a host physical address on a link. -/
def hdmTranslate (s : State) (link hpa : Nat) : Option Nat :=
  ((List.range (decoderCount s link)).filterMap fun n => hdmMaps (tget {} s.cx.hdm (link * 8 + n)) hpa).head?

/-! ### CXL.mem (R264, R289, R296, R453) -/

/-- Free bytes: a value the spec does not state (log entry 2). -/
def takeFreeBytes (n : Nat) (s : State) : List Byte × State :=
  let b := (List.range n).map fun i => BitVec.ofNat 8 (Config.freeValue (s.freeCtr + i))
  (b, { s with freeCtr := s.freeCtr + n })

/-- CXL.mem is served: from RUN onwards. -/
def memServed (s : State) : Bool := functionsLive s || s.mode = .hold

/-- A read's answer with the poison indication, counted. -/
def returnPoison (link : Nat) (data : List Byte) (s : State) : State :=
  emit (.memData link data true) (odBump (0x2410 + link) 5 s)

/-- A read of 64 bytes of device memory by a host. A channel that has failed does not answer (R291). -/
def hostLoad (link pa : Nat) (s : State) : State :=
  if channelFailed s pa then s
  else
    let s := requestBursts (9 + link / 2) pa 64 false s
    if poisoned s pa 64 then returnPoison link (physTake s pa 64) s else emit (.memData link (physTake s pa 64) false) s

/-- CXL_MEM_READ: 64 bytes. Where no decoder maps the address the data is a free value (log entry 29). -/
def execCxlMemRead (link : Link) (hpa : Nat) (s : State) : Host.Outcome State Fault Refusal :=
  let l := link.val
  let a := hpa / 64 * 64
  .next (if !memServed s || !linkExists s l then s
    else if s.mode = .hold then
      let (b, s) := takeFreeBytes 64 s
      returnPoison l b s
    else match hdmTranslate s l a with
      | some pa => hostLoad l pa s
      | none =>
        let (b, s) := takeFreeBytes 64 s
        emit (.memData l b false) s)

/-- A codeword of a host's write: all 32 bytes at once, or byte by byte where some are not enabled (R289). -/
def storeCodeword (pa : Nat) (bytes : List (Option Byte)) (s : State) : State :=
  if bytes.all (·.isSome) then physPut none pa (bytes.map fun b => b.getD 0) s
  else bytes.zipIdx.foldl (fun s (b, i) => match b with
    | some v => physPut none (pa + i) [v] s
    | none => s) s

/-- CXL_MEM_WRITE: up to 64 bytes, those without a byte enable left as they are (R219, R296). -/
def execCxlMemWrite (link : Link) (hpa : Nat) (data : List (Option Byte)) (s : State) : Host.Outcome State Fault Refusal :=
  let l := link.val
  let a := hpa / 64 * 64
  let d := data.take 64 ++ List.replicate (64 - data.length) none
  .next (if !memServed s || !linkExists s l then s
    else if s.mode = .hold then emit (.memDone l) s
    else match hdmTranslate s l a with
      | none => emit (.memDone l) s
      | some pa =>
        if channelFailed s pa then s
        else
          let whole := fun (k : Nat) => ((d.drop (32 * k)).take 32).all (·.isSome)
          let s := requestMasked (9 + l / 2) pa ((if whole 0 then 1 else 0) + (if whole 1 then 2 else 0)) s
          emit (.memDone l) (storeCodeword (pa + 32) (d.drop 32) (storeCodeword pa (d.take 32) s)))

/-! ### Resets (R298, R473) -/

/-- Functions that a reset reaches have their configuration and their MSI-X tables as after reset (log entry 67). -/
def clearFunctions (p : Nat → Bool) (s : State) : State :=
  { s with cx := { s.cx with
    cfg := s.cx.cfg.filter fun e => !p (e.1 / 4)
    vectors := s.cx.vectors.filter fun e => !p (e.1 / 2048)
    pendingVecs := s.cx.pendingVecs.filter fun k => !p (k / 2048) } }

/-- FLR of a VF: an instance reset with CAUSE 1; there is no VF 0. -/
def execFlr (inst : Inst) (s : State) : Host.Outcome State Fault Refusal :=
  .next (if functionsLive s && inst.val ≠ 0 then
      resetInst inst.val 1 (clearFunctions (fun f => f = 4096 * instLink s inst.val + inst.val) s) else s)

/-- PF0_FLR: instance 0's queues, on MANAGER_LINK, and nothing else. -/
def execPf0Flr (link : Link) (s : State) : Host.Outcome State Fault Refusal :=
  .next (if functionsLive s && link.val = od s 0x2400 2 then resetQueues 0 1 s else s)

/-- HOT_RESET of a link. -/
def execHotReset (link : Link) (s : State) : Host.Outcome State Fault Refusal :=
  .next (if functionsLive s && linkExists s link.val then
      resetLink link.val (clearFunctions (fun f => f / 4096 = link.val) s) else s)

/-- PERST_N of a link: asserted, the link is down and its instances are reset; deasserted, it trains. Before RUN only its
link's training is affected; PERST1_N is ignored unless its port is split. -/
def execPerstN (link : Link) (asserted : Bool) (s : State) : Host.Outcome State Fault Refusal :=
  let l := link.val
  let others := s.cx.perst.filter (· ≠ l)
  let s' := { s with cx := { s.cx with perst := if asserted then others ++ [l] else others } }
  let idx := 0x2410 + l
  .next (if s.mode = .off || s.mode = .fuseLoad || !linkExists s l then s'
    else if asserted then
      let s := odSet idx 1 0 (odSet idx 2 0 (clearFunctions (fun f => f / 4096 = l) s'))
      if functionsLive s then resetLink l s else s
    else if s.cx.perst.contains l then odSet idx 1 1 s'
    else s')

/-- CXL_LINK_TRAINED (R294, R473). -/
def execCxlLinkTrained (link : Link) (fast : Bool) (s : State) : Host.Outcome State Fault Refusal :=
  let l := link.val
  let idx := 0x2410 + l
  .next (if s.mode = .off || s.mode = .fuseLoad || !linkExists s l || s.cx.perst.contains l || 1 < od s idx 1 then s
    else odSet idx 1 (if fast then 2 else 3) (odSet idx 2 (if portSplit s l then 8 else 16) s))

/-- Vectors of a function whose pending bit is set and which may be sent now are sent. -/
def sendPending (link fn : Nat) (s : State) : State :=
  (s.cx.pendingVecs.filter fun k => k / 2048 = 4096 * link + fn && vectorOpen s link fn (k % 2048)).foldl (fun s k =>
    emit (.msix fn (k % 2048)) { s with cx := { s.cx with pendingVecs := s.cx.pendingVecs.filter (· ≠ k) } }) s

/-- What an access of a function's configuration space or BARs does once the device serves it (Tables 14-1, 14-2). -/
def ioAccess (l fn : Nat) (a : IoAccess) (s : State) : State :=
  match a with
  | .cfgRead r => emit (.config l fn false (cfgValue s l fn r)) s
  | .cfgWrite r v => sendPending l fn (emit (.config l fn false 0) { s with cx := { s.cx with cfg := tset s.cx.cfg (cfgKey l fn r) v } })
  | .pageRead off => emit (.ioData l fn (pageRead s l fn off)) s
  | .vectorRead v =>
    let e := tget {} s.cx.vectors (vecKey l fn v.val)
    emit (.ioData l fn (e.address + 2 ^ 64 * e.data + (if e.masked then 2 ^ 96 else 0))) s
  | .vectorWrite v address data masked =>
    sendPending l fn { s with cx := { s.cx with vectors := tset s.cx.vectors (vecKey l fn v.val) ⟨address, data, masked⟩ } }
  | .pendingRead v => emit (.ioData l fn (if s.cx.pendingVecs.contains (vecKey l fn v.val) then 1 else 0)) s
  | .keyProgram key => { s with cx := { s.cx with ideKeys := tset s.cx.ideKeys l key } }
  | .keyGo =>
    if (tfind s.cx.ideKeys l).isNone then s
    else { s with cx := { s.cx with secure := l :: s.cx.secure.filter (· ≠ l), insecure := s.cx.insecure.filter (· ≠ l) } }
  | .keyStop => { s with cx := { s.cx with ideKeys := tdel s.cx.ideKeys l, secure := s.cx.secure.filter (· ≠ l) } }

/-- Whether an access is a configuration request; DOE is reached by configuration requests. -/
def configAccess : IoAccess → Bool
  | .pageRead _ | .vectorRead _ | .vectorWrite _ _ _ _ | .pendingRead _ => false
  | _ => true

/-- CONFIGURATION_REQUEST (R294): Retry Status in FUSE_LOAD and CONFIG_LOAD, where memory requests are not answered; then what the
request does. -/
def execConfigurationRequest (link : Link) (function : IoRequest) (s : State) : Host.Outcome State Fault Refusal :=
  .next (if s.mode = .off || !linkExists s link.val then s
    else if s.mode = .fuseLoad || s.mode = .configLoad then
      (if configAccess function.access then emit (.config link.val function.function.val true 0) s else s)
    else ioAccess link.val function.function.val function.access s)

/-- IDE_FAILURE (R312): the reads it left unanswered, by task slot and address, fail their jobs. -/
def execIdeFailure (link : Link) (unanswered : List (Nat × Nat)) (s : State) : Host.Outcome State Fault Refusal :=
  .next (if !memServed s || !linkExists s link.val then s
    else
      let bad := s.cx.insecure.filter (· ≠ link.val) ++ [link.val]
      let s := odBump 0x2400 6 { s with cx := { s.cx with insecure := bad, secure := s.cx.secure.filter (· ≠ link.val) } }
      if s.mode = .hold then s else unanswered.foldl (fun s u => failTask u.1 0x0304 { address := u.2 } s) s)

/-! ### The primary mailbox (R311); return codes and payload layouts are CXL 3.1's (log entry 28) -/

/-- Return codes: Success, Invalid Input, Unsupported, Invalid Handle, Invalid Log. -/
def rcSuccess : Nat := 0

def rcInvalidInput : Nat := 2

def rcUnsupported : Nat := 3

def rcInvalidHandle : Nat := 0xE

def rcInvalidLog : Nat := 0x17

/-- The mailbox of a link answers. -/
def mailboxLive (s : State) (link : Nat) : Bool := memServed s && linkExists s link

/-- A command is answered. -/
def reply (link : Link) (code : Nat) (payload : List Byte) (s : State) : State := emit (.mailbox link.val code payload) s

/-- A command is answered where the mailbox is live. -/
def mailbox (link : Link) (f : State → State) (s : State) : Host.Outcome State Fault Refusal :=
  .next (if mailboxLive s link.val then f s else s)

/-- Number of an event kind. -/
def EvKind.num : EvKind → Nat
  | .modeAbort => 0
  | .pair => 1

/-- Event records of a link in one log. -/
def eventsOf (s : State) (link log : Nat) : List EvRec :=
  (tget [] s.cx.events link).filter fun e => Config.eventLog e.kind.num = log

/-- The 128 bytes of an event record: its handle and timestamp; the rest is free. -/
def eventBytes (e : EvRec) (s : State) : List Byte × State :=
  let (b, s) := takeFreeBytes 128 s
  (splice (splice b 0x14 (leBytes 2 e.handle)) 0x18 (leBytes 8 e.time), s)

/-- The output of Get Event Records: up to 31 records, and whether more wait. -/
def eventOutput (es : List EvRec) (s : State) : List Byte × State :=
  let now := es.take 31
  let head := leBytes 1 (if 31 < es.length then 2 else 0) ++ List.replicate 19 0 ++ leBytes 2 now.length ++ List.replicate 10 0
  now.foldl (fun (b, s) e =>
    let (r, s) := eventBytes e s
    (b ++ r, s)) (head, s)

/-- GET_EVENT_RECORDS. -/
def execGetEventRecords (link : Link) (log : Nat) (s : State) : Host.Outcome State Fault Refusal :=
  mailbox link (fun s =>
    if 3 < log then reply link rcInvalidInput [] s
    else
      let (b, s) := eventOutput (eventsOf s link.val log) s
      reply link rcSuccess b s) s

/-- CLEAR_EVENT_RECORDS: all of a log, or those with the handles given. -/
def execClearEventRecords (link : Link) (log : Nat) (all : Bool) (handles : List Nat) (s : State) :
    Host.Outcome State Fault Refusal :=
  mailbox link (fun s =>
    let here := eventsOf s link.val log
    let known := handles.all fun h => here.any fun e => e.handle = h
    if 3 < log then reply link rcInvalidInput [] s
    else if !all && !known then reply link rcInvalidHandle [] s
    else
      let gone : EvRec → Bool := fun e => decide (Config.eventLog e.kind.num = log) && (all || handles.contains e.handle)
      let ev := tmod [] s.cx.events link.val fun l => l.filter fun e => !gone e
      reply link rcSuccess [] { s with cx := { s.cx with events := ev } }) s

/-- SET_TIMESTAMP. -/
def execSetTimestamp (link : Link) (ns : Nat) (s : State) : Host.Outcome State Fault Refusal :=
  mailbox link (fun s =>
    let t := tset s.cx.stamps link.val (ns % 2 ^ 64, s.time * 40)
    reply link rcSuccess [] { s with cx := { s.cx with stamps := t } }) s

/-- GET_TIMESTAMP. -/
def execGetTimestamp (link : Link) (s : State) : Host.Outcome State Fault Refusal :=
  mailbox link (fun s => reply link rcSuccess (leBytes 8 (stampOf s link.val)) s) s

/-- Opcodes of Table 14-7. -/
def mailboxOpcodes : List Nat := [0x0001, 0x0002, 0x0300, 0x0301, 0x0400, 0x0401, 0x4000, 0x4200, 0xC000, 0xC001]

/-- Identifier of the Command Effects Log. -/
def celUuid : List Byte :=
  [0x0D, 0xA9, 0xC0, 0xB5, 0xBF, 0x41, 0x4B, 0x78, 0x8F, 0x79, 0x96, 0xB1, 0x62, 0x3B, 0x3F, 0x17]

/-- The Command Effects Log: each opcode, with effects the spec does not give. -/
def celBytes (s : State) : List Byte × State :=
  mailboxOpcodes.foldl (fun (b, s) op =>
    let (f, s) := takeFreeBytes 2 s
    (b ++ leBytes 2 op ++ f, s)) ([], s)

/-- GET_SUPPORTED_LOGS. -/
def execGetSupportedLogs (link : Link) (s : State) : Host.Outcome State Fault Refusal :=
  mailbox link (fun s =>
    reply link rcSuccess (leBytes 2 1 ++ List.replicate 6 0 ++ celUuid ++ leBytes 4 (4 * mailboxOpcodes.length)) s) s

/-- GET_LOG. -/
def execGetLog (link : Link) (uuid : List Byte) (offset length : Nat) (s : State) : Host.Outcome State Fault Refusal :=
  mailbox link (fun s =>
    if uuid ≠ celUuid then reply link rcInvalidLog [] s
    else if 4 * mailboxOpcodes.length < offset + length then reply link rcInvalidInput [] s
    else
      let (b, s) := celBytes s
      reply link rcSuccess (slice b offset length) s) s

/-- Installed memory in bytes (R276). -/
def installed (s : State) : Nat := 12 * od s 0x2000 4

/-- IDENTIFY_MEMORY_DEVICE: total and volatile capacity in 256 MiB; the other fields are free. -/
def execIdentifyMemoryDevice (link : Link) (s : State) : Host.Outcome State Fault Refusal :=
  mailbox link (fun s =>
    let cap := leBytes 8 (installed s / 2 ^ 28)
    let (b, s) := takeFreeBytes 0x45 s
    reply link rcSuccess (splice b 0x10 (cap ++ cap)) s) s

/-- GET_HEALTH_INFO: its fields are free. -/
def execGetHealthInfo (link : Link) (s : State) : Host.Outcome State Fault Refusal :=
  mailbox link (fun s =>
    let (b, s) := takeFreeBytes 18 s
    reply link rcSuccess b s) s

/-- VDP_REQUEST (R311, R439). -/
def execVdpRequest (link : Link) (msg : List Byte) (s : State) : Host.Outcome State Fault Refusal :=
  mailbox link (fun s => vdpArrive (.mailbox link) msg (odBump 0x2400 5 s)) s

/-- VDP_CYCLIC (R311, R434): the latest device frame. -/
def execVdpCyclic (link : Link) (s : State) : Host.Outcome State Fault Refusal :=
  mailbox link (fun s => reply link rcSuccess s.vd.deviceFrame s) s

/-- UNSUPPORTED_MAILBOX: an opcode outside Table 14-7. -/
def execUnsupportedMailbox (link : Link) (opcode : BitVec 16) (s : State) : Host.Outcome State Fault Refusal :=
  mailbox link (fun s => if mailboxOpcodes.contains opcode.toNat then s else reply link rcUnsupported [] s) s

end Sys2Proof.Machine
end

