-- ==== Sys2Proof/Machine/KilnEng.lean ====
section
/-! DEFINITION. Kiln engines: INFLATE, DEFLATE, the self-test (chapter 17). -/

namespace Sys2Proof.Machine

/-! ### Chains (R355) -/

/-- Address and length of each buffer of a task's chain, in order. -/
def chainOf (s : State) (t : Task) : List (Nat × Nat) := (taskList s t 0).map fun x => (fld x 0 8, fld x 8 8)

/-- Capacity of a chain. -/
def chainCap (c : List (Nat × Nat)) : Nat := (c.map (·.2)).foldl (· + ·) 0

/-- Address of an offset of a chain's output and the bytes left in its buffer. -/
def chainAt_ : List (Nat × Nat) → Nat → Option (Nat × Nat)
  | [], _ => none
  | (a, n) :: rest, off => if off < n then some (a + off, n - off) else chainAt_ rest (off - n)

/-- The next piece of some bytes is written to a chain from the cursor the engine keeps, at most to the end of a buffer or of a
4 KiB block, at whose boundary the stage can stop (R368); `k` follows the last. -/
def writeChain (slot : Nat) (chain : List (Nat × Nat)) (bytes : List Byte) (k : State → State) (s : State) : State :=
  match taskAt s slot with
  | none => s
  | some t =>
    if bytes.length ≤ t.eng.c then k s
    else match chainAt_ chain t.eng.c with
      | none => k s
      | some (a, left) =>
        let n := min left (4096 - a % 4096)
        let piece := (bytes.drop t.eng.c).take n
        match devWrite t.unit (.inst t.inst) a piece s with
        | (some e, s) => accessFailed slot true 0xFF e s
        | (none, s) =>
          let s := unitCount t.unit 4 piece.length (jobMod t.jid (fun j => { j with resultLen := j.resultLen + piece.length }) s)
          engMod slot (fun g => { g with c := g.c + piece.length }) s

/-! ### Deflate with a bound (R366) -/

/-- What a DEFLATE stage produces: output bytes, input bytes consumed, whether it stopped, the pending bits, the
running check, frames with RAW set. -/
structure DeflOut where
  out : List Byte
  consumed : Nat
  stopped : Bool := false
  pend : List Bool := []
  check : Nat := 0
  raws : Nat := 0
  deriving DecidableEq, Repr

/-- Blocks that fit: the number of leading blocks whose whole bytes stay within `cap` (R366). -/
def blocksFit (cap used : Nat) : List (List Bool) → Nat
  | [] => 0
  | b :: rest => if cap < (used + b.length) / 8 then 0 else 1 + blocksFit cap (used + b.length) rest

/-- RAW, ZLIB and GZIP: header, blocks, trailer; `cap` is the chain's capacity where the stage may stop. -/
def deflWrapped (fmt level : Nat) (header : List Byte) (pend : List Bool) (check total : Nat) (input : List Byte)
    (cap : Option Nat) : DeflOut :=
  let blocks := deflateBlocks input level pend.length
  let chk := checkFrom fmt check input
  let whole := header ++ packBits (pend ++ blocks.flatten) ++ wrapTrailer fmt chk (total + input.length)
  let fits : Bool := match cap with
    | some c => decide (whole.length ≤ c)
    | none => true
  if fits then { out := whole, consumed := input.length, check := chk }
  else
    let n := min (blocksFit (cap.getD 0) (8 * header.length + pend.length) blocks) (blocks.length - 1)
    let bits := pend ++ (blocks.take n).flatten
    let used := min input.length (65535 * n)
    { out := header ++ packBits (bits.take (bits.length / 8 * 8)), consumed := used, stopped := true
      pend := bits.drop (bits.length / 8 * 8), check := checkFrom fmt check (input.take used) }

/-- A unit's content: the whole unit, or with PAGES its first USED_LENGTH bytes (R357). -/
def unitContent (pages : Bool) (u : List Byte) : Option (List Byte) :=
  if !pages then some u
  else if u.length < 0x20 then none
  else
    let n := fld u 0x1C 4
    if n < 128 || u.length < n then none else some (u.take n)

/-- FRAME: one frame per unit until the chain cannot hold the next; none for a bad unit (R357, R366). -/
def deflFrames (level : Nat) (pages : Bool) (cap : Option Nat) : List (List Byte) → DeflOut → Option DeflOut
  | [], acc => some acc
  | u :: rest, acc =>
    match unitContent pages u with
    | none => none
    | some c =>
      let f := frameOf c level
      let out := acc.out ++ f.1
      let fits : Bool := match cap with
        | some n => decide (out.length ≤ n)
        | none => true
      if !fits then some { acc with stopped := true }
      else deflFrames level pages cap rest
        { acc with out := out, consumed := acc.consumed + u.length, raws := acc.raws + (if f.2 then 1 else 0) }

/-! ### Resume record (Table 17-6) -/

/-- A record a CONTINUE stage may start from (R367). -/
def recordOk (op r : List Byte) : Bool :=
  fld r 0 4 = 0x31534B59 && fld r 0x3C 4 = crc32c (r.take 0x3C) && fld r 4 1 = 1 && slice r 5 1 = slice op 0 1 &&
  slice r 6 1 = slice op 1 1

/-- The pending bits of a record. -/
def recordPend (r : List Byte) : List Bool := (List.range (fld r 0x2C 1 % 8)).map (fld r 0x2D 1).testBit

/-- The record a RESUMABLE stage writes; `was` is the record it started from. -/
def resumeRecord (op was : List Byte) (o : DeflOut) : List Byte :=
  let v := o.pend.zipIdx.foldl (fun x (b, i) => if b then x + 2 ^ i else x) 0
  let h := leBytes 4 0x31534B59 ++ [if o.stopped then 1 else 0] ++ slice op 0 2 ++ [0] ++ leBytes 8 o.consumed ++
    leBytes 8 o.out.length ++ leBytes 8 (fld was 0x18 8 + o.consumed) ++ leBytes 8 (fld was 0x20 8 + o.out.length) ++
    leBytes 4 o.check ++ leBytes 1 o.pend.length ++ leBytes 1 v ++ List.replicate 14 0
  h ++ leBytes 4 (crc32c h)

/-! ### Stages -/

/-- CONTINUE. -/
def kilnContinue (op : List Byte) : Bool := (fld op 2 1).testBit 2

/-- Whether a Kiln stage writes a chain. -/
def kilnChained (e : StageEnt) : Bool := e.params.headD 0xFFFF ≠ 0xFFFF

/-- The output of a DEFLATE stage whose input has ended; `was` is the record of a CONTINUE stage. -/
def deflResult (op was input : List Byte) (cap : Option Nat) : Option DeflOut :=
  let fmt := fld op 0 1
  let level := fld op 1 1
  let cont := kilnContinue op
  if fmt = 3 then deflFrames level ((fld op 2 1).testBit 0) cap (chunksOf 65536 input) { out := [], consumed := 0 }
  else some (deflWrapped fmt level (if cont then [] else wrapHeader fmt level) (if cont then recordPend was else [])
    (if cont then fld was 0x28 4 else checkStart fmt) (if cont then fld was 0x18 8 else 0) input cap)

/-- A bit string with one bit wrong. -/
def flipBit (bits : List Bool) : Option Nat → List Bool
  | none => bits
  | some k => bits.zipIdx.map fun (b, i) => if i = k then !b else b

/-- The blocks of an input decompressed as they stand in the staging area, where an encoder in error got one bit of them wrong
(R361). A block may reach back into those before it, not into an earlier job (R358). -/
def stagedBack (input : List Byte) (level pend : Nat) (flaw : Option Nat) : Option (List Byte) :=
  let bits := List.replicate pend false ++ flipBit (deflateBlocks input level pend).flatten flaw
  match inflateBlocks ⟨(packBits bits).toArray, bits.length⟩ input.length (bits.length + 1) pend #[] with
  | .error _ => none
  | .ok (_, out) => some out.toList

/-- Whether every block, decompressed by the engine itself, equals its input segment, and every frame its content (R361). -/
def deflVerified (op was input : List Byte) (flaw : Option Nat) : Bool :=
  let level := fld op 1 1
  if fld op 0 1 = 3 then
    (((chunksOf 65536 input).filterMap (unitContent ((fld op 2 1).testBit 0))).foldl (fun (acc : Bool × Nat) c =>
      if (frameOf c level).2 then acc
      else
        let n := (deflateBlocks c level 0).flatten.length
        let mine := flaw.bind fun k => if acc.2 ≤ k && k < acc.2 + n then some (k - acc.2) else none
        (acc.1 && stagedBack c level 0 mine = some c, acc.2 + n)) (true, 0)).1
  else stagedBack input level (if kilnContinue op then (recordPend was).length else 0) flaw = some input

/-- The engine leaves placement and tests itself after a mismatch (R361). -/
def verifyFails (slot : Nat) (t : Task) (s : State) : State :=
  setUnitState t.unit 5 (failTask slot 0x020C {} (unitCount t.unit 6 1 s))

/-- Output formed is written or emitted, then the record, then the stage ends (R355, R366). The engine keeps the
output in `table`, the record in `bytes`, the chain cursor in `c`. -/
def kilnDrain (slot : Nat) (t : Task) (s : State) : State :=
  let e := taskStage s t
  let op := taskOperand s t
  let finish := fun (s : State) =>
    let s := unitCount t.unit 5 (t.eng.marks.headD 0) s
    let s := if kilnChained e then (if e.outs = 0 then s else emitElems slot 0 [some (leBytes 8 t.eng.table.length)] s)
      else emitBytes slot 0 t.eng.table (unitCount t.unit 4 t.eng.table.length s)
    let s := if t.eng.d = 1 then unitCount t.unit 8 1 (jobMod t.jid (fun j => { j with stopped := true }) s) else s
    stageEnds slot s
  let close := fun (s : State) =>
    if t.eng.bytes.isEmpty then finish s
    else match devWrite t.unit (.inst t.inst) (fld op 0x10 8) t.eng.bytes s with
      | (some f, s) => accessFailed slot true 0xFF f s
      | (none, s) => finish s
  if kilnChained e then
    writeChain slot (chainOf s t) t.eng.table close s
  else close s

/-- The input of a Kiln stage joins `bytes`, up to its next 4 KiB boundary (R368). -/
def kilnTake (slot : Nat) (t : Task) (s : State) : State :=
  let (bs, s) := takeUpTo slot 0 (4096 - t.eng.a % 4096) s
  engMod slot (fun g => { g with bytes := g.bytes ++ bs, a := g.a + bs.length }) (unitCount t.unit 3 bs.length s)

/-- A result is kept for writing, with the frames in it that have RAW set. -/
def kilnKeep (slot : Nat) (out rcd : List Byte) (stopped : Bool) (raws : Nat) (s : State) : State :=
  engMod slot (fun g => { g with table := out, bytes := rcd, b := 1, c := 0, d := if stopped then 1 else 0, marks := [raws] }) s

/-- DEFLATE: a CONTINUE stage reads its record first; input is taken as it arrives; after the last, the blocks, each compared
with its segment. `flaw` is a bit of the blocks that the encoder got wrong, if it did. -/
def runDeflate (slot : Nat) (flaw : Option Nat) (t : Task) (s : State) : State :=
  let e := taskStage s t
  let op := taskOperand s t
  if !t.eng.started then
    let s := showState slot 1 s
    if kilnContinue op then
      match devRead t.unit (.inst t.inst) (fld op 0x10 8) 64 s with
      | (.error f, s) => accessFailed slot false 0xFF f s
      | (.ok r, s) =>
        if recordOk op r then engMod slot (fun g => { g with started := true, table := r }) s else failTask slot 0x0216 {} s
    else engMod slot (fun g => { g with started := true }) s
  else if t.eng.b = 1 then kilnDrain slot t s
  else
    let s := kilnTake slot t s
    match taskAt s slot with
    | none => s
    | some t =>
      if !insDone t then s
      else
        let cap := if kilnResumable op && kilnChained e then some (chainCap (chainOf s t)) else none
        match deflResult op t.eng.table t.eng.bytes cap with
        | none => failTask slot 0x0201 { reason := 6 } s
        | some o =>
          if !deflVerified op t.eng.table t.eng.bytes flaw then verifyFails slot t s
          else
            let s := kilnKeep slot o.out (if kilnResumable op then resumeRecord op t.eng.table o else []) o.stopped o.raws s
            match taskAt s slot with
            | some t => kilnDrain slot t s
            | none => s

/-- DEFLATE (R354 to R362, R365 to R367). -/
def execDeflate (slot : DeflateTurn) (s : State) : Host.Outcome State Fault Refusal :=
  .next (runStage slot.slot [0x41] (runDeflate slot.slot slot.flaw) s)

/-- INFLATE: the input is taken as it arrives; after the last, its output or its first error (R363). -/
def runInflate (slot : Nat) (t : Task) (s : State) : State :=
  let op := taskOperand s t
  if t.eng.b = 1 then kilnDrain slot t s
  else
    let s := if t.eng.started then s else engMod slot (fun g => { g with started := true }) (showState slot 2 s)
    let s := kilnTake slot t s
    match taskAt s slot with
    | none => s
    | some t =>
      if !insDone t then s
      else match inflate (fld op 0 1) t.eng.bytes (fld op 8 8) with
        | .error f => failTask slot f.status { address := f.bit / 8, detail := f.made, detail2 := f.frame, reason := f.bit % 8 }
            (unitCount t.unit 7 1 s)
        | .ok out =>
          let s := kilnKeep slot out [] false 0 s
          match taskAt s slot with
          | some t => kilnDrain slot t s
          | none => s

/-- INFLATE (R354, R355, R363, R365). -/
def execInflate (slot : Nat) (s : State) : Host.Outcome State Fault Refusal :=
  .next (runStage slot [0x40] (runInflate slot) s)

/-- KILN_SELF_TEST: the engine returns to placement, or stays out of service with STATE 6 (R361, R482). -/
def execKilnSelfTest (engine : Fin 4) (passed : Bool) (s : State) : Host.Outcome State Fault Refusal :=
  if od s (0x3C00 + engine.val) 1 = 5 then
    .next (if passed then odSet (0x3C00 + engine.val) 1 0 s
      else unitLeft (0xA8 + engine.val) (odSet (0x3C00 + engine.val) 1 6 s))
  else .next s

end Sys2Proof.Machine
end

