-- ==== Sys2Proof/Machine/ShortVec.lean ====
section
/-! DEFINITION. Meanings of the short-vector instructions (R199 to R207). -/

namespace Sys2Proof.Machine

/-! ### Views and lanes (R199) -/

/-- Bits of a view: Q of Table 09-1. -/
def viewBits (q : Bool) : Nat := if q then 128 else 64

/-- Bits of an element: ESZ of Table 09-1. -/
def eszBits (e : Fin 4) : Nat := 8 * 2 ^ e.val

/-- Lanes of a view. -/
def laneCount (q : Bool) (e : Fin 4) : Nat := viewBits q / eszBits e

/-- A register field that names no register of its view (R201). -/
def noReg (q : Bool) (r : Reg) : Bool := q && 16 ≤ r.val

/-- The register of f that holds a half of a v register. -/
def halfOf (r : Reg) (hi : Bool) : Reg :=
  ⟨(2 * r.val + (if hi then 1 else 0)) % 32, Nat.mod_lt _ (by decide)⟩

/-- The value of a d or v register. -/
def viewGet (s : State) (c : CoreId) (q : Bool) (r : Reg) : Nat :=
  if q then (fGet s c (halfOf r false)).toNat + (fGet s c (halfOf r true)).toNat * 2 ^ 64
  else (fGet s c r).toNat

/-- A d or v register written. -/
def viewSet (c : CoreId) (q : Bool) (r : Reg) (v : Nat) (s : State) : State :=
  if q then
    fSet c (halfOf r true) (BitVec.ofNat 64 (v / 2 ^ 64)) (fSet c (halfOf r false) (BitVec.ofNat 64 v) s)
  else fSet c r (BitVec.ofNat 64 v) s

/-- The n lanes of w bits of a number, lane 0 first. -/
def lanesOf (w n x : Nat) : List Nat := (List.range n).map fun j => x / 2 ^ (w * j) % 2 ^ w

/-- The number whose lanes of w bits are given. -/
def ofLanes (w : Nat) : List Nat → Nat
  | [] => 0
  | a :: t => a % 2 ^ w + 2 ^ w * ofLanes w t

/-- The lanes of a register in an instruction's view and element size. -/
def svLanes (s : State) (c : CoreId) (o : SvOp) (r : Reg) : List Nat :=
  lanesOf (eszBits o.esz) (laneCount o.q o.esz) (viewGet s c o.q r)

/-- The destination register written from lanes. -/
def svWrite (c : CoreId) (o : SvOp) (ls : List Nat) (s : State) : State :=
  viewSet c o.q o.vd (ofLanes (eszBits o.esz) ls) s

/-- The word of a short-vector R-format instruction (Table 09-1). -/
def svWord (major : Nat) (o : SvOp) (low : Nat) : BitVec 32 :=
  encR major o.vd o.va o.vb ((if o.q then 1024 else 0) + o.esz.val * 256 + low)

/-- A short-vector instruction: illegal, or its body. -/
def runSv (c : CoreId) (major : Nat) (o : SvOp) (low : Nat) (bad : Bool) (body : State → CoreEnd) (s : State) :
    State :=
  runCore c false (fun s => if bad then illegal (svWord major o low) s else body s) s

/-! ### Integer lanes (R202, R203) -/

/-- A lane operation on two lanes of w bits. -/
abbrev LaneFn := Nat → Nat → Nat → Nat

/-- An integer clamped to the signed range of w bits. -/
def clampS (w : Nat) (i : Int) : Nat :=
  ofSigned w (max (-(2 ^ (w - 1) : Int)) (min i (2 ^ (w - 1) - 1)))

/-- All ones where a condition holds. -/
def laneMask (w : Nat) (b : Bool) : Nat := if b then 2 ^ w - 1 else 0

/-- A wrapping lane. -/
def laneAdd : LaneFn := fun w a b => (a + b) % 2 ^ w
/-- A wrapping lane. -/
def laneSub : LaneFn := fun w a b => (a + 2 ^ w - b) % 2 ^ w
/-- A wrapping lane. -/
def laneMul : LaneFn := fun w a b => a * b % 2 ^ w
/-- The signed minimum. -/
def laneMin : LaneFn := fun w a b => if toSigned w a < toSigned w b then a else b
/-- The signed maximum. -/
def laneMax : LaneFn := fun w a b => if toSigned w a < toSigned w b then b else a
/-- The unsigned minimum. -/
def laneMinu : LaneFn := fun _ a b => min a b
/-- The unsigned maximum. -/
def laneMaxu : LaneFn := fun _ a b => max a b

/-- An SVINT instruction with two sources. -/
def runSvInt (c : CoreId) (o : SvOp) (op : Nat) (f : LaneFn) (s : State) : State :=
  runSv c 0x30 o op (noReg o.q o.vd || noReg o.q o.va || noReg o.q o.vb) (fun s =>
    .retire (svWrite c o (List.zipWith (f (eszBits o.esz)) (svLanes s c o o.va) (svLanes s c o o.vb)) s)) s

/-- SVINT ADD wraps (R202, R203). -/
def execSvAdd (c : CoreId) (o : SvOp) (s : State) : Host.Outcome State Fault Refusal :=
  .next (runSvInt c o 0x0 laneAdd s)

/-- SVINT SUB wraps (R202, R203). -/
def execSvSub (c : CoreId) (o : SvOp) (s : State) : Host.Outcome State Fault Refusal :=
  .next (runSvInt c o 0x1 laneSub s)

/-- SVINT ADDSS clamps to the signed range (R202, R203). -/
def execSvAddss (c : CoreId) (o : SvOp) (s : State) : Host.Outcome State Fault Refusal :=
  .next (runSvInt c o 0x2 (fun w a b => clampS w (toSigned w a + toSigned w b)) s)

/-- SVINT ADDUS clamps to the unsigned range (R202, R203). -/
def execSvAddus (c : CoreId) (o : SvOp) (s : State) : Host.Outcome State Fault Refusal :=
  .next (runSvInt c o 0x3 (fun w a b => min (a + b) (2 ^ w - 1)) s)

/-- SVINT SUBSS clamps to the signed range (R202, R203). -/
def execSvSubss (c : CoreId) (o : SvOp) (s : State) : Host.Outcome State Fault Refusal :=
  .next (runSvInt c o 0x4 (fun w a b => clampS w (toSigned w a - toSigned w b)) s)

/-- SVINT SUBUS clamps to the unsigned range (R202, R203). -/
def execSvSubus (c : CoreId) (o : SvOp) (s : State) : Host.Outcome State Fault Refusal :=
  .next (runSvInt c o 0x5 (fun _ a b => a - b) s)

/-- SVINT AND (R202, R203). -/
def execSvAnd (c : CoreId) (o : SvOp) (s : State) : Host.Outcome State Fault Refusal :=
  .next (runSvInt c o 0x6 (fun _ a b => a &&& b) s)

/-- SVINT OR (R202, R203). -/
def execSvOr (c : CoreId) (o : SvOp) (s : State) : Host.Outcome State Fault Refusal :=
  .next (runSvInt c o 0x7 (fun _ a b => a ||| b) s)

/-- SVINT XOR (R202, R203). -/
def execSvXor (c : CoreId) (o : SvOp) (s : State) : Host.Outcome State Fault Refusal :=
  .next (runSvInt c o 0x8 (fun _ a b => a ^^^ b) s)

/-- SVINT ANDN: va AND NOT vb (R202, R203). -/
def execSvAndn (c : CoreId) (o : SvOp) (s : State) : Host.Outcome State Fault Refusal :=
  .next (runSvInt c o 0x9 (fun w a b => a &&& (2 ^ w - 1 - b)) s)

/-- SVINT MIN (R202, R203). -/
def execSvMin (c : CoreId) (o : SvOp) (s : State) : Host.Outcome State Fault Refusal :=
  .next (runSvInt c o 0xa laneMin s)

/-- SVINT MAX (R202, R203). -/
def execSvMax (c : CoreId) (o : SvOp) (s : State) : Host.Outcome State Fault Refusal :=
  .next (runSvInt c o 0xb laneMax s)

/-- SVINT MINU (R202, R203). -/
def execSvMinu (c : CoreId) (o : SvOp) (s : State) : Host.Outcome State Fault Refusal :=
  .next (runSvInt c o 0xc laneMinu s)

/-- SVINT MAXU (R202, R203). -/
def execSvMaxu (c : CoreId) (o : SvOp) (s : State) : Host.Outcome State Fault Refusal :=
  .next (runSvInt c o 0xd laneMaxu s)

/-- SVINT CMPEQ (R202, R203). -/
def execSvCmpeq (c : CoreId) (o : SvOp) (s : State) : Host.Outcome State Fault Refusal :=
  .next (runSvInt c o 0xe (fun w a b => laneMask w (a = b)) s)

/-- SVINT CMPGT (R202, R203). -/
def execSvCmpgt (c : CoreId) (o : SvOp) (s : State) : Host.Outcome State Fault Refusal :=
  .next (runSvInt c o 0xf (fun w a b => laneMask w (decide (toSigned w b < toSigned w a))) s)

/-- SVINT CMPGTU (R202, R203). -/
def execSvCmpgtu (c : CoreId) (o : SvOp) (s : State) : Host.Outcome State Fault Refusal :=
  .next (runSvInt c o 0x10 (fun w a b => laneMask w (decide (b < a))) s)

/-- SVINT MUL: the low half (R202, R203). -/
def execSvMul (c : CoreId) (o : SvOp) (s : State) : Host.Outcome State Fault Refusal :=
  .next (runSvInt c o 0x11 laneMul s)

/-- SVINT AVGU, computed exactly (R202, R203). -/
def execSvAvgu (c : CoreId) (o : SvOp) (s : State) : Host.Outcome State Fault Refusal :=
  .next (runSvInt c o 0x12 (fun _ a b => (a + b + 1) / 2) s)

/-- SVINT ABSDU (R202, R203). -/
def execSvAbsdu (c : CoreId) (o : SvOp) (s : State) : Host.Outcome State Fault Refusal :=
  .next (runSvInt c o 0x13 (fun _ a b => max a b - min a b) s)

/-! ### Shifts by an immediate (R203) -/

/-- An SVSHI instruction: vb must be 0 and the count below the lane's width. -/
def runSvShift (c : CoreId) (o : SvOp) (count : Fin 64) (op : Nat) (f : Nat → Nat → Nat) (s : State) : State :=
  runSv c 0x31 o (count.val * 4 + op)
    (noReg o.q o.vd || noReg o.q o.va || o.vb ≠ 0 || eszBits o.esz ≤ count.val) (fun s =>
    .retire (svWrite c o ((svLanes s c o o.va).map (f (eszBits o.esz))) s)) s

/-- SVSHI SLLI (Table 09-2). -/
def execSvSlli (c : CoreId) (o : SvOp) (count : Fin 64) (s : State) : Host.Outcome State Fault Refusal :=
  .next (runSvShift c o count 0 (fun w a => a * 2 ^ count.val % 2 ^ w) s)

/-- SVSHI SRLI (Table 09-2). -/
def execSvSrli (c : CoreId) (o : SvOp) (count : Fin 64) (s : State) : Host.Outcome State Fault Refusal :=
  .next (runSvShift c o count 1 (fun _ a => a / 2 ^ count.val) s)

/-- SVSHI SRAI (Table 09-2). -/
def execSvSrai (c : CoreId) (o : SvOp) (count : Fin 64) (s : State) : Host.Outcome State Fault Refusal :=
  .next (runSvShift c o count 2 (fun w a => ofSigned w (toSigned w a / 2 ^ count.val)) s)

/-! ### Floating-point lanes (R204) -/

/-- The format of an element size; none for B and H. -/
def eszFmt (e : Fin 4) : Option FFmt := if e = 2 then some .b32 else if e = 3 then some .b64 else none

/-- An SVFP instruction: f gives a lane's result and flags from va, vb and the old vd. -/
def runSvFp (c : CoreId) (o : SvOp) (op : Nat) (unary : Bool) (f : FFmt → Round → Nat → Nat → Nat → Nat × FFlags)
    (s : State) : State :=
  runSv c 0x32 o op
    (noReg o.q o.vd || noReg o.q o.va || noReg o.q o.vb || (eszFmt o.esz).isNone || (unary && o.vb ≠ 0)) (fun s =>
    match eszFmt o.esz with
    | none => illegal (svWord 0x32 o op) s
    | some fmt =>
      let rs := List.zipWith (fun (ab : Nat × Nat) d => f fmt (dynRound s c) ab.1 ab.2 d)
        ((svLanes s c o o.va).zip (svLanes s c o o.vb)) (svLanes s c o o.vd)
      arith c (rs.foldl (fun fl r => fl ||| r.2) 0) false (svWrite c o (rs.map (·.1))) s) s

/-- A comparison's lane: all ones where it holds. -/
def cmpLane (fmt : FFmt) (r : Bool × FFlags) : Nat × FFlags := (laneMask fmt.width r.1, r.2)

/-- SVFP FADD (R204). -/
def execSvFadd (c : CoreId) (o : SvOp) (s : State) : Host.Outcome State Fault Refusal :=
  .next (runSvFp c o 0x0 false (fun m r a b _ => fadd m r a b) s)

/-- SVFP FSUB (R204). -/
def execSvFsub (c : CoreId) (o : SvOp) (s : State) : Host.Outcome State Fault Refusal :=
  .next (runSvFp c o 0x1 false (fun m r a b _ => fsub m r a b) s)

/-- SVFP FMUL (R204). -/
def execSvFmul (c : CoreId) (o : SvOp) (s : State) : Host.Outcome State Fault Refusal :=
  .next (runSvFp c o 0x2 false (fun m r a b _ => fmul m r a b) s)

/-- SVFP FDIV (R204). -/
def execSvFdiv (c : CoreId) (o : SvOp) (s : State) : Host.Outcome State Fault Refusal :=
  .next (runSvFp c o 0x3 false (fun m r a b _ => fdiv m r a b) s)

/-- SVFP FSQRT (R204). -/
def execSvFsqrt (c : CoreId) (o : SvOp) (s : State) : Host.Outcome State Fault Refusal :=
  .next (runSvFp c o 0x4 true (fun m r a _ _ => fsqrt m r a) s)

/-- SVFP FMIN (R204). -/
def execSvFmin (c : CoreId) (o : SvOp) (s : State) : Host.Outcome State Fault Refusal :=
  .next (runSvFp c o 0x5 false (fun m _ a b _ => fminmax m false a b) s)

/-- SVFP FMAX (R204). -/
def execSvFmax (c : CoreId) (o : SvOp) (s : State) : Host.Outcome State Fault Refusal :=
  .next (runSvFp c o 0x6 false (fun m _ a b _ => fminmax m true a b) s)

/-- SVFP FMAC: one rounding (R204). -/
def execSvFmac (c : CoreId) (o : SvOp) (s : State) : Host.Outcome State Fault Refusal :=
  .next (runSvFp c o 0x7 false (fun m r a b d => fmac m r a b d) s)

/-- SVFP FCMPEQ: quiet, as FEQ (R204). -/
def execSvFcmpeq (c : CoreId) (o : SvOp) (s : State) : Host.Outcome State Fault Refusal :=
  .next (runSvFp c o 0x8 false (fun m _ a b _ => cmpLane m (fcmp m .eq false a b)) s)

/-- SVFP FCMPLT: signalling, as FLT (R204). -/
def execSvFcmplt (c : CoreId) (o : SvOp) (s : State) : Host.Outcome State Fault Refusal :=
  .next (runSvFp c o 0x9 false (fun m _ a b _ => cmpLane m (fcmp m .lt true a b)) s)

/-- SVFP FCMPLE: signalling, as FLE (R204). -/
def execSvFcmple (c : CoreId) (o : SvOp) (s : State) : Host.Outcome State Fault Refusal :=
  .next (runSvFp c o 0xa false (fun m _ a b _ => cmpLane m (fcmp m .le true a b)) s)

/-- SVFP FABS (R204). -/
def execSvFabs (c : CoreId) (o : SvOp) (s : State) : Host.Outcome State Fault Refusal :=
  .next (runSvFp c o 0xb true (fun m _ a _ _ => (fabs m a, 0)) s)

/-- SVFP FNEG (R204). -/
def execSvFneg (c : CoreId) (o : SvOp) (s : State) : Host.Outcome State Fault Refusal :=
  .next (runSvFp c o 0xc true (fun m _ a _ _ => (fneg m a, 0)) s)

/-! ### Permutes (R207) -/

/-- The table bytes of PICK and PICKK: the registers va to va + n − 1. -/
def pickTable (s : State) (c : CoreId) (o : SvOp) (n : Nat) : List Nat :=
  (List.range n).flatMap fun i =>
    lanesOf 8 (viewBits o.q / 8) (viewGet s c o.q ⟨(o.va.val + i) % 32, Nat.mod_lt _ (by decide)⟩)

/-- PICK and PICKK: keep says what a withheld lane keeps. -/
def runPick (c : CoreId) (o : SvOp) (param : Fin 16) (op : Nat) (keep : Bool) (s : State) : State :=
  let n := param.val % 4 + 1
  runSv c 0x33 o (op * 16 + param.val)
    (noReg o.q o.vd || noReg o.q o.va || noReg o.q o.vb || 4 ≤ param.val || o.esz ≠ 0 ||
      (if o.q then 16 else 32) < o.va.val + n) (fun s =>
    let table := pickTable s c o n
    let old := lanesOf 8 (viewBits o.q / 8) (viewGet s c o.q o.vd)
    let ctl := lanesOf 8 (viewBits o.q / 8) (viewGet s c o.q o.vb)
    let res := List.zipWith (fun x d =>
      if x < 128 then table.getD (x % table.length) 0 else if keep then d else 0) ctl old
    .retire (viewSet c o.q o.vd (ofLanes 8 res) s)) s

/-- The other permutes: lanes from the lanes of va and vb. -/
def runPerm (c : CoreId) (o : SvOp) (param : Fin 16) (op : Nat) (bad : Bool) (f : List Nat → List Nat → List Nat)
    (s : State) : State :=
  runSv c 0x33 o (op * 16 + param.val) (noReg o.q o.vd || noReg o.q o.va || noReg o.q o.vb || bad) (fun s =>
    .retire (svWrite c o (f (svLanes s c o o.va) (svLanes s c o o.vb)) s)) s

/-- Two lists taken alternately. -/
def interleave : List Nat → List Nat → List Nat
  | a :: as, b :: bs => a :: b :: interleave as bs
  | _, _ => []

/-- Every second lane from a place on. -/
def everySecond (start n : Nat) (ls : List Nat) : List Nat :=
  (List.range n).map fun j => ls.getD (2 * j + start) 0

/-- PICK (R207): a withheld lane becomes 0. -/
def execPick (c : CoreId) (o : SvOp) (param : Fin 16) (s : State) : Host.Outcome State Fault Refusal :=
  .next (runPick c o param 0 false s)

/-- PICKK (R207): a withheld lane is unchanged. -/
def execPickk (c : CoreId) (o : SvOp) (param : Fin 16) (s : State) : Host.Outcome State Fault Refusal :=
  .next (runPick c o param 1 true s)

/-- MIXLO and MIXHI: alternate lanes of a half of va and vb. Of a view with one lane the rule states no lane, and the
value written is free (log entry 37). -/
def runMix (c : CoreId) (o : SvOp) (param : Fin 16) (op : Nat) (half : List Nat → List Nat) (s : State) : State :=
  runSv c 0x33 o (op * 16 + param.val) (noReg o.q o.vd || noReg o.q o.va || noReg o.q o.vb) (fun s =>
    if laneCount o.q o.esz = 1 then
      let (v, s) := takeFree s
      .retire (svWrite c o [v] s)
    else .retire (svWrite c o (interleave (half (svLanes s c o o.va)) (half (svLanes s c o o.vb))) s)) s

/-- MIXLO (R207). A param other than 0 is not ruled out. -/
def execMixlo (c : CoreId) (o : SvOp) (param : Fin 16) (s : State) : Host.Outcome State Fault Refusal :=
  .next (runMix c o param 2 (fun a => a.take (a.length / 2)) s)

/-- MIXHI (R207). -/
def execMixhi (c : CoreId) (o : SvOp) (param : Fin 16) (s : State) : Host.Outcome State Fault Refusal :=
  .next (runMix c o param 3 (fun a => a.drop (a.length / 2)) s)

/-- SEPEV (R207). -/
def execSepev (c : CoreId) (o : SvOp) (param : Fin 16) (s : State) : Host.Outcome State Fault Refusal :=
  .next (runPerm c o param 4 false (fun a b => everySecond 0 a.length (a ++ b)) s)

/-- SEPOD (R207). -/
def execSepod (c : CoreId) (o : SvOp) (param : Fin 16) (s : State) : Host.Outcome State Fault Refusal :=
  .next (runPerm c o param 5 false (fun a b => everySecond 1 a.length (a ++ b)) s)

/-- SLIDE (R207): bytes of va:vb from the offset param. -/
def execSlide (c : CoreId) (o : SvOp) (param : Fin 16) (s : State) : Host.Outcome State Fault Refusal :=
  .next (runSv c 0x33 o (6 * 16 + param.val)
    (noReg o.q o.vd || noReg o.q o.va || noReg o.q o.vb || viewBits o.q / 8 ≤ param.val) (fun s =>
    let pair := viewGet s c o.q o.va + viewGet s c o.q o.vb * 2 ^ viewBits o.q
    .retire (viewSet c o.q o.vd (pair / 2 ^ (8 * param.val) % 2 ^ viewBits o.q) s)) s)

/-- BCAST (R207): param must be below the lane count. -/
def execBcast (c : CoreId) (o : SvOp) (param : Fin 16) (s : State) : Host.Outcome State Fault Refusal :=
  .next (runPerm c o param 7 (laneCount o.q o.esz ≤ param.val) (fun a _ =>
    List.replicate a.length (a.getD param.val 0)) s)

/-- REVL (R207): vb and param must be 0. -/
def execRevl (c : CoreId) (o : SvOp) (param : Fin 16) (s : State) : Host.Outcome State Fault Refusal :=
  .next (runPerm c o param 8 (param ≠ 0 || o.vb ≠ 0) (fun a _ => a.reverse) s)

/-! ### Moves and reductions (Table 09-2) -/

/-- PUTL: lane vb of vd := low bits of g(va). -/
def execPutl (c : CoreId) (o : SvOp) (s : State) : Host.Outcome State Fault Refusal :=
  .next (runSv c 0x36 o 0 (noReg o.q o.vd || laneCount o.q o.esz ≤ o.vb.val) (fun s =>
    .retire (svWrite c o ((svLanes s c o o.vd).set o.vb.val ((gGet s c o.va).toNat % 2 ^ eszBits o.esz)) s)) s)

/-- A lane or a reduction of va into a g register; vb is a lane index, or a register field that Q bounds (R201). -/
def runToG (c : CoreId) (major op : Nat) (o : SvOp) (bad : Bool) (f : Nat → List Nat → Int) (s : State) : State :=
  runSv c major o op (noReg o.q o.va || noReg o.q o.vb || bad) (fun s =>
    .retire (gSet c o.vd (BitVec.ofInt 64 (f (eszBits o.esz) (svLanes s c o o.va))) s)) s

/-- GETU: g(vd) := lane vb of va, zero-extended. -/
def execGetu (c : CoreId) (o : SvOp) (s : State) : Host.Outcome State Fault Refusal :=
  .next (runToG c 0x36 1 o (laneCount o.q o.esz ≤ o.vb.val) (fun _ ls => (ls.getD o.vb.val 0 : Int)) s)

/-- GETS: g(vd) := lane vb of va, sign-extended. -/
def execGets (c : CoreId) (o : SvOp) (s : State) : Host.Outcome State Fault Refusal :=
  .next (runToG c 0x36 2 o (laneCount o.q o.esz ≤ o.vb.val) (fun w ls => toSigned w (ls.getD o.vb.val 0)) s)

/-- FILL: every lane of vd := low bits of g(va). -/
def execFill (c : CoreId) (o : SvOp) (s : State) : Host.Outcome State Fault Refusal :=
  .next (runSv c 0x36 o 3 (noReg o.q o.vd || noReg o.q o.vb) (fun s =>
    .retire (svWrite c o (List.replicate (laneCount o.q o.esz) ((gGet s c o.va).toNat % 2 ^ eszBits o.esz)) s)) s)

/-- TOPB: g(vd) bit i := bit 7 of byte lane i of va; ESZ must be 0b00. -/
def execTopb (c : CoreId) (o : SvOp) (s : State) : Host.Outcome State Fault Refusal :=
  .next (runToG c 0x36 4 o (o.esz ≠ 0) (fun _ ls => (ofLanes 1 (ls.map (· / 128)) : Int)) s)

/-- The number of ones in w bits. -/
def popCount (w x : Nat) : Nat := (List.range w).foldl (fun n i => if x.testBit i then n + 1 else n) 0

/-- POPC: each lane := its population count. -/
def execPopc (c : CoreId) (o : SvOp) (s : State) : Host.Outcome State Fault Refusal :=
  .next (runSv c 0x36 o 5 (noReg o.q o.vd || noReg o.q o.va || noReg o.q o.vb) (fun s =>
    .retire (svWrite c o ((svLanes s c o o.va).map (popCount (eszBits o.esz))) s)) s)

/-- The lanes as signed integers. -/
def signedLanes (w : Nat) (ls : List Nat) : List Int := ls.map (toSigned w)

/-- A fold of a list that is not empty. -/
def foldFirst {α : Type} (d : α) (f : α → α → α) : List α → α
  | [] => d
  | a :: t => t.foldl f a

/-- RSUM: the sum of signed lanes modulo 2^64. -/
def execRsum (c : CoreId) (o : SvOp) (s : State) : Host.Outcome State Fault Refusal :=
  .next (runToG c 0x37 0 o false (fun w ls => (signedLanes w ls).foldl (· + ·) 0) s)

/-- RSUMU: the sum of unsigned lanes modulo 2^64. -/
def execRsumu (c : CoreId) (o : SvOp) (s : State) : Host.Outcome State Fault Refusal :=
  .next (runToG c 0x37 1 o false (fun _ ls => ((ls.foldl (· + ·) 0 : Nat) : Int)) s)

/-- RMIN: the signed minimum. -/
def execRmin (c : CoreId) (o : SvOp) (s : State) : Host.Outcome State Fault Refusal :=
  .next (runToG c 0x37 2 o false (fun w ls => foldFirst 0 min (signedLanes w ls)) s)

/-- RMAX: the signed maximum. -/
def execRmax (c : CoreId) (o : SvOp) (s : State) : Host.Outcome State Fault Refusal :=
  .next (runToG c 0x37 3 o false (fun w ls => foldFirst 0 max (signedLanes w ls)) s)

/-- RMINU: the unsigned minimum. -/
def execRminu (c : CoreId) (o : SvOp) (s : State) : Host.Outcome State Fault Refusal :=
  .next (runToG c 0x37 4 o false (fun _ ls => ((foldFirst 0 min ls : Nat) : Int)) s)

/-- RMAXU: the unsigned maximum. -/
def execRmaxu (c : CoreId) (o : SvOp) (s : State) : Host.Outcome State Fault Refusal :=
  .next (runToG c 0x37 5 o false (fun _ ls => ((foldFirst 0 max ls : Nat) : Int)) s)

/-! ### Structure loads and stores (R205, R206) -/

/-- The word of an SVLD or SVST (R205). -/
def svMemWord (major : Nat) (rd ra : Reg) (disp : BitVec 10) (k esz : Fin 4) (q : Bool) : BitVec 32 :=
  encI major rd ra (disp.toNat * 64 + k.val * 16 + esz.val * 4 + (if q then 2 else 0))

/-- The start of the access. -/
def svMemAddr (s : State) (c : CoreId) (ra : Reg) (disp : BitVec 10) : Nat :=
  (gGet s c ra + disp.signExtend 64 * 16).toNat

/-- The first of two exceptions by vector number (R184). -/
def lowerTrap (a : Option Trap) (b : Trap) : Option Trap :=
  match a with
  | none => some b
  | some t => if b.vec < t.vec then some b else some t

/-- Pieces of a load: the bytes, and the exception of the lowest vector. -/
def loadPieces (c : CoreId) : List (Nat × Nat) → State → List Byte × Option Trap × State
  | [], s => ([], none, s)
  | (a, n) :: rest, s =>
    match coreLoad c a n false s with
    | (.error t, s) =>
      let (bs, t', s) := loadPieces c rest s
      (bs, lowerTrap t' t, s)
    | (.ok b, s) =>
      let (bs, t', s) := loadPieces c rest s
      (b ++ bs, t', s)

/-- The exception of the lowest vector that the pieces of a store raise. -/
def storeTrap (s : State) (c : CoreId) (pieces : List (Nat × Nat)) : Option Trap :=
  pieces.foldl (fun t (a, n) => match corePlace s c .write a n with
    | .error e => lowerTrap t e
    | .ok _ => t) none

/-- The parity and tag errors that the pieces of a store meet in the L2s are found before any byte is stored (R206, Table 10-2):
the state, and the exception. -/
def storeParity (c : CoreId) : List (Nat × Nat) → State → State × Option Trap
  | [], s => (s, none)
  | (a, n) :: rest, s =>
    match corePlace s c .write a n with
    | .ok (.dev pa _) =>
      if channelFailed s pa then storeParity c rest s
      else match storeCheck c pa n s with
        | (s, some t) => (s, some t)
        | (s, none) => storeParity c rest s
    | _ => storeParity c rest s

/-- Pieces of a store whose places are granted: the state after them, or the exception of the first that meets a lost sector
(Table 10-2). -/
def storePieces (c : CoreId) (bytes : List Byte) (base : Nat) : List (Nat × Nat) → State → Except (Trap × State) State
  | [], s => .ok s
  | (a, n) :: rest, s =>
    match coreStore c a (slice bytes (a - base) n) false s with
    | .error e => .error e
    | .ok s => storePieces c bytes base rest s

/-- The registers rd to rd + K − 1 exist in the view. -/
def svRegsOk (rd : Reg) (k : Fin 4) (q : Bool) : Bool := rd.val + k.val < (if q then 16 else 32)

/-- Register rd + f of a structure access. -/
def svReg (rd : Reg) (f : Nat) : Reg := ⟨(rd.val + f) % 32, Nat.mod_lt _ (by decide)⟩

/-- SVLD (R205, R206): whole or not at all. -/
def execSvld (c : CoreId) (rd ra : Reg) (disp : BitVec 10) (k : Fin 4) (esz : Fin 4) (q : Bool) (s : State) :
    Host.Outcome State Fault Refusal :=
  .next (runCore c false (fun s =>
    let a := svMemAddr s c ra disp
    let size := 2 ^ esz.val
    let kk := k.val + 1
    if !svRegsOk rd k q then illegal (svMemWord 0x34 rd ra disp k esz q) s
    else if a % size ≠ 0 then .trap { vec := 7, val := BitVec.ofNat 64 a } s
    else match loadPieces c (pageSplit a (kk * (viewBits q / 8))) s with
      | (_, some t, s) => .trap t s
      | (bs, none, s) =>
        .retire ((List.range kk).foldl (fun s f =>
          viewSet c q (svReg rd f) (ofLanes (8 * size) ((List.range (laneCount q esz)).map fun j =>
            fld bs ((j * kk + f) * size) size)) s) s)) s)

/-- The bytes an SVST stores. -/
def svstBytes (s : State) (c : CoreId) (rd : Reg) (k esz : Fin 4) (q : Bool) : List Byte :=
  (List.range (laneCount q esz)).flatMap fun j => (List.range (k.val + 1)).flatMap fun f =>
    leBytes (2 ^ esz.val) ((lanesOf (eszBits esz) (laneCount q esz) (viewGet s c q (svReg rd f))).getD j 0)

/-- SVST (R205, R206): whole or not at all. -/
def execSvst (c : CoreId) (rd ra : Reg) (disp : BitVec 10) (k : Fin 4) (esz : Fin 4) (q : Bool) (s : State) :
    Host.Outcome State Fault Refusal :=
  .next (runCore c false (fun s =>
    let a := svMemAddr s c ra disp
    let pieces := pageSplit a ((k.val + 1) * (viewBits q / 8))
    if !svRegsOk rd k q then illegal (svMemWord 0x35 rd ra disp k esz q) s
    else if a % 2 ^ esz.val ≠ 0 then .trap { vec := 7, val := BitVec.ofNat 64 a } s
    else match storeTrap s c pieces with
      | some t => .trap t s
      | none =>
      match storeParity c pieces s with
      | (s, some t) => .trap t s
      | (s, none) =>
      match storePieces c (svstBytes s c rd k esz q) a pieces s with
      | .error (t, s) => .trap t s
      | .ok s => .retire s) s)

end Sys2Proof.Machine
end

