-- ==== Sys2Proof/Machine/LongVec.lean ====
section
/-! DEFINITION. Meanings of the long-vector instructions (R208 to R217). -/

namespace Sys2Proof.Machine

/-- How an element ends: its flags, the COMPRESS count and the state after it, or an exception and what stands. -/
inductive ElemEnd
  | done (fl : FFlags) (out : Nat) (s : State)
  | trap (t : Trap) (s : State)

/-- An element operation by element number and COMPRESS count. -/
abbrev ElemFn := Nat → Nat → State → ElemEnd

/-- Address of element e of an array whose base a g register holds (R208). -/
def lvAddr (s : State) (c : CoreId) (r : Reg) (e size : Nat) : Nat :=
  ((gGet s c r).toNat + e * size) % 2 ^ 64

/-- The tile offset of n bytes of an array operand, or the exception (R210). -/
def lvPlace (s : State) (c : CoreId) (kind : AccKind) (a n : Nat) : Except Trap Nat :=
  if a < 0xFFF00000 || 0x100000000 < a + n then .error { vec := 11, sub := 1, val := BitVec.ofNat 64 a }
  else match corePlace s c kind a n with
    | .error t => .error t
    | .ok (.tile o) => .ok o
    | .ok _ => .error { vec := 11, sub := 1, val := BitVec.ofNat 64 a }

/-- The exception of an access, if it has one. -/
def trapOf {α : Type} : Except Trap α → Option Trap
  | .error t => some t
  | .ok _ => none

/-- The exception with the lowest vector number of several (R184, R214). -/
def lowestTrap (ts : List (Option Trap)) : Option Trap :=
  ts.foldl (fun acc t => match t with
    | some x => lowerTrap acc x
    | none => acc) none

/-- Bytes stored in tile memory. -/
def tilePut (c : CoreId) (off : Nat) (bs : List Byte) (s : State) : State := tileWrite c off bs s

/-- The number in n bytes of tile memory. -/
def tileNat (s : State) (c : CoreId) (off n : Nat) : Nat := leNat (memTake (core s c).tile off n)

/-- The single-bit errors of the tile words that an element reads are corrected (Table 10-2): ranges of offset and length. -/
def lvSeen (c : CoreId) (reads : List (Nat × Nat)) (s : State) : State :=
  reads.foldl (fun s r => tileCorrect c r.1 r.2 s) s

/-- Elements from e up to stop: the first element not performed, flags, COMPRESS count, exception, state. -/
def lvLoop (c : CoreId) (elem : ElemFn) (stop : Nat) : Nat → Nat → FFlags → Nat → State →
    Nat × FFlags × Nat × Option Trap × State
  | 0, e, fl, out, s => (e, fl, out, none, s)
  | fuel + 1, e, fl, out, s =>
    if stop ≤ e then (e, fl, out, none, s)
    else match elem e out s with
      | .trap t s' => (e, fl, out, some t, s')
      | .done f out' s' =>
        let k := core s c
        let sub := highestFlag (f &&& bitsOf k.pstat.toNat 22 17)
        if sub ≠ 0 && precise s c then (e, fl, out, some { vec := 14, sub := sub, val := k.pc }, s)
        else lvLoop c elem stop fuel (e + 1) (fl ||| f) out'
          (coreMod c (fun k => { k with pstat := k.pstat ||| BitVec.ofNat 64 f }) s')

/-- lvi written (Table 09-3). -/
def lviSet (c : CoreId) (index out : Nat) (s : State) : State :=
  coreMod c (fun k => { k with lvi := BitVec.ofNat 64 (out * 2 ^ 32 + index) }) s

/-- A flag that traps imprecisely becomes pending (R191, R215). -/
def lvImprecise (c : CoreId) (fl : FFlags) (s : State) : State :=
  let k := core s c
  let sub := highestFlag (fl &&& bitsOf k.pstat.toNat 22 17)
  if sub ≠ 0 && !precise s c && k.imp.isNone then coreMod c (fun k' => { k' with imp := some (sub, k.pc) }) s
  else s

/-- A long-vector instruction over n elements (R209, R213 to R215). A takable interrupt is pending since
before the instruction, so it yields at the end of its first element group. -/
def lvRun (c : CoreId) (n : Nat) (elem : ElemFn) (finish : Nat → State → State) (s : State) : CoreEnd :=
  let lvi := (core s c).lvi.toNat
  let start := lvi % 2 ^ 32
  let due := takesIntr s c
  let stop := if due then min n ((start / 64 + 1) * 64) else n
  match lvLoop c elem stop (stop - start) start 0 (lvi / 2 ^ 32) s with
  | (e, fl, out, some t, s') =>
    let s' := lvImprecise c fl (lviSet c e out s')
    if (core s c).imp.isNone && (core s' c).imp.isSome then .wait (takeImprecise c s') else .trap t s'
  | (e, fl, out, none, s') =>
    let s' := lvImprecise c fl s'
    if e < n then
      let s' := lviSet c e out s'
      .wait (if (core s' c).imp.isSome then takeImprecise c s' else takeIntr c s')
    else .retire (finish out (lviSet c 0 0 s'))

/-- The word of a long-vector instruction (R208). -/
def lvWord (major : Nat) (o : LvOp) (op : Nat) : BitVec 32 :=
  encR major o.rd o.ra o.rb (o.rc.val * 64 + o.esz.val * 16 + op)

/-- Bytes of an element. -/
def lvSize (o : LvOp) : Nat := 2 ^ o.esz.val

/-- A long-vector instruction with its checks of R208. A takable interrupt that is pending becomes due while it executes, so that
it yields at the end of an element group (R193, R213; log entry 15). -/
def runLv (c : CoreId) (major : Nat) (o : LvOp) (op : Nat) (bad : State → Bool) (elem : ElemFn)
    (finish : Nat → State → State) (s : State) : State :=
  runInstr c false (fun s =>
    let n := (gGet s c o.rc).toNat
    if 2 ^ 20 < n || bad s then illegal (lvWord major o op) s
    else lvRun c n elem finish s) s

/-- Element e of LVARITH: f gives the result and flags from the two sources. -/
def lvArithElem (c : CoreId) (o : LvOp) (f : Nat → Nat → Nat × FFlags) : ElemFn := fun e out s =>
  let n := lvSize o
  match lvPlace s c .read (lvAddr s c o.ra e n) n, lvPlace s c .read (lvAddr s c o.rb e n) n,
        lvPlace s c .write (lvAddr s c o.rd e n) n with
  | .ok a, .ok b, .ok d =>
    let r := f (tileNat s c a n) (tileNat s c b n)
    .done r.2 out (tilePut c d (leBytes n r.1) (lvSeen c [(a, n), (b, n)] s))
  | a, b, d => .trap ((lowestTrap [trapOf a, trapOf b, trapOf d]).getD { vec := 11 }) s

/-- An integer LVARITH instruction. -/
def runLvInt (c : CoreId) (o : LvOp) (op : Nat) (f : LaneFn) (s : State) : State :=
  runLv c 0x38 o op (fun _ => false) (lvArithElem c o (fun a b => (f (8 * lvSize o) a b, 0))) (fun _ s => s) s

/-- A floating-point operation in the format of ESZ. -/
def lvFmt (o : LvOp) (f : FFmt → Nat → Nat → Nat × FFlags) (a b : Nat) : Nat × FFlags :=
  match eszFmt o.esz with
  | some m => f m a b
  | none => (0, 0)

/-- A floating-point LVARITH instruction, with the dynamic rounding (R204, R215). -/
def runLvFp (c : CoreId) (o : LvOp) (op : Nat) (f : Round → FFmt → Nat → Nat → Nat × FFlags) (s : State) : State :=
  runLv c 0x38 o op (fun _ => (eszFmt o.esz).isNone) (lvArithElem c o (lvFmt o (f (dynRound s c))))
    (fun _ s => s) s

/-- Bit e of a bitmap byte string in tile memory written (R36, Table 09-4). -/
def tileBit (c : CoreId) (off bit : Nat) (b : Bool) (s : State) : State :=
  let old := tileNat s c off 1
  tilePut c off (leBytes 1 (setBits old bit bit (if b then 1 else 0))) s

/-- Element e of an LVSEL compare. -/
def lvCmpElem (c : CoreId) (o : LvOp) (f : Nat → Nat → Bool × FFlags) : ElemFn := fun e out s =>
  let n := lvSize o
  match lvPlace s c .read (lvAddr s c o.ra e n) n, lvPlace s c .read (lvAddr s c o.rb e n) n,
        lvPlace s c .write (lvAddr s c o.rd (e / 8) 1) 1 with
  | .ok a, .ok b, .ok d =>
    let r := f (tileNat s c a n) (tileNat s c b n)
    .done r.2 out (tileBit c d (e % 8) r.1 (lvSeen c [(a, n), (b, n)] s))
  | a, b, d => .trap ((lowestTrap [trapOf a, trapOf b, trapOf d]).getD { vec := 11 }) s

/-- An LVSEL integer compare. -/
def runLvCmp (c : CoreId) (o : LvOp) (op : Nat) (f : Nat → Nat → Nat → Bool) (s : State) : State :=
  runLv c 0x39 o op (fun _ => false) (lvCmpElem c o (fun a b => (f (8 * lvSize o) a b, 0))) (fun _ s => s) s

/-- An LVSEL floating-point compare: quiet for equality, signalling for order (R204, R179). -/
def runLvFcmp (c : CoreId) (o : LvOp) (op : Nat) (rel : FRel) (signalling : Bool) (s : State) : State :=
  runLv c 0x39 o op (fun _ => (eszFmt o.esz).isNone) (lvCmpElem c o (fun a b =>
    match eszFmt o.esz with
    | some m => fcmp m rel signalling a b
    | none => (false, 0))) (fun _ s => s) s

/-- Element e of COMPRESS. An element that its bit leaves out must lie in the window too (R210); its bytes are not read. -/
def lvCompressElem (c : CoreId) (o : LvOp) : ElemFn := fun e out s =>
  let n := lvSize o
  let src := lvPlace s c .read (lvAddr s c o.ra e n) n
  match lvPlace s c .read (lvAddr s c o.rb (e / 8) 1) 1 with
  | .error t => .trap ((lowestTrap [some t, trapOf src]).getD t) s
  | .ok m =>
    if (tileNat s c m 1).testBit (e % 8) then
      match src, lvPlace s c .write (lvAddr s c o.rd out n) n with
      | .ok a, .ok d =>
        .done 0 (out + 1) (tilePut c d (memTake (core s c).tile a n) (lvSeen c [(m, 1), (a, n)] s))
      | a, d => .trap ((lowestTrap [trapOf a, trapOf d]).getD { vec := 11 }) s
    else match src with
      | .error t => if t.vec = 11 then .trap t s else .done 0 out (lvSeen c [(m, 1)] s)
      | .ok _ => .done 0 out (lvSeen c [(m, 1)] s)

/-- The address of a gather or scatter element (R211). -/
def lvIndexed (s : State) (c : CoreId) (o : LvOp) (idx : Nat) : Nat :=
  ((gGet s c o.ra).toNat + idx * lvSize o) % 2 ^ 64

/-- Element e of GATHER (R211, R212). -/
def lvGatherElem (c : CoreId) (o : LvOp) : ElemFn := fun e out s =>
  let n := lvSize o
  let d := lvPlace s c .write (lvAddr s c o.rd e n) n
  match lvPlace s c .read (lvAddr s c o.rb e 4) 4 with
  | .error t => .trap ((lowestTrap [some t, trapOf d]).getD t) s
  | .ok i =>
    let a := lvIndexed s c o (tileNat s c i 4)
    if a % n ≠ 0 then .trap ((lowestTrap [some { vec := 7, val := BitVec.ofNat 64 a }, trapOf d]).getD { vec := 7 }) s
    else match coreLoad c a n true s, d with
      | (.ok bs, s'), .ok off => .done 0 out (tilePut c off bs (lvSeen c [(i, 4)] s'))
      | (r, s'), d => .trap ((lowestTrap [trapOf r, trapOf d]).getD { vec := 11 }) s'

/-- Element e of SCATTER (R211, R212). -/
def lvScatterElem (c : CoreId) (o : LvOp) : ElemFn := fun e out s =>
  let n := lvSize o
  let d := lvPlace s c .read (lvAddr s c o.rd e n) n
  match lvPlace s c .read (lvAddr s c o.rb e 4) 4 with
  | .error t => .trap ((lowestTrap [some t, trapOf d]).getD t) s
  | .ok i =>
    let a := lvIndexed s c o (tileNat s c i 4)
    if a % n ≠ 0 then .trap ((lowestTrap [some { vec := 7, val := BitVec.ofNat 64 a }, trapOf d]).getD { vec := 7 }) s
    else match corePlace s c .write a n, d with
      | .ok _, .ok off =>
        match coreStore c a (memTake (core s c).tile off n) true s with
        | .ok s' => .done 0 out (lvSeen c [(i, 4), (off, n)] s')
        | .error (t, s') => .trap t s'
      | r, d => .trap ((lowestTrap [trapOf r, trapOf d]).getD { vec := 11 }) s

/-- Bytes that field e of width b of a bit stream touches: the first byte and their number. -/
def lvBitField (e b : Nat) : Nat × Nat := (e * b / 8, (e * b + b - 1) / 8 - e * b / 8 + 1)

/-- Element e of UNPACK: field e of the stream, zero-extended (R36, Table 09-4). -/
def lvUnpackElem (c : CoreId) (o : LvOp) : ElemFn := fun e out s =>
  let n := lvSize o
  let b := (gGet s c o.rb).toNat
  let w := lvBitField e b
  match lvPlace s c .read (lvAddr s c o.ra w.1 1) w.2, lvPlace s c .write (lvAddr s c o.rd e n) n with
  | .ok a, .ok d =>
    .done 0 out (tilePut c d (leBytes n (tileNat s c a w.2 / 2 ^ (e * b % 8) % 2 ^ b)) (lvSeen c [(a, w.2)] s))
  | a, d => .trap ((lowestTrap [trapOf a, trapOf d]).getD { vec := 11 }) s

/-- Element e of PACK: field e of the stream := the low b bits of ra[e]. -/
def lvPackElem (c : CoreId) (o : LvOp) : ElemFn := fun e out s =>
  let n := lvSize o
  let b := (gGet s c o.rb).toNat
  let w := lvBitField e b
  match lvPlace s c .read (lvAddr s c o.ra e n) n, lvPlace s c .write (lvAddr s c o.rd w.1 1) w.2 with
  | .ok a, .ok d =>
    let lo := e * b % 8
    .done 0 out (tilePut c d (leBytes w.2 (setBits (tileNat s c d w.2) (lo + b - 1) lo (tileNat s c a n)))
      (lvSeen c [(a, n)] s))
  | a, d => .trap ((lowestTrap [trapOf a, trapOf d]).getD { vec := 11 }) s

/-- A width outside 1 to 8 × s (Table 09-4). -/
def badWidth (s : State) (c : CoreId) (o : LvOp) : Bool :=
  let b := (gGet s c o.rb).toNat
  b = 0 || 8 * lvSize o < b

/-- LVARITH ADD (Table 09-4). -/
def execLvAdd (c : CoreId) (o : LvOp) (s : State) : Host.Outcome State Fault Refusal :=
  .next (runLvInt c o 0 laneAdd s)

/-- LVARITH SUB (Table 09-4). -/
def execLvSub (c : CoreId) (o : LvOp) (s : State) : Host.Outcome State Fault Refusal :=
  .next (runLvInt c o 1 laneSub s)

/-- LVARITH MUL (Table 09-4). -/
def execLvMul (c : CoreId) (o : LvOp) (s : State) : Host.Outcome State Fault Refusal :=
  .next (runLvInt c o 2 laneMul s)

/-- LVARITH AND (Table 09-4). -/
def execLvAnd (c : CoreId) (o : LvOp) (s : State) : Host.Outcome State Fault Refusal :=
  .next (runLvInt c o 3 (fun _ a b => a &&& b) s)

/-- LVARITH OR (Table 09-4). -/
def execLvOr (c : CoreId) (o : LvOp) (s : State) : Host.Outcome State Fault Refusal :=
  .next (runLvInt c o 4 (fun _ a b => a ||| b) s)

/-- LVARITH XOR (Table 09-4). -/
def execLvXor (c : CoreId) (o : LvOp) (s : State) : Host.Outcome State Fault Refusal :=
  .next (runLvInt c o 5 (fun _ a b => a ^^^ b) s)

/-- LVARITH MIN (Table 09-4). -/
def execLvMin (c : CoreId) (o : LvOp) (s : State) : Host.Outcome State Fault Refusal :=
  .next (runLvInt c o 6 laneMin s)

/-- LVARITH MAX (Table 09-4). -/
def execLvMax (c : CoreId) (o : LvOp) (s : State) : Host.Outcome State Fault Refusal :=
  .next (runLvInt c o 7 laneMax s)

/-- LVARITH MINU (Table 09-4). -/
def execLvMinu (c : CoreId) (o : LvOp) (s : State) : Host.Outcome State Fault Refusal :=
  .next (runLvInt c o 8 laneMinu s)

/-- LVARITH MAXU (Table 09-4). -/
def execLvMaxu (c : CoreId) (o : LvOp) (s : State) : Host.Outcome State Fault Refusal :=
  .next (runLvInt c o 9 laneMaxu s)

/-- LVARITH FADD (Table 09-4). -/
def execLvFadd (c : CoreId) (o : LvOp) (s : State) : Host.Outcome State Fault Refusal :=
  .next (runLvFp c o 10 (fun r m a b => fadd m r a b) s)

/-- LVARITH FSUB (Table 09-4). -/
def execLvFsub (c : CoreId) (o : LvOp) (s : State) : Host.Outcome State Fault Refusal :=
  .next (runLvFp c o 11 (fun r m a b => fsub m r a b) s)

/-- LVARITH FMUL (Table 09-4). -/
def execLvFmul (c : CoreId) (o : LvOp) (s : State) : Host.Outcome State Fault Refusal :=
  .next (runLvFp c o 12 (fun r m a b => fmul m r a b) s)

/-- LVARITH FDIV (Table 09-4). -/
def execLvFdiv (c : CoreId) (o : LvOp) (s : State) : Host.Outcome State Fault Refusal :=
  .next (runLvFp c o 13 (fun r m a b => fdiv m r a b) s)

/-- LVARITH FMIN (Table 09-4). -/
def execLvFmin (c : CoreId) (o : LvOp) (s : State) : Host.Outcome State Fault Refusal :=
  .next (runLvFp c o 14 (fun _ m a b => fminmax m false a b) s)

/-- LVARITH FMAX (Table 09-4). -/
def execLvFmax (c : CoreId) (o : LvOp) (s : State) : Host.Outcome State Fault Refusal :=
  .next (runLvFp c o 15 (fun _ m a b => fminmax m true a b) s)

/-- LVSEL CMPEQ (Table 09-4). -/
def execLvCmpeq (c : CoreId) (o : LvOp) (s : State) : Host.Outcome State Fault Refusal :=
  .next (runLvCmp c o 0 (fun _ a b => a = b) s)

/-- LVSEL CMPLT (Table 09-4). -/
def execLvCmplt (c : CoreId) (o : LvOp) (s : State) : Host.Outcome State Fault Refusal :=
  .next (runLvCmp c o 1 (fun w a b => decide (toSigned w a < toSigned w b)) s)

/-- LVSEL CMPLTU (Table 09-4). -/
def execLvCmpltu (c : CoreId) (o : LvOp) (s : State) : Host.Outcome State Fault Refusal :=
  .next (runLvCmp c o 2 (fun _ a b => decide (a < b)) s)

/-- LVSEL FCMPEQ (Table 09-4). -/
def execLvFcmpeq (c : CoreId) (o : LvOp) (s : State) : Host.Outcome State Fault Refusal :=
  .next (runLvFcmp c o 3 .eq false s)

/-- LVSEL FCMPLT (Table 09-4). -/
def execLvFcmplt (c : CoreId) (o : LvOp) (s : State) : Host.Outcome State Fault Refusal :=
  .next (runLvFcmp c o 4 .lt true s)

/-- COMPRESS (Table 09-4): on completion g(rc) := the number of elements written. -/
def execCompress (c : CoreId) (o : LvOp) (s : State) : Host.Outcome State Fault Refusal :=
  .next (runLv c 0x39 o 8 (fun _ => false) (lvCompressElem c o)
    (fun out s => gSet c o.rc (BitVec.ofNat 64 out) s) s)

/-- GATHER (R211, R212). -/
def execGather (c : CoreId) (o : LvOp) (s : State) : Host.Outcome State Fault Refusal :=
  .next (runLv c 0x3A o 0 (fun _ => false) (lvGatherElem c o) (fun _ s => s) s)

/-- SCATTER (R211, R212). -/
def execScatter (c : CoreId) (o : LvOp) (s : State) : Host.Outcome State Fault Refusal :=
  .next (runLv c 0x3A o 1 (fun _ => false) (lvScatterElem c o) (fun _ s => s) s)

/-- UNPACK (Table 09-4). -/
def execUnpack (c : CoreId) (o : LvOp) (s : State) : Host.Outcome State Fault Refusal :=
  .next (runLv c 0x3B o 0 (fun s => badWidth s c o) (lvUnpackElem c o) (fun _ s => s) s)

/-- PACK (Table 09-4). -/
def execPack (c : CoreId) (o : LvOp) (s : State) : Host.Outcome State Fault Refusal :=
  .next (runLv c 0x3B o 1 (fun s => badWidth s c o) (lvPackElem c o) (fun _ s => s) s)

end Sys2Proof.Machine
end

