-- ==== Sys2Proof/Machine/MirrorRows.lean ====
section
/-! DEFINITION. The rows that apply mirror records (R409, R410), and those of translation and memory timeouts (R262, R263,
R270). -/

namespace Sys2Proof.Machine

/-! ### Mirror records (Table 20-7) -/

/-- Whether a record is of a kind; the kinds of Table 20-7 in its order. -/
def recKind (r : MRec) : Nat :=
  match r with
  | .entry _ => 1
  | .post _ => 2
  | .retire _ _ _ => 3
  | .queueDef _ _ _ _ => 4
  | .queuePos _ _ _ _ => 4
  | .instAttrs _ _ => 5
  | .floorCounter _ _ _ => 6
  | .floorEpoch _ _ => 6
  | .ack _ => 7

/-- A record is applied: to the device's own state if it hands that back (R420), else to the shadow, which a whole state
replaces from its first record on (Table 20-8 step 2). While PAIRED a counter that the twin secures is the pair's floor (R381);
a FLOOR record that carries PAIR_POLICY sets it (R437). -/
def applyRecord (m : MItem) (s : State) : State :=
  if m.back then applyBack m.body s
  else
    let s := if m.place = 1 then twMod (fun w => { w with shadow := w.shadow.emptied, orphaning := false }) s else s
    let s := twMod (fun w => { w with shadow := applyShadow m.body w.shadow, exchanged := w.exchanged || m.place = 2 }) s
    match m.body with
    | .floorCounter p c policy =>
      let s := if pairState s = 3 then raiseFloor p c s else s
      match policy with
      | some v => setPolicy v s
      | none => s
    | _ => s

/-- The oldest record received is applied, if it is of a kind, and its number is acknowledged (R409). -/
def applyNext (kind : Nat) (s : State) : State :=
  match s.tw.received with
  | [] => s
  | m :: rest =>
    if recKind m.body ≠ kind then s
    else
      let s := applyRecord m (twMod (fun w => { w with received := rest }) s)
      let s := twMod (fun w => { w with applied := m.num }) s
      sendItem false (.ack m.num) s

/-- ENTRY_RECORD (R409). -/
def execEntryRecord (s : State) : Host.Outcome State Fault Refusal := .next (applyNext 1 s)

/-- POST_RECORD (R409). -/
def execPostRecord (s : State) : Host.Outcome State Fault Refusal := .next (applyNext 2 s)

/-- RETIRE_RECORD (R409). -/
def execRetireRecord (s : State) : Host.Outcome State Fault Refusal := .next (applyNext 3 s)

/-- QUEUE_RECORD (R409). -/
def execQueueRecord (s : State) : Host.Outcome State Fault Refusal := .next (applyNext 4 s)

/-- INSTANCE_RECORD (R409). -/
def execInstanceRecord (s : State) : Host.Outcome State Fault Refusal := .next (applyNext 5 s)

/-- FLOOR_RECORD (R409). -/
def execFloorRecord (s : State) : Host.Outcome State Fault Refusal := .next (applyNext 6 s)

/-- A job's wait on the mirror ends: a PENDING entry is accepted, and a POSTING one may be posted (R410, R411). -/
def waitCovered (j : Job) (s : State) : State :=
  if j.jstate = .pending then acceptJob j.jid false s else jobMod j.jid (fun j => { j with awaits := none }) s

/-- Whether the acknowledgements so far cover a record: one that a link lost is never covered (R404, R410). -/
def recordAcked (s : State) (n : Nat) : Bool := n ≤ s.tw.acked && !s.tw.lost.contains n

/-- Every wait on the records up to a number ends: jobs in order of acceptance, then a critical write's counter and a claim's
epoch (R410, R412). -/
def acknowledge (num : Nat) (s : State) : State :=
  let s := twMod (fun w => { w with acked := max w.acked num }) s
  let covered := s.js.jobs.filter fun j => match j.awaits with
    | some n => recordAcked s n
    | none => false
  claimSecured (mirrorSecured s.tw.acked (covered.foldl (fun s j => waitCovered j s) s))

/-- MIRROR_ACK (R410). -/
def execMirrorAck (s : State) : Host.Outcome State Fault Refusal :=
  .next (unlessHold s (match s.tw.received with
    | [] => s
    | m :: rest =>
      match m.body with
      | .ack num => acknowledge num (twMod (fun w => { w with received := rest }) s)
      | _ => s))

/-! ### Translation (R262, R263) -/

/-- Whether an invalidation covers a cached translation: those of its instance, in its range or all. -/
def covers (v : Invalidation) (e : TlbEntry) : Bool :=
  e.ctx = .inst v.inst &&
  (v.length = 0 || (e.page < v.start + v.length && v.start < e.page + e.leaf.size))

/-- INVALIDATE_DONE (R262): the oldest invalidation completes. -/
def execInvalidateDone (s : State) : Host.Outcome State Fault Refusal :=
  .next (match s.ms.invals with
    | [] => s
    | v :: rest =>
      let tlb := s.ms.tlb.filter fun e => !covers v e
      odBump 0x2301 2 { s with ms := { s.ms with invals := rest, tlb := tlb } })

/-- ATS_INVALIDATE (R263): no access is under way between commands, so the request completes. -/
def execAtsInvalidate (link : Link) (_address : Nat) (_length : Nat) (s : State) : Host.Outcome State Fault Refusal :=
  .next (emit (.atsDone link.val) s)

/-! ### Memory timeouts (R270) -/

/-- A load or fetch of a core with no response enters vector 13; task code fails its job with it (R197, R270). -/
def loadTimeout (c : CoreId) (address walkEntry : Nat) (s : State) : State :=
  takeTrap c { vec := 13, val := BitVec.ofNat 64 address, walk := walkEntry } (core s c).pc false s

/-- A memory access of a core that has no response: a load takes its entry; a store of the runtime or the firmware is recorded
in the RAS log alone, and one of task code fails the job (R270). -/
def coreTimeout (c : CoreId) (address walkEntry : Nat) (store : Bool) (s : State) : State :=
  if !store then loadTimeout c address walkEntry s
  else match (core s c).task, coreLevel s c with
    | some slot, .t => failTask slot 0x0304 { address := address, detail2 := walkEntry } s
    | _, _ => rasEvent 1 0 address 0x0304 0 s

/-- MEMORY_TIMEOUT (R270): an access of a core has the core's outcome, and any other fails its task's job. A number of 65,536 or
above names the core 65,536 below it, which may hold no task (log entry 53). A timeout for a task that is gone is late, and
discarded (R253). -/
def execMemoryTimeout (slot : Nat) (address : Nat) (walkEntry : Nat) (store : Bool) (s : State) :
    Host.Outcome State Fault Refusal :=
  .next (unlessHold s (
    if h : 65536 ≤ slot ∧ slot - 65536 < 128 then coreTimeout ⟨slot - 65536, h.2⟩ address walkEntry store s
    else match taskAt s slot with
    | none => s
    | some t =>
      if h : t.unit < 128 then coreTimeout ⟨t.unit, h⟩ address walkEntry store s
      else
        let s := if 0xB8 ≤ t.unit && t.unit ≤ 0xBB then odBump (0x3F00 + (t.unit - 0xB8)) 8 s else s
        failTask slot 0x0304 { address := address, detail2 := walkEntry } s))

end Sys2Proof.Machine
end

