-- ==== Sys2Proof/Machine/Pins.lean ====
section
/-! DEFINITION. Pins, reference clocks, the management port's other frames, the Glume parity pass (R142, R398, R424, R425,
R490, R498). -/

namespace Sys2Proof.Machine

/-! ### Glume parity (R398, R482) -/

/-- Stages that use a Glume group: LOOKUP holds it as its unit, SCAN beside its own. -/
def groupUsers (s : State) (g : Nat) : List Nat :=
  slotsWhere s fun t => t.unit = 0xB0 + g || t.extra.contains (0xB0 + g)

/-- A group of a stage leaves service on repeated parity: at its first error never, later as the device chooses. -/
def countGroupError (g : Nat) (s : State) : State :=
  let n := tget 0 s.js.glumeErrors g + 1
  let t := tset s.js.glumeErrors g n
  let s := { s with js := { s.js with glumeErrors := t } }
  if 2 ≤ n && Config.glumeRetires n && !s.js.glumeOut.contains g then
    let out := s.js.glumeOut ++ [g]
    unitLeft (0xB0 + g) { s with js := { s.js with glumeOut := out } }
  else s

/-- The bank group that holds a bank. -/
def bankGroup (s : State) (bank : Nat) : Option Nat := (s.js.groups.find? fun e => e.2.banks.contains bank).map (·.1)

/-- A parity error in a row, which the pass has found: in group 0 the runtime rewrites the entry, in a stage's group the job
fails; in a bank that no group holds it is counted. It counts once (log entry 66). -/
def parityError (bank row : Nat) (s : State) : State :=
  let s := healRows (fun x => x = (bank, row)) s
  match bankGroup s bank with
  | none => odBump 0x3E00 3 s
  | some 0 => repairClass ((group s 0).entryOf bank row) s
  | some g => countGroupError g ((groupUsers s g).foldl (fun s k => failTask k 0x0502 {} s) (odBump 0x3E00 3 s))

/-- The zone of a bank's group; the banks that no group holds have none. -/
def bankLive (s : State) (bank : Nat) : Bool :=
  match bankGroup s bank with
  | some g => zoneOn s (zoneOf (0xB0 + g))
  | none => true

/-- GLUME_PARITY_PASS (R398): the rows that hold an error, those known before and those the pass finds, by bank and row; the
groups of a gated zone are not checked. Then the rows that take an error after the pass hold it. -/
def execGlumeParityPass (errors : ParityPass) (s : State) : Host.Outcome State Fault Refusal :=
  let all := ((s.js.badRows ++ errors.errors).filter fun x => bankLive s x.1).eraseDups
  .next (if s.mode = .off || s.mode = .fuseLoad then s
    else
      let s := all.foldl (fun s x => parityError x.1 x.2 s) s
      { s with js := { s.js with badRows := (s.js.badRows ++ errors.upsets).eraseDups } })

/-! ### Clocks and ports (R142, R498) -/

/-- A port's window without a clock. -/
def deadWindow : PortWindow := { link := false, sym := 0, unc := 0, skewed := false }

/-- REFCLK_LOSS (R498). -/
def execRefclkLoss (clock : RefClk) (s : State) : Host.Outcome State Fault Refusal :=
  .next (if s.mode = .off then s
    else match clock with
      | .timeref => fatal 4 s
      | .eth => windowEnds 1 deadWindow deadWindow (windowEnds 0 deadWindow deadWindow s)
      | .kol => linkDown s
      | .cxl p => [2 * p.val, 2 * p.val + 1].foldl (fun s l => odSet (0x2410 + l) 1 0 (odSet (0x2410 + l) 2 0 s)) s)

/-- PORT_TRAINING_DONE (Table 07-6). -/
def execPortTrainingDone (port : Fin 4) (up : Bool) (s : State) : Host.Outcome State Fault Refusal :=
  let idx := 0x2800 + port.val
  .next (if od s idx 1 = 1 then odSet idx 1 (if up then 2 else 0) s else s)

/-! ### TAP (R490) -/

/-- The instruction that takes effect: EXTEST only while SYS_RESET_N is low; a code the TAP lacks selects BYPASS. -/
def tapEffective (s : State) (ir : TapIr) : TapIr :=
  match ir with
  | .extest => if s.pins.resetLow then .extest else .bypass
  | .other => .bypass
  | x => x

/-- TAP_INSTRUCTION (R490): BYPASS captures 0, IDCODE the device's code, the boundary chain a free value. -/
def execTapInstruction (ir : TapIr) (s : State) : Host.Outcome State Fault Refusal :=
  let e := tapEffective s ir
  let s := { s with pins := { s.pins with tap := e } }
  .next (match e with
    | .bypass => emit (.tap e 0) s
    | .idcode => emit (.tap e 0x14812A5F) s
    | _ =>
      let (v, s) := takeFree s
      emit (.tap e v) s)

/-! ### The management port (R424, R425) -/

/-- The link-local address formed from the modified EUI-64 of a MAC address. -/
def linkLocal (mac : List Byte) : List Byte :=
  [0xFE, 0x80, 0, 0, 0, 0, 0, 0, mac.getD 0 0 ^^^ 2] ++ slice mac 1 2 ++ [0xFF, 0xFE] ++ slice mac 3 3

/-- MGMT_MAC in transmission order. -/
def mgmtMac (s : State) : List Byte := leBytes 6 (od s 0x1000 6)

/-- MAC address of the pair node (R436). -/
def pairMac (s : State) : List Byte := 0x06 :: (leBytes 5 (pairId s)).reverse

/-- Whether an address is the device's own, or the pair node's while it holds that. -/
def ownAddress (s : State) (a : List Byte) : Bool :=
  a = linkLocal (mgmtMac s) || (pairId s ≠ 0 && role s = 1 && a = linkLocal (pairMac s))

/-- A datagram to VDP_PORT (R427): malformed ones are dropped and counted, a cyclic frame of the twin shows it alive (R417), a
CLAIM with a whole body is acted on (R438), and a message of an unknown TYPE is a request like any other. -/
def mgmtDatagram (src : VdpSrc) (m : List Byte) (s : State) : State :=
  if !headerFits m then odBump 0x1102 4 s
  else if fld m 3 1 = 0x10 then
    (if od s 0x2C00 6 ≠ 0 && fld m 16 8 = od s 0x2C00 6 then twMod (fun w => { w with heard := true }) s else s)
  else if fld m 3 1 = 0x11 then
    (if fld m 8 2 = 24 then claimArrives (claimOf (vdpBody m)) s else odBump 0x1102 7 s)
  else vdpArrive src m s

/-- MANAGEMENT_FRAME (R425): the port sends nothing before CONFIG_LOAD. -/
def execManagementFrame (frame : MgmtFrame) (s : State) : Host.Outcome State Fault Refusal :=
  .next (if !vdpLive s then s
    else match frame with
      | .neighbour a => if ownAddress s a then emit (.mgmtReply (.neighbour a)) s else s
      | .echo a p => if ownAddress s a then emit (.mgmtReply (.echo a p)) s else s
      | .datagram src port m => if port = od s 0x1100 5 then mgmtDatagram src m s else s
      | .other => s)

/-- The coordinator, node ID 0, sends the BEACON, for PLCA_NODE_COUNT nodes (R424). -/
def sendBeacon (s : State) : State :=
  if vdpLive s && od s 0x1100 1 = 0 then emit (.beacon (od s 0x1100 2)) s else s

/-- PLCA_BEACON (R424): a BEACON is seen, which the coordinator has itself sent, or none is; and whether the field network's
link is up (R413; log entry 70). -/
def execPlcaBeacon (seen : PlcaTurn) (s : State) : Host.Outcome State Fault Refusal :=
  .next (if s.mode = .off then s
    else
      let s := odSet 0x1100 4 seen.seen.toNat { s with vd := { s.vd with netUp := seen.link } }
      if seen.seen then sendBeacon s else s)

end Sys2Proof.Machine
end

