-- ==== Sys2Proof/Machine/TillerEnc.lean ====
section
/-! DEFINITION. Which instruction words are illegal whatever the registers hold, and the meaning of
ILLEGAL_INSTRUCTION (R177 to R180, R190, R196, R201 to R208, R227). -/

namespace Sys2Proof.Machine

/-- Fields of an instruction word (Table 08-5). -/
structure Fields where
  major : Nat
  rd : Nat
  ra : Nat
  rb : Nat
  func : Nat
  imm : Nat
  deriving DecidableEq, Repr

/-- The fields of a word. -/
def fieldsOf (w : BitVec 32) : Fields :=
  let n := w.toNat
  { major := bitsOf n 31 26, rd := bitsOf n 25 21, ra := bitsOf n 20 16, rb := bitsOf n 15 11
    func := bitsOf n 10 0, imm := bitsOf n 15 0 }

/-- FPU words (R178). -/
def badFpu (f : Fields) : Bool :=
  let op := bitsOf f.func 10 6
  let rm := bitsOf f.func 4 2
  7 < op || bitsOf f.func 1 0 ≠ 0 || (3 < rm && rm ≠ 7) || (op = 4 && f.rb ≠ 0)

/-- FCVT words (R179). -/
def badFcvt (f : Fields) : Bool :=
  let op := bitsOf f.func 10 6
  let rm := bitsOf f.func 4 2
  7 < op || bitsOf f.func 1 0 ≠ 0 || f.rb ≠ 0 ||
  (if op = 6 || op = 7 then bitsOf f.func 5 2 ≠ 0 else 3 < rm && rm ≠ 7)

/-- FCMP words (R179). -/
def badFcmp (f : Fields) : Bool :=
  let op := bitsOf f.func 10 6
  6 < op || bitsOf f.func 4 0 ≠ 0 || (op = 6 && f.rb ≠ 0)

/-- SHIFTI words (R180). -/
def badShifti (f : Fields) : Bool :=
  bitsOf f.imm 12 6 ≠ 0 || (f.imm.testBit 13 && 32 ≤ bitsOf f.imm 5 0)

/-- SYS words (R190, R174). -/
def badSys (f : Fields) : Bool :=
  match f.rd with
  | 0 | 1 | 9 => f.ra ≠ 0
  | 2 | 3 | 6 | 7 | 8 => f.ra ≠ 0 || f.imm ≠ 0
  | 4 | 5 => !([0, 1, 0x10, 0x11, 0x12, 0x20, 0x21, 0x22, 0x23, 0x30].contains f.imm)
  | _ => true

/-- CACHE words (R227, Table 10-3). -/
def badCache (f : Fields) : Bool :=
  f.func ≠ 0 || 13 < f.rd || f.rd = 7 || f.rd = 11 || (f.rd < 4 && f.rb ≠ 0)

/-- Short-vector R-format words (R201 to R207). -/
def badSvWord (f : Fields) : Bool :=
  let q := f.func.testBit 10
  let esz := bitsOf f.func 9 8
  let low := bitsOf f.func 7 0
  let wide := fun (r : Nat) => q && 16 ≤ r
  let lanes := (if q then 16 else 8) / 2 ^ esz
  match f.major with
  | 0x30 => 0x13 < low || wide f.rd || wide f.ra || wide f.rb
  | 0x31 => 2 < bitsOf low 1 0 || f.rb ≠ 0 || wide f.rd || wide f.ra || 8 * 2 ^ esz ≤ bitsOf low 7 2
  | 0x32 => 0x0C < low || esz < 2 || wide f.rd || wide f.ra || wide f.rb ||
      ((low = 4 || low = 0x0B || low = 0x0C) && f.rb ≠ 0)
  | 0x33 =>
    let op := bitsOf low 7 4
    let param := bitsOf low 3 0
    8 < op || wide f.rd || wide f.ra || wide f.rb ||
    (op < 2 && (3 < param || esz ≠ 0 || (if q then 16 else 32) < f.ra + param + 1)) ||
    (op = 6 && (if q then 16 else 8) ≤ param) || (op = 7 && lanes ≤ param) ||
    (op = 8 && (param ≠ 0 || f.rb ≠ 0))
  | 0x36 =>
    5 < low || ((low = 0 || low = 3 || low = 5) && wide f.rd) || ((low = 1 || low = 2 || 4 ≤ low) && wide f.ra) ||
    (low < 3 && lanes ≤ f.rb) || (3 ≤ low && wide f.rb) || (low = 4 && esz ≠ 0)
  | _ => 5 < low || wide f.ra || wide f.rb

/-- SVLD and SVST words (R205). -/
def badSvMem (f : Fields) : Bool :=
  f.imm.testBit 0 || (if f.imm.testBit 1 then 16 else 32) < f.rd + bitsOf f.imm 5 4 + 1

/-- Long-vector words (R208, Table 09-4). -/
def badLvWord (f : Fields) : Bool :=
  let op := bitsOf f.func 3 0
  let esz := bitsOf f.func 5 4
  match f.major with
  | 0x38 => 9 < op && esz < 2
  | 0x39 => (4 < op && op ≠ 8) || ((op = 3 || op = 4) && esz < 2)
  | _ => 1 < op

/-- Whether a word has an illegal, reserved or unassigned encoding (R177). -/
def wordIllegal (w : BitVec 32) : Bool :=
  let f := fieldsOf w
  match f.major with
  | 0x01 | 0x02 => 0x00F < f.func || (f.func = 0x00F && f.rb ≠ 0)
  | 0x03 => 0x006 < f.func
  | 0x08 => f.ra ≠ 0
  | 0x09 => badShifti f
  | 0x0B => 0x002 < f.func
  | 0x1D => 0x001 < f.func || (f.func = 0 && f.rb ≠ 0)
  | 0x1E => 31 < f.imm || f.rd ≠ 0 || f.ra ≠ 0
  | 0x1F => badCache f
  | 0x2D => badFpu f
  | 0x2E => badFcvt f
  | 0x2F => badFcmp f
  | 0x34 | 0x35 => badSvMem f
  | 0x30 | 0x31 | 0x32 | 0x33 | 0x36 | 0x37 => badSvWord f
  | 0x38 | 0x39 | 0x3A | 0x3B => badLvWord f
  | 0x3C => 4 < bitsOf f.imm 15 12 || bitsOf f.imm 11 4 ≠ 0
  | 0x3D => badSys f
  | 0x00 | 0x0C | 0x0D | 0x0E | 0x0F | 0x3E | 0x3F => true
  | _ => false

/-- ILLEGAL_INSTRUCTION (R177): the vector is taken with the word. A word that is legal is no such event. -/
def execIllegalInstruction (c : CoreId) (word : BitVec 32) (s : State) : Host.Outcome State Fault Refusal :=
  .next (if wordIllegal word then runCore c false (illegal word) s else s)

end Sys2Proof.Machine
end

