-- ==== Sys2Proof/Machine/TillerFp.lean ====
section
/-! DEFINITION. Meanings of the scalar floating-point instructions (R178, R179, R200). -/

namespace Sys2Proof.Machine

/-- The rounding an instruction's field selects (R178). -/
def rmOf (s : State) (c : CoreId) : FRm → Round
  | .nearestEven => .nearestEven
  | .towardZero => .towardZero
  | .up => .up
  | .down => .down
  | .dynamic => dynRound s c

/-- A scalar operand of a format: binary32 reads bits 31:0 only (R200). -/
def fOperand (s : State) (c : CoreId) (fmt : FFmt) (r : Reg) : Nat := (fGet s c r).toNat % 2 ^ fmt.width

/-- A scalar result: a binary32 result writes bits 63:32 as 0 (R200). -/
def fWrite (c : CoreId) (rd : Reg) (v : Nat) (s : State) : State := fSet c rd (BitVec.ofNat 64 v) s

/-- f(rd) := op of f(ra), f(rb) and f(rd), with the flags it raises (R178, R191). -/
def runFpu (c : CoreId) (rd ra rb : Reg) (fmt : FFmt) (rm : FRm)
    (op : FFmt → Round → Nat → Nat → Nat → Nat × FFlags) (s : State) : State :=
  runCore c false (fun s =>
    let r := op fmt (rmOf s c rm) (fOperand s c fmt ra) (fOperand s c fmt rb) (fOperand s c fmt rd)
    arith c r.2 false (fWrite c rd r.1) s) s

/-- g(rd) := op of f(ra), with flags (R179). -/
def runFtoG (c : CoreId) (rd ra : Reg) (fmt : FFmt) (rm : FRm)
    (op : FFmt → Round → Nat → Nat × FFlags) (s : State) : State :=
  runCore c false (fun s =>
    let r := op fmt (rmOf s c rm) (fOperand s c fmt ra)
    arith c r.2 false (gSet c rd (BitVec.ofNat 64 r.1)) s) s

/-- f(rd) := an integer g(ra) converted (R179). -/
def runGtoF (c : CoreId) (rd ra : Reg) (fmt : FFmt) (rm : FRm) (read : Word → Int) (s : State) : State :=
  runCore c false (fun s =>
    let r := inttof fmt (rmOf s c rm) (read (gGet s c ra))
    arith c r.2 false (fWrite c rd r.1) s) s

/-- A comparison of R179: g(rd) := 1 when the relation holds. -/
def runFcmp (c : CoreId) (rd ra rb : Reg) (fmt : FFmt) (rel : FRel) (signalling : Bool) (s : State) : State :=
  runCore c false (fun s =>
    let r := fcmp fmt rel signalling (fOperand s c fmt ra) (fOperand s c fmt rb)
    arith c r.2 false (gSet c rd (b2w r.1)) s) s

/-- FADD (R178). -/
def execFadd (c : CoreId) (rd ra rb : Reg) (fmt : FFmt) (rm : FRm) (s : State) : Host.Outcome State Fault Refusal :=
  .next (runFpu c rd ra rb fmt rm (fun f r a b _ => fadd f r a b) s)

/-- FSUB (R178). -/
def execFsub (c : CoreId) (rd ra rb : Reg) (fmt : FFmt) (rm : FRm) (s : State) : Host.Outcome State Fault Refusal :=
  .next (runFpu c rd ra rb fmt rm (fun f r a b _ => fsub f r a b) s)

/-- FMUL (R178). -/
def execFmul (c : CoreId) (rd ra rb : Reg) (fmt : FFmt) (rm : FRm) (s : State) : Host.Outcome State Fault Refusal :=
  .next (runFpu c rd ra rb fmt rm (fun f r a b _ => fmul f r a b) s)

/-- FDIV (R178). -/
def execFdiv (c : CoreId) (rd ra rb : Reg) (fmt : FFmt) (rm : FRm) (s : State) : Host.Outcome State Fault Refusal :=
  .next (runFpu c rd ra rb fmt rm (fun f r a b _ => fdiv f r a b) s)

/-- FMIN (R178). -/
def execFmin (c : CoreId) (rd ra rb : Reg) (fmt : FFmt) (rm : FRm) (s : State) : Host.Outcome State Fault Refusal :=
  .next (runFpu c rd ra rb fmt rm (fun f _ a b _ => fminmax f false a b) s)

/-- FMAX (R178). -/
def execFmax (c : CoreId) (rd ra rb : Reg) (fmt : FFmt) (rm : FRm) (s : State) : Host.Outcome State Fault Refusal :=
  .next (runFpu c rd ra rb fmt rm (fun f _ a b _ => fminmax f true a b) s)

/-- FMAC (R178). -/
def execFmac (c : CoreId) (rd ra rb : Reg) (fmt : FFmt) (rm : FRm) (s : State) : Host.Outcome State Fault Refusal :=
  .next (runFpu c rd ra rb fmt rm (fmac) s)

/-- FSQRT (R178). -/
def execFsqrt (c : CoreId) (rd ra : Reg) (fmt : FFmt) (rm : FRm) (s : State) : Host.Outcome State Fault Refusal :=
  .next (runFpu c rd ra 0 fmt rm (fun f r a _ _ => fsqrt f r a) s)

/-- FTOI (R179). -/
def execFtoi (c : CoreId) (rd ra : Reg) (fmt : FFmt) (rm : FRm) (s : State) : Host.Outcome State Fault Refusal :=
  .next (runFtoG c rd ra fmt rm (fun f r a => ftoint f r true a) s)

/-- FTOU (R179). -/
def execFtou (c : CoreId) (rd ra : Reg) (fmt : FFmt) (rm : FRm) (s : State) : Host.Outcome State Fault Refusal :=
  .next (runFtoG c rd ra fmt rm (fun f r a => ftoint f r false a) s)

/-- ITOF (R179). -/
def execItof (c : CoreId) (rd ra : Reg) (fmt : FFmt) (rm : FRm) (s : State) : Host.Outcome State Fault Refusal :=
  .next (runGtoF c rd ra fmt rm (fun w => w.toInt) s)

/-- UTOF (R179). -/
def execUtof (c : CoreId) (rd ra : Reg) (fmt : FFmt) (rm : FRm) (s : State) : Host.Outcome State Fault Refusal :=
  .next (runGtoF c rd ra fmt rm (fun w => (w.toNat : Int)) s)

/-- FTOF (R179): f(ra) in the other format, converted into fmt. -/
def execFtof (c : CoreId) (rd ra : Reg) (fmt : FFmt) (rm : FRm) (s : State) : Host.Outcome State Fault Refusal :=
  .next (runCore c false (fun s =>
    let src : FFmt := match fmt with
      | .b32 => .b64
      | .b64 => .b32
    let r := ftof fmt (rmOf s c rm) (fOperand s c src ra)
    arith c r.2 false (fWrite c rd r.1) s) s)

/-- FINT (R179): rounded to an integral value in the same format. -/
def execFint (c : CoreId) (rd ra : Reg) (fmt : FFmt) (rm : FRm) (s : State) : Host.Outcome State Fault Refusal :=
  .next (runFpu c rd ra 0 fmt rm (fun f r a _ _ => fint f r a) s)

/-- FBITS (R179): the 64 bits of f(ra), unchanged. -/
def execFbits (c : CoreId) (rd ra : Reg) (s : State) : Host.Outcome State Fault Refusal :=
  .next (runCore c false (fun s => .retire (gSet c rd (fGet s c ra) s)) s)

/-- GBITS (R179): the 64 bits of g(ra), unchanged. -/
def execGbits (c : CoreId) (rd ra : Reg) (s : State) : Host.Outcome State Fault Refusal :=
  .next (runCore c false (fun s => .retire (fSet c rd (gGet s c ra) s)) s)

/-- FEQ (R179). -/
def execFeq (c : CoreId) (rd ra rb : Reg) (fmt : FFmt) (s : State) : Host.Outcome State Fault Refusal :=
  .next (runFcmp c rd ra rb fmt .eq false s)

/-- FLT (R179). -/
def execFlt (c : CoreId) (rd ra rb : Reg) (fmt : FFmt) (s : State) : Host.Outcome State Fault Refusal :=
  .next (runFcmp c rd ra rb fmt .lt true s)

/-- FLE (R179). -/
def execFle (c : CoreId) (rd ra rb : Reg) (fmt : FFmt) (s : State) : Host.Outcome State Fault Refusal :=
  .next (runFcmp c rd ra rb fmt .le true s)

/-- FLTQ (R179). -/
def execFltq (c : CoreId) (rd ra rb : Reg) (fmt : FFmt) (s : State) : Host.Outcome State Fault Refusal :=
  .next (runFcmp c rd ra rb fmt .lt false s)

/-- FLEQ (R179). -/
def execFleq (c : CoreId) (rd ra rb : Reg) (fmt : FFmt) (s : State) : Host.Outcome State Fault Refusal :=
  .next (runFcmp c rd ra rb fmt .le false s)

/-- FUNORD (R179). -/
def execFunord (c : CoreId) (rd ra rb : Reg) (fmt : FFmt) (s : State) : Host.Outcome State Fault Refusal :=
  .next (runFcmp c rd ra rb fmt .unord false s)

/-- FCLASS (R179): the class code; it sets no flag. -/
def execFclass (c : CoreId) (rd ra : Reg) (fmt : FFmt) (s : State) : Host.Outcome State Fault Refusal :=
  .next (runCore c false (fun s =>
    .retire (gSet c rd (BitVec.ofNat 64 (fclass fmt (fOperand s c fmt ra))) s)) s)

end Sys2Proof.Machine
end

