-- ==== Sys2Proof/Machine/Tun.lean ====
section
/-! DEFINITION. Tun engines: SOURCE, SINK_DEVICE, SINK_HOST, descriptors, requests (chapter 16). -/

namespace Sys2Proof.Machine

/-! ### Channels -/

/-- Dictionary index of a channel's engine. -/
def tunIdx (t : Task) : Nat := 0x3F00 + (t.unit - 0xB8)

/-- CHANNEL_STATE of a task's channel. -/
def setChannel (t : Task) (v : Nat) (s : State) : State := odSet (tunIdx t) (0x40 + t.sub) v s

/-- The channel of a task changed. -/
def tunMod (slot : Nat) (f : TunState → TunState) (s : State) : State := engMod slot (fun e => { e with tun := f e.tun }) s

/-- A SOURCE stage. -/
def isSource (s : State) (t : Task) : Bool := (taskStage s t).op = 0x80

/-- A sink stage of Tun. -/
def isSink (s : State) (t : Task) : Bool := (taskStage s t).op = 0x81 || (taskStage s t).op = 0x82

/-- Where a Tun stage's memory lies: SINK_HOST's is the host's (R334). -/
def tunLoc (s : State) (t : Task) : Loc := if (taskStage s t).op = 0x82 then .host else .device

/-- HOP_LIMIT of a stage (R334). -/
def hopLimit (s : State) (t : Task) : Nat :=
  let h := fld (taskOperand s t) 4 4
  if h = 0 then od s 0x3F10 1 else h

/-- A Tun access failed (R342). -/
def tunAccess (slot : Nat) (t : Task) (write : Bool) (e : AccFail) (s : State) : State :=
  let s := match e.err with
    | .noResponse _ => odBump (tunIdx t) 8 s
    | _ => s
  accessFailed slot write t.sub e s

/-- T of a descriptor (R338). -/
def TunState.size (c : TunState) : Nat := c.rowBytes * c.rows

/-- The channel of a LINEAR stage: one descriptor without write-back (R343). -/
def linearTun (addr len : Nat) : TunState := { addr := addr, rowBytes := max 1 len, rows := if len = 0 then 0 else 1, phase := .moving }

/-- Boundaries that a request of a stage does not cross: 256 bytes, and in host memory the link's maximum payload size too
(R347). -/
def requestAlign (s : State) (t : Task) : Nat :=
  if tunLoc s t = .host then min 256 (maxPayload s (instLink s t.inst)) else 256

/-- Bytes of one request from k: one row, one aligned block (R347). -/
def requestLen (c : TunState) (align limit : Nat) : Nat :=
  let a := c.place c.k
  min limit (min (c.rowBytes - c.k % c.rowBytes) (align - a % align))

/-- A channel starts: the first descriptor of its chain or its one run (R334, R340). -/
def startTun (slot : Nat) (t : Task) (s : State) : State :=
  let (addr, len) := taskBuffer s t 0
  let c : TunState := if tunChained (taskStage s t) (taskOperand s t) then { at_ := addr } else linearTun addr len
  let c := if isSource s t && len = 0 then { c with phase := .ended } else c
  setChannel t 1 (engMod slot (fun e => { e with started := true, tun := c }) s)

/-! ### Ends of descriptors -/

/-- A descriptor ends: its flags are counted and its write-back becomes due; `more` says whether the chain goes on
to NEXT (R339, R343). -/
def endDescriptor (slot : Nat) (t : Task) (short long : Bool) (dropped : Nat) (more : Bool) (s : State) : State :=
  let s := if short then odBump (tunIdx t) 4 s else s
  let s := if long then odBump (tunIdx t) 5 s else s
  let s := odAdd (tunIdx t) 6 dropped s
  tunMod slot (fun c =>
    { c with
      short := short, long := long, dropped := dropped
      at_ := if c.wb then c.at_ else c.next
      phase := if c.wb then .writeback more else if more then .fetch else .ended }) s

/-- After each read of a SOURCE: the descriptor or the chain may have ended (R340, R344). -/
def sourceEnds (slot : Nat) (t : Task) (s : State) : State :=
  match taskAt s slot with
  | none => s
  | some u =>
    let c := u.eng.tun
    let cap := (taskBuffer s t 0).2
    let w := match outEnt s t 0 with
      | some x => max 1 (elemWidth (taskImg s t) x.ty x.layout)
      | none => 1
    let full : Bool := c.k = c.size
    let last : Bool := (full && c.next = 0) || cap ≤ c.total
    if !full && !last then s
    else
      let frag := if last then c.total % w else 0
      endDescriptor slot t (!full) (0 < frag) frag (!last) s

/-- After each write of a sink: a full descriptor ends, or the last begins to drop (R343). -/
def sinkEnds (slot : Nat) (t : Task) (s : State) : State :=
  match taskAt s slot with
  | none => s
  | some u =>
    let c := u.eng.tun
    if c.k < c.size then s
    else if c.next = 0 then tunMod slot (fun c => { c with phase := .dropping }) s
    else endDescriptor slot t false false 0 true s

/-! ### Requests (R345 to R347) -/

/-- FILL_HIGH and FILL_LOW in bytes. -/
def fillHigh (s : State) : Nat := 1024 * od s 0x3F10 2
/-- FILL_LOW in bytes. -/
def fillLow (s : State) : Nat := 1024 * od s 0x3F10 3

/-- Bytes a channel's next request would carry; 0 when none is ready. -/
def requestReady (s : State) (t : Task) (write : Bool) : Nat :=
  let c := t.eng.tun
  if !(isRunning t && unitsOn s t && t.eng.started && c.phase = .moving && c.k < c.size) then 0
  else if write then
    if !isSink s t then 0
    else
      let n := requestLen c (requestAlign s t) (c.size - c.k)
      if n ≤ t.eng.bytes.length then n else if insDone t then t.eng.bytes.length else 0
  else if !isSource s t || c.paced || fillHigh s ≤ t.eng.bytes.length then 0
  else requestLen c (requestAlign s t) (min (c.size - c.k) ((taskBuffer s t 0).2 - c.total))

/-- The channels of an engine in round-robin order after the one last granted (R346). -/
def tunOrder (s : State) (e : Nat) (write : Bool) : List Nat :=
  let last := tget 63 s.js.tunLast (2 * e + if write then 1 else 0)
  (List.range 64).map fun i => (last + 1 + i) % 64

/-- The task on a channel of an engine. -/
def onChannel (s : State) (e c : Nat) : Option (Nat × Task) := s.js.tasks.find? fun x => x.2.unit = 0xB8 + e && x.2.sub = c

/-- The next request to be granted: slot, task, bytes. -/
def nextRequest (s : State) (e : Nat) (write : Bool) : Option (Nat × Task × Nat) :=
  (tunOrder s e write).findSome? fun c => match onChannel s e c with
    | some (slot, t) => if requestReady s t write = 0 then none else some (slot, t, requestReady s t write)
    | none => none

/-- A parked SOURCE discards what it had read at and beyond its page boundary and still holds; it reads it again (R348). -/
def discardPage (slot : Nat) (s : State) : State :=
  engMod slot (fun g =>
    let n := min g.bytes.length (g.tun.k - g.tun.boundary)
    { g with bytes := g.bytes.take (g.bytes.length - n), tun := { g.tun with k := g.tun.k - n, total := g.tun.total - n } }) s

/-- A SOURCE's read of n bytes. -/
def sourceRead (slot : Nat) (t : Task) (n : Nat) (s : State) : State :=
  match devRead t.unit (.inst t.inst) (t.eng.tun.place t.eng.tun.k) n s with
  | (.error f, s) =>
    let s := tunAccess slot t false f s
    (match f.err with
      | .fault _ _ => discardPage slot s
      | _ => s)
  | (.ok bs, s) =>
    let high : Bool := fillHigh s ≤ t.eng.bytes.length + n
    let now := s.time
    let s := engMod slot (fun g =>
      { g with
        bytes := g.bytes ++ bs
        tun := { g.tun with k := g.tun.k + n, total := g.tun.total + n, paced := high, pacedAt := now } }) s
    let s := if high then setChannel t 2 s else s
    sourceEnds slot t (odAdd (tunIdx t) 1 n s)

/-- A sink's write of n bytes. -/
def sinkWrite (slot : Nat) (t : Task) (n : Nat) (s : State) : State :=
  let a := t.eng.tun.place t.eng.tun.k
  let bs := t.eng.bytes.take n
  let r := match tunLoc s t with
    | .device => devWrite t.unit (.inst t.inst) a bs s
    | .host => hostWrite (instLink s t.inst) a bs s
  match r with
  | (some f, s) => tunAccess slot t true f s
  | (none, s) =>
    let s := engMod slot (fun g =>
      { g with bytes := g.bytes.drop n, tun := { g.tun with k := g.tun.k + n, total := g.tun.total + n } }) s
    let s := jobMod t.jid (fun j => { j with resultLen := j.resultLen + n }) s
    sinkEnds slot t (odAdd (tunIdx t) 2 n s)

/-- TUN_REQUEST (R346). -/
def execTunRequest (engine : Fin 4) (write : Bool) (s : State) : Host.Outcome State Fault Refusal :=
  match nextRequest s engine.val write with
  | none => .next s
  | some (slot, t, n) =>
    let s := { s with js := { s.js with tunLast := tset s.js.tunLast (2 * engine.val + if write then 1 else 0) t.sub } }
    .next (if write then sinkWrite slot t n s else sourceRead slot t n s)

/-! ### Descriptors (R336 to R341) -/

/-- A descriptor that breaks R337. -/
def descriptorBad (d : List Byte) : Bool :=
  fld d 8 4 = 0 || 16777216 < fld d 8 4 || fld d 0x0C 4 = 0 || 65536 < fld d 0x0C 4 || fld d 0x18 8 % 64 ≠ 0 ||
  2 ≤ fld d 0x20 1 || !allZero (slice d 0x21 7)

/-- The channel with a descriptor fetched. -/
def takeDescriptor (d : List Byte) (c : TunState) : TunState :=
  { c with
    addr := fld d 0 8, rowBytes := fld d 8 4, rows := fld d 0x0C 4, stride := toSigned 64 (fld d 0x10 8)
    next := fld d 0x18 8, wb := (fld d 0x20 1).testBit 0, k := 0, phase := .moving, short := false, long := false, dropped := 0 }

/-- The next descriptor is fetched and checked, or the hop limit stops the chain (R337, R340, R341). -/
def fetchDescriptor (slot : Nat) (t : Task) (s : State) : State :=
  let c := t.eng.tun
  let fail := fun (st : Nat) (hops : Nat) (s : State) => failTask slot st { address := c.at_, detail := hops, index := t.sub } s
  if hopLimit s t ≤ c.hops then fail 0x0403 c.hops (odBump (tunIdx t) 7 s)
  else
    match locRead (tunLoc s t) t.unit t.inst c.at_ 64 s with
    | (.error f, s) => tunAccess slot t false f s
    | (.ok d, s) =>
      let s := odBump (tunIdx t) 3 s
      if descriptorBad d then fail 0x0215 (c.hops + 1) s
      else if fld d 0x18 8 = c.at_ then fail 0x0403 (c.hops + 1) (odBump (tunIdx t) 7 s)
      else tunMod slot (fun c => { takeDescriptor d c with hops := c.hops + 1 }) s

/-- DESCRIPTOR_FETCH (R340): a sink fetches only when a byte waits in its partition. -/
def execDescriptorFetch (slot : Nat) (s : State) : Host.Outcome State Fault Refusal :=
  .next (runStage slot [0x80, 0x81, 0x82] (fun t s =>
    if t.eng.started && t.eng.tun.phase = .fetch && (isSource s t || !t.eng.bytes.isEmpty) then fetchDescriptor slot t s else s) s)

/-- Bytes 0x28 to 0x3F of a descriptor (Table 16-2). -/
def writebackBytes (c : TunState) : List Byte :=
  leBytes 8 c.k ++ leBytes 8 c.dropped ++ leBytes 1 (1 + (if c.short then 2 else 0) + (if c.long then 4 else 0)) ++ List.replicate 7 0

/-- The descriptor is written back whole; then the chain goes on or has ended (R339). -/
def writebackStep (slot : Nat) (t : Task) (more : Bool) (s : State) : State :=
  let c := t.eng.tun
  match locWrite (tunLoc s t) t.unit t.inst (c.at_ + 0x28) (writebackBytes c) s with
  | (some f, s) => tunAccess slot t true f s
  | (none, s) => tunMod slot (fun c => { c with at_ := c.next, phase := if more then .fetch else .ended }) s

/-- DESCRIPTOR_WRITEBACK (R339). -/
def execDescriptorWriteback (slot : Nat) (s : State) : Host.Outcome State Fault Refusal :=
  .next (runStage slot [0x80, 0x81, 0x82] (fun t s => match t.eng.tun.phase with
    | .writeback more => if t.eng.started then writebackStep slot t more s else s
    | _ => s) s)

/-! ### Stages -/

/-- Whole elements of the partition leave on the stream, a transfer at a time; a partition at FILL_HIGH, which a write may have
lowered, is paced, and a drained one no longer (R344, R345, R351). -/
def sourceEmit (slot : Nat) (t : Task) (s : State) : State :=
  let w := match outEnt s t 0 with
    | some x => max 1 (elemWidth (taskImg s t) x.ty x.layout)
    | none => 1
  let n := min (t.eng.bytes.length / w) (max 1 (64 / w))
  let s := emitElems slot 0 ((chunksOf w (t.eng.bytes.take (n * w))).map some) s
  let low : Bool := t.eng.bytes.length - n * w ≤ fillLow s
  let now := s.time
  let paced : Bool := t.eng.tun.paced || fillHigh s ≤ t.eng.bytes.length
  let since := if t.eng.tun.paced then t.eng.tun.pacedAt else now
  let s := if paced && low then setChannel t 1 (odAdd (tunIdx t) 9 (now - since) s)
    else if paced then setChannel t 2 s else s
  engMod slot (fun g => { g with
    bytes := g.bytes.drop (n * w), tun := { g.tun with paced := paced && !low, pacedAt := since } }) s

/-- The consumer of a stage's output has ended it (R66, R197). -/
def consumerDone (s : State) (t : Task) : Bool :=
  match t.outs.head? with
  | none => false
  | some o => s.js.tasks.any fun x => x.2.jid = t.jid && x.2.phase = t.phase && x.2.eng.done && x.2.ins.any fun p => p.stream = o.stream

/-- Every whole element of a SOURCE has left. -/
def sourceEmpty (s : State) (slot : Nat) : Bool :=
  match taskAt s slot with
  | none => false
  | some t =>
    let w := match outEnt s t 0 with
      | some x => max 1 (elemWidth (taskImg s t) x.ty x.layout)
      | none => 1
    t.eng.bytes.length < w && t.eng.results.isEmpty

/-- The consumer ends the stage: the descriptor in progress ends, with the trailing fragment of the bytes read dropped (R344). -/
def cutSource (slot : Nat) (t : Task) (s : State) : State :=
  let w := match outEnt s t 0 with
    | some x => max 1 (elemWidth (taskImg s t) x.ty x.layout)
    | none => 1
  let frag := t.eng.tun.total % w
  endDescriptor slot t (t.eng.tun.k < t.eng.tun.size) (0 < frag) frag false s

/-- SOURCE: starts its channel, emits what has been read, ends after the last byte (R344). -/
def runSource (slot : Nat) (t : Task) (s : State) : State :=
  if !t.eng.started then startTun slot t s
  else
    let s := sourceEmit slot t s
    if !stillRuns slot s then s
    else if t.eng.tun.phase = .ended then (if sourceEmpty s slot then setChannel t 0 (stageDone slot s) else s)
    else if consumerDone s t && t.eng.tun.phase = .moving then cutSource slot t s
    else if consumerDone s t && t.eng.tun.phase = .fetch then tunMod slot (fun c => { c with phase := .ended }) s
    else s

/-- SOURCE (R344). -/
def execSource (slot : Nat) (s : State) : Host.Outcome State Fault Refusal :=
  .next (runStage slot [0x80] (runSource slot) s)

/-- Bytes of waiting elements, of whose first `skip` have been taken, that `room` bytes hold: the bytes, the elements taken
whole, and how many bytes of the next are taken. -/
def takeFront : List (List Byte) → Nat → Nat → List Byte × Nat × Nat
  | [], _, _ => ([], 0, 0)
  | b :: bs, skip, room =>
    let rest := b.drop skip
    if rest.length ≤ room then
      let r := takeFront bs 0 (room - rest.length)
      (rest ++ r.1, r.2.1 + 1, r.2.2)
    else (rest.take room, 0, skip + room)

/-- Elements of the input join the partition of 32 KiB while it has room; beyond the chain's end they are dropped (R343, R345).
The engine keeps in `a` how many bytes of the front element it has taken. -/
def sinkTake (slot : Nat) (t : Task) (s : State) : State :=
  match t.ins.head?, inEnt s t 0 with
  | some p, some x =>
    let all := p.buf.map fun e => elemBytes x.ty (e.getD [])
    if t.eng.tun.phase = .dropping || t.eng.tun.phase = .ended then
      let n := (all.map List.length).foldl (· + ·) 0 - t.eng.a + t.eng.bytes.length
      engMod slot (fun g => { g with bytes := [], a := 0, tun := { g.tun with dropped := g.tun.dropped + n } }) (dropPort slot 0 p.buf.length s)
    else
      let r := takeFront all t.eng.a (32768 - t.eng.bytes.length)
      engMod slot (fun g => { g with bytes := g.bytes ++ r.1, a := r.2.2 }) (dropPort slot 0 r.2.1 s)
  | _, _ => s

/-- A sink: starts its channel, takes stream bytes, ends its last descriptor at the end of the stream (R343). -/
def runSink (slot : Nat) (t : Task) (s : State) : State :=
  if !t.eng.started then startTun slot t s
  else
    let s := sinkTake slot t s
    match taskAt s slot with
    | none => s
    | some t =>
      if !(insDone t && t.eng.bytes.isEmpty) then s
      else
        let c := t.eng.tun
        match c.phase with
        | .moving => if 0 < c.k then endDescriptor slot t true false 0 false s
            else tunMod slot (fun c => { c with phase := .ended }) s
        | .dropping => endDescriptor slot t false (0 < c.dropped) c.dropped false s
        | .fetch => tunMod slot (fun c => { c with phase := .ended }) s
        | .writeback _ => s
        | .ended => setChannel t 0 (stageDone slot s)

/-- SINK_DEVICE (R343). -/
def execSinkDevice (slot : Nat) (s : State) : Host.Outcome State Fault Refusal :=
  .next (runStage slot [0x81] (runSink slot) s)

/-- SINK_HOST (R343). -/
def execSinkHost (slot : Nat) (s : State) : Host.Outcome State Fault Refusal :=
  .next (runStage slot [0x82] (fun t s => runSink slot t s) s)

end Sys2Proof.Machine
end

