-- ==== Sys2Proof/Machine/Dispatch.lean ====
section
/-! DEFINITION. The dispatcher: one arm per command. -/

namespace Sys2Proof.Machine

/-- The effect of a command on everything but the queue. -/
def exec (i : Instr) (s : State) : Host.Outcome State Fault Refusal :=
  match i with
  | .sqTailWrite link inst q size value stored => Sys2Proof.Machine.execSqTailWrite link inst q size value stored s
  | .cqHeadWrite link inst q size value => Sys2Proof.Machine.execCqHeadWrite link inst q size value s
  | .faultHeadWrite link inst size value => Sys2Proof.Machine.execFaultHeadWrite link inst size value s
  | .faultRetry link inst size value => Sys2Proof.Machine.execFaultRetry link inst size value s
  | .faultFail link inst size value => Sys2Proof.Machine.execFaultFail link inst size value s
  | .createCq link inst cmd => Sys2Proof.Machine.execCreateCq link inst cmd s
  | .createSq link inst cmd => Sys2Proof.Machine.execCreateSq link inst cmd s
  | .deleteSq link inst cmd => Sys2Proof.Machine.execDeleteSq link inst cmd s
  | .deleteCq link inst cmd => Sys2Proof.Machine.execDeleteCq link inst cmd s
  | .createQp link inst cmd => Sys2Proof.Machine.execCreateQp link inst cmd s
  | .connectQp link inst cmd => Sys2Proof.Machine.execConnectQp link inst cmd s
  | .destroyQp link inst cmd => Sys2Proof.Machine.execDestroyQp link inst cmd s
  | .registerRegion link inst cmd => Sys2Proof.Machine.execRegisterRegion link inst cmd s
  | .deregisterRegion link inst cmd => Sys2Proof.Machine.execDeregisterRegion link inst cmd s
  | .query link inst cmd => Sys2Proof.Machine.execQuery link inst cmd s
  | .nop inst sq => Sys2Proof.Machine.execNop inst sq s
  | .plan inst sq => Sys2Proof.Machine.execPlan inst sq s
  | .cancel inst sq => Sys2Proof.Machine.execCancel inst sq s
  | .spillReservation inst sq => Sys2Proof.Machine.execSpillReservation inst sq s
  | .sqHeadWriteback inst sq => Sys2Proof.Machine.execSqHeadWriteback inst sq s
  | .placePhase => Sys2Proof.Machine.execPlacePhase s
  | .placeUrgent => Sys2Proof.Machine.execPlaceUrgent s
  | .streamTransfer slot port => Sys2Proof.Machine.execStreamTransfer slot port s
  | .endOfStream slot port => Sys2Proof.Machine.execEndOfStream slot port s
  | .stageFinish slot => Sys2Proof.Machine.execStageFinish slot s
  | .completionPost inst sq => Sys2Proof.Machine.execCompletionPost inst sq s
  | .coalesceTimeout inst cq => Sys2Proof.Machine.execCoalesceTimeout inst cq s
  | .deadline inst sq asn => Sys2Proof.Machine.execDeadline inst sq asn s
  | .tick mfp => Sys2Proof.Machine.execTick mfp s
  | .budgetUrgent slot => Sys2Proof.Machine.execBudgetUrgent slot s
  | .zoneDispatch zone => Sys2Proof.Machine.execZoneDispatch zone s
  | .taskStopped slot => Sys2Proof.Machine.execTaskStopped slot s
  | .wait slot mask all n => Sys2Proof.Machine.execWait slot mask all n s
  | .signal sender slot flags => Sys2Proof.Machine.execSignal sender slot flags s
  | .delay slot n => Sys2Proof.Machine.execDelay slot n s
  | .clear slot mask => Sys2Proof.Machine.execClear slot mask s
  | .waitTimeout slot => Sys2Proof.Machine.execWaitTimeout slot s
  | .delayExpiry slot => Sys2Proof.Machine.execDelayExpiry slot s
  | .avsResponse ok => Sys2Proof.Machine.execAvsResponse ok s
  | .interruptTaken core => Sys2Proof.Machine.execInterruptTaken core s
  | .impreciseArithmetic core => Sys2Proof.Machine.execImpreciseArithmetic core s
  | .illegalInstruction core word => Sys2Proof.Machine.execIllegalInstruction core word s
  | .aluAdd core rd ra rb => Sys2Proof.Machine.execAluAdd core rd ra rb s
  | .aluSub core rd ra rb => Sys2Proof.Machine.execAluSub core rd ra rb s
  | .aluAnd core rd ra rb => Sys2Proof.Machine.execAluAnd core rd ra rb s
  | .aluOr core rd ra rb => Sys2Proof.Machine.execAluOr core rd ra rb s
  | .aluXor core rd ra rb => Sys2Proof.Machine.execAluXor core rd ra rb s
  | .aluSll core rd ra rb => Sys2Proof.Machine.execAluSll core rd ra rb s
  | .aluSrl core rd ra rb => Sys2Proof.Machine.execAluSrl core rd ra rb s
  | .aluSra core rd ra rb => Sys2Proof.Machine.execAluSra core rd ra rb s
  | .aluSlt core rd ra rb => Sys2Proof.Machine.execAluSlt core rd ra rb s
  | .aluSltu core rd ra rb => Sys2Proof.Machine.execAluSltu core rd ra rb s
  | .aluMin core rd ra rb => Sys2Proof.Machine.execAluMin core rd ra rb s
  | .aluMax core rd ra rb => Sys2Proof.Machine.execAluMax core rd ra rb s
  | .aluMinu core rd ra rb => Sys2Proof.Machine.execAluMinu core rd ra rb s
  | .aluMaxu core rd ra rb => Sys2Proof.Machine.execAluMaxu core rd ra rb s
  | .aluRotl core rd ra rb => Sys2Proof.Machine.execAluRotl core rd ra rb s
  | .aluClz core rd ra => Sys2Proof.Machine.execAluClz core rd ra s
  | .aluwAdd core rd ra rb => Sys2Proof.Machine.execAluwAdd core rd ra rb s
  | .aluwSub core rd ra rb => Sys2Proof.Machine.execAluwSub core rd ra rb s
  | .aluwAnd core rd ra rb => Sys2Proof.Machine.execAluwAnd core rd ra rb s
  | .aluwOr core rd ra rb => Sys2Proof.Machine.execAluwOr core rd ra rb s
  | .aluwXor core rd ra rb => Sys2Proof.Machine.execAluwXor core rd ra rb s
  | .aluwSll core rd ra rb => Sys2Proof.Machine.execAluwSll core rd ra rb s
  | .aluwSrl core rd ra rb => Sys2Proof.Machine.execAluwSrl core rd ra rb s
  | .aluwSra core rd ra rb => Sys2Proof.Machine.execAluwSra core rd ra rb s
  | .aluwSlt core rd ra rb => Sys2Proof.Machine.execAluwSlt core rd ra rb s
  | .aluwSltu core rd ra rb => Sys2Proof.Machine.execAluwSltu core rd ra rb s
  | .aluwMin core rd ra rb => Sys2Proof.Machine.execAluwMin core rd ra rb s
  | .aluwMax core rd ra rb => Sys2Proof.Machine.execAluwMax core rd ra rb s
  | .aluwMinu core rd ra rb => Sys2Proof.Machine.execAluwMinu core rd ra rb s
  | .aluwMaxu core rd ra rb => Sys2Proof.Machine.execAluwMaxu core rd ra rb s
  | .aluwRotl core rd ra rb => Sys2Proof.Machine.execAluwRotl core rd ra rb s
  | .aluwClz core rd ra => Sys2Proof.Machine.execAluwClz core rd ra s
  | .mul core rd ra rb => Sys2Proof.Machine.execMul core rd ra rb s
  | .mulh core rd ra rb => Sys2Proof.Machine.execMulh core rd ra rb s
  | .mulhu core rd ra rb => Sys2Proof.Machine.execMulhu core rd ra rb s
  | .div core rd ra rb => Sys2Proof.Machine.execDiv core rd ra rb s
  | .divu core rd ra rb => Sys2Proof.Machine.execDivu core rd ra rb s
  | .rem core rd ra rb => Sys2Proof.Machine.execRem core rd ra rb s
  | .remu core rd ra rb => Sys2Proof.Machine.execRemu core rd ra rb s
  | .chkAdd core rd ra rb => Sys2Proof.Machine.execChkAdd core rd ra rb s
  | .chkSub core rd ra rb => Sys2Proof.Machine.execChkSub core rd ra rb s
  | .chkMul core rd ra rb => Sys2Proof.Machine.execChkMul core rd ra rb s
  | .fadd core rd ra rb fmt rm => Sys2Proof.Machine.execFadd core rd ra rb fmt rm s
  | .fsub core rd ra rb fmt rm => Sys2Proof.Machine.execFsub core rd ra rb fmt rm s
  | .fmul core rd ra rb fmt rm => Sys2Proof.Machine.execFmul core rd ra rb fmt rm s
  | .fdiv core rd ra rb fmt rm => Sys2Proof.Machine.execFdiv core rd ra rb fmt rm s
  | .fsqrt core rd ra fmt rm => Sys2Proof.Machine.execFsqrt core rd ra fmt rm s
  | .fmin core rd ra rb fmt rm => Sys2Proof.Machine.execFmin core rd ra rb fmt rm s
  | .fmax core rd ra rb fmt rm => Sys2Proof.Machine.execFmax core rd ra rb fmt rm s
  | .fmac core rd ra rb fmt rm => Sys2Proof.Machine.execFmac core rd ra rb fmt rm s
  | .lrx core rd ra => Sys2Proof.Machine.execLrx core rd ra s
  | .scx core rd ra rb => Sys2Proof.Machine.execScx core rd ra rb s
  | .ftoi core rd ra fmt rm => Sys2Proof.Machine.execFtoi core rd ra fmt rm s
  | .ftou core rd ra fmt rm => Sys2Proof.Machine.execFtou core rd ra fmt rm s
  | .itof core rd ra fmt rm => Sys2Proof.Machine.execItof core rd ra fmt rm s
  | .utof core rd ra fmt rm => Sys2Proof.Machine.execUtof core rd ra fmt rm s
  | .ftof core rd ra fmt rm => Sys2Proof.Machine.execFtof core rd ra fmt rm s
  | .fint core rd ra fmt rm => Sys2Proof.Machine.execFint core rd ra fmt rm s
  | .fbits core rd ra => Sys2Proof.Machine.execFbits core rd ra s
  | .gbits core rd ra => Sys2Proof.Machine.execGbits core rd ra s
  | .feq core rd ra rb fmt => Sys2Proof.Machine.execFeq core rd ra rb fmt s
  | .flt core rd ra rb fmt => Sys2Proof.Machine.execFlt core rd ra rb fmt s
  | .fle core rd ra rb fmt => Sys2Proof.Machine.execFle core rd ra rb fmt s
  | .fltq core rd ra rb fmt => Sys2Proof.Machine.execFltq core rd ra rb fmt s
  | .fleq core rd ra rb fmt => Sys2Proof.Machine.execFleq core rd ra rb fmt s
  | .funord core rd ra rb fmt => Sys2Proof.Machine.execFunord core rd ra rb fmt s
  | .fclass core rd ra fmt => Sys2Proof.Machine.execFclass core rd ra fmt s
  | .addi core rd ra imm => Sys2Proof.Machine.execAddi core rd ra imm s
  | .andi core rd ra imm => Sys2Proof.Machine.execAndi core rd ra imm s
  | .ori core rd ra imm => Sys2Proof.Machine.execOri core rd ra imm s
  | .xori core rd ra imm => Sys2Proof.Machine.execXori core rd ra imm s
  | .lui core rd imm => Sys2Proof.Machine.execLui core rd imm s
  | .slti core rd ra imm => Sys2Proof.Machine.execSlti core rd ra imm s
  | .slli core rd ra w count => Sys2Proof.Machine.execSlli core rd ra w count s
  | .srli core rd ra w count => Sys2Proof.Machine.execSrli core rd ra w count s
  | .srai core rd ra w count => Sys2Proof.Machine.execSrai core rd ra w count s
  | .rotli core rd ra w count => Sys2Proof.Machine.execRotli core rd ra w count s
  | .lb core rd ra imm => Sys2Proof.Machine.execLb core rd ra imm s
  | .lh core rd ra imm => Sys2Proof.Machine.execLh core rd ra imm s
  | .lw core rd ra imm => Sys2Proof.Machine.execLw core rd ra imm s
  | .ld core rd ra imm => Sys2Proof.Machine.execLd core rd ra imm s
  | .lbu core rd ra imm => Sys2Proof.Machine.execLbu core rd ra imm s
  | .lhu core rd ra imm => Sys2Proof.Machine.execLhu core rd ra imm s
  | .lwu core rd ra imm => Sys2Proof.Machine.execLwu core rd ra imm s
  | .lda core rd ra imm => Sys2Proof.Machine.execLda core rd ra imm s
  | .sb core rd ra imm => Sys2Proof.Machine.execSb core rd ra imm s
  | .sh core rd ra imm => Sys2Proof.Machine.execSh core rd ra imm s
  | .sw core rd ra imm => Sys2Proof.Machine.execSw core rd ra imm s
  | .sd core rd ra imm => Sys2Proof.Machine.execSd core rd ra imm s
  | .stl core rd ra imm => Sys2Proof.Machine.execStl core rd ra imm s
  | .fld core rd ra imm => Sys2Proof.Machine.execFld core rd ra imm s
  | .fsd core rd ra imm => Sys2Proof.Machine.execFsd core rd ra imm s
  | .flw core rd ra imm => Sys2Proof.Machine.execFlw core rd ra imm s
  | .fsw core rd ra imm => Sys2Proof.Machine.execFsw core rd ra imm s
  | .fence core bits => Sys2Proof.Machine.execFence core bits s
  | .beq core ra rb disp => Sys2Proof.Machine.execBeq core ra rb disp s
  | .bne core ra rb disp => Sys2Proof.Machine.execBne core ra rb disp s
  | .blt core ra rb disp => Sys2Proof.Machine.execBlt core ra rb disp s
  | .bge core ra rb disp => Sys2Proof.Machine.execBge core ra rb disp s
  | .bltu core ra rb disp => Sys2Proof.Machine.execBltu core ra rb disp s
  | .bgeu core ra rb disp => Sys2Proof.Machine.execBgeu core ra rb disp s
  | .j core disp => Sys2Proof.Machine.execJ core disp s
  | .jal core disp => Sys2Proof.Machine.execJal core disp s
  | .jalr core rd ra imm => Sys2Proof.Machine.execJalr core rd ra imm s
  | .sysc core imm => Sys2Proof.Machine.execSysc core imm s
  | .mcall core imm => Sys2Proof.Machine.execMcall core imm s
  | .sret core => Sys2Proof.Machine.execSret core s
  | .mret core => Sys2Proof.Machine.execMret core s
  | .mfs core ra num => Sys2Proof.Machine.execMfs core ra num s
  | .mts core ra num => Sys2Proof.Machine.execMts core ra num s
  | .wfi core => Sys2Proof.Machine.execWfi core s
  | .halt core => Sys2Proof.Machine.execHalt core s
  | .afence core => Sys2Proof.Machine.execAfence core s
  | .brk core imm => Sys2Proof.Machine.execBrk core imm s
  | .srd core rd ra port => Sys2Proof.Machine.execSrd core rd ra port s
  | .swr core rd ra port => Sys2Proof.Machine.execSwr core rd ra port s
  | .swrn core rd ra port => Sys2Proof.Machine.execSwrn core rd ra port s
  | .strSend core rd ra port => Sys2Proof.Machine.execStrSend core rd ra port s
  | .spoll core rd ra port => Sys2Proof.Machine.execSpoll core rd ra port s
  | .prefetch core ra => Sys2Proof.Machine.execPrefetch core ra s
  | .clean core ra => Sys2Proof.Machine.execClean core ra s
  | .cleanInv core ra => Sys2Proof.Machine.execCleanInv core ra s
  | .inv core ra => Sys2Proof.Machine.execInv core ra s
  | .cleanRange core ra rl => Sys2Proof.Machine.execCleanRange core ra rl s
  | .cleanInvRange core ra rl => Sys2Proof.Machine.execCleanInvRange core ra rl s
  | .invRange core ra rl => Sys2Proof.Machine.execInvRange core ra rl s
  | .cleanSw core ra rl => Sys2Proof.Machine.execCleanSw core ra rl s
  | .cleanInvSw core ra rl => Sys2Proof.Machine.execCleanInvSw core ra rl s
  | .invSw core ra rl => Sys2Proof.Machine.execInvSw core ra rl s
  | .lockfill core ra rl => Sys2Proof.Machine.execLockfill core ra rl s
  | .lockset core ra rl => Sys2Proof.Machine.execLockset core ra rl s
  | .svAdd core o => Sys2Proof.Machine.execSvAdd core o s
  | .svSub core o => Sys2Proof.Machine.execSvSub core o s
  | .svAddss core o => Sys2Proof.Machine.execSvAddss core o s
  | .svAddus core o => Sys2Proof.Machine.execSvAddus core o s
  | .svSubss core o => Sys2Proof.Machine.execSvSubss core o s
  | .svSubus core o => Sys2Proof.Machine.execSvSubus core o s
  | .svAnd core o => Sys2Proof.Machine.execSvAnd core o s
  | .svOr core o => Sys2Proof.Machine.execSvOr core o s
  | .svXor core o => Sys2Proof.Machine.execSvXor core o s
  | .svAndn core o => Sys2Proof.Machine.execSvAndn core o s
  | .svMin core o => Sys2Proof.Machine.execSvMin core o s
  | .svMax core o => Sys2Proof.Machine.execSvMax core o s
  | .svMinu core o => Sys2Proof.Machine.execSvMinu core o s
  | .svMaxu core o => Sys2Proof.Machine.execSvMaxu core o s
  | .svCmpeq core o => Sys2Proof.Machine.execSvCmpeq core o s
  | .svCmpgt core o => Sys2Proof.Machine.execSvCmpgt core o s
  | .svCmpgtu core o => Sys2Proof.Machine.execSvCmpgtu core o s
  | .svMul core o => Sys2Proof.Machine.execSvMul core o s
  | .svAvgu core o => Sys2Proof.Machine.execSvAvgu core o s
  | .svAbsdu core o => Sys2Proof.Machine.execSvAbsdu core o s
  | .svSlli core o count => Sys2Proof.Machine.execSvSlli core o count s
  | .svSrli core o count => Sys2Proof.Machine.execSvSrli core o count s
  | .svSrai core o count => Sys2Proof.Machine.execSvSrai core o count s
  | .svFadd core o => Sys2Proof.Machine.execSvFadd core o s
  | .svFsub core o => Sys2Proof.Machine.execSvFsub core o s
  | .svFmul core o => Sys2Proof.Machine.execSvFmul core o s
  | .svFdiv core o => Sys2Proof.Machine.execSvFdiv core o s
  | .svFsqrt core o => Sys2Proof.Machine.execSvFsqrt core o s
  | .svFmin core o => Sys2Proof.Machine.execSvFmin core o s
  | .svFmax core o => Sys2Proof.Machine.execSvFmax core o s
  | .svFmac core o => Sys2Proof.Machine.execSvFmac core o s
  | .svFcmpeq core o => Sys2Proof.Machine.execSvFcmpeq core o s
  | .svFcmplt core o => Sys2Proof.Machine.execSvFcmplt core o s
  | .svFcmple core o => Sys2Proof.Machine.execSvFcmple core o s
  | .svFabs core o => Sys2Proof.Machine.execSvFabs core o s
  | .svFneg core o => Sys2Proof.Machine.execSvFneg core o s
  | .pick core o param => Sys2Proof.Machine.execPick core o param s
  | .pickk core o param => Sys2Proof.Machine.execPickk core o param s
  | .mixlo core o param => Sys2Proof.Machine.execMixlo core o param s
  | .mixhi core o param => Sys2Proof.Machine.execMixhi core o param s
  | .sepev core o param => Sys2Proof.Machine.execSepev core o param s
  | .sepod core o param => Sys2Proof.Machine.execSepod core o param s
  | .slide core o param => Sys2Proof.Machine.execSlide core o param s
  | .bcast core o param => Sys2Proof.Machine.execBcast core o param s
  | .revl core o param => Sys2Proof.Machine.execRevl core o param s
  | .putl core o => Sys2Proof.Machine.execPutl core o s
  | .getu core o => Sys2Proof.Machine.execGetu core o s
  | .gets core o => Sys2Proof.Machine.execGets core o s
  | .fill core o => Sys2Proof.Machine.execFill core o s
  | .topb core o => Sys2Proof.Machine.execTopb core o s
  | .popc core o => Sys2Proof.Machine.execPopc core o s
  | .rsum core o => Sys2Proof.Machine.execRsum core o s
  | .rsumu core o => Sys2Proof.Machine.execRsumu core o s
  | .rmin core o => Sys2Proof.Machine.execRmin core o s
  | .rmax core o => Sys2Proof.Machine.execRmax core o s
  | .rminu core o => Sys2Proof.Machine.execRminu core o s
  | .rmaxu core o => Sys2Proof.Machine.execRmaxu core o s
  | .svld core rd ra disp k esz q => Sys2Proof.Machine.execSvld core rd ra disp k esz q s
  | .svst core rd ra disp k esz q => Sys2Proof.Machine.execSvst core rd ra disp k esz q s
  | .lvAdd core o => Sys2Proof.Machine.execLvAdd core o s
  | .lvSub core o => Sys2Proof.Machine.execLvSub core o s
  | .lvMul core o => Sys2Proof.Machine.execLvMul core o s
  | .lvAnd core o => Sys2Proof.Machine.execLvAnd core o s
  | .lvOr core o => Sys2Proof.Machine.execLvOr core o s
  | .lvXor core o => Sys2Proof.Machine.execLvXor core o s
  | .lvMin core o => Sys2Proof.Machine.execLvMin core o s
  | .lvMax core o => Sys2Proof.Machine.execLvMax core o s
  | .lvMinu core o => Sys2Proof.Machine.execLvMinu core o s
  | .lvMaxu core o => Sys2Proof.Machine.execLvMaxu core o s
  | .lvFadd core o => Sys2Proof.Machine.execLvFadd core o s
  | .lvFsub core o => Sys2Proof.Machine.execLvFsub core o s
  | .lvFmul core o => Sys2Proof.Machine.execLvFmul core o s
  | .lvFdiv core o => Sys2Proof.Machine.execLvFdiv core o s
  | .lvFmin core o => Sys2Proof.Machine.execLvFmin core o s
  | .lvFmax core o => Sys2Proof.Machine.execLvFmax core o s
  | .lvCmpeq core o => Sys2Proof.Machine.execLvCmpeq core o s
  | .lvCmplt core o => Sys2Proof.Machine.execLvCmplt core o s
  | .lvCmpltu core o => Sys2Proof.Machine.execLvCmpltu core o s
  | .lvFcmpeq core o => Sys2Proof.Machine.execLvFcmpeq core o s
  | .lvFcmplt core o => Sys2Proof.Machine.execLvFcmplt core o s
  | .compress core o => Sys2Proof.Machine.execCompress core o s
  | .gather core o => Sys2Proof.Machine.execGather core o s
  | .scatter core o => Sys2Proof.Machine.execScatter core o s
  | .unpack core o => Sys2Proof.Machine.execUnpack core o s
  | .pack core o => Sys2Proof.Machine.execPack core o s
  | .l2Enable cluster w => Sys2Proof.Machine.execL2Enable cluster w s
  | .l2Disable cluster w => Sys2Proof.Machine.execL2Disable cluster w s
  | .l2DrainDone cluster => Sys2Proof.Machine.execL2DrainDone cluster s
  | .prefetchEnable cluster value w => Sys2Proof.Machine.execPrefetchEnable cluster value w s
  | .pageRead slot => Sys2Proof.Machine.execPageRead slot s
  | .dictionaryPrepare slot => Sys2Proof.Machine.execDictionaryPrepare slot s
  | .scan slot => Sys2Proof.Machine.execScan slot s
  | .hashBuild slot => Sys2Proof.Machine.execHashBuild slot s
  | .hashProbe slot => Sys2Proof.Machine.execHashProbe slot s
  | .partition slot => Sys2Proof.Machine.execPartition slot s
  | .hashGroup slot => Sys2Proof.Machine.execHashGroup slot s
  | .sort slot => Sys2Proof.Machine.execSort slot s
  | .merge slot => Sys2Proof.Machine.execMerge slot s
  | .topN slot => Sys2Proof.Machine.execTopN slot s
  | .groupSorted slot => Sys2Proof.Machine.execGroupSorted slot s
  | .groupHash slot => Sys2Proof.Machine.execGroupHash slot s
  | .inflate slot => Sys2Proof.Machine.execInflate slot s
  | .deflate slot => Sys2Proof.Machine.execDeflate slot s
  | .kilnSelfTest engine passed => Sys2Proof.Machine.execKilnSelfTest engine passed s
  | .digest slot => Sys2Proof.Machine.execDigest slot s
  | .lookup slot => Sys2Proof.Machine.execLookup slot s
  | .udoStage slot => Sys2Proof.Machine.execUdoStage slot s
  | .exprStage slot => Sys2Proof.Machine.execExprStage slot s
  | .combine slot => Sys2Proof.Machine.execCombine slot s
  | .exchSend slot => Sys2Proof.Machine.execExchSend slot s
  | .exchRecv slot => Sys2Proof.Machine.execExchRecv slot s
  | .source slot => Sys2Proof.Machine.execSource slot s
  | .sinkDevice slot => Sys2Proof.Machine.execSinkDevice slot s
  | .sinkHost slot => Sys2Proof.Machine.execSinkHost slot s
  | .sinkRemote slot => Sys2Proof.Machine.execSinkRemote slot s
  | .descriptorFetch slot => Sys2Proof.Machine.execDescriptorFetch slot s
  | .tunRequest engine write => Sys2Proof.Machine.execTunRequest engine write s
  | .descriptorWriteback slot => Sys2Proof.Machine.execDescriptorWriteback slot s
  | .faultTimeout slot => Sys2Proof.Machine.execFaultTimeout slot s
  | .memoryTimeout slot address walkEntry store => Sys2Proof.Machine.execMemoryTimeout slot address walkEntry store s
  | .invalidate value w => Sys2Proof.Machine.execInvalidate value w s
  | .invalidateDone => Sys2Proof.Machine.execInvalidateDone s
  | .rootWrite inst value w => Sys2Proof.Machine.execRootWrite inst value w s
  | .fqBase inst value w => Sys2Proof.Machine.execFqBase inst value w s
  | .fqEntries inst value w => Sys2Proof.Machine.execFqEntries inst value w s
  | .fqLocation inst value w => Sys2Proof.Machine.execFqLocation inst value w s
  | .atsInvalidate link address length => Sys2Proof.Machine.execAtsInvalidate link address length s
  | .dramRequestIssue channel lo hi => Sys2Proof.Machine.execDramRequestIssue channel lo hi s
  | .rhPenaltyEnd channel port => Sys2Proof.Machine.execRhPenaltyEnd channel port s
  | .rhSubwindow channel => Sys2Proof.Machine.execRhSubwindow channel s
  | .refresh channel => Sys2Proof.Machine.execRefresh channel s
  | .channelTempPoll channel readings => Sys2Proof.Machine.execChannelTempPoll channel readings s
  | .scrubRead channel ecc => Sys2Proof.Machine.execScrubRead channel ecc s
  | .scrubPeriod channel => Sys2Proof.Machine.execScrubPeriod channel s
  | .alertN channel replays persists => Sys2Proof.Machine.execAlertN channel replays persists s
  | .pdIdle channel => Sys2Proof.Machine.execPdIdle channel s
  | .selfRefreshEntry channel => Sys2Proof.Machine.execSelfRefreshEntry channel s
  | .cxlMemRead link hpa => Sys2Proof.Machine.execCxlMemRead link hpa s
  | .cxlMemWrite link hpa data => Sys2Proof.Machine.execCxlMemWrite link hpa data s
  | .hdmCommit link n commit hpa size dpa ways gran place => Sys2Proof.Machine.execHdmCommit link n commit hpa size dpa ways gran place s
  | .hostWindow link length value w => Sys2Proof.Machine.execHostWindow link length value w s
  | .flr inst => Sys2Proof.Machine.execFlr inst s
  | .pf0Flr link => Sys2Proof.Machine.execPf0Flr link s
  | .hotReset link => Sys2Proof.Machine.execHotReset link s
  | .perstN link asserted => Sys2Proof.Machine.execPerstN link asserted s
  | .configurationRequest link function => Sys2Proof.Machine.execConfigurationRequest link function s
  | .ideFailure link unanswered => Sys2Proof.Machine.execIdeFailure link unanswered s
  | .getEventRecords link log => Sys2Proof.Machine.execGetEventRecords link log s
  | .clearEventRecords link log all handles => Sys2Proof.Machine.execClearEventRecords link log all handles s
  | .setTimestamp link ns => Sys2Proof.Machine.execSetTimestamp link ns s
  | .getTimestamp link => Sys2Proof.Machine.execGetTimestamp link s
  | .getSupportedLogs link => Sys2Proof.Machine.execGetSupportedLogs link s
  | .getLog link uuid offset length => Sys2Proof.Machine.execGetLog link uuid offset length s
  | .identifyMemoryDevice link => Sys2Proof.Machine.execIdentifyMemoryDevice link s
  | .getHealthInfo link => Sys2Proof.Machine.execGetHealthInfo link s
  | .vdpRequest link msg => Sys2Proof.Machine.execVdpRequest link msg s
  | .vdpCyclic link => Sys2Proof.Machine.execVdpCyclic link s
  | .unsupportedMailbox link opcode => Sys2Proof.Machine.execUnsupportedMailbox link opcode s
  | .create inst w => Sys2Proof.Machine.execCreate inst w s
  | .destroy inst w => Sys2Proof.Machine.execDestroy inst w s
  | .restore inst w => Sys2Proof.Machine.execRestore inst w s
  | .resetWrite inst w => Sys2Proof.Machine.execResetWrite inst w s
  | .freeze inst w => Sys2Proof.Machine.execFreeze inst w s
  | .resume inst w => Sys2Proof.Machine.execResume inst w s
  | .resetComplete inst => Sys2Proof.Machine.execResetComplete inst s
  | .freezeTimeout inst => Sys2Proof.Machine.execFreezeTimeout inst s
  | .rrHead inst value w => Sys2Proof.Machine.execRrHead inst value w s
  | .spillPool inst value w => Sys2Proof.Machine.execSpillPool inst value w s
  | .spillBase inst value w => Sys2Proof.Machine.execSpillBase inst value w s
  | .rrBase inst value w => Sys2Proof.Machine.execRrBase inst value w s
  | .rrEntries inst value w => Sys2Proof.Machine.execRrEntries inst value w s
  | .linkWrite inst value w => Sys2Proof.Machine.execLinkWrite inst value w s
  | .logEnable inst bitmap w => Sys2Proof.Machine.execLogEnable inst bitmap w s
  | .logSwitch inst bitmap w => Sys2Proof.Machine.execLogSwitch inst bitmap w s
  | .logStop inst w => Sys2Proof.Machine.execLogStop inst w s
  | .logSwitchDone inst => Sys2Proof.Machine.execLogSwitchDone inst s
  | .roceSend a payload => Sys2Proof.Machine.execRoceSend a payload s
  | .rdmaWrite a key address data => Sys2Proof.Machine.execRdmaWrite a key address data s
  | .rdmaWriteImm a key address data imm => Sys2Proof.Machine.execRdmaWriteImm a key address data imm s
  | .rdmaRead p key address length => Sys2Proof.Machine.execRdmaRead p key address length s
  | .ackPacket p => Sys2Proof.Machine.execAckPacket p s
  | .roceNak p code => Sys2Proof.Machine.execRoceNak p code s
  | .cnp p => Sys2Proof.Machine.execCnp p s
  | .otherFrame port frame => Sys2Proof.Machine.execOtherFrame port frame s
  | .ackTimeout qp => Sys2Proof.Machine.execAckTimeout qp s
  | .rnrTimer qp => Sys2Proof.Machine.execRnrTimer qp s
  | .incPeriod qp => Sys2Proof.Machine.execIncPeriod qp s
  | .fitnessWindow plane a b => Sys2Proof.Machine.execFitnessWindow plane a b s
  | .probe plane => Sys2Proof.Machine.execProbe plane s
  | .probeTimeout port => Sys2Proof.Machine.execProbeTimeout port s
  | .repairTime plane => Sys2Proof.Machine.execRepairTime plane s
  | .rearm qp => Sys2Proof.Machine.execRearm qp s
  | .moveBack plane value w => Sys2Proof.Machine.execMoveBack plane value w s
  | .pathHold qp => Sys2Proof.Machine.execPathHold qp s
  | .openMsg a msg => Sys2Proof.Machine.execOpenMsg a msg s
  | .grantMsg a msg => Sys2Proof.Machine.execGrantMsg a msg s
  | .endMsg a msg => Sys2Proof.Machine.execEndMsg a msg s
  | .openRetry slot peer => Sys2Proof.Machine.execOpenRetry slot peer s
  | .openTimeout slot peer => Sys2Proof.Machine.execOpenTimeout slot peer s
  | .dataFlit flit => Sys2Proof.Machine.execDataFlit flit s
  | .idleFlit crcOk ack => Sys2Proof.Machine.execIdleFlit crcOk ack s
  | .nakFlit crcOk ack => Sys2Proof.Machine.execNakFlit crcOk ack s
  | .heartbeat hb => Sys2Proof.Machine.execHeartbeat hb s
  | .heartbeatSend => Sys2Proof.Machine.execHeartbeatSend s
  | .replayTimeout => Sys2Proof.Machine.execReplayTimeout s
  | .trainAttempt signal => Sys2Proof.Machine.execTrainAttempt signal s
  | .trainDone lanes => Sys2Proof.Machine.execTrainDone lanes s
  | .retrainDone ok => Sys2Proof.Machine.execRetrainDone ok s
  | .twinLoss => Sys2Proof.Machine.execTwinLoss s
  | .entryRecord => Sys2Proof.Machine.execEntryRecord s
  | .postRecord => Sys2Proof.Machine.execPostRecord s
  | .retireRecord => Sys2Proof.Machine.execRetireRecord s
  | .queueRecord => Sys2Proof.Machine.execQueueRecord s
  | .instanceRecord => Sys2Proof.Machine.execInstanceRecord s
  | .floorRecord => Sys2Proof.Machine.execFloorRecord s
  | .mirrorAck => Sys2Proof.Machine.execMirrorAck s
  | .claimMsg msg => Sys2Proof.Machine.execClaimMsg msg s
  | .claimRepeat => Sys2Proof.Machine.execClaimRepeat s
  | .claimWait => Sys2Proof.Machine.execClaimWait s
  | .switchOverEnd => Sys2Proof.Machine.execSwitchOverEnd s
  | .linkWait => Sys2Proof.Machine.execLinkWait s
  | .syncComplete => Sys2Proof.Machine.execSyncComplete s
  | .orphanDelay => Sys2Proof.Machine.execOrphanDelay s
  | .orphanNow w => Sys2Proof.Machine.execOrphanNow w s
  | .orphanCqHead value w => Sys2Proof.Machine.execOrphanCqHead value w s
  | .pairPolicy value w => Sys2Proof.Machine.execPairPolicy value w s
  | .vdpRead src msg => Sys2Proof.Machine.execVdpRead src msg s
  | .vdpWrite src msg => Sys2Proof.Machine.execVdpWrite src msg s
  | .segInit src msg => Sys2Proof.Machine.execSegInit src msg s
  | .segData src msg => Sys2Proof.Machine.execSegData src msg s
  | .segAbort src msg => Sys2Proof.Machine.execSegAbort src msg s
  | .segTimeout session => Sys2Proof.Machine.execSegTimeout session s
  | .discover src msg => Sys2Proof.Machine.execDiscover src msg s
  | .cyclic => Sys2Proof.Machine.execCyclic s
  | .resourceClaim resource value w => Sys2Proof.Machine.execResourceClaim resource value w s
  | .timerStart timer w => Sys2Proof.Machine.execTimerStart timer w s
  | .timerStop timer w => Sys2Proof.Machine.execTimerStop timer w s
  | .timerExpiry timer => Sys2Proof.Machine.execTimerExpiry timer s
  | .watchdogExpiry => Sys2Proof.Machine.execWatchdogExpiry s
  | .counterLogWrite => Sys2Proof.Machine.execCounterLogWrite s
  | .ownerKey value vpp w => Sys2Proof.Machine.execOwnerKey value vpp w s
  | .keyWrite principal value w => Sys2Proof.Machine.execKeyWrite principal value w s
  | .rightsWrite principal value w => Sys2Proof.Machine.execRightsWrite principal value w s
  | .imageUpdateDone => Sys2Proof.Machine.execImageUpdateDone s
  | .bootKeyDigest value vpp w => Sys2Proof.Machine.execBootKeyDigest value vpp w s
  | .glumeParityPass errors => Sys2Proof.Machine.execGlumeParityPass errors s
  | .targetRun w => Sys2Proof.Machine.execTargetRun w s
  | .targetDrain w => Sys2Proof.Machine.execTargetDrain w s
  | .targetDormant w => Sys2Proof.Machine.execTargetDormant w s
  | .targetFreeze w => Sys2Proof.Machine.execTargetFreeze w s
  | .unitApplied unit => Sys2Proof.Machine.execUnitApplied unit s
  | .modeDeadline => Sys2Proof.Machine.execModeDeadline s
  | .rollbackDone => Sys2Proof.Machine.execRollbackDone s
  | .zonePowerOff zone w => Sys2Proof.Machine.execZonePowerOff zone w s
  | .zonePowerOn zone w => Sys2Proof.Machine.execZonePowerOn zone w s
  | .zoneGated zone => Sys2Proof.Machine.execZoneGated zone s
  | .zoneWake zone => Sys2Proof.Machine.execZoneWake zone s
  | .holdEntry => Sys2Proof.Machine.execHoldEntry s
  | .sensorPoll temps package uncore zones factor => Sys2Proof.Machine.execSensorPoll temps package uncore zones factor s
  | .temperatureOutOfSpec sensor => Sys2Proof.Machine.execTemperatureOutOfSpec sensor s
  | .supplyOutOfSpec => Sys2Proof.Machine.execSupplyOutOfSpec s
  | .refclkLoss clock => Sys2Proof.Machine.execRefclkLoss clock s
  | .journalEccError => Sys2Proof.Machine.execJournalEccError s
  | .firmwareFault => Sys2Proof.Machine.execFirmwareFault s
  | .pwrgoodAssert role plca => Sys2Proof.Machine.execPwrgoodAssert role plca s
  | .pwrgoodDeassert => Sys2Proof.Machine.execPwrgoodDeassert s
  | .sysResetN low => Sys2Proof.Machine.execSysResetN low s
  | .deviceReset value w => Sys2Proof.Machine.execDeviceReset value w s
  | .fuseLoadDone fuses errors kept => Sys2Proof.Machine.execFuseLoadDone fuses errors kept s
  | .copyChosen board octal => Sys2Proof.Machine.execCopyChosen board octal s
  | .dramBringup spd bad => Sys2Proof.Machine.execDramBringup spd bad s
  | .loadEnd => Sys2Proof.Machine.execLoadEnd s
  | .runEntry => Sys2Proof.Machine.execRunEntry s
  | .logClear value w => Sys2Proof.Machine.execLogClear value w s
  | .portTrainingDone port up => Sys2Proof.Machine.execPortTrainingDone port up s
  | .cxlLinkTrained link fast => Sys2Proof.Machine.execCxlLinkTrained link fast s
  | .unitReportsClear slot => Sys2Proof.Machine.execUnitReportsClear slot s
  | .coreRestart core => Sys2Proof.Machine.execCoreRestart core s
  | .tapInstruction ir => Sys2Proof.Machine.execTapInstruction ir s
  | .managementFrame frame => Sys2Proof.Machine.execManagementFrame frame s
  | .plcaBeacon seen => Sys2Proof.Machine.execPlcaBeacon seen s

end Sys2Proof.Machine
end

