-- ==== Sys2Proof/Safety.lean ====
section
/-! DEFINITION. What a sound state is: the invariant that every step keeps. -/

namespace Sys2Proof.Machine

/-- Device memory, host memories and tile memories are in canonical form: strictly rising addresses, no cell equal to
what an unlisted address reads as (log entry 6). -/
def memOk (s : State) : Bool :=
  memWf s.ms.dram && s.ms.hosts.all (fun e => memWf e.2.mem) && s.cores.all (fun e => memWf e.2.tile)

/-- The object dictionary holds each entry at most once, in rising key order. -/
def dictOk (s : State) : Bool := tsorted s.od

/-- A sound state. No state that breaks it is reached from State.reset by steps. -/
def Sound (s : State) : Prop := memOk s = true ∧ dictOk s = true

/-- What every command keeps, whatever it does: the queue of waiting commands is as it was, no free value is drawn a
second time, and a sound state stays sound. -/
structure Keeps (r t : State) : Prop where
  pending : t.pending = r.pending
  freeCtr : r.freeCtr ≤ t.freeCtr
  sound : Sound r → Sound t

/-! ### Terms of the statements about cores -/

/-- Core c starts its next instruction with no imprecise exception pending: it is enabled, runs and has power (R171, R188, R459),
and fetching the instruction raises nothing (R176, Table 08-7). -/
def CoreStarts (s : State) (c : CoreId) : Prop :=
  coreActive s c = true ∧ fetchTrap s c = none ∧ (core s c).imp = none

/-- Core c executes its next instruction: it is enabled, runs and has power (R171, R188, R459), no interrupt that its level takes
is pending (R193), fetching the instruction raises nothing (R176, Table 08-7), and an imprecise ARITHMETIC exception that is
pending is not yet due (R191). -/
def CoreReady (s : State) (c : CoreId) : Prop :=
  coreActive s c = true ∧ takesIntr s c = false ∧ fetchTrap s c = none ∧
  ((core s c).imp.isSome = true → (core s c).impAge < 64)

/-- Core c executes its next instruction and no imprecise exception is pending. -/
def CoreClear (s : State) (c : CoreId) : Prop := takesIntr s c = false ∧ CoreStarts s c

/-- The state once an instruction of core c that began in s has completed, with its own effect t and the pc at a target: the
instruction is counted in INSTRUCTIONS (R198), and a pending imprecise exception ages (R191). -/
def ranTo (c : CoreId) (s : State) (target : Word) (t : State) : State :=
  retireAt c (core s c).imp.isSome target t

/-- The same, with the pc at the next instruction. -/
def ran (c : CoreId) (s t : State) : State := ranTo c s ((core s c).pc + 4) t

/-- The state with flags set in FLAGS of pstat (R191). -/
def flagged (c : CoreId) (fl : Nat) (s : State) : State :=
  coreMod c (fun k => { k with pstat := k.pstat ||| BitVec.ofNat 64 fl }) s

/-- No flag of a mask has its trap enabled in TE, bits 22:17 of pstat (R191). -/
def NoTrap (s : State) (c : CoreId) (fl : Nat) : Prop := fl &&& bitsOf (core s c).pstat.toNat 22 17 = 0

/-- SUBCODE of an ARITHMETIC exception: the highest of the flags raised whose trap is enabled, as 1 << bit (Table 08-7). -/
def trapSub (s : State) (c : CoreId) (fl : Nat) : Nat := 2 ^ Nat.log2 (fl &&& bitsOf (core s c).pstat.toNat 22 17)

/-- What an arithmetic instruction of core c with a trap comes to. With PRECISE set ARITHMETIC is taken at the instruction,
nothing written (R192); with PRECISE clear the result and the flags are written, and the exception becomes pending with the
instruction's address (R191). -/
def arithTrapped (c : CoreId) (s : State) (sub fl : Nat) (write : State → State) : State :=
  if precise s c then
    takeTrap c { vec := 14, sub := sub, val := (core s c).pc } (core s c).pc false (fetchTouch c s)
  else
    ran c s (coreMod c (fun k => { k with imp := some (sub, (core s c).pc) })
      (flagged c fl (write (fetchTouch c s))))

/-- The state once the next instruction of core c has raised an exception, with nothing of its own done (R185). -/
def tookTrap (c : CoreId) (s : State) (x : Trap) : State := instrTrap c (core s c).pc x (fetchTouch c s)

/-- u is s after an access of a core's caches: nothing differs but L1 lines, recent misses and corrected tile words of the
cores, the clusters' caches and their registers 0x3480 to 0x348F, translations that units hold, requests that wait at the DRAM
channels, and poison, which may only come to more codewords (of a dirty sector lost to parity, Table 10-2). -/
structure Quiet (s u : State) : Prop where
  ms : u.ms = { s.ms with poison := u.ms.poison, reqs := u.ms.reqs, tlb := u.ms.tlb }
  poison : ∀ w ∈ s.ms.poison, w ∈ u.ms.poison
  core : ∀ d : CoreId, core u d = { core s d with
    l1d := (core u d).l1d, l1i := (core u d).l1i, misses := (core u d).misses, tileBad := (core u d).tileBad }
  od : ∀ i j : Nat, j < 256 → ¬ (0x3480 ≤ i ∧ i ≤ 0x348F) → od u i j = od s i j
  mode : u.mode = s.mode
  time : u.time = s.time
  out : u.out = s.out
  js : u.js = s.js
  rest : u.gov = s.gov ∧ u.tw = s.tw ∧ u.net = s.net ∧ u.pw = s.pw ∧ u.vd = s.vd ∧ u.cx = s.cx ∧ u.dr = s.dr ∧
    u.bt = s.bt ∧ u.pins = s.pins ∧ u.ras = s.ras

/-- No tag, sector-state or data parity error waits in the L2 of a core's cluster, and none in a dirty sector of another L2
(Table 10-2). -/
def L2NoError (s : State) (c : CoreId) : Prop :=
  (∀ e ∈ (cluster s (clusterOf c)).l2, e.2.tagBad = 0 ∧ e.2.bad = 0) ∧
  ∀ k, ∀ e ∈ (cluster s k).l2, e.2.bad &&& e.2.dirty = 0

/-- The status word of an entry: CAUSE, SUBCODE, NEST, IMPRECISE, PPL, PIE, IE and EXL (R185, Table 08-4). -/
def EntryWord (old new : Word) (ppl vec sub nest : Nat) (imprecise : Bool) : Prop :=
  bitsOf new.toNat 63 32 = 0 ∧ bitsOf new.toNat 31 24 = vec ∧ bitsOf new.toNat 23 16 = sub ∧
  bitsOf new.toNat 15 12 = nest ∧ new.getLsbD 11 = imprecise ∧ bitsOf new.toNat 10 9 = ppl ∧
  new.getLsbD 8 = old.getLsbD 7 ∧ new.getLsbD 7 = false ∧ new.getLsbD 6 = true ∧ bitsOf new.toNat 5 0 = 0

end Sys2Proof.Machine
end

