-- ==== Sys2Proof/Certificates/Slice0/Obligations.lean ====
section
/-! DEFINITION. The statements for the provers: what the commands of the block do, by the rules of the spec. -/

namespace Sys2Proof.Machine

/-- The core that an instruction command or an exception command acts on; none for the other commands. -/
def coreOf : Instr → Option CoreId
  | .interruptTaken c | .impreciseArithmetic c | .illegalInstruction c _ | .aluAdd c _ _ _ | .aluSub c _ _ _ |
    .aluAnd c _ _ _ | .aluOr c _ _ _ | .aluXor c _ _ _ | .aluSll c _ _ _ | .aluSrl c _ _ _ | .aluSra c _ _ _ |
    .aluSlt c _ _ _ | .aluSltu c _ _ _ | .aluMin c _ _ _ | .aluMax c _ _ _ | .aluMinu c _ _ _ | .aluMaxu c _ _ _ |
    .aluRotl c _ _ _ | .aluClz c _ _ | .aluwAdd c _ _ _ | .aluwSub c _ _ _ | .aluwAnd c _ _ _ | .aluwOr c _ _ _ |
    .aluwXor c _ _ _ | .aluwSll c _ _ _ | .aluwSrl c _ _ _ | .aluwSra c _ _ _ | .aluwSlt c _ _ _ |
    .aluwSltu c _ _ _ | .aluwMin c _ _ _ | .aluwMax c _ _ _ | .aluwMinu c _ _ _ | .aluwMaxu c _ _ _ |
    .aluwRotl c _ _ _ | .aluwClz c _ _ | .mul c _ _ _ | .mulh c _ _ _ | .mulhu c _ _ _ | .div c _ _ _ |
    .divu c _ _ _ | .rem c _ _ _ | .remu c _ _ _ | .chkAdd c _ _ _ | .chkSub c _ _ _ | .chkMul c _ _ _ |
    .fadd c _ _ _ _ _ | .fsub c _ _ _ _ _ | .fmul c _ _ _ _ _ | .fdiv c _ _ _ _ _ | .fsqrt c _ _ _ _ |
    .fmin c _ _ _ _ _ | .fmax c _ _ _ _ _ | .fmac c _ _ _ _ _ | .lrx c _ _ | .scx c _ _ _ | .ftoi c _ _ _ _ |
    .ftou c _ _ _ _ | .itof c _ _ _ _ | .utof c _ _ _ _ | .ftof c _ _ _ _ | .fint c _ _ _ _ | .fbits c _ _ |
    .gbits c _ _ | .feq c _ _ _ _ | .flt c _ _ _ _ | .fle c _ _ _ _ | .fltq c _ _ _ _ | .fleq c _ _ _ _ |
    .funord c _ _ _ _ | .fclass c _ _ _ | .addi c _ _ _ | .andi c _ _ _ | .ori c _ _ _ | .xori c _ _ _ |
    .lui c _ _ | .slti c _ _ _ | .slli c _ _ _ _ | .srli c _ _ _ _ | .srai c _ _ _ _ | .rotli c _ _ _ _ |
    .lb c _ _ _ | .lh c _ _ _ | .lw c _ _ _ | .ld c _ _ _ | .lbu c _ _ _ | .lhu c _ _ _ | .lwu c _ _ _ |
    .lda c _ _ _ | .sb c _ _ _ | .sh c _ _ _ | .sw c _ _ _ | .sd c _ _ _ | .stl c _ _ _ | .fld c _ _ _ |
    .fsd c _ _ _ | .flw c _ _ _ | .fsw c _ _ _ | .fence c _ | .beq c _ _ _ | .bne c _ _ _ | .blt c _ _ _ |
    .bge c _ _ _ | .bltu c _ _ _ | .bgeu c _ _ _ | .j c _ | .jal c _ | .jalr c _ _ _ | .sysc c _ | .mcall c _ |
    .sret c | .mret c | .mfs c _ _ | .mts c _ _ | .wfi c | .halt c | .afence c | .brk c _ | .srd c _ _ _ |
    .swr c _ _ _ | .swrn c _ _ _ | .strSend c _ _ _ | .spoll c _ _ _ | .prefetch c _ | .clean c _ | .cleanInv c _ |
    .inv c _ | .cleanRange c _ _ | .cleanInvRange c _ _ | .invRange c _ _ | .cleanSw c _ _ | .cleanInvSw c _ _ |
    .invSw c _ _ | .lockfill c _ _ | .lockset c _ _ | .svAdd c _ | .svSub c _ | .svAddss c _ | .svAddus c _ |
    .svSubss c _ | .svSubus c _ | .svAnd c _ | .svOr c _ | .svXor c _ | .svAndn c _ | .svMin c _ | .svMax c _ |
    .svMinu c _ | .svMaxu c _ | .svCmpeq c _ | .svCmpgt c _ | .svCmpgtu c _ | .svMul c _ | .svAvgu c _ |
    .svAbsdu c _ | .svSlli c _ _ | .svSrli c _ _ | .svSrai c _ _ | .svFadd c _ | .svFsub c _ | .svFmul c _ |
    .svFdiv c _ | .svFsqrt c _ | .svFmin c _ | .svFmax c _ | .svFmac c _ | .svFcmpeq c _ | .svFcmplt c _ |
    .svFcmple c _ | .svFabs c _ | .svFneg c _ | .pick c _ _ | .pickk c _ _ | .mixlo c _ _ | .mixhi c _ _ |
    .sepev c _ _ | .sepod c _ _ | .slide c _ _ | .bcast c _ _ | .revl c _ _ | .putl c _ | .getu c _ | .gets c _ |
    .fill c _ | .topb c _ | .popc c _ | .rsum c _ | .rsumu c _ | .rmin c _ | .rmax c _ | .rminu c _ | .rmaxu c _ |
    .svld c _ _ _ _ _ _ | .svst c _ _ _ _ _ _ | .lvAdd c _ | .lvSub c _ | .lvMul c _ | .lvAnd c _ | .lvOr c _ |
    .lvXor c _ | .lvMin c _ | .lvMax c _ | .lvMinu c _ | .lvMaxu c _ | .lvFadd c _ | .lvFsub c _ | .lvFmul c _ |
    .lvFdiv c _ | .lvFmin c _ | .lvFmax c _ | .lvCmpeq c _ | .lvCmplt c _ | .lvCmpltu c _ | .lvFcmpeq c _ |
    .lvFcmplt c _ | .compress c _ | .gather c _ | .scatter c _ | .unpack c _ | .pack c _ => some c
  | .sqTailWrite _ _ _ _ _ _ | .cqHeadWrite _ _ _ _ _ | .faultHeadWrite _ _ _ _ | .faultRetry _ _ _ _ |
    .faultFail _ _ _ _ | .createCq _ _ _ | .createSq _ _ _ | .deleteSq _ _ _ | .deleteCq _ _ _ |
    .createQp _ _ _ | .connectQp _ _ _ | .destroyQp _ _ _ | .registerRegion _ _ _ |
    .deregisterRegion _ _ _ | .query _ _ _ |
    .nop _ _ | .plan _ _ | .cancel _ _ | .spillReservation _ _ | .sqHeadWriteback _ _ | .placePhase |
    .placeUrgent | .streamTransfer _ _ | .endOfStream _ _ | .stageFinish _ | .completionPost _ _ |
    .coalesceTimeout _ _ | .deadline _ _ _ | .tick _ | .budgetUrgent _ | .zoneDispatch _ | .taskStopped _ |
    .wait _ _ _ _ | .signal _ _ _ | .delay _ _ | .clear _ _ | .waitTimeout _ | .delayExpiry _ | .avsResponse _ |
    .l2Enable _ _ | .l2Disable _ _ | .l2DrainDone _ | .prefetchEnable _ _ _ | .pageRead _ | .dictionaryPrepare _ |
    .scan _ | .hashBuild _ | .hashProbe _ | .partition _ | .hashGroup _ | .sort _ | .merge _ | .topN _ |
    .groupSorted _ | .groupHash _ | .inflate _ | .deflate _ | .kilnSelfTest _ _ | .digest _ | .lookup _ |
    .udoStage _ | .exprStage _ | .combine _ | .exchSend _ | .exchRecv _ | .source _ | .sinkDevice _ | .sinkHost _ |
    .sinkRemote _ | .descriptorFetch _ | .tunRequest _ _ | .descriptorWriteback _ | .faultTimeout _ |
    .memoryTimeout _ _ _ _ | .invalidate _ _ | .invalidateDone | .rootWrite _ _ _ | .fqBase _ _ _ |
    .fqEntries _ _ _ | .fqLocation _ _ _ | .atsInvalidate _ _ _ | .dramRequestIssue _ _ _ | .rhPenaltyEnd _ _ |
    .rhSubwindow _ | .refresh _ | .channelTempPoll _ _ | .scrubRead _ _ | .scrubPeriod _ | .alertN _ _ _ |
    .pdIdle _ | .selfRefreshEntry _ | .cxlMemRead _ _ | .cxlMemWrite _ _ _ | .hdmCommit _ _ _ _ _ _ _ _ _ |
    .hostWindow _ _ _ _ | .flr _ | .pf0Flr _ | .hotReset _ | .perstN _ _ | .configurationRequest _ _ |
    .ideFailure _ _ | .getEventRecords _ _ | .clearEventRecords _ _ _ _ | .setTimestamp _ _ | .getTimestamp _ |
    .getSupportedLogs _ | .getLog _ _ _ _ | .identifyMemoryDevice _ | .getHealthInfo _ | .vdpRequest _ _ |
    .vdpCyclic _ | .unsupportedMailbox _ _ | .create _ _ | .destroy _ _ | .restore _ _ | .resetWrite _ _ |
    .freeze _ _ | .resume _ _ | .resetComplete _ | .freezeTimeout _ | .rrHead _ _ _ | .spillPool _ _ _ |
    .spillBase _ _ _ | .rrBase _ _ _ | .rrEntries _ _ _ | .linkWrite _ _ _ | .logEnable _ _ _ | .logSwitch _ _ _ |
    .logStop _ _ | .logSwitchDone _ | .roceSend _ _ | .rdmaWrite _ _ _ _ | .rdmaWriteImm _ _ _ _ _ |
    .rdmaRead _ _ _ _ | .ackPacket _ | .roceNak _ _ | .cnp _ | .otherFrame _ _ | .ackTimeout _ | .rnrTimer _ |
    .incPeriod _ | .fitnessWindow _ _ _ | .probe _ | .probeTimeout _ | .repairTime _ | .rearm _ | .moveBack _ _ _ |
    .pathHold _ | .openMsg _ _ | .grantMsg _ _ | .endMsg _ _ | .openRetry _ _ | .openTimeout _ _ | .dataFlit _ |
    .idleFlit _ _ | .nakFlit _ _ | .heartbeat _ | .heartbeatSend | .replayTimeout | .trainAttempt _ |
    .trainDone _ | .retrainDone _ | .twinLoss | .entryRecord | .postRecord | .retireRecord | .queueRecord |
    .instanceRecord | .floorRecord | .mirrorAck | .claimMsg _ | .claimRepeat | .claimWait | .switchOverEnd |
    .linkWait | .syncComplete | .orphanDelay | .orphanNow _ | .orphanCqHead _ _ | .pairPolicy _ _ | .vdpRead _ _ |
    .vdpWrite _ _ | .segInit _ _ | .segData _ _ | .segAbort _ _ | .segTimeout _ | .discover _ _ | .cyclic |
    .resourceClaim _ _ _ | .timerStart _ _ | .timerStop _ _ | .timerExpiry _ | .watchdogExpiry | .counterLogWrite |
    .ownerKey _ _ _ | .keyWrite _ _ _ | .rightsWrite _ _ _ | .imageUpdateDone | .bootKeyDigest _ _ _ |
    .glumeParityPass _ | .targetRun _ | .targetDrain _ | .targetDormant _ | .targetFreeze _ | .unitApplied _ |
    .modeDeadline | .rollbackDone | .zonePowerOff _ _ | .zonePowerOn _ _ | .zoneGated _ | .zoneWake _ |
    .holdEntry | .sensorPoll _ _ _ _ _ | .temperatureOutOfSpec _ | .supplyOutOfSpec | .refclkLoss _ |
    .journalEccError | .firmwareFault | .pwrgoodAssert _ _ | .pwrgoodDeassert | .sysResetN _ | .deviceReset _ _ |
    .fuseLoadDone _ _ _ | .copyChosen _ _ | .dramBringup _ _ | .loadEnd | .runEntry | .logClear _ _ |
    .portTrainingDone _ _ | .cxlLinkTrained _ _ | .unitReportsClear _ | .coreRestart _ | .tapInstruction _ |
    .managementFrame _ | .plcaBeacon _ => none

/-- The status registers of Table 08-2 that MFS reads: number, lowest level, and the value on core c. -/
def statTable (s : State) (c : CoreId) : List (Nat × Level × Word) :=
  let k := core s c
  [(0x00, .t, k.pstat), (0x01, .t, k.lvi), (0x10, .s, k.sepc), (0x11, .s, k.sstat), (0x12, .s, k.sval),
   (0x20, .m, k.mepc), (0x21, .m, k.mstat), (0x22, .m, k.mval), (0x23, .m, k.estk), (0x30, .s, BitVec.ofNat 64 c.val)]

/-- The core after MTS of v: PRECISE (23), TE (22:17), RM (9:8) and FLAGS (5:0) of pstat are written, bits 5:0 of sstat and
mstat read 0, coreid discards the write, the others take all of v (Tables 08-2 to 08-4). -/
def statTaken (n : Nat) (v : Word) (k : Core) : Core :=
  if n = 0x00 then { k with pstat := (k.pstat &&& 0xFFFFFFFFFF01FCC0) ||| (v &&& 0x0000000000FE033F) }
  else if n = 0x01 then { k with lvi := v }
  else if n = 0x10 then { k with sepc := v }
  else if n = 0x11 then { k with sstat := v &&& 0x00000000FFFFFFC0 }
  else if n = 0x12 then { k with sval := v }
  else if n = 0x20 then { k with mepc := v }
  else if n = 0x21 then { k with mstat := v &&& 0x00000000FFFFFFC0 }
  else if n = 0x22 then { k with mval := v }
  else if n = 0x23 then { k with estk := v }
  else k

/-- The register an instruction of a core writes. -/
inductive Dest
  | g (r : Reg)
  | f (r : Reg)
  deriving DecidableEq, Repr

/-- t is s after an instruction of core c that completes and writes at most one register: nothing else differs but the
pc, FLAGS (which only grow), the pending imprecise exception's age, the core's INSTRUCTIONS, and what fetching the
instruction leaves: L1I lines, recent misses and corrected tile words of the core, its cluster's L2 and counters, translations held,
requests at the channels and poison of codewords lost to L2 parity (Table 10-2). -/
structure RegisterFrame (c : CoreId) (d : Option Dest) (s t : State) : Prop where
  g : ∀ r : Reg, d ≠ some (.g r) → gGet t c r = gGet s c r
  f : ∀ r : Reg, d ≠ some (.f r) → fGet t c r = fGet s c r
  own : core t c = { core s c with
    g := (core t c).g, f := (core t c).f, pc := (core t c).pc, pstat := (core t c).pstat, l1i := (core t c).l1i
    misses := (core t c).misses, tileBad := (core t c).tileBad, impAge := (core t c).impAge }
  pstat : ∃ fl : Nat, fl < 64 ∧ (core t c).pstat = (core s c).pstat ||| BitVec.ofNat 64 fl
  others : ∀ e : CoreId, e ≠ c → core t e = core s e
  entries : ∀ i j : Nat, j < 256 → i ≠ 0x3480 + clusterOf c → (i ≠ 0x3400 + c.val ∨ j ≠ 3) → od t i j = od s i j
  memory : t.ms = { s.ms with poison := t.ms.poison, reqs := t.ms.reqs, tlb := t.ms.tlb }
  poison : ∀ w ∈ s.ms.poison, w ∈ t.ms.poison
  caches : ∀ k : Nat, k ≠ clusterOf c → cluster t k = cluster s k
  rest : t.mode = s.mode ∧ t.time = s.time ∧ t.out = s.out ∧ t.js = s.js ∧ t.ras = s.ras ∧ t.gov = s.gov ∧ t.tw = s.tw ∧
    t.net = s.net ∧ t.pw = s.pw ∧ t.vd = s.vd ∧ t.cx = s.cx ∧ t.dr = s.dr ∧ t.bt = s.bt ∧ t.pins = s.pins

/-- The scalar instructions that write g(rd) and nothing else but flags. -/
def gForms (c : CoreId) (rd ra rb : Reg) (imm : BitVec 16) (w : Bool) (n : Fin 64) (fmt : FFmt) (rm : FRm) : List Instr :=
  [.aluAdd c rd ra rb, .aluSub c rd ra rb, .aluAnd c rd ra rb, .aluOr c rd ra rb, .aluXor c rd ra rb, .aluSll c rd ra rb,
   .aluSrl c rd ra rb, .aluSra c rd ra rb, .aluSlt c rd ra rb, .aluSltu c rd ra rb, .aluMin c rd ra rb, .aluMax c rd ra rb,
   .aluMinu c rd ra rb, .aluMaxu c rd ra rb, .aluRotl c rd ra rb, .aluClz c rd ra, .aluwAdd c rd ra rb, .aluwSub c rd ra rb,
   .aluwAnd c rd ra rb, .aluwOr c rd ra rb, .aluwXor c rd ra rb, .aluwSll c rd ra rb, .aluwSrl c rd ra rb,
   .aluwSra c rd ra rb, .aluwSlt c rd ra rb, .aluwSltu c rd ra rb, .aluwMin c rd ra rb, .aluwMax c rd ra rb,
   .aluwMinu c rd ra rb, .aluwMaxu c rd ra rb, .aluwRotl c rd ra rb, .aluwClz c rd ra, .mul c rd ra rb, .mulh c rd ra rb,
   .mulhu c rd ra rb, .div c rd ra rb, .divu c rd ra rb, .rem c rd ra rb, .remu c rd ra rb, .addi c rd ra imm,
   .andi c rd ra imm, .ori c rd ra imm, .xori c rd ra imm, .slti c rd ra imm, .lui c rd imm, .slli c rd ra w n,
   .srli c rd ra w n, .srai c rd ra w n, .rotli c rd ra w n, .ftoi c rd ra fmt rm, .ftou c rd ra fmt rm, .fbits c rd ra,
   .feq c rd ra rb fmt, .flt c rd ra rb fmt, .fle c rd ra rb fmt, .fltq c rd ra rb fmt, .fleq c rd ra rb fmt,
   .funord c rd ra rb fmt, .fclass c rd ra fmt]

/-- The scalar instructions that write f(rd) and nothing else but flags. -/
def fForms (c : CoreId) (rd ra rb : Reg) (fmt : FFmt) (rm : FRm) : List Instr :=
  [.fadd c rd ra rb fmt rm, .fsub c rd ra rb fmt rm, .fmul c rd ra rb fmt rm, .fdiv c rd ra rb fmt rm,
   .fmin c rd ra rb fmt rm, .fmax c rd ra rb fmt rm, .fmac c rd ra rb fmt rm, .fsqrt c rd ra fmt rm, .itof c rd ra fmt rm,
   .utof c rd ra fmt rm, .ftof c rd ra fmt rm, .fint c rd ra fmt rm, .gbits c rd ra]

/-- The branches and the jump that write no register. -/
def branchForms (c : CoreId) (ra rb : Reg) (d : BitVec 16) (e : BitVec 26) : List Instr :=
  [.beq c ra rb d, .bne c ra rb d, .blt c ra rb d, .bge c ra rb d, .bltu c ra rb d, .bgeu c ra rb d, .j c e]

/-- The integer short-vector instructions and the lane each gives from two lanes a and b of w bits (R203). -/
def svIntTable (c : CoreId) (o : SvOp) : List (Instr × (Nat → Nat → Nat → Nat)) :=
  [(.svAdd c o, fun w a b => (a + b) % 2 ^ w),
   (.svSub c o, fun w a b => (a + 2 ^ w - b) % 2 ^ w),
   (.svAddss c o, fun w a b => ofSigned w (max (-(2 ^ (w - 1))) (min (toSigned w a + toSigned w b) (2 ^ (w - 1) - 1)))),
   (.svAddus c o, fun w a b => min (a + b) (2 ^ w - 1)),
   (.svSubss c o, fun w a b => ofSigned w (max (-(2 ^ (w - 1))) (min (toSigned w a - toSigned w b) (2 ^ (w - 1) - 1)))),
   (.svSubus c o, fun _ a b => a - b),
   (.svAnd c o, fun _ a b => a &&& b), (.svOr c o, fun _ a b => a ||| b), (.svXor c o, fun _ a b => a ^^^ b),
   (.svAndn c o, fun w a b => a &&& (2 ^ w - 1 - b)),
   (.svMin c o, fun w a b => if toSigned w a < toSigned w b then a else b),
   (.svMax c o, fun w a b => if toSigned w a < toSigned w b then b else a),
   (.svMinu c o, fun _ a b => min a b), (.svMaxu c o, fun _ a b => max a b),
   (.svCmpeq c o, fun w a b => if a = b then 2 ^ w - 1 else 0),
   (.svCmpgt c o, fun w a b => if toSigned w b < toSigned w a then 2 ^ w - 1 else 0),
   (.svCmpgtu c o, fun w a b => if b < a then 2 ^ w - 1 else 0),
   (.svMul c o, fun w a b => a * b % 2 ^ w), (.svAvgu c o, fun _ a b => (a + b + 1) / 2),
   (.svAbsdu c o, fun _ a b => max a b - min a b)]

/-- The floating-point short-vector instructions: whether vb must be 0, and the lane and flags each gives from the lanes
of va and vb and the old lane of vd (R204). -/
def svFpTable (c : CoreId) (o : SvOp) : List (Instr × Bool × (FFmt → Round → Nat → Nat → Nat → Nat × FFlags)) :=
  [(.svFadd c o, false, fun m r a b _ => fadd m r a b), (.svFsub c o, false, fun m r a b _ => fsub m r a b),
   (.svFmul c o, false, fun m r a b _ => fmul m r a b), (.svFdiv c o, false, fun m r a b _ => fdiv m r a b),
   (.svFsqrt c o, true, fun m r a _ _ => fsqrt m r a), (.svFmin c o, false, fun m _ a b _ => fminmax m false a b),
   (.svFmax c o, false, fun m _ a b _ => fminmax m true a b), (.svFmac c o, false, fun m r a b d => fmac m r a b d),
   (.svFcmpeq c o, false, fun m _ a b _ =>
     let x := fcmp m .eq false a b
     (if x.1 then 2 ^ m.width - 1 else 0, x.2)),
   (.svFcmplt c o, false, fun m _ a b _ =>
     let x := fcmp m .lt true a b
     (if x.1 then 2 ^ m.width - 1 else 0, x.2)),
   (.svFcmple c o, false, fun m _ a b _ =>
     let x := fcmp m .le true a b
     (if x.1 then 2 ^ m.width - 1 else 0, x.2)),
   (.svFabs c o, true, fun m _ a _ _ => (fabs m a, 0)), (.svFneg c o, true, fun m _ a _ _ => (fneg m a, 0))]

/-- Whether a register field names a register of the view that Q selects: d0 to d31, or v0 to v15 (R201). -/
def InView (o : SvOp) (r : Reg) : Prop := o.q = true → r.val < 16

/-- The permutes and moves of R207 and Table 09-2 that write vd, with the condition on their fields and the lanes of vd from
the n lanes of va and vb, the old lanes of vd, and g(va). -/
def svMoveTable (c : CoreId) (o : SvOp) (param : Fin 16) (n w : Nat) :
    List (Instr × Prop × (List Nat → List Nat → List Nat → Nat → List Nat)) :=
  [(.mixlo c o param, InView o o.va ∧ InView o o.vb, fun a b _ _ => (List.range n).map fun j =>
      if j % 2 = 0 then a.getD (j / 2) 0 else b.getD (j / 2) 0),
   (.mixhi c o param, InView o o.va ∧ InView o o.vb, fun a b _ _ => (List.range n).map fun j =>
      if j % 2 = 0 then a.getD (n / 2 + j / 2) 0 else b.getD (n / 2 + j / 2) 0),
   (.sepev c o param, InView o o.va ∧ InView o o.vb, fun a b _ _ => (List.range n).map fun j => (a ++ b).getD (2 * j) 0),
   (.sepod c o param, InView o o.va ∧ InView o o.vb, fun a b _ _ => (List.range n).map fun j => (a ++ b).getD (2 * j + 1) 0),
   (.bcast c o param, InView o o.va ∧ InView o o.vb ∧ param.val < n, fun a _ _ _ => List.replicate n (a.getD param.val 0)),
   (.revl c o param, InView o o.va ∧ param = 0 ∧ o.vb = 0, fun a _ _ _ => a.reverse),
   (.putl c o, o.vb.val < n, fun _ _ d x => d.set o.vb.val (x % 2 ^ w)),
   (.fill c o, InView o o.vb, fun _ _ _ x => List.replicate n (x % 2 ^ w)),
   (.popc c o, InView o o.va ∧ InView o o.vb, fun a _ _ _ => a.map fun x => ((List.range w).filter fun i => x.testBit i).length)]

/-- The moves and reductions of Table 09-2 that write g(vd), with the condition on their fields and the integer they
give, modulo 2^64, from the n lanes of va of w bits. -/
def svToGTable (c : CoreId) (o : SvOp) (n w : Nat) : List (Instr × Prop × (List Nat → Int)) :=
  [(.getu c o, o.vb.val < n, fun a => (a.getD o.vb.val 0 : Nat)),
   (.gets c o, o.vb.val < n, fun a => toSigned w (a.getD o.vb.val 0)),
   (.topb c o, InView o o.vb ∧ o.esz = 0, fun a => (ofLanes 1 (a.map fun x => x / 128) : Nat)),
   (.rsum c o, InView o o.vb, fun a => (a.map (toSigned w)).sum),
   (.rsumu c o, InView o o.vb, fun a => (a.sum : Nat)),
   (.rmin c o, InView o o.vb, fun a => foldFirst 0 min (a.map (toSigned w))),
   (.rmax c o, InView o o.vb, fun a => foldFirst 0 max (a.map (toSigned w))),
   (.rminu c o, InView o o.vb, fun a => (foldFirst 0 min a : Nat)),
   (.rmaxu c o, InView o o.vb, fun a => (foldFirst 0 max a : Nat))]

/-- One row of Table 09-4: the instruction, its major and op, whether its operands are legal, what it does for an
element, and what it does when it completes with a count of elements written. -/
structure LvRow where
  i : Instr
  major : Nat
  op : Nat
  ok : Prop
  elem : ElemFn
  finish : Nat → State → State := fun _ s => s

/-- The long-vector instructions (Table 09-4), their elements by the element operations of the model: two sources and a
result, a compare into a bitmap bit, and the element operations of COMPRESS, GATHER, SCATTER, UNPACK and PACK. -/
def LvTable (c : CoreId) (o : LvOp) (r : Round) (width : Nat) (row : LvRow) : Prop :=
  let int := fun (i : Instr) (op : Nat) (f : Nat → Nat → Nat → Nat) =>
    ({ i := i, major := 0x38, op := op, ok := True, elem := lvArithElem c o fun a b => (f (8 * 2 ^ o.esz.val) a b, 0) } : LvRow)
  let fp := fun (i : Instr) (op : Nat) (f : FFmt → Nat → Nat → Nat × FFlags) =>
    ({ i := i, major := 0x38, op := op, ok := o.esz = 2 ∨ o.esz = 3
       elem := lvArithElem c o fun a b => f (if o.esz = 2 then .b32 else .b64) a b } : LvRow)
  let cmp := fun (i : Instr) (op : Nat) (f : Nat → Nat → Nat → Bool) =>
    ({ i := i, major := 0x39, op := op, ok := True, elem := lvCmpElem c o fun a b => (f (8 * 2 ^ o.esz.val) a b, 0) } : LvRow)
  let fcmp := fun (i : Instr) (op : Nat) (rel : FRel) (sig : Bool) =>
    ({ i := i, major := 0x39, op := op, ok := o.esz = 2 ∨ o.esz = 3
       elem := lvCmpElem c o fun a b => fcmp (if o.esz = 2 then .b32 else .b64) rel sig a b } : LvRow)
  row ∈ [int (.lvAdd c o) 0 fun w a b => (a + b) % 2 ^ w, int (.lvSub c o) 1 fun w a b => (a + 2 ^ w - b) % 2 ^ w,
   int (.lvMul c o) 2 fun w a b => a * b % 2 ^ w, int (.lvAnd c o) 3 fun _ a b => a &&& b,
   int (.lvOr c o) 4 fun _ a b => a ||| b, int (.lvXor c o) 5 fun _ a b => a ^^^ b,
   int (.lvMin c o) 6 fun w a b => if toSigned w a < toSigned w b then a else b,
   int (.lvMax c o) 7 fun w a b => if toSigned w a < toSigned w b then b else a,
   int (.lvMinu c o) 8 fun _ a b => min a b, int (.lvMaxu c o) 9 fun _ a b => max a b,
   fp (.lvFadd c o) 10 fun m a b => fadd m r a b, fp (.lvFsub c o) 11 fun m a b => fsub m r a b,
   fp (.lvFmul c o) 12 fun m a b => fmul m r a b, fp (.lvFdiv c o) 13 fun m a b => fdiv m r a b,
   fp (.lvFmin c o) 14 fun m a b => fminmax m false a b, fp (.lvFmax c o) 15 fun m a b => fminmax m true a b,
   cmp (.lvCmpeq c o) 0 fun _ a b => decide (a = b),
   cmp (.lvCmplt c o) 1 fun w a b => decide (toSigned w a < toSigned w b),
   cmp (.lvCmpltu c o) 2 fun _ a b => decide (a < b),
   fcmp (.lvFcmpeq c o) 3 .eq false, fcmp (.lvFcmplt c o) 4 .lt true,
   { i := .compress c o, major := 0x39, op := 8, ok := True, elem := lvCompressElem c o
     finish := fun n s => gSet c o.rc (BitVec.ofNat 64 n) s },
   { i := .gather c o, major := 0x3A, op := 0, ok := True, elem := lvGatherElem c o },
   { i := .scatter c o, major := 0x3A, op := 1, ok := True, elem := lvScatterElem c o },
   { i := .unpack c o, major := 0x3B, op := 0, ok := 1 ≤ width ∧ width ≤ 8 * 2 ^ o.esz.val, elem := lvUnpackElem c o },
   { i := .pack c o, major := 0x3B, op := 1, ok := 1 ≤ width ∧ width ≤ 8 * 2 ^ o.esz.val, elem := lvPackElem c o }]

/-- Elements e to stop - 1 are performed in ascending order, none with an exception or a flag whose trap is enabled:
from state s with OUT count n to state t with count m, each element's flags set as it is performed and fl all of them
together. -/
inductive LvRuns (c : CoreId) (elem : ElemFn) : Nat → Nat → Nat → State → Nat → Nat → State → Prop
  | none (e n : Nat) (s : State) : LvRuns c elem e e n s 0 n s
  | one (e stop n m k f fl : Nat) (s s' t : State) : elem e n s = .done f k s' → NoTrap s c f → e < stop →
      LvRuns c elem (e + 1) stop k (flagged c f s') fl m t → LvRuns c elem e stop n s (f ||| fl) m t

/-- The end of an element group, or of the instruction. -/
def groupEnd (index n : Nat) : Nat := min n ((index / 64 + 1) * 64)

/-- A doorbell page of an instance takes a write on a link: the mode lets functions be reached, the link exists, and the
page is live (R297, R299, Tables 15-1 and 22-1). -/
def PageTaken (s : State) (link n : Nat) : Prop :=
  functionsLive s = true ∧ linkExists s link = true ∧ pageLive s link n = true

/-- The value a write of 4 or 8 bytes gives a doorbell register: 4 bytes write the low half, or the high half where the size is
given as 12 (R299, log entry 42). -/
def doorbellValue (s : State) (n off size value : Nat) : Nat :=
  if size = 8 then value % 2 ^ 64
  else if size = 12 then value % 2 ^ 32 * 2 ^ 32 + tget 0 (inst s n).doorbell off % 2 ^ 32
  else tget 0 (inst s n).doorbell off / 2 ^ 32 * 2 ^ 32 + value % 2 ^ 32

/-- The state once a doorbell write has been discarded and counted in DOORBELL_DISCARDS (R299, R300). -/
def discarded (s : State) : State := odBump 0x2400 3 s

/-- A queue command of an instance's live page, with its 64-byte CMD block: opcode op, and every byte beyond byte 7 that
is not in one of its fields is 0. -/
def CmdTaken (s : State) (link n op : Nat) (cmd : List Byte) (fields : List (Nat × Nat)) : Prop :=
  PageTaken s link n ∧ fld cmd 0 1 = op ∧ cmd.length = 64 ∧
  ∀ k < 56, fld cmd (8 + k) 1 ≠ 0 → ∃ f ∈ fields, f.1 ≤ 8 + k ∧ 8 + k < f.1 + f.2

/-- CMD, CMD_STATUS and CMD_RESULT once a queue command has run, and CMD_DISCARDS counted for the writes of CMD_GO that came while
it was BUSY (Table 14-3, R310, log entry 42): the rest as in s. -/
def cmdAnswered (n : Nat) (cmd : List Byte) (again status : Nat) (result : List Byte) (s : State) : State :=
  odAdd 0x2400 4 again (instMod n (fun i => { i with cmd := cmd, cmdStatus := status, cmdResult := slice result 0 16 }) s)

/-- The base and offset fields of CREATE_CQ. -/
def cqCmdFields : List (Nat × Nat) := [(8, 8), (0x10, 4), (0x14, 1), (0x15, 1), (0x16, 2), (0x18, 1), (0x1A, 2)]

/-- The fields of CREATE_SQ. -/
def sqCmdFields : List (Nat × Nat) := [(8, 8), (0x10, 4), (0x14, 1), (0x15, 1), (0x16, 1), (0x17, 1), (0x18, 8), (0x20, 4)]

/-- A ring size: a power of two from lo to hi. -/
def RingSize (n lo hi : Nat) : Prop := lo ≤ n ∧ n ≤ hi ∧ ∃ k, n = 2 ^ k

/-- The values of CREATE_CQ that Table 14-5 allows. -/
def CqCmdOk (c : List Byte) : Prop :=
  fld c 8 8 % 4096 = 0 ∧ RingSize (fld c 0x10 4) 16 65536 ∧ fld c 0x14 1 ≤ 1 ∧ fld c 0x15 1 ≤ 15 ∧ fld c 0x16 2 ≤ 2047 ∧
  1 ≤ fld c 0x1A 2 ∧ fld c 0x1A 2 ≤ 1000

/-- The values of CREATE_SQ that Table 14-5 allows. -/
def SqCmdOk (c : List Byte) : Prop :=
  fld c 8 8 % 4096 = 0 ∧ fld c 0x14 1 ≤ 1 ∧ fld c 0x15 1 ≤ 15 ∧ fld c 0x16 1 ≤ 15 ∧
  ((fld c 0x17 1 = 0 ∧ RingSize (fld c 0x10 4) 16 65536 ∧ fld c 0x18 8 % 8 = 0 ∧ fld c 0x20 4 = 0) ∨
   (fld c 0x17 1 = 1 ∧ RingSize (fld c 0x10 4) 16 4096 ∧ fld c 0x14 1 = 0 ∧ fld c 0x18 8 = 0 ∧
    RingSize (fld c 0x20 4) 4096 2097152))

/-- Admission can take the next descriptor of an SQ (R9, R15, R309): the SQ exists, the instance's admission is open,
the SQ is not in ERROR, none of its descriptors waits at step 3 or 4, its next slot holds a descriptor that was not
accepted before. -/
def MayTake (s : State) (n k : Nat) (q : SubQ) : Prop :=
  sqAt s n k = some q ∧ admitOpen s n = true ∧ q.error = false ∧ q.waiting = none ∧ slotVisible q = true ∧
  (∀ j ∈ s.js.jobs, ¬ (j.inst = n ∧ j.sq = k ∧ j.gen = instGen s n ∧ j.jstate = .pending)) ∧ q.fetch ∉ q.taken

/-- The next descriptor of an SQ is d, read from its slot; u is the state after the read. -/
def NextDesc (s : State) (n k : Nat) (q : SubQ) (d : List Byte) (u : State) : Prop :=
  MayTake s n k q ∧ locRead q.loc 0xFE n (sqSlotAddr q q.fetch) 128 s = (.ok d, u)

/-- The first check of step 1 that a descriptor fails, those of a PLAN's header apart (R302). -/
def descBad (u : State) (n : Nat) (q : SubQ) (d : List Byte) : Option Refuse :=
  checkPass q d <|> checkGen u n d <|> checkKind d <|> checkLengths q d

/-- What a checked descriptor carries on to steps 3 and 4: its plan and spill, its priority under the instance's ceiling, the
TASK_QUOTA in force (R10, R71). -/
def checkedDesc (u : State) (n : Nat) (kind : DescKind) (d : List Byte) (p : Option PlanCopy) (spill : Nat) : WaitDesc :=
  ⟨kind, d, p, spill, min (fld d 3 1) (od u (instIdx n) 6), od u (instIdx n) 8⟩

/-- A descriptor checked in u takes its ASN and journal entry, or waits for room (R10, R15, R69): the command c on s. -/
def EntersOrWaits (c : Instr) (s u : State) (n k : Nat) (w : WaitDesc) : Prop :=
  (mayEnter u n w = true → exec c s = .next (enterJournal n k w u)) ∧
  (mayEnter u n w = false → exec c s = .next (sqMod n k (fun q => { q with waiting := some w }) u))

/-- A command completes in a state that has the property named. -/
def Reaches (c : Instr) (s : State) (P : State → Prop) : Prop := ∃ u, exec c s = .next u ∧ P u

/-- The task of one slot is now t, and every other slot holds the task it held. -/
def TaskBecomes (s u : State) (slot : Nat) (t : Task) : Prop :=
  taskAt u slot = some t ∧ ∀ k, k ≠ slot → taskAt u k = taskAt s k

/-- A task as it enters READY from WAITING or DELAYED: a new ready sequence, no wait, no PASS count (R245, R248, R251). -/
def wokenTask (s : State) (t : Task) : Task :=
  { t with run := .ready, readySeq := s.js.readySeq, wakeAt := none, waitMask := 0, readyAt := s.time, pass := 0, urgent := false }

/-- The state once a TICK is counted (R252): the time of the boundary, the levels of the MFP pins, the brake sampled
from them, the length of the next tick, the governor free to ask for one voltage step again (R455), and the shares of the
next round as the boundary finds them (R240). -/
def tickCounted (mfp : BitVec 8) (s : State) : State :=
  let v := { s with pins := { s.pins with mfp := mfp.toNat }, pw := { s.pw with brake := brakeLow mfp.toNat s } }
  let now := max s.time (s.js.tickAt + s.js.tickUs * perUs)
  let u := odBump 0x3000 5 { v with time := now, gov := { v.gov with sent := false } }
  fixShares { u with js := { u.js with tickAt := now, tickUs := od s 0x3000 1 } }

/-- What a stopped task's registers may be saved from: an engine, or a core whose runtime can take the entry and that has no
imprecise exception pending (R184, R186, R194). -/
def CanReportStop (s : State) (unit : Nat) : Prop :=
  128 ≤ unit ∨ ∃ c : CoreId, c.val = unit ∧ exlOf (core s c).sstat = false ∧ (core s c).imp = none

/-- A job that had not ended fails (R479): it ends with the status and the record, its spill reservation is released,
and each of its tasks is being released with CANCEL set. -/
def JobFails (s u : State) (jid status : Nat) (er : ErrRec) : Prop :=
  ∀ j, jobOf s jid = some j → j.ended = none →
    jobOf u jid = some { j with spill := 0, ended := some ⟨status, { er with planId := jobPlanId j }⟩ } ∧
    ∀ k t, taskAt s k = some t → t.jid = jid →
      ∃ t', taskAt u k = some t' ∧ t'.run = .freePending ∧ t'.flags &&& flagCancel = flagCancel

/-- Port `port` of the task t in `slot` is joined to port `q` of the task c in k, which consumes its stream, and
elements move between them (R18, R19, R453, Table 22-6). -/
def Joined (s : State) (slot port : Nat) (t : Task) (p : OutPort) (k : Nat) (c : Task) (e : StreamEnt) (q : InPort) : Prop :=
  taskAt s slot = some t ∧ t.outs[port]? = some p ∧ outEnt s t port = some e ∧ consumerOf s t.jid e.consumer = some (k, c) ∧
  taskAt s k = some c ∧ k ≠ slot ∧ c.ins[e.consPort]? = some q ∧ t.run ≠ .freePending ∧ streamsMove s t c = true ∧ s.mode ≠ .hold

/-- A WRITE to an entry whose turn comes at once (R426, R428, R429): the dictionary answers and the mode lets the entry be
written, no download to it is open, no request waits, no kept response has the WRITE's source and TXN or has reached the end
of its window, and there is room for one more. -/
def WriteTurn (s : State) (w : VdpWrite) (idx sub : Nat) : Prop :=
  vdpLive s = true ∧ modeBusy s idx sub = false ∧ downloading s idx sub = false ∧ s.vd.held = none ∧ s.vd.queue = [] ∧
  (∀ k ∈ s.vd.kept, s.time < k.ends ∧ ¬ (k.src = w.src ∧ k.txn = w.txn % 2 ^ 32)) ∧ s.vd.kept.length < 1024

/-- The state t with the WRITE of a value to an entry answered OK (R427, R428). -/
def writeOk (w : VdpWrite) (idx sub : Nat) (v : List Byte) (t : State) : State :=
  answerRequest w.src (writeMsg idx sub v false w) (.ok []) t

/-- The state with the WRITE of a value to an entry refused with a status. -/
def writeNo (w : VdpWrite) (idx sub : Nat) (v : List Byte) (x : VdpErr) (s : State) : State :=
  answerRequest w.src (writeMsg idx sub v false w) (.error x) s

/-- The state t with the WRITE of an instance's attribute answered OK, and the twin told of the instance (R409). -/
def attrOk (w : VdpWrite) (n sub : Nat) (v : List Byte) (t : State) : State :=
  writeOk w (instIdx n) sub v (mirror (instRecord t n) t)

/-- The state with the WRITE of an instance's attribute refused. -/
def attrNo (w : VdpWrite) (n sub : Nat) (v : List Byte) (x : VdpErr) (s : State) : State := writeNo w (instIdx n) sub v x s

/-- No accepted job of an instance is unfinished. -/
def NoJobs (s : State) (n : Nat) : Prop := ∀ j ∈ s.js.jobs, ¬ (j.inst = n ∧ j.jstate ≠ .pending ∧ j.ended = none)

/-- An instance's fault queue is empty, and no task or landing zone of it holds a fault (R267). -/
def FaultQueueIdle (s : State) (n : Nat) : Prop :=
  faultsOutstanding s n = 0 ∧ (inst s n).fqWaiting = [] ∧ (inst s n).fqHead = (inst s n).fqTail

/-- A new fault queue: the attribute stored, both positions and FQ_LOST at 0. -/
def newFaultQueue (n sub v : Nat) (s : State) : State :=
  odSet (instIdx n) 0x26 0 (odSet (instIdx n) sub v (instMod n (fun i =>
    { i with fqTail := 0, fqHead := 0, doorbell := tset i.doorbell 0x200 0 }) s))

/-- No task of an instance holds a slot. -/
def NoSlot (s : State) (n : Nat) : Prop := ∀ e ∈ s.js.tasks, e.2.inst ≠ n

/-- A write of ORPHAN_CQ_HEAD names a completion queue that a shadow knows, with a head within it (R418). -/
def OrphanCq (sh : Shadow) (value : List Byte) : Prop :=
  fld value 2 1 < 16 ∧ fld value 3 1 = 0 ∧
  ∃ q, tfind sh.queues (shadowKey (fld value 0 2) true (fld value 2 1)) = some q ∧ fld value 4 4 < shadowEntries true q

/-- A CLAIM of a feature and a holder that the resource permits (R440). -/
def ClaimFits (s : State) (r : Nat) (value : List Byte) : Prop :=
  featureFits r (fld value 0 1) = true ∧ holderFits s (fld value 0 1) (fld value 2 2) = true

/-- The critical write that a WRITE asks for, while its counter is being secured (R381). -/
def criticalHeld (w : VdpWrite) (idx sub : Nat) (v : List Byte) (pair : Bool) : Held :=
  { src := w.src, msg := writeMsg idx sub v pair w, stage := .counterLog, idx := idx, sub := sub, value := v
    principal := w.principal, counter := w.counter }

/-- What command c does where it is the WRITE of a value to a critical entry and its turn comes at once: with a tag, counter
and right that the checks of R380 accept, it waits for its counter to be secured and no response leaves, and with the pair not
PAIRED the write of the counter log that secures it applies it (R381); else it is answered AUTH_FAIL. u is the state as the checks leave it. A WRITE addressed to the pair node must find the leader there (R436). -/
def CriticalWrite (c : Instr) (s r : State) (w : VdpWrite) (idx sub : Nat) (v : List Byte) (pair : Bool) : Prop :=
  ∀ u : State, WriteTurn s w idx sub → w.principal < 256 → w.counter < 2 ^ 64 → (pair = true → role s = 1) →
    (authCheck idx sub w.principal w.counter (slice w.tag 0 16) v r = (true, u) →
      exec c s = .next (secure (criticalHeld w idx sub v pair) u) ∧
      (pairState u ≠ 3 → ∃ t, exec c s = .next t ∧ t = { u with vd := { u.vd with held := some (criticalHeld w idx sub v pair) } } ∧
        exec .counterLogWrite t = .next (nextRequests (finishCritical (criticalHeld w idx sub v pair)
          (odSet (0x1140 + w.principal) 5 w.counter t))))) ∧
    (authCheck idx sub w.principal w.counter (slice w.tag 0 16) v r = (false, u) →
      exec c s = .next (answerRequest w.src (writeMsg idx sub v pair w) (.error .authFail) u))

/-- A request whose turn comes at once (R428, R429, R436): the dictionary answers, its header fits R427, it is received,
no request waits, no kept response has its source and TXN or has reached the end of its window, and there is room for
one more. -/
def RequestTurn (s : State) (src : VdpSrc) (m : List Byte) : Prop :=
  vdpLive s = true ∧ headerFits m = true ∧ notReceived s src m = false ∧ s.vd.held = none ∧ s.vd.queue = [] ∧
  (∀ k ∈ s.vd.kept, s.time < k.ends ∧ ¬ (k.src = src ∧ k.txn = fld m 4 4)) ∧ s.vd.kept.length < 1024

/-- The session of an upload that is opened now. -/
def newUpload (s : State) (src : VdpSrc) (idx sub total : Nat) : Session :=
  { src := src, idx := idx, sub := sub, download := false, total := total, timeout := od s 0x1100 8, last := s.time }

/-- A session's entry after a request for it. -/
def touched (s : State) (k : Nat) (x : Session) : State :=
  { s with vd := { s.vd with sessions := tset s.vd.sessions k { x with last := s.time } } }


/-- The values of CREATE_QP that Table 14-5 allows: a USE of 1 to 3, an MTU of 1 to 5, and a network SQ for SUBMIT, none else. -/
def QpCmdOk (s : State) (n : Nat) (c : List Byte) : Prop :=
  1 ≤ fld c 8 1 ∧ fld c 8 1 ≤ 3 ∧ 1 ≤ fld c 10 1 ∧ fld c 10 1 ≤ 5 ∧ fld c 9 1 ≤ 15 ∧
  (fld c 8 1 = 1 → ∃ q, sqAt s n (fld c 9 1) = some q ∧ q.network = true) ∧ (fld c 8 1 ≠ 1 → fld c 9 1 = 0)

/-- The fields of CONNECT_QP. -/
def connectFields : List (Nat × Nat) :=
  [(8, 4), (0x0C, 4), (0x10, 16), (0x20, 4), (0x24, 4), (0x28, 1), (0x29, 1), (0x2A, 1), (0x2B, 1)]

/-- The values of CONNECT_QP that Table 14-5 allows. -/
def ConnectCmdOk (c : List Byte) : Prop :=
  fld c 0x0C 4 < 2 ^ 24 ∧ fld c 0x20 4 < 2 ^ 24 ∧ fld c 0x24 4 < 2 ^ 24 ∧ fld c 0x28 1 ≤ 1 ∧ fld c 0x29 1 ≤ 3 ∧
  fld c 0x2A 1 ≤ 31 ∧ fld c 0x2B 1 ≤ 63

/-- The entries of the network classifier, group 0. -/
def classEntries (s : State) : Tbl GEntry := (tget {} s.js.groups 0).entries

/-- A place of the classifier that CONNECT_QP takes: it holds no valid entry, and every lower one does (R147). -/
def FreePlace (s : State) (place : Nat) : Prop :=
  place < classSize s ∧ (∀ e, tfind (classEntries s) place = some e → e.valid = false) ∧
  ∀ j < place, ∃ e, tfind (classEntries s) j = some e ∧ e.valid = true

/-- Key k is the lowest that a table does not list. -/
def LowestFree {α : Type} (t : Tbl α) (k : Nat) : Prop := tfind t k = none ∧ ∀ j < k, (tfind t j).isSome = true

/-- A mailbox command is answered with a code and a payload, and the state is otherwise t. -/
def mailAnswer (link : Link) (code : Nat) (payload : List Byte) (t : State) : State := emit (.mailbox link.val code payload) t

/-- A stage at work (R241, R18): the slot holds task t, it is RUNNING, every unit of it has power (R460), its operator is op, its
outputs are not ended, and nothing it has formed waits to leave. -/
def StageAt (s : State) (slot op : Nat) (t : Task) : Prop :=
  taskAt s slot = some t ∧ isRunning t = true ∧ unitsOn s t = true ∧ (taskStage s t).op = op ∧ t.eng.done = false ∧ t.eng.last = false ∧
  t.eng.results = [] ∧ tsorted s.js.tasks = true

/-- Some input of a task has not ended. -/
def StillOpen (t : Task) : Prop := ∃ p ∈ t.ins, p.ended = false

/-- Rows of a stage's inputs in lockstep have been taken: the first n of every port (R65). -/
def Took (t t' : Task) (n : Nat) : Prop := t'.ins = t.ins.map fun p => { p with buf := p.buf.drop n }

/-- Elements have been emitted in order, each with its port: the first have joined their output ports, the others wait for
room (R18). -/
def Gave (t t' : Task) (xs : List (Nat × Elem)) : Prop :=
  ∃ k, t'.eng.results = xs.drop k ∧ t'.outs.length = t.outs.length ∧ ∀ (p : Nat) (o o' : OutPort),
    t.outs[p]? = some o → t'.outs[p]? = some o' → o'.buf = o.buf ++ ((xs.take k).filter fun x => x.1 = p).map (·.2)

/-- Once all that a stage formed has left, every output is ended (R66). -/
def EndsAfter (t' : Task) : Prop := t'.eng.results = [] → t'.eng.done = true ∧ ∀ o ∈ t'.outs, o.ended = true

/-- A stage command completes, and the slot then holds a task with the property named. -/
def StageGoes (c : Instr) (s : State) (slot : Nat) (P : Task → Prop) : Prop :=
  Reaches c s fun u => ∃ t', taskAt u slot = some t' ∧ P t'

/-- A stage command goes on with f from a state that has the memory of s and holds t' in the slot. -/
def StageThen (c : Instr) (s : State) (slot : Nat) (t' : Task) (f : State → State) : Prop :=
  ∃ w, w.ms = s.ms ∧ taskAt w slot = some t' ∧ exec c s = .next (f w)

/-- The keys of a Mash stage's operand. -/
def stageKeys (s : State) (t : Task) : List KeySpec :=
  mashKeys (taskImg s t) t.stage (taskOperand s t) 0x10 (opKeyCount (taskOperand s t))

/-- The table image that a HASH_BUILD stage forms from the rows it has taken (R102 to R104). -/
def builtImage (s : State) (t : Task) : List Byte :=
  let img := taskImg s t
  let op := taskOperand s t
  let e := taskStage s t
  let kc := opKeyCount op
  let kw := keyWords (stageKeys s t)
  tableImage op (layoutBytes img ((payloadPort e kc).bind fun p => inEntOf img t.stage p)) kw
    (tableEntryBytes kw (payloadWidth img t.stage e kc))
    (t.eng.rows.map (tableRow (stageKeys s t) (fld op 8 8) (nullsEqual (fld op 2 1))))

/-- Of the bytes that wait at the BYTES input of a stage, the first n. -/
def waitingBytes (t : Task) (n : Nat) : List Byte :=
  match t.ins with
  | [] => []
  | p :: _ => ((p.buf.take n).filterMap id).flatten

/-- The context of a DIGEST stage: opened by its first command (R370, R371). -/
def openedCtx (s : State) (t : Task) : GristCtx :=
  if t.eng.started then t.eng.ctx else (ctxOpen (taskImg s t) (taskOperand s t)).1

/-- A context with further bytes of its message in its input buffer (R374). -/
def ctxFed (g : GristCtx) (bs : List Byte) : GristCtx := { g with buf := g.buf ++ bs, count := g.count + bs.length }

/-- What one element of a LOOKUP answers: RESULT and COUNT of the search of the stage's group, or a null and 0 (R396). -/
def lookupAnswer (g : Group) : Elem → List (Nat × Elem)
  | none => [(0, none), (1, some (leBytes 4 0))]
  | some b =>
    match (gsearch g (leNat b)).first with
    | none => [(0, none), (1, some (leBytes 4 0))]
    | some (_, x) => [(0, some (leBytes 4 x.result)), (1, some (leBytes 4 (gsearch g (leNat b)).count))]

/-- Bytes of an element of a stage's output 0, at least 1. -/
def outWidth (s : State) (t : Task) : Nat :=
  match outEnt s t 0 with
  | some x => max 1 (elemWidth (taskImg s t) x.ty x.layout)
  | none => 1

/-- Whole elements that a SOURCE emits at a time: those of its partition, and no more than a transfer holds (R19, R344). -/
def sourceTake (s : State) (t : Task) : Nat := min (t.eng.bytes.length / outWidth s t) (max 1 (64 / outWidth s t))

/-- The elements that wait at the one input of a stage, each in the bytes in which it travels (R19, R343). -/
def waitingElems (s : State) (t : Task) : List (List Byte) :=
  match t.ins, inEnt s t 0 with
  | p :: _, some x => p.buf.map fun e => elemBytes x.ty (e.getD [])
  | _, _ => []

/-- The state once a side of a Tun engine (2e reads, 2e + 1 writes) has been granted to a task's channel (R346). -/
def granted (side : Nat) (t : Task) (s : State) : State :=
  { s with js := { s.js with tunLast := tset s.js.tunLast side t.sub } }

/-- A Tun write of the first n bytes of a channel's partition is performed (R346). -/
def TunWrites (s v : State) (t : Task) (n : Nat) : Prop :=
  (match tunLoc s t with
    | .device => devWrite t.unit (.inst t.inst) (t.eng.tun.place t.eng.tun.k) (t.eng.bytes.take n) s
    | .host => hostWrite (instLink s t.inst) (t.eng.tun.place t.eng.tun.k) (t.eng.bytes.take n) s) = (none, v)

/-- The keys of an EXCH_SEND operand: those of HASH routing (R160). -/
def sendKeys (s : State) (t : Task) : List KeySpec :=
  if fld (taskOperand s t) 0 1 = 2 then
    mashKeys (taskImg s t) t.stage (taskOperand s t) 0x10 (fld (taskOperand s t) 1 1)
  else []

/-- Whether a queue pair has been given a message: it stands in its send queue. -/
def Posted (u : State) (k : Nat) (m : RoceMsg) : Prop := ∃ q, qpAt u k = some q ∧ ∃ x ∈ q.sendQ, x.msg = m

/-- A packet is taken by queue pair k, which is q (R143, R147, R148): its port is up, the receive buffer has room, it carries no
CE or MigReq mark and breaks no transport rule, and the classifier names k; v is s with the search counted. -/
def PktTaken (s v : State) (p : Pkt) (k : Nat) (q : QP) : Prop :=
  portLive s p.port.val = true ∧ p.full = false ∧ p.ce = false ∧ p.mig = false ∧ p.broken = false ∧
  classifyPkt p s = (some k, v) ∧ qpAt s k = some q ∧ q.err = false

/-- The same, for a request with the PSN that the queue pair expects next (R143). -/
def NextRequest (s v : State) (p : Pkt) (k : Nat) (q : QP) : Prop := PktTaken s v p k q ∧ psnDist q.rxPsn p.psn = 0

/-- The state w with a request of n packets taken: the next is expected, and its answer has left (R143). -/
def requestTaken (k n : Nat) (p : Pkt) (psn : Nat) (m : RoceMsg) (w : State) : State :=
  answer k psn m (qpMod k (fun q => { q with rxPsn := psnAdd p.psn n, nakSent := false }) w)

/-- The state w with a request of a number of bytes acknowledged: one ACK for its last packet. -/
def requestAcked (k : Nat) (q : QP) (p : Pkt) (size : Nat) (w : State) : State :=
  requestTaken k (packets q.mtu size) p (psnAdd p.psn (packets q.mtu size - 1)) .ack w

/-- The front message of the fabric is f, for a queue pair in service (R143). -/
def FabricFront (s : State) (f : FabMsg) : Prop :=
  s.net.fabric.head? = some f ∧ ∃ q, qpAt s f.dst = some q ∧ q.err = false

/-- The state w with the front message of the fabric delivered and done. -/
def fabricTaken (f : FabMsg) (w : State) : State := fabricDone f.src (netMod (fun n => { n with fabric := n.fabric.drop 1 }) w)

/-- What a retry does to a queue pair q that has been given up n - 1 times before (R143, R152): nothing while it is held
(R155). -/
def Retries (c : Instr) (s w : State) (k : Nat) (q : QP) : Prop :=
  let n := q.retries + 1
  let w' := qpMod k (fun q => { q with retries := n }) w
  let moves := q.path = .armed ∧ planeFit w q.plane = true ∧ planeFit w (1 - q.plane) = true ∧ (q.retry + 1) / 2 ≤ n
  (q.heldSince.isSome = true → exec c s = .next w) ∧
  (q.heldSince = none →
    (moves → exec c s = .next (migrate k w')) ∧ (¬ moves → q.retry < n → exec c s = .next (qpFail k 0x0702 w')) ∧
    (¬ moves → n ≤ q.retry → exec c s = .next (resend k w')))

/-- The modes in which the network planes run (Table 22-1). -/
def PlanesRun (s : State) : Prop := (s.mode = .run ∨ s.mode = .drain ∨ s.mode = .freeze) ∧ portsDown s = false

/-- The oldest record received from the twin is of number n and is r: a mirrored record outside an exchange, or an
acknowledgement (R409). -/
def NextRecord (s : State) (n : Nat) (r : MRec) (rest : List MItem) : Prop :=
  s.tw.received = { num := n, back := false, place := 0, body := r } :: rest

/-- The state with record n taken from those received, a shadow in place of the one held, and the record acknowledged (R409). -/
def shadowTaken (s : State) (n : Nat) (rest : List MItem) (sh : Shadow) : State :=
  sendItem false (.ack n) (twMod (fun w => { w with received := rest, shadow := sh, applied := n }) s)

/-- The state after a heartbeat of the twin in time, before the pairing state moves (R405, R412): the twin's identity, the
time, the epoch it knows; a leader that the twin's leadership beats has yielded. -/
def twinHeard (hb : HeartBeat) (s : State) : State :=
  let s := odSet 0x2C00 6 hb.serial (twMod (fun w =>
    { w with partner := some hb, hbAt := s.time, known := max w.known hb.epoch }) s)
  if role s = 1 ∧ hb.role = 1 ∧ beats hb.epoch hb.side (od s 0x2C00 4) (side s) = true then yieldLead s else s

/-- The state with the loss of the twin noted, leadership and pending acceptance not yet settled (R406, R414). -/
def twinGone (s : State) : State :=
  odSet 0x2C00 1 4 (odBump 0x2C02 7 (twMod (fun w =>
    { w with exchanged := false, lostAt := some s.time, fromUnpaired := false, heard := false
             held := some (s.mode.code, if s.vd.pairTail.isEmpty then pairFrameTail s else s.vd.pairTail) }) s))

/-- A claim that names this device's twin (R438). -/
def ClaimOfTwin (s : State) (m : ClaimMsg) : Prop :=
  pairId s ≠ 0 ∧ m.pairId = pairId s ∧ m.serial ≠ serial s ∧ (od s 0x2C00 6 = 0 ∨ m.serial = od s 0x2C00 6)

/-- Jobs that wait on a record the twin has acknowledged (R410), in order of acceptance. -/
def coveredJobs (s : State) : List Job := s.js.jobs.filter fun j => j.awaits.any fun a => recordAcked s a

/-- Unit u is due to apply the change to a mode: the change is in its apply phase and no fatal error abandons it, the unit has
not applied it, and its action is finished (R446, R449, Table 22-3). -/
def UnitDue (s : State) (u : Fin 8) (target : Nat) : Prop :=
  od s 0x1300 1 = target ∧ transition s = 2 ∧ s.pw.fatal = none ∧ (od s 0x1300 4).testBit u.val = false ∧ unitReady u.val target s = true

/-- The state with unit u's bit of APPLIED set. -/
def withApplied (u : Fin 8) (s : State) : State := odSet 0x1300 4 (od s 0x1300 4 ||| 2 ^ u.val) s

/-- What a device reset keeps of DRAM (R463, R464). -/
def dramKept (cause : Nat) (s : State) : Bool := decide (cause ≠ 1) && maySurvive s

/-- The state after a device reset of a cause (R463, R464). -/
def resetDone (cause : Nat) (s : State) : State :=
  { afterReset cause s with bt := { (afterReset cause s).bt with survives := dramKept cause s } }

/-- The configuration is being loaded, from a copy that has been chosen (R472, R473). -/
def CopyLoaded (s : State) : Prop := s.mode = .configLoad ∧ od s 0x1200 1 = 0 ∧ od s 0x1200 2 ≠ 0xFF

/-- The device's identity and unit mask after the fuses f are loaded (R465); words that read as uncorrectable give 0, or the
address made from the PLCA strap. -/
def fusesLoaded (f : Fuses) (errors : List FuseError) (s : State) : State :=
  let mac := if errors.contains .mac then [0x02, 0, 0, 0, 0, BitVec.ofNat 8 (od s 0x1100 1)] else f.mac
  odSet 0x1000 6 (leNat mac) (odSet 0x1202 1 f.units (odSet 0x1000 5 (if errors.contains .serial then 0 else f.serial) s))

/-- What start-up sets after the fuses' identity: STATE 5 of the Mash engines that the mask lacks, KEY_STATE of the owner's key,
each principal's counter 4,096 above its logged one, the links whose PERST# is released training (R118, R379, R383, R298). -/
def startUp (f : Fuses) (s : State) : State :=
  let s := (List.range 8).foldl (fun s n => if f.units.testBit (0x90 + n) then s else odSet (0x3820 + n) 1 5 s) s
  let s := odSet 0x1140 2 (if ownerFused f then 2 else 0) s
  let s := (List.range 16).foldl (fun s p => odSet (0x1140 + p) 4 (od s (0x1140 + p) 5 + 4096) s) s
  [0, 2].foldl (fun s l => if s.cx.perst.contains l then s else odSet (0x2410 + l) 1 1 s) s

/-- n bytes at an address lie in the tile window and the core's level is granted them (R175, R176, Table 08-1). -/
def InTile (s : State) (c : CoreId) (write : Bool) (a n : Nat) : Prop :=
  inWindow a = true ∧ tileGrants (core s c) (coreLevel s c) write a n = true

/-- Bytes that the n elements of the arrays of a long-vector instruction take, by major and op: of the array of ra, of rb and
of rd; 0 where the register names no array (Table 09-4). -/
def lvBytes (major op n z width : Nat) : Nat × Nat × Nat :=
  if major = 0x38 then (n * z, n * z, n * z)
  else if major = 0x39 then (if op = 8 then (n * z, (n + 7) / 8, n * z) else (n * z, n * z, (n + 7) / 8))
  else if major = 0x3A then (0, 4 * n, n * z)
  else if op = 0 then ((n * width + 7) / 8, 0, n * z) else (n * z, 0, (n * width + 7) / 8)

/-- The target of element e of GATHER or SCATTER: the base ra, with the 32-bit index e of rb scaled by the element size (R211). -/
def lvTarget (s : State) (c : CoreId) (o : LvOp) (e : Nat) : Nat :=
  ((gGet s c o.ra).toNat + leNat (memTake (core s c).tile (tileOff (gGet s c o.rb).toNat + 4 * e) 4) * 2 ^ o.esz.val) % 2 ^ 64

/-- Every array of a long-vector instruction lies in the own tile memory and is granted (R208, R210); the targets of GATHER and
SCATTER are aligned and lie there too, and no element changes an index (R211). -/
def LvOperands (s : State) (c : CoreId) (o : LvOp) (major op n index : Nat) : Prop :=
  let z := 2 ^ o.esz.val
  let len := lvBytes major op n z (gGet s c o.rb).toNat
  let rb := (gGet s c o.rb).toNat
  let rd := (gGet s c o.rd).toNat
  let scatter := decide (major = 0x3A ∧ op = 1)
  (len.1 ≠ 0 → InTile s c false (gGet s c o.ra).toNat len.1) ∧ (len.2.1 ≠ 0 → InTile s c false rb len.2.1) ∧
  (len.2.2 ≠ 0 → InTile s c (!scatter) rd len.2.2) ∧
  (major = 0x3A → ∀ e, index ≤ e → e < n → lvTarget s c o e % z = 0 ∧ InTile s c scatter (lvTarget s c o e) z ∧
    (scatter = true → lvTarget s c o e + z ≤ rb ∨ rb + 4 * n ≤ lvTarget s c o e)) ∧
  (major = 0x3A → scatter = false → rd + n * z ≤ rb ∨ rb + 4 * n ≤ rd)

end Sys2Proof.Machine

open Sys2Proof Sys2Proof.Machine

/-- For every state whose queue holds a command c in front of a rest, one step is exec of c on the state whose queue is
that rest: the same outcome, whatever it is. This is how every per-command statement below reaches a run; the queue
itself is the model's (log entry 1), the spec gives the block commands and no program. -/
def Obligations.StepRunsFrontCommand : Prop :=
  ∀ (s : State) (c : Instr) (rest : List Instr), s.pending = c :: rest →
    step s = exec c { s with pending := rest }

/-- For every state with an empty queue, a step answers the state whose time is one TIMEREF period of 40 ns later and
whose every other field is as it was. That a step on an empty queue passes time is the model's choice, log entry 1
(DESIGN CHOICE); the period of 40 ns is that of the 25 MHz TIMEREF. -/
def Obligations.IdleStepPassesOnePeriod : Prop :=
  ∀ s : State, s.pending = [] → step s = .next { s with time := s.time + 1 }

/-- From every state, reached or not, in which device memory, every host memory and every tile memory are in canonical
form (addresses strictly rising, no listed byte equal to what an unlisted byte reads as) and the object dictionary
lists each entry at most once in rising order: if a step answers a next state, whatever command stands in front, the
next state is such a state again. So equal memories are equal data for ever. -/
def Obligations.StepKeepsSoundness : Prop :=
  ∀ s t : State, Sound s → step s = .next t → Sound t

/-- State.reset meets the invariant of StepKeepsSoundness: its memories and its stored dictionary are empty lists, which
are in canonical form. -/
def Obligations.ResetIsSound : Prop :=
  Sound State.reset

/-- For every command and state, a next state that exec answers has exactly the queue of the state before, and its count
of free values taken is not lower. The queue is the model's own (the host sends commands), and so is the count of
free values (log entry 2); a statement about a free value therefore holds for every value it may take. -/
def Obligations.CommandsKeepTheQueue : Prop :=
  ∀ (i : Instr) (s t : State), exec i s = .next t → t.pending = s.pending ∧ s.freeCtr ≤ t.freeCtr

/-- For every command of the opcode table, with all operand values, and every state, exec answers a next state: no
command of this block ends in a fault or a refusal. Refusals of the spec (REFUSED completions, ABORT codes, VDP
statuses) are effects on the state and messages out. -/
def Obligations.EveryCommandAnswers : Prop :=
  ∀ (i : Instr) (s : State), ∃ t, exec i s = .next t

/-- State.reset: mode FUSE_LOAD; RESET_CAUSE 1; no pending transition, fatal error, task, job or twin; every core at
level M, at M vector 0, with pstat 0x0000_0000_8000_0000, lvi, sepc, sstat, sval, mepc, mstat and mval 0, estk
0xFFFF_E000, no reservation and no pending interrupt; tick 10 us, 64 pre-emption share defaults as listed; instance
0 ACTIVE and every other instance EMPTY; idle engines publish OWNER 0xFFFF; memory lists nothing. Only values that
the spec's tables give are stated. -/
def Obligations.StateAfterReset : Prop :=
  State.reset.mode = .fuseLoad ∧ od State.reset 0x1200 7 = 1 ∧ State.reset.pw.fatal = none ∧
  State.reset.js.jobs = [] ∧ State.reset.js.tasks = [] ∧ State.reset.ras = [] ∧ State.reset.ms.dram = [] ∧
  (∀ c : CoreId, coreLevel State.reset c = .m ∧ (core State.reset c).pc = slotAddr 0xFFFFE000 0 ∧
    (core State.reset c).pstat = 0x0000000080000000 ∧ (core State.reset c).lvi = 0 ∧
    (core State.reset c).sepc = 0 ∧ (core State.reset c).sstat = 0 ∧ (core State.reset c).sval = 0 ∧
    (core State.reset c).mepc = 0 ∧ (core State.reset c).mstat = 0 ∧ (core State.reset c).mval = 0 ∧
    (core State.reset c).estk = 0xFFFFE000 ∧ (core State.reset c).resv = none ∧ (core State.reset c).intr = 0) ∧
  od State.reset 0x3000 1 = 10 ∧ od State.reset 0x3000 2 = 64 ∧ od State.reset 0x3000 3 = 1000 ∧
  od State.reset 0x3000 4 = 16000 ∧ instSt State.reset 0 = 1 ∧ od State.reset 0x4000 6 = 63 ∧
  (∀ n : Nat, 0 < n → n < 4096 → instSt State.reset n = 0 ∧ od State.reset (0x4000 + n) 5 = 100 ∧
    od State.reset (0x4000 + n) 6 = 31 ∧ od State.reset (0x4000 + n) 7 = 256 ∧ od State.reset (0x4000 + n) 15 = 1000) ∧
  (∀ e : Nat, e < 12 → od State.reset (0x3800 + e) 2 = 0xFFFF) ∧ od State.reset 0x1300 1 = 3 ∧
  od State.reset 0x1300 3 = 0

/-- For every instruction command and exception command of a core (219 rows: each command whose operand is the core that
executes it, CORE_RESTART apart) and every state in which that core does not execute - it is not in the enabled-unit
mask, it is halted or out of service, its zone is powered down, or the mode is OFF, FUSE_LOAD or HOLD - exec answers
the state unchanged. That cores execute in no other mode than those of Table 22-1's powered rows is read from the
spec by inference (log entry 35, DEDUCED). -/
def Obligations.InactiveCoreExecutesNothing : Prop :=
  ∀ (i : Instr) (c : CoreId) (s : State), coreOf i = some c → coreActive s c = false → exec i s = .next s

/-- On every core that executes its next instruction, ALU ADD, SUB, AND, OR, XOR, SLL, SRL, SRA, SLT, SLTU, MIN, MAX,
MINU, MAXU, ROTL and CLZ answer the state in which g(rd) has the result of the operation on g(ra) and g(rb) as read
before, the pc is at the next instruction, INSTRUCTIONS has counted, and nothing else is changed but what the fetch
left in the caches (fetchTouch). A shift count of 64 or more has a free result: the spec states none (log entry 13, DESIGN
CHOICE). gSet discards a write to g0 and gGet reads it as zero, as GeneralRegisters states. -/
def Obligations.AluResults : Prop :=
  ∀ (s : State) (c : CoreId) (rd ra rb : Reg), CoreReady s c →
    exec (.aluAdd c rd ra rb) s = .next (ran c s (gSet c rd ((gGet s c ra) + (gGet s c rb)) (fetchTouch c s))) ∧
    exec (.aluSub c rd ra rb) s = .next (ran c s (gSet c rd ((gGet s c ra) - (gGet s c rb)) (fetchTouch c s))) ∧
    exec (.aluAnd c rd ra rb) s = .next (ran c s (gSet c rd ((gGet s c ra) &&& (gGet s c rb)) (fetchTouch c s))) ∧
    exec (.aluOr c rd ra rb) s = .next (ran c s (gSet c rd ((gGet s c ra) ||| (gGet s c rb)) (fetchTouch c s))) ∧
    exec (.aluXor c rd ra rb) s = .next (ran c s (gSet c rd ((gGet s c ra) ^^^ (gGet s c rb)) (fetchTouch c s))) ∧
    exec (.aluSlt c rd ra rb) s =
      .next (ran c s (gSet c rd (if (gGet s c ra).slt (gGet s c rb) then 1 else 0) (fetchTouch c s))) ∧
    exec (.aluSltu c rd ra rb) s =
      .next (ran c s (gSet c rd (if (gGet s c ra).ult (gGet s c rb) then 1 else 0) (fetchTouch c s))) ∧
    exec (.aluMin c rd ra rb) s =
      .next (ran c s (gSet c rd (if (gGet s c ra).slt (gGet s c rb) then (gGet s c ra) else (gGet s c rb)) (fetchTouch c s))) ∧
    exec (.aluMax c rd ra rb) s =
      .next (ran c s (gSet c rd (if (gGet s c ra).slt (gGet s c rb) then (gGet s c rb) else (gGet s c ra)) (fetchTouch c s))) ∧
    exec (.aluMinu c rd ra rb) s =
      .next (ran c s (gSet c rd (if (gGet s c ra).ult (gGet s c rb) then (gGet s c ra) else (gGet s c rb)) (fetchTouch c s))) ∧
    exec (.aluMaxu c rd ra rb) s =
      .next (ran c s (gSet c rd (if (gGet s c ra).ult (gGet s c rb) then (gGet s c rb) else (gGet s c ra)) (fetchTouch c s))) ∧
    exec (.aluRotl c rd ra rb) s =
      .next (ran c s (gSet c rd ((gGet s c ra).rotateLeft ((gGet s c rb).toNat % 64)) (fetchTouch c s))) ∧
    exec (.aluSll c rd ra rb) s =
      .next (ran c s (gSet c rd (if (gGet s c rb).toNat < 64 then (gGet s c ra) <<< (gGet s c rb).toNat
        else BitVec.ofNat 64 (Config.shiftBeyond 0 64 (gGet s c ra).toNat (gGet s c rb).toNat)) (fetchTouch c s))) ∧
    exec (.aluSrl c rd ra rb) s =
      .next (ran c s (gSet c rd (if (gGet s c rb).toNat < 64 then (gGet s c ra) >>> (gGet s c rb).toNat
        else BitVec.ofNat 64 (Config.shiftBeyond 1 64 (gGet s c ra).toNat (gGet s c rb).toNat)) (fetchTouch c s))) ∧
    exec (.aluSra c rd ra rb) s =
      .next (ran c s (gSet c rd (if (gGet s c rb).toNat < 64 then (gGet s c ra).sshiftRight (gGet s c rb).toNat
        else BitVec.ofNat 64 (Config.shiftBeyond 2 64 (gGet s c ra).toNat (gGet s c rb).toNat)) (fetchTouch c s))) ∧
    exec (.aluClz c rd ra) s =
      .next (ran c s (gSet c rd (BitVec.ofNat 64 (64 - bitLen (gGet s c ra).toNat)) (fetchTouch c s)))

/-- On every core that executes its next instruction, the 16 ALUW operations answer the state in which g(rd) has the
32-bit result on bits 31:0 of g(ra) and g(rb), sign-extended to 64 bits, the pc at the next instruction,
INSTRUCTIONS counted and nothing else changed but what the fetch left in the caches. CLZ counts leading zeros
of bits 31:0. A shift count (all 32 bits of it) of 32 or more has a free result (log entry 13, DESIGN CHOICE). -/
def Obligations.AluwResults : Prop :=
  ∀ (s : State) (c : CoreId) (rd ra rb : Reg) (a b : BitVec 32), CoreReady s c →
    a = (gGet s c ra).setWidth 32 → b = (gGet s c rb).setWidth 32 →
    exec (.aluwAdd c rd ra rb) s = .next (ran c s (gSet c rd ((a + b : BitVec 32).signExtend 64) (fetchTouch c s))) ∧
    exec (.aluwSub c rd ra rb) s = .next (ran c s (gSet c rd ((a - b : BitVec 32).signExtend 64) (fetchTouch c s))) ∧
    exec (.aluwAnd c rd ra rb) s = .next (ran c s (gSet c rd ((a &&& b : BitVec 32).signExtend 64) (fetchTouch c s))) ∧
    exec (.aluwOr c rd ra rb) s = .next (ran c s (gSet c rd ((a ||| b : BitVec 32).signExtend 64) (fetchTouch c s))) ∧
    exec (.aluwXor c rd ra rb) s = .next (ran c s (gSet c rd ((a ^^^ b : BitVec 32).signExtend 64) (fetchTouch c s))) ∧
    exec (.aluwSlt c rd ra rb) s =
      .next (ran c s (gSet c rd ((if a.slt b then 1 else 0 : BitVec 32).signExtend 64) (fetchTouch c s))) ∧
    exec (.aluwSltu c rd ra rb) s =
      .next (ran c s (gSet c rd ((if a.ult b then 1 else 0 : BitVec 32).signExtend 64) (fetchTouch c s))) ∧
    exec (.aluwMin c rd ra rb) s =
      .next (ran c s (gSet c rd ((if a.slt b then a else b : BitVec 32).signExtend 64) (fetchTouch c s))) ∧
    exec (.aluwMax c rd ra rb) s =
      .next (ran c s (gSet c rd ((if a.slt b then b else a : BitVec 32).signExtend 64) (fetchTouch c s))) ∧
    exec (.aluwMinu c rd ra rb) s =
      .next (ran c s (gSet c rd ((if a.ult b then a else b : BitVec 32).signExtend 64) (fetchTouch c s))) ∧
    exec (.aluwMaxu c rd ra rb) s =
      .next (ran c s (gSet c rd ((if a.ult b then b else a : BitVec 32).signExtend 64) (fetchTouch c s))) ∧
    exec (.aluwRotl c rd ra rb) s =
      .next (ran c s (gSet c rd ((a.rotateLeft (b.toNat % 32) : BitVec 32).signExtend 64) (fetchTouch c s))) ∧
    exec (.aluwSll c rd ra rb) s =
      .next (ran c s (gSet c rd ((if b.toNat < 32 then a <<< b.toNat else BitVec.ofNat 32 (Config.shiftBeyond 0 32 a.toNat b.toNat) : BitVec 32).signExtend 64) (fetchTouch c s))) ∧
    exec (.aluwSrl c rd ra rb) s =
      .next (ran c s (gSet c rd ((if b.toNat < 32 then a >>> b.toNat else BitVec.ofNat 32 (Config.shiftBeyond 1 32 a.toNat b.toNat) : BitVec 32).signExtend 64) (fetchTouch c s))) ∧
    exec (.aluwSra c rd ra rb) s =
      .next (ran c s (gSet c rd ((if b.toNat < 32 then a.sshiftRight b.toNat else BitVec.ofNat 32 (Config.shiftBeyond 2 32 a.toNat b.toNat) : BitVec 32).signExtend 64) (fetchTouch c s))) ∧
    exec (.aluwClz c rd ra) s = .next (ran c s (gSet c rd (BitVec.ofNat 64 (32 - bitLen a.toNat)) (fetchTouch c s)))

/-- On every core that executes its next instruction: MUL gives the low and MULH and MULHU the high 64 bits of the
signed and unsigned product. When the divisor is not 0, or the trap of FLAGS.IDZ is not enabled, DIV, DIVU, REM and
REMU complete: a divisor of 0 gives a quotient of all ones and a remainder equal to the dividend and sets IDZ; else
the signed or unsigned quotient truncated toward zero, or the remainder, with no flag set. CHK ADD, SUB and MUL
whose signed result fits 64 bits write it. What happens where a trap arises is in ArithmeticTraps. -/
def Obligations.MulDivChkResults : Prop :=
  ∀ (s : State) (c : CoreId) (rd ra rb : Reg), CoreReady s c →
    exec (.mul c rd ra rb) s = .next (ran c s (gSet c rd ((gGet s c ra) * (gGet s c rb)) (fetchTouch c s))) ∧
    exec (.mulh c rd ra rb) s =
      .next (ran c s (gSet c rd (BitVec.ofInt 64 ((gGet s c ra).toInt * (gGet s c rb).toInt / 2 ^ 64)) (fetchTouch c s))) ∧
    exec (.mulhu c rd ra rb) s =
      .next (ran c s (gSet c rd (BitVec.ofNat 64 ((gGet s c ra).toNat * (gGet s c rb).toNat / 2 ^ 64)) (fetchTouch c s))) ∧
    (gGet s c rb ≠ 0 ∨ NoTrap s c flagIDZ →
    exec (.div c rd ra rb) s = .next (ran c s (flagged c (if gGet s c rb = 0 then flagIDZ else 0)
      (gSet c rd (if (gGet s c rb) = 0 then BitVec.allOnes 64 else (gGet s c ra).sdiv (gGet s c rb)) (fetchTouch c s)))) ∧
    exec (.divu c rd ra rb) s = .next (ran c s (flagged c (if gGet s c rb = 0 then flagIDZ else 0)
      (gSet c rd (if (gGet s c rb) = 0 then BitVec.allOnes 64 else (gGet s c ra) / (gGet s c rb)) (fetchTouch c s)))) ∧
    exec (.rem c rd ra rb) s = .next (ran c s (flagged c (if gGet s c rb = 0 then flagIDZ else 0)
      (gSet c rd (if (gGet s c rb) = 0 then (gGet s c ra) else (gGet s c ra).srem (gGet s c rb)) (fetchTouch c s)))) ∧
    exec (.remu c rd ra rb) s = .next (ran c s (flagged c (if gGet s c rb = 0 then flagIDZ else 0)
      (gSet c rd (if (gGet s c rb) = 0 then (gGet s c ra) else (gGet s c ra) % (gGet s c rb)) (fetchTouch c s))))) ∧
    (-(2 ^ 63) ≤ (gGet s c ra).toInt + (gGet s c rb).toInt → (gGet s c ra).toInt + (gGet s c rb).toInt < 2 ^ 63 →
      exec (.chkAdd c rd ra rb) s =
        .next (ran c s (flagged c 0 (gSet c rd (BitVec.ofInt 64 ((gGet s c ra).toInt + (gGet s c rb).toInt)) (fetchTouch c s))))) ∧
    (-(2 ^ 63) ≤ (gGet s c ra).toInt - (gGet s c rb).toInt → (gGet s c ra).toInt - (gGet s c rb).toInt < 2 ^ 63 →
      exec (.chkSub c rd ra rb) s =
        .next (ran c s (flagged c 0 (gSet c rd (BitVec.ofInt 64 ((gGet s c ra).toInt - (gGet s c rb).toInt)) (fetchTouch c s))))) ∧
    (-(2 ^ 63) ≤ (gGet s c ra).toInt * (gGet s c rb).toInt → (gGet s c ra).toInt * (gGet s c rb).toInt < 2 ^ 63 →
      exec (.chkMul c rd ra rb) s =
        .next (ran c s (flagged c 0 (gSet c rd (BitVec.ofInt 64 ((gGet s c ra).toInt * (gGet s c rb).toInt)) (fetchTouch c s)))))

/-- On every core that executes its next instruction: ADDI and SLTI use the sign-extended, ANDI, ORI and XORI the zero-
extended imm16; LUI writes imm16 times 65,536, sign-extended from bit 31; SLLI, SRLI, SRAI and ROTLI shift g(ra) by
the count, and with W set (count below 32) work on bits 31:0 and sign-extend. Nothing else changes but the pc,
INSTRUCTIONS and what the fetch left in the caches. -/
def Obligations.ImmediateResults : Prop :=
  ∀ (s : State) (c : CoreId) (rd ra : Reg) (imm : BitVec 16) (k : Fin 64), CoreReady s c →
    exec (.addi c rd ra imm) s = .next (ran c s (gSet c rd (gGet s c ra + imm.signExtend 64) (fetchTouch c s))) ∧
    exec (.andi c rd ra imm) s = .next (ran c s (gSet c rd (gGet s c ra &&& imm.setWidth 64) (fetchTouch c s))) ∧
    exec (.ori c rd ra imm) s = .next (ran c s (gSet c rd (gGet s c ra ||| imm.setWidth 64) (fetchTouch c s))) ∧
    exec (.xori c rd ra imm) s = .next (ran c s (gSet c rd (gGet s c ra ^^^ imm.setWidth 64) (fetchTouch c s))) ∧
    exec (.slti c rd ra imm) s =
      .next (ran c s (gSet c rd (if (gGet s c ra).slt (imm.signExtend 64) then 1 else 0) (fetchTouch c s))) ∧
    exec (.lui c rd imm) s = .next (ran c s (gSet c rd ((imm ++ (0 : BitVec 16)).signExtend 64) (fetchTouch c s))) ∧
    exec (.slli c rd ra false k) s = .next (ran c s (gSet c rd (gGet s c ra <<< k.val) (fetchTouch c s))) ∧
    (k.val < 32 → exec (.slli c rd ra true k) s =
      .next (ran c s (gSet c rd ((((gGet s c ra).setWidth 32 : BitVec 32) <<< k.val).signExtend 64) (fetchTouch c s)))) ∧
    exec (.srli c rd ra false k) s = .next (ran c s (gSet c rd (gGet s c ra >>> k.val) (fetchTouch c s))) ∧
    (k.val < 32 → exec (.srli c rd ra true k) s =
      .next (ran c s (gSet c rd ((((gGet s c ra).setWidth 32 : BitVec 32) >>> k.val).signExtend 64) (fetchTouch c s)))) ∧
    exec (.srai c rd ra false k) s = .next (ran c s (gSet c rd ((gGet s c ra).sshiftRight k.val) (fetchTouch c s))) ∧
    (k.val < 32 → exec (.srai c rd ra true k) s =
      .next (ran c s (gSet c rd ((((gGet s c ra).setWidth 32 : BitVec 32).sshiftRight k.val).signExtend 64) (fetchTouch c s)))) ∧
    exec (.rotli c rd ra false k) s = .next (ran c s (gSet c rd ((gGet s c ra).rotateLeft k.val) (fetchTouch c s))) ∧
    (k.val < 32 → exec (.rotli c rd ra true k) s =
      .next (ran c s (gSet c rd ((((gGet s c ra).setWidth 32 : BitVec 32).rotateLeft k.val).signExtend 64) (fetchTouch c s))))

/-- On every core that executes its next instruction: a branch whose condition holds between g(ra) and g(rb) (equal, not
equal, signed less, signed not less, unsigned less, unsigned not less) goes to pc + 4 times the signed displacement,
else to the next instruction, and changes no register; J goes to its target; JAL writes the address of the next
instruction to g30; JALR, when g(ra) + the sign-extended imm16 is a multiple of 4, goes there and writes the address
of the next instruction to g(rd), g(ra) read first. -/
def Obligations.BranchResults : Prop :=
  ∀ (s : State) (c : CoreId) (rd ra rb : Reg) (d : BitVec 16) (e : BitVec 26) (pc : Word), CoreReady s c → pc = (core s c).pc →
    exec (.beq c ra rb d) s =
      .next (ranTo c s (if gGet s c ra = gGet s c rb then pc + d.signExtend 64 * 4 else pc + 4) (fetchTouch c s)) ∧
    exec (.bne c ra rb d) s =
      .next (ranTo c s (if gGet s c ra ≠ gGet s c rb then pc + d.signExtend 64 * 4 else pc + 4) (fetchTouch c s)) ∧
    exec (.blt c ra rb d) s =
      .next (ranTo c s (if (gGet s c ra).slt (gGet s c rb) = true then pc + d.signExtend 64 * 4 else pc + 4) (fetchTouch c s)) ∧
    exec (.bge c ra rb d) s =
      .next (ranTo c s (if (gGet s c ra).slt (gGet s c rb) = false then pc + d.signExtend 64 * 4 else pc + 4) (fetchTouch c s)) ∧
    exec (.bltu c ra rb d) s =
      .next (ranTo c s (if (gGet s c ra).ult (gGet s c rb) = true then pc + d.signExtend 64 * 4 else pc + 4) (fetchTouch c s)) ∧
    exec (.bgeu c ra rb d) s =
      .next (ranTo c s (if (gGet s c ra).ult (gGet s c rb) = false then pc + d.signExtend 64 * 4 else pc + 4) (fetchTouch c s)) ∧
    exec (.j c e) s = .next (ranTo c s (pc + e.signExtend 64 * 4) (fetchTouch c s)) ∧
    exec (.jal c e) s = .next (ranTo c s (pc + e.signExtend 64 * 4) (gSet c 30 (pc + 4) (fetchTouch c s))) ∧
    ((gGet s c ra + d.signExtend 64).toNat % 4 = 0 → exec (.jalr c rd ra d) s =
      .next (ranTo c s (gGet s c ra + d.signExtend 64) (gSet c rd (pc + 4) (fetchTouch c s))))

/-- On every core that executes its next instruction, each scalar floating-point instruction whose raised flags have no
trap enabled answers the state in which the destination has the result that the IEEE 754 functions of the model give
for the operands (binary32 operands are bits 31:0 of the register), the flags they raise are set in FLAGS, the pc is
at the next instruction and INSTRUCTIONS has counted: FADD to FMAC, FSQRT, FMIN, FMAX, FTOI, FTOU, ITOF, UTOF, FTOF
(from the other format), FINT, the six comparisons (1 or 0 in g(rd)), FCLASS and the bit moves FBITS and GBITS,
which set no flag. A binary32 result clears bits 63:32. -/
def Obligations.FloatResults : Prop :=
  ∀ (s : State) (c : CoreId) (rd ra rb : Reg) (fmt : FFmt) (rm : FRm) (m : Round) (a b d z : Nat), CoreReady s c →
    m = rmOf s c rm → a = (fGet s c ra).toNat % 2 ^ fmt.width → b = (fGet s c rb).toNat % 2 ^ fmt.width →
    d = (fGet s c rd).toNat % 2 ^ fmt.width →
    z = (fGet s c ra).toNat % 2 ^ (if fmt = .b32 then FFmt.b64 else FFmt.b32).width →
    (NoTrap s c (fadd fmt m a b).2 → exec (.fadd c rd ra rb fmt rm) s =
      .next (ran c s (flagged c (fadd fmt m a b).2 (fSet c rd (BitVec.ofNat 64 (fadd fmt m a b).1) (fetchTouch c s))))) ∧
    (NoTrap s c (fsub fmt m a b).2 → exec (.fsub c rd ra rb fmt rm) s =
      .next (ran c s (flagged c (fsub fmt m a b).2 (fSet c rd (BitVec.ofNat 64 (fsub fmt m a b).1) (fetchTouch c s))))) ∧
    (NoTrap s c (fmul fmt m a b).2 → exec (.fmul c rd ra rb fmt rm) s =
      .next (ran c s (flagged c (fmul fmt m a b).2 (fSet c rd (BitVec.ofNat 64 (fmul fmt m a b).1) (fetchTouch c s))))) ∧
    (NoTrap s c (fdiv fmt m a b).2 → exec (.fdiv c rd ra rb fmt rm) s =
      .next (ran c s (flagged c (fdiv fmt m a b).2 (fSet c rd (BitVec.ofNat 64 (fdiv fmt m a b).1) (fetchTouch c s))))) ∧
    (NoTrap s c (fminmax fmt false a b).2 → exec (.fmin c rd ra rb fmt rm) s =
      .next (ran c s (flagged c (fminmax fmt false a b).2 (fSet c rd (BitVec.ofNat 64 (fminmax fmt false a b).1) (fetchTouch c s))))) ∧
    (NoTrap s c (fminmax fmt true a b).2 → exec (.fmax c rd ra rb fmt rm) s =
      .next (ran c s (flagged c (fminmax fmt true a b).2 (fSet c rd (BitVec.ofNat 64 (fminmax fmt true a b).1) (fetchTouch c s))))) ∧
    (NoTrap s c (fmac fmt m a b d).2 → exec (.fmac c rd ra rb fmt rm) s =
      .next (ran c s (flagged c (fmac fmt m a b d).2 (fSet c rd (BitVec.ofNat 64 (fmac fmt m a b d).1) (fetchTouch c s))))) ∧
    (NoTrap s c (fsqrt fmt m a).2 → exec (.fsqrt c rd ra fmt rm) s =
      .next (ran c s (flagged c (fsqrt fmt m a).2 (fSet c rd (BitVec.ofNat 64 (fsqrt fmt m a).1) (fetchTouch c s))))) ∧
    (NoTrap s c (fint fmt m a).2 → exec (.fint c rd ra fmt rm) s =
      .next (ran c s (flagged c (fint fmt m a).2 (fSet c rd (BitVec.ofNat 64 (fint fmt m a).1) (fetchTouch c s))))) ∧
    (NoTrap s c (ftoint fmt m true a).2 → exec (.ftoi c rd ra fmt rm) s =
      .next (ran c s (flagged c (ftoint fmt m true a).2 (gSet c rd (BitVec.ofNat 64 (ftoint fmt m true a).1) (fetchTouch c s))))) ∧
    (NoTrap s c (ftoint fmt m false a).2 → exec (.ftou c rd ra fmt rm) s =
      .next (ran c s (flagged c (ftoint fmt m false a).2 (gSet c rd (BitVec.ofNat 64 (ftoint fmt m false a).1) (fetchTouch c s))))) ∧
    (NoTrap s c (inttof fmt m (gGet s c ra).toInt).2 → exec (.itof c rd ra fmt rm) s =
      .next (ran c s (flagged c (inttof fmt m (gGet s c ra).toInt).2 (fSet c rd (BitVec.ofNat 64 (inttof fmt m (gGet s c ra).toInt).1) (fetchTouch c s))))) ∧
    (NoTrap s c (inttof fmt m ((gGet s c ra).toNat : Int)).2 → exec (.utof c rd ra fmt rm) s =
      .next (ran c s (flagged c (inttof fmt m ((gGet s c ra).toNat : Int)).2 (fSet c rd (BitVec.ofNat 64 (inttof fmt m ((gGet s c ra).toNat : Int)).1) (fetchTouch c s))))) ∧
    (NoTrap s c (ftof fmt m z).2 → exec (.ftof c rd ra fmt rm) s =
      .next (ran c s (flagged c (ftof fmt m z).2 (fSet c rd (BitVec.ofNat 64 (ftof fmt m z).1) (fetchTouch c s))))) ∧
    (NoTrap s c (fcmp fmt .eq false a b).2 → exec (.feq c rd ra rb fmt) s =
      .next (ran c s (flagged c (fcmp fmt .eq false a b).2 (gSet c rd (if (fcmp fmt .eq false a b).1 then 1 else 0) (fetchTouch c s))))) ∧
    (NoTrap s c (fcmp fmt .lt true a b).2 → exec (.flt c rd ra rb fmt) s =
      .next (ran c s (flagged c (fcmp fmt .lt true a b).2 (gSet c rd (if (fcmp fmt .lt true a b).1 then 1 else 0) (fetchTouch c s))))) ∧
    (NoTrap s c (fcmp fmt .le true a b).2 → exec (.fle c rd ra rb fmt) s =
      .next (ran c s (flagged c (fcmp fmt .le true a b).2 (gSet c rd (if (fcmp fmt .le true a b).1 then 1 else 0) (fetchTouch c s))))) ∧
    (NoTrap s c (fcmp fmt .lt false a b).2 → exec (.fltq c rd ra rb fmt) s =
      .next (ran c s (flagged c (fcmp fmt .lt false a b).2 (gSet c rd (if (fcmp fmt .lt false a b).1 then 1 else 0) (fetchTouch c s))))) ∧
    (NoTrap s c (fcmp fmt .le false a b).2 → exec (.fleq c rd ra rb fmt) s =
      .next (ran c s (flagged c (fcmp fmt .le false a b).2 (gSet c rd (if (fcmp fmt .le false a b).1 then 1 else 0) (fetchTouch c s))))) ∧
    (NoTrap s c (fcmp fmt .unord false a b).2 → exec (.funord c rd ra rb fmt) s =
      .next (ran c s (flagged c (fcmp fmt .unord false a b).2 (gSet c rd (if (fcmp fmt .unord false a b).1 then 1 else 0) (fetchTouch c s))))) ∧
    exec (.fclass c rd ra fmt) s = .next (ran c s (gSet c rd (BitVec.ofNat 64 (fclass fmt a)) (fetchTouch c s))) ∧
    exec (.fbits c rd ra) s = .next (ran c s (gSet c rd (fGet s c ra) (fetchTouch c s))) ∧
    exec (.gbits c rd ra) s = .next (ran c s (fSet c rd (gGet s c ra) (fetchTouch c s)))

/-- On every core that executes its next instruction with no imprecise exception pending: CHK ADD, SUB and MUL whose
signed result does not fit 64 bits trap with SUBCODE 0x40 whatever TE holds; DIV, DIVU, REM and REMU by 0, and FADD,
FSUB, FMUL and FDIV that raise a flag whose TE bit is set, trap with the highest such flag as SUBCODE. With PRECISE
set ARITHMETIC (vector 14) is taken at the instruction with its address as return address and value, destination and
FLAGS unchanged. With PRECISE clear the default result (modulo 2^64 for CHK) and the flags are written, the
instruction completes, and the exception becomes pending with the address of the instruction. Taking the highest
flag when several trap is the model's reading of Table 08-7 (log entry 36, DEDUCED). -/
def Obligations.ArithmeticTraps : Prop :=
  ∀ (s : State) (c : CoreId) (rd ra rb : Reg) (fmt : FFmt) (rm : FRm) (m : Round) (a b : Nat), CoreClear s c →
    m = rmOf s c rm → a = (fGet s c ra).toNat % 2 ^ fmt.width → b = (fGet s c rb).toNat % 2 ^ fmt.width →
    (let r := (gGet s c ra).toInt + (gGet s c rb).toInt
     (r < -(2 ^ 63) ∨ 2 ^ 63 ≤ r) → exec (.chkAdd c rd ra rb) s =
       .next (arithTrapped c s 0x40 0 (gSet c rd (BitVec.ofInt 64 r)))) ∧
    (let r := (gGet s c ra).toInt - (gGet s c rb).toInt
     (r < -(2 ^ 63) ∨ 2 ^ 63 ≤ r) → exec (.chkSub c rd ra rb) s =
       .next (arithTrapped c s 0x40 0 (gSet c rd (BitVec.ofInt 64 r)))) ∧
    (let r := (gGet s c ra).toInt * (gGet s c rb).toInt
     (r < -(2 ^ 63) ∨ 2 ^ 63 ≤ r) → exec (.chkMul c rd ra rb) s =
       .next (arithTrapped c s 0x40 0 (gSet c rd (BitVec.ofInt 64 r)))) ∧
    (gGet s c rb = 0 → ¬ NoTrap s c flagIDZ → exec (.div c rd ra rb) s =
       .next (arithTrapped c s (trapSub s c flagIDZ) flagIDZ (gSet c rd (BitVec.allOnes 64)))) ∧
    (gGet s c rb = 0 → ¬ NoTrap s c flagIDZ → exec (.divu c rd ra rb) s =
       .next (arithTrapped c s (trapSub s c flagIDZ) flagIDZ (gSet c rd (BitVec.allOnes 64)))) ∧
    (gGet s c rb = 0 → ¬ NoTrap s c flagIDZ → exec (.rem c rd ra rb) s =
       .next (arithTrapped c s (trapSub s c flagIDZ) flagIDZ (gSet c rd (gGet s c ra)))) ∧
    (gGet s c rb = 0 → ¬ NoTrap s c flagIDZ → exec (.remu c rd ra rb) s =
       .next (arithTrapped c s (trapSub s c flagIDZ) flagIDZ (gSet c rd (gGet s c ra)))) ∧
    (let r := fadd fmt m a b
     ¬ NoTrap s c r.2 → exec (.fadd c rd ra rb fmt rm) s =
       .next (arithTrapped c s (trapSub s c r.2) r.2 (fSet c rd (BitVec.ofNat 64 r.1)))) ∧
    (let r := fsub fmt m a b
     ¬ NoTrap s c r.2 → exec (.fsub c rd ra rb fmt rm) s =
       .next (arithTrapped c s (trapSub s c r.2) r.2 (fSet c rd (BitVec.ofNat 64 r.1)))) ∧
    (let r := fmul fmt m a b
     ¬ NoTrap s c r.2 → exec (.fmul c rd ra rb fmt rm) s =
       .next (arithTrapped c s (trapSub s c r.2) r.2 (fSet c rd (BitVec.ofNat 64 r.1)))) ∧
    (let r := fdiv fmt m a b
     ¬ NoTrap s c r.2 → exec (.fdiv c rd ra rb fmt rm) s =
       .next (arithTrapped c s (trapSub s c r.2) r.2 (fSet c rd (BitVec.ofNat 64 r.1))))

/-- For every state, core and register: g0 reads 0, and a write to g0 changes nothing at all; a write to any other g
register makes it read the written value and leaves every other g and f register of the core as it was; a write to
an f register makes it read the written value and leaves every other f register and every g register as it was; no
write touches the registers of another core. -/
def Obligations.GeneralRegisters : Prop :=
  ∀ (s : State) (c : CoreId) (r : Reg) (v : Word),
    gGet s c 0 = 0 ∧ gSet c 0 v s = s ∧ (r ≠ 0 → gGet (gSet c r v s) c r = v) ∧ fGet (fSet c r v s) c r = v ∧
    (∀ q : Reg, q ≠ r → gGet (gSet c r v s) c q = gGet s c q ∧ fGet (fSet c r v s) c q = fGet s c q) ∧
    (∀ q : Reg, fGet (gSet c r v s) c q = fGet s c q ∧ gGet (fSet c r v s) c q = gGet s c q) ∧
    (∀ d : CoreId, d ≠ c → core (gSet c r v s) d = core s d ∧ core (fSet c r v s) d = core s d)

/-- On every core that executes its next instruction, for an address g(ra) + sign-extended imm16 that is a multiple of
the access size and a load that the memory grants (coreLoad answers the bytes and the state u): LB, LH and LW write
the sign-extended, LBU, LHU, LWU, LD and LDA the zero-extended little-endian value to g(rd), FLD and FLW to f(rd)
(FLW clears bits 63:32), on top of u, with the pc at the next instruction and INSTRUCTIONS counted. What coreLoad
reads and leaves is in MemoryAccess. -/
def Obligations.LoadsWriteTheirRegister : Prop :=
  ∀ (s u : State) (c : CoreId) (rd ra : Reg) (imm : BitVec 16) (a : Nat) (bs : List Byte), CoreReady s c →
    a = (gGet s c ra + imm.signExtend 64).toNat →
    (a % 1 = 0 → coreLoad c a 1 false (fetchTouch c s) = (.ok bs, u) → bs.length = 1 →
      exec (.lb c rd ra imm) s = .next (ran c s (gSet c rd (BitVec.ofInt 64 (toSigned 8 (leNat bs))) u))) ∧
    (a % 2 = 0 → coreLoad c a 2 false (fetchTouch c s) = (.ok bs, u) → bs.length = 2 →
      exec (.lh c rd ra imm) s = .next (ran c s (gSet c rd (BitVec.ofInt 64 (toSigned 16 (leNat bs))) u))) ∧
    (a % 4 = 0 → coreLoad c a 4 false (fetchTouch c s) = (.ok bs, u) → bs.length = 4 →
      exec (.lw c rd ra imm) s = .next (ran c s (gSet c rd (BitVec.ofInt 64 (toSigned 32 (leNat bs))) u))) ∧
    (a % 1 = 0 → coreLoad c a 1 false (fetchTouch c s) = (.ok bs, u) → bs.length = 1 →
      exec (.lbu c rd ra imm) s = .next (ran c s (gSet c rd (BitVec.ofNat 64 (leNat bs)) u))) ∧
    (a % 2 = 0 → coreLoad c a 2 false (fetchTouch c s) = (.ok bs, u) → bs.length = 2 →
      exec (.lhu c rd ra imm) s = .next (ran c s (gSet c rd (BitVec.ofNat 64 (leNat bs)) u))) ∧
    (a % 4 = 0 → coreLoad c a 4 false (fetchTouch c s) = (.ok bs, u) → bs.length = 4 →
      exec (.lwu c rd ra imm) s = .next (ran c s (gSet c rd (BitVec.ofNat 64 (leNat bs)) u))) ∧
    (a % 8 = 0 → coreLoad c a 8 false (fetchTouch c s) = (.ok bs, u) → bs.length = 8 →
      exec (.ld c rd ra imm) s = .next (ran c s (gSet c rd (BitVec.ofNat 64 (leNat bs)) u))) ∧
    (a % 8 = 0 → coreLoad c a 8 false (fetchTouch c s) = (.ok bs, u) → bs.length = 8 →
      exec (.lda c rd ra imm) s = .next (ran c s (gSet c rd (BitVec.ofNat 64 (leNat bs)) u))) ∧
    (a % 8 = 0 → coreLoad c a 8 false (fetchTouch c s) = (.ok bs, u) → bs.length = 8 →
      exec (.fld c rd ra imm) s = .next (ran c s (fSet c rd (BitVec.ofNat 64 (leNat bs)) u))) ∧
    (a % 4 = 0 → coreLoad c a 4 false (fetchTouch c s) = (.ok bs, u) → bs.length = 4 →
      exec (.flw c rd ra imm) s = .next (ran c s (fSet c rd (BitVec.ofNat 64 (leNat bs)) u)))

/-- On every core that executes its next instruction, for an address g(ra) + sign-extended imm16 that is a multiple of
the access size and a store that the memory grants (coreStore answers the state t): SB, SH, SW, SD and STL store the
low 1, 2, 4, 8 and 8 bytes of g(rd), FSW and FSD the low 4 and 8 bytes of f(rd), least significant first; the state
is t with the pc at the next instruction and INSTRUCTIONS counted. Which bytes coreStore changes is in MemoryAccess. -/
def Obligations.StoresWriteTheirBytes : Prop :=
  ∀ (s t : State) (c : CoreId) (rd ra : Reg) (imm : BitVec 16) (a : Nat), CoreReady s c →
    a = (gGet s c ra + imm.signExtend 64).toNat →
    (a % 1 = 0 → coreStore c a (leBytes 1 (gGet s c rd).toNat) false (fetchTouch c s) = .ok t →
      exec (.sb c rd ra imm) s = .next (ran c s t)) ∧
    (a % 2 = 0 → coreStore c a (leBytes 2 (gGet s c rd).toNat) false (fetchTouch c s) = .ok t →
      exec (.sh c rd ra imm) s = .next (ran c s t)) ∧
    (a % 4 = 0 → coreStore c a (leBytes 4 (gGet s c rd).toNat) false (fetchTouch c s) = .ok t →
      exec (.sw c rd ra imm) s = .next (ran c s t)) ∧
    (a % 8 = 0 → coreStore c a (leBytes 8 (gGet s c rd).toNat) false (fetchTouch c s) = .ok t →
      exec (.sd c rd ra imm) s = .next (ran c s t)) ∧
    (a % 8 = 0 → coreStore c a (leBytes 8 (gGet s c rd).toNat) false (fetchTouch c s) = .ok t →
      exec (.stl c rd ra imm) s = .next (ran c s t)) ∧
    (a % 8 = 0 → coreStore c a (leBytes 8 (fGet s c rd).toNat) false (fetchTouch c s) = .ok t →
      exec (.fsd c rd ra imm) s = .next (ran c s t)) ∧
    (a % 4 = 0 → coreStore c a (leBytes 4 (fGet s c rd).toNat) false (fetchTouch c s) = .ok t →
      exec (.fsw c rd ra imm) s = .next (ran c s t))

/-- On a core that executes its next instruction with no imprecise exception pending: LRX and SCX at an address that is
not a multiple of 8 raise MISALIGNED_ACCESS with it, and at a tile address ACCESS_VIOLATION with SUBCODE 2. LRX
whose access succeeds writes the 8 bytes to g(rd) and sets the reservation to the physical 128-byte line. SCX with a
reservation on the line it would store to stores g(rb) and writes 0 to g(rd); without one it stores nothing and
writes 1. A write by another core or by any other requester to a byte of the reserved line ends the reservation.
That SCX itself keeps a reservation is the model's choice (log entry 14). -/
def Obligations.ReservedLoadAndStore : Prop :=
  ∀ (s u : State) (c : CoreId) (rd ra rb : Reg) (a pa : Nat) (st : Bool) (bs : List Byte), CoreClear s c →
    a = (gGet s c ra).toNat →
    (a % 8 ≠ 0 → exec (.lrx c rd ra) s = .next (tookTrap c s { vec := 7, val := gGet s c ra }) ∧
      exec (.scx c rd ra rb) s = .next (tookTrap c s { vec := 7, val := gGet s c ra })) ∧
    (a % 8 = 0 → inWindow a = true →
      exec (.lrx c rd ra) s = .next (tookTrap c s { vec := 11, sub := 2, val := gGet s c ra }) ∧
      exec (.scx c rd ra rb) s = .next (tookTrap c s { vec := 11, sub := 2, val := gGet s c ra })) ∧
    (a % 8 = 0 → inWindow a = false → corePlace (fetchTouch c s) c .read a 8 = .ok (.dev pa st) →
      coreLoad c a 8 false (fetchTouch c s) = (.ok bs, u) → bs.length = 8 → exec (.lrx c rd ra) s =
        .next (ran c s (gSet c rd (BitVec.ofNat 64 (leNat bs)) (coreMod c (fun k => { k with resv := some (pa / 128) }) u)))) ∧
    (a % 8 = 0 → inWindow a = false → corePlace (fetchTouch c s) c .write a 8 = .ok (.dev pa st) →
      (core s c).resv = some (pa / 128) →
      coreStore c a (leBytes 8 (gGet s c rb).toNat) false (fetchTouch c s) = .ok u →
      exec (.scx c rd ra rb) s = .next (ran c s (gSet c rd 0 u))) ∧
    (a % 8 = 0 → inWindow a = false → corePlace (fetchTouch c s) c .write a 8 = .ok (.dev pa st) →
      (core s c).resv ≠ some (pa / 128) → exec (.scx c rd ra rb) s = .next (ran c s (gSet c rd 1 (fetchTouch c s)))) ∧
    (∀ (e : CoreId) (n : Nat) (bytes : List Byte), e ≠ c → (core s c).resv = some n → n * 128 < pa + bytes.length →
      pa < n * 128 + 128 → (core (physPut (some e.val) pa bytes s) c).resv = none ∧
        (core (physPut none pa bytes s) c).resv = none)

/-- From every sound state with no parity or tag error in the L2 of the core: a load placed in the tile window answers
the bytes of tile memory, and one placed in device memory whose channel has not failed and whose codewords are not
poisoned answers the bytes at its physical address; nothing changes but cache state, corrected tile words, cluster
registers, translations held and DRAM requests (Quiet), and no codeword is poisoned. A store to the tile window, with
no uncorrectable word that it writes in part, changes exactly the stored bytes of the own tile memory. A store to
device memory, with no dirty-page log running for the instance of the core, changes device memory in exactly the
stored bytes (every other byte reads as before), and no g register, f register or tile memory of any core. The place
is corePlace, the function the meanings use (R175, R176, R256). -/
def Obligations.MemoryAccess : Prop :=
  ∀ (s : State) (c : CoreId) (a n o pa : Nat) (st lv : Bool) (bytes : List Byte), L2NoError s c → Sound s →
    (corePlace s c .read a n = .ok (.tile o) →
      ∃ u, coreLoad c a n lv s = (.ok (memTake (core s c).tile o n), u) ∧ Quiet s u ∧ u.ms = s.ms) ∧
    (corePlace s c .read a n = .ok (.dev pa st) → channelFailed s pa = false → poisoned s pa n = false →
      ∃ u, coreLoad c a n lv s = (.ok (memTake s.ms.dram pa n), u) ∧ Quiet s u ∧ u.ms.poison = s.ms.poison) ∧
    (corePlace s c .write a bytes.length = .ok (.tile o) → ∃ t, coreStore c a bytes lv s = .ok t ∧
      Quiet (coreMod c (fun k => { k with tile := (core t c).tile }) s) t ∧ t.ms = s.ms ∧ t.clusters = s.clusters ∧
      ∀ x, memGet (core t c).tile x =
        if o ≤ x ∧ x < o + bytes.length then bytes.getD (x - o) 0 else memGet (core s c).tile x) ∧
    (corePlace s c .write a bytes.length = .ok (.dev pa st) → channelFailed s pa = false →
      (∀ i : Nat, coreCtx s c = .inst i → od s (instIdx i) 0x3C = 0) →
      ∃ u t, coreStore c a bytes lv s = .ok t ∧ Quiet s u ∧ u.ms.poison = s.ms.poison ∧ t = physPut (some c.val) pa bytes u ∧
        (∀ d : CoreId, (core t d).g = (core s d).g ∧ (core t d).f = (core s d).f ∧ (core t d).tile = (core s d).tile) ∧
        ∀ x, memGet t.ms.dram x =
          if pa ≤ x ∧ x < pa + bytes.length then bytes.getD (x - pa) 0 else memGet s.ms.dram x)

/-- On every core that executes its next instruction with no imprecise exception pending: for each of the ten registers
of Table 08-2 used at its lowest level or above, MFS writes its value to g(ra) (coreid reads the global core
number), and MTS writes g(ra) to it: only PRECISE, TE, RM and FLAGS of pstat change, bits 31:6 of sstat and mstat
are taken and the rest read 0, and a write of coreid is discarded. Used below its level a register raises PRIVILEGED;
a number absent from the table, and MTS of a PPL of 2 or 3 to sstat or of 3 to mstat at any level, raise
ILLEGAL_INSTRUCTION, each with the instruction word. -/
def Obligations.StatusRegisters : Prop :=
  ∀ (s : State) (c : CoreId) (ra : Reg) (num : BitVec 16) (v : Word), CoreClear s c → v = gGet s c ra →
    (∀ r ∈ statTable s c, r.1 = num.toNat → r.2.1.code ≤ (coreLevel s c).code →
      exec (.mfs c ra num) s = .next (ran c s (gSet c ra r.2.2 (fetchTouch c s)))) ∧
    (∀ r ∈ statTable s c, r.1 = num.toNat → r.2.1.code ≤ (coreLevel s c).code →
      (num = 0x11 → bitsOf v.toNat 10 9 < 2) → (num = 0x21 → bitsOf v.toNat 10 9 < 3) →
      exec (.mts c ra num) s = .next (ran c s (coreMod c (statTaken num.toNat v) (fetchTouch c s)))) ∧
    (∀ r ∈ statTable s c, r.1 = num.toNat → (coreLevel s c).code < r.2.1.code →
      exec (.mfs c ra num) s = .next (tookTrap c s { vec := 5, val := (encI 0x3D 4 ra num.toNat).setWidth 64 }) ∧
      ((num = 0x11 → bitsOf v.toNat 10 9 < 2) → (num = 0x21 → bitsOf v.toNat 10 9 < 3) →
        exec (.mts c ra num) s = .next (tookTrap c s { vec := 5, val := (encI 0x3D 5 ra num.toNat).setWidth 64 }))) ∧
    ((num = 0x11 ∧ 2 ≤ bitsOf v.toNat 10 9) ∨ (num = 0x21 ∧ 3 ≤ bitsOf v.toNat 10 9) →
      exec (.mts c ra num) s = .next (tookTrap c s { vec := 4, val := (encI 0x3D 5 ra num.toNat).setWidth 64 })) ∧
    ((∀ r ∈ statTable s c, r.1 ≠ num.toNat) →
      exec (.mfs c ra num) s = .next (tookTrap c s { vec := 4, val := (encI 0x3D 4 ra num.toNat).setWidth 64 }) ∧
      exec (.mts c ra num) s = .next (tookTrap c s { vec := 4, val := (encI 0x3D 5 ra num.toNat).setWidth 64 }))

/-- On every core that executes its next instruction with no imprecise exception pending: SYSC below M and MCALL above T
enter their vectors with imm16 as the value, SYSC at M is ILLEGAL_INSTRUCTION and MCALL at T is PRIVILEGED; BRK
enters BREAKPOINT with imm16; SRET at S or M and MRET at M go to sepc or mepc with the level PPL, IE := PIE and EXL
:= 0 in sstat or mstat and no other bit of it changed, else PRIVILEGED; HALT at M halts the core, else PRIVILEGED;
WFI completes where an interrupt is pending after its fetch, below M, and otherwise waits; AFENCE completes; FENCE completes, and with
bit 4 set empties the L1I of the core; a word with an illegal, reserved or unassigned encoding raises
ILLEGAL_INSTRUCTION with that word. -/
def Obligations.SystemInstructions : Prop :=
  ∀ (s : State) (c : CoreId) (imm : BitVec 16) (bits : BitVec 5) (word : BitVec 32), CoreClear s c →
    ((coreLevel s c ≠ .m → exec (.sysc c imm) s = .next (tookTrap c s { vec := 16, val := imm.setWidth 64 })) ∧
     (coreLevel s c = .m → exec (.sysc c imm) s =
       .next (tookTrap c s { vec := 4, val := (encI 0x3D 0 0 imm.toNat).setWidth 64 }))) ∧
    ((coreLevel s c ≠ .t → exec (.mcall c imm) s = .next (tookTrap c s { vec := 17, val := imm.setWidth 64 })) ∧
     (coreLevel s c = .t → exec (.mcall c imm) s =
       .next (tookTrap c s { vec := 5, val := (encI 0x3D 1 0 imm.toNat).setWidth 64 }))) ∧
    exec (.brk c imm) s = .next (tookTrap c s { vec := 15, val := imm.setWidth 64 }) ∧
    ((coreLevel s c ≠ .t → exec (.sret c) s = .next (ranTo c s (core s c).sepc (coreMod c (fun k => { k with
        pstat := wput k.pstat 31 30 (bitsOf k.sstat.toNat 10 9), sstat := returnStat k.sstat }) (fetchTouch c s)))) ∧
     (coreLevel s c = .t → exec (.sret c) s = .next (tookTrap c s { vec := 5, val := (encI 0x3D 2 0 0).setWidth 64 }))) ∧
    ((coreLevel s c = .m → exec (.mret c) s = .next (ranTo c s (core s c).mepc (coreMod c (fun k => { k with
        pstat := wput k.pstat 31 30 (bitsOf k.mstat.toNat 10 9), mstat := returnStat k.mstat }) (fetchTouch c s)))) ∧
     (coreLevel s c ≠ .m → exec (.mret c) s = .next (tookTrap c s { vec := 5, val := (encI 0x3D 3 0 0).setWidth 64 }))) ∧
    ((coreLevel s c = .m → exec (.halt c) s = .next (haltCore c 0 (fetchTouch c s))) ∧
     (coreLevel s c ≠ .m → exec (.halt c) s = .next (tookTrap c s { vec := 5, val := (encI 0x3D 7 0 0).setWidth 64 }))) ∧
    ((core (fetchTouch c s) c).intr ≠ 0 → coreLevel s c ≠ .m → exec (.wfi c) s = .next (ran c s (fetchTouch c s))) ∧
    ((core (fetchTouch c s) c).intr = 0 ∨ coreLevel s c = .m → exec (.wfi c) s = .next (fetchTouch c s)) ∧
    exec (.afence c) s = .next (ran c s (fetchTouch c s)) ∧
    exec (.fence c bits) s = .next (ran c s
      (if bits.getLsbD 4 then coreMod c (fun k => { k with l1i := [] }) (fetchTouch c s) else fetchTouch c s)) ∧
    (wordIllegal word = true →
      exec (.illegalInstruction c word) s = .next (tookTrap c s { vec := 4, val := word.setWidth 64 })) ∧
    (∀ x : Word, (returnStat x).getLsbD 7 = x.getLsbD 8 ∧ (returnStat x).getLsbD 6 = false ∧
      ∀ i : Nat, i ≠ 6 → i ≠ 7 → (returnStat x).getLsbD i = x.getLsbD i)

/-- For every state, core, vector and SUBCODE: an entry by a vector taken to S with EXL of sstat clear saves the return
address in sepc, the old level, IE, vector, SUBCODE and IMPRECISE in sstat with IE 0 and EXL 1 (NEST unchanged) and the
value in sval, sets level S, ends a reservation, goes to 0xFFFFF000 + 32 x vector and touches no memory; to M the same
with mepc, mstat, mval and 0xFFFFE000. With EXL of sstat set and g31 a multiple of 32 whose push lies in the tile window
above 0xFFFFE800, the frame sepc, sstat, sval, 0 is pushed below g31 (its words encoded anew), g31 drops by 32 and NEST
rises by one. TRAPS counts each entry, and IMPRECISE_TRAPS an imprecise one. With g31 misaligned or NEST 15 the frame
goes to estk and DOUBLE_FAULT enters M with the vector as SUBCODE and g31 - 32, or g31, in mval. A failed estk push
halts the core. The slot addresses and SUBCODE widths are those of Tables 08-4 and 10-5. -/
def Obligations.Entries : Prop :=
  ∀ (s : State) (c : CoreId) (vec sub : Nat) (val ret : Word) (imp : Bool), vec < 64 → sub < 256 →
    (coreLevel s c ≠ .m → vec ≠ 2 → vec ≠ 17 → (core s c).sstat.getLsbD 6 = false →
      ∃ w, EntryWord (core s c).sstat w (coreLevel s c).code vec sub (bitsOf (core s c).sstat.toNat 15 12) imp ∧
      enter c vec sub val ret imp s = countEntry c imp (coreMod c (fun k => { k with
        sepc := ret, sstat := w, sval := val, pc := slotAddr 0xFFFFF000 vec
        pstat := setLevel k.pstat .s, resv := none }) s)) ∧
    ((coreLevel s c = .m ∨ vec = 2 ∨ vec = 17) → (core s c).mstat.getLsbD 6 = false →
      ∃ w, EntryWord (core s c).mstat w (coreLevel s c).code vec sub (bitsOf (core s c).mstat.toNat 15 12) imp ∧
      enter c vec sub val ret imp s = countEntry c imp (coreMod c (fun k => { k with
        mepc := ret, mstat := w, mval := val, pc := slotAddr 0xFFFFE000 vec
        pstat := setLevel k.pstat .m, resv := none }) s)) ∧
    (coreLevel s c ≠ .m → vec ≠ 2 → vec ≠ 17 → (core s c).sstat.getLsbD 6 = true →
      (gGet s c 31).toNat % 32 = 0 → bitsOf (core s c).sstat.toNat 15 12 ≠ 15 →
      0xFFFFE800 + 32 ≤ (gGet s c 31).toNat → (gGet s c 31).toNat ≤ 0xFFFFF000 →
      ∃ w, EntryWord (core s c).sstat w (coreLevel s c).code vec sub (bitsOf (core s c).sstat.toNat 15 12 + 1) imp ∧
      enter c vec sub val ret imp s = countEntry c imp (coreMod c (fun k => { k with
        sepc := ret, sstat := w, sval := val, pc := slotAddr 0xFFFFF000 vec
        pstat := setLevel k.pstat .s, resv := none }) (gSet c 31 (gGet s c 31 - 32) (coreMod c (fun k => { k with
          tile := memPut k.tile (tileOff ((gGet s c 31).toNat - 32))
            (frameBytes (core s c).sepc (core s c).sstat (core s c).sval 0)
          tileBad := k.tileBad.filter fun e => !wordIn e.1 (tileOff ((gGet s c 31).toNat - 32)) 32 }) s)))) ∧
    (coreLevel s c ≠ .m → vec ≠ 2 → vec ≠ 17 → (core s c).sstat.getLsbD 6 = true →
      ((gGet s c 31).toNat % 32 ≠ 0 ∨ bitsOf (core s c).sstat.toNat 15 12 = 15) →
      (core s c).mstat.getLsbD 6 = false → (core s c).estk.toNat % 32 = 0 →
      0xFFFFC000 + 32 ≤ (core s c).estk.toNat → (core s c).estk.toNat ≤ 0xFFFFE000 →
      ∃ w, EntryWord (core s c).mstat w (coreLevel s c).code 1 vec (bitsOf (core s c).mstat.toNat 15 12) false ∧
      enter c vec sub val ret imp s = countEntry c false (odBump (0x3400 + c.val) 6 (coreMod c (fun k => { k with
        mepc := k.pc, mstat := w, pc := slotAddr 0xFFFFE000 1, pstat := setLevel k.pstat .m, resv := none
        mval := if bitsOf k.sstat.toNat 15 12 = 15 then gGet s c 31 else gGet s c 31 - 32
        tile := memPut k.tile (tileOff (k.estk.toNat - 32)) (frameBytes k.sepc k.sstat k.sval val)
        tileBad := k.tileBad.filter fun e => !wordIn e.1 (tileOff (k.estk.toNat - 32)) 32
        estk := k.estk - 32 }) s))) ∧
    ((coreLevel s c = .m ∨ vec = 2 ∨ vec = 17) → (core s c).mstat.getLsbD 6 = true →
      ((core s c).estk.toNat % 32 ≠ 0 ∨ (core s c).estk.toNat < 0xFFFFC000 + 32 ∨ 0xFFFFE000 < (core s c).estk.toNat) →
      enter c vec sub val ret imp s = haltCore c vec s)

/-- On every core that executes its next instruction, with no trap enabled in TE: an ALU, ALUW, MULDIV, immediate,
SHIFTI (with W clear or a count below 32), FTOI, FTOU, FCMP, FCLASS or FBITS instruction changes at most g(rd); an
FPU, ITOF, UTOF, FTOF, FINT or GBITS instruction at most f(rd); a branch or J no register. Besides that only the pc,
FLAGS in pstat (bits may be set, none cleared), the age of a pending imprecise exception, the INSTRUCTIONS count of the
core and what fetching the instruction leaves (L1I lines, recent misses, corrected tile words, the cluster's L2 and
registers, translations, channel requests) differ: every other register and status register, the reservation, tile
memory, every other core and cluster, every other dictionary entry, every byte of device and host memory, queues, jobs
and every other unit are as before. Where an L2 holds a parity or tag error, which the fetch may meet on behalf of
another core (R226), all this is said against the state that the fetch leaves. CHK, JAL and JALR are not among these
forms. -/
def Obligations.RegisterInstructionFrame : Prop :=
  ∀ (s t : State) (c : CoreId) (rd ra rb : Reg) (imm : BitVec 16) (e : BitVec 26) (w : Bool) (n : Fin 64) (fmt : FFmt) (rm : FRm)
    (i : Instr), CoreReady s c → bitsOf (core s c).pstat.toNat 22 17 = 0 → exec i s = .next t →
    ∀ r, r = fetchTouch c s ∨ (L2NoError s c ∧ r = s) →
    ((w = false ∨ n.val < 32) → i ∈ gForms c rd ra rb imm w n fmt rm → RegisterFrame c (some (.g rd)) r t) ∧
    (i ∈ fForms c rd ra rb fmt rm → RegisterFrame c (some (.f rd)) r t) ∧
    (i ∈ branchForms c ra rb imm e → RegisterFrame c none r t)

/-- INTERRUPT_TAKEN on a core that executes, at T or at S with IE set, with no imprecise exception pending: the lowest
pending interrupt i is no longer pending and is entered by vector 32 + i with the pc as return address and value 0;
at T the registers of the task that holds the core are saved with it (taking the lowest first is the model's choice,
log entry 15). With nothing pending, at M, or at S with IE clear it changes nothing. IMPRECISE_ARITHMETIC on a core
that executes enters ARITHMETIC with the pending SUBCODE, the trapping instruction's address as value, the pc as
return address and IMPRECISE set (Entries counts it), and leaves nothing pending; with nothing pending it changes nothing.
CORE_RESTART of a halted core clears its tile memory and caches and leaves it running at M vector 0 with the status
registers of Table 08-2, g and f kept (log entry 5); of a running core it changes nothing. -/
def Obligations.CoreEvents : Prop :=
  ∀ (s : State) (c : CoreId) (i sub : Nat) (addr : Word),
    (coreActive s c = true → (core s c).imp = none → i < 4 → (core s c).intr.getLsbD i = true →
      (∀ j < i, (core s c).intr.getLsbD j = false) →
      (coreLevel s c = .t ∨ (coreLevel s c = .s ∧ (core s c).sstat.getLsbD 7 = true)) →
      exec (.interruptTaken c) s = .next (enter c (32 + i) 0 0 (core s c).pc false (coreMod c (fun k => { k with
        intr := k.intr &&& ~~~ (BitVec.ofNat 4 (2 ^ i))
        saved := if coreLevel s c = .t then (match k.task with
            | some slot => some { slot := slot, g := k.g, f := k.f, pstat := k.pstat, lvi := k.lvi, pc := k.pc }
            | none => k.saved) else k.saved }) s))) ∧
    (((core s c).intr = 0 ∨ coreLevel s c = .m ∨ (coreLevel s c = .s ∧ (core s c).sstat.getLsbD 7 = false)) →
      exec (.interruptTaken c) s = .next s) ∧
    (coreActive s c = true → (core s c).imp = some (sub, addr) → exec (.impreciseArithmetic c) s =
      .next (takeTrap c { vec := 14, sub := sub, val := addr } (core s c).pc true
        (coreMod c (fun k => { k with imp := none, impAge := 0 }) s))) ∧
    ((core s c).imp = none → exec (.impreciseArithmetic c) s = .next s) ∧
    ((core s c).run = .running → exec (.coreRestart c) s = .next s) ∧
    ((core s c).run ≠ .running → ∃ t, exec (.coreRestart c) s = .next t ∧
      core t c = { ({} : Core) with
        g := (core s c).g, f := (core s c).f, haltCause := (core s c).haltCause, haltTimes := (core s c).haltTimes
        run := if (core s c).run = .outOfService then .outOfService else .running } ∧
      (∀ e : CoreId, e ≠ c → core t e = core s e) ∧ t.ms = s.ms)

/-- On every core that executes its next instruction with no imprecise exception pending, held by a task (u is s after the
fetch). SRD of an input port whose next element is present and whose bytes fit the task's tile region stores them at
g(ra), consumes the element and writes 0 to g(rd), and bytes outside the region are an ACCESS_VIOLATION; a null
element is consumed and gives 2; an ended and empty port gives 1; an empty port that has not ended waits. SPOLL gives
1 when SRD would not wait, else 0. SEND ends an open output port and gives 0; SWRN on a NULLABLE open port with room
and within OUT_CAP sends a null element and gives 0, and waits without room; SWR of an element of fixed width w, or of
a VARBYTES value with its length before it, sends the bytes at g(ra) and gives 0, and bytes outside the region, or a
length outside it, are an ACCESS_VIOLATION whatever the tile words hold. STREAM_ERROR: SUBCODE 0 for a port the stage does not have, 1 for an ended output port, 2 for SWRN
on a port that is not NULLABLE. A tile word with an uncorrectable error is left out here. How many elements an output
port holds before SWR waits is the model's choice (log entry 16). -/
def Obligations.StreamInstructions : Prop :=
  ∀ (s u : State) (c : CoreId) (rd ra : Reg) (port : Fin 16) (slot : Nat) (t : Task) (a : Nat), CoreClear s c →
    u = fetchTouch c s → a = (gGet s c ra).toNat → coreTask u c = some (slot, t) →
    (∀ p e, t.ins[port.val]? = some p → inEnt u t port.val = some e →
      (∀ b rest, p.buf = some b :: rest →
        (inTaskTile (core s c) a (elemBytes e.ty b).length = true →
          tileError (core u c) true a (elemBytes e.ty b).length = none →
          exec (.srd c rd ra port) s = .next (ran c s (gSet c rd 0 (dropPort slot port.val 1
            (tileWrite c (tileOff a) (elemBytes e.ty b) u))))) ∧
        (inTaskTile (core s c) a (elemBytes e.ty b).length = false → exec (.srd c rd ra port) s =
          .next (tookTrap c s { vec := 11, sub := 1, val := BitVec.ofNat 64 a }))) ∧
      (∀ rest, p.buf = none :: rest → exec (.srd c rd ra port) s =
        .next (ran c s (gSet c rd 2 (dropPort slot port.val 1 u)))) ∧
      (p.buf = [] → p.ended = true → exec (.srd c rd ra port) s = .next (ran c s (gSet c rd 1 u))) ∧
      (p.buf = [] → p.ended = false → exec (.srd c rd ra port) s = .next u) ∧
      exec (.spoll c rd ra port) s =
        .next (ran c s (gSet c rd (if p.buf ≠ [] ∨ p.ended = true then 1 else 0) u))) ∧
    (∀ p e, t.outs[port.val]? = some p → outEnt u t port.val = some e → p.ended = false →
      exec (.strSend c rd ra port) s = .next (ran c s (gSet c rd 0 (taskMod slot (fun t => { t with
          outs := lmod t.outs port.val fun p => { p with ended := true } }) u))) ∧
      (e.nullable = true → outHasRoom (taskImg u t) p = false → exec (.swrn c rd ra port) s = .next u) ∧
      (capAllows u t port.val 1 = true → outHasRoom (taskImg u t) p = true →
        (e.nullable = true → exec (.swrn c rd ra port) s =
          .next (ran c s (gSet c rd 0 (pushOut slot port.val [none] u)))) ∧
        (∀ w, e.ty ≠ tyVar → w = elemWidth (taskImg u t) e.ty e.layout →
          inTaskTile (core s c) a w = true → tileError (core u c) false a w = none → exec (.swr c rd ra port) s =
          .next (ran c s (gSet c rd 0 (pushOut slot port.val
            [some (memTake (core s c).tile (tileOff a) w)] (tileCorrect c (tileOff a) w u))))) ∧
        (∀ w, e.ty = tyVar → w = leNat (memTake (core s c).tile (tileOff a) 4) →
          inTaskTile (core s c) a (4 + w) = true → tileError (core u c) false a (4 + w) = none → exec (.swr c rd ra port) s =
          .next (ran c s (gSet c rd 0 (pushOut slot port.val
            [some (memTake (core s c).tile (tileOff a + 4) w)] (tileCorrect c (tileOff a) (4 + w) u)))))) ∧
      (∀ w, (e.ty ≠ tyVar ∧ w = elemWidth (taskImg u t) e.ty e.layout) ∨
          (e.ty = tyVar ∧ (w = 4 ∨ w = 4 + leNat (memTake (core s c).tile (tileOff a) 4))) →
        inTaskTile (core s c) a w = false → exec (.swr c rd ra port) s =
          .next (tookTrap c s { vec := 11, sub := 1, val := BitVec.ofNat 64 a }))) ∧
    (t.ins[port.val]? = none → exec (.srd c rd ra port) s = .next (tookTrap c s { vec := 18, sub := 0, val := BitVec.ofNat 64 port.val }) ∧
      exec (.spoll c rd ra port) s = .next (tookTrap c s { vec := 18, sub := 0, val := BitVec.ofNat 64 port.val })) ∧
    (t.outs[port.val]? = none → exec (.swr c rd ra port) s = .next (tookTrap c s { vec := 18, sub := 0, val := BitVec.ofNat 64 port.val }) ∧
      exec (.swrn c rd ra port) s = .next (tookTrap c s { vec := 18, sub := 0, val := BitVec.ofNat 64 port.val }) ∧
      exec (.strSend c rd ra port) s = .next (tookTrap c s { vec := 18, sub := 0, val := BitVec.ofNat 64 port.val })) ∧
    (∀ p e, t.outs[port.val]? = some p → outEnt u t port.val = some e →
      (p.ended = true →
        (∀ w, e.ty ≠ tyVar → w = elemWidth (taskImg u t) e.ty e.layout → inTaskTile (core s c) a w = true →
          tileError (core u c) false a w = none → exec (.swr c rd ra port) s =
            .next (tookTrap c s { vec := 18, sub := 1, val := BitVec.ofNat 64 port.val })) ∧
        exec (.swrn c rd ra port) s = .next (tookTrap c s { vec := 18, sub := 1, val := BitVec.ofNat 64 port.val }) ∧
        exec (.strSend c rd ra port) s = .next (tookTrap c s { vec := 18, sub := 1, val := BitVec.ofNat 64 port.val })) ∧
      (p.ended = false → e.nullable = false → exec (.swrn c rd ra port) s =
        .next (tookTrap c s { vec := 18, sub := 2, val := BitVec.ofNat 64 port.val })))

/-- On every core that executes its next instruction with no imprecise exception pending (u is s after the
fetch, and v is u after the tags of the set that the operation looks up in the L2 are checked, Table 10-2). For an address that
translates to a line outside the tile window, CLEAN and CLEAN_INV, and INV at S or M, perform the line operation on the
L2, side buffer and L1Ds of the core's cluster and complete; after CLEAN_INV and INV no L1D of the cluster holds any
part of the line. For a tile address they complete and do nothing; an address that raises an exception is taken as one.
CLEAN_RANGE and CLEAN_INV_RANGE, and INV_RANGE at S or M: a length of 0 handles nothing; a range within one line handles
it, g(ra) becomes the end address and g(rl) 0.
CLEAN_SW, CLEAN_INV_SW and INV_SW at S or M act on the L2 line that bits 15:0 of g(rl) name when the L2 is not OFF, and
with it OFF on that set and way of the cluster's L1Ds (log entry 52); at every level they are ILLEGAL_INSTRUCTION when
bits 63:16 are not 0 (R184). INV and INV_RANGE at T are PRIVILEGED, and so are the three SW operations with those bits 0.
PREFETCH of a line whose channel works fills it in the L2 when that is ON, and in the core's L1D when it is
OFF; otherwise it completes without effect. Where the tag check raises MACHINE_CHECK, each of them takes it and does
nothing else. -/
def Obligations.CacheLineInstructions : Prop :=
  ∀ (s u : State) (c : CoreId) (ra rl : Reg) (line : Nat), CoreClear s c → u = fetchTouch c s →
    (cacheLine u c .write (gGet s c ra).toNat = .ok (some line) →
      (∀ v, lookTags c (l2Set line) u = (v, none) →
        exec (.clean c ra) s = .next (ran c s (lineOp .clean (clusterOf c) line v)) ∧
        exec (.cleanInv c ra) s = .next (ran c s (lineOp .cleanInv (clusterOf c) line v)) ∧
        (coreLevel s c ≠ .t → exec (.inv c ra) s = .next (ran c s (lineOp .inv (clusterOf c) line v))) ∧
        (∀ d : CoreId, clusterOf d = clusterOf c →
          (∀ e ∈ (core (ran c s (lineOp .cleanInv (clusterOf c) line v)) d).l1d, e.2.line / 2 ≠ line) ∧
          (∀ e ∈ (core (ran c s (lineOp .inv (clusterOf c) line v)) d).l1d, e.2.line / 2 ≠ line)) ∧
        (0 < (gGet s c rl).toNat → (gGet s c ra).toNat % 128 + (gGet s c rl).toNat ≤ 128 →
          exec (.cleanRange c ra rl) s = .next (ran c s (rangeRegs c ra rl ((gGet s c ra).toNat + (gGet s c rl).toNat) 0
            (lineOp .clean (clusterOf c) line v))) ∧
          exec (.cleanInvRange c ra rl) s = .next (ran c s (rangeRegs c ra rl ((gGet s c ra).toNat + (gGet s c rl).toNat) 0
            (lineOp .cleanInv (clusterOf c) line v))) ∧
          (coreLevel s c ≠ .t → exec (.invRange c ra rl) s =
            .next (ran c s (rangeRegs c ra rl ((gGet s c ra).toNat + (gGet s c rl).toNat) 0
              (lineOp .inv (clusterOf c) line v)))))) ∧
      (∀ v x, lookTags c (l2Set line) u = (v, some x) →
        exec (.clean c ra) s = .next (instrTrap c (core s c).pc x v) ∧
        exec (.cleanInv c ra) s = .next (instrTrap c (core s c).pc x v) ∧
        (coreLevel s c ≠ .t → exec (.inv c ra) s = .next (instrTrap c (core s c).pc x v)) ∧
        (0 < (gGet s c rl).toNat → ∀ w, w = rangeRegs c ra rl (gGet s c ra).toNat (gGet s c rl).toNat v →
          exec (.cleanRange c ra rl) s = .next (instrTrap c (core s c).pc x w) ∧
          exec (.cleanInvRange c ra rl) s = .next (instrTrap c (core s c).pc x w) ∧
          (coreLevel s c ≠ .t → exec (.invRange c ra rl) s = .next (instrTrap c (core s c).pc x w))))) ∧
    (cacheLine u c .write (gGet s c ra).toNat = .ok none →
      exec (.clean c ra) s = .next (ran c s u) ∧ exec (.cleanInv c ra) s = .next (ran c s u) ∧
      (coreLevel s c ≠ .t → exec (.inv c ra) s = .next (ran c s u))) ∧
    (∀ x, cacheLine u c .write (gGet s c ra).toNat = .error x →
      exec (.clean c ra) s = .next (tookTrap c s x) ∧ exec (.cleanInv c ra) s = .next (tookTrap c s x)) ∧
    ((gGet s c rl).toNat = 0 →
      exec (.cleanRange c ra rl) s = .next (ran c s (rangeRegs c ra rl (gGet s c ra).toNat 0 u)) ∧
      exec (.cleanInvRange c ra rl) s = .next (ran c s (rangeRegs c ra rl (gGet s c ra).toNat 0 u)) ∧
      (coreLevel s c ≠ .t →
        exec (.invRange c ra rl) s = .next (ran c s (rangeRegs c ra rl (gGet s c ra).toNat 0 u)))) ∧
    (coreLevel s c ≠ .t → (gGet s c rl).toNat < 65536 → l2State u (clusterOf c) ≠ 0 →
      (∀ v, lookTags c ((gGet s c rl).toNat / 16) u = (v, none) →
        exec (.cleanSw c ra rl) s = .next (ran c s
          (l2Clean (clusterOf c) ((gGet s c rl).toNat / 16) ((gGet s c rl).toNat % 16) v)) ∧
        exec (.cleanInvSw c ra rl) s = .next (ran c s
          (l2Del (clusterOf c) ((gGet s c rl).toNat / 16) ((gGet s c rl).toNat % 16)
            (l2Clean (clusterOf c) ((gGet s c rl).toNat / 16) ((gGet s c rl).toNat % 16) v))) ∧
        exec (.invSw c ra rl) s = .next (ran c s
          (l2Discard (clusterOf c) ((gGet s c rl).toNat / 16) ((gGet s c rl).toNat % 16) v))) ∧
      (∀ v x, lookTags c ((gGet s c rl).toNat / 16) u = (v, some x) →
        exec (.cleanSw c ra rl) s = .next (instrTrap c (core s c).pc x v) ∧
        exec (.cleanInvSw c ra rl) s = .next (instrTrap c (core s c).pc x v) ∧
        exec (.invSw c ra rl) s = .next (instrTrap c (core s c).pc x v))) ∧
    (coreLevel s c ≠ .t → (gGet s c rl).toNat < 65536 → l2State u (clusterOf c) = 0 →
      exec (.cleanSw c ra rl) s = .next (ran c s u) ∧
      exec (.cleanInvSw c ra rl) s = .next (ran c s (l1SetWay .cleanInv (clusterOf c) (gGet s c rl).toNat u)) ∧
      exec (.invSw c ra rl) s = .next (ran c s (l1SetWay .inv (clusterOf c) (gGet s c rl).toNat u))) ∧
    (65536 ≤ (gGet s c rl).toNat →
      exec (.cleanSw c ra rl) s = .next (tookTrap c s { vec := 4, val := (encI 0x1F 8 ra (rl.val * 2 ^ 11)).setWidth 64 }) ∧
      exec (.cleanInvSw c ra rl) s = .next (tookTrap c s { vec := 4, val := (encI 0x1F 9 ra (rl.val * 2 ^ 11)).setWidth 64 }) ∧
      exec (.invSw c ra rl) s = .next (tookTrap c s { vec := 4, val := (encI 0x1F 10 ra (rl.val * 2 ^ 11)).setWidth 64 })) ∧
    (coreLevel s c = .t →
      exec (.inv c ra) s = .next (tookTrap c s { vec := 5, val := (encI 0x1F 3 ra 0).setWidth 64 }) ∧
      exec (.invRange c ra rl) s = .next (tookTrap c s { vec := 5, val := (encI 0x1F 6 ra (rl.val * 2 ^ 11)).setWidth 64 }) ∧
      ((gGet s c rl).toNat < 65536 →
        exec (.cleanSw c ra rl) s = .next (tookTrap c s { vec := 5, val := (encI 0x1F 8 ra (rl.val * 2 ^ 11)).setWidth 64 }) ∧
        exec (.cleanInvSw c ra rl) s =
          .next (tookTrap c s { vec := 5, val := (encI 0x1F 9 ra (rl.val * 2 ^ 11)).setWidth 64 }) ∧
        exec (.invSw c ra rl) s = .next (tookTrap c s { vec := 5, val := (encI 0x1F 10 ra (rl.val * 2 ^ 11)).setWidth 64 }))) ∧
    (∀ p, cacheLine u c .read (gGet s c ra).toNat = .ok (some p) →
      (channelFailed u (p * 128) = false → l2State u (clusterOf c) = 1 →
        (∀ v, lookTags c (l2Set p) u = (v, none) → exec (.prefetch c ra) s = .next (ran c s (l2Access c p 15 15 1 v))) ∧
        (∀ v x, lookTags c (l2Set p) u = (v, some x) →
          exec (.prefetch c ra) s = .next (instrTrap c (core s c).pc x v))) ∧
      (channelFailed u (p * 128) = false → l2State u (clusterOf c) = 0 → exec (.prefetch c ra) s =
        .next (ran c s (l1Load c false (2 * p + (gGet s c ra).toNat / 64 % 2) false u))) ∧
      ((channelFailed u (p * 128) = true ∨ l2State u (clusterOf c) = 2) → exec (.prefetch c ra) s = .next (ran c s u))) ∧
    ((∀ p, cacheLine u c .read (gGet s c ra).toNat ≠ .ok (some p)) → exec (.prefetch c ra) s = .next (ran c s u))

/-- On every core that executes its next instruction with no imprecise exception pending (u is s after the fetch).
LOCKSET at S or M with bits 63:15 of g(rl) 0 sets LOCK_WAYS of the core's cluster to g(rl), leaves every line in its
way, and gives the lines of newly unlocked ways age 3; with any of those bits set it is ILLEGAL_INSTRUCTION at every level (R184).
LOCKFILL at
S or M of an address that translates to a line checks the tags of its set (v is u after that, Table 10-2), takes the
MACHINE_CHECK of a lost one, and otherwise writes to g(rl) 3 when the L2 is not ON, 2 when LOCK_WAYS is 0, 0 when a
locked way already holds the line, and 1 when no locked way of the set is invalid, changing nothing else; otherwise, of
a line that the L2 does not hold: where its channel works 0, and the lowest invalid locked way of the set holds the line
with all four sectors valid; where it does not, MEMORY_NO_RESPONSE. Both are PRIVILEGED at T, LOCKSET with bits 63:15 0. L2_DRAIN_DONE of a
draining cluster leaves the cluster without lines, L2_STATE OFF, L2_ENABLE 0 and LOCK_WAYS 0; of one that is not
draining it changes nothing. -/
def Obligations.WayLockingAndDrain : Prop :=
  ∀ (s u : State) (c : CoreId) (ra rl : Reg) (line : Nat) (k : Fin 16), CoreClear s c → u = fetchTouch c s →
    (coreLevel s c ≠ .t → (gGet s c rl).toNat < 32768 → ∃ t,
      exec (.lockset c ra rl) s = .next (ran c s t) ∧ od t (0x3480 + clusterOf c) 4 = (gGet s c rl).toNat ∧
      t = odSet (0x3480 + clusterOf c) 4 (gGet s c rl).toNat (clusterMod (clusterOf c) (fun x => { x with
        l2 := x.l2.map fun e => if (lockWays u (clusterOf c)).testBit (e.1 % 16) = true ∧
            (gGet s c rl).toNat.testBit (e.1 % 16) = false
          then (e.1, { e.2 with age := 3 }) else e }) u)) ∧
    (32768 ≤ (gGet s c rl).toNat → exec (.lockset c ra rl) s =
      .next (tookTrap c s { vec := 4, val := (encI 0x1F 13 ra (rl.val * 2 ^ 11)).setWidth 64 })) ∧
    (coreLevel s c = .t →
      ((gGet s c rl).toNat < 32768 → exec (.lockset c ra rl) s =
        .next (tookTrap c s { vec := 5, val := (encI 0x1F 13 ra (rl.val * 2 ^ 11)).setWidth 64 })) ∧
      exec (.lockfill c ra rl) s =
        .next (tookTrap c s { vec := 5, val := (encI 0x1F 12 ra (rl.val * 2 ^ 11)).setWidth 64 })) ∧
    (coreLevel s c ≠ .t → cacheLine u c .read (gGet s c ra).toNat = .ok (some line) → ∀ v,
      (∀ x, lookTags c (l2Set line) u = (v, some x) →
        exec (.lockfill c ra rl) s = .next (instrTrap c (core s c).pc x v)) ∧
      (lookTags c (l2Set line) u = (v, none) →
      (l2State v (clusterOf c) ≠ 1 → exec (.lockfill c ra rl) s = .next (ran c s (gSet c rl 3 v))) ∧
      (l2State v (clusterOf c) = 1 → lockWays v (clusterOf c) = 0 →
        exec (.lockfill c ra rl) s = .next (ran c s (gSet c rl 2 v))) ∧
      (l2State v (clusterOf c) = 1 → lockWays v (clusterOf c) ≠ 0 →
        (∀ w, l2Way (cluster v (clusterOf c)) line = some w → (lockWays v (clusterOf c)).testBit w = true →
          exec (.lockfill c ra rl) s = .next (ran c s (gSet c rl 0 v))) ∧
        ((∀ w, l2Way (cluster v (clusterOf c)) line = some w → (lockWays v (clusterOf c)).testBit w = false) →
          (∀ w < 16, (lockWays v (clusterOf c)).testBit w = true →
            (l2At (cluster v (clusterOf c)) (l2Set line) w).isSome = true) →
          exec (.lockfill c ra rl) s = .next (ran c s (gSet c rl 1 v))) ∧
        (∀ w < 16, l2Way (cluster v (clusterOf c)) line = none → (lockWays v (clusterOf c)).testBit w = true →
          l2At (cluster v (clusterOf c)) (l2Set line) w = none →
          (∀ e < w, (lockWays v (clusterOf c)).testBit e = true →
            (l2At (cluster v (clusterOf c)) (l2Set line) e).isSome = true) →
          (channelFailed v (line * 128) = true → exec (.lockfill c ra rl) s =
            .next (instrTrap c (core s c).pc { vec := 13, val := gGet s c ra } v)) ∧
          (channelFailed v (line * 128) = false → exec (.lockfill c ra rl) s = .next (ran c s (gSet c rl 0 (l2Put (clusterOf c) (l2Set line) w
            { line := line, valid := 15, age := 1 } (clusterMod (clusterOf c) (fun x => { x with side := x.side.filter (· ≠ line) })
              ((sectorsIn 15).foldl (fun s i =>
                requestBursts (clusterPort (clusterOf c)) (line * 128 + i * 32) 32 false s) v)))))))))) ∧
    (l2State s k.val = 2 → ∃ t, exec (.l2DrainDone k) s = .next t ∧ cluster t k.val = {} ∧
      l2State t k.val = 0 ∧ od t (0x3480 + k.val) 1 = 0 ∧ lockWays t k.val = 0) ∧
    (l2State s k.val ≠ 2 → exec (.l2DrainDone k) s = .next s)

/-- On every core that executes its next instruction with no imprecise exception pending, in the d or v view and every
element size, with every register field in the view: each of the 20 SVINT instructions writes to vd, lane by lane,
the result of its rule on the lanes of va and vb as they were before (ADD, SUB and MUL modulo 2^w; SS forms clamp to
the signed and US forms to the unsigned range; AVGU rounds up exactly; ABSDU is the unsigned distance; compares give
all ones or zero), completes and changes nothing else; SLLI, SRLI and SRAI with vb 0 and a count below the lane
width shift every lane of va. A register outside the view is ILLEGAL_INSTRUCTION for all, and so are a count at or
above the lane width and a vb other than 0 for a shift. -/
def Obligations.VectorIntegers : Prop :=
  ∀ (s u : State) (c : CoreId) (o : SvOp) (n : Fin 64), CoreClear s c → u = fetchTouch c s →
    (InView o o.vd → InView o o.va → InView o o.vb → ∀ p ∈ svIntTable c o, exec p.1 s =
      .next (ran c s (svWrite c o (List.zipWith (p.2 (8 * 2 ^ o.esz.val)) (svLanes s c o o.va) (svLanes s c o o.vb)) u))) ∧
    (InView o o.vd → InView o o.va → o.vb = 0 → n.val < 8 * 2 ^ o.esz.val →
      exec (.svSlli c o n) s = .next (ran c s (svWrite c o ((svLanes s c o o.va).map
        fun a => a * 2 ^ n.val % 2 ^ (8 * 2 ^ o.esz.val)) u)) ∧
      exec (.svSrli c o n) s = .next (ran c s (svWrite c o ((svLanes s c o o.va).map fun a => a / 2 ^ n.val) u)) ∧
      exec (.svSrai c o n) s = .next (ran c s (svWrite c o ((svLanes s c o o.va).map
        fun a => ofSigned (8 * 2 ^ o.esz.val) (toSigned (8 * 2 ^ o.esz.val) a / 2 ^ n.val)) u))) ∧
    ((¬ InView o o.vd ∨ ¬ InView o o.va ∨ ¬ InView o o.vb) → ∀ p ∈ svIntTable c o,
      ∃ w : BitVec 32, exec p.1 s = .next (tookTrap c s { vec := 4, val := w.setWidth 64 })) ∧
    ((¬ InView o o.vd ∨ ¬ InView o o.va ∨ o.vb ≠ 0 ∨ 8 * 2 ^ o.esz.val ≤ n.val) →
      exec (.svSlli c o n) s = .next (tookTrap c s { vec := 4, val := (svWord 0x31 o (n.val * 4)).setWidth 64 }) ∧
      exec (.svSrli c o n) s = .next (tookTrap c s { vec := 4, val := (svWord 0x31 o (n.val * 4 + 1)).setWidth 64 }) ∧
      exec (.svSrai c o n) s = .next (tookTrap c s { vec := 4, val := (svWord 0x31 o (n.val * 4 + 2)).setWidth 64 }))

/-- On every core that executes its next instruction with no imprecise exception pending, for ESZ W or D and registers
in the view (vb 0 for FSQRT, FABS and FNEG): when none of the union of the flags that the lanes raise has a trap
enabled, each of the 13 SVFP instructions writes to vd, lane by lane, the IEEE result of its rule on the lanes of
va, vb and the old vd in binary32 or binary64 with the rounding of pstat.RM (compares give all ones or zero), sets
the union of the flags in FLAGS and completes. ESZ B or H, a register outside the view, and a vb other than 0 where
it must be 0 are ILLEGAL_INSTRUCTION. -/
def Obligations.VectorFloats : Prop :=
  ∀ (s u : State) (c : CoreId) (o : SvOp), CoreClear s c → u = fetchTouch c s →
    (∀ m, (m = FFmt.b32 ∧ o.esz = 2) ∨ (m = FFmt.b64 ∧ o.esz = 3) → InView o o.vd → InView o o.va → InView o o.vb →
      ∀ p ∈ svFpTable c o, (p.2.1 = true → o.vb = 0) → ∀ rs, rs = List.zipWith
          (fun (ab : Nat × Nat) d => p.2.2 m (dynRound s c) ab.1 ab.2 d)
          ((svLanes s c o o.va).zip (svLanes s c o o.vb)) (svLanes s c o o.vd) →
        NoTrap s c (rs.foldl (fun fl r => fl ||| r.2) 0) → exec p.1 s =
          .next (ran c s (flagged c (rs.foldl (fun fl r => fl ||| r.2) 0) (svWrite c o (rs.map (·.1)) u)))) ∧
    (∀ p ∈ svFpTable c o, (¬ InView o o.vd ∨ ¬ InView o o.va ∨ ¬ InView o o.vb ∨ o.esz = 0 ∨ o.esz = 1 ∨
        (p.2.1 = true ∧ o.vb ≠ 0)) →
      ∃ w : BitVec 32, exec p.1 s = .next (tookTrap c s { vec := 4, val := w.setWidth 64 }))

/-- On every core that executes its next instruction with no imprecise exception pending, in every view and element size
with the register fields in the view and the operand conditions of R207 and Table 09-2 met: MIXLO, MIXHI, SEPEV,
SEPOD, BCAST, REVL, PUTL, FILL and POPC write to vd the lanes their rule gives from the old lanes; SLIDE the bytes
of va:vb from the offset; PICK and PICKK, over a table of 1 to 4 registers, the table byte at the control byte
modulo the table length, and where bit 7 of the control byte is set 0 or the old byte; GETU, GETS, TOPB, RSUM,
RSUMU, RMIN, RMAX, RMINU and RMAXU write the integer their rule gives, modulo 2^64, to g(vd). Nothing else changes.
MIXLO and MIXHI of a view of one lane write a free value, as the rule gives that lane no value (log entry 37). A
register outside the view, or a condition that fails, is ILLEGAL_INSTRUCTION. -/
def Obligations.VectorMoves : Prop :=
  ∀ (s u : State) (c : CoreId) (o : SvOp) (param : Fin 16), CoreClear s c → u = fetchTouch c s →
    (InView o o.vd → ∀ p ∈ svMoveTable c o param (laneCount o.q o.esz) (8 * 2 ^ o.esz.val), p.2.1 →
      (laneCount o.q o.esz = 1 → p.1 ≠ .mixlo c o param ∧ p.1 ≠ .mixhi c o param) →
      exec p.1 s = .next (ran c s (svWrite c o
        (p.2.2 (svLanes s c o o.va) (svLanes s c o o.vb) (svLanes s c o o.vd) (gGet s c o.va).toNat) u))) ∧
    (InView o o.va → ∀ p ∈ svToGTable c o (laneCount o.q o.esz) (8 * 2 ^ o.esz.val), p.2.1 →
      exec p.1 s = .next (ran c s (gSet c o.vd (BitVec.ofInt 64 (p.2.2 (svLanes s c o o.va))) u))) ∧
    (laneCount o.q o.esz = 1 → InView o o.vd → InView o o.va → InView o o.vb →
      ∀ v, v = Config.freeValue u.freeCtr →
      exec (.mixlo c o param) s = .next (ran c s (svWrite c o [v] { u with freeCtr := u.freeCtr + 1 })) ∧
      exec (.mixhi c o param) s = .next (ran c s (svWrite c o [v] { u with freeCtr := u.freeCtr + 1 }))) ∧
    (InView o o.vd → InView o o.va → InView o o.vb →
      (param.val < (if o.q then 16 else 8) → exec (.slide c o param) s = .next (ran c s (viewSet c o.q o.vd
        ((viewGet s c o.q o.va + viewGet s c o.q o.vb * 2 ^ viewBits o.q) / 2 ^ (8 * param.val) % 2 ^ viewBits o.q) u))) ∧
      (o.esz = 0 → param.val < 4 → o.va.val + param.val < (if o.q then 16 else 32) → ∀ table,
        table = pickTable s c o (param.val + 1) →
        exec (.pick c o param) s = .next (ran c s (svWrite c o (List.zipWith (fun x _ =>
          if x < 128 then table.getD (x % table.length) 0 else 0) (svLanes s c o o.vb) (svLanes s c o o.vd)) u)) ∧
        exec (.pickk c o param) s = .next (ran c s (svWrite c o (List.zipWith (fun x d =>
          if x < 128 then table.getD (x % table.length) 0 else d) (svLanes s c o o.vb) (svLanes s c o o.vd)) u)))) ∧
    (∀ p ∈ svMoveTable c o param (laneCount o.q o.esz) (8 * 2 ^ o.esz.val), (¬ InView o o.vd ∨ ¬ p.2.1) →
      ∃ w : BitVec 32, exec p.1 s = .next (tookTrap c s { vec := 4, val := w.setWidth 64 })) ∧
    (∀ p ∈ svToGTable c o (laneCount o.q o.esz) (8 * 2 ^ o.esz.val), (¬ InView o o.va ∨ ¬ p.2.1) →
      ∃ w : BitVec 32, exec p.1 s = .next (tookTrap c s { vec := 4, val := w.setWidth 64 })) ∧
    ((¬ InView o o.vd ∨ ¬ InView o o.va ∨ ¬ InView o o.vb ∨ (if o.q then 16 else 8) ≤ param.val) →
      ∃ w : BitVec 32, exec (.slide c o param) s = .next (tookTrap c s { vec := 4, val := w.setWidth 64 }))

/-- On every core that executes its next instruction with no imprecise exception pending: with the registers rd to rd +
K - 1 in the view and the start, g(ra) + 16 x disp10 modulo 2^64, a multiple of the element size, SVLD whose bytes
load (in at most two pieces, one per page) writes element j of register rd + f from the bytes at memory position j x
K + f, and completes; when a piece raises an exception the lowest vector is taken and no f register has been
written. SVST whose places are all granted first checks the sectors and tags that the store meets in the L2s and takes
the MACHINE_CHECK of one that is lost before any byte is stored; it then stores element j of register rd + f at position
j x K + f and completes; otherwise the lowest vector is taken with nothing stored. A register outside the view is ILLEGAL_INSTRUCTION and a
misaligned start MISALIGNED_ACCESS with the address, for both. -/
def Obligations.VectorMemory : Prop :=
  ∀ (s u : State) (c : CoreId) (rd ra : Reg) (disp : BitVec 10) (k esz : Fin 4) (q : Bool) (a : Nat), CoreClear s c →
    u = fetchTouch c s → a = (gGet s c ra + disp.signExtend 64 * 16).toNat →
    (rd.val + k.val < (if q then 16 else 32) → a % 2 ^ esz.val = 0 →
      (∀ bs v, loadPieces c (pageSplit a ((k.val + 1) * (viewBits q / 8))) u = (bs, none, v) →
        exec (.svld c rd ra disp k esz q) s = .next (ran c s ((List.range (k.val + 1)).foldl (fun s f =>
          viewSet c q (svReg rd f) (ofLanes (8 * 2 ^ esz.val) ((List.range (laneCount q esz)).map fun j =>
            fld bs ((j * (k.val + 1) + f) * 2 ^ esz.val) (2 ^ esz.val))) s) v))) ∧
      (∀ bs x v, loadPieces c (pageSplit a ((k.val + 1) * (viewBits q / 8))) u = (bs, some x, v) →
        exec (.svld c rd ra disp k esz q) s = .next (instrTrap c (core s c).pc x v)) ∧
      (storeTrap u c (pageSplit a ((k.val + 1) * (viewBits q / 8))) = none →
        (∀ x v, storeParity c (pageSplit a ((k.val + 1) * (viewBits q / 8))) u = (v, some x) →
          exec (.svst c rd ra disp k esz q) s = .next (instrTrap c (core s c).pc x v)) ∧
        (∀ v, storeParity c (pageSplit a ((k.val + 1) * (viewBits q / 8))) u = (v, none) →
          (∀ t, storePieces c (svstBytes s c rd k esz q) a (pageSplit a ((k.val + 1) * (viewBits q / 8))) v = .ok t →
            exec (.svst c rd ra disp k esz q) s = .next (ran c s t)) ∧
          (∀ x t, storePieces c (svstBytes s c rd k esz q) a (pageSplit a ((k.val + 1) * (viewBits q / 8))) v = .error (x, t) →
            exec (.svst c rd ra disp k esz q) s = .next (instrTrap c (core s c).pc x t)))) ∧
      (∀ x, storeTrap u c (pageSplit a ((k.val + 1) * (viewBits q / 8))) = some x →
        exec (.svst c rd ra disp k esz q) s = .next (tookTrap c s x))) ∧
    (rd.val + k.val < (if q then 16 else 32) → a % 2 ^ esz.val ≠ 0 →
      exec (.svld c rd ra disp k esz q) s = .next (tookTrap c s { vec := 7, val := BitVec.ofNat 64 a }) ∧
      exec (.svst c rd ra disp k esz q) s = .next (tookTrap c s { vec := 7, val := BitVec.ofNat 64 a })) ∧
    ((if q then 16 else 32) ≤ rd.val + k.val →
      exec (.svld c rd ra disp k esz q) s =
        .next (tookTrap c s { vec := 4, val := (svMemWord 0x34 rd ra disp k esz q).setWidth 64 }) ∧
      exec (.svst c rd ra disp k esz q) s =
        .next (tookTrap c s { vec := 4, val := (svMemWord 0x35 rd ra disp k esz q).setWidth 64 }))

/-- On every core that starts an instruction with no imprecise exception pending, for each of the 26 long-vector
instructions with n = g(rc) and INDEX and OUT as lvi holds them (u is s after the fetch). n above 2^20, a floating-point
op with ESZ B or H, and an UNPACK or PACK width outside 1 to the element's bits are ILLEGAL_INSTRUCTION before any
element. Otherwise, with no flag raised whose trap is enabled, and with no interrupt that can be taken or the end of
INDEX's group of 64 at or beyond n: if INDEX is at or above n nothing is performed and the instruction completes; when
elements INDEX to n - 1 are performed in order the instruction completes with lvi 0 (COMPRESS writes the count of
elements written to g(rc)). When element e is the first with an exception, with no interrupt that can be taken or e
within INDEX's group, the elements before it stand, lvi holds e and the OUT count, and the exception is taken. With an
interrupt that can be taken and the group's end below n, the elements to that end are performed, lvi holds the next
element, and the interrupt is taken (an interrupt becomes due while the instruction executes: log entry 15). The elements
are those of the element operations of the model. -/
def Obligations.LongVectorResults : Prop :=
  ∀ (s u : State) (c : CoreId) (o : LvOp) (row : LvRow) (n index out : Nat), CoreStarts s c → u = fetchTouch c s →
    LvTable c o (dynRound s c) (gGet s c o.rb).toNat row → n = (gGet s c o.rc).toNat →
    index = (core s c).lvi.toNat % 2 ^ 32 → out = (core s c).lvi.toNat / 2 ^ 32 →
    ((2 ^ 20 < n ∨ ¬ row.ok) →
      exec row.i s = .next (tookTrap c s { vec := 4, val := (lvWord row.major o row.op).setWidth 64 })) ∧
    (n ≤ 2 ^ 20 → row.ok → (takesIntr u c = false ∨ n ≤ (index / 64 + 1) * 64) →
      (n ≤ index → exec row.i s = .next (ran c s (row.finish out (lviSet c 0 0 u)))) ∧
      (∀ fl m t, LvRuns c row.elem index n out u fl m t → NoTrap t c fl →
        exec row.i s = .next (ran c s (row.finish m (lviSet c 0 0 t))))) ∧
    (n ≤ 2 ^ 20 → row.ok → ∀ e fl m t x v, LvRuns c row.elem index e out u fl m t → e < n →
      (takesIntr u c = false ∨ e < (index / 64 + 1) * 64) → row.elem e m t = .trap x v → NoTrap v c fl → (core v c).imp = none →
        exec row.i s = .next (instrTrap c (core s c).pc x (lviSet c e m v))) ∧
    (n ≤ 2 ^ 20 → row.ok → takesIntr u c = true → (index / 64 + 1) * 64 < n →
      (∀ fl m t, LvRuns c row.elem index ((index / 64 + 1) * 64) out u fl m t → NoTrap t c fl → (core t c).imp = none →
        exec row.i s = .next (takeIntr c (lviSet c ((index / 64 + 1) * 64) m t))))

/-- On a link that exists, in a mode that reaches functions, for an instance whose page is live there, with 4 bytes of either half
or 8 bytes: SQ_TAIL below ENTRIES of an SQ that exists becomes its TAIL and reads back; CQ_HEAD below ENTRIES of a CQ moves
its head forward to that slot, by less than ENTRIES (log entry 45), releases the error-record slots of the entries
before it, reads back and is mirrored; FAULT_HEAD below the ring's size frees records up to it. A value at or above the
size, an absent queue, a page that is not live, or another width is discarded and counted, and nothing else changes. A
FAULT_RESOLVE of 8 bytes with action 0 or 1 and 0 above, before the fault timeout, that names a parked fault of the
instance: RETRY sets flag FAULT on the task, or lets a landing zone that holds the fault take segments again, FAIL fails
its job with TRANSLATION_FAULT; a fault whose timeout was reported at this moment is counted LATE; an unknown fault,
another action or set reserved bits are counted as an invalid resolution. In other modes, or on a link that does not
exist, a write has no effect. The stores that the host made in its own memory before SQ_TAIL stand in every case. -/
def Obligations.DoorbellWrites : Prop :=
  ∀ (s : State) (link : Link) (i : Inst) (q : Fin 16) (size value : Nat) (stored : List (Nat × List Byte)),
    ((functionsLive s = false ∨ linkExists s link.val = false) →
      exec (.sqTailWrite link i q size value stored) s = .next (hostStores link.val stored s) ∧
      exec (.cqHeadWrite link i q size value) s = .next s ∧ exec (.faultHeadWrite link i size value) s = .next s ∧
      exec (.faultRetry link i size value) s = .next s ∧ exec (.faultFail link i size value) s = .next s) ∧
    (functionsLive s = true → linkExists s link.val = true → (pageLive s link.val i.val = false ∨ (size ≠ 4 ∧ size ≠ 8 ∧ size ≠ 12)) →
      exec (.sqTailWrite link i q size value stored) s = .next (discarded (hostStores link.val stored s)) ∧
      exec (.cqHeadWrite link i q size value) s = .next (discarded s) ∧
      exec (.faultHeadWrite link i size value) s = .next (discarded s) ∧
      exec (.faultRetry link i size value) s = .next (discarded s) ∧
      exec (.faultFail link i size value) s = .next (discarded s)) ∧
    (PageTaken s link.val i.val → (size = 4 ∨ size = 8 ∨ size = 12) →
      (∀ x tail, sqAt s i.val q.val = some x → tail = doorbellValue s i.val (8 * q.val) size value % 65536 →
        (tail < x.entries → ∃ t, exec (.sqTailWrite link i q size value stored) s = .next t ∧
          sqAt t i.val q.val = some { x with tail := tail } ∧ tget 0 (inst t i.val).doorbell (8 * q.val) = tail ∧
          t = keepDoorbell i.val (8 * q.val) tail
            (sqMod i.val q.val (fun y => { y with tail := tail }) (hostStores link.val stored s))) ∧
        (x.entries ≤ tail →
          exec (.sqTailWrite link i q size value stored) s = .next (discarded (hostStores link.val stored s)))) ∧
      (sqAt s i.val q.val = none →
        exec (.sqTailWrite link i q size value stored) s = .next (discarded (hostStores link.val stored s))) ∧
      (∀ x v head, cqAt s i.val q.val = some x → v = doorbellValue s i.val (0x100 + 8 * q.val) size value →
        head = x.head + (v + x.entries - x.head % x.entries) % x.entries →
        (v < x.entries → exec (.cqHeadWrite link i q size value) s = .next (mirror (.queuePos i.val true q.val v)
          (instMod i.val (fun y => { y with erHeld := y.erHeld.filter fun e => !(e.2.1 = q.val && e.2.2 < head) })
            (keepDoorbell i.val (0x100 + 8 * q.val) v (cqMod i.val q.val (fun y => { y with head := head }) s))))) ∧
        (x.entries ≤ v → exec (.cqHeadWrite link i q size value) s = .next (discarded s))) ∧
      (cqAt s i.val q.val = none → exec (.cqHeadWrite link i q size value) s = .next (discarded s)) ∧
      (∀ v entries, v = doorbellValue s i.val 0x200 size value → entries = od s (0x4000 + i.val) 0x22 →
        (v < entries → (inst s i.val).fqWaiting = [] → exec (.faultHeadWrite link i size value) s =
          .next (keepDoorbell i.val 0x200 v (instMod i.val (fun y => { y with
            fqHead := min (y.fqHead + (v + entries - (inst s i.val).fqHead % entries) % entries) y.fqTail }) s))) ∧
        (entries ≤ v → exec (.faultHeadWrite link i size value) s = .next (discarded s)))) ∧
    (PageTaken s link.val i.val →
      (∀ slot t p, parkedTask s i.val (value % 2 ^ 32) = some (slot, t) → t.parked = some p →
        s.time - p.since < od s 0x2300 3 * 1000 * perUs →
        (value % 2 ^ 64 / 2 ^ 32 = 0 → exec (.faultRetry link i 8 value) s =
          .next (setFlags slot flagFault (taskMod slot (fun t => { t with parked := none }) s))) ∧
        (value % 2 ^ 64 / 2 ^ 32 = 1 → exec (.faultFail link i 8 value) s = .next (failJob t.jid 0x0301
          { address := p.fr.address, detail := p.fr.level, detail2 := p.id, reason := p.fr.reason, unit := p.fr.unit
            stage := p.fr.stage } s)) ∧
        (2 ≤ value % 2 ^ 64 / 2 ^ 32 → exec (.faultRetry link i 8 value) s = .next (odBump 0x2302 4 s) ∧
          exec (.faultFail link i 8 value) s = .next (odBump 0x2302 4 s))) ∧
      (∀ z p, parkedTask s i.val (value % 2 ^ 32) = none → parkedZone s i.val (value % 2 ^ 32) = some (z, p) →
        s.time - p.since < od s 0x2300 3 * 1000 * perUs →
        (value % 2 ^ 64 / 2 ^ 32 = 0 → exec (.faultRetry link i 8 value) s =
          .next (zoneMod z.jid z.stage (fun y => { y with parked := none }) s)) ∧
        (value % 2 ^ 64 / 2 ^ 32 = 1 → exec (.faultFail link i 8 value) s = .next (failJob z.jid 0x0301
          { address := p.fr.address, detail := p.fr.level, detail2 := p.id, reason := p.fr.reason, unit := p.fr.unit
            stage := p.fr.stage } s))) ∧
      (parkedTask s i.val (value % 2 ^ 32) = none → parkedZone s i.val (value % 2 ^ 32) = none →
        (∀ x, s.js.lostFaults.find? (fun x => x.1 = value % 2 ^ 32 && x.2.2 = s.time) = some x →
          exec (.faultRetry link i 8 value) s = .next (odBump 0x2302 3 (odBump (0x3100 + x.2.1) 6 s)) ∧
          exec (.faultFail link i 8 value) s = .next (odBump 0x2302 3 (odBump (0x3100 + x.2.1) 6 s))) ∧
        ((∀ x ∈ s.js.lostFaults, ¬ (x.1 = value % 2 ^ 32 ∧ x.2.2 = s.time)) →
          exec (.faultRetry link i 8 value) s = .next (odBump 0x2302 4 s) ∧
          exec (.faultFail link i 8 value) s = .next (odBump 0x2302 4 s))))

/-- On a page that takes a write, a CMD block of 64 bytes with the command's opcode and nothing set outside its fields.
CREATE_CQ with legal values and a free number makes the CQ empty with those values, STATUS 0; EXISTS (4) where the
number is taken. CREATE_SQ likewise, NOT_FOUND (5) where its CQ does not exist. DELETE_SQ removes an SQ without
accepted jobs, finished or not, and without a SUBMIT queue pair bound to it (what becomes of its PENDING jobs is log entry 46),
DELETE_CQ a CQ to which no SQ is bound; otherwise IN_USE (6), and NOT_FOUND for an absent queue. Illegal values, another
opcode or set bytes outside the fields are INVALID (2) and change nothing but CMD, CMD_STATUS and CMD_RESULT. QUERY
answers HEAD, TAIL and STATE of a CQ, and zeros for an absent queue. Each write of CMD_GO that came while the command was
BUSY is discarded and counted in CMD_DISCARDS; on a page that is not live the nine writes of a command, and those, are
counted in DOORBELL_DISCARDS and nothing else changes. What counts as an SQ in use, and that one command stands for the
writes that make it up, are the model's readings (log entries 40, 42 and 46). -/
def Obligations.QueueCommands : Prop :=
  ∀ (s : State) (link : Link) (i : Inst) (cmd : List Byte) (q again : Nat), q = fld cmd 0x15 1 →
    (functionsLive s = true → linkExists s link.val = true → pageLive s link.val i.val = false →
      exec (.createCq link i ⟨cmd, again⟩) s = .next (odAdd 0x2400 3 (9 + again) s)) ∧
    (CmdTaken s link.val i.val 1 cmd cqCmdFields → CqCmdOk cmd →
      (cqAt s i.val q = none → ∃ t, exec (.createCq link i ⟨cmd, again⟩) s = .next t ∧
        cqAt t i.val q = some { base := fld cmd 8 8, entries := fld cmd 0x10 4, loc := locOf (fld cmd 0x14 1)
                                vector := fld cmd 0x16 2, coalCount := fld cmd 0x18 1, coalTime := fld cmd 0x1A 2 } ∧
        (inst t i.val).cmdStatus = 0 ∧ (∀ k, k ≠ q → cqAt t i.val k = cqAt s i.val k) ∧
        (∀ k, sqAt t i.val k = sqAt s i.val k)) ∧
      ((cqAt s i.val q).isSome = true → exec (.createCq link i ⟨cmd, again⟩) s = .next (cmdAnswered i.val cmd again 4 [] s))) ∧
    (CmdTaken s link.val i.val 1 cmd cqCmdFields → ¬ CqCmdOk cmd →
      exec (.createCq link i ⟨cmd, again⟩) s = .next (cmdAnswered i.val cmd again 2 [] s)) ∧
    (CmdTaken s link.val i.val 2 cmd sqCmdFields → SqCmdOk cmd →
      (sqAt s i.val q = none → (cqAt s i.val (fld cmd 0x16 1)).isSome = true → ∃ t,
        exec (.createSq link i ⟨cmd, again⟩) s = .next t ∧
        sqAt t i.val q = some { network := fld cmd 0x17 1 = 1, base := fld cmd 8 8, entries := fld cmd 0x10 4
                                loc := locOf (fld cmd 0x14 1), cq := fld cmd 0x16 1, headAddr := fld cmd 0x18 8
                                slotBytes := fld cmd 0x20 4 } ∧
        (inst t i.val).cmdStatus = 0 ∧ (∀ k, k ≠ q → sqAt t i.val k = sqAt s i.val k) ∧
        (∀ k, cqAt t i.val k = cqAt s i.val k)) ∧
      ((sqAt s i.val q).isSome = true → exec (.createSq link i ⟨cmd, again⟩) s = .next (cmdAnswered i.val cmd again 4 [] s)) ∧
      (sqAt s i.val q = none → cqAt s i.val (fld cmd 0x16 1) = none →
        exec (.createSq link i ⟨cmd, again⟩) s = .next (cmdAnswered i.val cmd again 5 [] s))) ∧
    (CmdTaken s link.val i.val 2 cmd sqCmdFields → ¬ SqCmdOk cmd →
      exec (.createSq link i ⟨cmd, again⟩) s = .next (cmdAnswered i.val cmd again 2 [] s)) ∧
    (CmdTaken s link.val i.val 3 cmd [(0x15, 1)] → q ≤ 15 →
      ((sqAt s i.val q).isSome = true → (∀ j ∈ s.js.jobs, ¬ (j.inst = i.val ∧ j.sq = q ∧ j.gen = instGen s i.val ∧
          j.jstate ≠ .pending)) →
        (∀ e ∈ s.net.qps, ¬ (e.2.inst = i.val ∧ e.2.gen = instGen s i.val ∧ e.2.use = 1 ∧ e.2.sq = q)) → ∃ t,
        exec (.deleteSq link i ⟨cmd, again⟩) s = .next t ∧ (inst t i.val).sqs = tdel (inst s i.val).sqs q ∧
        (inst t i.val).cmdStatus = 0) ∧
      ((∃ j ∈ s.js.jobs, j.inst = i.val ∧ j.sq = q ∧ j.gen = instGen s i.val ∧ j.jstate ≠ .pending) →
        (sqAt s i.val q).isSome = true →
        exec (.deleteSq link i ⟨cmd, again⟩) s = .next (cmdAnswered i.val cmd again 6 [] s)) ∧
      (sqAt s i.val q = none → exec (.deleteSq link i ⟨cmd, again⟩) s = .next (cmdAnswered i.val cmd again 5 [] s))) ∧
    (CmdTaken s link.val i.val 4 cmd [(0x15, 1)] → q ≤ 15 →
      ((cqAt s i.val q).isSome = true → (∀ e ∈ (inst s i.val).sqs, e.2.cq ≠ q) → ∃ t,
        exec (.deleteCq link i ⟨cmd, again⟩) s = .next t ∧ (inst t i.val).cqs = tdel (inst s i.val).cqs q ∧
        (inst t i.val).cmdStatus = 0) ∧
      ((cqAt s i.val q).isSome = true → (∃ e ∈ (inst s i.val).sqs, e.2.cq = q) →
        exec (.deleteCq link i ⟨cmd, again⟩) s = .next (cmdAnswered i.val cmd again 6 [] s)) ∧
      (cqAt s i.val q = none → exec (.deleteCq link i ⟨cmd, again⟩) s = .next (cmdAnswered i.val cmd again 5 [] s))) ∧
    (CmdTaken s link.val i.val 10 cmd [(0x15, 1), (0x16, 1)] → q ≤ 15 → fld cmd 0x16 1 = 1 →
      (∀ x, cqAt s i.val q = some x → exec (.query link i ⟨cmd, again⟩) s = .next (cmdAnswered i.val cmd again 0
        (leBytes 4 (x.head % x.entries) ++ leBytes 4 (x.tail % x.entries) ++
          leBytes 4 (if x.error then 3 else if x.entries ≤ x.tail - x.head then 2 else 1)) s)) ∧
      (cqAt s i.val q = none → exec (.query link i ⟨cmd, again⟩) s =
        .next (cmdAnswered i.val cmd again 0 (leBytes 4 0 ++ leBytes 4 0 ++ leBytes 4 0) s)))

/-- Where admission can take an SQ's next descriptor and it is of the command's kind: the first check of R302 that fails
refuses it with that check's status, unaccepted. A NOP or CANCEL that passes, and a PLAN whose image and parameters
pass step 2, takes the next ASN and a journal entry if the journal, the quota and SPILL_FREE allow, else it waits; a
PLAN that fails step 2 is refused. A descriptor of another kind, or no descriptor, changes nothing.
SPILL_RESERVATION enters a waiting descriptor once there is room, except in HOLD. SQ_HEAD_WRITEBACK moves the head
and writes it back, except in HOLD and for an ABSENT instance. On acceptance a host NOP ends at once with status 0;
a CANCEL of an unfinished accepted job fails that job with CANCELLED and reports length 1, another CANCEL ends
alone. -/
def Obligations.AdmissionCommands : Prop :=
  ∀ (s u : State) (i : Inst) (sq : Fin 16) (q : SubQ) (d : List Byte),
    (NextDesc s i.val sq.val q d u → ∀ c kind, (c = .nop i sq ∧ kind = .nop ∨ c = .cancel i sq ∧ kind = .cancel) →
      (descKind d ≠ kind → exec c s = .next s) ∧
      (descKind d = kind → ∀ r, descBad u i.val q d = some r →
        exec c s = .next (refuseDesc i.val sq.val q.fetch r.status (refuseRec r 0) (dflag d 0) u)) ∧
      (descKind d = kind → descBad u i.val q d = none →
        EntersOrWaits c s u i.val sq.val (checkedDesc u i.val kind d none 0))) ∧
    (NextDesc s i.val sq.val q d u →
      (descKind d ≠ .plan → exec (.plan i sq) s = .next s) ∧
      (descKind d = .plan → ∀ r, descBad u i.val q d = some r →
        exec (.plan i sq) s = .next (refuseDesc i.val sq.val q.fetch r.status (refuseRec r 0) (dflag d 0) u)) ∧
      (descKind d = .plan → descBad u i.val q d = none →
        ∀ head v, placeRead i.val (blockPlace q d 1 3 (fld d 8 8)) 0 128 u = (some head, v) →
        (∀ r, checkHeadLengths d head = some r → exec (.plan i sq) s =
          .next (refuseDesc i.val sq.val q.fetch r.status (refuseRec r (fld head 0x38 8)) (dflag d 0) v)) ∧
        (checkHeadLengths d head = none → ∀ res x, admitPlan i.val head (blockPlace q d 1 3 (fld d 8 8))
            (blockPlace q d 2 4 (fld d 0x18 8)) v = (res, x) →
          (∀ r, res = .error r → exec (.plan i sq) s =
            .next (refuseDesc i.val sq.val q.fetch r.status (refuseRec r (fld head 0x38 8)) (dflag d 0) x)) ∧
          (∀ p spill, res = .ok (p, spill) → ∀ w, w = { checkedDesc u i.val .plan d (some p) spill with kind := .plan } →
            EntersOrWaits (.plan i sq) s x i.val sq.val w)))) ∧
    (sqAt s i.val sq.val = none ∨ admitOpen s i.val = false →
      exec (.nop i sq) s = .next s ∧ exec (.plan i sq) s = .next s ∧ exec (.cancel i sq) s = .next s) ∧
    (∀ w, sqAt s i.val sq.val = some q → q.waiting = some w → s.mode ≠ .hold → admitOpen s i.val = true → q.error = false →
      (mayEnter s i.val w = true → exec (.spillReservation i sq) s = .next (enterJournal i.val sq.val w s)) ∧
      (mayEnter s i.val w = false → exec (.spillReservation i sq) s = .next s)) ∧
    (s.mode ≠ .hold → instSt s i.val ≠ 0 →
      exec (.sqHeadWriteback i sq) s = .next (writeHead i.val sq.val (advanceHead i.val sq.val s))) ∧
    ((s.mode = .hold ∨ instSt s i.val = 0) → exec (.sqHeadWriteback i sq) s = .next s) ∧
    (s.mode = .hold → exec (.spillReservation i sq) s = .next s) ∧
    (∀ j um, jobOf s j.jid = some j → j.kind = .nop → j.network = false →
      (∀ x, sqAt s j.inst j.sq = some x → x.network = false) →
      jobOf (acceptJob j.jid um s) j.jid = some { j with
        jstate := .accepted, unmirrored := um, awaits := none, acceptedAt := s.time, ended := some ⟨0, {}⟩ }) ∧
    (∀ j, (∀ t, jobByAsn s j.inst (fld j.desc 0x30 1) (fld j.desc 0x28 8) = some t → t.jid ≠ j.jid → t.jstate ≠ .pending →
        t.ended = none → ¬ (fld j.desc 0x30 1 = j.sq ∧ j.asn ≤ fld j.desc 0x28 8) →
        cancelActs j s = jobMod j.jid (fun x => { x with ended := some ⟨0, {}⟩, resultLen := 1 }) (failJob t.jid 0x0601 {} s)) ∧
      (jobByAsn s j.inst (fld j.desc 0x30 1) (fld j.desc 0x28 8) = none →
        cancelActs j s = jobMod j.jid (fun x => { x with ended := some ⟨0, {}⟩ }) s))

/-- A RUNNING task whose flags satisfy a WAIT (any or all of the mask) stays RUNNING and loses the masked flags;
otherwise it enters WAITING with the mask, the mode and, for n from 1, the tick TICKS + n at which the wait expires.
DELAY n from 1 makes it DELAYED until tick TICKS + n. CLEAR takes the masked flags from a task. SIGNAL, from a device
unit, a task of instance 0 or a task of the same instance, sets flags; a task that the flags satisfy in WAITING becomes
READY with a new ready sequence and without the flags that satisfied it; flags for which a wait timed out at this moment
are discarded and the unit's LATE counts it; a signal from another instance, or to a slot being released, changes
nothing. Outside HOLD, a wait or delay whose tick has come makes the task READY with a new ready sequence (a wait that
ends so keeps its moment and its mask); before its tick, in HOLD, or without a tick nothing changes. Each of these
changes no other slot. -/
def Obligations.EventFlagOperations : Prop :=
  ∀ (s : State) (slot n : Nat) (t : Task) (mask : BitVec 32) (all : Bool), taskAt s slot = some t →
    (isRunning t = true → n ≤ 16777216 →
      (waitMet t.flags mask all = true → Reaches (.wait slot mask all n) s fun u =>
        TaskBecomes s u slot { t with flags := t.flags &&& ~~~ mask }) ∧
      (waitMet t.flags mask all = false → Reaches (.wait slot mask all n) s fun u =>
        TaskBecomes s u slot { t with run := .waiting, waitMask := mask, waitAll := all, stopping := false, lost := none
                                      wakeAt := if n = 0 then none else some (ticks s + n) }) ∧
      (n ≠ 0 → Reaches (.delay slot n) s fun u =>
        TaskBecomes s u slot { t with run := .delayed, wakeAt := some (ticks s + n), stopping := false })) ∧
    ((isRunning t = false ∨ 16777216 < n) → exec (.wait slot mask all n) s = .next s ∧ exec (.delay slot n) s = .next s) ∧
    (exec (.delay slot 0) s = .next s) ∧
    (Reaches (.clear slot mask) s fun u => TaskBecomes s u slot { t with flags := t.flags &&& ~~~ mask }) ∧
    (∀ sender, (sender = none ∨ ∃ k x, sender = some k ∧ taskAt s k = some x ∧ (x.inst = 0 ∨ x.inst = t.inst)) →
      t.run ≠ .freePending →
      (∀ x, t.lost = some x → x.1 = s.time → mask &&& x.2 ≠ 0 → exec (.signal sender slot mask) s =
        .next (setFlags slot (mask &&& ~~~ x.2) (odBump (0x3100 + t.unit) 6 s))) ∧
      ((∀ x, t.lost = some x → x.1 ≠ s.time ∨ mask &&& x.2 = 0) →
      (t.run = .waiting → waitMet (t.flags ||| mask) t.waitMask t.waitAll = true → Reaches (.signal sender slot mask) s fun u =>
        TaskBecomes s u slot (wokenTask s { t with flags := (t.flags ||| mask) &&& ~~~ t.waitMask })) ∧
      ((t.run ≠ .waiting ∨ waitMet (t.flags ||| mask) t.waitMask t.waitAll = false) → Reaches (.signal sender slot mask) s fun u =>
        TaskBecomes s u slot { t with flags := t.flags ||| mask }))) ∧
    (∀ k x, taskAt s k = some x → x.inst ≠ 0 → x.inst ≠ t.inst → exec (.signal (some k) slot mask) s = .next s) ∧
    (∀ sender, t.run = .freePending → exec (.signal sender slot mask) s = .next s) ∧
    (∀ w, t.wakeAt = some w → s.mode ≠ .hold →
      (t.run = .waiting → w ≤ ticks s → Reaches (.waitTimeout slot) s fun u => TaskBecomes s u slot
        { wokenTask s t with lost := some (s.time, t.waitMask) }) ∧
      (t.run = .delayed → w ≤ ticks s → Reaches (.delayExpiry slot) s fun u => TaskBecomes s u slot (wokenTask s t)) ∧
      ((ticks s < w ∨ t.run ≠ .waiting) → exec (.waitTimeout slot) s = .next s) ∧
      ((ticks s < w ∨ t.run ≠ .delayed) → exec (.delayExpiry slot) s = .next s)) ∧
    ((s.mode = .hold ∨ t.wakeAt = none) → exec (.waitTimeout slot) s = .next s ∧ exec (.delayExpiry slot) s = .next s)

/-- PLACE_PHASE, in a mode that places, places the first waiting phase in placement order that can be placed: it is a
candidate, its stages have the units found free for them, slots and banks suffice; without one only the placements
delayed for lack of slots are counted; in another mode nothing happens. PLACE_URGENT makes a phase that has waited more
than PLACE_URGENT_TICKS reserve its units. A zone's tasks in a state, but for those that gating pre-empted and whose domain is
not powered up again (R460), stand in ready order. ZONE_DISPATCH, where the mode dispatches and the zone is ON and no task
is urgent, walks the READY tasks whose units all have power in that order: the first, if its class power
fits the headroom, becomes RUNNING, without PASS count; otherwise it is passed. A READY task whose PASS count exceeds
BUDGET_URGENT_TICKS becomes urgent and its zone dispatches. A task that reports its stop, a Kiln's at a place where it may
stop (R368, log entry 43), is READY again with its earlier
ready sequence. TICK counts the boundary, in FREEZE runs the governor, and in a mode that dispatches the governor,
pre-emption and dispatch of every zone; each zone's cap follows its temperature. An AVSBus answer is taken, retried up
to three times, or given up. -/
def Obligations.SchedulingCommands : Prop :=
  ∀ (s : State),
    (modePlaces s = false → exec .placePhase s = .next s) ∧
    (modePlaces s = true → ∀ c seats w, firstPlaceable s (placementOrder s) [] [] = (some (c, seats), w) →
      exec .placePhase s = .next (placeAt c seats (w.foldl countSlotWait s)) ∧
      c ∈ candidates s ∧ seatStages s c.img (heldUnits s) (seatOrder c.img c.ph) = some seats ∧
      slotsAllow s c.job seats.length = true ∧ phaseBanks c.img c.ph ≤ (freeBanks s).length) ∧
    (modePlaces s = true → ∀ w, firstPlaceable s (placementOrder s) [] [] = (none, w) →
      exec .placePhase s = .next (w.foldl countSlotWait s)) ∧
    (Reaches .placeUrgent s fun u => ∀ (k m : Nat) j p, s.js.jobs[k]? = some j → j.phases[m]? = some p →
      ∃ j', u.js.jobs[k]? = some j' ∧ j'.jid = j.jid ∧ j'.phases[m]? = some { p with
        urgent := p.urgent || (decide (p.run = .waiting) && decide (p.since + od s 0x3000 3 < ticks s)) }) ∧
    (∀ z r, (zoneTasks s z r).Pairwise (fun a b => b.2.prio < a.2.prio ∨ (a.2.prio = b.2.prio ∧ a.2.readySeq ≤ b.2.readySeq)) ∧
      ∀ e, e ∈ zoneTasks s z r ↔ e ∈ s.js.tasks ∧ e.2.zone = z ∧ e.2.run = r ∧ e.2.gated = false) ∧
    (∀ z e, e ∈ readyTasks s z ↔ e ∈ zoneTasks s z .ready ∧ unitsOn s e.2 = true) ∧
    (∀ z : Fin 16,
      ((modeDispatches s = false ∨ zoneOn s z.val = false) → exec (.zoneDispatch z) s = .next s) ∧
      (modeDispatches s = true → zoneOn s z.val = true → (∀ e ∈ readyTasks s z.val, e.2.urgent = false) →
        (readyTasks s z.val = [] → exec (.zoneDispatch z) s = .next s) ∧
        (∀ slot t rest, readyTasks s z.val = (slot, t) :: rest →
          ((classPower s t : Int) ≤ headroom s z.val → ∃ u, exec (.zoneDispatch z) s = .next (walkReady z.val rest u) ∧
            (taskAt s slot = some t → TaskBecomes s u slot { t with
              run := .running, pass := 0, urgent := false })) ∧
          (headroom s z.val < (classPower s t : Int) → exec (.zoneDispatch z) s =
            .next (walkReady z.val rest { s with gov := { s.gov with passed := true } }))))) ∧
    (∀ slot t, taskAt s slot = some t →
      (t.run = .ready → t.gated = false → od s 0x3000 2 < t.pass → exec (.budgetUrgent slot) s =
        .next (zoneDispatch t.zone (taskMod slot (fun t => { t with urgent := true }) s))) ∧
      ((t.run ≠ .ready ∨ t.gated = true ∨ t.pass ≤ od s 0x3000 2) → exec (.budgetUrgent slot) s = .next s) ∧
      (t.run = .running → t.stopping = true → atStop t = true → CanReportStop s t.unit → Reaches (.taskStopped slot) s fun u =>
        TaskBecomes s u slot { t with run := .ready, stopping := false, readyAt := s.time, pass := 0 }) ∧
      ((t.run ≠ .running ∨ t.stopping = false ∨ atStop t = false) → exec (.taskStopped slot) s = .next s)) ∧
    (∀ mfp, (modeDispatches s = false → s.mode ≠ .freeze → exec (.tick mfp) s = .next (tickCounted mfp s)) ∧
      (s.mode = .freeze → exec (.tick mfp) s = .next (governor (tickCounted mfp s))) ∧
      (modeDispatches s = true → ∃ u, exec (.tick mfp) s = .next ((List.range 16).foldl (fun s z => passZone z s)
        ((List.range 16).foldl (fun s z => budgetPreempt z s) u)) ∧
        ∀ z < 16, tget 65000 u.gov.caps z = nextCap (tickCounted mfp s) z) ∧
      ticks (tickCounted mfp s) = (ticks s + 1) % 2 ^ 64 ∧ (tickCounted mfp s).pins.mfp = mfp.toNat) ∧
    (∀ v, s.gov.request = some v →
      (Reaches (.avsResponse true) s fun u => od u 0x1310 6 = v ∧ u.gov.request = none) ∧
      (s.gov.tries < 3 → Reaches (.avsResponse false) s fun u =>
        u.gov.request = some v ∧ u.gov.tries = s.gov.tries + 1 ∧ u.out = .avs v :: s.out) ∧
      (3 ≤ s.gov.tries → Reaches (.avsResponse false) s fun u => u.gov.request = none ∧ u.out = s.out ∧
        od u 0x1310 6 = od s 0x1310 6)) ∧
    (∀ ok, s.gov.request = none → exec (.avsResponse ok) s = .next s)

/-- Between two tasks whose streams move, with the consumer's port empty, STREAM_TRANSFER hands over the next transfer of
the output port: of a stream that is not NULLABLE the first elements, as many as 64 lanes take and at least one, or the
next 64 bytes of a VARBYTES value with its length before it, which arrives whole with its last byte; of a NULLABLE
stream the validity word of a block of up to 64 elements first, then elements of the block (what is a block is the
model's choice, log entry 16). A consumer that has formed its result keeps none of them but the elements leave; with
the port not empty, or nothing to hand over, or in HOLD, nothing moves.
END_OF_STREAM, once the output has ended and is empty, acknowledges it and ends the consumer's port; otherwise
nothing changes. STAGE_FINISH of a stage that is complete makes its task FREE_PENDING and finished; with the last
stage of its phase the phase is finished, phases that depended on it wait, and with the last phase the job ends with
status 0; an incomplete stage does not finish. UNIT_REPORTS_CLEAR of an engine's task whose phase has finished or
whose job has failed frees its slot; any other slot stays, of a task being released with its Glume banks given back. -/
def Obligations.StageStreams : Prop :=
  ∀ (s : State) (slot port : Nat) (t : Task),
    (∀ p k c e q, Joined s slot port t p k c e q →
      (p.buf ≠ [] → (q.buf = [] ∨ c.eng.done = true) → Reaches (.streamTransfer slot port) s fun u => ∃ t' c',
        taskAt u slot = some t' ∧ t'.outs[port]? = some (handOver (taskImg s t) e p q).out ∧
        taskAt u k = some c' ∧ c'.ins[e.consPort]? = some (if c.eng.done
          then { (handOver (taskImg s t) e p q).into with buf := [] } else (handOver (taskImg s t) e p q).into)) ∧
      (∀ h, h = handOver (taskImg s t) e p q →
        (e.nullable = false → e.ty ≠ tyVar → ∀ n, n = min p.buf.length (max 1 (64 / max 1 (elemWidth (taskImg s t) e.ty e.layout))) →
          h.out = { p with buf := p.buf.drop n, block := p.block - n } ∧ h.into.buf = q.buf ++ p.buf.take n) ∧
        (e.nullable = false → e.ty = tyVar → ∀ b rest, p.buf = some b :: rest → b.length < 2 ^ 32 →
          q.part = (leBytes 4 b.length ++ b).take p.sent →
          (p.sent + 64 < 4 + b.length → h.out = { p with sent := p.sent + 64 } ∧
            h.into = { q with part := (leBytes 4 b.length ++ b).take (p.sent + 64) }) ∧
          (4 + b.length ≤ p.sent + 64 → h.out.buf = rest ∧ h.out.sent = 0 ∧ h.into.buf = q.buf ++ [some b])) ∧
        (e.nullable = true → p.block = 0 → h.out = { p with block := min 64 p.buf.length } ∧
          h.into = { q with valid := (p.buf.take 64).map Option.isSome }) ∧
        (e.nullable = true → e.ty ≠ tyVar → ∀ n, 0 < p.block →
          n = min (min p.block p.buf.length) (max 1 (64 / max 1 (elemWidth (taskImg s t) e.ty e.layout))) →
          q.valid = (p.buf.take p.block).map Option.isSome →
          h.out = { p with buf := p.buf.drop n, block := p.block - n } ∧ h.into.buf = q.buf ++ p.buf.take n)) ∧
      ((p.buf = [] ∨ (q.buf ≠ [] ∧ c.eng.done = false)) → exec (.streamTransfer slot port) s = .next s) ∧
      (p.ended = true → p.acked = false → p.buf = [] → Reaches (.endOfStream slot port) s fun u => ∃ t' c',
        taskAt u slot = some t' ∧ t'.outs[port]? = some { p with acked := true } ∧
        taskAt u k = some c' ∧ c'.ins[e.consPort]? = some { q with ended := true }) ∧
      ((p.ended = false ∨ p.acked = true ∨ p.buf ≠ []) → exec (.endOfStream slot port) s = .next s)) ∧
    (s.mode = .hold → exec (.streamTransfer slot port) s = .next s ∧ exec (.endOfStream slot port) s = .next s ∧
      exec (.stageFinish slot) s = .next s ∧ exec (.unitReportsClear slot) s = .next s) ∧
    (taskAt s slot = some t → s.mode ≠ .hold →
      (stageComplete t = false → exec (.stageFinish slot) s = .next s) ∧
      (stageComplete t = true → Reaches (.stageFinish slot) s fun u =>
        (∃ t', taskAt u slot = some t' ∧ t'.run = .freePending ∧ t'.finished = true) ∧
        (∀ j, jobOf s t.jid = some j →
          ((∃ k x, taskAt s k = some x ∧ k ≠ slot ∧ x.jid = t.jid ∧ x.phase = t.phase ∧ x.finished = false) →
            jobOf u t.jid = some j) ∧
          ((∀ e ∈ s.js.tasks, e.1 ≠ slot → e.2.jid = t.jid → e.2.phase = t.phase → e.2.finished = true) →
            ∀ ps p, j.plan = some p → ps = wakePhases p.image (ticks u) (lmod j.phases t.phase fun p => { p with run := .finished }) →
              jobOf u t.jid = some { j with
                phases := ps
                ended := if (ps.all fun p => p.run = .finished) && j.ended.isNone then some ⟨0, {}⟩ else j.ended }))) ∧
      (releasable s t = true → 0x80 ≤ t.unit → ∃ v, v.js.tasks = tdel s.js.tasks slot ∧
        exec (.unitReportsClear slot) s = .next (settlePrep (settleFreeze t.inst v))) ∧
      (instSt s t.inst ≠ 3 → transition s ≠ 1 →
        (t.run ≠ .freePending → exec (.unitReportsClear slot) s = .next s) ∧
        (t.run = .freePending → releasable s t = false → exec (.unitReportsClear slot) s = .next (returnBanks t s) ∧
          taskAt (returnBanks t s) slot = some t)))

/-- Where completions are written and no refusal waits, COMPLETION_POST takes the job of the SQ's next ASN to post, if
it has ended, is not POSTING and has no RDMA WRITE of its sinks unacknowledged: outside SYNCING and PAIRED its entry goes to the
CQ's next slot, with ASN, result length, error-record offset or 0xFFFFFFFF, status, generation, SQ and phase, the
journal entry is freed, and a write that fails leaves the job; in PAIRED the entry is POSTING until its POST record is
acknowledged; in SYNCING the record is sent too and the entry is written at once (R407); with no room it waits. Where the job has not ended, or completions are not written, nothing changes.
COALESCE_TIMEOUT sends the CQ's vector if entries are unsignalled, or marks it pending where it is masked, and counts from 0. DEADLINE fails an accepted job
that has a deadline and whose instance is not FROZEN with status 0x0402; in HOLD, for a PENDING job or without a
deadline nothing changes. -/
def Obligations.CompletionCommands : Prop :=
  ∀ (s : State) (i : Inst) (sq : Fin 16),
    (postOpen s i.val = false → exec (.completionPost i sq) s = .next s) ∧
    (∀ q, postOpen s i.val = true → (inst s i.val).refusals = [] → sqAt s i.val sq.val = some q →
      ((jobByAsn s i.val sq.val q.postAsn = none ∨ ∃ j, jobByAsn s i.val sq.val q.postAsn = some j ∧ j.ended = none) →
        exec (.completionPost i sq) s = .next s) ∧
      (∀ j e, jobByAsn s i.val sq.val q.postAsn = some j → j.ended = some e → j.jstate ≠ .posting → sinkInFlight s j.jid = true →
        exec (.completionPost i sq) s = .next s) ∧
      (∀ j e, jobByAsn s i.val sq.val q.postAsn = some j → j.ended = some e → j.jstate ≠ .posting → sinkInFlight s j.jid = false →
        (placeCompl s (jobCompl j e) = .error .cq → exec (.completionPost i sq) s = .next s) ∧
        (∀ p, placeCompl s (jobCompl j e) = .ok p →
          (∀ c, cqAt s i.val q.cq = some c → p.cq = q.cq ∧ p.pos = c.tail ∧ c.tail - c.head < c.entries ∧
            p.entry = cqEntry j.asn j.resultLen (match p.er with
              | some (k, _) => 64 * k
              | none => 0xFFFFFFFF) (finalStatus j e).1 j.gen sq.val 0 (1 - c.tail / c.entries % 2)) ∧
          (pairState s ≠ 2 → pairState s ≠ 3 → ∀ v, writePosting i.val p (reserveEr i.val p s) = (false, v) → exec (.completionPost i sq) s = .next v) ∧
          (pairState s ≠ 2 → pairState s ≠ 3 → ∀ v, writePosting i.val p (reserveEr i.val p s) = (true, v) →
            exec (.completionPost i sq) s = .next (retireJob j p v) ∧
            (j.sender = none → ∀ x ∈ (retireJob j p v).js.jobs, x.jid ≠ j.jid)) ∧
          (pairState s = 2 → ∀ x p' v, x = { j with
              jstate := .posting, cqPos := p.pos, erSlot := p.er.map (·.1), awaits := none
              cqSlot := (match cqAt s i.val p.cq with
                | some c => p.pos % c.entries
                | none => 0)
              entry := p.entry ++ leBytes 4 (inst s i.val).erSeq } →
            v = sendItem false (.post (journalEntry x)) (jobMod j.jid (fun _ => x) (reserveEr i.val p s)) →
            p' = heldPosting v x e p.cq →
            (∀ y, writePosting i.val p' v = (false, y) → exec (.completionPost i sq) s = .next y) ∧
            (∀ y, writePosting i.val p' v = (true, y) → exec (.completionPost i sq) s = .next (retireJob x p' y))) ∧
          (pairState s = 3 → Reaches (.completionPost i sq) s fun u => ∀ x, jobOf s j.jid = some x →
            ∃ y, jobOf u j.jid = some y ∧ y.jstate = .posting ∧ y.awaits = some s.tw.nextRec ∧ y.cqPos = p.pos)))) ∧
    (∀ q, cqAt s i.val sq.val = some q →
      (q.unsignalled = 0 → exec (.coalesceTimeout i sq) s = .next s) ∧
      (q.unsignalled ≠ 0 → Reaches (.coalesceTimeout i sq) s fun u =>
        cqAt u i.val sq.val = some { q with unsignalled := 0 } ∧
        (vectorOpen s (instLink s i.val) i.val q.vector = true → u.out = .msix i.val q.vector :: s.out) ∧
        (vectorOpen s (instLink s i.val) i.val q.vector = false → u.out = s.out ∧
          vecKey (instLink s i.val) i.val q.vector ∈ u.cx.pendingVecs))) ∧
    (cqAt s i.val sq.val = none → exec (.coalesceTimeout i sq) s = .next s) ∧
    (∀ asn j, jobByAsn s i.val sq.val asn = some j →
      (s.mode ≠ .hold → j.deadline ≠ 0 → j.jstate ≠ .pending → instSt s i.val ≠ 4 →
        Reaches (.deadline i sq asn) s fun u => JobFails s u j.jid 0x0402 {}) ∧
      ((s.mode = .hold ∨ j.deadline = 0 ∨ j.jstate = .pending ∨ instSt s i.val = 4) → exec (.deadline i sq asn) s = .next s)) ∧
    (∀ asn, jobByAsn s i.val sq.val asn = none → exec (.deadline i sq asn) s = .next s)

/-- A WRITE whose turn comes at once. INVALIDATE of 24 bytes joins the invalidations in order with its instance, start
and length, and is answered OK; an instance above 4,095 is RANGE. ROOT takes 0 or a 4 KiB aligned table in the table
pool while the instance has no accepted job, and everything translated for the instance is invalidated; otherwise
RANGE, or BUSY with jobs. FQ_BASE (64-byte aligned), FQ_ENTRIES (0 or a power of two from 64 to 65,536) and
FQ_LOCATION (0 or 1) start a new, empty queue while the old one is empty and nothing is parked, else BUSY; RANGE
outside the values. Each answer is OK or the status named, and a refusal changes nothing else. -/
def Obligations.TranslationWrites : Prop :=
  ∀ (s : State) (i : Inst) (w : VdpWrite) (value : Nat) (bytes : List Byte),
    (WriteTurn s w 0x2301 1 → bytes.length = 24 →
      (fld bytes 0 2 ≤ 4095 → exec (.invalidate bytes w) s = .next (writeOk w 0x2301 1 bytes
        { s with ms := { s.ms with invals := s.ms.invals ++ [⟨fld bytes 0 2, fld bytes 8 8, fld bytes 16 8⟩] } })) ∧
      (4095 < fld bytes 0 2 → exec (.invalidate bytes w) s = .next (writeNo w 0x2301 1 bytes .range s))) ∧
    (WriteTurn s w (instIdx i.val) 0x20 → value < 2 ^ 64 →
      (value % 4096 = 0 → (value = 0 ∨ (od s 0x2300 1 ≤ value ∧ value + 4096 ≤ od s 0x2300 1 + od s 0x2300 2)) →
        (NoJobs s i.val → exec (.rootWrite i value w) s = .next (attrOk w i.val 0x20 (leBytes 8 value)
          (startInvalidate i.val 0 0 (odSet (instIdx i.val) 0x20 value s)))) ∧
        (¬ NoJobs s i.val → exec (.rootWrite i value w) s = .next (attrNo w i.val 0x20 (leBytes 8 value) .busy s))) ∧
      ((value % 4096 ≠ 0 ∨ (value ≠ 0 ∧ ¬ (od s 0x2300 1 ≤ value ∧ value + 4096 ≤ od s 0x2300 1 + od s 0x2300 2))) →
        exec (.rootWrite i value w) s = .next (attrNo w i.val 0x20 (leBytes 8 value) .range s))) ∧
    (WriteTurn s w (instIdx i.val) 0x21 → value < 2 ^ 64 →
      (value % 64 = 0 → FaultQueueIdle s i.val →
        exec (.fqBase i value w) s = .next (attrOk w i.val 0x21 (leBytes 8 value) (newFaultQueue i.val 0x21 value s))) ∧
      (value % 64 = 0 → ¬ FaultQueueIdle s i.val →
        exec (.fqBase i value w) s = .next (attrNo w i.val 0x21 (leBytes 8 value) .busy s)) ∧
      (value % 64 ≠ 0 → exec (.fqBase i value w) s = .next (attrNo w i.val 0x21 (leBytes 8 value) .range s))) ∧
    (WriteTurn s w (instIdx i.val) 0x22 → value < 2 ^ 32 →
      ((value = 0 ∨ RingSize value 64 65536) → FaultQueueIdle s i.val →
        exec (.fqEntries i value w) s = .next (attrOk w i.val 0x22 (leBytes 4 value) (newFaultQueue i.val 0x22 value s))) ∧
      ((value = 0 ∨ RingSize value 64 65536) → ¬ FaultQueueIdle s i.val →
        exec (.fqEntries i value w) s = .next (attrNo w i.val 0x22 (leBytes 4 value) .busy s)) ∧
      (¬ (value = 0 ∨ RingSize value 64 65536) →
        exec (.fqEntries i value w) s = .next (attrNo w i.val 0x22 (leBytes 4 value) .range s))) ∧
    (WriteTurn s w (instIdx i.val) 0x23 → value < 2 ^ 8 →
      (value ≤ 1 → FaultQueueIdle s i.val →
        exec (.fqLocation i value w) s = .next (attrOk w i.val 0x23 (leBytes 1 value) (newFaultQueue i.val 0x23 value s))) ∧
      (value ≤ 1 → ¬ FaultQueueIdle s i.val →
        exec (.fqLocation i value w) s = .next (attrNo w i.val 0x23 (leBytes 1 value) .busy s)) ∧
      (1 < value → exec (.fqLocation i value w) s = .next (attrNo w i.val 0x23 (leBytes 1 value) .range s)))

/-- A WRITE whose turn comes at once. L2_ENABLE turns an L2 that is OFF on, empty and with no way locked; on an L2 that
is ON it changes nothing. L2_DISABLE makes an L2 that is ON drain: its state becomes DRAINING, its locked ways are given
up and its prefetch buffer is emptied; while DRAINING both are BUSY. PREFETCH_ENABLE stores the value, and 0 empties the
buffer. HOST_WINDOW_BASE and HOST_WINDOW_LENGTH are stored if a multiple of 1 GiB (else RANGE) and no HDM decoder of the
link is committed (else BUSY). MOVE_BACK 1 on a plane that is standby-ready migrates every queue pair of that plane as
primary that is on the other plane, ARMED or in REARM; in another state of the plane BUSY, another value RANGE.
ZONE_POWER, in RUN only (else BUSY): 0 drains a zone that is on or powering up, 1 powers up one that is off and returns
one that is draining to on. -/
def Obligations.UnitWrites : Prop :=
  ∀ (s : State) (k : Fin 16) (l : Link) (p : Fin 2) (w : VdpWrite) (value : Nat) (b len : Bool),
    (WriteTurn s w (0x3480 + k.val) 1 →
      (od s (0x3480 + k.val) 2 = 0 → exec (.l2Enable k w) s = .next (writeOk w (0x3480 + k.val) 1 (leBytes 1 1)
        (clusterMod k.val (fun _ => {}) (odSet (0x3480 + k.val) 1 1 (odSet (0x3480 + k.val) 2 1 (odSet (0x3480 + k.val) 4 0 s)))))) ∧
      (od s (0x3480 + k.val) 2 = 1 → exec (.l2Enable k w) s = .next (writeOk w (0x3480 + k.val) 1 (leBytes 1 1) s) ∧
        exec (.l2Disable k w) s = .next (writeOk w (0x3480 + k.val) 1 (leBytes 1 0)
          (clusterMod k.val (fun c => { c with side := [] }) (odSet (0x3480 + k.val) 2 2 (odSet (0x3480 + k.val) 4 0 s))))) ∧
      (od s (0x3480 + k.val) 2 = 0 → exec (.l2Disable k w) s = .next (writeOk w (0x3480 + k.val) 1 (leBytes 1 0) s)) ∧
      (od s (0x3480 + k.val) 2 = 2 → exec (.l2Enable k w) s = .next (writeNo w (0x3480 + k.val) 1 (leBytes 1 1) .busy s) ∧
        exec (.l2Disable k w) s = .next (writeNo w (0x3480 + k.val) 1 (leBytes 1 0) .busy s))) ∧
    (WriteTurn s w (0x3480 + k.val) 3 → exec (.prefetchEnable k b w) s = .next (writeOk w (0x3480 + k.val) 3 (leBytes 1 b.toNat)
      (if b then odSet (0x3480 + k.val) 3 1 s
       else clusterMod k.val (fun c => { c with side := [] }) (odSet (0x3480 + k.val) 3 0 s)))) ∧
    (WriteTurn s w (0x2410 + l.val) (if len then 4 else 3) → value < 2 ^ 64 →
      (value % 2 ^ 30 = 0 → (∀ n < 8, (tget {} s.cx.hdm (l.val * 8 + n)).committed = false) →
        exec (.hostWindow l len value w) s = .next (writeOk w (0x2410 + l.val) (if len then 4 else 3) (leBytes 8 value)
          (odSet (0x2410 + l.val) (if len then 4 else 3) value s))) ∧
      (value % 2 ^ 30 = 0 → (∃ n < 8, (tget {} s.cx.hdm (l.val * 8 + n)).committed = true) →
        exec (.hostWindow l len value w) s = .next (writeNo w (0x2410 + l.val) (if len then 4 else 3) (leBytes 8 value) .busy s)) ∧
      (value % 2 ^ 30 ≠ 0 →
        exec (.hostWindow l len value w) s = .next (writeNo w (0x2410 + l.val) (if len then 4 else 3) (leBytes 8 value) .range s))) ∧
    (WriteTurn s w (0x2810 + p.val) 6 → value < 256 →
      (value = 1 → planeState s p.val = 3 → exec (.moveBack p value w) s = .next (writeOk w (0x2810 + p.val) 6 (leBytes 1 1)
        (((s.net.qps.filter fun e => e.2.primary = p.val && e.2.plane ≠ p.val && e.2.path ≠ .migrated && !e.2.err).map (·.1)).foldl
          (fun s q => migrate q s) s))) ∧
      (value = 1 → planeState s p.val ≠ 3 →
        exec (.moveBack p value w) s = .next (writeNo w (0x2810 + p.val) 6 (leBytes 1 1) .busy s)) ∧
      (value ≠ 1 → exec (.moveBack p value w) s = .next (writeNo w (0x2810 + p.val) 6 (leBytes 1 value) .range s))) ∧
    (WriteTurn s w (0x1320 + k.val) 1 →
      (s.mode = .run → exec (.zonePowerOff k w) s = .next (writeOk w (0x1320 + k.val) 1 (leBytes 1 0)
          (odSet (0x1320 + k.val) 1 0 (odSet (0x1320 + k.val) 2
            (if od s (0x1320 + k.val) 2 = 0 ∨ od s (0x1320 + k.val) 2 = 3 then 1 else od s (0x1320 + k.val) 2) s))) ∧
        exec (.zonePowerOn k w) s = .next (writeOk w (0x1320 + k.val) 1 (leBytes 1 1)
          (odSet (0x1320 + k.val) 1 1 (odSet (0x1320 + k.val) 2 (if od s (0x1320 + k.val) 2 = 2 then 3
            else if od s (0x1320 + k.val) 2 = 1 then 0 else od s (0x1320 + k.val) 2) s)))) ∧
      (s.mode ≠ .run → exec (.zonePowerOff k w) s = .next (writeNo w (0x1320 + k.val) 1 (leBytes 1 0) .busy s) ∧
        exec (.zonePowerOn k w) s = .next (writeNo w (0x1320 + k.val) 1 (leBytes 1 1) .busy s)))

/-- A CONTROL write of one byte whose turn comes at once. Instance 0 is RANGE for each. RESET of an ABSENT instance is
BUSY; of an ACTIVE, FREEZING or FROZEN one it begins the reset of R321 with CAUSE 3, and one in RESETTING or
DESTROYING joins the reset in progress. FREEZE takes an ACTIVE instance outside mode FREEZE: its freeze begins now,
and STATE becomes FREEZING (3), or FROZEN (4) at once when no task of it holds a slot; else BUSY. RESUME takes a
FROZEN instance outside mode FREEZE: STATE becomes ACTIVE, the time it stood frozen is added to every job's
acceptance time so that DEADLINE counts go on, and its image is given up; else BUSY. LOG_SWITCH_DONE counts
LOG_SWITCHES once for each bitmap that logging has left and whose last marks are stored, except in HOLD. -/
def Obligations.InstanceControlWrites : Prop :=
  ∀ (s : State) (i : Inst) (w : VdpWrite),
    (WriteTurn s w (instIdx i.val) 2 →
      (i.val = 0 →
        exec (.resetWrite i w) s = .next (writeNo w (instIdx i.val) 2 (leBytes 1 1) .range s) ∧
        exec (.freeze i w) s = .next (writeNo w (instIdx i.val) 2 (leBytes 1 2) .range s) ∧
        exec (.resume i w) s = .next (writeNo w (instIdx i.val) 2 (leBytes 1 3) .range s)) ∧
      (i.val ≠ 0 →
        (instSt s i.val = 0 → exec (.resetWrite i w) s = .next (writeNo w (instIdx i.val) 2 (leBytes 1 1) .busy s)) ∧
        (instSt s i.val = 1 ∨ instSt s i.val = 3 ∨ instSt s i.val = 4 → exec (.resetWrite i w) s =
          .next (writeOk w (instIdx i.val) 2 (leBytes 1 1) (beginReset i.val 3 2 s)) ∧ instSt (beginReset i.val 3 2 s) i.val = 2) ∧
        (instSt s i.val = 2 ∨ instSt s i.val = 5 →
          exec (.resetWrite i w) s = .next (writeOk w (instIdx i.val) 2 (leBytes 1 1) s)) ∧
        (s.mode ≠ .freeze → instSt s i.val = 1 → ∃ t,
          exec (.freeze i w) s = .next (writeOk w (instIdx i.val) 2 (leBytes 1 2) t) ∧
          (NoSlot s i.val → instSt t i.val = 4 ∧ (inst t i.val).frozenSince = s.time) ∧
          (¬ NoSlot s i.val → instSt t i.val = 3 ∧ (inst t i.val).freezeStart = s.time ∧
            ∀ k, k ≠ i.val → inst t k = inst s k)) ∧
        (s.mode = .freeze ∨ instSt s i.val ≠ 1 →
          exec (.freeze i w) s = .next (writeNo w (instIdx i.val) 2 (leBytes 1 2) .busy s)) ∧
        (s.mode ≠ .freeze → instSt s i.val = 4 → ∃ t,
          exec (.resume i w) s = .next (writeOk w (instIdx i.val) 2 (leBytes 1 3) t) ∧ instSt t i.val = 1 ∧
          t.js.jobs = s.js.jobs.map (fun j =>
            if j.inst = i.val then { j with acceptedAt := j.acceptedAt + (s.time - (inst s i.val).frozenSince) } else j) ∧
          (inst t i.val).imageOut = [] ∧ (inst t i.val).imageRead = false) ∧
        (s.mode = .freeze ∨ instSt s i.val ≠ 4 →
          exec (.resume i w) s = .next (writeNo w (instIdx i.val) 2 (leBytes 1 3) .busy s)))) ∧
    (s.mode ≠ .hold →
      ((inst s i.val).logDraining ≠ 0 → exec (.logSwitchDone i) s = .next (odSet (instIdx i.val) 0x3D
        ((od s (instIdx i.val) 0x3D + 1) % 2 ^ 64) (instMod i.val (fun i => { i with logDraining := i.logDraining - 1 }) s))) ∧
      ((inst s i.val).logDraining = 0 → exec (.logSwitchDone i) s = .next s)) ∧
    (s.mode = .hold → exec (.logSwitchDone i) s = .next s)

/-- A WRITE whose turn comes at once. RR_HEAD below RR_ENTRIES moves the head forward to that slot, never past the tail,
and held records follow while the ring has room; else RANGE. SPILL_POOL, a multiple of 64 KiB, of an instance that
is not ABSENT changes SPILL_FREE by as much, BUSY below what is reserved; of an ABSENT one it is stored alone.
SPILL_BASE, a multiple of 64 KiB below 2^48, is BUSY while the instance has unfinished jobs. RR_BASE (32-byte aligned,
below 2^48) and
RR_ENTRIES (0 or a power of two from 32 to 4,096, which starts the ring anew) are BUSY unless the ring is empty and
no record is held. LINK 0 to 3 is BUSY while the instance has a queue. LOG_CONTROL 0, 1 or 2 stops logging or
selects a bitmap; leaving a bitmap that was in use makes LOG_SWITCHES due. Values outside are RANGE. -/
def Obligations.InstanceAttributeWrites : Prop :=
  ∀ (s : State) (i : Inst) (w : VdpWrite) (value : Nat) (b : Fin 2),
    (WriteTurn s w (instIdx i.val) 0x1D → value < 2 ^ 32 →
      (value < od s (instIdx i.val) 0x1B → exec (.rrHead i value w) s = .next (attrOk w i.val 0x1D (leBytes 4 value)
        (drainReports i.val (inst s i.val).rrHeld (odSet (instIdx i.val) 0x1D value (instMod i.val (fun x =>
          { x with rrHeadPos := min (x.rrHeadPos + (value + od s (instIdx i.val) 0x1B -
              (inst s i.val).rrHeadPos % od s (instIdx i.val) 0x1B) % od s (instIdx i.val) 0x1B) x.rrTail }) s))))) ∧
      (od s (instIdx i.val) 0x1B ≤ value →
        exec (.rrHead i value w) s = .next (attrNo w i.val 0x1D (leBytes 4 value) .range s))) ∧
    (WriteTurn s w (instIdx i.val) 0x0A → value < 2 ^ 64 →
      (value % 65536 = 0 →
        (instSt s i.val = 0 → exec (.spillPool i value w) s =
          .next (attrOk w i.val 0x0A (leBytes 8 value) (odSet (instIdx i.val) 0x0A value s))) ∧
        (instSt s i.val ≠ 0 → od s (instIdx i.val) 0x0A - od s (instIdx i.val) 0x0B ≤ value →
          exec (.spillPool i value w) s = .next (attrOk w i.val 0x0A (leBytes 8 value) (odSet (instIdx i.val) 0x0B
            (value - (od s (instIdx i.val) 0x0A - od s (instIdx i.val) 0x0B)) (odSet (instIdx i.val) 0x0A value s)))) ∧
        (instSt s i.val ≠ 0 → value < od s (instIdx i.val) 0x0A - od s (instIdx i.val) 0x0B →
          exec (.spillPool i value w) s = .next (attrNo w i.val 0x0A (leBytes 8 value) .busy s))) ∧
      (value % 65536 ≠ 0 → exec (.spillPool i value w) s = .next (attrNo w i.val 0x0A (leBytes 8 value) .range s))) ∧
    (WriteTurn s w (instIdx i.val) 9 → value < 2 ^ 64 →
      (value % 65536 = 0 → value < 2 ^ 48 → NoJobs s i.val →
        exec (.spillBase i value w) s = .next (attrOk w i.val 9 (leBytes 8 value) (odSet (instIdx i.val) 9 value s))) ∧
      (value % 65536 = 0 → value < 2 ^ 48 → ¬ NoJobs s i.val →
        exec (.spillBase i value w) s = .next (attrNo w i.val 9 (leBytes 8 value) .busy s)) ∧
      ((value % 65536 ≠ 0 ∨ 2 ^ 48 ≤ value) → exec (.spillBase i value w) s = .next (attrNo w i.val 9 (leBytes 8 value) .range s))) ∧
    (WriteTurn s w (instIdx i.val) 0x1A → value < 2 ^ 64 →
      (value % 32 = 0 → value < 2 ^ 48 → rrHeldCount s i.val = 0 → (inst s i.val).rrHeadPos = (inst s i.val).rrTail →
        exec (.rrBase i value w) s = .next (attrOk w i.val 0x1A (leBytes 8 value) (odSet (instIdx i.val) 0x1A value s))) ∧
      (value % 32 = 0 → value < 2 ^ 48 → rrHeldCount s i.val ≠ 0 ∨ (inst s i.val).rrHeadPos ≠ (inst s i.val).rrTail →
        exec (.rrBase i value w) s = .next (attrNo w i.val 0x1A (leBytes 8 value) .busy s)) ∧
      ((value % 32 ≠ 0 ∨ 2 ^ 48 ≤ value) → exec (.rrBase i value w) s = .next (attrNo w i.val 0x1A (leBytes 8 value) .range s))) ∧
    (WriteTurn s w (instIdx i.val) 0x1B → value < 2 ^ 32 →
      ((value = 0 ∨ RingSize value 32 4096) → rrHeldCount s i.val = 0 → (inst s i.val).rrHeadPos = (inst s i.val).rrTail →
        exec (.rrEntries i value w) s = .next (attrOk w i.val 0x1B (leBytes 4 value) (odSet (instIdx i.val) 0x1B value
          (odSet (instIdx i.val) 0x1D 0 (instMod i.val (fun x => { x with rrTail := 0, rrHeadPos := 0 }) s))))) ∧
      ((value = 0 ∨ RingSize value 32 4096) → rrHeldCount s i.val ≠ 0 ∨ (inst s i.val).rrHeadPos ≠ (inst s i.val).rrTail →
        exec (.rrEntries i value w) s = .next (attrNo w i.val 0x1B (leBytes 4 value) .busy s)) ∧
      (¬ (value = 0 ∨ RingSize value 32 4096) →
        exec (.rrEntries i value w) s = .next (attrNo w i.val 0x1B (leBytes 4 value) .range s))) ∧
    (WriteTurn s w (instIdx i.val) 0x28 → value < 256 →
      (value ≤ 3 → (inst s i.val).cqs = [] → (inst s i.val).sqs = [] →
        exec (.linkWrite i value w) s = .next (attrOk w i.val 0x28 (leBytes 1 value) (odSet (instIdx i.val) 0x28 value s))) ∧
      (value ≤ 3 → (inst s i.val).cqs ≠ [] ∨ (inst s i.val).sqs ≠ [] →
        exec (.linkWrite i value w) s = .next (attrNo w i.val 0x28 (leBytes 1 value) .busy s)) ∧
      (3 < value → exec (.linkWrite i value w) s = .next (attrNo w i.val 0x28 (leBytes 1 value) .range s))) ∧
    (WriteTurn s w (instIdx i.val) 0x3C →
      (∀ t, t = odSet (instIdx i.val) 0x3C (1 + b.val)
          (if od s (instIdx i.val) 0x3C = 0 ∨ od s (instIdx i.val) 0x3C = 1 + b.val then s
           else instMod i.val (fun x => { x with logDraining := x.logDraining + 1 }) s) →
        exec (.logEnable i b w) s = .next (attrOk w i.val 0x3C (leBytes 1 (1 + b.val)) t) ∧
        exec (.logSwitch i b w) s = .next (attrOk w i.val 0x3C (leBytes 1 (1 + b.val)) t)) ∧
      exec (.logStop i w) s = .next (attrOk w i.val 0x3C (leBytes 1 0) (odSet (instIdx i.val) 0x3C 0
        (if od s (instIdx i.val) 0x3C = 0 then s else instMod i.val (fun x => { x with logDraining := x.logDraining + 1 }) s))))

/-- A WRITE whose turn comes at once. A CLAIM of feature 0 frees its resource (RANGE for resources 14 and 15); one that
the resource permits gives a free resource to feature and holder, changes nothing where they hold it already, and is
CLAIMED where another does; one it does not permit is RANGE. TIMER_START of a timer claimed by an instance starts it
now with its period and mode, TIMER_STOP stops it, else BUSY; its expiry counts EXPIRIES, sets the TIMER flag in
every task of the holder, and a periodic timer starts again in phase. OWNER_KEY is RANGE once the fuse is
programmed, BUSY without VPP_FUSE, RANGE if it does not unwrap, else it is programmed. LOG_CLEAR 1 empties the log,
else RANGE. ORPHAN_CQ_HEAD moves the head of a CQ that the shadow or an older shadow knows, and waiting orphans
follow; else RANGE. -/
def Obligations.ClaimAndTimerWrites : Prop :=
  ∀ (s : State) (r : Fin 18) (k : Fin 6) (w : VdpWrite) (value : List Byte) (n : Nat) (vpp : Bool),
    (WriteTurn s w (0x1280 + r.val) 3 → value.length = 4 →
      (fld value 0 1 = 0 → (r.val ≠ 14 ∧ r.val ≠ 15 → exec (.resourceClaim r value w) s =
          .next (writeOk w (0x1280 + r.val) 3 value (releaseResource r.val s))) ∧
        (r.val = 14 ∨ r.val = 15 → exec (.resourceClaim r value w) s =
          .next (writeNo w (0x1280 + r.val) 3 value .range s))) ∧
      (fld value 0 1 ≠ 0 → ¬ ClaimFits s r.val value →
        exec (.resourceClaim r value w) s = .next (writeNo w (0x1280 + r.val) 3 value .range s)) ∧
      (fld value 0 1 ≠ 0 → ClaimFits s r.val value →
        (od s (0x1280 + r.val) 1 = 0 → exec (.resourceClaim r value w) s = .next (writeOk w (0x1280 + r.val) 3 value
          (takeResource r.val (fld value 0 1) (fld value 2 2) s))) ∧
        (od s (0x1280 + r.val) 1 = fld value 0 1 → od s (0x1280 + r.val) 2 = fld value 2 2 →
          exec (.resourceClaim r value w) s = .next (writeOk w (0x1280 + r.val) 3 value s)) ∧
        (od s (0x1280 + r.val) 1 ≠ 0 → ¬ (od s (0x1280 + r.val) 1 = fld value 0 1 ∧ od s (0x1280 + r.val) 2 = fld value 2 2) →
          exec (.resourceClaim r value w) s = .next (writeNo w (0x1280 + r.val) 3 value .claimed s)))) ∧
    (WriteTurn s w (0x1288 + k.val) 6 →
      (od s (0x1288 + k.val) 1 = 3 →
        exec (.timerStart k w) s = .next (writeOk w (0x1288 + k.val) 6 (leBytes 1 1) { s with vd := { s.vd with
          timers := tset s.vd.timers k.val (s.time, od s (0x1288 + k.val) 4, od s (0x1288 + k.val) 5) } }) ∧
        exec (.timerStop k w) s = .next (writeOk w (0x1288 + k.val) 6 (leBytes 1 0) { s with vd := { s.vd with
          timers := tdel s.vd.timers k.val } })) ∧
      (od s (0x1288 + k.val) 1 ≠ 3 →
        exec (.timerStart k w) s = .next (writeNo w (0x1288 + k.val) 6 (leBytes 1 1) .busy s) ∧
        exec (.timerStop k w) s = .next (writeNo w (0x1288 + k.val) 6 (leBytes 1 0) .busy s))) ∧
    (tfind s.vd.timers k.val = none → exec (.timerExpiry k) s = .next s) ∧
    (∀ start period mode t, tfind s.vd.timers k.val = some (start, period, mode) →
      t = setFlagsWhere (fun x => x.inst = od s (0x1288 + k.val) 2) flagTimer (odBump (0x1288 + k.val) 7 s) →
      (mode = 1 → exec (.timerExpiry k) s = .next { t with vd := { t.vd with
        timers := tset t.vd.timers k.val (start + period * 25, od t (0x1288 + k.val) 4, od t (0x1288 + k.val) 5) } }) ∧
      (mode ≠ 1 → exec (.timerExpiry k) s = .next { t with vd := { t.vd with timers := tdel t.vd.timers k.val } })) ∧
    (WriteTurn s w 0x1130 1 → value.length = 40 → ∀ u, u = setVpp vpp s →
      (s.bt.fuses.ownerWritten = true ∨ nonZero s.bt.fuses.ownerKey = true →
        exec (.ownerKey value vpp w) s = .next (writeNo w 0x1130 1 value .range u)) ∧
      (s.bt.fuses.ownerWritten = false → nonZero s.bt.fuses.ownerKey = false →
        (vpp = false → exec (.ownerKey value vpp w) s = .next (writeNo w 0x1130 1 value .busy u)) ∧
        (vpp = true → keyUnwrap Config.factoryKey value = none →
          exec (.ownerKey value vpp w) s = .next (writeNo w 0x1130 1 value .range u)) ∧
        (∀ key, vpp = true → keyUnwrap Config.factoryKey value = some key →
          exec (.ownerKey value vpp w) s = .next (writeOk w 0x1130 1 value (odSet 0x1140 2 2
            { u with bt := { u.bt with fuses := { u.bt.fuses with ownerKey := key, ownerWritten := true } } }))))) ∧
    (WriteTurn s w 0x5001 2 → n < 256 →
      (n = 1 → exec (.logClear n w) s = .next (writeOk w 0x5001 2 (leBytes 1 1) { s with ras := [] })) ∧
      (n ≠ 1 → exec (.logClear n w) s = .next (writeNo w 0x5001 2 (leBytes 1 n) .range s))) ∧
    (WriteTurn s w 0x2C04 1 → value.length = 8 →
      (∀ sh old, OrphanCq s.tw.shadow value ∨ OrphanCq s.tw.old value →
        (OrphanCq s.tw.shadow value → sh = shadowPos (fld value 0 2) true (fld value 2 1) (fld value 4 4) s.tw.shadow) →
        (¬ OrphanCq s.tw.shadow value → sh = s.tw.shadow) →
        (OrphanCq s.tw.old value → old = shadowPos (fld value 0 2) true (fld value 2 1) (fld value 4 4) s.tw.old) →
        (¬ OrphanCq s.tw.old value → old = s.tw.old) →
        exec (.orphanCqHead value w) s = .next (writeOk w 0x2C04 1 value
          (postOrphans (twMod (fun x => { x with shadow := sh, old := old }) s)))) ∧
      (¬ OrphanCq s.tw.shadow value → ¬ OrphanCq s.tw.old value →
        exec (.orphanCqHead value w) s = .next (writeNo w 0x2C04 1 value .range s)))

/-- CREATE, DESTROY, RESTORE, KEY, RIGHTS, BOOT_KEY_DIGEST, PAIR_POLICY, ORPHAN_NOW, the four TARGET rows and
DEVICE_RESET, their turn coming at once: accepted by the checks of R380, each waits unanswered; not accepted, each
is answered AUTH_FAIL. A waiting write goes to the counter log, or while PAIRED its FLOOR record to the mirror
first. COUNTER_LOG_WRITE stores the counter, raises the floor, and the entry's rules judge the write: a refusal is
answered with its status; KEY and RIGHTS start the image update; any other is answered OK, DEVICE_RESET then
resetting the device. IMAGE_UPDATE_DONE gives the key or rights effect and answers OK. Either does nothing where no
write waits for it, and in HOLD, where every write is refused, answers the waiting one BUSY (R426). CREATE and DESTROY then do what R316 and R317 say. -/
def Obligations.CriticalWrites : Prop :=
  ∀ (s : State) (i : Inst) (p : Fin 16) (w : VdpWrite) (v : Nat) (bytes : List Byte) (vpp : Bool),
    CriticalWrite (.create i w) s s w (instIdx i.val) 1 (leBytes 1 1) false ∧
    CriticalWrite (.destroy i w) s s w (instIdx i.val) 1 (leBytes 1 2) false ∧
    CriticalWrite (.restore i w) s s w (instIdx i.val) 1 (leBytes 1 3) false ∧
    (bytes.length = 40 → CriticalWrite (.keyWrite p bytes w) s s w (0x1140 + p.val) 1 bytes false) ∧
    CriticalWrite (.rightsWrite p v w) s s w (0x1140 + p.val) 3 (leBytes 2 v) false ∧
    (bytes.length = 48 → CriticalWrite (.bootKeyDigest bytes vpp w) s (setVpp vpp s) w 0x1230 1 bytes false) ∧
    CriticalWrite (.pairPolicy v w) s s w 0x2C01 0 (leBytes 1 v) (decide (pairId s ≠ 0)) ∧
    CriticalWrite (.orphanNow w) s s w 0x2C03 3 (leBytes 1 1) false ∧
    CriticalWrite (.targetRun w) s s w 0x1300 1 (leBytes 1 3) false ∧
    CriticalWrite (.targetDrain w) s s w 0x1300 1 (leBytes 1 4) false ∧
    CriticalWrite (.targetDormant w) s s w 0x1300 1 (leBytes 1 5) false ∧
    CriticalWrite (.targetFreeze w) s s w 0x1300 1 (leBytes 1 6) false ∧
    CriticalWrite (.deviceReset v w) s s w 0x1201 1 (leBytes 1 v) false ∧
    (∀ h : Held, h.stage = .counterLog →
      (pairState s ≠ 3 → secure h s = { s with vd := { s.vd with held := some h } }) ∧
      (pairState s = 3 → (secure h s).vd.held = some { h with stage := .mirrorAck s.tw.nextRec } ∧ (secure h s).js = s.js)) ∧
    (∀ h : Held, s.vd.held = some h → h.stage = .counterLog → ∀ r, r = odSet (0x1140 + h.principal) 4
        (max (od s (0x1140 + h.principal) 4) h.counter) (odSet (0x1140 + h.principal) 5 h.counter s) →
      (s.mode = .hold →
        exec .counterLogWrite s = .next (nextRequests (dropHeld (answerRequest h.src h.msg (.error .busy) r)))) ∧
      (s.mode ≠ .hold → h.idx ≠ 0x1210 → ∀ e, entryAt h.idx h.sub = some e →
        (∀ x, applyWrite e h.idx h.sub h.value r = .error x →
          exec .counterLogWrite s = .next (nextRequests (dropHeld (answerRequest h.src h.msg (.error x) r)))) ∧
        (∀ t, applyWrite e h.idx h.sub h.value r = .ok t →
          (0x1140 ≤ h.idx → h.idx ≤ 0x114F → exec .counterLogWrite s = .next (nextRequests (startUpdate h t))) ∧
          (h.idx < 0x1140 ∨ 0x114F < h.idx → h.idx ≠ 0x1201 →
            exec .counterLogWrite s = .next (nextRequests (dropHeld (answerRequest h.src h.msg (.ok []) t)))) ∧
          (h.idx = 0x1201 → exec .counterLogWrite s =
            .next (nextRequests (deviceReset 4 (dropHeld (answerRequest h.src h.msg (.ok []) t)))))))) ∧
    (s.vd.held = none → exec .counterLogWrite s = .next s ∧ exec .imageUpdateDone s = .next s) ∧
    (∀ h : Held, s.vd.held = some h → h.stage = .imageUpdate →
      (s.mode = .hold → exec .imageUpdateDone s =
        .next (nextRequests (dropHeld (answerRequest h.src h.msg (.error .busy) (releaseResource 17 s))))) ∧
      (s.mode ≠ .hold → h.sub = 3 → exec .imageUpdateDone s = .next (nextRequests (dropHeld (answerRequest h.src h.msg (.ok [])
        (releaseResource 17 (writeUpdate (odSet h.idx 3 (leNat h.value) s))))))) ∧
      (s.mode ≠ .hold → h.sub ≠ 3 → exec .imageUpdateDone s = .next (nextRequests (dropHeld (answerRequest h.src h.msg (.ok [])
        (releaseResource 17 (writeUpdate (setKey (h.idx - 0x1140) h.value s)))))))) ∧
    (i.val ≠ 0 → instSt s i.val = 0 → od s (instIdx i.val) 0x1B ≠ 0 → od s (instIdx i.val) 0x2E ≠ 0 →
      ∃ t, createInst i.val s = .ok t ∧ instSt t i.val = 1 ∧
        instGen t i.val = (if instGen s i.val = 0xFFFF then 1 else instGen s i.val + 1) ∧
        (inst t i.val).sqs = [] ∧ (inst t i.val).cqs = [] ∧ od t (instIdx i.val) 0x0B = od s (instIdx i.val) 0x0A) ∧
    (i.val ≠ 0 → instSt s i.val = 1 ∨ instSt s i.val = 3 ∨ instSt s i.val = 4 → ∃ t, destroyInst i.val s = .ok t ∧
      instSt t i.val = 5)

/-- A READ whose turn comes at once, with body INDEX, SUBINDEX and one reserved byte. Where the entry is reached and is
not a DOMAIN, the response is OK with the requester's TXN and FLAGS, and its body is the entry's type code, three
zero bytes, then the value; an entry that is WO has no value bytes. Each answer leaves from VDP_PORT. Where the read is refused, by the rules that
find the entry or with USE_SEGMENTS for a DOMAIN, the response carries that status and a body of the first 4 bytes
alone, with type code 0. -/
def Obligations.ReadAnswers : Prop :=
  ∀ (s : State) (src : VdpSrc) (txn idx sub : Nat) (pair : Bool) (m : List Byte),
    txn < 2 ^ 32 → idx < 2 ^ 16 → sub < 2 ^ 8 →
    m = vdpMsg 1 txn 0 pair.toNat (leBytes 2 idx ++ leBytes 1 sub ++ leBytes 1 0) → RequestTurn s src m →
      (∀ e, reach s m false idx sub = .ok e → e.ty ≠ .domain → ∃ t, exec (.vdpRead src m) s = .next t ∧
        t.out = .vdp src (od s 0x1100 5) pair (vdpMsg 0x81 txn 0 pair.toNat
          (leBytes 1 e.ty.code ++ leBytes 3 0 ++ readEntry s e idx sub)) :: s.out ∧
        (e.acc = .wo → readEntry s e idx sub = [])) ∧
      (∀ x, (reach s m false idx sub = .error x ∨
          ∃ e, reach s m false idx sub = .ok e ∧ e.ty = .domain ∧ x = .useSegments) →
        ∃ t, exec (.vdpRead src m) s = .next t ∧
          t.out = .vdp src (od s 0x1100 5) pair (vdpMsg 0x81 txn x.code pair.toNat (leBytes 4 0)) :: s.out)

/-- A DISCOVER with an empty body whose turn comes at once. Addressed to the device (FLAGS.PAIR clear), the device
answers OK with the requester's TXN and 24 bytes: SERIAL and PAIR_ID of 8 bytes each, then PLCA_ID, MODE, PAIR_STATE
and ROLE of one byte each, then four zero bytes. A device that leads a pair (PAIR_ID not 0, ROLE 1) and received it
over the field network also answers from the pair node, with FLAGS.PAIR set; another sends the one answer. Addressed
to the pair node (FLAGS.PAIR set), the leader sends that body as its one answer, with FLAGS.PAIR set. -/
def Obligations.DiscoverAnswers : Prop :=
  ∀ (s : State) (src : VdpSrc) (txn : Nat) (m body : List Byte), txn < 2 ^ 32 → m = vdpMsg 6 txn 0 0 [] → RequestTurn s src m →
    body = leBytes 8 (serial s) ++ leBytes 8 (pairId s) ++ leBytes 1 (od s 0x1100 1) ++ leBytes 1 s.mode.code ++
      leBytes 1 (pairState s) ++ leBytes 1 (role s) ++ leBytes 4 0 →
      (pairId s ≠ 0 → role s = 1 → srcMailbox src = false → ∃ t b, exec (.discover src m) s = .next t ∧
        t.out = .vdp src (od s 0x1100 5) true (vdpMsg 0x86 txn 0 1 b) :: .vdp src (od s 0x1100 5) false (vdpMsg 0x86 txn 0 0 body) :: s.out ∧ b = body) ∧
      ((pairId s = 0 ∨ role s ≠ 1 ∨ srcMailbox src = true) → ∃ t, exec (.discover src m) s = .next t ∧
        t.out = .vdp src (od s 0x1100 5) false (vdpMsg 0x86 txn 0 0 body) :: s.out) ∧
      (∀ m', m' = vdpMsg 6 txn 0 1 [] → RequestTurn s src m' → pairId s ≠ 0 → role s = 1 → ∃ t, exec (.discover src m') s = .next t ∧
        t.out = .vdp src (od s 0x1100 5) true (vdpMsg 0x86 txn 0 1 body) :: s.out)

/-- Requests whose turn comes at once. A WRITE to an entry that is not critical is judged by the entry's own rules: done
and answered OK, or answered with their status, nothing changed. SEG_INIT of a readable DOMAIN opens a session while
fewer than 16 are open, and answers its number, the object's length and 1,024; with 16 open it is BUSY. SEG_DATA of
an upload below its length answers the session, the offset and at most 1,024 bytes of the object; at or beyond its
length, with bytes of a segment in it, or for a session that is not open, SEGMENT. A segment of a download at its right place, before the last, is
appended. SEG_ABORT and the expiry of SEG_TIMEOUT end an open session and count SESSIONS_ABORTED; without the
session they answer SEGMENT, and do nothing. A cyclic period sends the device frame, and a leader's pair frame with its last content before the loss while
the loss is held (R414), from VDP_PORT, unless CYCLIC_PERIOD is 0 or the dictionary does not answer. -/
def Obligations.SessionsAndFrames : Prop :=
  ∀ (s : State) (src : VdpSrc) (m : List Byte) (w : VdpWrite) (idx sub k off : Nat) (v : List Byte),
    (WriteTurn s w idx sub → idx < 0x6000 → sub < 256 → pairLevel idx sub = false → v.length ≤ 1188 →
      ∀ e, entryAt idx sub = some e → (e.acc = .rw ∨ e.acc = .wo) → e.ty ≠ .domain → lengthFits e v.length = true →
        (∀ t, applyWrite e idx sub v s = .ok t →
          exec (.vdpWrite w.src (writeMsg idx sub v false w)) s = .next (writeOk w idx sub v t)) ∧
        (∀ x, applyWrite e idx sub v s = .error x →
          exec (.vdpWrite w.src (writeMsg idx sub v false w)) s = .next (writeNo w idx sub v x s))) ∧
    (RequestTurn s src m → fld m 3 1 = 3 → malformed m = false → fld (vdpBody m) 0 2 = idx → fld (vdpBody m) 2 1 = sub →
      fld (vdpBody m) 3 1 = 0 → ∀ e, reach s m false idx sub = .ok e → e.ty = .domain →
        (∀ o, s.vd.sessions.length < 16 → objectBytes s idx sub = some o → ∀ n, n = freeSession s →
          exec (.segInit src m) s = .next (answerRequest src m
            (.ok (leBytes 2 n ++ leBytes 2 0 ++ leBytes 4 o.length ++ leBytes 2 1024))
            { s with vd := { s.vd with
              sessions := tset s.vd.sessions n (newUpload s src idx sub o.length), nextSession := (n + 1) % 65536 } })) ∧
        (16 ≤ s.vd.sessions.length → exec (.segInit src m) s = .next (answerRequest src m (.error .busy) s))) ∧
    (RequestTurn s src m → fld m 3 1 = 4 → malformed m = false → pairRefusal s m = none → fld (vdpBody m) 0 2 = k →
      fld (vdpBody m) 4 4 = off →
        (tfind s.vd.sessions k = none → exec (.segData src m) s = .next (answerRequest src m (.error .segment) s)) ∧
        (∀ x, tfind s.vd.sessions k = some x → srcMailbox x.src = srcMailbox src →
          (x.download = false → 8 < (vdpBody m).length ∨ x.total ≤ off → exec (.segData src m) s =
            .next (answerRequest src m (.error .segment) (touched s k x))) ∧
          (x.download = false → ∀ o, objectBytes (touched s k x) x.idx x.sub = some o → off + 1024 < x.total →
            exec (.segData src m) s = .next (answerRequest src m
              (.ok (leBytes 2 k ++ leBytes 2 0 ++ leBytes 4 off ++ slice o off 1024)) (touched s k x))) ∧
          (x.download = true → off = x.bytes.length → 0 < ((vdpBody m).drop 8).length → ((vdpBody m).drop 8).length ≤ 1024 →
            off + ((vdpBody m).drop 8).length < x.total → ∃ t, exec (.segData src m) s = .next (answerRequest src m (.ok []) t) ∧
              tfind t.vd.sessions k = some { x with last := s.time, bytes := x.bytes ++ (vdpBody m).drop 8 } ∧
              t.od = s.od ∧ t.js = s.js))) ∧
    (RequestTurn s src m → fld m 3 1 = 5 → malformed m = false → pairRefusal s m = none → fld (vdpBody m) 0 2 = k →
      (∀ x, tfind s.vd.sessions k = some x → srcMailbox x.src = srcMailbox src →
        exec (.segAbort src m) s = .next (answerRequest src m (.ok []) (odBump 0x1102 5 (endSession k s)))) ∧
      (tfind s.vd.sessions k = none → exec (.segAbort src m) s = .next (answerRequest src m (.error .segment) s))) ∧
    ((tfind s.vd.sessions k).isSome = true → exec (.segTimeout k) s = .next (odBump 0x1102 5 (endSession k s))) ∧
    ((tfind s.vd.sessions k).isSome = false → exec (.segTimeout k) s = .next s) ∧
    ((vdpLive s = false ∨ od s 0x1100 6 = 0) → exec .cyclic s = .next s) ∧
    (vdpLive s = true → od s 0x1100 6 ≠ 0 → (role s ≠ 1 ∨ pairId s = 0) → ∃ t, exec .cyclic s = .next t ∧
      t.out = .cyclic false (od s 0x1100 5) (vdpMsg 0x10 0 0 0 (deviceBody s)) :: s.out ∧
      t.vd.deviceFrame = vdpMsg 0x10 0 0 0 (deviceBody s) ∧ t.vd.cycSeq = (s.vd.cycSeq + 1) % 2 ^ 32) ∧
    (vdpLive s = true → od s 0x1100 6 ≠ 0 → role s = 1 → pairId s ≠ 0 → ∃ t b, exec .cyclic s = .next t ∧
      b = leBytes 8 (serial s) ++ leBytes 4 s.vd.pairSeq ++ t.vd.pairTail ∧
      (∀ x, s.tw.held = some x → t.vd.pairTail = x.2) ∧
      t.out = .cyclic true (od s 0x1100 5) (vdpMsg 0x10 0 0 1 b) :: .cyclic false (od s 0x1100 5) (vdpMsg 0x10 0 0 0 (deviceBody s)) :: s.out ∧
      t.vd.pairSeq = (s.vd.pairSeq + 1) % 2 ^ 32)

/-- Outside HOLD, the fault timeout of a parked task, or of a landing zone that holds a fault, fails its job with 0x0301 and
the fault record's fields, and a memory timeout of an engine's task, of a store of task code or (with EXL clear) of a
load of task code fails the job with 0x0304, the address and the walk entry; a store of the runtime or firmware is a
RAS event alone; a load of the runtime or firmware is an entry by vector 13; a timeout for a task that is gone does
nothing. A core that may hold no task is named by 65,536 and its number, and a zone by 65,536 and its place (log
entries 49 and 53). INVALIDATE_DONE ends the oldest invalidation: no cached translation that it covers is left, every
other stays, INVALIDATIONS counts it. ATS_INVALIDATE is answered on its link. RESET_COMPLETE of an instance being reset
or destroyed with no slot held leaves it ACTIVE or ABSENT, without queues; with a slot held, or in HOLD, nothing
changes. FREEZE_TIMEOUT of a FREEZING instance makes it ACTIVE and counts the abort, and in the preparation of a change to
FREEZE ends that preparation (R450); in HOLD or any other state nothing changes. -/
def Obligations.FaultsAndResetsEnd : Prop :=
  ∀ (s : State) (slot a w : Nat) (st : Bool) (i : Inst) (link : Link),
    (s.mode = .hold → exec (.faultTimeout slot) s = .next s ∧ exec (.memoryTimeout slot a w st) s = .next s ∧
      exec (.resetComplete i) s = .next s ∧ exec (.freezeTimeout i) s = .next s) ∧
    (s.mode ≠ .hold → slot < 65536 → ∀ t, taskAt s slot = some t →
      (∀ p, t.parked = some p → Reaches (.faultTimeout slot) s fun u => JobFails s u t.jid 0x0301
        { address := p.fr.address, detail := p.fr.level, detail2 := p.id, reason := p.fr.reason, unit := p.fr.unit
          stage := p.fr.stage }) ∧
      (t.parked = none → exec (.faultTimeout slot) s = .next s) ∧
      (128 ≤ t.unit → Reaches (.memoryTimeout slot a w st) s fun u => JobFails s u t.jid 0x0304
        { address := a, detail2 := w, unit := t.unit, stage := t.stage }) ∧
      (∀ c : CoreId, c.val = t.unit → (core s c).task = some slot → (core s c).run = .running → t.run = .running → a < 2 ^ 64 →
        coreLevel s c = .t → (st = true ∨ exlOf (core s c).sstat = false) → Reaches (.memoryTimeout slot a w st) s fun u =>
          JobFails s u t.jid 0x0304 { address := a, detail2 := w, unit := t.unit, stage := t.stage })) ∧
    (s.mode ≠ .hold → ∀ c : CoreId, coreLevel s c ≠ .t →
      (slot = 65536 + c.val ∨ (slot < 65536 ∧ ∃ t, taskAt s slot = some t ∧ t.unit = c.val)) →
        exec (.memoryTimeout slot a w true) s = .next (rasEvent 1 0 a 0x0304 0 s) ∧
        exec (.memoryTimeout slot a w false) s = .next (enter c 13 0 (BitVec.ofNat 64 a) (core s c).pc false s)) ∧
    (s.mode ≠ .hold → slot < 65536 → taskAt s slot = none → exec (.faultTimeout slot) s = .next s ∧
      exec (.memoryTimeout slot a w st) s = .next s) ∧
    (s.mode ≠ .hold → ∀ (k : Nat) (z : Zone) (p : Parked), s.net.zones[k]? = some z → z.parked = some p →
      taskAt s (65536 + k) = none → Reaches (.faultTimeout (65536 + k)) s fun u => JobFails s u z.jid 0x0301
        { address := p.fr.address, detail := p.fr.level, detail2 := p.id, reason := p.fr.reason, unit := p.fr.unit
          stage := p.fr.stage }) ∧
    (∀ v rest, s.ms.invals = v :: rest → Reaches .invalidateDone s fun u =>
      u.ms.invals = rest ∧ od u 0x2301 2 = (od s 0x2301 2 + 1) % 2 ^ 64 ∧
      ∀ e, e ∈ u.ms.tlb ↔ e ∈ s.ms.tlb ∧ ¬ (e.ctx = .inst v.inst ∧
        (v.length = 0 ∨ (e.page < v.start + v.length ∧ v.start < e.page + e.leaf.size)))) ∧
    (s.ms.invals = [] → exec .invalidateDone s = .next s) ∧
    (Reaches (.atsInvalidate link a w) s fun u => u = { s with out := .atsDone link.val :: s.out }) ∧
    (s.mode ≠ .hold → (instSt s i.val = 2 ∨ instSt s i.val = 5) → (∀ e ∈ s.js.tasks, e.2.inst ≠ i.val) →
      ∀ v, v = endReset i.val (if instSt s i.val = 5 then 0 else 1) s →
        instSt v i.val = (if instSt s i.val = 5 then 0 else 1) ∧ (inst v i.val).sqs = [] ∧ (inst v i.val).cqs = [] ∧
        (inst v i.val).refusals = [] ∧
        (transition v ≠ 1 → exec (.resetComplete i) s = .next v) ∧
        (transition v = 1 → instSt s i.val = 2 → i.val ≠ 0 → exec (.resetComplete i) s =
          .next (settlePrep (freezeInst i.val { v with pw := { v.pw with froze := v.pw.froze ++ [i.val] } })))) ∧
    (s.mode ≠ .hold → transition s ≠ 1 → ((∃ e ∈ s.js.tasks, e.2.inst = i.val) ∨ (instSt s i.val ≠ 2 ∧ instSt s i.val ≠ 5)) →
      exec (.resetComplete i) s = .next s) ∧
    (s.mode ≠ .hold → instSt s i.val = 3 → transition s ≠ 1 → Reaches (.freezeTimeout i) s fun u =>
      instSt u i.val = 1 ∧ od u (0x4000 + i.val) 0x2C = (od s (0x4000 + i.val) 0x2C + 1) % 2 ^ 64 ∧ u.js = s.js) ∧
    (s.mode ≠ .hold → instSt s i.val = 3 → transition s = 1 → Reaches (.freezeTimeout i) s fun u =>
      instSt u i.val = 1 ∧ transition u = 0 ∧ u.pw.froze = []) ∧
    (s.mode ≠ .hold → instSt s i.val ≠ 3 → exec (.freezeTimeout i) s = .next s)

/-- A channel that answers requests issues the request its scheduler picks, one of those that may be issued with no
other before it by urgency, open-row hit, arrival and port: the request leaves the queue, its burst is issued, SLOW
counts one of urgency 3, and a read's two codewords are checked. A codeword whose poison the read returned is counted
in POISON_READS. ECC leaves a good or a poisoned codeword, counts a corrected one and logs it, and poisons in DRAM an
uncorrectable one unless a write that covers it whole waits; a sector that an L2 holds dirty keeps its good data there. Without a request
that may be issued, or on a FAILED channel, nothing changes. RH_SUBWINDOW shifts every group's counts by one sub-
window, forgets groups without activates, and clears the port counts. RH_PENALTY_END ends a running penalty and
clears the port's bit. SCRUB_READ reads the next codeword when the scheduler picks the patrol read; SCRUB_PERIOD
lets the next pass begin or marks the pass late. -/
def Obligations.DramScheduling : Prop :=
  ∀ (s : State) (c : Fin 12) (lo hi e : Ecc) (p : Fin 16),
    ((chanLive s c.val = false ∨ bids s c.val = []) → exec (.dramRequestIssue c lo hi) s = .next s) ∧
    (∀ b, pickBid (bids s c.val) = some b → b ∈ bids s c.val ∧ ∀ x ∈ bids s c.val,
      ¬ (b.urgency < x.urgency ∨ (x.urgency = b.urgency ∧ ((x.hit = true ∧ b.hit = false) ∨ (x.hit = b.hit ∧
        (x.arrival < b.arrival ∨ (x.arrival = b.arrival ∧ x.port < b.port))))))) ∧
    (∀ b r k ca m, chanLive s c.val = true → pickBid (bids s c.val) = some b → (chanReqs s c.val)[b.place]? = some r →
      channelOf s (r.burst * 64) = some (k, ca, m) → ∃ u v,
        u = issueBurst c.val r.port r.write ca m b.hit
          { s with ms := { s.ms with reqs := tset s.ms.reqs c.val ((chanReqs s c.val).eraseIdx b.place) } } ∧
        v = (if b.urgency = 3 then odBump (0x2060 + r.port) 2 u else u) ∧
        exec (.dramRequestIssue c lo hi) s =
          .next (if r.write then v
            else eccOutcome c.val (ca + 32) (r.poison.testBit 1) hi (eccOutcome c.val ca (r.poison.testBit 0) lo v))) ∧
    (∀ ca pa, physOf s c.val ca = some pa →
      eccOutcome c.val ca true e s = odBump (0x2040 + c.val) 6 s ∧ eccOutcome c.val ca false .ok s = s ∧
      (dramPoison s (pa / 32) = true → eccOutcome c.val ca false e s = s) ∧
      (dramPoison s (pa / 32) = false →
        od (eccOutcome c.val ca false .corrected s) (0x2020 + c.val) 5 = ca ∧
        (eccOutcome c.val ca false .corrected s).ms = s.ms ∧
        (eccOutcome c.val ca false .corrected s).ras.length = min 4096 (s.ras.length + 1) ∧
        od (eccOutcome c.val ca false .uncorrectable s) (0x2020 + c.val) 6 = ca ∧
        ((∀ r ∈ chanReqs s c.val, ¬ (r.burst = pa / 64 ∧ r.cover.testBit (pa / 32 % 2) = true)) →
          (heldDirty s (pa / 32) = none → (eccOutcome c.val ca false .uncorrectable s).ms.poison = (pa / 32) :: s.ms.poison ∧
            (eccOutcome c.val ca false .uncorrectable s).clusters = s.clusters) ∧
          (∀ k way l, heldDirty s (pa / 32) = some (k, way) → l2At (cluster s k) (l2Set (pa / 32 / 4)) way = some l →
            (eccOutcome c.val ca false .uncorrectable s).ms = s.ms ∧
            l2At (cluster (eccOutcome c.val ca false .uncorrectable s) k) (l2Set (pa / 32 / 4)) way = some { l with
              below := l.below.map fun b => if b.1 = pa / 32 % 4 then (b.1, b.2.1, true) else b })) ∧
        ((∃ r ∈ chanReqs s c.val, r.burst = pa / 64 ∧ r.cover.testBit (pa / 32 % 2) = true) →
          (eccOutcome c.val ca false .uncorrectable s).ms = s.ms ∧
          (eccOutcome c.val ca false .uncorrectable s).clusters = s.clusters))) ∧
    (Reaches (.rhSubwindow c) s fun u => (chan u c.val).portActs = [] ∧
      (∀ key l, (key, l) ∈ (chan u c.val).acts ↔ (∃ n ∈ l, n ≠ 0) ∧ ∃ l', (key, l') ∈ (chan s c.val).acts ∧ l = (0 :: l').take 8) ∧
      chan u c.val = { chan s c.val with acts := (chan u c.val).acts, portActs := [] }) ∧
    (∀ pen, tfind (chan s c.val).penalties p.val = some pen →
      (pen.ended = none → Reaches (.rhPenaltyEnd c p) s fun u =>
        tfind (chan u c.val).penalties p.val = some { pen with ended := some (pen.start + pen.length * perMs) } ∧
        od u (0x2020 + c.val) 4 = setBits (od s (0x2020 + c.val) 4) p.val p.val 0) ∧
      (pen.ended.isSome = true → exec (.rhPenaltyEnd c p) s = .next s)) ∧
    (tfind (chan s c.val).penalties p.val = none → exec (.rhPenaltyEnd c p) s = .next s) ∧
    ((od s 0x2000 0xA = 0 ∨ chanLive s c.val = false ∨ chanState s c.val = 2 ∨ (chan s c.val).scrubDone = true) →
      exec (.scrubRead c e) s = .next s) ∧
    (∀ pa b x k a m, od s 0x2000 0xA ≠ 0 → chanLive s c.val = true → chanState s c.val ≠ 2 → (chan s c.val).scrubDone = false →
      physOf s c.val ((chan s c.val).scrubAt * 32) = some pa → scrubBid s c.val pa = some b →
      pickBid (bids s c.val ++ [b]) = some x → channelOf s pa = some (k, a, m) →
      (x = b → exec (.scrubRead c e) s = .next (advanceScrub c.val (eccOutcome c.val ((chan s c.val).scrubAt * 32) (s.ms.poison.contains (pa / 32)) e
        (issueBurst c.val 14 false ((chan s c.val).scrubAt * 32) m b.hit s)))) ∧
      (x ≠ b → exec (.scrubRead c e) s = .next s)) ∧
    ((chan s c.val).scrubAt + 1 < channelCodewords s →
      chan (advanceScrub c.val s) c.val = { chan s c.val with scrubAt := (chan s c.val).scrubAt + 1 }) ∧
    (channelCodewords s ≤ (chan s c.val).scrubAt + 1 → chan (advanceScrub c.val s) c.val =
      { chan s c.val with scrubAt := 0, scrubDone := !(chan s c.val).scrubLate, scrubLate := false }) ∧
    (Reaches (.scrubPeriod c) s fun u => chan u c.val = (if (chan s c.val).scrubDone
      then { chan s c.val with scrubDone := false } else { chan s c.val with scrubLate := true }))

/-- A due refresh of a live channel out of self-refresh is postponed and counted while a request of urgency 3 waits and
it was postponed fewer than four times; otherwise BAND takes the band asked for, the count of postponements is 0,
and the rows of the banks it takes are closed: all of them, or with same-bank refresh those of one bank in every
group. Otherwise nothing changes. A poll with every sensor read and none failing stores the highest reading and the
band it asks for; above 95 °C the device has a fatal error; a third failed read in a row sets band 3 and
SENSOR_FAIL; without power nothing changes. ALERT_N counts each replay; a fault that persists makes the channel
FAILED, drops its requests and is fatal. PD_IDLE and, during the DORMANT change, SELF_REFRESH_ENTRY move a live
channel without requests, with its rows closed, to power-down and self-refresh; otherwise nothing changes. -/
def Obligations.DramUpkeep : Prop :=
  ∀ (s : State) (c : Fin 12),
    ((chanLive s c.val = false ∨ chanState s c.val = 2) → exec (.refresh c) s = .next s) ∧
    (chanLive s c.val = true → chanState s c.val ≠ 2 →
      ((∃ r ∈ chanReqs s c.val, urgency s r = 3) → (chan s c.val).postponed < 4 → Reaches (.refresh c) s fun u =>
        chan u c.val = { chan s c.val with postponed := (chan s c.val).postponed + 1 } ∧
        od u (0x2040 + c.val) 9 = (od s (0x2040 + c.val) 9 + 1) % 2 ^ 64) ∧
      (((∀ r ∈ chanReqs s c.val, urgency s r ≠ 3) ∨ 4 ≤ (chan s c.val).postponed) → Reaches (.refresh c) s fun u =>
        od u (0x2020 + c.val) 3 = (chan s c.val).band ∧ (chan u c.val).postponed = 0 ∧
        (od s 0x2000 6 ≠ 1 → (chan u c.val).openRows = []) ∧
        (od s 0x2000 6 = 1 → ∀ x, x ∈ (chan u c.val).openRows ↔
          x ∈ (chan s c.val).openRows ∧ x.1 / 8 % 4 ≠ (chan s c.val).nextBank))) ∧
    (∀ rs, (s.mode = .off ∨ s.mode = .fuseLoad) → exec (.channelTempPoll c rs) s = .next s) ∧
    (∀ t, s.mode ≠ .off → s.mode ≠ .fuseLoad → (chan s c.val).failed = [] → chanState s c.val ≠ 4 →
      Reaches (.channelTempPoll c [some t]) s fun u =>
        od u (0x2020 + c.val) 2 = min t 255 ∧ (chan u c.val).band = bandOf (chan s c.val).band t ∧
        (95 < t → s.pw.fatal = none → s.mode ≠ .hold → u.pw.fatal = some 5) ∧ (t ≤ 95 → u.pw = s.pw)) ∧
    (s.mode ≠ .off → s.mode ≠ .fuseLoad → tfind (chan s c.val).failed 0 = some 2 → chanState s c.val ≤ 1 →
      Reaches (.channelTempPoll c [none]) s fun u => chanState u c.val = 4 ∧ (chan u c.val).band = 3 ∧ u.pw = s.pw) ∧
    (∀ n b, chanLive s c.val = false → exec (.alertN c n b) s = .next s) ∧
    (∀ n, chanLive s c.val = true → Reaches (.alertN c n false) s fun u =>
      u = odAdd (0x2040 + c.val) 0xA n.val s) ∧
    (∀ n, chanLive s c.val = true → s.pw.fatal = none → s.mode ≠ .hold → Reaches (.alertN c n true) s fun u =>
      chanState u c.val = 3 ∧ u.ms.reqs = tdel s.ms.reqs c.val ∧ u.pw.fatal = some 2 ∧
      od u (0x2040 + c.val) 0xA = (od s (0x2040 + c.val) 0xA + 3) % 2 ^ 64) ∧
    (od s 0x2000 0xB ≠ 0 → chanLive s c.val = true → (chanState s c.val = 0 ∨ chanState s c.val = 4) → chanReqs s c.val = [] →
      Reaches (.pdIdle c) s fun u => chanState u c.val = 1 ∧ (chan u c.val).openRows = []) ∧
    ((od s 0x2000 0xB = 0 ∨ chanLive s c.val = false ∨ (chanState s c.val ≠ 0 ∧ chanState s c.val ≠ 4) ∨
        chanReqs s c.val ≠ []) → exec (.pdIdle c) s = .next s) ∧
    (dormantChange s = true → chanLive s c.val = true → chanState s c.val ≠ 2 → chanReqs s c.val = [] →
      Reaches (.selfRefreshEntry c) s fun u => chanState u c.val = 2 ∧ (chan u c.val).openRows = [] ∧
        c.val ∈ u.pw.selfRefreshed) ∧
    ((dormantChange s = false ∨ chanLive s c.val = false ∨ chanState s c.val = 2 ∨ chanReqs s c.val ≠ []) →
      exec (.selfRefreshEntry c) s = .next s)

/-- Where CXL.mem is served, a read that a decoder maps to a channel that works answers the 64 bytes there, with poison
if a codeword is poisoned; in HOLD it answers with poison. A write there changes exactly the bytes enabled; in HOLD
none. HDM_COMMIT of a decoder of the link commits it if its interleave fits and its device range lies in the link's
window clear of the pool, else it shows the error; a committed decoder keeps its range; uncommit clears both. A
committed decoder maps its own share of its range. FLR of VF n resets instance n with CAUSE 1; PF0_FLR on MANAGER_LINK
resets the queues of instance 0 with CAUSE 1; a hot reset resets the instances of its link with CAUSE 2. PERST_N
asserted takes the link down, deasserted it trains; a trained link has its width. A configuration request is answered
with Retry Status until the configuration is loaded; then registers, MSI-X vectors and IDE keys read and take their
values, and doorbell pages read. A reset of a function gives its registers their defaults. An IDE failure makes the link
insecure, is counted, and outside HOLD fails the jobs of the reads it left unanswered. Elsewhere each changes nothing. -/
def Obligations.CxlLinkCommands : Prop :=
  ∀ (s : State) (link : Link) (i : Inst) (n : Fin 8) (hpa size dpa ways gran place a : Nat) (data : List (Option Byte)),
    ((memServed s = false ∨ linkExists s link.val = false) → exec (.cxlMemRead link hpa) s = .next s ∧
      exec (.cxlMemWrite link hpa data) s = .next s ∧ exec (.ideFailure link []) s = .next s) ∧
    (functionsLive s = true → linkExists s link.val = true → a = hpa / 64 * 64 →
      ∀ pa, hdmTranslate s link.val a = some pa →
        (channelFailed s pa = true → exec (.cxlMemRead link hpa) s = .next s ∧ exec (.cxlMemWrite link hpa data) s = .next s) ∧
        (channelFailed s pa = false →
          (Reaches (.cxlMemRead link hpa) s fun u =>
            u.out = .memData link.val (physTake s pa 64) (poisoned s pa 64) :: s.out ∧ u.ms.dram = s.ms.dram) ∧
          (memWf s.ms.dram = true → Reaches (.cxlMemWrite link hpa data) s fun u => ∀ x, memGet u.ms.dram x =
            if pa ≤ x ∧ x < pa + 64 then (data[x - pa]?.join).getD (memGet s.ms.dram x) else memGet s.ms.dram x))) ∧
    (s.mode = .hold → linkExists s link.val = true →
      (Reaches (.cxlMemRead link hpa) s fun u => ∃ b, u.out = .memData link.val b true :: s.out ∧ b.length = 64) ∧
      (Reaches (.cxlMemWrite link hpa data) s fun u => u = { s with out := .memDone link.val :: s.out })) ∧
    (linkExists s link.val = true → n.val < decoderCount s link.val → ∀ old d, old = tget {} s.cx.hdm (link.val * 8 + n.val) →
      d = { hpa := hpa, size := size, dpa := dpa, ways := ways, gran := gran, place := place } →
      (old.committed = false → interleaveFits d = true → hdmAllowed s link.val d = true →
        Reaches (.hdmCommit link n true hpa size dpa ways gran place) s fun u =>
          tfind u.cx.hdm (link.val * 8 + n.val) = some { d with committed := true }) ∧
      (old.committed = false → (interleaveFits d = false ∨ hdmAllowed s link.val d = false) →
        Reaches (.hdmCommit link n true hpa size dpa ways gran place) s fun u =>
          tfind u.cx.hdm (link.val * 8 + n.val) = some { d with failed := true }) ∧
      (old.committed = true → exec (.hdmCommit link n true hpa size dpa ways gran place) s = .next s) ∧
      (Reaches (.hdmCommit link n false hpa size dpa ways gran place) s fun u =>
        tfind u.cx.hdm (link.val * 8 + n.val) = some { old with committed := false, failed := false })) ∧
    (∀ d k pa, hdmMaps d k = some pa ↔ d.committed = true ∧ d.hpa ≤ k ∧ k < d.hpa + d.size ∧
      (k - d.hpa) / d.gran % d.ways = d.place ∧ pa = d.dpa + (k - d.hpa) / (d.gran * d.ways) * d.gran + (k - d.hpa) % d.gran) ∧
    (functionsLive s = true →
      (i.val ≠ 0 → instSt s i.val = 1 ∨ instSt s i.val = 3 ∨ instSt s i.val = 4 →
        ∀ v, v = clearFunctions (fun f => f = 4096 * instLink s i.val + i.val) s →
        exec (.flr i) s = .next (beginReset i.val 1 2 v) ∧ instSt (beginReset i.val 1 2 v) i.val = 2) ∧
      (i.val = 0 → exec (.flr i) s = .next s) ∧
      (i.val ≠ 0 → instSt s i.val = 0 ∨ instSt s i.val = 2 ∨ instSt s i.val = 5 → exec (.flr i) s =
        .next (clearFunctions (fun f => f = 4096 * instLink s i.val + i.val) s)) ∧
      (∀ r, cfgValue (clearFunctions (fun f => f = 4096 * instLink s i.val + i.val) s) (instLink s i.val) i.val r = cfgDefault r) ∧
      (link.val = od s 0x2400 2 → exec (.pf0Flr link) s = .next (resetQueues 0 1 s) ∧
        (inst (resetQueues 0 1 s) 0).sqs = [] ∧ (inst (resetQueues 0 1 s) 0).cqs = []) ∧
      (link.val ≠ od s 0x2400 2 → exec (.pf0Flr link) s = .next s) ∧
      (linkExists s link.val = true → ∀ v, v = clearFunctions (fun f => f / 4096 = link.val) s →
        exec (.hotReset link) s = .next ((linkInsts v link.val).foldl (fun s n => resetInst n 2 s) v))) ∧
    (functionsLive s = false → exec (.flr i) s = .next s ∧ exec (.pf0Flr link) s = .next s ∧ exec (.hotReset link) s = .next s) ∧
    (s.mode ≠ .off → s.mode ≠ .fuseLoad → linkExists s link.val = true →
      (functionsLive s = false → Reaches (.perstN link true) s fun u =>
        od u (0x2410 + link.val) 1 = 0 ∧ od u (0x2410 + link.val) 2 = 0 ∧ link.val ∈ u.cx.perst) ∧
      (functionsLive s = true → Reaches (.perstN link true) s fun u => ∃ v, u = resetLink link.val v ∧
        od v (0x2410 + link.val) 1 = 0 ∧ od v (0x2410 + link.val) 2 = 0 ∧ link.val ∈ v.cx.perst ∧ v.js = s.js) ∧
      (link.val ∈ s.cx.perst → Reaches (.perstN link false) s fun u =>
        od u (0x2410 + link.val) 1 = 1 ∧ link.val ∉ u.cx.perst) ∧
      (link.val ∉ s.cx.perst → od s (0x2410 + link.val) 1 ≤ 1 → ∀ fast, Reaches (.cxlLinkTrained link fast) s fun u =>
        od u (0x2410 + link.val) 1 = (if fast then 2 else 3) ∧
        od u (0x2410 + link.val) 2 = (if portSplit s link.val then 8 else 16)) ∧
      ((link.val ∈ s.cx.perst ∨ 1 < od s (0x2410 + link.val) 1) → ∀ fast, exec (.cxlLinkTrained link fast) s = .next s)) ∧
    (s.mode ≠ .off → linkExists s link.val = true →
      (∀ x, s.mode = .fuseLoad ∨ s.mode = .configLoad → exec (.configurationRequest link ⟨i, x⟩) s = .next
        (if configAccess x then { s with out := .config link.val i.val true 0 :: s.out } else s)) ∧
      (s.mode ≠ .fuseLoad → s.mode ≠ .configLoad →
        (∀ r, exec (.configurationRequest link ⟨i, .cfgRead r⟩) s =
          .next { s with out := .config link.val i.val false (cfgValue s link.val i.val r) :: s.out }) ∧
        (∀ r v, Reaches (.configurationRequest link ⟨i, .cfgWrite r v⟩) s fun u => cfgValue u link.val i.val r = v) ∧
        (∀ o, exec (.configurationRequest link ⟨i, .pageRead o⟩) s =
          .next { s with out := .ioData link.val i.val (pageRead s link.val i.val o) :: s.out }) ∧
        (∀ v ad dt mk, Reaches (.configurationRequest link ⟨i, .vectorWrite v ad dt mk⟩) s fun u =>
          tget {} u.cx.vectors (vecKey link.val i.val v.val) = ⟨ad, dt, mk⟩) ∧
        (∀ v, exec (.configurationRequest link ⟨i, .pendingRead v⟩) s = .next
          { s with out := .ioData link.val i.val (if vecKey link.val i.val v.val ∈ s.cx.pendingVecs then 1 else 0) :: s.out }) ∧
        (∀ key, Reaches (.configurationRequest link ⟨i, .keyProgram key⟩) s fun u => tfind u.cx.ideKeys link.val = some key) ∧
        ((tfind s.cx.ideKeys link.val).isSome = true → Reaches (.configurationRequest link ⟨i, .keyGo⟩) s fun u =>
          link.val ∈ u.cx.secure ∧ link.val ∉ u.cx.insecure) ∧
        (tfind s.cx.ideKeys link.val = none → exec (.configurationRequest link ⟨i, .keyGo⟩) s = .next s) ∧
        (Reaches (.configurationRequest link ⟨i, .keyStop⟩) s fun u => link.val ∉ u.cx.secure))) ∧
    (memServed s = true → linkExists s link.val = true →
      (Reaches (.ideFailure link []) s fun u => link.val ∈ u.cx.insecure ∧
        od u 0x2400 6 = (od s 0x2400 6 + 1) % 2 ^ 64 ∧ u.js = s.js) ∧
      (∀ slot t, s.mode ≠ .hold → taskAt s slot = some t → Reaches (.ideFailure link [(slot, a)]) s fun u =>
        link.val ∈ u.cx.insecure ∧ link.val ∉ u.cx.secure ∧ JobFails s u t.jid 0x0304 { address := a, unit := t.unit, stage := t.stage }))

/-- Commands of a live page with legal values complete with CMD_STATUS 0 and their effect (R310, Table 14-5): CREATE_CQ and
CREATE_SQ of an absent queue make it; DELETE_SQ and DELETE_CQ of one not in use remove it; QUERY changes no queue;
CREATE_QP makes the queue pair of the lowest free index with no connection and answers index and QPN; CONNECT_QP of an
unconnected one on a fit plane sets the connection and enters the classifier; DESTROY_QP of one that no stage uses
removes it, its classifier entries and its messages; REGISTER_REGION takes the lowest free index with a new tag and
answers the key; DEREGISTER_REGION removes the region the key names. A live mailbox answers each command of Table 14-7
as CXL 3.1 has it (R311): events, timestamps, logs, capacity, health, VDP_REQUEST to the dictionary, VDP_CYCLIC with the
device frame, and another opcode with Unsupported. The QPN and the answers' layouts are the model's choice (log entries
26 and 28). -/
def Obligations.HostCommandsComplete : Prop :=
  ∀ (s : State) (link : Link) (i : Inst) (cmd : List Byte) (q again : Nat), q = fld cmd 0x15 1 →
    (CmdTaken s link.val i.val 1 cmd cqCmdFields → CqCmdOk cmd → cqAt s i.val q = none →
      Reaches (.createCq link i ⟨cmd, again⟩) s fun u => (inst u i.val).cmdStatus = 0 ∧ (cqAt u i.val q).isSome = true) ∧
    (CmdTaken s link.val i.val 2 cmd sqCmdFields → SqCmdOk cmd → sqAt s i.val q = none →
      (cqAt s i.val (fld cmd 0x16 1)).isSome = true →
      Reaches (.createSq link i ⟨cmd, again⟩) s fun u => (inst u i.val).cmdStatus = 0 ∧ (sqAt u i.val q).isSome = true) ∧
    (CmdTaken s link.val i.val 3 cmd [(0x15, 1)] → q ≤ 15 → (sqAt s i.val q).isSome = true →
      tsorted (inst s i.val).sqs = true → (∀ j ∈ s.js.jobs, j.inst ≠ i.val ∨ j.sq ≠ q ∨ j.jstate = .pending) →
      (∀ e ∈ s.net.qps, e.2.inst ≠ i.val ∨ e.2.use ≠ 1 ∨ e.2.sq ≠ q) →
      Reaches (.deleteSq link i ⟨cmd, again⟩) s fun u => (inst u i.val).cmdStatus = 0 ∧ sqAt u i.val q = none) ∧
    (CmdTaken s link.val i.val 4 cmd [(0x15, 1)] → q ≤ 15 → (cqAt s i.val q).isSome = true →
      tsorted (inst s i.val).cqs = true → (∀ e ∈ (inst s i.val).sqs, e.2.cq ≠ q) →
      Reaches (.deleteCq link i ⟨cmd, again⟩) s fun u => (inst u i.val).cmdStatus = 0 ∧ cqAt u i.val q = none) ∧
    (CmdTaken s link.val i.val 10 cmd [(0x15, 1), (0x16, 1)] → q ≤ 15 → fld cmd 0x16 1 ≤ 1 →
      ∃ result, exec (.query link i ⟨cmd, again⟩) s = .next (cmdAnswered i.val cmd again 0 result s) ∧ result.length = 12) ∧
    (∀ k, CmdTaken s link.val i.val 5 cmd [(8, 1), (9, 1), (10, 1)] → QpCmdOk s i.val cmd →
      (s.net.qps.filter fun e => e.2.inst = i.val).length < od s (instIdx i.val) 0x0C → k < 65536 → LowestFree s.net.qps k →
      exec (.createQp link i ⟨cmd, again⟩) s = .next (cmdAnswered i.val cmd again 0 (leBytes 4 k ++ leBytes 4 (k + 2)) (netMod (fun x =>
        { x with qps := tset x.qps k { inst := i.val, gen := instGen s i.val, use := fld cmd 8 1, sq := fld cmd 9 1
                                       mtu := fld cmd 10 1 } }) s))) ∧
    (∀ q place, CmdTaken s link.val i.val 6 cmd connectFields → ConnectCmdOk cmd →
      ownQp s i.val (fld cmd 8 4) = some q → q.connected = false → q.err = false → q.sendQ = [] →
      planeFit s (fld cmd 0x28 1) = true → FreePlace s place →
      Reaches (.connectQp link i ⟨cmd, again⟩) s fun u => (inst u i.val).cmdStatus = 0 ∧
        qpAt u (fld cmd 8 4) = some { q with
          connected := true, remoteQpn := fld cmd 0x0C 4, remoteIp := beNat (slice cmd 0x10 16), txPsn := fld cmd 0x20 4
          rxPsn := fld cmd 0x24 4, primary := fld cmd 0x28 1, plane := fld cmd 0x28 1, ports := fld cmd 0x29 1
          timeoutN := if fld cmd 0x2A 1 = 0 then 10 else fld cmd 0x2A 1, retry := fld cmd 0x2B 1 % 8
          rnrRetry := fld cmd 0x2B 1 / 8 } ∧
        tfind (classEntries u) place = some { value := classKey (localFor s (beNat (slice cmd 0x10 16))) (fld cmd 8 4 + 2)
                                              mask := 2 ^ 160 - 1, valid := true, result := fld cmd 8 4 }) ∧
    (∀ q, CmdTaken s link.val i.val 7 cmd [(8, 4)] → ownQp s i.val (fld cmd 8 4) = some q → q.err = false →
      tsorted s.net.qps = true → (∀ e ∈ s.js.tasks, usesQp s e.2 (fld cmd 8 4) = none) →
      Reaches (.destroyQp link i ⟨cmd, again⟩) s fun u => (inst u i.val).cmdStatus = 0 ∧ qpAt u (fld cmd 8 4) = none ∧
        (∀ e ∈ classEntries u, e.2.result = fld cmd 8 4 → e.2.valid = false) ∧
        (∀ m ∈ u.net.fabric, m.src ≠ fld cmd 8 4 ∧ m.dst ≠ fld cmd 8 4) ∧
        ∀ j ∈ u.js.jobs, j.sender ≠ some (fld cmd 8 4)) ∧
    (∀ k tag, CmdTaken s link.val i.val 8 cmd [(8, 8), (0x10, 8), (0x18, 1)] → fld cmd 0x18 1 ≤ 3 → fld cmd 0x10 8 ≠ 0 →
      fld cmd 8 8 + fld cmd 0x10 8 ≤ 2 ^ 48 →
      (s.net.regions.filter fun e => e.2.inst = i.val && !e.2.zone).length < od s (instIdx i.val) 0x0D → k < 1048576 →
      LowestFree s.net.regions k → tag = (tget 0 s.net.tags k + 1) % 4096 →
      exec (.registerRegion link i ⟨cmd, again⟩) s = .next (cmdAnswered i.val cmd again 0 (leBytes 4 (k * 4096 + tag)) (netMod (fun x =>
        { x with tags := tset x.tags k tag, regions := tset x.regions k
                  { inst := i.val, gen := instGen s i.val, base := fld cmd 8 8, length := fld cmd 0x10 8
                    read := (fld cmd 0x18 1).testBit 0, write := (fld cmd 0x18 1).testBit 1 } }) s))) ∧
    (∀ r, CmdTaken s link.val i.val 9 cmd [(8, 4)] → regionAt s (fld cmd 8 4) = some r → r.inst = i.val → r.zone = false →
      exec (.deregisterRegion link i ⟨cmd, again⟩) s = .next (cmdAnswered i.val cmd again 0 []
        (netMod (fun x => { x with regions := tdel x.regions (fld cmd 8 4 / 4096) }) s))) ∧
    (mailboxLive s link.val = true →
      (∀ log, log ≤ 3 → ∃ b c n, n = min 31 (eventsOf s link.val log).length ∧
        exec (.getEventRecords link log) s = .next (mailAnswer link 0 b { s with freeCtr := c }) ∧
        b.length = 32 + 128 * n ∧ fld b 0x14 2 = n ∧ fld b 0 1 = (if 31 < (eventsOf s link.val log).length then 2 else 0) ∧
        ∀ j e, j < n → (eventsOf s link.val log)[j]? = some e →
          fld b (32 + 128 * j + 0x14) 2 = e.handle % 65536 ∧ fld b (32 + 128 * j + 0x18) 8 = e.time % 2 ^ 64) ∧
      (∀ log all handles, log ≤ 3 →
        (all = true ∨ ∀ h ∈ handles, ∃ e ∈ eventsOf s link.val log, e.handle = h) →
        exec (.clearEventRecords link log all handles) s = .next (mailAnswer link 0 [] { s with cx := { s.cx with
          events := tset s.cx.events link.val ((tget [] s.cx.events link.val).filter fun e =>
            !(decide (Config.eventLog e.kind.num = log) && (all || handles.contains e.handle))) } })) ∧
      (∀ ns, exec (.setTimestamp link ns) s = .next (mailAnswer link 0 [] { s with cx := { s.cx with
          stamps := tset s.cx.stamps link.val (ns % 2 ^ 64, s.time * 40) } })) ∧
      exec (.getTimestamp link) s = .next (mailAnswer link 0 (leBytes 8 (stampOf s link.val)) s) ∧
      exec (.getSupportedLogs link) s =
        .next (mailAnswer link 0 (leBytes 2 1 ++ List.replicate 6 0 ++ celUuid ++ leBytes 4 40) s) ∧
      (∀ offset length, offset + length ≤ 40 → ∃ b c,
        exec (.getLog link celUuid offset length) s = .next (mailAnswer link 0 b { s with freeCtr := c }) ∧
        b.length = length ∧ ∀ k op, mailboxOpcodes[k]? = some op → offset ≤ 4 * k → 4 * k + 2 ≤ offset + length →
          fld b (4 * k - offset) 2 = op) ∧
      (∃ b c, exec (.identifyMemoryDevice link) s = .next (mailAnswer link 0 b { s with freeCtr := c }) ∧ b.length = 0x45 ∧
        fld b 0x10 8 = installed s / 2 ^ 28 % 2 ^ 64 ∧ fld b 0x18 8 = installed s / 2 ^ 28 % 2 ^ 64) ∧
      (∃ b c, exec (.getHealthInfo link) s = .next (mailAnswer link 0 b { s with freeCtr := c }) ∧ b.length = 18) ∧
      (∀ msg, exec (.vdpRequest link msg) s = .next (vdpArrive (.mailbox link) msg (odBump 0x2400 5 s))) ∧
      exec (.vdpCyclic link) s = .next (mailAnswer link 0 s.vd.deviceFrame s) ∧
      (∀ opcode : BitVec 16, opcode.toNat ∉ mailboxOpcodes →
        exec (.unsupportedMailbox link opcode) s = .next (mailAnswer link 3 [] s)))

/-- Of a running stage with nothing waiting to leave, each stage command of the Sieves, Mash, sort, aggregate, Kiln, Grist,
Glume and core stages completes with its own effect, where its keys are of legal length and OUT_CAP is 0: PAGE_READ reads
and checks the next page or frame in read order; DICTIONARY_PREPARE prepares the dictionary that a page waits for; SCAN
starts, emits blocks, and ends; HASH_BUILD takes rows, and after the last writes the table image; HASH_PROBE emits what a
row matches; PARTITION emits routed rows; HASH_GROUP and GROUP_HASH take rows of resident groups and emit a closed group;
GROUP_SORTED joins a row to its group or emits the group it closes; SORT, TOP_N and MERGE take records and emit them in
order; INFLATE and DEFLATE take bytes to the next 4 KiB and give their result after the last; DIGEST fills its input buffer, processes a block
when its turn comes, and ends its message; LOOKUP emits each answer; UDO and EXPR
start or resume their blob; COMBINE takes rows and gives as many or fewer; KILN_SELF_TEST returns an engine of STATE 5 to
placement or retires it (STATE 6); GLUME_PARITY_PASS counts the error of a row it finds, repairs the classifier's entry, and ends
the jobs that use another group. INFLATE fails on the input's first error, DEFLATE when a block does not inflate to its
segment (R361). The bytes of COMBINE's rows are free (log entry 22). -/
def Obligations.EngineStagesComplete : Prop :=
  ∀ (s : State) (slot : Nat) (t : Task),
    (StageAt s slot 0x01 t → t.eng.started = true → t.eng.sv.wait = none → t.eng.sv.stall = none → blockReady s t = false →
      ∀ col x sc, nextCol s t = some col → x = chunkEnt s t t.eng.sv.entry col → sc = t.eng.sv.cols.getD col {} →
      (∀ p r v, ((scanOp (taskOperand s t)).col col).framed = false →
        placedParts t.unit t.inst (chFirst x + 65536 * sc.page) 128 (fun h => pageReadLen h - 128) sc.region s = (.bytes p r, v) →
        exec (.pageRead slot) s = .next (noteStall slot (checkPage slot col (chFirst x + 65536 * sc.page) p none
          (svMod slot (fun v => { v with cols := lmod v.cols col fun c => { c with
            region := r, frame := roundUp (chFirst x + 65536 * sc.page + p.length) 4096 } }) v)))) ∧
      (∀ p r v a k n content, ((scanOp (taskOperand s t)).col col).framed = true →
        a = (if sc.page = 0 then chFirst x else sc.frame) → k = (scanKiln t).getD 0xA8 →
        placedParts t.unit t.inst a 32 (fun h => if badFrameHeader h 32 then 0 else fld h 8 4) sc.region s = (.bytes p r, v) →
        inflateFrame p.toArray 0 65536 = .ok (n, content) →
        exec (.pageRead slot) s = .next (noteStall slot (checkPage slot col a content (some content.length)
          (unitCount k 3 p.length (unitCount k 4 content.length
            (svMod slot (fun v => { v with cols := lmod v.cols col fun c => { c with
              region := r, frame := roundUp (a + p.length) 4096 } }) v))))))) ∧
    (∀ w h o p es bits v v' y, StageAt s slot 0x01 t → t.eng.sv.wait = some w → h = pageHdr w.page →
      o = scanOp (taskOperand s t) → readPageBytes t.unit t.inst h.dictAddr s = (.ok p, v) → dictPage p h = .ok es →
      prepareEntries (taskImg s t) o t w.col es (unitCount t.unit 3 1 v) = ((bits, false), v') →
      y = showState slot 2 (unitCount t.unit 9 1 v') → code8Bad y t o w.col h = false →
      exec (.dictionaryPrepare slot) s = .next (noteStall slot (finishPage slot w.col w.addr w.page (svMod slot (fun v => { v with
        cols := lmod v.cols w.col fun c => { c with dict := some ⟨h.dictAddr, es, bits⟩ } }) y)))) ∧
    (StageAt s slot 0x01 t →
      (t.eng.started = false → StageGoes (.scan slot) s slot fun t' => t'.eng.started = true ∧
        t'.eng.sv = { cols := (scanOp (taskOperand s t)).cols.map fun _ => {}, stall := t'.eng.sv.stall }) ∧
      (t.eng.started = true → t.eng.sv.entry < (taskList s t 0).length →
        exec (.scan slot) s = .next (noteStall slot (nextEntry slot (emitBlocks slot 200 s)))) ∧
      (t.eng.started = true → (taskList s t 0).length ≤ t.eng.sv.entry →
        StageGoes (.scan slot) s slot fun t' => t'.eng.done = true ∧ ∀ o ∈ t'.outs, o.ended = true)) ∧
    (∀ n, StageAt s slot 0x10 t → (taskStage s t).drain = false → n = rowsReady t → findLong (stageKeys s t) (frontRows t n) = none →
      (StillOpen t → StageGoes (.hashBuild slot) s slot fun t' => Took t t' n ∧ t'.eng.rows = t.eng.rows ++ frontRows t n) ∧
      (insDone t = true → t.eng.started = true → t.ins ≠ [] → StageThen (.hashBuild slot) s slot t
        (writeBlocks slot t.unit t.inst (taskBuffer s t 0).1 (builtImage s t) ((builtImage s t).length / 4096 + 2)))) ∧
    (∀ p row d ms walked, StageAt s slot 0x11 t → (taskStage s t).drain = false → (taskStage s t).outCap = 0 → t.eng.io = [] →
      t.eng.started = true → fld t.eng.table 0x90 8 ≤ mib8 → t.eng.pend = [] → StillOpen t → p = probeOp s t → rowsReady t = 1 →
      [row] = frontRows t 1 → longKey p.ks row = none →
      d = dirEnt t.eng.table (subOf (fld t.eng.table 6 1) (tableRow p.ks p.seed p.ne row).hash) →
      probeMatches t.eng.table d (tableRow p.ks p.seed p.ne row) = .ok (ms, walked) →
      StageGoes (.hashProbe slot) s slot fun t' => Took t t' 1 ∧
        Gave t t' ((joinOut p t.eng.table d row ms false true).1.map (fun e => (0, e)) ++
          (joinOut p t.eng.table d row ms false true).2.map fun e => (1, e))) ∧
    (∀ n l, StageAt s slot 0x12 t → (taskStage s t).drain = false → (taskStage s t).outCap = 0 → t.eng.io = [] →
      (taskStage s t).params.headD 0xFFFF = 0xFFFF → StillOpen t → n = rowsReady t → findLong (stageKeys s t) (frontRows t n) = none →
      l = (inLayout (taskImg s t) t.stage (opKeyCount (taskOperand s t))).getD noLayout →
      StageGoes (.partition slot) s slot fun t' => Took t t' n ∧
        Gave t t' ((frontRows t n).map fun r => (0, some (partRow (taskOperand s t) (stageKeys s t) l r).2))) ∧
    (∀ c code o n, (c, code) ∈ [(Instr.hashGroup slot, 0x13), (.groupHash slot, 0x31)] → StageAt s slot code t →
      o = groupOpOf s t → t.eng.io = [] →
      (t.eng.d = 0 → (taskStage s t).drain = false → StillOpen t → n = rowsReady t → findLong o.agg.keys (frontRows t n) = none →
        (firstImages ((t.eng.rows ++ frontRows t n).map (groupedRow o))).length ≤ o.cap →
        StageGoes c s slot fun t' => Took t t' n ∧ t'.eng.rows = t.eng.rows ++ frontRows t n) ∧
      (∀ g, t.eng.d = 2 → t.eng.groups = [g] → t.eng.parts = [] → (taskStage s t).outCap = 0 →
        overflowAt o.agg (groupResults o.agg g) = none →
        StageGoes c s slot fun t' => Gave t t' [(0, some (groupRow o.agg g (groupResults o.agg g)))] ∧ EndsAfter t')) ∧
    (∀ o ks row, StageAt s slot 0x30 t → (taskStage s t).drain = false → (taskStage s t).outCap = 0 → t.eng.pend = [] → StillOpen t →
      o = aggOpOf s t → ks = sortedKeys (taskOperand s t) o.keys → rowsReady t = 1 → [row] = frontRows t 1 →
      longKey o.keys row = none →
      ((∀ first, t.eng.rows.head? = some first → normKey ks (row.take ks.length) = normKey ks (first.take ks.length)) →
        StageGoes (.groupSorted slot) s slot fun t' => Took t t' 1 ∧ t'.eng.rows = t.eng.rows ++ [row]) ∧
      (∀ first, t.eng.rows.head? = some first → normKey ks (row.take ks.length) ≠ normKey ks (first.take ks.length) →
        bytesLt (normKey ks (row.take ks.length)) (normKey ks (first.take ks.length)) = false →
        overflowAt o (groupResults o t.eng.rows) = none →
        StageGoes (.groupSorted slot) s slot fun t' => Took t t' 1 ∧ t'.eng.rows = [row] ∧
          Gave t t' [(0, some (groupRow o t.eng.rows (groupResults o t.eng.rows)))])) ∧
    (∀ c code o n, (c, code) ∈ [(Instr.sort slot, 0x20), (.topN slot, 0x22)] → StageAt s slot code t →
      (taskStage s t).drain = false → o = sortOpOf s t → t.eng.io = [] → t.eng.c = 0 → n = rowsReady t →
      findLong o.ks (frontRows t n) = none →
      (o.keep = none → StillOpen t → t.eng.rows.length + n ≤ mib8 / o.rb →
        StageGoes c s slot fun t' => Took t t' n ∧
          t'.eng.rows = t.eng.rows ++ (frontRows t n).map fun r => [some (inputRec o.ks r)]) ∧
      (∀ k row, o.keep = some k → StillOpen t → n = 1 → [row] = frontRows t 1 →
        StageGoes c s slot fun t' => Took t t' 1 ∧ t'.eng.rows =
          ((sortRecs o.ks (recsOf (t.eng.rows ++ [[some (inputRec o.ks row)]]))).take k).map fun r => [some r]) ∧
      (insDone t = true → t.ins ≠ [] → t.eng.marks = [] → (taskStage s t).outCap = 0 →
        StageGoes c s slot fun t' => EndsAfter t' ∧
          Gave t t' ((sortRecs o.ks (recsOf t.eng.rows)).map fun r => (0, sortOut o.ks o.payload o.layout o.maps r)))) ∧
    (∀ o l, StageAt s slot 0x21 t → o = sortOpOf s t → l = (inLayout (taskImg s t) t.stage 0).getD noLayout → t.eng.io = [] →
      t.eng.b = 0 →
      (∀ p rest e k, t.eng.c = 0 → t.eng.started = true → t.eng.a = 0 → t.ins = p :: rest → p.buf = [e] → p.ended = false →
        k = normKey o.ks (mergeKey (taskOperand s t) l o.ks.length (e.getD [])) →
        (t.eng.marks.getD 0 0 = 0 ∨ bytesLt k t.eng.table = false) →
        StageGoes (.merge slot) s slot fun t' => t'.ins = { p with buf := [] } :: rest ∧ t'.eng.table = k ∧
          t'.eng.rows = t.eng.rows ++ [[some (sortRec o.ks k (e.getD []))]] ∧ t'.eng.marks = lmod t.eng.marks 0 (· + 1)) ∧
      (t.eng.c = 1 → (taskStage s t).outCap = 0 → StageGoes (.merge slot) s slot fun t' => EndsAfter t' ∧
        Gave t t' ((mergeRuns o.ks (splitLens t.eng.marks (recsOf t.eng.rows))).map fun r => (0, some (recRow o.ks l.width r))))) ∧
    (∀ flaw c code n, (c, code) ∈ [(Instr.inflate slot, 0x40), (.deflate ⟨slot, flaw⟩, 0x41)] → StageAt s slot code t →
      t.eng.started = true → t.eng.b = 0 → t.ins.length = 1 → n = 4096 - t.eng.a % 4096 →
      (StillOpen t → StageGoes c s slot fun t' => Took t t' n ∧ t'.eng.bytes = t.eng.bytes ++ waitingBytes t n) ∧
      (∀ out, insDone t = true → kilnChained (taskStage s t) = false → (taskStage s t).outCap = 0 →
        (code = 0x40 → inflate (fld (taskOperand s t) 0 1) t.eng.bytes (fld (taskOperand s t) 8 8) = .ok out) →
        (code = 0x41 → kilnResumable (taskOperand s t) = false ∧
          deflVerified (taskOperand s t) t.eng.table t.eng.bytes flaw = true ∧
          ∃ o, deflResult (taskOperand s t) t.eng.table t.eng.bytes none = some o ∧ o.out = out) →
        StageGoes c s slot fun t' => EndsAfter t' ∧ Gave t t' (out.map fun b => (0, some [b]))) ∧
      (∀ f, insDone t = true → code = 0x40 →
        inflate (fld (taskOperand s t) 0 1) t.eng.bytes (fld (taskOperand s t) 8 8) = .error f →
        Reaches c s fun u => JobFails s u t.jid f.status
          { address := f.bit / 8, detail := f.made, detail2 := f.frame, reason := f.bit % 8, unit := t.unit, stage := t.stage }) ∧
      (∀ k : Fin 4, insDone t = true → code = 0x41 → t.unit = 0xA8 + k.val → kilnResumable (taskOperand s t) = false →
        (deflResult (taskOperand s t) t.eng.table t.eng.bytes none).isSome = true →
        deflVerified (taskOperand s t) t.eng.table t.eng.bytes flaw = false →
        Reaches c s fun u => JobFails s u t.jid 0x020C { unit := t.unit, stage := t.stage } ∧ od u (0x3C00 + k.val) 1 = 5)) ∧
    (∀ (engine : Fin 4) (passed : Bool),
      (od s (0x3C00 + engine.val) 1 = 5 → exec (.kilnSelfTest engine passed) s = .next
        (if passed then odSet (0x3C00 + engine.val) 1 0 s else unitLeft (0xA8 + engine.val) (odSet (0x3C00 + engine.val) 1 6 s))) ∧
      (od s (0x3C00 + engine.val) 1 ≠ 5 → exec (.kilnSelfTest engine passed) s = .next s)) ∧
    (∀ alg n g t1, StageAt s slot 0x48 t → t.ins.length = 1 → alg = fld (taskOperand s t) 0 1 →
      n = 2 * digestBlock alg - (openedCtx s t).buf.length → g = ctxFed (openedCtx s t) (waitingBytes t n) →
      t1 = { t with ins := t.ins.map (fun p => { p with buf := p.buf.drop n }), eng := { t.eng with started := true, ctx := g } } →
      (t.eng.b = 0 → g.count < 2 ^ 61 → 0xAC ≤ t.unit → t.sub < 64 →
        (∀ x ∈ s.js.tasks, x.1 ≠ slot → x.2.unit = t.unit → ctxEligible s x.2 = false) →
        (digestBlock alg ≤ g.buf.length → StageGoes (.digest slot) s slot fun t' => Took t t' n ∧ t'.eng.ctx = ctxBlock alg g) ∧
        (g.buf.length < digestBlock alg → insDone t1 = false →
          StageGoes (.digest slot) s slot fun t' => Took t t' n ∧ t'.eng.ctx = g) ∧
        (∀ g' blocks, g.buf.length < digestBlock alg → insDone t1 = true → ctxEnd alg g = (g', blocks) →
          ((fld (taskOperand s t) 1 1).testBit 1 = false ∨ g'.result.take (fld (taskOperand s t) 2 1) =
            poolBytes (taskImg s t) (fld (taskOperand s t) 0x0C 4) (fld (taskOperand s t) 2 1)) →
          StageThen (.digest slot) s slot { t1 with eng := { t1.eng with b := 1, ctx := g' } } (writeDigest slot t1 g'.result))) ∧
      (∀ v, t.eng.b = 1 → devWriteWhole t.unit (.inst t.inst) (taskBuffer s t 0).1 t.eng.ctx.result s = (none, v) →
        exec (.digest slot) s = .next (stageDone slot v))) ∧
    (∀ e g, StageAt s slot 0x50 t → (taskStage s t).drain = false → (taskStage s t).outCap = 0 → StillOpen t →
      rowsReady t = 1 → [[e]] = frontRows t 1 → g = group s (t.unit - 0xB0) →
      (∀ b i x, e = some b → (gsearch g (leNat b)).first = some (i, x) → rowsBad s (t.unit - 0xB0) i = false) →
      StageGoes (.lookup slot) s slot fun t' => Took t t' 1 ∧ Gave t t' (lookupAnswer g e)) ∧
    (∀ c code (k : CoreId), (c, code) ∈ [(Instr.udoStage slot, 0x60), (.exprStage slot, 0x61)] → StageAt s slot code t →
      t.unit = k.val → coreActive s k = true → (core s k).task = some slot →
      (t.eng.started = false → exec c s = .next (startBlob k slot t s)) ∧
      (∀ x, t.eng.started = true → (core s k).saved = some x → x.slot = slot → coreLevel s k ≠ .t →
        exec c s = .next (resumeBlob k x s))) ∧
    (∀ n, StageAt s slot 0x62 t → (taskStage s t).drain = false → n = rowsReady t →
      (StillOpen t → StageGoes (.combine slot) s slot fun t' => Took t t' n ∧ t'.eng.a = t.eng.a + n) ∧
      (insDone t = true → t.ins ≠ [] → (taskStage s t).outCap = 0 → StageGoes (.combine slot) s slot fun t' => EndsAfter t' ∧
        ∃ xs, Gave t t' xs ∧ xs.length ≤ t.eng.a ∧ ∀ x ∈ xs, x.1 = 0 ∧ x.2.isSome = true)) ∧
    (s.mode ≠ .off → s.mode ≠ .fuseLoad → s.js.badRows = [] →
      (∀ upsets, exec (.glumeParityPass ⟨[], upsets⟩) s = .next { s with js := { s.js with badRows := upsets.eraseDups } }) ∧
      (∀ bank row, bankLive s bank = true →
        (bankGroup s bank = none → exec (.glumeParityPass ⟨[(bank, row)], []⟩) s = .next (odBump 0x3E00 3 s)) ∧
        (bankGroup s bank = some 0 →
          exec (.glumeParityPass ⟨[(bank, row)], []⟩) s = .next (repairClass ((group s 0).entryOf bank row) s)) ∧
        (∀ g, 1 ≤ g → bankGroup s bank = some g → Reaches (.glumeParityPass ⟨[(bank, row)], []⟩) s fun u =>
          (∀ k ∈ groupUsers s g, ∀ x, taskAt s k = some x → ∀ j, jobOf s x.jid = some j → j.ended = none →
            ∃ j', jobOf u x.jid = some j' ∧ j'.ended.isSome = true) ∧
          od u 0x3E00 3 = (od s 0x3E00 3 + 1) % 2 ^ 64 ∧ tget 0 u.js.glumeErrors g = tget 0 s.js.glumeErrors g + 1)) ∧
      (∀ bank row, bankLive s bank = false → exec (.glumeParityPass ⟨[(bank, row)], []⟩) s = .next s))

/-- Of a running stage with nothing waiting to leave, each Tun and exchange command completes with its own effect: SOURCE,
SINK_DEVICE and SINK_HOST start their channel (CHANNEL_STATE 1), pass what their partition or input holds, and end
(CHANNEL_STATE 0); SINK_REMOTE starts on a DATA queue pair in service, buffers its input, sends it as an RDMA WRITE after
the last, and ends; DESCRIPTOR_FETCH takes a legal descriptor and DESCRIPTOR_WRITEBACK writes one back; TUN_REQUEST
grants the next channel's read or write; EXCH_SEND reads its peer table and opens each peer, routes a row, and ends;
EXCH_RECV emits the next landed segment and closes its zone once drained; OPEN_RETRY sends OPEN again and OPEN_TIMEOUT
fails the job with PEER_UNREACHABLE. Where a command accesses memory, the access named is performed. Which bytes a transfer
holds is the model's choice (log entry 16). -/
def Obligations.TunAndExchangeStagesComplete : Prop :=
  ∀ (s : State) (slot : Nat) (t : Task),
    (∀ c code, (c, code) ∈ [(Instr.source slot, 0x80), (.sinkDevice slot, 0x81), (.sinkHost slot, 0x82)] → StageAt s slot code t →
      (t.eng.started = false → Reaches c s fun u => od u (tunIdx t) (0x40 + t.sub) = 1 ∧ ∃ t', taskAt u slot = some t' ∧
        t'.eng.started = true ∧ ∀ a n, taskBuffer s t 0 = (a, n) →
          t'.eng.tun = { (if tunChained (taskStage s t) (taskOperand s t) then { at_ := a } else linearTun a n : TunState) with
            phase := if code = 0x80 ∧ n = 0 then .ended
              else if tunChained (taskStage s t) (taskOperand s t) then .fetch else .moving }) ∧
      (t.eng.started = true → t.eng.tun.phase = .ended →
        (code = 0x80 → t.eng.bytes.length < outWidth s t) → (code ≠ 0x80 → insDone t = true ∧ t.eng.bytes = []) →
        Reaches c s fun u => od u (tunIdx t) (0x40 + t.sub) = 0 ∧ ∃ t', taskAt u slot = some t' ∧ t'.eng.done = true ∧
          ∀ o ∈ t'.outs, o.ended = true) ∧
      (code = 0x80 → t.eng.started = true → t.eng.tun.phase = .moving → consumerDone s t = false → (taskStage s t).outCap = 0 →
        StageGoes c s slot fun t' => t'.eng.bytes = t.eng.bytes.drop (sourceTake s t * outWidth s t) ∧
          Gave t t' ((chunksOf (outWidth s t) (t.eng.bytes.take (sourceTake s t * outWidth s t))).map fun b => (0, some b))) ∧
      (∀ r, code ≠ 0x80 → t.eng.started = true → t.eng.tun.phase = .moving → StillOpen t → t.ins.length = 1 →
        (inEnt s t 0).isSome = true → r = takeFront (waitingElems s t) t.eng.a (32768 - t.eng.bytes.length) →
        StageGoes c s slot fun t' => t'.eng.bytes = t.eng.bytes ++ r.1 ∧ t'.eng.a = r.2.2 ∧ Took t t' r.2.1)) ∧
    (∀ k v, StageAt s slot 0x83 t → k = fld (taskOperand s t) 0 4 → v = (taskParam s t 0).getD [] →
      (t.eng.started = false → dataQp s t.inst k = true →
        StageGoes (.sinkRemote slot) s slot fun t' => t'.eng.started = true ∧ t'.eng.d = k + 1) ∧
      (t.eng.started = true → t.ins.length = 1 → (inEnt s t 0).isSome = true → StillOpen t →
        t.eng.bytes.length + (waitingElems s t).flatten.length < 65536 → t.eng.bytes.length + t.eng.b < 1048576 →
        StageGoes (.sinkRemote slot) s slot fun t' => t'.eng.bytes = t.eng.bytes ++ (waitingElems s t).flatten ∧
          t'.ins = t.ins.map fun p => { p with buf := [] }) ∧
      (∀ q, t.eng.started = true → insDone t = true → t.eng.bytes ≠ [] → t.eng.bytes.length < 65536 →
        t.eng.a + t.eng.bytes.length ≤ fld v 8 8 → qpAt s k = some q → q.err = false →
        Reaches (.sinkRemote slot) s fun u => Posted u k (.write (fld v 0 4) (fld v 4 4 + t.eng.a) t.eng.bytes) ∧
          ∃ t', taskAt u slot = some t' ∧ t'.eng.bytes = [] ∧ t'.eng.a = t.eng.a + t.eng.bytes.length ∧
            t'.eng.b = t.eng.b + t.eng.bytes.length) ∧
      (t.eng.started = true → insDone t = true → t.eng.bytes = [] → t.eng.b = 0 →
        StageGoes (.sinkRemote slot) s slot fun t' => t'.eng.done = true ∧ ∀ o ∈ t'.outs, o.ended = true)) ∧
    (∀ code d v, code ∈ [0x80, 0x81, 0x82] → StageAt s slot code t → t.eng.started = true →
      (t.eng.tun.phase = .fetch → (code = 0x80 ∨ t.eng.bytes ≠ []) → t.eng.tun.hops < hopLimit s t →
        locRead (tunLoc s t) t.unit t.inst t.eng.tun.at_ 64 s = (.ok d, v) → descriptorBad d = false → fld d 0x18 8 ≠ t.eng.tun.at_ →
        exec (.descriptorFetch slot) s = .next (tunMod slot (fun c => { c with
          addr := fld d 0 8, rowBytes := fld d 8 4, rows := fld d 0x0C 4, stride := toSigned 64 (fld d 0x10 8)
          next := fld d 0x18 8, wb := (fld d 0x20 1).testBit 0, k := 0, phase := .moving, short := false, long := false
          dropped := 0, hops := c.hops + 1 }) (odBump (tunIdx t) 3 v))) ∧
      (∀ more, t.eng.tun.phase = .writeback more →
        locWrite (tunLoc s t) t.unit t.inst (t.eng.tun.at_ + 0x28) (writebackBytes t.eng.tun) s = (none, v) →
        exec (.descriptorWriteback slot) s = .next (tunMod slot (fun c => { c with
          at_ := c.next, phase := if more then .fetch else .ended }) v))) ∧
    (∀ (engine : Fin 4) (n : Nat), tsorted s.js.tasks = true →
      (∀ write, nextRequest s engine.val write = none → exec (.tunRequest engine write) s = .next s) ∧
      (∀ bs v, nextRequest s engine.val false = some (slot, t, n) →
        devRead t.unit (.inst t.inst) (t.eng.tun.place t.eng.tun.k) n (granted (2 * engine.val) t s) = (.ok bs, v) →
        StageGoes (.tunRequest engine false) s slot fun t' => t'.eng.bytes = t.eng.bytes ++ bs ∧
          t'.eng.tun.total = t.eng.tun.total + n) ∧
      (∀ v, nextRequest s engine.val true = some (slot, t, n) → TunWrites (granted (2 * engine.val + 1) t s) v t n →
        StageGoes (.tunRequest engine true) s slot fun t' => t'.eng.bytes = t.eng.bytes.drop n ∧
          t'.eng.tun.total = t.eng.tun.total + n)) ∧
    (∀ a n h b v w, StageAt s slot 0x70 t → t.eng.started = false → taskBuffer s t 0 = (a, n) → 16 ≤ n →
      devRead unitExch (.inst t.inst) a 16 s = (.ok h, v) → 16 + 8 * fld h 10 2 + 2 * fld h 12 2 ≤ n →
      devRead unitExch (.inst t.inst) a (16 + 8 * fld h 10 2 + 2 * fld h 12 2) v = (.ok b, w) →
      peerTableBad w t.inst (taskOperand s t) b = false →
      (∀ i < fld b 10 2, ∀ q, qpAt w (fld b (16 + 8 * i) 4) = some q → q.err = false) →
      Reaches (.exchSend slot) s fun u => (∃ t', taskAt u slot = some t' ∧ t'.eng.started = true) ∧
        ∃ x, xsendOf u t.jid t.stage = some x ∧ x.exchange = fld b 0 8 ∧ x.sender = fld b 8 2 ∧
          x.peers = (List.range (fld b 10 2)).map (fun i => { qp := fld b (16 + 8 * i) 4 }) ∧
          x.entries = (List.range (fld b 12 2)).map (fun i => fld b (16 + 8 * fld b 10 2 + 2 * i) 2) ∧
          ∀ p ∈ x.peers, Posted u p.qp (.send (ctlMsg 1 0 x.sender 0 x.exchange (leBytes 4 x.crc)))) ∧
    (∀ x l, StageAt s slot 0x70 t → t.eng.started = true → xsendOf s t.jid t.stage = some x → (taskStage s t).drain = false →
      l = (inLayout (taskImg s t) t.stage (sendKeys s t).length).getD noLayout →
      (∀ row is_, StillOpen t → rowsReady t = 1 → [row] = frontRows t 1 → longKey (sendKeys s t) row = none →
        rowPeers x (taskOperand s t) (sendKeys s t) l row = some is_ → is_.Nodup →
        (∀ p ∈ x.peers, p.closed = false ∧ p.opened = false ∧ p.buf.length < 131072) →
        Reaches (.exchSend slot) s fun u => (∃ t', taskAt u slot = some t' ∧ Took t t' 1) ∧
          ∃ x', xsendOf u t.jid t.stage = some x' ∧ ∀ i p, x.peers[i]? = some p → ∃ p', x'.peers[i]? = some p' ∧
            p'.buf = p.buf ++ (if i ∈ is_ then (row.getD (sendKeys s t).length none).getD [] else [])) ∧
      (insDone t = true → 1 ≤ x.width → x.width ≤ 65536 →
        (∀ p ∈ x.peers, p.closed = true ∨ (p.ended = true ∧ p.unacked = 0 ∧ p.buf = [])) →
        Reaches (.exchSend slot) s fun u => xsendOf u t.jid t.stage = none ∧
          ∃ t', taskAt u slot = some t' ∧ t'.eng.done = true ∧ ∀ o ∈ t'.outs, o.ended = true)) ∧
    (∀ z y w, StageAt s slot 0x71 t → t.eng.marks = [] → zoneAt s t.jid t.stage = some z → y = passTurn (z.senderCount + 1) z →
      w = zoneMod t.jid t.stage (fun z => passTurn (z.senderCount + 1) z) (engMod slot (fun g => { g with started := true }) s) →
      (∀ x b v, nextLanded y = some x → (taskStage s t).outCap = 0 →
        devRead unitExch (.inst t.inst) (z.base + 65536 * (x.slot + 1)) x.len w = (.ok b, v) →
        StageGoes (.exchRecv slot) s slot fun t' => t'.eng.marks = [x.sender, x.seq] ∧
          Gave t t' ((chunksOf (max 1 ((outLayout (taskImg s t) t.stage 0).getD noLayout).width) b).map fun r => (0, some r))) ∧
      (nextLanded y = none → zoneDrained y = true →
        Reaches (.exchRecv slot) s fun u => zoneAt u t.jid t.stage = none ∧ (z.inst, z.exchange, 2, s.time) ∈ u.net.closed ∧
          ∃ t', taskAt u slot = some t' ∧ t'.eng.done = true ∧ ∀ o ∈ t'.outs, o.ended = true)) ∧
    (∀ x peer p, s.mode ≠ .hold → taskAt s slot = some t → xsendOf s t.jid t.stage = some x → x.peers[peer]? = some p →
      (p.again = true → ∀ q, qpAt s p.qp = some q → q.err = false →
        Reaches (.openRetry slot peer) s fun u => Posted u p.qp (.send (ctlMsg 1 0 x.sender p.seq x.exchange (leBytes 4 x.crc))) ∧
          ∃ x', xsendOf u t.jid t.stage = some x' ∧ x'.peers = lmod x.peers peer fun p => { p with again := false }) ∧
      (p.again = false → exec (.openRetry slot peer) s = .next s) ∧
      (p.opened = false → p.closed = false →
        exec (.openTimeout slot peer) s = .next (failTask slot 0x0702 { detail := p.qp, detail2 := x.sender } s)) ∧
      (p.opened = true ∨ p.closed = true → exec (.openTimeout slot peer) s = .next s))

/-- A network command that its queue pair, port or plane takes completes with its effect. The next request in order: a SEND
fills the next slot of the network SQ, an RDMA WRITE stores, an RDMA READ answers its data, a segment lands, an OPEN,
GRANT or END acts, and each is acknowledged; over the fabric the same, without packets. An ACK removes what it covers, a
NAK acts by its code, a CNP and a period without one follow R150; ARP, neighbour discovery and echo are answered for the
own address and other frames are dropped and counted; timeouts retry, the RNR delay ends; a window that passes counts
FEC errors, one that fails takes the plane out; probes, their timeouts, repair, rearming, path hold and port training act
as Tables 07-3, 07-4 and 07-6 say. An ACK at the moment of its reported timeout is LATE (log entry 51). -/
def Obligations.NetworkCommandsComplete : Prop :=
  ∀ (s v w : State) (p : Pkt) (k : Nat) (q : QP),
    (NextRequest s v p k q →
      (∀ payload x, q.use = 1 → payload.length ≤ 2 ^ 31 → sqAt v q.inst q.sq = some x → sqTakes v q.inst x (sendPos x) = true →
        devWrite unitExch (.inst q.inst) (sqSlotAddr x (sendPos x)) (payload.take x.slotBytes) v = (none, w) →
        exec (.roceSend (.wire p) payload) s = .next (requestAcked k q p payload.length (sqMod q.inst q.sq (fun y =>
          { y with sends := tset y.sends (sendPos x) payload.length, senders := tset y.senders (sendPos x) k }) w))) ∧
      (∀ key address data a, q.use = 3 → data.length ≤ 2 ^ 31 → regionFor v q key address data.length true = some a →
        devWriteWhole unitExch (.inst q.inst) a data v = (none, w) →
        exec (.rdmaWrite (.wire p) key address data) s = .next (requestAcked k q p data.length w)) ∧
      (∀ key address len a b, q.use = 3 → len ≤ 2 ^ 31 → regionFor v q key address len false = some a →
        devRead unitExch (.inst q.inst) a len v = (.ok b, w) →
        exec (.rdmaRead p key address len) s =
          .next (requestTaken k (packets q.mtu len) p p.psn (.readResponse b) w)) ∧
      (∀ key address data (imm : BitVec 32) z r, q.use = 2 → data.length ≤ 65536 →
        s.net.zones.find? (fun z => z.inst = q.inst && z.key = key) = some z → regionAt v key = some r → r.zone = true →
        address + data.length ≤ r.length → segmentArrives k z address data imm.toNat v = (.ok, w) →
        exec (.rdmaWriteImm (.wire p) key address data imm) s = .next (requestAcked k q p data.length w)) ∧
      (∀ msg, q.use = 2 → (splice msg 0 [1]).length = 32 →
        exec (.openMsg (.wire p) msg) s = .next (requestAcked k q p 32 (openArrives k q.inst (splice msg 0 [1]) v))) ∧
      (∀ msg, q.use = 2 → (splice msg 0 [2]).length = 32 →
        exec (.grantMsg (.wire p) msg) s = .next (requestAcked k q p 32 (grantArrives k (splice msg 0 [2]) v))) ∧
      (∀ msg, q.use = 2 → (splice msg 0 [3]).length = 32 →
        exec (.endMsg (.wire p) msg) s = .next (requestAcked k q p 32 (endArrives k q.inst (splice msg 0 [3]) v)))) ∧
    (∀ f, FabricFront s f →
      (∀ b payload, f.msg = .send b → rxSend f.dst b s = (.ok, w) →
        exec (.roceSend .fabric payload) s = .next (fabricTaken f w) ∧
        (b.head? = some 1 → exec (.openMsg .fabric payload) s = .next (fabricTaken f w)) ∧
        (b.head? = some 2 → exec (.grantMsg .fabric payload) s = .next (fabricTaken f w)) ∧
        (b.head? = some 3 → exec (.endMsg .fabric payload) s = .next (fabricTaken f w))) ∧
      (∀ key a b key' a' b', f.msg = .write key a b → rxWrite f.dst key a b s = (.ok, w) →
        exec (.rdmaWrite .fabric key' a' b') s = .next (fabricTaken f w)) ∧
      (∀ key a b imm key' a' b' imm', f.msg = .writeImm key a b imm → rxWriteImm f.dst key a b imm s = (.ok, w) →
        exec (.rdmaWriteImm .fabric key' a' b' imm') s = .next (fabricTaken f w))) ∧
    (PktTaken s v p k q →
      (∀ done, done = q.sendQ.takeWhile (fun m => psnDist (psnAdd m.psn (m.count - 1)) p.psn < 2 ^ 23) →
        q.timedOut ≠ some s.time → done ≠ [] → (∀ m ∈ done, m.why = .plain) → exec (.ackPacket p) s =
          .next (qpMod k (fun q => { q with sendQ := q.sendQ.drop done.length, retries := 0, rnrs := 0 }) v)) ∧
      (q.timedOut = some s.time → exec (.ackPacket p) s =
        .next (odBump (0x3100 + 0xBC) 6 (qpMod k (fun q => { q with timedOut := none }) v))) ∧
      (q.sendQ.takeWhile (fun m => psnDist (psnAdd m.psn (m.count - 1)) (psnAdd p.psn (2 ^ 24 - 1)) < 2 ^ 23) = [] →
        (∀ d, (q.rnrRetry ≥ 7 ∨ q.rnrs + 1 ≤ q.rnrRetry) → exec (.roceNak p (.rnr d)) s =
          .next (qpMod k (fun q' => { q' with rnrWait := true, rnrs := q'.rnrs + 1 }) v)) ∧
        (∀ d, q.rnrRetry < 7 → q.rnrRetry < q.rnrs + 1 → exec (.roceNak p (.rnr d)) s = .next (qpFail k 0x0702 v)) ∧
        Retries (.roceNak p .sequence) s v k q ∧
        exec (.roceNak p .invalidRequest) s = .next (qpFail k 0x0702 v) ∧
        exec (.roceNak p .remoteAccess) s = .next (accessNak k v)) ∧
      exec (.cnp p) s = .next (qpMod k (fun q =>
        let alpha := q.alpha + (1024 - q.alpha) / 16
        { q with alpha := alpha, target := q.rate, quiet := 0, cnpSeen := true
                 rate := max (od v 0x2820 1) (q.rate - q.rate * alpha / 2048) }) v)) ∧
    (∀ n, exec (.incPeriod n) s = .next (qpMod n (fun q =>
      if q.cnpSeen then { q with cnpSeen := false }
      else
        let quiet := min 255 (q.quiet + 1)
        let target := if quiet > 5 then min 400000 (q.target + od s 0x2820 2) else q.target
        { q with alpha := q.alpha - q.alpha / 16, quiet := quiet, target := target, rate := (q.rate + target + 1) / 2 }) s)) ∧
    (∀ port : Fin 4, portLive s port.val = true →
      exec (.otherFrame port (.arp s.net.localIp)) s = .next (emit (.frame port.val (.arp s.net.localIp)) s) ∧
      exec (.otherFrame port (.neighbour s.net.localIp6)) s = .next (emit (.frame port.val (.neighbour s.net.localIp6)) s) ∧
      (∀ t b, t = s.net.localIp ∨ t = s.net.localIp6 →
        exec (.otherFrame port (.echo t b)) s = .next (emit (.frame port.val (.echo t b)) s)) ∧
      (port.val ∈ s.net.probing → exec (.otherFrame port .echoReply) s =
        .next (netMod (fun n => { n with probing := n.probing.filter (· ≠ port.val) }) s)) ∧
      exec (.otherFrame port .pause) s = .next s ∧
      (∀ f, f = .other ∨ f = .overrun ∨ (∃ t, t ≠ s.net.localIp ∧ f = .arp t) ∨ (∃ t, t ≠ s.net.localIp6 ∧ f = .neighbour t) ∨
          (∃ t b, t ≠ s.net.localIp ∧ t ≠ s.net.localIp6 ∧ f = .echo t b) ∨ (port.val ∉ s.net.probing ∧ f = .echoReply) →
        exec (.otherFrame port f) s = .next (odBump (0x2800 + port.val) 5 s))) ∧
    (qpAt s k = some q →
      (maySend q = true → s.mode ≠ .hold → portsDown s = false → (∃ m ∈ q.sendQ, m.sent = true) → isLoop s q = false →
        Retries (.ackTimeout k) s (qpMod k (fun q => { q with timedOut := some s.time }) s) k q) ∧
      (maySend q = false → exec (.ackTimeout k) s = .next s) ∧
      (s.mode ≠ .hold → q.rnrWait = true →
        exec (.rnrTimer k) s = .next (resend k (qpMod k (fun q => { q with rnrWait := false }) s))) ∧
      (q.rnrWait = false → exec (.rnrTimer k) s = .next s) ∧
      (q.path = .rearm → planeFit s (1 - q.plane) = true →
        (planeFit s q.plane = true → q.heldSince = none → exec (.rearm k) s =
          .next (qpMod k (fun q => { q with path := .armed, heldSince := none }) s)) ∧
        (planeFit s q.plane = true → q.heldSince.isSome = true → exec (.rearm k) s =
          .next (resume k (qpMod k (fun q => { q with path := .armed, heldSince := none }) s))) ∧
        (planeFit s q.plane = false → exec (.rearm k) s =
          .next (migrate k (qpMod k (fun q => { q with path := .armed, heldSince := none }) s)))) ∧
      (q.path ≠ .rearm ∨ planeFit s (1 - q.plane) = false → exec (.rearm k) s = .next s) ∧
      (q.heldSince.isSome = true → q.path ≠ .rearm → s.mode ≠ .hold → portsDown s = false →
        exec (.pathHold k) s = .next (qpFail k 0x0701 s)) ∧
      (q.heldSince = none ∨ q.path = .rearm ∨ s.mode = .hold ∨ portsDown s = true → exec (.pathHold k) s = .next s)) ∧
    (∀ (plane : Fin 2) (a b : PortWindow) (r : Nat) (c : State),
      PlanesRun s → c = countFec (2 * plane.val + 1) b (countFec (2 * plane.val) a s) →
      r = (if windowFails c a = 0 then windowFails c b else windowFails c a) →
      (r = 0 → exec (.fitnessWindow plane a b) s = .next c) ∧
      (r ≠ 0 → (planeState c plane.val = 1 ∨ planeState c plane.val = 2) → exec (.fitnessWindow plane a b) s =
        .next (odSet (0x2810 + plane.val) 2 r (odSet (0x2810 + plane.val) 1 1 c))) ∧
      (∀ x, r ≠ 0 → planeState c plane.val ≠ 1 → planeState c plane.val ≠ 2 →
        x = loseStandby plane.val (odSet (0x2810 + plane.val) 2 r (odSet (0x2810 + plane.val) 1 1 c)) →
        exec (.fitnessWindow plane a b) s =
          .next (((x.net.qps.filter fun e => e.2.plane = plane.val).map (·.1)).foldl (fun s q => leavePlane q s) x))) ∧
    (∀ (plane : Fin 2) (target : Nat), target = beNat (leBytes 16 (od s (0x2810 + plane.val) 3)) → PlanesRun s →
      (planeState s plane.val = 1 ∨ planeState s plane.val = 2) → exec (.probe plane) s =
        .next (emit (.frame (2 * plane.val + 1) (.echo target [])) (emit (.frame (2 * plane.val) (.echo target []))
          (netMod (fun n => { n with
            probing := n.probing.filter (fun p => p / 2 ≠ plane.val) ++ [2 * plane.val, 2 * plane.val + 1] })
            (odSet (0x2810 + plane.val) 1 2 s))))) ∧
    (∀ (port : Fin 4) (g : Nat), g = 0x2810 + port.val / 2 →
      (port.val ∈ s.net.probing → exec (.probeTimeout port) s = .next (odBump g 4
        (if planeState s (port.val / 2) = 2 then
          odSet g 1 1 (netMod (fun n => { n with probing := n.probing.filter (· ≠ port.val) }) s)
        else netMod (fun n => { n with probing := n.probing.filter (· ≠ port.val) }) s))) ∧
      (port.val ∉ s.net.probing → exec (.probeTimeout port) s = .next s)) ∧
    (∀ plane : Fin 2,
      (planeState s plane.val = 2 → (∀ x ∈ s.net.probing, x / 2 ≠ plane.val) →
        (∀ e ∈ s.net.qps, e.2.plane = plane.val → e.2.heldSince = none ∨ e.2.err = true) → exec (.repairTime plane) s =
          .next (netMod (fun n => { n with qps := n.qps.map fun e => (e.1, standbyQp plane.val e.2) })
            (odSet (0x2810 + plane.val) 2 0 (odSet (0x2810 + plane.val) 1 3 s)))) ∧
      (planeState s plane.val ≠ 2 ∨ (∃ x ∈ s.net.probing, x / 2 = plane.val) → exec (.repairTime plane) s = .next s)) ∧
    (∀ (port : Fin 4) (up : Bool),
      (od s (0x2800 + port.val) 1 = 1 →
        exec (.portTrainingDone port up) s = .next (odSet (0x2800 + port.val) 1 (if up then 2 else 0) s)) ∧
      (od s (0x2800 + port.val) 1 ≠ 1 → exec (.portTrainingDone port up) s = .next s))

/-- A command of the Kolfer link or the pair that finds its condition completes with its effect. A DATA flit in order
delivers its records and is acknowledged; an acknowledgement frees the flits up to it; a NAK or a timeout replays, and the
fourth replay in a row retrains; training and retraining end in ACTIVE, degraded to four lanes or DOWN (R401 to R404). A
heartbeat leaves, or arrives in time and moves the pairing state; 1 ms without one is the loss of the twin, a heartbeat of the
same moment having won or lost by the order in which they come (R405, R406). While the link unit is as in DORMANT, training
ends in LOW_RATE (R451, Table 20-1). Each
kind of mirror record changes the shadow and is acknowledged, and an acknowledgement ends the waits it covers (R409, R410).
Claims are heard, repeated and made; the switch-over and the waits of start-up end; SYNCING completes; orphaning begins when
its delay has passed (R412 to R419, R438). -/
def Obligations.TwinCommandsComplete : Prop :=
  ∀ (s v : State) (rest : List MItem) (n : Nat),
    (∀ flit : Flit, kolState s = 2 → flit.crcOk = true → v = ackArrives flit.ack s → s.tw.rxSeq = flit.seq → flit.seq < 4096 →
      exec (.dataFlit flit) s = .next (emit (.flit (flitBytes 2 0 flit.seq [])) (twMod (fun w =>
        { w with rxSeq := (flit.seq + 1) % 4096, nakSent := false, received := v.tw.received ++ flit.recs }) v))) ∧
    (∀ flit : Flit, kolState s = 2 → s.tw.nakSent = false →
      (flit.crcOk = false → exec (.dataFlit flit) s = .next (emit (.flit (flitBytes 3 0 (ackSeq s) []))
        (twMod (fun w => { w with nakSent := true }) (odBump 0x2C02 3 s)))) ∧
      (flit.crcOk = true → s.tw.rxSeq ≠ flit.seq → exec (.dataFlit flit) s =
        .next (emit (.flit (flitBytes 3 0 (ackSeq s) [])) (twMod (fun w => { w with nakSent := true }) s)))) ∧
    (∀ ack pre f post, (kolState s = 2 ∧ s.tw.waiting = []) → s.tw.replay = pre ++ (ack, f) :: post →
      (∀ x ∈ pre, x.1 ≠ ack) →
      exec (.idleFlit true ack) s = .next (twMod (fun w => { w with replay := post, replays := 0 }) s) ∧
      (post = [] → exec (.nakFlit true ack) s = .next (twMod (fun w => { w with replay := post, replays := 0 }) s)) ∧
      (post ≠ [] → exec (.nakFlit true ack) s = .next (twMod (fun w => { w with replays := 1 }) (resendFlits
        (odBump 0x2C02 4 (twMod (fun w => { w with replay := post, replays := 0 }) s)))))) ∧
    (kolState s = 2 → s.tw.replay ≠ [] →
      (s.tw.replays + 1 < 4 → exec .replayTimeout s =
        .next (twMod (fun w => { w with replays := s.tw.replays + 1 }) (resendFlits (odBump 0x2C02 4 s)))) ∧
      (4 ≤ s.tw.replays + 1 → exec .replayTimeout s = .next (odBump 0x2C02 5 (odSet 0x2C02 1 3
        (twMod (fun w => { w with replays := 0 }) (resendFlits (odBump 0x2C02 4 s))))))) ∧
    (kolState s = 0 → s.mode ≠ .off → s.mode ≠ .fuseLoad → exec (.trainAttempt true) s = .next (odSet 0x2C02 1 1 s)) ∧
    (∀ lanes : BitVec 8, kolState s = 1 →
      (lanes = 0xFF → lowRate s = false → exec (.trainDone lanes) s =
        .next (flushMirror s.tw.waiting.length (odSet 0x2C02 1 2 (odSet 0x2C02 2 8 s)))) ∧
      (lanes ≠ 0xFF → (lanes &&& 0x0F = 0x0F ∨ lanes &&& 0xF0 = 0xF0) → lowRate s = false → exec (.trainDone lanes) s =
        .next (flushMirror s.tw.waiting.length (odSet 0x2C02 1 2 (odSet 0x2C02 2 4 s)))) ∧
      ((lanes &&& 0x0F = 0x0F ∨ lanes &&& 0xF0 = 0xF0) → lowRate s = true → exec (.trainDone lanes) s =
        .next (odSet 0x2C02 1 4 (odSet 0x2C02 2 1 s))) ∧
      (lanes &&& 0x0F ≠ 0x0F → lanes &&& 0xF0 ≠ 0xF0 → exec (.trainDone lanes) s = .next (linkDown s))) ∧
    (kolState s = 3 →
      exec (.retrainDone true) s = .next (if lowRate s then odSet 0x2C02 1 4 (odSet 0x2C02 2 1 s)
        else flushMirror s.tw.waiting.length (resendFlits (odSet 0x2C02 1 2 s))) ∧
      exec (.retrainDone false) s = .next (linkDown s)) ∧
    ((kolState s = 2 ∨ kolState s = 4) → pairState s ≠ 0 → exec .heartbeatSend s =
      .next (emit (.flit (flitBytes 4 0 (ackSeq s) (heartbeatBody (myHeartbeat s))))
        (twMod (fun w => { w with hbSeq := (w.hbSeq + 1) % 2 ^ 32 }) s))) ∧
    (∀ hb : HeartBeat, (kolState s = 2 ∨ kolState s = 4) → hb.crcOk = true → v = ackArrives hb.ack s →
      hb.pairId = pairId v → hb.side ≠ side v →
      (∀ w, w = twinHeard hb v → (pairState v = 2 ∨ pairState v = 3 → v.time - v.tw.hbAt ≤ lossDelay) →
        (pairState v = 4 → v.tw.lostAt ≠ some v.time) →
        (hb.mode = 7 ∨ hb.mode = 0 → exec (.heartbeat hb) s = .next (declareLoss w)) ∧
        (hb.mode ≠ 7 → hb.mode ≠ 0 → pairState w ≠ 4 → pairState w ≠ 1 → exec (.heartbeat hb) s = .next w) ∧
        (hb.mode ≠ 7 → hb.mode ≠ 0 → pairState w = 4 → exec (.heartbeat hb) s =
          .next (odSet 0x2C00 1 1 (twMod (fun w => { w with fromUnpaired := false }) w))) ∧
        (hb.mode ≠ 7 → hb.mode ≠ 0 → pairState w = 1 → exec (.heartbeat hb) s = .next (enterSync hb w))) ∧
      (pairState v = 2 ∨ pairState v = 3 → lossDelay < v.time - v.tw.hbAt →
        exec (.heartbeat hb) s = .next (declareLoss (odBump 0x2C02 6 v))) ∧
      (pairState v = 4 → v.tw.lostAt = some v.time → exec (.heartbeat hb) s = .next (odBump 0x2C02 6 v))) ∧
    (pairState s = 2 ∨ pairState s = 3 →
      ((s.tw.partner = none ∨ s.tw.hbAt ≠ s.time) →
        exec .twinLoss s = .next (leadAfterLoss false (settlePending (endMirrorWaits (twinGone s))))) ∧
      (s.tw.partner.isSome = true → s.tw.hbAt = s.time → exec .twinLoss s = .next s)) ∧
    (∀ b, NextRecord s n (.entry b) rest → exec .entryRecord s = .next (shadowTaken s n rest (shadowEntry b s.tw.shadow))) ∧
    (∀ b, NextRecord s n (.post b) rest → exec .postRecord s = .next (shadowTaken s n rest (shadowPost b s.tw.shadow))) ∧
    (∀ k sq asn, NextRecord s n (.retire k sq asn) rest →
      exec .retireRecord s = .next (shadowTaken s n rest (shadowRetire k sq asn s.tw.shadow))) ∧
    (∀ k cq q f, NextRecord s n (.queueDef k cq q f) rest →
      exec .queueRecord s = .next (shadowTaken s n rest (shadowQueue k cq q f s.tw.shadow))) ∧
    (∀ k cq q p, NextRecord s n (.queuePos k cq q p) rest →
      exec .queueRecord s = .next (shadowTaken s n rest (shadowPos k cq q p s.tw.shadow))) ∧
    (∀ k a, NextRecord s n (.instAttrs k a) rest → exec .instanceRecord s =
      .next (shadowTaken s n rest { s.tw.shadow with insts := tset s.tw.shadow.insts k a })) ∧
    (∀ p c, NextRecord s n (.floorCounter p c none) rest → exec .floorRecord s =
      .next (shadowTaken (if pairState s = 3 then raiseFloor p c s else s) n rest { s.tw.shadow with
        floors := tset s.tw.shadow.floors p (max c (tget 0 s.tw.shadow.floors p)) })) ∧
    (∀ e p, NextRecord s n (.floorEpoch e p) rest → exec .floorRecord s =
      .next (shadowTaken s n rest { s.tw.shadow with epoch := max s.tw.shadow.epoch e, policy := p })) ∧
    (∀ k, NextRecord s n (.ack k) rest →
      v = twMod (fun w => { w with received := rest, acked := max s.tw.acked k }) s →
      (s.mode ≠ .hold → exec .mirrorAck s =
        .next (claimSecured (mirrorSecured v.tw.acked ((coveredJobs v).foldl (fun w j => waitCovered j w) v)))) ∧
      (s.mode = .hold → exec .mirrorAck s = .next s)) ∧
    (∀ m : ClaimMsg, s.mode ≠ .off → s.mode ≠ .fuseLoad →
      v = twMod (fun w => { w with known := max w.known m.epoch, heard := true }) s →
      (ClaimOfTwin s m → role s = 0 → m.side = 0 → side s = 1 →
        exec (.claimMsg m) s = .next (twMod (fun w => { w with claimWait := false }) v)) ∧
      (ClaimOfTwin s m → role s = 0 → m.side ≠ 0 ∨ side s ≠ 1 → exec (.claimMsg m) s = .next v) ∧
      (ClaimOfTwin s m → role s = 1 → m.side ≠ 0 ∨ side s ≠ 1 → beats m.epoch m.side (od s 0x2C00 4) (side s) = true →
        exec (.claimMsg m) s = .next (odSet 0x2C00 3 0 (twMod (fun w => { w with claims := 0 })
          { v with vd := { v.vd with pairTail := [] } }))) ∧
      (ClaimOfTwin s m → role s = 1 → beats m.epoch m.side (od s 0x2C00 4) (side s) = false → m.side ≠ 0 ∨ side s ≠ 1 →
        exec (.claimMsg m) s = .next v) ∧
      (¬ ClaimOfTwin s m → exec (.claimMsg m) s = .next (odBump 0x1102 7 s))) ∧
    (∀ k, s.tw.claims = k + 1 → exec .claimRepeat s =
      .next (emit (.claim (od s 0x1100 5) (vdpMsg 0x11 0 0 0 (claimBody ⟨od s 0x2C00 4, side s, serial s, pairId s⟩)))
        (twMod (fun w => { w with claims := k }) s))) ∧
    (s.tw.claimWait = true → exec .claimWait s = .next (claimLead s)) ∧
    exec .switchOverEnd s = .next (twMod (fun w => { w with held := none }) s) ∧
    (pairState s = 1 → s.tw.fromUnpaired = true → exec .linkWait s = .next (leadAfterLoss true
      (settlePending (odSet 0x2C00 1 4 (twMod (fun w => { w with fromUnpaired := false }) s))))) ∧
    (pairState s = 2 → s.tw.exchanged = true → s.tw.received = [] → s.tw.intact = true ∨ s.tw.kept = true →
      (∀ j ∈ s.js.jobs, j.jstate ≠ .pending) → s.tw.shadow.floors = [] → s.tw.shadow.epoch ≤ od s 0x2C00 4 →
      role s = 1 ∨ side s = 1 → exec .syncComplete s = .next (odSet 0x2C00 1 3 (twMod (fun w =>
        { w with intact := true, kept := false, lostAt := none, orphaning := false, claimWait := false }) s))) ∧
    (s.mode ≠ .hold → od s 0x2C03 2 ≠ 0 →
      (s.tw.lostAt = none → exec .orphanDelay s = .next s) ∧
      (s.tw.heard = true → s.tw.lostAt.isSome = true →
        exec .orphanDelay s = .next (twMod (fun w => { w with heard := false }) s)) ∧
      (s.tw.heard = false → s.tw.lostAt.isSome = true → pairState s = 4 ∨ pairState s = 1 → s.tw.orphaning = true →
        exec .orphanDelay s = .next (postOrphans s)) ∧
      (s.tw.heard = false → s.tw.lostAt.isSome = true → pairState s = 4 ∨ pairState s = 1 → s.tw.orphaning = false →
        exec .orphanDelay s = .next (postOrphans (postEvent .pair (twMod (fun w => { w with orphaning := true }) s)))))

/-- A command of power, start-up or the pins that finds its condition completes with its effect. A unit that has finished its
action for RUN, DRAIN, DORMANT or FREEZE sets its bit of APPLIED, the last one commits; a deadline rolls back, and the end of
the rollback is the abort (R446, R447, R450). A zone is gated, or wakes (R459, Table 22-6). Supply, temperature, journal and
firmware faults and the loss of TIMEREF are fatal with their reasons, the first fatal error brings HOLD (R453, R455, R458,
R498); readings are kept and excess power is counted (R456, R457). PWRGOOD, SYS_RESET_N and the watchdog reset; fuses, copies,
DRAM bring-up, the end of loading and entry to RUN follow R465, R472, R276 and R473. The TAP answers its instructions (R490),
neighbour and echo requests for the device's own address are answered, requests are served and others dropped (R425, R427). -/
def Obligations.PowerAndBootCommandsComplete : Prop :=
  ∀ (s v : State),
    (∀ u, (UnitDue s u 3 → exec (.unitApplied u) s = .next (commitMode (withApplied u (runAction u.val s)))) ∧
      (UnitDue s u 5 → exec (.unitApplied u) s = .next (commitMode (withApplied u (dormantAction u.val s)))) ∧
      (UnitDue s u 4 ∨ UnitDue s u 6 → exec (.unitApplied u) s = .next (commitMode (withApplied u s)))) ∧
    (s.pw.fatal.isSome = true →
      (∀ u, exec (.unitApplied u) s = .next s) ∧ exec .modeDeadline s = .next s ∧ exec .rollbackDone s = .next s) ∧
    (transition s = 2 → s.pw.fatal = none →
      (od s 0x1300 1 = 5 → exec .modeDeadline s = .next (odSet 0x1300 3 3 (wakeChannels (((List.range 8).filter fun u =>
        (od s 0x1300 4).testBit u && Nat.testBit 0xFC u).foldl (fun w u => runAction u w) s)))) ∧
      (od s 0x1300 1 ≠ 5 → s.mode ≠ .dormant → exec .modeDeadline s = .next (odSet 0x1300 3 3 s))) ∧
    (transition s = 3 → s.pw.fatal = none → exec .rollbackDone s = .next (recordAbort (if s.mode = .freeze then s else resumeFroze s))) ∧
    (∀ z : Fin 16,
      (od s (0x1320 + z.val) 2 = 1 →
        (∀ e ∈ s.js.tasks, e.2.inZone z.val = false ∨ e.2.gated = true ∨ (e.2.run ≠ .running ∧ e.2.run ≠ .ready)) →
        (l2State s z.val = 0 → exec (.zoneGated z) s = .next (odSet (0x1320 + z.val) 2 2 s)) ∧
        (l2State s z.val ≠ 0 → exec (.zoneGated z) s = .next (odSet (0x1320 + z.val) 2 2 (l2DrainDone z.val s)))) ∧
      (od s (0x1320 + z.val) 2 = 3 →
        (l2State s z.val ≠ 0 → v = odSet (0x1320 + z.val) 2 0 s →
          exec (.zoneWake z) s = .next ((slotsWhere v fun t => t.gated).foldl (fun w k => wakeGated k w) v)) ∧
        (l2State s z.val = 0 → v = odSet (0x1320 + z.val) 2 0 (clusterMod z.val (fun _ => {})
            (odSet (0x3480 + z.val) 1 1 (odSet (0x3480 + z.val) 2 1 (odSet (0x3480 + z.val) 4 0 s)))) →
          exec (.zoneWake z) s = .next ((slotsWhere v fun t => t.gated).foldl (fun w k => wakeGated k w) v)))) ∧
    (∀ slot t, taskAt s slot = some t → unitsOn s t = true →
      (t.gated = true → wakeGated slot s = taskMod slot (fun t => { t with gated := false, readyAt := s.time, pass := 0 }) s) ∧
      (t.gated = false → wakeGated slot s = s)) ∧
    (∀ r, s.pw.fatal = some r → s.mode ≠ .hold → s.mode ≠ .off → exec .holdEntry s = .next (enterHold r s)) ∧
    (s.pw.fatal = none → s.mode ≠ .hold → s.mode ≠ .off →
      exec .supplyOutOfSpec s = .next { s with pw := { s.pw with fatal := some 4 } } ∧
      exec (.temperatureOutOfSpec false) s = .next { s with pw := { s.pw with fatal := some 5 } } ∧
      exec (.temperatureOutOfSpec true) s = .next { s with pw := { s.pw with fatal := some 6 } } ∧
      exec .journalEccError s = .next { s with pw := { s.pw with fatal := some 7 } } ∧
      exec .firmwareFault s = .next { s with pw := { s.pw with fatal := some 8 } } ∧
      exec (.refclkLoss .timeref) s = .next { s with pw := { s.pw with fatal := some 4 } }) ∧
    (s.mode ≠ .off →
      exec (.refclkLoss .kol) s = .next (linkDown s) ∧
      exec (.refclkLoss .eth) s = .next (windowEnds 1 deadWindow deadWindow (windowEnds 0 deadWindow deadWindow s)) ∧
      (∀ p : Fin 2, exec (.refclkLoss (.cxl p)) s =
        .next (odSet (0x2411 + 2 * p.val) 1 0 (odSet (0x2411 + 2 * p.val) 2 0
          (odSet (0x2410 + 2 * p.val) 1 0 (odSet (0x2410 + 2 * p.val) 2 0 s)))))) ∧
    (∀ temps package uncore acts factor u, s.mode ≠ .off → s.mode ≠ .fuseLoad →
      v = (List.range 32).foldl (fun w i => readSensor i (temps.getD i none) w) s → u = readPower package uncore acts v →
      exec (.sensorPoll temps package uncore acts factor) s = .next (odSet 0x1310 8 factor u) ∧
      (package ≤ powerLimit u → u.gov.overSince = none) ∧ od u 0x1310 2 = package ∧ od u 0x1310 3 = uncore ∧
      (acts.length = 16 →
        (∀ z < 16, od u (0x1320 + z) 5 = (apportion ((package - uncore) * 1000) acts).getD z 0) ∧
        (apportion ((package - uncore) * 1000) acts).sum = (package - uncore) * 1000)) ∧
    (∀ (r : Fin 2) (p : Fin 64), s.mode = .off → exec (.pwrgoodAssert r p) s =
      .next (odSet 0x2C00 2 r.val (odSet 0x1100 1 p.val (resetDone 1 { s with time := 0 })))) ∧
    (s.mode ≠ .fuseLoad →
      exec .pwrgoodDeassert s = .next { resetDone 1 s with mode := .off } ∧
      (s.mode ≠ .off → exec (.sysResetN true) s =
        .next (resetDone 2 { s with pins := { s.pins with resetLow := true } })) ∧
      (s.mode ≠ .off → exec .watchdogExpiry s = .next (resetDone 3 s))) ∧
    exec (.sysResetN false) s = .next { s with pins := { s.pins with resetLow := false } } ∧
    (∀ fuses errors f, s.mode = .fuseLoad → s.pins.resetLow = false → f = fuses.getD s.bt.fuses →
      (∀ kept u, v = { s with mode := .configLoad, bt := { s.bt with fuses := f } } →
        u = startUp f (fusesLoaded f errors (if kept = true ∧ s.bt.survives = true then
            odSet 0x1200 9 1 (twMod (fun w => { w with kept := true }) v)
          else { v with tw := {}, ms := { s.ms with dram := [], poison := [], planStore := [] } })) →
        (FuseError.otherField ∉ errors → FuseError.mac ∉ errors → exec (.fuseLoadDone fuses errors kept) s = .next u) ∧
        (FuseError.otherField ∈ errors ∨ FuseError.mac ∈ errors →
          exec (.fuseLoadDone fuses errors kept) s = .next (fatal 1 u)))) ∧
    (s.mode = .configLoad → od s 0x1200 1 = 0 →
      (∀ (a b : FlashCopy) octal k, od s 0x1200 2 = 0xFF → v = noteCopies (countCopies { s with bt := { s.bt with copyA := a, copyB := b, octal := octal } }) →
        (newestCopy v = some k → exec (.copyChosen (some (a, b)) octal) s =
          .next (startSplitLinks (odSet 0x1200 2 k (odSet 0x1200 1 0 (loadImage (copyAt v k).bytes v))))) ∧
        (newestCopy v = none → exec (.copyChosen (some (a, b)) octal) s = .next (odSet 0x1200 1 2 v))) ∧
      (∀ octal k, od s 0x1200 2 = 0xFF → v = noteCopies (countCopies { s with bt := { s.bt with octal := octal } }) →
        newestCopy v = some k → exec (.copyChosen none octal) s =
          .next (startSplitLinks (odSet 0x1200 2 k (odSet 0x1200 1 0 (loadImage (copyAt v k).bytes v)))))) ∧
    (∀ spd (bad : BitVec 12) d, CopyLoaded s → d = sectBytes (copyAt s (od s 0x1200 2)).bytes 2 →
      v = odSet 0x2000 5 (failMask s d spd bad.toNat) (writeControlWords d (applyDelays d spd s)) →
      (failMask s d spd bad.toNat ≠ 0 → exec (.dramBringup spd bad) s = .next (odSet 0x1200 1 3 v)) ∧
      (failMask s d spd bad.toNat = 0 → exec (.dramBringup spd bad) s =
        .next (spd.zipIdx.foldl (fun w x => chanMod x.2 (fun ch => { ch with raaLimits := x.1.raa }) w)
          (odSet 0x2000 4 (sectChannelBytes d) { v with bt := { v.bt with dramOk := true } })))) ∧
    (CopyLoaded s → s.bt.dramOk = true →
      v = odSet 0x2C00 4 s.vd.loggedEpoch (odSet 0x1200 1 1 (odSet 0x1200 8 (min (s.time / perMs) (2 ^ 32 - 1)) s)) →
      (pairId v = 0 → exec .loadEnd s = .next v) ∧
      (pairId v ≠ 0 → exec .loadEnd s = .next (odSet 0x2C00 1 1 (twMod (fun w => { w with fromUnpaired := true }) v)))) ∧
    (s.mode = .configLoad → od s 0x1200 1 = 1 → s.cx.perst.contains (od s 0x2400 2) = false →
      (pairId s = 0 ∧ pairState s = 0) ∨ (pairId s ≠ 0 ∧ (pairState s = 3 ∨ pairState s = 4)) →
      exec .runEntry s = .next (odSet 0x2803 1 1 (odSet 0x2802 1 1 (odSet 0x2801 1 1 (odSet 0x2800 1 1 { s with mode := .run }))))) ∧
    (∀ ir e, e = tapEffective s ir → v = { s with pins := { s.pins with tap := e } } →
      (e = .bypass → exec (.tapInstruction ir) s = .next (emit (.tap .bypass 0) v)) ∧
      (e = .idcode → exec (.tapInstruction ir) s = .next (emit (.tap .idcode 0x14812A5F) v)) ∧
      (e = .samplePreload ∨ e = .extest → exec (.tapInstruction ir) s =
        .next (emit (.tap e (Config.freeValue s.freeCtr)) { v with freeCtr := s.freeCtr + 1 }))) ∧
    (s.mode ≠ .off → s.mode ≠ .fuseLoad →
      (∀ a p, ownAddress s a = true →
        exec (.managementFrame (.neighbour a)) s = .next (emit (.mgmtReply (.neighbour a)) s) ∧
        exec (.managementFrame (.echo a p)) s = .next (emit (.mgmtReply (.echo a p)) s)) ∧
      (∀ a p, ownAddress s a = false →
        exec (.managementFrame (.neighbour a)) s = .next s ∧ exec (.managementFrame (.echo a p)) s = .next s) ∧
      (∀ src port m, port ≠ od s 0x1100 5 → exec (.managementFrame (.datagram src port m)) s = .next s) ∧
      (∀ src port m, port = od s 0x1100 5 →
        (headerFits m = false → exec (.managementFrame (.datagram src port m)) s = .next (odBump 0x1102 4 s)) ∧
        (headerFits m = true → fld m 3 1 = 0x10 → od s 0x2C00 6 ≠ 0 → fld m 16 8 = od s 0x2C00 6 →
          exec (.managementFrame (.datagram src port m)) s = .next (twMod (fun w => { w with heard := true }) s)) ∧
        (headerFits m = true → fld m 3 1 = 0x11 → exec (.managementFrame (.datagram src port m)) s =
          .next (if fld m 8 2 = 24 then claimArrives (claimOf (m.drop 16)) s else odBump 0x1102 7 s)) ∧
        (headerFits m = true → fld m 3 1 ≠ 0x10 → fld m 3 1 ≠ 0x11 → notReceived s src m = false →
          s.vd.held = none → s.vd.queue = [] → exec (.managementFrame (.datagram src port m)) s = .next (serveRequest src m s))) ∧
      exec (.managementFrame .other) s = .next s) ∧
    (∀ link, s.mode ≠ .off →
      exec (.plcaBeacon ⟨true, link⟩) s = .next (sendBeacon (odSet 0x1100 4 1 { s with vd := { s.vd with netUp := link } })) ∧
      exec (.plcaBeacon ⟨false, link⟩) s = .next (odSet 0x1100 4 0 { s with vd := { s.vd with netUp := link } }) ∧
      (vdpLive s = true → od s 0x1100 1 = 0 → sendBeacon s = emit (.beacon (od s 0x1100 2)) s) ∧
      (vdpLive s = false ∨ od s 0x1100 1 ≠ 0 → sendBeacon s = s))

/-- On a core that executes its next instruction, with no error in its tile memory: a load at an aligned address of the tile
window that its level is granted completes with the bytes of its own tile memory, zero- or sign-extended, in its
register, and a store completes with the low bytes of its register in that memory (R175, R176, R180, R200). With no
imprecise exception pending, no interrupt taken, no trap enabled, at most 2^20 elements, legal fields, and every array (and every GATHER or
SCATTER target, aligned) in the tile memory, each of the 26 long-vector instructions completes: lvi is 0, the pc moves on,
no f register, no device memory and no g register changes (but g(rc) of COMPRESS), nor, but for SCATTER, tile memory outside
the destination (R208 to R214). -/
def Obligations.TileAccessesComplete : Prop :=
  ∀ (s u : State) (c : CoreId), (core s c).tileBad = [] → u = fetchTouch c s →
    (∀ (rd ra : Reg) (imm : BitVec 16) (a : Nat), CoreReady s c → a = (gGet s c ra + imm.signExtend 64).toNat →
      (InTile s c false a 1 →
        exec (.lb c rd ra imm) s =
          .next (ran c s (gSet c rd (BitVec.ofInt 64 (toSigned 8 (leNat (memTake (core s c).tile (tileOff a) 1)))) u)) ∧
        exec (.lbu c rd ra imm) s =
          .next (ran c s (gSet c rd (BitVec.ofNat 64 (leNat (memTake (core s c).tile (tileOff a) 1))) u))) ∧
      (InTile s c false a 2 → a % 2 = 0 →
        exec (.lh c rd ra imm) s =
          .next (ran c s (gSet c rd (BitVec.ofInt 64 (toSigned 16 (leNat (memTake (core s c).tile (tileOff a) 2)))) u)) ∧
        exec (.lhu c rd ra imm) s =
          .next (ran c s (gSet c rd (BitVec.ofNat 64 (leNat (memTake (core s c).tile (tileOff a) 2))) u))) ∧
      (InTile s c false a 4 → a % 4 = 0 →
        exec (.lw c rd ra imm) s =
          .next (ran c s (gSet c rd (BitVec.ofInt 64 (toSigned 32 (leNat (memTake (core s c).tile (tileOff a) 4)))) u)) ∧
        exec (.lwu c rd ra imm) s =
          .next (ran c s (gSet c rd (BitVec.ofNat 64 (leNat (memTake (core s c).tile (tileOff a) 4))) u)) ∧
        exec (.flw c rd ra imm) s =
          .next (ran c s (fSet c rd (BitVec.ofNat 64 (leNat (memTake (core s c).tile (tileOff a) 4))) u))) ∧
      (InTile s c false a 8 → a % 8 = 0 →
        exec (.ld c rd ra imm) s =
          .next (ran c s (gSet c rd (BitVec.ofNat 64 (leNat (memTake (core s c).tile (tileOff a) 8))) u)) ∧
        exec (.lda c rd ra imm) s =
          .next (ran c s (gSet c rd (BitVec.ofNat 64 (leNat (memTake (core s c).tile (tileOff a) 8))) u)) ∧
        exec (.fld c rd ra imm) s =
          .next (ran c s (fSet c rd (BitVec.ofNat 64 (leNat (memTake (core s c).tile (tileOff a) 8))) u))) ∧
      (InTile s c true a 1 → exec (.sb c rd ra imm) s = .next (ran c s
        (coreMod c (fun k => { k with tile := memPut k.tile (tileOff a) (leBytes 1 (gGet s c rd).toNat) }) u))) ∧
      (InTile s c true a 2 → a % 2 = 0 → exec (.sh c rd ra imm) s = .next (ran c s
        (coreMod c (fun k => { k with tile := memPut k.tile (tileOff a) (leBytes 2 (gGet s c rd).toNat) }) u))) ∧
      (InTile s c true a 4 → a % 4 = 0 →
        exec (.sw c rd ra imm) s = .next (ran c s
          (coreMod c (fun k => { k with tile := memPut k.tile (tileOff a) (leBytes 4 (gGet s c rd).toNat) }) u)) ∧
        exec (.fsw c rd ra imm) s = .next (ran c s
          (coreMod c (fun k => { k with tile := memPut k.tile (tileOff a) (leBytes 4 (fGet s c rd).toNat) }) u))) ∧
      (InTile s c true a 8 → a % 8 = 0 →
        exec (.sd c rd ra imm) s = .next (ran c s
          (coreMod c (fun k => { k with tile := memPut k.tile (tileOff a) (leBytes 8 (gGet s c rd).toNat) }) u)) ∧
        exec (.stl c rd ra imm) s = .next (ran c s
          (coreMod c (fun k => { k with tile := memPut k.tile (tileOff a) (leBytes 8 (gGet s c rd).toNat) }) u)) ∧
        exec (.fsd c rd ra imm) s = .next (ran c s
          (coreMod c (fun k => { k with tile := memPut k.tile (tileOff a) (leBytes 8 (fGet s c rd).toNat) }) u)))) ∧
    (∀ (o : LvOp) (row : LvRow) (n index : Nat), Sound s → CoreClear s c → LvTable c o (dynRound s c) (gGet s c o.rb).toNat row → row.ok →
      n = (gGet s c o.rc).toNat → n ≤ 2 ^ 20 → bitsOf (core s c).pstat.toNat 22 17 = 0 → takesIntr u c = false →
      index = (core s c).lvi.toNat % 2 ^ 32 → (core s c).lvi.toNat / 2 ^ 32 ≤ index →
      LvOperands s c o row.major row.op n index →
      Reaches row.i s fun t => (core t c).lvi = 0 ∧ (core t c).pc = (core s c).pc + 4 ∧ (core t c).f = (core s c).f ∧
        t.ms.dram = s.ms.dram ∧ (∀ r : Reg, row.i ≠ .compress c o ∨ r ≠ o.rc → gGet t c r = gGet s c r) ∧
        (row.i ≠ .scatter c o → ∀ x, (x < tileOff (gGet s c o.rd).toNat ∨
            tileOff (gGet s c o.rd).toNat + (lvBytes row.major row.op n (2 ^ o.esz.val) (gGet s c o.rb).toNat).2.2 ≤ x) →
          memGet (core t c).tile x = memGet (core s c).tile x))
end

