-- ==== Sys2Proof/Laws/Memory.lean ====
section
/-! SUPPORT. Laws of tables and of memory in canonical form. -/

namespace Sys2Proof.Machine

/-! ### Tables -/

theorem tfind_tset_self {α : Type} (t : Tbl α) (k : Nat) (v : α) : tfind (tset t k v) k = some v := by
  induction t with
  | nil => simp [tset, tfind]
  | cons e t ih =>
    obtain ⟨q, w⟩ := e
    simp only [tset]
    split
    · simp [tfind]
    · split
      · simp [tfind]
      · rename_i h1 h2
        have : ¬ q = k := fun h => h2 h.symm
        simp [tfind, this, ih]

theorem tfind_tset_ne {α : Type} (t : Tbl α) (k q : Nat) (v : α) (h : k ≠ q) :
    tfind (tset t k v) q = tfind t q := by
  induction t with
  | nil => simp [tset, tfind, h]
  | cons e t ih =>
    obtain ⟨p, w⟩ := e
    simp only [tset]
    split
    · simp [tfind, h]
    · split
      · rename_i h2
        subst h2
        simp [tfind, h]
      · simp only [tfind, ih]

theorem tget_tset_self {α : Type} (d : α) (t : Tbl α) (k : Nat) (v : α) : tget d (tset t k v) k = v := by
  simp [tget, tfind_tset_self]

theorem tget_tset_ne {α : Type} (d : α) (t : Tbl α) (k q : Nat) (v : α) (h : k ≠ q) :
    tget d (tset t k v) q = tget d t q := by
  simp [tget, tfind_tset_ne t k q v h]

/-- The first key of a sorted table is below every later one. -/
theorem tsorted_cons {α : Type} (k : Nat) (v : α) (t : Tbl α) :
    tsorted ((k, v) :: t) = true ↔ (∀ e ∈ t, k < e.1) ∧ tsorted t = true := by
  induction t generalizing k v with
  | nil => simp [tsorted]
  | cons e t ih =>
    obtain ⟨q, w⟩ := e
    simp only [tsorted, Bool.and_eq_true, decide_eq_true_eq, ih, List.mem_cons, forall_eq_or_imp]
    constructor
    · rintro ⟨h1, h2, h3⟩
      exact ⟨⟨h1, fun x hx => by have := h2 x hx; omega⟩, h2, h3⟩
    · rintro ⟨⟨h1, _⟩, h2, h3⟩
      exact ⟨h1, h2, h3⟩

theorem mem_tset {α : Type} (t : Tbl α) (k : Nat) (v : α) (e : Nat × α) (h : e ∈ tset t k v) :
    e = (k, v) ∨ e ∈ t := by
  induction t with
  | nil => simp only [tset, List.mem_singleton] at h; exact .inl h
  | cons x t ih =>
    obtain ⟨q, w⟩ := x
    simp only [tset] at h
    split at h
    · simpa using h
    · split at h
      · simp only [List.mem_cons] at h ⊢
        rcases h with h | h
        · exact .inl h
        · exact .inr (.inr h)
      · simp only [List.mem_cons] at h ⊢
        rcases h with h | h
        · exact .inr (.inl h)
        · rcases ih h with h | h
          · exact .inl h
          · exact .inr (.inr h)

theorem tsorted_tset {α : Type} (t : Tbl α) (k : Nat) (v : α) (h : tsorted t = true) :
    tsorted (tset t k v) = true := by
  induction t with
  | nil => rfl
  | cons x t ih =>
    obtain ⟨q, w⟩ := x
    have h' := (tsorted_cons q w t).1 h
    simp only [tset]
    split
    · rename_i hk
      refine (tsorted_cons k v _).2 ⟨?_, h⟩
      intro e he
      rcases List.mem_cons.1 he with he | he
      · subst he; exact hk
      · have := h'.1 e he; omega
    · split
      · rename_i hk
        subst hk
        exact (tsorted_cons k v t).2 h'
      · rename_i h1 h2
        refine (tsorted_cons q w _).2 ⟨?_, ih h'.2⟩
        intro e he
        rcases mem_tset t k v e he with he | he
        · subst he; show q < k; omega
        · exact h'.1 e he

theorem all_tset {α : Type} (p : α → Bool) (t : Tbl α) (k : Nat) (v : α) (h : t.all (fun e => p e.2) = true)
    (hv : p v = true) : (tset t k v).all (fun e => p e.2) = true := by
  rw [List.all_eq_true] at h ⊢
  intro e he
  rcases mem_tset t k v e he with he | he
  · subst he; exact hv
  · exact h e he

theorem tfind_mem {α : Type} (t : Tbl α) (k : Nat) (v : α) (h : tfind t k = some v) : (k, v) ∈ t := by
  induction t with
  | nil => simp [tfind] at h
  | cons x t ih =>
    obtain ⟨q, w⟩ := x
    simp only [tfind] at h
    split at h
    · rename_i hk
      subst hk
      simp only [Option.some.injEq] at h
      subst h
      exact List.mem_cons_self
    · exact List.mem_cons_of_mem _ (ih h)

theorem all_tmod {α : Type} (p : α → Bool) (d : α) (t : Tbl α) (k : Nat) (f : α → α)
    (h : t.all (fun e => p e.2) = true) (hd : p d = true) (hf : ∀ a, p a = true → p (f a) = true) :
    (tmod d t k f).all (fun e => p e.2) = true := by
  refine all_tset p t k _ h (hf _ ?_)
  unfold tget
  cases hx : tfind t k with
  | none => exact hd
  | some v => exact List.all_eq_true.1 h _ (tfind_mem t k v hx)

/-! ### Memory -/

theorem memWf_iff (m : List Host.Cell) :
    memWf m = true ↔ tsorted m = true ∧ ∀ c ∈ m, c.2 ≠ 0 := by
  simp [memWf, Bool.and_eq_true, List.all_eq_true]

theorem memCells_wf (a : Nat) (bs : List Byte) :
    tsorted (memCells a bs) = true ∧ ∀ c ∈ memCells a bs, a ≤ c.1 ∧ c.1 < a + bs.length ∧ c.2 ≠ 0 := by
  induction bs generalizing a with
  | nil => simp [memCells, tsorted]
  | cons b bs ih =>
    obtain ⟨h1, h2⟩ := ih (a + 1)
    simp only [memCells]
    split
    · refine ⟨h1, fun c hc => ?_⟩
      have := h2 c hc
      simp only [List.length_cons]
      exact ⟨by omega, by omega, this.2.2⟩
    · rename_i hb
      refine ⟨(tsorted_cons a b _).2 ⟨fun c hc => by have := (h2 c hc).1; omega, h1⟩, fun c hc => ?_⟩
      simp only [List.length_cons]
      rcases List.mem_cons.1 hc with hc | hc
      · subst hc; exact ⟨by simp, by simp, hb⟩
      · have := h2 c hc
        exact ⟨by omega, by omega, this.2.2⟩

theorem tsorted_append {α : Type} (l r : Tbl α) :
    tsorted (l ++ r) = true ↔
      tsorted l = true ∧ tsorted r = true ∧ ∀ a ∈ l, ∀ b ∈ r, a.1 < b.1 := by
  induction l with
  | nil => simp [tsorted]
  | cons x l ih =>
    obtain ⟨k, v⟩ := x
    simp only [List.cons_append, tsorted_cons, ih, List.mem_append, List.mem_cons, forall_eq_or_imp]
    constructor
    · rintro ⟨h1, h2, h3, h4⟩
      exact ⟨⟨fun e he => h1 e (.inl he), h2⟩, h3, fun b hb => h1 b (.inr hb), h4⟩
    · rintro ⟨⟨h1, h2⟩, h3, h4, h5⟩
      exact ⟨fun e he => he.elim (h1 e) (h4 e), h2, h3, h5⟩

theorem tsorted_sublist {α : Type} {l m : Tbl α} (h : l.Sublist m) (hm : tsorted m = true) : tsorted l = true := by
  induction h with
  | slnil => rfl
  | cons x _ ih => exact ih ((tsorted_cons x.1 x.2 _).1 hm).2
  | cons_cons x hl ih =>
    have hm' := (tsorted_cons x.1 x.2 _).1 hm
    exact (tsorted_cons x.1 x.2 _).2 ⟨fun e he => hm'.1 e (hl.subset he), ih hm'.2⟩

theorem dropWhile_low (m : List Host.Cell) (b : Nat) (h : tsorted m = true) :
    ∀ c ∈ m.dropWhile (fun c => c.1 < b), b ≤ c.1 := by
  induction m with
  | nil => simp
  | cons x m ih =>
    have h' := (tsorted_cons x.1 x.2 m).1 h
    intro c hc
    by_cases hx : x.1 < b
    · rw [List.dropWhile_cons_of_pos (by simpa using hx)] at hc
      exact ih h'.2 c hc
    · rw [List.dropWhile_cons_of_neg (by simpa using hx)] at hc
      rcases List.mem_cons.1 hc with hc | hc
      · subst hc; omega
      · have := h'.1 c hc; omega

theorem takeWhile_low (m : List Host.Cell) (b : Nat) : ∀ c ∈ m.takeWhile (fun c => c.1 < b), c.1 < b := by
  intro c hc
  have := List.mem_takeWhile_imp hc
  simpa using this

/-- A store keeps the canonical form. -/
theorem memPut_wf (m : List Host.Cell) (a : Nat) (bs : List Byte) (h : memWf m = true) :
    memWf (memPut m a bs) = true := by
  rw [memWf_iff] at h ⊢
  obtain ⟨hs, hn⟩ := h
  obtain ⟨c1, c2⟩ := memCells_wf a bs
  have ht := takeWhile_low m a
  have hd := dropWhile_low m (a + bs.length) hs
  unfold memPut
  refine ⟨?_, ?_⟩
  · rw [tsorted_append, tsorted_append]
    refine ⟨⟨tsorted_sublist (List.takeWhile_sublist _) hs, c1, ?_⟩,
      tsorted_sublist (List.dropWhile_sublist _) hs, ?_⟩
    · intro x hx y hy
      have := ht x hx
      have := (c2 y hy).1
      omega
    · intro x hx y hy
      have hy' := hd y hy
      rcases List.mem_append.1 hx with hx | hx
      · have := ht x hx; omega
      · have := (c2 x hx).2.1; omega
  · intro c hc
    rcases List.mem_append.1 hc with hc | hc
    · rcases List.mem_append.1 hc with hc | hc
      · exact hn c ((List.takeWhile_sublist _).subset hc)
      · exact (c2 c hc).2.2
    · exact hn c ((List.dropWhile_sublist _).subset hc)

theorem tfind_append {α : Type} (l r : Tbl α) (k : Nat) :
    tfind (l ++ r) k = (tfind l k).or (tfind r k) := by
  induction l with
  | nil => simp [tfind]
  | cons x l ih =>
    obtain ⟨q, w⟩ := x
    simp only [List.cons_append, tfind]
    split <;> simp [ih]

theorem tfind_none {α : Type} (t : Tbl α) (k : Nat) (h : ∀ e ∈ t, e.1 ≠ k) : tfind t k = none := by
  induction t with
  | nil => rfl
  | cons x t ih =>
    obtain ⟨q, w⟩ := x
    have hq : ¬ q = k := h (q, w) List.mem_cons_self
    simp only [tfind, hq, if_false]
    exact ih fun e he => h e (List.mem_cons_of_mem _ he)

theorem memGet_memCells (a : Nat) (bs : List Byte) (x : Nat) :
    tget 0 (memCells a bs) x = if a ≤ x ∧ x < a + bs.length then bs.getD (x - a) 0 else 0 := by
  induction bs generalizing a with
  | nil => simp [memCells, tget, tfind]
  | cons b bs ih =>
    have ih' := ih (a + 1)
    have hlen : (b :: bs).length = bs.length + 1 := rfl
    simp only [memCells]
    by_cases hx : x = a
    · subst hx
      have hnone : tfind (memCells (x + 1) bs) x = none :=
        tfind_none _ _ fun e he => by have := ((memCells_wf (x + 1) bs).2 e he).1; omega
      split
      · rename_i hb
        simp [tget, hnone, hb]
      · simp [tget, tfind]
    · have step : tget 0 (if b = 0 then memCells (a + 1) bs else (a, b) :: memCells (a + 1) bs) x
          = tget 0 (memCells (a + 1) bs) x := by
        split
        · rfl
        · have : ¬ a = x := fun h => hx h.symm
          simp [tget, tfind, this]
      rw [step, ih']
      by_cases hr : a + 1 ≤ x ∧ x < a + 1 + bs.length
      · rw [if_pos hr, if_pos (by omega)]
        obtain ⟨d, rfl⟩ : ∃ d, x = a + 1 + d := ⟨x - (a + 1), by omega⟩
        have h1 : a + 1 + d - (a + 1) = d := by omega
        have h2 : a + 1 + d - a = d + 1 := by omega
        rw [h1, h2]
        rfl
      · rw [if_neg hr, if_neg (by omega)]

/-- A read after a store: the stored byte within the stored range, the old byte elsewhere. -/
theorem memGet_memPut (m : List Host.Cell) (a : Nat) (bs : List Byte) (x : Nat) (h : tsorted m = true) :
    memGet (memPut m a bs) x = if a ≤ x ∧ x < a + bs.length then bs.getD (x - a) 0 else memGet m x := by
  have hd := dropWhile_low m (a + bs.length) h
  have ht := takeWhile_low m a
  have hsplit : ∀ (b : Nat), tfind m x =
      (tfind (m.takeWhile fun c => c.1 < b) x).or (tfind (m.dropWhile fun c => c.1 < b) x) := by
    intro b
    rw [← tfind_append, List.takeWhile_append_dropWhile]
  have hc := memGet_memCells a bs x
  unfold memGet memPut tget
  rw [tfind_append, tfind_append]
  by_cases hr : a ≤ x ∧ x < a + bs.length
  · rw [if_pos hr] at hc ⊢
    have h1 : tfind (m.takeWhile fun c => c.1 < a) x = none :=
      tfind_none _ _ fun e he => by have := ht e he; omega
    have h2 : tfind (m.dropWhile fun c => c.1 < a + bs.length) x = none :=
      tfind_none _ _ fun e he => by have := hd e he; omega
    rw [h1, h2]
    unfold tget at hc
    simpa using hc
  · rw [if_neg hr]
    have h1 : tfind (memCells a bs) x = none :=
      tfind_none _ _ fun e he => by have := (memCells_wf a bs).2 e he; omega
    rw [h1]
    by_cases hlow : x < a
    · have h2 : tfind (m.dropWhile fun c => c.1 < a + bs.length) x = none :=
        tfind_none _ _ fun e he => by have := hd e he; omega
      have h3 : tfind (m.dropWhile fun c => c.1 < a) x = none :=
        tfind_none _ _ fun e he => by have := dropWhile_low m a h e he; omega
      rw [hsplit a, h2, h3]
      simp
    · have h2 : tfind (m.takeWhile fun c => c.1 < a) x = none :=
        tfind_none _ _ fun e he => by have := ht e he; omega
      have h3 : tfind (m.takeWhile fun c => c.1 < a + bs.length) x = none :=
        tfind_none _ _ fun e he => by have := takeWhile_low m (a + bs.length) e he; omega
      rw [hsplit (a + bs.length), h2, h3]
      simp

end Sys2Proof.Machine
end

