-- ==== Sys2Proof/Laws/State.lean ====
section
/-! SUPPORT. What each update of the state leaves in each field, and what a read after a write gives. -/

namespace Sys2Proof.Machine

/-! ### odSet -/

@[simp] theorem odSet_pending (idx sub v : Nat) (s : State) : (odSet idx sub v s).pending = s.pending := rfl
@[simp] theorem odSet_out (idx sub v : Nat) (s : State) : (odSet idx sub v s).out = s.out := rfl
@[simp] theorem odSet_freeCtr (idx sub v : Nat) (s : State) : (odSet idx sub v s).freeCtr = s.freeCtr := rfl
@[simp] theorem odSet_time (idx sub v : Nat) (s : State) : (odSet idx sub v s).time = s.time := rfl
@[simp] theorem odSet_mode (idx sub v : Nat) (s : State) : (odSet idx sub v s).mode = s.mode := rfl
@[simp] theorem odSet_od (idx sub v : Nat) (s : State) : (odSet idx sub v s).od = tset s.od (odKey idx sub) v := rfl
@[simp] theorem odSet_ms (idx sub v : Nat) (s : State) : (odSet idx sub v s).ms = s.ms := rfl
@[simp] theorem odSet_cores (idx sub v : Nat) (s : State) : (odSet idx sub v s).cores = s.cores := rfl
@[simp] theorem odSet_clusters (idx sub v : Nat) (s : State) : (odSet idx sub v s).clusters = s.clusters := rfl
@[simp] theorem odSet_js (idx sub v : Nat) (s : State) : (odSet idx sub v s).js = s.js := rfl
@[simp] theorem odSet_gov (idx sub v : Nat) (s : State) : (odSet idx sub v s).gov = s.gov := rfl
@[simp] theorem odSet_tw (idx sub v : Nat) (s : State) : (odSet idx sub v s).tw = s.tw := rfl
@[simp] theorem odSet_net (idx sub v : Nat) (s : State) : (odSet idx sub v s).net = s.net := rfl
@[simp] theorem odSet_pw (idx sub v : Nat) (s : State) : (odSet idx sub v s).pw = s.pw := rfl
@[simp] theorem odSet_vd (idx sub v : Nat) (s : State) : (odSet idx sub v s).vd = s.vd := rfl
@[simp] theorem odSet_cx (idx sub v : Nat) (s : State) : (odSet idx sub v s).cx = s.cx := rfl
@[simp] theorem odSet_dr (idx sub v : Nat) (s : State) : (odSet idx sub v s).dr = s.dr := rfl
@[simp] theorem odSet_bt (idx sub v : Nat) (s : State) : (odSet idx sub v s).bt = s.bt := rfl
@[simp] theorem odSet_pins (idx sub v : Nat) (s : State) : (odSet idx sub v s).pins = s.pins := rfl
@[simp] theorem odSet_ras (idx sub v : Nat) (s : State) : (odSet idx sub v s).ras = s.ras := rfl

/-! ### odAdd -/

@[simp] theorem odAdd_pending (idx sub n : Nat) (s : State) : (odAdd idx sub n s).pending = s.pending := rfl
@[simp] theorem odAdd_out (idx sub n : Nat) (s : State) : (odAdd idx sub n s).out = s.out := rfl
@[simp] theorem odAdd_freeCtr (idx sub n : Nat) (s : State) : (odAdd idx sub n s).freeCtr = s.freeCtr := rfl
@[simp] theorem odAdd_time (idx sub n : Nat) (s : State) : (odAdd idx sub n s).time = s.time := rfl
@[simp] theorem odAdd_mode (idx sub n : Nat) (s : State) : (odAdd idx sub n s).mode = s.mode := rfl
@[simp] theorem odAdd_od (idx sub n : Nat) (s : State) :
    (odAdd idx sub n s).od = tset s.od (odKey idx sub) ((od s idx sub + n) % 2 ^ 64) := rfl
@[simp] theorem odAdd_ms (idx sub n : Nat) (s : State) : (odAdd idx sub n s).ms = s.ms := rfl
@[simp] theorem odAdd_cores (idx sub n : Nat) (s : State) : (odAdd idx sub n s).cores = s.cores := rfl
@[simp] theorem odAdd_clusters (idx sub n : Nat) (s : State) : (odAdd idx sub n s).clusters = s.clusters := rfl
@[simp] theorem odAdd_js (idx sub n : Nat) (s : State) : (odAdd idx sub n s).js = s.js := rfl
@[simp] theorem odAdd_gov (idx sub n : Nat) (s : State) : (odAdd idx sub n s).gov = s.gov := rfl
@[simp] theorem odAdd_tw (idx sub n : Nat) (s : State) : (odAdd idx sub n s).tw = s.tw := rfl
@[simp] theorem odAdd_net (idx sub n : Nat) (s : State) : (odAdd idx sub n s).net = s.net := rfl
@[simp] theorem odAdd_pw (idx sub n : Nat) (s : State) : (odAdd idx sub n s).pw = s.pw := rfl
@[simp] theorem odAdd_vd (idx sub n : Nat) (s : State) : (odAdd idx sub n s).vd = s.vd := rfl
@[simp] theorem odAdd_cx (idx sub n : Nat) (s : State) : (odAdd idx sub n s).cx = s.cx := rfl
@[simp] theorem odAdd_dr (idx sub n : Nat) (s : State) : (odAdd idx sub n s).dr = s.dr := rfl
@[simp] theorem odAdd_bt (idx sub n : Nat) (s : State) : (odAdd idx sub n s).bt = s.bt := rfl
@[simp] theorem odAdd_pins (idx sub n : Nat) (s : State) : (odAdd idx sub n s).pins = s.pins := rfl
@[simp] theorem odAdd_ras (idx sub n : Nat) (s : State) : (odAdd idx sub n s).ras = s.ras := rfl

/-! ### odBump -/

@[simp] theorem odBump_pending (idx sub : Nat) (s : State) : (odBump idx sub s).pending = s.pending := rfl
@[simp] theorem odBump_out (idx sub : Nat) (s : State) : (odBump idx sub s).out = s.out := rfl
@[simp] theorem odBump_freeCtr (idx sub : Nat) (s : State) : (odBump idx sub s).freeCtr = s.freeCtr := rfl
@[simp] theorem odBump_time (idx sub : Nat) (s : State) : (odBump idx sub s).time = s.time := rfl
@[simp] theorem odBump_mode (idx sub : Nat) (s : State) : (odBump idx sub s).mode = s.mode := rfl
@[simp] theorem odBump_od (idx sub : Nat) (s : State) :
    (odBump idx sub s).od = tset s.od (odKey idx sub) ((od s idx sub + 1) % 2 ^ 64) := rfl
@[simp] theorem odBump_ms (idx sub : Nat) (s : State) : (odBump idx sub s).ms = s.ms := rfl
@[simp] theorem odBump_cores (idx sub : Nat) (s : State) : (odBump idx sub s).cores = s.cores := rfl
@[simp] theorem odBump_clusters (idx sub : Nat) (s : State) : (odBump idx sub s).clusters = s.clusters := rfl
@[simp] theorem odBump_js (idx sub : Nat) (s : State) : (odBump idx sub s).js = s.js := rfl
@[simp] theorem odBump_gov (idx sub : Nat) (s : State) : (odBump idx sub s).gov = s.gov := rfl
@[simp] theorem odBump_tw (idx sub : Nat) (s : State) : (odBump idx sub s).tw = s.tw := rfl
@[simp] theorem odBump_net (idx sub : Nat) (s : State) : (odBump idx sub s).net = s.net := rfl
@[simp] theorem odBump_pw (idx sub : Nat) (s : State) : (odBump idx sub s).pw = s.pw := rfl
@[simp] theorem odBump_vd (idx sub : Nat) (s : State) : (odBump idx sub s).vd = s.vd := rfl
@[simp] theorem odBump_cx (idx sub : Nat) (s : State) : (odBump idx sub s).cx = s.cx := rfl
@[simp] theorem odBump_dr (idx sub : Nat) (s : State) : (odBump idx sub s).dr = s.dr := rfl
@[simp] theorem odBump_bt (idx sub : Nat) (s : State) : (odBump idx sub s).bt = s.bt := rfl
@[simp] theorem odBump_pins (idx sub : Nat) (s : State) : (odBump idx sub s).pins = s.pins := rfl
@[simp] theorem odBump_ras (idx sub : Nat) (s : State) : (odBump idx sub s).ras = s.ras := rfl

/-! ### emit -/

@[simp] theorem emit_pending (m : OutMsg) (s : State) : (emit m s).pending = s.pending := rfl
@[simp] theorem emit_out (m : OutMsg) (s : State) : (emit m s).out = m :: s.out := rfl
@[simp] theorem emit_freeCtr (m : OutMsg) (s : State) : (emit m s).freeCtr = s.freeCtr := rfl
@[simp] theorem emit_time (m : OutMsg) (s : State) : (emit m s).time = s.time := rfl
@[simp] theorem emit_mode (m : OutMsg) (s : State) : (emit m s).mode = s.mode := rfl
@[simp] theorem emit_od (m : OutMsg) (s : State) : (emit m s).od = s.od := rfl
@[simp] theorem emit_ms (m : OutMsg) (s : State) : (emit m s).ms = s.ms := rfl
@[simp] theorem emit_cores (m : OutMsg) (s : State) : (emit m s).cores = s.cores := rfl
@[simp] theorem emit_clusters (m : OutMsg) (s : State) : (emit m s).clusters = s.clusters := rfl
@[simp] theorem emit_js (m : OutMsg) (s : State) : (emit m s).js = s.js := rfl
@[simp] theorem emit_gov (m : OutMsg) (s : State) : (emit m s).gov = s.gov := rfl
@[simp] theorem emit_tw (m : OutMsg) (s : State) : (emit m s).tw = s.tw := rfl
@[simp] theorem emit_net (m : OutMsg) (s : State) : (emit m s).net = s.net := rfl
@[simp] theorem emit_pw (m : OutMsg) (s : State) : (emit m s).pw = s.pw := rfl
@[simp] theorem emit_vd (m : OutMsg) (s : State) : (emit m s).vd = s.vd := rfl
@[simp] theorem emit_cx (m : OutMsg) (s : State) : (emit m s).cx = s.cx := rfl
@[simp] theorem emit_dr (m : OutMsg) (s : State) : (emit m s).dr = s.dr := rfl
@[simp] theorem emit_bt (m : OutMsg) (s : State) : (emit m s).bt = s.bt := rfl
@[simp] theorem emit_pins (m : OutMsg) (s : State) : (emit m s).pins = s.pins := rfl
@[simp] theorem emit_ras (m : OutMsg) (s : State) : (emit m s).ras = s.ras := rfl

/-! ### instMod -/

@[simp] theorem instMod_pending (n : Nat) (f : InstState → InstState) (s : State) :
    (instMod n f s).pending = s.pending := rfl
@[simp] theorem instMod_out (n : Nat) (f : InstState → InstState) (s : State) : (instMod n f s).out = s.out := rfl
@[simp] theorem instMod_freeCtr (n : Nat) (f : InstState → InstState) (s : State) :
    (instMod n f s).freeCtr = s.freeCtr := rfl
@[simp] theorem instMod_time (n : Nat) (f : InstState → InstState) (s : State) : (instMod n f s).time = s.time := rfl
@[simp] theorem instMod_mode (n : Nat) (f : InstState → InstState) (s : State) : (instMod n f s).mode = s.mode := rfl
@[simp] theorem instMod_od (n : Nat) (f : InstState → InstState) (s : State) : (instMod n f s).od = s.od := rfl
@[simp] theorem instMod_ms (n : Nat) (f : InstState → InstState) (s : State) : (instMod n f s).ms = s.ms := rfl
@[simp] theorem instMod_cores (n : Nat) (f : InstState → InstState) (s : State) :
    (instMod n f s).cores = s.cores := rfl
@[simp] theorem instMod_clusters (n : Nat) (f : InstState → InstState) (s : State) :
    (instMod n f s).clusters = s.clusters := rfl
@[simp] theorem instMod_js (n : Nat) (f : InstState → InstState) (s : State) :
    (instMod n f s).js = { s.js with insts := tmod {} s.js.insts n f } := rfl
@[simp] theorem instMod_gov (n : Nat) (f : InstState → InstState) (s : State) : (instMod n f s).gov = s.gov := rfl
@[simp] theorem instMod_tw (n : Nat) (f : InstState → InstState) (s : State) : (instMod n f s).tw = s.tw := rfl
@[simp] theorem instMod_net (n : Nat) (f : InstState → InstState) (s : State) : (instMod n f s).net = s.net := rfl
@[simp] theorem instMod_pw (n : Nat) (f : InstState → InstState) (s : State) : (instMod n f s).pw = s.pw := rfl
@[simp] theorem instMod_vd (n : Nat) (f : InstState → InstState) (s : State) : (instMod n f s).vd = s.vd := rfl
@[simp] theorem instMod_cx (n : Nat) (f : InstState → InstState) (s : State) : (instMod n f s).cx = s.cx := rfl
@[simp] theorem instMod_dr (n : Nat) (f : InstState → InstState) (s : State) : (instMod n f s).dr = s.dr := rfl
@[simp] theorem instMod_bt (n : Nat) (f : InstState → InstState) (s : State) : (instMod n f s).bt = s.bt := rfl
@[simp] theorem instMod_pins (n : Nat) (f : InstState → InstState) (s : State) : (instMod n f s).pins = s.pins := rfl
@[simp] theorem instMod_ras (n : Nat) (f : InstState → InstState) (s : State) : (instMod n f s).ras = s.ras := rfl

/-! ### coreMod -/

@[simp] theorem coreMod_pending (c : CoreId) (f : Core → Core) (s : State) :
    (coreMod c f s).pending = s.pending := rfl
@[simp] theorem coreMod_out (c : CoreId) (f : Core → Core) (s : State) : (coreMod c f s).out = s.out := rfl
@[simp] theorem coreMod_freeCtr (c : CoreId) (f : Core → Core) (s : State) :
    (coreMod c f s).freeCtr = s.freeCtr := rfl
@[simp] theorem coreMod_time (c : CoreId) (f : Core → Core) (s : State) : (coreMod c f s).time = s.time := rfl
@[simp] theorem coreMod_mode (c : CoreId) (f : Core → Core) (s : State) : (coreMod c f s).mode = s.mode := rfl
@[simp] theorem coreMod_od (c : CoreId) (f : Core → Core) (s : State) : (coreMod c f s).od = s.od := rfl
@[simp] theorem coreMod_ms (c : CoreId) (f : Core → Core) (s : State) : (coreMod c f s).ms = s.ms := rfl
@[simp] theorem coreMod_cores (c : CoreId) (f : Core → Core) (s : State) :
    (coreMod c f s).cores = tmod {} s.cores c.val f := rfl
@[simp] theorem coreMod_clusters (c : CoreId) (f : Core → Core) (s : State) :
    (coreMod c f s).clusters = s.clusters := rfl
@[simp] theorem coreMod_js (c : CoreId) (f : Core → Core) (s : State) : (coreMod c f s).js = s.js := rfl
@[simp] theorem coreMod_gov (c : CoreId) (f : Core → Core) (s : State) : (coreMod c f s).gov = s.gov := rfl
@[simp] theorem coreMod_tw (c : CoreId) (f : Core → Core) (s : State) : (coreMod c f s).tw = s.tw := rfl
@[simp] theorem coreMod_net (c : CoreId) (f : Core → Core) (s : State) : (coreMod c f s).net = s.net := rfl
@[simp] theorem coreMod_pw (c : CoreId) (f : Core → Core) (s : State) : (coreMod c f s).pw = s.pw := rfl
@[simp] theorem coreMod_vd (c : CoreId) (f : Core → Core) (s : State) : (coreMod c f s).vd = s.vd := rfl
@[simp] theorem coreMod_cx (c : CoreId) (f : Core → Core) (s : State) : (coreMod c f s).cx = s.cx := rfl
@[simp] theorem coreMod_dr (c : CoreId) (f : Core → Core) (s : State) : (coreMod c f s).dr = s.dr := rfl
@[simp] theorem coreMod_bt (c : CoreId) (f : Core → Core) (s : State) : (coreMod c f s).bt = s.bt := rfl
@[simp] theorem coreMod_pins (c : CoreId) (f : Core → Core) (s : State) : (coreMod c f s).pins = s.pins := rfl
@[simp] theorem coreMod_ras (c : CoreId) (f : Core → Core) (s : State) : (coreMod c f s).ras = s.ras := rfl

/-! ### clusterMod -/

@[simp] theorem clusterMod_pending (k : Nat) (f : Cluster → Cluster) (s : State) :
    (clusterMod k f s).pending = s.pending := rfl
@[simp] theorem clusterMod_out (k : Nat) (f : Cluster → Cluster) (s : State) : (clusterMod k f s).out = s.out := rfl
@[simp] theorem clusterMod_freeCtr (k : Nat) (f : Cluster → Cluster) (s : State) :
    (clusterMod k f s).freeCtr = s.freeCtr := rfl
@[simp] theorem clusterMod_time (k : Nat) (f : Cluster → Cluster) (s : State) :
    (clusterMod k f s).time = s.time := rfl
@[simp] theorem clusterMod_mode (k : Nat) (f : Cluster → Cluster) (s : State) :
    (clusterMod k f s).mode = s.mode := rfl
@[simp] theorem clusterMod_od (k : Nat) (f : Cluster → Cluster) (s : State) : (clusterMod k f s).od = s.od := rfl
@[simp] theorem clusterMod_ms (k : Nat) (f : Cluster → Cluster) (s : State) : (clusterMod k f s).ms = s.ms := rfl
@[simp] theorem clusterMod_cores (k : Nat) (f : Cluster → Cluster) (s : State) :
    (clusterMod k f s).cores = s.cores := rfl
@[simp] theorem clusterMod_clusters (k : Nat) (f : Cluster → Cluster) (s : State) :
    (clusterMod k f s).clusters = tmod {} s.clusters k f := rfl
@[simp] theorem clusterMod_js (k : Nat) (f : Cluster → Cluster) (s : State) : (clusterMod k f s).js = s.js := rfl
@[simp] theorem clusterMod_gov (k : Nat) (f : Cluster → Cluster) (s : State) : (clusterMod k f s).gov = s.gov := rfl
@[simp] theorem clusterMod_tw (k : Nat) (f : Cluster → Cluster) (s : State) : (clusterMod k f s).tw = s.tw := rfl
@[simp] theorem clusterMod_net (k : Nat) (f : Cluster → Cluster) (s : State) : (clusterMod k f s).net = s.net := rfl
@[simp] theorem clusterMod_pw (k : Nat) (f : Cluster → Cluster) (s : State) : (clusterMod k f s).pw = s.pw := rfl
@[simp] theorem clusterMod_vd (k : Nat) (f : Cluster → Cluster) (s : State) : (clusterMod k f s).vd = s.vd := rfl
@[simp] theorem clusterMod_cx (k : Nat) (f : Cluster → Cluster) (s : State) : (clusterMod k f s).cx = s.cx := rfl
@[simp] theorem clusterMod_dr (k : Nat) (f : Cluster → Cluster) (s : State) : (clusterMod k f s).dr = s.dr := rfl
@[simp] theorem clusterMod_bt (k : Nat) (f : Cluster → Cluster) (s : State) : (clusterMod k f s).bt = s.bt := rfl
@[simp] theorem clusterMod_pins (k : Nat) (f : Cluster → Cluster) (s : State) :
    (clusterMod k f s).pins = s.pins := rfl
@[simp] theorem clusterMod_ras (k : Nat) (f : Cluster → Cluster) (s : State) : (clusterMod k f s).ras = s.ras := rfl

/-! ### taskMod -/

@[simp] theorem taskMod_pending (slot : Nat) (f : Task → Task) (s : State) :
    (taskMod slot f s).pending = s.pending := rfl
@[simp] theorem taskMod_out (slot : Nat) (f : Task → Task) (s : State) : (taskMod slot f s).out = s.out := rfl
@[simp] theorem taskMod_freeCtr (slot : Nat) (f : Task → Task) (s : State) :
    (taskMod slot f s).freeCtr = s.freeCtr := rfl
@[simp] theorem taskMod_time (slot : Nat) (f : Task → Task) (s : State) : (taskMod slot f s).time = s.time := rfl
@[simp] theorem taskMod_mode (slot : Nat) (f : Task → Task) (s : State) : (taskMod slot f s).mode = s.mode := rfl
@[simp] theorem taskMod_od (slot : Nat) (f : Task → Task) (s : State) : (taskMod slot f s).od = s.od := rfl
@[simp] theorem taskMod_ms (slot : Nat) (f : Task → Task) (s : State) : (taskMod slot f s).ms = s.ms := rfl
@[simp] theorem taskMod_cores (slot : Nat) (f : Task → Task) (s : State) : (taskMod slot f s).cores = s.cores := rfl
@[simp] theorem taskMod_clusters (slot : Nat) (f : Task → Task) (s : State) :
    (taskMod slot f s).clusters = s.clusters := rfl
@[simp] theorem taskMod_js (slot : Nat) (f : Task → Task) (s : State) :
    (taskMod slot f s).js = { s.js with tasks := s.js.tasks.map fun (k, t) => if k = slot then (k, f t) else (k, t) } := rfl
@[simp] theorem taskMod_gov (slot : Nat) (f : Task → Task) (s : State) : (taskMod slot f s).gov = s.gov := rfl
@[simp] theorem taskMod_tw (slot : Nat) (f : Task → Task) (s : State) : (taskMod slot f s).tw = s.tw := rfl
@[simp] theorem taskMod_net (slot : Nat) (f : Task → Task) (s : State) : (taskMod slot f s).net = s.net := rfl
@[simp] theorem taskMod_pw (slot : Nat) (f : Task → Task) (s : State) : (taskMod slot f s).pw = s.pw := rfl
@[simp] theorem taskMod_vd (slot : Nat) (f : Task → Task) (s : State) : (taskMod slot f s).vd = s.vd := rfl
@[simp] theorem taskMod_cx (slot : Nat) (f : Task → Task) (s : State) : (taskMod slot f s).cx = s.cx := rfl
@[simp] theorem taskMod_dr (slot : Nat) (f : Task → Task) (s : State) : (taskMod slot f s).dr = s.dr := rfl
@[simp] theorem taskMod_bt (slot : Nat) (f : Task → Task) (s : State) : (taskMod slot f s).bt = s.bt := rfl
@[simp] theorem taskMod_pins (slot : Nat) (f : Task → Task) (s : State) : (taskMod slot f s).pins = s.pins := rfl
@[simp] theorem taskMod_ras (slot : Nat) (f : Task → Task) (s : State) : (taskMod slot f s).ras = s.ras := rfl

/-! ### jobMod -/

@[simp] theorem jobMod_pending (jid : Nat) (f : Job → Job) (s : State) : (jobMod jid f s).pending = s.pending := rfl
@[simp] theorem jobMod_out (jid : Nat) (f : Job → Job) (s : State) : (jobMod jid f s).out = s.out := rfl
@[simp] theorem jobMod_freeCtr (jid : Nat) (f : Job → Job) (s : State) : (jobMod jid f s).freeCtr = s.freeCtr := rfl
@[simp] theorem jobMod_time (jid : Nat) (f : Job → Job) (s : State) : (jobMod jid f s).time = s.time := rfl
@[simp] theorem jobMod_mode (jid : Nat) (f : Job → Job) (s : State) : (jobMod jid f s).mode = s.mode := rfl
@[simp] theorem jobMod_od (jid : Nat) (f : Job → Job) (s : State) : (jobMod jid f s).od = s.od := rfl
@[simp] theorem jobMod_ms (jid : Nat) (f : Job → Job) (s : State) : (jobMod jid f s).ms = s.ms := rfl
@[simp] theorem jobMod_cores (jid : Nat) (f : Job → Job) (s : State) : (jobMod jid f s).cores = s.cores := rfl
@[simp] theorem jobMod_clusters (jid : Nat) (f : Job → Job) (s : State) :
    (jobMod jid f s).clusters = s.clusters := rfl
@[simp] theorem jobMod_js (jid : Nat) (f : Job → Job) (s : State) :
    (jobMod jid f s).js = { s.js with jobs := s.js.jobs.map fun j => if j.jid = jid then f j else j } := rfl
@[simp] theorem jobMod_gov (jid : Nat) (f : Job → Job) (s : State) : (jobMod jid f s).gov = s.gov := rfl
@[simp] theorem jobMod_tw (jid : Nat) (f : Job → Job) (s : State) : (jobMod jid f s).tw = s.tw := rfl
@[simp] theorem jobMod_net (jid : Nat) (f : Job → Job) (s : State) : (jobMod jid f s).net = s.net := rfl
@[simp] theorem jobMod_pw (jid : Nat) (f : Job → Job) (s : State) : (jobMod jid f s).pw = s.pw := rfl
@[simp] theorem jobMod_vd (jid : Nat) (f : Job → Job) (s : State) : (jobMod jid f s).vd = s.vd := rfl
@[simp] theorem jobMod_cx (jid : Nat) (f : Job → Job) (s : State) : (jobMod jid f s).cx = s.cx := rfl
@[simp] theorem jobMod_dr (jid : Nat) (f : Job → Job) (s : State) : (jobMod jid f s).dr = s.dr := rfl
@[simp] theorem jobMod_bt (jid : Nat) (f : Job → Job) (s : State) : (jobMod jid f s).bt = s.bt := rfl
@[simp] theorem jobMod_pins (jid : Nat) (f : Job → Job) (s : State) : (jobMod jid f s).pins = s.pins := rfl
@[simp] theorem jobMod_ras (jid : Nat) (f : Job → Job) (s : State) : (jobMod jid f s).ras = s.ras := rfl

/-! ### groupMod -/

@[simp] theorem groupMod_pending (g : Nat) (f : Group → Group) (s : State) :
    (groupMod g f s).pending = s.pending := rfl
@[simp] theorem groupMod_out (g : Nat) (f : Group → Group) (s : State) : (groupMod g f s).out = s.out := rfl
@[simp] theorem groupMod_freeCtr (g : Nat) (f : Group → Group) (s : State) :
    (groupMod g f s).freeCtr = s.freeCtr := rfl
@[simp] theorem groupMod_time (g : Nat) (f : Group → Group) (s : State) : (groupMod g f s).time = s.time := rfl
@[simp] theorem groupMod_mode (g : Nat) (f : Group → Group) (s : State) : (groupMod g f s).mode = s.mode := rfl
@[simp] theorem groupMod_od (g : Nat) (f : Group → Group) (s : State) : (groupMod g f s).od = s.od := rfl
@[simp] theorem groupMod_ms (g : Nat) (f : Group → Group) (s : State) : (groupMod g f s).ms = s.ms := rfl
@[simp] theorem groupMod_cores (g : Nat) (f : Group → Group) (s : State) : (groupMod g f s).cores = s.cores := rfl
@[simp] theorem groupMod_clusters (g : Nat) (f : Group → Group) (s : State) :
    (groupMod g f s).clusters = s.clusters := rfl
@[simp] theorem groupMod_js (g : Nat) (f : Group → Group) (s : State) :
    (groupMod g f s).js = { s.js with groups := tmod {} s.js.groups g f } := rfl
@[simp] theorem groupMod_gov (g : Nat) (f : Group → Group) (s : State) : (groupMod g f s).gov = s.gov := rfl
@[simp] theorem groupMod_tw (g : Nat) (f : Group → Group) (s : State) : (groupMod g f s).tw = s.tw := rfl
@[simp] theorem groupMod_net (g : Nat) (f : Group → Group) (s : State) : (groupMod g f s).net = s.net := rfl
@[simp] theorem groupMod_pw (g : Nat) (f : Group → Group) (s : State) : (groupMod g f s).pw = s.pw := rfl
@[simp] theorem groupMod_vd (g : Nat) (f : Group → Group) (s : State) : (groupMod g f s).vd = s.vd := rfl
@[simp] theorem groupMod_cx (g : Nat) (f : Group → Group) (s : State) : (groupMod g f s).cx = s.cx := rfl
@[simp] theorem groupMod_dr (g : Nat) (f : Group → Group) (s : State) : (groupMod g f s).dr = s.dr := rfl
@[simp] theorem groupMod_bt (g : Nat) (f : Group → Group) (s : State) : (groupMod g f s).bt = s.bt := rfl
@[simp] theorem groupMod_pins (g : Nat) (f : Group → Group) (s : State) : (groupMod g f s).pins = s.pins := rfl
@[simp] theorem groupMod_ras (g : Nat) (f : Group → Group) (s : State) : (groupMod g f s).ras = s.ras := rfl

/-! ### chanMod -/

@[simp] theorem chanMod_pending (c : Nat) (f : Chan → Chan) (s : State) : (chanMod c f s).pending = s.pending := rfl
@[simp] theorem chanMod_out (c : Nat) (f : Chan → Chan) (s : State) : (chanMod c f s).out = s.out := rfl
@[simp] theorem chanMod_freeCtr (c : Nat) (f : Chan → Chan) (s : State) : (chanMod c f s).freeCtr = s.freeCtr := rfl
@[simp] theorem chanMod_time (c : Nat) (f : Chan → Chan) (s : State) : (chanMod c f s).time = s.time := rfl
@[simp] theorem chanMod_mode (c : Nat) (f : Chan → Chan) (s : State) : (chanMod c f s).mode = s.mode := rfl
@[simp] theorem chanMod_od (c : Nat) (f : Chan → Chan) (s : State) : (chanMod c f s).od = s.od := rfl
@[simp] theorem chanMod_ms (c : Nat) (f : Chan → Chan) (s : State) : (chanMod c f s).ms = s.ms := rfl
@[simp] theorem chanMod_cores (c : Nat) (f : Chan → Chan) (s : State) : (chanMod c f s).cores = s.cores := rfl
@[simp] theorem chanMod_clusters (c : Nat) (f : Chan → Chan) (s : State) :
    (chanMod c f s).clusters = s.clusters := rfl
@[simp] theorem chanMod_js (c : Nat) (f : Chan → Chan) (s : State) : (chanMod c f s).js = s.js := rfl
@[simp] theorem chanMod_gov (c : Nat) (f : Chan → Chan) (s : State) : (chanMod c f s).gov = s.gov := rfl
@[simp] theorem chanMod_tw (c : Nat) (f : Chan → Chan) (s : State) : (chanMod c f s).tw = s.tw := rfl
@[simp] theorem chanMod_net (c : Nat) (f : Chan → Chan) (s : State) : (chanMod c f s).net = s.net := rfl
@[simp] theorem chanMod_pw (c : Nat) (f : Chan → Chan) (s : State) : (chanMod c f s).pw = s.pw := rfl
@[simp] theorem chanMod_vd (c : Nat) (f : Chan → Chan) (s : State) : (chanMod c f s).vd = s.vd := rfl
@[simp] theorem chanMod_cx (c : Nat) (f : Chan → Chan) (s : State) : (chanMod c f s).cx = s.cx := rfl
@[simp] theorem chanMod_dr (c : Nat) (f : Chan → Chan) (s : State) :
    (chanMod c f s).dr = { s.dr with chans := tmod {} s.dr.chans c f } := rfl
@[simp] theorem chanMod_bt (c : Nat) (f : Chan → Chan) (s : State) : (chanMod c f s).bt = s.bt := rfl
@[simp] theorem chanMod_pins (c : Nat) (f : Chan → Chan) (s : State) : (chanMod c f s).pins = s.pins := rfl
@[simp] theorem chanMod_ras (c : Nat) (f : Chan → Chan) (s : State) : (chanMod c f s).ras = s.ras := rfl

/-! ### twMod -/

@[simp] theorem twMod_pending (f : TwinState → TwinState) (s : State) : (twMod f s).pending = s.pending := rfl
@[simp] theorem twMod_out (f : TwinState → TwinState) (s : State) : (twMod f s).out = s.out := rfl
@[simp] theorem twMod_freeCtr (f : TwinState → TwinState) (s : State) : (twMod f s).freeCtr = s.freeCtr := rfl
@[simp] theorem twMod_time (f : TwinState → TwinState) (s : State) : (twMod f s).time = s.time := rfl
@[simp] theorem twMod_mode (f : TwinState → TwinState) (s : State) : (twMod f s).mode = s.mode := rfl
@[simp] theorem twMod_od (f : TwinState → TwinState) (s : State) : (twMod f s).od = s.od := rfl
@[simp] theorem twMod_ms (f : TwinState → TwinState) (s : State) : (twMod f s).ms = s.ms := rfl
@[simp] theorem twMod_cores (f : TwinState → TwinState) (s : State) : (twMod f s).cores = s.cores := rfl
@[simp] theorem twMod_clusters (f : TwinState → TwinState) (s : State) : (twMod f s).clusters = s.clusters := rfl
@[simp] theorem twMod_js (f : TwinState → TwinState) (s : State) : (twMod f s).js = s.js := rfl
@[simp] theorem twMod_gov (f : TwinState → TwinState) (s : State) : (twMod f s).gov = s.gov := rfl
@[simp] theorem twMod_tw (f : TwinState → TwinState) (s : State) : (twMod f s).tw = f s.tw := rfl
@[simp] theorem twMod_net (f : TwinState → TwinState) (s : State) : (twMod f s).net = s.net := rfl
@[simp] theorem twMod_pw (f : TwinState → TwinState) (s : State) : (twMod f s).pw = s.pw := rfl
@[simp] theorem twMod_vd (f : TwinState → TwinState) (s : State) : (twMod f s).vd = s.vd := rfl
@[simp] theorem twMod_cx (f : TwinState → TwinState) (s : State) : (twMod f s).cx = s.cx := rfl
@[simp] theorem twMod_dr (f : TwinState → TwinState) (s : State) : (twMod f s).dr = s.dr := rfl
@[simp] theorem twMod_bt (f : TwinState → TwinState) (s : State) : (twMod f s).bt = s.bt := rfl
@[simp] theorem twMod_pins (f : TwinState → TwinState) (s : State) : (twMod f s).pins = s.pins := rfl
@[simp] theorem twMod_ras (f : TwinState → TwinState) (s : State) : (twMod f s).ras = s.ras := rfl

/-! ### netMod -/

@[simp] theorem netMod_pending (f : NetState → NetState) (s : State) : (netMod f s).pending = s.pending := rfl
@[simp] theorem netMod_out (f : NetState → NetState) (s : State) : (netMod f s).out = s.out := rfl
@[simp] theorem netMod_freeCtr (f : NetState → NetState) (s : State) : (netMod f s).freeCtr = s.freeCtr := rfl
@[simp] theorem netMod_time (f : NetState → NetState) (s : State) : (netMod f s).time = s.time := rfl
@[simp] theorem netMod_mode (f : NetState → NetState) (s : State) : (netMod f s).mode = s.mode := rfl
@[simp] theorem netMod_od (f : NetState → NetState) (s : State) : (netMod f s).od = s.od := rfl
@[simp] theorem netMod_ms (f : NetState → NetState) (s : State) : (netMod f s).ms = s.ms := rfl
@[simp] theorem netMod_cores (f : NetState → NetState) (s : State) : (netMod f s).cores = s.cores := rfl
@[simp] theorem netMod_clusters (f : NetState → NetState) (s : State) : (netMod f s).clusters = s.clusters := rfl
@[simp] theorem netMod_js (f : NetState → NetState) (s : State) : (netMod f s).js = s.js := rfl
@[simp] theorem netMod_gov (f : NetState → NetState) (s : State) : (netMod f s).gov = s.gov := rfl
@[simp] theorem netMod_tw (f : NetState → NetState) (s : State) : (netMod f s).tw = s.tw := rfl
@[simp] theorem netMod_net (f : NetState → NetState) (s : State) : (netMod f s).net = f s.net := rfl
@[simp] theorem netMod_pw (f : NetState → NetState) (s : State) : (netMod f s).pw = s.pw := rfl
@[simp] theorem netMod_vd (f : NetState → NetState) (s : State) : (netMod f s).vd = s.vd := rfl
@[simp] theorem netMod_cx (f : NetState → NetState) (s : State) : (netMod f s).cx = s.cx := rfl
@[simp] theorem netMod_dr (f : NetState → NetState) (s : State) : (netMod f s).dr = s.dr := rfl
@[simp] theorem netMod_bt (f : NetState → NetState) (s : State) : (netMod f s).bt = s.bt := rfl
@[simp] theorem netMod_pins (f : NetState → NetState) (s : State) : (netMod f s).pins = s.pins := rfl
@[simp] theorem netMod_ras (f : NetState → NetState) (s : State) : (netMod f s).ras = s.ras := rfl

/-! ### Reads after writes -/

theorem odKey_inj {i j a b : Nat} (ha : a < 256) (hb : b < 256) (h : odKey i a = odKey j b) : i = j ∧ a = b := by
  unfold odKey at h
  omega

/-- An entry reads as it was last stored. -/
@[simp] theorem od_odSet_self (idx sub v : Nat) (s : State) : od (odSet idx sub v s) idx sub = v := by
  simp [od, tfind_tset_self]

/-- A store leaves every other entry as it was. -/
theorem od_odSet_ne (idx sub v i j : Nat) (s : State) (h : odKey idx sub ≠ odKey i j) :
    od (odSet idx sub v s) i j = od s i j := by
  simp [od, tfind_tset_ne _ _ _ _ h]

@[simp] theorem od_emit (m : OutMsg) (s : State) (i j : Nat) : od (emit m s) i j = od s i j := rfl
@[simp] theorem od_coreMod (c : CoreId) (f : Core → Core) (s : State) (i j : Nat) : od (coreMod c f s) i j = od s i j :=
  rfl
@[simp] theorem od_instMod (n : Nat) (f : InstState → InstState) (s : State) (i j : Nat) :
    od (instMod n f s) i j = od s i j := rfl
@[simp] theorem od_taskMod (k : Nat) (f : Task → Task) (s : State) (i j : Nat) : od (taskMod k f s) i j = od s i j := rfl
@[simp] theorem od_jobMod (k : Nat) (f : Job → Job) (s : State) (i j : Nat) : od (jobMod k f s) i j = od s i j := rfl
@[simp] theorem od_twMod (f : TwinState → TwinState) (s : State) (i j : Nat) : od (twMod f s) i j = od s i j := rfl
@[simp] theorem od_netMod (f : NetState → NetState) (s : State) (i j : Nat) : od (netMod f s) i j = od s i j := rfl
@[simp] theorem od_chanMod (c : Nat) (f : Chan → Chan) (s : State) (i j : Nat) : od (chanMod c f s) i j = od s i j := rfl

@[simp] theorem inst_instMod_self (n : Nat) (f : InstState → InstState) (s : State) :
    inst (instMod n f s) n = f (inst s n) := by
  simp [inst, instMod, tmod, tget_tset_self]

theorem inst_instMod_ne (n m : Nat) (f : InstState → InstState) (s : State) (h : n ≠ m) :
    inst (instMod n f s) m = inst s m := by
  simp [inst, instMod, tmod, tget_tset_ne _ _ _ _ _ h]

@[simp] theorem core_coreMod_self (c : CoreId) (f : Core → Core) (s : State) : core (coreMod c f s) c = f (core s c) := by
  simp [core, coreMod, tmod, tget_tset_self]

theorem core_coreMod_ne (c d : CoreId) (f : Core → Core) (s : State) (h : c ≠ d) :
    core (coreMod c f s) d = core s d := by
  have : c.val ≠ d.val := fun e => h (Fin.ext e)
  simp [core, coreMod, tmod, tget_tset_ne _ _ _ _ _ this]

@[simp] theorem core_odSet (idx sub v : Nat) (s : State) (c : CoreId) : core (odSet idx sub v s) c = core s c := rfl
@[simp] theorem core_emit (m : OutMsg) (s : State) (c : CoreId) : core (emit m s) c = core s c := rfl

/-! ### General and floating-point registers (R174) -/

@[simp] theorem gGet_zero (s : State) (c : CoreId) : gGet s c 0 = 0 := by simp [gGet]

@[simp] theorem gSet_zero (c : CoreId) (v : Word) (s : State) : gSet c 0 v s = s := by simp [gSet]

theorem gGet_gSet_self (c : CoreId) (r : Reg) (v : Word) (s : State) (h : r ≠ 0) : gGet (gSet c r v s) c r = v := by
  simp [gGet, gSet, h]

theorem gGet_gSet_ne (c : CoreId) (r q : Reg) (v : Word) (s : State) (h : q ≠ r) :
    gGet (gSet c r v s) c q = gGet s c q := by
  unfold gGet gSet
  split
  · rfl
  · split
    · rfl
    · have : r.val ≠ q.val := fun e => h (Fin.ext e.symm)
      simp [Vector.getElem_set_ne, this]

@[simp] theorem fGet_fSet_self (c : CoreId) (r : Reg) (v : Word) (s : State) : fGet (fSet c r v s) c r = v := by
  simp [fGet, fSet]

theorem fGet_fSet_ne (c : CoreId) (r q : Reg) (v : Word) (s : State) (h : q ≠ r) :
    fGet (fSet c r v s) c q = fGet s c q := by
  have : r.val ≠ q.val := fun e => h (Fin.ext e.symm)
  simp [fGet, fSet, Vector.getElem_set_ne, this]

/-- What one instruction does on a core that executes, with no interrupt or trap due and none from the fetch. -/
theorem runInstr_ready (c : CoreId) (drains : Bool) (body : State → CoreEnd) (s : State) (ha : coreActive s c = true)
    (hi : (core s c).imp.isSome = true → drains = false ∧ (core s c).impAge < 64) (hf : fetchTrap s c = none) :
    runInstr c drains body s =
      match body (fetchTouch c s) with
      | .retire t => retireAt c (core s c).imp.isSome ((core s c).pc + 4) t
      | .jump target t => retireAt c (core s c).imp.isSome target t
      | .trap x t =>
        if (core s c).imp.isSome then takeImprecise c s
        else instrTrap c (core s c).pc x t
      | .wait t => t := by
  have h : ((core s c).imp.isSome && (drains || decide (64 ≤ (core s c).impAge))) = false := by
    cases hc : (core s c).imp.isSome
    · rfl
    · obtain ⟨h1, h2⟩ := hi hc
      simp [h1, h2]
  unfold runInstr
  cases body (fetchTouch c s) <;> simp only [ha, h, hf, Bool.not_true, Bool.false_eq_true, if_false]

/-- A core that takes no interrupt before its next instruction runs it. -/
theorem runCore_calm (c : CoreId) (drains : Bool) (body : State → CoreEnd) (s : State) (h : takesIntr s c = false) :
    runCore c drains body s = runInstr c drains body s := by
  unfold runCore
  simp [h]

/-- A core that does not execute is left as it is. -/
theorem runInstr_inactive (c : CoreId) (drains : Bool) (body : State → CoreEnd) (s : State)
    (h : coreActive s c = false) : runInstr c drains body s = s := by
  unfold runInstr
  simp [h]

/-- A core that does not execute is left as it is. -/
theorem runCore_inactive (c : CoreId) (drains : Bool) (body : State → CoreEnd) (s : State)
    (h : coreActive s c = false) : runCore c drains body s = s := by
  unfold runCore
  simp [h, runInstr_inactive]

/-! ### Physical memory -/

/-- A byte of device memory after a store: a stored byte, or what was there (R225). -/
theorem memGet_physPut (by_ : Option Nat) (pa : Nat) (bytes : List Byte) (s : State) (x : Nat)
    (h : tsorted s.ms.dram = true) :
    memGet (physPut by_ pa bytes s).ms.dram x =
      if pa ≤ x ∧ x < pa + bytes.length then bytes.getD (x - pa) 0 else memGet s.ms.dram x :=
  memGet_memPut _ _ _ _ h

end Sys2Proof.Machine
end

