-- ==== Sys2Proof/Laws/Access.lean ====
section
/-! SUPPORT. What an access through the caches of a core leaves unchanged. -/

namespace Sys2Proof.Machine


theorem tfind_map_id {α : Type} (t : Tbl α) (f : Nat × α → α) (k : Nat) :
    tfind (t.map fun e => (e.1, f e)) k = (tfind t k).map (fun v => f (k, v)) := by
  induction t with
  | nil => rfl
  | cons e t ih =>
    obtain ⟨i, v⟩ := e
    simp only [List.map_cons, tfind]
    split
    · rename_i h; subst h; rfl
    · exact ih
def snp (by_ : Option Nat) (pa n i : Nat) (k : Core) : Core :=
  if by_ = some i then k
  else { k with
    l1d := k.l1d.filter (fun e => !(decide (e.2.line * 64 < pa + n) && decide (pa < e.2.line * 64 + 64)))
    resv := match k.resv with
      | some l => if (decide (l * 128 < pa + n) && decide (pa < l * 128 + 128)) then none else some l
      | none => none }

theorem core_physPut (by_ : Option Nat) (pa : Nat) (bytes : List Byte) (s : State) (c : CoreId) :
    core (physPut by_ pa bytes s) c = (tfind s.cores c.val).elim ({} : Core) (snp by_ pa bytes.length c.val) := by
  have h2 := tfind_map_id s.cores (fun e => snp by_ pa bytes.length e.1 e.2) c.val
  have h3 : (physPut by_ pa bytes s).cores = s.cores.map fun e => (e.1, snp by_ pa bytes.length e.1 e.2) := by
    unfold physPut snoopWrite snp
    apply List.map_congr_left
    intro e _
    obtain ⟨i, k⟩ := e
    dsimp only
    split <;> rfl
  unfold core tget
  rw [h3, h2]
  cases tfind s.cores c.val <;> rfl

theorem Quiet.dram {s u : State} (h : Quiet s u) : u.ms.dram = s.ms.dram := by rw [h.ms]
theorem Quiet.hosts {s u : State} (h : Quiet s u) : u.ms.hosts = s.ms.hosts := by rw [h.ms]

theorem Quiet.refl (s : State) : Quiet s s :=
  ⟨rfl, fun _ h => h, fun _ => rfl, fun _ _ _ _ => rfl, rfl, rfl, rfl, rfl, rfl, rfl, rfl, rfl, rfl, rfl, rfl, rfl, rfl, rfl⟩

theorem Quiet.trans {a b c : State} (h : Quiet a b) (k : Quiet b c) : Quiet a c where
  ms := by
    have h1 := k.ms; have h2 := h.ms
    rw [h2] at h1
    exact h1
  poison := fun w hw => k.poison w (h.poison w hw)
  core := fun d => by
    have h1 := k.core d; have h2 := h.core d
    rw [h2] at h1
    exact h1
  od := fun i j hj hi => (k.od i j hj hi).trans (h.od i j hj hi)
  mode := k.mode.trans h.mode
  time := k.time.trans h.time
  out := k.out.trans h.out
  js := k.js.trans h.js
  rest := by
    obtain ⟨a1, a2, a3, a4, a5, a6, a7, a8, a9, a0⟩ := h.rest
    obtain ⟨b1, b2, b3, b4, b5, b6, b7, b8, b9, b0⟩ := k.rest
    exact ⟨b1.trans a1, b2.trans a2, b3.trans a3, b4.trans a4, b5.trans a5, b6.trans a6, b7.trans a7, b8.trans a8, b9.trans a9, b0.trans a0⟩

theorem quiet_fold {α : Type} {f : State → α → State} (hf : ∀ s a, Quiet s (f s a)) (l : List α) (s : State) : Quiet s (l.foldl f s) := by
  induction l generalizing s with
  | nil => exact Quiet.refl s
  | cons a l ih => exact (hf s a).trans (ih (f s a))

theorem quiet_ms (s : State) (p : List Nat) (r : Tbl (List DramReq)) (t : List TlbEntry) (hp : ∀ w ∈ s.ms.poison, w ∈ p) :
    Quiet s { s with ms := { s.ms with poison := p, reqs := r, tlb := t } } :=
  ⟨rfl, hp, fun _ => rfl, fun _ _ _ _ => rfl, rfl, rfl, rfl, rfl, rfl, rfl, rfl, rfl, rfl, rfl, rfl, rfl, rfl, rfl⟩

theorem quiet_reqs (s : State) (r : Tbl (List DramReq)) : Quiet s { s with ms := { s.ms with reqs := r } } :=
  quiet_ms s _ r _ fun _ h => h

theorem quiet_tlb (s : State) (t : List TlbEntry) : Quiet s { s with ms := { s.ms with tlb := t } } :=
  quiet_ms s _ _ t fun _ h => h

theorem quiet_bursts (p pa n : Nat) (w : Bool) (s : State) : Quiet s (requestBursts p pa n w s) := by
  unfold requestBursts
  split
  · exact Quiet.refl s
  · apply quiet_fold
    intro s i
    dsimp only
    split
    · exact Quiet.refl s
    · exact quiet_reqs s _

theorem quiet_odSet (k : Nat) (hk : k < 16) (sub v : Nat) (hs : sub < 256) (s : State) : Quiet s (odSet (0x3480 + k) sub v s) := by
  refine ⟨rfl, fun _ h => h, fun _ => rfl, fun i j hj hi => ?_, rfl, rfl, rfl, rfl, rfl, rfl, rfl, rfl, rfl, rfl, rfl, rfl, rfl, rfl⟩
  apply od_odSet_ne
  unfold odKey
  omega

theorem quiet_odAdd (k : Nat) (hk : k < 16) (sub v : Nat) (hs : sub < 256) (s : State) : Quiet s (odAdd (0x3480 + k) sub v s) := quiet_odSet k hk sub _ hs s

theorem quiet_odBump (k : Nat) (hk : k < 16) (sub : Nat) (hs : sub < 256) (s : State) : Quiet s (odBump (0x3480 + k) sub s) := quiet_odSet k hk sub _ hs s

theorem quiet_clusterMod (k : Nat) (f : Cluster → Cluster) (s : State) : Quiet s (clusterMod k f s) :=
  ⟨rfl, fun _ h => h, fun _ => rfl, fun _ _ _ _ => rfl, rfl, rfl, rfl, rfl, rfl, rfl, rfl, rfl, rfl, rfl, rfl, rfl, rfl, rfl⟩

theorem quiet_core (c : CoreId) (f : Core → Core)
    (hf : ∀ k, f k = { k with l1d := (f k).l1d, l1i := (f k).l1i, misses := (f k).misses, tileBad := (f k).tileBad }) (s : State) :
    Quiet s (coreMod c f s) := by
  refine ⟨rfl, fun _ h => h, fun d => ?_, fun _ _ _ _ => rfl, rfl, rfl, rfl, rfl, rfl, rfl, rfl, rfl, rfl, rfl, rfl, rfl, rfl, rfl⟩
  by_cases h : c = d
  · subst h; rw [core_coreMod_self]; exact hf _
  · rw [core_coreMod_ne _ _ _ _ h]

theorem quiet_ite {p : Prop} [Decidable p] {s a b : State} (h1 : Quiet s a) (h2 : Quiet s b) : Quiet s (if p then a else b) := by
  split
  · exact h1
  · exact h2

theorem quiet_pair {α : Type} {s b : State} {x : α × State} {a : α} (e : x = (a, b)) (h : Quiet s x.2) : Quiet s b := by
  subst e; exact h

theorem quiet_l2Put (k set way : Nat) (l : L2Line) (s : State) : Quiet s (l2Put k set way l s) := quiet_clusterMod _ _ _

theorem quiet_l2Parity (k : Nat) (hk : k < 16) (set way m : Nat) (s : State) : Quiet s (l2Parity k set way m s).1 := by
  unfold l2Parity
  split
  · exact Quiet.refl s
  · dsimp only
    split
    · exact Quiet.refl s
    · split
      · exact (quiet_odAdd k hk 0x0A _ (by omega) s).trans (quiet_l2Put k set way _ _)
      · refine ((quiet_odAdd k hk 0x0A _ (by omega) s).trans (quiet_l2Put k set way _ _)).trans
          (quiet_fold (fun s i => ?_) _ _)
        refine ((quiet_odBump k hk 0x0B (by omega) s).trans (quiet_odBump k hk 7 (by omega) _)).trans ?_
        refine (quiet_odSet k hk 0x0C _ (by omega) _).trans (quiet_ms _ _ _ _ fun w hw => ?_)
        split
        · exact hw
        · exact List.mem_cons_of_mem _ hw

theorem quiet_l2Clean (k : Nat) (hk : k < 16) (set way : Nat) (s : State) : Quiet s (l2Clean k set way s) := by
  unfold l2Clean
  split
  · exact Quiet.refl s
  · rename_i l0 _
    have h := quiet_l2Parity k hk set way l0.dirty s
    dsimp only
    split
    · exact h
    · split
      · exact h
      · exact h.trans (((quiet_fold (fun s i => quiet_bursts _ _ _ _ s) _ _).trans (quiet_l2Put _ _ _ _ _)).trans
          (quiet_odAdd k hk 7 _ (by omega) _))

theorem quiet_l2Fill (k : Nat) (hk : k < 16) (line mask age : Nat) (s : State) : Quiet s (l2Fill k line mask age s) := by
  unfold l2Fill
  exact ((quiet_clusterMod _ _ _).trans (quiet_l2Clean k hk _ _ _)).trans (quiet_l2Put _ _ _ _ _)

theorem quiet_prefetchAfter (c : CoreId) (line : Nat) (s : State) : Quiet s (prefetchAfter c line s) := by
  unfold prefetchAfter
  dsimp only
  split
  · exact quiet_core _ _ (fun k => rfl) _
  · refine (quiet_core c (fun x => { x with misses := (line :: x.misses).take 2 }) (fun k => rfl) s).trans (quiet_fold (fun s l => ?_) _ _)
    split
    · exact Quiet.refl s
    · split
      · exact Quiet.refl s
      · split
        · exact Quiet.refl s
        · exact (quiet_bursts _ _ _ _ _).trans (quiet_clusterMod _ _ _)

theorem clusterOf_lt (c : CoreId) : clusterOf c < 16 := by unfold clusterOf; omega

theorem quiet_l2Access (c : CoreId) (line mask f age : Nat) (s : State) : Quiet s (l2Access c line mask f age s) := by
  have hk := clusterOf_lt c
  unfold l2Access
  dsimp only
  split
  · exact Quiet.refl s
  · split
    · split
      · exact Quiet.refl s
      · split
        · exact (quiet_l2Put _ _ _ _ _).trans (quiet_odBump _ hk 5 (by omega) _)
        · split
          · exact (((quiet_fold (fun s i => quiet_bursts _ _ _ _ s) _ s).trans (quiet_odBump _ hk 6 (by omega) _)).trans
              (quiet_l2Put _ _ _ _ _)).trans (quiet_prefetchAfter _ _ _)
          · exact (quiet_fold (fun s i => quiet_bursts _ _ _ _ s) _ s).trans (quiet_odBump _ hk 6 (by omega) _)
    · refine (quiet_odBump _ hk 6 (by omega) s).trans ?_
      split
      · exact Quiet.refl _
      · split
        · exact (((quiet_clusterMod _ _ _).trans (quiet_l2Fill _ hk _ _ _ _)).trans (quiet_odBump _ hk 9 (by omega) _)).trans
            (quiet_prefetchAfter _ _ _)
        · exact ((quiet_fold (fun s i => quiet_bursts _ _ _ _ s) _ _).trans (quiet_l2Fill _ hk _ _ _ _)).trans (quiet_prefetchAfter _ _ _)

theorem quiet_l2Offer (k : Nat) (hk : k < 16) (l : L1Line) (s : State) : Quiet s (l2Offer k l s) := by
  unfold l2Offer
  dsimp only
  split
  · exact Quiet.refl s
  · split
    · exact quiet_odBump k hk 8 (by omega) s
    · split
      · exact quiet_odBump k hk 8 (by omega) s
      · exact quiet_l2Put _ _ _ _ _

theorem quiet_l1Put (c : CoreId) (instr : Bool) (t : Tbl L1Line) (s : State) : Quiet s (l1Put c instr t s) := by
  unfold l1Put
  cases instr <;> exact quiet_core _ _ (fun k => rfl) _

theorem quiet_l1Look (c : CoreId) (instr : Bool) (line : Nat) (s : State) : Quiet s (l1Look c instr line s).2 := by
  unfold l1Look
  dsimp only
  split
  · exact Quiet.refl s
  · split
    · exact (quiet_l1Put _ _ _ _).trans (quiet_odBump _ (clusterOf_lt c) 0x0A (by omega) _)
    · exact quiet_l1Put _ _ _ _

theorem quiet_l1Fill (c : CoreId) (instr : Bool) (line : Nat) (st : Bool) (s : State) : Quiet s (l1Fill c instr line st s) := by
  unfold l1Fill
  dsimp only
  split
  · exact quiet_l1Put _ _ _ _
  · split
    · exact (quiet_l1Put _ _ _ _).trans (quiet_l2Offer _ (clusterOf_lt c) _ _)
    · exact quiet_l1Put _ _ _ _

theorem quiet_l1Miss (c : CoreId) (line : Nat) (st : Bool) (s : State) : Quiet s (l1Miss c line st s) := by
  unfold l1Miss
  dsimp only
  split
  · exact (quiet_l2Access _ _ _ _ _ _).trans (quiet_bursts _ _ _ _ _)
  · exact quiet_l2Access _ _ _ _ _ _

theorem quiet_l1Load (c : CoreId) (instr : Bool) (line : Nat) (st : Bool) (s : State) : Quiet s (l1Load c instr line st s) := by
  unfold l1Load
  split <;> rename_i e
  · exact quiet_pair e (quiet_l1Look _ _ _ _)
  · exact (quiet_pair e (quiet_l1Look _ _ _ _)).trans ((quiet_l1Miss _ _ _ _).trans (quiet_l1Fill _ _ _ _ _))

theorem quiet_l1s (c : CoreId) (instr st : Bool) (l : List Nat) (s : State) :
    Quiet s (l.foldl (fun s l => l1Load c instr l st s) s) :=
  quiet_fold (fun s a => quiet_l1Load c instr a st s) l s

/-- A fold with a result beside the state keeps it quiet. -/
theorem quiet_foldPair {α β : Type} {f : State × β → α → State × β} (hf : ∀ x a, Quiet x.1 (f x a).1) (l : List α) (x : State × β) :
    Quiet x.1 (l.foldl f x).1 := by
  induction l generalizing x with
  | nil => exact Quiet.refl _
  | cons a l ih => exact (hf x a).trans (ih (f x a))

theorem quiet_parityAt (k : Nat) (hk : k < 16) (pa n : Nat) (s : State) : Quiet s (parityAt k pa n s).1 := by
  unfold parityAt
  refine quiet_foldPair (fun x a => ?_) _ (s, none)
  split
  · exact Quiet.refl _
  · exact quiet_l2Parity k hk _ _ _ _

theorem quiet_tlbFill (unit : Nat) (ctx : Ctx) (va : Nat) (l : Leaf) (s : State) : Quiet s (tlbFill unit ctx va l s) := by
  unfold tlbFill
  exact quiet_ite (Quiet.refl s) (quiet_tlb s _)

theorem quiet_requestWalk (unit : Nat) (ctx : Ctx) (va : Nat) (s : State) : Quiet s (requestWalk unit ctx va s) := by
  unfold requestWalk
  split
  · exact Quiet.refl s
  · exact quiet_fold (fun s a => quiet_bursts _ _ _ _ s) _ s

theorem quiet_coreWalk (c : CoreId) (kind : AccKind) (a n : Nat) (s : State) : Quiet s (coreWalk c kind a n s) := by
  unfold coreWalk
  split
  · exact Quiet.refl s
  · dsimp only
    split
    · exact (quiet_requestWalk _ _ _ _).trans (quiet_tlbFill _ _ _ _ _)
    · exact quiet_requestWalk _ _ _ _

theorem tagCheck_clean (s : State) (c : CoreId) (lines : List Nat) (h : L2NoError s c) : tagCheck c lines s = (s, none) := by
  unfold tagCheck tagSets
  have : ((cluster s (clusterOf c)).l2.filter fun e => e.2.tagBad ≠ 0 && (lines.map l2Set).contains (e.1 / 16)) = [] := by
    rw [List.filter_eq_nil_iff]
    intro e he
    simp [(h.1 e he).1]
  dsimp only
  rw [this]
  rfl

theorem parityAt_clean (c : CoreId) (pa n : Nat) (s : State) (h : L2NoError s c) : parityAt (clusterOf c) pa n s = (s, none) := by
  unfold parityAt
  generalize lines128 pa n = ls
  induction ls with
  | nil => rfl
  | cons x xs ih =>
    rw [List.foldl_cons]
    have : (match l2Way (cluster (s, (none : Option Nat)).1 (clusterOf c)) x with
      | none => (s, none)
      | some w =>
        let (s, lost) := l2Parity (clusterOf c) (l2Set x) w (sectorMask x pa n) (s, (none : Option Nat)).1
        (s, match (s, (none : Option Nat)).2 with
          | some a => some a
          | none => lost)) = (s, none) := by
      split
      · rfl
      · unfold l2Parity
        cases hl : l2At (cluster s (clusterOf c)) (l2Set x) _ with
        | none => rfl
        | some l =>
          have hm := tfind_mem _ _ _ hl
          have hb : l.bad = 0 := (h.1 _ hm).2
          simp only [hb]
          simp
    exact (congrArg (fun z => List.foldl _ z xs) this).trans ih

theorem snoopLine_clean (s : State) (k need : Nat) (line : Nat) (a : Option Nat)
    (h : ∀ e ∈ (cluster s k).l2, e.2.bad &&& e.2.dirty = 0) : snoopLine k need line (s, a) = (s, a) := by
  unfold snoopLine
  dsimp only
  split
  · rfl
  · rename_i w _
    split
    · rfl
    · rename_i l hl
      have hb : l.bad &&& (need &&& l.dirty) = 0 := by
        rw [Nat.and_comm need, ← Nat.and_assoc, h _ (tfind_mem _ _ _ hl), Nat.zero_and]
      have : l2Parity k (l2Set line) w (need &&& l.dirty) s = (s, none) := by
        unfold l2Parity
        rw [hl]
        simp only [hb, if_true]
      rw [this]
      cases a <;> rfl

theorem snoopLost_clean (s : State) (own : Option Nat) (need : Nat → Nat) (pa n : Nat)
    (h : ∀ k, ∀ e ∈ (cluster s k).l2, e.2.bad &&& e.2.dirty = 0) : snoopLost own need pa n s = (s, none) := by
  have inner : ∀ (k : Nat) (ls : List Nat),
      ls.foldl (fun acc line => snoopLine k (need line) line acc) (s, (none : Option Nat)) = (s, none) := by
    intro k ls
    induction ls with
    | nil => rfl
    | cons x xs ih => rw [List.foldl_cons, snoopLine_clean s k (need x) x none (h k), ih]
  unfold snoopLost
  induction s.clusters with
  | nil => rfl
  | cons e es ih =>
    rw [List.foldl_cons]
    split
    · exact ih
    · rw [inner]; exact ih

theorem parityNeeds_clean (c : CoreId) (need : Nat → Nat) (pa n : Nat) (s : State) (h : L2NoError s c) :
    parityNeeds c need pa n s = (s, none) := by
  unfold parityNeeds
  rw [tagCheck_clean s c _ h]
  dsimp only
  rw [parityAt_clean c pa n s h]
  dsimp only
  rw [snoopLost_clean s _ _ _ _ h.2]
  rfl

theorem parity_clean (c : CoreId) (pa n : Nat) (s : State) (h : L2NoError s c) : parityRange c pa n s = (s, none) :=
  parityNeeds_clean c _ pa n s h

theorem quiet_markStored (c : CoreId) (line pa n : Nat) (s : State) : Quiet s (markStored c line pa n s) := by
  unfold markStored
  dsimp only
  split
  · exact Quiet.refl s
  · split
    · exact Quiet.refl s
    · split
      · exact quiet_l2Put _ _ _ _ _
      · exact quiet_ite (quiet_l2Put _ _ _ _ _) (Quiet.refl s)

theorem dram_sorted (s : State) (h : Sound s) : tsorted s.ms.dram = true := by
  have := h.1
  simp only [memOk, memWf, Bool.and_eq_true] at this
  exact this.1.1.1

theorem tile_sorted (s : State) (c : CoreId) (h : Sound s) : tsorted (core s c).tile = true := by
  have := h.1
  simp only [memOk, Bool.and_eq_true, List.all_eq_true] at this
  unfold core tget
  cases hf : tfind s.cores c.val with
  | none => rfl
  | some k =>
    have h2 := this.2 _ (tfind_mem _ _ _ hf)
    simp only [memWf, Bool.and_eq_true] at h2
    exact h2.1

end Sys2Proof.Machine
end

