-- ==== Sys2Proof/Laws/Bits.lean ====
section
/-! SUPPORT. Bit fields of numbers and words: what a field reads and what writing it leaves. -/

namespace Sys2Proof.Machine

/-- Bit j of a field read out. -/
theorem testBit_bitsOf (x hi lo j : Nat) : (bitsOf x hi lo).testBit j = (decide (j < hi + 1 - lo) && x.testBit (lo + j)) := by
  unfold bitsOf
  rw [Nat.testBit_mod_two_pow, Nat.testBit_shiftRight]

/-- Bit j of a number with a field replaced. -/
theorem testBit_setBits (x hi lo n j : Nat) (h : lo ≤ hi) :
    (setBits x hi lo n).testBit j = if lo ≤ j ∧ j ≤ hi then n.testBit (j - lo) else x.testBit j := by
  obtain ⟨w, rfl⟩ : ∃ w, hi = lo + w := ⟨hi - lo, by omega⟩
  have hw : lo + w + 1 - lo = w + 1 := by omega
  have hx : x = 2 ^ lo * (2 ^ (w + 1) * (x / 2 ^ lo / 2 ^ (w + 1)) + x / 2 ^ lo % 2 ^ (w + 1)) + x % 2 ^ lo := by
    rw [Nat.div_add_mod, Nat.div_add_mod]
  have hb : bitsOf x (lo + w) lo = x / 2 ^ lo % 2 ^ (w + 1) := by
    unfold bitsOf
    rw [hw, Nat.shiftRight_eq_div_pow]
  have hs : setBits x (lo + w) lo n =
      2 ^ lo * (2 ^ (w + 1) * (x / 2 ^ lo / 2 ^ (w + 1)) + n % 2 ^ (w + 1)) + x % 2 ^ lo := by
    unfold setBits
    rw [hb, hw]
    generalize x / 2 ^ lo % 2 ^ (w + 1) = m at *
    generalize x / 2 ^ lo / 2 ^ (w + 1) = q at *
    generalize x % 2 ^ lo = r at *
    generalize n % 2 ^ (w + 1) = k
    rw [hx, Nat.mul_add, Nat.mul_add, Nat.mul_comm m, Nat.mul_comm k]
    omega
  rw [hs, Nat.testBit_two_pow_mul_add _ (Nat.mod_lt _ (by positivity)), Nat.testBit_mod_two_pow]
  by_cases h1 : j < lo
  · rw [if_pos h1, if_neg (by omega)]
    simp [h1]
  · rw [if_neg h1, Nat.testBit_two_pow_mul_add _ (Nat.mod_lt _ (by positivity)), Nat.testBit_mod_two_pow]
    by_cases h2 : j - lo < w + 1
    · rw [if_pos h2, if_pos (by omega)]
      simp [h2]
    · rw [if_neg h2, if_neg (by omega), Nat.testBit_div_two_pow, Nat.testBit_div_two_pow]
      congr 1
      omega

/-- Bit j of a word with a field replaced. -/
theorem getLsbD_wput (w : Word) (hi lo n j : Nat) (h : lo ≤ hi) (hj : j < 64) :
    (wput w hi lo n).getLsbD j = if lo ≤ j ∧ j ≤ hi then n.testBit (j - lo) else w.getLsbD j := by
  unfold wput
  rw [BitVec.getLsbD_ofNat, testBit_setBits _ _ _ _ _ h]
  simp [hj, BitVec.testBit_toNat]

/-- The status word after a return: IE is PIE, EXL is clear, every other bit stays (R189). -/
theorem getLsbD_returnStat (x : Word) (j : Nat) :
    (returnStat x).getLsbD j = if j = 6 then false else if j = 7 then x.getLsbD 8 else x.getLsbD j := by
  by_cases hj : j < 64
  · unfold returnStat
    rw [getLsbD_wput _ _ _ _ _ (by omega) hj, getLsbD_wput _ _ _ _ _ (by omega) hj]
    have h8 : (bitsOf x.toNat 8 8).testBit 0 = x.getLsbD 8 := by
      rw [testBit_bitsOf]
      simp [BitVec.testBit_toNat]
    by_cases h6 : j = 6
    · subst h6; simp
    · by_cases h7 : j = 7
      · subst h7; simpa using h8
      · rw [if_neg (by omega), if_neg (by omega), if_neg h6, if_neg h7]
  · have h6 : j ≠ 6 := by omega
    have h7 : j ≠ 7 := by omega
    rw [if_neg h6, if_neg h7, BitVec.getLsbD_of_ge _ _ (by omega), BitVec.getLsbD_of_ge _ _ (by omega)]

end Sys2Proof.Machine
end

