-- ==== Sys2Proof/Laws/Keeps.lean ====
section
/-! SUPPORT. The relation Keeps: how it composes, and how it passes through results that carry a state. -/

namespace Sys2Proof.Machine

theorem Keeps.refl (s : State) : Keeps s s := ⟨rfl, Nat.le_refl _, id⟩

theorem Keeps.trans {a b c : State} (h : Keeps a b) (k : Keeps b c) : Keeps a c :=
  ⟨k.pending.trans h.pending, Nat.le_trans h.freeCtr k.freeCtr, k.sound ∘ h.sound⟩

/-- An outcome that keeps a state: its next state does. -/
def OutKeeps (r : State) : Host.Outcome State Fault Refusal → Prop
  | .next t => Keeps r t
  | .fault _ => True
  | .refused _ => True

/-- An instruction's end that keeps a state. -/
def EndKeeps (r : State) : CoreEnd → Prop
  | .retire t => Keeps r t
  | .jump _ t => Keeps r t
  | .trap _ t => Keeps r t
  | .wait t => Keeps r t

/-- An element's end that keeps a state. -/
def ElemKeeps (r : State) : ElemEnd → Prop
  | .done _ _ t => Keeps r t
  | .trap _ t => Keeps r t

/-- A result whose value, if there is one, has a property. -/
def ExKeeps {ε α : Type} (p : α → Prop) : Except ε α → Prop
  | .ok a => p a
  | .error _ => True

/-- A result with a state whether it succeeds or raises an exception. -/
def TryKeeps (r : State) : Except (Trap × State) State → Prop
  | .ok t => Keeps r t
  | .error e => Keeps r e.2

/-- An optional value that has a property where it is present. -/
def OpKeeps {α : Type} (p : α → Prop) : Option α → Prop
  | some a => p a
  | none => True

theorem keeps_next {r t : State} (h : Keeps r t) : OutKeeps r (.next t) := h
theorem keeps_retire {r t : State} (h : Keeps r t) : EndKeeps r (.retire t) := h
theorem keeps_jump {r t : State} {w : Word} (h : Keeps r t) : EndKeeps r (.jump w t) := h
theorem keeps_trap {r t : State} {x : Trap} (h : Keeps r t) : EndKeeps r (.trap x t) := h
theorem keeps_wait {r t : State} (h : Keeps r t) : EndKeeps r (.wait t) := h
theorem keeps_done {r t : State} {fl : FFlags} {out : Nat} (h : Keeps r t) : ElemKeeps r (.done fl out t) := h
theorem keeps_stop {r t : State} {x : Trap} (h : Keeps r t) : ElemKeeps r (.trap x t) := h
theorem keeps_ok {ε α : Type} {p : α → Prop} {a : α} (h : p a) : ExKeeps (ε := ε) p (.ok a) := h
theorem keeps_error {ε α : Type} {p : α → Prop} {e : ε} : ExKeeps p (.error e) := trivial
theorem keeps_did {r t : State} (h : Keeps r t) : TryKeeps r (.ok t) := h
theorem keeps_threw {r t : State} {x : Trap} (h : Keeps r t) : TryKeeps r (.error (x, t)) := h
theorem keeps_some {α : Type} {p : α → Prop} {a : α} (h : p a) : OpKeeps p (some a) := h
theorem keeps_none {α : Type} {p : α → Prop} : OpKeeps p none := trivial

theorem keeps_snd {α : Type} {r t : State} {x : α} (h : Keeps r t) : Keeps r (x, t).2 := h
theorem keeps_fst {α : Type} {r t : State} {x : α} (h : Keeps r t) : Keeps r (t, x).1 := h
theorem keeps_snd2 {α β : Type} {r t : State} {x : α} {y : β} (h : Keeps r t) : Keeps r (x, y, t).2.2 := h

theorem of_ok {ε : Type} {r : State} {x : Except ε State} {a : State} (e : x = .ok a) (h : ExKeeps (Keeps r) x) :
    Keeps r a := by
  subst e; exact h
theorem of_did {r : State} {x : Except (Trap × State) State} {a : State} (e : x = .ok a) (h : TryKeeps r x) :
    Keeps r a := by
  subst e; exact h
theorem of_threw {r : State} {x : Except (Trap × State) State} {y : Trap} {a : State} (e : x = .error (y, a))
    (h : TryKeeps r x) : Keeps r a := by
  subst e; exact h
theorem of_some {r : State} {x : Option State} {a : State} (e : x = some a) (h : OpKeeps (Keeps r) x) : Keeps r a := by
  subst e; exact h
theorem of_pair {α : Type} {r : State} {x : α × State} {a : α} {b : State} (e : x = (a, b)) (h : Keeps r x.2) :
    Keeps r b := by
  subst e; exact h
theorem of_pair1 {α : Type} {r : State} {x : State × α} {a : State} {b : α} (e : x = (a, b)) (h : Keeps r x.1) :
    Keeps r a := by
  subst e; exact h
theorem of_triple {α β : Type} {r : State} {x : α × β × State} {a : α} {c : β} {b : State} (e : x = (a, c, b))
    (h : Keeps r x.2.2) : Keeps r b := by
  subst e; exact h
theorem of_elem {r t : State} {fl : FFlags} {out : Nat} {x : ElemEnd} (e : x = .done fl out t) (h : ElemKeeps r x) :
    Keeps r t := by
  subst e; exact h
theorem of_elemTrap {r t : State} {y : Trap} {x : ElemEnd} (e : x = .trap y t) (h : ElemKeeps r x) : Keeps r t := by
  subst e; exact h
theorem of_retire {r t : State} {x : CoreEnd} (e : x = .retire t) (h : EndKeeps r x) : Keeps r t := by
  subst e; exact h
theorem of_jump {r t : State} {w : Word} {x : CoreEnd} (e : x = .jump w t) (h : EndKeeps r x) : Keeps r t := by
  subst e; exact h
theorem of_trap {r t : State} {y : Trap} {x : CoreEnd} (e : x = .trap y t) (h : EndKeeps r x) : Keeps r t := by
  subst e; exact h
theorem of_wait {r t : State} {x : CoreEnd} (e : x = .wait t) (h : EndKeeps r x) : Keeps r t := by
  subst e; exact h

theorem keeps_ite {c : Prop} [Decidable c] {r a b : State} (ha : c → Keeps r a) (hb : ¬c → Keeps r b) :
    Keeps r (if c then a else b) := by
  split <;> simp_all

theorem keeps_ite_ex {ε α : Type} {p : α → Prop} {c : Prop} [Decidable c] {a b : Except ε α} (ha : c → ExKeeps p a)
    (hb : ¬c → ExKeeps p b) : ExKeeps p (if c then a else b) := by
  split <;> simp_all

theorem keeps_ite_op {α : Type} {p : α → Prop} {c : Prop} [Decidable c] {a b : Option α} (ha : c → OpKeeps p a)
    (hb : ¬c → OpKeeps p b) : OpKeeps p (if c then a else b) := by
  split <;> simp_all

theorem keeps_ite_end {r : State} {c : Prop} [Decidable c] {a b : CoreEnd} (ha : c → EndKeeps r a)
    (hb : ¬c → EndKeeps r b) : EndKeeps r (if c then a else b) := by
  split <;> simp_all

theorem keeps_ite_try {r : State} {c : Prop} [Decidable c] {a b : Except (Trap × State) State} (ha : c → TryKeeps r a)
    (hb : ¬c → TryKeeps r b) : TryKeeps r (if c then a else b) := by
  split <;> simp_all

theorem keeps_foldl {α : Type} {r : State} {f : State → α → State} (l : List α) {s : State} (h : Keeps r s)
    (hf : ∀ t a, Keeps r t → Keeps r (f t a)) : Keeps r (l.foldl f s) := by
  induction l generalizing s with
  | nil => exact h
  | cons a l ih => exact ih (hf s a h)

/-- A property that a fold keeps. -/
theorem foldl_keeps {α β : Type} {p : β → Prop} {f : β → α → β} (l : List α) {b : β} (h : p b)
    (hf : ∀ b a, p b → p (f b a)) : p (l.foldl f b) := by
  induction l generalizing b with
  | nil => exact h
  | cons a l ih => exact ih (hf b a h)

/-! ### Raw updates of a state -/

theorem keeps_mk {r t : State} {out time mode ms clusters js gov tw net pw vd cx dr bt pins ras}
    {po : List Nat} {tl inv rr fr rq nf ps} (h : Keeps r t)
    (e : ms = ⟨t.ms.dram, po, t.ms.hosts, tl, inv, rr, fr, rq, nf, ps⟩) :
    Keeps r ⟨t.pending, out, t.freeCtr, time, mode, t.od, ms, t.cores, clusters, js, gov, tw, net, pw, vd, cx, dr, bt,
      pins, ras⟩ := by
  subst e
  exact ⟨h.pending, h.freeCtr, h.sound⟩

theorem keeps_same {r t : State} {out time mode clusters js gov tw net pw vd cx dr bt pins ras} (h : Keeps r t) :
    Keeps r ⟨t.pending, out, t.freeCtr, time, mode, t.od, t.ms, t.cores, clusters, js, gov, tw, net, pw, vd, cx, dr, bt,
      pins, ras⟩ := ⟨h.pending, h.freeCtr, h.sound⟩

theorem keeps_mem {r t : State} {out time mode clusters js gov tw net pw vd cx dr bt pins ras}
    {po : List Nat} {tl inv rr fr rq nf ps} (h : Keeps r t) :
    Keeps r ⟨t.pending, out, t.freeCtr, time, mode, t.od, ⟨t.ms.dram, po, t.ms.hosts, tl, inv, rr, fr, rq, nf, ps⟩,
      t.cores, clusters, js, gov, tw, net, pw, vd, cx, dr, bt, pins, ras⟩ := ⟨h.pending, h.freeCtr, h.sound⟩

/-- Free values taken. -/
theorem keeps_free {r t : State} {n : Nat} (h : Keeps r t) : Keeps r { t with freeCtr := t.freeCtr + n } :=
  ⟨h.pending, Nat.le_trans h.freeCtr (Nat.le_add_right _ _), h.sound⟩

/-- A dictionary entry stored. -/
theorem keeps_od {r t : State} {k v : Nat} (h : Keeps r t) : Keeps r { t with od := tset t.od k v } :=
  ⟨h.pending, h.freeCtr, fun hr => ⟨(h.sound hr).1, tsorted_tset _ _ _ (h.sound hr).2⟩⟩

/-- Device memory replaced by memory in canonical form. -/
theorem keeps_dram {r t : State} {m : List Host.Cell} {po : List Nat} (h : Keeps r t)
    (hm : memWf t.ms.dram = true → memWf m = true) :
    Keeps r { t with ms := { t.ms with dram := m, poison := po } } := by
  refine ⟨h.pending, h.freeCtr, fun hr => ?_⟩
  obtain ⟨h1, h2⟩ := h.sound hr
  simp only [memOk, Bool.and_eq_true] at h1
  exact ⟨by simp only [memOk, Bool.and_eq_true]; exact ⟨⟨hm h1.1.1, h1.1.2⟩, h1.2⟩, h2⟩

/-- Host memories replaced by memories in canonical form. -/
theorem keeps_hosts {r t : State} {hs : Tbl HostMem} (h : Keeps r t)
    (hm : t.ms.hosts.all (fun e => memWf e.2.mem) = true → hs.all (fun e => memWf e.2.mem) = true) :
    Keeps r { t with ms := { t.ms with hosts := hs } } := by
  refine ⟨h.pending, h.freeCtr, fun hr => ?_⟩
  obtain ⟨h1, h2⟩ := h.sound hr
  simp only [memOk, Bool.and_eq_true] at h1
  exact ⟨by simp only [memOk, Bool.and_eq_true]; exact ⟨⟨h1.1.1, hm h1.1.2⟩, h1.2⟩, h2⟩

/-- Cores replaced by cores whose tile memories are in canonical form. -/
theorem keeps_cores {r t : State} {cs : Tbl Core} (h : Keeps r t)
    (hm : t.cores.all (fun e => memWf e.2.tile) = true → cs.all (fun e => memWf e.2.tile) = true) :
    Keeps r { t with cores := cs } := by
  refine ⟨h.pending, h.freeCtr, fun hr => ?_⟩
  obtain ⟨h1, h2⟩ := h.sound hr
  simp only [memOk, Bool.and_eq_true] at h1
  exact ⟨by simp only [memOk, Bool.and_eq_true]; exact ⟨h1.1, hm h1.2⟩, h2⟩

/-- One core changed, its tile memory still in canonical form. -/
theorem keeps_core {r t : State} {k : Nat} {f : Core → Core} (h : Keeps r t)
    (hf : ∀ c, memWf c.tile = true → memWf (f c).tile = true) : Keeps r { t with cores := tmod {} t.cores k f } :=
  keeps_cores h fun hc => all_tmod (fun c : Core => memWf c.tile) _ _ _ _ hc rfl hf

end Sys2Proof.Machine
end

