-- ==== Sys2Proof/Laws/KeepsBase.lean ====
section
/-! SUPPORT. Every operation keeps the queue and the soundness of the state: memory, tasks, streams, the mirror, queue pairs and the journal. -/

namespace Sys2Proof.Machine

/-! ### Ops.lean -/

theorem odSet_keeps {ρ : State} {idx : Nat} {sub : Nat} {v : Nat} {s : State} (hK : Keeps ρ s) :
    Keeps ρ (odSet idx sub v s) := by
  unfold odSet
  with_reducible repeat' first | assumption | fail_if_no_progress (apply keeps_od)

theorem odAdd_keeps {ρ : State} {idx : Nat} {sub : Nat} {n : Nat} {s : State} (hK : Keeps ρ s) :
    Keeps ρ (odAdd idx sub n s) := by
  unfold odAdd
  with_reducible repeat' first | assumption | apply odSet_keeps

theorem odBump_keeps {ρ : State} {idx : Nat} {sub : Nat} {s : State} (hK : Keeps ρ s) :
    Keeps ρ (odBump idx sub s) := by
  unfold odBump
  with_reducible repeat' first | assumption | apply odAdd_keeps

theorem odMax32_keeps {ρ : State} {idx : Nat} {sub : Nat} {v : Nat} {s : State} (hK : Keeps ρ s) :
    Keeps ρ (odMax32 idx sub v s) := by
  unfold odMax32
  with_reducible repeat' first | assumption | apply odSet_keeps

theorem instMod_keeps {ρ : State} {n : Nat} {f : InstState → InstState} {s : State} (hK : Keeps ρ s) :
    Keeps ρ (instMod n f s) := by
  unfold instMod
  with_reducible repeat' first | assumption | fail_if_no_progress (apply keeps_same)

theorem emit_keeps {ρ : State} {m : OutMsg} {s : State} (hK : Keeps ρ s) :
    Keeps ρ (emit m s) := by
  unfold emit
  with_reducible repeat' first | assumption | fail_if_no_progress (apply keeps_same)

theorem takeFree_keeps {ρ : State} {s : State} (hK : Keeps ρ s) :
    Keeps ρ ((takeFree s).2) := by
  unfold takeFree
  with_reducible repeat' first | assumption | fail_if_no_progress (apply keeps_free)

theorem unlessHold_keeps {ρ : State} {s : State} {t : State} (hK : Keeps ρ s) (hK1 : Keeps ρ t) :
    Keeps ρ (unlessHold s t) := by
  unfold unlessHold
  with_reducible repeat' first | assumption | apply keeps_ite | intro _

theorem fatal_keeps {ρ : State} {reason : Nat} {s : State} (hK : Keeps ρ s) :
    Keeps ρ (fatal reason s) := by
  unfold fatal
  with_reducible repeat' first | assumption | apply keeps_ite | intro _ | fail_if_no_progress (apply keeps_same)

theorem postEvent_keeps {ρ : State} {k : EvKind} {s : State} (hK : Keeps ρ s) :
    Keeps ρ (postEvent k s) := by
  unfold postEvent
  with_reducible repeat' first | assumption | apply keeps_foldl | intro _ | fail_if_no_progress (apply keeps_same)

/-! ### Memory.lean -/

theorem requestBursts_keeps {ρ : State} {port : Nat} {pa : Nat} {n : Nat} {write : Bool} {s : State} (hK : Keeps ρ s) :
    Keeps ρ (requestBursts port pa n write s) := by
  unfold requestBursts
  with_reducible repeat' first
    | assumption
    | apply keeps_ite
    | apply keeps_foldl
    | intro _
    | fail_if_no_progress (apply keeps_same)
    | fail_if_no_progress (apply keeps_mem)
    | split
    | dsimp only
    | refine of_some (by assumption) ?_

theorem requestMasked_keeps {ρ : State} {port : Nat} {pa : Nat} {cover : Nat} {s : State} (hK : Keeps ρ s) :
    Keeps ρ (requestMasked port pa cover s) := by
  unfold requestMasked
  with_reducible repeat' first
    | assumption
    | intro _
    | fail_if_no_progress (apply keeps_same)
    | fail_if_no_progress (apply keeps_mem)
    | split
    | dsimp only
    | refine of_some (by assumption) ?_

theorem clusterMod_keeps {ρ : State} {k : Nat} {f : Cluster → Cluster} {s : State} (hK : Keeps ρ s) :
    Keeps ρ (clusterMod k f s) := by
  unfold clusterMod
  with_reducible repeat' first | assumption | fail_if_no_progress (apply keeps_same)

theorem l2Put_keeps {ρ : State} {k : Nat} {set : Nat} {way : Nat} {l : L2Line} {s : State} (hK : Keeps ρ s) :
    Keeps ρ (l2Put k set way l s) := by
  unfold l2Put
  with_reducible repeat' first | assumption | apply clusterMod_keeps

theorem l2Del_keeps {ρ : State} {k : Nat} {set : Nat} {way : Nat} {s : State} (hK : Keeps ρ s) :
    Keeps ρ (l2Del k set way s) := by
  unfold l2Del
  with_reducible repeat' first | assumption | apply clusterMod_keeps

theorem l2Parity_keeps {ρ : State} {k : Nat} {set : Nat} {way : Nat} {mask : Nat} {s : State} (hK : Keeps ρ s) :
    Keeps ρ ((l2Parity k set way mask s).1) := by
  unfold l2Parity
  with_reducible repeat' first
    | assumption
    | apply l2Put_keeps
    | apply odAdd_keeps
    | apply keeps_foldl
    | apply odSet_keeps
    | apply odBump_keeps
    | intro _
    | fail_if_no_progress (apply keeps_mem)
    | split
    | dsimp only

theorem snoopLine_keeps {ρ : State} {k : Nat} {need : Nat} {line : Nat} {acc : State × Option Nat} (hKacc : Keeps ρ acc.1) :
    Keeps ρ ((snoopLine k need line acc).1) := by
  unfold snoopLine
  with_reducible repeat' first
    | assumption
    | apply l2Parity_keeps
    | intro _
    | fail_if_no_progress (apply keeps_same)
    | fail_if_no_progress (apply keeps_mem)
    | split
    | dsimp only
    | refine of_some (by assumption) ?_
    | refine of_pair1 (by assumption) ?_

theorem snoopLost_keeps {ρ : State} {own : Option Nat} {need : Nat → Nat} {pa n : Nat} {s : State} (hK : Keeps ρ s) :
    Keeps ρ (snoopLost own need pa n s).1 := by
  unfold snoopLost
  refine foldl_keeps (p := fun acc : State × Option Nat => Keeps ρ acc.1) _ hK fun b a hb => ?_
  split
  · exact hb
  · exact foldl_keeps (p := fun acc : State × Option Nat => Keeps ρ acc.1) _ hb fun b a hb => snoopLine_keeps hb

theorem snoopRead_keeps {ρ : State} {pa : Nat} {n : Nat} {s : State} (hK : Keeps ρ s) :
    Keeps ρ (snoopRead pa n s) := by
  unfold snoopRead
  with_reducible repeat' first | assumption | apply snoopLost_keeps | intro _

theorem map_tile_all {t : Tbl Core} {f : Nat × Core → Nat × Core} (h : t.all (fun e => memWf e.2.tile) = true)
    (hf : ∀ e, (f e).2.tile = e.2.tile) : (t.map f).all (fun e => memWf e.2.tile) = true := by
  rw [List.all_eq_true] at h ⊢
  intro e he
  obtain ⟨x, hx, rfl⟩ := List.mem_map.1 he
  rw [hf]
  exact h x hx

theorem keeps_coresMap {r t : State} {f : Nat × Core → Nat × Core} {cl : Tbl Cluster} (h : Keeps r t)
    (hf : ∀ e, (f e).2.tile = e.2.tile) : Keeps r { t with clusters := cl, cores := t.cores.map f } :=
  keeps_cores (t := { t with clusters := cl }) (keeps_same h) fun hc => map_tile_all hc hf

theorem snoopWrite_keeps {r : State} {by_ : Option Nat} {pa : Nat} {n : Nat} {s : State} (h : Keeps r s) :
    Keeps r (snoopWrite by_ pa n s) := by
  unfold snoopWrite
  refine keeps_coresMap h ?_
  rintro ⟨i, c⟩
  dsimp only
  split <;> rfl

theorem physPut_keeps {r : State} {by_ : Option Nat} {pa : Nat} {bytes : List Byte} {s : State} (h : Keeps r s) :
    Keeps r (physPut by_ pa bytes s) := by
  unfold physPut
  exact keeps_dram (snoopWrite_keeps h) fun hm => memPut_wf _ _ _ hm

theorem tlbFill_keeps {ρ : State} {unit : Nat} {ctx : Ctx} {va : Nat} {l : Leaf} {s : State} (hK : Keeps ρ s) :
    Keeps ρ (tlbFill unit ctx va l s) := by
  unfold tlbFill
  with_reducible repeat' first | assumption | apply keeps_ite | intro _ | fail_if_no_progress (apply keeps_mem)

theorem requestWalk_keeps {ρ : State} {unit : Nat} {ctx : Ctx} {va : Nat} {s : State} (hK : Keeps ρ s) :
    Keeps ρ (requestWalk unit ctx va s) := by
  unfold requestWalk
  with_reducible repeat' first
    | assumption
    | apply requestBursts_keeps
    | apply keeps_ite
    | apply keeps_foldl
    | intro _
    | split

theorem logWrite_keeps {ρ : State} {ctx : Ctx} {va : Nat} {n : Nat} {s : State} (hK : Keeps ρ s) :
    Keeps ρ (logWrite ctx va n s) := by
  unfold logWrite
  with_reducible repeat' first
    | assumption
    | apply keeps_ite
    | apply keeps_foldl
    | apply physPut_keeps
    | intro _
    | split

theorem devReadPieces_keeps {ρ : State} {unit : Nat} {ctx : Ctx} {y0 : List (Nat × Nat)} {y1 : State} (hK : Keeps ρ y1) :
    Keeps ρ ((devReadPieces unit ctx y0 y1).2) := by
  fun_induction devReadPieces unit ctx y0 y1
  with_reducible repeat' first
    | assumption
    | apply requestWalk_keeps
    | apply snoopRead_keeps
    | apply tlbFill_keeps
    | apply requestBursts_keeps
    | apply keeps_ite
    | intro _
    | (apply ‹∀ _, _›)
    | fail_if_no_progress (apply keeps_same)
    | fail_if_no_progress (apply keeps_mem)
    | split
    | dsimp only
    | refine of_pair (by assumption) ?_
    | refine of_did (by assumption) ?_
    | refine of_ok (by assumption) ?_
    | refine of_threw (by assumption) ?_

theorem devRead_keeps {ρ : State} {unit : Nat} {ctx : Ctx} {va : Nat} {n : Nat} {s : State} (hK : Keeps ρ s) :
    Keeps ρ ((devRead unit ctx va n s).2) := by
  unfold devRead
  with_reducible repeat' first | assumption | apply devReadPieces_keeps

theorem devWritePieces_keeps {ρ : State} {unit : Nat} {ctx : Ctx} {bytes : List Byte} {base : Nat} {y0 : List (Nat × Nat)} {y1 : State} (hK : Keeps ρ y1) :
    Keeps ρ ((devWritePieces unit ctx bytes base y0 y1).2) := by
  fun_induction devWritePieces unit ctx bytes base y0 y1
  with_reducible repeat' first
    | assumption
    | apply requestWalk_keeps
    | apply tlbFill_keeps
    | apply logWrite_keeps
    | apply physPut_keeps
    | apply requestBursts_keeps
    | apply keeps_ite
    | intro _
    | (apply ‹∀ _, _›)
    | fail_if_no_progress (apply keeps_same)
    | fail_if_no_progress (apply keeps_mem)
    | split
    | dsimp only
    | refine of_pair (by assumption) ?_
    | refine of_did (by assumption) ?_
    | refine of_ok (by assumption) ?_
    | refine of_threw (by assumption) ?_

theorem devWrite_keeps {ρ : State} {unit : Nat} {ctx : Ctx} {va : Nat} {bytes : List Byte} {s : State} (hK : Keeps ρ s) :
    Keeps ρ ((devWrite unit ctx va bytes s).2) := by
  unfold devWrite
  with_reducible repeat' first | assumption | apply devWritePieces_keeps

theorem devWriteWhole_keeps {ρ : State} {unit : Nat} {ctx : Ctx} {va : Nat} {bytes : List Byte} {s : State} (hK : Keeps ρ s) :
    Keeps ρ ((devWriteWhole unit ctx va bytes s).2) := by
  unfold devWriteWhole
  with_reducible repeat' first | assumption | apply devWrite_keeps | split

theorem hostMod_keeps {r s : State} {link : Nat} {f : HostMem → HostMem} (h : Keeps r s)
    (hf : ∀ x, memWf x.mem = true → memWf (f x).mem = true) :
    Keeps r { s with ms := { s.ms with hosts := tmod {} s.ms.hosts link f } } :=
  keeps_hosts h fun hh => all_tmod (fun x : HostMem => memWf x.mem) _ _ _ _ hh rfl hf

theorem hostWrite_keeps {r : State} {link : Nat} {va : Nat} {bytes : List Byte} {s : State} (h : Keeps r s) :
    Keeps r (hostWrite link va bytes s).2 := by
  unfold hostWrite
  split
  · exact h
  · exact hostMod_keeps h fun x hx => memPut_wf _ _ _ hx

theorem sendMsix_keeps {ρ : State} {n : Nat} {v : Nat} {s : State} (hK : Keeps ρ s) :
    Keeps ρ (sendMsix n v s) := by
  unfold sendMsix
  with_reducible repeat' first
    | assumption
    | apply emit_keeps
    | apply keeps_ite
    | intro _
    | fail_if_no_progress (apply keeps_same)
    | fail_if_no_progress (apply keeps_mem)
    | split
    | dsimp only

theorem noteViolation_keeps {ρ : State} {f : AccFail} {s : State} (hK : Keeps ρ s) :
    Keeps ρ (noteViolation f s) := by
  unfold noteViolation
  with_reducible repeat' first
    | assumption
    | apply odBump_keeps
    | intro _
    | fail_if_no_progress (apply keeps_same)
    | fail_if_no_progress (apply keeps_mem)
    | split
    | dsimp only

theorem locRead_keeps {ρ : State} {loc : Loc} {unit : Nat} {n : Nat} {va : Nat} {len : Nat} {s : State} (hK : Keeps ρ s) :
    Keeps ρ ((locRead loc unit n va len s).2) := by
  unfold locRead
  with_reducible repeat' first | assumption | apply devRead_keeps | split

theorem locWrite_keeps {ρ : State} {loc : Loc} {unit : Nat} {n : Nat} {va : Nat} {bytes : List Byte} {s : State} (hK : Keeps ρ s) :
    Keeps ρ ((locWrite loc unit n va bytes s).2) := by
  unfold locWrite
  with_reducible repeat' first | assumption | apply devWriteWhole_keeps | apply hostWrite_keeps | split

/-! ### Jobs.lean -/

theorem jobMod_keeps {ρ : State} {jid : Nat} {f : Job → Job} {s : State} (hK : Keeps ρ s) :
    Keeps ρ (jobMod jid f s) := by
  unfold jobMod
  with_reducible repeat' first | assumption | fail_if_no_progress (apply keeps_same)

theorem taskMod_keeps {ρ : State} {slot : Nat} {f : Task → Task} {s : State} (hK : Keeps ρ s) :
    Keeps ρ (taskMod slot f s) := by
  unfold taskMod
  with_reducible repeat' first | assumption | fail_if_no_progress (apply keeps_same)

theorem tasksWhere_keeps {ρ : State} {p : Task → Bool} {f : Task → Task} {s : State} (hK : Keeps ρ s) :
    Keeps ρ (tasksWhere p f s) := by
  unfold tasksWhere
  with_reducible repeat' first | assumption | fail_if_no_progress (apply keeps_same)

theorem leaveRunning_keeps {ρ : State} {t : Task} {s : State} (hK : Keeps ρ s) :
    Keeps ρ (leaveRunning t s) := by
  unfold leaveRunning
  with_reducible repeat' first
    | assumption
    | apply odAdd_keeps
    | apply keeps_ite
    | intro _
    | fail_if_no_progress (apply keeps_same)
    | fail_if_no_progress (apply keeps_mem)
    | split

theorem noteBusy_keeps {ρ : State} {u : Nat} {s : State} (hK : Keeps ρ s) :
    Keeps ρ (noteBusy u s) := by
  unfold noteBusy
  with_reducible repeat' first
    | assumption
    | apply keeps_ite
    | intro _
    | fail_if_no_progress (apply keeps_same)
    | fail_if_no_progress (apply keeps_mem)
    | split
    | dsimp only

theorem noteHeld_keeps {ρ : State} {u : Nat} {s : State} (hK : Keeps ρ s) :
    Keeps ρ (noteHeld u s) := by
  unfold noteHeld
  with_reducible repeat' first
    | assumption
    | apply keeps_ite
    | intro _
    | fail_if_no_progress (apply keeps_same)
    | fail_if_no_progress (apply keeps_mem)
    | split
    | dsimp only

theorem leaveHeld_keeps {ρ : State} {u : Nat} {s : State} (hK : Keeps ρ s) :
    Keeps ρ (leaveHeld u s) := by
  unfold leaveHeld
  with_reducible repeat' first
    | assumption
    | apply odAdd_keeps
    | apply keeps_ite
    | intro _
    | fail_if_no_progress (apply keeps_same)
    | fail_if_no_progress (apply keeps_mem)
    | split

theorem leaveReady_keeps {ρ : State} {t : Task} {s : State} (hK : Keeps ρ s) :
    Keeps ρ (leaveReady t s) := by
  unfold leaveReady
  with_reducible repeat' first
    | assumption
    | apply odMax32_keeps
    | apply odAdd_keeps
    | apply keeps_ite
    | intro _
    | split

theorem wakeTask_keeps {ρ : State} {slot : Nat} {s : State} (hK : Keeps ρ s) :
    Keeps ρ (wakeTask slot s) := by
  unfold wakeTask
  with_reducible repeat' first | assumption | apply taskMod_keeps | fail_if_no_progress (apply keeps_same)

theorem noteEvent_keeps {ρ : State} {t : Task} {fl : BitVec 32} {s : State} (hK : Keeps ρ s) :
    Keeps ρ (noteEvent t fl s) := by
  unfold noteEvent
  exact keeps_ite (fun _ => keeps_core hK fun k hk => hk) fun _ => hK

theorem setFlags_keeps {ρ : State} {slot : Nat} {fl : BitVec 32} {s : State} (hK : Keeps ρ s) :
    Keeps ρ (setFlags slot fl s) := by
  unfold setFlags
  with_reducible repeat' first
    | assumption
    | apply noteEvent_keeps
    | apply wakeTask_keeps
    | apply taskMod_keeps
    | apply keeps_ite
    | intro _
    | fail_if_no_progress (apply keeps_same)
    | fail_if_no_progress (apply keeps_mem)
    | split
    | dsimp only
    | refine of_some (by assumption) ?_

theorem flagsArrive_keeps {ρ : State} {slot : Nat} {t : Task} {flags : BitVec 32} {s : State} (hK : Keeps ρ s) :
    Keeps ρ (flagsArrive slot t flags s) := by
  unfold flagsArrive
  with_reducible repeat' first
    | assumption
    | apply setFlags_keeps
    | apply odBump_keeps
    | apply keeps_ite
    | intro _
    | fail_if_no_progress (apply keeps_same)
    | fail_if_no_progress (apply keeps_mem)
    | split
    | dsimp only
    | refine of_some (by assumption) ?_

theorem setFlagsWhere_keeps {ρ : State} {p : Task → Bool} {fl : BitVec 32} {s : State} (hK : Keeps ρ s) :
    Keeps ρ (setFlagsWhere p fl s) := by
  unfold setFlagsWhere
  with_reducible repeat' first
    | assumption
    | apply flagsArrive_keeps
    | apply keeps_ite
    | apply keeps_foldl
    | intro _
    | split

theorem setUnitState_keeps {ρ : State} {u : Nat} {v : Nat} {s : State} (hK : Keeps ρ s) :
    Keeps ρ (setUnitState u v s) := by
  unfold setUnitState
  with_reducible repeat' first | assumption | apply odSet_keeps | split

theorem setUnitOwner_keeps {ρ : State} {u : Nat} {v : Nat} {s : State} (hK : Keeps ρ s) :
    Keeps ρ (setUnitOwner u v s) := by
  unfold setUnitOwner
  with_reducible repeat' first | assumption | apply odSet_keeps | split

theorem unitCount_keeps {ρ : State} {u : Nat} {sub : Nat} {n : Nat} {s : State} (hK : Keeps ρ s) :
    Keeps ρ (unitCount u sub n s) := by
  unfold unitCount
  with_reducible repeat' first | assumption | apply odAdd_keeps | split

theorem kilnWaits_keeps {ρ : State} {t : Task} {s : State} (hK : Keeps ρ s) :
    Keeps ρ (kilnWaits t s) := by
  unfold kilnWaits
  with_reducible repeat' first | assumption | apply setUnitState_keeps | apply keeps_foldl | intro _

theorem kilnServes_keeps {ρ : State} {t : Task} {s : State} (hK : Keeps ρ s) :
    Keeps ρ (kilnServes t s) := by
  unfold kilnServes
  with_reducible repeat' first
    | assumption
    | apply setUnitState_keeps
    | apply keeps_ite
    | apply keeps_foldl
    | intro _
    | split

theorem markParked_keeps {ρ : State} {t : Task} {s : State} (hK : Keeps ρ s) :
    Keeps ρ (markParked t s) := by
  unfold markParked
  with_reducible repeat' first
    | assumption
    | apply kilnWaits_keeps
    | apply odSet_keeps
    | apply setUnitState_keeps
    | apply keeps_ite
    | intro _
    | split
    | dsimp only

theorem countStall_keeps {ρ : State} {t : Task} {s : State} (hK : Keeps ρ s) :
    Keeps ρ (countStall t s) := by
  unfold countStall
  with_reducible repeat' first
    | assumption
    | apply unitCount_keeps
    | intro _
    | fail_if_no_progress (apply keeps_same)
    | fail_if_no_progress (apply keeps_mem)
    | split
    | dsimp only
    | refine of_some (by assumption) ?_

theorem clearGroups_keeps {ρ : State} {t : Task} {s : State} (hK : Keeps ρ s) :
    Keeps ρ (clearGroups t s) := by
  unfold clearGroups
  with_reducible repeat' first | assumption | apply setUnitState_keeps | apply keeps_foldl | intro _

theorem haltChannel_keeps {ρ : State} {t : Task} {failed : Bool} {s : State} (hK : Keeps ρ s) :
    Keeps ρ (haltChannel t failed s) := by
  unfold haltChannel
  with_reducible repeat' first | assumption | apply odSet_keeps | apply keeps_ite | intro _ | split

theorem stopTask_keeps {ρ : State} {slot : Nat} {cancel : Bool} {s : State} (hK : Keeps ρ s) :
    Keeps ρ (stopTask slot cancel s) := by
  unfold stopTask
  with_reducible repeat' first
    | assumption
    | apply haltChannel_keeps
    | apply clearGroups_keeps
    | apply countStall_keeps
    | apply leaveReady_keeps
    | apply leaveRunning_keeps
    | apply taskMod_keeps
    | apply keeps_ite
    | intro _
    | fail_if_no_progress (apply keeps_same)
    | fail_if_no_progress (apply keeps_mem)
    | split
    | dsimp only
    | refine of_some (by assumption) ?_

theorem releaseSpill_keeps {ρ : State} {jid : Nat} {s : State} (hK : Keeps ρ s) :
    Keeps ρ (releaseSpill jid s) := by
  unfold releaseSpill
  with_reducible repeat' first
    | assumption
    | apply keeps_ite
    | apply setFlagsWhere_keeps
    | apply jobMod_keeps
    | apply odSet_keeps
    | intro _
    | split

theorem dropFaults_keeps {ρ : State} {j : Job} {s : State} (hK : Keeps ρ s) :
    Keeps ρ (dropFaults j s) := by
  unfold dropFaults
  with_reducible repeat' first | assumption | apply instMod_keeps

theorem closeZones_keeps {ρ : State} {jid : Nat} {status : Nat} {s : State} (hK : Keeps ρ s) :
    Keeps ρ (closeZones jid status s) := by
  unfold closeZones
  with_reducible repeat' first
    | assumption
    | apply keeps_foldl
    | intro _
    | fail_if_no_progress (apply keeps_same)
    | fail_if_no_progress (apply keeps_mem)
    | dsimp only

theorem failJob_keeps {ρ : State} {jid : Nat} {status : Nat} {er : ErrRec} {s : State} (hK : Keeps ρ s) :
    Keeps ρ (failJob jid status er s) := by
  unfold failJob
  with_reducible repeat' first
    | assumption
    | apply odBump_keeps
    | apply stopTask_keeps
    | apply closeZones_keeps
    | apply releaseSpill_keeps
    | apply dropFaults_keeps
    | apply jobMod_keeps
    | apply keeps_ite
    | apply keeps_foldl
    | intro _
    | fail_if_no_progress (apply keeps_same)
    | fail_if_no_progress (apply keeps_mem)
    | split
    | dsimp only
    | refine of_some (by assumption) ?_

theorem failTask_keeps {ρ : State} {slot : Nat} {status : Nat} {er : ErrRec} {s : State} (hK : Keeps ρ s) :
    Keeps ρ (failTask slot status er s) := by
  unfold failTask
  with_reducible repeat' first | assumption | apply failJob_keeps | split

theorem rasLog_keeps {ρ : State} {kind : Nat} {n : Nat} {tail : List Byte} {s : State} (hK : Keeps ρ s) :
    Keeps ρ (rasLog kind n tail s) := by
  unfold rasLog
  with_reducible repeat' first | assumption | apply odBump_keeps | fail_if_no_progress (apply keeps_same)

theorem rasEvent_keeps {ρ : State} {kind : Nat} {n : Nat} {address : Nat} {status : Nat} {reason : Nat} {s : State} (hK : Keeps ρ s) :
    Keeps ρ (rasEvent kind n address status reason s) := by
  unfold rasEvent
  with_reducible repeat' first | assumption | apply rasLog_keeps

theorem failFault_keeps {ρ : State} {f : FaultRec} {s : State} (hK : Keeps ρ s) :
    Keeps ρ (failFault f s) := by
  unfold failFault
  with_reducible repeat' first | assumption | apply failJob_keeps | split

theorem writeFault_keeps {ρ : State} {f : FaultRec} {s : State} (hK : Keeps ρ s) :
    Keeps ρ (writeFault f s) := by
  unfold writeFault
  with_reducible repeat' first
    | assumption
    | apply locWrite_keeps
    | apply odSet_keeps
    | apply noteViolation_keeps
    | apply instMod_keeps
    | apply failFault_keeps
    | apply odBump_keeps
    | apply sendMsix_keeps
    | apply keeps_foldl
    | intro _
    | fail_if_no_progress (apply keeps_same)
    | fail_if_no_progress (apply keeps_mem)
    | split
    | dsimp only
    | refine of_pair (by assumption) ?_

theorem postFault_keeps {ρ : State} {f : FaultRec} {s : State} (hK : Keeps ρ s) :
    Keeps ρ (postFault f s) := by
  unfold postFault
  with_reducible repeat' first
    | assumption
    | apply keeps_ite
    | apply odBump_keeps
    | apply instMod_keeps
    | apply writeFault_keeps
    | intro _

theorem parkSince_keeps {ρ : State} {slot : Nat} {addr : Nat} {reason : Nat} {level : Nat} {access : Nat} {channel : Nat} {since : Nat} {s : State} (hK : Keeps ρ s) :
    Keeps ρ (parkSince slot addr reason level access channel since s) := by
  unfold parkSince
  with_reducible repeat' first
    | assumption
    | apply failFault_keeps
    | apply markParked_keeps
    | apply leaveRunning_keeps
    | apply taskMod_keeps
    | apply postFault_keeps
    | apply keeps_ite
    | intro _
    | fail_if_no_progress (apply keeps_same)
    | fail_if_no_progress (apply keeps_mem)
    | split
    | dsimp only
    | refine of_some (by assumption) ?_

theorem parkAt_keeps {ρ : State} {slot : Nat} {addr : Nat} {reason : Nat} {level : Nat} {access : Nat} {channel : Nat} {same : Bool} {s : State} (hK : Keeps ρ s) :
    Keeps ρ (parkAt slot addr reason level access channel same s) := by
  unfold parkAt
  with_reducible repeat' first
    | assumption
    | apply parkSince_keeps
    | intro _
    | fail_if_no_progress (apply keeps_same)
    | fail_if_no_progress (apply keeps_mem)
    | split
    | dsimp only
    | refine of_some (by assumption) ?_

theorem parkTask_keeps {ρ : State} {slot : Nat} {addr : Nat} {reason : Nat} {level : Nat} {access : Nat} {channel : Nat} {s : State} (hK : Keeps ρ s) :
    Keeps ρ (parkTask slot addr reason level access channel s) := by
  unfold parkTask
  with_reducible repeat' first | assumption | apply parkAt_keeps | intro _

theorem accessFailed_keeps {ρ : State} {slot : Nat} {write : Bool} {channel : Nat} {e : AccFail} {s : State} (hK : Keeps ρ s) :
    Keeps ρ (accessFailed slot write channel e s) := by
  unfold accessFailed
  with_reducible repeat' first | assumption | apply parkTask_keeps | apply failTask_keeps | apply odBump_keeps | split

/-! ### Streams.lean -/

theorem pushOut_keeps {ρ : State} {slot : Nat} {port : Nat} {es : List Elem} {s : State} (hK : Keeps ρ s) :
    Keeps ρ (pushOut slot port es s) := by
  unfold pushOut
  with_reducible repeat' first | assumption | apply taskMod_keeps

theorem engMod_keeps {ρ : State} {slot : Nat} {f : Eng → Eng} {s : State} (hK : Keeps ρ s) :
    Keeps ρ (engMod slot f s) := by
  unfold engMod
  with_reducible repeat' first | assumption | apply taskMod_keeps

theorem leaveAll_keeps {ρ : State} {slot : Nat} {y0 : List (Nat × Elem)} {y1 : State} (hK : Keeps ρ y1) :
    Keeps ρ (leaveAll slot y0 y1) := by
  fun_induction leaveAll slot y0 y1
  with_reducible repeat' first
    | assumption
    | apply engMod_keeps
    | apply pushOut_keeps
    | apply failTask_keeps
    | intro _
    | (apply ‹∀ _, _›)
    | fail_if_no_progress (apply keeps_same)
    | fail_if_no_progress (apply keeps_mem)
    | split
    | dsimp only
    | refine of_some (by assumption) ?_

theorem drain_keeps {ρ : State} {slot : Nat} {s : State} (hK : Keeps ρ s) :
    Keeps ρ (drain slot s) := by
  unfold drain
  with_reducible repeat' first
    | assumption
    | apply leaveAll_keeps
    | apply keeps_ite
    | intro _
    | fail_if_no_progress (apply keeps_same)
    | fail_if_no_progress (apply keeps_mem)
    | split
    | dsimp only
    | refine of_some (by assumption) ?_

theorem emitOn_keeps {ρ : State} {slot : Nat} {xs : List (Nat × Elem)} {s : State} (hK : Keeps ρ s) :
    Keeps ρ (emitOn slot xs s) := by
  unfold emitOn
  with_reducible repeat' first
    | assumption
    | apply drain_keeps
    | apply engMod_keeps
    | intro _
    | fail_if_no_progress (apply keeps_same)
    | fail_if_no_progress (apply keeps_mem)

theorem emitElems_keeps {ρ : State} {slot : Nat} {port : Nat} {es : List Elem} {s : State} (hK : Keeps ρ s) :
    Keeps ρ (emitElems slot port es s) := by
  unfold emitElems
  with_reducible repeat' first | assumption | apply emitOn_keeps | intro _

theorem emitRows_keeps {ρ : State} {slot : Nat} {rows : List (List Elem)} {s : State} (hK : Keeps ρ s) :
    Keeps ρ (emitRows slot rows s) := by
  unfold emitRows
  with_reducible repeat' first | assumption | apply emitOn_keeps | intro _

theorem endOuts_keeps {ρ : State} {slot : Nat} {s : State} (hK : Keeps ρ s) :
    Keeps ρ (endOuts slot s) := by
  unfold endOuts
  with_reducible repeat' first | assumption | apply taskMod_keeps

theorem dropRows_keeps {ρ : State} {slot : Nat} {n : Nat} {s : State} (hK : Keeps ρ s) :
    Keeps ρ (dropRows slot n s) := by
  unfold dropRows
  with_reducible repeat' first | assumption | apply taskMod_keeps

theorem dropPort_keeps {ρ : State} {slot : Nat} {port : Nat} {n : Nat} {s : State} (hK : Keeps ρ s) :
    Keeps ρ (dropPort slot port n s) := by
  unfold dropPort
  with_reducible repeat' first | assumption | apply taskMod_keeps

theorem takeUpTo_keeps {ρ : State} {slot : Nat} {port : Nat} {n : Nat} {s : State} (hK : Keeps ρ s) :
    Keeps ρ ((takeUpTo slot port n s).2) := by
  unfold takeUpTo
  with_reducible repeat' first
    | assumption
    | apply dropPort_keeps
    | intro _
    | fail_if_no_progress (apply keeps_same)
    | fail_if_no_progress (apply keeps_mem)
    | split
    | dsimp only
    | refine of_some (by assumption) ?_

theorem takeRows_keeps {ρ : State} {slot : Nat} {s : State} (h : Keeps ρ s) : Keeps ρ (takeRows slot s).2 := by
  unfold takeRows
  split
  · exact h
  · split
    · refine foldl_keeps (p := fun acc : (List (List Elem) × State) × Bool => Keeps ρ acc.1.2) _ h fun b a hb => ?_
      dsimp only
      split
      · exact dropPort_keeps hb
      · exact hb
    · exact dropRows_keeps h

theorem takeBytes_keeps {ρ : State} {slot : Nat} {port : Nat} {s : State} (hK : Keeps ρ s) :
    Keeps ρ ((takeBytes slot port s).2) := by
  unfold takeBytes
  with_reducible repeat' first | assumption | apply dropPort_keeps | split

theorem emitBytes_keeps {ρ : State} {slot : Nat} {port : Nat} {bs : List Byte} {s : State} (hK : Keeps ρ s) :
    Keeps ρ (emitBytes slot port bs s) := by
  unfold emitBytes
  with_reducible repeat' first | assumption | apply emitElems_keeps

theorem blobDone_keeps {ρ : State} {slot : Nat} {s : State} (hK : Keeps ρ s) :
    Keeps ρ (blobDone slot s) := by
  unfold blobDone
  with_reducible repeat' first | assumption | apply taskMod_keeps

/-! ### Admission.lean -/

theorem admitRead_keeps {ρ : State} {n : Nat} {isHost : Bool} {a : Nat} {len : Nat} {s : State} (hK : Keeps ρ s) :
    Keeps ρ ((admitRead n isHost a len s).2) := by
  unfold admitRead
  with_reducible repeat' first
    | assumption
    | apply noteViolation_keeps
    | apply devRead_keeps
    | apply keeps_ite
    | intro _
    | fail_if_no_progress (apply keeps_same)
    | fail_if_no_progress (apply keeps_mem)
    | split
    | dsimp only
    | refine of_pair (by assumption) ?_
    | refine of_did (by assumption) ?_
    | refine of_ok (by assumption) ?_
    | refine of_threw (by assumption) ?_

theorem readLists_keeps {ρ : State} {n : Nat} {img : List Byte} {vals : List (List Byte)} {y0 : List Nat} {y1 : Tbl (List (List Byte))} {y2 : State} (hK : Keeps ρ y2) :
    Keeps ρ ((readLists n img vals y0 y1 y2).2) := by
  fun_induction readLists n img vals y0 y1 y2
  with_reducible repeat' first
    | assumption
    | apply admitRead_keeps
    | (apply ‹∀ _, _›)
    | refine of_pair (by assumption) ?_

theorem placeRead_keeps {ρ : State} {n : Nat} {w : Place3} {off : Nat} {len : Nat} {s : State} (hK : Keeps ρ s) :
    Keeps ρ ((placeRead n w off len s).2) := by
  unfold placeRead
  with_reducible repeat' first | assumption | apply admitRead_keeps | split

theorem admitPlan_keeps {ρ : State} {n : Nat} {head : List Byte} {plan : Place3} {param : Place3} {s : State} (hK : Keeps ρ s) :
    Keeps ρ ((admitPlan n head plan param s).2) := by
  unfold admitPlan
  with_reducible repeat' first
    | assumption
    | apply placeRead_keeps
    | apply readLists_keeps
    | apply keeps_ite
    | intro _
    | fail_if_no_progress (apply keeps_same)
    | fail_if_no_progress (apply keeps_mem)
    | split
    | dsimp only
    | refine of_pair (by assumption) ?_
    | refine of_did (by assumption) ?_
    | refine of_ok (by assumption) ?_
    | refine of_some (by assumption) ?_
    | refine of_threw (by assumption) ?_

/-! ### Mirror.lean -/

theorem twMod_keeps {ρ : State} {f : TwinState → TwinState} {s : State} (hK : Keeps ρ s) :
    Keeps ρ (twMod f s) := by
  unfold twMod
  with_reducible repeat' first | assumption | fail_if_no_progress (apply keeps_same)

theorem flushMirror_keeps {ρ : State} {y0 : Nat} {y1 : State} (hK : Keeps ρ y1) :
    Keeps ρ (flushMirror y0 y1) := by
  fun_induction flushMirror y0 y1
  with_reducible repeat' first | assumption | apply twMod_keeps | apply emit_keeps | (apply ‹∀ _, _›)

theorem sendPlaced_keeps {ρ : State} {back : Bool} {place : Nat} {r : MRec} {s : State} (hK : Keeps ρ s) :
    Keeps ρ (sendPlaced back place r s) := by
  unfold sendPlaced
  with_reducible repeat' first
    | assumption
    | apply twMod_keeps
    | apply odBump_keeps
    | apply flushMirror_keeps
    | apply keeps_ite
    | intro _
    | fail_if_no_progress (apply keeps_same)
    | fail_if_no_progress (apply keeps_mem)
    | split
    | dsimp only

theorem sendItem_keeps {ρ : State} {back : Bool} {r : MRec} {s : State} (hK : Keeps ρ s) :
    Keeps ρ (sendItem back r s) := by
  unfold sendItem
  with_reducible repeat' first | assumption | apply sendPlaced_keeps

theorem mirror_keeps {ρ : State} {r : MRec} {s : State} (hK : Keeps ρ s) :
    Keeps ρ (mirror r s) := by
  unfold mirror
  with_reducible repeat' first | assumption | apply keeps_ite | apply sendItem_keeps | intro _

/-! ### NetBase.lean -/

theorem netMod_keeps {ρ : State} {f : NetState → NetState} {s : State} (hK : Keeps ρ s) :
    Keeps ρ (netMod f s) := by
  unfold netMod
  with_reducible repeat' first | assumption | fail_if_no_progress (apply keeps_same)

theorem qpMod_keeps {ρ : State} {q : Nat} {f : QP → QP} {s : State} (hK : Keeps ρ s) :
    Keeps ρ (qpMod q f s) := by
  unfold qpMod
  with_reducible repeat' first | assumption | apply netMod_keeps

theorem sendPacket_keeps {ρ : State} {k : Nat} {psn : Nat} {m : RoceMsg} {s : State} (hK : Keeps ρ s) :
    Keeps ρ (sendPacket k psn m s) := by
  unfold sendPacket
  with_reducible repeat' first
    | assumption
    | apply qpMod_keeps
    | apply emit_keeps
    | apply keeps_ite
    | intro _
    | fail_if_no_progress (apply keeps_same)
    | fail_if_no_progress (apply keeps_mem)
    | split
    | dsimp only
    | refine of_some (by assumption) ?_

theorem releaseHeld_keeps {ρ : State} {k : Nat} {s : State} (hK : Keeps ρ s) :
    Keeps ρ (releaseHeld k s) := by
  unfold releaseHeld
  with_reducible repeat' first
    | assumption
    | apply sendPacket_keeps
    | apply qpMod_keeps
    | apply keeps_ite
    | apply keeps_foldl
    | intro _
    | fail_if_no_progress (apply keeps_same)
    | fail_if_no_progress (apply keeps_mem)
    | split
    | dsimp only
    | refine of_some (by assumption) ?_

theorem transmit_keeps {ρ : State} {k : Nat} {q : QP} {m : TxMsg} {s : State} (hK : Keeps ρ s) :
    Keeps ρ (transmit k q m s) := by
  unfold transmit
  with_reducible repeat' first
    | assumption
    | apply netMod_keeps
    | apply sendPacket_keeps
    | apply keeps_ite
    | intro _
    | fail_if_no_progress (apply keeps_same)
    | fail_if_no_progress (apply keeps_mem)
    | split

theorem flushQp_keeps {ρ : State} {k : Nat} {s : State} (hK : Keeps ρ s) :
    Keeps ρ (flushQp k s) := by
  unfold flushQp
  with_reducible repeat' first
    | assumption
    | apply transmit_keeps
    | apply qpMod_keeps
    | apply keeps_ite
    | apply keeps_foldl
    | intro _
    | fail_if_no_progress (apply keeps_same)
    | fail_if_no_progress (apply keeps_mem)
    | split
    | dsimp only
    | refine of_some (by assumption) ?_

theorem resend_keeps {ρ : State} {k : Nat} {s : State} (hK : Keeps ρ s) :
    Keeps ρ (resend k s) := by
  unfold resend
  with_reducible repeat' first
    | assumption
    | apply transmit_keeps
    | apply qpMod_keeps
    | apply keeps_ite
    | apply keeps_foldl
    | intro _
    | fail_if_no_progress (apply keeps_same)
    | fail_if_no_progress (apply keeps_mem)
    | split
    | dsimp only
    | refine of_some (by assumption) ?_

theorem resume_keeps {ρ : State} {k : Nat} {s : State} (hK : Keeps ρ s) :
    Keeps ρ (resume k s) := by
  unfold resume
  with_reducible repeat' first | assumption | apply resend_keeps | apply releaseHeld_keeps | intro _

theorem qpSend_keeps {ρ : State} {k : Nat} {why : TxFor} {m : RoceMsg} {s : State} (hK : Keeps ρ s) :
    Keeps ρ (qpSend k why m s) := by
  unfold qpSend
  with_reducible repeat' first
    | assumption
    | apply keeps_ite
    | apply flushQp_keeps
    | apply qpMod_keeps
    | intro _
    | split

theorem qpPost_keeps {ρ : State} {qp : Nat} {payload : List Byte} {s : State} (hK : Keeps ρ s) :
    Keeps ρ (qpPost qp payload s) := by
  unfold qpPost
  with_reducible repeat' first | assumption | apply qpSend_keeps

theorem classMod_keeps {ρ : State} {n : Nat} {f : Tbl GEntry → Tbl GEntry} {s : State} (hK : Keeps ρ s) :
    Keeps ρ (classMod n f s) := by
  unfold classMod
  with_reducible repeat' first
    | assumption
    | apply odAdd_keeps
    | intro _
    | fail_if_no_progress (apply keeps_same)
    | fail_if_no_progress (apply keeps_mem)

theorem healEntry_keeps {ρ : State} {i : Nat} {s : State} (hK : Keeps ρ s) :
    Keeps ρ (healEntry i s) := by
  unfold healEntry
  with_reducible repeat' first
    | assumption
    | intro _
    | fail_if_no_progress (apply keeps_same)
    | fail_if_no_progress (apply keeps_mem)
    | dsimp only

theorem repairClass_keeps {ρ : State} {i : Nat} {s : State} (hK : Keeps ρ s) :
    Keeps ρ (repairClass i s) := by
  unfold repairClass
  with_reducible repeat' first
    | assumption
    | apply healEntry_keeps
    | apply odBump_keeps
    | apply classMod_keeps
    | apply keeps_ite
    | intro _
    | fail_if_no_progress (apply keeps_same)
    | fail_if_no_progress (apply keeps_mem)
    | split
    | dsimp only
    | refine of_some (by assumption) ?_

theorem unclassify_keeps {ρ : State} {k : Nat} {s : State} (hK : Keeps ρ s) :
    Keeps ρ (unclassify k s) := by
  unfold unclassify
  with_reducible repeat' first | assumption | apply keeps_ite | apply classMod_keeps | intro _

theorem classify_keeps {ρ : State} {k remote : Nat} {s : State} (h : Keeps ρ s) :
    OpKeeps (Keeps ρ) (classify k remote s) := by
  unfold classify
  dsimp only
  generalize (List.range _).find? _ = x
  cases x with
  | none => trivial
  | some i => exact healEntry_keeps (classMod_keeps h)

theorem qpFail_keeps {ρ : State} {k : Nat} {status : Nat} {s : State} (hK : Keeps ρ s) :
    Keeps ρ (qpFail k status s) := by
  unfold qpFail
  with_reducible repeat' first
    | assumption
    | apply unclassify_keeps
    | apply qpMod_keeps
    | apply netMod_keeps
    | apply failTask_keeps
    | apply keeps_ite
    | apply keeps_foldl
    | intro _
    | fail_if_no_progress (apply keeps_same)
    | fail_if_no_progress (apply keeps_mem)
    | split
    | dsimp only
    | refine of_some (by assumption) ?_

theorem migrate_keeps {ρ : State} {k : Nat} {s : State} (hK : Keeps ρ s) :
    Keeps ρ (migrate k s) := by
  unfold migrate
  with_reducible repeat' first
    | assumption
    | apply odBump_keeps
    | apply qpMod_keeps
    | apply odSet_keeps
    | apply resume_keeps
    | apply keeps_ite
    | intro _
    | fail_if_no_progress (apply keeps_same)
    | fail_if_no_progress (apply keeps_mem)
    | split
    | dsimp only
    | refine of_some (by assumption) ?_

theorem leavePlane_keeps {ρ : State} {k : Nat} {s : State} (hK : Keeps ρ s) :
    Keeps ρ (leavePlane k s) := by
  unfold leavePlane
  with_reducible repeat' first
    | assumption
    | apply keeps_ite
    | apply migrate_keeps
    | apply qpMod_keeps
    | intro _
    | split

theorem addRegion_keeps {ρ : State} {r : Region} {s : State} (hK : Keeps ρ s) :
    OpKeeps (fun t => Keeps ρ (t).2) (addRegion r s) := by
  unfold addRegion
  with_reducible repeat' first | assumption | apply keeps_none | apply keeps_some | apply netMod_keeps | split

theorem dropRegion_keeps {ρ : State} {key : Nat} {s : State} (hK : Keeps ρ s) :
    Keeps ρ (dropRegion key s) := by
  unfold dropRegion
  with_reducible repeat' first | assumption | apply netMod_keeps

theorem of_somePair {α : Type} {r : State} {x : Option (α × State)} {a : α} {b : State} (e : x = some (a, b))
    (h : OpKeeps (fun t => Keeps r t.2) x) : Keeps r b := by
  subst e; exact h

theorem openZone_keeps {ρ : State} {j : Job} {p : PlanCopy} {stage : Nat} {s : State} (h : Keeps ρ s) :
    Keeps ρ (openZone j p stage s) := by
  unfold openZone
  dsimp only
  split
  · split
    · exact h
    · exact netMod_keeps (of_somePair (by assumption) (addRegion_keeps h))
  · exact h

theorem zonesAtPlacement_keeps {ρ : State} {j : Job} {_ph : Nat} {s : State} (hK : Keeps ρ s) :
    Keeps ρ (zonesAtPlacement j _ph s) := by
  unfold zonesAtPlacement
  with_reducible repeat' first
    | assumption
    | apply keeps_ite
    | apply keeps_foldl
    | apply openZone_keeps
    | intro _
    | split

theorem revokeNet_keeps {ρ : State} {n : Nat} {s : State} (hK : Keeps ρ s) :
    Keeps ρ (revokeNet n s) := by
  unfold revokeNet
  with_reducible repeat' first
    | assumption
    | apply unclassify_keeps
    | apply qpMod_keeps
    | apply netMod_keeps
    | apply keeps_foldl
    | intro _
    | fail_if_no_progress (apply keeps_same)
    | fail_if_no_progress (apply keeps_mem)
    | dsimp only

theorem deleteNet_keeps {ρ : State} {n : Nat} {s : State} (hK : Keeps ρ s) :
    Keeps ρ (deleteNet n s) := by
  unfold deleteNet
  with_reducible repeat' first | assumption | apply netMod_keeps

/-! ### Journal.lean -/

theorem sqMod_keeps {ρ : State} {n : Nat} {q : Nat} {f : SubQ → SubQ} {s : State} (hK : Keeps ρ s) :
    Keeps ρ (sqMod n q f s) := by
  unfold sqMod
  with_reducible repeat' first | assumption | apply instMod_keeps | split

theorem cqMod_keeps {ρ : State} {n : Nat} {q : Nat} {f : ComplQ → ComplQ} {s : State} (hK : Keeps ρ s) :
    Keeps ρ (cqMod n q f s) := by
  unfold cqMod
  with_reducible repeat' first | assumption | apply instMod_keeps | split

theorem notice_keeps {ρ : State} {qp : Nat} {kind : Nat} {slot : Nat} {entry : List Byte} {s : State} (hK : Keeps ρ s) :
    Keeps ρ (notice qp kind slot entry s) := by
  unfold notice
  with_reducible repeat' first | assumption | apply qpPost_keeps

theorem advanceHead_keeps {ρ : State} {n : Nat} {k : Nat} {s : State} (hK : Keeps ρ s) :
    Keeps ρ (advanceHead n k s) := by
  unfold advanceHead
  with_reducible repeat' first
    | assumption
    | apply keeps_ite
    | apply keeps_foldl
    | apply sqMod_keeps
    | apply mirror_keeps
    | apply notice_keeps
    | intro _
    | split

theorem writeHead_keeps {ρ : State} {n : Nat} {k : Nat} {s : State} (hK : Keeps ρ s) :
    Keeps ρ (writeHead n k s) := by
  unfold writeHead
  with_reducible repeat' first
    | assumption
    | apply locWrite_keeps
    | apply sqMod_keeps
    | apply noteViolation_keeps
    | apply mirror_keeps
    | apply keeps_ite
    | intro _
    | fail_if_no_progress (apply keeps_same)
    | fail_if_no_progress (apply keeps_mem)
    | split
    | dsimp only
    | refine of_pair (by assumption) ?_
    | refine of_some (by assumption) ?_
    | refine of_threw (by assumption) ?_

theorem reserveEr_keeps {ρ : State} {n : Nat} {p : Posting} {s : State} (hK : Keeps ρ s) :
    Keeps ρ (reserveEr n p s) := by
  unfold reserveEr
  with_reducible repeat' first | assumption | apply instMod_keeps | split

theorem signalCq_keeps {ρ : State} {n : Nat} {c : Nat} {s : State} (hK : Keeps ρ s) :
    Keeps ρ (signalCq n c s) := by
  unfold signalCq
  with_reducible repeat' first
    | assumption
    | apply sendMsix_keeps
    | apply cqMod_keeps
    | apply keeps_ite
    | intro _
    | fail_if_no_progress (apply keeps_same)
    | fail_if_no_progress (apply keeps_mem)
    | split
    | dsimp only
    | refine of_some (by assumption) ?_

theorem writePosting_keeps {ρ : State} {n : Nat} {p : Posting} {s : State} (hK : Keeps ρ s) :
    Keeps ρ ((writePosting n p s).2) := by
  unfold writePosting
  with_reducible repeat' first
    | assumption
    | apply cqMod_keeps
    | apply locWrite_keeps
    | apply noteViolation_keeps
    | apply keeps_ite
    | intro _
    | fail_if_no_progress (apply keeps_same)
    | fail_if_no_progress (apply keeps_mem)
    | split
    | dsimp only
    | refine of_pair (by assumption) ?_
    | refine of_some (by assumption) ?_

theorem countCompletion_keeps {ρ : State} {status : Nat} {s : State} (hK : Keeps ρ s) :
    Keeps ρ (countCompletion status s) := by
  unfold countCompletion
  with_reducible repeat' first | assumption | apply odBump_keeps

theorem waitRecord_keeps {ρ : State} {n : Nat} {r : HeldRefusal} {s : State} (hK : Keeps ρ s) :
    Keeps ρ (waitRecord n r s) := by
  unfold waitRecord
  with_reducible repeat' first
    | assumption
    | apply odBump_keeps
    | apply instMod_keeps
    | apply keeps_ite
    | intro _
    | fail_if_no_progress (apply keeps_same)
    | fail_if_no_progress (apply keeps_mem)
    | split

theorem refusalPosted_keeps {ρ : State} {n : Nat} {r : HeldRefusal} {slot : Nat} {p : Posting} {s : State} (hK : Keeps ρ s) :
    Keeps ρ (refusalPosted n r slot p s) := by
  unfold refusalPosted
  with_reducible repeat' first
    | assumption
    | apply instMod_keeps
    | apply countCompletion_keeps
    | apply signalCq_keeps
    | apply notice_keeps
    | apply advanceHead_keeps
    | apply keeps_ite
    | intro _
    | fail_if_no_progress (apply keeps_same)
    | fail_if_no_progress (apply keeps_mem)
    | split
    | dsimp only
    | refine of_some (by assumption) ?_

theorem postHeld_keeps {ρ : State} {n : Nat} {y0 : List Nat} {y1 : List HeldRefusal} {y2 : State} (hK : Keeps ρ y2) :
    Keeps ρ (postHeld n y0 y1 y2) := by
  fun_induction postHeld n y0 y1 y2
  with_reducible repeat' first
    | assumption
    | apply waitRecord_keeps
    | apply writePosting_keeps
    | apply reserveEr_keeps
    | apply refusalPosted_keeps
    | apply keeps_ite
    | intro _
    | (apply ‹∀ _, _›)
    | fail_if_no_progress (apply keeps_same)
    | fail_if_no_progress (apply keeps_mem)
    | split
    | dsimp only
    | refine of_pair (by assumption) ?_
    | refine of_did (by assumption) ?_
    | refine of_ok (by assumption) ?_
    | refine of_threw (by assumption) ?_

theorem postRefusals_keeps {ρ : State} {n : Nat} {held : List HeldRefusal} {s : State} (hK : Keeps ρ s) :
    Keeps ρ (postRefusals n held s) := by
  unfold postRefusals
  with_reducible repeat' first | assumption | apply postHeld_keeps | intro _

theorem refuseDesc_keeps {ρ : State} {n : Nat} {k : Nat} {pos : Nat} {status : Nat} {er : ErrRec} {noIrq : Bool} {s : State} (hK : Keeps ρ s) :
    Keeps ρ (refuseDesc n k pos status er noIrq s) := by
  unfold refuseDesc
  with_reducible repeat' first
    | assumption
    | apply advanceHead_keeps
    | apply keeps_ite
    | apply postRefusals_keeps
    | apply instMod_keeps
    | apply sqMod_keeps
    | intro _

theorem cancelActs_keeps {ρ : State} {j : Job} {s : State} (hK : Keeps ρ s) :
    Keeps ρ (cancelActs j s) := by
  unfold cancelActs
  with_reducible repeat' first | assumption | apply jobMod_keeps | apply failJob_keeps | split | dsimp only

theorem acceptJob_keeps {ρ : State} {jid : Nat} {unmirrored : Bool} {s : State} (hK : Keeps ρ s) :
    Keeps ρ (acceptJob jid unmirrored s) := by
  unfold acceptJob
  with_reducible repeat' first
    | assumption
    | apply advanceHead_keeps
    | apply keeps_ite
    | apply sqMod_keeps
    | apply jobMod_keeps
    | apply cancelActs_keeps
    | intro _
    | split

theorem acceptByPolicy_keeps {ρ : State} {jid : Nat} {s : State} (hK : Keeps ρ s) :
    Keeps ρ (acceptByPolicy jid s) := by
  unfold acceptByPolicy
  with_reducible repeat' first | assumption | apply keeps_ite | apply acceptJob_keeps | intro _

theorem sendEntry_keeps {ρ : State} {jid : Nat} {s : State} (hK : Keeps ρ s) :
    Keeps ρ (sendEntry jid s) := by
  unfold sendEntry
  with_reducible repeat' first | assumption | apply sendItem_keeps | apply jobMod_keeps | split

theorem enterJournal_keeps {ρ : State} {n : Nat} {k : Nat} {w : WaitDesc} {s : State} (hK : Keeps ρ s) :
    Keeps ρ (enterJournal n k w s) := by
  unfold enterJournal
  with_reducible repeat' first
    | assumption
    | apply fetch_keeps
    | apply sqMod_keeps
    | apply odSet_keeps
    | apply sendEntry_keeps
    | apply acceptByPolicy_keeps
    | apply keeps_ite
    | intro _
    | fail_if_no_progress (apply keeps_same)
    | fail_if_no_progress (apply keeps_mem)
    | split
    | dsimp only
    | refine of_pair (by assumption) ?_
    | refine of_some (by assumption) ?_

theorem passStep2_keeps {ρ : State} {n : Nat} {k : Nat} {w : WaitDesc} {s : State} (hK : Keeps ρ s) :
    Keeps ρ (passStep2 n k w s) := by
  unfold passStep2
  with_reducible repeat' first | assumption | apply keeps_ite | apply enterJournal_keeps | apply sqMod_keeps | intro _

theorem freeEntry_keeps {ρ : State} {jid : Nat} {s : State} (hK : Keeps ρ s) :
    Keeps ρ (freeEntry jid s) := by
  unfold freeEntry
  with_reducible repeat' first
    | assumption
    | apply releaseSpill_keeps
    | fail_if_no_progress (apply keeps_mem)
    | split
    | dsimp only

theorem retireJob_keeps {ρ : State} {j : Job} {p : Posting} {s : State} (hK : Keeps ρ s) :
    Keeps ρ (retireJob j p s) := by
  unfold retireJob
  with_reducible repeat' first
    | assumption
    | apply notice_keeps
    | apply signalCq_keeps
    | apply keeps_ite
    | apply countCompletion_keeps
    | apply sqMod_keeps
    | apply freeEntry_keeps
    | apply mirror_keeps
    | apply rasLog_keeps
    | intro _
    | split

theorem postJob_keeps {ρ : State} {n : Nat} {k : Nat} {s : State} (hK : Keeps ρ s) :
    Keeps ρ (postJob n k s) := by
  unfold postJob
  with_reducible repeat' first
    | assumption
    | apply writePosting_keeps
    | apply retireJob_keeps
    | apply odBump_keeps
    | apply jobMod_keeps
    | apply reserveEr_keeps
    | apply sendItem_keeps
    | apply keeps_ite
    | intro _
    | fail_if_no_progress (apply keeps_same)
    | fail_if_no_progress (apply keeps_mem)
    | split
    | dsimp only
    | refine of_pair (by assumption) ?_
    | refine of_did (by assumption) ?_
    | refine of_ok (by assumption) ?_
    | refine of_some (by assumption) ?_
    | refine of_threw (by assumption) ?_

theorem postCompletions_keeps {ρ : State} {n : Nat} {k : Nat} {s : State} (hK : Keeps ρ s) :
    Keeps ρ (postCompletions n k s) := by
  unfold postCompletions
  with_reducible repeat' first
    | assumption
    | apply keeps_ite
    | apply postJob_keeps
    | apply postRefusals_keeps
    | intro _

/-! ### Admit.lean -/

theorem admitDesc_keeps {ρ : State} {n : Nat} {k : Nat} {q : SubQ} {d : List Byte} {s : State} (hK : Keeps ρ s) :
    Keeps ρ (admitDesc n k q d s) := by
  unfold admitDesc
  with_reducible repeat' first
    | assumption
    | apply refuseDesc_keeps
    | apply placeRead_keeps
    | apply admitPlan_keeps
    | apply passStep2_keeps
    | split
    | dsimp only
    | refine of_pair (by assumption) ?_

theorem admitNext_keeps {ρ : State} {kind : DescKind} {n : Nat} {k : Nat} {s : State} (hK : Keeps ρ s) :
    Keeps ρ (admitNext kind n k s) := by
  unfold admitNext
  with_reducible repeat' first
    | assumption
    | apply fetch_keeps
    | apply advanceHead_keeps
    | apply sqMod_keeps
    | apply locRead_keeps
    | apply noteViolation_keeps
    | apply admitDesc_keeps
    | apply keeps_ite
    | intro _
    | fail_if_no_progress (apply keeps_same)
    | fail_if_no_progress (apply keeps_mem)
    | split
    | dsimp only
    | refine of_pair (by assumption) ?_
    | refine of_did (by assumption) ?_
    | refine of_ok (by assumption) ?_
    | refine of_some (by assumption) ?_
    | refine of_threw (by assumption) ?_

theorem execNop_keeps {ρ : State} {inst : Inst} {sq : Fin 16} {s : State} (hK : Keeps ρ s) :
    OutKeeps ρ (execNop inst sq s) := by
  unfold execNop
  with_reducible repeat' first | assumption | apply keeps_next | apply admitNext_keeps

theorem execPlan_keeps {ρ : State} {inst : Inst} {sq : Fin 16} {s : State} (hK : Keeps ρ s) :
    OutKeeps ρ (execPlan inst sq s) := by
  unfold execPlan
  with_reducible repeat' first | assumption | apply keeps_next | apply admitNext_keeps

theorem execCancel_keeps {ρ : State} {inst : Inst} {sq : Fin 16} {s : State} (hK : Keeps ρ s) :
    OutKeeps ρ (execCancel inst sq s) := by
  unfold execCancel
  with_reducible repeat' first | assumption | apply keeps_next | apply admitNext_keeps

theorem reserveWaiting_keeps {ρ : State} {n : Nat} {k : Nat} {s : State} (hK : Keeps ρ s) :
    Keeps ρ (reserveWaiting n k s) := by
  unfold reserveWaiting
  with_reducible repeat' first | assumption | apply keeps_ite | apply enterJournal_keeps | intro _ | split

theorem execSpillReservation_keeps {ρ : State} {inst : Inst} {sq : Fin 16} {s : State} (hK : Keeps ρ s) :
    OutKeeps ρ (execSpillReservation inst sq s) := by
  unfold execSpillReservation
  with_reducible repeat' first | assumption | apply keeps_next | apply unlessHold_keeps | apply reserveWaiting_keeps

theorem execSqHeadWriteback_keeps {ρ : State} {inst : Inst} {sq : Fin 16} {s : State} (hK : Keeps ρ s) :
    OutKeeps ρ (execSqHeadWriteback inst sq s) := by
  unfold execSqHeadWriteback
  with_reducible repeat' first
    | assumption
    | apply keeps_next
    | apply keeps_ite
    | apply writeHead_keeps
    | apply advanceHead_keeps
    | intro _

theorem execCompletionPost_keeps {ρ : State} {inst : Inst} {sq : Fin 16} {s : State} (hK : Keeps ρ s) :
    OutKeeps ρ (execCompletionPost inst sq s) := by
  unfold execCompletionPost
  with_reducible repeat' first | assumption | apply keeps_next | apply postCompletions_keeps

theorem execCoalesceTimeout_keeps {ρ : State} {inst : Inst} {cq : Fin 16} {s : State} (hK : Keeps ρ s) :
    OutKeeps ρ (execCoalesceTimeout inst cq s) := by
  unfold execCoalesceTimeout
  with_reducible repeat' first
    | assumption
    | apply keeps_next
    | apply sendMsix_keeps
    | apply cqMod_keeps
    | split
    | intro _
    | fail_if_no_progress (apply keeps_same)
    | fail_if_no_progress (apply keeps_mem)
    | split
    | dsimp only
    | refine of_some (by assumption) ?_

theorem execDeadline_keeps {ρ : State} {inst : Inst} {sq : Fin 16} {asn : Nat} {s : State} (hK : Keeps ρ s) :
    OutKeeps ρ (execDeadline inst sq asn s) := by
  unfold execDeadline
  with_reducible repeat' first
    | assumption
    | apply keeps_next
    | apply unlessHold_keeps
    | apply keeps_ite
    | apply failJob_keeps
    | intro _
    | split

end Sys2Proof.Machine
end

