-- ==== Sys2Proof/Laws/KeepsEngines.lean ====
section
/-! SUPPORT. Every operation keeps the queue and the soundness of the state: the Glume, Mash, sort and aggregate engines. -/

namespace Sys2Proof.Machine

/-! ### Glume.lean -/

theorem stageDone_keeps {ρ : State} {slot : Nat} {s : State} (hK : Keeps ρ s) :
    Keeps ρ (stageDone slot s) := by
  unfold stageDone
  with_reducible repeat' first | assumption | apply engMod_keeps | apply endOuts_keeps

theorem stageEnds_keeps {ρ : State} {slot : Nat} {s : State} (hK : Keeps ρ s) :
    Keeps ρ (stageEnds slot s) := by
  unfold stageEnds
  with_reducible repeat' first
    | assumption
    | apply stageDone_keeps
    | apply engMod_keeps
    | apply keeps_ite
    | intro _
    | fail_if_no_progress (apply keeps_same)
    | fail_if_no_progress (apply keeps_mem)
    | split
    | dsimp only
    | refine of_some (by assumption) ?_

theorem runStage_keeps {ρ : State} {slot : Nat} {ops : List Nat} {f : Task → State → State} {s : State} (hF : ∀ a0 a1, Keeps ρ a1 → Keeps ρ (f a0 a1)) (hK : Keeps ρ s) :
    Keeps ρ (runStage slot ops f s) := by
  unfold runStage
  with_reducible repeat' first
    | assumption
    | apply keeps_stop
    | apply keeps_done
    | apply hF
    | apply drain_keeps
    | apply stageDone_keeps
    | apply keeps_ite
    | intro _
    | fail_if_no_progress (apply keeps_same)
    | fail_if_no_progress (apply keeps_mem)
    | split
    | dsimp only
    | refine of_some (by assumption) ?_

theorem showState_keeps {ρ : State} {slot : Nat} {v : Nat} {s : State} (hK : Keeps ρ s) :
    Keeps ρ (showState slot v s) := by
  unfold showState
  with_reducible repeat' first
    | assumption
    | apply setUnitState_keeps
    | apply engMod_keeps
    | intro _
    | fail_if_no_progress (apply keeps_same)
    | fail_if_no_progress (apply keeps_mem)
    | split
    | dsimp only
    | refine of_some (by assumption) ?_

theorem groupMod_keeps {ρ : State} {g : Nat} {f : Group → Group} {s : State} (hK : Keeps ρ s) :
    Keeps ρ (groupMod g f s) := by
  unfold groupMod
  with_reducible repeat' first | assumption | fail_if_no_progress (apply keeps_same)

theorem countSearch_keeps {ρ : State} {g : Nat} {f : Found} {s : State} (hK : Keeps ρ s) :
    Keeps ρ (countSearch g f s) := by
  unfold countSearch
  with_reducible repeat' first | assumption | apply keeps_ite | apply odBump_keeps | intro _

theorem healRows_keeps {ρ : State} {p : Nat × Nat → Bool} {s : State} (hK : Keeps ρ s) :
    Keeps ρ (healRows p s) := by
  unfold healRows
  with_reducible repeat' first
    | assumption
    | intro _
    | fail_if_no_progress (apply keeps_same)
    | fail_if_no_progress (apply keeps_mem)

theorem gload_keeps {ρ : State} {g : Nat} {width : Nat} {es : List GEntry} {s : State} (hK : Keeps ρ s) :
    Keeps ρ (gload g width es s) := by
  unfold gload
  with_reducible repeat' first
    | assumption
    | apply odAdd_keeps
    | apply groupMod_keeps
    | apply healRows_keeps
    | intro _
    | fail_if_no_progress (apply keeps_same)
    | fail_if_no_progress (apply keeps_mem)
    | dsimp only

theorem lookupOne_keeps {ρ : State} {slot : Nat} {g : Nat} {e : Elem} {s : State} (hK : Keeps ρ s) :
    Keeps ρ (lookupOne slot g e s) := by
  unfold lookupOne
  with_reducible repeat' first
    | assumption
    | apply emitRows_keeps
    | apply countSearch_keeps
    | apply failTask_keeps
    | apply odBump_keeps
    | apply keeps_ite
    | intro _
    | fail_if_no_progress (apply keeps_same)
    | fail_if_no_progress (apply keeps_mem)
    | split
    | dsimp only
    | refine of_some (by assumption) ?_

theorem runLookup_keeps {ρ : State} {slot : Nat} {t : Task} {s : State} (hK : Keeps ρ s) :
    Keeps ρ (runLookup slot t s) := by
  unfold runLookup
  with_reducible repeat' first
    | assumption
    | apply engMod_keeps
    | apply takeRows_keeps
    | apply lookupOne_keeps
    | apply stageEnds_keeps
    | apply keeps_ite
    | apply keeps_foldl
    | intro _
    | fail_if_no_progress (apply keeps_same)
    | fail_if_no_progress (apply keeps_mem)
    | split
    | dsimp only
    | refine of_pair (by assumption) ?_
    | refine of_some (by assumption) ?_

theorem execLookup_keeps {ρ : State} {slot : Nat} {s : State} (hK : Keeps ρ s) :
    OutKeeps ρ (execLookup slot s) := by
  unfold execLookup
  with_reducible repeat' first | assumption | apply keeps_next | apply runStage_keeps | apply runLookup_keeps

/-! ### Spill.lean -/

theorem ioPop_keeps {ρ : State} {slot : Nat} {s : State} (hK : Keeps ρ s) :
    Keeps ρ (ioPop slot s) := by
  unfold ioPop
  with_reducible repeat' first
    | assumption
    | apply engMod_keeps
    | intro _
    | fail_if_no_progress (apply keeps_same)
    | fail_if_no_progress (apply keeps_mem)

theorem freeBytes_keeps {ρ : State} {n : Nat} {s : State} (hK : Keeps ρ s) :
    Keeps ρ ((freeBytes n s).2) := by
  unfold freeBytes
  with_reducible repeat' first
    | assumption
    | intro _
    | fail_if_no_progress (apply keeps_free)
    | fail_if_no_progress (apply keeps_same)
    | fail_if_no_progress (apply keeps_mem)
    | dsimp only

theorem ioWrite_keeps {ρ : State} {slot : Nat} {t : Task} {addr : Nat} {bytes : List Byte} {s : State} (hK : Keeps ρ s) :
    Keeps ρ (ioWrite slot t addr bytes s) := by
  unfold ioWrite
  with_reducible repeat' first
    | assumption
    | apply devWrite_keeps
    | apply accessFailed_keeps
    | apply ioPop_keeps
    | apply unitCount_keeps
    | intro _
    | fail_if_no_progress (apply keeps_same)
    | fail_if_no_progress (apply keeps_mem)
    | split
    | dsimp only
    | refine of_pair (by assumption) ?_

theorem ioStep_keeps {ρ : State} {slot : Nat} {t : Task} {o : IoOp} {s : State} (hK : Keeps ρ s) :
    Keeps ρ (ioStep slot t o s) := by
  unfold ioStep
  with_reducible repeat' first
    | assumption
    | apply devRead_keeps
    | apply accessFailed_keeps
    | apply ioPop_keeps
    | apply engMod_keeps
    | apply ioWrite_keeps
    | apply freeBytes_keeps
    | apply unitCount_keeps
    | intro _
    | fail_if_no_progress (apply keeps_same)
    | fail_if_no_progress (apply keeps_mem)
    | split
    | dsimp only
    | refine of_pair (by assumption) ?_
    | refine of_did (by assumption) ?_
    | refine of_ok (by assumption) ?_
    | refine of_threw (by assumption) ?_

theorem runIo_keeps {ρ : State} {slot : Nat} {y0 : List IoOp} {y1 : State} (hK : Keeps ρ y1) :
    Keeps ρ (runIo slot y0 y1) := by
  fun_induction runIo slot y0 y1
  with_reducible repeat' first
    | assumption
    | apply ioStep_keeps
    | apply keeps_ite
    | intro _
    | (apply ‹∀ _, _›)
    | fail_if_no_progress (apply keeps_same)
    | fail_if_no_progress (apply keeps_mem)
    | split
    | dsimp only
    | refine of_some (by assumption) ?_

theorem ioAdd_keeps {ρ : State} {slot : Nat} {ops : List IoOp} {s : State} (hK : Keeps ρ s) :
    Keeps ρ (ioAdd slot ops s) := by
  unfold ioAdd
  with_reducible repeat' first
    | assumption
    | apply engMod_keeps
    | intro _
    | fail_if_no_progress (apply keeps_same)
    | fail_if_no_progress (apply keeps_mem)

theorem ioClear_keeps {ρ : State} {slot : Nat} {s : State} (hK : Keeps ρ s) :
    Keeps ρ (ioClear slot s) := by
  unfold ioClear
  with_reducible repeat' first
    | assumption
    | apply engMod_keeps
    | intro _
    | fail_if_no_progress (apply keeps_same)
    | fail_if_no_progress (apply keeps_mem)

/-! ### MashEng.lean -/

theorem takeKeyed_keeps {ρ : State} {slot : Nat} {ks : List KeySpec} {taken : Nat} {s : State} (hK : Keeps ρ s) :
    Keeps ρ ((takeKeyed slot ks taken s).2) := by
  unfold takeKeyed
  with_reducible repeat' first
    | assumption
    | apply failTask_keeps
    | apply takeRows_keeps
    | split
    | refine of_pair (by assumption) ?_

theorem writeBlocks_keeps {ρ : State} {slot : Nat} {unit : Nat} {n : Nat} {base : Nat} {bytes : List Byte} {y0 : Nat} {y1 : State} (hK : Keeps ρ y1) :
    Keeps ρ (writeBlocks slot unit n base bytes y0 y1) := by
  fun_induction writeBlocks slot unit n base bytes y0 y1
  with_reducible repeat' first
    | assumption
    | apply stageDone_keeps
    | apply accessFailed_keeps
    | apply devWrite_keeps
    | apply engMod_keeps
    | (apply ‹∀ _, _›)
    | refine of_pair (by assumption) ?_

theorem runBuild_keeps {ρ : State} {slot : Nat} {t : Task} {s : State} (hK : Keeps ρ s) :
    Keeps ρ (runBuild slot t s) := by
  unfold runBuild
  with_reducible repeat' first
    | assumption
    | apply engMod_keeps
    | apply showState_keeps
    | apply takeKeyed_keeps
    | apply unitCount_keeps
    | apply odMax32_keeps
    | apply writeBlocks_keeps
    | apply keeps_ite
    | intro _
    | fail_if_no_progress (apply keeps_same)
    | fail_if_no_progress (apply keeps_mem)
    | split
    | dsimp only
    | refine of_pair (by assumption) ?_
    | refine of_some (by assumption) ?_

theorem execHashBuild_keeps {ρ : State} {slot : Nat} {s : State} (hK : Keeps ρ s) :
    OutKeeps ρ (execHashBuild slot s) := by
  unfold execHashBuild
  with_reducible repeat' first | assumption | apply keeps_next | apply runStage_keeps | apply runBuild_keeps

theorem emitJoin_keeps {ρ : State} {slot : Nat} {o : List Elem × List Elem} {s : State} (hK : Keeps ρ s) :
    Keeps ρ (emitJoin slot o s) := by
  unfold emitJoin
  with_reducible repeat' first | assumption | apply emitOn_keeps | intro _

theorem tableFails_keeps {ρ : State} {slot : Nat} {off : Nat} {s : State} (hK : Keeps ρ s) :
    Keeps ρ (tableFails slot off s) := by
  unfold tableFails
  with_reducible repeat' first | assumption | apply failTask_keeps | split

theorem emitUnmatchedFrom_keeps {ρ : State} {slot : Nat} {p : ProbeOp} {tb : List Byte} {d : DirEnt} {marks : List Nat} {base : Nat} {lo : Nat} {n : Nat} {s : State} (hK : Keeps ρ s) :
    Keeps ρ (emitUnmatchedFrom slot p tb d marks base lo n s) := by
  unfold emitUnmatchedFrom
  with_reducible repeat' first | assumption | apply emitElems_keeps | apply keeps_ite | intro _ | split

theorem emitUnmatched_keeps {ρ : State} {slot : Nat} {p : ProbeOp} {tb : List Byte} {d : DirEnt} {marks : List Nat} {base : Nat} {s : State} (hK : Keeps ρ s) :
    Keeps ρ (emitUnmatched slot p tb d marks base s) := by
  unfold emitUnmatched
  with_reducible repeat' first | assumption | apply emitUnmatchedFrom_keeps | intro _ | dsimp only

theorem countMatches_keeps {ρ : State} {unit : Nat} {matched : Nat} {walked : Nat} {s : State} (hK : Keeps ρ s) :
    Keeps ρ (countMatches unit matched walked s) := by
  unfold countMatches
  with_reducible repeat' first
    | assumption
    | apply unitCount_keeps
    | apply odMax32_keeps
    | intro _
    | fail_if_no_progress (apply keeps_same)
    | fail_if_no_progress (apply keeps_mem)
    | split
    | dsimp only
    | refine of_some (by assumption) ?_

theorem probeOne_keeps {ρ : State} {slot : Nat} {p : ProbeOp} {tb : List Byte} {row : List Elem} {s : State} (hK : Keeps ρ s) :
    Keeps ρ (probeOne slot p tb row s) := by
  unfold probeOne
  with_reducible repeat' first
    | assumption
    | apply tableFails_keeps
    | apply countMatches_keeps
    | apply engMod_keeps
    | apply emitJoin_keeps
    | apply keeps_ite
    | intro _
    | fail_if_no_progress (apply keeps_same)
    | fail_if_no_progress (apply keeps_mem)
    | split
    | dsimp only
    | refine of_did (by assumption) ?_
    | refine of_ok (by assumption) ?_
    | refine of_some (by assumption) ?_
    | refine of_threw (by assumption) ?_

theorem eachPending_keeps {ρ : State} {slot : Nat} {f : List Elem → State → State} {y0 : List (List Elem)} {y1 : State} (hF : ∀ a0 a1, Keeps ρ a1 → Keeps ρ (f a0 a1)) (hK : Keeps ρ y1) :
    Keeps ρ (eachPending slot f y0 y1) := by
  fun_induction eachPending slot f y0 y1
  with_reducible repeat' first
    | assumption
    | apply hF
    | apply engMod_keeps
    | apply keeps_ite
    | intro _
    | (apply ‹∀ _, _›)
    | fail_if_no_progress (apply keeps_same)
    | fail_if_no_progress (apply keeps_mem)
    | split
    | dsimp only
    | refine of_some (by assumption) ?_

theorem toStep_keeps {ρ : State} {slot : Nat} {d : Nat} {s : State} (hK : Keeps ρ s) :
    Keeps ρ (toStep slot d s) := by
  unfold toStep
  with_reducible repeat' first
    | assumption
    | apply engMod_keeps
    | intro _
    | fail_if_no_progress (apply keeps_same)
    | fail_if_no_progress (apply keeps_mem)

theorem loadTable_keeps {ρ : State} {slot : Nat} {t : Task} {s : State} (hK : Keeps ρ s) :
    Keeps ρ (loadTable slot t s) := by
  unfold loadTable
  with_reducible repeat' first
    | assumption
    | apply engMod_keeps
    | apply showState_keeps
    | apply toStep_keeps
    | apply ioAdd_keeps
    | apply tableFails_keeps
    | apply keeps_ite
    | intro _
    | fail_if_no_progress (apply keeps_same)
    | fail_if_no_progress (apply keeps_mem)
    | split
    | dsimp only
    | refine of_some (by assumption) ?_

theorem spillRow_keeps {ρ : State} {slot : Nat} {p : ProbeOp} {tb : List Byte} {row : List Elem} {s : State} (hK : Keeps ρ s) :
    Keeps ρ (spillRow slot p tb row s) := by
  unfold spillRow
  with_reducible repeat' first
    | assumption
    | apply engMod_keeps
    | apply keeps_ite
    | intro _
    | fail_if_no_progress (apply keeps_same)
    | fail_if_no_progress (apply keeps_mem)
    | split
    | dsimp only
    | refine of_some (by assumption) ?_

theorem flushRows_keeps {ρ : State} {slot : Nat} {t : Task} {s : State} (hK : Keeps ρ s) :
    Keeps ρ (flushRows slot t s) := by
  unfold flushRows
  with_reducible repeat' first
    | assumption
    | apply engMod_keeps
    | apply keeps_ite
    | apply keeps_foldl
    | intro _
    | fail_if_no_progress (apply keeps_same)
    | fail_if_no_progress (apply keeps_mem)
    | split
    | dsimp only
    | refine of_some (by assumption) ?_

theorem nextSub_keeps {ρ : State} {slot : Nat} {t : Task} {s : State} (hK : Keeps ρ s) :
    Keeps ρ (nextSub slot t s) := by
  unfold nextSub
  with_reducible repeat' first
    | assumption
    | apply stageEnds_keeps
    | apply toStep_keeps
    | apply ioAdd_keeps
    | apply engMod_keeps
    | apply keeps_ite
    | intro _
    | fail_if_no_progress (apply keeps_same)
    | fail_if_no_progress (apply keeps_mem)
    | split
    | dsimp only

theorem haveSub_keeps {ρ : State} {slot : Nat} {t : Task} {s : State} (hK : Keeps ρ s) :
    Keeps ρ (haveSub slot t s) := by
  unfold haveSub
  with_reducible repeat' first
    | assumption
    | apply engMod_keeps
    | apply showState_keeps
    | apply keeps_ite
    | intro _
    | fail_if_no_progress (apply keeps_same)
    | fail_if_no_progress (apply keeps_mem)
    | split
    | dsimp only

theorem chunksDone_keeps {ρ : State} {slot : Nat} {t : Task} {p : ProbeOp} {s : State} (hK : Keeps ρ s) :
    Keeps ρ (chunksDone slot t p s) := by
  unfold chunksDone
  with_reducible repeat' first
    | assumption
    | apply engMod_keeps
    | apply ioAdd_keeps
    | apply keeps_ite
    | intro _
    | fail_if_no_progress (apply keeps_same)
    | fail_if_no_progress (apply keeps_mem)
    | split

theorem chunkUnmatched_keeps {ρ : State} {slot : Nat} {t : Task} {p : ProbeOp} {s : State} (hK : Keeps ρ s) :
    Keeps ρ (chunkUnmatched slot t p s) := by
  unfold chunkUnmatched
  with_reducible repeat' first
    | assumption
    | apply engMod_keeps
    | apply emitUnmatchedFrom_keeps
    | apply keeps_ite
    | intro _
    | fail_if_no_progress (apply keeps_same)
    | fail_if_no_progress (apply keeps_mem)
    | split
    | dsimp only

theorem subDone_keeps {ρ : State} {slot : Nat} {t : Task} {p : ProbeOp} {s : State} (hK : Keeps ρ s) :
    Keeps ρ (subDone slot t p s) := by
  unfold subDone
  with_reducible repeat' first
    | assumption
    | apply emitUnmatched_keeps
    | apply engMod_keeps
    | intro _
    | fail_if_no_progress (apply keeps_same)
    | fail_if_no_progress (apply keeps_mem)
    | dsimp only

theorem chunkRow_keeps {ρ : State} {slot : Nat} {p : ProbeOp} {i : Nat} {row : List Elem} {s : State} (hK : Keeps ρ s) :
    Keeps ρ (chunkRow slot p i row s) := by
  unfold chunkRow
  with_reducible repeat' first
    | assumption
    | apply countMatches_keeps
    | apply engMod_keeps
    | apply emitJoin_keeps
    | apply keeps_ite
    | intro _
    | fail_if_no_progress (apply keeps_same)
    | fail_if_no_progress (apply keeps_mem)
    | split
    | dsimp only
    | refine of_some (by assumption) ?_

theorem chunkRows_keeps {ρ : State} {slot : Nat} {p : ProbeOp} {total : Nat} {y0 : List (List Elem)} {y1 : State} (hK : Keeps ρ y1) :
    Keeps ρ (chunkRows slot p total y0 y1) := by
  fun_induction chunkRows slot p total y0 y1
  with_reducible repeat' first
    | assumption
    | apply engMod_keeps
    | apply chunkRow_keeps
    | apply keeps_ite
    | intro _
    | (apply ‹∀ _, _›)
    | fail_if_no_progress (apply keeps_same)
    | fail_if_no_progress (apply keeps_mem)
    | split
    | dsimp only
    | refine of_some (by assumption) ?_

theorem chunkDone_keeps {ρ : State} {slot : Nat} {t : Task} {s : State} (hK : Keeps ρ s) :
    Keeps ρ (chunkDone slot t s) := by
  unfold chunkDone
  with_reducible repeat' first
    | assumption
    | apply ioAdd_keeps
    | apply toStep_keeps
    | apply engMod_keeps
    | apply keeps_ite
    | intro _
    | fail_if_no_progress (apply keeps_same)
    | fail_if_no_progress (apply keeps_mem)
    | split
    | dsimp only

theorem lateRow_keeps {ρ : State} {slot : Nat} {p : ProbeOp} {i : Nat} {row : List Elem} {s : State} (hK : Keeps ρ s) :
    Keeps ρ (lateRow slot p i row s) := by
  unfold lateRow
  with_reducible repeat' first
    | assumption
    | apply emitJoin_keeps
    | apply keeps_ite
    | intro _
    | fail_if_no_progress (apply keeps_same)
    | fail_if_no_progress (apply keeps_mem)
    | split
    | dsimp only
    | refine of_some (by assumption) ?_

theorem lateRows_keeps {ρ : State} {slot : Nat} {p : ProbeOp} {total : Nat} {y0 : List (List Elem)} {y1 : State} (hK : Keeps ρ y1) :
    Keeps ρ (lateRows slot p total y0 y1) := by
  fun_induction lateRows slot p total y0 y1
  with_reducible repeat' first
    | assumption
    | apply engMod_keeps
    | apply lateRow_keeps
    | apply keeps_ite
    | intro _
    | (apply ‹∀ _, _›)
    | fail_if_no_progress (apply keeps_same)
    | fail_if_no_progress (apply keeps_mem)
    | split
    | dsimp only
    | refine of_some (by assumption) ?_

theorem whenNone_keeps {ρ : State} {slot : Nat} {f : Task → State → State} {s : State} (hF : ∀ a0 a1, Keeps ρ a1 → Keeps ρ (f a0 a1)) (hK : Keeps ρ s) :
    Keeps ρ (whenNone slot f s) := by
  unfold whenNone
  with_reducible repeat' first
    | assumption
    | apply hF
    | apply keeps_ite
    | intro _
    | fail_if_no_progress (apply keeps_same)
    | fail_if_no_progress (apply keeps_mem)
    | split
    | dsimp only
    | refine of_some (by assumption) ?_

theorem probeSpilled_keeps {ρ : State} {slot : Nat} {t : Task} {p : ProbeOp} {s : State} (hK : Keeps ρ s) :
    Keeps ρ (probeSpilled slot t p s) := by
  unfold probeSpilled
  with_reducible repeat' first
    | assumption
    | apply takeKeyed_keeps
    | apply showState_keeps
    | apply engMod_keeps
    | apply unitCount_keeps
    | apply spillRow_keeps
    | apply toStep_keeps
    | apply flushRows_keeps
    | apply nextSub_keeps
    | apply haveSub_keeps
    | apply whenNone_keeps
    | apply subDone_keeps
    | apply eachPending_keeps
    | apply probeOne_keeps
    | apply chunkDone_keeps
    | apply chunkRows_keeps
    | apply chunkUnmatched_keeps
    | apply ioClear_keeps
    | apply chunksDone_keeps
    | apply lateRows_keeps
    | apply keeps_ite
    | apply keeps_foldl
    | intro _
    | fail_if_no_progress (apply keeps_same)
    | fail_if_no_progress (apply keeps_mem)
    | split
    | dsimp only
    | refine of_pair (by assumption) ?_
    | refine of_some (by assumption) ?_

theorem probeArrived_keeps {ρ : State} {slot : Nat} {p : ProbeOp} {row : List Elem} {s : State} (hK : Keeps ρ s) :
    Keeps ρ (probeArrived slot p row s) := by
  unfold probeArrived
  with_reducible repeat' first
    | assumption
    | apply failTask_keeps
    | apply probeOne_keeps
    | apply unitCount_keeps
    | apply engMod_keeps
    | intro _
    | fail_if_no_progress (apply keeps_same)
    | fail_if_no_progress (apply keeps_mem)
    | split
    | dsimp only
    | refine of_some (by assumption) ?_

theorem probeResident_keeps {ρ : State} {slot : Nat} {t : Task} {p : ProbeOp} {s : State} (hK : Keeps ρ s) :
    Keeps ρ (probeResident slot t p s) := by
  unfold probeResident
  with_reducible repeat' first
    | assumption
    | apply takeRows_keeps
    | apply eachPending_keeps
    | apply probeArrived_keeps
    | apply whenNone_keeps
    | apply stageEnds_keeps
    | apply emitUnmatched_keeps
    | apply keeps_ite
    | apply keeps_foldl
    | intro _
    | split
    | dsimp only
    | refine of_pair (by assumption) ?_

theorem runProbe_keeps {ρ : State} {slot : Nat} {t : Task} {s : State} (hK : Keeps ρ s) :
    Keeps ρ (runProbe slot t s) := by
  unfold runProbe
  with_reducible repeat' first
    | assumption
    | apply runIo_keeps
    | apply showState_keeps
    | apply loadTable_keeps
    | apply probeSpilled_keeps
    | apply probeResident_keeps
    | apply keeps_ite
    | intro _
    | split
    | dsimp only

theorem execHashProbe_keeps {ρ : State} {slot : Nat} {s : State} (hK : Keeps ρ s) :
    OutKeeps ρ (execHashProbe slot s) := by
  unfold execHashProbe
  with_reducible repeat' first | assumption | apply keeps_next | apply runStage_keeps | apply runProbe_keeps

theorem runGrouped_keeps {ρ : State} {slot : Nat} {t : Task} {op : List Byte} {ks : List KeySpec} {l : Layout} {s : State} (hK : Keeps ρ s) :
    Keeps ρ (runGrouped slot t op ks l s) := by
  unfold runGrouped
  with_reducible repeat' first
    | assumption
    | apply emitElems_keeps
    | apply engMod_keeps
    | apply showState_keeps
    | apply takeKeyed_keeps
    | apply unitCount_keeps
    | apply ioAdd_keeps
    | apply toStep_keeps
    | apply stageEnds_keeps
    | apply keeps_ite
    | apply keeps_foldl
    | intro _
    | fail_if_no_progress (apply keeps_same)
    | fail_if_no_progress (apply keeps_mem)
    | split
    | dsimp only
    | refine of_pair (by assumption) ?_
    | refine of_some (by assumption) ?_

theorem runPartition_keeps {ρ : State} {slot : Nat} {t : Task} {s : State} (hK : Keeps ρ s) :
    Keeps ρ (runPartition slot t s) := by
  unfold runPartition
  with_reducible repeat' first
    | assumption
    | apply runIo_keeps
    | apply showState_keeps
    | apply runGrouped_keeps
    | apply engMod_keeps
    | apply takeKeyed_keeps
    | apply unitCount_keeps
    | apply emitElems_keeps
    | apply stageEnds_keeps
    | apply keeps_ite
    | intro _
    | fail_if_no_progress (apply keeps_same)
    | fail_if_no_progress (apply keeps_mem)
    | split
    | dsimp only
    | refine of_pair (by assumption) ?_
    | refine of_some (by assumption) ?_

theorem execPartition_keeps {ρ : State} {slot : Nat} {s : State} (hK : Keeps ρ s) :
    OutKeeps ρ (execPartition slot s) := by
  unfold execPartition
  with_reducible repeat' first | assumption | apply keeps_next | apply runStage_keeps | apply runPartition_keeps

/-! ### SortEng.lean -/

theorem recPad_keeps {ρ : State} {rb : Nat} {r : List Byte} {s : State} (hK : Keeps ρ s) :
    Keeps ρ ((recPad rb r s).2) := by
  unfold recPad
  with_reducible repeat' first
    | assumption
    | apply freeBytes_keeps
    | intro _
    | dsimp only
    | refine of_pair (by assumption) ?_

theorem recsPad_keeps {ρ : State} {rb : Nat} {y0 : List (List Byte)} {y1 : State} (hK : Keeps ρ y1) :
    Keeps ρ ((recsPad rb y0 y1).2) := by
  fun_induction recsPad rb y0 y1
  with_reducible repeat' first
    | assumption
    | apply recPad_keeps
    | intro _
    | (apply ‹∀ _, _›)
    | dsimp only
    | refine of_pair (by assumption) ?_

theorem writeRun_keeps {ρ : State} {slot : Nat} {t : Task} {rb : Nat} {off : Nat} {rs : List (List Byte)} {s : State} (hK : Keeps ρ s) :
    Keeps ρ (writeRun slot t rb off rs s) := by
  unfold writeRun
  with_reducible repeat' first
    | assumption
    | apply recsPad_keeps
    | apply ioAdd_keeps
    | intro _
    | dsimp only
    | refine of_pair (by assumption) ?_

theorem spillRun_keeps {ρ : State} {slot : Nat} {o : SortOp} {s : State} (hK : Keeps ρ s) :
    Keeps ρ (spillRun slot o s) := by
  unfold spillRun
  with_reducible repeat' first
    | assumption
    | apply writeRun_keeps
    | apply engMod_keeps
    | intro _
    | fail_if_no_progress (apply keeps_same)
    | fail_if_no_progress (apply keeps_mem)
    | split
    | dsimp only
    | refine of_some (by assumption) ?_

theorem sortAdd_keeps {ρ : State} {slot : Nat} {o : SortOp} {r : List Byte} {s : State} (hK : Keeps ρ s) :
    Keeps ρ (sortAdd slot o r s) := by
  unfold sortAdd
  with_reducible repeat' first
    | assumption
    | apply spillRun_keeps
    | apply engMod_keeps
    | apply keeps_ite
    | intro _
    | fail_if_no_progress (apply keeps_same)
    | fail_if_no_progress (apply keeps_mem)
    | split
    | dsimp only
    | refine of_some (by assumption) ?_

theorem mergeLeave_keeps {ρ : State} {slot : Nat} {ks : List KeySpec} {out : List Byte → Elem} {lens : List Nat} {y0 : Nat} {y1 : State} (hK : Keeps ρ y1) :
    Keeps ρ (mergeLeave slot ks out lens y0 y1) := by
  fun_induction mergeLeave slot ks out lens y0 y1
  with_reducible repeat' first
    | assumption
    | apply emitElems_keeps
    | apply engMod_keeps
    | apply keeps_ite
    | intro _
    | (apply ‹∀ _, _›)
    | fail_if_no_progress (apply keeps_same)
    | fail_if_no_progress (apply keeps_mem)
    | split
    | dsimp only
    | refine of_some (by assumption) ?_

theorem finalMerge_keeps {ρ : State} {slot : Nat} {t : Task} {ks : List KeySpec} {rb : Nat} {off : Nat} {lens : List Nat} {out : List Byte → Elem} {s : State} (hK : Keeps ρ s) :
    Keeps ρ (finalMerge slot t ks rb off lens out s) := by
  unfold finalMerge
  with_reducible repeat' first
    | assumption
    | apply ioAdd_keeps
    | apply engMod_keeps
    | apply stageEnds_keeps
    | apply mergeLeave_keeps
    | apply keeps_ite
    | intro _
    | fail_if_no_progress (apply keeps_same)
    | fail_if_no_progress (apply keeps_mem)
    | split
    | dsimp only
    | refine of_some (by assumption) ?_

theorem sortLeave_keeps {ρ : State} {slot : Nat} {o : SortOp} {rs : List (List Byte)} {s : State} (hK : Keeps ρ s) :
    Keeps ρ (sortLeave slot o rs s) := by
  unfold sortLeave
  with_reducible repeat' first
    | assumption
    | apply stageEnds_keeps
    | apply emitElems_keeps
    | apply engMod_keeps
    | apply showState_keeps
    | intro _
    | fail_if_no_progress (apply keeps_same)
    | fail_if_no_progress (apply keeps_mem)

theorem sortTake_keeps {ρ : State} {slot : Nat} {t : Task} {o : SortOp} {s : State} (hK : Keeps ρ s) :
    Keeps ρ (sortTake slot t o s) := by
  unfold sortTake
  with_reducible repeat' first
    | assumption
    | apply engMod_keeps
    | apply showState_keeps
    | apply takeKeyed_keeps
    | apply unitCount_keeps
    | apply sortAdd_keeps
    | apply sortLeave_keeps
    | apply spillRun_keeps
    | apply keeps_ite
    | apply keeps_foldl
    | intro _
    | fail_if_no_progress (apply keeps_same)
    | fail_if_no_progress (apply keeps_mem)
    | split
    | dsimp only
    | refine of_pair (by assumption) ?_
    | refine of_some (by assumption) ?_

theorem runSort_keeps {ρ : State} {slot : Nat} {t : Task} {s : State} (hK : Keeps ρ s) :
    Keeps ρ (runSort slot t s) := by
  unfold runSort
  with_reducible repeat' first
    | assumption
    | apply runIo_keeps
    | apply sortTake_keeps
    | apply engMod_keeps
    | apply showState_keeps
    | apply ioAdd_keeps
    | apply writeRun_keeps
    | apply finalMerge_keeps
    | apply keeps_ite
    | apply keeps_foldl
    | intro _
    | fail_if_no_progress (apply keeps_same)
    | fail_if_no_progress (apply keeps_mem)
    | split
    | dsimp only

theorem execSort_keeps {ρ : State} {slot : Nat} {s : State} (hK : Keeps ρ s) :
    OutKeeps ρ (execSort slot s) := by
  unfold execSort
  with_reducible repeat' first | assumption | apply keeps_next | apply runStage_keeps | apply runSort_keeps

theorem execTopN_keeps {ρ : State} {slot : Nat} {s : State} (hK : Keeps ρ s) :
    OutKeeps ρ (execTopN slot s) := by
  unfold execTopN
  with_reducible repeat' first | assumption | apply keeps_next | apply runStage_keeps | apply runSort_keeps

theorem takePorts_keeps {ρ : State} {slot : Nat} {s : State} (h : Keeps ρ s) : Keeps ρ (takePorts slot s).2 := by
  unfold takePorts
  split
  · exact h
  · refine foldl_keeps (p := fun acc : (List (Nat × List Byte) × State) × Bool => Keeps ρ acc.1.2) _ h fun b a hb => ?_
    dsimp only
    split
    · exact dropPort_keeps hb
    · exact hb

theorem mergeSpill_keeps {ρ : State} {slot : Nat} {rb : Nat} {all : Bool} {s : State} (hK : Keeps ρ s) :
    Keeps ρ (mergeSpill slot rb all s) := by
  unfold mergeSpill
  with_reducible repeat' first
    | assumption
    | apply recsPad_keeps
    | apply ioAdd_keeps
    | apply engMod_keeps
    | apply keeps_ite
    | intro _
    | fail_if_no_progress (apply keeps_same)
    | fail_if_no_progress (apply keeps_mem)
    | split
    | dsimp only
    | refine of_pair (by assumption) ?_
    | refine of_some (by assumption) ?_

theorem mergePorts_keeps {ρ : State} {slot : Nat} {rb : Nat} {port : Nat} {y0 : Nat} {y1 : State} (hK : Keeps ρ y1) :
    Keeps ρ (mergePorts slot rb port y0 y1) := by
  fun_induction mergePorts slot rb port y0 y1
  with_reducible repeat' first
    | assumption
    | apply mergeSpill_keeps
    | apply engMod_keeps
    | apply keeps_ite
    | intro _
    | (apply ‹∀ _, _›)
    | fail_if_no_progress (apply keeps_same)
    | fail_if_no_progress (apply keeps_mem)
    | split
    | dsimp only
    | refine of_some (by assumption) ?_

theorem mergeAdd_keeps {ρ : State} {slot : Nat} {rb : Nat} {ks : List KeySpec} {key : List Byte → List Elem} {x : Nat × List Byte} {s : State} (hK : Keeps ρ s) :
    Keeps ρ (mergeAdd slot rb ks key x s) := by
  unfold mergeAdd
  with_reducible repeat' first
    | assumption
    | apply mergePorts_keeps
    | apply failTask_keeps
    | apply unitCount_keeps
    | apply engMod_keeps
    | apply mergeSpill_keeps
    | apply keeps_ite
    | intro _
    | fail_if_no_progress (apply keeps_same)
    | fail_if_no_progress (apply keeps_mem)
    | split
    | dsimp only
    | refine of_some (by assumption) ?_

theorem runMerge_keeps {ρ : State} {slot : Nat} {t : Task} {s : State} (hK : Keeps ρ s) :
    Keeps ρ (runMerge slot t s) := by
  unfold runMerge
  with_reducible repeat' first
    | assumption
    | apply stageEnds_keeps
    | apply emitElems_keeps
    | apply engMod_keeps
    | apply showState_keeps
    | apply runIo_keeps
    | apply takePorts_keeps
    | apply mergeAdd_keeps
    | apply mergePorts_keeps
    | apply mergeSpill_keeps
    | apply finalMerge_keeps
    | apply keeps_ite
    | apply keeps_foldl
    | intro _
    | fail_if_no_progress (apply keeps_same)
    | fail_if_no_progress (apply keeps_mem)
    | split
    | dsimp only
    | refine of_pair (by assumption) ?_
    | refine of_some (by assumption) ?_

theorem execMerge_keeps {ρ : State} {slot : Nat} {s : State} (hK : Keeps ρ s) :
    OutKeeps ρ (execMerge slot s) := by
  unfold execMerge
  with_reducible repeat' first | assumption | apply keeps_next | apply runStage_keeps | apply runMerge_keeps

/-! ### AggEng.lean -/

theorem emitGroup_keeps {ρ : State} {slot : Nat} {o : AggOp} {rows : List (List Elem)} {s : State} (hK : Keeps ρ s) :
    Keeps ρ (emitGroup slot o rows s) := by
  unfold emitGroup
  with_reducible repeat' first
    | assumption
    | apply failTask_keeps
    | apply unitCount_keeps
    | apply emitElems_keeps
    | apply engMod_keeps
    | apply keeps_ite
    | intro _
    | fail_if_no_progress (apply keeps_same)
    | fail_if_no_progress (apply keeps_mem)
    | split
    | dsimp only
    | refine of_some (by assumption) ?_

theorem leaveGroups_keeps {ρ : State} {slot : Nat} {o : AggOp} {y0 : List (List (List Elem))} {y1 : State} (hK : Keeps ρ y1) :
    Keeps ρ (leaveGroups slot o y0 y1) := by
  fun_induction leaveGroups slot o y0 y1
  with_reducible repeat' first
    | assumption
    | apply engMod_keeps
    | apply emitGroup_keeps
    | apply keeps_ite
    | intro _
    | (apply ‹∀ _, _›)
    | fail_if_no_progress (apply keeps_same)
    | fail_if_no_progress (apply keeps_mem)
    | split
    | dsimp only
    | refine of_some (by assumption) ?_

theorem groupAdd_keeps {ρ : State} {slot : Nat} {o : GroupOp} {row : List Elem} {s : State} (hK : Keeps ρ s) :
    Keeps ρ (groupAdd slot o row s) := by
  unfold groupAdd
  with_reducible repeat' first
    | assumption
    | apply engMod_keeps
    | apply keeps_ite
    | intro _
    | fail_if_no_progress (apply keeps_same)
    | fail_if_no_progress (apply keeps_mem)
    | split
    | dsimp only
    | refine of_some (by assumption) ?_

theorem closeGroups_keeps {ρ : State} {slot : Nat} {o : GroupOp} {s : State} (hK : Keeps ρ s) :
    Keeps ρ (closeGroups slot o s) := by
  unfold closeGroups
  with_reducible repeat' first
    | assumption
    | apply engMod_keeps
    | intro _
    | fail_if_no_progress (apply keeps_same)
    | fail_if_no_progress (apply keeps_mem)
    | dsimp only

theorem groupsLeave_keeps {ρ : State} {slot : Nat} {t : Task} {o : GroupOp} {s : State} (hK : Keeps ρ s) :
    Keeps ρ (groupsLeave slot t o s) := by
  unfold groupsLeave
  with_reducible repeat' first
    | assumption
    | apply leaveGroups_keeps
    | apply showState_keeps
    | apply stageEnds_keeps
    | apply toStep_keeps
    | apply ioAdd_keeps
    | apply keeps_ite
    | intro _
    | fail_if_no_progress (apply keeps_same)
    | fail_if_no_progress (apply keeps_mem)
    | split
    | dsimp only
    | refine of_some (by assumption) ?_

theorem groupsAgain_keeps {ρ : State} {slot : Nat} {t : Task} {o : GroupOp} {s : State} (hK : Keeps ρ s) :
    Keeps ρ (groupsAgain slot t o s) := by
  unfold groupsAgain
  with_reducible repeat' first
    | assumption
    | apply engMod_keeps
    | apply toStep_keeps
    | apply groupAdd_keeps
    | apply keeps_foldl
    | intro _
    | fail_if_no_progress (apply keeps_same)
    | fail_if_no_progress (apply keeps_mem)
    | split
    | dsimp only

theorem groupTake_keeps {ρ : State} {slot : Nat} {t : Task} {o : GroupOp} {s : State} (hK : Keeps ρ s) :
    Keeps ρ (groupTake slot t o s) := by
  unfold groupTake
  with_reducible repeat' first
    | assumption
    | apply engMod_keeps
    | apply showState_keeps
    | apply takeKeyed_keeps
    | apply unitCount_keeps
    | apply groupAdd_keeps
    | apply toStep_keeps
    | apply keeps_ite
    | apply keeps_foldl
    | intro _
    | fail_if_no_progress (apply keeps_same)
    | fail_if_no_progress (apply keeps_mem)
    | split
    | dsimp only
    | refine of_pair (by assumption) ?_
    | refine of_some (by assumption) ?_

theorem runGroups_keeps {ρ : State} {slot : Nat} {t : Task} {s : State} (hK : Keeps ρ s) :
    Keeps ρ (runGroups slot t s) := by
  unfold runGroups
  with_reducible repeat' first
    | assumption
    | apply runIo_keeps
    | apply showState_keeps
    | apply groupTake_keeps
    | apply closeGroups_keeps
    | apply groupsLeave_keeps
    | apply groupsAgain_keeps
    | apply keeps_ite
    | intro _
    | fail_if_no_progress (apply keeps_same)
    | fail_if_no_progress (apply keeps_mem)
    | split
    | dsimp only

theorem execHashGroup_keeps {ρ : State} {slot : Nat} {s : State} (hK : Keeps ρ s) :
    OutKeeps ρ (execHashGroup slot s) := by
  unfold execHashGroup
  with_reducible repeat' first | assumption | apply keeps_next | apply runStage_keeps | apply runGroups_keeps

theorem execGroupHash_keeps {ρ : State} {slot : Nat} {s : State} (hK : Keeps ρ s) :
    OutKeeps ρ (execGroupHash slot s) := by
  unfold execGroupHash
  with_reducible repeat' first | assumption | apply keeps_next | apply runStage_keeps | apply runGroups_keeps

theorem sortedRow_keeps {ρ : State} {slot : Nat} {o : AggOp} {ks : List KeySpec} {row : List Elem} {s : State} (hK : Keeps ρ s) :
    Keeps ρ (sortedRow slot o ks row s) := by
  unfold sortedRow
  with_reducible repeat' first
    | assumption
    | apply failTask_keeps
    | apply unitCount_keeps
    | apply engMod_keeps
    | apply emitGroup_keeps
    | apply keeps_ite
    | intro _
    | fail_if_no_progress (apply keeps_same)
    | fail_if_no_progress (apply keeps_mem)
    | split
    | dsimp only
    | refine of_some (by assumption) ?_

theorem runSorted_keeps {ρ : State} {slot : Nat} {t : Task} {s : State} (hK : Keeps ρ s) :
    Keeps ρ (runSorted slot t s) := by
  unfold runSorted
  with_reducible repeat' first
    | assumption
    | apply engMod_keeps
    | apply takeRows_keeps
    | apply eachPending_keeps
    | apply sortedRow_keeps
    | apply showState_keeps
    | apply stageEnds_keeps
    | apply emitGroup_keeps
    | apply keeps_ite
    | intro _
    | fail_if_no_progress (apply keeps_same)
    | fail_if_no_progress (apply keeps_mem)
    | split
    | dsimp only
    | refine of_pair (by assumption) ?_
    | refine of_some (by assumption) ?_

theorem execGroupSorted_keeps {ρ : State} {slot : Nat} {s : State} (hK : Keeps ρ s) :
    OutKeeps ρ (execGroupSorted slot s) := by
  unfold execGroupSorted
  with_reducible repeat' first | assumption | apply keeps_next | apply runStage_keeps | apply runSorted_keeps

/-! ### Service.lean -/

theorem unitLeft_keeps {ρ : State} {u : Nat} {s : State} (hK : Keeps ρ s) :
    Keeps ρ (unitLeft u s) := by
  unfold unitLeft
  with_reducible repeat' first | assumption | apply keeps_foldl | apply failJob_keeps | intro _

/-! ### Sieve.lean -/

theorem svMod_keeps {ρ : State} {slot : Nat} {f : SvState → SvState} {s : State} (hK : Keeps ρ s) :
    Keeps ρ (svMod slot f s) := by
  unfold svMod
  with_reducible repeat' first | assumption | apply engMod_keeps

theorem pageFails_keeps {ρ : State} {slot : Nat} {addr : Nat} {f : PFail} {s : State} (hK : Keeps ρ s) :
    Keeps ρ (pageFails slot addr f s) := by
  unfold pageFails
  with_reducible repeat' first | assumption | apply failTask_keeps | apply unitCount_keeps | split

theorem emitBlock_keeps {ρ : State} {slot : Nat} {s : State} (hK : Keeps ρ s) :
    Keeps ρ (emitBlock slot s) := by
  unfold emitBlock
  with_reducible repeat' first
    | assumption
    | apply unitCount_keeps
    | apply engMod_keeps
    | apply failTask_keeps
    | apply emitOn_keeps
    | apply svMod_keeps
    | apply keeps_ite
    | intro _
    | fail_if_no_progress (apply keeps_same)
    | fail_if_no_progress (apply keeps_mem)
    | split
    | dsimp only
    | refine of_some (by assumption) ?_

theorem emitBlocks_keeps {ρ : State} {slot : Nat} {y0 : Nat} {y1 : State} (hK : Keeps ρ y1) :
    Keeps ρ (emitBlocks slot y0 y1) := by
  fun_induction emitBlocks slot y0 y1
  with_reducible repeat' first
    | assumption
    | apply emitBlock_keeps
    | apply keeps_ite
    | intro _
    | (apply ‹∀ _, _›)
    | fail_if_no_progress (apply keeps_same)
    | fail_if_no_progress (apply keeps_mem)
    | split
    | dsimp only
    | refine of_some (by assumption) ?_

theorem nextEntry_keeps {ρ : State} {slot : Nat} {s : State} (hK : Keeps ρ s) :
    Keeps ρ (nextEntry slot s) := by
  unfold nextEntry
  with_reducible repeat' first | assumption | apply keeps_ite | apply svMod_keeps | intro _ | split

theorem finishPage_keeps {ρ : State} {slot : Nat} {col : Nat} {addr : Nat} {p : List Byte} {s : State} (hK : Keeps ρ s) :
    Keeps ρ (finishPage slot col addr p s) := by
  unfold finishPage
  with_reducible repeat' first
    | assumption
    | apply pageFails_keeps
    | apply unitCount_keeps
    | apply nextEntry_keeps
    | apply emitBlocks_keeps
    | apply svMod_keeps
    | split
    | dsimp only

theorem awaitDict_keeps {ρ : State} {slot : Nat} {w : SvWait} {s : State} (hK : Keeps ρ s) :
    Keeps ρ (awaitDict slot w s) := by
  unfold awaitDict
  with_reducible repeat' first
    | assumption
    | apply svMod_keeps
    | apply showState_keeps
    | intro _
    | fail_if_no_progress (apply keeps_same)
    | fail_if_no_progress (apply keeps_mem)

theorem checkPage_keeps {ρ : State} {slot : Nat} {col : Nat} {addr : Nat} {p : List Byte} {inflated : Option Nat} {s : State} (hK : Keeps ρ s) :
    Keeps ρ (checkPage slot col addr p inflated s) := by
  unfold checkPage
  with_reducible repeat' first
    | assumption
    | apply pageFails_keeps
    | apply unitCount_keeps
    | apply svMod_keeps
    | apply finishPage_keeps
    | apply awaitDict_keeps
    | apply keeps_ite
    | intro _
    | fail_if_no_progress (apply keeps_same)
    | fail_if_no_progress (apply keeps_mem)
    | split
    | dsimp only
    | refine of_some (by assumption) ?_

theorem sieveRead_keeps {ρ : State} {unit : Nat} {n : Nat} {addr : Nat} {len : Nat} {s : State} (hK : Keeps ρ s) :
    Keeps ρ ((sieveRead unit n addr len s).2) := by
  unfold sieveRead
  with_reducible repeat' first
    | assumption
    | apply devRead_keeps
    | apply unitCount_keeps
    | intro _
    | fail_if_no_progress (apply keeps_same)
    | fail_if_no_progress (apply keeps_mem)
    | split
    | dsimp only
    | refine of_pair (by assumption) ?_
    | refine of_did (by assumption) ?_
    | refine of_ok (by assumption) ?_
    | refine of_threw (by assumption) ?_

theorem readPageBytes_keeps {ρ : State} {unit : Nat} {n : Nat} {addr : Nat} {s : State} (hK : Keeps ρ s) :
    Keeps ρ ((readPageBytes unit n addr s).2) := by
  unfold readPageBytes
  with_reducible repeat' first
    | assumption
    | apply sieveRead_keeps
    | intro _
    | fail_if_no_progress (apply keeps_same)
    | fail_if_no_progress (apply keeps_mem)
    | split
    | dsimp only
    | refine of_pair (by assumption) ?_
    | refine of_did (by assumption) ?_
    | refine of_ok (by assumption) ?_
    | refine of_threw (by assumption) ?_

theorem placedRead_keeps {ρ : State} {unit : Nat} {n : Nat} {addr : Nat} {len : Nat} {region : Option Nat} {s : State} (hK : Keeps ρ s) :
    Keeps ρ ((placedRead unit n addr len region s).2) := by
  unfold placedRead
  with_reducible repeat' first
    | assumption
    | apply sieveRead_keeps
    | intro _
    | fail_if_no_progress (apply keeps_same)
    | fail_if_no_progress (apply keeps_mem)
    | split
    | dsimp only
    | refine of_pair (by assumption) ?_
    | refine of_did (by assumption) ?_
    | refine of_ok (by assumption) ?_
    | refine of_some (by assumption) ?_
    | refine of_threw (by assumption) ?_

theorem placedParts_keeps {ρ : State} {unit : Nat} {n : Nat} {addr : Nat} {len : Nat} {more : List Byte → Nat} {region : Option Nat} {s : State} (hK : Keeps ρ s) :
    Keeps ρ ((placedParts unit n addr len more region s).2) := by
  unfold placedParts
  with_reducible repeat' first
    | assumption
    | apply placedRead_keeps
    | intro _
    | fail_if_no_progress (apply keeps_same)
    | fail_if_no_progress (apply keeps_mem)
    | split
    | dsimp only
    | refine of_pair (by assumption) ?_

theorem inflateFails_keeps {ρ : State} {slot : Nat} {e : InfErr} {frame : Nat} {s : State} (hK : Keeps ρ s) :
    Keeps ρ (inflateFails slot e frame s) := by
  unfold inflateFails
  with_reducible repeat' first | assumption | apply failTask_keeps

theorem readPage_keeps {ρ : State} {slot : Nat} {t : Task} {s : State} (hK : Keeps ρ s) :
    Keeps ρ (readPage slot t s) := by
  unfold readPage
  with_reducible repeat' first
    | assumption
    | apply placedParts_keeps
    | apply pageFails_keeps
    | apply unitCount_keeps
    | apply accessFailed_keeps
    | apply svMod_keeps
    | apply checkPage_keeps
    | apply inflateFails_keeps
    | apply keeps_ite
    | intro _
    | fail_if_no_progress (apply keeps_same)
    | fail_if_no_progress (apply keeps_mem)
    | split
    | dsimp only
    | refine of_pair (by assumption) ?_
    | refine of_did (by assumption) ?_
    | refine of_ok (by assumption) ?_
    | refine of_some (by assumption) ?_
    | refine of_threw (by assumption) ?_

theorem noteStall_keeps {ρ : State} {slot : Nat} {s : State} (hK : Keeps ρ s) :
    Keeps ρ (noteStall slot s) := by
  unfold noteStall
  with_reducible repeat' first
    | assumption
    | apply showState_keeps
    | apply svMod_keeps
    | apply keeps_ite
    | intro _
    | fail_if_no_progress (apply keeps_same)
    | fail_if_no_progress (apply keeps_mem)
    | split
    | dsimp only
    | refine of_some (by assumption) ?_

theorem execPageRead_keeps {ρ : State} {slot : Nat} {s : State} (hK : Keeps ρ s) :
    OutKeeps ρ (execPageRead slot s) := by
  unfold execPageRead
  with_reducible repeat' first
    | assumption
    | apply keeps_next
    | apply keeps_retire
    | apply keeps_jump
    | apply keeps_trap
    | apply keeps_wait
    | apply noteStall_keeps
    | apply runStage_keeps
    | apply readPage_keeps
    | split
    | intro _
    | split
    | apply keeps_ite_end

theorem entryBits_keeps {ρ : State} {img : List Byte} {o : ScanOp} {t : Task} {col : Nat} {v : List Byte} {s : State}
    (h : Keeps ρ s) : Keeps ρ (entryBits img o t col v s).2 := by
  unfold entryBits
  refine foldl_keeps (p := fun x : (Nat × Bool) × State => Keeps ρ x.2) _ h fun b a hb => ?_
  dsimp only
  split
  · exact hb
  · split
    · split
      · exact hb
      · exact countSearch_keeps hb
    · exact hb

theorem prepareEntries_keeps {ρ : State} {img : List Byte} {o : ScanOp} {t : Task} {col : Nat} {y0 : List (List Byte)} {y1 : State} (hK : Keeps ρ y1) :
    Keeps ρ ((prepareEntries img o t col y0 y1).2) := by
  fun_induction prepareEntries img o t col y0 y1
  with_reducible repeat' first | assumption | apply entryBits_keeps | (apply ‹∀ _, _›)

theorem prepareDict_keeps {ρ : State} {slot : Nat} {t : Task} {w : SvWait} {s : State} (hK : Keeps ρ s) :
    Keeps ρ (prepareDict slot t w s) := by
  unfold prepareDict
  with_reducible repeat' first
    | assumption
    | apply readPageBytes_keeps
    | apply accessFailed_keeps
    | apply unitCount_keeps
    | apply pageFails_keeps
    | apply prepareEntries_keeps
    | apply showState_keeps
    | apply failTask_keeps
    | apply odBump_keeps
    | apply svMod_keeps
    | apply finishPage_keeps
    | apply keeps_ite
    | intro _
    | fail_if_no_progress (apply keeps_same)
    | fail_if_no_progress (apply keeps_mem)
    | split
    | dsimp only
    | refine of_pair (by assumption) ?_
    | refine of_did (by assumption) ?_
    | refine of_ok (by assumption) ?_
    | refine of_threw (by assumption) ?_

theorem execDictionaryPrepare_keeps {ρ : State} {slot : Nat} {s : State} (hK : Keeps ρ s) :
    OutKeeps ρ (execDictionaryPrepare slot s) := by
  unfold execDictionaryPrepare
  with_reducible repeat' first
    | assumption
    | apply keeps_next
    | apply keeps_retire
    | apply keeps_jump
    | apply keeps_trap
    | apply keeps_wait
    | apply noteStall_keeps
    | apply runStage_keeps
    | apply prepareDict_keeps
    | intro _
    | fail_if_no_progress (apply keeps_same)
    | fail_if_no_progress (apply keeps_mem)
    | split
    | dsimp only
    | refine of_some (by assumption) ?_
    | apply keeps_ite_end

theorem runScan_keeps {ρ : State} {slot : Nat} {t : Task} {s : State} (hK : Keeps ρ s) :
    Keeps ρ (runScan slot t s) := by
  unfold runScan
  with_reducible repeat' first
    | assumption
    | apply stageDone_keeps
    | apply nextEntry_keeps
    | apply emitBlocks_keeps
    | apply setUnitState_keeps
    | apply showState_keeps
    | apply engMod_keeps
    | apply keeps_ite
    | intro _
    | fail_if_no_progress (apply keeps_same)
    | fail_if_no_progress (apply keeps_mem)
    | split
    | dsimp only
    | refine of_some (by assumption) ?_

theorem execScan_keeps {ρ : State} {slot : Nat} {s : State} (hK : Keeps ρ s) :
    OutKeeps ρ (execScan slot s) := by
  unfold execScan
  with_reducible repeat' first
    | assumption
    | apply keeps_next
    | apply noteStall_keeps
    | apply runStage_keeps
    | apply runScan_keeps
    | intro _

end Sys2Proof.Machine
end

