-- ==== Sys2Proof/Laws/KeepsTiller.lean ====
section
/-! SUPPORT. Every operation keeps the queue and the soundness of the state: the caches and the scalar instructions of a Tiller core. -/

namespace Sys2Proof.Machine

/-! ### CoreBase.lean -/

theorem coreMod_keeps {r : State} {c : CoreId} {f : Core → Core} {s : State} (h : Keeps r s)
    (hf : ∀ k, memWf k.tile = true → memWf (f k).tile = true) : Keeps r (coreMod c f s) := keeps_core h hf

theorem gSet_keeps {ρ : State} {c : CoreId} {r : Reg} {v : Word} {s : State} (hK : Keeps ρ s) :
    Keeps ρ (gSet c r v s) := by
  unfold gSet
  with_reducible repeat' first | assumption | apply keeps_ite | apply coreMod_keeps | intro _

theorem fSet_keeps {ρ : State} {c : CoreId} {r : Reg} {v : Word} {s : State} (hK : Keeps ρ s) :
    Keeps ρ (fSet c r v s) := by
  unfold fSet
  with_reducible repeat' first | assumption | apply coreMod_keeps | intro _

/-! ### Cache.lean -/

theorem l2Clean_keeps {ρ : State} {k : Nat} {set : Nat} {way : Nat} {s : State} (hK : Keeps ρ s) :
    Keeps ρ (l2Clean k set way s) := by
  unfold l2Clean
  with_reducible repeat' first
    | assumption
    | apply l2Parity_keeps
    | apply requestBursts_keeps
    | apply l2Put_keeps
    | apply odAdd_keeps
    | apply keeps_ite
    | apply keeps_foldl
    | intro _
    | fail_if_no_progress (apply keeps_same)
    | fail_if_no_progress (apply keeps_mem)
    | split
    | dsimp only
    | refine of_some (by assumption) ?_
    | refine of_pair1 (by assumption) ?_

theorem l2Discard_keeps {r : State} {k : Nat} {set : Nat} {way : Nat} {s : State} (h : Keeps r s) :
    Keeps r (l2Discard k set way s) := by
  unfold l2Discard
  split
  · exact h
  · refine l2Del_keeps (keeps_foldl _ h fun t a ht => ?_)
    exact keeps_dram ht fun hm => memPut_wf _ _ _ hm

theorem l2Fill_keeps {ρ : State} {k : Nat} {line : Nat} {mask : Nat} {age : Nat} {s : State} (hK : Keeps ρ s) :
    Keeps ρ (l2Fill k line mask age s) := by
  unfold l2Fill
  with_reducible repeat' first | assumption | apply l2Put_keeps | apply l2Clean_keeps | apply clusterMod_keeps

theorem sidePut_keeps {ρ : State} {k : Nat} {line : Nat} {s : State} (hK : Keeps ρ s) :
    Keeps ρ (sidePut k line s) := by
  unfold sidePut
  with_reducible repeat' first | assumption | apply clusterMod_keeps

theorem prefetchAfter_keeps {ρ : State} {c : CoreId} {line : Nat} {s : State} (hK : Keeps ρ s) :
    Keeps ρ (prefetchAfter c line s) := by
  unfold prefetchAfter
  with_reducible repeat' first
    | assumption
    | apply keeps_ite
    | apply coreMod_keeps
    | apply keeps_foldl
    | apply sidePut_keeps
    | apply requestBursts_keeps
    | intro _

theorem l2Access_keeps {ρ : State} {c : CoreId} {line : Nat} {mask : Nat} {fetchMask : Nat} {age : Nat} {s : State} (hK : Keeps ρ s) :
    Keeps ρ (l2Access c line mask fetchMask age s) := by
  unfold l2Access
  with_reducible repeat' first
    | assumption
    | apply odBump_keeps
    | apply l2Put_keeps
    | apply requestBursts_keeps
    | apply prefetchAfter_keeps
    | apply clusterMod_keeps
    | apply l2Fill_keeps
    | apply keeps_ite
    | apply keeps_foldl
    | intro _
    | fail_if_no_progress (apply keeps_same)
    | fail_if_no_progress (apply keeps_mem)
    | split
    | dsimp only
    | refine of_some (by assumption) ?_

theorem l1Put_keeps {ρ : State} {c : CoreId} {instr : Bool} {t : Tbl L1Line} {s : State} (hK : Keeps ρ s) :
    Keeps ρ (l1Put c instr t s) := by
  unfold l1Put
  with_reducible repeat' first
    | assumption
    | apply coreMod_keeps
    | apply keeps_ite
    | intro _
    | fail_if_no_progress (apply keeps_same)
    | fail_if_no_progress (apply keeps_mem)
    | split

theorem l1Look_keeps {ρ : State} {c : CoreId} {instr : Bool} {line64 : Nat} {s : State} (hK : Keeps ρ s) :
    Keeps ρ ((l1Look c instr line64 s).2) := by
  unfold l1Look
  with_reducible repeat' first
    | assumption
    | apply odBump_keeps
    | apply l1Put_keeps
    | apply keeps_ite
    | intro _
    | fail_if_no_progress (apply keeps_same)
    | fail_if_no_progress (apply keeps_mem)
    | split
    | dsimp only
    | refine of_some (by assumption) ?_

theorem l2Offer_keeps {ρ : State} {k : Nat} {l : L1Line} {s : State} (hK : Keeps ρ s) :
    Keeps ρ (l2Offer k l s) := by
  unfold l2Offer
  with_reducible repeat' first
    | assumption
    | apply odBump_keeps
    | apply l2Put_keeps
    | apply keeps_ite
    | intro _
    | fail_if_no_progress (apply keeps_same)
    | fail_if_no_progress (apply keeps_mem)
    | split
    | dsimp only
    | refine of_some (by assumption) ?_

theorem l1Fill_keeps {ρ : State} {c : CoreId} {instr : Bool} {line64 : Nat} {stream : Bool} {s : State} (hK : Keeps ρ s) :
    Keeps ρ (l1Fill c instr line64 stream s) := by
  unfold l1Fill
  with_reducible repeat' first
    | assumption
    | apply l1Put_keeps
    | apply l2Offer_keeps
    | apply keeps_ite
    | intro _
    | fail_if_no_progress (apply keeps_same)
    | fail_if_no_progress (apply keeps_mem)
    | split
    | dsimp only
    | refine of_some (by assumption) ?_

theorem l1Miss_keeps {ρ : State} {c : CoreId} {line64 : Nat} {stream : Bool} {s : State} (hK : Keeps ρ s) :
    Keeps ρ (l1Miss c line64 stream s) := by
  unfold l1Miss
  with_reducible repeat' first
    | assumption
    | apply requestBursts_keeps
    | apply l2Access_keeps
    | apply keeps_ite
    | intro _
    | split
    | dsimp only

theorem l1Load_keeps {ρ : State} {c : CoreId} {instr : Bool} {line64 : Nat} {stream : Bool} {s : State} (hK : Keeps ρ s) :
    Keeps ρ (l1Load c instr line64 stream s) := by
  unfold l1Load
  with_reducible repeat' first
    | assumption
    | apply l1Look_keeps
    | apply l1Fill_keeps
    | apply l1Miss_keeps
    | intro _
    | fail_if_no_progress (apply keeps_same)
    | fail_if_no_progress (apply keeps_mem)
    | split
    | dsimp only
    | refine of_pair (by assumption) ?_

theorem markStored_keeps {ρ : State} {c : CoreId} {line : Nat} {pa : Nat} {n : Nat} {s : State} (hK : Keeps ρ s) :
    Keeps ρ (markStored c line pa n s) := by
  unfold markStored
  with_reducible repeat' first
    | assumption
    | apply l2Put_keeps
    | apply keeps_ite
    | apply keeps_foldl
    | intro _
    | fail_if_no_progress (apply keeps_same)
    | fail_if_no_progress (apply keeps_mem)
    | split
    | dsimp only
    | refine of_some (by assumption) ?_

theorem parityAt_keeps {ρ : State} {k pa n : Nat} {s : State} (hK : Keeps ρ s) : Keeps ρ (parityAt k pa n s).1 := by
  unfold parityAt
  refine foldl_keeps (p := fun acc : State × Option Nat => Keeps ρ acc.1) _ hK fun b a hb => ?_
  split
  · exact hb
  · exact l2Parity_keeps hb

theorem storeLines_keeps {ρ : State} {c : CoreId} {pa : Nat} {bytes : List Byte} {stream : Bool} {s : State} (hK : Keeps ρ s) :
    Keeps ρ (storeLines c pa bytes stream s) := by
  unfold storeLines
  with_reducible repeat' first
    | assumption
    | apply l1Look_keeps
    | apply l2Access_keeps
    | apply markStored_keeps
    | apply requestBursts_keeps
    | apply physPut_keeps
    | apply keeps_ite
    | apply keeps_foldl
    | intro _
    | split
    | dsimp only

theorem tileCorrect_keeps {ρ : State} {c : CoreId} {off : Nat} {n : Nat} {s : State} (hK : Keeps ρ s) :
    Keeps ρ (tileCorrect c off n s) := by
  unfold tileCorrect
  with_reducible repeat' first
    | assumption
    | apply odAdd_keeps
    | apply coreMod_keeps
    | apply keeps_ite
    | intro _
    | fail_if_no_progress (apply keeps_same)
    | fail_if_no_progress (apply keeps_mem)
    | split
    | dsimp only

theorem tileWrite_keeps {ρ : State} {c : CoreId} {off : Nat} {bytes : List Byte} {s : State} (hK : Keeps ρ s) :
    Keeps ρ (tileWrite c off bytes s) := by
  unfold tileWrite
  exact tileCorrect_keeps (coreMod_keeps hK fun k hk => memPut_wf _ _ _ hk)

/-! ### TillerBase.lean -/

theorem haltCore_keeps {ρ : State} {c : CoreId} {cause : Nat} {s : State} (hK : Keeps ρ s) :
    Keeps ρ (haltCore c cause s) := by
  unfold haltCore
  with_reducible repeat' first
    | assumption
    | apply keeps_ite
    | apply unitLeft_keeps
    | apply failTask_keeps
    | apply coreMod_keeps
    | apply odSet_keeps
    | apply odBump_keeps
    | intro _
    | split

theorem coreWalk_keeps {ρ : State} {c : CoreId} {kind : AccKind} {a : Nat} {n : Nat} {s : State} (hK : Keeps ρ s) :
    Keeps ρ (coreWalk c kind a n s) := by
  unfold coreWalk
  with_reducible repeat' first
    | assumption
    | apply requestWalk_keeps
    | apply tlbFill_keeps
    | apply keeps_ite
    | intro _
    | fail_if_no_progress (apply keeps_same)
    | fail_if_no_progress (apply keeps_mem)
    | split
    | dsimp only
    | refine of_did (by assumption) ?_
    | refine of_ok (by assumption) ?_
    | refine of_threw (by assumption) ?_

theorem lostStore_keeps {ρ : State} {c : CoreId} {a : Nat} {s : State} (hK : Keeps ρ s) :
    Keeps ρ (lostStore c a s) := by
  unfold lostStore
  with_reducible repeat' first
    | assumption
    | apply failTask_keeps
    | apply rasEvent_keeps
    | intro _
    | fail_if_no_progress (apply keeps_same)
    | fail_if_no_progress (apply keeps_mem)
    | split
    | dsimp only
    | refine of_some (by assumption) ?_

theorem entryM_tile {k k' : Core} {lvl vec sub : Nat} {val ret : Word} {imprecise : Bool}
    (e : entryM k lvl vec sub val ret imprecise = some k') (h : memWf k.tile = true) : memWf k'.tile = true := by
  unfold entryM at e
  dsimp only at e
  split at e
  · split at e
    · cases e
    · cases e
      exact memPut_wf _ _ _ h
  · cases e
    exact h

theorem pushEstk_tile {k k' : Core} {b : List Byte} (e : pushEstk k b = some k') (h : memWf k.tile = true) :
    memWf k'.tile = true := by
  unfold pushEstk at e
  dsimp only at e
  split at e
  · cases e
  · cases e
    exact memPut_wf _ _ _ h

/-- A core given contents whose tile memory is sound when the one it has is. -/
theorem keeps_setCore {ρ : State} {c : CoreId} {k' : Core} {s : State} (h : Keeps ρ s)
    (hk : memWf (core s c).tile = true → memWf k'.tile = true) : Keeps ρ (coreMod c (fun _ => k') s) := by
  unfold coreMod
  refine keeps_cores h fun hc => ?_
  refine all_tset (fun c : Core => memWf c.tile) _ _ _ hc (hk ?_)
  unfold core tget
  cases hx : tfind s.cores c.val with
  | none => rfl
  | some v => exact List.all_eq_true.1 hc _ (tfind_mem _ _ _ hx)

theorem countEntry_keeps {ρ : State} {c : CoreId} {imprecise : Bool} {s : State} (hK : Keeps ρ s) :
    Keeps ρ (countEntry c imprecise s) := by
  unfold countEntry
  with_reducible repeat' first | assumption | apply odBump_keeps | apply keeps_ite | intro _ | split | dsimp only

theorem enterM_keeps {ρ : State} {c : CoreId} {lvl vec sub : Nat} {val ret : Word} {imprecise : Bool} {s : State}
    (hK : Keeps ρ s) : Keeps ρ (enterM c lvl vec sub val ret imprecise s) := by
  unfold enterM
  split
  · rename_i e
    exact countEntry_keeps (keeps_setCore hK fun ht => entryM_tile e ht)
  · exact haltCore_keeps hK

theorem tagError_keeps {ρ : State} {c : CoreId} {key : Nat} {l : L2Line} {s : State} (hK : Keeps ρ s) :
    Keeps ρ ((tagError c key l s).1) := by
  unfold tagError
  with_reducible repeat' first
    | assumption
    | apply odBump_keeps
    | apply l2Put_keeps
    | apply l2Del_keeps
    | apply fatal_keeps
    | apply enterM_keeps
    | apply rasEvent_keeps
    | apply keeps_ite
    | intro _
    | fail_if_no_progress (apply keeps_same)
    | fail_if_no_progress (apply keeps_mem)
    | split
    | dsimp only
    | refine of_some (by assumption) ?_

theorem tagSets_keeps {ρ : State} {c : CoreId} {sets : List Nat} {s : State} (hK : Keeps ρ s) :
    Keeps ρ (tagSets c sets s).1 := by
  unfold tagSets
  exact foldl_keeps (p := fun acc : State × Option Trap => Keeps ρ acc.1) _ hK fun b a hb => tagError_keeps hb

theorem tagCheck_keeps {ρ : State} {c : CoreId} {lines : List Nat} {s : State} (hK : Keeps ρ s) :
    Keeps ρ ((tagCheck c lines s).1) := by
  unfold tagCheck
  with_reducible repeat' first | assumption | apply tagSets_keeps | intro _

theorem parityNeeds_keeps {ρ : State} {c : CoreId} {need : Nat → Nat} {pa : Nat} {n : Nat} {s : State} (hK : Keeps ρ s) :
    Keeps ρ ((parityNeeds c need pa n s).1) := by
  unfold parityNeeds
  with_reducible repeat' first
    | assumption
    | apply tagCheck_keeps
    | apply parityAt_keeps
    | apply snoopLost_keeps
    | intro _
    | fail_if_no_progress (apply keeps_same)
    | fail_if_no_progress (apply keeps_mem)
    | split
    | dsimp only
    | refine of_pair1 (by assumption) ?_

theorem parityRange_keeps {ρ : State} {c : CoreId} {pa : Nat} {n : Nat} {s : State} (hK : Keeps ρ s) :
    Keeps ρ ((parityRange c pa n s).1) := by
  unfold parityRange
  with_reducible repeat' first | assumption | apply parityNeeds_keeps | intro _

theorem storeCheck_keeps {ρ : State} {c : CoreId} {pa : Nat} {n : Nat} {s : State} (hK : Keeps ρ s) :
    Keeps ρ ((storeCheck c pa n s).1) := by
  unfold storeCheck
  with_reducible repeat' first | assumption | apply parityNeeds_keeps | intro _

theorem pushFrame_keeps {ρ : State} {c : CoreId} {ctx : Ctx} {a : Nat} {p : Place} {bytes : List Byte} {s : State} (hK : Keeps ρ s) :
    Keeps ρ ((pushFrame c ctx a p bytes s).1) := by
  unfold pushFrame
  with_reducible repeat' first
    | assumption
    | apply tileWrite_keeps
    | apply lostStore_keeps
    | apply storeCheck_keeps
    | apply storeLines_keeps
    | apply logWrite_keeps
    | apply keeps_ite
    | intro _
    | fail_if_no_progress (apply keeps_same)
    | fail_if_no_progress (apply keeps_mem)
    | split
    | dsimp only
    | refine of_pair1 (by assumption) ?_

theorem entryS_keeps {ρ : State} {s : State} {c : CoreId} {lvl : Nat} {vec : Nat} {sub : Nat} {val : Word} {ret : Word}
    {imprecise : Bool} (h : Keeps ρ s) :
    OpKeeps (fun t => Keeps ρ t.1) (entryS s c lvl vec sub val ret imprecise) := by
  unfold entryS
  dsimp only
  split
  · split
    · exact keeps_none
    · split
      · exact keeps_none
      · exact keeps_some (coreMod_keeps (gSet_keeps (pushFrame_keeps h)) fun k hk => hk)
  · exact keeps_some (coreMod_keeps h fun k hk => hk)

theorem checkFails_keeps {ρ : State} {c : CoreId} {t : Trap} {s : State} (hK : Keeps ρ s) :
    Keeps ρ (checkFails c t s) := by
  unfold checkFails
  with_reducible repeat' first
    | assumption
    | apply failTask_keeps
    | apply keeps_ite
    | intro _
    | fail_if_no_progress (apply keeps_same)
    | fail_if_no_progress (apply keeps_mem)
    | split
    | dsimp only
    | refine of_some (by assumption) ?_

theorem pushLost_keeps {ρ : State} {c : CoreId} {lost : Option Trap} {s : State} (hK : Keeps ρ s) :
    Keeps ρ (pushLost c lost s) := by
  unfold pushLost
  with_reducible repeat' first
    | assumption
    | apply checkFails_keeps
    | apply enterM_keeps
    | intro _
    | fail_if_no_progress (apply keeps_same)
    | fail_if_no_progress (apply keeps_mem)
    | split
    | dsimp only
    | refine of_some (by assumption) ?_

theorem enter_keeps {ρ : State} {c : CoreId} {vec : Nat} {sub : Nat} {val : Word} {ret : Word} {imprecise : Bool} {s : State}
    (h : Keeps ρ s) : Keeps ρ (enter c vec sub val ret imprecise s) := by
  unfold enter
  dsimp only
  split
  · exact enterM_keeps h
  · split
    · rename_i e
      have hs := entryS_keeps (c := c) (lvl := (coreLevel s c).code) (vec := vec) (sub := sub) (val := val) (ret := ret)
        (imprecise := imprecise) h
      rw [e] at hs
      exact pushLost_keeps (countEntry_keeps hs)
    · split
      · exact haltCore_keeps h
      · rename_i e1
        split
        · exact haltCore_keeps h
        · rename_i e2
          exact countEntry_keeps (odBump_keeps (keeps_setCore h fun ht => entryM_tile e2 (pushEstk_tile e1 ht)))

theorem taskTrapped_keeps {ρ : State} {c : CoreId} {slot : Nat} {t : Trap} {ret : Word} {s : State} (hK : Keeps ρ s) :
    Keeps ρ (taskTrapped c slot t ret s) := by
  unfold taskTrapped
  with_reducible repeat' first
    | assumption
    | apply coreMod_keeps
    | apply parkAt_keeps
    | apply failTask_keeps
    | apply blobDone_keeps
    | apply keeps_ite
    | intro _
    | fail_if_no_progress (apply keeps_same)
    | fail_if_no_progress (apply keeps_mem)
    | split
    | dsimp only

theorem takeTrap_keeps {ρ : State} {c : CoreId} {t : Trap} {ret : Word} {imprecise : Bool} {s : State} (hK : Keeps ρ s) :
    Keeps ρ (takeTrap c t ret imprecise s) := by
  unfold takeTrap
  with_reducible repeat' first
    | assumption
    | apply odBump_keeps
    | apply enter_keeps
    | apply checkFails_keeps
    | apply taskTrapped_keeps
    | apply keeps_ite
    | intro _
    | fail_if_no_progress (apply keeps_same)
    | fail_if_no_progress (apply keeps_mem)
    | split
    | dsimp only
    | refine of_some (by assumption) ?_

theorem impreciseEntry_keeps {ρ : State} {c : CoreId} {s : State} (hK : Keeps ρ s) :
    Keeps ρ (impreciseEntry c s) := by
  unfold impreciseEntry
  with_reducible repeat' first
    | assumption
    | apply enter_keeps
    | apply coreMod_keeps
    | intro _
    | fail_if_no_progress (apply keeps_same)
    | fail_if_no_progress (apply keeps_mem)
    | split
    | dsimp only
    | refine of_some (by assumption) ?_

theorem takeImprecise_keeps {ρ : State} {c : CoreId} {s : State} (hK : Keeps ρ s) :
    Keeps ρ (takeImprecise c s) := by
  unfold takeImprecise
  with_reducible repeat' first
    | assumption
    | apply coreMod_keeps
    | apply takeTrap_keeps
    | intro _
    | fail_if_no_progress (apply keeps_same)
    | fail_if_no_progress (apply keeps_mem)
    | split
    | dsimp only
    | refine of_some (by assumption) ?_

theorem takeIntr_keeps {ρ : State} {c : CoreId} {s : State} (hK : Keeps ρ s) :
    Keeps ρ (takeIntr c s) := by
  unfold takeIntr
  with_reducible repeat' first | assumption | apply enter_keeps | apply coreMod_keeps | intro _ | split | dsimp only

theorem fetch_keeps {ρ : State} {c : CoreId} {s : State} (hK : Keeps ρ s) : Keeps ρ (fetch c s).2 := by
  unfold fetch
  dsimp only
  split
  · exact hK
  · split
    · exact coreWalk_keeps hK
    · split
      · exact of_pair1 (by assumption) (parityRange_keeps (coreWalk_keeps hK))
      · have h := of_pair1 (by assumption) (parityRange_keeps (coreWalk_keeps hK))
        split
        · exact h
        · split
          · exact h
          · exact l1Load_keeps h
    · exact tileCorrect_keeps hK
    · exact hK

theorem fetchTouch_keeps {ρ : State} {c : CoreId} {s : State} (hK : Keeps ρ s) :
    Keeps ρ (fetchTouch c s) := by
  unfold fetchTouch
  with_reducible repeat' first | assumption | apply fetch_keeps | intro _

theorem retireAt_keeps {ρ : State} {c : CoreId} {aged : Bool} {target : Word} {s : State} (hK : Keeps ρ s) :
    Keeps ρ (retireAt c aged target s) := by
  unfold retireAt
  with_reducible repeat' first | assumption | apply odBump_keeps | apply coreMod_keeps | intro _

theorem instrTrap_keeps {ρ : State} {c : CoreId} {pc : Word} {t : Trap} {s : State} (hK : Keeps ρ s) :
    Keeps ρ (instrTrap c pc t s) := by
  unfold instrTrap
  with_reducible repeat' first
    | assumption
    | apply takeTrap_keeps
    | apply odBump_keeps
    | apply keeps_ite
    | intro _
    | split

theorem runInstr_keeps {ρ : State} {c : CoreId} {drains : Bool} {body : State → CoreEnd} {s : State} (hF : ∀ a0, Keeps ρ a0 → EndKeeps ρ (body a0)) (hK : Keeps ρ s) :
    Keeps ρ (runInstr c drains body s) := by
  unfold runInstr
  with_reducible repeat' first
    | assumption
    | apply keeps_retire
    | apply keeps_jump
    | apply keeps_trap
    | apply keeps_wait
    | apply hF
    | apply takeImprecise_keeps
    | apply takeTrap_keeps
    | apply fetchTouch_keeps
    | apply retireAt_keeps
    | apply instrTrap_keeps
    | apply keeps_ite
    | intro _
    | fail_if_no_progress (apply keeps_same)
    | fail_if_no_progress (apply keeps_mem)
    | split
    | dsimp only
    | refine of_some (by assumption) ?_
    | refine of_retire (by assumption) ?_
    | refine of_jump (by assumption) ?_
    | refine of_trap (by assumption) ?_
    | refine of_wait (by assumption) ?_
    | apply keeps_ite_end

theorem runCore_keeps {ρ : State} {c : CoreId} {drains : Bool} {body : State → CoreEnd} {s : State} (hF : ∀ a0, Keeps ρ a0 → EndKeeps ρ (body a0)) (hK : Keeps ρ s) :
    Keeps ρ (runCore c drains body s) := by
  unfold runCore
  with_reducible repeat' first
    | assumption
    | apply hF
    | apply takeImprecise_keeps
    | apply takeIntr_keeps
    | apply runInstr_keeps
    | apply keeps_ite
    | intro _
    | split

theorem illegal_keeps {ρ : State} {word : BitVec 32} {s : State} (hK : Keeps ρ s) :
    EndKeeps ρ (illegal word s) := by
  unfold illegal
  with_reducible repeat' first | assumption | apply keeps_trap

theorem privileged_keeps {ρ : State} {word : BitVec 32} {s : State} (hK : Keeps ρ s) :
    EndKeeps ρ (privileged word s) := by
  unfold privileged
  with_reducible repeat' first | assumption | apply keeps_trap

theorem arith_keeps {ρ : State} {c : CoreId} {fl : FFlags} {chk : Bool} {write : State → State} {s : State} (hF : ∀ a0, Keeps ρ a0 → Keeps ρ (write a0)) (hK1 : Keeps ρ s) :
    EndKeeps ρ (arith c fl chk write s) := by
  unfold arith
  with_reducible repeat' first
    | assumption
    | apply keeps_ite_end
    | apply keeps_trap
    | apply keeps_retire
    | apply coreMod_keeps
    | apply hF
    | intro _

/-! ### CoreMem.lean -/

theorem devLoad_keeps {ρ : State} {c : CoreId} {a : Nat} {pa : Nat} {n : Nat} {stream : Bool} {s : State} (hK : Keeps ρ s) :
    Keeps ρ ((devLoad c a pa n stream s).2) := by
  unfold devLoad
  with_reducible repeat' first
    | assumption
    | apply parityRange_keeps
    | apply l1Load_keeps
    | apply keeps_ite
    | apply keeps_foldl
    | intro _
    | fail_if_no_progress (apply keeps_same)
    | fail_if_no_progress (apply keeps_mem)
    | split
    | dsimp only
    | refine of_did (by assumption) ?_
    | refine of_ok (by assumption) ?_
    | refine of_pair1 (by assumption) ?_
    | refine of_threw (by assumption) ?_

theorem devStore_keeps {ρ : State} {c : CoreId} {ctx : Ctx} {a : Nat} {pa : Nat} {bytes : List Byte} {stream : Bool} {s : State} (hK : Keeps ρ s) :
    TryKeeps ρ (devStore c ctx a pa bytes stream s) := by
  unfold devStore
  with_reducible repeat' first
    | assumption
    | apply keeps_did
    | apply keeps_threw
    | apply lostStore_keeps
    | apply storeCheck_keeps
    | apply storeLines_keeps
    | apply logWrite_keeps
    | apply keeps_ite_try
    | intro _
    | fail_if_no_progress (apply keeps_same)
    | fail_if_no_progress (apply keeps_mem)
    | split
    | dsimp only
    | refine of_did (by assumption) ?_
    | refine of_ok (by assumption) ?_
    | refine of_pair1 (by assumption) ?_
    | refine of_threw (by assumption) ?_

theorem chaffWrite_keeps {ρ : State} {c : CoreId} {a : Nat} {n : Nat} {s : State} (hK : Keeps ρ s) :
    Keeps ρ (chaffWrite c a n s) := by
  unfold chaffWrite
  with_reducible repeat' first
    | assumption
    | apply odAdd_keeps
    | intro _
    | fail_if_no_progress (apply keeps_same)
    | fail_if_no_progress (apply keeps_mem)
    | split
    | dsimp only
    | refine of_some (by assumption) ?_

theorem coreLoad_keeps {ρ : State} {c : CoreId} {a : Nat} {n : Nat} {longVec : Bool} {s : State} (hK : Keeps ρ s) :
    Keeps ρ ((coreLoad c a n longVec s).2) := by
  unfold coreLoad
  with_reducible repeat' first
    | assumption
    | apply coreWalk_keeps
    | apply tileCorrect_keeps
    | apply devLoad_keeps
    | intro _
    | fail_if_no_progress (apply keeps_same)
    | fail_if_no_progress (apply keeps_mem)
    | split
    | dsimp only
    | refine of_pair (by assumption) ?_
    | refine of_did (by assumption) ?_
    | refine of_ok (by assumption) ?_
    | refine of_threw (by assumption) ?_

theorem coreStore_keeps {ρ : State} {c : CoreId} {a : Nat} {bytes : List Byte} {longVec : Bool} {s : State} (hK : Keeps ρ s) :
    TryKeeps ρ (coreStore c a bytes longVec s) := by
  unfold coreStore
  with_reducible repeat' first
    | assumption
    | apply keeps_did
    | apply keeps_threw
    | apply coreWalk_keeps
    | apply chaffWrite_keeps
    | apply tileWrite_keeps
    | apply devStore_keeps
    | intro _
    | fail_if_no_progress (apply keeps_same)
    | fail_if_no_progress (apply keeps_mem)
    | split
    | dsimp only
    | refine of_did (by assumption) ?_
    | refine of_ok (by assumption) ?_
    | refine of_threw (by assumption) ?_

/-! ### TillerInt.lean -/

theorem aluBody_keeps {ρ : State} {c : CoreId} {rd : Reg} {ra : Reg} {rb : Reg} {f : Word → Word → Word} {s : State} (hK : Keeps ρ s) :
    EndKeeps ρ (aluBody c rd ra rb f s) := by
  unfold aluBody
  with_reducible repeat' first | assumption | apply keeps_retire | apply gSet_keeps

theorem runAlu_keeps {ρ : State} {c : CoreId} {rd : Reg} {ra : Reg} {rb : Reg} {f : Word → Word → Word} {s : State} (hK : Keeps ρ s) :
    Keeps ρ (runAlu c rd ra rb f s) := by
  unfold runAlu
  with_reducible repeat' first | assumption | apply runCore_keeps | apply aluBody_keeps

theorem runImm_keeps {ρ : State} {c : CoreId} {rd : Reg} {ra : Reg} {f : Word → Word} {s : State} (hK : Keeps ρ s) :
    Keeps ρ (runImm c rd ra f s) := by
  unfold runImm
  with_reducible repeat' first | assumption | apply runCore_keeps | apply keeps_retire | apply gSet_keeps | intro _

theorem execAluAdd_keeps {ρ : State} {c : CoreId} {rd : Reg} {ra : Reg} {rb : Reg} {s : State} (hK : Keeps ρ s) :
    OutKeeps ρ (execAluAdd c rd ra rb s) := by
  unfold execAluAdd
  with_reducible repeat' first | assumption | apply keeps_next | apply runAlu_keeps

theorem execAluSub_keeps {ρ : State} {c : CoreId} {rd : Reg} {ra : Reg} {rb : Reg} {s : State} (hK : Keeps ρ s) :
    OutKeeps ρ (execAluSub c rd ra rb s) := by
  unfold execAluSub
  with_reducible repeat' first | assumption | apply keeps_next | apply runAlu_keeps

theorem execAluAnd_keeps {ρ : State} {c : CoreId} {rd : Reg} {ra : Reg} {rb : Reg} {s : State} (hK : Keeps ρ s) :
    OutKeeps ρ (execAluAnd c rd ra rb s) := by
  unfold execAluAnd
  with_reducible repeat' first | assumption | apply keeps_next | apply runAlu_keeps

theorem execAluOr_keeps {ρ : State} {c : CoreId} {rd : Reg} {ra : Reg} {rb : Reg} {s : State} (hK : Keeps ρ s) :
    OutKeeps ρ (execAluOr c rd ra rb s) := by
  unfold execAluOr
  with_reducible repeat' first | assumption | apply keeps_next | apply runAlu_keeps

theorem execAluXor_keeps {ρ : State} {c : CoreId} {rd : Reg} {ra : Reg} {rb : Reg} {s : State} (hK : Keeps ρ s) :
    OutKeeps ρ (execAluXor c rd ra rb s) := by
  unfold execAluXor
  with_reducible repeat' first | assumption | apply keeps_next | apply runAlu_keeps

theorem execAluSll_keeps {ρ : State} {c : CoreId} {rd : Reg} {ra : Reg} {rb : Reg} {s : State} (hK : Keeps ρ s) :
    OutKeeps ρ (execAluSll c rd ra rb s) := by
  unfold execAluSll
  with_reducible repeat' first | assumption | apply keeps_next | apply runAlu_keeps

theorem execAluSrl_keeps {ρ : State} {c : CoreId} {rd : Reg} {ra : Reg} {rb : Reg} {s : State} (hK : Keeps ρ s) :
    OutKeeps ρ (execAluSrl c rd ra rb s) := by
  unfold execAluSrl
  with_reducible repeat' first | assumption | apply keeps_next | apply runAlu_keeps

theorem execAluSra_keeps {ρ : State} {c : CoreId} {rd : Reg} {ra : Reg} {rb : Reg} {s : State} (hK : Keeps ρ s) :
    OutKeeps ρ (execAluSra c rd ra rb s) := by
  unfold execAluSra
  with_reducible repeat' first | assumption | apply keeps_next | apply runAlu_keeps

theorem execAluSlt_keeps {ρ : State} {c : CoreId} {rd : Reg} {ra : Reg} {rb : Reg} {s : State} (hK : Keeps ρ s) :
    OutKeeps ρ (execAluSlt c rd ra rb s) := by
  unfold execAluSlt
  with_reducible repeat' first | assumption | apply keeps_next | apply runAlu_keeps

theorem execAluSltu_keeps {ρ : State} {c : CoreId} {rd : Reg} {ra : Reg} {rb : Reg} {s : State} (hK : Keeps ρ s) :
    OutKeeps ρ (execAluSltu c rd ra rb s) := by
  unfold execAluSltu
  with_reducible repeat' first | assumption | apply keeps_next | apply runAlu_keeps

theorem execAluMin_keeps {ρ : State} {c : CoreId} {rd : Reg} {ra : Reg} {rb : Reg} {s : State} (hK : Keeps ρ s) :
    OutKeeps ρ (execAluMin c rd ra rb s) := by
  unfold execAluMin
  with_reducible repeat' first | assumption | apply keeps_next | apply runAlu_keeps

theorem execAluMax_keeps {ρ : State} {c : CoreId} {rd : Reg} {ra : Reg} {rb : Reg} {s : State} (hK : Keeps ρ s) :
    OutKeeps ρ (execAluMax c rd ra rb s) := by
  unfold execAluMax
  with_reducible repeat' first | assumption | apply keeps_next | apply runAlu_keeps

theorem execAluMinu_keeps {ρ : State} {c : CoreId} {rd : Reg} {ra : Reg} {rb : Reg} {s : State} (hK : Keeps ρ s) :
    OutKeeps ρ (execAluMinu c rd ra rb s) := by
  unfold execAluMinu
  with_reducible repeat' first | assumption | apply keeps_next | apply runAlu_keeps

theorem execAluMaxu_keeps {ρ : State} {c : CoreId} {rd : Reg} {ra : Reg} {rb : Reg} {s : State} (hK : Keeps ρ s) :
    OutKeeps ρ (execAluMaxu c rd ra rb s) := by
  unfold execAluMaxu
  with_reducible repeat' first | assumption | apply keeps_next | apply runAlu_keeps

theorem execAluRotl_keeps {ρ : State} {c : CoreId} {rd : Reg} {ra : Reg} {rb : Reg} {s : State} (hK : Keeps ρ s) :
    OutKeeps ρ (execAluRotl c rd ra rb s) := by
  unfold execAluRotl
  with_reducible repeat' first | assumption | apply keeps_next | apply runAlu_keeps

theorem execAluClz_keeps {ρ : State} {c : CoreId} {rd : Reg} {ra : Reg} {s : State} (hK : Keeps ρ s) :
    OutKeeps ρ (execAluClz c rd ra s) := by
  unfold execAluClz
  with_reducible repeat' first | assumption | apply keeps_next | apply runImm_keeps

theorem execAluwAdd_keeps {ρ : State} {c : CoreId} {rd : Reg} {ra : Reg} {rb : Reg} {s : State} (hK : Keeps ρ s) :
    OutKeeps ρ (execAluwAdd c rd ra rb s) := by
  unfold execAluwAdd
  with_reducible repeat' first | assumption | apply keeps_next | apply runAlu_keeps

theorem execAluwSub_keeps {ρ : State} {c : CoreId} {rd : Reg} {ra : Reg} {rb : Reg} {s : State} (hK : Keeps ρ s) :
    OutKeeps ρ (execAluwSub c rd ra rb s) := by
  unfold execAluwSub
  with_reducible repeat' first | assumption | apply keeps_next | apply runAlu_keeps

theorem execAluwAnd_keeps {ρ : State} {c : CoreId} {rd : Reg} {ra : Reg} {rb : Reg} {s : State} (hK : Keeps ρ s) :
    OutKeeps ρ (execAluwAnd c rd ra rb s) := by
  unfold execAluwAnd
  with_reducible repeat' first | assumption | apply keeps_next | apply runAlu_keeps

theorem execAluwOr_keeps {ρ : State} {c : CoreId} {rd : Reg} {ra : Reg} {rb : Reg} {s : State} (hK : Keeps ρ s) :
    OutKeeps ρ (execAluwOr c rd ra rb s) := by
  unfold execAluwOr
  with_reducible repeat' first | assumption | apply keeps_next | apply runAlu_keeps

theorem execAluwXor_keeps {ρ : State} {c : CoreId} {rd : Reg} {ra : Reg} {rb : Reg} {s : State} (hK : Keeps ρ s) :
    OutKeeps ρ (execAluwXor c rd ra rb s) := by
  unfold execAluwXor
  with_reducible repeat' first | assumption | apply keeps_next | apply runAlu_keeps

theorem execAluwSll_keeps {ρ : State} {c : CoreId} {rd : Reg} {ra : Reg} {rb : Reg} {s : State} (hK : Keeps ρ s) :
    OutKeeps ρ (execAluwSll c rd ra rb s) := by
  unfold execAluwSll
  with_reducible repeat' first | assumption | apply keeps_next | apply runAlu_keeps

theorem execAluwSrl_keeps {ρ : State} {c : CoreId} {rd : Reg} {ra : Reg} {rb : Reg} {s : State} (hK : Keeps ρ s) :
    OutKeeps ρ (execAluwSrl c rd ra rb s) := by
  unfold execAluwSrl
  with_reducible repeat' first | assumption | apply keeps_next | apply runAlu_keeps

theorem execAluwSra_keeps {ρ : State} {c : CoreId} {rd : Reg} {ra : Reg} {rb : Reg} {s : State} (hK : Keeps ρ s) :
    OutKeeps ρ (execAluwSra c rd ra rb s) := by
  unfold execAluwSra
  with_reducible repeat' first | assumption | apply keeps_next | apply runAlu_keeps

theorem execAluwSlt_keeps {ρ : State} {c : CoreId} {rd : Reg} {ra : Reg} {rb : Reg} {s : State} (hK : Keeps ρ s) :
    OutKeeps ρ (execAluwSlt c rd ra rb s) := by
  unfold execAluwSlt
  with_reducible repeat' first | assumption | apply keeps_next | apply runAlu_keeps

theorem execAluwSltu_keeps {ρ : State} {c : CoreId} {rd : Reg} {ra : Reg} {rb : Reg} {s : State} (hK : Keeps ρ s) :
    OutKeeps ρ (execAluwSltu c rd ra rb s) := by
  unfold execAluwSltu
  with_reducible repeat' first | assumption | apply keeps_next | apply runAlu_keeps

theorem execAluwMin_keeps {ρ : State} {c : CoreId} {rd : Reg} {ra : Reg} {rb : Reg} {s : State} (hK : Keeps ρ s) :
    OutKeeps ρ (execAluwMin c rd ra rb s) := by
  unfold execAluwMin
  with_reducible repeat' first | assumption | apply keeps_next | apply runAlu_keeps

theorem execAluwMax_keeps {ρ : State} {c : CoreId} {rd : Reg} {ra : Reg} {rb : Reg} {s : State} (hK : Keeps ρ s) :
    OutKeeps ρ (execAluwMax c rd ra rb s) := by
  unfold execAluwMax
  with_reducible repeat' first | assumption | apply keeps_next | apply runAlu_keeps

theorem execAluwMinu_keeps {ρ : State} {c : CoreId} {rd : Reg} {ra : Reg} {rb : Reg} {s : State} (hK : Keeps ρ s) :
    OutKeeps ρ (execAluwMinu c rd ra rb s) := by
  unfold execAluwMinu
  with_reducible repeat' first | assumption | apply keeps_next | apply runAlu_keeps

theorem execAluwMaxu_keeps {ρ : State} {c : CoreId} {rd : Reg} {ra : Reg} {rb : Reg} {s : State} (hK : Keeps ρ s) :
    OutKeeps ρ (execAluwMaxu c rd ra rb s) := by
  unfold execAluwMaxu
  with_reducible repeat' first | assumption | apply keeps_next | apply runAlu_keeps

theorem execAluwRotl_keeps {ρ : State} {c : CoreId} {rd : Reg} {ra : Reg} {rb : Reg} {s : State} (hK : Keeps ρ s) :
    OutKeeps ρ (execAluwRotl c rd ra rb s) := by
  unfold execAluwRotl
  with_reducible repeat' first | assumption | apply keeps_next | apply runAlu_keeps

theorem execAluwClz_keeps {ρ : State} {c : CoreId} {rd : Reg} {ra : Reg} {s : State} (hK : Keeps ρ s) :
    OutKeeps ρ (execAluwClz c rd ra s) := by
  unfold execAluwClz
  with_reducible repeat' first | assumption | apply keeps_next | apply runImm_keeps

theorem runDiv_keeps {ρ : State} {c : CoreId} {rd : Reg} {ra : Reg} {rb : Reg} {signed : Bool} {rem : Bool} {s : State} (hK : Keeps ρ s) :
    Keeps ρ (runDiv c rd ra rb signed rem s) := by
  unfold runDiv
  with_reducible repeat' first | assumption | apply runCore_keeps | apply arith_keeps | apply gSet_keeps | intro _

theorem runChk_keeps {ρ : State} {c : CoreId} {rd : Reg} {ra : Reg} {rb : Reg} {f : Int → Int → Int} {s : State} (hK : Keeps ρ s) :
    Keeps ρ (runChk c rd ra rb f s) := by
  unfold runChk
  with_reducible repeat' first | assumption | apply runCore_keeps | apply arith_keeps | apply gSet_keeps | intro _

theorem execMul_keeps {ρ : State} {c : CoreId} {rd : Reg} {ra : Reg} {rb : Reg} {s : State} (hK : Keeps ρ s) :
    OutKeeps ρ (execMul c rd ra rb s) := by
  unfold execMul
  with_reducible repeat' first | assumption | apply keeps_next | apply runAlu_keeps

theorem execMulh_keeps {ρ : State} {c : CoreId} {rd : Reg} {ra : Reg} {rb : Reg} {s : State} (hK : Keeps ρ s) :
    OutKeeps ρ (execMulh c rd ra rb s) := by
  unfold execMulh
  with_reducible repeat' first | assumption | apply keeps_next | apply runAlu_keeps

theorem execMulhu_keeps {ρ : State} {c : CoreId} {rd : Reg} {ra : Reg} {rb : Reg} {s : State} (hK : Keeps ρ s) :
    OutKeeps ρ (execMulhu c rd ra rb s) := by
  unfold execMulhu
  with_reducible repeat' first | assumption | apply keeps_next | apply runAlu_keeps

theorem execDiv_keeps {ρ : State} {c : CoreId} {rd : Reg} {ra : Reg} {rb : Reg} {s : State} (hK : Keeps ρ s) :
    OutKeeps ρ (execDiv c rd ra rb s) := by
  unfold execDiv
  with_reducible repeat' first | assumption | apply keeps_next | apply runDiv_keeps

theorem execDivu_keeps {ρ : State} {c : CoreId} {rd : Reg} {ra : Reg} {rb : Reg} {s : State} (hK : Keeps ρ s) :
    OutKeeps ρ (execDivu c rd ra rb s) := by
  unfold execDivu
  with_reducible repeat' first | assumption | apply keeps_next | apply runDiv_keeps

theorem execRem_keeps {ρ : State} {c : CoreId} {rd : Reg} {ra : Reg} {rb : Reg} {s : State} (hK : Keeps ρ s) :
    OutKeeps ρ (execRem c rd ra rb s) := by
  unfold execRem
  with_reducible repeat' first | assumption | apply keeps_next | apply runDiv_keeps

theorem execRemu_keeps {ρ : State} {c : CoreId} {rd : Reg} {ra : Reg} {rb : Reg} {s : State} (hK : Keeps ρ s) :
    OutKeeps ρ (execRemu c rd ra rb s) := by
  unfold execRemu
  with_reducible repeat' first | assumption | apply keeps_next | apply runDiv_keeps

theorem execChkAdd_keeps {ρ : State} {c : CoreId} {rd : Reg} {ra : Reg} {rb : Reg} {s : State} (hK : Keeps ρ s) :
    OutKeeps ρ (execChkAdd c rd ra rb s) := by
  unfold execChkAdd
  with_reducible repeat' first | assumption | apply keeps_next | apply runChk_keeps

theorem execChkSub_keeps {ρ : State} {c : CoreId} {rd : Reg} {ra : Reg} {rb : Reg} {s : State} (hK : Keeps ρ s) :
    OutKeeps ρ (execChkSub c rd ra rb s) := by
  unfold execChkSub
  with_reducible repeat' first | assumption | apply keeps_next | apply runChk_keeps

theorem execChkMul_keeps {ρ : State} {c : CoreId} {rd : Reg} {ra : Reg} {rb : Reg} {s : State} (hK : Keeps ρ s) :
    OutKeeps ρ (execChkMul c rd ra rb s) := by
  unfold execChkMul
  with_reducible repeat' first | assumption | apply keeps_next | apply runChk_keeps

theorem execAddi_keeps {ρ : State} {c : CoreId} {rd : Reg} {ra : Reg} {imm : BitVec 16} {s : State} (hK : Keeps ρ s) :
    OutKeeps ρ (execAddi c rd ra imm s) := by
  unfold execAddi
  with_reducible repeat' first | assumption | apply keeps_next | apply runImm_keeps

theorem execAndi_keeps {ρ : State} {c : CoreId} {rd : Reg} {ra : Reg} {imm : BitVec 16} {s : State} (hK : Keeps ρ s) :
    OutKeeps ρ (execAndi c rd ra imm s) := by
  unfold execAndi
  with_reducible repeat' first | assumption | apply keeps_next | apply runImm_keeps

theorem execOri_keeps {ρ : State} {c : CoreId} {rd : Reg} {ra : Reg} {imm : BitVec 16} {s : State} (hK : Keeps ρ s) :
    OutKeeps ρ (execOri c rd ra imm s) := by
  unfold execOri
  with_reducible repeat' first | assumption | apply keeps_next | apply runImm_keeps

theorem execXori_keeps {ρ : State} {c : CoreId} {rd : Reg} {ra : Reg} {imm : BitVec 16} {s : State} (hK : Keeps ρ s) :
    OutKeeps ρ (execXori c rd ra imm s) := by
  unfold execXori
  with_reducible repeat' first | assumption | apply keeps_next | apply runImm_keeps

theorem execSlti_keeps {ρ : State} {c : CoreId} {rd : Reg} {ra : Reg} {imm : BitVec 16} {s : State} (hK : Keeps ρ s) :
    OutKeeps ρ (execSlti c rd ra imm s) := by
  unfold execSlti
  with_reducible repeat' first | assumption | apply keeps_next | apply runImm_keeps

theorem execLui_keeps {ρ : State} {c : CoreId} {rd : Reg} {imm : BitVec 16} {s : State} (hK : Keeps ρ s) :
    OutKeeps ρ (execLui c rd imm s) := by
  unfold execLui
  with_reducible repeat' first | assumption | apply keeps_next | apply runImm_keeps

theorem runShifti_keeps {ρ : State} {c : CoreId} {rd : Reg} {ra : Reg} {w : Bool} {count : Fin 64} {sel : Nat} {f64 : Word → Nat → Word} {f32 : BitVec 32 → Nat → BitVec 32} {s : State} (hK : Keeps ρ s) :
    Keeps ρ (runShifti c rd ra w count sel f64 f32 s) := by
  unfold runShifti
  with_reducible repeat' first
    | assumption
    | apply runCore_keeps
    | apply keeps_ite_end
    | apply illegal_keeps
    | apply keeps_retire
    | apply gSet_keeps
    | intro _

theorem execSlli_keeps {ρ : State} {c : CoreId} {rd : Reg} {ra : Reg} {w : Bool} {count : Fin 64} {s : State} (hK : Keeps ρ s) :
    OutKeeps ρ (execSlli c rd ra w count s) := by
  unfold execSlli
  with_reducible repeat' first | assumption | apply keeps_next | apply runShifti_keeps

theorem execSrli_keeps {ρ : State} {c : CoreId} {rd : Reg} {ra : Reg} {w : Bool} {count : Fin 64} {s : State} (hK : Keeps ρ s) :
    OutKeeps ρ (execSrli c rd ra w count s) := by
  unfold execSrli
  with_reducible repeat' first | assumption | apply keeps_next | apply runShifti_keeps

theorem execSrai_keeps {ρ : State} {c : CoreId} {rd : Reg} {ra : Reg} {w : Bool} {count : Fin 64} {s : State} (hK : Keeps ρ s) :
    OutKeeps ρ (execSrai c rd ra w count s) := by
  unfold execSrai
  with_reducible repeat' first | assumption | apply keeps_next | apply runShifti_keeps

theorem execRotli_keeps {ρ : State} {c : CoreId} {rd : Reg} {ra : Reg} {w : Bool} {count : Fin 64} {s : State} (hK : Keeps ρ s) :
    OutKeeps ρ (execRotli c rd ra w count s) := by
  unfold execRotli
  with_reducible repeat' first | assumption | apply keeps_next | apply runShifti_keeps

theorem runBranch_keeps {ρ : State} {c : CoreId} {ra : Reg} {rb : Reg} {disp : BitVec 16} {cond : Word → Word → Bool} {s : State} (hK : Keeps ρ s) :
    Keeps ρ (runBranch c ra rb disp cond s) := by
  unfold runBranch
  with_reducible repeat' first
    | assumption
    | apply runCore_keeps
    | apply keeps_ite_end
    | apply keeps_jump
    | apply keeps_retire
    | intro _

theorem execBeq_keeps {ρ : State} {c : CoreId} {ra : Reg} {rb : Reg} {disp : BitVec 16} {s : State} (hK : Keeps ρ s) :
    OutKeeps ρ (execBeq c ra rb disp s) := by
  unfold execBeq
  with_reducible repeat' first | assumption | apply keeps_next | apply runBranch_keeps

theorem execBne_keeps {ρ : State} {c : CoreId} {ra : Reg} {rb : Reg} {disp : BitVec 16} {s : State} (hK : Keeps ρ s) :
    OutKeeps ρ (execBne c ra rb disp s) := by
  unfold execBne
  with_reducible repeat' first | assumption | apply keeps_next | apply runBranch_keeps

theorem execBlt_keeps {ρ : State} {c : CoreId} {ra : Reg} {rb : Reg} {disp : BitVec 16} {s : State} (hK : Keeps ρ s) :
    OutKeeps ρ (execBlt c ra rb disp s) := by
  unfold execBlt
  with_reducible repeat' first | assumption | apply keeps_next | apply runBranch_keeps

theorem execBge_keeps {ρ : State} {c : CoreId} {ra : Reg} {rb : Reg} {disp : BitVec 16} {s : State} (hK : Keeps ρ s) :
    OutKeeps ρ (execBge c ra rb disp s) := by
  unfold execBge
  with_reducible repeat' first | assumption | apply keeps_next | apply runBranch_keeps

theorem execBltu_keeps {ρ : State} {c : CoreId} {ra : Reg} {rb : Reg} {disp : BitVec 16} {s : State} (hK : Keeps ρ s) :
    OutKeeps ρ (execBltu c ra rb disp s) := by
  unfold execBltu
  with_reducible repeat' first | assumption | apply keeps_next | apply runBranch_keeps

theorem execBgeu_keeps {ρ : State} {c : CoreId} {ra : Reg} {rb : Reg} {disp : BitVec 16} {s : State} (hK : Keeps ρ s) :
    OutKeeps ρ (execBgeu c ra rb disp s) := by
  unfold execBgeu
  with_reducible repeat' first | assumption | apply keeps_next | apply runBranch_keeps

theorem execJ_keeps {ρ : State} {c : CoreId} {disp : BitVec 26} {s : State} (hK : Keeps ρ s) :
    OutKeeps ρ (execJ c disp s) := by
  unfold execJ
  with_reducible repeat' first | assumption | apply keeps_next | apply runCore_keeps | apply keeps_jump | intro _

theorem execJal_keeps {ρ : State} {c : CoreId} {disp : BitVec 26} {s : State} (hK : Keeps ρ s) :
    OutKeeps ρ (execJal c disp s) := by
  unfold execJal
  with_reducible repeat' first
    | assumption
    | apply keeps_next
    | apply runCore_keeps
    | apply keeps_jump
    | apply gSet_keeps
    | intro _

theorem execJalr_keeps {ρ : State} {c : CoreId} {rd : Reg} {ra : Reg} {imm : BitVec 16} {s : State} (hK : Keeps ρ s) :
    OutKeeps ρ (execJalr c rd ra imm s) := by
  unfold execJalr
  with_reducible repeat' first
    | assumption
    | apply keeps_next
    | apply runCore_keeps
    | apply keeps_ite_end
    | apply keeps_trap
    | apply keeps_jump
    | apply gSet_keeps
    | intro _

/-! ### TillerMem.lean -/

theorem loadBody_keeps {ρ : State} {c : CoreId} {ra : Reg} {imm : BitVec 16} {n : Nat} {write : List Byte → State → State} {s : State} (hF : ∀ a0 a1, Keeps ρ a1 → Keeps ρ (write a0 a1)) (hK1 : Keeps ρ s) :
    EndKeeps ρ (loadBody c ra imm n write s) := by
  unfold loadBody
  with_reducible repeat' first
    | assumption
    | apply keeps_ite_end
    | apply keeps_trap
    | apply coreLoad_keeps
    | apply keeps_retire
    | apply hF
    | intro _
    | split
    | refine of_pair (by assumption) ?_

theorem runLoad_keeps {ρ : State} {c : CoreId} {ra : Reg} {imm : BitVec 16} {n : Nat} {write : List Byte → State → State} {s : State} (hF : ∀ a0 a1, Keeps ρ a1 → Keeps ρ (write a0 a1)) (hK1 : Keeps ρ s) :
    Keeps ρ (runLoad c ra imm n write s) := by
  unfold runLoad
  with_reducible repeat' first | assumption | apply runCore_keeps | apply loadBody_keeps | apply hF | intro _

theorem storeBody_keeps {ρ : State} {c : CoreId} {ra : Reg} {imm : BitVec 16} {n : Nat} {val : State → Nat} {s : State} (hK : Keeps ρ s) :
    EndKeeps ρ (storeBody c ra imm n val s) := by
  unfold storeBody
  with_reducible repeat' first
    | assumption
    | apply keeps_retire
    | apply keeps_jump
    | apply keeps_trap
    | apply keeps_wait
    | apply coreStore_keeps
    | apply keeps_ite_end
    | intro _
    | fail_if_no_progress (apply keeps_same)
    | fail_if_no_progress (apply keeps_mem)
    | split
    | dsimp only
    | refine of_did (by assumption) ?_
    | refine of_ok (by assumption) ?_
    | refine of_threw (by assumption) ?_

theorem runStore_keeps {ρ : State} {c : CoreId} {ra : Reg} {imm : BitVec 16} {n : Nat} {val : State → Nat} {s : State} (hK : Keeps ρ s) :
    Keeps ρ (runStore c ra imm n val s) := by
  unfold runStore
  with_reducible repeat' first | assumption | apply runCore_keeps | apply storeBody_keeps

theorem loadG_keeps {ρ : State} {c : CoreId} {rd : Reg} {signed : Bool} {bs : List Byte} {s : State} (hK : Keeps ρ s) :
    Keeps ρ (loadG c rd signed bs s) := by
  unfold loadG
  with_reducible repeat' first | assumption | apply gSet_keeps

theorem execLb_keeps {ρ : State} {c : CoreId} {rd : Reg} {ra : Reg} {imm : BitVec 16} {s : State} (hK : Keeps ρ s) :
    OutKeeps ρ (execLb c rd ra imm s) := by
  unfold execLb
  with_reducible repeat' first | assumption | apply keeps_next | apply runLoad_keeps | apply loadG_keeps

theorem execLh_keeps {ρ : State} {c : CoreId} {rd : Reg} {ra : Reg} {imm : BitVec 16} {s : State} (hK : Keeps ρ s) :
    OutKeeps ρ (execLh c rd ra imm s) := by
  unfold execLh
  with_reducible repeat' first | assumption | apply keeps_next | apply runLoad_keeps | apply loadG_keeps

theorem execLw_keeps {ρ : State} {c : CoreId} {rd : Reg} {ra : Reg} {imm : BitVec 16} {s : State} (hK : Keeps ρ s) :
    OutKeeps ρ (execLw c rd ra imm s) := by
  unfold execLw
  with_reducible repeat' first | assumption | apply keeps_next | apply runLoad_keeps | apply loadG_keeps

theorem execLd_keeps {ρ : State} {c : CoreId} {rd : Reg} {ra : Reg} {imm : BitVec 16} {s : State} (hK : Keeps ρ s) :
    OutKeeps ρ (execLd c rd ra imm s) := by
  unfold execLd
  with_reducible repeat' first | assumption | apply keeps_next | apply runLoad_keeps | apply loadG_keeps

theorem execLbu_keeps {ρ : State} {c : CoreId} {rd : Reg} {ra : Reg} {imm : BitVec 16} {s : State} (hK : Keeps ρ s) :
    OutKeeps ρ (execLbu c rd ra imm s) := by
  unfold execLbu
  with_reducible repeat' first | assumption | apply keeps_next | apply runLoad_keeps | apply loadG_keeps

theorem execLhu_keeps {ρ : State} {c : CoreId} {rd : Reg} {ra : Reg} {imm : BitVec 16} {s : State} (hK : Keeps ρ s) :
    OutKeeps ρ (execLhu c rd ra imm s) := by
  unfold execLhu
  with_reducible repeat' first | assumption | apply keeps_next | apply runLoad_keeps | apply loadG_keeps

theorem execLwu_keeps {ρ : State} {c : CoreId} {rd : Reg} {ra : Reg} {imm : BitVec 16} {s : State} (hK : Keeps ρ s) :
    OutKeeps ρ (execLwu c rd ra imm s) := by
  unfold execLwu
  with_reducible repeat' first | assumption | apply keeps_next | apply runLoad_keeps | apply loadG_keeps

theorem execLda_keeps {ρ : State} {c : CoreId} {rd : Reg} {ra : Reg} {imm : BitVec 16} {s : State} (hK : Keeps ρ s) :
    OutKeeps ρ (execLda c rd ra imm s) := by
  unfold execLda
  with_reducible repeat' first | assumption | apply keeps_next | apply runLoad_keeps | apply loadG_keeps

theorem execFld_keeps {ρ : State} {c : CoreId} {rd : Reg} {ra : Reg} {imm : BitVec 16} {s : State} (hK : Keeps ρ s) :
    OutKeeps ρ (execFld c rd ra imm s) := by
  unfold execFld
  with_reducible repeat' first | assumption | apply keeps_next | apply runLoad_keeps | apply fSet_keeps | intro _

theorem execFlw_keeps {ρ : State} {c : CoreId} {rd : Reg} {ra : Reg} {imm : BitVec 16} {s : State} (hK : Keeps ρ s) :
    OutKeeps ρ (execFlw c rd ra imm s) := by
  unfold execFlw
  with_reducible repeat' first | assumption | apply keeps_next | apply runLoad_keeps | apply fSet_keeps | intro _

theorem execSb_keeps {ρ : State} {c : CoreId} {rd : Reg} {ra : Reg} {imm : BitVec 16} {s : State} (hK : Keeps ρ s) :
    OutKeeps ρ (execSb c rd ra imm s) := by
  unfold execSb
  with_reducible repeat' first | assumption | apply keeps_next | apply runStore_keeps

theorem execSh_keeps {ρ : State} {c : CoreId} {rd : Reg} {ra : Reg} {imm : BitVec 16} {s : State} (hK : Keeps ρ s) :
    OutKeeps ρ (execSh c rd ra imm s) := by
  unfold execSh
  with_reducible repeat' first | assumption | apply keeps_next | apply runStore_keeps

theorem execSw_keeps {ρ : State} {c : CoreId} {rd : Reg} {ra : Reg} {imm : BitVec 16} {s : State} (hK : Keeps ρ s) :
    OutKeeps ρ (execSw c rd ra imm s) := by
  unfold execSw
  with_reducible repeat' first | assumption | apply keeps_next | apply runStore_keeps

theorem execSd_keeps {ρ : State} {c : CoreId} {rd : Reg} {ra : Reg} {imm : BitVec 16} {s : State} (hK : Keeps ρ s) :
    OutKeeps ρ (execSd c rd ra imm s) := by
  unfold execSd
  with_reducible repeat' first | assumption | apply keeps_next | apply runStore_keeps

theorem execStl_keeps {ρ : State} {c : CoreId} {rd : Reg} {ra : Reg} {imm : BitVec 16} {s : State} (hK : Keeps ρ s) :
    OutKeeps ρ (execStl c rd ra imm s) := by
  unfold execStl
  with_reducible repeat' first | assumption | apply keeps_next | apply runStore_keeps

theorem execFsd_keeps {ρ : State} {c : CoreId} {rd : Reg} {ra : Reg} {imm : BitVec 16} {s : State} (hK : Keeps ρ s) :
    OutKeeps ρ (execFsd c rd ra imm s) := by
  unfold execFsd
  with_reducible repeat' first | assumption | apply keeps_next | apply runStore_keeps

theorem execFsw_keeps {ρ : State} {c : CoreId} {rd : Reg} {ra : Reg} {imm : BitVec 16} {s : State} (hK : Keeps ρ s) :
    OutKeeps ρ (execFsw c rd ra imm s) := by
  unfold execFsw
  with_reducible repeat' first | assumption | apply keeps_next | apply runStore_keeps

theorem execLrx_keeps {ρ : State} {c : CoreId} {rd : Reg} {ra : Reg} {s : State} (hK : Keeps ρ s) :
    OutKeeps ρ (execLrx c rd ra s) := by
  unfold execLrx
  with_reducible repeat' first
    | assumption
    | apply keeps_next
    | apply runCore_keeps
    | apply keeps_trap
    | apply coreLoad_keeps
    | apply keeps_retire
    | apply loadG_keeps
    | apply coreMod_keeps
    | intro _
    | split
    | dsimp only
    | refine of_pair (by assumption) ?_

theorem execScx_keeps {ρ : State} {c : CoreId} {rd : Reg} {ra : Reg} {rb : Reg} {s : State} (hK : Keeps ρ s) :
    OutKeeps ρ (execScx c rd ra rb s) := by
  unfold execScx
  with_reducible repeat' first
    | assumption
    | apply keeps_next
    | apply keeps_retire
    | apply keeps_jump
    | apply keeps_trap
    | apply keeps_wait
    | apply runCore_keeps
    | apply coreStore_keeps
    | apply gSet_keeps
    | split
    | intro _
    | fail_if_no_progress (apply keeps_same)
    | fail_if_no_progress (apply keeps_mem)
    | split
    | dsimp only
    | refine of_did (by assumption) ?_
    | refine of_ok (by assumption) ?_
    | refine of_some (by assumption) ?_
    | refine of_threw (by assumption) ?_
    | apply keeps_ite_end

theorem execFence_keeps {ρ : State} {c : CoreId} {bits : BitVec 5} {s : State} (hK : Keeps ρ s) :
    OutKeeps ρ (execFence c bits s) := by
  unfold execFence
  with_reducible repeat' first
    | assumption
    | apply keeps_next
    | apply runCore_keeps
    | apply keeps_retire
    | apply keeps_ite
    | apply coreMod_keeps
    | intro _

/-! ### TillerSys.lean -/

theorem execSysc_keeps {ρ : State} {c : CoreId} {imm : BitVec 16} {s : State} (hK : Keeps ρ s) :
    OutKeeps ρ (execSysc c imm s) := by
  unfold execSysc
  with_reducible repeat' first
    | assumption
    | apply keeps_next
    | apply runCore_keeps
    | apply keeps_ite_end
    | apply illegal_keeps
    | apply keeps_trap
    | intro _

theorem execMcall_keeps {ρ : State} {c : CoreId} {imm : BitVec 16} {s : State} (hK : Keeps ρ s) :
    OutKeeps ρ (execMcall c imm s) := by
  unfold execMcall
  with_reducible repeat' first
    | assumption
    | apply keeps_next
    | apply runCore_keeps
    | apply keeps_ite_end
    | apply privileged_keeps
    | apply keeps_trap
    | intro _

theorem execSret_keeps {ρ : State} {c : CoreId} {s : State} (hK : Keeps ρ s) :
    OutKeeps ρ (execSret c s) := by
  unfold execSret
  with_reducible repeat' first
    | assumption
    | apply keeps_next
    | apply runCore_keeps
    | apply keeps_ite_end
    | apply privileged_keeps
    | apply keeps_jump
    | apply coreMod_keeps
    | intro _

theorem execMret_keeps {ρ : State} {c : CoreId} {s : State} (hK : Keeps ρ s) :
    OutKeeps ρ (execMret c s) := by
  unfold execMret
  with_reducible repeat' first
    | assumption
    | apply keeps_next
    | apply runCore_keeps
    | apply keeps_ite_end
    | apply privileged_keeps
    | apply keeps_jump
    | apply coreMod_keeps
    | intro _

theorem statWrite_keeps {ρ : State} {c : CoreId} {n : Nat} {v : Word} {s : State} (hK : Keeps ρ s) :
    Keeps ρ (statWrite c n v s) := by
  unfold statWrite
  with_reducible repeat' first | assumption | apply coreMod_keeps | intro _ | split

theorem execMfs_keeps {ρ : State} {c : CoreId} {ra : Reg} {num : BitVec 16} {s : State} (hK : Keeps ρ s) :
    OutKeeps ρ (execMfs c ra num s) := by
  unfold execMfs
  with_reducible repeat' first
    | assumption
    | apply keeps_next
    | apply runCore_keeps
    | apply illegal_keeps
    | apply keeps_ite_end
    | apply privileged_keeps
    | apply keeps_retire
    | apply gSet_keeps
    | intro _
    | split

theorem execMts_keeps {ρ : State} {c : CoreId} {ra : Reg} {num : BitVec 16} {s : State} (hK : Keeps ρ s) :
    OutKeeps ρ (execMts c ra num s) := by
  unfold execMts
  with_reducible repeat' first
    | assumption
    | apply keeps_next
    | apply keeps_retire
    | apply keeps_jump
    | apply keeps_trap
    | apply keeps_wait
    | apply runCore_keeps
    | apply illegal_keeps
    | apply privileged_keeps
    | apply statWrite_keeps
    | split
    | intro _
    | fail_if_no_progress (apply keeps_same)
    | fail_if_no_progress (apply keeps_mem)
    | split
    | dsimp only
    | refine of_some (by assumption) ?_
    | apply keeps_ite_end

theorem execWfi_keeps {ρ : State} {c : CoreId} {s : State} (hK : Keeps ρ s) :
    OutKeeps ρ (execWfi c s) := by
  unfold execWfi
  with_reducible repeat' first
    | assumption
    | apply keeps_next
    | apply runCore_keeps
    | apply keeps_ite_end
    | apply keeps_retire
    | apply keeps_wait
    | intro _

theorem execHalt_keeps {ρ : State} {c : CoreId} {s : State} (hK : Keeps ρ s) :
    OutKeeps ρ (execHalt c s) := by
  unfold execHalt
  with_reducible repeat' first
    | assumption
    | apply keeps_next
    | apply runCore_keeps
    | apply keeps_ite_end
    | apply privileged_keeps
    | apply keeps_wait
    | apply haltCore_keeps
    | intro _

theorem execAfence_keeps {ρ : State} {c : CoreId} {s : State} (hK : Keeps ρ s) :
    OutKeeps ρ (execAfence c s) := by
  unfold execAfence
  with_reducible repeat' first | assumption | apply keeps_next | apply runCore_keeps | apply keeps_retire

theorem execBrk_keeps {ρ : State} {c : CoreId} {imm : BitVec 16} {s : State} (hK : Keeps ρ s) :
    OutKeeps ρ (execBrk c imm s) := by
  unfold execBrk
  with_reducible repeat' first | assumption | apply keeps_next | apply runCore_keeps | apply keeps_trap | intro _

theorem execInterruptTaken_keeps {ρ : State} {c : CoreId} {s : State} (hK : Keeps ρ s) :
    OutKeeps ρ (execInterruptTaken c s) := by
  unfold execInterruptTaken
  with_reducible repeat' first
    | assumption
    | apply keeps_next
    | apply keeps_ite
    | apply takeImprecise_keeps
    | apply takeIntr_keeps
    | intro _

theorem execImpreciseArithmetic_keeps {ρ : State} {c : CoreId} {s : State} (hK : Keeps ρ s) :
    OutKeeps ρ (execImpreciseArithmetic c s) := by
  unfold execImpreciseArithmetic
  with_reducible repeat' first | assumption | apply keeps_next | apply keeps_ite | apply takeImprecise_keeps | intro _

theorem coreRestart_keeps {ρ : State} {c : CoreId} {s : State} (h : Keeps ρ s) : Keeps ρ (coreRestart c s) := by
  unfold coreRestart
  have hc : Keeps ρ (coreMod c (fun k =>
      ({ g := k.g, f := k.f, haltCause := k.haltCause, haltTimes := k.haltTimes
         run := if k.run = .outOfService then .outOfService else .running } : Core)) s) :=
    coreMod_keeps h fun _ _ => rfl
  dsimp only
  split
  · exact h
  · split
    · exact hc
    · split
      · split
        · exact keeps_same (leaveHeld_keeps hc)
        · exact hc
      · exact hc

theorem streamError_keeps {ρ : State} {sub : Nat} {port : Nat} {s : State} (hK : Keeps ρ s) :
    EndKeeps ρ (streamError sub port s) := by
  unfold streamError
  with_reducible repeat' first | assumption | apply keeps_trap

theorem streamViolation_keeps {ρ : State} {a : Nat} {s : State} (hK : Keeps ρ s) :
    EndKeeps ρ (streamViolation a s) := by
  unfold streamViolation
  with_reducible repeat' first | assumption | apply keeps_trap

theorem tileLost_keeps {ρ : State} {a : Nat} {s : State} (hK : Keeps ρ s) :
    EndKeeps ρ (tileLost a s) := by
  unfold tileLost
  with_reducible repeat' first
    | assumption
    | apply keeps_retire
    | apply keeps_jump
    | apply keeps_trap
    | apply keeps_wait
    | intro _

theorem execSrd_keeps {ρ : State} {c : CoreId} {rd : Reg} {ra : Reg} {port : Fin 16} {s : State} (hK : Keeps ρ s) :
    OutKeeps ρ (execSrd c rd ra port s) := by
  unfold execSrd
  with_reducible repeat' first
    | assumption
    | apply keeps_next
    | apply keeps_retire
    | apply keeps_jump
    | apply keeps_trap
    | apply keeps_wait
    | apply runCore_keeps
    | apply streamError_keeps
    | apply gSet_keeps
    | apply dropPort_keeps
    | apply streamViolation_keeps
    | apply tileLost_keeps
    | apply tileWrite_keeps
    | split
    | intro _
    | fail_if_no_progress (apply keeps_same)
    | fail_if_no_progress (apply keeps_mem)
    | split
    | dsimp only
    | refine of_some (by assumption) ?_
    | apply keeps_ite_end

theorem sendElem_keeps {ρ : State} {c : CoreId} {rd : Reg} {slot : Nat} {t : Task} {port : Nat} {e : Elem} {s : State} (hK : Keeps ρ s) :
    EndKeeps ρ (sendElem c rd slot t port e s) := by
  unfold sendElem
  with_reducible repeat' first
    | assumption
    | apply keeps_retire
    | apply keeps_jump
    | apply keeps_trap
    | apply keeps_wait
    | apply gSet_keeps
    | apply pushOut_keeps
    | apply failTask_keeps
    | intro _
    | fail_if_no_progress (apply keeps_same)
    | fail_if_no_progress (apply keeps_mem)
    | split
    | dsimp only

theorem swrBody_keeps {ρ : State} {c : CoreId} {rd : Reg} {slot : Nat} {t : Task} {port : Nat} {p : OutPort} {a : Nat} {skip : Nat} {n : Nat} {s : State} (hK : Keeps ρ s) :
    EndKeeps ρ (swrBody c rd slot t port p a skip n s) := by
  unfold swrBody
  with_reducible repeat' first
    | assumption
    | apply keeps_retire
    | apply keeps_jump
    | apply keeps_trap
    | apply keeps_wait
    | apply streamViolation_keeps
    | apply tileLost_keeps
    | apply streamError_keeps
    | apply sendElem_keeps
    | apply tileCorrect_keeps
    | apply keeps_ite_end
    | intro _
    | fail_if_no_progress (apply keeps_same)
    | fail_if_no_progress (apply keeps_mem)
    | split
    | dsimp only
    | refine of_some (by assumption) ?_

theorem execSwr_keeps {ρ : State} {c : CoreId} {rd : Reg} {ra : Reg} {port : Fin 16} {s : State} (hK : Keeps ρ s) :
    OutKeeps ρ (execSwr c rd ra port s) := by
  unfold execSwr
  with_reducible repeat' first
    | assumption
    | apply keeps_next
    | apply runCore_keeps
    | apply streamError_keeps
    | apply streamViolation_keeps
    | apply swrBody_keeps
    | split
    | intro _
    | fail_if_no_progress (apply keeps_same)
    | fail_if_no_progress (apply keeps_mem)
    | split
    | dsimp only
    | refine of_some (by assumption) ?_

theorem execSwrn_keeps {ρ : State} {c : CoreId} {rd : Reg} {_ra : Reg} {port : Fin 16} {s : State} (hK : Keeps ρ s) :
    OutKeeps ρ (execSwrn c rd _ra port s) := by
  unfold execSwrn
  with_reducible repeat' first
    | assumption
    | apply keeps_next
    | apply runCore_keeps
    | apply streamError_keeps
    | apply sendElem_keeps
    | split
    | intro _
    | fail_if_no_progress (apply keeps_same)
    | fail_if_no_progress (apply keeps_mem)
    | split
    | dsimp only
    | refine of_some (by assumption) ?_

theorem execStrSend_keeps {ρ : State} {c : CoreId} {rd : Reg} {_ra : Reg} {port : Fin 16} {s : State} (hK : Keeps ρ s) :
    OutKeeps ρ (execStrSend c rd _ra port s) := by
  unfold execStrSend
  with_reducible repeat' first
    | assumption
    | apply keeps_next
    | apply runCore_keeps
    | apply streamError_keeps
    | apply keeps_ite_end
    | apply keeps_retire
    | apply gSet_keeps
    | apply taskMod_keeps
    | intro _
    | split

theorem execSpoll_keeps {ρ : State} {c : CoreId} {rd : Reg} {_ra : Reg} {port : Fin 16} {s : State} (hK : Keeps ρ s) :
    OutKeeps ρ (execSpoll c rd _ra port s) := by
  unfold execSpoll
  with_reducible repeat' first
    | assumption
    | apply keeps_next
    | apply runCore_keeps
    | apply streamError_keeps
    | apply keeps_retire
    | apply gSet_keeps
    | intro _
    | split

end Sys2Proof.Machine
end

