-- ==== Sys2Proof/Laws/KeepsWork.lean ====
section
/-! SUPPORT. Every operation keeps the queue and the soundness of the state: the Granary, the exchange, the queues and the instances. -/

namespace Sys2Proof.Machine

/-! ### Granary.lean -/

theorem fixShares_keeps {ρ : State} {s : State} (hK : Keeps ρ s) :
    Keeps ρ (fixShares s) := by
  unfold fixShares
  with_reducible repeat' first
    | assumption
    | apply keeps_ite
    | apply keeps_foldl
    | intro _
    | fail_if_no_progress (apply keeps_same)
    | fail_if_no_progress (apply keeps_mem)
    | split
    | dsimp only

theorem takeBanks_keeps {ρ : State} {g : Nat} {n : Nat} {s : State} (hK : Keeps ρ s) :
    Keeps ρ (takeBanks g n s) := by
  unfold takeBanks
  with_reducible repeat' first | assumption | fail_if_no_progress (apply keeps_same)

theorem loadLookup_keeps {ρ : State} {img : List Byte} {stage : Nat} {unit : Nat} {s : State} (hK : Keeps ρ s) :
    Keeps ρ (loadLookup img stage unit s) := by
  unfold loadLookup
  with_reducible repeat' first
    | assumption
    | apply setUnitState_keeps
    | apply gload_keeps
    | apply keeps_ite
    | intro _
    | split
    | dsimp only

theorem checkCopy_keeps {ρ : State} {slot : Nat} {s : State} (hK : Keeps ρ s) :
    Keeps ρ (checkCopy slot s) := by
  unfold checkCopy
  with_reducible repeat' first
    | assumption
    | apply failTask_keeps
    | apply keeps_ite
    | intro _
    | fail_if_no_progress (apply keeps_same)
    | fail_if_no_progress (apply keeps_mem)
    | split
    | dsimp only
    | refine of_some (by assumption) ?_

theorem loadSets_keeps {ρ : State} {img : List Byte} {stage : Nat} {groups : List Nat} {s : State} (hK : Keeps ρ s) :
    Keeps ρ (loadSets img stage groups s) := by
  unfold loadSets
  with_reducible repeat' first
    | assumption
    | apply setUnitState_keeps
    | apply gload_keeps
    | apply keeps_ite
    | apply keeps_foldl
    | intro _
    | split
    | dsimp only

theorem placeTask_keeps {ρ : State} {j : Job} {img : List Byte} {ph : Nat} {slot : Nat} {x : Seat} {s : State} (hK : Keeps ρ s) :
    Keeps ρ (placeTask j img ph slot x s) := by
  unfold placeTask
  with_reducible repeat' first
    | assumption
    | apply setUnitOwner_keeps
    | apply noteHeld_keeps
    | apply setUnitState_keeps
    | apply takeBanks_keeps
    | apply loadLookup_keeps
    | apply loadSets_keeps
    | apply keeps_ite
    | apply keeps_foldl
    | intro _
    | refine keeps_core ?_ fun _ hk => hk
    | fail_if_no_progress (apply keeps_same)
    | fail_if_no_progress (apply keeps_mem)
    | split
    | dsimp only

theorem noteSlots_keeps {ρ : State} {s : State} (hK : Keeps ρ s) :
    Keeps ρ (noteSlots s) := by
  unfold noteSlots
  with_reducible repeat' first | assumption | apply odMax32_keeps

theorem placeAt_keeps {ρ : State} {c : Cand} {seats : List Seat} {s : State} (hK : Keeps ρ s) :
    Keeps ρ (placeAt c seats s) := by
  unfold placeAt
  with_reducible repeat' first
    | assumption
    | apply placeTask_keeps
    | apply jobMod_keeps
    | apply checkCopy_keeps
    | apply noteSlots_keeps
    | apply zonesAtPlacement_keeps
    | apply keeps_foldl
    | intro _
    | fail_if_no_progress (apply keeps_same)
    | fail_if_no_progress (apply keeps_mem)
    | dsimp only

theorem countSlotWait_keeps {ρ : State} {s : State} {w : Nat × Nat} (hK : Keeps ρ s) :
    Keeps ρ (countSlotWait s w) := by
  unfold countSlotWait
  with_reducible repeat' first
    | assumption
    | apply keeps_ite
    | apply odBump_keeps
    | apply jobMod_keeps
    | intro _
    | split

theorem execPlacePhase_keeps {ρ : State} {s : State} (hK : Keeps ρ s) :
    OutKeeps ρ (execPlacePhase s) := by
  unfold execPlacePhase
  with_reducible repeat' first
    | assumption
    | apply keeps_next
    | apply keeps_ite
    | apply placeAt_keeps
    | apply keeps_foldl
    | apply countSlotWait_keeps
    | intro _
    | split

theorem execPlaceUrgent_keeps {ρ : State} {s : State} (hK : Keeps ρ s) :
    OutKeeps ρ (execPlaceUrgent s) := by
  unfold execPlaceUrgent
  with_reducible repeat' first | assumption | apply keeps_next | fail_if_no_progress (apply keeps_same)

theorem endStall_keeps {ρ : State} {slot : Nat} {s : State} (hK : Keeps ρ s) :
    Keeps ρ (endStall slot s) := by
  unfold endStall
  with_reducible repeat' first
    | assumption
    | apply engMod_keeps
    | apply countStall_keeps
    | apply showState_keeps
    | apply keeps_ite
    | intro _
    | fail_if_no_progress (apply keeps_same)
    | fail_if_no_progress (apply keeps_mem)
    | split
    | dsimp only
    | refine of_some (by assumption) ?_

theorem streamTransfer_keeps {ρ : State} {slot : Nat} {port : Nat} {s : State} (hK : Keeps ρ s) :
    Keeps ρ (streamTransfer slot port s) := by
  unfold streamTransfer
  with_reducible repeat' first
    | assumption
    | apply keeps_stop
    | apply keeps_done
    | apply taskMod_keeps
    | apply flagsArrive_keeps
    | apply endStall_keeps
    | apply keeps_ite
    | intro _
    | fail_if_no_progress (apply keeps_same)
    | fail_if_no_progress (apply keeps_mem)
    | split
    | dsimp only
    | refine of_some (by assumption) ?_

theorem execStreamTransfer_keeps {ρ : State} {slot : Nat} {port : Nat} {s : State} (hK : Keeps ρ s) :
    OutKeeps ρ (execStreamTransfer slot port s) := by
  unfold execStreamTransfer
  with_reducible repeat' first | assumption | apply keeps_next | apply unlessHold_keeps | apply streamTransfer_keeps

theorem endOfStream_keeps {ρ : State} {slot : Nat} {port : Nat} {s : State} (hK : Keeps ρ s) :
    Keeps ρ (endOfStream slot port s) := by
  unfold endOfStream
  with_reducible repeat' first
    | assumption
    | apply taskMod_keeps
    | apply flagsArrive_keeps
    | apply keeps_ite
    | intro _
    | fail_if_no_progress (apply keeps_same)
    | fail_if_no_progress (apply keeps_mem)
    | split
    | dsimp only
    | refine of_some (by assumption) ?_

theorem execEndOfStream_keeps {ρ : State} {slot : Nat} {port : Nat} {s : State} (hK : Keeps ρ s) :
    OutKeeps ρ (execEndOfStream slot port s) := by
  unfold execEndOfStream
  with_reducible repeat' first | assumption | apply keeps_next | apply unlessHold_keeps | apply endOfStream_keeps

theorem phaseDone_keeps {ρ : State} {jid : Nat} {ph : Nat} {s : State} (hK : Keeps ρ s) :
    Keeps ρ (phaseDone jid ph s) := by
  unfold phaseDone
  with_reducible repeat' first | assumption | apply jobMod_keeps | split

theorem returnBanks_keeps {ρ : State} {t : Task} {s : State} (hK : Keeps ρ s) :
    Keeps ρ (returnBanks t s) := by
  unfold returnBanks
  with_reducible repeat' first
    | assumption
    | apply setUnitState_keeps
    | apply keeps_foldl
    | intro _
    | fail_if_no_progress (apply keeps_same)
    | fail_if_no_progress (apply keeps_mem)
    | dsimp only

theorem stageFinish_keeps {ρ : State} {slot : Nat} {s : State} (hK : Keeps ρ s) :
    Keeps ρ (stageFinish slot s) := by
  unfold stageFinish
  with_reducible repeat' first
    | assumption
    | apply taskMod_keeps
    | apply stopTask_keeps
    | apply phaseDone_keeps
    | apply keeps_ite
    | intro _
    | fail_if_no_progress (apply keeps_same)
    | fail_if_no_progress (apply keeps_mem)
    | split
    | dsimp only
    | refine of_some (by assumption) ?_

theorem execStageFinish_keeps {ρ : State} {slot : Nat} {s : State} (hK : Keeps ρ s) :
    OutKeeps ρ (execStageFinish slot s) := by
  unfold execStageFinish
  with_reducible repeat' first | assumption | apply keeps_next | apply unlessHold_keeps | apply stageFinish_keeps

theorem clearUnit_keeps {ρ : State} {u : Nat} {s : State} (hK : Keeps ρ s) :
    Keeps ρ (clearUnit u s) := by
  unfold clearUnit
  with_reducible repeat' first
    | assumption
    | apply setUnitOwner_keeps
    | apply keeps_ite
    | apply setUnitState_keeps
    | intro _

theorem releaseCore_keeps {ρ : State} {u : Nat} {s : State} (hK : Keeps ρ s) :
    Keeps ρ (releaseCore u s) := by
  unfold releaseCore
  with_reducible repeat' first
    | assumption
    | apply impreciseEntry_keeps
    | apply enter_keeps
    | apply coreMod_keeps
    | apply keeps_ite
    | intro _
    | fail_if_no_progress (apply keeps_same)
    | fail_if_no_progress (apply keeps_mem)
    | split
    | dsimp only

theorem unitReportsClear_keeps {ρ : State} {slot : Nat} {s : State} (hK : Keeps ρ s) :
    Keeps ρ (unitReportsClear slot s) := by
  unfold unitReportsClear
  with_reducible repeat' first
    | assumption
    | apply returnBanks_keeps
    | apply leaveHeld_keeps
    | apply clearUnit_keeps
    | apply odSet_keeps
    | apply releaseCore_keeps
    | apply keeps_ite
    | apply keeps_foldl
    | intro _
    | fail_if_no_progress (apply keeps_same)
    | fail_if_no_progress (apply keeps_mem)
    | split
    | dsimp only
    | refine of_some (by assumption) ?_

theorem dispatchTask_keeps {ρ : State} {slot : Nat} {s : State} (hK : Keeps ρ s) :
    Keeps ρ (dispatchTask slot s) := by
  unfold dispatchTask
  with_reducible repeat' first
    | assumption
    | apply leaveReady_keeps
    | apply kilnServes_keeps
    | apply noteBusy_keeps
    | apply taskMod_keeps
    | apply odBump_keeps
    | apply odSet_keeps
    | apply setUnitState_keeps
    | apply keeps_ite
    | intro _
    | refine keeps_core ?_ fun _ hk => hk
    | fail_if_no_progress (apply keeps_same)
    | fail_if_no_progress (apply keeps_mem)
    | split
    | dsimp only
    | refine of_some (by assumption) ?_

theorem preemptTask_keeps {ρ : State} {slot : Nat} {zsub : Nat} {s : State} (hK : Keeps ρ s) :
    Keeps ρ (preemptTask slot zsub s) := by
  unfold preemptTask
  with_reducible repeat' first
    | assumption
    | apply keeps_ite
    | apply keeps_core
    | apply odBump_keeps
    | apply taskMod_keeps
    | intro _
    | split

theorem budgetPreempt_keeps {ρ : State} {z : Nat} {s : State} (hK : Keeps ρ s) :
    Keeps ρ (budgetPreempt z s) := by
  unfold budgetPreempt
  with_reducible repeat' first | assumption | apply keeps_foldl | apply preemptTask_keeps | intro _

theorem urgentPreempt_keeps {ρ : State} {z : Nat} {u : Task} {s : State} (hK : Keeps ρ s) :
    Keeps ρ (urgentPreempt z u s) := by
  unfold urgentPreempt
  with_reducible repeat' first | assumption | apply keeps_ite | apply keeps_foldl | apply preemptTask_keeps | intro _

theorem walkReady_keeps {ρ : State} {z : Nat} {y0 : List (Nat × Task)} {y1 : State} (hK : Keeps ρ y1) :
    Keeps ρ (walkReady z y0 y1) := by
  fun_induction walkReady z y0 y1
  with_reducible repeat' first
    | assumption
    | apply dispatchTask_keeps
    | apply keeps_ite
    | intro _
    | (apply ‹∀ _, _›)
    | fail_if_no_progress (apply keeps_same)
    | fail_if_no_progress (apply keeps_mem)
    | split

theorem serveZone_keeps {ρ : State} {z : Nat} {y0 : Nat} {y1 : State} (hK : Keeps ρ y1) :
    Keeps ρ (serveZone z y0 y1) := by
  fun_induction serveZone z y0 y1
  with_reducible repeat' first
    | assumption
    | apply walkReady_keeps
    | apply dispatchTask_keeps
    | apply urgentPreempt_keeps
    | apply keeps_ite
    | intro _
    | (apply ‹∀ _, _›)
    | fail_if_no_progress (apply keeps_same)
    | fail_if_no_progress (apply keeps_mem)
    | split
    | dsimp only
    | refine of_some (by assumption) ?_

theorem zoneDispatch_keeps {ρ : State} {z : Nat} {s : State} (hK : Keeps ρ s) :
    Keeps ρ (zoneDispatch z s) := by
  unfold zoneDispatch
  with_reducible repeat' first | assumption | apply serveZone_keeps | apply keeps_ite | intro _ | split

theorem execZoneDispatch_keeps {ρ : State} {zone : Fin 16} {s : State} (hK : Keeps ρ s) :
    OutKeeps ρ (execZoneDispatch zone s) := by
  unfold execZoneDispatch
  with_reducible repeat' first | assumption | apply keeps_next | apply zoneDispatch_keeps

theorem execBudgetUrgent_keeps {ρ : State} {slot : Nat} {s : State} (hK : Keeps ρ s) :
    OutKeeps ρ (execBudgetUrgent slot s) := by
  unfold execBudgetUrgent
  with_reducible repeat' first
    | assumption
    | apply keeps_next
    | apply zoneDispatch_keeps
    | apply taskMod_keeps
    | split
    | intro _
    | fail_if_no_progress (apply keeps_same)
    | fail_if_no_progress (apply keeps_mem)
    | split
    | dsimp only
    | refine of_some (by assumption) ?_

theorem saveStopped_keeps {ρ : State} {u : Nat} {slot : Nat} {s : State} (hK : Keeps ρ s) :
    Keeps ρ (saveStopped u slot s) := by
  unfold saveStopped
  with_reducible repeat' first
    | assumption
    | apply takeImprecise_keeps
    | apply coreMod_keeps
    | apply enter_keeps
    | apply keeps_ite
    | intro _
    | fail_if_no_progress (apply keeps_same)
    | fail_if_no_progress (apply keeps_mem)
    | split
    | dsimp only

theorem becomeReady_keeps {ρ : State} {slot : Nat} {t : Task} {s : State} (hK : Keeps ρ s) :
    Keeps ρ (becomeReady slot t s) := by
  unfold becomeReady
  with_reducible repeat' first
    | assumption
    | apply saveStopped_keeps
    | apply taskMod_keeps
    | apply kilnWaits_keeps
    | apply leaveRunning_keeps
    | apply keeps_ite
    | intro _
    | fail_if_no_progress (apply keeps_same)
    | fail_if_no_progress (apply keeps_mem)
    | split
    | dsimp only

theorem taskStopped_keeps {ρ : State} {slot : Nat} {s : State} (hK : Keeps ρ s) :
    Keeps ρ (taskStopped slot s) := by
  unfold taskStopped
  with_reducible repeat' first
    | assumption
    | apply becomeReady_keeps
    | apply keeps_ite
    | intro _
    | fail_if_no_progress (apply keeps_same)
    | fail_if_no_progress (apply keeps_mem)
    | split
    | dsimp only
    | refine of_some (by assumption) ?_

theorem execTaskStopped_keeps {ρ : State} {slot : Nat} {s : State} (hK : Keeps ρ s) :
    OutKeeps ρ (execTaskStopped slot s) := by
  unfold execTaskStopped
  with_reducible repeat' first | assumption | apply keeps_next | apply taskStopped_keeps

theorem setAllowances_keeps {ρ : State} {tooLong : Bool} {s : State} (hK : Keeps ρ s) :
    Keeps ρ (setAllowances tooLong s) := by
  unfold setAllowances
  with_reducible repeat' first | assumption | apply keeps_foldl | apply odSet_keeps | intro _

theorem avsRequest_keeps {ρ : State} {want : Nat} {s : State} (hK : Keeps ρ s) :
    Keeps ρ (avsRequest want s) := by
  unfold avsRequest
  with_reducible repeat' first
    | assumption
    | apply emit_keeps
    | apply keeps_ite
    | intro _
    | fail_if_no_progress (apply keeps_same)
    | fail_if_no_progress (apply keeps_mem)
    | split
    | dsimp only

theorem governor_keeps {ρ : State} {s : State} (hK : Keeps ρ s) :
    Keeps ρ (governor s) := by
  unfold governor
  with_reducible repeat' first
    | assumption
    | apply setAllowances_keeps
    | apply avsRequest_keeps
    | apply keeps_ite
    | intro _
    | fail_if_no_progress (apply keeps_same)
    | fail_if_no_progress (apply keeps_mem)
    | split
    | dsimp only
    | refine of_some (by assumption) ?_

theorem passZone_keeps {ρ : State} {z : Nat} {s : State} (hK : Keeps ρ s) :
    Keeps ρ (passZone z s) := by
  unfold passZone
  with_reducible repeat' first
    | assumption
    | apply zoneDispatch_keeps
    | apply odBump_keeps
    | apply taskMod_keeps
    | apply keeps_ite
    | apply keeps_foldl
    | intro _
    | fail_if_no_progress (apply keeps_same)
    | fail_if_no_progress (apply keeps_mem)
    | split
    | dsimp only

theorem tickBoundary_keeps {ρ : State} {s : State} (hK : Keeps ρ s) :
    Keeps ρ (tickBoundary s) := by
  unfold tickBoundary
  with_reducible repeat' first
    | assumption
    | apply odBump_keeps
    | apply fixShares_keeps
    | apply governor_keeps
    | apply budgetPreempt_keeps
    | apply passZone_keeps
    | apply keeps_ite
    | apply keeps_foldl
    | intro _
    | fail_if_no_progress (apply keeps_same)
    | fail_if_no_progress (apply keeps_mem)
    | split
    | dsimp only

theorem execTick_keeps {ρ : State} {mfp : BitVec 8} {s : State} (hK : Keeps ρ s) :
    OutKeeps ρ (execTick mfp s) := by
  unfold execTick
  with_reducible repeat' first
    | assumption
    | apply keeps_next
    | apply tickBoundary_keeps
    | fail_if_no_progress (apply keeps_same)

theorem execAvsResponse_keeps {ρ : State} {ok : Bool} {s : State} (hK : Keeps ρ s) :
    OutKeeps ρ (execAvsResponse ok s) := by
  unfold execAvsResponse
  with_reducible repeat' first
    | assumption
    | apply keeps_next
    | apply keeps_ite
    | apply odSet_keeps
    | apply odBump_keeps
    | apply emit_keeps
    | intro _
    | fail_if_no_progress (apply keeps_same)
    | split

theorem execWait_keeps {ρ : State} {slot : Nat} {mask : BitVec 32} {all : Bool} {n : Nat} {s : State} (hK : Keeps ρ s) :
    OutKeeps ρ (execWait slot mask all n s) := by
  unfold execWait
  with_reducible repeat' first
    | assumption
    | apply keeps_next
    | apply taskMod_keeps
    | apply leaveRunning_keeps
    | split
    | intro _
    | fail_if_no_progress (apply keeps_same)
    | fail_if_no_progress (apply keeps_mem)
    | split
    | dsimp only
    | refine of_some (by assumption) ?_

theorem execSignal_keeps {ρ : State} {sender : Option Nat} {slot : Nat} {flags : BitVec 32} {s : State} (hK : Keeps ρ s) :
    OutKeeps ρ (execSignal sender slot flags s) := by
  unfold execSignal
  with_reducible repeat' first
    | assumption
    | apply keeps_next
    | apply flagsArrive_keeps
    | split
    | intro _
    | fail_if_no_progress (apply keeps_same)
    | fail_if_no_progress (apply keeps_mem)
    | split
    | dsimp only
    | refine of_some (by assumption) ?_

theorem execDelay_keeps {ρ : State} {slot : Nat} {n : Nat} {s : State} (hK : Keeps ρ s) :
    OutKeeps ρ (execDelay slot n s) := by
  unfold execDelay
  with_reducible repeat' first
    | assumption
    | apply keeps_next
    | apply keeps_ite
    | apply taskMod_keeps
    | apply leaveRunning_keeps
    | intro _
    | split

theorem execClear_keeps {ρ : State} {slot : Nat} {mask : BitVec 32} {s : State} (hK : Keeps ρ s) :
    OutKeeps ρ (execClear slot mask s) := by
  unfold execClear
  with_reducible repeat' first | assumption | apply keeps_next | apply taskMod_keeps

theorem expire_keeps {ρ : State} {slot : Nat} {r : TaskRun} {s : State} (hK : Keeps ρ s) :
    Keeps ρ (expire slot r s) := by
  unfold expire
  with_reducible repeat' first | assumption | apply keeps_ite | apply wakeTask_keeps | intro _ | split

theorem waitExpires_keeps {ρ : State} {slot : Nat} {s : State} (hK : Keeps ρ s) :
    Keeps ρ (waitExpires slot s) := by
  unfold waitExpires
  with_reducible repeat' first
    | assumption
    | apply expire_keeps
    | apply taskMod_keeps
    | apply keeps_ite
    | intro _
    | fail_if_no_progress (apply keeps_same)
    | fail_if_no_progress (apply keeps_mem)
    | split
    | dsimp only
    | refine of_some (by assumption) ?_

theorem execWaitTimeout_keeps {ρ : State} {slot : Nat} {s : State} (hK : Keeps ρ s) :
    OutKeeps ρ (execWaitTimeout slot s) := by
  unfold execWaitTimeout
  with_reducible repeat' first
    | assumption
    | apply keeps_next
    | apply unlessHold_keeps
    | apply waitExpires_keeps
    | intro _

theorem execDelayExpiry_keeps {ρ : State} {slot : Nat} {s : State} (hK : Keeps ρ s) :
    OutKeeps ρ (execDelayExpiry slot s) := by
  unfold execDelayExpiry
  with_reducible repeat' first | assumption | apply keeps_next | apply unlessHold_keeps | apply expire_keeps

/-! ### Exchange.lean -/

theorem signalPeer_keeps {ρ : State} {jid : Nat} {stage : Nat} {s : State} (hK : Keeps ρ s) :
    Keeps ρ (signalPeer jid stage s) := by
  unfold signalPeer
  with_reducible repeat' first
    | assumption
    | apply flagsArrive_keeps
    | intro _
    | fail_if_no_progress (apply keeps_same)
    | fail_if_no_progress (apply keeps_mem)
    | split
    | dsimp only
    | refine of_some (by assumption) ?_

theorem xsendMod_keeps {ρ : State} {jid : Nat} {stage : Nat} {f : XSend → XSend} {s : State} (hK : Keeps ρ s) :
    Keeps ρ (xsendMod jid stage f s) := by
  unfold xsendMod
  with_reducible repeat' first | assumption | apply netMod_keeps

theorem peerMod_keeps {ρ : State} {jid : Nat} {stage : Nat} {i : Nat} {f : TxPeer → TxPeer} {s : State} (hK : Keeps ρ s) :
    Keeps ρ (peerMod jid stage i f s) := by
  unfold peerMod
  with_reducible repeat' first | assumption | apply xsendMod_keeps

theorem sendOpen_keeps {ρ : State} {x : XSend} {p : TxPeer} {s : State} (hK : Keeps ρ s) :
    Keeps ρ (sendOpen x p s) := by
  unfold sendOpen
  with_reducible repeat' first | assumption | apply qpPost_keeps

theorem startSend_keeps {ρ : State} {slot : Nat} {t : Task} {s : State} (hK : Keeps ρ s) :
    Keeps ρ (startSend slot t s) := by
  unfold startSend
  with_reducible repeat' first
    | assumption
    | apply keeps_ite
    | apply failTask_keeps
    | apply accessFailed_keeps
    | apply devRead_keeps
    | apply keeps_foldl
    | apply engMod_keeps
    | apply netMod_keeps
    | apply sendOpen_keeps
    | intro _
    | split
    | refine of_pair (by assumption) ?_

theorem addRow_keeps {ρ : State} {t : Task} {is_ : List Nat} {bytes : List Byte} {s : State} (hK : Keeps ρ s) :
    Keeps ρ (addRow t is_ bytes s) := by
  unfold addRow
  with_reducible repeat' first | assumption | apply keeps_foldl | apply peerMod_keeps | intro _

theorem routeRows_keeps {ρ : State} {slot : Nat} {t : Task} {x : XSend} {op : List Byte} {ks : List KeySpec} {l : Layout} {y0 : List (List Elem)} {y1 : Nat} {y2 : State} (hK : Keeps ρ y2) :
    Keeps ρ (routeRows slot t x op ks l y0 y1 y2) := by
  fun_induction routeRows slot t x op ks l y0 y1 y2
  with_reducible repeat' first | assumption | apply failTask_keeps | apply addRow_keeps | (apply ‹∀ _, _›)

theorem pumpPeer_keeps {ρ : State} {t : Task} {last : Bool} {i : Nat} {y0 : Nat} {y1 : State} (hK : Keeps ρ y1) :
    Keeps ρ (pumpPeer t last i y0 y1) := by
  fun_induction pumpPeer t last i y0 y1
  with_reducible repeat' first
    | assumption
    | apply qpSend_keeps
    | apply peerMod_keeps
    | apply odBump_keeps
    | apply sendOpen_keeps
    | (apply ‹∀ _, _›)

theorem runSend_keeps {ρ : State} {slot : Nat} {t : Task} {s : State} (hK : Keeps ρ s) :
    Keeps ρ (runSend slot t s) := by
  unfold runSend
  with_reducible repeat' first
    | assumption
    | apply keeps_ite
    | apply startSend_keeps
    | apply routeRows_keeps
    | apply engMod_keeps
    | apply takeKeyed_keeps
    | apply stageDone_keeps
    | apply netMod_keeps
    | apply keeps_foldl
    | apply pumpPeer_keeps
    | intro _
    | split
    | dsimp only

theorem execExchSend_keeps {ρ : State} {slot : Nat} {s : State} (hK : Keeps ρ s) :
    OutKeeps ρ (execExchSend slot s) := by
  unfold execExchSend
  with_reducible repeat' first | assumption | apply keeps_next | apply runStage_keeps | apply runSend_keeps

theorem grantArrives_keeps {ρ : State} {qp : Nat} {m : List Byte} {s : State} (hK : Keeps ρ s) :
    Keeps ρ (grantArrives qp m s) := by
  unfold grantArrives
  with_reducible repeat' first
    | assumption
    | apply failTask_keeps
    | apply signalPeer_keeps
    | apply peerMod_keeps
    | apply jobMod_keeps
    | apply keeps_ite
    | intro _
    | fail_if_no_progress (apply keeps_same)
    | fail_if_no_progress (apply keeps_mem)
    | split
    | dsimp only
    | refine of_some (by assumption) ?_

theorem execOpenRetry_keeps {ρ : State} {slot : Nat} {peer : Nat} {s : State} (hK : Keeps ρ s) :
    OutKeeps ρ (execOpenRetry slot peer s) := by
  unfold execOpenRetry
  with_reducible repeat' first
    | assumption
    | apply keeps_next
    | apply unlessHold_keeps
    | apply keeps_ite
    | apply sendOpen_keeps
    | apply peerMod_keeps
    | intro _
    | split

theorem execOpenTimeout_keeps {ρ : State} {slot : Nat} {peer : Nat} {s : State} (hK : Keeps ρ s) :
    OutKeeps ρ (execOpenTimeout slot peer s) := by
  unfold execOpenTimeout
  with_reducible repeat' first
    | assumption
    | apply keeps_next
    | apply unlessHold_keeps
    | apply keeps_ite
    | apply failTask_keeps
    | intro _
    | split

theorem zoneMod_keeps {ρ : State} {jid : Nat} {stage : Nat} {f : Zone → Zone} {s : State} (hK : Keeps ρ s) :
    Keeps ρ (zoneMod jid stage f s) := by
  unfold zoneMod
  with_reducible repeat' first | assumption | apply netMod_keeps

theorem sendGrant_keeps {ρ : State} {z : Zone} {status : Nat} {i : Nat} {s : State} (hK : Keeps ρ s) :
    Keeps ρ (sendGrant z status i s) := by
  unfold sendGrant
  with_reducible repeat' first
    | assumption
    | apply qpPost_keeps
    | intro _
    | fail_if_no_progress (apply keeps_same)
    | fail_if_no_progress (apply keeps_mem)
    | split
    | dsimp only
    | refine of_some (by assumption) ?_

theorem regrant_keeps {ρ : State} {jid : Nat} {stage : Nat} {s : State} (hK : Keeps ρ s) :
    Keeps ρ (regrant jid stage s) := by
  unfold regrant
  with_reducible repeat' first
    | assumption
    | apply keeps_foldl
    | apply zoneMod_keeps
    | apply sendGrant_keeps
    | intro _
    | split

theorem failZoneWith_keeps {ρ : State} {z : Zone} {status : Nat} {er : ErrRec} {s : State} (hK : Keeps ρ s) :
    Keeps ρ (failZoneWith z status er s) := by
  unfold failZoneWith
  with_reducible repeat' first
    | assumption
    | apply failJob_keeps
    | apply sendGrant_keeps
    | apply keeps_foldl
    | intro _
    | fail_if_no_progress (apply keeps_same)
    | fail_if_no_progress (apply keeps_mem)
    | dsimp only

theorem failZone_keeps {ρ : State} {z : Zone} {status : Nat} {qp : Nat} {ix : Nat} {s : State} (hK : Keeps ρ s) :
    Keeps ρ (failZone z status qp ix s) := by
  unfold failZone
  with_reducible repeat' first | assumption | apply failZoneWith_keeps | intro _

theorem segmentGap_keeps {ρ : State} {z : Zone} {qp : Nat} {ix : Nat} {s : State} (hK : Keeps ρ s) :
    Keeps ρ (segmentGap z qp ix s) := by
  unfold segmentGap
  with_reducible repeat' first | assumption | apply qpPost_keeps | apply failJob_keeps | intro _ | dsimp only

theorem askedNone_keeps {ρ : State} {z : Zone} {qp : Nat} {ix : Nat} {s : State} (hK : Keeps ρ s) :
    Keeps ρ (askedNone z qp ix s) := by
  unfold askedNone
  with_reducible repeat' first
    | assumption
    | apply zoneMod_keeps
    | apply failZone_keeps
    | apply keeps_ite
    | intro _
    | fail_if_no_progress (apply keeps_same)
    | fail_if_no_progress (apply keeps_mem)
    | split
    | dsimp only
    | refine of_some (by assumption) ?_

theorem answerGrant_keeps {ρ : State} {qp : Nat} {status : Nat} {ix : Nat} {exchange : Nat} {s : State} (hK : Keeps ρ s) :
    Keeps ρ (answerGrant qp status ix exchange s) := by
  unfold answerGrant
  with_reducible repeat' first | assumption | apply qpPost_keeps

theorem openArrives_keeps {ρ : State} {qp : Nat} {n : Nat} {m : List Byte} {s : State} (hK : Keeps ρ s) :
    Keeps ρ (openArrives qp n m s) := by
  unfold openArrives
  with_reducible repeat' first
    | assumption
    | apply answerGrant_keeps
    | apply failJob_keeps
    | apply zoneMod_keeps
    | apply segmentGap_keeps
    | apply regrant_keeps
    | apply sendGrant_keeps
    | apply askedNone_keeps
    | apply keeps_ite
    | intro _
    | fail_if_no_progress (apply keeps_same)
    | fail_if_no_progress (apply keeps_mem)
    | split
    | dsimp only
    | refine of_some (by assumption) ?_

theorem endArrives_keeps {ρ : State} {qp : Nat} {n : Nat} {m : List Byte} {s : State} (hK : Keeps ρ s) :
    Keeps ρ (endArrives qp n m s) := by
  unfold endArrives
  with_reducible repeat' first
    | assumption
    | apply segmentGap_keeps
    | apply zoneMod_keeps
    | apply signalPeer_keeps
    | apply regrant_keeps
    | apply keeps_ite
    | intro _
    | fail_if_no_progress (apply keeps_same)
    | fail_if_no_progress (apply keeps_mem)
    | split
    | dsimp only
    | refine of_some (by assumption) ?_

theorem controlArrives_keeps {ρ : State} {qp : Nat} {n : Nat} {m : List Byte} {s : State} (hK : Keeps ρ s) :
    Keeps ρ ((controlArrives qp n m s).2) := by
  unfold controlArrives
  with_reducible repeat' first
    | assumption
    | apply openArrives_keeps
    | apply grantArrives_keeps
    | apply endArrives_keeps
    | split

theorem parkSegment_keeps {ρ : State} {z : Zone} {ix : Nat} {num : Nat} {addr : Nat} {reason : Nat} {level : Nat} {s : State} (hK : Keeps ρ s) :
    Keeps ρ (parkSegment z ix num addr reason level s) := by
  unfold parkSegment
  with_reducible repeat' first
    | assumption
    | apply zoneMod_keeps
    | apply parkSince_keeps
    | apply failFault_keeps
    | apply postFault_keeps
    | apply keeps_ite
    | intro _
    | fail_if_no_progress (apply keeps_same)
    | fail_if_no_progress (apply keeps_mem)
    | split
    | dsimp only
    | refine of_some (by assumption) ?_

theorem segmentFails_keeps {ρ : State} {z : Zone} {ix : Nat} {num : Nat} {f : AccFail} {s : State} (hK : Keeps ρ s) :
    Keeps ρ ((segmentFails z ix num f s).2) := by
  unfold segmentFails
  with_reducible repeat' first
    | assumption
    | apply parkSegment_keeps
    | apply noteViolation_keeps
    | apply failZoneWith_keeps
    | intro _
    | fail_if_no_progress (apply keeps_same)
    | fail_if_no_progress (apply keeps_mem)
    | split
    | dsimp only
    | refine of_did (by assumption) ?_
    | refine of_ok (by assumption) ?_

theorem staleSegment_keeps {ρ : State} {qp : Nat} {n : Nat} {key : Nat} {imm : Nat} {s : State} (hK : Keeps ρ s) :
    Keeps ρ ((staleSegment qp n key imm s).2) := by
  unfold staleSegment
  with_reducible repeat' first
    | assumption
    | apply segmentGap_keeps
    | apply keeps_ite
    | intro _
    | fail_if_no_progress (apply keeps_same)
    | fail_if_no_progress (apply keeps_mem)
    | split
    | dsimp only
    | refine of_did (by assumption) ?_
    | refine of_ok (by assumption) ?_
    | refine of_some (by assumption) ?_

theorem segmentArrives_keeps {ρ : State} {qp : Nat} {z : Zone} {address : Nat} {data : List Byte} {imm : Nat} {s : State} (hK : Keeps ρ s) :
    Keeps ρ ((segmentArrives qp z address data imm s).2) := by
  unfold segmentArrives
  with_reducible repeat' first
    | assumption
    | apply segmentGap_keeps
    | apply odBump_keeps
    | apply sendGrant_keeps
    | apply devWriteWhole_keeps
    | apply segmentFails_keeps
    | apply zoneMod_keeps
    | apply signalPeer_keeps
    | apply regrant_keeps
    | apply keeps_ite
    | intro _
    | fail_if_no_progress (apply keeps_same)
    | fail_if_no_progress (apply keeps_mem)
    | split
    | dsimp only
    | refine of_pair (by assumption) ?_
    | refine of_did (by assumption) ?_
    | refine of_ok (by assumption) ?_
    | refine of_some (by assumption) ?_

theorem emitLanded_keeps {ρ : State} {slot : Nat} {t : Task} {z : Zone} {x : Landed} {s : State} (hK : Keeps ρ s) :
    Keeps ρ (emitLanded slot t z x s) := by
  unfold emitLanded
  with_reducible repeat' first
    | assumption
    | apply devRead_keeps
    | apply accessFailed_keeps
    | apply emitElems_keeps
    | apply engMod_keeps
    | intro _
    | fail_if_no_progress (apply keeps_same)
    | fail_if_no_progress (apply keeps_mem)
    | split
    | dsimp only
    | refine of_pair (by assumption) ?_
    | refine of_did (by assumption) ?_
    | refine of_ok (by assumption) ?_
    | refine of_some (by assumption) ?_
    | refine of_threw (by assumption) ?_

theorem freeLanded_keeps {ρ : State} {slot : Nat} {t : Task} {s : State} (hK : Keeps ρ s) :
    Keeps ρ (freeLanded slot t s) := by
  unfold freeLanded
  with_reducible repeat' first
    | assumption
    | apply zoneMod_keeps
    | apply regrant_keeps
    | apply engMod_keeps
    | intro _
    | fail_if_no_progress (apply keeps_same)
    | fail_if_no_progress (apply keeps_mem)
    | split
    | dsimp only

theorem closeZone_keeps {ρ : State} {z : Zone} {status : Nat} {s : State} (hK : Keeps ρ s) :
    Keeps ρ (closeZone z status s) := by
  unfold closeZone
  with_reducible repeat' first | assumption | apply netMod_keeps | apply dropRegion_keeps

theorem runRecv_keeps {ρ : State} {slot : Nat} {t : Task} {s : State} (hK : Keeps ρ s) :
    Keeps ρ (runRecv slot t s) := by
  unfold runRecv
  with_reducible repeat' first
    | assumption
    | apply freeLanded_keeps
    | apply engMod_keeps
    | apply zoneMod_keeps
    | apply emitLanded_keeps
    | apply stageDone_keeps
    | apply closeZone_keeps
    | apply keeps_ite
    | intro _
    | fail_if_no_progress (apply keeps_same)
    | fail_if_no_progress (apply keeps_mem)
    | split
    | dsimp only
    | refine of_some (by assumption) ?_

theorem execExchRecv_keeps {ρ : State} {slot : Nat} {s : State} (hK : Keeps ρ s) :
    OutKeeps ρ (execExchRecv slot s) := by
  unfold execExchRecv
  with_reducible repeat' first | assumption | apply keeps_next | apply runStage_keeps | apply runRecv_keeps

theorem remoteWrite_keeps {ρ : State} {slot : Nat} {t : Task} {k : Nat} {v : List Byte} {s : State} (hK : Keeps ρ s) :
    Keeps ρ (remoteWrite slot t k v s) := by
  unfold remoteWrite
  with_reducible repeat' first
    | assumption
    | apply keeps_ite
    | apply engMod_keeps
    | apply qpSend_keeps
    | intro _
    | split

theorem runSinkRemote_keeps {ρ : State} {slot : Nat} {t : Task} {s : State} (hK : Keeps ρ s) :
    Keeps ρ (runSinkRemote slot t s) := by
  unfold runSinkRemote
  with_reducible repeat' first
    | assumption
    | apply engMod_keeps
    | apply failTask_keeps
    | apply dropPort_keeps
    | apply remoteWrite_keeps
    | apply stageDone_keeps
    | apply keeps_ite
    | apply keeps_foldl
    | intro _
    | fail_if_no_progress (apply keeps_same)
    | fail_if_no_progress (apply keeps_mem)
    | split
    | dsimp only
    | refine of_some (by assumption) ?_

theorem execSinkRemote_keeps {ρ : State} {slot : Nat} {s : State} (hK : Keeps ρ s) :
    OutKeeps ρ (execSinkRemote slot s) := by
  unfold execSinkRemote
  with_reducible repeat' first | assumption | apply keeps_next | apply runStage_keeps | apply runSinkRemote_keeps

theorem txDone_keeps {ρ : State} {m : TxMsg} {s : State} (hK : Keeps ρ s) :
    Keeps ρ (txDone m s) := by
  unfold txDone
  with_reducible repeat' first
    | assumption
    | apply flagsArrive_keeps
    | apply engMod_keeps
    | apply jobMod_keeps
    | apply signalPeer_keeps
    | apply peerMod_keeps
    | intro _
    | fail_if_no_progress (apply keeps_same)
    | fail_if_no_progress (apply keeps_mem)
    | split
    | dsimp only
    | refine of_some (by assumption) ?_

/-! ### Queues.lean -/

theorem discardDoorbell_keeps {ρ : State} {s : State} (hK : Keeps ρ s) :
    Keeps ρ (discardDoorbell s) := by
  unfold discardDoorbell
  with_reducible repeat' first | assumption | apply odBump_keeps

theorem doorbell_keeps {ρ : State} {link : Nat} {n : Nat} {off : Nat} {size : Nat} {value : Nat} {act : Nat → State → State} {s : State} (hF : ∀ a0 a1, Keeps ρ a1 → Keeps ρ (act a0 a1)) (hK : Keeps ρ s) :
    Keeps ρ (doorbell link n off size value act s) := by
  unfold doorbell
  with_reducible repeat' first
    | assumption
    | apply hF
    | apply discardDoorbell_keeps
    | apply keeps_ite
    | intro _
    | split
    | dsimp only

theorem keepDoorbell_keeps {ρ : State} {n : Nat} {off : Nat} {v : Nat} {s : State} (hK : Keeps ρ s) :
    Keeps ρ (keepDoorbell n off v s) := by
  unfold keepDoorbell
  with_reducible repeat' first | assumption | apply instMod_keeps

theorem tailWrite_keeps {ρ : State} {n : Nat} {q : Nat} {v : Nat} {s : State} (hK : Keeps ρ s) :
    Keeps ρ (tailWrite n q v s) := by
  unfold tailWrite
  with_reducible repeat' first
    | assumption
    | apply discardDoorbell_keeps
    | apply keeps_ite
    | apply keepDoorbell_keeps
    | apply sqMod_keeps
    | intro _
    | split

theorem hostStores_keeps {r : State} {link : Nat} {ws : List (Nat × List Byte)} {s : State} (h : Keeps r s) :
    Keeps r (hostStores link ws s) := by
  unfold hostStores
  refine hostMod_keeps h fun x hx => ?_
  show memWf (ws.foldl (fun m w => memPut m w.1 w.2) x.mem) = true
  generalize x.mem = m at hx
  induction ws generalizing m with
  | nil => exact hx
  | cons w ws ih => exact ih _ (memPut_wf _ _ _ hx)

theorem execSqTailWrite_keeps {ρ : State} {link : Link} {inst : Inst} {q : Fin 16} {size : Nat} {value : Nat} {stored : List (Nat × List Byte)} {s : State} (hK : Keeps ρ s) :
    OutKeeps ρ (execSqTailWrite link inst q size value stored s) := by
  unfold execSqTailWrite
  with_reducible repeat' first
    | assumption
    | apply keeps_next
    | apply doorbell_keeps
    | apply tailWrite_keeps
    | apply hostStores_keeps

theorem cqHeadWrite_keeps {ρ : State} {n : Nat} {c : Nat} {v : Nat} {s : State} (hK : Keeps ρ s) :
    Keeps ρ (cqHeadWrite n c v s) := by
  unfold cqHeadWrite
  with_reducible repeat' first
    | assumption
    | apply discardDoorbell_keeps
    | apply step_keeps
    | apply keepDoorbell_keeps
    | apply cqMod_keeps
    | apply instMod_keeps
    | apply mirror_keeps
    | apply keeps_ite
    | intro _
    | fail_if_no_progress (apply keeps_same)
    | fail_if_no_progress (apply keeps_mem)
    | split
    | dsimp only
    | refine of_some (by assumption) ?_

theorem execCqHeadWrite_keeps {ρ : State} {link : Link} {inst : Inst} {q : Fin 16} {size : Nat} {value : Nat} {s : State} (hK : Keeps ρ s) :
    OutKeeps ρ (execCqHeadWrite link inst q size value s) := by
  unfold execCqHeadWrite
  with_reducible repeat' first | assumption | apply keeps_next | apply doorbell_keeps | apply cqHeadWrite_keeps

theorem drainFaults_keeps {ρ : State} {n : Nat} {y0 : Nat} {y1 : State} (hK : Keeps ρ y1) :
    Keeps ρ (drainFaults n y0 y1) := by
  fun_induction drainFaults n y0 y1
  with_reducible repeat' first | assumption | apply writeFault_keeps | apply instMod_keeps | (apply ‹∀ _, _›)

theorem faultHead_keeps {ρ : State} {n : Nat} {v : Nat} {s : State} (hK : Keeps ρ s) :
    Keeps ρ (faultHead n v s) := by
  unfold faultHead
  with_reducible repeat' first
    | assumption
    | apply keeps_ite
    | apply discardDoorbell_keeps
    | apply drainFaults_keeps
    | apply keepDoorbell_keeps
    | apply instMod_keeps
    | intro _

theorem execFaultHeadWrite_keeps {ρ : State} {link : Link} {inst : Inst} {size : Nat} {value : Nat} {s : State} (hK : Keeps ρ s) :
    OutKeeps ρ (execFaultHeadWrite link inst size value s) := by
  unfold execFaultHeadWrite
  with_reducible repeat' first | assumption | apply keeps_next | apply doorbell_keeps | apply faultHead_keeps

theorem failParked_keeps {ρ : State} {jid : Nat} {p : Parked} {s : State} (hK : Keeps ρ s) :
    Keeps ρ (failParked jid p s) := by
  unfold failParked
  with_reducible repeat' first | assumption | apply failJob_keeps | intro _

theorem resolve_keeps {ρ : State} {jid : Nat} {unit : Nat} {v : Nat} {p : Parked} {retry : State → State} {s : State} (hF : ∀ a0, Keeps ρ a0 → Keeps ρ (retry a0)) (hK : Keeps ρ s) :
    Keeps ρ (resolve jid unit v p retry s) := by
  unfold resolve
  with_reducible repeat' first
    | assumption
    | apply hF
    | apply odBump_keeps
    | apply failParked_keeps
    | apply keeps_ite
    | intro _
    | split
    | dsimp only

theorem timeOut_keeps {ρ : State} {jid : Nat} {p : Parked} {s : State} (hK : Keeps ρ s) :
    Keeps ρ (timeOut jid p s) := by
  unfold timeOut
  with_reducible repeat' first
    | assumption
    | apply failParked_keeps
    | apply odBump_keeps
    | intro _
    | fail_if_no_progress (apply keeps_same)
    | fail_if_no_progress (apply keeps_mem)
    | dsimp only

theorem faultResolve_keeps {ρ : State} {n : Nat} {v : Nat} {s : State} (hK : Keeps ρ s) :
    Keeps ρ (faultResolve n v s) := by
  unfold faultResolve
  with_reducible repeat' first
    | assumption
    | apply odBump_keeps
    | apply resolve_keeps
    | apply setFlags_keeps
    | apply taskMod_keeps
    | apply zoneMod_keeps
    | intro _
    | fail_if_no_progress (apply keeps_same)
    | fail_if_no_progress (apply keeps_mem)
    | split
    | dsimp only
    | refine of_some (by assumption) ?_

theorem execFaultRetry_keeps {ρ : State} {link : Link} {inst : Inst} {size : Nat} {value : Nat} {s : State} (hK : Keeps ρ s) :
    OutKeeps ρ (execFaultRetry link inst size value s) := by
  unfold execFaultRetry
  with_reducible repeat' first | assumption | apply keeps_next | apply doorbell_keeps | apply faultResolve_keeps

theorem execFaultFail_keeps {ρ : State} {link : Link} {inst : Inst} {size : Nat} {value : Nat} {s : State} (hK : Keeps ρ s) :
    OutKeeps ρ (execFaultFail link inst size value s) := by
  unfold execFaultFail
  with_reducible repeat' first | assumption | apply keeps_next | apply doorbell_keeps | apply faultResolve_keeps

theorem execFaultTimeout_keeps {ρ : State} {slot : Nat} {s : State} (hK : Keeps ρ s) :
    OutKeeps ρ (execFaultTimeout slot s) := by
  unfold execFaultTimeout
  with_reducible repeat' first
    | assumption
    | apply keeps_next
    | apply unlessHold_keeps
    | apply timeOut_keeps
    | split
    | intro _
    | fail_if_no_progress (apply keeps_same)
    | fail_if_no_progress (apply keeps_mem)
    | split
    | dsimp only
    | refine of_some (by assumption) ?_

theorem runCmd_keeps {ρ : State} {link : Nat} {n : Nat} {op : Nat} {cmd : List Byte} {again : Nat} {fields : List (Nat × Nat)} {act : List Byte → State → (Nat × List Byte) × State} {s : State} (hF : ∀ a0 a1, Keeps ρ a1 → Keeps ρ ((act a0 a1).2)) (hK : Keeps ρ s) :
    Keeps ρ (runCmd link n op cmd again fields act s) := by
  unfold runCmd
  with_reducible repeat' first
    | assumption
    | apply hF
    | apply odAdd_keeps
    | apply instMod_keeps
    | apply keeps_ite
    | intro _
    | fail_if_no_progress (apply keeps_same)
    | fail_if_no_progress (apply keeps_mem)
    | split
    | dsimp only
    | refine of_pair (by assumption) ?_

theorem createCq_keeps {ρ : State} {n : Nat} {c : List Byte} {s : State} (hK : Keeps ρ s) :
    Keeps ρ ((createCq n c s).2) := by
  unfold createCq
  with_reducible repeat' first
    | assumption
    | apply instMod_keeps
    | apply mirror_keeps
    | apply keeps_ite
    | intro _
    | fail_if_no_progress (apply keeps_same)
    | fail_if_no_progress (apply keeps_mem)
    | split
    | dsimp only

theorem execCreateCq_keeps {ρ : State} {link : Link} {inst : Inst} {cmd : CmdRun} {s : State} (hK : Keeps ρ s) :
    OutKeeps ρ (execCreateCq link inst cmd s) := by
  unfold execCreateCq
  with_reducible repeat' first | assumption | apply keeps_next | apply runCmd_keeps | apply createCq_keeps | intro _

theorem createSq_keeps {ρ : State} {n : Nat} {c : List Byte} {s : State} (hK : Keeps ρ s) :
    Keeps ρ ((createSq n c s).2) := by
  unfold createSq
  with_reducible repeat' first | assumption | apply mirror_keeps | apply instMod_keeps | split | dsimp only

theorem execCreateSq_keeps {ρ : State} {link : Link} {inst : Inst} {cmd : CmdRun} {s : State} (hK : Keeps ρ s) :
    OutKeeps ρ (execCreateSq link inst cmd s) := by
  unfold execCreateSq
  with_reducible repeat' first | assumption | apply keeps_next | apply runCmd_keeps | apply createSq_keeps | intro _

theorem dropSqJobs_keeps {ρ : State} {n : Nat} {q : Nat} {s : State} (hK : Keeps ρ s) :
    Keeps ρ (dropSqJobs n q s) := by
  unfold dropSqJobs
  with_reducible repeat' first
    | assumption
    | apply keeps_retire
    | apply keeps_jump
    | apply keeps_trap
    | apply keeps_wait
    | apply freeEntry_keeps
    | apply mirror_keeps
    | apply keeps_foldl
    | intro _
    | apply keeps_ite_end

theorem deleteSq_keeps {ρ : State} {n : Nat} {c : List Byte} {s : State} (hK : Keeps ρ s) :
    Keeps ρ ((deleteSq n c s).2) := by
  unfold deleteSq
  with_reducible repeat' first
    | assumption
    | apply instMod_keeps
    | apply dropSqJobs_keeps
    | apply mirror_keeps
    | apply keeps_ite
    | intro _
    | fail_if_no_progress (apply keeps_same)
    | fail_if_no_progress (apply keeps_mem)
    | split
    | dsimp only

theorem execDeleteSq_keeps {ρ : State} {link : Link} {inst : Inst} {cmd : CmdRun} {s : State} (hK : Keeps ρ s) :
    OutKeeps ρ (execDeleteSq link inst cmd s) := by
  unfold execDeleteSq
  with_reducible repeat' first | assumption | apply keeps_next | apply runCmd_keeps | apply deleteSq_keeps | intro _

theorem deleteCq_keeps {ρ : State} {n : Nat} {c : List Byte} {s : State} (hK : Keeps ρ s) :
    Keeps ρ ((deleteCq n c s).2) := by
  unfold deleteCq
  with_reducible repeat' first
    | assumption
    | apply instMod_keeps
    | apply mirror_keeps
    | apply keeps_ite
    | intro _
    | fail_if_no_progress (apply keeps_same)
    | fail_if_no_progress (apply keeps_mem)
    | split
    | dsimp only

theorem execDeleteCq_keeps {ρ : State} {link : Link} {inst : Inst} {cmd : CmdRun} {s : State} (hK : Keeps ρ s) :
    OutKeeps ρ (execDeleteCq link inst cmd s) := by
  unfold execDeleteCq
  with_reducible repeat' first | assumption | apply keeps_next | apply runCmd_keeps | apply deleteCq_keeps | intro _

theorem queryQueue_keeps {ρ : State} {n : Nat} {c : List Byte} {s : State} (hK : Keeps ρ s) :
    Keeps ρ ((queryQueue n c s).2) := by
  unfold queryQueue
  with_reducible repeat' first | assumption | split | dsimp only

theorem execQuery_keeps {ρ : State} {link : Link} {inst : Inst} {cmd : CmdRun} {s : State} (hK : Keeps ρ s) :
    OutKeeps ρ (execQuery link inst cmd s) := by
  unfold execQuery
  with_reducible repeat' first | assumption | apply keeps_next | apply runCmd_keeps | apply queryQueue_keeps | intro _

/-! ### Instances.lean -/

theorem setInstSt_keeps {ρ : State} {n : Nat} {st : Nat} {s : State} (hK : Keeps ρ s) :
    Keeps ρ (setInstSt n st s) := by
  unfold setInstSt
  with_reducible repeat' first | assumption | apply mirror_keeps | apply odSet_keeps

theorem createInst_keeps {ρ : State} {n : Nat} {s : State} (hK : Keeps ρ s) :
    ExKeeps (Keeps ρ) (createInst n s) := by
  unfold createInst
  with_reducible repeat' first
    | assumption
    | apply keeps_ite_ex
    | apply keeps_error
    | apply keeps_ok
    | apply setInstSt_keeps
    | apply instMod_keeps
    | apply odSet_keeps
    | apply keeps_foldl
    | intro _

theorem dropUnaccepted_keeps {ρ : State} {n : Nat} {s : State} (hK : Keeps ρ s) :
    Keeps ρ (dropUnaccepted n s) := by
  unfold dropUnaccepted
  with_reducible repeat' first
    | assumption
    | apply instMod_keeps
    | apply keeps_foldl
    | apply freeEntry_keeps
    | apply sqMod_keeps
    | apply mirror_keeps
    | intro _

theorem beginReset_keeps {ρ : State} {n : Nat} {cause : Nat} {st : Nat} {s : State} (hK : Keeps ρ s) :
    Keeps ρ (beginReset n cause st s) := by
  unfold beginReset
  with_reducible repeat' first
    | assumption
    | apply setInstSt_keeps
    | apply keeps_foldl
    | apply revokeNet_keeps
    | apply keeps_ite
    | apply instMod_keeps
    | apply odAdd_keeps
    | apply dropUnaccepted_keeps
    | apply odSet_keeps
    | apply stopTask_keeps
    | intro _
    | fail_if_no_progress (apply keeps_same)
    | fail_if_no_progress (apply keeps_mem)

theorem writeReport_keeps {ρ : State} {n : Nat} {r : List Byte} {s : State} (hK : Keeps ρ s) :
    Keeps ρ ((writeReport n r s).2) := by
  unfold writeReport
  with_reducible repeat' first
    | assumption
    | apply devWriteWhole_keeps
    | apply noteViolation_keeps
    | apply instMod_keeps
    | apply sendMsix_keeps
    | apply keeps_ite
    | intro _
    | fail_if_no_progress (apply keeps_same)
    | fail_if_no_progress (apply keeps_mem)
    | split
    | dsimp only
    | refine of_pair (by assumption) ?_

theorem holdRecord_keeps {ρ : State} {n : Nat} {r : List Byte} {s : State} (hK : Keeps ρ s) :
    Keeps ρ (holdRecord n r s) := by
  unfold holdRecord
  with_reducible repeat' first
    | assumption
    | apply instMod_keeps
    | apply odBump_keeps
    | apply keeps_ite
    | intro _
    | fail_if_no_progress (apply keeps_same)
    | fail_if_no_progress (apply keeps_mem)
    | split
    | dsimp only
    | refine of_some (by assumption) ?_

theorem reportOne_keeps {ρ : State} {n : Nat} {r : List Byte} {s : State} (hK : Keeps ρ s) :
    Keeps ρ (reportOne n r s) := by
  unfold reportOne
  with_reducible repeat' first
    | assumption
    | apply holdRecord_keeps
    | apply writeReport_keeps
    | apply keeps_ite
    | intro _
    | fail_if_no_progress (apply keeps_same)
    | fail_if_no_progress (apply keeps_mem)
    | split
    | dsimp only
    | refine of_pair (by assumption) ?_

theorem drainReports_keeps {ρ : State} {n : Nat} {y0 : List (List Byte)} {y1 : State} (hK : Keeps ρ y1) :
    Keeps ρ (drainReports n y0 y1) := by
  fun_induction drainReports n y0 y1
  with_reducible repeat' first
    | assumption
    | apply instMod_keeps
    | apply writeReport_keeps
    | (apply ‹∀ _, _›)
    | refine of_pair (by assumption) ?_

theorem retireListed_keeps {ρ : State} {n : Nat} {s : State} (hK : Keeps ρ s) :
    Keeps ρ (retireListed n s) := by
  unfold retireListed
  with_reducible repeat' first | assumption | apply keeps_foldl | apply freeEntry_keeps | apply mirror_keeps | intro _

theorem deleteQueues_keeps {ρ : State} {n : Nat} {s : State} (hK : Keeps ρ s) :
    Keeps ρ (deleteQueues n s) := by
  unfold deleteQueues
  with_reducible repeat' first
    | assumption
    | apply mirror_keeps
    | apply instMod_keeps
    | apply keeps_foldl
    | intro _
    | dsimp only

theorem releaseTimers_keeps {ρ : State} {n : Nat} {s : State} (hK : Keeps ρ s) :
    Keeps ρ (releaseTimers n s) := by
  unfold releaseTimers
  with_reducible repeat' first
    | assumption
    | apply keeps_foldl
    | apply keeps_ite
    | apply odSet_keeps
    | intro _
    | fail_if_no_progress (apply keeps_same)

theorem reportReset_keeps {ρ : State} {n : Nat} {s : State} (hK : Keeps ρ s) :
    Keeps ρ (reportReset n s) := by
  unfold reportReset
  with_reducible repeat' first
    | assumption
    | apply retireListed_keeps
    | apply reportOne_keeps
    | apply keeps_foldl
    | intro _
    | fail_if_no_progress (apply keeps_same)
    | fail_if_no_progress (apply keeps_mem)
    | dsimp only

theorem resetQueues_keeps {ρ : State} {n : Nat} {cause : Nat} {s : State} (hK : Keeps ρ s) :
    Keeps ρ (resetQueues n cause s) := by
  unfold resetQueues
  with_reducible repeat' first
    | assumption
    | apply dropUnaccepted_keeps
    | apply instMod_keeps
    | apply stopTask_keeps
    | apply deleteQueues_keeps
    | apply reportReset_keeps
    | apply keeps_foldl
    | intro _
    | fail_if_no_progress (apply keeps_same)
    | fail_if_no_progress (apply keeps_mem)
    | dsimp only

theorem endReset_keeps {ρ : State} {n : Nat} {st : Nat} {s : State} (hK : Keeps ρ s) :
    Keeps ρ (endReset n st s) := by
  unfold endReset
  with_reducible repeat' first
    | assumption
    | apply reportReset_keeps
    | apply odSet_keeps
    | apply deleteNet_keeps
    | apply deleteQueues_keeps
    | apply releaseTimers_keeps
    | apply setInstSt_keeps
    | apply odBump_keeps
    | apply keeps_ite
    | intro _
    | split
    | dsimp only

theorem resetInst_keeps {ρ : State} {n : Nat} {cause : Nat} {s : State} (hK : Keeps ρ s) :
    Keeps ρ (resetInst n cause s) := by
  unfold resetInst
  with_reducible repeat' first
    | assumption
    | apply keeps_ite
    | apply endReset_keeps
    | apply beginReset_keeps
    | intro _

theorem controlReset_keeps {ρ : State} {n : Nat} {s : State} (hK : Keeps ρ s) :
    ExKeeps (Keeps ρ) (controlReset n s) := by
  unfold controlReset
  with_reducible repeat' first
    | assumption
    | apply keeps_ite_ex
    | apply keeps_error
    | apply keeps_ok
    | apply resetInst_keeps
    | intro _

theorem destroyInst_keeps {ρ : State} {n : Nat} {s : State} (hK : Keeps ρ s) :
    ExKeeps (Keeps ρ) (destroyInst n s) := by
  unfold destroyInst
  with_reducible repeat' first
    | assumption
    | apply keeps_ite_ex
    | apply keeps_error
    | apply keeps_ok
    | apply beginReset_keeps
    | intro _

theorem resetComplete_keeps {ρ : State} {n : Nat} {s : State} (hK : Keeps ρ s) :
    Keeps ρ (resetComplete n s) := by
  unfold resetComplete
  with_reducible repeat' first | assumption | apply keeps_ite | apply endReset_keeps | intro _

theorem writeRrHead_keeps {ρ : State} {n : Nat} {v : Nat} {s : State} (hK : Keeps ρ s) :
    ExKeeps (Keeps ρ) (writeRrHead n v s) := by
  unfold writeRrHead
  with_reducible repeat' first
    | assumption
    | apply keeps_ite_ex
    | apply keeps_error
    | apply keeps_ok
    | apply drainReports_keeps
    | apply odSet_keeps
    | apply instMod_keeps
    | intro _

theorem settleFreeze_keeps {ρ : State} {n : Nat} {s : State} (hK : Keeps ρ s) :
    Keeps ρ (settleFreeze n s) := by
  unfold settleFreeze
  with_reducible repeat' first | assumption | apply keeps_ite | apply instMod_keeps | apply setInstSt_keeps | intro _

theorem freezeInst_keeps {ρ : State} {n : Nat} {s : State} (hK : Keeps ρ s) :
    Keeps ρ (freezeInst n s) := by
  unfold freezeInst
  with_reducible repeat' first | assumption | apply settleFreeze_keeps | apply instMod_keeps | apply setInstSt_keeps

theorem controlFreeze_keeps {ρ : State} {n : Nat} {s : State} (hK : Keeps ρ s) :
    ExKeeps (Keeps ρ) (controlFreeze n s) := by
  unfold controlFreeze
  with_reducible repeat' first
    | assumption
    | apply keeps_ite_ex
    | apply keeps_error
    | apply keeps_ok
    | apply freezeInst_keeps
    | intro _

theorem resumeInst_keeps {ρ : State} {n : Nat} {s : State} (hK : Keeps ρ s) :
    Keeps ρ (resumeInst n s) := by
  unfold resumeInst
  with_reducible repeat' first
    | assumption
    | apply setInstSt_keeps
    | apply instMod_keeps
    | fail_if_no_progress (apply keeps_same)

theorem controlResume_keeps {ρ : State} {n : Nat} {s : State} (hK : Keeps ρ s) :
    ExKeeps (Keeps ρ) (controlResume n s) := by
  unfold controlResume
  with_reducible repeat' first
    | assumption
    | apply keeps_ite_ex
    | apply keeps_error
    | apply keeps_ok
    | apply resumeInst_keeps
    | intro _

theorem freezeExpires_keeps {ρ : State} {n : Nat} {s : State} (hK : Keeps ρ s) :
    Keeps ρ (freezeExpires n s) := by
  unfold freezeExpires
  with_reducible repeat' first | assumption | apply keeps_ite | apply setInstSt_keeps | apply odBump_keeps | intro _

theorem restoreJob_keeps {ρ : State} {n : Nat} {gen : Nat} {j : Job} {s : State} (hK : Keeps ρ s) :
    Keeps ρ (restoreJob n gen j s) := by
  unfold restoreJob
  with_reducible repeat' first
    | assumption
    | apply sendEntry_keeps
    | apply keeps_ite
    | intro _
    | fail_if_no_progress (apply keeps_same)
    | fail_if_no_progress (apply keeps_mem)
    | split
    | dsimp only
    | refine of_some (by assumption) ?_

theorem restoreInst_keeps {ρ : State} {n : Nat} {s : State} (hK : Keeps ρ s) :
    ExKeeps (Keeps ρ) (restoreInst n s) := by
  unfold restoreInst
  with_reducible repeat' first
    | assumption
    | apply keeps_ite_ex
    | apply keeps_error
    | apply keeps_ok
    | apply instMod_keeps
    | apply setInstSt_keeps
    | apply keeps_foldl
    | apply odSet_keeps
    | apply mirror_keeps
    | apply restoreJob_keeps
    | intro _
    | split

theorem writeLogControl_keeps {ρ : State} {n : Nat} {v : Nat} {s : State} (hK : Keeps ρ s) :
    ExKeeps (Keeps ρ) (writeLogControl n v s) := by
  unfold writeLogControl
  with_reducible repeat' first
    | assumption
    | exact keeps_error
    | apply keeps_ok
    | apply instMod_keeps
    | apply odSet_keeps
    | apply keeps_ite_ex
    | intro _
    | fail_if_no_progress (apply keeps_same)
    | fail_if_no_progress (apply keeps_mem)
    | split
    | dsimp only
    | refine of_did (by assumption) ?_
    | refine of_threw (by assumption) ?_

theorem execLogSwitchDone_keeps {ρ : State} {inst : Inst} {s : State} (hK : Keeps ρ s) :
    OutKeeps ρ (execLogSwitchDone inst s) := by
  unfold execLogSwitchDone
  with_reducible repeat' first
    | assumption
    | apply keeps_next
    | apply unlessHold_keeps
    | apply odBump_keeps
    | apply instMod_keeps
    | split
    | intro _
    | fail_if_no_progress (apply keeps_same)
    | fail_if_no_progress (apply keeps_mem)
    | split

theorem resetLink_keeps {ρ : State} {link : Nat} {s : State} (hK : Keeps ρ s) :
    Keeps ρ (resetLink link s) := by
  unfold resetLink
  with_reducible repeat' first | assumption | apply keeps_foldl | apply resetInst_keeps | intro _

end Sys2Proof.Machine
end

