-- ==== Sys2Proof/Laws/KeepsNet.lean ====
section
/-! SUPPORT. Every operation keeps the queue and the soundness of the state: the network, DRAM, the CACHE instruction and power. -/

namespace Sys2Proof.Machine

/-! ### Network.lean -/

theorem submitArrives_keeps {ρ : State} {k : Nat} {q : QP} {payload : List Byte} {s : State} (hK : Keeps ρ s) :
    Keeps ρ ((submitArrives k q payload s).2) := by
  unfold submitArrives
  with_reducible repeat' first
    | assumption
    | apply devWrite_keeps
    | apply sqMod_keeps
    | apply noteViolation_keeps
    | apply keeps_ite
    | intro _
    | fail_if_no_progress (apply keeps_same)
    | fail_if_no_progress (apply keeps_mem)
    | split
    | dsimp only
    | refine of_pair (by assumption) ?_
    | refine of_did (by assumption) ?_
    | refine of_ok (by assumption) ?_
    | refine of_some (by assumption) ?_

theorem rxSend_keeps {ρ : State} {k : Nat} {payload : List Byte} {s : State} (hK : Keeps ρ s) :
    Keeps ρ ((rxSend k payload s).2) := by
  unfold rxSend
  with_reducible repeat' first | assumption | apply controlArrives_keeps | apply submitArrives_keeps | split

theorem rxWrite_keeps {ρ : State} {k : Nat} {key : Nat} {address : Nat} {data : List Byte} {s : State} (hK : Keeps ρ s) :
    Keeps ρ ((rxWrite k key address data s).2) := by
  unfold rxWrite
  with_reducible repeat' first
    | assumption
    | apply devWriteWhole_keeps
    | apply noteViolation_keeps
    | apply keeps_ite
    | intro _
    | fail_if_no_progress (apply keeps_same)
    | fail_if_no_progress (apply keeps_mem)
    | split
    | dsimp only
    | refine of_pair (by assumption) ?_
    | refine of_did (by assumption) ?_
    | refine of_ok (by assumption) ?_
    | refine of_some (by assumption) ?_

theorem rxWriteImm_keeps {ρ : State} {k : Nat} {key : Nat} {address : Nat} {data : List Byte} {imm : Nat} {s : State} (hK : Keeps ρ s) :
    Keeps ρ ((rxWriteImm k key address data imm s).2) := by
  unfold rxWriteImm
  with_reducible repeat' first
    | assumption
    | apply staleSegment_keeps
    | apply segmentArrives_keeps
    | apply keeps_ite
    | intro _
    | fail_if_no_progress (apply keeps_same)
    | fail_if_no_progress (apply keeps_mem)
    | split
    | dsimp only
    | refine of_pair (by assumption) ?_
    | refine of_some (by assumption) ?_

theorem rxRead_keeps {ρ : State} {k : Nat} {key : Nat} {address : Nat} {len : Nat} {s : State} (hK : Keeps ρ s) :
    Keeps ρ ((rxRead k key address len s).2) := by
  unfold rxRead
  with_reducible repeat' first
    | assumption
    | apply devRead_keeps
    | apply noteViolation_keeps
    | apply keeps_ite
    | intro _
    | fail_if_no_progress (apply keeps_same)
    | fail_if_no_progress (apply keeps_mem)
    | split
    | dsimp only
    | refine of_pair (by assumption) ?_
    | refine of_did (by assumption) ?_
    | refine of_ok (by assumption) ?_
    | refine of_some (by assumption) ?_
    | refine of_threw (by assumption) ?_

theorem classifyPkt_keeps {ρ : State} {p : Pkt} {s : State} (hK : Keeps ρ s) :
    Keeps ρ ((classifyPkt p s).2) := by
  unfold classifyPkt
  with_reducible repeat' first
    | assumption
    | apply countSearch_keeps
    | apply odBump_keeps
    | apply repairClass_keeps
    | apply keeps_ite
    | intro _
    | fail_if_no_progress (apply keeps_same)
    | fail_if_no_progress (apply keeps_mem)
    | split
    | dsimp only
    | refine of_some (by assumption) ?_

theorem answer_keeps {ρ : State} {k : Nat} {psn : Nat} {m : RoceMsg} {s : State} (hK : Keeps ρ s) :
    Keeps ρ (answer k psn m s) := by
  unfold answer
  with_reducible repeat' first | assumption | apply sendPacket_keeps | intro _

theorem refusePacket_keeps {ρ : State} {k : Nat} {psn : Nat} {s : State} (hK : Keeps ρ s) :
    Keeps ρ (refusePacket k psn s) := by
  unfold refusePacket
  with_reducible repeat' first
    | assumption
    | apply qpFail_keeps
    | apply answer_keeps
    | apply netMod_keeps
    | intro _
    | fail_if_no_progress (apply keeps_same)
    | fail_if_no_progress (apply keeps_mem)

theorem dropFull_keeps {ρ : State} {port : Nat} {s : State} (hK : Keeps ρ s) :
    Keeps ρ (dropFull port s) := by
  unfold dropFull
  with_reducible repeat' first | assumption | apply odBump_keeps | intro _

theorem sendCnp_keeps {ρ : State} {k : Nat} {s : State} (hK : Keeps ρ s) :
    Keeps ρ (sendCnp k s) := by
  unfold sendCnp
  with_reducible repeat' first
    | assumption
    | apply keeps_ite
    | apply answer_keeps
    | apply qpMod_keeps
    | intro _
    | split

theorem pktMarks_keeps {ρ : State} {k : Nat} {p : Pkt} {s : State} (hK : Keeps ρ s) :
    Keeps ρ (pktMarks k p s) := by
  unfold pktMarks
  with_reducible repeat' first
    | assumption
    | apply keeps_ite
    | apply migrate_keeps
    | apply sendCnp_keeps
    | intro _
    | split
    | dsimp only

theorem wireArrive_keeps {ρ : State} {p : Pkt} {size : Nat} {again : Bool} {act : Nat → State → RxRes × State} {s : State} (hF : ∀ a0 a1, Keeps ρ a1 → Keeps ρ ((act a0 a1).2)) (hK : Keeps ρ s) :
    Keeps ρ (wireArrive p size again act s) := by
  unfold wireArrive
  with_reducible repeat' first
    | assumption
    | apply hF
    | apply dropFull_keeps
    | apply classifyPkt_keeps
    | apply pktMarks_keeps
    | apply refusePacket_keeps
    | apply qpMod_keeps
    | apply answer_keeps
    | apply keeps_ite
    | intro _
    | fail_if_no_progress (apply keeps_same)
    | fail_if_no_progress (apply keeps_mem)
    | split
    | dsimp only
    | refine of_pair (by assumption) ?_
    | refine of_did (by assumption) ?_
    | refine of_ok (by assumption) ?_
    | refine of_some (by assumption) ?_

theorem ackTo_keeps {ρ : State} {k : Nat} {psn : Nat} {s : State} (hK : Keeps ρ s) :
    Keeps ρ (ackTo k psn s) := by
  unfold ackTo
  with_reducible repeat' first
    | assumption
    | apply keeps_foldl
    | apply qpMod_keeps
    | apply txDone_keeps
    | intro _
    | split

theorem retryQp_keeps {ρ : State} {k : Nat} {s : State} (hK : Keeps ρ s) :
    Keeps ρ (retryQp k s) := by
  unfold retryQp
  with_reducible repeat' first
    | assumption
    | apply qpMod_keeps
    | apply migrate_keeps
    | apply qpFail_keeps
    | apply resend_keeps
    | apply keeps_ite
    | intro _
    | fail_if_no_progress (apply keeps_same)
    | fail_if_no_progress (apply keeps_mem)
    | split
    | dsimp only
    | refine of_some (by assumption) ?_

theorem accessNak_keeps {ρ : State} {k : Nat} {s : State} (hK : Keeps ρ s) :
    Keeps ρ (accessNak k s) := by
  unfold accessNak
  with_reducible repeat' first | assumption | apply qpFail_keeps | apply failTask_keeps | split

theorem fabricDone_keeps {ρ : State} {k : Nat} {s : State} (hK : Keeps ρ s) :
    Keeps ρ (fabricDone k s) := by
  unfold fabricDone
  with_reducible repeat' first | assumption | apply txDone_keeps | apply qpMod_keeps | split

theorem fabricArrive_keeps {ρ : State} {is_ : RoceMsg → Bool} {act : RoceMsg → Nat → State → RxRes × State} {s : State} (hF : ∀ a0 a1 a2, Keeps ρ a2 → Keeps ρ ((act a0 a1 a2).2)) (hK : Keeps ρ s) :
    Keeps ρ (fabricArrive is_ act s) := by
  unfold fabricArrive
  with_reducible repeat' first
    | assumption
    | apply hF
    | apply netMod_keeps
    | apply qpFail_keeps
    | apply accessNak_keeps
    | apply fabricDone_keeps
    | apply keeps_ite
    | intro _
    | fail_if_no_progress (apply keeps_same)
    | fail_if_no_progress (apply keeps_mem)
    | split
    | dsimp only
    | refine of_pair (by assumption) ?_
    | refine of_some (by assumption) ?_

theorem execRoceSend_keeps {ρ : State} {a : Arrival} {payload : List Byte} {s : State} (hK : Keeps ρ s) :
    OutKeeps ρ (execRoceSend a payload s) := by
  unfold execRoceSend
  with_reducible repeat' first
    | assumption
    | apply keeps_next
    | apply wireArrive_keeps
    | apply rxSend_keeps
    | apply fabricArrive_keeps
    | intro _
    | split

theorem controlRow_keeps {ρ : State} {ty : Byte} {a : Arrival} {msg : List Byte} {s : State} (hK : Keeps ρ s) :
    Keeps ρ (controlRow ty a msg s) := by
  unfold controlRow
  with_reducible repeat' first
    | assumption
    | apply wireArrive_keeps
    | apply rxSend_keeps
    | apply fabricArrive_keeps
    | intro _
    | split

theorem execOpenMsg_keeps {ρ : State} {a : Arrival} {msg : List Byte} {s : State} (hK : Keeps ρ s) :
    OutKeeps ρ (execOpenMsg a msg s) := by
  unfold execOpenMsg
  with_reducible repeat' first | assumption | apply keeps_next | apply controlRow_keeps

theorem execGrantMsg_keeps {ρ : State} {a : Arrival} {msg : List Byte} {s : State} (hK : Keeps ρ s) :
    OutKeeps ρ (execGrantMsg a msg s) := by
  unfold execGrantMsg
  with_reducible repeat' first | assumption | apply keeps_next | apply controlRow_keeps

theorem execEndMsg_keeps {ρ : State} {a : Arrival} {msg : List Byte} {s : State} (hK : Keeps ρ s) :
    OutKeeps ρ (execEndMsg a msg s) := by
  unfold execEndMsg
  with_reducible repeat' first | assumption | apply keeps_next | apply controlRow_keeps

theorem execRdmaWrite_keeps {ρ : State} {a : Arrival} {key : Nat} {address : Nat} {data : List Byte} {s : State} (hK : Keeps ρ s) :
    OutKeeps ρ (execRdmaWrite a key address data s) := by
  unfold execRdmaWrite
  with_reducible repeat' first
    | assumption
    | apply keeps_next
    | apply wireArrive_keeps
    | apply rxWrite_keeps
    | apply fabricArrive_keeps
    | intro _
    | split

theorem execRdmaWriteImm_keeps {ρ : State} {a : Arrival} {key : Nat} {address : Nat} {data : List Byte} {imm : BitVec 32} {s : State} (hK : Keeps ρ s) :
    OutKeeps ρ (execRdmaWriteImm a key address data imm s) := by
  unfold execRdmaWriteImm
  with_reducible repeat' first
    | assumption
    | apply keeps_next
    | apply wireArrive_keeps
    | apply rxWriteImm_keeps
    | apply fabricArrive_keeps
    | intro _
    | split

theorem execRdmaRead_keeps {ρ : State} {p : Pkt} {key : Nat} {address : Nat} {length : Nat} {s : State} (hK : Keeps ρ s) :
    OutKeeps ρ (execRdmaRead p key address length s) := by
  unfold execRdmaRead
  with_reducible repeat' first | assumption | apply keeps_next | apply wireArrive_keeps | apply rxRead_keeps | intro _

theorem replyArrives_keeps {ρ : State} {p : Pkt} {act : Nat → State → State} {s : State} (hF : ∀ a0 a1, Keeps ρ a1 → Keeps ρ (act a0 a1)) (hK : Keeps ρ s) :
    Keeps ρ (replyArrives p act s) := by
  unfold replyArrives
  with_reducible repeat' first
    | assumption
    | apply hF
    | apply dropFull_keeps
    | apply classifyPkt_keeps
    | apply pktMarks_keeps
    | apply refusePacket_keeps
    | apply keeps_ite
    | intro _
    | fail_if_no_progress (apply keeps_same)
    | fail_if_no_progress (apply keeps_mem)
    | split
    | dsimp only
    | refine of_pair (by assumption) ?_

theorem ackReply_keeps {ρ : State} {k : Nat} {psn : Nat} {s : State} (hK : Keeps ρ s) :
    Keeps ρ (ackReply k psn s) := by
  unfold ackReply
  with_reducible repeat' first
    | assumption
    | apply odBump_keeps
    | apply qpMod_keeps
    | apply ackTo_keeps
    | apply keeps_ite
    | intro _
    | fail_if_no_progress (apply keeps_same)
    | fail_if_no_progress (apply keeps_mem)
    | split
    | dsimp only
    | refine of_some (by assumption) ?_

theorem execAckPacket_keeps {ρ : State} {p : Pkt} {s : State} (hK : Keeps ρ s) :
    OutKeeps ρ (execAckPacket p s) := by
  unfold execAckPacket
  with_reducible repeat' first
    | assumption
    | apply keeps_next
    | apply replyArrives_keeps
    | apply ackReply_keeps
    | intro _

theorem execRoceNak_keeps {ρ : State} {p : Pkt} {code : NakCode} {s : State} (hK : Keeps ρ s) :
    OutKeeps ρ (execRoceNak p code s) := by
  unfold execRoceNak
  with_reducible repeat' first
    | assumption
    | apply keeps_next
    | apply replyArrives_keeps
    | apply keeps_ite
    | apply qpFail_keeps
    | apply ackTo_keeps
    | apply qpMod_keeps
    | apply retryQp_keeps
    | apply accessNak_keeps
    | intro _
    | split
    | dsimp only

theorem execAckTimeout_keeps {ρ : State} {qp : Nat} {s : State} (hK : Keeps ρ s) :
    OutKeeps ρ (execAckTimeout qp s) := by
  unfold execAckTimeout
  with_reducible repeat' first
    | assumption
    | apply keeps_next
    | apply unlessHold_keeps
    | apply retryQp_keeps
    | apply qpMod_keeps
    | split
    | intro _
    | fail_if_no_progress (apply keeps_same)
    | fail_if_no_progress (apply keeps_mem)
    | split
    | dsimp only
    | refine of_some (by assumption) ?_

theorem execRnrTimer_keeps {ρ : State} {qp : Nat} {s : State} (hK : Keeps ρ s) :
    OutKeeps ρ (execRnrTimer qp s) := by
  unfold execRnrTimer
  with_reducible repeat' first
    | assumption
    | apply keeps_next
    | apply unlessHold_keeps
    | apply resend_keeps
    | apply qpMod_keeps
    | split
    | intro _
    | fail_if_no_progress (apply keeps_same)
    | fail_if_no_progress (apply keeps_mem)
    | split
    | dsimp only
    | refine of_some (by assumption) ?_

theorem execCnp_keeps {ρ : State} {p : Pkt} {s : State} (hK : Keeps ρ s) :
    OutKeeps ρ (execCnp p s) := by
  unfold execCnp
  with_reducible repeat' first
    | assumption
    | apply keeps_next
    | apply replyArrives_keeps
    | apply qpMod_keeps
    | intro _

theorem execIncPeriod_keeps {ρ : State} {qp : Nat} {s : State} (hK : Keeps ρ s) :
    OutKeeps ρ (execIncPeriod qp s) := by
  unfold execIncPeriod
  with_reducible repeat' first | assumption | apply keeps_next | apply qpMod_keeps

theorem execOtherFrame_keeps {ρ : State} {port : Fin 4} {frame : Sys2Proof.Frame} {s : State} (hK : Keeps ρ s) :
    OutKeeps ρ (execOtherFrame port frame s) := by
  unfold execOtherFrame
  with_reducible repeat' first
    | assumption
    | apply keeps_next
    | apply odBump_keeps
    | apply emit_keeps
    | apply netMod_keeps
    | split
    | intro _
    | fail_if_no_progress (apply keeps_same)
    | fail_if_no_progress (apply keeps_mem)
    | split
    | dsimp only

theorem countFec_keeps {ρ : State} {p : Nat} {w : PortWindow} {s : State} (hK : Keeps ρ s) :
    Keeps ρ (countFec p w s) := by
  unfold countFec
  with_reducible repeat' first | assumption | apply odAdd_keeps

theorem loseStandby_keeps {ρ : State} {k : Nat} {s : State} (hK : Keeps ρ s) :
    Keeps ρ (loseStandby k s) := by
  unfold loseStandby
  with_reducible repeat' first
    | assumption
    | apply netMod_keeps
    | apply keeps_ite
    | intro _
    | fail_if_no_progress (apply keeps_same)
    | fail_if_no_progress (apply keeps_mem)
    | split

theorem windowEnds_keeps {ρ : State} {k : Nat} {a : PortWindow} {b : PortWindow} {s : State} (hK : Keeps ρ s) :
    Keeps ρ (windowEnds k a b s) := by
  unfold windowEnds
  with_reducible repeat' first
    | assumption
    | apply drain_keeps
    | apply countFec_keeps
    | apply odSet_keeps
    | apply loseStandby_keeps
    | apply leavePlane_keeps
    | apply keeps_ite
    | apply keeps_foldl
    | intro _
    | split
    | dsimp only

theorem execFitnessWindow_keeps {ρ : State} {plane : Fin 2} {a : PortWindow} {b : PortWindow} {s : State} (hK : Keeps ρ s) :
    OutKeeps ρ (execFitnessWindow plane a b s) := by
  unfold execFitnessWindow
  with_reducible repeat' first | assumption | apply keeps_next | apply windowEnds_keeps

theorem execProbe_keeps {ρ : State} {plane : Fin 2} {s : State} (hK : Keeps ρ s) :
    OutKeeps ρ (execProbe plane s) := by
  unfold execProbe
  with_reducible repeat' first
    | assumption
    | apply keeps_next
    | apply drain_keeps
    | apply odSet_keeps
    | apply netMod_keeps
    | apply emit_keeps
    | split
    | intro _
    | fail_if_no_progress (apply keeps_same)
    | fail_if_no_progress (apply keeps_mem)
    | split
    | dsimp only

theorem execProbeTimeout_keeps {ρ : State} {port : Fin 4} {s : State} (hK : Keeps ρ s) :
    OutKeeps ρ (execProbeTimeout port s) := by
  unfold execProbeTimeout
  with_reducible repeat' first
    | assumption
    | apply keeps_next
    | apply keeps_ite
    | apply odBump_keeps
    | apply odSet_keeps
    | apply netMod_keeps
    | intro _

theorem becomeStandby_keeps {ρ : State} {k : Nat} {s : State} (hK : Keeps ρ s) :
    Keeps ρ (becomeStandby k s) := by
  unfold becomeStandby
  with_reducible repeat' first
    | assumption
    | apply odSet_keeps
    | apply netMod_keeps
    | apply resume_keeps
    | apply keeps_ite
    | apply keeps_foldl
    | intro _
    | fail_if_no_progress (apply keeps_same)
    | fail_if_no_progress (apply keeps_mem)
    | split
    | dsimp only

theorem execRepairTime_keeps {ρ : State} {plane : Fin 2} {s : State} (hK : Keeps ρ s) :
    OutKeeps ρ (execRepairTime plane s) := by
  unfold execRepairTime
  with_reducible repeat' first
    | assumption
    | apply keeps_next
    | apply becomeStandby_keeps
    | split
    | intro _
    | split
    | dsimp only

theorem execRearm_keeps {ρ : State} {qp : Nat} {s : State} (hK : Keeps ρ s) :
    OutKeeps ρ (execRearm qp s) := by
  unfold execRearm
  with_reducible repeat' first
    | assumption
    | apply keeps_next
    | apply qpMod_keeps
    | apply migrate_keeps
    | apply resume_keeps
    | split
    | intro _
    | fail_if_no_progress (apply keeps_same)
    | fail_if_no_progress (apply keeps_mem)
    | split
    | dsimp only
    | refine of_some (by assumption) ?_

theorem execPathHold_keeps {ρ : State} {qp : Nat} {s : State} (hK : Keeps ρ s) :
    OutKeeps ρ (execPathHold qp s) := by
  unfold execPathHold
  with_reducible repeat' first
    | assumption
    | apply keeps_next
    | apply unlessHold_keeps
    | apply qpFail_keeps
    | split
    | intro _
    | fail_if_no_progress (apply keeps_same)
    | fail_if_no_progress (apply keeps_mem)
    | split
    | dsimp only
    | refine of_some (by assumption) ?_

theorem writeMoveBack_keeps {ρ : State} {k : Nat} {v : Nat} {s : State} (hK : Keeps ρ s) :
    ExKeeps (Keeps ρ) (writeMoveBack k v s) := by
  unfold writeMoveBack
  with_reducible repeat' first
    | assumption
    | exact keeps_error
    | apply keeps_ok
    | apply migrate_keeps
    | apply keeps_ite_ex
    | apply keeps_foldl
    | intro _
    | split
    | dsimp only
    | refine of_did (by assumption) ?_
    | refine of_threw (by assumption) ?_

theorem createQp_keeps {ρ : State} {n : Nat} {c : List Byte} {s : State} (hK : Keeps ρ s) :
    Keeps ρ ((createQp n c s).2) := by
  unfold createQp
  with_reducible repeat' first | assumption | apply netMod_keeps | split | dsimp only

theorem execCreateQp_keeps {ρ : State} {link : Link} {inst : Inst} {cmd : CmdRun} {s : State} (hK : Keeps ρ s) :
    OutKeeps ρ (execCreateQp link inst cmd s) := by
  unfold execCreateQp
  with_reducible repeat' first | assumption | apply keeps_next | apply runCmd_keeps | apply createQp_keeps | intro _

theorem startQp_keeps {ρ : State} {k : Nat} {fit : Bool} {s : State} (hK : Keeps ρ s) :
    Keeps ρ (startQp k fit s) := by
  unfold startQp
  with_reducible repeat' first
    | assumption
    | apply flushQp_keeps
    | apply leavePlane_keeps
    | apply keeps_ite
    | intro _
    | split

theorem connectQp_keeps {ρ : State} {n : Nat} {c : List Byte} {s : State} (hK : Keeps ρ s) :
    Keeps ρ ((connectQp n c s).2) := by
  unfold connectQp
  with_reducible repeat' first
    | assumption
    | apply classify_keeps
    | apply startQp_keeps
    | apply qpMod_keeps
    | apply keeps_ite
    | apply keeps_foldl
    | intro _
    | fail_if_no_progress (apply keeps_same)
    | fail_if_no_progress (apply keeps_mem)
    | split
    | dsimp only
    | refine of_some (by assumption) ?_

theorem execConnectQp_keeps {ρ : State} {link : Link} {inst : Inst} {cmd : CmdRun} {s : State} (hK : Keeps ρ s) :
    OutKeeps ρ (execConnectQp link inst cmd s) := by
  unfold execConnectQp
  with_reducible repeat' first | assumption | apply keeps_next | apply runCmd_keeps | apply connectQp_keeps | intro _

theorem forgetSender_keeps {ρ : State} {k : Nat} {s : State} (hK : Keeps ρ s) :
    Keeps ρ (forgetSender k s) := by
  unfold forgetSender
  with_reducible repeat' first
    | assumption
    | apply keeps_ite
    | intro _
    | fail_if_no_progress (apply keeps_same)
    | fail_if_no_progress (apply keeps_mem)
    | split

theorem destroyQp_keeps {ρ : State} {n : Nat} {c : List Byte} {s : State} (hK : Keeps ρ s) :
    Keeps ρ ((destroyQp n c s).2) := by
  unfold destroyQp
  with_reducible repeat' first
    | assumption
    | apply forgetSender_keeps
    | apply netMod_keeps
    | apply qpFail_keeps
    | intro _
    | fail_if_no_progress (apply keeps_same)
    | fail_if_no_progress (apply keeps_mem)
    | split
    | dsimp only
    | refine of_some (by assumption) ?_

theorem execDestroyQp_keeps {ρ : State} {link : Link} {inst : Inst} {cmd : CmdRun} {s : State} (hK : Keeps ρ s) :
    OutKeeps ρ (execDestroyQp link inst cmd s) := by
  unfold execDestroyQp
  with_reducible repeat' first | assumption | apply keeps_next | apply runCmd_keeps | apply destroyQp_keeps | intro _

theorem registerRegion_keeps {ρ : State} {n : Nat} {c : List Byte} {s : State} (h : Keeps ρ s) :
    Keeps ρ (registerRegion n c s).2 := by
  unfold registerRegion
  dsimp only
  split
  · exact h
  · split
    · exact h
    · split
      · exact h
      · exact of_somePair (by assumption) (addRegion_keeps h)

theorem execRegisterRegion_keeps {ρ : State} {link : Link} {inst : Inst} {cmd : CmdRun} {s : State} (hK : Keeps ρ s) :
    OutKeeps ρ (execRegisterRegion link inst cmd s) := by
  unfold execRegisterRegion
  with_reducible repeat' first
    | assumption
    | apply keeps_next
    | apply runCmd_keeps
    | apply registerRegion_keeps
    | intro _

theorem deregisterRegion_keeps {ρ : State} {n : Nat} {c : List Byte} {s : State} (hK : Keeps ρ s) :
    Keeps ρ ((deregisterRegion n c s).2) := by
  unfold deregisterRegion
  with_reducible repeat' first | assumption | apply dropRegion_keeps | split | dsimp only

theorem execDeregisterRegion_keeps {ρ : State} {link : Link} {inst : Inst} {cmd : CmdRun} {s : State} (hK : Keeps ρ s) :
    OutKeeps ρ (execDeregisterRegion link inst cmd s) := by
  unfold execDeregisterRegion
  with_reducible repeat' first
    | assumption
    | apply keeps_next
    | apply runCmd_keeps
    | apply deregisterRegion_keeps
    | intro _

/-! ### Dram.lean -/

theorem chanMod_keeps {ρ : State} {c : Nat} {f : Chan → Chan} {s : State} (hK : Keeps ρ s) :
    Keeps ρ (chanMod c f s) := by
  unfold chanMod
  with_reducible repeat' first | assumption | fail_if_no_progress (apply keeps_same)

theorem wakeChannel_keeps {ρ : State} {c : Nat} {s : State} (hK : Keeps ρ s) :
    Keeps ρ (wakeChannel c s) := by
  unfold wakeChannel
  with_reducible repeat' first | assumption | apply keeps_ite | apply odSet_keeps | intro _

theorem wakeChannels_keeps {ρ : State} {s : State} (hK : Keeps ρ s) :
    Keeps ρ (wakeChannels s) := by
  unfold wakeChannels
  with_reducible repeat' first | assumption | apply keeps_foldl | apply keeps_ite | apply wakeChannel_keeps | intro _

theorem dropRequests_keeps {ρ : State} {c : Nat} {s : State} (hK : Keeps ρ s) :
    Keeps ρ (dropRequests c s) := by
  unfold dropRequests
  with_reducible repeat' first
    | assumption
    | apply odBump_keeps
    | apply keeps_foldl
    | intro _
    | fail_if_no_progress (apply keeps_same)
    | fail_if_no_progress (apply keeps_mem)
    | dsimp only

theorem sameBankRfm_keeps {ρ : State} {c : Nat} {bank : Nat} {s : State} (hK : Keeps ρ s) :
    Keeps ρ (sameBankRfm c bank s) := by
  unfold sameBankRfm
  with_reducible repeat' first | assumption | apply odBump_keeps | apply chanMod_keeps

theorem penalise_keeps {ρ : State} {c : Nat} {port : Nat} {s : State} (hK : Keeps ρ s) :
    Keeps ρ (penalise c port s) := by
  unfold penalise
  with_reducible repeat' first | assumption | apply chanMod_keeps | apply odSet_keeps | apply odAdd_keeps

theorem rowTrigger_keeps {ρ : State} {c : Nat} {bank : Nat} {group : Nat} {s : State} (hK : Keeps ρ s) :
    Keeps ρ (rowTrigger c bank group s) := by
  unfold rowTrigger
  with_reducible repeat' first
    | assumption
    | apply penalise_keeps
    | apply odSet_keeps
    | apply odBump_keeps
    | apply chanMod_keeps
    | apply sameBankRfm_keeps
    | split
    | dsimp only

theorem activate_keeps {ρ : State} {c : Nat} {port : Nat} {bank : Nat} {row : Nat} {s : State} (hK : Keeps ρ s) :
    Keeps ρ (activate c port bank row s) := by
  unfold activate
  with_reducible repeat' first
    | assumption
    | apply keeps_ite
    | apply rowTrigger_keeps
    | apply sameBankRfm_keeps
    | apply chanMod_keeps
    | apply odBump_keeps
    | intro _
    | split

theorem poisonDram_keeps {ρ : State} {w : Nat} {s : State} (hK : Keeps ρ s) :
    Keeps ρ (poisonDram w s) := by
  unfold poisonDram
  with_reducible repeat' first
    | assumption
    | apply l2Put_keeps
    | apply keeps_ite
    | intro _
    | fail_if_no_progress (apply keeps_same)
    | fail_if_no_progress (apply keeps_mem)
    | split
    | dsimp only
    | refine of_some (by assumption) ?_

theorem eccOutcome_keeps {ρ : State} {c : Nat} {ca : Nat} {returned : Bool} {e : Ecc} {s : State} (hK : Keeps ρ s) :
    Keeps ρ (eccOutcome c ca returned e s) := by
  unfold eccOutcome
  with_reducible repeat' first
    | assumption
    | apply odBump_keeps
    | apply rasEvent_keeps
    | apply odSet_keeps
    | apply poisonDram_keeps
    | apply keeps_ite
    | intro _
    | fail_if_no_progress (apply keeps_same)
    | fail_if_no_progress (apply keeps_mem)
    | split
    | dsimp only
    | refine of_did (by assumption) ?_
    | refine of_ok (by assumption) ?_
    | refine of_some (by assumption) ?_

theorem issueBurst_keeps {ρ : State} {c : Nat} {port : Nat} {write : Bool} {ca : Nat} {mapC : Bool} {hit : Bool} {s : State} (hK : Keeps ρ s) :
    Keeps ρ (issueBurst c port write ca mapC hit s) := by
  unfold issueBurst
  with_reducible repeat' first
    | assumption
    | apply odBump_keeps
    | apply keeps_ite
    | apply wakeChannel_keeps
    | apply activate_keeps
    | intro _

theorem issueRequest_keeps {ρ : State} {c : Nat} {lo : Ecc} {hi : Ecc} {s : State} (hK : Keeps ρ s) :
    Keeps ρ (issueRequest c lo hi s) := by
  unfold issueRequest
  with_reducible repeat' first
    | assumption
    | apply issueBurst_keeps
    | apply odBump_keeps
    | apply eccOutcome_keeps
    | apply keeps_ite
    | intro _
    | fail_if_no_progress (apply keeps_same)
    | fail_if_no_progress (apply keeps_mem)
    | split
    | dsimp only
    | refine of_some (by assumption) ?_

theorem execDramRequestIssue_keeps {ρ : State} {channel : Fin 12} {lo : Ecc} {hi : Ecc} {s : State} (hK : Keeps ρ s) :
    OutKeeps ρ (execDramRequestIssue channel lo hi s) := by
  unfold execDramRequestIssue
  with_reducible repeat' first | assumption | apply keeps_next | apply keeps_ite | apply issueRequest_keeps | intro _

theorem execRhPenaltyEnd_keeps {ρ : State} {channel : Fin 12} {port : Fin 16} {s : State} (hK : Keeps ρ s) :
    OutKeeps ρ (execRhPenaltyEnd channel port s) := by
  unfold execRhPenaltyEnd
  with_reducible repeat' first
    | assumption
    | apply keeps_next
    | apply keeps_ite
    | apply chanMod_keeps
    | apply odSet_keeps
    | apply odAdd_keeps
    | intro _
    | split

theorem execRhSubwindow_keeps {ρ : State} {channel : Fin 12} {s : State} (hK : Keeps ρ s) :
    OutKeeps ρ (execRhSubwindow channel s) := by
  unfold execRhSubwindow
  with_reducible repeat' first | assumption | apply keeps_next | apply chanMod_keeps

theorem refreshNow_keeps {ρ : State} {c : Nat} {s : State} (hK : Keeps ρ s) :
    Keeps ρ (refreshNow c s) := by
  unfold refreshNow
  with_reducible repeat' first | assumption | apply chanMod_keeps | apply odSet_keeps

theorem execRefresh_keeps {ρ : State} {channel : Fin 12} {s : State} (hK : Keeps ρ s) :
    OutKeeps ρ (execRefresh channel s) := by
  unfold execRefresh
  with_reducible repeat' first
    | assumption
    | apply keeps_next
    | apply keeps_ite
    | apply odBump_keeps
    | apply chanMod_keeps
    | apply refreshNow_keeps
    | intro _

theorem execChannelTempPoll_keeps {ρ : State} {channel : Fin 12} {readings : List (Option Nat)} {s : State} (hK : Keeps ρ s) :
    OutKeeps ρ (execChannelTempPoll channel readings s) := by
  unfold execChannelTempPoll
  with_reducible repeat' first
    | assumption
    | apply keeps_next
    | apply keeps_ite
    | apply fatal_keeps
    | apply odSet_keeps
    | apply chanMod_keeps
    | apply keeps_foldl
    | intro _

theorem advanceScrub_keeps {ρ : State} {c : Nat} {s : State} (hK : Keeps ρ s) :
    Keeps ρ (advanceScrub c s) := by
  unfold advanceScrub
  with_reducible repeat' first | assumption | apply keeps_ite | apply chanMod_keeps | apply odBump_keeps | intro _

theorem execScrubRead_keeps {ρ : State} {channel : Fin 12} {ecc : Ecc} {s : State} (hK : Keeps ρ s) :
    OutKeeps ρ (execScrubRead channel ecc s) := by
  unfold execScrubRead
  with_reducible repeat' first
    | assumption
    | apply keeps_next
    | apply advanceScrub_keeps
    | apply eccOutcome_keeps
    | apply issueBurst_keeps
    | split
    | intro _
    | fail_if_no_progress (apply keeps_same)
    | fail_if_no_progress (apply keeps_mem)
    | split
    | dsimp only
    | refine of_some (by assumption) ?_

theorem execScrubPeriod_keeps {ρ : State} {channel : Fin 12} {s : State} (hK : Keeps ρ s) :
    OutKeeps ρ (execScrubPeriod channel s) := by
  unfold execScrubPeriod
  with_reducible repeat' first | assumption | apply keeps_next | apply chanMod_keeps

theorem execAlertN_keeps {ρ : State} {channel : Fin 12} {replays : Fin 4} {persists : Bool} {s : State} (hK : Keeps ρ s) :
    OutKeeps ρ (execAlertN channel replays persists s) := by
  unfold execAlertN
  with_reducible repeat' first
    | assumption
    | apply keeps_next
    | apply odAdd_keeps
    | apply fatal_keeps
    | apply odSet_keeps
    | apply dropRequests_keeps
    | split
    | intro _
    | split
    | dsimp only

theorem execPdIdle_keeps {ρ : State} {channel : Fin 12} {s : State} (hK : Keeps ρ s) :
    OutKeeps ρ (execPdIdle channel s) := by
  unfold execPdIdle
  with_reducible repeat' first
    | assumption
    | apply keeps_next
    | apply odSet_keeps
    | apply chanMod_keeps
    | split
    | intro _
    | fail_if_no_progress (apply keeps_same)
    | fail_if_no_progress (apply keeps_mem)
    | split
    | dsimp only

theorem execSelfRefreshEntry_keeps {ρ : State} {channel : Fin 12} {s : State} (hK : Keeps ρ s) :
    OutKeeps ρ (execSelfRefreshEntry channel s) := by
  unfold execSelfRefreshEntry
  with_reducible repeat' first
    | assumption
    | apply keeps_next
    | apply keeps_ite
    | apply odSet_keeps
    | apply chanMod_keeps
    | intro _
    | fail_if_no_progress (apply keeps_same)

/-! ### TillerCache.lean -/

theorem l1Drop_keeps {r : State} {k : Nat} {line : Nat} {s : State} (h : Keeps r s) : Keeps r (l1Drop k line s) := by
  unfold l1Drop
  refine keeps_cores h fun hc => map_tile_all hc ?_
  rintro ⟨i, c⟩
  dsimp only
  split <;> rfl

theorem l2LineOp_keeps {ρ : State} {op : LineOp} {k : Nat} {set : Nat} {way : Nat} {s : State} (hK : Keeps ρ s) :
    Keeps ρ (l2LineOp op k set way s) := by
  unfold l2LineOp
  with_reducible repeat' first | assumption | apply l2Clean_keeps | apply l2Del_keeps | apply l2Discard_keeps | split

theorem lineOp_keeps {ρ : State} {op : LineOp} {k : Nat} {line : Nat} {s : State} (hK : Keeps ρ s) :
    Keeps ρ (lineOp op k line s) := by
  unfold lineOp
  with_reducible repeat' first
    | assumption
    | apply l2LineOp_keeps
    | apply l1Drop_keeps
    | apply keeps_ite
    | apply clusterMod_keeps
    | intro _
    | split

theorem lookTags_keeps {ρ : State} {c : CoreId} {set : Nat} {s : State} (hK : Keeps ρ s) :
    Keeps ρ ((lookTags c set s).1) := by
  unfold lookTags
  with_reducible repeat' first | assumption | apply tagSets_keeps | apply keeps_ite | intro _ | split

theorem afterTags_keeps {ρ : State} {c : CoreId} {set : Nat} {go : State → CoreEnd} {s : State} (hF : ∀ a0, Keeps ρ a0 → EndKeeps ρ (go a0)) (hK : Keeps ρ s) :
    EndKeeps ρ (afterTags c set go s) := by
  unfold afterTags
  with_reducible repeat' first
    | assumption
    | apply keeps_retire
    | apply keeps_jump
    | apply keeps_trap
    | apply keeps_wait
    | apply hF
    | apply lookTags_keeps
    | intro _
    | fail_if_no_progress (apply keeps_same)
    | fail_if_no_progress (apply keeps_mem)
    | split
    | dsimp only
    | refine of_pair1 (by assumption) ?_

theorem runLine_keeps {ρ : State} {c : CoreId} {ra : Reg} {op : LineOp} {needS : Bool} {code : Reg} {s : State} (hK : Keeps ρ s) :
    Keeps ρ (runLine c ra op needS code s) := by
  unfold runLine
  with_reducible repeat' first
    | assumption
    | apply keeps_retire
    | apply keeps_jump
    | apply keeps_trap
    | apply keeps_wait
    | apply runCore_keeps
    | apply privileged_keeps
    | apply afterTags_keeps
    | apply lineOp_keeps
    | apply keeps_ite
    | intro _
    | fail_if_no_progress (apply keeps_same)
    | fail_if_no_progress (apply keeps_mem)
    | split
    | dsimp only
    | refine of_did (by assumption) ?_
    | refine of_ok (by assumption) ?_
    | refine of_threw (by assumption) ?_
    | apply keeps_ite_end

theorem execPrefetch_keeps {ρ : State} {c : CoreId} {ra : Reg} {s : State} (hK : Keeps ρ s) :
    OutKeeps ρ (execPrefetch c ra s) := by
  unfold execPrefetch
  with_reducible repeat' first
    | assumption
    | apply keeps_next
    | apply keeps_retire
    | apply keeps_jump
    | apply keeps_trap
    | apply keeps_wait
    | apply runCore_keeps
    | apply l1Load_keeps
    | apply afterTags_keeps
    | apply l2Access_keeps
    | split
    | intro _
    | fail_if_no_progress (apply keeps_same)
    | fail_if_no_progress (apply keeps_mem)
    | split
    | dsimp only
    | refine of_did (by assumption) ?_
    | refine of_ok (by assumption) ?_
    | apply keeps_ite_end

theorem execClean_keeps {ρ : State} {c : CoreId} {ra : Reg} {s : State} (hK : Keeps ρ s) :
    OutKeeps ρ (execClean c ra s) := by
  unfold execClean
  with_reducible repeat' first | assumption | apply keeps_next | apply runLine_keeps

theorem execCleanInv_keeps {ρ : State} {c : CoreId} {ra : Reg} {s : State} (hK : Keeps ρ s) :
    OutKeeps ρ (execCleanInv c ra s) := by
  unfold execCleanInv
  with_reducible repeat' first | assumption | apply keeps_next | apply runLine_keeps

theorem execInv_keeps {ρ : State} {c : CoreId} {ra : Reg} {s : State} (hK : Keeps ρ s) :
    OutKeeps ρ (execInv c ra s) := by
  unfold execInv
  with_reducible repeat' first | assumption | apply keeps_next | apply runLine_keeps

theorem rangeRegs_keeps {ρ : State} {c : CoreId} {ra : Reg} {rl : Reg} {a : Nat} {left : Nat} {s : State} (hK : Keeps ρ s) :
    Keeps ρ (rangeRegs c ra rl a left s) := by
  unfold rangeRegs
  with_reducible repeat' first | assumption | apply gSet_keeps

theorem rangeLines_keeps {ρ : State} {c : CoreId} {ra : Reg} {rl : Reg} {op : LineOp} {y0 : Nat} {y1 : Nat} {y2 : Nat}
    {y3 : State} (h : Keeps ρ y3) : EndKeeps ρ (rangeLines c ra rl op y0 y1 y2 y3) := by
  induction y0 generalizing y1 y3 with
  | zero => exact rangeRegs_keeps h
  | succ fuel ih =>
    have hg : ∀ (l : Option Nat) (x : State), Keeps ρ x →
        EndKeeps ρ (if y2 ≤ (y1 / 128 + 1) * 128
          then .retire (rangeRegs c ra rl y2 0 (match l with
            | some line => lineOp op (clusterOf c) line x
            | none => x))
          else rangeLines c ra rl op fuel ((y1 / 128 + 1) * 128) y2 (match l with
            | some line => lineOp op (clusterOf c) line x
            | none => x)) := by
      intro l x hx
      refine keeps_ite_end (fun _ => keeps_retire (rangeRegs_keeps ?_)) fun _ => ih ?_
      all_goals
        split
        · exact lineOp_keeps hx
        · exact hx
    unfold rangeLines
    split
    · exact keeps_retire (rangeRegs_keeps h)
    · split
      · exact keeps_trap (rangeRegs_keeps h)
      · dsimp only
        split
        · exact hg none _ h
        · rename_i line _
          split
          · rename_i e
            exact keeps_trap (rangeRegs_keeps (of_pair1 e (lookTags_keeps h)))
          · rename_i e
            exact hg (some line) _ (of_pair1 e (lookTags_keeps h))

theorem runRange_keeps {ρ : State} {c : CoreId} {ra : Reg} {rl : Reg} {op : LineOp} {needS : Bool} {code : Reg} {s : State} (hK : Keeps ρ s) :
    Keeps ρ (runRange c ra rl op needS code s) := by
  unfold runRange
  with_reducible repeat' first
    | assumption
    | apply runCore_keeps
    | apply keeps_ite_end
    | apply privileged_keeps
    | apply rangeLines_keeps
    | intro _

theorem execCleanRange_keeps {ρ : State} {c : CoreId} {ra : Reg} {rl : Reg} {s : State} (hK : Keeps ρ s) :
    OutKeeps ρ (execCleanRange c ra rl s) := by
  unfold execCleanRange
  with_reducible repeat' first | assumption | apply keeps_next | apply runRange_keeps

theorem execCleanInvRange_keeps {ρ : State} {c : CoreId} {ra : Reg} {rl : Reg} {s : State} (hK : Keeps ρ s) :
    OutKeeps ρ (execCleanInvRange c ra rl s) := by
  unfold execCleanInvRange
  with_reducible repeat' first | assumption | apply keeps_next | apply runRange_keeps

theorem execInvRange_keeps {ρ : State} {c : CoreId} {ra : Reg} {rl : Reg} {s : State} (hK : Keeps ρ s) :
    OutKeeps ρ (execInvRange c ra rl s) := by
  unfold execInvRange
  with_reducible repeat' first | assumption | apply keeps_next | apply runRange_keeps

theorem l1SetWay_keeps {ρ : State} {op : LineOp} {k v : Nat} {s : State} (hK : Keeps ρ s) :
    Keeps ρ (l1SetWay op k v s) := by
  unfold l1SetWay
  split
  · exact hK
  · refine keeps_ite (fun _ => hK) fun _ => keeps_coresMap hK fun e => ?_
    dsimp only
    split <;> rfl

theorem runSetWay_keeps {ρ : State} {c : CoreId} {ra : Reg} {rl : Reg} {op : LineOp} {code : Reg} {s : State} (hK : Keeps ρ s) :
    Keeps ρ (runSetWay c ra rl op code s) := by
  unfold runSetWay
  with_reducible repeat' first
    | assumption
    | apply keeps_retire
    | apply keeps_jump
    | apply keeps_trap
    | apply keeps_wait
    | apply runCore_keeps
    | apply illegal_keeps
    | apply privileged_keeps
    | apply l1SetWay_keeps
    | apply afterTags_keeps
    | apply l2LineOp_keeps
    | apply keeps_ite
    | intro _
    | split
    | dsimp only
    | apply keeps_ite_end

theorem execCleanSw_keeps {ρ : State} {c : CoreId} {ra : Reg} {rl : Reg} {s : State} (hK : Keeps ρ s) :
    OutKeeps ρ (execCleanSw c ra rl s) := by
  unfold execCleanSw
  with_reducible repeat' first | assumption | apply keeps_next | apply runSetWay_keeps

theorem execCleanInvSw_keeps {ρ : State} {c : CoreId} {ra : Reg} {rl : Reg} {s : State} (hK : Keeps ρ s) :
    OutKeeps ρ (execCleanInvSw c ra rl s) := by
  unfold execCleanInvSw
  with_reducible repeat' first | assumption | apply keeps_next | apply runSetWay_keeps

theorem execInvSw_keeps {ρ : State} {c : CoreId} {ra : Reg} {rl : Reg} {s : State} (hK : Keeps ρ s) :
    OutKeeps ρ (execInvSw c ra rl s) := by
  unfold execInvSw
  with_reducible repeat' first | assumption | apply keeps_next | apply runSetWay_keeps

theorem lockFill_keeps {ρ : State} {k : Nat} {line : Nat} {s : State} (hK : Keeps ρ s) :
    Keeps ρ ((lockFill k line s).2) := by
  unfold lockFill
  with_reducible repeat' first
    | assumption
    | apply l2Put_keeps
    | apply clusterMod_keeps
    | apply keeps_foldl
    | apply l2Del_keeps
    | apply requestBursts_keeps
    | intro _
    | split
    | dsimp only

theorem execLockfill_keeps {ρ : State} {c : CoreId} {ra : Reg} {rl : Reg} {s : State} (hK : Keeps ρ s) :
    OutKeeps ρ (execLockfill c ra rl s) := by
  unfold execLockfill
  with_reducible repeat' first
    | assumption
    | apply keeps_next
    | apply keeps_retire
    | apply keeps_jump
    | apply keeps_trap
    | apply keeps_wait
    | apply runCore_keeps
    | apply privileged_keeps
    | apply afterTags_keeps
    | apply lockFill_keeps
    | apply gSet_keeps
    | split
    | intro _
    | fail_if_no_progress (apply keeps_same)
    | fail_if_no_progress (apply keeps_mem)
    | split
    | dsimp only
    | refine of_pair (by assumption) ?_
    | refine of_did (by assumption) ?_
    | refine of_ok (by assumption) ?_
    | refine of_threw (by assumption) ?_
    | apply keeps_ite_end

theorem unlockLines_keeps {ρ : State} {k : Nat} {mask : Nat} {s : State} (hK : Keeps ρ s) :
    Keeps ρ (unlockLines k mask s) := by
  unfold unlockLines
  with_reducible repeat' first | assumption | apply clusterMod_keeps

theorem execLockset_keeps {ρ : State} {c : CoreId} {ra : Reg} {rl : Reg} {s : State} (hK : Keeps ρ s) :
    OutKeeps ρ (execLockset c ra rl s) := by
  unfold execLockset
  with_reducible repeat' first
    | assumption
    | apply keeps_next
    | apply keeps_retire
    | apply keeps_jump
    | apply keeps_trap
    | apply keeps_wait
    | apply runCore_keeps
    | apply illegal_keeps
    | apply privileged_keeps
    | apply odSet_keeps
    | apply unlockLines_keeps
    | split
    | intro _
    | split
    | dsimp only
    | apply keeps_ite_end

theorem l2DrainDone_keeps {ρ : State} {k : Nat} {s : State} (hK : Keeps ρ s) :
    Keeps ρ (l2DrainDone k s) := by
  unfold l2DrainDone
  with_reducible repeat' first
    | assumption
    | apply odSet_keeps
    | apply clusterMod_keeps
    | apply keeps_foldl
    | apply l2Clean_keeps
    | intro _

theorem execL2DrainDone_keeps {ρ : State} {k : Fin 16} {s : State} (hK : Keeps ρ s) :
    OutKeeps ρ (execL2DrainDone k s) := by
  unfold execL2DrainDone
  with_reducible repeat' first | assumption | apply keeps_next | apply keeps_ite | apply l2DrainDone_keeps | intro _

theorem l2EnableWrite_keeps {ρ : State} {k : Nat} {v : Nat} {s : State} (hK : Keeps ρ s) :
    OpKeeps (Keeps ρ) (l2EnableWrite k v s) := by
  unfold l2EnableWrite
  with_reducible repeat' first
    | assumption
    | apply keeps_ite_op
    | apply keeps_none
    | apply keeps_some
    | apply clusterMod_keeps
    | apply odSet_keeps
    | intro _

theorem prefetchWrite_keeps {ρ : State} {k : Nat} {v : Nat} {s : State} (hK : Keeps ρ s) :
    Keeps ρ (prefetchWrite k v s) := by
  unfold prefetchWrite
  with_reducible repeat' first | assumption | apply keeps_ite | apply clusterMod_keeps | apply odSet_keeps | intro _

/-! ### Power.lean -/

theorem setModeFlag_keeps {ρ : State} {s : State} (hK : Keeps ρ s) :
    Keeps ρ (setModeFlag s) := by
  unfold setModeFlag
  with_reducible repeat' first | assumption | apply setFlagsWhere_keeps

theorem gateTask_keeps {ρ : State} {slot : Nat} {s : State} (hK : Keeps ρ s) :
    Keeps ρ (gateTask slot s) := by
  unfold gateTask
  with_reducible repeat' first
    | assumption
    | apply taskMod_keeps
    | apply leaveReady_keeps
    | apply becomeReady_keeps
    | apply odBump_keeps
    | apply odSet_keeps
    | apply keeps_ite
    | intro _
    | fail_if_no_progress (apply keeps_same)
    | fail_if_no_progress (apply keeps_mem)
    | split
    | dsimp only
    | refine of_some (by assumption) ?_

theorem gateZone_keeps {ρ : State} {z : Nat} {s : State} (hK : Keeps ρ s) :
    Keeps ρ (gateZone z s) := by
  unfold gateZone
  with_reducible repeat' first
    | assumption
    | apply gateTask_keeps
    | apply l2DrainDone_keeps
    | apply odSet_keeps
    | apply keeps_ite
    | apply keeps_foldl
    | intro _
    | split
    | dsimp only

theorem wakeGated_keeps {ρ : State} {slot : Nat} {s : State} (hK : Keeps ρ s) :
    Keeps ρ (wakeGated slot s) := by
  unfold wakeGated
  with_reducible repeat' first
    | assumption
    | apply taskMod_keeps
    | apply keeps_ite
    | intro _
    | fail_if_no_progress (apply keeps_same)
    | fail_if_no_progress (apply keeps_mem)
    | split
    | dsimp only
    | refine of_some (by assumption) ?_

theorem powerZone_keeps {ρ : State} {z : Nat} {s : State} (hK : Keeps ρ s) :
    Keeps ρ (powerZone z s) := by
  unfold powerZone
  with_reducible repeat' first
    | assumption
    | apply clusterMod_keeps
    | apply odSet_keeps
    | apply wakeGated_keeps
    | apply keeps_ite
    | apply keeps_foldl
    | intro _
    | split
    | dsimp only

theorem execZoneGated_keeps {ρ : State} {zone : Fin 16} {s : State} (hK : Keeps ρ s) :
    OutKeeps ρ (execZoneGated zone s) := by
  unfold execZoneGated
  with_reducible repeat' first | assumption | apply keeps_next | apply keeps_ite | apply gateZone_keeps | intro _

theorem execZoneWake_keeps {ρ : State} {zone : Fin 16} {s : State} (hK : Keeps ρ s) :
    OutKeeps ρ (execZoneWake zone s) := by
  unfold execZoneWake
  with_reducible repeat' first | assumption | apply keeps_next | apply keeps_ite | apply powerZone_keeps | intro _

theorem zonePowerTo_keeps {ρ : State} {z : Nat} {v : Nat} {s : State} (hK : Keeps ρ s) :
    Keeps ρ (zonePowerTo z v s) := by
  unfold zonePowerTo
  with_reducible repeat' first | assumption | apply odSet_keeps | apply keeps_ite | intro _ | split | dsimp only

theorem writeZonePower_keeps {ρ : State} {z : Nat} {v : Nat} {s : State} (hK : Keeps ρ s) :
    ExKeeps (Keeps ρ) (writeZonePower z v s) := by
  unfold writeZonePower
  with_reducible repeat' first
    | assumption
    | exact keeps_error
    | apply keeps_ok
    | apply zonePowerTo_keeps
    | apply keeps_ite_ex
    | intro _
    | split
    | refine of_did (by assumption) ?_
    | refine of_threw (by assumption) ?_

theorem wakeZones_keeps {ρ : State} {s : State} (hK : Keeps ρ s) :
    Keeps ρ (wakeZones s) := by
  unfold wakeZones
  with_reducible repeat' first | assumption | apply keeps_foldl | apply keeps_ite | apply powerZone_keeps | intro _

theorem gateZones_keeps {ρ : State} {s : State} (hK : Keeps ρ s) :
    Keeps ρ (gateZones s) := by
  unfold gateZones
  with_reducible repeat' first | assumption | apply keeps_foldl | apply gateZone_keeps | intro _

theorem setPorts_keeps {ρ : State} {v : Nat} {s : State} (hK : Keeps ρ s) :
    Keeps ρ (setPorts v s) := by
  unfold setPorts
  with_reducible repeat' first | assumption | apply keeps_foldl | apply odSet_keeps | intro _

theorem setKolfer_keeps {ρ : State} {st : Nat} {lanes : Nat} {s : State} (hK : Keeps ρ s) :
    Keeps ρ (setKolfer st lanes s) := by
  unfold setKolfer
  with_reducible repeat' first | assumption | apply odSet_keeps

theorem runAction_keeps {ρ : State} {u : Nat} {s : State} (hK : Keeps ρ s) :
    Keeps ρ (runAction u s) := by
  unfold runAction
  with_reducible repeat' first
    | assumption
    | apply wakeZones_keeps
    | apply wakeChannels_keeps
    | apply setPorts_keeps
    | apply keeps_ite
    | apply setKolfer_keeps
    | intro _
    | split

theorem dormantAction_keeps {ρ : State} {u : Nat} {s : State} (hK : Keeps ρ s) :
    Keeps ρ (dormantAction u s) := by
  unfold dormantAction
  with_reducible repeat' first
    | assumption
    | apply gateZones_keeps
    | apply setPorts_keeps
    | apply keeps_ite
    | apply setKolfer_keeps
    | intro _
    | split

theorem resumeFroze_keeps {ρ : State} {s : State} (hK : Keeps ρ s) :
    Keeps ρ (resumeFroze s) := by
  unfold resumeFroze
  with_reducible repeat' first
    | assumption
    | apply resumeInst_keeps
    | apply setInstSt_keeps
    | apply keeps_ite
    | apply keeps_foldl
    | intro _
    | fail_if_no_progress (apply keeps_same)
    | fail_if_no_progress (apply keeps_mem)
    | split
    | dsimp only

theorem commitMode_keeps {ρ : State} {s : State} (hK : Keeps ρ s) :
    Keeps ρ (commitMode s) := by
  unfold commitMode
  with_reducible repeat' first
    | assumption
    | apply runAction_keeps
    | apply resumeFroze_keeps
    | apply setModeFlag_keeps
    | apply odSet_keeps
    | apply wakeChannels_keeps
    | apply keeps_ite
    | intro _
    | fail_if_no_progress (apply keeps_same)
    | fail_if_no_progress (apply keeps_mem)
    | split
    | dsimp only

theorem beginApply_keeps {ρ : State} {target : Nat} {s : State} (hK : Keeps ρ s) :
    Keeps ρ (beginApply target s) := by
  unfold beginApply
  with_reducible repeat' first | assumption | apply odSet_keeps | fail_if_no_progress (apply keeps_same)

theorem settlePrep_keeps {ρ : State} {s : State} (hK : Keeps ρ s) :
    Keeps ρ (settlePrep s) := by
  unfold settlePrep
  with_reducible repeat' first | assumption | apply keeps_ite | apply beginApply_keeps | intro _

theorem recordAbort_keeps {ρ : State} {s : State} (hK : Keeps ρ s) :
    Keeps ρ (recordAbort s) := by
  unfold recordAbort
  with_reducible repeat' first
    | assumption
    | apply setModeFlag_keeps
    | apply odSet_keeps
    | apply rasEvent_keeps
    | apply postEvent_keeps
    | apply odBump_keeps

theorem writeTarget_keeps {ρ : State} {v : Nat} {s : State} (hK : Keeps ρ s) :
    ExKeeps (Keeps ρ) (writeTarget v s) := by
  unfold writeTarget
  with_reducible repeat' first
    | assumption
    | apply keeps_ite_ex
    | apply keeps_error
    | apply keeps_ok
    | apply beginApply_keeps
    | apply odSet_keeps
    | apply settlePrep_keeps
    | apply keeps_foldl
    | apply freezeInst_keeps
    | intro _
    | fail_if_no_progress (apply keeps_same)
    | split

theorem requestMin_keeps {ρ : State} {s : State} (hK : Keeps ρ s) :
    Keeps ρ (requestMin s) := by
  unfold requestMin
  with_reducible repeat' first | assumption | apply avsRequest_keeps | intro _

theorem unitApplied_keeps {ρ : State} {u : Nat} {s : State} (hK : Keeps ρ s) :
    Keeps ρ (unitApplied u s) := by
  unfold unitApplied
  with_reducible repeat' first
    | assumption
    | apply fatal_keeps
    | apply requestMin_keeps
    | apply runAction_keeps
    | apply dormantAction_keeps
    | apply commitMode_keeps
    | apply odSet_keeps
    | apply keeps_ite
    | intro _
    | split
    | dsimp only

theorem execUnitApplied_keeps {ρ : State} {unit : Fin 8} {s : State} (hK : Keeps ρ s) :
    OutKeeps ρ (execUnitApplied unit s) := by
  unfold execUnitApplied
  with_reducible repeat' first | assumption | apply keeps_next | apply unitApplied_keeps

theorem modeDeadline_keeps {ρ : State} {s : State} (hK : Keeps ρ s) :
    Keeps ρ (modeDeadline s) := by
  unfold modeDeadline
  with_reducible repeat' first
    | assumption
    | apply fatal_keeps
    | apply runAction_keeps
    | apply dormantAction_keeps
    | apply odSet_keeps
    | apply wakeChannels_keeps
    | apply keeps_ite
    | apply keeps_foldl
    | intro _
    | split
    | dsimp only

theorem execModeDeadline_keeps {ρ : State} {s : State} (hK : Keeps ρ s) :
    OutKeeps ρ (execModeDeadline s) := by
  unfold execModeDeadline
  with_reducible repeat' first | assumption | apply keeps_next | apply modeDeadline_keeps

theorem execRollbackDone_keeps {ρ : State} {s : State} (hK : Keeps ρ s) :
    OutKeeps ρ (execRollbackDone s) := by
  unfold execRollbackDone
  with_reducible repeat' first
    | assumption
    | apply keeps_next
    | apply fatal_keeps
    | apply recordAbort_keeps
    | apply resumeFroze_keeps
    | split
    | intro _
    | split

theorem execFreezeTimeout_keeps {ρ : State} {inst : Inst} {s : State} (hK : Keeps ρ s) :
    OutKeeps ρ (execFreezeTimeout inst s) := by
  unfold execFreezeTimeout
  with_reducible repeat' first
    | assumption
    | apply keeps_next
    | apply freezeExpires_keeps
    | apply recordAbort_keeps
    | apply resumeFroze_keeps
    | split
    | intro _
    | split
    | dsimp only

theorem execUnitReportsClear_keeps {ρ : State} {slot : Nat} {s : State} (hK : Keeps ρ s) :
    OutKeeps ρ (execUnitReportsClear slot s) := by
  unfold execUnitReportsClear
  with_reducible repeat' first
    | assumption
    | apply keeps_next
    | apply unlessHold_keeps
    | apply settlePrep_keeps
    | apply settleFreeze_keeps
    | apply unitReportsClear_keeps
    | split

theorem execCoreRestart_keeps {ρ : State} {c : CoreId} {s : State} (hK : Keeps ρ s) :
    OutKeeps ρ (execCoreRestart c s) := by
  unfold execCoreRestart
  with_reducible repeat' first
    | assumption
    | apply keeps_next
    | apply settlePrep_keeps
    | apply settleFreeze_keeps
    | apply coreRestart_keeps
    | split
    | intro _
    | fail_if_no_progress (apply keeps_same)
    | fail_if_no_progress (apply keeps_mem)
    | split
    | dsimp only
    | refine of_some (by assumption) ?_

theorem execResetComplete_keeps {ρ : State} {inst : Inst} {s : State} (hK : Keeps ρ s) :
    OutKeeps ρ (execResetComplete inst s) := by
  unfold execResetComplete
  with_reducible repeat' first
    | assumption
    | apply keeps_next
    | apply keeps_ite
    | apply settlePrep_keeps
    | apply freezeInst_keeps
    | apply resetComplete_keeps
    | intro _
    | fail_if_no_progress (apply keeps_same)

theorem enterHold_keeps {ρ : State} {reason : Nat} {s : State} (hK : Keeps ρ s) :
    Keeps ρ (enterHold reason s) := by
  unfold enterHold
  with_reducible repeat' first
    | assumption
    | apply taskMod_keeps
    | apply leaveRunning_keeps
    | apply odSet_keeps
    | apply wakeChannels_keeps
    | apply rasEvent_keeps
    | apply fatal_keeps
    | apply keeps_ite
    | apply keeps_foldl
    | intro _
    | fail_if_no_progress (apply keeps_same)
    | fail_if_no_progress (apply keeps_mem)
    | split
    | dsimp only
    | refine of_some (by assumption) ?_

theorem execHoldEntry_keeps {ρ : State} {s : State} (hK : Keeps ρ s) :
    OutKeeps ρ (execHoldEntry s) := by
  unfold execHoldEntry
  with_reducible repeat' first
    | assumption
    | apply keeps_next
    | apply keeps_ite
    | apply enterHold_keeps
    | intro _
    | split

theorem execSupplyOutOfSpec_keeps {ρ : State} {s : State} (hK : Keeps ρ s) :
    OutKeeps ρ (execSupplyOutOfSpec s) := by
  unfold execSupplyOutOfSpec
  with_reducible repeat' first | assumption | apply keeps_next | apply keeps_ite | apply fatal_keeps | intro _

theorem execTemperatureOutOfSpec_keeps {ρ : State} {sensor : Bool} {s : State} (hK : Keeps ρ s) :
    OutKeeps ρ (execTemperatureOutOfSpec sensor s) := by
  unfold execTemperatureOutOfSpec
  with_reducible repeat' first | assumption | apply keeps_next | apply keeps_ite | apply fatal_keeps | intro _

theorem execJournalEccError_keeps {ρ : State} {s : State} (hK : Keeps ρ s) :
    OutKeeps ρ (execJournalEccError s) := by
  unfold execJournalEccError
  with_reducible repeat' first | assumption | apply keeps_next | apply keeps_ite | apply fatal_keeps | intro _

theorem execFirmwareFault_keeps {ρ : State} {s : State} (hK : Keeps ρ s) :
    OutKeeps ρ (execFirmwareFault s) := by
  unfold execFirmwareFault
  with_reducible repeat' first | assumption | apply keeps_next | apply keeps_ite | apply fatal_keeps | intro _

theorem readSensor_keeps {ρ : State} {i : Nat} {v : Option Int} {s : State} (hK : Keeps ρ s) :
    Keeps ρ (readSensor i v s) := by
  unfold readSensor
  with_reducible repeat' first
    | assumption
    | apply odSet_keeps
    | apply keeps_ite
    | apply fatal_keeps
    | intro _
    | fail_if_no_progress (apply keeps_same)
    | split

theorem readPower_keeps {ρ : State} {p : Nat} {u : Nat} {acts : List Nat} {s : State} (hK : Keeps ρ s) :
    Keeps ρ (readPower p u acts s) := by
  unfold readPower
  with_reducible repeat' first
    | assumption
    | apply odSet_keeps
    | apply odBump_keeps
    | apply keeps_ite
    | apply keeps_foldl
    | intro _
    | fail_if_no_progress (apply keeps_same)
    | fail_if_no_progress (apply keeps_mem)
    | split
    | dsimp only
    | refine of_some (by assumption) ?_

theorem execSensorPoll_keeps {ρ : State} {temps : List (Option Int)} {package : Nat} {uncore : Nat} {zones : List Nat} {factor : Nat} {s : State} (hK : Keeps ρ s) :
    OutKeeps ρ (execSensorPoll temps package uncore zones factor s) := by
  unfold execSensorPoll
  with_reducible repeat' first
    | assumption
    | apply keeps_next
    | apply keeps_ite
    | apply odSet_keeps
    | apply readPower_keeps
    | apply keeps_foldl
    | apply readSensor_keeps
    | intro _

end Sys2Proof.Machine
end

