-- ==== Sys2Proof/Laws/KeepsTwin.lean ====
section
/-! SUPPORT. Every operation keeps the queue and the soundness of the state: the twin pair, dictionary writes and start-up. -/

namespace Sys2Proof.Machine

/-! ### Twin.lean -/

theorem sendFlit_keeps {ρ : State} {type : Nat} {payload : List Byte} {s : State} (hK : Keeps ρ s) :
    Keeps ρ (sendFlit type payload s) := by
  unfold sendFlit
  with_reducible repeat' first | assumption | apply emit_keeps | intro _

theorem sendClaim_keeps {ρ : State} {s : State} (hK : Keeps ρ s) :
    Keeps ρ (sendClaim s) := by
  unfold sendClaim
  with_reducible repeat' first | assumption | apply emit_keeps | intro _

theorem takeLead_keeps {ρ : State} {e : Nat} {s : State} (hK : Keeps ρ s) :
    Keeps ρ (takeLead e s) := by
  unfold takeLead
  with_reducible repeat' first
    | assumption
    | apply odSet_keeps
    | apply sendClaim_keeps
    | apply twMod_keeps
    | intro _
    | fail_if_no_progress (apply keeps_same)
    | fail_if_no_progress (apply keeps_mem)
    | dsimp only

theorem claimLead_keeps {ρ : State} {s : State} (hK : Keeps ρ s) :
    Keeps ρ (claimLead s) := by
  unfold claimLead
  with_reducible repeat' first
    | assumption
    | apply mirror_keeps
    | apply twMod_keeps
    | apply takeLead_keeps
    | apply keeps_ite
    | intro _
    | fail_if_no_progress (apply keeps_same)
    | fail_if_no_progress (apply keeps_mem)
    | split
    | dsimp only

theorem claimSecured_keeps {ρ : State} {s : State} (hK : Keeps ρ s) :
    Keeps ρ (claimSecured s) := by
  unfold claimSecured
  with_reducible repeat' first
    | assumption
    | apply twMod_keeps
    | apply takeLead_keeps
    | apply keeps_ite
    | intro _
    | fail_if_no_progress (apply keeps_same)
    | fail_if_no_progress (apply keeps_mem)
    | split
    | dsimp only
    | refine of_some (by assumption) ?_

theorem yieldLead_keeps {ρ : State} {s : State} (hK : Keeps ρ s) :
    Keeps ρ (yieldLead s) := by
  unfold yieldLead
  with_reducible repeat' first
    | assumption
    | apply odSet_keeps
    | apply twMod_keeps
    | intro _
    | fail_if_no_progress (apply keeps_same)
    | fail_if_no_progress (apply keeps_mem)
    | dsimp only

theorem leadAfterLoss_keeps {ρ : State} {starting : Bool} {s : State} (hK : Keeps ρ s) :
    Keeps ρ (leadAfterLoss starting s) := by
  unfold leadAfterLoss
  with_reducible repeat' first
    | assumption
    | apply keeps_ite
    | apply claimLead_keeps
    | apply yieldLead_keeps
    | apply twMod_keeps
    | intro _

theorem claimArrives_keeps {ρ : State} {m : ClaimMsg} {s : State} (hK : Keeps ρ s) :
    Keeps ρ (claimArrives m s) := by
  unfold claimArrives
  with_reducible repeat' first
    | assumption
    | apply keeps_ite
    | apply odBump_keeps
    | apply twMod_keeps
    | apply yieldLead_keeps
    | intro _

theorem settlePending_keeps {ρ : State} {s : State} (hK : Keeps ρ s) :
    Keeps ρ (settlePending s) := by
  unfold settlePending
  with_reducible repeat' first | assumption | apply keeps_foldl | apply acceptByPolicy_keeps | intro _

theorem endMirrorWaits_keeps {ρ : State} {s : State} (hK : Keeps ρ s) :
    Keeps ρ (endMirrorWaits s) := by
  unfold endMirrorWaits
  with_reducible repeat' first
    | assumption
    | apply twMod_keeps
    | intro _
    | fail_if_no_progress (apply keeps_same)
    | fail_if_no_progress (apply keeps_mem)
    | split
    | dsimp only
    | refine of_some (by assumption) ?_

theorem declareLoss_keeps {ρ : State} {s : State} (hK : Keeps ρ s) :
    Keeps ρ (declareLoss s) := by
  unfold declareLoss
  with_reducible repeat' first
    | assumption
    | apply twMod_keeps
    | apply odSet_keeps
    | apply odBump_keeps
    | apply leadAfterLoss_keeps
    | apply settlePending_keeps
    | apply endMirrorWaits_keeps
    | apply keeps_ite
    | intro _
    | fail_if_no_progress (apply keeps_same)
    | fail_if_no_progress (apply keeps_mem)
    | split
    | dsimp only

theorem linkDown_keeps {ρ : State} {s : State} (hK : Keeps ρ s) :
    Keeps ρ (linkDown s) := by
  unfold linkDown
  with_reducible repeat' first
    | assumption
    | apply twMod_keeps
    | apply setKolfer_keeps
    | apply keeps_ite
    | intro _
    | fail_if_no_progress (apply keeps_same)
    | fail_if_no_progress (apply keeps_mem)
    | split

theorem ackArrives_keeps {ρ : State} {ack : Nat} {s : State} (hK : Keeps ρ s) :
    Keeps ρ (ackArrives ack s) := by
  unfold ackArrives
  with_reducible repeat' first | assumption | apply flushMirror_keeps | apply twMod_keeps | split

theorem sendNak_keeps {ρ : State} {s : State} (hK : Keeps ρ s) :
    Keeps ρ (sendNak s) := by
  unfold sendNak
  with_reducible repeat' first
    | assumption
    | apply sendFlit_keeps
    | apply twMod_keeps
    | apply keeps_ite
    | intro _
    | fail_if_no_progress (apply keeps_same)
    | fail_if_no_progress (apply keeps_mem)
    | split

theorem resendFlits_keeps {ρ : State} {s : State} (hK : Keeps ρ s) :
    Keeps ρ (resendFlits s) := by
  unfold resendFlits
  with_reducible repeat' first | assumption | apply emit_keeps | apply keeps_foldl | intro _ | dsimp only

theorem replayAll_keeps {ρ : State} {s : State} (hK : Keeps ρ s) :
    Keeps ρ (replayAll s) := by
  unfold replayAll
  with_reducible repeat' first
    | assumption
    | apply resendFlits_keeps
    | apply odBump_keeps
    | apply odSet_keeps
    | apply twMod_keeps
    | apply keeps_ite
    | intro _
    | fail_if_no_progress (apply keeps_same)
    | fail_if_no_progress (apply keeps_mem)
    | split
    | dsimp only

theorem badFlit_keeps {ρ : State} {s : State} (hK : Keeps ρ s) :
    Keeps ρ (badFlit s) := by
  unfold badFlit
  with_reducible repeat' first
    | assumption
    | apply odBump_keeps
    | apply sendNak_keeps
    | apply keeps_ite
    | intro _
    | split
    | dsimp only

theorem execDataFlit_keeps {ρ : State} {flit : Flit} {s : State} (hK : Keeps ρ s) :
    OutKeeps ρ (execDataFlit flit s) := by
  unfold execDataFlit
  with_reducible repeat' first
    | assumption
    | apply keeps_next
    | apply badFlit_keeps
    | apply sendNak_keeps
    | apply ackArrives_keeps
    | apply sendFlit_keeps
    | apply twMod_keeps
    | split
    | intro _
    | fail_if_no_progress (apply keeps_same)
    | fail_if_no_progress (apply keeps_mem)
    | split
    | dsimp only

theorem execIdleFlit_keeps {ρ : State} {crcOk : Bool} {ack : Nat} {s : State} (hK : Keeps ρ s) :
    OutKeeps ρ (execIdleFlit crcOk ack s) := by
  unfold execIdleFlit
  with_reducible repeat' first
    | assumption
    | apply keeps_next
    | apply keeps_ite
    | apply badFlit_keeps
    | apply ackArrives_keeps
    | intro _

theorem execNakFlit_keeps {ρ : State} {crcOk : Bool} {ack : Nat} {s : State} (hK : Keeps ρ s) :
    OutKeeps ρ (execNakFlit crcOk ack s) := by
  unfold execNakFlit
  with_reducible repeat' first
    | assumption
    | apply keeps_next
    | apply keeps_ite
    | apply badFlit_keeps
    | apply ackArrives_keeps
    | apply replayAll_keeps
    | intro _

theorem execReplayTimeout_keeps {ρ : State} {s : State} (hK : Keeps ρ s) :
    OutKeeps ρ (execReplayTimeout s) := by
  unfold execReplayTimeout
  with_reducible repeat' first | assumption | apply keeps_next | apply keeps_ite | apply replayAll_keeps | intro _

theorem execTrainAttempt_keeps {ρ : State} {signal : Bool} {s : State} (hK : Keeps ρ s) :
    OutKeeps ρ (execTrainAttempt signal s) := by
  unfold execTrainAttempt
  with_reducible repeat' first | assumption | apply keeps_next | apply keeps_ite | apply odSet_keeps | intro _

theorem linkTrained_keeps {ρ : State} {lanes : Nat} {s : State} (hK : Keeps ρ s) :
    Keeps ρ (linkTrained lanes s) := by
  unfold linkTrained
  with_reducible repeat' first
    | assumption
    | apply setKolfer_keeps
    | apply flushMirror_keeps
    | apply keeps_ite
    | intro _
    | split

theorem execTrainDone_keeps {ρ : State} {lanes : BitVec 8} {s : State} (hK : Keeps ρ s) :
    OutKeeps ρ (execTrainDone lanes s) := by
  unfold execTrainDone
  with_reducible repeat' first
    | assumption
    | apply keeps_next
    | apply linkTrained_keeps
    | apply linkDown_keeps
    | split
    | intro _
    | split

theorem execRetrainDone_keeps {ρ : State} {ok : Bool} {s : State} (hK : Keeps ρ s) :
    OutKeeps ρ (execRetrainDone ok s) := by
  unfold execRetrainDone
  with_reducible repeat' first
    | assumption
    | apply keeps_next
    | apply linkDown_keeps
    | apply setKolfer_keeps
    | apply resendFlits_keeps
    | apply odSet_keeps
    | apply flushMirror_keeps
    | split
    | intro _
    | split
    | dsimp only

theorem orphanOne_keeps {ρ : State} {sh : Shadow} {b : List Byte} {s : State} (hK : Keeps ρ s) :
    Keeps ρ ((orphanOne sh b s).2.2) := by
  unfold orphanOne
  with_reducible repeat' first
    | assumption
    | apply keeps_retire
    | apply keeps_jump
    | apply keeps_trap
    | apply keeps_wait
    | apply odBump_keeps
    | apply sendItem_keeps
    | apply hostWrite_keeps
    | apply keeps_ite
    | intro _
    | fail_if_no_progress (apply keeps_same)
    | fail_if_no_progress (apply keeps_mem)
    | split
    | dsimp only
    | refine of_pair (by assumption) ?_
    | refine of_some (by assumption) ?_
    | apply keeps_ite_end

theorem orphanSq_keeps {ρ : State} {bs : List (List Byte)} {x : Shadow × State} (h : Keeps ρ x.2) :
    Keeps ρ (orphanSq bs x).2 := by
  induction bs generalizing x with
  | nil => exact h
  | cons b rest ih =>
    obtain ⟨sh, s⟩ := x
    have hk := orphanOne_keeps (sh := sh) (b := b) h
    unfold orphanSq
    split <;> rename_i e <;> rw [e] at hk
    · exact ih hk
    · exact hk

theorem orphanAll_keeps {ρ : State} {sh : Shadow} {s : State} (h : Keeps ρ s) : Keeps ρ (orphanAll sh s).2 := by
  unfold orphanAll
  exact foldl_keeps (p := fun x : Shadow × State => Keeps ρ x.2) _ h fun b a hb => orphanSq_keeps hb

theorem postOrphans_keeps {ρ : State} {s : State} (hK : Keeps ρ s) :
    Keeps ρ (postOrphans s) := by
  unfold postOrphans
  with_reducible repeat' first | assumption | apply odSet_keeps | apply twMod_keeps | apply orphanAll_keeps | split

theorem beginOrphaning_keeps {ρ : State} {s : State} (hK : Keeps ρ s) :
    Keeps ρ (beginOrphaning s) := by
  unfold beginOrphaning
  with_reducible repeat' first
    | assumption
    | apply postEvent_keeps
    | apply twMod_keeps
    | apply postOrphans_keeps
    | apply keeps_ite
    | intro _
    | fail_if_no_progress (apply keeps_same)
    | fail_if_no_progress (apply keeps_mem)
    | split
    | dsimp only

theorem execOrphanDelay_keeps {ρ : State} {s : State} (hK : Keeps ρ s) :
    OutKeeps ρ (execOrphanDelay s) := by
  unfold execOrphanDelay
  with_reducible repeat' first
    | assumption
    | apply keeps_next
    | apply unlessHold_keeps
    | apply twMod_keeps
    | apply beginOrphaning_keeps
    | split
    | intro _
    | fail_if_no_progress (apply keeps_same)
    | fail_if_no_progress (apply keeps_mem)
    | split

theorem writeOrphanNow_keeps {ρ : State} {v : Nat} {s : State} (hK : Keeps ρ s) :
    ExKeeps (Keeps ρ) (writeOrphanNow v s) := by
  unfold writeOrphanNow
  with_reducible repeat' first
    | assumption
    | apply keeps_ite_ex
    | apply keeps_ok
    | apply beginOrphaning_keeps
    | apply keeps_error
    | intro _

theorem writeOrphanCqHead_keeps {ρ : State} {value : List Byte} {s : State} (hK : Keeps ρ s) :
    ExKeeps (Keeps ρ) (writeOrphanCqHead value s) := by
  unfold writeOrphanCqHead
  with_reducible repeat' first
    | assumption
    | apply keeps_ite_ex
    | apply keeps_ok
    | apply postOrphans_keeps
    | apply twMod_keeps
    | apply keeps_error
    | intro _

theorem sendQueues_keeps {ρ : State} {n : Nat} {s : State} (hK : Keeps ρ s) :
    Keeps ρ (sendQueues n s) := by
  unfold sendQueues
  with_reducible repeat' first | assumption | apply keeps_foldl | apply mirror_keeps | intro _

theorem sendWhole_keeps {ρ : State} {s : State} (hK : Keeps ρ s) :
    Keeps ρ (sendWhole s) := by
  unfold sendWhole
  with_reducible repeat' first
    | assumption
    | apply keeps_foldl
    | apply sendQueues_keeps
    | apply sendPlaced_keeps
    | apply keeps_ite
    | apply mirror_keeps
    | intro _

theorem sendFloors_keeps {ρ : State} {s : State} (hK : Keeps ρ s) :
    Keeps ρ (sendFloors s) := by
  unfold sendFloors
  with_reducible repeat' first
    | assumption
    | apply sendPlaced_keeps
    | apply keeps_foldl
    | apply mirror_keeps
    | intro _

theorem handBack_keeps {ρ : State} {s : State} (hK : Keeps ρ s) :
    Keeps ρ (handBack s) := by
  unfold handBack
  with_reducible repeat' first | assumption | apply keeps_foldl | apply sendItem_keeps | apply keeps_ite | intro _

theorem enterSync_keeps {ρ : State} {hb : HeartBeat} {s : State} (hK : Keeps ρ s) :
    Keeps ρ (enterSync hb s) := by
  unfold enterSync
  with_reducible repeat' first
    | assumption
    | apply sendFloors_keeps
    | apply keeps_ite
    | apply sendWhole_keeps
    | apply twMod_keeps
    | apply odSet_keeps
    | apply handBack_keeps
    | apply postOrphans_keeps
    | apply orphanAll_keeps
    | apply postEvent_keeps
    | intro _

theorem raiseFloor_keeps {ρ : State} {p : Nat} {c : Nat} {s : State} (hK : Keeps ρ s) :
    Keeps ρ (raiseFloor p c s) := by
  unfold raiseFloor
  with_reducible repeat' first | assumption | apply odSet_keeps | apply keeps_ite | intro _ | split | dsimp only

theorem adoptFloors_keeps {ρ : State} {s : State} (hK : Keeps ρ s) :
    Keeps ρ (adoptFloors s) := by
  unfold adoptFloors
  with_reducible repeat' first
    | assumption
    | apply raiseFloor_keeps
    | apply odSet_keeps
    | apply keeps_ite
    | apply keeps_foldl
    | intro _
    | split
    | dsimp only

theorem syncComplete_keeps {ρ : State} {s : State} (hK : Keeps ρ s) :
    Keeps ρ (syncComplete s) := by
  unfold syncComplete
  with_reducible repeat' first
    | assumption
    | apply keeps_ite
    | apply claimLead_keeps
    | apply keeps_foldl
    | apply twMod_keeps
    | apply odSet_keeps
    | apply adoptFloors_keeps
    | apply sendWhole_keeps
    | apply sendEntry_keeps
    | intro _

theorem execSyncComplete_keeps {ρ : State} {s : State} (hK : Keeps ρ s) :
    OutKeeps ρ (execSyncComplete s) := by
  unfold execSyncComplete
  with_reducible repeat' first | assumption | apply keeps_next | apply syncComplete_keeps

theorem execHeartbeatSend_keeps {ρ : State} {s : State} (hK : Keeps ρ s) :
    OutKeeps ρ (execHeartbeatSend s) := by
  unfold execHeartbeatSend
  with_reducible repeat' first
    | assumption
    | apply keeps_next
    | apply sendFlit_keeps
    | apply twMod_keeps
    | split
    | intro _
    | fail_if_no_progress (apply keeps_same)
    | fail_if_no_progress (apply keeps_mem)
    | split

theorem heartbeatValid_keeps {ρ : State} {hb : HeartBeat} {s : State} (hK : Keeps ρ s) :
    Keeps ρ (heartbeatValid hb s) := by
  unfold heartbeatValid
  with_reducible repeat' first
    | assumption
    | apply odSet_keeps
    | apply twMod_keeps
    | apply yieldLead_keeps
    | apply declareLoss_keeps
    | apply enterSync_keeps
    | apply keeps_ite
    | intro _
    | fail_if_no_progress (apply keeps_same)
    | fail_if_no_progress (apply keeps_mem)
    | split
    | dsimp only

theorem execHeartbeat_keeps {ρ : State} {hb : HeartBeat} {s : State} (hK : Keeps ρ s) :
    OutKeeps ρ (execHeartbeat hb s) := by
  unfold execHeartbeat
  with_reducible repeat' first
    | assumption
    | apply keeps_next
    | apply ackArrives_keeps
    | apply badFlit_keeps
    | apply odBump_keeps
    | apply declareLoss_keeps
    | apply heartbeatValid_keeps
    | split
    | intro _
    | split
    | dsimp only

theorem execTwinLoss_keeps {ρ : State} {s : State} (hK : Keeps ρ s) :
    OutKeeps ρ (execTwinLoss s) := by
  unfold execTwinLoss
  with_reducible repeat' first | assumption | apply keeps_next | apply declareLoss_keeps | split | intro _ | split

theorem execLinkWait_keeps {ρ : State} {s : State} (hK : Keeps ρ s) :
    OutKeeps ρ (execLinkWait s) := by
  unfold execLinkWait
  with_reducible repeat' first
    | assumption
    | apply keeps_next
    | apply keeps_ite
    | apply leadAfterLoss_keeps
    | apply settlePending_keeps
    | apply odSet_keeps
    | apply twMod_keeps
    | intro _

theorem execClaimMsg_keeps {ρ : State} {msg : ClaimMsg} {s : State} (hK : Keeps ρ s) :
    OutKeeps ρ (execClaimMsg msg s) := by
  unfold execClaimMsg
  with_reducible repeat' first | assumption | apply keeps_next | apply keeps_ite | apply claimArrives_keeps | intro _

theorem execClaimRepeat_keeps {ρ : State} {s : State} (hK : Keeps ρ s) :
    OutKeeps ρ (execClaimRepeat s) := by
  unfold execClaimRepeat
  with_reducible repeat' first
    | assumption
    | apply keeps_next
    | apply sendClaim_keeps
    | apply twMod_keeps
    | split
    | intro _
    | fail_if_no_progress (apply keeps_same)
    | fail_if_no_progress (apply keeps_mem)
    | split

theorem execClaimWait_keeps {ρ : State} {s : State} (hK : Keeps ρ s) :
    OutKeeps ρ (execClaimWait s) := by
  unfold execClaimWait
  with_reducible repeat' first | assumption | apply keeps_next | apply keeps_ite | apply claimLead_keeps | intro _

theorem execSwitchOverEnd_keeps {ρ : State} {s : State} (hK : Keeps ρ s) :
    OutKeeps ρ (execSwitchOverEnd s) := by
  unfold execSwitchOverEnd
  with_reducible repeat' first | assumption | apply keeps_next | apply twMod_keeps

theorem rebuildJob_keeps {ρ : State} {b : List Byte} {s : State} (hK : Keeps ρ s) :
    Keeps ρ (rebuildJob b s) := by
  unfold rebuildJob
  with_reducible repeat' first
    | assumption
    | apply sqMod_keeps
    | apply odSet_keeps
    | apply jobMod_keeps
    | apply cancelActs_keeps
    | apply keeps_ite
    | intro _
    | fail_if_no_progress (apply keeps_same)
    | fail_if_no_progress (apply keeps_mem)
    | split
    | dsimp only
    | refine of_some (by assumption) ?_

theorem applyBack_keeps {ρ : State} {r : MRec} {s : State} (hK : Keeps ρ s) :
    Keeps ρ (applyBack r s) := by
  unfold applyBack
  with_reducible repeat' first
    | assumption
    | apply odSet_keeps
    | apply keeps_foldl
    | apply keeps_ite
    | apply instMod_keeps
    | apply rebuildJob_keeps
    | apply freeEntry_keeps
    | intro _
    | split

/-! ### DictRules.lean -/

theorem storeEntry_keeps {ρ : State} {idx : Nat} {sub : Nat} {v : Nat} {s : State} (hK : Keeps ρ s) :
    ExKeeps (Keeps ρ) (storeEntry idx sub v s) := by
  unfold storeEntry
  with_reducible repeat' first | assumption | apply keeps_ok | apply odSet_keeps

theorem startInvalidate_keeps {ρ : State} {n : Nat} {start : Nat} {len : Nat} {s : State} (hK : Keeps ρ s) :
    Keeps ρ (startInvalidate n start len s) := by
  unfold startInvalidate
  with_reducible repeat' first | assumption | fail_if_no_progress (apply keeps_mem)

theorem writeInvalidate_keeps {ρ : State} {v : List Byte} {s : State} (hK : Keeps ρ s) :
    ExKeeps (Keeps ρ) (writeInvalidate v s) := by
  unfold writeInvalidate
  with_reducible repeat' first
    | assumption
    | apply keeps_ite_ex
    | apply keeps_error
    | apply keeps_ok
    | apply startInvalidate_keeps
    | intro _

theorem writeRoot_keeps {ρ : State} {n : Nat} {v : Nat} {s : State} (hK : Keeps ρ s) :
    ExKeeps (Keeps ρ) (writeRoot n v s) := by
  unfold writeRoot
  with_reducible repeat' first
    | assumption
    | apply keeps_ite_ex
    | apply keeps_error
    | apply keeps_ok
    | apply startInvalidate_keeps
    | apply odSet_keeps
    | intro _

theorem writeFaultQueue_keeps {ρ : State} {n : Nat} {sub : Nat} {v : Nat} {s : State} (hK : Keeps ρ s) :
    ExKeeps (Keeps ρ) (writeFaultQueue n sub v s) := by
  unfold writeFaultQueue
  with_reducible repeat' first
    | assumption
    | apply keeps_ite_ex
    | apply keeps_error
    | apply keeps_ok
    | apply odSet_keeps
    | apply instMod_keeps
    | intro _

theorem writeSpillPool_keeps {ρ : State} {n : Nat} {v : Nat} {s : State} (hK : Keeps ρ s) :
    ExKeeps (Keeps ρ) (writeSpillPool n v s) := by
  unfold writeSpillPool
  with_reducible repeat' first
    | assumption
    | apply keeps_ite_ex
    | apply keeps_ok
    | apply odSet_keeps
    | apply keeps_error
    | intro _

theorem writeRing_keeps {ρ : State} {n : Nat} {sub : Nat} {v : Nat} {s : State} (hK : Keeps ρ s) :
    ExKeeps (Keeps ρ) (writeRing n sub v s) := by
  unfold writeRing
  with_reducible repeat' first
    | assumption
    | apply keeps_ite_ex
    | apply keeps_error
    | apply keeps_ok
    | apply odSet_keeps
    | apply keeps_ite
    | apply instMod_keeps
    | intro _

theorem writeLifecycle_keeps {ρ : State} {n : Nat} {v : Nat} {s : State} (hK : Keeps ρ s) :
    ExKeeps (Keeps ρ) (writeLifecycle n v s) := by
  unfold writeLifecycle
  with_reducible repeat' first
    | assumption
    | apply createInst_keeps
    | apply destroyInst_keeps
    | apply restoreInst_keeps
    | apply keeps_error
    | split

theorem writeControl_keeps {ρ : State} {n : Nat} {v : Nat} {s : State} (hK : Keeps ρ s) :
    ExKeeps (Keeps ρ) (writeControl n v s) := by
  unfold writeControl
  with_reducible repeat' first
    | assumption
    | apply controlReset_keeps
    | apply controlFreeze_keeps
    | apply controlResume_keeps
    | apply keeps_error
    | split

theorem writeInst_keeps {ρ : State} {n : Nat} {sub : Nat} {v : Nat} {s : State} (h : Keeps ρ s) :
    ExKeeps (Keeps ρ) (writeInst n sub v s) := by
  have hs := fun i => storeEntry_keeps (idx := i) (sub := sub) (v := v) h
  unfold writeInst
  dsimp only
  split
  case h_1 => exact writeLifecycle_keeps h
  case h_2 => exact writeControl_keeps h
  all_goals first
    | exact hs _
    | exact writeSpillPool_keeps h
    | exact writeRing_keeps h
    | exact writeRrHead_keeps h
    | exact writeRoot_keeps h
    | exact writeFaultQueue_keeps h
    | exact writeLogControl_keeps h
    | exact keeps_ite_ex (fun _ => keeps_error) fun _ => hs _
    | exact keeps_ite_ex (fun _ => keeps_error) fun _ => keeps_ite_ex (fun _ => keeps_error) fun _ => hs _

theorem writePower_keeps {ρ : State} {idx : Nat} {sub : Nat} {v : Nat} {s : State} (hK : Keeps ρ s) :
    ExKeeps (Keeps ρ) (writePower idx sub v s) := by
  unfold writePower
  with_reducible repeat' first
    | assumption
    | apply keeps_ite_ex
    | apply storeEntry_keeps
    | apply keeps_error
    | intro _
    | split

theorem writeFill_keeps {ρ : State} {sub : Nat} {v : Nat} {s : State} (hK : Keeps ρ s) :
    ExKeeps (Keeps ρ) (writeFill sub v s) := by
  unfold writeFill
  with_reducible repeat' first
    | assumption
    | apply keeps_ite_ex
    | apply keeps_error
    | apply storeEntry_keeps
    | intro _

theorem writeCluster_keeps {ρ : State} {k : Nat} {sub : Nat} {v : Nat} {s : State} (hK : Keeps ρ s) :
    ExKeeps (Keeps ρ) (writeCluster k sub v s) := by
  unfold writeCluster
  with_reducible repeat' first
    | assumption
    | apply keeps_ite_ex
    | apply keeps_ok
    | apply l2EnableWrite_keeps
    | apply keeps_error
    | apply prefetchWrite_keeps
    | intro _
    | split
    | refine of_some (by assumption) ?_

theorem writeWindow_keeps {ρ : State} {l : Nat} {sub : Nat} {v : Nat} {s : State} (hK : Keeps ρ s) :
    ExKeeps (Keeps ρ) (writeWindow l sub v s) := by
  unfold writeWindow
  with_reducible repeat' first
    | assumption
    | apply keeps_ite_ex
    | apply keeps_error
    | apply storeEntry_keeps
    | intro _

theorem releaseResource_keeps {ρ : State} {r : Nat} {s : State} (hK : Keeps ρ s) :
    Keeps ρ (releaseResource r s) := by
  unfold releaseResource
  with_reducible repeat' first
    | assumption
    | apply keeps_ite
    | apply odSet_keeps
    | intro _
    | fail_if_no_progress (apply keeps_same)

theorem takeResource_keeps {ρ : State} {r : Nat} {f : Nat} {h : Nat} {s : State} (hK : Keeps ρ s) :
    Keeps ρ (takeResource r f h s) := by
  unfold takeResource
  with_reducible repeat' first | assumption | apply keeps_ite | apply odSet_keeps | intro _

theorem writeClaim_keeps {ρ : State} {r : Nat} {v : List Byte} {s : State} (hK : Keeps ρ s) :
    ExKeeps (Keeps ρ) (writeClaim r v s) := by
  unfold writeClaim
  with_reducible repeat' first
    | assumption
    | apply keeps_ite_ex
    | apply keeps_error
    | apply keeps_ok
    | apply releaseResource_keeps
    | apply takeResource_keeps
    | intro _

theorem writeTimer_keeps {ρ : State} {k : Nat} {sub : Nat} {v : Nat} {s : State} (hK : Keeps ρ s) :
    ExKeeps (Keeps ρ) (writeTimer k sub v s) := by
  unfold writeTimer
  with_reducible repeat' first
    | assumption
    | apply keeps_ite_ex
    | apply keeps_error
    | apply storeEntry_keeps
    | apply keeps_ok
    | intro _
    | fail_if_no_progress (apply keeps_same)

theorem execTimerExpiry_keeps {ρ : State} {timer : Fin 6} {s : State} (hK : Keeps ρ s) :
    OutKeeps ρ (execTimerExpiry timer s) := by
  unfold execTimerExpiry
  with_reducible repeat' first
    | assumption
    | apply keeps_next
    | apply setFlagsWhere_keeps
    | apply odBump_keeps
    | fail_if_no_progress (apply keeps_same)
    | split

theorem writeMap_keeps {ρ : State} {sub : Nat} {v : Nat} {s : State} (hK : Keeps ρ s) :
    ExKeeps (Keeps ρ) (writeMap sub v s) := by
  unfold writeMap
  with_reducible repeat' first
    | assumption
    | apply keeps_ite_ex
    | apply storeEntry_keeps
    | apply keeps_error
    | intro _
    | split

theorem setPolicy_keeps {ρ : State} {v : Nat} {s : State} (hK : Keeps ρ s) :
    Keeps ρ (setPolicy v s) := by
  unfold setPolicy
  with_reducible repeat' first | assumption | apply settlePending_keeps | apply odSet_keeps

theorem writeOwnerKey_keeps {ρ : State} {v : List Byte} {s : State} (hK : Keeps ρ s) :
    ExKeeps (Keeps ρ) (writeOwnerKey v s) := by
  unfold writeOwnerKey
  with_reducible repeat' first
    | assumption
    | exact keeps_error
    | apply keeps_ok
    | apply odSet_keeps
    | apply keeps_ite_ex
    | intro _
    | fail_if_no_progress (apply keeps_same)
    | fail_if_no_progress (apply keeps_mem)
    | split
    | dsimp only
    | refine of_did (by assumption) ?_
    | refine of_ok (by assumption) ?_
    | refine of_some (by assumption) ?_
    | refine of_threw (by assumption) ?_

theorem writeDigestFuse_keeps {ρ : State} {v : List Byte} {s : State} (hK : Keeps ρ s) :
    ExKeeps (Keeps ρ) (writeDigestFuse v s) := by
  unfold writeDigestFuse
  with_reducible repeat' first
    | assumption
    | exact keeps_error
    | apply keeps_ok
    | apply keeps_ite_ex
    | intro _
    | fail_if_no_progress (apply keeps_same)
    | fail_if_no_progress (apply keeps_mem)
    | split
    | refine of_did (by assumption) ?_
    | refine of_threw (by assumption) ?_

theorem writePort_keeps {ρ : State} {v : Nat} {s : State} (hK : Keeps ρ s) :
    ExKeeps (Keeps ρ) (writePort v s) := by
  unfold writePort
  with_reducible repeat' first
    | assumption
    | exact keeps_error
    | apply keeps_ok
    | apply odSet_keeps
    | intro _
    | fail_if_no_progress (apply keeps_same)
    | fail_if_no_progress (apply keeps_mem)
    | dsimp only
    | refine of_did (by assumption) ?_

theorem applyWrite_keeps {ρ : State} {e : Entry} {idx : Nat} {sub : Nat} {bytes : List Byte} {s : State} (hK : Keeps ρ s) :
    ExKeeps (Keeps ρ) (applyWrite e idx sub bytes s) := by
  unfold applyWrite
  with_reducible repeat' first
    | assumption
    | exact keeps_error
    | apply keeps_ok
    | apply writeInst_keeps
    | apply mirror_keeps
    | apply writeCluster_keeps
    | apply writeWindow_keeps
    | apply writeClaim_keeps
    | apply writeTimer_keeps
    | apply writeZonePower_keeps
    | apply writeMoveBack_keeps
    | apply writePort_keeps
    | apply writeMap_keeps
    | apply writeOwnerKey_keeps
    | apply writeDigestFuse_keeps
    | apply writeTarget_keeps
    | apply writePower_keeps
    | apply writeInvalidate_keeps
    | apply setPolicy_keeps
    | apply writeOrphanNow_keeps
    | apply writeOrphanCqHead_keeps
    | apply writeFill_keeps
    | apply storeEntry_keeps
    | apply keeps_ite_ex
    | intro _
    | fail_if_no_progress (apply keeps_same)
    | fail_if_no_progress (apply keeps_mem)
    | split
    | dsimp only
    | refine of_did (by assumption) ?_
    | refine of_ok (by assumption) ?_
    | refine of_threw (by assumption) ?_

/-! ### Grist.lean -/

theorem countDigest_keeps {ρ : State} {e : Nat} {blocks : Nat} {s : State} (hK : Keeps ρ s) :
    Keeps ρ (countDigest e blocks s) := by
  unfold countDigest
  with_reducible repeat' first | assumption | apply odBump_keeps | apply odAdd_keeps

theorem writeDigest_keeps {ρ : State} {slot : Nat} {t : Task} {d : List Byte} {s : State} (hK : Keeps ρ s) :
    Keeps ρ (writeDigest slot t d s) := by
  unfold writeDigest
  with_reducible repeat' first
    | assumption
    | apply accessFailed_keeps
    | apply devWriteWhole_keeps
    | apply stageDone_keeps
    | split
    | refine of_pair (by assumption) ?_

theorem serveCtx_keeps {ρ : State} {slot : Nat} {t : Task} {s : State} (hK : Keeps ρ s) :
    Keeps ρ (serveCtx slot t s) := by
  unfold serveCtx
  with_reducible repeat' first
    | assumption
    | apply odBump_keeps
    | apply engMod_keeps
    | apply countDigest_keeps
    | apply failTask_keeps
    | apply writeDigest_keeps
    | apply keeps_ite
    | intro _
    | fail_if_no_progress (apply keeps_same)
    | fail_if_no_progress (apply keeps_mem)
    | split
    | dsimp only

theorem openCtx_keeps {ρ : State} {slot : Nat} {t : Task} {s : State} (hK : Keeps ρ s) :
    Keeps ρ (openCtx slot t s) := by
  unfold openCtx
  with_reducible repeat' first
    | assumption
    | apply odAdd_keeps
    | apply engMod_keeps
    | apply keeps_ite
    | intro _
    | fail_if_no_progress (apply keeps_same)
    | fail_if_no_progress (apply keeps_mem)
    | split
    | dsimp only

theorem runDigest_keeps {ρ : State} {slot : Nat} {t : Task} {s : State} (hK : Keeps ρ s) :
    Keeps ρ (runDigest slot t s) := by
  unfold runDigest
  with_reducible repeat' first
    | assumption
    | apply writeDigest_keeps
    | apply openCtx_keeps
    | apply takeUpTo_keeps
    | apply failTask_keeps
    | apply engMod_keeps
    | apply serveCtx_keeps
    | apply keeps_ite
    | intro _
    | fail_if_no_progress (apply keeps_same)
    | fail_if_no_progress (apply keeps_mem)
    | split
    | dsimp only
    | refine of_pair (by assumption) ?_
    | refine of_some (by assumption) ?_

theorem execDigest_keeps {ρ : State} {slot : Nat} {s : State} (hK : Keeps ρ s) :
    OutKeeps ρ (execDigest slot s) := by
  unfold execDigest
  with_reducible repeat' first | assumption | apply keeps_next | apply runStage_keeps | apply runDigest_keeps

/-! ### Boot.lean -/

theorem applySetting_keeps {ρ : State} {s : State} {r : Setting} (hK : Keeps ρ s) :
    Keeps ρ (applySetting s r) := by
  unfold applySetting
  with_reducible repeat' first
    | assumption
    | apply zonePowerTo_keeps
    | apply writeCluster_keeps
    | apply odSet_keeps
    | apply keeps_ite
    | intro _
    | fail_if_no_progress (apply keeps_same)
    | fail_if_no_progress (apply keeps_mem)
    | split
    | dsimp only
    | refine of_did (by assumption) ?_
    | refine of_ok (by assumption) ?_
    | refine of_threw (by assumption) ?_

theorem countBootKey_keeps {ρ : State} {b : List Byte} {s : State} (hK : Keeps ρ s) :
    Keeps ρ (countBootKey b s) := by
  unfold countBootKey
  with_reducible repeat' first
    | assumption
    | apply countDigest_keeps
    | apply odBump_keeps
    | apply keeps_ite
    | intro _
    | fail_if_no_progress (apply keeps_same)
    | fail_if_no_progress (apply keeps_mem)
    | split
    | dsimp only
    | refine of_some (by assumption) ?_

theorem countImageMac_keeps {ρ : State} {b : List Byte} {s : State} (hK : Keeps ρ s) :
    Keeps ρ (countImageMac b s) := by
  unfold countImageMac
  with_reducible repeat' first
    | assumption
    | apply countDigest_keeps
    | apply odBump_keeps
    | apply keeps_ite
    | intro _
    | fail_if_no_progress (apply keeps_same)
    | fail_if_no_progress (apply keeps_mem)
    | split
    | dsimp only
    | refine of_some (by assumption) ?_

theorem countImage_keeps {ρ : State} {b : List Byte} {s : State} (hK : Keeps ρ s) :
    Keeps ρ (countImage b s) := by
  unfold countImage
  with_reducible repeat' first
    | assumption
    | apply countImageMac_keeps
    | apply countBootKey_keeps
    | apply keeps_ite
    | intro _
    | split

theorem countCopies_keeps {ρ : State} {s : State} (hK : Keeps ρ s) :
    Keeps ρ (countCopies s) := by
  unfold countCopies
  with_reducible repeat' first
    | assumption
    | apply countImage_keeps
    | apply keeps_ite
    | apply keeps_foldl
    | intro _
    | split

theorem noteCopies_keeps {ρ : State} {s : State} (hK : Keeps ρ s) :
    Keeps ρ (noteCopies s) := by
  unfold noteCopies
  with_reducible repeat' first | assumption | apply odSet_keeps

theorem copySet_keeps {ρ : State} {k : Nat} {c : FlashCopy} {s : State} (hK : Keeps ρ s) :
    Keeps ρ (copySet k c s) := by
  unfold copySet
  with_reducible repeat' first | assumption | fail_if_no_progress (apply keeps_same)

theorem loadDram_keeps {ρ : State} {d : List Byte} {s : State} (hK : Keeps ρ s) :
    Keeps ρ (loadDram d s) := by
  unfold loadDram
  with_reducible repeat' first
    | assumption
    | apply odSet_keeps
    | apply keeps_foldl
    | intro _
    | fail_if_no_progress (apply keeps_same)
    | fail_if_no_progress (apply keeps_mem)
    | dsimp only

theorem setKey_keeps {ρ : State} {p : Nat} {k : List Byte} {s : State} (hK : Keeps ρ s) :
    Keeps ρ (setKey p k s) := by
  unfold setKey
  with_reducible repeat' first | assumption | apply odSet_keeps | fail_if_no_progress (apply keeps_same)

theorem loadKeys_keeps {ρ : State} {b : List Byte} {s : State} (hK : Keeps ρ s) :
    Keeps ρ (loadKeys b s) := by
  unfold loadKeys
  with_reducible repeat' first
    | assumption
    | apply keeps_ite
    | apply keeps_foldl
    | apply odSet_keeps
    | apply setKey_keeps
    | intro _

theorem loadImage_keeps {ρ : State} {b : List Byte} {s : State} (hK : Keeps ρ s) :
    Keeps ρ (loadImage b s) := by
  unfold loadImage
  with_reducible repeat' first
    | assumption
    | apply applySetting_keeps
    | apply loadDram_keeps
    | apply odSet_keeps
    | apply loadKeys_keeps
    | apply keeps_foldl
    | intro _
    | fail_if_no_progress (apply keeps_same)
    | fail_if_no_progress (apply keeps_mem)
    | dsimp only

theorem startSplitLinks_keeps {ρ : State} {s : State} (hK : Keeps ρ s) :
    Keeps ρ (startSplitLinks s) := by
  unfold startSplitLinks
  with_reducible repeat' first
    | assumption
    | apply odSet_keeps
    | apply keeps_ite
    | apply keeps_foldl
    | intro _
    | split

theorem chooseCopy_keeps {ρ : State} {s : State} (hK : Keeps ρ s) :
    Keeps ρ (chooseCopy s) := by
  unfold chooseCopy
  with_reducible repeat' first
    | assumption
    | apply noteCopies_keeps
    | apply countCopies_keeps
    | apply odSet_keeps
    | apply startSplitLinks_keeps
    | apply loadImage_keeps
    | intro _
    | fail_if_no_progress (apply keeps_same)
    | fail_if_no_progress (apply keeps_mem)
    | split
    | dsimp only
    | refine of_some (by assumption) ?_

theorem execCopyChosen_keeps {ρ : State} {board : Option (FlashCopy × FlashCopy)} {octal : Bool} {s : State} (hK : Keeps ρ s) :
    OutKeeps ρ (execCopyChosen board octal s) := by
  unfold execCopyChosen
  with_reducible repeat' first
    | assumption
    | apply keeps_next
    | apply keeps_ite
    | apply chooseCopy_keeps
    | intro _
    | fail_if_no_progress (apply keeps_same)

theorem applyDelays_keeps {ρ : State} {d : List Byte} {spd : List Spd} {s : State} (hK : Keeps ρ s) :
    Keeps ρ (applyDelays d spd s) := by
  unfold applyDelays
  with_reducible repeat' first
    | assumption
    | apply odSet_keeps
    | apply chanMod_keeps
    | apply keeps_ite
    | apply keeps_foldl
    | intro _
    | fail_if_no_progress (apply keeps_same)
    | fail_if_no_progress (apply keeps_mem)
    | split

theorem writeControlWords_keeps {ρ : State} {d : List Byte} {s : State} (hK : Keeps ρ s) :
    Keeps ρ (writeControlWords d s) := by
  unfold writeControlWords
  with_reducible repeat' first | assumption | apply emit_keeps | apply keeps_foldl | intro _ | dsimp only

theorem execDramBringup_keeps {ρ : State} {spd : List Spd} {bad : BitVec 12} {s : State} (hK : Keeps ρ s) :
    OutKeeps ρ (execDramBringup spd bad s) := by
  unfold execDramBringup
  with_reducible repeat' first
    | assumption
    | apply keeps_next
    | apply odSet_keeps
    | apply writeControlWords_keeps
    | apply applyDelays_keeps
    | apply chanMod_keeps
    | split
    | apply keeps_foldl
    | intro _
    | fail_if_no_progress (apply keeps_same)
    | fail_if_no_progress (apply keeps_mem)
    | split
    | dsimp only

theorem execLoadEnd_keeps {ρ : State} {s : State} (hK : Keeps ρ s) :
    OutKeeps ρ (execLoadEnd s) := by
  unfold execLoadEnd
  with_reducible repeat' first
    | assumption
    | apply keeps_next
    | apply keeps_ite
    | apply odSet_keeps
    | apply twMod_keeps
    | intro _

theorem execRunEntry_keeps {ρ : State} {s : State} (hK : Keeps ρ s) :
    OutKeeps ρ (execRunEntry s) := by
  unfold execRunEntry
  with_reducible repeat' first
    | assumption
    | apply keeps_next
    | apply keeps_ite
    | apply setPorts_keeps
    | intro _
    | fail_if_no_progress (apply keeps_same)

theorem loseCaches_keeps {ρ : State} {s : State} (hK : Keeps ρ s) :
    Keeps ρ (loseCaches s) := by
  unfold loseCaches
  with_reducible repeat' first | assumption | apply l2Discard_keeps | apply keeps_foldl | intro _

theorem selfRefreshAll_keeps {ρ : State} {before : State} {s : State} (hK : Keeps ρ before) (hK1 : Keeps ρ s) :
    Keeps ρ (selfRefreshAll before s) := by
  unfold selfRefreshAll
  with_reducible repeat' first
    | assumption
    | apply odSet_keeps
    | apply keeps_ite
    | apply keeps_foldl
    | intro _
    | split

/-- A subsequence of a sorted table, or a change of values alone, is sorted. -/
theorem tsorted_keys {α β : Type} {t : Tbl α} {u : Tbl β} (h : tsorted t = true)
    (hs : (u.map (·.1)).Sublist (t.map (·.1))) : tsorted u = true := by
  have key : ∀ {γ : Type} (x : Tbl γ), tsorted x = true ↔ (x.map (·.1)).Pairwise (· < ·) := by
    intro γ x
    induction x with
    | nil => simp [tsorted]
    | cons e x ih => obtain ⟨k, v⟩ := e; simp [tsorted_cons, ih]
  exact (key u).2 (((key t).1 h).sublist hs)

theorem keptEntries_sorted {cause : Nat} {s : State} (h : tsorted s.od = true) : tsorted (keptEntries cause s) = true := by
  unfold keptEntries
  exact tsorted_keys h (List.filter_sublist.map _)

theorem afterReset_keeps {ρ : State} {cause : Nat} {s : State} (h : Keeps ρ s) : Keeps ρ (afterReset cause s) := by
  unfold afterReset
  have hl : Keeps ρ (loseCaches s) := loseCaches_keeps h
  dsimp only
  refine odSet_keeps (keeps_ite (fun _ => ?_) fun _ => selfRefreshAll_keeps h ?_)
  all_goals
    refine ⟨h.pending, h.freeCtr, fun hr => ?_⟩
    obtain ⟨h1, h2⟩ := h.sound hr
    obtain ⟨h3, -⟩ := hl.sound hr
    simp only [memOk, Bool.and_eq_true] at h1 h3
    refine ⟨?_, keptEntries_sorted h2⟩
    simp only [memOk, Bool.and_eq_true]
    exact ⟨⟨h3.1.1, h1.1.2⟩, rfl⟩

theorem deviceReset_keeps {ρ : State} {cause : Nat} {s : State} (hK : Keeps ρ s) :
    Keeps ρ (deviceReset cause s) := by
  unfold deviceReset
  with_reducible repeat' first | assumption | apply afterReset_keeps | fail_if_no_progress (apply keeps_same)

theorem execPwrgoodDeassert_keeps {ρ : State} {s : State} (hK : Keeps ρ s) :
    OutKeeps ρ (execPwrgoodDeassert s) := by
  unfold execPwrgoodDeassert
  with_reducible repeat' first
    | assumption
    | apply keeps_next
    | apply deviceReset_keeps
    | fail_if_no_progress (apply keeps_same)

theorem execPwrgoodAssert_keeps {ρ : State} {role : Fin 2} {plca : Fin 64} {s : State} (hK : Keeps ρ s) :
    OutKeeps ρ (execPwrgoodAssert role plca s) := by
  unfold execPwrgoodAssert
  with_reducible repeat' first
    | assumption
    | apply keeps_next
    | apply keeps_ite
    | apply odSet_keeps
    | apply deviceReset_keeps
    | intro _
    | fail_if_no_progress (apply keeps_same)

theorem execSysResetN_keeps {ρ : State} {low : Bool} {s : State} (hK : Keeps ρ s) :
    OutKeeps ρ (execSysResetN low s) := by
  unfold execSysResetN
  with_reducible repeat' first
    | assumption
    | apply keeps_next
    | apply keeps_ite
    | apply deviceReset_keeps
    | intro _
    | fail_if_no_progress (apply keeps_same)

theorem execWatchdogExpiry_keeps {ρ : State} {s : State} (hK : Keeps ρ s) :
    OutKeeps ρ (execWatchdogExpiry s) := by
  unfold execWatchdogExpiry
  with_reducible repeat' first | assumption | apply keeps_next | apply keeps_ite | apply deviceReset_keeps | intro _

theorem memClear_keeps {ρ s : State} {tw : TwinState} (h : Keeps ρ s) :
    Keeps ρ { s with ms := { s.ms with dram := [], poison := [], planStore := [] }, tw := tw } := by
  refine ⟨h.pending, h.freeCtr, fun hr => ?_⟩
  obtain ⟨h1, h2⟩ := h.sound hr
  simp only [memOk, Bool.and_eq_true] at h1
  refine ⟨?_, h2⟩
  simp only [memOk, Bool.and_eq_true]
  exact ⟨⟨rfl, h1.1.2⟩, h1.2⟩

theorem execFuseLoadDone_keeps {ρ : State} {fuses : Option Fuses} {errors : List FuseError} {kept : Bool} {s : State}
    (h : Keeps ρ s) : OutKeeps ρ (execFuseLoadDone fuses errors kept s) := by
  unfold execFuseLoadDone
  refine keeps_next ?_
  dsimp only
  split
  · exact h
  · refine keeps_ite (fun _ => fatal_keeps ?_) fun _ => ?_
    all_goals
      refine keeps_foldl _ (keeps_foldl _ (odSet_keeps (keeps_foldl _ (odSet_keeps (odSet_keeps (odSet_keeps ?_)))
        fun t a ht => keeps_ite (fun _ => ht) fun _ => odSet_keeps ht)) fun t a ht => odSet_keeps ht)
        fun t a ht => keeps_ite (fun _ => ht) fun _ => odSet_keeps ht
      refine keeps_ite (fun _ => odSet_keeps (twMod_keeps ?_)) fun _ =>
        memClear_keeps (s := { s with mode := .configLoad, bt := { s.bt with fuses := fuses.getD s.bt.fuses } }) ?_
      all_goals exact keeps_same h

theorem eraseMarker_keeps {ρ : State} {k : Nat} {s : State} (hK : Keeps ρ s) :
    Keeps ρ (eraseMarker k s) := by
  unfold eraseMarker
  with_reducible repeat' first
    | assumption
    | apply noteCopies_keeps
    | apply copySet_keeps
    | intro _
    | fail_if_no_progress (apply keeps_same)
    | fail_if_no_progress (apply keeps_mem)

theorem writeUpdate_keeps {ρ : State} {s : State} (hK : Keeps ρ s) :
    Keeps ρ (writeUpdate s) := by
  unfold writeUpdate
  with_reducible repeat' first | assumption | apply noteCopies_keeps | apply copySet_keeps | split

end Sys2Proof.Machine
end

