-- ==== Sys2Proof/Laws/KeepsDict.lean ====
section
/-! SUPPORT. Every operation keeps the queue and the soundness of the state: core stages, Grist, the dictionary protocol, CXL and Kiln. -/

namespace Sys2Proof.Machine

/-! ### CoreTasks.lean -/

theorem startBlob_keeps {ρ : State} {c : CoreId} {slot : Nat} {t : Task} {s : State} (h : Keeps ρ s) :
    Keeps ρ (startBlob c slot t s) := by
  unfold startBlob
  exact engMod_keeps (coreMod_keeps h fun _ _ => memPut_wf _ _ _ rfl)

theorem resumeBlob_keeps {ρ : State} {c : CoreId} {x : SavedCtx} {s : State} (hK : Keeps ρ s) :
    Keeps ρ (resumeBlob c x s) := by
  unfold resumeBlob
  with_reducible repeat' first
    | assumption
    | apply coreMod_keeps
    | intro _
    | fail_if_no_progress (apply keeps_same)
    | fail_if_no_progress (apply keeps_mem)

theorem runBlob_keeps {ρ : State} {slot : Nat} {t : Task} {s : State} (hK : Keeps ρ s) :
    Keeps ρ (runBlob slot t s) := by
  unfold runBlob
  with_reducible repeat' first
    | assumption
    | apply startBlob_keeps
    | apply resumeBlob_keeps
    | apply keeps_ite
    | intro _
    | fail_if_no_progress (apply keeps_same)
    | fail_if_no_progress (apply keeps_mem)
    | split
    | dsimp only
    | refine of_some (by assumption) ?_

theorem execUdoStage_keeps {ρ : State} {slot : Nat} {s : State} (hK : Keeps ρ s) :
    OutKeeps ρ (execUdoStage slot s) := by
  unfold execUdoStage
  with_reducible repeat' first | assumption | apply keeps_next | apply runStage_keeps | apply runBlob_keeps

theorem execExprStage_keeps {ρ : State} {slot : Nat} {s : State} (hK : Keeps ρ s) :
    OutKeeps ρ (execExprStage slot s) := by
  unfold execExprStage
  with_reducible repeat' first | assumption | apply keeps_next | apply runStage_keeps | apply runBlob_keeps

theorem freeRows_keeps {ρ : State} {w : Nat} {y0 : Nat} {y1 : State} (hK : Keeps ρ y1) :
    Keeps ρ ((freeRows w y0 y1).2) := by
  fun_induction freeRows w y0 y1
  with_reducible repeat' first
    | assumption
    | apply takeFree_keeps
    | (apply ‹∀ _, _›)
    | refine of_pair (by assumption) ?_

theorem freeVars_keeps {ρ : State} {left : Nat} {y0 : Nat} {y1 : State} (hK : Keeps ρ y1) :
    Keeps ρ ((freeVars left y0 y1).2) := by
  fun_induction freeVars left y0 y1
  with_reducible repeat' first
    | assumption
    | apply takeFree_keeps
    | intro _
    | (apply ‹∀ _, _›)
    | fail_if_no_progress (apply keeps_free)
    | dsimp only
    | refine of_pair (by assumption) ?_

theorem runCombine_keeps {ρ : State} {slot : Nat} {t : Task} {s : State} (hK : Keeps ρ s) :
    Keeps ρ (runCombine slot t s) := by
  unfold runCombine
  with_reducible repeat' first
    | assumption
    | apply takeRows_keeps
    | apply engMod_keeps
    | apply takeFree_keeps
    | apply freeVars_keeps
    | apply freeRows_keeps
    | apply stageEnds_keeps
    | apply emitRows_keeps
    | apply keeps_ite
    | intro _
    | fail_if_no_progress (apply keeps_free)
    | fail_if_no_progress (apply keeps_same)
    | fail_if_no_progress (apply keeps_mem)
    | split
    | dsimp only
    | refine of_pair (by assumption) ?_
    | refine of_some (by assumption) ?_

theorem execCombine_keeps {ρ : State} {slot : Nat} {s : State} (hK : Keeps ρ s) :
    OutKeeps ρ (execCombine slot s) := by
  unfold execCombine
  with_reducible repeat' first | assumption | apply keeps_next | apply runStage_keeps | apply runCombine_keeps

/-! ### Vdp.lean -/

theorem sendResponse_keeps {ρ : State} {src : VdpSrc} {port : Nat} {m : List Byte} {resp : List Byte} {s : State} (hK : Keeps ρ s) :
    Keeps ρ (sendResponse src port m resp s) := by
  unfold sendResponse
  with_reducible repeat' first | assumption | apply emit_keeps | intro _

theorem answerRequest_keeps {ρ : State} {src : VdpSrc} {m : List Byte} {r : Except VdpErr (List Byte)} {s : State} (hK : Keeps ρ s) :
    Keeps ρ (answerRequest src m r s) := by
  unfold answerRequest
  with_reducible repeat' first
    | assumption
    | apply odBump_keeps
    | apply sendResponse_keeps
    | apply keeps_ite
    | intro _
    | fail_if_no_progress (apply keeps_same)
    | fail_if_no_progress (apply keeps_mem)
    | split
    | dsimp only

theorem authRefused_keeps {ρ : State} {p : Nat} {s : State} (hK : Keeps ρ s) :
    Keeps ρ (authRefused p s) := by
  unfold authRefused
  with_reducible repeat' first | assumption | apply keeps_ite | apply odBump_keeps | apply rasEvent_keeps | intro _

theorem authCheck_keeps {ρ : State} {idx : Nat} {sub : Nat} {p : Nat} {ctr : Nat} {tag : List Byte} {payload : List Byte} {s : State} (hK : Keeps ρ s) :
    Keeps ρ ((authCheck idx sub p ctr tag payload s).2) := by
  unfold authCheck
  with_reducible repeat' first
    | assumption
    | apply authRefused_keeps
    | apply countDigest_keeps
    | apply odBump_keeps
    | split
    | dsimp only

theorem secure_keeps {ρ : State} {h : Held} {s : State} (hK : Keeps ρ s) :
    Keeps ρ (secure h s) := by
  unfold secure
  with_reducible repeat' first
    | assumption
    | apply keeps_ite
    | apply mirror_keeps
    | intro _
    | fail_if_no_progress (apply keeps_same)

theorem dropHeld_keeps {ρ : State} {s : State} (hK : Keeps ρ s) :
    Keeps ρ (dropHeld s) := by
  unfold dropHeld
  with_reducible repeat' first | assumption | fail_if_no_progress (apply keeps_same)

theorem startUpdate_keeps {ρ : State} {h : Held} {s : State} (hK : Keeps ρ s) :
    Keeps ρ (startUpdate h s) := by
  unfold startUpdate
  with_reducible repeat' first
    | assumption
    | apply takeResource_keeps
    | apply eraseMarker_keeps
    | apply dropHeld_keeps
    | apply answerRequest_keeps
    | apply keeps_ite
    | intro _
    | fail_if_no_progress (apply keeps_same)
    | fail_if_no_progress (apply keeps_mem)
    | split
    | dsimp only
    | refine of_some (by assumption) ?_
    | refine of_threw (by assumption) ?_

theorem finishImage_keeps {ρ : State} {payload : List Byte} {s : State} (hK : Keeps ρ s) :
    Keeps ρ ((finishImage payload s).2) := by
  unfold finishImage
  with_reducible repeat' first
    | assumption
    | apply noteCopies_keeps
    | apply releaseResource_keeps
    | apply copySet_keeps
    | apply countImage_keeps
    | apply chooseCopy_keeps
    | apply odSet_keeps
    | apply keeps_ite
    | intro _
    | split
    | dsimp only

theorem finishCritical_keeps {ρ : State} {h : Held} {s : State} (hK : Keeps ρ s) :
    Keeps ρ (finishCritical h s) := by
  unfold finishCritical
  with_reducible repeat' first
    | assumption
    | apply odSet_keeps
    | apply dropHeld_keeps
    | apply answerRequest_keeps
    | apply finishImage_keeps
    | apply applyWrite_keeps
    | apply startUpdate_keeps
    | apply deviceReset_keeps
    | apply keeps_ite
    | intro _
    | fail_if_no_progress (apply keeps_same)
    | fail_if_no_progress (apply keeps_mem)
    | split
    | dsimp only
    | refine of_pair (by assumption) ?_
    | refine of_did (by assumption) ?_
    | refine of_ok (by assumption) ?_
    | refine of_some (by assumption) ?_
    | refine of_threw (by assumption) ?_

theorem endSession_keeps {ρ : State} {k : Nat} {s : State} (hK : Keeps ρ s) :
    Keeps ρ (endSession k s) := by
  unfold endSession
  with_reducible repeat' first
    | assumption
    | apply noteCopies_keeps
    | apply releaseResource_keeps
    | apply copySet_keeps
    | apply keeps_ite
    | intro _
    | fail_if_no_progress (apply keeps_same)
    | fail_if_no_progress (apply keeps_mem)
    | split
    | dsimp only
    | refine of_some (by assumption) ?_

theorem abortSession_keeps {ρ : State} {k : Nat} {s : State} (hK : Keeps ρ s) :
    Keeps ρ (abortSession k s) := by
  unfold abortSession
  with_reducible repeat' first | assumption | apply odBump_keeps | apply endSession_keeps

theorem openSession_keeps {ρ : State} {x : Session} {s : State} (hK : Keeps ρ s) :
    Keeps ρ ((openSession x s).2) := by
  unfold openSession
  with_reducible repeat' first
    | assumption
    | apply takeResource_keeps
    | apply eraseMarker_keeps
    | apply keeps_ite
    | intro _
    | fail_if_no_progress (apply keeps_same)
    | fail_if_no_progress (apply keeps_mem)
    | split
    | dsimp only
    | refine of_did (by assumption) ?_

theorem segInit_keeps {ρ : State} {src : VdpSrc} {m : List Byte} {s : State} (hK : Keeps ρ s) :
    Keeps ρ ((segInit src m s).2) := by
  unfold segInit
  with_reducible repeat' first
    | assumption
    | apply openSession_keeps
    | apply keeps_ite
    | intro _
    | fail_if_no_progress (apply keeps_same)
    | fail_if_no_progress (apply keeps_mem)
    | split
    | dsimp only
    | refine of_pair (by assumption) ?_
    | refine of_did (by assumption) ?_
    | refine of_ok (by assumption) ?_
    | refine of_some (by assumption) ?_
    | refine of_threw (by assumption) ?_

theorem uploadSegment_keeps {ρ : State} {k : Nat} {x : Session} {off : Nat} {s : State} (hK : Keeps ρ s) :
    Keeps ρ ((uploadSegment k x off s).2) := by
  unfold uploadSegment
  with_reducible repeat' first
    | assumption
    | apply abortSession_keeps
    | apply endSession_keeps
    | apply instMod_keeps
    | split
    | dsimp only

theorem completeDownload_keeps {ρ : State} {src : VdpSrc} {m : List Byte} {k : Nat} {x : Session} {s : State} (hK : Keeps ρ s) :
    Keeps ρ ((completeDownload src m k x s).2) := by
  unfold completeDownload
  with_reducible repeat' first
    | assumption
    | apply endSession_keeps
    | apply authCheck_keeps
    | apply secure_keeps
    | apply instMod_keeps
    | fail_if_no_progress (apply keeps_same)
    | split
    | refine of_pair (by assumption) ?_

theorem segData_keeps {ρ : State} {src : VdpSrc} {m : List Byte} {s : State} (hK : Keeps ρ s) :
    Keeps ρ ((segData src m s).2) := by
  unfold segData
  with_reducible repeat' first
    | assumption
    | apply uploadSegment_keeps
    | apply abortSession_keeps
    | apply completeDownload_keeps
    | apply keeps_ite
    | intro _
    | fail_if_no_progress (apply keeps_same)
    | fail_if_no_progress (apply keeps_mem)
    | split
    | dsimp only
    | refine of_pair (by assumption) ?_
    | refine of_did (by assumption) ?_
    | refine of_ok (by assumption) ?_
    | refine of_some (by assumption) ?_
    | refine of_threw (by assumption) ?_

theorem segAbort_keeps {ρ : State} {src : VdpSrc} {m : List Byte} {s : State} (hK : Keeps ρ s) :
    Keeps ρ ((segAbort src m s).2) := by
  unfold segAbort
  with_reducible repeat' first | assumption | apply abortSession_keeps | split | dsimp only

theorem readRequest_keeps {ρ : State} {m : List Byte} {s : State} (hK : Keeps ρ s) :
    Keeps ρ ((readRequest m s).2) := by
  unfold readRequest
  with_reducible repeat' first
    | assumption
    | apply keeps_ite
    | intro _
    | fail_if_no_progress (apply keeps_free)
    | split
    | dsimp only

theorem writeRequest_keeps {ρ : State} {src : VdpSrc} {m : List Byte} {s : State} (hK : Keeps ρ s) :
    Keeps ρ ((writeRequest src m s).2) := by
  unfold writeRequest
  with_reducible repeat' first
    | assumption
    | apply authCheck_keeps
    | apply secure_keeps
    | apply applyWrite_keeps
    | apply keeps_ite
    | intro _
    | fail_if_no_progress (apply keeps_same)
    | fail_if_no_progress (apply keeps_mem)
    | split
    | dsimp only
    | refine of_pair (by assumption) ?_
    | refine of_did (by assumption) ?_
    | refine of_ok (by assumption) ?_
    | refine of_threw (by assumption) ?_

theorem carryOut_keeps {ρ : State} {src : VdpSrc} {m : List Byte} {s : State} (hK : Keeps ρ s) :
    Keeps ρ ((carryOut src m s).2) := by
  unfold carryOut
  with_reducible repeat' first
    | assumption
    | apply readRequest_keeps
    | apply writeRequest_keeps
    | apply segInit_keeps
    | apply segData_keeps
    | apply segAbort_keeps
    | split

theorem discoverPair_keeps {ρ : State} {src : VdpSrc} {m : List Byte} {s : State} (hK : Keeps ρ s) :
    Keeps ρ (discoverPair src m s) := by
  unfold discoverPair
  with_reducible repeat' first | assumption | apply emit_keeps | apply keeps_ite | intro _ | split

theorem serveRequest_keeps {ρ : State} {src : VdpSrc} {m : List Byte} {s : State} (hK : Keeps ρ s) :
    Keeps ρ (serveRequest src m s) := by
  unfold serveRequest
  with_reducible repeat' first
    | assumption
    | apply sendResponse_keeps
    | apply odBump_keeps
    | apply carryOut_keeps
    | apply discoverPair_keeps
    | apply answerRequest_keeps
    | apply keeps_ite
    | intro _
    | fail_if_no_progress (apply keeps_same)
    | fail_if_no_progress (apply keeps_mem)
    | split
    | dsimp only
    | refine of_pair (by assumption) ?_
    | refine of_some (by assumption) ?_
    | refine of_threw (by assumption) ?_

theorem serveWaiting_keeps {ρ : State} {y0 : Nat} {y1 : State} (hK : Keeps ρ y1) :
    Keeps ρ (serveWaiting y0 y1) := by
  fun_induction serveWaiting y0 y1
  with_reducible repeat' first
    | assumption
    | apply serveRequest_keeps
    | (apply ‹∀ _, _›)
    | fail_if_no_progress (apply keeps_same)

theorem nextRequests_keeps {ρ : State} {s : State} (hK : Keeps ρ s) :
    Keeps ρ (nextRequests s) := by
  unfold nextRequests
  with_reducible repeat' first | assumption | apply serveWaiting_keeps

theorem vdpArrive_keeps {ρ : State} {src : VdpSrc} {m : List Byte} {s : State} (hK : Keeps ρ s) :
    Keeps ρ (vdpArrive src m s) := by
  unfold vdpArrive
  with_reducible repeat' first
    | assumption
    | apply emit_keeps
    | apply odBump_keeps
    | apply serveRequest_keeps
    | apply keeps_ite
    | intro _
    | fail_if_no_progress (apply keeps_same)
    | fail_if_no_progress (apply keeps_mem)
    | split

theorem mirrorSecured_keeps {ρ : State} {acked : Nat} {s : State} (hK : Keeps ρ s) :
    Keeps ρ (mirrorSecured acked s) := by
  unfold mirrorSecured
  with_reducible repeat' first
    | assumption
    | apply nextRequests_keeps
    | apply finishCritical_keeps
    | apply keeps_ite
    | intro _
    | fail_if_no_progress (apply keeps_same)
    | fail_if_no_progress (apply keeps_mem)
    | split
    | dsimp only
    | refine of_some (by assumption) ?_

theorem execCounterLogWrite_keeps {ρ : State} {s : State} (hK : Keeps ρ s) :
    OutKeeps ρ (execCounterLogWrite s) := by
  unfold execCounterLogWrite
  with_reducible repeat' first
    | assumption
    | apply keeps_next
    | apply nextRequests_keeps
    | apply finishCritical_keeps
    | apply odSet_keeps
    | split

theorem execImageUpdateDone_keeps {ρ : State} {s : State} (hK : Keeps ρ s) :
    OutKeeps ρ (execImageUpdateDone s) := by
  unfold execImageUpdateDone
  with_reducible repeat' first
    | assumption
    | apply keeps_next
    | apply nextRequests_keeps
    | apply dropHeld_keeps
    | apply answerRequest_keeps
    | apply releaseResource_keeps
    | apply odSet_keeps
    | apply setKey_keeps
    | apply writeUpdate_keeps
    | split
    | intro _
    | fail_if_no_progress (apply keeps_same)
    | fail_if_no_progress (apply keeps_mem)
    | split
    | dsimp only
    | refine of_did (by assumption) ?_
    | refine of_ok (by assumption) ?_
    | refine of_some (by assumption) ?_
    | refine of_threw (by assumption) ?_

/-! ### VdpRows.lean -/

theorem typedArrival_keeps {ρ : State} {ty : Nat} {src : VdpSrc} {msg : List Byte} {s : State} (hK : Keeps ρ s) :
    Keeps ρ (typedArrival ty src msg s) := by
  unfold typedArrival
  with_reducible repeat' first | assumption | apply vdpArrive_keeps

theorem execVdpRead_keeps {ρ : State} {src : VdpSrc} {msg : List Byte} {s : State} (hK : Keeps ρ s) :
    OutKeeps ρ (execVdpRead src msg s) := by
  unfold execVdpRead
  with_reducible repeat' first | assumption | apply keeps_next | apply typedArrival_keeps

theorem execVdpWrite_keeps {ρ : State} {src : VdpSrc} {msg : List Byte} {s : State} (hK : Keeps ρ s) :
    OutKeeps ρ (execVdpWrite src msg s) := by
  unfold execVdpWrite
  with_reducible repeat' first | assumption | apply keeps_next | apply typedArrival_keeps

theorem execSegInit_keeps {ρ : State} {src : VdpSrc} {msg : List Byte} {s : State} (hK : Keeps ρ s) :
    OutKeeps ρ (execSegInit src msg s) := by
  unfold execSegInit
  with_reducible repeat' first | assumption | apply keeps_next | apply typedArrival_keeps

theorem execSegData_keeps {ρ : State} {src : VdpSrc} {msg : List Byte} {s : State} (hK : Keeps ρ s) :
    OutKeeps ρ (execSegData src msg s) := by
  unfold execSegData
  with_reducible repeat' first | assumption | apply keeps_next | apply typedArrival_keeps

theorem execSegAbort_keeps {ρ : State} {src : VdpSrc} {msg : List Byte} {s : State} (hK : Keeps ρ s) :
    OutKeeps ρ (execSegAbort src msg s) := by
  unfold execSegAbort
  with_reducible repeat' first | assumption | apply keeps_next | apply typedArrival_keeps

theorem execDiscover_keeps {ρ : State} {src : VdpSrc} {msg : List Byte} {s : State} (hK : Keeps ρ s) :
    OutKeeps ρ (execDiscover src msg s) := by
  unfold execDiscover
  with_reducible repeat' first | assumption | apply keeps_next | apply typedArrival_keeps

theorem execSegTimeout_keeps {ρ : State} {session : Nat} {s : State} (hK : Keeps ρ s) :
    OutKeeps ρ (execSegTimeout session s) := by
  unfold execSegTimeout
  with_reducible repeat' first | assumption | apply keeps_next | apply keeps_ite | apply abortSession_keeps | intro _

theorem sendDevice_keeps {ρ : State} {s : State} (hK : Keeps ρ s) :
    Keeps ρ (sendDevice s) := by
  unfold sendDevice
  with_reducible repeat' first
    | assumption
    | apply odBump_keeps
    | apply emit_keeps
    | intro _
    | fail_if_no_progress (apply keeps_same)
    | fail_if_no_progress (apply keeps_mem)
    | dsimp only

theorem sendPair_keeps {ρ : State} {s : State} (hK : Keeps ρ s) :
    Keeps ρ (sendPair s) := by
  unfold sendPair
  with_reducible repeat' first
    | assumption
    | apply odBump_keeps
    | apply emit_keeps
    | apply keeps_ite
    | intro _
    | fail_if_no_progress (apply keeps_same)
    | fail_if_no_progress (apply keeps_mem)
    | split

theorem execCyclic_keeps {ρ : State} {s : State} (hK : Keeps ρ s) :
    OutKeeps ρ (execCyclic s) := by
  unfold execCyclic
  with_reducible repeat' first
    | assumption
    | apply keeps_next
    | apply keeps_ite
    | apply sendPair_keeps
    | apply sendDevice_keeps
    | intro _

theorem writeBytes_keeps {ρ : State} {idx : Nat} {sub : Nat} {value : List Byte} {w : VdpWrite} {s : State} (hK : Keeps ρ s) :
    Keeps ρ (writeBytes idx sub value w s) := by
  unfold writeBytes
  with_reducible repeat' first | assumption | apply vdpArrive_keeps

theorem writeNum_keeps {ρ : State} {idx : Nat} {sub : Nat} {v : Nat} {w : VdpWrite} {s : State} (hK : Keeps ρ s) :
    Keeps ρ (writeNum idx sub v w s) := by
  unfold writeNum
  with_reducible repeat' first | assumption | apply writeBytes_keeps | split

theorem writeAttr_keeps {ρ : State} {inst : Inst} {sub : Nat} {v : Nat} {w : VdpWrite} {s : State} (hK : Keeps ρ s) :
    Keeps ρ (writeAttr inst sub v w s) := by
  unfold writeAttr
  with_reducible repeat' first | assumption | apply writeNum_keeps

theorem execL2Enable_keeps {ρ : State} {cluster : Fin 16} {w : VdpWrite} {s : State} (hK : Keeps ρ s) :
    OutKeeps ρ (execL2Enable cluster w s) := by
  unfold execL2Enable
  with_reducible repeat' first | assumption | apply keeps_next | apply writeNum_keeps

theorem execL2Disable_keeps {ρ : State} {cluster : Fin 16} {w : VdpWrite} {s : State} (hK : Keeps ρ s) :
    OutKeeps ρ (execL2Disable cluster w s) := by
  unfold execL2Disable
  with_reducible repeat' first | assumption | apply keeps_next | apply writeNum_keeps

theorem execPrefetchEnable_keeps {ρ : State} {cluster : Fin 16} {value : Bool} {w : VdpWrite} {s : State} (hK : Keeps ρ s) :
    OutKeeps ρ (execPrefetchEnable cluster value w s) := by
  unfold execPrefetchEnable
  with_reducible repeat' first | assumption | apply keeps_next | apply writeNum_keeps

theorem execInvalidate_keeps {ρ : State} {value : List Byte} {w : VdpWrite} {s : State} (hK : Keeps ρ s) :
    OutKeeps ρ (execInvalidate value w s) := by
  unfold execInvalidate
  with_reducible repeat' first | assumption | apply keeps_next | apply writeBytes_keeps

theorem execRootWrite_keeps {ρ : State} {inst : Inst} {value : Nat} {w : VdpWrite} {s : State} (hK : Keeps ρ s) :
    OutKeeps ρ (execRootWrite inst value w s) := by
  unfold execRootWrite
  with_reducible repeat' first | assumption | apply keeps_next | apply writeAttr_keeps

theorem execFqBase_keeps {ρ : State} {inst : Inst} {value : Nat} {w : VdpWrite} {s : State} (hK : Keeps ρ s) :
    OutKeeps ρ (execFqBase inst value w s) := by
  unfold execFqBase
  with_reducible repeat' first | assumption | apply keeps_next | apply writeAttr_keeps

theorem execFqEntries_keeps {ρ : State} {inst : Inst} {value : Nat} {w : VdpWrite} {s : State} (hK : Keeps ρ s) :
    OutKeeps ρ (execFqEntries inst value w s) := by
  unfold execFqEntries
  with_reducible repeat' first | assumption | apply keeps_next | apply writeAttr_keeps

theorem execFqLocation_keeps {ρ : State} {inst : Inst} {value : Nat} {w : VdpWrite} {s : State} (hK : Keeps ρ s) :
    OutKeeps ρ (execFqLocation inst value w s) := by
  unfold execFqLocation
  with_reducible repeat' first | assumption | apply keeps_next | apply writeAttr_keeps

theorem execHostWindow_keeps {ρ : State} {link : Link} {length : Bool} {value : Nat} {w : VdpWrite} {s : State} (hK : Keeps ρ s) :
    OutKeeps ρ (execHostWindow link length value w s) := by
  unfold execHostWindow
  with_reducible repeat' first | assumption | apply keeps_next | apply writeNum_keeps

theorem execCreate_keeps {ρ : State} {inst : Inst} {w : VdpWrite} {s : State} (hK : Keeps ρ s) :
    OutKeeps ρ (execCreate inst w s) := by
  unfold execCreate
  with_reducible repeat' first | assumption | apply keeps_next | apply writeAttr_keeps

theorem execDestroy_keeps {ρ : State} {inst : Inst} {w : VdpWrite} {s : State} (hK : Keeps ρ s) :
    OutKeeps ρ (execDestroy inst w s) := by
  unfold execDestroy
  with_reducible repeat' first | assumption | apply keeps_next | apply writeAttr_keeps

theorem execRestore_keeps {ρ : State} {inst : Inst} {w : VdpWrite} {s : State} (hK : Keeps ρ s) :
    OutKeeps ρ (execRestore inst w s) := by
  unfold execRestore
  with_reducible repeat' first | assumption | apply keeps_next | apply writeAttr_keeps

theorem execResetWrite_keeps {ρ : State} {inst : Inst} {w : VdpWrite} {s : State} (hK : Keeps ρ s) :
    OutKeeps ρ (execResetWrite inst w s) := by
  unfold execResetWrite
  with_reducible repeat' first | assumption | apply keeps_next | apply writeAttr_keeps

theorem execFreeze_keeps {ρ : State} {inst : Inst} {w : VdpWrite} {s : State} (hK : Keeps ρ s) :
    OutKeeps ρ (execFreeze inst w s) := by
  unfold execFreeze
  with_reducible repeat' first | assumption | apply keeps_next | apply writeAttr_keeps

theorem execResume_keeps {ρ : State} {inst : Inst} {w : VdpWrite} {s : State} (hK : Keeps ρ s) :
    OutKeeps ρ (execResume inst w s) := by
  unfold execResume
  with_reducible repeat' first | assumption | apply keeps_next | apply writeAttr_keeps

theorem execRrHead_keeps {ρ : State} {inst : Inst} {value : Nat} {w : VdpWrite} {s : State} (hK : Keeps ρ s) :
    OutKeeps ρ (execRrHead inst value w s) := by
  unfold execRrHead
  with_reducible repeat' first | assumption | apply keeps_next | apply writeAttr_keeps

theorem execSpillPool_keeps {ρ : State} {inst : Inst} {value : Nat} {w : VdpWrite} {s : State} (hK : Keeps ρ s) :
    OutKeeps ρ (execSpillPool inst value w s) := by
  unfold execSpillPool
  with_reducible repeat' first | assumption | apply keeps_next | apply writeAttr_keeps

theorem execSpillBase_keeps {ρ : State} {inst : Inst} {value : Nat} {w : VdpWrite} {s : State} (hK : Keeps ρ s) :
    OutKeeps ρ (execSpillBase inst value w s) := by
  unfold execSpillBase
  with_reducible repeat' first | assumption | apply keeps_next | apply writeAttr_keeps

theorem execRrBase_keeps {ρ : State} {inst : Inst} {value : Nat} {w : VdpWrite} {s : State} (hK : Keeps ρ s) :
    OutKeeps ρ (execRrBase inst value w s) := by
  unfold execRrBase
  with_reducible repeat' first | assumption | apply keeps_next | apply writeAttr_keeps

theorem execRrEntries_keeps {ρ : State} {inst : Inst} {value : Nat} {w : VdpWrite} {s : State} (hK : Keeps ρ s) :
    OutKeeps ρ (execRrEntries inst value w s) := by
  unfold execRrEntries
  with_reducible repeat' first | assumption | apply keeps_next | apply writeAttr_keeps

theorem execLinkWrite_keeps {ρ : State} {inst : Inst} {value : Nat} {w : VdpWrite} {s : State} (hK : Keeps ρ s) :
    OutKeeps ρ (execLinkWrite inst value w s) := by
  unfold execLinkWrite
  with_reducible repeat' first | assumption | apply keeps_next | apply writeAttr_keeps

theorem execLogEnable_keeps {ρ : State} {inst : Inst} {bitmap : Fin 2} {w : VdpWrite} {s : State} (hK : Keeps ρ s) :
    OutKeeps ρ (execLogEnable inst bitmap w s) := by
  unfold execLogEnable
  with_reducible repeat' first | assumption | apply keeps_next | apply writeAttr_keeps

theorem execLogSwitch_keeps {ρ : State} {inst : Inst} {bitmap : Fin 2} {w : VdpWrite} {s : State} (hK : Keeps ρ s) :
    OutKeeps ρ (execLogSwitch inst bitmap w s) := by
  unfold execLogSwitch
  with_reducible repeat' first | assumption | apply keeps_next | apply writeAttr_keeps

theorem execLogStop_keeps {ρ : State} {inst : Inst} {w : VdpWrite} {s : State} (hK : Keeps ρ s) :
    OutKeeps ρ (execLogStop inst w s) := by
  unfold execLogStop
  with_reducible repeat' first | assumption | apply keeps_next | apply writeAttr_keeps

theorem execMoveBack_keeps {ρ : State} {plane : Fin 2} {value : Nat} {w : VdpWrite} {s : State} (hK : Keeps ρ s) :
    OutKeeps ρ (execMoveBack plane value w s) := by
  unfold execMoveBack
  with_reducible repeat' first | assumption | apply keeps_next | apply writeNum_keeps

theorem execOrphanNow_keeps {ρ : State} {w : VdpWrite} {s : State} (hK : Keeps ρ s) :
    OutKeeps ρ (execOrphanNow w s) := by
  unfold execOrphanNow
  with_reducible repeat' first | assumption | apply keeps_next | apply writeNum_keeps

theorem execOrphanCqHead_keeps {ρ : State} {value : List Byte} {w : VdpWrite} {s : State} (hK : Keeps ρ s) :
    OutKeeps ρ (execOrphanCqHead value w s) := by
  unfold execOrphanCqHead
  with_reducible repeat' first | assumption | apply keeps_next | apply writeBytes_keeps

theorem execPairPolicy_keeps {ρ : State} {value : Nat} {w : VdpWrite} {s : State} (hK : Keeps ρ s) :
    OutKeeps ρ (execPairPolicy value w s) := by
  unfold execPairPolicy
  with_reducible repeat' first | assumption | apply keeps_next | apply vdpArrive_keeps

theorem execResourceClaim_keeps {ρ : State} {resource : Fin 18} {value : List Byte} {w : VdpWrite} {s : State} (hK : Keeps ρ s) :
    OutKeeps ρ (execResourceClaim resource value w s) := by
  unfold execResourceClaim
  with_reducible repeat' first | assumption | apply keeps_next | apply writeBytes_keeps

theorem execTimerStart_keeps {ρ : State} {timer : Fin 6} {w : VdpWrite} {s : State} (hK : Keeps ρ s) :
    OutKeeps ρ (execTimerStart timer w s) := by
  unfold execTimerStart
  with_reducible repeat' first | assumption | apply keeps_next | apply writeNum_keeps

theorem execTimerStop_keeps {ρ : State} {timer : Fin 6} {w : VdpWrite} {s : State} (hK : Keeps ρ s) :
    OutKeeps ρ (execTimerStop timer w s) := by
  unfold execTimerStop
  with_reducible repeat' first | assumption | apply keeps_next | apply writeNum_keeps

theorem setVpp_keeps {ρ : State} {vpp : Bool} {s : State} (hK : Keeps ρ s) :
    Keeps ρ (setVpp vpp s) := by
  unfold setVpp
  with_reducible repeat' first | assumption | fail_if_no_progress (apply keeps_same)

theorem execOwnerKey_keeps {ρ : State} {value : List Byte} {vpp : Bool} {w : VdpWrite} {s : State} (hK : Keeps ρ s) :
    OutKeeps ρ (execOwnerKey value vpp w s) := by
  unfold execOwnerKey
  with_reducible repeat' first | assumption | apply keeps_next | apply writeBytes_keeps | apply setVpp_keeps

theorem execKeyWrite_keeps {ρ : State} {principal : Fin 16} {value : List Byte} {w : VdpWrite} {s : State} (hK : Keeps ρ s) :
    OutKeeps ρ (execKeyWrite principal value w s) := by
  unfold execKeyWrite
  with_reducible repeat' first | assumption | apply keeps_next | apply writeBytes_keeps

theorem execRightsWrite_keeps {ρ : State} {principal : Fin 16} {value : Nat} {w : VdpWrite} {s : State} (hK : Keeps ρ s) :
    OutKeeps ρ (execRightsWrite principal value w s) := by
  unfold execRightsWrite
  with_reducible repeat' first | assumption | apply keeps_next | apply writeNum_keeps

theorem execBootKeyDigest_keeps {ρ : State} {value : List Byte} {vpp : Bool} {w : VdpWrite} {s : State} (hK : Keeps ρ s) :
    OutKeeps ρ (execBootKeyDigest value vpp w s) := by
  unfold execBootKeyDigest
  with_reducible repeat' first | assumption | apply keeps_next | apply writeBytes_keeps | apply setVpp_keeps

theorem execTargetRun_keeps {ρ : State} {w : VdpWrite} {s : State} (hK : Keeps ρ s) :
    OutKeeps ρ (execTargetRun w s) := by
  unfold execTargetRun
  with_reducible repeat' first | assumption | apply keeps_next | apply writeNum_keeps

theorem execTargetDrain_keeps {ρ : State} {w : VdpWrite} {s : State} (hK : Keeps ρ s) :
    OutKeeps ρ (execTargetDrain w s) := by
  unfold execTargetDrain
  with_reducible repeat' first | assumption | apply keeps_next | apply writeNum_keeps

theorem execTargetDormant_keeps {ρ : State} {w : VdpWrite} {s : State} (hK : Keeps ρ s) :
    OutKeeps ρ (execTargetDormant w s) := by
  unfold execTargetDormant
  with_reducible repeat' first | assumption | apply keeps_next | apply writeNum_keeps

theorem execTargetFreeze_keeps {ρ : State} {w : VdpWrite} {s : State} (hK : Keeps ρ s) :
    OutKeeps ρ (execTargetFreeze w s) := by
  unfold execTargetFreeze
  with_reducible repeat' first | assumption | apply keeps_next | apply writeNum_keeps

theorem execZonePowerOff_keeps {ρ : State} {zone : Fin 16} {w : VdpWrite} {s : State} (hK : Keeps ρ s) :
    OutKeeps ρ (execZonePowerOff zone w s) := by
  unfold execZonePowerOff
  with_reducible repeat' first | assumption | apply keeps_next | apply writeNum_keeps

theorem execZonePowerOn_keeps {ρ : State} {zone : Fin 16} {w : VdpWrite} {s : State} (hK : Keeps ρ s) :
    OutKeeps ρ (execZonePowerOn zone w s) := by
  unfold execZonePowerOn
  with_reducible repeat' first | assumption | apply keeps_next | apply writeNum_keeps

theorem execDeviceReset_keeps {ρ : State} {value : Nat} {w : VdpWrite} {s : State} (hK : Keeps ρ s) :
    OutKeeps ρ (execDeviceReset value w s) := by
  unfold execDeviceReset
  with_reducible repeat' first | assumption | apply keeps_next | apply writeNum_keeps

theorem execLogClear_keeps {ρ : State} {value : Nat} {w : VdpWrite} {s : State} (hK : Keeps ρ s) :
    OutKeeps ρ (execLogClear value w s) := by
  unfold execLogClear
  with_reducible repeat' first | assumption | apply keeps_next | apply writeNum_keeps

/-! ### Cxl.lean -/

theorem execHdmCommit_keeps {ρ : State} {link : Link} {n : Fin 8} {commit : Bool} {hpa : Nat} {size : Nat} {dpa : Nat} {ways : Nat} {gran : Nat} {place : Nat} {s : State} (hK : Keeps ρ s) :
    OutKeeps ρ (execHdmCommit link n commit hpa size dpa ways gran place s) := by
  unfold execHdmCommit
  with_reducible repeat' first
    | assumption
    | apply keeps_next
    | apply keeps_ite
    | intro _
    | fail_if_no_progress (apply keeps_same)

theorem takeFreeBytes_keeps {ρ : State} {n : Nat} {s : State} (hK : Keeps ρ s) :
    Keeps ρ ((takeFreeBytes n s).2) := by
  unfold takeFreeBytes
  with_reducible repeat' first | assumption | fail_if_no_progress (apply keeps_free)

theorem returnPoison_keeps {ρ : State} {link : Nat} {data : List Byte} {s : State} (hK : Keeps ρ s) :
    Keeps ρ (returnPoison link data s) := by
  unfold returnPoison
  with_reducible repeat' first | assumption | apply emit_keeps | apply odBump_keeps

theorem hostLoad_keeps {ρ : State} {link : Nat} {pa : Nat} {s : State} (hK : Keeps ρ s) :
    Keeps ρ (hostLoad link pa s) := by
  unfold hostLoad
  with_reducible repeat' first
    | assumption
    | apply keeps_ite
    | apply returnPoison_keeps
    | apply requestBursts_keeps
    | apply emit_keeps
    | intro _

theorem execCxlMemRead_keeps {ρ : State} {link : Link} {hpa : Nat} {s : State} (hK : Keeps ρ s) :
    OutKeeps ρ (execCxlMemRead link hpa s) := by
  unfold execCxlMemRead
  with_reducible repeat' first
    | assumption
    | apply keeps_next
    | apply keeps_ite
    | apply returnPoison_keeps
    | apply takeFreeBytes_keeps
    | apply hostLoad_keeps
    | apply emit_keeps
    | intro _
    | split

theorem storeCodeword_keeps {ρ : State} {pa : Nat} {bytes : List (Option Byte)} {s : State} (hK : Keeps ρ s) :
    Keeps ρ (storeCodeword pa bytes s) := by
  unfold storeCodeword
  with_reducible repeat' first
    | assumption
    | apply keeps_ite
    | apply physPut_keeps
    | apply keeps_foldl
    | intro _
    | split

theorem execCxlMemWrite_keeps {ρ : State} {link : Link} {hpa : Nat} {data : List (Option Byte)} {s : State} (hK : Keeps ρ s) :
    OutKeeps ρ (execCxlMemWrite link hpa data s) := by
  unfold execCxlMemWrite
  with_reducible repeat' first
    | assumption
    | apply keeps_next
    | apply emit_keeps
    | apply requestMasked_keeps
    | apply storeCodeword_keeps
    | split
    | intro _
    | fail_if_no_progress (apply keeps_same)
    | fail_if_no_progress (apply keeps_mem)
    | split
    | dsimp only
    | refine of_some (by assumption) ?_

theorem clearFunctions_keeps {ρ : State} {p : Nat → Bool} {s : State} (hK : Keeps ρ s) :
    Keeps ρ (clearFunctions p s) := by
  unfold clearFunctions
  with_reducible repeat' first
    | assumption
    | intro _
    | fail_if_no_progress (apply keeps_same)
    | fail_if_no_progress (apply keeps_mem)

theorem execFlr_keeps {ρ : State} {inst : Inst} {s : State} (hK : Keeps ρ s) :
    OutKeeps ρ (execFlr inst s) := by
  unfold execFlr
  with_reducible repeat' first
    | assumption
    | apply keeps_next
    | apply resetInst_keeps
    | apply clearFunctions_keeps
    | split
    | intro _
    | split

theorem execPf0Flr_keeps {ρ : State} {link : Link} {s : State} (hK : Keeps ρ s) :
    OutKeeps ρ (execPf0Flr link s) := by
  unfold execPf0Flr
  with_reducible repeat' first | assumption | apply keeps_next | apply resetQueues_keeps | split | intro _ | split

theorem execHotReset_keeps {ρ : State} {link : Link} {s : State} (hK : Keeps ρ s) :
    OutKeeps ρ (execHotReset link s) := by
  unfold execHotReset
  with_reducible repeat' first
    | assumption
    | apply keeps_next
    | apply resetLink_keeps
    | apply clearFunctions_keeps
    | split
    | intro _
    | split

theorem execPerstN_keeps {ρ : State} {link : Link} {asserted : Bool} {s : State} (hK : Keeps ρ s) :
    OutKeeps ρ (execPerstN link asserted s) := by
  unfold execPerstN
  with_reducible repeat' first
    | assumption
    | apply keeps_next
    | apply odSet_keeps
    | apply clearFunctions_keeps
    | apply resetLink_keeps
    | split
    | intro _
    | fail_if_no_progress (apply keeps_same)
    | fail_if_no_progress (apply keeps_mem)
    | split
    | dsimp only

theorem execCxlLinkTrained_keeps {ρ : State} {link : Link} {fast : Bool} {s : State} (hK : Keeps ρ s) :
    OutKeeps ρ (execCxlLinkTrained link fast s) := by
  unfold execCxlLinkTrained
  with_reducible repeat' first | assumption | apply keeps_next | apply keeps_ite | apply odSet_keeps | intro _

theorem sendPending_keeps {ρ : State} {link : Nat} {fn : Nat} {s : State} (hK : Keeps ρ s) :
    Keeps ρ (sendPending link fn s) := by
  unfold sendPending
  with_reducible repeat' first
    | assumption
    | apply emit_keeps
    | apply keeps_foldl
    | intro _
    | fail_if_no_progress (apply keeps_same)
    | fail_if_no_progress (apply keeps_mem)

theorem ioAccess_keeps {ρ : State} {l : Nat} {fn : Nat} {a : IoAccess} {s : State} (hK : Keeps ρ s) :
    Keeps ρ (ioAccess l fn a s) := by
  unfold ioAccess
  with_reducible repeat' first
    | assumption
    | apply emit_keeps
    | apply sendPending_keeps
    | apply secure_keeps
    | apply keeps_ite
    | intro _
    | fail_if_no_progress (apply keeps_same)
    | fail_if_no_progress (apply keeps_mem)
    | split
    | dsimp only

theorem execConfigurationRequest_keeps {ρ : State} {link : Link} {function : IoRequest} {s : State} (hK : Keeps ρ s) :
    OutKeeps ρ (execConfigurationRequest link function s) := by
  unfold execConfigurationRequest
  with_reducible repeat' first
    | assumption
    | apply keeps_next
    | apply emit_keeps
    | apply ioAccess_keeps
    | split
    | intro _
    | split

theorem execIdeFailure_keeps {ρ : State} {link : Link} {unanswered : List (Nat × Nat)} {s : State} (hK : Keeps ρ s) :
    OutKeeps ρ (execIdeFailure link unanswered s) := by
  unfold execIdeFailure
  with_reducible repeat' first
    | assumption
    | apply keeps_next
    | apply odBump_keeps
    | apply secure_keeps
    | apply failTask_keeps
    | split
    | apply keeps_foldl
    | intro _
    | fail_if_no_progress (apply keeps_same)
    | fail_if_no_progress (apply keeps_mem)
    | split
    | dsimp only

theorem reply_keeps {ρ : State} {link : Link} {code : Nat} {payload : List Byte} {s : State} (hK : Keeps ρ s) :
    Keeps ρ (reply link code payload s) := by
  unfold reply
  with_reducible repeat' first | assumption | apply emit_keeps

theorem mailbox_keeps {ρ : State} {link : Link} {f : State → State} {s : State} (hF : ∀ a0, Keeps ρ a0 → Keeps ρ (f a0)) (hK1 : Keeps ρ s) :
    OutKeeps ρ (mailbox link f s) := by
  unfold mailbox
  with_reducible repeat' first | assumption | apply keeps_next | apply keeps_ite | apply hF | intro _

theorem eventBytes_keeps {ρ : State} {e : EvRec} {s : State} (hK : Keeps ρ s) :
    Keeps ρ ((eventBytes e s).2) := by
  unfold eventBytes
  with_reducible repeat' first | assumption | apply takeFreeBytes_keeps

theorem eventOutput_keeps {ρ : State} {es : List EvRec} {s : State} (h : Keeps ρ s) : Keeps ρ (eventOutput es s).2 := by
  unfold eventOutput
  dsimp only
  exact foldl_keeps (p := fun x : List Byte × State => Keeps ρ x.2) _ h fun b a hb => eventBytes_keeps (e := a) hb

theorem execGetEventRecords_keeps {ρ : State} {link : Link} {log : Nat} {s : State} (hK : Keeps ρ s) :
    OutKeeps ρ (execGetEventRecords link log s) := by
  unfold execGetEventRecords
  with_reducible repeat' first
    | assumption
    | apply mailbox_keeps
    | apply keeps_ite
    | apply reply_keeps
    | apply eventOutput_keeps
    | intro _

theorem execClearEventRecords_keeps {ρ : State} {link : Link} {log : Nat} {all : Bool} {handles : List Nat} {s : State} (hK : Keeps ρ s) :
    OutKeeps ρ (execClearEventRecords link log all handles s) := by
  unfold execClearEventRecords
  with_reducible repeat' first
    | assumption
    | apply mailbox_keeps
    | apply keeps_ite
    | apply reply_keeps
    | intro _
    | fail_if_no_progress (apply keeps_same)

theorem execSetTimestamp_keeps {ρ : State} {link : Link} {ns : Nat} {s : State} (hK : Keeps ρ s) :
    OutKeeps ρ (execSetTimestamp link ns s) := by
  unfold execSetTimestamp
  with_reducible repeat' first
    | assumption
    | apply mailbox_keeps
    | apply reply_keeps
    | intro _
    | fail_if_no_progress (apply keeps_same)

theorem execGetTimestamp_keeps {ρ : State} {link : Link} {s : State} (hK : Keeps ρ s) :
    OutKeeps ρ (execGetTimestamp link s) := by
  unfold execGetTimestamp
  with_reducible repeat' first | assumption | apply mailbox_keeps | apply reply_keeps | intro _

theorem celBytes_keeps {ρ : State} {s : State} (h : Keeps ρ s) : Keeps ρ (celBytes s).2 := by
  unfold celBytes
  exact foldl_keeps (p := fun x : List Byte × State => Keeps ρ x.2) _ h fun b a hb => takeFreeBytes_keeps hb

theorem execGetSupportedLogs_keeps {ρ : State} {link : Link} {s : State} (hK : Keeps ρ s) :
    OutKeeps ρ (execGetSupportedLogs link s) := by
  unfold execGetSupportedLogs
  with_reducible repeat' first | assumption | apply mailbox_keeps | apply reply_keeps

theorem execGetLog_keeps {ρ : State} {link : Link} {uuid : List Byte} {offset : Nat} {length : Nat} {s : State} (hK : Keeps ρ s) :
    OutKeeps ρ (execGetLog link uuid offset length s) := by
  unfold execGetLog
  with_reducible repeat' first
    | assumption
    | apply mailbox_keeps
    | apply keeps_ite
    | apply reply_keeps
    | apply celBytes_keeps
    | intro _

theorem execIdentifyMemoryDevice_keeps {ρ : State} {link : Link} {s : State} (hK : Keeps ρ s) :
    OutKeeps ρ (execIdentifyMemoryDevice link s) := by
  unfold execIdentifyMemoryDevice
  with_reducible repeat' first
    | assumption
    | apply mailbox_keeps
    | apply reply_keeps
    | apply takeFreeBytes_keeps
    | intro _

theorem execGetHealthInfo_keeps {ρ : State} {link : Link} {s : State} (hK : Keeps ρ s) :
    OutKeeps ρ (execGetHealthInfo link s) := by
  unfold execGetHealthInfo
  with_reducible repeat' first
    | assumption
    | apply mailbox_keeps
    | apply reply_keeps
    | apply takeFreeBytes_keeps
    | intro _

theorem execVdpRequest_keeps {ρ : State} {link : Link} {msg : List Byte} {s : State} (hK : Keeps ρ s) :
    OutKeeps ρ (execVdpRequest link msg s) := by
  unfold execVdpRequest
  with_reducible repeat' first
    | assumption
    | apply mailbox_keeps
    | apply vdpArrive_keeps
    | apply odBump_keeps
    | intro _

theorem execVdpCyclic_keeps {ρ : State} {link : Link} {s : State} (hK : Keeps ρ s) :
    OutKeeps ρ (execVdpCyclic link s) := by
  unfold execVdpCyclic
  with_reducible repeat' first | assumption | apply mailbox_keeps | apply reply_keeps | intro _

theorem execUnsupportedMailbox_keeps {ρ : State} {link : Link} {opcode : BitVec 16} {s : State} (hK : Keeps ρ s) :
    OutKeeps ρ (execUnsupportedMailbox link opcode s) := by
  unfold execUnsupportedMailbox
  with_reducible repeat' first | assumption | apply mailbox_keeps | apply keeps_ite | apply reply_keeps | intro _

/-! ### KilnEng.lean -/

theorem writeChain_keeps {ρ : State} {slot : Nat} {chain : List (Nat × Nat)} {bytes : List Byte} {k : State → State} {s : State} (hF : ∀ a0, Keeps ρ a0 → Keeps ρ (k a0)) (hK : Keeps ρ s) :
    Keeps ρ (writeChain slot chain bytes k s) := by
  unfold writeChain
  with_reducible repeat' first
    | assumption
    | apply hF
    | apply devWrite_keeps
    | apply accessFailed_keeps
    | apply unitCount_keeps
    | apply jobMod_keeps
    | apply engMod_keeps
    | apply keeps_ite
    | intro _
    | fail_if_no_progress (apply keeps_same)
    | fail_if_no_progress (apply keeps_mem)
    | split
    | dsimp only
    | refine of_pair (by assumption) ?_
    | refine of_some (by assumption) ?_

theorem verifyFails_keeps {ρ : State} {slot : Nat} {t : Task} {s : State} (hK : Keeps ρ s) :
    Keeps ρ (verifyFails slot t s) := by
  unfold verifyFails
  with_reducible repeat' first
    | assumption
    | apply setUnitState_keeps
    | apply failTask_keeps
    | apply unitCount_keeps
    | intro _

theorem kilnDrain_keeps {ρ : State} {slot : Nat} {t : Task} {s : State} (hK : Keeps ρ s) :
    Keeps ρ (kilnDrain slot t s) := by
  unfold kilnDrain
  with_reducible repeat' first
    | assumption
    | apply unitCount_keeps
    | apply emitElems_keeps
    | apply emitBytes_keeps
    | apply jobMod_keeps
    | apply stageEnds_keeps
    | apply devWrite_keeps
    | apply accessFailed_keeps
    | apply writeChain_keeps
    | apply keeps_ite
    | intro _
    | fail_if_no_progress (apply keeps_same)
    | fail_if_no_progress (apply keeps_mem)
    | split
    | dsimp only
    | refine of_pair (by assumption) ?_

theorem kilnTake_keeps {ρ : State} {slot : Nat} {t : Task} {s : State} (hK : Keeps ρ s) :
    Keeps ρ (kilnTake slot t s) := by
  unfold kilnTake
  with_reducible repeat' first
    | assumption
    | apply takeUpTo_keeps
    | apply engMod_keeps
    | apply unitCount_keeps
    | intro _
    | fail_if_no_progress (apply keeps_same)
    | fail_if_no_progress (apply keeps_mem)
    | dsimp only
    | refine of_pair (by assumption) ?_

theorem kilnKeep_keeps {ρ : State} {slot : Nat} {out : List Byte} {rcd : List Byte} {stopped : Bool} {raws : Nat} {s : State} (hK : Keeps ρ s) :
    Keeps ρ (kilnKeep slot out rcd stopped raws s) := by
  unfold kilnKeep
  with_reducible repeat' first
    | assumption
    | apply engMod_keeps
    | apply keeps_ite
    | intro _
    | fail_if_no_progress (apply keeps_same)
    | fail_if_no_progress (apply keeps_mem)
    | split

theorem runDeflate_keeps {ρ : State} {slot : Nat} {flaw : Option Nat} {t : Task} {s : State} (hK : Keeps ρ s) :
    Keeps ρ (runDeflate slot flaw t s) := by
  unfold runDeflate
  with_reducible repeat' first
    | assumption
    | apply showState_keeps
    | apply devRead_keeps
    | apply accessFailed_keeps
    | apply engMod_keeps
    | apply failTask_keeps
    | apply kilnDrain_keeps
    | apply kilnTake_keeps
    | apply verifyFails_keeps
    | apply kilnKeep_keeps
    | apply keeps_ite
    | intro _
    | fail_if_no_progress (apply keeps_same)
    | fail_if_no_progress (apply keeps_mem)
    | split
    | dsimp only
    | refine of_pair (by assumption) ?_
    | refine of_did (by assumption) ?_
    | refine of_ok (by assumption) ?_
    | refine of_some (by assumption) ?_
    | refine of_threw (by assumption) ?_

theorem execDeflate_keeps {ρ : State} {slot : DeflateTurn} {s : State} (hK : Keeps ρ s) :
    OutKeeps ρ (execDeflate slot s) := by
  unfold execDeflate
  with_reducible repeat' first
    | assumption
    | apply keeps_next
    | apply runStage_keeps
    | apply runDeflate_keeps
    | intro _

theorem runInflate_keeps {ρ : State} {slot : Nat} {t : Task} {s : State} (hK : Keeps ρ s) :
    Keeps ρ (runInflate slot t s) := by
  unfold runInflate
  with_reducible repeat' first
    | assumption
    | apply kilnDrain_keeps
    | apply engMod_keeps
    | apply showState_keeps
    | apply kilnTake_keeps
    | apply failTask_keeps
    | apply unitCount_keeps
    | apply kilnKeep_keeps
    | apply keeps_ite
    | intro _
    | fail_if_no_progress (apply keeps_same)
    | fail_if_no_progress (apply keeps_mem)
    | split
    | dsimp only
    | refine of_did (by assumption) ?_
    | refine of_ok (by assumption) ?_
    | refine of_some (by assumption) ?_
    | refine of_threw (by assumption) ?_

theorem execInflate_keeps {ρ : State} {slot : Nat} {s : State} (hK : Keeps ρ s) :
    OutKeeps ρ (execInflate slot s) := by
  unfold execInflate
  with_reducible repeat' first | assumption | apply keeps_next | apply runStage_keeps | apply runInflate_keeps

theorem execKilnSelfTest_keeps {ρ : State} {engine : Fin 4} {passed : Bool} {s : State} (hK : Keeps ρ s) :
    OutKeeps ρ (execKilnSelfTest engine passed s) := by
  unfold execKilnSelfTest
  with_reducible repeat' first
    | assumption
    | apply keeps_next
    | apply keeps_ite
    | apply odSet_keeps
    | apply unitLeft_keeps
    | intro _
    | split

end Sys2Proof.Machine
end

