-- ==== Sys2Proof/Laws/KeepsVector.lean ====
section
/-! SUPPORT. Every operation keeps the queue and the soundness of the state: vectors, mirror records, pins, Sieves, floating point and Tun. -/

namespace Sys2Proof.Machine

/-! ### ShortVec.lean -/

theorem viewSet_keeps {ρ : State} {c : CoreId} {q : Bool} {r : Reg} {v : Nat} {s : State} (hK : Keeps ρ s) :
    Keeps ρ (viewSet c q r v s) := by
  unfold viewSet
  with_reducible repeat' first | assumption | apply keeps_ite | apply fSet_keeps | intro _

theorem svWrite_keeps {ρ : State} {c : CoreId} {o : SvOp} {ls : List Nat} {s : State} (hK : Keeps ρ s) :
    Keeps ρ (svWrite c o ls s) := by
  unfold svWrite
  with_reducible repeat' first | assumption | apply viewSet_keeps

theorem runSv_keeps {ρ : State} {c : CoreId} {major : Nat} {o : SvOp} {low : Nat} {bad : Bool} {body : State → CoreEnd} {s : State} (hF : ∀ a0, Keeps ρ a0 → EndKeeps ρ (body a0)) (hK1 : Keeps ρ s) :
    Keeps ρ (runSv c major o low bad body s) := by
  unfold runSv
  with_reducible repeat' first
    | assumption
    | apply runCore_keeps
    | apply keeps_ite_end
    | apply illegal_keeps
    | apply hF
    | split

theorem runSvInt_keeps {ρ : State} {c : CoreId} {o : SvOp} {op : Nat} {f : LaneFn} {s : State} (hK : Keeps ρ s) :
    Keeps ρ (runSvInt c o op f s) := by
  unfold runSvInt
  with_reducible repeat' first | assumption | apply runSv_keeps | apply keeps_retire | apply svWrite_keeps | intro _

theorem execSvAdd_keeps {ρ : State} {c : CoreId} {o : SvOp} {s : State} (hK : Keeps ρ s) :
    OutKeeps ρ (execSvAdd c o s) := by
  unfold execSvAdd
  with_reducible repeat' first | assumption | apply keeps_next | apply runSvInt_keeps

theorem execSvSub_keeps {ρ : State} {c : CoreId} {o : SvOp} {s : State} (hK : Keeps ρ s) :
    OutKeeps ρ (execSvSub c o s) := by
  unfold execSvSub
  with_reducible repeat' first | assumption | apply keeps_next | apply runSvInt_keeps

theorem execSvAddss_keeps {ρ : State} {c : CoreId} {o : SvOp} {s : State} (hK : Keeps ρ s) :
    OutKeeps ρ (execSvAddss c o s) := by
  unfold execSvAddss
  with_reducible repeat' first | assumption | apply keeps_next | apply runSvInt_keeps

theorem execSvAddus_keeps {ρ : State} {c : CoreId} {o : SvOp} {s : State} (hK : Keeps ρ s) :
    OutKeeps ρ (execSvAddus c o s) := by
  unfold execSvAddus
  with_reducible repeat' first | assumption | apply keeps_next | apply runSvInt_keeps

theorem execSvSubss_keeps {ρ : State} {c : CoreId} {o : SvOp} {s : State} (hK : Keeps ρ s) :
    OutKeeps ρ (execSvSubss c o s) := by
  unfold execSvSubss
  with_reducible repeat' first | assumption | apply keeps_next | apply runSvInt_keeps

theorem execSvSubus_keeps {ρ : State} {c : CoreId} {o : SvOp} {s : State} (hK : Keeps ρ s) :
    OutKeeps ρ (execSvSubus c o s) := by
  unfold execSvSubus
  with_reducible repeat' first | assumption | apply keeps_next | apply runSvInt_keeps

theorem execSvAnd_keeps {ρ : State} {c : CoreId} {o : SvOp} {s : State} (hK : Keeps ρ s) :
    OutKeeps ρ (execSvAnd c o s) := by
  unfold execSvAnd
  with_reducible repeat' first | assumption | apply keeps_next | apply runSvInt_keeps

theorem execSvOr_keeps {ρ : State} {c : CoreId} {o : SvOp} {s : State} (hK : Keeps ρ s) :
    OutKeeps ρ (execSvOr c o s) := by
  unfold execSvOr
  with_reducible repeat' first | assumption | apply keeps_next | apply runSvInt_keeps

theorem execSvXor_keeps {ρ : State} {c : CoreId} {o : SvOp} {s : State} (hK : Keeps ρ s) :
    OutKeeps ρ (execSvXor c o s) := by
  unfold execSvXor
  with_reducible repeat' first | assumption | apply keeps_next | apply runSvInt_keeps

theorem execSvAndn_keeps {ρ : State} {c : CoreId} {o : SvOp} {s : State} (hK : Keeps ρ s) :
    OutKeeps ρ (execSvAndn c o s) := by
  unfold execSvAndn
  with_reducible repeat' first | assumption | apply keeps_next | apply runSvInt_keeps

theorem execSvMin_keeps {ρ : State} {c : CoreId} {o : SvOp} {s : State} (hK : Keeps ρ s) :
    OutKeeps ρ (execSvMin c o s) := by
  unfold execSvMin
  with_reducible repeat' first | assumption | apply keeps_next | apply runSvInt_keeps

theorem execSvMax_keeps {ρ : State} {c : CoreId} {o : SvOp} {s : State} (hK : Keeps ρ s) :
    OutKeeps ρ (execSvMax c o s) := by
  unfold execSvMax
  with_reducible repeat' first | assumption | apply keeps_next | apply runSvInt_keeps

theorem execSvMinu_keeps {ρ : State} {c : CoreId} {o : SvOp} {s : State} (hK : Keeps ρ s) :
    OutKeeps ρ (execSvMinu c o s) := by
  unfold execSvMinu
  with_reducible repeat' first | assumption | apply keeps_next | apply runSvInt_keeps

theorem execSvMaxu_keeps {ρ : State} {c : CoreId} {o : SvOp} {s : State} (hK : Keeps ρ s) :
    OutKeeps ρ (execSvMaxu c o s) := by
  unfold execSvMaxu
  with_reducible repeat' first | assumption | apply keeps_next | apply runSvInt_keeps

theorem execSvCmpeq_keeps {ρ : State} {c : CoreId} {o : SvOp} {s : State} (hK : Keeps ρ s) :
    OutKeeps ρ (execSvCmpeq c o s) := by
  unfold execSvCmpeq
  with_reducible repeat' first | assumption | apply keeps_next | apply runSvInt_keeps

theorem execSvCmpgt_keeps {ρ : State} {c : CoreId} {o : SvOp} {s : State} (hK : Keeps ρ s) :
    OutKeeps ρ (execSvCmpgt c o s) := by
  unfold execSvCmpgt
  with_reducible repeat' first | assumption | apply keeps_next | apply runSvInt_keeps

theorem execSvCmpgtu_keeps {ρ : State} {c : CoreId} {o : SvOp} {s : State} (hK : Keeps ρ s) :
    OutKeeps ρ (execSvCmpgtu c o s) := by
  unfold execSvCmpgtu
  with_reducible repeat' first | assumption | apply keeps_next | apply runSvInt_keeps

theorem execSvMul_keeps {ρ : State} {c : CoreId} {o : SvOp} {s : State} (hK : Keeps ρ s) :
    OutKeeps ρ (execSvMul c o s) := by
  unfold execSvMul
  with_reducible repeat' first | assumption | apply keeps_next | apply runSvInt_keeps

theorem execSvAvgu_keeps {ρ : State} {c : CoreId} {o : SvOp} {s : State} (hK : Keeps ρ s) :
    OutKeeps ρ (execSvAvgu c o s) := by
  unfold execSvAvgu
  with_reducible repeat' first | assumption | apply keeps_next | apply runSvInt_keeps

theorem execSvAbsdu_keeps {ρ : State} {c : CoreId} {o : SvOp} {s : State} (hK : Keeps ρ s) :
    OutKeeps ρ (execSvAbsdu c o s) := by
  unfold execSvAbsdu
  with_reducible repeat' first | assumption | apply keeps_next | apply runSvInt_keeps

theorem runSvShift_keeps {ρ : State} {c : CoreId} {o : SvOp} {count : Fin 64} {op : Nat} {f : Nat → Nat → Nat} {s : State} (hK : Keeps ρ s) :
    Keeps ρ (runSvShift c o count op f s) := by
  unfold runSvShift
  with_reducible repeat' first | assumption | apply runSv_keeps | apply keeps_retire | apply svWrite_keeps | intro _

theorem execSvSlli_keeps {ρ : State} {c : CoreId} {o : SvOp} {count : Fin 64} {s : State} (hK : Keeps ρ s) :
    OutKeeps ρ (execSvSlli c o count s) := by
  unfold execSvSlli
  with_reducible repeat' first | assumption | apply keeps_next | apply runSvShift_keeps

theorem execSvSrli_keeps {ρ : State} {c : CoreId} {o : SvOp} {count : Fin 64} {s : State} (hK : Keeps ρ s) :
    OutKeeps ρ (execSvSrli c o count s) := by
  unfold execSvSrli
  with_reducible repeat' first | assumption | apply keeps_next | apply runSvShift_keeps

theorem execSvSrai_keeps {ρ : State} {c : CoreId} {o : SvOp} {count : Fin 64} {s : State} (hK : Keeps ρ s) :
    OutKeeps ρ (execSvSrai c o count s) := by
  unfold execSvSrai
  with_reducible repeat' first | assumption | apply keeps_next | apply runSvShift_keeps

theorem runSvFp_keeps {ρ : State} {c : CoreId} {o : SvOp} {op : Nat} {unary : Bool} {f : FFmt → Round → Nat → Nat → Nat → Nat × FFlags} {s : State} (hK : Keeps ρ s) :
    Keeps ρ (runSvFp c o op unary f s) := by
  unfold runSvFp
  with_reducible repeat' first
    | assumption
    | apply runSv_keeps
    | apply illegal_keeps
    | apply arith_keeps
    | apply svWrite_keeps
    | intro _
    | split

theorem execSvFadd_keeps {ρ : State} {c : CoreId} {o : SvOp} {s : State} (hK : Keeps ρ s) :
    OutKeeps ρ (execSvFadd c o s) := by
  unfold execSvFadd
  with_reducible repeat' first | assumption | apply keeps_next | apply runSvFp_keeps

theorem execSvFsub_keeps {ρ : State} {c : CoreId} {o : SvOp} {s : State} (hK : Keeps ρ s) :
    OutKeeps ρ (execSvFsub c o s) := by
  unfold execSvFsub
  with_reducible repeat' first | assumption | apply keeps_next | apply runSvFp_keeps

theorem execSvFmul_keeps {ρ : State} {c : CoreId} {o : SvOp} {s : State} (hK : Keeps ρ s) :
    OutKeeps ρ (execSvFmul c o s) := by
  unfold execSvFmul
  with_reducible repeat' first | assumption | apply keeps_next | apply runSvFp_keeps

theorem execSvFdiv_keeps {ρ : State} {c : CoreId} {o : SvOp} {s : State} (hK : Keeps ρ s) :
    OutKeeps ρ (execSvFdiv c o s) := by
  unfold execSvFdiv
  with_reducible repeat' first | assumption | apply keeps_next | apply runSvFp_keeps

theorem execSvFsqrt_keeps {ρ : State} {c : CoreId} {o : SvOp} {s : State} (hK : Keeps ρ s) :
    OutKeeps ρ (execSvFsqrt c o s) := by
  unfold execSvFsqrt
  with_reducible repeat' first | assumption | apply keeps_next | apply runSvFp_keeps

theorem execSvFmin_keeps {ρ : State} {c : CoreId} {o : SvOp} {s : State} (hK : Keeps ρ s) :
    OutKeeps ρ (execSvFmin c o s) := by
  unfold execSvFmin
  with_reducible repeat' first | assumption | apply keeps_next | apply runSvFp_keeps

theorem execSvFmax_keeps {ρ : State} {c : CoreId} {o : SvOp} {s : State} (hK : Keeps ρ s) :
    OutKeeps ρ (execSvFmax c o s) := by
  unfold execSvFmax
  with_reducible repeat' first | assumption | apply keeps_next | apply runSvFp_keeps

theorem execSvFmac_keeps {ρ : State} {c : CoreId} {o : SvOp} {s : State} (hK : Keeps ρ s) :
    OutKeeps ρ (execSvFmac c o s) := by
  unfold execSvFmac
  with_reducible repeat' first | assumption | apply keeps_next | apply runSvFp_keeps

theorem execSvFcmpeq_keeps {ρ : State} {c : CoreId} {o : SvOp} {s : State} (hK : Keeps ρ s) :
    OutKeeps ρ (execSvFcmpeq c o s) := by
  unfold execSvFcmpeq
  with_reducible repeat' first | assumption | apply keeps_next | apply runSvFp_keeps

theorem execSvFcmplt_keeps {ρ : State} {c : CoreId} {o : SvOp} {s : State} (hK : Keeps ρ s) :
    OutKeeps ρ (execSvFcmplt c o s) := by
  unfold execSvFcmplt
  with_reducible repeat' first | assumption | apply keeps_next | apply runSvFp_keeps

theorem execSvFcmple_keeps {ρ : State} {c : CoreId} {o : SvOp} {s : State} (hK : Keeps ρ s) :
    OutKeeps ρ (execSvFcmple c o s) := by
  unfold execSvFcmple
  with_reducible repeat' first | assumption | apply keeps_next | apply runSvFp_keeps

theorem execSvFabs_keeps {ρ : State} {c : CoreId} {o : SvOp} {s : State} (hK : Keeps ρ s) :
    OutKeeps ρ (execSvFabs c o s) := by
  unfold execSvFabs
  with_reducible repeat' first | assumption | apply keeps_next | apply runSvFp_keeps

theorem execSvFneg_keeps {ρ : State} {c : CoreId} {o : SvOp} {s : State} (hK : Keeps ρ s) :
    OutKeeps ρ (execSvFneg c o s) := by
  unfold execSvFneg
  with_reducible repeat' first | assumption | apply keeps_next | apply runSvFp_keeps

theorem runPick_keeps {ρ : State} {c : CoreId} {o : SvOp} {param : Fin 16} {op : Nat} {keep : Bool} {s : State} (hK : Keeps ρ s) :
    Keeps ρ (runPick c o param op keep s) := by
  unfold runPick
  with_reducible repeat' first | assumption | apply runSv_keeps | apply keeps_retire | apply viewSet_keeps | intro _

theorem runPerm_keeps {ρ : State} {c : CoreId} {o : SvOp} {param : Fin 16} {op : Nat} {bad : Bool} {f : List Nat → List Nat → List Nat} {s : State} (hK : Keeps ρ s) :
    Keeps ρ (runPerm c o param op bad f s) := by
  unfold runPerm
  with_reducible repeat' first | assumption | apply runSv_keeps | apply keeps_retire | apply svWrite_keeps | intro _

theorem execPick_keeps {ρ : State} {c : CoreId} {o : SvOp} {param : Fin 16} {s : State} (hK : Keeps ρ s) :
    OutKeeps ρ (execPick c o param s) := by
  unfold execPick
  with_reducible repeat' first | assumption | apply keeps_next | apply runPick_keeps

theorem execPickk_keeps {ρ : State} {c : CoreId} {o : SvOp} {param : Fin 16} {s : State} (hK : Keeps ρ s) :
    OutKeeps ρ (execPickk c o param s) := by
  unfold execPickk
  with_reducible repeat' first | assumption | apply keeps_next | apply runPick_keeps

theorem runMix_keeps {ρ : State} {c : CoreId} {o : SvOp} {param : Fin 16} {op : Nat} {half : List Nat → List Nat} {s : State} (hK : Keeps ρ s) :
    Keeps ρ (runMix c o param op half s) := by
  unfold runMix
  refine runSv_keeps (fun s hs => ?_) hK
  split
  · exact keeps_retire (svWrite_keeps (takeFree_keeps hs))
  · exact keeps_retire (svWrite_keeps hs)

theorem execMixlo_keeps {ρ : State} {c : CoreId} {o : SvOp} {param : Fin 16} {s : State} (hK : Keeps ρ s) :
    OutKeeps ρ (execMixlo c o param s) := by
  unfold execMixlo
  with_reducible repeat' first | assumption | apply keeps_next | apply runMix_keeps

theorem execMixhi_keeps {ρ : State} {c : CoreId} {o : SvOp} {param : Fin 16} {s : State} (hK : Keeps ρ s) :
    OutKeeps ρ (execMixhi c o param s) := by
  unfold execMixhi
  with_reducible repeat' first | assumption | apply keeps_next | apply runMix_keeps

theorem execSepev_keeps {ρ : State} {c : CoreId} {o : SvOp} {param : Fin 16} {s : State} (hK : Keeps ρ s) :
    OutKeeps ρ (execSepev c o param s) := by
  unfold execSepev
  with_reducible repeat' first | assumption | apply keeps_next | apply runPerm_keeps

theorem execSepod_keeps {ρ : State} {c : CoreId} {o : SvOp} {param : Fin 16} {s : State} (hK : Keeps ρ s) :
    OutKeeps ρ (execSepod c o param s) := by
  unfold execSepod
  with_reducible repeat' first | assumption | apply keeps_next | apply runPerm_keeps

theorem execSlide_keeps {ρ : State} {c : CoreId} {o : SvOp} {param : Fin 16} {s : State} (hK : Keeps ρ s) :
    OutKeeps ρ (execSlide c o param s) := by
  unfold execSlide
  with_reducible repeat' first
    | assumption
    | apply keeps_next
    | apply runSv_keeps
    | apply keeps_retire
    | apply viewSet_keeps
    | intro _

theorem execBcast_keeps {ρ : State} {c : CoreId} {o : SvOp} {param : Fin 16} {s : State} (hK : Keeps ρ s) :
    OutKeeps ρ (execBcast c o param s) := by
  unfold execBcast
  with_reducible repeat' first | assumption | apply keeps_next | apply runPerm_keeps

theorem execRevl_keeps {ρ : State} {c : CoreId} {o : SvOp} {param : Fin 16} {s : State} (hK : Keeps ρ s) :
    OutKeeps ρ (execRevl c o param s) := by
  unfold execRevl
  with_reducible repeat' first | assumption | apply keeps_next | apply runPerm_keeps

theorem execPutl_keeps {ρ : State} {c : CoreId} {o : SvOp} {s : State} (hK : Keeps ρ s) :
    OutKeeps ρ (execPutl c o s) := by
  unfold execPutl
  with_reducible repeat' first
    | assumption
    | apply keeps_next
    | apply runSv_keeps
    | apply keeps_retire
    | apply svWrite_keeps
    | intro _

theorem runToG_keeps {ρ : State} {c : CoreId} {major : Nat} {op : Nat} {o : SvOp} {bad : Bool} {f : Nat → List Nat → Int} {s : State} (hK : Keeps ρ s) :
    Keeps ρ (runToG c major op o bad f s) := by
  unfold runToG
  with_reducible repeat' first
    | assumption
    | apply keeps_retire
    | apply keeps_jump
    | apply keeps_trap
    | apply keeps_wait
    | apply runSv_keeps
    | apply gSet_keeps
    | intro _
    | apply keeps_ite_end

theorem execGetu_keeps {ρ : State} {c : CoreId} {o : SvOp} {s : State} (hK : Keeps ρ s) :
    OutKeeps ρ (execGetu c o s) := by
  unfold execGetu
  with_reducible repeat' first | assumption | apply keeps_next | apply runToG_keeps

theorem execGets_keeps {ρ : State} {c : CoreId} {o : SvOp} {s : State} (hK : Keeps ρ s) :
    OutKeeps ρ (execGets c o s) := by
  unfold execGets
  with_reducible repeat' first | assumption | apply keeps_next | apply runToG_keeps

theorem execFill_keeps {ρ : State} {c : CoreId} {o : SvOp} {s : State} (hK : Keeps ρ s) :
    OutKeeps ρ (execFill c o s) := by
  unfold execFill
  with_reducible repeat' first
    | assumption
    | apply keeps_next
    | apply keeps_retire
    | apply keeps_jump
    | apply keeps_trap
    | apply keeps_wait
    | apply runSv_keeps
    | apply svWrite_keeps
    | intro _
    | apply keeps_ite_end

theorem execTopb_keeps {ρ : State} {c : CoreId} {o : SvOp} {s : State} (hK : Keeps ρ s) :
    OutKeeps ρ (execTopb c o s) := by
  unfold execTopb
  with_reducible repeat' first | assumption | apply keeps_next | apply runToG_keeps

theorem execPopc_keeps {ρ : State} {c : CoreId} {o : SvOp} {s : State} (hK : Keeps ρ s) :
    OutKeeps ρ (execPopc c o s) := by
  unfold execPopc
  with_reducible repeat' first
    | assumption
    | apply keeps_next
    | apply keeps_retire
    | apply keeps_jump
    | apply keeps_trap
    | apply keeps_wait
    | apply runSv_keeps
    | apply svWrite_keeps
    | intro _
    | apply keeps_ite_end

theorem execRsum_keeps {ρ : State} {c : CoreId} {o : SvOp} {s : State} (hK : Keeps ρ s) :
    OutKeeps ρ (execRsum c o s) := by
  unfold execRsum
  with_reducible repeat' first | assumption | apply keeps_next | apply runToG_keeps

theorem execRsumu_keeps {ρ : State} {c : CoreId} {o : SvOp} {s : State} (hK : Keeps ρ s) :
    OutKeeps ρ (execRsumu c o s) := by
  unfold execRsumu
  with_reducible repeat' first | assumption | apply keeps_next | apply runToG_keeps

theorem execRmin_keeps {ρ : State} {c : CoreId} {o : SvOp} {s : State} (hK : Keeps ρ s) :
    OutKeeps ρ (execRmin c o s) := by
  unfold execRmin
  with_reducible repeat' first | assumption | apply keeps_next | apply runToG_keeps

theorem execRmax_keeps {ρ : State} {c : CoreId} {o : SvOp} {s : State} (hK : Keeps ρ s) :
    OutKeeps ρ (execRmax c o s) := by
  unfold execRmax
  with_reducible repeat' first | assumption | apply keeps_next | apply runToG_keeps

theorem execRminu_keeps {ρ : State} {c : CoreId} {o : SvOp} {s : State} (hK : Keeps ρ s) :
    OutKeeps ρ (execRminu c o s) := by
  unfold execRminu
  with_reducible repeat' first | assumption | apply keeps_next | apply runToG_keeps

theorem execRmaxu_keeps {ρ : State} {c : CoreId} {o : SvOp} {s : State} (hK : Keeps ρ s) :
    OutKeeps ρ (execRmaxu c o s) := by
  unfold execRmaxu
  with_reducible repeat' first | assumption | apply keeps_next | apply runToG_keeps

theorem loadPieces_keeps {ρ : State} {c : CoreId} {y0 : List (Nat × Nat)} {y1 : State} (hK : Keeps ρ y1) :
    Keeps ρ ((loadPieces c y0 y1).2.2) := by
  fun_induction loadPieces c y0 y1
  with_reducible repeat' first
    | assumption
    | apply coreLoad_keeps
    | (apply ‹∀ _, _›)
    | refine of_triple (by assumption) ?_
    | refine of_pair (by assumption) ?_

theorem storeParity_keeps {ρ : State} {c : CoreId} {y0 : List (Nat × Nat)} {y1 : State} (hK : Keeps ρ y1) :
    Keeps ρ ((storeParity c y0 y1).1) := by
  fun_induction storeParity c y0 y1
  with_reducible repeat' first
    | assumption
    | apply storeCheck_keeps
    | apply keeps_ite
    | intro _
    | (apply ‹∀ _, _›)
    | fail_if_no_progress (apply keeps_same)
    | fail_if_no_progress (apply keeps_mem)
    | split
    | dsimp only
    | refine of_did (by assumption) ?_
    | refine of_ok (by assumption) ?_
    | refine of_pair1 (by assumption) ?_

theorem storePieces_keeps {ρ : State} {c : CoreId} {bytes : List Byte} {base : Nat} {y0 : List (Nat × Nat)} {y1 : State} (hK : Keeps ρ y1) :
    TryKeeps ρ (storePieces c bytes base y0 y1) := by
  fun_induction storePieces c bytes base y0 y1
  with_reducible repeat' first
    | assumption
    | apply keeps_did
    | apply keeps_threw
    | apply coreStore_keeps
    | intro _
    | (apply ‹∀ _, _›)
    | fail_if_no_progress (apply keeps_same)
    | fail_if_no_progress (apply keeps_mem)
    | split
    | dsimp only
    | refine of_did (by assumption) ?_
    | refine of_ok (by assumption) ?_
    | refine of_threw (by assumption) ?_

theorem execSvld_keeps {ρ : State} {c : CoreId} {rd : Reg} {ra : Reg} {disp : BitVec 10} {k : Fin 4} {esz : Fin 4} {q : Bool} {s : State} (hK : Keeps ρ s) :
    OutKeeps ρ (execSvld c rd ra disp k esz q s) := by
  unfold execSvld
  with_reducible repeat' first
    | assumption
    | apply keeps_next
    | apply runCore_keeps
    | apply keeps_ite_end
    | apply illegal_keeps
    | apply keeps_trap
    | apply loadPieces_keeps
    | apply keeps_retire
    | apply keeps_foldl
    | apply viewSet_keeps
    | intro _
    | split
    | refine of_triple (by assumption) ?_

theorem execSvst_keeps {ρ : State} {c : CoreId} {rd : Reg} {ra : Reg} {disp : BitVec 10} {k : Fin 4} {esz : Fin 4} {q : Bool} {s : State} (hK : Keeps ρ s) :
    OutKeeps ρ (execSvst c rd ra disp k esz q s) := by
  unfold execSvst
  with_reducible repeat' first
    | assumption
    | apply keeps_next
    | apply keeps_retire
    | apply keeps_jump
    | apply keeps_trap
    | apply keeps_wait
    | apply runCore_keeps
    | apply illegal_keeps
    | apply storeParity_keeps
    | apply storePieces_keeps
    | split
    | intro _
    | fail_if_no_progress (apply keeps_same)
    | fail_if_no_progress (apply keeps_mem)
    | split
    | dsimp only
    | refine of_did (by assumption) ?_
    | refine of_ok (by assumption) ?_
    | refine of_some (by assumption) ?_
    | refine of_pair1 (by assumption) ?_
    | refine of_threw (by assumption) ?_
    | apply keeps_ite_end

/-! ### LongVec.lean -/

theorem tilePut_keeps {ρ : State} {c : CoreId} {off : Nat} {bs : List Byte} {s : State} (hK : Keeps ρ s) :
    Keeps ρ (tilePut c off bs s) := by
  unfold tilePut
  with_reducible repeat' first | assumption | apply tileWrite_keeps | intro _

theorem lvSeen_keeps {ρ : State} {c : CoreId} {reads : List (Nat × Nat)} {s : State} (hK : Keeps ρ s) :
    Keeps ρ (lvSeen c reads s) := by
  unfold lvSeen
  with_reducible repeat' first | assumption | apply tileCorrect_keeps | apply keeps_foldl | intro _

theorem lvLoop_keeps {ρ : State} {c : CoreId} {elem : ElemFn} {stop fuel e : Nat} {fl : FFlags} {out : Nat} {s : State}
    (h : Keeps ρ s) (hF : ∀ e out t, Keeps ρ t → ElemKeeps ρ (elem e out t)) :
    Keeps ρ (lvLoop c elem stop fuel e fl out s).2.2.2.2 := by
  induction fuel generalizing e fl out s with
  | zero => exact h
  | succ fuel ih =>
    unfold lvLoop
    split
    · exact h
    · split <;> rename_i he
      · exact of_elemTrap he (hF _ _ _ h)
      · dsimp only
        split
        · exact h
        · exact ih (coreMod_keeps (of_elem he (hF _ _ _ h)) fun k hk => hk)

theorem lviSet_keeps {ρ : State} {c : CoreId} {index : Nat} {out : Nat} {s : State} (hK : Keeps ρ s) :
    Keeps ρ (lviSet c index out s) := by
  unfold lviSet
  with_reducible repeat' first | assumption | apply coreMod_keeps | intro _

theorem lvImprecise_keeps {ρ : State} {c : CoreId} {fl : FFlags} {s : State} (hK : Keeps ρ s) :
    Keeps ρ (lvImprecise c fl s) := by
  unfold lvImprecise
  with_reducible repeat' first | assumption | apply keeps_ite | apply coreMod_keeps | intro _

theorem of_fifth {α β γ δ : Type} {r : State} {x : α × β × γ × δ × State} {a : α} {b : β} {c : γ} {d : δ} {t : State}
    (e : x = (a, b, c, d, t)) (h : Keeps r x.2.2.2.2) : Keeps r t := by
  subst e; exact h

theorem lvRun_keeps {ρ : State} {c : CoreId} {n : Nat} {elem : ElemFn} {finish : Nat → State → State} {s : State}
    (h : Keeps ρ s) (hF : ∀ e out t, Keeps ρ t → ElemKeeps ρ (elem e out t))
    (hG : ∀ out t, Keeps ρ t → Keeps ρ (finish out t)) : EndKeeps ρ (lvRun c n elem finish s) := by
  unfold lvRun
  dsimp only
  split <;> rename_i e <;> have hk := of_fifth e (lvLoop_keeps h hF)
  · split
    · exact takeImprecise_keeps (lvImprecise_keeps (lviSet_keeps hk))
    · exact lvImprecise_keeps (lviSet_keeps hk)
  · split
    · refine keeps_wait ?_
      split
      · exact takeImprecise_keeps (lviSet_keeps (lvImprecise_keeps hk))
      · exact takeIntr_keeps (lviSet_keeps (lvImprecise_keeps hk))
    · exact hG _ _ (lviSet_keeps (lvImprecise_keeps hk))

theorem runLv_keeps {ρ : State} {c : CoreId} {major : Nat} {o : LvOp} {op : Nat} {bad : State → Bool} {elem : ElemFn}
    {finish : Nat → State → State} {s : State} (h : Keeps ρ s)
    (hF : ∀ e out t, Keeps ρ t → ElemKeeps ρ (elem e out t))
    (hG : ∀ out t, Keeps ρ t → Keeps ρ (finish out t)) : Keeps ρ (runLv c major o op bad elem finish s) := by
  unfold runLv
  refine runInstr_keeps (fun t ht => ?_) h
  dsimp only
  split
  · exact ht
  · exact lvRun_keeps ht hF hG

theorem lvArithElem_keeps {ρ : State} {c : CoreId} {o : LvOp} {f : Nat → Nat → Nat × FFlags} {y0 : Nat} {y1 : Nat} {y2 : State} (hK : Keeps ρ y2) :
    ElemKeeps ρ (lvArithElem c o f y0 y1 y2) := by
  unfold lvArithElem
  with_reducible repeat' first
    | assumption
    | apply keeps_retire
    | apply keeps_jump
    | apply keeps_trap
    | apply keeps_wait
    | apply keeps_stop
    | apply keeps_done
    | apply tilePut_keeps
    | apply lvSeen_keeps
    | intro _
    | fail_if_no_progress (apply keeps_same)
    | fail_if_no_progress (apply keeps_mem)
    | split
    | dsimp only
    | refine of_did (by assumption) ?_
    | refine of_ok (by assumption) ?_
    | apply keeps_ite_end

theorem runLvInt_keeps {ρ : State} {c : CoreId} {o : LvOp} {op : Nat} {f : LaneFn} {s : State} (hK : Keeps ρ s) :
    Keeps ρ (runLvInt c o op f s) := by
  unfold runLvInt
  with_reducible repeat' first | assumption | apply runLv_keeps | apply lvArithElem_keeps | intro _

theorem runLvFp_keeps {ρ : State} {c : CoreId} {o : LvOp} {op : Nat} {f : Round → FFmt → Nat → Nat → Nat × FFlags} {s : State} (hK : Keeps ρ s) :
    Keeps ρ (runLvFp c o op f s) := by
  unfold runLvFp
  with_reducible repeat' first | assumption | apply runLv_keeps | apply lvArithElem_keeps | intro _

theorem tileBit_keeps {ρ : State} {c : CoreId} {off : Nat} {bit : Nat} {b : Bool} {s : State} (hK : Keeps ρ s) :
    Keeps ρ (tileBit c off bit b s) := by
  unfold tileBit
  with_reducible repeat' first | assumption | apply tilePut_keeps

theorem lvCmpElem_keeps {ρ : State} {c : CoreId} {o : LvOp} {f : Nat → Nat → Bool × FFlags} {y0 : Nat} {y1 : Nat} {y2 : State} (hK : Keeps ρ y2) :
    ElemKeeps ρ (lvCmpElem c o f y0 y1 y2) := by
  unfold lvCmpElem
  with_reducible repeat' first
    | assumption
    | apply keeps_retire
    | apply keeps_jump
    | apply keeps_trap
    | apply keeps_wait
    | apply keeps_stop
    | apply keeps_done
    | apply tileBit_keeps
    | apply lvSeen_keeps
    | intro _
    | fail_if_no_progress (apply keeps_same)
    | fail_if_no_progress (apply keeps_mem)
    | split
    | dsimp only
    | refine of_did (by assumption) ?_
    | refine of_ok (by assumption) ?_
    | apply keeps_ite_end

theorem runLvCmp_keeps {ρ : State} {c : CoreId} {o : LvOp} {op : Nat} {f : Nat → Nat → Nat → Bool} {s : State} (hK : Keeps ρ s) :
    Keeps ρ (runLvCmp c o op f s) := by
  unfold runLvCmp
  with_reducible repeat' first | assumption | apply runLv_keeps | apply lvCmpElem_keeps | intro _

theorem runLvFcmp_keeps {ρ : State} {c : CoreId} {o : LvOp} {op : Nat} {rel : FRel} {signalling : Bool} {s : State} (hK : Keeps ρ s) :
    Keeps ρ (runLvFcmp c o op rel signalling s) := by
  unfold runLvFcmp
  with_reducible repeat' first | assumption | apply runLv_keeps | apply lvCmpElem_keeps | intro _

theorem lvCompressElem_keeps {ρ : State} {c : CoreId} {o : LvOp} {y0 : Nat} {y1 : Nat} {y2 : State} (hK : Keeps ρ y2) :
    ElemKeeps ρ (lvCompressElem c o y0 y1 y2) := by
  unfold lvCompressElem
  with_reducible repeat' first
    | assumption
    | apply keeps_retire
    | apply keeps_jump
    | apply keeps_trap
    | apply keeps_wait
    | apply keeps_stop
    | apply keeps_done
    | apply tilePut_keeps
    | apply lvSeen_keeps
    | apply keeps_ite
    | intro _
    | fail_if_no_progress (apply keeps_same)
    | fail_if_no_progress (apply keeps_mem)
    | split
    | dsimp only
    | refine of_did (by assumption) ?_
    | refine of_ok (by assumption) ?_
    | refine of_threw (by assumption) ?_
    | apply keeps_ite_end

theorem lvGatherElem_keeps {ρ : State} {c : CoreId} {o : LvOp} {y0 : Nat} {y1 : Nat} {y2 : State} (hK : Keeps ρ y2) :
    ElemKeeps ρ (lvGatherElem c o y0 y1 y2) := by
  unfold lvGatherElem
  with_reducible repeat' first
    | assumption
    | apply keeps_retire
    | apply keeps_jump
    | apply keeps_trap
    | apply keeps_wait
    | apply keeps_stop
    | apply keeps_done
    | apply coreLoad_keeps
    | apply tilePut_keeps
    | apply lvSeen_keeps
    | apply keeps_ite
    | intro _
    | fail_if_no_progress (apply keeps_same)
    | fail_if_no_progress (apply keeps_mem)
    | split
    | dsimp only
    | refine of_pair (by assumption) ?_
    | refine of_did (by assumption) ?_
    | refine of_ok (by assumption) ?_
    | refine of_threw (by assumption) ?_
    | apply keeps_ite_end

theorem lvScatterElem_keeps {ρ : State} {c : CoreId} {o : LvOp} {y0 : Nat} {y1 : Nat} {y2 : State} (hK : Keeps ρ y2) :
    ElemKeeps ρ (lvScatterElem c o y0 y1 y2) := by
  unfold lvScatterElem
  with_reducible repeat' first
    | assumption
    | apply keeps_retire
    | apply keeps_jump
    | apply keeps_trap
    | apply keeps_wait
    | apply keeps_stop
    | apply keeps_done
    | apply coreStore_keeps
    | apply lvSeen_keeps
    | apply keeps_ite
    | intro _
    | fail_if_no_progress (apply keeps_same)
    | fail_if_no_progress (apply keeps_mem)
    | split
    | dsimp only
    | refine of_did (by assumption) ?_
    | refine of_ok (by assumption) ?_
    | refine of_threw (by assumption) ?_
    | apply keeps_ite_end

theorem lvUnpackElem_keeps {ρ : State} {c : CoreId} {o : LvOp} {y0 : Nat} {y1 : Nat} {y2 : State} (hK : Keeps ρ y2) :
    ElemKeeps ρ (lvUnpackElem c o y0 y1 y2) := by
  unfold lvUnpackElem
  with_reducible repeat' first
    | assumption
    | apply keeps_retire
    | apply keeps_jump
    | apply keeps_trap
    | apply keeps_wait
    | apply keeps_stop
    | apply keeps_done
    | apply tilePut_keeps
    | apply lvSeen_keeps
    | intro _
    | fail_if_no_progress (apply keeps_same)
    | fail_if_no_progress (apply keeps_mem)
    | split
    | dsimp only
    | refine of_did (by assumption) ?_
    | refine of_ok (by assumption) ?_
    | apply keeps_ite_end

theorem lvPackElem_keeps {ρ : State} {c : CoreId} {o : LvOp} {y0 : Nat} {y1 : Nat} {y2 : State} (hK : Keeps ρ y2) :
    ElemKeeps ρ (lvPackElem c o y0 y1 y2) := by
  unfold lvPackElem
  with_reducible repeat' first
    | assumption
    | apply keeps_retire
    | apply keeps_jump
    | apply keeps_trap
    | apply keeps_wait
    | apply keeps_stop
    | apply keeps_done
    | apply tilePut_keeps
    | apply lvSeen_keeps
    | intro _
    | fail_if_no_progress (apply keeps_same)
    | fail_if_no_progress (apply keeps_mem)
    | split
    | dsimp only
    | refine of_did (by assumption) ?_
    | refine of_ok (by assumption) ?_
    | apply keeps_ite_end

theorem execLvAdd_keeps {ρ : State} {c : CoreId} {o : LvOp} {s : State} (hK : Keeps ρ s) :
    OutKeeps ρ (execLvAdd c o s) := by
  unfold execLvAdd
  with_reducible repeat' first | assumption | apply keeps_next | apply runLvInt_keeps

theorem execLvSub_keeps {ρ : State} {c : CoreId} {o : LvOp} {s : State} (hK : Keeps ρ s) :
    OutKeeps ρ (execLvSub c o s) := by
  unfold execLvSub
  with_reducible repeat' first | assumption | apply keeps_next | apply runLvInt_keeps

theorem execLvMul_keeps {ρ : State} {c : CoreId} {o : LvOp} {s : State} (hK : Keeps ρ s) :
    OutKeeps ρ (execLvMul c o s) := by
  unfold execLvMul
  with_reducible repeat' first | assumption | apply keeps_next | apply runLvInt_keeps

theorem execLvAnd_keeps {ρ : State} {c : CoreId} {o : LvOp} {s : State} (hK : Keeps ρ s) :
    OutKeeps ρ (execLvAnd c o s) := by
  unfold execLvAnd
  with_reducible repeat' first | assumption | apply keeps_next | apply runLvInt_keeps

theorem execLvOr_keeps {ρ : State} {c : CoreId} {o : LvOp} {s : State} (hK : Keeps ρ s) :
    OutKeeps ρ (execLvOr c o s) := by
  unfold execLvOr
  with_reducible repeat' first | assumption | apply keeps_next | apply runLvInt_keeps

theorem execLvXor_keeps {ρ : State} {c : CoreId} {o : LvOp} {s : State} (hK : Keeps ρ s) :
    OutKeeps ρ (execLvXor c o s) := by
  unfold execLvXor
  with_reducible repeat' first | assumption | apply keeps_next | apply runLvInt_keeps

theorem execLvMin_keeps {ρ : State} {c : CoreId} {o : LvOp} {s : State} (hK : Keeps ρ s) :
    OutKeeps ρ (execLvMin c o s) := by
  unfold execLvMin
  with_reducible repeat' first | assumption | apply keeps_next | apply runLvInt_keeps

theorem execLvMax_keeps {ρ : State} {c : CoreId} {o : LvOp} {s : State} (hK : Keeps ρ s) :
    OutKeeps ρ (execLvMax c o s) := by
  unfold execLvMax
  with_reducible repeat' first | assumption | apply keeps_next | apply runLvInt_keeps

theorem execLvMinu_keeps {ρ : State} {c : CoreId} {o : LvOp} {s : State} (hK : Keeps ρ s) :
    OutKeeps ρ (execLvMinu c o s) := by
  unfold execLvMinu
  with_reducible repeat' first | assumption | apply keeps_next | apply runLvInt_keeps

theorem execLvMaxu_keeps {ρ : State} {c : CoreId} {o : LvOp} {s : State} (hK : Keeps ρ s) :
    OutKeeps ρ (execLvMaxu c o s) := by
  unfold execLvMaxu
  with_reducible repeat' first | assumption | apply keeps_next | apply runLvInt_keeps

theorem execLvFadd_keeps {ρ : State} {c : CoreId} {o : LvOp} {s : State} (hK : Keeps ρ s) :
    OutKeeps ρ (execLvFadd c o s) := by
  unfold execLvFadd
  with_reducible repeat' first | assumption | apply keeps_next | apply runLvFp_keeps

theorem execLvFsub_keeps {ρ : State} {c : CoreId} {o : LvOp} {s : State} (hK : Keeps ρ s) :
    OutKeeps ρ (execLvFsub c o s) := by
  unfold execLvFsub
  with_reducible repeat' first | assumption | apply keeps_next | apply runLvFp_keeps

theorem execLvFmul_keeps {ρ : State} {c : CoreId} {o : LvOp} {s : State} (hK : Keeps ρ s) :
    OutKeeps ρ (execLvFmul c o s) := by
  unfold execLvFmul
  with_reducible repeat' first | assumption | apply keeps_next | apply runLvFp_keeps

theorem execLvFdiv_keeps {ρ : State} {c : CoreId} {o : LvOp} {s : State} (hK : Keeps ρ s) :
    OutKeeps ρ (execLvFdiv c o s) := by
  unfold execLvFdiv
  with_reducible repeat' first | assumption | apply keeps_next | apply runLvFp_keeps

theorem execLvFmin_keeps {ρ : State} {c : CoreId} {o : LvOp} {s : State} (hK : Keeps ρ s) :
    OutKeeps ρ (execLvFmin c o s) := by
  unfold execLvFmin
  with_reducible repeat' first | assumption | apply keeps_next | apply runLvFp_keeps

theorem execLvFmax_keeps {ρ : State} {c : CoreId} {o : LvOp} {s : State} (hK : Keeps ρ s) :
    OutKeeps ρ (execLvFmax c o s) := by
  unfold execLvFmax
  with_reducible repeat' first | assumption | apply keeps_next | apply runLvFp_keeps

theorem execLvCmpeq_keeps {ρ : State} {c : CoreId} {o : LvOp} {s : State} (hK : Keeps ρ s) :
    OutKeeps ρ (execLvCmpeq c o s) := by
  unfold execLvCmpeq
  with_reducible repeat' first | assumption | apply keeps_next | apply runLvCmp_keeps

theorem execLvCmplt_keeps {ρ : State} {c : CoreId} {o : LvOp} {s : State} (hK : Keeps ρ s) :
    OutKeeps ρ (execLvCmplt c o s) := by
  unfold execLvCmplt
  with_reducible repeat' first | assumption | apply keeps_next | apply runLvCmp_keeps

theorem execLvCmpltu_keeps {ρ : State} {c : CoreId} {o : LvOp} {s : State} (hK : Keeps ρ s) :
    OutKeeps ρ (execLvCmpltu c o s) := by
  unfold execLvCmpltu
  with_reducible repeat' first | assumption | apply keeps_next | apply runLvCmp_keeps

theorem execLvFcmpeq_keeps {ρ : State} {c : CoreId} {o : LvOp} {s : State} (hK : Keeps ρ s) :
    OutKeeps ρ (execLvFcmpeq c o s) := by
  unfold execLvFcmpeq
  with_reducible repeat' first | assumption | apply keeps_next | apply runLvFcmp_keeps

theorem execLvFcmplt_keeps {ρ : State} {c : CoreId} {o : LvOp} {s : State} (hK : Keeps ρ s) :
    OutKeeps ρ (execLvFcmplt c o s) := by
  unfold execLvFcmplt
  with_reducible repeat' first | assumption | apply keeps_next | apply runLvFcmp_keeps

theorem execCompress_keeps {ρ : State} {c : CoreId} {o : LvOp} {s : State} (hK : Keeps ρ s) :
    OutKeeps ρ (execCompress c o s) := by
  unfold execCompress
  with_reducible repeat' first
    | assumption
    | apply keeps_next
    | apply runLv_keeps
    | apply lvCompressElem_keeps
    | apply gSet_keeps
    | intro _

theorem execGather_keeps {ρ : State} {c : CoreId} {o : LvOp} {s : State} (hK : Keeps ρ s) :
    OutKeeps ρ (execGather c o s) := by
  unfold execGather
  with_reducible repeat' first
    | assumption
    | apply keeps_next
    | apply runLv_keeps
    | apply lvGatherElem_keeps
    | intro _

theorem execScatter_keeps {ρ : State} {c : CoreId} {o : LvOp} {s : State} (hK : Keeps ρ s) :
    OutKeeps ρ (execScatter c o s) := by
  unfold execScatter
  with_reducible repeat' first
    | assumption
    | apply keeps_next
    | apply runLv_keeps
    | apply lvScatterElem_keeps
    | intro _

theorem execUnpack_keeps {ρ : State} {c : CoreId} {o : LvOp} {s : State} (hK : Keeps ρ s) :
    OutKeeps ρ (execUnpack c o s) := by
  unfold execUnpack
  with_reducible repeat' first
    | assumption
    | apply keeps_next
    | apply runLv_keeps
    | apply lvUnpackElem_keeps
    | intro _

theorem execPack_keeps {ρ : State} {c : CoreId} {o : LvOp} {s : State} (hK : Keeps ρ s) :
    OutKeeps ρ (execPack c o s) := by
  unfold execPack
  with_reducible repeat' first | assumption | apply keeps_next | apply runLv_keeps | apply lvPackElem_keeps | intro _

/-! ### MirrorRows.lean -/

theorem applyRecord_keeps {ρ : State} {m : MItem} {s : State} (hK : Keeps ρ s) :
    Keeps ρ (applyRecord m s) := by
  unfold applyRecord
  with_reducible repeat' first
    | assumption
    | apply applyBack_keeps
    | apply twMod_keeps
    | apply raiseFloor_keeps
    | apply setPolicy_keeps
    | apply keeps_ite
    | intro _
    | fail_if_no_progress (apply keeps_same)
    | fail_if_no_progress (apply keeps_mem)
    | split
    | dsimp only
    | refine of_some (by assumption) ?_

theorem applyNext_keeps {ρ : State} {kind : Nat} {s : State} (hK : Keeps ρ s) :
    Keeps ρ (applyNext kind s) := by
  unfold applyNext
  with_reducible repeat' first
    | assumption
    | apply keeps_ite
    | apply sendItem_keeps
    | apply twMod_keeps
    | apply applyRecord_keeps
    | intro _
    | split

theorem execEntryRecord_keeps {ρ : State} {s : State} (hK : Keeps ρ s) :
    OutKeeps ρ (execEntryRecord s) := by
  unfold execEntryRecord
  with_reducible repeat' first | assumption | apply keeps_next | apply applyNext_keeps

theorem execPostRecord_keeps {ρ : State} {s : State} (hK : Keeps ρ s) :
    OutKeeps ρ (execPostRecord s) := by
  unfold execPostRecord
  with_reducible repeat' first | assumption | apply keeps_next | apply applyNext_keeps

theorem execRetireRecord_keeps {ρ : State} {s : State} (hK : Keeps ρ s) :
    OutKeeps ρ (execRetireRecord s) := by
  unfold execRetireRecord
  with_reducible repeat' first | assumption | apply keeps_next | apply applyNext_keeps

theorem execQueueRecord_keeps {ρ : State} {s : State} (hK : Keeps ρ s) :
    OutKeeps ρ (execQueueRecord s) := by
  unfold execQueueRecord
  with_reducible repeat' first | assumption | apply keeps_next | apply applyNext_keeps

theorem execInstanceRecord_keeps {ρ : State} {s : State} (hK : Keeps ρ s) :
    OutKeeps ρ (execInstanceRecord s) := by
  unfold execInstanceRecord
  with_reducible repeat' first | assumption | apply keeps_next | apply applyNext_keeps

theorem execFloorRecord_keeps {ρ : State} {s : State} (hK : Keeps ρ s) :
    OutKeeps ρ (execFloorRecord s) := by
  unfold execFloorRecord
  with_reducible repeat' first | assumption | apply keeps_next | apply applyNext_keeps

theorem waitCovered_keeps {ρ : State} {j : Job} {s : State} (hK : Keeps ρ s) :
    Keeps ρ (waitCovered j s) := by
  unfold waitCovered
  with_reducible repeat' first | assumption | apply keeps_ite | apply acceptJob_keeps | apply jobMod_keeps | intro _

theorem acknowledge_keeps {ρ : State} {num : Nat} {s : State} (hK : Keeps ρ s) :
    Keeps ρ (acknowledge num s) := by
  unfold acknowledge
  with_reducible repeat' first
    | assumption
    | apply twMod_keeps
    | apply claimSecured_keeps
    | apply mirrorSecured_keeps
    | apply waitCovered_keeps
    | apply keeps_foldl
    | intro _
    | fail_if_no_progress (apply keeps_same)
    | fail_if_no_progress (apply keeps_mem)
    | split
    | dsimp only
    | refine of_some (by assumption) ?_

theorem execMirrorAck_keeps {ρ : State} {s : State} (hK : Keeps ρ s) :
    OutKeeps ρ (execMirrorAck s) := by
  unfold execMirrorAck
  with_reducible repeat' first
    | assumption
    | apply keeps_next
    | apply unlessHold_keeps
    | apply acknowledge_keeps
    | apply twMod_keeps
    | intro _
    | fail_if_no_progress (apply keeps_same)
    | fail_if_no_progress (apply keeps_mem)
    | split
    | dsimp only

theorem execInvalidateDone_keeps {ρ : State} {s : State} (hK : Keeps ρ s) :
    OutKeeps ρ (execInvalidateDone s) := by
  unfold execInvalidateDone
  with_reducible repeat' first
    | assumption
    | apply keeps_next
    | apply odBump_keeps
    | fail_if_no_progress (apply keeps_mem)
    | split

theorem execAtsInvalidate_keeps {ρ : State} {link : Link} {_address : Nat} {_length : Nat} {s : State} (hK : Keeps ρ s) :
    OutKeeps ρ (execAtsInvalidate link _address _length s) := by
  unfold execAtsInvalidate
  with_reducible repeat' first | assumption | apply keeps_next | apply emit_keeps

theorem loadTimeout_keeps {ρ : State} {c : CoreId} {address : Nat} {walkEntry : Nat} {s : State} (hK : Keeps ρ s) :
    Keeps ρ (loadTimeout c address walkEntry s) := by
  unfold loadTimeout
  with_reducible repeat' first | assumption | apply takeTrap_keeps | intro _

theorem coreTimeout_keeps {ρ : State} {c : CoreId} {address : Nat} {walkEntry : Nat} {store : Bool} {s : State} (hK : Keeps ρ s) :
    Keeps ρ (coreTimeout c address walkEntry store s) := by
  unfold coreTimeout
  with_reducible repeat' first
    | assumption
    | apply loadTimeout_keeps
    | apply failTask_keeps
    | apply rasEvent_keeps
    | apply keeps_ite
    | intro _
    | fail_if_no_progress (apply keeps_same)
    | fail_if_no_progress (apply keeps_mem)
    | split
    | dsimp only
    | refine of_some (by assumption) ?_

theorem execMemoryTimeout_keeps {ρ : State} {slot : Nat} {address : Nat} {walkEntry : Nat} {store : Bool} {s : State} (hK : Keeps ρ s) :
    OutKeeps ρ (execMemoryTimeout slot address walkEntry store s) := by
  unfold execMemoryTimeout
  with_reducible repeat' first
    | assumption
    | apply keeps_next
    | apply unlessHold_keeps
    | apply coreTimeout_keeps
    | apply odBump_keeps
    | apply failTask_keeps
    | split
    | intro _
    | fail_if_no_progress (apply keeps_same)
    | fail_if_no_progress (apply keeps_mem)
    | split
    | dsimp only
    | refine of_some (by assumption) ?_

/-! ### Pins.lean -/

theorem countGroupError_keeps {ρ : State} {g : Nat} {s : State} (hK : Keeps ρ s) :
    Keeps ρ (countGroupError g s) := by
  unfold countGroupError
  with_reducible repeat' first
    | assumption
    | apply keeps_ite
    | apply unitLeft_keeps
    | intro _
    | fail_if_no_progress (apply keeps_same)

theorem parityError_keeps {ρ : State} {bank : Nat} {row : Nat} {s : State} (hK : Keeps ρ s) :
    Keeps ρ (parityError bank row s) := by
  unfold parityError
  with_reducible repeat' first
    | assumption
    | apply healRows_keeps
    | apply odBump_keeps
    | apply repairClass_keeps
    | apply countGroupError_keeps
    | apply failTask_keeps
    | apply keeps_foldl
    | intro _
    | fail_if_no_progress (apply keeps_same)
    | fail_if_no_progress (apply keeps_mem)
    | split
    | dsimp only
    | refine of_some (by assumption) ?_

theorem execGlumeParityPass_keeps {ρ : State} {errors : ParityPass} {s : State} (hK : Keeps ρ s) :
    OutKeeps ρ (execGlumeParityPass errors s) := by
  unfold execGlumeParityPass
  with_reducible repeat' first
    | assumption
    | apply keeps_next
    | apply parityError_keeps
    | split
    | apply keeps_foldl
    | intro _
    | fail_if_no_progress (apply keeps_same)
    | fail_if_no_progress (apply keeps_mem)
    | split
    | dsimp only
    | refine of_threw (by assumption) ?_

theorem execRefclkLoss_keeps {ρ : State} {clock : RefClk} {s : State} (hK : Keeps ρ s) :
    OutKeeps ρ (execRefclkLoss clock s) := by
  unfold execRefclkLoss
  with_reducible repeat' first
    | assumption
    | apply keeps_next
    | apply keeps_ite
    | apply fatal_keeps
    | apply windowEnds_keeps
    | apply linkDown_keeps
    | apply keeps_foldl
    | apply odSet_keeps
    | intro _
    | split

theorem execPortTrainingDone_keeps {ρ : State} {port : Fin 4} {up : Bool} {s : State} (hK : Keeps ρ s) :
    OutKeeps ρ (execPortTrainingDone port up s) := by
  unfold execPortTrainingDone
  with_reducible repeat' first | assumption | apply keeps_next | apply keeps_ite | apply odSet_keeps | intro _

theorem execTapInstruction_keeps {ρ : State} {ir : TapIr} {s : State} (hK : Keeps ρ s) :
    OutKeeps ρ (execTapInstruction ir s) := by
  unfold execTapInstruction
  with_reducible repeat' first
    | assumption
    | apply keeps_next
    | apply emit_keeps
    | apply takeFree_keeps
    | fail_if_no_progress (apply keeps_same)
    | split

theorem mgmtDatagram_keeps {ρ : State} {src : VdpSrc} {m : List Byte} {s : State} (hK : Keeps ρ s) :
    Keeps ρ (mgmtDatagram src m s) := by
  unfold mgmtDatagram
  with_reducible repeat' first
    | assumption
    | apply odBump_keeps
    | apply twMod_keeps
    | apply claimArrives_keeps
    | apply vdpArrive_keeps
    | apply keeps_ite
    | intro _
    | fail_if_no_progress (apply keeps_same)
    | fail_if_no_progress (apply keeps_mem)
    | split

theorem execManagementFrame_keeps {ρ : State} {frame : MgmtFrame} {s : State} (hK : Keeps ρ s) :
    OutKeeps ρ (execManagementFrame frame s) := by
  unfold execManagementFrame
  with_reducible repeat' first
    | assumption
    | apply keeps_next
    | apply emit_keeps
    | apply mgmtDatagram_keeps
    | split
    | intro _
    | fail_if_no_progress (apply keeps_same)
    | fail_if_no_progress (apply keeps_mem)
    | split
    | dsimp only

theorem sendBeacon_keeps {ρ : State} {s : State} (hK : Keeps ρ s) :
    Keeps ρ (sendBeacon s) := by
  unfold sendBeacon
  with_reducible repeat' first | assumption | apply emit_keeps | apply keeps_ite | intro _ | split

theorem execPlcaBeacon_keeps {ρ : State} {seen : PlcaTurn} {s : State} (hK : Keeps ρ s) :
    OutKeeps ρ (execPlcaBeacon seen s) := by
  unfold execPlcaBeacon
  with_reducible repeat' first
    | assumption
    | apply keeps_next
    | apply odSet_keeps
    | apply sendBeacon_keeps
    | split
    | intro _
    | fail_if_no_progress (apply keeps_same)
    | fail_if_no_progress (apply keeps_mem)
    | split
    | dsimp only

/-! ### TillerEnc.lean -/

theorem execIllegalInstruction_keeps {ρ : State} {c : CoreId} {word : BitVec 32} {s : State} (hK : Keeps ρ s) :
    OutKeeps ρ (execIllegalInstruction c word s) := by
  unfold execIllegalInstruction
  with_reducible repeat' first
    | assumption
    | apply keeps_next
    | apply keeps_ite
    | apply runCore_keeps
    | apply illegal_keeps
    | intro _

/-! ### TillerFp.lean -/

theorem fWrite_keeps {ρ : State} {c : CoreId} {rd : Reg} {v : Nat} {s : State} (hK : Keeps ρ s) :
    Keeps ρ (fWrite c rd v s) := by
  unfold fWrite
  with_reducible repeat' first | assumption | apply fSet_keeps

theorem runFpu_keeps {ρ : State} {c : CoreId} {rd : Reg} {ra : Reg} {rb : Reg} {fmt : FFmt} {rm : FRm} {op : FFmt → Round → Nat → Nat → Nat → Nat × FFlags} {s : State} (hK : Keeps ρ s) :
    Keeps ρ (runFpu c rd ra rb fmt rm op s) := by
  unfold runFpu
  with_reducible repeat' first | assumption | apply runCore_keeps | apply arith_keeps | apply fWrite_keeps | intro _

theorem runFtoG_keeps {ρ : State} {c : CoreId} {rd : Reg} {ra : Reg} {fmt : FFmt} {rm : FRm} {op : FFmt → Round → Nat → Nat × FFlags} {s : State} (hK : Keeps ρ s) :
    Keeps ρ (runFtoG c rd ra fmt rm op s) := by
  unfold runFtoG
  with_reducible repeat' first | assumption | apply runCore_keeps | apply arith_keeps | apply gSet_keeps | intro _

theorem runGtoF_keeps {ρ : State} {c : CoreId} {rd : Reg} {ra : Reg} {fmt : FFmt} {rm : FRm} {read : Word → Int} {s : State} (hK : Keeps ρ s) :
    Keeps ρ (runGtoF c rd ra fmt rm read s) := by
  unfold runGtoF
  with_reducible repeat' first | assumption | apply runCore_keeps | apply arith_keeps | apply fWrite_keeps | intro _

theorem runFcmp_keeps {ρ : State} {c : CoreId} {rd : Reg} {ra : Reg} {rb : Reg} {fmt : FFmt} {rel : FRel} {signalling : Bool} {s : State} (hK : Keeps ρ s) :
    Keeps ρ (runFcmp c rd ra rb fmt rel signalling s) := by
  unfold runFcmp
  with_reducible repeat' first | assumption | apply runCore_keeps | apply arith_keeps | apply gSet_keeps | intro _

theorem execFadd_keeps {ρ : State} {c : CoreId} {rd : Reg} {ra : Reg} {rb : Reg} {fmt : FFmt} {rm : FRm} {s : State} (hK : Keeps ρ s) :
    OutKeeps ρ (execFadd c rd ra rb fmt rm s) := by
  unfold execFadd
  with_reducible repeat' first | assumption | apply keeps_next | apply runFpu_keeps

theorem execFsub_keeps {ρ : State} {c : CoreId} {rd : Reg} {ra : Reg} {rb : Reg} {fmt : FFmt} {rm : FRm} {s : State} (hK : Keeps ρ s) :
    OutKeeps ρ (execFsub c rd ra rb fmt rm s) := by
  unfold execFsub
  with_reducible repeat' first | assumption | apply keeps_next | apply runFpu_keeps

theorem execFmul_keeps {ρ : State} {c : CoreId} {rd : Reg} {ra : Reg} {rb : Reg} {fmt : FFmt} {rm : FRm} {s : State} (hK : Keeps ρ s) :
    OutKeeps ρ (execFmul c rd ra rb fmt rm s) := by
  unfold execFmul
  with_reducible repeat' first | assumption | apply keeps_next | apply runFpu_keeps

theorem execFdiv_keeps {ρ : State} {c : CoreId} {rd : Reg} {ra : Reg} {rb : Reg} {fmt : FFmt} {rm : FRm} {s : State} (hK : Keeps ρ s) :
    OutKeeps ρ (execFdiv c rd ra rb fmt rm s) := by
  unfold execFdiv
  with_reducible repeat' first | assumption | apply keeps_next | apply runFpu_keeps

theorem execFmin_keeps {ρ : State} {c : CoreId} {rd : Reg} {ra : Reg} {rb : Reg} {fmt : FFmt} {rm : FRm} {s : State} (hK : Keeps ρ s) :
    OutKeeps ρ (execFmin c rd ra rb fmt rm s) := by
  unfold execFmin
  with_reducible repeat' first | assumption | apply keeps_next | apply runFpu_keeps

theorem execFmax_keeps {ρ : State} {c : CoreId} {rd : Reg} {ra : Reg} {rb : Reg} {fmt : FFmt} {rm : FRm} {s : State} (hK : Keeps ρ s) :
    OutKeeps ρ (execFmax c rd ra rb fmt rm s) := by
  unfold execFmax
  with_reducible repeat' first | assumption | apply keeps_next | apply runFpu_keeps

theorem execFmac_keeps {ρ : State} {c : CoreId} {rd : Reg} {ra : Reg} {rb : Reg} {fmt : FFmt} {rm : FRm} {s : State} (hK : Keeps ρ s) :
    OutKeeps ρ (execFmac c rd ra rb fmt rm s) := by
  unfold execFmac
  with_reducible repeat' first | assumption | apply keeps_next | apply runFpu_keeps

theorem execFsqrt_keeps {ρ : State} {c : CoreId} {rd : Reg} {ra : Reg} {fmt : FFmt} {rm : FRm} {s : State} (hK : Keeps ρ s) :
    OutKeeps ρ (execFsqrt c rd ra fmt rm s) := by
  unfold execFsqrt
  with_reducible repeat' first | assumption | apply keeps_next | apply runFpu_keeps

theorem execFtoi_keeps {ρ : State} {c : CoreId} {rd : Reg} {ra : Reg} {fmt : FFmt} {rm : FRm} {s : State} (hK : Keeps ρ s) :
    OutKeeps ρ (execFtoi c rd ra fmt rm s) := by
  unfold execFtoi
  with_reducible repeat' first | assumption | apply keeps_next | apply runFtoG_keeps

theorem execFtou_keeps {ρ : State} {c : CoreId} {rd : Reg} {ra : Reg} {fmt : FFmt} {rm : FRm} {s : State} (hK : Keeps ρ s) :
    OutKeeps ρ (execFtou c rd ra fmt rm s) := by
  unfold execFtou
  with_reducible repeat' first | assumption | apply keeps_next | apply runFtoG_keeps

theorem execItof_keeps {ρ : State} {c : CoreId} {rd : Reg} {ra : Reg} {fmt : FFmt} {rm : FRm} {s : State} (hK : Keeps ρ s) :
    OutKeeps ρ (execItof c rd ra fmt rm s) := by
  unfold execItof
  with_reducible repeat' first | assumption | apply keeps_next | apply runGtoF_keeps

theorem execUtof_keeps {ρ : State} {c : CoreId} {rd : Reg} {ra : Reg} {fmt : FFmt} {rm : FRm} {s : State} (hK : Keeps ρ s) :
    OutKeeps ρ (execUtof c rd ra fmt rm s) := by
  unfold execUtof
  with_reducible repeat' first | assumption | apply keeps_next | apply runGtoF_keeps

theorem execFtof_keeps {ρ : State} {c : CoreId} {rd : Reg} {ra : Reg} {fmt : FFmt} {rm : FRm} {s : State} (hK : Keeps ρ s) :
    OutKeeps ρ (execFtof c rd ra fmt rm s) := by
  unfold execFtof
  with_reducible repeat' first
    | assumption
    | apply keeps_next
    | apply runCore_keeps
    | apply arith_keeps
    | apply fWrite_keeps
    | intro _

theorem execFint_keeps {ρ : State} {c : CoreId} {rd : Reg} {ra : Reg} {fmt : FFmt} {rm : FRm} {s : State} (hK : Keeps ρ s) :
    OutKeeps ρ (execFint c rd ra fmt rm s) := by
  unfold execFint
  with_reducible repeat' first | assumption | apply keeps_next | apply runFpu_keeps

theorem execFbits_keeps {ρ : State} {c : CoreId} {rd : Reg} {ra : Reg} {s : State} (hK : Keeps ρ s) :
    OutKeeps ρ (execFbits c rd ra s) := by
  unfold execFbits
  with_reducible repeat' first
    | assumption
    | apply keeps_next
    | apply runCore_keeps
    | apply keeps_retire
    | apply gSet_keeps
    | intro _

theorem execGbits_keeps {ρ : State} {c : CoreId} {rd : Reg} {ra : Reg} {s : State} (hK : Keeps ρ s) :
    OutKeeps ρ (execGbits c rd ra s) := by
  unfold execGbits
  with_reducible repeat' first
    | assumption
    | apply keeps_next
    | apply runCore_keeps
    | apply keeps_retire
    | apply fSet_keeps
    | intro _

theorem execFeq_keeps {ρ : State} {c : CoreId} {rd : Reg} {ra : Reg} {rb : Reg} {fmt : FFmt} {s : State} (hK : Keeps ρ s) :
    OutKeeps ρ (execFeq c rd ra rb fmt s) := by
  unfold execFeq
  with_reducible repeat' first | assumption | apply keeps_next | apply runFcmp_keeps

theorem execFlt_keeps {ρ : State} {c : CoreId} {rd : Reg} {ra : Reg} {rb : Reg} {fmt : FFmt} {s : State} (hK : Keeps ρ s) :
    OutKeeps ρ (execFlt c rd ra rb fmt s) := by
  unfold execFlt
  with_reducible repeat' first | assumption | apply keeps_next | apply runFcmp_keeps

theorem execFle_keeps {ρ : State} {c : CoreId} {rd : Reg} {ra : Reg} {rb : Reg} {fmt : FFmt} {s : State} (hK : Keeps ρ s) :
    OutKeeps ρ (execFle c rd ra rb fmt s) := by
  unfold execFle
  with_reducible repeat' first | assumption | apply keeps_next | apply runFcmp_keeps

theorem execFltq_keeps {ρ : State} {c : CoreId} {rd : Reg} {ra : Reg} {rb : Reg} {fmt : FFmt} {s : State} (hK : Keeps ρ s) :
    OutKeeps ρ (execFltq c rd ra rb fmt s) := by
  unfold execFltq
  with_reducible repeat' first | assumption | apply keeps_next | apply runFcmp_keeps

theorem execFleq_keeps {ρ : State} {c : CoreId} {rd : Reg} {ra : Reg} {rb : Reg} {fmt : FFmt} {s : State} (hK : Keeps ρ s) :
    OutKeeps ρ (execFleq c rd ra rb fmt s) := by
  unfold execFleq
  with_reducible repeat' first | assumption | apply keeps_next | apply runFcmp_keeps

theorem execFunord_keeps {ρ : State} {c : CoreId} {rd : Reg} {ra : Reg} {rb : Reg} {fmt : FFmt} {s : State} (hK : Keeps ρ s) :
    OutKeeps ρ (execFunord c rd ra rb fmt s) := by
  unfold execFunord
  with_reducible repeat' first | assumption | apply keeps_next | apply runFcmp_keeps

theorem execFclass_keeps {ρ : State} {c : CoreId} {rd : Reg} {ra : Reg} {fmt : FFmt} {s : State} (hK : Keeps ρ s) :
    OutKeeps ρ (execFclass c rd ra fmt s) := by
  unfold execFclass
  with_reducible repeat' first
    | assumption
    | apply keeps_next
    | apply runCore_keeps
    | apply keeps_retire
    | apply gSet_keeps
    | intro _

/-! ### Tun.lean -/

theorem setChannel_keeps {ρ : State} {t : Task} {v : Nat} {s : State} (hK : Keeps ρ s) :
    Keeps ρ (setChannel t v s) := by
  unfold setChannel
  with_reducible repeat' first | assumption | apply odSet_keeps

theorem tunMod_keeps {ρ : State} {slot : Nat} {f : TunState → TunState} {s : State} (hK : Keeps ρ s) :
    Keeps ρ (tunMod slot f s) := by
  unfold tunMod
  with_reducible repeat' first | assumption | apply engMod_keeps

theorem tunAccess_keeps {ρ : State} {slot : Nat} {t : Task} {write : Bool} {e : AccFail} {s : State} (hK : Keeps ρ s) :
    Keeps ρ (tunAccess slot t write e s) := by
  unfold tunAccess
  with_reducible repeat' first | assumption | apply accessFailed_keeps | apply odBump_keeps | split

theorem startTun_keeps {ρ : State} {slot : Nat} {t : Task} {s : State} (hK : Keeps ρ s) :
    Keeps ρ (startTun slot t s) := by
  unfold startTun
  with_reducible repeat' first | assumption | apply setChannel_keeps | apply engMod_keeps

theorem endDescriptor_keeps {ρ : State} {slot : Nat} {t : Task} {short : Bool} {long : Bool} {dropped : Nat} {more : Bool} {s : State} (hK : Keeps ρ s) :
    Keeps ρ (endDescriptor slot t short long dropped more s) := by
  unfold endDescriptor
  with_reducible repeat' first
    | assumption
    | apply tunMod_keeps
    | apply odAdd_keeps
    | apply keeps_ite
    | apply odBump_keeps
    | intro _

theorem sourceEnds_keeps {ρ : State} {slot : Nat} {t : Task} {s : State} (hK : Keeps ρ s) :
    Keeps ρ (sourceEnds slot t s) := by
  unfold sourceEnds
  with_reducible repeat' first | assumption | apply keeps_ite | apply endDescriptor_keeps | intro _ | split

theorem sinkEnds_keeps {ρ : State} {slot : Nat} {t : Task} {s : State} (hK : Keeps ρ s) :
    Keeps ρ (sinkEnds slot t s) := by
  unfold sinkEnds
  with_reducible repeat' first
    | assumption
    | apply keeps_ite
    | apply tunMod_keeps
    | apply endDescriptor_keeps
    | intro _
    | split

theorem discardPage_keeps {ρ : State} {slot : Nat} {s : State} (hK : Keeps ρ s) :
    Keeps ρ (discardPage slot s) := by
  unfold discardPage
  with_reducible repeat' first
    | assumption
    | apply engMod_keeps
    | intro _
    | fail_if_no_progress (apply keeps_same)
    | fail_if_no_progress (apply keeps_mem)
    | dsimp only

theorem sourceRead_keeps {ρ : State} {slot : Nat} {t : Task} {n : Nat} {s : State} (hK : Keeps ρ s) :
    Keeps ρ (sourceRead slot t n s) := by
  unfold sourceRead
  with_reducible repeat' first
    | assumption
    | apply devRead_keeps
    | apply tunAccess_keeps
    | apply discardPage_keeps
    | apply engMod_keeps
    | apply setChannel_keeps
    | apply sourceEnds_keeps
    | apply odAdd_keeps
    | apply keeps_ite
    | intro _
    | fail_if_no_progress (apply keeps_same)
    | fail_if_no_progress (apply keeps_mem)
    | split
    | dsimp only
    | refine of_pair (by assumption) ?_
    | refine of_did (by assumption) ?_
    | refine of_ok (by assumption) ?_
    | refine of_threw (by assumption) ?_

theorem sinkWrite_keeps {ρ : State} {slot : Nat} {t : Task} {n : Nat} {s : State} (hK : Keeps ρ s) :
    Keeps ρ (sinkWrite slot t n s) := by
  unfold sinkWrite
  with_reducible repeat' first
    | assumption
    | apply tunAccess_keeps
    | apply devWrite_keeps
    | apply sinkEnds_keeps
    | apply odAdd_keeps
    | apply jobMod_keeps
    | apply engMod_keeps
    | apply hostWrite_keeps
    | split
    | dsimp only
    | refine of_pair (by assumption) ?_

theorem execTunRequest_keeps {ρ : State} {engine : Fin 4} {write : Bool} {s : State} (hK : Keeps ρ s) :
    OutKeeps ρ (execTunRequest engine write s) := by
  unfold execTunRequest
  with_reducible repeat' first
    | assumption
    | apply keeps_next
    | apply keeps_ite
    | apply sinkWrite_keeps
    | apply sourceRead_keeps
    | intro _
    | fail_if_no_progress (apply keeps_same)
    | split

theorem fetchDescriptor_keeps {ρ : State} {slot : Nat} {t : Task} {s : State} (hK : Keeps ρ s) :
    Keeps ρ (fetchDescriptor slot t s) := by
  unfold fetchDescriptor
  with_reducible repeat' first
    | assumption
    | apply keeps_ite
    | apply failTask_keeps
    | apply odBump_keeps
    | apply tunAccess_keeps
    | apply locRead_keeps
    | apply tunMod_keeps
    | intro _
    | split
    | refine of_pair (by assumption) ?_

theorem execDescriptorFetch_keeps {ρ : State} {slot : Nat} {s : State} (hK : Keeps ρ s) :
    OutKeeps ρ (execDescriptorFetch slot s) := by
  unfold execDescriptorFetch
  with_reducible repeat' first
    | assumption
    | apply keeps_next
    | apply runStage_keeps
    | apply keeps_ite
    | apply fetchDescriptor_keeps
    | intro _

theorem writebackStep_keeps {ρ : State} {slot : Nat} {t : Task} {more : Bool} {s : State} (hK : Keeps ρ s) :
    Keeps ρ (writebackStep slot t more s) := by
  unfold writebackStep
  with_reducible repeat' first
    | assumption
    | apply tunAccess_keeps
    | apply locWrite_keeps
    | apply tunMod_keeps
    | split
    | dsimp only
    | refine of_pair (by assumption) ?_

theorem execDescriptorWriteback_keeps {ρ : State} {slot : Nat} {s : State} (hK : Keeps ρ s) :
    OutKeeps ρ (execDescriptorWriteback slot s) := by
  unfold execDescriptorWriteback
  with_reducible repeat' first
    | assumption
    | apply keeps_next
    | apply runStage_keeps
    | apply keeps_ite
    | apply writebackStep_keeps
    | intro _
    | split

theorem sourceEmit_keeps {ρ : State} {slot : Nat} {t : Task} {s : State} (hK : Keeps ρ s) :
    Keeps ρ (sourceEmit slot t s) := by
  unfold sourceEmit
  with_reducible repeat' first
    | assumption
    | apply emitElems_keeps
    | apply setChannel_keeps
    | apply odAdd_keeps
    | apply engMod_keeps
    | apply keeps_ite
    | intro _
    | fail_if_no_progress (apply keeps_same)
    | fail_if_no_progress (apply keeps_mem)
    | split
    | dsimp only
    | refine of_some (by assumption) ?_

theorem cutSource_keeps {ρ : State} {slot : Nat} {t : Task} {s : State} (hK : Keeps ρ s) :
    Keeps ρ (cutSource slot t s) := by
  unfold cutSource
  with_reducible repeat' first
    | assumption
    | apply endDescriptor_keeps
    | intro _
    | fail_if_no_progress (apply keeps_same)
    | fail_if_no_progress (apply keeps_mem)
    | split
    | dsimp only
    | refine of_some (by assumption) ?_

theorem runSource_keeps {ρ : State} {slot : Nat} {t : Task} {s : State} (hK : Keeps ρ s) :
    Keeps ρ (runSource slot t s) := by
  unfold runSource
  with_reducible repeat' first
    | assumption
    | apply startTun_keeps
    | apply sourceEmit_keeps
    | apply setChannel_keeps
    | apply stageDone_keeps
    | apply cutSource_keeps
    | apply fetch_keeps
    | apply tunMod_keeps
    | apply keeps_ite
    | intro _
    | fail_if_no_progress (apply keeps_same)
    | fail_if_no_progress (apply keeps_mem)
    | split
    | dsimp only

theorem execSource_keeps {ρ : State} {slot : Nat} {s : State} (hK : Keeps ρ s) :
    OutKeeps ρ (execSource slot s) := by
  unfold execSource
  with_reducible repeat' first | assumption | apply keeps_next | apply runStage_keeps | apply runSource_keeps

theorem sinkTake_keeps {ρ : State} {slot : Nat} {t : Task} {s : State} (hK : Keeps ρ s) :
    Keeps ρ (sinkTake slot t s) := by
  unfold sinkTake
  with_reducible repeat' first
    | assumption
    | apply engMod_keeps
    | apply dropPort_keeps
    | apply keeps_ite
    | apply keeps_foldl
    | intro _
    | fail_if_no_progress (apply keeps_same)
    | fail_if_no_progress (apply keeps_mem)
    | split
    | dsimp only
    | refine of_some (by assumption) ?_

theorem runSink_keeps {ρ : State} {slot : Nat} {t : Task} {s : State} (hK : Keeps ρ s) :
    Keeps ρ (runSink slot t s) := by
  unfold runSink
  with_reducible repeat' first
    | assumption
    | apply keeps_ite
    | apply startTun_keeps
    | apply sinkTake_keeps
    | apply endDescriptor_keeps
    | apply tunMod_keeps
    | apply setChannel_keeps
    | apply stageDone_keeps
    | intro _
    | split
    | dsimp only

theorem execSinkDevice_keeps {ρ : State} {slot : Nat} {s : State} (hK : Keeps ρ s) :
    OutKeeps ρ (execSinkDevice slot s) := by
  unfold execSinkDevice
  with_reducible repeat' first | assumption | apply keeps_next | apply runStage_keeps | apply runSink_keeps

theorem execSinkHost_keeps {ρ : State} {slot : Nat} {s : State} (hK : Keeps ρ s) :
    OutKeeps ρ (execSinkHost slot s) := by
  unfold execSinkHost
  with_reducible repeat' first | assumption | apply keeps_next | apply runStage_keeps | apply runSink_keeps

end Sys2Proof.Machine
end

