-- ==== Sys2Proof/Laws/Messages.lean ====
section
/-! SUPPORT. Byte strings and the fields of dictionary messages; what a WRITE whose turn comes at once does. -/

namespace Sys2Proof.Machine

/-! ### Byte strings -/

@[simp] theorem leBytes_length (n x : Nat) : (leBytes n x).length = n := by
  induction n generalizing x with
  | zero => rfl
  | succ n ih => simp [leBytes, ih]

/-- The number that the bytes of x spell. -/
@[simp] theorem leNat_leBytes (n x : Nat) : leNat (leBytes n x) = x % 256 ^ n := by
  induction n generalizing x with
  | zero => simp [leBytes, leNat, Nat.mod_one]
  | succ n ih =>
    have h : (BitVec.ofNat 8 x).toNat = x % 256 := by simp
    rw [leBytes, leNat, ih, h, Nat.pow_succ, Nat.mul_comm (256 ^ n) 256, Nat.mod_mul]

@[simp] theorem slice_length (bs : List Byte) (o n : Nat) : (slice bs o n).length = n := by
  unfold slice
  dsimp only
  rw [List.length_append, List.length_replicate]
  have : ((bs.drop o).take n).length ≤ n := by rw [List.length_take]; omega
  omega

/-- A field that ends within the first of two strings. -/
theorem slice_append_left (a b : List Byte) (o n : Nat) (h : o + n ≤ a.length) : slice (a ++ b) o n = slice a o n := by
  unfold slice
  dsimp only
  rw [List.drop_append_of_le_length (by omega), List.take_append_of_le_length (by rw [List.length_drop]; omega)]

/-- A field that starts behind the first of two strings. -/
theorem slice_append_right (a b : List Byte) (o n : Nat) (h : a.length ≤ o) :
    slice (a ++ b) o n = slice b (o - a.length) n := by
  unfold slice
  dsimp only
  rw [List.drop_append, List.drop_eq_nil_of_le h, List.nil_append]

/-- A string read whole. -/
theorem slice_whole (bs : List Byte) : slice bs 0 bs.length = bs := by simp [slice]

/-- A field read within a prefix of known length. -/
theorem slice_slice (bs : List Byte) (n : Nat) : slice (slice bs 0 n) 0 n = slice bs 0 n := by
  have h := slice_whole (slice bs 0 n)
  rwa [slice_length] at h

/-! ### Dictionary messages (Table 21-1) -/

theorem msg_length (ty txn st fl : Nat) (body : List Byte) : (vdpMsg ty txn st fl body).length = 16 + body.length := by
  unfold vdpMsg
  simp only [List.length_append, leBytes_length]

theorem msg_body (ty txn st fl : Nat) (body : List Byte) : vdpBody (vdpMsg ty txn st fl body) = body := rfl

theorem msg_magic (ty txn st fl : Nat) (body : List Byte) : fld (vdpMsg ty txn st fl body) 0 2 = 0x5056 := by
  exact (leNat_leBytes 2 0x5056).trans (by decide)

theorem msg_version (ty txn st fl : Nat) (body : List Byte) : fld (vdpMsg ty txn st fl body) 2 1 = 1 := rfl

theorem msg_type (ty txn st fl : Nat) (body : List Byte) : fld (vdpMsg ty txn st fl body) 3 1 = ty % 256 :=
  leNat_leBytes 1 ty

theorem msg_txn (ty txn st fl : Nat) (body : List Byte) : fld (vdpMsg ty txn st fl body) 4 4 = txn % 2 ^ 32 :=
  leNat_leBytes 4 txn

theorem msg_len (ty txn st fl : Nat) (body : List Byte) (h : body.length < 65536) :
    fld (vdpMsg ty txn st fl body) 8 2 = body.length :=
  (leNat_leBytes 2 body.length).trans (Nat.mod_eq_of_lt h)

theorem msg_flags (ty txn st fl : Nat) (body : List Byte) : fld (vdpMsg ty txn st fl body) 0xB 1 = fl % 256 :=
  leNat_leBytes 1 fl

theorem msg_zero (ty txn st fl : Nat) (body : List Byte) : fld (vdpMsg ty txn st fl body) 0xC 4 = 0 := by
  exact (leNat_leBytes 4 0).trans (by decide)

/-- A message built of a short body has the header R427 asks for. -/
theorem msg_fits (ty txn st fl : Nat) (body : List Byte) (h : body.length ≤ 1216) :
    headerFits (vdpMsg ty txn st fl body) = true := by
  unfold headerFits
  rw [msg_length, msg_magic, msg_version, msg_len _ _ _ _ _ (by omega)]
  have h1 : 16 ≤ 16 + body.length := by omega
  have h2 : 16 + body.length ≤ 1232 := by omega
  have h3 : body.length + 16 = 16 + body.length := by omega
  simp [h2, h, h3]

/-! ### A WRITE message -/

theorem write_len (idx sub : Nat) (v : List Byte) (pf : Bool) (w : VdpWrite) :
    (writeMsg idx sub v pf w).length = 44 + v.length := by
  unfold writeMsg
  rw [msg_length]
  simp only [List.length_append, leBytes_length, slice_length]
  omega

theorem write_type (idx sub : Nat) (v : List Byte) (pf : Bool) (w : VdpWrite) : fld (writeMsg idx sub v pf w) 3 1 = 2 :=
  msg_type _ _ _ _ _

theorem write_txn (idx sub : Nat) (v : List Byte) (pf : Bool) (w : VdpWrite) :
    fld (writeMsg idx sub v pf w) 4 4 = w.txn % 2 ^ 32 := msg_txn _ _ _ _ _

theorem write_idx (idx sub : Nat) (v : List Byte) (pf : Bool) (w : VdpWrite) :
    fld (vdpBody (writeMsg idx sub v pf w)) 0 2 = idx % 65536 := leNat_leBytes 2 idx

theorem write_sub (idx sub : Nat) (v : List Byte) (pf : Bool) (w : VdpWrite) :
    fld (vdpBody (writeMsg idx sub v pf w)) 2 1 = sub % 256 := leNat_leBytes 1 sub

theorem write_principal (idx sub : Nat) (v : List Byte) (pf : Bool) (w : VdpWrite) :
    fld (vdpBody (writeMsg idx sub v pf w)) 3 1 = w.principal % 256 := leNat_leBytes 1 w.principal

theorem write_counter (idx sub : Nat) (v : List Byte) (pf : Bool) (w : VdpWrite) :
    fld (vdpBody (writeMsg idx sub v pf w)) 4 8 = w.counter % 2 ^ 64 := leNat_leBytes 8 w.counter

theorem write_tag (idx sub : Nat) (v : List Byte) (pf : Bool) (w : VdpWrite) :
    slice (vdpBody (writeMsg idx sub v pf w)) 12 16 = slice w.tag 0 16 := by
  unfold writeMsg
  rw [msg_body, slice_append_left _ _ _ _ (by simp only [List.length_append, leBytes_length, slice_length]; omega),
    slice_append_right _ _ _ _ (by simp only [List.length_append, leBytes_length]; omega)]
  have : 12 - (leBytes 2 idx ++ leBytes 1 sub ++ leBytes 1 w.principal ++ leBytes 8 w.counter).length = 0 := by
    simp only [List.length_append, leBytes_length]
  rw [this, slice_slice]

theorem write_value (idx sub : Nat) (v : List Byte) (pf : Bool) (w : VdpWrite) :
    (vdpBody (writeMsg idx sub v pf w)).drop 28 = v := by
  unfold writeMsg
  rw [msg_body, List.drop_append]
  have : (leBytes 2 idx ++ leBytes 1 sub ++ leBytes 1 w.principal ++ leBytes 8 w.counter ++ slice w.tag 0 16).length = 28 := by
    simp only [List.length_append, leBytes_length, slice_length]
  rw [this, List.drop_eq_nil_of_le (by omega)]
  rfl

theorem write_pair (idx sub : Nat) (v : List Byte) (pf : Bool) (w : VdpWrite) : pairFlag (writeMsg idx sub v pf w) = pf := by
  unfold pairFlag writeMsg
  rw [msg_flags]
  cases pf <;> rfl

theorem write_fits (idx sub : Nat) (v : List Byte) (pf : Bool) (w : VdpWrite) (h : v.length ≤ 1188) :
    headerFits (writeMsg idx sub v pf w) = true := by
  unfold writeMsg
  refine msg_fits _ _ _ _ _ ?_
  simp only [List.length_append, leBytes_length, slice_length]
  omega

theorem write_sound (idx sub : Nat) (v : List Byte) (pf : Bool) (w : VdpWrite) :
    malformed (writeMsg idx sub v pf w) = false := by
  have hc : headerClean (writeMsg idx sub v pf w) = true := by
    unfold headerClean writeMsg
    rw [msg_flags, msg_zero]
    cases pf <;> rfl
  have hb : (vdpBody (writeMsg idx sub v pf w)).length = 28 + v.length := by
    unfold writeMsg
    rw [msg_body]
    simp only [List.length_append, leBytes_length, slice_length]
  have h28 : ¬ 28 + v.length < 28 := by omega
  unfold malformed
  rw [hc, write_type]
  dsimp only
  rw [hb]
  simp

/-- Kept responses whose windows have not ended stay (R428). -/
theorem kept_stay (s : State) (h : ∀ k ∈ s.vd.kept, s.time < k.ends) :
    { s with vd := { s.vd with kept := s.vd.kept.filter fun k => decide (s.time < k.ends) } } = s := by
  have : (s.vd.kept.filter fun k => decide (s.time < k.ends)) = s.vd.kept := by
    rw [List.filter_eq_self]
    intro k hk
    simpa using h k hk
  rw [this]

/-- A request whose turn comes at once is carried out, and answered unless it waits (R428, R429). -/
theorem request_turn (s : State) (src : VdpSrc) (m : List Byte) (hl : vdpLive s = true) (hf : headerFits m = true)
    (hr : notReceived s src m = false) (hh : s.vd.held = none) (hq : s.vd.queue = [])
    (hk : ∀ k ∈ s.vd.kept, s.time < k.ends ∧ ¬ (k.src = src ∧ k.txn = fld m 4 4)) (hn : s.vd.kept.length < 1024) :
    vdpArrive src m s = match carryOut src m s with
      | (some r, s) => discoverPair src m (answerRequest src m r s)
      | (none, s) => s := by
  have hkeep := kept_stay s (fun k h => (hk k h).1)
  have hfind : (s.vd.kept.find? fun k => decide (k.src = src) && decide (k.txn = fld m 4 4)) = none := by
    rw [List.find?_eq_none]
    intro k h
    simpa using (hk k h).2
  unfold vdpArrive
  simp only [hl, hf, hr, hh, hq, Bool.not_true, Bool.false_eq_true, if_false, Option.isSome_none, ne_eq, not_true, decide_false,
    Bool.or_self]
  have key : ∀ u : State, u = s → (match u.vd.kept.find? fun k => decide (k.src = src) && decide (k.txn = fld m 4 4) with
      | some k =>
        if k.request = m then sendResponse src (od u 0x1100 5) m k.response (odBump 0x1102 3 u)
        else sendResponse src (od u 0x1100 5) m (responseTo m (.error .txnReuse)) (odBump 0x1102 2 u)
      | none =>
        if 1024 ≤ u.vd.kept.length then sendResponse src (od u 0x1100 5) m (responseTo m (.error .busy)) (odBump 0x1102 2 u)
        else match carryOut src m u with
          | (some r, t) => discoverPair src m (answerRequest src m r t)
          | (none, t) => t) = match carryOut src m s with
      | (some r, t) => discoverPair src m (answerRequest src m r t)
      | (none, t) => t := by
    rintro u rfl
    rw [hfind]
    dsimp only
    rw [if_neg (by omega)]
  exact key _ hkeep

/-- A WRITE of R431 whose turn comes at once, to an entry that is not critical: the entry's own rules judge it. -/
theorem write_turn (s : State) (w : VdpWrite) (idx sub : Nat) (v : List Byte) (e : Entry) (hl : vdpLive s = true)
    (hb : modeBusy s idx sub = false) (hd : downloading s idx sub = false) (hh : s.vd.held = none) (hq : s.vd.queue = [])
    (hk : ∀ k ∈ s.vd.kept, s.time < k.ends ∧ ¬ (k.src = w.src ∧ k.txn = w.txn % 2 ^ 32)) (hn : s.vd.kept.length < 1024)
    (hi : idx < 0x6000) (hs : sub < 256) (he : entryAt idx sub = some e) (hw : writable e = true) (ha : e.acc ≠ .rwc)
    (ht : e.ty ≠ .domain) (hp : pairLevel idx sub = false) (hfit : lengthFits e v.length = true) (hv : v.length ≤ 1188) :
    vdpArrive w.src (writeMsg idx sub v false w) s = match applyWrite e idx sub v s with
      | .ok t => answerRequest w.src (writeMsg idx sub v false w) (.ok []) t
      | .error x => answerRequest w.src (writeMsg idx sub v false w) (.error x) s := by
  have hpf := write_pair idx sub v false w
  have hty := write_type idx sub v false w
  rw [request_turn s w.src _ hl (write_fits idx sub v false w hv) (by unfold notReceived; rw [hpf]; simp) hh hq
    (by rw [write_txn]; exact hk) hn]
  have hcar : carryOut w.src (writeMsg idx sub v false w) s = match applyWrite e idx sub v s with
      | .ok t => (some (.ok []), t)
      | .error x => (some (.error x), s) := by
    unfold carryOut
    rw [write_sound, hty]
    simp only [Bool.false_eq_true, if_false]
    unfold writeRequest
    dsimp only
    rw [write_idx, write_sub, write_value, Nat.mod_eq_of_lt (by omega : idx < 65536), Nat.mod_eq_of_lt hs]
    have hreach : reach s (writeMsg idx sub v false w) true idx sub = .ok e := by
      unfold reach pairRefusal
      have h6 : (decide (0x6000 ≤ idx) && decide (idx ≤ 0x6FFF)) = false := by
        rw [decide_eq_false (by omega : ¬ 0x6000 ≤ idx)]; rfl
      rw [hpf, h6, hp, he]
      simp
    cases hv : applyWrite e idx sub v s <;>
      simp only [hreach, hw, ht, hfit, hb, hd, ha, hv, Bool.not_true, Bool.false_eq_true, if_false, decide_false, Bool.and_false]
  rw [hcar]
  cases applyWrite e idx sub v s <;> simp [discoverPair, hty]

/-- A WRITE of R431 whose turn comes at once, to a critical entry, with a tag that R380 accepts: it waits for its counter to
be secured. -/
theorem critical_turn (s u : State) (w : VdpWrite) (idx sub : Nat) (v : List Byte) (pf : Bool) (e : Entry)
    (hl : vdpLive s = true) (hb : modeBusy s idx sub = false) (hd : downloading s idx sub = false) (hh : s.vd.held = none)
    (hq : s.vd.queue = []) (hk : ∀ k ∈ s.vd.kept, s.time < k.ends ∧ ¬ (k.src = w.src ∧ k.txn = w.txn % 2 ^ 32))
    (hn : s.vd.kept.length < 1024) (hr : notReceived s w.src (writeMsg idx sub v pf w) = false) (hi : idx < 65536)
    (hs : sub < 256) (he : reach s (writeMsg idx sub v pf w) true idx sub = .ok e) (ha : e.acc = .rwc) (ht : e.ty ≠ .domain)
    (hfit : lengthFits e v.length = true) (hv : v.length ≤ 1188) (hp : w.principal < 256) (hc : w.counter < 2 ^ 64)
    (hg : authCheck idx sub w.principal w.counter (slice w.tag 0 16) v s = (true, u)) :
    vdpArrive w.src (writeMsg idx sub v pf w) s = secure
      { src := w.src, msg := writeMsg idx sub v pf w, stage := .counterLog, idx := idx, sub := sub, value := v
        principal := w.principal, counter := w.counter } u := by
  have hw : writable e = true := by unfold writable; rw [ha]; rfl
  rw [request_turn s w.src _ hl (write_fits idx sub v pf w hv) hr hh hq (by rw [write_txn]; exact hk) hn]
  have hcar : carryOut w.src (writeMsg idx sub v pf w) s = (none, secure
      { src := w.src, msg := writeMsg idx sub v pf w, stage := .counterLog, idx := idx, sub := sub, value := v
        principal := w.principal, counter := w.counter } u) := by
    unfold carryOut
    rw [write_sound, write_type]
    simp only [Bool.false_eq_true, if_false]
    unfold writeRequest
    dsimp only
    rw [write_idx, write_sub, write_value, write_principal, write_counter, write_tag, Nat.mod_eq_of_lt hi, Nat.mod_eq_of_lt hs,
      Nat.mod_eq_of_lt hp, Nat.mod_eq_of_lt hc]
    simp only [he, hw, ht, hfit, hb, hd, ha, hg, Bool.not_true, Bool.false_eq_true, if_false, decide_false, Bool.and_false, if_true]
  rw [hcar]

/-- Where the entry of an index lies among the rows. -/
theorem entry_in (a b idx sub : Nat) (e : Entry)
    (h : (dictRows.filter fun e => decide (e.idx ≤ b) && decide (a ≤ e.idxLast) && decide (e.sub ≤ sub) && decide (sub ≤ e.subLast)) = [e])
    (h1 : a ≤ idx) (h2 : idx ≤ b) (h3 : e.idx ≤ a) (h4 : b ≤ e.idxLast) : entryAt idx sub = some e := by
  have hs : e.sub ≤ sub ∧ sub ≤ e.subLast := by
    have : e ∈ [e] := by simp
    rw [← h, List.mem_filter] at this
    simpa using (by simpa using this.2 : ((e.idx ≤ b ∧ a ≤ e.idxLast) ∧ e.sub ≤ sub) ∧ sub ≤ e.subLast).2 |> fun x =>
      And.intro ((by simpa using this.2 : ((e.idx ≤ b ∧ a ≤ e.idxLast) ∧ e.sub ≤ sub) ∧ sub ≤ e.subLast).1.2) x
  have key : entryAt idx sub = ([e].find? fun e => decide (e.idx ≤ idx) && decide (idx ≤ e.idxLast)) := by
    rw [← h, List.find?_filter]
    unfold entryAt
    congr 1
    funext x
    by_cases c1 : x.idx ≤ idx <;> by_cases c2 : idx ≤ x.idxLast
    · have c3 : x.idx ≤ b := by omega
      have c4 : a ≤ x.idxLast := by omega
      simp [c1, c2, c3, c4]
    all_goals simp [c1, c2]
  rw [key]
  simp [show e.idx ≤ idx by omega, show idx ≤ e.idxLast by omega]

end Sys2Proof.Machine
end

