-- ==== Sys2Proof/Laws/Own.lean ====
section
/-! SUPPORT. What fetching an instruction leaves of a core: its registers, whatever errors the caches meet. -/

namespace Sys2Proof.Machine

/-- Core d is in s as in r, but for cache lines, recent misses, corrected tile words and pending interrupts. -/
def Own (d : CoreId) (r s : State) : Prop :=
  core s d = { core r d with
    l1d := (core s d).l1d, l1i := (core s d).l1i, misses := (core s d).misses, tileBad := (core s d).tileBad
    intr := (core s d).intr }

theorem Own.refl (d : CoreId) (s : State) : Own d s s := rfl

theorem Own.trans {d : CoreId} {a b c : State} (h : Own d a b) (k : Own d b c) : Own d a c := by
  unfold Own at *
  rw [h] at k
  exact k

theorem Quiet.own {s u : State} (h : Quiet s u) (d : CoreId) : Own d s u := by
  have := h.core d
  unfold Own
  rw [this]

/-- A state with the same cores. -/
theorem own_same {d : CoreId} {r t : State} {pending out freeCtr time mode od ms clusters js gov tw net pw vd cx dr bt pins ras}
    (h : Own d r t) : Own d r ⟨pending, out, freeCtr, time, mode, od, ms, t.cores, clusters, js, gov, tw, net, pw, vd, cx,
      dr, bt, pins, ras⟩ := h

theorem own_mod {d : CoreId} {r t : State} {n : Nat} {f : Core → Core} (h : Own d r t)
    (hf : n = d.val → ∀ k, f k = { k with
      l1d := (f k).l1d, l1i := (f k).l1i, misses := (f k).misses, tileBad := (f k).tileBad, intr := (f k).intr }) :
    Own d r { t with cores := tmod {} t.cores n f } := by
  refine h.trans ?_
  unfold Own core
  by_cases e : n = d.val
  · subst e
    simp only [tmod, tget_tset_self]
    exact hf rfl _
  · simp only [tmod, tget_tset_ne _ _ _ _ _ e]

theorem own_ite {d : CoreId} {c : Prop} [Decidable c] {r a b : State} (ha : c → Own d r a) (hb : ¬c → Own d r b) :
    Own d r (if c then a else b) := by
  split <;> simp_all

theorem own_foldl {d : CoreId} {α : Type} {r : State} {f : State → α → State} (l : List α) {s : State} (h : Own d r s)
    (hf : ∀ t a, Own d r t → Own d r (f t a)) : Own d r (l.foldl f s) := by
  induction l generalizing s with
  | nil => exact h
  | cons a l ih => exact ih (hf s a h)

theorem odSet_own {d : CoreId} {ρ : State} {idx : Nat} {sub : Nat} {v : Nat} {s : State} (hK : Own d ρ s) :
    Own d ρ (odSet idx sub v s) := by
  unfold odSet
  with_reducible repeat' first
    | assumption
    | intro _
    | fail_if_no_progress (apply own_same)

theorem odAdd_own {d : CoreId} {ρ : State} {idx : Nat} {sub : Nat} {n : Nat} {s : State} (hK : Own d ρ s) :
    Own d ρ (odAdd idx sub n s) := by
  unfold odAdd
  with_reducible repeat' first | assumption | apply odSet_own | intro _

theorem odBump_own {d : CoreId} {ρ : State} {idx : Nat} {sub : Nat} {s : State} (hK : Own d ρ s) :
    Own d ρ (odBump idx sub s) := by
  unfold odBump
  with_reducible repeat' first | assumption | apply odAdd_own | intro _

theorem odMax32_own {d : CoreId} {ρ : State} {idx : Nat} {sub : Nat} {v : Nat} {s : State} (hK : Own d ρ s) :
    Own d ρ (odMax32 idx sub v s) := by
  unfold odMax32
  with_reducible repeat' first | assumption | apply odSet_own | intro _

theorem instMod_own {d : CoreId} {ρ : State} {n : Nat} {f : InstState → InstState} {s : State} (hK : Own d ρ s) :
    Own d ρ (instMod n f s) := by
  unfold instMod
  with_reducible repeat' first
    | assumption
    | intro _
    | fail_if_no_progress (apply own_same)

theorem jobMod_own {d : CoreId} {ρ : State} {jid : Nat} {f : Job → Job} {s : State} (hK : Own d ρ s) :
    Own d ρ (jobMod jid f s) := by
  unfold jobMod
  with_reducible repeat' first
    | assumption
    | apply own_ite
    | intro _
    | fail_if_no_progress (apply own_same)
    | split

theorem taskMod_own {d : CoreId} {ρ : State} {slot : Nat} {f : Task → Task} {s : State} (hK : Own d ρ s) :
    Own d ρ (taskMod slot f s) := by
  unfold taskMod
  with_reducible repeat' first
    | assumption
    | apply own_ite
    | intro _
    | fail_if_no_progress (apply own_same)
    | split

theorem leaveRunning_own {d : CoreId} {ρ : State} {t : Task} {s : State} (hK : Own d ρ s) :
    Own d ρ (leaveRunning t s) := by
  unfold leaveRunning
  with_reducible repeat' first
    | assumption
    | apply odAdd_own
    | apply own_ite
    | intro _
    | fail_if_no_progress (apply own_same)
    | split

theorem leaveReady_own {d : CoreId} {ρ : State} {t : Task} {s : State} (hK : Own d ρ s) :
    Own d ρ (leaveReady t s) := by
  unfold leaveReady
  with_reducible repeat' first
    | assumption
    | apply odMax32_own
    | apply odAdd_own
    | apply own_ite
    | intro _
    | split

theorem wakeTask_own {d : CoreId} {ρ : State} {slot : Nat} {s : State} (hK : Own d ρ s) :
    Own d ρ (wakeTask slot s) := by
  unfold wakeTask
  with_reducible repeat' first
    | assumption
    | apply taskMod_own
    | intro _
    | fail_if_no_progress (apply own_same)
    | dsimp only

theorem noteEvent_own {d : CoreId} {ρ : State} {t : Task} {fl : BitVec 32} {s : State} (hK : Own d ρ s) :
    Own d ρ (noteEvent t fl s) := by
  unfold noteEvent
  with_reducible repeat' first
    | assumption
    | apply own_ite
    | intro _
    | refine own_mod ?_ fun _ _ => rfl
    | fail_if_no_progress (apply own_same)
    | split

theorem setFlags_own {d : CoreId} {ρ : State} {slot : Nat} {fl : BitVec 32} {s : State} (hK : Own d ρ s) :
    Own d ρ (setFlags slot fl s) := by
  unfold setFlags
  with_reducible repeat' first
    | assumption
    | apply noteEvent_own
    | apply wakeTask_own
    | apply taskMod_own
    | apply own_ite
    | intro _
    | fail_if_no_progress (apply own_same)
    | split
    | dsimp only
    | refine of_some (by assumption) ?_

theorem flagsArrive_own {d : CoreId} {ρ : State} {slot : Nat} {t : Task} {flags : BitVec 32} {s : State} (hK : Own d ρ s) :
    Own d ρ (flagsArrive slot t flags s) := by
  unfold flagsArrive
  with_reducible repeat' first
    | assumption
    | apply setFlags_own
    | apply odBump_own
    | apply own_ite
    | intro _
    | fail_if_no_progress (apply own_same)
    | split
    | dsimp only
    | refine of_some (by assumption) ?_

theorem setFlagsWhere_own {d : CoreId} {ρ : State} {p : Task → Bool} {fl : BitVec 32} {s : State} (hK : Own d ρ s) :
    Own d ρ (setFlagsWhere p fl s) := by
  unfold setFlagsWhere
  with_reducible repeat' first
    | assumption
    | apply flagsArrive_own
    | apply own_ite
    | apply own_foldl
    | intro _
    | split

theorem setUnitState_own {d : CoreId} {ρ : State} {u : Nat} {v : Nat} {s : State} (hK : Own d ρ s) :
    Own d ρ (setUnitState u v s) := by
  unfold setUnitState
  with_reducible repeat' first
    | assumption
    | apply odSet_own
    | intro _
    | fail_if_no_progress (apply own_same)
    | split
    | dsimp only
    | refine of_some (by assumption) ?_

theorem unitCount_own {d : CoreId} {ρ : State} {u : Nat} {sub : Nat} {n : Nat} {s : State} (hK : Own d ρ s) :
    Own d ρ (unitCount u sub n s) := by
  unfold unitCount
  with_reducible repeat' first
    | assumption
    | apply odAdd_own
    | intro _
    | fail_if_no_progress (apply own_same)
    | split
    | dsimp only
    | refine of_some (by assumption) ?_

theorem countStall_own {d : CoreId} {ρ : State} {t : Task} {s : State} (hK : Own d ρ s) :
    Own d ρ (countStall t s) := by
  unfold countStall
  with_reducible repeat' first
    | assumption
    | apply unitCount_own
    | intro _
    | fail_if_no_progress (apply own_same)
    | split
    | dsimp only
    | refine of_some (by assumption) ?_

theorem clearGroups_own {d : CoreId} {ρ : State} {t : Task} {s : State} (hK : Own d ρ s) :
    Own d ρ (clearGroups t s) := by
  unfold clearGroups
  with_reducible repeat' first | assumption | apply setUnitState_own | apply own_foldl | intro _

theorem haltChannel_own {d : CoreId} {ρ : State} {t : Task} {failed : Bool} {s : State} (hK : Own d ρ s) :
    Own d ρ (haltChannel t failed s) := by
  unfold haltChannel
  with_reducible repeat' first | assumption | apply odSet_own | apply own_ite | intro _ | split

theorem stopTask_own {d : CoreId} {ρ : State} {slot : Nat} {cancel : Bool} {s : State} (hK : Own d ρ s) :
    Own d ρ (stopTask slot cancel s) := by
  unfold stopTask
  with_reducible repeat' first
    | assumption
    | apply haltChannel_own
    | apply clearGroups_own
    | apply countStall_own
    | apply leaveReady_own
    | apply leaveRunning_own
    | apply taskMod_own
    | apply own_ite
    | intro _
    | fail_if_no_progress (apply own_same)
    | split
    | dsimp only
    | refine of_some (by assumption) ?_

theorem releaseSpill_own {d : CoreId} {ρ : State} {jid : Nat} {s : State} (hK : Own d ρ s) :
    Own d ρ (releaseSpill jid s) := by
  unfold releaseSpill
  with_reducible repeat' first
    | assumption
    | apply odSet_own
    | apply jobMod_own
    | apply setFlagsWhere_own
    | apply own_ite
    | intro _
    | fail_if_no_progress (apply own_same)
    | split
    | dsimp only
    | refine of_some (by assumption) ?_

theorem dropFaults_own {d : CoreId} {ρ : State} {j : Job} {s : State} (hK : Own d ρ s) :
    Own d ρ (dropFaults j s) := by
  unfold dropFaults
  with_reducible repeat' first
    | assumption
    | apply instMod_own
    | intro _
    | fail_if_no_progress (apply own_same)

theorem closeZones_own {d : CoreId} {ρ : State} {jid : Nat} {status : Nat} {s : State} (hK : Own d ρ s) :
    Own d ρ (closeZones jid status s) := by
  unfold closeZones
  with_reducible repeat' first
    | assumption
    | apply own_foldl
    | intro _
    | fail_if_no_progress (apply own_same)
    | dsimp only

theorem failJob_own {d : CoreId} {ρ : State} {jid : Nat} {status : Nat} {er : ErrRec} {s : State} (hK : Own d ρ s) :
    Own d ρ (failJob jid status er s) := by
  unfold failJob
  with_reducible repeat' first
    | assumption
    | apply odBump_own
    | apply stopTask_own
    | apply closeZones_own
    | apply releaseSpill_own
    | apply dropFaults_own
    | apply jobMod_own
    | apply own_ite
    | apply own_foldl
    | intro _
    | fail_if_no_progress (apply own_same)
    | split
    | dsimp only
    | refine of_some (by assumption) ?_

theorem failTask_own {d : CoreId} {ρ : State} {slot : Nat} {status : Nat} {er : ErrRec} {s : State} (hK : Own d ρ s) :
    Own d ρ (failTask slot status er s) := by
  unfold failTask
  with_reducible repeat' first
    | assumption
    | apply failJob_own
    | intro _
    | fail_if_no_progress (apply own_same)
    | split
    | dsimp only
    | refine of_some (by assumption) ?_

theorem rasLog_own {d : CoreId} {ρ : State} {kind : Nat} {n : Nat} {tail : List Byte} {s : State} (hK : Own d ρ s) :
    Own d ρ (rasLog kind n tail s) := by
  unfold rasLog
  with_reducible repeat' first
    | assumption
    | apply odBump_own
    | intro _
    | fail_if_no_progress (apply own_same)
    | dsimp only

theorem rasEvent_own {d : CoreId} {ρ : State} {kind : Nat} {n : Nat} {address : Nat} {status : Nat} {reason : Nat} {s : State} (hK : Own d ρ s) :
    Own d ρ (rasEvent kind n address status reason s) := by
  unfold rasEvent
  with_reducible repeat' first | assumption | apply rasLog_own | intro _

theorem unitLeft_own {d : CoreId} {ρ : State} {u : Nat} {s : State} (hK : Own d ρ s) :
    Own d ρ (unitLeft u s) := by
  unfold unitLeft
  with_reducible repeat' first | assumption | apply failJob_own | apply own_foldl | intro _

/-! ### Fetching -/

theorem enterM_own {d e : CoreId} (hd : e ≠ d) {ρ : State} {lvl vec sub : Nat} {val ret : Word} {imprecise : Bool} {s : State}
    (hK : Own d ρ s) : Own d ρ (enterM e lvl vec sub val ret imprecise s) := by
  have hv : e.val ≠ d.val := fun h => hd (Fin.ext h)
  have hm : ∀ (f : Core → Core) (x : State), Own d ρ x → Own d ρ (coreMod e f x) := fun f x hx =>
    own_mod (n := e.val) hx fun h => absurd h hv
  unfold enterM
  split
  · unfold countEntry
    dsimp only
    split
    · exact odBump_own (odBump_own (hm _ _ hK))
    · exact odBump_own (hm _ _ hK)
  · unfold haltCore
    dsimp only
    have h1 : ∀ x, Own d ρ x → Own d ρ (match (core s e).task with
        | some slot => failTask slot 0x0503 { detail := (core s e).pc.toNat, detail2 := (core s e).estk.toNat } x
        | none => x) := by
      intro x hx
      split
      · exact failTask_own hx
      · exact hx
    refine own_ite (fun _ => unitLeft_own ?_) fun _ => ?_
    all_goals exact h1 _ (hm _ _ (odSet_own (odSet_own (odBump_own hK))))

theorem fatal_own {d : CoreId} {ρ : State} {n : Nat} {s : State} (hK : Own d ρ s) : Own d ρ (fatal n s) := by
  unfold fatal
  exact own_ite (fun _ => hK) fun _ => own_same hK

theorem l2Del_own {d : CoreId} {ρ : State} {k set way : Nat} {s : State} (hK : Own d ρ s) : Own d ρ (l2Del k set way s) := hK

theorem tagError_own {d : CoreId} {ρ : State} {key : Nat} {l : L2Line} {s : State} (hK : Own d ρ s) :
    Own d ρ (tagError d key l s).1 := by
  unfold tagError
  dsimp only
  split
  · exact odBump_own (hK.trans ((quiet_l2Put _ _ _ _ _).own d))
  · split
    · exact odBump_own (l2Del_own hK)
    · have hf := fatal_own (n := 3) (l2Del_own (k := clusterOf d) (set := key / 16) (way := key % 16) hK)
      split
      · split
        · exact hf
        · rename_i h
          exact enterM_own h hf
      · exact rasEvent_own hf

/-- A fold with a result beside the state leaves a core's registers. -/
theorem own_foldPair {d : CoreId} {ρ : State} {α β : Type} {f : State × β → α → State × β}
    (hf : ∀ x a, Own d ρ x.1 → Own d ρ (f x a).1) (l : List α) (x : State × β) (hK : Own d ρ x.1) :
    Own d ρ (l.foldl f x).1 := by
  induction l generalizing x with
  | nil => exact hK
  | cons a l ih => exact ih _ (hf x a hK)

theorem tagCheck_own {d : CoreId} {ρ : State} {lines : List Nat} {s : State} (hK : Own d ρ s) :
    Own d ρ (tagCheck d lines s).1 := by
  unfold tagCheck tagSets
  refine own_foldPair (fun x a hx => ?_) _ (s, none) hK
  exact tagError_own (key := a.1) (l := a.2) hx

theorem l2Parity_own {d : CoreId} {ρ : State} {k set way m : Nat} {s : State} (hK : Own d ρ s) :
    Own d ρ (l2Parity k set way m s).1 := by
  have hp := fun (l : L2Line) x (hx : Own d ρ x) => hx.trans ((quiet_l2Put k set way l x).own d)
  unfold l2Parity
  split
  · exact hK
  · dsimp only
    split
    · exact hK
    · split
      · exact hp _ _ (odAdd_own hK)
      · exact own_foldl _ (hp _ _ (odAdd_own hK)) fun t a ht => own_same (odSet_own (odBump_own (odBump_own ht)))

theorem parityAt_own {d : CoreId} {ρ : State} {k pa n : Nat} {s : State} (hK : Own d ρ s) : Own d ρ (parityAt k pa n s).1 := by
  unfold parityAt
  refine own_foldPair (fun x a hx => ?_) _ _ hK
  split
  · exact hx
  · exact l2Parity_own hx

theorem snoopLine_own {d : CoreId} {ρ : State} {k need line : Nat} {x : State × Option Nat}
    (hK : Own d ρ x.1) : Own d ρ (snoopLine k need line x).1 := by
  unfold snoopLine
  split
  · exact hK
  · split
    · exact hK
    · exact l2Parity_own hK

theorem snoopLost_own {d : CoreId} {ρ : State} {own : Option Nat} {need : Nat → Nat} {pa n : Nat} {s : State} (hK : Own d ρ s) :
    Own d ρ (snoopLost own need pa n s).1 := by
  unfold snoopLost
  refine own_foldPair (fun x a hx => ?_) _ _ hK
  split
  · exact hx
  · exact own_foldPair (fun y b hy => snoopLine_own hy) _ _ hx

theorem parityRange_own {d : CoreId} {ρ : State} {pa n : Nat} {s : State} (hK : Own d ρ s) :
    Own d ρ (parityRange d pa n s).1 := by
  unfold parityRange parityNeeds
  have h1 := tagCheck_own (lines := lines128 pa n) hK
  split <;> rename_i e <;> rw [e] at h1
  · exact h1
  · have h2 := parityAt_own (k := clusterOf d) (pa := pa) (n := n) h1
    split <;> rename_i e <;> rw [e] at h2
    · exact h2
    · exact snoopLost_own h2

theorem tileCorrect_own {d : CoreId} {ρ : State} {off n : Nat} {s : State} (hK : Own d ρ s) : Own d ρ (tileCorrect d off n s) := by
  unfold tileCorrect
  dsimp only
  exact own_ite (fun _ => hK) fun _ => odAdd_own (hK.trans ((quiet_core d _ (fun k => rfl) s).own d))

/-- Fetching an instruction changes nothing of its core but its caches, its recent misses, corrected tile words, and the
interrupts that the failure of another core's job brings it. -/
theorem fetchTouch_own (c : CoreId) (s : State) : Own c s (fetchTouch c s) := by
  unfold fetchTouch fetch
  dsimp only
  split
  · exact Own.refl c s
  · split
    · exact (quiet_coreWalk _ _ _ _ _).own c
    · rename_i pa _ _
      have h := parityRange_own (pa := pa) (n := 4) ((quiet_coreWalk c .fetch (core s c).pc.toNat 4 s).own c)
      split <;> rename_i e <;> rw [e] at h
      · exact h
      · split
        · exact h
        · split
          · exact h
          · exact h.trans ((quiet_l1Load _ _ _ _ _).own c)
    · exact tileCorrect_own (Own.refl c s)
    · exact Own.refl c s

end Sys2Proof.Machine
end

