-- ==== Sys2Proof/Laws/Runs.lean ====
section
/-! SUPPORT. What one instruction of a core comes to: completion, traps, arithmetic, entries. -/

namespace Sys2Proof.Machine


/-- Fetching an instruction changes nothing of its core but its caches, its recent misses, corrected tile words and pending
interrupts. -/
theorem core_fetchTouch (s : State) (c : CoreId) :
    core (fetchTouch c s) c = { core s c with
      l1d := (core (fetchTouch c s) c).l1d, l1i := (core (fetchTouch c s) c).l1i
      misses := (core (fetchTouch c s) c).misses, tileBad := (core (fetchTouch c s) c).tileBad
      intr := (core (fetchTouch c s) c).intr } :=
  fetchTouch_own c s

@[simp] theorem gGet_fetchTouch (s : State) (c : CoreId) (r : Reg) : gGet (fetchTouch c s) c r = gGet s c r := by
  unfold gGet
  rw [core_fetchTouch s c]

@[simp] theorem fGet_fetchTouch (s : State) (c : CoreId) (r : Reg) : fGet (fetchTouch c s) c r = fGet s c r := by
  unfold fGet
  rw [core_fetchTouch s c]

theorem ready_body {c : CoreId} {s : State} {body : State → CoreEnd} (h : CoreReady s c) :
    runCore c false body s = match body (fetchTouch c s) with
      | .retire t => retireAt c (core s c).imp.isSome ((core s c).pc + 4) t
      | .jump target t => retireAt c (core s c).imp.isSome target t
      | .trap x t => if (core s c).imp.isSome then takeImprecise c s
          else instrTrap c (core s c).pc x t
      | .wait t => t :=
  (runCore_calm c false body s h.2.1).trans (runInstr_ready c false body s h.1 (fun k => ⟨rfl, h.2.2.2 k⟩) h.2.2.1)

theorem starts_body {c : CoreId} {d : Bool} {s : State} {body : State → CoreEnd} (h : CoreStarts s c) :
    runInstr c d body s = match body (fetchTouch c s) with
      | .retire t => ran c s t
      | .jump target t => ranTo c s target t
      | .trap x t => instrTrap c (core s c).pc x t
      | .wait t => t := by
  rw [runInstr_ready c d body s h.1 (fun k => by rw [h.2.2] at k; cases k) h.2.1]
  simp only [ran, ranTo, h.2.2, Option.isSome_none]
  cases body (fetchTouch c s) <;> rfl

theorem clear_body {c : CoreId} {d : Bool} {s : State} {body : State → CoreEnd} (h : CoreClear s c) :
    runCore c d body s = match body (fetchTouch c s) with
      | .retire t => ran c s t
      | .jump target t => ranTo c s target t
      | .trap x t => instrTrap c (core s c).pc x t
      | .wait t => t :=
  (runCore_calm c d body s h.1).trans (starts_body h.2)

theorem core_ft {s : State} {c : CoreId} : (core (fetchTouch c s) c).pstat = (core s c).pstat ∧ (core (fetchTouch c s) c).imp = (core s c).imp ∧ (core (fetchTouch c s) c).pc = (core s c).pc ∧ coreLevel (fetchTouch c s) c = coreLevel s c ∧ precise (fetchTouch c s) c = precise s c ∧ dynRound (fetchTouch c s) c = dynRound s c:= by
  unfold coreLevel precise dynRound
  rw [core_fetchTouch s c]
  exact ⟨rfl, rfl, rfl, rfl, rfl, rfl⟩


theorem hf_zero {s : State} {c : CoreId} {fl : Nat} (hf : fl = 0 ∨ NoTrap s c fl) : highestFlag (fl &&& bitsOf (core s c).pstat.toNat 22 17) = 0 := by
  rcases hf with hf | hf
  · subst hf; simp [highestFlag]
  · unfold NoTrap at hf; rw [hf]; rfl

theorem arith_done (c : CoreId) (s : State) (fl : Nat) (w : State → State) (hf : fl = 0 ∨ NoTrap s c fl) :
    arith c fl false w (fetchTouch c s) = .retire (flagged c fl (w (fetchTouch c s))) := by
  have h1 := hf_zero hf
  unfold arith
  simp [core_ft.1, h1, flagged]


theorem arith_trap (c : CoreId) (s : State) (fl : Nat) (chk : Bool) (sub : Nat) (w : State → State) (h : CoreClear s c)
    (h0 : sub ≠ 0)
    (hs : (if chk then 0x40 else highestFlag (fl &&& bitsOf (core s c).pstat.toNat 22 17)) = sub) 
    (_hw : ∀ x, (core (w x) c).imp = (core x c).imp) (_d : Bool) :
    (match arith c fl chk w (fetchTouch c s) with
      | .retire t => ran c s t
      | .jump target t => ranTo c s target t
      | .trap x t => instrTrap c (core s c).pc x t
      | .wait t => t) = arithTrapped c s sub fl w := by
  unfold arith arithTrapped
  simp only [core_ft.1, core_ft.2.1, core_ft.2.2.1, core_ft.2.2.2.2.1, hs, ne_eq, h0, not_false_eq_true, decide_true, Bool.true_and, h.2.2.2, Option.isNone_none, Bool.and_true, if_true]
  cases hp : precise s c
  · simp [flagged]
  · simp [instrTrap, returnAddr, entersDone, noData]

theorem hf_sub {s : State} {c : CoreId} {fl : Nat} (hn : ¬ NoTrap s c fl) :
    highestFlag (fl &&& bitsOf (core s c).pstat.toNat 22 17) = trapSub s c fl := by
  unfold NoTrap at hn
  simp [highestFlag, trapSub, hn]

theorem sub_ne {s : State} {c : CoreId} {fl : Nat} : trapSub s c fl ≠ 0 := by unfold trapSub; positivity

theorem imp_gset (c : CoreId) (r : Reg) (v : Word) (x : State) : (core (gSet c r v x) c).imp = (core x c).imp := by
  unfold gSet; split <;> simp

theorem imp_fset (c : CoreId) (r : Reg) (v : Word) (x : State) : (core (fSet c r v x) c).imp = (core x c).imp := by
  unfold fSet; simp


theorem bitsOf_eq {x hi lo n : Nat} (h : ∀ j, j < hi + 1 - lo → x.testBit (lo + j) = n.testBit j) (hn : n < 2 ^ (hi + 1 - lo)) : bitsOf x hi lo = n := by
  apply Nat.eq_of_testBit_eq
  intro j
  rw [testBit_bitsOf]
  by_cases hj : j < hi + 1 - lo
  · simp [hj, h j hj]
  · have hj' := Nat.not_lt.mp hj
    rw [decide_eq_false hj, Bool.false_and]
    exact (Nat.testBit_lt_two_pow (lt_of_lt_of_le hn (Nat.pow_le_pow_right (by omega) hj'))).symm

theorem entry_word (old : Word) (ppl vec sub nest : Nat) (imp : Bool) (hv : vec < 64) (hs : sub < 256) (hn : nest < 16) (hp : ppl < 3) :
    EntryWord old (entryStat old ppl vec sub nest imp) ppl vec sub nest imp := by
  have h7 : bitsOf old.toNat 7 7 = if old.getLsbD 7 then 1 else 0 := by
    apply bitsOf_eq
    · intro j hj
      obtain rfl : j = 0 := by omega
      rw [BitVec.testBit_toNat]
      cases old.getLsbD 7 <;> rfl
    · split <;> simp
  unfold EntryWord entryStat
  generalize old.getLsbD 7 = p at *
  have hm : vec % 256 = vec := Nat.mod_eq_of_lt (by omega)
  have hm2 : sub % 256 = sub := Nat.mod_eq_of_lt (by omega)
  have hm3 : nest % 16 = nest := Nat.mod_eq_of_lt (by omega)
  simp only [hm, hm2, hm3, h7]
  generalize hie : (if p = true then 1 else 0) = ie
  have hie' : ie < 2 := by rw [← hie]; split <;> omega
  generalize him : (if imp = true then 2 ^ 11 else 0) = im
  have him' : im = 0 ∨ im = 2048 := by rw [← him]; split <;> simp
  have hlt : vec * 2 ^ 24 + sub * 2 ^ 16 + nest * 2 ^ 12 + im + ppl * 2 ^ 9 + ie * 2 ^ 8 + 2 ^ 6 < 2 ^ 64 := by omega
  have gl : ∀ (x j : Nat), x < 2 ^ 64 → (BitVec.ofNat 64 x).getLsbD j = (x.testBit j) := by
    intro x j hx
    rw [BitVec.getLsbD_ofNat]
    by_cases hj : j < 64
    · simp [hj]
    · simp [hj]; exact Nat.testBit_lt_two_pow (lt_of_lt_of_le hx (Nat.pow_le_pow_right (by omega) (by omega)))
  have tb : ∀ x j : Nat, x.testBit j = decide (x / 2 ^ j % 2 = 1) := fun x j => Nat.testBit_eq_decide_div_mod_eq
  rw [gl _ _ hlt, gl _ _ hlt, gl _ _ hlt, gl _ _ hlt]
  simp only [BitVec.toNat_ofNat, Nat.mod_eq_of_lt hlt, bitsOf, Nat.shiftRight_eq_div_pow, tb]
  refine ⟨by omega, by omega, by omega, by omega, ?_, by omega, ?_, ?_, ?_, by omega⟩
  · cases imp
    · simp at him; subst him; simp; omega
    · simp at him; subst him; simp; omega
  · cases p
    · simp at hie; subst hie; simp; omega
    · simp at hie; subst hie; simp; omega
  · simp; omega
  · simp; omega

theorem coreMod_const (c : CoreId) (s : State) (k : Core) (f : Core → Core) (h : f (core s c) = k) : coreMod c (fun _ => k) s = coreMod c f s := by
  subst h; rfl

theorem coreMod_const2 (c : CoreId) (s : State) (f g : Core → Core) (h : f (core s c) = g (core s c)) : coreMod c f s = coreMod c g s := by
  unfold coreMod tmod
  unfold core at h
  rw [h]

theorem level_code_lt (l : Level) : l.code < 3 := by cases l <;> decide

theorem nest_lt (x : Word) : nestOf x < 16 := by unfold nestOf bitsOf; omega

end Sys2Proof.Machine
end

