-- ==== Sys2Proof/Laws/Mirror.lean ====
section
/-! SUPPORT. What sending a mirror record leaves unchanged, and what the instance record reads after a change. -/

namespace Sys2Proof.Machine

/-- Sending mirror records changes the twin's record, RECORDS_SENT and the messages out, and nothing else. -/
structure MirrorOnly (s t : State) : Prop where
  pending : t.pending = s.pending
  freeCtr : t.freeCtr = s.freeCtr
  time : t.time = s.time
  mode : t.mode = s.mode
  ms : t.ms = s.ms
  cores : t.cores = s.cores
  clusters : t.clusters = s.clusters
  js : t.js = s.js
  ras : t.ras = s.ras
  gov : t.gov = s.gov
  net : t.net = s.net
  pw : t.pw = s.pw
  vd : t.vd = s.vd
  cx : t.cx = s.cx
  dr : t.dr = s.dr
  bt : t.bt = s.bt
  pins : t.pins = s.pins
  od : ∀ i j : Nat, j < 256 → (i ≠ 0x2C02 ∨ j ≠ 9) → od t i j = od s i j

theorem MirrorOnly.refl (s : State) : MirrorOnly s s :=
  ⟨rfl, rfl, rfl, rfl, rfl, rfl, rfl, rfl, rfl, rfl, rfl, rfl, rfl, rfl, rfl, rfl, rfl, fun _ _ _ _ => rfl⟩

theorem MirrorOnly.trans {a b c : State} (h : MirrorOnly a b) (k : MirrorOnly b c) : MirrorOnly a c :=
  ⟨k.pending.trans h.pending, k.freeCtr.trans h.freeCtr, k.time.trans h.time, k.mode.trans h.mode, k.ms.trans h.ms,
   k.cores.trans h.cores, k.clusters.trans h.clusters, k.js.trans h.js, k.ras.trans h.ras, k.gov.trans h.gov,
   k.net.trans h.net, k.pw.trans h.pw, k.vd.trans h.vd, k.cx.trans h.cx, k.dr.trans h.dr, k.bt.trans h.bt,
   k.pins.trans h.pins, fun i j hj hi => (k.od i j hj hi).trans (h.od i j hj hi)⟩

theorem mirrorOnly_tw (f : TwinState → TwinState) (s : State) : MirrorOnly s (twMod f s) :=
  ⟨rfl, rfl, rfl, rfl, rfl, rfl, rfl, rfl, rfl, rfl, rfl, rfl, rfl, rfl, rfl, rfl, rfl, fun _ _ _ _ => rfl⟩

theorem mirrorOnly_emit (m : OutMsg) (s : State) : MirrorOnly s (emit m s) :=
  ⟨rfl, rfl, rfl, rfl, rfl, rfl, rfl, rfl, rfl, rfl, rfl, rfl, rfl, rfl, rfl, rfl, rfl, fun _ _ _ _ => rfl⟩

theorem mirrorOnly_bump (s : State) : MirrorOnly s (odBump 0x2C02 9 s) := by
  refine ⟨rfl, rfl, rfl, rfl, rfl, rfl, rfl, rfl, rfl, rfl, rfl, rfl, rfl, rfl, rfl, rfl, rfl, fun i j hj hi => ?_⟩
  refine od_odSet_ne _ _ _ _ _ _ (fun h => ?_)
  have := odKey_inj (by omega) hj h
  omega

theorem mirrorOnly_flush (n : Nat) (s : State) : MirrorOnly s (flushMirror n s) := by
  induction n generalizing s with
  | zero => exact MirrorOnly.refl s
  | succ n ih =>
    unfold flushMirror
    split
    · exact MirrorOnly.refl s
    · split
      · exact ((mirrorOnly_emit _ _).trans (mirrorOnly_tw _ _)).trans (ih _)
      · exact MirrorOnly.refl s

theorem mirrorOnly_placed (b : Bool) (p : Nat) (r : MRec) (s : State) : MirrorOnly s (sendPlaced b p r s) := by
  unfold sendPlaced
  split
  · exact mirrorOnly_tw _ _
  · exact ((mirrorOnly_tw _ _).trans (mirrorOnly_bump _)).trans (mirrorOnly_flush _ _)

theorem mirrorOnly_mirror (r : MRec) (s : State) : MirrorOnly s (mirror r s) := by
  unfold mirror
  split
  · exact mirrorOnly_placed _ _ _ _
  · exact MirrorOnly.refl s

@[simp] theorem mirror_js (r : MRec) (s : State) : (mirror r s).js = s.js := (mirrorOnly_mirror r s).js

@[simp] theorem inst_mirror (r : MRec) (s : State) (n : Nat) : inst (mirror r s) n = inst s n := by
  unfold inst; rw [mirror_js]

theorem tset_tset {α : Type} (t : Tbl α) (k : Nat) (v w : α) : tset (tset t k v) k w = tset t k w := by
  induction t with
  | nil => simp [tset]
  | cons e t ih =>
    obtain ⟨a, x⟩ := e
    by_cases h1 : k < a
    · simp [tset, h1]
    · by_cases h2 : k = a
      · subst h2; simp [tset]
      · simp [tset, h1, h2, ih]

/-- Two changes of one instance's record are one. -/
theorem instMod_instMod (n : Nat) (f g : InstState → InstState) (s : State) :
    instMod n g (instMod n f s) = instMod n (fun i => g (f i)) s := by
  unfold instMod tmod
  dsimp only
  rw [tget_tset_self, tset_tset]

theorem tfind_tdel_ne {α : Type} (t : Tbl α) (k q : Nat) (h : k ≠ q) : tfind (tdel t k) q = tfind t q := by
  induction t with
  | nil => rfl
  | cons e t ih =>
    obtain ⟨a, x⟩ := e
    by_cases h1 : a = k
    · subst h1; simp [tdel, tfind, h]
    · simp [tdel, h1, tfind, ih]

theorem slice_all (bs : List Byte) (n : Nat) (h : bs.length = n) : slice bs 0 n = bs := by
  subst h
  simp [slice]

theorem pow2In_iff (n lo hi : Nat) : pow2In n lo hi = true ↔ lo ≤ n ∧ n ≤ hi ∧ ∃ k, n = 2 ^ k := by
  unfold pow2In
  simp only [Bool.and_eq_true, decide_eq_true_eq]
  constructor
  · rintro ⟨⟨h1, h2⟩, h3⟩
    exact ⟨h1, h2, _, h3.symm⟩
  · rintro ⟨h1, h2, k, rfl⟩
    exact ⟨⟨h1, h2⟩, by rw [Nat.log2_two_pow]⟩

end Sys2Proof.Machine
end

