-- ==== Sys2Proof/Laws/PerInstr.lean ====
section
/-! SUPPORT. Statements about every command as syntax, one lemma per constructor. -/

namespace Sys2Proof.Laws.OwnRow

/-- The row of spec/opcode_table.json that a command is, counted from 0 in the table's order. -/
def row : Instr → Nat
  | .sqTailWrite .. => 0
  | .cqHeadWrite .. => 1
  | .faultHeadWrite .. => 2
  | .faultRetry .. => 3
  | .faultFail .. => 4
  | .createCq .. => 5
  | .createSq .. => 6
  | .deleteSq .. => 7
  | .deleteCq .. => 8
  | .createQp .. => 9
  | .connectQp .. => 10
  | .destroyQp .. => 11
  | .registerRegion .. => 12
  | .deregisterRegion .. => 13
  | .query .. => 14
  | .nop .. => 15
  | .plan .. => 16
  | .cancel .. => 17
  | .spillReservation .. => 18
  | .sqHeadWriteback .. => 19
  | .placePhase .. => 20
  | .placeUrgent .. => 21
  | .streamTransfer .. => 22
  | .endOfStream .. => 23
  | .stageFinish .. => 24
  | .completionPost .. => 25
  | .coalesceTimeout .. => 26
  | .deadline .. => 27
  | .tick .. => 28
  | .budgetUrgent .. => 29
  | .zoneDispatch .. => 30
  | .taskStopped .. => 31
  | .wait .. => 32
  | .signal .. => 33
  | .delay .. => 34
  | .clear .. => 35
  | .waitTimeout .. => 36
  | .delayExpiry .. => 37
  | .avsResponse .. => 38
  | .interruptTaken .. => 39
  | .impreciseArithmetic .. => 40
  | .illegalInstruction .. => 41
  | .aluAdd .. => 42
  | .aluSub .. => 43
  | .aluAnd .. => 44
  | .aluOr .. => 45
  | .aluXor .. => 46
  | .aluSll .. => 47
  | .aluSrl .. => 48
  | .aluSra .. => 49
  | .aluSlt .. => 50
  | .aluSltu .. => 51
  | .aluMin .. => 52
  | .aluMax .. => 53
  | .aluMinu .. => 54
  | .aluMaxu .. => 55
  | .aluRotl .. => 56
  | .aluClz .. => 57
  | .aluwAdd .. => 58
  | .aluwSub .. => 59
  | .aluwAnd .. => 60
  | .aluwOr .. => 61
  | .aluwXor .. => 62
  | .aluwSll .. => 63
  | .aluwSrl .. => 64
  | .aluwSra .. => 65
  | .aluwSlt .. => 66
  | .aluwSltu .. => 67
  | .aluwMin .. => 68
  | .aluwMax .. => 69
  | .aluwMinu .. => 70
  | .aluwMaxu .. => 71
  | .aluwRotl .. => 72
  | .aluwClz .. => 73
  | .mul .. => 74
  | .mulh .. => 75
  | .mulhu .. => 76
  | .div .. => 77
  | .divu .. => 78
  | .rem .. => 79
  | .remu .. => 80
  | .chkAdd .. => 81
  | .chkSub .. => 82
  | .chkMul .. => 83
  | .fadd .. => 84
  | .fsub .. => 85
  | .fmul .. => 86
  | .fdiv .. => 87
  | .fsqrt .. => 88
  | .fmin .. => 89
  | .fmax .. => 90
  | .fmac .. => 91
  | .lrx .. => 92
  | .scx .. => 93
  | .ftoi .. => 94
  | .ftou .. => 95
  | .itof .. => 96
  | .utof .. => 97
  | .ftof .. => 98
  | .fint .. => 99
  | .fbits .. => 100
  | .gbits .. => 101
  | .feq .. => 102
  | .flt .. => 103
  | .fle .. => 104
  | .fltq .. => 105
  | .fleq .. => 106
  | .funord .. => 107
  | .fclass .. => 108
  | .addi .. => 109
  | .andi .. => 110
  | .ori .. => 111
  | .xori .. => 112
  | .lui .. => 113
  | .slti .. => 114
  | .slli .. => 115
  | .srli .. => 116
  | .srai .. => 117
  | .rotli .. => 118
  | .lb .. => 119
  | .lh .. => 120
  | .lw .. => 121
  | .ld .. => 122
  | .lbu .. => 123
  | .lhu .. => 124
  | .lwu .. => 125
  | .lda .. => 126
  | .sb .. => 127
  | .sh .. => 128
  | .sw .. => 129
  | .sd .. => 130
  | .stl .. => 131
  | .fld .. => 132
  | .fsd .. => 133
  | .flw .. => 134
  | .fsw .. => 135
  | .fence .. => 136
  | .beq .. => 137
  | .bne .. => 138
  | .blt .. => 139
  | .bge .. => 140
  | .bltu .. => 141
  | .bgeu .. => 142
  | .j .. => 143
  | .jal .. => 144
  | .jalr .. => 145
  | .sysc .. => 146
  | .mcall .. => 147
  | .sret .. => 148
  | .mret .. => 149
  | .mfs .. => 150
  | .mts .. => 151
  | .wfi .. => 152
  | .halt .. => 153
  | .afence .. => 154
  | .brk .. => 155
  | .srd .. => 156
  | .swr .. => 157
  | .swrn .. => 158
  | .strSend .. => 159
  | .spoll .. => 160
  | .prefetch .. => 161
  | .clean .. => 162
  | .cleanInv .. => 163
  | .inv .. => 164
  | .cleanRange .. => 165
  | .cleanInvRange .. => 166
  | .invRange .. => 167
  | .cleanSw .. => 168
  | .cleanInvSw .. => 169
  | .invSw .. => 170
  | .lockfill .. => 171
  | .lockset .. => 172
  | .svAdd .. => 173
  | .svSub .. => 174
  | .svAddss .. => 175
  | .svAddus .. => 176
  | .svSubss .. => 177
  | .svSubus .. => 178
  | .svAnd .. => 179
  | .svOr .. => 180
  | .svXor .. => 181
  | .svAndn .. => 182
  | .svMin .. => 183
  | .svMax .. => 184
  | .svMinu .. => 185
  | .svMaxu .. => 186
  | .svCmpeq .. => 187
  | .svCmpgt .. => 188
  | .svCmpgtu .. => 189
  | .svMul .. => 190
  | .svAvgu .. => 191
  | .svAbsdu .. => 192
  | .svSlli .. => 193
  | .svSrli .. => 194
  | .svSrai .. => 195
  | .svFadd .. => 196
  | .svFsub .. => 197
  | .svFmul .. => 198
  | .svFdiv .. => 199
  | .svFsqrt .. => 200
  | .svFmin .. => 201
  | .svFmax .. => 202
  | .svFmac .. => 203
  | .svFcmpeq .. => 204
  | .svFcmplt .. => 205
  | .svFcmple .. => 206
  | .svFabs .. => 207
  | .svFneg .. => 208
  | .pick .. => 209
  | .pickk .. => 210
  | .mixlo .. => 211
  | .mixhi .. => 212
  | .sepev .. => 213
  | .sepod .. => 214
  | .slide .. => 215
  | .bcast .. => 216
  | .revl .. => 217
  | .putl .. => 218
  | .getu .. => 219
  | .gets .. => 220
  | .fill .. => 221
  | .topb .. => 222
  | .popc .. => 223
  | .rsum .. => 224
  | .rsumu .. => 225
  | .rmin .. => 226
  | .rmax .. => 227
  | .rminu .. => 228
  | .rmaxu .. => 229
  | .svld .. => 230
  | .svst .. => 231
  | .lvAdd .. => 232
  | .lvSub .. => 233
  | .lvMul .. => 234
  | .lvAnd .. => 235
  | .lvOr .. => 236
  | .lvXor .. => 237
  | .lvMin .. => 238
  | .lvMax .. => 239
  | .lvMinu .. => 240
  | .lvMaxu .. => 241
  | .lvFadd .. => 242
  | .lvFsub .. => 243
  | .lvFmul .. => 244
  | .lvFdiv .. => 245
  | .lvFmin .. => 246
  | .lvFmax .. => 247
  | .lvCmpeq .. => 248
  | .lvCmplt .. => 249
  | .lvCmpltu .. => 250
  | .lvFcmpeq .. => 251
  | .lvFcmplt .. => 252
  | .compress .. => 253
  | .gather .. => 254
  | .scatter .. => 255
  | .unpack .. => 256
  | .pack .. => 257
  | .l2Enable .. => 258
  | .l2Disable .. => 259
  | .l2DrainDone .. => 260
  | .prefetchEnable .. => 261
  | .pageRead .. => 262
  | .dictionaryPrepare .. => 263
  | .scan .. => 264
  | .hashBuild .. => 265
  | .hashProbe .. => 266
  | .partition .. => 267
  | .hashGroup .. => 268
  | .sort .. => 269
  | .merge .. => 270
  | .topN .. => 271
  | .groupSorted .. => 272
  | .groupHash .. => 273
  | .inflate .. => 274
  | .deflate .. => 275
  | .kilnSelfTest .. => 276
  | .digest .. => 277
  | .lookup .. => 278
  | .udoStage .. => 279
  | .exprStage .. => 280
  | .combine .. => 281
  | .exchSend .. => 282
  | .exchRecv .. => 283
  | .source .. => 284
  | .sinkDevice .. => 285
  | .sinkHost .. => 286
  | .sinkRemote .. => 287
  | .descriptorFetch .. => 288
  | .tunRequest .. => 289
  | .descriptorWriteback .. => 290
  | .faultTimeout .. => 291
  | .memoryTimeout .. => 292
  | .invalidate .. => 293
  | .invalidateDone .. => 294
  | .rootWrite .. => 295
  | .fqBase .. => 296
  | .fqEntries .. => 297
  | .fqLocation .. => 298
  | .atsInvalidate .. => 299
  | .dramRequestIssue .. => 300
  | .rhPenaltyEnd .. => 301
  | .rhSubwindow .. => 302
  | .refresh .. => 303
  | .channelTempPoll .. => 304
  | .scrubRead .. => 305
  | .scrubPeriod .. => 306
  | .alertN .. => 307
  | .pdIdle .. => 308
  | .selfRefreshEntry .. => 309
  | .cxlMemRead .. => 310
  | .cxlMemWrite .. => 311
  | .hdmCommit .. => 312
  | .hostWindow .. => 313
  | .flr .. => 314
  | .pf0Flr .. => 315
  | .hotReset .. => 316
  | .perstN .. => 317
  | .configurationRequest .. => 318
  | .ideFailure .. => 319
  | .getEventRecords .. => 320
  | .clearEventRecords .. => 321
  | .setTimestamp .. => 322
  | .getTimestamp .. => 323
  | .getSupportedLogs .. => 324
  | .getLog .. => 325
  | .identifyMemoryDevice .. => 326
  | .getHealthInfo .. => 327
  | .vdpRequest .. => 328
  | .vdpCyclic .. => 329
  | .unsupportedMailbox .. => 330
  | .create .. => 331
  | .destroy .. => 332
  | .restore .. => 333
  | .resetWrite .. => 334
  | .freeze .. => 335
  | .resume .. => 336
  | .resetComplete .. => 337
  | .freezeTimeout .. => 338
  | .rrHead .. => 339
  | .spillPool .. => 340
  | .spillBase .. => 341
  | .rrBase .. => 342
  | .rrEntries .. => 343
  | .linkWrite .. => 344
  | .logEnable .. => 345
  | .logSwitch .. => 346
  | .logStop .. => 347
  | .logSwitchDone .. => 348
  | .roceSend .. => 349
  | .rdmaWrite .. => 350
  | .rdmaWriteImm .. => 351
  | .rdmaRead .. => 352
  | .ackPacket .. => 353
  | .roceNak .. => 354
  | .cnp .. => 355
  | .otherFrame .. => 356
  | .ackTimeout .. => 357
  | .rnrTimer .. => 358
  | .incPeriod .. => 359
  | .fitnessWindow .. => 360
  | .probe .. => 361
  | .probeTimeout .. => 362
  | .repairTime .. => 363
  | .rearm .. => 364
  | .moveBack .. => 365
  | .pathHold .. => 366
  | .openMsg .. => 367
  | .grantMsg .. => 368
  | .endMsg .. => 369
  | .openRetry .. => 370
  | .openTimeout .. => 371
  | .dataFlit .. => 372
  | .idleFlit .. => 373
  | .nakFlit .. => 374
  | .heartbeat .. => 375
  | .heartbeatSend .. => 376
  | .replayTimeout .. => 377
  | .trainAttempt .. => 378
  | .trainDone .. => 379
  | .retrainDone .. => 380
  | .twinLoss .. => 381
  | .entryRecord .. => 382
  | .postRecord .. => 383
  | .retireRecord .. => 384
  | .queueRecord .. => 385
  | .instanceRecord .. => 386
  | .floorRecord .. => 387
  | .mirrorAck .. => 388
  | .claimMsg .. => 389
  | .claimRepeat .. => 390
  | .claimWait .. => 391
  | .switchOverEnd .. => 392
  | .linkWait .. => 393
  | .syncComplete .. => 394
  | .orphanDelay .. => 395
  | .orphanNow .. => 396
  | .orphanCqHead .. => 397
  | .pairPolicy .. => 398
  | .vdpRead .. => 399
  | .vdpWrite .. => 400
  | .segInit .. => 401
  | .segData .. => 402
  | .segAbort .. => 403
  | .segTimeout .. => 404
  | .discover .. => 405
  | .cyclic .. => 406
  | .resourceClaim .. => 407
  | .timerStart .. => 408
  | .timerStop .. => 409
  | .timerExpiry .. => 410
  | .watchdogExpiry .. => 411
  | .counterLogWrite .. => 412
  | .ownerKey .. => 413
  | .keyWrite .. => 414
  | .rightsWrite .. => 415
  | .imageUpdateDone .. => 416
  | .bootKeyDigest .. => 417
  | .glumeParityPass .. => 418
  | .targetRun .. => 419
  | .targetDrain .. => 420
  | .targetDormant .. => 421
  | .targetFreeze .. => 422
  | .unitApplied .. => 423
  | .modeDeadline .. => 424
  | .rollbackDone .. => 425
  | .zonePowerOff .. => 426
  | .zonePowerOn .. => 427
  | .zoneGated .. => 428
  | .zoneWake .. => 429
  | .holdEntry .. => 430
  | .sensorPoll .. => 431
  | .temperatureOutOfSpec .. => 432
  | .supplyOutOfSpec .. => 433
  | .refclkLoss .. => 434
  | .journalEccError .. => 435
  | .firmwareFault .. => 436
  | .pwrgoodAssert .. => 437
  | .pwrgoodDeassert .. => 438
  | .sysResetN .. => 439
  | .deviceReset .. => 440
  | .fuseLoadDone .. => 441
  | .copyChosen .. => 442
  | .dramBringup .. => 443
  | .loadEnd .. => 444
  | .runEntry .. => 445
  | .logClear .. => 446
  | .portTrainingDone .. => 447
  | .cxlLinkTrained .. => 448
  | .unitReportsClear .. => 449
  | .coreRestart .. => 450
  | .tapInstruction .. => 451
  | .managementFrame .. => 452
  | .plcaBeacon .. => 453

/-- A command's constructor stands at its own row's place: no row of the table is left out, doubled or out of order. -/
def Statement (i : Instr) : Prop := i.ctorIdx = row i

theorem sqTailWrite (link : Link) (inst : Inst) (q : Fin 16) (size : Nat) (value : Nat) (stored : List (Nat × List Byte)) : Statement (.sqTailWrite link inst q size value stored) := rfl
theorem cqHeadWrite (link : Link) (inst : Inst) (q : Fin 16) (size : Nat) (value : Nat) : Statement (.cqHeadWrite link inst q size value) := rfl
theorem faultHeadWrite (link : Link) (inst : Inst) (size : Nat) (value : Nat) : Statement (.faultHeadWrite link inst size value) := rfl
theorem faultRetry (link : Link) (inst : Inst) (size : Nat) (value : Nat) : Statement (.faultRetry link inst size value) := rfl
theorem faultFail (link : Link) (inst : Inst) (size : Nat) (value : Nat) : Statement (.faultFail link inst size value) := rfl
theorem createCq (link : Link) (inst : Inst) (cmd : CmdRun) : Statement (.createCq link inst cmd) := rfl
theorem createSq (link : Link) (inst : Inst) (cmd : CmdRun) : Statement (.createSq link inst cmd) := rfl
theorem deleteSq (link : Link) (inst : Inst) (cmd : CmdRun) : Statement (.deleteSq link inst cmd) := rfl
theorem deleteCq (link : Link) (inst : Inst) (cmd : CmdRun) : Statement (.deleteCq link inst cmd) := rfl
theorem createQp (link : Link) (inst : Inst) (cmd : CmdRun) : Statement (.createQp link inst cmd) := rfl
theorem connectQp (link : Link) (inst : Inst) (cmd : CmdRun) : Statement (.connectQp link inst cmd) := rfl
theorem destroyQp (link : Link) (inst : Inst) (cmd : CmdRun) : Statement (.destroyQp link inst cmd) := rfl
theorem registerRegion (link : Link) (inst : Inst) (cmd : CmdRun) : Statement (.registerRegion link inst cmd) := rfl
theorem deregisterRegion (link : Link) (inst : Inst) (cmd : CmdRun) : Statement (.deregisterRegion link inst cmd) := rfl
theorem query (link : Link) (inst : Inst) (cmd : CmdRun) : Statement (.query link inst cmd) := rfl
theorem nop (inst : Inst) (sq : Fin 16) : Statement (.nop inst sq) := rfl
theorem plan (inst : Inst) (sq : Fin 16) : Statement (.plan inst sq) := rfl
theorem cancel (inst : Inst) (sq : Fin 16) : Statement (.cancel inst sq) := rfl
theorem spillReservation (inst : Inst) (sq : Fin 16) : Statement (.spillReservation inst sq) := rfl
theorem sqHeadWriteback (inst : Inst) (sq : Fin 16) : Statement (.sqHeadWriteback inst sq) := rfl
theorem placePhase : Statement (.placePhase) := rfl
theorem placeUrgent : Statement (.placeUrgent) := rfl
theorem streamTransfer (slot : Nat) (port : Nat) : Statement (.streamTransfer slot port) := rfl
theorem endOfStream (slot : Nat) (port : Nat) : Statement (.endOfStream slot port) := rfl
theorem stageFinish (slot : Nat) : Statement (.stageFinish slot) := rfl
theorem completionPost (inst : Inst) (sq : Fin 16) : Statement (.completionPost inst sq) := rfl
theorem coalesceTimeout (inst : Inst) (cq : Fin 16) : Statement (.coalesceTimeout inst cq) := rfl
theorem deadline (inst : Inst) (sq : Fin 16) (asn : Nat) : Statement (.deadline inst sq asn) := rfl
theorem tick (mfp : BitVec 8) : Statement (.tick mfp) := rfl
theorem budgetUrgent (slot : Nat) : Statement (.budgetUrgent slot) := rfl
theorem zoneDispatch (zone : Fin 16) : Statement (.zoneDispatch zone) := rfl
theorem taskStopped (slot : Nat) : Statement (.taskStopped slot) := rfl
theorem wait (slot : Nat) (mask : BitVec 32) (all : Bool) (n : Nat) : Statement (.wait slot mask all n) := rfl
theorem signal (sender : Option Nat) (slot : Nat) (flags : BitVec 32) : Statement (.signal sender slot flags) := rfl
theorem delay (slot : Nat) (n : Nat) : Statement (.delay slot n) := rfl
theorem clear (slot : Nat) (mask : BitVec 32) : Statement (.clear slot mask) := rfl
theorem waitTimeout (slot : Nat) : Statement (.waitTimeout slot) := rfl
theorem delayExpiry (slot : Nat) : Statement (.delayExpiry slot) := rfl
theorem avsResponse (ok : Bool) : Statement (.avsResponse ok) := rfl
theorem interruptTaken (core : CoreId) : Statement (.interruptTaken core) := rfl
theorem impreciseArithmetic (core : CoreId) : Statement (.impreciseArithmetic core) := rfl
theorem illegalInstruction (core : CoreId) (word : BitVec 32) : Statement (.illegalInstruction core word) := rfl
theorem aluAdd (core : CoreId) (rd ra rb : Reg) : Statement (.aluAdd core rd ra rb) := rfl
theorem aluSub (core : CoreId) (rd ra rb : Reg) : Statement (.aluSub core rd ra rb) := rfl
theorem aluAnd (core : CoreId) (rd ra rb : Reg) : Statement (.aluAnd core rd ra rb) := rfl
theorem aluOr (core : CoreId) (rd ra rb : Reg) : Statement (.aluOr core rd ra rb) := rfl
theorem aluXor (core : CoreId) (rd ra rb : Reg) : Statement (.aluXor core rd ra rb) := rfl
theorem aluSll (core : CoreId) (rd ra rb : Reg) : Statement (.aluSll core rd ra rb) := rfl
theorem aluSrl (core : CoreId) (rd ra rb : Reg) : Statement (.aluSrl core rd ra rb) := rfl
theorem aluSra (core : CoreId) (rd ra rb : Reg) : Statement (.aluSra core rd ra rb) := rfl
theorem aluSlt (core : CoreId) (rd ra rb : Reg) : Statement (.aluSlt core rd ra rb) := rfl
theorem aluSltu (core : CoreId) (rd ra rb : Reg) : Statement (.aluSltu core rd ra rb) := rfl
theorem aluMin (core : CoreId) (rd ra rb : Reg) : Statement (.aluMin core rd ra rb) := rfl
theorem aluMax (core : CoreId) (rd ra rb : Reg) : Statement (.aluMax core rd ra rb) := rfl
theorem aluMinu (core : CoreId) (rd ra rb : Reg) : Statement (.aluMinu core rd ra rb) := rfl
theorem aluMaxu (core : CoreId) (rd ra rb : Reg) : Statement (.aluMaxu core rd ra rb) := rfl
theorem aluRotl (core : CoreId) (rd ra rb : Reg) : Statement (.aluRotl core rd ra rb) := rfl
theorem aluClz (core : CoreId) (rd ra : Reg) : Statement (.aluClz core rd ra) := rfl
theorem aluwAdd (core : CoreId) (rd ra rb : Reg) : Statement (.aluwAdd core rd ra rb) := rfl
theorem aluwSub (core : CoreId) (rd ra rb : Reg) : Statement (.aluwSub core rd ra rb) := rfl
theorem aluwAnd (core : CoreId) (rd ra rb : Reg) : Statement (.aluwAnd core rd ra rb) := rfl
theorem aluwOr (core : CoreId) (rd ra rb : Reg) : Statement (.aluwOr core rd ra rb) := rfl
theorem aluwXor (core : CoreId) (rd ra rb : Reg) : Statement (.aluwXor core rd ra rb) := rfl
theorem aluwSll (core : CoreId) (rd ra rb : Reg) : Statement (.aluwSll core rd ra rb) := rfl
theorem aluwSrl (core : CoreId) (rd ra rb : Reg) : Statement (.aluwSrl core rd ra rb) := rfl
theorem aluwSra (core : CoreId) (rd ra rb : Reg) : Statement (.aluwSra core rd ra rb) := rfl
theorem aluwSlt (core : CoreId) (rd ra rb : Reg) : Statement (.aluwSlt core rd ra rb) := rfl
theorem aluwSltu (core : CoreId) (rd ra rb : Reg) : Statement (.aluwSltu core rd ra rb) := rfl
theorem aluwMin (core : CoreId) (rd ra rb : Reg) : Statement (.aluwMin core rd ra rb) := rfl
theorem aluwMax (core : CoreId) (rd ra rb : Reg) : Statement (.aluwMax core rd ra rb) := rfl
theorem aluwMinu (core : CoreId) (rd ra rb : Reg) : Statement (.aluwMinu core rd ra rb) := rfl
theorem aluwMaxu (core : CoreId) (rd ra rb : Reg) : Statement (.aluwMaxu core rd ra rb) := rfl
theorem aluwRotl (core : CoreId) (rd ra rb : Reg) : Statement (.aluwRotl core rd ra rb) := rfl
theorem aluwClz (core : CoreId) (rd ra : Reg) : Statement (.aluwClz core rd ra) := rfl
theorem mul (core : CoreId) (rd ra rb : Reg) : Statement (.mul core rd ra rb) := rfl
theorem mulh (core : CoreId) (rd ra rb : Reg) : Statement (.mulh core rd ra rb) := rfl
theorem mulhu (core : CoreId) (rd ra rb : Reg) : Statement (.mulhu core rd ra rb) := rfl
theorem div (core : CoreId) (rd ra rb : Reg) : Statement (.div core rd ra rb) := rfl
theorem divu (core : CoreId) (rd ra rb : Reg) : Statement (.divu core rd ra rb) := rfl
theorem rem (core : CoreId) (rd ra rb : Reg) : Statement (.rem core rd ra rb) := rfl
theorem remu (core : CoreId) (rd ra rb : Reg) : Statement (.remu core rd ra rb) := rfl
theorem chkAdd (core : CoreId) (rd ra rb : Reg) : Statement (.chkAdd core rd ra rb) := rfl
theorem chkSub (core : CoreId) (rd ra rb : Reg) : Statement (.chkSub core rd ra rb) := rfl
theorem chkMul (core : CoreId) (rd ra rb : Reg) : Statement (.chkMul core rd ra rb) := rfl
theorem fadd (core : CoreId) (rd ra rb : Reg) (fmt : FFmt) (rm : FRm) : Statement (.fadd core rd ra rb fmt rm) := rfl
theorem fsub (core : CoreId) (rd ra rb : Reg) (fmt : FFmt) (rm : FRm) : Statement (.fsub core rd ra rb fmt rm) := rfl
theorem fmul (core : CoreId) (rd ra rb : Reg) (fmt : FFmt) (rm : FRm) : Statement (.fmul core rd ra rb fmt rm) := rfl
theorem fdiv (core : CoreId) (rd ra rb : Reg) (fmt : FFmt) (rm : FRm) : Statement (.fdiv core rd ra rb fmt rm) := rfl
theorem fsqrt (core : CoreId) (rd ra : Reg) (fmt : FFmt) (rm : FRm) : Statement (.fsqrt core rd ra fmt rm) := rfl
theorem fmin (core : CoreId) (rd ra rb : Reg) (fmt : FFmt) (rm : FRm) : Statement (.fmin core rd ra rb fmt rm) := rfl
theorem fmax (core : CoreId) (rd ra rb : Reg) (fmt : FFmt) (rm : FRm) : Statement (.fmax core rd ra rb fmt rm) := rfl
theorem fmac (core : CoreId) (rd ra rb : Reg) (fmt : FFmt) (rm : FRm) : Statement (.fmac core rd ra rb fmt rm) := rfl
theorem lrx (core : CoreId) (rd ra : Reg) : Statement (.lrx core rd ra) := rfl
theorem scx (core : CoreId) (rd ra rb : Reg) : Statement (.scx core rd ra rb) := rfl
theorem ftoi (core : CoreId) (rd ra : Reg) (fmt : FFmt) (rm : FRm) : Statement (.ftoi core rd ra fmt rm) := rfl
theorem ftou (core : CoreId) (rd ra : Reg) (fmt : FFmt) (rm : FRm) : Statement (.ftou core rd ra fmt rm) := rfl
theorem itof (core : CoreId) (rd ra : Reg) (fmt : FFmt) (rm : FRm) : Statement (.itof core rd ra fmt rm) := rfl
theorem utof (core : CoreId) (rd ra : Reg) (fmt : FFmt) (rm : FRm) : Statement (.utof core rd ra fmt rm) := rfl
theorem ftof (core : CoreId) (rd ra : Reg) (fmt : FFmt) (rm : FRm) : Statement (.ftof core rd ra fmt rm) := rfl
theorem fint (core : CoreId) (rd ra : Reg) (fmt : FFmt) (rm : FRm) : Statement (.fint core rd ra fmt rm) := rfl
theorem fbits (core : CoreId) (rd ra : Reg) : Statement (.fbits core rd ra) := rfl
theorem gbits (core : CoreId) (rd ra : Reg) : Statement (.gbits core rd ra) := rfl
theorem feq (core : CoreId) (rd ra rb : Reg) (fmt : FFmt) : Statement (.feq core rd ra rb fmt) := rfl
theorem flt (core : CoreId) (rd ra rb : Reg) (fmt : FFmt) : Statement (.flt core rd ra rb fmt) := rfl
theorem fle (core : CoreId) (rd ra rb : Reg) (fmt : FFmt) : Statement (.fle core rd ra rb fmt) := rfl
theorem fltq (core : CoreId) (rd ra rb : Reg) (fmt : FFmt) : Statement (.fltq core rd ra rb fmt) := rfl
theorem fleq (core : CoreId) (rd ra rb : Reg) (fmt : FFmt) : Statement (.fleq core rd ra rb fmt) := rfl
theorem funord (core : CoreId) (rd ra rb : Reg) (fmt : FFmt) : Statement (.funord core rd ra rb fmt) := rfl
theorem fclass (core : CoreId) (rd ra : Reg) (fmt : FFmt) : Statement (.fclass core rd ra fmt) := rfl
theorem addi (core : CoreId) (rd ra : Reg) (imm : BitVec 16) : Statement (.addi core rd ra imm) := rfl
theorem andi (core : CoreId) (rd ra : Reg) (imm : BitVec 16) : Statement (.andi core rd ra imm) := rfl
theorem ori (core : CoreId) (rd ra : Reg) (imm : BitVec 16) : Statement (.ori core rd ra imm) := rfl
theorem xori (core : CoreId) (rd ra : Reg) (imm : BitVec 16) : Statement (.xori core rd ra imm) := rfl
theorem lui (core : CoreId) (rd : Reg) (imm : BitVec 16) : Statement (.lui core rd imm) := rfl
theorem slti (core : CoreId) (rd ra : Reg) (imm : BitVec 16) : Statement (.slti core rd ra imm) := rfl
theorem slli (core : CoreId) (rd ra : Reg) (w : Bool) (count : Fin 64) : Statement (.slli core rd ra w count) := rfl
theorem srli (core : CoreId) (rd ra : Reg) (w : Bool) (count : Fin 64) : Statement (.srli core rd ra w count) := rfl
theorem srai (core : CoreId) (rd ra : Reg) (w : Bool) (count : Fin 64) : Statement (.srai core rd ra w count) := rfl
theorem rotli (core : CoreId) (rd ra : Reg) (w : Bool) (count : Fin 64) : Statement (.rotli core rd ra w count) := rfl
theorem lb (core : CoreId) (rd ra : Reg) (imm : BitVec 16) : Statement (.lb core rd ra imm) := rfl
theorem lh (core : CoreId) (rd ra : Reg) (imm : BitVec 16) : Statement (.lh core rd ra imm) := rfl
theorem lw (core : CoreId) (rd ra : Reg) (imm : BitVec 16) : Statement (.lw core rd ra imm) := rfl
theorem ld (core : CoreId) (rd ra : Reg) (imm : BitVec 16) : Statement (.ld core rd ra imm) := rfl
theorem lbu (core : CoreId) (rd ra : Reg) (imm : BitVec 16) : Statement (.lbu core rd ra imm) := rfl
theorem lhu (core : CoreId) (rd ra : Reg) (imm : BitVec 16) : Statement (.lhu core rd ra imm) := rfl
theorem lwu (core : CoreId) (rd ra : Reg) (imm : BitVec 16) : Statement (.lwu core rd ra imm) := rfl
theorem lda (core : CoreId) (rd ra : Reg) (imm : BitVec 16) : Statement (.lda core rd ra imm) := rfl
theorem sb (core : CoreId) (rd ra : Reg) (imm : BitVec 16) : Statement (.sb core rd ra imm) := rfl
theorem sh (core : CoreId) (rd ra : Reg) (imm : BitVec 16) : Statement (.sh core rd ra imm) := rfl
theorem sw (core : CoreId) (rd ra : Reg) (imm : BitVec 16) : Statement (.sw core rd ra imm) := rfl
theorem sd (core : CoreId) (rd ra : Reg) (imm : BitVec 16) : Statement (.sd core rd ra imm) := rfl
theorem stl (core : CoreId) (rd ra : Reg) (imm : BitVec 16) : Statement (.stl core rd ra imm) := rfl
theorem fld (core : CoreId) (rd ra : Reg) (imm : BitVec 16) : Statement (.fld core rd ra imm) := rfl
theorem fsd (core : CoreId) (rd ra : Reg) (imm : BitVec 16) : Statement (.fsd core rd ra imm) := rfl
theorem flw (core : CoreId) (rd ra : Reg) (imm : BitVec 16) : Statement (.flw core rd ra imm) := rfl
theorem fsw (core : CoreId) (rd ra : Reg) (imm : BitVec 16) : Statement (.fsw core rd ra imm) := rfl
theorem fence (core : CoreId) (bits : BitVec 5) : Statement (.fence core bits) := rfl
theorem beq (core : CoreId) (ra rb : Reg) (disp : BitVec 16) : Statement (.beq core ra rb disp) := rfl
theorem bne (core : CoreId) (ra rb : Reg) (disp : BitVec 16) : Statement (.bne core ra rb disp) := rfl
theorem blt (core : CoreId) (ra rb : Reg) (disp : BitVec 16) : Statement (.blt core ra rb disp) := rfl
theorem bge (core : CoreId) (ra rb : Reg) (disp : BitVec 16) : Statement (.bge core ra rb disp) := rfl
theorem bltu (core : CoreId) (ra rb : Reg) (disp : BitVec 16) : Statement (.bltu core ra rb disp) := rfl
theorem bgeu (core : CoreId) (ra rb : Reg) (disp : BitVec 16) : Statement (.bgeu core ra rb disp) := rfl
theorem j (core : CoreId) (disp : BitVec 26) : Statement (.j core disp) := rfl
theorem jal (core : CoreId) (disp : BitVec 26) : Statement (.jal core disp) := rfl
theorem jalr (core : CoreId) (rd ra : Reg) (imm : BitVec 16) : Statement (.jalr core rd ra imm) := rfl
theorem sysc (core : CoreId) (imm : BitVec 16) : Statement (.sysc core imm) := rfl
theorem mcall (core : CoreId) (imm : BitVec 16) : Statement (.mcall core imm) := rfl
theorem sret (core : CoreId) : Statement (.sret core) := rfl
theorem mret (core : CoreId) : Statement (.mret core) := rfl
theorem mfs (core : CoreId) (ra : Reg) (num : BitVec 16) : Statement (.mfs core ra num) := rfl
theorem mts (core : CoreId) (ra : Reg) (num : BitVec 16) : Statement (.mts core ra num) := rfl
theorem wfi (core : CoreId) : Statement (.wfi core) := rfl
theorem halt (core : CoreId) : Statement (.halt core) := rfl
theorem afence (core : CoreId) : Statement (.afence core) := rfl
theorem brk (core : CoreId) (imm : BitVec 16) : Statement (.brk core imm) := rfl
theorem srd (core : CoreId) (rd ra : Reg) (port : Fin 16) : Statement (.srd core rd ra port) := rfl
theorem swr (core : CoreId) (rd ra : Reg) (port : Fin 16) : Statement (.swr core rd ra port) := rfl
theorem swrn (core : CoreId) (rd ra : Reg) (port : Fin 16) : Statement (.swrn core rd ra port) := rfl
theorem strSend (core : CoreId) (rd ra : Reg) (port : Fin 16) : Statement (.strSend core rd ra port) := rfl
theorem spoll (core : CoreId) (rd ra : Reg) (port : Fin 16) : Statement (.spoll core rd ra port) := rfl
theorem prefetch (core : CoreId) (ra : Reg) : Statement (.prefetch core ra) := rfl
theorem clean (core : CoreId) (ra : Reg) : Statement (.clean core ra) := rfl
theorem cleanInv (core : CoreId) (ra : Reg) : Statement (.cleanInv core ra) := rfl
theorem inv (core : CoreId) (ra : Reg) : Statement (.inv core ra) := rfl
theorem cleanRange (core : CoreId) (ra rl : Reg) : Statement (.cleanRange core ra rl) := rfl
theorem cleanInvRange (core : CoreId) (ra rl : Reg) : Statement (.cleanInvRange core ra rl) := rfl
theorem invRange (core : CoreId) (ra rl : Reg) : Statement (.invRange core ra rl) := rfl
theorem cleanSw (core : CoreId) (ra rl : Reg) : Statement (.cleanSw core ra rl) := rfl
theorem cleanInvSw (core : CoreId) (ra rl : Reg) : Statement (.cleanInvSw core ra rl) := rfl
theorem invSw (core : CoreId) (ra rl : Reg) : Statement (.invSw core ra rl) := rfl
theorem lockfill (core : CoreId) (ra rl : Reg) : Statement (.lockfill core ra rl) := rfl
theorem lockset (core : CoreId) (ra rl : Reg) : Statement (.lockset core ra rl) := rfl
theorem svAdd (core : CoreId) (o : SvOp) : Statement (.svAdd core o) := rfl
theorem svSub (core : CoreId) (o : SvOp) : Statement (.svSub core o) := rfl
theorem svAddss (core : CoreId) (o : SvOp) : Statement (.svAddss core o) := rfl
theorem svAddus (core : CoreId) (o : SvOp) : Statement (.svAddus core o) := rfl
theorem svSubss (core : CoreId) (o : SvOp) : Statement (.svSubss core o) := rfl
theorem svSubus (core : CoreId) (o : SvOp) : Statement (.svSubus core o) := rfl
theorem svAnd (core : CoreId) (o : SvOp) : Statement (.svAnd core o) := rfl
theorem svOr (core : CoreId) (o : SvOp) : Statement (.svOr core o) := rfl
theorem svXor (core : CoreId) (o : SvOp) : Statement (.svXor core o) := rfl
theorem svAndn (core : CoreId) (o : SvOp) : Statement (.svAndn core o) := rfl
theorem svMin (core : CoreId) (o : SvOp) : Statement (.svMin core o) := rfl
theorem svMax (core : CoreId) (o : SvOp) : Statement (.svMax core o) := rfl
theorem svMinu (core : CoreId) (o : SvOp) : Statement (.svMinu core o) := rfl
theorem svMaxu (core : CoreId) (o : SvOp) : Statement (.svMaxu core o) := rfl
theorem svCmpeq (core : CoreId) (o : SvOp) : Statement (.svCmpeq core o) := rfl
theorem svCmpgt (core : CoreId) (o : SvOp) : Statement (.svCmpgt core o) := rfl
theorem svCmpgtu (core : CoreId) (o : SvOp) : Statement (.svCmpgtu core o) := rfl
theorem svMul (core : CoreId) (o : SvOp) : Statement (.svMul core o) := rfl
theorem svAvgu (core : CoreId) (o : SvOp) : Statement (.svAvgu core o) := rfl
theorem svAbsdu (core : CoreId) (o : SvOp) : Statement (.svAbsdu core o) := rfl
theorem svSlli (core : CoreId) (o : SvOp) (count : Fin 64) : Statement (.svSlli core o count) := rfl
theorem svSrli (core : CoreId) (o : SvOp) (count : Fin 64) : Statement (.svSrli core o count) := rfl
theorem svSrai (core : CoreId) (o : SvOp) (count : Fin 64) : Statement (.svSrai core o count) := rfl
theorem svFadd (core : CoreId) (o : SvOp) : Statement (.svFadd core o) := rfl
theorem svFsub (core : CoreId) (o : SvOp) : Statement (.svFsub core o) := rfl
theorem svFmul (core : CoreId) (o : SvOp) : Statement (.svFmul core o) := rfl
theorem svFdiv (core : CoreId) (o : SvOp) : Statement (.svFdiv core o) := rfl
theorem svFsqrt (core : CoreId) (o : SvOp) : Statement (.svFsqrt core o) := rfl
theorem svFmin (core : CoreId) (o : SvOp) : Statement (.svFmin core o) := rfl
theorem svFmax (core : CoreId) (o : SvOp) : Statement (.svFmax core o) := rfl
theorem svFmac (core : CoreId) (o : SvOp) : Statement (.svFmac core o) := rfl
theorem svFcmpeq (core : CoreId) (o : SvOp) : Statement (.svFcmpeq core o) := rfl
theorem svFcmplt (core : CoreId) (o : SvOp) : Statement (.svFcmplt core o) := rfl
theorem svFcmple (core : CoreId) (o : SvOp) : Statement (.svFcmple core o) := rfl
theorem svFabs (core : CoreId) (o : SvOp) : Statement (.svFabs core o) := rfl
theorem svFneg (core : CoreId) (o : SvOp) : Statement (.svFneg core o) := rfl
theorem pick (core : CoreId) (o : SvOp) (param : Fin 16) : Statement (.pick core o param) := rfl
theorem pickk (core : CoreId) (o : SvOp) (param : Fin 16) : Statement (.pickk core o param) := rfl
theorem mixlo (core : CoreId) (o : SvOp) (param : Fin 16) : Statement (.mixlo core o param) := rfl
theorem mixhi (core : CoreId) (o : SvOp) (param : Fin 16) : Statement (.mixhi core o param) := rfl
theorem sepev (core : CoreId) (o : SvOp) (param : Fin 16) : Statement (.sepev core o param) := rfl
theorem sepod (core : CoreId) (o : SvOp) (param : Fin 16) : Statement (.sepod core o param) := rfl
theorem slide (core : CoreId) (o : SvOp) (param : Fin 16) : Statement (.slide core o param) := rfl
theorem bcast (core : CoreId) (o : SvOp) (param : Fin 16) : Statement (.bcast core o param) := rfl
theorem revl (core : CoreId) (o : SvOp) (param : Fin 16) : Statement (.revl core o param) := rfl
theorem putl (core : CoreId) (o : SvOp) : Statement (.putl core o) := rfl
theorem getu (core : CoreId) (o : SvOp) : Statement (.getu core o) := rfl
theorem gets (core : CoreId) (o : SvOp) : Statement (.gets core o) := rfl
theorem fill (core : CoreId) (o : SvOp) : Statement (.fill core o) := rfl
theorem topb (core : CoreId) (o : SvOp) : Statement (.topb core o) := rfl
theorem popc (core : CoreId) (o : SvOp) : Statement (.popc core o) := rfl
theorem rsum (core : CoreId) (o : SvOp) : Statement (.rsum core o) := rfl
theorem rsumu (core : CoreId) (o : SvOp) : Statement (.rsumu core o) := rfl
theorem rmin (core : CoreId) (o : SvOp) : Statement (.rmin core o) := rfl
theorem rmax (core : CoreId) (o : SvOp) : Statement (.rmax core o) := rfl
theorem rminu (core : CoreId) (o : SvOp) : Statement (.rminu core o) := rfl
theorem rmaxu (core : CoreId) (o : SvOp) : Statement (.rmaxu core o) := rfl
theorem svld (core : CoreId) (rd ra : Reg) (disp : BitVec 10) (k : Fin 4) (esz : Fin 4) (q : Bool) : Statement (.svld core rd ra disp k esz q) := rfl
theorem svst (core : CoreId) (rd ra : Reg) (disp : BitVec 10) (k : Fin 4) (esz : Fin 4) (q : Bool) : Statement (.svst core rd ra disp k esz q) := rfl
theorem lvAdd (core : CoreId) (o : LvOp) : Statement (.lvAdd core o) := rfl
theorem lvSub (core : CoreId) (o : LvOp) : Statement (.lvSub core o) := rfl
theorem lvMul (core : CoreId) (o : LvOp) : Statement (.lvMul core o) := rfl
theorem lvAnd (core : CoreId) (o : LvOp) : Statement (.lvAnd core o) := rfl
theorem lvOr (core : CoreId) (o : LvOp) : Statement (.lvOr core o) := rfl
theorem lvXor (core : CoreId) (o : LvOp) : Statement (.lvXor core o) := rfl
theorem lvMin (core : CoreId) (o : LvOp) : Statement (.lvMin core o) := rfl
theorem lvMax (core : CoreId) (o : LvOp) : Statement (.lvMax core o) := rfl
theorem lvMinu (core : CoreId) (o : LvOp) : Statement (.lvMinu core o) := rfl
theorem lvMaxu (core : CoreId) (o : LvOp) : Statement (.lvMaxu core o) := rfl
theorem lvFadd (core : CoreId) (o : LvOp) : Statement (.lvFadd core o) := rfl
theorem lvFsub (core : CoreId) (o : LvOp) : Statement (.lvFsub core o) := rfl
theorem lvFmul (core : CoreId) (o : LvOp) : Statement (.lvFmul core o) := rfl
theorem lvFdiv (core : CoreId) (o : LvOp) : Statement (.lvFdiv core o) := rfl
theorem lvFmin (core : CoreId) (o : LvOp) : Statement (.lvFmin core o) := rfl
theorem lvFmax (core : CoreId) (o : LvOp) : Statement (.lvFmax core o) := rfl
theorem lvCmpeq (core : CoreId) (o : LvOp) : Statement (.lvCmpeq core o) := rfl
theorem lvCmplt (core : CoreId) (o : LvOp) : Statement (.lvCmplt core o) := rfl
theorem lvCmpltu (core : CoreId) (o : LvOp) : Statement (.lvCmpltu core o) := rfl
theorem lvFcmpeq (core : CoreId) (o : LvOp) : Statement (.lvFcmpeq core o) := rfl
theorem lvFcmplt (core : CoreId) (o : LvOp) : Statement (.lvFcmplt core o) := rfl
theorem compress (core : CoreId) (o : LvOp) : Statement (.compress core o) := rfl
theorem gather (core : CoreId) (o : LvOp) : Statement (.gather core o) := rfl
theorem scatter (core : CoreId) (o : LvOp) : Statement (.scatter core o) := rfl
theorem unpack (core : CoreId) (o : LvOp) : Statement (.unpack core o) := rfl
theorem pack (core : CoreId) (o : LvOp) : Statement (.pack core o) := rfl
theorem l2Enable (cluster : Fin 16) (w : VdpWrite) : Statement (.l2Enable cluster w) := rfl
theorem l2Disable (cluster : Fin 16) (w : VdpWrite) : Statement (.l2Disable cluster w) := rfl
theorem l2DrainDone (cluster : Fin 16) : Statement (.l2DrainDone cluster) := rfl
theorem prefetchEnable (cluster : Fin 16) (value : Bool) (w : VdpWrite) : Statement (.prefetchEnable cluster value w) := rfl
theorem pageRead (slot : Nat) : Statement (.pageRead slot) := rfl
theorem dictionaryPrepare (slot : Nat) : Statement (.dictionaryPrepare slot) := rfl
theorem scan (slot : Nat) : Statement (.scan slot) := rfl
theorem hashBuild (slot : Nat) : Statement (.hashBuild slot) := rfl
theorem hashProbe (slot : Nat) : Statement (.hashProbe slot) := rfl
theorem partition (slot : Nat) : Statement (.partition slot) := rfl
theorem hashGroup (slot : Nat) : Statement (.hashGroup slot) := rfl
theorem sort (slot : Nat) : Statement (.sort slot) := rfl
theorem merge (slot : Nat) : Statement (.merge slot) := rfl
theorem topN (slot : Nat) : Statement (.topN slot) := rfl
theorem groupSorted (slot : Nat) : Statement (.groupSorted slot) := rfl
theorem groupHash (slot : Nat) : Statement (.groupHash slot) := rfl
theorem inflate (slot : Nat) : Statement (.inflate slot) := rfl
theorem deflate (slot : DeflateTurn) : Statement (.deflate slot) := rfl
theorem kilnSelfTest (engine : Fin 4) (passed : Bool) : Statement (.kilnSelfTest engine passed) := rfl
theorem digest (slot : Nat) : Statement (.digest slot) := rfl
theorem lookup (slot : Nat) : Statement (.lookup slot) := rfl
theorem udoStage (slot : Nat) : Statement (.udoStage slot) := rfl
theorem exprStage (slot : Nat) : Statement (.exprStage slot) := rfl
theorem combine (slot : Nat) : Statement (.combine slot) := rfl
theorem exchSend (slot : Nat) : Statement (.exchSend slot) := rfl
theorem exchRecv (slot : Nat) : Statement (.exchRecv slot) := rfl
theorem source (slot : Nat) : Statement (.source slot) := rfl
theorem sinkDevice (slot : Nat) : Statement (.sinkDevice slot) := rfl
theorem sinkHost (slot : Nat) : Statement (.sinkHost slot) := rfl
theorem sinkRemote (slot : Nat) : Statement (.sinkRemote slot) := rfl
theorem descriptorFetch (slot : Nat) : Statement (.descriptorFetch slot) := rfl
theorem tunRequest (engine : Fin 4) (write : Bool) : Statement (.tunRequest engine write) := rfl
theorem descriptorWriteback (slot : Nat) : Statement (.descriptorWriteback slot) := rfl
theorem faultTimeout (slot : Nat) : Statement (.faultTimeout slot) := rfl
theorem memoryTimeout (slot : Nat) (address : Nat) (walkEntry : Nat) (store : Bool) : Statement (.memoryTimeout slot address walkEntry store) := rfl
theorem invalidate (value : List Byte) (w : VdpWrite) : Statement (.invalidate value w) := rfl
theorem invalidateDone : Statement (.invalidateDone) := rfl
theorem rootWrite (inst : Inst) (value : Nat) (w : VdpWrite) : Statement (.rootWrite inst value w) := rfl
theorem fqBase (inst : Inst) (value : Nat) (w : VdpWrite) : Statement (.fqBase inst value w) := rfl
theorem fqEntries (inst : Inst) (value : Nat) (w : VdpWrite) : Statement (.fqEntries inst value w) := rfl
theorem fqLocation (inst : Inst) (value : Nat) (w : VdpWrite) : Statement (.fqLocation inst value w) := rfl
theorem atsInvalidate (link : Link) (address : Nat) (length : Nat) : Statement (.atsInvalidate link address length) := rfl
theorem dramRequestIssue (channel : Fin 12) (lo hi : Ecc) : Statement (.dramRequestIssue channel lo hi) := rfl
theorem rhPenaltyEnd (channel : Fin 12) (port : Fin 16) : Statement (.rhPenaltyEnd channel port) := rfl
theorem rhSubwindow (channel : Fin 12) : Statement (.rhSubwindow channel) := rfl
theorem refresh (channel : Fin 12) : Statement (.refresh channel) := rfl
theorem channelTempPoll (channel : Fin 12) (readings : List (Option Nat)) : Statement (.channelTempPoll channel readings) := rfl
theorem scrubRead (channel : Fin 12) (ecc : Ecc) : Statement (.scrubRead channel ecc) := rfl
theorem scrubPeriod (channel : Fin 12) : Statement (.scrubPeriod channel) := rfl
theorem alertN (channel : Fin 12) (replays : Fin 4) (persists : Bool) : Statement (.alertN channel replays persists) := rfl
theorem pdIdle (channel : Fin 12) : Statement (.pdIdle channel) := rfl
theorem selfRefreshEntry (channel : Fin 12) : Statement (.selfRefreshEntry channel) := rfl
theorem cxlMemRead (link : Link) (hpa : Nat) : Statement (.cxlMemRead link hpa) := rfl
theorem cxlMemWrite (link : Link) (hpa : Nat) (data : List (Option Byte)) : Statement (.cxlMemWrite link hpa data) := rfl
theorem hdmCommit (link : Link) (n : Fin 8) (commit : Bool) (hpa size dpa ways gran place : Nat) : Statement (.hdmCommit link n commit hpa size dpa ways gran place) := rfl
theorem hostWindow (link : Link) (length : Bool) (value : Nat) (w : VdpWrite) : Statement (.hostWindow link length value w) := rfl
theorem flr (inst : Inst) : Statement (.flr inst) := rfl
theorem pf0Flr (link : Link) : Statement (.pf0Flr link) := rfl
theorem hotReset (link : Link) : Statement (.hotReset link) := rfl
theorem perstN (link : Link) (asserted : Bool) : Statement (.perstN link asserted) := rfl
theorem configurationRequest (link : Link) (function : IoRequest) : Statement (.configurationRequest link function) := rfl
theorem ideFailure (link : Link) (unanswered : List (Nat × Nat)) : Statement (.ideFailure link unanswered) := rfl
theorem getEventRecords (link : Link) (log : Nat) : Statement (.getEventRecords link log) := rfl
theorem clearEventRecords (link : Link) (log : Nat) (all : Bool) (handles : List Nat) : Statement (.clearEventRecords link log all handles) := rfl
theorem setTimestamp (link : Link) (ns : Nat) : Statement (.setTimestamp link ns) := rfl
theorem getTimestamp (link : Link) : Statement (.getTimestamp link) := rfl
theorem getSupportedLogs (link : Link) : Statement (.getSupportedLogs link) := rfl
theorem getLog (link : Link) (uuid : List Byte) (offset length : Nat) : Statement (.getLog link uuid offset length) := rfl
theorem identifyMemoryDevice (link : Link) : Statement (.identifyMemoryDevice link) := rfl
theorem getHealthInfo (link : Link) : Statement (.getHealthInfo link) := rfl
theorem vdpRequest (link : Link) (msg : List Byte) : Statement (.vdpRequest link msg) := rfl
theorem vdpCyclic (link : Link) : Statement (.vdpCyclic link) := rfl
theorem unsupportedMailbox (link : Link) (opcode : BitVec 16) : Statement (.unsupportedMailbox link opcode) := rfl
theorem create (inst : Inst) (w : VdpWrite) : Statement (.create inst w) := rfl
theorem destroy (inst : Inst) (w : VdpWrite) : Statement (.destroy inst w) := rfl
theorem restore (inst : Inst) (w : VdpWrite) : Statement (.restore inst w) := rfl
theorem resetWrite (inst : Inst) (w : VdpWrite) : Statement (.resetWrite inst w) := rfl
theorem freeze (inst : Inst) (w : VdpWrite) : Statement (.freeze inst w) := rfl
theorem resume (inst : Inst) (w : VdpWrite) : Statement (.resume inst w) := rfl
theorem resetComplete (inst : Inst) : Statement (.resetComplete inst) := rfl
theorem freezeTimeout (inst : Inst) : Statement (.freezeTimeout inst) := rfl
theorem rrHead (inst : Inst) (value : Nat) (w : VdpWrite) : Statement (.rrHead inst value w) := rfl
theorem spillPool (inst : Inst) (value : Nat) (w : VdpWrite) : Statement (.spillPool inst value w) := rfl
theorem spillBase (inst : Inst) (value : Nat) (w : VdpWrite) : Statement (.spillBase inst value w) := rfl
theorem rrBase (inst : Inst) (value : Nat) (w : VdpWrite) : Statement (.rrBase inst value w) := rfl
theorem rrEntries (inst : Inst) (value : Nat) (w : VdpWrite) : Statement (.rrEntries inst value w) := rfl
theorem linkWrite (inst : Inst) (value : Nat) (w : VdpWrite) : Statement (.linkWrite inst value w) := rfl
theorem logEnable (inst : Inst) (bitmap : Fin 2) (w : VdpWrite) : Statement (.logEnable inst bitmap w) := rfl
theorem logSwitch (inst : Inst) (bitmap : Fin 2) (w : VdpWrite) : Statement (.logSwitch inst bitmap w) := rfl
theorem logStop (inst : Inst) (w : VdpWrite) : Statement (.logStop inst w) := rfl
theorem logSwitchDone (inst : Inst) : Statement (.logSwitchDone inst) := rfl
theorem roceSend (a : Arrival) (payload : List Byte) : Statement (.roceSend a payload) := rfl
theorem rdmaWrite (a : Arrival) (key address : Nat) (data : List Byte) : Statement (.rdmaWrite a key address data) := rfl
theorem rdmaWriteImm (a : Arrival) (key address : Nat) (data : List Byte) (imm : BitVec 32) : Statement (.rdmaWriteImm a key address data imm) := rfl
theorem rdmaRead (p : Pkt) (key address length : Nat) : Statement (.rdmaRead p key address length) := rfl
theorem ackPacket (p : Pkt) : Statement (.ackPacket p) := rfl
theorem roceNak (p : Pkt) (code : NakCode) : Statement (.roceNak p code) := rfl
theorem cnp (p : Pkt) : Statement (.cnp p) := rfl
theorem otherFrame (port : Fin 4) (frame : Frame) : Statement (.otherFrame port frame) := rfl
theorem ackTimeout (qp : Nat) : Statement (.ackTimeout qp) := rfl
theorem rnrTimer (qp : Nat) : Statement (.rnrTimer qp) := rfl
theorem incPeriod (qp : Nat) : Statement (.incPeriod qp) := rfl
theorem fitnessWindow (plane : Fin 2) (a b : PortWindow) : Statement (.fitnessWindow plane a b) := rfl
theorem probe (plane : Fin 2) : Statement (.probe plane) := rfl
theorem probeTimeout (port : Fin 4) : Statement (.probeTimeout port) := rfl
theorem repairTime (plane : Fin 2) : Statement (.repairTime plane) := rfl
theorem rearm (qp : Nat) : Statement (.rearm qp) := rfl
theorem moveBack (plane : Fin 2) (value : Nat) (w : VdpWrite) : Statement (.moveBack plane value w) := rfl
theorem pathHold (qp : Nat) : Statement (.pathHold qp) := rfl
theorem openMsg (a : Arrival) (msg : List Byte) : Statement (.openMsg a msg) := rfl
theorem grantMsg (a : Arrival) (msg : List Byte) : Statement (.grantMsg a msg) := rfl
theorem endMsg (a : Arrival) (msg : List Byte) : Statement (.endMsg a msg) := rfl
theorem openRetry (slot peer : Nat) : Statement (.openRetry slot peer) := rfl
theorem openTimeout (slot peer : Nat) : Statement (.openTimeout slot peer) := rfl
theorem dataFlit (flit : Flit) : Statement (.dataFlit flit) := rfl
theorem idleFlit (crcOk : Bool) (ack : Nat) : Statement (.idleFlit crcOk ack) := rfl
theorem nakFlit (crcOk : Bool) (ack : Nat) : Statement (.nakFlit crcOk ack) := rfl
theorem heartbeat (hb : HeartBeat) : Statement (.heartbeat hb) := rfl
theorem heartbeatSend : Statement (.heartbeatSend) := rfl
theorem replayTimeout : Statement (.replayTimeout) := rfl
theorem trainAttempt (signal : Bool) : Statement (.trainAttempt signal) := rfl
theorem trainDone (lanes : BitVec 8) : Statement (.trainDone lanes) := rfl
theorem retrainDone (ok : Bool) : Statement (.retrainDone ok) := rfl
theorem twinLoss : Statement (.twinLoss) := rfl
theorem entryRecord : Statement (.entryRecord) := rfl
theorem postRecord : Statement (.postRecord) := rfl
theorem retireRecord : Statement (.retireRecord) := rfl
theorem queueRecord : Statement (.queueRecord) := rfl
theorem instanceRecord : Statement (.instanceRecord) := rfl
theorem floorRecord : Statement (.floorRecord) := rfl
theorem mirrorAck : Statement (.mirrorAck) := rfl
theorem claimMsg (msg : ClaimMsg) : Statement (.claimMsg msg) := rfl
theorem claimRepeat : Statement (.claimRepeat) := rfl
theorem claimWait : Statement (.claimWait) := rfl
theorem switchOverEnd : Statement (.switchOverEnd) := rfl
theorem linkWait : Statement (.linkWait) := rfl
theorem syncComplete : Statement (.syncComplete) := rfl
theorem orphanDelay : Statement (.orphanDelay) := rfl
theorem orphanNow (w : VdpWrite) : Statement (.orphanNow w) := rfl
theorem orphanCqHead (value : List Byte) (w : VdpWrite) : Statement (.orphanCqHead value w) := rfl
theorem pairPolicy (value : Nat) (w : VdpWrite) : Statement (.pairPolicy value w) := rfl
theorem vdpRead (src : VdpSrc) (msg : List Byte) : Statement (.vdpRead src msg) := rfl
theorem vdpWrite (src : VdpSrc) (msg : List Byte) : Statement (.vdpWrite src msg) := rfl
theorem segInit (src : VdpSrc) (msg : List Byte) : Statement (.segInit src msg) := rfl
theorem segData (src : VdpSrc) (msg : List Byte) : Statement (.segData src msg) := rfl
theorem segAbort (src : VdpSrc) (msg : List Byte) : Statement (.segAbort src msg) := rfl
theorem segTimeout (session : Nat) : Statement (.segTimeout session) := rfl
theorem discover (src : VdpSrc) (msg : List Byte) : Statement (.discover src msg) := rfl
theorem cyclic : Statement (.cyclic) := rfl
theorem resourceClaim (resource : Fin 18) (value : List Byte) (w : VdpWrite) : Statement (.resourceClaim resource value w) := rfl
theorem timerStart (timer : Fin 6) (w : VdpWrite) : Statement (.timerStart timer w) := rfl
theorem timerStop (timer : Fin 6) (w : VdpWrite) : Statement (.timerStop timer w) := rfl
theorem timerExpiry (timer : Fin 6) : Statement (.timerExpiry timer) := rfl
theorem watchdogExpiry : Statement (.watchdogExpiry) := rfl
theorem counterLogWrite : Statement (.counterLogWrite) := rfl
theorem ownerKey (value : List Byte) (vpp : Bool) (w : VdpWrite) : Statement (.ownerKey value vpp w) := rfl
theorem keyWrite (principal : Fin 16) (value : List Byte) (w : VdpWrite) : Statement (.keyWrite principal value w) := rfl
theorem rightsWrite (principal : Fin 16) (value : Nat) (w : VdpWrite) : Statement (.rightsWrite principal value w) := rfl
theorem imageUpdateDone : Statement (.imageUpdateDone) := rfl
theorem bootKeyDigest (value : List Byte) (vpp : Bool) (w : VdpWrite) : Statement (.bootKeyDigest value vpp w) := rfl
theorem glumeParityPass (errors : ParityPass) : Statement (.glumeParityPass errors) := rfl
theorem targetRun (w : VdpWrite) : Statement (.targetRun w) := rfl
theorem targetDrain (w : VdpWrite) : Statement (.targetDrain w) := rfl
theorem targetDormant (w : VdpWrite) : Statement (.targetDormant w) := rfl
theorem targetFreeze (w : VdpWrite) : Statement (.targetFreeze w) := rfl
theorem unitApplied (unit : Fin 8) : Statement (.unitApplied unit) := rfl
theorem modeDeadline : Statement (.modeDeadline) := rfl
theorem rollbackDone : Statement (.rollbackDone) := rfl
theorem zonePowerOff (zone : Fin 16) (w : VdpWrite) : Statement (.zonePowerOff zone w) := rfl
theorem zonePowerOn (zone : Fin 16) (w : VdpWrite) : Statement (.zonePowerOn zone w) := rfl
theorem zoneGated (zone : Fin 16) : Statement (.zoneGated zone) := rfl
theorem zoneWake (zone : Fin 16) : Statement (.zoneWake zone) := rfl
theorem holdEntry : Statement (.holdEntry) := rfl
theorem sensorPoll (temps : List (Option Int)) (package uncore : Nat) (zones : List Nat) (factor : Nat) : Statement (.sensorPoll temps package uncore zones factor) := rfl
theorem temperatureOutOfSpec (sensor : Bool) : Statement (.temperatureOutOfSpec sensor) := rfl
theorem supplyOutOfSpec : Statement (.supplyOutOfSpec) := rfl
theorem refclkLoss (clock : RefClk) : Statement (.refclkLoss clock) := rfl
theorem journalEccError : Statement (.journalEccError) := rfl
theorem firmwareFault : Statement (.firmwareFault) := rfl
theorem pwrgoodAssert (role : Fin 2) (plca : Fin 64) : Statement (.pwrgoodAssert role plca) := rfl
theorem pwrgoodDeassert : Statement (.pwrgoodDeassert) := rfl
theorem sysResetN (low : Bool) : Statement (.sysResetN low) := rfl
theorem deviceReset (value : Nat) (w : VdpWrite) : Statement (.deviceReset value w) := rfl
theorem fuseLoadDone (fuses : Option Fuses) (errors : List FuseError) (kept : Bool) : Statement (.fuseLoadDone fuses errors kept) := rfl
theorem copyChosen (board : Option (FlashCopy × FlashCopy)) (octal : Bool) : Statement (.copyChosen board octal) := rfl
theorem dramBringup (spd : List Spd) (bad : BitVec 12) : Statement (.dramBringup spd bad) := rfl
theorem loadEnd : Statement (.loadEnd) := rfl
theorem runEntry : Statement (.runEntry) := rfl
theorem logClear (value : Nat) (w : VdpWrite) : Statement (.logClear value w) := rfl
theorem portTrainingDone (port : Fin 4) (up : Bool) : Statement (.portTrainingDone port up) := rfl
theorem cxlLinkTrained (link : Link) (fast : Bool) : Statement (.cxlLinkTrained link fast) := rfl
theorem unitReportsClear (slot : Nat) : Statement (.unitReportsClear slot) := rfl
theorem coreRestart (core : CoreId) : Statement (.coreRestart core) := rfl
theorem tapInstruction (ir : TapIr) : Statement (.tapInstruction ir) := rfl
theorem managementFrame (frame : MgmtFrame) : Statement (.managementFrame frame) := rfl
theorem plcaBeacon (seen : PlcaTurn) : Statement (.plcaBeacon seen) := rfl

end Sys2Proof.Laws.OwnRow
end

