-- ==== Sys2Proof/Laws/Tasks.lean ====
section
/-! SUPPORT. What a change of one task or one job does to the tables of tasks and jobs (R242, R250, R251). -/

namespace Sys2Proof.Machine

theorem tfind_map_self {α : Type} (t : Tbl α) (k : Nat) (f : α → α) :
    tfind (t.map fun (i, x) => if i = k then (i, f x) else (i, x)) k = (tfind t k).map f := by
  induction t with
  | nil => rfl
  | cons e t ih =>
    obtain ⟨i, x⟩ := e
    by_cases h : i = k
    · simp [tfind, h]
    · simpa [tfind, h] using ih

theorem tfind_map_ne {α : Type} (t : Tbl α) (k m : Nat) (f : α → α) (h : m ≠ k) :
    tfind (t.map fun (i, x) => if i = k then (i, f x) else (i, x)) m = tfind t m := by
  induction t with
  | nil => rfl
  | cons e t ih =>
    obtain ⟨i, x⟩ := e
    by_cases hk : i = k
    · have : i ≠ m := by rintro rfl; exact h hk
      subst hk
      simpa [tfind, this] using ih
    · by_cases hm : i = m
      · simp [tfind, hm, h]
      · simpa [tfind, hm, hk] using ih

theorem taskAt_of_tasks {s u : State} (h : u.js.tasks = s.js.tasks) (k : Nat) : taskAt u k = taskAt s k := by
  unfold taskAt; rw [h]

@[simp] theorem taskAt_taskMod_self (k : Nat) (f : Task → Task) (s : State) : taskAt (taskMod k f s) k = (taskAt s k).map f :=
  tfind_map_self _ _ _

theorem taskAt_taskMod_ne (k m : Nat) (f : Task → Task) (s : State) (h : m ≠ k) : taskAt (taskMod k f s) m = taskAt s m :=
  tfind_map_ne _ _ _ _ h

@[simp] theorem taskAt_odSet (i j v : Nat) (s : State) (k : Nat) : taskAt (odSet i j v s) k = taskAt s k := rfl
@[simp] theorem taskAt_odAdd (i j v : Nat) (s : State) (k : Nat) : taskAt (odAdd i j v s) k = taskAt s k := rfl
@[simp] theorem taskAt_odBump (i j : Nat) (s : State) (k : Nat) : taskAt (odBump i j s) k = taskAt s k := rfl
@[simp] theorem taskAt_emit (m : OutMsg) (s : State) (k : Nat) : taskAt (emit m s) k = taskAt s k := rfl
@[simp] theorem taskAt_jobMod (j : Nat) (f : Job → Job) (s : State) (k : Nat) : taskAt (jobMod j f s) k = taskAt s k := rfl

theorem leaveRunning_tasks (t : Task) (s : State) : (leaveRunning t s).js.tasks = s.js.tasks := by
  unfold leaveRunning; split <;> rfl

theorem leaveRunning_jobs (t : Task) (s : State) : (leaveRunning t s).js.jobs = s.js.jobs := by
  unfold leaveRunning; split <;> rfl

/-- An event noted for a core changes nothing of the tasks and jobs. -/
@[simp] theorem noteEvent_js (t : Task) (fl : BitVec 32) (s : State) : (noteEvent t fl s).js = s.js := by
  unfold noteEvent; split <;> rfl

@[simp] theorem noteEvent_time (t : Task) (fl : BitVec 32) (s : State) : (noteEvent t fl s).time = s.time := by
  unfold noteEvent; split <;> rfl

@[simp] theorem taskAt_noteEvent (t : Task) (fl : BitVec 32) (s : State) (k : Nat) : taskAt (noteEvent t fl s) k = taskAt s k := by
  unfold taskAt; rw [noteEvent_js]

theorem leaveReady_js (t : Task) (s : State) : (leaveReady t s).js = s.js := by
  unfold leaveReady odMax32
  split <;> rfl

@[simp] theorem taskAt_leaveRunning (t : Task) (s : State) (k : Nat) : taskAt (leaveRunning t s) k = taskAt s k := by
  unfold taskAt; rw [leaveRunning_tasks]

@[simp] theorem taskAt_leaveReady (t : Task) (s : State) (k : Nat) : taskAt (leaveReady t s) k = taskAt s k := by
  unfold taskAt; rw [leaveReady_js]

theorem wakeTask_tasks (k : Nat) (s : State) :
    (wakeTask k s).js.tasks = (taskMod k (fun t => { t with
      run := .ready, readySeq := s.js.readySeq, wakeAt := none, waitMask := 0, readyAt := s.time, pass := 0
      urgent := false }) s).js.tasks := rfl

theorem taskAt_wakeTask (k : Nat) (s : State) :
    taskAt (wakeTask k s) k = (taskAt s k).map fun t => { t with
      run := .ready, readySeq := s.js.readySeq, wakeAt := none, waitMask := 0, readyAt := s.time, pass := 0, urgent := false } := by
  rw [taskAt_of_tasks (wakeTask_tasks k s), taskAt_taskMod_self]

theorem taskAt_wakeTask_ne (k m : Nat) (s : State) (h : m ≠ k) : taskAt (wakeTask k s) m = taskAt s m := by
  rw [taskAt_of_tasks (wakeTask_tasks k s), taskAt_taskMod_ne _ _ _ _ h]

/-- Setting flags on a task changes no other task. -/
theorem taskAt_setFlags_ne (k m : Nat) (fl : BitVec 32) (s : State) (h : m ≠ k) : taskAt (setFlags k fl s) m = taskAt s m := by
  unfold setFlags
  cases hk : taskAt s k with
  | none => rfl
  | some t =>
    dsimp only
    split
    · rw [taskAt_wakeTask_ne _ _ _ h, taskAt_taskMod_ne _ _ _ _ h, taskAt_noteEvent]
    · rw [taskAt_taskMod_ne _ _ _ _ h, taskAt_noteEvent]

/-- The task on which flags are set, if no wait of it is satisfied. -/
theorem taskAt_setFlags_plain (k : Nat) (fl : BitVec 32) (s : State) (t : Task) (h : taskAt s k = some t)
    (hw : t.run ≠ .waiting ∨ waitMet (t.flags ||| fl) t.waitMask t.waitAll = false) :
    taskAt (setFlags k fl s) k = some { t with flags := t.flags ||| fl } := by
  unfold setFlags
  rw [h]
  dsimp only
  have : (decide (t.run = .waiting) && waitMet (t.flags ||| fl) t.waitMask t.waitAll) = false := by
    rcases hw with hw | hw
    · simp [hw]
    · simp [hw]
  rw [this]
  simp only [Bool.false_eq_true, if_false, taskAt_taskMod_self, taskAt_noteEvent, h, Option.map_some]

/-- The task whose wait the flags satisfy: READY, with the flags that satisfied it cleared (R251). -/
theorem taskAt_setFlags_met (k : Nat) (fl : BitVec 32) (s : State) (t : Task) (h : taskAt s k = some t) (hr : t.run = .waiting)
    (hw : waitMet (t.flags ||| fl) t.waitMask t.waitAll = true) :
    taskAt (setFlags k fl s) k = some { t with
      flags := (t.flags ||| fl) &&& ~~~ t.waitMask, run := .ready, readySeq := s.js.readySeq, wakeAt := none, waitMask := 0
      readyAt := s.time, pass := 0, urgent := false } := by
  unfold setFlags
  rw [h]
  dsimp only
  rw [hw, hr]
  simp only [decide_true, Bool.and_self, if_true, taskAt_wakeTask, taskAt_taskMod_self, taskAt_noteEvent, h, Option.map_some,
    taskMod_js, taskMod_time, noteEvent_js, noteEvent_time]

theorem jobOf_of_jobs {s u : State} (h : u.js.jobs = s.js.jobs) (k : Nat) : jobOf u k = jobOf s k := by
  unfold jobOf; rw [h]

theorem jobOf_jobMod_at (k : Nat) (f : Job → Job) (s : State) (hf : ∀ j, j.jid = k → (f j).jid = k) :
    jobOf (jobMod k f s) k = (jobOf s k).map f := by
  unfold jobOf jobMod
  dsimp only
  induction s.js.jobs with
  | nil => rfl
  | cons a l ih =>
    by_cases ha : a.jid = k
    · simp [ha, hf]
    · simpa [ha] using ih

theorem jobOf_jobMod_self (k : Nat) (f : Job → Job) (s : State) (hf : ∀ j, (f j).jid = j.jid) :
    jobOf (jobMod k f s) k = (jobOf s k).map f :=
  jobOf_jobMod_at k f s fun j h => (hf j).trans h

theorem jobOf_jobMod_ne (k m : Nat) (f : Job → Job) (s : State) (hf : ∀ j, (f j).jid = j.jid) (h : m ≠ k) :
    jobOf (jobMod k f s) m = jobOf s m := by
  unfold jobOf jobMod
  dsimp only
  induction s.js.jobs with
  | nil => rfl
  | cons a l ih =>
    by_cases ha : a.jid = k
    · have : ¬ k = m := fun e => h e.symm
      simpa [ha, hf, this] using ih
    · by_cases hm : a.jid = m
      · simp [hm, h]
      · simpa [ha, hm] using ih

/-- Flags set on a task leave its ports, its unit and its engine as they are. -/
theorem taskAt_setFlags (k : Nat) (fl : BitVec 32) (s : State) (t : Task) (h : taskAt s k = some t) :
    ∃ t', taskAt (setFlags k fl s) k = some t' ∧ t'.ins = t.ins ∧ t'.outs = t.outs ∧ t'.eng = t.eng ∧ t'.jid = t.jid ∧
      t'.unit = t.unit ∧ t'.inst = t.inst ∧ t'.stage = t.stage ∧ t'.phase = t.phase ∧ t'.finished = t.finished ∧
      (t.run ≠ .waiting → t'.run = t.run ∧ t'.flags = t.flags ||| fl) := by
  by_cases hw : t.run ≠ .waiting ∨ waitMet (t.flags ||| fl) t.waitMask t.waitAll = false
  · exact ⟨_, taskAt_setFlags_plain k fl s t h hw, rfl, rfl, rfl, rfl, rfl, rfl, rfl, rfl, rfl, fun _ => ⟨rfl, rfl⟩⟩
  · obtain ⟨h1, h2⟩ := not_or.mp hw
    have h1 : t.run = .waiting := by by_cases e : t.run = .waiting <;> [exact e; exact absurd e h1]
    have h2 : waitMet (t.flags ||| fl) t.waitMask t.waitAll = true := by
      cases e : waitMet (t.flags ||| fl) t.waitMask t.waitAll <;> [exact absurd e h2; rfl]
    exact ⟨_, taskAt_setFlags_met k fl s t h h1 h2, rfl, rfl, rfl, rfl, rfl, rfl, rfl, rfl, rfl, fun e => absurd h1 e⟩

theorem tfind_entry {α : Type} {t : Tbl α} {k : Nat} {v : α} (h : tfind t k = some v) : (k, v) ∈ t := by
  induction t with
  | nil => cases h
  | cons e t ih =>
    obtain ⟨i, x⟩ := e
    unfold tfind at h
    split at h
    · rename_i he; cases h; rw [he]; exact List.mem_cons_self ..
    · exact List.mem_cons_of_mem _ (ih h)

@[simp] theorem setUnitState_js (u v : Nat) (s : State) : (setUnitState u v s).js = s.js := by
  unfold setUnitState
  split <;> rfl

@[simp] theorem unitCount_js (u sub n : Nat) (s : State) : (unitCount u sub n s).js = s.js := by
  unfold unitCount
  split <;> rfl

@[simp] theorem haltChannel_js (t : Task) (c : Bool) (s : State) : (haltChannel t c s).js = s.js := by
  unfold haltChannel
  split <;> rfl

@[simp] theorem countStall_js (t : Task) (s : State) : (countStall t s).js = s.js := by
  unfold countStall
  split
  · exact unitCount_js _ _ _ _
  · rfl

@[simp] theorem clearGroups_js (t : Task) (s : State) : (clearGroups t s).js = s.js := by
  unfold clearGroups
  generalize heldGroups s t = l
  induction l generalizing s with
  | nil => rfl
  | cons u l ih => rw [List.foldl_cons, ih, setUnitState_js]

theorem stopTask_jobs (k : Nat) (c : Bool) (s : State) : (stopTask k c s).js.jobs = s.js.jobs := by
  unfold stopTask
  split
  · rfl
  · simp only [taskMod_js, haltChannel_js, clearGroups_js, countStall_js, leaveReady_js, leaveRunning_jobs]

theorem taskAt_stopUnits (t : Task) (c : Bool) (s : State) (k : Nat) :
    taskAt (haltChannel t c (clearGroups t (countStall t s))) k = taskAt s k := by
  unfold taskAt
  simp only [haltChannel_js, clearGroups_js, countStall_js]

theorem taskAt_stopTask_self (k : Nat) (c : Bool) (s : State) (t : Task) (h : taskAt s k = some t) :
    taskAt (stopTask k c s) k = some { t with
      run := .freePending, flags := if c then t.flags ||| flagCancel else t.flags, wakeAt := none, waitMask := 0
      stopping := false, parked := none, urgent := false, pass := 0
      eng := { t.eng with sv := { t.eng.sv with stall := none } } } := by
  unfold stopTask
  rw [h]
  dsimp only
  rw [taskAt_taskMod_self, taskAt_stopUnits, taskAt_leaveReady, taskAt_leaveRunning, h]
  rfl

theorem taskAt_stopTask_ne (k m : Nat) (c : Bool) (s : State) (h : m ≠ k) : taskAt (stopTask k c s) m = taskAt s m := by
  unfold stopTask
  split
  · rfl
  · rw [taskAt_taskMod_ne _ _ _ _ h, taskAt_stopUnits, taskAt_leaveReady, taskAt_leaveRunning]

/-- A slot holds a task of a job that is being released, with CANCEL set. -/
def Dropped (s : State) (k : Nat) : Prop :=
  ∃ t, taskAt s k = some t ∧ t.run = .freePending ∧ t.flags &&& flagCancel = flagCancel

theorem or_cancel (x y : BitVec 32) (h : x &&& flagCancel = flagCancel) : (x ||| y) &&& flagCancel = flagCancel := by
  apply BitVec.eq_of_getLsbD_eq
  intro i _
  have := congrArg (fun z => z.getLsbD i) h
  simp only [BitVec.getLsbD_and] at this
  simp only [BitVec.getLsbD_and, BitVec.getLsbD_or]
  cases hf : flagCancel.getLsbD i <;> simp_all

theorem stop_dropped (k m : Nat) (s : State) (h : Dropped s m) : Dropped (stopTask k true s) m := by
  obtain ⟨t, h1, h2, h3⟩ := h
  by_cases e : m = k
  · subst e
    exact ⟨_, taskAt_stopTask_self m true s t h1, rfl, or_cancel _ _ h3⟩
  · exact ⟨t, by rw [taskAt_stopTask_ne _ _ _ _ e]; exact h1, h2, h3⟩

theorem flags_dropped (k m : Nat) (fl : BitVec 32) (s : State) (h : Dropped s m) : Dropped (setFlags k fl s) m := by
  obtain ⟨t, h1, h2, h3⟩ := h
  by_cases e : m = k
  · subst e
    exact ⟨_, taskAt_setFlags_plain m fl s t h1 (.inl (by rw [h2]; simp)), h2, or_cancel _ _ h3⟩
  · exact ⟨t, by rw [taskAt_setFlags_ne _ _ _ _ e]; exact h1, h2, h3⟩

theorem setFlags_jobs (k : Nat) (fl : BitVec 32) (s : State) : (setFlags k fl s).js.jobs = s.js.jobs := by
  unfold setFlags
  split
  · rfl
  · dsimp only
    split
    · show (noteEvent _ fl s).js.jobs = _
      rw [noteEvent_js]
    · show (noteEvent _ fl s).js.jobs = _
      rw [noteEvent_js]

/-- A property that neither setting flags nor a count of LATE ends holds once flags have arrived. -/
theorem flagsArrive_holds {P : State → Prop} (k : Nat) (t : Task) (fl : BitVec 32)
    (hP : ∀ fl x, P x → P (setFlags k fl x)) (hL : ∀ u x, P x → P (odBump u 6 x)) (s : State) (h : P s) :
    P (flagsArrive k t fl s) := by
  unfold flagsArrive
  split
  · split
    · exact hP _ _ (hL _ _ h)
    · exact hP _ _ h
  · exact hP _ _ h

theorem setFlagsWhere_holds {P : State → Prop} (p : Task → Bool) (fl : BitVec 32)
    (hP : ∀ k fl x, P x → P (setFlags k fl x)) (hL : ∀ u x, P x → P (odBump u 6 x)) (s : State) (h : P s) :
    P (setFlagsWhere p fl s) := by
  unfold setFlagsWhere
  have : ∀ (l : List (Nat × Task)) (x : State), P x →
      P (l.foldl (fun s (e : Nat × Task) => if p e.2 then flagsArrive e.1 e.2 fl s else s) x) := by
    intro l
    induction l with
    | nil => intro x hx; exact hx
    | cons a l ih =>
      intro x hx
      exact ih _ (by dsimp only; split <;> [exact flagsArrive_holds _ _ _ (hP a.1) hL _ hx; exact hx])
  exact this s.js.tasks s h

theorem setFlagsWhere_jobs (p : Task → Bool) (fl : BitVec 32) (s : State) : (setFlagsWhere p fl s).js.jobs = s.js.jobs :=
  setFlagsWhere_holds (P := fun x => x.js.jobs = s.js.jobs) p fl (fun k fl x hx => (setFlags_jobs k fl x).trans hx)
    (fun _ _ hx => hx) s rfl

theorem jobOf_releaseSpill (jid : Nat) (s : State) (j : Job) (h : jobOf s jid = some j) :
    jobOf (releaseSpill jid s) jid = some { j with spill := 0 } := by
  unfold releaseSpill
  rw [h]
  dsimp only
  split
  · rename_i h0
    rw [h, ← h0]
  · rw [jobOf_of_jobs (setFlagsWhere_jobs _ _ _), jobOf_jobMod_self _ _ _ (by intro j; rfl)]
    have e : ∀ v, jobOf (odSet (instIdx j.inst) 11 v s) jid = jobOf s jid := fun v => rfl
    rw [e, h]
    rfl

/-- Where the task slots are as before, a slot that was dropped still is. -/
theorem dropped_of_tasks {s t : State} (k : Nat) (e : t.js.tasks = s.js.tasks) (h : Dropped s k) : Dropped t k := by
  obtain ⟨x, hx, hr⟩ := h
  exact ⟨x, by unfold taskAt at hx ⊢; rw [e]; exact hx, hr⟩

theorem closeZones_js (jid status : Nat) (s : State) : (closeZones jid status s).js = s.js := rfl

theorem dropFaults_tasks (j : Job) (s : State) : (dropFaults j s).js.tasks = s.js.tasks := rfl

theorem dropFaults_jobs (j : Job) (s : State) : (dropFaults j s).js.jobs = s.js.jobs := rfl

theorem jobMod_tasks (jid : Nat) (f : Job → Job) (s : State) : (jobMod jid f s).js.tasks = s.js.tasks := rfl

/-- A job fails (R479): it ends with the status and record given, and each of its tasks is being released, with CANCEL set. -/
theorem failJob_fails (jid status : Nat) (er : ErrRec) (s : State) (j : Job) (h : jobOf s jid = some j) (he : j.ended = none) :
    jobOf (failJob jid status er s) jid = some { j with
      spill := 0, ended := some ⟨status, { er with planId := jobPlanId j }⟩ } ∧
    ∀ k t, taskAt s k = some t → t.jid = jid → Dropped (failJob jid status er s) k := by
  unfold failJob
  rw [h]
  dsimp only
  rw [he]
  dsimp only
  have hs : ∀ (l : List Nat) (x : State), (l.foldl (fun s k => stopTask k true s) x).js.jobs = x.js.jobs := by
    intro l
    induction l with
    | nil => intro x; rfl
    | cons a l ih => intro x; rw [List.foldl_cons, ih, stopTask_jobs]
  refine ⟨?_, ?_⟩
  · rw [jobOf_jobMod_self _ _ _ (by intro j; rfl), jobOf_of_jobs (s := releaseSpill _ _) (by rw [dropFaults_jobs, closeZones_js]),
      jobOf_releaseSpill _ _ j (by rw [jobOf_of_jobs (hs _ _), h])]
    rfl
  · intro k t ht hj
    have hd : ∀ (l : List Nat) (x : State), Dropped x k → Dropped (l.foldl (fun s k => stopTask k true s) x) k := by
      intro l
      induction l with
      | nil => intro x hx; exact hx
      | cons a l ih => intro x hx; exact ih _ (stop_dropped a k x hx)
    have hk : k ∈ slotsWhere s (fun t => t.jid = jid) := by
      unfold slotsWhere
      rw [List.mem_map]
      exact ⟨(k, t), List.mem_filter.mpr ⟨tfind_entry ht, by simp [hj]⟩, rfl⟩
    have hf : ∀ (l : List Nat) (x : State), k ∈ l → (∃ t, taskAt x k = some t) → Dropped (l.foldl (fun s k => stopTask k true s) x) k := by
      intro l
      induction l with
      | nil => intro x hx; cases hx
      | cons a l ih =>
        intro x hx ⟨t, ht⟩
        rw [List.foldl_cons]
        by_cases e : k = a
        · subst e
          apply hd
          refine ⟨_, taskAt_stopTask_self k true x t ht, rfl, ?_⟩
          show (t.flags ||| flagCancel) &&& flagCancel = flagCancel
          ext i hi
          simp only [BitVec.getElem_and, BitVec.getElem_or]
          cases flagCancel[i] <;> simp
        · rcases List.mem_cons.mp hx with h | h
          · exact absurd h e
          · exact ih _ h ⟨t, by rw [taskAt_stopTask_ne _ _ _ _ e]; exact ht⟩
    have h1 := hf _ s hk ⟨t, ht⟩
    have h2 : Dropped (releaseSpill jid ((slotsWhere s fun t => t.jid = jid).foldl (fun s k => stopTask k true s) s)) k := by
      unfold releaseSpill
      split
      · exact h1
      · split
        · exact h1
        · exact setFlagsWhere_holds (P := fun x => Dropped x k) _ _ (fun m fl x hx => flags_dropped m k fl x hx) (fun _ _ hx => hx) _ h1
    refine dropped_of_tasks k ?_ h2
    rw [jobMod_tasks, dropFaults_tasks, closeZones_js]

/-- An entry from task code to the runtime, with EXL clear, is a change of the core alone, counted in TRAPS and, for an imprecise
one, in IMPRECISE_TRAPS (R185, R186, R198). -/
theorem enter_from_t (c : CoreId) (vec sub : Nat) (val ret : Word) (imp : Bool) (s : State) (hl : coreLevel s c = .t)
    (hx : exlOf (core s c).sstat = false) (hv : vec ≠ 2 ∧ vec ≠ 17) :
    enter c vec sub val ret imp s = countEntry c imp (coreMod c (fun k => { k with
      sepc := ret, sstat := entryStat k.sstat Level.t.code vec sub (nestOf (core s c).sstat) imp, sval := val
      pc := slotAddr 0xFFFFF000 vec, pstat := setLevel k.pstat .s, resv := none }) s) := by
  unfold enter
  dsimp only
  rw [hl]
  unfold entryS
  dsimp only
  rw [hx]
  simp only [hv.1, hv.2, decide_false, reduceCtorEq, Bool.or_self, Bool.false_eq_true, if_false, pushLost]

end Sys2Proof.Machine
end

