-- ==== Sys2Proof/WellFormed.lean ====
section
/-! DEFINITION. Which commands are well formed: every operand within the width the spec gives it. -/

namespace Sys2Proof

/-- A CXL.io request that a function can carry (Tables 14-1 to 14-3). -/
def IoAccess.ok : IoAccess → Bool
  | .cfgRead _ | .vectorRead _ | .pendingRead _ | .keyGo | .keyStop => true
  | .cfgWrite .vfEnable v => v ≤ 4095
  | .cfgWrite .atsEnable v => v ≤ 1
  | .cfgWrite .msixControl v => v ≤ 3
  | .cfgWrite .maxPayload v => [128, 256, 512, 1024, 2048, 4096].contains v
  | .pageRead offset => offset < 4096 && offset % 8 = 0
  | .vectorWrite _ address data _ => address < 2 ^ 64 && data < 2 ^ 32
  | .keyProgram key => key.length = 32

/-- A doorbell write of a number that its size holds (R299). A size of 12 stands for 4 bytes written at the register's upper half,
and a size that is none of 4, 8 and 12 for any write that R299
discards: one that is misaligned or at an offset with no register. -/
def doorbellOk (size value : Nat) : Bool := if size = 12 then value < 2 ^ 32 else value < 256 ^ size

/-- A VDP source: an IPv6 address of 16 bytes and a UDP port, or a mailbox (R429, R439). -/
def VdpSrc.ok : VdpSrc → Bool
  | .field addr port => addr.length = 16 && port < 65536
  | .mailbox _ => true

/-- The parts of a WRITE request in their widths (R431). -/
def VdpWrite.ok (w : VdpWrite) : Bool :=
  w.src.ok && w.txn < 2 ^ 32 && w.principal < 256 && w.counter < 2 ^ 64 && (w.tag = [] || w.tag.length = 16)

/-- A mirror record's numbers in their widths (Tables 20-6, 20-7). -/
def MRec.ok : MRec → Bool
  | .entry b => b.length = 64
  | .post b => b.length = 64
  | .retire inst sq asn => inst < 4096 && sq < 16 && asn < 2 ^ 64
  | .queueDef inst _ q _ => inst < 4096 && q < 16
  | .queuePos inst _ q _ => inst < 4096 && q < 16
  | .instAttrs inst _ => inst < 4096
  | .floorCounter principal counter _ => principal < 16 && counter < 2 ^ 64
  | .floorEpoch epoch _ => epoch < 2 ^ 32
  | .ack highest => highest < 2 ^ 64

/-- A DATA flit (Tables 20-2, 20-3). -/
def Flit.ok (f : Flit) : Bool := f.seq < 4096 && f.ack < 4096 && f.recs.all fun m => m.num < 2 ^ 64 && m.body.ok

/-- A HEARTBEAT flit (Table 20-4). -/
def HeartBeat.ok (h : HeartBeat) : Bool :=
  h.ack < 4096 && h.serial < 2 ^ 64 && h.pairId < 2 ^ 64 && h.epoch < 2 ^ 32 && h.side < 2 && h.role < 2 &&
    h.pairState < 5 && h.mode < 8 && h.hbSeq < 2 ^ 32

/-- A claim (R438). -/
def ClaimMsg.ok (m : ClaimMsg) : Bool := m.epoch < 2 ^ 32 && m.side < 2 && m.serial < 2 ^ 64 && m.pairId < 2 ^ 64

/-- A RoCEv2 message's numbers in their widths (R143). -/
def Pkt.ok (p : Pkt) : Bool := p.dst < 2 ^ 128 && p.qpn < 2 ^ 24 && p.psn < 2 ^ 24

/-- How a message arrives. -/
def Arrival.ok : Arrival → Bool
  | .wire p => p.ok
  | .fabric => true

/-- An RNR NAK carries a delay in µs (Table 07-13). -/
def NakCode.ok : NakCode → Bool
  | .rnr delay => delay < 65536
  | .sequence => true
  | .invalidRequest => true
  | .remoteAccess => true

/-- A datagram's port has 16 bits. -/
def MgmtFrame.ok : MgmtFrame → Bool
  | .datagram _ port _ => port < 65536
  | .neighbour _ => true
  | .echo _ _ => true
  | .other => true

/-- Fuse fields in their widths (Table 23-2). -/
def Fuses.ok (f : Fuses) : Bool :=
  f.serial < 2 ^ 64 && f.mac.length = 6 && f.units < 2 ^ 190 && f.digest.length = 48 && f.ownerKey.length = 32

/-- A copy's commit marker is 16 bytes, or none (R467). -/
def FlashCopy.ok (c : FlashCopy) : Bool := c.marker = [] || c.marker.length = 16

/-- A well-formed command. -/
def Instr.wf : Instr → Bool
  | .sqTailWrite _ _ _ size value stored => doorbellOk size value && (stored.all fun e => e.1 + e.2.length ≤ 2 ^ 64)
  | .cqHeadWrite _ _ _ size value => doorbellOk size value
  | .faultHeadWrite _ _ size value => doorbellOk size value
  | .faultRetry _ _ size value => doorbellOk size value
  | .faultFail _ _ size value => doorbellOk size value
  | .createCq _ _ cmd => cmd.block.length = 64
  | .createSq _ _ cmd => cmd.block.length = 64
  | .deleteSq _ _ cmd => cmd.block.length = 64
  | .deleteCq _ _ cmd => cmd.block.length = 64
  | .createQp _ _ cmd => cmd.block.length = 64
  | .connectQp _ _ cmd => cmd.block.length = 64
  | .destroyQp _ _ cmd => cmd.block.length = 64
  | .registerRegion _ _ cmd => cmd.block.length = 64
  | .deregisterRegion _ _ cmd => cmd.block.length = 64
  | .query _ _ cmd => cmd.block.length = 64
  | .nop _ _ => true
  | .plan _ _ => true
  | .cancel _ _ => true
  | .spillReservation _ _ => true
  | .sqHeadWriteback _ _ => true
  | .placePhase => true
  | .placeUrgent => true
  | .streamTransfer slot port => slot < 65536 && port < 4
  | .endOfStream slot port => slot < 65536 && port < 4
  | .stageFinish slot => slot < 65536
  | .completionPost _ _ => true
  | .coalesceTimeout _ _ => true
  | .deadline _ _ asn => asn < 2 ^ 64
  | .tick _ => true
  | .budgetUrgent slot => slot < 65536
  | .zoneDispatch _ => true
  | .taskStopped slot => slot < 65536
  | .wait slot _ _ n => slot < 65536 && n ≤ 16777216
  | .signal sender slot _ => sender.all (· < 65536) && slot < 65536
  | .delay slot n => slot < 65536 && 1 ≤ n && n ≤ 16777216
  | .clear slot _ => slot < 65536
  | .waitTimeout slot => slot < 65536
  | .delayExpiry slot => slot < 65536
  | .avsResponse _ => true
  | .interruptTaken _ => true
  | .impreciseArithmetic _ => true
  | .illegalInstruction _ _ => true
  | .aluAdd _ _ _ _ => true
  | .aluSub _ _ _ _ => true
  | .aluAnd _ _ _ _ => true
  | .aluOr _ _ _ _ => true
  | .aluXor _ _ _ _ => true
  | .aluSll _ _ _ _ => true
  | .aluSrl _ _ _ _ => true
  | .aluSra _ _ _ _ => true
  | .aluSlt _ _ _ _ => true
  | .aluSltu _ _ _ _ => true
  | .aluMin _ _ _ _ => true
  | .aluMax _ _ _ _ => true
  | .aluMinu _ _ _ _ => true
  | .aluMaxu _ _ _ _ => true
  | .aluRotl _ _ _ _ => true
  | .aluClz _ _ _ => true
  | .aluwAdd _ _ _ _ => true
  | .aluwSub _ _ _ _ => true
  | .aluwAnd _ _ _ _ => true
  | .aluwOr _ _ _ _ => true
  | .aluwXor _ _ _ _ => true
  | .aluwSll _ _ _ _ => true
  | .aluwSrl _ _ _ _ => true
  | .aluwSra _ _ _ _ => true
  | .aluwSlt _ _ _ _ => true
  | .aluwSltu _ _ _ _ => true
  | .aluwMin _ _ _ _ => true
  | .aluwMax _ _ _ _ => true
  | .aluwMinu _ _ _ _ => true
  | .aluwMaxu _ _ _ _ => true
  | .aluwRotl _ _ _ _ => true
  | .aluwClz _ _ _ => true
  | .mul _ _ _ _ => true
  | .mulh _ _ _ _ => true
  | .mulhu _ _ _ _ => true
  | .div _ _ _ _ => true
  | .divu _ _ _ _ => true
  | .rem _ _ _ _ => true
  | .remu _ _ _ _ => true
  | .chkAdd _ _ _ _ => true
  | .chkSub _ _ _ _ => true
  | .chkMul _ _ _ _ => true
  | .fadd _ _ _ _ _ _ => true
  | .fsub _ _ _ _ _ _ => true
  | .fmul _ _ _ _ _ _ => true
  | .fdiv _ _ _ _ _ _ => true
  | .fsqrt _ _ _ _ _ => true
  | .fmin _ _ _ _ _ _ => true
  | .fmax _ _ _ _ _ _ => true
  | .fmac _ _ _ _ _ _ => true
  | .lrx _ _ _ => true
  | .scx _ _ _ _ => true
  | .ftoi _ _ _ _ _ => true
  | .ftou _ _ _ _ _ => true
  | .itof _ _ _ _ _ => true
  | .utof _ _ _ _ _ => true
  | .ftof _ _ _ _ _ => true
  | .fint _ _ _ _ _ => true
  | .fbits _ _ _ => true
  | .gbits _ _ _ => true
  | .feq _ _ _ _ _ => true
  | .flt _ _ _ _ _ => true
  | .fle _ _ _ _ _ => true
  | .fltq _ _ _ _ _ => true
  | .fleq _ _ _ _ _ => true
  | .funord _ _ _ _ _ => true
  | .fclass _ _ _ _ => true
  | .addi _ _ _ _ => true
  | .andi _ _ _ _ => true
  | .ori _ _ _ _ => true
  | .xori _ _ _ _ => true
  | .lui _ _ _ => true
  | .slti _ _ _ _ => true
  | .slli _ _ _ _ _ => true
  | .srli _ _ _ _ _ => true
  | .srai _ _ _ _ _ => true
  | .rotli _ _ _ _ _ => true
  | .lb _ _ _ _ => true
  | .lh _ _ _ _ => true
  | .lw _ _ _ _ => true
  | .ld _ _ _ _ => true
  | .lbu _ _ _ _ => true
  | .lhu _ _ _ _ => true
  | .lwu _ _ _ _ => true
  | .lda _ _ _ _ => true
  | .sb _ _ _ _ => true
  | .sh _ _ _ _ => true
  | .sw _ _ _ _ => true
  | .sd _ _ _ _ => true
  | .stl _ _ _ _ => true
  | .fld _ _ _ _ => true
  | .fsd _ _ _ _ => true
  | .flw _ _ _ _ => true
  | .fsw _ _ _ _ => true
  | .fence _ _ => true
  | .beq _ _ _ _ => true
  | .bne _ _ _ _ => true
  | .blt _ _ _ _ => true
  | .bge _ _ _ _ => true
  | .bltu _ _ _ _ => true
  | .bgeu _ _ _ _ => true
  | .j _ _ => true
  | .jal _ _ => true
  | .jalr _ _ _ _ => true
  | .sysc _ _ => true
  | .mcall _ _ => true
  | .sret _ => true
  | .mret _ => true
  | .mfs _ _ _ => true
  | .mts _ _ _ => true
  | .wfi _ => true
  | .halt _ => true
  | .afence _ => true
  | .brk _ _ => true
  | .srd _ _ _ _ => true
  | .swr _ _ _ _ => true
  | .swrn _ _ _ _ => true
  | .strSend _ _ _ _ => true
  | .spoll _ _ _ _ => true
  | .prefetch _ _ => true
  | .clean _ _ => true
  | .cleanInv _ _ => true
  | .inv _ _ => true
  | .cleanRange _ _ _ => true
  | .cleanInvRange _ _ _ => true
  | .invRange _ _ _ => true
  | .cleanSw _ _ _ => true
  | .cleanInvSw _ _ _ => true
  | .invSw _ _ _ => true
  | .lockfill _ _ _ => true
  | .lockset _ _ _ => true
  | .svAdd _ _ => true
  | .svSub _ _ => true
  | .svAddss _ _ => true
  | .svAddus _ _ => true
  | .svSubss _ _ => true
  | .svSubus _ _ => true
  | .svAnd _ _ => true
  | .svOr _ _ => true
  | .svXor _ _ => true
  | .svAndn _ _ => true
  | .svMin _ _ => true
  | .svMax _ _ => true
  | .svMinu _ _ => true
  | .svMaxu _ _ => true
  | .svCmpeq _ _ => true
  | .svCmpgt _ _ => true
  | .svCmpgtu _ _ => true
  | .svMul _ _ => true
  | .svAvgu _ _ => true
  | .svAbsdu _ _ => true
  | .svSlli _ _ _ => true
  | .svSrli _ _ _ => true
  | .svSrai _ _ _ => true
  | .svFadd _ _ => true
  | .svFsub _ _ => true
  | .svFmul _ _ => true
  | .svFdiv _ _ => true
  | .svFsqrt _ _ => true
  | .svFmin _ _ => true
  | .svFmax _ _ => true
  | .svFmac _ _ => true
  | .svFcmpeq _ _ => true
  | .svFcmplt _ _ => true
  | .svFcmple _ _ => true
  | .svFabs _ _ => true
  | .svFneg _ _ => true
  | .pick _ _ _ => true
  | .pickk _ _ _ => true
  | .mixlo _ _ _ => true
  | .mixhi _ _ _ => true
  | .sepev _ _ _ => true
  | .sepod _ _ _ => true
  | .slide _ _ _ => true
  | .bcast _ _ _ => true
  | .revl _ _ _ => true
  | .putl _ _ => true
  | .getu _ _ => true
  | .gets _ _ => true
  | .fill _ _ => true
  | .topb _ _ => true
  | .popc _ _ => true
  | .rsum _ _ => true
  | .rsumu _ _ => true
  | .rmin _ _ => true
  | .rmax _ _ => true
  | .rminu _ _ => true
  | .rmaxu _ _ => true
  | .svld _ _ _ _ _ _ _ => true
  | .svst _ _ _ _ _ _ _ => true
  | .lvAdd _ _ => true
  | .lvSub _ _ => true
  | .lvMul _ _ => true
  | .lvAnd _ _ => true
  | .lvOr _ _ => true
  | .lvXor _ _ => true
  | .lvMin _ _ => true
  | .lvMax _ _ => true
  | .lvMinu _ _ => true
  | .lvMaxu _ _ => true
  | .lvFadd _ _ => true
  | .lvFsub _ _ => true
  | .lvFmul _ _ => true
  | .lvFdiv _ _ => true
  | .lvFmin _ _ => true
  | .lvFmax _ _ => true
  | .lvCmpeq _ _ => true
  | .lvCmplt _ _ => true
  | .lvCmpltu _ _ => true
  | .lvFcmpeq _ _ => true
  | .lvFcmplt _ _ => true
  | .compress _ _ => true
  | .gather _ _ => true
  | .scatter _ _ => true
  | .unpack _ _ => true
  | .pack _ _ => true
  | .l2Enable _ w => w.ok
  | .l2Disable _ w => w.ok
  | .l2DrainDone _ => true
  | .prefetchEnable _ _ w => w.ok
  | .pageRead slot => slot < 65536
  | .dictionaryPrepare slot => slot < 65536
  | .scan slot => slot < 65536
  | .hashBuild slot => slot < 65536
  | .hashProbe slot => slot < 65536
  | .partition slot => slot < 65536
  | .hashGroup slot => slot < 65536
  | .sort slot => slot < 65536
  | .merge slot => slot < 65536
  | .topN slot => slot < 65536
  | .groupSorted slot => slot < 65536
  | .groupHash slot => slot < 65536
  | .inflate slot => slot < 65536
  | .deflate slot => slot.slot < 65536
  | .kilnSelfTest _ _ => true
  | .digest slot => slot < 65536
  | .lookup slot => slot < 65536
  | .udoStage slot => slot < 65536
  | .exprStage slot => slot < 65536
  | .combine slot => slot < 65536
  | .exchSend slot => slot < 65536
  | .exchRecv slot => slot < 65536
  | .source slot => slot < 65536
  | .sinkDevice slot => slot < 65536
  | .sinkHost slot => slot < 65536
  | .sinkRemote slot => slot < 65536
  | .descriptorFetch slot => slot < 65536
  | .tunRequest _ _ => true
  | .descriptorWriteback slot => slot < 65536
  | .faultTimeout slot => slot < 2 ^ 32
  | .memoryTimeout slot address walkEntry _ => slot < 65536 + 128 && address < 2 ^ 64 && walkEntry < 2 ^ 64
  | .invalidate value w => value.length = 24 && w.ok
  | .invalidateDone => true
  | .rootWrite _ value w => value < 2 ^ 64 && w.ok
  | .fqBase _ value w => value < 2 ^ 64 && w.ok
  | .fqEntries _ value w => value < 2 ^ 32 && w.ok
  | .fqLocation _ value w => value < 2 ^ 8 && w.ok
  | .atsInvalidate _ address length => address < 2 ^ 64 && length < 2 ^ 64
  | .dramRequestIssue _ _ _ => true
  | .rhPenaltyEnd _ _ => true
  | .rhSubwindow _ => true
  | .refresh _ => true
  | .channelTempPoll _ _ => true
  | .scrubRead _ _ => true
  | .scrubPeriod _ => true
  | .alertN _ _ _ => true
  | .pdIdle _ => true
  | .selfRefreshEntry _ => true
  | .cxlMemRead _ hpa => hpa < 2 ^ 64
  | .cxlMemWrite _ hpa data => hpa < 2 ^ 64 && data.length = 64
  | .hdmCommit _ _ _ hpa size dpa _ _ _ => hpa < 2 ^ 64 && size < 2 ^ 64 && dpa < 2 ^ 64
  | .hostWindow _ _ value w => value < 2 ^ 64 && w.ok
  | .flr _ => true
  | .pf0Flr _ => true
  | .hotReset _ => true
  | .perstN _ _ => true
  | .configurationRequest _ function => function.access.ok
  | .ideFailure _ _ => true
  | .getEventRecords _ log => log < 256
  | .clearEventRecords _ log _ handles => log < 256 && handles.all (· < 65536)
  | .setTimestamp _ ns => ns < 2 ^ 64
  | .getTimestamp _ => true
  | .getSupportedLogs _ => true
  | .getLog _ uuid offset length => uuid.length = 16 && offset < 2 ^ 32 && length < 2 ^ 32
  | .identifyMemoryDevice _ => true
  | .getHealthInfo _ => true
  | .vdpRequest _ _ => true
  | .vdpCyclic _ => true
  | .unsupportedMailbox _ _ => true
  | .create _ w => w.ok
  | .destroy _ w => w.ok
  | .restore _ w => w.ok
  | .resetWrite _ w => w.ok
  | .freeze _ w => w.ok
  | .resume _ w => w.ok
  | .resetComplete _ => true
  | .freezeTimeout _ => true
  | .rrHead _ value w => value < 2 ^ 32 && w.ok
  | .spillPool _ value w => value < 2 ^ 64 && w.ok
  | .spillBase _ value w => value < 2 ^ 64 && w.ok
  | .rrBase _ value w => value < 2 ^ 64 && w.ok
  | .rrEntries _ value w => value < 2 ^ 32 && w.ok
  | .linkWrite _ value w => value < 2 ^ 8 && w.ok
  | .logEnable _ _ w => w.ok
  | .logSwitch _ _ w => w.ok
  | .logStop _ w => w.ok
  | .logSwitchDone _ => true
  | .roceSend a _ => a.ok
  | .rdmaWrite a key address _ => a.ok && key < 2 ^ 32 && address < 2 ^ 64
  | .rdmaWriteImm a key address _ _ => a.ok && key < 2 ^ 32 && address < 2 ^ 64
  | .rdmaRead p key address length => p.ok && key < 2 ^ 32 && address < 2 ^ 64 && length < 2 ^ 64
  | .ackPacket p => p.ok
  | .roceNak p code => p.ok && code.ok
  | .cnp p => p.ok
  | .otherFrame _ _ => true
  | .ackTimeout qp => qp < 2 ^ 24
  | .rnrTimer qp => qp < 2 ^ 24
  | .incPeriod qp => qp < 2 ^ 24
  | .fitnessWindow _ _ _ => true
  | .probe _ => true
  | .probeTimeout _ => true
  | .repairTime _ => true
  | .rearm qp => qp < 2 ^ 24
  | .moveBack _ value w => value < 2 ^ 8 && w.ok
  | .pathHold qp => qp < 2 ^ 24
  | .openMsg a _ => a.ok
  | .grantMsg a _ => a.ok
  | .endMsg a _ => a.ok
  | .openRetry slot peer => slot < 65536 && peer < 4096
  | .openTimeout slot peer => slot < 65536 && peer < 4096
  | .dataFlit flit => flit.ok
  | .idleFlit _ ack => ack < 4096
  | .nakFlit _ ack => ack < 4096
  | .heartbeat hb => hb.ok
  | .heartbeatSend => true
  | .replayTimeout => true
  | .trainAttempt _ => true
  | .trainDone _ => true
  | .retrainDone _ => true
  | .twinLoss => true
  | .entryRecord => true
  | .postRecord => true
  | .retireRecord => true
  | .queueRecord => true
  | .instanceRecord => true
  | .floorRecord => true
  | .mirrorAck => true
  | .claimMsg msg => msg.ok
  | .claimRepeat => true
  | .claimWait => true
  | .switchOverEnd => true
  | .linkWait => true
  | .syncComplete => true
  | .orphanDelay => true
  | .orphanNow w => w.ok
  | .orphanCqHead value w => value.length = 8 && w.ok
  | .pairPolicy value w => value < 2 ^ 8 && w.ok
  | .vdpRead src _ => src.ok
  | .vdpWrite src _ => src.ok
  | .segInit src _ => src.ok
  | .segData src _ => src.ok
  | .segAbort src _ => src.ok
  | .segTimeout session => session < 65536
  | .discover src _ => src.ok
  | .cyclic => true
  | .resourceClaim _ value w => value.length = 4 && w.ok
  | .timerStart _ w => w.ok
  | .timerStop _ w => w.ok
  | .timerExpiry _ => true
  | .watchdogExpiry => true
  | .counterLogWrite => true
  | .ownerKey value _ w => value.length = 40 && w.ok
  | .keyWrite _ value w => value.length = 40 && w.ok
  | .rightsWrite _ value w => value < 2 ^ 16 && w.ok
  | .imageUpdateDone => true
  | .bootKeyDigest value _ w => value.length = 48 && w.ok
  | .glumeParityPass errors => (errors.errors ++ errors.upsets).all fun x => x.1 < 32 && x.2 < 4096
  | .targetRun w => w.ok
  | .targetDrain w => w.ok
  | .targetDormant w => w.ok
  | .targetFreeze w => w.ok
  | .unitApplied _ => true
  | .modeDeadline => true
  | .rollbackDone => true
  | .zonePowerOff _ w => w.ok
  | .zonePowerOn _ w => w.ok
  | .zoneGated _ => true
  | .zoneWake _ => true
  | .holdEntry => true
  | .sensorPoll temps _ _ zones _ => temps.length = 32 && zones.length = 16
  | .temperatureOutOfSpec _ => true
  | .supplyOutOfSpec => true
  | .refclkLoss _ => true
  | .journalEccError => true
  | .firmwareFault => true
  | .pwrgoodAssert _ _ => true
  | .pwrgoodDeassert => true
  | .sysResetN _ => true
  | .deviceReset value w => value < 2 ^ 8 && w.ok
  | .fuseLoadDone fuses _ _ => fuses.all Fuses.ok
  | .copyChosen board _ => board.all fun c => c.1.ok && c.2.ok
  | .dramBringup spd _ => spd.length = 12
  | .loadEnd => true
  | .runEntry => true
  | .logClear value w => value < 2 ^ 8 && w.ok
  | .portTrainingDone _ _ => true
  | .cxlLinkTrained _ _ => true
  | .unitReportsClear slot => slot < 65536
  | .coreRestart _ => true
  | .tapInstruction _ => true
  | .managementFrame frame => frame.ok
  | .plcaBeacon _ => true

end Sys2Proof
end

