-- ==== Sys2Proof/Tests/Slice0.lean ====
section
/-! SUPPORT. Tests: a term that each check of WellFormed refuses, values that the manual states, one step of each family of
commands, and a state that meets the hypotheses of each statement. -/

namespace Sys2Proof.Tests

open Sys2Proof Sys2Proof.Machine

/-! ### Small states -/

/-- The device in RUN, everything else as after reset. -/
def running : State := { State.reset with mode := .run }

/-- A core at level T in its tile region, held by the task of slot 1. -/
def taskCore : Core :=
  { pc := 0xFFF00000, pstat := 0, tileBytes := 4096, task := some 1,
    g := Vector.replicate 32 0xFFF00100 }

/-- A UDO task on core 0. -/
def aTask : Task := { jid := 0, inst := 1, phase := 0, stage := 0, unit := 0, zone := 0, cls := 0, prio := 5, run := .running, readySeq := 0 }

/-- RUN, with core 0 at T and its task in slot 1. -/
def atT : State := { running with cores := [(0, taskCore)], js := { running.js with tasks := [(1, aTask)] } }

/-- RUN, with core 0 at S and interrupts enabled. -/
def atS : State := { running with cores := [(0, { taskCore with pstat := 0x40000000, sstat := 0x80, pc := 0xFFFF0000, task := none })] }

/-- A dictionary client on the field network. -/
def client : VdpSrc := .field (List.replicate 16 1) 51730

/-- A WRITE of that client. -/
def aWrite : VdpWrite := { src := client, txn := 7 }

/-- RUN, with instance 1 ACTIVE on link 0. -/
def instOne : State := odSet 0x4001 3 1 running

/-! ### WellFormed refuses what is out of range -/

theorem test_wf_doorbell_wider_than_size : (Instr.cqHeadWrite 0 1 0 4 (2 ^ 32)).wf = false := by decide
theorem test_wf_doorbell_takes_its_size : (Instr.cqHeadWrite 0 1 0 4 (2 ^ 32 - 1)).wf = true := by decide
theorem test_wf_stored_past_the_space : (Instr.sqTailWrite 0 1 0 4 0 [(2 ^ 64 - 1, [0, 0])]).wf = false := by decide
theorem test_wf_command_block_length : (Instr.createCq 0 1 ⟨List.replicate 63 0, 0⟩).wf = false := by decide
theorem test_wf_task_slot : (Instr.stageFinish 65536).wf = false := by decide
theorem test_wf_stream_port : (Instr.streamTransfer 0 4).wf = false := by decide
theorem test_wf_asn : (Instr.deadline 1 0 (2 ^ 64)).wf = false := by decide
theorem test_wf_wait_count : (Instr.wait 0 0 false 16777217).wf = false := by decide
theorem test_wf_delay_zero : (Instr.delay 0 0).wf = false := by decide
theorem test_wf_signal_sender : (Instr.signal (some 65536) 0 0).wf = false := by decide
theorem test_wf_source_address : (Instr.l2Enable 0 { aWrite with src := .field [] 1 }).wf = false := by decide
theorem test_wf_source_port : (Instr.l2Enable 0 { aWrite with src := .field (List.replicate 16 0) 65536 }).wf = false := by decide
theorem test_wf_txn : (Instr.l2Enable 0 { aWrite with txn := 2 ^ 32 }).wf = false := by decide
theorem test_wf_principal : (Instr.l2Enable 0 { aWrite with principal := 256 }).wf = false := by decide
theorem test_wf_counter : (Instr.l2Enable 0 { aWrite with counter := 2 ^ 64 }).wf = false := by decide
theorem test_wf_tag : (Instr.l2Enable 0 { aWrite with tag := [1] }).wf = false := by decide
theorem test_wf_write_taken : (Instr.l2Enable 0 aWrite).wf = true := by decide
theorem test_wf_invalidate_length : (Instr.invalidate [] aWrite).wf = false := by decide
theorem test_wf_timeout_address : (Instr.memoryTimeout 0 (2 ^ 64) 0 false).wf = false := by decide
theorem test_wf_root : (Instr.rootWrite 1 (2 ^ 64) aWrite).wf = false := by decide
theorem test_wf_fault_ring : (Instr.fqEntries 1 (2 ^ 32) aWrite).wf = false := by decide
theorem test_wf_location : (Instr.fqLocation 1 256 aWrite).wf = false := by decide
theorem test_wf_ats_range : (Instr.atsInvalidate 0 0 (2 ^ 64)).wf = false := by decide
theorem test_wf_host_address : (Instr.cxlMemRead 0 (2 ^ 64)).wf = false := by decide
theorem test_wf_host_data : (Instr.cxlMemWrite 0 0 []).wf = false := by decide
theorem test_wf_decoder_size : (Instr.hdmCommit 0 0 true 0 (2 ^ 64) 0 1 256 0).wf = false := by decide
theorem test_wf_event_log : (Instr.getEventRecords 0 256).wf = false := by decide
theorem test_wf_event_handle : (Instr.clearEventRecords 0 0 false [65536]).wf = false := by decide
theorem test_wf_timestamp : (Instr.setTimestamp 0 (2 ^ 64)).wf = false := by decide
theorem test_wf_log_uuid : (Instr.getLog 0 [] 0 0).wf = false := by decide
theorem test_wf_rr_head : (Instr.rrHead 1 (2 ^ 32) aWrite).wf = false := by decide
theorem test_wf_packet : (Instr.cnp { port := 0, dst := 0, qpn := 2 ^ 24 }).wf = false := by decide
theorem test_wf_arrival : (Instr.roceSend (.wire { port := 0, dst := 2 ^ 128, qpn := 2 }) []).wf = false := by decide
theorem test_wf_remote_key : (Instr.rdmaWrite .fabric (2 ^ 32) 0 []).wf = false := by decide
theorem test_wf_rnr_delay : (Instr.roceNak { port := 0, dst := 0, qpn := 2 } (.rnr 65536)).wf = false := by decide
theorem test_wf_queue_pair : (Instr.ackTimeout (2 ^ 24)).wf = false := by decide
theorem test_wf_peer : (Instr.openRetry 0 4096).wf = false := by decide
theorem test_wf_flit : (Instr.dataFlit { seq := 4096, ack := 0, recs := [] }).wf = false := by decide
theorem test_wf_mirror_record : (Instr.dataFlit { seq := 0, ack := 0, recs := [{ num := 0, body := .entry [] }] }).wf = false := by decide
theorem test_wf_flit_ack : (Instr.nakFlit true 4096).wf = false := by decide
theorem test_wf_heartbeat : (Instr.heartbeat ⟨true, 0, 0, 0, 0, 2, 0, 0, 0, false, false, 0⟩).wf = false := by decide
theorem test_wf_claim : (Instr.claimMsg { epoch := 2 ^ 32, side := 0, serial := 0, pairId := 0 }).wf = false := by decide
theorem test_wf_orphan_head : (Instr.orphanCqHead [] aWrite).wf = false := by decide
theorem test_wf_session : (Instr.segTimeout 65536).wf = false := by decide
theorem test_wf_resource : (Instr.resourceClaim 0 [0] aWrite).wf = false := by decide
theorem test_wf_owner_key : (Instr.ownerKey [] true aWrite).wf = false := by decide
theorem test_wf_rights : (Instr.rightsWrite 0 65536 aWrite).wf = false := by decide
theorem test_wf_digest : (Instr.bootKeyDigest [] true aWrite).wf = false := by decide
theorem test_wf_sensors : (Instr.sensorPoll [] 0 0 [] 0).wf = false := by decide
theorem test_wf_reset_cause : (Instr.deviceReset 256 aWrite).wf = false := by decide
theorem test_wf_fuses : (Instr.fuseLoadDone (some { digest := [] }) [] false).wf = false := by decide
theorem test_wf_flash_marker : (Instr.copyChosen (some ({ marker := [1] }, {})) true).wf = false := by decide
theorem test_wf_spd : (Instr.dramBringup [] 0).wf = false := by decide

/-! ### The device after reset, and a step -/

theorem test_reset_mode : State.reset.mode = .fuseLoad := by decide
theorem test_reset_tick_us : od State.reset 0x3000 1 = 10 := by decide
theorem test_reset_estk : (Machine.core State.reset 5).estk = 0xFFFFE000 := by decide
theorem test_reset_queue_empty : State.reset.pending = [] := by decide
theorem test_idle_step_passes_time : (match step State.reset with | .next t => t.time | _ => 0) = 1 := by decide
theorem test_step_takes_the_front : (match step { running with pending := [.linkWait, .claimWait] } with
    | .next t => t.pending | _ => []) = [.claimWait] := by decide

/-- The table gives no row any bits. -/
theorem test_no_word_spells_a_command : decodeTableWord 32 0xB46110FC = none := by decide

/-! ### The worked examples of chapters 08 and 09 -/

/-- Core 43 before the FDIV of chapter 08: TE.DZ set, f1 = 1.5, f2 = +0. -/
def divCore (precise : Bool) : State :=
  { running with cores := [(43, { taskCore with
      pc := 0xFFF00400, pstat := if precise then 0x00900000 else 0x00100000
      f := (Vector.replicate 32 0).set 1 0x3FF8000000000000 })] }

/-- What the FDIV leaves. -/
def divided (precise : Bool) : State :=
  match exec (.fdiv 43 3 1 2 .b64 .dynamic) (divCore precise) with
  | .next t => t
  | _ => State.reset

theorem test_precise_division_enters : (Machine.core (divided true) 43).sstat = 0x0E080040 := by decide
theorem test_precise_division_address : (Machine.core (divided true) 43).sepc = 0xFFF00400 ∧ (Machine.core (divided true) 43).sval = 0xFFF00400 := by
  decide
theorem test_imprecise_division_writes : fGet (divided false) 43 3 = 0x7FF0000000000000 := by decide
theorem test_imprecise_division_pends : (Machine.core (divided false) 43).imp = some (0x08, 0xFFF00400) := by decide

/-- The trap as IMPRECISE_ARITHMETIC takes it. -/
def divTaken : State :=
  match exec (.impreciseArithmetic 43) (divided false) with
  | .next t => t
  | _ => State.reset

theorem test_imprecise_division_enters : (Machine.core divTaken 43).sstat = 0x0E080840 := by decide

/-- A core with the sensor pairs of chapter 09 in its tile region, f8 as loaded, and 140 in every lane of v6. -/
def pairCore : State :=
  { running with cores := [(0, { taskCore with
      tileBytes := 65536, g := (Vector.replicate 32 0).set 7 0xFFF02000
      tile := memPut [] 0x2000 [0x84, 0, 0xD7, 0, 0x97, 0, 0xC6, 0, 0x80, 0, 0xDD, 0, 0x8C, 0, 0xCC, 0]
      f := (((Vector.replicate 32 0).set 8 0x008C008000970084).set 12 0x008C008C008C008C).set 13 0x008C008C008C008C })] }

/-- The two loaded registers. -/
def pairLoaded : State :=
  match exec (.svld 0 4 7 0 1 1 true) { pairCore with cores := [(0, { Machine.core pairCore 0 with f := Vector.replicate 32 0 })] } with
  | .next t => t
  | _ => State.reset

theorem test_svld_moisture : fGet pairLoaded 0 8 = 0x008C008000970084 := by decide
theorem test_svld_temperature : fGet pairLoaded 0 10 = 0x00CC00DD00C600D7 := by decide
theorem test_cmpgtu_word : svWord 0x30 { vd := 7, va := 6, vb := 4, q := true, esz := 1 } 0x10 = 0xC0E62510 := by decide
theorem test_cmpgtu_marks : (match exec (.svCmpgtu 0 { vd := 7, va := 6, vb := 4, q := true, esz := 1 }) pairCore with
    | .next t => fGet t 0 14 | _ => 0) = 0x0000FFFF0000FFFF := by decide

/-! ### Scalar instructions by hand -/

/-- Core 0 at T with two values in g1 and g2. -/
def twoRegs (a b : Word) : State :=
  { running with cores := [(0, { taskCore with g := ((Vector.replicate 32 0).set 1 a).set 2 b })] }

/-- g3 after an instruction of core 0. -/
def g3 (i : Instr) (s : State) : Word :=
  match exec i s with
  | .next t => gGet t 0 3
  | _ => 0

theorem test_add_wraps : g3 (.aluAdd 0 3 1 2) (twoRegs 0xFFFFFFFFFFFFFFFF 2) = 1 := by decide
theorem test_slt_is_signed : g3 (.aluSlt 0 3 1 2) (twoRegs 0xFFFFFFFFFFFFFFFF 0) = 1 := by decide
theorem test_addw_sign_extends : g3 (.aluwAdd 0 3 1 2) (twoRegs 0x7FFFFFFF 1) = 0xFFFFFFFF80000000 := by decide
theorem test_mulhu_top : g3 (.mulhu 0 3 1 2) (twoRegs 0xFFFFFFFFFFFFFFFF 0xFFFFFFFFFFFFFFFF) = 0xFFFFFFFFFFFFFFFE := by decide
theorem test_g0_discards : (match exec (.aluAdd 0 0 1 2) (twoRegs 5 6) with | .next t => gGet t 0 0 | _ => 1) = 0 := by decide
theorem test_pc_moves : (match exec (.aluAdd 0 3 1 2) (twoRegs 5 6) with | .next t => (Machine.core t 0).pc | _ => 0) = 0xFFF00004 := by decide
theorem test_privileged_at_t : (match exec (.halt 0) (twoRegs 0 0) with | .next t => bitsOf (Machine.core t 0).sstat.toNat 31 24 | _ => 0) = 5 := by
  decide

/-! ### Hypotheses that are met

One theorem or more for each statement that has hypotheses, named after it. The statements about instructions share theirs:
a core that executes its next instruction, at each level. -/

theorem met_core_ready_at_m : CoreReady running 0 := ⟨by decide, by decide, by decide⟩
theorem met_core_clear_at_m : CoreClear running 0 ∧ coreLevel running 0 = .m := ⟨⟨by decide, by decide, by decide⟩, by decide⟩
theorem met_core_clear_at_s : CoreClear atS 0 ∧ coreLevel atS 0 = .s := ⟨⟨by decide, by decide, by decide⟩, by decide⟩
theorem met_core_clear_at_t : CoreClear atT 0 ∧ coreLevel atT 0 = .t := ⟨⟨by decide, by decide, by decide⟩, by decide⟩

theorem met_StepRunsFrontCommand : ({ running with pending := [.linkWait] } : State).pending = .linkWait :: [] := by decide
theorem met_IdleStepPassesOnePeriod : running.pending = [] := by decide
theorem met_StepKeepsSoundness : Sound running ∧ step running = .next { running with time := 1 } := ⟨⟨by decide, by decide⟩, rfl⟩
theorem met_CommandsKeepTheQueue : exec .linkWait State.reset = .next State.reset := by rfl
theorem met_InactiveCoreExecutesNothing : coreOf (.sret 3) = some 3 ∧ coreActive State.reset 3 = false := by decide
theorem met_RegisterInstructionFrame : CoreReady atT 0 ∧ bitsOf (Machine.core atT 0).pstat.toNat 22 17 = 0 ∧
    ∃ t, exec (.aluAdd 0 3 1 2) atT = .next t :=
  ⟨⟨by decide, by decide, by decide⟩, by decide, _, rfl⟩
theorem met_ArithmeticTraps_overflow : CoreClear (twoRegs 0x7FFFFFFFFFFFFFFF 1) 0 ∧
    2 ^ 63 ≤ (gGet (twoRegs 0x7FFFFFFFFFFFFFFF 1) 0 1).toInt + (gGet (twoRegs 0x7FFFFFFFFFFFFFFF 1) 0 2).toInt :=
  ⟨⟨by decide, by decide, by decide⟩, by decide⟩
theorem met_ArithmeticTraps_division : CoreClear (divCore false) 43 ∧ ¬ NoTrap (divCore false) 43 flagDZ :=
  ⟨⟨by decide, by decide, by decide⟩, by unfold NoTrap; decide⟩
theorem met_LoadsWriteTheirRegister : CoreReady atT 0 ∧
    (coreLoad 0 0xFFF00100 8 false (fetchTouch 0 atT)).1.toOption = some (List.replicate 8 0) :=
  ⟨⟨by decide, by decide, by decide⟩, by decide⟩
theorem met_StoresWriteTheirBytes : CoreReady atT 0 ∧
    (coreStore 0 0xFFF00100 (leBytes 8 5) false (fetchTouch 0 atT)).toOption.isSome = true :=
  ⟨⟨by decide, by decide, by decide⟩, by decide⟩
theorem met_MemoryAccess : L2NoError atT 0 ∧ Sound atT ∧ corePlace atT 0 .read 0xFFF00100 8 = .ok (.tile 0x100) :=
  ⟨⟨by decide, fun _ e h => absurd (a := e ∈ []) h List.not_mem_nil⟩, ⟨by decide, by decide⟩, by rfl⟩
theorem met_Entries_first_level : coreLevel atT 0 ≠ .m ∧ (Machine.core atT 0).sstat.getLsbD 6 = false := by decide
theorem met_CoreEvents_interrupt : coreActive { atS with cores := [(0, { Machine.core atS 0 with intr := 2 })] } 0 = true ∧
    (Machine.core { atS with cores := [(0, { Machine.core atS 0 with intr := 2 })] } 0).intr.getLsbD 1 = true ∧
    (Machine.core { atS with cores := [(0, { Machine.core atS 0 with intr := 2 })] } 0).intr.getLsbD 0 = false ∧
    (Machine.core atS 0).sstat.getLsbD 7 = true := by decide
theorem met_StreamInstructions : CoreClear atT 0 ∧ coreTask atT 0 = some (1, aTask) ∧ aTask.ins[3]? = none :=
  ⟨⟨by decide, by decide, by decide⟩, by decide, by decide⟩
theorem met_CacheLineInstructions : CoreClear atT 0 ∧
    (cacheLine (fetchTouch 0 atT) 0 .write (gGet atT 0 1).toNat).toOption = some none :=
  ⟨⟨by decide, by decide, by decide⟩, by decide⟩
theorem met_WayLockingAndDrain : CoreClear running 0 ∧ coreLevel running 0 ≠ .t ∧ (gGet running 0 2).toNat < 32768 :=
  ⟨⟨by decide, by decide, by decide⟩, by decide, by decide⟩
theorem met_VectorIntegers : CoreClear pairCore 0 ∧ InView { vd := 7, va := 6, vb := 4, q := true, esz := 1 } 7 :=
  ⟨⟨by decide, by decide, by decide⟩, by unfold InView; decide⟩
theorem met_VectorMoves_one_lane : laneCount false 3 = 1 := by decide
theorem met_VectorMemory : CoreClear pairCore 0 ∧ (gGet pairCore 0 7 + (0 : BitVec 10).signExtend 64 * 16).toNat % 2 ^ 1 = 0 :=
  ⟨⟨by decide, by decide, by decide⟩, by decide⟩
theorem met_LongVectorResults : CoreClear atT 0 ∧ (gGet atT 0 0).toNat ≤ 2 ^ 20 ∧ takesIntr (fetchTouch 0 atT) 0 = false :=
  ⟨⟨by decide, by decide, by decide⟩, by decide, by decide⟩

/-! #### Doorbells, queues, admission, completions -/

theorem met_PageTaken : PageTaken instOne 0 1 := ⟨by decide, by decide, by decide⟩

/-- CREATE_CQ of CQ 2 with 16 entries, COAL_TIME 1. -/
def cqCmd : List Byte := 1 :: List.replicate 15 0 ++ leBytes 4 16 ++ [0, 2, 0, 0, 0, 0, 1, 0] ++ List.replicate 36 0

theorem met_QueueCommands : CmdTaken instOne 0 1 1 cqCmd cqCmdFields ∧ CqCmdOk cqCmd ∧ cqAt instOne 1 2 = none :=
  ⟨⟨met_PageTaken, by decide, by decide, by decide⟩, ⟨by decide, ⟨by decide, by decide, 4, by decide⟩, by decide, by decide, by decide,
    by decide, by decide⟩, by decide⟩

/-- Instance 1 with SQ 0 in the host's memory, TAIL 1 and an empty descriptor in slot 0. -/
def withSq : State := instMod 1 (fun i => { i with sqs := [(0, { loc := .host, tail := 1 })], cqs := [(0, { loc := .host })] }) instOne

theorem met_AdmissionCommands : NextDesc withSq 1 0 { loc := .host, tail := 1 } (List.replicate 128 0) withSq ∧
    descKind (List.replicate 128 0) = .nop :=
  ⟨⟨⟨by decide, by decide, by decide, by decide, by decide, by decide, by decide⟩, by rfl⟩, by decide⟩
theorem met_CompletionCommands : postOpen withSq 1 = true ∧ (inst withSq 1).refusals = [] ∧
    sqAt withSq 1 0 = some { loc := .host, tail := 1 } ∧ jobByAsn withSq 1 0 1 = none := by decide

/-! #### Tasks -/

theorem met_EventFlagOperations : taskAt atT 1 = some aTask ∧ isRunning aTask = true := by decide
theorem met_SchedulingCommands : modePlaces running = true ∧ modeDispatches running = true ∧ zoneOn running 0 = true := by decide

/-! #### Dictionary writes and reads -/

theorem met_TranslationWrites : WriteTurn running aWrite 0x2301 1 :=
  ⟨by decide, by decide, by decide, by decide, by decide, by decide, by decide⟩
theorem met_UnitWrites : WriteTurn running aWrite 0x3480 1 :=
  ⟨by decide, by decide, by decide, by decide, by decide, by decide, by decide⟩
theorem met_InstanceControlWrites : WriteTurn running aWrite (instIdx 1) 2 :=
  ⟨by decide, by decide, by decide, by decide, by decide, by decide, by decide⟩
theorem met_InstanceAttributeWrites : WriteTurn running aWrite (instIdx 1) 0x1D :=
  ⟨by decide, by decide, by decide, by decide, by decide, by decide, by decide⟩
theorem met_ClaimAndTimerWrites : WriteTurn running aWrite (0x1280 + 1) 3 :=
  ⟨by decide, by decide, by decide, by decide, by decide, by decide, by decide⟩

/-- A READ of TICK_US. -/
def readMsg : List Byte := vdpMsg 1 7 0 0 (leBytes 2 0x3000 ++ leBytes 1 1 ++ leBytes 1 0)

theorem met_ReadAnswers : RequestTurn running client readMsg ∧ ∃ e, reach running readMsg false 0x3000 1 = .ok e ∧ e.ty ≠ .domain :=
  ⟨⟨by decide, by decide, by decide, by decide, by decide, by decide, by decide⟩, _, rfl, by decide⟩
theorem met_DiscoverAnswers : RequestTurn running client (vdpMsg 6 7 0 0 []) :=
  ⟨by decide, by decide, by decide, by decide, by decide, by decide, by decide⟩
theorem met_SessionsAndFrames : WriteTurn running aWrite 0x3000 1 ∧ ∃ e, entryAt 0x3000 1 = some e ∧ e.acc = .rw ∧
    lengthFits e 2 = true :=
  ⟨⟨by decide, by decide, by decide, by decide, by decide, by decide, by decide⟩, _, rfl, by decide, by decide⟩

/-! #### The rest -/

theorem met_FaultsAndResetsEnd : running.mode ≠ .hold ∧ taskAt atT 1 = some aTask ∧ aTask.parked = none := by decide
theorem met_CxlLinkCommands : functionsLive running = true ∧ linkExists running 0 = true := by decide
theorem met_DramUpkeep_not_live : chanLive State.reset 0 = false := by decide

/-! #### Commands that complete -/

/-- CREATE_QP of an EXCHANGE queue pair with MTU code 5. -/
def qpCmd : List Byte := 5 :: List.replicate 7 0 ++ [2, 0, 5] ++ List.replicate 53 0

/-- Instance 1 with room for one queue pair and one region. -/
def withRoom : State := odSet 0x4001 0x0C 1 (odSet 0x4001 0x0D 1 instOne)

theorem met_HostCommandsComplete_create : CmdTaken withRoom 0 1 5 qpCmd [(8, 1), (9, 1), (10, 1)] ∧ QpCmdOk withRoom 1 qpCmd ∧
    LowestFree withRoom.net.qps 0 ∧ (withRoom.net.qps.filter fun e => e.2.inst = 1).length < od withRoom (instIdx 1) 0x0C :=
  ⟨⟨⟨by decide, by decide, by decide⟩, by decide, by decide, by decide⟩,
    ⟨by decide, by decide, by decide, by decide, by decide, by intro h; exact absurd h (by decide), by decide⟩,
    ⟨by decide, by decide⟩, by decide⟩

/-- The largest region, with both rights. -/
def regionCmd : List Byte := 8 :: List.replicate 7 0 ++ List.replicate 8 0 ++ leBytes 8 (2 ^ 48) ++ [3] ++ List.replicate 39 0

theorem met_HostCommandsComplete_region : CmdTaken withRoom 0 1 8 regionCmd [(8, 8), (0x10, 8), (0x18, 1)] ∧
    fld regionCmd 0x18 1 ≤ 3 ∧ fld regionCmd 8 8 + fld regionCmd 0x10 8 ≤ 2 ^ 48 ∧ LowestFree withRoom.net.regions 0 :=
  ⟨⟨⟨by decide, by decide, by decide⟩, by decide, by decide, by decide⟩, by decide, by decide, by decide, by decide⟩

/-- Queue pair 0 of instance 1, EXCHANGE, not connected. -/
def withQp : State := { withRoom with net := { withRoom.net with qps := [(0, { inst := 1, gen := 0, use := 2 })] } }

/-- CONNECT_QP of queue pair 0 with the least values. -/
def connectCmd : List Byte := 6 :: List.replicate 63 0

theorem met_HostCommandsComplete_connect : CmdTaken withQp 0 1 6 connectCmd connectFields ∧ ConnectCmdOk connectCmd ∧
    (∃ q, ownQp withQp 1 0 = some q ∧ q.connected = false ∧ q.sendQ = []) ∧ FreePlace withQp 0 ∧ planeFit withQp 0 = true :=
  ⟨⟨⟨by decide, by decide, by decide⟩, by decide, by decide, by decide⟩, by unfold ConnectCmdOk; decide, ⟨_, rfl, rfl, rfl⟩,
    ⟨by decide, fun e h => (by rw [show tfind (classEntries withQp) 0 = none from by decide] at h; cases h),
      fun j h => absurd h (Nat.not_lt_zero j)⟩, by decide⟩
theorem met_HostCommandsComplete_destroy : CmdTaken withQp 0 1 7 (7 :: List.replicate 63 0) [(8, 4)] ∧
    (∀ e ∈ withQp.js.tasks, usesQp withQp e.2 0 = none) :=
  ⟨⟨⟨by decide, by decide, by decide⟩, by decide, by decide, by decide⟩, by decide⟩
theorem met_HostCommandsComplete_mailbox : mailboxLive running 0 = true := by decide

/-- A plan image with one stage of an operator. -/
def opImage (op : Nat) : List Byte := List.replicate 28 0 ++ leBytes 4 32 ++ leBytes 1 op ++ List.replicate 63 0

/-- RUN, with a task in slot 1 of a job whose stage 0 has an operator. -/
def atStage (op : Nat) (t : Task) : State :=
  { running with js := { running.js with
      jobs := [{ jid := 0, inst := 1, gen := 1, sq := 0, pos := 0, slot := 0, pass := 0, asn := 1, plan := some ⟨opImage op, [], []⟩ }]
      tasks := [(1, t)] } }

/-- The task with one input port, open or ended. -/
def oneInput (ended : Bool) : Task := { aTask with ins := [{ stream := 0, ended := ended }], eng := { aTask.eng with started := true } }

theorem met_EngineStagesComplete_start : ∀ op ∈ [0x01, 0x60, 0x61], StageAt (atStage op aTask) 1 op aTask ∧ aTask.eng.started = false := by
  unfold StageAt; decide
theorem met_EngineStagesComplete_open : StillOpen (oneInput false) ∧ ∀ op ∈ [0x10, 0x12, 0x13, 0x20, 0x30, 0x31, 0x40, 0x41, 0x48, 0x50, 0x62],
    StageAt (atStage op (oneInput false)) 1 op (oneInput false) ∧
    findLong (stageKeys (atStage op (oneInput false)) (oneInput false)) (frontRows (oneInput false) 0) = none :=
  ⟨⟨_, .head _, rfl⟩, by unfold StageAt; decide⟩
theorem met_EngineStagesComplete_end : insDone (oneInput true) = true ∧ ∀ op ∈ [0x10, 0x20, 0x22, 0x40, 0x41, 0x48, 0x62],
    StageAt (atStage op (oneInput true)) 1 op (oneInput true) ∧
    (taskStage (atStage op (oneInput true)) (oneInput true)).outCap = 0 :=
  ⟨by decide, by unfold StageAt; decide⟩
theorem met_EngineStagesComplete_units : od (odSet 0x3C03 1 5 running) (0x3C00 + 3) 1 = 5 ∧
    running.js.badRows = [] ∧ bankLive running 200 = true ∧ bankGroup running 200 = none := by decide

/-- The task with one open input on slot 3 of a Grist engine. -/
def digestTask : Task := { oneInput false with unit := 0xAC, sub := 3 }

theorem met_EngineStagesComplete_digest : StageAt (atStage 0x48 digestTask) 1 0x48 digestTask ∧
    (ctxFed (openedCtx (atStage 0x48 digestTask) digestTask) (waitingBytes digestTask 128)).count < 2 ^ 61 ∧
    ∀ x ∈ (atStage 0x48 digestTask).js.tasks, x.1 ≠ 1 → x.2.unit = 0xAC → ctxEligible (atStage 0x48 digestTask) x.2 = false :=
  ⟨by unfold StageAt; decide, by decide, by decide⟩

/-- The task with its channel moving. -/
def movingTask : Task := { oneInput false with eng := { (oneInput false).eng with tun := { phase := .moving } } }

theorem met_TunAndExchangeStagesComplete_start : ∀ op ∈ [0x80, 0x81, 0x82, 0x83, 0x70], StageAt (atStage op aTask) 1 op aTask := by
  unfold StageAt; decide
theorem met_TunAndExchangeStagesComplete_moving : StillOpen movingTask ∧
    StageAt (atStage 0x81 movingTask) 1 0x81 movingTask ∧ movingTask.eng.tun.phase = .moving :=
  ⟨⟨_, .head _, rfl⟩, by unfold StageAt; decide, by decide⟩
theorem met_TunAndExchangeStagesComplete_request : nextRequest running 3 true = none ∧ tsorted running.js.tasks = true := by decide

/-- Queue pair 0 in service, in the classifier, and port 0 up. -/
def withPair : State :=
  odSet 0x2800 1 2 { running with
    net := { running.net with qps := [(0, { inst := 1, gen := 0, use := 3, connected := true })] }
    js := { running.js with groups := [(0, { entries := [(0, { value := classKey 1 2, mask := 2 ^ 160 - 1, valid := true, result := 0 })] })] } }

/-- The next packet of that queue pair. -/
def aPacket : Pkt := { port := 0, dst := 1, qpn := 2 }

theorem met_NetworkCommandsComplete_request :
    NextRequest withPair (classifyPkt aPacket withPair).2 aPacket 0 { inst := 1, gen := 0, use := 3, connected := true } :=
  ⟨⟨by decide, rfl, rfl, rfl, rfl, by decide, by decide, rfl⟩, by decide⟩
theorem met_NetworkCommandsComplete_fabric : FabricFront
    { withPair with net := { withPair.net with fabric := [{ src := 0, dst := 0, msg := .send [1] }] } } { src := 0, dst := 0, msg := .send [1] } :=
  ⟨rfl, _, rfl, rfl⟩
theorem met_NetworkCommandsComplete_plane : PlanesRun running ∧ portLive withPair 0 = true ∧ planeState (odSet 0x2811 1 2 running) 1 = 2 :=
  ⟨⟨.inl rfl, by decide⟩, by decide, by decide⟩

/-- The link ACTIVE, SEQ 4,095 awaited and one flit outstanding. -/
def linked : State := odSet 0x2C02 1 2 { running with tw := { running.tw with rxSeq := 4095, replay := [(4095, [])] } }

theorem met_TwinCommandsComplete_flits : kolState linked = 2 ∧ linked.tw.rxSeq = 4095 ∧ linked.tw.waiting = [] ∧ lowRate linked = false ∧
    linked.tw.replay = [] ++ (4095, []) :: [] := by decide
theorem met_TwinCommandsComplete_record : NextRecord { running with tw := { running.tw with received := [{ num := 1, body := .ack 5 }] } } 1 (.ack 5) [] := by
  unfold NextRecord; rfl
theorem met_TwinCommandsComplete_claim : ClaimOfTwin (odSet 0x2C00 5 9 running) { epoch := 1, side := 1, serial := 3, pairId := 9 } := by
  unfold ClaimOfTwin; decide
theorem met_TwinCommandsComplete_heartbeat : pairState (odSet 0x2C00 1 3 linked) = 3 ∧
    (odSet 0x2C00 1 3 linked).time - (odSet 0x2C00 1 3 linked).tw.hbAt ≤ lossDelay ∧ (odSet 0x2C00 1 3 linked).tw.partner = none ∧ side linked = 0 ∧ pairId linked = 0 := by decide

/-- A change to DRAIN in its apply phase. -/
def changing : State := odSet 0x1300 1 4 (odSet 0x1300 3 2 running)

theorem met_PowerAndBootCommandsComplete_units : UnitDue changing 7 4 := by unfold UnitDue; decide
theorem met_PowerAndBootCommandsComplete_boot : CopyLoaded (odSet 0x1200 2 0 { running with mode := .configLoad }) := by
  unfold CopyLoaded; decide
theorem met_PowerAndBootCommandsComplete_fuses : State.reset.mode = .fuseLoad ∧ State.reset.pins.resetLow = false ∧
    FuseError.otherField ∉ [FuseError.serial] := by decide
theorem met_PowerAndBootCommandsComplete_run : od (odSet 0x1200 1 1 running) 0x1200 1 = 1 ∧ pairId running = 0 ∧ pairState running = 0 ∧
    ({ running.cx with perst := [] } : CxlState).perst.contains (od running 0x2400 2) = false := by decide

theorem met_TileAccessesComplete : (Machine.core atT 0).tileBad = [] ∧ CoreReady atT 0 ∧ InTile atT 0 true 0xFFF00FF8 8 :=
  ⟨by decide, ⟨by decide, by decide, by decide⟩, by unfold InTile; decide⟩

end Sys2Proof.Tests
end

section
/-! PROOFS. Admission, its head write-back and the moment of acceptance (R10, R15, R302, R304, R307). -/

namespace Sys2Proof.Machine

/-! ### Steps 1 to 3 of admission -/

/-- Where admission can take an SQ's next descriptor, a command of its kind runs the checks on it, and a command of another kind
leaves the state before the read. -/
theorem admitNext_of_nextDesc {s u : State} {n k : Nat} {q : SubQ} {d : List Byte} (h : NextDesc s n k q d u)
    (kind : DescKind) : admitNext kind n k s = if descKind d = kind then admitDesc n k q d u else s := by
  obtain ⟨⟨hq, hopen, herr, hwait, hvis, hjobs, htaken⟩, hread⟩ := h
  have hpend : (s.js.jobs.any fun j => j.inst = n && j.sq = k && j.gen = instGen s n && j.jstate = .pending) = false := by
    simpa [List.any_eq_false, and_assoc] using hjobs
  have htaken' : q.taken.contains q.fetch = false := by simpa using htaken
  unfold admitNext
  rw [hq]
  dsimp only
  rw [hpend, htaken', hopen, herr, hwait, hvis, hread]
  rfl

/-- No command of admission does anything where the SQ does not exist or admission is closed. -/
theorem admitNext_closed {s : State} {n k : Nat} (h : sqAt s n k = none ∨ admitOpen s n = false) (kind : DescKind) :
    admitNext kind n k s = s := by
  unfold admitNext
  cases hq : sqAt s n k with
  | none => rfl
  | some q =>
    have hopen : admitOpen s n = false := h.resolve_left (by simp [hq])
    simp [hopen]

/-- A descriptor that fails a check of step 1 is refused with the first such check's status. -/
theorem admitDesc_bad {u : State} {n k : Nat} {q : SubQ} {d : List Byte} {r : Refuse} (h : descBad u n q d = some r) :
    admitDesc n k q d u = refuseDesc n k q.fetch r.status (refuseRec r 0) (dflag d 0) u := by
  unfold descBad at h
  unfold admitDesc
  dsimp only
  rw [h]

/-- A NOP or CANCEL that passes step 1 has no step 2. -/
theorem admitDesc_checked {u : State} {n k : Nat} {q : SubQ} {d : List Byte} {kind : DescKind} (h : descBad u n q d = none)
    (hk : descKind d = kind) (hp : kind ≠ .plan) : admitDesc n k q d u = passStep2 n k (checkedDesc u n kind d none 0) u := by
  subst hk
  unfold descBad at h
  unfold admitDesc
  dsimp only
  rw [h]
  cases hd : descKind d with
  | plan => exact absurd hd hp
  | nop => rfl
  | cancel => rfl

/-- What step 2 does with a PLAN whose image header has been read (R67, R302). -/
def planStep2 (n k : Nat) (q : SubQ) (d head : List Byte) (u v : State) : State :=
  match checkHeadLengths d head with
  | some r => refuseDesc n k q.fetch r.status (refuseRec r (fld head 0x38 8)) (dflag d 0) v
  | none =>
    match admitPlan n head (blockPlace q d 1 3 (fld d 8 8)) (blockPlace q d 2 4 (fld d 0x18 8)) v with
    | (.error r, x) => refuseDesc n k q.fetch r.status (refuseRec r (fld head 0x38 8)) (dflag d 0) x
    | (.ok (p, spill), x) => passStep2 n k (checkedDesc u n .plan d (some p) spill) x

theorem admitDesc_plan {u v : State} {n k : Nat} {q : SubQ} {d head : List Byte} (h : descBad u n q d = none)
    (hk : descKind d = .plan) (hv : placeRead n (blockPlace q d 1 3 (fld d 8 8)) 0 128 u = (some head, v)) :
    admitDesc n k q d u = planStep2 n k q d head u v := by
  unfold descBad at h
  unfold admitDesc
  dsimp only
  rw [h, hk, hv]
  rfl

/-- Step 3 lets a descriptor take its journal entry, or keeps it waiting. -/
theorem entersOrWaits_of_passStep2 {c : Instr} {s u : State} {n k : Nat} {w : WaitDesc}
    (h : exec c s = .next (passStep2 n k w u)) : EntersOrWaits c s u n k w := by
  unfold passStep2 at h
  exact ⟨fun hm => by rw [h, if_pos hm], fun hm => by rw [h, if_neg (by simp [hm])]⟩

/-- NOP and CANCEL are taken by admission as descriptors of their kind. -/
theorem exec_nop_or_cancel {c : Instr} {kind : DescKind} {i : Inst} {sq : Fin 16}
    (hc : c = .nop i sq ∧ kind = .nop ∨ c = .cancel i sq ∧ kind = .cancel) (s : State) :
    exec c s = .next (admitNext kind i.val sq.val s) := by
  rcases hc with ⟨rfl, rfl⟩ | ⟨rfl, rfl⟩ <;> rfl

/-! ### A descriptor that waits -/

theorem reserveWaiting_of_waiting {s : State} {n k : Nat} {q : SubQ} {w : WaitDesc} (hq : sqAt s n k = some q)
    (hw : q.waiting = some w) (ho : admitOpen s n = true) (he : q.error = false) :
    reserveWaiting n k s = if mayEnter s n w then enterJournal n k w s else s := by
  unfold reserveWaiting
  rw [hq]
  dsimp only
  rw [hw]
  simp [ho, he]

/-! ### Acceptance -/

theorem jobOf_sqMod (n k : Nat) (f : SubQ → SubQ) (s : State) (jid : Nat) : jobOf (sqMod n k f s) jid = jobOf s jid := by
  unfold sqMod
  split <;> rfl

/-- A change of an SQ is what a later read of it finds. -/
theorem sqAt_sqMod_self (n k : Nat) (f : SubQ → SubQ) (s : State) : sqAt (sqMod n k f s) n k = (sqAt s n k).map f := by
  unfold sqMod
  cases h : sqAt s n k with
  | none => simpa using h
  | some q => simp [sqAt, tfind_tset_self]

/-- A host SQ stays one under a change that leaves NETWORK. -/
theorem sqMod_keeps_host {n k : Nat} {f : SubQ → SubQ} {s : State} (hf : ∀ x, (f x).network = x.network)
    (h : ∀ x, sqAt s n k = some x → x.network = false) : ∀ x, sqAt (sqMod n k f s) n k = some x → x.network = false := by
  intro x hx
  rw [sqAt_sqMod_self] at hx
  obtain ⟨y, hy, rfl⟩ := Option.map_eq_some_iff.mp hx
  rw [hf, h y hy]

/-- Moving the head of a host SQ changes no job. -/
theorem jobOf_advanceHead_host {s : State} {n k : Nat} (h : ∀ q, sqAt s n k = some q → q.network = false) (jid : Nat) :
    jobOf (advanceHead n k s) jid = jobOf s jid := by
  unfold advanceHead
  cases hq : sqAt s n k with
  | none => rfl
  | some q => simp [h q hq, jobOf_sqMod]

/-- On acceptance a NOP of a host SQ ends at once with status 0. -/
theorem acceptJob_nop {s : State} {j : Job} {um : Bool} (hj : jobOf s j.jid = some j) (hk : j.kind = .nop)
    (hn : j.network = false) (hq : ∀ x, sqAt s j.inst j.sq = some x → x.network = false) :
    jobOf (acceptJob j.jid um s) j.jid = some { j with
      jstate := .accepted, unmirrored := um, awaits := none, acceptedAt := s.time, ended := some ⟨0, {}⟩ } := by
  unfold acceptJob
  rw [hj]
  dsimp only
  rw [hk, hn]
  simp only [Bool.false_eq_true, if_false]
  rw [jobOf_advanceHead_host, jobOf_sqMod, jobOf_jobMod_self _ _ _ (by intro _; rfl),
    jobOf_jobMod_self _ _ _ (by intro _; rfl), hj]
  · simp only [Option.map_some, hk, hn]
  · exact sqMod_keeps_host (by intro _; rfl) hq

/-- The job that a CANCEL names, if it may be cancelled, fails with CANCELLED (R304). -/
theorem cancelActs_hit {s : State} {j t : Job} (ht : jobByAsn s j.inst (fld j.desc 0x30 1) (fld j.desc 0x28 8) = some t)
    (hne : t.jid ≠ j.jid) (hp : t.jstate ≠ .pending) (he : t.ended = none)
    (ho : ¬ (fld j.desc 0x30 1 = j.sq ∧ j.asn ≤ fld j.desc 0x28 8)) :
    cancelActs j s = jobMod j.jid (fun x => { x with ended := some ⟨0, {}⟩, resultLen := 1 }) (failJob t.jid 0x0601 {} s) := by
  have hcond : (t.jid ≠ j.jid && t.jstate ≠ .pending && t.ended.isNone &&
      !(fld j.desc 0x30 1 = j.sq && j.asn ≤ fld j.desc 0x28 8)) = true := by
    simpa [hne, hp, he, imp_iff_not_or] using ho
  unfold cancelActs
  dsimp only
  rw [ht]
  dsimp only
  rw [if_pos hcond]

/-- A CANCEL that names no job of its instance ends alone. -/
theorem cancelActs_miss {s : State} {j : Job} (h : jobByAsn s j.inst (fld j.desc 0x30 1) (fld j.desc 0x28 8) = none) :
    cancelActs j s = jobMod j.jid (fun x => { x with ended := some ⟨0, {}⟩ }) s := by
  unfold cancelActs
  dsimp only
  rw [h]

/-- Settles O36, by what the checks of admission make of the next descriptor, its kind and each place it can stop at. -/
theorem admissionCommands : Obligations.AdmissionCommands := by
  unfold Obligations.AdmissionCommands
  intro s u i sq q d
  have hplan : exec (.plan i sq) s = .next (admitNext .plan i.val sq.val s) := rfl
  refine ⟨fun hn c kind hc => ?_, fun hn => ?_, fun h => ?_, fun w hq hw hm ho he => ?_, fun hm hi => ?_, fun h => ?_,
    fun hm => ?_, fun j um hj hk hnet hq => acceptJob_nop hj hk hnet hq,
    fun j => ⟨fun t ht hne hp he ho => cancelActs_hit ht hne hp he ho, fun h => cancelActs_miss h⟩⟩
  · rw [exec_nop_or_cancel hc, admitNext_of_nextDesc hn]
    refine ⟨fun hd => by rw [if_neg hd], fun hd r hr => by rw [if_pos hd, admitDesc_bad hr], fun hd hr => ?_⟩
    have hp : kind ≠ .plan := by rcases hc with ⟨_, rfl⟩ | ⟨_, rfl⟩ <;> decide
    refine entersOrWaits_of_passStep2 ?_
    rw [exec_nop_or_cancel hc, admitNext_of_nextDesc hn, if_pos hd, admitDesc_checked hr hd hp]
  · rw [hplan, admitNext_of_nextDesc hn]
    refine ⟨fun hd => by rw [if_neg hd], fun hd r hr => by rw [if_pos hd, admitDesc_bad hr], fun hd hr head v hv => ?_⟩
    rw [if_pos hd, admitDesc_plan hr hd hv]
    unfold planStep2
    refine ⟨fun r hl => by rw [hl], fun hl res x hx => ?_⟩
    rw [hl, hx]
    refine ⟨fun r hres => by rw [hres], fun p spill hres w hw => ?_⟩
    subst hres hw
    refine entersOrWaits_of_passStep2 ?_
    rw [hplan, admitNext_of_nextDesc hn, if_pos hd, admitDesc_plan hr hd hv]
    unfold planStep2
    rw [hl, hx]
    rfl
  · exact ⟨congrArg _ (admitNext_closed h .nop), congrArg _ (admitNext_closed h .plan), congrArg _ (admitNext_closed h .cancel)⟩
  · have hx : exec (.spillReservation i sq) s = .next (reserveWaiting i.val sq.val s) := by
      show Host.Outcome.next (unlessHold s _) = _
      rw [unlessHold, if_neg hm]
    rw [hx, reserveWaiting_of_waiting hq hw ho he]
    exact ⟨fun h => by rw [if_pos h], fun h => by rw [if_neg (by simp [h])]⟩
  · show Host.Outcome.next (if (decide (s.mode = .hold) || decide (instSt s i.val = 0)) = true then s else _) = _
    rw [if_neg (by simp [hm, hi])]
  · show Host.Outcome.next (if (decide (s.mode = .hold) || decide (instSt s i.val = 0)) = true then s else _) = _
    rw [if_pos (by simpa using h)]
  · show Host.Outcome.next (unlessHold s _) = _
    rw [unlessHold, if_pos hm]

end Sys2Proof.Machine
end

section
/-! PROOFS. Completions, the coalescing timeout and deadlines (R22, R303, R305, R308, R411). -/

namespace Sys2Proof.Machine

/-! ### What the operations of a posting leave -/

theorem cqAt_cqMod_self (n k : Nat) (f : ComplQ → ComplQ) (s : State) : cqAt (cqMod n k f s) n k = (cqAt s n k).map f := by
  unfold cqMod
  cases h : cqAt s n k with
  | none => simpa using h
  | some q => simp [cqAt, tfind_tset_self]

theorem sqMod_jobs (n k : Nat) (f : SubQ → SubQ) (s : State) : (sqMod n k f s).js.jobs = s.js.jobs := by
  unfold sqMod
  split <;> rfl

theorem cqMod_jobs (n k : Nat) (f : ComplQ → ComplQ) (s : State) : (cqMod n k f s).js.jobs = s.js.jobs := by
  unfold cqMod
  split <;> rfl

theorem sendMsix_js (n v : Nat) (s : State) : (sendMsix n v s).js = s.js := by
  unfold sendMsix
  dsimp only
  split <;> rfl

theorem signalCq_jobs (n c : Nat) (s : State) : (signalCq n c s).js.jobs = s.js.jobs := by
  unfold signalCq
  split
  · rfl
  · split
    · rw [sendMsix_js, cqMod_jobs]
    · rw [cqMod_jobs]

/-- What an entry's vector does (R308): the message leaves, or the vector's pending bit is set. -/
theorem sendMsix_open {n v : Nat} {s : State} (h : vectorOpen s (instLink s n) n v = true) :
    sendMsix n v s = emit (.msix n v) s := by
  unfold sendMsix
  dsimp only
  rw [if_pos h]

theorem sendMsix_masked {n v : Nat} {s : State} (h : vectorOpen s (instLink s n) n v = false) :
    (sendMsix n v s).out = s.out ∧ vecKey (instLink s n) n v ∈ (sendMsix n v s).cx.pendingVecs := by
  unfold sendMsix
  dsimp only
  rw [if_neg (by simp [h])]
  exact ⟨rfl, List.mem_cons_self⟩

/-- A change of a CQ leaves everything but the instances as it was, so the vectors and the link too. -/
theorem cqMod_vectorOpen (n k : Nat) (f : ComplQ → ComplQ) (s : State) (link fn v m : Nat) :
    vectorOpen (cqMod n k f s) link fn v = vectorOpen s link fn v ∧ instLink (cqMod n k f s) m = instLink s m ∧
      (cqMod n k f s).out = s.out := by
  unfold cqMod
  split <;> exact ⟨rfl, rfl, rfl⟩

/-- Reserving a record slot changes the instance's record slots alone. -/
theorem reserveEr_frame (n : Nat) (p : Posting) (s : State) (k : Nat) :
    (∀ i j, od (reserveEr n p s) i j = od s i j) ∧ (reserveEr n p s).tw = s.tw ∧
      cqAt (reserveEr n p s) n k = cqAt s n k ∧ (reserveEr n p s).js.jobs = s.js.jobs := by
  unfold reserveEr
  split
  · exact ⟨fun _ _ => rfl, rfl, by simp [cqAt], rfl⟩
  · exact ⟨fun _ _ => rfl, rfl, rfl, rfl⟩

theorem sendItem_js (back : Bool) (r : MRec) (s : State) : (sendItem back r s).js = s.js :=
  (mirrorOnly_placed back 0 r s).js

theorem pairState_sendItem (back : Bool) (r : MRec) (s : State) : pairState (sendItem back r s) = pairState s :=
  (mirrorOnly_placed back 0 r s).od 0x2C00 1 (by decide) (by decide)

theorem rasLog_js (kind n : Nat) (tail : List Byte) (s : State) : (rasLog kind n tail s).js = s.js := rfl

/-- A freed journal entry is gone. -/
theorem freeEntry_gone (jid : Nat) (s : State) : ∀ x ∈ (freeEntry jid s).js.jobs, x.jid ≠ jid := by
  unfold freeEntry
  dsimp only
  cases h : jobOf (releaseSpill jid s) jid with
  | none =>
    intro x hx
    have := List.find?_eq_none.mp h x hx
    simpa using this
  | some j =>
    intro x hx
    simpa using (List.mem_filter.mp hx).2

/-- A retired job of a host SQ is in the journal no longer. -/
theorem retireJob_gone (j : Job) (p : Posting) (s : State) (h : j.sender = none) :
    ∀ x ∈ (retireJob j p s).js.jobs, x.jid ≠ j.jid := by
  have hlog : ∀ (b : List Byte) (u : State), (if fld p.entry 0x14 2 / 256 = 0 then u else rasLog 1 j.inst b u).js = u.js := by
    intro b u
    split
    · rfl
    · exact rasLog_js _ _ _ _
  have hsig : ∀ u : State, (if j.noIrq = true then u else signalCq j.inst p.cq u).js.jobs = u.js.jobs := by
    intro u
    split
    · rfl
    · exact signalCq_jobs _ _ _
  unfold retireJob
  dsimp only
  rw [h]
  dsimp only
  rw [hsig]
  cases p.er with
  | none =>
    dsimp only
    show ∀ x ∈ (sqMod _ _ _ _).js.jobs, _
    rw [sqMod_jobs]
    exact freeEntry_gone _ _
  | some e =>
    dsimp only
    rw [hlog]
    show ∀ x ∈ (sqMod _ _ _ _).js.jobs, _
    rw [sqMod_jobs]
    exact freeEntry_gone _ _

/-- The job that an ASN finds is the one asked for. -/
theorem jobByAsn_spec {s : State} {n sq asn : Nat} {j : Job} (h : jobByAsn s n sq asn = some j) :
    j.inst = n ∧ j.sq = sq ∧ j.asn = asn ∧ j.gen = instGen s n := by
  have := List.find?_some h
  simpa [and_assoc] using this

/-! ### The place of a completion -/

/-- Where the error record of a posting lies, or all ones without one (Table 14-9). -/
def recordOffset (er : Option (Nat × List Byte)) : Nat := (er.map fun x => 64 * x.1).getD 0xFFFFFFFF

/-- A completion that takes a place takes the next slot of its SQ's CQ, with the entry of Table 14-9. -/
theorem placeCompl_ok {s : State} {c : Compl} {p : Posting} {q : SubQ} {cq : ComplQ} (h : placeCompl s c = .ok p)
    (hq : sqAt s c.inst c.sq = some q) (hc : cqAt s c.inst q.cq = some cq) :
    p.cq = q.cq ∧ p.pos = cq.tail ∧ cq.tail - cq.head < cq.entries ∧
      p.entry = cqEntry c.asn c.len (recordOffset p.er) c.status c.gen c.sq c.source (1 - cq.tail / cq.entries % 2) := by
  unfold placeCompl at h
  rw [hq] at h
  dsimp only at h
  rw [hc] at h
  dsimp only at h
  split at h
  · cases h
  · rename_i hroom
    have hlt : cq.tail - cq.head < cq.entries := by
      simp only [Bool.or_eq_true, decide_eq_true_eq, not_or] at hroom
      omega
    cases her : c.er with
    | none =>
      rw [her] at h
      cases h
      exact ⟨rfl, rfl, hlt, rfl⟩
    | some er =>
      rw [her] at h
      dsimp only at h
      cases hk : erFree s c.inst with
      | none => rw [hk] at h; cases h
      | some k =>
        rw [hk] at h
        cases h
        exact ⟨rfl, rfl, hlt, rfl⟩

/-! ### The next completion of an SQ -/

/-- Where completions are written and no refusal waits, COMPLETION_POST is the posting of the SQ's next job. -/
theorem postCompletions_open {s : State} {n k : Nat} (ho : postOpen s n = true) (hr : (inst s n).refusals = []) :
    postCompletions n k s = postJob n k s := by
  unfold postCompletions
  rw [if_pos ho, hr]
  rfl

theorem postJob_unended {s : State} {n k : Nat} {q : SubQ} (hq : sqAt s n k = some q)
    (h : jobByAsn s n k q.postAsn = none ∨ ∃ j, jobByAsn s n k q.postAsn = some j ∧ j.ended = none) :
    postJob n k s = s := by
  unfold postJob
  rw [hq]
  dsimp only
  rcases h with h | ⟨j, h, he⟩
  · rw [h]
  · rw [h]
    dsimp only
    rw [he]

/-- A job in the POSTING state: what the entry holds that is not known before it is placed (Table 20-6). -/
def postingJob (s : State) (n : Nat) (j : Job) (p : Posting) (awaits : Option Nat) : Job :=
  { j with
    jstate := .posting, cqPos := p.pos, erSlot := p.er.map (·.1), awaits := awaits
    cqSlot := (match cqAt s n p.cq with
      | some c => p.pos % c.entries
      | none => 0)
    entry := p.entry ++ leBytes 4 (inst s n).erSeq }

/-- The state in which the POST record of a posting has been sent (R411). -/
def postSent (s : State) (n : Nat) (p : Posting) (x : Job) : State :=
  sendItem false (.post (journalEntry x)) (jobMod x.jid (fun _ => x) (reserveEr n p s))

/-- The posting of an entry, and what follows if it was written (R22, R23). -/
def postEntry (n : Nat) (j : Job) (p : Posting) (s : State) : State :=
  match writePosting n p s with
  | (false, s) => s
  | (true, s) => retireJob j p s

/-- What becomes of an ended job whose completion has a place: its entry is written, or its POST record leaves first. -/
def postPlaced (n : Nat) (j : Job) (e : JobEnd) (p : Posting) (s : State) : State :=
  if pairState s = 2 || pairState s = 3 then
    let x := postingJob s n j p (if pairState s = 3 then some s.tw.nextRec else none)
    let u := postSent s n p x
    if pairState s = 3 then u else postEntry n x (heldPosting u x e p.cq) u
  else postEntry n j p (reserveEr n p s)

section
variable {s : State} {n k : Nat} {q : SubQ} {j : Job} {e : JobEnd}
  (hq : sqAt s n k = some q) (hj : jobByAsn s n k q.postAsn = some j) (he : j.ended = some e) (hp : j.jstate ≠ .posting)
include hq hj he hp

theorem postJob_inFlight (hf : sinkInFlight s j.jid = true) : postJob n k s = s := by
  unfold postJob
  rw [hq]
  dsimp only
  rw [hj]
  dsimp only
  rw [he]
  dsimp only
  rw [if_neg hp, if_pos hf]

variable (hf : sinkInFlight s j.jid = false)
include hf

theorem postJob_noRoom (h : placeCompl s (jobCompl j e) = .error .cq) : postJob n k s = s := by
  unfold postJob
  rw [hq]
  dsimp only
  rw [hj]
  dsimp only
  rw [he]
  dsimp only
  rw [if_neg hp, if_neg (by simp [hf]), h]

/-- What becomes of a completion that has a place, by the pairing state (R407, R411). -/
theorem postJob_placed {p : Posting} (h : placeCompl s (jobCompl j e) = .ok p) :
    (pairState s ≠ 2 → pairState s ≠ 3 → postJob n k s = postEntry n j p (reserveEr n p s)) ∧
    (pairState s = 2 → postJob n k s = postEntry n (postingJob s n j p none)
      (heldPosting (postSent s n p (postingJob s n j p none)) (postingJob s n j p none) e p.cq)
      (postSent s n p (postingJob s n j p none))) ∧
    (pairState s = 3 → postJob n k s = postSent s n p (postingJob s n j p (some s.tw.nextRec))) := by
  obtain ⟨hod, htw, hcq, -⟩ := reserveEr_frame n p s p.cq
  have hpair : pairState (reserveEr n p s) = pairState s := hod _ _
  have hrun : postJob n k s = postPlaced n j e p s := by
    unfold postJob
    rw [hq]
    dsimp only
    rw [hj]
    dsimp only
    rw [he]
    dsimp only
    rw [if_neg hp, if_neg (by simp [hf]), h]
    dsimp only
    rw [hpair, htw, hcq, pairState_sendItem, show ∀ (f : Job → Job) (u : State), pairState (jobMod j.jid f u) = pairState u from
      fun _ _ => rfl, hpair, ← he]
    rfl
  rw [hrun]
  unfold postPlaced
  refine ⟨fun h2 h3 => ?_, fun h2 => ?_, fun h3 => ?_⟩
  · rw [if_neg (by simp [h2, h3])]
  · simp [h2]
  · simp [h3]

end

theorem postEntry_failed {n : Nat} {j : Job} {p : Posting} {s v : State} (h : writePosting n p s = (false, v)) :
    postEntry n j p s = v := by
  unfold postEntry
  rw [h]

theorem postEntry_written {n : Nat} {j : Job} {p : Posting} {s v : State} (h : writePosting n p s = (true, v)) :
    postEntry n j p s = retireJob j p v := by
  unfold postEntry
  rw [h]

/-- Once its POST record has been sent, the job is POSTING as the record says. -/
theorem jobOf_postSent {s : State} {n : Nat} {p : Posting} {x y : Job} (h : jobOf s x.jid = some y) :
    jobOf (postSent s n p x) x.jid = some x := by
  unfold postSent
  rw [jobOf_of_jobs (congrArg JobsState.jobs (sendItem_js _ _ _)), jobOf_jobMod_at _ _ _ (by intro _ _; rfl),
    jobOf_of_jobs (reserveEr_frame n p s 0).2.2.2, h]
  rfl

/-! ### The coalescing timeout -/

/-- The CQ has no unsignalled entry, and its vector is sent or pending. -/
theorem coalesce_sent {s : State} {n k : Nat} {q : ComplQ} (hq : cqAt s n k = some q) {u : State}
    (hu : u = sendMsix n q.vector (cqMod n k (fun q => { q with unsignalled := 0 }) s)) :
    cqAt u n k = some { q with unsignalled := 0 } ∧
    (vectorOpen s (instLink s n) n q.vector = true → u.out = .msix n q.vector :: s.out) ∧
    (vectorOpen s (instLink s n) n q.vector = false → u.out = s.out ∧
      vecKey (instLink s n) n q.vector ∈ u.cx.pendingVecs) := by
  subst hu
  obtain ⟨hv, hl, ho⟩ := cqMod_vectorOpen n k (fun q => { q with unsignalled := 0 }) s (instLink s n) n q.vector n
  refine ⟨?_, fun h => ?_, fun h => ?_⟩
  · have : ∀ u : State, cqAt (sendMsix n q.vector u) n k = cqAt u n k := by
      intro u
      unfold cqAt inst
      rw [sendMsix_js]
    rw [this, cqAt_cqMod_self, hq]
    rfl
  · rw [sendMsix_open (by rw [hl, hv, h])]
    exact congrArg _ ho
  · have := sendMsix_masked (s := cqMod n k (fun q => { q with unsignalled := 0 }) s) (n := n) (v := q.vector) (by rw [hl, hv, h])
    rw [hl] at this
    exact ⟨this.1.trans ho, this.2⟩

/-- The failure arbiter fails a job with the status and record given (R479). -/
theorem failJob_jobFails (s : State) (jid status : Nat) (er : ErrRec) : JobFails s (failJob jid status er s) jid status er := by
  intro j hj he
  exact failJob_fails jid status er s j hj he

/-- Settles O40, by where the posting of the SQ's next job stops, the pairing state it finds, and what the two timers find. -/
theorem completionCommands : Obligations.CompletionCommands := by
  unfold Obligations.CompletionCommands
  intro s i sq
  have hpost : exec (.completionPost i sq) s = .next (postCompletions i.val sq.val s) := rfl
  have hcoal : exec (.coalesceTimeout i sq) s = .next (match cqAt s i.val sq.val with
    | some q =>
      if q.unsignalled = 0 then s
      else sendMsix i.val q.vector (cqMod i.val sq.val (fun q => { q with unsignalled := 0 }) s)
    | none => s) := rfl
  have hdead : ∀ asn, exec (.deadline i sq asn) s = .next (unlessHold s (match jobByAsn s i.val sq.val asn with
    | some j =>
      if j.deadline = 0 || j.jstate = .pending || instSt s i.val = 4 then s else failJob j.jid 0x0402 {} s
    | none => s)) := fun _ => rfl
  refine ⟨fun h => ?_, fun q ho hr hq => ?_, fun q hq => ?_, fun h => ?_, fun asn j hj => ?_, fun asn h => ?_⟩
  · rw [hpost, postCompletions, if_neg (by simp [h])]
  · rw [hpost, postCompletions_open ho hr]
    refine ⟨fun h => by rw [postJob_unended hq h], fun j e hj he hp hf => by rw [postJob_inFlight hq hj he hp hf],
      fun j e hj he hp hf => ⟨fun h => by rw [postJob_noRoom hq hj he hp hf h], fun p h => ?_⟩⟩
    obtain ⟨hi, hsq, -⟩ := jobByAsn_spec hj
    obtain ⟨halone, hsync, hpaired⟩ := postJob_placed hq hj he hp hf h
    refine ⟨fun c hc => ?_, fun h2 h3 v hv => ?_, fun h2 h3 v hv => ?_, fun h2 x p' v hx hv hp' => ?_, fun h3 => ?_⟩
    · obtain ⟨h1, h2, h3, h4⟩ := placeCompl_ok h (q := q) (cq := c) (by simpa [jobCompl, hi, hsq] using hq)
        (by simpa [jobCompl, hi] using hc)
      refine ⟨h1, h2, h3, h4.trans ?_⟩
      rw [← hsq]
      cases p.er <;> rfl
    · rw [halone h2 h3, postEntry_failed hv]
    · rw [halone h2 h3, postEntry_written hv]
      exact ⟨rfl, retireJob_gone j p v⟩
    · have hxx : x = postingJob s i.val j p none := hx
      have hvv : v = postSent s i.val p x := by rw [hv, postSent, show x.jid = j.jid by rw [hx]]
      rw [hsync h2, ← hxx, ← hvv, ← hp']
      exact ⟨fun y hy => by rw [postEntry_failed hy], fun y hy => by rw [postEntry_written hy]⟩
    · refine ⟨_, hpost, fun x hx => ⟨postingJob s i.val j p (some s.tw.nextRec), ?_, rfl, rfl, rfl⟩⟩
      rw [postCompletions_open ho hr, hpaired h3]
      exact jobOf_postSent (x := postingJob s i.val j p (some s.tw.nextRec)) hx
  · rw [hcoal, hq]
    dsimp only
    refine ⟨fun h => by rw [if_pos h], fun h => ⟨_, ?_, coalesce_sent hq rfl⟩⟩
    rw [hcoal, hq]
    dsimp only
    rw [if_neg h]
  · rw [hcoal, h]
  · refine ⟨fun hm hd hp hi => ⟨_, ?_, failJob_jobFails s j.jid 0x0402 {}⟩, fun h => ?_⟩
    · rw [hdead, hj]
      dsimp only
      rw [unlessHold, if_neg hm, if_neg (by simp [hd, hp, hi])]
    · rw [hdead, hj, unlessHold]
      dsimp only
      rcases h with h | h
      · rw [if_pos h]
      · have hc : (decide (j.deadline = 0) || decide (j.jstate = .pending) || decide (instSt s i.val = 4)) = true := by
          simpa [or_assoc] using h
        rw [if_pos hc, ite_self]
  · rw [hdead, h, unlessHold]
    exact congrArg _ (ite_self _)

end Sys2Proof.Machine
end

section
/-! PROOFS. Streams between two stages, their ends, finishing and the release of units (R18, R19, R66, R73, R386). -/

namespace Sys2Proof.Machine

/-! ### The next transfer of a stream -/

theorem handWhole_plain {e : StreamEnt} (he : e.nullable = false) (xs : List Elem) (q : InPort) :
    (handWhole e xs q).buf = q.buf ++ xs := by
  induction xs generalizing q with
  | nil => simp [handWhole]
  | cons x xs ih => rw [handWhole, ih]; simp [handElem, he]

/-- On a NULLABLE stream elements keep what their bits of the validity word say (R56). -/
theorem handWhole_nullable {e : StreamEnt} (he : e.nullable = true) (xs : List Elem) (bits : List Bool) (q : InPort)
    (hv : q.valid = xs.map Option.isSome ++ bits) : (handWhole e xs q).buf = q.buf ++ xs := by
  induction xs generalizing q with
  | nil => simp [handWhole]
  | cons x xs ih =>
    have hx : handElem e q x = x := by
      unfold handElem
      rw [if_pos he, hv]
      cases x <;> rfl
    rw [handWhole, ih _ (by simp [hv])]
    simp [hx]

/-- The first elements of a stream that is neither NULLABLE nor VARBYTES hand over together. -/
theorem handOver_plain {img : List Byte} {e : StreamEnt} {p : OutPort} {q : InPort} (he : e.nullable = false)
    (ht : e.ty ≠ tyVar) {n : Nat} (hn : n = min p.buf.length (max 1 (64 / max 1 (elemWidth img e.ty e.layout)))) :
    (handOver img e p q).out = { p with buf := p.buf.drop n, block := p.block - n } ∧
      (handOver img e p q).into.buf = q.buf ++ p.buf.take n := by
  have : transferCount img e p.buf.length = n := hn.symm
  unfold handOver
  simp only [he, ht, Bool.false_and, Bool.false_eq_true, if_false, this]
  exact ⟨trivial, handWhole_plain he _ _⟩

/-- The next bytes of a VARBYTES value leave; with the last of them the value arrives whole (R19). -/
theorem handOver_var {img : List Byte} {e : StreamEnt} {p : OutPort} {q : InPort} (he : e.nullable = false)
    (ht : e.ty = tyVar) {b : List Byte} {rest : List Elem} (hp : p.buf = some b :: rest) (hb : b.length < 2 ^ 32)
    (hq : q.part = (leBytes 4 b.length ++ b).take p.sent) :
    (p.sent + 64 < 4 + b.length → (handOver img e p q).out = { p with sent := p.sent + 64 } ∧
      (handOver img e p q).into = { q with part := (leBytes 4 b.length ++ b).take (p.sent + 64) }) ∧
    (4 + b.length ≤ p.sent + 64 → (handOver img e p q).out.buf = rest ∧ (handOver img e p q).out.sent = 0 ∧
      (handOver img e p q).into.buf = q.buf ++ [some b]) := by
  have hall : elemBytes e.ty ((p.buf.headD none).getD []) = leBytes 4 b.length ++ b := by simp [elemBytes, ht, hp]
  have hlen : (leBytes 4 b.length ++ b).length = 4 + b.length := by simp
  have hpart : q.part ++ ((leBytes 4 b.length ++ b).drop p.sent).take 64 = (leBytes 4 b.length ++ b).take (p.sent + 64) := by
    rw [hq, List.take_add]
  unfold handOver
  simp only [he, Bool.false_and, Bool.false_eq_true, if_false, if_pos ht, hall, hpart, hlen]
  refine ⟨fun h => ?_, fun h => ?_⟩
  · rw [if_pos h]
    exact ⟨rfl, rfl⟩
  · rw [if_neg (by omega)]
    have htake : (leBytes 4 b.length ++ b).take (p.sent + 64) = leBytes 4 b.length ++ b := List.take_of_length_le (by omega)
    refine ⟨by simp [hp], rfl, ?_⟩
    have hfld : fld (leBytes 4 b.length ++ b) 0 4 = b.length := by
      rw [fld, slice_append_left _ _ _ _ (by simp), slice_all _ _ (leBytes_length 4 _), leNat_leBytes]
      omega
    have hval : slice (leBytes 4 b.length ++ b) 4 b.length = b := by
      rw [slice_append_right _ _ _ _ (by simp), leBytes_length, Nat.sub_self, slice_whole]
    rw [handWhole_plain he, htake, hfld, hval]

theorem handOver_word {img : List Byte} {e : StreamEnt} {p : OutPort} {q : InPort} (he : e.nullable = true)
    (hb : p.block = 0) : (handOver img e p q).out = { p with block := min 64 p.buf.length } ∧
      (handOver img e p q).into = { q with valid := (p.buf.take 64).map Option.isSome } := by
  unfold handOver
  have : p.buf.take (min 64 p.buf.length) = p.buf.take 64 := by
    rw [← List.take_take]; simp
  simp [he, hb, this]

theorem handOver_nullable {img : List Byte} {e : StreamEnt} {p : OutPort} {q : InPort} (he : e.nullable = true)
    (ht : e.ty ≠ tyVar) {n : Nat} (hb : 0 < p.block)
    (hn : n = min (min p.block p.buf.length) (max 1 (64 / max 1 (elemWidth img e.ty e.layout))))
    (hv : q.valid = (p.buf.take p.block).map Option.isSome) :
    (handOver img e p q).out = { p with buf := p.buf.drop n, block := p.block - n } ∧
      (handOver img e p q).into.buf = q.buf ++ p.buf.take n := by
  have hcount : transferCount img e (min p.block p.buf.length) = n := hn.symm
  have hle : n ≤ p.block := by omega
  have hb' : p.block ≠ 0 := by omega
  unfold handOver
  simp only [he, ht, hb', decide_false, Bool.and_false, Bool.false_eq_true, if_false, if_true, hcount]
  refine ⟨trivial, handWhole_nullable he _ (((p.buf.take p.block).drop n).map Option.isSome) _ ?_⟩
  rw [hv, ← List.map_append]
  have htake : p.buf.take n = (p.buf.take p.block).take n := by rw [List.take_take, min_eq_left hle]
  rw [htake, List.take_append_drop]

/-! ### What happens to the ports of a task -/

/-- The ports of the task in a slot. -/
def PortsAt (s : State) (k : Nat) (ins : List InPort) (outs : List OutPort) : Prop :=
  ∃ t, taskAt s k = some t ∧ t.ins = ins ∧ t.outs = outs

theorem portsAt_of_tasks {s u : State} {k : Nat} {ins : List InPort} {outs : List OutPort} (h : u.js.tasks = s.js.tasks)
    (hp : PortsAt s k ins outs) : PortsAt u k ins outs := by
  obtain ⟨t, ht, hi⟩ := hp
  exact ⟨t, by rw [taskAt_of_tasks h, ht], hi⟩

theorem PortsAt.outAt {s : State} {k : Nat} {ins : List InPort} {outs : List OutPort} {i : Nat} {o : Option OutPort}
    (hp : PortsAt s k ins outs) (ho : outs[i]? = o) : ∃ t, taskAt s k = some t ∧ t.outs[i]? = o := by
  obtain ⟨t, ht, -, rfl⟩ := hp
  exact ⟨t, ht, ho⟩

theorem PortsAt.inAt {s : State} {k : Nat} {ins : List InPort} {outs : List OutPort} {i : Nat} {q : Option InPort}
    (hp : PortsAt s k ins outs) (hq : ins[i]? = q) : ∃ t, taskAt s k = some t ∧ t.ins[i]? = q := by
  obtain ⟨t, ht, rfl, -⟩ := hp
  exact ⟨t, ht, hq⟩

theorem portsAt_taskMod_self {s : State} {k : Nat} {f : Task → Task} {t : Task} (ht : taskAt s k = some t) :
    PortsAt (taskMod k f s) k (f t).ins (f t).outs :=
  ⟨f t, by rw [taskAt_taskMod_self, ht]; rfl, rfl, rfl⟩

theorem portsAt_taskMod_ne {s : State} {k m : Nat} {f : Task → Task} {ins : List InPort} {outs : List OutPort} (h : k ≠ m)
    (hp : PortsAt s k ins outs) : PortsAt (taskMod m f s) k ins outs := by
  obtain ⟨t, ht, hi⟩ := hp
  exact ⟨t, by rw [taskAt_taskMod_ne _ _ _ _ h, ht], hi⟩

/-- A change of a task that leaves its ports. -/
theorem portsAt_taskMod {s : State} {k m : Nat} {f : Task → Task} {ins : List InPort} {outs : List OutPort}
    (hf : ∀ t, (f t).ins = t.ins ∧ (f t).outs = t.outs) (hp : PortsAt s k ins outs) : PortsAt (taskMod m f s) k ins outs := by
  by_cases e : k = m
  · subst e
    obtain ⟨t, ht, rfl, rfl⟩ := hp
    have h := portsAt_taskMod_self (f := f) ht
    rwa [(hf t).1, (hf t).2] at h
  · exact portsAt_taskMod_ne e hp

theorem portsAt_setFlags {s : State} {k : Nat} {ins : List InPort} {outs : List OutPort} (m : Nat) (fl : BitVec 32)
    (hp : PortsAt s k ins outs) : PortsAt (setFlags m fl s) k ins outs := by
  obtain ⟨t, ht, hi, ho⟩ := hp
  by_cases e : k = m
  · subst e
    obtain ⟨t', ht', h1, h2, -⟩ := taskAt_setFlags k fl s t ht
    exact ⟨t', ht', h1.trans hi, h2.trans ho⟩
  · exact ⟨t, by rw [taskAt_setFlags_ne _ _ _ _ e, ht], hi, ho⟩

theorem portsAt_flagsArrive {s : State} {k : Nat} {ins : List InPort} {outs : List OutPort} (m : Nat) (t : Task)
    (fl : BitVec 32) (hp : PortsAt s k ins outs) : PortsAt (flagsArrive m t fl s) k ins outs :=
  flagsArrive_holds (P := fun x => PortsAt x k ins outs) m t fl (fun fl _ h => portsAt_setFlags m fl h) (fun _ _ h => portsAt_of_tasks rfl h) s hp

theorem portsAt_engMod {s : State} {k : Nat} {ins : List InPort} {outs : List OutPort} (m : Nat) (f : Eng → Eng)
    (hp : PortsAt s k ins outs) : PortsAt (engMod m f s) k ins outs :=
  portsAt_taskMod (by intro _; exact ⟨rfl, rfl⟩) hp

theorem portsAt_showState {s : State} {k : Nat} {ins : List InPort} {outs : List OutPort} (m v : Nat)
    (hp : PortsAt s k ins outs) : PortsAt (showState m v s) k ins outs := by
  unfold showState
  split
  · exact hp
  · exact portsAt_of_tasks (congrArg JobsState.tasks (setUnitState_js _ _ _)) (portsAt_engMod _ _ hp)

/-- A Sieve whose stall ends keeps its ports. -/
theorem portsAt_endStall {s : State} {k : Nat} {ins : List InPort} {outs : List OutPort} (m : Nat)
    (hp : PortsAt s k ins outs) : PortsAt (endStall m s) k ins outs := by
  have hstall : ∀ t f, PortsAt (engMod m f (countStall t s)) k ins outs := fun t f =>
    portsAt_engMod _ _ (portsAt_of_tasks (congrArg JobsState.tasks (countStall_js _ _)) hp)
  unfold endStall
  cases taskAt s m with
  | none => exact hp
  | some t =>
    dsimp only
    cases t.eng.sv.stall with
    | none => exact hp
    | some _ =>
      exact iteInduction (motive := fun x => PortsAt x k ins outs) (fun _ => hp) fun _ =>
        iteInduction (motive := fun x => PortsAt x k ins outs) (fun _ => portsAt_showState _ _ (hstall _ _))
          fun _ => portsAt_engMod _ _ (hstall _ _)

/-! ### STREAM_TRANSFER and END_OF_STREAM -/

theorem lmod_getElem?_self {α : Type} (l : List α) (n : Nat) (f : α → α) : (lmod l n f)[n]? = (l[n]?).map f := by
  induction l generalizing n with
  | nil => simp [lmod]
  | cons a l ih => cases n <;> simp [lmod, ih]

section
variable {s : State} {slot port : Nat} {t : Task} {p : OutPort} {k : Nat} {c : Task} {e : StreamEnt} {q : InPort}
  (hJ : Joined s slot port t p k c e q)
include hJ

theorem streamTransfer_stays (h : p.buf = [] ∨ (q.buf ≠ [] ∧ c.eng.done = false)) : streamTransfer slot port s = s := by
  obtain ⟨ht, hp, he, hcons, hc, hne, hq, hrun, hmove, -⟩ := hJ
  unfold streamTransfer
  rw [ht]
  dsimp only
  rw [hp, he]
  dsimp only
  rcases h with h | ⟨h1, h2⟩
  · rw [if_pos (by simp [h])]
  · split
    · rfl
    · rw [hcons]
      dsimp only
      rw [hq]
      dsimp only
      rw [if_pos (by simp [h1, h2])]

/-- The transfer leaves the output port and joins the consumer's port; a consumer that has formed its result keeps nothing. -/
theorem streamTransfer_hands (hp0 : p.buf ≠ []) (hq0 : q.buf = [] ∨ c.eng.done = true) :
    (∃ t', taskAt (streamTransfer slot port s) slot = some t' ∧
      t'.outs[port]? = some (handOver (taskImg s t) e p q).out) ∧
    (∃ c', taskAt (streamTransfer slot port s) k = some c' ∧ c'.ins[e.consPort]? = some (if c.eng.done
      then { (handOver (taskImg s t) e p q).into with buf := [] } else (handOver (taskImg s t) e p q).into)) := by
  obtain ⟨ht, hp, he, hcons, hc, hne, hq, hrun, hmove, -⟩ := hJ
  unfold streamTransfer
  rw [ht]
  dsimp only
  rw [hp, he]
  dsimp only
  rw [if_neg (by simp [hp0, hrun]), hcons]
  dsimp only
  rw [hq]
  dsimp only
  rw [if_neg (by rcases hq0 with h | h <;> simp [hmove, h])]
  generalize handOver (taskImg s t) e p q = h
  have hports : ∀ {u : State} {m : Nat} {ins : List InPort} {outs : List OutPort}, PortsAt u m ins outs →
      PortsAt (flagsArrive slot t flagOutput (flagsArrive k c flagInput (endStall slot u))) m ins outs :=
    fun hu => portsAt_flagsArrive _ _ _ (portsAt_flagsArrive _ _ _ (portsAt_endStall _ hu))
  exact ⟨(hports (portsAt_taskMod_ne hne.symm (portsAt_taskMod_self ht))).outAt (by rw [lmod_getElem?_self, hp]; rfl),
    (hports (portsAt_taskMod_self ((taskAt_taskMod_ne _ _ _ _ hne).trans hc))).inAt (by rw [lmod_getElem?_self, hq]; rfl)⟩

theorem endOfStream_stays (h : p.ended = false ∨ p.acked = true ∨ p.buf ≠ []) : endOfStream slot port s = s := by
  obtain ⟨ht, hp, he, -⟩ := hJ
  unfold endOfStream
  rw [ht]
  dsimp only
  rw [hp, he]
  dsimp only
  rw [if_pos (by rcases h with h | h | h <;> simp [h])]

/-- The end of an output that has left is acknowledged and ends the consumer's port (R66). -/
theorem endOfStream_ends (h1 : p.ended = true) (h2 : p.acked = false) (h3 : p.buf = []) :
    (∃ t', taskAt (endOfStream slot port s) slot = some t' ∧ t'.outs[port]? = some { p with acked := true }) ∧
    (∃ c', taskAt (endOfStream slot port s) k = some c' ∧ c'.ins[e.consPort]? = some { q with ended := true }) := by
  obtain ⟨ht, hp, he, hcons, hc, hne, hq, hrun, hmove, -⟩ := hJ
  unfold endOfStream
  rw [ht]
  dsimp only
  rw [hp, he]
  dsimp only
  rw [if_neg (by simp [h1, h2, h3, hrun]), hcons]
  dsimp only
  rw [if_neg (by simp [hmove])]
  exact ⟨(portsAt_flagsArrive _ _ _ (portsAt_taskMod_ne hne.symm (portsAt_taskMod_self ht))).outAt
      (by rw [lmod_getElem?_self, hp]; rfl),
    (portsAt_flagsArrive _ _ _ (portsAt_taskMod_self ((taskAt_taskMod_ne _ _ _ _ hne).trans hc))).inAt
      (by rw [lmod_getElem?_self, hq]; rfl)⟩

end

/-! ### STAGE_FINISH -/

theorem mem_taskMod {s : State} {k : Nat} {f : Task → Task} {e : Nat × Task} (h : e ∈ (taskMod k f s).js.tasks) :
    (e.1 = k ∧ ∃ x, e.2 = f x) ∨ (e.1 ≠ k ∧ e ∈ s.js.tasks) := by
  obtain ⟨⟨i, x⟩, hx, rfl⟩ := List.mem_map.mp h
  by_cases hi : i = k
  · exact .inl ⟨by simp [hi], x, by simp [hi]⟩
  · exact .inr ⟨by simp [hi], by simpa [hi] using hx⟩

/-- Stopping the task of a slot leaves what the other slots hold. -/
theorem mem_stopTask_ne {s : State} {k : Nat} {c : Bool} {e : Nat × Task} (h : e ∈ (stopTask k c s).js.tasks) (hne : e.1 ≠ k) :
    e ∈ s.js.tasks := by
  unfold stopTask at h
  cases ht : taskAt s k with
  | none => simpa [ht] using h
  | some t =>
    rw [ht] at h
    rcases mem_taskMod h with ⟨hk, -⟩ | ⟨-, h⟩
    · exact absurd hk hne
    · simpa only [haltChannel_js, clearGroups_js, countStall_js, leaveReady_js, leaveRunning_tasks] using h

/-- The state in which a finished stage's task is FREE_PENDING (R66, R242). -/
def stageLeft (slot : Nat) (s : State) : State := taskMod slot (fun t => { t with finished := true }) (stopTask slot false s)

theorem taskAt_stageLeft {s : State} {slot : Nat} {t : Task} (h : taskAt s slot = some t) :
    ∃ t', taskAt (stageLeft slot s) slot = some t' ∧ t'.run = .freePending ∧ t'.finished = true := by
  unfold stageLeft
  rw [taskAt_taskMod_self, taskAt_stopTask_self _ _ _ _ h]
  exact ⟨_, rfl, rfl, rfl⟩

theorem taskAt_stageLeft_ne {s : State} {slot k : Nat} (h : k ≠ slot) : taskAt (stageLeft slot s) k = taskAt s k := by
  unfold stageLeft
  rw [taskAt_taskMod_ne _ _ _ _ h, taskAt_stopTask_ne _ _ _ _ h]

theorem jobOf_stageLeft (slot jid : Nat) (s : State) : jobOf (stageLeft slot s) jid = jobOf s jid :=
  jobOf_of_jobs (stopTask_jobs slot false s) jid

/-- Whether a stage of a phase other than the one that has just finished is unfinished. -/
def phaseOpen (s : State) (t : Task) : Bool := s.js.tasks.any fun e => e.2.jid = t.jid && e.2.phase = t.phase && !e.2.finished

theorem stageFinish_incomplete {s : State} {slot : Nat} {t : Task} (ht : taskAt s slot = some t) (h : stageComplete t = false) :
    stageFinish slot s = s := by
  unfold stageFinish
  rw [ht]
  simp [h]

theorem stageFinish_complete {s : State} {slot : Nat} {t : Task} (ht : taskAt s slot = some t) (h : stageComplete t = true) :
    stageFinish slot s =
      if phaseOpen (stageLeft slot s) t then stageLeft slot s else phaseDone t.jid t.phase (stageLeft slot s) := by
  unfold stageFinish
  rw [ht]
  dsimp only
  rw [if_neg (by simp [h])]
  rfl

theorem phaseOpen_of_unfinished {s : State} {slot k : Nat} {t x : Task} (hx : taskAt s k = some x) (hk : k ≠ slot)
    (hj : x.jid = t.jid) (hp : x.phase = t.phase) (hf : x.finished = false) : phaseOpen (stageLeft slot s) t = true := by
  rw [← taskAt_stageLeft_ne hk] at hx
  exact List.any_eq_true.mpr ⟨_, tfind_entry hx, by simp [hj, hp, hf]⟩

theorem phaseOpen_of_finished {s : State} {slot : Nat} {t : Task}
    (h : ∀ e ∈ s.js.tasks, e.1 ≠ slot → e.2.jid = t.jid → e.2.phase = t.phase → e.2.finished = true) :
    phaseOpen (stageLeft slot s) t = false := by
  refine List.any_eq_false.mpr fun e he => ?_
  rcases mem_taskMod he with ⟨-, x, hx⟩ | ⟨hne, he⟩
  · simp [hx]
  · have := h e (mem_stopTask_ne he hne) hne
    simpa using this

theorem phaseDone_tasks (jid ph : Nat) (s : State) : (phaseDone jid ph s).js.tasks = s.js.tasks := by
  unfold phaseDone
  split <;> rfl

theorem phaseDone_od (jid ph : Nat) (s : State) : (phaseDone jid ph s).od = s.od := by
  unfold phaseDone
  split <;> rfl

/-- With the last stage of a phase the phase is finished, those that waited for it begin to wait, and with the last phase the
job ends with status 0 (R66, R239). -/
theorem jobOf_phaseDone {s : State} {jid ph : Nat} {j : Job} {p : PlanCopy} {ps : List Phase} (hj : jobOf s jid = some j)
    (hp : j.plan = some p)
    (hps : ps = wakePhases p.image (ticks s) (lmod j.phases ph fun p => { p with run := .finished })) :
    jobOf (phaseDone jid ph s) jid = some { j with
      phases := ps
      ended := if (ps.all fun p => p.run = .finished) && j.ended.isNone then some ⟨0, {}⟩ else j.ended } := by
  unfold phaseDone
  rw [hj]
  dsimp only
  rw [hp]
  dsimp only
  rw [jobOf_jobMod_self _ _ _ (by intro _; rfl), hj, ← hps, Option.map_some, hp]

theorem ticks_of_od {s u : State} (h : u.od = s.od) : ticks u = ticks s := by
  unfold ticks od
  rw [h]

/-! ### UNIT_REPORTS_CLEAR -/

/-- Clearing a unit's STATE touches entries of subindex 1 alone. -/
theorem od_setUnitState {u v i j : Nat} {s : State} (hj : j < 256) (h1 : j ≠ 1) : od (setUnitState u v s) i j = od s i j := by
  unfold setUnitState
  split
  · exact od_odSet_ne _ _ _ _ _ _ fun h => h1 (odKey_inj (by decide) hj h).2.symm
  · rfl

/-- Returning a task's banks changes the groups and their STATE: no task, no job, no other entry. -/
theorem returnBanks_frame (t : Task) (s : State) :
    (returnBanks t s).js.tasks = s.js.tasks ∧ (returnBanks t s).js.jobs = s.js.jobs ∧
      ∀ i j, j < 256 → j ≠ 1 → od (returnBanks t s) i j = od s i j := by
  unfold returnBanks
  generalize heldGroups s t = l
  induction l generalizing s with
  | nil => exact ⟨rfl, rfl, fun _ _ _ _ => rfl⟩
  | cons u l ih =>
    rw [List.foldl_cons]
    dsimp only
    obtain ⟨ht, hj, ho⟩ := ih (setUnitState u 0 { s with js := { s.js with
      groups := tdel s.js.groups (u - 0xB0)
      badRows := s.js.badRows.filter fun x => !(group s (u - 0xB0)).banks.contains x.1 } })
    rw [setUnitState_js] at ht hj
    exact ⟨ht, hj, fun i j h1 h2 => (ho i j h1 h2).trans (od_setUnitState h1 h2)⟩

theorem releasable_of_jobs {s u : State} (h : u.js.jobs = s.js.jobs) (t : Task) : releasable u t = releasable s t := by
  unfold releasable
  rw [jobOf_of_jobs h]

theorem setUnitOwner_js (u v : Nat) (s : State) : (setUnitOwner u v s).js = s.js := by
  unfold setUnitOwner
  split <;> rfl

theorem clearUnit_js (u : Nat) (s : State) : (clearUnit u s).js = s.js := by
  unfold clearUnit
  rw [setUnitOwner_js]
  split
  · rfl
  · exact setUnitState_js _ _ _

theorem leaveHeld_tasks (u : Nat) (s : State) : (leaveHeld u s).js.tasks = s.js.tasks := by
  unfold leaveHeld
  split <;> rfl

theorem settleFreeze_stays {n : Nat} {s : State} (h : instSt s n ≠ 3) : settleFreeze n s = s := by
  unfold settleFreeze
  rw [if_neg (by simp [h])]

theorem settlePrep_stays {s : State} (h : transition s ≠ 1) : settlePrep s = s := by
  unfold settlePrep
  rw [if_neg (by simp [h])]

section
variable {s : State} {slot : Nat} {t : Task} (ht : taskAt s slot = some t)
include ht

theorem unitReportsClear_held (h : t.run ≠ .freePending) : unitReportsClear slot s = s := by
  unfold unitReportsClear
  rw [ht]
  dsimp only
  rw [if_pos h]

/-- While a task's unit is held for its phase, its banks return and its slot stays (R386, R399). -/
theorem unitReportsClear_waits (h : t.run = .freePending) (hr : releasable s t = false) :
    unitReportsClear slot s = returnBanks t s := by
  unfold unitReportsClear
  rw [ht]
  dsimp only
  rw [if_neg (by simp [h]), if_pos (by rw [releasable_of_jobs (returnBanks_frame t s).2.1, hr]; rfl)]

/-- The slot of an engine's task that may be released becomes FREE. -/
theorem unitReportsClear_frees (hr : releasable s t = true) (hu : 0x80 ≤ t.unit) :
    (unitReportsClear slot s).js.tasks = tdel s.js.tasks slot := by
  have h : t.run = .freePending := by
    unfold releasable at hr
    simp only [Bool.and_eq_true, decide_eq_true_eq] at hr
    exact hr.1
  have hclear : ∀ (l : List Nat) (u : State), (l.foldl (fun s u => leaveHeld u (clearUnit u s)) u).js.tasks = u.js.tasks := by
    intro l
    induction l with
    | nil => intro u; rfl
    | cons a l ih => intro u; rw [List.foldl_cons, ih, leaveHeld_tasks, clearUnit_js]
  unfold unitReportsClear
  rw [ht]
  dsimp only
  rw [if_neg (by simp [h]), if_neg (by rw [releasable_of_jobs (returnBanks_frame t s).2.1, hr]; decide), if_neg (by omega)]
  dsimp only
  congr 1
  split
  · exact (hclear _ _).trans (returnBanks_frame t s).1
  · exact (hclear _ _).trans (returnBanks_frame t s).1

end

/-- Settles O39, by what each command of a stream, a finished stage and a released unit does to the tasks it names. -/
theorem stageStreams : Obligations.StageStreams := by
  unfold Obligations.StageStreams
  intro s slot port t
  have hold : ∀ {u : State}, s.mode ≠ .hold → Host.Outcome.next (φ := Fault) (ρ := Refusal) (unlessHold s u) = .next u := by
    intro u h
    rw [unlessHold, if_neg h]
  refine ⟨fun p k c e q hJ => ?_, fun h => ?_, fun ht hm => ?_⟩
  · have hm : s.mode ≠ .hold := by
      obtain ⟨-, -, -, -, -, -, -, -, -, hm⟩ := hJ
      exact hm
    refine ⟨fun hp hq => ⟨_, hold hm, ?_⟩, fun h hh => ?_, fun h => ?_, fun h1 h2 h3 => ⟨_, hold hm, ?_⟩, fun h => ?_⟩
    · obtain ⟨⟨t', ht'⟩, c', hc'⟩ := streamTransfer_hands hJ hp hq
      exact ⟨t', c', ht'.1, ht'.2, hc'.1, hc'.2⟩
    · subst hh
      exact ⟨fun he hty n hn => handOver_plain he hty hn, fun he hty b rest hb hl hq => handOver_var he hty hb hl hq,
        fun he hb => handOver_word he hb, fun he hty n hb hn hv => handOver_nullable he hty hb hn hv⟩
    · exact (hold hm).trans (congrArg _ (streamTransfer_stays hJ h))
    · obtain ⟨⟨t', ht'⟩, c', hc'⟩ := endOfStream_ends hJ h1 h2 h3
      exact ⟨t', c', ht'.1, ht'.2, hc'.1, hc'.2⟩
    · exact (hold hm).trans (congrArg _ (endOfStream_stays hJ h))
  · have hs : ∀ u : State, Host.Outcome.next (φ := Fault) (ρ := Refusal) (unlessHold s u) = .next s := by
      intro u
      rw [unlessHold, if_pos h]
    exact ⟨hs _, hs _, hs _, hs _⟩
  · have hfin : exec (.stageFinish slot) s = .next (stageFinish slot s) := hold hm
    have hclear : exec (.unitReportsClear slot) s = .next (settlePrep (settleFreeze t.inst (unitReportsClear slot s))) := by
      refine (hold hm).trans ?_
      rw [ht]
    refine ⟨fun hc => by rw [hfin, stageFinish_incomplete ht hc], fun hc => ⟨_, hfin, ?_, fun j hj => ⟨?_, ?_⟩⟩, fun hr hu => ?_,
      fun hi htr => ⟨fun hrun => ?_, fun hrun hr => ⟨?_, ?_⟩⟩⟩
    · obtain ⟨t', ht', h'⟩ := taskAt_stageLeft ht
      refine ⟨t', ?_, h'⟩
      rw [stageFinish_complete ht hc]
      split
      · exact ht'
      · rw [taskAt_of_tasks (phaseDone_tasks _ _ _), ht']
    · rintro ⟨k, x, hx, hk, hxj, hxp, hxf⟩
      rw [stageFinish_complete ht hc, if_pos (phaseOpen_of_unfinished hx hk hxj hxp hxf), jobOf_stageLeft, hj]
    · intro hall ps p hp hps
      rw [stageFinish_complete ht hc, if_neg (by rw [phaseOpen_of_finished hall]; decide)] at hps ⊢
      exact jobOf_phaseDone ((jobOf_stageLeft _ _ _).trans hj) hp (by rw [← ticks_of_od (phaseDone_od _ _ _)]; exact hps)
    · exact ⟨_, unitReportsClear_frees ht hr hu, hclear⟩
    · rw [hclear, unitReportsClear_held ht hrun, settleFreeze_stays hi, settlePrep_stays htr]
    · obtain ⟨-, -, ho⟩ := returnBanks_frame t s
      rw [hclear, unitReportsClear_waits ht hrun hr, settleFreeze_stays (by rw [instSt, ho _ _ (by decide) (by decide)]; exact hi),
        settlePrep_stays (by rw [transition, ho _ _ (by decide) (by decide)]; exact htr)]
    · rw [taskAt_of_tasks (returnBanks_frame t s).1, ht]

end Sys2Proof.Machine
end


section
/-! REFUTED: the clause of GLUME_PARITY_PASS on a group other than the classifier's. A running task whose unit number lies outside
Table 11-9 has its BUSY_TIME entry where the parity counter stands, so that ending its job counts there as well. -/

namespace Sys2Proof.Machine

/-- A running task that names bank group 1 (`0xB1`) and whose unit `0xD00` is no unit of Table 11-9: its BUSY_TIME entry
`0x3100 + 0xD00 : 3` is the parity counter `0x3E00 : 3`. -/
def strayTask : Task :=
  { jid := 0, inst := 1, phase := 0, stage := 0, unit := 0xD00, extra := [0xB1], zone := 0, cls := 0, prio := 0,
    run := .running, readySeq := 0 }

/-- A device that runs `strayTask` alone, with bank 0 in group 1. The task's unit was taken at moment 0; it is now moment 1. -/
def strayState : State :=
  { State.reset with
    mode := .run
    time := 1
    js := { State.reset.js with
      jobs := [{ jid := 0, inst := 1, gen := 1, sq := 0, pos := 0, slot := 0, pass := 0, asn := 1 }]
      tasks := [(0, strayTask)]
      groups := [(1, { banks := [0], width := 160 })]
      unitBusy := [(0xD00, 0)] } }

/-- The parity counter `0x3E00 : 3` after a command that completes. -/
def parityCountAfter (c : Instr) (s : State) : Option Nat :=
  match exec c s with
  | .next u => some (od u 0x3E00 3)
  | _ => none

theorem parityCountAfter_of_next {c : Instr} {s u : State} (h : exec c s = .next u) :
    parityCountAfter c s = some (od u 0x3E00 3) := by
  simp only [parityCountAfter, h]

theorem strayState_parityCount : od strayState 0x3E00 3 = 0 := by decide

theorem strayState_bankLive : bankLive strayState 0 = true := by decide

theorem strayState_bankGroup : bankGroup strayState 0 = some 1 := by decide

/-- Over the error of row 5 in bank 0 the counter moves by 2: one for the row, and one moment of BUSY_TIME when the stray
task's unit is left. -/
theorem strayState_parityCountAfter : parityCountAfter (.glumeParityPass ⟨[(0, 5)], []⟩) strayState = some 2 := by decide

/-- Refutes O55: GLUME_PARITY_PASS finds a row of group 1 and ends the job of `strayTask`, which uses that group. Leaving the
task's unit `0xD00` adds its busy time, 1, to entry `0x3100 + 0xD00 : 3`, which is the parity counter itself, so that the counter
stands at 2 where the statement says 1. -/
theorem not_engineStagesComplete : ¬ Obligations.EngineStagesComplete := by
  unfold Obligations.EngineStagesComplete
  intro h
  obtain ⟨-, -, -, -, -, -, -, -, -, -, -, -, -, -, -, -, hglume⟩ := h strayState 0 strayTask
  obtain ⟨-, hrow, -⟩ := hglume (by decide) (by decide) rfl
  obtain ⟨-, -, hgroup⟩ := hrow 0 5 strayState_bankLive
  obtain ⟨u, hu, -, hcount, -⟩ := hgroup 1 (by decide) strayState_bankGroup
  have hafter : some (od u 0x3E00 3) = some 2 := (parityCountAfter_of_next hu).symm.trans strayState_parityCountAfter
  rw [hcount, strayState_parityCount] at hafter
  exact absurd hafter (by decide)

end Sys2Proof.Machine
end

section
/-! PROOFS. The registers of a core and the instructions that compute on them: ALU, ALUW, MULDIV, CHK, immediates, branches,
floating point, loads and stores (R174, R178 to R182, R191, R192). -/

namespace Sys2Proof.Machine

/-! ### General and floating-point registers (R174) -/

@[simp] theorem fGet_gSet (c : CoreId) (r q : Reg) (v : Word) (s : State) : fGet (gSet c r v s) c q = fGet s c q := by
  unfold gSet
  split
  · rfl
  · simp [fGet]

@[simp] theorem gGet_fSet (c : CoreId) (r q : Reg) (v : Word) (s : State) : gGet (fSet c r v s) c q = gGet s c q := by
  simp [gGet, fSet]

theorem core_gSet_ne (c d : CoreId) (r : Reg) (v : Word) (s : State) (h : c ≠ d) : core (gSet c r v s) d = core s d := by
  unfold gSet
  split
  · rfl
  · exact core_coreMod_ne c d _ s h

theorem core_fSet_ne (c d : CoreId) (r : Reg) (v : Word) (s : State) (h : c ≠ d) : core (fSet c r v s) d = core s d :=
  core_coreMod_ne c d _ s h

/-- Settles O16, by what reading a register gives after a write of the same or another one. -/
theorem generalRegisters : Obligations.GeneralRegisters := by
  unfold Obligations.GeneralRegisters
  intro s c r v
  refine ⟨gGet_zero s c, gSet_zero c v s, gGet_gSet_self c r v s, fGet_fSet_self c r v s, fun q hq => ?_, fun q => ?_,
    fun d hd => ?_⟩
  · exact ⟨gGet_gSet_ne c r q v s hq, fGet_fSet_ne c r q v s hq⟩
  · exact ⟨fGet_gSet c r q v s, gGet_fSet c r q v s⟩
  · exact ⟨core_gSet_ne c d r v s hd.symm, core_fSet_ne c d r v s hd.symm⟩

/-! ### How an instruction of a core ends -/

section
variable {s t : State} {c : CoreId} {d : Bool} {body : State → CoreEnd} {target : Word} {x : Trap}

theorem runCore_retires (h : CoreReady s c) (hb : body (fetchTouch c s) = .retire t) : runCore c false body s = ran c s t := by
  rw [ready_body h, hb]
  rfl

theorem runCore_jumps (h : CoreReady s c) (hb : body (fetchTouch c s) = .jump target t) :
    runCore c false body s = ranTo c s target t := by
  rw [ready_body h, hb]
  rfl

theorem runCore_clear_retires (h : CoreClear s c) (hb : body (fetchTouch c s) = .retire t) : runCore c d body s = ran c s t := by
  rw [clear_body h, hb]

theorem runCore_clear_jumps (h : CoreClear s c) (hb : body (fetchTouch c s) = .jump target t) :
    runCore c d body s = ranTo c s target t := by
  rw [clear_body h, hb]

theorem runCore_clear_traps (h : CoreClear s c) (hb : body (fetchTouch c s) = .trap x (fetchTouch c s)) :
    runCore c d body s = tookTrap c s x := by
  rw [clear_body h, hb]
  rfl

theorem runCore_clear_waits (h : CoreClear s c) (hb : body (fetchTouch c s) = .wait t) : runCore c d body s = t := by
  rw [clear_body h, hb]

theorem CoreClear.ready (h : CoreClear s c) : CoreReady s c := by
  obtain ⟨hi, ha, hf, himp⟩ := h
  exact ⟨ha, hi, hf, fun k => by rw [himp] at k; cases k⟩

end

/-! ### Register results (R178, R180) -/

section
variable {s : State} {c : CoreId} (h : CoreReady s c)
include h

theorem runAlu_ready (rd ra rb : Reg) (f : Word → Word → Word) :
    runAlu c rd ra rb f s = ran c s (gSet c rd (f (gGet s c ra) (gGet s c rb)) (fetchTouch c s)) :=
  runCore_retires h (by simp only [aluBody, gGet_fetchTouch])

theorem runImm_ready (rd ra : Reg) (f : Word → Word) :
    runImm c rd ra f s = ran c s (gSet c rd (f (gGet s c ra)) (fetchTouch c s)) :=
  runCore_retires h (by simp only [gGet_fetchTouch])

/-- A register instruction that completes, as a command's outcome. -/
theorem alu_next (rd ra rb : Reg) (f : Word → Word → Word) : Host.Outcome.next (φ := Fault) (ρ := Refusal) (runAlu c rd ra rb f s) =
    .next (ran c s (gSet c rd (f (gGet s c ra) (gGet s c rb)) (fetchTouch c s))) :=
  congrArg _ (runAlu_ready h rd ra rb f)

theorem imm_next (rd ra : Reg) (f : Word → Word) : Host.Outcome.next (φ := Fault) (ρ := Refusal) (runImm c rd ra f s) =
    .next (ran c s (gSet c rd (f (gGet s c ra)) (fetchTouch c s))) :=
  congrArg _ (runImm_ready h rd ra f)

end

/-- Settles O9: each ALU operation is runAlu or runImm of its function. -/
theorem aluResults : Obligations.AluResults := by
  unfold Obligations.AluResults
  intro s c rd ra rb h
  have alu := alu_next h rd ra rb
  exact ⟨alu (· + ·), alu (· - ·), alu (· &&& ·), alu (· ||| ·), alu (· ^^^ ·), alu fun a b => b2w (a.slt b),
    alu fun a b => b2w (a.ult b), alu sminW, alu smaxW, alu uminW, alu umaxW, alu fun a b => a.rotateLeft (b.toNat % 64),
    alu (shiftReg 0 fun a n => a <<< n), alu (shiftReg 1 fun a n => a >>> n), alu (shiftReg 2 fun a n => a.sshiftRight n),
    imm_next h rd ra fun a => BitVec.ofNat 64 (clzNat 64 a.toNat)⟩

/-- Settles O10: each ALUW operation is runAlu of a 32-bit function whose result is sign-extended. -/
theorem aluwResults : Obligations.AluwResults := by
  unfold Obligations.AluwResults
  intro s c rd ra rb a b h ha hb
  subst ha hb
  have alu := fun f => alu_next h rd ra rb (wop f)
  refine ⟨alu (· + ·), alu (· - ·), alu (· &&& ·), alu (· ||| ·), alu (· ^^^ ·), alu fun a b => if a.slt b then 1 else 0,
    alu fun a b => if a.ult b then 1 else 0, alu fun a b => if a.slt b then a else b,
    alu fun a b => if a.slt b then b else a, alu fun a b => if a.ult b then a else b,
    alu fun a b => if a.ult b then b else a, alu fun a b => a.rotateLeft (b.toNat % 32),
    alu (shiftReg 0 fun a n => a <<< n), alu (shiftReg 1 fun a n => a >>> n), alu (shiftReg 2 fun a n => a.sshiftRight n), ?_⟩
  rw [BitVec.toNat_setWidth]
  exact imm_next h rd ra fun a => BitVec.ofNat 64 (clzNat 32 (a.toNat % 2 ^ 32))

/-! ### Immediates and shifts (R180) -/

/-- A SHIFTI instruction with W clear, or with a count below 32. -/
theorem runShifti_ready {s : State} {c : CoreId} (h : CoreReady s c) (rd ra : Reg) (w : Bool) (n : Fin 64) (sel : Nat)
    (f64 : Word → Nat → Word) (f32 : BitVec 32 → Nat → BitVec 32) (hn : w = false ∨ n.val < 32) :
    runShifti c rd ra w n sel f64 f32 s = ran c s (gSet c rd
      (if w then (f32 ((gGet s c ra).setWidth 32) n.val).signExtend 64 else f64 (gGet s c ra) n.val) (fetchTouch c s)) := by
  have hw : (w && decide (32 ≤ n.val)) = false := by
    rcases hn with rfl | hn
    · rfl
    · rw [decide_eq_false (by omega), Bool.and_false]
  exact runCore_retires h (by simp only [hw, gGet_fetchTouch]; rfl)

/-- Settles O12: each immediate form is runImm of its function, and each SHIFTI that is legal completes. -/
theorem immediateResults : Obligations.ImmediateResults := by
  unfold Obligations.ImmediateResults
  intro s c rd ra imm k h
  have shift := fun w sel f64 f32 hn => congrArg (Host.Outcome.next (φ := Fault) (ρ := Refusal))
    (runShifti_ready h rd ra w k sel f64 f32 hn)
  exact ⟨imm_next h rd ra fun a => a + imm.signExtend 64, imm_next h rd ra fun a => a &&& imm.setWidth 64,
    imm_next h rd ra fun a => a ||| imm.setWidth 64, imm_next h rd ra fun a => a ^^^ imm.setWidth 64,
    imm_next h rd ra fun a => b2w (a.slt (imm.signExtend 64)),
    imm_next h rd 0 fun _ => (imm ++ (0 : BitVec 16)).signExtend 64,
    shift false 0 (fun a n => a <<< n) (fun a n => a <<< n) (.inl rfl),
    fun hk => shift true 0 (fun a n => a <<< n) (fun a n => a <<< n) (.inr hk),
    shift false 1 (fun a n => a >>> n) (fun a n => a >>> n) (.inl rfl),
    fun hk => shift true 1 (fun a n => a >>> n) (fun a n => a >>> n) (.inr hk),
    shift false 2 (fun a n => a.sshiftRight n) (fun a n => a.sshiftRight n) (.inl rfl),
    fun hk => shift true 2 (fun a n => a.sshiftRight n) (fun a n => a.sshiftRight n) (.inr hk),
    shift false 3 (fun a n => a.rotateLeft n) (fun a n => a.rotateLeft n) (.inl rfl),
    fun hk => shift true 3 (fun a n => a.rotateLeft n) (fun a n => a.rotateLeft n) (.inr hk)⟩

/-! ### Branches and jumps (R180) -/

theorem shiftLeft_two_eq_mul_four (x : Word) : x <<< 2 = x * 4 := BitVec.shiftLeft_eq_mul_twoPow x 2

theorem disp16_eq (d : BitVec 16) : disp16 d = d.signExtend 64 * 4 := shiftLeft_two_eq_mul_four _

theorem disp26_eq (d : BitVec 26) : disp26 d = d.signExtend 64 * 4 := shiftLeft_two_eq_mul_four _

@[simp] theorem pc_fetchTouch (s : State) (c : CoreId) : (core (fetchTouch c s) c).pc = (core s c).pc := core_ft.2.2.1

/-- A branch whose condition is p. -/
theorem branch_next {s : State} {c : CoreId} (h : CoreReady s c) (ra rb : Reg) (d : BitVec 16) (cond : Word → Word → Bool)
    {p : Prop} [Decidable p] (hp : cond (gGet s c ra) (gGet s c rb) = true ↔ p) :
    Host.Outcome.next (φ := Fault) (ρ := Refusal) (runBranch c ra rb d cond s) = .next (ranTo c s
      (if p then (core s c).pc + d.signExtend 64 * 4 else (core s c).pc + 4) (fetchTouch c s)) := by
  congr 1
  by_cases hc : p
  · rw [if_pos hc]
    exact runCore_jumps h (by simp only [gGet_fetchTouch, hp.mpr hc, pc_fetchTouch, disp16_eq, if_true])
  · rw [if_neg hc]
    exact runCore_retires h (by simp only [gGet_fetchTouch, if_neg (mt hp.mp hc)])

/-- Settles O13: a branch goes to its target where its condition holds, and the jumps always. -/
theorem branchResults : Obligations.BranchResults := by
  unfold Obligations.BranchResults
  intro s c rd ra rb d e pc h hpc
  subst hpc
  have branch := branch_next h ra rb d
  refine ⟨branch (fun a b => a = b) decide_eq_true_iff, branch (fun a b => a ≠ b) decide_eq_true_iff, branch BitVec.slt Iff.rfl,
    branch (fun a b => !a.slt b) (by rw [Bool.not_eq_true']), branch BitVec.ult Iff.rfl,
    branch (fun a b => !a.ult b) (by rw [Bool.not_eq_true']), ?_, ?_, fun ht => ?_⟩
  · exact congrArg _ (runCore_jumps h (by rw [pc_fetchTouch, disp26_eq]))
  · exact congrArg _ (runCore_jumps h (by simp only [pc_fetchTouch, disp26_eq]))
  · exact congrArg _ (runCore_jumps h (by simp only [gGet_fetchTouch, pc_fetchTouch, ht, ne_eq, not_true, if_false]))

/-! ### Arithmetic with flags (R178, R191) -/

/-- CHK without overflow, and any instruction whose flags trap nowhere, complete. -/
theorem arith_next {s : State} {c : CoreId} (h : CoreReady s c) {body : State → CoreEnd} {fl : FFlags} {w : State → State}
    (hf : fl = 0 ∨ NoTrap s c fl) (hb : body (fetchTouch c s) = arith c fl false w (fetchTouch c s)) :
    Host.Outcome.next (φ := Fault) (ρ := Refusal) (runCore c false body s) = .next (ran c s (flagged c fl (w (fetchTouch c s)))) :=
  congrArg _ (runCore_retires h (hb.trans (arith_done c s fl w hf)))

/-- An arithmetic instruction that traps, as a command's outcome. -/
theorem arith_trapped_next {s : State} {c : CoreId} (h : CoreClear s c) {body : State → CoreEnd} {fl sub : Nat} {chk : Bool}
    {w : State → State} (h0 : sub ≠ 0)
    (hs : (if chk then 0x40 else highestFlag (fl &&& bitsOf (core s c).pstat.toNat 22 17)) = sub)
    (hw : ∀ x, (core (w x) c).imp = (core x c).imp) (hb : body (fetchTouch c s) = arith c fl chk w (fetchTouch c s)) :
    Host.Outcome.next (φ := Fault) (ρ := Refusal) (runCore c false body s) = .next (arithTrapped c s sub fl w) := by
  rw [clear_body h, hb]
  exact congrArg _ (arith_trap c s fl chk sub w h h0 hs hw false)

/-- The high half of a product of unsigned words. -/
theorem mulHigh_natCast (n : Nat) : mulHigh (n : Int) = BitVec.ofNat 64 (n / 2 ^ 64) := by
  have : (n : Int) / 2 ^ 64 = ((n / 2 ^ 64 : Nat) : Int) := by norm_num
  rw [mulHigh, this, BitVec.ofInt_natCast]

/-- A division: what it writes, and IDZ where the divisor is 0. -/
theorem div_next {s : State} {c : CoreId} (h : CoreReady s c) (rd ra rb : Reg) (signed rem : Bool)
    (hd : gGet s c rb ≠ 0 ∨ NoTrap s c flagIDZ) :
    Host.Outcome.next (φ := Fault) (ρ := Refusal) (runDiv c rd ra rb signed rem s) =
      .next (ran c s (flagged c (if gGet s c rb = 0 then flagIDZ else 0)
        (gSet c rd (divVal signed rem (gGet s c ra) (gGet s c rb)) (fetchTouch c s)))) := by
  refine arith_next h ?_ (by simp only [gGet_fetchTouch])
  by_cases hz : gGet s c rb = 0
  · rw [if_pos hz]
    exact .inr (hd.resolve_left (not_not_intro hz))
  · exact .inl (if_neg hz)

/-- A CHK instruction whose signed result fits 64 bits. -/
theorem chk_next {s : State} {c : CoreId} (h : CoreReady s c) (rd ra rb : Reg) (f : Int → Int → Int)
    (hlo : -(2 ^ 63) ≤ f (gGet s c ra).toInt (gGet s c rb).toInt) (hhi : f (gGet s c ra).toInt (gGet s c rb).toInt < 2 ^ 63) :
    Host.Outcome.next (φ := Fault) (ρ := Refusal) (runChk c rd ra rb f s) =
      .next (ran c s (flagged c 0 (gSet c rd (BitVec.ofInt 64 (f (gGet s c ra).toInt (gGet s c rb).toInt)) (fetchTouch c s)))) := by
  have hover : overflows (f (gGet s c ra).toInt (gGet s c rb).toInt) = false := by
    unfold overflows
    rw [decide_eq_false (by omega), decide_eq_false (by omega)]
    rfl
  exact arith_next h (.inl rfl) (by simp only [gGet_fetchTouch, hover])

/-- Settles O11, by what multiplications, divisions and checked operations write and which flags they set. -/
theorem mulDivChkResults : Obligations.MulDivChkResults := by
  unfold Obligations.MulDivChkResults
  intro s c rd ra rb h
  refine ⟨alu_next h rd ra rb (· * ·), alu_next h rd ra rb fun a b => mulHigh (a.toInt * b.toInt), ?_, fun hd => ?_,
    chk_next h rd ra rb (· + ·), chk_next h rd ra rb (· - ·), chk_next h rd ra rb (· * ·)⟩
  · rw [← mulHigh_natCast]
    exact alu_next h rd ra rb fun a b => mulHigh ((a.toNat * b.toNat : Nat) : Int)
  · have div := fun signed rem => div_next h rd ra rb signed rem hd
    exact ⟨div true false, div false false, div true true, div false true⟩

end Sys2Proof.Machine
end

section
/-! PROOFS. Arithmetic traps, floating-point instructions, scalar loads and stores (R179, R180, R191, R192). -/

namespace Sys2Proof.Machine

/-! ### Arithmetic traps (R191, R192) -/

/-- A CHK instruction whose signed result does not fit 64 bits. -/
theorem chk_trapped_next {s : State} {c : CoreId} (h : CoreClear s c) (rd ra rb : Reg) (f : Int → Int → Int)
    (hr : f (gGet s c ra).toInt (gGet s c rb).toInt < -(2 ^ 63) ∨ 2 ^ 63 ≤ f (gGet s c ra).toInt (gGet s c rb).toInt) :
    Host.Outcome.next (φ := Fault) (ρ := Refusal) (runChk c rd ra rb f s) =
      .next (arithTrapped c s 0x40 0 (gSet c rd (BitVec.ofInt 64 (f (gGet s c ra).toInt (gGet s c rb).toInt)))) := by
  have hover : overflows (f (gGet s c ra).toInt (gGet s c rb).toInt) = true := by
    unfold overflows
    rcases hr with hr | hr
    · rw [decide_eq_true hr, Bool.true_or]
    · rw [decide_eq_true hr, Bool.or_true]
  exact arith_trapped_next (chk := true) h (by decide) rfl (imp_gset c rd _) (by simp only [gGet_fetchTouch, hover])

/-- A division by 0 whose trap is enabled. -/
theorem div_trapped_next {s : State} {c : CoreId} (h : CoreClear s c) (rd ra rb : Reg) (signed rem : Bool)
    (hz : gGet s c rb = 0) (hn : ¬ NoTrap s c flagIDZ) :
    Host.Outcome.next (φ := Fault) (ρ := Refusal) (runDiv c rd ra rb signed rem s) =
      .next (arithTrapped c s (trapSub s c flagIDZ) flagIDZ (gSet c rd (if rem then gGet s c ra else BitVec.allOnes 64))) :=
  arith_trapped_next (chk := false) h sub_ne (hf_sub hn) (imp_gset c rd _) (by simp only [gGet_fetchTouch, hz, divVal, if_true])

@[simp] theorem coreLevel_fetchTouch (s : State) (c : CoreId) : coreLevel (fetchTouch c s) c = coreLevel s c := core_ft.2.2.2.1

@[simp] theorem rmOf_fetchTouch (s : State) (c : CoreId) (rm : FRm) : rmOf (fetchTouch c s) c rm = rmOf s c rm := by
  cases rm
  case dynamic => exact core_ft.2.2.2.2.2
  all_goals rfl

@[simp] theorem fOperand_fetchTouch (s : State) (c : CoreId) (fmt : FFmt) (r : Reg) :
    fOperand (fetchTouch c s) c fmt r = fOperand s c fmt r := by
  simp only [fOperand, fGet_fetchTouch]

/-- An FPU operation that raises a flag whose trap is enabled. -/
theorem fpu_trapped_next {s : State} {c : CoreId} (h : CoreClear s c) (rd ra rb : Reg) (fmt : FFmt) (rm : FRm)
    (op : FFmt → Round → Nat → Nat → Nat → Nat × FFlags) {r : Nat × FFlags}
    (hr : op fmt (rmOf s c rm) (fOperand s c fmt ra) (fOperand s c fmt rb) (fOperand s c fmt rd) = r) (hn : ¬ NoTrap s c r.2) :
    Host.Outcome.next (φ := Fault) (ρ := Refusal) (runFpu c rd ra rb fmt rm op s) =
      .next (arithTrapped c s (trapSub s c r.2) r.2 (fSet c rd (BitVec.ofNat 64 r.1))) :=
  arith_trapped_next (chk := false) (w := fWrite c rd r.1) h sub_ne (hf_sub hn) (imp_fset c rd _)
    (by simp only [rmOf_fetchTouch, fOperand_fetchTouch, hr])

/-- Settles O15, by what an arithmetic instruction with a trap comes to: at once, or pending. -/
theorem arithmeticTraps : Obligations.ArithmeticTraps := by
  unfold Obligations.ArithmeticTraps
  intro s c rd ra rb fmt rm m a b h hm ha hb
  subst hm ha hb
  have fpu := fun op hn => fpu_trapped_next h rd ra rb fmt rm op rfl hn
  exact ⟨chk_trapped_next h rd ra rb (· + ·), chk_trapped_next h rd ra rb (· - ·), chk_trapped_next h rd ra rb (· * ·),
    div_trapped_next h rd ra rb true false, div_trapped_next h rd ra rb false false, div_trapped_next h rd ra rb true true,
    div_trapped_next h rd ra rb false true, fpu fun f r a b _ => fadd f r a b, fpu fun f r a b _ => fsub f r a b,
    fpu fun f r a b _ => fmul f r a b, fpu fun f r a b _ => fdiv f r a b⟩

/-! ### Floating-point results (R178, R179, R200) -/

section
variable {s : State} {c : CoreId} (h : CoreReady s c)
include h

theorem fpu_next (rd ra rb : Reg) (fmt : FFmt) (rm : FRm) (op : FFmt → Round → Nat → Nat → Nat → Nat × FFlags) {r : Nat × FFlags}
    (hr : op fmt (rmOf s c rm) (fOperand s c fmt ra) (fOperand s c fmt rb) (fOperand s c fmt rd) = r) (hn : NoTrap s c r.2) :
    Host.Outcome.next (φ := Fault) (ρ := Refusal) (runFpu c rd ra rb fmt rm op s) =
      .next (ran c s (flagged c r.2 (fSet c rd (BitVec.ofNat 64 r.1) (fetchTouch c s)))) :=
  arith_next (w := fWrite c rd r.1) h (.inr hn) (by simp only [rmOf_fetchTouch, fOperand_fetchTouch, hr])

theorem ftoG_next (rd ra : Reg) (fmt : FFmt) (rm : FRm) (op : FFmt → Round → Nat → Nat × FFlags) {r : Nat × FFlags}
    (hr : op fmt (rmOf s c rm) (fOperand s c fmt ra) = r) (hn : NoTrap s c r.2) :
    Host.Outcome.next (φ := Fault) (ρ := Refusal) (runFtoG c rd ra fmt rm op s) =
      .next (ran c s (flagged c r.2 (gSet c rd (BitVec.ofNat 64 r.1) (fetchTouch c s)))) :=
  arith_next (w := gSet c rd (BitVec.ofNat 64 r.1)) h (.inr hn) (by simp only [rmOf_fetchTouch, fOperand_fetchTouch, hr])

theorem gtoF_next (rd ra : Reg) (fmt : FFmt) (rm : FRm) (read : Word → Int) {r : Nat × FFlags}
    (hr : inttof fmt (rmOf s c rm) (read (gGet s c ra)) = r) (hn : NoTrap s c r.2) :
    Host.Outcome.next (φ := Fault) (ρ := Refusal) (runGtoF c rd ra fmt rm read s) =
      .next (ran c s (flagged c r.2 (fSet c rd (BitVec.ofNat 64 r.1) (fetchTouch c s)))) :=
  arith_next (w := fWrite c rd r.1) h (.inr hn) (by simp only [rmOf_fetchTouch, gGet_fetchTouch, hr])

theorem fcmp_next (rd ra rb : Reg) (fmt : FFmt) (rel : FRel) (signalling : Bool) {r : Bool × FFlags}
    (hr : fcmp fmt rel signalling (fOperand s c fmt ra) (fOperand s c fmt rb) = r) (hn : NoTrap s c r.2) :
    Host.Outcome.next (φ := Fault) (ρ := Refusal) (runFcmp c rd ra rb fmt rel signalling s) =
      .next (ran c s (flagged c r.2 (gSet c rd (if r.1 then 1 else 0) (fetchTouch c s)))) :=
  arith_next (w := gSet c rd (b2w r.1)) h (.inr hn) (by simp only [fOperand_fetchTouch, hr])

/-- FTOF reads the other format. -/
theorem ftof_next (rd ra : Reg) (fmt : FFmt) (rm : FRm)
    (hn : NoTrap s c (ftof fmt (rmOf s c rm) (fOperand s c (if fmt = .b32 then .b64 else .b32) ra)).2) :
    exec (.ftof c rd ra fmt rm) s = .next (ran c s (flagged c (ftof fmt (rmOf s c rm) (fOperand s c (if fmt = .b32 then .b64 else .b32) ra)).2
      (fSet c rd (BitVec.ofNat 64 (ftof fmt (rmOf s c rm) (fOperand s c (if fmt = .b32 then .b64 else .b32) ra)).1)
        (fetchTouch c s)))) := by
  rw [← rmOf_fetchTouch, ← fOperand_fetchTouch] at hn ⊢
  cases fmt <;> exact arith_next h (.inr hn) rfl

end

/-- Settles O14: each operation is its IEEE 754 function between the operands read and the register written. -/
theorem floatResults : Obligations.FloatResults := by
  unfold Obligations.FloatResults
  intro s c rd ra rb fmt rm m a b d z h hm ha hb hd hz
  subst hm ha hb hd hz
  have fpu := fun op hn => fpu_next h rd ra rb fmt rm op rfl hn
  have fpu1 := fun op hn => fpu_next h rd ra 0 fmt rm op rfl hn
  have ftoG := fun op hn => ftoG_next h rd ra fmt rm op rfl hn
  have gtoF := fun read hn => gtoF_next h rd ra fmt rm read rfl hn
  have cmp := fun rel signalling hn => fcmp_next h rd ra rb fmt rel signalling rfl hn
  refine ⟨fpu fun f r a b _ => fadd f r a b, fpu fun f r a b _ => fsub f r a b, fpu fun f r a b _ => fmul f r a b,
    fpu fun f r a b _ => fdiv f r a b, fpu fun f _ a b _ => fminmax f false a b, fpu fun f _ a b _ => fminmax f true a b,
    fpu fmac, fpu1 fun f r a _ _ => fsqrt f r a, fpu1 fun f r a _ _ => fint f r a, ftoG fun f r a => ftoint f r true a,
    ftoG fun f r a => ftoint f r false a, gtoF BitVec.toInt, gtoF fun w => (w.toNat : Int), ftof_next h rd ra fmt rm,
    cmp .eq false, cmp .lt true, cmp .le true, cmp .lt false, cmp .le false, cmp .unord false, ?_, ?_, ?_⟩
  · exact congrArg _ (runCore_retires h (by rw [fOperand_fetchTouch]; rfl))
  · exact congrArg _ (runCore_retires h (by rw [fGet_fetchTouch]))
  · exact congrArg _ (runCore_retires h (by rw [gGet_fetchTouch]))

/-! ### Loads and stores (R180, R200) -/

@[simp] theorem memAddr_fetchTouch (s : State) (c : CoreId) (ra : Reg) (imm : BitVec 16) :
    memAddr (fetchTouch c s) c ra imm = memAddr s c ra imm := by
  simp only [memAddr, gGet_fetchTouch]

/-- A load that the memory grants. -/
theorem load_next {s u : State} {c : CoreId} (h : CoreReady s c) {ra : Reg} {imm : BitVec 16} {n : Nat} {bs : List Byte}
    (write : List Byte → State → State) (ha : memAddr s c ra imm % n = 0)
    (hl : coreLoad c (memAddr s c ra imm) n false (fetchTouch c s) = (.ok bs, u)) :
    Host.Outcome.next (φ := Fault) (ρ := Refusal) (runLoad c ra imm n write s) = .next (ran c s (write bs u)) := by
  refine congrArg _ (runCore_retires h ?_)
  unfold loadBody
  simp only [memAddr_fetchTouch, ha, ne_eq, not_true, if_false, hl]

/-- A store that the memory grants. -/
theorem store_next {s t : State} {c : CoreId} (h : CoreReady s c) {ra : Reg} {imm : BitVec 16} {n v : Nat} {val : State → Nat}
    (hv : val (fetchTouch c s) = v) (ha : memAddr s c ra imm % n = 0)
    (hs : coreStore c (memAddr s c ra imm) (leBytes n v) false (fetchTouch c s) = .ok t) :
    Host.Outcome.next (φ := Fault) (ρ := Refusal) (runStore c ra imm n val s) = .next (ran c s t) := by
  refine congrArg _ (runCore_retires h ?_)
  unfold storeBody
  simp only [memAddr_fetchTouch, ha, ne_eq, not_true, if_false, hv, hs]

theorem loadG_of_length {c : CoreId} {rd : Reg} {signed : Bool} {bs : List Byte} {n : Nat} {s : State} (h : bs.length = n) :
    loadG c rd signed bs s =
      gSet c rd (if signed then BitVec.ofInt 64 (toSigned (8 * n) (leNat bs)) else BitVec.ofNat 64 (leNat bs)) s := by
  subst h
  rfl

/-- Settles O17: each load writes the bytes that coreLoad answers. -/
theorem loadsWriteTheirRegister : Obligations.LoadsWriteTheirRegister := by
  unfold Obligations.LoadsWriteTheirRegister
  intro s u c rd ra imm a bs h ha
  subst ha
  have loadG_next : ∀ n signed, memAddr s c ra imm % n = 0 → coreLoad c (memAddr s c ra imm) n false (fetchTouch c s) = (.ok bs, u) →
      bs.length = n → Host.Outcome.next (φ := Fault) (ρ := Refusal) (runLoad c ra imm n (loadG c rd signed) s) =
        .next (ran c s (gSet c rd (if signed then BitVec.ofInt 64 (toSigned (8 * n) (leNat bs)) else BitVec.ofNat 64 (leNat bs)) u)) := by
    intro n signed ha hl hn
    rw [load_next h _ ha hl, loadG_of_length hn]
  have loadF_next := fun n ha hl (_ : bs.length = n) => load_next (u := u) (ra := ra) (imm := imm) (n := n) (bs := bs) h
    (fun bs => fSet c rd (BitVec.ofNat 64 (leNat bs))) ha hl
  exact ⟨loadG_next 1 true, loadG_next 2 true, loadG_next 4 true, loadG_next 1 false, loadG_next 2 false, loadG_next 4 false,
    loadG_next 8 false, loadG_next 8 false, loadF_next 8, loadF_next 4⟩

/-- Settles O18: each store gives coreStore the low bytes of its register. -/
theorem storesWriteTheirBytes : Obligations.StoresWriteTheirBytes := by
  unfold Obligations.StoresWriteTheirBytes
  intro s t c rd ra imm a h ha
  subst ha
  have hg : (gGet (fetchTouch c s) c rd).toNat = (gGet s c rd).toNat := by rw [gGet_fetchTouch]
  have hf : (fGet (fetchTouch c s) c rd).toNat = (fGet s c rd).toNat := by rw [fGet_fetchTouch]
  exact ⟨store_next h (val := fun s => (gGet s c rd).toNat) hg, store_next h (val := fun s => (gGet s c rd).toNat) hg,
    store_next h (val := fun s => (gGet s c rd).toNat) hg, store_next h (val := fun s => (gGet s c rd).toNat) hg,
    store_next h (val := fun s => (gGet s c rd).toNat) hg, store_next h (val := fun s => (fGet s c rd).toNat) hf,
    store_next h (val := fun s => (fGet s c rd).toNat) hf⟩

end Sys2Proof.Machine
end

section
/-! PROOFS. Cores that do not execute, status registers and system instructions (R171, R174, R188 to R190, R459). -/

namespace Sys2Proof.Machine

/-! ### Every instruction runs in the frame of its core -/

/-- A command that acts on a core is an instruction in the core's frame, or one of the three exception commands. -/
theorem exec_of_coreOf {i : Instr} {c : CoreId} (h : coreOf i = some c) (s : State) :
    (∃ d body, exec i s = .next (runCore c d body s)) ∨ (∃ major o op bad elem finish, exec i s = .next (runLv c major o op bad elem finish s)) ∨
      i = .interruptTaken c ∨ i = .impreciseArithmetic c ∨ ∃ word, i = .illegalInstruction c word := by
  cases i
  all_goals cases h
  case interruptTaken => exact .inr (.inr (.inl rfl))
  case impreciseArithmetic => exact .inr (.inr (.inr (.inl rfl)))
  case illegalInstruction word => exact .inr (.inr (.inr (.inr ⟨word, rfl⟩)))
  case lvAdd | lvSub | lvMul | lvAnd | lvOr | lvXor | lvMin | lvMax | lvMinu | lvMaxu | lvFadd | lvFsub | lvFmul | lvFdiv |
    lvFmin | lvFmax | lvCmpeq | lvCmplt | lvCmpltu | lvFcmpeq | lvFcmplt | compress | gather | scatter | unpack | pack =>
    exact .inr (.inl ⟨_, _, _, _, _, _, rfl⟩)
  all_goals exact .inl ⟨_, _, rfl⟩

/-- Settles O8: the frame of an instruction, and each exception command, leaves a core that does not execute. -/
theorem inactiveCoreExecutesNothing : Obligations.InactiveCoreExecutesNothing := by
  unfold Obligations.InactiveCoreExecutesNothing
  intro i c s hi ha
  obtain ⟨d, body, h⟩ | ⟨_, _, _, _, _, _, h⟩ | rfl | rfl | ⟨word, rfl⟩ := exec_of_coreOf hi s
  · rw [h, runCore_inactive c d body s ha]
  · rw [h, runLv, runInstr_inactive c false _ s ha]
  · exact congrArg _ (if_pos (by rw [ha]; rfl))
  · exact congrArg _ (if_neg (by rw [ha]; exact Bool.false_ne_true))
  · change Host.Outcome.next (if wordIllegal word then runCore c false (illegal word) s else s) = .next s
    rw [runCore_inactive c false _ s ha, ite_self]

/-! ### Status registers (R190, Table 08-2) -/

theorem statRead_fetchTouch (s : State) (c : CoreId) (n : Nat) : statRead (fetchTouch c s) c n = statRead s c n := by
  unfold statRead
  rw [core_fetchTouch s c]

/-- A row of Table 08-2 has the level and the value that MFS gives its number. -/
theorem statLevel_of_mem {s : State} {c : CoreId} {r : Nat × Level × Word} (h : r ∈ statTable s c) :
    statLevel r.1 = some r.2.1 ∧ statRead s c r.1 = r.2.2 := by
  simp only [statTable, List.mem_cons, List.not_mem_nil, or_false] at h
  rcases h with rfl | rfl | rfl | rfl | rfl | rfl | rfl | rfl | rfl | rfl <;> exact ⟨rfl, rfl⟩

/-- A number that no row of Table 08-2 has is absent. -/
theorem statLevel_of_absent {s : State} {c : CoreId} {n : Nat} (h : ∀ r ∈ statTable s c, r.1 ≠ n) : statLevel n = none := by
  simp only [statTable, List.forall_mem_cons, List.not_mem_nil, false_imp_iff, implies_true, and_true] at h
  unfold statLevel
  rw [if_neg (by simp; omega), if_neg (by simp; omega), if_neg (by simp; omega)]

/-- MTS of a register of Table 08-2 writes what the register takes. -/
theorem statWrite_of_mem {s : State} {c : CoreId} {r : Nat × Level × Word} (h : r ∈ statTable s c) (v : Word) (t : State) :
    statWrite c r.1 v t = coreMod c (statTaken r.1 v) t := by
  simp only [statTable, List.mem_cons, List.not_mem_nil, or_false] at h
  rcases h with rfl | rfl | rfl | rfl | rfl | rfl | rfl | rfl | rfl | rfl <;> rfl

theorem levelAtLeast_iff {l need : Level} : levelAtLeast l need = true ↔ need.code ≤ l.code := decide_eq_true_iff

theorem badPpl_iff {num : BitVec 16} {v : Word} : badPpl num.toNat v = true ↔
    (num = 0x11 ∧ 2 ≤ bitsOf v.toNat 10 9) ∨ (num = 0x21 ∧ 3 ≤ bitsOf v.toNat 10 9) := by
  simp [badPpl, ← BitVec.toNat_inj, Nat.lt_iff_add_one_le]

section
variable {s : State} {c : CoreId} (h : CoreClear s c) {ra : Reg} {num : BitVec 16}
include h

theorem mfs_absent (hl : statLevel num.toNat = none) :
    exec (.mfs c ra num) s = .next (tookTrap c s { vec := 4, val := (encI 0x3D 4 ra num.toNat).setWidth 64 }) :=
  congrArg _ (runCore_clear_traps h (by rw [hl]; rfl))

theorem mts_absent (hl : statLevel num.toNat = none) :
    exec (.mts c ra num) s = .next (tookTrap c s { vec := 4, val := (encI 0x3D 5 ra num.toNat).setWidth 64 }) :=
  congrArg _ (runCore_clear_traps h (by rw [hl]; rfl))

theorem mfs_reads {need : Level} (hl : statLevel num.toNat = some need) (hn : need.code ≤ (coreLevel s c).code) :
    exec (.mfs c ra num) s = .next (ran c s (gSet c ra (statRead s c num.toNat) (fetchTouch c s))) :=
  congrArg _ (runCore_clear_retires h
    (by simp [hl, levelAtLeast_iff.mpr hn, statRead_fetchTouch]))

theorem mfs_below {need : Level} (hl : statLevel num.toNat = some need) (hn : (coreLevel s c).code < need.code) :
    exec (.mfs c ra num) s = .next (tookTrap c s { vec := 5, val := (encI 0x3D 4 ra num.toNat).setWidth 64 }) := by
  have hlow : levelAtLeast (coreLevel s c) need = false := decide_eq_false (by omega)
  exact congrArg _ (runCore_clear_traps h (by simp only [hl, coreLevel_fetchTouch, hlow]; rfl))

theorem mts_badPpl {need : Level} (hl : statLevel num.toNat = some need) (hb : badPpl num.toNat (gGet s c ra) = true) :
    exec (.mts c ra num) s = .next (tookTrap c s { vec := 4, val := (encI 0x3D 5 ra num.toNat).setWidth 64 }) :=
  congrArg _ (runCore_clear_traps h (by rw [hl, gGet_fetchTouch, hb]; rfl))

theorem mts_writes {need : Level} (hl : statLevel num.toNat = some need) (hb : badPpl num.toNat (gGet s c ra) = false)
    (hn : need.code ≤ (coreLevel s c).code) :
    exec (.mts c ra num) s = .next (ran c s (statWrite c num.toNat (gGet s c ra) (fetchTouch c s))) :=
  congrArg _ (runCore_clear_retires h
    (by simp [hl, hb, levelAtLeast_iff.mpr hn]))

theorem mts_below {need : Level} (hl : statLevel num.toNat = some need) (hb : badPpl num.toNat (gGet s c ra) = false)
    (hn : (coreLevel s c).code < need.code) :
    exec (.mts c ra num) s = .next (tookTrap c s { vec := 5, val := (encI 0x3D 5 ra num.toNat).setWidth 64 }) := by
  have hlow : levelAtLeast (coreLevel s c) need = false := decide_eq_false (by omega)
  exact congrArg _ (runCore_clear_traps h (by simp only [hl, gGet_fetchTouch, hb, coreLevel_fetchTouch, hlow]; rfl))

end

/-- Settles O21: each row of Table 08-2 read, written, or refused, by the level of the core and the value written. -/
theorem statusRegisters : Obligations.StatusRegisters := by
  unfold Obligations.StatusRegisters
  intro s c ra num v h hv
  subst hv
  have goodPpl : (num = 0x11 → bitsOf (gGet s c ra).toNat 10 9 < 2) → (num = 0x21 → bitsOf (gGet s c ra).toNat 10 9 < 3) →
      badPpl num.toNat (gGet s c ra) = false := by
    intro hs hm
    rw [Bool.eq_false_iff, ne_eq, badPpl_iff]
    rintro (⟨hn, hp⟩ | ⟨hn, hp⟩)
    · exact absurd (hs hn) (by omega)
    · exact absurd (hm hn) (by omega)
  refine ⟨fun r hr hn hlev => ?_, fun r hr hn hlev hs hm => ?_, fun r hr hn hlev => ⟨?_, fun hs hm => ?_⟩, fun hb => ?_,
    fun ha => ⟨mfs_absent h (statLevel_of_absent ha), mts_absent h (statLevel_of_absent ha)⟩⟩
  · obtain ⟨hl, hread⟩ := statLevel_of_mem hr
    rw [hn] at hl hread
    rw [mfs_reads h hl hlev, hread]
  · obtain ⟨hl, -⟩ := statLevel_of_mem hr
    rw [hn] at hl
    rw [mts_writes h hl (goodPpl hs hm) hlev, ← hn, statWrite_of_mem hr]
  · obtain ⟨hl, -⟩ := statLevel_of_mem hr
    exact mfs_below h (hn ▸ hl) hlev
  · obtain ⟨hl, -⟩ := statLevel_of_mem hr
    exact mts_below h (hn ▸ hl) (goodPpl hs hm) hlev
  · have hl : ∃ need, statLevel num.toNat = some need := by
      rcases hb with ⟨rfl, -⟩ | ⟨rfl, -⟩ <;> exact ⟨_, rfl⟩
    obtain ⟨need, hl⟩ := hl
    exact mts_badPpl h hl (badPpl_iff.mpr hb)

/-! ### System instructions (R177, R185, R189, R190) -/

/-- Settles O22: each system instruction completes, waits, or takes its exception, by the core's level. -/
theorem systemInstructions : Obligations.SystemInstructions := by
  unfold Obligations.SystemInstructions
  intro s c imm bits word h
  have level := coreLevel_fetchTouch s c
  refine ⟨⟨fun hl => ?_, fun hl => ?_⟩, ⟨fun hl => ?_, fun hl => ?_⟩, ?_, ⟨fun hl => ?_, fun hl => ?_⟩,
    ⟨fun hl => ?_, fun hl => ?_⟩, ⟨fun hl => ?_, fun hl => ?_⟩, fun hi hl => ?_, fun hi => ?_, ?_, ?_, fun hw => ?_, fun x => ?_⟩
  · exact congrArg _ (runCore_clear_traps h (if_neg (by rwa [level])))
  · exact congrArg _ (runCore_clear_traps h (if_pos (by rwa [level])))
  · exact congrArg _ (runCore_clear_traps h (if_neg (by rwa [level])))
  · exact congrArg _ (runCore_clear_traps h (if_pos (by rwa [level])))
  · exact congrArg _ (runCore_clear_traps h rfl)
  · refine congrArg _ (runCore_clear_jumps h ((if_neg (by rwa [level])).trans ?_))
    rw [core_fetchTouch s c]
  · exact congrArg _ (runCore_clear_traps h (if_pos (by rwa [level])))
  · refine congrArg _ (runCore_clear_jumps h ((if_neg (by rwa [level, ne_eq, not_not])).trans ?_))
    rw [core_fetchTouch s c]
  · exact congrArg _ (runCore_clear_traps h (if_pos (by rwa [level])))
  · exact congrArg _ (runCore_clear_waits h (if_neg (by rwa [level, ne_eq, not_not])))
  · exact congrArg _ (runCore_clear_traps h (if_pos (by rwa [level])))
  · exact congrArg _ (runCore_clear_retires h (if_pos (by rw [level, decide_eq_true hi, decide_eq_true hl]; rfl)))
  · exact congrArg _ (runCore_clear_waits h (if_neg (by rcases hi with hi | hl <;> simp [*])))
  · exact congrArg _ (runCore_clear_retires h rfl)
  · exact congrArg _ (runCore_clear_retires (d := true) h (t := if bits.getLsbD 4 then _ else _) rfl)
  · exact (congrArg _ (if_pos hw)).trans (congrArg _ (runCore_clear_traps h rfl))
  · refine ⟨by rw [getLsbD_returnStat]; rfl, by rw [getLsbD_returnStat]; rfl, fun i h6 h7 => ?_⟩
    rw [getLsbD_returnStat, if_neg h6, if_neg h7]

end Sys2Proof.Machine
end

section
/-! PROOFS. The reserved load and store (R178, R182, R219). -/

namespace Sys2Proof.Machine

theorem ofNat_toNat_word (x : Word) : BitVec.ofNat 64 x.toNat = x := by
  rw [BitVec.ofNat_toNat, BitVec.setWidth_eq]

theorem resv_fetchTouch (s : State) (c : CoreId) : (core (fetchTouch c s) c).resv = (core s c).resv := by
  rw [core_fetchTouch s c]

/-- A store by another requester to a byte of the line that a core has reserved ends the reservation (R182). -/
theorem resv_physPut {s : State} {c : CoreId} {by_ : Option Nat} {pa n : Nat} {bytes : List Byte} (hby : by_ ≠ some c.val)
    (hr : (core s c).resv = some n) (hlo : n * 128 < pa + bytes.length) (hhi : pa < n * 128 + 128) :
    (core (physPut by_ pa bytes s) c).resv = none := by
  rw [core_physPut]
  unfold core tget at hr
  cases hk : tfind s.cores c.val with
  | none => rfl
  | some k =>
    rw [hk] at hr
    have hr' : k.resv = some n := hr
    simp [snp, hby, hr', hlo, hhi]

section
variable {s u : State} {c : CoreId} (h : CoreClear s c) {rd ra rb : Reg}
include h

/-- LRX and SCX take the exception of their address first. -/
theorem atomic_traps {x : Trap} (hx : atomTrap (gGet s c ra).toNat = some x) :
    exec (.lrx c rd ra) s = .next (tookTrap c s x) ∧ exec (.scx c rd ra rb) s = .next (tookTrap c s x) := by
  constructor
  · exact congrArg _ (runCore_clear_traps h (by simp only [gGet_fetchTouch, hx]))
  · exact congrArg _ (runCore_clear_traps h (by simp only [gGet_fetchTouch, hx]))

variable {pa : Nat} {st : Bool} (ht : atomTrap (gGet s c ra).toNat = none)
include ht

theorem lrx_loads {bs : List Byte} (hp : corePlace (fetchTouch c s) c .read (gGet s c ra).toNat 8 = .ok (.dev pa st))
    (hl : coreLoad c (gGet s c ra).toNat 8 false (fetchTouch c s) = (.ok bs, u)) :
    exec (.lrx c rd ra) s = .next (ran c s (gSet c rd (BitVec.ofNat 64 (leNat bs))
      (coreMod c (fun k => { k with resv := some (pa / 128) }) u))) := by
  have hline : reserveLine (fetchTouch c s) c (gGet s c ra).toNat = some (pa / 128) := by
    unfold reserveLine
    rw [hp]
  exact congrArg _ (runCore_clear_retires h (by simp only [gGet_fetchTouch, ht, hline, hl]; rfl))

variable (hp : corePlace (fetchTouch c s) c .write (gGet s c ra).toNat 8 = .ok (.dev pa st))
include hp

theorem scx_stores (hr : (core s c).resv = some (pa / 128))
    (hs : coreStore c (gGet s c ra).toNat (leBytes 8 (gGet s c rb).toNat) false (fetchTouch c s) = .ok u) :
    exec (.scx c rd ra rb) s = .next (ran c s (gSet c rd 0 u)) := by
  refine congrArg _ (runCore_clear_retires h ?_)
  rw [← resv_fetchTouch] at hr
  simp only [gGet_fetchTouch, ht, hp, hr, if_true, hs]

theorem scx_fails (hr : (core s c).resv ≠ some (pa / 128)) :
    exec (.scx c rd ra rb) s = .next (ran c s (gSet c rd 1 (fetchTouch c s))) := by
  refine congrArg _ (runCore_clear_retires h ?_)
  rw [← resv_fetchTouch] at hr
  simp only [gGet_fetchTouch, ht, hp, if_neg hr]

end

/-- Settles O19: the checks of the address, the reservation set, found or missing, and what ends one. -/
theorem reservedLoadAndStore : Obligations.ReservedLoadAndStore := by
  unfold Obligations.ReservedLoadAndStore
  intro s u c rd ra rb a pa st bs h ha
  subst ha
  have noTrap : (gGet s c ra).toNat % 8 = 0 → inWindow (gGet s c ra).toNat = false → atomTrap (gGet s c ra).toNat = none := by
    intro h8 hw
    rw [atomTrap, if_neg (not_not_intro h8), hw]
    rfl
  refine ⟨fun h8 => atomic_traps h ?_, fun h8 hw => atomic_traps h ?_, fun h8 hw hp hl _ => lrx_loads h (noTrap h8 hw) hp hl,
    fun h8 hw hp hr hs => scx_stores h (noTrap h8 hw) hp hr hs, fun h8 hw hp hr => scx_fails h (noTrap h8 hw) hp hr,
    fun e n bytes he hr hlo hhi => ⟨resv_physPut (fun hc => he (Fin.ext (Option.some.inj hc))) hr hlo hhi,
      resv_physPut (by simp) hr hlo hhi⟩⟩
  · rw [atomTrap, if_pos h8, ofNat_toNat_word]
  · rw [atomTrap, if_neg (not_not_intro h8), if_pos hw, ofNat_toNat_word]

/-- The state that an instruction of core c begun in s leaves, by how it ends, with no imprecise exception pending. -/
def coreEnds (c : CoreId) (s : State) : CoreEnd → State
  | .retire t => ran c s t
  | .jump target t => ranTo c s target t
  | .trap x t => instrTrap c (core s c).pc x t
  | .wait t => t

theorem runCore_clear {s : State} {c : CoreId} {d : Bool} {body : State → CoreEnd} {x : CoreEnd} (h : CoreClear s c)
    (hb : body (fetchTouch c s) = x) : runCore c d body s = coreEnds c s x := by
  rw [clear_body h, hb]
  cases x <;> rfl

/-! ### Streams (R18, R193, R196, Table 08-9) -/

@[simp] theorem inTaskTile_fetchTouch (s : State) (c : CoreId) (a n : Nat) :
    inTaskTile (core (fetchTouch c s) c) a n = inTaskTile (core s c) a n := by
  rw [core_fetchTouch s c]
  rfl

@[simp] theorem tile_fetchTouch (s : State) (c : CoreId) : (core (fetchTouch c s) c).tile = (core s c).tile := by
  rw [core_fetchTouch s c]

theorem taskImg_of_js {s u : State} (h : u.js = s.js) (t : Task) : taskImg u t = taskImg s t := by
  unfold taskImg jobOf
  rw [h]

theorem leaveOf_of_js {s u : State} (h : u.js = s.js) (t : Task) (port : Nat) : leaveOf u t port = leaveOf s t port := by
  unfold leaveOf capAllows taskStage
  rw [taskImg_of_js h]

theorem leaveOf_stall {s : State} {t : Task} {port : Nat} {p : OutPort} (hp : t.outs[port]? = some p)
    (hr : outHasRoom (taskImg s t) p = false) : leaveOf s t port = .stall := by
  unfold leaveOf
  rw [hp]
  simp only [hr, Bool.not_false, if_true]

theorem leaveOf_now {s : State} {t : Task} {port : Nat} {p : OutPort} (hp : t.outs[port]? = some p)
    (hr : outHasRoom (taskImg s t) p = true) (hc : capAllows s t port 1 = true) : leaveOf s t port = .now := by
  unfold leaveOf
  rw [hp]
  simp only [hr, hc, Bool.not_true, Bool.false_eq_true, if_true, if_false]

theorem tileCorrect_js (c : CoreId) (off n : Nat) (s : State) : (tileCorrect c off n s).js = s.js := by
  unfold tileCorrect
  dsimp only
  split <;> rfl

section
variable {s : State} {c : CoreId} (h : CoreClear s c) {slot : Nat} {t : Task} (hT : coreTask (fetchTouch c s) c = some (slot, t))
  {rd ra : Reg} {port : Fin 16}
include h hT

/-! #### SRD and SPOLL -/

section
variable {p : InPort} {e : StreamEnt} (hp : t.ins[port.val]? = some p) (he : inEnt (fetchTouch c s) t port.val = some e)
include hp he

theorem srd_element {b : List Byte} {rest : List Elem} (hb : p.buf = some b :: rest)
    (hin : inTaskTile (core s c) (gGet s c ra).toNat (elemBytes e.ty b).length = true)
    (hok : tileError (core (fetchTouch c s) c) true (gGet s c ra).toNat (elemBytes e.ty b).length = none) :
    exec (.srd c rd ra port) s = .next (ran c s (gSet c rd 0 (dropPort slot port.val 1
      (tileWrite c (tileOff (gGet s c ra).toNat) (elemBytes e.ty b) (fetchTouch c s))))) := by
  refine congrArg _ (runCore_clear_retires h ?_)
  simp only [hT, hp, he, hb, gGet_fetchTouch, inTaskTile_fetchTouch, hin, hok, Bool.not_true, Bool.false_eq_true, if_false]

theorem srd_outside {b : List Byte} {rest : List Elem} (hb : p.buf = some b :: rest)
    (hin : inTaskTile (core s c) (gGet s c ra).toNat (elemBytes e.ty b).length = false) :
    exec (.srd c rd ra port) s =
      .next (tookTrap c s { vec := 11, sub := 1, val := BitVec.ofNat 64 (gGet s c ra).toNat }) := by
  refine congrArg _ (runCore_clear_traps h ?_)
  simp only [hT, hp, he, hb, gGet_fetchTouch, inTaskTile_fetchTouch, hin, Bool.not_false, if_true, streamViolation]

theorem srd_null {rest : List Elem} (hb : p.buf = none :: rest) :
    exec (.srd c rd ra port) s = .next (ran c s (gSet c rd 2 (dropPort slot port.val 1 (fetchTouch c s)))) := by
  refine congrArg _ (runCore_clear_retires h ?_)
  simp only [hT, hp, he, hb]

theorem srd_ended (hb : p.buf = []) (hend : p.ended = true) :
    exec (.srd c rd ra port) s = .next (ran c s (gSet c rd 1 (fetchTouch c s))) := by
  refine congrArg _ (runCore_clear_retires h ?_)
  simp only [hT, hp, he, hb, hend, if_true]

theorem srd_waits (hb : p.buf = []) (hend : p.ended = false) : exec (.srd c rd ra port) s = .next (fetchTouch c s) := by
  refine congrArg _ (runCore_clear_waits h ?_)
  simp only [hT, hp, he, hb, hend, Bool.false_eq_true, if_false]

omit he in
theorem spoll_answers : exec (.spoll c rd ra port) s =
    .next (ran c s (gSet c rd (if p.buf ≠ [] ∨ p.ended = true then 1 else 0) (fetchTouch c s))) := by
  have hb : b2w (!p.buf.isEmpty || p.ended) = if p.buf ≠ [] ∨ p.ended = true then 1 else 0 := by
    simp [b2w]
  rw [← hb]
  refine congrArg _ (runCore_clear_retires h ?_)
  simp only [hT, hp]

end

/-- An input port that the stage does not have. -/
theorem input_absent (hp : t.ins[port.val]? = none) :
    exec (.srd c rd ra port) s = .next (tookTrap c s { vec := 18, sub := 0, val := BitVec.ofNat 64 port.val }) ∧
    exec (.spoll c rd ra port) s = .next (tookTrap c s { vec := 18, sub := 0, val := BitVec.ofNat 64 port.val }) := by
  constructor
  · exact congrArg _ (runCore_clear_traps h (by simp only [hT, hp]; rfl))
  · exact congrArg _ (runCore_clear_traps h (by simp only [hT, hp]; rfl))

/-- An output port that the stage does not have. -/
theorem output_absent (hp : t.outs[port.val]? = none) :
    exec (.swr c rd ra port) s = .next (tookTrap c s { vec := 18, sub := 0, val := BitVec.ofNat 64 port.val }) ∧
    exec (.swrn c rd ra port) s = .next (tookTrap c s { vec := 18, sub := 0, val := BitVec.ofNat 64 port.val }) ∧
    exec (.strSend c rd ra port) s = .next (tookTrap c s { vec := 18, sub := 0, val := BitVec.ofNat 64 port.val }) := by
  refine ⟨?_, ?_, ?_⟩
  · exact congrArg _ (runCore_clear_traps h (by simp only [hT, hp]; rfl))
  · exact congrArg _ (runCore_clear_traps h (by simp only [hT, hp]; rfl))
  · exact congrArg _ (runCore_clear_traps h (by simp only [hT, hp]; rfl))

/-! #### SEND, SWRN and SWR -/

section
variable {p : OutPort} {e : StreamEnt} (hp : t.outs[port.val]? = some p)
include hp

theorem send_ends (hend : p.ended = false) : exec (.strSend c rd ra port) s = .next (ran c s (gSet c rd 0
    (taskMod slot (fun t => { t with outs := lmod t.outs port.val fun p => { p with ended := true } }) (fetchTouch c s)))) := by
  refine congrArg _ (runCore_clear_retires h ?_)
  simp only [hT, hp, hend, Bool.false_eq_true, if_false]

theorem send_ended (hend : p.ended = true) :
    exec (.strSend c rd ra port) s = .next (tookTrap c s { vec := 18, sub := 1, val := BitVec.ofNat 64 port.val }) := by
  refine congrArg _ (runCore_clear_traps h ?_)
  simp only [hT, hp, hend, if_true, streamError]

variable (he : outEnt (fetchTouch c s) t port.val = some e)
include he

theorem swrn_sends (hend : p.ended = false) (hn : e.nullable = true) (hl : leaveOf (fetchTouch c s) t port.val = .now) :
    exec (.swrn c rd ra port) s = .next (ran c s (gSet c rd 0 (pushOut slot port.val [none] (fetchTouch c s)))) := by
  refine congrArg _ (runCore_clear_retires h ?_)
  simp only [hT, hp, he, hend, hn, sendElem, hl, Bool.not_true, Bool.false_eq_true, if_false]

theorem swrn_waits (hend : p.ended = false) (hn : e.nullable = true) (hl : leaveOf (fetchTouch c s) t port.val = .stall) :
    exec (.swrn c rd ra port) s = .next (fetchTouch c s) := by
  refine congrArg _ (runCore_clear_waits h ?_)
  simp only [hT, hp, he, hend, hn, sendElem, hl, Bool.not_true, Bool.false_eq_true, if_false]

theorem swrn_ended (hend : p.ended = true) :
    exec (.swrn c rd ra port) s = .next (tookTrap c s { vec := 18, sub := 1, val := BitVec.ofNat 64 port.val }) := by
  refine congrArg _ (runCore_clear_traps h ?_)
  simp only [hT, hp, he, hend, if_true, streamError]

theorem swrn_notNullable (hend : p.ended = false) (hn : e.nullable = false) :
    exec (.swrn c rd ra port) s = .next (tookTrap c s { vec := 18, sub := 2, val := BitVec.ofNat 64 port.val }) := by
  refine congrArg _ (runCore_clear_traps h ?_)
  simp only [hT, hp, he, hend, hn, Bool.false_eq_true, Bool.not_false, if_false, if_true, streamError]

/-- SWR comes to swrBody of what the element's type gives: the value's bytes, after their length where it is VARBYTES. -/
theorem swr_next {skip n : Nat}
    (hn : (e.ty ≠ tyVar ∧ skip = 0 ∧ n = elemWidth (taskImg (fetchTouch c s) t) e.ty e.layout) ∨
      (e.ty = tyVar ∧ inTaskTile (core s c) (gGet s c ra).toNat 4 = true ∧ skip = 4 ∧
        n = leNat (memTake (core s c).tile (tileOff (gGet s c ra).toNat) 4))) :
    exec (.swr c rd ra port) s =
      .next (coreEnds c s (swrBody c rd slot t port.val p (gGet s c ra).toNat skip n (fetchTouch c s))) := by
  refine congrArg _ (runCore_clear h ?_)
  rcases hn with ⟨hty, rfl, rfl⟩ | ⟨hty, hin, rfl, rfl⟩
  · simp only [hT, hp, he, gGet_fetchTouch, if_neg hty]
  · simp only [hT, hp, he, gGet_fetchTouch, if_pos hty, inTaskTile_fetchTouch, tile_fetchTouch, hin, Bool.not_true,
      Bool.false_eq_true, if_false]

/-- SWR of a VARBYTES value whose length lies outside the task's region. -/
theorem swr_length_outside (hty : e.ty = tyVar) (hin : inTaskTile (core s c) (gGet s c ra).toNat 4 = false) :
    exec (.swr c rd ra port) s =
      .next (tookTrap c s { vec := 11, sub := 1, val := BitVec.ofNat 64 (gGet s c ra).toNat }) := by
  refine congrArg _ (runCore_clear_traps h ?_)
  simp only [hT, hp, he, gGet_fetchTouch, if_pos hty, inTaskTile_fetchTouch, hin, Bool.not_false, if_true, streamViolation]

end

end

section
variable {s : State} {c : CoreId} {rd : Reg} {slot : Nat} {t : Task} {port : Nat} {p : OutPort} {a skip n : Nat}

theorem swrBody_outside (hin : inTaskTile (core s c) a (skip + n) = false) :
    swrBody c rd slot t port p a skip n (fetchTouch c s) =
      .trap { vec := 11, sub := 1, val := BitVec.ofNat 64 a } (fetchTouch c s) := by
  unfold swrBody
  simp only [inTaskTile_fetchTouch, hin, Bool.not_false, if_true, streamViolation]

variable (hin : inTaskTile (core s c) a (skip + n) = true)
  (hok : tileError (core (fetchTouch c s) c) false a (skip + n) = none)
include hin hok

theorem swrBody_ended (hend : p.ended = true) : swrBody c rd slot t port p a skip n (fetchTouch c s) =
    .trap { vec := 18, sub := 1, val := BitVec.ofNat 64 port } (fetchTouch c s) := by
  unfold swrBody
  simp only [inTaskTile_fetchTouch, hin, hok, hend, Bool.not_true, Bool.false_eq_true, if_false, if_true, streamError]

theorem swrBody_sends (hend : p.ended = false) (hl : leaveOf (fetchTouch c s) t port = .now) :
    swrBody c rd slot t port p a skip n (fetchTouch c s) =
      .retire (gSet c rd 0 (pushOut slot port [some (memTake (core s c).tile (tileOff a + skip) n)]
        (tileCorrect c (tileOff a) (skip + n) (fetchTouch c s)))) := by
  unfold swrBody
  simp only [inTaskTile_fetchTouch, tile_fetchTouch, hin, hok, hend, Bool.not_true, Bool.false_eq_true, if_false, sendElem,
    leaveOf_of_js (tileCorrect_js _ _ _ _), hl]

end

/-- SWR of an element that leaves: m bytes are read, of which those from o on are the element's. -/
theorem swr_sends {s : State} {c : CoreId} (h : CoreClear s c) {slot : Nat} {t : Task}
    (hT : coreTask (fetchTouch c s) c = some (slot, t)) {rd ra : Reg} {port : Fin 16} {p : OutPort} {e : StreamEnt}
    (hp : t.outs[port.val]? = some p) (he : outEnt (fetchTouch c s) t port.val = some e) {skip n m o : Nat}
    (hn : (e.ty ≠ tyVar ∧ skip = 0 ∧ n = elemWidth (taskImg (fetchTouch c s) t) e.ty e.layout) ∨
      (e.ty = tyVar ∧ inTaskTile (core s c) (gGet s c ra).toNat 4 = true ∧ skip = 4 ∧
        n = leNat (memTake (core s c).tile (tileOff (gGet s c ra).toNat) 4)))
    (hm : skip + n = m) (ho : tileOff (gGet s c ra).toNat + skip = o) (hin : inTaskTile (core s c) (gGet s c ra).toNat m = true)
    (hok : tileError (core (fetchTouch c s) c) false (gGet s c ra).toNat m = none) (hend : p.ended = false)
    (hl : leaveOf (fetchTouch c s) t port.val = .now) :
    exec (.swr c rd ra port) s = .next (ran c s (gSet c rd 0 (pushOut slot port.val [some (memTake (core s c).tile o n)]
      (tileCorrect c (tileOff (gGet s c ra).toNat) m (fetchTouch c s))))) := by
  subst hm ho
  rw [swr_next h hT hp he hn, swrBody_sends hin hok hend hl]
  rfl

theorem inTaskTile_mono {k : Core} {a m n : Nat} (hmn : m ≤ n) (h : inTaskTile k a n = true) : inTaskTile k a m = true := by
  simp only [inTaskTile, Bool.and_eq_true, decide_eq_true_eq] at h ⊢
  omega

/-- Settles O26: each stream instruction by what its port holds, has room for, and may still take. -/
theorem streamInstructions : Obligations.StreamInstructions := by
  unfold Obligations.StreamInstructions
  intro s u c rd ra port slot t a h hu ha hT
  subst hu ha
  refine ⟨fun p e hp he => ⟨fun b rest hb => ⟨fun hin hok => ?_, fun hin => ?_⟩, fun rest hb => ?_, fun hb hend => ?_,
    fun hb hend => ?_, ?_⟩, fun p e hp he hend => ⟨?_, fun hn hr => ?_, fun hc hr => ⟨fun hn => ?_, fun w hty hw hin hok => ?_,
      fun w hty hw hin hok => ?_⟩, fun w hw hin => ?_⟩, fun hp => input_absent h hT hp, fun hp => output_absent h hT hp,
    fun p e hp he => ⟨fun hend => ⟨fun w hty hw hin hok => ?_, ?_, ?_⟩, fun hend hn => ?_⟩⟩
  · exact srd_element h hT hp he hb hin hok
  · exact srd_outside h hT hp he hb hin
  · exact srd_null h hT hp he hb
  · exact srd_ended h hT hp he hb hend
  · exact srd_waits h hT hp he hb hend
  · exact spoll_answers h hT hp
  · exact send_ends h hT hp hend
  · exact swrn_waits h hT hp he hend hn (leaveOf_stall hp hr)
  · exact swrn_sends h hT hp he hend hn (leaveOf_now hp hr hc)
  · subst hw
    exact swr_sends h hT hp he (.inl ⟨hty, rfl, rfl⟩) (Nat.zero_add _) (Nat.add_zero _) hin hok hend (leaveOf_now hp hr hc)
  · subst hw
    exact swr_sends h hT hp he (.inr ⟨hty, inTaskTile_mono (Nat.le_add_right 4 _) hin, rfl, rfl⟩) rfl rfl hin hok hend
      (leaveOf_now hp hr hc)
  · have outside : ∀ {skip n}, inTaskTile (core s c) (gGet s c ra).toNat (skip + n) = false →
        Host.Outcome.next (φ := Fault) (ρ := Refusal)
          (coreEnds c s (swrBody c rd slot t port.val p (gGet s c ra).toNat skip n (fetchTouch c s))) =
        .next (tookTrap c s { vec := 11, sub := 1, val := BitVec.ofNat 64 (gGet s c ra).toNat }) := by
      intro skip n hout
      rw [swrBody_outside hout]
      rfl
    rcases hw with ⟨hty, rfl⟩ | ⟨hty, rfl | rfl⟩
    · rw [swr_next h hT hp he (.inl ⟨hty, rfl, rfl⟩)]
      exact outside (by rwa [Nat.zero_add])
    · exact swr_length_outside h hT hp he hty hin
    · cases h4 : inTaskTile (core s c) (gGet s c ra).toNat 4 with
      | false => exact swr_length_outside h hT hp he hty h4
      | true =>
        rw [swr_next h hT hp he (.inr ⟨hty, h4, rfl, rfl⟩)]
        exact outside hin
  · subst hw
    rw [swr_next h hT hp he (.inl ⟨hty, rfl, rfl⟩), swrBody_ended (by rwa [Nat.zero_add]) (by rwa [Nat.zero_add]) hend]
    rfl
  · exact swrn_ended h hT hp he hend
  · exact send_ended h hT hp hend
  · exact swrn_notNullable h hT hp he hend hn

end Sys2Proof.Machine
end

section
/-! PROOFS. Entries to S and M (R183 to R188), interrupts, the imprecise exception and the restart of a core (R191, R193). -/

namespace Sys2Proof.Machine

/-! ### Entries to M -/

section
variable {s : State} {c : CoreId} {vec sub : Nat} {val ret : Word} {imp : Bool}

/-- An entry taken to M: from M, by MACHINE_CHECK or by MCALL. -/
theorem enter_toM (h : coreLevel s c = .m ∨ vec = 2 ∨ vec = 17) :
    enter c vec sub val ret imp s = enterM c (coreLevel s c).code vec sub val ret imp s := by
  unfold enter
  exact if_pos (by rcases h with h | h | h <;> simp [h])

/-- An entry taken to S: from T or S, by any other vector. -/
theorem enter_toS (hl : coreLevel s c ≠ .m) (h2 : vec ≠ 2) (h17 : vec ≠ 17) {s' : State} {lost : Option Trap}
    (he : entryS s c (coreLevel s c).code vec sub val ret imp = some (s', lost)) :
    enter c vec sub val ret imp s = pushLost c lost (countEntry c imp s') := by
  unfold enter
  dsimp only
  rw [if_neg (by simp [hl, h2, h17]), he]

/-- A first-level entry to M. -/
theorem entryM_first {k : Core} {lvl : Nat} (h : k.mstat.getLsbD 6 = false) : entryM k lvl vec sub val ret imp = some { k with
    mepc := ret, mstat := entryStat k.mstat lvl vec sub (nestOf k.mstat) imp, mval := val, pc := slotAddr 0xFFFFE000 vec
    pstat := setLevel k.pstat .m, resv := none } := by
  have hx : exlOf k.mstat = false := h
  simp only [entryM, hx, Bool.false_eq_true, if_false]

/-- A nested entry to M whose push fails. -/
theorem entryM_pushFails {k : Core} {lvl : Nat} (h : k.mstat.getLsbD 6 = true)
    (he : k.estk.toNat % 32 ≠ 0 ∨ k.estk.toNat < 0xFFFFC000 + 32 ∨ 0xFFFFE000 < k.estk.toNat) :
    entryM k lvl vec sub val ret imp = none := by
  unfold entryM
  dsimp only
  rw [if_pos (by simpa [exlOf] using h), if_pos (by simpa [or_assoc] using he)]

theorem pushEstk_ok {k : Core} {frame : List Byte} (h32 : k.estk.toNat % 32 = 0) (hlo : 0xFFFFC000 + 32 ≤ k.estk.toNat)
    (hhi : k.estk.toNat ≤ 0xFFFFE000) : pushEstk k frame = some { k with
      tile := memPut k.tile (tileOff (k.estk.toNat - 32)) frame, estk := BitVec.ofNat 64 (k.estk.toNat - 32)
      tileBad := k.tileBad.filter fun x => !wordIn x.1 (tileOff (k.estk.toNat - 32)) 32 } := by
  unfold pushEstk
  exact if_neg (by simp; omega)

/-! ### Entries to S -/

/-- A first-level entry to S touches no memory. -/
theorem entryS_first {lvl : Nat} (h : (core s c).sstat.getLsbD 6 = false) : entryS s c lvl vec sub val ret imp =
    some (coreMod c (fun k => { k with
      sepc := ret, sstat := entryStat k.sstat lvl vec sub (nestOf (core s c).sstat) imp, sval := val
      pc := slotAddr 0xFFFFF000 vec, pstat := setLevel k.pstat .s, resv := none }) s, none) := by
  have hx : exlOf (core s c).sstat = false := h
  simp only [entryS, hx, Bool.false_eq_true, if_false]

/-- A nested entry to S with g31 misaligned or NEST 15. -/
theorem entryS_pushFails {lvl : Nat} (h : (core s c).sstat.getLsbD 6 = true)
    (hg : (gGet s c 31).toNat % 32 ≠ 0 ∨ bitsOf (core s c).sstat.toNat 15 12 = 15) :
    entryS s c lvl vec sub val ret imp = none := by
  have hx : exlOf (core s c).sstat = true := h
  unfold entryS
  dsimp only
  rw [if_pos hx, if_pos]
  rw [Bool.or_eq_true, decide_eq_true_eq, decide_eq_true_eq]
  exact hg

/-- Every tile word that 32 bytes at a multiple of 8 touch lies wholly in them. -/
theorem wordIn_of_wordMeets {w off : Nat} (h8 : off % 8 = 0) (hm : wordMeets w off 32 = true) : wordIn w off 32 = true := by
  simp only [wordMeets, wordIn, Bool.and_eq_true, decide_eq_true_eq] at hm ⊢
  omega

theorem tileError_frame {k : Core} {a : Nat} (h8 : tileOff a % 8 = 0) : tileError k true a 32 = none := by
  unfold tileError
  rw [Option.map_eq_none_iff, List.find?_eq_none]
  intro e _ he
  simp only [Bool.and_eq_true, Bool.not_eq_true', Bool.and_eq_false_iff, Bool.true_eq_false, false_or] at he
  exact absurd (wordIn_of_wordMeets h8 he.1.2) (by rw [he.2]; decide)

/-- A frame stored at a multiple of 8 encodes its words anew and reads none. -/
theorem tileWrite_frame {off : Nat} {bytes : List Byte} (hlen : bytes.length = 32) (h8 : off % 8 = 0) :
    tileWrite c off bytes s = coreMod c (fun k => { k with
      tile := memPut k.tile off bytes, tileBad := k.tileBad.filter fun e => !wordIn e.1 off 32 }) s := by
  unfold tileWrite
  rw [hlen]
  unfold tileCorrect
  dsimp only
  have hnone : ((core s c).tileBad.filter fun e => !wordIn e.1 off 32).filter (fun e => !e.2 && wordMeets e.1 off 32) = [] := by
    rw [List.filter_eq_nil_iff]
    intro e he hm
    simp only [List.mem_filter, Bool.not_eq_true'] at he
    simp only [Bool.and_eq_true] at hm
    exact absurd (wordIn_of_wordMeets h8 hm.2) (by rw [he.2]; decide)
  rw [core_coreMod_self, if_pos (by rw [hnone]; rfl)]

theorem frameBytes_length (a b d e : Word) : (frameBytes a b d e).length = 32 := by
  simp [frameBytes]

/-- The level field of pstat reads as set. -/
theorem bitsOf_setLevel (w : Word) (l : Level) : bitsOf (setLevel w l).toNat 31 30 = l.code := by
  refine bitsOf_eq (fun j hj => ?_) (by cases l <;> decide)
  rw [BitVec.testBit_toNat]
  unfold setLevel
  rw [getLsbD_wput _ _ _ _ _ (by decide) (by omega), if_pos (by omega), Nat.add_sub_cancel_left]

theorem coreLevel_setLevel (l : Level) (x : State) :
    coreLevel (coreMod c (fun k => { k with pstat := setLevel k.pstat l }) x) c = l := by
  unfold coreLevel
  rw [core_coreMod_self, bitsOf_setLevel]
  cases l <;> rfl

/-- A frame at a multiple of 8 in the part of the tile window that S may store to lands in tile memory. -/
theorem corePlace_frame {x : State} {a : Nat} (hl : coreLevel x c = .s) (h8 : tileOff a % 8 = 0) (hlo : 0xFFFFE800 ≤ a)
    (hhi : a + 32 ≤ 0xFFFFF000) : corePlace x c .write a 32 = .ok (.tile (tileOff a)) := by
  have hw : inWindow a = true := by
    simp only [inWindow, Bool.and_eq_true, decide_eq_true_eq]; omega
  have hg : tileGrants (core x c) .s true a 32 = true := by
    simp only [tileGrants, Bool.and_eq_true, decide_eq_true_eq, Bool.not_eq_true', Bool.and_eq_false_iff,
      decide_eq_false_iff_not, Bool.true_eq_false, false_or]; omega
  unfold corePlace
  dsimp only
  rw [if_pos hw, hl, decide_eq_true (rfl : AccKind.write = .write), hg, tileError_frame h8]
  rfl

/-- A nested entry to S whose frame fits below g31. -/
theorem entryS_nested {lvl : Nat} (h : (core s c).sstat.getLsbD 6 = true) (h32 : (gGet s c 31).toNat % 32 = 0)
    (hn : nestOf (core s c).sstat ≠ 15) (hlo : 0xFFFFE800 + 32 ≤ (gGet s c 31).toNat)
    (hhi : (gGet s c 31).toNat ≤ 0xFFFFF000) :
    entryS s c lvl vec sub val ret imp = some (coreMod c (fun k => { k with
      sepc := ret, sstat := entryStat k.sstat lvl vec sub (nestOf (core s c).sstat + 1) imp, sval := val
      pc := slotAddr 0xFFFFF000 vec, pstat := setLevel k.pstat .s, resv := none })
      (gSet c 31 (gGet s c 31 - 32) (coreMod c (fun k => { k with
        tile := memPut k.tile (tileOff ((gGet s c 31).toNat - 32))
          (frameBytes (core s c).sepc (core s c).sstat (core s c).sval 0)
        tileBad := k.tileBad.filter fun e => !wordIn e.1 (tileOff ((gGet s c 31).toNat - 32)) 32 }) s)), none) := by
  have hx : exlOf (core s c).sstat = true := h
  have htop : (gGet s c 31 - 32).toNat = (gGet s c 31).toNat - 32 := by bv_omega
  have h8 : tileOff ((gGet s c 31).toNat - 32) % 8 = 0 := by unfold tileOff; omega
  unfold entryS
  dsimp only
  rw [if_pos hx, if_neg (by simp [h32, hn]), htop, corePlace_frame (coreLevel_setLevel .s s) h8 (by omega) (by omega)]
  dsimp only [pushFrame]
  rw [tileWrite_frame (frameBytes_length ..) h8]

end

/-- A status word of an entry differs from a given function of the core's only in name. -/
theorem coreMod_sstat {c : CoreId} {x : State} {w : Word} {ret val pc : Word} {st : Word → Word} (h : st (core x c).sstat = w) :
    coreMod c (fun k => { k with
      sepc := ret, sstat := st k.sstat, sval := val, pc := pc, pstat := setLevel k.pstat .s, resv := none }) x =
    coreMod c (fun k => { k with
      sepc := ret, sstat := w, sval := val, pc := pc, pstat := setLevel k.pstat .s, resv := none }) x :=
  coreMod_const2 c x _ _ (by rw [h])

/-- Settles O23, case by case along `enter`: to S first-level, to M first-level, nested to S, DOUBLE_FAULT, halt. -/
theorem entries : Obligations.Entries := by
  unfold Obligations.Entries
  intro s c vec sub val ret imp hv hs
  have hp := level_code_lt (coreLevel s c)
  refine ⟨?_, ?_, ?_, ?_, ?_⟩
  · intro hl h2 h17 hx
    refine ⟨_, entry_word _ _ _ _ _ imp hv hs (nest_lt _) hp, ?_⟩
    rw [enter_toS hl h2 h17 (entryS_first hx)]
    exact congrArg (countEntry c imp) (coreMod_sstat (st := fun w => entryStat w _ _ _ _ _) rfl)
  · intro hm hx
    refine ⟨_, entry_word _ _ _ _ _ imp hv hs (nest_lt _) hp, ?_⟩
    rw [enter_toM hm, enterM, entryM_first hx]
    exact congrArg (countEntry c imp) (coreMod_const _ _ _ _ rfl)
  · intro hl h2 h17 hx h32 hn hlo hhi
    have h15 : nestOf (core s c).sstat + 1 < 16 := by
      have := nest_lt (core s c).sstat
      have hn' : nestOf (core s c).sstat ≠ 15 := hn
      omega
    refine ⟨_, entry_word _ _ _ _ _ imp hv hs h15 hp, ?_⟩
    rw [enter_toS hl h2 h17 (entryS_nested hx h32 hn hlo hhi)]
    refine congrArg (countEntry c imp) (coreMod_sstat (st := fun w => entryStat w _ _ _ _ _) ?_)
    simp only [gSet, core_coreMod_self, show (31 : Reg) ≠ 0 by decide, if_false]
    rfl
  · intro hl h2 h17 hx hg hmx h32 hlo hhi
    refine ⟨_, entry_word _ _ _ _ _ false (by omega) (by omega) (nest_lt _) hp, ?_⟩
    unfold enter
    dsimp only
    rw [if_neg (by simp [hl, h2, h17]), entryS_pushFails hx hg]
    dsimp only
    rw [pushEstk_ok h32 hlo hhi]
    dsimp only
    rw [entryM_first (by exact hmx)]
    dsimp only
    refine congrArg (fun x => countEntry c false (odBump _ 6 x)) (coreMod_const _ _ _ _ ?_)
    have he : BitVec.ofNat 64 ((core s c).estk.toNat - 32) = (core s c).estk - 32 := by bv_omega
    rw [he]
    rfl
  · intro hm hx he
    rw [enter_toM hm, enterM, entryM_pushFails hx he]

/-! ### Interrupts, the imprecise exception and restart -/

/-- The lowest pending interrupt is the one with none pending below it (log entry 15). -/
theorem lowestIntr_eq {x : BitVec 4} {i : Nat} (hi : i < 4) (hx : x.getLsbD i = true) (hl : ∀ j < i, x.getLsbD j = false) :
    lowestIntr x = some i := by
  unfold lowestIntr
  rw [List.find?_range_eq_some]
  exact ⟨hx, List.mem_range.mpr hi, fun j hj => by rw [hl j hj]; rfl⟩

theorem takesIntr_of_pending {s : State} {c : CoreId} {i : Nat} (hx : (core s c).intr.getLsbD i = true)
    (hl : coreLevel s c = .t ∨ (coreLevel s c = .s ∧ (core s c).sstat.getLsbD 7 = true)) : takesIntr s c = true := by
  have hne : (core s c).intr ≠ 0 := fun h => by rw [h] at hx; simp at hx
  unfold takesIntr
  rcases hl with hl | ⟨hl, h7⟩
  · simp only [hl, ne_eq, hne, not_false_eq_true, decide_true, Bool.and_true, Bool.true_or]
  · simp only [hl, h7, ne_eq, hne, not_false_eq_true, decide_true, Bool.and_true, Bool.or_true]

theorem takesIntr_false {s : State} {c : CoreId}
    (h : (core s c).intr = 0 ∨ coreLevel s c = .m ∨ (coreLevel s c = .s ∧ (core s c).sstat.getLsbD 7 = false)) :
    takesIntr s c = false := by
  unfold takesIntr
  rcases h with h | h | ⟨hl, h7⟩
  · simp [h]
  · simp [h]
  · simp only [hl, h7, Bool.and_false, Bool.or_false, reduceCtorEq, decide_false]

/-- The lowest pending interrupt is taken: the runtime's saved registers, and the entry by vector 32 + i (R193, R194). -/
theorem takeIntr_of_lowest {s : State} {c : CoreId} {i : Nat} (h : lowestIntr (core s c).intr = some i) :
    takeIntr c s = enter c (32 + i) 0 0 (core s c).pc false (coreMod c (fun k => { k with
      intr := k.intr &&& ~~~ (BitVec.ofNat 4 (2 ^ i))
      saved := if coreLevel s c = .t then (match k.task with
          | some slot => some { slot := slot, g := k.g, f := k.f, pstat := k.pstat, lvi := k.lvi, pc := k.pc }
          | none => k.saved) else k.saved }) s) := by
  unfold takeIntr
  dsimp only
  rw [h]
  refine congrArg (enter c (32 + i) 0 0 (core s c).pc false) (coreMod_const2 c s _ _ ?_)
  cases coreLevel s c <;> cases (core s c).task <;> rfl

/-- What the end of a freeze changes elsewhere: neither a core nor a byte of memory. -/
theorem cores_ms_settleFreeze (n : Nat) (s : State) : (settleFreeze n s).cores = s.cores ∧ (settleFreeze n s).ms = s.ms := by
  have hm := mirrorOnly_mirror (instRecord (odSet (instIdx n) 3 4 s) n) (odSet (instIdx n) 3 4 s)
  unfold settleFreeze
  split
  · exact ⟨hm.cores, hm.ms⟩
  · exact ⟨rfl, rfl⟩

theorem cores_ms_settlePrep (s : State) : (settlePrep s).cores = s.cores ∧ (settlePrep s).ms = s.ms := by
  unfold settlePrep
  split <;> exact ⟨rfl, rfl⟩

theorem cores_ms_leaveHeld (u : Nat) (s : State) : (leaveHeld u s).cores = s.cores ∧ (leaveHeld u s).ms = s.ms := by
  unfold leaveHeld
  split <;> exact ⟨rfl, rfl⟩

/-- A core after Table 08-8 steps 4 and 5. -/
def restarted (k : Core) : Core :=
  { g := k.g, f := k.f, haltCause := k.haltCause, haltTimes := k.haltTimes
    run := if k.run = .outOfService then .outOfService else .running }

theorem cores_ms_coreRestart {c : CoreId} {s : State} (h : (core s c).run ≠ .running) :
    (coreRestart c s).cores = (coreMod c restarted s).cores ∧ (coreRestart c s).ms = s.ms := by
  unfold coreRestart
  dsimp only
  rw [if_neg h]
  split
  · exact ⟨rfl, rfl⟩
  · split
    · split
      · exact cores_ms_leaveHeld _ _
      · exact ⟨rfl, rfl⟩
    · exact ⟨rfl, rfl⟩

/-- CORE_RESTART changes the restarted core, no other and no byte of memory. -/
theorem execCoreRestart_cores {c : CoreId} {s : State} (h : (core s c).run ≠ .running) :
    ∃ t, execCoreRestart c s = .next t ∧ t.cores = (coreMod c restarted s).cores ∧ t.ms = s.ms := by
  obtain ⟨hc, hm⟩ := cores_ms_coreRestart h
  unfold execCoreRestart
  rw [if_neg h]
  refine ⟨_, rfl, ?_⟩
  split
  case h_1 _ t _ =>
    obtain ⟨hfc, hfm⟩ := cores_ms_settleFreeze t.inst (coreRestart c s)
    obtain ⟨hpc, hpm⟩ := cores_ms_settlePrep (settleFreeze t.inst (coreRestart c s))
    exact ⟨hpc.trans (hfc.trans hc), hpm.trans (hfm.trans hm)⟩
  case h_2 => exact ⟨hc, hm⟩

/-- Settles O25. -/
theorem coreEvents : Obligations.CoreEvents := by
  unfold Obligations.CoreEvents
  intro s c i sub addr
  refine ⟨?_, ?_, ?_, ?_, ?_, ?_⟩
  · intro ha himp hi hx hl hlev
    have hrun : execInterruptTaken c s = .next (takeIntr c s) := by
      simp [execInterruptTaken, ha, takesIntr_of_pending hx hlev, himp]
    exact hrun.trans (congrArg _ (takeIntr_of_lowest (lowestIntr_eq hi hx hl)))
  · intro h
    show execInterruptTaken c s = .next s
    simp [execInterruptTaken, takesIntr_false h]
  · intro ha himp
    show execImpreciseArithmetic c s = _
    simp only [execImpreciseArithmetic, ha, if_true, takeImprecise, himp]
  · intro himp
    show execImpreciseArithmetic c s = _
    simp [execImpreciseArithmetic, takeImprecise, himp]
  · intro hr
    show execCoreRestart c s = _
    simp [execCoreRestart, hr]
  · intro hr
    obtain ⟨t, ht, hc, hm⟩ := execCoreRestart_cores hr
    have hcore : ∀ e : CoreId, core t e = core (coreMod c restarted s) e := fun e => by unfold core; rw [hc]
    exact ⟨t, ht, (hcore c).trans (core_coreMod_self ..), fun e he => (hcore e).trans (core_coreMod_ne c e _ s (Ne.symm he)), hm⟩

end Sys2Proof.Machine
end

section
/-! PROOFS. Fault and memory timeouts, the end of a reset and the abort of a freeze (R262, R263, R269, R270, R321, R326, R450). -/

namespace Sys2Proof.Machine

/-- Outside HOLD the effect of a command that stops there takes place. -/
theorem unlessHold_of_ne {s t : State} (h : s.mode ≠ .hold) : unlessHold s t = t := if_neg h

/-! ### Jobs that fail -/

/-- A job fails from a state with the same jobs and tasks. -/
theorem jobFails_of_js {s s' u : State} {jid status : Nat} {er : ErrRec} (h : JobFails s' u jid status er)
    (hj : s'.js.jobs = s.js.jobs) (ht : s'.js.tasks = s.js.tasks) : JobFails s u jid status er := by
  intro j hjob hend
  obtain ⟨hu, htasks⟩ := h j ((jobOf_of_jobs hj jid).trans hjob) hend
  exact ⟨hu, fun k t hk => htasks k t ((taskAt_of_tasks ht k).trans hk)⟩

/-- A task's job fails from a state with the same jobs and tasks; the record names its unit and stage (R479). -/
theorem failTask_jobFails {s s' : State} {slot status : Nat} {er : ErrRec} {t : Task} (ht : taskAt s slot = some t)
    (hj : s'.js.jobs = s.js.jobs) (htasks : s'.js.tasks = s.js.tasks) :
    JobFails s (failTask slot status er s') t.jid status { er with unit := t.unit, stage := t.stage } := by
  unfold failTask
  rw [(taskAt_of_tasks htasks slot).trans ht]
  exact jobFails_of_js (failJob_jobFails _ _ _ _) hj htasks

theorem timeOut_jobFails (jid : Nat) (p : Parked) (s : State) : JobFails s (timeOut jid p s) jid 0x0301
    { address := p.fr.address, detail := p.fr.level, detail2 := p.id, reason := p.fr.reason, unit := p.fr.unit
      stage := p.fr.stage } :=
  jobFails_of_js (failJob_jobFails _ _ _ _) rfl rfl

/-! ### FAULT_TIMEOUT -/

section
variable {s : State} (hm : s.mode ≠ .hold) {slot : Nat}
include hm

theorem faultTimeout_parked {t : Task} {p : Parked} (ht : taskAt s slot = some t) (hp : t.parked = some p) :
    exec (.faultTimeout slot) s = .next (timeOut t.jid p s) := by
  show execFaultTimeout slot s = _
  simp only [execFaultTimeout, unlessHold_of_ne hm, ht, hp]

theorem faultTimeout_unparked {t : Task} (ht : taskAt s slot = some t) (hp : t.parked = none) :
    exec (.faultTimeout slot) s = .next s := by
  show execFaultTimeout slot s = _
  simp only [execFaultTimeout, unlessHold_of_ne hm, ht, hp]

theorem faultTimeout_gone (hs : slot < 65536) (ht : taskAt s slot = none) : exec (.faultTimeout slot) s = .next s := by
  show execFaultTimeout slot s = _
  simp only [execFaultTimeout, unlessHold_of_ne hm, ht, if_neg (Nat.not_le.mpr hs)]
  split
  case h_1 h => exact absurd h (by simp)
  case h_2 => split <;> rfl
  case h_3 => rfl

theorem faultTimeout_zone {k : Nat} {z : Zone} {p : Parked} (hz : s.net.zones[k]? = some z) (hp : z.parked = some p)
    (ht : taskAt s (65536 + k) = none) : exec (.faultTimeout (65536 + k)) s = .next (timeOut z.jid p s) := by
  show execFaultTimeout (65536 + k) s = _
  simp only [execFaultTimeout, unlessHold_of_ne hm, ht, Nat.add_sub_cancel_left, hz, hp, if_pos (Nat.le_add_right 65536 k)]

/-! ### MEMORY_TIMEOUT -/

/-- A timeout names a core that may hold no task by 65,536 and its number, and another by the slot of its task (log entry 53). -/
theorem memoryTimeout_core {c : CoreId} {a w : Nat} {st : Bool}
    (h : slot = 65536 + c.val ∨ (slot < 65536 ∧ ∃ t, taskAt s slot = some t ∧ t.unit = c.val)) :
    exec (.memoryTimeout slot a w st) s = .next (coreTimeout c a w st s) := by
  show execMemoryTimeout slot a w st s = _
  unfold execMemoryTimeout
  rw [unlessHold_of_ne hm]
  rcases h with rfl | ⟨hs, t, ht, hu⟩
  · rw [dif_pos ⟨by omega, by omega⟩]
    exact congrArg (fun x => Host.Outcome.next (coreTimeout x a w st s)) (Fin.ext (Nat.add_sub_cancel_left ..))
  · rw [dif_neg (by omega), ht]
    dsimp only
    rw [dif_pos (by omega)]
    exact congrArg (fun x => Host.Outcome.next (coreTimeout x a w st s)) (Fin.ext hu)

theorem memoryTimeout_engine {t : Task} {a w : Nat} {st : Bool} (hs : slot < 65536) (ht : taskAt s slot = some t)
    (hu : 128 ≤ t.unit) : ∃ s', exec (.memoryTimeout slot a w st) s =
      .next (failTask slot 0x0304 { address := a, detail2 := w } s') ∧ s'.js = s.js := by
  refine ⟨if 0xB8 ≤ t.unit && t.unit ≤ 0xBB then odBump (0x3F00 + (t.unit - 0xB8)) 8 s else s, ?_, by split <;> rfl⟩
  show execMemoryTimeout slot a w st s = _
  unfold execMemoryTimeout
  rw [unlessHold_of_ne hm, dif_neg (by omega), ht]
  dsimp only
  rw [dif_neg (by omega)]

theorem memoryTimeout_gone {a w : Nat} {st : Bool} (hs : slot < 65536) (ht : taskAt s slot = none) :
    exec (.memoryTimeout slot a w st) s = .next s := by
  show execMemoryTimeout slot a w st s = _
  unfold execMemoryTimeout
  rw [unlessHold_of_ne hm, dif_neg (by omega), ht]

end

section
variable {s : State} {c : CoreId} {a w : Nat}

/-- Above T an exception is its entry alone. -/
theorem takeTrap_above_t {t : Trap} {ret : Word} {imp : Bool} (hl : coreLevel s c ≠ .t) (h : t.vec ≠ 11 ∧ t.vec ≠ 2) :
    takeTrap c t ret imp s = enter c t.vec t.sub t.val ret imp s := by
  simp only [takeTrap, h.1, h.2, hl, decide_false, Bool.false_and, Bool.false_eq_true, if_false, ite_self]
  split <;> rfl

/-- A lost store of the runtime or firmware is recorded in the RAS log alone; a lost load of theirs is the entry (R270). -/
theorem coreTimeout_above_t (hl : coreLevel s c ≠ .t) :
    coreTimeout c a w true s = rasEvent 1 0 a 0x0304 0 s ∧
    coreTimeout c a w false s = enter c 13 0 (BitVec.ofNat 64 a) (core s c).pc false s := by
  constructor
  · unfold coreTimeout
    rw [if_neg (by decide)]
    split
    case h_1 h => exact absurd h hl
    case h_2 => rfl
  · exact takeTrap_above_t hl ⟨(by decide : 13 ≠ 11), (by decide : 13 ≠ 2)⟩

/-- A lost store of task code fails its job (R270). -/
theorem coreTimeout_store {slot : Nat} (htask : (core s c).task = some slot) (hl : coreLevel s c = .t) :
    coreTimeout c a w true s = failTask slot 0x0304 { address := a, detail2 := w } s := by
  unfold coreTimeout
  rw [if_neg (by decide), htask, hl]

theorem core_countEntry (c d : CoreId) (imp : Bool) (s : State) : core (countEntry c imp s) d = core s d := by
  unfold countEntry
  split <;> rfl

theorem countEntry_js (c : CoreId) (imp : Bool) (s : State) : (countEntry c imp s).js = s.js := by
  unfold countEntry
  split <;> rfl

/-- What a first-level entry from T leaves of the core and the tasks. -/
theorem enter_from_t_leaves {vec sub : Nat} {val ret : Word} {imp : Bool} (hl : coreLevel s c = .t)
    (hx : exlOf (core s c).sstat = false) (hv : vec ≠ 2 ∧ vec ≠ 17) :
    (enter c vec sub val ret imp s).js = s.js ∧ (core (enter c vec sub val ret imp s) c).run = (core s c).run := by
  rw [enter_from_t c vec sub val ret imp s hl hx hv]
  rw [countEntry_js, core_countEntry, core_coreMod_self]
  exact ⟨rfl, rfl⟩

/-- A lost load of task code enters vector 13, and its job fails (R197, R270). -/
theorem coreTimeout_load {slot : Nat} {t : Task} (htask : (core s c).task = some slot) (hrun : (core s c).run = .running)
    (ht : taskAt s slot = some t) (htr : t.run = .running) (hl : coreLevel s c = .t) (hx : exlOf (core s c).sstat = false)
    (ha : a < 2 ^ 64) : ∃ s', coreTimeout c a w false s = failTask slot 0x0304 { address := a, detail2 := w } s' ∧ s'.js = s.js := by
  obtain ⟨hjs, hrun'⟩ := enter_from_t_leaves (vec := 13) (sub := 0) (val := BitVec.ofNat 64 a) (ret := (core s c).pc)
    (imp := false) hl hx (by decide)
  refine ⟨_, ?_, hjs⟩
  have htask' : taskAt (enter c 13 0 (BitVec.ofNat 64 a) (core s c).pc false s) slot = some t :=
    (taskAt_of_tasks (congrArg _ hjs) slot).trans ht
  have hval : (BitVec.ofNat 64 a).toNat = a := Nat.mod_eq_of_lt ha
  simp [coreTimeout, loadTimeout, takeTrap, htask, hrun'.trans hrun, hl, htask', htr, taskTrapped, hval]

end

/-! ### STATE and the instance record -/

section
variable {s : State} {n : Nat}

theorem setInstSt_js (n st : Nat) (s : State) : (setInstSt n st s).js = s.js := mirror_js _ _

theorem setInstSt_pw (n st : Nat) (s : State) : (setInstSt n st s).pw = s.pw := (mirrorOnly_mirror _ _).pw

theorem instSt_setInstSt_self (n st : Nat) (s : State) : instSt (setInstSt n st s) n = st :=
  ((mirrorOnly_mirror _ _).od _ _ (by decide) (.inr (by decide))).trans (od_odSet_self ..)

/-- Setting STATE leaves every entry but RECORDS_SENT and that STATE. -/
theorem od_setInstSt_ne {m st i j : Nat} (hj : j < 256) (h9 : i ≠ 0x2C02 ∨ j ≠ 9) (h : i ≠ instIdx m ∨ j ≠ 3) :
    od (setInstSt m st s) i j = od s i j := by
  refine ((mirrorOnly_mirror _ _).od _ _ hj h9).trans (od_odSet_ne _ _ _ _ _ _ fun e => ?_)
  obtain ⟨h1, h2⟩ := odKey_inj (by decide) hj e
  rcases h with h | h
  · exact h h1.symm
  · exact h h2.symm

theorem instSt_setInstSt_one {m : Nat} (h : instSt s n = 1) : instSt (setInstSt m 1 s) n = 1 := by
  by_cases hm : n = m
  · rw [hm]
    exact instSt_setInstSt_self m 1 s
  · have hi : instIdx n ≠ instIdx m := by unfold instIdx; omega
    exact (od_setInstSt_ne (by decide) (.inr (by decide)) (.inl hi)).trans h

theorem transition_setInstSt (m st : Nat) (s : State) : transition (setInstSt m st s) = transition s :=
  od_setInstSt_ne (by decide) (.inr (by decide)) (.inl (by unfold instIdx; omega))

/-! ### RESET_COMPLETE -/

theorem foldl_mirror_js (l : List (Nat × α)) (f : Nat × α → MRec) (s : State) :
    (l.foldl (fun s e => mirror (f e) s) s).js = s.js := by
  induction l generalizing s with
  | nil => rfl
  | cons e l ih => rw [List.foldl_cons, ih, mirror_js]

/-- At the end of a reset no queue and no refusal of the instance is left (R321 step 6). -/
theorem inst_deleteQueues (n : Nat) (s : State) :
    (inst (deleteQueues n s) n).sqs = [] ∧ (inst (deleteQueues n s) n).cqs = [] ∧ (inst (deleteQueues n s) n).refusals = [] := by
  unfold deleteQueues
  simp

theorem releaseTimers_js (n : Nat) (s : State) : (releaseTimers n s).js = s.js := by
  unfold releaseTimers
  generalize List.range 6 = l
  induction l generalizing s with
  | nil => rfl
  | cons k l ih =>
    rw [List.foldl_cons, ih]
    dsimp only
    split <;> rfl

theorem inst_of_js {s u : State} (h : u.js = s.js) (n : Nat) : inst u n = inst s n := by
  unfold inst; rw [h]

theorem endReset_js (n st : Nat) (s : State) :
    (endReset n st s).js = (deleteQueues n (odSet (instIdx n) 0x0B (od (reportReset n s) (instIdx n) 0x0A) (reportReset n s))).js := by
  unfold endReset
  generalize reportReset n s = x
  rw [setInstSt_js, odBump_js]
  split
  · rw [releaseTimers_js]
    rfl
  · rfl

theorem inst_endReset (n st : Nat) (s : State) :
    (inst (endReset n st s) n).sqs = [] ∧ (inst (endReset n st s) n).cqs = [] ∧ (inst (endReset n st s) n).refusals = [] := by
  rw [inst_of_js (endReset_js n st s)]
  exact inst_deleteQueues n _

theorem instSt_endReset (n st : Nat) (s : State) : instSt (endReset n st s) n = st := instSt_setInstSt_self _ _ _

theorem resetComplete_ends (hst : instSt s n = 2 ∨ instSt s n = 5) (htasks : ∀ e ∈ s.js.tasks, e.2.inst ≠ n) :
    resetComplete n s = endReset n (if instSt s n = 5 then 0 else 1) s := by
  unfold resetComplete
  rw [if_pos]
  simpa using ⟨hst, fun k t he => htasks (k, t) he⟩

theorem resetComplete_stays (h : (∃ e ∈ s.js.tasks, e.2.inst = n) ∨ (instSt s n ≠ 2 ∧ instSt s n ≠ 5)) : resetComplete n s = s := by
  unfold resetComplete
  rw [if_neg]
  rcases h with ⟨e, he, hn⟩ | ⟨h2, h5⟩
  · have hany : s.js.tasks.any (fun e => decide (e.2.inst = n)) = true := List.any_eq_true.mpr ⟨e, he, by simp [hn]⟩
    rw [hany]
    simp
  · simp [h2, h5]

/-! ### FREEZE_TIMEOUT -/

theorem freezeExpires_freezing (h : instSt s n = 3) : freezeExpires n s = setInstSt n 1 (odBump (instIdx n) 0x2C s) := if_pos h

theorem transition_freezeExpires (n : Nat) (s : State) : transition (freezeExpires n s) = transition s := by
  unfold freezeExpires
  split
  · rw [transition_setInstSt]
    exact od_odSet_ne _ _ _ _ _ _ fun e => by
      have := odKey_inj (by decide) (by decide) e
      omega
  · rfl

/-- A step that keeps every entry of subindex 3, where the STATE of an instance and TRANSITION stand, and the power record. -/
def StatesStay (s u : State) : Prop := (∀ i, od u i 3 = od s i 3) ∧ u.pw = s.pw

theorem StatesStay.refl (s : State) : StatesStay s s := ⟨fun _ => rfl, rfl⟩

theorem StatesStay.trans {s u v : State} (h : StatesStay s u) (k : StatesStay u v) : StatesStay s v :=
  ⟨fun i => (k.1 i).trans (h.1 i), k.2.trans h.2⟩

theorem statesStay_odSet {i j v : Nat} {s : State} (hj : j < 256) (h3 : j ≠ 3) : StatesStay s (odSet i j v s) :=
  ⟨fun _ => od_odSet_ne _ _ _ _ _ _ fun e => h3 (odKey_inj hj (by decide) e).2, rfl⟩

theorem statesStay_foldl {α : Type} {f : State → α → State} (h : ∀ s x, StatesStay s (f s x)) (l : List α) (s : State) :
    StatesStay s (l.foldl f s) := by
  induction l generalizing s with
  | nil => exact .refl s
  | cons x l ih => exact (h s x).trans (ih _)

theorem statesStay_noteEvent (t : Task) (fl : BitVec 32) (s : State) : StatesStay s (noteEvent t fl s) := by
  unfold noteEvent
  split
  · exact ⟨fun _ => rfl, rfl⟩
  · exact .refl s

theorem statesStay_setFlags (slot : Nat) (fl : BitVec 32) (s : State) : StatesStay s (setFlags slot fl s) := by
  unfold setFlags
  split
  · exact .refl s
  case h_2 t _ =>
    dsimp only
    refine StatesStay.trans (u := noteEvent t fl s) (statesStay_noteEvent t fl s) ?_
    split <;> exact ⟨fun _ => rfl, rfl⟩

theorem statesStay_flagsArrive (slot : Nat) (t : Task) (fl : BitVec 32) (s : State) : StatesStay s (flagsArrive slot t fl s) := by
  unfold flagsArrive
  split
  · split
    · exact (statesStay_odSet (by decide) (by decide)).trans (statesStay_setFlags _ _ _)
    · exact statesStay_setFlags _ _ _
  · exact statesStay_setFlags _ _ _

theorem statesStay_setModeFlag (s : State) : StatesStay s (setModeFlag s) := by
  refine statesStay_foldl (fun s x => ?_) _ _
  dsimp only
  split
  · exact statesStay_flagsArrive _ _ _ _
  · exact .refl s

theorem statesStay_postEvent (k : EvKind) (s : State) : StatesStay s (postEvent k s) :=
  statesStay_foldl (f := fun s l => { s with cx := { s.cx with
    events := tmod [] s.cx.events l (· ++ [⟨s.cx.nextHandle, k, stampOf s l⟩])
    nextHandle := if s.cx.nextHandle = 65535 then 1 else s.cx.nextHandle + 1 } }) (fun _ _ => ⟨fun _ => rfl, rfl⟩) _ _

theorem statesStay_odBump {i j : Nat} {s : State} (hj : j < 256) (h3 : j ≠ 3) : StatesStay s (odBump i j s) :=
  statesStay_odSet hj h3

theorem statesStay_ras (l : List (List Byte)) (s : State) : StatesStay s { s with ras := l } := ⟨fun _ => rfl, rfl⟩

theorem statesStay_rasLog (kind n : Nat) (tail : List Byte) (s : State) : StatesStay s (rasLog kind n tail s) :=
  StatesStay.trans (statesStay_ras _ s) (statesStay_odBump (by decide) (by decide))

theorem statesStay_rasEvent (kind n address status reason : Nat) (s : State) :
    StatesStay s (rasEvent kind n address status reason s) :=
  statesStay_rasLog _ _ _ _

/-- What the abort of a change does before TRANSITION is cleared. -/
def abortNoted (s : State) : State :=
  rasEvent 5 0 0 0 0 (postEvent .modeAbort (odBump 0x1300 6 (odSet 0x1300 5 (0xFF - od s 0x1300 4) s)))

theorem recordAbort_eq (s : State) : recordAbort s = setModeFlag (odSet 0x1300 3 0 (abortNoted s)) := rfl

theorem statesStay_abortNoted (s : State) : StatesStay s (abortNoted s) :=
  (((statesStay_odSet (by decide) (by decide)).trans (statesStay_odBump (by decide) (by decide))).trans
    (statesStay_postEvent _ _)).trans (statesStay_rasEvent _ _ _ _ _ _)

/-- The abort of a change sets TRANSITION to 0 and keeps every instance's STATE and the power record (R447). -/
theorem recordAbort_states (s : State) :
    transition (recordAbort s) = 0 ∧ instSt (recordAbort s) n = instSt s n ∧ (recordAbort s).pw = s.pw := by
  obtain ⟨hod, hpw⟩ := statesStay_abortNoted s
  rw [recordAbort_eq]
  generalize abortNoted s = x at hod hpw
  obtain ⟨hod', hpw'⟩ := statesStay_setModeFlag (odSet 0x1300 3 0 x)
  have hne : odKey 0x1300 3 ≠ odKey (instIdx n) 3 := fun e => by
    have := (odKey_inj (by decide) (by decide) e).1
    unfold instIdx at this
    omega
  refine ⟨?_, ?_, hpw'.trans hpw⟩
  · rw [transition, hod', od_odSet_self]
  · rw [instSt, hod', od_odSet_ne _ _ _ _ _ _ hne, hod, instSt]

/-- Resuming the frozen instances leaves an instance that is ACTIVE so, and names none any more (R325, R450). -/
theorem resumeFroze_active (h : instSt s n = 1) : instSt (resumeFroze s) n = 1 ∧ (resumeFroze s).pw.froze = [] := by
  refine ⟨?_, rfl⟩
  unfold resumeFroze
  dsimp only
  generalize s.pw.froze = l
  show instSt (l.foldl _ s) n = 1
  induction l generalizing s with
  | nil => exact h
  | cons m l ih =>
    rw [List.foldl_cons]
    apply ih
    split
    · exact instSt_setInstSt_one h
    · split
      · exact instSt_setInstSt_one h
      · exact h

end

/-- Settles O50, clause by clause along the six commands. -/
theorem faultsAndResetsEnd : Obligations.FaultsAndResetsEnd := by
  unfold Obligations.FaultsAndResetsEnd
  intro s slot a w st i link
  refine ⟨fun h => ?_, fun hm hs t ht => ⟨fun p hp => ?_, faultTimeout_unparked hm ht, fun hu => ?_, ?_⟩, fun hm c hl hc => ?_,
    fun hm hs ht => ⟨faultTimeout_gone hm hs ht, memoryTimeout_gone hm hs ht⟩, fun hm k z p hz hp ht => ?_, fun v rest h => ?_,
    fun h => ?_, ⟨_, rfl, rfl⟩, fun hm hst htasks v hv => ?_, fun hm htr h => ?_, fun hm hst htr => ?_, fun hm hst htr => ?_,
    fun hm hst => ?_⟩
  · have hold : ∀ u : State, unlessHold s u = s := fun u => if_pos h
    exact ⟨congrArg _ (hold _), congrArg _ (hold _), congrArg _ (if_pos h), congrArg _ (if_pos h)⟩
  · exact ⟨_, faultTimeout_parked hm ht hp, timeOut_jobFails _ _ _⟩
  · obtain ⟨s', hrun, hjs⟩ := memoryTimeout_engine (a := a) (w := w) (st := st) hm hs ht hu
    exact ⟨_, hrun, failTask_jobFails ht (congrArg _ hjs) (congrArg _ hjs)⟩
  · intro c hc htask hrun htr ha hl hst
    have hex := memoryTimeout_core (c := c) (a := a) (w := w) (st := st) hm (.inr ⟨hs, t, ht, hc.symm⟩)
    cases st with
    | true => exact ⟨_, hex.trans (congrArg _ (coreTimeout_store htask hl)), failTask_jobFails ht rfl rfl⟩
    | false =>
      obtain ⟨s', hload, hjs⟩ := coreTimeout_load (w := w) htask hrun ht htr hl (hst.resolve_left (by decide)) ha
      exact ⟨_, hex.trans (congrArg _ hload), failTask_jobFails ht (congrArg _ hjs) (congrArg _ hjs)⟩
  · obtain ⟨hstore, hload⟩ := coreTimeout_above_t (a := a) (w := w) hl
    exact ⟨(memoryTimeout_core hm hc).trans (congrArg _ hstore), (memoryTimeout_core hm hc).trans (congrArg _ hload)⟩
  · exact ⟨_, faultTimeout_zone hm hz hp ht, timeOut_jobFails _ _ _⟩
  · refine ⟨odBump 0x2301 2 { s with ms := { s.ms with invals := rest, tlb := s.ms.tlb.filter fun e => !covers v e } }, ?_, rfl,
      od_odSet_self .., fun e => ?_⟩
    · show execInvalidateDone s = _
      simp only [execInvalidateDone, h]
    · show e ∈ s.ms.tlb.filter (fun e => !covers v e) ↔ _
      simp only [List.mem_filter, covers, Bool.not_eq_true', ← Bool.not_eq_true, Bool.and_eq_true, Bool.or_eq_true,
        decide_eq_true_eq]
  · show execInvalidateDone s = _
    simp only [execInvalidateDone, h]
  · obtain ⟨hsqs, hcqs, hrefusals⟩ := inst_endReset i.val (if instSt s i.val = 5 then 0 else 1) s
    have hends := resetComplete_ends hst htasks
    subst hv
    refine ⟨instSt_endReset _ _ _, hsqs, hcqs, hrefusals, fun htr => ?_, fun htr h2 h0 => ?_⟩
    · show execResetComplete i s = _
      simp only [execResetComplete, hends, if_neg hm, if_neg htr]
    · show execResetComplete i s = _
      have h1 : instSt (endReset i.val (if instSt s i.val = 5 then 0 else 1) s) i.val = 1 := by
        rw [instSt_endReset, h2]
        rfl
      unfold execResetComplete
      dsimp only
      rw [if_neg hm, hends, if_pos htr, if_pos (by rw [h1, h2]; simpa using h0)]
  · show execResetComplete i s = _
    simp only [execResetComplete, resetComplete_stays h, if_neg hm, if_neg htr]
  · refine ⟨freezeExpires i.val s, ?_, ?_, ?_, ?_⟩
    · show execFreezeTimeout i s = _
      simp only [execFreezeTimeout, if_neg hm, if_pos hst, transition_freezeExpires, if_neg htr]
    · rw [freezeExpires_freezing hst]
      exact instSt_setInstSt_self _ _ _
    · rw [freezeExpires_freezing hst]
      exact (od_setInstSt_ne (by decide) (.inr (by decide)) (.inr (by decide))).trans (od_odSet_self ..)
    · rw [freezeExpires_freezing hst, setInstSt_js]
      rfl
  · have hactive : instSt (freezeExpires i.val s) i.val = 1 := by
      rw [freezeExpires_freezing hst]
      exact instSt_setInstSt_self _ _ _
    obtain ⟨hone, hfroze⟩ := resumeFroze_active hactive
    obtain ⟨htrans, hinst, hpw⟩ := recordAbort_states (n := i.val) (resumeFroze (freezeExpires i.val s))
    refine ⟨_, ?_, hinst.trans hone, htrans, (congrArg PowState.froze hpw).trans hfroze⟩
    show execFreezeTimeout i s = _
    simp only [execFreezeTimeout, if_neg hm, if_pos hst, transition_freezeExpires, if_pos htr]
  · show execFreezeTimeout i s = _
    simp only [execFreezeTimeout, if_neg hm, if_neg hst]

end Sys2Proof.Machine
end

section
/-! PROOFS. What an access through its caches leaves of the state for a core, and what it loads and stores (R175, R176, R219,
R221, R225). -/

namespace Sys2Proof.Machine

/-! ### One step of a core's caches -/

/-- No tag, sector-state or data parity error waits in an L2. -/
def CleanL2 (x : Cluster) : Prop := ∀ e ∈ x.l2, e.2.tagBad = 0 ∧ e.2.bad = 0

/-- u is s after steps of core c's caches: beside what is quiet, no other core, no other cluster, no entry but the cluster's
counters, and of core c the L1s and recent misses alone (of the L1I alone where instr holds). -/
structure CacheStep (c : CoreId) (instr : Bool) (s u : State) : Prop where
  quiet : Quiet s u
  own : core u c = { core s c with l1d := (core u c).l1d, l1i := (core u c).l1i, misses := (core u c).misses }
  l1d : instr = true → (core u c).l1d = (core s c).l1d
  others : ∀ e : CoreId, e ≠ c → core u e = core s e
  caches : ∀ k, k ≠ clusterOf c → cluster u k = cluster s k
  entries : ∀ i j : Nat, j < 256 → (i = 0x3480 + clusterOf c → j < 5) → od u i j = od s i j

/-- The same, a clean L2 staying clean; then no codeword is poisoned. -/
structure CacheRun (c : CoreId) (instr : Bool) (s u : State) : Prop extends CacheStep c instr s u where
  clean : CleanL2 (cluster s (clusterOf c)) → CleanL2 (cluster u (clusterOf c)) ∧ u.ms.poison = s.ms.poison

section
variable {c : CoreId} {i : Bool} {s u v : State}

theorem CacheStep.refl (c : CoreId) (i : Bool) (s : State) : CacheStep c i s s :=
  ⟨.refl s, rfl, fun _ => rfl, fun _ _ => rfl, fun _ _ => rfl, fun _ _ _ _ => rfl⟩

theorem CacheStep.trans (h : CacheStep c i s u) (k : CacheStep c i u v) : CacheStep c i s v where
  quiet := h.quiet.trans k.quiet
  own := by
    have h1 := k.own
    rw [h.own] at h1
    exact h1
  l1d := fun hi => (k.l1d hi).trans (h.l1d hi)
  others := fun e he => (k.others e he).trans (h.others e he)
  caches := fun x hx => (k.caches x hx).trans (h.caches x hx)
  entries := fun x j hj hx => (k.entries x j hj hx).trans (h.entries x j hj hx)

theorem cacheStep_foldl {α : Type} {f : State → α → State} (hf : ∀ s a, CacheStep c i s (f s a)) (l : List α) (s : State) :
    CacheStep c i s (l.foldl f s) := by
  induction l generalizing s with
  | nil => exact .refl c i s
  | cons a l ih => exact (hf s a).trans (ih _)

theorem CacheRun.refl (c : CoreId) (i : Bool) (s : State) : CacheRun c i s s := ⟨.refl c i s, fun h => ⟨h, rfl⟩⟩

theorem CacheRun.trans (h : CacheRun c i s u) (k : CacheRun c i u v) : CacheRun c i s v where
  toCacheStep := h.toCacheStep.trans k.toCacheStep
  clean := fun hs => ⟨(k.clean (h.clean hs).1).1, ((k.clean (h.clean hs).1).2).trans (h.clean hs).2⟩

theorem cacheRun_foldl {α : Type} {f : State → α → State} (hf : ∀ s a, CacheRun c i s (f s a)) (l : List α) (s : State) :
    CacheRun c i s (l.foldl f s) := by
  induction l generalizing s with
  | nil => exact .refl c i s
  | cons a l ih => exact (hf s a).trans (ih _)

/-- A change of the waiting requests, the translations that units hold, and of poison. -/
theorem cacheStep_ms (p : List Nat) (r : Tbl (List DramReq)) (t : List TlbEntry) (hp : ∀ w ∈ s.ms.poison, w ∈ p) :
    CacheStep c i s { s with ms := { s.ms with poison := p, reqs := r, tlb := t } } :=
  ⟨quiet_ms s p r t hp, rfl, fun _ => rfl, fun _ _ => rfl, fun _ _ => rfl, fun _ _ _ _ => rfl⟩

theorem cacheRun_ms (r : Tbl (List DramReq)) (t : List TlbEntry) :
    CacheRun c i s { s with ms := { s.ms with reqs := r, tlb := t } } :=
  ⟨cacheStep_ms _ r t fun _ h => h, fun h => ⟨h, rfl⟩⟩

/-- A counter of the cluster. -/
theorem cacheRun_odSet {j : Nat} (v : Nat) (hj : j < 256) (h5 : 5 ≤ j) :
    CacheRun c i s (odSet (0x3480 + clusterOf c) j v s) where
  quiet := quiet_odSet _ (clusterOf_lt c) j v hj s
  own := rfl
  l1d := fun _ => rfl
  others := fun _ _ => rfl
  caches := fun _ _ => rfl
  entries := fun x y hy hx => od_odSet_ne _ _ _ _ _ _ fun e => by
    obtain ⟨h1, h2⟩ := odKey_inj hj hy e
    have := hx h1.symm
    omega
  clean := fun h => ⟨h, rfl⟩

theorem cacheRun_odAdd {j : Nat} (n : Nat) (hj : j < 256) (h5 : 5 ≤ j) :
    CacheRun c i s (odAdd (0x3480 + clusterOf c) j n s) := cacheRun_odSet _ hj h5

theorem cacheRun_odBump {j : Nat} (hj : j < 256) (h5 : 5 ≤ j) : CacheRun c i s (odBump (0x3480 + clusterOf c) j s) :=
  cacheRun_odSet _ hj h5

theorem cluster_clusterMod_self (k : Nat) (f : Cluster → Cluster) (s : State) : cluster (clusterMod k f s) k = f (cluster s k) := by
  simp [cluster, clusterMod, tmod, tget_tset_self]

theorem cluster_clusterMod_ne {k m : Nat} (f : Cluster → Cluster) (s : State) (h : k ≠ m) :
    cluster (clusterMod k f s) m = cluster s m := by
  simp [cluster, clusterMod, tmod, tget_tset_ne _ _ _ _ _ h]

theorem cacheStep_cluster (f : Cluster → Cluster) : CacheStep c i s (clusterMod (clusterOf c) f s) where
  quiet := quiet_clusterMod _ _ _
  own := rfl
  l1d := fun _ => rfl
  others := fun _ _ => rfl
  caches := fun _ hk => cluster_clusterMod_ne f s (Ne.symm hk)
  entries := fun _ _ _ _ => rfl

/-- A change of the cluster's cache that keeps a clean L2 clean. -/
theorem cacheRun_cluster {f : Cluster → Cluster} (hf : CleanL2 (cluster s (clusterOf c)) → CleanL2 (f (cluster s (clusterOf c)))) :
    CacheRun c i s (clusterMod (clusterOf c) f s) where
  toCacheStep := cacheStep_cluster f
  clean := fun h => ⟨by rw [cluster_clusterMod_self]; exact hf h, rfl⟩

/-- A change of the core's L1s and recent misses. -/
theorem cacheRun_core {f : Core → Core}
    (hf : ∀ k, f k = { k with l1d := (f k).l1d, l1i := (f k).l1i, misses := (f k).misses })
    (hi : i = true → ∀ k, (f k).l1d = k.l1d) : CacheRun c i s (coreMod c f s) where
  quiet := quiet_core c f (fun k => by rw [hf]) s
  own := by rw [core_coreMod_self]; exact hf _
  l1d := fun h => by rw [core_coreMod_self]; exact hi h _
  others := fun e he => core_coreMod_ne c e f s (Ne.symm he)
  caches := fun _ _ => rfl
  entries := fun _ _ _ _ => rfl
  clean := fun h => ⟨h, rfl⟩

/-! ### Requests and translations -/

theorem cacheRun_bursts (p pa n : Nat) (w : Bool) (s : State) : CacheRun c i s (requestBursts p pa n w s) := by
  unfold requestBursts
  split
  · exact .refl c i s
  · refine cacheRun_foldl (fun s k => ?_) _ s
    dsimp only
    split
    · exact .refl c i s
    · exact cacheRun_ms _ _

theorem cacheRun_walk (kind : AccKind) (a n : Nat) (s : State) : CacheRun c i s (coreWalk c kind a n s) := by
  have hreq : ∀ (ctx : Ctx) (s : State), CacheRun c i s (requestWalk c.val ctx a s) := fun ctx s => by
    unfold requestWalk
    split
    · exact .refl c i s
    · exact cacheRun_foldl (fun s k => cacheRun_bursts _ _ _ _ s) _ s
  have hfill : ∀ (ctx : Ctx) (l : Leaf) (s : State), CacheRun c i s (tlbFill c.val ctx a l s) := fun ctx l s => by
    unfold tlbFill
    split
    · exact .refl c i s
    · exact cacheRun_ms _ _
  unfold coreWalk
  split
  · exact .refl c i s
  · dsimp only
    split
    · exact (hreq _ s).trans (hfill _ _ _)
    · exact hreq _ s

/-! ### The L2 -/

theorem cleanL2_put {x : Cluster} {k : Nat} {l : L2Line} (h : CleanL2 x) (hl : l.tagBad = 0 ∧ l.bad = 0) :
    CleanL2 { x with l2 := tset x.l2 k l } := fun e he => by
  rcases mem_tset _ _ _ _ he with rfl | he
  · exact hl
  · exact h e he

theorem cleanL2_at {x : Cluster} {set way : Nat} {l : L2Line} (h : CleanL2 x) (hl : l2At x set way = some l) :
    l.tagBad = 0 ∧ l.bad = 0 := h _ (tfind_mem _ _ _ hl)

/-- A way takes a line that has no error where the L2 had none. -/
theorem CacheRun.put (h : CacheRun c i s u) {set way : Nat} {l : L2Line}
    (hl : CleanL2 (cluster s (clusterOf c)) → l.tagBad = 0 ∧ l.bad = 0) : CacheRun c i s (l2Put (clusterOf c) set way l u) where
  toCacheStep := h.toCacheStep.trans (cacheStep_cluster _)
  clean := fun hs => ⟨by
    unfold l2Put
    rw [cluster_clusterMod_self]
    exact cleanL2_put (h.clean hs).1 (hl hs), (h.clean hs).2⟩

/-- The search for a victim ages lines; it brings no error. -/
theorem cleanL2_victim {x : Cluster} (set lock fuel : Nat) (h : CleanL2 x) : CleanL2 (l2Victim x set lock fuel).1 := by
  have hage : ∀ (ws : List Nat) {x : Cluster}, CleanL2 x → CleanL2 (ws.foldl (fun c w => match l2At c set w with
      | some l => { c with l2 := tset c.l2 (set * 16 + w) { l with age := l.age + 1 } }
      | none => c) x) := by
    intro ws
    induction ws with
    | nil => exact id
    | cons w ws ih =>
      intro x h
      rw [List.foldl_cons]
      apply ih
      split
      · rename_i l hl
        exact cleanL2_put h (cleanL2_at h hl :)
      · exact h
  induction fuel generalizing x with
  | zero => exact h
  | succ n ih =>
    unfold l2Victim
    dsimp only
    split
    · exact h
    · split
      · exact h
      · exact ih (hage _ h)

/-- A parity error is found where there is one; a clean L2 has none. -/
theorem cacheRun_parity (set way m : Nat) (s : State) : CacheRun c i s (l2Parity (clusterOf c) set way m s).1 := by
  by_cases h : CleanL2 (cluster s (clusterOf c))
  · have hs : (l2Parity (clusterOf c) set way m s).1 = s := by
      unfold l2Parity
      split
      · rfl
      · rename_i l hl
        simp [(cleanL2_at h hl).2]
    rw [hs]
    exact .refl c i s
  · refine ⟨?_, fun hs => absurd hs h⟩
    have hlost : ∀ (l : L2Line) (ws : List Nat) (s : State), CacheStep c i s (ws.foldl (fun s i =>
        let cw := (l.line * 128 + i * 32) / 32
        let s := odBump (0x3480 + clusterOf c) 7 (odBump (0x3480 + clusterOf c) 0x0B s)
        let s := odSet (0x3480 + clusterOf c) 0x0C (cw * 32) s
        { s with ms := { s.ms with poison := if s.ms.poison.contains cw then s.ms.poison else cw :: s.ms.poison } }) s) :=
      fun l ws s => cacheStep_foldl (fun s n => (((cacheRun_odBump (by decide) (by decide)).trans
        (cacheRun_odBump (by decide) (by decide))).trans (cacheRun_odSet _ (by decide) (by decide))).toCacheStep.trans
          (cacheStep_ms _ _ _ fun w hw => by
            split
            · exact hw
            · exact List.mem_cons_of_mem _ hw)) ws s
    unfold l2Parity
    split
    · exact .refl c i s
    · rename_i l hl
      have hput : CacheStep c i s (l2Put (clusterOf c) set way (dropSectors (l.bad &&& m) l)
          (odAdd (0x3480 + clusterOf c) 0x0A (popSectors (l.bad &&& m &&& (15 ^^^ l.dirty))) s)) :=
        ((cacheRun_odAdd _ (by decide) (by decide)).put fun hs => absurd hs h).toCacheStep
      dsimp only
      split
      · exact .refl c i s
      · split
        · exact hput
        · exact hput.trans (hlost l _ _)

theorem cacheRun_sectors (port : Nat) (line : Nat) (w : Bool) (ws : List Nat) (s : State) :
    CacheRun c i s (ws.foldl (fun s k => requestBursts port (line * 128 + k * 32) 32 w s) s) :=
  cacheRun_foldl (fun s _ => cacheRun_bursts _ _ _ _ s) ws s

theorem cacheRun_l2Clean (set way : Nat) (s : State) : CacheRun c i s (l2Clean (clusterOf c) set way s) := by
  unfold l2Clean
  split
  · exact .refl c i s
  · rename_i l0 _
    have hpar := cacheRun_parity (c := c) (i := i) set way l0.dirty s
    dsimp only
    split
    · exact hpar
    · rename_i l hl
      split
      · exact hpar
      · have hok := fun hs => cleanL2_at (hpar.clean hs).1 hl
        refine CacheRun.trans ?_ (cacheRun_odAdd _ (by decide) (by decide))
        exact (hpar.trans (cacheRun_sectors _ _ _ _ _)).put hok

theorem cacheRun_l2Fill (line mask age : Nat) (s : State) : CacheRun c i s (l2Fill (clusterOf c) line mask age s) := by
  have hvictim := cleanL2_victim (x := cluster s (clusterOf c)) (l2Set line) (lockWays s (clusterOf c)) 5
  show CacheRun c i s (l2Put _ _ _ { line := line, age := age, valid := mask } (l2Clean _ _ _ (clusterMod _ (fun _ =>
    (l2Victim (cluster s (clusterOf c)) (l2Set line) (lockWays s (clusterOf c)) 5).1) s)))
  exact ((cacheRun_cluster hvictim).trans (cacheRun_l2Clean _ _ _)).put fun _ => ⟨rfl, rfl⟩

theorem cacheRun_prefetchAfter (line : Nat) (s : State) : CacheRun c i s (prefetchAfter c line s) := by
  have hmiss : CacheRun c i s (coreMod c (fun x => { x with misses := (line :: x.misses).take 2 }) s) :=
    cacheRun_core (fun _ => rfl) fun _ _ => rfl
  unfold prefetchAfter
  dsimp only
  split
  · exact hmiss
  · refine hmiss.trans (cacheRun_foldl (fun s l => ?_) _ _)
    split
    · exact .refl c i s
    · split
      · exact .refl c i s
      · split
        · exact .refl c i s
        · exact (cacheRun_bursts _ _ _ _ _).trans (cacheRun_cluster id)

theorem cacheRun_l2Access (line mask f age : Nat) (s : State) : CacheRun c i s (l2Access c line mask f age s) := by
  have hmiss : CacheRun c i s (odBump (0x3480 + clusterOf c) 6 s) := cacheRun_odBump (by decide) (by decide)
  unfold l2Access
  dsimp only
  split
  · exact .refl c i s
  · split
    · split
      · exact .refl c i s
      · rename_i l hl
        have hok := fun hs => cleanL2_at (x := cluster s (clusterOf c)) hs hl
        split
        · refine CacheRun.trans ?_ (cacheRun_odBump (by decide) (by decide))
          exact (CacheRun.refl c i s).put hok
        · have hreq := (cacheRun_sectors (c := c) (i := i) (clusterPort (clusterOf c)) line false
            (sectorsIn (f &&& (15 ^^^ l.valid))) s).trans (cacheRun_odBump (j := 6) (by decide) (by decide))
          split
          · refine CacheRun.trans ?_ (cacheRun_prefetchAfter _ _)
            exact hreq.put hok
          · exact hreq
    · split
      · exact hmiss
      · split
        · exact ((((hmiss.trans (cacheRun_cluster id)).trans (cacheRun_l2Fill _ _ _ _))).trans
            (cacheRun_odBump (j := 9) (by decide) (by decide))).trans (cacheRun_prefetchAfter _ _)
        · exact ((hmiss.trans (cacheRun_sectors _ _ _ _ _)).trans (cacheRun_l2Fill _ _ _ _)).trans (cacheRun_prefetchAfter _ _)

theorem cacheRun_markStored (line pa n : Nat) (s : State) : CacheRun c i s (markStored c line pa n s) := by
  unfold markStored
  dsimp only
  split
  · exact .refl c i s
  · split
    · exact .refl c i s
    · rename_i l hl
      have hok := fun hs => cleanL2_at (x := cluster s (clusterOf c)) hs hl
      split
      · exact (CacheRun.refl c i s).put hok
      · split
        · exact (CacheRun.refl c i s).put hok
        · exact .refl c i s

/-! ### The L1s -/

theorem cacheRun_l1Put (t : Tbl L1Line) (s : State) : CacheRun c i s (l1Put c i t s) := by
  cases i
  · exact cacheRun_core (fun _ => rfl) fun h => absurd h (by decide)
  · exact cacheRun_core (fun _ => rfl) fun _ _ => rfl

theorem cacheRun_l1Look (line : Nat) (s : State) : CacheRun c i s (l1Look c i line s).2 := by
  unfold l1Look
  dsimp only
  split
  · exact .refl c i s
  · split
    · exact (cacheRun_l1Put _ _).trans (cacheRun_odBump (j := 0x0A) (by decide) (by decide))
    · exact cacheRun_l1Put _ _

theorem cacheRun_l2Offer (l : L1Line) (s : State) : CacheRun c i s (l2Offer (clusterOf c) l s) := by
  unfold l2Offer
  dsimp only
  split
  · exact .refl c i s
  · split
    · exact cacheRun_odBump (by decide) (by decide)
    · split
      · exact cacheRun_odBump (by decide) (by decide)
      · exact (CacheRun.refl c i s).put fun _ => ⟨rfl, rfl⟩

theorem cacheRun_l1Load (line : Nat) (st : Bool) (s : State) : CacheRun c i s (l1Load c i line st s) := by
  have hmiss : ∀ s, CacheRun c i s (l1Miss c line st s) := fun s => by
    unfold l1Miss
    dsimp only
    split
    · exact (cacheRun_l2Access _ _ _ _ _).trans (cacheRun_bursts _ _ _ _ _)
    · exact cacheRun_l2Access _ _ _ _ _
  have hfill : ∀ s, CacheRun c i s (l1Fill c i line st s) := fun s => by
    unfold l1Fill
    dsimp only
    split
    · exact cacheRun_l1Put _ _
    · split
      · exact (cacheRun_l1Put _ _).trans (cacheRun_l2Offer _ _)
      · exact cacheRun_l1Put _ _
  have hlook := cacheRun_l1Look (c := c) (i := i) line s
  unfold l1Load
  split <;> rename_i e <;> rw [e] at hlook
  · exact hlook
  · exact (hlook.trans (hmiss _)).trans (hfill _)

end

end Sys2Proof.Machine
end

section
/-! PROOFS. What a core loads and stores: tile memory by offset, device memory by physical address (R175, R176, R256). -/

namespace Sys2Proof.Machine

section
variable {c : CoreId} {i : Bool} {s u : State}

/-- No error comes to a cache that has none. -/
theorem CacheRun.noError (h : CacheRun c i s u) (hs : L2NoError s c) : L2NoError u c := by
  obtain ⟨hown, hall⟩ := hs
  have hclean := (h.clean hown).1
  refine ⟨hclean, fun k e he => ?_⟩
  by_cases hk : k = clusterOf c
  · subst hk
    rw [(hclean e he).2, Nat.zero_and]
  · rw [h.caches k hk] at he
    exact hall k e he

theorem CacheRun.poison (h : CacheRun c i s u) (hs : L2NoError s c) : u.ms.poison = s.ms.poison := (h.clean hs.1).2

theorem CacheStep.od_low (h : CacheStep c i s u) (x : Nat) {j : Nat} (hj : j < 5) : od u x j = od s x j :=
  h.entries x j (by omega) fun _ => hj

/-- The channel of an address, and whether it has failed, stand in entries that no cache step writes. -/
theorem CacheStep.channelFailed (h : CacheStep c i s u) (pa : Nat) : channelFailed u pa = Machine.channelFailed s pa := by
  have h1 := fun x => h.od_low x (j := 1) (by decide)
  have h2 := fun x => h.od_low x (j := 2) (by decide)
  have h3 := fun x => h.od_low x (j := 3) (by decide)
  simp only [Machine.channelFailed, channelOf, regionOf, regionShare, h1, h2, h3]

theorem poisoned_of_poison (h : u.ms.poison = s.ms.poison) (pa n : Nat) : poisoned u pa n = poisoned s pa n := by
  unfold poisoned
  rw [h]

/-- A load from device memory answers the bytes at its physical address (R225). -/
theorem devLoad_reads {a pa n : Nat} {st : Bool} (hs : L2NoError s c) (hf : channelFailed s pa = false)
    (hp : poisoned s pa n = false) :
    ∃ u, devLoad c a pa n st s = (.ok (memTake s.ms.dram pa n), u) ∧ CacheRun c false s u := by
  have hrun : CacheRun c false s ((lines64 pa n).foldl (fun s l => l1Load c false l st s) s) :=
    cacheRun_foldl (fun s l => cacheRun_l1Load l st s) _ s
  refine ⟨_, ?_, hrun⟩
  unfold devLoad
  rw [parity_clean c pa n s hs]
  dsimp only
  rw [if_neg (by rw [hf]; decide), if_neg (by rw [poisoned_of_poison (hrun.poison hs), hp]; decide), physTake, hrun.quiet.dram]

/-! ### Tile memory -/

theorem quiet_tileCorrect (c : CoreId) (o n : Nat) (s : State) : Quiet s (tileCorrect c o n s) := by
  unfold tileCorrect
  dsimp only
  split
  · exact .refl s
  · exact (quiet_core c _ (fun _ => rfl) s).trans (quiet_odAdd _ (clusterOf_lt c) _ _ (by decide) _)

theorem tileCorrect_ms (c : CoreId) (o n : Nat) (s : State) :
    (tileCorrect c o n s).ms = s.ms ∧ (tileCorrect c o n s).clusters = s.clusters := by
  unfold tileCorrect
  dsimp only
  split <;> exact ⟨rfl, rfl⟩

theorem tile_tileCorrect (c : CoreId) (o n : Nat) (s : State) : (core (tileCorrect c o n s) c).tile = (core s c).tile := by
  rw [(quiet_tileCorrect c o n s).core c]

theorem coreMod_coreMod (c : CoreId) (f g : Core → Core) (s : State) :
    coreMod c g (coreMod c f s) = coreMod c (fun k => g (f k)) s := by
  simp only [coreMod, tmod, tset_tset, tget_tset_self]

/-- A store to tile memory changes its bytes; beside them, only words corrected or encoded anew (Table 10-2). -/
theorem quiet_tileWrite (c : CoreId) (o : Nat) (bytes : List Byte) (s : State) :
    Quiet (coreMod c (fun k => { k with tile := memPut (core s c).tile o bytes }) s) (tileWrite c o bytes s) := by
  have hsplit : coreMod c (fun k => { k with
      tile := memPut k.tile o bytes, tileBad := k.tileBad.filter fun e => !wordIn e.1 o bytes.length }) s =
      coreMod c (fun k => { k with tileBad := k.tileBad.filter fun e => !wordIn e.1 o bytes.length })
        (coreMod c (fun k => { k with tile := memPut (core s c).tile o bytes }) s) := by
    rw [coreMod_coreMod]
    exact coreMod_const2 c s _ _ rfl
  unfold tileWrite
  dsimp only
  rw [hsplit]
  exact (quiet_core c _ (fun _ => rfl) _).trans (quiet_tileCorrect c o _ _)

theorem tile_tileWrite (c : CoreId) (o : Nat) (bytes : List Byte) (s : State) :
    (core (tileWrite c o bytes s) c).tile = memPut (core s c).tile o bytes := by
  unfold tileWrite
  dsimp only
  rw [tile_tileCorrect, core_coreMod_self]

/-! ### Stores to device memory -/

/-- A store looks up the L1D and the L2 and marks its sectors before its bytes are in memory (R221, R234). -/
theorem storeLines_put (c : CoreId) (pa : Nat) (bytes : List Byte) (st : Bool) (s : State) :
    ∃ u, CacheRun c false s u ∧ storeLines c pa bytes st s = physPut (some c.val) pa bytes u := by
  refine ⟨_, ?_, rfl⟩
  refine CacheRun.trans (cacheRun_foldl (fun s l => cacheRun_l1Look l s) _ s) (cacheRun_foldl (fun s line => ?_) _ _)
  dsimp only
  generalize (if st = true then 3 else 1) = age
  have hmark := (cacheRun_l2Access (c := c) (i := false) line (sectorMask line pa bytes.length)
    (sectorMask line pa bytes.length &&& (15 ^^^ coveredMask line pa bytes.length)) age s).trans
    (cacheRun_markStored line pa bytes.length _)
  split
  · exact hmark
  · exact hmark.trans (cacheRun_bursts _ _ _ _ _)

/-- The dirty-page log of an instance takes nothing where it does not run. -/
theorem logWrite_off {ctx : Ctx} (h : ∀ k : Nat, ctx = .inst k → od s (instIdx k) 0x3C = 0) (a n : Nat) : logWrite ctx a n s = s := by
  unfold logWrite
  split
  · rename_i k
    simp [h k rfl]
  · rfl

/-- A store to device memory: the caches, and then its bytes. -/
theorem devStore_puts {ctx : Ctx} {a pa : Nat} {bytes : List Byte} {st : Bool} (hs : L2NoError s c)
    (hf : channelFailed s pa = false) (hlog : ∀ k : Nat, ctx = .inst k → od s (instIdx k) 0x3C = 0) :
    ∃ u, devStore c ctx a pa bytes st s = .ok (physPut (some c.val) pa bytes u) ∧ CacheRun c false s u := by
  obtain ⟨u, hu, hput⟩ := storeLines_put c pa bytes st s
  refine ⟨u, ?_, hu⟩
  unfold devStore storeCheck
  rw [if_neg (by rw [hf]; decide), parityNeeds_clean c _ pa bytes.length s hs]
  dsimp only
  rw [logWrite_off hlog, hput]

/-- Bytes that reach memory leave the registers and the tile memory of every core. -/
theorem core_physPut_regs (by_ : Option Nat) (pa : Nat) (bytes : List Byte) (s : State) (d : CoreId) :
    (core (physPut by_ pa bytes s) d).g = (core s d).g ∧ (core (physPut by_ pa bytes s) d).f = (core s d).f ∧
      (core (physPut by_ pa bytes s) d).tile = (core s d).tile := by
  rw [core_physPut]
  unfold core tget
  cases tfind s.cores d.val with
  | none => exact ⟨rfl, rfl, rfl⟩
  | some k =>
    show (snp _ _ _ _ k).g = k.g ∧ (snp _ _ _ _ k).f = k.f ∧ (snp _ _ _ _ k).tile = k.tile
    unfold snp
    split <;> exact ⟨rfl, rfl, rfl⟩

end

/-- Settles O20, by the place of the access. -/
theorem memoryAccess : Obligations.MemoryAccess := by
  unfold Obligations.MemoryAccess
  intro s c a n o pa st lv bytes hs hsound
  refine ⟨fun hpl => ?_, fun hpl hf hp => ?_, fun hpl => ?_, fun hpl hf hlog => ?_⟩
  · refine ⟨tileCorrect c o n s, ?_, quiet_tileCorrect c o n s, (tileCorrect_ms c o n s).1⟩
    simp only [coreLoad, hpl]
  · have hwalk : CacheRun c false s (coreWalk c .read a n s) := cacheRun_walk .read a n s
    obtain ⟨u, hu, hrun⟩ := devLoad_reads (a := a) (n := n) (st := st || lv) (hwalk.noError hs)
      ((hwalk.channelFailed pa).trans hf) ((poisoned_of_poison (hwalk.poison hs) pa n).trans hp)
    refine ⟨u, ?_, (hwalk.trans hrun).quiet, (hwalk.trans hrun).poison hs⟩
    simp only [coreLoad, hpl, hu, hwalk.quiet.dram]
  · obtain ⟨hms, hcl⟩ := tileCorrect_ms c o bytes.length (coreMod c (fun k => { k with
      tile := memPut k.tile o bytes, tileBad := k.tileBad.filter fun e => !wordIn e.1 o bytes.length }) s)
    refine ⟨tileWrite c o bytes s, ?_, ?_, hms, hcl, fun x => ?_⟩
    · simp only [coreStore, hpl]
    · rw [tile_tileWrite]
      exact quiet_tileWrite c o bytes s
    · rw [tile_tileWrite]
      exact memGet_memPut _ _ _ _ (tile_sorted s c hsound)
  · have hwalk : CacheRun c false s (coreWalk c .write a bytes.length s) := cacheRun_walk .write a bytes.length s
    obtain ⟨u, hu, hrun⟩ := devStore_puts (ctx := coreCtx s c) (a := a) (bytes := bytes) (st := st || lv) (hwalk.noError hs)
      ((hwalk.channelFailed pa).trans hf) (fun k hk => by
        rw [hwalk.entries _ _ (by decide) (by unfold instIdx; have := clusterOf_lt c; omega)]
        exact hlog k hk)
    have hall := hwalk.trans hrun
    refine ⟨u, _, ?_, hall.quiet, hall.poison hs, rfl, fun d => ?_, fun x => ?_⟩
    · simp only [coreStore, hpl, hu]
    · obtain ⟨hg, hfr, ht⟩ := core_physPut_regs (some c.val) pa bytes u d
      rw [hg, hfr, ht, hall.quiet.core d]
      exact ⟨rfl, rfl, rfl⟩
    · rw [memGet_physPut _ _ _ _ _ (by rw [hall.quiet.dram]; exact dram_sorted s hsound), hall.quiet.dram]

end Sys2Proof.Machine
end

section
/-! PROOFS. The frame of the register instructions (R178 to R180, R198). -/

namespace Sys2Proof.Machine

/-! ### The flags that an operation can raise (Table 08-3) -/

section
variable (f : FFmt) (r : Round) (a b d : Nat)

@[simp] theorem flagNV_lt : flagNV < 64 := by decide
@[simp] theorem flagDZ_lt : flagDZ < 64 := by decide
@[simp] theorem flagNX_lt : flagNX < 64 := by decide
@[simp] theorem flagIDZ_lt : flagIDZ < 64 := by decide
@[simp] theorem overflowFlags_lt : flagOF ||| flagNX < 64 := by decide

theorem snanFlag_lt (l : List Nat) : snanFlag f l < 64 := by
  unfold snanFlag
  split <;> simp

theorem ite_flags_lt {p : Prop} [Decidable p] {x y : Nat × FFlags} (hx : x.2 < 64) (hy : y.2 < 64) :
    (if p then x else y).2 < 64 := by
  split
  · exact hx
  · exact hy

theorem inexactFlags_lt (inexact tiny : Bool) : ((if inexact then flagNX else 0) ||| (if tiny then flagUF else 0)) < 64 := by
  cases inexact <;> cases tiny <;> decide

theorem fround_flags (neg : Bool) (m : Nat) (e : Int) (sticky : Bool) : (fround f r neg m e sticky).2 < 64 := by
  unfold fround
  dsimp only
  exact ite_flags_lt overflowFlags_lt (inexactFlags_lt _ _)

theorem froundExact_flags (zeroNeg : Bool) (v e : Int) : (froundExact f r zeroNeg v e).2 < 64 := by
  unfold froundExact
  split
  · simp
  · exact fround_flags _ _ _ _ _ _

theorem fadd_flags : (fadd f r a b).2 < 64 := by
  unfold fadd
  split
  · exact snanFlag_lt _ _
  · exact snanFlag_lt _ _
  · split <;> simp
  · simp
  · simp
  · exact froundExact_flags _ _ _ _ _

theorem fsub_flags : (fsub f r a b).2 < 64 := by
  unfold fsub
  split
  · exact snanFlag_lt _ _
  · exact fadd_flags _ _ _ _

theorem fmul_flags : (fmul f r a b).2 < 64 := by
  unfold fmul
  split
  · exact snanFlag_lt _ _
  · exact snanFlag_lt _ _
  · simp
  · split <;> simp
  · split <;> simp
  · split
    · simp
    · exact fround_flags _ _ _ _ _ _

theorem fdiv_flags : (fdiv f r a b).2 < 64 := by
  unfold fdiv
  split
  · exact snanFlag_lt _ _
  · exact snanFlag_lt _ _
  · simp
  · simp
  · simp
  · split
    · split <;> simp
    · split
      · simp
      · exact fround_flags _ _ _ _ _ _

theorem fsqrt_flags : (fsqrt f r a).2 < 64 := by
  unfold fsqrt
  split
  · exact snanFlag_lt _ _
  · split <;> simp
  · split
    · simp
    · split
      · simp
      · exact fround_flags _ _ _ _ _ _

theorem fminmax_flags (isMax : Bool) : (fminmax f isMax a b).2 < 64 := by
  unfold fminmax
  dsimp only
  split
  · exact snanFlag_lt _ _
  · exact snanFlag_lt _ _
  · exact snanFlag_lt _ _
  · simp

theorem fmac_flags : (fmac f r a b d).2 < 64 := by
  unfold fmac
  extract_lets nan prodInvalid
  clear_value nan prodInvalid
  split
  · refine Nat.or_lt_two_pow (n := 6) (snanFlag_lt _ _) ?_
    split <;> simp
  · split
    · simp
    · split
      · exact froundExact_flags _ _ _ _ _
      · simp
      · split <;> simp
      · simp

theorem ftoint_flags (signed : Bool) : (ftoint f r signed a).2 < 64 := by
  unfold ftoint
  extract_lets lo hi
  clear_value lo hi
  split
  · simp
  · simp
  · refine ite_flags_lt (by simp) (ite_flags_lt (by simp) ?_)
    dsimp only
    split <;> simp

theorem inttof_flags (v : Int) : (inttof f r v).2 < 64 := froundExact_flags _ _ _ _ _

theorem ftof_flags : (ftof f r a).2 < 64 := by
  unfold ftof
  dsimp only
  split
  · simp
  · simp
  · simp
  · split
    · simp
    · exact fround_flags _ _ _ _ _ _

theorem fint_flags : (fint f r a).2 < 64 := by
  unfold fint
  split
  · dsimp only
    split <;> simp
  · simp
  · dsimp only
    split <;> simp

theorem fcmp_flags (rel : FRel) (signalling : Bool) : (fcmp f rel signalling a b).2 < 64 := by
  unfold fcmp
  dsimp only
  split
  · simp
  · exact snanFlag_lt _ _

end

/-! ### RegisterFrame, step by step -/

section
variable {c : CoreId} {d : Option Dest} {s t u : State}

theorem registerFrame_refl (c : CoreId) (d : Option Dest) (s : State) : RegisterFrame c d s s where
  g := fun _ _ => rfl
  f := fun _ _ => rfl
  own := rfl
  pstat := ⟨0, by decide, by simp⟩
  others := fun _ _ => rfl
  entries := fun _ _ _ _ _ => rfl
  memory := rfl
  poison := fun _ h => h
  caches := fun _ _ => rfl
  rest := ⟨rfl, rfl, rfl, rfl, rfl, rfl, rfl, rfl, rfl, rfl, rfl, rfl, rfl, rfl⟩

theorem registerFrame_trans (h : RegisterFrame c d s u) (k : RegisterFrame c d u t) : RegisterFrame c d s t where
  g := fun r hr => (k.g r hr).trans (h.g r hr)
  f := fun r hr => (k.f r hr).trans (h.f r hr)
  own := by
    have h1 := k.own
    rw [h.own] at h1
    exact h1
  pstat := by
    obtain ⟨x, hx, hs⟩ := h.pstat
    obtain ⟨y, hy, ht⟩ := k.pstat
    exact ⟨x ||| y, Nat.or_lt_two_pow (n := 6) hx hy, by rw [ht, hs, BitVec.or_assoc, BitVec.ofNat_or]⟩
  others := fun e he => (k.others e he).trans (h.others e he)
  entries := fun i j hj hi h3 => (k.entries i j hj hi h3).trans (h.entries i j hj hi h3)
  memory := by
    have h1 := k.memory
    rw [h.memory] at h1
    exact h1
  poison := fun w hw => k.poison w (h.poison w hw)
  caches := fun x hx => (k.caches x hx).trans (h.caches x hx)
  rest := by
    obtain ⟨a1, a2, a3, a4, a5, a6, a7, a8, a9, a10, a11, a12, a13, a14⟩ := h.rest
    obtain ⟨b1, b2, b3, b4, b5, b6, b7, b8, b9, b10, b11, b12, b13, b14⟩ := k.rest
    exact ⟨b1.trans a1, b2.trans a2, b3.trans a3, b4.trans a4, b5.trans a5, b6.trans a6, b7.trans a7, b8.trans a8, b9.trans a9,
      b10.trans a10, b11.trans a11, b12.trans a12, b13.trans a13, b14.trans a14⟩

/-- A change of the core alone. -/
theorem registerFrame_core {f : Core → Core} (hg : ∀ r : Reg, d ≠ some (.g r) → r ≠ 0 → (f (core s c)).g[r.val] = (core s c).g[r.val])
    (hf : ∀ r : Reg, d ≠ some (.f r) → (f (core s c)).f[r.val] = (core s c).f[r.val])
    (hown : f (core s c) = { core s c with
      g := (f (core s c)).g, f := (f (core s c)).f, pc := (f (core s c)).pc, pstat := (f (core s c)).pstat
      l1i := (f (core s c)).l1i, misses := (f (core s c)).misses, tileBad := (f (core s c)).tileBad
      impAge := (f (core s c)).impAge })
    (hp : ∃ fl : Nat, fl < 64 ∧ (f (core s c)).pstat = (core s c).pstat ||| BitVec.ofNat 64 fl) :
    RegisterFrame c d s (coreMod c f s) where
  g := fun r hr => by
    unfold gGet
    split
    · rfl
    · rename_i h0
      rw [core_coreMod_self]
      exact hg r hr h0
  f := fun r hr => by
    unfold fGet
    rw [core_coreMod_self]
    exact hf r hr
  own := by
    rw [core_coreMod_self]
    exact hown
  pstat := by
    rw [core_coreMod_self]
    exact hp
  others := fun e he => core_coreMod_ne c e f s (Ne.symm he)
  entries := fun _ _ _ _ _ => rfl
  memory := rfl
  poison := fun _ h => h
  caches := fun _ _ => rfl
  rest := ⟨rfl, rfl, rfl, rfl, rfl, rfl, rfl, rfl, rfl, rfl, rfl, rfl, rfl, rfl⟩

theorem or_zero_word (w : Word) : ∃ fl : Nat, fl < 64 ∧ w = w ||| BitVec.ofNat 64 fl := ⟨0, by decide, by simp⟩

theorem registerFrame_gSet (c : CoreId) (rd : Reg) (v : Word) (s : State) : RegisterFrame c (some (.g rd)) s (gSet c rd v s) := by
  unfold gSet
  split
  · exact registerFrame_refl _ _ _
  · refine registerFrame_core (fun r hr _ => ?_) (fun _ _ => rfl) rfl (or_zero_word _)
    have hne : rd.val ≠ r.val := fun e => hr (by rw [Fin.ext e])
    exact Vector.getElem_set_ne rd.isLt r.isLt hne

theorem registerFrame_fSet (c : CoreId) (rd : Reg) (v : Word) (s : State) : RegisterFrame c (some (.f rd)) s (fSet c rd v s) := by
  refine registerFrame_core (fun _ _ _ => rfl) (fun r hr => ?_) rfl (or_zero_word _)
  have hne : rd.val ≠ r.val := fun e => hr (by rw [Fin.ext e])
  exact Vector.getElem_set_ne rd.isLt r.isLt hne

theorem registerFrame_flagged {fl : Nat} (h : fl < 64) (c : CoreId) (d : Option Dest) (s : State) :
    RegisterFrame c d s (flagged c fl s) :=
  registerFrame_core (fun _ _ _ => rfl) (fun _ _ => rfl) rfl ⟨fl, h, rfl⟩

/-- INSTRUCTIONS of the core (R198). -/
theorem registerFrame_count (c : CoreId) (d : Option Dest) (s : State) : RegisterFrame c d s (odBump (0x3400 + c.val) 3 s) :=
  { registerFrame_refl c d s with
    g := fun _ _ => rfl
    f := fun _ _ => rfl
    own := rfl
    pstat := or_zero_word _
    others := fun _ _ => rfl
    caches := fun _ _ => rfl
    memory := rfl
    poison := fun _ h => h
    entries := fun i j hj _ h3 => od_odSet_ne _ _ _ _ _ _ fun e => by
      obtain ⟨h1, h2⟩ := odKey_inj (by decide) hj e
      rcases h3 with h3 | h3
      · exact h3 h1.symm
      · exact h3 h2.symm }

theorem registerFrame_ranTo (c : CoreId) (d : Option Dest) (s : State) (target : Word) (t : State) :
    RegisterFrame c d t (ranTo c s target t) :=
  registerFrame_trans (registerFrame_core (fun _ _ _ => rfl) (fun _ _ => rfl) rfl (or_zero_word _)) (registerFrame_count c d _)

/-- A completion that wrote g(rd) alone. -/
theorem registerFrame_wroteG (rd : Reg) (v : Word) (target : Word) (u : State) :
    RegisterFrame c (some (.g rd)) u (ranTo c s target (gSet c rd v u)) :=
  registerFrame_trans (registerFrame_gSet c rd v u) (registerFrame_ranTo ..)

theorem registerFrame_wroteGFlags (rd : Reg) (v : Word) {fl : Nat} (h : fl < 64) (target : Word) (u : State) :
    RegisterFrame c (some (.g rd)) u (ranTo c s target (flagged c fl (gSet c rd v u))) :=
  registerFrame_trans (registerFrame_trans (registerFrame_gSet c rd v u) (registerFrame_flagged h ..)) (registerFrame_ranTo ..)

theorem registerFrame_wroteF (rd : Reg) (v : Word) (target : Word) (u : State) :
    RegisterFrame c (some (.f rd)) u (ranTo c s target (fSet c rd v u)) :=
  registerFrame_trans (registerFrame_fSet c rd v u) (registerFrame_ranTo ..)

theorem registerFrame_wroteFFlags (rd : Reg) (v : Word) {fl : Nat} (h : fl < 64) (target : Word) (u : State) :
    RegisterFrame c (some (.f rd)) u (ranTo c s target (flagged c fl (fSet c rd v u))) :=
  registerFrame_trans (registerFrame_trans (registerFrame_fSet c rd v u) (registerFrame_flagged h ..)) (registerFrame_ranTo ..)

/-- A quiet step of the core's caches that leaves the L1D. -/
theorem registerFrame_cache (h : CacheStep c true s u) (d : Option Dest) : RegisterFrame c d s u where
  g := fun r _ => by
    unfold gGet
    rw [h.own]
  f := fun r _ => by
    unfold fGet
    rw [h.own]
  own := by
    have h1 := h.own
    rw [h.l1d rfl] at h1
    rw [h1]
  pstat := by
    rw [h.own]
    exact or_zero_word _
  others := h.others
  entries := fun i j hj hi _ => h.entries i j hj fun e => absurd e hi
  memory := h.quiet.ms
  poison := h.quiet.poison
  caches := h.caches
  rest := by
    obtain ⟨h1, h2, h3, h4, h5, h6, h7, h8, h9, h10⟩ := h.quiet.rest
    exact ⟨h.quiet.mode, h.quiet.time, h.quiet.out, h.quiet.js, h10, h1, h2, h3, h4, h5, h6, h7, h8, h9⟩

theorem registerFrame_tileCorrect (c : CoreId) (o n : Nat) (d : Option Dest) (s : State) :
    RegisterFrame c d s (tileCorrect c o n s) := by
  unfold tileCorrect
  dsimp only
  split
  · exact registerFrame_refl _ _ _
  · refine registerFrame_trans ?_ (registerFrame_cache (cacheRun_odAdd _ (by decide) (by decide)).toCacheStep d)
    exact registerFrame_core (fun _ _ _ => rfl) (fun _ _ => rfl) rfl (or_zero_word _)

/-- What fetching an instruction leaves where no L2 holds an error (Table 10-2). -/
theorem registerFrame_fetch (h : L2NoError s c) (d : Option Dest) : RegisterFrame c d s (fetchTouch c s) := by
  have hwalk : CacheRun c true s (coreWalk c .fetch (core s c).pc.toNat 4 s) := cacheRun_walk _ _ _ s
  unfold fetchTouch fetch
  dsimp only
  split
  · exact registerFrame_refl _ _ _
  · split
    · exact registerFrame_cache hwalk.toCacheStep d
    · rw [parity_clean c _ 4 _ (hwalk.noError h)]
      dsimp only
      split
      · exact registerFrame_cache hwalk.toCacheStep d
      · split
        · exact registerFrame_cache hwalk.toCacheStep d
        · exact registerFrame_cache (hwalk.trans (cacheRun_l1Load _ _ _)).toCacheStep d
    · exact registerFrame_tileCorrect _ _ _ _ _
    · exact registerFrame_refl _ _ _

end

/-! ### The three families of register instructions -/

/-- An outcome that completes and writes at most one register after the fetch. -/
def EndsInFrame (c : CoreId) (d : Option Dest) (s : State) (o : Host.Outcome State Fault Refusal) : Prop :=
  ∃ t, o = .next t ∧ RegisterFrame c d (fetchTouch c s) t

section
variable {s : State} {c : CoreId} (h : CoreReady s c) (hte : bitsOf (core s c).pstat.toNat 22 17 = 0)

/-- With no bit of TE set no flag traps. -/
theorem noTrap_of_te (hte : bitsOf (core s c).pstat.toNat 22 17 = 0) (fl : Nat) : NoTrap s c fl := by
  unfold NoTrap
  rw [hte, Nat.and_zero]

include h

/-- The branches and J write no register. -/
theorem branchForms_frame {ra rb : Reg} {d : BitVec 16} {e : BitVec 26} :
    ∀ i ∈ branchForms c ra rb d e, EndsInFrame c none s (exec i s) := by
  have branch := fun cond => (⟨_, branch_next h ra rb d cond Iff.rfl, registerFrame_ranTo ..⟩ :
    EndsInFrame c none s (.next (runBranch c ra rb d cond s)))
  have jumps := fun (body : State → CoreEnd) target (hb : body (fetchTouch c s) = .jump target (fetchTouch c s)) =>
    (⟨_, congrArg _ (runCore_jumps h hb), registerFrame_ranTo ..⟩ : EndsInFrame c none s (.next (runCore c false body s)))
  unfold branchForms
  simp only [List.forall_mem_cons, List.not_mem_nil, false_implies, implies_true, and_true]
  exact ⟨branch _, branch _, branch _, branch _, branch _, branch _, jumps _ _ rfl⟩

include hte

/-- Each instruction that writes g(rd) stays in its frame. -/
theorem gForms_frame {rd ra rb : Reg} {imm : BitVec 16} {w : Bool} {n : Fin 64} {fmt : FFmt} {rm : FRm}
    (hw : w = false ∨ n.val < 32) : ∀ i ∈ gForms c rd ra rb imm w n fmt rm, EndsInFrame c (some (.g rd)) s (exec i s) := by
  have alu := fun f => (⟨_, alu_next h rd ra rb f, registerFrame_wroteG ..⟩ : EndsInFrame c (some (.g rd)) s (.next _))
  have immediate := fun q f => (⟨_, imm_next h rd q f, registerFrame_wroteG ..⟩ : EndsInFrame c (some (.g rd)) s (.next _))
  have shift := fun k f64 f32 => (⟨_, congrArg _ (runShifti_ready h rd ra w n k f64 f32 hw), registerFrame_wroteG ..⟩ :
    EndsInFrame c (some (.g rd)) s (.next _))
  have div := fun signed rem => (⟨_, div_next h rd ra rb signed rem (.inr (noTrap_of_te hte _)),
    registerFrame_wroteGFlags _ _ (by split <;> simp) _ _⟩ : EndsInFrame c (some (.g rd)) s (.next _))
  have ftoG := fun signed => (⟨_, ftoG_next h rd ra fmt rm (fun f r a => ftoint f r signed a) rfl (noTrap_of_te hte _),
    registerFrame_wroteGFlags _ _ (ftoint_flags _ _ _ _) _ _⟩ : EndsInFrame c (some (.g rd)) s (.next _))
  have cmp := fun rel signalling => (⟨_, fcmp_next h rd ra rb fmt rel signalling rfl (noTrap_of_te hte _),
    registerFrame_wroteGFlags _ _ (fcmp_flags _ _ _ _ _) _ _⟩ : EndsInFrame c (some (.g rd)) s (.next _))
  have retires := fun (body : State → CoreEnd) v (hb : body (fetchTouch c s) = .retire (gSet c rd v (fetchTouch c s))) =>
    (⟨_, congrArg _ (runCore_retires h hb), registerFrame_wroteG ..⟩ :
      EndsInFrame c (some (.g rd)) s (.next (runCore c false body s)))
  unfold gForms
  simp only [List.forall_mem_cons, List.not_mem_nil, false_implies, implies_true, and_true]
  exact ⟨alu _, alu _, alu _, alu _, alu _, alu _, alu _, alu _, alu _, alu _, alu _, alu _, alu _, alu _, alu _, immediate _ _,
    alu _, alu _, alu _, alu _, alu _, alu _, alu _, alu _, alu _, alu _, alu _, alu _, alu _, alu _, alu _, immediate _ _,
    alu _, alu _, alu _, div _ _, div _ _, div _ _, div _ _, immediate _ _, immediate _ _, immediate _ _, immediate _ _,
    immediate _ _, immediate _ _, shift _ _ _, shift _ _ _, shift _ _ _, shift _ _ _, ftoG _, ftoG _, retires _ _ rfl,
    cmp _ _, cmp _ _, cmp _ _, cmp _ _, cmp _ _, cmp _ _, retires _ _ rfl⟩

/-- An operation of two or three f registers whose flags are flags of Table 08-3. -/
theorem fpu_frame (rd ra rb : Reg) (fmt : FFmt) (rm : FRm) (op : FFmt → Round → Nat → Nat → Nat → Nat × FFlags)
    (hop : ∀ f r a b d, (op f r a b d).2 < 64) : EndsInFrame c (some (.f rd)) s (.next (runFpu c rd ra rb fmt rm op s)) :=
  ⟨_, fpu_next h rd ra rb fmt rm op rfl (noTrap_of_te hte _), registerFrame_wroteFFlags rd _ (hop _ _ _ _ _) _ _⟩

/-- Each instruction that writes f(rd) stays in its frame. -/
theorem fForms_frame {rd ra rb : Reg} {fmt : FFmt} {rm : FRm} :
    ∀ i ∈ fForms c rd ra rb fmt rm, EndsInFrame c (some (.f rd)) s (exec i s) := by
  have fpu := fun q op hop => fpu_frame h hte rd ra q fmt rm op hop
  have gtoF := fun read => (⟨_, gtoF_next h rd ra fmt rm read rfl (noTrap_of_te hte _),
    registerFrame_wroteFFlags _ _ (inttof_flags _ _ _) _ _⟩ : EndsInFrame c (some (.f rd)) s (.next _))
  have retires := fun (body : State → CoreEnd) v (hb : body (fetchTouch c s) = .retire (fSet c rd v (fetchTouch c s))) =>
    (⟨_, congrArg _ (runCore_retires h hb), registerFrame_wroteF ..⟩ :
      EndsInFrame c (some (.f rd)) s (.next (runCore c false body s)))
  have ftof : EndsInFrame c (some (.f rd)) s (exec (.ftof c rd ra fmt rm) s) :=
    ⟨_, ftof_next h rd ra fmt rm (noTrap_of_te hte _), registerFrame_wroteFFlags _ _ (ftof_flags _ _ _) _ _⟩
  unfold fForms
  simp only [List.forall_mem_cons, List.not_mem_nil, false_implies, implies_true, and_true]
  refine ⟨fpu _ _ fun f r a b _ => fadd_flags f r a b, fpu _ _ fun f r a b _ => fsub_flags f r a b,
    fpu _ _ fun f r a b _ => fmul_flags f r a b, fpu _ _ fun f r a b _ => fdiv_flags f r a b,
    fpu _ _ fun f _ a b _ => fminmax_flags f a b false, fpu _ _ fun f _ a b _ => fminmax_flags f a b true,
    fpu _ _ fmac_flags, fpu _ _ fun f r a _ _ => fsqrt_flags f r a, gtoF _, gtoF _,
    ftof,
    fpu _ _ fun f r a _ _ => fint_flags f r a, retires _ _ rfl⟩

end

/-- What is said of a completion against the state after the fetch holds against the state before it, where the fetch meets no
error. -/
theorem EndsInFrame.frame {c : CoreId} {d : Option Dest} {s t r : State} {o : Host.Outcome State Fault Refusal}
    (h : EndsInFrame c d s o) (ho : o = .next t) (hr : r = fetchTouch c s ∨ (L2NoError s c ∧ r = s)) : RegisterFrame c d r t := by
  obtain ⟨t', ho', hf⟩ := h
  obtain rfl : t' = t := Host.Outcome.next.inj (ho'.symm.trans ho)
  rcases hr with rfl | ⟨hs, rfl⟩
  · exact hf
  · exact registerFrame_trans (registerFrame_fetch hs d) hf

/-- Settles O24, by family: what each instruction writes after its fetch, and what the fetch leaves. -/
theorem registerInstructionFrame : Obligations.RegisterInstructionFrame := by
  unfold Obligations.RegisterInstructionFrame
  intro s t c rd ra rb imm e w n fmt rm i h hte ht r hr
  exact ⟨fun hw hi => (gForms_frame h hte hw i hi).frame ht hr, fun hi => (fForms_frame h hte i hi).frame ht hr,
    fun hi => (branchForms_frame h i hi).frame ht hr⟩

end Sys2Proof.Machine
end

section
/-! PROOFS. A fetch leaves the tile memory of its core without new errors, and device memory as it was, whatever errors the caches
meet (R226, R479, Table 10-2). -/

namespace Sys2Proof.Machine

/-- The list of tile words with an error of core c and the bytes of device memory are in t as in s. -/
def Spared (c : CoreId) (s t : State) : Prop := (core t c).tileBad = (core s c).tileBad ∧ t.ms.dram = s.ms.dram

section
variable {c : CoreId} {s t u : State}

theorem Spared.refl (c : CoreId) (s : State) : Spared c s s := ⟨rfl, rfl⟩

theorem Spared.trans (h : Spared c s u) (k : Spared c u t) : Spared c s t := ⟨k.1.trans h.1, k.2.trans h.2⟩

theorem spared_of_same (hc : t.cores = s.cores) (hm : t.ms = s.ms) : Spared c s t :=
  ⟨by unfold core; rw [hc], by rw [hm]⟩

theorem spared_foldl {α : Type} {f : State → α → State} (hf : ∀ s a, Spared c s (f s a)) (l : List α) (s : State) :
    Spared c s (l.foldl f s) := by
  induction l generalizing s with
  | nil => exact .refl c s
  | cons a l ih => exact (hf s a).trans (ih _)

theorem spared_foldPair {α β : Type} {f : State × β → α → State × β} (hf : ∀ x a, Spared c x.1 (f x a).1) (l : List α)
    (x : State × β) : Spared c x.1 (l.foldl f x).1 := by
  induction l generalizing x with
  | nil => exact .refl c _
  | cons a l ih => exact (hf x a).trans (ih _)

theorem CacheStep.spared {i : Bool} (h : CacheStep c i s u) : Spared c s u := ⟨by rw [h.own], h.quiet.dram⟩

/-! ### A job that fails -/

theorem spared_setUnitState (c : CoreId) (u v : Nat) (s : State) : Spared c s (setUnitState u v s) := by
  unfold setUnitState
  split <;> exact .refl c s

theorem spared_stopTask (c : CoreId) (slot : Nat) (cancel : Bool) (s : State) : Spared c s (stopTask slot cancel s) := by
  have hleave : ∀ (t : Task) (s : State), Spared c s (leaveReady t (leaveRunning t s)) := fun t s => by
    unfold leaveReady leaveRunning
    split <;> split <;> exact .refl c s
  have hstall : ∀ (t : Task) (s : State), Spared c s (countStall t s) := fun t s => by
    unfold countStall
    split
    · unfold unitCount
      split <;> exact .refl c s
    · exact .refl c s
  have hclear : ∀ (t : Task) (s : State), Spared c s (clearGroups t s) := fun t s =>
    spared_foldl (fun s u => spared_setUnitState c u 3 s) _ s
  have hhalt : ∀ (t : Task) (s : State), Spared c s (haltChannel t cancel s) := fun t s => by
    unfold haltChannel
    split <;> exact .refl c s
  unfold stopTask
  split
  · exact .refl c s
  · exact ((((hleave _ s).trans (hstall _ _)).trans (hclear _ _)).trans (hhalt _ _)).trans (spared_of_same rfl rfl)

/-- Flags that reach a task leave all of a core but its pending interrupts. -/
theorem spared_setFlags (c : CoreId) (slot : Nat) (fl : BitVec 32) (s : State) : Spared c s (setFlags slot fl s) := by
  have hnote : ∀ (t : Task) (s : State), Spared c s (noteEvent t fl s) := fun t s => by
    unfold noteEvent
    split
    · refine ⟨?_, rfl⟩
      unfold core
      by_cases h : t.unit = c.val
      · simp only [h, tmod, tget_tset_self]
      · simp only [tmod, tget_tset_ne _ _ _ _ _ h]
    · exact .refl c s
  unfold setFlags
  split
  · exact .refl c s
  · dsimp only
    split
    · exact (hnote _ s).trans (spared_of_same rfl rfl)
    · exact (hnote _ s).trans (spared_of_same rfl rfl)

theorem spared_releaseSpill (c : CoreId) (jid : Nat) (s : State) : Spared c s (releaseSpill jid s) := by
  unfold releaseSpill
  split
  · exact .refl c s
  · split
    · exact .refl c s
    · exact setFlagsWhere_holds _ _ (fun k fl x hx => hx.trans (spared_setFlags c k fl x)) (fun _ _ hx => hx) _
        (spared_of_same rfl rfl)

theorem spared_failJob (c : CoreId) (jid status : Nat) (er : ErrRec) (s : State) : Spared c s (failJob jid status er s) := by
  have hend : ∀ (j : Job) (f : Job → Job) (s : State), Spared c s (jobMod jid f (dropFaults j (closeZones jid 4 s))) :=
    fun _ _ _ => spared_of_same rfl rfl
  unfold failJob
  split
  · exact .refl c s
  · split
    · split <;> exact .refl c s
    · have hstop := spared_foldl (fun s k => spared_stopTask c k true s) (slotsWhere s fun t => t.jid = jid) s
      exact (hstop.trans (spared_releaseSpill c jid _)).trans (hend _ _ _)

theorem spared_failTask (c : CoreId) (slot status : Nat) (er : ErrRec) (s : State) : Spared c s (failTask slot status er s) := by
  unfold failTask
  split
  · exact .refl c s
  · exact spared_failJob ..

/-! ### Errors that a fetch meets -/

theorem spared_coreMod_ne {e : CoreId} (h : e ≠ c) (f : Core → Core) (s : State) : Spared c s (coreMod e f s) :=
  ⟨by rw [core_coreMod_ne e c f s h], rfl⟩

/-- The halt of another core. -/
theorem spared_haltCore {e : CoreId} (h : e ≠ c) (cause : Nat) (s : State) : Spared c s (haltCore e cause s) := by
  have hleft : ∀ s, Spared c s (unitLeft e.val s) := fun s => spared_foldl (fun s j => spared_failJob c _ _ _ s) _ s
  have htask : ∀ (k : Option Nat) (er : ErrRec) (s : State), Spared c s (match k with
      | some slot => failTask slot 0x0503 er s
      | none => s) := fun k er s => by
    split
    · exact spared_failTask ..
    · exact .refl c s
  have hmod : ∀ (i : Nat) (x y z : Nat) (f : Core → Core) (s : State),
      Spared c s (coreMod e f (odSet i 9 x (odSet i 8 y (odBump i 7 s)))) := fun i x y _ f s =>
    (spared_of_same (t := odSet i 9 x (odSet i 8 y (odBump i 7 s))) rfl rfl).trans (spared_coreMod_ne h f _)
  unfold haltCore
  dsimp only
  split
  · exact ((hmod _ _ _ 0 _ s).trans (htask _ _ _)).trans (hleft _)
  · exact (hmod _ _ _ 0 _ s).trans (htask _ _ _)

theorem spared_enterM {e : CoreId} (h : e ≠ c) (lvl vec sub : Nat) (val ret : Word) (imp : Bool) (s : State) :
    Spared c s (enterM e lvl vec sub val ret imp s) := by
  unfold enterM
  split
  · rename_i k' _
    refine (spared_coreMod_ne h (fun _ => k') s).trans (spared_of_same ?_ ?_)
    · unfold countEntry
      split <;> rfl
    · unfold countEntry
      split <;> rfl
  · exact spared_haltCore h _ _

theorem spared_fatal (c : CoreId) (n : Nat) (s : State) : Spared c s (fatal n s) := by
  unfold fatal
  split
  · exact .refl c s
  · exact spared_of_same rfl rfl

/-- A tag error brings a MACHINE_CHECK to another core, or is the instruction's own exception (R226). -/
theorem spared_tagError (key : Nat) (l : L2Line) (s : State) : Spared c s (tagError c key l s).1 := by
  unfold tagError
  dsimp only
  split
  · exact spared_of_same rfl rfl
  · split
    · exact spared_of_same rfl rfl
    · have hdel : Spared c s (fatal 3 (l2Del (clusterOf c) (key / 16) (key % 16) s)) :=
        (spared_of_same rfl rfl).trans (spared_fatal c 3 _)
      split
      · split
        · exact hdel
        · rename_i hne
          exact hdel.trans (spared_enterM hne _ _ _ _ _ _ _)
      · exact hdel.trans (spared_of_same rfl rfl)

theorem spared_l2Parity (c : CoreId) (k set way m : Nat) (s : State) : Spared c s (l2Parity k set way m s).1 := by
  have hlost : ∀ (line : Nat) (ws : List Nat) (s : State), Spared c s (ws.foldl (fun s i =>
      let cw := (line * 128 + i * 32) / 32
      let s := odBump (0x3480 + k) 7 (odBump (0x3480 + k) 0x0B s)
      let s := odSet (0x3480 + k) 0x0C (cw * 32) s
      { s with ms := { s.ms with poison := if s.ms.poison.contains cw then s.ms.poison else cw :: s.ms.poison } }) s) :=
    fun line ws s => by
      refine spared_foldl (fun s i => ?_) ws s
      exact ⟨rfl, rfl⟩
  unfold l2Parity
  split
  · exact .refl c s
  · dsimp only
    split
    · exact .refl c s
    · split
      · exact spared_of_same rfl rfl
      · exact Spared.trans (spared_of_same rfl rfl) (hlost _ _ _)

theorem spared_parityRange (pa n : Nat) (s : State) : Spared c s (parityRange c pa n s).1 := by
  have htag : ∀ s, Spared c s (tagCheck c (lines128 pa n) s).1 := fun s => by
    unfold tagCheck tagSets
    refine spared_foldPair (fun x a => ?_) _ (s, none)
    exact spared_tagError a.1 a.2 x.1
  have hown : ∀ s, Spared c s (parityAt (clusterOf c) pa n s).1 := fun s => by
    unfold parityAt
    refine spared_foldPair (fun x a => ?_) _ (s, none)
    split
    · exact .refl c _
    · exact spared_l2Parity c _ _ _ _ _
  have hsnoop : ∀ own need s, Spared c s (snoopLost own need pa n s).1 := fun own need s => by
    unfold snoopLost
    refine spared_foldPair (fun x a => ?_) _ (s, none)
    split
    · exact .refl c _
    · refine spared_foldPair (fun y line => ?_) _ x
      unfold snoopLine
      split
      · exact .refl c _
      · split
        · exact .refl c _
        · exact spared_l2Parity c _ _ _ _ _
  have h1 := htag s
  unfold parityRange parityNeeds
  split <;> rename_i e <;> rw [e] at h1
  · exact h1
  · rename_i s1
    have h2 := hown s1
    split <;> rename_i e <;> rw [e] at h2
    · exact h1.trans h2
    · exact (h1.trans h2).trans (hsnoop _ _ _)

/-- A fetch brings no error to the tile memory of its core, and changes no byte of device memory. -/
theorem fetchTouch_spares (c : CoreId) (s : State) (h : (core s c).tileBad = []) :
    (core (fetchTouch c s) c).tileBad = [] ∧ (fetchTouch c s).ms.dram = s.ms.dram := by
  have hsp : Spared c s (fetchTouch c s) := by
    have hwalk : Spared c s (coreWalk c .fetch (core s c).pc.toNat 4 s) :=
      (cacheRun_walk (i := true) .fetch (core s c).pc.toNat 4 s).toCacheStep.spared
    unfold fetchTouch fetch
    dsimp only
    split
    · exact .refl c s
    · split
      · exact hwalk
      · rename_i pa st _
        have hpar := spared_parityRange (c := c) pa 4 (coreWalk c .fetch (core s c).pc.toNat 4 s)
        split <;> rename_i e <;> rw [e] at hpar
        · exact hwalk.trans hpar
        · split
          · exact hwalk.trans hpar
          · split
            · exact hwalk.trans hpar
            · exact (hwalk.trans hpar).trans (cacheRun_l1Load (i := true) _ _ _).toCacheStep.spared
      · unfold tileCorrect
        rw [h]
        exact .refl c s
      · exact .refl c s
  exact ⟨hsp.1.trans h, hsp.2⟩

end

end Sys2Proof.Machine
end

section
/-! PROOFS. Loads and stores of a core in its own tile memory, where no word has an error (R175, R176, R180, Table 10-2). -/

namespace Sys2Proof.Machine

/-! ### Bytes of a memory -/

theorem length_memWalk (t : List Host.Cell) (a n : Nat) : (memWalk t a n).length = n := by
  induction n generalizing t a with
  | zero => cases t <;> rfl
  | succ n ih =>
    cases t with
    | nil => simp [memWalk, ih]
    | cons e t =>
      unfold memWalk
      split <;> simp [ih]

@[simp] theorem length_memTake (m : List Host.Cell) (a n : Nat) : (memTake m a n).length = n := length_memWalk _ _ _

/-! ### Accesses that lie in the tile window -/

section
variable {s x : State} {c : CoreId} {w : Bool} {a n : Nat}

/-- Whether an access is granted depends on the level and the size of the task's region alone. -/
theorem inTile_of (hl : coreLevel x c = coreLevel s c) (ht : (core x c).tileBytes = (core s c).tileBytes)
    (h : InTile s c w a n) : InTile x c w a n := by
  obtain ⟨hw, hg⟩ := h
  refine ⟨hw, ?_⟩
  unfold tileGrants at hg ⊢
  rw [hl, ht]
  exact hg

theorem inTile_fetchTouch (h : InTile s c w a n) : InTile (fetchTouch c s) c w a n :=
  inTile_of (coreLevel_fetchTouch s c) (by rw [core_fetchTouch s c]) h

/-- An access that is granted, with no error in tile memory, lands there. -/
theorem corePlace_inTile {kind : AccKind} (hb : (core s c).tileBad = []) (h : InTile s c (kind = .write) a n) :
    corePlace s c kind a n = .ok (.tile (tileOff a)) := by
  obtain ⟨hw, hg⟩ := h
  have herr : tileError (core s c) (kind = .write) a n = none := by
    unfold tileError
    rw [hb]
    rfl
  unfold corePlace
  dsimp only
  rw [if_pos hw, hg, herr]
  rfl

theorem tileCorrect_clean (hb : (core s c).tileBad = []) (o n : Nat) : tileCorrect c o n s = s := by
  unfold tileCorrect
  rw [hb]
  rfl

theorem tileWrite_clean (hb : (core s c).tileBad = []) (o : Nat) (bytes : List Byte) :
    tileWrite c o bytes s = coreMod c (fun k => { k with tile := memPut k.tile o bytes }) s := by
  have hput : coreMod c (fun k => { k with
      tile := memPut k.tile o bytes, tileBad := k.tileBad.filter fun e => !wordIn e.1 o bytes.length }) s =
      coreMod c (fun k => { k with tile := memPut k.tile o bytes }) s :=
    coreMod_const2 c s _ _ (by rw [hb]; rfl)
  unfold tileWrite
  dsimp only
  rw [hput]
  exact tileCorrect_clean (by rw [core_coreMod_self]; exact hb) _ _

theorem coreLoad_inTile {lv : Bool} (hb : (core s c).tileBad = []) (h : InTile s c false a n) :
    coreLoad c a n lv s = (.ok (memTake (core s c).tile (tileOff a) n), s) := by
  simp only [coreLoad, corePlace_inTile (kind := .read) hb h, tileCorrect_clean hb]

theorem coreStore_inTile {lv : Bool} {bytes : List Byte} (hb : (core s c).tileBad = []) (h : InTile s c true a bytes.length) :
    coreStore c a bytes lv s = .ok (coreMod c (fun k => { k with tile := memPut k.tile (tileOff a) bytes }) s) := by
  simp only [coreStore, corePlace_inTile (kind := .write) hb h, tileWrite_clean hb]

/-! ### Scalar loads and stores -/

theorem load_tile (hb : (core s c).tileBad = []) (h : InTile s c false a n) : coreLoad c a n false (fetchTouch c s) =
    (.ok (memTake (core s c).tile (tileOff a) n), fetchTouch c s) := by
  rw [coreLoad_inTile (fetchTouch_spares c s hb).1 (inTile_fetchTouch h), tile_fetchTouch]

theorem store_tile {bytes : List Byte} (hb : (core s c).tileBad = []) (hn : bytes.length = n) (h : InTile s c true a n) :
    coreStore c a bytes false (fetchTouch c s) =
      .ok (coreMod c (fun k => { k with tile := memPut k.tile (tileOff a) bytes }) (fetchTouch c s)) := by
  subst hn
  exact coreStore_inTile (fetchTouch_spares c s hb).1 (inTile_fetchTouch h)

end

end Sys2Proof.Machine
end

section
/-! PROOFS. The long-vector instructions on arrays in the own tile memory (R208 to R215). -/

namespace Sys2Proof.Machine

/-! ### Bytes of a memory in canonical form -/

theorem tile_wf {s : State} (c : CoreId) (h : Sound s) : memWf (core s c).tile = true := by
  have hall := h.1
  simp only [memOk, Bool.and_eq_true, List.all_eq_true] at hall
  unfold core tget
  cases hf : tfind s.cores c.val with
  | none => rfl
  | some k => exact hall.2 _ (tfind_mem _ _ _ hf)

theorem tsorted_of_wf {m : List Host.Cell} (h : memWf m = true) : tsorted m = true := by
  simp only [memWf, Bool.and_eq_true] at h
  exact h.1

/-- The bytes read from a list whose cells start at an address or above are those it holds. -/
theorem memWalk_eq_map (n : Nat) {t : List Host.Cell} {a : Nat} (ht : tsorted t = true) (ha : ∀ e ∈ t, a ≤ e.1) :
    memWalk t a n = (List.range' a n).map (memGet t) := by
  induction n generalizing t a with
  | zero => cases t <;> rfl
  | succ n ih =>
    rw [List.range'_succ, List.map_cons]
    cases t with
    | nil => exact congrArg _ (ih rfl (by simp))
    | cons e t =>
      obtain ⟨k, b⟩ := e
      obtain ⟨hlow, hsorted⟩ := (tsorted_cons k b t).mp ht
      have hk : a ≤ k := ha _ List.mem_cons_self
      unfold memWalk
      by_cases h : k = a
      · subst h
        rw [if_pos rfl, ih hsorted fun e he => hlow e he]
        refine List.cons_eq_cons.mpr ⟨by simp [memGet, tget, tfind], List.map_congr_left fun x hx => ?_⟩
        have hx' := (List.mem_range'_1.mp hx).1
        simp [memGet, tget, tfind, (Nat.ne_of_lt hx')]
      · rw [if_neg h, ih ht fun e he => ?_]
        · refine List.cons_eq_cons.mpr ⟨?_, rfl⟩
          rw [memGet, tget, tfind_none _ a fun e he => ?_]
          · rfl
          · rcases List.mem_cons.mp he with rfl | he
            · exact h
            · have := hlow e he
              omega
        · rcases List.mem_cons.mp he with rfl | he
          · show a + 1 ≤ k
            omega
          · have := hlow e he
            omega

/-- The bytes that a memory in canonical form gives from an address are those it holds there. -/
theorem memTake_eq_map {m : List Host.Cell} (h : tsorted m = true) (a n : Nat) :
    memTake m a n = (List.range' a n).map (memGet m) := by
  have hlow := dropWhile_low m a h
  unfold memTake
  rw [memWalk_eq_map n (tsorted_sublist (List.dropWhile_sublist _) h) hlow]
  refine List.map_congr_left fun x hx => ?_
  have hx' := (List.mem_range'_1.mp hx).1
  have hnone : tfind (m.takeWhile fun c => c.1 < a) x = none :=
    tfind_none _ _ fun e he => by have := takeWhile_low m a e he; omega
  unfold memGet tget
  conv_rhs => rw [← List.takeWhile_append_dropWhile (p := fun c : Host.Cell => c.1 < a) (l := m), tfind_append, hnone]
  rfl

theorem memTake_congr {m m' : List Host.Cell} (h : tsorted m = true) (h' : tsorted m' = true) {a n : Nat}
    (hb : ∀ x, a ≤ x → x < a + n → memGet m' x = memGet m x) : memTake m' a n = memTake m a n := by
  rw [memTake_eq_map h, memTake_eq_map h']
  exact List.map_congr_left fun x hx => hb x (List.mem_range'_1.mp hx).1 (List.mem_range'_1.mp hx).2

/-! ### What elements leave -/

/-- x is v after elements of a long-vector instruction of core c: its tile memory differs where keep does not hold, FLAGS may
have grown, and nothing else of the core or of device memory differs. -/
structure LvKept (c : CoreId) (keep : Nat → Prop) (v x : State) : Prop where
  own : core x c = { core v c with tile := (core x c).tile, pstat := (core x c).pstat }
  pstat : ∃ fl : Nat, fl < 64 ∧ (core x c).pstat = (core v c).pstat ||| BitVec.ofNat 64 fl
  ms : x.ms = v.ms
  wf : memWf (core x c).tile = true
  bytes : ∀ a, keep a → memGet (core x c).tile a = memGet (core v c).tile a

/-- FLAGS stand below TE and the level: setting flags leaves both. -/
theorem bitsOf_or_flags (w : Word) {fl hi lo : Nat} (hf : fl < 64) (hlo : 6 ≤ lo) :
    bitsOf (w ||| BitVec.ofNat 64 fl).toNat hi lo = bitsOf w.toNat hi lo := by
  apply Nat.eq_of_testBit_eq
  intro j
  have hbit : fl.testBit (lo + j) = false :=
    Nat.testBit_lt_two_pow (Nat.lt_of_lt_of_le hf (Nat.pow_le_pow_right (Nat.succ_pos 1) (by omega : 6 ≤ lo + j)))
  have hmod : (BitVec.ofNat 64 fl).toNat = fl := Nat.mod_eq_of_lt (by omega)
  rw [testBit_bitsOf, testBit_bitsOf, BitVec.toNat_or, Nat.testBit_or, hmod, hbit, Bool.or_false]

section
variable {c : CoreId} {keep : Nat → Prop} {v x : State}

theorem LvKept.refl (h : memWf (core v c).tile = true) : LvKept c keep v v :=
  ⟨rfl, or_zero_word _, rfl, h, fun _ _ => rfl⟩

/-- An element's result is stored. -/
theorem LvKept.put (h : LvKept c keep v x) {o : Nat} {bytes : List Byte} (hk : ∀ a, o ≤ a → a < o + bytes.length → ¬ keep a) :
    LvKept c keep v (coreMod c (fun k => { k with tile := memPut k.tile o bytes }) x) where
  own := by
    rw [core_coreMod_self, h.own]
  pstat := by
    rw [core_coreMod_self]
    exact h.pstat
  ms := h.ms
  wf := by
    rw [core_coreMod_self]
    exact memPut_wf _ _ _ h.wf
  bytes := fun a ha => by
    rw [core_coreMod_self]
    show memGet (memPut (core x c).tile o bytes) a = _
    rw [memGet_memPut _ _ _ _ (tsorted_of_wf h.wf), if_neg fun hr => hk a hr.1 hr.2 ha]
    exact h.bytes a ha

/-- An element's flags are set. -/
theorem LvKept.flag (h : LvKept c keep v x) {fl : Nat} (hf : fl < 64) :
    LvKept c keep v (coreMod c (fun k => { k with pstat := k.pstat ||| BitVec.ofNat 64 fl }) x) where
  own := by
    rw [core_coreMod_self, h.own]
  pstat := by
    rw [core_coreMod_self]
    obtain ⟨g, hg, hp⟩ := h.pstat
    exact ⟨g ||| fl, Nat.or_lt_two_pow (n := 6) hg hf, by rw [hp, BitVec.or_assoc, BitVec.ofNat_or]⟩
  ms := h.ms
  wf := by
    rw [core_coreMod_self]
    exact h.wf
  bytes := fun a ha => by
    rw [core_coreMod_self]
    exact h.bytes a ha

theorem LvKept.pstatField (h : LvKept c keep v x) {hi lo : Nat} (hlo : 6 ≤ lo) :
    bitsOf (core x c).pstat.toNat hi lo = bitsOf (core v c).pstat.toNat hi lo := by
  obtain ⟨fl, hf, hp⟩ := h.pstat
  rw [hp, bitsOf_or_flags _ hf hlo]

theorem LvKept.level (h : LvKept c keep v x) : coreLevel x c = coreLevel v c := by
  unfold coreLevel
  rw [h.pstatField (by decide)]

theorem LvKept.gGet (h : LvKept c keep v x) (r : Reg) : gGet x c r = Machine.gGet v c r := by
  unfold Machine.gGet
  rw [h.own]

theorem LvKept.clean (h : LvKept c keep v x) (hb : (core v c).tileBad = []) : (core x c).tileBad = [] := by
  rw [h.own]
  exact hb

theorem LvKept.inTile (h : LvKept c keep v x) {w : Bool} {a n : Nat} (hin : InTile v c w a n) : InTile x c w a n :=
  inTile_of h.level (by rw [h.own]) hin

/-- Bytes that are kept read as before. -/
theorem LvKept.take (h : LvKept c keep v x) (hv : memWf (core v c).tile = true) {a n : Nat}
    (hk : ∀ y, a ≤ y → y < a + n → keep y) : memTake (core x c).tile a n = memTake (core v c).tile a n :=
  memTake_congr (tsorted_of_wf hv) (tsorted_of_wf h.wf) fun y h1 h2 => h.bytes y (hk y h1 h2)

/-! ### Where an element of an array lies -/

/-- Part of a range that lies in tile memory. -/
theorem inTile_sub {w : Bool} {a len off m : Nat} (h : InTile v c w a len) (hm : 0 < m) (hs : off + m ≤ len) :
    InTile v c w (a + off) m := by
  obtain ⟨hw, hg⟩ := h
  simp only [inWindow, Bool.and_eq_true, decide_eq_true_eq] at hw
  unfold tileGrants at hg
  rw [Bool.and_eq_true, decide_eq_true_eq] at hg
  obtain ⟨hend, hlvl⟩ := hg
  refine ⟨by simp only [inWindow, Bool.and_eq_true, decide_eq_true_eq]; omega, ?_⟩
  unfold tileGrants
  rw [Bool.and_eq_true, decide_eq_true_eq]
  refine ⟨by omega, ?_⟩
  cases hl : coreLevel v c <;> rw [hl] at hlvl <;> dsimp only at hlvl ⊢
  · rw [decide_eq_true_eq] at hlvl ⊢
    omega
  · cases w
    · rfl
    · simp only [Bool.true_and, Bool.not_eq_true', Bool.and_eq_false_iff, decide_eq_false_iff_not] at hlvl ⊢
      omega

theorem inTile_range {w : Bool} {a n : Nat} (h : InTile v c w a n) : 0xFFF00000 ≤ a ∧ a + n ≤ 0x100000000 := by
  obtain ⟨hw, hg⟩ := h
  simp only [inWindow, Bool.and_eq_true, decide_eq_true_eq] at hw
  unfold tileGrants at hg
  rw [Bool.and_eq_true, decide_eq_true_eq] at hg
  exact ⟨hw.1, hg.1⟩

theorem lvPlace_inTile {kind : AccKind} {a n : Nat} (hb : (core v c).tileBad = []) (h : InTile v c (kind = .write) a n) :
    lvPlace v c kind a n = .ok (tileOff a) := by
  obtain ⟨hlo, hhi⟩ := inTile_range h
  unfold lvPlace
  rw [if_neg (by simp only [Bool.or_eq_true, decide_eq_true_eq]; omega), corePlace_inTile hb h]

theorem tileOff_add {a : Nat} (h : 0xFFF00000 ≤ a) (n : Nat) : tileOff (a + n) = tileOff a + n := Nat.sub_add_comm h

/-- An element of an array, or a byte of a bitmap or bit stream, that lies in tile memory. -/
theorem LvKept.place (h : LvKept c keep v x) (hb : (core v c).tileBad = []) {kind : AccKind} {r : Reg} {len e size m : Nat}
    (hin : InTile v c (kind = .write) (Machine.gGet v c r).toNat len) (hm : 0 < m) (hs : e * size + m ≤ len) :
    lvPlace x c kind (lvAddr x c r e size) m = .ok (tileOff (Machine.gGet v c r).toNat + e * size) := by
  obtain ⟨hlo, hhi⟩ := inTile_range hin
  have haddr : lvAddr x c r e size = (Machine.gGet v c r).toNat + e * size := by
    unfold lvAddr
    rw [h.gGet]
    exact Nat.mod_eq_of_lt (by omega)
  rw [haddr, lvPlace_inTile (h.clean hb) (h.inTile (inTile_sub hin hm hs)), tileOff_add hlo]

theorem lvSeen_clean (hb : (core v c).tileBad = []) (reads : List (Nat × Nat)) : lvSeen c reads v = v := by
  unfold lvSeen
  induction reads with
  | nil => rfl
  | cons r rs ih => rw [List.foldl_cons, tileCorrect_clean hb, ih]

/-- An element's result, after the words it read are seen. -/
theorem LvKept.tilePut (h : LvKept c keep v x) (hb : (core v c).tileBad = []) {o : Nat} {bytes : List Byte}
    {reads : List (Nat × Nat)} (hk : ∀ a, o ≤ a → a < o + bytes.length → ¬ keep a) :
    LvKept c keep v (Machine.tilePut c o bytes (lvSeen c reads x)) := by
  unfold Machine.tilePut
  rw [lvSeen_clean (h.clean hb), tileWrite_clean (h.clean hb)]
  exact h.put hk

/-! ### Elements in order -/

/-- Elements from index up to n complete, with flags of Table 08-3 alone, and COMPRESS writes at most one for each. -/
def LvGood (c : CoreId) (elem : ElemFn) (keep : Nat → Prop) (v : State) (index n : Nat) : Prop :=
  ∀ e out x, index ≤ e → e < n → out ≤ e → LvKept c keep v x →
    ∃ f out' x', elem e out x = .done f out' x' ∧ f < 64 ∧ out' ≤ e + 1 ∧ LvKept c keep v x'

/-- With no trap enabled the elements are all performed (R209, R215). -/
theorem lvLoop_completes {elem : ElemFn} {index n : Nat} (hg : LvGood c elem keep v index n)
    (hte : bitsOf (core v c).pstat.toNat 22 17 = 0) (fuel : Nat) : ∀ {e fl out : Nat} {x : State}, index ≤ e → n ≤ e + fuel →
    out ≤ e → LvKept c keep v x →
      ∃ e' fl' out' x', lvLoop c elem n fuel e fl out x = (e', fl', out', none, x') ∧ n ≤ e' ∧ LvKept c keep v x' := by
  induction fuel with
  | zero => exact fun _ hn _ hx => ⟨_, _, _, _, rfl, hn, hx⟩
  | succ fuel ih =>
    intro e fl out x hi hn ho hx
    unfold lvLoop
    split
    · rename_i h
      exact ⟨_, _, _, _, rfl, h, hx⟩
    · rename_i h
      obtain ⟨f, out', x', hdone, hf, ho', hx'⟩ := hg e out x hi (by omega) ho hx
      rw [hdone]
      dsimp only
      rw [hx.pstatField (by decide), hte, Nat.and_zero, if_neg (by simp [highestFlag])]
      exact ih (by omega) (by omega) ho' (hx'.flag hf)

theorem lvImprecise_noTrap {fl : Nat} (hte : bitsOf (core x c).pstat.toNat 22 17 = 0) : lvImprecise c fl x = x := by
  unfold lvImprecise
  dsimp only
  rw [hte, Nat.and_zero]
  rfl

/-- The instruction completes: lvi is cleared, and COMPRESS writes its count (R213). -/
theorem lvRun_completes {elem : ElemFn} {finish : Nat → State → State} {index n : Nat} (hg : LvGood c elem keep v index n)
    (hte : bitsOf (core v c).pstat.toNat 22 17 = 0) (hi : takesIntr v c = false)
    (hx : index = (core v c).lvi.toNat % 2 ^ 32) (ho : (core v c).lvi.toNat / 2 ^ 32 ≤ index)
    (hwf : memWf (core v c).tile = true) :
    ∃ out x, lvRun c n elem finish v = .retire (finish out (lviSet c 0 0 x)) ∧ LvKept c keep v x := by
  subst hx
  obtain ⟨e, fl, out, x, hloop, hn, hk⟩ := lvLoop_completes hg hte (n - (core v c).lvi.toNat % 2 ^ 32) (fl := 0)
    (Nat.le_refl _) (by omega) ho (LvKept.refl hwf)
  refine ⟨out, x, ?_, hk⟩
  unfold lvRun
  dsimp only
  rw [hi, if_neg (by decide), hloop]
  dsimp only
  rw [lvImprecise_noTrap (by rw [hk.pstatField (by decide), hte]), if_neg (by omega)]

end

end Sys2Proof.Machine
end

section
/-! PROOFS. The elements of each long-vector instruction on arrays in the own tile memory (Table 09-4, R210 to R212). -/

namespace Sys2Proof.Machine

/-- An address outside len bytes from lo. -/
def Outside (lo len a : Nat) : Prop := a < lo ∨ lo + len ≤ a

theorem not_outside {lo len off m a : Nat} (hs : off + m ≤ len) (h1 : lo + off ≤ a) (h2 : a < lo + off + m) :
    ¬ Outside lo len a := by
  unfold Outside
  omega

/-- Element e of n, each of z bytes, lies among their bytes. -/
theorem element_fits {e n : Nat} (z : Nat) (h : e < n) : e * z + z ≤ n * z := by
  rw [← Nat.succ_mul]
  exact Nat.mul_le_mul_right z h

/-- The byte of a bitmap of n bits that holds bit e. -/
theorem bitmap_fits {e n : Nat} (h : e < n) : e / 8 * 1 + 1 ≤ (n + 7) / 8 := by omega

/-- The bytes that a field of a bit stream touches lie among those of its n fields. -/
theorem bitField_fits {e n b : Nat} (h : e < n) (hb : 1 ≤ b) :
    0 < (lvBitField e b).2 ∧ (lvBitField e b).1 * 1 + (lvBitField e b).2 ≤ (n * b + 7) / 8 := by
  have hfit := element_fits b h
  unfold lvBitField
  dsimp only
  omega

theorem lvSize_pos (o : LvOp) : 0 < lvSize o := Nat.two_pow_pos _

section
variable {c : CoreId} {o : LvOp} {v : State} {index n : Nat} (hb : (core v c).tileBad = [])
include hb

/-! ### Two sources and a result -/

theorem lvArithElem_good {f : Nat → Nat → Nat × FFlags} (hf : ∀ a b, (f a b).2 < 64)
    (ha : 0 < n → InTile v c false (gGet v c o.ra).toNat (n * lvSize o))
    (hc : 0 < n → InTile v c false (gGet v c o.rb).toNat (n * lvSize o))
    (hd : 0 < n → InTile v c true (gGet v c o.rd).toNat (n * lvSize o)) :
    LvGood c (lvArithElem c o f) (Outside (tileOff (gGet v c o.rd).toNat) (n * lvSize o)) v index n := by
  intro e out x _ he ho hx
  have hn : 0 < n := Nat.zero_lt_of_lt he
  have hz := lvSize_pos o
  have hs := element_fits (lvSize o) he
  unfold lvArithElem
  dsimp only
  rw [hx.place hb (kind := .read) (ha hn) hz hs, hx.place hb (kind := .read) (hc hn) hz hs,
    hx.place hb (kind := .write) (hd hn) hz hs]
  exact ⟨_, _, _, rfl, hf _ _, Nat.le_succ_of_le ho, hx.tilePut hb fun a => not_outside (by rw [leBytes_length]; exact hs)⟩

theorem lvCmpElem_good {f : Nat → Nat → Bool × FFlags} (hf : ∀ a b, (f a b).2 < 64)
    (ha : 0 < n → InTile v c false (gGet v c o.ra).toNat (n * lvSize o))
    (hc : 0 < n → InTile v c false (gGet v c o.rb).toNat (n * lvSize o))
    (hd : 0 < n → InTile v c true (gGet v c o.rd).toNat ((n + 7) / 8)) :
    LvGood c (lvCmpElem c o f) (Outside (tileOff (gGet v c o.rd).toNat) ((n + 7) / 8)) v index n := by
  intro e out x _ he ho hx
  have hn : 0 < n := Nat.zero_lt_of_lt he
  have hz := lvSize_pos o
  have hs := element_fits (lvSize o) he
  unfold lvCmpElem
  dsimp only
  rw [hx.place hb (kind := .read) (ha hn) hz hs, hx.place hb (kind := .read) (hc hn) hz hs,
    hx.place hb (kind := .write) (hd hn) Nat.one_pos (bitmap_fits he)]
  exact ⟨_, _, _, rfl, hf _ _, Nat.le_succ_of_le ho,
    hx.tilePut hb fun a => not_outside (by rw [leBytes_length]; exact bitmap_fits he)⟩

/-! ### COMPRESS, UNPACK and PACK -/

/-- The count of elements written never passes the number of the element (R213). -/
theorem lvCompressElem_good (ha : 0 < n → InTile v c false (gGet v c o.ra).toNat (n * lvSize o))
    (hc : 0 < n → InTile v c false (gGet v c o.rb).toNat ((n + 7) / 8))
    (hd : 0 < n → InTile v c true (gGet v c o.rd).toNat (n * lvSize o)) :
    LvGood c (lvCompressElem c o) (Outside (tileOff (gGet v c o.rd).toNat) (n * lvSize o)) v index n := by
  intro e out x _ he ho hx
  have hn : 0 < n := Nat.zero_lt_of_lt he
  have hz := lvSize_pos o
  have hs := element_fits (lvSize o) (Nat.lt_of_le_of_lt ho he)
  unfold lvCompressElem
  dsimp only
  rw [hx.place hb (kind := .read) (hc hn) Nat.one_pos (bitmap_fits he),
    hx.place hb (kind := .read) (ha hn) hz (element_fits (lvSize o) he), hx.place hb (kind := .write) (hd hn) hz hs]
  dsimp only
  split
  · exact ⟨_, _, _, rfl, Nat.succ_pos 63, Nat.succ_le_succ ho,
      hx.tilePut hb fun a => not_outside (by rw [length_memTake]; exact hs)⟩
  · rw [lvSeen_clean (hx.clean hb)]
    exact ⟨_, _, _, rfl, Nat.succ_pos 63, Nat.le_succ_of_le ho, hx⟩

theorem lvUnpackElem_good {width : Nat} (hw : width = (gGet v c o.rb).toNat) (h1 : 1 ≤ width)
    (ha : 0 < n → InTile v c false (gGet v c o.ra).toNat ((n * width + 7) / 8))
    (hd : 0 < n → InTile v c true (gGet v c o.rd).toNat (n * lvSize o)) :
    LvGood c (lvUnpackElem c o) (Outside (tileOff (gGet v c o.rd).toNat) (n * lvSize o)) v index n := by
  intro e out x _ he ho hx
  have hn : 0 < n := Nat.zero_lt_of_lt he
  obtain ⟨hpos, hfit⟩ := bitField_fits he h1
  unfold lvUnpackElem
  dsimp only
  rw [hx.gGet, ← hw, hx.place hb (kind := .read) (ha hn) hpos hfit,
    hx.place hb (kind := .write) (hd hn) (lvSize_pos o) (element_fits (lvSize o) he)]
  exact ⟨_, _, _, rfl, Nat.succ_pos 63, Nat.le_succ_of_le ho,
    hx.tilePut hb fun a => not_outside (by rw [leBytes_length]; exact element_fits (lvSize o) he)⟩

theorem lvPackElem_good {width : Nat} (hw : width = (gGet v c o.rb).toNat) (h1 : 1 ≤ width)
    (ha : 0 < n → InTile v c false (gGet v c o.ra).toNat (n * lvSize o))
    (hd : 0 < n → InTile v c true (gGet v c o.rd).toNat ((n * width + 7) / 8)) :
    LvGood c (lvPackElem c o) (Outside (tileOff (gGet v c o.rd).toNat) ((n * width + 7) / 8)) v index n := by
  intro e out x _ he ho hx
  have hn : 0 < n := Nat.zero_lt_of_lt he
  obtain ⟨hpos, hfit⟩ := bitField_fits he h1
  unfold lvPackElem
  dsimp only
  rw [hx.gGet, ← hw, hx.place hb (kind := .read) (ha hn) (lvSize_pos o) (element_fits (lvSize o) he),
    hx.place hb (kind := .write) (hd hn) hpos hfit]
  exact ⟨_, _, _, rfl, Nat.succ_pos 63, Nat.le_succ_of_le ho,
    hx.tilePut hb fun a => not_outside (by rw [leBytes_length]; exact hfit)⟩

/-! ### GATHER and SCATTER -/

omit hb in
/-- The index array of GATHER and SCATTER as it was, the target of an element is the one it had. -/
theorem lvIndexed_of_kept {keep : Nat → Prop} {x : State} {e : Nat} (hx : LvKept c keep v x) (hwf : memWf (core v c).tile = true)
    (hk : ∀ y, tileOff (gGet v c o.rb).toNat ≤ y → y < tileOff (gGet v c o.rb).toNat + 4 * n → keep y) (he : e < n) :
    lvIndexed x c o (tileNat x c (tileOff (gGet v c o.rb).toNat + e * 4) 4) = lvTarget v c o e := by
  unfold lvIndexed tileNat lvTarget
  rw [hx.gGet, hx.take hwf fun y h1 h2 => hk y (by omega) (by omega), Nat.mul_comm e 4, lvSize]

/-- GATHER, where its result does not change an index. -/
theorem lvGatherElem_good (hwf : memWf (core v c).tile = true)
    (hc : 0 < n → InTile v c false (gGet v c o.rb).toNat (4 * n))
    (hd : 0 < n → InTile v c true (gGet v c o.rd).toNat (n * lvSize o))
    (ht : ∀ e, index ≤ e → e < n → lvTarget v c o e % lvSize o = 0 ∧ InTile v c false (lvTarget v c o e) (lvSize o))
    (hk : 0 < n → ∀ y, tileOff (gGet v c o.rb).toNat ≤ y → y < tileOff (gGet v c o.rb).toNat + 4 * n →
      Outside (tileOff (gGet v c o.rd).toNat) (n * lvSize o) y) :
    LvGood c (lvGatherElem c o) (Outside (tileOff (gGet v c o.rd).toNat) (n * lvSize o)) v index n := by
  intro e out x hi he ho hx
  have hn : 0 < n := Nat.zero_lt_of_lt he
  have hs := element_fits (lvSize o) he
  obtain ⟨halign, htile⟩ := ht e hi he
  unfold lvGatherElem
  dsimp only
  rw [hx.place hb (kind := .read) (m := 4) (hc hn) (Nat.succ_pos 3) (by omega), hx.place hb (kind := .write) (hd hn) (lvSize_pos o) hs]
  dsimp only
  rw [lvIndexed_of_kept hx hwf (hk hn) he, if_neg (not_not_intro halign), coreLoad_inTile (hx.clean hb) (hx.inTile htile)]
  exact ⟨_, _, _, rfl, Nat.succ_pos 63, Nat.le_succ_of_le ho,
    hx.tilePut hb fun a => not_outside (by rw [length_memTake]; exact hs)⟩

/-- SCATTER, where no target is an index. -/
theorem lvScatterElem_good (hwf : memWf (core v c).tile = true)
    (hc : 0 < n → InTile v c false (gGet v c o.rb).toNat (4 * n))
    (hd : 0 < n → InTile v c false (gGet v c o.rd).toNat (n * lvSize o))
    (ht : ∀ e, index ≤ e → e < n → lvTarget v c o e % lvSize o = 0 ∧ InTile v c true (lvTarget v c o e) (lvSize o) ∧
      (lvTarget v c o e + lvSize o ≤ (gGet v c o.rb).toNat ∨ (gGet v c o.rb).toNat + 4 * n ≤ lvTarget v c o e)) :
    LvGood c (lvScatterElem c o) (fun y => tileOff (gGet v c o.rb).toNat ≤ y ∧ y < tileOff (gGet v c o.rb).toNat + 4 * n)
      v index n := by
  intro e out x hi he ho hx
  have hn : 0 < n := Nat.zero_lt_of_lt he
  obtain ⟨halign, htile, hfree⟩ := ht e hi he
  obtain ⟨hlo, -⟩ := inTile_range (hc hn)
  obtain ⟨hlo', -⟩ := inTile_range htile
  unfold lvScatterElem
  dsimp only
  rw [hx.place hb (kind := .read) (m := 4) (hc hn) (Nat.succ_pos 3) (by omega),
    hx.place hb (kind := .read) (hd hn) (lvSize_pos o) (element_fits (lvSize o) he)]
  dsimp only
  rw [lvIndexed_of_kept hx hwf (fun y h1 h2 => ⟨h1, h2⟩) he, if_neg (not_not_intro halign),
    corePlace_inTile (kind := .write) (hx.clean hb) (hx.inTile htile)]
  dsimp only
  rw [coreStore_inTile (hx.clean hb) (by rw [length_memTake]; exact hx.inTile htile)]
  dsimp only
  rw [lvSeen_clean (by rw [core_coreMod_self]; exact hx.clean hb)]
  refine ⟨_, _, _, rfl, Nat.succ_pos 63, Nat.le_succ_of_le ho, hx.put fun a h1 h2 => ?_⟩
  rw [length_memTake] at h2
  unfold tileOff at h1 h2 ⊢
  omega

end

end Sys2Proof.Machine
end

section
/-! PROOFS. Scalar and long-vector instructions on the own tile memory complete (R180, R208 to R214). -/

namespace Sys2Proof.Machine

/-! ### How a long-vector instruction ends -/

/-- t is s once a long-vector instruction of core c has completed: lvi is cleared, and where keep and kept hold the tile memory and
the general registers are as they were. -/
structure LvDone (c : CoreId) (keep : Nat → Prop) (kept : Reg → Prop) (s t : State) : Prop where
  lvi : (core t c).lvi = 0
  pc : (core t c).pc = (core s c).pc + 4
  f : (core t c).f = (core s c).f
  dram : t.ms.dram = s.ms.dram
  g : ∀ r, kept r → gGet t c r = gGet s c r
  tile : ∀ a, keep a → memGet (core t c).tile a = memGet (core s c).tile a

/-- The core once an instruction has completed. -/
theorem core_ran (c : CoreId) (s t : State) : core (ran c s t) c = { core t c with
    pc := (core s c).pc + 4, impAge := if (core s c).imp.isSome then (core t c).impAge + 1 else 0 } := by
  unfold ran ranTo retireAt odBump odAdd
  rw [core_odSet, core_coreMod_self]

section
variable {s x y : State} {c : CoreId} {keep : Nat → Prop} {kept : Reg → Prop}

theorem gGet_lviSet (c : CoreId) (i out : Nat) (s : State) (r : Reg) : gGet (lviSet c i out s) c r = gGet s c r := by
  unfold gGet lviSet
  rw [core_coreMod_self]

/-- Completion, with general registers that may have been written. -/
theorem LvKept.doneAs (h : LvKept c keep (fetchTouch c s) x) (hb : (core s c).tileBad = [])
    (hy : core y c = { core x c with lvi := 0, g := (core y c).g }) (hms : y.ms = x.ms)
    (hg : ∀ r, kept r → Machine.gGet y c r = Machine.gGet s c r) : LvDone c keep kept s (ran c s y) where
  lvi := by rw [core_ran, hy]
  pc := by rw [core_ran]
  f := by rw [core_ran, hy, h.own, core_fetchTouch]
  dram := (congrArg MemState.dram (hms.trans h.ms)).trans (fetchTouch_spares c s hb).2
  g := fun r hr => by
    rw [← hg r hr]
    unfold Machine.gGet
    rw [core_ran]
  tile := fun a ha => by
    rw [core_ran, hy]
    exact (h.bytes a ha).trans (by rw [tile_fetchTouch])

theorem LvKept.done (h : LvKept c keep (fetchTouch c s) x) (hb : (core s c).tileBad = []) :
    LvDone c keep (fun _ => True) s (ran c s (lviSet c 0 0 x)) :=
  h.doneAs hb (by rw [lviSet, core_coreMod_self]; rfl) rfl fun r _ =>
    ((gGet_lviSet ..).trans (h.gGet r)).trans (gGet_fetchTouch s c r)

/-- COMPRESS writes its count to a register (R213). -/
theorem LvKept.doneCounted (h : LvKept c keep (fetchTouch c s) x) (hb : (core s c).tileBad = []) (r : Reg) (w : Word) :
    LvDone c keep (· ≠ r) s (ran c s (gSet c r w (lviSet c 0 0 x))) := by
  refine h.doneAs hb ?_ ?_ fun q hq => ?_
  · unfold gSet lviSet
    split
    · rw [core_coreMod_self]
      rfl
    · rw [core_coreMod_self, core_coreMod_self]
      rfl
  · unfold gSet
    split <;> rfl
  · rw [gGet_gSet_ne c r q w _ hq, gGet_lviSet, h.gGet, gGet_fetchTouch]

end

/-- What a long-vector instruction of n elements that starts at an index needs to complete, but for its operands. -/
structure LvReady (s : State) (c : CoreId) (o : LvOp) (n index : Nat) : Prop where
  clear : CoreClear s c
  wf : memWf (core s c).tile = true
  clean : (core s c).tileBad = []
  count : n = (gGet s c o.rc).toNat
  most : n ≤ 2 ^ 20
  noTrap : bitsOf (core s c).pstat.toNat 22 17 = 0
  noIntr : takesIntr (fetchTouch c s) c = false
  first : index = (core s c).lvi.toNat % 2 ^ 32
  written : (core s c).lvi.toNat / 2 ^ 32 ≤ index

section
variable {s : State} {c : CoreId} {o : LvOp} {n index : Nat} (h : LvReady s c o n index)
include h

/-- Where every element can be performed, the instruction completes. -/
theorem LvReady.runs {major op : Nat} {bad : State → Bool} {elem : ElemFn} {finish : Nat → State → State} {keep : Nat → Prop}
    (hbad : bad (fetchTouch c s) = false) (hg : LvGood c elem keep (fetchTouch c s) index n) :
    ∃ out x, runLv c major o op bad elem finish s = ran c s (finish out (lviSet c 0 0 x)) ∧
      LvKept c keep (fetchTouch c s) x := by
  have hlvi : (core (fetchTouch c s) c).lvi = (core s c).lvi := by rw [core_fetchTouch]
  obtain ⟨out, x, hrun, hk⟩ := lvRun_completes (finish := finish) hg (by rw [core_ft.1, h.noTrap]) h.noIntr
    (by rw [hlvi, h.first]) (by rw [hlvi]; exact h.written) (by rw [tile_fetchTouch]; exact h.wf)
  refine ⟨out, x, ?_, hk⟩
  unfold runLv
  rw [starts_body h.clear.2]
  dsimp only
  rw [gGet_fetchTouch, ← h.count, hbad, if_neg (by simpa using h.most), hrun]

theorem LvReady.completes {major op : Nat} {bad : State → Bool} {elem : ElemFn} {keep : Nat → Prop}
    (hbad : bad (fetchTouch c s) = false) (hg : LvGood c elem keep (fetchTouch c s) index n) :
    LvDone c keep (fun _ => True) s (runLv c major o op bad elem (fun _ s => s) s) := by
  obtain ⟨out, x, hrun, hk⟩ := h.runs (major := major) (op := op) (finish := fun _ s => s) hbad hg
  rw [hrun]
  exact hk.done h.clean

theorem LvReady.wfFetched : memWf (core (fetchTouch c s) c).tile = true := by
  rw [tile_fetchTouch]
  exact h.wf

theorem LvReady.cleanFetched : (core (fetchTouch c s) c).tileBad = [] := (fetchTouch_spares c s h.clean).1

end

/-! ### The rows of Table 09-4 -/

/-- What the statement says of a row, where its operands are legal and its arrays lie in the own tile memory. -/
def LvRowCompletes (s : State) (c : CoreId) (o : LvOp) (n index : Nat) (row : LvRow) : Prop :=
  row.ok → LvOperands s c o row.major row.op n index → Reaches row.i s fun t =>
    (core t c).lvi = 0 ∧ (core t c).pc = (core s c).pc + 4 ∧ (core t c).f = (core s c).f ∧ t.ms.dram = s.ms.dram ∧
    (∀ r : Reg, row.i ≠ .compress c o ∨ r ≠ o.rc → gGet t c r = gGet s c r) ∧
    (row.i ≠ .scatter c o → ∀ x, (x < tileOff (gGet s c o.rd).toNat ∨
        tileOff (gGet s c o.rd).toNat + (lvBytes row.major row.op n (2 ^ o.esz.val) (gGet s c o.rb).toNat).2.2 ≤ x) →
      memGet (core t c).tile x = memGet (core s c).tile x)

section
variable {s : State} {c : CoreId} {o : LvOp} {n index : Nat}

theorem LvDone.reaches {i : Instr} {t : State} {keep : Nat → Prop} {kept : Reg → Prop} {len : Nat} (hd : LvDone c keep kept s t)
    (hexec : exec i s = .next t) (hkept : ∀ r, i ≠ .compress c o ∨ r ≠ o.rc → kept r)
    (hkeep : i ≠ .scatter c o → ∀ x, Outside (tileOff (gGet s c o.rd).toNat) len x → keep x) : Reaches i s fun t =>
    (core t c).lvi = 0 ∧ (core t c).pc = (core s c).pc + 4 ∧ (core t c).f = (core s c).f ∧ t.ms.dram = s.ms.dram ∧
    (∀ r : Reg, i ≠ .compress c o ∨ r ≠ o.rc → gGet t c r = gGet s c r) ∧
    (i ≠ .scatter c o → ∀ x, (x < tileOff (gGet s c o.rd).toNat ∨ tileOff (gGet s c o.rd).toNat + len ≤ x) →
      memGet (core t c).tile x = memGet (core s c).tile x) :=
  ⟨t, hexec, hd.lvi, hd.pc, hd.f, hd.dram, fun r hr => hd.g r (hkept r hr), fun hi x hx => hd.tile x (hkeep hi x hx)⟩

/-- The arrays of an instruction whose row of Table 09-4 names la, lb and ld bytes, once it is fetched. -/
theorem LvOperands.arrays {major op la lb ld : Nat} (h : LvOperands s c o major op n index)
    (hl : lvBytes major op n (lvSize o) (gGet s c o.rb).toNat = (la, lb, ld)) :
    (la ≠ 0 → InTile (fetchTouch c s) c false (gGet (fetchTouch c s) c o.ra).toNat la) ∧
    (lb ≠ 0 → InTile (fetchTouch c s) c false (gGet (fetchTouch c s) c o.rb).toNat lb) ∧
    (ld ≠ 0 → InTile (fetchTouch c s) c (!decide (major = 0x3A ∧ op = 1)) (gGet (fetchTouch c s) c o.rd).toNat ld) := by
  obtain ⟨ha, hb, hd, -⟩ := h
  simp only [gGet_fetchTouch]
  unfold lvSize at hl
  rw [hl] at ha hb hd
  exact ⟨fun k => inTile_fetchTouch (ha k), fun k => inTile_fetchTouch (hb k), fun k => inTile_fetchTouch (hd k)⟩

theorem elements_ne_zero (o : LvOp) (h : 0 < n) : n * lvSize o ≠ 0 := (Nat.mul_pos h (lvSize_pos o)).ne'

theorem bitmap_ne_zero (h : 0 < n) : (n + 7) / 8 ≠ 0 := by omega

theorem stream_ne_zero {width : Nat} (h : 0 < n) (hw : 1 ≤ width) : (n * width + 7) / 8 ≠ 0 := by
  have := Nat.mul_pos h hw
  omega

@[simp] theorem lvTarget_fetchTouch (s : State) (c : CoreId) (o : LvOp) (e : Nat) :
    lvTarget (fetchTouch c s) c o e = lvTarget s c o e := by
  unfold lvTarget
  rw [gGet_fetchTouch, gGet_fetchTouch, tile_fetchTouch]

theorem lvFmt_flags {f : FFmt → Nat → Nat → Nat × FFlags} (hf : ∀ m a b, (f m a b).2 < 64) (a b : Nat) :
    (lvFmt o f a b).2 < 64 := by
  unfold lvFmt
  split
  · exact hf _ a b
  · exact Nat.succ_pos 63

theorem lvFcmp_flags (rel : FRel) (sig : Bool) (a b : Nat) : (match eszFmt o.esz with
    | some m => fcmp m rel sig a b
    | none => (false, 0)).2 < 64 := by
  split
  · exact fcmp_flags _ a b rel sig
  · exact Nat.succ_pos 63

theorem eszFmt_legal (h : o.esz = 2 ∨ o.esz = 3) : (eszFmt o.esz).isNone = false := by
  rcases h with h | h <;> rw [h] <;> rfl

section
variable (h : LvReady s c o n index)
include h

/-- An LVARITH row. -/
theorem lvArith_completes {i : Instr} {op : Nat} {ok : Prop} {elem : ElemFn} {finish : Nat → State → State}
    {bad : State → Bool} {f : Nat → Nat → Nat × FFlags}
    (hexec : exec i s = .next (runLv c 0x38 o op bad (lvArithElem c o f) (fun _ s => s) s)) (hf : ∀ a b, (f a b).2 < 64)
    (hbad : ok → bad (fetchTouch c s) = false) : LvRowCompletes s c o n index ⟨i, 0x38, op, ok, elem, finish⟩ := by
  intro hok hops
  obtain ⟨ha, hb, hd⟩ := hops.arrays (la := n * lvSize o) (lb := n * lvSize o) (ld := n * lvSize o) rfl
  have hne := elements_ne_zero (n := n) o
  have hg := lvArithElem_good (index := index) h.cleanFetched hf (fun k => ha (hne k)) (fun k => hb (hne k)) fun k => hd (hne k)
  rw [gGet_fetchTouch] at hg
  exact (h.completes (hbad hok) hg).reaches hexec (fun _ _ => trivial) fun _ _ hx => hx

/-- A compare of LVSEL. -/
theorem lvCmp_completes {i : Instr} {op : Nat} {ok : Prop} {elem : ElemFn} {finish : Nat → State → State}
    {bad : State → Bool} {f : Nat → Nat → Bool × FFlags} (hop : op ≠ 8)
    (hexec : exec i s = .next (runLv c 0x39 o op bad (lvCmpElem c o f) (fun _ s => s) s)) (hf : ∀ a b, (f a b).2 < 64)
    (hbad : ok → bad (fetchTouch c s) = false) : LvRowCompletes s c o n index ⟨i, 0x39, op, ok, elem, finish⟩ := by
  intro hok hops
  have hl : lvBytes 0x39 op n (lvSize o) (gGet s c o.rb).toNat = (n * lvSize o, n * lvSize o, (n + 7) / 8) := if_neg hop
  obtain ⟨ha, hb, hd⟩ := hops.arrays hl
  have hne := elements_ne_zero (n := n) o
  have hg := lvCmpElem_good (index := index) h.cleanFetched hf (fun k => ha (hne k)) (fun k => hb (hne k))
    fun k => hd (bitmap_ne_zero k)
  rw [gGet_fetchTouch] at hg
  refine (h.completes (hbad hok) hg).reaches hexec (fun _ _ => trivial) fun _ x hx => ?_
  unfold lvSize at hl
  rw [hl] at hx
  exact hx

/-- COMPRESS, which writes the number of its elements to rc. -/
theorem compress_completes : LvRowCompletes s c o n index
    { i := .compress c o, major := 0x39, op := 8, ok := True,
      elem := lvCompressElem c o, finish := fun n s => gSet c o.rc (BitVec.ofNat 64 n) s } := by
  intro _ hops
  obtain ⟨ha, hb, hd⟩ := hops.arrays (la := n * lvSize o) (lb := (n + 7) / 8) (ld := n * lvSize o) rfl
  have hne := elements_ne_zero (n := n) o
  have hg := lvCompressElem_good (index := index) h.cleanFetched (fun k => ha (hne k)) (fun k => hb (bitmap_ne_zero k))
    fun k => hd (hne k)
  rw [gGet_fetchTouch] at hg
  obtain ⟨out, x, hrun, hk⟩ := h.runs (major := 0x39) (op := 8) (bad := fun _ => false)
    (finish := fun n s => gSet c o.rc (BitVec.ofNat 64 n) s) rfl hg
  exact (hk.doneCounted h.clean o.rc (BitVec.ofNat 64 out)).reaches (congrArg _ hrun)
    (fun _ hr => hr.resolve_left fun k => k rfl) fun _ _ hx => hx

omit h in
/-- UNPACK and PACK take a width of 1 to the bits of an element. -/
theorem badWidth_false (hw : 1 ≤ (gGet s c o.rb).toNat ∧ (gGet s c o.rb).toNat ≤ 8 * lvSize o) :
    badWidth (fetchTouch c s) c o = false := by
  unfold badWidth
  simp only [gGet_fetchTouch, Bool.or_eq_false_iff, decide_eq_false_iff_not]
  omega

theorem unpack_completes : LvRowCompletes s c o n index
    { i := .unpack c o, major := 0x3B, op := 0,
      ok := 1 ≤ (gGet s c o.rb).toNat ∧ (gGet s c o.rb).toNat ≤ 8 * 2 ^ o.esz.val, elem := lvUnpackElem c o } := by
  intro hw hops
  obtain ⟨ha, -, hd⟩ := hops.arrays (la := (n * (gGet s c o.rb).toNat + 7) / 8) (lb := 0) (ld := n * lvSize o) rfl
  have hg := lvUnpackElem_good (index := index) h.cleanFetched (by rw [gGet_fetchTouch]) hw.1 (fun k => ha (stream_ne_zero k hw.1))
    fun k => hd (elements_ne_zero o k)
  rw [gGet_fetchTouch] at hg
  exact (h.completes (badWidth_false hw) hg).reaches rfl (fun _ _ => trivial) fun _ _ hx => hx

theorem pack_completes : LvRowCompletes s c o n index
    { i := .pack c o, major := 0x3B, op := 1,
      ok := 1 ≤ (gGet s c o.rb).toNat ∧ (gGet s c o.rb).toNat ≤ 8 * 2 ^ o.esz.val, elem := lvPackElem c o } := by
  intro hw hops
  obtain ⟨ha, -, hd⟩ := hops.arrays (la := n * lvSize o) (lb := 0) (ld := (n * (gGet s c o.rb).toNat + 7) / 8) rfl
  have hg := lvPackElem_good (index := index) h.cleanFetched (by rw [gGet_fetchTouch]) hw.1 (fun k => ha (elements_ne_zero o k))
    fun k => hd (stream_ne_zero k hw.1)
  rw [gGet_fetchTouch] at hg
  exact (h.completes (badWidth_false hw) hg).reaches rfl (fun _ _ => trivial) fun _ _ hx => hx

theorem gather_completes : LvRowCompletes s c o n index
    { i := .gather c o, major := 0x3A, op := 0, ok := True,
      elem := lvGatherElem c o } := by
  intro _ hops
  obtain ⟨-, hb, hd⟩ := hops.arrays (la := 0) (lb := 4 * n) (ld := n * lvSize o) rfl
  obtain ⟨-, -, -, ht, hk⟩ := hops
  have hsep := hk rfl rfl
  have hb4 : 0 < n → InTile (fetchTouch c s) c false (gGet (fetchTouch c s) c o.rb).toNat (4 * n) := fun k => hb (by omega)
  have hd' : 0 < n → InTile (fetchTouch c s) c true (gGet (fetchTouch c s) c o.rd).toNat (n * lvSize o) :=
    fun k => hd (elements_ne_zero o k)
  have hg := lvGatherElem_good (index := index) h.cleanFetched h.wfFetched hb4 hd'
    (fun e hi he => by
      obtain ⟨halign, htile, -⟩ := ht rfl e hi he
      rw [lvTarget_fetchTouch]
      exact ⟨halign, inTile_fetchTouch htile⟩)
    (fun k y h1 h2 => by
      obtain ⟨hlo, -⟩ := inTile_range (hb4 k)
      obtain ⟨hlo', -⟩ := inTile_range (hd' k)
      rw [gGet_fetchTouch] at h1 h2 hlo hlo' ⊢
      unfold Outside lvSize
      unfold tileOff at h1 h2 ⊢
      omega)
  rw [gGet_fetchTouch] at hg
  exact (h.completes (bad := fun _ => false) rfl hg).reaches rfl (fun _ _ => trivial) fun _ _ hx => hx

theorem scatter_completes : LvRowCompletes s c o n index
    { i := .scatter c o, major := 0x3A, op := 1, ok := True,
      elem := lvScatterElem c o } := by
  intro _ hops
  obtain ⟨-, hb, hd⟩ := hops.arrays (la := 0) (lb := 4 * n) (ld := n * lvSize o) rfl
  obtain ⟨-, -, -, ht, -⟩ := hops
  have hg := lvScatterElem_good (index := index) h.cleanFetched h.wfFetched (fun k => hb (by omega))
    (fun k => hd (elements_ne_zero o k)) fun e hi he => by
      obtain ⟨halign, htile, hfree⟩ := ht rfl e hi he
      rw [lvTarget_fetchTouch, gGet_fetchTouch]
      exact ⟨halign, inTile_fetchTouch htile, hfree rfl⟩
  exact (h.completes (bad := fun _ => false) rfl hg).reaches rfl (fun _ _ => trivial) fun k => absurd rfl k

/-- The rows of each kind, whatever they say of an element. -/
theorem lvInt_completes {i : Instr} {op : Nat} {elem : ElemFn} {finish : Nat → State → State} (f : LaneFn)
    (he : exec i s = .next (runLvInt c o op f s)) : LvRowCompletes s c o n index ⟨i, 0x38, op, True, elem, finish⟩ :=
  lvArith_completes h he (fun _ _ => Nat.succ_pos 63) fun _ => rfl

theorem lvFp_completes {i : Instr} {op : Nat} {elem : ElemFn} {finish : Nat → State → State}
    (f : Round → FFmt → Nat → Nat → Nat × FFlags) (he : exec i s = .next (runLvFp c o op f s))
    (hf : ∀ m a b, (f (dynRound s c) m a b).2 < 64) :
    LvRowCompletes s c o n index ⟨i, 0x38, op, o.esz = 2 ∨ o.esz = 3, elem, finish⟩ :=
  lvArith_completes h he (lvFmt_flags hf) eszFmt_legal

theorem lvIntCmp_completes {i : Instr} {op : Nat} {elem : ElemFn} {finish : Nat → State → State} (f : Nat → Nat → Nat → Bool)
    (hop : op ≠ 8) (he : exec i s = .next (runLvCmp c o op f s)) :
    LvRowCompletes s c o n index ⟨i, 0x39, op, True, elem, finish⟩ :=
  lvCmp_completes h hop he (fun _ _ => Nat.succ_pos 63) fun _ => rfl

theorem lvFcmp_completes {i : Instr} {op : Nat} {elem : ElemFn} {finish : Nat → State → State} (rel : FRel) (sig : Bool)
    (hop : op ≠ 8) (he : exec i s = .next (runLvFcmp c o op rel sig s)) :
    LvRowCompletes s c o n index ⟨i, 0x39, op, o.esz = 2 ∨ o.esz = 3, elem, finish⟩ :=
  lvCmp_completes h hop he (lvFcmp_flags rel sig) eszFmt_legal

/-- Each of the 26 rows of Table 09-4. -/
theorem lvRows_complete : ∀ row, LvTable c o (dynRound s c) (gGet s c o.rb).toNat row → LvRowCompletes s c o n index row := by
  unfold LvTable
  simp only [List.forall_mem_cons]
  exact ⟨lvInt_completes h laneAdd rfl, lvInt_completes h laneSub rfl, lvInt_completes h laneMul rfl,
    lvInt_completes h (fun _ a b => a &&& b) rfl, lvInt_completes h (fun _ a b => a ||| b) rfl,
    lvInt_completes h (fun _ a b => a ^^^ b) rfl, lvInt_completes h laneMin rfl, lvInt_completes h laneMax rfl,
    lvInt_completes h laneMinu rfl, lvInt_completes h laneMaxu rfl,
    lvFp_completes h (fun r m a b => fadd m r a b) rfl fun m a b => fadd_flags m _ a b,
    lvFp_completes h (fun r m a b => fsub m r a b) rfl fun m a b => fsub_flags m _ a b,
    lvFp_completes h (fun r m a b => fmul m r a b) rfl fun m a b => fmul_flags m _ a b,
    lvFp_completes h (fun r m a b => fdiv m r a b) rfl fun m a b => fdiv_flags m _ a b,
    lvFp_completes h (fun _ m a b => fminmax m false a b) rfl fun m a b => fminmax_flags m a b false,
    lvFp_completes h (fun _ m a b => fminmax m true a b) rfl fun m a b => fminmax_flags m a b true,
    lvIntCmp_completes h (fun _ a b => a = b) (by decide) rfl,
    lvIntCmp_completes h (fun w a b => decide (toSigned w a < toSigned w b)) (by decide) rfl,
    lvIntCmp_completes h (fun _ a b => decide (a < b)) (by decide) rfl,
    lvFcmp_completes h .eq false (by decide) rfl, lvFcmp_completes h .lt true (by decide) rfl,
    compress_completes h, gather_completes h, scatter_completes h, unpack_completes h, pack_completes h, by simp⟩

end

end

/-- Settles O60: loads and stores by LoadsWriteTheirRegister and StoresWriteTheirBytes, with what an access to the tile window
answers, and the rows of Table 09-4 with each element performed. -/
theorem tileAccessesComplete : Obligations.TileAccessesComplete := by
  unfold Obligations.TileAccessesComplete
  intro s u c hbad hu
  subst hu
  refine ⟨fun rd ra imm a h ha => ?_, fun o row n index hsound hc hrow hok hn hmost hte hint hi hw hops => ?_⟩
  · have loads := fun n => loadsWriteTheirRegister s (fetchTouch c s) c rd ra imm a (memTake (core s c).tile (tileOff a) n) h ha
    have stores := fun n x => storesWriteTheirBytes s
      (coreMod c (fun k => { k with tile := memPut k.tile (tileOff a) (leBytes n x) }) (fetchTouch c s)) c rd ra imm a h ha
    have hlen := length_memTake (core s c).tile (tileOff a)
    have put := fun n x (hin : InTile s c true a n) => store_tile hbad (leBytes_length n x) hin
    obtain ⟨lb, -, -, lbu, -⟩ := loads 1
    obtain ⟨-, lh, -, -, lhu, -⟩ := loads 2
    obtain ⟨-, -, lw, -, -, lwu, -, -, -, flw⟩ := loads 4
    obtain ⟨-, -, -, -, -, -, ld, lda, fld, -⟩ := loads 8
    obtain ⟨sb, -⟩ := stores 1 (gGet s c rd).toNat
    obtain ⟨-, sh, -⟩ := stores 2 (gGet s c rd).toNat
    obtain ⟨-, -, sw, -⟩ := stores 4 (gGet s c rd).toNat
    obtain ⟨-, -, -, -, -, -, fsw⟩ := stores 4 (fGet s c rd).toNat
    obtain ⟨-, -, -, sd, stl, -⟩ := stores 8 (gGet s c rd).toNat
    obtain ⟨-, -, -, -, -, fsd, -⟩ := stores 8 (fGet s c rd).toNat
    have get := fun n (hin : InTile s c false a n) => load_tile hbad hin
    exact ⟨fun hin => ⟨lb (Nat.mod_one a) (get 1 hin) (hlen 1), lbu (Nat.mod_one a) (get 1 hin) (hlen 1)⟩,
      fun hin ha => ⟨lh ha (get 2 hin) (hlen 2), lhu ha (get 2 hin) (hlen 2)⟩,
      fun hin ha => ⟨lw ha (get 4 hin) (hlen 4), lwu ha (get 4 hin) (hlen 4), flw ha (get 4 hin) (hlen 4)⟩,
      fun hin ha => ⟨ld ha (get 8 hin) (hlen 8), lda ha (get 8 hin) (hlen 8), fld ha (get 8 hin) (hlen 8)⟩,
      fun hin => sb (Nat.mod_one a) (put 1 _ hin), fun hin ha => sh ha (put 2 _ hin),
      fun hin ha => ⟨sw ha (put 4 _ hin), fsw ha (put 4 _ hin)⟩,
      fun hin ha => ⟨sd ha (put 8 _ hin), stl ha (put 8 _ hin), fsd ha (put 8 _ hin)⟩⟩
  · exact lvRows_complete ⟨hc, tile_wf c hsound, hbad, hn, hmost, hte, hint, hi, hw⟩ row hrow hok hops

end Sys2Proof.Machine
end

section
/-! PROOFS. Short-vector instructions on lanes: integers and floating point (R199 to R204). -/

namespace Sys2Proof.Machine

/-! ### Views -/

theorem inView_iff {o : SvOp} {r : Reg} : InView o r ↔ noReg o.q r = false := by
  unfold InView noReg
  cases o.q <;> simp

theorem inView_of_val_lt {o : SvOp} {r : Reg} (h : r.val < 16) : InView o r := fun _ => h

section
variable (s : State) (c : CoreId)

theorem viewGet_of_own {s t : State} {c : CoreId} (h : Own c s t) (q : Bool) (r : Reg) : viewGet t c q r = viewGet s c q r := by
  unfold viewGet fGet
  rw [h]

@[simp] theorem viewGet_fetchTouch (q : Bool) (r : Reg) : viewGet (fetchTouch c s) c q r = viewGet s c q r :=
  viewGet_of_own (fetchTouch_own c s) q r

@[simp] theorem svLanes_fetchTouch (o : SvOp) (r : Reg) : svLanes (fetchTouch c s) c o r = svLanes s c o r := by
  unfold svLanes
  rw [viewGet_fetchTouch]

@[simp] theorem length_svLanes (o : SvOp) (r : Reg) : (svLanes s c o r).length = laneCount o.q o.esz := by
  simp only [svLanes, lanesOf, List.length_map, List.length_range]

end

/-! ### How a short-vector instruction ends -/

/-- Instruction i is a short-vector instruction with this body, legal where ok holds. -/
def SvForm (s : State) (c : CoreId) (o : SvOp) (i : Instr) (ok : Prop) (body : State → CoreEnd) : Prop :=
  ∃ major low bad, exec i s = .next (runSv c major o low bad body s) ∧ (bad = false ↔ ok)

section
variable {s t : State} {c : CoreId} {o : SvOp} {major low : Nat} {bad : Bool} {body : State → CoreEnd}

theorem runSv_completes (h : CoreClear s c) (hbad : bad = false) (hb : body (fetchTouch c s) = .retire t) :
    runSv c major o low bad body s = ran c s t :=
  runCore_clear_retires h (by rw [hbad, if_neg Bool.false_ne_true, hb])

theorem runSv_illegal (h : CoreClear s c) (hbad : bad = true) :
    runSv c major o low bad body s = tookTrap c s { vec := 4, val := (svWord major o low).setWidth 64 } :=
  runCore_clear_traps h (by rw [hbad, if_pos rfl, illegal])

variable {i : Instr} {ok : Prop} (f : SvForm s c o i ok body) (h : CoreClear s c)
include f h

theorem SvForm.completes (hok : ok) (hb : body (fetchTouch c s) = .retire t) : exec i s = .next (ran c s t) := by
  obtain ⟨major, low, bad, hexec, hbad⟩ := f
  rw [hexec, runSv_completes h (hbad.mpr hok) hb]

theorem SvForm.illegal (hok : ¬ ok) : ∃ w : BitVec 32, exec i s = .next (tookTrap c s { vec := 4, val := w.setWidth 64 }) := by
  obtain ⟨major, low, bad, hexec, hbad⟩ := f
  exact ⟨svWord major o low, by rw [hexec, runSv_illegal h (eq_true_of_ne_false (mt hbad.mp hok))]⟩

end

/-! ### Integer lanes (R202, R203) -/

theorem laneMask_decide (w : Nat) (p : Prop) [Decidable p] : laneMask w (decide p) = if p then 2 ^ w - 1 else 0 := by
  unfold laneMask
  simp only [decide_eq_true_eq]

/-- Each row of SVINT runs its function on the lanes. -/
theorem svIntTable_runs (s : State) (c : CoreId) (o : SvOp) :
    ∀ p ∈ svIntTable c o, ∃ op, exec p.1 s = .next (runSvInt c o op p.2 s) := by
  have compare : ∀ (i : Instr) (op : Nat) (rel : Nat → Nat → Nat → Prop) [∀ w a b, Decidable (rel w a b)],
      exec i s = .next (runSvInt c o op (fun w a b => laneMask w (decide (rel w a b))) s) →
      ∃ op, exec i s = .next (runSvInt c o op (fun w a b => if rel w a b then 2 ^ w - 1 else 0) s) := by
    intro i op rel _ hexec
    exact ⟨op, by simpa only [laneMask_decide] using hexec⟩
  unfold svIntTable
  simp only [List.forall_mem_cons]
  exact ⟨⟨_, rfl⟩, ⟨_, rfl⟩, ⟨_, rfl⟩, ⟨_, rfl⟩, ⟨_, rfl⟩, ⟨_, rfl⟩, ⟨_, rfl⟩, ⟨_, rfl⟩, ⟨_, rfl⟩, ⟨_, rfl⟩, ⟨_, rfl⟩, ⟨_, rfl⟩,
    ⟨_, rfl⟩, ⟨_, rfl⟩, compare _ _ (fun _ a b => a = b) rfl, compare _ _ (fun w a b => toSigned w b < toSigned w a) rfl,
    compare _ _ (fun _ a b => b < a) rfl, ⟨_, rfl⟩, ⟨_, rfl⟩, ⟨_, rfl⟩, List.forall_mem_nil _⟩

/-- The three register fields of an instruction that names three registers of the view. -/
theorem noReg_three {o : SvOp} : (noReg o.q o.vd || noReg o.q o.va || noReg o.q o.vb) = false ↔
    InView o o.vd ∧ InView o o.va ∧ InView o o.vb := by
  simp only [Bool.or_eq_false_iff, inView_iff, and_assoc]

theorem svInt_form (s : State) (c : CoreId) (o : SvOp) {p : Instr × LaneFn} (hp : p ∈ svIntTable c o) :
    SvForm s c o p.1 (InView o o.vd ∧ InView o o.va ∧ InView o o.vb) fun s =>
      .retire (svWrite c o (List.zipWith (p.2 (8 * 2 ^ o.esz.val)) (svLanes s c o o.va) (svLanes s c o o.vb)) s) := by
  obtain ⟨op, hexec⟩ := svIntTable_runs s c o p hp
  exact ⟨_, _, _, hexec, noReg_three⟩

section
variable {s : State} {c : CoreId} {o : SvOp} {n : Fin 64} (h : CoreClear s c) (op : Nat) (f : Nat → Nat → Nat)
include h

/-- A shift whose fields are legal shifts every lane. -/
theorem runSvShift_completes (hd : InView o o.vd) (ha : InView o o.va) (hb : o.vb = 0) (hn : n.val < 8 * 2 ^ o.esz.val) :
    runSvShift c o n op f s =
      ran c s (svWrite c o ((svLanes s c o o.va).map (f (8 * 2 ^ o.esz.val))) (fetchTouch c s)) := by
  refine runSv_completes h ?_ (by rw [svLanes_fetchTouch]; rfl)
  rw [inView_iff.mp hd, inView_iff.mp ha, hb, eszBits, decide_eq_false (Nat.not_le.mpr hn)]
  rfl

theorem runSvShift_illegal (hbad : ¬ InView o o.vd ∨ ¬ InView o o.va ∨ o.vb ≠ 0 ∨ 8 * 2 ^ o.esz.val ≤ n.val) :
    runSvShift c o n op f s =
      tookTrap c s { vec := 4, val := (svWord 0x31 o (n.val * 4 + op)).setWidth 64 } := by
  refine runSv_illegal h ?_
  simp only [inView_iff, Bool.not_eq_false] at hbad
  simp only [Bool.or_eq_true, decide_eq_true_eq, or_assoc]
  exact hbad

end

/-- Settles O29: each row runs its function on the lanes, and the shifts are runSvShift of theirs. -/
theorem vectorIntegers : Obligations.VectorIntegers := by
  unfold Obligations.VectorIntegers
  intro s u c o n h hu
  subst hu
  refine ⟨fun hd ha hb p hp => ?_, fun hd ha hb hn => ?_, fun hbad p hp => ?_, fun hbad => ?_⟩
  · exact (svInt_form s c o hp).completes h ⟨hd, ha, hb⟩ (by rw [svLanes_fetchTouch, svLanes_fetchTouch])
  · have shift := fun op f => congrArg (Host.Outcome.next (φ := Fault) (ρ := Refusal))
      (runSvShift_completes h op f hd ha hb hn)
    exact ⟨shift 0 fun w a => a * 2 ^ n.val % 2 ^ w, shift 1 fun _ a => a / 2 ^ n.val,
      shift 2 fun w a => ofSigned w (toSigned w a / 2 ^ n.val)⟩
  · exact (svInt_form s c o hp).illegal h fun ⟨hd, ha, hb⟩ => by simp only [hd, ha, hb, not_true, or_self] at hbad
  · have shift := fun op f => congrArg (Host.Outcome.next (φ := Fault) (ρ := Refusal))
      (runSvShift_illegal h op f hbad)
    exact ⟨shift 0 _, shift 1 _, shift 2 _⟩

/-! ### Floating-point lanes (R204) -/

/-- Each row of SVFP runs its function on the lanes. -/
theorem svFpTable_runs (s : State) (c : CoreId) (o : SvOp) :
    ∀ p ∈ svFpTable c o, ∃ op, exec p.1 s = .next (runSvFp c o op p.2.1 p.2.2 s) := by
  unfold svFpTable
  simp only [List.forall_mem_cons]
  exact ⟨⟨_, rfl⟩, ⟨_, rfl⟩, ⟨_, rfl⟩, ⟨_, rfl⟩, ⟨_, rfl⟩, ⟨_, rfl⟩, ⟨_, rfl⟩, ⟨_, rfl⟩, ⟨_, rfl⟩, ⟨_, rfl⟩, ⟨_, rfl⟩, ⟨_, rfl⟩,
    ⟨_, rfl⟩, List.forall_mem_nil _⟩

theorem eszFmt_of_format {m : FFmt} {e : Fin 4} (h : (m = .b32 ∧ e = 2) ∨ (m = .b64 ∧ e = 3)) : eszFmt e = some m := by
  rcases h with ⟨rfl, rfl⟩ | ⟨rfl, rfl⟩ <;> rfl

theorem eszFmt_isNone {e : Fin 4} : (eszFmt e).isNone = true ↔ e = 0 ∨ e = 1 := by
  revert e
  decide

section
variable {s : State} {c : CoreId} {o : SvOp} (h : CoreClear s c) (op : Nat) {unary : Bool}
  {f : FFmt → Round → Nat → Nat → Nat → Nat × FFlags}
include h

/-- An SVFP instruction whose flags trap nowhere writes its lanes and their flags. -/
theorem runSvFp_completes {m : FFmt} (hm : eszFmt o.esz = some m) (hd : InView o o.vd) (ha : InView o o.va)
    (hb : InView o o.vb) (hu : unary = true → o.vb = 0) {rs : List (Nat × FFlags)}
    (hrs : rs = List.zipWith (fun (ab : Nat × Nat) d => f m (dynRound s c) ab.1 ab.2 d)
      ((svLanes s c o o.va).zip (svLanes s c o o.vb)) (svLanes s c o o.vd))
    (hf : NoTrap s c (rs.foldl (fun fl r => fl ||| r.2) 0)) :
    runSvFp c o op unary f s =
      ran c s (flagged c (rs.foldl (fun fl r => fl ||| r.2) 0) (svWrite c o (rs.map (·.1)) (fetchTouch c s))) := by
  obtain ⟨-, -, -, -, -, hround⟩ := core_ft (s := s) (c := c)
  subst hrs
  refine runSv_completes h ?_ ?_
  · rw [noReg_three.mpr ⟨hd, ha, hb⟩, hm]
    simpa using hu
  · rw [hm]
    dsimp only
    rw [hround, svLanes_fetchTouch, svLanes_fetchTouch, svLanes_fetchTouch, arith_done c s _ _ (.inr hf)]

theorem runSvFp_illegal (hbad : ¬ InView o o.vd ∨ ¬ InView o o.va ∨ ¬ InView o o.vb ∨ o.esz = 0 ∨ o.esz = 1 ∨
    (unary = true ∧ o.vb ≠ 0)) :
    runSvFp c o op unary f s = tookTrap c s { vec := 4, val := (svWord 0x32 o op).setWidth 64 } := by
  refine runSv_illegal h ?_
  simpa only [inView_iff, Bool.not_eq_false, Bool.or_eq_true, Bool.and_eq_true, decide_eq_true_eq, eszFmt_isNone, or_assoc] using hbad

end

/-- Settles O30: each row runs its function on the lanes with the flags of all lanes together. -/
theorem vectorFloats : Obligations.VectorFloats := by
  unfold Obligations.VectorFloats
  intro s u c o h hu
  subst hu
  refine ⟨fun m hm hd ha hb p hp hun rs hrs hf => ?_, fun p hp hbad => ?_⟩
  · obtain ⟨op, hexec⟩ := svFpTable_runs s c o p hp
    rw [hexec, runSvFp_completes h op (eszFmt_of_format hm) hd ha hb hun hrs hf]
  · obtain ⟨op, hexec⟩ := svFpTable_runs s c o p hp
    exact ⟨svWord 0x32 o op, by rw [hexec, runSvFp_illegal h op hbad]⟩

end Sys2Proof.Machine
end

section
/-! PROOFS. Permutes, lane moves and reductions (R207, Table 09-2). -/

namespace Sys2Proof.Machine

/-! ### Lists of lanes -/

theorem interleave_eq_map {a b : List Nat} (h : a.length = b.length) : interleave a b =
    (List.range (2 * a.length)).map fun j => if j % 2 = 0 then a.getD (j / 2) 0 else b.getD (j / 2) 0 := by
  induction a generalizing b with
  | nil => rfl
  | cons x a ih =>
    cases b with
    | nil => cases h
    | cons y b =>
      have hlen : 2 * (x :: a).length = 2 * a.length + 1 + 1 := rfl
      rw [interleave, ih (Nat.succ.inj h), hlen, List.range_succ_eq_map, List.range_succ_eq_map]
      simp only [List.map_cons, List.map_map]
      refine congrArg (x :: y :: ·) (List.map_congr_left fun j _ => ?_)
      have hdiv : (j + 1 + 1) / 2 = j / 2 + 1 := Nat.add_div_right j (Nat.succ_pos 1)
      simp only [Function.comp_apply, Nat.succ_eq_add_one, hdiv, List.getD_cons_succ, Nat.add_mod_right, Nat.add_assoc]

/-- The lanes of MIXLO. -/
theorem interleave_take {a b : List Nat} {m : Nat} (ha : a.length = 2 * m) (hb : b.length = 2 * m) :
    interleave (a.take m) (b.take m) =
      (List.range (2 * m)).map fun j => if j % 2 = 0 then a.getD (j / 2) 0 else b.getD (j / 2) 0 := by
  have hlen : ∀ {l : List Nat}, l.length = 2 * m → (l.take m).length = m := fun h => by rw [List.length_take, h]; omega
  rw [interleave_eq_map ((hlen ha).trans (hlen hb).symm), hlen ha]
  refine List.map_congr_left fun j hj => ?_
  have hlt : j / 2 < m := by have := List.mem_range.mp hj; omega
  simp only [List.getD_eq_getElem?_getD, List.getElem?_take_of_lt hlt]

/-- The lanes of MIXHI. -/
theorem interleave_drop {a b : List Nat} {m : Nat} (ha : a.length = 2 * m) (hb : b.length = 2 * m) :
    interleave (a.drop m) (b.drop m) =
      (List.range (2 * m)).map fun j => if j % 2 = 0 then a.getD (m + j / 2) 0 else b.getD (m + j / 2) 0 := by
  have hlen : ∀ {l : List Nat}, l.length = 2 * m → (l.drop m).length = m := fun h => by rw [List.length_drop, h]; omega
  rw [interleave_eq_map ((hlen ha).trans (hlen hb).symm), hlen ha]
  simp only [List.getD_eq_getElem?_getD, List.getElem?_drop]

/-- A view of more than one lane has an even number of them. -/
theorem laneCount_even (q : Bool) (e : Fin 4) (h : laneCount q e ≠ 1) : laneCount q e = 2 * (laneCount q e / 2) := by
  revert q e
  decide

theorem laneCount_le (q : Bool) (e : Fin 4) : laneCount q e ≤ 16 := by
  revert q e
  decide

theorem popCount_eq_length (w x : Nat) : popCount w x = ((List.range w).filter fun i => x.testBit i).length := by
  have hcount : ∀ (l : List Nat) (n : Nat),
      l.foldl (fun n i => if x.testBit i then n + 1 else n) n = n + (l.filter fun i => x.testBit i).length := by
    intro l
    induction l with
    | nil => exact fun _ => rfl
    | cons i l ih =>
      intro n
      rw [List.foldl_cons, ih, List.filter_cons]
      split
      · rw [List.length_cons, Nat.add_right_comm, Nat.add_assoc]
      · rfl
  rw [popCount, hcount, Nat.zero_add]

/-! ### Permutes and moves that write vd -/

/-- A lane index names a register of either view. -/
theorem inView_of_lane {o : SvOp} {r : Reg} {e : Fin 4} (h : r.val < laneCount o.q e) : InView o r :=
  inView_of_val_lt (h.trans_le (laneCount_le o.q e))

section
variable (s : State) (c : CoreId) (o : SvOp) (param : Fin 16)

/-- Where its fields are legal, the instruction of a row writes the row's lanes; MIXLO and MIXHI do in a view of more than one
lane. -/
def SvMoveRuns (row : Instr × Prop × (List Nat → List Nat → List Nat → Nat → List Nat)) : Prop :=
  ∃ body, SvForm s c o row.1 (InView o o.vd ∧ row.2.1) body ∧
    ((laneCount o.q o.esz = 1 → row.1 ≠ .mixlo c o param ∧ row.1 ≠ .mixhi c o param) →
      body (fetchTouch c s) = .retire (svWrite c o
        (row.2.2 (svLanes s c o o.va) (svLanes s c o o.vb) (svLanes s c o o.vd) (gGet s c o.va).toNat) (fetchTouch c s)))

variable {s c o param} {i : Instr} {ok : Prop} {lanes : List Nat → List Nat → List Nat → Nat → List Nat}

theorem perm_moves {op : Nat} {bad : Bool} {f : List Nat → List Nat → List Nat}
    (hexec : exec i s = .next (runPerm c o param op bad f s))
    (hok : InView o o.vd ∧ ok ↔ (InView o o.vd ∧ InView o o.va ∧ InView o o.vb) ∧ bad = false)
    (hf : ∀ a b d x, a.length = laneCount o.q o.esz → f a b = lanes a b d x) : SvMoveRuns s c o param (i, ok, lanes) := by
  refine ⟨_, ⟨_, _, _, hexec, ?_⟩, fun _ => ?_⟩
  · rw [Bool.or_eq_false_iff, noReg_three]
    exact hok.symm
  · simp only [svLanes_fetchTouch]
    rw [hf _ _ _ _ (length_svLanes s c o o.va)]

theorem mix_moves {op : Nat} {half : List Nat → List Nat} (hexec : exec i s = .next (runMix c o param op half s))
    (hmix : i = .mixlo c o param ∨ i = .mixhi c o param)
    (hl : ∀ a b d x m, laneCount o.q o.esz = 2 * m → a.length = 2 * m → b.length = 2 * m →
      interleave (half a) (half b) = lanes a b d x) :
    SvMoveRuns s c o param (i, InView o o.va ∧ InView o o.vb, lanes) := by
  refine ⟨_, ⟨_, _, _, hexec, noReg_three⟩, fun hone => ?_⟩
  have hne : laneCount o.q o.esz ≠ 1 := fun h => hmix.elim (hone h).1 (hone h).2
  have hm := laneCount_even o.q o.esz hne
  dsimp only
  rw [if_neg hne, svLanes_fetchTouch, svLanes_fetchTouch,
    hl _ _ _ _ _ hm ((length_svLanes ..).trans hm) ((length_svLanes ..).trans hm)]

theorem putl_moves : SvMoveRuns s c o param (.putl c o, o.vb.val < laneCount o.q o.esz,
    fun _ _ d x => d.set o.vb.val (x % 2 ^ (8 * 2 ^ o.esz.val))) := by
  refine ⟨_, ⟨_, _, _, rfl, ?_⟩, fun _ => ?_⟩
  · rw [Bool.or_eq_false_iff, inView_iff, decide_eq_false_iff_not, Nat.not_le]
  · rw [svLanes_fetchTouch, gGet_fetchTouch]
    rfl

theorem fill_moves : SvMoveRuns s c o param (.fill c o, InView o o.vb,
    fun _ _ _ x => List.replicate (laneCount o.q o.esz) (x % 2 ^ (8 * 2 ^ o.esz.val))) := by
  refine ⟨_, ⟨_, _, _, rfl, ?_⟩, fun _ => ?_⟩
  · rw [Bool.or_eq_false_iff, inView_iff, inView_iff]
  · rw [gGet_fetchTouch]
    rfl

theorem popc_moves : SvMoveRuns s c o param (.popc c o, InView o o.va ∧ InView o o.vb,
    fun a _ _ _ => a.map fun x => ((List.range (8 * 2 ^ o.esz.val)).filter fun i => x.testBit i).length) := by
  refine ⟨_, ⟨_, _, _, rfl, noReg_three⟩, fun _ => ?_⟩
  rw [svLanes_fetchTouch, funext fun x => popCount_eq_length (eszBits o.esz) x]
  rfl

/-- Each row of the permutes and moves that write vd. -/
theorem svMoveTable_runs :
    ∀ row ∈ svMoveTable c o param (laneCount o.q o.esz) (8 * 2 ^ o.esz.val), SvMoveRuns s c o param row := by
  have hboth : InView o o.vd ∧ InView o o.va ∧ InView o o.vb ↔ (InView o o.vd ∧ InView o o.va ∧ InView o o.vb) ∧ false = false :=
    ⟨fun h => ⟨h, rfl⟩, And.left⟩
  unfold svMoveTable
  simp only [List.forall_mem_cons]
  refine ⟨mix_moves rfl (.inl rfl) fun a b _ _ m hn ha hb => ?_, mix_moves rfl (.inr rfl) fun a b _ _ m hn ha hb => ?_,
    perm_moves rfl hboth fun a b _ _ ha => ?_, perm_moves rfl hboth fun a b _ _ ha => ?_,
    perm_moves rfl ?_ fun a b _ _ ha => ?_, perm_moves rfl ?_ fun _ _ _ _ _ => rfl,
    putl_moves, fill_moves, popc_moves, List.forall_mem_nil _⟩
  case refine_1 =>
    rw [ha, hn, Nat.mul_div_cancel_left m (Nat.succ_pos 1), hb, Nat.mul_div_cancel_left m (Nat.succ_pos 1)]
    exact interleave_take ha hb
  case refine_2 =>
    rw [ha, hn, Nat.mul_div_cancel_left m (Nat.succ_pos 1), hb, Nat.mul_div_cancel_left m (Nat.succ_pos 1)]
    exact interleave_drop ha hb
  case refine_3 => rw [ha]; rfl
  case refine_4 => rw [ha]; rfl
  case refine_5 => simp only [decide_eq_false_iff_not, Nat.not_le, and_assoc]
  case refine_6 => rw [ha]
  case refine_7 =>
    have hzero : o.vb = 0 → InView o o.vb := fun h => inView_of_val_lt (by rw [h]; decide)
    simp only [Bool.or_eq_false_iff, decide_eq_false_iff_not, ne_eq, not_not]
    exact ⟨fun ⟨hd, ha, hp, hb⟩ => ⟨⟨hd, ha, hzero hb⟩, hp, hb⟩, fun ⟨⟨hd, ha, _⟩, hp, hb⟩ => ⟨hd, ha, hp, hb⟩⟩

/-! ### Moves and reductions that write g(vd) -/

/-- Where its fields are legal, the instruction of a row writes the integer of the row's function. -/
def SvToGRuns (s : State) (c : CoreId) (o : SvOp) (row : Instr × Prop × (List Nat → Int)) : Prop :=
  SvForm s c o row.1 (InView o o.va ∧ row.2.1) fun s =>
    .retire (gSet c o.vd (BitVec.ofInt 64 (row.2.2 (svLanes s c o o.va))) s)

theorem runToG_runs {major op : Nat} {bad : Bool} {f : Nat → List Nat → Int} {g : List Nat → Int}
    (hexec : exec i s = .next (runToG c major op o bad f s))
    (hok : (InView o o.va ∧ InView o o.vb) ∧ bad = false ↔ InView o o.va ∧ ok) (hg : f (8 * 2 ^ o.esz.val) = g) :
    SvToGRuns s c o (i, ok, g) := by
  subst hg
  refine ⟨_, _, _, hexec, ?_⟩
  rw [Bool.or_eq_false_iff, Bool.or_eq_false_iff, ← inView_iff, ← inView_iff]
  exact hok

/-- Each row of the moves and reductions that write g(vd). -/
theorem svToGTable_runs (s : State) (c : CoreId) (o : SvOp) :
    ∀ row ∈ svToGTable c o (laneCount o.q o.esz) (8 * 2 ^ o.esz.val), SvToGRuns s c o row := by
  have hlane : (InView o o.va ∧ InView o o.vb) ∧ decide (laneCount o.q o.esz ≤ o.vb.val) = false ↔
      InView o o.va ∧ o.vb.val < laneCount o.q o.esz := by
    rw [decide_eq_false_iff_not, Nat.not_le]
    exact ⟨fun ⟨⟨ha, _⟩, hb⟩ => ⟨ha, hb⟩, fun ⟨ha, hb⟩ => ⟨⟨ha, inView_of_lane hb⟩, hb⟩⟩
  have hbyte : (InView o o.va ∧ InView o o.vb) ∧ decide (o.esz ≠ 0) = false ↔ InView o o.va ∧ InView o o.vb ∧ o.esz = 0 := by
    rw [decide_eq_false_iff_not, not_not, and_assoc]
  have hboth : (InView o o.va ∧ InView o o.vb) ∧ false = false ↔ InView o o.va ∧ InView o o.vb := ⟨And.left, fun h => ⟨h, rfl⟩⟩
  unfold svToGTable
  simp only [List.forall_mem_cons]
  exact ⟨runToG_runs rfl hlane rfl, runToG_runs rfl hlane rfl, runToG_runs rfl hbyte rfl,
    runToG_runs rfl hboth (funext fun _ => List.sum_eq_foldl.symm),
    runToG_runs rfl hboth (funext fun _ => congrArg Nat.cast List.sum_eq_foldl.symm),
    runToG_runs rfl hboth rfl, runToG_runs rfl hboth rfl, runToG_runs rfl hboth rfl, runToG_runs rfl hboth rfl,
    List.forall_mem_nil _⟩

/-! ### SLIDE, PICK and PICKK -/

theorem slide_form : SvForm s c o (.slide c o param)
    ((InView o o.vd ∧ InView o o.va ∧ InView o o.vb) ∧ param.val < if o.q then 16 else 8) fun s =>
      .retire (viewSet c o.q o.vd ((viewGet s c o.q o.va + viewGet s c o.q o.vb * 2 ^ viewBits o.q) / 2 ^ (8 * param.val) %
        2 ^ viewBits o.q) s) := by
  have hbytes : viewBits o.q / 8 = if o.q then 16 else 8 := by cases o.q <;> rfl
  refine ⟨_, _, _, rfl, ?_⟩
  rw [Bool.or_eq_false_iff, noReg_three, decide_eq_false_iff_not, Nat.not_le, hbytes]

theorem pickTable_fetchTouch (s : State) (c : CoreId) (o : SvOp) (n : Nat) :
    pickTable (fetchTouch c s) c o n = pickTable s c o n := by
  unfold pickTable
  simp only [viewGet_fetchTouch]

/-- MIXLO and MIXHI of a view of one lane write a free value. -/
theorem runMix_one_lane (h : CoreClear s c) (hone : laneCount o.q o.esz = 1) (hr : InView o o.vd ∧ InView o o.va ∧ InView o o.vb)
    (op : Nat) (half : List Nat → List Nat) : runMix c o param op half s =
      ran c s (svWrite c o [(takeFree (fetchTouch c s)).1] (takeFree (fetchTouch c s)).2) :=
  runSv_completes h (noReg_three.mpr hr) (if_pos hone)

/-- PICK and PICKK, where their fields are legal. -/
theorem runPick_completes (h : CoreClear s c) (hd : InView o o.vd) (ha : InView o o.va) (hb : InView o o.vb) (he : o.esz = 0)
    (hp : param.val < 4) (ht : o.va.val + param.val < if o.q then 16 else 32) (op : Nat) (keep : Bool) {table : List Nat}
    (htable : table = pickTable s c o (param.val + 1)) :
    runPick c o param op keep s = ran c s (svWrite c o (List.zipWith (fun x d =>
      if x < 128 then table.getD (x % table.length) 0 else if keep then d else 0)
      (svLanes s c o o.vb) (svLanes s c o o.vd)) (fetchTouch c s)) := by
  subst htable
  have hn : param.val % 4 = param.val := Nat.mod_eq_of_lt hp
  refine runSv_completes h ?_ ?_
  · have htop : ¬ (if o.q then 16 else 32) < o.va.val + (param.val % 4 + 1) := by omega
    rw [noReg_three.mpr ⟨hd, ha, hb⟩, decide_eq_false (Nat.not_le.mpr hp), decide_eq_false (not_not_intro he), decide_eq_false htop]
    rfl
  · dsimp only
    rw [hn, pickTable_fetchTouch, viewGet_fetchTouch, viewGet_fetchTouch]
    unfold svWrite svLanes
    rw [he]
    rfl

end

/-- Settles O31, by the rows of each table, SLIDE, PICK and PICKK; MIXLO and MIXHI of one lane draw a free value. -/
theorem vectorMoves : Obligations.VectorMoves := by
  unfold Obligations.VectorMoves
  intro s u c o param h hu
  subst hu
  refine ⟨fun hd row hrow hok hone => ?_, fun ha row hrow hok => ?_, fun hone hd ha hb v hv => ?_,
    fun hd ha hb => ⟨fun hp => ?_, fun he hp ht table htable => ?_⟩, fun row hrow hbad => ?_, fun row hrow hbad => ?_, fun hbad => ?_⟩
  · obtain ⟨body, hform, hbody⟩ := svMoveTable_runs row hrow
    exact hform.completes h ⟨hd, hok⟩ (hbody hone)
  · exact (svToGTable_runs s c o row hrow).completes h ⟨ha, hok⟩ (by rw [svLanes_fetchTouch])
  · subst hv
    have mix := fun op half => congrArg (Host.Outcome.next (φ := Fault) (ρ := Refusal))
      (runMix_one_lane (param := param) h hone ⟨hd, ha, hb⟩ op half)
    exact ⟨mix 2 _, mix 3 _⟩
  · exact slide_form.completes h ⟨⟨hd, ha, hb⟩, hp⟩ (by rw [viewGet_fetchTouch, viewGet_fetchTouch])
  · have pick := fun op keep => congrArg (Host.Outcome.next (φ := Fault) (ρ := Refusal))
      (runPick_completes h hd ha hb he hp ht op keep htable)
    exact ⟨pick 0 false, pick 1 true⟩
  · obtain ⟨body, hform, -⟩ := svMoveTable_runs row hrow
    exact hform.illegal h fun ⟨hd, hok⟩ => hbad.elim (· hd) (· hok)
  · exact (svToGTable_runs s c o row hrow).illegal h fun ⟨ha, hok⟩ => hbad.elim (· ha) (· hok)
  · refine slide_form.illegal h fun ⟨⟨hd, ha, hb⟩, hp⟩ => ?_
    simp only [hd, ha, hb, not_true, false_or] at hbad
    exact Nat.not_le.mpr hp hbad

end Sys2Proof.Machine
end

section
/-! PROOFS. Structure loads and stores of short vectors (R205, R206). -/

namespace Sys2Proof.Machine

/-! ### The checks of a store leave the registers of its core (Table 10-2) -/

section
variable {c : CoreId} {r s : State}

theorem parityNeeds_own {need : Nat → Nat} {pa n : Nat} (h : Own c r s) : Own c r (parityNeeds c need pa n s).1 := by
  have htag := tagCheck_own (lines := lines128 pa n) h
  unfold parityNeeds
  split
  case h_1 heq => rwa [heq] at htag
  case h_2 heq =>
    rw [heq] at htag
    have hparity := parityAt_own (k := clusterOf c) (pa := pa) (n := n) htag
    split
    case h_1 heq => rwa [heq] at hparity
    case h_2 heq =>
      rw [heq] at hparity
      exact snoopLost_own hparity

theorem storeParity_own (pieces : List (Nat × Nat)) (h : Own c r s) : Own c r (storeParity c pieces s).1 := by
  induction pieces generalizing s with
  | nil => exact h
  | cons p pieces ih =>
    unfold storeParity
    split
    · rename_i pa st _
      have hcheck : Own c r (storeCheck c pa p.2 s).1 := parityNeeds_own h
      split
      · exact ih h
      · split
        case h_1 heq => rwa [heq] at hcheck
        case h_2 heq =>
          rw [heq] at hcheck
          exact ih hcheck
    · exact ih h

end

theorem svstBytes_of_own {c : CoreId} {s t : State} (h : Own c s t) (rd : Reg) (k esz : Fin 4) (q : Bool) :
    svstBytes t c rd k esz q = svstBytes s c rd k esz q := by
  unfold svstBytes
  simp only [viewGet_of_own h]

theorem svMemAddr_fetchTouch (s : State) (c : CoreId) (ra : Reg) (disp : BitVec 10) :
    svMemAddr (fetchTouch c s) c ra disp = svMemAddr s c ra disp := by
  unfold svMemAddr
  rw [gGet_fetchTouch]

/-! ### SVLD and SVST -/

/-- The body of instruction i comes to e. -/
def BodyEnds (s : State) (c : CoreId) (i : Instr) (e : CoreEnd) : Prop :=
  ∃ body, exec i s = .next (runCore c false body s) ∧ body (fetchTouch c s) = e

theorem BodyEnds.retires {s t : State} {c : CoreId} {i : Instr} {e : CoreEnd} (f : BodyEnds s c i e) (h : CoreClear s c)
    (he : e = .retire t) : exec i s = .next (ran c s t) := by
  obtain ⟨body, hexec, hbody⟩ := f
  rw [hexec, runCore_clear_retires h (hbody.trans he)]

theorem BodyEnds.traps {s t : State} {c : CoreId} {i : Instr} {e : CoreEnd} {x : Trap} (f : BodyEnds s c i e) (h : CoreClear s c)
    (he : e = .trap x t) : exec i s = .next (instrTrap c (core s c).pc x t) := by
  obtain ⟨body, hexec, hbody⟩ := f
  rw [hexec, clear_body h, hbody, he]

/-- An SVLD whose registers and address are legal: its pieces are loaded, and then its registers are written (R206). -/
def svldAccess (c : CoreId) (rd : Reg) (k esz : Fin 4) (q : Bool) (pieces : List (Nat × Nat)) (s : State) : CoreEnd :=
  match loadPieces c pieces s with
  | (_, some x, s) => .trap x s
  | (bs, none, s) => .retire ((List.range (k.val + 1)).foldl (fun s f =>
      viewSet c q (svReg rd f) (ofLanes (8 * 2 ^ esz.val) ((List.range (laneCount q esz)).map fun j =>
        fld bs ((j * (k.val + 1) + f) * 2 ^ esz.val) (2 ^ esz.val))) s) s)

/-- The bytes of a store are stored, or a piece of it meets a lost sector. -/
def storeEnd : Except (Trap × State) State → CoreEnd
  | .error (x, s) => .trap x s
  | .ok s => .retire s

/-- An SVST whose registers and address are legal: places, then the L2 checks, then the bytes (R206, Table 10-2). -/
def svstAccess (c : CoreId) (rd : Reg) (k esz : Fin 4) (q : Bool) (a : Nat) (pieces : List (Nat × Nat)) (s : State) : CoreEnd :=
  match storeTrap s c pieces with
  | some x => .trap x s
  | none =>
    match storeParity c pieces s with
    | (s, some x) => .trap x s
    | (s, none) => storeEnd (storePieces c (svstBytes s c rd k esz q) a pieces s)

section
variable (s : State) (c : CoreId) {rd : Reg} (ra : Reg) (disp : BitVec 10) {k esz : Fin 4} {q : Bool}

/-- A register beyond the view (R205). -/
theorem svMem_illegal (hr : (if q then 16 else 32) ≤ rd.val + k.val) :
    BodyEnds s c (.svld c rd ra disp k esz q) (illegal (svMemWord 0x34 rd ra disp k esz q) (fetchTouch c s)) ∧
    BodyEnds s c (.svst c rd ra disp k esz q) (illegal (svMemWord 0x35 rd ra disp k esz q) (fetchTouch c s)) := by
  have hregs : svRegsOk rd k q = false := decide_eq_false (Nat.not_lt.mpr hr)
  exact ⟨⟨_, rfl, by dsimp only; rw [hregs]; rfl⟩, ⟨_, rfl, by dsimp only; rw [hregs]; rfl⟩⟩

variable (hr : rd.val + k.val < if q then 16 else 32)
include hr

theorem svMem_misaligned (ha : svMemAddr s c ra disp % 2 ^ esz.val ≠ 0) :
    BodyEnds s c (.svld c rd ra disp k esz q)
      (.trap { vec := 7, val := BitVec.ofNat 64 (svMemAddr s c ra disp) } (fetchTouch c s)) ∧
    BodyEnds s c (.svst c rd ra disp k esz q)
      (.trap { vec := 7, val := BitVec.ofNat 64 (svMemAddr s c ra disp) } (fetchTouch c s)) := by
  have hregs : (!svRegsOk rd k q) = false := congrArg not (decide_eq_true hr)
  constructor
  all_goals
    refine ⟨_, rfl, ?_⟩
    dsimp only
    rw [hregs, svMemAddr_fetchTouch, if_neg Bool.false_ne_true, if_pos ha]

theorem svMem_accesses (ha : svMemAddr s c ra disp % 2 ^ esz.val = 0) {pieces : List (Nat × Nat)}
    (hp : pieces = pageSplit (svMemAddr s c ra disp) ((k.val + 1) * (viewBits q / 8))) :
    BodyEnds s c (.svld c rd ra disp k esz q) (svldAccess c rd k esz q pieces (fetchTouch c s)) ∧
    BodyEnds s c (.svst c rd ra disp k esz q)
      (svstAccess c rd k esz q (svMemAddr s c ra disp) pieces (fetchTouch c s)) := by
  have hregs : (!svRegsOk rd k q) = false := congrArg not (decide_eq_true hr)
  subst hp
  constructor
  all_goals
    refine ⟨_, rfl, ?_⟩
    dsimp only
    rw [hregs, svMemAddr_fetchTouch, if_neg Bool.false_ne_true, if_neg (not_not_intro ha)]
    rfl

end

/-! ### How the accesses end -/

section
variable {s u v t : State} {c : CoreId} {rd : Reg} {k esz : Fin 4} {q : Bool} {a : Nat} {pieces : List (Nat × Nat)} {x : Trap}

theorem svldAccess_of_loads {bs : List Byte} (hl : loadPieces c pieces u = (bs, none, v)) :
    svldAccess c rd k esz q pieces u = .retire ((List.range (k.val + 1)).foldl (fun s f =>
      viewSet c q (svReg rd f) (ofLanes (8 * 2 ^ esz.val) ((List.range (laneCount q esz)).map fun j =>
        fld bs ((j * (k.val + 1) + f) * 2 ^ esz.val) (2 ^ esz.val))) s) v) := by
  unfold svldAccess
  rw [hl]

theorem svldAccess_of_raises {bs : List Byte} (hl : loadPieces c pieces u = (bs, some x, v)) :
    svldAccess c rd k esz q pieces u = .trap x v := by
  unfold svldAccess
  rw [hl]

theorem svstAccess_of_denied (hplace : storeTrap u c pieces = some x) : svstAccess c rd k esz q a pieces u = .trap x u := by
  unfold svstAccess
  rw [hplace]

variable (hplace : storeTrap u c pieces = none)
include hplace

theorem svstAccess_of_lost (hparity : storeParity c pieces u = (v, some x)) : svstAccess c rd k esz q a pieces u = .trap x v := by
  unfold svstAccess
  rw [hplace]
  dsimp only
  rw [hparity]

variable (hparity : storeParity c pieces u = (v, none)) (hown : Own c s u)
include hparity hown

/-- Past the checks, the bytes are those the registers hold. -/
theorem svstAccess_of_checked :
    svstAccess c rd k esz q a pieces u = storeEnd (storePieces c (svstBytes s c rd k esz q) a pieces v) := by
  have hchecked := storeParity_own pieces hown
  rw [hparity] at hchecked
  unfold svstAccess
  rw [hplace]
  dsimp only
  rw [hparity, ← svstBytes_of_own hchecked]

end

/-- Settles O32, by the order of the checks of each access; the checks of a store leave the registers it stores. -/
theorem vectorMemory : Obligations.VectorMemory := by
  unfold Obligations.VectorMemory
  intro s u c rd ra disp k esz q a h hu haddr
  subst hu
  obtain rfl : a = svMemAddr s c ra disp := haddr
  refine ⟨fun hr ha => ?_, fun hr ha => ?_, fun hr => ?_⟩
  · obtain ⟨hld, hst⟩ := svMem_accesses s c ra disp hr ha rfl
    refine ⟨fun bs v hl => hld.retires h (svldAccess_of_loads hl), fun bs x v hl => hld.traps h (svldAccess_of_raises hl),
      fun hplace => ⟨fun x v hparity => hst.traps h (svstAccess_of_lost hplace hparity), fun v hparity => ?_⟩,
      fun x hplace => hst.traps h (svstAccess_of_denied hplace)⟩
    rw [svstAccess_of_checked hplace hparity (fetchTouch_own c s)] at hst
    exact ⟨fun t hs => hst.retires h (congrArg storeEnd hs), fun x t hs => hst.traps h (congrArg storeEnd hs)⟩
  · obtain ⟨hld, hst⟩ := svMem_misaligned s c ra disp hr ha
    exact ⟨hld.traps h rfl, hst.traps h rfl⟩
  · obtain ⟨hld, hst⟩ := svMem_illegal s c ra disp hr
    exact ⟨hld.traps h rfl, hst.traps h rfl⟩

end Sys2Proof.Machine
end

section
/-! PROOFS. How long-vector instructions end: completion, the lowest faulting element, the yield (R208, R209, R213 to R215). -/

namespace Sys2Proof.Machine

/-! ### Elements in order -/

section
variable {c : CoreId} {elem : ElemFn} {e stop n m fl : Nat} {s t : State}

theorem LvRuns.le (h : LvRuns c elem e stop n s fl m t) : e ≤ stop := by
  induction h with
  | none => exact Nat.le_refl _
  | one _ _ _ _ _ _ _ _ _ _ _ _ hlt => exact Nat.le_of_lt hlt

/-- An element with no exception and no flag that traps is followed by the next. -/
theorem lvLoop_step {fuel k f : Nat} {s' : State} (he : elem e n s = .done f k s') (hf : NoTrap s c f) (hlt : e < stop) :
    lvLoop c elem stop (fuel + 1) e fl n s = lvLoop c elem stop fuel (e + 1) (fl ||| f) k (flagged c f s') := by
  have hsub := hf_zero (.inr hf)
  rw [lvLoop, if_neg (Nat.not_le.mpr hlt), he]
  dsimp only
  rw [hsub]
  rfl

/-- The loop performs the elements that can be performed, and goes on at the next. -/
theorem lvLoop_of_runs {last fuel : Nat} (h : LvRuns c elem e stop n s fl m t) (hs : stop ≤ last) (acc : Nat) :
    lvLoop c elem last (stop - e + fuel) e acc n s = lvLoop c elem last fuel stop (acc ||| fl) m t := by
  induction h generalizing acc with
  | none e n s => rw [Nat.sub_self, Nat.zero_add, Nat.or_zero]
  | one e stop n m k f fl s s' t he hf hlt hrest ih =>
    have hfuel : stop - e + fuel = stop - (e + 1) + fuel + 1 := by omega
    rw [hfuel, lvLoop_step he hf (hlt.trans_le hs), ih hs, Nat.or_assoc]

theorem lvLoop_stop (fuel acc : Nat) : lvLoop c elem stop fuel stop acc n s = (stop, acc, n, none, s) := by
  cases fuel with
  | zero => rfl
  | succ fuel => rw [lvLoop, if_pos (Nat.le_refl _)]

end

theorem lvImprecise_of_noTrap {s : State} {c : CoreId} {fl : Nat} (h : NoTrap s c fl) : lvImprecise c fl s = s := by
  have hsub := hf_zero (.inr h)
  unfold lvImprecise
  dsimp only
  rw [hsub]
  rfl

theorem noTrap_zero (s : State) (c : CoreId) : NoTrap s c 0 := Nat.zero_and _

theorem noTrap_lviSet {s : State} {c : CoreId} {fl : Nat} (i out : Nat) (h : NoTrap s c fl) : NoTrap (lviSet c i out s) c fl := by
  unfold NoTrap lviSet
  rw [core_coreMod_self]
  exact h

theorem imp_lviSet (c : CoreId) (i out : Nat) (s : State) : (core (lviSet c i out s) c).imp = (core s c).imp := by
  unfold lviSet
  rw [core_coreMod_self]

/-! ### How the instruction ends -/

/-- Where a long-vector instruction that starts at index stops: at the end of its group where an interrupt is due, else at n
(R213). -/
def lvStop (s : State) (c : CoreId) (n index : Nat) : Nat := if takesIntr s c then min n ((index / 64 + 1) * 64) else n

section
variable {c : CoreId} {elem : ElemFn} {n index out e fl m : Nat} {u t v : State} {x : Trap}

/-- The loop from index to where the instruction stops, and to an element before it that raises an exception. -/
theorem lvLoop_to_stop (hrun : LvRuns c elem index (lvStop u c n index) out u fl m t) :
    lvLoop c elem (lvStop u c n index) (lvStop u c n index - index) index 0 out u = (lvStop u c n index, fl, m, none, t) := by
  have hloop := lvLoop_of_runs (fuel := 0) hrun (Nat.le_refl _) 0
  rw [lvLoop_stop, Nat.zero_or] at hloop
  exact hloop

theorem lvLoop_to_trap (hrun : LvRuns c elem index e out u fl m t) (he : e < lvStop u c n index) (hx : elem e m t = .trap x v) :
    lvLoop c elem (lvStop u c n index) (lvStop u c n index - index) index 0 out u = (e, fl, m, some x, v) := by
  have hle := hrun.le
  have hfuel : lvStop u c n index - index = e - index + (lvStop u c n index - e - 1 + 1) := by omega
  rw [hfuel, lvLoop_of_runs hrun (Nat.le_of_lt he), lvLoop, if_neg (Nat.not_le.mpr he), hx, Nat.zero_or]

variable (finish : Nat → State → State) (hi : index = (core u c).lvi.toNat % 2 ^ 32) (ho : out = (core u c).lvi.toNat / 2 ^ 32)
include hi ho

/-- All elements are performed (R209). -/
theorem lvRun_of_runs (hs : lvStop u c n index = n) (hrun : LvRuns c elem index n out u fl m t) (hf : NoTrap t c fl) :
    lvRun c n elem finish u = .retire (finish m (lviSet c 0 0 t)) := by
  rw [← hs] at hrun
  have hloop := lvLoop_to_stop hrun
  subst hi ho
  rw [hs] at hloop
  unfold lvStop at hs
  unfold lvRun
  dsimp only
  rw [hs, hloop]
  dsimp only
  rw [lvImprecise_of_noTrap hf, if_neg (Nat.lt_irrefl n)]

/-- Nothing is left to perform (R209). -/
theorem lvRun_past (hs : lvStop u c n index = n) (hn : n ≤ index) :
    lvRun c n elem finish u = .retire (finish out (lviSet c 0 0 u)) := by
  subst hi ho
  unfold lvStop at hs
  unfold lvRun
  dsimp only
  rw [hs, Nat.sub_eq_zero_of_le hn, lvLoop]
  dsimp only
  rw [lvImprecise_of_noTrap (noTrap_zero u c), if_neg (Nat.not_lt.mpr hn)]

/-- An element raises an exception: those before it stand (R214). -/
theorem lvRun_raises (hrun : LvRuns c elem index e out u fl m t) (he : e < lvStop u c n index) (hx : elem e m t = .trap x v)
    (hf : NoTrap v c fl) (himp : (core v c).imp = none) : lvRun c n elem finish u = .trap x (lviSet c e m v) := by
  have hloop := lvLoop_to_trap hrun he hx
  subst hi ho
  unfold lvStop at hloop
  unfold lvRun
  dsimp only
  rw [hloop]
  dsimp only
  rw [lvImprecise_of_noTrap (noTrap_lviSet e m hf), imp_lviSet, himp, Option.isSome_none, Bool.and_false,
    if_neg Bool.false_ne_true]

/-- The instruction stops before its last element for an interrupt (R213). -/
theorem lvRun_yields (hs : lvStop u c n index < n) (hrun : LvRuns c elem index (lvStop u c n index) out u fl m t)
    (hf : NoTrap t c fl) (himp : (core t c).imp = none) :
    lvRun c n elem finish u = .wait (takeIntr c (lviSet c (lvStop u c n index) m t)) := by
  have hloop := lvLoop_to_stop hrun
  subst hi ho
  unfold lvStop at hloop hs ⊢
  unfold lvRun
  dsimp only
  rw [hloop]
  dsimp only
  rw [lvImprecise_of_noTrap hf, if_pos hs, imp_lviSet, himp, Option.isSome_none, if_neg Bool.false_ne_true]

end

theorem lvStop_eq_count {u : State} {c : CoreId} {n index : Nat} (h : takesIntr u c = false ∨ n ≤ (index / 64 + 1) * 64) :
    lvStop u c n index = n := by
  unfold lvStop
  rcases h with h | h
  · rw [h, if_neg Bool.false_ne_true]
  · split
    · exact Nat.min_eq_left h
    · rfl

theorem lt_lvStop {u : State} {c : CoreId} {n index e : Nat} (hn : e < n)
    (h : takesIntr u c = false ∨ e < (index / 64 + 1) * 64) : e < lvStop u c n index := by
  unfold lvStop
  rcases h with h | h
  · rwa [h, if_neg Bool.false_ne_true]
  · split
    · exact Nat.lt_min.mpr ⟨hn, h⟩
    · exact hn

theorem lvStop_eq_group {u : State} {c : CoreId} {n index : Nat} (hint : takesIntr u c = true) (h : (index / 64 + 1) * 64 < n) :
    lvStop u c n index = (index / 64 + 1) * 64 := by
  rw [lvStop, if_pos hint, Nat.min_eq_right (Nat.le_of_lt h)]

/-! ### The rows of Table 09-4 -/

/-- The instruction of a row runs the row's elements where the row's operands are legal, and is illegal elsewhere. -/
def LvRowRuns (s : State) (c : CoreId) (o : LvOp) (row : LvRow) : Prop :=
  ∃ bad elem, exec row.i s = .next (runLv c row.major o row.op bad elem row.finish s) ∧
    (bad (fetchTouch c s) = false ↔ row.ok) ∧ (row.ok → elem = row.elem)

section
variable {s : State} {c : CoreId} {o : LvOp} {i : Instr} {op : Nat}

theorem eszFmt_isNone_false : (eszFmt o.esz).isNone = false ↔ o.esz = 2 ∨ o.esz = 3 := by
  generalize o.esz = e
  revert e
  decide

theorem eszFmt_of_legal (h : o.esz = 2 ∨ o.esz = 3) : eszFmt o.esz = some (if o.esz = 2 then .b32 else .b64) := by
  rcases h with h | h <;> rw [h] <;> rfl

/-- A row whose operands are always legal. -/
theorem lvRow_total {major : Nat} {elem : ElemFn} {finish : Nat → State → State}
    (hexec : exec i s = .next (runLv c major o op (fun _ => false) elem finish s)) :
    LvRowRuns s c o ⟨i, major, op, True, elem, finish⟩ :=
  ⟨_, _, hexec, ⟨fun _ => trivial, fun _ => rfl⟩, fun _ => rfl⟩

theorem lvRow_fp (f : Round → FFmt → Nat → Nat → Nat × FFlags) (hexec : exec i s = .next (runLvFp c o op f s)) :
    LvRowRuns s c o ⟨i, 0x38, op, o.esz = 2 ∨ o.esz = 3,
      lvArithElem c o fun a b => f (dynRound s c) (if o.esz = 2 then .b32 else .b64) a b, fun _ s => s⟩ := by
  refine ⟨_, _, hexec, eszFmt_isNone_false, fun h => ?_⟩
  unfold lvFmt
  rw [eszFmt_of_legal h]

theorem lvRow_fcmp (rel : FRel) (sig : Bool) (hexec : exec i s = .next (runLvFcmp c o op rel sig s)) :
    LvRowRuns s c o ⟨i, 0x39, op, o.esz = 2 ∨ o.esz = 3,
      lvCmpElem c o fun a b => fcmp (if o.esz = 2 then .b32 else .b64) rel sig a b, fun _ s => s⟩ := by
  refine ⟨_, _, hexec, eszFmt_isNone_false, fun h => ?_⟩
  rw [eszFmt_of_legal h]

theorem lvRow_width {elem : ElemFn}
    (hexec : exec i s = .next (runLv c 0x3B o op (fun s => badWidth s c o) elem (fun _ s => s) s)) :
    LvRowRuns s c o ⟨i, 0x3B, op, 1 ≤ (gGet s c o.rb).toNat ∧ (gGet s c o.rb).toNat ≤ 8 * 2 ^ o.esz.val, elem, fun _ s => s⟩ := by
  refine ⟨_, _, hexec, ?_, fun _ => rfl⟩
  unfold badWidth lvSize
  simp only [gGet_fetchTouch, Bool.or_eq_false_iff, decide_eq_false_iff_not, Nat.not_lt, Nat.one_le_iff_ne_zero, ne_eq]

/-- Each of the 26 rows. -/
theorem lvTable_runs : ∀ row, LvTable c o (dynRound s c) (gGet s c o.rb).toNat row → LvRowRuns s c o row := by
  unfold LvTable
  simp only [List.forall_mem_cons]
  exact ⟨lvRow_total rfl, lvRow_total rfl, lvRow_total rfl, lvRow_total rfl, lvRow_total rfl, lvRow_total rfl, lvRow_total rfl,
    lvRow_total rfl, lvRow_total rfl, lvRow_total rfl, lvRow_fp (fun r m a b => fadd m r a b) rfl,
    lvRow_fp (fun r m a b => fsub m r a b) rfl, lvRow_fp (fun r m a b => fmul m r a b) rfl,
    lvRow_fp (fun r m a b => fdiv m r a b) rfl, lvRow_fp (fun _ m a b => fminmax m false a b) rfl,
    lvRow_fp (fun _ m a b => fminmax m true a b) rfl, lvRow_total rfl, lvRow_total rfl, lvRow_total rfl,
    lvRow_fcmp .eq false rfl, lvRow_fcmp .lt true rfl, lvRow_total rfl, lvRow_total rfl, lvRow_total rfl, lvRow_width rfl,
    lvRow_width rfl, List.forall_mem_nil _⟩

end

/-! ### R208 -/

section
variable {s t : State} {c : CoreId} {o : LvOp} {major op : Nat} {bad : State → Bool} {elem : ElemFn}
  {finish : Nat → State → State} (h : CoreStarts s c)
include h

theorem runLv_illegal (hbad : 2 ^ 20 < (gGet s c o.rc).toNat ∨ bad (fetchTouch c s) = true) :
    runLv c major o op bad elem finish s = tookTrap c s { vec := 4, val := (lvWord major o op).setWidth 64 } := by
  have hcond : (decide (2 ^ 20 < (gGet s c o.rc).toNat) || bad (fetchTouch c s)) = true := by
    rwa [Bool.or_eq_true, decide_eq_true_eq]
  unfold runLv
  rw [starts_body h]
  dsimp only
  rw [gGet_fetchTouch, if_pos hcond]
  rfl

/-- An instruction whose count and operands are legal ends as its elements do. -/
theorem runLv_legal (hn : (gGet s c o.rc).toNat ≤ 2 ^ 20) (hbad : bad (fetchTouch c s) = false) :
    runLv c major o op bad elem finish s =
      runInstr c false (lvRun c (gGet s c o.rc).toNat elem finish) s := by
  unfold runLv
  rw [starts_body h, starts_body h]
  dsimp only
  rw [gGet_fetchTouch, hbad, Bool.or_false, decide_eq_false (Nat.not_lt.mpr hn), if_neg Bool.false_ne_true]

end

/-- Settles O33, by where each instruction stops and what its loop performs up to there. -/
theorem longVectorResults : Obligations.LongVectorResults := by
  unfold Obligations.LongVectorResults
  intro s u c o row n index out h hu hrow hn hi ho
  subst hu hn
  obtain ⟨bad, elem, hexec, hbad, helem⟩ := lvTable_runs row hrow
  have hlvi : (core (fetchTouch c s) c).lvi = (core s c).lvi := by rw [core_fetchTouch]
  rw [← hlvi] at hi ho
  have hlegal : (gGet s c o.rc).toNat ≤ 2 ^ 20 → row.ok →
      exec row.i s = .next (runInstr c false (lvRun c (gGet s c o.rc).toNat row.elem row.finish) s) := fun hn hok => by
    rw [hexec, helem hok, runLv_legal h hn (hbad.mpr hok)]
  refine ⟨fun hbads => ?_, fun hn hok hstop => ?_, fun hn hok e fl m t x v hrun he hgroup hx hf himp => ?_,
    fun hn hok hint hgroup fl m t hrun hf himp => ?_⟩
  · rw [hexec, runLv_illegal h (hbads.imp_right fun k => eq_true_of_ne_false (mt hbad.mp k))]
  · rw [hlegal hn hok, starts_body h]
    have hs := lvStop_eq_count hstop
    refine ⟨fun hpast => ?_, fun fl m t hrun hf => ?_⟩
    · rw [lvRun_past row.finish hi ho hs hpast]
    · rw [lvRun_of_runs row.finish hi ho hs hrun hf]
  · rw [hlegal hn hok, starts_body h, lvRun_raises row.finish hi ho hrun (lt_lvStop he hgroup) hx hf himp]
  · have hs := lvStop_eq_group hint hgroup
    rw [← hs] at hrun hgroup ⊢
    rw [hlegal hn hok, starts_body h, lvRun_yields row.finish hi ho hgroup hrun hf himp]

end Sys2Proof.Machine
end

section
/-! PROOFS. Every step keeps the soundness of the state (R219, R225, R236, R442). -/

namespace Sys2Proof.Machine

/-- Every command keeps the queue and the soundness of a state, by the lemma of its own arm. -/
theorem exec_keeps {ρ s : State} (hK : Keeps ρ s) (i : Instr) : OutKeeps ρ (exec i s) :=
  match i with
  | .sqTailWrite .. => execSqTailWrite_keeps hK
  | .cqHeadWrite .. => execCqHeadWrite_keeps hK
  | .faultHeadWrite .. => execFaultHeadWrite_keeps hK
  | .faultRetry .. => execFaultRetry_keeps hK
  | .faultFail .. => execFaultFail_keeps hK
  | .createCq .. => execCreateCq_keeps hK
  | .createSq .. => execCreateSq_keeps hK
  | .deleteSq .. => execDeleteSq_keeps hK
  | .deleteCq .. => execDeleteCq_keeps hK
  | .createQp .. => execCreateQp_keeps hK
  | .connectQp .. => execConnectQp_keeps hK
  | .destroyQp .. => execDestroyQp_keeps hK
  | .registerRegion .. => execRegisterRegion_keeps hK
  | .deregisterRegion .. => execDeregisterRegion_keeps hK
  | .query .. => execQuery_keeps hK
  | .nop .. => execNop_keeps hK
  | .plan .. => execPlan_keeps hK
  | .cancel .. => execCancel_keeps hK
  | .spillReservation .. => execSpillReservation_keeps hK
  | .sqHeadWriteback .. => execSqHeadWriteback_keeps hK
  | .placePhase .. => execPlacePhase_keeps hK
  | .placeUrgent .. => execPlaceUrgent_keeps hK
  | .streamTransfer .. => execStreamTransfer_keeps hK
  | .endOfStream .. => execEndOfStream_keeps hK
  | .stageFinish .. => execStageFinish_keeps hK
  | .completionPost .. => execCompletionPost_keeps hK
  | .coalesceTimeout .. => execCoalesceTimeout_keeps hK
  | .deadline .. => execDeadline_keeps hK
  | .tick .. => execTick_keeps hK
  | .budgetUrgent .. => execBudgetUrgent_keeps hK
  | .zoneDispatch .. => execZoneDispatch_keeps hK
  | .taskStopped .. => execTaskStopped_keeps hK
  | .wait .. => execWait_keeps hK
  | .signal .. => execSignal_keeps hK
  | .delay .. => execDelay_keeps hK
  | .clear .. => execClear_keeps hK
  | .waitTimeout .. => execWaitTimeout_keeps hK
  | .delayExpiry .. => execDelayExpiry_keeps hK
  | .avsResponse .. => execAvsResponse_keeps hK
  | .interruptTaken .. => execInterruptTaken_keeps hK
  | .impreciseArithmetic .. => execImpreciseArithmetic_keeps hK
  | .illegalInstruction .. => execIllegalInstruction_keeps hK
  | .aluAdd .. => execAluAdd_keeps hK
  | .aluSub .. => execAluSub_keeps hK
  | .aluAnd .. => execAluAnd_keeps hK
  | .aluOr .. => execAluOr_keeps hK
  | .aluXor .. => execAluXor_keeps hK
  | .aluSll .. => execAluSll_keeps hK
  | .aluSrl .. => execAluSrl_keeps hK
  | .aluSra .. => execAluSra_keeps hK
  | .aluSlt .. => execAluSlt_keeps hK
  | .aluSltu .. => execAluSltu_keeps hK
  | .aluMin .. => execAluMin_keeps hK
  | .aluMax .. => execAluMax_keeps hK
  | .aluMinu .. => execAluMinu_keeps hK
  | .aluMaxu .. => execAluMaxu_keeps hK
  | .aluRotl .. => execAluRotl_keeps hK
  | .aluClz .. => execAluClz_keeps hK
  | .aluwAdd .. => execAluwAdd_keeps hK
  | .aluwSub .. => execAluwSub_keeps hK
  | .aluwAnd .. => execAluwAnd_keeps hK
  | .aluwOr .. => execAluwOr_keeps hK
  | .aluwXor .. => execAluwXor_keeps hK
  | .aluwSll .. => execAluwSll_keeps hK
  | .aluwSrl .. => execAluwSrl_keeps hK
  | .aluwSra .. => execAluwSra_keeps hK
  | .aluwSlt .. => execAluwSlt_keeps hK
  | .aluwSltu .. => execAluwSltu_keeps hK
  | .aluwMin .. => execAluwMin_keeps hK
  | .aluwMax .. => execAluwMax_keeps hK
  | .aluwMinu .. => execAluwMinu_keeps hK
  | .aluwMaxu .. => execAluwMaxu_keeps hK
  | .aluwRotl .. => execAluwRotl_keeps hK
  | .aluwClz .. => execAluwClz_keeps hK
  | .mul .. => execMul_keeps hK
  | .mulh .. => execMulh_keeps hK
  | .mulhu .. => execMulhu_keeps hK
  | .div .. => execDiv_keeps hK
  | .divu .. => execDivu_keeps hK
  | .rem .. => execRem_keeps hK
  | .remu .. => execRemu_keeps hK
  | .chkAdd .. => execChkAdd_keeps hK
  | .chkSub .. => execChkSub_keeps hK
  | .chkMul .. => execChkMul_keeps hK
  | .fadd .. => execFadd_keeps hK
  | .fsub .. => execFsub_keeps hK
  | .fmul .. => execFmul_keeps hK
  | .fdiv .. => execFdiv_keeps hK
  | .fsqrt .. => execFsqrt_keeps hK
  | .fmin .. => execFmin_keeps hK
  | .fmax .. => execFmax_keeps hK
  | .fmac .. => execFmac_keeps hK
  | .lrx .. => execLrx_keeps hK
  | .scx .. => execScx_keeps hK
  | .ftoi .. => execFtoi_keeps hK
  | .ftou .. => execFtou_keeps hK
  | .itof .. => execItof_keeps hK
  | .utof .. => execUtof_keeps hK
  | .ftof .. => execFtof_keeps hK
  | .fint .. => execFint_keeps hK
  | .fbits .. => execFbits_keeps hK
  | .gbits .. => execGbits_keeps hK
  | .feq .. => execFeq_keeps hK
  | .flt .. => execFlt_keeps hK
  | .fle .. => execFle_keeps hK
  | .fltq .. => execFltq_keeps hK
  | .fleq .. => execFleq_keeps hK
  | .funord .. => execFunord_keeps hK
  | .fclass .. => execFclass_keeps hK
  | .addi .. => execAddi_keeps hK
  | .andi .. => execAndi_keeps hK
  | .ori .. => execOri_keeps hK
  | .xori .. => execXori_keeps hK
  | .lui .. => execLui_keeps hK
  | .slti .. => execSlti_keeps hK
  | .slli .. => execSlli_keeps hK
  | .srli .. => execSrli_keeps hK
  | .srai .. => execSrai_keeps hK
  | .rotli .. => execRotli_keeps hK
  | .lb .. => execLb_keeps hK
  | .lh .. => execLh_keeps hK
  | .lw .. => execLw_keeps hK
  | .ld .. => execLd_keeps hK
  | .lbu .. => execLbu_keeps hK
  | .lhu .. => execLhu_keeps hK
  | .lwu .. => execLwu_keeps hK
  | .lda .. => execLda_keeps hK
  | .sb .. => execSb_keeps hK
  | .sh .. => execSh_keeps hK
  | .sw .. => execSw_keeps hK
  | .sd .. => execSd_keeps hK
  | .stl .. => execStl_keeps hK
  | .fld .. => execFld_keeps hK
  | .fsd .. => execFsd_keeps hK
  | .flw .. => execFlw_keeps hK
  | .fsw .. => execFsw_keeps hK
  | .fence .. => execFence_keeps hK
  | .beq .. => execBeq_keeps hK
  | .bne .. => execBne_keeps hK
  | .blt .. => execBlt_keeps hK
  | .bge .. => execBge_keeps hK
  | .bltu .. => execBltu_keeps hK
  | .bgeu .. => execBgeu_keeps hK
  | .j .. => execJ_keeps hK
  | .jal .. => execJal_keeps hK
  | .jalr .. => execJalr_keeps hK
  | .sysc .. => execSysc_keeps hK
  | .mcall .. => execMcall_keeps hK
  | .sret .. => execSret_keeps hK
  | .mret .. => execMret_keeps hK
  | .mfs .. => execMfs_keeps hK
  | .mts .. => execMts_keeps hK
  | .wfi .. => execWfi_keeps hK
  | .halt .. => execHalt_keeps hK
  | .afence .. => execAfence_keeps hK
  | .brk .. => execBrk_keeps hK
  | .srd .. => execSrd_keeps hK
  | .swr .. => execSwr_keeps hK
  | .swrn _ _ ra _ => execSwrn_keeps (_ra := ra) hK
  | .strSend _ _ ra _ => execStrSend_keeps (_ra := ra) hK
  | .spoll _ _ ra _ => execSpoll_keeps (_ra := ra) hK
  | .prefetch .. => execPrefetch_keeps hK
  | .clean .. => execClean_keeps hK
  | .cleanInv .. => execCleanInv_keeps hK
  | .inv .. => execInv_keeps hK
  | .cleanRange .. => execCleanRange_keeps hK
  | .cleanInvRange .. => execCleanInvRange_keeps hK
  | .invRange .. => execInvRange_keeps hK
  | .cleanSw .. => execCleanSw_keeps hK
  | .cleanInvSw .. => execCleanInvSw_keeps hK
  | .invSw .. => execInvSw_keeps hK
  | .lockfill .. => execLockfill_keeps hK
  | .lockset .. => execLockset_keeps hK
  | .svAdd .. => execSvAdd_keeps hK
  | .svSub .. => execSvSub_keeps hK
  | .svAddss .. => execSvAddss_keeps hK
  | .svAddus .. => execSvAddus_keeps hK
  | .svSubss .. => execSvSubss_keeps hK
  | .svSubus .. => execSvSubus_keeps hK
  | .svAnd .. => execSvAnd_keeps hK
  | .svOr .. => execSvOr_keeps hK
  | .svXor .. => execSvXor_keeps hK
  | .svAndn .. => execSvAndn_keeps hK
  | .svMin .. => execSvMin_keeps hK
  | .svMax .. => execSvMax_keeps hK
  | .svMinu .. => execSvMinu_keeps hK
  | .svMaxu .. => execSvMaxu_keeps hK
  | .svCmpeq .. => execSvCmpeq_keeps hK
  | .svCmpgt .. => execSvCmpgt_keeps hK
  | .svCmpgtu .. => execSvCmpgtu_keeps hK
  | .svMul .. => execSvMul_keeps hK
  | .svAvgu .. => execSvAvgu_keeps hK
  | .svAbsdu .. => execSvAbsdu_keeps hK
  | .svSlli .. => execSvSlli_keeps hK
  | .svSrli .. => execSvSrli_keeps hK
  | .svSrai .. => execSvSrai_keeps hK
  | .svFadd .. => execSvFadd_keeps hK
  | .svFsub .. => execSvFsub_keeps hK
  | .svFmul .. => execSvFmul_keeps hK
  | .svFdiv .. => execSvFdiv_keeps hK
  | .svFsqrt .. => execSvFsqrt_keeps hK
  | .svFmin .. => execSvFmin_keeps hK
  | .svFmax .. => execSvFmax_keeps hK
  | .svFmac .. => execSvFmac_keeps hK
  | .svFcmpeq .. => execSvFcmpeq_keeps hK
  | .svFcmplt .. => execSvFcmplt_keeps hK
  | .svFcmple .. => execSvFcmple_keeps hK
  | .svFabs .. => execSvFabs_keeps hK
  | .svFneg .. => execSvFneg_keeps hK
  | .pick .. => execPick_keeps hK
  | .pickk .. => execPickk_keeps hK
  | .mixlo .. => execMixlo_keeps hK
  | .mixhi .. => execMixhi_keeps hK
  | .sepev .. => execSepev_keeps hK
  | .sepod .. => execSepod_keeps hK
  | .slide .. => execSlide_keeps hK
  | .bcast .. => execBcast_keeps hK
  | .revl .. => execRevl_keeps hK
  | .putl .. => execPutl_keeps hK
  | .getu .. => execGetu_keeps hK
  | .gets .. => execGets_keeps hK
  | .fill .. => execFill_keeps hK
  | .topb .. => execTopb_keeps hK
  | .popc .. => execPopc_keeps hK
  | .rsum .. => execRsum_keeps hK
  | .rsumu .. => execRsumu_keeps hK
  | .rmin .. => execRmin_keeps hK
  | .rmax .. => execRmax_keeps hK
  | .rminu .. => execRminu_keeps hK
  | .rmaxu .. => execRmaxu_keeps hK
  | .svld .. => execSvld_keeps hK
  | .svst .. => execSvst_keeps hK
  | .lvAdd .. => execLvAdd_keeps hK
  | .lvSub .. => execLvSub_keeps hK
  | .lvMul .. => execLvMul_keeps hK
  | .lvAnd .. => execLvAnd_keeps hK
  | .lvOr .. => execLvOr_keeps hK
  | .lvXor .. => execLvXor_keeps hK
  | .lvMin .. => execLvMin_keeps hK
  | .lvMax .. => execLvMax_keeps hK
  | .lvMinu .. => execLvMinu_keeps hK
  | .lvMaxu .. => execLvMaxu_keeps hK
  | .lvFadd .. => execLvFadd_keeps hK
  | .lvFsub .. => execLvFsub_keeps hK
  | .lvFmul .. => execLvFmul_keeps hK
  | .lvFdiv .. => execLvFdiv_keeps hK
  | .lvFmin .. => execLvFmin_keeps hK
  | .lvFmax .. => execLvFmax_keeps hK
  | .lvCmpeq .. => execLvCmpeq_keeps hK
  | .lvCmplt .. => execLvCmplt_keeps hK
  | .lvCmpltu .. => execLvCmpltu_keeps hK
  | .lvFcmpeq .. => execLvFcmpeq_keeps hK
  | .lvFcmplt .. => execLvFcmplt_keeps hK
  | .compress .. => execCompress_keeps hK
  | .gather .. => execGather_keeps hK
  | .scatter .. => execScatter_keeps hK
  | .unpack .. => execUnpack_keeps hK
  | .pack .. => execPack_keeps hK
  | .l2Enable .. => execL2Enable_keeps hK
  | .l2Disable .. => execL2Disable_keeps hK
  | .l2DrainDone .. => execL2DrainDone_keeps hK
  | .prefetchEnable .. => execPrefetchEnable_keeps hK
  | .pageRead .. => execPageRead_keeps hK
  | .dictionaryPrepare .. => execDictionaryPrepare_keeps hK
  | .scan .. => execScan_keeps hK
  | .hashBuild .. => execHashBuild_keeps hK
  | .hashProbe .. => execHashProbe_keeps hK
  | .partition .. => execPartition_keeps hK
  | .hashGroup .. => execHashGroup_keeps hK
  | .sort .. => execSort_keeps hK
  | .merge .. => execMerge_keeps hK
  | .topN .. => execTopN_keeps hK
  | .groupSorted .. => execGroupSorted_keeps hK
  | .groupHash .. => execGroupHash_keeps hK
  | .inflate .. => execInflate_keeps hK
  | .deflate .. => execDeflate_keeps hK
  | .kilnSelfTest .. => execKilnSelfTest_keeps hK
  | .digest .. => execDigest_keeps hK
  | .lookup .. => execLookup_keeps hK
  | .udoStage .. => execUdoStage_keeps hK
  | .exprStage .. => execExprStage_keeps hK
  | .combine .. => execCombine_keeps hK
  | .exchSend .. => execExchSend_keeps hK
  | .exchRecv .. => execExchRecv_keeps hK
  | .source .. => execSource_keeps hK
  | .sinkDevice .. => execSinkDevice_keeps hK
  | .sinkHost .. => execSinkHost_keeps hK
  | .sinkRemote .. => execSinkRemote_keeps hK
  | .descriptorFetch .. => execDescriptorFetch_keeps hK
  | .tunRequest .. => execTunRequest_keeps hK
  | .descriptorWriteback .. => execDescriptorWriteback_keeps hK
  | .faultTimeout .. => execFaultTimeout_keeps hK
  | .memoryTimeout .. => execMemoryTimeout_keeps hK
  | .invalidate .. => execInvalidate_keeps hK
  | .invalidateDone .. => execInvalidateDone_keeps hK
  | .rootWrite .. => execRootWrite_keeps hK
  | .fqBase .. => execFqBase_keeps hK
  | .fqEntries .. => execFqEntries_keeps hK
  | .fqLocation .. => execFqLocation_keeps hK
  | .atsInvalidate _ a n => execAtsInvalidate_keeps (_address := a) (_length := n) hK
  | .dramRequestIssue .. => execDramRequestIssue_keeps hK
  | .rhPenaltyEnd .. => execRhPenaltyEnd_keeps hK
  | .rhSubwindow .. => execRhSubwindow_keeps hK
  | .refresh .. => execRefresh_keeps hK
  | .channelTempPoll .. => execChannelTempPoll_keeps hK
  | .scrubRead .. => execScrubRead_keeps hK
  | .scrubPeriod .. => execScrubPeriod_keeps hK
  | .alertN .. => execAlertN_keeps hK
  | .pdIdle .. => execPdIdle_keeps hK
  | .selfRefreshEntry .. => execSelfRefreshEntry_keeps hK
  | .cxlMemRead .. => execCxlMemRead_keeps hK
  | .cxlMemWrite .. => execCxlMemWrite_keeps hK
  | .hdmCommit .. => execHdmCommit_keeps hK
  | .hostWindow .. => execHostWindow_keeps hK
  | .flr .. => execFlr_keeps hK
  | .pf0Flr .. => execPf0Flr_keeps hK
  | .hotReset .. => execHotReset_keeps hK
  | .perstN .. => execPerstN_keeps hK
  | .configurationRequest .. => execConfigurationRequest_keeps hK
  | .ideFailure .. => execIdeFailure_keeps hK
  | .getEventRecords .. => execGetEventRecords_keeps hK
  | .clearEventRecords .. => execClearEventRecords_keeps hK
  | .setTimestamp .. => execSetTimestamp_keeps hK
  | .getTimestamp .. => execGetTimestamp_keeps hK
  | .getSupportedLogs .. => execGetSupportedLogs_keeps hK
  | .getLog .. => execGetLog_keeps hK
  | .identifyMemoryDevice .. => execIdentifyMemoryDevice_keeps hK
  | .getHealthInfo .. => execGetHealthInfo_keeps hK
  | .vdpRequest .. => execVdpRequest_keeps hK
  | .vdpCyclic .. => execVdpCyclic_keeps hK
  | .unsupportedMailbox .. => execUnsupportedMailbox_keeps hK
  | .create .. => execCreate_keeps hK
  | .destroy .. => execDestroy_keeps hK
  | .restore .. => execRestore_keeps hK
  | .resetWrite .. => execResetWrite_keeps hK
  | .freeze .. => execFreeze_keeps hK
  | .resume .. => execResume_keeps hK
  | .resetComplete .. => execResetComplete_keeps hK
  | .freezeTimeout .. => execFreezeTimeout_keeps hK
  | .rrHead .. => execRrHead_keeps hK
  | .spillPool .. => execSpillPool_keeps hK
  | .spillBase .. => execSpillBase_keeps hK
  | .rrBase .. => execRrBase_keeps hK
  | .rrEntries .. => execRrEntries_keeps hK
  | .linkWrite .. => execLinkWrite_keeps hK
  | .logEnable .. => execLogEnable_keeps hK
  | .logSwitch .. => execLogSwitch_keeps hK
  | .logStop .. => execLogStop_keeps hK
  | .logSwitchDone .. => execLogSwitchDone_keeps hK
  | .roceSend .. => execRoceSend_keeps hK
  | .rdmaWrite .. => execRdmaWrite_keeps hK
  | .rdmaWriteImm .. => execRdmaWriteImm_keeps hK
  | .rdmaRead .. => execRdmaRead_keeps hK
  | .ackPacket .. => execAckPacket_keeps hK
  | .roceNak .. => execRoceNak_keeps hK
  | .cnp .. => execCnp_keeps hK
  | .otherFrame .. => execOtherFrame_keeps hK
  | .ackTimeout .. => execAckTimeout_keeps hK
  | .rnrTimer .. => execRnrTimer_keeps hK
  | .incPeriod .. => execIncPeriod_keeps hK
  | .fitnessWindow .. => execFitnessWindow_keeps hK
  | .probe .. => execProbe_keeps hK
  | .probeTimeout .. => execProbeTimeout_keeps hK
  | .repairTime .. => execRepairTime_keeps hK
  | .rearm .. => execRearm_keeps hK
  | .moveBack .. => execMoveBack_keeps hK
  | .pathHold .. => execPathHold_keeps hK
  | .openMsg .. => execOpenMsg_keeps hK
  | .grantMsg .. => execGrantMsg_keeps hK
  | .endMsg .. => execEndMsg_keeps hK
  | .openRetry .. => execOpenRetry_keeps hK
  | .openTimeout .. => execOpenTimeout_keeps hK
  | .dataFlit .. => execDataFlit_keeps hK
  | .idleFlit .. => execIdleFlit_keeps hK
  | .nakFlit .. => execNakFlit_keeps hK
  | .heartbeat .. => execHeartbeat_keeps hK
  | .heartbeatSend .. => execHeartbeatSend_keeps hK
  | .replayTimeout .. => execReplayTimeout_keeps hK
  | .trainAttempt .. => execTrainAttempt_keeps hK
  | .trainDone .. => execTrainDone_keeps hK
  | .retrainDone .. => execRetrainDone_keeps hK
  | .twinLoss .. => execTwinLoss_keeps hK
  | .entryRecord .. => execEntryRecord_keeps hK
  | .postRecord .. => execPostRecord_keeps hK
  | .retireRecord .. => execRetireRecord_keeps hK
  | .queueRecord .. => execQueueRecord_keeps hK
  | .instanceRecord .. => execInstanceRecord_keeps hK
  | .floorRecord .. => execFloorRecord_keeps hK
  | .mirrorAck .. => execMirrorAck_keeps hK
  | .claimMsg .. => execClaimMsg_keeps hK
  | .claimRepeat .. => execClaimRepeat_keeps hK
  | .claimWait .. => execClaimWait_keeps hK
  | .switchOverEnd .. => execSwitchOverEnd_keeps hK
  | .linkWait .. => execLinkWait_keeps hK
  | .syncComplete .. => execSyncComplete_keeps hK
  | .orphanDelay .. => execOrphanDelay_keeps hK
  | .orphanNow .. => execOrphanNow_keeps hK
  | .orphanCqHead .. => execOrphanCqHead_keeps hK
  | .pairPolicy .. => execPairPolicy_keeps hK
  | .vdpRead .. => execVdpRead_keeps hK
  | .vdpWrite .. => execVdpWrite_keeps hK
  | .segInit .. => execSegInit_keeps hK
  | .segData .. => execSegData_keeps hK
  | .segAbort .. => execSegAbort_keeps hK
  | .segTimeout .. => execSegTimeout_keeps hK
  | .discover .. => execDiscover_keeps hK
  | .cyclic .. => execCyclic_keeps hK
  | .resourceClaim .. => execResourceClaim_keeps hK
  | .timerStart .. => execTimerStart_keeps hK
  | .timerStop .. => execTimerStop_keeps hK
  | .timerExpiry .. => execTimerExpiry_keeps hK
  | .watchdogExpiry .. => execWatchdogExpiry_keeps hK
  | .counterLogWrite .. => execCounterLogWrite_keeps hK
  | .ownerKey .. => execOwnerKey_keeps hK
  | .keyWrite .. => execKeyWrite_keeps hK
  | .rightsWrite .. => execRightsWrite_keeps hK
  | .imageUpdateDone .. => execImageUpdateDone_keeps hK
  | .bootKeyDigest .. => execBootKeyDigest_keeps hK
  | .glumeParityPass .. => execGlumeParityPass_keeps hK
  | .targetRun .. => execTargetRun_keeps hK
  | .targetDrain .. => execTargetDrain_keeps hK
  | .targetDormant .. => execTargetDormant_keeps hK
  | .targetFreeze .. => execTargetFreeze_keeps hK
  | .unitApplied .. => execUnitApplied_keeps hK
  | .modeDeadline .. => execModeDeadline_keeps hK
  | .rollbackDone .. => execRollbackDone_keeps hK
  | .zonePowerOff .. => execZonePowerOff_keeps hK
  | .zonePowerOn .. => execZonePowerOn_keeps hK
  | .zoneGated .. => execZoneGated_keeps hK
  | .zoneWake .. => execZoneWake_keeps hK
  | .holdEntry .. => execHoldEntry_keeps hK
  | .sensorPoll .. => execSensorPoll_keeps hK
  | .temperatureOutOfSpec .. => execTemperatureOutOfSpec_keeps hK
  | .supplyOutOfSpec .. => execSupplyOutOfSpec_keeps hK
  | .refclkLoss .. => execRefclkLoss_keeps hK
  | .journalEccError .. => execJournalEccError_keeps hK
  | .firmwareFault .. => execFirmwareFault_keeps hK
  | .pwrgoodAssert .. => execPwrgoodAssert_keeps hK
  | .pwrgoodDeassert .. => execPwrgoodDeassert_keeps hK
  | .sysResetN .. => execSysResetN_keeps hK
  | .deviceReset .. => execDeviceReset_keeps hK
  | .fuseLoadDone .. => execFuseLoadDone_keeps hK
  | .copyChosen .. => execCopyChosen_keeps hK
  | .dramBringup .. => execDramBringup_keeps hK
  | .loadEnd .. => execLoadEnd_keeps hK
  | .runEntry .. => execRunEntry_keeps hK
  | .logClear .. => execLogClear_keeps hK
  | .portTrainingDone .. => execPortTrainingDone_keeps hK
  | .cxlLinkTrained .. => execCxlLinkTrained_keeps hK
  | .unitReportsClear .. => execUnitReportsClear_keeps hK
  | .coreRestart .. => execCoreRestart_keeps hK
  | .tapInstruction .. => execTapInstruction_keeps hK
  | .managementFrame .. => execManagementFrame_keeps hK
  | .plcaBeacon .. => execPlcaBeacon_keeps hK

/-- The next state of a command keeps the state that the command began in. -/
theorem keeps_of_exec_next {i : Instr} {s t : State} (h : exec i s = .next t) : Keeps s t := by
  have hout := exec_keeps (Keeps.refl s) i
  rwa [h] at hout

/-- Settles O3: an idle step passes time only, and every command keeps soundness, which does not speak of the queue. -/
theorem stepKeepsSoundness : Obligations.StepKeepsSoundness := by
  unfold Obligations.StepKeepsSoundness
  intro s t hs ht
  unfold step at ht
  cases hq : s.pending with
  | nil =>
    rw [hq] at ht
    cases ht
    exact hs
  | cons c rest =>
    rw [hq] at ht
    exact (keeps_of_exec_next ht).sound hs

end Sys2Proof.Machine
end

section
/-! PROOFS. What a WRITE of a number does at an entry of a unit: the L2 switches, the prefetch buffer, the host window, MOVE_BACK
and ZONE_POWER (R154, R224, R234, R296, R431, R459, R461). -/

namespace Sys2Proof.Machine

/-! ### A number judged by its entry's own rules (R431) -/

/-- Entry e stands at idx and sub, and takes a number by a WRITE that is not critical. -/
structure TakesNumber (idx sub : Nat) (e : Entry) : Prop where
  found : entryAt idx sub = some e
  idx_lt : idx < 0x6000
  sub_lt : sub < 256
  access : e.acc = .rw ∨ e.acc = .wo
  number : e.ty.mappable = true
  ownLevel : pairLevel idx sub = false

/-- The one row that its indices and subindex meet is such an entry, where its type and access say so. -/
theorem takesNumber_of_row {idx sub : Nat} {e : Entry}
    (hrow : (dictRows.filter fun x => decide (x.idx ≤ e.idxLast) && decide (e.idx ≤ x.idxLast) && decide (x.sub ≤ sub) &&
      decide (sub ≤ x.subLast)) = [e])
    (hlo : e.idx ≤ idx) (hhi : idx ≤ e.idxLast) (hlast : e.idxLast < 0x6000) (hsub : sub < 256)
    (hacc : e.acc = .rw ∨ e.acc = .wo) (hnum : e.ty.mappable = true) (hown : pairLevel idx sub = false) :
    TakesNumber idx sub e :=
  ⟨entry_in e.idx e.idxLast idx sub e hrow hlo hhi (Nat.le_refl _) (Nat.le_refl _), Nat.lt_of_le_of_lt hhi hlast,
    hsub, hacc, hnum, hown⟩

/-- The state that a WRITE leaves, by what its entry's rules make of it. -/
def answerWrite (w : VdpWrite) (idx sub : Nat) (bytes : List Byte) (s : State) : Except VdpErr State → State
  | .ok t => writeOk w idx sub bytes t
  | .error x => writeNo w idx sub bytes x s

section
variable {s : State} {w : VdpWrite} {idx sub v : Nat} {e : Entry} {bytes : List Byte}

theorem lengthFits_width (h : e.ty.mappable = true) : lengthFits e e.ty.width = true := by
  unfold lengthFits
  cases hty : e.ty <;> simp_all [Ty.mappable]

theorem width_le_of_mappable {ty : Ty} (h : ty.mappable = true) : ty.width ≤ 8 := by
  cases ty <;> simp_all [Ty.mappable, Ty.width]

/-- The WRITE of a number whose turn comes at once is answered as its entry's rules judge it. -/
theorem writeNum_turn (h : WriteTurn s w idx sub) (he : TakesNumber idx sub e) :
    writeNum idx sub v w s =
      answerWrite w idx sub (leBytes e.ty.width v) s (applyWrite e idx sub (leBytes e.ty.width v) s) := by
  obtain ⟨hl, hb, hd, hh, hq, hk, hn⟩ := h
  have hw : writable e = true := by
    unfold writable
    rcases he.access with ha | ha <;> rw [ha] <;> rfl
  have ha : e.acc ≠ .rwc := by
    rcases he.access with ha | ha <;> rw [ha] <;> decide
  have ht : e.ty ≠ .domain := fun ht => by
    have hm := he.number
    rw [ht] at hm
    cases hm
  have hv := width_le_of_mappable he.number
  unfold writeNum writeBytes
  rw [he.found]
  dsimp only
  rw [write_turn s w idx sub _ e hl hb hd hh hq hk hn he.idx_lt he.sub_lt he.found hw ha ht he.ownLevel
    (by rw [leBytes_length]; exact lengthFits_width he.number) (by rw [leBytes_length]; omega)]
  rfl

/-- Below index 0x4000, the range of an entry is that of its row, but for two entries. -/
theorem inRange_row (h0 : idx ≠ 0x2000) (h1 : idx ≠ 0x1100) (h4 : idx < 0x4000) :
    inRange e idx sub v = (decide (e.lo ≤ v) && decide (v ≤ e.hi) && decide (v % max e.step 1 = 0)) := by
  unfold inRange
  rw [if_neg (by simp [h0]), if_neg (by simp [h1]), if_neg (by simp; omega), Bool.and_true]

theorem inRange_bool {a b i j : Nat} (h4 : idx < 0x2000 ∧ idx ≠ 0x1100 ∨ 0x2000 < idx ∧ idx < 0x4000) (hv : v ≤ 1) :
    inRange ⟨a, b, i, j, .bool, .rw, 0, 1, 1⟩ idx sub v = true := by
  rw [inRange_row (by omega) (by omega) (by omega)]
  simp [hv, Nat.mod_one]

theorem leNat_leBytes_of_lt {n : Nat} (hv : v < 256 ^ n) : leNat (leBytes n v) = v :=
  (leNat_leBytes n v).trans (Nat.mod_eq_of_lt hv)

theorem applyWrite_outOfRange (hm : e.ty.mappable = true) (hr : inRange e idx sub (leNat bytes) = false) :
    applyWrite e idx sub bytes s = .error .range := by
  unfold applyWrite
  exact if_pos (by rw [hm, hr]; rfl)

section
variable (hr : inRange e idx sub (leNat bytes) = true) (hb : e.ty = .bool → leNat bytes ≤ 1)
include hr hb

theorem applyWrite_cluster {k : Nat} (hk : k < 16) (hi : idx = 0x3480 + k) :
    applyWrite e idx sub bytes s = writeCluster k sub (leNat bytes) s := by
  subst hi
  unfold applyWrite
  rw [if_neg (by simp [hr]), if_neg (by simpa using hb), if_neg (by simp; omega), if_pos (by simp; omega),
    Nat.add_sub_cancel_left]

theorem applyWrite_window {l : Nat} (hl : l < 4) (hi : idx = 0x2410 + l) :
    applyWrite e idx sub bytes s = writeWindow l sub (leNat bytes) s := by
  subst hi
  unfold applyWrite
  rw [if_neg (by simp [hr]), if_neg (by simpa using hb), if_neg (by simp; omega), if_neg (by simp; omega),
    if_pos (by simp; omega), Nat.add_sub_cancel_left]

theorem applyWrite_zonePower {z : Nat} (hz : z < 16) (hi : idx = 0x1320 + z) :
    applyWrite e idx sub bytes s = writeZonePower z (leNat bytes) s := by
  subst hi
  unfold applyWrite
  rw [if_neg (by simp [hr]), if_neg (by simpa using hb), if_neg (by simp; omega), if_neg (by simp; omega),
    if_neg (by simp; omega), if_neg (by simp; omega), if_pos (by simp; omega), Nat.add_sub_cancel_left]

theorem applyWrite_moveBack {p : Nat} (hp : p < 2) (hi : idx = 0x2810 + p) (hs : sub = 6) :
    applyWrite e idx sub bytes s = writeMoveBack p (leNat bytes) s := by
  subst hi hs
  unfold applyWrite
  rw [if_neg (by simp [hr]), if_neg (by simpa using hb), if_neg (by simp; omega), if_neg (by simp; omega),
    if_neg (by simp; omega), if_neg (by simp; omega), if_neg (by simp; omega), if_neg (by simp; omega),
    if_pos (by simp; omega), Nat.add_sub_cancel_left]

end

end

/-! ### L2_ENABLE and PREFETCH_ENABLE (R224, R234, Table 10-4) -/

section
variable {s : State} {k : Nat}

theorem l2EnableWrite_busy {v : Nat} (h : l2State s k = 2) : l2EnableWrite k v s = none := if_pos h

theorem l2EnableWrite_same {v : Nat} (h : l2State s k = v) (hv : v ≤ 1) : l2EnableWrite k v s = some s := by
  unfold l2EnableWrite
  rw [if_neg (by omega), if_neg (by simp; omega), if_neg (by simp; omega)]

theorem l2EnableWrite_starts (h : l2State s k = 0) : l2EnableWrite k 1 s =
    some (clusterMod k (fun _ => {}) (odSet (0x3480 + k) 1 1 (odSet (0x3480 + k) 2 1 (odSet (0x3480 + k) 4 0 s)))) := by
  unfold l2EnableWrite
  rw [if_neg (by omega), if_pos (by simpa using h)]

theorem l2EnableWrite_drains (h : l2State s k = 1) : l2EnableWrite k 0 s =
    some (clusterMod k (fun c => { c with side := [] }) (odSet (0x3480 + k) 2 2 (odSet (0x3480 + k) 4 0 s))) := by
  unfold l2EnableWrite
  rw [if_neg (by omega), if_neg (by simp), if_pos (by simpa using h)]

end

section
variable {s : State} (k : Fin 16) (w : VdpWrite)

theorem l2Enable_takesNumber : TakesNumber (0x3480 + k.val) 1 ⟨0x3480, 0x348F, 1, 1, .bool, .rw, 0, 1, 1⟩ :=
  takesNumber_of_row (by decide) (Nat.le_add_right _ _) (by dsimp only; omega) (by decide) (by decide) (.inl rfl) rfl
    (by simp [pairLevel])

theorem prefetchEnable_takesNumber : TakesNumber (0x3480 + k.val) 3 ⟨0x3480, 0x348F, 3, 3, .bool, .rw, 0, 1, 1⟩ :=
  takesNumber_of_row (by decide) (Nat.le_add_right _ _) (by dsimp only; omega) (by decide) (by decide) (.inl rfl) rfl
    (by simp [pairLevel])

/-- A BOOL written to a cluster's entry is judged by the cluster's rules. -/
theorem writeNum_cluster {sub v : Nat} (h : WriteTurn s w (0x3480 + k.val) sub)
    (he : TakesNumber (0x3480 + k.val) sub ⟨0x3480, 0x348F, sub, sub, .bool, .rw, 0, 1, 1⟩) (hv : v ≤ 1) :
    writeNum (0x3480 + k.val) sub v w s =
      answerWrite w (0x3480 + k.val) sub (leBytes 1 v) s (writeCluster k.val sub v s) := by
  have hn : leNat (leBytes 1 v) = v := leNat_leBytes_of_lt (by omega)
  rw [writeNum_turn h he, Ty.width, applyWrite_cluster (inRange_bool (by omega) (hn.trans_le hv)) (fun _ => hn.trans_le hv) k.isLt
    rfl, hn]

theorem l2Enable_written {v : Nat} {t : State} (h : WriteTurn s w (0x3480 + k.val) 1) (hv : v ≤ 1)
    (ht : l2EnableWrite k.val v s = some t) :
    writeNum (0x3480 + k.val) 1 v w s = writeOk w (0x3480 + k.val) 1 (leBytes 1 v) t := by
  rw [writeNum_cluster k w h (l2Enable_takesNumber k) hv, writeCluster, if_pos rfl, ht]
  rfl

theorem l2Enable_busy {v : Nat} (h : WriteTurn s w (0x3480 + k.val) 1) (hv : v ≤ 1) (hst : l2State s k.val = 2) :
    writeNum (0x3480 + k.val) 1 v w s = writeNo w (0x3480 + k.val) 1 (leBytes 1 v) .busy s := by
  rw [writeNum_cluster k w h (l2Enable_takesNumber k) hv, writeCluster, if_pos rfl, l2EnableWrite_busy hst]
  rfl

theorem prefetchEnable_written {v : Nat} (h : WriteTurn s w (0x3480 + k.val) 3) (hv : v ≤ 1) :
    writeNum (0x3480 + k.val) 3 v w s = writeOk w (0x3480 + k.val) 3 (leBytes 1 v) (prefetchWrite k.val v s) := by
  rw [writeNum_cluster k w h (prefetchEnable_takesNumber k) hv, writeCluster, if_neg (by decide)]
  rfl

end

/-! ### HOST_WINDOW_BASE and HOST_WINDOW_LENGTH (R296) -/

section
variable {s : State} {l : Link} {len : Bool} {value : Nat} {w : VdpWrite}

/-- The subindex of HOST_WINDOW_LENGTH or of HOST_WINDOW_BASE (Table 14-10). -/
abbrev windowSub (len : Bool) : Nat := if len then 4 else 3

/-- The row of the host window's base or length. -/
abbrev windowEntry (len : Bool) : Entry :=
  ⟨0x2410, 0x2413, windowSub len, windowSub len, .u64, .rw, 0, 18446744073709551615, 1073741824⟩

theorem hostWindow_takesNumber (l : Link) (len : Bool) : TakesNumber (0x2410 + l.val) (windowSub len) (windowEntry len) := by
  refine takesNumber_of_row ?_ (Nat.le_add_right _ _) (by dsimp only; omega) (by dsimp only; decide) ?_ (.inl rfl)
    rfl (by simp [pairLevel]; omega)
  · cases len <;> decide
  · cases len <;> decide

theorem writeWindow_committed {k sub : Nat} (h : ∃ n < 8, (tget {} s.cx.hdm (k * 8 + n)).committed = true) :
    writeWindow k sub value s = .error .busy :=
  if_pos (by simpa [List.any_eq_true] using h)

theorem writeWindow_free {k sub : Nat} (h : ∀ n < 8, (tget {} s.cx.hdm (k * 8 + n)).committed = false) :
    writeWindow k sub value s = .ok (odSet (0x2410 + k) sub value s) :=
  if_neg (by simpa [List.any_eq_true] using h)

variable (h : WriteTurn s w (0x2410 + l.val) (windowSub len)) (hv : value < 2 ^ 64)
include h hv

theorem hostWindow_judged (hm : value % 2 ^ 30 = 0) :
    writeNum (0x2410 + l.val) (windowSub len) value w s =
      answerWrite w (0x2410 + l.val) (windowSub len) (leBytes 8 value) s (writeWindow l.val (windowSub len) value s) := by
  have hn : leNat (leBytes 8 value) = value := leNat_leBytes_of_lt hv
  have hr : inRange (windowEntry len) (0x2410 + l.val) (windowSub len) (leNat (leBytes 8 value)) = true := by
    rw [inRange_row (by omega) (by omega) (by omega), hn]
    simp; omega
  rw [writeNum_turn h (hostWindow_takesNumber l len), Ty.width, applyWrite_window hr (fun hb => by cases hb) l.isLt rfl, hn]

theorem hostWindow_unaligned (hm : value % 2 ^ 30 ≠ 0) :
    writeNum (0x2410 + l.val) (windowSub len) value w s =
      writeNo w (0x2410 + l.val) (windowSub len) (leBytes 8 value) .range s := by
  have hr : inRange (windowEntry len) (0x2410 + l.val) (windowSub len) (leNat (leBytes 8 value)) = false := by
    rw [inRange_row (by omega) (by omega) (by omega), leNat_leBytes_of_lt hv]
    simp; omega
  rw [writeNum_turn h (hostWindow_takesNumber l len), Ty.width, applyWrite_outOfRange rfl hr]
  rfl

end

/-! ### MOVE_BACK (R154) -/

section
variable {s : State} {p : Fin 2} {value : Nat} {w : VdpWrite}

theorem moveBack_takesNumber (p : Fin 2) : TakesNumber (0x2810 + p.val) 6 ⟨0x2810, 0x2811, 6, 6, .u8, .wo, 1, 1, 1⟩ :=
  takesNumber_of_row (by decide) (Nat.le_add_right _ _) (by dsimp only; omega) (by decide) (by decide) (.inr rfl) rfl
    (by simp [pairLevel])

variable (h : WriteTurn s w (0x2810 + p.val) 6)
include h

theorem moveBack_judged : writeNum (0x2810 + p.val) 6 1 w s =
    answerWrite w (0x2810 + p.val) 6 (leBytes 1 1) s (writeMoveBack p.val 1 s) := by
  have hn : leNat (leBytes 1 1) = 1 := leNat_leBytes_of_lt (by decide)
  have hr : inRange ⟨0x2810, 0x2811, 6, 6, .u8, .wo, 1, 1, 1⟩ (0x2810 + p.val) 6 (leNat (leBytes 1 1)) = true := by
    rw [inRange_row (by omega) (by omega) (by omega), hn]
    rfl
  rw [writeNum_turn h (moveBack_takesNumber p), Ty.width, applyWrite_moveBack hr (fun hb => by cases hb) p.isLt rfl rfl, hn]

theorem moveBack_otherValue (hv : value < 256) (h1 : value ≠ 1) :
    writeNum (0x2810 + p.val) 6 value w s = writeNo w (0x2810 + p.val) 6 (leBytes 1 value) .range s := by
  have hr : inRange ⟨0x2810, 0x2811, 6, 6, .u8, .wo, 1, 1, 1⟩ (0x2810 + p.val) 6 (leNat (leBytes 1 value)) = false := by
    rw [inRange_row (by omega) (by omega) (by omega), leNat_leBytes_of_lt hv]
    simp; omega
  rw [writeNum_turn h (moveBack_takesNumber p), Ty.width, applyWrite_outOfRange rfl hr]
  rfl

end

/-! ### ZONE_POWER (R459, R461) -/

section
variable {s : State} {z : Fin 16} {v : Nat} {w : VdpWrite}

theorem zonePower_takesNumber (z : Fin 16) : TakesNumber (0x1320 + z.val) 1 ⟨0x1320, 0x132F, 1, 1, .bool, .rw, 0, 1, 1⟩ :=
  takesNumber_of_row (by decide) (Nat.le_add_right _ _) (by dsimp only; omega) (by decide) (by decide) (.inl rfl) rfl
    (by simp [pairLevel])

variable (h : WriteTurn s w (0x1320 + z.val) 1) (hv : v ≤ 1)
include h hv

theorem zonePower_judged : writeNum (0x1320 + z.val) 1 v w s =
    answerWrite w (0x1320 + z.val) 1 (leBytes 1 v) s (writeZonePower z.val v s) := by
  have hn : leNat (leBytes 1 v) = v := leNat_leBytes_of_lt (by omega)
  rw [writeNum_turn h (zonePower_takesNumber z), Ty.width,
    applyWrite_zonePower (inRange_bool (by omega) (hn.trans_le hv)) (fun _ => hn.trans_le hv) z.isLt rfl, hn]

theorem zonePower_written (hm : s.mode = .run) : writeNum (0x1320 + z.val) 1 v w s =
    writeOk w (0x1320 + z.val) 1 (leBytes 1 v) (zonePowerTo z.val v s) := by
  rw [zonePower_judged h hv, writeZonePower, if_neg (not_not_intro hm), if_neg (by omega)]
  rfl

theorem zonePower_busy (hm : s.mode ≠ .run) : writeNum (0x1320 + z.val) 1 v w s =
    writeNo w (0x1320 + z.val) 1 (leBytes 1 v) .busy s := by
  rw [zonePower_judged h hv, writeZonePower, if_pos hm]
  rfl

end

/-- Settles O42, entry by entry: each WRITE reaches its entry's rules, and these take or refuse the value. -/
theorem unitWrites : Obligations.UnitWrites := by
  unfold Obligations.UnitWrites
  intro s k l p w value b len
  refine ⟨fun h => ⟨fun hoff => ?_, fun hon => ⟨?_, ?_⟩, fun hoff => ?_, fun hdrain => ⟨?_, ?_⟩⟩, fun h => ?_,
    fun h hv => ⟨fun hm hfree => ?_, fun hm hcom => ?_, fun hm => ?_⟩,
    fun h hv => ⟨fun h1 hready => ?_, fun h1 hst => ?_, fun h1 => ?_⟩,
    fun h => ⟨fun hm => ⟨?_, ?_⟩, fun hm => ⟨?_, ?_⟩⟩⟩
  · exact congrArg _ (l2Enable_written k w h (by decide) (l2EnableWrite_starts hoff))
  · exact congrArg _ (l2Enable_written k w h (by decide) (l2EnableWrite_same hon (by decide)))
  · exact congrArg _ (l2Enable_written k w h (by decide) (l2EnableWrite_drains hon))
  · exact congrArg _ (l2Enable_written k w h (by decide) (l2EnableWrite_same hoff (by decide)))
  · exact congrArg _ (l2Enable_busy k w h (by decide) hdrain)
  · exact congrArg _ (l2Enable_busy k w h (by decide) hdrain)
  · refine congrArg _ ((prefetchEnable_written k w h b.toNat_le).trans ?_)
    cases b <;> rfl
  · exact congrArg _ ((hostWindow_judged h hv hm).trans (by rw [writeWindow_free hfree]; rfl))
  · exact congrArg _ ((hostWindow_judged h hv hm).trans (by rw [writeWindow_committed hcom]; rfl))
  · exact congrArg _ (hostWindow_unaligned h hv hm)
  · subst h1
    refine congrArg _ ((moveBack_judged h).trans ?_)
    rw [writeMoveBack, if_neg (by decide), if_neg (not_not_intro hready)]
    rfl
  · subst h1
    refine congrArg _ ((moveBack_judged h).trans ?_)
    rw [writeMoveBack, if_neg (by decide), if_pos hst]
    rfl
  · exact congrArg _ (moveBack_otherValue h hv h1)
  · refine congrArg _ ((zonePower_written h (by decide) hm).trans ?_)
    simp [zonePowerTo]
  · refine congrArg _ ((zonePower_written h (by decide) hm).trans ?_)
    simp [zonePowerTo]
  · exact congrArg _ (zonePower_busy h (by decide) hm)
  · exact congrArg _ (zonePower_busy h (by decide) hm)

end Sys2Proof.Machine
end

section
/-! PROOFS. The CACHE instruction by address, by range and by set and way, and PREFETCH (R227 to R229, R235, Table 10-3). -/

namespace Sys2Proof.Machine

/-! ### What a line operation leaves of the L1Ds (R227) -/

theorem core_l1Drop (k line : Nat) (s : State) (d : CoreId) : core (l1Drop k line s) d =
    if clusterOf d = k then { core s d with l1d := (core s d).l1d.filter fun e => e.2.line / 2 ≠ line } else core s d := by
  have hmap : (l1Drop k line s).cores = s.cores.map fun e => (e.1, if e.1 / 8 = k then
      { e.2 with l1d := e.2.l1d.filter fun x => x.2.line / 2 ≠ line } else e.2) :=
    List.map_congr_left fun e _ => by
      dsimp only
      split <;> rfl
  unfold core tget clusterOf
  rw [hmap, tfind_map_id]
  cases tfind s.cores d.val
  · dsimp only [Option.map_none]
    split <;> rfl
  · rfl

theorem l1d_lineOp {op : LineOp} (hop : op ≠ .clean) {k : Nat} {d : CoreId} (hd : clusterOf d = k) (line : Nat) (s : State) :
    ∀ e ∈ (core (lineOp op k line s) d).l1d, e.2.line / 2 ≠ line := by
  have hlast : ∃ t, lineOp op k line s = l1Drop k line t := by
    cases op
    · exact absurd rfl hop
    · exact ⟨_, rfl⟩
    · exact ⟨_, rfl⟩
  obtain ⟨t, ht⟩ := hlast
  intro e he
  rw [ht, core_l1Drop, if_pos hd] at he
  simpa using (List.mem_filter.mp he).2

theorem l1d_ran (c d : CoreId) (s t : State) : (core (ran c s t) d).l1d = (core t d).l1d := by
  by_cases h : c = d
  · subst h
    rw [core_ran]
  · unfold ran ranTo retireAt odBump odAdd
    rw [core_odSet, core_coreMod_ne c d _ _ h]

/-! ### The tag check before an operation (Table 10-2) -/

section
variable {s u v : State} {c : CoreId} {set : Nat} {x : Trap} {go : State → CoreEnd}

theorem afterTags_clear (h : lookTags c set u = (v, none)) : afterTags c set go u = go v := by
  unfold afterTags
  rw [h]

theorem afterTags_lost (h : lookTags c set u = (v, some x)) : afterTags c set go u = .trap x v := by
  unfold afterTags
  rw [h]

theorem belowS_fetchTouch (s : State) (c : CoreId) : belowS (fetchTouch c s) c = decide (coreLevel s c = .t) := by
  unfold belowS
  rw [coreLevel_fetchTouch]

end

/-! ### Operations by address (R227) -/

section
variable {s : State} {c : CoreId} (h : CoreClear s c) {ra rl : Reg} {op : LineOp} {needS : Bool} {code : Reg}

theorem levelFits (hl : needS = true → coreLevel s c ≠ .t) : (needS && belowS (fetchTouch c s) c) = false := by
  rw [belowS_fetchTouch]
  cases needS
  · rfl
  · exact decide_eq_false (hl rfl)

include h

theorem runLine_below (hl : coreLevel s c = .t) :
    runLine c ra op true code s = tookTrap c s { vec := 5, val := (encCache code ra 0).setWidth 64 } :=
  runCore_clear_traps h (if_pos (by rw [belowS_fetchTouch, hl]; rfl))

section
variable (hl : needS = true → coreLevel s c ≠ .t)
include hl

theorem runLine_line {line : Nat} (hline : cacheLine (fetchTouch c s) c .write (gGet s c ra).toNat = .ok (some line)) :
    runLine c ra op needS code s = coreEnds c s
      (afterTags c (l2Set line) (fun s => .retire (lineOp op (clusterOf c) line s)) (fetchTouch c s)) := by
  refine runCore_clear h ?_
  rw [levelFits hl, gGet_fetchTouch, hline]
  rfl

theorem runLine_tile (hline : cacheLine (fetchTouch c s) c .write (gGet s c ra).toNat = .ok none) :
    runLine c ra op needS code s = ran c s (fetchTouch c s) := by
  refine runCore_clear_retires h ?_
  rw [levelFits hl, gGet_fetchTouch, hline]
  rfl

theorem runLine_raises {x : Trap} (hline : cacheLine (fetchTouch c s) c .write (gGet s c ra).toNat = .error x) :
    runLine c ra op needS code s = tookTrap c s x := by
  refine runCore_clear_traps h ?_
  rw [levelFits hl, gGet_fetchTouch, hline]
  rfl

theorem runLine_clear {line : Nat} {v : State}
    (hline : cacheLine (fetchTouch c s) c .write (gGet s c ra).toNat = .ok (some line))
    (ht : lookTags c (l2Set line) (fetchTouch c s) = (v, none)) :
    runLine c ra op needS code s = ran c s (lineOp op (clusterOf c) line v) := by
  rw [runLine_line h hl hline, afterTags_clear ht]
  rfl

theorem runLine_lost {line : Nat} {v : State} {x : Trap}
    (hline : cacheLine (fetchTouch c s) c .write (gGet s c ra).toNat = .ok (some line))
    (ht : lookTags c (l2Set line) (fetchTouch c s) = (v, some x)) :
    runLine c ra op needS code s = instrTrap c (core s c).pc x v := by
  rw [runLine_line h hl hline, afterTags_lost ht]
  rfl

end

end

/-! ### Operations by range (R228, R229) -/

section
variable {s v : State} {c : CoreId} {ra rl : Reg} {op : LineOp} {fuel a stop line : Nat} {x : Trap}

theorem rangeLines_empty (h : stop ≤ a) :
    rangeLines c ra rl op (fuel + 1) a stop s = .retire (rangeRegs c ra rl stop 0 s) := if_pos h

theorem rangeLines_last (h : a < stop) (hstop : stop ≤ (a / 128 + 1) * 128) (hline : cacheLine s c .write a = .ok (some line))
    (ht : lookTags c (l2Set line) s = (v, none)) :
    rangeLines c ra rl op (fuel + 1) a stop s = .retire (rangeRegs c ra rl stop 0 (lineOp op (clusterOf c) line v)) := by
  unfold rangeLines
  rw [if_neg (by omega), hline]
  dsimp only
  rw [ht]
  exact if_pos hstop

theorem rangeLines_lost (h : a < stop) (hline : cacheLine s c .write a = .ok (some line))
    (ht : lookTags c (l2Set line) s = (v, some x)) :
    rangeLines c ra rl op (fuel + 1) a stop s = .trap x (rangeRegs c ra rl a (stop - a) v) := by
  unfold rangeLines
  rw [if_neg (by omega), hline]
  dsimp only
  rw [ht]

end

section
variable {s v : State} {c : CoreId} (h : CoreClear s c) {ra rl : Reg} {op : LineOp} {needS : Bool} {code : Reg}
include h

theorem runRange_below (hl : coreLevel s c = .t) :
    runRange c ra rl op true code s = tookTrap c s { vec := 5, val := (encCache code ra rl).setWidth 64 } :=
  runCore_clear_traps h (if_pos (by rw [belowS_fetchTouch, hl]; rfl))

variable (hl : needS = true → coreLevel s c ≠ .t)
include hl

theorem runRange_ends : runRange c ra rl op needS code s = coreEnds c s
    (rangeLines c ra rl op 16 (gGet s c ra).toNat ((gGet s c ra).toNat + (gGet s c rl).toNat) (fetchTouch c s)) := by
  refine runCore_clear h ?_
  rw [levelFits hl, gGet_fetchTouch, gGet_fetchTouch]
  rfl

theorem runRange_empty (hn : (gGet s c rl).toNat = 0) : runRange c ra rl op needS code s =
    ran c s (rangeRegs c ra rl (gGet s c ra).toNat 0 (fetchTouch c s)) := by
  rw [runRange_ends h hl, hn, Nat.add_zero, rangeLines_empty (Nat.le_refl _)]
  rfl

variable (hn : 0 < (gGet s c rl).toNat) {line : Nat}
  (hline : cacheLine (fetchTouch c s) c .write (gGet s c ra).toNat = .ok (some line))
include hn hline

theorem runRange_within (hstop : (gGet s c ra).toNat % 128 + (gGet s c rl).toNat ≤ 128)
    (ht : lookTags c (l2Set line) (fetchTouch c s) = (v, none)) : runRange c ra rl op needS code s =
      ran c s (rangeRegs c ra rl ((gGet s c ra).toNat + (gGet s c rl).toNat) 0 (lineOp op (clusterOf c) line v)) := by
  rw [runRange_ends h hl, rangeLines_last (by omega) (by omega) hline ht]
  rfl

theorem runRange_lost {x : Trap} (ht : lookTags c (l2Set line) (fetchTouch c s) = (v, some x)) :
    runRange c ra rl op needS code s =
      instrTrap c (core s c).pc x (rangeRegs c ra rl (gGet s c ra).toNat (gGet s c rl).toNat v) := by
  rw [runRange_ends h hl, rangeLines_lost (by omega) hline ht, Nat.add_sub_cancel_left]
  rfl

end

/-! ### Operations by set and way (R184, R228, R235) -/

section
variable {s v : State} {c : CoreId} (h : CoreClear s c) {ra rl : Reg} {op : LineOp} {code : Reg}
include h

theorem runSetWay_reserved (hv : 65536 ≤ (gGet s c rl).toNat) : runSetWay c ra rl op code s =
    tookTrap c s { vec := 4, val := (encCache code ra rl).setWidth 64 } :=
  runCore_clear_traps h (if_pos (by rwa [gGet_fetchTouch]))

variable (hv : (gGet s c rl).toNat < 65536)
include hv

theorem runSetWay_below (hl : coreLevel s c = .t) : runSetWay c ra rl op code s =
    tookTrap c s { vec := 5, val := (encCache code ra rl).setWidth 64 } := by
  refine runCore_clear_traps h ?_
  rw [gGet_fetchTouch, if_neg (by omega), belowS_fetchTouch, hl]
  rfl

variable (hl : coreLevel s c ≠ .t)
include hl

theorem runSetWay_off (hoff : l2State (fetchTouch c s) (clusterOf c) = 0) : runSetWay c ra rl op code s =
    ran c s (l1SetWay op (clusterOf c) (gGet s c rl).toNat (fetchTouch c s)) := by
  refine runCore_clear_retires h ?_
  rw [gGet_fetchTouch, if_neg (by omega), belowS_fetchTouch, decide_eq_false hl, if_neg Bool.false_ne_true, if_pos hoff]

variable (hon : l2State (fetchTouch c s) (clusterOf c) ≠ 0)
include hon

theorem runSetWay_looked : runSetWay c ra rl op code s = coreEnds c s (afterTags c ((gGet s c rl).toNat / 16)
    (fun t => .retire (l2LineOp op (clusterOf c) ((gGet s c rl).toNat / 16) ((gGet s c rl).toNat % 16) t)) (fetchTouch c s)) := by
  refine runCore_clear h ?_
  rw [gGet_fetchTouch, if_neg (by omega), belowS_fetchTouch, decide_eq_false hl, if_neg Bool.false_ne_true, if_neg hon]

theorem runSetWay_clear (ht : lookTags c ((gGet s c rl).toNat / 16) (fetchTouch c s) = (v, none)) : runSetWay c ra rl op code s =
    ran c s (l2LineOp op (clusterOf c) ((gGet s c rl).toNat / 16) ((gGet s c rl).toNat % 16) v) := by
  rw [runSetWay_looked h hv hl hon, afterTags_clear ht]
  rfl

theorem runSetWay_lost {x : Trap} (ht : lookTags c ((gGet s c rl).toNat / 16) (fetchTouch c s) = (v, some x)) :
    runSetWay c ra rl op code s = instrTrap c (core s c).pc x v := by
  rw [runSetWay_looked h hv hl hon, afterTags_lost ht]
  rfl

end

/-! ### PREFETCH (R227, R234, R235) -/

section
variable {s v : State} {c : CoreId} (h : CoreClear s c) {ra : Reg}
include h

theorem prefetch_noLine (hno : ∀ p, cacheLine (fetchTouch c s) c .read (gGet s c ra).toNat ≠ .ok (some p)) :
    exec (.prefetch c ra) s = .next (ran c s (fetchTouch c s)) := by
  refine congrArg _ (runCore_clear_retires h ?_)
  rw [gGet_fetchTouch]
  dsimp only
  cases hc : cacheLine (fetchTouch c s) c .read (gGet s c ra).toNat with
  | error x => rfl
  | ok l =>
    cases l with
    | none => rfl
    | some p => exact absurd hc (hno p)

variable {p : Nat} (hp : cacheLine (fetchTouch c s) c .read (gGet s c ra).toNat = .ok (some p))
include hp

theorem prefetch_unanswered
    (hf : channelFailed (fetchTouch c s) (p * 128) = true ∨ l2State (fetchTouch c s) (clusterOf c) = 2) :
    exec (.prefetch c ra) s = .next (ran c s (fetchTouch c s)) := by
  refine congrArg _ (runCore_clear_retires h ?_)
  rw [gGet_fetchTouch]
  dsimp only
  rw [hp]
  exact if_pos (by simpa using hf)

variable (hf : channelFailed (fetchTouch c s) (p * 128) = false)
include hf

theorem prefetch_off (hoff : l2State (fetchTouch c s) (clusterOf c) = 0) : exec (.prefetch c ra) s =
    .next (ran c s (l1Load c false (2 * p + (gGet s c ra).toNat / 64 % 2) false (fetchTouch c s))) := by
  refine congrArg _ (runCore_clear_retires h ?_)
  rw [gGet_fetchTouch]
  dsimp only
  rw [hp]
  dsimp only
  rw [hf, if_neg (by simp [hoff]), if_pos hoff]

theorem prefetch_on (hon : l2State (fetchTouch c s) (clusterOf c) = 1) : exec (.prefetch c ra) s =
    .next (coreEnds c s (afterTags c (l2Set p) (fun s => .retire (l2Access c p 15 15 1 s)) (fetchTouch c s))) := by
  refine congrArg _ (runCore_clear h ?_)
  rw [gGet_fetchTouch]
  dsimp only
  rw [hp]
  dsimp only
  rw [hf, if_neg (by simp [hon]), if_neg (by omega)]

end

/-- Settles O27, operation by operation: the level and the registers are checked, the address names a line or none, and the
tags of its set are checked before the line is operated on. -/
theorem cacheLineInstructions : Obligations.CacheLineInstructions := by
  unfold Obligations.CacheLineInstructions
  intro s u c ra rl line h hu
  subst hu
  have any : false = true → coreLevel s c ≠ .t := fun hf => by cases hf
  refine ⟨fun hline => ⟨fun v ht => ?_, fun v x ht => ?_⟩, fun hline => ?_, fun x hline => ?_, fun hn => ?_,
    fun hl hv hon => ⟨fun v ht => ?_, fun v x ht => ?_⟩, fun hl hv hoff => ?_, fun hv => ?_, fun hl => ?_,
    fun p hp => ?_, fun hno => prefetch_noLine h hno⟩
  · refine ⟨congrArg _ (runLine_clear h any hline ht), congrArg _ (runLine_clear h any hline ht),
      fun hl => congrArg _ (runLine_clear h (fun _ => hl) hline ht), fun d hd => ?_, fun hn hstop =>
        ⟨congrArg _ (runRange_within h any hn hline hstop ht), congrArg _ (runRange_within h any hn hline hstop ht),
          fun hl => congrArg _ (runRange_within h (fun _ => hl) hn hline hstop ht)⟩⟩
    rw [l1d_ran, l1d_ran]
    exact ⟨l1d_lineOp (by decide) hd line v, l1d_lineOp (by decide) hd line v⟩
  · refine ⟨congrArg _ (runLine_lost h any hline ht), congrArg _ (runLine_lost h any hline ht),
      fun hl => congrArg _ (runLine_lost h (fun _ => hl) hline ht), fun hn w hw => ?_⟩
    subst hw
    exact ⟨congrArg _ (runRange_lost h any hn hline ht), congrArg _ (runRange_lost h any hn hline ht),
      fun hl => congrArg _ (runRange_lost h (fun _ => hl) hn hline ht)⟩
  · exact ⟨congrArg _ (runLine_tile h any hline), congrArg _ (runLine_tile h any hline),
      fun hl => congrArg _ (runLine_tile h (fun _ => hl) hline)⟩
  · exact ⟨congrArg _ (runLine_raises h any hline), congrArg _ (runLine_raises h any hline)⟩
  · exact ⟨congrArg _ (runRange_empty h any hn), congrArg _ (runRange_empty h any hn),
      fun hl => congrArg _ (runRange_empty h (fun _ => hl) hn)⟩
  · exact ⟨congrArg _ (runSetWay_clear h hv hl hon ht), congrArg _ (runSetWay_clear h hv hl hon ht),
      congrArg _ (runSetWay_clear h hv hl hon ht)⟩
  · exact ⟨congrArg _ (runSetWay_lost h hv hl hon ht), congrArg _ (runSetWay_lost h hv hl hon ht),
      congrArg _ (runSetWay_lost h hv hl hon ht)⟩
  · exact ⟨congrArg _ (runSetWay_off h hv hl hoff), congrArg _ (runSetWay_off h hv hl hoff),
      congrArg _ (runSetWay_off h hv hl hoff)⟩
  · exact ⟨congrArg _ (runSetWay_reserved h hv), congrArg _ (runSetWay_reserved h hv), congrArg _ (runSetWay_reserved h hv)⟩
  · exact ⟨congrArg _ (runLine_below h hl), congrArg _ (runRange_below h hl), fun hv =>
      ⟨congrArg _ (runSetWay_below h hv hl), congrArg _ (runSetWay_below h hv hl), congrArg _ (runSetWay_below h hv hl)⟩⟩
  · refine ⟨fun hf hon => ⟨fun v ht => ?_, fun v x ht => ?_⟩, fun hf hoff => prefetch_off h hp hf hoff,
      fun hf => prefetch_unanswered h hp hf⟩
    · rw [prefetch_on h hp hf hon, afterTags_clear ht]
      rfl
    · rw [prefetch_on h hp hf hon, afterTags_lost ht]
      rfl

end Sys2Proof.Machine
end

section
/-! PROOFS. LOCKSET, LOCKFILL and the end of a drain (R231, R232, R234, Table 10-4). -/

namespace Sys2Proof.Machine

/-! ### LOCKSET (R231) -/

/-- The lines of the ways that a new mask unlocks, at age 3. -/
theorem unlockLines_eq (k mask : Nat) (s : State) : unlockLines k mask s = clusterMod k (fun x => { x with
    l2 := x.l2.map fun e => if (lockWays s k).testBit (e.1 % 16) = true ∧ mask.testBit (e.1 % 16) = false
      then (e.1, { e.2 with age := 3 }) else e }) s := by
  unfold unlockLines
  simp only [Bool.and_eq_true, Bool.not_eq_true']

section
variable {s : State} {c : CoreId} (h : CoreClear s c) {ra rl : Reg}
include h

theorem lockset_reserved (hv : 32768 ≤ (gGet s c rl).toNat) : exec (.lockset c ra rl) s =
    .next (tookTrap c s { vec := 4, val := (encCache 13 ra rl).setWidth 64 }) :=
  congrArg _ (runCore_clear_traps h (if_pos (by rwa [gGet_fetchTouch])))

theorem lockset_below (hv : (gGet s c rl).toNat < 32768) (hl : coreLevel s c = .t) : exec (.lockset c ra rl) s =
    .next (tookTrap c s { vec := 5, val := (encCache 13 ra rl).setWidth 64 }) := by
  refine congrArg _ (runCore_clear_traps h ?_)
  rw [gGet_fetchTouch, if_neg (by omega), belowS_fetchTouch, hl]
  rfl

theorem lockset_sets (hv : (gGet s c rl).toNat < 32768) (hl : coreLevel s c ≠ .t) : exec (.lockset c ra rl) s =
    .next (ran c s (odSet (0x3480 + clusterOf c) 4 (gGet s c rl).toNat
      (unlockLines (clusterOf c) (gGet s c rl).toNat (fetchTouch c s)))) := by
  refine congrArg _ (runCore_clear_retires h ?_)
  rw [gGet_fetchTouch, if_neg (by omega), belowS_fetchTouch, decide_eq_false hl, if_neg Bool.false_ne_true]

end

/-! ### The status of LOCKFILL (R232) -/

section
variable {v : State} {k line : Nat}

theorem lockFill_notOn (h : l2State v k ≠ 1) : lockFill k line v = (3, v) := if_pos h

section
variable (hon : l2State v k = 1)
include hon

theorem lockFill_noWays (hlock : lockWays v k = 0) : lockFill k line v = (2, v) :=
  (if_neg (not_not_intro hon)).trans (if_pos hlock)

variable (hlock : lockWays v k ≠ 0)
include hlock

theorem lockFill_held {w : Nat} (hw : l2Way (cluster v k) line = some w) (hbit : (lockWays v k).testBit w = true) :
    lockFill k line v = (0, v) :=
  (if_neg (not_not_intro hon)).trans ((if_neg hlock).trans (if_pos (by rw [hw]; exact hbit)))

theorem lockFill_full (hfree : ∀ w, l2Way (cluster v k) line = some w → (lockWays v k).testBit w = false)
    (hfull : ∀ w < 16, (lockWays v k).testBit w = true → (l2At (cluster v k) (l2Set line) w).isSome = true) :
    lockFill k line v = (1, v) := by
  have hhere : ((l2Way (cluster v k) line).any fun w => (lockWays v k).testBit w) = false := by
    cases hw : l2Way (cluster v k) line with
    | none => rfl
    | some w => exact hfree w hw
  have hnone : ((List.range 16).find? fun w => (lockWays v k).testBit w && (l2At (cluster v k) (l2Set line) w).isNone) =
      none := by
    rw [List.find?_eq_none]
    intro w hw
    simpa [Option.isSome_iff_ne_none] using hfull w (List.mem_range.mp hw)
  unfold lockFill
  dsimp only
  rw [if_neg (not_not_intro hon), if_neg hlock, hhere, if_neg Bool.false_ne_true, hnone]

end

/-- A line that the L2 does not hold enters a locked way: it is fetched whole, and leaves the side buffer. -/
def lockedIn (k line w : Nat) (s : State) : State :=
  l2Put k (l2Set line) w { line := line, valid := 15, age := 1 }
    (clusterMod k (fun x => { x with side := x.side.filter (· ≠ line) })
      ((sectorsIn 15).foldl (fun s i => requestBursts (clusterPort k) (line * 128 + i * 32) 32 false s) s))

theorem lockFill_fills {w : Nat} (hon : l2State v k = 1) (hlock : lockWays v k ≠ 0) (hw : w < 16)
    (hmiss : l2Way (cluster v k) line = none) (hbit : (lockWays v k).testBit w = true)
    (hinv : l2At (cluster v k) (l2Set line) w = none)
    (hlow : ∀ e < w, (lockWays v k).testBit e = true → (l2At (cluster v k) (l2Set line) e).isSome = true) :
    lockFill k line v = (0, lockedIn k line w v) := by
  have hfind : ((List.range 16).find? fun w => (lockWays v k).testBit w && (l2At (cluster v k) (l2Set line) w).isNone) =
      some w := by
    rw [List.find?_range_eq_some]
    exact ⟨by simp [hbit, hinv], List.mem_range.mpr hw, fun e he => by
      simpa [← Bool.not_eq_true, imp_iff_not_or] using hlow e he⟩
  unfold lockFill
  dsimp only
  rw [if_neg (not_not_intro hon), if_neg hlock, hmiss]
  dsimp only [Option.any]
  rw [if_neg Bool.false_ne_true, hfind]
  rfl

theorem lockFetches_of_status (h : (lockFill k line v).1 ≠ 0) : lockFetches v k line = false := by
  unfold lockFetches
  rw [decide_eq_false h, Bool.false_and]

theorem lockFetches_held {w : Nat} (hw : l2Way (cluster v k) line = some w) (hbit : (lockWays v k).testBit w = true) :
    lockFetches v k line = false := by
  unfold lockFetches
  rw [hw]
  dsimp only
  rw [hbit]
  exact Bool.and_false _

theorem lockFetches_miss (h : (lockFill k line v).1 = 0) (hmiss : l2Way (cluster v k) line = none) :
    lockFetches v k line = true := by
  unfold lockFetches
  rw [decide_eq_true h, hmiss]
  rfl

end

/-! ### LOCKFILL (R232) -/

/-- How LOCKFILL ends once the tags of the line's set are checked: a fetch that it needs may have no answer. -/
def lockfillEnd (c : CoreId) (rl : Reg) (a line : Nat) (v : State) : CoreEnd :=
  if channelFailed v (line * 128) && lockFetches v (clusterOf c) line then .trap { vec := 13, val := BitVec.ofNat 64 a } v
  else .retire (gSet c rl (BitVec.ofNat 64 (lockFill (clusterOf c) line v).1) (lockFill (clusterOf c) line v).2)

section
variable {s v : State} {c : CoreId} (h : CoreClear s c) {ra rl : Reg}
include h

theorem lockfill_below (hl : coreLevel s c = .t) : exec (.lockfill c ra rl) s =
    .next (tookTrap c s { vec := 5, val := (encCache 12 ra rl).setWidth 64 }) :=
  congrArg _ (runCore_clear_traps h (if_pos (by rw [belowS_fetchTouch, hl]; rfl)))

variable (hl : coreLevel s c ≠ .t) {line : Nat}
  (hline : cacheLine (fetchTouch c s) c .read (gGet s c ra).toNat = .ok (some line))
include hl hline

theorem lockfill_line : exec (.lockfill c ra rl) s =
    .next (coreEnds c s (afterTags c (l2Set line) (lockfillEnd c rl (gGet s c ra).toNat line) (fetchTouch c s))) := by
  refine congrArg _ (runCore_clear h ?_)
  rw [gGet_fetchTouch, belowS_fetchTouch, decide_eq_false hl]
  dsimp only
  rw [if_neg Bool.false_ne_true, hline]
  rfl

theorem lockfill_lost {x : Trap} (ht : lookTags c (l2Set line) (fetchTouch c s) = (v, some x)) :
    exec (.lockfill c ra rl) s = .next (instrTrap c (core s c).pc x v) := by
  rw [lockfill_line h hl hline, afterTags_lost ht]
  rfl

variable (ht : lookTags c (l2Set line) (fetchTouch c s) = (v, none))
include ht

theorem lockfill_unanswered (hf : channelFailed v (line * 128) = true) (hneed : lockFetches v (clusterOf c) line = true) :
    exec (.lockfill c ra rl) s = .next (instrTrap c (core s c).pc { vec := 13, val := gGet s c ra } v) := by
  rw [lockfill_line h hl hline, afterTags_clear ht, lockfillEnd, hf, hneed, BitVec.ofNat_toNat, BitVec.setWidth_eq]
  rfl

theorem lockfill_status {n : Nat} {t : State} (hfill : lockFill (clusterOf c) line v = (n, t))
    (hf : channelFailed v (line * 128) = false ∨ lockFetches v (clusterOf c) line = false) :
    exec (.lockfill c ra rl) s = .next (ran c s (gSet c rl (BitVec.ofNat 64 n) t)) := by
  rw [lockfill_line h hl hline, afterTags_clear ht, lockfillEnd, if_neg (by rcases hf with hf | hf <;> simp [hf]), hfill]
  rfl

/-- A status that leaves the L2 as it is needs no fetch. -/
theorem lockfill_refused {n : Nat} (hfill : lockFill (clusterOf c) line v = (n, v)) (hn : n ≠ 0) :
    exec (.lockfill c ra rl) s = .next (ran c s (gSet c rl (BitVec.ofNat 64 n) v)) :=
  lockfill_status h hl hline ht hfill (.inr (lockFetches_of_status (by rwa [hfill])))

end

/-! ### The end of a drain (R234, Table 10-4) -/

theorem l2DrainDone_leaves (k : Nat) (s : State) : cluster (l2DrainDone k s) k = {} ∧ l2State (l2DrainDone k s) k = 0 ∧
    od (l2DrainDone k s) (0x3480 + k) 1 = 0 ∧ lockWays (l2DrainDone k s) k = 0 := by
  have key (i j : Nat) (hi : i < 256) (hj : j < 256) (hne : i ≠ j) : odKey (0x3480 + k) i ≠ odKey (0x3480 + k) j :=
    fun he => hne (odKey_inj hi hj he).2
  unfold l2DrainDone l2State lockWays
  dsimp only
  refine ⟨?_, ?_, od_odSet_self .., ?_⟩
  · simp only [cluster, odSet_clusters]
    exact cluster_clusterMod_self k _ _
  · rw [od_odSet_ne _ _ _ _ _ _ (key 1 2 (by decide) (by decide) (by decide)), od_odSet_self]
  · rw [od_odSet_ne _ _ _ _ _ _ (key 1 4 (by decide) (by decide) (by decide)),
      od_odSet_ne _ _ _ _ _ _ (key 2 4 (by decide) (by decide) (by decide)), od_odSet_self]

/-- Settles O28: LOCKSET by its register and level, LOCKFILL by the status of its line, and the end of a drain. -/
theorem wayLockingAndDrain : Obligations.WayLockingAndDrain := by
  unfold Obligations.WayLockingAndDrain
  intro s u c ra rl line k h hu
  subst hu
  refine ⟨fun hl hv => ?_, fun hv => lockset_reserved h hv,
    fun hl => ⟨fun hv => lockset_below h hv hl, lockfill_below h hl⟩,
    fun hl hline v => ⟨fun x ht => lockfill_lost h hl hline ht,
      fun ht => ⟨fun hoff => ?_, fun hon hlock => ?_, fun hon hlock => ?_⟩⟩,
    fun hd => ?_, fun hd => congrArg _ (if_neg hd)⟩
  · exact ⟨_, lockset_sets h hv hl, od_odSet_self .., congrArg _ (unlockLines_eq ..)⟩
  · exact lockfill_refused h hl hline ht (lockFill_notOn hoff) (by decide)
  · exact lockfill_refused h hl hline ht (lockFill_noWays hon hlock) (by decide)
  · refine ⟨fun w hw hbit => ?_, fun hfree hfull => ?_, fun w hw hmiss hbit hinv hlow => ?_⟩
    · exact lockfill_status h hl hline ht (lockFill_held hon hlock hw hbit) (.inr (lockFetches_held hw hbit))
    · exact lockfill_refused h hl hline ht (lockFill_full hon hlock hfree hfull) (by decide)
    · have hfill := lockFill_fills hon hlock hw hmiss hbit hinv hlow
      exact ⟨fun hf => lockfill_unanswered h hl hline ht hf (lockFetches_miss (by rw [hfill]) hmiss),
        fun hf => lockfill_status h hl hline ht hfill (.inl hf)⟩
  · exact ⟨_, congrArg Host.Outcome.next (if_pos hd), l2DrainDone_leaves k.val s⟩

end Sys2Proof.Machine
end

section
/-! PROOFS. Event flags: WAIT, SIGNAL, DELAY and CLEAR, the expiry of waits and delays, and the idle step (R245, R250 to R253,
Table 11-5). -/

namespace Sys2Proof.Machine

/-! ### The task of one slot changes -/

theorem taskBecomes_self {s : State} {slot : Nat} {t : Task} (ht : taskAt s slot = some t) : TaskBecomes s s slot t :=
  ⟨ht, fun _ _ => rfl⟩

theorem TaskBecomes.of_tasks {s u v : State} {slot : Nat} {t : Task} (h : TaskBecomes s u slot t)
    (hv : v.js.tasks = u.js.tasks) : TaskBecomes s v slot t :=
  ⟨(taskAt_of_tasks hv slot).trans h.1, fun k hk => (taskAt_of_tasks hv k).trans (h.2 k hk)⟩

theorem TaskBecomes.taskMod {s u : State} {slot : Nat} {t : Task} (h : TaskBecomes s u slot t) (f : Task → Task) :
    TaskBecomes s (taskMod slot f u) slot (f t) :=
  ⟨by rw [taskAt_taskMod_self, h.1]; rfl, fun k hk => (taskAt_taskMod_ne _ _ _ _ hk).trans (h.2 k hk)⟩

section
variable {s : State} {slot : Nat} {t : Task} (ht : taskAt s slot = some t)
include ht

theorem taskBecomes_wakeTask : TaskBecomes s (wakeTask slot s) slot (wokenTask s t) :=
  ((taskBecomes_self ht).taskMod _).of_tasks (wakeTask_tasks slot s)

/-- A task that leaves RUNNING changes in its own slot alone. -/
theorem taskBecomes_leaveRunning (f : Task → Task) : TaskBecomes s (taskMod slot f (leaveRunning t s)) slot (f t) :=
  ((taskBecomes_self ht).of_tasks (leaveRunning_tasks t s)).taskMod f

/-! ### WAIT and DELAY (R251, R252) -/

theorem wait_met {n : Nat} {mask : BitVec 32} {all : Bool} (hr : isRunning t = true) (hn : n ≤ 16777216)
    (hm : waitMet t.flags mask all = true) :
    exec (.wait slot mask all n) s = .next (taskMod slot (fun t => { t with flags := t.flags &&& ~~~ mask }) s) := by
  change execWait slot mask all n s = _
  simp [execWait, ht, hr, hm, maxTicks, Nat.not_lt.mpr hn]

theorem wait_unmet {n : Nat} {mask : BitVec 32} {all : Bool} (hr : isRunning t = true) (hn : n ≤ 16777216)
    (hm : waitMet t.flags mask all = false) :
    exec (.wait slot mask all n) s = .next (taskMod slot (fun t =>
      { t with run := .waiting, waitMask := mask, waitAll := all, stopping := false, lost := none
               wakeAt := if n = 0 then none else some (ticks s + n) }) (leaveRunning t s)) := by
  change execWait slot mask all n s = _
  simp [execWait, ht, hr, hm, maxTicks, Nat.not_lt.mpr hn]

theorem wait_refused {n : Nat} {mask : BitVec 32} {all : Bool} (h : isRunning t = false ∨ 16777216 < n) :
    exec (.wait slot mask all n) s = .next s := by
  change execWait slot mask all n s = _
  rcases h with h | h <;> simp [execWait, ht, h, maxTicks]

theorem delay_starts {n : Nat} (hr : isRunning t = true) (hn : n ≤ 16777216) (h0 : n ≠ 0) :
    exec (.delay slot n) s = .next (taskMod slot (fun t =>
      { t with run := .delayed, wakeAt := some (ticks s + n), stopping := false }) (leaveRunning t s)) := by
  change execDelay slot n s = _
  simp [execDelay, ht, hr, h0, maxTicks, Nat.not_lt.mpr hn]

theorem delay_refused {n : Nat} (h : isRunning t = false ∨ n = 0 ∨ 16777216 < n) : exec (.delay slot n) s = .next s := by
  change execDelay slot n s = _
  rcases h with h | h | h <;> simp [execDelay, ht, h, maxTicks]

/-! ### SIGNAL (R251, R253) -/

theorem signal_arrives {sender : Option Nat} {mask : BitVec 32} (hr : t.run ≠ .freePending)
    (hs : sender = none ∨ ∃ k x, sender = some k ∧ taskAt s k = some x ∧ (x.inst = 0 ∨ x.inst = t.inst)) :
    exec (.signal sender slot mask) s = .next (flagsArrive slot t mask s) := by
  change execSignal sender slot mask s = _
  rcases hs with rfl | ⟨k, x, rfl, hx, hi⟩
  · simp [execSignal, ht, hr]
  · simp [execSignal, ht, hx, hi, hr]

theorem signal_foreign {k : Nat} {x : Task} {mask : BitVec 32} (hx : taskAt s k = some x) (h0 : x.inst ≠ 0)
    (hi : x.inst ≠ t.inst) : exec (.signal (some k) slot mask) s = .next s := by
  change execSignal (some k) slot mask s = _
  simp [execSignal, ht, hx, h0, hi]

theorem signal_released {sender : Option Nat} {mask : BitVec 32} (hr : t.run = .freePending) :
    exec (.signal sender slot mask) s = .next s := by
  change execSignal sender slot mask s = _
  simp [execSignal, ht, hr]

/-- Flags that satisfy a wait make the task READY and are cleared. -/
theorem setFlags_wakes {fl : BitVec 32} (hr : t.run = .waiting) (hm : waitMet (t.flags ||| fl) t.waitMask t.waitAll = true) :
    TaskBecomes s (setFlags slot fl s) slot (wokenTask s { t with flags := (t.flags ||| fl) &&& ~~~ t.waitMask }) :=
  ⟨taskAt_setFlags_met slot fl s t ht hr hm, fun k hk => taskAt_setFlags_ne slot k fl s hk⟩

theorem setFlags_stay {fl : BitVec 32} (h : t.run ≠ .waiting ∨ waitMet (t.flags ||| fl) t.waitMask t.waitAll = false) :
    TaskBecomes s (setFlags slot fl s) slot { t with flags := t.flags ||| fl } :=
  ⟨taskAt_setFlags_plain slot fl s t ht h, fun k hk => taskAt_setFlags_ne slot k fl s hk⟩

/-! ### WAIT_TIMEOUT and DELAY_EXPIRY (R251, R253) -/

theorem expire_due {r : TaskRun} {w : Nat} (hw : t.wakeAt = some w) (hr : t.run = r) (hle : w ≤ ticks s) :
    expire slot r s = wakeTask slot s := by
  simp [expire, ht, hw, hr, hle]

theorem expire_stays {r : TaskRun} (h : (∀ w, t.wakeAt = some w → ticks s < w) ∨ t.run ≠ r) : expire slot r s = s := by
  cases hw : t.wakeAt with
  | none => simp [expire, ht, hw]
  | some w =>
    rcases h with h | h
    · simp [expire, ht, hw, h w hw]
    · simp [expire, ht, hw, h]

theorem waitExpires_stays (h : (∀ w, t.wakeAt = some w → ticks s < w) ∨ t.run ≠ .waiting) : waitExpires slot s = s := by
  simp +contextual [waitExpires, expire_stays ht h, ht]

/-- A wait that times out keeps its moment and its mask, which flags that arrive at that moment lose to. -/
theorem waitExpires_due {w : Nat} (hw : t.wakeAt = some w) (hr : t.run = .waiting) (hle : w ≤ ticks s) :
    TaskBecomes s (waitExpires slot s) slot { wokenTask s t with lost := some (s.time, t.waitMask) } := by
  have hwoken := taskBecomes_wakeTask ht
  have : waitExpires slot s = taskMod slot (fun x => { x with lost := some (s.time, t.waitMask) }) (wakeTask slot s) := by
    simp [waitExpires, ht, expire_due ht hw hr hle, hwoken.1, hr, wokenTask]
  rw [this]
  exact hwoken.taskMod _

end

theorem flagsArrive_late {s : State} {slot : Nat} {t : Task} {mask : BitVec 32} {x : Nat × BitVec 32} (hx : t.lost = some x)
    (ht : x.1 = s.time) (hm : mask &&& x.2 ≠ 0) :
    flagsArrive slot t mask s = setFlags slot (mask &&& ~~~ x.2) (odBump (0x3100 + t.unit) 6 s) := by
  unfold flagsArrive
  rw [hx]
  exact if_pos (by simpa [ht] using hm)

theorem flagsArrive_timely {s : State} {slot : Nat} {t : Task} {mask : BitVec 32}
    (h : ∀ x, t.lost = some x → x.1 ≠ s.time ∨ mask &&& x.2 = 0) : flagsArrive slot t mask s = setFlags slot mask s := by
  unfold flagsArrive
  cases hx : t.lost with
  | none => rfl
  | some x => exact if_neg (by rcases h x hx with h | h <;> simp [h])

theorem unlessHold_ne {s : State} (h : s.mode ≠ .hold) (t : State) : unlessHold s t = t := if_neg h

theorem unlessHold_same (s : State) : unlessHold s s = s := ite_self s

/-- Settles O37, operation by operation: what each makes of the task it names, and where it changes nothing. -/
theorem eventFlagOperations : Obligations.EventFlagOperations := by
  unfold Obligations.EventFlagOperations
  intro s slot n t mask all ht
  have hwt : exec (.waitTimeout slot) s = .next (unlessHold s (waitExpires slot s)) := rfl
  have hde : exec (.delayExpiry slot) s = .next (unlessHold s (expire slot .delayed s)) := rfl
  refine ⟨fun hr hn => ⟨fun hm => ⟨_, wait_met ht hr hn hm, (taskBecomes_self ht).taskMod _⟩,
      fun hm => ⟨_, wait_unmet ht hr hn hm, taskBecomes_leaveRunning ht _⟩,
      fun h0 => ⟨_, delay_starts ht hr hn h0, taskBecomes_leaveRunning ht _⟩⟩,
    fun h => ⟨wait_refused ht h, delay_refused ht (h.imp_right .inr)⟩, delay_refused ht (.inr (.inl rfl)),
    ⟨_, rfl, (taskBecomes_self ht).taskMod _⟩,
    fun sender hs hr => ⟨fun x hx hnow hm => ?_, fun hl => ⟨fun hw hm => ?_, fun h => ?_⟩⟩,
    fun k x hx h0 hi => signal_foreign ht hx h0 hi, fun sender hr => signal_released ht hr,
    fun w hw hh => ⟨fun hr hle => ?_, fun hr hle => ?_, fun h => ?_, fun h => ?_⟩, fun h => ?_⟩
  · rw [signal_arrives ht hr hs, flagsArrive_late hx hnow hm]
  · exact ⟨_, signal_arrives ht hr hs, flagsArrive_timely hl ▸ setFlags_wakes ht hw hm⟩
  · exact ⟨_, signal_arrives ht hr hs, flagsArrive_timely hl ▸ setFlags_stay ht h⟩
  · exact ⟨_, hwt, unlessHold_ne hh _ ▸ waitExpires_due ht hw hr hle⟩
  · exact ⟨_, hde, unlessHold_ne hh _ ▸ expire_due ht hw hr hle ▸ taskBecomes_wakeTask ht⟩
  · rw [hwt, waitExpires_stays ht (h.imp_left fun h v hv => by cases hw.symm.trans hv; exact h), unlessHold_same]
  · rw [hde, expire_stays ht (h.imp_left fun h v hv => by cases hw.symm.trans hv; exact h), unlessHold_same]
  · rcases h with h | h
    · rw [hwt, hde, unlessHold, unlessHold, if_pos h, if_pos h]
      exact ⟨rfl, rfl⟩
    · have hnone : ∀ w, t.wakeAt = some w → ticks s < w := fun w hw => by cases h.symm.trans hw
      rw [hwt, hde, waitExpires_stays ht (.inl hnone), expire_stays ht (.inl hnone), unlessHold_same]
      exact ⟨rfl, rfl⟩

/-- Settles O2: with no command in front a step is the passing of one period. -/
theorem idleStepPassesOnePeriod : Obligations.IdleStepPassesOnePeriod := by
  unfold Obligations.IdleStepPassesOnePeriod
  intro s hs
  unfold step
  rw [hs]

end Sys2Proof.Machine
end

section
/-! PROOFS. Placement, dispatch in ready order, the tick and the voltage request (R239, R245, R246, R248, R252, R254, R455,
R457). -/

namespace Sys2Proof.Machine

/-! ### Placement (R239) -/

theorem insertCand_eq (c : Cand) (l : List Cand) : insertCand c l = l.orderedInsert (fun a b => candBefore a b = true) c := by
  induction l with
  | nil => rfl
  | cons d l ih => rw [insertCand, List.orderedInsert_cons, ih]

theorem mem_placementOrder {s : State} {c : Cand} : c ∈ placementOrder s ↔ c ∈ candidates s := by
  have : placementOrder s = (candidates s).insertionSort fun a b => candBefore a b = true :=
    congrArg (fun f => (candidates s).foldr f []) (funext₂ insertCand_eq)
  rw [this, List.mem_insertionSort]

/-- The phase found is one of those walked, with places for its stages, and slots and banks for it. -/
theorem firstPlaceable_found {s : State} {cs : List Cand} {reserved : List UnitKind} {waits w : List (Nat × Nat)} {c : Cand}
    {seats : List Seat} (h : firstPlaceable s cs reserved waits = (some (c, seats), w)) :
    c ∈ cs ∧ seatStages s c.img (heldUnits s) (seatOrder c.img c.ph) = some seats ∧
      slotsAllow s c.job seats.length = true ∧ phaseBanks c.img c.ph ≤ (freeBanks s).length := by
  induction cs generalizing reserved waits with
  | nil => cases h
  | cons d cs ih =>
    have hrest : ∀ {reserved waits}, firstPlaceable s cs reserved waits = (some (c, seats), w) → _ :=
      fun h => (ih h).imp_left (List.mem_cons_of_mem d)
    unfold firstPlaceable at h
    dsimp only at h
    split at h
    case isTrue => exact hrest h
    case isFalse hroom =>
      split at h
      next => exact hrest h
      next hseats =>
        split at h
        case isFalse => exact hrest h
        case isTrue hslots =>
          cases h
          simp only [Bool.or_eq_true, decide_eq_true_eq, not_or, Nat.not_lt] at hroom
          exact ⟨List.mem_cons_self, hseats, hslots, hroom.2⟩

theorem placePhase_idle {s : State} (h : modePlaces s = false) : exec .placePhase s = .next s := by
  change execPlacePhase s = _
  simp [execPlacePhase, h]

theorem placePhase_places {s : State} (h : modePlaces s = true) {c : Cand} {seats : List Seat} {w : List (Nat × Nat)}
    (hw : firstPlaceable s (placementOrder s) [] [] = (some (c, seats), w)) :
    exec .placePhase s = .next (placeAt c seats (w.foldl countSlotWait s)) := by
  change execPlacePhase s = _
  simp [execPlacePhase, h, hw]

theorem placePhase_waits {s : State} (h : modePlaces s = true) {w : List (Nat × Nat)}
    (hw : firstPlaceable s (placementOrder s) [] [] = (none, w)) :
    exec .placePhase s = .next (w.foldl countSlotWait s) := by
  change execPlacePhase s = _
  simp [execPlacePhase, h, hw]

/-- A phase that has waited more than PLACE_URGENT_TICKS becomes urgent, and nothing else of its job changes. -/
theorem placeUrgent_marks (s : State) : Reaches .placeUrgent s fun u => ∀ (k m : Nat) j p,
    s.js.jobs[k]? = some j → j.phases[m]? = some p →
      ∃ j', u.js.jobs[k]? = some j' ∧ j'.jid = j.jid ∧ j'.phases[m]? = some { p with
        urgent := p.urgent || (decide (p.run = .waiting) && decide (p.since + od s 0x3000 3 < ticks s)) } := by
  refine ⟨_, rfl, fun k m j p hj hp => ⟨_, (List.getElem?_map ..).trans (congrArg _ hj), rfl, ?_⟩⟩
  exact (List.getElem?_map ..).trans (congrArg _ hp)

/-! ### Ready order (R245) -/

theorem readyBefore_iff (a b : Nat × Task) : readyBefore a b = true ↔
    b.2.prio < a.2.prio ∨ (a.2.prio = b.2.prio ∧ a.2.readySeq ≤ b.2.readySeq) := by
  unfold readyBefore
  split
  · simpa using fun h => absurd h ‹_›
  · simp only [decide_eq_true_eq]
    omega

theorem insertReady_eq (a : Nat × Task) (l : List (Nat × Task)) :
    insertReady a l = l.orderedInsert (fun a b => readyBefore a b = true) a := by
  induction l with
  | nil => rfl
  | cons b l ih => rw [insertReady, List.orderedInsert_cons, ih]

theorem zoneTasks_eq (s : State) (z : Nat) (r : TaskRun) : zoneTasks s z r =
    (s.js.tasks.filter fun e => e.2.zone = z && e.2.run = r && !e.2.gated).insertionSort fun a b => readyBefore a b = true :=
  congrArg (fun f => List.foldr f [] _) (funext₂ insertReady_eq)

theorem zoneTasks_ordered (s : State) (z : Nat) (r : TaskRun) : (zoneTasks s z r).Pairwise fun a b =>
    b.2.prio < a.2.prio ∨ (a.2.prio = b.2.prio ∧ a.2.readySeq ≤ b.2.readySeq) := by
  have htotal : Std.Total fun a b : Nat × Task => readyBefore a b = true := ⟨fun a b => by simp only [readyBefore_iff]; omega⟩
  have htrans : IsTrans (Nat × Task) fun a b => readyBefore a b = true :=
    ⟨fun a b c => by simp only [readyBefore_iff]; omega⟩
  rw [zoneTasks_eq]
  exact (List.pairwise_insertionSort _ _).imp fun h => (readyBefore_iff _ _).mp h

theorem mem_zoneTasks {s : State} {z : Nat} {r : TaskRun} {e : Nat × Task} :
    e ∈ zoneTasks s z r ↔ e ∈ s.js.tasks ∧ e.2.zone = z ∧ e.2.run = r ∧ e.2.gated = false := by
  rw [zoneTasks_eq, List.mem_insertionSort, List.mem_filter]
  simp [and_assoc]

/-! ### Dispatch (R246, R248) -/

theorem noteBusy_tasks (u : Nat) (s : State) : (noteBusy u s).js.tasks = s.js.tasks := by
  unfold noteBusy
  dsimp only
  split <;> rfl

theorem kilnServes_js (t : Task) (s : State) : (kilnServes t s).js = s.js :=
  foldl_keeps (p := fun x : State => x.js = s.js) _ rfl fun x u hx => by
    split
    · rw [setUnitState_js, hx]
    · exact hx

theorem kilnWaits_js (t : Task) (s : State) : (kilnWaits t s).js = s.js :=
  foldl_keeps (p := fun x : State => x.js = s.js) _ rfl fun x u hx => by rw [setUnitState_js, hx]

/-- A task that is dispatched is RUNNING, without PASS count, and no other slot changes. -/
theorem dispatchTask_becomes {s : State} {slot : Nat} {t : Task} (ht : taskAt s slot = some t) :
    TaskBecomes s (dispatchTask slot s) slot { t with run := .running, pass := 0, urgent := false } := by
  have hrun := ((taskBecomes_self ht).of_tasks (congrArg JobsState.tasks (leaveReady_js t s))).taskMod
    fun t => { t with run := .running, pass := 0, urgent := false }
  have hserved := (hrun.of_tasks (noteBusy_tasks t.unit _)).of_tasks (congrArg JobsState.tasks (kilnServes_js t _))
  unfold dispatchTask
  rw [ht]
  dsimp only
  split
  · exact hserved.of_tasks rfl
  · split
    · exact hserved.of_tasks rfl
    · split
      · exact hserved.of_tasks (congrArg JobsState.tasks (setUnitState_js ..))
      · exact hserved.of_tasks rfl

theorem zoneDispatch_idle {s : State} {z : Nat} (h : modeDispatches s = false ∨ zoneOn s z = false) : zoneDispatch z s = s := by
  rcases h with h | h <;> simp [zoneDispatch, h]

/-- Without an urgent task a zone walks its READY tasks once. -/
theorem zoneDispatch_walks {s : State} {z : Nat} (hm : modeDispatches s = true) (hz : zoneOn s z = true)
    (hu : ∀ e ∈ readyTasks s z, e.2.urgent = false) : zoneDispatch z s = walkReady z (readyTasks s z) s := by
  have hnone : (readyTasks s z).find? (fun e => e.2.urgent) = none := List.find?_eq_none.mpr fun e he => by simp [hu e he]
  simp [zoneDispatch, hm, hz, serveZone, hnone]

theorem fits_iff {s : State} {z : Nat} {t : Task} : fits s z t = true ↔ (classPower s t : Int) ≤ headroom s z :=
  decide_eq_true_iff

theorem walkReady_fits {s : State} {z slot : Nat} {t : Task} {rest : List (Nat × Task)}
    (h : (classPower s t : Int) ≤ headroom s z) :
    walkReady z ((slot, t) :: rest) s = walkReady z rest (dispatchTask slot s) := if_pos (fits_iff.mpr h)

theorem walkReady_passes {s : State} {z slot : Nat} {t : Task} {rest : List (Nat × Task)}
    (h : headroom s z < (classPower s t : Int)) :
    walkReady z ((slot, t) :: rest) s = walkReady z rest { s with gov := { s.gov with passed := true } } :=
  if_neg fun hf => absurd (fits_iff.mp hf) (Int.not_le.mpr h)

/-! ### BUDGET_URGENT and TASK_STOPPED (R248, R254) -/

section
variable {s : State} {slot : Nat} {t : Task} (ht : taskAt s slot = some t)
include ht

theorem budgetUrgent_due (hr : t.run = .ready) (hg : t.gated = false) (hp : od s 0x3000 2 < t.pass) :
    exec (.budgetUrgent slot) s = .next (zoneDispatch t.zone (taskMod slot (fun t => { t with urgent := true }) s)) := by
  change execBudgetUrgent slot s = _
  simp [execBudgetUrgent, ht, hr, hg, hp]

theorem budgetUrgent_stays (h : t.run ≠ .ready ∨ t.gated = true ∨ t.pass ≤ od s 0x3000 2) :
    exec (.budgetUrgent slot) s = .next s := by
  change execBudgetUrgent slot s = _
  rcases h with h | h | h <;> simp [execBudgetUrgent, ht, h]

theorem taskStopped_stays (h : t.run ≠ .running ∨ t.stopping = false ∨ atStop t = false) : taskStopped slot s = s := by
  rcases h with h | h | h <;> simp [taskStopped, ht, h]

end

/-- Saving the registers of a task that stops is the runtime's first-level entry, which changes no task (R186, R194). -/
theorem saveStopped_js {s : State} {u : Nat} (slot : Nat) (h : CanReportStop s u) : (saveStopped u slot s).js = s.js := by
  rcases h with h | ⟨c, rfl, hexl, himp⟩
  · rw [saveStopped, dif_neg (Nat.not_lt.mpr h)]
  · unfold saveStopped
    rw [dif_pos c.isLt]
    dsimp only
    split
    · next hc =>
      simp only [Bool.and_eq_true, decide_eq_true_eq] at hc
      obtain ⟨⟨-, hlevel⟩, -⟩ := hc
      rw [Fin.eta, himp]
      refine (enter_from_t_leaves ?_ ?_ (by decide)).1
      · simpa only [coreLevel, core_coreMod_self] using hlevel
      · simpa only [core_coreMod_self] using hexl
    · rfl

/-- A task that reports its stop is READY with the ready sequence it had. -/
theorem taskStopped_becomes {s : State} {slot : Nat} {t : Task} (ht : taskAt s slot = some t) (hr : t.run = .running)
    (hs : t.stopping = true) (ha : atStop t = true) (hc : CanReportStop s t.unit) :
    TaskBecomes s (taskStopped slot s) slot { t with run := .ready, stopping := false, readyAt := s.time, pass := 0 } := by
  have hsaved := (taskBecomes_self ht).of_tasks (congrArg JobsState.tasks (saveStopped_js slot hc))
  have hstops : taskStopped slot s = taskMod slot
      (fun t => { t with run := .ready, stopping := false, readyAt := s.time, pass := 0 })
      (kilnWaits t (leaveRunning t (saveStopped t.unit slot s))) := by
    simp [taskStopped, ht, hr, hs, ha, becomeReady, hsaved.1]
  rw [hstops]
  exact ((hsaved.of_tasks (leaveRunning_tasks t _)).of_tasks (congrArg JobsState.tasks (kilnWaits_js t _))).taskMod _

/-! ### TICK (R240, R252, R455, R457) -/

theorem setAllowances_gov (tooLong : Bool) (s : State) : (setAllowances tooLong s).gov = s.gov :=
  foldl_keeps (p := fun x : State => x.gov = s.gov) _ rfl fun _ _ hx => hx

theorem avsRequest_caps (want : Nat) (s : State) : (avsRequest want s).gov.caps = s.gov.caps := by
  unfold avsRequest
  extract_lets v v'
  split <;> rfl

theorem tfind_map_keys {α : Type} (f : Nat → α) {l : List Nat} {k : Nat} (h : k ∈ l) :
    tfind (l.map fun i => (i, f i)) k = some (f k) := by
  induction l with
  | nil => cases h
  | cons i l ih =>
    rw [List.map_cons, tfind]
    split
    · next hi => rw [hi]
    · next hi => exact ih ((List.mem_cons.mp h).resolve_left (Ne.symm hi))

/-- The governor takes each zone's cap to the next by its temperature (R457). -/
theorem governor_caps (s : State) {z : Nat} (hz : z < 16) : tget 65000 (governor s).gov.caps z = nextCap s z := by
  have : (governor s).gov.caps = (List.range 16).map fun z => (z, nextCap s z) := by
    unfold governor
    dsimp only
    rw [avsRequest_caps]
    dsimp only
    rw [setAllowances_gov]
  rw [this, tget, tfind_map_keys _ (List.mem_range.mpr hz), Option.getD_some]

/-- TICK counts the boundary; then the mode says what follows (Table 22-3). -/
theorem tick_counts (mfp : BitVec 8) (s : State) : exec (.tick mfp) s = .next (
    if modeDispatches s then (List.range 16).foldl (fun s z => passZone z s)
      ((List.range 16).foldl (fun s z => budgetPreempt z s) (governor (tickCounted mfp s)))
    else if s.mode = .freeze then governor (tickCounted mfp s) else tickCounted mfp s) := by
  have hus : ∀ v : State, v.od = s.od → od (odBump 0x3000 5 v) 0x3000 1 = od s 0x3000 1 := fun v hv => by
    rw [odBump, odAdd, od_odSet_ne _ _ _ _ _ _ (by decide), od, od, hv]
  change execTick mfp s = _
  unfold execTick tickBoundary tickLen
  dsimp only
  rw [hus]
  · rfl
  · rfl

theorem ticks_tickCounted (mfp : BitVec 8) (s : State) : ticks (tickCounted mfp s) = (ticks s + 1) % 2 ^ 64 :=
  od_odSet_self ..

/-! ### AVS_RESPONSE (R455) -/

section
variable {s : State} {v : Nat} (hv : s.gov.request = some v)
include hv

theorem avsResponse_taken : exec (.avsResponse true) s =
    .next (odSet 0x1310 6 v { s with gov := { s.gov with request := none, tries := 0 } }) := by
  change execAvsResponse true s = _
  simp [execAvsResponse, hv]

theorem avsResponse_retried (h : s.gov.tries < 3) : exec (.avsResponse false) s =
    .next (odBump 0x1310 9 (emit (.avs v) { s with gov := { s.gov with tries := s.gov.tries + 1 } })) := by
  change execAvsResponse false s = _
  simp [execAvsResponse, hv, h]

theorem avsResponse_givenUp (h : 3 ≤ s.gov.tries) : exec (.avsResponse false) s =
    .next (odBump 0x1310 9 { s with gov := { s.gov with request := none, tries := 0 } }) := by
  change execAvsResponse false s = _
  simp [execAvsResponse, hv, Nat.not_lt.mpr h]

end

theorem avsResponse_unasked {s : State} (ok : Bool) (h : s.gov.request = none) : exec (.avsResponse ok) s = .next s := by
  change execAvsResponse ok s = _
  simp [execAvsResponse, h]

/-- Settles O38, command by command: placement by the walk in placement order, dispatch by the walk in ready order, and what a
tick and an answer of the regulator come to. -/
theorem schedulingCommands : Obligations.SchedulingCommands := by
  unfold Obligations.SchedulingCommands
  intro s
  have hzone : ∀ z, exec (.zoneDispatch z) s = .next (zoneDispatch z.val s) := fun _ => rfl
  have hstop : ∀ slot, exec (.taskStopped slot) s = .next (taskStopped slot s) := fun _ => rfl
  refine ⟨placePhase_idle, fun hm c seats w hw => ?_, fun hm w hw => placePhase_waits hm hw, placeUrgent_marks s,
    fun z r => ⟨zoneTasks_ordered s z r, fun e => mem_zoneTasks⟩, fun z e => List.mem_filter,
    fun z => ⟨fun h => ?_, fun hm hz hu => ?_⟩,
    fun slot t ht => ⟨budgetUrgent_due ht, budgetUrgent_stays ht,
      fun hr hs ha hc => ⟨_, hstop slot, taskStopped_becomes ht hr hs ha hc⟩, fun h => ?_⟩,
    fun mfp => ⟨fun hm hf => ?_, fun hf => ?_, fun hm => ⟨_, ?_, fun z hz => governor_caps _ hz⟩,
      ticks_tickCounted mfp s, rfl⟩,
    fun v hv => ⟨⟨_, avsResponse_taken hv, od_odSet_self .., rfl⟩, fun h => ⟨_, avsResponse_retried hv h, hv, rfl, rfl⟩,
      fun h => ⟨_, avsResponse_givenUp hv h, rfl, rfl, od_odSet_ne _ _ _ _ _ _ (by decide)⟩⟩,
    fun ok h => avsResponse_unasked ok h⟩
  · obtain ⟨hmem, hfound⟩ := firstPlaceable_found hw
    exact ⟨placePhase_places hm hw, mem_placementOrder.mp hmem, hfound⟩
  · rw [hzone, zoneDispatch_idle h]
  · rw [hzone, zoneDispatch_walks hm hz hu]
    refine ⟨fun hnone => by rw [hnone, walkReady], fun slot t rest hready => ?_⟩
    rw [hready]
    exact ⟨fun hfits => ⟨_, congrArg _ (walkReady_fits hfits), dispatchTask_becomes⟩,
      fun hpass => congrArg _ (walkReady_passes hpass)⟩
  · rw [hstop, taskStopped_stays ht h]
  · rw [tick_counts, hm, if_neg Bool.false_ne_true, if_neg hf]
  · have hm : modeDispatches s = false := by simp [modeDispatches, hf]
    rw [tick_counts, hm, if_neg Bool.false_ne_true, if_pos hf]
  · rw [tick_counts, if_pos hm]

end Sys2Proof.Machine
end

section
/-! PROOFS. What a WRITE of INVALIDATE, of ROOT and of the fault queue's entries does (R262, R267, R273, R431). -/

namespace Sys2Proof.Machine

/-! ### INVALIDATE (R262) -/

section
variable {s : State} {w : VdpWrite} {bytes : List Byte}

theorem entryAt_invalidate : entryAt 0x2301 1 = some ⟨0x2301, 0x2301, 1, 1, .octets 24, .wo, 0, 0, 1⟩ :=
  entry_in 0x2301 0x2301 0x2301 1 _ (by decide) (Nat.le_refl _) (Nat.le_refl _) (Nat.le_refl _) (Nat.le_refl _)

theorem applyWrite_invalidate :
    applyWrite ⟨0x2301, 0x2301, 1, 1, .octets 24, .wo, 0, 0, 1⟩ 0x2301 1 bytes s = writeInvalidate bytes s := rfl

/-- A WRITE of INVALIDATE whose turn comes at once is answered as the rule of INVALIDATE judges it. -/
theorem invalidate_judged (h : WriteTurn s w 0x2301 1) (hlen : bytes.length = 24) :
    writeBytes 0x2301 1 bytes w s = answerWrite w 0x2301 1 bytes s (writeInvalidate bytes s) := by
  obtain ⟨hl, hb, hd, hh, hq, hk, hn⟩ := h
  unfold writeBytes
  rw [write_turn s w 0x2301 1 bytes _ hl hb hd hh hq hk hn (by decide) (by decide) entryAt_invalidate rfl (by decide)
    (by decide) rfl (by simp [lengthFits, Ty.width, hlen]) (by omega), applyWrite_invalidate]
  rfl

theorem writeInvalidate_joins (h : fld bytes 0 2 ≤ 4095) :
    writeInvalidate bytes s = .ok (startInvalidate (fld bytes 0 2) (fld bytes 8 8) (fld bytes 16 8) s) :=
  if_neg (by omega)

theorem writeInvalidate_noInstance (h : 4095 < fld bytes 0 2) : writeInvalidate bytes s = .error .range := if_pos h

end

/-! ### An entry of an instance judged by its own rules (R431) -/

/-- The state that a WRITE of an entry of an instance leaves, by what the entry's rules make of it. -/
def answerAttr (w : VdpWrite) (n sub : Nat) (bytes : List Byte) (s : State) : Except VdpErr State → State
  | .ok t => attrOk w n sub bytes t
  | .error x => attrNo w n sub bytes x s

/-- The row of an entry that every instance has. -/
abbrev attrEntry (sub : Nat) (ty : Ty) (hi step : Nat) : Entry := ⟨0x4000, 0x4FFF, sub, sub, ty, .rw, 0, hi, step⟩

theorem attr_takesNumber {sub hi step : Nat} {ty : Ty} (i : Inst)
    (hrow : (dictRows.filter fun x => decide (x.idx ≤ 0x4FFF) && decide (0x4000 ≤ x.idxLast) && decide (x.sub ≤ sub) &&
      decide (sub ≤ x.subLast)) = [attrEntry sub ty hi step])
    (hsub : sub < 256) (hnum : ty.mappable = true) : TakesNumber (instIdx i.val) sub (attrEntry sub ty hi step) :=
  takesNumber_of_row hrow (Nat.le_add_right _ _) (Nat.add_le_add_left (Nat.le_of_lt_succ i.isLt) _) (by dsimp only; decide)
    hsub (.inl rfl) hnum (by rw [pairLevel, decide_eq_false (by unfold instIdx; omega)]; rfl)

theorem applyWrite_inst {s : State} {n sub : Nat} {e : Entry} {bytes : List Byte} (hn : n < 4096) (hs : 2 < sub)
    (hr : inRange e (instIdx n) sub (leNat bytes) = true) (hb : e.ty ≠ .bool) :
    applyWrite e (instIdx n) sub bytes s =
      (writeInst n sub (leNat bytes) s).map fun t => mirror (instRecord t n) t := by
  have hi : instIdx n - 0x4000 = n := Nat.add_sub_cancel_left ..
  have hlo : 0x4000 ≤ instIdx n := Nat.le_add_right ..
  have hhi : instIdx n ≤ 0x4FFF := Nat.add_le_add_left (Nat.le_of_lt_succ hn) 0x4000
  unfold applyWrite
  dsimp only
  rw [if_neg (by simp [hr]), if_neg (by simp [hb]), if_pos (by simp [hlo, hhi]), hi]
  cases writeInst n sub (leNat bytes) s with
  | ok t => exact congrArg Except.ok (if_neg (by omega))
  | error x => rfl

section
variable {s : State} {i : Inst} {w : VdpWrite} {sub value hi step : Nat} {ty : Ty}
  (h : WriteTurn s w (instIdx i.val) sub) (he : TakesNumber (instIdx i.val) sub (attrEntry sub ty hi step))
  (hv : value < 256 ^ ty.width)
include h he hv

/-- The WRITE of a number in range to an entry of an instance is answered as the entry's rules judge it. -/
theorem writeAttr_judged (hs : 2 < sub) (hb : ty ≠ .bool)
    (hr : inRange (attrEntry sub ty hi step) (instIdx i.val) sub value = true) :
    writeAttr i sub value w s = answerAttr w i.val sub (leBytes ty.width value) s (writeInst i.val sub value s) := by
  have hn : leNat (leBytes ty.width value) = value := leNat_leBytes_of_lt hv
  unfold writeAttr
  rw [writeNum_turn h he, applyWrite_inst i.isLt hs (by rw [hn]; exact hr) hb, hn]
  cases writeInst i.val sub value s <;> rfl

theorem writeAttr_outOfRange (hr : inRange (attrEntry sub ty hi step) (instIdx i.val) sub value = false) :
    writeAttr i sub value w s = attrNo w i.val sub (leBytes ty.width value) .range s := by
  unfold writeAttr
  rw [writeNum_turn h he, applyWrite_outOfRange he.number (by rw [leNat_leBytes_of_lt hv]; exact hr)]
  rfl

end

/-- The range of an entry of an instance whose row alone gives it. -/
theorem inRange_attr {n sub v hi step : Nat} {ty : Ty}
    (hs : sub ≠ 9 ∧ ¬ (0x10 ≤ sub ∧ sub ≤ 0x1B) ∧ sub ≠ 0x22 ∧ sub ≠ 0x2E ∧ sub ≠ 0x3A) (hn : n < 4096) :
    inRange (attrEntry sub ty hi step) (instIdx n) sub v = (decide (v ≤ hi) && decide (v % max step 1 = 0)) := by
  obtain ⟨h9, h1x, h22, h2e, h3a⟩ := hs
  unfold inRange instIdx
  rw [if_neg (by simp; omega), if_neg (by simp; omega), if_pos (by simp; omega), if_neg (by simp; omega), if_neg (by omega),
    if_neg h22, if_neg h2e, if_neg (by simp; omega)]
  simp

/-! ### ROOT (R273) -/

section
variable {s : State} {n value : Nat}

theorem hasJobs_eq_false : hasJobs s n = false ↔ NoJobs s n := by
  simp [hasJobs, NoJobs]

theorem inPool_iff {n : Nat} :
    inPool s value n = true ↔ od s 0x2300 1 ≤ value ∧ value + n ≤ od s 0x2300 1 + od s 0x2300 2 := by
  unfold inPool
  rw [Bool.and_eq_true, decide_eq_true_eq, decide_eq_true_eq]
  rfl

/-- ROOT may name a table: none, or one that lies in the table pool (R260). -/
theorem rootFits_iff : (decide (value ≠ 0) && !inPool s value 4096) = false ↔
    value = 0 ∨ (od s 0x2300 1 ≤ value ∧ value + 4096 ≤ od s 0x2300 1 + od s 0x2300 2) := by
  simp [← inPool_iff, or_iff_not_imp_left]

theorem writeRoot_outside
    (hp : ¬ (value = 0 ∨ (od s 0x2300 1 ≤ value ∧ value + 4096 ≤ od s 0x2300 1 + od s 0x2300 2))) :
    writeRoot n value s = .error .range :=
  if_pos (Bool.eq_true_of_not_eq_false (mt rootFits_iff.mp hp))

section
variable (hp : value = 0 ∨ (od s 0x2300 1 ≤ value ∧ value + 4096 ≤ od s 0x2300 1 + od s 0x2300 2))
include hp

theorem writeRoot_free (hj : NoJobs s n) :
    writeRoot n value s = .ok (startInvalidate n 0 0 (odSet (instIdx n) 0x20 value s)) := by
  unfold writeRoot
  rw [if_neg (Bool.not_eq_true _ ▸ rootFits_iff.mpr hp), if_neg (by simp [hasJobs_eq_false.mpr hj])]

theorem writeRoot_busy (hj : ¬ NoJobs s n) : writeRoot n value s = .error .busy := by
  unfold writeRoot
  rw [if_neg (Bool.not_eq_true _ ▸ rootFits_iff.mpr hp),
    if_pos (Bool.eq_true_of_not_eq_false (mt hasJobs_eq_false.mp hj))]

end
end

/-! ### The fault queue's entries (R267, R505) -/

section
variable {s : State} {n sub value : Nat}

theorem writeFaultQueue_idle (h : FaultQueueIdle s n) :
    writeFaultQueue n sub value s = .ok (newFaultQueue n sub value s) := by
  obtain ⟨hout, hwait, hpos⟩ := h
  exact if_neg (by simp [hout, hwait, hpos])

theorem writeFaultQueue_busy (h : ¬ FaultQueueIdle s n) : writeFaultQueue n sub value s = .error .busy :=
  if_pos (by simpa [FaultQueueIdle, or_iff_not_imp_left] using h)

section
variable {i : Inst} {w : VdpWrite} {hi step : Nat} {ty : Ty} (h : WriteTurn s w (instIdx i.val) sub)
  (he : TakesNumber (instIdx i.val) sub (attrEntry sub ty hi step)) (hv : value < 256 ^ ty.width) (hs : 2 < sub)
  (hb : ty ≠ .bool)
  (hr : inRange (attrEntry sub ty hi step) (instIdx i.val) sub value = true)
  (hw : writeInst i.val sub value s = writeFaultQueue i.val sub value s)
include h he hv hs hb hr hw

theorem faultQueueAttr_starts (hq : FaultQueueIdle s i.val) :
    writeAttr i sub value w s = attrOk w i.val sub (leBytes ty.width value) (newFaultQueue i.val sub value s) := by
  rw [writeAttr_judged h he hv hs hb hr, hw, writeFaultQueue_idle hq]
  rfl

theorem faultQueueAttr_busy (hq : ¬ FaultQueueIdle s i.val) :
    writeAttr i sub value w s = attrNo w i.val sub (leBytes ty.width value) .busy s := by
  rw [writeAttr_judged h he hv hs hb hr, hw, writeFaultQueue_busy hq]
  rfl

end

theorem root_takesNumber (i : Inst) : TakesNumber (instIdx i.val) 0x20 (attrEntry 0x20 .u64 18446744073709551615 4096) :=
  attr_takesNumber i (by decide) (by decide) rfl

theorem fqBase_takesNumber (i : Inst) : TakesNumber (instIdx i.val) 0x21 (attrEntry 0x21 .u64 18446744073709551615 64) :=
  attr_takesNumber i (by decide) (by decide) rfl

theorem fqEntries_takesNumber (i : Inst) : TakesNumber (instIdx i.val) 0x22 (attrEntry 0x22 .u32 4294967295 1) :=
  attr_takesNumber i (by decide) (by decide) rfl

theorem fqLocation_takesNumber (i : Inst) : TakesNumber (instIdx i.val) 0x23 (attrEntry 0x23 .u8 1 1) :=
  attr_takesNumber i (by decide) (by decide) rfl

/-- ROOT and FQ_BASE are in range where they are aligned. -/
theorem inRange_aligned {i : Inst} {step : Nat} (hs : sub = 0x20 ∨ sub = 0x21) (h1 : 1 ≤ step) (hv : value < 2 ^ 64) :
    inRange (attrEntry sub .u64 18446744073709551615 step) (instIdx i.val) sub value = decide (value % step = 0) := by
  rw [inRange_attr (by omega) i.isLt, Nat.max_eq_left h1, decide_eq_true (by omega : value ≤ 18446744073709551615)]
  rfl

theorem inRange_fqEntries {i : Inst} (hv : value < 2 ^ 32) :
    inRange (attrEntry 0x22 .u32 4294967295 1) (instIdx i.val) 0x22 value = true ↔ value = 0 ∨ RingSize value 64 65536 := by
  have hlo : 0x4000 ≤ instIdx i.val := Nat.le_add_right ..
  have hhi : instIdx i.val ≤ 0x4FFF := Nat.add_le_add_left (Nat.le_of_lt_succ i.isLt) 0x4000
  unfold inRange
  rw [if_neg (by simp), if_neg (by simp), if_pos (by simp [hlo, hhi]), if_neg (by simp), if_neg (by simp), if_pos rfl]
  simp [zeroOrPow2, pow2In_iff, RingSize, Nat.mod_one]
  omega

theorem inRange_fqLocation {i : Inst} :
    inRange (attrEntry 0x23 .u8 1 1) (instIdx i.val) 0x23 value = decide (value ≤ 1) := by
  rw [inRange_attr (by omega) i.isLt]
  simp [Nat.mod_one]

end

/-- Settles O41, entry by entry: each WRITE reaches its entry's rules, and these take or refuse the value. -/
theorem translationWrites : Obligations.TranslationWrites := by
  unfold Obligations.TranslationWrites
  intro s i w value bytes
  refine ⟨fun h hlen => ⟨fun hin => ?_, fun hout => ?_⟩,
    fun h hv => ⟨fun ha hp => ⟨fun hj => ?_, fun hj => ?_⟩, fun hno => ?_⟩,
    fun h hv => ⟨fun ha hq => ?_, fun ha hq => ?_, fun ha => ?_⟩,
    fun h hv => ⟨fun hz hq => ?_, fun hz hq => ?_, fun hz => ?_⟩,
    fun h hv => ⟨fun hl hq => ?_, fun hl hq => ?_, fun hl => ?_⟩⟩
  · exact congrArg _ ((invalidate_judged h hlen).trans (by rw [writeInvalidate_joins hin]; rfl))
  · exact congrArg _ ((invalidate_judged h hlen).trans (by rw [writeInvalidate_noInstance hout]; rfl))
  · refine congrArg _ ((writeAttr_judged h (root_takesNumber i) hv (by decide) (by decide) ?_).trans ?_)
    · rw [inRange_aligned (.inl rfl) (by decide) hv, decide_eq_true ha]
    · exact congrArg _ (writeRoot_free hp hj)
  · refine congrArg _ ((writeAttr_judged h (root_takesNumber i) hv (by decide) (by decide) ?_).trans ?_)
    · rw [inRange_aligned (.inl rfl) (by decide) hv, decide_eq_true ha]
    · exact congrArg _ (writeRoot_busy hp hj)
  · by_cases ha : value % 4096 = 0
    · refine congrArg _ ((writeAttr_judged h (root_takesNumber i) hv (by decide) (by decide) ?_).trans ?_)
      · rw [inRange_aligned (.inl rfl) (by decide) hv, decide_eq_true ha]
      · exact congrArg _ (writeRoot_outside (by tauto))
    · exact congrArg _ (writeAttr_outOfRange h (root_takesNumber i) hv
        (by rw [inRange_aligned (.inl rfl) (by decide) hv, decide_eq_false ha]))
  · exact congrArg _ (faultQueueAttr_starts h (fqBase_takesNumber i) hv (by decide) (by decide)
      (by rw [inRange_aligned (.inr rfl) (by decide) hv, decide_eq_true ha]) rfl hq)
  · exact congrArg _ (faultQueueAttr_busy h (fqBase_takesNumber i) hv (by decide) (by decide)
      (by rw [inRange_aligned (.inr rfl) (by decide) hv, decide_eq_true ha]) rfl hq)
  · exact congrArg _ (writeAttr_outOfRange h (fqBase_takesNumber i) hv
      (by rw [inRange_aligned (.inr rfl) (by decide) hv, decide_eq_false ha]))
  · exact congrArg _ (faultQueueAttr_starts h (fqEntries_takesNumber i) hv (by decide) (by decide)
      ((inRange_fqEntries hv).mpr hz) rfl hq)
  · exact congrArg _ (faultQueueAttr_busy h (fqEntries_takesNumber i) hv (by decide) (by decide)
      ((inRange_fqEntries hv).mpr hz) rfl hq)
  · exact congrArg _ (writeAttr_outOfRange h (fqEntries_takesNumber i) hv
      (Bool.eq_false_of_not_eq_true (mt (inRange_fqEntries hv).mp hz)))
  · exact congrArg _ (faultQueueAttr_starts h (fqLocation_takesNumber i) hv (by decide) (by decide)
      (by rw [inRange_fqLocation, decide_eq_true hl]) rfl hq)
  · exact congrArg _ (faultQueueAttr_busy h (fqLocation_takesNumber i) hv (by decide) (by decide)
      (by rw [inRange_fqLocation, decide_eq_true hl]) rfl hq)
  · exact congrArg _ (writeAttr_outOfRange h (fqLocation_takesNumber i) hv
      (by rw [inRange_fqLocation, decide_eq_false (by omega)]))

end Sys2Proof.Machine
end

section
/-! PROOFS. What a doorbell page takes, discards and counts, and how faults are resolved (R267 to R269, R297, R299, R300, R480). -/

namespace Sys2Proof.Machine

/-! ### A write of a doorbell register (R297, R299) -/

section
variable {s : State} {link n off size value : Nat} {act : Nat → State → State}

theorem doorbell_unreached (h : functionsLive s = false ∨ linkExists s link = false) :
    doorbell link n off size value act s = s :=
  if_pos (by simpa using h)

theorem doorbell_discards (hf : functionsLive s = true) (hl : linkExists s link = true)
    (h : pageLive s link n = false ∨ (size ≠ 4 ∧ size ≠ 8 ∧ size ≠ 12)) :
    doorbell link n off size value act s = discarded s := by
  unfold doorbell
  rw [if_neg (by simp [hf, hl]), if_pos (by simpa [and_assoc] using h)]
  rfl

theorem doorbell_takes (h : PageTaken s link n) (hsize : size = 4 ∨ size = 8 ∨ size = 12) :
    doorbell link n off size value act s = act (doorbellValue s n off size value) s := by
  obtain ⟨hf, hl, hp⟩ := h
  unfold doorbell
  rw [if_neg (by simp [hf, hl]), if_neg (by simp [hp]; omega)]
  rfl

end

/-! ### SQ_TAIL (R300) -/

section
variable {s : State} {n q v : Nat} {x : SubQ}

theorem tailWrite_noQueue (h : sqAt s n q = none) : tailWrite n q v s = discarded s := by
  unfold tailWrite
  rw [h]
  rfl

theorem tailWrite_beyond (h : sqAt s n q = some x) (hv : x.entries ≤ v % 65536) : tailWrite n q v s = discarded s := by
  unfold tailWrite
  rw [h]
  exact if_pos hv

theorem tailWrite_within (h : sqAt s n q = some x) (hv : v % 65536 < x.entries) : tailWrite n q v s =
    keepDoorbell n (8 * q) (v % 65536) (sqMod n q (fun y => { y with tail := v % 65536 }) s) := by
  unfold tailWrite
  rw [h]
  exact if_neg (Nat.not_le.mpr hv)

/-- What the host stores in its own memory leaves the pages, the queues and the registers as they were (R300). -/
@[simp] theorem functionsLive_hostStores (l : Nat) (ws : List (Nat × List Byte)) (s : State) :
    functionsLive (hostStores l ws s) = functionsLive s := rfl
@[simp] theorem linkExists_hostStores (l : Nat) (ws : List (Nat × List Byte)) (s : State) (link : Nat) :
    linkExists (hostStores l ws s) link = linkExists s link := rfl
@[simp] theorem pageLive_hostStores (l : Nat) (ws : List (Nat × List Byte)) (s : State) (link n : Nat) :
    pageLive (hostStores l ws s) link n = pageLive s link n := rfl
@[simp] theorem sqAt_hostStores (l : Nat) (ws : List (Nat × List Byte)) (s : State) (n q : Nat) :
    sqAt (hostStores l ws s) n q = sqAt s n q := rfl
@[simp] theorem doorbellValue_hostStores (l : Nat) (ws : List (Nat × List Byte)) (s : State) (n off size value : Nat) :
    doorbellValue (hostStores l ws s) n off size value = doorbellValue s n off size value := rfl

/-- SQ_TAIL as a page takes it after the host's stores, by the rule of the SQ it names. -/
theorem sqTailWrite_taken {s u : State} {link : Link} {i : Inst} {q : Fin 16} {size value : Nat}
    {stored : List (Nat × List Byte)} (h : PageTaken s link.val i.val) (hsize : size = 4 ∨ size = 8 ∨ size = 12)
    (hu : tailWrite i.val q.val (doorbellValue s i.val (8 * q.val) size value) (hostStores link.val stored s) = u) :
    exec (.sqTailWrite link i q size value stored) s = .next u := by
  have htaken : PageTaken (hostStores link.val stored s) link.val i.val := by simpa [PageTaken] using h
  refine congrArg Host.Outcome.next ((doorbell_takes htaken hsize).trans ?_)
  rw [doorbellValue_hostStores, hu]

/-- A register that keeps a value reads it back, and the SQs are as they were (R299). -/
theorem keepDoorbell_reads (n off v : Nat) (s : State) : tget 0 (inst (keepDoorbell n off v s) n).doorbell off = v := by
  unfold keepDoorbell
  rw [inst_instMod_self]
  exact tget_tset_self ..

theorem sqAt_keepDoorbell (n off v q : Nat) (s : State) : sqAt (keepDoorbell n off v s) n q = sqAt s n q := by
  unfold sqAt keepDoorbell
  rw [inst_instMod_self]

end

/-! ### CQ_HEAD (R300, R480) -/

section
variable {s : State} {n c v : Nat} {x : ComplQ}

theorem cqHeadWrite_noQueue (h : cqAt s n c = none) : cqHeadWrite n c v s = discarded s := by
  unfold cqHeadWrite
  rw [h]
  rfl

theorem cqHeadWrite_beyond (h : cqAt s n c = some x) (hv : x.entries ≤ v) : cqHeadWrite n c v s = discarded s := by
  unfold cqHeadWrite
  rw [h]
  exact if_pos hv

theorem cqHeadWrite_within {head : Nat} (h : cqAt s n c = some x) (hv : v < x.entries)
    (hh : head = x.head + (v + x.entries - x.head % x.entries) % x.entries) : cqHeadWrite n c v s =
    mirror (.queuePos n true c v) (instMod n (fun y => { y with erHeld := y.erHeld.filter fun e => !(e.2.1 = c && e.2.2 < head) })
      (keepDoorbell n (0x100 + 8 * c) v (cqMod n c (fun y => { y with head := head }) s))) := by
  subst hh
  unfold cqHeadWrite
  rw [h]
  exact if_neg (Nat.not_le.mpr hv)

end

/-! ### FAULT_HEAD (R267) -/

section
variable {s : State} {n v : Nat}

theorem faultHead_beyond (h : od s (instIdx n) 0x22 ≤ v) : faultHead n v s = discarded s := if_pos h

/-- With no record waiting, the records up to the head are free and none is written. -/
theorem faultHead_frees {entries : Nat} (he : entries = od s (instIdx n) 0x22) (h : v < entries)
    (hw : (inst s n).fqWaiting = []) : faultHead n v s =
      keepDoorbell n 0x200 v (instMod n (fun y => { y with
        fqHead := min (y.fqHead + (v + entries - (inst s n).fqHead % entries) % entries) y.fqTail }) s) := by
  subst he
  unfold faultHead
  rw [if_neg (Nat.not_le.mpr h)]
  dsimp only
  rw [show (inst (keepDoorbell n 0x200 v _) n).fqWaiting = [] by simp [keepDoorbell, hw]]
  rfl

end

/-! ### FAULT_RESOLVE (R268, R269) -/

section
variable {s : State} {jid unit v : Nat} {p : Parked} {retry : State → State}

/-- The action of a resolution and the reserved bits above it, from the upper half of the register (Table 14-3). -/
theorem resolveBits (v : Nat) : bitsOf v 39 32 = v / 2 ^ 32 % 256 ∧ bitsOf v 63 40 = v / 2 ^ 32 / 256 % 2 ^ 24 := by
  unfold bitsOf
  rw [Nat.shiftRight_eq_div_pow, Nat.shiftRight_eq_div_pow]
  omega

theorem resolve_invalid (hv : v < 2 ^ 64) (h : 2 ≤ v / 2 ^ 32) : resolve jid unit v p retry s = odBump 0x2302 4 s := by
  obtain ⟨hact, hres⟩ := resolveBits v
  refine if_pos ?_
  rw [hact, hres, Bool.or_eq_true, decide_eq_true_eq, decide_eq_true_eq]
  omega

variable (ht : s.time - p.since < od s 0x2300 3 * 1000 * perUs)
include ht

theorem resolve_retries (h : v / 2 ^ 32 = 0) : resolve jid unit v p retry s = retry s := by
  obtain ⟨hact, hres⟩ := resolveBits v
  rw [h] at hact hres
  unfold resolve
  rw [hact, hres]
  exact (if_neg (by decide)).trans ((if_neg (Nat.not_le.mpr ht)).trans (if_pos rfl))

theorem resolve_fails (h : v / 2 ^ 32 = 1) : resolve jid unit v p retry s = failParked jid p s := by
  obtain ⟨hact, hres⟩ := resolveBits v
  rw [h] at hact hres
  unfold resolve
  rw [hact, hres]
  exact (if_neg (by decide)).trans ((if_neg (Nat.not_le.mpr ht)).trans (if_neg (by decide)))

end

section
variable {s : State} {n v : Nat}

theorem faultResolve_task {slot : Nat} {t : Task} {p : Parked} (h : parkedTask s n (v % 2 ^ 32) = some (slot, t))
    (hp : t.parked = some p) : faultResolve n v s = resolve t.jid t.unit v p
      (fun s => setFlags slot flagFault (taskMod slot (fun t => { t with parked := none }) s)) s := by
  unfold faultResolve
  rw [h]
  dsimp only
  rw [hp]

theorem faultResolve_zone {z : Zone} {p : Parked} (h : parkedTask s n (v % 2 ^ 32) = none)
    (hz : parkedZone s n (v % 2 ^ 32) = some (z, p)) : faultResolve n v s = resolve z.jid unitExch v p
      (fun s => zoneMod z.jid z.stage (fun y => { y with parked := none }) s) s := by
  unfold faultResolve
  rw [h, hz]

variable (h : parkedTask s n (v % 2 ^ 32) = none) (hz : parkedZone s n (v % 2 ^ 32) = none)
include h hz

theorem faultResolve_late {x : Nat × Nat × Nat}
    (hx : s.js.lostFaults.find? (fun x => x.1 = v % 2 ^ 32 && x.2.2 = s.time) = some x) :
    faultResolve n v s = odBump 0x2302 3 (odBump (0x3100 + x.2.1) 6 s) := by
  unfold faultResolve
  rw [h, hz]
  dsimp only
  rw [hx]

theorem faultResolve_unknown (hx : ∀ x ∈ s.js.lostFaults, ¬ (x.1 = v % 2 ^ 32 ∧ x.2.2 = s.time)) :
    faultResolve n v s = odBump 0x2302 4 s := by
  unfold faultResolve
  rw [h, hz]
  dsimp only
  rw [List.find?_eq_none.mpr (by simpa using hx)]

end

section
variable {s : State} {link : Link} {i : Inst} {size value : Nat}

/-- FAULT_RETRY and FAULT_FAIL are one write, of 8 bytes or of a width that the register does not take (R268). -/
theorem faultResolve_rows (link : Link) (i : Inst) (size value : Nat) (s u : State)
    (h : doorbell link.val i.val 0x208 (if size = 8 then 8 else 0) value (faultResolve i.val) s = u) :
    exec (.faultRetry link i size value) s = .next u ∧ exec (.faultFail link i size value) s = .next u := by
  subst h
  exact ⟨rfl, rfl⟩

/-- A page that takes writes judges 8 bytes of FAULT_RESOLVE by what is parked under its FAULT_ID. -/
theorem faultResolve_taken (h : PageTaken s link.val i.val) {u : State} (hu : faultResolve i.val (value % 2 ^ 64) s = u) :
    exec (.faultRetry link i 8 value) s = .next u ∧ exec (.faultFail link i 8 value) s = .next u :=
  faultResolve_rows link i 8 value s u ((doorbell_takes h (.inr (.inl rfl))).trans hu)

end

/-- Settles O34, register by register: whether the page takes the write, and what the register makes of its value. -/
theorem doorbellWrites : Obligations.DoorbellWrites := by
  unfold Obligations.DoorbellWrites
  intro s link i q size value stored
  have hid : value % 2 ^ 64 % 2 ^ 32 = value % 2 ^ 32 := Nat.mod_mod_of_dvd _ (by decide)
  have hlt : value % 2 ^ 64 < 2 ^ 64 := Nat.mod_lt _ (by decide)
  refine ⟨fun h => ?_, fun hf hl h => ?_, fun h hsize => ⟨fun x tail hx hv => ⟨fun hlt => ?_, fun hle => ?_⟩,
    fun hx => ?_, fun x v head hx hv hh => ⟨fun hlt => ?_, fun hle => ?_⟩, fun hx => ?_,
    fun v entries hv he => ⟨fun hlt hw => ?_, fun hle => ?_⟩⟩,
    fun h => ⟨fun slot t p ht hp htime => ?_, fun z p ht hz htime => ?_, fun ht hz => ⟨fun x hx => ?_, fun hx => ?_⟩⟩⟩
  · have hfault := faultResolve_rows link i size value s s (doorbell_unreached h)
    exact ⟨congrArg Host.Outcome.next (doorbell_unreached (by simpa using h)), congrArg _ (doorbell_unreached h),
      congrArg _ (doorbell_unreached h), hfault⟩
  · have hfault := faultResolve_rows link i size value s _
      (doorbell_discards hf hl (h.imp_right fun hs => by rw [if_neg hs.2.1]; decide))
    exact ⟨congrArg Host.Outcome.next (doorbell_discards (by simpa using hf) (by simpa using hl) (by simpa using h)),
      congrArg _ (doorbell_discards hf hl h), congrArg _ (doorbell_discards hf hl h), hfault⟩
  · subst hv
    have hq : sqAt (hostStores link.val stored s) i.val q.val = some x := hx
    refine ⟨_, sqTailWrite_taken h hsize (tailWrite_within hq hlt), ?_, keepDoorbell_reads .., rfl⟩
    rw [sqAt_keepDoorbell, sqAt_sqMod_self, hq]
    rfl
  · subst hv
    exact sqTailWrite_taken h hsize (tailWrite_beyond ((sqAt_hostStores ..).trans hx) hle)
  · exact sqTailWrite_taken h hsize (tailWrite_noQueue ((sqAt_hostStores ..).trans hx))
  · subst hv
    exact congrArg _ ((doorbell_takes h hsize).trans (cqHeadWrite_within hx hlt hh))
  · subst hv
    exact congrArg _ ((doorbell_takes h hsize).trans (cqHeadWrite_beyond hx hle))
  · exact congrArg _ ((doorbell_takes h hsize).trans (cqHeadWrite_noQueue hx))
  · subst hv
    exact congrArg _ ((doorbell_takes h hsize).trans (faultHead_frees he hlt hw))
  · subst hv he
    exact congrArg _ ((doorbell_takes h hsize).trans (faultHead_beyond hle))
  · have hres := faultResolve_task (hid.symm ▸ ht) hp
    exact ⟨fun ha => (faultResolve_taken h (hres.trans (resolve_retries htime ha))).1,
      fun ha => (faultResolve_taken h (hres.trans (resolve_fails htime ha))).2,
      fun ha => faultResolve_taken h (hres.trans (resolve_invalid hlt ha))⟩
  · have hres := faultResolve_zone (hid.symm ▸ ht) (hid.symm ▸ hz)
    exact ⟨fun ha => (faultResolve_taken h (hres.trans (resolve_retries htime ha))).1,
      fun ha => (faultResolve_taken h (hres.trans (resolve_fails htime ha))).2⟩
  · exact faultResolve_taken h (faultResolve_late (hid.symm ▸ ht) (hid.symm ▸ hz) (hid.symm ▸ hx))
  · exact faultResolve_taken h (faultResolve_unknown (hid.symm ▸ ht) (hid.symm ▸ hz) (hid.symm ▸ hx))

end Sys2Proof.Machine
end

section
/-! PROOFS. CXL.mem, HDM decoders, resets of functions and links, PERST_N and training, configuration requests and IDE failures
(R264, R289, R291, R294, R296, R298, R312, R453, R473). -/

namespace Sys2Proof.Machine

/-! ### Requests to the channels (R285, R289) -/

/-- Nothing differs but the requests that wait at the channels. -/
def OnlyReqs (s u : State) : Prop := ∃ r, u = { s with ms := { s.ms with reqs := r } }

theorem requestBursts_onlyReqs (port pa n : Nat) (write : Bool) (s : State) : OnlyReqs s (requestBursts port pa n write s) := by
  unfold requestBursts
  split
  · exact ⟨_, rfl⟩
  · refine List.foldlRecOn _ _ (motive := OnlyReqs s) ⟨_, rfl⟩ fun u hu i _ => ?_
    obtain ⟨r, rfl⟩ := hu
    dsimp only
    split <;> exact ⟨_, rfl⟩

theorem requestMasked_dram (port pa cover : Nat) (s : State) : (requestMasked port pa cover s).ms.dram = s.ms.dram := by
  unfold requestMasked
  split <;> rfl

/-! ### CXL.mem reads (R264, R296) -/

section
variable {s : State} {link : Link} {hpa pa : Nat}

theorem cxlMemRead_unserved (h : memServed s = false ∨ linkExists s link.val = false) :
    exec (.cxlMemRead link hpa) s = .next s :=
  congrArg Host.Outcome.next (if_pos (by simpa using h))

theorem memServed_of_functionsLive (h : functionsLive s = true) : memServed s = true := by
  simp [memServed, h]

theorem not_hold_of_functionsLive (h : functionsLive s = true) : s.mode ≠ .hold := by
  intro hm
  simp [functionsLive, hm] at h

theorem hostLoad_failed (h : channelFailed s pa = true) (l : Nat) : hostLoad l pa s = s := if_pos h

/-- A channel that works answers from device memory as it stands: the request that the read queues leaves it alone (R289). -/
theorem hostLoad_answers (h : channelFailed s pa = false) (l : Nat) :
    (hostLoad l pa s).out = .memData l (physTake s pa 64) (poisoned s pa 64) :: s.out ∧
    (hostLoad l pa s).ms.dram = s.ms.dram := by
  obtain ⟨r, hr⟩ := requestBursts_onlyReqs (9 + l / 2) pa 64 false s
  unfold hostLoad
  rw [if_neg (by simp [h]), hr]
  dsimp only
  have hp : ∀ r, poisoned { s with ms := { s.ms with reqs := r } } pa 64 = poisoned s pa 64 := fun _ => rfl
  rw [hp]
  cases poisoned s pa 64 <;> exact ⟨rfl, rfl⟩

theorem cxlMemRead_mapped (hf : functionsLive s = true) (hl : linkExists s link.val = true)
    (ht : hdmTranslate s link.val (hpa / 64 * 64) = some pa) :
    exec (.cxlMemRead link hpa) s = .next (hostLoad link.val pa s) := by
  refine congrArg Host.Outcome.next ?_
  dsimp only
  rw [if_neg (by simp [memServed_of_functionsLive hf, hl]), if_neg (not_hold_of_functionsLive hf), ht]

theorem cxlMemRead_hold (hm : s.mode = .hold) (hl : linkExists s link.val = true) :
    exec (.cxlMemRead link hpa) s =
      .next (returnPoison link.val (takeFreeBytes 64 s).1 (takeFreeBytes 64 s).2) := by
  refine congrArg Host.Outcome.next ?_
  dsimp only
  rw [if_neg (by simp [memServed, hm, hl]), if_pos hm]

end

/-! ### CXL.mem writes (R219, R289, R296) -/

section
variable {s : State}

/-- The byte that a list of enabled bytes gives to the place x from an address, or what was there. -/
def enabledAt (pa : Nat) (bytes : List (Option Byte)) (m : List Host.Cell) (x : Nat) : Byte :=
  if pa ≤ x then (bytes[x - pa]?.join).getD (memGet m x) else memGet m x

/-- A byte of a list that is stored byte by byte: stored if it is enabled. -/
def storeEnabled (pa : Nat) (s : State) (e : Option Byte × Nat) : State :=
  match e.1 with
  | some v => physPut none (pa + e.2) [v] s
  | none => s

theorem storeCodeword_partial {pa : Nat} {bytes : List (Option Byte)} (h : bytes.all (·.isSome) = false) :
    storeCodeword pa bytes s = bytes.zipIdx.foldl (storeEnabled pa) s :=
  if_neg (by simp [h])

theorem storeCodeword_whole {pa : Nat} {bytes : List (Option Byte)} (h : bytes.all (·.isSome) = true) :
    storeCodeword pa bytes s = physPut none pa (bytes.map fun b => b.getD 0) s :=
  if_pos h

theorem physPut_wf {pa : Nat} {bytes : List Byte} (h : memWf s.ms.dram = true) :
    memWf (physPut none pa bytes s).ms.dram = true := memPut_wf _ _ _ h

theorem enabledAt_below {pa x : Nat} {bytes : List (Option Byte)} {m : List Host.Cell} (h : x < pa) :
    enabledAt pa bytes m x = memGet m x := if_neg (Nat.not_le.mpr h)

theorem enabledAt_from {pa x : Nat} {bytes : List (Option Byte)} {m : List Host.Cell} (h : pa ≤ x) :
    enabledAt pa bytes m x = (bytes[x - pa]?.join).getD (memGet m x) := if_pos h

theorem enabledAt_beyond {pa x : Nat} {bytes : List (Option Byte)} {m : List Host.Cell} (h : pa + bytes.length ≤ x) :
    enabledAt pa bytes m x = memGet m x := by
  rw [enabledAt_from (by omega), List.getElem?_eq_none (by omega)]
  rfl

theorem enabledAt_empty (pa x : Nat) (m : List Host.Cell) : enabledAt pa [] m x = memGet m x := by
  unfold enabledAt
  split <;> rfl

/-- Enabled bytes stored in two parts, one behind the other. -/
theorem enabledAt_split {pa k x : Nat} {bytes : List (Option Byte)} {m m' : List Host.Cell}
    (h : ∀ y, memGet m' y = enabledAt pa (bytes.take k) m y) :
    enabledAt (pa + k) (bytes.drop k) m' x = enabledAt pa bytes m x := by
  by_cases hlo : x < pa
  · rw [enabledAt_below (by omega), h, enabledAt_below hlo, enabledAt_below hlo]
  · have hpa : pa ≤ x := Nat.le_of_not_lt hlo
    by_cases hk : x < pa + k
    · rw [enabledAt_below hk, h, enabledAt_from hpa, enabledAt_from hpa, List.getElem?_take_of_lt (by omega)]
    · rw [enabledAt_from (by omega), enabledAt_from hpa, h, enabledAt_beyond (by rw [List.length_take]; omega),
        List.getElem?_drop, show k + (x - (pa + k)) = x - pa by omega]

theorem memGet_physPut_enabled (pa : Nat) (bytes : List Byte) (h : memWf s.ms.dram = true) (x : Nat) :
    memGet (physPut none pa bytes s).ms.dram x = enabledAt pa (bytes.map some) s.ms.dram x := by
  rw [memGet_physPut none pa bytes s x (tsorted_of_wf h)]
  by_cases hin : pa ≤ x ∧ x < pa + bytes.length
  · rw [if_pos hin, enabledAt_from hin.1, List.getElem?_map, List.getElem?_eq_getElem (by omega)]
    exact List.getD_eq_getElem _ _ (by omega)
  · rw [if_neg hin]
    by_cases hlo : x < pa
    · rw [enabledAt_below hlo]
    · rw [enabledAt_beyond (by rw [List.length_map]; omega)]

theorem memGet_storeEnabled {pa i : Nat} {b : Option Byte} (h : memWf s.ms.dram = true) :
    memWf (storeEnabled pa s (b, i)).ms.dram = true ∧
    ∀ x, memGet (storeEnabled pa s (b, i)).ms.dram x = enabledAt (pa + i) [b] s.ms.dram x := by
  cases b with
  | none =>
    refine ⟨h, fun x => ?_⟩
    by_cases hlo : x < pa + i
    · exact (enabledAt_below hlo).symm
    · rw [enabledAt_from (by omega)]
      cases x - (pa + i) <;> rfl
  | some v => exact ⟨physPut_wf h, memGet_physPut_enabled (pa + i) [v] h⟩

theorem memGet_foldl_storeEnabled (bytes : List (Option Byte)) (pa k : Nat) (h : memWf s.ms.dram = true) :
    memWf ((bytes.zipIdx k).foldl (storeEnabled pa) s).ms.dram = true ∧
    ∀ x, memGet ((bytes.zipIdx k).foldl (storeEnabled pa) s).ms.dram x = enabledAt (pa + k) bytes s.ms.dram x := by
  induction bytes generalizing k s with
  | nil => exact ⟨h, fun x => (enabledAt_empty ..).symm⟩
  | cons b bytes ih =>
    obtain ⟨hwf, hget⟩ := memGet_storeEnabled (pa := pa) (i := k) (b := b) h
    obtain ⟨hwf', hget'⟩ := ih (k + 1) hwf
    rw [List.zipIdx_cons, List.foldl_cons]
    exact ⟨hwf', fun x => (hget' x).trans (enabledAt_split (pa := pa + k) (k := 1) (bytes := b :: bytes) hget)⟩

/-- A codeword of a host's write changes the bytes enabled, whole or byte by byte (R289). -/
theorem memGet_storeCodeword (bytes : List (Option Byte)) (pa : Nat) (h : memWf s.ms.dram = true) :
    memWf (storeCodeword pa bytes s).ms.dram = true ∧
    ∀ x, memGet (storeCodeword pa bytes s).ms.dram x = enabledAt pa bytes s.ms.dram x := by
  cases hall : bytes.all (·.isSome) with
  | false =>
    rw [storeCodeword_partial hall]
    exact memGet_foldl_storeEnabled bytes pa 0 h
  | true =>
    rw [storeCodeword_whole hall]
    refine ⟨physPut_wf h, fun x => (memGet_physPut_enabled pa _ h x).trans ?_⟩
    rw [List.map_map, List.map_congr_left (g := id) fun b hb => ?_, List.map_id]
    obtain ⟨v, rfl⟩ := Option.isSome_iff_exists.mp (List.all_eq_true.mp hall b hb)
    rfl

/-- A host's write of 64 bytes is two codewords (R289). -/
theorem memGet_storeHalves (bytes : List (Option Byte)) (pa x : Nat) (h : memWf s.ms.dram = true) :
    memGet (storeCodeword (pa + 32) (bytes.drop 32) (storeCodeword pa (bytes.take 32) s)).ms.dram x =
      enabledAt pa bytes s.ms.dram x := by
  obtain ⟨hwf, hget⟩ := memGet_storeCodeword (bytes.take 32) pa h
  exact ((memGet_storeCodeword _ _ hwf).2 x).trans (enabledAt_split hget)

/-- The 64 places of a host's write: its bytes, and none where it has fewer (R296). -/
def writePlaces (data : List (Option Byte)) : List (Option Byte) := data.take 64 ++ List.replicate (64 - data.length) none

theorem enabledAt_writePlaces (pa x : Nat) (data : List (Option Byte)) (m : List Host.Cell) :
    enabledAt pa (writePlaces data) m x =
      if pa ≤ x ∧ x < pa + 64 then (data[x - pa]?.join).getD (memGet m x) else memGet m x := by
  by_cases hlo : x < pa
  · rw [enabledAt_below hlo, if_neg (by omega)]
  by_cases hhi : x < pa + 64
  · rw [enabledAt_from (by omega), if_pos (by omega), writePlaces, List.getElem?_append]
    split
    · rw [List.getElem?_take_of_lt (by omega)]
    · rw [List.getElem?_eq_none (by simp at *; omega : data.length ≤ x - pa), List.getElem?_replicate]
      split <;> rfl
  · rw [enabledAt_beyond (by simp [writePlaces]; omega), if_neg (by omega)]

end

section
variable {s : State} {link : Link} {hpa pa : Nat} {data : List (Option Byte)}

theorem cxlMemWrite_unserved (h : memServed s = false ∨ linkExists s link.val = false) :
    exec (.cxlMemWrite link hpa data) s = .next s :=
  congrArg Host.Outcome.next (if_pos (by simpa using h))

theorem cxlMemWrite_hold (hm : s.mode = .hold) (hl : linkExists s link.val = true) :
    exec (.cxlMemWrite link hpa data) s = .next (emit (.memDone link.val) s) := by
  refine congrArg Host.Outcome.next ?_
  dsimp only
  rw [if_neg (by simp [memServed, hm, hl]), if_pos hm]

section
variable (hf : functionsLive s = true) (hl : linkExists s link.val = true)
  (ht : hdmTranslate s link.val (hpa / 64 * 64) = some pa)
include hf hl ht

theorem cxlMemWrite_failed (hc : channelFailed s pa = true) : exec (.cxlMemWrite link hpa data) s = .next s := by
  refine congrArg Host.Outcome.next ?_
  dsimp only
  rw [if_neg (by simp [memServed_of_functionsLive hf, hl]), if_neg (not_hold_of_functionsLive hf), ht]
  exact if_pos hc

theorem cxlMemWrite_stores (hc : channelFailed s pa = false) : ∃ cover, exec (.cxlMemWrite link hpa data) s =
    .next (emit (.memDone link.val) (storeCodeword (pa + 32) ((writePlaces data).drop 32)
      (storeCodeword pa ((writePlaces data).take 32) (requestMasked (9 + link.val / 2) pa cover s)))) := by
  change ∃ cover, execCxlMemWrite link hpa data s = _
  unfold execCxlMemWrite
  dsimp only
  rw [if_neg (by simp [memServed_of_functionsLive hf, hl]), if_neg (not_hold_of_functionsLive hf), ht]
  exact ⟨_, congrArg _ (if_neg (by simp [hc]))⟩

/-- A host's write changes exactly the bytes enabled. -/
theorem cxlMemWrite_dram (hc : channelFailed s pa = false) (hwf : memWf s.ms.dram = true) :
    Reaches (.cxlMemWrite link hpa data) s fun u => ∀ x, memGet u.ms.dram x =
      if pa ≤ x ∧ x < pa + 64 then (data[x - pa]?.join).getD (memGet s.ms.dram x) else memGet s.ms.dram x := by
  obtain ⟨cover, hu⟩ := cxlMemWrite_stores (data := data) hf hl ht hc
  refine ⟨_, hu, fun x => (memGet_storeHalves _ pa x ?_).trans ?_⟩
  · rwa [requestMasked_dram]
  · rw [requestMasked_dram, enabledAt_writePlaces]

end
end

/-! ### HDM decoders (R296, Table 14-1) -/

/-- The state with an HDM decoder of a link put in its place. -/
def putHdm (k : Nat) (d : HdmDec) (s : State) : State := { s with cx := { s.cx with hdm := tset s.cx.hdm k d } }

theorem tfind_putHdm (k : Nat) (d : HdmDec) (s : State) : tfind (putHdm k d s).cx.hdm k = some d := tfind_tset_self ..

theorem hdmMaps_iff (d : HdmDec) (k pa : Nat) : hdmMaps d k = some pa ↔
    d.committed = true ∧ d.hpa ≤ k ∧ k < d.hpa + d.size ∧ (k - d.hpa) / d.gran % d.ways = d.place ∧
      pa = d.dpa + (k - d.hpa) / (d.gran * d.ways) * d.gran + (k - d.hpa) % d.gran := by
  unfold hdmMaps
  dsimp only
  by_cases hin : d.committed = true ∧ d.hpa ≤ k ∧ k < d.hpa + d.size
  · obtain ⟨hc, hlo, hhi⟩ := hin
    rw [if_pos (by simp [hc, hlo, hhi])]
    simp [hc, hlo, hhi, eq_comm]
  · rw [if_neg (by simpa [and_assoc] using hin)]
    exact iff_of_false (fun h => nomatch h) fun ⟨hc, hlo, hhi, _⟩ => hin ⟨hc, hlo, hhi⟩

section
variable {s : State} {link : Link} {n : Fin 8} {hpa size dpa ways gran place : Nat}
  (hl : linkExists s link.val = true) (hn : n.val < decoderCount s link.val)
include hl hn

theorem hdmCommit_uncommits : exec (.hdmCommit link n false hpa size dpa ways gran place) s = .next
    (putHdm (link.val * 8 + n.val) { tget {} s.cx.hdm (link.val * 8 + n.val) with committed := false, failed := false } s) :=
  congrArg Host.Outcome.next ((if_neg (by simp [hl, hn])).trans (if_pos rfl))

theorem hdmCommit_kept (hold : (tget {} s.cx.hdm (link.val * 8 + n.val)).committed = true) :
    exec (.hdmCommit link n true hpa size dpa ways gran place) s = .next s :=
  congrArg Host.Outcome.next ((if_neg (by simp [hl, hn])).trans ((if_neg (by decide)).trans (if_pos hold)))

variable (hold : (tget {} s.cx.hdm (link.val * 8 + n.val)).committed = false) {d : HdmDec}
  (hd : d = { hpa := hpa, size := size, dpa := dpa, ways := ways, gran := gran, place := place })
include hold hd

theorem hdmCommit_commits (hfit : interleaveFits d = true) (hin : hdmAllowed s link.val d = true) :
    exec (.hdmCommit link n true hpa size dpa ways gran place) s = .next
      (putHdm (link.val * 8 + n.val) { d with committed := true } s) := by
  subst hd
  exact congrArg Host.Outcome.next ((if_neg (by simp [hl, hn])).trans ((if_neg (by decide)).trans
    ((if_neg (by simp [hold])).trans (if_pos (by simp [hfit, hin])))))

theorem hdmCommit_fails (hno : interleaveFits d = false ∨ hdmAllowed s link.val d = false) :
    exec (.hdmCommit link n true hpa size dpa ways gran place) s = .next
      (putHdm (link.val * 8 + n.val) { d with failed := true } s) := by
  subst hd
  exact congrArg Host.Outcome.next ((if_neg (by simp [hl, hn])).trans ((if_neg (by decide)).trans
    ((if_neg (by simp [hold])).trans (if_neg (by rcases hno with h | h <;> simp [h])))))

end

/-! ### Resets of functions and links (R298, R314, R320) -/

section
variable {s : State} {i : Inst} {link : Link}

theorem resetInst_begins {n cause : Nat} (h0 : n ≠ 0) (h : instSt s n = 1 ∨ instSt s n = 3 ∨ instSt s n = 4) :
    resetInst n cause s = beginReset n cause 2 s :=
  (if_neg h0).trans (if_neg (by rcases h with h | h | h <;> simp [h]))

theorem resetInst_joins {n cause : Nat} (h0 : n ≠ 0) (h : instSt s n = 0 ∨ instSt s n = 2 ∨ instSt s n = 5) :
    resetInst n cause s = s :=
  (if_neg h0).trans (if_pos (by rcases h with h | h | h <;> simp [h]))

theorem instSt_beginReset (n cause st : Nat) (s : State) : instSt (beginReset n cause st s) n = st :=
  instSt_setInstSt_self ..

theorem flr_resets (hf : functionsLive s = true) (h0 : i.val ≠ 0) :
    exec (.flr i) s = .next (resetInst i.val 1 (clearFunctions (fun f => f = 4096 * instLink s i.val + i.val) s)) :=
  congrArg Host.Outcome.next (if_pos (by simp [hf, h0]))

theorem flr_stays (h : functionsLive s = false ∨ i.val = 0) : exec (.flr i) s = .next s :=
  congrArg Host.Outcome.next (if_neg (by rcases h with h | h <;> simp [h]))

theorem pf0Flr_stays (h : functionsLive s = false ∨ link.val ≠ od s 0x2400 2) : exec (.pf0Flr link) s = .next s :=
  congrArg Host.Outcome.next (if_neg (by rcases h with h | h <;> simp [h]))

theorem pf0Flr_resets (hf : functionsLive s = true) (h : link.val = od s 0x2400 2) :
    exec (.pf0Flr link) s = .next (resetQueues 0 1 s) :=
  congrArg Host.Outcome.next (if_pos (by simp [hf, h]))

theorem inst_resetQueues (n cause : Nat) (s : State) :
    (inst (resetQueues n cause s) n).sqs = [] ∧ (inst (resetQueues n cause s) n).cqs = [] := by
  unfold resetQueues
  obtain ⟨hsqs, hcqs, _⟩ := inst_deleteQueues n _
  exact ⟨hsqs, hcqs⟩

theorem hotReset_stays (h : functionsLive s = false) : exec (.hotReset link) s = .next s :=
  congrArg Host.Outcome.next (if_neg (by simp [h]))

theorem hotReset_resets (hf : functionsLive s = true) (hl : linkExists s link.val = true) :
    exec (.hotReset link) s = .next (resetLink link.val (clearFunctions (fun f => f / 4096 = link.val) s)) :=
  congrArg Host.Outcome.next (if_pos (by simp [hf, hl]))

theorem cfgKey_function (l fn : Nat) (r : CfgReg) : cfgKey l fn r / 4 = 4096 * l + fn := by
  unfold cfgKey
  cases r <;> dsimp only <;> omega

theorem tfind_filter_out {α : Type} (t : Tbl α) (p : Nat × α → Bool) (k : Nat) (h : ∀ v, p (k, v) = false) :
    tfind (t.filter p) k = none := by
  induction t with
  | nil => rfl
  | cons e t ih =>
    obtain ⟨q, v⟩ := e
    by_cases hq : q = k
    · subst hq
      rw [List.filter_cons_of_neg (by simp [h]), ih]
    · rw [List.filter_cons]
      split
      · rw [tfind, if_neg hq, ih]
      · exact ih

/-- A function that a reset reaches has its registers' defaults (log entry 67). -/
theorem cfgValue_clearFunctions {p : Nat → Bool} {l fn : Nat} (h : p (4096 * l + fn) = true) (r : CfgReg) :
    cfgValue (clearFunctions p s) l fn r = cfgDefault r := by
  unfold cfgValue tget clearFunctions
  rw [tfind_filter_out _ _ _ fun v => by rw [cfgKey_function, h]; rfl]
  rfl

end

/-! ### PERST_N and training (R294, R298, R473) -/

/-- The links whose PERST_N is asserted once that of a link has the level given. -/
def perstAt (l : Nat) (asserted : Bool) (s : State) : State :=
  { s with cx := { s.cx with perst := if asserted then s.cx.perst.filter (· ≠ l) ++ [l] else s.cx.perst.filter (· ≠ l) } }

/-- A link that goes down: neither trained nor with a width, its functions as after reset. -/
def cxlLinkDown (l : Nat) (s : State) : State :=
  odSet (0x2410 + l) 1 0 (odSet (0x2410 + l) 2 0 (clearFunctions (fun f => f / 4096 = l) (perstAt l true s)))

theorem cxlLinkDown_reads (l : Nat) (s : State) :
    od (cxlLinkDown l s) (0x2410 + l) 1 = 0 ∧ od (cxlLinkDown l s) (0x2410 + l) 2 = 0 ∧
    l ∈ (cxlLinkDown l s).cx.perst ∧ (cxlLinkDown l s).js = s.js := by
  unfold cxlLinkDown
  refine ⟨od_odSet_self .., ?_, ?_, ?_⟩
  · rw [od_odSet_ne _ _ _ _ _ _ (by simp [odKey]), od_odSet_self]
  · rw [odSet_cx, odSet_cx]
    simp [clearFunctions, perstAt]
  · rw [odSet_js, odSet_js]
    rfl

section
variable {s : State} {link : Link} (ho : s.mode ≠ .off) (hu : s.mode ≠ .fuseLoad) (hl : linkExists s link.val = true)
include ho hu hl

theorem perstN_asserted : exec (.perstN link true) s =
    .next (if functionsLive s then resetLink link.val (cxlLinkDown link.val s) else cxlLinkDown link.val s) :=
  congrArg Host.Outcome.next ((if_neg (by simp [ho, hu, hl])).trans (if_pos rfl))

theorem perstN_deasserted (h : link.val ∈ s.cx.perst) :
    exec (.perstN link false) s = .next (odSet (0x2410 + link.val) 1 1 (perstAt link.val false s)) :=
  congrArg Host.Outcome.next ((if_neg (by simp [ho, hu, hl])).trans ((if_neg (by decide)).trans (if_pos (by simpa using h))))

theorem cxlLinkTrained_trains (hp : link.val ∉ s.cx.perst) (hd : od s (0x2410 + link.val) 1 ≤ 1) (fast : Bool) :
    exec (.cxlLinkTrained link fast) s = .next (odSet (0x2410 + link.val) 1 (if fast then 2 else 3)
      (odSet (0x2410 + link.val) 2 (if portSplit s link.val then 8 else 16) s)) :=
  congrArg Host.Outcome.next (if_neg (by simp [ho, hu, hl, hp, hd]))

omit ho hu hl in
theorem cxlLinkTrained_stays (h : link.val ∈ s.cx.perst ∨ 1 < od s (0x2410 + link.val) 1) (fast : Bool) :
    exec (.cxlLinkTrained link fast) s = .next s :=
  congrArg Host.Outcome.next (if_pos (by rcases h with h | h <;> simp [h]))

end

/-! ### Configuration requests (R294, Tables 14-1 and 14-2) -/

/-- Vectors that are sent leave the registers and the vectors of every function as they were. -/
theorem sendPending_keepsTables (l fn : Nat) (s : State) :
    (sendPending l fn s).cx.cfg = s.cx.cfg ∧ (sendPending l fn s).cx.vectors = s.cx.vectors := by
  unfold sendPending
  exact List.foldlRecOn _ _ (motive := fun u : State => u.cx.cfg = s.cx.cfg ∧ u.cx.vectors = s.cx.vectors) ⟨rfl, rfl⟩
    fun _ hu _ _ => hu

section
variable {s : State} {link : Link} {i : Inst} {x : IoAccess} (ho : s.mode ≠ .off) (hl : linkExists s link.val = true)
include ho hl

theorem configurationRequest_retried (hm : s.mode = .fuseLoad ∨ s.mode = .configLoad) :
    exec (.configurationRequest link ⟨i, x⟩) s =
      .next (if configAccess x then emit (.config link.val i.val true 0) s else s) :=
  congrArg Host.Outcome.next ((if_neg (by simp [ho, hl])).trans (if_pos (by simpa using hm)))

theorem configurationRequest_served (hu : s.mode ≠ .fuseLoad) (hc : s.mode ≠ .configLoad) :
    exec (.configurationRequest link ⟨i, x⟩) s = .next (ioAccess link.val i.val x s) :=
  congrArg Host.Outcome.next ((if_neg (by simp [ho, hl])).trans (if_neg (by simp [hu, hc])))

end

theorem cfgValue_cfgWrite (l fn : Nat) (r : CfgReg) (v : Nat) (s : State) :
    cfgValue (ioAccess l fn (.cfgWrite r v) s) l fn r = v := by
  unfold cfgValue ioAccess
  dsimp only
  rw [(sendPending_keepsTables ..).1]
  exact tget_tset_self ..

theorem vectors_vectorWrite (l fn : Nat) (v : Fin 2048) (address data : Nat) (masked : Bool) (s : State) :
    tget {} (ioAccess l fn (.vectorWrite v address data masked) s).cx.vectors (vecKey l fn v.val) = ⟨address, data, masked⟩ := by
  unfold ioAccess
  dsimp only
  rw [(sendPending_keepsTables ..).2]
  exact tget_tset_self ..

theorem keyGo_secures {l fn : Nat} {s : State} (h : (tfind s.cx.ideKeys l).isSome = true) :
    l ∈ (ioAccess l fn .keyGo s).cx.secure ∧ l ∉ (ioAccess l fn .keyGo s).cx.insecure := by
  unfold ioAccess
  dsimp only
  rw [if_neg (by simp [Option.isSome_iff_ne_none.mp h])]
  simp

theorem keyGo_noKey {l fn : Nat} {s : State} (h : tfind s.cx.ideKeys l = none) : ioAccess l fn .keyGo s = s :=
  if_pos (by simp [h])

/-! ### IDE failures (R312) -/

theorem foldl_cx {α : Type} {f : State → α → State} (hf : ∀ s a, (f s a).cx = s.cx) (l : List α) (s : State) :
    (l.foldl f s).cx = s.cx :=
  List.foldlRecOn l f (motive := fun u => u.cx = s.cx) rfl fun u hu a _ => (hf u a).trans hu

theorem setUnitState_cx (u v : Nat) (s : State) : (setUnitState u v s).cx = s.cx := by
  unfold setUnitState
  split <;> rfl

theorem stopTask_cx (slot : Nat) (cancel : Bool) (s : State) : (stopTask slot cancel s).cx = s.cx := by
  have hleave : ∀ (t : Task) (s : State), (leaveReady t (leaveRunning t s)).cx = s.cx := fun t s => by
    unfold leaveReady leaveRunning
    split <;> split <;> rfl
  have hstall : ∀ (t : Task) (s : State), (countStall t s).cx = s.cx := fun t s => by
    unfold countStall unitCount
    split
    · split <;> rfl
    · rfl
  have hclear : ∀ (t : Task) (s : State), (clearGroups t s).cx = s.cx := fun t s =>
    foldl_cx (fun s u => setUnitState_cx u 3 s) _ s
  have hhalt : ∀ (t : Task) (s : State), (haltChannel t cancel s).cx = s.cx := fun t s => by
    unfold haltChannel
    split <;> rfl
  unfold stopTask
  split
  · rfl
  · exact (hhalt _ _).trans ((hclear _ _).trans ((hstall _ _).trans (hleave _ s)))

theorem wakeTask_cx (slot : Nat) (s : State) : (wakeTask slot s).cx = s.cx := rfl

theorem setFlags_cx (slot : Nat) (fl : BitVec 32) (s : State) : (setFlags slot fl s).cx = s.cx := by
  have hnote : ∀ (t : Task) (s : State), (noteEvent t fl s).cx = s.cx := fun t s => by
    unfold noteEvent
    split <;> rfl
  unfold setFlags
  split
  · rfl
  · dsimp only
    split
    · rw [wakeTask_cx, taskMod_cx]
      exact hnote _ s
    · rw [taskMod_cx]
      exact hnote _ s

theorem releaseSpill_cx (jid : Nat) (s : State) : (releaseSpill jid s).cx = s.cx := by
  unfold releaseSpill
  split
  · rfl
  · split
    · rfl
    · exact setFlagsWhere_holds (P := fun u => u.cx = s.cx) _ _ (fun k fl u hu => (setFlags_cx k fl u).trans hu)
        (fun _ _ hu => hu) _ rfl

/-- A job that fails leaves the links and their streams as they were (R479). -/
theorem failJob_cx (jid status : Nat) (er : ErrRec) (s : State) : (failJob jid status er s).cx = s.cx := by
  have hend : ∀ (j : Job) (f : Job → Job) (s : State), (jobMod jid f (dropFaults j (closeZones jid 4 s))).cx = s.cx :=
    fun _ _ _ => rfl
  unfold failJob
  split
  · rfl
  · split
    · split <;> rfl
    · have hstop := foldl_cx (fun s k => stopTask_cx k true s) (slotsWhere s fun t => t.jid = jid) s
      exact (hend _ _ _).trans ((releaseSpill_cx jid _).trans hstop)

theorem failTask_cx (slot status : Nat) (er : ErrRec) (s : State) : (failTask slot status er s).cx = s.cx := by
  unfold failTask
  split
  · rfl
  · exact failJob_cx ..

/-- The state with a link's IDE streams insecure, and the failure counted. -/
def ideInsecure (l : Nat) (s : State) : State :=
  odBump 0x2400 6 { s with cx := { s.cx with
    insecure := s.cx.insecure.filter (· ≠ l) ++ [l], secure := s.cx.secure.filter (· ≠ l) } }

theorem ideInsecure_reads (l : Nat) (s : State) : l ∈ (ideInsecure l s).cx.insecure ∧ l ∉ (ideInsecure l s).cx.secure ∧
    od (ideInsecure l s) 0x2400 6 = (od s 0x2400 6 + 1) % 2 ^ 64 ∧ (ideInsecure l s).js = s.js :=
  ⟨by simp [ideInsecure], by simp [ideInsecure], od_odSet_self .., rfl⟩

section
variable {s : State} {link : Link}

theorem ideFailure_unserved (h : memServed s = false ∨ linkExists s link.val = false) (reads : List (Nat × Nat)) :
    exec (.ideFailure link reads) s = .next s :=
  congrArg Host.Outcome.next (if_pos (by simpa using h))

theorem ideFailure_fails (h : memServed s = true) (hl : linkExists s link.val = true) (reads : List (Nat × Nat)) :
    exec (.ideFailure link reads) s = .next (if s.mode = .hold then ideInsecure link.val s
      else reads.foldl (fun s u => failTask u.1 0x0304 { address := u.2 } s) (ideInsecure link.val s)) :=
  congrArg Host.Outcome.next (if_neg (by simp [h, hl]))

end

/-- Settles O53, command by command: where each is served, what it makes of its operands, and where it changes nothing. -/
theorem cxlLinkCommands : Obligations.CxlLinkCommands := by
  unfold Obligations.CxlLinkCommands
  intro s link i n hpa size dpa ways gran place a data
  refine ⟨fun h => ⟨cxlMemRead_unserved h, cxlMemWrite_unserved h, ideFailure_unserved h []⟩,
    fun hf hl ha pa hpa => ?_, fun hm hl => ⟨?_, ?_⟩, fun hl hn old d hold hd => ?_, hdmMaps_iff, fun hf => ?_,
    fun hf => ⟨flr_stays (.inl hf), pf0Flr_stays (.inl hf), hotReset_stays hf⟩, fun ho hu hl => ?_, fun ho hl => ?_,
    fun h hl => ?_⟩
  · subst ha
    refine ⟨fun hc => ⟨?_, cxlMemWrite_failed hf hl hpa hc⟩,
      fun hc => ⟨⟨_, cxlMemRead_mapped hf hl hpa, hostLoad_answers hc _⟩, cxlMemWrite_dram hf hl hpa hc⟩⟩
    rw [cxlMemRead_mapped hf hl hpa, hostLoad_failed hc]
  · exact ⟨_, cxlMemRead_hold hm hl, _, rfl, by simp [takeFreeBytes]⟩
  · exact ⟨_, cxlMemWrite_hold hm hl, rfl⟩
  · subst hold
    exact ⟨fun ho hfit hin => ⟨_, hdmCommit_commits hl hn ho hd hfit hin, tfind_putHdm ..⟩,
      fun ho hno => ⟨_, hdmCommit_fails hl hn ho hd hno, tfind_putHdm ..⟩, fun ho => hdmCommit_kept hl hn ho,
      ⟨_, hdmCommit_uncommits hl hn, tfind_putHdm ..⟩⟩
  · refine ⟨fun h0 hst v hv => ⟨?_, instSt_beginReset ..⟩, fun h0 => flr_stays (.inr h0), fun h0 hst => ?_,
      cfgValue_clearFunctions (by simp), fun hm => ⟨pf0Flr_resets hf hm, inst_resetQueues 0 1 s⟩,
      fun hm => pf0Flr_stays (.inr hm), fun hl v hv => ?_⟩
    · rw [flr_resets hf h0, ← hv, resetInst_begins h0 (hv ▸ hst)]
    · exact (flr_resets hf h0).trans (congrArg _ (resetInst_joins h0 hst))
    · rw [hotReset_resets hf hl, ← hv]
      rfl
  · refine ⟨fun hf => ?_, fun hf => ?_, fun hp => ⟨_, perstN_deasserted ho hu hl hp, ?_⟩,
      fun hp hd fast => ⟨_, cxlLinkTrained_trains ho hu hl hp hd fast, ?_⟩, cxlLinkTrained_stays⟩
    · obtain ⟨hdown, hwidth, hperst, _⟩ := cxlLinkDown_reads link.val s
      exact ⟨_, perstN_asserted ho hu hl, by rw [if_neg (by simp [hf])]; exact ⟨hdown, hwidth, hperst⟩⟩
    · exact ⟨_, perstN_asserted ho hu hl, _, if_pos hf, cxlLinkDown_reads link.val s⟩
    · exact ⟨od_odSet_self .., by simp [perstAt]⟩
    · exact ⟨od_odSet_self .., (od_odSet_ne _ _ _ _ _ _ (by simp [odKey])).trans (od_odSet_self ..)⟩
  · refine ⟨fun x hm => configurationRequest_retried ho hl hm, fun hu hc => ?_⟩
    have hserved : ∀ x, exec (.configurationRequest link ⟨i, x⟩) s = .next (ioAccess link.val i.val x s) :=
      fun x => configurationRequest_served ho hl hu hc
    refine ⟨fun r => hserved _, fun r v => ⟨_, hserved _, cfgValue_cfgWrite ..⟩, fun o => hserved _,
      fun v ad dt mk => ⟨_, hserved _, vectors_vectorWrite ..⟩, fun v => ?_,
      fun key => ⟨_, hserved _, tfind_tset_self ..⟩, fun hk => ⟨_, hserved _, keyGo_secures hk⟩,
      fun hk => (hserved _).trans (congrArg _ (keyGo_noKey hk)), ⟨_, hserved _, ?_⟩⟩
    · rw [hserved]
      simp [ioAccess, emit]
    · simp [ioAccess]
  · obtain ⟨hbad, hsecure, hcount, hjs⟩ := ideInsecure_reads link.val s
    refine ⟨⟨_, ideFailure_fails h hl [], ?_⟩, fun slot t hm ht => ⟨_, ideFailure_fails h hl [(slot, a)], ?_⟩⟩
    · rw [List.foldl_nil, ite_self]
      exact ⟨hbad, hcount, hjs⟩
    · rw [if_neg hm, List.foldl_cons, List.foldl_nil]
      have hfails := failTask_jobFails (s' := ideInsecure link.val s) (status := 0x0304) (er := { address := a }) ht rfl rfl
      refine ⟨?_, ?_, hfails⟩
      · rwa [failTask_cx]
      · rwa [failTask_cx]

end Sys2Proof.Machine
end

section
/-! PROOFS. What the controller and the entries of a DRAM channel read after an update (R276, Table 13-8). -/

namespace Sys2Proof.Machine

/-! ### A channel's controller -/

@[simp] theorem chan_chanMod_self (c : Nat) (f : Chan → Chan) (s : State) : chan (chanMod c f s) c = f (chan s c) := by
  simp [chan, chanMod, tmod, tget_tset_self]

@[simp] theorem chan_odSet (i j v : Nat) (s : State) (c : Nat) : chan (odSet i j v s) c = chan s c := rfl
@[simp] theorem chan_odAdd (i j v : Nat) (s : State) (c : Nat) : chan (odAdd i j v s) c = chan s c := rfl
@[simp] theorem chan_odBump (i j : Nat) (s : State) (c : Nat) : chan (odBump i j s) c = chan s c := rfl

/-! ### Counters and entries of a channel -/

@[simp] theorem od_odAdd_self (i j n : Nat) (s : State) : od (odAdd i j n s) i j = (od s i j + n) % 2 ^ 64 := od_odSet_self ..

@[simp] theorem od_odBump_self (i j : Nat) (s : State) : od (odBump i j s) i j = (od s i j + 1) % 2 ^ 64 := od_odSet_self ..

/-- A store leaves the entries of every other subindex as they were, at whatever index. -/
theorem od_odSet_otherSub {sub j : Nat} (hs : sub < 256) (hj : j < 256) (h : sub ≠ j) (idx v i : Nat) (s : State) :
    od (odSet idx sub v s) i j = od s i j :=
  od_odSet_ne _ _ _ _ _ _ fun he => h (odKey_inj hs hj he).2

@[simp] theorem chanState_odSet_self (c v : Nat) (s : State) : chanState (odSet (0x2020 + c) 1 v s) c = v := od_odSet_self ..

theorem chanState_odSet_otherSub {sub : Nat} (hs : sub < 256) (h : sub ≠ 1) (idx v : Nat) (s : State) (c : Nat) :
    chanState (odSet idx sub v s) c = chanState s c := od_odSet_otherSub hs (by decide) h ..

end Sys2Proof.Machine
end

section
/-! PROOFS. The scheduler of a DRAM channel, what ECC finds, row-disturbance windows and penalties, and the patrol scrub (R284 to
R290). -/

namespace Sys2Proof.Machine

/-! ### The bid that is picked (R285) -/

/-- A bid's keys in the order of R285: urgency from the highest, an open-row hit first, arrival, port. -/
def bidKey (b : Bid) : ℕᵒᵈ ×ₗ Bool ×ₗ ℕ ×ₗ ℕ :=
  toLex (OrderDual.toDual b.urgency, toLex (!b.hit, toLex (b.arrival, b.port)))

theorem bidKey_lt_iff (a b : Bid) : bidKey a < bidKey b ↔ b.urgency < a.urgency ∨ (a.urgency = b.urgency ∧
    ((a.hit = true ∧ b.hit = false) ∨ (a.hit = b.hit ∧
      (a.arrival < b.arrival ∨ (a.arrival = b.arrival ∧ a.port < b.port))))) := by
  simp [bidKey, Prod.Lex.toLex_lt_toLex, Bool.lt_iff]

theorem bidBefore_iff (a b : Bid) : bidBefore a b = true ↔ bidKey a < bidKey b := by
  rw [bidKey_lt_iff]
  unfold bidBefore
  by_cases hu : a.urgency = b.urgency
  · by_cases hh : a.hit = b.hit
    · by_cases ha : a.arrival = b.arrival <;> simp [hu, hh, ha]
    · cases hb : b.hit <;> simp_all
  · simp [hu]

theorem pickBid_eq_none {l : List Bid} (h : pickBid l = none) : l = [] := by
  cases l with
  | nil => rfl
  | cons a l =>
    unfold pickBid at h
    cases hl : pickBid l with
    | none => simp [hl] at h
    | some x => cases hx : bidBefore x a <;> simp [hl, hx] at h

/-- The bid picked is one of the bids, and none has smaller keys. -/
theorem pickBid_least {l : List Bid} {b : Bid} (h : pickBid l = some b) : b ∈ l ∧ ∀ x ∈ l, bidKey b ≤ bidKey x := by
  induction l generalizing b with
  | nil => cases h
  | cons a l ih =>
    unfold pickBid at h
    cases hl : pickBid l with
    | none =>
      rw [hl] at h
      obtain rfl : a = b := Option.some.inj h
      simp [pickBid_eq_none hl]
    | some x =>
      obtain ⟨hmem, hle⟩ := ih hl
      rw [hl] at h
      dsimp only at h
      split at h
      next hx =>
        obtain rfl : x = b := Option.some.inj h
        exact ⟨.tail _ hmem, List.forall_mem_cons.mpr ⟨((bidBefore_iff ..).mp hx).le, hle⟩⟩
      next hx =>
        obtain rfl : a = b := Option.some.inj h
        have hax : bidKey a ≤ bidKey x := not_lt.mp (mt (bidBefore_iff ..).mpr hx)
        exact ⟨.head _, List.forall_mem_cons.mpr ⟨le_rfl, fun y hy => hax.trans (hle y hy)⟩⟩

/-! ### DRAM_REQUEST_ISSUE (R284, R285) -/

/-- The state once the request of a bid has left its channel's queue and its burst is issued; one of urgency 3 is counted. -/
def bidIssued (c : Nat) (b : Bid) (r : DramReq) (ca : Nat) (m : Bool) (s : State) : State :=
  let u := issueBurst c r.port r.write ca m b.hit
    { s with ms := { s.ms with reqs := tset s.ms.reqs c ((chanReqs s c).eraseIdx b.place) } }
  if b.urgency = 3 then odBump (0x2060 + r.port) 2 u else u

section
variable {s : State} {c : Fin 12} {lo hi : Ecc}

theorem dramRequestIssue_stays (h : chanLive s c.val = false ∨ bids s c.val = []) :
    exec (.dramRequestIssue c lo hi) s = .next s := by
  refine congrArg Host.Outcome.next ?_
  rcases h with hl | hb
  · exact if_neg (by simp [hl])
  · have hnone : issueRequest c.val lo hi s = s := by simp [issueRequest, hb, pickBid]
    rw [hnone, ite_self]

theorem dramRequestIssue_issues {b : Bid} {r : DramReq} {k ca : Nat} {m : Bool} (hl : chanLive s c.val = true)
    (hp : pickBid (bids s c.val) = some b) (hr : (chanReqs s c.val)[b.place]? = some r)
    (hc : channelOf s (r.burst * 64) = some (k, ca, m)) :
    exec (.dramRequestIssue c lo hi) s = .next (if r.write then bidIssued c.val b r ca m s
      else eccOutcome c.val (ca + 32) (r.poison.testBit 1) hi
        (eccOutcome c.val ca (r.poison.testBit 0) lo (bidIssued c.val b r ca m s))) := by
  refine congrArg Host.Outcome.next ((if_pos hl).trans ?_)
  unfold issueRequest
  rw [hp]
  dsimp only
  rw [hr]
  dsimp only
  rw [hc]
  rfl

end

/-! ### What ECC finds (R288, R289) -/

theorem l2At_l2Put_self (k set way : Nat) (l : L2Line) (s : State) : l2At (cluster (l2Put k set way l s) k) set way = some l := by
  unfold l2Put
  rw [cluster_clusterMod_self]
  exact tfind_tset_self ..

section
variable {s : State} {w : Nat}

theorem poisonDram_od (i j : Nat) : od (poisonDram w s) i j = od s i j := by
  unfold poisonDram
  split
  · split <;> rfl
  · split <;> rfl

/-- Where no L2 holds its sector dirty, a codeword joins the poison of memory. -/
theorem poisonDram_bare (hd : heldDirty s w = none) (h : dramPoison s w = false) :
    poisonDram w s = { s with ms := { s.ms with poison := w :: s.ms.poison } } := by
  simp only [dramPoison, hd] at h
  unfold poisonDram
  rw [hd]
  exact if_neg (Bool.not_eq_true _ ▸ h)

/-- A sector that an L2 holds dirty keeps its data: the poison lies below it (R219). -/
theorem poisonDram_below {k way : Nat} {l : L2Line} (hd : heldDirty s w = some (k, way))
    (hl : l2At (cluster s k) (l2Set (w / 4)) way = some l) : poisonDram w s = l2Put k (l2Set (w / 4)) way { l with
      below := l.below.map fun b => if b.1 = w % 4 then (b.1, b.2.1, true) else b } s := by
  simp [poisonDram, hd, hl]

end

/-- A corrected error counted and logged, with its address. -/
def correctedNoted (c ca pa : Nat) (s : State) : State :=
  rasEvent 3 0 pa 0 0 (odSet (0x2020 + c) 5 ca (odBump (0x2040 + c) 4 s))

/-- An uncorrectable error counted, with its address. -/
def uncorrectableNoted (c ca : Nat) (s : State) : State := odSet (0x2020 + c) 6 ca (odBump (0x2040 + c) 5 s)

theorem od_withRas (l : List (List Byte)) (i j : Nat) (s : State) : od { s with ras := l } i j = od s i j := rfl

theorem od_rasEvent {j : Nat} (hj : j < 256) (h : 0x0B ≠ j) (kind n address status reason i : Nat) (s : State) :
    od (rasEvent kind n address status reason s) i j = od s i j := by
  unfold rasEvent rasLog odBump odAdd
  rw [od_odSet_otherSub (by decide) hj h]
  exact od_withRas ..

theorem ras_length_rasEvent (kind n address status reason : Nat) (s : State) :
    (rasEvent kind n address status reason s).ras.length = min 4096 (s.ras.length + 1) := by
  simp only [rasEvent, rasLog, odBump_ras, List.length_drop, List.length_append, List.length_singleton]
  omega

theorem correctedNoted_reads (c : Fin 12) (ca pa : Nat) (s : State) :
    od (correctedNoted c.val ca pa s) (0x2020 + c.val) 5 = ca ∧ (correctedNoted c.val ca pa s).ms = s.ms ∧
    (correctedNoted c.val ca pa s).ras.length = min 4096 (s.ras.length + 1) :=
  ⟨(od_rasEvent (by decide) (by decide) ..).trans (od_odSet_self ..), rfl, ras_length_rasEvent ..⟩

section
variable {s : State} {c ca pa : Nat} {e : Ecc} (hp : physOf s c ca = some pa)
include hp

theorem eccOutcome_returned : eccOutcome c ca true e s = odBump (0x2040 + c) 6 s := by
  unfold eccOutcome
  rw [hp]
  rfl

theorem eccOutcome_poisoned (h : dramPoison s (pa / 32) = true) : eccOutcome c ca false e s = s := by
  unfold eccOutcome
  rw [hp]
  exact (if_neg (by decide)).trans (if_pos h)

theorem eccOutcome_ok : eccOutcome c ca false .ok s = s := by
  unfold eccOutcome
  rw [hp]
  exact (if_neg (by decide)).trans (ite_self s)

variable (h : dramPoison s (pa / 32) = false)
include h

theorem eccOutcome_corrected : eccOutcome c ca false .corrected s = correctedNoted c ca pa s := by
  unfold eccOutcome
  rw [hp]
  exact (if_neg (by decide)).trans (if_neg (by simp [h]))

theorem eccOutcome_uncorrectable : eccOutcome c ca false .uncorrectable s =
    if (chanReqs s c).any (fun r => r.burst = pa / 64 && r.cover.testBit (pa / 32 % 2)) then uncorrectableNoted c ca s
    else poisonDram (pa / 32) (uncorrectableNoted c ca s) := by
  unfold eccOutcome
  rw [hp]
  exact (if_neg (by decide)).trans (if_neg (by simp [h]))

theorem eccOutcome_uncorrectable_address : od (eccOutcome c ca false .uncorrectable s) (0x2020 + c) 6 = ca := by
  rw [eccOutcome_uncorrectable hp h]
  split
  · exact od_odSet_self ..
  · exact (poisonDram_od ..).trans (od_odSet_self ..)

theorem eccOutcome_covered (hc : ∃ r ∈ chanReqs s c, r.burst = pa / 64 ∧ r.cover.testBit (pa / 32 % 2) = true) :
    eccOutcome c ca false .uncorrectable s = uncorrectableNoted c ca s := by
  rw [eccOutcome_uncorrectable hp h, if_pos (by simpa using hc)]

theorem eccOutcome_uncovered (hc : ∀ r ∈ chanReqs s c, ¬ (r.burst = pa / 64 ∧ r.cover.testBit (pa / 32 % 2) = true)) :
    eccOutcome c ca false .uncorrectable s = poisonDram (pa / 32) (uncorrectableNoted c ca s) := by
  rw [eccOutcome_uncorrectable hp h, if_neg (by simpa using hc)]

end

/-! ### Windows and penalties of row disturbance (R286, R287) -/

theorem mem_actsShifted (t : Tbl (List Nat)) (key : Nat) (l : List Nat) :
    (key, l) ∈ (t.map fun e => (e.1, (0 :: e.2).take 8)).filter (fun e => e.2.any (· ≠ 0)) ↔
      (∃ n ∈ l, n ≠ 0) ∧ ∃ l', (key, l') ∈ t ∧ l = (0 :: l').take 8 := by
  rw [List.mem_filter, List.mem_map, and_comm]
  refine and_congr (by simp) ⟨?_, fun ⟨l', hmem, hl⟩ => ⟨_, hmem, by rw [hl]⟩⟩
  rintro ⟨⟨k, l'⟩, hmem, heq⟩
  obtain ⟨rfl, rfl⟩ := Prod.mk.inj heq
  exact ⟨l', hmem, rfl⟩

theorem rhSubwindow_shifts (s : State) (c : Fin 12) : Reaches (.rhSubwindow c) s fun u => (chan u c.val).portActs = [] ∧
    (∀ key l, (key, l) ∈ (chan u c.val).acts ↔
      (∃ n ∈ l, n ≠ 0) ∧ ∃ l', (key, l') ∈ (chan s c.val).acts ∧ l = (0 :: l').take 8) ∧
    chan u c.val = { chan s c.val with acts := (chan u c.val).acts, portActs := [] } := by
  refine ⟨_, rfl, ?_⟩
  beta_reduce
  rw [chan_chanMod_self]
  exact ⟨rfl, mem_actsShifted _, rfl⟩

/-- The state once a running penalty of a port has ended: its time is counted, and the port's bit is clear. -/
def penaltyEnded (c p : Nat) (pen : Penalty) (s : State) : State :=
  chanMod c (fun ch => { ch with
      penalties := tset ch.penalties p { pen with ended := some (pen.start + pen.length * perMs) } })
    (odSet (0x2020 + c) 4 (setBits (od (odAdd (0x2060 + p) 3 (pen.length * perMs) s) (0x2020 + c) 4) p p 0)
      (odAdd (0x2060 + p) 3 (pen.length * perMs) s))

theorem penaltyEnded_reads (c p : Nat) (pen : Penalty) (s : State) :
    tfind (chan (penaltyEnded c p pen s) c).penalties p = some { pen with ended := some (pen.start + pen.length * perMs) } ∧
    od (penaltyEnded c p pen s) (0x2020 + c) 4 = setBits (od s (0x2020 + c) 4) p p 0 := by
  refine ⟨?_, (od_chanMod ..).trans ((od_odSet_self ..).trans ?_)⟩
  · simp [penaltyEnded, tfind_tset_self]
  · rw [odAdd, od_odSet_otherSub (by decide) (by decide) (by decide)]

section
variable {s : State} {c : Fin 12} {p : Fin 16}

theorem rhPenaltyEnd_unpenalised (h : tfind (chan s c.val).penalties p.val = none) : exec (.rhPenaltyEnd c p) s = .next s := by
  change execRhPenaltyEnd c p s = _
  simp only [execRhPenaltyEnd, h]

theorem rhPenaltyEnd_ended {pen : Penalty} (h : tfind (chan s c.val).penalties p.val = some pen) (he : pen.ended.isSome = true) :
    exec (.rhPenaltyEnd c p) s = .next s := by
  change execRhPenaltyEnd c p s = _
  simp only [execRhPenaltyEnd, h, he, if_true]

theorem rhPenaltyEnd_ends {pen : Penalty} (h : tfind (chan s c.val).penalties p.val = some pen) (he : pen.ended = none) :
    exec (.rhPenaltyEnd c p) s = .next (penaltyEnded c.val p.val pen s) := by
  change execRhPenaltyEnd c p s = _
  simp only [execRhPenaltyEnd, h]
  exact congrArg _ (if_neg (by simp [he]))

end

/-! ### The patrol scrub (R290) -/

section
variable {s : State} {c : Fin 12} {e : Ecc}

theorem scrubRead_stays (h : od s 0x2000 0xA = 0 ∨ chanLive s c.val = false ∨ chanState s c.val = 2 ∨
    (chan s c.val).scrubDone = true) : exec (.scrubRead c e) s = .next s :=
  congrArg Host.Outcome.next (if_pos (by simpa [or_assoc] using h))

section
variable {pa k a : Nat} {b x : Bid} {m : Bool} (hon : od s 0x2000 0xA ≠ 0) (hl : chanLive s c.val = true)
  (hst : chanState s c.val ≠ 2) (hd : (chan s c.val).scrubDone = false)
  (hp : physOf s c.val ((chan s c.val).scrubAt * 32) = some pa) (hb : scrubBid s c.val pa = some b)
  (hx : pickBid (bids s c.val ++ [b]) = some x)
include hon hl hst hd hp hb hx

theorem scrubRead_yields (hne : x ≠ b) : exec (.scrubRead c e) s = .next s := by
  refine congrArg Host.Outcome.next ((if_neg (by simp [hon, hl, hst, hd])).trans ?_)
  rw [hp]
  dsimp only
  rw [hb]
  dsimp only
  rw [hx]
  exact if_pos hne

theorem scrubRead_reads (hc : channelOf s pa = some (k, a, m)) (heq : x = b) : exec (.scrubRead c e) s =
    .next (advanceScrub c.val (eccOutcome c.val ((chan s c.val).scrubAt * 32) (s.ms.poison.contains (pa / 32)) e
      (issueBurst c.val 14 false ((chan s c.val).scrubAt * 32) m b.hit s))) := by
  refine congrArg Host.Outcome.next ((if_neg (by simp [hon, hl, hst, hd])).trans ?_)
  rw [hp]
  dsimp only
  rw [hb]
  dsimp only
  rw [hx]
  refine (if_neg (not_not.mpr heq)).trans ?_
  rw [hc]

end

theorem scrubPeriod_passes : Reaches (.scrubPeriod c) s fun u => chan u c.val = (if (chan s c.val).scrubDone
    then { chan s c.val with scrubDone := false } else { chan s c.val with scrubLate := true }) :=
  ⟨_, rfl, chan_chanMod_self ..⟩

end

section
variable {s : State} {c : Nat}

theorem advanceScrub_within (h : (chan s c).scrubAt + 1 < channelCodewords s) :
    chan (advanceScrub c s) c = { chan s c with scrubAt := (chan s c).scrubAt + 1 } := by
  unfold advanceScrub
  dsimp only
  rw [if_pos h, chan_chanMod_self]

theorem advanceScrub_last (h : channelCodewords s ≤ (chan s c).scrubAt + 1) : chan (advanceScrub c s) c =
    { chan s c with scrubAt := 0, scrubDone := !(chan s c).scrubLate, scrubLate := false } := by
  unfold advanceScrub
  dsimp only
  rw [if_neg (Nat.not_lt.mpr h), chan_odBump, chan_chanMod_self]

end

/-- Settles O51, command by command, with the order of the bids and what ECC finds. -/
theorem dramScheduling : Obligations.DramScheduling := by
  unfold Obligations.DramScheduling
  intro s c lo hi e p
  refine ⟨dramRequestIssue_stays, fun b hb => ?_,
    fun b r k ca m hl hp hr hc => ⟨_, _, rfl, rfl, dramRequestIssue_issues hl hp hr hc⟩, fun ca pa hp => ?_,
    rhSubwindow_shifts s c,
    fun pen hpen => ⟨fun he => ⟨_, rhPenaltyEnd_ends hpen he, penaltyEnded_reads ..⟩, rhPenaltyEnd_ended hpen⟩,
    rhPenaltyEnd_unpenalised, scrubRead_stays,
    fun pa b x k a m hon hl hst hd hp hb hx hc =>
      ⟨scrubRead_reads hon hl hst hd hp hb hx hc, scrubRead_yields hon hl hst hd hp hb hx⟩,
    advanceScrub_within, advanceScrub_last, scrubPeriod_passes⟩
  · obtain ⟨hmem, hle⟩ := pickBid_least hb
    exact ⟨hmem, fun x hx => (bidKey_lt_iff x b).not.mp (hle x hx).not_gt⟩
  · refine ⟨eccOutcome_returned hp, eccOutcome_ok hp, eccOutcome_poisoned hp, fun h => ?_⟩
    rw [eccOutcome_corrected hp h]
    obtain ⟨haddr, hms, hras⟩ := correctedNoted_reads c ca pa s
    refine ⟨haddr, hms, hras, eccOutcome_uncorrectable_address hp h, fun hc => ?_, fun hc => ?_⟩
    · rw [eccOutcome_uncovered hp h hc]
      refine ⟨fun hd => ?_, fun k way l hd hl => ?_⟩
      · rw [poisonDram_bare (s := uncorrectableNoted c.val ca s) hd h]
        exact ⟨rfl, rfl⟩
      · rw [poisonDram_below (s := uncorrectableNoted c.val ca s) hd hl]
        exact ⟨rfl, l2At_l2Put_self ..⟩
    · rw [eccOutcome_covered hp h hc]
      exact ⟨rfl, rfl⟩

end Sys2Proof.Machine
end

section
/-! PROOFS. Refresh, temperature bands, ALERT_N, power-down and self-refresh of a DRAM channel (R281, R282, R291, R292). -/

namespace Sys2Proof.Machine

/-! ### Refresh (R281, R282) -/

section
variable {s : State} {c : Fin 12}

theorem refresh_stays (h : chanLive s c.val = false ∨ chanState s c.val = 2) : exec (.refresh c) s = .next s :=
  congrArg Host.Outcome.next (if_pos (by simpa using h))

section
variable (hl : chanLive s c.val = true) (hst : chanState s c.val ≠ 2)
include hl hst

theorem refresh_postpones (hu : ∃ r ∈ chanReqs s c.val, urgency s r = 3) (hp : (chan s c.val).postponed < 4) :
    exec (.refresh c) s = .next (odBump (0x2040 + c.val) 9
      (chanMod c.val (fun ch => { ch with postponed := ch.postponed + 1 }) s)) :=
  congrArg Host.Outcome.next ((if_neg (by simp [hl, hst])).trans (if_pos (by simp [hu, hp])))

theorem refresh_runs (h : (∀ r ∈ chanReqs s c.val, urgency s r ≠ 3) ∨ 4 ≤ (chan s c.val).postponed) :
    exec (.refresh c) s = .next (refreshNow c.val s) := by
  refine congrArg Host.Outcome.next ((if_neg (by simp [hl, hst])).trans (if_neg ?_))
  rcases h with hu | hp
  · rw [List.any_eq_false.mpr (by simpa using hu)]
    simp
  · simp [hp]

end
end

section
variable {s : State} {c : Nat}

theorem band_refreshNow : od (refreshNow c s) (0x2020 + c) 3 = (chan s c).band := od_odSet_self ..

theorem postponed_refreshNow : (chan (refreshNow c s) c).postponed = 0 := by
  unfold refreshNow
  dsimp only
  rw [chan_chanMod_self]

/-- The rows that stay open are those of the banks that the refresh does not take. -/
theorem openRows_refreshNow : (chan (refreshNow c s) c).openRows = (chan s c).openRows.filter fun e =>
    !(!decide (od s 0x2000 6 = 1) || decide (e.1 / 8 % 4 = (chan s c).nextBank)) := by
  unfold refreshNow
  dsimp only
  rw [chan_chanMod_self, chan_odSet]

theorem openRows_refreshNow_allBanks (h : od s 0x2000 6 ≠ 1) : (chan (refreshNow c s) c).openRows = [] := by
  rw [openRows_refreshNow, List.filter_eq_nil_iff]
  simp [h]

theorem mem_openRows_refreshNow_sameBank (h : od s 0x2000 6 = 1) (x : Nat × Nat) : x ∈ (chan (refreshNow c s) c).openRows ↔
    x ∈ (chan s c).openRows ∧ x.1 / 8 % 4 ≠ (chan s c).nextBank := by
  rw [openRows_refreshNow, List.mem_filter]
  simp [h]

end

/-! ### Fatal errors (R483) -/

section
variable {s : State} (n : Nat)

theorem fatal_first (h : s.pw.fatal = none) (hm : s.mode ≠ .hold) :
    fatal n s = { s with pw := { s.pw with fatal := some n } } := if_neg (by simp [h, hm])

theorem fatal_od (i j : Nat) : od (fatal n s) i j = od s i j := by
  unfold fatal
  split <;> rfl

theorem fatal_chan (c : Nat) : chan (fatal n s) c = chan s c := by
  unfold fatal
  split <;> rfl

end

/-! ### The temperature poll (R281) -/

/-- The state once a read of a channel's first sensor, or its failure, is counted among the failures in a row. -/
def sensorNoted (c : Nat) (r : Option Nat) (s : State) : State :=
  chanMod c (fun ch => { ch with failed := if r.isSome then tdel ch.failed 0 else tset ch.failed 0 (tget 0 ch.failed 0 + 1) }) s

theorem sensorFailed_noted_read {s : State} {c : Nat} (h : (chan s c).failed = []) (t : Nat) :
    sensorFailed (chan (sensorNoted c (some t) s) c) = false := by
  simp [sensorFailed, sensorNoted, h, tdel]

theorem sensorFailed_noted_third {s : State} {c : Nat} (h : tfind (chan s c).failed 0 = some 2) :
    sensorFailed (chan (sensorNoted c none s) c) = true := by
  have hcount : tget 0 (chan s c).failed 0 = 2 := congrArg (·.getD 0) h
  unfold sensorFailed sensorNoted
  rw [chan_chanMod_self, List.any_eq_true]
  exact ⟨(0, 3), tfind_mem _ _ _ (by simp [hcount, tfind_tset_self]), by decide⟩

/-- STATE as a poll leaves it: SENSOR_FAIL while a sensor has failed, ACTIVE again once none has. -/
def sensorStateSet (c : Nat) (bad : Bool) (s : State) : State :=
  if bad && chanState s c ≤ 1 then odSet (0x2020 + c) 1 4 s
  else if !bad && chanState s c = 4 then odSet (0x2020 + c) 1 0 s else s

theorem sensorStateSet_good {s : State} {c : Nat} (h : chanState s c ≠ 4) : sensorStateSet c false s = s := by
  simp [sensorStateSet, h]

theorem sensorStateSet_bad {s : State} {c : Nat} (h : chanState s c ≤ 1) :
    sensorStateSet c true s = odSet (0x2020 + c) 1 4 s := by
  simp [sensorStateSet, h]

/-- The state once a reading is stored, with the band it asks for. -/
def readingStored (c t : Nat) (s : State) : State :=
  chanMod c (fun ch => { ch with band := bandOf ch.band t }) (odSet (0x2020 + c) 2 (min t 255) (sensorNoted c (some t) s))

/-- The state once the read of a sensor has failed for the third time in a row. -/
def sensorLost (c : Nat) (s : State) : State :=
  odSet (0x2020 + c) 1 4 (chanMod c (fun ch => { ch with band := 3 }) (sensorNoted c none s))

theorem readingStored_reads (c t : Nat) (s : State) : od (readingStored c t s) (0x2020 + c) 2 = min t 255 ∧
    (chan (readingStored c t s) c).band = bandOf (chan s c).band t ∧ (readingStored c t s).pw = s.pw :=
  ⟨od_odSet_self .., by simp [readingStored, sensorNoted], rfl⟩

theorem sensorLost_reads (c : Nat) (s : State) : chanState (sensorLost c s) c = 4 ∧ (chan (sensorLost c s) c).band = 3 ∧
    (sensorLost c s).pw = s.pw :=
  ⟨chanState_odSet_self .., by simp [sensorLost], rfl⟩

section
variable {s : State} {c : Fin 12}

theorem channelTempPoll_unpowered (h : s.mode = .off ∨ s.mode = .fuseLoad) (rs : List (Option Nat)) :
    exec (.channelTempPoll c rs) s = .next s := congrArg Host.Outcome.next (if_pos (by simpa using h))

section
variable (ho : s.mode ≠ .off) (hu : s.mode ≠ .fuseLoad)
include ho hu

/-- A poll of one sensor that was read, with what becomes of the sensor named. -/
theorem channelTempPoll_read {t : Nat} {bad : Bool} {u : State}
    (hb : sensorFailed (chan (sensorNoted c.val (some t) s) c.val) = bad)
    (hv : u = sensorStateSet c.val bad (chanMod c.val (fun ch => { ch with band := if bad then 3 else bandOf ch.band (max 0 t) })
      (odSet (0x2020 + c.val) 2 (min (max 0 t) 255) (sensorNoted c.val (some t) s)))) :
    exec (.channelTempPoll c [some t]) s = .next (if 95 < max 0 t then fatal 5 u else u) := by
  subst hb hv
  exact congrArg Host.Outcome.next (if_neg (by simp [ho, hu]))

/-- A poll of one sensor whose read failed. -/
theorem channelTempPoll_unread {bad : Bool} (hb : sensorFailed (chan (sensorNoted c.val none s) c.val) = bad) :
    exec (.channelTempPoll c [none]) s = .next (sensorStateSet c.val bad
      (chanMod c.val (fun ch => { ch with band := if bad then 3 else ch.band }) (sensorNoted c.val none s))) := by
  subst hb
  exact congrArg Host.Outcome.next ((if_neg (by simp [ho, hu])).trans (if_neg (by simp)))

theorem channelTempPoll_stores (hf : (chan s c.val).failed = []) (hst : chanState s c.val ≠ 4) (t : Nat) :
    exec (.channelTempPoll c [some t]) s =
      .next (if 95 < t then fatal 5 (readingStored c.val t s) else readingStored c.val t s) := by
  have hst' : chanState (readingStored c.val t s) c.val ≠ 4 :=
    fun h => hst ((chanState_odSet_otherSub (by decide) (by decide) ..).symm.trans h)
  refine (channelTempPoll_read ho hu (u := readingStored c.val t s) (sensorFailed_noted_read hf t) ?_).trans ?_
  · rw [Nat.zero_max]
    exact (sensorStateSet_good hst').symm
  · rw [Nat.zero_max]

theorem channelTempPoll_loses (hf : tfind (chan s c.val).failed 0 = some 2) (hst : chanState s c.val ≤ 1) :
    exec (.channelTempPoll c [none]) s = .next (sensorLost c.val s) :=
  (channelTempPoll_unread ho hu (sensorFailed_noted_third hf)).trans (congrArg _ (sensorStateSet_bad hst))

end
end

/-! ### ALERT_N (R291) -/

/-- A dropped queue leaves all but the requests and the counts of urgent ones. -/
theorem dropRequests_leaves (c : Nat) (s : State) : (dropRequests c s).ms.reqs = tdel s.ms.reqs c ∧
    (dropRequests c s).pw = s.pw ∧ (dropRequests c s).mode = s.mode ∧
    ∀ i j, j < 256 → 2 ≠ j → od (dropRequests c s) i j = od s i j := by
  unfold dropRequests
  refine List.foldlRecOn _ _ (motive := fun u : State => u.ms.reqs = tdel s.ms.reqs c ∧ u.pw = s.pw ∧ u.mode = s.mode ∧
    ∀ i j, j < 256 → 2 ≠ j → od u i j = od s i j) ⟨rfl, rfl, rfl, fun _ _ _ _ => rfl⟩ ?_
  rintro u ⟨hreqs, hpw, hmode, hod⟩ r -
  exact ⟨hreqs, hpw, hmode, fun i j hj h => (od_odSet_otherSub (by decide) hj h ..).trans (hod i j hj h)⟩

/-- The state once a fault of a channel has persisted, before the fatal error is noted. -/
def channelLost (c : Nat) (s : State) : State := odSet (0x2020 + c) 1 3 (dropRequests c (odAdd (0x2040 + c) 0xA 3 s))

theorem channelLost_reads (c : Nat) (s : State) : chanState (channelLost c s) c = 3 ∧
    (channelLost c s).ms.reqs = tdel s.ms.reqs c ∧ (channelLost c s).pw = s.pw ∧ (channelLost c s).mode = s.mode ∧
    od (channelLost c s) (0x2040 + c) 0xA = (od s (0x2040 + c) 0xA + 3) % 2 ^ 64 := by
  obtain ⟨hreqs, hpw, hmode, hod⟩ := dropRequests_leaves c (odAdd (0x2040 + c) 0xA 3 s)
  exact ⟨chanState_odSet_self .., hreqs, hpw, hmode, (od_odSet_otherSub (by decide) (by decide) (by decide) ..).trans
    ((hod _ _ (by decide) (by decide)).trans (od_odAdd_self ..))⟩

section
variable {s : State} {c : Fin 12}

theorem alertN_stays (h : chanLive s c.val = false) (n : Fin 4) (b : Bool) : exec (.alertN c n b) s = .next s :=
  congrArg Host.Outcome.next (if_pos (by simp [h]))

variable (hl : chanLive s c.val = true) (n : Fin 4)
include hl

theorem alertN_replays : exec (.alertN c n false) s = .next (odAdd (0x2040 + c.val) 0xA n.val s) :=
  congrArg Host.Outcome.next (if_neg (by simp [hl]))

theorem alertN_persists : exec (.alertN c n true) s = .next (fatal 2 (channelLost c.val s)) :=
  congrArg Host.Outcome.next (if_neg (by simp [hl]))

end

/-! ### Power-down and self-refresh (R292) -/

/-- A channel with its rows closed in a STATE of no activity. -/
def channelRests (c st : Nat) (s : State) : State := odSet (0x2020 + c) 1 st (chanMod c (fun ch => { ch with openRows := [] }) s)

theorem channelRests_reads (c st : Nat) (s : State) : chanState (channelRests c st s) c = st ∧
    (chan (channelRests c st s) c).openRows = [] := ⟨chanState_odSet_self .., by simp [channelRests]⟩

/-- A channel whose self-refresh holds its data through the DORMANT change. -/
def selfRefreshNoted (c : Nat) (s : State) : State :=
  { s with pw := { s.pw with
    selfRefreshed := if s.pw.selfRefreshed.contains c then s.pw.selfRefreshed else c :: s.pw.selfRefreshed } }

theorem mem_selfRefreshNoted (c : Nat) (s : State) : c ∈ (selfRefreshNoted c s).pw.selfRefreshed := by
  unfold selfRefreshNoted
  dsimp only
  split
  next h => simpa using h
  next => exact .head _

section
variable {s : State} {c : Fin 12}

theorem pdIdle_rests (ho : od s 0x2000 0xB ≠ 0) (hl : chanLive s c.val = true)
    (hst : chanState s c.val = 0 ∨ chanState s c.val = 4) (hq : chanReqs s c.val = []) :
    exec (.pdIdle c) s = .next (channelRests c.val 1 s) :=
  congrArg Host.Outcome.next (if_pos (by simp [ho, hl, hst, hq]))

theorem pdIdle_stays (h : od s 0x2000 0xB = 0 ∨ chanLive s c.val = false ∨
    (chanState s c.val ≠ 0 ∧ chanState s c.val ≠ 4) ∨ chanReqs s c.val ≠ []) : exec (.pdIdle c) s = .next s :=
  congrArg Host.Outcome.next (if_neg (by rcases h with h | h | h | h <;> simp [h]))

theorem selfRefreshEntry_rests (hd : dormantChange s = true) (hl : chanLive s c.val = true) (hst : chanState s c.val ≠ 2)
    (hq : chanReqs s c.val = []) : exec (.selfRefreshEntry c) s = .next (selfRefreshNoted c.val (channelRests c.val 2 s)) :=
  congrArg Host.Outcome.next (if_pos (by simp [hd, hl, hst, hq]))

theorem selfRefreshEntry_stays (h : dormantChange s = false ∨ chanLive s c.val = false ∨ chanState s c.val = 2 ∨
    chanReqs s c.val ≠ []) : exec (.selfRefreshEntry c) s = .next s :=
  congrArg Host.Outcome.next (if_neg (by rcases h with h | h | h | h <;> simp [h]))

end

/-- Settles O52, command by command: where each acts, what it leaves in the channel, and where it changes nothing. -/
theorem dramUpkeep : Obligations.DramUpkeep := by
  unfold Obligations.DramUpkeep
  intro s c
  refine ⟨refresh_stays, fun hl hst => ⟨fun hu hp => ⟨_, refresh_postpones hl hst hu hp, ?_⟩,
      fun h => ⟨_, refresh_runs hl hst h, band_refreshNow, postponed_refreshNow, openRows_refreshNow_allBanks,
        mem_openRows_refreshNow_sameBank⟩⟩,
    fun rs h => channelTempPoll_unpowered h rs,
    fun t ho hu hf hst => ⟨_, channelTempPoll_stores ho hu hf hst t, ?_⟩,
    fun ho hu hf hst => ⟨_, channelTempPoll_loses ho hu hf hst, sensorLost_reads ..⟩,
    fun n b h => alertN_stays h n b, fun n hl => ⟨_, alertN_replays hl n, rfl⟩,
    fun n hl hf hm => ⟨_, alertN_persists hl n, ?_⟩,
    fun ho hl hst hq => ⟨_, pdIdle_rests ho hl hst hq, channelRests_reads ..⟩, pdIdle_stays,
    fun hd hl hst hq => ⟨_, selfRefreshEntry_rests hd hl hst hq, ?_⟩, selfRefreshEntry_stays⟩
  · exact ⟨(chan_odBump ..).trans (chan_chanMod_self ..), od_odBump_self ..⟩
  · obtain ⟨htemp, hband, hpw⟩ := readingStored_reads c.val t s
    by_cases hhot : 95 < t
    · rw [if_pos hhot]
      refine ⟨(fatal_od ..).trans htemp, ?_, fun _ hf hm => ?_, fun hcool => absurd hhot (Nat.not_lt.mpr hcool)⟩
      · rw [fatal_chan, hband]
      · rw [fatal_first 5 (s := readingStored c.val t s) (by rw [hpw, hf]) hm]
    · rw [if_neg hhot]
      exact ⟨htemp, hband, fun h => absurd h hhot, fun _ => hpw⟩
  · obtain ⟨hst, hreqs, hpw, hmode, hcount⟩ := channelLost_reads c.val s
    rw [fatal_first 2 (by rw [hpw, hf]) (by rwa [hmode])]
    exact ⟨hst, hreqs, rfl, hcount⟩
  · obtain ⟨hst, hrows⟩ := channelRests_reads c.val 2 s
    exact ⟨hst, hrows, mem_selfRefreshNoted ..⟩

end Sys2Proof.Machine
end

section
/-! PROOFS. Queue commands: what a CMD block that a page takes makes of each queue (R310, Tables 14-5 and 14-6). -/

namespace Sys2Proof.Machine

/-! ### A command that a page takes (R310) -/

/-- The state with a command's CMD block written. -/
def issued (n : Nat) (cmd : List Byte) (s : State) : State := instMod n (fun i => { i with cmd := cmd }) s

/-- The state once a command has ended with a status and a result, and the writes of CMD_GO that came meanwhile are counted. -/
def cmdEnded (n again : Nat) (a : (Nat × List Byte) × State) : State :=
  odAdd 0x2400 4 again (instMod n (fun i => { i with cmdStatus := a.1.1, cmdResult := slice a.1.2 0 16 }) a.2)

section
variable {s t u : State} {link n op again status : Nat} {cmd result : List Byte} {fields : List (Nat × Nat)}
  {act : List Byte → State → (Nat × List Byte) × State} {r : Nat × List Byte}

@[simp] theorem cqAt_issued (n : Nat) (cmd : List Byte) (s : State) (q : Nat) : cqAt (issued n cmd s) n q = cqAt s n q := by
  simp [cqAt, issued]

@[simp] theorem sqAt_issued (n : Nat) (cmd : List Byte) (s : State) (q : Nat) : sqAt (issued n cmd s) n q = sqAt s n q := by
  simp [sqAt, issued]

@[simp] theorem inst_issued (n : Nat) (cmd : List Byte) (s : State) :
    inst (issued n cmd s) n = { inst s n with cmd := cmd } := inst_instMod_self n _ s

theorem inst_cmdEnded (n again : Nat) (a : (Nat × List Byte) × State) : inst (cmdEnded n again a) n =
    { inst a.2 n with cmdStatus := a.1.1, cmdResult := slice a.1.2 0 16 } := inst_instMod_self n _ a.2

theorem absentSet_clear (h : ∀ k < 56, fld cmd (8 + k) 1 ≠ 0 → ∃ f ∈ fields, f.1 ≤ 8 + k ∧ 8 + k < f.1 + f.2) :
    absentSet cmd fields = false := by
  refine List.any_eq_false.mpr fun k hk => ?_
  by_cases hz : fld cmd (8 + k) 1 = 0
  · simp [hz]
  · simpa [hz] using h k (List.mem_range.mp hk) hz

/-- A command that a live page takes runs on the state with its CMD block written. -/
theorem runCmd_taken (h : CmdTaken s link n op cmd fields) :
    runCmd link n op cmd again fields act s = cmdEnded n again (act cmd (issued n cmd s)) := by
  obtain ⟨⟨hf, hl, hp⟩, hop, hlen, hclear⟩ := h
  unfold runCmd
  rw [if_neg (by simp [hf, hl]), if_neg (by simp [hp])]
  dsimp only
  rw [slice_all _ _ hlen, if_neg (by simp [hop, absentSet_clear hclear])]
  rfl

/-- On a page that is not live the nine writes of a command, and those of CMD_GO beyond, are discarded (R299). -/
theorem runCmd_discards (hf : functionsLive s = true) (hl : linkExists s link = true) (hp : pageLive s link n = false) :
    runCmd link n op cmd again fields act s = odAdd 0x2400 3 (9 + again) s := by
  unfold runCmd
  rw [if_neg (by simp [hf, hl]), if_pos (by simp [hp])]

/-- A command whose effect leaves the CMD block as written is answered. -/
theorem runCmd_answers (h : CmdTaken s link n op cmd fields)
    (hact : act cmd (issued n cmd s) = ((status, result), issued n cmd t)) :
    runCmd link n op cmd again fields act s = cmdAnswered n cmd again status result t := by
  rw [runCmd_taken h, hact]
  exact congrArg (odAdd 0x2400 4 again) (instMod_instMod n _ _ t)

end

/-! ### CREATE_CQ and CREATE_SQ -/

/-- The completion queue that CREATE_CQ asks for. -/
def newCq (c : List Byte) : ComplQ :=
  { base := fld c 8 8, entries := fld c 0x10 4, loc := locOf (fld c 0x14 1), vector := fld c 0x16 2
    coalCount := fld c 0x18 1, coalTime := fld c 0x1A 2 }

/-- The submission queue that CREATE_SQ asks for. -/
def newSq (c : List Byte) : SubQ :=
  { network := fld c 0x17 1 = 1, base := fld c 8 8, entries := fld c 0x10 4, loc := locOf (fld c 0x14 1)
    cq := fld c 0x16 1, headAddr := fld c 0x18 8, slotBytes := fld c 0x20 4 }

theorem ringSize_iff (x lo hi : Nat) : RingSize x lo hi ↔ pow2In x lo hi = true := (pow2In_iff x lo hi).symm

section
variable {s : State} {n : Nat} {c : List Byte}

theorem createCq_invalid (h : ¬ CqCmdOk c) : createCq n c s = ((2, []), s) := by
  refine if_pos ?_
  simp only [CqCmdOk, ringSize_iff, not_and_or, Nat.not_le] at h
  simpa [or_assoc] using h

/-- Past the check of its values, CREATE_CQ turns on whether the number is free. -/
theorem createCq_valid (h : CqCmdOk c) : createCq n c s =
    if (cqAt s n (fld c 0x15 1)).isSome then ((4, []), s)
    else ((0, []), mirror (.queueDef n true (fld c 0x15 1) (cqFields (newCq c)))
      (instMod n (fun i => { i with cqs := tset i.cqs (fld c 0x15 1) (newCq c) }) s)) := by
  refine if_neg ?_
  simp only [CqCmdOk, ringSize_iff, Nat.one_le_iff_ne_zero] at h
  simpa [and_assoc] using h

theorem createSq_invalid (h : ¬ SqCmdOk c) : createSq n c s = ((2, []), s) := by
  refine if_pos (by_contra fun hg => h ?_)
  simp only [Bool.or_eq_true, Bool.and_eq_true, decide_eq_true_eq, not_or, not_and_or, Bool.not_eq_true', Bool.not_eq_false,
    Nat.not_lt, not_not, and_assoc] at hg
  obtain ⟨hbase, hloc, hq, hcq, hkind, hhost, hnet⟩ := hg
  simp only [SqCmdOk, ringSize_iff]
  exact ⟨hbase, hloc, hq, hcq, (Nat.le_one_iff_eq_zero_or_eq_one.mp hkind).imp
    (fun h => ⟨h, hhost.resolve_left (not_not.mpr h)⟩) fun h => ⟨h, hnet.resolve_left (not_not.mpr h)⟩⟩

theorem createSq_valid (h : SqCmdOk c) : createSq n c s =
    if (sqAt s n (fld c 0x15 1)).isSome then ((4, []), s)
    else if (cqAt s n (fld c 0x16 1)).isNone then ((5, []), s)
    else ((0, []), mirror (.queueDef n false (fld c 0x15 1) (sqFields (newSq c)))
      (instMod n (fun i => { i with sqs := tset i.sqs (fld c 0x15 1) (newSq c) }) s)) := by
  refine if_neg ?_
  simp only [SqCmdOk, ringSize_iff] at h
  obtain ⟨hbase, hloc, hq, hcq, ⟨hkind, hrest⟩ | ⟨hkind, hrest⟩⟩ := h <;>
    simpa [hkind, hbase, hloc, hq, hcq, and_assoc] using hrest

end

/-! ### DELETE_SQ and DELETE_CQ -/

theorem setFlags_insts (slot : Nat) (fl : BitVec 32) (s : State) : (setFlags slot fl s).js.insts = s.js.insts := by
  have hnote : ∀ t : Task, (noteEvent t fl s).js = s.js := fun t => by
    unfold noteEvent
    split <;> rfl
  unfold setFlags
  cases taskAt s slot with
  | none => rfl
  | some t =>
    dsimp only
    split <;> exact congrArg (·.insts) (hnote t)

theorem releaseSpill_insts (jid : Nat) (s : State) : (releaseSpill jid s).js.insts = s.js.insts := by
  unfold releaseSpill
  split
  · rfl
  · split
    · rfl
    · exact setFlagsWhere_holds (P := fun u => u.js.insts = s.js.insts) _ _
        (fun k fl u hu => (setFlags_insts k fl u).trans hu) (fun _ _ hu => hu) _ rfl

theorem freeEntry_insts (jid : Nat) (s : State) : (freeEntry jid s).js.insts = s.js.insts := by
  unfold freeEntry
  dsimp only
  split <;> exact releaseSpill_insts jid s

/-- The jobs of a deleted SQ leave the journal; the queues are as they were. -/
theorem inst_dropSqJobs (n q m : Nat) (s : State) : inst (dropSqJobs n q s) m = inst s m := by
  have h : (dropSqJobs n q s).js.insts = s.js.insts :=
    List.foldlRecOn _ _ (motive := fun u => u.js.insts = s.js.insts) rfl fun u hu j _ =>
      (freeEntry_insts _ _).trans ((congrArg _ (mirror_js _ u)).trans hu)
  unfold inst
  rw [h]

section
variable {s : State} {n : Nat} {c : List Byte} (hq : fld c 0x15 1 ≤ 15)
include hq

theorem deleteSq_absent (h : sqAt s n (fld c 0x15 1) = none) : deleteSq n c s = ((5, []), s) := by
  unfold deleteSq
  dsimp only
  rw [h]
  exact if_neg (Nat.not_lt.mpr hq)

theorem deleteSq_inUse (h : (sqAt s n (fld c 0x15 1)).isSome = true)
    (hj : ∃ j ∈ s.js.jobs, j.inst = n ∧ j.sq = fld c 0x15 1 ∧ j.gen = instGen s n ∧ j.jstate ≠ .pending) :
    deleteSq n c s = ((6, []), s) := by
  unfold deleteSq
  rw [if_neg (Nat.not_lt.mpr hq), if_neg (by simpa using Option.isSome_iff_ne_none.mp h)]
  refine if_pos (Bool.or_eq_true_iff.mpr (.inl ?_))
  simpa [and_assoc] using hj

theorem deleteSq_idle (h : (sqAt s n (fld c 0x15 1)).isSome = true)
    (hj : ∀ j ∈ s.js.jobs, ¬ (j.inst = n ∧ j.sq = fld c 0x15 1 ∧ j.gen = instGen s n ∧ j.jstate ≠ .pending))
    (he : ∀ e ∈ s.net.qps, ¬ (e.2.inst = n ∧ e.2.gen = instGen s n ∧ e.2.use = 1 ∧ e.2.sq = fld c 0x15 1)) :
    deleteSq n c s = ((0, []), mirror (.queueDef n false (fld c 0x15 1) []) (instMod n (fun i => { i with
      sqs := tdel i.sqs (fld c 0x15 1), refusals := i.refusals.filter fun r => r.sq ≠ fld c 0x15 1 })
      (dropSqJobs n (fld c 0x15 1) s))) := by
  unfold deleteSq
  rw [if_neg (Nat.not_lt.mpr hq), if_neg (by simpa using Option.isSome_iff_ne_none.mp h)]
  refine if_neg (Bool.not_eq_true _ ▸ Bool.or_eq_false_iff.mpr ⟨List.any_eq_false.mpr ?_, List.any_eq_false.mpr ?_⟩)
  · simpa [and_assoc] using hj
  · simpa [and_assoc] using he

theorem deleteCq_absent (h : cqAt s n (fld c 0x15 1) = none) : deleteCq n c s = ((5, []), s) := by
  unfold deleteCq
  dsimp only
  rw [h]
  exact if_neg (Nat.not_lt.mpr hq)

theorem deleteCq_inUse (h : (cqAt s n (fld c 0x15 1)).isSome = true) (he : ∃ e ∈ (inst s n).sqs, e.2.cq = fld c 0x15 1) :
    deleteCq n c s = ((6, []), s) := by
  unfold deleteCq
  rw [if_neg (Nat.not_lt.mpr hq), if_neg (by simpa using Option.isSome_iff_ne_none.mp h)]
  exact if_pos (by simpa using he)

theorem deleteCq_idle (h : (cqAt s n (fld c 0x15 1)).isSome = true) (he : ∀ e ∈ (inst s n).sqs, e.2.cq ≠ fld c 0x15 1) :
    deleteCq n c s = ((0, []), mirror (.queueDef n true (fld c 0x15 1) []) (instMod n (fun i => { i with
      cqs := tdel i.cqs (fld c 0x15 1), erHeld := i.erHeld.filter fun e => e.2.1 ≠ fld c 0x15 1 }) s)) := by
  unfold deleteCq
  rw [if_neg (Nat.not_lt.mpr hq), if_neg (by simpa using Option.isSome_iff_ne_none.mp h)]
  exact if_neg (by simpa using he)

/-! ### QUERY -/

/-- QUERY of a queue number and kind that exist answers three words, and changes nothing. -/
theorem queryQueue_valid (hk : fld c 0x16 1 ≤ 1) :
    ∃ h t st, queryQueue n c s = ((0, leBytes 4 h ++ leBytes 4 t ++ leBytes 4 st), s) := by
  unfold queryQueue
  dsimp only
  rw [if_neg (by simp [hq, hk])]
  split <;> split <;> exact ⟨_, _, _, rfl⟩

theorem queryQueue_cq {x : ComplQ} (hk : fld c 0x16 1 = 1) (h : cqAt s n (fld c 0x15 1) = some x) :
    queryQueue n c s = ((0, leBytes 4 (x.head % x.entries) ++ leBytes 4 (x.tail % x.entries) ++
      leBytes 4 (cqQueryState x)), s) := by
  unfold queryQueue
  dsimp only
  rw [if_neg (by simp [hq, hk]), if_neg (by simp [hk]), h]

theorem queryQueue_absentCq (hk : fld c 0x16 1 = 1) (h : cqAt s n (fld c 0x15 1) = none) :
    queryQueue n c s = ((0, leBytes 4 0 ++ leBytes 4 0 ++ leBytes 4 0), s) := by
  unfold queryQueue
  dsimp only
  rw [if_neg (by simp [hq, hk]), if_neg (by simp [hk]), h]

end

/-! ### The commands on their page -/

section
variable {s : State} {link : Link} {i : Inst} {cmd : List Byte} {again : Nat}

theorem createCq_makes (h : CmdTaken s link.val i.val 1 cmd cqCmdFields) (hok : CqCmdOk cmd)
    (hfree : cqAt s i.val (fld cmd 0x15 1) = none) : ∃ t, exec (.createCq link i ⟨cmd, again⟩) s = .next t ∧
      cqAt t i.val (fld cmd 0x15 1) = some (newCq cmd) ∧ (inst t i.val).cmdStatus = 0 ∧
      (∀ k, k ≠ fld cmd 0x15 1 → cqAt t i.val k = cqAt s i.val k) ∧ ∀ k, sqAt t i.val k = sqAt s i.val k := by
  refine ⟨_, congrArg Host.Outcome.next ((runCmd_taken h).trans (congrArg _ ((createCq_valid hok).trans (if_neg ?_)))), ?_⟩
  · simp [hfree]
  · simp only [cqAt, sqAt, inst_cmdEnded, inst_mirror, inst_instMod_self, inst_issued, implies_true, and_true, true_and]
    exact ⟨tfind_tset_self .., fun k hk => tfind_tset_ne _ _ _ _ hk.symm⟩

theorem createSq_makes (h : CmdTaken s link.val i.val 2 cmd sqCmdFields) (hok : SqCmdOk cmd)
    (hfree : sqAt s i.val (fld cmd 0x15 1) = none) (hcq : (cqAt s i.val (fld cmd 0x16 1)).isSome = true) :
    ∃ t, exec (.createSq link i ⟨cmd, again⟩) s = .next t ∧
      sqAt t i.val (fld cmd 0x15 1) = some (newSq cmd) ∧ (inst t i.val).cmdStatus = 0 ∧
      (∀ k, k ≠ fld cmd 0x15 1 → sqAt t i.val k = sqAt s i.val k) ∧ ∀ k, cqAt t i.val k = cqAt s i.val k := by
  refine ⟨_, congrArg Host.Outcome.next ((runCmd_taken h).trans (congrArg _ ((createSq_valid hok).trans
    ((if_neg ?_).trans (if_neg ?_))))), ?_⟩
  · simp [hfree]
  · simpa using Option.isSome_iff_ne_none.mp hcq
  · simp only [cqAt, sqAt, inst_cmdEnded, inst_mirror, inst_instMod_self, inst_issued, implies_true, and_true, true_and]
    exact ⟨tfind_tset_self .., fun k hk => tfind_tset_ne _ _ _ _ hk.symm⟩

theorem deleteSq_removes (h : CmdTaken s link.val i.val 3 cmd [(0x15, 1)]) (hq : fld cmd 0x15 1 ≤ 15)
    (hx : (sqAt s i.val (fld cmd 0x15 1)).isSome = true)
    (hj : ∀ j ∈ s.js.jobs, ¬ (j.inst = i.val ∧ j.sq = fld cmd 0x15 1 ∧ j.gen = instGen s i.val ∧ j.jstate ≠ .pending))
    (he : ∀ e ∈ s.net.qps, ¬ (e.2.inst = i.val ∧ e.2.gen = instGen s i.val ∧ e.2.use = 1 ∧ e.2.sq = fld cmd 0x15 1)) :
    ∃ t, exec (.deleteSq link i ⟨cmd, again⟩) s = .next t ∧
      (inst t i.val).sqs = tdel (inst s i.val).sqs (fld cmd 0x15 1) ∧ (inst t i.val).cmdStatus = 0 := by
  refine ⟨_, congrArg Host.Outcome.next ((runCmd_taken h).trans (congrArg _ (deleteSq_idle hq ?_ hj he))), ?_⟩
  · rwa [sqAt_issued]
  · simp only [inst_cmdEnded, inst_mirror, inst_instMod_self, inst_dropSqJobs, inst_issued, and_self]

theorem deleteCq_removes (h : CmdTaken s link.val i.val 4 cmd [(0x15, 1)]) (hq : fld cmd 0x15 1 ≤ 15)
    (hx : (cqAt s i.val (fld cmd 0x15 1)).isSome = true) (he : ∀ e ∈ (inst s i.val).sqs, e.2.cq ≠ fld cmd 0x15 1) :
    ∃ t, exec (.deleteCq link i ⟨cmd, again⟩) s = .next t ∧
      (inst t i.val).cqs = tdel (inst s i.val).cqs (fld cmd 0x15 1) ∧ (inst t i.val).cmdStatus = 0 := by
  refine ⟨_, congrArg Host.Outcome.next ((runCmd_taken h).trans (congrArg _ (deleteCq_idle hq ?_ ?_))), ?_⟩
  · rwa [cqAt_issued]
  · rwa [inst_issued]
  · simp only [inst_cmdEnded, inst_mirror, inst_instMod_self, inst_issued, and_self]

end

/-- Settles O35, command by command: what its check of the CMD block and of the queues makes of it. -/
theorem queueCommands : Obligations.QueueCommands := by
  unfold Obligations.QueueCommands
  rintro s link i cmd q again rfl
  refine ⟨fun hf hl hp => congrArg _ (runCmd_discards hf hl hp),
    fun h hok => ⟨createCq_makes h hok, fun hx => congrArg _ (runCmd_answers h ?_)⟩,
    fun h hbad => congrArg _ (runCmd_answers h (createCq_invalid hbad)),
    fun h hok => ⟨createSq_makes h hok, fun hx => congrArg _ (runCmd_answers h ?_),
      fun hx hcq => congrArg _ (runCmd_answers h ?_)⟩,
    fun h hbad => congrArg _ (runCmd_answers h (createSq_invalid hbad)),
    fun h hq => ⟨deleteSq_removes h hq, fun hj hx => congrArg _ (runCmd_answers h (deleteSq_inUse hq ?_ hj)),
      fun hx => congrArg _ (runCmd_answers h (deleteSq_absent hq ?_))⟩,
    fun h hq => ⟨deleteCq_removes h hq, fun hx he => congrArg _ (runCmd_answers h (deleteCq_inUse hq ?_ ?_)),
      fun hx => congrArg _ (runCmd_answers h (deleteCq_absent hq ?_))⟩,
    fun h hq hk => ⟨fun x hx => congrArg _ (runCmd_answers h (queryQueue_cq hq hk ?_)),
      fun hx => congrArg _ (runCmd_answers h (queryQueue_absentCq hq hk ?_))⟩⟩
  · exact (createCq_valid hok).trans (if_pos (by rwa [cqAt_issued]))
  · exact (createSq_valid hok).trans (if_pos (by rwa [sqAt_issued]))
  · exact (createSq_valid hok).trans ((if_neg (by simp [hx])).trans (if_pos (by simp [hcq])))
  · rwa [sqAt_issued]
  · rwa [sqAt_issued]
  · rwa [cqAt_issued]
  · rwa [inst_issued]
  · rwa [cqAt_issued]
  · rwa [cqAt_issued]
  · rwa [cqAt_issued]

end Sys2Proof.Machine
end

section
/-! PROOFS. Queue-pair and region commands: what a CMD block that a page takes makes of them (R143, R145 to R147, R310). -/

namespace Sys2Proof.Machine

/-! ### Tables -/

theorem tfind_tdel_self {α : Type} (t : Tbl α) (k : Nat) (h : tsorted t = true) : tfind (tdel t k) k = none := by
  induction t with
  | nil => rfl
  | cons e t ih =>
    obtain ⟨a, x⟩ := e
    obtain ⟨habove, ht⟩ := (tsorted_cons a x t).mp h
    by_cases hk : a = k
    · subst hk
      simpa [tdel] using tfind_none t a fun e he => (habove e he).ne'
    · simpa [tdel, tfind, hk] using ih ht

/-- A map that keeps the keys keeps their order. -/
theorem tsorted_map {α : Type} (g : Nat × α → Nat × α) (hg : ∀ e, (g e).1 = e.1) (t : Tbl α) :
    tsorted (t.map g) = tsorted t := by
  induction t with
  | nil => rfl
  | cons e t ih =>
    rw [Bool.eq_iff_iff, List.map_cons]
    refine (tsorted_cons _ _ _).trans (Iff.trans ?_ (tsorted_cons e.1 e.2 t).symm)
    simp only [List.forall_mem_map, hg, ih]

/-- A table that lists every key below k has k entries or more. -/
theorem le_length_of_listed {α : Type} {t : Tbl α} {k : Nat} (h : ∀ j < k, (tfind t j).isSome = true) : k ≤ t.length := by
  have hsub : List.range k ⊆ t.map (·.1) := fun j hj => by
    obtain ⟨v, hv⟩ := Option.isSome_iff_exists.mp (h j (List.mem_range.mp hj))
    exact List.mem_map.mpr ⟨_, tfind_mem t j v hv, rfl⟩
  simpa using List.Subperm.length_le (List.nodup_range.subperm hsub)

theorem find?_range_lowest {p : Nat → Bool} {k n : Nat} (hk : p k = true) (hlow : ∀ j < k, p j = false) (hn : k < n) :
    (List.range n).find? p = some k :=
  List.find?_range_eq_some.mpr ⟨hk, List.mem_range.mpr hn, fun j hj => by simp [hlow j hj]⟩

/-- The search for a free index below a bound finds the lowest one. -/
theorem find?_lowestFree {α : Type} {t : Tbl α} {k bound : Nat} (h : LowestFree t k) (hk : k < bound) :
    (List.range (t.length + 1)).find? (fun i => i < bound && (tfind t i).isNone) = some k := by
  obtain ⟨hfree, hlow⟩ := h
  refine find?_range_lowest (by simp [hk, hfree]) (fun j hj => ?_) (Nat.lt_succ_of_le (le_length_of_listed hlow))
  simpa using fun _ => hlow j hj

/-! ### CREATE_QP, REGISTER_REGION and DEREGISTER_REGION -/

section
variable {s : State} {n k : Nat} {c : List Byte}

theorem createQp_makes (hok : QpCmdOk s n c)
    (hquota : (s.net.qps.filter fun e => e.2.inst = n).length < od s (instIdx n) 0x0C) (hk : k < 65536)
    (hfree : LowestFree s.net.qps k) : createQp n c s = ((0, leBytes 4 k ++ leBytes 4 (k + 2)), netMod (fun x =>
      { x with qps := tset x.qps k { inst := n, gen := instGen s n, use := fld c 8 1, sq := fld c 9 1
                                     mtu := fld c 10 1 } }) s) := by
  obtain ⟨huse, huse3, hmtu, hmtu5, hsq, hsubmit, hother⟩ := hok
  unfold createQp
  dsimp only
  rw [if_neg ?_, if_neg (Nat.not_le.mpr hquota), find?_lowestFree hfree hk]
  · rfl
  · by_cases h1 : fld c 8 1 = 1
    · obtain ⟨q, hq, hnet⟩ := hsubmit h1
      simp [h1, hq, hnet, hsq, hmtu5, Nat.one_le_iff_ne_zero.mp hmtu]
    · simp [h1, hother h1, hmtu5, huse3, Nat.one_le_iff_ne_zero.mp hmtu, Nat.one_le_iff_ne_zero.mp huse]

theorem registerRegion_makes {tag : Nat} (hrights : fld c 0x18 1 ≤ 3) (hlen : fld c 0x10 8 ≠ 0)
    (hend : fld c 8 8 + fld c 0x10 8 ≤ 2 ^ 48)
    (hquota : (s.net.regions.filter fun e => e.2.inst = n && !e.2.zone).length < od s (instIdx n) 0x0D) (hk : k < 1048576)
    (hfree : LowestFree s.net.regions k) (htag : tag = (tget 0 s.net.tags k + 1) % 4096) :
    registerRegion n c s = ((0, leBytes 4 (k * 4096 + tag)), netMod (fun x =>
      { x with tags := tset x.tags k tag, regions := tset x.regions k
                { inst := n, gen := instGen s n, base := fld c 8 8, length := fld c 0x10 8
                  read := (fld c 0x18 1).testBit 0, write := (fld c 0x18 1).testBit 1 } }) s) := by
  subst htag
  unfold registerRegion addRegion
  dsimp only
  rw [if_neg (by simpa [hrights, hlen] using hend), if_neg (Nat.not_le.mpr hquota), find?_lowestFree hfree hk]

theorem deregisterRegion_drops {r : Region} (h : regionAt s (fld c 8 4) = some r) (hn : r.inst = n) (hz : r.zone = false) :
    deregisterRegion n c s =
      ((0, []), netMod (fun x => { x with regions := tdel x.regions (fld c 8 4 / 4096) }) s) := by
  unfold deregisterRegion
  dsimp only
  rw [h]
  exact if_pos (by simp [hn, hz])

end

/-! ### CONNECT_QP -/

theorem qpAt_qpMod_self (k : Nat) (f : QP → QP) (s : State) : qpAt (qpMod k f s) k = (qpAt s k).map f :=
  tfind_map_self _ _ _

/-- The classifier with the entry of queue pair k, connected to a remote address, written at a place (R147). -/
def classified (k remote place : Nat) (s : State) : State :=
  healEntry place (classMod 1 (fun es => tset es place
    { value := classKey (localFor s remote) (k + 2), mask := 2 ^ 160 - 1, valid := true, result := k }) s)

/-- The queue pair that CONNECT_QP makes of one that has nothing to send (Table 14-5). -/
def connectedQp (c : List Byte) (q : QP) : QP :=
  { q with
    connected := true, remoteQpn := fld c 0x0C 4, remoteIp := beNat (slice c 0x10 16), txPsn := fld c 0x20 4
    rxPsn := fld c 0x24 4, primary := fld c 0x28 1, plane := fld c 0x28 1, ports := fld c 0x29 1
    timeoutN := if fld c 0x2A 1 = 0 then 10 else fld c 0x2A 1, retry := fld c 0x2B 1 % 8
    rnrRetry := fld c 0x2B 1 / 8 }

theorem classify_free {s : State} {place : Nat} (h : FreePlace s place) (k remote : Nat) :
    classify k remote s = some (classified k remote place s) := by
  obtain ⟨hsize, hfree, hlow⟩ := h
  have hlisted : place ≤ (classEntries s).length := le_length_of_listed fun j hj => by
    obtain ⟨e, he, _⟩ := hlow j hj
    simp [he]
  unfold classify
  dsimp only
  rw [find?_range_lowest (k := place)]
  · rfl
  · cases he : tfind (tget {} s.js.groups 0).entries place with
    | none => rfl
    | some e => simp [hfree e he]
  · intro j hj
    obtain ⟨e, he, hv⟩ := hlow j hj
    rw [show tfind (tget {} s.js.groups 0).entries j = some e from he]
    simp [hv]
  · exact lt_min hsize (Nat.lt_succ_of_le hlisted)

theorem classEntries_classified (k remote place : Nat) (s : State) : tfind (classEntries (classified k remote place s)) place =
    some { value := classKey (localFor s remote) (k + 2), mask := 2 ^ 160 - 1, valid := true, result := k } := by
  simp [classified, healEntry, classMod, classEntries, tmod, tget_tset_self, tfind_tset_self]

theorem planeFit_classified (k remote place p : Nat) (s : State) (hp : p ≤ 1) :
    planeFit (classified k remote place s) p = planeFit s p := by
  have h : planeState (classified k remote place s) p = planeState s p :=
    od_odSet_ne _ _ _ _ _ s fun hkey => by unfold odKey at hkey; omega
  unfold planeFit
  rw [h]

/-- A queue pair that is changed and has nothing to send is left so as it starts on a fit plane, and so is the classifier. -/
theorem startQp_idle {s : State} {k : Nat} {q : QP} {f : QP → QP} (h : qpAt s k = some q) (hq : (f q).sendQ = []) :
    qpAt (startQp k true (qpMod k f s)) k = some (f q) ∧ classEntries (startQp k true (qpMod k f s)) = classEntries s := by
  have hf : qpAt (qpMod k f s) k = some (f q) := by rw [qpAt_qpMod_self, h, Option.map_some]
  show qpAt (flushQp k _) k = _ ∧ classEntries (flushQp k _) = _
  unfold flushQp
  rw [hf]
  dsimp only
  split
  · exact ⟨hf, rfl⟩
  · rw [hq]
    refine ⟨?_, rfl⟩
    rw [List.filter_nil, List.foldl_nil, qpAt_qpMod_self, hf, Option.map_some, hq, List.map_nil, ← hq]

theorem qpAt_of_ownQp {s : State} {n k : Nat} {q : QP} (h : ownQp s n k = some q) : qpAt s k = some q := by
  unfold ownQp at h
  cases hq : qpAt s k with
  | none => simp [hq] at h
  | some x =>
    simp only [hq] at h
    split at h
    · exact h
    · cases h

theorem connectQp_connects {s : State} {n place : Nat} {c : List Byte} {q : QP} (hok : ConnectCmdOk c)
    (h : ownQp s n (fld c 8 4) = some q) (hconn : q.connected = false) (herr : q.err = false) (hsend : q.sendQ = [])
    (hfit : planeFit s (fld c 0x28 1) = true) (hplace : FreePlace s place) :
    ∃ u, connectQp n c s = ((0, []), u) ∧ qpAt u (fld c 8 4) = some (connectedQp c q) ∧
      classEntries u = classEntries (classified (fld c 8 4) (beNat (slice c 0x10 16)) place s) := by
  obtain ⟨hqpn, htx, hrx, hplane, hports, htimeout, hretry⟩ := hok
  unfold connectQp
  dsimp only
  rw [if_neg (by simpa [hplane, hports, htimeout, hretry, and_assoc] using ⟨hqpn, htx, hrx⟩), h]
  dsimp only
  rw [if_neg (by simp [hconn, herr]), classify_free hplace]
  dsimp only
  rw [planeFit_classified _ _ _ _ _ hplane, hfit]
  have hq : qpAt (classified (fld c 8 4) (beNat (slice c 0x10 16)) place s) (fld c 8 4) = some q :=
    show qpAt s (fld c 8 4) = some q from qpAt_of_ownQp h
  refine ⟨_, rfl, Eq.trans (startQp_idle hq ?_).1 (congrArg some ?_), (startQp_idle hq ?_).2⟩
  · simp only [hsend, renumber]
  · unfold connectedQp
    rw [hsend]
    rfl
  · simp only [hsend, renumber]

/-! ### DESTROY_QP -/

theorem unclassify_net (k : Nat) (s : State) : (unclassify k s).net = s.net := by
  unfold unclassify
  dsimp only
  split <;> rfl

theorem unclassify_tasks (k : Nat) (s : State) : (unclassify k s).js.tasks = s.js.tasks := by
  unfold unclassify
  dsimp only
  split <;> rfl

/-- No entry of the classifier that names the queue pair is left valid. -/
theorem unclassify_clears (k : Nat) (s : State) : ∀ e ∈ classEntries (unclassify k s), e.2.result = k → e.2.valid = false := by
  unfold unclassify
  dsimp only
  split
  · rename_i hnone
    intro e he hk
    simpa [hk] using List.filter_eq_nil_iff.mp (List.length_eq_zero_iff.mp hnone) e he
  · intro e he hk
    simp only [classEntries, classMod, odAdd_js, tmod, tget_tset_self, List.mem_map] at he
    obtain ⟨x, _, rfl⟩ := he
    split
    · rfl
    · rename_i hne
      rw [if_neg hne] at hk
      exact absurd hk hne

/-- Which queue pairs a stage uses turns on the exchange's sends and zones alone. -/
theorem usesQp_of_net {s u : State} (hsends : u.net.sends = s.net.sends) (hzones : u.net.zones = s.net.zones)
    (t : Task) (k : Nat) : usesQp u t k = usesQp s t k := by
  unfold usesQp
  rw [hsends, hzones]

/-- The state once a queue pair that no stage uses is in the error state (R144). -/
def qpSilenced (k : Nat) (s : State) : State :=
  netMod (fun n => { n with fabric := n.fabric.filter fun m => m.src ≠ k && m.dst ≠ k })
    (unclassify k (qpMod k (fun q => { q with err := true, sendQ := [], heldSince := none, heldOut := [], rnrWait := false }) s))

theorem qpSilenced_clears (k : Nat) (s : State) : ∀ e ∈ classEntries (qpSilenced k s), e.2.result = k → e.2.valid = false :=
  unclassify_clears k _

theorem qpFail_unused {s : State} {k status : Nat} {q : QP} (h : qpAt s k = some q) (herr : q.err = false)
    (huse : ∀ e ∈ s.js.tasks, usesQp s e.2 k = none) : qpFail k status s = qpSilenced k s := by
  have hnet : ∀ t, usesQp (qpSilenced k s) t k = usesQp s t k := fun t =>
    usesQp_of_net (congrArg (·.sends) (unclassify_net k _)) (congrArg (·.zones) (unclassify_net k _)) t k
  have hnone : (qpSilenced k s).js.tasks.filterMap
      (fun e => (usesQp (qpSilenced k s) e.2 k).map fun ix => (e.1, ix)) = [] := by
    refine List.filterMap_eq_nil_iff.mpr fun e he => ?_
    rw [show (qpSilenced k s).js.tasks = s.js.tasks from unclassify_tasks k _] at he
    rw [hnet, huse e he, Option.map_none]
  unfold qpFail
  rw [h]
  dsimp only
  rw [if_neg (by simp [herr])]
  unfold qpSilenced at hnone
  rw [hnone]
  rfl

@[simp] theorem classEntries_netMod (f : NetState → NetState) (s : State) : classEntries (netMod f s) = classEntries s := rfl
@[simp] theorem classEntries_forgetSender (k : Nat) (s : State) : classEntries (forgetSender k s) = classEntries s := rfl

theorem destroyQp_removes {s : State} {n : Nat} {c : List Byte} {q : QP} (h : ownQp s n (fld c 8 4) = some q)
    (herr : q.err = false) (hsorted : tsorted s.net.qps = true) (huse : ∀ e ∈ s.js.tasks, usesQp s e.2 (fld c 8 4) = none) :
    ∃ u, destroyQp n c s = ((0, []), u) ∧ qpAt u (fld c 8 4) = none ∧
      (∀ e ∈ classEntries u, e.2.result = fld c 8 4 → e.2.valid = false) ∧
      (∀ m ∈ u.net.fabric, m.src ≠ fld c 8 4 ∧ m.dst ≠ fld c 8 4) ∧ ∀ j ∈ u.js.jobs, j.sender ≠ some (fld c 8 4) := by
  unfold destroyQp
  dsimp only
  rw [h]
  dsimp only
  rw [qpFail_unused (qpAt_of_ownQp h) herr huse]
  refine ⟨_, rfl, ?_, by simpa using qpSilenced_clears (fld c 8 4) s, fun m hm => ?_, fun j hj => ?_⟩
  · refine tfind_tdel_self _ _ ?_
    rw [show (qpSilenced (fld c 8 4) s).net.qps = _ from congrArg (·.qps) (unclassify_net _ _)]
    refine (tsorted_map _ (fun e => ?_) _).trans hsorted
    split <;> rfl
  · simpa using (List.mem_filter.mp hm).2
  · obtain ⟨x, _, rfl⟩ := List.mem_map.mp hj
    split
    · exact (Option.some_ne_none _).symm
    · assumption

end Sys2Proof.Machine
end

section
/-! PROOFS. The primary mailbox: what its answers hold (R311, Table 14-7, log entry 28). -/

namespace Sys2Proof.Machine

/-! ### Fields of byte strings -/

theorem slice_eq_map (bs : List Byte) (o n : Nat) : slice bs o n = (List.range n).map fun i => bs.getD (o + i) 0 := by
  refine List.ext_getElem (by simp) fun i hi _ => ?_
  simp only [slice_length] at hi
  by_cases h : i < bs.length - o
  · simp [slice, h, hi, show o + i < bs.length by omega]
  · simp [slice, List.getElem_append, h, hi, show ¬ o + i < bs.length by omega]

/-- A field of a field. -/
theorem slice_within {o n w : Nat} (bs : List Byte) (k : Nat) (h : o + n ≤ w) :
    slice (slice bs k w) o n = slice bs (k + o) n := by
  rw [slice_eq_map _ o n, slice_eq_map _ (k + o) n]
  refine List.map_congr_left fun i hi => ?_
  have hlt : o + i < w := by have := List.mem_range.mp hi; omega
  rw [slice_eq_map, List.getD_eq_getElem _ _ (by simpa using hlt)]
  simp [Nat.add_assoc]

theorem splice_length {bs new : List Byte} {off : Nat} (h : off + new.length ≤ bs.length) :
    (splice bs off new).length = bs.length := by
  simp only [splice, List.length_append, slice_length, List.length_drop]
  omega

/-- The bytes that replaced others read back. -/
theorem slice_splice (bs new : List Byte) (off k n : Nat) (h : k + n ≤ new.length) :
    slice (splice bs off new) (off + k) n = slice new k n := by
  unfold splice
  rw [List.append_assoc, slice_append_right _ _ _ _ (by simp), slice_length, Nat.add_sub_cancel_left,
    slice_append_left _ _ _ _ h]

/-- What lies below the bytes that replaced others is as it was. -/
theorem slice_splice_below {o n off : Nat} (bs new : List Byte) (h : o + n ≤ off) :
    slice (splice bs off new) o n = slice bs o n := by
  unfold splice
  rw [List.append_assoc, slice_append_left _ _ _ _ (by simpa using h), slice_within _ _ h, Nat.zero_add]

/-- The entries that a list adds to an answer one after another: each of w bytes, with free values taken as it is formed. -/
theorem foldl_entries {α : Type} {step : List Byte × State → α → List Byte × State} {w : Nat} {P : α → List Byte → Prop}
    (hstep : ∀ b s a, ∃ r c, step (b, s) a = (b ++ r, { s with freeCtr := c }) ∧ r.length = w ∧ P a r) (l : List α) :
    ∀ b s, ∃ t c, l.foldl step (b, s) = (b ++ t, { s with freeCtr := c }) ∧ t.length = w * l.length ∧
      ∀ j a, l[j]? = some a → P a (slice t (w * j) w) := by
  induction l with
  | nil => exact fun b s => ⟨[], s.freeCtr, by simp, rfl, by simp⟩
  | cons a l ih =>
    intro b s
    obtain ⟨r, c, hr, hlen, hP⟩ := hstep b s a
    obtain ⟨t, c', ht, htlen, hPt⟩ := ih (b ++ r) { s with freeCtr := c }
    refine ⟨r ++ t, c', ?_, ?_, ?_⟩
    · rw [List.foldl_cons, hr, ht, List.append_assoc]
    · rw [List.length_append, hlen, htlen, List.length_cons, Nat.mul_succ, Nat.add_comm]
    · rintro (_ | j) x hx
      · obtain rfl : a = x := by simpa using hx
        rwa [Nat.mul_zero, slice_append_left _ _ _ _ (by omega), slice_all _ _ hlen]
      · rw [slice_append_right _ _ _ _ (by rw [hlen, Nat.mul_succ]; omega), hlen,
          show w * (j + 1) - w = w * j by rw [Nat.mul_succ]; omega]
        exact hPt j x (by simpa using hx)

/-! ### Events and logs -/

/-- An event record holds its handle and its time (log entry 28). -/
def HoldsEvent (e : EvRec) (r : List Byte) : Prop := fld r 0x14 2 = e.handle % 65536 ∧ fld r 0x18 8 = e.time % 2 ^ 64

theorem eventBytes_holds (e : EvRec) (s : State) :
    ∃ r c, eventBytes e s = (r, { s with freeCtr := c }) ∧ r.length = 128 ∧ HoldsEvent e r := by
  have hlen : ∀ b : List Byte, b.length = 128 → (splice b 0x14 (leBytes 2 e.handle)).length = 128 := fun b hb => by
    rw [splice_length] <;> simp [hb]
  refine ⟨_, _, rfl, ?_, congrArg leNat ?_ |>.trans (leNat_leBytes 2 e.handle),
    congrArg leNat ?_ |>.trans (leNat_leBytes 8 e.time)⟩
  · rw [splice_length] <;> simp [hlen]
  · rw [slice_splice_below _ _ (by decide)]
    exact (slice_splice _ _ 0x14 0 2 (by simp)).trans (slice_all _ _ (leBytes_length ..))
  · exact (slice_splice _ _ 0x18 0 8 (by simp)).trans (slice_all _ _ (leBytes_length ..))

/-- The head of the output of Get Event Records: whether more than 31 records wait, and how many follow. -/
def eventHead (es : List EvRec) : List Byte :=
  leBytes 1 (if 31 < es.length then 2 else 0) ++ List.replicate 19 0 ++ leBytes 2 (es.take 31).length ++ List.replicate 10 0

theorem eventHead_length (es : List EvRec) : (eventHead es).length = 32 := by
  simp only [eventHead, List.length_append, leBytes_length, List.length_replicate]

theorem eventHead_more (es : List EvRec) : fld (eventHead es) 0 1 = if 31 < es.length then 2 else 0 := by
  unfold fld eventHead
  rw [List.append_assoc, List.append_assoc, slice_append_left _ _ _ _ (by simp), slice_all _ _ (leBytes_length ..), leNat_leBytes]
  split <;> rfl

theorem eventHead_count (es : List EvRec) : fld (eventHead es) 0x14 2 = min 31 es.length := by
  unfold fld eventHead
  rw [slice_append_left _ _ _ _ (by simp), slice_append_right _ _ _ _ (by simp)]
  simp only [List.length_append, leBytes_length, List.length_replicate, Nat.reduceAdd, Nat.sub_self]
  rw [slice_all _ _ (leBytes_length ..), leNat_leBytes, List.length_take]
  omega

/-- The output of Get Event Records: its head, and the first 31 records in order. -/
theorem eventOutput_holds (es : List EvRec) (s : State) : ∃ t c, eventOutput es s = (eventHead es ++ t, { s with freeCtr := c }) ∧
    t.length = 128 * min 31 es.length ∧ ∀ j e, j < min 31 es.length → es[j]? = some e → HoldsEvent e (slice t (128 * j) 128) := by
  obtain ⟨t, c, ht, hlen, hrec⟩ := foldl_entries (P := HoldsEvent) (w := 128)
    (step := fun (b, s) e => let (r, s) := eventBytes e s; (b ++ r, s))
    (fun b s e => by
      obtain ⟨r, c, hr, hlen, he⟩ := eventBytes_holds e s
      exact ⟨r, c, by simp only [hr], hlen, he⟩) (es.take 31) (eventHead es) s
  refine ⟨t, c, ht, by rw [hlen, List.length_take], fun j e hj he => hrec j e ?_⟩
  rw [List.getElem?_take_of_lt (by omega), he]

/-- The Command Effects Log holds each opcode in turn, four bytes to an entry. -/
theorem celBytes_holds (s : State) : ∃ b c, celBytes s = (b, { s with freeCtr := c }) ∧
    ∀ k op, mailboxOpcodes[k]? = some op → fld b (4 * k) 2 = op := by
  obtain ⟨t, c, ht, -, hop⟩ := foldl_entries (P := fun op r => fld r 0 2 = op % 256 ^ 2) (w := 4)
    (step := fun (b, s) op => let (f, s) := takeFreeBytes 2 s; (b ++ leBytes 2 op ++ f, s))
    (fun b s op => ⟨leBytes 2 op ++ (takeFreeBytes 2 s).1, s.freeCtr + 2, Prod.ext (List.append_assoc ..) rfl,
      by simp [takeFreeBytes], by
        rw [fld, slice_append_left _ _ _ _ (by simp), slice_all _ _ (leBytes_length ..), leNat_leBytes]⟩) mailboxOpcodes [] s
  refine ⟨t, c, ht, fun k op hk => ?_⟩
  have hsmall : op % 256 ^ 2 = op := Nat.mod_eq_of_lt
    ((by decide : ∀ x ∈ mailboxOpcodes, x < 256 ^ 2) op (List.mem_of_getElem? hk))
  have h := hop k op hk
  rwa [fld, slice_within _ _ (by decide), hsmall] at h

/-! ### The commands on a live mailbox -/

section
variable {s : State} {link : Link} (h : mailboxLive s link.val = true)
include h

theorem mailbox_answers {t u : State} (ht : t = u) :
    (Host.Outcome.next (if mailboxLive s link.val then t else s) : Host.Outcome State Fault Refusal) = .next u :=
  congrArg Host.Outcome.next ((if_pos h).trans ht)

theorem getEventRecords_answers {log : Nat} (hlog : log ≤ 3) :
    ∃ b c n, n = min 31 (eventsOf s link.val log).length ∧
      exec (.getEventRecords link log) s = .next (mailAnswer link 0 b { s with freeCtr := c }) ∧
      b.length = 32 + 128 * n ∧ fld b 0x14 2 = n ∧ fld b 0 1 = (if 31 < (eventsOf s link.val log).length then 2 else 0) ∧
      ∀ j e, j < n → (eventsOf s link.val log)[j]? = some e →
        fld b (32 + 128 * j + 0x14) 2 = e.handle % 65536 ∧ fld b (32 + 128 * j + 0x18) 8 = e.time % 2 ^ 64 := by
  obtain ⟨t, c, ht, hlen, hrec⟩ := eventOutput_holds (eventsOf s link.val log) s
  have hrow : exec (.getEventRecords link log) s =
      .next (mailAnswer link 0 (eventHead (eventsOf s link.val log) ++ t) { s with freeCtr := c }) := by
    refine mailbox_answers h ((if_neg (Nat.not_lt.mpr hlog)).trans ?_)
    rw [ht]
    rfl
  have hrecord : ∀ j o w, fld (eventHead (eventsOf s link.val log) ++ t) (32 + 128 * j + o) w = fld t (128 * j + o) w :=
    fun j o w => by
      rw [fld, slice_append_right _ _ _ _ (by rw [eventHead_length]; omega), eventHead_length, Nat.add_assoc,
        Nat.add_sub_cancel_left, fld]
  refine ⟨_, c, _, rfl, hrow, by rw [List.length_append, eventHead_length, hlen], ?_, ?_, fun j e hj he => ?_⟩
  · rw [fld, slice_append_left _ _ _ _ (by rw [eventHead_length]; omega)]
    exact eventHead_count _
  · rw [fld, slice_append_left _ _ _ _ (by rw [eventHead_length]; omega)]
    exact eventHead_more _
  · obtain ⟨hhandle, htime⟩ := hrec j e hj he
    rw [fld, slice_within _ _ (by decide)] at hhandle htime
    exact ⟨(hrecord j 0x14 2).trans hhandle, (hrecord j 0x18 8).trans htime⟩

theorem clearEventRecords_answers {log : Nat} {all : Bool} {handles : List Nat} (hlog : log ≤ 3)
    (hknown : all = true ∨ ∀ k ∈ handles, ∃ e ∈ eventsOf s link.val log, e.handle = k) :
    exec (.clearEventRecords link log all handles) s = .next (mailAnswer link 0 [] { s with cx := { s.cx with
      events := tset s.cx.events link.val ((tget [] s.cx.events link.val).filter fun e =>
        !(decide (Config.eventLog e.kind.num = log) && (all || handles.contains e.handle))) } }) := by
  refine mailbox_answers h ((if_neg (Nat.not_lt.mpr hlog)).trans (if_neg ?_))
  simpa [Classical.or_iff_not_imp_left] using hknown

theorem getLog_answers {offset length : Nat} (hend : offset + length ≤ 40) : ∃ b c,
    exec (.getLog link celUuid offset length) s = .next (mailAnswer link 0 b { s with freeCtr := c }) ∧
    b.length = length ∧ ∀ k op, mailboxOpcodes[k]? = some op → offset ≤ 4 * k → 4 * k + 2 ≤ offset + length →
      fld b (4 * k - offset) 2 = op := by
  obtain ⟨b, c, hb, hop⟩ := celBytes_holds s
  refine ⟨slice b offset length, c, mailbox_answers h ((if_neg (by simp)).trans
    ((if_neg (Nat.not_lt.mpr hend)).trans ?_)), slice_length .., fun k op hk hlo hhi => ?_⟩
  · rw [hb]
    rfl
  · rw [fld, slice_within _ _ (by omega), Nat.add_sub_cancel' hlo]
    exact hop k op hk

/-- IDENTIFY_MEMORY_DEVICE gives the installed memory as total and as volatile capacity. -/
theorem identifyMemoryDevice_answers : ∃ b c,
    exec (.identifyMemoryDevice link) s = .next (mailAnswer link 0 b { s with freeCtr := c }) ∧ b.length = 0x45 ∧
    fld b 0x10 8 = installed s / 2 ^ 28 % 2 ^ 64 ∧ fld b 0x18 8 = installed s / 2 ^ 28 % 2 ^ 64 := by
  have hcap := leNat_leBytes 8 (installed s / 2 ^ 28)
  refine ⟨splice (takeFreeBytes 0x45 s).1 0x10 (leBytes 8 (installed s / 2 ^ 28) ++ leBytes 8 (installed s / 2 ^ 28)),
    s.freeCtr + 0x45, mailbox_answers h rfl, ?_, (congrArg leNat ?_).trans hcap, (congrArg leNat ?_).trans hcap⟩
  · rw [splice_length] <;> simp [takeFreeBytes]
  · rw [slice_splice _ _ 0x10 0 8 (by simp), slice_append_left _ _ _ _ (by simp), slice_all _ _ (leBytes_length ..)]
  · rw [slice_splice _ _ 0x10 8 8 (by simp), slice_append_right _ _ _ _ (by simp), leBytes_length, slice_all _ _ (leBytes_length ..)]

end

/-- Settles O54: each command by what it makes on its page or answers from its mailbox. -/
theorem hostCommandsComplete : Obligations.HostCommandsComplete := by
  unfold Obligations.HostCommandsComplete
  rintro s link i cmd q again rfl
  refine ⟨fun h hok hfree => ?_, fun h hok hfree hcq => ?_, fun h hq hx hsorted hj he => ?_, fun h hq hx hsorted he => ?_,
    fun h hq hk => ?_,
    fun k h hok hquota hk hfree =>
      congrArg _ (runCmd_answers h (createQp_makes (s := issued i.val cmd s) ?_ hquota hk hfree)),
    fun q place h hok hown hconn herr hsend hfit hplace => ?_, fun q h hown herr hsorted huse => ?_,
    fun k tag h hrights hlen hend hquota hk hfree htag =>
      congrArg _ (runCmd_answers h
        (registerRegion_makes (s := issued i.val cmd s) hrights hlen hend hquota hk hfree htag)),
    fun r h hr hn hz => congrArg _ (runCmd_answers h (deregisterRegion_drops (s := issued i.val cmd s) hr hn hz)),
    fun hlive => ⟨fun log hlog => getEventRecords_answers hlive hlog,
      fun log all handles hlog hknown => clearEventRecords_answers hlive hlog hknown,
      fun ns => mailbox_answers hlive rfl, mailbox_answers hlive rfl, mailbox_answers hlive rfl,
      fun offset length hend => getLog_answers hlive hend, identifyMemoryDevice_answers hlive,
      ⟨_, _, mailbox_answers hlive rfl, by simp⟩, fun msg => mailbox_answers hlive rfl, mailbox_answers hlive rfl,
      fun opcode hop => mailbox_answers hlive (if_neg (by simpa using hop))⟩⟩
  · obtain ⟨t, ht, hcq, hstatus, -⟩ := createCq_makes (again := again) h hok hfree
    exact ⟨t, ht, hstatus, by rw [hcq]; rfl⟩
  · obtain ⟨t, ht, hsq, hstatus, -⟩ := createSq_makes (again := again) h hok hfree hcq
    exact ⟨t, ht, hstatus, by rw [hsq]; rfl⟩
  · obtain ⟨t, ht, hsqs, hstatus⟩ := deleteSq_removes (again := again) h hq hx
      (fun j hmem ⟨hn, hsq, _, hst⟩ => by rcases hj j hmem with h | h | h <;> contradiction)
      (fun e hmem ⟨hn, _, huse, hsq⟩ => by rcases he e hmem with h | h | h <;> contradiction)
    exact ⟨t, ht, hstatus, by rw [sqAt, hsqs, tfind_tdel_self _ _ hsorted]⟩
  · obtain ⟨t, ht, hcqs, hstatus⟩ := deleteCq_removes (again := again) h hq hx he
    exact ⟨t, ht, hstatus, by rw [cqAt, hcqs, tfind_tdel_self _ _ hsorted]⟩
  · obtain ⟨head, tail, st, hans⟩ := queryQueue_valid (s := issued i.val cmd s) (n := i.val) hq hk
    exact ⟨_, congrArg _ (runCmd_answers h hans), by simp⟩
  · simpa only [QpCmdOk, sqAt_issued] using hok
  · obtain ⟨u, hu, hqp, hclass⟩ :=
      connectQp_connects (s := issued i.val cmd s) (n := i.val) hok hown hconn herr hsend hfit hplace
    refine ⟨_, congrArg Host.Outcome.next ((runCmd_taken h).trans (congrArg _ hu)), by rw [inst_cmdEnded], hqp, ?_⟩
    exact (congrArg (tfind · place) hclass).trans (classEntries_classified ..)
  · obtain ⟨u, hu, hgone, hclass, hfabric, hjobs⟩ :=
      destroyQp_removes (s := issued i.val cmd s) (n := i.val) hown herr hsorted huse
    exact ⟨_, congrArg Host.Outcome.next ((runCmd_taken h).trans (congrArg _ hu)), by rw [inst_cmdEnded], hgone, hclass,
      hfabric, hjobs⟩

end Sys2Proof.Machine
end

section
/-! PROOFS. What a WRITE of CONTROL does to an instance, and LOG_SWITCH_DONE (R320, R325, R326, R330, R431, R450). -/

namespace Sys2Proof.Machine

/-! ### CONTROL judged by its own rules (R431) -/

/-- The row of CONTROL. -/
abbrev controlEntry : Entry := ⟨0x4000, 0x4FFF, 2, 2, .u8, .wo, 1, 3, 1⟩

theorem control_takesNumber (i : Inst) : TakesNumber (instIdx i.val) 2 controlEntry :=
  takesNumber_of_row (by decide) (Nat.le_add_right _ _) (Nat.add_le_add_left (Nat.le_of_lt_succ i.isLt) _) (by decide)
    (by decide) (.inr rfl) rfl (by rw [pairLevel, decide_eq_false (by unfold instIdx; omega)]; rfl)

section
variable {s : State} {i : Inst} {w : VdpWrite} {n v : Nat}

theorem inRange_control (hn : n < 4096) (hlo : 1 ≤ v) (hhi : v ≤ 3) : inRange controlEntry (instIdx n) 2 v = true := by
  unfold inRange instIdx
  rw [if_neg (by simp), if_neg (by simp), if_pos (by simp; omega), if_neg (by simp), if_neg (by decide), if_neg (by decide),
    if_neg (by decide), if_neg (by decide)]
  simp [hlo, hhi, Nat.mod_one]

theorem applyWrite_control (hn : n < 4096) (hlo : 1 ≤ v) (hhi : v ≤ 3) :
    applyWrite controlEntry (instIdx n) 2 (leBytes 1 v) s = writeControl n v s := by
  have hv : leNat (leBytes 1 v) = v := leNat_leBytes_of_lt (by omega)
  have hi : instIdx n - 0x4000 = n := Nat.add_sub_cancel_left ..
  have hfirst : 0x4000 ≤ instIdx n := Nat.le_add_right ..
  have hlast : instIdx n ≤ 0x4FFF := Nat.add_le_add_left (Nat.le_of_lt_succ hn) 0x4000
  unfold applyWrite
  dsimp only
  rw [hv, if_neg (by simp [inRange_control hn hlo hhi]), if_neg (by simp), if_pos (by simp [hfirst, hlast]), hi]
  have hw : writeInst n 2 v s = writeControl n v s := rfl
  rw [hw]
  cases writeControl n v s <;> rfl

/-- A WRITE of CONTROL whose turn comes at once is answered as the rule of the value judges it. -/
theorem control_judged (h : WriteTurn s w (instIdx i.val) 2) (hlo : 1 ≤ v) (hhi : v ≤ 3) :
    writeAttr i 2 v w s = answerWrite w (instIdx i.val) 2 (leBytes 1 v) s (writeControl i.val v s) := by
  unfold writeAttr
  rw [writeNum_turn h (control_takesNumber i), Ty.width, applyWrite_control i.isLt hlo hhi]

theorem reset_judged (h : WriteTurn s w (instIdx i.val) 2) :
    exec (.resetWrite i w) s = .next (answerWrite w (instIdx i.val) 2 (leBytes 1 1) s (controlReset i.val s)) :=
  congrArg _ (control_judged h (by decide) (by decide))

theorem freeze_judged (h : WriteTurn s w (instIdx i.val) 2) :
    exec (.freeze i w) s = .next (answerWrite w (instIdx i.val) 2 (leBytes 1 2) s (controlFreeze i.val s)) :=
  congrArg _ (control_judged h (by decide) (by decide))

theorem resume_judged (h : WriteTurn s w (instIdx i.val) 2) :
    exec (.resume i w) s = .next (answerWrite w (instIdx i.val) 2 (leBytes 1 3) s (controlResume i.val s)) :=
  congrArg _ (control_judged h (by decide) (by decide))

end

/-! ### RESET (R320, R321) -/

section
variable {s : State} {n : Nat}

theorem controlReset_absent (h0 : n ≠ 0) (h : instSt s n = 0) : controlReset n s = .error .busy :=
  (if_neg h0).trans (if_pos h)

theorem controlReset_present (h0 : n ≠ 0) (h : instSt s n ≠ 0) : controlReset n s = .ok (resetInst n 3 s) :=
  (if_neg h0).trans (if_neg h)

theorem controlReset_begins (h0 : n ≠ 0) (h : instSt s n = 1 ∨ instSt s n = 3 ∨ instSt s n = 4) :
    controlReset n s = .ok (beginReset n 3 2 s) := by
  rw [controlReset_present h0 (by omega), resetInst_begins h0 h]

theorem controlReset_joins (h0 : n ≠ 0) (h : instSt s n = 2 ∨ instSt s n = 5) : controlReset n s = .ok s := by
  rw [controlReset_present h0 (by omega), resetInst_joins h0 (.inr h)]

/-! ### FREEZE (R325, R450) -/

theorem setInstSt_time (st : Nat) : (setInstSt n st s).time = s.time := (mirrorOnly_mirror _ _).time

theorem inst_setInstSt (m st : Nat) : inst (setInstSt n st s) m = inst s m := inst_of_js (setInstSt_js n st s) m

theorem phasePlaced_eq_false : phasePlaced s n = false ↔ NoSlot s n := by
  simp [phasePlaced, NoSlot]

theorem controlFreeze_takes (h0 : n ≠ 0) (hm : s.mode ≠ .freeze) (h : instSt s n = 1) :
    controlFreeze n s = .ok (freezeInst n s) :=
  (if_neg h0).trans (if_neg (by simp [hm, h]))

theorem controlFreeze_busy (h0 : n ≠ 0) (h : s.mode = .freeze ∨ instSt s n ≠ 1) : controlFreeze n s = .error .busy :=
  (if_neg h0).trans (if_pos (by simpa using h))

/-- What a freeze is before it is known whether a phase is placed: FREEZING since now. -/
def freezeBegun (n : Nat) (s : State) : State := instMod n (fun i => { i with freezeStart := s.time }) (setInstSt n 3 s)

theorem freezeInst_eq : freezeInst n s = settleFreeze n (freezeBegun n s) := rfl

theorem instSt_freezeBegun : instSt (freezeBegun n s) n = 3 := instSt_setInstSt_self n 3 s

theorem time_freezeBegun : (freezeBegun n s).time = s.time := setInstSt_time 3

theorem noSlot_freezeBegun : NoSlot (freezeBegun n s) n ↔ NoSlot s n := by
  rw [NoSlot, freezeBegun, instMod_js, setInstSt_js, NoSlot]

theorem settleFreeze_freezes (h : instSt s n = 3) (hs : NoSlot s n) :
    instSt (settleFreeze n s) n = 4 ∧ (inst (settleFreeze n s) n).frozenSince = s.time := by
  unfold settleFreeze
  rw [if_pos (by simp [h, phasePlaced_eq_false.mpr hs])]
  dsimp only
  rw [inst_instMod_self]
  exact ⟨instSt_setInstSt_self n 4 s, setInstSt_time 4⟩

theorem settleFreeze_waits (hs : ¬ NoSlot s n) : settleFreeze n s = s := by
  unfold settleFreeze
  rw [if_neg (by simp [Bool.eq_true_of_not_eq_false (mt phasePlaced_eq_false.mp hs)])]

/-- With no task in a slot the instance is FROZEN at once. -/
theorem freezeInst_frozen (hs : NoSlot s n) :
    instSt (freezeInst n s) n = 4 ∧ (inst (freezeInst n s) n).frozenSince = s.time := by
  rw [freezeInst_eq, ← time_freezeBegun (n := n)]
  exact settleFreeze_freezes instSt_freezeBegun (noSlot_freezeBegun.mpr hs)

/-- With a task in a slot the instance is FREEZING since now, and no other instance's record changes. -/
theorem freezeInst_freezing (hs : ¬ NoSlot s n) :
    instSt (freezeInst n s) n = 3 ∧ (inst (freezeInst n s) n).freezeStart = s.time ∧
      ∀ k, k ≠ n → inst (freezeInst n s) k = inst s k := by
  rw [freezeInst_eq, settleFreeze_waits (mt noSlot_freezeBegun.mp hs)]
  refine ⟨instSt_freezeBegun, ?_, fun k hk => ?_⟩
  · rw [freezeBegun, inst_instMod_self]
  · rw [freezeBegun, inst_instMod_ne _ _ _ _ hk.symm, inst_setInstSt]

/-! ### RESUME (R325, R326, R450) -/

theorem controlResume_takes (h0 : n ≠ 0) (hm : s.mode ≠ .freeze) (h : instSt s n = 4) :
    controlResume n s = .ok (resumeInst n s) :=
  (if_neg h0).trans (if_neg (by simp [hm, h]))

theorem controlResume_busy (h0 : n ≠ 0) (h : s.mode = .freeze ∨ instSt s n ≠ 4) : controlResume n s = .error .busy :=
  (if_neg h0).trans (if_pos (by simpa using h))

theorem instSt_resumeInst : instSt (resumeInst n s) n = 1 := instSt_setInstSt_self ..

/-- The acceptance times of the instance's jobs move on by the time that it stood. -/
theorem resumeInst_jobs : (resumeInst n s).js.jobs = s.js.jobs.map fun j =>
    if j.inst = n then { j with acceptedAt := j.acceptedAt + (s.time - (inst s n).frozenSince) } else j :=
  congrArg JobsState.jobs (setInstSt_js ..)

theorem resumeInst_image : (inst (resumeInst n s) n).imageOut = [] ∧ (inst (resumeInst n s) n).imageRead = false := by
  unfold resumeInst
  rw [inst_setInstSt, inst_instMod_self]
  exact ⟨rfl, rfl⟩

end

/-! ### LOG_SWITCH_DONE (R330) -/

section
variable {s : State} {i : Inst}

theorem logSwitchDone_held (hm : s.mode = .hold) : exec (.logSwitchDone i) s = .next s :=
  congrArg Host.Outcome.next (if_pos hm)

theorem logSwitchDone_idle (hm : s.mode ≠ .hold) (h : (inst s i.val).logDraining = 0) : exec (.logSwitchDone i) s = .next s :=
  congrArg Host.Outcome.next ((if_neg hm).trans (if_pos h))

theorem logSwitchDone_counts (hm : s.mode ≠ .hold) (h : (inst s i.val).logDraining ≠ 0) :
    exec (.logSwitchDone i) s = .next (odBump (instIdx i.val) 0x3D
      (instMod i.val (fun i => { i with logDraining := i.logDraining - 1 }) s)) :=
  congrArg Host.Outcome.next ((if_neg hm).trans (if_neg h))

end

/-- Settles O43, by the instance's STATE: each WRITE of CONTROL reaches the rule of its value, which takes or refuses it. -/
theorem instanceControlWrites : Obligations.InstanceControlWrites := by
  unfold Obligations.InstanceControlWrites
  intro s i w
  refine ⟨fun h => ?_, fun hm => ⟨fun hd => logSwitchDone_counts hm hd, fun hd => logSwitchDone_idle hm hd⟩,
    fun hm => logSwitchDone_held hm⟩
  rw [reset_judged h, freeze_judged h, resume_judged h]
  refine ⟨fun h0 => ?_, fun h0 => ⟨fun ha => ?_, fun hst => ⟨?_, ?_⟩, fun hst => ?_,
    fun hm hst => ⟨_, ?_, freezeInst_frozen, freezeInst_freezing⟩, fun hbusy => ?_,
    fun hm hst => ⟨_, ?_, instSt_resumeInst, resumeInst_jobs, resumeInst_image⟩, fun hbusy => ?_⟩⟩
  · rw [h0]
    exact ⟨rfl, rfl, rfl⟩
  · rw [controlReset_absent h0 ha]
    rfl
  · rw [controlReset_begins h0 hst]
    rfl
  · exact instSt_beginReset ..
  · rw [controlReset_joins h0 hst]
    rfl
  · rw [controlFreeze_takes h0 hm hst]
    rfl
  · rw [controlFreeze_busy h0 hbusy]
    rfl
  · rw [controlResume_takes h0 hm hst]
    rfl
  · rw [controlResume_busy h0 hbusy]
    rfl

end Sys2Proof.Machine
end

section
/-! PROOFS. What a WRITE of an instance's attributes stores and when it is refused: the reset-report ring, the spill pool, LINK
and LOG_CONTROL (R295, R318, R324, R329, R330, R431). -/

namespace Sys2Proof.Machine

/-! ### A WRITE to an attribute, by its range and its rules (R431) -/

/-- The attribute at sub of instance i is written as a number of a type, and takes the values that InRange holds of to its own
rules. -/
structure AttrTakes (i : Inst) (sub : Nat) (ty : Ty) (InRange : Nat → Prop) : Prop where
  row : ∃ hi step, TakesNumber (instIdx i.val) sub (attrEntry sub ty hi step) ∧
    ∀ v < 256 ^ ty.width, inRange (attrEntry sub ty hi step) (instIdx i.val) sub v = true ↔ InRange v
  stored : 2 < sub
  number : ty ≠ .bool

section
variable {s t : State} {i : Inst} {w : VdpWrite} {sub value : Nat} {ty : Ty} {InRange : Nat → Prop} {x : VdpErr}

theorem AttrTakes.judged (ha : AttrTakes i sub ty InRange) (h : WriteTurn s w (instIdx i.val) sub)
    (hv : value < 256 ^ ty.width) (hr : InRange value) :
    writeAttr i sub value w s = answerAttr w i.val sub (leBytes ty.width value) s (writeInst i.val sub value s) := by
  obtain ⟨⟨hi, step, he, hrange⟩, hs, hb⟩ := ha
  exact writeAttr_judged h he hv hs hb ((hrange value hv).mpr hr)

theorem AttrTakes.taken (ha : AttrTakes i sub ty InRange) (h : WriteTurn s w (instIdx i.val) sub)
    (hv : value < 256 ^ ty.width) (hr : InRange value) (hw : writeInst i.val sub value s = .ok t) :
    writeAttr i sub value w s = attrOk w i.val sub (leBytes ty.width value) t := by
  rw [ha.judged h hv hr, hw]
  rfl

theorem AttrTakes.refused (ha : AttrTakes i sub ty InRange) (h : WriteTurn s w (instIdx i.val) sub)
    (hv : value < 256 ^ ty.width) (hr : InRange value) (hw : writeInst i.val sub value s = .error x) :
    writeAttr i sub value w s = attrNo w i.val sub (leBytes ty.width value) x s := by
  rw [ha.judged h hv hr, hw]
  rfl

theorem AttrTakes.outOfRange (ha : AttrTakes i sub ty InRange) (h : WriteTurn s w (instIdx i.val) sub)
    (hv : value < 256 ^ ty.width) (hr : ¬ InRange value) :
    writeAttr i sub value w s = attrNo w i.val sub (leBytes ty.width value) .range s := by
  obtain ⟨⟨hi, step, he, hrange⟩, -, -⟩ := ha
  exact writeAttr_outOfRange h he hv (Bool.eq_false_of_not_eq_true (mt (hrange value hv).mp hr))

end

/-! ### The ranges (Tables 14-10 and 15-2) -/

section
variable {n sub v step : Nat}

/-- SPILL_BASE and RR_BASE are aligned device addresses below 2^48. -/
theorem inRange_address (hs : sub = 9 ∨ sub = 0x1A) (hn : n < 4096) (h1 : 1 ≤ step) (hv : v < 2 ^ 64) :
    inRange (attrEntry sub .u64 18446744073709551615 step) (instIdx n) sub v = true ↔ v % step = 0 ∧ v < 2 ^ 48 := by
  have hfirst : 0x4000 ≤ instIdx n := Nat.le_add_right ..
  have hlast : instIdx n ≤ 0x4FFF := Nat.add_le_add_left (Nat.le_of_lt_succ hn) 0x4000
  unfold inRange
  rw [if_neg (by simp; omega), if_neg (by simp; omega), if_pos (by simp [hfirst, hlast]), if_neg (by simp; omega),
    if_neg (by omega), if_neg (by omega), if_neg (by omega), if_pos (by simp; omega), Nat.max_eq_left h1]
  simp only [Bool.and_eq_true, decide_eq_true_eq]
  omega

theorem inRange_rrEntries (hn : n < 4096) (hv : v < 2 ^ 32) :
    inRange (attrEntry 0x1B .u32 4294967295 1) (instIdx n) 0x1B v = true ↔ v = 0 ∨ RingSize v 32 4096 := by
  have hfirst : 0x4000 ≤ instIdx n := Nat.le_add_right ..
  have hlast : instIdx n ≤ 0x4FFF := Nat.add_le_add_left (Nat.le_of_lt_succ hn) 0x4000
  unfold inRange
  rw [if_neg (by simp), if_neg (by simp), if_pos (by simp [hfirst, hlast]), if_neg (by simp), if_pos rfl]
  simp [zeroOrPow2, pow2In_iff, RingSize, Nat.mod_one, Nat.le_of_lt_succ hv]

end

section
variable (i : Inst)

theorem rrHead_takes : AttrTakes i 0x1D .u32 fun _ => True :=
  ⟨⟨4294967295, 1, attr_takesNumber i (by decide) (by decide) rfl, fun v hv => by
    rw [inRange_attr (by omega) i.isLt]
    simp [Nat.mod_one, Nat.le_of_lt_succ hv]⟩, by decide, by decide⟩

theorem spillPool_takes : AttrTakes i 0x0A .u64 fun v => v % 65536 = 0 :=
  ⟨⟨18446744073709551615, 65536, attr_takesNumber i (by decide) (by decide) rfl, fun v hv => by
    rw [inRange_attr (by omega) i.isLt]
    simp [Nat.le_of_lt_succ hv]⟩, by decide, by decide⟩

theorem spillBase_takes : AttrTakes i 9 .u64 fun v => v % 65536 = 0 ∧ v < 2 ^ 48 :=
  ⟨⟨18446744073709551615, 65536, attr_takesNumber i (by decide) (by decide) rfl,
    fun _ => inRange_address (.inl rfl) i.isLt (by decide)⟩, by decide, by decide⟩

theorem rrBase_takes : AttrTakes i 0x1A .u64 fun v => v % 32 = 0 ∧ v < 2 ^ 48 :=
  ⟨⟨18446744073709551615, 32, attr_takesNumber i (by decide) (by decide) rfl,
    fun _ => inRange_address (.inr rfl) i.isLt (by decide)⟩, by decide, by decide⟩

theorem rrEntries_takes : AttrTakes i 0x1B .u32 fun v => v = 0 ∨ RingSize v 32 4096 :=
  ⟨⟨4294967295, 1, attr_takesNumber i (by decide) (by decide) rfl, fun _ => inRange_rrEntries i.isLt⟩, by decide,
    by decide⟩

theorem link_takes : AttrTakes i 0x28 .u8 fun v => v ≤ 3 :=
  ⟨⟨3, 1, attr_takesNumber i (by decide) (by decide) rfl, fun v _ => by
    rw [inRange_attr (by omega) i.isLt]
    simp [Nat.mod_one]⟩, by decide, by decide⟩

theorem logControl_takes : AttrTakes i 0x3C .u8 fun v => v ≤ 2 :=
  ⟨⟨2, 1, attr_takesNumber i (by decide) (by decide) rfl, fun v _ => by
    rw [inRange_attr (by omega) i.isLt]
    simp [Nat.mod_one]⟩, by decide, by decide⟩

end

/-! ### RR_HEAD, RR_BASE and RR_ENTRIES (R318, R324) -/

section
variable {s : State} {n sub v : Nat}

theorem writeRrHead_beyond (h : od s (instIdx n) 0x1B ≤ v) : writeRrHead n v s = .error .range := if_pos h

/-- RR_HEAD moves the head forward to the slot, not past the tail, and held records follow. -/
theorem writeRrHead_moves (h : v < od s (instIdx n) 0x1B) : writeRrHead n v s =
    .ok (drainReports n (inst s n).rrHeld (odSet (instIdx n) 0x1D v (instMod n (fun x =>
      { x with rrHeadPos := min (x.rrHeadPos + (v + od s (instIdx n) 0x1B -
          (inst s n).rrHeadPos % od s (instIdx n) 0x1B) % od s (instIdx n) 0x1B) x.rrTail }) s))) := by
  unfold writeRrHead
  rw [if_neg (Nat.not_le.mpr h)]
  dsimp only
  rw [inst_of_js (odSet_js ..), inst_instMod_self]

theorem writeRing_busy (h : rrHeldCount s n ≠ 0 ∨ (inst s n).rrHeadPos ≠ (inst s n).rrTail) :
    writeRing n sub v s = .error .busy :=
  if_pos (by simpa using h)

theorem writeRing_base (hheld : rrHeldCount s n = 0) (hpos : (inst s n).rrHeadPos = (inst s n).rrTail) :
    writeRing n 0x1A v s = .ok (odSet (instIdx n) 0x1A v s) :=
  if_neg (by simp [hheld, hpos])

theorem writeRing_entries (hheld : rrHeldCount s n = 0) (hpos : (inst s n).rrHeadPos = (inst s n).rrTail) :
    writeRing n 0x1B v s = .ok (odSet (instIdx n) 0x1B v
      (odSet (instIdx n) 0x1D 0 (instMod n (fun x => { x with rrTail := 0, rrHeadPos := 0 }) s))) :=
  if_neg (by simp [hheld, hpos])

/-! ### SPILL_POOL and SPILL_BASE (R318) -/

theorem writeSpillPool_absent (h : instSt s n = 0) : writeSpillPool n v s = .ok (odSet (instIdx n) 0x0A v s) := if_pos h

theorem writeSpillPool_fits (h : instSt s n ≠ 0) (hv : od s (instIdx n) 0x0A - od s (instIdx n) 0x0B ≤ v) :
    writeSpillPool n v s = .ok (odSet (instIdx n) 0x0B (v - (od s (instIdx n) 0x0A - od s (instIdx n) 0x0B))
      (odSet (instIdx n) 0x0A v s)) :=
  (if_neg h).trans (if_neg (Nat.not_lt.mpr hv))

theorem writeSpillPool_busy (h : instSt s n ≠ 0) (hv : v < od s (instIdx n) 0x0A - od s (instIdx n) 0x0B) :
    writeSpillPool n v s = .error .busy :=
  (if_neg h).trans (if_pos hv)

theorem writeInst_spillBase_free (h : NoJobs s n) : writeInst n 9 v s = .ok (odSet (instIdx n) 9 v s) :=
  if_neg (by simp [hasJobs_eq_false.mpr h])

theorem writeInst_spillBase_busy (h : ¬ NoJobs s n) : writeInst n 9 v s = .error .busy :=
  if_pos (Bool.eq_true_of_not_eq_false (mt hasJobs_eq_false.mp h))

/-! ### LINK (R295) -/

theorem writeInst_link_free (hcqs : (inst s n).cqs = []) (hsqs : (inst s n).sqs = []) :
    writeInst n 0x28 v s = .ok (odSet (instIdx n) 0x28 v s) :=
  if_neg (by simp [hcqs, hsqs])

theorem writeInst_link_busy (h : (inst s n).cqs ≠ [] ∨ (inst s n).sqs ≠ []) : writeInst n 0x28 v s = .error .busy :=
  if_pos (by simpa using h)

/-! ### LOG_CONTROL (R329, R330) -/

/-- LOG_CONTROL takes a value; the bitmap that logging leaves, if it leaves one, has its last marks to make. -/
theorem writeLogControl_takes (hv : v ≤ 2) : writeLogControl n v s = .ok (odSet (instIdx n) 0x3C v
    (if od s (instIdx n) 0x3C = 0 ∨ od s (instIdx n) 0x3C = v then s
     else instMod n (fun x => { x with logDraining := x.logDraining + 1 }) s)) := by
  unfold writeLogControl
  rw [if_neg (Nat.not_lt.mpr hv)]
  simp

theorem writeLogControl_stops : writeLogControl n 0 s = .ok (odSet (instIdx n) 0x3C 0
    (if od s (instIdx n) 0x3C = 0 then s else instMod n (fun x => { x with logDraining := x.logDraining + 1 }) s)) := by
  simp only [writeLogControl_takes (Nat.zero_le 2), or_self]

end

/-- Settles O44, attribute by attribute: each WRITE reaches its attribute's rules, and these take or refuse the value. -/
theorem instanceAttributeWrites : Obligations.InstanceAttributeWrites := by
  unfold Obligations.InstanceAttributeWrites
  intro s i w value b
  refine ⟨fun h hv => ⟨fun hin => ?_, fun hout => ?_⟩,
    fun h hv => ⟨fun ha => ⟨fun habs => ?_, fun hst hfit => ?_, fun hst hlow => ?_⟩, fun ha => ?_⟩,
    fun h hv => ⟨fun ha hlt hj => ?_, fun ha hlt hj => ?_, fun hno => ?_⟩,
    fun h hv => ⟨fun ha hlt hheld hpos => ?_, fun ha hlt hring => ?_, fun hno => ?_⟩,
    fun h hv => ⟨fun hz hheld hpos => ?_, fun hz hring => ?_, fun hz => ?_⟩,
    fun h hv => ⟨fun hl hcqs hsqs => ?_, fun hl hq => ?_, fun hl => ?_⟩,
    fun h => ⟨fun t ht => ?_, ?_⟩⟩
  · exact congrArg _ ((rrHead_takes i).taken h hv trivial (writeRrHead_moves hin))
  · exact congrArg _ ((rrHead_takes i).refused h hv trivial (writeRrHead_beyond hout))
  · exact congrArg _ ((spillPool_takes i).taken h hv ha (writeSpillPool_absent habs))
  · exact congrArg _ ((spillPool_takes i).taken h hv ha (writeSpillPool_fits hst hfit))
  · exact congrArg _ ((spillPool_takes i).refused h hv ha (writeSpillPool_busy hst hlow))
  · exact congrArg _ ((spillPool_takes i).outOfRange h hv ha)
  · exact congrArg _ ((spillBase_takes i).taken h hv ⟨ha, hlt⟩ (writeInst_spillBase_free hj))
  · exact congrArg _ ((spillBase_takes i).refused h hv ⟨ha, hlt⟩ (writeInst_spillBase_busy hj))
  · exact congrArg _ ((spillBase_takes i).outOfRange h hv (by omega))
  · exact congrArg _ ((rrBase_takes i).taken h hv ⟨ha, hlt⟩ (writeRing_base hheld hpos))
  · exact congrArg _ ((rrBase_takes i).refused h hv ⟨ha, hlt⟩ (writeRing_busy hring))
  · exact congrArg _ ((rrBase_takes i).outOfRange h hv (by omega))
  · exact congrArg _ ((rrEntries_takes i).taken h hv hz (writeRing_entries hheld hpos))
  · exact congrArg _ ((rrEntries_takes i).refused h hv hz (writeRing_busy hring))
  · exact congrArg _ ((rrEntries_takes i).outOfRange h hv hz)
  · exact congrArg _ ((link_takes i).taken h hv hl (writeInst_link_free hcqs hsqs))
  · exact congrArg _ ((link_takes i).refused h hv hl (writeInst_link_busy hq))
  · exact congrArg _ ((link_takes i).outOfRange h hv (Nat.not_le.mpr hl))
  · have hbit : 1 + b.val ≤ 2 := by omega
    rw [ht]
    have hlog := (logControl_takes i).taken h (Nat.lt_of_le_of_lt hbit (by decide)) hbit (writeLogControl_takes hbit)
    exact ⟨congrArg _ hlog, congrArg _ hlog⟩
  · exact congrArg _ ((logControl_takes i).taken h (by decide) (Nat.zero_le 2) writeLogControl_stops)

end Sys2Proof.Machine
end

section
/-! PROOFS. How a critical write is checked, waits for its counter to be secured and is judged, and what CREATE and DESTROY leave
(R316, R317, R319, R380, R381, R383, R436, R437, R476). -/

namespace Sys2Proof.Machine

/-! ### Critical entries and the node a WRITE is addressed to (R431, R436) -/

/-- Entry e stands at idx and sub, and takes n bytes by a critical WRITE. -/
structure TakesCritical (idx sub n : Nat) (e : Entry) : Prop where
  found : entryAt idx sub = some e
  idx_lt : idx < 0x6000
  sub_lt : sub < 256
  access : e.acc = .rwc
  object : e.ty ≠ .domain
  fits : lengthFits e n = true
  short : n ≤ 1188

/-- The one row that its indices and subindex meet is such an entry, where its type and access say so. -/
theorem takesCritical_of_row {idx sub n : Nat} {e : Entry}
    (hrow : (dictRows.filter fun x => decide (x.idx ≤ e.idxLast) && decide (e.idx ≤ x.idxLast) && decide (x.sub ≤ sub) &&
      decide (sub ≤ x.subLast)) = [e])
    (hlo : e.idx ≤ idx) (hhi : idx ≤ e.idxLast) (hlast : e.idxLast < 0x6000) (hsub : sub < 256) (hacc : e.acc = .rwc)
    (hobj : e.ty ≠ .domain) (hfit : lengthFits e n = true) (hn : n ≤ 1188) : TakesCritical idx sub n e :=
  ⟨entry_in e.idx e.idxLast idx sub e hrow hlo hhi (Nat.le_refl _) (Nat.le_refl _), Nat.lt_of_le_of_lt hhi hlast,
    hsub, hacc, hobj, hfit, hn⟩

/-- A WRITE reaches the entry where it is addressed: the pair node's leader holds PAIR_POLICY, and a device without a twin
holds the pair-level entries itself. -/
structure ReachesEntry (s : State) (idx sub : Nat) (pair : Bool) : Prop where
  atPair : pair = true → idx = 0x2C01 ∧ pairId s ≠ 0 ∧ role s = 1
  atDevice : pair = false → pairLevel idx sub = true → pairId s = 0

theorem reachesEntry_device {s : State} {idx sub : Nat} (h : pairLevel idx sub = false) : ReachesEntry s idx sub false :=
  ⟨nofun, fun _ hl => Bool.noConfusion (h.symm.trans hl)⟩

/-- PAIR_POLICY is reached at the pair node on a device that has a twin and leads, and at the device where it has none. -/
theorem reachesEntry_pairPolicy {s : State} (h : decide (pairId s ≠ 0) = true → role s = 1) :
    ReachesEntry s 0x2C01 0 (decide (pairId s ≠ 0)) :=
  ⟨fun hp => ⟨rfl, of_decide_eq_true hp, h hp⟩, fun hp _ => not_not.mp (of_decide_eq_false hp)⟩

/-! ### The checks of R380 decide whether the write waits or is answered AUTH_FAIL -/

section
variable {s r u : State} {w : VdpWrite} {idx sub v : Nat} {bytes : List Byte} {pair : Bool} {e : Entry} {c : Instr}

theorem reach_critical (he : TakesCritical idx sub bytes.length e) (ha : ReachesEntry s idx sub pair) :
    reach s (writeMsg idx sub bytes pair w) true idx sub = .ok e := by
  have h6 : (decide (0x6000 ≤ idx) && decide (idx ≤ 0x6FFF)) = false := by
    rw [decide_eq_false (Nat.not_le.mpr he.idx_lt)]
    rfl
  unfold reach pairRefusal
  rw [write_pair, h6, he.found]
  cases pair with
  | true =>
    obtain ⟨hidx, hid, hrole⟩ := ha.atPair rfl
    simp [hidx, hid, hrole]
  | false => simpa using ha.atDevice rfl

theorem received_critical (src : VdpSrc) (ha : ReachesEntry s idx sub pair) :
    notReceived s src (writeMsg idx sub bytes pair w) = false := by
  unfold notReceived
  rw [write_pair]
  cases pair with
  | true => simp [(ha.atPair rfl).2.2]
  | false => simp

section
variable (h : WriteTurn s w idx sub) (he : TakesCritical idx sub bytes.length e) (ha : ReachesEntry s idx sub pair)
  (hp : w.principal < 256) (hc : w.counter < 2 ^ 64)
include h he ha hp hc

theorem critical_accepted (hg : authCheck idx sub w.principal w.counter (slice w.tag 0 16) bytes s = (true, u)) :
    vdpArrive w.src (writeMsg idx sub bytes pair w) s = secure (criticalHeld w idx sub bytes pair) u := by
  obtain ⟨hl, hb, hd, hh, hq, hk, hn⟩ := h
  exact critical_turn s u w idx sub bytes pair e hl hb hd hh hq hk hn (received_critical _ ha)
    (he.idx_lt.trans (by decide)) he.sub_lt (reach_critical he ha) he.access he.object he.fits he.short hp hc hg

theorem critical_refused (hg : authCheck idx sub w.principal w.counter (slice w.tag 0 16) bytes s = (false, u)) :
    vdpArrive w.src (writeMsg idx sub bytes pair w) s =
      answerRequest w.src (writeMsg idx sub bytes pair w) (.error .authFail) u := by
  obtain ⟨hl, hb, hd, hh, hq, hk, hn⟩ := h
  have hw : writable e = true := by
    unfold writable
    rw [he.access]
    rfl
  have hwrite : writeRequest w.src (writeMsg idx sub bytes pair w) s = (some (.error .authFail), u) := by
    unfold writeRequest
    dsimp only
    rw [write_idx, write_sub, write_value, write_principal, write_counter, write_tag,
      Nat.mod_eq_of_lt (he.idx_lt.trans (by decide)), Nat.mod_eq_of_lt he.sub_lt, Nat.mod_eq_of_lt hp, Nat.mod_eq_of_lt hc]
    simp [reach_critical he ha, hw, he.object, he.fits, hb, he.access, hg]
  have hcar : carryOut w.src (writeMsg idx sub bytes pair w) s = (some (.error .authFail), u) := by
    unfold carryOut
    rw [write_sound, write_type]
    simp only [Bool.false_eq_true, if_false, hwrite]
  rw [request_turn s w.src _ hl (write_fits idx sub bytes pair w he.short) (received_critical _ ha) hh hq
    (by rw [write_txn]; exact hk) hn, hcar]
  exact if_neg (by simp [write_type])

end

/-! ### Securing the counter (R381, R437) -/

theorem secure_unpaired {h : Held} (hst : h.stage = .counterLog) (hp : pairState s ≠ 3) :
    secure h s = { s with vd := { s.vd with held := some h } } := by
  cases h
  cases hst
  exact if_neg hp

/-- While PAIRED the write waits for the mirror to acknowledge the FLOOR record, which is the next one sent. -/
theorem secure_paired {h : Held} (hp : pairState s = 3) :
    (secure h s).vd.held = some { h with stage := .mirrorAck s.tw.nextRec } ∧ (secure h s).js = s.js := by
  unfold secure
  rw [if_pos hp]
  exact ⟨rfl, mirror_js _ _⟩

theorem counterLogWrite_secures {h : Held} (hh : s.vd.held = some h) (hst : h.stage = .counterLog) :
    exec .counterLogWrite s =
      .next (nextRequests (finishCritical h (odSet (0x1140 + h.principal) 5 h.counter s))) := by
  refine congrArg Host.Outcome.next ?_
  rw [hh]
  dsimp only
  rw [hst]

theorem counterLogWrite_none (hh : s.vd.held = none) : exec .counterLogWrite s = .next s := by
  refine congrArg Host.Outcome.next ?_
  rw [hh]

/-- A command that is the arrival, in r, of a WRITE that reaches a critical entry is a critical write. -/
theorem criticalWrite_of_arrival (hexec : exec c s = .next (vdpArrive w.src (writeMsg idx sub bytes pair w) r))
    (hturn : WriteTurn s w idx sub → WriteTurn r w idx sub) (he : TakesCritical idx sub bytes.length e)
    (ha : (pair = true → role s = 1) → ReachesEntry r idx sub pair) : CriticalWrite c s r w idx sub bytes pair := by
  intro u h hp hc hrole
  refine ⟨fun hg => ?_, fun hg => ?_⟩
  · have hwaits : exec c s = .next (secure (criticalHeld w idx sub bytes pair) u) :=
      hexec.trans (congrArg _ (critical_accepted (hturn h) he (ha hrole) hp hc hg))
    refine ⟨hwaits, fun hps => ⟨_, ?_, rfl, counterLogWrite_secures rfl rfl⟩⟩
    rw [hwaits, secure_unpaired rfl hps]
  · exact hexec.trans (congrArg _ (critical_refused (hturn h) he (ha hrole) hp hc hg))

theorem criticalWrite_of_bytes (hexec : exec c s = .next (writeBytes idx sub bytes w r))
    (hturn : WriteTurn s w idx sub → WriteTurn r w idx sub) (he : TakesCritical idx sub bytes.length e)
    (hown : pairLevel idx sub = false) : CriticalWrite c s r w idx sub bytes false :=
  criticalWrite_of_arrival hexec hturn he fun _ => reachesEntry_device hown

theorem criticalWrite_of_number {n : Nat} (hexec : exec c s = .next (writeNum idx sub v w s)) (he : TakesCritical idx sub n e)
    (hn : e.ty.width = n) (hown : pairLevel idx sub = false) : CriticalWrite c s s w idx sub (leBytes n v) false := by
  refine criticalWrite_of_bytes (e := e) (hexec.trans ?_) id (by rwa [leBytes_length]) hown
  unfold writeNum
  rw [he.found, ← hn]

end

/-! ### The critical entries (Tables 15-2, 18-4, 20-9, 22-7, 23-8) -/

/-- The row of a critical entry of one index. -/
abbrev criticalEntry (idx sub : Nat) (ty : Ty) (lo hi : Nat) : Entry := ⟨idx, idx, sub, sub, ty, .rwc, lo, hi, 1⟩

theorem lifecycle_takesCritical (i : Inst) : TakesCritical (instIdx i.val) 1 1 ⟨0x4000, 0x4FFF, 1, 1, .u8, .rwc, 1, 3, 1⟩ :=
  takesCritical_of_row (by decide) (Nat.le_add_right _ _) (Nat.add_le_add_left (Nat.le_of_lt_succ i.isLt) _) (by decide)
    (by decide) rfl (by decide) rfl (by decide)

theorem key_takesCritical (p : Fin 16) :
    TakesCritical (0x1140 + p.val) 1 40 ⟨0x1140, 0x114F, 1, 1, .octets 40, .rwc, 0, 0, 1⟩ :=
  takesCritical_of_row (by decide) (Nat.le_add_right _ _) (by dsimp only; omega) (by decide) (by decide) rfl (by decide) rfl
    (by decide)

theorem rights_takesCritical (p : Fin 16) :
    TakesCritical (0x1140 + p.val) 3 2 ⟨0x1140, 0x114F, 3, 3, .u16, .rwc, 0, 65535, 1⟩ :=
  takesCritical_of_row (by decide) (Nat.le_add_right _ _) (by dsimp only; omega) (by decide) (by decide) rfl (by decide) rfl
    (by decide)

theorem bootKeyDigest_takesCritical : TakesCritical 0x1230 1 48 (criticalEntry 0x1230 1 (.octets 48) 0 0) :=
  takesCritical_of_row (by decide) (Nat.le_refl _) (Nat.le_refl _) (by decide) (by decide) rfl (by decide) rfl (by decide)

theorem pairPolicy_takesCritical : TakesCritical 0x2C01 0 1 (criticalEntry 0x2C01 0 .u8 0 1) :=
  takesCritical_of_row (by decide) (Nat.le_refl _) (Nat.le_refl _) (by decide) (by decide) rfl (by decide) rfl (by decide)

theorem orphanNow_takesCritical : TakesCritical 0x2C03 3 1 (criticalEntry 0x2C03 3 .u8 1 1) :=
  takesCritical_of_row (by decide) (Nat.le_refl _) (Nat.le_refl _) (by decide) (by decide) rfl (by decide) rfl (by decide)

theorem target_takesCritical : TakesCritical 0x1300 1 1 (criticalEntry 0x1300 1 .u8 0 255) :=
  takesCritical_of_row (by decide) (Nat.le_refl _) (Nat.le_refl _) (by decide) (by decide) rfl (by decide) rfl (by decide)

theorem deviceReset_takesCritical : TakesCritical 0x1201 1 1 (criticalEntry 0x1201 1 .u8 1 1) :=
  takesCritical_of_row (by decide) (Nat.le_refl _) (Nat.le_refl _) (by decide) (by decide) rfl (by decide) rfl (by decide)

section
variable {s : State} {w : VdpWrite} {c : Instr} {bytes : List Byte} {v : Nat}

/-- A command that writes LIFECYCLE. -/
theorem lifecycle_critical (i : Inst) (hexec : exec c s = .next (writeAttr i 1 v w s)) :
    CriticalWrite c s s w (instIdx i.val) 1 (leBytes 1 v) false :=
  criticalWrite_of_number hexec (lifecycle_takesCritical i) rfl
    (by rw [pairLevel, decide_eq_false (by unfold instIdx; omega)]; rfl)

theorem keyWrite_critical (p : Fin 16) (hlen : bytes.length = 40) :
    CriticalWrite (.keyWrite p bytes w) s s w (0x1140 + p.val) 1 bytes false :=
  criticalWrite_of_bytes rfl id (by rw [hlen]; exact key_takesCritical p) (by simp [pairLevel])

theorem rightsWrite_critical (p : Fin 16) :
    CriticalWrite (.rightsWrite p v w) s s w (0x1140 + p.val) 3 (leBytes 2 v) false :=
  criticalWrite_of_number rfl (rights_takesCritical p) rfl (by simp [pairLevel])

/-- The write finds VPP_FUSE as it is then, which no check of a turn reads. -/
theorem bootKeyDigest_critical (vpp : Bool) (hlen : bytes.length = 48) :
    CriticalWrite (.bootKeyDigest bytes vpp w) s (setVpp vpp s) w 0x1230 1 bytes false :=
  criticalWrite_of_bytes rfl id (by rw [hlen]; exact bootKeyDigest_takesCritical) rfl

theorem pairPolicy_critical : CriticalWrite (.pairPolicy v w) s s w 0x2C01 0 (leBytes 1 v) (decide (pairId s ≠ 0)) :=
  criticalWrite_of_arrival rfl id (by rw [leBytes_length]; exact pairPolicy_takesCritical) reachesEntry_pairPolicy

theorem orphanNow_critical : CriticalWrite (.orphanNow w) s s w 0x2C03 3 (leBytes 1 1) false :=
  criticalWrite_of_number rfl orphanNow_takesCritical rfl rfl

/-- A command that writes TARGET. -/
theorem target_critical (hexec : exec c s = .next (writeNum 0x1300 1 v w s)) :
    CriticalWrite c s s w 0x1300 1 (leBytes 1 v) false :=
  criticalWrite_of_number hexec target_takesCritical rfl rfl

theorem deviceReset_critical : CriticalWrite (.deviceReset v w) s s w 0x1201 1 (leBytes 1 v) false :=
  criticalWrite_of_number rfl deviceReset_takesCritical rfl rfl

end

/-! ### A secured write is judged by its entry's rules (R380, R383, R426) -/

/-- The state with the counter's floor raised by a secured write. -/
def floorRaised (h : Held) (s : State) : State :=
  odSet (0x1140 + h.principal) 4 (max (od s (0x1140 + h.principal) 4) h.counter) s

/-- The waiting write answered in a state, and done with. -/
def answerHeld (h : Held) (a : Except VdpErr (List Byte)) (s : State) : State := dropHeld (answerRequest h.src h.msg a s)

/-- What a secured write leaves, by what its entry's rules make of it in r. -/
def settleHeld (h : Held) (r : State) : Except VdpErr State → State
  | .error x => answerHeld h (.error x) r
  | .ok t =>
    if 0x1140 ≤ h.idx && h.idx ≤ 0x114F then startUpdate h t
    else if h.idx = 0x1201 then deviceReset 4 (answerHeld h (.ok []) t) else answerHeld h (.ok []) t

section
variable {s r t : State} {h : Held} {e : Entry}

/-- Storing the counter leaves the floor, so the floor that rises is the one before. -/
theorem floorRaised_counter : floorRaised h (odSet (0x1140 + h.principal) 5 h.counter s) =
    odSet (0x1140 + h.principal) 4 (max (od s (0x1140 + h.principal) 4) h.counter)
      (odSet (0x1140 + h.principal) 5 h.counter s) := by
  unfold floorRaised
  rw [od_odSet_otherSub (by decide) (by decide) (by decide)]

theorem finishCritical_hold (hm : s.mode = .hold) : finishCritical h s = answerHeld h (.error .busy) (floorRaised h s) :=
  if_pos hm

theorem finishCritical_judged (hm : s.mode ≠ .hold) (hi : h.idx ≠ 0x1210) (he : entryAt h.idx h.sub = some e) :
    finishCritical h s = settleHeld h (floorRaised h s) (applyWrite e h.idx h.sub h.value (floorRaised h s)) := by
  refine (if_neg hm).trans ((if_neg hi).trans ?_)
  rw [he]
  dsimp only
  rw [← floorRaised]
  cases applyWrite e h.idx h.sub h.value (floorRaised h s) <;> rfl

theorem settleHeld_update (h1 : 0x1140 ≤ h.idx) (h2 : h.idx ≤ 0x114F) : settleHeld h r (.ok t) = startUpdate h t :=
  if_pos (by simp [h1, h2])

theorem settleHeld_reset (hi : h.idx = 0x1201) : settleHeld h r (.ok t) = deviceReset 4 (answerHeld h (.ok []) t) :=
  (if_neg (by simp [hi])).trans (if_pos hi)

theorem settleHeld_taken (hk : h.idx < 0x1140 ∨ 0x114F < h.idx) (hi : h.idx ≠ 0x1201) :
    settleHeld h r (.ok t) = answerHeld h (.ok []) t :=
  (if_neg (by simp; omega)).trans (if_neg hi)

section
variable (hh : s.vd.held = some h) (hst : h.stage = .counterLog)
  (hr : r = odSet (0x1140 + h.principal) 4 (max (od s (0x1140 + h.principal) 4) h.counter)
    (odSet (0x1140 + h.principal) 5 h.counter s))
include hh hst hr

theorem counterLogWrite_hold (hm : s.mode = .hold) :
    exec .counterLogWrite s = .next (nextRequests (answerHeld h (.error .busy) r)) := by
  rw [counterLogWrite_secures hh hst, finishCritical_hold (s := odSet _ _ _ s) hm, floorRaised_counter, ← hr]

theorem counterLogWrite_judged (hm : s.mode ≠ .hold) (hi : h.idx ≠ 0x1210) (he : entryAt h.idx h.sub = some e) :
    exec .counterLogWrite s = .next (nextRequests (settleHeld h r (applyWrite e h.idx h.sub h.value r))) := by
  rw [counterLogWrite_secures hh hst, finishCritical_judged (s := odSet _ _ _ s) hm hi he, floorRaised_counter, ← hr]

end

/-! ### The device-made update ends (R383, R476) -/

theorem imageUpdateDone_none (hh : s.vd.held = none) : exec .imageUpdateDone s = .next s := by
  refine congrArg Host.Outcome.next ?_
  rw [hh]

section
variable (hh : s.vd.held = some h) (hst : h.stage = .imageUpdate)
include hh hst

theorem imageUpdateDone_hold (hm : s.mode = .hold) :
    exec .imageUpdateDone s = .next (nextRequests (answerHeld h (.error .busy) (releaseResource 17 s))) := by
  refine congrArg Host.Outcome.next ?_
  rw [hh]
  dsimp only
  rw [hst]
  exact if_pos hm

/-- The effect of KEY or RIGHTS comes with the image that carries it. -/
theorem imageUpdateDone_done (hm : s.mode ≠ .hold) : exec .imageUpdateDone s =
    .next (nextRequests (answerHeld h (.ok []) (releaseResource 17 (writeUpdate
      (if h.sub = 3 then odSet h.idx 3 (leNat h.value) s else setKey (h.idx - 0x1140) h.value s))))) := by
  refine congrArg Host.Outcome.next ?_
  rw [hh]
  dsimp only
  rw [hst]
  exact if_neg hm

end

end

/-! ### CREATE and DESTROY (R316, R317, R319) -/

section
variable {s : State} {n : Nat}

/-- Clearing entries of one index leaves every other entry. -/
theorem od_clear_ne {i j k : Nat} (l : List Nat) (hj : j < 256) (hl : ∀ x ∈ l, x < 256 ∧ x ≠ j) (s : State) :
    od (l.foldl (fun s x => odSet k x 0 s) s) i j = od s i j := by
  induction l generalizing s with
  | nil => rfl
  | cons x l ih =>
    obtain ⟨hx, hne⟩ := hl x List.mem_cons_self
    rw [List.foldl_cons, ih fun y hy => hl y (List.mem_cons_of_mem x hy), od_odSet_otherSub hx hj hne]

/-- CREATE takes an ABSENT instance with a reset-report ring and an error ring: a new generation, no queue, and the whole
spill pool free. -/
theorem createInst_creates (h0 : n ≠ 0) (hst : instSt s n = 0) (hrr : od s (instIdx n) 0x1B ≠ 0)
    (her : od s (instIdx n) 0x2E ≠ 0) : ∃ t, createInst n s = .ok t ∧ instSt t n = 1 ∧ instGen t n = nextGen (instGen s n) ∧
      (inst t n).sqs = [] ∧ (inst t n).cqs = [] ∧ od t (instIdx n) 0x0B = od s (instIdx n) 0x0A := by
  have hcleared : ∀ j, j < 256 → (∀ x ∈ [0x1F, 0x29, 0x2A, 0x2B, 0x2C, 0x3D], x < 256 ∧ x ≠ j) →
      od ([0x1F, 0x29, 0x2A, 0x2B, 0x2C, 0x3D].foldl (fun s x => odSet (instIdx n) x 0 s) s) (instIdx n) j =
        od s (instIdx n) j := fun j hj hl => od_clear_ne _ hj hl s
  refine ⟨_, (if_neg h0).trans ((if_neg (not_not_intro hst)).trans (if_neg (by simp [hrr, her]))), instSt_setInstSt_self ..,
    ?_, ?_, ?_, ?_⟩
  · refine (od_setInstSt_ne (by decide) (.inr (by decide)) (.inr (by decide))).trans ?_
    rw [od_instMod, od_odSet_otherSub (by decide) (by decide) (by decide), od_odSet_self]
    exact congrArg nextGen (hcleared 4 (by decide) (by decide))
  · rw [inst_setInstSt, inst_instMod_self]
  · rw [inst_setInstSt, inst_instMod_self]
  · refine (od_setInstSt_ne (by decide) (.inr (by decide)) (.inr (by decide))).trans ?_
    rw [od_instMod, od_odSet_self, od_odSet_otherSub (by decide) (by decide) (by decide)]
    exact hcleared 0x0A (by decide) (by decide)

theorem destroyInst_begins (h0 : n ≠ 0) (h : instSt s n = 1 ∨ instSt s n = 3 ∨ instSt s n = 4) :
    destroyInst n s = .ok (beginReset n 4 5 s) :=
  (if_neg h0).trans (if_neg (by rcases h with h | h | h <;> simp [h]))

end

/-- Settles O46: each row's WRITE reaches its critical entry, the counter's write and the image update end the wait, and CREATE and
DESTROY change STATE. -/
theorem criticalWrites : Obligations.CriticalWrites := by
  unfold Obligations.CriticalWrites
  intro s i p w v bytes vpp
  refine ⟨lifecycle_critical i rfl, lifecycle_critical i rfl, lifecycle_critical i rfl, keyWrite_critical p,
    rightsWrite_critical p, bootKeyDigest_critical vpp, pairPolicy_critical, orphanNow_critical, target_critical rfl,
    target_critical rfl, target_critical rfl, target_critical rfl, deviceReset_critical,
    fun h hst => ⟨secure_unpaired hst, secure_paired⟩,
    fun h hh hst r hr => ⟨counterLogWrite_hold hh hst hr, fun hm hi e he => ?_⟩,
    fun hh => ⟨counterLogWrite_none hh, imageUpdateDone_none hh⟩,
    fun h hh hst => ⟨imageUpdateDone_hold hh hst, fun hm hsub => ?_, fun hm hsub => ?_⟩,
    fun h0 hst hrr her => createInst_creates h0 hst hrr her,
    fun h0 hst => ⟨_, destroyInst_begins h0 hst, instSt_beginReset ..⟩⟩
  · have hjudged := counterLogWrite_judged hh hst hr hm hi he
    refine ⟨fun x hx => ?_, fun t ht => ⟨fun h1 h2 => ?_, fun hk hne => ?_, fun hres => ?_⟩⟩
    · rw [hjudged, hx]
      rfl
    · rw [hjudged, ht, settleHeld_update h1 h2]
    · rw [hjudged, ht, settleHeld_taken hk hne]
      rfl
    · rw [hjudged, ht, settleHeld_reset hres]
      rfl
  · rw [imageUpdateDone_done hh hst hm, if_pos hsub]
    rfl
  · rw [imageUpdateDone_done hh hst hm, if_neg hsub]
    rfl

end Sys2Proof.Machine
end

section
/-! PROOFS. The step, the state after reset, and what every command keeps and answers (R442, R463). -/

namespace Sys2Proof.Machine

/-! ### Reset values of the dictionary (R442) -/

/-- Over a range of indices that no row of reset values meets in part, an entry's reset value is that of the first index. -/
theorem odDefault_range {a b idx sub : Nat}
    (hrows : ∀ r ∈ odDefaults, r.2.2.1 ≤ sub → sub ≤ r.2.2.2.1 → r.1 ≤ b → a ≤ r.2.1 → r.1 ≤ a ∧ b ≤ r.2.1)
    (hlo : a ≤ idx) (hhi : idx ≤ b) (hsub : sub < 256) : odDefault (odKey idx sub) = odDefault (odKey a sub) := by
  have hidx (i : Nat) : odKey i sub / 256 = i ∧ odKey i sub % 256 = sub := by
    unfold odKey
    omega
  unfold odDefault
  dsimp only
  rw [(hidx idx).1, (hidx idx).2, (hidx a).1, (hidx a).2]
  congr 1
  refine List.find?_congr fun r hr => ?_
  have hcover := hrows r hr
  rw [Bool.eq_iff_iff]
  simp only [Bool.and_eq_true, decide_eq_true_eq]
  constructor
  · rintro ⟨⟨⟨h1, h2⟩, h3⟩, h4⟩
    have hc := hcover h3 h4 (h1.trans hhi) (hlo.trans h2)
    exact ⟨⟨⟨hc.1, hlo.trans (hhi.trans hc.2)⟩, h3⟩, h4⟩
  · rintro ⟨⟨⟨h1, h2⟩, h3⟩, h4⟩
    have hc := hcover h3 h4 (h1.trans (hlo.trans hhi)) h2
    exact ⟨⟨⟨h1.trans hlo, hhi.trans hc.2⟩, h3⟩, h4⟩

/-- The reset value of an entry that every instance but instance 0 has alike. -/
theorem od_reset_inst {n sub : Nat} (hrows : ∀ r ∈ odDefaults, r.2.2.1 ≤ sub → sub ≤ r.2.2.2.1 → r.1 ≤ 0x4FFF → 0x4001 ≤ r.2.1 →
    r.1 ≤ 0x4001 ∧ 0x4FFF ≤ r.2.1) (h0 : 0 < n) (hn : n < 4096) (hsub : sub < 256) :
    od State.reset (0x4000 + n) sub = odDefault (odKey 0x4001 sub) :=
  odDefault_range hrows (by omega) (by omega) hsub

/-- An engine's OWNER is 0xFFFF after reset. -/
theorem od_reset_owner {e : Nat} (he : e < 12) : od State.reset (0x3800 + e) 2 = 0xFFFF :=
  odDefault_range (a := 0x3800) (b := 0x380B) (by decide) (by omega) (by omega) (by decide)

theorem core_reset (c : CoreId) : core State.reset c = {} := rfl

/-- Settles O1: the queue's front is c. -/
theorem stepRunsFrontCommand : Obligations.StepRunsFrontCommand := by
  unfold Obligations.StepRunsFrontCommand
  intro s c rest h
  unfold step
  rw [h]

/-- Settles O4: no memory and no entry is listed. -/
theorem resetIsSound : Obligations.ResetIsSound := by
  unfold Obligations.ResetIsSound
  exact ⟨rfl, rfl⟩

/-- Settles O7, by the reset values of the dictionary and of a core's record. -/
theorem stateAfterReset : Obligations.StateAfterReset := by
  unfold Obligations.StateAfterReset
  refine ⟨rfl, by decide, rfl, rfl, rfl, rfl, rfl, fun c => ?_, by decide, by decide, by decide, by decide, by decide, by decide,
    fun n h0 hn => ⟨od_reset_inst (by decide) h0 hn (by decide), od_reset_inst (by decide) h0 hn (by decide),
      od_reset_inst (by decide) h0 hn (by decide), od_reset_inst (by decide) h0 hn (by decide),
      od_reset_inst (by decide) h0 hn (by decide)⟩,
    fun e he => od_reset_owner he, by decide, by decide⟩
  have hlevel : coreLevel State.reset c = .m := by
    unfold coreLevel
    rw [core_reset]
    decide
  exact ⟨hlevel, rfl, rfl, rfl, rfl, rfl, rfl, rfl, rfl, rfl, rfl, rfl, rfl⟩

/-- Settles O5: both parts are kept by every command that answers a next state. -/
theorem commandsKeepTheQueue : Obligations.CommandsKeepTheQueue := by
  unfold Obligations.CommandsKeepTheQueue
  intro i s t h
  have hkeeps := keeps_of_exec_next h
  exact ⟨hkeeps.pending, hkeeps.freeCtr⟩

/-! ### Every command answers a next state -/

/-- An outcome is a next state. -/
def Answers (o : Host.Outcome State Fault Refusal) : Prop := ∃ t, o = .next t

theorem answers_next (t : State) : Answers (.next t) := ⟨t, rfl⟩

theorem answers_ite {c : Prop} [Decidable c] {a b : Host.Outcome State Fault Refusal} (ha : Answers a) (hb : Answers b) :
    Answers (if c then a else b) := by
  split
  · exact ha
  · exact hb

theorem kilnSelfTest_answers (engine : Fin 4) (passed : Bool) (s : State) : Answers (exec (.kilnSelfTest engine passed) s) :=
  answers_ite (answers_next _) (answers_next _)

theorem tunRequest_answers (engine : Fin 4) (write : Bool) (s : State) : Answers (exec (.tunRequest engine write) s) := by
  show Answers (execTunRequest engine write s)
  unfold execTunRequest
  split
  · exact answers_next _
  · exact answers_next _

/-- Settles O6: each command's meaning is a next state as it stands, but for two that choose between next states. -/
theorem everyCommandAnswers : Obligations.EveryCommandAnswers := by
  unfold Obligations.EveryCommandAnswers
  intro i s
  cases i with
  | kilnSelfTest engine passed => exact kilnSelfTest_answers engine passed s
  | tunRequest engine write => exact tunRequest_answers engine write s
  | _ => exact ⟨_, rfl⟩

end Sys2Proof.Machine
end

section
/-! PROOFS. What a WRITE of bytes does at an entry that is not critical, and the entries of resources, timers, the owner key, the log
and a lost twin's completion queues (R383, R418, R431, R440, R441, R484). -/

namespace Sys2Proof.Machine

/-! ### Bytes judged by their entry's own rules (R431) -/

/-- Entry e stands at idx and sub, and takes n bytes by a WRITE that is not critical. -/
structure TakesBytes (idx sub n : Nat) (e : Entry) : Prop where
  found : entryAt idx sub = some e
  idx_lt : idx < 0x6000
  sub_lt : sub < 256
  access : e.acc = .rw ∨ e.acc = .wo
  object : e.ty ≠ .domain
  ownLevel : pairLevel idx sub = false
  fits : lengthFits e n = true
  short : n ≤ 1188

/-- The one row that its indices and subindex meet is such an entry, where its type and access say so. -/
theorem takesBytes_of_row {idx sub n : Nat} {e : Entry}
    (hrow : (dictRows.filter fun x => decide (x.idx ≤ e.idxLast) && decide (e.idx ≤ x.idxLast) && decide (x.sub ≤ sub) &&
      decide (sub ≤ x.subLast)) = [e])
    (hlo : e.idx ≤ idx) (hhi : idx ≤ e.idxLast) (hlast : e.idxLast < 0x6000) (hsub : sub < 256)
    (hacc : e.acc = .rw ∨ e.acc = .wo) (hobj : e.ty ≠ .domain) (hown : pairLevel idx sub = false)
    (hfit : lengthFits e n = true) (hn : n ≤ 1188) : TakesBytes idx sub n e :=
  ⟨entry_in e.idx e.idxLast idx sub e hrow hlo hhi (Nat.le_refl _) (Nat.le_refl _), Nat.lt_of_le_of_lt hhi hlast,
    hsub, hacc, hobj, hown, hfit, hn⟩

section
variable {s : State} {w : VdpWrite} {idx sub : Nat} {e : Entry} {bytes : List Byte}

/-- The WRITE of bytes whose turn comes at once is answered as its entry's rules judge it. -/
theorem writeBytes_turn (h : WriteTurn s w idx sub) (he : TakesBytes idx sub bytes.length e) :
    vdpArrive w.src (writeMsg idx sub bytes false w) s = answerWrite w idx sub bytes s (applyWrite e idx sub bytes s) := by
  obtain ⟨hl, hb, hd, hh, hq, hk, hn⟩ := h
  have hacc : writable e = true ∧ e.acc ≠ .rwc := by
    unfold writable
    rcases he.access with ha | ha <;> rw [ha] <;> decide
  rw [write_turn s w idx sub bytes e hl hb hd hh hq hk hn he.idx_lt he.sub_lt he.found hacc.1 hacc.2 he.object he.ownLevel
    he.fits he.short]
  rfl

end

/-! ### CLAIM (R440) -/

section
variable {s : State} {r : Nat} {value : List Byte} {w : VdpWrite}

theorem claim_takesBytes (hr : r < 18) (hlen : value.length = 4) :
    TakesBytes (0x1280 + r) 3 value.length ⟨0x1280, 0x1291, 3, 3, .octets 4, .wo, 0, 0, 1⟩ :=
  takesBytes_of_row (by decide) (Nat.le_add_right _ _) (by dsimp only; omega) (by decide) (by decide) (.inr rfl) (by decide)
    (by simp [pairLevel]) (by rw [hlen]; rfl) (by omega)

theorem applyWrite_claim (hr : r < 18) :
    applyWrite ⟨0x1280, 0x1291, 3, 3, .octets 4, .wo, 0, 0, 1⟩ (0x1280 + r) 3 value s = writeClaim r value s := by
  unfold applyWrite
  rw [if_neg (by simp [Ty.mappable]), if_neg (by simp), if_neg (by simp; omega), if_neg (by simp; omega),
    if_neg (by simp; omega), if_pos (by simp; omega), if_pos rfl, Nat.add_sub_cancel_left]

theorem claim_judged (h : WriteTurn s w (0x1280 + r) 3) (hr : r < 18) (hlen : value.length = 4) :
    writeBytes (0x1280 + r) 3 value w s = answerWrite w (0x1280 + r) 3 value s (writeClaim r value s) := by
  unfold writeBytes
  rw [writeBytes_turn h (claim_takesBytes hr hlen), applyWrite_claim hr]

theorem writeClaim_release (hf : fld value 0 1 = 0) (hr : r ≠ 14 ∧ r ≠ 15) : writeClaim r value s = .ok (releaseResource r s) :=
  (if_pos hf).trans (if_neg (by simp [hr]))

theorem writeClaim_fixed (hf : fld value 0 1 = 0) (hr : r = 14 ∨ r = 15) : writeClaim r value s = .error .range :=
  (if_pos hf).trans (if_pos (by simpa using hr))

section
variable (hf : fld value 0 1 ≠ 0)
include hf

theorem writeClaim_unfit (hfit : ¬ ClaimFits s r value) : writeClaim r value s = .error .range := by
  refine (if_neg hf).trans (if_pos ?_)
  simpa [ClaimFits, or_iff_not_imp_left] using hfit

section
variable (hfit : ClaimFits s r value)
include hfit

/-- A claim that the resource permits is judged by who holds it. -/
theorem writeClaim_fits : writeClaim r value s =
    if od s (0x1280 + r) 1 = fld value 0 1 ∧ od s (0x1280 + r) 2 = fld value 2 2 then .ok s
    else if od s (0x1280 + r) 1 ≠ 0 then .error .claimed else .ok (takeResource r (fld value 0 1) (fld value 2 2) s) := by
  obtain ⟨h1, h2⟩ := hfit
  refine (if_neg hf).trans ((if_neg (by simp [h1, h2])).trans ?_)
  simp only [Bool.and_eq_true, decide_eq_true_eq]

theorem writeClaim_free (ho : od s (0x1280 + r) 1 = 0) :
    writeClaim r value s = .ok (takeResource r (fld value 0 1) (fld value 2 2) s) := by
  rw [writeClaim_fits hf hfit, if_neg (fun h => hf (h.1.symm.trans ho)), if_neg (not_not_intro ho)]

theorem writeClaim_held (ho : od s (0x1280 + r) 1 = fld value 0 1) (hh : od s (0x1280 + r) 2 = fld value 2 2) :
    writeClaim r value s = .ok s := by
  rw [writeClaim_fits hf hfit, if_pos ⟨ho, hh⟩]

theorem writeClaim_taken (ho : od s (0x1280 + r) 1 ≠ 0)
    (hn : ¬ (od s (0x1280 + r) 1 = fld value 0 1 ∧ od s (0x1280 + r) 2 = fld value 2 2)) :
    writeClaim r value s = .error .claimed := by
  rw [writeClaim_fits hf hfit, if_neg hn, if_pos ho]

end
end
end

/-! ### General timers (R441) -/

section
variable {s : State} {k : Fin 6} {w : VdpWrite} {v : Nat}

theorem timerStart_takesNumber (k : Fin 6) : TakesNumber (0x1288 + k.val) 6 ⟨0x1288, 0x128D, 6, 6, .u8, .wo, 0, 1, 1⟩ :=
  takesNumber_of_row (by decide) (Nat.le_add_right _ _) (by dsimp only; omega) (by decide) (by decide) (.inr rfl) rfl
    (by simp [pairLevel])

theorem applyWrite_timer {e : Entry} {bytes : List Byte} (hr : inRange e (0x1288 + k.val) 6 (leNat bytes) = true)
    (hb : e.ty ≠ .bool) : applyWrite e (0x1288 + k.val) 6 bytes s = writeTimer k.val 6 (leNat bytes) s := by
  unfold applyWrite
  rw [if_neg (by simp [hr]), if_neg (by simp [hb]), if_neg (by simp; omega), if_neg (by simp; omega),
    if_neg (by simp; omega), if_pos (by simp; omega), if_neg (by decide), Nat.add_sub_cancel_left]

theorem timer_judged (h : WriteTurn s w (0x1288 + k.val) 6) (hv : v ≤ 1) : writeNum (0x1288 + k.val) 6 v w s =
    answerWrite w (0x1288 + k.val) 6 (leBytes 1 v) s (writeTimer k.val 6 v s) := by
  have hn : leNat (leBytes 1 v) = v := leNat_leBytes_of_lt (by omega)
  have hr : inRange ⟨0x1288, 0x128D, 6, 6, .u8, .wo, 0, 1, 1⟩ (0x1288 + k.val) 6 (leNat (leBytes 1 v)) = true := by
    rw [inRange_row (by omega) (by omega) (by omega), hn]
    simp [hv, Nat.mod_one]
  rw [writeNum_turn h (timerStart_takesNumber k), Ty.width, applyWrite_timer hr (by decide), hn]

theorem writeTimer_unclaimed (hc : od s (0x1288 + k.val) 1 ≠ 3) : writeTimer k.val 6 v s = .error .busy := if_pos hc

section
variable (hc : od s (0x1288 + k.val) 1 = 3)
include hc

theorem writeTimer_starts : writeTimer k.val 6 1 s = .ok { s with vd := { s.vd with
    timers := tset s.vd.timers k.val (s.time, od s (0x1288 + k.val) 4, od s (0x1288 + k.val) 5) } } :=
  (if_neg (not_not_intro hc)).trans (if_neg (by decide))

theorem writeTimer_stops :
    writeTimer k.val 6 0 s = .ok { s with vd := { s.vd with timers := tdel s.vd.timers k.val } } :=
  (if_neg (not_not_intro hc)).trans (if_neg (by decide))

end

theorem timerExpiry_stopped (h : tfind s.vd.timers k.val = none) : exec (.timerExpiry k) s = .next s := by
  refine congrArg Host.Outcome.next ?_
  rw [h]

section
variable {start period mode : Nat} {t : State} (h : tfind s.vd.timers k.val = some (start, period, mode))
  (ht : t = setFlagsWhere (fun x => x.inst = od s (0x1288 + k.val) 2) flagTimer (odBump (0x1288 + k.val) 7 s))
include h ht

theorem timerExpiry_runs : exec (.timerExpiry k) s = .next { t with vd := { t.vd with
    timers := (if mode = 1 then
        tset t.vd.timers k.val (start + period * 25, od t (0x1288 + k.val) 4, od t (0x1288 + k.val) 5)
      else tdel t.vd.timers k.val) } } := by
  subst ht
  refine congrArg Host.Outcome.next ?_
  rw [h]
  rfl

theorem timerExpiry_periodic (hm : mode = 1) : exec (.timerExpiry k) s = .next { t with vd := { t.vd with
    timers := tset t.vd.timers k.val (start + period * 25, od t (0x1288 + k.val) 4, od t (0x1288 + k.val) 5) } } := by
  rw [timerExpiry_runs h ht, if_pos hm]

theorem timerExpiry_oneShot (hm : mode ≠ 1) :
    exec (.timerExpiry k) s = .next { t with vd := { t.vd with timers := tdel t.vd.timers k.val } } := by
  rw [timerExpiry_runs h ht, if_neg hm]

end
end

/-! ### OWNER_KEY (R383) -/

section
variable {s u : State} {w : VdpWrite} {value : List Byte} {vpp : Bool}

theorem ownerKey_takesBytes (hlen : value.length = 40) :
    TakesBytes 0x1130 1 value.length ⟨0x1130, 0x1130, 1, 1, .octets 40, .wo, 0, 0, 1⟩ :=
  takesBytes_of_row (by decide) (Nat.le_refl _) (Nat.le_refl _) (by decide) (by decide) (.inr rfl) (by decide) rfl
    (by rw [hlen]; rfl) (by omega)

/-- The write finds VPP_FUSE as it is then, which no check of a turn reads. -/
theorem ownerKey_judged (h : WriteTurn s w 0x1130 1) (hlen : value.length = 40) (hu : u = setVpp vpp s) :
    exec (.ownerKey value vpp w) s = .next (answerWrite w 0x1130 1 value u (writeOwnerKey value u)) := by
  subst hu
  exact congrArg _ (writeBytes_turn (s := setVpp vpp s) h (ownerKey_takesBytes hlen))

theorem writeOwnerKey_programmed (h : s.bt.fuses.ownerWritten = true ∨ nonZero s.bt.fuses.ownerKey = true) :
    writeOwnerKey value s = .error .range :=
  if_pos ((Bool.or_eq_true _ _).mpr h)

section
variable (hblank : s.bt.fuses.ownerWritten = false) (hzero : nonZero s.bt.fuses.ownerKey = false)
include hblank hzero

theorem ownerFused_blank : ownerFused s.bt.fuses = false := by
  unfold ownerFused
  rw [hblank, hzero]
  rfl

theorem writeOwnerKey_noVpp (hv : s.bt.vpp = false) : writeOwnerKey value s = .error .busy := by
  unfold writeOwnerKey
  rw [ownerFused_blank hblank hzero, hv]
  rfl

variable (hv : s.bt.vpp = true)
include hv

theorem writeOwnerKey_badWrap (hk : keyUnwrap Config.factoryKey value = none) : writeOwnerKey value s = .error .range := by
  unfold writeOwnerKey
  rw [ownerFused_blank hblank hzero, hv, hk]
  rfl

theorem writeOwnerKey_programs {key : List Byte} (hk : keyUnwrap Config.factoryKey value = some key) :
    writeOwnerKey value s = .ok (odSet 0x1140 2 2
      { s with bt := { s.bt with fuses := { s.bt.fuses with ownerKey := key, ownerWritten := true } } }) := by
  unfold writeOwnerKey
  rw [ownerFused_blank hblank hzero, hv, hk]
  rfl

end
end

/-! ### LOG_CLEAR (R484) -/

section
variable {s : State} {w : VdpWrite} {n : Nat}

/-- The row of LOG_CLEAR. -/
abbrev logClearEntry : Entry := ⟨0x5001, 0x5001, 2, 2, .u8, .wo, 1, 1, 1⟩

theorem logClear_takesNumber : TakesNumber 0x5001 2 logClearEntry :=
  takesNumber_of_row (by decide) (Nat.le_refl _) (Nat.le_refl _) (by decide) (by decide) (.inr rfl) rfl rfl

theorem logClear_inRange : inRange logClearEntry 0x5001 2 n = decide (n = 1) := by
  unfold inRange
  simp [Nat.mod_one, Nat.le_antisymm_iff, Bool.and_comm]

variable (h : WriteTurn s w 0x5001 2)
include h

theorem logClear_empties : writeNum 0x5001 2 1 w s = writeOk w 0x5001 2 (leBytes 1 1) { s with ras := [] } := by
  rw [writeNum_turn h logClear_takesNumber]
  rfl

theorem logClear_otherValue (hn : n < 256) (h1 : n ≠ 1) :
    writeNum 0x5001 2 n w s = writeNo w 0x5001 2 (leBytes 1 n) .range s := by
  rw [writeNum_turn h logClear_takesNumber, applyWrite_outOfRange rfl]
  · rfl
  · rw [Ty.width, leNat_leBytes_of_lt hn, logClear_inRange, decide_eq_false h1]

end

/-! ### ORPHAN_CQ_HEAD (R418) -/

/-- Whether a shadow knows the completion queue that a write of ORPHAN_CQ_HEAD names, and the head lies within it. -/
def namesCq (value : List Byte) (sh : Shadow) : Bool :=
  match tfind sh.queues (shadowKey (fld value 0 2) true (fld value 2 1)) with
  | some q => decide (fld value 2 1 < 16 && fld value 3 1 = 0 && fld value 4 4 < shadowEntries true q)
  | none => false

/-- A shadow after a write of ORPHAN_CQ_HEAD. -/
def withHead (value : List Byte) (sh : Shadow) : Shadow :=
  if namesCq value sh then shadowPos (fld value 0 2) true (fld value 2 1) (fld value 4 4) sh else sh

section
variable {s : State} {w : VdpWrite} {value : List Byte} {sh x : Shadow}

theorem namesCq_iff : namesCq value sh = true ↔ OrphanCq sh value := by
  unfold namesCq OrphanCq
  cases tfind sh.queues (shadowKey (fld value 0 2) true (fld value 2 1)) with
  | none => simp
  | some q => simp [and_assoc]

theorem withHead_eq (hin : OrphanCq sh value → x = shadowPos (fld value 0 2) true (fld value 2 1) (fld value 4 4) sh)
    (hout : ¬ OrphanCq sh value → x = sh) : withHead value sh = x := by
  unfold withHead
  by_cases h : OrphanCq sh value
  · rw [if_pos (namesCq_iff.mpr h), hin h]
  · rw [if_neg (mt namesCq_iff.mp h), hout h]

theorem orphanCqHead_takesBytes (hlen : value.length = 8) :
    TakesBytes 0x2C04 1 value.length ⟨0x2C04, 0x2C04, 1, 1, .octets 8, .wo, 0, 0, 1⟩ :=
  takesBytes_of_row (by decide) (Nat.le_refl _) (Nat.le_refl _) (by decide) (by decide) (.inr rfl) (by decide) rfl
    (by rw [hlen]; rfl) (by omega)

theorem orphanCqHead_judged (h : WriteTurn s w 0x2C04 1) (hlen : value.length = 8) :
    exec (.orphanCqHead value w) s = .next (answerWrite w 0x2C04 1 value s (writeOrphanCqHead value s)) :=
  congrArg _ (writeBytes_turn h (orphanCqHead_takesBytes hlen))

/-- The head moves in each shadow that knows the queue, and orphans that wait for its slots follow. -/
theorem writeOrphanCqHead_eq : writeOrphanCqHead value s =
    if namesCq value s.tw.shadow || namesCq value s.tw.old then
      .ok (postOrphans (twMod (fun w => { w with shadow := withHead value s.tw.shadow, old := withHead value s.tw.old }) s))
    else .error .range := rfl

theorem writeOrphanCqHead_moves (h : OrphanCq s.tw.shadow value ∨ OrphanCq s.tw.old value) : writeOrphanCqHead value s =
    .ok (postOrphans (twMod (fun w => { w with shadow := withHead value s.tw.shadow, old := withHead value s.tw.old }) s)) := by
  rw [writeOrphanCqHead_eq, if_pos]
  rwa [Bool.or_eq_true, namesCq_iff, namesCq_iff]

theorem writeOrphanCqHead_unknown (h : ¬ OrphanCq s.tw.shadow value) (h' : ¬ OrphanCq s.tw.old value) :
    writeOrphanCqHead value s = .error .range := by
  rw [writeOrphanCqHead_eq, if_neg]
  rw [Bool.or_eq_true, namesCq_iff, namesCq_iff]
  exact not_or_intro h h'

end

/-- Settles O45, entry by entry: each WRITE reaches its entry's rules, and these take or refuse the value. -/
theorem claimAndTimerWrites : Obligations.ClaimAndTimerWrites := by
  unfold Obligations.ClaimAndTimerWrites
  intro s r k w value n vpp
  refine ⟨fun h hlen => ⟨fun hf => ⟨fun hr => ?_, fun hr => ?_⟩, fun hf hfit => ?_,
      fun hf hfit => ⟨fun ho => ?_, fun ho hh => ?_, fun ho hn => ?_⟩⟩,
    fun h => ⟨fun hc => ⟨?_, ?_⟩, fun hc => ⟨?_, ?_⟩⟩, timerExpiry_stopped,
    fun start period mode t ht heq => ⟨timerExpiry_periodic ht heq, timerExpiry_oneShot ht heq⟩,
    fun h hlen u hu => ⟨fun hprog => ?_, fun hblank hzero => ⟨fun hv => ?_, fun hv hk => ?_, fun key hv hk => ?_⟩⟩,
    fun h hn => ⟨fun h1 => ?_, fun h1 => ?_⟩,
    fun h hlen => ⟨fun sh old hknown hin hout hin' hout' => ?_, fun hno hno' => ?_⟩⟩
  · exact congrArg _ ((claim_judged h r.isLt hlen).trans (by rw [writeClaim_release hf hr]; rfl))
  · exact congrArg _ ((claim_judged h r.isLt hlen).trans (by rw [writeClaim_fixed hf hr]; rfl))
  · exact congrArg _ ((claim_judged h r.isLt hlen).trans (by rw [writeClaim_unfit hf hfit]; rfl))
  · exact congrArg _ ((claim_judged h r.isLt hlen).trans (by rw [writeClaim_free hf hfit ho]; rfl))
  · exact congrArg _ ((claim_judged h r.isLt hlen).trans (by rw [writeClaim_held hf hfit ho hh]; rfl))
  · exact congrArg _ ((claim_judged h r.isLt hlen).trans (by rw [writeClaim_taken hf hfit ho hn]; rfl))
  · exact congrArg _ ((timer_judged h (Nat.le_refl 1)).trans (by rw [writeTimer_starts hc]; rfl))
  · exact congrArg _ ((timer_judged h (Nat.zero_le 1)).trans (by rw [writeTimer_stops hc]; rfl))
  · exact congrArg _ ((timer_judged h (Nat.le_refl 1)).trans (by rw [writeTimer_unclaimed hc]; rfl))
  · exact congrArg _ ((timer_judged h (Nat.zero_le 1)).trans (by rw [writeTimer_unclaimed hc]; rfl))
  · subst hu
    rw [ownerKey_judged h hlen rfl, writeOwnerKey_programmed (s := setVpp vpp s) hprog]
    rfl
  · subst hu
    rw [ownerKey_judged h hlen rfl, writeOwnerKey_noVpp (s := setVpp vpp s) hblank hzero hv]
    rfl
  · subst hu
    rw [ownerKey_judged h hlen rfl, writeOwnerKey_badWrap (s := setVpp vpp s) hblank hzero hv hk]
    rfl
  · subst hu
    rw [ownerKey_judged h hlen rfl, writeOwnerKey_programs (s := setVpp vpp s) hblank hzero hv hk]
    rfl
  · subst h1
    exact congrArg _ (logClear_empties h)
  · exact congrArg _ (logClear_otherValue h hn h1)
  · rw [orphanCqHead_judged h hlen, writeOrphanCqHead_moves hknown, withHead_eq hin hout, withHead_eq hin' hout']
    rfl
  · rw [orphanCqHead_judged h hlen, writeOrphanCqHead_unknown hno hno']
    rfl

end Sys2Proof.Machine
end

section
/-! PROOFS. How a request of a type is carried out and answered: READ and DISCOVER (R427 to R430, R435). -/

namespace Sys2Proof.Machine

/-! ### A request of a TYPE arrives (R427, Table 21-2) -/

theorem headerFits_long {m : List Byte} (h : headerFits m = true) : 16 ≤ m.length := by
  simp only [headerFits, Bool.and_eq_true, decide_eq_true_eq] at h
  omega

/-- A message that has the TYPE of its row is the message that arrives. -/
theorem typedArrival_eq {ty : Nat} {src : VdpSrc} {m : List Byte} {s : State} (hlen : 16 ≤ m.length) (ht : fld m 3 1 = ty) :
    typedArrival ty src m s = vdpArrive src m s := by
  have hsplice : splice m 3 (leBytes 1 ty) = m := by
    subst ht
    match m, hlen with
    | a :: b :: c :: d :: rest, _ => simp [splice, slice, fld, leNat, leBytes]
  unfold typedArrival
  rw [hsplice]

section
variable {s t : State} {src : VdpSrc} {m : List Byte} {a : Except VdpErr (List Byte)}

/-- A request whose turn comes at once, and that does not wait, is answered. -/
theorem request_answered (h : RequestTurn s src m) (hc : carryOut src m s = (some a, t)) :
    vdpArrive src m s = discoverPair src m (answerRequest src m a t) := by
  obtain ⟨hl, hf, hr, hh, hq, hk, hn⟩ := h
  rw [request_turn s src m hl hf hr hh hq hk hn, hc]

theorem discoverPair_otherType (ht : fld m 3 1 ≠ 6) : discoverPair src m s = s := if_neg (by simp [ht])

theorem typed_answered {ty : Nat} (h : RequestTurn s src m) (ht : fld m 3 1 = ty) (h6 : ty ≠ 6)
    (hc : carryOut src m s = (some a, t)) : typedArrival ty src m s = answerRequest src m a t := by
  rw [typedArrival_eq (headerFits_long h.2.1) ht, request_answered h hc, discoverPair_otherType (ht.trans_ne h6)]

section
variable (hm : malformed m = false)
include hm

theorem carryOut_read (ht : fld m 3 1 = 1) : carryOut src m s = (some (readRequest m s).1, (readRequest m s).2) := by
  unfold carryOut
  rw [hm, ht]
  rfl

theorem carryOut_discover (ht : fld m 3 1 = 6) (hp : pairRefusal s m = none) :
    carryOut src m s = (some (.ok (discoverBody s)), s) := by
  unfold carryOut
  rw [hm, ht]
  simp [hp]

end

/-- The answer to a request that is no WRITE leaves from VDP_PORT, from the node the request was addressed to. -/
theorem answerRequest_out (ht : fld m 3 1 ≠ 2) :
    (answerRequest src m a s).out = .vdp src (od s 0x1100 5) (pairFlag m) (responseTo m a) :: s.out := by
  have hport (u : State) : answerPort m (outcomeCode a = 0) u = od u 0x1100 5 := if_neg (by simp [ht])
  unfold answerRequest sendResponse
  dsimp only
  rw [hport]
  split
  · rfl
  · exact congrArg (fun p => OutMsg.vdp src p (pairFlag m) (responseTo m a) :: s.out)
      (od_odSet_ne _ _ _ _ _ _ (by decide))

end

/-! ### Header fields of a request that is built (Table 21-1) -/

section
variable (ty txn : Nat) (pair : Bool) (body : List Byte)

theorem msg_pairFlag : pairFlag (vdpMsg ty txn 0 pair.toNat body) = pair := by
  unfold pairFlag
  rw [msg_flags]
  cases pair <;> rfl

theorem msg_headerClean : headerClean (vdpMsg ty txn 0 pair.toNat body) = true := by
  unfold headerClean
  rw [msg_flags, msg_zero]
  cases pair <;> rfl

section
variable {ty txn : Nat} (htxn : txn < 2 ^ 32)
include htxn

/-- The response to a request carries its TXN and FLAGS. -/
theorem responseTo_ok (hty : ty < 0x80) (b : List Byte) :
    responseTo (vdpMsg ty txn 0 pair.toNat body) (.ok b) = vdpMsg (ty + 0x80) txn 0 pair.toNat b := by
  unfold responseTo
  rw [msg_type, msg_txn, msg_flags, Nat.mod_eq_of_lt (by omega : ty < 256), Nat.mod_eq_of_lt htxn,
    Nat.mod_eq_of_lt (pair.toNat_lt.trans (by decide))]
  rfl

/-- A refused READ is answered with four zero bytes. -/
theorem responseTo_readError (x : VdpErr) :
    responseTo (vdpMsg 1 txn 0 pair.toNat body) (.error x) = vdpMsg 0x81 txn x.code pair.toNat (leBytes 4 0) := by
  unfold responseTo
  rw [msg_type, msg_txn, msg_flags, Nat.mod_eq_of_lt htxn, Nat.mod_eq_of_lt (pair.toNat_lt.trans (by decide))]
  rfl

end
end

/-! ### READ (R430) -/

/-- The body of a READ. -/
abbrev readBody (idx sub : Nat) : List Byte := leBytes 2 idx ++ leBytes 1 sub ++ leBytes 1 0

section
variable {s : State} {src : VdpSrc} {txn idx sub : Nat} {pair : Bool} {m : List Byte}
  (hm : m = vdpMsg 1 txn 0 pair.toNat (readBody idx sub))
include hm

theorem read_type : fld m 3 1 = 1 := by rw [hm, msg_type]

theorem read_sound : malformed m = false := by
  unfold malformed
  rw [read_type hm, hm, msg_headerClean, msg_body]
  rfl

section
variable (hidx : idx < 2 ^ 16) (hsub : sub < 2 ^ 8)
include hidx hsub

theorem read_fields : fld (vdpBody m) 0 2 = idx ∧ fld (vdpBody m) 2 1 = sub := by
  subst hm
  exact ⟨(leNat_leBytes 2 idx).trans (Nat.mod_eq_of_lt hidx), (leNat_leBytes 1 sub).trans (Nat.mod_eq_of_lt hsub)⟩

/-- A READ of an entry that is no DOMAIN is answered with its type and value; pin levels take free values. -/
theorem readRequest_ok {e : Entry} (he : reach s m false idx sub = .ok e) (hd : e.ty ≠ .domain) : readRequest m s =
    (.ok (leBytes 1 e.ty.code ++ leBytes 3 0 ++ readEntry s e idx sub),
      if idx = 0x12A0 then { s with freeCtr := s.freeCtr + 8 } else s) := by
  obtain ⟨hi, hs⟩ := read_fields hm hidx hsub
  unfold readRequest
  dsimp only
  rw [hi, hs, he]
  exact if_neg hd

theorem readRequest_refused {x : VdpErr} (hx : reach s m false idx sub = .error x ∨
    ∃ e, reach s m false idx sub = .ok e ∧ e.ty = .domain ∧ x = .useSegments) : readRequest m s = (.error x, s) := by
  obtain ⟨hi, hs⟩ := read_fields hm hidx hsub
  unfold readRequest
  dsimp only
  rw [hi, hs]
  rcases hx with he | ⟨e, he, hd, rfl⟩
  · rw [he]
  · rw [he]
    exact if_pos hd

end

theorem read_answered {t : State} {a : Except VdpErr (List Byte)} (h : RequestTurn s src m) (hr : readRequest m s = (a, t)) :
    exec (.vdpRead src m) s = .next (answerRequest src m a t) :=
  congrArg _ (typed_answered h (read_type hm) (by decide) (by rw [carryOut_read (read_sound hm) (read_type hm), hr]))

end

/-- Settles O47: the request is carried out by `readRequest`, and its answer has the message's TXN and FLAGS. -/
theorem readAnswers : Obligations.ReadAnswers := by
  unfold Obligations.ReadAnswers
  intro s src txn idx sub pair m htxn hidx hsub hm h
  have hty : fld m 3 1 ≠ 2 := (read_type hm).trans_ne (by decide)
  refine ⟨fun e he hd => ⟨_, read_answered hm h (readRequest_ok hm hidx hsub he hd), ?_, fun hwo => if_pos hwo⟩,
    fun x hx => ⟨_, read_answered hm h (readRequest_refused hm hidx hsub hx), ?_⟩⟩
  · rw [answerRequest_out hty, hm, msg_pairFlag, responseTo_ok _ _ htxn (by decide)]
    split <;> rfl
  · rw [answerRequest_out hty, hm, msg_pairFlag, responseTo_readError _ _ htxn]

/-! ### DISCOVER (R435) -/

section
variable {s : State} {src : VdpSrc} {txn : Nat} {pair : Bool} {m : List Byte}
  (hm : m = vdpMsg 6 txn 0 pair.toNat [])
include hm

theorem discover_type : fld m 3 1 = 6 := by rw [hm, msg_type]

theorem discover_sound : malformed m = false := by
  unfold malformed
  rw [discover_type hm, hm, msg_headerClean]
  rfl

theorem discover_answered (h : RequestTurn s src m) (hp : pairRefusal s m = none) :
    exec (.discover src m) s = .next (discoverPair src m (answerRequest src m (.ok (discoverBody s)) s)) := by
  refine congrArg _ ((typedArrival_eq (headerFits_long h.2.1) (discover_type hm)).trans ?_)
  exact request_answered h (carryOut_discover (discover_sound hm) (discover_type hm) hp)

/-- The answer from the node that the DISCOVER is addressed to. -/
theorem discover_out (htxn : txn < 2 ^ 32) : (answerRequest src m (.ok (discoverBody s)) s).out =
    .vdp src (od s 0x1100 5) pair (vdpMsg 0x86 txn 0 pair.toNat (discoverBody s)) :: s.out := by
  rw [answerRequest_out ((discover_type hm).trans_ne (by decide)), hm, msg_pairFlag, responseTo_ok _ _ htxn (by decide)]

end

/-- Answering a request that is answered OK stores its counter alone in the dictionary. -/
theorem od_answerRequest_ok {src : VdpSrc} {m b : List Byte} {s : State} {i j : Nat}
    (h : odKey 0x1102 1 ≠ odKey i j) : od (answerRequest src m (.ok b) s) i j = od s i j :=
  od_odSet_ne _ _ _ _ _ _ h

theorem discoverBody_answerRequest {src : VdpSrc} {m b : List Byte} {s : State} :
    discoverBody (answerRequest src m (.ok b) s) = discoverBody s := by
  unfold discoverBody serial pairId pairState role
  simp only [od_answerRequest_ok (i := 0x1000) (j := 5) (by decide), od_answerRequest_ok (i := 0x2C00) (j := 5) (by decide),
    od_answerRequest_ok (i := 0x1100) (j := 1) (by decide), od_answerRequest_ok (i := 0x2C00) (j := 1) (by decide),
    od_answerRequest_ok (i := 0x2C00) (j := 3) (by decide)]
  rfl

section
variable {s : State} {src : VdpSrc} {m : List Byte}

theorem pairRefusal_leader (hid : pairId s ≠ 0) (hr : role s = 1) : pairRefusal s m = none := if_neg (by simp [hid, hr])

theorem pairRefusal_device (h : pairFlag m = false) : pairRefusal s m = none := if_neg (by simp [h])

/-- The leader answers a DISCOVER of the field network to the device from the pair node too. -/
theorem discoverPair_leader (ht : fld m 3 1 = 6) (hm : malformed m = false) (hsrc : srcMailbox src = false)
    (hp : pairFlag m = false) (hid : pairId s ≠ 0) (hr : role s = 1) : discoverPair src m s =
      emit (.vdp src (od s 0x1100 5) true (vdpMsg 0x86 (fld m 4 4) 0 1 (discoverBody s))) s :=
  if_pos (by simp [ht, hm, hsrc, hp, hid, hr])

theorem discoverPair_once (h : srcMailbox src = true ∨ pairFlag m = true ∨ pairId s = 0 ∨ role s ≠ 1) :
    discoverPair src m s = s :=
  if_neg (by rcases h with h | h | h | h <;> simp [h])

end

/-- Settles O48: the answer of the node addressed, and for a leader what `discoverPair` adds. -/
theorem discoverAnswers : Obligations.DiscoverAnswers := by
  unfold Obligations.DiscoverAnswers
  intro s src txn m body htxn hm h hbody
  have hm : m = vdpMsg 6 txn 0 false.toNat [] := hm
  have hbody : body = discoverBody s := hbody
  have hp : pairFlag m = false := by rw [hm, msg_pairFlag]
  have hanswer := discover_answered hm h (pairRefusal_device hp)
  refine ⟨fun hid hr hsrc => ⟨_, _, hanswer, ?_, hbody.symm⟩, fun hone => ⟨_, hanswer, ?_⟩,
    fun m' hm' h' hid hr => ⟨_, discover_answered (pair := true) hm' h' (pairRefusal_leader hid hr), ?_⟩⟩
  · rw [discoverPair_leader (discover_type hm) (discover_sound hm) hsrc hp
      ((od_answerRequest_ok (by decide)).trans_ne hid) ((od_answerRequest_ok (by decide)).trans hr), emit_out, discover_out hm htxn,
      discoverBody_answerRequest, od_answerRequest_ok (by decide), hbody]
    rw [hm, msg_txn, Nat.mod_eq_of_lt htxn]
    rfl
  · rw [discoverPair_once, discover_out hm htxn, hbody]
    · rfl
    · rcases hone with hid | hr | hsrc
      · exact .inr (.inr (.inl ((od_answerRequest_ok (by decide)).trans hid)))
      · exact .inr (.inr (.inr ((od_answerRequest_ok (by decide)).trans_ne hr)))
      · exact .inl hsrc
  · rw [discoverPair_once (.inr (.inl (by rw [hm']; exact msg_pairFlag 6 txn true []))), discover_out (pair := true) hm' htxn, hbody]
    rfl

end Sys2Proof.Machine
end

section
/-! REFUTED: the clause of SEG_DATA on an upload's segment below the object's length. It does not ask that the request has no bytes of
a segment in it, with which the clause before it, like R433 and Table 21-3, has the request refused. -/

namespace Sys2Proof.Machine

/-- An upload of the RAS log, 2,048 bytes long, that a mailbox has opened. -/
def logUpload : Session :=
  { src := .mailbox 0, idx := 0x5001, sub := 1, download := false, total := 2048, timeout := 1000, last := 0 }

/-- A device in RUN with 32 events in its log and `logUpload` open as session 1. -/
def uploading : State :=
  { State.reset with
    mode := .run
    ras := List.replicate 32 (List.replicate 64 0)
    vd := { State.reset.vd with sessions := [(1, logUpload)] } }

/-- SEG_DATA for session 1 at offset 0, with one byte of a segment behind the 8 bytes of its body. -/
def segmentOnUpload : List Byte := vdpMsg 4 0 0 0 (leBytes 2 1 ++ leBytes 2 0 ++ leBytes 4 0 ++ [0])

/-- Requests refused, entry `0x1102 : 2`, after a command that completes. -/
def refusedAfter (c : Instr) (s : State) : Option Nat :=
  match exec c s with
  | .next u => some (od u 0x1102 2)
  | _ => none

theorem uploading_turn : RequestTurn uploading (.mailbox 0) segmentOnUpload :=
  ⟨by decide, by decide, by decide, rfl, rfl, by decide, by decide⟩

theorem uploading_object : objectBytes (touched uploading 1 logUpload) 0x5001 1 = some uploading.ras.flatten := rfl

/-- The device refuses the request. -/
theorem uploading_refusedAfter : refusedAfter (.segData (.mailbox 0) segmentOnUpload) uploading = some 1 := by decide

/-- Refutes O49: SEG_DATA below the length of the upload `logUpload`, but with one byte of a segment in it, is refused with SEGMENT and
counted, where the statement has it answered OK. -/
theorem not_sessionsAndFrames : ¬ Obligations.SessionsAndFrames := by
  unfold Obligations.SessionsAndFrames
  intro h
  obtain ⟨-, -, hdata, -⟩ := h uploading (.mailbox 0) segmentOnUpload { src := .mailbox 0, txn := 0 } 0 0 1 0 []
  obtain ⟨-, hopen⟩ := hdata uploading_turn (by decide) (by decide) (by decide) (by decide) (by decide)
  obtain ⟨-, hread, -⟩ := hopen logUpload (by decide) rfl
  have hok := hread rfl _ uploading_object (by decide)
  have hafter : some (od (touched uploading 1 logUpload) 0x1102 2) = some 1 := by
    rw [← uploading_refusedAfter, refusedAfter, hok]
    exact congrArg some (od_answerRequest_ok (by decide)).symm
  exact absurd hafter (by decide)

end Sys2Proof.Machine
end

section
/-! PROOFS. The Kolfer link: flits, acknowledgements, replays, training (R401 to R404, Table 20-1). -/

namespace Sys2Proof.Machine

/-! ### What the link's state is read from -/

theorem kolState_odBump {sub : Nat} (hs : sub < 256) (h : sub ≠ 1) (idx : Nat) (s : State) :
    kolState (odBump idx sub s) = kolState s := od_odSet_otherSub hs (by decide) h ..

section
variable {s : State}

theorem flitsFlow_active (h : kolState s = 2) : flitsFlow s = true := decide_eq_true h

/-! ### Acknowledgements (R404) -/

theorem findPos_first {α : Type} {p : α → Bool} (pre : List α) {x : α} {post : List α} (hpre : ∀ y ∈ pre, p y = false)
    (hx : p x = true) : findPos p (pre ++ x :: post) = some pre.length := by
  induction pre with
  | nil => simp [findPos, hx]
  | cons y pre ih =>
    have hy := hpre y List.mem_cons_self
    have hrest := ih fun z hz => hpre z (List.mem_cons_of_mem y hz)
    simp [findPos, hy, hrest]

/-- An acknowledgement frees the flits up to the one it names; nothing waits to use their room. -/
theorem ackArrives_frees {ack : Nat} {pre post : List (Nat × List MItem)} {f : List MItem} (hw : s.tw.waiting = [])
    (hr : s.tw.replay = pre ++ (ack, f) :: post) (hpre : ∀ x ∈ pre, x.1 ≠ ack) :
    ackArrives ack s = twMod (fun w => { w with replay := post, replays := 0 }) s := by
  have hpos : findPos (fun e => decide (e.1 = ack)) s.tw.replay = some pre.length := by
    rw [hr]
    exact findPos_first pre (fun y hy => decide_eq_false (hpre y hy)) (decide_eq_true rfl)
  have hdrop : s.tw.replay.drop (pre.length + 1) = post := by
    rw [hr]
    simp
  unfold ackArrives
  rw [hpos]
  dsimp only [twMod_tw]
  rw [hw]
  show twMod (fun w => { w with replay := w.replay.drop (pre.length + 1), replays := 0 }) s = _
  unfold twMod
  dsimp only
  rw [hdrop]

/-! ### DATA flits and NAKs (R403, R404) -/

theorem sendNak_first (h : s.tw.nakSent = false) : sendNak s =
    emit (.flit (flitBytes 3 0 (ackSeq s) [])) (twMod (fun w => { w with nakSent := true }) s) :=
  if_neg (by simp [h])

section
variable {flit : Flit} (hk : kolState s = 2)
include hk

theorem dataFlit_inOrder (hc : flit.crcOk = true) (hseq : s.tw.rxSeq = flit.seq) (hlt : flit.seq < 4096) :
    exec (.dataFlit flit) s = .next (emit (.flit (flitBytes 2 0 flit.seq [])) (twMod (fun w =>
      { w with rxSeq := (flit.seq + 1) % 4096, nakSent := false, received := (ackArrives flit.ack s).tw.received ++ flit.recs })
        (ackArrives flit.ack s))) := by
  have hack : ((flit.seq + 1) % 4096 + 4095) % 4096 = flit.seq := by omega
  refine congrArg Host.Outcome.next ?_
  rw [if_neg (by simp [flitsFlow_active hk]), if_neg (by simp [hc]), if_neg (not_not_intro hseq.symm)]
  dsimp only [sendFlit, ackSeq, twMod_tw]
  rw [hack]
  rfl

theorem dataFlit_bad (hn : s.tw.nakSent = false) (hc : flit.crcOk = false) :
    exec (.dataFlit flit) s = .next (emit (.flit (flitBytes 3 0 (ackSeq s) []))
      (twMod (fun w => { w with nakSent := true }) (odBump 0x2C02 3 s))) := by
  refine congrArg Host.Outcome.next ?_
  rw [if_neg (by simp [flitsFlow_active hk]), if_pos (by simp [hc]), badFlit]
  rw [if_pos (flitsFlow_active ((kolState_odBump (by decide) (by decide) ..).trans hk)), sendNak_first (s := odBump _ _ s) hn]
  rfl

theorem dataFlit_outOfOrder (hn : s.tw.nakSent = false) (hc : flit.crcOk = true) (hseq : s.tw.rxSeq ≠ flit.seq) :
    exec (.dataFlit flit) s =
      .next (emit (.flit (flitBytes 3 0 (ackSeq s) [])) (twMod (fun w => { w with nakSent := true }) s)) := by
  refine congrArg Host.Outcome.next ?_
  rw [if_neg (by simp [flitsFlow_active hk]), if_neg (by simp [hc]), if_pos hseq.symm, sendNak_first hn]

theorem idleFlit_acks (ack : Nat) : exec (.idleFlit true ack) s = .next (ackArrives ack s) := by
  refine congrArg Host.Outcome.next ?_
  rw [if_neg (by simp [flitsFlow_active hk]), if_neg (by decide)]

theorem nakFlit_acks (ack : Nat) : exec (.nakFlit true ack) s = .next (if (ackArrives ack s).tw.replay.isEmpty then ackArrives ack s
    else replayAll (ackArrives ack s)) := by
  refine congrArg Host.Outcome.next ?_
  rw [if_neg (by simp [flitsFlow_active hk]), if_neg (by decide)]

/-! ### Replays (R404) -/

theorem replayTimeout_replays (hr : s.tw.replay ≠ []) : exec .replayTimeout s = .next (replayAll s) :=
  congrArg _ (if_neg (by simp [flitsFlow_active hk, hr]))

end

theorem replayAll_again (h : s.tw.replays + 1 < 4) : replayAll s =
    twMod (fun w => { w with replays := s.tw.replays + 1 }) (resendFlits (odBump 0x2C02 4 s)) := if_neg (by omega)

theorem replayAll_retrains (h : 4 ≤ s.tw.replays + 1) : replayAll s = odBump 0x2C02 5 (odSet 0x2C02 1 3
    (twMod (fun w => { w with replays := 0 }) (resendFlits (odBump 0x2C02 4 s)))) := if_pos h

theorem resendFlits_tw : (resendFlits s).tw = s.tw :=
  foldl_keeps (p := fun u : State => u.tw = s.tw) _ rfl fun _ _ h => h

/-! ### Training (R401, Table 20-1) -/

theorem trainAttempt_trains (hk : kolState s = 0) (ho : s.mode ≠ .off) (hf : s.mode ≠ .fuseLoad) :
    exec (.trainAttempt true) s = .next (odSet 0x2C02 1 1 s) := congrArg _ (if_pos (by simp [hk, ho, hf]))

/-- Lanes 0 to 3 or lanes 4 to 7 have all trained. -/
abbrev HalfTrained (lanes : BitVec 8) : Prop := lanes &&& 0x0F = 0x0F ∨ lanes &&& 0xF0 = 0xF0

theorem linkTrained_active {lanes : Nat} (h : lowRate s = false) : linkTrained lanes s =
    flushMirror s.tw.waiting.length (odSet 0x2C02 1 2 (odSet 0x2C02 2 lanes s)) := if_neg (by simp [h])

theorem linkTrained_lowRate {lanes : Nat} (h : lowRate s = true) : linkTrained lanes s =
    odSet 0x2C02 1 4 (odSet 0x2C02 2 1 s) := if_pos h

section
variable {lanes : BitVec 8} (hk : kolState s = 1)
include hk

theorem trainDone_all (h : lanes = 0xFF) : exec (.trainDone lanes) s = .next (linkTrained 8 s) :=
  congrArg _ ((if_neg (not_not_intro hk)).trans (if_pos h))

theorem trainDone_half (h : lanes ≠ 0xFF) (hh : HalfTrained lanes) : exec (.trainDone lanes) s = .next (linkTrained 4 s) :=
  congrArg _ ((if_neg (not_not_intro hk)).trans ((if_neg h).trans (if_pos (by simpa [HalfTrained] using hh))))

theorem trainDone_lowRate (hh : HalfTrained lanes) (hl : lowRate s = true) :
    exec (.trainDone lanes) s = .next (odSet 0x2C02 1 4 (odSet 0x2C02 2 1 s)) := by
  by_cases h : lanes = 0xFF
  · rw [trainDone_all hk h, linkTrained_lowRate hl]
  · rw [trainDone_half hk h hh, linkTrained_lowRate hl]

theorem trainDone_fails (hh : ¬ HalfTrained lanes) : exec (.trainDone lanes) s = .next (linkDown s) := by
  have hall : lanes ≠ 0xFF := fun h => hh (.inl (by rw [h]; decide))
  exact congrArg _ ((if_neg (not_not_intro hk)).trans ((if_neg hall).trans (if_neg (by simpa [HalfTrained] using hh))))

end

section
variable (hk : kolState s = 3)
include hk

theorem retrainDone_fails : exec (.retrainDone false) s = .next (linkDown s) :=
  congrArg _ (if_neg (not_not_intro hk))

theorem retrainDone_trains : exec (.retrainDone true) s = .next (if lowRate s then odSet 0x2C02 1 4 (odSet 0x2C02 2 1 s)
    else flushMirror s.tw.waiting.length (resendFlits (odSet 0x2C02 1 2 s))) := by
  refine congrArg _ ((if_neg (not_not_intro hk)).trans ?_)
  rw [if_neg (by decide)]
  dsimp only
  rw [resendFlits_tw]
  rfl

end
end

end Sys2Proof.Machine
end

section
/-! PROOFS. The pair: heartbeats, mirror records, claims, SYNCING and orphaning (R405 to R419, R438). -/

namespace Sys2Proof.Machine

/-! ### Heartbeats (R405 to R407) -/

section
variable {s : State} {hb : HeartBeat}

theorem heartbeatSend_leaves (hk : kolState s = 2 ∨ kolState s = 4) (hp : pairState s ≠ 0) : exec .heartbeatSend s =
    .next (emit (.flit (flitBytes 4 0 (ackSeq s) (heartbeatBody (myHeartbeat s))))
      (twMod (fun w => { w with hbSeq := (w.hbSeq + 1) % 2 ^ 32 }) s)) := by
  refine congrArg Host.Outcome.next ?_
  rw [if_pos (by simpa [hp] using hk)]
  rfl

theorem heartbeatValid_eq : heartbeatValid hb s =
    if hb.mode = 7 ∨ hb.mode = 0 then declareLoss (twinHeard hb s)
    else if pairState (twinHeard hb s) = 4 then
      odSet 0x2C00 1 1 (twMod (fun w => { w with fromUnpaired := false }) (twinHeard hb s))
    else if pairState (twinHeard hb s) = 1 then enterSync hb (twinHeard hb s)
    else twinHeard hb s := by
  simp only [heartbeatValid, twinHeard, Bool.and_eq_true, Bool.or_eq_true, decide_eq_true_eq, and_assoc]
  rfl

section
variable {v : State} (hk : kolState s = 2 ∨ kolState s = 4) (hc : hb.crcOk = true) (hv : v = ackArrives hb.ack s)
  (hp : hb.pairId = pairId v) (hs : hb.side ≠ side v)
include hk hc hv hp hs

theorem heartbeat_ofTwin : exec (.heartbeat hb) s =
    .next (if (pairState v = 2 ∨ pairState v = 3) ∧ lossDelay < v.time - v.tw.hbAt then declareLoss (odBump 0x2C02 6 v)
      else if pairState v = 4 ∧ v.tw.lostAt = some v.time then odBump 0x2C02 6 v
      else heartbeatValid hb v) := by
  refine congrArg Host.Outcome.next ?_
  have hlink : ¬ ((decide (kolState s ≠ 2) && decide (kolState s ≠ 4)) = true) := by
    rcases hk with hk | hk <;> simp [hk]
  rw [if_neg hlink, if_pos hc, ← hv]
  dsimp only
  rw [if_neg (by simp [hc, hp, hs])]
  simp only [Bool.and_eq_true, Bool.or_eq_true, decide_eq_true_eq]

theorem heartbeat_inTime (hlate : pairState v = 2 ∨ pairState v = 3 → v.time - v.tw.hbAt ≤ lossDelay)
    (hlost : pairState v = 4 → v.tw.lostAt ≠ some v.time) : exec (.heartbeat hb) s = .next (heartbeatValid hb v) := by
  rw [heartbeat_ofTwin hk hc hv hp hs, if_neg fun h => Nat.not_lt.mpr (hlate h.1) h.2, if_neg fun h => hlost h.1 h.2]

theorem heartbeat_late (hpair : pairState v = 2 ∨ pairState v = 3) (hlate : lossDelay < v.time - v.tw.hbAt) :
    exec (.heartbeat hb) s = .next (declareLoss (odBump 0x2C02 6 v)) := by
  rw [heartbeat_ofTwin hk hc hv hp hs, if_pos ⟨hpair, hlate⟩]

theorem heartbeat_atLoss (hpair : pairState v = 4) (hlost : v.tw.lostAt = some v.time) :
    exec (.heartbeat hb) s = .next (odBump 0x2C02 6 v) := by
  rw [heartbeat_ofTwin hk hc hv hp hs, if_neg fun h => by omega, if_pos ⟨hpair, hlost⟩]

end

/-! ### Loss of the twin (R406) -/

theorem declareLoss_ofPair (h : pairState s = 2 ∨ pairState s = 3) :
    declareLoss s = leadAfterLoss false (settlePending (endMirrorWaits (twinGone s))) :=
  if_pos (by simpa using h)

theorem twinLoss_declares (h : s.tw.partner = none ∨ s.tw.hbAt ≠ s.time) : exec .twinLoss s = .next (declareLoss s) := by
  refine congrArg _ (if_neg fun hnow => ?_)
  simp only [Bool.and_eq_true, decide_eq_true_eq] at hnow
  obtain ⟨hsome, hat⟩ := hnow
  rcases h with h | h
  · simp [h] at hsome
  · exact h hat

theorem twinLoss_cancelled (hp : s.tw.partner.isSome = true) (hat : s.tw.hbAt = s.time) : exec .twinLoss s = .next s :=
  congrArg _ (if_pos (by simp [hp, hat]))

end

/-! ### Mirror records (R409, R410) -/

section
variable {s : State} {n : Nat} {rest : List MItem}

/-- A record of the twin's own state is applied to the shadow and acknowledged; u is what its kind changes besides. -/
theorem applyNext_shadow {r : MRec} {u : State} (h : NextRecord s n r rest)
    (hr : applyRecord { num := n, back := false, place := 0, body := r } (twMod (fun w => { w with received := rest }) s) =
      twMod (fun w => { w with received := rest, shadow := applyShadow r s.tw.shadow }) u) :
    applyNext (recKind r) s = shadowTaken u n rest (applyShadow r s.tw.shadow) := by
  unfold applyNext shadowTaken
  rw [show s.tw.received = _ from h]
  dsimp only
  rw [if_neg (not_not_intro rfl), hr]
  rfl

theorem raiseFloor_twMod (p c : Nat) (f : TwinState → TwinState) (s : State) :
    raiseFloor p c (twMod f s) = twMod f (raiseFloor p c s) := by
  dsimp only [raiseFloor]
  rw [apply_ite (twMod f)]
  rfl

theorem twMod_shadow_received (r : MRec) : twMod (fun w => { w with shadow := applyShadow r w.shadow })
    (twMod (fun w => { w with received := rest }) s) =
      twMod (fun w => { w with received := rest, shadow := applyShadow r s.tw.shadow }) s := rfl

/-- A record outside an exchange whose kind has no further effect changes the shadow alone. -/
theorem applyRecord_shadow {r : MRec} (hr : ∀ p c policy, r ≠ .floorCounter p c policy) :
    applyRecord { num := n, back := false, place := 0, body := r } (twMod (fun w => { w with received := rest }) s) =
      twMod (fun w => { w with received := rest, shadow := applyShadow r s.tw.shadow }) s := by
  cases r
  case floorCounter p c policy => exact absurd rfl (hr p c policy)
  all_goals
    simp only [applyRecord, Bool.false_eq_true, if_false, zero_ne_one, OfNat.zero_ne_ofNat, decide_false, Bool.or_false,
      twMod_shadow_received]
theorem applyRecord_floorCounter {p c : Nat} :
    applyRecord { num := n, back := false, place := 0, body := .floorCounter p c none }
      (twMod (fun w => { w with received := rest }) s) =
    twMod (fun w => { w with received := rest, shadow := applyShadow (.floorCounter p c none) s.tw.shadow })
      (if pairState s = 3 then raiseFloor p c s else s) := by
  simp only [applyRecord, Bool.false_eq_true, if_false, zero_ne_one, OfNat.zero_ne_ofNat, decide_false, Bool.or_false,
    twMod_shadow_received, raiseFloor_twMod]
  rw [apply_ite (twMod _) (pairState s = 3)]
  rfl

/-! ### Acknowledgements of the twin (R410) -/

theorem mirrorAck_acknowledges {k : Nat} (h : NextRecord s n (.ack k) rest) (hm : s.mode ≠ .hold) :
    exec .mirrorAck s = .next (acknowledge k (twMod (fun w => { w with received := rest }) s)) := by
  refine congrArg Host.Outcome.next ((unlessHold_ne hm _).trans ?_)
  rw [show s.tw.received = _ from h]

theorem mirrorAck_hold (hm : s.mode = .hold) : exec .mirrorAck s = .next s := congrArg _ (if_pos hm)

end

section
variable {s : State}

theorem acknowledge_covers {k : Nat} {v : State} (hv : v = twMod (fun w => { w with acked := max w.acked k }) s) :
    acknowledge k s = claimSecured (mirrorSecured v.tw.acked ((coveredJobs v).foldl (fun w j => waitCovered j w) v)) := by
  subst hv
  refine congrArg (fun js : List Job => claimSecured (mirrorSecured _ (js.foldl (fun w j => waitCovered j w) _)))
    (List.filter_congr fun j _ => ?_)
  cases j.awaits <;> rfl

/-! ### Claims (R412, R413, R438) -/

section
variable {m : ClaimMsg} (ho : s.mode ≠ .off) (hf : s.mode ≠ .fuseLoad)
include ho hf

/-- What a claim of the twin teaches, with side A's claim and the end of leadership still to be judged. -/
theorem claimMsg_ofTwin (h : ClaimOfTwin s m) {v : State}
    (hv : v = twMod (fun w => { w with known := max w.known m.epoch, heard := true }) s) {y : State}
    (hy : y = if role s = 1 ∧ beats m.epoch m.side (od s 0x2C00 4) (side s) = true then yieldLead v else v) :
    exec (.claimMsg m) s =
      .next (if m.side = 0 ∧ side y = 1 then twMod (fun w => { w with claimWait := false }) y else y) := by
  obtain ⟨hpair, hid, hserial, hknown⟩ := h
  refine congrArg Host.Outcome.next ?_
  rw [if_neg (by simp [ho, hf]), claimArrives, if_neg (by simp [hpair, hid, hserial]; exact fun h => hknown.resolve_left h)]
  subst hv hy
  simp only [Bool.and_eq_true, decide_eq_true_eq]
  rfl

theorem claimMsg_notTwin (h : ¬ ClaimOfTwin s m) : exec (.claimMsg m) s = .next (odBump 0x1102 7 s) := by
  refine congrArg Host.Outcome.next ((if_neg (by simp [ho, hf])).trans (if_pos ?_))
  simp only [ClaimOfTwin, not_and_or, not_or, not_not] at h
  simp only [Bool.or_eq_true, Bool.and_eq_true, decide_eq_true_eq]
  tauto

end

theorem side_yieldLead : side (yieldLead s) = side s := od_odSet_otherSub (by decide) (by decide) (by decide) ..

theorem claimRepeat_sends {k : Nat} (h : s.tw.claims = k + 1) : exec .claimRepeat s =
    .next (emit (.claim (od s 0x1100 5) (vdpMsg 0x11 0 0 0 (claimBody ⟨od s 0x2C00 4, side s, serial s, pairId s⟩)))
      (twMod (fun w => { w with claims := k }) s)) := by
  refine congrArg Host.Outcome.next ((if_neg (by omega)).trans ?_)
  unfold twMod
  dsimp only
  rw [h]
  rfl

theorem claimWait_claims (h : s.tw.claimWait = true) : exec .claimWait s = .next (claimLead s) := congrArg _ (if_pos h)

theorem linkWait_solo (hp : pairState s = 1) (hu : s.tw.fromUnpaired = true) : exec .linkWait s =
    .next (leadAfterLoss true
      (settlePending (odSet 0x2C00 1 4 (twMod (fun w => { w with fromUnpaired := false }) s)))) :=
  congrArg _ (if_pos (by simp [hp, hu]))

/-! ### SYNCING (R419) -/

theorem adoptFloors_none (hf : s.tw.shadow.floors = []) (he : s.tw.shadow.epoch ≤ od s 0x2C00 4) : adoptFloors s = s := by
  unfold adoptFloors
  dsimp only
  rw [hf]
  exact if_neg (Nat.not_lt.mpr he)

/-- The state at the end of SYNCING of a side that has nothing to send and no leadership to claim. -/
def synced (s : State) : State := odSet 0x2C00 1 3 (twMod (fun w =>
  { w with intact := true, kept := false, lostAt := none, orphaning := false, claimWait := false }) s)

theorem role_synced : role (synced s) = role s := od_odSet_otherSub (by decide) (by decide) (by decide) ..

theorem side_synced : side (synced s) = side s := od_odSet_otherSub (by decide) (by decide) (by decide) ..

theorem syncComplete_synced (hp : pairState s = 2) (hx : s.tw.exchanged = true) (hr : s.tw.received = [])
    (hsent : s.tw.intact = true ∨ s.tw.kept = true) (hj : ∀ j ∈ s.js.jobs, j.jstate ≠ .pending)
    (hf : s.tw.shadow.floors = []) (he : s.tw.shadow.epoch ≤ od s 0x2C00 4) (hled : role s = 1 ∨ side s = 1) :
    exec .syncComplete s = .next (synced s) := by
  have hpending : s.js.jobs.filter (fun j => decide (j.jstate = .pending)) = [] :=
    List.filter_eq_nil_iff.mpr fun j h => by simpa using hj j h
  have hlead : role (synced s) = 1 ∨ side (synced s) = 1 := by rwa [role_synced, side_synced]
  have hkept : (if (s.tw.intact || s.tw.kept) = true then s else sendWhole s) = s := if_pos (by simpa using hsent)
  refine congrArg Host.Outcome.next ((if_pos (by simp [hp, hx, hr])).trans ?_)
  simp only [hkept, adoptFloors_none hf he, twMod_js, odSet_js, hpending, List.map_nil, List.foldl_nil]
  refine if_neg (c := (_ && _) = true) fun h => ?_
  simp only [Bool.and_eq_true, Bool.not_eq_true', Bool.or_eq_false_iff, decide_eq_false_iff_not, decide_eq_true_eq] at h
  obtain ⟨⟨hrole, -⟩, hside⟩ := h
  exact hlead.elim hrole fun h => absurd (hside.symm.trans h) (by decide)

/-! ### Orphaning (R417) -/

section
variable (hm : s.mode ≠ .hold) (hd : od s 0x2C03 2 ≠ 0)
include hm

theorem orphanDelay_noLoss (h : s.tw.lostAt = none) : exec .orphanDelay s = .next s :=
  congrArg _ ((unlessHold_ne hm _).trans (if_pos (by simp [h])))

include hd

theorem orphanDelay_heard (hh : s.tw.heard = true) (hl : s.tw.lostAt.isSome = true) :
    exec .orphanDelay s = .next (twMod (fun w => { w with heard := false }) s) :=
  congrArg _ ((unlessHold_ne hm _).trans ((if_neg (by simpa [hd, Option.isSome_iff_ne_none] using hl)).trans (if_pos hh)))

theorem orphanDelay_passed (hh : s.tw.heard = false) (hl : s.tw.lostAt.isSome = true)
    (hp : pairState s = 4 ∨ pairState s = 1) : exec .orphanDelay s = .next (postOrphans (if s.tw.orphaning then s
      else postEvent .pair (twMod (fun w => { w with orphaning := true }) s))) := by
  refine congrArg _ ((unlessHold_ne hm _).trans ?_)
  rw [if_neg (by simpa [hd, Option.isSome_iff_ne_none] using hl), if_neg (by simp [hh]), beginOrphaning,
    if_pos (by simpa [hl] using hp)]

end
end

/-! ### Claims, case by case -/

section
variable {s v : State} {m : ClaimMsg} (ho : s.mode ≠ .off) (hf : s.mode ≠ .fuseLoad)
  (hv : v = twMod (fun w => { w with known := max w.known m.epoch, heard := true }) s) (h : ClaimOfTwin s m)
include ho hf hv h

theorem claimMsg_endsWait (hrole : role s = 0) (hm : m.side = 0) (hs : side s = 1) :
    exec (.claimMsg m) s = .next (twMod (fun w => { w with claimWait := false }) v) := by
  have hsv : side v = 1 := by rw [hv]; exact hs
  rw [claimMsg_ofTwin ho hf h hv (if_neg (by simp [hrole])).symm, if_pos ⟨hm, hsv⟩]

theorem claimMsg_heard (hkept : role s = 0 ∨ beats m.epoch m.side (od s 0x2C00 4) (side s) = false)
    (hs : m.side ≠ 0 ∨ side s ≠ 1) : exec (.claimMsg m) s = .next v := by
  have hnot : ¬ (m.side = 0 ∧ side v = 1) := by
    rw [hv]
    exact fun ⟨hm, hside⟩ => hs.elim (· hm) (· hside)
  rw [claimMsg_ofTwin ho hf h hv (if_neg (by rcases hkept with h | h <;> simp [h])).symm, if_neg hnot]

theorem claimMsg_yields (hrole : role s = 1) (hs : m.side ≠ 0 ∨ side s ≠ 1)
    (hb : beats m.epoch m.side (od s 0x2C00 4) (side s) = true) : exec (.claimMsg m) s = .next (yieldLead v) := by
  have hnot : ¬ (m.side = 0 ∧ side (yieldLead v) = 1) := by
    rw [side_yieldLead, hv]
    exact fun ⟨hm, hside⟩ => hs.elim (· hm) (· hside)
  rw [claimMsg_ofTwin ho hf h hv (if_pos ⟨hrole, hb⟩).symm, if_neg hnot]

end

/-! ### The obligation -/

/-- Settles O58, condition by condition: the lemmas above say what each command makes of a state that meets it. -/
theorem twinCommandsComplete : Obligations.TwinCommandsComplete := by
  intro s v rest n
  refine ⟨?dataInOrder, ?dataDiscarded, ?acked, ?replay, ?attempt, ?trained, ?retrained, ?beatLeaves, ?beatArrives, ?loss,
    ?entry, ?post, ?retire, ?queueDef, ?queuePos, ?attrs, ?floor, ?epoch, ?mirrorAck, ?claim, ?claimRepeat, ?claimWait,
    rfl, ?linkWait, ?synced, ?orphans⟩
  case dataInOrder =>
    rintro flit hk hc rfl hseq hlt
    exact dataFlit_inOrder hk hc hseq hlt
  case dataDiscarded => exact fun flit hk hn => ⟨dataFlit_bad hk hn, dataFlit_outOfOrder hk hn⟩
  case acked =>
    rintro ack pre f post ⟨hk, hw⟩ hr hpre
    have hack := ackArrives_frees hw hr hpre
    refine ⟨?_, fun hpost => ?_, fun hpost => ?_⟩
    · rw [idleFlit_acks hk, hack]
    · rw [nakFlit_acks hk, hack, if_pos (by simp [hpost])]
    · rw [nakFlit_acks hk, hack, if_neg (by simp [hpost])]
      exact congrArg _ (replayAll_again (by simp))
  case replay =>
    refine fun hk hr => ⟨fun h => ?_, fun h => ?_⟩
    · rw [replayTimeout_replays hk hr, replayAll_again h]
    · rw [replayTimeout_replays hk hr, replayAll_retrains h]
  case attempt => exact trainAttempt_trains
  case trained =>
    refine fun lanes hk => ⟨fun h hl => ?_, fun h hh hl => ?_, trainDone_lowRate hk, fun h h' =>
      trainDone_fails hk (not_or.mpr ⟨h, h'⟩)⟩
    · rw [trainDone_all hk h, linkTrained_active hl]
    · rw [trainDone_half hk h hh, linkTrained_active hl]
  case retrained => exact fun hk => ⟨retrainDone_trains hk, retrainDone_fails hk⟩
  case beatLeaves => exact heartbeatSend_leaves
  case beatArrives =>
    intro hb hk hc hv hp hs
    refine ⟨?_, heartbeat_late hk hc hv hp hs, heartbeat_atLoss hk hc hv hp hs⟩
    rintro w rfl hlate hlost
    rw [heartbeat_inTime hk hc hv hp hs hlate hlost, heartbeatValid_eq]
    refine ⟨fun hgone => ?_, fun h7 h0 h4 h1 => ?_, fun h7 h0 h4 => ?_, fun h7 h0 h1 => ?_⟩
    · rw [if_pos hgone]
    · rw [if_neg (not_or.mpr ⟨h7, h0⟩), if_neg h4, if_neg h1]
    · rw [if_neg (not_or.mpr ⟨h7, h0⟩), if_pos h4]
    · rw [if_neg (not_or.mpr ⟨h7, h0⟩), if_neg (by omega), if_pos h1]
  case loss =>
    refine fun hp => ⟨fun h => ?_, twinLoss_cancelled⟩
    rw [twinLoss_declares h, declareLoss_ofPair hp]
  case entry => exact fun b h => congrArg _ (applyNext_shadow h (applyRecord_shadow nofun))
  case post => exact fun b h => congrArg _ (applyNext_shadow h (applyRecord_shadow nofun))
  case retire => exact fun k sq asn h => congrArg _ (applyNext_shadow h (applyRecord_shadow nofun))
  case queueDef => exact fun k cq q f h => congrArg _ (applyNext_shadow h (applyRecord_shadow nofun))
  case queuePos => exact fun k cq q p h => congrArg _ (applyNext_shadow h (applyRecord_shadow nofun))
  case attrs => exact fun k a h => congrArg _ (applyNext_shadow h (applyRecord_shadow nofun))
  case floor => exact fun p c h => congrArg _ (applyNext_shadow h applyRecord_floorCounter)
  case epoch => exact fun e p h => congrArg _ (applyNext_shadow h (applyRecord_shadow nofun))
  case mirrorAck =>
    refine fun k h hv => ⟨fun hm => ?_, mirrorAck_hold⟩
    rw [mirrorAck_acknowledges h hm, acknowledge_covers hv]
  case claim =>
    refine fun m ho hf hv => ⟨claimMsg_endsWait ho hf hv, fun h hr => claimMsg_heard ho hf hv h (.inl hr), fun h hr hs hb => ?_,
      fun h _ hb hs => claimMsg_heard ho hf hv h (.inr hb) hs, claimMsg_notTwin ho hf⟩
    exact claimMsg_yields ho hf hv h hr hs hb
  case claimRepeat => exact fun k => claimRepeat_sends
  case claimWait => exact claimWait_claims
  case linkWait => exact linkWait_solo
  case synced => exact syncComplete_synced
  case orphans =>
    refine fun hm hd => ⟨orphanDelay_noLoss hm, orphanDelay_heard hm hd, fun hh hl hp ho => ?_, fun hh hl hp ho => ?_⟩
    · rw [orphanDelay_passed hm hd hh hl hp, if_pos ho]
    · rw [orphanDelay_passed hm hd hh hl hp, if_neg (by simp [ho])]

end Sys2Proof.Machine
end

section
/-! PROOFS. Modes, zones, fatal errors, HOLD, clocks, sensors and power (chapter 22). -/

namespace Sys2Proof.Machine

variable {s : State}

/-! ### Two-phase changes of the mode (R446, R447, R450) -/

/-- A unit that is due acts for the target, then sets its bit and may commit. -/
theorem unitApplied_due {u : Fin 8} {target : Nat} (h : UnitDue s u target) : exec (.unitApplied u) s =
    .next (commitMode (withApplied u
      (if target = 3 then runAction u s else if target = 5 then dormantAction u s else s))) := by
  obtain ⟨htarget, hphase, hfatal, hbit, hready⟩ := h
  refine congrArg Host.Outcome.next ?_
  unfold unitApplied
  dsimp only
  rw [if_neg (by simp [hphase, hfatal, hbit]), htarget, if_neg (by simp [hready])]
  rfl

section
variable (hf : s.pw.fatal.isSome = true)
include hf

theorem unitApplied_fatal (u : Fin 8) : exec (.unitApplied u) s = .next s := congrArg _ (if_pos (by simp [hf]))

theorem modeDeadline_fatal : exec .modeDeadline s = .next s := congrArg _ (if_pos (by simp [hf]))

theorem rollbackDone_fatal : exec .rollbackDone s = .next s :=
  congrArg _ (if_neg (by simp [Option.isSome_iff_ne_none.mp hf]))

end

section
variable (ht : transition s = 2) (hf : s.pw.fatal = none)
include ht hf

theorem modeDeadline_dormant (h : od s 0x1300 1 = 5) : exec .modeDeadline s =
    .next (odSet 0x1300 3 3 (wakeChannels (((List.range 8).filter fun u =>
      (od s 0x1300 4).testBit u && Nat.testBit 0xFC u).foldl (fun w u => runAction u w) s))) := by
  refine congrArg Host.Outcome.next ((if_neg (by simp [ht, hf])).trans ?_)
  dsimp only
  rw [h]
  rfl

theorem modeDeadline_reverts (h : od s 0x1300 1 ≠ 5) (hm : s.mode ≠ .dormant) :
    exec .modeDeadline s = .next (odSet 0x1300 3 3 s) := by
  refine congrArg Host.Outcome.next ((if_neg (by simp [ht, hf])).trans ?_)
  simp only [h, if_false]
  exact congrArg _ (foldl_keeps (p := (· = s)) _ rfl fun w u hw => by rw [hw, if_neg hm])

end

theorem rollbackDone_aborts (ht : transition s = 3) (hf : s.pw.fatal = none) : exec .rollbackDone s =
    .next (recordAbort (if s.mode = .freeze then s else resumeFroze s)) := congrArg _ (if_pos (by simp [ht, hf]))

/-! ### Zones (R459, Table 22-6) -/

theorem zoneGated_drains {z : Fin 16} (h : od s (0x1320 + z.val) 2 = 1)
    (hidle : ∀ e ∈ s.js.tasks, e.2.inZone z.val = false ∨ e.2.gated = true ∨ (e.2.run ≠ .running ∧ e.2.run ≠ .ready)) :
    exec (.zoneGated z) s = .next (odSet (0x1320 + z.val) 2 2 (if l2State s z.val = 0 then s else l2DrainDone z.val s)) := by
  have hnone : slotsWhere s (fun t =>
      t.inZone z.val && !t.gated && (decide (t.run = .running) || decide (t.run = .ready))) = [] := by
    refine List.map_eq_nil_iff.mpr (List.filter_eq_nil_iff.mpr fun e he => ?_)
    rcases hidle e he with h | h | ⟨h, h'⟩ <;> simp [*]
  refine congrArg Host.Outcome.next ((if_pos h).trans ?_)
  unfold gateZone
  rw [hnone]
  rfl

theorem zoneWake_powers {z : Fin 16} {v : State} (h : od s (0x1320 + z.val) 2 = 3)
    (hv : v = odSet (0x1320 + z.val) 2 0 (if l2State s z.val = 0 then clusterMod z.val (fun _ => {})
      (odSet (0x3480 + z.val) 1 1 (odSet (0x3480 + z.val) 2 1 (odSet (0x3480 + z.val) 4 0 s))) else s)) :
    exec (.zoneWake z) s = .next ((slotsWhere v fun t => t.gated).foldl (fun w k => wakeGated k w) v) := by
  subst hv
  exact congrArg _ (if_pos h)

section
variable {slot : Nat} {t : Task} (ht : taskAt s slot = some t)
include ht

theorem wakeGated_gated (hu : unitsOn s t = true) (hg : t.gated = true) : wakeGated slot s =
    taskMod slot (fun t => { t with gated := false, readyAt := s.time, pass := 0 }) s := by
  unfold wakeGated
  rw [ht]
  exact if_pos (by simp [hg, hu])

theorem wakeGated_other (hg : t.gated = false) : wakeGated slot s = s := by
  unfold wakeGated
  rw [ht]
  exact if_neg (by simp [hg])

end

/-! ### Fatal errors and HOLD (R453, R455, R458, R498) -/

theorem holdEntry_holds {r : Nat} (hf : s.pw.fatal = some r) (hh : s.mode ≠ .hold) (ho : s.mode ≠ .off) :
    exec .holdEntry s = .next (enterHold r s) := by
  refine congrArg Host.Outcome.next ?_
  rw [hf]
  exact if_neg (by simp [hh, ho])

/-- A fault that is fatal outside OFF. -/
theorem next_fatal {reason : Nat} (ho : s.mode ≠ .off) (hf : s.pw.fatal = none) (hh : s.mode ≠ .hold) :
    Host.Outcome.next (if s.mode = .off then s else fatal reason s) =
      (.next { s with pw := { s.pw with fatal := some reason } } : Host.Outcome State Fault Refusal) :=
  congrArg _ ((if_neg ho).trans (fatal_first reason hf hh))

/-! ### Sensors and power (R456, R457) -/

theorem sensorPoll_reads {temps : List (Option Int)} {package uncore factor : Nat} {acts : List Nat} (ho : s.mode ≠ .off)
    (hl : s.mode ≠ .fuseLoad) : exec (.sensorPoll temps package uncore acts factor) s = .next (odSet 0x1310 8 factor
      (readPower package uncore acts ((List.range 32).foldl (fun w i => readSensor i (temps.getD i none) w) s))) :=
  congrArg _ (if_neg (by simp [ho, hl]))

/-- Each zone's ZONE_POWER_MW from its share on, for zones from n. -/
def noteShares (shares : List Nat) (n : Nat) (s : State) : State :=
  (shares.zipIdx n).foldl (fun s x => odSet (0x1320 + x.2) 5 x.1 s) s

/-- The readings of a poll, with the run above POWER_LIMIT not yet judged. -/
def noteReadings (package uncore : Nat) (shares : List Nat) (s : State) : State :=
  noteShares shares 0 (odSet 0x1310 2 package (odSet 0x1310 3 uncore s))

theorem od_noteShares_otherSub {j : Nat} (hj : j < 256) (h : j ≠ 5) (shares : List Nat) (n idx : Nat) (s : State) :
    od (noteShares shares n s) idx j = od s idx j :=
  foldl_keeps (p := fun w => od w idx j = od s idx j) _ rfl fun _ _ hw => (od_odSet_otherSub (by decide) hj h.symm ..).trans hw

theorem od_noteShares_below {z n : Nat} (h : z < n) (shares : List Nat) (s : State) :
    od (noteShares shares n s) (0x1320 + z) 5 = od s (0x1320 + z) 5 := by
  induction shares generalizing n s with
  | nil => rfl
  | cons x xs ih =>
    have hkey : odKey (0x1320 + n) 5 ≠ odKey (0x1320 + z) 5 := by unfold odKey; omega
    exact (ih (Nat.lt_succ_of_lt h) _).trans (od_odSet_ne _ _ _ _ _ _ hkey)

theorem od_noteShares {i : Nat} {shares : List Nat} (h : i < shares.length) (n : Nat) (s : State) :
    od (noteShares shares n s) (0x1320 + (n + i)) 5 = shares.getD i 0 := by
  induction shares generalizing i n s with
  | nil => simp at h
  | cons x xs ih =>
    cases i with
    | zero => exact (od_noteShares_below n.lt_succ_self xs _).trans (od_odSet_self ..)
    | succ i =>
      have hrest := ih (Nat.lt_of_succ_lt_succ h) (n + 1) (odSet (0x1320 + n) 5 x s)
      rwa [show n + 1 + i = n + (i + 1) by omega] at hrest

/-! ### The run above POWER_LIMIT -/

/-- A poll above POWER_LIMIT changes at most its count and the governor; one that is not ends the run. -/
theorem readPower_cases {package uncore : Nat} {acts : List Nat} {w u : State} (hu : u = readPower package uncore acts s)
    (hw : w = noteReadings package uncore (apportion ((package - uncore) * 1000) acts) s) :
    (powerLimit w < package ∧ (u = w ∨ u = odBump 0x1310 0x0A { w with gov := { w.gov with overSince := some w.time } })) ∨
    u = { w with gov := { w.gov with overSince := none } } := by
  subst hu
  unfold noteReadings noteShares at hw
  unfold readPower
  dsimp only
  rw [← hw]
  by_cases hover : powerLimit w < package
  · rw [if_pos hover]
    cases h : w.gov.overSince
    · exact .inl ⟨hover, .inr rfl⟩
    · exact .inl ⟨hover, .inl rfl⟩
  · rw [if_neg hover]
    exact .inr rfl

section
variable {package uncore : Nat} {acts : List Nat} {u : State} (hu : u = readPower package uncore acts s)
include hu

theorem od_readPower {j : Nat} (hj : j < 256) (h : j ≠ 0x0A) (idx : Nat) :
    od u idx j = od (noteReadings package uncore (apportion ((package - uncore) * 1000) acts) s) idx j := by
  rcases readPower_cases hu rfl with ⟨-, rfl | rfl⟩ | rfl
  · rfl
  · exact od_odSet_otherSub (by decide) hj h.symm ..
  · rfl

theorem pw_readPower : u.pw = (noteReadings package uncore (apportion ((package - uncore) * 1000) acts) s).pw := by
  rcases readPower_cases hu rfl with ⟨-, rfl | rfl⟩ | rfl <;> rfl

theorem powerLimit_readPower : powerLimit u =
    powerLimit (noteReadings package uncore (apportion ((package - uncore) * 1000) acts) s) := by
  unfold powerLimit
  rw [pw_readPower hu, od_readPower hu (by decide) (by decide), od_readPower hu (by decide) (by decide)]

theorem overSince_readPower (h : package ≤ powerLimit u) : u.gov.overSince = none := by
  rw [powerLimit_readPower hu] at h
  rcases readPower_cases hu rfl with ⟨hover, -⟩ | rfl
  · omega
  · rfl

theorem od_readPower_package : od u 0x1310 2 = package := by
  rw [od_readPower hu (by decide) (by decide), noteReadings, od_noteShares_otherSub (by decide) (by decide), od_odSet_self]

theorem od_readPower_uncore : od u 0x1310 3 = uncore := by
  rw [od_readPower hu (by decide) (by decide), noteReadings, od_noteShares_otherSub (by decide) (by decide),
    od_odSet_otherSub (by decide) (by decide) (by decide), od_odSet_self]

theorem od_readPower_share {z : Nat} (hz : z < (apportion ((package - uncore) * 1000) acts).length) :
    od u (0x1320 + z) 5 = (apportion ((package - uncore) * 1000) acts).getD z 0 := by
  have h := od_noteShares hz 0 (odSet 0x1310 2 package (odSet 0x1310 3 uncore s))
  rw [Nat.zero_add] at h
  rw [od_readPower hu (by decide) (by decide), noteReadings, h]

end

/-! ### The shares of the zones (R457) -/

/-- Activity of the first n zones. -/
def activityUpTo (acts : List Nat) (n : Nat) : Nat := (acts.take n).foldl (· + ·) 0

/-- The activities by which power is shared: each zone counts alike where none shows any. -/
def shareActs (acts : List Nat) : List Nat := if acts.all (· = 0) then acts.map fun _ => 1 else acts

theorem length_shareActs (acts : List Nat) : (shareActs acts).length = acts.length := by
  unfold shareActs
  split
  · exact List.length_map ..
  · rfl

theorem sum_shareActs_pos {acts : List Nat} (h : acts ≠ []) : 0 < (shareActs acts).sum := by
  unfold shareActs
  split
  next =>
    simpa using List.length_pos_iff.mpr h
  next hsome =>
    simp only [List.all_eq_true, not_forall, decide_eq_true_eq] at hsome
    obtain ⟨a, ha, hne⟩ := hsome
    exact Nat.lt_of_lt_of_le (Nat.pos_of_ne_zero hne) (List.le_sum_of_mem ha)

theorem monotone_activityUpTo (acts : List Nat) : Monotone (activityUpTo acts) := fun m n h => by
  unfold activityUpTo
  rw [← List.sum_eq_foldl, ← List.sum_eq_foldl]
  exact ((List.take_sublist_take_left h).sum_le_sum fun _ _ => Nat.zero_le _)

/-- The shares of the zones up to the nth are what their activity is of the whole. -/
def shareUpTo (total : Nat) (acts : List Nat) (n : Nat) : Nat :=
  total * activityUpTo (shareActs acts) n / (shareActs acts).sum

theorem apportion_eq (total : Nat) (acts : List Nat) : apportion total acts =
    (List.range acts.length).map fun z => shareUpTo total acts (z + 1) - shareUpTo total acts z := by
  rw [← length_shareActs]
  unfold shareUpTo
  rw [List.sum_eq_foldl]
  rfl

/-- The shares are the steps of a rising sequence, from nothing to the whole. -/
theorem sum_apportion {acts : List Nat} (h : acts ≠ []) (total : Nat) : (apportion total acts).sum = total := by
  have hmono : Monotone (shareUpTo total acts) := fun m n hmn =>
    Nat.div_le_div_right (Nat.mul_le_mul_left total (monotone_activityUpTo _ hmn))
  have hwhole : shareUpTo total acts acts.length = total := by
    unfold shareUpTo activityUpTo
    rw [← length_shareActs, List.take_length, ← List.sum_eq_foldl]
    exact Nat.mul_div_cancel _ (sum_shareActs_pos h)
  have hnone : shareUpTo total acts 0 = 0 := by simp [shareUpTo, activityUpTo]
  calc (apportion total acts).sum
      = ∑ z ∈ Finset.range acts.length, (shareUpTo total acts (z + 1) - shareUpTo total acts z) := by
        rw [apportion_eq]
        rfl
    _ = shareUpTo total acts acts.length - shareUpTo total acts 0 := Finset.sum_range_tsub hmono _
    _ = total := by rw [hwhole, hnone, Nat.sub_zero]

theorem length_apportion (total : Nat) (acts : List Nat) : (apportion total acts).length = acts.length := by
  simp [apportion_eq]

end Sys2Proof.Machine
end

section
/-! PROOFS. Resets, fuses, start-up, clocks, the TAP and the management port (chapters 21 and 23). -/

namespace Sys2Proof.Machine

variable {s : State}

/-! ### Clocks (R498) -/

section
variable (ho : s.mode ≠ .off)
include ho

theorem refclkLoss_kol : exec (.refclkLoss .kol) s = .next (linkDown s) := congrArg _ (if_neg ho)

theorem refclkLoss_eth : exec (.refclkLoss .eth) s =
    .next (windowEnds 1 deadWindow deadWindow (windowEnds 0 deadWindow deadWindow s)) := congrArg _ (if_neg ho)

theorem refclkLoss_cxl (p : Fin 2) : exec (.refclkLoss (.cxl p)) s = .next (odSet (0x2411 + 2 * p.val) 1 0
    (odSet (0x2411 + 2 * p.val) 2 0 (odSet (0x2410 + 2 * p.val) 1 0 (odSet (0x2410 + 2 * p.val) 2 0 s)))) := by
  refine congrArg Host.Outcome.next ((if_neg ho).trans ?_)
  rw [show 0x2411 + 2 * p.val = 0x2410 + (2 * p.val + 1) by omega]
  rfl

end

/-! ### Device resets (R462 to R464, R496) -/

theorem deviceReset_loaded {cause : Nat} (hf : s.mode ≠ .fuseLoad) : deviceReset cause s = resetDone cause s := by
  unfold deviceReset
  dsimp only
  rw [if_neg hf]
  rfl

theorem pwrgoodAssert_resets (r : Fin 2) (p : Fin 64) (ho : s.mode = .off) : exec (.pwrgoodAssert r p) s =
    .next (odSet 0x2C00 2 r.val (odSet 0x1100 1 p.val (resetDone 1 { s with time := 0 }))) := by
  refine congrArg Host.Outcome.next ((if_pos ho).trans ?_)
  rw [deviceReset_loaded (s := { s with time := 0 }) (show s.mode ≠ .fuseLoad by simp [ho])]

theorem pwrgoodDeassert_resets (hf : s.mode ≠ .fuseLoad) :
    exec .pwrgoodDeassert s = .next { resetDone 1 s with mode := .off } := by
  refine congrArg Host.Outcome.next ?_
  rw [deviceReset_loaded hf]

theorem sysResetN_resets (hf : s.mode ≠ .fuseLoad) (ho : s.mode ≠ .off) : exec (.sysResetN true) s =
    .next (resetDone 2 { s with pins := { s.pins with resetLow := true } }) := by
  refine congrArg Host.Outcome.next (Eq.trans (if_pos ?_) (deviceReset_loaded hf))
  simp [ho]

theorem watchdogExpiry_resets (hf : s.mode ≠ .fuseLoad) (ho : s.mode ≠ .off) :
    exec .watchdogExpiry s = .next (resetDone 3 s) :=
  congrArg _ ((if_neg (by simp [ho, hf])).trans (deviceReset_loaded hf))

/-! ### Fuses (R465) -/

/-- The state in which the fuses f have been read, DRAM and the shadow kept or lost (R464). -/
def fusesRead (f : Fuses) (kept : Bool) (s : State) : State :=
  let v := { s with mode := .configLoad, bt := { s.bt with fuses := f } }
  if kept = true ∧ s.bt.survives = true then odSet 0x1200 9 1 (twMod (fun w => { w with kept := true }) v)
  else { v with tw := {}, ms := { s.ms with dram := [], poison := [], planStore := [] } }

theorem fusesRead_eq (f : Fuses) (kept : Bool) : fusesRead f kept s =
    if (kept && s.bt.survives) = true then
      odSet 0x1200 9 1 (twMod (fun w => { w with kept := true }) { s with mode := .configLoad, bt := { s.bt with fuses := f } })
    else { s with mode := .configLoad, bt := { s.bt with fuses := f }, tw := {}
                  ms := { s.ms with dram := [], poison := [], planStore := [] } } :=
  if_congr (by simp) rfl rfl

theorem od_fusesRead {i j : Nat} (h : odKey 0x1200 9 ≠ odKey i j) (f : Fuses) (kept : Bool) :
    od (fusesRead f kept s) i j = od s i j := by
  unfold fusesRead
  dsimp only
  split
  · exact od_odSet_ne _ _ _ _ _ _ h
  · rfl

theorem fuseLoadDone_starts {fuses : Option Fuses} {errors : List FuseError} {kept : Bool} {f : Fuses} (hm : s.mode = .fuseLoad)
    (hr : s.pins.resetLow = false) (hf : f = fuses.getD s.bt.fuses) {u : State}
    (hu : u = startUp f (fusesLoaded f errors (fusesRead f kept s))) :
    exec (.fuseLoadDone fuses errors kept) s =
      .next (if FuseError.otherField ∈ errors ∨ FuseError.mac ∈ errors then fatal 1 u else u) := by
  refine congrArg Host.Outcome.next ((if_neg (by simp [hm, hr])).trans ?_)
  subst hf hu
  unfold fusesLoaded
  rw [od_fusesRead (by decide), fusesRead_eq]
  exact if_congr (by simp) rfl rfl

/-! ### Copies of the image (R472) -/

section
variable (hm : s.mode = .configLoad) (hl : od s 0x1200 1 = 0) (hn : od s 0x1200 2 = 0xFF)
include hm hl hn

theorem copyChosen_board (a b : FlashCopy) (octal : Bool) : exec (.copyChosen (some (a, b)) octal) s =
    .next (chooseCopy { s with bt := { s.bt with copyA := a, copyB := b, octal := octal } }) :=
  congrArg _ (if_pos (by simp [hm, hl, hn]))

theorem copyChosen_own (octal : Bool) : exec (.copyChosen none octal) s =
    .next (chooseCopy { s with bt := { s.bt with octal := octal } }) := congrArg _ (if_pos (by simp [hm, hl, hn]))

end

section
variable {v : State} (hv : v = noteCopies (countCopies s))
include hv

theorem chooseCopy_loads {k : Nat} (h : newestCopy v = some k) : chooseCopy s =
    startSplitLinks (odSet 0x1200 2 k (odSet 0x1200 1 0 (loadImage (copyAt v k).bytes v))) := by
  unfold chooseCopy
  dsimp only
  rw [← hv, h]

theorem chooseCopy_fails (h : newestCopy v = none) : chooseCopy s = odSet 0x1200 1 2 v := by
  unfold chooseCopy
  dsimp only
  rw [← hv, h]

end

/-! ### Bring-up, the end of loading, RUN (R276, R407, R473) -/

section
variable (hc : CopyLoaded s) {v : State}
include hc

section
variable {spd : List Spd} {bad : BitVec 12} {d : List Byte} (hd : d = sectBytes (copyAt s (od s 0x1200 2)).bytes 2)
  (hv : v = odSet 0x2000 5 (failMask s d spd bad.toNat) (writeControlWords d (applyDelays d spd s)))
include hd hv

theorem dramBringup_trains : exec (.dramBringup spd bad) s =
    .next (if failMask s d spd bad.toNat ≠ 0 then odSet 0x1200 1 3 v
      else spd.zipIdx.foldl (fun w x => chanMod x.2 (fun ch => { ch with raaLimits := x.1.raa }) w)
        (odSet 0x2000 4 (sectChannelBytes d) { v with bt := { v.bt with dramOk := true } })) := by
  obtain ⟨hm, hl, hn⟩ := hc
  subst hd hv
  exact congrArg _ (if_pos (by simp [hm, hl, hn]))

end

theorem loadEnd_starts (hd : s.bt.dramOk = true)
    (hv : v = odSet 0x2C00 4 s.vd.loggedEpoch (odSet 0x1200 1 1 (odSet 0x1200 8 (min (s.time / perMs) (2 ^ 32 - 1)) s))) :
    exec .loadEnd s = .next (if pairId v = 0 then v
      else odSet 0x2C00 1 1 (twMod (fun w => { w with fromUnpaired := true }) v)) := by
  obtain ⟨hm, hl, hn⟩ := hc
  subst hv
  exact congrArg _ (if_pos (by simp [hm, hl, hn, hd]))

end

theorem runEntry_runs (hm : s.mode = .configLoad) (hl : od s 0x1200 1 = 1) (hp : s.cx.perst.contains (od s 0x2400 2) = false)
    (hpair : (pairId s = 0 ∧ pairState s = 0) ∨ (pairId s ≠ 0 ∧ (pairState s = 3 ∨ pairState s = 4))) :
    exec .runEntry s = .next (setPorts 1 { s with mode := .run }) := by
  refine congrArg _ (if_pos ?_)
  rcases hpair with ⟨hid, hst⟩ | ⟨hid, hst⟩
  · simp only [hm, hl, hp, hid, hst, if_true, decide_true, Bool.not_false, Bool.and_true]
  · simpa only [hm, hl, hp, hid, if_false, decide_true, Bool.not_false, Bool.and_true, Bool.true_and, Bool.or_eq_true,
      decide_eq_true_eq] using hst

/-! ### The TAP (R490) -/

section
variable {ir : TapIr} {v : State} (hv : v = { s with pins := { s.pins with tap := tapEffective s ir } })
include hv

theorem tapInstruction_bypass (h : tapEffective s ir = .bypass) :
    exec (.tapInstruction ir) s = .next (emit (.tap .bypass 0) v) := by
  subst hv
  refine congrArg Host.Outcome.next ?_
  rw [h]

theorem tapInstruction_idcode (h : tapEffective s ir = .idcode) :
    exec (.tapInstruction ir) s = .next (emit (.tap .idcode 0x14812A5F) v) := by
  subst hv
  refine congrArg Host.Outcome.next ?_
  rw [h]

theorem tapInstruction_chain (h : tapEffective s ir = .samplePreload ∨ tapEffective s ir = .extest) :
    exec (.tapInstruction ir) s =
      .next (emit (.tap (tapEffective s ir) (Config.freeValue s.freeCtr)) { v with freeCtr := s.freeCtr + 1 }) := by
  subst hv
  refine congrArg Host.Outcome.next ?_
  rcases h with h | h <;> rw [h] <;> rfl

end

/-! ### The management port (R424, R425, R427) -/

section
variable (ho : s.mode ≠ .off) (hf : s.mode ≠ .fuseLoad)
include ho hf

theorem vdpLive_loaded : vdpLive s = true := by simp [vdpLive, ho, hf]

section
variable {a : List Byte} (p : List Byte)

theorem managementFrame_own (h : ownAddress s a = true) :
    exec (.managementFrame (.neighbour a)) s = .next (emit (.mgmtReply (.neighbour a)) s) ∧
    exec (.managementFrame (.echo a p)) s = .next (emit (.mgmtReply (.echo a p)) s) := by
  have hlive : ¬ (!vdpLive s) = true := by simp [vdpLive_loaded ho hf]
  exact ⟨congrArg _ ((if_neg hlive).trans (if_pos h)), congrArg _ ((if_neg hlive).trans (if_pos h))⟩

theorem managementFrame_foreign (h : ownAddress s a = false) :
    exec (.managementFrame (.neighbour a)) s = .next s ∧ exec (.managementFrame (.echo a p)) s = .next s := by
  have hlive : ¬ (!vdpLive s) = true := by simp [vdpLive_loaded ho hf]
  have hnot : ¬ ownAddress s a = true := by simp [h]
  exact ⟨congrArg _ ((if_neg hlive).trans (if_neg hnot)), congrArg _ ((if_neg hlive).trans (if_neg hnot))⟩

end

variable (src : VdpSrc) (m : List Byte)

theorem managementFrame_datagram (port : Nat) : exec (.managementFrame (.datagram src port m)) s =
    .next (if port = od s 0x1100 5 then mgmtDatagram src m s else s) :=
  congrArg _ (if_neg (by simp [vdpLive_loaded ho hf]))

theorem managementFrame_unknown : exec (.managementFrame .other) s = .next s :=
  congrArg _ (if_neg (by simp [vdpLive_loaded ho hf]))

end

section
variable {src : VdpSrc} {m : List Byte}

theorem mgmtDatagram_malformed (h : headerFits m = false) : mgmtDatagram src m s = odBump 0x1102 4 s := if_pos (by simp [h])

section
variable (h : headerFits m = true)
include h

theorem mgmtDatagram_twinFrame (ht : fld m 3 1 = 0x10) (hk : od s 0x2C00 6 ≠ 0) (hs : fld m 16 8 = od s 0x2C00 6) :
    mgmtDatagram src m s = twMod (fun w => { w with heard := true }) s :=
  (if_neg (by simp [h])).trans ((if_pos ht).trans (if_pos (by simp [hk, hs])))

theorem mgmtDatagram_claim (ht : fld m 3 1 = 0x11) : mgmtDatagram src m s =
    if fld m 8 2 = 24 then claimArrives (claimOf (m.drop 16)) s else odBump 0x1102 7 s :=
  (if_neg (by simp [h])).trans ((if_neg (by simp [ht])).trans (if_pos ht))

theorem mgmtDatagram_request (hf : fld m 3 1 ≠ 0x10) (hc : fld m 3 1 ≠ 0x11) : mgmtDatagram src m s = vdpArrive src m s :=
  (if_neg (by simp [h])).trans ((if_neg hf).trans (if_neg hc))

theorem vdpArrive_serves (hl : vdpLive s = true) (hn : notReceived s src m = false) (hh : s.vd.held = none)
    (hq : s.vd.queue = []) : vdpArrive src m s = serveRequest src m s :=
  (if_neg (by simp [hl])).trans ((if_neg (by simp [h])).trans ((if_neg (by simp [hn])).trans (if_neg (by simp [hh, hq]))))

end
end

theorem sendBeacon_coordinator (hl : vdpLive s = true) (h : od s 0x1100 1 = 0) :
    sendBeacon s = emit (.beacon (od s 0x1100 2)) s := if_pos (by simp [hl, h])

theorem sendBeacon_other (h : vdpLive s = false ∨ od s 0x1100 1 ≠ 0) : sendBeacon s = s :=
  if_neg (by rcases h with h | h <;> simp [h])

theorem plcaBeacon_seen (link : Bool) (ho : s.mode ≠ .off) : exec (.plcaBeacon ⟨true, link⟩) s =
    .next (sendBeacon (odSet 0x1100 4 1 { s with vd := { s.vd with netUp := link } })) := congrArg _ (if_neg ho)

theorem plcaBeacon_unseen (link : Bool) (ho : s.mode ≠ .off) : exec (.plcaBeacon ⟨false, link⟩) s =
    .next (odSet 0x1100 4 0 { s with vd := { s.vd with netUp := link } }) := congrArg _ (if_neg ho)

/-! ### The obligation -/

/-- Settles O59, condition by condition: the lemmas above say what each command makes of a state that meets it. -/
theorem powerAndBootCommandsComplete : Obligations.PowerAndBootCommandsComplete := by
  intro s v
  refine ⟨?applied, ?abandoned, ?deadline, rollbackDone_aborts, ?zones, ?gatedTask, fun r => holdEntry_holds, ?fatal, ?clocks,
    ?sensors, pwrgoodAssert_resets, ?resets, rfl, ?fuses, ?copies, ?bringup, ?loaded, runEntry_runs, ?tap, ?frames, ?beacon⟩
  case applied =>
    exact fun u => ⟨unitApplied_due, unitApplied_due, fun h => h.elim unitApplied_due unitApplied_due⟩
  case abandoned => exact fun hf => ⟨unitApplied_fatal hf, modeDeadline_fatal hf, rollbackDone_fatal hf⟩
  case deadline => exact fun ht hf => ⟨modeDeadline_dormant ht hf, modeDeadline_reverts ht hf⟩
  case zones =>
    refine fun z => ⟨fun h hidle => ⟨fun hl => ?_, fun hl => ?_⟩, fun h => ⟨fun hl hv => ?_, fun hl hv => ?_⟩⟩
    · rw [zoneGated_drains h hidle, if_pos hl]
    · rw [zoneGated_drains h hidle, if_neg hl]
    · exact zoneWake_powers h (by rw [if_neg hl, hv])
    · exact zoneWake_powers h (by rw [if_pos hl, hv])
  case gatedTask => exact fun slot t ht hu => ⟨wakeGated_gated ht hu, wakeGated_other ht⟩
  case fatal =>
    exact fun hf hh ho => ⟨next_fatal ho hf hh, next_fatal ho hf hh, next_fatal ho hf hh, next_fatal ho hf hh,
      next_fatal ho hf hh, next_fatal ho hf hh⟩
  case clocks => exact fun ho => ⟨refclkLoss_kol ho, refclkLoss_eth ho, refclkLoss_cxl ho⟩
  case sensors =>
    rintro temps package uncore acts factor u ho hl rfl hu
    refine ⟨?_, overSince_readPower hu, od_readPower_package hu, od_readPower_uncore hu, fun hlen => ⟨fun z hz => ?_, ?_⟩⟩
    · rw [sensorPoll_reads ho hl, hu]
    · exact od_readPower_share hu (by rw [length_apportion]; omega)
    · exact sum_apportion (List.ne_nil_of_length_pos (by omega)) _
  case resets => exact fun hf => ⟨pwrgoodDeassert_resets hf, sysResetN_resets hf, watchdogExpiry_resets hf⟩
  case fuses =>
    rintro fuses errors f hm hr hf kept u rfl hu
    refine ⟨fun ho hmac => ?_, fun herr => ?_⟩
    · rw [fuseLoadDone_starts hm hr hf hu, if_neg (not_or.mpr ⟨ho, hmac⟩)]
    · rw [fuseLoadDone_starts hm hr hf hu, if_pos herr]
  case copies =>
    refine fun hm hl => ⟨fun a b octal k hn hv => ⟨fun hk => ?_, fun hk => ?_⟩, fun octal k hn hv hk => ?_⟩
    · rw [copyChosen_board hm hl hn, chooseCopy_loads hv hk]
    · rw [copyChosen_board hm hl hn, chooseCopy_fails hv hk]
    · rw [copyChosen_own hm hl hn, chooseCopy_loads hv hk]
  case bringup =>
    refine fun spd bad d hc hd hv => ⟨fun h => ?_, fun h => ?_⟩
    · rw [dramBringup_trains hc hd hv, if_pos h]
    · rw [dramBringup_trains hc hd hv, if_neg (not_not_intro h)]
  case loaded =>
    refine fun hc hd hv => ⟨fun h => ?_, fun h => ?_⟩
    · rw [loadEnd_starts hc hd hv, if_pos h]
    · rw [loadEnd_starts hc hd hv, if_neg h]
  case tap =>
    rintro ir e rfl hv
    exact ⟨tapInstruction_bypass hv, tapInstruction_idcode hv, tapInstruction_chain hv⟩
  case frames =>
    refine fun ho hf => ⟨fun a p => managementFrame_own ho hf p, fun a p => managementFrame_foreign ho hf p,
      fun src port m h => ?_, fun src port m h => ⟨fun hh => ?_, fun hh ht hk hs => ?_, fun hh ht => ?_,
        fun hh h10 h11 hn hheld hq => ?_⟩, managementFrame_unknown ho hf⟩
    · rw [managementFrame_datagram ho hf, if_neg h]
    · rw [managementFrame_datagram ho hf, if_pos h, mgmtDatagram_malformed hh]
    · rw [managementFrame_datagram ho hf, if_pos h, mgmtDatagram_twinFrame hh ht hk hs]
    · rw [managementFrame_datagram ho hf, if_pos h, mgmtDatagram_claim hh ht]
    · rw [managementFrame_datagram ho hf, if_pos h, mgmtDatagram_request hh h10 h11,
        vdpArrive_serves hh (vdpLive_loaded ho hf) hn hheld hq]
  case beacon =>
    exact fun link ho => ⟨plcaBeacon_seen link ho, plcaBeacon_unseen link ho, sendBeacon_coordinator, sendBeacon_other⟩

end Sys2Proof.Machine
end


section
/-! PROOFS. Packets, acknowledgements and congestion of a queue pair, and the fabric (R143 to R150, R156, R164). -/

namespace Sys2Proof.Machine

/-- A command completes in the state that its effect comes to. -/
theorem next_of_eq {s u : State} (h : s = u) : (Host.Outcome.next s : Host.Outcome State Fault Refusal) = .next u := by rw [h]

/-! ### A packet that a queue pair takes (R143, R147) -/

theorem qpAt_of_net {s u : State} (h : u.net = s.net) (k : Nat) : qpAt u k = qpAt s k := by
  unfold qpAt
  rw [h]

theorem countSearch_net (g : Nat) (f : Found) (s : State) : (countSearch g f s).net = s.net := by
  unfold countSearch
  dsimp only
  split <;> rfl

theorem countSearch_time (g : Nat) (f : Found) (s : State) : (countSearch g f s).time = s.time := by
  unfold countSearch
  dsimp only
  split <;> rfl

/-- A search of the classifier that names a queue pair is counted, and changes nothing else. -/
theorem classifyPkt_finds {p : Pkt} {s v : State} {k : Nat} (h : classifyPkt p s = (some k, v)) :
    v = countSearch 0 (gsearch (tget {} s.js.groups 0) (classKey p.dst p.qpn)) s := by
  unfold classifyPkt at h
  dsimp only at h
  split at h
  · cases h
  · split at h
    · cases h
    · exact (congrArg Prod.snd h).symm

theorem pktMarks_plain {p : Pkt} (hce : p.ce = false) (hmig : p.mig = false) (k : Nat) (s : State) : pktMarks k p s = s := by
  unfold pktMarks
  rw [hce, hmig]
  simp only [Bool.false_eq_true, if_false, Bool.false_and]
  split <;> rfl

section
variable {s v w : State} {p : Pkt} {k : Nat} {q : QP}

theorem PktTaken.net (h : PktTaken s v p k q) : v.net = s.net := by
  obtain ⟨-, -, -, -, -, hclass, -⟩ := h
  rw [classifyPkt_finds hclass, countSearch_net]

theorem PktTaken.time (h : PktTaken s v p k q) : v.time = s.time := by
  obtain ⟨-, -, -, -, -, hclass, -⟩ := h
  rw [classifyPkt_finds hclass, countSearch_time]

theorem PktTaken.queue (h : PktTaken s v p k q) : qpAt v k = some q := by
  rw [qpAt_of_net h.net]
  obtain ⟨-, -, -, -, -, -, hq, -⟩ := h
  exact hq

/-- What a queue pair answers to a request in order that it takes, by what its action came to (R143). -/
theorem wireArrive_next (h : NextRequest s v p k q) (size : Nat) (again : Bool) (act : Nat → State → RxRes × State) :
    (act k v = (.ok, w) → wireArrive p size again act s = requestAcked k q p size w) ∧
    (∀ b, act k v = (.data b, w) →
      wireArrive p size again act s = requestTaken k (packets q.mtu size) p p.psn (.readResponse b) w) := by
  obtain ⟨hp, hpsn⟩ := h
  have hv := hp.queue
  obtain ⟨hlive, hfull, hce, hmig, hbroken, hclass, -, herr⟩ := hp
  have hrun : wireArrive p size again act s =
      (let (r, u) := act k v
       let took := qpMod k (fun q' => { q' with rxPsn := psnAdd p.psn (packets q.mtu size), nakSent := false }) u
       match r with
        | .ok => answer k (psnAdd p.psn (packets q.mtu size - 1)) .ack took
        | .data b => answer k p.psn (.readResponse b) took
        | .rnr => answer k p.psn (.nak (.rnr (od u 0x2820 9))) u
        | .refuse .invalidRequest => refusePacket k p.psn u
        | .refuse c => answer k p.psn (.nak c) u) := by
    unfold wireArrive
    simp only [hlive, hfull, hclass, pktMarks_plain hce hmig, hv, herr, hbroken, hpsn, Bool.not_true, Bool.false_eq_true,
      if_false, if_true] <;> rfl
  refine ⟨fun ha => ?_, fun b ha => ?_⟩ <;> rw [hrun, ha] <;> rfl

/-! ### Requests, by their action (R145, R146, R156, R163, R164) -/

theorem rxSend_submits {x : SubQ} {payload : List Byte} (hq : qpAt v k = some q) (huse : q.use = 1)
    (hlen : payload.length ≤ 2 ^ 31) (hx : sqAt v q.inst q.sq = some x) (htakes : sqTakes v q.inst x (sendPos x) = true)
    (hw : devWrite unitExch (.inst q.inst) (sqSlotAddr x (sendPos x)) (payload.take x.slotBytes) v = (none, w)) :
    rxSend k payload v = (.ok, sqMod q.inst q.sq (fun y =>
      { y with sends := tset y.sends (sendPos x) payload.length, senders := tset y.senders (sendPos x) k }) w) := by
  unfold rxSend submitArrives
  simp only [hq, huse, hx, htakes, hw, Nat.not_lt.mpr hlen, if_false, if_true, Bool.not_true, Bool.false_eq_true]

theorem rxWrite_stores {key address a : Nat} {data : List Byte} (hq : qpAt v k = some q) (huse : q.use = 3)
    (hlen : data.length ≤ 2 ^ 31) (hr : regionFor v q key address data.length true = some a)
    (hw : devWriteWhole unitExch (.inst q.inst) a data v = (none, w)) : rxWrite k key address data v = (.ok, w) := by
  unfold rxWrite
  simp only [hq, huse, hr, hw, Nat.not_lt.mpr hlen, ne_eq, not_true, decide_false, Bool.or_self, Bool.false_eq_true, if_false]

theorem rxRead_answers {key address len a : Nat} {b : List Byte} (hq : qpAt v k = some q) (huse : q.use = 3)
    (hlen : len ≤ 2 ^ 31) (hr : regionFor v q key address len false = some a)
    (hb : devRead unitExch (.inst q.inst) a len v = (.ok b, w)) : rxRead k key address len v = (.data b, w) := by
  unfold rxRead
  simp only [hq, huse, hr, hb, Nat.not_lt.mpr hlen, ne_eq, not_true, decide_false, Bool.or_self, Bool.false_eq_true, if_false]

theorem rxWriteImm_lands {key address imm : Nat} {data : List Byte} {z : Zone} {r : Region} (hq : qpAt v k = some q)
    (huse : q.use = 2) (hlen : data.length ≤ 65536)
    (hz : v.net.zones.find? (fun z => z.inst = q.inst && z.key = key) = some z) (hr : regionAt v key = some r)
    (hzone : r.zone = true) (hfit : address + data.length ≤ r.length)
    (hw : segmentArrives k z address data imm v = (.ok, w)) : rxWriteImm k key address data imm v = (.ok, w) := by
  have hlen' : ¬ 2 ^ 31 < data.length := by omega
  unfold rxWriteImm
  simp only [hq, huse, hz, hr, hzone, hfit, hlen, hlen', ne_eq, not_true, decide_false, decide_true, Bool.or_self,
    Bool.and_self, Bool.false_eq_true, if_false, if_true, hw]

/-- The first byte of an exchange control message is its TYPE (Table 07-5). -/
theorem fld_splice_type (msg : List Byte) (ty : Byte) : fld (splice msg 0 [ty]) 0 1 = ty.toNat := by
  simp [splice, fld, slice, leNat]

theorem rxSend_control {m : List Byte} (hq : qpAt v k = some q) (huse : q.use = 2) (hlen : m.length = 32) :
    rxSend k m v = controlArrives k q.inst m v := by
  unfold rxSend
  simp only [hq, huse, hlen, show ¬ (2 ^ 31 < 32) by decide, if_false, if_true, Nat.reduceEqDiff]

/-- OPEN, GRANT and END act by their TYPE (R164). -/
theorem controlArrives_acts {n : Nat} {msg : List Byte} {ty : Byte} (hlen : (splice msg 0 [ty]).length = 32) :
    (ty = 1 → controlArrives k n (splice msg 0 [ty]) v = (.ok, openArrives k n (splice msg 0 [ty]) v)) ∧
    (ty = 2 → controlArrives k n (splice msg 0 [ty]) v = (.ok, grantArrives k (splice msg 0 [ty]) v)) ∧
    (ty = 3 → controlArrives k n (splice msg 0 [ty]) v = (.ok, endArrives k n (splice msg 0 [ty]) v)) := by
  unfold controlArrives
  rw [if_neg (not_not.mpr hlen), fld_splice_type]
  refine ⟨?_, ?_, ?_⟩ <;> rintro rfl <;> rfl

/-- A control message of one TYPE that a queue pair takes, by what its action leaves (R164). -/
theorem controlRow_wire {msg : List Byte} {ty : Byte} (h : NextRequest s v p k q) (huse : q.use = 2)
    (hlen : (splice msg 0 [ty]).length = 32) (ha : controlArrives k q.inst (splice msg 0 [ty]) v = (.ok, w)) :
    controlRow ty (.wire p) msg s = requestAcked k q p 32 w := by
  have hact := (wireArrive_next h (splice msg 0 [ty]).length false (fun k s => rxSend k (splice msg 0 [ty]) s)).1
    ((rxSend_control h.1.queue huse hlen).trans ha)
  rw [hlen] at hact
  exact (congrArg (fun n => wireArrive p n false _ s) hlen).trans hact

/-! ### The fabric (R143) -/

theorem fabricArrive_takes {f : FabMsg} (h : FabricFront s f) {is_ : RoceMsg → Bool}
    {act : RoceMsg → Nat → State → RxRes × State} (his : is_ f.msg = true) (ha : act f.msg f.dst s = (.ok, w)) :
    fabricArrive is_ act s = fabricTaken f w := by
  obtain ⟨hfront, q, hq, herr⟩ := h
  obtain ⟨rest, hrest⟩ := List.head?_eq_some_iff.mp hfront
  unfold fabricArrive
  simp only [hrest, his, hq, herr, ha, Bool.not_true, Bool.false_eq_true, if_false]
  rfl

/-! ### Acknowledgements of what the device sent (R143, R144) -/

theorem replyArrives_taken (h : PktTaken s v p k q) (act : Nat → State → State) : replyArrives p act s = act k v := by
  obtain ⟨hlive, hfull, hce, hmig, hbroken, hclass, -⟩ := h
  unfold replyArrives
  simp only [hlive, hfull, hclass, pktMarks_plain hce hmig, hbroken, Bool.not_true, Bool.false_eq_true, if_false]

/-- A change of a queue pair that changes nothing in it. -/
theorem qpMod_same (k : Nat) {f : QP → QP} (hf : ∀ q, f q = q) (s : State) : qpMod k f s = s := by
  have : (fun e : Nat × QP => if e.1 = k then (e.1, f e.2) else e) = id := by
    funext e
    rw [hf]
    exact ite_self _
  unfold qpMod netMod
  simp only [this, List.map_id]

theorem foldl_txDone_plain {l : List TxMsg} (h : ∀ m ∈ l, m.why = .plain) (s : State) :
    l.foldl (fun s m => txDone m s) s = s := by
  induction l generalizing s with
  | nil => rfl
  | cons m l ih =>
    have hm : txDone m s = s := by
      unfold txDone
      rw [h m List.mem_cons_self]
    rw [List.foldl_cons, hm]
    exact ih (fun x hx => h x (List.mem_cons_of_mem _ hx)) s

/-- The messages of a queue pair that a PSN acknowledges. -/
def ackedBy (q : QP) (psn : Nat) : List TxMsg :=
  q.sendQ.takeWhile fun m => psnDist (psnAdd m.psn (m.count - 1)) psn < 2 ^ 23

theorem ackTo_plain {psn : Nat} (hq : qpAt v k = some q) (hsome : ackedBy q psn ≠ [])
    (hplain : ∀ m ∈ ackedBy q psn, m.why = .plain) : ackTo k psn v =
      qpMod k (fun q' => { q' with sendQ := q'.sendQ.drop (ackedBy q psn).length, retries := 0, rnrs := 0 }) v := by
  have hne : (ackedBy q psn).isEmpty = false := by simpa using hsome
  unfold ackTo
  rw [hq]
  dsimp only
  rw [show (q.sendQ.takeWhile fun m => psnDist (psnAdd m.psn (m.count - 1)) psn < 2 ^ 23) = ackedBy q psn from rfl,
    foldl_txDone_plain hplain]
  simp only [hne, Bool.false_eq_true, if_false]

theorem ackTo_none {psn : Nat} (hq : qpAt v k = some q) (hnone : ackedBy q psn = []) : ackTo k psn v = v := by
  unfold ackTo
  rw [hq]
  dsimp only
  rw [show (q.sendQ.takeWhile fun m => psnDist (psnAdd m.psn (m.count - 1)) psn < 2 ^ 23) = ackedBy q psn from rfl, hnone]
  exact qpMod_same k (fun q => rfl) v

/-- A change of queue pairs leaves the planes. -/
@[simp] theorem planeFit_qpMod (k plane : Nat) (f : QP → QP) (s : State) : planeFit (qpMod k f s) plane = planeFit s plane := rfl

/-- A command that comes to a retry of a queue pair retries it (R143, R152, R155). -/
theorem retries_of_retryQp {c : Instr} {s w : State} {k : Nat} {q : QP} (hq : qpAt w k = some q)
    (hc : exec c s = .next (retryQp k w)) : Retries c s w k q := by
  unfold retryQp at hc
  rw [hq] at hc
  simp only [planeFit_qpMod, Bool.and_eq_true, decide_eq_true_eq, and_assoc] at hc
  refine ⟨fun hheld => ?_, fun hfree => ?_⟩
  · rw [hc, if_pos hheld]
  · rw [if_neg (by simp [hfree])] at hc
    refine ⟨fun hmoves => ?_, fun hstays hover => ?_, fun hstays hmay => ?_⟩
    · rw [hc, if_pos hmoves]
    · rw [hc, if_neg hstays, if_pos hover]
    · rw [hc, if_neg hstays, if_neg (Nat.not_lt.mpr hmay)]

end

end Sys2Proof.Machine
end


section
/-! PROOFS. Other frames, timers, paths and planes of the network (R143, R147, R150 to R155, Tables 07-3, 07-4, 07-6). -/

namespace Sys2Proof.Machine

/-! ### Other frames (R142, R147, R154) -/

theorem exec_otherFrame (port : Fin 4) (f : Sys2Proof.Frame) (s : State) :
    exec (.otherFrame port f) s = execOtherFrame port f s := rfl

section
variable {s : State} {port : Fin 4} (h : portLive s port.val = true)
include h

/-- Frames for a configured address are answered, a reply that is awaited ends its probe, a pause frame is ignored (R147). -/
theorem otherFrame_taken :
    exec (.otherFrame port (.arp s.net.localIp)) s = .next (emit (.frame port.val (.arp s.net.localIp)) s) ∧
    exec (.otherFrame port (.neighbour s.net.localIp6)) s = .next (emit (.frame port.val (.neighbour s.net.localIp6)) s) ∧
    (∀ t b, t = s.net.localIp ∨ t = s.net.localIp6 →
      exec (.otherFrame port (.echo t b)) s = .next (emit (.frame port.val (.echo t b)) s)) ∧
    (port.val ∈ s.net.probing → exec (.otherFrame port .echoReply) s =
      .next (netMod (fun n => { n with probing := n.probing.filter (· ≠ port.val) }) s)) ∧
    exec (.otherFrame port .pause) s = .next s := by
  simp only [exec_otherFrame]
  refine ⟨?_, ?_, fun t b ht => ?_, fun hp => ?_, ?_⟩
  · simp [execOtherFrame, h]
  · simp [execOtherFrame, h]
  · simp [execOtherFrame, h, isLocal, ht]
  · simp [execOtherFrame, h, hp]
  · simp [execOtherFrame, h]

/-- Every other frame is dropped and counted in RX_DROP (R147, R148). -/
theorem otherFrame_dropped {f : Sys2Proof.Frame} (hf : f = .other ∨ f = .overrun ∨
      (∃ t, t ≠ s.net.localIp ∧ f = .arp t) ∨ (∃ t, t ≠ s.net.localIp6 ∧ f = .neighbour t) ∨
      (∃ t b, t ≠ s.net.localIp ∧ t ≠ s.net.localIp6 ∧ f = .echo t b) ∨ (port.val ∉ s.net.probing ∧ f = .echoReply)) :
    exec (.otherFrame port f) s = .next (odBump (0x2800 + port.val) 5 s) := by
  rw [exec_otherFrame]
  rcases hf with rfl | rfl | ⟨t, ht, rfl⟩ | ⟨t, ht, rfl⟩ | ⟨t, b, ht, ht6, rfl⟩ | ⟨hp, rfl⟩
  · simp [execOtherFrame, h]
  · simp [execOtherFrame, h]
  · simp [execOtherFrame, h, ht]
  · simp [execOtherFrame, h, ht]
  · simp [execOtherFrame, h, isLocal, ht, ht6]
  · simp [execOtherFrame, h, hp]

end

/-! ### Timers and paths of a queue pair (R143, R152, R155) -/

section
variable {s : State} {k : Nat} {q : QP} (hq : qpAt s k = some q)
include hq

/-- A timeout that counts retries the queue pair, whose report of that moment is kept (R143, R253). -/
theorem ackTimeout_retries (hsend : maySend q = true) (hm : s.mode ≠ .hold) (hports : portsDown s = false)
    (hsent : ∃ m ∈ q.sendQ, m.sent = true) (hloop : isLoop s q = false) :
    Retries (.ackTimeout k) s (qpMod k (fun q => { q with timedOut := some s.time }) s) k q := by
  have hnow : qpAt (qpMod k (fun q => { q with timedOut := some s.time }) s) k = some { q with timedOut := some s.time } := by
    rw [qpAt_qpMod_self, hq, Option.map_some]
  show Retries (.ackTimeout k) s _ k { q with timedOut := some s.time }
  refine retries_of_retryQp hnow ?_
  show execAckTimeout k s = _
  unfold execAckTimeout
  rw [unlessHold_of_ne hm, hq]
  dsimp only
  rw [if_pos]
  simp only [hsend, hports, hloop, Bool.not_false, Bool.and_true, Bool.true_and, List.any_eq_true]
  exact hsent

theorem ackTimeout_stays (hsend : maySend q = false) : exec (.ackTimeout k) s = .next s := by
  show execAckTimeout k s = _
  unfold execAckTimeout
  rw [hq]
  simp [hsend, unlessHold]

theorem rnrTimer_resends (hm : s.mode ≠ .hold) (hw : q.rnrWait = true) :
    exec (.rnrTimer k) s = .next (resend k (qpMod k (fun q => { q with rnrWait := false }) s)) := by
  show execRnrTimer k s = _
  unfold execRnrTimer
  rw [unlessHold_of_ne hm, hq]
  dsimp only
  rw [if_pos hw]

theorem rnrTimer_stays (hw : q.rnrWait = false) : exec (.rnrTimer k) s = .next s := by
  show execRnrTimer k s = _
  unfold execRnrTimer
  rw [hq]
  simp [hw, unlessHold]

/-- REARM loads the alternate, and goes on by what the queue pair's own plane is and whether it was held (Table 07-3). -/
theorem rearm_loads (hpath : q.path = .rearm) (hfit : planeFit s (1 - q.plane) = true) : exec (.rearm k) s =
    .next (let u := qpMod k (fun q => { q with path := .armed, heldSince := none }) s
      if planeFit s q.plane = false then migrate k u else if q.heldSince.isSome = true then resume k u else u) := by
  show execRearm k s = _
  unfold execRearm
  rw [hq]
  simp [hpath, hfit]

theorem rearm_stays (h : q.path ≠ .rearm ∨ planeFit s (1 - q.plane) = false) : exec (.rearm k) s = .next s := by
  show execRearm k s = _
  unfold execRearm
  rw [hq]
  dsimp only
  rw [if_neg]
  rcases h with h | h <;> simp [h]

theorem pathHold_fails (hheld : q.heldSince.isSome = true) (hpath : q.path ≠ .rearm) (hm : s.mode ≠ .hold)
    (hports : portsDown s = false) : exec (.pathHold k) s = .next (qpFail k 0x0701 s) := by
  show execPathHold k s = _
  unfold execPathHold
  rw [unlessHold_of_ne hm, hq]
  simp [hheld, hpath, hports]

theorem pathHold_stays (h : q.heldSince = none ∨ q.path = .rearm ∨ s.mode = .hold ∨ portsDown s = true) :
    exec (.pathHold k) s = .next s := by
  show execPathHold k s = _
  unfold execPathHold unlessHold
  rw [hq]
  rcases h with h | h | h | h <;> simp [h]

end

/-! ### Planes (R151, R154, Table 07-4) -/

section
variable {s : State} (h : PlanesRun s)
include h

/-- The modes in which windows are checked and probes are sent. -/
theorem planesRun_gate :
    (!(decide (s.mode = .run) || decide (s.mode = .drain) || decide (s.mode = .freeze)) || portsDown s) = false := by
  obtain ⟨hm, hports⟩ := h
  rcases hm with hm | hm | hm <;> simp [hm, hports]

section
variable {plane : Fin 2} {a b : PortWindow} {c : State} {r : Nat}
  (hc : c = countFec (2 * plane.val + 1) b (countFec (2 * plane.val) a s))
  (hr : r = if windowFails c a = 0 then windowFails c b else windowFails c a)
include hc hr

/-- A window counts its FEC errors; one that fails takes the plane out, with its queue pairs (R151, R152). -/
theorem fitnessWindow_ends : exec (.fitnessWindow plane a b) s = .next (
    if r = 0 then c
    else
      let u := odSet (0x2810 + plane.val) 2 r (odSet (0x2810 + plane.val) 1 1 c)
      if planeState c plane.val = 1 ∨ planeState c plane.val = 2 then u
      else (((loseStandby plane.val u).net.qps.filter fun e => e.2.plane = plane.val).map (·.1)).foldl
        (fun s q => leavePlane q s) (loseStandby plane.val u)) := by
  show execFitnessWindow plane a b s = _
  unfold execFitnessWindow windowEnds
  rw [planesRun_gate h, if_neg Bool.false_ne_true]
  dsimp only
  rw [← hc, ← hr]
  simp only [Bool.or_eq_true, decide_eq_true_eq]

end

theorem probe_sends {plane : Fin 2} {target : Nat} (ht : target = beNat (leBytes 16 (od s (0x2810 + plane.val) 3)))
    (hp : planeState s plane.val = 1 ∨ planeState s plane.val = 2) : exec (.probe plane) s =
    .next (emit (.frame (2 * plane.val + 1) (.echo target [])) (emit (.frame (2 * plane.val) (.echo target []))
      (netMod (fun n => { n with
        probing := n.probing.filter (fun p => p / 2 ≠ plane.val) ++ [2 * plane.val, 2 * plane.val + 1] })
        (odSet (0x2810 + plane.val) 1 2 s)))) := by
  have hgate := planesRun_gate h
  show execProbe plane s = _
  unfold execProbe
  dsimp only
  rw [if_neg, ht]
  rw [hgate, Bool.false_or]
  rcases hp with hp | hp <;> simp [hp]

end

section
variable {s : State}

theorem probeTimeout_counts {port : Fin 4} (hp : port.val ∈ s.net.probing) : exec (.probeTimeout port) s =
    .next (odBump (0x2810 + port.val / 2) 4 (if planeState s (port.val / 2) = 2 then
      odSet (0x2810 + port.val / 2) 1 1 (netMod (fun n => { n with probing := n.probing.filter (· ≠ port.val) }) s)
    else netMod (fun n => { n with probing := n.probing.filter (· ≠ port.val) }) s)) := by
  show execProbeTimeout port s = _
  unfold execProbeTimeout
  rw [if_pos (List.contains_iff_mem.mpr hp)]
  rfl

theorem probeTimeout_stays {port : Fin 4} (hp : port.val ∉ s.net.probing) : exec (.probeTimeout port) s = .next s := by
  show execProbeTimeout port s = _
  unfold execProbeTimeout
  rw [if_neg (by simpa using hp)]

/-- A plane in probing whose probes have all been answered, and on which no queue pair is held, is standby (R154). -/
theorem repairTime_standby {plane : Fin 2} (hp : planeState s plane.val = 2) (hprobes : ∀ x ∈ s.net.probing, x / 2 ≠ plane.val)
    (hheld : ∀ e ∈ s.net.qps, e.2.plane = plane.val → e.2.heldSince = none ∨ e.2.err = true) :
    exec (.repairTime plane) s = .next (netMod (fun n => { n with qps := n.qps.map fun e => (e.1, standbyQp plane.val e.2) })
      (odSet (0x2810 + plane.val) 2 0 (odSet (0x2810 + plane.val) 1 3 s))) := by
  have hnone : s.net.qps.filter (fun e => e.2.plane = plane.val && e.2.heldSince.isSome && !e.2.err) = [] := by
    refine List.filter_eq_nil_iff.mpr fun e he => ?_
    by_cases hplane : e.2.plane = plane.val
    · rcases hheld e he hplane with hn | hn <;> simp [hn]
    · simp [hplane]
  show execRepairTime plane s = _
  unfold execRepairTime becomeStandby
  dsimp only
  rw [if_neg (by simpa [hp] using hprobes), hnone]
  rfl

theorem repairTime_stays {plane : Fin 2} (h : planeState s plane.val ≠ 2 ∨ ∃ x ∈ s.net.probing, x / 2 = plane.val) :
    exec (.repairTime plane) s = .next s := by
  show execRepairTime plane s = _
  unfold execRepairTime
  dsimp only
  rw [if_pos (by simpa using h)]

theorem portTrainingDone_trains {port : Fin 4} (up : Bool) (h : od s (0x2800 + port.val) 1 = 1) :
    exec (.portTrainingDone port up) s = .next (odSet (0x2800 + port.val) 1 (if up then 2 else 0) s) := by
  show execPortTrainingDone port up s = _
  unfold execPortTrainingDone
  exact congrArg _ (if_pos h)

theorem portTrainingDone_stays {port : Fin 4} (up : Bool) (h : od s (0x2800 + port.val) 1 ≠ 1) :
    exec (.portTrainingDone port up) s = .next s := by
  show execPortTrainingDone port up s = _
  unfold execPortTrainingDone
  exact congrArg _ (if_neg h)

end

end Sys2Proof.Machine
end


section
/-! PROOFS. The commands of the network complete with their own effect (R143 to R156, Tables 07-3, 07-4, 07-6). -/

namespace Sys2Proof.Machine

section
variable {s v w : State} {p : Pkt} {k : Nat} {q : QP}

/-! ### Requests and acknowledgements as commands -/

/-- An ACK that is not late removes what it covers; one at the moment of its reported timeout is LATE (R143, R253). -/
theorem ackPacket_acts (h : PktTaken s v p k q) :
    (q.timedOut ≠ some s.time → ackedBy q p.psn ≠ [] → (∀ m ∈ ackedBy q p.psn, m.why = .plain) →
      exec (.ackPacket p) s = .next (qpMod k (fun q' =>
        { q' with sendQ := q'.sendQ.drop (ackedBy q p.psn).length, retries := 0, rnrs := 0 }) v)) ∧
    (q.timedOut = some s.time → exec (.ackPacket p) s =
      .next (odBump (0x3100 + 0xBC) 6 (qpMod k (fun q => { q with timedOut := none }) v))) := by
  have hexec : exec (.ackPacket p) s = .next (ackReply k p.psn v) :=
    next_of_eq (replyArrives_taken h fun k s => ackReply k p.psn s)
  unfold ackReply at hexec
  rw [h.queue] at hexec
  dsimp only at hexec
  rw [h.time] at hexec
  refine ⟨fun ht hsome hplain => ?_, fun ht => ?_⟩
  · rw [hexec, if_neg ht, ackTo_plain h.queue hsome hplain]
  · rw [hexec, if_pos ht]

/-- A NAK that acknowledges nothing acts by its code (R143, R144, R159). -/
theorem roceNak_acts (h : PktTaken s v p k q) (hnone : ackedBy q (psnAdd p.psn (2 ^ 24 - 1)) = []) :
    (∀ d, (q.rnrRetry ≥ 7 ∨ q.rnrs + 1 ≤ q.rnrRetry) → exec (.roceNak p (.rnr d)) s =
      .next (qpMod k (fun q' => { q' with rnrWait := true, rnrs := q'.rnrs + 1 }) v)) ∧
    (∀ d, q.rnrRetry < 7 → q.rnrRetry < q.rnrs + 1 → exec (.roceNak p (.rnr d)) s = .next (qpFail k 0x0702 v)) ∧
    Retries (.roceNak p .sequence) s v k q ∧
    exec (.roceNak p .invalidRequest) s = .next (qpFail k 0x0702 v) ∧
    exec (.roceNak p .remoteAccess) s = .next (accessNak k v) := by
  have hq := h.queue
  have hexec : ∀ code, exec (.roceNak p code) s = execRoceNak p code s := fun _ => rfl
  have hack := ackTo_none hq hnone
  refine ⟨fun d hmay => ?_, fun d hfew hover => ?_, retries_of_retryQp hq ?_, ?_, ?_⟩
  · have hno : ¬ (q.rnrRetry < 7 ∧ q.rnrRetry < q.rnrs + 1) := by omega
    rw [hexec, execRoceNak, replyArrives_taken h]
    simp only [hack, hq, Bool.and_eq_true, decide_eq_true_eq, if_neg hno]
  · rw [hexec, execRoceNak, replyArrives_taken h]
    simp only [hack, hq, hfew, hover, decide_true, Bool.and_self, if_true]
  · rw [hexec, execRoceNak, replyArrives_taken h]
    simp only [hack]
  · rw [hexec, execRoceNak, replyArrives_taken h]
    simp only [hack]
  · rw [hexec, execRoceNak, replyArrives_taken h]
    simp only [hack]

end

/-- Settles O57, command by command: requests in order, the fabric, acknowledgements, periods, other frames, the timers and paths
of a queue pair, windows, probes and port training. -/
theorem networkCommandsComplete : Obligations.NetworkCommandsComplete := by
  unfold Obligations.NetworkCommandsComplete
  intro s v w p k q
  refine ⟨?requests, ?fabric, ?answers, fun n => rfl, ?frames, ?pair, ?windows, ?probes, ?probeTimeouts, ?repair, ?training⟩
  case requests =>
    intro h
    have hq := h.1.queue
    refine ⟨fun payload x huse hlen hx htakes hw => ?_, fun key address data a huse hlen hr hw => ?_,
      fun key address len a b huse hlen hr hb => ?_, fun key address data imm z r huse hlen hz hr hzone hfit hw => ?_,
      fun msg huse hlen => ?_, fun msg huse hlen => ?_, fun msg huse hlen => ?_⟩
    · exact next_of_eq ((wireArrive_next h _ false (fun k s => rxSend k payload s)).1
        (rxSend_submits hq huse hlen hx htakes hw))
    · exact next_of_eq ((wireArrive_next h _ false (fun k s => rxWrite k key address data s)).1
        (rxWrite_stores hq huse hlen hr hw))
    · exact next_of_eq ((wireArrive_next h _ true (fun k s => rxRead k key address len s)).2 b
        (rxRead_answers hq huse hlen hr hb))
    · exact next_of_eq ((wireArrive_next h _ false (fun k s => rxWriteImm k key address data imm.toNat s)).1
        (rxWriteImm_lands hq huse hlen (by rw [h.1.net]; exact hz) hr hzone hfit hw))
    · obtain ⟨hopen, -, -⟩ := controlArrives_acts (k := k) (n := q.inst) (v := v) hlen
      exact next_of_eq (controlRow_wire h huse hlen (hopen rfl))
    · obtain ⟨-, hgrant, -⟩ := controlArrives_acts (k := k) (n := q.inst) (v := v) hlen
      exact next_of_eq (controlRow_wire h huse hlen (hgrant rfl))
    · obtain ⟨-, -, hend⟩ := controlArrives_acts (k := k) (n := q.inst) (v := v) hlen
      exact next_of_eq (controlRow_wire h huse hlen (hend rfl))
  case fabric =>
    intro f h
    refine ⟨fun b payload hm hrx => ?_, fun key a b key' a' b' hm hrx => ?_, fun key a b imm key' a' b' imm' hm hrx => ?_⟩
    · have hact : rxSend f.dst (sendPayload f.msg) s = (.ok, w) := by rw [hm]; exact hrx
      have hctl : ∀ ty, b.head? = some ty → controlRow ty .fabric payload s = fabricTaken f w := by
        intro ty hty
        unfold controlRow
        exact fabricArrive_takes h (by rw [hm]; simp [isSendMsg, sendPayload, hty]) hact
      exact ⟨next_of_eq (fabricArrive_takes h (by rw [hm]; rfl) hact),
        fun hty => next_of_eq (hctl 1 hty), fun hty => next_of_eq (hctl 2 hty),
        fun hty => next_of_eq (hctl 3 hty)⟩
    · exact next_of_eq (fabricArrive_takes h (by rw [hm]) (by rw [hm]; exact hrx))
    · exact next_of_eq (fabricArrive_takes h (by rw [hm]) (by rw [hm]; exact hrx))
  case answers =>
    intro h
    obtain ⟨hacks, hlate⟩ := ackPacket_acts h
    refine ⟨?_, hlate, roceNak_acts h, ?_⟩
    · rintro done rfl ht hsome hplain
      exact hacks ht hsome hplain
    · exact next_of_eq (replyArrives_taken h fun k s => qpMod k (onCnp (od s 0x2820 1)) s)
  case frames =>
    intro port h
    obtain ⟨harp, hnd, hecho, hreply, hpause⟩ := otherFrame_taken h
    exact ⟨harp, hnd, hecho, hreply, hpause, fun f hf => otherFrame_dropped h hf⟩
  case pair =>
    intro hq
    refine ⟨fun hsend hm hports hsent hloop => ackTimeout_retries hq hsend hm hports hsent hloop, ackTimeout_stays hq,
      rnrTimer_resends hq, rnrTimer_stays hq, fun hpath hfit => ?_, rearm_stays hq, pathHold_fails hq, pathHold_stays hq⟩
    rw [rearm_loads hq hpath hfit]
    refine ⟨fun hown hfree => ?_, fun hown hheld => ?_, fun hown => ?_⟩
    · simp [hown, hfree]
    · simp [hown, hheld]
    · simp [hown]
  case windows =>
    intro plane a b r c h hc hr
    rw [fitnessWindow_ends h hc hr]
    refine ⟨fun hr0 => ?_, fun hr0 hout => ?_, fun x hr0 h1 h2 hx => ?_⟩
    · rw [if_pos hr0]
    · rw [if_neg hr0, if_pos hout]
    · rw [if_neg hr0, if_neg (not_or.mpr ⟨h1, h2⟩), hx]
  case probes =>
    intro plane target ht h hp
    exact probe_sends h ht hp
  case probeTimeouts =>
    rintro port g rfl
    exact ⟨probeTimeout_counts, probeTimeout_stays⟩
  case repair =>
    intro plane
    exact ⟨fun hp hprobes hheld => repairTime_standby hp hprobes hheld, repairTime_stays⟩
  case training =>
    intro port up
    exact ⟨portTrainingDone_trains up, portTrainingDone_stays up⟩

end Sys2Proof.Machine
end


section
/-! PROOFS. What an access of a unit other than a core leaves: tasks, jobs, the network and the time (R219, R260, R264, R329). -/

namespace Sys2Proof.Machine

/-- Nothing of the tasks, the jobs and the network differs, and no time has passed. -/
structure WorkStays (s u : State) : Prop where
  js : u.js = s.js
  net : u.net = s.net
  time : u.time = s.time

theorem WorkStays.refl (s : State) : WorkStays s s := ⟨rfl, rfl, rfl⟩

theorem WorkStays.trans {a b c : State} (h : WorkStays a b) (k : WorkStays b c) : WorkStays a c :=
  ⟨k.js.trans h.js, k.net.trans h.net, k.time.trans h.time⟩

theorem workStays_foldl {α : Type} {f : State → α → State} (hf : ∀ s a, WorkStays s (f s a)) (l : List α) (s : State) :
    WorkStays s (l.foldl f s) :=
  List.foldlRecOn l f (motive := WorkStays s) (.refl s) fun u hu a _ => hu.trans (hf u a)

theorem workStays_foldPair {α β : Type} {f : State × β → α → State × β} (hf : ∀ x a, WorkStays x.1 (f x a).1) (l : List α)
    (x : State × β) : WorkStays x.1 (l.foldl f x).1 :=
  List.foldlRecOn l f (motive := fun y => WorkStays x.1 y.1) (.refl x.1) fun u hu a _ => hu.trans (hf u a)

section
variable {s u : State} (h : WorkStays s u)
include h

theorem WorkStays.taskAt (k : Nat) : taskAt u k = Machine.taskAt s k := taskAt_of_tasks (by rw [h.js]) k

theorem WorkStays.jobs : u.js.jobs = s.js.jobs := by rw [h.js]

end

/-! ### Requests to the channels, and the shared caches -/

theorem workStays_requestBursts (port pa n : Nat) (write : Bool) (s : State) :
    WorkStays s (requestBursts port pa n write s) := by
  obtain ⟨r, hr⟩ := requestBursts_onlyReqs port pa n write s
  rw [hr]
  exact ⟨rfl, rfl, rfl⟩

theorem workStays_l2Parity (k set way mask : Nat) (s : State) : WorkStays s (l2Parity k set way mask s).1 := by
  unfold l2Parity
  cases l2At (cluster s k) set way with
  | none => exact .refl s
  | some l =>
    dsimp only
    split
    · exact .refl s
    · split
      · exact ⟨rfl, rfl, rfl⟩
      · refine .trans ?_ (workStays_foldl (fun u i => ?_) _ _) <;> exact ⟨rfl, rfl, rfl⟩

theorem workStays_snoopLine (k need line : Nat) (x : State × Option Nat) : WorkStays x.1 (snoopLine k need line x).1 := by
  unfold snoopLine
  split
  · exact .refl _
  · split
    · exact .refl _
    · exact workStays_l2Parity _ _ _ _ _

theorem workStays_snoopRead (pa n : Nat) (s : State) : WorkStays s (snoopRead pa n s) := by
  unfold snoopRead snoopLost
  refine workStays_foldPair (x := (s, none)) (fun x e => ?_) _
  split
  · exact .refl _
  · exact workStays_foldPair (fun y line => workStays_snoopLine _ _ _ _) _ _

/-! ### Translation and the dirty-page log -/

theorem workStays_tlbFill (unit : Nat) (ctx : Ctx) (va : Nat) (l : Leaf) (s : State) : WorkStays s (tlbFill unit ctx va l s) := by
  unfold tlbFill
  split <;> exact ⟨rfl, rfl, rfl⟩

theorem workStays_requestWalk (unit : Nat) (ctx : Ctx) (va : Nat) (s : State) : WorkStays s (requestWalk unit ctx va s) := by
  unfold requestWalk
  split
  · exact .refl s
  · exact workStays_foldl (fun u pa => workStays_requestBursts _ _ _ _ u) _ _

theorem workStays_logWrite (ctx : Ctx) (va n : Nat) (s : State) : WorkStays s (logWrite ctx va n s) := by
  unfold logWrite
  split
  · dsimp only
    split
    · exact .refl s
    · refine workStays_foldl (fun u j => ?_) _ _
      split <;> exact ⟨rfl, rfl, rfl⟩
  · exact .refl s

/-! ### Reads and writes -/

theorem workStays_devReadPieces (unit : Nat) (ctx : Ctx) (ps : List (Nat × Nat)) (s : State) :
    WorkStays s (devReadPieces unit ctx ps s).2 := by
  induction ps generalizing s with
  | nil => exact .refl s
  | cons p ps ih =>
    obtain ⟨va, n⟩ := p
    unfold devReadPieces
    split
    · exact workStays_requestWalk _ _ _ _
    · rename_i pa l _
      have hsnoop : WorkStays s (snoopRead pa n (tlbFill unit ctx va l (requestWalk unit ctx va s))) :=
        ((workStays_requestWalk _ _ _ _).trans (workStays_tlbFill _ _ _ _ _)).trans (workStays_snoopRead _ _ _)
      have hburst := hsnoop.trans (workStays_requestBursts (portOf unit) pa n false _)
      dsimp only
      split
      · exact hsnoop
      · split
        · exact hburst
        · have hrest := hburst.trans (ih _)
          split <;> rename_i e <;> rw [e] at hrest <;> exact hrest

theorem workStays_devRead {unit va n : Nat} {ctx : Ctx} {s u : State} {r : Except AccFail (List Byte)}
    (h : devRead unit ctx va n s = (r, u)) : WorkStays s u := by
  have := workStays_devReadPieces unit ctx (pageSplit va n) s
  rwa [show devReadPieces unit ctx (pageSplit va n) s = (r, u) from h] at this

theorem workStays_devWritePieces (unit : Nat) (ctx : Ctx) (bytes : List Byte) (base : Nat) (ps : List (Nat × Nat)) (s : State) :
    WorkStays s (devWritePieces unit ctx bytes base ps s).2 := by
  induction ps generalizing s with
  | nil => exact .refl s
  | cons p ps ih =>
    obtain ⟨va, n⟩ := p
    unfold devWritePieces
    split
    · exact workStays_requestWalk _ _ _ _
    · rename_i pa l _
      have hfill : WorkStays s (tlbFill unit ctx va l (requestWalk unit ctx va s)) :=
        (workStays_requestWalk _ _ _ _).trans (workStays_tlbFill _ _ _ _ _)
      dsimp only
      split
      · exact hfill
      · have hput : ∀ x : State, WorkStays x (physPut none pa (slice bytes (va - base) n) x) := fun _ => ⟨rfl, rfl, rfl⟩
        exact (((hfill.trans (workStays_logWrite _ _ _ _)).trans (hput _)).trans (workStays_requestBursts _ _ _ _ _)).trans (ih _)

theorem workStays_devWrite {unit va : Nat} {ctx : Ctx} {bytes : List Byte} {s u : State} {r : Option AccFail}
    (h : devWrite unit ctx va bytes s = (r, u)) : WorkStays s u := by
  have := workStays_devWritePieces unit ctx bytes va (pageSplit va bytes.length) s
  rwa [show devWritePieces unit ctx bytes va (pageSplit va bytes.length) s = (r, u) from h] at this

theorem workStays_hostWrite {link va : Nat} {bytes : List Byte} {s u : State} {r : Option AccFail}
    (h : hostWrite link va bytes s = (r, u)) : WorkStays s u := by
  unfold hostWrite at h
  split at h <;> cases h <;> exact ⟨rfl, rfl, rfl⟩

end Sys2Proof.Machine
end

section
/-! PROOFS. How a stage that is at work runs, emits and ends (R18, R66, R70, R241). -/

namespace Sys2Proof.Machine

/-! ### The task of one slot -/

theorem tfind_of_mem {α : Type} {t : Tbl α} {k : Nat} {v : α} (hs : tsorted t = true) (h : (k, v) ∈ t) : tfind t k = some v := by
  induction t with
  | nil => cases h
  | cons e t ih =>
    obtain ⟨i, x⟩ := e
    obtain ⟨habove, ht⟩ := (tsorted_cons i x t).mp hs
    rcases List.mem_cons.mp h with hhead | htail
    · cases hhead
      simp [tfind]
    · have : i ≠ k := (habove _ htail).ne
      simpa [tfind, this] using ih ht htail

/-- A change of the task of a slot that changes nothing in it. -/
theorem taskMod_same {s : State} {slot : Nat} {t : Task} {f : Task → Task} (hs : tsorted s.js.tasks = true)
    (ht : taskAt s slot = some t) (hf : f t = t) : taskMod slot f s = s := by
  have hmap : s.js.tasks.map (fun (k, t) => if k = slot then (k, f t) else (k, t)) = s.js.tasks := by
    refine (List.map_congr_left fun e he => ?_).trans (List.map_id _)
    obtain ⟨k, x⟩ := e
    dsimp only
    split
    · rename_i hk
      subst hk
      have hx : some x = some t := (tfind_of_mem hs he).symm.trans ht
      rw [Option.some.inj hx, hf]
      rfl
    · rfl
  unfold taskMod
  rw [hmap]

theorem taskMod_taskMod (slot : Nat) (f g : Task → Task) (s : State) :
    taskMod slot g (taskMod slot f s) = taskMod slot (fun t => g (f t)) s := by
  unfold taskMod
  simp only [List.map_map]
  congr 3
  funext ⟨k, t⟩
  by_cases hk : k = slot <;> simp [hk]

theorem taskAt_taskMod {s : State} {slot : Nat} {t : Task} (ht : taskAt s slot = some t) (f : Task → Task) :
    taskAt (taskMod slot f s) slot = some (f t) := by
  rw [taskAt_taskMod_self, ht, Option.map_some]

theorem taskAt_engMod {s : State} {slot : Nat} {t : Task} (ht : taskAt s slot = some t) (f : Eng → Eng) :
    taskAt (engMod slot f s) slot = some { t with eng := f t.eng } :=
  taskAt_taskMod ht _

theorem taskImg_of_jobs {s u : State} (h : u.js.jobs = s.js.jobs) (t : Task) : taskImg u t = taskImg s t := by
  unfold taskImg
  rw [jobOf_of_jobs h]

theorem taskStage_of_jobs {s u : State} (h : u.js.jobs = s.js.jobs) (t : Task) : taskStage u t = taskStage s t := by
  unfold taskStage
  rw [taskImg_of_jobs h]

/-! ### A stage at work -/

section
variable {s : State} {slot op : Nat} {t : Task} (h : StageAt s slot op t)
include h

theorem StageAt.task : taskAt s slot = some t := h.1

theorem StageAt.running : isRunning t = true := by
  obtain ⟨-, hrun, -⟩ := h
  exact hrun

theorem StageAt.op_eq : (taskStage s t).op = op := by
  obtain ⟨-, -, -, hop, -⟩ := h
  exact hop

theorem StageAt.results : t.eng.results = [] := by
  obtain ⟨-, -, -, -, -, -, hres, -⟩ := h
  exact hres

theorem StageAt.sorted : tsorted s.js.tasks = true := by
  obtain ⟨-, -, -, -, -, -, -, hs⟩ := h
  exact hs

/-- Nothing waits to leave, so nothing leaves. -/
theorem StageAt.drain : drain slot s = s := by
  obtain ⟨ht, hrun, -, -, -, -, hres, hs⟩ := h
  unfold Machine.drain
  rw [ht]
  dsimp only
  rw [if_pos hrun, hres]
  show engMod slot (fun g => { g with results := [] }) s = s
  refine taskMod_same hs ht ?_
  rw [← hres]

/-- Emitting no element leaves the state. -/
theorem StageAt.emit_nothing (port : Nat) : emitElems slot port [] s = s := by
  have hid : engMod slot (fun g => { g with results := g.results ++ [] }) s = s :=
    taskMod_same h.sorted h.task (by simp only [List.append_nil])
  unfold emitElems emitOn
  rw [List.map_nil, hid, h.drain]

/-- The stage's unit acts (R241). -/
theorem StageAt.runs {ops : List Nat} (hop : op ∈ ops) (f : Task → State → State) : runStage slot ops f s = f t s := by
  have hdrain := h.drain
  obtain ⟨ht, hrun, hon, rfl, hdone, hlast, hres, -⟩ := h
  unfold runStage
  rw [ht]
  dsimp only
  rw [if_pos (by simp [hrun, hon, hop, hdone]), hdrain, ht]
  simp [hrun, hres, hlast]

end

/-- A stage that ends has ended its outputs and has no more to do (R66). -/
theorem stageDone_ends {s : State} {slot : Nat} {t : Task} (ht : taskAt s slot = some t) :
    ∃ t', taskAt (stageDone slot s) slot = some t' ∧ t'.eng.done = true ∧ ∀ o ∈ t'.outs, o.ended = true := by
  refine ⟨_, taskAt_engMod (taskAt_taskMod ht _) _, rfl, fun o ho => ?_⟩
  obtain ⟨p, -, rfl⟩ := List.mem_map.mp ho
  rfl

/-! ### Emitting -/

/-- A change of a task that reaches its outputs and the results that wait alone. -/
def OutsOnly (f : Task → Task) : Prop :=
  ∀ t, ∃ outs results, f t = { t with outs := outs, eng := { t.eng with results := results } }

theorem leaveOf_uncapped {s : State} {t : Task} (hcap : (taskStage s t).outCap = 0) (port : Nat) : leaveOf s t port ≠ .over := by
  unfold leaveOf
  split
  · exact Leave.noConfusion
  · rename_i p hp
    have hallow : capAllows s t port 1 = true := by simp [capAllows, hp, hcap]
    rw [hallow]
    split <;> exact Leave.noConfusion

theorem lmod_length {α : Type} (l : List α) (n : Nat) (f : α → α) : (lmod l n f).length = l.length := by
  induction l generalizing n with
  | nil => rfl
  | cons a l ih => cases n <;> simp [lmod, ih]

theorem lmod_getElem?_ne {α : Type} (l : List α) {n m : Nat} (f : α → α) (h : m ≠ n) : (lmod l n f)[m]? = l[m]? := by
  induction l generalizing n m with
  | nil => simp [lmod]
  | cons a l ih =>
    cases n with
    | zero => cases m with
      | zero => exact absurd rfl h
      | succ m => rfl
    | succ n => cases m with
      | zero => rfl
      | succ m => exact ih fun e => h (congrArg (· + 1) e)

/-- The task with an element at the end of an output port. -/
def joinPort (port : Nat) (e : Elem) (t : Task) : Task :=
  { t with outs := lmod t.outs port fun p => { p with buf := p.buf ++ [e], emitted := p.emitted + 1 } }

/-- The task with elements that wait to leave. -/
def resultsSet (xs : List (Nat × Elem)) (t : Task) : Task := { t with eng := { t.eng with results := xs } }

theorem joinPort_outsOnly (port : Nat) (e : Elem) : OutsOnly (joinPort port e) := fun t =>
  ⟨(joinPort port e t).outs, t.eng.results, rfl⟩

theorem resultsSet_outsOnly (xs : List (Nat × Elem)) : OutsOnly (resultsSet xs) := fun t => ⟨t.outs, xs, rfl⟩

theorem OutsOnly.comp {f g : Task → Task} (hf : OutsOnly f) (hg : OutsOnly g) : OutsOnly fun t => g (f t) := by
  intro t
  obtain ⟨outs, results, hft⟩ := hf t
  obtain ⟨outs', results', hgt⟩ := hg (f t)
  rw [hft] at hgt
  exact ⟨outs', results', by dsimp only; rw [hft, hgt]⟩

/-- Elements of which none has left. -/
theorem gave_waiting (t : Task) (xs : List (Nat × Elem)) : Gave t (resultsSet xs t) xs := by
  refine ⟨0, rfl, rfl, fun p o o' ho ho' => ?_⟩
  cases ho.symm.trans ho'
  simp

/-- The first element has joined its port, and then the others leave. -/
theorem gave_cons {t u : Task} {x : Nat × Elem} {xs : List (Nat × Elem)} (h : Gave (joinPort x.1 x.2 t) u xs) :
    Gave t u (x :: xs) := by
  obtain ⟨k, hres, hlen, hbuf⟩ := h
  refine ⟨k + 1, hres, hlen.trans (lmod_length _ _ _), fun p o o' ho ho' => ?_⟩
  by_cases hp : p = x.1
  · subst hp
    have := hbuf x.1 _ o' (by rw [joinPort, lmod_getElem?_self, ho]; rfl) ho'
    simpa using this
  · have := hbuf p o o' (by rw [joinPort, lmod_getElem?_ne _ _ hp]; exact ho) ho'
    simpa [List.filter_cons, Ne.symm hp] using this

/-- Without an OUT_CAP, elements leave in order while their ports take them, and the others wait (R18). -/
theorem leaveAll_gives {slot : Nat} (xs : List (Nat × Elem)) {s : State} {t : Task} (ht : taskAt s slot = some t)
    (hcap : (taskStage s t).outCap = 0) : ∃ f, leaveAll slot xs s = taskMod slot f s ∧ OutsOnly f ∧ Gave t (f t) xs := by
  induction xs generalizing s t with
  | nil => exact ⟨resultsSet [], rfl, resultsSet_outsOnly [], gave_waiting t []⟩
  | cons x xs ih =>
    unfold leaveAll
    rw [ht]
    dsimp only
    split
    · obtain ⟨f, hf, honly, hgave⟩ := ih (taskAt_taskMod ht (joinPort x.1 x.2)) hcap
      exact ⟨_, hf.trans (taskMod_taskMod _ _ _ _), (joinPort_outsOnly _ _).comp honly, gave_cons hgave⟩
    · exact ⟨resultsSet (x :: xs), rfl, resultsSet_outsOnly _, gave_waiting t _⟩
    · rename_i hover
      exact absurd hover (leaveOf_uncapped hcap _)

theorem emitElems_gives {slot port : Nat} {es : List Elem} {s : State} {t : Task} (ht : taskAt s slot = some t)
    (hrun : isRunning t = true) (hres : t.eng.results = []) (hcap : (taskStage s t).outCap = 0) :
    ∃ f, emitElems slot port es s = taskMod slot f s ∧ OutsOnly f ∧ Gave t (f t) (es.map fun e => (port, e)) := by
  have hwait := taskAt_engMod ht fun g => { g with results := g.results ++ es.map fun e => (port, e) }
  obtain ⟨f, hf, honly, hgave⟩ := leaveAll_gives (es.map fun e => (port, e)) hwait hcap
  have hdrain : emitElems slot port es s = leaveAll slot (es.map fun e => (port, e))
      (engMod slot (fun g => { g with results := g.results ++ es.map fun e => (port, e) }) s) := by
    unfold emitElems emitOn drain
    rw [hwait]
    dsimp only
    rw [if_pos (by exact hrun), hres, List.nil_append]
  exact ⟨_, by rw [hdrain, hf]; exact taskMod_taskMod _ _ _ _,
    OutsOnly.comp (fun t => ⟨t.outs, t.eng.results ++ es.map fun e => (port, e), rfl⟩) honly, hgave⟩

end Sys2Proof.Machine
end


section
/-! PROOFS. What a queue pair holds to send once it has been given a message (R143, R152, R155). -/

namespace Sys2Proof.Machine

/-- Queue pairs may have been given more to send: none has entered the error state or lost a message, and of the rest of the work
nothing differs but what they have sent. -/
structure QpsGrow (s u : State) : Prop where
  js : u.js = s.js
  sends : u.net.sends = s.net.sends
  qps : ∀ k q, qpAt s k = some q → ∃ q', qpAt u k = some q' ∧ q'.err = q.err ∧
    ∀ x ∈ q.sendQ, ∃ x' ∈ q'.sendQ, x'.msg = x.msg

theorem QpsGrow.of_same {s u : State} (hjs : u.js = s.js) (hsends : u.net.sends = s.net.sends) (hqps : u.net.qps = s.net.qps) :
    QpsGrow s u :=
  ⟨hjs, hsends, fun k q hq => ⟨q, by unfold qpAt at hq ⊢; rw [hqps, hq], rfl, fun x hx => ⟨x, hx, rfl⟩⟩⟩

theorem QpsGrow.refl (s : State) : QpsGrow s s := .of_same rfl rfl rfl

theorem QpsGrow.trans {a b c : State} (h : QpsGrow a b) (g : QpsGrow b c) : QpsGrow a c where
  js := g.js.trans h.js
  sends := g.sends.trans h.sends
  qps k q hq := by
    obtain ⟨q', hq', herr, hmsgs⟩ := h.qps k q hq
    obtain ⟨q'', hq'', herr', hmsgs'⟩ := g.qps k q' hq'
    refine ⟨q'', hq'', herr'.trans herr, fun x hx => ?_⟩
    obtain ⟨y, hy, hyx⟩ := hmsgs x hx
    obtain ⟨z, hz, hzy⟩ := hmsgs' y hy
    exact ⟨z, hz, hzy.trans hyx⟩

theorem QpsGrow.emit {s u : State} (h : QpsGrow s u) (m : OutMsg) : QpsGrow s (emit m u) := h.trans (.of_same rfl rfl rfl)

theorem qpsGrow_foldl {α : Type} {f : State → α → State} (hf : ∀ s a, QpsGrow s (f s a)) (l : List α) (s : State) :
    QpsGrow s (l.foldl f s) :=
  List.foldlRecOn l f (motive := QpsGrow s) (.refl s) fun u hu a _ => hu.trans (hf u a)

section
variable {s u : State} (h : QpsGrow s u)
include h

theorem QpsGrow.taskAt (k : Nat) : taskAt u k = Machine.taskAt s k := taskAt_of_tasks (by rw [h.js]) k

theorem QpsGrow.xsendOf (jid stage : Nat) : xsendOf u jid stage = Machine.xsendOf s jid stage := by
  unfold Machine.xsendOf
  rw [h.sends]

/-- What has been posted stays posted. -/
theorem QpsGrow.posted {k : Nat} {m : RoceMsg} (hp : Posted s k m) : Posted u k m := by
  obtain ⟨q, hq, x, hx, hm⟩ := hp
  obtain ⟨q', hq', -, hmsgs⟩ := h.qps k q hq
  obtain ⟨y, hy, hyx⟩ := hmsgs x hx
  exact ⟨q', hq', y, hy, hyx.trans hm⟩

end

theorem qpAt_qpMod_ne {k m : Nat} (f : QP → QP) (s : State) (h : m ≠ k) : qpAt (qpMod k f s) m = qpAt s m :=
  tfind_map_ne _ _ _ _ h

/-- A change of a queue pair that keeps its messages and does not fail it. -/
theorem qpsGrow_qpMod {k : Nat} {f : QP → QP} (herr : ∀ q, (f q).err = q.err)
    (hmsgs : ∀ q, ∀ x ∈ q.sendQ, ∃ x' ∈ (f q).sendQ, x'.msg = x.msg) (s : State) : QpsGrow s (qpMod k f s) where
  js := rfl
  sends := rfl
  qps m q hq := by
    by_cases hm : m = k
    · subst hm
      exact ⟨f q, by rw [qpAt_qpMod_self, hq, Option.map_some], herr q, hmsgs q⟩
    · exact ⟨q, by rw [qpAt_qpMod_ne f s hm, hq], rfl, fun x hx => ⟨x, hx, rfl⟩⟩

theorem qpsGrow_qpMod_queue {k : Nat} {f : QP → QP} (herr : ∀ q, (f q).err = q.err) (hmsgs : ∀ q, (f q).sendQ = q.sendQ)
    (s : State) : QpsGrow s (qpMod k f s) :=
  qpsGrow_qpMod herr (fun q x hx => ⟨x, by rw [hmsgs]; exact hx, rfl⟩) s

theorem qpsGrow_sendPacket (k psn : Nat) (m : RoceMsg) (s : State) : QpsGrow s (sendPacket k psn m s) := by
  unfold sendPacket
  split
  · exact .refl s
  · split
    · exact .refl s
    · split
      · exact qpsGrow_qpMod_queue (by intro _; rfl) (by intro _; rfl) s
      · exact (qpsGrow_qpMod_queue (by intro _; rfl) (by intro _; rfl) s).emit _

theorem qpsGrow_transmit (k : Nat) (q : QP) (m : TxMsg) (s : State) : QpsGrow s (transmit k q m s) := by
  unfold transmit
  split
  · split
    · exact .refl s
    · exact .of_same rfl rfl rfl
  · exact qpsGrow_sendPacket _ _ _ _

theorem qpsGrow_flushQp (k : Nat) (s : State) : QpsGrow s (flushQp k s) := by
  unfold flushQp
  split
  · exact .refl s
  · split
    · exact .refl s
    · refine (qpsGrow_foldl (fun u m => qpsGrow_transmit _ _ _ u) _ _).trans (qpsGrow_qpMod ?_ ?_ _)
      · intro q
        rfl
      · exact fun q x hx => ⟨{ x with sent := true }, List.mem_map_of_mem hx, rfl⟩

/-- A queue pair in service that is given a message holds it to send. -/
theorem qpSend_posts {s : State} {k : Nat} {q : QP} (hq : qpAt s k = some q) (herr : q.err = false) (why : TxFor) (m : RoceMsg) :
    QpsGrow s (qpSend k why m s) ∧ Posted (qpSend k why m s) k m := by
  unfold qpSend
  rw [hq]
  dsimp only
  rw [if_neg (by simp [herr])]
  have hflush := qpsGrow_flushQp k (qpMod k (fun q' =>
    { q' with sendQ := q'.sendQ ++ [{ psn := q'.txPsn, count := packets q.mtu m.size, msg := m, why := why }]
              txPsn := psnAdd q'.txPsn (packets q.mtu m.size) }) s)
  refine ⟨.trans (qpsGrow_qpMod ?_ ?_ s) hflush, hflush.posted ?_⟩
  · intro q
    rfl
  · exact fun q x hx => ⟨x, List.mem_append_left _ hx, rfl⟩
  · exact ⟨_, by rw [qpAt_qpMod_self, hq]; rfl, _, List.mem_append_right _ List.mem_cons_self, rfl⟩

end Sys2Proof.Machine
end


section
/-! PROOFS. Tun channels: how a SOURCE and the sinks start, pass bytes and end, descriptors, requests (R334 to R351). -/

namespace Sys2Proof.Machine

/-! ### What a channel's commands run -/

section
variable {s : State} {slot code : Nat} {t : Task} {c : Instr} (h : StageAt s slot code t)
  (hc : (c, code) ∈ [(Instr.source slot, 0x80), (.sinkDevice slot, 0x81), (.sinkHost slot, 0x82)])
include h hc

theorem exec_channel : exec c s = .next (if code = 0x80 then runSource slot t s else runSink slot t s) := by
  simp only [List.mem_cons, Prod.mk.injEq, List.not_mem_nil, or_false] at hc
  rcases hc with ⟨rfl, rfl⟩ | ⟨rfl, rfl⟩ | ⟨rfl, rfl⟩
  · exact next_of_eq (h.runs (List.mem_singleton.mpr rfl) _)
  · exact next_of_eq (h.runs (List.mem_singleton.mpr rfl) _)
  · exact next_of_eq (h.runs (List.mem_singleton.mpr rfl) _)

theorem channel_starts (hs : t.eng.started = false) : exec c s = .next (startTun slot t s) := by
  rw [exec_channel h hc]
  unfold runSource runSink
  simp only [hs, Bool.not_false, if_true, ite_self]

end

/-- A channel that starts is busy, with the first descriptor of its chain or its one run (R334, R340, R344). -/
theorem startTun_starts {s : State} {slot code : Nat} {t : Task} (ht : taskAt s slot = some t) (hop : (taskStage s t).op = code) :
    od (startTun slot t s) (tunIdx t) (0x40 + t.sub) = 1 ∧ ∃ t', taskAt (startTun slot t s) slot = some t' ∧
      t'.eng.started = true ∧ ∀ a n, taskBuffer s t 0 = (a, n) →
        t'.eng.tun = { (if tunChained (taskStage s t) (taskOperand s t) then { at_ := a } else linearTun a n : TunState) with
          phase := if code = 0x80 ∧ n = 0 then .ended
            else if tunChained (taskStage s t) (taskOperand s t) then .fetch else .moving } := by
  subst hop
  unfold startTun setChannel
  cases hb : taskBuffer s t 0 with
  | mk a n =>
    dsimp only
    refine ⟨od_odSet_self _ _ _ _, _, (taskAt_odSet _ _ _ _ _).trans (taskAt_engMod ht _), rfl, fun a' n' hab => ?_⟩
    cases hab
    by_cases hchain : tunChained (taskStage s t) (taskOperand s t) = true
    · by_cases hend : (taskStage s t).op = 0x80 ∧ n = 0 <;> simp [isSource, hchain, hend]
    · by_cases hend : (taskStage s t).op = 0x80 ∧ n = 0 <;> simp [isSource, hchain, hend, linearTun]

/-! ### SOURCE (R344) -/

theorem chunksOf_nil {α : Type} {n : Nat} (hn : 1 ≤ n) : chunksOf n ([] : List α) = [] := by
  have : (([] : List α).length + n - 1) / n = 0 := Nat.div_eq_of_lt (by simp only [List.length_nil]; omega)
  unfold chunksOf
  rw [this]
  rfl

theorem one_le_outWidth (s : State) (t : Task) : 1 ≤ outWidth s t := by
  unfold outWidth
  split
  · exact Nat.le_max_left _ _
  · exact Nat.le_refl _

theorem outWidth_of_jobs {s u : State} {t t' : Task} (h : u.js.jobs = s.js.jobs) (hj : t'.jid = t.jid) (ho : t'.outs = t.outs) :
    outWidth u t' = outWidth s t := by
  have himg : taskImg u t' = taskImg s t := by
    unfold taskImg
    rw [hj, jobOf_of_jobs h]
  unfold outWidth outEnt
  rw [himg, ho]

/-- The mark of a channel that a SOURCE leaves behind, whichever it is, changes no job and no task. -/
theorem channelMarked_js (p q : Bool) {x y z : State} (hx : x.js = z.js) (hy : y.js = z.js) :
    (if p then x else if q then y else z).js = z.js := by
  cases p <;> cases q <;> simp [hx, hy]

/-- What a SOURCE emits leaves its partition; what else changes is whether the channel is paced (R345, R351). -/
theorem sourceEmit_leaves (slot : Nat) (t : Task) (s : State) : ∃ u g, sourceEmit slot t s = engMod slot g u ∧
    u.js = (emitElems slot 0 ((chunksOf (outWidth s t) (t.eng.bytes.take (sourceTake s t * outWidth s t))).map some) s).js ∧
    ∀ e, ∃ paced since, g e = { e with
      bytes := e.bytes.drop (sourceTake s t * outWidth s t), tun := { e.tun with paced := paced, pacedAt := since } } := by
  unfold sourceEmit
  exact ⟨_, _, rfl, channelMarked_js _ _ rfl rfl, fun e => ⟨_, _, rfl⟩⟩

theorem consumerDone_of_tasks {s u : State} (h : u.js.tasks = s.js.tasks) (t : Task) : consumerDone u t = consumerDone s t := by
  unfold consumerDone
  rw [h]

/-- Whether a consumer is done does not turn on what the outputs and the partition of a task hold. -/
theorem consumerDone_taskMod {f : Task → Task} (hf : ∀ x, (f x).jid = x.jid ∧ (f x).phase = x.phase ∧
      (f x).eng.done = x.eng.done ∧ (f x).ins = x.ins) (slot : Nat) (s : State) (t : Task) :
    consumerDone (taskMod slot f s) t = consumerDone s t := by
  unfold consumerDone taskMod
  cases t.outs.head? with
  | none => rfl
  | some o =>
    dsimp only
    rw [List.any_map]
    congr 1
    funext ⟨k, x⟩
    obtain ⟨hj, hp, hd, hi⟩ := hf x
    by_cases hk : k = slot <;> simp [hk, hj, hp, hd, hi]

section
variable {s : State} {slot : Nat} {t : Task} (h : StageAt s slot 0x80 t) (hs : t.eng.started = true)
include h hs

/-- A SOURCE whose chain has ended and whose partition holds no whole element ends its output and its channel. -/
theorem runSource_ends (hphase : t.eng.tun.phase = .ended) (hshort : t.eng.bytes.length < outWidth s t) :
    od (runSource slot t s) (tunIdx t) (0x40 + t.sub) = 0 ∧ ∃ t', taskAt (runSource slot t s) slot = some t' ∧
      t'.eng.done = true ∧ ∀ o ∈ t'.outs, o.ended = true := by
  have htake : sourceTake s t = 0 := by
    unfold sourceTake
    rw [Nat.div_eq_of_lt hshort]
    exact Nat.zero_min _
  obtain ⟨u, g, hu, hjs, hg⟩ := sourceEmit_leaves slot t s
  rw [htake, Nat.zero_mul, List.take_zero, chunksOf_nil (one_le_outWidth s t), List.map_nil, h.emit_nothing] at hjs
  obtain ⟨paced, since, hgt⟩ := hg t.eng
  rw [htake, Nat.zero_mul, List.drop_zero] at hgt
  have hv : taskAt (sourceEmit slot t s) slot = some { t with eng := g t.eng } := by
    rw [hu]
    exact taskAt_engMod ((taskAt_of_tasks (by rw [hjs]) slot).trans h.task) _
  have hjobs : (sourceEmit slot t s).js.jobs = s.js.jobs := by
    rw [hu]
    exact congrArg (·.jobs) hjs
  have hempty : sourceEmpty (sourceEmit slot t s) slot = true := by
    have hw : outWidth (sourceEmit slot t s) { t with eng := g t.eng } = outWidth s t := outWidth_of_jobs hjobs rfl rfl
    unfold sourceEmpty
    rw [hv]
    show (decide ((g t.eng).bytes.length < outWidth (sourceEmit slot t s) { t with eng := g t.eng }) &&
      (g t.eng).results.isEmpty) = true
    rw [hw, hgt]
    simp [hshort, h.results]
  have hruns : stillRuns slot (sourceEmit slot t s) = true := by
    unfold stillRuns
    rw [hv]
    exact h.running
  unfold runSource
  rw [if_neg (by simp [hs])]
  dsimp only
  rw [if_neg (by simp [hruns]), if_pos hphase, if_pos hempty]
  exact ⟨od_odSet_self _ _ _ _, stageDone_ends hv⟩

/-- A SOURCE that moves emits whole elements of its partition (R344). -/
theorem runSource_emits (hphase : t.eng.tun.phase = .moving) (hcons : consumerDone s t = false)
    (hcap : (taskStage s t).outCap = 0) : ∃ t', taskAt (runSource slot t s) slot = some t' ∧
      t'.eng.bytes = t.eng.bytes.drop (sourceTake s t * outWidth s t) ∧
      Gave t t' ((chunksOf (outWidth s t) (t.eng.bytes.take (sourceTake s t * outWidth s t))).map fun b => (0, some b)) := by
  obtain ⟨u, g, hu, hjs, hg⟩ := sourceEmit_leaves slot t s
  obtain ⟨f, hf, honly, hgave⟩ := emitElems_gives (port := 0)
    (es := (chunksOf (outWidth s t) (t.eng.bytes.take (sourceTake s t * outWidth s t))).map some) h.task h.running h.results hcap
  rw [hf] at hjs
  obtain ⟨outs, results, hft⟩ := honly t
  obtain ⟨paced, since, hgt⟩ := hg (f t).eng
  have hv : taskAt (sourceEmit slot t s) slot = some { f t with eng := g (f t).eng } := by
    rw [hu]
    exact taskAt_engMod ((taskAt_of_tasks (by rw [hjs]) slot).trans (taskAt_taskMod h.task f)) _
  have hcons' : consumerDone (sourceEmit slot t s) t = false := by
    rw [hu, engMod, consumerDone_taskMod, consumerDone_of_tasks (congrArg (·.tasks) hjs), consumerDone_taskMod, hcons]
    · intro x
      obtain ⟨outs, results, hfx⟩ := honly x
      rw [hfx]
      exact ⟨rfl, rfl, rfl, rfl⟩
    · intro x
      obtain ⟨paced, since, hgx⟩ := hg x.eng
      dsimp only
      rw [hgx]
      exact ⟨rfl, rfl, rfl, rfl⟩
  have hruns : stillRuns slot (sourceEmit slot t s) = true := by
    unfold stillRuns
    rw [hv, hft]
    exact h.running
  unfold runSource
  rw [if_neg (by simp [hs])]
  dsimp only
  rw [if_neg (by simp [hruns]), if_neg (by simp [hphase]), if_neg (by simp [hcons']), if_neg (by simp [hcons'])]
  refine ⟨_, hv, ?_, ?_⟩
  · show (g (f t).eng).bytes = _
    rw [hgt, hft]
  · obtain ⟨k, hres, hlen, hbuf⟩ := hgave
    rw [List.map_map] at hres hbuf
    refine ⟨k, ?_, hlen, hbuf⟩
    show (g (f t).eng).results = _
    rw [hgt]
    exact hres

end

/-! ### The sinks (R343) -/

theorem insDone_dropPort {t : Task} (h : insDone t = true) (n : Nat) :
    insDone { t with ins := lmod t.ins 0 fun p => { p with buf := p.buf.drop n } } = true := by
  unfold insDone at h ⊢
  cases hi : t.ins with
  | nil => rfl
  | cons p ps =>
    rw [hi] at h
    simp only [List.all_cons, Bool.and_eq_true, List.isEmpty_iff] at h
    obtain ⟨⟨hended, hbuf⟩, hrest⟩ := h
    simp [lmod, hended, hbuf, hrest]

theorem insDone_of_stillOpen {t : Task} (h : StillOpen t) : insDone t = false := by
  obtain ⟨p, hp, hend⟩ := h
  exact List.all_eq_false.mpr ⟨p, hp, by simp [hend]⟩

section
variable {s : State} {slot code : Nat} {t : Task} (h : StageAt s slot code t) (hs : t.eng.started = true)
include h hs

/-- A sink whose chain has ended, whose stream has ended and whose partition is empty ends its channel. -/
theorem runSink_ends (hphase : t.eng.tun.phase = .ended) (hdone : insDone t = true) (hempty : t.eng.bytes = []) :
    od (runSink slot t s) (tunIdx t) (0x40 + t.sub) = 0 ∧ ∃ t', taskAt (runSink slot t s) slot = some t' ∧
      t'.eng.done = true ∧ ∀ o ∈ t'.outs, o.ended = true := by
  have htaken : ∃ t', taskAt (sinkTake slot t s) slot = some t' ∧ insDone t' = true ∧ t'.eng.bytes = [] ∧
      t'.eng.tun.phase = .ended ∧ t'.unit = t.unit ∧ t'.sub = t.sub := by
    unfold sinkTake
    split
    · dsimp only
      rw [if_pos (by simp [hphase])]
      exact ⟨_, taskAt_engMod (taskAt_taskMod h.task _) _, insDone_dropPort hdone _, rfl, hphase, rfl, rfl⟩
    · exact ⟨t, h.task, hdone, hempty, hphase, rfl, rfl⟩
  obtain ⟨t', ht', hdone', hempty', hphase', hunit, hsub⟩ := htaken
  unfold runSink
  rw [if_neg (by simp [hs])]
  dsimp only
  rw [ht']
  dsimp only
  rw [if_neg (by simp [hdone', hempty']), hphase']
  dsimp only
  unfold tunIdx setChannel tunIdx
  rw [hunit, hsub]
  exact ⟨od_odSet_self _ _ _ _, stageDone_ends ht'⟩

/-- A sink that moves takes what its partition has room for (R343, R345). -/
theorem runSink_takes {r : List Byte × Nat × Nat} (hphase : t.eng.tun.phase = .moving) (hopen : StillOpen t)
    (hone : t.ins.length = 1) (hent : (inEnt s t 0).isSome = true)
    (hr : r = takeFront (waitingElems s t) t.eng.a (32768 - t.eng.bytes.length)) :
    ∃ t', taskAt (runSink slot t s) slot = some t' ∧ t'.eng.bytes = t.eng.bytes ++ r.1 ∧ t'.eng.a = r.2.2 ∧ Took t t' r.2.1 := by
  obtain ⟨p, hp⟩ := List.length_eq_one_iff.mp hone
  obtain ⟨x, hx⟩ := Option.isSome_iff_exists.mp hent
  have hwait : waitingElems s t = p.buf.map fun e => elemBytes x.ty (e.getD []) := by
    unfold waitingElems
    rw [hp, hx]
  have hended : p.ended = false := by
    obtain ⟨q, hq, hend⟩ := hopen
    rw [hp] at hq
    rwa [List.mem_singleton.mp hq] at hend
  have htaken : sinkTake slot t s = engMod slot (fun g => { g with bytes := g.bytes ++ r.1, a := r.2.2 }) (dropPort slot 0 r.2.1 s) := by
    unfold sinkTake
    rw [hp, hx]
    dsimp only [List.head?_cons]
    rw [if_neg (by simp [hphase]), ← hwait, ← hr]
  have ht' := taskAt_engMod (taskAt_taskMod h.task fun t => { t with
    ins := lmod t.ins 0 fun p => { p with buf := p.buf.drop r.2.1 } }) fun g => { g with bytes := g.bytes ++ r.1, a := r.2.2 }
  have ht'' : taskAt (sinkTake slot t s) slot = _ := htaken ▸ ht'
  unfold runSink
  rw [if_neg (by simp [hs])]
  dsimp only
  rw [ht'']
  dsimp only
  rw [if_pos (by simp [insDone, hp, lmod, hended])]
  refine ⟨_, ht'', rfl, rfl, ?_⟩
  simp [Took, hp, lmod]

end

/-! ### Descriptors (R336 to R341) -/

section
variable {s v : State} {slot code : Nat} {t : Task} (h : StageAt s slot code t) (hcode : code ∈ [0x80, 0x81, 0x82])
  (hs : t.eng.started = true)
include h hcode hs

theorem descriptorFetch_takes {d : List Byte} (hphase : t.eng.tun.phase = .fetch) (hbytes : code = 0x80 ∨ t.eng.bytes ≠ [])
    (hhops : t.eng.tun.hops < hopLimit s t) (hread : locRead (tunLoc s t) t.unit t.inst t.eng.tun.at_ 64 s = (.ok d, v))
    (hgood : descriptorBad d = false) (hnext : fld d 0x18 8 ≠ t.eng.tun.at_) : exec (.descriptorFetch slot) s =
      .next (tunMod slot (fun c => { takeDescriptor d c with hops := c.hops + 1 }) (odBump (tunIdx t) 3 v)) := by
  refine (next_of_eq (h.runs hcode _)).trans (next_of_eq ?_)
  have hgo : (isSource s t || !t.eng.bytes.isEmpty) = true := by
    rcases hbytes with hb | hb
    · simp [isSource, h.op_eq, hb]
    · simp [hb]
  rw [if_pos (by simp [hs, hphase, hgo])]
  unfold fetchDescriptor
  dsimp only
  rw [if_neg (Nat.not_le.mpr hhops), hread]
  dsimp only
  rw [if_neg (by simp [hgood]), if_neg hnext]

theorem descriptorWriteback_writes {more : Bool} (hphase : t.eng.tun.phase = .writeback more)
    (hwrite : locWrite (tunLoc s t) t.unit t.inst (t.eng.tun.at_ + 0x28) (writebackBytes t.eng.tun) s = (none, v)) :
    exec (.descriptorWriteback slot) s = .next (tunMod slot (fun c => { c with
      at_ := c.next, phase := if more then .fetch else .ended }) v) := by
  refine (next_of_eq (h.runs hcode _)).trans (next_of_eq ?_)
  rw [hphase]
  dsimp only
  rw [if_pos hs]
  unfold writebackStep
  dsimp only
  rw [hwrite]

end

/-! ### Requests (R345 to R347) -/

/-- The slot and the task of a request that is granted. -/
theorem taskAt_of_nextRequest {s : State} {e : Nat} {write : Bool} {slot n : Nat} {t : Task} (hsort : tsorted s.js.tasks = true)
    (h : nextRequest s e write = some (slot, t, n)) : taskAt s slot = some t := by
  obtain ⟨c, -, hc⟩ := List.exists_of_findSome?_eq_some h
  cases hon : onChannel s e c with
  | none => simp [hon] at hc
  | some x =>
    obtain ⟨k, u⟩ := x
    rw [hon] at hc
    dsimp only at hc
    split at hc
    · cases hc
    · cases hc
      exact tfind_of_mem hsort (List.mem_of_find?_eq_some hon)

/-- The task of a slot has the bytes and the count of a channel. -/
def ChannelHolds (s : State) (slot : Nat) (bytes : List Byte) (total : Nat) : Prop :=
  ∃ t, taskAt s slot = some t ∧ t.eng.bytes = bytes ∧ t.eng.tun.total = total

section
variable {s u : State} {slot total : Nat} {bytes : List Byte} (h : ChannelHolds s slot bytes total)
include h

theorem ChannelHolds.of_tasks (hu : u.js.tasks = s.js.tasks) : ChannelHolds u slot bytes total := by
  obtain ⟨t, ht, hb, hn⟩ := h
  exact ⟨t, (taskAt_of_tasks hu slot).trans ht, hb, hn⟩

theorem ChannelHolds.tunMod {f : TunState → TunState} (hf : ∀ c, (f c).total = c.total) :
    ChannelHolds (tunMod slot f s) slot bytes total := by
  obtain ⟨t, ht, hb, hn⟩ := h
  exact ⟨_, taskAt_engMod ht _, hb, (hf _).trans hn⟩

/-- The end of a descriptor leaves the partition. -/
theorem ChannelHolds.endDescriptor (t : Task) (short long : Bool) (dropped : Nat) (more : Bool) :
    ChannelHolds (endDescriptor slot t short long dropped more s) slot bytes total := by
  unfold Machine.endDescriptor
  refine ChannelHolds.tunMod (ChannelHolds.of_tasks h ?_) (by intro _; rfl)
  split <;> split <;> rfl

theorem ChannelHolds.sourceEnds (t : Task) : ChannelHolds (sourceEnds slot t s) slot bytes total := by
  unfold Machine.sourceEnds
  split
  · exact h
  · dsimp only
    split
    · exact h
    · exact h.endDescriptor _ _ _ _ _

theorem ChannelHolds.sinkEnds (t : Task) : ChannelHolds (sinkEnds slot t s) slot bytes total := by
  unfold Machine.sinkEnds
  split
  · exact h
  · dsimp only
    split
    · exact h
    · split
      · exact h.tunMod (by intro _; rfl)
      · exact h.endDescriptor _ _ _ _ _

end

section
variable {s v : State} {slot n : Nat} {t : Task} (ht : taskAt s slot = some t)
include ht

theorem sourceRead_joins {bs : List Byte}
    (hread : devRead t.unit (.inst t.inst) (t.eng.tun.place t.eng.tun.k) n s = (.ok bs, v)) :
    ChannelHolds (sourceRead slot t n s) slot (t.eng.bytes ++ bs) (t.eng.tun.total + n) := by
  unfold sourceRead
  rw [hread]
  dsimp only
  have hjoin : ∀ (paced : Bool) (now : Nat), ChannelHolds (engMod slot (fun g => { g with
      bytes := g.bytes ++ bs
      tun := { g.tun with k := g.tun.k + n, total := g.tun.total + n, paced := paced, pacedAt := now } }) v)
      slot (t.eng.bytes ++ bs) (t.eng.tun.total + n) := fun _ _ =>
    ⟨_, taskAt_engMod (((workStays_devRead hread).taskAt slot).trans ht) _, rfl, rfl⟩
  exact ChannelHolds.sourceEnds (ChannelHolds.of_tasks (hjoin _ _) (by split <;> rfl)) t

theorem sinkWrite_leaves (hwrite : TunWrites s v t n) :
    ChannelHolds (sinkWrite slot t n s) slot (t.eng.bytes.drop n) (t.eng.tun.total + n) := by
  have hstay : WorkStays s v := by
    unfold TunWrites at hwrite
    split at hwrite
    · exact workStays_devWrite hwrite
    · exact workStays_hostWrite hwrite
  have hleft : ChannelHolds (engMod slot (fun g => { g with
      bytes := g.bytes.drop n, tun := { g.tun with k := g.tun.k + n, total := g.tun.total + n } }) v)
      slot (t.eng.bytes.drop n) (t.eng.tun.total + n) :=
    ⟨_, taskAt_engMod ((hstay.taskAt slot).trans ht) _, rfl, rfl⟩
  unfold TunWrites at hwrite
  unfold sinkWrite
  cases hloc : tunLoc s t <;> rw [hloc] at hwrite <;> dsimp only at hwrite ⊢ <;> rw [hwrite] <;>
    refine ChannelHolds.sinkEnds ?_ t <;> exact hleft.of_tasks rfl

end

end Sys2Proof.Machine
end


section
/-! PROOFS. SINK_REMOTE: how it starts, buffers its input, sends what it has and ends (R159). -/

namespace Sys2Proof.Machine

/-! ### What it takes -/

/-- The bytes that a SINK_REMOTE takes of its input: all that waits, and none while it holds 1 MiB or more. -/
def remoteBytes (s : State) (t : Task) : List Byte :=
  if 1048576 ≤ t.eng.bytes.length + t.eng.b then [] else (waitingElems s t).flatten

/-- The elements that go with them. -/
def remoteCount (t : Task) : Nat :=
  match t.ins with
  | p :: _ => if 1048576 ≤ t.eng.bytes.length + t.eng.b then 0 else p.buf.length
  | [] => 0

/-- The task of a SINK_REMOTE that has taken its input. -/
def remoteTaken (s : State) (t : Task) : Task :=
  { t with
    ins := lmod t.ins 0 fun p => { p with buf := p.buf.drop (remoteCount t) }
    eng := { t.eng with bytes := t.eng.bytes ++ remoteBytes s t } }

/-- The state with the input taken. -/
def remoteTakes (slot : Nat) (t : Task) (s : State) : State :=
  engMod slot (fun g => { g with bytes := g.bytes ++ remoteBytes s t }) (dropPort slot 0 (remoteCount t) s)

/-- What follows: whole writes, after the last input the rest, and the end once all are acknowledged. -/
def remoteSends (slot k : Nat) (v : List Byte) (s : State) : State :=
  match taskAt s slot with
  | none => s
  | some t =>
    let last := insDone t
    let len := t.eng.bytes.length
    let writes := len / 65536 + (if last && len % 65536 ≠ 0 then 1 else 0)
    let s := (List.range writes).foldl (fun s _ => remoteWrite slot t k v s) s
    match taskAt s slot with
    | some t => if last && t.eng.bytes.isEmpty && t.eng.b = 0 then stageDone slot s else s
    | none => s

theorem taskAt_remoteTakes {s : State} {slot : Nat} {t : Task} (ht : taskAt s slot = some t) :
    taskAt (remoteTakes slot t s) slot = some (remoteTaken s t) :=
  taskAt_engMod (taskAt_taskMod ht _) _

theorem runSinkRemote_started {s : State} {slot : Nat} {t : Task} (hs : t.eng.started = true) : runSinkRemote slot t s =
    remoteSends slot (fld (taskOperand s t) 0 4) ((taskParam s t 0).getD []) (remoteTakes slot t s) := by
  unfold runSinkRemote
  dsimp only
  rw [if_neg (by simp [hs])]
  refine congrArg (remoteSends slot (fld (taskOperand s t) 0 4) ((taskParam s t 0).getD [])) ?_
  unfold remoteTakes remoteBytes remoteCount waitingElems inEnt
  generalize t.ins = l
  cases l with
  | nil => simp
  | cons p ps => simp

/-- With all its input done, a SINK_REMOTE has none to take. -/
theorem remoteTaken_of_insDone {s : State} {t : Task} (h : insDone t = true) : remoteTaken s t = t := by
  have hbufs : ∀ p ∈ t.ins, p.buf = [] := fun p hp => by
    simpa using (Bool.and_eq_true_iff.mp (List.all_eq_true.mp h p hp)).2
  have hbytes : remoteBytes s t = [] := by
    unfold remoteBytes waitingElems
    cases hi : t.ins with
    | nil => simp
    | cons p ps => simp [hbufs p (hi ▸ List.mem_cons_self), inEnt, hi]
  have hins : lmod t.ins 0 (fun p => { p with buf := p.buf.drop (remoteCount t) }) = t.ins := by
    cases hi : t.ins with
    | nil => rfl
    | cons p ps =>
      have hp := hbufs p (hi ▸ List.mem_cons_self)
      simp only [lmod, hp, List.drop_nil]
      rw [← hp]
  unfold remoteTaken
  rw [hins, hbytes, List.append_nil]

/-- A write of all that is left and that its region has room for. -/
theorem remoteWrite_rest {s : State} {slot k : Nat} {t u : Task} {v : List Byte} (hu : taskAt s slot = some u)
    (hsome : u.eng.bytes ≠ []) (hlen : u.eng.bytes.length ≤ 65536) (hroom : u.eng.a + u.eng.bytes.length ≤ fld v 8 8) :
    remoteWrite slot t k v s = qpSend k (.sink t.jid t.stage u.eng.bytes.length)
      (.write (fld v 0 4) (fld v 4 4 + u.eng.a) u.eng.bytes) (engMod slot (fun g => { g with
        bytes := g.bytes.drop u.eng.bytes.length, a := g.a + u.eng.bytes.length, b := g.b + u.eng.bytes.length }) s) := by
  have htake : u.eng.bytes.take (min 65536 (fld v 8 8 - u.eng.a)) = u.eng.bytes :=
    List.take_of_length_le (le_min hlen (by omega))
  unfold remoteWrite
  rw [hu]
  dsimp only
  rw [htake, Nat.min_eq_right hlen, if_neg (by simpa using hsome)]

/-! ### What the command does -/

section
variable {s : State} {slot : Nat} {t : Task} (h : StageAt s slot 0x83 t)
include h

/-- A SINK_REMOTE starts on a DATA queue pair in service. -/
theorem sinkRemote_starts (hs : t.eng.started = false) (hq : dataQp s t.inst (fld (taskOperand s t) 0 4) = true) :
    StageGoes (.sinkRemote slot) s slot fun t' => t'.eng.started = true ∧ t'.eng.d = fld (taskOperand s t) 0 4 + 1 := by
  have hrun : runSinkRemote slot t s =
      engMod slot (fun g => { g with started := true, d := fld (taskOperand s t) 0 4 + 1 }) s := by
    unfold runSinkRemote
    dsimp only
    rw [if_pos (by simp [hs]), if_pos hq]
  exact ⟨_, next_of_eq ((h.runs (List.mem_singleton.mpr rfl) _).trans hrun), _, taskAt_engMod h.task _, rfl, rfl⟩

variable (hs : t.eng.started = true)
include hs

theorem exec_sinkRemote_started : exec (.sinkRemote slot) s = .next
    (remoteSends slot (fld (taskOperand s t) 0 4) ((taskParam s t 0).getD []) (remoteTakes slot t s)) :=
  next_of_eq ((h.runs (List.mem_singleton.mpr rfl) _).trans (runSinkRemote_started hs))

/-- A SINK_REMOTE that has less than a whole write and whose input is open keeps what it has taken. -/
theorem sinkRemote_buffers (hone : t.ins.length = 1) (hopen : StillOpen t)
    (hlen : t.eng.bytes.length + (waitingElems s t).flatten.length < 65536) (hroom : t.eng.bytes.length + t.eng.b < 1048576) :
    StageGoes (.sinkRemote slot) s slot fun t' => t'.eng.bytes = t.eng.bytes ++ (waitingElems s t).flatten ∧
      t'.ins = t.ins.map fun p => { p with buf := [] } := by
  have ht := taskAt_remoteTakes h.task
  obtain ⟨p, hp⟩ := List.length_eq_one_iff.mp hone
  obtain ⟨q, hq, hend⟩ := hopen
  have hq' : q = p := by rwa [hp, List.mem_singleton] at hq
  subst hq'
  have hins : (remoteTaken s t).ins = [{ q with buf := [] }] := by
    simp [remoteTaken, remoteCount, hp, lmod, Nat.not_le.mpr hroom]
  have hbytes : (remoteTaken s t).eng.bytes = t.eng.bytes ++ (waitingElems s t).flatten := by
    simp [remoteTaken, remoteBytes, Nat.not_le.mpr hroom]
  have hlast : insDone (remoteTaken s t) = false := by simp [insDone, hins, hend]
  have hlen' : (remoteTaken s t).eng.bytes.length < 65536 := by rw [hbytes, List.length_append]; exact hlen
  have hrun : remoteSends slot (fld (taskOperand s t) 0 4) ((taskParam s t 0).getD []) (remoteTakes slot t s) =
      remoteTakes slot t s := by
    unfold remoteSends
    simp [ht, hlast, Nat.div_eq_of_lt hlen']
  exact ⟨_, (exec_sinkRemote_started h hs).trans (next_of_eq hrun), _, ht, hbytes, by rw [hins, hp]; rfl⟩

/-- A SINK_REMOTE whose input is done, with all acknowledged, ends. -/
theorem sinkRemote_ends (hdone : insDone t = true) (hbytes : t.eng.bytes = []) (hb : t.eng.b = 0) :
    StageGoes (.sinkRemote slot) s slot fun t' => t'.eng.done = true ∧ ∀ o ∈ t'.outs, o.ended = true := by
  have ht := taskAt_remoteTakes h.task
  rw [remoteTaken_of_insDone hdone] at ht
  have hrun : remoteSends slot (fld (taskOperand s t) 0 4) ((taskParam s t 0).getD []) (remoteTakes slot t s) =
      stageDone slot (remoteTakes slot t s) := by
    unfold remoteSends
    simp [ht, hdone, hbytes, hb]
  exact ⟨_, (exec_sinkRemote_started h hs).trans (next_of_eq hrun), stageDone_ends ht⟩

/-- After the last input, what is left leaves as one RDMA WRITE. -/
theorem sinkRemote_writes {k : Nat} {v : List Byte} {q : QP} (hk : k = fld (taskOperand s t) 0 4) (hv : v = (taskParam s t 0).getD [])
    (hdone : insDone t = true) (hsome : t.eng.bytes ≠ []) (hlen : t.eng.bytes.length < 65536)
    (hroom : t.eng.a + t.eng.bytes.length ≤ fld v 8 8) (hq : qpAt s k = some q) (herr : q.err = false) :
    Reaches (.sinkRemote slot) s fun u => Posted u k (.write (fld v 0 4) (fld v 4 4 + t.eng.a) t.eng.bytes) ∧
      ∃ t', taskAt u slot = some t' ∧ t'.eng.bytes = [] ∧ t'.eng.a = t.eng.a + t.eng.bytes.length ∧
        t'.eng.b = t.eng.b + t.eng.bytes.length := by
  subst hk hv
  have ht := taskAt_remoteTakes h.task
  rw [remoteTaken_of_insDone hdone] at ht
  have hpos : 0 < t.eng.bytes.length := List.length_pos_iff.mpr hsome
  have hmod : t.eng.bytes.length % 65536 ≠ 0 := by rw [Nat.mod_eq_of_lt hlen]; exact hpos.ne'
  have hwrite := remoteWrite_rest (t := t) (k := fld (taskOperand s t) 0 4) ht hsome hlen.le hroom
  have hleft := taskAt_engMod ht fun g => { g with
    bytes := g.bytes.drop t.eng.bytes.length, a := g.a + t.eng.bytes.length, b := g.b + t.eng.bytes.length }
  obtain ⟨hgrow, hpost⟩ := qpSend_posts (s := engMod slot (fun g => { g with
    bytes := g.bytes.drop t.eng.bytes.length, a := g.a + t.eng.bytes.length, b := g.b + t.eng.bytes.length })
    (remoteTakes slot t s)) hq herr (.sink t.jid t.stage t.eng.bytes.length)
    (.write (fld ((taskParam s t 0).getD []) 0 4) (fld ((taskParam s t 0).getD []) 4 4 + t.eng.a) t.eng.bytes)
  have hend := (hgrow.taskAt slot).trans hleft
  rw [← hwrite] at hend hpost
  have hrun : remoteSends slot (fld (taskOperand s t) 0 4) ((taskParam s t 0).getD []) (remoteTakes slot t s) =
      remoteWrite slot t (fld (taskOperand s t) 0 4) ((taskParam s t 0).getD []) (remoteTakes slot t s) := by
    unfold remoteSends
    simp [ht, hdone, Nat.div_eq_of_lt hlen, hmod, hend, hpos.ne']
  exact ⟨_, (exec_sinkRemote_started h hs).trans (next_of_eq hrun), hpost, _, hend, List.drop_length, rfl, rfl⟩

end

end Sys2Proof.Machine
end


section
/-! PROOFS. EXCH_SEND: how it opens its peers, routes a row and ends; OPEN_RETRY and OPEN_TIMEOUT (R160 to R165). -/

namespace Sys2Proof.Machine

/-! ### What a stage's record holds -/

/-- The first element of a kind, where those of the kind are changed and stay of it. -/
theorem find?_map_of_kind {α : Type} {p : α → Bool} {f : α → α} (hf : ∀ y, p (f y) = p y) {l : List α} {x : α}
    (hx : l.find? p = some x) : (l.map fun y => if p y then f y else y).find? p = some (f x) := by
  have hsame : (p ∘ fun y => if p y then f y else y) = p := by
    funext y
    dsimp only [Function.comp]
    split
    · exact hf y
    · rfl
  rw [List.find?_map, hsame, hx, Option.map_some, if_pos (List.find?_some hx)]

/-- A change of the record of an EXCH_SEND stage that leaves whose it is. -/
theorem xsendOf_xsendMod {s : State} {jid stage : Nat} {x : XSend} {f : XSend → XSend} (hx : xsendOf s jid stage = some x)
    (hf : ∀ y, (f y).jid = y.jid ∧ (f y).stage = y.stage) : xsendOf (xsendMod jid stage f s) jid stage = some (f x) :=
  find?_map_of_kind (p := fun y : XSend => y.jid = jid && y.stage = stage) (fun y => by
    obtain ⟨hj, hst⟩ := hf y
    rw [hj, hst]) hx

theorem xsendOf_peerMod {s : State} {jid stage : Nat} {x : XSend} (hx : xsendOf s jid stage = some x) (i : Nat)
    (f : TxPeer → TxPeer) : xsendOf (peerMod jid stage i f s) jid stage = some { x with peers := lmod x.peers i f } :=
  xsendOf_xsendMod hx fun _ => ⟨rfl, rfl⟩

theorem find?_filter_not {α : Type} (p : α → Bool) (l : List α) : (l.filter fun y => !p y).find? p = none := by
  rw [List.find?_filter]
  simp

/-- A record put in place of those of its stage. -/
theorem find?_filter_append {α : Type} (p : α → Bool) (l : List α) {x : α} (hx : p x = true) :
    (l.filter (fun y => !p y) ++ [x]).find? p = some x := by
  rw [List.find?_append, find?_filter_not, List.find?_singleton, hx]
  rfl

/-! ### Opening (R161, R164) -/

/-- A peer is sent an OPEN (R164). -/
def openPeer (slot : Nat) (x : XSend) (s : State) (p : TxPeer) : State :=
  match qpAt s p.qp with
  | some q => if q.err then failTask slot 0x0702 { detail := p.qp, detail2 := x.sender } s else sendOpen x p s
  | none => s

/-- The OPEN that a peer is sent. -/
def openOf (x : XSend) (p : TxPeer) : RoceMsg := .send (ctlMsg 1 0 x.sender p.seq x.exchange (leBytes 4 x.crc))

/-- Peers whose queue pairs are in service all hold their OPEN. -/
theorem openPeers_post (slot : Nat) (x : XSend) (l : List TxPeer) {s : State}
    (h : ∀ p ∈ l, ∃ q, qpAt s p.qp = some q ∧ q.err = false) :
    QpsGrow s (l.foldl (openPeer slot x) s) ∧ ∀ p ∈ l, Posted (l.foldl (openPeer slot x) s) p.qp (openOf x p) := by
  induction l generalizing s with
  | nil => exact ⟨.refl s, fun p hp => absurd hp List.not_mem_nil⟩
  | cons a l ih =>
    obtain ⟨q, hq, herr⟩ := h a List.mem_cons_self
    obtain ⟨hgrow, hpost⟩ : QpsGrow s (openPeer slot x s a) ∧ Posted (openPeer slot x s a) a.qp (openOf x a) := by
      unfold openPeer
      rw [hq]
      dsimp only
      rw [if_neg (by simp [herr])]
      exact qpSend_posts hq herr .plain _
    obtain ⟨hrest, hposts⟩ := ih (s := openPeer slot x s a) fun p hp => by
      obtain ⟨q, hq, herr⟩ := h p (List.mem_cons_of_mem a hp)
      obtain ⟨q', hq', herr', -⟩ := hgrow.qps p.qp q hq
      exact ⟨q', hq', herr'.trans herr⟩
    refine ⟨hgrow.trans hrest, fun p hp => ?_⟩
    rcases List.mem_cons.mp hp with rfl | hp
    · exact hrest.posted hpost
    · exact hposts p hp

/-- The queue pairs of a peer table in order are there (R161). -/
theorem qpAt_of_peerTable {s : State} {n : Nat} {op b : List Byte} (h : peerTableBad s n op b = false) {i : Nat}
    (hi : i < fld b 10 2) : ∃ q, qpAt s (fld b (16 + 8 * i) 4) = some q := by
  unfold peerTableBad at h
  simp only [Bool.or_eq_false_iff] at h
  obtain ⟨-, hpeers⟩ := h
  have := List.any_eq_false.mp hpeers i (List.mem_range.mpr hi)
  cases hq : qpAt s (fld b (16 + 8 * i) 4) with
  | none => simp [hq] at this
  | some q => exact ⟨q, rfl⟩

/-- The layout entry of the rows of an EXCH_SEND stage. -/
def sendLayout (s : State) (t : Task) : Nat :=
  match inEnt s t (t.ins.length - 1) with
  | some e => e.layout
  | none => 0

/-- The record of an EXCH_SEND stage with peer table b, for a plan and a row layout of it (R161). -/
def sendOf (img : List Byte) (layout : Nat) (t : Task) (b : List Byte) : XSend where
  jid := t.jid
  stage := t.stage
  exchange := fld b 0 8
  sender := fld b 8 2
  entries := (List.range (fld b 12 2)).map fun i => fld b (16 + 8 * fld b 10 2 + 2 * i) 2
  peers := (List.range (fld b 10 2)).map fun i => { qp := fld b (16 + 8 * i) 4 }
  crc := layoutCrc img layout
  width := (layoutEnt img layout).width

/-- The state in which an EXCH_SEND stage has its record, and no peer an OPEN. -/
def sendEntered (slot : Nat) (t : Task) (x : XSend) (s : State) : State :=
  engMod slot (fun g => { g with started := true }) (netMod (fun n =>
    { n with sends := n.sends.filter (fun y => !(y.jid = t.jid && y.stage = t.stage)) ++ [x] }) s)

theorem xsendOf_sendEntered (slot : Nat) (t : Task) {x : XSend} (s : State) (hj : x.jid = t.jid) (hs : x.stage = t.stage) :
    xsendOf (sendEntered slot t x s) t.jid t.stage = some x :=
  find?_filter_append (fun y : XSend => (y.jid = t.jid && y.stage = t.stage : Bool)) s.net.sends (by simp [hj, hs])

theorem sendEntered_started {slot : Nat} {t : Task} {s : State} (ht : taskAt s slot = some t) (x : XSend) :
    ∃ t', taskAt (sendEntered slot t x s) slot = some t' ∧ t'.eng.started = true := by
  have hnet : ∀ f, taskAt (netMod f s) slot = some t := fun _ => ht
  unfold sendEntered
  refine ⟨_, taskAt_engMod (hnet _) _, ?_⟩
  rfl

section
variable {s v w : State} {slot a n : Nat} {t : Task} {h b : List Byte} (hbuf : taskBuffer s t 0 = (a, n)) (hn : 16 ≤ n)
  (hhead : devRead unitExch (.inst t.inst) a 16 s = (.ok h, v)) (hsize : 16 + 8 * fld h 10 2 + 2 * fld h 12 2 ≤ n)
  (htable : devRead unitExch (.inst t.inst) a (16 + 8 * fld h 10 2 + 2 * fld h 12 2) v = (.ok b, w))
  (hgood : peerTableBad w t.inst (taskOperand s t) b = false)
include hbuf hn hhead hsize htable hgood

theorem startSend_opens : ∃ layout, startSend slot t s = (sendOf (taskImg s t) layout t b).peers.foldl
    (openPeer slot (sendOf (taskImg s t) layout t b)) (sendEntered slot t (sendOf (taskImg s t) layout t b) w) := by
  refine ⟨sendLayout w t, ?_⟩
  unfold startSend
  rw [hbuf]
  dsimp only
  rw [if_neg (Nat.not_lt.mpr hn), hhead]
  dsimp only
  rw [if_neg (Nat.not_lt.mpr hsize), htable]
  dsimp only
  rw [if_neg (by simp [hgood])]
  rfl

/-- An EXCH_SEND that starts has the record of its peer table, and each of its peers an OPEN. -/
theorem exchSend_starts (hat : StageAt s slot 0x70 t) (hs : t.eng.started = false)
    (hqps : ∀ i < fld b 10 2, ∀ q, qpAt w (fld b (16 + 8 * i) 4) = some q → q.err = false) :
    Reaches (.exchSend slot) s fun u => (∃ t', taskAt u slot = some t' ∧ t'.eng.started = true) ∧
      ∃ x, xsendOf u t.jid t.stage = some x ∧ x.exchange = fld b 0 8 ∧ x.sender = fld b 8 2 ∧
        x.peers = (List.range (fld b 10 2)).map (fun i => { qp := fld b (16 + 8 * i) 4 }) ∧
        x.entries = (List.range (fld b 12 2)).map (fun i => fld b (16 + 8 * fld b 10 2 + 2 * i) 2) ∧
        ∀ p ∈ x.peers, Posted u p.qp (.send (ctlMsg 1 0 x.sender 0 x.exchange (leBytes 4 x.crc))) := by
  obtain ⟨layout, hstart⟩ := startSend_opens (slot := slot) hbuf hn hhead hsize htable hgood
  have hpeers : ∀ p ∈ (sendOf (taskImg s t) layout t b).peers, ∃ i < fld b 10 2, p = { qp := fld b (16 + 8 * i) 4 } := by
    intro p hp
    obtain ⟨i, hi, rfl⟩ := List.mem_map.mp hp
    exact ⟨i, List.mem_range.mp hi, rfl⟩
  obtain ⟨hgrow, hposts⟩ := openPeers_post slot (sendOf (taskImg s t) layout t b) (sendOf (taskImg s t) layout t b).peers
    (s := sendEntered slot t (sendOf (taskImg s t) layout t b) w) fun p hp => by
      obtain ⟨i, hi, rfl⟩ := hpeers p hp
      obtain ⟨q, hq⟩ := qpAt_of_peerTable hgood hi
      exact ⟨q, hq, hqps i hi q hq⟩
  have hrun : runSend slot t s = startSend slot t s := if_pos (by simp [hs])
  have ht : taskAt w slot = some t :=
    (((workStays_devRead hhead).trans (workStays_devRead htable)).taskAt slot).trans hat.task
  obtain ⟨t', ht', hs'⟩ := sendEntered_started ht (sendOf (taskImg s t) layout t b)
  refine ⟨_, next_of_eq (((hat.runs (List.mem_singleton.mpr rfl) _).trans hrun).trans hstart),
    ⟨t', (hgrow.taskAt slot).trans ht', hs'⟩, _,
    (hgrow.xsendOf _ _).trans (xsendOf_sendEntered slot t w rfl rfl), rfl, rfl, rfl, rfl, fun p hp => ?_⟩
  have := hposts p hp
  obtain ⟨i, -, rfl⟩ := hpeers p hp
  exact this

end

/-! ### Rows (R160, R164) -/

/-- A peer with bytes that have joined its own. -/
def peerJoined (bytes : List Byte) (p : TxPeer) : TxPeer := { p with buf := p.buf ++ bytes }

theorem peerJoined_nil : peerJoined [] = id := by
  funext p
  simp [peerJoined]

theorem mem_lmod {α : Type} {l : List α} {n : Nat} {f : α → α} {b : α} (h : b ∈ lmod l n f) : b ∈ l ∨ ∃ a ∈ l, b = f a := by
  induction l generalizing n with
  | nil => exact absurd h List.not_mem_nil
  | cons a l ih =>
    cases n with
    | zero =>
      rcases List.mem_cons.mp h with rfl | h
      · exact .inr ⟨a, List.mem_cons_self, rfl⟩
      · exact .inl (List.mem_cons_of_mem a h)
    | succ n =>
      rcases List.mem_cons.mp h with rfl | h
      · exact .inl List.mem_cons_self
      · rcases ih h with h | ⟨c, hc, rfl⟩
        · exact .inl (List.mem_cons_of_mem a h)
        · exact .inr ⟨c, List.mem_cons_of_mem a hc, rfl⟩

/-- A row joins the bytes of each of its peers once, and nothing else of the work differs. -/
theorem addRow_joins {t : Task} (places : List Nat) (bytes : List Byte) {s : State} {x : XSend}
    (hx : xsendOf s t.jid t.stage = some x) (hnodup : places.Nodup) (hopen : ∀ p ∈ x.peers, p.closed = false) :
    (addRow t places bytes s).js = s.js ∧ ∃ x', xsendOf (addRow t places bytes s) t.jid t.stage = some x' ∧
      ∀ i, x'.peers[i]? = (x.peers[i]?).map (peerJoined (if i ∈ places then bytes else [])) := by
  induction places generalizing s x with
  | nil => exact ⟨rfl, x, hx, fun i => by simp [peerJoined_nil]⟩
  | cons k places ih =>
    obtain ⟨hk, hnodup⟩ := List.nodup_cons.mp hnodup
    have hopen' : ∀ p ∈ lmod x.peers k (fun p => if p.closed then p else { p with buf := p.buf ++ bytes }), p.closed = false := by
      intro p hp
      rcases mem_lmod hp with hold | ⟨p', hold, rfl⟩
      · exact hopen p hold
      · simp [hopen p' hold]
    obtain ⟨hjs, x', hx', hpeers⟩ := ih (xsendOf_peerMod hx k _) hnodup hopen'
    refine ⟨hjs, x', hx', fun i => (hpeers i).trans ?_⟩
    dsimp only
    by_cases hi : i = k
    · subst hi
      rw [lmod_getElem?_self]
      cases hp : x.peers[i]? with
      | none => rfl
      | some p => simp [hk, hopen p (List.mem_of_getElem? hp), peerJoined]
    · rw [lmod_getElem?_ne _ _ hi]
      simp [hi]

/-- A peer with nothing to send now: it is closed, it has not opened, or its END has left and no bytes have joined it. -/
def PeerRests (x : XSend) (p : TxPeer) : Prop :=
  p.closed = true ∨ p.opened = false ∨ (p.ended = true ∧ p.buf = [] ∧ 0 < segBytes x.width)

theorem segBytes_pos {width : Nat} (h1 : 1 ≤ width) (h2 : width ≤ 65536) : 0 < segBytes width := by
  unfold segBytes
  rw [Nat.max_eq_right h1]
  exact Nat.mul_pos (Nat.div_pos h2 h1) h1

theorem pumpPeer_rests {t : Task} {s : State} {x : XSend} (last : Bool) (i fuel : Nat) (hx : xsendOf s t.jid t.stage = some x)
    (hrest : ∀ p ∈ x.peers, PeerRests x p) : pumpPeer t last i fuel s = s := by
  cases fuel with
  | zero => rfl
  | succ fuel =>
    unfold pumpPeer
    rw [hx]
    dsimp only
    cases hp : x.peers[i]? with
    | none => rfl
    | some p =>
      dsimp only
      rcases hrest p (List.mem_of_getElem? hp) with hc | ho | ⟨hended, hbuf, hwidth⟩
      · rw [if_pos (by simp [hc])]
      · rw [if_pos (by simp [ho])]
      · split
        · rfl
        · rw [if_pos (by simp [hbuf, hwidth.ne']), if_neg (by simp [hended])]

/-! ### A stage at work -/

/-- What an EXCH_SEND does with the rows it can take, for its record and what its operand says of them. -/
def sendTakes (slot : Nat) (t : Task) (x : XSend) (op : List Byte) (ks : List KeySpec) (l : Layout) (s : State) : State :=
  if x.peers.all fun p => p.closed || p.buf.length < 131072 then
    routeRows slot t x op ks l (takeKeyed slot ks t.eng.a s).1 t.eng.a
      (engMod slot (fun g => { g with a := g.a + (takeKeyed slot ks t.eng.a s).1.length }) (takeKeyed slot ks t.eng.a s).2)
  else s

/-- What follows: each of n peers sends what it can, and the stage ends once all have. -/
def sendPumps (slot n : Nat) (s : State) : State :=
  match taskAt s slot with
  | none => s
  | some t =>
    if !isRunning t then s
    else
      let s := (List.range n).foldl (fun s i => pumpPeer t (insDone t) i 64 s) s
      match xsendOf s t.jid t.stage with
      | some x =>
        if insDone t && x.peers.all (fun p => p.closed || (p.ended && p.unacked = 0)) then
          stageDone slot (netMod (fun n => { n with sends := n.sends.filter fun y => !(y.jid = t.jid && y.stage = t.stage) }) s)
        else s
      | none => s

/-- Where every peer rests, the stage ends if its input is done and no peer waits for an acknowledgement. -/
theorem sendPumps_rests {s : State} {slot : Nat} {t : Task} {x : XSend} (n : Nat) (ht : taskAt s slot = some t)
    (hrun : isRunning t = true) (hx : xsendOf s t.jid t.stage = some x) (hrest : ∀ p ∈ x.peers, PeerRests x p) :
    sendPumps slot n s =
      if insDone t && x.peers.all (fun p => p.closed || (p.ended && p.unacked = 0)) then
        stageDone slot (netMod (fun n => { n with sends := n.sends.filter fun y => !(y.jid = t.jid && y.stage = t.stage) }) s)
      else s := by
  have hpump : (List.range n).foldl (fun s i => pumpPeer t (insDone t) i 64 s) s = s :=
    List.foldl_fixed' (fun i => pumpPeer_rests (insDone t) i 64 hx hrest) _
  unfold sendPumps
  rw [ht]
  dsimp only
  rw [if_neg (by simp [hrun]), hpump, hx]

theorem takeKeyed_rows {s : State} {slot taken : Nat} {t : Task} {ks : List KeySpec} (ht : taskAt s slot = some t)
    (hdrain : (taskStage s t).drain = false) (hlong : findLong ks (frontRows t (rowsReady t)) = none) :
    takeKeyed slot ks taken s = (frontRows t (rowsReady t), dropRows slot (rowsReady t) s) := by
  unfold takeKeyed takeRows
  rw [ht]
  dsimp only
  rw [if_neg (by simp [hdrain])]
  dsimp only
  rw [hlong]

/-- No row is ready at a stage whose input is done. -/
theorem rowsReady_of_insDone {t : Task} (h : insDone t = true) : rowsReady t = 0 := by
  unfold insDone at h
  unfold rowsReady
  cases hi : t.ins with
  | nil => rfl
  | cons p ps =>
    rw [hi] at h
    simp only [List.all_cons, Bool.and_eq_true, List.isEmpty_iff] at h
    obtain ⟨⟨-, hbuf⟩, -⟩ := h
    dsimp only
    rw [hbuf]
    exact List.foldl_fixed' (fun q : InPort => Nat.zero_min q.buf.length) ps

/-- The task of an EXCH_SEND that has taken n rows, one element of each input for each. -/
def rowsTaken (n : Nat) (t : Task) : Task :=
  { t with ins := t.ins.map fun p => { p with buf := p.buf.drop n }, eng := { t.eng with a := t.eng.a + n } }

/-- The state with n rows taken. -/
def takesRows (slot n : Nat) (s : State) : State := engMod slot (fun g => { g with a := g.a + n }) (dropRows slot n s)

theorem taskAt_takesRows {s : State} {slot : Nat} {t : Task} (ht : taskAt s slot = some t) (n : Nat) :
    taskAt (takesRows slot n s) slot = some (rowsTaken n t) :=
  taskAt_engMod (taskAt_taskMod ht _) _

theorem takesRows_zero {s : State} {slot : Nat} {t : Task} (hs : tsorted s.js.tasks = true) (ht : taskAt s slot = some t) :
    takesRows slot 0 s = s := by
  unfold takesRows engMod dropRows
  rw [taskMod_taskMod]
  exact taskMod_same hs ht (by simp)

section
variable {s : State} {slot : Nat} {t : Task} {x : XSend} (h : StageAt s slot 0x70 t) (hs : t.eng.started = true)
  (hx : xsendOf s t.jid t.stage = some x)
include h hs hx

theorem exec_exchSend_started : exec (.exchSend slot) s = .next (sendPumps slot x.peers.length
    (sendTakes slot t x (taskOperand s t) (sendKeys s t)
      ((inLayout (taskImg s t) t.stage (sendKeys s t).length).getD noLayout) s)) := by
  refine next_of_eq ((h.runs (List.mem_singleton.mpr rfl) _).trans ?_)
  unfold runSend
  rw [if_neg (by simp [hs]), hx]
  rfl

variable (hdrain : (taskStage s t).drain = false)
include hdrain

/-- A row that its keys, its layout and the peer table send to the peers of some places joins their bytes (R160). -/
theorem exchSend_routes {l : Layout} {row : List Elem} {places : List Nat}
    (hl : l = (inLayout (taskImg s t) t.stage (sendKeys s t).length).getD noLayout) (hopen : StillOpen t)
    (hready : rowsReady t = 1) (hrow : [row] = frontRows t 1) (hshort : longKey (sendKeys s t) row = none)
    (hplaces : rowPeers x (taskOperand s t) (sendKeys s t) l row = some places) (hnodup : places.Nodup)
    (hpeers : ∀ p ∈ x.peers, p.closed = false ∧ p.opened = false ∧ p.buf.length < 131072) :
    Reaches (.exchSend slot) s fun u => (∃ t', taskAt u slot = some t' ∧ Took t t' 1) ∧
      ∃ x', xsendOf u t.jid t.stage = some x' ∧ ∀ i p, x.peers[i]? = some p → ∃ p', x'.peers[i]? = some p' ∧
        p'.buf = p.buf ++ (if i ∈ places then (row.getD (sendKeys s t).length none).getD [] else []) := by
  subst hl
  have hkeyed := takeKeyed_rows (taken := t.eng.a) (ks := sendKeys s t) h.task hdrain
    (by simp [hready, ← hrow, findLong, hshort])
  rw [hready, ← hrow] at hkeyed
  obtain ⟨hjs, x', hx', hjoin⟩ := addRow_joins places ((row.getD (sendKeys s t).length none).getD [])
    (s := takesRows slot 1 s) hx hnodup fun p hp => (hpeers p hp).1
  have hroom : (x.peers.all fun p => p.closed || p.buf.length < 131072) = true := List.all_eq_true.mpr fun p hp => by
    simp [hpeers p hp]
  have htakes : sendTakes slot t x (taskOperand s t) (sendKeys s t)
      ((inLayout (taskImg s t) t.stage (sendKeys s t).length).getD noLayout) s =
      addRow t places ((row.getD (sendKeys s t).length none).getD []) (takesRows slot 1 s) := by
    unfold sendTakes
    rw [if_pos hroom, hkeyed]
    unfold routeRows
    rw [hplaces]
    rfl
  have ht := (taskAt_of_tasks (congrArg (·.tasks) hjs) slot).trans (taskAt_takesRows h.task 1)
  have hrest : ∀ p ∈ x'.peers, PeerRests x' p := by
    intro p hp
    obtain ⟨i, hi⟩ := List.mem_iff_getElem?.mp hp
    rw [hjoin, Option.map_eq_some_iff] at hi
    obtain ⟨p', hp', rfl⟩ := hi
    obtain ⟨-, ho, -⟩ := hpeers p' (List.mem_of_getElem? hp')
    exact .inr (.inl ho)
  have hlast : insDone (rowsTaken 1 t) = false := by
    obtain ⟨p, hp, hend⟩ := hopen
    exact insDone_of_stillOpen ⟨_, List.mem_map_of_mem hp, hend⟩
  have hpumps := sendPumps_rests x.peers.length ht h.running hx' hrest
  rw [if_neg (by simp [hlast])] at hpumps
  refine ⟨_, (exec_exchSend_started h hs hx).trans (next_of_eq ((congrArg _ htakes).trans hpumps)), ⟨_, ht, rfl⟩, x', hx',
    fun i p hp => ⟨_, by rw [hjoin, hp]; rfl, rfl⟩⟩

/-- An EXCH_SEND whose input is done and whose peers have all ended, with all acknowledged, ends (R168). -/
theorem exchSend_ends (hdone : insDone t = true) (hw1 : 1 ≤ x.width) (hw2 : x.width ≤ 65536)
    (hpeers : ∀ p ∈ x.peers, p.closed = true ∨ (p.ended = true ∧ p.unacked = 0 ∧ p.buf = [])) :
    Reaches (.exchSend slot) s fun u => xsendOf u t.jid t.stage = none ∧
      ∃ t', taskAt u slot = some t' ∧ t'.eng.done = true ∧ ∀ o ∈ t'.outs, o.ended = true := by
  have hrest : ∀ p ∈ x.peers, PeerRests x p := fun p hp =>
    (hpeers p hp).imp id fun ⟨hended, _, hbuf⟩ => .inr ⟨hended, hbuf, segBytes_pos hw1 hw2⟩
  have hall : (x.peers.all fun p => p.closed || (p.ended && p.unacked = 0)) = true := List.all_eq_true.mpr fun p hp => by
    rcases hpeers p hp with hc | ⟨hended, hunacked, -⟩
    · simp [hc]
    · simp [hended, hunacked]
  have hkeyed := takeKeyed_rows (taken := t.eng.a) (ks := sendKeys s t) h.task hdrain
    (by rw [rowsReady_of_insDone hdone]; rfl)
  rw [rowsReady_of_insDone hdone] at hkeyed
  have htakes : sendTakes slot t x (taskOperand s t) (sendKeys s t)
      ((inLayout (taskImg s t) t.stage (sendKeys s t).length).getD noLayout) s = s := by
    unfold sendTakes
    split
    · rw [hkeyed]
      exact takesRows_zero h.sorted h.task
    · rfl
  have hpumps := sendPumps_rests x.peers.length h.task h.running hx hrest
  rw [if_pos (by simp [hdone, hall])] at hpumps
  exact ⟨_, (exec_exchSend_started h hs hx).trans (next_of_eq ((congrArg _ htakes).trans hpumps)),
    find?_filter_not _ _, stageDone_ends h.task⟩

end

/-! ### OPEN again, and a zone that has not opened (R165) -/

section
variable {s : State} {slot peer : Nat} {t : Task} {x : XSend} {p : TxPeer} (hmode : s.mode ≠ .hold) (ht : taskAt s slot = some t)
  (hx : xsendOf s t.jid t.stage = some x) (hp : x.peers[peer]? = some p)
include hmode ht hx hp

theorem exec_openRetry : exec (.openRetry slot peer) s = .next
    (if p.again then sendOpen x p (peerMod t.jid t.stage peer (fun p => { p with again := false }) s) else s) := by
  refine next_of_eq ((unlessHold_of_ne hmode).trans ?_)
  rw [ht]
  dsimp only
  rw [hx]
  dsimp only
  rw [hp]

theorem exec_openTimeout : exec (.openTimeout slot peer) s = .next
    (if p.opened || p.closed then s else failTask slot 0x0702 { detail := p.qp, detail2 := x.sender } s) := by
  refine next_of_eq ((unlessHold_of_ne hmode).trans ?_)
  rw [ht]
  dsimp only
  rw [hx]
  dsimp only
  rw [hp]

/-- A peer whose answer was NOT_OPEN is sent its OPEN again, once. -/
theorem openRetry_posts {q : QP} (hagain : p.again = true) (hq : qpAt s p.qp = some q) (herr : q.err = false) :
    Reaches (.openRetry slot peer) s fun u => Posted u p.qp (openOf x p) ∧ ∃ x', xsendOf u t.jid t.stage = some x' ∧
      x'.peers = lmod x.peers peer fun p => { p with again := false } := by
  obtain ⟨hgrow, hpost⟩ := qpSend_posts
    (s := peerMod t.jid t.stage peer (fun p => { p with again := false }) s) hq herr .plain (openOf x p)
  exact ⟨_, (exec_openRetry hmode ht hx hp).trans (next_of_eq (if_pos hagain)), hpost, _,
    (hgrow.xsendOf _ _).trans (xsendOf_peerMod hx peer _), rfl⟩

end

end Sys2Proof.Machine
end


section
/-! PROOFS. EXCH_RECV: how it emits a landed segment and ends (R166). -/

namespace Sys2Proof.Machine

/-- Passing the turn on changes nothing of a zone but the turn. -/
theorem passTurn_eq (n : Nat) (z : Zone) : ∃ turn, passTurn n z = { z with turn := turn } := by
  induction n generalizing z with
  | zero => exact ⟨z.turn, rfl⟩
  | succ n ih =>
    unfold passTurn
    split
    · split
      · obtain ⟨turn, hturn⟩ := ih { z with turn := z.turn + 1 }
        exact ⟨turn, hturn⟩
      · exact ⟨z.turn, rfl⟩
    · exact ⟨z.turn, rfl⟩

/-- A change of a zone that leaves whose it is. -/
theorem zoneAt_zoneMod {s : State} {jid stage : Nat} {z : Zone} {f : Zone → Zone} (hz : zoneAt s jid stage = some z)
    (hf : ∀ y, (f y).jid = y.jid ∧ (f y).stage = y.stage) : zoneAt (zoneMod jid stage f s) jid stage = some (f z) :=
  find?_map_of_kind (p := fun y : Zone => y.jid = jid && y.stage = stage) (fun y => by
    obtain ⟨hj, hst⟩ := hf y
    rw [hj, hst]) hz

/-- The zone of a stage that closes is no more, and its exchange is remembered (R163, R165). -/
theorem closeZone_closes {z : Zone} {jid stage : Nat} (hj : z.jid = jid) (hs : z.stage = stage) (status : Nat) (s : State) :
    zoneAt (closeZone z status s) jid stage = none ∧ (z.inst, z.exchange, status, s.time) ∈ (closeZone z status s).net.closed := by
  subst hj hs
  exact ⟨find?_filter_not _ _, List.mem_cons_self⟩

theorem taskAt_zoneMod (jid stage : Nat) (f : Zone → Zone) (s : State) (k : Nat) :
    taskAt (zoneMod jid stage f s) k = taskAt s k := rfl

theorem taskAt_closeZone (z : Zone) (status : Nat) (s : State) (k : Nat) : taskAt (closeZone z status s) k = taskAt s k := rfl

/-- What an EXCH_RECV does with its zone: the next landed segment is emitted, or a drained zone closes and the stage ends. -/
def zoneTurns (slot : Nat) (t : Task) (z : Zone) (s : State) : State :=
  match nextLanded z with
  | some x => emitLanded slot t z x s
  | none => if zoneDrained z then stageDone slot (closeZone z 2 s) else s

section
variable {s w : State} {slot : Nat} {t : Task} {z y : Zone} (h : StageAt s slot 0x71 t) (hmarks : t.eng.marks = [])
  (hz : zoneAt s t.jid t.stage = some z) (hy : y = passTurn (z.senderCount + 1) z)
  (hw : w = zoneMod t.jid t.stage (fun z => passTurn (z.senderCount + 1) z) (engMod slot (fun g => { g with started := true }) s))
include h hmarks hz hy hw

/-- With no segment half emitted, the stage turns to its zone. -/
theorem exec_exchRecv : exec (.exchRecv slot) s = .next (zoneTurns slot t y w) := by
  have hzone : zoneAt w t.jid t.stage = some y := by
    subst hy hw
    refine zoneAt_zoneMod (s := engMod slot _ s) hz fun y => ?_
    obtain ⟨turn, hturn⟩ := passTurn_eq (y.senderCount + 1) y
    rw [hturn]
    exact ⟨rfl, rfl⟩
  refine next_of_eq ((h.runs (List.mem_singleton.mpr rfl) _).trans ?_)
  have hfree : freeLanded slot t (engMod slot (fun g => { g with started := true }) s) =
      engMod slot (fun g => { g with started := true }) s := by
    unfold freeLanded
    rw [hmarks]
  unfold runRecv
  dsimp only
  rw [hfree, ← hw, hzone]
  rfl

theorem exchRecv_emits {x : Landed} {b : List Byte} {v : State} (hx : nextLanded y = some x) (hcap : (taskStage s t).outCap = 0)
    (hread : devRead unitExch (.inst t.inst) (z.base + 65536 * (x.slot + 1)) x.len w = (.ok b, v)) :
    StageGoes (.exchRecv slot) s slot fun t' => t'.eng.marks = [x.sender, x.seq] ∧
      Gave t t' ((chunksOf (max 1 ((outLayout (taskImg s t) t.stage 0).getD noLayout).width) b).map fun r => (0, some r)) := by
  have ht := taskAt_engMod h.task fun g => { g with started := true }
  rw [← taskAt_zoneMod t.jid t.stage (fun z => passTurn (z.senderCount + 1) z), ← hw] at ht
  have hstay := workStays_devRead hread
  have hjobs : v.js.jobs = s.js.jobs := hstay.jobs.trans (by rw [hw]; rfl)
  have hbase : y.base = z.base := by
    obtain ⟨turn, hturn⟩ := passTurn_eq (z.senderCount + 1) z
    rw [hy, hturn]
  have ht' := taskAt_engMod ((hstay.taskAt slot).trans ht) fun g => { g with marks := [x.sender, x.seq] }
  obtain ⟨f, hf, honly, hgave⟩ := emitElems_gives (port := 0)
    (es := (chunksOf (max 1 ((outLayout (taskImg s t) t.stage 0).getD noLayout).width) b).map some) ht' h.running h.results
    ((congrArg StageEnt.outCap (taskStage_of_jobs hjobs _)).trans hcap)
  obtain ⟨outs, results, hft⟩ := honly _
  have hrun : zoneTurns slot t y w = taskMod slot f (engMod slot (fun g => { g with marks := [x.sender, x.seq] }) v) := by
    rw [← hf]
    unfold zoneTurns emitLanded
    rw [hx]
    dsimp only
    rw [hbase, hread]
    dsimp only
    rw [taskImg_of_jobs hjobs]
    cases outLayout (taskImg s t) t.stage 0 <;> rfl
  refine ⟨_, (exec_exchRecv h hmarks hz hy hw).trans (next_of_eq hrun), _, taskAt_taskMod ht' f, ?_, ?_⟩
  · rw [hft]
  · rw [List.map_map] at hgave
    exact hgave

theorem exchRecv_ends (hx : nextLanded y = none) (hdrained : zoneDrained y = true) :
    Reaches (.exchRecv slot) s fun u => zoneAt u t.jid t.stage = none ∧ (z.inst, z.exchange, 2, s.time) ∈ u.net.closed ∧
      ∃ t', taskAt u slot = some t' ∧ t'.eng.done = true ∧ ∀ o ∈ t'.outs, o.ended = true := by
  have hmine : z.jid = t.jid ∧ z.stage = t.stage := by simpa using List.find?_some hz
  have hrun : zoneTurns slot t y w = stageDone slot (closeZone y 2 w) := by
    unfold zoneTurns
    rw [hx]
    dsimp only
    rw [if_pos hdrained]
  have hsame : y.jid = z.jid ∧ y.stage = z.stage ∧ y.inst = z.inst ∧ y.exchange = z.exchange := by
    obtain ⟨turn, hturn⟩ := passTurn_eq (z.senderCount + 1) z
    rw [hy, hturn]
    exact ⟨rfl, rfl, rfl, rfl⟩
  obtain ⟨hj, hst⟩ := hmine
  obtain ⟨hyj, hyst, hinst, hexch⟩ := hsame
  obtain ⟨hgone, hclosed⟩ := closeZone_closes (hyj.trans hj) (hyst.trans hst) 2 w
  have htime : w.time = s.time := by rw [hw]; rfl
  rw [hinst, hexch, htime] at hclosed
  have ht := taskAt_engMod h.task fun g => { g with started := true }
  rw [← taskAt_zoneMod t.jid t.stage (fun z => passTurn (z.senderCount + 1) z), ← hw, ← taskAt_closeZone y 2] at ht
  exact ⟨_, (exec_exchRecv h hmarks hz hy hw).trans (next_of_eq hrun), hgone, hclosed, stageDone_ends ht⟩

end

end Sys2Proof.Machine
end


section
/-! PROOFS. Tun and exchange commands complete (O56). -/

namespace Sys2Proof.Machine

/-! ### Requests granted (R346) -/

theorem exec_tunRequest (engine : Fin 4) (write : Bool) (s : State) :
    exec (.tunRequest engine write) s = execTunRequest engine write s := rfl

/-- A grant changes no task. -/
theorem taskAt_granted (side : Nat) (t : Task) (s : State) (k : Nat) : taskAt (granted side t s) k = taskAt s k := rfl

theorem tunRequest_none {s : State} {engine : Fin 4} {write : Bool} (h : nextRequest s engine.val write = none) :
    exec (.tunRequest engine write) s = .next s := by
  rw [exec_tunRequest, execTunRequest, h]

theorem tunRequest_reads {s v : State} {engine : Fin 4} {slot n : Nat} {t : Task} {bs : List Byte}
    (hsort : tsorted s.js.tasks = true) (h : nextRequest s engine.val false = some (slot, t, n))
    (hread : devRead t.unit (.inst t.inst) (t.eng.tun.place t.eng.tun.k) n (granted (2 * engine.val) t s) = (.ok bs, v)) :
    StageGoes (.tunRequest engine false) s slot fun t' => t'.eng.bytes = t.eng.bytes ++ bs ∧
      t'.eng.tun.total = t.eng.tun.total + n := by
  have hrun : exec (.tunRequest engine false) s = .next (sourceRead slot t n (granted (2 * engine.val) t s)) := by
    rw [exec_tunRequest, execTunRequest, h]
    rfl
  exact ⟨_, hrun, sourceRead_joins ((taskAt_granted _ _ _ _).trans (taskAt_of_nextRequest hsort h)) hread⟩

theorem tunRequest_writes {s v : State} {engine : Fin 4} {slot n : Nat} {t : Task}
    (hsort : tsorted s.js.tasks = true) (h : nextRequest s engine.val true = some (slot, t, n))
    (hwrite : TunWrites (granted (2 * engine.val + 1) t s) v t n) :
    StageGoes (.tunRequest engine true) s slot fun t' => t'.eng.bytes = t.eng.bytes.drop n ∧
      t'.eng.tun.total = t.eng.tun.total + n := by
  have hrun : exec (.tunRequest engine true) s = .next (sinkWrite slot t n (granted (2 * engine.val + 1) t s)) := by
    rw [exec_tunRequest, execTunRequest, h]
    rfl
  exact ⟨_, hrun, sinkWrite_leaves ((taskAt_granted _ _ _ _).trans (taskAt_of_nextRequest hsort h)) hwrite⟩

/-! ### The stages on a channel -/

section
variable {s : State} {slot code : Nat} {t : Task} {c : Instr} (h : StageAt s slot code t)
  (hc : (c, code) ∈ [(Instr.source slot, 0x80), (.sinkDevice slot, 0x81), (.sinkHost slot, 0x82)])
include h hc

theorem channel_ends (hs : t.eng.started = true) (hphase : t.eng.tun.phase = .ended)
    (hsource : code = 0x80 → t.eng.bytes.length < outWidth s t) (hsink : code ≠ 0x80 → insDone t = true ∧ t.eng.bytes = []) :
    Reaches c s fun u => od u (tunIdx t) (0x40 + t.sub) = 0 ∧ ∃ t', taskAt u slot = some t' ∧ t'.eng.done = true ∧
      ∀ o ∈ t'.outs, o.ended = true := by
  by_cases hcode : code = 0x80
  · subst hcode
    exact ⟨_, exec_channel h hc, runSource_ends h hs hphase (hsource rfl)⟩
  · obtain ⟨hdone, hbytes⟩ := hsink hcode
    exact ⟨_, (exec_channel h hc).trans (next_of_eq (if_neg hcode)), runSink_ends h hs hphase hdone hbytes⟩

end

/-- Settles O56: each Tun and exchange command completes with its own effect, by the lemma on its stage. -/
theorem tunAndExchangeStagesComplete : Obligations.TunAndExchangeStagesComplete := by
  unfold Obligations.TunAndExchangeStagesComplete
  intro s slot t
  refine ⟨?channel, ?remote, ?descriptors, ?requests, ?sendStart, ?sendRun, ?receive, ?opens⟩
  case channel =>
    intro c code hc h
    refine ⟨fun hs => ⟨_, channel_starts h hc hs, startTun_starts h.task h.op_eq⟩,
      fun hs hphase hsource hsink => channel_ends h hc hs hphase hsource hsink, ?_, ?_⟩
    · rintro rfl hs hphase hcons hcap
      exact ⟨_, exec_channel h hc, runSource_emits h hs hphase hcons hcap⟩
    · intro r hcode hs hphase hopen hone hent hr
      exact ⟨_, (exec_channel h hc).trans (next_of_eq (if_neg hcode)), runSink_takes h hs hphase hopen hone hent hr⟩
  case remote =>
    rintro k v h rfl rfl
    exact ⟨fun hs hq => sinkRemote_starts h hs hq,
      fun hs hone _ hopen hlen hroom => sinkRemote_buffers h hs hone hopen hlen hroom,
      fun q hs hdone hsome hlen hroom hq herr => sinkRemote_writes h hs rfl rfl hdone hsome hlen hroom hq herr,
      fun hs hdone hbytes hb => sinkRemote_ends h hs hdone hbytes hb⟩
  case descriptors =>
    intro code d v hcode h hs
    exact ⟨fun hphase hbytes hhops hread hgood hnext => descriptorFetch_takes h hcode hs hphase hbytes hhops hread hgood hnext,
      fun more hphase hwrite => descriptorWriteback_writes h hcode hs hphase hwrite⟩
  case requests =>
    intro engine n hsort
    exact ⟨fun write hnone => tunRequest_none hnone, fun bs v hnext hread => tunRequest_reads hsort hnext hread,
      fun v hnext hwrite => tunRequest_writes hsort hnext hwrite⟩
  case sendStart =>
    intro a n b0 b v w h hs hbuf hn hhead hsize htable hgood hqps
    exact exchSend_starts hbuf hn hhead hsize htable hgood h hs hqps
  case sendRun =>
    intro x l h hs hx hdrain hl
    exact ⟨fun row places hopen hready hrow hshort hplaces hnodup hpeers =>
        exchSend_routes h hs hx hdrain hl hopen hready hrow hshort hplaces hnodup hpeers,
      fun hdone hw1 hw2 hpeers => exchSend_ends h hs hx hdrain hdone hw1 hw2 hpeers⟩
  case receive =>
    intro z y w h hmarks hz hy hw
    exact ⟨fun x b v hx hcap hread => exchRecv_emits h hmarks hz hy hw hx hcap hread,
      fun hx hdrained => exchRecv_ends h hmarks hz hy hw hx hdrained⟩
  case opens =>
    intro x peer p hmode ht hx hp
    refine ⟨fun hagain q hq herr => openRetry_posts hmode ht hx hp hagain hq herr,
      fun hagain => (exec_openRetry hmode ht hx hp).trans (next_of_eq (if_neg (by simp [hagain]))),
      fun ho hc => (exec_openTimeout hmode ht hx hp).trans (next_of_eq (if_neg (by simp [ho, hc]))),
      fun hoc => (exec_openTimeout hmode ht hx hp).trans (next_of_eq (if_pos (by simpa using hoc)))⟩

end Sys2Proof.Machine
end
